-- ==== Sys2Proof/Word.lean ====
section
/-! DEFINITION. The widths the module counts in, and the plainest arithmetic on them (00_scope.md R11). -/

namespace Sys2Proof

/-- One byte. -/
abbrev Byte := BitVec 8

/-- A byte string, lowest address first (R11). -/
abbrev Bytes := List Byte

/-- A 32-bit register word. -/
abbrev Word := BitVec 32

/-- A 64-bit count or time. -/
abbrev Time := BitVec 64

/-- One Beat in ticks (02_fabric_time.md R46). -/
def ticksPerBeat : Nat := 4096

/-- One microsecond in ticks of 250 ps (02_fabric_time.md R32). -/
def ticksPerUs : Nat := 4000

/-- One second in ticks. -/
def ticksPerSec : Nat := 4000000000

end Sys2Proof
end

