-- ==== Sys2Proof/Syntax.lean ====
section
/-! DEFINITION. The commands of the block: one constructor of `Instr` per row of the opcode table, with the operands
the rule of the row gives it. A mailbox command is the request as the Belfry takes it up (R340, R347); an event carries
what the outside world, or the physical medium, contributes to it. -/

namespace Sys2Proof

/-- Logical core 0 to 127 (R19). -/
abbrev Core := Fin 128
/-- Physical core slot 0 to 135 (R19). -/
abbrev PSlot := Fin 136
/-- Stream slot 0 to 15 (R169). -/
abbrev SlotNo := Fin 16
/-- Fabric port (R3). -/
abbrev Port := Fin 36
/-- Context (R26). -/
abbrev Ctx := Fin 64
/-- Compute die, and the collective engine on it (R269). -/
abbrev Die := Fin 4
/-- Partition (R26). -/
abbrev Part := Fin 4
/-- Controller position index 20d + p (R229). -/
abbrev Pos := Fin 80
/-- Channel MCnn (R22). -/
abbrev Chan := Fin 72
/-- Mailbox (R337). -/
abbrev Mbx := Fin 19

/-- R36: the path a register read comes on. -/
inductive RegPath where
  | pcie
  | smbus
  | mailbox (m : Mbx)
  deriving DecidableEq, Repr

/-- R347, R423: how a mailbox request reached the module. -/
inductive ReqPath where
  | pcie
  | smbus
  | sealed (part : Part)
  deriving DecidableEq, Repr

/-- R340: the request header, without the length, which the fields replace. -/
structure Req where
  mbx  : Mbx
  path : ReqPath
  seq  : BitVec 16
  ctx  : BitVec 8
  irq  : Bool
  deriving DecidableEq, Repr

/-- R360: a setting record. -/
structure Setting where
  key   : BitVec 16
  scope : BitVec 32
  value : BitVec 64
  deriving DecidableEq, Repr

/-- R355: one item of MAP. -/
structure MapItem where
  index : BitVec 32
  entry : BitVec 64
  deriving DecidableEq, Repr

/-- R357: one extent of PEAL_TARGET. -/
structure Extent where
  va    : BitVec 64
  bytes : BitVec 64
  deriving DecidableEq, Repr

/-- R357: one entry of RESTORE. -/
structure RestoreItem where
  src   : BitVec 64
  entry : BitVec 8
  deriving DecidableEq, Repr

/-- R405: the fault-injection descriptor. -/
structure Injection where
  kind       : BitVec 8
  target     : BitVec 16
  sub        : BitVec 32
  addr       : BitVec 64
  count      : BitVec 16
  intervalUs : BitVec 16
  durationUs : BitVec 32
  tFire      : BitVec 64
  deriving DecidableEq, Repr

/-- R423: the commands a SEALED request may carry. `contract` fields follow the same tables as outside. -/
inductive InnerCmd where
  | jobKey (ctx : BitVec 8) (key : Bytes)
  | e2eKey (ctx : BitVec 8) (key : Bytes) (tSwitch : BitVec 64) (members : List (BitVec 32))
  | rotate (ctx : BitVec 8) (kind : BitVec 8) (key : Bytes)
  | secRead (offset : BitVec 32) (n : BitVec 16)
  | ideKey (part stream kset : BitVec 8) (keys : List Bytes)
  | noticeGet (max : BitVec 8) (waitUs : BitVec 32)
  | logRead (fromSeq : BitVec 32) (max : BitVec 16)
  | ledgerTimes (firstStep : BitVec 64) (count digests : BitVec 8)
  | pwrRead
  | other (cmd : BitVec 16)
  deriving DecidableEq, Repr

/-- R38: the content of a time frame; `tx`: when its sender sent it, `rx`: when its sender received the last frame of the
other side, in 1/16 tick. -/
structure TimeFrame where
  master : BitVec 17
  gen    : BitVec 15
  hops   : BitVec 8
  errPs  : BitVec 32
  tx     : BitVec 68
  rx     : BitVec 68
  deriving DecidableEq, Repr

/-- R39: the four timestamps of an exchange, in 1/16 tick, with the parent's error and the filter residual in ps. -/
structure Exchange where
  t1        : BitVec 68
  t2        : BitVec 68
  t3        : BitVec 68
  t4        : BitVec 68
  parentErr : BitVec 32
  residual  : BitVec 16
  deriving DecidableEq, Repr

/-- R458, R460, R463: what the sensors and the governor's open choices contribute at a Beat boundary. -/
structure Sensors where
  volt   : BitVec 16
  curr   : BitVec 16
  power  : BitVec 16
  tj     : Vector (BitVec 8) 4
  tjHub  : BitVec 8
  inlet  : BitVec 12
  outlet : BitVec 12
  dieW   : Vector (BitVec 16) 4
  /-- The frequency step the contract allows on each die (the governor's choice). -/
  step   : Vector (BitVec 4) 4
  /-- The draw that the work in hand asks for, and the draw that the work of the next armed launch time will ask for, in 0.1 W. -/
  demand : BitVec 16
  ahead  : BitVec 16
  /-- The governor could not hold the ramp (R462). -/
  offRamp : Bool
  deriving DecidableEq, Repr

/-- A 256-byte block with the CRC-32C that travels with it (R204). -/
structure Block where
  data : Bytes
  crc  : BitVec 32
  deriving DecidableEq, Repr

/-- R273: what a COLL_CTRL packet carries (its payload layout is not given: assumption log 9). -/
inductive CollCtrl where
  | andBit (b : Bool)
  | bcast (result : Bool) (time : BitVec 40)
  | credit (n : BitVec 8)
  deriving DecidableEq, Repr

/-- R260, R261: a packet. -/
structure Packet where
  ptype    : BitVec 4
  vc       : BitVec 4
  dst      : BitVec 17
  src      : BitVec 17
  dctx     : BitVec 6
  dcgen    : BitVec 16
  sctx     : BitVec 6
  scgen    : BitVec 16
  pgen     : BitVec 8
  hopsLeft : BitVec 7
  detour   : Bool
  e2e      : Bool
  dclass   : Bool
  cls      : BitVec 2
  flood    : Bool
  reqId    : BitVec 16
  /-- ADDR. -/
  addr     : BitVec 48
  psig     : BitVec 6
  core     : BitVec 7
  e2eCtr   : BitVec 64
  /-- NBLK: of a READ_REQ the blocks asked for, else the blocks carried. -/
  nblk     : BitVec 4
  blocks   : List Block
  /-- What a COLL_CTRL packet carries. -/
  ctrl     : Option CollCtrl
  /-- The GCM tag of a packet with E2E = 1 that this module sends (R261, R277). -/
  tag      : Bytes
  deriving DecidableEq, Repr

/-- R189: a COPY that a stream holds fetched and has not issued: the stream's slot and the descriptor's address. -/
structure AheadRef where
  slot : SlotNo
  pc   : BitVec 48
  deriving DecidableEq, Repr

/-- R161: the thread whose group arrives, with what the host's pages gave for blocks of its window. -/
structure GatherIn where
  thread : Fin 8
  host   : List (Nat × Block)
  deriving DecidableEq, Repr

/-- R197, R205: the symbol errors that the second read of a block meets, and the bursts that failed on the link. -/
structure ReadAgain where
  errs      : List (Fin 260 × Byte)
  linkFails : Fin 6
  deriving DecidableEq, Repr

/-- R197, R207: a block to be written, and the bursts that failed on the link. -/
structure BlockOut where
  blk       : Block
  linkFails : Fin 6
  deriving DecidableEq, Repr

/-- R205, R211: the channel whose slot is copied, and the symbol errors that the first and the second read of its blocks meet. -/
structure SlotRead where
  chan : Chan
  err1 : List (Fin 16 × Fin 260 × Byte)
  err2 : List (Fin 16 × Fin 260 × Byte)
  deriving DecidableEq, Repr

/-- R254: what the trailer of a frame carries beside FSEQ: ACK, KEYSLOT and CREDIT. -/
structure Trailer where
  ack     : BitVec 15
  keySlot : Bool
  credit  : Vector Byte 6
  deriving DecidableEq, Repr

/-- R310: the transfer that a chunk belongs to, and the chunk's bytes as they came in. -/
structure ChunkIn where
  transfer : Fin 64
  data     : Bytes
  deriving DecidableEq, Repr

/-- R405, R122: a physical fault that a check of a unit finds. -/
inductive EngFault where
  | residue
  | table
  | permute
  | tree
  deriving DecidableEq, Repr

/-- R86 to R121: physical faults met by a lane-row drain: flips of accumulator, checker or bound entries. -/
inductive DrainFlip where
  | entry (lane : Fin 256) (row : Fin 128) (mask : BitVec 32)
  | check (group : Fin 8) (row : Fin 128) (mask : BitVec 32)
  | bound (group : Fin 8) (row : Fin 128) (mask : BitVec 32)
  deriving DecidableEq, Repr

/-- What a window read brings back for one copy request (R188, R263). -/
inductive CopyData where
  /-- Data from the module itself. `bad1`, `bad2`: indices of the blocks the first and the second read lost in transport. -/
  | local (bad1 bad2 : List Nat)
  /-- Data that the host returned, blocks in order. -/
  | host (blocks : List Block)
  /-- An error completion from the host. -/
  | hostError
  deriving DecidableEq, Repr

/-- R122, R127: the first output element of an MV or a VEC that a check fails: its number in row-major order, and the bits the
faulty unit gave it. -/
structure BadElem where
  elem : Nat
  bits : BitVec 32
  deriving DecidableEq, Repr

/-- R127: the physical faults that a rerun of a held descriptor meets, and what its source blocks in a window bring. -/
structure RerunFault where
  flips  : List DrainFlip
  /-- Quarter-rows whose broadcast fails its parity (R121). -/
  parity : BitVec 4
  /-- Row and group at which the end-of-row tree fails its residue. -/
  tree   : Option (Fin 128 × Fin 8)
  eng    : Option (EngFault × BadElem)
  /-- Blocks of peer and host windows, by block number of the context's address space. -/
  win    : List (Nat × Block)
  deriving DecidableEq, Repr

/-- R51: the armed time whose comparison is evaluated. -/
inductive ArmedRef where
  | stream (c : Core) (s : SlotNo)
  | coll (e : Die) (queued : Fin 12)
  | collWait (e : Die) (running : Fin 4)
  | commit (c : Ctx)
  | quiesce (c : Ctx)
  | resume (c : Ctx)
  | inject (n : Fin 16)
  | e2e (c : Ctx)
  deriving DecidableEq, Repr

/-- R434: the JTAG instructions the rule names. -/
inductive TapInstr where
  | idcode | bypass | samplePreload | extest | debugAccess | traceControl | traceReadout
  deriving DecidableEq, Repr

/-- R449: what wakes a core. -/
inductive WakeCause where
  | time | semaphore | belfry | device
  deriving DecidableEq, Repr

/-- R479: the MCTP control messages the interface answers. -/
inductive MctpControl where
  | setEid (eid : BitVec 8)
  | getEid
  | getVersion
  | getMessageTypes
  | getVendorMessages
  deriving DecidableEq, Repr

/-- R480: what a PLDM request asks for. -/
inductive PldmReq where
  | base
  | numericSensor (n : Fin 10)
  | deviceState
  | healthState
  | fru
  | other (ty : BitVec 6)
  deriving DecidableEq, Repr

/-- R479: the commands of the SMBus Address Resolution Protocol. -/
inductive ArpCmd where
  | prepare
  | reset
  | getUdid
  | assign (addr : BitVec 7)
  deriving DecidableEq, Repr

/-- R181, R173: the rows that issue a descriptor name the core and the stream slot. -/
inductive Instr where
  -- General commands (R353)
  | ping (r : Req) (deadlineUs : BitVec 32)
  | getInfo (r : Req) (select core : BitVec 8)
  | noticeGet (r : Req) (max : BitVec 8) (waitUs : BitVec 32)
  | deviceStart (r : Req) (fabAddr : BitVec 32)
  | deviceStop (r : Req)
  | drain (r : Req) (mode : BitVec 8) (deadlineMs : BitVec 32)
  | drainDeadline
  | partLayout (r : Req) (layout : BitVec 8)
  | selectProfile (r : Req) (profile persist : BitVec 8)
  | lowPower (r : Req) (target : BitVec 8) (retain : BitVec 64) (abandon : Option (Fin 4))
  | wake (r : Req)
  -- Time and fabric commands (R354)
  | timeMaster (r : Req) (epoch : BitVec 64) (gen : BitVec 16)
  | timeConfig (r : Req) (recs : List Setting)
  | routeWrite (r : Req) (first : BitVec 32) (dateline : BitVec 16) (entries : List (BitVec 16))
  | portRetrain (r : Req) (port full : BitVec 8)
  | collStart (r : Req) (engine : BitVec 8) (progVa tLaunch : BitVec 64)
  -- Context and memory commands (R355)
  | ctxOpen (r : Req) (part : BitVec 8) (pmLen : BitVec 32)
  | ctxClose (r : Req)
  | ctxConfig (r : Req) (recs : List Setting)
  | jobConfig (r : Req) (recs : List Setting)
  | map (r : Req) (items : List MapItem)
  | unmap (r : Req) (first count : BitVec 32)
  | memPolicy (r : Req) (recs : List Setting)
  | streamStart (r : Req) (core slot cls role shard pgen : BitVec 8) (descVa recVa : BitVec 64)
  -- Ledger commands (R356)
  | pairSet (r : Req) (peer : BitVec 32) (peerCtx : BitVec 8) (winMgrad winLedger : BitVec 32)
  | absorb (r : Req) (shardId : BitVec 32)
  | downbeatArm (r : Req) (step tLaunch progVa : BitVec 64) (engine : BitVec 8)
  | downbeatResolve (r : Req) (result : BitVec 8) (tCommit : BitVec 64)
  | downbeatAbandon (r : Req) (step : BitVec 64)
  | shardRepair (r : Req) (region : BitVec 8) (chunk : BitVec 32) (partnerChunk : Bytes)
  | shardFill (r : Req) (role region : BitVec 8) (first count win : BitVec 32)
  | quotaSet (r : Req) (quota : BitVec 32)
  | placement (r : Req) (gen accept : BitVec 8)
  | ledgerTimes (r : Req) (firstStep : BitVec 64) (count digests : BitVec 8)
  -- Peal commands (R357)
  | pealArm (r : Req) (step : BitVec 64)
  | pealQuiesce (r : Req) (tq : BitVec 64)
  | pealResume (r : Req) (tr : BitVec 64)
  | pealAbort (r : Req)
  | pealTarget (r : Req) (slot : BitVec 8) (extents : List Extent)
  | pealScan (r : Req) (slots : List (BitVec 64)) (manifests : List Bytes)
  | restore (r : Req) (step : BitVec 64) (items : List RestoreItem) (sources : List Bytes)
  -- Configuration and update commands (R358)
  | cfgBegin (r : Req)
  | cfgWrite (r : Req) (region : BitVec 8) (offset : BitVec 32) (data : Bytes)
  | cfgCommit (r : Req) (abandon : BitVec 8)
  | cfgRead (r : Req) (src region : BitVec 8) (offset : BitVec 32) (n : BitVec 16)
  | cfgSessionTimeout
  | updateWrite (r : Req) (ty : BitVec 8) (offset : BitVec 32) (data : Bytes)
  | updateVerify (r : Req) (ty : BitVec 8) (sigOk : Bool)
  | updateActivate (r : Req) (ty : BitVec 8) (windowMs : BitVec 32)
  | updateStatus (r : Req) (ty : BitVec 8)
  -- Diagnostic, power, operator and security commands (R359)
  | logRead (r : Req) (fromSeq : BitVec 32) (max : BitVec 16)
  | dumpRead (r : Req) (offset : BitVec 32) (n : BitVec 16)
  | lifetimeRead (r : Req) (offset : BitVec 32) (n : BitVec 16)
  | selftest (r : Req) (kind core : BitVec 8) (failing : List (Fin 272))
  | rimshot (r : Req) (d : Injection)
  | ctxRecover (r : Req)
  | pwrRead (r : Req)
  | pwrTenantCap (r : Req) (capW : BitVec 32)
  | opAuth (r : Req) (phase : BitVec 8) (mac : Bytes)
  | opSecretSet (r : Req) (secret : Bytes)
  | opContractSet (r : Req) (fast minute ramp floor : BitVec 32)
  | opContractGet (r : Req)
  | opPwrRead (r : Req)
  | secConf (r : Req) (part enable : BitVec 8)
  | secJobKey (r : Req) (ctx : BitVec 8) (key : Bytes)
  | secE2eKey (r : Req) (ctx : BitVec 8) (key : Bytes) (tSwitch : BitVec 64) (members : List (BitVec 32))
  | secRotate (r : Req) (ctx kind : BitVec 8) (key : Bytes)
  | secAttest (r : Req) (nonce : Bytes) (obj : BitVec 8) (offset : BitVec 32)
  | getKem (r : Req)
  | sessOpen (r : Req) (part : BitVec 8) (ct : Bytes)
  | sealed (r : Req) (sid : BitVec 32) (sseq : BitVec 64) (tagOk : Bool) (iseq : BitVec 16) (ictx : BitVec 8)
      (inner : InnerCmd)
  | sessClose (r : Req) (sid : BitVec 32)
  | secRead (r : Req) (offset : BitVec 32) (n : BitVec 16)
  | secIdeKey (r : Req) (part stream kset : BitVec 8) (keys : List Bytes)
  | secDebugToken (r : Req) (identity : Bytes) (boots scope : BitVec 32) (sigOk : Bool)
  -- Mailbox protocol and registers
  | mbxHandover (m : Mbx)
  | mbxRelease (m : Mbx)
  | requestBufferWrite (m : Mbx) (offset : Fin 8192) (data : Bytes)
  | hubBelfryRst (value : Word)
  | belfryRestartComplete (recordValid : Bool)
  | dumpFlashCopy
  | registerWriteNoEffect (offset value : Word)
  | loRead (path : RegPath) (offset : Word)
  | hiRead (path : RegPath) (offset : Word)
  -- Fabric Time
  | timeFrameSend (p : Port)
  | timeFrame (p : Port) (f : TimeFrame)
  | timeExchange (p : Port) (x : Exchange)
  | acquireLoad (p : Port) (x : Exchange)
  | acquiringTimeout
  | holdover
  | unlocked
  | beatBoundary (m : Sensors)
  | cadEdge
  | cadLost
  | timePpsOut
  | launchFire (a : ArmedRef)
  -- Core streams and engines
  | descriptorFetch (c : Core) (s : SlotNo) (ahead : Bool) (lost : Fin 3)
  | copy (c : Core) (s : SlotNo)
  | copyRequestIssue (c : Core) (id : BitVec 16)
  | copyRequestDone (c : Core) (id : BitVec 16) (n : BitVec 32) (d : CopyData)
  | runAheadRead (c : Core) (x : AheadRef) (n : BitVec 32) (d : CopyData)
  | xlatMissResolved (c : Core) (page : BitVec 27)
  | mma (c : Core) (s : SlotNo)
  | passComplete (c : Core) (parity : BitVec 4)
  | stationaryFillDone (c : Core)
  | drainComplete (c : Core) (flips : List DrainFlip) (treeFault : Option (Fin 128 × Fin 8))
  | mv (c : Core) (s : SlotNo)
  | mvComplete (c : Core) (fault : Option BadElem)
  | vec (c : Core) (s : SlotNo)
  | vecComplete (c : Core) (thread : Fin 8) (fault : Option (EngFault × BadElem))
  | gatherArrival (c : Core) (x : GatherIn)
  | wait (c : Core) (s : SlotNo)
  | signal (c : Core) (s : SlotNo)
  | peerSignalArrival (c : Core)
  | launchAt (c : Core) (s : SlotNo)
  | fence (c : Core) (s : SlotNo)
  | loop (c : Core) (s : SlotNo)
  | branch (c : Core) (s : SlotNo)
  | setbase (c : Core) (s : SlotNo)
  | waitLow (c : Core) (s : SlotNo) (abandon : Option (Fin 4))
  | coreWake (c : Core) (why : WakeCause)
  | endStream (c : Core) (s : SlotNo)
  | replayResult (c : Core) (n : Fin 4) (f : RerunFault)
  | replaySlotTimeout (c : Core) (n : Fin 4)
  | coreRetire (c : Core)
  | auditStart (c : Ctx)
  | auditComplete (c : Ctx) (grads : List Bytes) (digest : Bytes)
  -- Memory
  | memoryRead (p : Pos) (j : Fin 16252928) (epoch : Bool) (ctx : Option Ctx) (gen : BitVec 16)
      (err1 : List (Fin 260 × Byte)) (again : ReadAgain)
  | memoryWrite (p : Pos) (j : Fin 16252928) (epoch : Bool) (ctx : Option Ctx) (gen : BitVec 16) (x : BlockOut)
  | scrub (p : Pos) (err1 err2 : List (Fin 260 × Byte))
  | crcAttribution (c : Ctx) (va : BitVec 48) (ok1 ok2 : Bool)
  | migrationStart (ch : Chan) (mapOut targetOk : Bool)
  | migrationSlotCopy (x : SlotRead)
  | migrationComplete (ch : Chan) (rate : BitVec 2) (eye : Word)
  | channelFail (ch : Chan)
  -- Fabric packets
  | write (p : Port) (k : Packet) (tagOk : Bool)
  | readReq (p : Port) (k : Packet) (tagOk : Bool)
  | readResp (p : Port) (k : Packet) (tagOk : Bool)
  | compl (p : Port) (k : Packet)
  | signalPacket (p : Port) (k : Packet) (tagOk : Bool)
  | collData (p : Port) (k : Packet) (tagOk : Bool)
  | collCtrl (p : Port) (k : Packet) (tag : BitVec 16) (b : CollCtrl)
  | knell (p : Port) (k : Packet)
  | linkup (p : Port) (k : Packet)
  | link (p : Port) (k : Packet)
  | packetForward (p : Port) (k : Packet)
  | packetAgeDrop (d : Die) (k : Packet)
  | requestTimeout (reqId : BitVec 16)
  -- Fabric links
  | frameReceive (p : Port) (fseq : BitVec 64) (x : Trailer) (symbols : BitVec 16) (good : Bool)
  | frameReplay (p : Port) (fromSeq : BitVec 15)
  | portProbe (p : Port) (partner : Bool)
  | trainingComplete (p : Port) (lanes : BitVec 4) (asym : BitVec 32) (peer : BitVec 17) (peerPort : BitVec 6)
      (secOk : Bool)
  | trainingTimeout (p : Port)
  | relock (p : Port) (regained : Bool)
  | relockExpiry (p : Port)
  | laneEvaluation (p : Port) (bad : BitVec 4)
  | groupLost (g : Fin 9)
  | cblPrsnt (g : Fin 9) (level : Bool)
  | rekey (p : Port)
  | rekeyOverdue (p : Port)
  | checkFailRetrain (p : Port)
  -- Collective engines
  | send (e : Die) (n : Fin 4)
  | recv (e : Die) (n : Fin 4)
  | recvReduce (e : Die) (n : Fin 4)
  | reduceSend (e : Die) (n : Fin 4)
  | recvSend (e : Die) (n : Fin 4)
  | and (e : Die) (n : Fin 4)
  | andDeadline (e : Die) (n : Fin 4)
  | bcast (e : Die) (n : Fin 4)
  | bcastTimeout (e : Die) (n : Fin 4)
  | waitTime (e : Die) (n : Fin 4)
  | collSignal (e : Die) (n : Fin 4)
  | collEnd (e : Die) (n : Fin 4)
  | collRecvTimeout (e : Die) (n : Fin 4)
  -- Step ledger and Peal
  | readyBit (c : Ctx)
  | commit (c : Ctx)
  | digestFormed (c : Ctx)
  | digestRecord (c : Ctx) (rec : Bytes)
  | auditCopyComplete (c : Ctx)
  | shardTransferChunk (c : Ctx) (x : ChunkIn)
  | pealComplete (c : Ctx)
  | pealFail (c : Ctx)
  | quiesceBarrier (c : Ctx)
  | quiesceCapture (c : Ctx)
  | quiesceBound (c : Ctx)
  | quiesceResume (c : Ctx)
  -- Fences, resets and recovery
  | fenceContext (c : Ctx)
  | fenceDrainComplete (c : Ctx)
  | drainOverrun (core : Option Core) (ch : Option Chan) (c : Ctx)
  | computeDieReset (d : Die)
  | bridgeFail (a b : Die)
  | dieReturn (d : Die)
  | selftestComplete (s : PSlot) (pass : Bool)
  | bootComplete (belfryOk hubOk : Bool) (bad : List Pos) (trained : List (Pos × BitVec 2 × Word))
  | linkCredentialSign
  | handoffComplete
  | handoffFail
  | microcodeRollCore (c : Core)
  | phyRollPort (p : Port) (ok : Bool)
  | logFlush
  | lifetimeWrite
  | health
  | chime
  | rimshotFire (n : Fin 16)
  | rimshotMuteEnd (n : Fin 16)
  -- Security
  | sweepPage (p : Part) (badBlocks : List Nat)
  | blankPage (p : Part)
  | e2eKeySwitch (c : Ctx)
  | e2eOldKeyErase (c : Ctx)
  | ideLeaveSecure (p : Part)
  | signatureToken
  | lmsTreeBuilt
  -- Power and pins
  | deviceWake
  | minuteEnd
  | thermtrip (die : Fin 5)
  | pwrEn (level : Bool)
  | pgOut
  | perst (level : Bool) (profSel : BitVec 2) (forceSafe : Bool)
  | vin54 (inRange : Bool)
  | v12Sb (present : Bool)
  | mctpControl (m : MctpControl)
  | pldm (q : PldmReq)
  | mctpVendorMessage (m : Mbx) (image : Bytes)
  | alertResponse
  | tapInstruction (t : TapInstr)
  | reservedOpcode (c : Core) (s : SlotNo)
  | transposerFillDone (c : Core)
  | securityCoreFault
  | retentionSramError
  | ideStreamSecure (p : Part)
  | addressResolutionProtocol (a : ArpCmd)
  | pldmSensorUpdate (readable : Bool)
  deriving DecidableEq, Repr

end Sys2Proof
end

