-- ==== Sys2Proof/Decode.lean ====
section
/-! DEFINITION. The commands that bits of the opcode table spell. No row of the table gives bits: the block has no
instruction words, so no word spells a command. -/

namespace Sys2Proof

/-- The command a word of the table spells: none, since no row of the table gives its command any bits. -/
def decodeTableWord (_nbits _w : Nat) : Option Instr := none

end Sys2Proof
end

