-- ==== Sys2Proof/Machine/Codes.lean ====
section
/-! DEFINITION. Byte strings and the codes the module computes over them: CRC-32C (R204), the Reed-Solomon code of a
half-block (R203), SHA-256 and HMAC-SHA-256 (named by R289 and R347: FIPS 180-4, RFC 2104), Philox4x32-10 (named by
R76). The constants of the named standards stand in assumption log 7. -/

namespace Sys2Proof.Machine

/-- Little-endian bytes of a number (R11). -/
def leBytes : Nat → Nat → Bytes
  | 0, _ => []
  | n + 1, v => BitVec.ofNat 8 v :: leBytes n (v / 256)

/-- The number that little-endian bytes spell (R11). -/
def leNat : Bytes → Nat
  | [] => 0
  | b :: t => b.toNat + 256 * leNat t

/-- Big-endian bytes of a number. -/
def beBytes (n v : Nat) : Bytes := (leBytes n v).reverse

/-- The number that big-endian bytes spell. -/
def beNat (b : Bytes) : Nat := leNat b.reverse

/-- `n` bytes from offset `off`; bytes past the end read as 0. -/
def slice (b : Bytes) (off n : Nat) : Bytes :=
  let t := (b.drop off).take n
  t ++ List.replicate (n - t.length) 0

/-- A string cut or zero-padded to `n` bytes. -/
def fit (n : Nat) (b : Bytes) : Bytes := slice b 0 n

/-- `b` with the bytes of `d` laid over it from `off`. -/
def overlay (b : Bytes) (off : Nat) (d : Bytes) : Bytes := fit off b ++ d ++ b.drop (off + d.length)

/-- Bits [hi:lo] of a number. -/
def field (v lo width : Nat) : Nat := v / 2 ^ lo % 2 ^ width

/-- A `width`-bit two's complement field as an integer. -/
def signed (v width : Nat) : Int := if v < 2 ^ (width - 1) then (v : Int) else (v : Int) - 2 ^ width

/-- The low `width` bits of an integer. -/
def wrapInt (width : Nat) (i : Int) : Nat := (i % (2 ^ width : Nat)).toNat

/-- Cut a string into pieces of `n` bytes, `fuel` at most. -/
def chunksOf (n : Nat) : Nat → Bytes → List Bytes
  | 0, _ => []
  | fuel + 1, b => if b.isEmpty then [] else b.take n :: chunksOf n fuel (b.drop n)

/-! ### CRC-32C (R204) -/

/-- One bit of the reflected division by 0x82F6_3B78. -/
def crcBit (c : BitVec 32) : BitVec 32 := if c.getLsbD 0 then (c >>> 1) ^^^ 0x82F63B78 else c >>> 1

/-- One byte, least significant bit first. -/
def crcByte (c : BitVec 32) (b : Byte) : BitVec 32 :=
  crcBit (crcBit (crcBit (crcBit (crcBit (crcBit (crcBit (crcBit (c ^^^ b.setWidth 32))))))))

/-- R204: the CRC-32C of a byte string. -/
def crc32c (b : Bytes) : BitVec 32 := b.foldl crcByte 0xFFFFFFFF ^^^ 0xFFFFFFFF

/-! ### RS(130,128) over GF(2^8) (R203) -/

/-- Multiplication by alpha = 0x02 modulo 0x11D. -/
def gfDouble (a : BitVec 8) : BitVec 8 := if a.getLsbD 7 then (a <<< 1) ^^^ 0x1D else a <<< 1

/-- Product in GF(2^8), by the bits of the second factor, most significant first. -/
def gfMul (a b : BitVec 8) : BitVec 8 :=
  (List.range 8).foldl (fun acc i => let d := gfDouble acc
    if b.getLsbD (7 - i) then d ^^^ a else d) 0

/-- The syndromes of a codeword of 130 symbols, first symbol the coefficient of x^129: values at alpha^0 and alpha^1. -/
def rsSyndromes (w : List (BitVec 8)) : BitVec 8 × BitVec 8 :=
  (w.foldl (fun a b => a ^^^ b) 0, w.foldl (fun a b => gfDouble a ^^^ b) 0)

/-- The check bytes of a half: the remainder of d(x) x^2 by (x + 1)(x + alpha), coefficient of x first. -/
def rsCheck (d : List (BitVec 8)) : BitVec 8 × BitVec 8 :=
  -- g(x) = x^2 + 3 x + 2
  d.foldl (fun (r1, r0) b => let f := r1 ^^^ b
    (r0 ^^^ (gfDouble f ^^^ f), gfDouble f)) (0, 0)

/-- R205: the position (0 first) and value of the one symbol in error, if the syndromes locate one. -/
def rsLocate (s0 s1 : BitVec 8) : Option (Nat × BitVec 8) :=
  if s0 = 0 then none
  else ((List.range 130).foldl (fun (st : BitVec 8 × Option Nat) i =>
      let (p, f) := st
      (gfDouble p, if f.isNone && (gfMul p s0 == s1) then some (129 - i) else f)) (1, none)).2.map fun k => (k, s0)

/-! ### SHA-256 -/

/-- The largest `r` below `2^b` above `acc` with `r^k ≤ n`, bit by bit from bit `b - 1`. -/
def rootFloor (k n : Nat) : Nat → Nat → Nat
  | 0, acc => acc
  | b + 1, acc => rootFloor k n b (if (acc + 2 ^ b) ^ k ≤ n then acc + 2 ^ b else acc)

/-- The first 64 primes. -/
def shaPrimes : List Nat :=
  (List.range 312).filter fun p => decide (2 ≤ p) && (List.range p).all fun d => decide (d < 2) || p % d != 0

/-- The first 32 bits of the fraction of the `k`-th root of a prime, from which SHA-256 takes its constants. -/
def rootBits (k p : Nat) : BitVec 32 := BitVec.ofNat 32 (rootFloor k (p * 2 ^ (32 * k)) 36 0)

/-- The round constants: cube roots of the 64 primes. -/
def shaK : List (BitVec 32) := shaPrimes.map (rootBits 3)

/-- The initial hash: square roots of the first eight primes. -/
def shaInit : List (BitVec 32) := (shaPrimes.take 8).map (rootBits 2)

/-- A word turned right by the amounts of a list, the results added without carry. -/
def spin (l : List Nat) (w : BitVec 32) : BitVec 32 := l.foldl (fun acc i => acc ^^^ w.rotateRight i) 0

/-- The word of the message schedule that follows those given, newest first. -/
def shaNext (w : List (BitVec 32)) : BitVec 32 :=
  match w.drop 1, w.drop 6, w.drop 14 with
  | y :: _, m :: _, o :: e :: _ => (spin [17, 19] y ^^^ (y >>> 10)) + m + (spin [7, 18] o ^^^ (o >>> 3)) + e
  | _, _, _ => 0

/-- The hash held as two histories of four words each, newest first: the half that takes the choice and the half that takes the
majority. -/
structure ShaHalves where
  maj : List (BitVec 32)
  cho : List (BitVec 32)

/-- One round, with the sum of its constant and its word: each half takes a new word and loses its oldest. -/
def shaRound (v : ShaHalves) (kw : BitVec 32) : ShaHalves :=
  match v.maj, v.cho with
  | [a, b, c, d], [e, f, g, h] =>
    let t := h + kw + spin [6, 11, 25] e + (g ^^^ (e &&& (f ^^^ g)))
    { maj := [t + spin [2, 13, 22] a + ((a &&& b) ||| (c &&& (a ||| b))), a, b, c], cho := [d + t, e, f, g] }
  | _, _ => v

/-- One block of 64 bytes folded into the hash. -/
def shaBlock (st : List (BitVec 32)) (blk : Bytes) : List (BitVec 32) :=
  let first := ((chunksOf 4 16 blk).map fun b => BitVec.ofNat 32 (beNat b)).reverse
  let sched := (List.range 48).foldl (fun w _ => shaNext w :: w) first
  let v := (shaK.zip sched.reverse).foldl (fun v p => shaRound v (p.1 + p.2)) { maj := st.take 4, cho := st.drop 4 }
  List.zipWith (· + ·) st (v.maj ++ v.cho)

/-- SHA-256 of a byte string: the bit 1, zeros and the length in bits make it whole blocks. -/
def sha256 (m : Bytes) : Bytes :=
  let blocks := m.length / 64 + (if m.length % 64 < 56 then 1 else 2)
  let whole := fit (64 * blocks - 8) (m ++ [0x80]) ++ beBytes 8 (8 * m.length)
  ((chunksOf 64 blocks whole).foldl shaBlock shaInit).flatMap fun w => beBytes 4 w.toNat

/-- HMAC-SHA-256. -/
def hmac256 (key msg : Bytes) : Bytes :=
  let k := fit 64 (if key.length > 64 then sha256 key else key)
  sha256 (k.map (· ^^^ 0x5c) ++ sha256 (k.map (· ^^^ 0x36) ++ msg))

/-- R421, R432: 32 bytes of HKDF-SHA-256: extract under `salt`, then one block of expansion with `info`. -/
def hkdf256 (secret salt info : Bytes) : Bytes := hmac256 (hmac256 salt secret) (info ++ [1])

/-! ### Philox4x32-10 (R76) -/

/-- One round on a counter with a key. -/
def philoxRound (c : List (BitVec 32)) (k0 k1 : BitVec 32) : List (BitVec 32) :=
  let p0 := 0xD2511F53 * (c.getD 0 0).toNat
  let p1 := 0xCD9E8D57 * (c.getD 2 0).toNat
  [BitVec.ofNat 32 (p1 / 2 ^ 32) ^^^ c.getD 1 0 ^^^ k0, BitVec.ofNat 32 p1,
   BitVec.ofNat 32 (p0 / 2 ^ 32) ^^^ c.getD 3 0 ^^^ k1, BitVec.ofNat 32 p0]

def philoxRounds : Nat → List (BitVec 32) → BitVec 32 → BitVec 32 → List (BitVec 32)
  | 0, c, _, _ => c
  | n + 1, c, k0, k1 => philoxRounds n (philoxRound c k0 k1) (k0 + 0x9E3779B9) (k1 + 0xBB67AE85)

/-- R76: the random word of the element at linear index `idx`. -/
def randomWord (seed : BitVec 64) (stream : BitVec 32) (idx : Nat) : BitVec 32 :=
  let q := idx / 4 % 2 ^ 46
  let out := philoxRounds 10 [BitVec.ofNat 32 q, BitVec.ofNat 32 (q / 2 ^ 32), stream, 0]
    (seed.setWidth 32) ((seed >>> 32).setWidth 32)
  out.getD (idx % 4) 0

/-! ### The code of a memory block (R203, R205) -/

/-- Multiplication by alpha in GF(2^8) with field polynomial 0x11D. -/
def gfX (a : BitVec 8) : BitVec 8 := if a.msb then (a <<< 1) ^^^ 0x1D else a <<< 1

/-- `a` times alpha^n. -/
def gfPow : Nat → BitVec 8 → BitVec 8
  | 0, a => a
  | n + 1, a => gfPow n (gfX a)

/-- Symbol errors of a read: symbol number (130 to a half: 128 data bytes, 2 check bytes) and what is xored in. -/
abbrev SymErr := List (Nat × BitVec 8)

/-- R203: the two syndromes of a half, which the errors alone decide: symbol k is the coefficient of x^(129 - k). -/
def syndromes (e : SymErr) : BitVec 8 × BitVec 8 :=
  e.foldl (fun q p => (q.1 ^^^ p.2, q.2 ^^^ gfPow (129 - p.1) p.2)) (0, 0)

/-- R205: what is left of the errors of a half after correction, and whether a symbol was corrected; none: uncorrectable. -/
def correctHalf (e : SymErr) : Option (SymErr × Bool) :=
  let q := syndromes e
  if q.1 = 0 ∧ q.2 = 0 then some (e, false)
  else if q.1 = 0 then none
  else ((List.range 130).find? fun k => gfPow (129 - k) q.1 == q.2).map fun k => (e ++ [(k, q.1)], true)

/-- The errors of one half. -/
def halfOf (e : SymErr) (h : Nat) : SymErr := (e.filter fun p => p.1 / 130 == h).map fun p => (p.1 % 130, p.2)

/-- R205: what one read leaves of the errors of half `h`, whether a symbol was corrected, and whether the half is uncorrectable. -/
def readHalf (e : SymErr) (h : Nat) : SymErr × Bool × Bool :=
  match correctHalf (halfOf e h) with
  | some a => (a.1, a.2, false)
  | none => (halfOf e h, false, true)

/-- R205: the same of a block, with the number of symbols corrected: each half is corrected by itself. -/
def correctBlock (e : SymErr) : SymErr × Nat × Bool :=
  let a := readHalf e 0
  let b := readHalf e 1
  (a.1 ++ b.1.map (fun p => (p.1 + 130, p.2)), a.2.1.toNat + b.2.1.toNat, a.2.2 || b.2.2)

/-- What the errors of a block do to its data byte `i`. -/
def errAt (e : SymErr) (i : Nat) : BitVec 8 :=
  (e.filter fun p => p.1 == i / 128 * 130 + i % 128).foldl (fun a p => a ^^^ p.2) 0

/-- The data of a block with its errors. -/
def withErrs (e : SymErr) (d : Bytes) : Bytes := ((List.range d.length).zip d).map fun p => p.2 ^^^ errAt e p.1

end Sys2Proof.Machine
end

