-- ==== Sys2Proof/Machine/State.lean ====
section
/-! DEFINITION. Everything the specification gives the module to hold, as plain data, with the queue of waiting
commands. Registers whose value is a function of other state (a status word, a capability descriptor) are computed in
Machine/Registers.lean and not stored. -/

namespace Sys2Proof.Machine

/-- Finite map by number, in ascending key order. -/
abbrev AMap (α : Type) := List (Nat × α)

/-- Byte memory: the cells that differ from zero, addresses strictly rising (assumption log 3). -/
abbrev Memory := List Host.Cell

/-- The canonical form of a byte memory: strictly rising addresses, no zero byte listed. -/
def memoryWf : Memory → Bool
  | [] => true
  | [(_, v)] => v != 0
  | (a, v) :: (b, w) :: t => (v != 0) && decide (a < b) && memoryWf ((b, w) :: t)

/-- R58, R59: the value of an element: NaN, an infinity, or `(-1)^neg * m * 2^e`, with `m = 0` a signed zero. -/
inductive Val where
  | nan
  | inf (neg : Bool)
  | num (neg : Bool) (m : Nat) (e : Int)
  deriving DecidableEq, Repr

/-! ### Ordering options (00_scope.md R1, R10) -/

/-- The fused options. -/
structure Options where
  /-- F24 in place of F36. -/
  f24        : Bool
  /-- M54 in place of M72. -/
  m54        : Bool
  /-- The S option. -/
  conf       : Bool
  stepLetter : BitVec 4
  stepDigit  : BitVec 4
  /-- Fused spare slots of each die (R19). -/
  spares     : List Nat
  /-- DEBUG_OPEN fuse (R433). -/
  debugOpen  : Bool
  deriving DecidableEq, Repr

/-! ### Device, maps and pins (01, 13, 14, 17) -/

/-- R349. -/
inductive DevState where
  | cold | booting | standby | ready | running | draining | fenced | recovering | updating | lowPower
  deriving DecidableEq, Repr

/-- R24, R383: `testing`: out of service while its slot is reset and tested and no spare is free. -/
inductive CoreStatus where
  | unmapped | inService | retired | testing
  deriving DecidableEq, Repr

/-- R24: an entry of HUB_CORE_MAP_n. -/
structure CoreEntry where
  phys   : Nat
  status : CoreStatus
  deriving DecidableEq, Repr

/-- R24: STATE of HUB_CHAN_MAP_n. -/
inductive ChanStatus where
  | unmapped | inService | migrating | mappedOut
  deriving DecidableEq, Repr

/-- R24: an entry of HUB_CHAN_MAP_n. -/
structure ChanEntry where
  ctrl   : Nat
  status : ChanStatus
  deriving DecidableEq, Repr

/-- R470, R471: the pins, as levels; a pin named with # is active low. -/
structure Pins where
  perst     : Bool
  pwrEn     : Bool
  pgOut     : Bool
  profSel   : BitVec 2
  forceSafe : Bool
  thermtrip : Bool
  pps       : Bool
  /-- CBL_PRSNT# of each connector: high is absent. -/
  cbl       : Vector Bool 9
  vin54     : Bool
  v12sb     : Bool
  deriving DecidableEq, Repr

/-- R372: UPDATE_PHASE and the work of a live update, for one image type. -/
structure Image where
  /-- Copy in force: false = A. -/
  copyB     : Bool
  version   : BitVec 32
  floor     : BitVec 32
  digest    : Bytes
  staged    : Bytes
  verified  : Bool
  stagedVer : BitVec 32
  stagedFloor : BitVec 32
  stagedDigest : Bytes
  revoke    : BitVec 8
  phase     : BitVec 8
  done      : BitVec 16
  pending   : List Nat
  result    : BitVec 8
  /-- Activated, in force from the next device reset, or from when its last unit converts (R441, R375, R376). -/
  atReset   : Bool
  deriving DecidableEq, Repr

/-- R395 to R407: the hub's own state. -/
structure Hub where
  mapGen    : BitVec 32
  /-- HUB_MAP_GEN when the capability descriptors were last written (R191). -/
  capGen    : BitVec 32
  coreMap   : Vector CoreEntry 128
  chanMap   : Vector ChanEntry 72
  layout    : BitVec 2
  conf      : BitVec 4
  /-- HUB_DEV_STATE.STATE as shown. -/
  dev       : DevState
  /-- What R350 decides the shown state from. -/
  started   : Bool
  fenced    : Bool
  belfryDown : Bool
  /-- No verified Belfry image: the boot ROM serves (R349). -/
  bootRom   : Bool
  updating  : Bool
  draining  : Bool
  low       : Bool
  diesDown  : BitVec 4
  profile   : BitVec 2
  safe      : Bool
  cfgCopyB  : Bool
  cfgDefault : Bool
  chime     : BitVec 32
  causeDev  : BitVec 4
  causeBelfry : BitVec 4
  bCount    : BitVec 8
  /-- Tick count of the last accepted Belfry restart, if any (R393). -/
  lastRestart : Option Nat
  /-- Tick count at the last device reset, from which UPTIME_MS counts. -/
  bootAt    : Nat
  /-- R464: the module is off until PWR_EN is cycled. -/
  tripped   : Bool
  /-- Spare slots not retired and not in service. -/
  slotRetired : List Nat
  slotTesting : List Nat
  /-- Slots with a retirement verdict that have not been retired yet, with its cause (R128, R132). -/
  retire    : AMap (BitVec 8)
  /-- A drain command in progress: its request and its MODE (R353). -/
  drainReq  : Option (Req × Nat)
  /-- R451: target of a device low-power state and the stage banks kept. -/
  lpTarget  : BitVec 2
  retain    : BitVec 32
  wakeReq   : Option (Req × Nat)
  /-- A handoff in progress (R373). -/
  handoff   : Bool
  /-- An UPDATE_ACTIVATE in progress: its request, type, and the tick at which its window ends (R373). -/
  actReq    : Option (Req × Nat × Nat)
  /-- R375: slots that run new microcode while some unit does not. -/
  newSlots  : List Nat
  /-- 1 = debug token accepted (R433). -/
  token     : Bool
  /-- R480: the numeric sensors as last refreshed: input power, voltage and current, coolant inlet and outlet, the four
  compute-die junctions, the hub junction. -/
  pldm      : Vector (BitVec 32) 10
  /-- R480: the numeric sensors could be read at the last refresh. -/
  pldmOk    : Bool
  /-- R480: device state and health as last refreshed. -/
  pldmDev   : BitVec 8
  pldmHealth : BitVec 8
  /-- R479: MCTP endpoint, 0 while none is assigned. -/
  eid       : BitVec 8
  /-- R479: the address has been resolved by ARP. -/
  arpDone   : Bool
  deriving DecidableEq, Repr

/-! ### Fabric Time (02) -/

/-- R41. -/
inductive TimeState where
  | unset | acquiring | locked | unlocked
  deriving DecidableEq, Repr

/-- R55: the time block. -/
structure TimeBlock where
  now         : BitVec 64
  st          : TimeState
  holdover    : Bool
  cadLocked   : Bool
  cadLost     : Bool
  master      : Bool
  /-- Error estimate in units of 10^-6 ps; ERR_EST shows whole ps. -/
  err         : Nat
  errValid    : Bool
  masterAddr  : BitVec 17
  gen         : BitVec 15
  parent      : Option Nat
  hadParent   : Bool
  hops        : BitVec 8
  offset      : BitVec 32
  lateLaunch  : BitVec 32
  unlockCount : BitVec 32
  parentChanges : BitVec 32
  conflict    : BitVec 32
  cadEnable   : Bool
  cadFalling  : Bool
  cadDiv      : BitVec 8
  cadStagger  : BitVec 16
  cadPeriod   : BitVec 32
  cadLast     : BitVec 64
  cadReject   : BitVec 32
  ppsEnable   : Bool
  ppsWidth    : BitVec 8
  /-- Conflicting master addresses already counted (R39). -/
  seen        : List Nat
  /-- Remaining slew in ticks, signed (R35). -/
  slew        : Int
  /-- Consecutive exchanges of at most 10 ns (R41). -/
  good        : Nat
  /-- TIME_NOW when the parent's last frame arrived. -/
  parentFrame : BitVec 64
  /-- Beats spent in ACQUIRING are counted from this TIME_NOW. -/
  acqStart    : BitVec 64
  /-- R48: accepted edges, newest first, at most 8, the count towards lock and the divider. -/
  edges       : List (BitVec 64)
  cadGood     : Nat
  divCount    : Nat
  /-- Cadence slots still ahead (R48): the Beat boundaries at which they come, oldest edge first. -/
  slots       : List (BitVec 64)
  /-- The next predicted edge from which a slot is generated while the cadence is lost (R48). -/
  cadNext     : BitVec 64
  deriving DecidableEq, Repr

/-- R36: one unconsumed latch: path, offset of the _LO half, upper half. -/
structure Latch where
  path : RegPath
  off  : BitVec 32
  hi   : BitVec 32
  deriving DecidableEq, Repr

/-- R51: what a comparison decides. -/
inductive Launch where
  | wait | onTime | late
  deriving DecidableEq, Repr

/-- R51: an armed 40-bit time. -/
structure Armed where
  t      : BitVec 40
  /-- What the first evaluation found; none: not evaluated yet (R42, R330). -/
  seen   : Option Launch
  /-- Held at a quiesce barrier (R330). -/
  held   : Bool
  deriving DecidableEq, Repr

/-! ### Cores (03 to 07, 16) -/

/-- R169. -/
inductive StreamState where
  | idle | running | halted | stopping
  deriving DecidableEq, Repr

/-- R182: one loop level. -/
structure LoopLevel where
  active : Bool
  ctr    : BitVec 32
  owner  : BitVec 48
  entry  : BitVec 48
  /-- First descriptor of the body (R183). -/
  body   : BitVec 48
  deriving DecidableEq, Repr

/-- R170: a fetched descriptor block; no data marks a block whose fetch ahead failed twice. -/
structure Fetched where
  addr : BitVec 48
  data : Option Bytes
  deriving DecidableEq, Repr

/-- What a stream is blocked in. -/
inductive Blocked where
  | wait (sem : Option (BitVec 6)) (acq : Bool) (value : BitVec 32) (time : Option Armed)
  | waitLow (sem : Option (BitVec 6)) (time : Option Armed)
  | launch (time : Armed)
  | fence (ids : List Nat)
  | ending
  deriving DecidableEq, Repr

/-- R234: the work item a stream belongs to. -/
structure Item where
  role  : BitVec 2
  mirror : Bool
  recVa : BitVec 48
  backward : Bool
  step  : BitVec 48
  deriving DecidableEq, Repr

/-- R189: a run-ahead request of a COPY that has been fetched and has not issued. -/
structure AheadReq where
  no   : Nat
  /-- Address of the COPY, the request's number in it, and the addresses of its first row. -/
  pc   : BitVec 48
  req  : Nat
  src  : BitVec 48
  dst  : BitVec 48
  /-- Page whose translation it waits on. -/
  miss : Option Nat
  /-- The reads that leave the module have been sent; those not answered; blocks that have come. -/
  sent : Bool
  acks : Nat
  got  : AMap Block
  /-- Held data. -/
  data : Option (List Block)
  deriving DecidableEq, Repr

/-- R169, R182, R196: a stream slot. -/
structure Stream where
  st     : StreamState
  cls    : BitVec 2
  ctx    : Nat
  pgen   : BitVec 8
  first  : BitVec 48
  pc     : BitVec 48
  loops  : Vector LoopLevel 4
  br     : Vector (BitVec 48) 4
  prog   : BitVec 32
  blocks : List Fetched
  /-- Descriptors issued and not complete. -/
  inflight : List Nat
  blocked : Option Blocked
  /-- Number of the control descriptor the stream is blocked in. -/
  blockId : Nat
  /-- A LAUNCH_AT has come due and its descriptor issues next (R181). -/
  due    : Bool
  item   : Option Item
  /-- Number of the MMA issued last (R101). -/
  lastMma : Option Nat
  /-- Run-ahead requests outstanding or held (R189). -/
  ahead  : List AheadReq
  /-- Issue turns for which the stream has been ready and passed over, and the turn in which it issued last (R185). -/
  passed : Nat
  turn   : Option Nat
  deriving DecidableEq, Repr

/-- The facts every descriptor in flight carries: its number, stream slot, address and 256 bits. -/
structure Issued where
  id   : Nat
  slot : Nat
  pc   : BitVec 48
  desc : BitVec 256
  deriving DecidableEq, Repr

/-- R100. -/
inductive BankState where
  | free | filling | kept | draining | held
  deriving DecidableEq, Repr

/-- R100, R118: an accumulator bank with its checker and bound entries; entry (row, lane) at row * 256 + lane. -/
structure Bank where
  st      : BankState
  acc     : AMap (BitVec 32)
  check   : AMap (BitVec 32)
  bound   : AMap (BitVec 32)
  m       : Nat
  n       : Nat
  pair    : BitVec 2
  int     : Bool
  /-- K counted towards the tolerance, in the entries of each quarter-row (R83, R119). -/
  k       : Vector Nat 4
  /-- A releasing VEC has issued (R158). -/
  relIssued : Bool
  /-- Number of the releasing VEC that has completed, while an earlier VEC still names the bank (R158). -/
  relDone : Option Nat
  deriving DecidableEq, Repr

/-- R92, R117: one stationary buffer: the widened column segment of each lane, the row sums of each group by k. -/
structure StatBuf where
  id   : Nat
  pass : Nat
  cols : List (List Val)
  sums : List (List (BitVec 32))
  abss : List (List (BitVec 32))
  deriving DecidableEq, Repr

/-- R98: one transposer buffer: the segments of each row of A of a pass, one per quarter bus group. -/
structure TransBuf where
  id   : Nat
  pass : Nat
  a    : List (List (List Val))
  deriving DecidableEq, Repr

/-- R88: an MMA held by the lane row. -/
structure MmaJob where
  iss      : Issued
  started  : Bool
  pass     : Nat
  /-- The present pass has launched: both of its buffers are full (R94). -/
  going    : Bool
  /-- Quarters failed by broadcast parity in some pass (R121). -/
  parity   : BitVec 4
  draining : Bool
  /-- What the bank held when an MMA with ACC = 1 began on it (R127). -/
  start    : Option Bank
  deriving DecidableEq, Repr

/-- R188: a COPY in flight. -/
structure CopyJob where
  iss     : Issued
  next    : Nat
  total   : Nat
  /-- Requests issued whose data has not been written, or is not acknowledged by a window. -/
  out     : List Nat
  /-- WRITEs of a request that are not acknowledged. -/
  wr      : AMap Nat
  /-- Requests that wait on a translation (R188). -/
  miss    : Option Nat
  /-- Blocks that came back from a peer: block b of request n at 16 n + b. -/
  got     : AMap Block
  /-- Fabric requests sent and not answered. -/
  acks    : Nat
  psigSent : Bool
  failed  : Option (BitVec 8)
  /-- Source and destination base addresses after SRC_BR and DST_BR. -/
  src     : BitVec 48
  dst     : BitVec 48
  /-- Data held by run-ahead. -/
  held    : AMap (List Block)
  deriving DecidableEq, Repr

/-- R145: a tensor record. -/
structure TRec where
  loc : Nat
  fmt : Nat
  mxv : Bool
  ndim : Nat
  base : Nat
  ext : List Nat
  str : List Int
  regLo : Nat
  regHi : Nat
  sbase : Nat
  spitch : Nat
  deriving DecidableEq, Repr

/-- R141, R144, R161: a VEC on a hardware thread. -/
structure VecJob where
  iss  : Issued
  /-- The records of y, a, b and c as read at the start. -/
  recs : List (Option TRec)
  /-- Operation groups whose data from outside the core has arrived (R161). -/
  grp  : Nat
  out  : Bool
  /-- Blocks of the present group that have been asked for and have not arrived, and those that have. -/
  blks : List Nat
  came : List Nat
  /-- What has arrived, by block number. -/
  got  : AMap Block
  /-- WRITEs through a peer window without their answer (R172). -/
  acks : Nat
  /-- Computed: the descriptor completes with the last answer. -/
  ended : Bool
  deriving DecidableEq, Repr

/-- R164: a block request of the gather unit that is outstanding: its block, the thread whose request it is, and what has come
through a peer window. -/
structure GatherReq where
  blk  : Nat
  thr  : Nat
  data : Option Block
  deriving DecidableEq, Repr

/-- R130: an entry of the copy log. -/
structure CopyLog where
  /-- Number of the COPY, while it is in flight or has been (none: out of a Peal). -/
  id      : Option Nat
  desc    : BitVec 256
  src     : BitVec 48
  dst     : BitVec 48
  ctx     : Nat
  refetch : Bool
  /-- Stage blocks that it was the last to write. -/
  blocks  : List Nat
  deriving DecidableEq, Repr

/-- R175: an error of a stream. -/
structure StreamErr where
  stream : Nat
  cause  : BitVec 8
  tag    : BitVec 8
  idx    : BitVec 64
  deriving DecidableEq, Repr

/-- The counters of a core's window that count events (R85, R115, R139, R167, R196, R465). -/
structure CoreCounters where
  fmtSat : BitVec 32
  fmtNan : BitVec 32
  rowCyc : BitVec 64
  passes : BitVec 32
  tiles  : BitVec 32
  lrCrc  : BitVec 32
  macCyc : BitVec 64
  mvCrc  : BitVec 32
  failG  : Vector (BitVec 32) 8
  skip   : BitVec 32
  bcastPar : BitVec 32
  cmp    : BitVec 64
  mvRes  : BitVec 32
  veRes  : BitVec 32
  veTbl  : BitVec 32
  vePerm : BitVec 32
  veTree : BitVec 32
  replay : BitVec 32
  transient : BitVec 32
  input  : BitVec 32
  veGroups : BitVec 64
  veSwitches : BitVec 32
  veCrc  : BitVec 32
  idxOob : BitVec 32
  merged : BitVec 32
  hotBank : BitVec 32
  late   : BitVec 32
  semOvf : BitVec 32
  raDrop : BitVec 32
  ceCrc  : BitVec 32
  ceBytes : BitVec 64
  xlatMiss : BitVec 32
  pwrRes : Vector (BitVec 64) 4
  pwrAborts : BitVec 32
  /-- R195: stall counters, engine e cause c at 16 e + c. -/
  stall  : AMap (BitVec 64)
  deriving DecidableEq, Repr

/-- R446: the power state of a core. -/
inductive PState where
  | run | hold | doze | sleep
  deriving DecidableEq, Repr

/-- The state of one physical core slot. -/
structure PCore where
  ctx      : Option Nat
  /-- Context generation when work began (R169). -/
  gen      : BitVec 16
  seed     : BitVec 64
  sems     : AMap (BitVec 32)
  streams  : Vector Stream 16
  /-- CORE_STREAM_ERR: the error loaded last, and VALID (R175). -/
  err      : Option StreamErr
  errValid : Bool
  errQ     : List StreamErr
  stage    : Memory
  /-- Stored CRC of a stage block xor the CRC of its bytes, where not zero. -/
  stageBad : AMap (BitVec 32)
  cache    : Memory
  cacheBad : AMap (BitVec 32)
  banks    : Vector Bank 2
  lr       : List MmaJob
  stat     : List StatBuf
  trans    : List TransBuf
  mv       : List Issued
  threads  : Vector (Option VecJob) 8
  copies   : List CopyJob
  /-- Number of the COPY whose request issued last (R188). -/
  ceLast   : Option Nat
  /-- Translation cache: pages held, newest first (R188). -/
  xlat     : List Nat
  /-- The last 64 copies that wrote the stage buffer, newest first (R130). -/
  copyLog  : List CopyLog
  nextId   : Nat
  /-- Turns of the ready scheduler so far (R185). -/
  turns    : Nat
  prefer   : BitVec 2
  bankCap  : BitVec 6
  pwrMode  : BitVec 2
  pstate   : PState
  /-- R164, R165: block requests of the gather unit outstanding, and those that wait, by thread and block, oldest first. -/
  gather   : List GatherReq
  gatherQ  : List (Nat × Nat)
  cnt      : CoreCounters
  /-- As `Ctrl.hrCorr`, for CORE_CHK_TRANSIENT (R321). -/
  hrTrans  : List (Nat × Nat)
  foldTrans : BitVec 32
  /-- Issue stopped by a quiesce barrier (R329). -/
  frozen   : Bool
  /-- Sequencer stopped by an injection (R405). -/
  stopped  : Bool
  deriving DecidableEq, Repr

/-- R140: the state of a replay slot. -/
inductive ReplayState where
  | held | running
  deriving DecidableEq, Repr

/-- R140: a replay slot in use. -/
structure Replay where
  iss    : Issued
  idx    : BitVec 56
  cause  : BitVec 8
  unit   : BitVec 8
  row    : BitVec 8
  st     : ReplayState
  kEntry : BitVec 32
  check  : BitVec 32
  bound  : BitVec 32
  tree   : BitVec 32
  values : List (BitVec 32)
  /-- Step of the decision table to be taken next (R128); 0: to be issued again without one (R133). -/
  step   : Nat
  /-- TIME_NOW of the original failure (R131). -/
  since  : BitVec 64
  /-- Other core that runs step 2. -/
  other  : Option Nat
  /-- Banks that the replay has still to find there, and those it has taken (R129, R158). -/
  want   : List Nat
  guest  : List Nat
  /-- What the bank held when a held MMA with ACC = 1 began on it. -/
  start  : Option Bank
  /-- The records of a held VEC. -/
  recs   : List (Option TRec)
  deriving DecidableEq, Repr

/-- R125, R140: what belongs to a logical core and moves with it. -/
structure LCore where
  replay  : Vector (Option Replay) 4
  pending : Bool
  deriving DecidableEq, Repr

/-! ### Memory (08, 15) -/

/-- R229: ROLE of a controller position. -/
inductive Role where
  | inService | spare | migrating | failed
  deriving DecidableEq, Repr

/-- R208, R210, R229: a controller position. -/
structure Ctrl where
  role    : Role
  chan    : Option Nat
  rate    : BitVec 2
  selfRefresh : Bool
  training : Bool
  noSpare : Bool
  corr    : BitVec 32
  uncorr  : BitVec 32
  crcTransport : BitVec 16
  crcMemory : BitVec 16
  metaMiss : BitVec 32
  retrain : BitVec 32
  migPtr  : BitVec 20
  scrubPtr : BitVec 20
  /-- Next block of the slot at MEM_SCRUB_PTR (R209). -/
  scrubBlk : BitVec 4
  rd      : BitVec 64
  wr      : BitVec 64
  eye     : BitVec 32
  /-- Metadata lines cached, newest first within the whole cache, with a dirty mark (R208). -/
  lines   : List (Nat × Bool)
  /-- R210: what each fold has added in the last two hours (tick, amount), newest first, with the counters as last folded. -/
  hrCorr  : List (Nat × Nat)
  hrUncorr : List (Nat × Nat)
  hrCrc   : List (Nat × Nat)
  foldCorr : BitVec 32
  foldUncorr : BitVec 32
  foldCrc : BitVec 16
  /-- R210: a channel action is due: for map-out (true) or for retraining. -/
  due     : Option Bool
  /-- Ticks of the retrainings of the last 24 hours (R210). -/
  retrains : List Nat
  deriving DecidableEq, Repr

/-- R219, R230: one token bucket of a partition. -/
structure Bucket where
  rate     : Nat
  depth    : Nat
  borrow   : Bool
  /-- Tokens of the slice of each die. -/
  tokens   : Vector Int 4
  throttle : BitVec 32
  /-- A slice has held a request in this Beat. -/
  held     : Bool
  deriving DecidableEq, Repr

/-- R210: the memory policy. -/
structure MemPolicy where
  corrRetrain : Nat
  uncorrMapout : Nat
  crcMapout   : Nat
  retrainLimit : Nat
  scrubHours  : Nat
  migrateShare : Nat
  deriving DecidableEq, Repr

/-- R211: a migration in progress. -/
structure Migration where
  chan   : Nat
  source : Nat
  target : Nat
  mapOut : Bool
  deriving DecidableEq, Repr

/-- The memory system. -/
structure Mem where
  /-- Data of every controller position: position i at i * 2^32 + channel byte address. -/
  cells   : Memory
  /-- Stored CRC of a block xor the CRC of its bytes, where not zero; key i * 2^24 + j. -/
  bad     : AMap (BitVec 32)
  /-- Key set a confidential block is stored under; key as `bad` (assumption log 5). -/
  sealKey : AMap Nat
  /-- Unit table: key i * 2^20 + slot (R224). -/
  unit    : AMap (BitVec 32)
  /-- Page Map: entry -> 64 bits (R216). -/
  pmap    : AMap (BitVec 64)
  /-- Window-generation table (R263). -/
  wgen    : AMap (BitVec 16)
  ctrl    : Vector Ctrl 80
  buckets : Vector (Vector Bucket 4) 4
  /-- Pool slice of each die (R219). -/
  pool    : Vector Nat 4
  policy  : MemPolicy
  migs    : List Migration
  /-- Quarantined local pages of each partition with the next block to blank (R417). -/
  quar    : Vector (List Nat) 4
  deriving DecidableEq, Repr

/-! ### Contexts: settings, versions, ledger, Peal (08, 09, 11, 12, 14, 15) -/

/-- R407. -/
inductive CtxStatus where
  | closed | opened | fencing | fenced
  deriving DecidableEq, Repr

/-- R247. -/
inductive VerState where
  | free | writing | written | committed
  deriving DecidableEq, Repr

/-- R299. -/
inductive DbState where
  | idle | armed | voted | commitPending | inDoubt | aborted
  deriving DecidableEq, Repr

/-- R335. -/
inductive PealState where
  | idle | writing | quiescing | quiesced | restoring
  deriving DecidableEq, Repr

/-- Per-context settings of R360 (keys 0x0300-0x0301, 0x0500-0x0503, 0x0600-0x0608, 0x0700-0x0710, 0x0800-0x0806,
0x0900), by key. -/
abbrev Settings := AMap (BitVec 64)

/-- R313: a timing record. -/
structure TimingRec where
  step    : BitVec 48
  tStart  : BitVec 64
  tBwd    : BitVec 64
  tUpd    : BitVec 64
  tReady  : BitVec 64
  tEnd    : BitVec 64
  mbDone  : BitVec 16
  attempts : BitVec 8
  reason  : BitVec 8
  deriving DecidableEq, Repr

/-- R290: a pairing. -/
structure Pairing where
  peer      : BitVec 17
  peerCtx   : BitVec 6
  winMgrad  : BitVec 32
  winLedger : BitVec 32
  deriving DecidableEq, Repr

/-- R310 to R312: a shard transfer in progress. -/
structure Transfer where
  receiver : Bool
  mirror   : Bool
  /-- The whole shard fills a new partner; otherwise a segment is adopted. -/
  fill     : Bool
  first    : Nat
  count    : Nat
  win      : BitVec 32
  /-- Chunks copied. -/
  done     : Nat
  /-- Chunks copied in steps that have committed. -/
  kept     : Nat
  /-- Of an adoption: offset of the segment in the region, and its bytes. -/
  base     : Nat
  bytes    : Nat
  deriving DecidableEq, Repr

/-- R295 to R316: the step ledger of a context. -/
structure Ledger where
  st        : DbState
  ready     : Bool
  veto      : Bool
  reason    : BitVec 8
  attempt   : BitVec 4
  unmirrored : Bool
  filling   : Bool
  absorbed  : Bool
  auditCopy : Bool
  auditHold : Bool
  committed : BitVec 48
  aborts    : BitVec 32
  pgenDrop  : BitVec 32
  recDrop   : BitVec 32
  fillDone  : BitVec 16
  fillTotal : BitVec 16
  accept    : BitVec 256
  step      : BitVec 48
  /-- Some step has been armed since CTX_OPEN or the last RESTORE (R296). -/
  everArmed : Bool
  tLaunch   : BitVec 40
  launched  : Bool
  progVa    : BitVec 48
  engine    : Nat
  commitAt  : Option Armed
  tCommit   : BitVec 40
  bad       : Bool
  abandoned : Bool
  collFailed : Bool
  ownStarted : Bool
  mirrorStarted : Bool
  ownDone   : Bool
  mirrorDone : Bool
  digestDone : Bool
  /-- A region of the step could not be read for its digest (R307). -/
  digestBad : Bool
  /-- R248: the update of the step may be written again: an abort or a fence has stopped it. -/
  redo      : Bool
  own       : Bytes
  mirror    : Bytes
  /-- Chunk digests of the aside regions of the step (R289). -/
  ownChunks : AMap Bytes
  mirrorChunks : AMap Bytes
  /-- R135: digests of the gradient tensors of an audited step, as sent into the exchange. -/
  gradDigests : List Bytes
  /-- The partner's digest record of the step (R292). -/
  partnerRec : Option Bytes
  kept      : AMap Bytes
  keptMirror : AMap Bytes
  pair      : Option Pairing
  pendPair  : Option Pairing
  quota     : BitVec 32
  pendQuota : Option (BitVec 32)
  /-- R300: placement changes that the commit under way brings: generation, and whether it is taken. -/
  pendPgen  : List (BitVec 8 × Bool)
  pendSet   : Settings
  /-- R232: the layer table that the next Downbeat takes. -/
  pendLayers : Option (List (BitVec 256))
  adopted   : BitVec 64
  /-- As `adopted`, of the mirror region (R312). -/
  adoptedMirror : BitVec 64
  absorbId  : BitVec 32
  times     : List TimingRec
  reasons   : List (BitVec 8)
  cleared   : AMap (BitVec 64)
  transfers : List Transfer
  /-- Chunks of an absorbed shard that have moved to their new owners (R312). -/
  moved     : List Nat
  /-- No committed state after a failed RESTORE (R333). -/
  noState   : Bool
  /-- TIME_NOW of the last abort (R305). -/
  abortAt   : BitVec 64
  lastAudit : Option (BitVec 48)
  auditing  : Option (BitVec 48)
  /-- Rotation of the audit that runs (R136). -/
  auditRot  : Option Nat
  /-- Shard digest of the audited step as first executed (R136). -/
  auditDigest : Bytes
  /-- Gradient digests of the audited step as first executed (R135). -/
  auditGrads : List Bytes
  auditSkipped : BitVec 32
  /-- Records of started work items, in order of start (R235). -/
  records   : List (BitVec 48)
  deriving DecidableEq, Repr

/-- R323, R328: a Peal slot of a context. -/
structure PealSlot where
  extents : List Extent
  valid   : Bool
  step    : BitVec 48
  seq     : BitVec 64
  kind    : BitVec 8
  deriving DecidableEq, Repr

/-- R318: an entry of a Peal being written. `segs`: the ranges of module memory that it copies (address, bytes); `data`: what the
Belfry itself writes, where it copies none; `rows`: the chunk table as far as the chunks have been written (R324). -/
structure PealEntry where
  ty     : BitVec 8
  shard  : BitVec 32
  segs   : List (Nat × Nat)
  data   : Bytes
  rows   : List Bytes
  deriving DecidableEq, Repr

/-- R335: the Peal state of a context. -/
structure Peal where
  st       : PealState
  slotNo   : Nat
  slots    : Vector PealSlot 4
  err      : BitVec 8
  done     : BitVec 16
  total    : BitVec 16
  count    : BitVec 32
  fail     : BitVec 32
  predict  : BitVec 32
  skipped  : BitVec 32
  armed    : Option (BitVec 48)
  kind     : BitVec 8
  step     : BitVec 48
  seq      : BitVec 64
  /-- Writes sent and not yet acknowledged (R327). -/
  outst    : Nat
  manifest : Bool
  entries  : List PealEntry
  /-- The entry that is being written (R327). -/
  cur      : Nat
  /-- Blocks of the next chunk whose tokens have been taken (R219). -/
  paid     : Nat
  /-- PEAL_ABORT waits for the writes in flight (R322). -/
  stopping : Bool
  taken    : BitVec 64
  tq       : Option Armed
  tr       : Option Armed
  lastPredict : Option Nat
  deriving DecidableEq, Repr

/-- R419, R426: an end-to-end key slot. -/
structure E2eSlot where
  key     : Bytes
  members : List (BitVec 17)
  deriving DecidableEq, Repr

/-- R277: a replay window: highest counter seen and the counters seen below it. -/
structure Window where
  member : BitVec 17
  slot   : Bool
  high   : Nat
  seen   : List Nat
  deriving DecidableEq, Repr

/-- R412, R416, R426, R445: the security state of a context. -/
structure CtxSec where
  epoch    : Bool
  keys     : Vector (Option Nat) 2
  rotating : Bool
  locked   : Bool
  tags     : List Nat
  job      : Option Bytes
  jobPrev  : Option Bytes
  e2e      : Vector (Option E2eSlot) 2
  e2eCur   : Bool
  e2eSwitch : Option Armed
  /-- The old key has not been erased yet (R426). -/
  e2eErase : Bool
  sendCtr  : Nat
  windows  : List Window
  deriving DecidableEq, Repr

/-- R381: a fence in progress. -/
structure FenceState where
  /-- Requests answered when the drain completes: 0 = CTX_RECOVER, 1 = CTX_CLOSE, 2 = DRAIN. -/
  waiters : List (Nat × Req)
  since   : Nat
  deriving DecidableEq, Repr

/-- One context. -/
structure Context where
  st       : CtxStatus
  cgen     : BitVec 16
  prog     : BitVec 32
  idleBeats : BitVec 32
  completed : Bool
  part     : Nat
  pmBase   : BitVec 18
  pmLen    : BitVec 18
  set      : Settings
  vslots   : Vector (VerState × BitVec 48) 3
  startVer : BitVec 48
  trnBusy  : BitVec 32
  trnStep  : BitVec 48
  layers   : List (BitVec 256)
  led      : Ledger
  peal     : Peal
  sec      : CtxSec
  fence    : Option FenceState
  /-- Domains whose reset keeps the context fenced (R379, R390): dies 0-3, channel 4, core 5. -/
  domains  : BitVec 6
  deriving DecidableEq, Repr

/-! ### Fabric (10) -/

/-- R256. -/
inductive PortState where
  | down | training | upX4 | upX2 | relock | retired
  deriving DecidableEq, Repr

/-- R254 to R257, R283: a port. -/
structure PortBlock where
  st       : PortState
  lanes    : BitVec 4
  perLink  : Bool
  secRefused : Bool
  keyslot  : Bool
  peer     : Option (BitVec 17 × BitVec 6)
  fecCorr  : BitVec 32
  fecUncorr : BitVec 32
  retry    : BitVec 32
  retrain  : BitVec 32
  frames   : BitVec 64
  fseq     : BitVec 64
  asym     : BitVec 32
  rekeys   : BitVec 32
  excluded : BitVec 4
  failedOnce : BitVec 4
  /-- Ticks of the trainings of the last hour (R257). -/
  trains   : List Nat
  rxNext   : BitVec 64
  /-- R253: bytes in use of the last frame sent, 0 when it is full. -/
  fill     : Nat
  /-- R254: credits of 256 bytes held for each virtual channel, and those owed to the partner. -/
  credits  : Vector Nat 6
  owed     : Vector Nat 6
  /-- R275, R276: link keys of each direction by slot, as key numbers, and the slot the partner sends under. -/
  txKeys   : Vector (Option Nat) 2
  rxKeys   : Vector (Option Nat) 2
  rxSlot   : Bool
  /-- R257: lanes for whose errors the port is due for training. -/
  dueLanes : BitVec 4
  /-- R38: when the partner's last time frame arrived, in 1/16 tick. -/
  frameAt  : BitVec 68
  /-- R255: packets sent and not acknowledged, each with the FSEQ of its last frame, newest first. -/
  buf      : List (BitVec 64 × Packet)
  muted    : Bool
  relockAt : Option Nat
  waiting  : Bool
  phyNew   : Bool
  /-- Ticks of the CHECK failures of the last second (R275). -/
  checkFails : List Nat
  /-- As `Ctrl.hrCorr`, for the discarded frames (R321). -/
  hrFec    : List (Nat × Nat)
  foldFec  : BitVec 32
  /-- The two FEC counters as last added to the lifetime record (R255). -/
  lifeCorr : BitVec 32
  lifeUncorr : BitVec 32
  deriving DecidableEq, Repr

/-- R263: what a request outstanding on the fabric belongs to. -/
inductive ReqOwner where
  | copyWrite (core : Nat) (id : Nat) (n : Nat)
  | aheadRead (core : Nat) (slot : Nat) (no : Nat) (first : Nat)
  | copyRead (core : Nat) (id : Nat) (n : Nat) (first : Nat) (again : Bool)
  | psig (core : Nat) (id : Nat)
  | vecRead (core : Nat) (blk : Nat)
  | vecWrite (core : Nat) (id : Nat)
  | peal (ctx : Nat) (seq : BitVec 64)
  | ledger (ctx : Nat)
  deriving DecidableEq, Repr

/-- R219: a WRITE or READ_REQ that waits for tokens, with the die it came to. -/
structure HeldReq where
  die   : Nat
  k     : Packet
  write : Bool
  deriving DecidableEq, Repr

/-- R263: an outstanding request. -/
structure OutReq where
  reqId : BitVec 16
  ctx   : Nat
  gen   : BitVec 16
  owner : ReqOwner
  sent  : BitVec 64
  deriving DecidableEq, Repr

/-- R270: a collective program held by an engine. -/
structure Program where
  ctx     : Nat
  gen     : BitVec 16
  va      : BitVec 48
  launch  : Armed
  launched : Bool
  /-- Offset added to every TIME of a Downbeat program (R297). -/
  base    : Option (BitVec 40)
  timeout : BitVec 32
  margin  : BitVec 32
  chans   : List (BitVec 64)
  instrs  : List (BitVec 256)
  idx     : Nat
  /-- Elements of the instruction at `idx` already moved. -/
  pos     : Nat
  /-- Chunks received and not consumed: chunk n of channel c at 2^32 c + n. -/
  rx      : AMap (List Block)
  /-- Chunks sent, and consumed, on each channel since launch. -/
  sent    : AMap Nat
  got     : AMap Nat
  /-- R273: bits that ANDs of peers have brought, and values of BCASTs: the n-th of channel c at 2^32 c + n. -/
  ands    : AMap Bool
  values  : AMap (Bool × BitVec 40)
  /-- Arrivals of either kind on each channel. -/
  andsIn  : AMap Nat
  valuesIn : AMap Nat
  /-- R274: a block of the next chunk has failed its CRC once. -/
  crcAgain : Bool
  rootAnd : Option Bool
  rootTime : BitVec 40
  credits : AMap Nat
  waitArm : Option Armed
  deriving DecidableEq, Repr

/-- One collective engine (R269, R284). -/
structure Engine where
  running : List Program
  queued  : List Program
  err     : Bool
  /-- Failures not yet reported: reason, index, program address, context. -/
  fails   : List (Nat × Nat × Nat × Nat)
  result  : BitVec 64
  deriving DecidableEq, Repr

/-- The fabric side of the module (R267, R280, R284). -/
structure Fabric where
  addr     : BitVec 17
  valid    : Bool
  perLink  : Bool
  ports    : Vector PortBlock 36
  engines  : Vector Engine 4
  routes   : AMap (BitVec 16)
  dateline : BitVec 9
  dropHdr  : BitVec 32
  dropStale : BitVec 32
  dropLate : BitVec 32
  dropHops : BitVec 32
  dropAge  : BitVec 32
  dropNoroute : BitVec 32
  dropAuth : BitVec 32
  knells   : BitVec 32
  routeGen : BitVec 32
  reqs     : List OutReq
  /-- R263: identifiers of requests of the last 200 us, with the tick of each. -/
  usedIds  : List (BitVec 16 × Nat)
  /-- WRITEs and READ_REQs that wait for tokens, oldest first (R219). -/
  held     : List HeldReq
  nextReq  : BitVec 16
  knellSeq : BitVec 16
  knellMem : List (BitVec 17 × BitVec 16)
  /-- Knells of the last 1 ms: (lost, reporter, TIME_NOW) (R281). -/
  recent   : List (BitVec 17 × BitVec 17 × BitVec 64)
  lostGroups : BitVec 9
  /-- Groups that have been usable since device reset or since they were last lost (R279). -/
  wasUp    : BitVec 9
  groupPeer : Vector (BitVec 17) 9
  /-- On-die peer signals in flight: target core, semaphore, amount (R178). -/
  sigs     : List (Nat × BitVec 6 × BitVec 32)
  deriving DecidableEq, Repr

/-! ### Mailboxes, configuration, update (13) -/

/-- R338: OWNER. -/
inductive Owner where
  | host | device | done
  deriving DecidableEq, Repr

/-- R348: a notice. -/
structure Notice where
  code  : BitVec 16
  ctx   : BitVec 8
  flags : BitVec 8
  nseq  : BitVec 32
  time  : BitVec 64
  body  : Bytes
  deriving DecidableEq, Repr

/-- R341: a response. -/
structure Response where
  mbx      : Nat
  path     : ReqPath
  seq      : BitVec 16
  cmd      : BitVec 16
  status   : BitVec 8
  dev      : BitVec 8
  conflict : BitVec 8
  detail   : BitVec 16
  legal    : BitVec 32
  time     : BitVec 64
  body     : Bytes
  deriving DecidableEq, Repr

/-- R338: a mailbox. -/
structure MailBox where
  owner : Owner
  drop  : BitVec 8
  req   : Memory
  resp  : Memory
  deriving DecidableEq, Repr

/-- A notice queue with its LOST count (R348). -/
structure NoticeQ where
  entries : List Notice
  lost    : BitVec 32
  deriving DecidableEq, Repr

/-- R348: a NOTICE_GET that waits. -/
structure Waiter where
  req  : Req
  max  : BitVec 8
  till : BitVec 64
  /-- R422: a wait inside a tenant session: the SEALED request, its SID and its SEQ. -/
  tenant : Option (Req × BitVec 32 × BitVec 64)
  deriving DecidableEq, Repr

/-- R421: a tenant session. -/
structure Session where
  sid  : BitVec 32
  kReq : Bytes
  kRsp : Bytes
  last : Option (BitVec 64)
  deriving DecidableEq, Repr

/-- R362, R363: one copy of the Carillon image. -/
structure Carillon where
  headerOk : Bool
  gen      : BitVec 32
  profOk   : Bool
  profile  : BitVec 2
  /-- Bytes of regions 2 to 7. -/
  data     : Vector Memory 6
  digestOk : Bool
  factoryOk : Bool
  deriving DecidableEq, Repr

/-- R367: the configuration session. -/
structure CfgSession where
  mbx   : Nat
  last  : Nat
  deriving DecidableEq, Repr

/-- The Belfry's mailbox side. -/
structure Mail where
  boxes    : Vector MailBox 19
  responses : List Response
  msix     : List Nat
  hostQ    : NoticeQ
  opQ      : NoticeQ
  tenantQ  : Vector NoticeQ 4
  nseq     : BitVec 32
  waiters  : List Waiter
  /-- Requests waiting while the Belfry does not serve, each with its tick of handover (R344, R373, R394). -/
  deferred : List (Nat × Instr)
  session  : Option CfgSession
  opAuth   : Bool
  opSecret : Option Bytes
  challenge : Option Bytes
  volatile : Settings
  factory  : Settings
  copyA    : Carillon
  copyB    : Carillon
  images   : Vector Image 4
  sessions : Vector (Option Session) 4
  cal      : Bytes
  deriving DecidableEq, Repr

/-! ### Security core (15) -/

/-- R429: the sweep of a partition. -/
structure Sweep where
  ctx   : Nat
  next  : Nat
  total : Nat
  deriving DecidableEq, Repr

/-- R442: the stored report. -/
structure Stored where
  nonce  : Bytes
  report : Bytes
  sig    : Bytes
  deriving DecidableEq, Repr

/-- R436 to R445. -/
structure Sec where
  cred     : Bool
  lmsNext  : Nat
  lmsProg  : Nat
  tokens   : Nat
  stored   : Option Stored
  boots    : BitVec 32
  ide      : BitVec 4
  ideStream : Vector (BitVec 8) 4
  ideKeys  : Vector (Vector (List Bytes) 2) 4
  kb       : Vector (Option Nat) 4
  nextKey  : Nat
  sweeps   : Vector (Option Sweep) 4
  swept    : Vector Nat 4
  sweepTotal : Vector Nat 4
  tagFail  : Vector (BitVec 32) 4
  lockouts : Vector (BitVec 32) 4
  revoked  : BitVec 2
  fuseFloor : Nat
  treeLeft : Nat
  faulted  : Bool
  lmsLow   : Bool
  deriving DecidableEq, Repr

/-! ### Power (16) -/

/-- R456: the contract. -/
structure Contract where
  fast   : BitVec 16
  minute : BitVec 16
  ramp   : BitVec 16
  floor  : BitVec 16
  deriving DecidableEq, Repr

/-- R466. -/
structure Power where
  con      : Contract
  pend     : Option Contract
  conSet   : Bool
  tenant   : BitVec 16
  inForce  : BitVec 16
  last     : Sensors
  freq     : Vector (BitVec 4) 4
  pstate   : PState
  limit    : BitVec 6
  filler   : Bool
  /-- R458, R459: the power target of the governor and where its rise or descent ends, in µW. -/
  target   : Nat
  goal     : Nat
  minute   : BitVec 16
  minuteNo : Nat
  /-- Minute averages, newest first, at most 60. -/
  avgs     : List (BitVec 16)
  sum      : Nat
  samples  : Nat
  /-- Energy samples of the last 60 s: (second, sum of samples). -/
  secs     : List (Nat × Nat × Nat)
  limitedHeld : BitVec 5
  missHeld : BitVec 4
  thermHeld : List (BitVec 8 × BitVec 8)
  throttled : BitVec 4
  throttledMin : Bool
  maxTj    : Vector (BitVec 8) 4
  minFreq  : Vector (BitVec 4) 4
  /-- Hub, inlet and outlet: their maxima of the last minute and of the one in progress (R481). -/
  maxEnv   : Vector Nat 3
  curEnv   : Vector Nat 3
  /-- Maxima and lowest clocks (highest steps) of the minute in progress. -/
  curTj    : Vector (BitVec 8) 4
  curFreq  : Vector (BitVec 4) 4
  below    : Vector Nat 4
  lpAborts : BitVec 32
  limitedMin : BitVec 32
  missMin  : BitVec 32
  throttleMin : BitVec 32
  res      : Vector (BitVec 64) 4
  deriving DecidableEq, Repr

/-! ### Diagnostics (14) -/

/-- R396: an error-log entry. -/
structure LogEntry where
  eseq  : BitVec 32
  code  : BitVec 16
  sev   : BitVec 8
  flags : BitVec 8
  unit  : BitVec 16
  ctx   : BitVec 8
  pom   : BitVec 32
  time  : BitVec 64
  body  : Bytes
  /-- The confidential partition in whose session alone BODY can be read (R411). -/
  hidden : Option Nat
  deriving DecidableEq, Repr

/-- R396: a Knell-log entry. -/
structure KnellEntry where
  time   : BitVec 64
  reporter : BitVec 17
  lost   : BitVec 17
  group  : BitVec 8
  reason : BitVec 8
  kind   : BitVec 8
  kseq   : BitVec 16
  port   : BitVec 8
  deriving DecidableEq, Repr

/-- R401: the lifetime record, counters by byte offset. -/
abbrev Lifetime := AMap Nat

/-- R405: an armed injection. -/
structure Armed16 where
  d      : Injection
  time   : Option Armed
  fired  : Nat
  /-- Tick of the next repetition. -/
  nextAt : Nat
  /-- Firings whose effect has not been taken yet, or which last (KIND 0x07 and 0x09). -/
  active : Nat
  /-- Tick of the last firing, while no event has been attributed to it (R406). -/
  attrib : Option Nat
  deriving DecidableEq, Repr

/-- R402: a piece of evidence: kind 0 I, 1 P, 2 T; points; tick. -/
structure Evidence where
  kind   : BitVec 2
  points : Nat
  tick   : Nat
  deriving DecidableEq, Repr

/-- R402. -/
inductive Health where
  | healthy | watch | suspect
  deriving DecidableEq, Repr

/-- Logs, dump, lifetime record, injections (R395 to R406). -/
structure Diag where
  log      : List LogEntry
  eseq     : BitVec 32
  flushed  : BitVec 32
  flashLog : List LogEntry
  knellLog : List KnellEntry
  /-- Entries ever made in the Knell log. -/
  knellCount : Nat
  /-- R394: the hub's event queue: Knells and LINKUPs that wait for the Belfry, oldest first. -/
  eventQ   : List KnellEntry
  dump     : Option Bytes
  dumpPending : Bool
  dseq     : BitVec 32
  flashDump : List Bytes
  life     : Lifetime
  flashLife : List Lifetime
  wseq     : BitVec 64
  lifeDirty : Bool
  lifeAt   : Option Nat
  evid     : List Evidence
  health   : Health
  calmSince : Nat
  calmWatch : Nat
  inject   : Vector (Option Armed16) 16
  pom      : Nat
  pealSeq  : BitVec 64
  deriving DecidableEq, Repr

/-! ### What leaves the module -/

/-- R253, R254: a frame sent: its lane and its trailer; in per-link mode the nonce its tag is formed under (R275). -/
structure Frame where
  lane   : Nat
  fseq   : BitVec 64
  ack    : BitVec 15
  slot   : Bool
  credit : List Byte
  nonce  : Option Bytes
  deriving DecidableEq, Repr

/-- Effects on the outside world, newest first in `State.outbox`. -/
inductive Output where
  | packet (port : Nat) (k : Packet)
  /-- Frames sent by a port, in order. -/
  | frames (port : Nat) (l : List Frame)
  | linkFrame (port : Nat) (f : TimeFrame)
  | retransmit (port : Nat) (fromSeq : BitVec 15) (count : Nat)
  | replayRequest (port : Nat) (fromSeq : BitVec 64)
  | hostWrite (addr : Nat) (data : Bytes)
  | hostRead (addr : Nat) (bytes : Nat)
  | regRead (path : RegPath) (off : BitVec 32) (v : BitVec 32)
  | memData (pos : Nat) (block : Nat) (b : Option Block)
  | smbus (data : Bytes)
  | msix (vector : Nat)
  | tap (t : TapInstr) (active : Bool)
  /-- R50: a rising edge of TIME_PPS_OUT at this tick. -/
  | pps (at_ : BitVec 64)
  deriving DecidableEq, Repr

/-- The module. -/
structure State where
  opt     : Options
  pins    : Pins
  hub     : Hub
  time    : TimeBlock
  latches : List Latch
  /-- Ticks of the module's own oscillator (assumption log 4). -/
  ticks   : Nat
  slots   : AMap PCore
  lcores  : AMap LCore
  mem     : Mem
  ctxs    : Vector Context 64
  fab     : Fabric
  mail    : Mail
  sec     : Sec
  pwr     : Power
  diag    : Diag
  outbox  : List Output
  /-- Number of open values drawn so far (assumption log 2). -/
  free    : Nat
  /-- The commands waiting, first in, first out. -/
  pending : List Instr
  deriving DecidableEq, Repr

/-- Why the model stops. -/
inductive Fault where
  /-- Raised by a meaning whose operands denote no command of the block (WellFormed.lean). Safe: no such command
  exists on the hardware. -/
  | illFormed (mnemonic : String)
  deriving DecidableEq, Repr

/-- Why a command has no meaning. -/
inductive Refusal where
  /-- No meaning written yet. Safe. -/
  | notModelled (mnemonic : String)
  deriving DecidableEq, Repr

/-! ### The state after reset -/

/-- A stream slot after core reset (R169, R182). -/
def Stream.reset : Stream :=
  { st := .idle, cls := 0, ctx := 0, pgen := 0, first := 0, pc := 0,
    loops := Vector.replicate 4 { active := false, ctr := 0, owner := 0, entry := 0, body := 0 },
    br := Vector.replicate 4 0, prog := 0, blocks := [], inflight := [], blocked := none, blockId := 0, due := false,
    item := none, lastMma := none, ahead := [], passed := 0, turn := none }

/-- A bank after core reset (R102). -/
def Bank.reset : Bank :=
  { st := .free, acc := [], check := [], bound := [], m := 0, n := 0, pair := 0, int := false,
    k := Vector.replicate 4 0, relIssued := false, relDone := none }

/-- Every counter of a core at 0 (R85). -/
def CoreCounters.reset : CoreCounters :=
  { fmtSat := 0, fmtNan := 0, rowCyc := 0, passes := 0, tiles := 0, lrCrc := 0, macCyc := 0, mvCrc := 0,
    failG := Vector.replicate 8 0, skip := 0, bcastPar := 0, cmp := 0, mvRes := 0, veRes := 0, veTbl := 0,
    vePerm := 0, veTree := 0, replay := 0, transient := 0, input := 0, veGroups := 0, veSwitches := 0, veCrc := 0,
    idxOob := 0, merged := 0, hotBank := 0, late := 0, semOvf := 0, raDrop := 0, ceCrc := 0, ceBytes := 0,
    xlatMiss := 0, pwrRes := Vector.replicate 4 0, pwrAborts := 0, stall := [] }

/-- A physical core slot after core reset: MODE resets to 0b10 (R465), the scheduler preference and the bank cap to the
profile's values (R185, R167). -/
def PCore.reset : PCore :=
  { ctx := none, gen := 0, seed := 0, sems := [], streams := Vector.replicate 16 Stream.reset, err := none, errValid := false, errQ := [],
    stage := [], stageBad := [], cache := [], cacheBad := [], banks := Vector.replicate 2 Bank.reset, lr := [],
    stat := [], trans := [], mv := [], threads := Vector.replicate 8 none, copies := [], ceLast := none, xlat := [],
    copyLog := [],
    nextId := 0, turns := 0, prefer := 0, bankCap := 8, pwrMode := 2, pstate := .run, gather := [], gatherQ := [], cnt := CoreCounters.reset,
    hrTrans := [], foldTrans := 0, frozen := false, stopped := false }

/-- A logical core with no replay slot held (R140). -/
def LCore.reset : LCore := { replay := Vector.replicate 4 none, pending := false }

/-- A controller position at device reset (R229). -/
def Ctrl.reset : Ctrl :=
  { role := .inService, chan := none, rate := 3, selfRefresh := false, training := false, noSpare := false, corr := 0,
    uncorr := 0, crcTransport := 0, crcMemory := 0, metaMiss := 0, retrain := 0, migPtr := 0, scrubPtr := 0, scrubBlk := 0, rd := 0,
    wr := 0, eye := 0, lines := [], hrCorr := [], hrUncorr := [], hrCrc := [], foldCorr := 0,
    foldUncorr := 0, foldCrc := 0, due := none, retrains := [] }

/-- R221: the regulator defaults of one partition, by class. -/
def Bucket.default (cls : Nat) : Bucket :=
  match cls with
  | 0 => { rate := 49152, depth := 98304, borrow := true, tokens := Vector.replicate 4 0, throttle := 0, held := false }
  | 1 => { rate := 16384, depth := 32768, borrow := true, tokens := Vector.replicate 4 0, throttle := 0, held := false }
  | 2 => { rate := 4096, depth := 8192, borrow := true, tokens := Vector.replicate 4 0, throttle := 0, held := false }
  | _ => { rate := 1024, depth := 2048, borrow := false, tokens := Vector.replicate 4 0, throttle := 0, held := false }

/-- R210: the defaults of the memory policy. -/
def MemPolicy.default : MemPolicy :=
  { corrRetrain := 20000, uncorrMapout := 2, crcMapout := 2, retrainLimit := 3, scrubHours := 12, migrateShare := 125 }

/-- The memory system at device reset. -/
def Mem.reset : Mem :=
  { cells := [], bad := [], sealKey := [], unit := [], pmap := [], wgen := [], ctrl := Vector.replicate 80 Ctrl.reset,
    buckets := Vector.replicate 4
      #v[Bucket.default 0, Bucket.default 1, Bucket.default 2, Bucket.default 3],
    pool := Vector.replicate 4 0, policy := MemPolicy.default, migs := [], quar := Vector.replicate 4 [] }

/-- The ledger of a context at reset (R316). -/
def Ledger.reset : Ledger :=
  { st := .idle, ready := false, veto := false, reason := 0, attempt := 0, unmirrored := true, filling := false,
    absorbed := false, auditCopy := false, auditHold := false, committed := 0, aborts := 0, pgenDrop := 0, recDrop := 0,
    fillDone := 0, fillTotal := 0, accept := 0, step := 0, everArmed := false, tLaunch := 0, launched := false,
    progVa := 0, engine := 0, commitAt := none, tCommit := 0, bad := false, abandoned := false, collFailed := false,
    ownStarted := false, mirrorStarted := false, ownDone := false, mirrorDone := false, digestDone := false, digestBad := false,
    redo := false, own := [], mirror := [], ownChunks := [], mirrorChunks := [], gradDigests := [],
    partnerRec := none, kept := [], keptMirror := [], pair := none,
    pendPair := none, quota := 0, pendQuota := none, pendPgen := [], pendSet := [], pendLayers := none, adopted := 0, adoptedMirror := 0, absorbId := 0, times := [],
    reasons := [], cleared := [], transfers := [], moved := [], noState := false, abortAt := 0, lastAudit := none,
    auditing := none, auditRot := none, auditDigest := [], auditGrads := [], auditSkipped := 0, records := [] }

/-- The Peal state of a context at reset (R335). -/
def Peal.reset : Peal :=
  { st := .idle, slotNo := 0,
    slots := Vector.replicate 4 { extents := [], valid := false, step := 0, seq := 0, kind := 0 },
    err := 0, done := 0, total := 0, count := 0, fail := 0, predict := 0, skipped := 0, armed := none,
    kind := 0, step := 0, seq := 0, outst := 0, manifest := false, entries := [], cur := 0, paid := 0, stopping := false, taken := 0, tq := none, tr := none,
    lastPredict := none }

/-- The security state of a context at reset (R419). -/
def CtxSec.reset : CtxSec :=
  { epoch := false, keys := Vector.replicate 2 none, rotating := false, locked := false, tags := [], job := none,
    jobPrev := none, e2e := Vector.replicate 2 none, e2eCur := false, e2eSwitch := none, e2eErase := false, sendCtr := 0,
    windows := [] }

/-- A closed context; the generation starts at 0x0001 (R386). -/
def Context.reset : Context :=
  { st := .closed, cgen := 1, prog := 0, idleBeats := 0, completed := false, part := 0, pmBase := 0, pmLen := 0,
    set := [], vslots := Vector.replicate 3 (.free, 0), startVer := 1, trnBusy := 0, trnStep := 0, layers := [],
    led := Ledger.reset, peal := Peal.reset, sec := CtxSec.reset, fence := none, domains := 0 }

/-- A port at device reset (R283). -/
def PortBlock.reset : PortBlock :=
  { st := .down, lanes := 0, perLink := false, secRefused := false, keyslot := false, peer := none, fecCorr := 0,
    fecUncorr := 0, retry := 0, retrain := 0, frames := 0, fseq := 0, asym := 0, rekeys := 0, excluded := 0,
    failedOnce := 0, trains := [], rxNext := 0, fill := 0, credits := Vector.replicate 6 0, owed := Vector.replicate 6 0,
    txKeys := Vector.replicate 2 none, rxKeys := Vector.replicate 2 none, rxSlot := false, dueLanes := 0, frameAt := 0, buf := [], muted := false, relockAt := none, waiting := false,
    phyNew := false, checkFails := [], hrFec := [], foldFec := 0, lifeCorr := 0, lifeUncorr := 0 }

/-- The fabric side at device reset (R267, R284). -/
def Fabric.reset : Fabric :=
  { addr := 0, valid := false, perLink := false, ports := Vector.replicate 36 PortBlock.reset,
    engines := Vector.replicate 4 { running := [], queued := [], err := false, fails := [], result := 0 },
    routes := [], dateline := 0, dropHdr := 0, dropStale := 0, dropLate := 0, dropHops := 0, dropAge := 0,
    dropNoroute := 0, dropAuth := 0, knells := 0, routeGen := 0, reqs := [], usedIds := [], held := [], nextReq := 0, knellSeq := 0,
    knellMem := [], recent := [], lostGroups := 0, wasUp := 0, groupPeer := Vector.replicate 9 0, sigs := [] }

/-- A valid Carillon copy with empty user regions (assumption log 6). -/
def Carillon.initial (g : BitVec 32) : Carillon :=
  { headerOk := true, gen := g, profOk := false, profile := 0, data := Vector.replicate 6 [],
    digestOk := true, factoryOk := true }

/-- The factory defaults of the settings, by key (R360; the defaults of R137, R210, R221, R321, R165, R185, R306). -/
def Settings.factory : Settings :=
  [ (0x0100, 0), (0x0101, 0), (0x0102, 0), (0x0103, 0), (0x0104, 0), (0x0105, 1),
    (0x0200, 0), (0x0201, 0), (0x0300, 0), (0x0301, 8),
    (0x0400, 20000), (0x0401, 2), (0x0402, 2), (0x0403, 3), (0x0404, 12), (0x0405, 125),
    (0x0500, 256), (0x0501, 0), (0x0502, 1), (0x0503, 5),
    (0x070C, 3),
    (0x0800, 0), (0x0801, 0), (0x0802, 1), (0x0803, 10000), (0x0804, 4), (0x0805, 1000), (0x0806, 30),
    (0x0900, 0) ]

/-- A steady image in copy A (assumption log 6). -/
def Image.initial : Image :=
  { copyB := false, version := 1, floor := 0, digest := List.replicate 32 0, staged := [], verified := false,
    stagedVer := 0, stagedFloor := 0, stagedDigest := [], revoke := 0, phase := 0, done := 0, pending := [],
    result := 0, atReset := false }

/-- The mailboxes, queues and flash contents at device reset (R338, R348). -/
def Mail.reset : Mail :=
  { boxes := Vector.replicate 19 { owner := .host, drop := 0, req := [], resp := [] }, responses := [], msix := [],
    hostQ := { entries := [], lost := 0 }, opQ := { entries := [], lost := 0 },
    tenantQ := Vector.replicate 4 { entries := [], lost := 0 }, nseq := 0, waiters := [], deferred := [],
    session := none, opAuth := false, opSecret := none, challenge := none, volatile := [], factory := Settings.factory,
    copyA := Carillon.initial 1, copyB := Carillon.initial 0, images := Vector.replicate 4 Image.initial,
    sessions := Vector.replicate 4 none, cal := List.replicate 0x128 0 }

/-- The security core at device reset (R445). -/
def Sec.reset : Sec :=
  { cred := false, lmsNext := 0, lmsProg := 0, tokens := 256, stored := none, boots := 1, ide := 0,
    ideStream := Vector.replicate 4 0, ideKeys := Vector.replicate 4 (Vector.replicate 2 []),
    kb := Vector.replicate 4 none, nextKey := 1, sweeps := Vector.replicate 4 none, swept := Vector.replicate 4 0,
    sweepTotal := Vector.replicate 4 0, tagFail := Vector.replicate 4 0, lockouts := Vector.replicate 4 0, revoked := 0,
    fuseFloor := 0, treeLeft := 32768, faulted := false, lmsLow := false }

/-- Readings before the first sample (R466). -/
def Sensors.zero : Sensors :=
  { volt := 0, curr := 0, power := 0, tj := Vector.replicate 4 0, tjHub := 0, inlet := 0, outlet := 0,
    dieW := Vector.replicate 4 0, step := Vector.replicate 4 0, demand := 0, ahead := 0, offRamp := false }

/-- The power block at cold reset (R466). -/
def Power.reset : Power :=
  { con := { fast := 3300, minute := 3300, ramp := 0, floor := 0 }, pend := none, conSet := false, tenant := 3300,
    inForce := 3300, last := Sensors.zero, freq := Vector.replicate 4 0, pstate := .run, limit := 0, filler := false, target := 0, goal := 0,
    minute := 0, minuteNo := 0, avgs := [], sum := 0, samples := 0, secs := [], limitedHeld := 0, missHeld := 0,
    thermHeld := [], throttled := 0, throttledMin := false, maxTj := Vector.replicate 4 0, maxEnv := Vector.replicate 3 0, curEnv := Vector.replicate 3 0,
    minFreq := Vector.replicate 4 0, curTj := Vector.replicate 4 0, curFreq := Vector.replicate 4 0,
    below := Vector.replicate 4 0, lpAborts := 0, limitedMin := 0, missMin := 0,
    throttleMin := 0, res := Vector.replicate 4 0 }

/-- The logs of a module that has recorded nothing (assumption log 6). -/
def Diag.reset : Diag :=
  { log := [], eseq := 0, flushed := 0, flashLog := [], knellLog := [], knellCount := 0, eventQ := [], dump := none, dumpPending := false, dseq := 0,
    flashDump := [], life := [], flashLife := [], wseq := 0, lifeDirty := false, lifeAt := none, evid := [],
    health := .healthy, calmSince := 0, calmWatch := 0, inject := Vector.replicate 16 none, pom := 0, pealSeq := 0 }

/-- The hub at device reset: STATE 0x1, BOOTING (R351). -/
def Hub.reset : Hub :=
  { mapGen := 0, capGen := 0, coreMap := Vector.replicate 128 { phys := 0, status := .unmapped },
    chanMap := Vector.replicate 72 { ctrl := 0, status := .unmapped }, layout := 0, conf := 0, dev := .booting,
    started := false, fenced := false, belfryDown := false, bootRom := false, updating := false, draining := false, low := false,
    diesDown := 0, profile := 0, safe := false, cfgCopyB := false, cfgDefault := false, chime := 0,
    causeDev := 0, causeBelfry := 0, bCount := 0, lastRestart := none, bootAt := 0, tripped := false, slotRetired := [],
    slotTesting := [], retire := [], drainReq := none, lpTarget := 0, retain := 0, wakeReq := none, handoff := false, actReq := none, newSlots := [], token := false,
    pldm := Vector.replicate 10 0, pldmOk := false, pldmDev := 1, pldmHealth := 0, eid := 0, arpDone := false }

/-- Fabric Time after a device reset: 0, UNSET (R37, R55). -/
def TimeBlock.reset : TimeBlock :=
  { now := 0, st := .unset, holdover := false, cadLocked := false, cadLost := false, master := false, err := 0,
    errValid := false, masterAddr := 0, gen := 0, parent := none, hadParent := false, hops := 0xFF, offset := 0,
    lateLaunch := 0, unlockCount := 0, parentChanges := 0, conflict := 0, cadEnable := false, cadFalling := false,
    cadDiv := 0, cadStagger := 0, cadPeriod := 0, cadLast := 0, cadReject := 0, ppsEnable := false, ppsWidth := 1,
    seen := [], slew := 0, good := 0, parentFrame := 0, acqStart := 0, edges := [], cadGood := 0,
    divCount := 0, slots := [], cadNext := 0 }

/-- The ordering code this manual describes, ZVM-4812-F36M72S, stepping B0, without defects (R2, R10, R19). -/
def Options.reset : Options :=
  { f24 := false, m54 := false, conf := true, stepLetter := 2, stepDigit := 0,
    spares := [32, 33, 66, 67, 100, 101, 134, 135], debugOpen := false }

/-- The pins while the module boots: powered, PERST# deasserted, straps at their pulls, no cable (R471, R475). -/
def Pins.reset : Pins :=
  { perst := true, pwrEn := true, pgOut := true, profSel := 0, forceSafe := true, thermtrip := true, pps := false,
    cbl := Vector.replicate 9 true, vin54 := true, v12sb := true }

/-- The module right after reset: BOOTING, nothing open, every register at its reset value, no command waiting. -/
def State.reset : State :=
  { opt := Options.reset, pins := Pins.reset, hub := Hub.reset, time := TimeBlock.reset, latches := [], ticks := 0,
    slots := [], lcores := [], mem := Mem.reset, ctxs := Vector.replicate 64 Context.reset, fab := Fabric.reset,
    mail := Mail.reset, sec := Sec.reset, pwr := Power.reset, diag := Diag.reset, outbox := [], free := 0,
    pending := [] }

end Sys2Proof.Machine
end

