-- ==== Sys2Proof/Machine/Formats.lean ====
section
/-! DEFINITION. Number formats, exact values and the one rule for rounding and conversion (03_number_formats.md). -/

namespace Sys2Proof.Machine

/-! ### Layouts (R58, R59) -/

/-- How a float format spends its highest exponent. -/
inductive Specials where
  | ieee   -- infinity and NaN
  | e4m3   -- NaN only, all ones
  | none
  deriving DecidableEq, Repr

/-- R58: a float layout. -/
structure FloatFmt where
  eb   : Nat
  mb   : Nat
  bias : Nat
  sp   : Specials
  deriving DecidableEq, Repr

def fp32Fmt : FloatFmt := { eb := 8, mb := 23, bias := 127, sp := .ieee }
def bf16Fmt : FloatFmt := { eb := 8, mb := 7, bias := 127, sp := .ieee }

/-- R58: the float layout of a format code, if it is one of 0x0 to 0x7. -/
def floatFmt : Nat → Option FloatFmt
  | 0 => some fp32Fmt
  | 1 => some { eb := 5, mb := 10, bias := 15, sp := .ieee }
  | 2 => some bf16Fmt
  | 3 => some { eb := 4, mb := 3, bias := 7, sp := .e4m3 }
  | 4 => some { eb := 5, mb := 2, bias := 15, sp := .ieee }
  | 5 => some { eb := 3, mb := 2, bias := 3, sp := .none }
  | 6 => some { eb := 2, mb := 3, bias := 1, sp := .none }
  | 7 => some { eb := 2, mb := 1, bias := 1, sp := .none }
  | _ => none

/-- R56: code 0xB to 0xE. -/
def isMx (code : Nat) : Bool := decide (11 ≤ code) && decide (code ≤ 14)

/-- R57: the element code of a format with its variant bit. -/
def elemCode (code : Nat) (mxv : Bool) : Nat :=
  match code with
  | 11 => if mxv then 4 else 3
  | 12 => if mxv then 6 else 5
  | 13 => 7
  | 14 => 8
  | c => c

/-- R56: bits of one stored element. -/
def elemBits (code : Nat) : Nat :=
  match code with
  | 0 | 10 => 32
  | 1 | 2 => 16
  | 5 | 6 | 12 => 6
  | 7 | 9 | 13 => 4
  | _ => 8

/-- R57: the variant bit is permitted. -/
def mxvOk (code : Nat) (mxv : Bool) : Bool := !mxv || code == 11 || code == 12

/-- R58, R59: the value of the `eb + mb + 1` bits of a float element. -/
def decodeFloat (f : FloatFmt) (bits : Nat) : Val :=
  let m := bits % 2 ^ f.mb
  let e := bits / 2 ^ f.mb % 2 ^ f.eb
  let neg := bits / 2 ^ (f.mb + f.eb) % 2 == 1
  let top := 2 ^ f.eb - 1
  let plain := if e = 0 then Val.num neg m (1 - (f.bias : Int) - f.mb)
    else Val.num neg (2 ^ f.mb + m) ((e : Int) - f.bias - f.mb)
  match f.sp with
  | .ieee => if e = top then (if m = 0 then .inf neg else .nan) else plain
  | .e4m3 => if e = top && m == 2 ^ f.mb - 1 then .nan else plain
  | .none => plain

/-- An integer as a value. -/
def intVal (i : Int) : Val := .num (decide (i < 0)) i.natAbs 0

/-- R58, R65: the value of a stored element before any block scale. -/
def decodeElem (code : Nat) (mxv : Bool) (bits : Nat) : Val :=
  match code with
  | 8 => intVal (signed (bits % 256) 8)
  | 9 => intVal (signed (bits % 16) 4)
  | 10 => intVal (signed (bits % 2 ^ 32) 32)
  | 14 => let i := signed (bits % 256) 8
          .num (decide (i < 0)) i.natAbs (-6)
  | 15 => if bits % 256 = 255 then .nan else .num false 1 ((bits % 256 : Nat) - 127)
  | c => match floatFmt (elemCode c mxv) with
    | some f => decodeFloat f bits
    | none => .nan

/-! ### Exact arithmetic (R60, R68, R71) -/

def Val.neg : Val → Val
  | .nan => .nan
  | .inf s => .inf !s
  | .num s m e => .num (!s) m e

def Val.abs : Val → Val
  | .nan => .nan
  | .inf _ => .inf false
  | .num _ m e => .num false m e

def Val.isFinite : Val → Bool
  | .num _ _ _ => true
  | _ => false

def Val.isZero : Val → Bool
  | .num _ m _ => m == 0
  | _ => false

/-- `(-1)^neg * m` as an integer. -/
def signedMag (neg : Bool) (m : Nat) : Int := if neg then -(m : Int) else m

/-- Exact sum: a zero sum is +0 unless both addends are -0 (R60). -/
def Val.add : Val → Val → Val
  | .nan, _ => .nan
  | _, .nan => .nan
  | .inf a, .inf b => if a == b then .inf a else .nan
  | .inf a, _ => .inf a
  | _, .inf b => .inf b
  | .num sa ma ea, .num sb mb eb =>
    let e := min ea eb
    let i := signedMag sa (ma * 2 ^ (ea - e).toNat) + signedMag sb (mb * 2 ^ (eb - e).toNat)
    if i = 0 then .num (sa && sb && ma == 0 && mb == 0) 0 e else .num (decide (i < 0)) i.natAbs e

/-- Exact product. -/
def Val.mul : Val → Val → Val
  | .nan, _ => .nan
  | _, .nan => .nan
  | .inf a, .inf b => .inf (a != b)
  | .inf a, .num s m _ => if m = 0 then .nan else .inf (a != s)
  | .num s m _, .inf a => if m = 0 then .nan else .inf (a != s)
  | .num sa ma ea, .num sb mb eb => .num (sa != sb) (ma * mb) (ea + eb)

/-- The value times `2^k`. -/
def Val.scale (k : Int) : Val → Val
  | .num s m e => .num s m (e + k)
  | v => v

/-- Order of two finite or infinite values: true when `a < b`. -/
def Val.lt : Val → Val → Bool
  | .nan, _ => false
  | _, .nan => false
  | .inf a, .inf b => a && !b
  | .inf a, _ => a
  | _, .inf b => !b
  | .num sa ma ea, .num sb mb eb =>
    let e := min ea eb
    decide (signedMag sa (ma * 2 ^ (ea - e).toNat) < signedMag sb (mb * 2 ^ (eb - e).toNat))

/-- IEEE equality: a zero equals a zero, a NaN equals nothing. -/
def Val.eqv (a b : Val) : Bool :=
  match a, b with
  | .nan, _ => false
  | _, .nan => false
  | _, _ => !a.lt b && !b.lt a

/-- Exact sum of a list (R68); the empty sum is +0. -/
def sumVals : List Val → Val
  | [] => .num false 0 0
  | v :: t => t.foldl Val.add v

/-! ### Rounding (R73, R77) -/

/-- How a conversion rounds: to nearest even, or with a random word. -/
abbrev Rounding := Option (BitVec 32)

/-- `m * 2^e` in units of `2^q`, rounded. -/
def roundUnits (r : Rounding) (m : Nat) (e q : Int) : Nat :=
  if q ≤ e then m * 2 ^ (e - q).toNat
  else
    let k := (q - e).toNat
    let n := m / 2 ^ k
    let rem := m % 2 ^ k
    match r with
    | none => if 2 * rem < 2 ^ k then n else if 2 * rem = 2 ^ k then n + n % 2 else n + 1
    | some w => if rem * 2 ^ 32 / 2 ^ k + w.toNat ≥ 2 ^ 32 then n + 1 else n

/-- The spacing exponent of a format at `m * 2^e`, `m > 0`. -/
def spacing (f : FloatFmt) (m : Nat) (e : Int) : Int :=
  max ((m.log2 : Int) + e) (1 - (f.bias : Int)) - f.mb

/-- R59: the largest finite magnitude, as mantissa and exponent. -/
def maxFinite (f : FloatFmt) : Nat × Int :=
  match f.sp with
  | .ieee => (2 ^ (f.mb + 1) - 1, (2 ^ f.eb - 2 : Nat) - (f.bias : Int) - f.mb)
  | .e4m3 => (2 ^ (f.mb + 1) - 2, (2 ^ f.eb - 1 : Nat) - (f.bias : Int) - f.mb)
  | .none => (2 ^ (f.mb + 1) - 1, (2 ^ f.eb - 1 : Nat) - (f.bias : Int) - f.mb)

/-- `a * 2^x > b * 2^y`. -/
def magGt (a : Nat) (x : Int) (b : Nat) (y : Int) : Bool := (Val.num false b y).lt (.num false a x)

/-- The bits of a magnitude `n * 2^q` on the format's grid. -/
def encodeMag (f : FloatFmt) (n : Nat) (q : Int) : Nat :=
  if n = 0 then 0
  else
    let s := spacing f n q
    -- n * 2^q is a multiple of 2^s
    let n' := if s ≤ q then n * 2 ^ (q - s).toNat else n / 2 ^ (s - q).toNat
    if n' < 2 ^ f.mb then n'
    else (s + f.mb + f.bias).toNat * 2 ^ f.mb + (n' - 2 ^ f.mb)

/-- The sign bit in place. -/
def signBit (f : FloatFmt) (neg : Bool) : Nat := if neg then 2 ^ (f.eb + f.mb) else 0

/-- R59: the canonical NaN. -/
def canonNan (f : FloatFmt) : Nat :=
  match f.sp with
  | .ieee => (2 ^ f.eb - 1) * 2 ^ f.mb + 2 ^ (f.mb - 1)
  | .e4m3 => 2 ^ (f.eb + f.mb) - 1
  | .none => 0

/-- A converted element: its bits, whether it was counted in CORE_FMT_SAT and in CORE_FMT_NAN. -/
structure Conv where
  bits : Nat
  sat  : Bool
  nan  : Bool
  deriving DecidableEq, Repr

def Conv.of (bits : Nat) : Conv := { bits := bits, sat := false, nan := false }

/-- R73, R74, R77: conversion of a value to a float format. -/
def convFloat (f : FloatFmt) (sat : Bool) (r : Rounding) (v : Val) : Conv :=
  let top := maxFinite f
  let big := fun (neg : Bool) => signBit f neg + encodeMag f top.1 top.2
  let infBits := fun (neg : Bool) => signBit f neg + (2 ^ f.eb - 1) * 2 ^ f.mb
  match v with
  | .nan => match f.sp with
    | .none => { bits := 0, sat := false, nan := true }
    | _ => .of (canonNan f)
  | .inf neg => match f.sp with
    | .ieee => .of (if sat then big neg else infBits neg)
    | .e4m3 => .of (if sat then big neg else canonNan f)
    | .none => .of (big neg)
  | .num neg m e =>
    if m = 0 then .of (signBit f neg)
    else
      let q := spacing f m e
      let n := roundUnits r m e q
      if magGt n q top.1 top.2 then
        match f.sp with
        | .ieee => if sat then { bits := big neg, sat := true, nan := false } else .of (infBits neg)
        | .e4m3 => if sat then { bits := big neg, sat := true, nan := false } else .of (canonNan f)
        | .none => { bits := big neg, sat := true, nan := false }
      else .of (signBit f neg + encodeMag f n q)

/-- R74: conversion to a `w`-bit two's complement integer. -/
def convInt (w : Nat) (v : Val) : Conv :=
  let hi : Int := 2 ^ (w - 1) - 1
  let lo : Int := -2 ^ (w - 1)
  match v with
  | .nan => { bits := 0, sat := false, nan := true }
  | .inf neg => .of (wrapInt w (if neg then lo else hi))
  | .num neg m e =>
    let i := signedMag neg (roundUnits none m e 0)
    if i > hi then { bits := wrapInt w hi, sat := true, nan := false }
    else if i < lo then { bits := wrapInt w lo, sat := true, nan := false }
    else .of (wrapInt w i)

/-- R74: conversion to UE8M0. -/
def convScale (v : Val) : Conv :=
  match v with
  | .nan => .of 255
  | .inf neg => .of (if neg then 0 else 254)
  | .num neg m e =>
    if neg || m == 0 then .of 0
    else
      let l := m.log2
      -- round up when m^2 exceeds 2^(2 l + 1)
      let x := (if m * m > 2 ^ (2 * l + 1) then (l : Int) + 1 else l) + e
      if x > 127 then { bits := 254, sat := true, nan := false }
      else if x < -127 then .of 0 else .of (x + 127).toNat

/-- Conversion of one value to a non-MX format (R73, R74, R75). -/
def convElem (code : Nat) (sat : Bool) (r : Rounding) (v : Val) : Conv :=
  match code with
  | 8 => convInt 8 v
  | 9 => convInt 4 v
  | 10 => convInt 32 v
  | 15 => convScale v
  | c => match floatFmt c with
    | some f => convFloat f sat r v
    | none => .of 0

/-! ### FP32 operations: one rounding each (R71, R72, R152) -/

/-- The value of an FP32 word. -/
def f32 (w : BitVec 32) : Val := decodeFloat fp32Fmt w.toNat

/-- Round once to FP32; any NaN is canonical (R60). -/
def toF32 (v : Val) : BitVec 32 := BitVec.ofNat 32 (convFloat fp32Fmt false none v).bits

def fadd (a b : BitVec 32) : BitVec 32 := toF32 ((f32 a).add (f32 b))
def fmul (a b : BitVec 32) : BitVec 32 := toF32 ((f32 a).mul (f32 b))
def ffma (a b c : BitVec 32) : BitVec 32 := toF32 (((f32 a).mul (f32 b)).add (f32 c))

/-- R67: a value rounded to BF16, as a value. -/
def toBf16 (v : Val) : Val := decodeFloat bf16Fmt (convFloat bf16Fmt false none v).bits

/-! ### MX blocks (R63, R79, R80) -/

/-- R63: the scale of a UE8M0 byte. -/
def scaleVal (b : Nat) : Val := decodeElem 15 false b

/-- R63: an element under its block scale. -/
def scaled (v : Val) (sb : Nat) : Val :=
  if sb = 255 then .nan else v.scale ((sb : Int) - 127)

/-- R79: emax of an element type. -/
def mxEmax (code : Nat) (mxv : Bool) : Int :=
  if code = 14 then 0
  else match elemCode code mxv with
    | 3 => 8
    | 4 => 15
    | 5 => 4
    | 6 => 2
    | _ => 2

/-- floor(log2) of a finite non-zero value. -/
def floorLog2 : Val → Int
  | .num _ m e => (m.log2 : Int) + e
  | _ => 0

/-- R80: one element of a block whose scale exponent is `e`; it always saturates. -/
def mxElem (code : Nat) (mxv : Bool) (e : Int) (r : Rounding) (v : Val) : Conv :=
  let x := v.scale (-e)
  if code = 14 then
    let c := convInt 8 (x.scale 6)
    { c with sat := (Val.num false 127 (-6)).lt x }
  else match floatFmt (elemCode code mxv) with
    | some f =>
      let c := convFloat f true r x
      let top := maxFinite f
      { c with sat := (Val.num false top.1 top.2).lt x.abs }
    | none => .of 0

/-- R79, R80: the scale byte and the elements of one block, whose source values are held in FP32. -/
def quantise (code : Nat) (mxv : Bool) (vals : List (Val × Rounding)) : Nat × List Conv :=
  let vs := vals.map fun p => (f32 (toF32 p.1), p.2)
  if vs.any (fun p => !p.1.isFinite) then (255, vs.map fun _ => .of 0)
  else
    let amax := vs.foldl (fun a p => if a.lt p.1.abs then p.1.abs else a) (.num false 0 0)
    let e : Int := if amax.isZero then -127 else max (-127) (min 127 (floorLog2 amax - mxEmax code mxv))
    ((e + 127).toNat, vs.map fun p => mxElem code mxv e p.2 p.1)

/-! ### Operand pairs (R66, R67) -/

/-- R66: how a pair runs. -/
structure PairRun where
  seg   : Nat
  int   : Bool
  /-- The pair runs at the BF16 rate, so MX operands are rounded to BF16 (R67). -/
  bf16  : Bool
  /-- FP32 with FP32 (R83). -/
  f32   : Bool
  deriving DecidableEq, Repr

def isFp4 (c : Nat) : Bool := c == 7 || c == 13
def isFp8Class (c : Nat) : Bool := c == 3 || c == 4 || c == 5 || c == 6 || c == 11 || c == 12

/-- R66: the pairs the lane row accepts. -/
def pairRun (a b : Nat) : Option PairRun :=
  if isFp4 a && isFp4 b then some { seg := 64, int := false, bf16 := false, f32 := false }
  else if a == 9 && b == 9 then some { seg := 64, int := true, bf16 := false, f32 := false }
  else if (isFp8Class a && (isFp8Class b || isFp4 b)) || (isFp4 a && isFp8Class b) then
    some { seg := 32, int := false, bf16 := false, f32 := false }
  else if a == 14 && b == 14 then some { seg := 32, int := false, bf16 := false, f32 := false }
  else if (a == 8 && (b == 8 || b == 9)) || (a == 9 && b == 8) then
    some { seg := 32, int := true, bf16 := false, f32 := false }
  else if (a == 2 && (b == 2 || isFp8Class b || isFp4 b || b == 14)) ||
      (b == 2 && (isFp8Class a || isFp4 a || a == 14)) then
    some { seg := 16, int := false, bf16 := true, f32 := false }
  else if a == 1 && b == 1 then some { seg := 16, int := false, bf16 := false, f32 := false }
  else if a == 0 && b == 0 then some { seg := 4, int := false, bf16 := false, f32 := true }
  else none

/-- R67, R69: an operand element as the lanes use it: the element, its scale byte (127 when not MX). -/
def operandVal (run : PairRun) (code : Nat) (mxv : Bool) (bits sb : Nat) : Val :=
  let v := decodeElem code mxv bits
  if isMx code then
    let s := scaled v sb
    if run.bf16 then toBf16 s else s
  else v

/-- R68, R70: one row segment added to an accumulator entry. -/
def accumulate (int : Bool) (entry : BitVec 32) (products : List Val) : BitVec 32 :=
  if int then
    let s := products.foldl (fun (i : Int) v => match v with
      | .num neg m _ => i + signedMag neg m
      | _ => i) 0
    entry + BitVec.ofInt 32 s
  else fadd entry (toF32 (sumVals products))

/-- R83: the tolerance times the bound, compared exactly with `|t - c|` (R119). -/
def checkPasses (run : PairRun) (k : Nat) (t c beta : BitVec 32) : Bool :=
  if run.int then t == c
  else
    let d := ((f32 t).add (f32 c).neg).abs
    let tau := Val.num false (k + (if run.f32 then 4 else 2)) (-23)
    !(tau.mul (f32 beta)).lt d

/-- R119: the tree sum of 2^n entries, adjacent pairs first. -/
def treePairs (int : Bool) : List (BitVec 32) → List (BitVec 32)
  | a :: b :: t => (if int then a + b else fadd a b) :: treePairs int t
  | l => l

def treeSum (int : Bool) : Nat → List (BitVec 32) → BitVec 32
  | 0, l => l.headD 0
  | n + 1, l => treeSum int n (treePairs int l)

end Sys2Proof.Machine
end

