-- ==== Sys2Proof/Machine/Operands.lean ====
section
/-! DEFINITION. The operand forms of a stream descriptor: the fields of every layout (R107, R113, R144, R145, R173, R179,
R186), and the checks that reject a descriptor on its own bits. -/

namespace Sys2Proof.Machine

/-- Bits `[lo + w - 1 : lo]` of a descriptor. -/
def dfield (d : BitVec 256) (lo w : Nat) : Nat := (d.extractLsb' lo w).toNat
/-- One bit of a descriptor. -/
def dbit (d : BitVec 256) (i : Nat) : Bool := d.getLsbD i
/-- The 256 bits of 32 bytes. -/
def descOf (b : Bytes) : BitVec 256 := BitVec.ofNat 256 (leNat b)

/-! ### The common header (R173, R174) -/

def opcodeOf (d : BitVec 256) : Nat := dfield d 0 8
def wsemOf (d : BitVec 256) : Nat := dfield d 8 6
def wenOf (d : BitVec 256) : Bool := dbit d 14
def ssemOf (d : BitVec 256) : Nat := dfield d 15 6
def senOf (d : BitVec 256) : Bool := dbit d 21
def orderedOf (d : BitVec 256) : Bool := dbit d 22
def tagOf (d : BitVec 256) : BitVec 8 := d.extractLsb' 24 8

def opCopy : Nat := 0x01
def opMma : Nat := 0x10
def opMv : Nat := 0x11
def opVec : Nat := 0x20
def opWait : Nat := 0x30
def opSignal : Nat := 0x31
def opLaunchAt : Nat := 0x32
def opFence : Nat := 0x33
def opLoop : Nat := 0x34
def opBranch : Nat := 0x35
def opSetbase : Nat := 0x36
def opWaitLow : Nat := 0x37
def opEnd : Nat := 0x3F

/-- R174: the opcodes of level 3. -/
def opcodes : List Nat := [0x01, 0x10, 0x11, 0x20, 0x30, 0x31, 0x32, 0x33, 0x34, 0x35, 0x36, 0x37, 0x3F]

/-- R173: bit 23 is 0. -/
def headerOk (d : BitVec 256) : Bool := !dbit d 23

/-- R175: the first cause among the faults found in a descriptor: reserved bit 0x01, value or format 0x02, extent 0x03,
bank 0x04. -/
def firstCause : List (Bool × BitVec 8) → Option (BitVec 8)
  | [] => none
  | (bad, c) :: t => if bad then some c else firstCause t

/-- Size of the stage buffer and of the operand cache. -/
def stageBytes : Nat := 4194304
def cacheBytes : Nat := 524288

/-- Bytes of `n` packed elements of a format (R61). -/
def rowBytes (fmt n : Nat) : Nat := (n * elemBits fmt + 7) / 8
/-- Blocks of 32 elements. -/
def mxBlocks (n : Nat) : Nat := (n + 31) / 32
/-- Rounded up to 32 bytes (R108). -/
def pad32 (n : Nat) : Nat := (n + 31) / 32 * 32

/-! ### MMA (R107) -/

structure Mma where
  aAddr : Nat
  aPitch : Nat
  aFmt : Nat
  aMxv : Bool
  aCol : Bool
  aScale : Nat
  bAddr : Nat
  bPitch : Nat
  bFmt : Nat
  bMxv : Bool
  bTol : Bool
  bScale : Nat
  m : Nat
  n : Nat
  k : Nat
  pair : Nat
  bank : Nat
  acc : Bool
  out : Nat
  oAddr : Nat
  oPitch : Nat
  oFmt : Nat
  oMxv : Bool
  sat : Bool

def mmaOf (d : BitVec 256) : Mma :=
  { aAddr := 32 * dfield d 32 17, aPitch := 32 * dfield d 49 12, aFmt := dfield d 61 4, aMxv := dbit d 65,
    aCol := dbit d 66, aScale := 32 * dfield d 67 17, bAddr := 32 * dfield d 84 17, bPitch := 32 * dfield d 101 12,
    bFmt := dfield d 113 4, bMxv := dbit d 117, bTol := dbit d 118, bScale := 32 * dfield d 119 17,
    m := dfield d 136 7 + 1, n := dfield d 143 8 + 1, k := dfield d 151 20, pair := dfield d 171 2,
    bank := dfield d 173 1, acc := dbit d 174, out := dfield d 175 2, oAddr := 32 * dfield d 177 17,
    oPitch := 32 * dfield d 194 12, oFmt := dfield d 206 4, oMxv := dbit d 210, sat := dbit d 211 }

/-- R96: segments a pass covers, and the largest N. -/
def pairSegs (pair : Nat) : Nat := 2 ^ pair
def pairMaxN (pair : Nat) : Nat := 256 / 2 ^ pair

/-- Elements of K one segment covers (R66, R86). -/
def segOf (a b : Nat) : Nat := ((pairRun a b).map (·.seg)).getD 1

/-- Elements of K a pass of an MMA covers (R96). -/
def Mma.passK (x : Mma) : Nat := segOf x.aFmt x.bFmt * pairSegs x.pair
/-- Passes of an MMA. -/
def Mma.passes (x : Mma) : Nat := (x.k + x.passK - 1) / x.passK

/-- Stored rows of A and elements in each. -/
def Mma.aShape (x : Mma) : Nat × Nat := if x.aCol then (x.k, x.m) else (x.m, x.k)
def Mma.bShape (x : Mma) : Nat × Nat := if x.bTol then (x.n, x.k) else (x.k, x.n)
/-- R108: rows and row length of a scale tensor. -/
def Mma.aScaleShape (x : Mma) : Nat × Nat := if x.aCol then (mxBlocks x.k, x.m) else (x.m, mxBlocks x.k)
def Mma.bScaleShape (x : Mma) : Nat × Nat := if x.bTol then (x.n, mxBlocks x.k) else (mxBlocks x.k, x.n)

/-- The end of a tensor of `rows` rows of `len` bytes, `pitch` apart. -/
def tensorEnd (base rows len pitch : Nat) : Nat := base + (rows - 1) * pitch + len

/-- R104: where the scale tensor of an MX output begins. -/
def mxScaleBase (base rows len pitch : Nat) : Nat := pad32 (tensorEnd base rows len pitch)

/-- R99: A formats that column read accepts. -/
def columnFmt (f : Nat) : Bool := [3, 4, 8, 11, 14, 2, 1, 0].contains f

/-- The end of an output with its scale tensor. -/
def outEnd (base rows n fmt pitch : Nat) : Nat :=
  let e := tensorEnd base rows (rowBytes fmt n) pitch
  if isMx fmt then pad32 e + rows * pad32 (mxBlocks n) else e

/-- R57, R64, R66, R99, R104, R109: what the bits of an MMA break, if anything. -/
def mmaBad (d : BitVec 256) : Option (BitVec 8) :=
  let x := mmaOf d
  let (ar, an) := x.aShape
  let (br, bn) := x.bShape
  let la := rowBytes x.aFmt an
  let lb := rowBytes x.bFmt bn
  firstCause
    [ (!headerOk d || dfield d 212 44 != 0, 0x01),
      (x.k == 0 || x.pair == 3 || decide (pairMaxN x.pair < x.n) || x.out == 3 || (pairRun x.aFmt x.bFmt).isNone ||
        !mxvOk x.aFmt x.aMxv || !mxvOk x.bFmt x.bMxv || (x.aCol && !columnFmt x.aFmt) ||
        decide (x.aPitch < la) || decide (x.bPitch < lb) ||
        (if x.out == 2 then x.oFmt == 15 || !mxvOk x.oFmt x.oMxv else dfield d 177 35 != 0), 0x02),
      (decide (stageBytes < tensorEnd x.aAddr ar la x.aPitch) || decide (stageBytes < tensorEnd x.bAddr br lb x.bPitch) ||
        (isMx x.aFmt && decide (stageBytes < x.aScale + x.aScaleShape.1 * pad32 x.aScaleShape.2)) ||
        (isMx x.bFmt && decide (stageBytes < x.bScale + x.bScaleShape.1 * pad32 x.bScaleShape.2)) ||
        (x.out == 2 && decide (stageBytes < outEnd x.oAddr x.m x.n x.oFmt x.oPitch)), 0x03) ]

/-! ### MV (R113) -/

structure Mv where
  wAddr : Nat
  wPitch : Nat
  wFmt : Nat
  wMxv : Bool
  wT : Bool
  wScale : Nat
  xAddr : Nat
  xPitch : Nat
  xFmt : Nat
  v : Nat
  k : Nat
  n : Nat
  oAddr : Nat
  oPitch : Nat
  oFmt : Nat
  oMxv : Bool
  sat : Bool

def mvOf (d : BitVec 256) : Mv :=
  { wAddr := 32 * dfield d 32 17, wPitch := 32 * dfield d 49 12, wFmt := dfield d 61 4, wMxv := dbit d 65,
    wT := dbit d 66, wScale := 32 * dfield d 67 17, xAddr := 32 * dfield d 84 17, xPitch := 32 * dfield d 101 12,
    xFmt := dfield d 113 4, v := 2 ^ dfield d 117 2, k := dfield d 119 20, n := dfield d 139 16 + 1,
    oAddr := 32 * dfield d 155 17, oPitch := 32 * dfield d 172 12, oFmt := dfield d 184 4, oMxv := dbit d 188,
    sat := dbit d 189 }

/-- Stored rows of W and elements in each; rows and row length of its scale tensor. -/
def Mv.wShape (x : Mv) : Nat × Nat := if x.wT then (x.n, x.k) else (x.k, x.n)
def Mv.wScaleShape (x : Mv) : Nat × Nat := if x.wT then (x.n, mxBlocks x.k) else (mxBlocks x.k, x.n)

/-- R109 where meaningful, R113: what the bits of an MV break, if anything. -/
def mvBad (d : BitVec 256) : Option (BitVec 8) :=
  let x := mvOf d
  let (wr, wn) := x.wShape
  let lw := rowBytes x.wFmt wn
  firstCause
    [ (!headerOk d || dfield d 190 66 != 0, 0x01),
      (x.k == 0 || isMx x.xFmt || (pairRun x.xFmt x.wFmt).isNone || !mxvOk x.wFmt x.wMxv || x.oFmt == 15 ||
        !mxvOk x.oFmt x.oMxv || decide (x.wPitch < lw) ||
        (decide (1 < x.v) && decide (x.xPitch < rowBytes x.xFmt x.k)), 0x02),
      (decide (stageBytes < tensorEnd x.wAddr wr lw x.wPitch) ||
        (isMx x.wFmt && decide (stageBytes < x.wScale + x.wScaleShape.1 * pad32 x.wScaleShape.2)) ||
        decide (stageBytes < tensorEnd x.xAddr x.v (rowBytes x.xFmt x.k) x.xPitch) ||
        decide (stageBytes < outEnd x.oAddr x.v x.n x.oFmt x.oPitch), 0x03) ]

/-! ### VEC (R144, R145) -/

structure Vec where
  op : Nat
  recD : Nat
  rec0 : Nat
  rec1 : Nat
  rec2 : Nat
  imm0 : BitVec 32
  imm1 : BitVec 32
  srStream : BitVec 32
  sr : Bool
  sat : Bool
  red : Nat
  rel : Bool

/-- "None" as a record address. -/
def recNone : Nat := 0x1FFFF

def vecOf (d : BitVec 256) : Vec :=
  { op := dfield d 32 8, recD := dfield d 40 17, rec0 := dfield d 57 17, rec1 := dfield d 74 17, rec2 := dfield d 91 17,
    imm0 := d.extractLsb' 108 32, imm1 := d.extractLsb' 140 32, srStream := d.extractLsb' 172 32, sr := dbit d 204,
    sat := dbit d 205, red := dfield d 206 5, rel := dbit d 211 }

/-- The record that 64 bytes spell; none when a reserved bit is set or NDIM is out of range. -/
def trecOf (b : Bytes) : Option TRec :=
  let v := leNat b
  let nd := field v 8 3
  let ext := (List.range 5).map fun i => field v (64 + 20 * i) 20 + 1
  if field v 7 1 ≠ 0 ∨ field v 11 5 ≠ 0 ∨ field v 500 12 ≠ 0 ∨ nd = 0 ∨ 5 < nd ∨ (ext.drop nd).any (· != 1) then none
  else some
    { loc := field v 0 2, fmt := field v 2 4, mxv := field v 6 1 == 1, ndim := nd, base := field v 16 48, ext := ext,
      str := (List.range 5).map fun i => signed (field v (164 + 32 * i) 32) 32, regLo := field v 324 48, regHi := field v 372 48,
      sbase := field v 420 48, spitch := field v 468 32 }

/-! ### COPY (R186, R187) -/

structure Copy where
  srcLoc : Nat
  dstLoc : Nat
  srcAddr : Nat
  dstAddr : Nat
  srcBr : Nat
  dstBr : Nat
  len : Nat
  rows : Nat
  sstride : Int
  dstride : Int
  cmode : Nat
  cls : Nat
  refetch : Bool
  ra : Bool
  psigEn : Bool
  psig : Nat

def copyOf (d : BitVec 256) : Copy :=
  { srcLoc := dfield d 32 3, dstLoc := dfield d 35 3, srcAddr := dfield d 38 48, dstAddr := dfield d 86 48,
    srcBr := dfield d 134 3, dstBr := dfield d 137 3, len := dfield d 140 20 + 1, rows := dfield d 160 18 + 1,
    sstride := signed (dfield d 178 32) 32, dstride := signed (dfield d 210 32) 32, cmode := dfield d 242 2,
    cls := dfield d 244 2, refetch := dbit d 246, ra := dbit d 247, psigEn := dbit d 248, psig := dfield d 249 6 }

/-- R186: an operand address through its base register. -/
def baseAddr (br : Vector (BitVec 48) 4) (sel addr : Nat) : Nat :=
  if sel = 0 then addr else ((br.getD (sel - 1) 0).toNat + addr) % 2 ^ 48

/-- Bounds of the rows of an extent: lowest byte and one past the highest. -/
def rowsLo (a : Nat) (rows : Nat) (st : Int) : Int := (a : Int) + min 0 (((rows : Int) - 1) * st)
def rowsHi (a len rows : Nat) (st : Int) : Int := (a : Int) + max 0 (((rows : Int) - 1) * st) + len

/-- Some source row overlaps some destination row: for each source row, the destination rows nearest to it. -/
def rowsOverlap (sa da len rows : Nat) (ss ds : Int) : Bool :=
  (List.range rows).any fun i =>
    let x : Int := (sa : Int) + i * ss - da
    if ds = 0 then decide (x.natAbs < len)
    else
      let q := x / ds
      [q - 1, q, q + 1].any fun j => decide ((x - max 0 (min ((rows : Int) - 1) j) * ds).natAbs < len)

/-- R187: size of a bounded location, if the location has one. -/
def locSize (l : Nat) : Option Nat :=
  match l with
  | 0 => some stageBytes
  | 1 => some cacheBytes
  | 5 => some 256
  | _ => none

/-- R186, R187: what a COPY whose base addresses are `sa` and `da` breaks, if anything. -/
def copyBad (d : BitVec 256) (sa da : Nat) : Option (BitVec 8) :=
  let x := copyOf d
  let outside := fun (l a : Nat) (st : Int) => match locSize l with
    | some n => decide (rowsLo a x.rows st < 0) || decide ((n : Int) < rowsHi a x.len x.rows st)
    | none => false
  firstCause
    [ (!headerOk d || dbit d 255, 0x01),
      (decide (6 ≤ x.srcLoc) || decide (5 ≤ x.dstLoc) || decide (4 < x.srcBr) || decide (4 < x.dstBr) ||
        (x.psigEn && x.dstLoc != 3) ||
        (x.dstLoc == 3 && (da % 256 != 0 || x.len % 256 != 0 || (decide (1 < x.rows) && x.dstride % 256 != 0))) ||
        (match x.cmode with
         | 0 => false
         | 3 => x.srcLoc != 2
         | _ => x.srcLoc != 0 || x.dstLoc != 2) ||
        (x.cmode != 0 && (x.len % 4096 != 0 || sa % 4096 != 0 || da % 4096 != 0)), 0x02),
      (outside x.srcLoc sa x.sstride || outside x.dstLoc da x.dstride, 0x03),
      ((decide (1 < x.rows) && decide (x.dstride.natAbs < x.len)) ||
        (x.srcLoc == x.dstLoc && rowsOverlap sa da x.len x.rows x.sstride x.dstride), 0x02) ]

/-! ### Control descriptors (R174, R179) -/

/-- R174, R179 to R184: what the bits of a control descriptor break, if anything. -/
def controlBad (d : BitVec 256) : Option (BitVec 8) :=
  let op := opcodeOf d
  let rsv := fun (lo : Nat) => (!headerOk d || dfield d lo (256 - lo) != 0, (0x01 : BitVec 8))
  if op = opWait then firstCause [rsv 113, (!dbit d 38 && !dbit d 72, 0x02)]
  else if op = opSignal then
    firstCause [rsv 62, (dfield d 38 16 == 0 || (decide (128 ≤ dfield d 54 8) && dfield d 54 8 != 0xFF), 0x02)]
  else if op = opLaunchAt then firstCause [rsv 72]
  else if op = opFence then firstCause [rsv 34, (dfield d 32 2 == 3, 0x02)]
  else if op = opLoop then
    firstCause [rsv 125, (dfield d 34 32 == 0 || decide (0 ≤ signed (dfield d 66 24) 24) || decide (4 < dfield d 90 3), 0x02)]
  else if op = opBranch then firstCause [rsv 97, (decide (4 ≤ dfield d 38 3) || dfield d 73 24 == 0, 0x02)]
  else if op = opSetbase then firstCause [rsv 83, (dfield d 32 3 == 0 || decide (4 < dfield d 32 3), 0x02)]
  else if op = opWaitLow then firstCause [rsv 80, (!dbit d 38 && !dbit d 39, 0x02)]
  else if op = opEnd then firstCause [rsv 32]
  else some 0x01

/-- A signed 24-bit descriptor offset (R179). -/
def targetOf (pc : BitVec 48) (t : Nat) : BitVec 48 := pc + BitVec.ofInt 48 (32 * signed t 24)

end Sys2Proof.Machine
end

