-- ==== Sys2Proof/Config.lean ====
section
/-! DEFINITION. What the specification leaves open: values nothing in Lean can evaluate. Each is applied to the
operands it depends on, or to the counter `State.free` that a step advances (assumption log 2). -/

namespace Sys2Proof.Config

/-- A fresh open value of `w` bits, numbered by the free counter of the state. -/
opaque freeValue : Nat → (w : Nat) → BitVec w

/-- R155: the fixed mapping of special function `op` (VEC codes 0x20 to 0x2A) at an FP32 argument. -/
opaque special (op : BitVec 8) (x : BitVec 32) : BitVec 32

/-- R143, R151: what a lane of PERM takes whose index names no active lane, from the group's lanes, the index and its own number. -/
opaque permOpen (lanes : List (BitVec 32)) (index : BitVec 32) (lane : Nat) : BitVec 32

/-- R201: byte `off` of the channel record of a controller position: training results and device identity, not stated. -/
opaque chanRecord (pos off : Nat) : Byte

/-- R202, R412: the keyed tag of a block: key set, position, block, data. -/
opaque blockTag (key pos j : Nat) (d : Bytes) : BitVec 32

/-- R60, R152: the sign of the minimum (`max` false) or maximum of two zeros of opposite sign, which no rule states. -/
opaque zeroSign (max : Bool) (a b : BitVec 32) : Bool

/-- R436: the HSS signature by the identity key over `msg` with one-time index `q`, 5,396 bytes. -/
opaque hssSign (msg : Bytes) (q : Nat) : Bytes

/-- R436: the identity public key of the module, 60 bytes. -/
opaque identityKey : Bytes

/-- R442: the vendor's signature in the identity certificate. -/
opaque identityCert : Bytes

/-- R421: the ML-KEM-1024 encapsulation key drawn at boot `b`, 1,568 bytes. -/
opaque kemKey (boot : Nat) : Bytes

/-- R326, R277, R422: AES-256-GCM output under a key with a nonce and authenticated data. -/
opaque gcmSeal (key : Bytes) (nonce : Bytes) (aad : Bytes) (plain : Bytes) : Bytes

/-- R277, R326: the 16-byte AES-256-GCM tag. -/
opaque gcmTag (key : Bytes) (nonce : Bytes) (aad : Bytes) (plain : Bytes) : Bytes

/-- R326, R333: opening of an AES-256-GCM seal; none where the tag fails. -/
opaque gcmOpen (key : Bytes) (nonce : Bytes) (aad : Bytes) (cipher : Bytes) (tag : Bytes) : Option Bytes

/-- R275: the 32-bit salt of a link key, by key number. -/
opaque linkSalt (key : Nat) : BitVec 32

/-- R421: the ML-KEM-1024 shared secret that a ciphertext decapsulates to under the key of boot `b`, 32 bytes. -/
opaque kemSecret (boot : Nat) (ct : Bytes) : Bytes

/-- R340, R347: Jalevendi's IANA enterprise number, which GET_INFO reports and the specification does not state. -/
opaque enterprise : BitVec 32

/-- R396: the low byte of CODE for an event, whose class alone the specification states. -/
opaque logCode (event : Nat) : BitVec 8

/-- R396: BODY of the error-log entry with sequence number `eseq`, whose layout the specification does not state. -/
opaque logBody (eseq : Nat) : BitVec 320

/-- R399: the 4,032 bytes a dump holds of a unit whose registers read as given: the layout is not stated. -/
opaque dumpState (unit : Nat) (regs : Bytes) : Bytes

/-- R398: bytes that a unit answers in a dump, by the dump's number: 4,032 or more for all, 0 for none. -/
opaque dumpReach (dump unit : Nat) : Nat

/-- R398, R399: the shadow status of a unit at a Beat. -/
opaque dumpShadow (unit : Nat) (beat : Nat) : BitVec 128

/-- R362: the signed contents of the factory regions 0 and 1, by region and offset. -/
opaque factoryByte (region off : Nat) : Byte

/-- R363: the 48-byte REGION entry of a factory region. -/
opaque factoryEntry (region : Nat) : Bytes

/-- R480: what the FRU record says of the unit: its part number (0) and its serial number (1). -/
opaque fruText (n : Nat) : Bytes

/-- R479: the unique device identifier that ARP answers, 16 bytes. -/
opaque udid : Bytes

/-- R479: the entry of an MCTP version that Get MCTP Version Support answers. -/
opaque mctpVersion : BitVec 32

/-- R399: the code of a dump trigger. -/
opaque dumpTrigger (why : Nat) : BitVec 8

end Sys2Proof.Config
end

