-- ==== Sys2Proof/Machine/Ops.lean ====
section
/-! DEFINITION. The shared operations over the state: maps, byte memories, contexts, cores, blocks of module memory,
translation, notices, logs, the device state, time comparison. -/

namespace Sys2Proof.Machine

/-! ### Finite maps -/

/-- The value at a key. -/
def mapGet? {α : Type} : AMap α → Nat → Option α
  | [], _ => none
  | (k, v) :: t, i => if k = i then some v else mapGet? t i

/-- The value at a key, or a default. -/
def mapGet {α : Type} (m : AMap α) (i : Nat) (d : α) : α := (mapGet? m i).getD d

/-- Insert or replace, keys ascending. -/
def mapSet {α : Type} : AMap α → Nat → α → AMap α
  | [], i, x => [(i, x)]
  | (k, v) :: t, i, x => if k = i then (i, x) :: t else if i < k then (i, x) :: (k, v) :: t else (k, v) :: mapSet t i x

/-- Remove a key. -/
def mapErase {α : Type} : AMap α → Nat → AMap α
  | [], _ => []
  | (k, v) :: t, i => if k = i then mapErase t i else (k, v) :: mapErase t i

/-! ### Byte memories (canonical: no zero byte listed) -/

/-- The byte at an address; an unlisted address reads 0. -/
def memGet : Memory → Nat → Byte
  | [], _ => 0
  | (a, v) :: t, i => if a = i then v else memGet t i

/-- Write one byte. -/
def memSet : Memory → Nat → Byte → Memory
  | [], i, x => if x = 0 then [] else [(i, x)]
  | (a, v) :: t, i, x =>
    if a = i then (if x = 0 then t else (i, x) :: t)
    else if i < a then (if x = 0 then (a, v) :: t else (i, x) :: (a, v) :: t)
    else (a, v) :: memSet t i x

/-- `n` bytes from an address. -/
def memRead (m : Memory) (a n : Nat) : Bytes := (List.range n).map fun i => memGet m (a + i)

/-- Write bytes from an address. -/
def memWrite : Memory → Nat → Bytes → Memory
  | m, _, [] => m
  | m, a, b :: t => memWrite (memSet m a b) (a + 1) t

/-- Remove every cell of a range, which then reads 0. -/
def memClear (m : Memory) (lo hi : Nat) : Memory := m.filter fun c => decide (c.1 < lo) || decide (hi ≤ c.1)

/-! ### Options and partitions (R3, R5, R6, R19, R26) -/

/-- Fabric ports fitted. -/
def portCount (s : State) : Nat := if s.opt.f24 then 24 else 36
/-- Port groups fitted (R266). -/
def groupCount (s : State) : Nat := if s.opt.f24 then 6 else 9
/-- Channels in service. -/
def chanCount (s : State) : Nat := if s.opt.m54 then 54 else 72
/-- Spare groups (R5). -/
def spareGroups (s : State) : Nat := if s.opt.m54 then 6 else 8

/-- HUB_OPTIONS (R10). -/
def hubOptions (o : Options) : BitVec 32 :=
  BitVec.ofNat 32 ((if o.f24 then 0x18 else 0x24) + (if o.m54 then 0x36 else 0x48) * 2 ^ 8 +
    (if o.m54 then 6 else 8) * 2 ^ 16 + (if o.conf then 2 ^ 20 else 0) + o.stepDigit.toNat * 2 ^ 24 +
    o.stepLetter.toNat * 2 ^ 28)

/-- Die of a spare group (R22). -/
def groupDie (s : State) (g : Nat) : Nat := if s.opt.m54 then [0, 0, 1, 2, 2, 3].getD g 0 else g / 2
/-- First controller position index of a group. -/
def groupBase (s : State) (g : Nat) : Nat :=
  20 * groupDie s g + 10 * (if s.opt.m54 then [0, 1, 0, 0, 1, 0].getD g 0 else g % 2)
/-- Compute die of a channel (R24). -/
def chanDie (s : State) (n : Nat) : Nat := groupDie s (n / 9)
/-- Controller position index that serves a channel. -/
def chanPos (s : State) (n : Nat) : Nat :=
  20 * chanDie s n + (s.hub.chanMap.getD n { ctrl := 0, status := .unmapped }).ctrl

/-- Partition of a compute die under the layout (R6, R26). -/
def diePart (layout : BitVec 2) (d : Nat) : Nat :=
  match layout.toNat with
  | 0 => 0
  | 1 => d / 2
  | _ => d

/-- Number of partitions. -/
def partCount (layout : BitVec 2) : Nat :=
  match layout.toNat with
  | 0 => 1
  | 1 => 2
  | _ => 4

/-- Partition of a logical core. -/
def corePart (s : State) (n : Nat) : Nat := diePart s.hub.layout (n / 32)
/-- Partition of a channel. -/
def chanPart (s : State) (n : Nat) : Nat := diePart s.hub.layout (chanDie s n)
/-- Channels of a partition: Cp of R214. -/
def partChans (s : State) : Nat := chanCount s / partCount s.hub.layout
/-- Lowest channel of a partition. -/
def partFirst (s : State) (p : Nat) : Nat := p * partChans s
/-- 2 MiB data pages of a partition (R26). -/
def partPages (s : State) : Nat := 1984 * partChans s
/-- A partition runs in confidential mode. -/
def isConf (s : State) (p : Nat) : Bool := s.hub.conf.getLsbD p
/-- Some partition is confidential. -/
def anyConf (s : State) : Bool := s.hub.conf != 0

/-! ### Access to parts of the state -/

/-- Map entry of a logical core. -/
def coreEntry (s : State) (n : Nat) : CoreEntry := s.hub.coreMap.getD n { phys := 0, status := .unmapped }
/-- A physical slot's state. -/
def getP (s : State) (p : Nat) : PCore := mapGet s.slots p PCore.reset
def setP (s : State) (p : Nat) (c : PCore) : State := { s with slots := mapSet s.slots p c }
/-- The slot that serves a logical core. -/
def physOf (s : State) (n : Nat) : Nat := (coreEntry s n).phys
/-- A logical core is in service (R24). -/
def inService (s : State) (n : Nat) : Bool := (coreEntry s n).status == .inService
/-- State of the slot that serves logical core `n`. -/
def getC (s : State) (n : Nat) : PCore := getP s (physOf s n)
def setC (s : State) (n : Nat) (c : PCore) : State := setP s (physOf s n) c
def modC (s : State) (n : Nat) (f : PCore → PCore) : State := setC s n (f (getC s n))
/-- Counters of a core. -/
def modCnt (s : State) (n : Nat) (f : CoreCounters → CoreCounters) : State :=
  modC s n fun c => { c with cnt := f c.cnt }
def getL (s : State) (n : Nat) : LCore := mapGet s.lcores n LCore.reset
def setL (s : State) (n : Nat) (l : LCore) : State := { s with lcores := mapSet s.lcores n l }
def getCtx (s : State) (c : Nat) : Context := s.ctxs.getD c Context.reset
def setCtx (s : State) (c : Nat) (x : Context) : State := { s with ctxs := s.ctxs.setIfInBounds c x }
def modCtx (s : State) (c : Nat) (f : Context → Context) : State := setCtx s c (f (getCtx s c))
def modLed (s : State) (c : Nat) (f : Ledger → Ledger) : State := modCtx s c fun x => { x with led := f x.led }
def modPeal (s : State) (c : Nat) (f : Peal → Peal) : State := modCtx s c fun x => { x with peal := f x.peal }
def modSec (s : State) (c : Nat) (f : CtxSec → CtxSec) : State := modCtx s c fun x => { x with sec := f x.sec }
def getPort (s : State) (p : Nat) : PortBlock := s.fab.ports.getD p PortBlock.reset
def setPort (s : State) (p : Nat) (b : PortBlock) : State :=
  { s with fab := { s.fab with ports := s.fab.ports.setIfInBounds p b } }
def modPort (s : State) (p : Nat) (f : PortBlock → PortBlock) : State := setPort s p (f (getPort s p))
def getCtrl (s : State) (i : Nat) : Ctrl := s.mem.ctrl.getD i Ctrl.reset
def setCtrl (s : State) (i : Nat) (c : Ctrl) : State :=
  { s with mem := { s.mem with ctrl := s.mem.ctrl.setIfInBounds i c } }
def modCtrl (s : State) (i : Nat) (f : Ctrl → Ctrl) : State := setCtrl s i (f (getCtrl s i))
def modHub (s : State) (f : Hub → Hub) : State := { s with hub := f s.hub }
def modTime (s : State) (f : TimeBlock → TimeBlock) : State := { s with time := f s.time }
def modFab (s : State) (f : Fabric → Fabric) : State := { s with fab := f s.fab }
def modMail (s : State) (f : Mail → Mail) : State := { s with mail := f s.mail }
def modDiag (s : State) (f : Diag → Diag) : State := { s with diag := f s.diag }
def modMem (s : State) (f : Mem → Mem) : State := { s with mem := f s.mem }
def modPwr (s : State) (f : Power → Power) : State := { s with pwr := f s.pwr }
def modSecCore (s : State) (f : Sec → Sec) : State := { s with sec := f s.sec }
def getStream (c : PCore) (i : Nat) : Stream := c.streams.getD i Stream.reset
def setStream (c : PCore) (i : Nat) (t : Stream) : PCore := { c with streams := c.streams.setIfInBounds i t }
def modStream (c : PCore) (i : Nat) (f : Stream → Stream) : PCore := setStream c i (f (getStream c i))
def getBank (c : PCore) (i : Nat) : Bank := c.banks.getD i Bank.reset
def setBank (c : PCore) (i : Nat) (b : Bank) : PCore := { c with banks := c.banks.setIfInBounds i b }
def getEngine (s : State) (e : Nat) : Engine :=
  s.fab.engines.getD e { running := [], queued := [], err := false, fails := [], result := 0 }
def setEngine (s : State) (e : Nat) (x : Engine) : State :=
  { s with fab := { s.fab with engines := s.fab.engines.setIfInBounds e x } }
def getBox (s : State) (m : Nat) : MailBox := s.mail.boxes.getD m { owner := .host, drop := 0, req := [], resp := [] }
def setBox (s : State) (m : Nat) (b : MailBox) : State :=
  { s with mail := { s.mail with boxes := s.mail.boxes.setIfInBounds m b } }
/-- Bounds of a value. -/
def within (lo hi v : Nat) : Bool := decide (lo ≤ v) && decide (v ≤ hi)

/-- Something that leaves the module. -/
def emit (s : State) (o : Output) : State := { s with outbox := o :: s.outbox }
/-- A fresh open value (assumption log 2). -/
def drawFree (s : State) (w : Nat) : BitVec w × State := (Config.freeValue s.free w, { s with free := s.free + 1 })

/-- Logical cores of a partition that are in service, ascending. -/
def partCores (s : State) (p : Nat) : List Nat :=
  (List.range 128).filter fun n => corePart s n == p && inService s n

/-- A stream of the core is not IDLE. -/
def coreBusy (c : PCore) : Bool := (List.range 16).any fun i => (getStream c i).st != .idle

/-! ### Time (R34, R51) -/

/-- R34: time `a` is later than `b`. -/
def laterThan (a b : BitVec 64) : Bool := a != b && decide ((a - b).toNat < 2 ^ 63)

/-- Ticks from `b` to `a`, 0 when `a` is not later. -/
def ticksSince (a b : BitVec 64) : Nat := if decide ((a - b).toNat < 2 ^ 63) then (a - b).toNat else 0

/-- R41: time comparisons are active. -/
def comparing (s : State) : Bool := s.time.st == .locked || s.time.st == .unlocked

/-- R51: one evaluation of an armed time. -/
def evalLaunch (t : BitVec 40) (now : BitVec 64) (first : Bool) : Launch :=
  let d := (t - now.setWidth 40).toNat
  if d = 0 then .onTime
  else if first then (if d < 2 ^ 39 then .wait else .late)
  else if d ≥ 2 ^ 39 then .onTime else .wait

/-- R53: count a late launch. -/
def countLate (s : State) : State := modTime s fun t => { t with lateLaunch := t.lateLaunch + 1 }

/-- R42, R51: the first evaluation of a time, unless comparisons are suspended. -/
def firstLook (s : State) (t : BitVec 40) : Option Launch :=
  if comparing s then some (evalLaunch t s.time.now true) else none

/-- R51: a time is armed: its first evaluation is made at the TIME_NOW at which it is armed (assumption log 111). -/
def armTime (s : State) (t : BitVec 40) : Armed := { t := t, seen := firstLook s t, held := false }

/-- R42, R51: a comparison that has not been evaluated yet is, unless it is held at a quiesce barrier. -/
def lookNow (s : State) (a : Armed) : Armed := if a.held || a.seen.isSome then a else { a with seen := firstLook s a.t }

/-- R51: one evaluation of an armed time: what the first evaluation found stands until the time has fired; a time that lay ahead
is compared anew. A held or suspended comparison is not evaluated (R42, R330). -/
def evalArmed (s : State) (a : Armed) : Launch × Armed :=
  if a.held || !comparing s then (.wait, a)
  else match (lookNow s a).seen with
    | some .wait => (if a.seen.isSome then evalLaunch a.t s.time.now false else .wait, lookNow s a)
    | some v => (v, lookNow s a)
    | none => (.wait, a)

/-- A blocked stream with the time it waits on changed. -/
def blockedMap (f : Armed → Armed) : Blocked → Blocked
  | .wait sem acq v t => .wait sem acq v (t.map f)
  | .waitLow sem t => .waitLow sem (t.map f)
  | .launch t => .launch (f t)
  | .fence ids => .fence ids
  | .ending => .ending

/-- A program with its times changed. -/
def programMap (f : Armed → Armed) (p : Program) : Program := { p with launch := f p.launch, waitArm := p.waitArm.map f }

/-- Every armed time of the module (R51) changed. -/
def mapArmed (f : Armed → Armed) (s : State) : State :=
  { s with
    slots := s.slots.map fun c => (c.1, { c.2 with
      streams := c.2.streams.map fun t => { t with blocked := t.blocked.map (blockedMap f) } })
    ctxs := s.ctxs.map fun x => { x with
      led := { x.led with commitAt := x.led.commitAt.map f }
      peal := { x.peal with tq := x.peal.tq.map f, tr := x.peal.tr.map f }
      sec := { x.sec with e2eSwitch := x.sec.e2eSwitch.map f } }
    fab := { s.fab with engines := s.fab.engines.map fun e => { e with
      running := e.running.map (programMap f), queued := e.queued.map (programMap f) } }
    diag := { s.diag with inject := s.diag.inject.map fun a => a.map fun a => { a with time := a.time.map f } } }

/-! ### TIME_PPS_OUT (R50) -/

/-- R50: drive TIME_PPS_OUT after `n` ticks have passed: a pulse begins at a tick that is a whole second of Fabric Time, and the
output is low while time is not acquired or the output is disabled. -/
def drivePps (n : Nat) (s : State) : State :=
  let on := s.time.ppsEnable && comparing s
  let off := s.time.now.toNat % ticksPerSec
  let edge := on && decide (off < n) && !s.pins.pps
  let s := { s with pins := { s.pins with pps := on && decide (off < s.time.ppsWidth.toNat * ticksPerUs) && (s.pins.pps || edge) } }
  if edge then emit s (.pps (s.time.now - BitVec.ofNat 64 off)) else s

/-! ### Logs and notices (R348, R396, R400, R402) -/

/-- Is the state's Belfry serving (R373, R394). -/
def belfryUp (s : State) : Bool := !s.hub.belfryDown && !s.hub.handoff

/-- The notice queue bound. -/
def pushNotice (cap : Nat) (q : NoticeQ) (n : Notice) : NoticeQ :=
  if q.entries.length ≥ cap then { entries := q.entries.tail ++ [n], lost := q.lost + 1 }
  else { q with entries := q.entries ++ [n] }

/-- R348, R396: the CTX byte of a notice or of a log entry: 0xFF for none. -/
def ctxByte : Option Nat → BitVec 8
  | some c => BitVec.ofNat 8 c
  | none => 0xFF

/-- R348: post a notice to the host queue; in a confidential partition the bodies of codes 1, 3 and 4 are withheld and
the full entry goes to the tenant queue. -/
def postNotice (s : State) (code : BitVec 16) (ctx : Option Nat) (body : Bytes) : State :=
  let n : Notice :=
    { code := code, ctx := ctxByte ctx, flags := 0, nseq := s.mail.nseq, time := s.time.now, body := fit 48 body }
  let hide := match ctx with
    | some c => isConf s (getCtx s c).part && (code == 1 || code == 3 || code == 4)
    | none => false
  let p := (ctx.map fun c => (getCtx s c).part).getD 0
  let shown := if hide then { n with flags := 1, body := List.replicate 48 0 } else n
  let was := s.mail.hostQ.entries.isEmpty
  let s := modMail s fun m => { m with
    hostQ := pushNotice 1024 m.hostQ shown, nseq := m.nseq + 1,
    tenantQ := if hide then m.tenantQ.setIfInBounds p
      (pushNotice 256 (m.tenantQ.getD p { entries := [], lost := 0 }) n) else m.tenantQ,
    msix := if was then 19 :: m.msix else m.msix }
  if was then emit s (.msix 19) else s

/-- R348, R462: post a notice to the operator queue. -/
def postOperator (s : State) (code : BitVec 16) (body : Bytes) : State :=
  let n : Notice := { code := code, ctx := 0xFF, flags := 0, nseq := s.mail.nseq, time := s.time.now, body := fit 48 body }
  modMail s fun m => { m with opQ := pushNotice 64 m.opQ n, nseq := m.nseq + 1 }

/-- R396, R411: add an error-log entry; the ring holds 8,192. -/
def logError (s : State) (code : BitVec 16) (sev : BitVec 8) (flags : BitVec 8) (unit : Nat) (ctx : Option Nat)
    (body : Bytes) : State :=
  let hide := ctx.bind fun c => if isConf s (getCtx s c).part then some (getCtx s c).part else none
  let e : LogEntry :=
    { eseq := s.diag.eseq, code := code, sev := sev, flags := flags, unit := BitVec.ofNat 16 unit, ctx := ctxByte ctx,
      pom := BitVec.ofNat 32 s.diag.pom, time := s.time.now, body := fit 40 body, hidden := hide }
  modDiag s fun d => { d with log := (e :: d.log).take 8192, eseq := d.eseq + 1 }

/-- R396, R411: an entry as a reader sees it who stands in the session of partition `sess`, if in any. -/
def logSeen (sess : Option Nat) (e : LogEntry) : LogEntry :=
  if e.hidden.isSome && e.hidden != sess then { e with flags := e.flags ||| 1, body := List.replicate 40 0, hidden := none } else e

/-- R405, R406: the dump unit where an injection acts: the serving slot of a core, the position of a channel, a port. -/
def injectSite (s : State) (d : Injection) : Nat :=
  let t := d.target.toNat
  match d.kind.toNat with
  | 5 => 136 + chanPos s t
  | 6 | 7 | 10 => 216 + t
  | _ => physOf s t

/-- R406: the first event at an injection's site within 1 ms after a firing is attributed; taken once. -/
def takeAttrib (s : State) (unit : Nat) : State × Bool :=
  match s.diag.inject.toList.findIdx? (fun a => match a with
      | some a => (match a.attrib with
        | some t => decide (s.ticks ≤ t + 4000000) && injectSite s a.d == unit
        | none => false)
      | none => false) with
  | some i =>
    let a := (s.diag.inject.getD i none).map fun a => { a with attrib := none }
    (modDiag s fun d => { d with inject := d.inject.setIfInBounds i a }, true)
  | none => (s, false)

/-- R401: add to a lifetime counter, named by its offset. -/
def lifeAdd (s : State) (off n : Nat) : State :=
  modDiag s fun d => { d with life := mapSet d.life off (mapGet d.life off 0 + n) }

/-- R400: an event after which the record is written, batched. -/
def lifeEvent (s : State) : State := modDiag s fun d => { d with lifeDirty := true }

/-- R402: a piece of evidence. -/
def evidence (s : State) (kind : BitVec 2) (points : Nat) : State :=
  modDiag s fun d => { d with evid := { kind := kind, points := points, tick := s.ticks } :: d.evid }

/-- R396, R401, R402, R406: an event of a unit: logged under its class, with the lifetime counters (by offset) and the
evidence it counts in; an event attributed to Rimshot is logged with FLAGS bit 1 and counts in neither. -/
def recordEvent (s : State) (cls ev : Nat) (sev : BitVec 8) (unit : Nat) (ctx : Option Nat) (life : List (Nat × Nat))
    (evid : Option (BitVec 2 × Nat)) : State :=
  let (s, rim) := takeAttrib s unit
  let s := logError s (BitVec.ofNat 16 (256 * cls) + (Config.logCode ev).setWidth 16) sev (if rim then 2 else 0) unit ctx
    (leBytes 40 (Config.logBody s.diag.eseq.toNat).toNat)
  if rim then s
  else
    let s := life.foldl (fun s p => lifeAdd s p.1 p.2) s
    match evid with
    | some (k, n) => evidence s k n
    | none => s

/-! ### Device state (R349, R350) -/

/-- R349: a stream is out of IDLE, or a collective program is queued or running. -/
def busy (s : State) : Bool :=
  s.slots.any (fun c => coreBusy c.2) ||
  (List.range 4).any fun e => !(getEngine s e).running.isEmpty || !(getEngine s e).queued.isEmpty

/-- R350: the first state that applies. -/
def devNow (s : State) : DevState :=
  match s.hub.dev with
  | .cold => .cold
  | .booting => .booting
  | _ =>
    if s.hub.fenced then .fenced
    else if s.hub.belfryDown || s.hub.diesDown != 0 then .recovering
    else if s.hub.updating then .updating
    else if s.hub.draining then .draining
    else if s.hub.low then .lowPower
    else if !s.hub.started then .standby
    else if busy s then .running
    else .ready

/-- R349: the state code. -/
def devCode : DevState → Nat
  | .cold => 0
  | .booting => 1
  | .standby => 2
  | .ready => 3
  | .running => 4
  | .draining => 5
  | .fenced => 6
  | .recovering => 7
  | .updating => 8
  | .lowPower => 9

/-- Show the state, with a DEVICE_STATE notice when it changed (R350). -/
def refreshDev (s : State) : State :=
  let d := devNow s
  if d = s.hub.dev then s
  else postNotice (modHub s fun h => { h with dev := d }) 0x000B none
    [BitVec.ofNat 8 (devCode s.hub.dev), BitVec.ofNat 8 (devCode d)]

/-! ### Responses (R341) -/

/-- R341: the response as the bytes of the buffer. -/
def encodeResponse (r : Response) : Bytes :=
  leBytes 2 r.seq.toNat ++ leBytes 2 r.cmd.toNat ++ [r.status, r.dev, r.conflict, 0] ++
  leBytes 2 r.body.length ++ leBytes 2 r.detail.toNat ++ leBytes 4 r.legal.toNat ++ leBytes 8 r.time.toNat ++
  leBytes 8 0 ++ r.body

/-- Write a response: to the mailbox's response buffer with OWNER = DONE and its vector when asked for, or back over
SMBus (R338, R339, R347). The response of an inner command is carried by that of its SEALED request (R422, assumption log 28). -/
def respond (s : State) (q : Req) (cmd : BitVec 16) (status conflict : BitVec 8) (detail : BitVec 16)
    (legal : BitVec 32) (body : Bytes) : State :=
  let m := q.mbx.val
  let r : Response :=
    { mbx := m, path := q.path, seq := q.seq, cmd := cmd, status := status,
      dev := BitVec.ofNat 8 (devCode (devNow s)), conflict := conflict, detail := detail, legal := legal,
      time := s.time.now, body := body }
  let s := modMail s fun l => { l with responses := r :: l.responses }
  match q.path with
  | .smbus => emit s (.smbus (encodeResponse r))
  | .sealed _ => s
  | .pcie =>
    let b := getBox s m
    let s := setBox s m { b with owner := .done, resp := memWrite [] 0 (encodeResponse r) }
    if q.irq then emit (modMail s fun l => { l with msix := m :: l.msix }) (.msix m) else s

/-- R348: the 64 bytes of a notice entry. -/
def encodeNotice (n : Notice) : Bytes :=
  leBytes 2 n.code.toNat ++ [n.ctx, n.flags] ++ leBytes 4 n.nseq.toNat ++ leBytes 8 n.time.toNat ++ fit 48 n.body

/-- R348: remove up to `max` of the oldest entries of a queue and say how many were lost. -/
def takeNotices (q : NoticeQ) (max : Nat) : Bytes × NoticeQ :=
  let got := q.entries.take max
  ([BitVec.ofNat 8 got.length] ++ leBytes 4 q.lost.toNat ++ got.flatMap encodeNotice,
   { q with entries := q.entries.drop max })

/-- The device states of R352 and the sets the tables add, as a mask over state codes. -/
def setAny : BitVec 32 := 0x3FC
def setUp : BitVec 32 := 0x3BC
def setCfg : BitVec 32 := 0x00C
def setWork : BitVec 32 := 0x118
def setLive : BitVec 32 := 0x1B8

/-- R422: an inner response sealed under the response key of a session: SEQ, the sealed text, the tag. -/
def sealInner (k : Bytes) (sid : BitVec 32) (sseq : BitVec 64) (inner : Bytes) : Bytes :=
  let nonce := leBytes 8 sseq.toNat ++ [0, 0, 0, 0]
  let aad := leBytes 4 sid.toNat
  leBytes 8 sseq.toNat ++ fit inner.length (Config.gcmSeal k nonce aad inner) ++ fit 16 (Config.gcmTag k nonce aad inner)

/-- R341, R422: answer a SEALED request with an inner response; DENIED when its session is gone. -/
def respondSealed (s : State) (q : Req) (sid : BitVec 32) (sseq : BitVec 64) (inner : Response) : State :=
  match s.mail.sessions.toList.findSome? (fun w => match w with
    | some w => if w.sid = sid then some w else none
    | none => none) with
  | some w => respond s q 0x0906 0 0 0 setWork (sealInner w.kRsp sid sseq (encodeResponse inner))
  | none => respond s q 0x0906 0x04 0 0 setWork []

/-- R341: the response of an inner command. -/
def innerResponse (s : State) (q : Req) (cmd : BitVec 16) (status conflict : BitVec 8) (detail : BitVec 16)
    (legal : BitVec 32) (body : Bytes) : Response :=
  { mbx := q.mbx.val, path := q.path, seq := q.seq, cmd := cmd, status := status,
    dev := BitVec.ofNat 8 (devCode (devNow s)), conflict := conflict, detail := detail, legal := legal,
    time := s.time.now, body := body }

/-- R348: the queue a waiting NOTICE_GET drains: the operator's, the host's, or that of a session's partition. -/
def waiterQueue (s : State) (w : Waiter) : NoticeQ :=
  match w.req.path with
  | .sealed p => s.mail.tenantQ.getD p.val { entries := [], lost := 0 }
  | _ => if 16 ≤ w.req.mbx.val then s.mail.opQ else s.mail.hostQ

/-- Put a drained queue back. -/
def setWaiterQueue (s : State) (w : Waiter) (q : NoticeQ) : State :=
  modMail s fun m => match w.req.path with
    | .sealed p => { m with tenantQ := m.tenantQ.setIfInBounds p.val q }
    | _ => if 16 ≤ w.req.mbx.val then { m with opQ := q } else { m with hostQ := q }

/-- Answer the NOTICE_GETs that wait: with entries when present, with none when their time has passed (R353). -/
def serveWaiters (s : State) : State :=
  if !belfryUp s then s else
  s.mail.waiters.foldl (fun s w =>
    let q := waiterQueue s w
    if !q.entries.isEmpty || !laterThan w.till s.time.now then
      let (b, q') := takeNotices q w.max.toNat
      let s := setWaiterQueue (modMail s fun m => { m with waiters := m.waiters.erase w }) w q'
      match w.tenant with
      | some (r, sid, sseq) => respondSealed s r sid sseq (innerResponse s w.req 0x0003 0 0 0 setAny b)
      | none => respond s w.req 0x0003 0 0 0 setAny b
    else s) s

/-- Change the record of an image type. -/
def modImage (s : State) (ty : Nat) (f : Image → Image) : State :=
  modMail s fun m => { m with images := m.images.setIfInBounds ty (f (m.images.getD ty Image.initial)) }

/-- R371, R444: the staging copy is in force and every unit runs it. -/
def swapImage (i : Image) : Image :=
  { i with
    copyB := !i.copyB, version := i.stagedVer, digest := i.stagedDigest, staged := [], verified := false, stagedVer := 0
    stagedFloor := 0, stagedDigest := [], revoke := 0, phase := 0, pending := [], atReset := false }

/-- R375: cores left PENDING take the new microcode at a DRAIN or a core reset. -/
def takePending (s : State) (cores : Nat → Bool) : State :=
  let i := s.mail.images.getD 2 Image.initial
  if i.phase ≠ 0x21 then s
  else
    let got := i.pending.filter cores
    let left := i.pending.filter fun n => !cores n
    let i := { i with pending := left, done := i.done + BitVec.ofNat 16 got.length }
    let s := modHub s fun h => { h with newSlots := if left.isEmpty then [] else h.newSlots ++ got.map (physOf s) }
    modImage s 2 fun _ => if left.isEmpty then swapImage i else i

/-- R353, R375: a DRAIN of MODE 0 ends when no stream and no program is left. -/
def finishDrain (s : State) : State :=
  match s.hub.drainReq with
  | some (r, _) =>
    if belfryUp s && s.hub.draining && !busy s && s.ctxs.toList.all (fun x => x.fence.isNone) then
      respond (takePending (modHub s fun h => { h with draining := false, drainReq := none }) fun _ => true) r 0x0006 0 0 0 0x118 []
    else s
  | none => s

/-- R373: a moment at which a Belfry handoff may begin. -/
def handoffMoment (s : State) : Bool :=
  s.ctxs.toList.all (fun x => x.led.st != .armed && x.led.st != .voted && x.led.st != .commitPending && x.peal.st == .idle &&
    x.led.transfers.isEmpty) &&
  s.mem.migs.isEmpty && s.fab.ports.toList.all (fun b => b.st != .training) &&
  s.lcores.all fun l => l.2.replay.toList.all (·.isNone)

/-- R373, R350: a handoff that waits begins at the first moment that allows it, or is refused when its window ends; it waits
while the device is RECOVERING. -/
def serveActivate (s : State) : State :=
  match s.hub.actReq with
  | some (r, 1, till) =>
    if s.hub.handoff || s.hub.belfryDown || s.hub.diesDown != 0 then s
    else if handoffMoment s then
      modImage (modHub s fun h => { h with handoff := true }) 1 fun i => { i with phase := 0x10 }
    else if till ≤ s.ticks then
      respond (modHub s fun h => { h with updating := false, actReq := none }) r 0x0512 0x01 0 0 0x18 []
    else s
  | _ => s

/-- What every step does last: what has become due is answered, the device state is shown, and its notice delivered. -/
def settle (s : State) : State := serveWaiters (refreshDev (finishDrain (serveActivate s)))

/-- End of a meaning: the next state. -/
def done (s : State) : Host.Outcome State Fault Refusal := .next (settle s)

/-! ### Injections (R405) -/

/-- The injection in a place. -/
def injectAt (s : State) (i : Nat) : Option Armed16 := s.diag.inject.getD i none

/-- Put an injection back. -/
def setInject (s : State) (i : Nat) (a : Armed16) : State :=
  modDiag s fun g => { g with inject := g.inject.setIfInBounds i (some a) }

/-- R405: the first injection with an effect to take that `p` accepts; its effect is taken. -/
def takeInjection (s : State) (p : Injection → Bool) : State × Option Injection :=
  match (List.range 16).findSome? fun i => match injectAt s i with
    | some a => if decide (0 < a.active) && p a.d then some (i, a) else none
    | none => none with
  | some (i, a) => (setInject s i { a with active := a.active - 1 }, some a.d)
  | none => (s, none)

/-! ### Module memory (R201 to R216) -/

/-- Data slots of a channel. -/
def slotsPerChan : Nat := 1015808

/-- R214: channel and channel byte address of byte `off` of local page `pg` in partition `p`. -/
def placeByte (s : State) (p pg off : Nat) : Nat × Nat :=
  let cp := partChans s
  let g := pg * 512 + off / 4096
  let sl := g / cp
  let f := (sl ^^^ (sl / 2 ^ 7) ^^^ (sl / 2 ^ 14)) % cp
  (partFirst s p + (g % cp + f) % cp, sl * 4096 + off % 4096)

/-- R201: the row of a slot, and its bank. -/
def slotRow (sl : Nat) : Nat := sl / 16
def slotBank (sl : Nat) : Nat := (sl % 16) ^^^ (sl / 16 % 16) ^^^ (sl / 256 % 16)

/-- R212: the controller position that serves a slot of a channel, for a read or for a write. -/
def servePos (s : State) (ch sl : Nat) (wr : Bool) : Nat :=
  match s.mem.migs.find? (fun g => g.chan == ch) with
  | some g =>
    let ptr := (getCtrl s g.source).migPtr.toNat
    if sl < ptr || (sl == ptr && wr) then g.target else g.source
  | none => chanPos s ch

/-- What a translation gives (R215, R216). -/
inductive Xlat where
  | localPage (part page off : Nat) (epoch : Bool) (wr : Bool)
  | peer (entry : Nat) (addr : BitVec 17) (ctx : Nat) (va : BitVec 48) (core : Nat) (wr : Bool)
  | host (addr : Nat) (wr : Bool)
  | unmapped
  | foreign
  deriving DecidableEq, Repr

/-- Bit fields of a Page Map entry. -/
def entField (e : BitVec 64) (lo w : Nat) : Nat := field e.toNat lo w

/-- R215, R216: translation of a virtual address for a context. -/
def translate (s : State) (c : Nat) (va : BitVec 48) : Xlat :=
  let a := va.toNat
  if field a 42 6 ≠ c then .foreign
  else
    let x := getCtx s c
    let v := field a 21 21
    if v ≥ x.pmLen.toNat then .unmapped
    else
      let i := x.pmBase.toNat + v
      let e := mapGet s.mem.pmap i 0
      let wr := e.getLsbD 12
      if !e.getLsbD 0 then .unmapped
      else match entField e 1 2 with
        | 0 => .localPage (entField e 9 2) (entField e 13 18) (a % 2 ^ 21) (e.getLsbD 11) wr
        | 1 => .peer i (BitVec.ofNat 17 (entField e 13 17)) (entField e 30 6)
            (BitVec.ofNat 48 (entField e 30 6 * 2 ^ 42 + entField e 36 21 * 2 ^ 21 + a % 2 ^ 21)) (entField e 57 7) wr
        | 2 => .host (entField e 13 36 * 2 ^ 21 + a % 2 ^ 21) wr
        | _ => .foreign

/-- Cell address of a channel byte at a position. -/
def cellAddr (pos byte : Nat) : Nat := pos * 2 ^ 32 + byte
/-- Key of block `j` of a position. -/
def blockKey (pos j : Nat) : Nat := pos * 2 ^ 24 + j
/-- Key of the unit-table entry of a slot. -/
def unitKey (pos sl : Nat) : Nat := pos * 2 ^ 20 + sl

/-- The key set number of the blank key (assumption log 5). -/
def blankSeal : Nat := 0

/-- What a controller delivers for a block. -/
structure Delivered where
  block : Block
  /-- The keyed tag failed under step 5 of R414. -/
  tagFail : Bool
  deriving DecidableEq, Repr

/-- R205, R414: block `j` of a position as delivered, read under key set `key` (none: the partition is not
confidential). A block sealed under another key is delivered with a CRC that cannot match. -/
def readBlockAt (m : Mem) (pos j : Nat) (key : Option Nat) (junk : Nat → Byte) : Delivered :=
  let d := memRead m.cells (cellAddr pos (j * 256)) 256
  let k := blockKey pos j
  match key with
  | none => { block := { data := d, crc := crc32c d ^^^ mapGet m.bad k 0 }, tagFail := false }
  | some q =>
    match mapGet? m.sealKey k with
    | some w =>
      if w = q then { block := { data := d, crc := crc32c d ^^^ mapGet m.bad k 0 }, tagFail := false }
      else if w = blankSeal then
        let z := List.replicate 256 0
        { block := { data := z, crc := crc32c z }, tagFail := false }
      else
        let f := (List.range 256).map junk
        { block := { data := f, crc := crc32c f ^^^ 0xFFFFFFFF }, tagFail := true }
    | none =>
      let f := (List.range 256).map junk
      { block := { data := f, crc := crc32c f ^^^ 0xFFFFFFFF }, tagFail := true }

/-- R207, R415: store a block with the CRC its writer supplied; the unit-table entry of the slot returns to 0 unless a
compressing COPY writes. -/
def writeBlockAt (m : Mem) (pos j : Nat) (key : Option Nat) (keepUnit : Bool) (b : Block) : Mem :=
  let k := blockKey pos j
  let x := crc32c b.data ^^^ b.crc
  let sk := match key with
    | some q => mapSet m.sealKey k q
    | none => mapErase m.sealKey k
  { m with
    cells := memWrite m.cells (cellAddr pos (j * 256)) b.data
    bad := if x = 0 then mapErase m.bad k else mapSet m.bad k x
    sealKey := sk
    unit := if keepUnit then m.unit else mapErase m.unit (unitKey pos (j / 16)) }

/-- The key set a request of a context uses for a page with this epoch bit (R412). -/
def ctxKey (s : State) (c : Nat) (epoch : Bool) : Option Nat :=
  let x := getCtx s c
  if isConf s x.part then some ((x.sec.keys.getD epoch.toNat none).getD 1000000) else none

/-- R416: one more tag failure of a context. -/
def countTag (s : State) (c : Nat) : State :=
  let p := (getCtx s c).part
  let s := modSecCore s fun k => { k with tagFail := k.tagFail.setIfInBounds p (k.tagFail.getD p 0 + 1) }
  modSec s c fun x => { x with tags := s.ticks :: x.tags }

/-- R201: channel address of the metadata of block `j`, and of the unit-table entry of a slot. -/
def metaAddr (j : Nat) : Nat := 0xF8000000 + 8 * j
def unitAddr (sl : Nat) : Nat := 0xFFC00000 + 4 * sl

/-- R208: set of a line of the metadata cache (assumption log 24). -/
def lineSet (t : Nat) : Nat := t % 64

/-- R208: the line of the metadata cache that holds a channel address is used: on a miss it enters its set of 8, of which the least
recent leaves. -/
def touchLine (k : Ctrl) (addr : Nat) (wr : Bool) : Ctrl :=
  let t := addr / 256
  match k.lines.find? (fun l => l.1 == t) with
  | some l => { k with lines := (t, l.2 || wr) :: k.lines.filter fun l => l.1 != t }
  | none =>
    let set := k.lines.filter fun l => lineSet l.1 == lineSet t
    let lines := if 8 ≤ set.length then k.lines.filter fun l => some l.1 != (set.getLast?).map (·.1) else k.lines
    { k with lines := (t, wr) :: lines, metaMiss := k.metaMiss + 1 }

/-- R401, R406: an event that only counters and the lifetime record hold; when it is attributed to Rimshot it is logged and not
recorded. -/
def tally (s : State) (unit : Nat) (life : List (Nat × Nat)) : State :=
  let (s, rim) := takeAttrib s unit
  if rim then logError s (0x0200 + (Config.logCode 0x20).setWidth 16) 1 2 unit none []
  else life.foldl (fun s p => lifeAdd s p.1 p.2) s

/-- R405: kind 0x05: 1 to 3 symbols of a block are corrupted on its next read; which, and how, is open. -/
def injectedErrs (s : State) (pos j : Nat) : State × SymErr :=
  let q := takeInjection s fun d =>
    d.kind == 5 && (getCtrl s pos).chan == some d.target.toNat && d.addr.toNat / 256 == j
  match q.2 with
  | none => (q.1, [])
  | some d =>
    let n := max 1 (min 3 d.sub.toNat)
    let f := fun (i : Nat) => (Config.freeValue (q.1.free + i) 16).toNat
    ({ q.1 with free := q.1.free + 2 * n },
     (List.range n).map fun i => (f (2 * i) % 260, 1 + BitVec.ofNat 8 (f (2 * i + 1) % 255)))

/-- What is left of the symbol errors of two reads of a block, the symbols corrected, and whether the block is uncorrectable. -/
def readErrs (e1 e2 : SymErr) : SymErr × Nat × Bool :=
  let a := correctBlock e1
  if a.2.2 then
    let b := correctBlock e2
    (b.1, a.2.1 + b.2.1, b.2.2)
  else a

/-- R205, R414: a controller reads block `j` under key set `key`. `e1`, `e2`: symbol errors of the read and of a re-read. -/
def controllerRead (s : State) (pos j : Nat) (key : Option Nat) (e1 e2 : SymErr) : State × Delivered :=
  let q := injectedErrs s pos j
  let s := q.1
  let r := readErrs (e1 ++ q.2) e2
  let d := readBlockAt s.mem pos j key (fun i => Config.freeValue (s.free + i) 8)
  let left := withErrs r.1 (List.replicate 256 0)
  let junk : Bytes := (List.range 256).map fun i => Config.freeValue (s.free + i) 8
  let out : Delivered :=
    if left.all (· == 0) ∧ !r.2.2 then d
    else match key with
      | none => { d with block := { d.block with data := withErrs r.1 d.block.data } }
      | some _ => { block := { data := junk, crc := crc32c junk ^^^ 0xFFFFFFFF }, tagFail := !r.2.2 }
  let s := { s with free := if key.isSome then s.free + 256 else s.free }
  let s := modCtrl s pos fun k => touchLine { k with
    rd := k.rd + 1, corr := k.corr + BitVec.ofNat 32 r.2.1, uncorr := if r.2.2 then k.uncorr + 1 else k.uncorr } (metaAddr j) false
  let s := if r.2.1 = 0 ∧ !r.2.2 then s
    else tally s (136 + pos) [(0x400 + 24 * pos, r.2.1), (0x408 + 24 * pos, r.2.2.toNat)]
  (s, out)

/-- The block that holds a byte of a local page, as its controller delivers it (R205, R229, R414). -/
def readLocal (s : State) (c p pg off : Nat) (epoch : Bool) : State × Block :=
  let (ch, byte) := placeByte s p pg off
  let pos := servePos s ch (byte / 4096) false
  let r := controllerRead s pos (byte / 256) (ctxKey s c epoch) [] []
  (if r.2.tagFail then countTag r.1 c else r.1, r.2.block)

/-- R207, R208: a controller writes block `j` under key set `key`; the slot's unit-table entry goes to 0 unless `keepUnit`. -/
def controllerWrite (s : State) (pos j : Nat) (key : Option Nat) (keepUnit : Bool) (b : Block) : State :=
  modCtrl (modMem s fun m => writeBlockAt m pos j key keepUnit b) pos fun k =>
    let k := touchLine { k with wr := k.wr + 1 } (metaAddr j) true
    if keepUnit then k else touchLine k (unitAddr (j / 16)) true

/-- R211: a block goes from one position to another: corrected, or as read with its stored CRC; a block whose contents the read has
changed no longer passes its tag. -/
def copyBlock (s : State) (src dst j : Nat) (e1 e2 : SymErr) : State :=
  let was := memRead s.mem.cells (cellAddr src (256 * j)) 256
  let r := controllerRead s src j none e1 e2
  let b := r.2.block
  let s := controllerWrite r.1 dst j none true b
  match mapGet? s.mem.sealKey (blockKey src j) with
  | some q => modMem s fun m => { m with sealKey := mapSet m.sealKey (blockKey dst j) (if b.data = was then q else 1000001) }
  | none => s

/-- R211 step 3: a slot is copied with its unit-table entry, and MEM_MIG_PTR of both positions advances. `e1`, `e2`: symbol errors
that the two reads of each block meet. -/
def copySlot (s : State) (src dst sl : Nat) (e1 e2 : Nat → SymErr) : State :=
  let s := (List.range 16).foldl (fun s i => copyBlock s src dst (16 * sl + i) (e1 i) (e2 i)) s
  let s := modMem s fun m => { m with
    unit := match mapGet? m.unit (unitKey src sl) with
      | some x => mapSet m.unit (unitKey dst sl) x
      | none => mapErase m.unit (unitKey dst sl) }
  let s := modCtrl s src fun k => touchLine { k with migPtr := k.migPtr + 1 } (unitAddr sl) false
  modCtrl s dst fun k => touchLine { k with migPtr := k.migPtr + 1 } (unitAddr sl) true

/-- R212: a write of the slot at MEM_MIG_PTR waits until that slot has been copied. -/
def awaitCopy (s : State) (ch sl : Nat) : State :=
  match s.mem.migs.find? (fun g => g.chan == ch) with
  | some g => if sl = (getCtrl s g.source).migPtr.toNat then copySlot s g.source g.target sl (fun _ => []) (fun _ => []) else s
  | none => s

/-- Write the block that holds a byte of a local page (R207, R212). -/
def writeLocal (s : State) (c p pg off : Nat) (epoch keepUnit : Bool) (b : Block) : State :=
  let (ch, byte) := placeByte s p pg off
  let s := awaitCopy s ch (byte / 4096)
  controllerWrite s (servePos s ch (byte / 4096) true) (byte / 256) (ctxKey s c epoch) keepUnit b

/-- A block is intact: the data matches its CRC (R90). -/
def blockOk (b : Block) : Bool := crc32c b.data == b.crc

/-- A good block of these bytes. -/
def mkBlock (d : Bytes) : Block := { data := d, crc := crc32c d }

/-- Read `n` bytes at a virtual address of a context through local pages, block by block; none when a page is not
local or a block fails its CRC. Used by the Belfry and the collective engines. -/
def readVa (s : State) (c : Nat) (va : Nat) : Nat → Option (State × Bytes)
  | 0 => some (s, [])
  | fuel + 1 =>
    match translate s c (BitVec.ofNat 48 va) with
    | .localPage p pg off e _ =>
      let (s, b) := readLocal s c p pg off e
      if blockOk b then
        match readVa s c (va - va % 256 + 256) fuel with
        | some (s, r) => some (s, b.data.drop (va % 256) ++ r)
        | none => none
      else none
    | _ => none

/-- `n` bytes at a virtual address. -/
def readBytesVa (s : State) (c va n : Nat) : Option (State × Bytes) :=
  (readVa s c va ((va % 256 + n + 255) / 256)).map fun r => (r.1, r.2.take n)

/-- Write bytes inside one block by read-modify-write; none when the page is not local or not writable, or the block fails its CRC
(R206). -/
def writePiece (s : State) (c va : Nat) (d : Bytes) (force : Bool) : Option State :=
  match translate s c (BitVec.ofNat 48 va) with
  | .localPage p pg off e wr =>
    if wr || force then
      if d.length = 256 then some (writeLocal s c p pg off e false (mkBlock d))
      else
        let (s, b) := readLocal s c p pg off e
        if blockOk b then some (writeLocal s c p pg off e false (mkBlock (overlay b.data (va % 256) d))) else none
    else none
  | _ => none

/-- Write bytes at a virtual address; `force` writes pages mapped WR = 0 (the Belfry's own records). -/
def writeBytesVa (s : State) (c va : Nat) (d : Bytes) (force : Bool) : Nat → Option State
  | 0 => if d.isEmpty then some s else none
  | fuel + 1 =>
    if d.isEmpty then some s
    else
      let n := 256 - va % 256
      match writePiece s c va (d.take n) force with
      | some s => writeBytesVa s c (va + n) (d.drop n) force fuel
      | none => none

/-- Write bytes at a virtual address, with enough fuel for all of them. -/
def putVa (s : State) (c va : Nat) (d : Bytes) (force : Bool) : Option State :=
  writeBytesVa s c va d force (d.length / 256 + 2)

/-! ### Semaphores (R176, R177) -/

def semGet (c : PCore) (i : Nat) : BitVec 32 := mapGet c.sems i 0

/-- R177: add to a semaphore, saturating, with CORE_SEM_OVF. -/
def semAdd (c : PCore) (i : Nat) (v : Nat) : PCore :=
  let t := (semGet c i).toNat + v
  if t ≥ 2 ^ 32 then
    { c with sems := mapSet c.sems i 0xFFFFFFFF, cnt := { c.cnt with semOvf := c.cnt.semOvf + 1 } }
  else { c with sems := mapSet c.sems i (BitVec.ofNat 32 t) }

/-- Take from a semaphore. -/
def semTake (c : PCore) (i : Nat) (v : BitVec 32) : PCore := { c with sems := mapSet c.sems i (semGet c i - v) }

/-! ### Settings (R360, R365) -/

/-- The setting record at byte `a` of a region (R360). -/
def recordAt (m : Memory) (a : Nat) : Setting :=
  let b := memRead m a 16
  { key := BitVec.ofNat 16 (leNat (slice b 0 2)), scope := BitVec.ofNat 32 (leNat (slice b 4 4)),
    value := BitVec.ofNat 64 (leNat (slice b 8 8)) }

/-- The records of a region: up to the last byte that is not 0 (assumption log 19). -/
def regionRecs (m : Memory) : List Setting :=
  (List.range ((((m.getLast?).map fun c => c.1 + 16).getD 0) / 16)).map fun i => recordAt m (16 * i)

/-- R484: a record that the options of the module cannot honour is ignored. -/
def honoured (o : Options) (r : Setting) : Bool := !(r.key == 0x0200 && r.value == 2 && o.m54)

/-- R364: the copy in force. -/
def copyInForce (s : State) : Carillon := if s.hub.cfgCopyB then s.mail.copyB else s.mail.copyA

/-- R365: the user records in force, the later layer first. -/
def userRecs (s : State) : List Setting :=
  if s.hub.safe || s.hub.cfgDefault then []
  else
    let c := copyInForce s
    (regionRecs (c.data.getD (1 + s.hub.profile.toNat) []) ++ regionRecs (c.data.getD 0 [])).filter (honoured s.opt)

/-- The value a Carillon layer gives a key, the last layer first (R365). -/
def layerValue (s : State) (key : Nat) : BitVec 64 :=
  match (userRecs s).find? (fun r => r.key.toNat == key) with
  | some r => r.value
  | none => mapGet s.mail.factory key 0

/-- A device setting in force. -/
def devSetting (s : State) (key : Nat) : BitVec 64 := (mapGet? s.mail.volatile key).getD (layerValue s key)

/-- R232: the defaults of the settings that only a command sets. -/
def volatileDefault (key : Nat) : BitVec 64 :=
  match key with
  | 0x0600 => 1
  | 0x0602 => 1
  | 0x0603 => 1
  | 0x0608 => 1
  | 0x0710 => 1
  | _ => 0

/-- A setting of a context in force. -/
def ctxSetting (s : State) (c key : Nat) : Nat :=
  match mapGet? (getCtx s c).set key with
  | some v => v.toNat
  | none => if (0x600 ≤ key ∧ key ≤ 0x608) ∨ (0x700 ≤ key ∧ key ≤ 0x710 ∧ key ≠ 0x70C) then
      (if key = 0x603 then ((mapGet? (getCtx s c).set 0x600).getD 1).toNat else (volatileDefault key).toNat)
    else (layerValue s key).toNat

end Sys2Proof.Machine
end

