-- ==== Sys2Proof/Machine/Flags.lean ====
section
/-! DEFINITION. The status words and codes the module shows: state codes, TIME_STATUS, CORE_STREAM_STATUS, LEDGER_DB,
HUB_DEV_STATE, the core and channel maps, the evidence totals. -/

namespace Sys2Proof.Machine

/-- Fields of a register word: value and lowest bit. -/
def packWord (l : List (Nat × Nat)) : BitVec 32 := BitVec.ofNat 32 (l.foldl (fun a p => a + p.1 * 2 ^ p.2) 0)

/-- R399, R460: the coarse value of a power in 0.1 W: 25 W steps, as a multiple of 250. -/
def coarse (v : Nat) : Nat := 250 * ((2 * v + 250) / 500)

/-! ### Status words that other rules read -/

/-- R169: the code of a stream state. -/
def streamCode : StreamState → Nat
  | .idle => 0
  | .running => 1
  | .halted => 2
  | .stopping => 3

/-- R100: the code of a bank state. -/
def bankCode : BankState → Nat
  | .free => 0
  | .filling => 1
  | .kept => 2
  | .draining => 3
  | .held => 4

/-- R446: the code of a power state. -/
def pstateCode : PState → Nat
  | .run => 0
  | .hold => 1
  | .doze => 2
  | .sleep => 3

/-- R256: the code of a port state. -/
def portCode : PortState → Nat
  | .down => 0
  | .training => 1
  | .upX4 => 2
  | .upX2 => 3
  | .relock => 4
  | .retired => 5

/-- R3, R256: the state a port shows: an absent one reads RETIRED. -/
def shownPort (s : State) (p : Nat) : PortState := if p < portCount s then (getPort s p).st else .retired

/-- R229: the code of a controller role. -/
def roleCode : Role → Nat
  | .inService => 0
  | .spare => 1
  | .migrating => 2
  | .failed => 3

/-- R247: the code of a version slot. -/
def verCode : VerState → Nat
  | .free => 0
  | .writing => 1
  | .written => 2
  | .committed => 3

/-- R316: the code of a ledger state. -/
def dbCode : DbState → Nat
  | .idle => 0
  | .armed => 1
  | .voted => 2
  | .commitPending => 3
  | .inDoubt => 4
  | .aborted => 5

/-- R335: the code of a Peal state. -/
def pealCode : PealState → Nat
  | .idle => 0
  | .writing => 1
  | .quiescing => 2
  | .quiesced => 3
  | .restoring => 4

/-- R407: the code of a context state. -/
def ctxCode : CtxStatus → Nat
  | .closed => 0
  | .opened => 1
  | .fencing => 2
  | .fenced => 3

/-- R41: the code of a time state. -/
def timeCode : TimeState → Nat
  | .unset => 0
  | .acquiring => 1
  | .locked => 2
  | .unlocked => 3

/-- R402: the total of a kind of evidence over the last 60 minutes, saturating at 255. -/
def evidTotal (s : State) (kind : BitVec 2) : Nat :=
  min 255 ((s.diag.evid.filter fun e => e.kind == kind && decide (s.ticks < e.tick + 3600 * ticksPerSec)).foldl
    (fun a e => a + e.points) 0)

/-- R402: the code of a health state. -/
def healthCode : Health → Nat
  | .healthy => 0
  | .watch => 1
  | .suspect => 2

/-- R402: SCORE. -/
def healthScore (s : State) : Nat := 100 - min 100 (evidTotal s 0 + evidTotal s 1 + evidTotal s 2)

/-- R433: debug is enabled. -/
def dbgEn (s : State) : Bool := s.opt.debugOpen || s.hub.token

/-- R436: signatures of the identity key remaining. -/
def lmsRemain (s : State) : Nat := 2 ^ 30 - s.sec.lmsNext

/-- R55: TIME_STATUS. -/
def timeStatus (s : State) : BitVec 32 :=
  let t := s.time
  packWord [(timeCode t.st, 0), ((t.st != .locked).toNat, 3), (t.holdover.toNat, 4), (t.cadLocked.toNat, 5),
    (t.cadLost.toNat, 6), (t.master.toNat, 7),
    (if t.errValid then min 65535 (t.err / 1000000) else 0xFFFF, 8)]

/-- R196: CORE_STREAM_STATUS. -/
def streamStatus (c : PCore) : BitVec 32 :=
  packWord ((List.range 16).map fun i => (streamCode (getStream c i).st, 2 * i))

/-- R316: LEDGER_DB of a context. -/
def ledgerDb (s : State) (c : Nat) : BitVec 32 :=
  let l := (getCtx s c).led
  packWord [(dbCode l.st, 0), (l.ready.toNat, 3), (l.veto.toNat, 4), (l.reason.toNat, 8), (l.attempt.toNat, 16)]

/-- R286: the index of the live regions: those the next step reads; 0 while the context is closed (R316). -/
def liveIndex (s : State) (c : Nat) : Nat :=
  if (getCtx s c).st = .closed then 0 else ((getCtx s c).led.committed + 1).toNat % 2

/-- R351: UPDATE_PHASE: the phase of the type being worked on; a configuration session is 0x40 (R372). -/
def updatePhase (s : State) : Nat :=
  match (List.range 4).find? (fun i => decide (0x10 ≤ (s.mail.images.getD i Image.initial).phase.toNat)) with
  | some i => (s.mail.images.getD i Image.initial).phase.toNat
  | none =>
    if s.mail.session.isSome then 0x40
    else match (List.range 4).find? (fun i => (s.mail.images.getD i Image.initial).phase != 0) with
      | some i => (s.mail.images.getD i Image.initial).phase.toNat
      | none => 0

/-- R351: HUB_DEV_STATE. -/
def devStateReg (s : State) : BitVec 32 :=
  packWord [(devCode s.hub.dev, 0), (s.hub.profile.toNat, 4), (s.hub.safe.toNat, 6), (s.hub.cfgCopyB.toNat, 7),
    (s.hub.cfgDefault.toNat, 8), (updatePhase s, 16)]

/-- R24: SPARES_FREE of a die: a spare that runs the replay of another core counts (assumption log 117). -/
def sparesFree (s : State) (d : Nat) : Nat :=
  ((List.range 34).filter fun i =>
    let p := 34 * d + i
    !(s.hub.slotRetired.contains p) && !(s.hub.slotTesting.contains p) &&
    !((List.range 128).any fun n => inService s n && physOf s n == p)).length

/-- R24: HUB_CORE_MAP_n. -/
def coreMapReg (s : State) (n : Nat) : BitVec 32 :=
  let e := coreEntry s n
  match e.status with
  | .unmapped => 0
  | .testing => packWord [(e.phys, 0), (0, 8), (n / 32, 10), (min 2 (sparesFree s (n / 32)), 12)]
  | .inService => packWord [(e.phys, 0), (1, 8), (n / 32, 10), (min 2 (sparesFree s (n / 32)), 12)]
  | .retired => packWord [(e.phys, 0), (2, 8), (n / 32, 10), (min 2 (sparesFree s (n / 32)), 12)]

/-- R24: HUB_CHAN_MAP_n. -/
def chanMapReg (s : State) (n : Nat) : BitVec 32 :=
  if n ≥ chanCount s then 0
  else
    let e := s.hub.chanMap.getD n { ctrl := 0, status := .unmapped }
    match e.status with
    | .unmapped => 0
    | .inService => packWord [(e.ctrl, 0), (chanDie s n, 5), (1, 7)]
    | .migrating => packWord [(e.ctrl, 0), (chanDie s n, 5), (2, 7)]
    | .mappedOut => packWord [(e.ctrl, 0), (chanDie s n, 5), (3, 7)]

/-- R28: HUB_PART_LAYOUT. -/
def partLayoutReg (s : State) : BitVec 32 := packWord [(s.hub.layout.toNat, 0), (s.hub.conf.toNat, 4)]

/-! ### The slots of a Peal (R328, R335) -/

def getSlot (p : Peal) (i : Nat) : PealSlot := p.slots.getD i { extents := [], valid := false, step := 0, seq := 0, kind := 0 }

/-- R328: the protected slot: of the newest complete Peal at or before the last clean audit. -/
def protectedSlot (s : State) (c : Nat) : Option Nat :=
  let x := getCtx s c
  match x.led.lastAudit with
  | none => none
  | some a =>
    let ok := fun i => (getSlot x.peal i).valid && decide ((getSlot x.peal i).step.toNat ≤ a.toNat)
    if ok 0 && ok 1 then (if (getSlot x.peal 1).step.toNat > (getSlot x.peal 0).step.toNat then some 1 else some 0)
    else if ok 0 then some 0
    else if ok 1 then some 1
    else none

/-- R335: the step of the newest complete Peal in slot 0 or 1. -/
def pealNewest (p : Peal) : BitVec 48 :=
  let v := fun i => if (getSlot p i).valid then (getSlot p i).step else 0
  if (v 0).toNat ≤ (v 1).toNat then v 1 else v 0

/-- R330: a context is held stopped, from T_Q to T_R. -/
def ctxHeld (x : Context) : Bool :=
  match x.peal.st with
  | .quiescing => true
  | .quiesced => true
  | .writing => x.peal.kind == 2
  | _ => false

/-! ### Times that streams wait for (R51) -/

/-- The time a stream is blocked on. -/
def blockedTime : Option Blocked → Option Armed
  | some (.wait _ _ _ t) => t
  | some (.waitLow _ t) => t
  | some (.launch t) => some t
  | _ => none

end Sys2Proof.Machine
end

