-- ==== Sys2Proof/Machine/Registers.lean ====
section
/-! DEFINITION. The register map of BAR0: the value of every register the specification places there, computed from the
state, and the latches of the _LO/_HI pairs (R36). -/

namespace Sys2Proof.Machine

/-! ### Blocks of the map -/

/-- Low word of a 64-bit value. -/
def lo32 (v : BitVec 64) : BitVec 32 := v.setWidth 32
/-- High word of a 64-bit value. -/
def hi32 (v : BitVec 64) : BitVec 32 := (v >>> 32).setWidth 32

/-- R85, R115, R139, R167, R195, R196, R465: the 64-bit counters of a core window, by the offset of the _LO half. -/
def coreWide (s : State) (n o : Nat) : Option (BitVec 64) :=
  let c := getC s n
  match o with
  | 0x100 => some c.seed
  | 0x204 => some c.cnt.rowCyc
  | 0x218 => some c.cnt.macCyc
  | 0x328 => some c.cnt.cmp
  | 0x804 => some c.cnt.veGroups
  | 0x90C => some ((c.err.map (·.idx)).getD 0)
  | 0x92C => some c.cnt.ceBytes
  | _ =>
    if 0xA00 ≤ o ∧ o < 0xC80 ∧ o % 8 = 0 ∧ o % 0x80 < 0x70 then
      some (mapGet c.cnt.stall ((o - 0xA00) / 0x80 * 16 + (o - 0xA00) % 0x80 / 8) 0)
    else if 0xE08 ≤ o ∧ o < 0xE28 ∧ o % 8 = 0 then some (c.cnt.pwrRes.getD ((o - 0xE08) / 8) 0)
    else none

/-- The 32-bit registers of a core window. -/
def coreWord (s : State) (n o : Nat) : BitVec 32 :=
  let c := getC s n
  let k := c.cnt
  match o with
  | 0x108 => k.fmtSat
  | 0x10C => k.fmtNan
  | 0x200 => packWord [(bankCode (getBank c 0).st, 0), (bankCode (getBank c 1).st, 3),
      ((c.lr.any fun j => j.going || j.draining).toNat, 6), ((!c.mv.isEmpty).toNat, 7)]
  | 0x20C => k.passes
  | 0x210 => k.tiles
  | 0x214 => k.lrCrc
  | 0x220 => k.mvCrc
  | 0x320 => k.skip
  | 0x324 => k.bcastPar
  | 0x330 => k.mvRes
  | 0x334 => k.veRes
  | 0x338 => k.veTbl
  | 0x33C => k.vePerm
  | 0x340 => k.veTree
  | 0x344 => k.replay
  | 0x348 => k.transient
  | 0x34C => k.input
  | 0x350 =>
    let h := ((getL s n).replay.toList.filter (·.isSome)).length
    packWord [(h, 0), ((decide (4 ≤ h)).toNat, 3)]
  | 0x800 => packWord [((List.range 8).foldl (fun a i => a + ((c.threads.getD i none).isSome).toNat * 2 ^ i) 0, 0),
      ((List.range 8).foldl (fun a i => a + (((c.threads.getD i none).map (·.out)).getD false).toNat * 2 ^ i) 0, 8),
      (c.gather.length, 16)]
  | 0x80C => k.veSwitches
  | 0x810 => k.veCrc
  | 0x814 => k.idxOob
  | 0x818 => k.merged
  | 0x81C => k.hotBank
  | 0x820 => packWord [(c.bankCap.toNat, 0)]
  | 0x900 => streamStatus c
  | 0x904 => packWord ((List.range 16).map fun i => ((getStream c i).cls.toNat, 2 * i))
  | 0x908 => match c.err with
    | some e => packWord [(e.stream, 0), (e.cause.toNat, 8), (e.tag.toNat, 16), (c.errValid.toNat, 31)]
    | none => 0
  | 0x914 => packWord [(c.prefer.toNat, 0)]
  | 0x918 => k.late
  | 0x91C => k.semOvf
  | 0x920 => packWord [((c.copies.foldl (fun a j => a + j.out.length) 0), 0), (c.copies.length, 6),
      (min 16 (c.streams.toList.foldl (fun a t => a + t.ahead.length) 0), 10)]
  | 0x924 => k.raDrop
  | 0x928 => k.ceCrc
  | 0x934 => k.xlatMiss
  | 0xE00 => packWord [(c.pwrMode.toNat, 0), (pstateCode c.pstate, 2)]
  | 0xE28 => k.pwrAborts
  | _ =>
    if 0x300 ≤ o ∧ o < 0x320 ∧ o % 4 = 0 then k.failG.getD ((o - 0x300) / 4) 0
    else if 0x940 ≤ o ∧ o < 0x980 ∧ o % 4 = 0 then (getStream c ((o - 0x940) / 4)).prog
    else if 0xD00 ≤ o ∧ o < 0xE00 ∧ o % 4 = 0 then semGet c ((o - 0xD00) / 4)
    else 0

/-- The channel whose blocks a position holds, its migration's target with it (R211). -/
def chanAt (s : State) (p : Nat) : Option Nat :=
  match (getCtrl s p).chan with
  | some ch => some ch
  | none => (s.mem.migs.find? fun g => g.target == p).map (·.chan)

/-- R85, R196: what a reader outside the tenant's session may see of a confidential core window. -/
def coreOpen (o : Nat) : Bool := o == 0x900 || (decide (0x940 ≤ o) && decide (o < 0x980))

/-- R229: the registers of a controller position. -/
def memWord (s : State) (i o : Nat) : BitVec 32 :=
  let k := getCtrl s i
  match o with
  | 0x00 => packWord [(roleCode k.role, 0), (k.chan.getD 0x7F, 2), (k.rate.toNat, 9), (k.selfRefresh.toNat, 11),
      (k.training.toNat, 12), (k.noSpare.toNat, 13)]
  | 0x04 => k.corr
  | 0x08 => k.uncorr
  | 0x0C => packWord [(k.crcTransport.toNat, 0), (k.crcMemory.toNat, 16)]
  | 0x10 => k.metaMiss
  | 0x14 => k.retrain
  | 0x18 => packWord [(k.migPtr.toNat, 0)]
  | 0x1C => packWord [(k.scrubPtr.toNat, 0)]
  | 0x30 => k.eye
  | _ => 0

/-- R283: the 32-bit registers of a port. -/
def portWord (s : State) (p o : Nat) : BitVec 32 :=
  let b := getPort s p
  match o with
  | 0x00 => packWord [(portCode (shownPort s p), 0), (b.lanes.toNat, 3), ((decide (p < portCount s)).toNat, 7), (b.perLink.toNat, 8),
      (b.secRefused.toNat, 9), (b.keyslot.toNat, 10)]
  | 0x04 => match b.peer with
    | some (a, q) => packWord [(a.toNat, 0), (q.toNat, 17), (1, 23)]
    | none => 0
  | 0x08 => b.fecCorr
  | 0x0C => b.fecUncorr
  | 0x10 => b.retry
  | 0x14 => b.retrain
  | 0x28 => b.asym
  | 0x2C => b.rekeys
  | _ => 0

/-- R284: the module-wide fabric registers. -/
def fabWord (s : State) (o : Nat) : BitVec 32 :=
  let f := s.fab
  match o with
  | 0x00 => packWord [(f.addr.toNat, 0), (f.valid.toNat, 17)]
  | 0x04 => packWord [(f.perLink.toNat, 0),
      ((s.ctxs.toList.any fun x => x.sec.e2e.toList.any (·.isSome)).toNat, 1)]
  | 0x08 => f.dropHdr
  | 0x0C => f.dropStale
  | 0x10 => f.dropLate
  | 0x14 => f.dropHops
  | 0x18 => f.dropAge
  | 0x1C => f.dropNoroute
  | 0x20 => f.dropAuth
  | 0x24 => f.knells
  | 0x28 => f.routeGen
  | 0x2C => packWord ((List.range 4).map (fun e => ((!(getEngine s e).running.isEmpty).toNat, e)) ++
      (List.range 4).map fun e => ((getEngine s e).err.toNat, 4 + e))
  | _ => 0

/-- R316: the 32-bit registers of a ledger. -/
def ledgerWord (s : State) (c o : Nat) : BitVec 32 :=
  let l := (getCtx s c).led
  match o with
  | 0x00 => ledgerDb s c
  | 0x04 => packWord [(l.unmirrored.toNat, 0), (l.filling.toNat, 1), (l.absorbed.toNat, 2), (liveIndex s c, 3),
      (l.auditCopy.toNat, 4), (l.auditHold.toNat, 5)]
  | 0x10 => l.aborts
  | 0x14 => l.pgenDrop
  | 0x18 => l.recDrop
  | 0x1C => packWord [(l.fillDone.toNat, 0), (l.fillTotal.toNat, 16)]
  | _ => if 0x20 ≤ o then BitVec.ofNat 32 (field l.accept.toNat (8 * (o - 0x20)) 32) else 0

/-- R335: the 32-bit registers of a Peal. -/
def pealWord (s : State) (c o : Nat) : BitVec 32 :=
  let p := (getCtx s c).peal
  let sl := getSlot p
  match o with
  | 0x00 => packWord [(pealCode p.st, 0), (p.slotNo, 3), ((sl 0).valid.toNat, 5), ((sl 1).valid.toNat, 6), ((protectedSlot s c == some 1).toNat, 7),
      (p.err.toNat, 8)]
  | 0x0C => packWord [(p.done.toNat, 0), (p.total.toNat, 16)]
  | 0x10 => p.count
  | 0x14 => p.fail
  | 0x18 => p.predict
  | 0x1C => p.skipped
  | _ => 0

/-- R235, R252: the step record of a started work item keeps its state in memory; the registers count those at 0x01 to
0x03 whose WVER lies in version slot `n`, by the records the context holds. -/
def readersOf (s : State) (c n : Nat) : Nat :=
  let x := getCtx s c
  let recs := x.led.records.filterMap fun va => (readBytesVa s c va.toNat 32).map (·.2)
  let v := (x.vslots.getD n (.free, 0)).2
  (recs.filter fun r =>
    let st := (r.getD 0x1B 0).toNat
    decide (1 ≤ st) && decide (st ≤ 3) && leNat (slice r 8 6) == v.toNat).length

/-- R252: the 32-bit registers of the versions of a context. -/
def trnWord (s : State) (c o : Nat) : BitVec 32 :=
  let x := getCtx s c
  let lag := ctxSetting s c 0x604
  let sl := fun i => if i = 2 ∧ lag = 0 then 0 else verCode (x.vslots.getD i (.free, 0)).1
  match o with
  | 0x00 => packWord [(sl 0, 0), (sl 1, 2), (sl 2, 4), (lag % 2, 6), ((ctxSetting s c 0x602 - 1) % 8, 8)]
  | 0x04 => packWord [(readersOf s c 0 % 65536, 0), (readersOf s c 1 % 65536, 16)]
  | 0x08 => packWord [(readersOf s c 2 % 65536, 0)]
  | 0x0C => x.trnBusy
  | _ => 0

/-- R407: HUB_CTX_c. -/
def ctxWord (s : State) (c o : Nat) : BitVec 32 :=
  let x := getCtx s c
  match o with
  | 0x0 => packWord [(x.cgen.toNat, 0), (ctxCode x.st, 16)]
  | 0x4 => x.prog
  | 0x8 => x.idleBeats
  | _ => 0

/-- R445: the SEC_ registers. -/
def secWord (s : State) (o : Nat) : BitVec 32 :=
  let k := s.sec
  if o = 0 then
    packWord [((dbgEn s).toNat, 0), ((anyConf s).toNat, 1), ((decide (lmsRemain s < 2 ^ 20)).toNat, 2),
      ((decide (lmsRemain s = 0)).toNat, 3), (k.cred.toNat, 4),
      ((List.range 4).foldl (fun a p => a + ((s.mail.sessions.getD p none).isSome).toNat * 2 ^ p) 0, 8), (k.ide.toNat, 12)]
  else if o = 4 then BitVec.ofNat 32 (lmsRemain s)
  else if 0x100 ≤ o ∧ o < 0x180 then
    let p := (o - 0x100) / 0x20
    match o % 0x20 with
    | 0x00 => packWord [((isConf s p).toNat, 0), (((k.sweeps.getD p none).isSome).toNat, 1),
        (((k.sweeps.getD p none).map (·.ctx)).getD 0, 2)]
    | 0x04 => packWord [((s.mem.quar.getD p []).length, 0)]
    | 0x08 => packWord [(k.swept.getD p 0, 0)]
    | 0x0C => packWord [(k.sweepTotal.getD p 0, 0)]
    | 0x10 => k.tagFail.getD p 0
    | 0x14 => k.lockouts.getD p 0
    | _ => 0
  else if 0x200 ≤ o ∧ o < 0x300 then
    let x := (getCtx s ((o - 0x200) / 4)).sec
    let n := (x.tags.filter fun t => decide (s.ticks < t + 3600 * ticksPerSec)).length
    packWord [(x.epoch.toNat, 0), (x.rotating.toNat, 1), (x.locked.toNat, 2), (min 16 n, 3)]
  else 0

/-- R461: full power readings: no other partition than the reader's own is confidential. -/
def fullPower (s : State) (sess : Option Nat) : Bool :=
  (List.range 4).all fun p => !isConf s p || sess == some p

/-- R461: the power of a compute die as a reader sees it: in full, or of the dies of the session's own partition. -/
def diePower (s : State) (sess : Option Nat) (d : Nat) : Nat :=
  if fullPower s sess || sess == some (diePart s.hub.layout d) then (s.pwr.last.dieW.getD d 0).toNat else 0

/-- R462: LIMIT reads 0 while some partition is confidential, for a reader outside its session (R461). -/
def pwrWord (s : State) (sess : Option Nat) (o : Nat) : BitVec 32 :=
  let w := s.pwr
  let full := fullPower s sess
  match o with
  | 0x00 => packWord [(pstateCode w.pstate, 0), (if full then w.limit.toNat else 0, 2), (w.filler.toNat, 8), (w.conSet.toNat, 9)]
  | 0x04 => packWord [(w.last.volt.toNat, 0), (if full then w.last.curr.toNat else 0, 16)]
  | 0x08 => packWord [(if full then w.last.power.toNat else coarse w.minute.toNat, 0)]
  | 0x0C => packWord [(if full then w.minute.toNat else coarse w.minute.toNat, 0), (w.minuteNo % 65536, 16)]
  | 0x10 => packWord [(w.tenant.toNat, 0), (w.inForce.toNat, 16)]
  | 0x14 => packWord [(w.con.fast.toNat, 0), (w.con.minute.toNat, 16)]
  | 0x18 => packWord [(w.con.ramp.toNat, 0), (w.con.floor.toNat, 16)]
  | 0x1C => packWord ((List.range 4).map fun d => (((if full then w.freq else w.minFreq).getD d 0).toNat, 4 * d))
  | 0x20 => packWord ((List.range 4).map fun d => (((if full then w.last.tj else w.maxTj).getD d 0).toNat, 8 * d))
  | 0x24 => packWord [(w.last.tjHub.toNat, 0), (w.last.inlet.toNat, 8), (w.last.outlet.toNat, 20)]
  | 0x28 => w.lpAborts
  | 0x2C => w.limitedMin
  | 0x30 => w.missMin
  | 0x34 => w.throttleMin
  | 0x38 => packWord [(diePower s sess 0, 0), (diePower s sess 1, 16)]
  | 0x3C => packWord [(diePower s sess 2, 0), (diePower s sess 3, 16)]
  | _ => 0

/-- R55: the 32-bit registers of the time block. -/
def timeWord (s : State) (o : Nat) : BitVec 32 :=
  let t := s.time
  match o with
  | 0x08 => timeStatus s
  | 0x0C => packWord [(t.masterAddr.toNat, 0), (if t.st == .unset then 0 else t.gen.toNat, 17)]
  | 0x10 => packWord [(t.parent.getD 0, 0), (t.parent.isSome.toNat, 6), (t.hops.toNat, 8)]
  | 0x14 => t.offset
  | 0x18 => t.lateLaunch
  | 0x1C => t.unlockCount
  | 0x20 => t.parentChanges
  | 0x24 => t.conflict
  | 0x28 => packWord [(t.cadEnable.toNat, 0), (t.cadFalling.toNat, 1), (t.cadDiv.toNat, 4), (t.cadStagger.toNat, 16)]
  | 0x2C => t.cadPeriod
  | 0x38 => t.cadReject
  | 0x3C => packWord [(t.ppsEnable.toNat, 0), (t.ppsWidth.toNat, 8)]
  | _ => 0

/-- R230: the regulators and the pools. -/
def regulWord (s : State) (o : Nat) : BitVec 32 :=
  if o < 0x100 then
    let p := o / 0x40
    let b := (s.mem.buckets.getD p (Vector.replicate 4 (Bucket.default 3))).getD (o / 0x10 % 4) (Bucket.default 3)
    if p ≥ partCount s.hub.layout then 0
    else match o % 0x10 with
      | 0x0 => packWord [(b.rate, 0), (b.borrow.toNat, 18)]
      | 0x4 => packWord [(b.depth, 0)]
      | 0x8 => BitVec.ofNat 32 (wrapInt 21 (b.tokens.toList.foldl (· + ·) 0))
      | 0xC => b.throttle
      | _ => 0
  else
    let p := (o - 0x100) / 4
    if p < 4 ∧ p < partCount s.hub.layout then packWord [(((List.range 4).filter fun d => diePart s.hub.layout d == p).foldl (fun a d => a + s.mem.pool.getD d 0) 0, 0)] else 0

/-- The hub's own registers below 0x1000. -/
def hubWord (s : State) (o : Nat) : BitVec 32 :=
  match o with
  | 0x08 => hubOptions s.opt
  | 0x10 => s.hub.mapGen
  | 0x14 => partLayoutReg s
  | 0x18 => devStateReg s
  | 0x1C => s.hub.chime
  | 0x24 => packWord [(s.hub.causeDev.toNat, 0), (s.hub.causeBelfry.toNat, 4), (s.hub.bCount.toNat, 8)]
  | 0x28 => packWord [(healthScore s, 0), (healthCode s.diag.health, 7)]
  | 0x2C => packWord [(evidTotal s 0, 0), (evidTotal s 1, 8), (evidTotal s 2, 16)]
  | _ => 0

/-- A context block of the given base and size names context `c` and offset `o`. -/
def blockOf (off base size : Nat) : Option (Nat × Nat) :=
  if base ≤ off ∧ off < base + 64 * size then some ((off - base) / size, (off - base) % size) else none

/-- Whether the reader may see tenant data of partition `p` (R411): it is not confidential, or the read comes inside the
session of that partition. -/
def mayRead (s : State) (sess : Option Nat) (p : Nat) : Bool := !isConf s p || sess == some p

/-- The 64-bit value whose _LO half lies at `off`, if one does; hidden values read 0. -/
def wideAt (s : State) (sess : Option Nat) (off : Nat) : Option (BitVec 64) :=
  if 0x100000 ≤ off ∧ off < 0x180000 then
    let n := (off - 0x100000) / 0x1000
    let o := off % 0x1000
    (coreWide s n o).map fun v => if inService s n && mayRead s sess (corePart s n) then v else 0
  else if 0x4000 ≤ off ∧ off < 0x5400 then
    let i := (off - 0x4000) / 0x40
    let k := getCtrl s i
    let see := match chanAt s i with
      | some n => mayRead s sess (chanPart s n)
      | none => true
    match off % 0x40 with
    | 0x20 => some (if see then k.rd else 0)
    | 0x28 => some (if see then k.wr else 0)
    | _ => none
  else if 0x7000 ≤ off ∧ off < 0x7900 then
    match off % 0x40 with
    | 0x18 => some (getPort s ((off - 0x7000) / 0x40)).frames
    | 0x20 => some (getPort s ((off - 0x7000) / 0x40)).fseq
    | _ => none
  else if 0x7A30 ≤ off ∧ off < 0x7A50 ∧ off % 8 = 0 then some (getEngine s ((off - 0x7A30) / 8)).result
  else if 0xC040 ≤ off ∧ off < 0xC060 ∧ off % 8 = 0 then some (s.pwr.res.getD ((off - 0xC040) / 8) 0)
  else if off = 0x2000 then some s.time.now
  else if off = 0x2030 then some s.time.cadLast
  else match blockOf off 0x6000 0x40 with
    | some (c, 0x28) => some ((getCtx s c).trnStep.setWidth 64)
    | some (c, 0x10) => some (((getCtx s c).vslots.getD 0 (.free, 0)).2.setWidth 64)
    | some (c, 0x18) => some (((getCtx s c).vslots.getD 1 (.free, 0)).2.setWidth 64)
    | some (c, 0x20) => some (((getCtx s c).vslots.getD 2 (.free, 0)).2.setWidth 64)
    | _ => match blockOf off 0x8000 0x40 with
      | some (c, 0x08) => some ((getCtx s c).led.committed.setWidth 64)
      | _ => match blockOf off 0x9000 0x20 with
        | some (c, 0x04) => some ((pealNewest (getCtx s c).peal).setWidth 64)
        | _ => none

/-- R338: MBX_OWN of a mailbox as read over PCIe. -/
def mbxOwn (s : State) (m : Nat) : BitVec 32 :=
  let b := getBox s m
  let served := s.hub.dev != .booting && s.hub.dev != .cold && (decide (m < 16) || m == 18 || s.mail.opAuth)
  packWord [(match b.owner with
    | .host => 0
    | .device => 1
    | .done => 2, 0), (served.toNat, 2), (b.drop.toNat, 8)]

/-- R337: a word of a mailbox's buffers. -/
def boxWord (s : State) (off : Nat) : BitVec 32 :=
  let m := (off - 0x200000) / 0x2000
  let o := off % 0x2000
  if o = 0 then mbxOwn s m
  else if o < 0x1000 then BitVec.ofNat 32 (leNat (memRead (getBox s m).req o 4))
  else BitVec.ofNat 32 (leNat (memRead (getBox s m).resp (o - 0x1000) 4))

/-- The live value of the 32-bit register at a BAR0 offset; an offset that names no register reads 0 (R12). `sess`: the
partition in whose session the read comes. -/
def regRead (s : State) (sess : Option Nat) (off : Nat) : BitVec 32 :=
  if off % 4 ≠ 0 then 0
  else match wideAt s sess off with
  | some v => lo32 v
  | none =>
    match if off < 4 then none else wideAt s sess (off - 4) with
    | some v => hi32 v
    | none =>
      if 0x100000 ≤ off ∧ off < 0x180000 then
        let n := (off - 0x100000) / 0x1000
        let o := off % 0x1000
        if inService s n && (mayRead s sess (corePart s n) || coreOpen o) then coreWord s n o else 0
      else if 0x200000 ≤ off ∧ off < 0x226000 then boxWord s off
      else if off < 0x1000 then hubWord s off
      else if off < 0x1200 then coreMapReg s ((off - 0x1000) / 4)
      else if off < 0x1320 then chanMapReg s ((off - 0x1200) / 4)
      else if 0x2000 ≤ off ∧ off < 0x2040 then timeWord s (off - 0x2000)
      else if 0x4000 ≤ off ∧ off < 0x5400 then memWord s ((off - 0x4000) / 0x40) (off % 0x40)
      else if 0x5800 ≤ off ∧ off < 0x5910 then regulWord s (off - 0x5800)
      else if 0x7000 ≤ off ∧ off < 0x7900 then portWord s ((off - 0x7000) / 0x40) (off % 0x40)
      else if 0x7A00 ≤ off ∧ off < 0x7A30 then fabWord s (off - 0x7A00)
      else if 0xB000 ≤ off ∧ off < 0xB300 then secWord s (off - 0xB000)
      else if 0xC000 ≤ off ∧ off < 0xC040 then pwrWord s sess (off - 0xC000)
      else match blockOf off 0x5A00 8 with
        | some (c, 0) => packWord [((getCtx s c).pmBase.toNat, 0)]
        | some (c, _) => packWord [((getCtx s c).pmLen.toNat, 0), ((getCtx s c).part, 18)]
        | none => match blockOf off 0x6000 0x40 with
          | some (c, o) => trnWord s c o
          | none => match blockOf off 0x8000 0x40 with
            | some (c, o) => ledgerWord s c o
            | none => match blockOf off 0x9000 0x20 with
              | some (c, o) => pealWord s c o
              | none => match blockOf off 0xA000 0x10 with
                | some (c, o) => ctxWord s c o
                | none => 0

/-- R36: take the latch of a pair on a path. -/
def dropLatch (s : State) (path : RegPath) (off : Nat) : State :=
  { s with latches := s.latches.filter fun l => !(l.path == path && l.off.toNat == off) }

/-- R36: one read on a path: a _LO half latches the upper half of its pair, a _HI half takes it. -/
def latchedRead (s : State) (path : RegPath) (sess : Option Nat) (off : Nat) : State × BitVec 32 :=
  match wideAt s sess off with
  | some v =>
    ({ dropLatch s path off with latches := { path := path, off := BitVec.ofNat 32 off, hi := hi32 v } ::
        (dropLatch s path off).latches }, lo32 v)
  | none =>
    match s.latches.find? (fun l => l.path == path && l.off.toNat + 4 == off) with
    | some l => (dropLatch s path (off - 4), l.hi)
    | none => (s, regRead s sess off)

/-- R424: consecutive registers read on a path, as bytes. -/
def readRegs (s : State) (path : RegPath) (sess : Option Nat) (off : Nat) : Nat → State × Bytes
  | 0 => (s, [])
  | n + 1 =>
    let (s, v) := latchedRead s path sess off
    let (s, r) := readRegs s path sess (off + 4) n
    (s, leBytes 4 v.toNat ++ r)

/-! ### Derived descriptors -/

/-- R174: the opcodes, bit c set for opcode c. -/
def opcodeMask : Nat := 0x80FF000100030002

/-- R151: the VEC operations, bit c set for OP c. -/
def vecOpMask : Nat := 0x1000F0003000300FF07FF000103FE

/-- R191: the 256-byte capability descriptor of a core. -/
def capability (s : State) (n : Nat) : Bytes :=
  let p := corePart s n
  let all := ((List.range 128).filter fun i => inService s i).length
  let mine := (partCores s p).length
  [3, 0] ++ leBytes 2 0x4812 ++ [BitVec.ofNat 8 ((hubOptions s.opt).toNat / 2 ^ 24), BitVec.ofNat 8 (portCount s),
    BitVec.ofNat 8 (chanCount s), BitVec.ofNat 8 (s.opt.conf.toNat + 2 * (isConf s p).toNat)] ++
  leBytes 2 all ++ leBytes 2 mine ++ [BitVec.ofNat 8 p, BitVec.ofNat 8 s.hub.layout.toNat, 16, 64] ++
  leBytes 4 4194304 ++ leBytes 4 524288 ++ [48, 8, 4, 40, 8, 0] ++ leBytes 2 256 ++ leBytes 32 opcodeMask ++
  leBytes 16 vecOpMask ++ leBytes 2 0xFFFF ++ [7, 0] ++ leBytes 2 4000 ++ leBytes 2 0 ++
  leBytes 4 s.hub.capGen.toNat ++ List.replicate 164 0

end Sys2Proof.Machine
end

