-- ==== Sys2Proof/Machine/CoreOps.lean ====
section
/-! DEFINITION. What the events of a core share: streams, halts, completions, semaphores, blocked streams, work items,
held replay slots, beginning work and resets (R169 to R184, R126 to R134, R234 to R248, R446 to R449). -/

namespace Sys2Proof.Machine

/-! ### Step records and timing (R235, R313) -/

/-- An empty timing record of a step. -/
def TimingRec.fresh (step : BitVec 48) : TimingRec :=
  { step := step, tStart := 0, tBwd := 0, tUpd := 0, tReady := 0, tEnd := 0, mbDone := 0, attempts := 1, reason := 0 }

/-- R313: change the timing record of a step, made when there is none; the last 64 are kept, newest first. -/
def modTiming (s : State) (c : Nat) (step : BitVec 48) (f : TimingRec → TimingRec) : State :=
  modLed s c fun l =>
    if l.times.any (fun t => t.step == step) then
      { l with times := l.times.map fun t => if t.step == step then f t else t }
    else { l with times := (f (TimingRec.fresh step) :: l.times).take 64 }

/-- A micro-batch record (R235). -/
structure MbRec where
  step  : BitVec 48
  wver  : BitVec 48
  mb    : Nat
  chunk : Nat
  state : Nat
  pgen  : BitVec 8

/-- R235: the record that 32 bytes spell. -/
def mbRecOf (b : Bytes) : MbRec :=
  { step := BitVec.ofNat 48 (leNat (slice b 0 6)), wver := BitVec.ofNat 48 (leNat (slice b 8 6)), mb := leNat (slice b 0x18 2),
    chunk := (b.getD 0x1A 0).toNat, state := (b.getD 0x1B 0).toNat, pgen := b.getD 0x1C 0 }

/-- The record at an address of a context, when it can be read. -/
def readRec (s : State) (c : Nat) (va : BitVec 48) : Option MbRec := (readBytesVa s c va.toNat 32).map fun r => mbRecOf r.2

/-- Write bytes of the Belfry's own at an address of a context; nothing when the page cannot be reached. -/
def putForced (s : State) (c va : Nat) (d : Bytes) : State := (putVa s c va d true).getD s

/-- R235: set STATE of a record. -/
def setRecState (s : State) (c : Nat) (va : BitVec 48) (v : Nat) : State := putForced s c (va.toNat + 0x1B) [BitVec.ofNat 8 v]

/-- R314: micro-batches of a step on this module; PIPE_M while QUOTA_SET has given none (assumption log 12). -/
def quotaOf (s : State) (c : Nat) : Nat :=
  let q := (getCtx s c).led.quota.toNat
  if q = 0 then ctxSetting s c 0x603 else q

/-- R294, R246: every record of a step for the quota, in every chunk, is at 0x04. -/
def recordsDone (s : State) (c : Nat) (step : BitVec 48) : Bool :=
  let recs := ((getCtx s c).led.records.filterMap (readRec s c)).filter fun r => r.step == step
  recs.all (fun r => r.state == 4) && decide (quotaOf s c * ctxSetting s c 0x602 ≤ recs.length)

/-- R244: the slot of a version. -/
def verSlot (s : State) (c : Nat) (v : BitVec 48) : Nat := v.toNat % (2 + ctxSetting s c 0x604)

/-- Change a version slot. -/
def setVer (s : State) (c i : Nat) (v : VerState × BitVec 48) : State :=
  modCtx s c fun x => { x with vslots := x.vslots.setIfInBounds i v }

/-- The mirror update of a step is required: there is an effective partner, or an absorbed shard (R294, R308). -/
def mirrorNeeded (l : Ledger) : Bool := l.pair.isSome || l.absorbed

/-- R313: micro-batches of a step that have gone backward through every chunk of this module. -/
def mbsDone (s : State) (c : Nat) (step : BitVec 48) : Nat :=
  let mbs := (((getCtx s c).led.records.filterMap (readRec s c)).filter fun r => r.step == step && r.state == 4).map (·.mb)
  (mbs.eraseDups.filter fun m => decide (ctxSetting s c 0x602 ≤ mbs.count m)).length

/-- R135: a step is audited. -/
def audited (s : State) (c : Nat) (step : BitVec 48) : Bool :=
  let n := ctxSetting s c 0x500
  n != 0 && ((step.toNat : Int) - ctxSetting s c 0x501) % n == 0

/-- R240, R241: bytes of the BF16 gradient buffer of a layer that is not frozen: two for each element of its compute copy. -/
def gradBytes (r : BitVec 256) : Nat :=
  let bits := elemBits (r.extractLsb' 24 4).toNat
  let n := (r.extractLsb' 128 64).toNat * 8
  2 * (if isMx (r.extractLsb' 24 4).toNat then n / (32 * bits + 8) * 32 else n / bits)

/-- R135: the digests of the gradient tensors that a step sends into the exchange: the buffers of its layers, in table order. -/
def gradDigests (s : State) (c : Nat) : List Bytes :=
  ((getCtx s c).layers.filter fun r => r.extractLsb' 16 1 == 0).map fun r =>
    sha256 (((readBytesVa s c (r.extractLsb' 192 64).toNat (gradBytes r)).map (·.2)).getD [])

/-- R135, R313: the last record of a step has reached 0x04. -/
def backwardDone (s : State) (c : Nat) (step : BitVec 48) : State :=
  let s := modTiming s c step fun t => { t with tBwd := s.time.now }
  if audited s c step then modLed s c fun l => { l with gradDigests := gradDigests s c } else s

/-- R234, R235, R247: the work item has finished. -/
def finishItem (s : State) (c : Nat) (w : Item) : State :=
  match w.role.toNat with
  | 1 =>
    let s := setRecState s c w.recVa (if w.backward then 4 else 2)
    if w.backward then
      let s := modTiming s c w.step fun t => { t with mbDone := BitVec.ofNat 16 (mbsDone s c w.step) }
      if recordsDone s c w.step then backwardDone s c w.step else s
    else s
  | 2 =>
    let s := if w.mirror then modLed s c fun l => { l with mirrorDone := true }
      else
        let i := verSlot s c (w.step + 1)
        setVer (modLed s c fun l => { l with ownDone := true }) c i (.written, w.step + 1)
    let l := (getCtx s c).led
    if l.ownDone && (l.mirrorDone || !mirrorNeeded l) then modTiming s c w.step fun t => { t with tUpd := s.time.now } else s
  | _ => s

/-! ### Streams -/

/-- Logical cores in service that serve a context. -/
def coresOf (s : State) (c : Nat) : List Nat :=
  (List.range 128).filter fun n => inService s n && (getC s n).ctx == some c

/-- Some stream of the context is HALTED (R294 reason 0x07). -/
def anyHalted (s : State) (c : Nat) : Bool :=
  (coresOf s c).any fun n => (getC s n).streams.toList.any fun t => t.st == .halted && t.ctx == c

/-- Address of the descriptor that issues next: the one after a LAUNCH_AT that has come due (R181). -/
def issuePc (t : Stream) : BitVec 48 := if t.due then t.pc + 32 else t.pc

/-- The 256-byte block of a descriptor address. -/
def blockAddr (a : BitVec 48) : BitVec 48 := a - (a % 256)

/-- The descriptor at an address, when its block has been fetched (R170). -/
def fetchedAt (t : Stream) (a : BitVec 48) : Option (BitVec 256) :=
  match t.blocks.find? (fun b => b.addr == blockAddr a) with
  | some b => b.data.map fun d => descOf (slice d (a.toNat % 256) 32)
  | none => none

/-- R175: the descriptor index. -/
def descIndex (t : Stream) (a : BitVec 48) : BitVec 64 := BitVec.ofInt 64 ((a - t.first).toInt / 32)

/-- R175: load an error, or queue it while one is held. -/
def recordErr (c : PCore) (e : StreamErr) : PCore :=
  if c.errValid then { c with errQ := c.errQ ++ [e] } else { c with err := some e, errValid := true }

/-- R175: halt a stream at a descriptor. Run-ahead data is discarded (R189). -/
def haltStream (s : State) (n i : Nat) (cause : BitVec 8) (tag : BitVec 8) (a : BitVec 48) : State :=
  modC s n fun c =>
    let t := getStream c i
    if t.st = .running then
      recordErr (setStream c i { t with st := .halted, blocked := none, due := false, ahead := [] })
        { stream := i, cause := cause, tag := tag, idx := descIndex t a }
    else c

/-- Drop fetched blocks that the program counter has left behind. -/
def trimBlocks (t : Stream) : Stream :=
  { t with blocks := t.blocks.filter fun b => b.addr == blockAddr t.pc || b.addr == blockAddr t.pc + 256 }

/-- Move a stream to an address. -/
def gotoPc (t : Stream) (a : BitVec 48) : Stream := trimBlocks { t with pc := a }

/-- R407: one descriptor of a context has completed. -/
def countProg (s : State) (n i : Nat) : State :=
  let t := getStream (getC s n) i
  let s := modC s n fun c => modStream c i fun t => { t with prog := t.prog + 1 }
  modCtx s t.ctx fun x => { x with prog := x.prog + 1, idleBeats := 0, completed := true }

/-- R172: signal SSEM. -/
def signalSsem (s : State) (n : Nat) (d : BitVec 256) : State :=
  if senOf d then modC s n fun c => semAdd c (ssemOf d) 1 else s

/-- R172: a descriptor in flight completes: it signals, counts and leaves its stream. -/
def completeIssued (s : State) (n : Nat) (x : Issued) : State :=
  let s := signalSsem s n x.desc
  let s := countProg s n x.slot
  modC s n fun c => modStream c x.slot fun t => { t with inflight := t.inflight.erase x.id }

/-- A descriptor in flight ends without completing (a failed COPY): it leaves its stream. -/
def dropIssued (s : State) (n : Nat) (x : Issued) : State :=
  modC s n fun c => modStream c x.slot fun t => { t with inflight := t.inflight.erase x.id }

/-- Complete the descriptor a stream is blocked in and move past it. -/
def completeHere (s : State) (n i : Nat) : State :=
  let t := getStream (getC s n) i
  match fetchedAt t t.pc with
  | some d =>
    let s := signalSsem s n d
    let s := countProg s n i
    modC s n fun c => modStream c i fun t => gotoPc { t with blocked := none } (t.pc + 32)
  | none => s

/-! ### What may issue (R171, R126, R181) -/

/-- Replay slots of a logical core in use. -/
def slotsHeld (s : State) (n : Nat) : Nat := ((getL s n).replay.toList.filter (·.isSome)).length

/-- Checked descriptors in flight on a core. -/
def checkedInFlight (c : PCore) : Nat := c.lr.length + c.mv.length + (c.threads.toList.filter (·.isSome)).length

/-- R133: a held descriptor is still to be issued again. -/
def reissueDue (s : State) (n : Nat) : Bool :=
  (getL s n).replay.toList.any fun r => r.any fun r => r.step == 0

/-- R126, R133: a checked descriptor may issue: while a slot is held, only with more slots free than checked descriptors in
flight, and not before what is to be issued again. -/
def checkedRoom (s : State) (n : Nat) : Bool :=
  slotsHeld s n == 0 || (decide (checkedInFlight (getC s n) < 4 - slotsHeld s n) && !reissueDue s n)

/-- LAUNCH_ATs of other streams that hold an engine slot for an opcode (R181). -/
def reservedFor (c : PCore) (i op : Nat) : Nat :=
  ((List.range 16).filter fun j =>
    let t := getStream c j
    j != i && (match t.blocked with
      | some (.launch _) => ((fetchedAt t (t.pc + 32)).map opcodeOf) == some op
      | _ => false)).length

/-- R171: the engine of an opcode can accept a descriptor of stream `i`. -/
def engineRoom (c : PCore) (i op : Nat) : Bool :=
  let r := reservedFor c i op
  if op = opMma then decide (c.lr.length + r < 2)
  else if op = opMv then decide (c.mv.length + r < 2)
  else if op = opVec then decide ((c.threads.toList.filter (·.isSome)).length + r < 8)
  else if op = opCopy then decide (c.copies.length + r < 8)
  else true

/-- R126: a descriptor whose engine checks what it does. -/
def isChecked (op : Nat) : Bool := op == opMma || op == opMv || op == opVec

/-- Opcodes that may not follow a LAUNCH_AT. -/
def noLaunch (d : BitVec 256) : Bool := opcodeOf d == opLaunchAt || opcodeOf d == opWaitLow || opcodeOf d == opEnd

/-- R173: the header wait can be satisfied, and ORDERED is met. -/
def headerReady (c : PCore) (t : Stream) (d : BitVec 256) : Bool :=
  (!wenOf d || decide (1 ≤ (semGet c (wsemOf d)).toNat)) && (!orderedOf d || t.inflight.isEmpty)

/-- R171, R126, R181: what a descriptor is for can take it; a LAUNCH_AT has its next descriptor, and an engine slot for it. -/
def hasRoom (s : State) (n i : Nat) (d : BitVec 256) : Bool :=
  let c := getC s n
  let t := getStream c i
  if opcodeOf d = opLaunchAt then
    match fetchedAt t (issuePc t + 32) with
    | some e => noLaunch e || engineRoom c i (opcodeOf e)
    | none => false
  else engineRoom c i (opcodeOf d) && (!isChecked (opcodeOf d) || checkedRoom s n)

/-- The sequencer of a core issues. -/
def canIssue (s : State) (n : Nat) : Bool :=
  let c := getC s n
  inService s n && c.pstate == .run && !c.frozen && !c.stopped && !s.hub.slotTesting.contains (physOf s n)

/-- R171: the next descriptor of a stream, when it could issue now. -/
def readyNext (s : State) (n i : Nat) : Option (BitVec 256) :=
  let c := getC s n
  let t := getStream c i
  if canIssue s n && t.st == .running && (t.blocked.isNone || t.due) then
    match fetchedAt t (issuePc t) with
    | some d => if headerReady c t d && hasRoom s n i d then some d else none
    | none => none
  else none

/-! ### The ready scheduler (R185) -/

/-- R185: a class that PREFER puts first; class other goes with it. -/
def preferred (p cls : BitVec 2) : Bool :=
  match p.toNat with
  | 0 => cls != 0
  | 1 => cls != 1
  | _ => true

/-- R185: what a stream is ranked by: its rank, then how long ago it issued, never coming first. -/
def turnKey (c : PCore) (i : Nat) : Nat × Nat :=
  let t := getStream c i
  (if t.due then 0 else if 64 ≤ t.passed then 1 else if preferred c.prefer t.cls then 2 else 3,
   match t.turn with
   | none => 0
   | some k => k + 1)

/-- One key is before another. -/
def keyLt (a b : Nat × Nat) : Bool := decide (a.1 < b.1) || (a.1 == b.1 && decide (a.2 < b.2))

/-- Put a number into a list in the order of its key, before those of an equal key. -/
def insertByKey (f : Nat → Nat × Nat) (i : Nat) : List Nat → List Nat
  | [] => [i]
  | j :: t => if keyLt (f j) (f i) then j :: insertByKey f i t else i :: j :: t

/-- Numbers in the order of their keys; equal keys keep their order. -/
def orderByKey (f : Nat → Nat × Nat) : List Nat → List Nat
  | [] => []
  | i :: t => insertByKey f i (orderByKey f t)

/-- R185: the streams of a core in the order in which the scheduler prefers them. -/
def turnOrder (c : PCore) : List Nat := orderByKey (turnKey c) (List.range 16)

/-- R185: the stream that the scheduler picks. -/
def pickStream (s : State) (n : Nat) : Option Nat := (turnOrder (getC s n)).find? fun i => (readyNext s n i).isSome

/-- R185: a turn goes to stream `i`; the others that are ready have been passed over. -/
def takeTurn (s : State) (n i : Nat) : State :=
  let ready := fun j => (readyNext s n j).isSome
  modC s n fun c => { c with
    turns := c.turns + 1
    streams := Vector.ofFn fun (j : Fin 16) =>
      let t := getStream c j.val
      if j.val = i then { t with passed := 0, turn := some c.turns }
      else { t with passed := if ready j.val then t.passed + 1 else 0 } }

/-! ### Blocked streams -/

/-- Descriptors issued on a core and not complete, by number: those in the engines, and control descriptors that wait. -/
def inFlight (c : PCore) : List Nat :=
  c.streams.toList.flatMap fun t => if t.blocked.isSome then t.blockId :: t.inflight else t.inflight

/-- A control descriptor that waits has issued. -/
def blockOn (s : State) (n i : Nat) (b : Blocked) : State :=
  modC s n fun c => modStream { c with nextId := c.nextId + 1 } i fun t => { t with blocked := some b, blockId := c.nextId }

/-- A stream has ended: IDLE, and its work item finishes with the last of its streams (R172, R234). -/
def endStreamNow (s : State) (n i : Nat) : State :=
  let t := getStream (getC s n) i
  let s := match fetchedAt t t.pc with
    | some d => signalSsem s n d
    | none => s
  let s := countProg s n i
  let s := modC s n fun c => modStream c i fun t => { t with st := .idle, blocked := none, blocks := [], ahead := [], item := none }
  match t.item with
  | some w =>
    if (partCores s (getCtx s t.ctx).part).any (fun m => (getStream (getC s m) i).item == some w) then s
    else finishItem s t.ctx w
  | none => s

/-- Whether the semaphore condition of a WAIT holds. -/
def semMet (c : PCore) (sem : Option (BitVec 6)) (v : BitVec 32) : Bool :=
  match sem with
  | some i => decide (v.toNat ≤ (semGet c i.toNat).toNat)
  | none => true

/-- R177: a stream that the scheduler picks before `i` takes the count that `i` needs: its header waits on the semaphore, which
does not hold enough for both. -/
def outranked (s : State) (n i : Nat) (sem : Option (BitVec 6)) (v : Nat) : Bool :=
  match sem with
  | none => false
  | some k =>
    decide ((semGet (getC s n) k.toNat).toNat < v + 1) &&
    ((turnOrder (getC s n)).takeWhile (· != i)).any fun j => match readyNext s n j with
      | some d => wenOf d && wsemOf d == k.toNat
      | none => false

/-- What lets a blocked stream go on in the present state, if anything (R172, R177, R179, R180, R184). -/
def unblock (s : State) (n i : Nat) : Option State :=
  let c := getC s n
  let t := getStream c i
  if t.st ≠ .running || !canIssue s n then none
  else match t.blocked with
    | some (.wait sem acq v time) =>
      if time.isNone && semMet c sem v && !(acq && outranked s n i sem v.toNat) then
        let s := match sem with
          | some k => if acq then modC s n fun c => semTake c k.toNat v else s
          | none => s
        some (completeHere s n i)
      else none
    | some (.waitLow sem time) =>
      let semOk := (match sem with
        | some k => decide (1 ≤ (semGet c k.toNat).toNat)
        | none => false) && !outranked s n i sem 1
      -- `time` is gone once the time has been reached; a WAIT_LOW without TIME_EN has its bit clear
      let timeOk := time.isNone && ((fetchedAt t t.pc).map (fun d => dbit d 39)).getD false
      if semOk || timeOk then
        let s := match sem with
          | some k => if semOk then modC s n fun c => semTake c k.toNat 1 else s
          | none => s
        some (completeHere s n i)
      else none
    | some (.fence ids) => if ids.all (fun x => !(inFlight c).contains x) then some (completeHere s n i) else none
    | some .ending => if t.inflight.isEmpty then some (endStreamNow s n i) else none
    | some (.launch _) => none
    | none => none

/-- One pass over the streams of a core, in the order of the scheduler: the first blocked stream that can go on does. -/
def wakeOne (s : State) (n : Nat) : List Nat → Option State
  | [] => none
  | i :: t => match unblock s n i with
    | some s' => some s'
    | none => wakeOne s n t

/-- Let every blocked stream of a core go on that can. -/
def wakeLoop : Nat → State → Nat → State
  | 0, s, _ => s
  | k + 1, s, n => match wakeOne s n (turnOrder (getC s n)) with
    | some s' => wakeLoop k s' n
    | none => s

/-- R171, R172: after an event on a core, its blocked streams go on; each completion may let another go on. -/
def wakeCore (s : State) (n : Nat) : State := wakeLoop 64 s n

/-! ### Issue (R171, R173) -/

/-- The descriptor a stream issues now for a row of the given opcode: its next one, when the scheduler picks the stream (R171,
R185, assumption log 133). -/
def issuable (s : State) (n i op : Nat) : Option (BitVec 256) :=
  match readyNext s n i with
  | some d => if opcodeOf d = op && pickStream s n == some i then some d else none
  | none => none

/-- R172, R181: the LAUNCH_AT before a descriptor that issues completes. -/
def finishLaunch (s : State) (n i : Nat) : State :=
  let t := getStream (getC s n) i
  if t.due then
    let s := match fetchedAt t t.pc with
      | some d => signalSsem s n d
      | none => s
    let s := countProg s n i
    modC s n fun c => modStream c i fun t => { t with blocked := none, due := false, pc := t.pc + 32 }
  else s

/-- R173: take the header wait's count. -/
def takeHeader (s : State) (n : Nat) (d : BitVec 256) : State :=
  if wenOf d then modC s n fun c => semTake c (wsemOf d) 1 else s

/-- Issue to an engine: the descriptor gets a number, its stream moves on. -/
def issueTo (s : State) (n i : Nat) (d : BitVec 256) : State × Issued :=
  let s := takeHeader (finishLaunch (takeTurn s n i) n i) n d
  let c := getC s n
  let t := getStream c i
  let x : Issued := { id := c.nextId, slot := i, pc := t.pc, desc := d }
  let c := { c with nextId := c.nextId + 1 }
  (setC s n (setStream c i (gotoPc { t with inflight := t.inflight ++ [x.id] } (t.pc + 32))), x)

/-- A malformed descriptor halts its stream at itself (R175); a LAUNCH_AT before it stays incomplete. -/
def rejectDesc (s : State) (n i : Nat) (d : BitVec 256) (cause : BitVec 8) : State :=
  haltStream (takeTurn s n i) n i cause (tagOf d) (issuePc (getStream (getC s n) i))

/-! ### Replay slots (R124 to R127, R140) -/

/-- Position of the first free replay slot. -/
def freeSlot (l : LCore) : Option Nat := (List.range 4).find? fun i => (l.replay.getD i none).isNone

/-- R124, R140: what a replay slot captures of a failing unit. -/
structure Capture where
  cause  : BitVec 8
  unit   : BitVec 8
  row    : BitVec 8
  k      : BitVec 32
  check  : BitVec 32
  bound  : BitVec 32
  tree   : BitVec 32
  values : List (BitVec 32)
  deriving DecidableEq, Repr

/-- R90: an input CRC failure captures nothing beside its cause. -/
def Capture.input : Capture := { cause := 8, unit := 0, row := 0, k := 0, check := 0, bound := 0, tree := 0, values := [] }

/-- A replay slot record; R128: an input CRC failure starts at step 3. -/
def mkReplay (s : State) (n : Nat) (x : Issued) (f : Capture) : Replay :=
  { iss := x, idx := (descIndex (getStream (getC s n) x.slot) x.pc).setWidth 56, cause := f.cause, unit := f.unit, row := f.row
    st := .held, kEntry := f.k, check := f.check, bound := f.bound, tree := f.tree, values := f.values
    step := if f.cause = 8 then 3 else 1, since := s.time.now, other := none, want := [], guest := [], start := none
    recs := [] }

/-- Change a replay slot. -/
def setReplay (s : State) (n k : Nat) (r : Option Replay) : State :=
  let l := getL s n
  setL s n { l with replay := l.replay.setIfInBounds k r }

/-- Free a bank. -/
def freeBank (c : PCore) (b : Nat) : PCore := setBank c b Bank.reset

/-- R124, R448: hold a failed descriptor in a replay slot, set the pending bit, and lower the core's MODE to 0b01. With no slot
free the step is marked bad, as at step 4 (assumption log 122). -/
def holdFailure (s : State) (n : Nat) (r : Replay) : State :=
  let l := getL s n
  match freeSlot l with
  | some k =>
    let s := setL s n { l with replay := l.replay.setIfInBounds k (some r), pending := true }
    modC s n fun c => { c with pwrMode := if c.pwrMode = 2 then 1 else c.pwrMode }
  | none =>
    let s := modLed s (getStream (getC s n) r.iss.slot).ctx fun l => { l with bad := true }
    let b := (mmaOf r.iss.desc).bank
    if opcodeOf r.iss.desc = opMma ∧ (getBank (getC s n) b).st = .draining then modC s n fun c => freeBank c b else s

/-- R127, R129: a replay leaves the core that it ran on, whose banks return to FREE. -/
def leaveGuest (s : State) (r : Replay) : State :=
  match r.other with
  | some p => setP s p (r.guest.foldl freeBank (getP s p))
  | none => s

/-- Free a replay slot; with none left held, MODE returns to 0b10 where it was lowered (R448). -/
def freeReplay (s : State) (n k : Nat) : State :=
  let s := match (getL s n).replay.getD k none with
    | some r => leaveGuest s r
    | none => s
  let s := setReplay s n k none
  if slotsHeld s n = 0 then modC s n fun c => { c with pwrMode := if c.pwrMode = 1 then 2 else c.pwrMode } else s

/-- R129: the replays that run on a slot for other cores: core, number of the replay slot, replay. -/
def guestsOn (s : State) (p : Nat) : List (Nat × Nat × Replay) :=
  s.lcores.flatMap fun l => ((List.range 4).zip l.2.replay.toList).filterMap fun q => q.2.bind fun r =>
    if r.st == .running && r.other == some p then some (l.1, q.1, r) else none

/-- A slot is reset or retired under the replays of other cores: they go back to the choice of a core (R129). -/
def dropGuests (s : State) (p : Nat) : State :=
  (guestsOn s p).foldl (fun s g => setReplay s g.1 g.2.1 (some { g.2.2 with st := .held, other := none, want := [], guest := [] })) s

/-! ### Stopping work -/

/-- R164: block requests that no thread waits on any more have ended. -/
def pruneGather (c : PCore) : PCore :=
  { c with gather := c.gather.filter fun g => c.threads.toList.any fun j => j.any fun j => j.blks.contains g.blk }

/-- R381: the engines drop the work of the streams `dead` names: an MMA's bank is discarded to FREE, MV and VEC stop, a
COPY issues no new request. -/
def dropWork (c : PCore) (dead : Nat → Bool) : PCore :=
  let gone := c.lr.filter fun j => dead j.iss.slot
  let c := gone.foldl (fun c j => if j.started then freeBank c (mmaOf j.iss.desc).bank else c) c
  let ids := gone.map (·.iss.id)
  pruneGather { c with
    lr := c.lr.filter fun j => !dead j.iss.slot
    stat := c.stat.filter fun b => !ids.contains b.id
    trans := c.trans.filter fun b => !ids.contains b.id
    mv := c.mv.filter fun x => !dead x.slot
    threads := c.threads.map fun j => j.filter fun v => !dead v.iss.slot
    gatherQ := c.gatherQ.filter fun q => !((c.threads.getD q.1 none).any fun v => dead v.iss.slot)
    copies := (c.copies.map fun j => if dead j.iss.slot then { j with total := j.next, miss := none } else j).filter
      fun j => !(dead j.iss.slot && j.out.isEmpty) }

/-- R169, R381, R301: streams that `dead` names stop: with nothing left in flight they become IDLE, or, for a fence, once the fence
has drained. -/
def stopStreams (s : State) (n : Nat) (fence : Bool) (dead : Stream → Bool) : State :=
  let c := getC s n
  let which := fun i => (getStream c i).st != .idle && dead (getStream c i)
  let c := dropWork c which
  let c := (List.range 16).foldl (fun c i =>
    if which i then
      let left := (c.copies.filter fun j => j.iss.slot == i).map (·.iss.id)
      modStream c i fun t => { t with
        st := if left.isEmpty && !fence then .idle else .stopping, blocks := [], ahead := [], blocked := none, due := false,
        item := none, inflight := left }
    else c) c
  let s := setC s n c
  let l := getL s n
  (List.range 4).foldl (fun s k =>
    match l.replay.getD k none with
    | some r => if which r.iss.slot then
        let b := (mmaOf r.iss.desc).bank
        let s := if opcodeOf r.iss.desc = opMma then modC s n fun c =>
            if (getBank c b).st = .draining then freeBank c b else c
          else s
        freeReplay s n k
      else s
    | none => s) s

/-- R169, R301: a STOPPING stream with nothing left in flight becomes IDLE, unless its context is being fenced. -/
def idleStopped (s : State) (n : Nat) : State :=
  modC s n fun c => (List.range 16).foldl (fun c i =>
    let t := getStream c i
    if t.st == .stopping && t.inflight.isEmpty && (getCtx s t.ctx).st != .fencing then setStream c i { t with st := .idle } else c) c

/-- R378: a core reset: the slot's state and counters, except what R465 keeps. -/
def resetSlot (s : State) (p : Nat) : State :=
  let s := dropGuests s p
  setP s p { PCore.reset with bankCap := (getP s p).bankCap, prefer := (getP s p).prefer }

/-- R169: begin work for a context on a core: seed, semaphores, stream state and operand cache; MODE = 0b10 (R448). -/
def beginWork (s : State) (n c : Nat) : State :=
  let x := getCtx s c
  modC s n fun k => { k with
    ctx := some c, gen := x.cgen, seed := BitVec.ofNat 64 (ctxSetting s c 0x900), sems := [],
    streams := Vector.replicate 16 Stream.reset, cache := [], cacheBad := [], copyLog := [],
    prefer := BitVec.ofNat 2 (ctxSetting s c 0x300), bankCap := BitVec.ofNat 6 (ctxSetting s c 0x301), pwrMode := 2
    frozen := ctxHeld x }

/-- R102, R446: what core Doze loses: banks, stationary store, transposer, operand cache. -/
def dozeLoss (c : PCore) : PCore :=
  { c with banks := Vector.replicate 2 Bank.reset, stat := [], trans := [], cache := [], cacheBad := [] }

/-- R449: a core returns to Run. -/
def wakeFrom (s : State) (n : Nat) : State := modC s n fun c => { c with pstate := .run }

end Sys2Proof.Machine
end

