-- ==== Sys2Proof/Machine/FabricOps.lean ====
section
/-! DEFINITION. What the fabric events share: usable groups, the choice of a port, routing, requests and their table,
completions, end-to-end counters, traffic regulators (R219, R260 to R268, R277, R426). Payloads are held in plaintext: the
sealed form on the wire is the tag operand's concern (assumption log 10). -/

namespace Sys2Proof.Machine

/-! ### Regulators (R219) -/

def getBucket (s : State) (p cls : Nat) : Bucket :=
  (s.mem.buckets.getD p (Vector.replicate 4 (Bucket.default 3))).getD cls (Bucket.default 3)

def setBucket (s : State) (p cls : Nat) (b : Bucket) : State :=
  modMem s fun m => { m with
    buckets := m.buckets.setIfInBounds p
      ((m.buckets.getD p (Vector.replicate 4 (Bucket.default 3))).setIfInBounds cls b) }

/-- Partition of a die. -/
def dieOwner (s : State) (d : Nat) : Nat := diePart s.hub.layout d

/-- R219: the share of a die in what its partition is given: equal parts, what is left over going to its first dies (assumption log
138). -/
def dieShare (s : State) (d n : Nat) : Nat :=
  let k := 4 / partCount s.hub.layout
  n / k + (decide (d % k < n % k)).toNat

/-- Change the tokens of a slice. -/
def setSlice (s : State) (d cls : Nat) (t : Int) : State :=
  let b := getBucket s (dieOwner s d) cls
  setBucket s (dieOwner s d) cls { b with tokens := b.tokens.setIfInBounds d t }

/-- The tokens of a slice. -/
def sliceOf (s : State) (d cls : Nat) : Int := (getBucket s (dieOwner s d) cls).tokens.getD d 0

/-- R219: a request of `b` blocks takes its tokens from the slice of die `d`; none while the slice, and the die's pool where the
class may borrow, hold none. -/
def takeTokens (s : State) (d cls b : Nat) : Option State :=
  let k := getBucket s (dieOwner s d) cls
  if 1 ≤ sliceOf s d cls then some (setSlice s d cls (sliceOf s d cls - b))
  else if k.borrow && decide (1 ≤ s.mem.pool.getD d 0) then
    some (modMem s fun m => { m with pool := m.pool.setIfInBounds d (m.pool.getD d 0 - b) })
  else none

/-- R219: the tokens of several requests, one after the other; none when one of them finds none. -/
def takeAll (d cls : Nat) : List Nat → State → Option State
  | [], s => some s
  | b :: t, s => (takeTokens s d cls b).bind (takeAll d cls t)

/-- R219: `n` blocks as requests of at most 8. -/
def requestSizes (n : Nat) : List Nat := List.replicate (n / 8) 8 ++ (if n % 8 = 0 then [] else [n % 8])

/-- R219: a request waits for tokens in this Beat. -/
def holdTokens (s : State) (d cls : Nat) : State :=
  setBucket s (dieOwner s d) cls { getBucket s (dieOwner s d) cls with held := true }

/-- R219: one refill of the slices of a die, with the overflow into its pool. -/
def refill (s : State) (d : Nat) : State :=
  (List.range 4).foldl (fun s cls =>
    let k := getBucket s (dieOwner s d) cls
    let top : Int := dieShare s d k.depth
    let t := sliceOf s d cls + dieShare s d k.rate
    let s := setSlice s d cls (min t top)
    modMem s fun m => { m with pool := m.pool.setIfInBounds d (min (dieShare s d 49152) (m.pool.getD d 0 + (t - top).toNat)) }) s

/-- R230: a Beat in which some slice of a bucket held a request. -/
def countThrottle (s : State) (p : Nat) : State :=
  (List.range 4).foldl (fun s cls =>
    let k := getBucket s p cls
    if k.held then setBucket s p cls { k with throttle := k.throttle + 1, held := false } else s) s

/-! ### Groups and ports (R266) -/

/-- A port is in service. -/
def portUp (b : PortBlock) : Bool := b.st == .upX4 || b.st == .upX2

/-- The fitted ports of a group. -/
def groupPorts (s : State) (g : Nat) : List Nat := ((List.range 4).map (4 * g + ·)).filter fun p => decide (p < portCount s)

/-- R266, R278: ports of a group that a packet may leave by; `secure`: only ports in per-link mode. -/
def groupUp (s : State) (g : Nat) (secure : Bool) : List Nat :=
  (groupPorts s g).filter fun p => portUp (getPort s p) && (!secure || (getPort s p).perLink)

/-- R266: the weighted port list of a group. -/
def weighted (s : State) (ports : List Nat) : List Nat :=
  ports.flatMap fun p => if (getPort s p).st == .upX4 then [p, p] else [p]

/-- R266: the port a packet takes in a usable group. -/
def pickPort (s : State) (g : Nat) (secure : Bool) (k : Packet) : Option Nat :=
  let w := weighted s (groupUp s g secure)
  w[(k.src.toNat ^^^ k.dst.toNat ^^^ k.reqId.toNat) % w.length]?

/-- R266: the port of a COLL_DATA packet: the one on the engine's die while up, else the lowest up port. -/
def collPort (s : State) (g d : Nat) (secure : Bool) : Option Nat :=
  let w := groupUp s g secure
  if w.contains (4 * g + d) then some (4 * g + d) else w.head?

/-- R267: the route entry of an address. -/
def routeOf (s : State) (a : BitVec 17) : BitVec 16 := mapGet s.fab.routes a.toNat 0x00FF

/-- What routing decides. -/
inductive Hop where
  | out (port : Nat) (k : Packet)
  | self
  | refused
  | noRoute
  deriving DecidableEq, Repr

/-- R268: leaving through a group: a dateline group moves the packet to class B. -/
def leaveBy (s : State) (g : Nat) (k : Packet) : Packet :=
  { k with dclass := k.dclass || s.fab.dateline.getLsbD g }

/-- R259: the types that expect a response: WRITE, READ_REQ, SIGNAL. -/
def isRequest (ty : BitVec 4) : Bool := ty == 1 || ty == 2 || ty == 5

/-- R266, R268: where a packet goes; GROUP 0xF refuses a request at its sender, and is not usable for any other packet. `pick`: the choice of a port in a group. -/
def route (s : State) (secure : Bool) (pick : Nat → Option Nat) (k : Packet) : Hop :=
  let e := routeOf s k.dst
  let g := (e.toNat) % 16
  let a := (e.toNat) / 16 % 16
  if g = 0xE then .self
  else if g = 0xF ∧ k.src = s.fab.addr ∧ isRequest k.ptype then .refused
  else match (if (groupUp s g secure).isEmpty then none else pick g) with
    | some p => .out p (leaveBy s g k)
    | none =>
      if a ≤ 8 ∧ !k.detour then
        match (if (groupUp s a secure).isEmpty then none else pick a) with
        | some p => .out p { leaveBy s a k with detour := true, dclass := true }
        | none => .noRoute
      else .noRoute

/-- Whether packets of a context may leave only by ports in per-link mode (R278). -/
def needsLink (s : State) (c : Nat) : Bool :=
  let x := getCtx s c
  x.st != .closed && isConf s x.part && (x.sec.e2e.getD x.sec.e2eCur.toNat none).isNone

/-- R259: the virtual channel of a packet type in a class: requests 0 and 1, responses 2 and 3, collective data 4, control 5. -/
def vcOf (ty : BitVec 4) (classB : Bool) : BitVec 4 :=
  match ty.toNat with
  | 1 | 2 | 5 => if classB then 1 else 0
  | 3 | 4 => if classB then 3 else 2
  | 6 => 4
  | _ => 5

/-- R260: the header of a packet, 32 bytes. -/
def headerBytes (k : Packet) : Bytes :=
  leBytes 32 ([(k.ptype.toNat, 0), (k.vc.toNat, 4), (k.dst.toNat, 8), (k.src.toNat, 25), (k.dctx.toNat, 42), (k.dcgen.toNat, 48),
    (k.sctx.toNat, 64), (k.scgen.toNat, 70), (k.pgen.toNat, 86), (k.hopsLeft.toNat, 94), (k.detour.toNat, 101), (k.e2e.toNat, 102),
    (k.dclass.toNat, 103), (k.nblk.toNat, 104), (k.cls.toNat, 108), (k.flood.toNat, 110), (k.reqId.toNat, 112), (k.addr.toNat, 128),
    (k.psig.toNat, 176), (k.core.toNat, 183), (k.e2eCtr.toNat, 192)].foldl (fun a f => a + f.1 * 2 ^ f.2) 0)

/-- R261: the payload of a packet: its blocks, then the list of their CRCs. -/
def payloadBytes (k : Packet) : Bytes :=
  if k.blocks.isEmpty then [] else k.blocks.flatMap (·.data) ++ fit 32 (k.blocks.flatMap fun b => leBytes 4 b.crc.toNat)

/-- R261: bytes of a packet on a link. -/
def packetBytes (k : Packet) : Nat := 32 + (payloadBytes k).length + (if k.e2e then 32 else 0)

/-- R277: the types whose payloads are sealed end to end: WRITE, READ_RESP, SIGNAL, COLL_DATA. -/
def sealedType (ty : BitVec 4) : Bool := ty == 1 || ty == 3 || ty == 5 || ty == 6

/-- R277: the nonce of a sealed packet: SRC in 17 bits, 15 zero bits, E2E_CTR. -/
def e2eNonce (k : Packet) : Bytes := leBytes 4 k.src.toNat ++ leBytes 8 k.e2eCtr.toNat

/-- R277: the tag of a sealed packet; the authenticated data is the header with HOPS_LEFT, DETOUR and DCLASS set to 0. -/
def e2eTag (key : Bytes) (k : Packet) : Bytes :=
  Config.gcmTag key (e2eNonce k) (headerBytes { k with hopsLeft := 0, detour := false, dclass := false, vc := vcOf k.ptype false })
    (payloadBytes k)

/-- NBLK as a packet leaves: of a READ_REQ the blocks asked for, else the blocks carried (R260). -/
def fillNblk (k : Packet) : Packet :=
  { k with nblk := if k.ptype = 2 then k.nblk else BitVec.ofNat 4 k.blocks.length }

/-- R277: seal a packet of a confidential context that has a key; none when its counter is used up. -/
def sealPacket (s : State) (c : Nat) (k : Packet) : Option (State × Packet) :=
  let x := getCtx s c
  match if isConf s x.part && sealedType k.ptype then x.sec.e2e.getD x.sec.e2eCur.toNat none else none with
  | none => some (s, k)
  | some key =>
    if x.sec.sendCtr ≥ 2 ^ 48 - 1 then none
    else
      let k := fillNblk { k with e2e := true, e2eCtr := BitVec.ofNat 64 (x.sec.sendCtr + x.sec.e2eCur.toNat * 2 ^ 63) }
      some (modSec s c fun z => { z with sendCtr := z.sendCtr + 1 }, { k with tag := e2eTag key.key k })

/-! ### Frames (R253 to R255) -/

/-- R253: bytes of packet data in a frame. -/
def frameBytes : Nat := 648

/-- R253: the lanes of a port that are active, in order. -/
def activeLanes (b : PortBlock) : List Nat := (List.range 4).filter fun l => b.lanes.getLsbD l

/-- R254, R275: frame `i` of those a packet begins on a port: the frames are dealt to the active lanes in turn, and the first of
them returns the credits that are owed. -/
def frameOf (b : PortBlock) (i : Nat) : Frame :=
  let n := b.fseq + BitVec.ofNat 64 i
  let l := activeLanes b
  { lane := l.getD (n.toNat % l.length) 0, fseq := n, ack := (b.rxNext - 1).setWidth 15, slot := b.keyslot
    credit := b.owed.toList.map fun u => if i = 0 then BitVec.ofNat 8 (min 255 u) else 0
    nonce := (b.txKeys.getD b.keyslot.toNat none).map fun key => leBytes 4 (Config.linkSalt key).toNat ++ leBytes 8 n.toNat }

/-- R253: packets are packed back to back: the frames that `n` more bytes begin, after `used` bytes of the last one. -/
def framesBegun (used n : Nat) : Nat :=
  if used = 0 then (n + frameBytes - 1) / frameBytes else (used + n + frameBytes - 1) / frameBytes - 1

/-- R254: 256-byte units of buffer that a packet takes. -/
def creditUnits (k : Packet) : Nat := (packetBytes k + 255) / 256

/-- R254, R255: the port after a packet has been put on it: frames and credits are counted, and the packet stays in the retry
buffer, which holds the last 512 frames. -/
def portSends (b : PortBlock) (k : Packet) : PortBlock :=
  let n := framesBegun b.fill (packetBytes k)
  let v := k.vc.toNat
  let next := b.fseq + BitVec.ofNat 64 n
  { b with
    frames := b.frames + BitVec.ofNat 64 n, fseq := next, fill := (b.fill + packetBytes k) % frameBytes
    owed := if n = 0 then b.owed else b.owed.map fun u => u - min 255 u
    credits := b.credits.setIfInBounds v (b.credits.getD v 0 - creditUnits k)
    buf := (next - 1, k) :: b.buf.filter fun q => decide ((next - q.1).toNat ≤ 512) }

/-- R254: a packet has left the input buffer of a port: its units are owed to the partner. -/
def oweCredits (s : State) (p : Nat) (k : Packet) : State :=
  modPort s p fun b => { b with owed := b.owed.setIfInBounds k.vc.toNat (b.owed.getD k.vc.toNat 0 + creditUnits k) }

/-- R255: a packet leaves by a port and stays in its retry buffer until it is acknowledged; a muted transmitter sends nothing
(R405). Port 36 is the module's own loop for a request to itself. -/
def sendOn (s : State) (p : Nat) (k : Packet) : State :=
  let k := { fillNblk k with vc := vcOf k.ptype k.dclass }
  if p < 36 then
    let b := getPort s p
    let s := setPort s p (portSends b k)
    if b.muted then s
    else emit (emit s (.frames p ((List.range (framesBegun b.fill (packetBytes k))).map (frameOf b)))) (.packet p k)
  else emit s (.packet p k)

/-- R380, R278: the packets that a port's retry buffer holds leave by the other UP ports of the group, or are discarded. -/
def resendBuf (s : State) (p : Nat) : State :=
  let held := (getPort s p).buf
  let s := modPort s p fun b => { b with buf := [] }
  held.reverse.foldl (fun s q =>
    let own := q.2.src == s.fab.addr && needsLink s q.2.sctx.toNat
    let w := weighted s ((groupUp s (p / 4) own).filter (· != p))
    match w[(q.2.src.toNat ^^^ q.2.dst.toNat ^^^ q.2.reqId.toNat) % w.length]? with
    | some o => sendOn s o q.2
    | none => s) s

/-- Send a packet of a context by its route; `true` when nothing could be sent. -/
def sendRouted (s : State) (c : Nat) (k : Packet) : State × Bool :=
  match sealPacket s c k with
  | none => (s, true)
  | some (s, k) =>
    match route s (needsLink s c) (fun g => pickPort s g (needsLink s c) k) k with
    | .out p k => (sendOn s p k, false)
    | .self => (sendOn s 36 k, false)
    | .refused => (s, true)
    | .noRoute => (modFab s fun f => { f with dropNoroute := f.dropNoroute + 1 }, true)

/-- A header-only packet of this module. -/
def barePacket (s : State) (ty : BitVec 4) (dst : BitVec 17) : Packet :=
  { ptype := ty, dst := dst, src := s.fab.addr, dctx := 0, dcgen := 0, sctx := 0, scgen := 0, pgen := 0, hopsLeft := 64,
    detour := false, e2e := false, dclass := false, cls := 0, flood := false, reqId := 0, addr := 0, psig := 0, core := 0,
    e2eCtr := 0, nblk := 0, blocks := [], vc := 0, ctrl := none, tag := [] }

/-- R263: an identifier is free: no request that bears it is outstanding or was sent within the last 200 us. -/
def idFree (s : State) (id : BitVec 16) : Bool :=
  !(s.fab.reqs.any fun r => r.reqId == id) && !(s.fab.usedIds.any fun q => q.1 == id && decide (s.ticks < q.2 + 200 * ticksPerUs))

/-- The first free identifier of `n`, from `id` on; the last of them when none is free (assumption log 146). -/
def pickId (s : State) : Nat → BitVec 16 → BitVec 16
  | 0, id => id
  | n + 1, id => if idFree s id then id else pickId s n (id + 1)

/-- R263: send a request of a context through a window entry and hold it outstanding; `true` when it was refused at the
sender with STATUS 0x04. -/
def sendRequest (s : State) (c entry : Nat) (owner : ReqOwner) (k : Packet) : State × Bool :=
  let x := getCtx s c
  let id := pickId s 65535 s.fab.nextReq
  let k := { k with
    src := s.fab.addr, sctx := BitVec.ofNat 6 c, scgen := x.cgen, dcgen := mapGet s.mem.wgen entry 0, reqId := id }
  let r := sendRouted s c k
  if r.2 then r
  else
    (modFab r.1 fun f => { f with
      nextReq := id + 1,
      usedIds := (id, s.ticks) :: f.usedIds.filter fun q => decide (s.ticks < q.2 + 200 * ticksPerUs)
      reqs := { reqId := id, ctx := c, gen := x.cgen, owner := owner, sent := s.time.now } :: f.reqs }, false)

/-- R263, R278: answer a request with a COMPL of a status, by the ports its context may use. -/
def sendCompl (s : State) (req : Packet) (status : Nat) : State :=
  let k := { barePacket s 4 req.src with
    dctx := req.sctx, dcgen := req.scgen, sctx := req.dctx, scgen := (getCtx s req.dctx.toNat).cgen, pgen := req.pgen,
    cls := req.cls, reqId := req.reqId, addr := BitVec.ofNat 48 status }
  let link := needsLink s req.dctx.toNat
  match route s link (fun g => pickPort s g link k) k with
  | .out p k => sendOn s p k
  | .self => sendOn s 36 k
  | .refused => s
  | .noRoute => modFab s fun f => { f with dropNoroute := f.dropNoroute + 1 }

/-! ### Receiving (R262, R277) -/

/-- R277, R426: a sealed packet whose tag holds is accepted by its counter, and the window slides; none when the tag fails, or the
counter is replayed or too old. -/
def acceptCtr (s : State) (k : Packet) (tagOk : Bool) : Option State :=
  if !k.e2e then some s
  else if !tagOk then none
  else
    let c := k.dctx.toNat
    let x := getCtx s c
    let slot := k.e2eCtr.getLsbD 63
    let ctr := k.e2eCtr.toNat % 2 ^ 48
    match x.sec.e2e.getD slot.toNat none with
    | none => none
    | some key =>
      if !key.members.contains k.src then none
      else
        match x.sec.windows.find? (fun w => w.member == k.src && w.slot == slot) with
        | some w =>
          if w.seen.contains ctr ∨ ctr + 1024 < w.high then none
          else
            let w' := { w with high := max w.high ctr, seen := (ctr :: w.seen).filter fun v => decide (max w.high ctr ≤ v + 1024) }
            some (modSec s c fun z => { z with windows := w' :: z.windows.erase w })
        | none => some (modSec s c fun z => { z with
            windows := { member := k.src, slot := slot, high := ctr, seen := [ctr] } :: z.windows })

/-- The checks that every request meets first (R262): the tag, the fence, the generation, the placement. -/
def takeIn (s : State) (k : Packet) (tagOk : Bool) : State × Bool :=
  let c := k.dctx.toNat
  let x := getCtx s c
  match acceptCtr s k tagOk with
  | none => (sendCompl (modFab s fun f => { f with dropAuth := f.dropAuth + 1 }) k 0x06, false)
  | some s =>
    if x.st == .fencing || x.st == .fenced then
      (sendCompl (modFab s fun f => { f with dropStale := f.dropStale + 1 }) k 0x09, false)
    else if x.st != .opened || k.dcgen != x.cgen then
      (sendCompl (modFab s fun f => { f with dropStale := f.dropStale + 1 }) k 0x03, false)
    else if !x.led.accept.getLsbD k.pgen.toNat then
      (sendCompl (modLed s c fun l => { l with pgenDrop := l.pgenDrop + 1 }) k 0x08, false)
    else (s, true)

end Sys2Proof.Machine
end

