-- ==== Sys2Proof/Machine/LedgerOps.lean ====
section
/-! DEFINITION. What the step ledger's commands and events share: regions, digests, the ready bit, the results of the
Downbeat, commit and abort (R285 to R315), and the version slots (R243 to R248). -/

namespace Sys2Proof.Machine

/-! ### Regions (R285, R286) -/

/-- Base of region `i` of the own shard or of the mirror. -/
def regionVa (s : State) (c : Nat) (mirror : Bool) (i : Nat) : Nat := ctxSetting s c (0x704 + 2 * mirror.toNat + i % 2)

/-- Bytes of a shard region: SHARD_BYTES + ADOPT_BYTES. -/
def regionSize (s : State) (c : Nat) : Nat := ctxSetting s c 0x700 + ctxSetting s c 0x701

/-- R289: bytes in use of a region of the own shard or of the mirror, to the end of its last segment. -/
def regionUsed (s : State) (c : Nat) (mirror : Bool) : Nat :=
  let l := (getCtx s c).led
  ctxSetting s c 0x700 + (if mirror then l.adoptedMirror else l.adopted).toNat

/-- One chunk of R289. -/
def chunkBytes : Nat := 67108864

/-- The bytes in use of a region, when all can be read. -/
def regionData (s : State) (c : Nat) (mirror : Bool) (i : Nat) : Option Bytes :=
  (readBytesVa s c (regionVa s c mirror i) (regionUsed s c mirror)).map (·.2)

/-- R289: the chunk digests of a byte string. -/
def chunkDigests (b : Bytes) : List Bytes := (chunksOf chunkBytes (b.length / chunkBytes + 1) b).map sha256

/-- R289: the shard digest. -/
def shardDigest (b : Bytes) : Bytes := sha256 (chunkDigests b).flatten

/-- Chunk digests as a map by chunk number. -/
def digestMap (b : Bytes) : AMap Bytes := (List.range (chunkDigests b).length).zip (chunkDigests b)

/-- Chunks of a shard region. -/
def chunkCount (s : State) (c : Nat) (mirror : Bool) : Nat := (regionUsed s c mirror + chunkBytes - 1) / chunkBytes

/-- R286: the first byte of chunk `k` of the live region. -/
def chunkVa (s : State) (c : Nat) (mirror : Bool) (k : Nat) : Nat := regionVa s c mirror (liveIndex s c) + k * chunkBytes

/-- Set WR of the entries that map a range of a context (R216, R286). -/
def setWr (s : State) (c va len : Nat) (wr : Bool) : State :=
  let x := getCtx s c
  (List.range (len / 2 ^ 21)).foldl (fun s k =>
    let v := field va 21 21 + k
    if v < x.pmLen.toNat then
      let i := x.pmBase.toNat + v
      match mapGet? s.mem.pmap i with
      | some e => modMem s fun m => { m with
          pmap := mapSet m.pmap i (if wr then e ||| 0x1000 else e &&& ~~~(0x1000 : BitVec 64)) }
      | none => s
    else s) s

/-- R241, R242: the frozen layers: address and bytes. -/
def frozenLayers (x : Context) : List (Nat × Nat) :=
  x.layers.filterMap fun r => if (r.extractLsb' 16 1) = 1 then some ((r.extractLsb' 64 64).toNat, (r.extractLsb' 128 64).toNat) else none

/-- R242, R286: live regions and frozen copies are mapped with WR = 0, aside regions with WR = 1. -/
def applyRegions (s : State) (c : Nat) : State :=
  let live := liveIndex s c
  let n := regionSize s c
  let one := fun (s : State) (mirror : Bool) (i : Nat) (wr : Bool) =>
    if regionVa s c mirror i = 0 ∧ n = 0 then s else setWr s c (regionVa s c mirror i) n wr
  let s := one (one s false live false) false (live + 1) true
  let s := one (one s true live false) true (live + 1) true
  (frozenLayers (getCtx s c)).foldl (fun s r => setWr s c r.1 ((r.2 + r.1 % 2 ^ 21 + 2 ^ 21 - 1) / 2 ^ 21 * 2 ^ 21) false) s

/-! ### The ready bit (R292 to R294, R299) -/

/-- R292: the sender's FILLING in a digest record. -/
def recFilling (r : Bytes) : Bool := (r.getD 0x0D 0).getLsbD 1

/-- R293: the comparison of the partner's record with this module's digests, once both are there. -/
def mirrorBad (l : Ledger) : Bool :=
  match l.partnerRec with
  | some r => l.digestDone && (slice r 0x10 32 != l.mirror || (!recFilling r && slice r 0x30 32 != l.own))
  | none => false

/-- R319: a Downbeat Peal holds the ready bit back while it is written. -/
def pealHolds (x : Context) : Bool := x.peal.st == .writing && x.peal.kind == 1

/-- R294: the first unmet condition: its reason code and whether it is a veto; none when the bit may be set. -/
def firstUnmet (s : State) (c : Nat) : Option (Nat × Bool) :=
  let x := getCtx s c
  let l := x.led
  let held := (partCores s x.part).any fun n => decide (0 < slotsHeld s n)
  let conds : List (Bool × Nat × Bool) :=
    [ (recordsDone s c l.step, 0x01, false),
      (l.ownDone && (l.mirrorDone || !mirrorNeeded l) && l.digestDone, 0x02, false),
      (l.unmirrored || l.partnerRec.isSome, 0x03, false),
      (!mirrorBad l, 0x04, true),
      (!held, 0x05, false),
      (!l.bad, 0x06, true),
      (!(anyHalted s c || l.digestBad), 0x07, true),
      (s.time.st == .locked, 0x08, false),
      (!l.collFailed, 0x09, true),
      (l.st != .inDoubt, 0x0B, false),
      (!l.abandoned, 0x0D, true),
      (!pealHolds x, 0x0E, false) ]
  (conds.find? fun p => !p.1).map (·.2)

/-- R294: the vetoes that have failed, first in table order. -/
def firstVeto (s : State) (c : Nat) : Option Nat :=
  let l := (getCtx s c).led
  ([(mirrorBad l, 0x04), (l.bad, 0x06), (anyHalted s c || l.digestBad, 0x07), (l.collFailed, 0x09), (l.abandoned, 0x0D)].find?
    (·.1)).map (·.2)

/-- The upper of the middle values of a list. -/
def medianNat (l : List Nat) : Nat := (orderByKey (fun a => (a, 0)) l).getD (l.length / 2) 0

/-- R402: a step whose T_READY - T_START exceeds 1.2 times the median of the module's last 64 steps. -/
def slowStep (s : State) (c : Nat) (step : BitVec 48) : State :=
  let l := (getCtx s c).led
  let done := l.times.filter fun t => t.tReady != 0 && t.tStart != 0
  let span := fun (t : TimingRec) => ticksSince t.tReady t.tStart
  match done.find? (fun t => t.step == step) with
  | some t => if 6 * medianNat (done.map span) < 5 * span t then evidence s 2 2 else s
  | none => s

/-- The Downbeat program of the armed step (R295). -/
def isDownbeat (c : Nat) (l : Ledger) (p : Program) : Bool := p.ctx == c && p.base.isSome && p.va == l.progVa

/-- R271: the operation a program stands at. -/
def progOp (p : Program) : Option Nat := (p.instrs[p.idx]?).map fun d => (d.extractLsb' 0 8).toNat

/-- R299: the place of the Downbeat program that stands at its AND, which takes the ready bit, on its engine. -/
def votePlace (s : State) (c : Nat) : Option Nat :=
  let l := (getCtx s c).led
  if l.st = .armed ∧ l.launched then (getEngine s l.engine).running.findIdx? fun p => isDownbeat c l p && progOp p == some 6
  else none

/-- R294, R313: REASON shows a code, which the timing record of the step keeps. -/
def showReason (s : State) (c : Nat) (k : Nat) : State :=
  let s := modLed s c fun l => { l with reason := BitVec.ofNat 8 k }
  if k = 0 then s else modTiming s c (getCtx s c).led.step fun t => { t with reason := BitVec.ofNat 8 k }

/-- R294, R299: the bit is given to the AND of the Downbeat program, once it runs: sent as 1, or as a veto with its reason. -/
def castBit (s : State) (c : Nat) (ready : Bool) (reason : Nat) : State :=
  let l := (getCtx s c).led
  if (votePlace s c).isNone then s
  else
    let s := showReason (modLed s c fun l => { l with ready := ready, veto := !ready, st := .voted }) c (if ready then 0 else reason)
    let s := modTiming s c l.step fun t => { t with tReady := s.time.now }
    if ready then slowStep s c l.step else if reason = 0x04 then evidence s 1 25 else s

/-! ### Abort (R248, R301, R306) -/

/-- R485: the body of LEDGER_REPLAY_LIMIT. -/
def replayLimitBody (l : Ledger) : Bytes := leBytes 8 l.step.toNat ++ [BitVec.ofNat 8 l.reasons.length] ++ fit 15 l.reasons

/-- The marks of one attempt of a step, cleared. -/
def clearAttempt (l : Ledger) : Ledger :=
  { l with ownStarted := false, mirrorStarted := false, ownDone := false, mirrorDone := false, digestDone := false,
           digestBad := false, partnerRec := none, bad := false, collFailed := false, abandoned := false }

/-- R301, R316: the actions of an abort of the armed step. REASON keeps that of a veto this module has sent. -/
def abortStep (s : State) (c : Nat) (reason : Nat) : State :=
  let l := (getCtx s c).led
  let why := if l.veto ∧ reason ≠ 0x0C then l.reason else BitVec.ofNat 8 reason
  -- streams of the step
  let s := (partCores s (getCtx s c).part).foldl (fun s n =>
    stopStreams s n false fun t => t.st == .running && t.ctx == c && (match t.item with
      | some w => w.step == l.step
      | none => false)) s
  -- records of the step
  let s := l.records.foldl (fun s va =>
    match readRec s c va with
    | some r => if r.step = l.step ∧ 1 ≤ r.state ∧ r.state ≤ 3 then setRecState s c va 5 else s
    | none => s) s
  -- version s + 1 goes back to WRITING
  let i := verSlot s c (l.step + 1)
  let v := (getCtx s c).vslots.getD i (.free, 0)
  let s := if v.1 = .written ∧ v.2 = l.step + 1 then setVer s c i (.writing, v.2) else s
  let s := modLed s c fun l => { clearAttempt l with
    st := .aborted, aborts := l.aborts + 1, reason := why, abortAt := s.time.now, commitAt := none,
    reasons := l.reasons ++ [why], launched := false, redo := true }
  let s := modTiming s c l.step fun t => { t with tEnd := s.time.now, reason := why, attempts := BitVec.ofNat 8 (l.reasons.length + 1) }
  let s := lifeAdd s 0x24 1
  let l := (getCtx s c).led
  if l.reasons.length = ctxSetting s c 0x70C then postNotice s 0x0008 (some c) (replayLimitBody l) else s

/-! ### Commit (R300) -/

/-- R244: versions in the slots of the rule with a lag; of two that fall on one slot the newer stays. -/
def placeVersions (lag : Nat) (v : Vector (VerState × BitVec 48) 3) : Vector (VerState × BitVec 48) 3 :=
  v.toList.foldl (fun w q =>
    let i := q.2.toNat % (2 + lag)
    let o := w.getD i (.free, 0)
    if q.1 = .free ∨ (o.1 ≠ .free ∧ q.2.toNat < o.2.toNat) then w else w.setIfInBounds i q) (Vector.replicate 3 (.free, 0))

/-- R232, R244: WVER_LAG may have changed: the versions held go to the slots of the new rule (assumption log 145). -/
def settleVersions (s : State) (c old : Nat) : State :=
  if ctxSetting s c 0x604 = old then s
  else modCtx s c fun x => { x with vslots := placeVersions (ctxSetting s c 0x604) x.vslots }

/-- R315: a placement generation is taken from now on, or no longer. -/
def setPlacement (now : BitVec 64) (l : Ledger) (gen : BitVec 8) (accept : Bool) : Ledger :=
  let bit : BitVec 256 := BitVec.ofNat 256 (2 ^ gen.toNat)
  if accept then { l with accept := l.accept ||| bit }
  else if l.accept.getLsbD gen.toNat then
    { l with accept := l.accept &&& ~~~bit, cleared := mapSet l.cleared gen.toNat now }
  else l

/-- R232, R300: what is held pending takes effect. -/
def applyPending (s : State) (c : Nat) : State :=
  let l := (getCtx s c).led
  let lag := ctxSetting s c 0x604
  let s := modCtx s c fun x => { x with
    set := l.pendSet.foldl (fun m p => mapSet m p.1 p.2) x.set, layers := l.pendLayers.getD x.layers }
  let s := settleVersions s c lag
  modLed s c fun l => { l.pendPgen.foldl (fun l p => setPlacement s.time.now l p.1 p.2) l with
    pendPgen := [], pendSet := [], pendLayers := none, quota := l.pendQuota.getD l.quota, pendQuota := none,
    unmirrored := l.unmirrored || (l.pendPair.isSome && l.pendPair != l.pair),
    pair := if l.pendPair.isSome then l.pendPair else l.pair, pendPair := none }

/-- R312: what a transfer with `n` chunks copied has brought of its segment. -/
def segmentBytes (t : Transfer) (n : Nat) : Nat := min (n * chunkBytes) t.bytes

/-- R310, R312: what a commit does to one transfer: a chunk copied in the step is part of the receiver's shard from now on. -/
def keepChunks (l : Ledger) (t : Transfer) : Ledger :=
  if t.receiver && !t.fill && t.kept != t.done then
    let n := BitVec.ofNat 64 (segmentBytes t t.done - segmentBytes t t.kept)
    if t.mirror then { l with adoptedMirror := l.adoptedMirror + n } else { l with adopted := l.adopted + n }
  else if !t.receiver && t.mirror && l.absorbed then
    { l with moved := l.moved ++ ((List.range t.done).map (t.first + ·)).filter fun k => !l.moved.contains k }
  else l

/-- R310 to R312: what a commit does to the transfers: those whose chunks have all been copied end, a filled mirror is complete,
and an absorbed shard that has moved whole is dropped; the mirror regions are free then. -/
def endTransfers (shard : Nat) (l : Ledger) : Ledger :=
  let l := l.transfers.foldl keepChunks l
  let ended := fun (t : Transfer) => decide (t.count ≤ t.done)
  let gone := l.absorbed && decide ((shard + l.adoptedMirror.toNat + chunkBytes - 1) / chunkBytes ≤ l.moved.length)
  { l with
    transfers := (l.transfers.filter fun t => !ended t).map fun t => { t with kept := t.done }
    filling := l.filling && !(l.transfers.any fun t => t.fill && t.receiver && t.mirror && ended t)
    absorbed := l.absorbed && !gone
    adoptedMirror := if gone then 0 else l.adoptedMirror
    moved := if gone then [] else l.moved }

/-- R289: the chunk digests of a live region after a commit: those formed for it, unless it has grown. -/
def keptDigests (s : State) (c : Nat) (mirror same : Bool) (formed : AMap Bytes) : AMap Bytes :=
  if same then formed else ((regionData s c mirror (liveIndex s c)).map digestMap).getD []

/-- R247: the version slots at the commit of step `step`: the version it wrote is committed, and every version that no later step
reads is released. -/
def commitVersions (lag : Nat) (step : BitVec 48) (v : Vector (VerState × BitVec 48) 3) : Vector (VerState × BitVec 48) 3 :=
  v.map fun q =>
    if q = (.written, step + 1) then (.committed, step + 1)
    else if q.1 = .committed ∧ q.2.toNat + lag ≤ step.toNat then (.free, 0) else q

/-- R135, R287: the audit of a committed step begins with its copy, or is skipped. -/
def beginAudit (s : State) (c : Nat) (step : BitVec 48) : State :=
  if !audited s c step then s
  else modLed s c fun l =>
    if l.auditHold || l.auditing.isSome then { l with auditSkipped := l.auditSkipped + 1 }
    else { l with auditCopy := true, auditHold := true, auditing := some step, auditDigest := l.own, auditGrads := l.gradDigests }

/-- R300, R247: what a commit of the armed step does to the ledger and the version slots. -/
def commitStep (s : State) (c : Nat) : State :=
  let l := (getCtx s c).led
  let step := l.step
  let passed := !mirrorBad l && !l.filling && l.digestDone && ((l.partnerRec.map fun r => !recFilling r).getD false)
  let s := modLed s c fun l => { endTransfers (ctxSetting s c 0x700) (clearAttempt l) with
    st := .idle, committed := step, commitAt := none, launched := false, reasons := [], reason := 0, redo := false
    unmirrored := if passed && l.pair.isSome then false else l.unmirrored || l.pair.isNone }
  let s := applyPending s c
  let s := modCtx s c fun x => { x with vslots := commitVersions (ctxSetting s c 0x604) step x.vslots }
  let s := modLed s c fun q => { q with
    kept := keptDigests s c false (l.digestDone && q.adopted == l.adopted) l.ownChunks
    keptMirror := keptDigests s c true (l.digestDone && q.adoptedMirror == l.adoptedMirror) l.mirrorChunks
    records := q.records.filter fun va => ((readRec s c va).map fun r => r.step != step).getD false }
  let s := applyRegions s c
  let s := modTiming s c step fun t => { t with tEnd := s.time.now, attempts := BitVec.ofNat 8 (l.reasons.length + 1) }
  beginAudit s c step

/-! ### The result of a Downbeat (R298, R299) -/

/-- R298: what the module does on the value its Downbeat program received; none is a TIMEOUT. -/
def downbeatResult (s : State) (c : Nat) (v : Option (Bool × BitVec 40)) : State :=
  let l := (getCtx s c).led
  if l.st = .armed ∨ l.st = .voted then
    match v with
    | some (true, t) => modLed s c fun l => { l with st := .commitPending, tCommit := t, commitAt := some (armTime s t) }
    | some (false, _) => abortStep s c 0x0A
    | none => modLed s c fun l => { l with st := .inDoubt }
  else s

/-! ### Programs of a context (R274, R304, R381) -/

/-- Stop the collective programs that `dead` names: no further instruction, no signal, credits withdrawn. -/
def dropPrograms (s : State) (dead : Program → Bool) : State :=
  modFab s fun f => { f with engines := f.engines.map fun e =>
    { e with running := e.running.filter fun p => !dead p, queued := e.queued.filter fun p => !dead p } }

end Sys2Proof.Machine
end

