-- ==== Sys2Proof/Machine/CollOps.lean ====
section
/-! DEFINITION. The programs of the collective engines: their reading and validation (R269 to R271), the channels, the
reduction (R272), failure (R274) and what each instruction does when it runs. A chunk is the 2 KiB a credit stands for;
chunk offsets number the chunks of a channel since launch (assumption log 17). -/

namespace Sys2Proof.Machine

/-! ### Instructions (R271) -/

structure CInstr where
  op    : Nat
  chIn  : Nat
  chOut : Nat
  wfmt  : Nat
  lfmt  : Nat
  root  : Bool
  laddr : Nat
  laddr2 : Nat
  count : Nat
  chSet : List Nat
  time  : BitVec 40
  sem   : Nat
  core  : Nat

def cinstrOf (d : BitVec 256) : CInstr :=
  { op := dfield d 0 8, chIn := dfield d 8 5, chOut := dfield d 13 5, wfmt := dfield d 18 4, lfmt := dfield d 22 4,
    root := dbit d 26, laddr := dfield d 32 48, laddr2 := dfield d 80 48, count := dfield d 128 32,
    chSet := (List.range 32).filter fun c => dbit d (160 + c), time := d.extractLsb' 192 40, sem := dfield d 232 6,
    core := dfield d 238 7 }

def cSend : Nat := 1
def cRecv : Nat := 2
def cRecvReduce : Nat := 3
def cReduceSend : Nat := 4
def cRecvSend : Nat := 5
def cAnd : Nat := 6
def cBcast : Nat := 7
def cWaitTime : Nat := 8
def cSignal : Nat := 9
def cEnd : Nat := 10

/-- The data instructions. -/
def isData (op : Nat) : Bool := decide (1 ≤ op) && decide (op ≤ 5)
/-- The RECV-type instructions. -/
def isRecv (op : Nat) : Bool := decide (2 ≤ op) && decide (op ≤ 5)
/-- The instructions that send data. -/
def isSend (op : Nat) : Bool := op == cSend || op == cReduceSend || op == cRecvSend

/-- R271: one instruction is taken. -/
def cinstrOk (d : BitVec 256) : Bool :=
  let i := cinstrOf d
  decide (1 ≤ i.op) && decide (i.op ≤ 10) && dfield d 27 5 == 0 && dfield d 245 11 == 0 &&
  (!isData i.op || (i.count != 0 && (i.wfmt == 0 || i.wfmt == 2) && (i.lfmt == 0 || i.lfmt == 2))) &&
  (!i.root || i.op == cAnd || i.op == cBcast)

/-- R271, R273: every root BCAST follows a root AND. -/
def rootsOk : Bool → List (BitVec 256) → Bool
  | _, [] => true
  | seen, d :: t =>
    let i := cinstrOf d
    if i.op = cBcast ∧ i.root ∧ !seen then false else rootsOk (seen || (i.op == cAnd && i.root)) t

/-- R270, R271: the program a header and its instructions give, when they are taken. `downbeat`: only AND, BCAST and END
are (R297). -/
def parseProgram (c : Nat) (gen : BitVec 16) (va : BitVec 48) (launch : Armed) (downbeat : Bool) (h : Bytes)
    (ins : List (BitVec 256)) : Option Program :=
  let tmo := leNat (slice h 4 4)
  let mar := leNat (slice h 8 4)
  let chans := (chunksOf 8 32 (h.drop 0x100)).map fun b => BitVec.ofNat 64 (leNat b)
  if decide (tmo ≤ 1000000) && (slice h 12 244).all (· == 0) && chans.all (fun c => (c.extractLsb' 35 29) == 0) &&
      ins.all cinstrOk && ins.any (fun d => (cinstrOf d).op == cEnd) && rootsOk false ins &&
      (!downbeat || ins.all fun d => [cAnd, cBcast, cEnd].contains (cinstrOf d).op) then
    some { ctx := c, gen := gen, va := va, launch := launch, launched := false,
           base := if downbeat then some launch.t else none, timeout := BitVec.ofNat 32 (if tmo = 0 then 10000 else tmo),
           margin := BitVec.ofNat 32 (if mar = 0 then 80000 else mar), chans := chans, instrs := ins, idx := 0, pos := 0,
           rx := [], sent := [], got := [], ands := [], values := [], andsIn := [], valuesIn := [], crcAgain := false, rootAnd := none, rootTime := 0, credits := [],
           waitArm := none }
  else none

/-- R269: read and validate a whole program through the Page Map of a context. -/
def loadProgram (s : State) (c : Nat) (va : BitVec 64) (launch : BitVec 40) (downbeat : Bool) : Option (State × Program) :=
  if 2 ^ 48 ≤ va.toNat then none
  else match readBytesVa s c va.toNat 512 with
    | none => none
    | some (s, h) =>
      let n := leNat (slice h 0 4)
      if !within 1 4096 n then none
      else match readBytesVa s c (va.toNat + 512) (32 * n) with
        | none => none
        | some (s, b) =>
          (parseProgram c (getCtx s c).cgen (va.setWidth 48) (armTime s launch) downbeat h ((chunksOf 32 n b).map descOf)).map fun p => (s, p)

/-- R269: an engine holds all it can. -/
def engineFull (s : State) (e : Nat) : Bool :=
  decide (12 ≤ (getEngine s e).running.length + (getEngine s e).queued.length)

/-- R269: queue a program. -/
def queueProgram (s : State) (e : Nat) (p : Program) : State :=
  let p := if ctxHeld (getCtx s p.ctx) then { p with launch := { p.launch with held := true, seen := none } } else p
  setEngine s e { getEngine s e with queued := (getEngine s e).queued ++ [p] }

/-! ### Access to programs -/

/-- The program in running place `n` of an engine. -/
def runningAt (s : State) (e n : Nat) : Option Program := (getEngine s e).running[n]?

/-- Put a program back in its running place. -/
def setRunning (s : State) (e n : Nat) (p : Program) : State :=
  setEngine s e { getEngine s e with running := (getEngine s e).running.set n p }

/-- Take a program out of its running place. -/
def endProgram (s : State) (e n : Nat) : State :=
  setEngine s e { getEngine s e with running := (getEngine s e).running.eraseIdx n }

/-- The instruction a program stands at. -/
def curInstr (p : Program) : Option CInstr := (p.instrs[p.idx]?).map cinstrOf

/-- The next instruction. -/
def nextInstr (p : Program) : Program := { p with idx := p.idx + 1, pos := 0, waitArm := none, crcAgain := false }

/-- R297: the time an instruction names: a Downbeat program's offset from T_L, else the time itself. -/
def timeOf (p : Program) (i : CInstr) : BitVec 40 :=
  match p.base with
  | some t => t + i.time
  | none => i.time

/-- R51, R273: TIME has been reached or passed, while comparisons are active. -/
def reached (s : State) (t : BitVec 40) : Bool := comparing s && evalLaunch t s.time.now false == .onTime

/-! ### Failure (R274) -/

/-- R274: a program fails: it is gone with its credits, ERR_e is set, and COLL_FAIL follows at the next Beat boundary.
R294: the failure vetoes the step. -/
def failProgram (s : State) (e n : Nat) (p : Program) (reason : Nat) : State :=
  let s := endProgram s e n
  let g := getEngine s e
  let s := setEngine s e { g with err := true, fails := g.fails ++ [(reason, p.idx, p.va.toNat, p.ctx)] }
  modLed s p.ctx fun l => { l with collFailed := true }

/-- R485: the body of COLL_FAIL. -/
def collFailBody (e : Nat) (f : Nat × Nat × Nat × Nat) : Bytes :=
  [BitVec.ofNat 8 e, BitVec.ofNat 8 f.1] ++ leBytes 2 f.2.1 ++ leBytes 4 0 ++ leBytes 8 f.2.2.1

/-- R274: at a Beat boundary the Belfry reports the failures and clears ERR_e. -/
def reportFails (s : State) : State :=
  (List.range 4).foldl (fun s e =>
    let g := getEngine s e
    let s := g.fails.foldl (fun s f => postNotice s 0x0002 (some f.2.2.2) (collFailBody e f)) s
    setEngine s e { getEngine s e with err := false, fails := [] }) s

/-! ### Channels (R270) -/

def chanAddr (p : Program) (c : Nat) : BitVec 17 := (p.chans.getD c 0).extractLsb' 0 17
def chanTag (p : Program) (c : Nat) : BitVec 16 := (p.chans.getD c 0).extractLsb' 19 16

/-- R260: the ADDR of a collective packet: the channel tag, then the chunk offset. -/
def collAddr (p : Program) (c n : Nat) : BitVec 48 := BitVec.ofNat 48 ((chanTag p c).toNat + n % 2 ^ 32 * 2 ^ 16)

/-- R273: a COLL_CTRL packet leaves on a channel, by the route to the peer. -/
def sendCtrl (s : State) (p : Program) (c : Nat) (b : CollCtrl) : State :=
  (sendRouted s p.ctx { barePacket s 7 (chanAddr p c) with
    dctx := BitVec.ofNat 6 p.ctx, sctx := BitVec.ofNat 6 p.ctx, scgen := p.gen, cls := 1, addr := collAddr p c 0, ctrl := some b }).1

/-- Send one on each channel of a set. -/
def sendCtrls (s : State) (p : Program) (cs : List Nat) (b : CollCtrl) : State := cs.foldl (fun s c => sendCtrl s p c b) s

/-- Channels on which a program receives data. -/
def recvChans (p : Program) : List Nat :=
  (List.range 32).filter fun c => p.instrs.any fun d => isRecv (cinstrOf d).op && (cinstrOf d).chIn == c

/-- R270: the credits of a receiving program at its launch: 16 units on each channel it receives on. -/
def grantCredits (s : State) (p : Program) : State := sendCtrls s p (recvChans p) (.credit 16)

/-- Key of a received chunk. -/
def chunkKey (c n : Nat) : Nat := c * 2 ^ 32 + n % 2 ^ 32

/-- R269, R278: send a chunk of wire bytes on a channel: one COLL_DATA packet by the port of the engine's die. -/
def sendChunk (s : State) (e : Nat) (p : Program) (c : Nat) (wire : Bytes) : State × Program :=
  let n := mapGet p.sent c 0
  let k := { barePacket s 6 (chanAddr p c) with
    dctx := BitVec.ofNat 6 p.ctx, sctx := BitVec.ofNat 6 p.ctx, scgen := p.gen, cls := 1,
    addr := collAddr p c n,
    blocks := (chunksOf 256 8 wire).map fun d => mkBlock (fit 256 d) }
  let q := { p with sent := mapSet p.sent c (n + 1), credits := mapSet p.credits c (mapGet p.credits c 0 - 1) }
  match sealPacket s p.ctx k with
  | none => (s, q)
  | some (s, k) =>
    match route s (needsLink s p.ctx) (fun g => collPort s g e (needsLink s p.ctx)) k with
    | .out o k => (sendOn s o k, q)
    | .self => (sendOn s 36 k, q)
    | .refused => (s, q)
    | .noRoute => (modFab s fun f => { f with dropNoroute := f.dropNoroute + 1 }, q)

/-- A chunk is consumed: one more credit goes to its sender. -/
def consume (s : State) (p : Program) (c : Nat) : State × Program :=
  let n := mapGet p.got c 0
  (sendCtrl s p c (.credit 1), { p with got := mapSet p.got c (n + 1), rx := mapErase p.rx (chunkKey c n) })

/-! ### Elements (R272) -/

/-- Bytes of an element of FP32 or BF16. -/
def collBytes (fmt : Nat) : Nat := elemBits fmt / 8

/-- The elements of a byte string. -/
def elemsOf (fmt : Nat) (b : Bytes) : List Nat :=
  (chunksOf (collBytes fmt) (b.length / collBytes fmt) b).map leNat

/-- R272: an element widened exactly to FP32. -/
def widen (fmt : Nat) (v : Nat) : BitVec 32 :=
  if fmt = 2 then BitVec.ofNat 32 (v * 2 ^ 16) else BitVec.ofNat 32 v

/-- R272: an FP32 value by round-to-nearest-even to a format. -/
def narrow (fmt : Nat) (w : BitVec 32) : Nat :=
  if fmt = 2 then (convFloat bf16Fmt false none (f32 w)).bits else (toF32 (f32 w)).toNat

/-- An element moved from one format to another; the same format moves its bits. -/
def moveElem (src dst : Nat) (v : Nat) : Nat := if src = dst then v else narrow dst (widen src v)

/-- Elements as bytes. -/
def elemBytes (fmt : Nat) (l : List Nat) : Bytes := l.flatMap (leBytes (collBytes fmt))

/-- R272: received plus local, element by element, in FP32. -/
def reduceElems (i : CInstr) (wire loc : Bytes) : List (BitVec 32) :=
  ((elemsOf i.wfmt wire).zip (elemsOf i.lfmt loc)).map fun q => fadd (widen i.wfmt q.1) (widen i.lfmt q.2)

/-- Elements one chunk carries. -/
def perChunk (i : CInstr) : Nat := 2048 / collBytes i.wfmt

/-! ### One chunk of a data instruction -/

/-- What one chunk comes to. -/
inductive ChunkOut where
  /-- Nothing to do yet: no credit, no tokens, or nothing received. -/
  | wait
  /-- A block fails its CRC. -/
  | crc
  | moved (s : State) (p : Program)

/-- Store local elements; a partly covered block that fails its CRC stops the store (R206). -/
def storeElems (s : State) (p : Program) (i : CInstr) (a : Nat) (l : List Nat) : Option State :=
  putVa s p.ctx (a + p.pos * collBytes i.lfmt) (elemBytes i.lfmt l) false

/-- R219, R269: the engine's accesses to `n` elements at each of `places` take their tokens in the collective/mirror class from the
slice of its die; none while it holds none. -/
def engineTokens (s : State) (e : Nat) (p : Program) (i : CInstr) (n : Nat) (places : List Nat) : Option State :=
  takeAll e 1 (places.flatMap fun a =>
    requestSizes (((a + p.pos * collBytes i.lfmt) % 256 + n * collBytes i.lfmt + 255) / 256)) s

/-- The chunk moved: the position advances, and the instruction ends with its last element. -/
def advance (p : Program) (i : CInstr) (n : Nat) : Program :=
  if i.count ≤ p.pos + n then nextInstr p else { p with pos := p.pos + n, crcAgain := false }

/-- Local bytes of the chunk at LADDR. -/
def localChunk (s : State) (p : Program) (i : CInstr) (n : Nat) : Option (State × Bytes) :=
  readBytesVa s p.ctx (i.laddr + p.pos * collBytes i.lfmt) (n * collBytes i.lfmt)

/-- R271, R272: one chunk of SEND. -/
def chunkSend (s : State) (e : Nat) (p : Program) (i : CInstr) (n : Nat) : ChunkOut :=
  match localChunk s p i n with
  | none => .crc
  | some (s, b) =>
    let r := sendChunk s e p i.chOut (elemBytes i.wfmt ((elemsOf i.lfmt b).map (moveElem i.lfmt i.wfmt)))
    .moved r.1 (advance r.2 i n)

/-- What a RECV-type instruction stores, and where; what it sends on (R271, R272). -/
def chunkResult (s : State) (p : Program) (i : CInstr) (n : Nat) (wire : Bytes) :
    Option (State × Option (Nat × List Nat) × Option Bytes) :=
  let plain := (elemsOf i.wfmt wire).map (moveElem i.wfmt i.lfmt)
  if i.op = cRecv then some (s, some (i.laddr, plain), none)
  else if i.op = cRecvSend then some (s, some (i.laddr, plain), some wire)
  else (localChunk s p i n).map fun r =>
    let sums := reduceElems i wire r.2
    if i.op = cRecvReduce then (r.1, some (i.laddr2, sums.map (narrow i.lfmt)), none)
    else (r.1, none, some (elemBytes i.wfmt (sums.map (narrow i.wfmt))))

/-- R271, R272: one chunk of a RECV-type instruction, whose data is `wire`. -/
def chunkRecv (s : State) (e : Nat) (p : Program) (i : CInstr) (n : Nat) (wire : Bytes) : ChunkOut :=
  match chunkResult s p i n wire with
  | none => .crc
  | some (s, put, on) =>
    match (match put with
      | some q => storeElems s p i q.1 q.2
      | none => some s) with
    | none => .crc
    | some s =>
      let r := consume s p i.chIn
      let r := match on with
        | some w => sendChunk r.1 e r.2 i.chOut w
        | none => r
      .moved r.1 (advance r.2 i n)

/-- R271: the addresses of module memory that a data instruction reads and writes. -/
def chunkPlaces (i : CInstr) : List Nat :=
  if i.op = cRecvReduce then [i.laddr, i.laddr2] else [i.laddr]

/-- R271, R274: the next chunk of a data instruction, once its data, its credit and its tokens are there. -/
def chunkStep (s : State) (e : Nat) (p : Program) (i : CInstr) : ChunkOut :=
  let n := min (perChunk i) (i.count - p.pos)
  if isSend i.op && mapGet p.credits i.chOut 0 == 0 then .wait
  else
    let pay := fun (f : State → ChunkOut) => match engineTokens s e p i n (chunkPlaces i) with
      | none => ChunkOut.wait
      | some s => f s
    if i.op = cSend then pay fun s => chunkSend s e p i n
    else match mapGet? p.rx (chunkKey i.chIn (mapGet p.got i.chIn 0)) with
      | none => .wait
      | some bs =>
        if bs.all blockOk then pay fun s => chunkRecv s e p i n ((bs.flatMap (·.data)).take (n * collBytes i.wfmt)) else .crc

/-- R219: the next chunk has its data and its credit, and waits for tokens. -/
def lacksTokens (s : State) (e : Nat) (p : Program) (i : CInstr) : Bool :=
  let n := min (perChunk i) (i.count - p.pos)
  (!isSend i.op || mapGet p.credits i.chOut 0 != 0) &&
  (i.op == cSend || (mapGet? p.rx (chunkKey i.chIn (mapGet p.got i.chIn 0))).isSome) &&
  (engineTokens s e p i n (chunkPlaces i)).isNone

/-- Chunks of the present instruction, one after another, while data, credits and tokens allow. R274: a block that fails its CRC is
met once more; the second failure fails the program. -/
def chunkLoop : Nat → State → Nat → Nat → Nat → State
  | 0, s, _, _, _ => s
  | k + 1, s, e, n, idx =>
    match runningAt s e n with
    | none => s
    | some p =>
      match curInstr p with
      | none => s
      | some i =>
        if p.idx ≠ idx then s
        else match chunkStep s e p i with
          | .wait => if lacksTokens s e p i then holdTokens s e 1 else s
          | .crc => if p.crcAgain then failProgram s e n p 2 else chunkLoop k (setRunning s e n { p with crcAgain := true }) e n idx
          | .moved s p => chunkLoop k (setRunning s e n p) e n idx

/-- R271: a data instruction runs as far as it can; 16 chunks are outstanding at most (R270). -/
def runData (s : State) (e n op : Nat) : State :=
  match runningAt s e n with
  | none => s
  | some p =>
    match curInstr p with
    | some i => if i.op = op then chunkLoop 16 s e n p.idx else s
    | none => s

/-! ### AND, BCAST (R273, R297) -/

/-- The context's ready bit, where the Belfry has given it (R294, R299); 0 once the step has aborted. -/
def ownBit (s : State) (p : Program) : Option Bool :=
  let l := (getCtx s p.ctx).led
  if l.veto || (isDownbeat p.ctx l p && l.st == .aborted) then some false else if l.ready then some true else none

/-- R273: ANDs before the present instruction that take a bit from a channel. -/
def andsBefore (p : Program) (c : Nat) : Nat :=
  ((p.instrs.take p.idx).filter fun d => (cinstrOf d).op == cAnd && (cinstrOf d).chSet.contains c).length

/-- R273: BCASTs before the present instruction that receive on a channel. -/
def bcastsBefore (p : Program) (c : Nat) : Nat :=
  ((p.instrs.take p.idx).filter fun d => (cinstrOf d).op == cBcast && !(cinstrOf d).root && (cinstrOf d).chIn == c).length

/-- R273: the value that has come for the BCAST a program stands at: the n-th arrival on a channel is its n-th BCAST's. -/
def valueIn (p : Program) (i : CInstr) : Option (Bool × BitVec 40) := mapGet? p.values (chunkKey i.chIn (bcastsBefore p i.chIn))

/-- R273, R297: the AND as it stands: some 0 has arrived, or every input has. The n-th bit of a channel is its n-th AND's. -/
def andValue (s : State) (p : Program) (i : CInstr) : Option Bool :=
  let ins := ownBit s p :: i.chSet.map fun c => mapGet? p.ands (chunkKey c (andsBefore p c))
  if ins.contains (some false) then some false else if ins.all (·.isSome) then some true else none

/-- R273: the AND completes with a result. -/
def andDone (s : State) (e n : Nat) (p : Program) (i : CInstr) (v : Bool) : State :=
  if i.root then
    setRunning s e n (nextInstr { p with rootAnd := some v, rootTime := s.time.now.setWidth 40 + p.margin.setWidth 40 })
  else sendCtrl (setRunning s e n (nextInstr p)) p i.chOut (.andBit v)

/-- R284: FAB_COLL_RESULT of a received value. -/
def resultWord (v : Bool) (t : BitVec 40) : BitVec 64 := BitVec.ofNat 64 (t.toNat + v.toNat * 2 ^ 63)

/-- R273, R298: a BCAST ends with a value: it is recorded, forwarded, and acted on by a Downbeat program. -/
def bcastDone (s : State) (e n : Nat) (p : Program) (i : CInstr) (v : Bool) (t : BitVec 40) : State :=
  let s := setRunning s e n (nextInstr p)
  let s := setEngine s e { getEngine s e with result := resultWord v t }
  let s := sendCtrls s p i.chSet (.bcast v t)
  if isDownbeat p.ctx (getCtx s p.ctx).led p then downbeatResult s p.ctx (some (v, t)) else s

/-- R271, R274: SIGNAL of a program. -/
def signalDone (s : State) (e n : Nat) (p : Program) (i : CInstr) : State :=
  if inService s i.core && (getC s i.core).ctx == some p.ctx then
    wakeCore (modC (setRunning s e n (nextInstr p)) i.core fun c => semAdd c i.sem 1) i.core
  else failProgram s e n p 3

/-- Run `f` on the program in a running place when it stands at an instruction of the given operation. -/
def atInstr (s : State) (e n op : Nat) (f : Program → CInstr → State) : State :=
  match runningAt s e n with
  | none => s
  | some p =>
    match curInstr p with
    | some i => if i.op = op then f p i else s
    | none => s

/-! ### Arrival of packets (R270, R273, R274) -/

/-- The channels that the instructions of a program name. -/
def usedChans (p : Program) : List Nat :=
  (List.range 32).filter fun c => p.instrs.any fun d =>
    let i := cinstrOf d
    (isRecv i.op && i.chIn == c) || (isSend i.op && i.chOut == c) || (i.op == cAnd && (!i.root && i.chOut == c || i.chSet.contains c)) ||
    (i.op == cBcast && (!i.root && i.chIn == c || i.chSet.contains c))

/-- The engines' places of the programs that a channel of this source and tag belongs to: engine, place, channel. -/
def findChannel (s : State) (src : BitVec 17) (tag : BitVec 16) (queued : Bool) : Option (Nat × Nat × Nat) :=
  (List.range 4).findSome? fun e =>
    let g := getEngine s e
    let l := if queued then g.queued else g.running
    ((List.range l.length).zip l).findSome? fun q =>
      ((usedChans q.2).find? fun c => chanAddr q.2 c == src && chanTag q.2 c == tag).map fun c => (e, q.1, c)

/-- R273: what a COLL_CTRL packet tells a program. -/
def takeCtrl (p : Program) (c : Nat) (b : CollCtrl) : Program :=
  match b with
  | .andBit v =>
    let n := mapGet p.andsIn c 0
    { p with ands := mapSet p.ands (chunkKey c n) v, andsIn := mapSet p.andsIn c (n + 1) }
  | .bcast v t =>
    let n := mapGet p.valuesIn c 0
    { p with values := mapSet p.values (chunkKey c n) (v, t), valuesIn := mapSet p.valuesIn c (n + 1) }
  | .credit n => { p with credits := mapSet p.credits c (min 16 (mapGet p.credits c 0 + n.toNat)) }

/-- R299: a BCAST with RESULT = 0 that comes before the module has voted aborts the step. -/
def earlyResult (s : State) (p : Program) (b : CollCtrl) : State :=
  match b with
  | .bcast false _ => if isDownbeat p.ctx (getCtx s p.ctx).led p && (getCtx s p.ctx).led.st == .armed then abortStep s p.ctx 0x0A else s
  | _ => s

/-- R388: the ready bit of a Downbeat that stands at its AND is sent as a veto with reason 0x07. -/
def sendVeto (s : State) (c : Nat) : State :=
  match votePlace s c with
  | none => s
  | some n =>
    let e := (getCtx s c).led.engine
    let s := castBit s c false 0x07
    atInstr s e n cAnd fun p i => andDone s e n p i false

end Sys2Proof.Machine
end

