-- ==== Sys2Proof/Machine/Mailbox.lean ====
section
/-! DEFINITION. How a mailbox request is taken up, judged and answered (R338 to R347), shared by every mailbox
command. -/

namespace Sys2Proof.Machine

/-! ### Status codes (R342) -/

def stOk : BitVec 8 := 0x00
def stBusy : BitVec 8 := 0x01
def stConflict : BitVec 8 := 0x02
def stBadArg : BitVec 8 := 0x03
def stDenied : BitVec 8 := 0x04
def stNoResource : BitVec 8 := 0x05
def stUnsupported : BitVec 8 := 0x06
def stTimeout : BitVec 8 := 0x07
def stFenced : BitVec 8 := 0x08
def stStaleGen : BitVec 8 := 0x09

/-- What a command answers: the state it leaves, and the status, unit, detail and body of its response. `legal` is given
where a unit other than the device decided. `later`: the response is given by a later event. -/
structure Answer where
  st       : State
  status   : BitVec 8
  conflict : BitVec 8
  detail   : BitVec 16
  legal    : Option (BitVec 32)
  body     : Bytes
  later    : Bool

/-- Done as requested. -/
def ok (s : State) (body : Bytes) : Answer :=
  { st := s, status := stOk, conflict := 0, detail := 0, legal := none, body := body, later := false }

/-- Refused with a status and a detail; the state is the one given, normally untouched (R343). -/
def err (s : State) (status : BitVec 8) (detail : Nat) : Answer :=
  { st := s, status := status, conflict := 0, detail := BitVec.ofNat 16 detail, legal := none, body := [], later := false }

/-- R343: STATE_CONFLICT on a unit in state `code`, legal in the states of `legal`. -/
def conflict (s : State) (unit : BitVec 8) (code : Nat) (legal : BitVec 32) : Answer :=
  { st := s, status := stConflict, conflict := unit, detail := BitVec.ofNat 16 code, legal := some legal, body := [],
    later := false }

/-- Answered later. -/
def later (s : State) : Answer :=
  { st := s, status := stOk, conflict := 0, detail := 0, legal := none, body := [], later := true }

/-- R346, R353 to R359: a command code exists. -/
def knownCode (code : BitVec 16) : Bool :=
  let c := code.toNat
  let span := fun lo hi => decide (lo ≤ c) && decide (c ≤ hi)
  span 0x001 0x00A || span 0x101 0x105 || span 0x201 0x208 || span 0x301 0x30A || span 0x401 0x407 || span 0x501 0x504 ||
  span 0x510 0x513 || span 0x601 0x606 || span 0x701 0x702 || span 0x801 0x805 || span 0x901 0x909

/-- R346: whether a mailbox serves a command code. -/
def served (m : Nat) (code : BitVec 16) : Bool :=
  let c := code.toNat
  if m < 16 then decide (0x0001 ≤ c) && decide (c ≤ 0x07FF)
  else if m = 18 then c == 1 || c == 2 || (decide (0x0901 ≤ c) && decide (c ≤ 0x09FF))
  else [0x0001, 0x0002, 0x0003, 0x0601, 0x0513, 0x0501, 0x0502, 0x0503, 0x0504].contains c ||
    (decide (0x0801 ≤ c) && decide (c ≤ 0x08FF))

/-- R423: the inner commands that are rows of their own. -/
def innerRow (code : BitVec 16) : Bool := [0x0902, 0x0903, 0x0904, 0x0907, 0x0908].contains code.toNat

/-- R346, R347, R423: a request is permitted on its path: SMBus reaches the operator mailboxes only, PCIe reaches them after
OP_AUTH, and OP_AUTH itself before; a request of the path `sealed` is the inner command of a SEALED request that has been opened in the
session of its partition (assumption log 28). -/
def permitted (s : State) (r : Req) (code : BitVec 16) : Bool :=
  let op := r.mbx.val == 16 || r.mbx.val == 17
  served r.mbx.val code && (match r.path with
    | .smbus => op
    | .pcie => !op || s.mail.opAuth || code == 0x0801
    | .sealed p => r.mbx.val == 18 && innerRow code && (s.mail.sessions.getD p.val none).isSome)

/-- R349: the commands the boot ROM serves in FENCED without a verified Belfry image. -/
def romServes (r : Req) (code : BitVec 16) : Bool :=
  decide (r.mbx.val < 16) && [0x0001, 0x0002, 0x0601, 0x0602, 0x0510, 0x0511, 0x0512, 0x0513].contains code.toNat

/-- Bit of a state set. -/
def inSet (set : BitVec 32) (d : DevState) : Bool := set.getLsbD (devCode d)

/-- The response of an answer, unless it comes later. -/
def reply (r : Req) (code : BitVec 16) (legal : BitVec 32) (a : Answer) : State :=
  if a.later then a.st
  else respond a.st r code a.status a.conflict a.detail (a.legal.getD legal) a.body

/-- A request taken up: permission (R346), the device state (R343, R352), then the command. -/
def judge (code : BitVec 16) (legal : BitVec 32) (r : Req) (f : State → Answer) (s : State) : State :=
  if s.hub.bootRom && r.mbx.val != 18 && !romServes r code then reply r code legal (err s stDenied 0)
  else if !permitted s r code then reply r code legal (err s stDenied 0)
  else if !inSet legal (devNow s) then reply r code legal (conflict s 0 (devCode (devNow s)) legal)
  else reply r code legal (f s)

/-- R338: OWNER = DEVICE while the request waits (SMBus does not use MBX_OWN). -/
def handed (s : State) (r : Req) : State :=
  match r.path with
  | .pcie => setBox s r.mbx.val { getBox s r.mbx.val with owner := .device }
  | _ => s

/-- R344, R373, R394: keep a request until the Belfry serves again. -/
def deferReq (s : State) (r : Req) (i : Instr) : State :=
  modMail (handed s r) fun m => { m with deferred := m.deferred ++ [(s.ticks, i)] }

/-- The last command of the holder of a configuration session keeps it alive (R367). -/
def touchSession (r : Req) (code : BitVec 16) (s : State) : State :=
  if 0x0501 ≤ code.toNat ∧ code.toNat ≤ 0x0504 then
    modMail s fun m => { m with session := m.session.map fun q => if q.mbx = r.mbx.val then { q with last := s.ticks } else q }
  else s

/-- A mailbox request reaches the module: not served in COLD (over SMBus answered BUSY there and in BOOTING, R479), kept
while the Belfry does not serve, else judged. The security core serves its own mailbox (R336). -/
def serve (code : BitVec 16) (legal : BitVec 32) (r : Req) (i : Instr) (f : State → Answer) (s : State) : State :=
  let early := s.hub.dev == .cold || s.hub.dev == .booting
  match r.path with
  | .smbus =>
    if early then reply r code legal (err s stBusy 0)
    else if !belfryUp s then deferReq s r i
    else judge code legal r f (touchSession r code s)
  | _ =>
    if s.hub.dev == .cold then s
    else if s.hub.dev == .booting then deferReq s r i
    else if r.mbx.val = 18 then
      if s.sec.faulted then handed s r else judge code legal r f s
    else if !belfryUp s then deferReq s r i
    else judge code legal r f (touchSession r code s)

/-! ### Checks that several commands share -/

/-- The context a command names, open: STATE_CONFLICT on unit 0x05 when closed, FENCED while it is fenced or its fence
drains. -/
def withCtx (s : State) (r : Req) (f : Nat → Context → Answer) : Answer :=
  let c := r.ctx.toNat
  if 64 ≤ c then err s stBadArg 0
  else
    let x := getCtx s c
    match x.st with
    | .closed => conflict s 0x05 0 0x2
    | .opened => f c x
    | _ => err s stFenced 0

end Sys2Proof.Machine
end

