-- ==== Sys2Proof/Machine/PealOps.lean ====
section
/-! DEFINITION. Taking and writing a Peal (R317 to R328): its entries, their bytes, the slot, the manifest, and the
acknowledged writes. The byte layout inside the LEDGER, CORES and QUEUE entries is the model's (assumption log 11). -/

namespace Sys2Proof.Machine

/-! ### Entry contents (R318) -/

/-- A flag and a number of `n` bytes, 0 when absent. -/
def optBytes (n : Nat) : Option Nat → Bytes
  | some v => 1 :: leBytes n v
  | none => 0 :: leBytes n 0

/-- R318: the fixed part of the LEDGER entry, 130 bytes. It records what R334 compares: options, layout, cores. -/
def ledgerHead (s : State) (c : Nat) : Bytes :=
  let x := getCtx s c
  let l := x.led
  leBytes 8 l.committed.toNat ++ optBytes 8 (l.lastAudit.map (·.toNat)) ++ leBytes 4 l.quota.toNat ++
  (match l.pair with
   | some p => 1 :: leBytes 4 p.peer.toNat ++ [p.peerCtx.setWidth 8] ++ leBytes 4 p.winMgrad.toNat ++ leBytes 4 p.winLedger.toNat
   | none => List.replicate 14 0) ++
  [BitVec.ofNat 8 l.absorbed.toNat] ++ leBytes 4 l.absorbId.toNat ++ leBytes 8 l.adopted.toNat ++ leBytes 32 l.accept.toNat ++
  leBytes 4 (hubOptions s.opt).toNat ++ [s.hub.layout.setWidth 8, BitVec.ofNat 8 (partCores s x.part).length] ++
  leBytes 8 x.startVer.toNat ++
  x.vslots.toList.flatMap (fun v => BitVec.ofNat 8 (verCode v.1) :: leBytes 8 v.2.toNat) ++
  [BitVec.ofNat 8 (l.ownDone.toNat + 2 * l.mirrorDone.toNat + 4 * l.filling.toNat)] ++ leBytes 8 l.adoptedMirror.toNat

/-- R318: the LEDGER entry: the fixed part, then settings, layer table and started records. -/
def ledgerBytes (s : State) (c : Nat) : Bytes :=
  let x := getCtx s c
  fit 130 (ledgerHead s c) ++
  leBytes 2 x.set.length ++ x.set.flatMap (fun p => leBytes 2 p.1 ++ leBytes 8 p.2.toNat) ++
  leBytes 2 x.layers.length ++ x.layers.flatMap (fun r => leBytes 32 r.toNat) ++
  leBytes 4 x.led.records.length ++ x.led.records.flatMap fun v => leBytes 6 v.toNat

/-- R318: PAGES: every local page mapped to the context, in ascending virtual page order, as ranges. -/
def pageSegs (s : State) (c : Nat) : List (Nat × Nat) :=
  let x := getCtx s c
  ((List.range x.pmLen.toNat).filter fun v =>
    let e := mapGet s.mem.pmap (x.pmBase.toNat + v) 0
    e.getLsbD 0 && entField e 1 2 == 0).map fun v => (c * 2 ^ 42 + v * 2 ^ 21, 2 ^ 21)

/-- One accumulator bank as bytes. -/
def bankBytes (b : Bank) : Bytes :=
  [BitVec.ofNat 8 (bankCode b.st), BitVec.ofNat 8 b.m] ++ leBytes 2 b.n ++ [b.pair.setWidth 8, BitVec.ofNat 8 b.int.toNat] ++
  b.k.toList.flatMap (leBytes 4) ++ (List.range 32768).flatMap (fun i => leBytes 4 (mapGet b.acc i 0).toNat) ++
  (List.range 1024).flatMap (fun i => leBytes 4 (mapGet b.check i 0).toNat ++ leBytes 4 (mapGet b.bound i 0).toNat)

/-- Bytes of `bankBytes`. -/
def bankLen : Nat := 22 + 131072 + 8192

/-- One stream slot as bytes. -/
def streamBytes (t : Stream) : Bytes :=
  [BitVec.ofNat 8 (streamCode t.st), t.cls.setWidth 8, t.pgen] ++ leBytes 6 t.first.toNat ++ leBytes 6 t.pc.toNat ++
  t.loops.toList.flatMap (fun l => [BitVec.ofNat 8 l.active.toNat] ++ leBytes 4 l.ctr.toNat ++ leBytes 6 l.owner.toNat ++
    leBytes 6 l.entry.toNat ++ leBytes 6 l.body.toNat) ++
  t.br.toList.flatMap (fun b => leBytes 6 b.toNat) ++
  (match t.item with
   | some w => [1, w.role.setWidth 8, BitVec.ofNat 8 w.mirror.toNat] ++ leBytes 6 w.recVa.toNat ++
       [BitVec.ofNat 8 w.backward.toNat] ++ leBytes 6 w.step.toNat
   | none => List.replicate 16 0)

def streamLen : Nat := 15 + 4 * 23 + 4 * 6 + 16

/-- Bytes of a copy-log entry: with one bit per stage block that the copy was the last to write. -/
def logLen : Nat := 46 + 2048

/-- R318: CORES of one logical core, after its rank among the cores of the partition. -/
def coreBytes (rank : Nat) (c : PCore) : Bytes :=
  BitVec.ofNat 8 rank :: memRead c.stage 0 stageBytes ++ memRead c.cache 0 cacheBytes ++ bankBytes (getBank c 0) ++ bankBytes (getBank c 1) ++
  (List.range 64).flatMap (fun i => leBytes 4 (semGet c i).toNat) ++ c.streams.toList.flatMap streamBytes ++
  leBytes 8 c.seed.toNat ++
  (List.range 64).flatMap fun i => match c.copyLog[i]? with
    | some g => 1 :: leBytes 32 g.desc.toNat ++ leBytes 6 g.src.toNat ++ leBytes 6 g.dst.toNat ++
        [BitVec.ofNat 8 g.refetch.toNat] ++ (List.range 2048).map fun i =>
          BitVec.ofNat 8 (((List.range 8).filter fun b => g.blocks.contains (8 * i + b)).foldl (fun a b => a + 2 ^ b) 0)
    | none => List.replicate logLen 0

def coreLen : Nat := 1 + stageBytes + cacheBytes + 2 * bankLen + 256 + 16 * streamLen + 8 + 64 * logLen

/-- R318: the armed time of a blocked stream: kind, semaphore, acquire, value, time. -/
def blockedBytes (b : Option Blocked) : Bytes :=
  match b with
  | some (.wait sem acq v t) => [1] ++ optBytes 1 (sem.map (·.toNat)) ++ [BitVec.ofNat 8 acq.toNat] ++ leBytes 4 v.toNat ++
      optBytes 5 (t.map fun a => a.t.toNat)
  | some (.waitLow sem t) => [2] ++ optBytes 1 (sem.map (·.toNat)) ++ [0] ++ leBytes 4 0 ++ optBytes 5 (t.map fun a => a.t.toNat)
  | some (.launch a) => [3] ++ optBytes 1 none ++ [0] ++ leBytes 4 0 ++ optBytes 5 (some a.t.toNat)
  | some .ending => [5] ++ List.replicate 13 0
  | _ => List.replicate 14 0

/-- R318: QUEUE: for each core of the context the armed times of its streams, then the queued programs. -/
def queueBytes (s : State) (c : Nat) : Bytes :=
  (coresOf s c).flatMap (fun n => (getC s n).streams.toList.flatMap fun t => blockedBytes t.blocked) ++
  (List.range 4).flatMap fun e => ((getEngine s e).queued.filter fun p => p.ctx == c).flatMap fun p =>
    [BitVec.ofNat 8 e] ++ leBytes 6 p.va.toNat ++ leBytes 5 p.launch.t.toNat

/-- An entry that copies ranges of module memory. -/
def segEntry (ty : BitVec 8) (shard : BitVec 32) (segs : List (Nat × Nat)) : PealEntry :=
  { ty := ty, shard := shard, segs := segs, data := [], rows := [] }

/-- An entry whose bytes the Belfry forms. -/
def dataEntry (ty : BitVec 8) (data : Bytes) : PealEntry :=
  { ty := ty, shard := 0xFFFFFFFF, segs := [], data := data, rows := [] }

/-- R318: the entries of a Peal of a kind. -/
def pealEntries (s : State) (c : Nat) (kind : BitVec 8) : List PealEntry :=
  let x := getCtx s c
  let live := liveIndex s c
  [segEntry 1 (BitVec.ofNat 32 (ctxSetting s c 0x70D)) [(regionVa s c false live, regionUsed s c false)]] ++
  (if x.led.absorbed then [segEntry 2 x.led.absorbId [(regionVa s c true live, regionUsed s c true)]] else []) ++
  (if kind = 1 ∧ ctxSetting s c 0x604 = 1 then
    [segEntry 3 0xFFFFFFFF [(ctxSetting s c 0x605 + verSlot s c x.led.committed * ctxSetting s c 0x606, ctxSetting s c 0x606)]] else []) ++
  [dataEntry 4 (ledgerBytes s c)] ++
  (if kind = 2 then
    [segEntry 5 0xFFFFFFFF (pageSegs s c),
     dataEntry 6 ((coresOf s c).flatMap fun n => coreBytes ((partCores s x.part).idxOf n) (getC s n)), dataEntry 7 (queueBytes s c)]
  else [])

/-! ### Slots (R323, R324, R328) -/

/-- R323: the address of a byte of a slot. -/
def slotVa : List Extent → Nat → Option Nat
  | [], _ => none
  | e :: t, off => if off < e.bytes.toNat then some (e.va.toNat + off) else slotVa t (off - e.bytes.toNat)

/-- R323: bytes of a slot. -/
def slotBytes (p : PealSlot) : Nat := p.extents.foldl (fun a e => a + e.bytes.toNat) 0

/-- R328: the slot a Peal takes. -/
def chooseSlot (s : State) (c : Nat) (kind : BitVec 8) : Nat :=
  let p := (getCtx s c).peal
  let older := fun a b => if !(getSlot p a).valid then a else if !(getSlot p b).valid then b
    else if (getSlot p a).step.toNat ≤ (getSlot p b).step.toNat then a else b
  if kind = 3 then older 2 3
  else match protectedSlot s c with
    | some 0 => 1
    | some _ => 0
    | none => older 0 1

/-- Rounded up to 4 KiB. -/
def pad4k (n : Nat) : Nat := (n + 4095) / 4096 * 4096

/-- R325: data bytes of an entry. -/
def entryLen (e : PealEntry) : Nat := if e.segs.isEmpty then e.data.length else e.segs.foldl (fun a g => a + g.2) 0

/-- Chunks of an entry. -/
def entryChunks (e : PealEntry) : Nat := (entryLen e + chunkBytes - 1) / chunkBytes

/-- Bytes of chunk `i` of an entry. -/
def chunkLen (e : PealEntry) (i : Nat) : Nat := min chunkBytes (entryLen e - i * chunkBytes)

/-- R324: bytes an entry takes in its slot. -/
def entrySize (e : PealEntry) : Nat := pad4k (48 * entryChunks e) + pad4k (entryLen e)

/-- R324: where each entry begins. -/
def entryOffsets : Nat → List PealEntry → List Nat
  | _, [] => []
  | o, e :: t => o :: entryOffsets (o + entrySize e) t

/-- R326: the nonce of an index. -/
def pealNonce (s : State) (p : Peal) (index : Nat) : Bytes :=
  leBytes 4 s.fab.addr.toNat ++ leBytes 4 (p.seq.toNat % 2 ^ 32) ++ leBytes 4 index

/-- The job key that seals a Peal of a confidential context. -/
def pealKey (s : State) (c : Nat) : Option Bytes :=
  if isConf s (getCtx s c).part then (getCtx s c).sec.job else none

/-- Read `n` bytes from `off` on of the ranges of an entry; none when a page is not local or a block fails its CRC. -/
def readSegs (c : Nat) : List (Nat × Nat) → Nat → Nat → State → Option (State × Bytes)
  | _, _, 0, s => some (s, [])
  | [], _, _, s => some (s, [])
  | (va, len) :: t, off, n, s =>
    if len ≤ off then readSegs c t (off - len) n s
    else
      let k := min n (len - off)
      match readBytesVa s c (va + off) k with
      | some (s, b) => (readSegs c t 0 (n - k) s).map fun r => (r.1, b ++ r.2)
      | none => none

/-- The plaintext of chunk `i` of an entry. -/
def readChunkOf (s : State) (c : Nat) (e : PealEntry) (i : Nat) : Option (State × Bytes) :=
  if e.segs.isEmpty then some (s, slice e.data (i * chunkBytes) (chunkLen e i))
  else readSegs c e.segs (i * chunkBytes) (chunkLen e i) s

/-- R324, R326: a chunk as it is stored, padded to 4 KiB, and its row of the chunk table. `k`: its number across the slot. -/
def storeChunk (s : State) (c : Nat) (p : Peal) (k : Nat) (d : Bytes) : Bytes × Bytes :=
  match pealKey s c with
  | none => (fit (pad4k d.length) d, sha256 d ++ List.replicate 16 0)
  | some key =>
    let n := pealNonce s p k
    (fit (pad4k d.length) (fit d.length (Config.gcmSeal key n [] d)), sha256 d ++ fit 16 (Config.gcmTag key n [] d))

/-- R324, R326: the chunk table of entry `idx` as it is stored. -/
def storeTable (s : State) (c : Nat) (p : Peal) (idx : Nat) (e : PealEntry) : Bytes :=
  let table := e.rows.flatten
  fit (pad4k table.length) (match pealKey s c with
    | none => table
    | some key => fit table.length (Config.gcmSeal key (pealNonce s p (0xFFFFFF00 + idx)) [] table))

/-- R324: the root of an entry. -/
def entryRoot (e : PealEntry) : Bytes := sha256 (e.rows.flatMap fun r => r.take 32)

/-- R443, R325: the identity digest of the module. -/
def identityDigest : Bytes := sha256 Config.identityKey

/-- R325: the manifest. `total`: SHARDS_TOTAL, which no setting gives (assumption log 13). -/
def manifestBytes (s : State) (c : Nat) (p : Peal) (total : BitVec 32) : Bytes :=
  let l := (getCtx s c).led
  let conf := pealKey s c
  let offs := entryOffsets 4096 p.entries
  let entry := fun (q : PealEntry × Nat × Nat) => leBytes 4 q.1.shard.toNat ++ [q.1.ty, 0, 0, 0] ++ leBytes 8 q.2.1 ++
    leBytes 8 (entryLen q.1) ++ leBytes 4 (entryChunks q.1) ++ leBytes 4 0 ++ fit 32 (entryRoot q.1) ++
    (match conf with
     | some k => fit 16 (Config.gcmTag k (pealNonce s p (0xFFFFFF00 + q.2.2)) [] q.1.rows.flatten)
     | none => List.replicate 16 0)
  let head := leBytes 4 0x4C414550 ++ leBytes 2 1 ++
    [p.kind, BitVec.ofNat 8 (conf.isSome.toNat + 2 * (ctxSetting s c 0x604))]
  let mid := leBytes 8 p.seq.toNat ++ leBytes 8 (ctxSetting s c 0x70E) ++ leBytes 8 (ctxSetting s c 0x70F) ++
    leBytes 8 p.step.toNat ++ (match l.lastAudit with
      | some a => leBytes 8 a.toNat
      | none => List.replicate 8 0xFF) ++
    leBytes 8 p.taken.toNat ++ leBytes 4 s.fab.addr.toNat ++
    [BitVec.ofNat 8 c, BitVec.ofNat 8 p.slotNo, BitVec.ofNat 8 p.entries.length, 0] ++ leBytes 4 total.toNat ++
    leBytes 4 ((l.pair.map fun q => q.peer.toNat).getD (2 ^ 31)) ++ List.replicate 24 0 ++ fit 32 identityDigest ++
    fit 2560 ((p.entries.zip (offs.zip (List.range p.entries.length))).flatMap entry) ++ List.replicate 1344 0
  let digest := sha256 (head ++ mid)
  match conf with
  | none => head ++ mid ++ digest ++ List.replicate 32 0
  | some k =>
    let n := pealNonce s p 0xFFFFFFFF
    head ++ fit 4024 (Config.gcmSeal k n head mid) ++ digest ++ n ++ List.replicate 4 0 ++ fit 16 (Config.gcmTag k n head mid)

/-! ### Writing (R323, R327) -/

/-- Write one block of a slot through its window; `true` when it failed. -/
def pealBlock (s : State) (c slot off : Nat) (d : Bytes) : State × Bool :=
  match slotVa (getSlot (getCtx s c).peal slot).extents off with
  | none => (s, true)
  | some va =>
    match translate s c (BitVec.ofNat 48 va) with
    | .host a true => (emit s (.hostWrite a d), false)
    | .peer i a rc rva core true =>
      let k := { barePacket s 1 a with
        dctx := BitVec.ofNat 6 rc, cls := 2, addr := rva, core := BitVec.ofNat 7 core, blocks := [mkBlock (fit 256 d)] }
      let r := sendRequest s c i (.peal c (getCtx s c).peal.seq) k
      if r.2 then r else (modPeal r.1 c fun p => { p with outst := p.outst + 1 }, false)
    | _ => (s, true)

/-- Write bytes of a slot, block by block. -/
def pealPut (c slot : Nat) : State → Nat → List Bytes → State × Bool
  | s, _, [] => (s, false)
  | s, off, d :: t =>
    let r := pealBlock s c slot off d
    if r.2 then r else pealPut c slot r.1 (off + 256) t

def pealWrite (s : State) (c slot off : Nat) (d : Bytes) : State × Bool :=
  pealPut c slot s off (chunksOf 256 (d.length / 256 + 1) d)

/-- The writing of a Peal ends; a quiesced module stays quiesced (R330). -/
def endWriting (p : Peal) : Peal :=
  { p with
    st := if p.kind = 2 then .quiesced else .idle, entries := [], cur := 0, paid := 0, outst := 0, manifest := false, stopping := false }

/-- A Peal fails with an error: no manifest is written, and its slot holds no Peal (R322, R327). -/
def pealFailWith (s : State) (c : Nat) (e : BitVec 8) : State :=
  modPeal s c fun p => { endWriting p with err := e, fail := p.fail + 1 }

/-- R319: a chunk of an OWN or ABSORBED entry differs from the digest kept at the commit. -/
def chunkDiffers (l : Ledger) (e : PealEntry) (i : Nat) (d : Bytes) : Bool :=
  match mapGet? (if e.ty = 1 then l.kept else if e.ty = 2 then l.keptMirror else []) i with
  | some k => sha256 d != k
  | none => false

/-- R485: the body of MEM_DATA_LOSS for an address of a context. -/
def dataLossBody (s : State) (c va : Nat) : Bytes :=
  let ch := match translate s c (BitVec.ofNat 48 va) with
    | .localPage p pg off _ _ => (placeByte s p pg off).1
    | _ => 0
  leBytes 8 va ++ leBytes 8 ((getCtx s c).led.committed.toNat + 1) ++ [BitVec.ofNat 8 ch]

/-- R319: a chunk that cannot be read, or is not what was committed: the Peal fails, and the chunk of a shard is reported. -/
def pealDigest (s : State) (c : Nat) (e : PealEntry) (i : Nat) : State :=
  let s := if e.ty = 1 ∨ e.ty = 2 then
      postNotice s 0x0004 (some c) (dataLossBody s c (chunkVa s c (e.ty == 2) i)) else s
  pealFailWith s c 3

/-- The die whose slice pays for the Peals of a context: the first of its partition (assumption log 156). -/
def pealDie (s : State) (c : Nat) : Nat := ((List.range 4).find? fun d => dieOwner s d == (getCtx s c).part).getD 0

/-- R219, R323: take tokens of the checkpoint class for the blocks of the next chunk, in requests of at most 8, as far as there are
any. -/
def payChunk (s : State) (c n : Nat) : State :=
  (requestSizes (n - (getCtx s c).peal.paid)).foldl (fun (a : State × Bool) b =>
    if a.2 then a
    else match takeTokens a.1 (pealDie a.1 c) 2 b with
      | some s => (modPeal s c fun p => { p with paid := p.paid + b }, false)
      | none => (holdTokens a.1 (pealDie a.1 c) 2, true)) (s, false) |>.1

/-- R219: the blocks of module memory that a chunk takes. -/
def chunkCost (e : PealEntry) (i : Nat) : Nat := if e.segs.isEmpty then 0 else (chunkLen e i + 255) / 256

/-- R319, R327: chunk `i` of entry `e` is read, compared and written. -/
def pealChunk (s : State) (c : Nat) (e : PealEntry) (i : Nat) : State :=
  match readChunkOf s c e i with
  | none => pealDigest s c e i
  | some (s, d) =>
    let p := (getCtx s c).peal
    if chunkDiffers (getCtx s c).led e i d then pealDigest s c e i
    else
      let w := storeChunk s c p p.done.toNat d
      let at_ := (entryOffsets 4096 p.entries).getD p.cur 0 + pad4k (48 * entryChunks e) + i * chunkBytes
      let r := pealWrite s c p.slotNo at_ w.1
      if r.2 then pealFailWith r.1 c 1
      else modPeal r.1 c fun p => { p with
        done := p.done + 1, paid := 0, entries := p.entries.set p.cur { e with rows := e.rows ++ [w.2] } }

/-- R327 steps 4 and 5: the next chunk, chunk table or manifest; `false` when it has to wait for tokens or for answers. -/
def pealNext (s : State) (c : Nat) : State × Bool :=
  let p := (getCtx s c).peal
  if p.st ≠ .writing ∨ p.manifest ∨ p.stopping ∨ (p.done = 0 ∧ p.cur = 0 ∧ p.outst ≠ 0) then (s, false)
  else match p.entries[p.cur]? with
    | some e =>
      let i := e.rows.length
      if i < entryChunks e then
        let s := payChunk s c (chunkCost e i)
        if (getCtx s c).peal.paid < chunkCost e i then (s, false) else (pealChunk s c e i, true)
      else
        let r := pealWrite s c p.slotNo ((entryOffsets 4096 p.entries).getD p.cur 0) (storeTable s c p p.cur e)
        if r.2 then (pealFailWith r.1 c 1, false) else (modPeal r.1 c fun p => { p with cur := p.cur + 1 }, true)
    | none =>
      if p.outst ≠ 0 then (s, false)
      else
        let t := drawFree s 32
        let r := pealWrite t.2 c p.slotNo 0 (manifestBytes t.2 c p t.1)
        (if r.2 then pealFailWith r.1 c 1 else modPeal r.1 c fun p => { p with manifest := true }, false)

/-- The writing of a Peal, as far as it goes now, in at most `n` parts. -/
def pealRun (c : Nat) : Nat → State → State
  | 0, s => s
  | n + 1, s =>
    let r := pealNext s c
    if r.2 then pealRun c n r.1 else r.1

/-- The writing of a Peal goes on: its chunks, its chunk tables and its manifest. -/
def pealGo (s : State) (c : Nat) : State :=
  let p := (getCtx s c).peal
  pealRun c (p.total.toNat + p.entries.length + 1) s

/-- R322, R327: a write of a Peal returns OK. -/
def pealAck (s : State) (c : Nat) : State :=
  let s := modPeal s c fun p => { p with outst := p.outst - 1 }
  let p := (getCtx s c).peal
  if p.stopping then (if p.outst = 0 then pealFailWith s c 5 else s) else pealGo s c

/-- R322: PEAL_ABORT of a Peal that is written: it stops after the writes in flight. -/
def pealStop (s : State) (c : Nat) : State :=
  if (getCtx s c).peal.outst = 0 then pealFailWith s c 5 else modPeal s c fun p => { p with stopping := true }

/-- R327: start a Peal: choose the slot, size its entries, advance SEQ, and write zeros over the manifest. -/
def startPeal (s : State) (c : Nat) (kind : BitVec 8) (step : BitVec 48) : State :=
  let slot := chooseSlot s c kind
  let es := pealEntries s c kind
  let s := modPeal s c fun p => { endWriting p with
    st := .writing, slotNo := slot, kind := kind, step := step, done := 0, total := 0
    taken := if kind = 2 then p.taken else s.time.now }
  if slotBytes (getSlot (getCtx s c).peal slot) < 4096 + es.foldl (fun a e => a + entrySize e) 0 then pealFailWith s c 2
  else
    let s := modDiag s fun d => { d with pealSeq := d.pealSeq + 1 }
    let s := modPeal s c fun p => { p with
      seq := s.diag.pealSeq, entries := es, total := BitVec.ofNat 16 (es.foldl (fun a e => a + entryChunks e) 0),
      slots := p.slots.setIfInBounds slot { getSlot p slot with valid := false } }
    let r := pealWrite s c slot 0 (List.replicate 4096 0)
    if r.2 then pealFailWith r.1 c 1 else pealGo r.1 c

/-- R327 step 6: the Peal is complete. -/
def finishPeal (s : State) (c : Nat) : State :=
  modPeal s c fun p => { endWriting p with
    count := p.count + 1
    slots := p.slots.setIfInBounds p.slotNo { getSlot p p.slotNo with valid := true, step := p.step, seq := p.seq, kind := p.kind } }

/-- R309, R317: the partial Peal of a step, while no Peal runs and the host has named a destination (assumption log 47). -/
def partialPeal (s : State) (c : Nat) (step : BitVec 48) : State :=
  let p := (getCtx s c).peal
  if (getCtx s c).led.unmirrored && p.st == .idle && slotBytes (getSlot p (chooseSlot s c 3)) != 0 then startPeal s c 3 step else s

/-- R309, R320, R322: the Peal that a commit of `step` starts, if any. -/
def commitPeal (s : State) (c : Nat) (step : BitVec 48) : State :=
  let p := (getCtx s c).peal
  let every := ctxSetting s c 0x800
  let sched := every != 0 && ((step.toNat : Int) - ctxSetting s c 0x801) % every == 0
  let armed := p.armed == some step
  let s := if armed then modPeal s c fun p => { p with armed := none } else s
  if sched || armed then
    if p.st == .idle then startPeal s c 1 step else modPeal s c fun p => { p with skipped := p.skipped + 1 }
  else partialPeal s c step

end Sys2Proof.Machine
end

