-- ==== Sys2Proof/Machine/RecoveryOps.lean ====
section
/-! DEFINITION. What fences, resets and recovery share: the map changes of R25, the context fence and what follows its
drain (R381 to R390), lockout (R416), logs and dumps (R396 to R400), retirement and the loss of a core (R132, R383),
entry to FENCED (R349). -/

namespace Sys2Proof.Machine

/-! ### Maps (R19 to R25) -/

/-- R25: one map change: GEN moves by 1 before its first write and by 1 after its last. -/
def mapChange (s : State) (f : Hub → Hub) : State := modHub s fun h => { f h with mapGen := h.mapGen + 2 }

/-- R191: a change of the core map: the capability descriptors are rewritten, with the generation that it leaves. -/
def coreChange (s : State) (f : Hub → Hub) : State := modHub (mapChange s f) fun h => { h with capGen := h.mapGen }

/-- Free spare slots of a die, ascending: not retired, not in test, serving no logical core, running no replay. -/
def freeSpares (s : State) (d : Nat) : List Nat :=
  ((List.range 34).map (34 * d + ·)).filter fun p =>
    !(s.hub.slotRetired.contains p) && !(s.hub.slotTesting.contains p) &&
    !((List.range 128).any fun n => inService s n && physOf s n == p) &&
    !((List.range 128).any fun n => (getL s n).replay.toList.any fun r => match r with
      | some r => r.other == some p
      | none => false)

/-- Write a core-map entry. -/
def setCoreMap (h : Hub) (n : Nat) (e : CoreEntry) : Hub := { h with coreMap := h.coreMap.setIfInBounds n e }
/-- Write a channel-map entry. -/
def setChanMap (h : Hub) (n : Nat) (e : ChanEntry) : Hub := { h with chanMap := h.chanMap.setIfInBounds n e }

/-- The logical core a slot serves. -/
def servedBy (s : State) (p : Nat) : Option Nat := (List.range 128).find? fun n => inService s n && physOf s n == p

/-- R485: the body of CORE_RETIRED. -/
def retiredBody (n old : Nat) (new : Option Nat) (cause : BitVec 8) : Bytes :=
  [BitVec.ofNat 8 n, BitVec.ofNat 8 old, BitVec.ofNat 8 (new.getD 0xFF), cause]

/-- R485: the body of CHANNEL. -/
def channelBody (n old : Nat) (new : Option Nat) (action : Nat) : Bytes :=
  [BitVec.ofNat 8 n, BitVec.ofNat 8 old, BitVec.ofNat 8 (new.getD 0xFF), BitVec.ofNat 8 action]

/-- R400, R401: the lifetime record is written, with POWER_ON_MIN at 0x10: the next of the four slots takes it. -/
def writeLife (s : State) : State :=
  modDiag s fun d => { d with wseq := d.wseq + 1, flashLife := (mapSet d.life 0x10 d.pom :: d.flashLife).take 4, lifeDirty := false, lifeAt := some s.ticks }

/-- R401: set a flag word of the lifetime record: bit 0, and a byte in [15:8]. -/
def lifeFlag (s : State) (off : Nat) (b : Nat) : State := modDiag s fun d => { d with life := mapSet d.life off (1 + 256 * b) }

/-- R132, R20, R400 to R402: a physical slot is retired for good: the lifetime record that says so is written at once (assumption
log 119). -/
def markRetired (s : State) (p : Nat) (cause : BitVec 8) (verdict : Bool) : State :=
  let s := modHub s fun h => { h with
    slotRetired := if h.slotRetired.contains p then h.slotRetired else p :: h.slotRetired,
    slotTesting := h.slotTesting.erase p }
  let s := recordEvent s 1 0x01 2 p none [(0x0B80 + 16 * p, 1)] (if verdict then some (0, 20) else none)
  writeLife (lifeFlag s (0x0B80 + 16 * p + 12) cause.toNat)

/-- R25, R132: a slot that serves no logical core is retired: the entries of its die change in SPARES_FREE. -/
def retireSpare (s : State) (p : Nat) (cause : BitVec 8) : State := coreChange (markRetired s p cause false) fun h => h

/-! ### Logs (R397) -/

/-- R397, R408: new error-log entries are copied to flash, without the bodies that a session guards. -/
def flushLog (s : State) : State :=
  modDiag s fun d =>
    let n := (d.eseq - d.flushed).toNat
    { d with flashLog := ((d.log.take n).map (logSeen none) ++ d.flashLog).take 30720, flushed := d.eseq }

/-- R397: the crash dump is copied to the older of the two flash slots. -/
def copyDump (s : State) : State :=
  match s.diag.dump with
  | some b => if s.diag.dumpPending then
      modDiag s fun d => { d with flashDump := (b :: d.flashDump).take 2, dumpPending := false }
    else s
  | none => s

/-! ### Crash dump (R398, R399) -/

/-- The registers of a dump unit, as a reader outside every session sees them (R399: tenant fields zeroed). -/
def unitRegs (s : State) (u : Nat) : Bytes :=
  let words := fun (base n : Nat) => (List.range n).flatMap fun i => leBytes 4 (regRead s none (base + 4 * i)).toNat
  if u < 136 then
    match servedBy s u with
    | some n => words (0x100000 + 0x1000 * n) 1024
    | none => []
  else if u < 216 then words (0x4000 + 0x40 * (u - 136)) 16
  else if u < 252 then words (0x7000 + 0x40 * (u - 216)) 16
  else if u < 256 then words (0x7A00 + 0x30 + 8 * (u - 252)) 2
  else if u < 260 then words 0x7A00 12
  else if u = 264 then words 0x2000 16
  else if u = 267 then words 0xC000 24
  else []

/-- R399: a unit that the ordering option leaves out: ports of F24, positions of M54. -/
def unitFitted (s : State) (u : Nat) : Bool :=
  if 136 ≤ u ∧ u < 216 then
    (List.range (spareGroups s)).any fun g => decide (groupBase s g ≤ u - 136) && decide (u - 136 < groupBase s g + 10)
  else if 216 ≤ u ∧ u < 252 then decide (u - 216 < portCount s) else true

/-- R399: whether a unit holds tenant fields of a confidential partition. -/
def unitHidden (s : State) (u : Nat) : Bool :=
  if u < 136 then
    match servedBy s u with
    | some n => isConf s (corePart s n)
    | none => false
  else if u < 216 then
    match (getCtrl s (u - 136)).chan with
    | some n => isConf s (chanPart s n)
    | none => false
  else false

/-- R398, R399: one unit record of 4 KiB: what the unit has answered. -/
def unitRecord (s : State) (u : Nat) : Bytes :=
  let beat := s.time.now.toNat / ticksPerBeat
  let fitted := unitFitted s u
  let n := if fitted then min 4032 (Config.dumpReach s.diag.dseq.toNat u) else 0
  leBytes 2 u ++ [if !fitted then 3 else if n = 0 then 2 else if n < 4032 then 1 else 0, BitVec.ofNat 8 (unitHidden s u).toNat] ++
  leBytes 2 n ++ [0, 0] ++ leBytes 8 s.time.now.toNat ++
  leBytes 16 (Config.dumpShadow u beat).toNat ++ leBytes 8 beat ++ List.replicate 24 0 ++
  fit 4032 ((Config.dumpState u (unitRegs s u)).take n)

/-- R399: the dump: header, then the 272 unit records. -/
def dumpBytes (s : State) (why : Nat) : Bytes :=
  let units := (List.range 272).flatMap (unitRecord s)
  let head := leBytes 4 0x504D5544 ++ leBytes 2 1 ++ leBytes 4 s.diag.dseq.toNat ++
    [Config.dumpTrigger why, BitVec.ofNat 8 (devCode s.hub.dev)] ++ leBytes 8 s.time.now.toNat ++
    leBytes 4 s.diag.pom ++ leBytes 2 272
  fit 0xFE0 head ++ sha256 units ++ units

/-- R397, R398: a dump is taken, unless the previous one has not been copied to flash (error 0x0507). -/
def takeDump (s : State) (why : Nat) : State :=
  if s.diag.dumpPending then logError s 0x0507 0 0 0 none []
  else
    let b := dumpBytes s why
    modDiag s fun d => { d with dump := some b, dumpPending := true, dseq := d.dseq + 1 }

/-! ### The context fence (R381 to R390) -/

/-- R388: what a fence does to the Downbeat and the Peal of its context. -/
def fenceJob (s : State) (c : Nat) : State :=
  let l := (getCtx s c).led
  let s := if l.st = .armed ∨ l.st = .voted then abortStep (sendVeto s c) c 7 else s
  let s := modLed s c fun l => { l with redo := true }
  let p := (getCtx s c).peal
  let s := match p.st with
    | .writing | .restoring => pealFailWith s c 5
    | _ => s
  modPeal s c fun p => match p.st with
    | .quiescing | .quiesced => { p with st := .idle, tq := none, tr := none }
    | _ => p

/-- Cores that serve a context. -/
def servingCores (s : State) (c : Nat) : List Nat := (List.range 128).filter fun n => inService s n && (getC s n).ctx == some c

/-- R315: the records of the started work items that a fence stops are dropped. -/
def dropRecords (s : State) (c : Nat) : State :=
  (getCtx s c).led.records.foldl (fun s va =>
    match readRec s c va with
    | some r => if (r.state == 1 || r.state == 3) && (servingCores s c).any (fun n => (getC s n).streams.toList.any fun t =>
        t.st != .idle && t.ctx == c && (t.item.map fun w => w.role == 1 && w.recVa == va).getD false) then setRecState s c va 5 else s
    | none => s) s

/-- R381: the fence of a context begins, or a request joins the one that runs (R390). `w`: what is to be answered. -/
def startFence (s : State) (c : Nat) (w : Option (Nat × Req)) : State :=
  let x := getCtx s c
  match x.st with
  | .closed => s
  | .fencing => modCtx s c fun x => { x with
      fence := x.fence.map fun f => { f with waiters := f.waiters ++ w.toList } }
  | _ =>
    let s := dropRecords (fenceJob s c) c
    let s := (servingCores s c).foldl (fun s n => modC (stopStreams s n true fun t => t.ctx == c) n fun k => { k with frozen := false, pwrMode := if k.frozen then 2 else k.pwrMode }) s
    let s := dropPrograms s fun p => p.ctx == c
    modCtx s c fun x => { x with st := .fencing, fence := some { waiters := w.toList, since := s.ticks } }

/-- R381: a copy whose requests a fence awaits: both ends are on the module. -/
def localCopy (j : CopyJob) : Bool :=
  let x := copyOf j.iss.desc
  x.srcLoc != 3 && x.srcLoc != 4 && x.dstLoc != 3 && x.dstLoc != 4

/-- R381: no engine of a core holds work of the context that the fence awaits. -/
def coreDrained (k : PCore) : Bool := k.copies.all fun j => j.out.isEmpty || !localCopy j

/-- R381: the drain of a context is complete. -/
def fenceDrained (s : State) (c : Nat) : Bool := (servingCores s c).all fun n => coreDrained (getC s n)

/-- R387: a recovered context resumes. -/
def resumeCtx (s : State) (c : Nat) : State :=
  let s := (servingCores s c).foldl (fun s n => modC s n fun k => { k with
    streams := k.streams.map fun t => { t with st := .idle, inflight := [] }, sems := [],
    banks := Vector.replicate 2 Bank.reset, cache := [], cacheBad := [], gen := (getCtx s c).cgen }) s
  modCtx s c fun x => { x with st := .opened }

/-- R218, R417: release the page of an entry: to quarantine in a confidential partition, in ascending order. -/
def releasePage (s : State) (e : BitVec 64) : State :=
  if e.getLsbD 0 && entField e 1 2 == 0 then
    let p := entField e 9 2
    if isConf s p then
        let q := s.mem.quar.getD p []
      let q := q.filter (· < entField e 13 18) ++ [entField e 13 18] ++ q.filter (· > entField e 13 18)
      modMem s fun m => { m with quar := m.quar.setIfInBounds p q }
    else s
  else s

/-- R216, R218: clear the entries `[i, i + n)`, drop their cached translations, and release their pages. -/
def unmapEntries (s : State) (c i n : Nat) : State :=
  let x := getCtx s c
  let gone := s.mem.pmap.filter fun e => decide (i ≤ e.1) && decide (e.1 < i + n)
  let s := gone.foldl (fun s e => releasePage s e.2) s
  let s := modMem s fun m => { m with
    pmap := m.pmap.filter fun e => !(decide (i ≤ e.1) && decide (e.1 < i + n)),
    wgen := m.wgen.filter fun e => !(decide (i ≤ e.1) && decide (e.1 < i + n)) }
  (partCores s x.part).foldl (fun s k => modC s k fun q => { q with
    xlat := q.xlat.filter fun v => !(decide (c * 2 ^ 21 + (i - x.pmBase.toNat) ≤ v) &&
      decide (v < c * 2 ^ 21 + (i - x.pmBase.toNat) + n)) }) s

/-- R389, R418, R419: a drained context is torn down. -/
def closeCtx (s : State) (c : Nat) : State :=
  let x := getCtx s c
  let s := modCtx s c fun x => { x with sec := { CtxSec.reset with tags := x.sec.tags } }
  let s := modSecCore s fun k => { k with sweeps := k.sweeps.map fun w => match w with
    | some w => if w.ctx = c then none else some w
    | none => none }
  let s := unmapEntries s c x.pmBase.toNat x.pmLen.toNat
  let s := (servingCores s c).foldl (fun s n => modC s n fun k => { k with ctx := none }) s
  modCtx s c fun x => { x with
    st := .closed, pmBase := 0, pmLen := 0, set := [], layers := [], vslots := Vector.replicate 3 (.free, 0), led := { x.led with st := .idle, commitAt := none },
    peal := { x.peal with st := .idle }, domains := 0 }

/-- R387, R389, R416: the waiters of a completed fence, in order. A recovery after which another request waits begins the
next fence for it. -/
def answerFence (c : Nat) : List (Nat × Req) → State → State
  | [], s => s
  | (k, r) :: t, s =>
    let x := getCtx s c
    match k with
    | 0 =>
      if x.st = .closed then answerFence c t (respond s r 0x0606 stConflict 5 0 0x2 [])
      else if x.sec.locked then answerFence c t (respond s r 0x0606 stDenied 0 0 setLive [])
      else if x.domains != 0 then answerFence c t (respond s r 0x0606 stFenced 0 0 setLive [])
      else
        let s := resumeCtx s c
        let s := respond s r 0x0606 stOk 0 0 setLive (leBytes 2 (getCtx s c).cgen.toNat)
        if t.isEmpty then s else (t.foldl (fun s w => startFence s c (some w)) s)
    | _ =>
      if x.st = .closed then answerFence c t (respond s r 0x0202 stConflict 5 0 0x2 [])
      else if x.domains != 0 then answerFence c t (respond s r 0x0202 stFenced 0 0 setLive [])
      else answerFence c t (respond (closeCtx s c) r 0x0202 stOk 0 0 setLive [])

/-- R378, R381, R385: the drain of a fence is complete: what is not awaited is dropped, the banks are FREE, the generation is bumped, the context is
FENCED, and the requests that wait are answered. -/
def finishFence (s : State) (c : Nat) : State :=
  let ws := ((getCtx s c).fence.map (·.waiters)).getD []
  let s := (servingCores s c).foldl (fun s n => modC s n fun k => { k with
    copies := [], lr := [], stat := [], trans := [], mv := [], threads := Vector.replicate 8 none, gather := [], gatherQ := [],
    banks := Vector.replicate 2 Bank.reset,
    streams := k.streams.map fun t => { t with st := .idle, inflight := [], blocked := none } }) s
  let s := modCtx s c fun x => { x with st := .fenced, cgen := x.cgen + 1, fence := none }
  answerFence c ws s

/-- R379, R390: the reset of another domain fences a context; a COMMIT_PENDING context commits first. -/
def fenceDomain (s : State) (c : Nat) (bit : Nat) : State :=
  let x := getCtx s c
  match x.st with
  | .closed => s
  | .fenced => modCtx s c fun x => { x with domains := x.domains ||| BitVec.ofNat 6 (2 ^ bit) }
  | _ =>
    let s := modCtx s c fun x => { x with domains := x.domains ||| BitVec.ofNat 6 (2 ^ bit) }
    if x.led.st = .commitPending then s else startFence s c none

/-- A domain has returned: the contexts it fenced may leave FENCED. -/
def domainBack (s : State) (bit : Nat) : State :=
  { s with ctxs := s.ctxs.map fun x => { x with domains := x.domains &&& ~~~(BitVec.ofNat 6 (2 ^ bit)) } }

/-- Contexts of a partition that are not closed. -/
def openCtxs (s : State) (p : Nat) : List Nat :=
  (List.range 64).filter fun c => (getCtx s c).st != .closed && (getCtx s c).part == p

/-! ### Lockout (R416) -/

/-- R416: a context with 16 tag failures in the last 60 minutes is locked out. -/
def lockout (s : State) (c : Nat) : State :=
  let x := getCtx s c
  if !x.sec.locked && x.st != .closed &&
      decide (16 ≤ (x.sec.tags.filter fun t => decide (s.ticks < t + 3600 * ticksPerSec)).length) then
    let s := startFence s c none
    let s := modSec s c fun k => { k with keys := Vector.replicate 2 none, locked := true }
    let s := modSecCore s fun k => { k with lockouts := k.lockouts.setIfInBounds x.part (k.lockouts.getD x.part 0 + 1) }
    postNotice s 0x000F (some c) [0x02, BitVec.ofNat 8 x.part, BitVec.ofNat 8 c]
  else s

/-- Lock out every context that has reached the bound. -/
def lockouts (s : State) : State := (List.range 64).foldl lockout s

/-- End of a meaning that reads module memory for a context. -/
def doneMem (s : State) : Host.Outcome State Fault Refusal := done (lockouts s)

/-! ### Device low power (R446, R451, R452) -/

/-- R452: the device leaves LOW_POWER: cores and controllers return to Run. -/
def leaveLow (s : State) : State :=
  if !s.hub.low then s
  else
    let s := modPwr (modHub s fun h => { h with low := false, lpTarget := 0 }) fun w => { w with pstate := .run }
    let s := { s with slots := s.slots.map fun c => (c.1, { c.2 with pstate := .run }) }
    modMem s fun m => { m with ctrl := m.ctrl.map fun k => { k with selfRefresh := k.role == .spare } }

/-! ### Entry to FENCED (R349, R398, R400) -/

/-- R349: correct work cannot be assured: every context is fenced, and only a device reset leaves the state. -/
def enterFenced (s : State) : State :=
  if s.hub.fenced then s
  else
    let boot := s.hub.dev == .booting
    let s := modHub (leaveLow s) fun h => { h with fenced := true, dev := if boot then .fenced else h.dev }
    let s := if boot then postNotice s 0x000B none [1, 6] else s
    let s := (List.range 64).foldl (fun s c => if (getCtx s c).st = .opened then startFence s c none else s) s
    takeDump (writeLife s) 2

/-! ### Loss of a core (R21, R132, R383) -/

/-- R383: a core that has not drained is reset; its logical core moves to a free spare of the die, and the slot is
tested. Without a free spare the core is out of service for that time, which HUB_CORE_MAP_n shows as STATE 0b00 (assumption log
118). -/
def overrunCore (s : State) (n : Nat) : State :=
  let p := physOf s n
  let c := (getP s p).ctx
  let s := takePending (resetSlot s p) (· == n)
  let s := recordEvent s 5 0x02 3 p c [] (some (0, 10))
  let s := modHub s fun h => { h with slotTesting := if h.slotTesting.contains p then h.slotTesting else p :: h.slotTesting }
  match (freeSpares s (n / 32)).head? with
  | some q =>
    let s := coreChange s fun h => setCoreMap h n { phys := q, status := .inService }
    let s := setP s q PCore.reset
    lifeAdd ((c.map (beginWork s n)).getD s) 0x2C 1
  | none => coreChange s fun h => setCoreMap h n { phys := p, status := .testing }

/-- R21: a logical core without a slot is retired. -/
def retireLogical (s : State) (n p : Nat) (cause : BitVec 8) : State :=
  let s := coreChange s fun h => setCoreMap h n { phys := p, status := .retired }
  postNotice s 0x0009 none (retiredBody n p none cause)

end Sys2Proof.Machine
end

