-- ==== Sys2Proof/Machine/Settings.lean ====
section
/-! DEFINITION. Setting records: the keys of R360, the range of every value, and how an accepted value takes effect. -/

namespace Sys2Proof.Machine

/-- 2 MiB. -/
def page2M : Nat := 2097152

/-- Keys of the regulators (R221). -/
def isRegulKey (k : Nat) : Bool := decide (0x410 ≤ k) && decide (k ≤ 0x41B)

/-- R360: a key exists. -/
def keyKnown (k : Nat) : Bool :=
  decide (0x100 ≤ k ∧ k ≤ 0x105) || decide (0x200 ≤ k ∧ k ≤ 0x201) || decide (0x300 ≤ k ∧ k ≤ 0x301) ||
  decide (0x400 ≤ k ∧ k ≤ 0x405) || isRegulKey k || decide (0x500 ≤ k ∧ k ≤ 0x503) || decide (0x600 ≤ k ∧ k ≤ 0x608) ||
  decide (0x700 ≤ k ∧ k ≤ 0x710) || decide (0x800 ≤ k ∧ k ≤ 0x806) || k == 0x900

/-- R360: a key that only a command sets. -/
def volatileOnly (k : Nat) : Bool :=
  decide (0x600 ≤ k ∧ k ≤ 0x608) || (decide (0x700 ≤ k ∧ k ≤ 0x710) && k != 0x70C)

/-- R48 to R50, R78, R137, R165, R185, R210, R221, R232, R285, R296, R306, R318, R321, R484: the range of a value. `get`
gives the other settings as they will stand; `cores` is the number of in-service cores of the partition (R136); `parts`
the number of partitions; `four` whether four partitions are supported. -/
def valueOk (get : Nat → Nat) (cores : Nat) (four : Bool) (key v : Nat) : Bool :=
  match key with
  | 0x100 | 0x101 | 0x104 => within 0 1 v
  | 0x102 => within 0 255 v
  | 0x103 => within 0 65535 v
  | 0x105 => within 1 255 v
  | 0x200 => within 0 (if four then 2 else 1) v
  | 0x201 => within 0 1 v
  | 0x300 => within 0 2 v
  | 0x301 => within 1 32 v
  | 0x400 => within 1000 1000000 v
  | 0x401 | 0x402 => within 1 100 v
  | 0x403 => within 1 10 v
  | 0x404 => within 1 168 v
  | 0x405 => within 50 500 v
  | 0x500 => within 16 4096 v
  | 0x501 => decide (v < get 0x500)
  | 0x502 => within 1 127 v && (cores == 0 || v % cores != 0)
  | 0x503 => within 1 50 v
  | 0x600 => within 1 256 v
  | 0x601 => decide (v < get 0x600)
  | 0x602 => within 1 8 v
  | 0x603 => within (get 0x600) 4096 v && v % get 0x600 == 0
  | 0x604 => within 0 1 v
  | 0x605 => v % page2M == 0 && decide (v < 2 ^ 48)
  | 0x606 => v % page2M == 0
  | 0x607 => v % 32 == 0 && decide (v < 2 ^ 48)
  | 0x608 => within 1 4096 v
  | 0x70C => within 1 15 v
  | 0x70D => decide (v < 2 ^ 32)
  | 0x70E | 0x70F => true
  | 0x710 => within 1 (2 ^ 48 - 1) v
  | 0x800 => v == 0 || within 10 1000000 v
  | 0x801 => v == 0 || decide (v < get 0x800)
  | 0x802 => within 0 1 v
  | 0x803 => within 100 1000000 v
  | 0x804 => within 1 1000 v
  | 0x805 => within 1 100000 v
  | 0x806 => within 1 1440 v
  | 0x900 => true
  | k =>
    if isRegulKey k then
      match (k - 0x410) % 3 with
      | 0 => decide (v < 2 ^ 18)
      | 1 => decide (v < 2 ^ 20)
      | _ => within 0 1 v
    else if 0x700 ≤ k ∧ k ≤ 0x70B then v % page2M == 0 && decide (v < 2 ^ 48)
    else false

/-- The value a list of records gives a key, else the value given. -/
def recValue (recs : List Setting) (key cur : Nat) : Nat :=
  match recs.reverse.find? (fun r => r.key.toNat == key) with
  | some r => r.value.toNat
  | none => cur

/-- R232: PIPE_M defaults to PIPE_P: the settings of a context as a command leaves them. -/
def ctxAfter (s : State) (c : Nat) (recs : List Setting) (key : Nat) : Nat :=
  if key = 0x603 ∧ (mapGet? (getCtx s c).set 0x603).isNone then recValue recs 0x603 (recValue recs 0x600 (ctxSetting s c 0x600))
  else recValue recs key (ctxSetting s c key)

/-- R360: the first record that a command refuses: its key is unknown to the command, or its value out of range. -/
def firstBad (allowed : Nat → Bool) (okv : Nat → Nat → Bool) (parts : Nat) (recs : List Setting) : Option Nat :=
  recs.findIdx? fun r =>
    let k := r.key.toNat
    !(keyKnown k && allowed k && okv k r.value.toNat && (!isRegulKey k || decide (r.scope.toNat < parts)))

/-! ### Regions of the step record (R285) -/

/-- R285: the regions that settings describe: base and size, empty ones left out. -/
def stepRegions (get : Nat → Nat) : List (Nat × Nat) :=
  let shard := get 0x700 + get 0x701
  [(get 0x704, shard), (get 0x705, shard), (get 0x706, shard), (get 0x707, shard), (get 0x708, get 0x702), (get 0x709, get 0x702),
   (get 0x70A, (1 + get 0x604) * get 0x703), (get 0x70B, shard + get 0x702 + get 0x703 + get 0x606)].filter fun p => p.2 != 0

/-- Two regions of a list overlap. -/
def anyOverlap : List (Nat × Nat) → Bool
  | [] => false
  | (a, n) :: t => t.any (fun p => decide (a < p.1 + p.2) && decide (p.1 < a + n)) || anyOverlap t

/-! ### The layer table (R241, R242) -/

/-- R56, R66: an MMA input format. -/
def mmaInput (f : Nat) : Bool := f != 10 && f != 15

/-- R241, R242: one layer record is taken. -/
def layerOk (get : Nat → Nat) (r : BitVec 256) : Bool :=
  let f := fun (lo w : Nat) => (r.extractLsb' lo w).toNat
  decide (f 0 16 < 4096) && f 17 7 == 0 && mmaInput (f 24 4) && mxvOk (f 24 4) (f 28 1 == 1) && f 29 3 == 0 && f 40 24 == 0 &&
  (if f 16 1 = 1 then f 192 64 == 0 else decide (f 64 64 + f 128 64 ≤ get 0x606))

/-- R241: the table as settings place it, when every record is taken. -/
def readLayers (s : State) (c : Nat) (get : Nat → Nat) : Option (List (BitVec 256)) :=
  match readBytesVa s c (get 0x607) (32 * get 0x608) with
  | none => none
  | some (_, b) =>
    let rs := (chunksOf 32 (get 0x608) b).map fun d => BitVec.ofNat 256 (leNat d)
    let ids : List Nat := rs.map fun r => (r.extractLsb' 0 16).toNat
    if rs.all (layerOk get) && decide ids.Nodup then some rs else none

/-! ### Device settings (R48 to R50, R210, R221) -/

/-- R365: the value in force of a regulator key of a partition: the last layer that sets it; the factory default is that
of R221, divided by the number of partitions. -/
def regulValue (s : State) (p key : Nat) : Nat :=
  match mapGet? s.mail.volatile (key + 65536 * (p + 1)) with
  | some v => v.toNat
  | none =>
    match (userRecs s).find? (fun r => r.key.toNat == key && r.scope.toNat == p) with
    | some r => r.value.toNat
    | none =>
      let d := Bucket.default ((key - 0x410) / 3)
      match (key - 0x410) % 3 with
      | 0 => d.rate / partCount s.hub.layout
      | 1 => d.depth / partCount s.hub.layout
      | _ => d.borrow.toNat

/-- R221: load the regulators of a partition from the settings in force. -/
def loadRegul (s : State) (p : Nat) : State :=
  (List.range 4).foldl (fun s cls => setBucket s p cls { getBucket s p cls with
    rate := regulValue s p (0x410 + 3 * cls), depth := regulValue s p (0x411 + 3 * cls),
    borrow := regulValue s p (0x412 + 3 * cls) == 1 }) s

/-- R48 to R50, R210: load the device-wide settings in force into the units they set. -/
def loadDevice (s : State) : State :=
  let v := fun k => (devSetting s k).toNat
  let s := modTime s fun t => { t with
    cadEnable := v 0x100 == 1, cadFalling := v 0x101 == 1, cadDiv := BitVec.ofNat 8 (v 0x102),
    cadStagger := BitVec.ofNat 16 (v 0x103), ppsEnable := v 0x104 == 1, ppsWidth := BitVec.ofNat 8 (v 0x105),
    slots := if v 0x100 = 1 then t.slots else [] }
  let s := drivePps 0 s
  modMem s fun m => { m with policy := {
    corrRetrain := v 0x400, uncorrMapout := v 0x401, crcMapout := v 0x402, retrainLimit := v 0x403, scrubHours := v 0x404,
    migrateShare := v 0x405 } }

/-- A device setting made by command (R365). -/
def setVolatile (s : State) (recs : List Setting) : State :=
  modMail s fun m => { m with volatile := recs.foldl (fun v r => mapSet v
    (r.key.toNat + (if isRegulKey r.key.toNat then 65536 * (r.scope.toNat + 1) else 0)) r.value) m.volatile }

/-! ### Context settings -/

/-- R232: the job of a context runs: a step has been armed since CTX_OPEN or the last RESTORE. -/
def jobRuns (l : Ledger) : Bool := l.everArmed

/-- R232, R318: settings that wait for the next Downbeat while the job runs. -/
def pends (k : Nat) : Bool := decide (0x600 ≤ k ∧ k ≤ 0x608) || k == 0x70D

/-- Accepted values of a context: now, or at the next Downbeat. -/
def setCtxValues (s : State) (c : Nat) (recs : List Setting) : State :=
  let lag := ctxSetting s c 0x604
  let s := recs.foldl (fun s r =>
    let k := r.key.toNat
    if isRegulKey k then s
    else if pends k && jobRuns (getCtx s c).led then modLed s c fun l => { l with pendSet := mapSet l.pendSet k r.value }
    else modCtx s c fun x => { x with set := mapSet x.set k r.value }) s
  settleVersions s c lag

/-- R165, R185: the scheduler preference and the bank cap reach the cores that serve the context. -/
def loadCores (s : State) (c : Nat) : State :=
  (coresOf s c).foldl (fun s n => modC s n fun k => { k with
    prefer := BitVec.ofNat 2 (ctxSetting s c 0x300), bankCap := BitVec.ofNat 6 (ctxSetting s c 0x301) }) s

/-- R296: START_STEP takes effect. -/
def loadStart (s : State) (c : Nat) (v : Nat) : State :=
  let i := v % (2 + ctxSetting s c 0x604)
  let s := modLed s c fun l => { l with committed := BitVec.ofNat 48 v - 1 }
  modCtx s c fun x => { x with
    startVer := BitVec.ofNat 48 v,
    vslots := (Vector.replicate 3 (VerState.free, (0 : BitVec 48))).setIfInBounds i (.committed, BitVec.ofNat 48 v) }

end Sys2Proof.Machine
end

