-- ==== Sys2Proof/WellFormed.lean ====
section
/-! DEFINITION. Which terms of `Instr` denote a command: a byte string has the length its table gives it, a block has
256 bytes, a mailbox body fits its buffer (R340: 4,064 bytes). What a well-formed request asks for and may not have is
the meaning's concern, not this file's. -/

namespace Sys2Proof

/-- R340: bytes of a request body at most. -/
def bodyMax : Nat := 4064

/-- R201, R204: a block is 256 bytes. -/
def blockWf (b : Block) : Bool := b.data.length == 256

/-- R260, R261: at most 8 blocks, each whole, as NBLK says; a READ_REQ (TYPE 2) carries none and names its length in NBLK. -/
def packetWf (k : Packet) : Bool :=
  decide (k.nblk.toNat ≤ 8) && k.blocks.all blockWf &&
  (if k.ptype = 2 then k.blocks.isEmpty else k.blocks.length == k.nblk.toNat)

/-- What a copy request brings back: whole blocks (R188). -/
def copyDataWf : CopyData → Bool
  | .local _ _ => true
  | .host bs => bs.all blockWf
  | .hostError => true

/-- R359: six pairs of a 32-byte key and an 8-byte initial vector. -/
def ideKeysWf (keys : List Bytes) : Bool := keys.length == 6 && keys.all fun k => k.length == 40

/-- R423: the inner commands of SEALED carry keys of their own lengths. -/
def innerWf : InnerCmd → Bool
  | .jobKey _ key => key.length == 32
  | .e2eKey _ key _ members => key.length == 32 && decide (48 + 4 * members.length ≤ bodyMax)
  | .rotate _ _ key => key.length == 32 || key.isEmpty
  | .secRead _ _ => true
  | .ideKey _ _ _ keys => ideKeysWf keys
  | .noticeGet _ _ => true
  | .logRead _ _ => true
  | .ledgerTimes _ _ _ => true
  | .pwrRead => true
  | .other _ => true

/-- The operands of a command have the lengths its table gives. -/
def wellFormed : Instr → Bool
  | .timeConfig _ recs => decide (2 + 16 * recs.length ≤ bodyMax)
  | .ctxConfig _ recs => decide (2 + 16 * recs.length ≤ bodyMax)
  | .jobConfig _ recs => decide (2 + 16 * recs.length ≤ bodyMax)
  | .memPolicy _ recs => decide (2 + 16 * recs.length ≤ bodyMax)
  | .routeWrite _ _ _ entries => decide (8 + 2 * entries.length ≤ bodyMax)
  | .map _ items => decide (2 + 16 * items.length ≤ bodyMax)
  | .pealTarget _ _ extents => decide (2 + 16 * extents.length ≤ bodyMax)
  | .pealScan _ slots _ => decide (2 + 8 * slots.length ≤ bodyMax)
  | .restore _ _ items _ => decide (10 + 16 * items.length ≤ bodyMax)
  | .cfgWrite _ _ _ data => decide (8 + data.length ≤ bodyMax)
  | .updateWrite _ _ _ data => decide (8 + data.length ≤ bodyMax)
  | .opAuth _ _ mac => mac.length == 32 || mac.isEmpty
  | .opSecretSet _ secret => secret.length == 32
  | .secJobKey _ _ key => key.length == 32
  | .secE2eKey _ _ key _ members => key.length == 32 && decide (48 + 4 * members.length ≤ bodyMax)
  | .secRotate _ _ _ key => key.length == 32 || key.isEmpty
  | .secAttest _ nonce _ _ => nonce.length == 32
  | .sessOpen _ _ ct => ct.length == 1568
  | .sealed _ _ _ _ _ _ inner => innerWf inner
  | .secIdeKey _ _ _ _ keys => ideKeysWf keys
  | .requestBufferWrite _ offset data => decide (offset.val + data.length ≤ 8192)
  | .copyRequestDone _ _ _ d => copyDataWf d
  | .runAheadRead _ _ _ d => copyDataWf d
  | .memoryWrite _ _ _ _ _ x => blockWf x.blk
  | .gatherArrival _ x => x.host.all fun b => blockWf b.2
  | .replayResult _ _ f => f.win.all fun b => blockWf b.2
  | .write _ k _ => packetWf k
  | .readReq _ k _ => packetWf k
  | .readResp _ k _ => packetWf k
  | .compl _ k => packetWf k
  | .signalPacket _ k _ => packetWf k
  | .collData _ k _ => packetWf k
  | .collCtrl _ k _ _ => packetWf k
  | .knell _ k => packetWf k
  | .linkup _ k => packetWf k
  | .link _ k => packetWf k
  | .packetForward _ k => packetWf k
  | .packetAgeDrop _ k => packetWf k
  | .digestRecord _ rec => rec.length == 256
  | .auditComplete _ grads digest => grads.all (·.length == 32) && digest.length == 32
  | .mctpVendorMessage _ image => decide (image.length ≤ 4096)
  | _ => true

end Sys2Proof
end

