-- ==== Sys2Proof/Machine/General.lean ====
section
/-! DEFINITION. The general commands (R353), the time and fabric configuration commands TIME_CONFIG, ROUTE_WRITE,
PORT_RETRAIN (R354) and the profile (R366). LOW_POWER and WAKE stand in Power.lean, TIME_MASTER in Time.lean, COLL_START
in Collective.lean. -/

namespace Sys2Proof.Machine

/-! ### PING, GET_INFO, NOTICE_GET -/

/-- R353: uptime in milliseconds of the module's own oscillator, since device reset. -/
def uptimeMs (s : State) : Nat := (s.ticks - s.hub.bootAt) / 4000000

/-- R353: PING. -/
def ansPing (deadlineUs : BitVec 32) (s : State) : Answer :=
  if within 1 1000000 deadlineUs.toNat then ok s (leBytes 8 s.time.now.toNat ++ leBytes 8 (uptimeMs s)) else err s stBadArg 0

def execPing (r : Req) (deadlineUs : BitVec 32) (s : State) : Host.Outcome State Fault Refusal :=
  done (serve 0x0001 setAny r (.ping r deadlineUs) (ansPing deadlineUs) s)

/-- R353: GET_INFO. The fields of SELECT 0 and 2 stand in the order of the table, packed; SELECT 0 ends with the
enterprise number (R347). -/
def ansGetInfo (select core : BitVec 8) (s : State) : Answer :=
  match select.toNat with
  | 0 => ok s (leBytes 4 (hubOptions s.opt).toNat ++ identityDigest ++ leBytes 4 s.fab.addr.toNat ++
      [s.hub.profile.setWidth 8] ++ leBytes 4 Config.enterprise.toNat)
  | 1 =>
    if 128 ≤ core.toNat then err s stBadArg 0
    else if inService s core.toNat then ok s (capability s core.toNat) else err s stFenced 0
  | 2 => ok s (s.mail.images.toList.flatMap fun i => leBytes 4 i.version.toNat ++ leBytes 4 i.stagedVer.toNat ++ [i.phase])
  | _ => err s stBadArg 0

def execGetInfo (r : Req) (select core : BitVec 8) (s : State) : Host.Outcome State Fault Refusal :=
  done (serve 0x0002 setAny r (.getInfo r select core) (ansGetInfo select core) s)

/-- R353: NOTICE_GET waits until a notice is present or WAIT_US has passed; what is due is answered at once (`settle`). -/
def ansNoticeGet (r : Req) (max : BitVec 8) (waitUs : BitVec 32) (s : State) : Answer :=
  if within 1 60 max.toNat && decide (waitUs.toNat ≤ 1000000) then
    later (modMail (handed s r) fun m => { m with
      waiters := m.waiters ++ [{ req := r, max := max, till := s.time.now + BitVec.ofNat 64 (waitUs.toNat * ticksPerUs), tenant := none }] })
  else err s stBadArg 0

def execNoticeGet (r : Req) (max : BitVec 8) (waitUs : BitVec 32) (s : State) : Host.Outcome State Fault Refusal :=
  done (serve 0x0003 setAny r (.noticeGet r max waitUs) (ansNoticeGet r max waitUs) s)

/-! ### DEVICE_START, DEVICE_STOP, DRAIN, PART_LAYOUT, SELECT_PROFILE -/

/-- R353: DEVICE_START gives the module its fabric address. -/
def ansDeviceStart (fabAddr : BitVec 32) (s : State) : Answer :=
  if fabAddr.toNat < 2 ^ 17 then
    ok (modFab (modHub s fun h => { h with started := true }) fun f => { f with addr := fabAddr.setWidth 17, valid := true }) []
  else err s stBadArg 0

def execDeviceStart (r : Req) (fabAddr : BitVec 32) (s : State) : Host.Outcome State Fault Refusal :=
  done (serve 0x0004 0x004 r (.deviceStart r fabAddr) (ansDeviceStart fabAddr) s)

/-- Some context is not closed. -/
def anyOpen (s : State) : Bool := s.ctxs.toList.any fun x => x.st != .closed

/-- R353: DEVICE_STOP. -/
def ansDeviceStop (s : State) : Answer :=
  if anyOpen s then conflict s 5 1 0x1
  else ok (modFab (modHub s fun h => { h with started := false }) fun f => { f with valid := false, addr := 0 }) []

def execDeviceStop (r : Req) (s : State) : Host.Outcome State Fault Refusal :=
  done (serve 0x0005 0x008 r (.deviceStop r) ansDeviceStop s)

/-- R353: DRAIN: MODE 0 waits for every stream, MODE 1 fences every context. -/
def ansDrain (r : Req) (mode : BitVec 8) (deadlineMs : BitVec 32) (s : State) : Answer :=
  if mode.toNat ≤ 1 && within 1 60000 deadlineMs.toNat then
    let s := modHub (handed s r) fun h => { h with draining := true, drainReq := some (r, mode.toNat) }
    later (if mode = 1 then
      (List.range 64).foldl (fun s c => if (getCtx s c).st = .opened then startFence s c none else s) s else s)
  else err s stBadArg 0

def execDrain (r : Req) (mode : BitVec 8) (deadlineMs : BitVec 32) (s : State) : Host.Outcome State Fault Refusal :=
  done (serve 0x0006 0x118 r (.drain r mode deadlineMs) (ansDrain r mode deadlineMs) s)

/-- R353, R349: the deadline of a DRAIN passes: a MODE 0 drain ends with TIMEOUT in the previous state. -/
def execDrainDeadline (s : State) : Host.Outcome State Fault Refusal :=
  done (match s.hub.drainReq with
    | some (r, 0) =>
      let s := modHub s fun h => { h with draining := false, drainReq := none }
      respond s r 0x0006 stTimeout 0 0 0x118 []
    | _ => s)

/-- Load the regulators of every partition. -/
def loadReguls (s : State) : State := (List.range (partCount s.hub.layout)).foldl loadRegul s

/-- R6, R28, R353: PART_LAYOUT. -/
def ansPartLayout (layout : BitVec 8) (s : State) : Answer :=
  if 3 ≤ layout.toNat then err s stBadArg 0
  else if layout = 2 && s.opt.m54 then err s stUnsupported 0
  else if anyOpen s then conflict s 5 1 0x1
  else ok (loadReguls (modHub s fun h => { h with layout := layout.setWidth 2 })) []

def execPartLayout (r : Req) (layout : BitVec 8) (s : State) : Host.Outcome State Fault Refusal :=
  done (serve 0x0007 setCfg r (.partLayout r layout) (ansPartLayout layout) s)

/-- R366: every device-wide setting from the layers of the profile in force. -/
def loadProfile (s : State) : State :=
  let s := loadDevice s
  let lay := (devSetting s 0x200).toNat
  let s := modHub s fun h => { h with layout := if lay = 2 ∧ s.opt.m54 then 0 else BitVec.ofNat 2 lay }
  let s := modFab s fun f => { f with perLink := devSetting s 0x201 == 1 }
  loadReguls s

/-- R366: the override that PERSIST writes: the copy not in force becomes the later copy. -/
def persistProfile (s : State) (p : Option (BitVec 2)) : State :=
  modMail s fun m =>
    let cur := copyInForce s
    let new := { cur with gen := cur.gen + 1, profOk := p.isSome, profile := p.getD 0, headerOk := true, digestOk := true }
    if s.hub.cfgCopyB then { m with copyA := { new with factoryOk := m.copyA.factoryOk } }
    else { m with copyB := { new with factoryOk := m.copyB.factoryOk } }

/-- R366, R365: SELECT_PROFILE. -/
def ansSelectProfile (profile persist : BitVec 8) (s : State) : Answer :=
  if !(decide (profile.toNat ≤ 3) || profile == 0xFF) || decide (1 < persist.toNat) then err s stBadArg 0
  else if s.hub.safe then err s stDenied 0
  else if s.mail.session.isSome then err s stBusy 0
  else
    let p : BitVec 2 := if profile = 0xFF then s.pins.profSel else profile.setWidth 2
    let s := modMail s fun m => { m with volatile := [] }
    let s := loadProfile (modHub s fun h => { h with profile := p })
    ok (if persist = 1 then persistProfile s (if profile = 0xFF then none else some p) else s) []

def execSelectProfile (r : Req) (profile persist : BitVec 8) (s : State) : Host.Outcome State Fault Refusal :=
  done (serve 0x0008 0x004 r (.selectProfile r profile persist) (ansSelectProfile profile persist) s)

/-! ### TIME_CONFIG, ROUTE_WRITE, PORT_RETRAIN (R354) -/

/-- R360: a record command carries 1 to 253 records. -/
def recsOk (recs : List Setting) : Bool := within 1 253 recs.length

/-- R354, R360: TIME_CONFIG. -/
def ansTimeConfig (recs : List Setting) (s : State) : Answer :=
  if !recsOk recs then err s stBadArg 0
  else match firstBad (fun k => decide (0x100 ≤ k ∧ k ≤ 0x105)) (valueOk (fun _ => 0) 0 true) 4 recs with
    | some i => err s stBadArg i
    | none => ok (loadDevice (setVolatile s recs)) []

def execTimeConfig (r : Req) (recs : List Setting) (s : State) : Host.Outcome State Fault Refusal :=
  if wellFormed (.timeConfig r recs) then done (serve 0x0102 setUp r (.timeConfig r recs) (ansTimeConfig recs) s)
  else .fault (.illFormed "TIME_CONFIG")

/-- R267, R4: a route code: a fitted group, this module, or unreachable. -/
def routeCodeOk (s : State) (g : Nat) : Bool := decide (g < groupCount s) || g == 0xE || g == 0xF

/-- R267: an entry may be written. -/
def routeOk (s : State) (e : BitVec 16) : Bool :=
  let g := e.toNat % 16
  let a := e.toNat / 16 % 16
  routeCodeOk s g && routeCodeOk s a && e.toNat / 256 == 0 && !(decide (g ≤ 8) && a == g)

/-- R354, R267, R268: ROUTE_WRITE. A DATELINE bit of a group that is not fitted is refused (assumption log 116). -/
def ansRouteWrite (first : BitVec 32) (dateline : BitVec 16) (entries : List (BitVec 16)) (s : State) : Answer :=
  if !within 1 2000 entries.length || decide (131072 < first.toNat + entries.length) ||
      decide (2 ^ groupCount s ≤ dateline.toNat) then err s stBadArg 0
  else match entries.findIdx? (fun e => !routeOk s e) with
    | some i => err s stBadArg i
    | none =>
      let rs := ((List.range entries.length).zip entries).foldl (fun m p => mapSet m (first.toNat + p.1) p.2) s.fab.routes
      let s := modFab s fun f => { f with routes := rs, dateline := dateline.setWidth 9, routeGen := f.routeGen + 1 }
      ok s (leBytes 4 s.fab.routeGen.toNat)

def execRouteWrite (r : Req) (first : BitVec 32) (dateline : BitVec 16) (entries : List (BitVec 16)) (s : State) :
    Host.Outcome State Fault Refusal :=
  if wellFormed (.routeWrite r first dateline entries) then
    done (serve 0x0103 setLive r (.routeWrite r first dateline entries) (ansRouteWrite first dateline entries) s)
  else .fault (.illFormed "ROUTE_WRITE")

/-- R258, R401: a port changes its state; the change is recorded in the lifetime record. -/
def setPortState (s : State) (p : Nat) (st : PortState) : State :=
  if (getPort s p).st = st then s
  else lifeAdd (modPort s p fun b => { b with st := st }) 0x38 1

/-- R258, R43: a port that has left UP_X4 no longer serves as the time parent. -/
def dropParent (s : State) (p : Nat) : State :=
  if s.time.parent = some p ∧ (getPort s p).st ≠ .upX4 then
    modTime s fun t => { t with holdover := t.holdover || (!t.master && (t.st == .locked || t.st == .unlocked)), parent := none }
  else s

/-- R258, R380: a port goes to TRAINING: its unacknowledged frames leave by another port of the group, or are lost. -/
def portToTraining (s : State) (p : Nat) : State :=
  let up := portUp (getPort s p)
  let s := if up then tally s (216 + p) [(0x1400 + 24 * p + 12, 1)] else s
  let s := dropParent (resendBuf (setPortState s p .training) p) p
  modPort s p fun b => { b with
    retrain := if up then b.retrain + 1 else b.retrain, relockAt := none, rxNext := 0, checkFails := []
    waiting := false
    trains := s.ticks :: (b.trains.filter fun t => decide (s.ticks < t + 3600 * ticksPerSec)) }

/-- R354, R258: PORT_RETRAIN. -/
def ansPortRetrain (port full : BitVec 8) (s : State) : Answer :=
  let p := port.toNat
  if decide (portCount s ≤ p) || decide (1 < full.toNat) then err s stBadArg 0
  else match (groupPorts s (p / 4)).find? (fun q => q != p && ((getPort s q).st == .training || (getPort s q).st == .relock)) with
    | some q => conflict s 4 (portCode (getPort s q).st) 0x2D
    | none =>
      let s := if full = 1 then modPort s p fun b => { b with excluded := 0, failedOnce := 0, dueLanes := 0, trains := [] } else s
      ok (portToTraining s p) []

def execPortRetrain (r : Req) (port full : BitVec 8) (s : State) : Host.Outcome State Fault Refusal :=
  done (serve 0x0104 setLive r (.portRetrain r port full) (ansPortRetrain port full) s)

end Sys2Proof.Machine
end

