-- ==== Sys2Proof/Machine/Contexts.lean ====
section
/-! DEFINITION. The context and memory commands (R355), CTX_RECOVER (R387), and the events of the context fence (R381). -/

namespace Sys2Proof.Machine

/-- The context a command names, not closed: STATE_CONFLICT on unit 0x05 when closed. -/
def withOpen (s : State) (r : Req) (f : Nat → Context → Answer) : Answer :=
  let c := r.ctx.toNat
  if 64 ≤ c then err s stBadArg 0
  else if (getCtx s c).st = .closed then conflict s 5 0 0x2 else f c (getCtx s c)

/-! ### CTX_OPEN (R355, R386) -/

/-- Entries of the Page Map (R215). -/
def pmEntries : Nat := 163840

/-- A range of Page Map entries is free of every other context's range. -/
def rangeFree (s : State) (lo n : Nat) : Bool :=
  s.ctxs.toList.all fun x => x.pmLen = 0 || decide (lo + n ≤ x.pmBase.toNat) || decide (x.pmBase.toNat + x.pmLen.toNat ≤ lo)

/-- The lowest free range of `n` entries: it begins at 0 or at the end of a range in use (assumption log 15). -/
def findRange (s : State) (n : Nat) : Option Nat :=
  ((0 :: s.ctxs.toList.filterMap fun x => if x.pmLen = 0 then none else some (x.pmBase.toNat + x.pmLen.toNat)).filter
    fun b => decide (b + n ≤ pmEntries) && rangeFree s b n).min?

/-- R200: a channel of the partition is mapped out. -/
def partLost (s : State) (p : Nat) : Bool :=
  (List.range (chanCount s)).any fun n => chanPart s n == p && (s.hub.chanMap.getD n { ctrl := 0, status := .unmapped }).status == .mappedOut

/-- The ledger of a fresh context: the counters of R316 stay, every placement generation starts cleared, and the starting
version is that of START_STEP's default (R296). -/
def freshLedger (l : Ledger) : Ledger :=
  { Ledger.reset with aborts := l.aborts, pgenDrop := l.pgenDrop, recDrop := l.recDrop }

/-- The Peal state of a fresh context: the counters of R335 stay. -/
def freshPeal (p : Peal) : Peal :=
  { Peal.reset with count := p.count, fail := p.fail, predict := p.predict, skipped := p.skipped }

/-- R386, R412, R419: open a context: the generation moves, a confidential partition's context gets a key set. -/
def openCtx (s : State) (c p base : Nat) (len : BitVec 18) : State :=
  let x := getCtx s c
  let k := s.sec.nextKey
  let conf := isConf s p
  let s := if conf then modSecCore s fun z => { z with nextKey := k + 1 } else s
  let s := setCtx s c { Context.reset with
    st := .opened, cgen := x.cgen + 1, part := p, pmBase := BitVec.ofNat 18 base, pmLen := len, trnBusy := x.trnBusy,
    led := freshLedger x.led, peal := freshPeal x.peal,
    sec := { CtxSec.reset with keys := if conf then #v[some k, none] else Vector.replicate 2 none } }
  loadStart s c 1

/-- R355: CTX_OPEN. -/
def ansCtxOpen (r : Req) (part : BitVec 8) (pmLen : BitVec 32) (s : State) : Answer :=
  let c := r.ctx.toNat
  if 64 ≤ c ∨ partCount s.hub.layout ≤ part.toNat ∨ pmLen = 0 then err s stBadArg 0
  else if (getCtx s c).st ≠ .closed then conflict s 5 1 0x1
  else if partLost s part.toNat then err s stFenced 0
  else match findRange s pmLen.toNat with
    | none => err s stNoResource 0
    | some b =>
      let s := openCtx s c part.toNat b (pmLen.setWidth 18)
      ok s (leBytes 4 b ++ leBytes 2 (getCtx s c).cgen.toNat)

def execCtxOpen (r : Req) (part : BitVec 8) (pmLen : BitVec 32) (s : State) : Host.Outcome State Fault Refusal :=
  done (serve 0x0201 setWork r (.ctxOpen r part pmLen) (ansCtxOpen r part pmLen) s)

/-! ### CTX_CLOSE, CTX_RECOVER (R387, R389, R390) -/

/-- R379: a domain reset holds the context fenced. -/
def domainHeld (x : Context) : Bool := x.domains != 0

/-- R389: CTX_CLOSE begins a fence, or joins the one that runs; a context already FENCED is torn down at once. -/
def ansCtxClose (r : Req) (s : State) : Answer :=
  withOpen s r fun c x =>
    if domainHeld x then err s stFenced 0
    else match x.st with
      | .fenced => ok (closeCtx s c) []
      | _ => later (startFence (handed s r) c (some (1, r)))

def execCtxClose (r : Req) (s : State) : Host.Outcome State Fault Refusal :=
  done (serve 0x0202 setLive r (.ctxClose r) (ansCtxClose r) s)

/-- R387, R390, R416: CTX_RECOVER. -/
def ansCtxRecover (r : Req) (s : State) : Answer :=
  withOpen s r fun c x =>
    if x.led.st = .commitPending then conflict s 1 3 0x37
    else if x.sec.locked then err s stDenied 0
    else if domainHeld x then err s stFenced 0
    else match x.st with
      | .fenced =>
        let s := resumeCtx s c
        ok s (leBytes 2 (getCtx s c).cgen.toNat)
      | _ => later (startFence (handed s r) c (some (0, r)))

def execCtxRecover (r : Req) (s : State) : Host.Outcome State Fault Refusal :=
  done (serve 0x0606 setLive r (.ctxRecover r) (ansCtxRecover r) s)

/-- R379, R381: a fence of a context begins. -/
def execFenceContext (c : Ctx) (s : State) : Host.Outcome State Fault Refusal :=
  done (if (getCtx s c.val).st = .opened then startFence s c.val none else s)

/-- R381, R385: the drain of a fence completes, when nothing it awaits is left. -/
def execFenceDrainComplete (c : Ctx) (s : State) : Host.Outcome State Fault Refusal :=
  done (if (getCtx s c.val).st = .fencing && fenceDrained s c.val then finishFence s c.val else s)

/-! ### CTX_CONFIG, JOB_CONFIG, MEM_POLICY (R360) -/

/-- In-service cores of a context's partition (R136). -/
def coresIn (s : State) (x : Context) : Nat := (partCores s x.part).length

/-- R355: CTX_CONFIG sets SR_SEED. -/
def ansCtxConfig (r : Req) (recs : List Setting) (s : State) : Answer :=
  withOpen s r fun c x =>
    if !recsOk recs then err s stBadArg 0
    else match firstBad (fun k => k == 0x900) (valueOk (ctxAfter s c recs) (coresIn s x) true) 4 recs with
      | some i => err s stBadArg i
      | none => ok (setCtxValues s c recs) []

def execCtxConfig (r : Req) (recs : List Setting) (s : State) : Host.Outcome State Fault Refusal :=
  if wellFormed (.ctxConfig r recs) then done (serve 0x0203 setWork r (.ctxConfig r recs) (ansCtxConfig r recs) s)
  else .fault (.illFormed "CTX_CONFIG")

/-- R355: keys of JOB_CONFIG. -/
def jobKey (k : Nat) : Bool :=
  decide (0x300 ≤ k ∧ k ≤ 0x301) || isRegulKey k || decide (0x500 ≤ k ∧ k ≤ 0x8FF)

/-- R285: keys of the step record. -/
def regionKey (k : Nat) : Bool := decide (0x700 ≤ k ∧ k ≤ 0x70B)

/-- A record list names a key of a kind. -/
def names (recs : List Setting) (p : Nat → Bool) : Bool := recs.any fun r => p r.key.toNat

/-- Position of the first record of a kind. -/
def firstOf (recs : List Setting) (p : Nat → Bool) : Nat := (recs.findIdx? fun r => p r.key.toNat).getD 0

/-- R232, R285, R296: what JOB_CONFIG does with checked records. -/
def takeJob (s : State) (c : Nat) (recs : List Setting) (layers : Option (List (BitVec 256))) : State :=
  let s := setCtxValues s c recs
  let s := setVolatile s (recs.filter fun r => isRegulKey r.key.toNat)
  let s := if names recs isRegulKey then loadReguls s else s
  let s := match layers with
    | some l => if jobRuns (getCtx s c).led then modLed s c fun q => { q with pendLayers := some l }
      else modCtx s c fun x => { x with layers := l }
    | none => s
  let s := if names recs (· == 0x710) then loadStart s c (ctxSetting s c 0x710) else s
  applyRegions (loadCores s c) c

/-- R355, R285, R296, R241: JOB_CONFIG. -/
def ansJobConfig (r : Req) (recs : List Setting) (s : State) : Answer :=
  withOpen s r fun c x =>
    let get := ctxAfter s c recs
    if !recsOk recs then err s stBadArg 0
    else match firstBad jobKey (valueOk get (coresIn s x) true) (partCount s.hub.layout) recs with
      | some i => err s stBadArg i
      | none =>
        let armed := x.led.st != .idle && x.led.st != .aborted
        if names recs regionKey && armed then conflict s 1 (dbCode x.led.st) 0x21
        else if names recs (· == 0x710) && (x.led.st != .idle || x.led.everArmed) then conflict s 1 (dbCode x.led.st) 0x1
        else if (names recs regionKey || names recs (fun k => k == 0x604 || k == 0x606)) && anyOverlap (stepRegions get) then
          err s stBadArg (firstOf recs regionKey)
        else if names recs (fun k => k == 0x607 || k == 0x608) then
          match readLayers s c get with
          | some l => ok (takeJob s c recs (some l)) []
          | none => err s stBadArg (firstOf recs fun k => k == 0x607 || k == 0x608)
        else ok (takeJob s c recs none) []

def execJobConfig (r : Req) (recs : List Setting) (s : State) : Host.Outcome State Fault Refusal :=
  if wellFormed (.jobConfig r recs) then done (serve 0x0204 setWork r (.jobConfig r recs) (ansJobConfig r recs) s)
  else .fault (.illFormed "JOB_CONFIG")

/-- R355, R210: MEM_POLICY. -/
def ansMemPolicy (recs : List Setting) (s : State) : Answer :=
  if !recsOk recs then err s stBadArg 0
  else match firstBad (fun k => decide (0x400 ≤ k ∧ k ≤ 0x405)) (valueOk (fun _ => 0) 0 true) 4 recs with
    | some i => err s stBadArg i
    | none => ok (loadDevice (setVolatile s recs)) []

def execMemPolicy (r : Req) (recs : List Setting) (s : State) : Host.Outcome State Fault Refusal :=
  if wellFormed (.memPolicy r recs) then done (serve 0x0207 setUp r (.memPolicy r recs) (ansMemPolicy recs) s)
  else .fault (.illFormed "MEM_POLICY")

/-! ### Page Map entries (R216) -/

/-- A valid entry is a window. -/
def isWindow (e : BitVec 64) : Bool := e.getLsbD 0 && entField e 1 2 != 0
/-- A valid entry is local. -/
def isLocal (e : BitVec 64) : Bool := e.getLsbD 0 && entField e 1 2 == 0

/-! ### STREAM_START (R169, R234, R243 to R247) -/

/-- A stream start, with its operands. -/
structure Start where
  core   : Nat
  slot   : Nat
  cls    : BitVec 8
  role   : BitVec 8
  shard  : BitVec 8
  pgen   : BitVec 8
  desc   : BitVec 64
  recVa  : BitVec 64

/-- R355: operands out of range. -/
def startBad (s : State) (x : Context) (q : Start) : Bool :=
  (decide (128 ≤ q.core) && q.core != 0xFF) || (decide (q.core < 128) && corePart s q.core != x.part) || decide (16 ≤ q.slot) ||
  decide (3 ≤ q.cls.toNat) || decide (3 ≤ q.role.toNat) || decide (2 ≤ q.shard.toNat) ||
  decide (2 ^ 48 ≤ q.desc.toNat) || q.desc.toNat % 32 != 0 || decide (2 ^ 48 ≤ q.recVa.toNat)

/-- R245: the first descriptor is a SETBASE of BR 4 with VALUE 0. -/
def setbaseFirst (s : State) (c : Nat) (va : Nat) : Bool :=
  match readBytesVa s c va 32 with
  | some (_, b) =>
    let d := descOf b
    opcodeOf d == opSetbase && (controlBad d).isNone && dfield d 32 3 == 4 && dfield d 35 48 == 0
  | none => false

/-- R278: a confidential context without an end-to-end key sends only in per-link mode. -/
def mustWaitKey (s : State) (c : Nat) : Bool := needsLink s c && !s.fab.perLink

/-- The streams of the named cores that stand against a start (R169): core and slot. -/
def startBlock (s : State) (c : Nat) (cores : List Nat) (slot : Nat) : Option (StreamState × BitVec 32) :=
  cores.findSome? fun n =>
    let k := getC s n
    if k.ctx ≠ some c then
      (k.streams.toList.find? fun t => t.st != .idle).map fun t => (t.st, 0x1)
    else
      let t := getStream k slot
      if t.st = .idle ∨ t.st = .halted then none else some (t.st, 0x5)

/-- What a work item's start decides: the version its BR4 names, and the change to the record and the slots. -/
inductive Plan where
  | bad
  | busy
  | go (version : Option (BitVec 48)) (item : Option Item) (effect : State → State)

/-- R243, R246: a READ start on its record. -/
def planRead (s : State) (c : Nat) (x : Context) (q : Start) : Plan :=
  match readRec s c (q.recVa.setWidth 48) with
  | none => .bad
  | some rc =>
    let lag := ctxSetting s c 0x604
    let newest := rc.step - BitVec.ofNat 48 lag
    let v := if rc.state = 2 then rc.wver else if newest.toNat < x.startVer.toNat ∨ rc.step.toNat < lag then x.startVer else newest
    if rc.state ≠ 0 ∧ rc.state ≠ 2 then .bad
    else if rc.step.toNat < x.startVer.toNat ∨ v.toNat < x.startVer.toNat ∨ (rc.state = 2 ∧ newest.toNat < v.toNat ∧ v ≠ x.startVer) then .bad
    else
      let sl := x.vslots.getD (verSlot s c v) (.free, 0)
      if sl.1 ≠ .committed ∨ sl.2 ≠ v then .busy
      else
        let va := q.recVa.setWidth 48
        let it : Item := { role := 1, mirror := false, recVa := va, backward := rc.state == 2, step := rc.step }
        .go (some v) (some it) fun s =>
          let s := if rc.state = 0 then putForced s c (va.toNat + 8) (leBytes 8 v.toNat) else s
          let s := setRecState s c va (rc.state + 1)
          let s := modLed s c fun l => { l with records := if l.records.contains va then l.records else l.records ++ [va] }
          let s := modCtx s c fun x => { x with trnStep := if x.trnStep.toNat < rc.step.toNat then rc.step else x.trnStep }
          modTiming s c rc.step fun t => { t with tStart := if t.tStart = 0 then s.time.now else t.tStart }

/-- R246, R247, R287: a WRITE start, for the step after the last committed one. -/
def planWrite (s : State) (c : Nat) (x : Context) (q : Start) : Plan :=
  let step := x.led.committed + 1
  let v := step + 1
  let i := verSlot s c v
  let sl := x.vslots.getD i (.free, 0)
  let mirror := q.shard == 1
  let slotOk := mirror || sl.1 == .free || (sl.1 == .writing && sl.2 == v && x.led.redo)
  if x.led.st = .commitPending || x.led.auditCopy || !recordsDone s c step || !slotOk then .busy
  else
    let it : Item := { role := 2, mirror := mirror, recVa := 0, backward := false, step := step }
    .go (some v) (some it) fun s =>
      let s := if mirror then modLed s c fun l => { l with mirrorStarted := true }
        else setVer (modLed s c fun l => { l with ownStarted := true, redo := false }) c i (.writing, v)
      modCtx s c fun x => { x with trnStep := if x.trnStep.toNat < step.toNat then step else x.trnStep }

/-- R234, R246: the plan of a start. -/
def planStart (s : State) (c : Nat) (x : Context) (q : Start) : Plan :=
  match q.role.toNat with
  | 0 => .go none none id
  | 1 => if setbaseFirst s c q.desc.toNat then planRead s c x q else .bad
  | _ => if setbaseFirst s c q.desc.toNat then planWrite s c x q else .bad

/-- R169, R449: start one stream. -/
def startOne (s : State) (n c : Nat) (q : Start) (item : Option Item) : State :=
  let s := wakeFrom s n
  modC s n fun k => modStream k q.slot fun t => { Stream.reset with
    st := .running, cls := q.cls.setWidth 2, ctx := c, pgen := q.pgen, first := q.desc.setWidth 48, pc := q.desc.setWidth 48,
    prog := t.prog, item := item }

/-- R169: begin work on a core, unless it serves the context under an unchanged generation. -/
def beginIfNew (s : State) (n c : Nat) : State :=
  if (getC s n).ctx = some c ∧ (getC s n).gen = (getCtx s c).cgen then s else beginWork s n c

/-- R355, R169, R245, R246, R278, R21, R333: STREAM_START. -/
def ansStreamStart (r : Req) (q : Start) (s : State) : Answer :=
  withCtx s r fun c x =>
    if startBad s x q then err s stBadArg 0
    else if decide (q.core < 128) && !inService s q.core then err s stFenced 0
    else if mustWaitKey s c then conflict s 5 1 0
    else if x.led.noState && q.role != 0 then conflict s 1 (dbCode x.led.st) 0
    else
      let cores := if q.core = 0xFF then partCores s x.part else [q.core]
      match startBlock s c cores q.slot with
      | some (st, legal) => conflict s 3 (streamCode st) legal
      | none =>
        match planStart s c x q with
        | .bad => err s stBadArg 0
        | .busy => err (modCtx s c fun x => { x with trnBusy := x.trnBusy + 1 }) stBusy 0
        | .go v item effect =>
          let s := effect s
          let s := match v with
            | some v =>
              let base := (ctxSetting s c 0x605 + verSlot s c v * ctxSetting s c 0x606) % 2 ^ 48
              -- VALUE [82:35] of the SETBASE: bytes 4 to 10 of the descriptor
              putForced s c (q.desc.toNat + 4) (leBytes 7 (base * 8 + 4))
            | none => s
          let s := cores.foldl (fun s n => beginIfNew s n c) s
          ok (cores.foldl (fun s n => startOne s n c q item) s) []

def execStreamStart (r : Req) (core slot cls role shard pgen : BitVec 8) (descVa recVa : BitVec 64) (s : State) :
    Host.Outcome State Fault Refusal :=
  let q : Start := { core := core.toNat, slot := slot.toNat, cls := cls, role := role, shard := shard, pgen := pgen, desc := descVa, recVa := recVa }
  doneMem (serve 0x0208 setWork r (.streamStart r core slot cls role shard pgen descVa recVa) (ansStreamStart r q) s)

end Sys2Proof.Machine
end

