-- ==== Sys2Proof/Machine/Collective.lean ====
section
/-! DEFINITION. COLL_START (R354, R269), the instructions of the collective engines, their deadlines, and the packets
they receive. A program's launch stands in Launch.lean. -/

namespace Sys2Proof.Machine

/-- R354, R269, R278: COLL_START. -/
def ansCollStart (r : Req) (engine : BitVec 8) (progVa tLaunch : BitVec 64) (s : State) : Answer :=
  withCtx s r fun c _ =>
    if 4 ≤ engine.toNat then err s stBadArg 0
    else if mustWaitKey s c then conflict s 5 1 0
    else match loadProgram s c progVa (tLaunch.setWidth 40) false with
      | none => err s stBadArg 0
      | some (s, p) =>
        if engineFull s engine.toNat then err s stNoResource 0 else ok (queueProgram s engine.toNat p) []

def execCollStart (r : Req) (engine : BitVec 8) (progVa tLaunch : BitVec 64) (s : State) : Host.Outcome State Fault Refusal :=
  doneMem (serve 0x0105 setWork r (.collStart r engine progVa tLaunch) (ansCollStart r engine progVa tLaunch) s)

/-! ### Data instructions (R271) -/

def execSend (e : Die) (n : Fin 4) (s : State) : Host.Outcome State Fault Refusal := doneMem (runData s e.val n.val cSend)
def execRecv (e : Die) (n : Fin 4) (s : State) : Host.Outcome State Fault Refusal := doneMem (runData s e.val n.val cRecv)
def execRecvReduce (e : Die) (n : Fin 4) (s : State) : Host.Outcome State Fault Refusal :=
  doneMem (runData s e.val n.val cRecvReduce)
def execReduceSend (e : Die) (n : Fin 4) (s : State) : Host.Outcome State Fault Refusal :=
  doneMem (runData s e.val n.val cReduceSend)
def execRecvSend (e : Die) (n : Fin 4) (s : State) : Host.Outcome State Fault Refusal :=
  doneMem (runData s e.val n.val cRecvSend)

/-- R274: nothing has come on the channel of a RECV-type instruction for TIMEOUT. -/
def execCollRecvTimeout (e : Die) (n : Fin 4) (s : State) : Host.Outcome State Fault Refusal :=
  done (match runningAt s e.val n.val with
    | some p => (match curInstr p with
      | some i => if isRecv i.op && (mapGet? p.rx (chunkKey i.chIn (mapGet p.got i.chIn 0))).isNone then
          failProgram s e.val n.val p 1 else s
      | none => s)
    | none => s)

/-! ### AND and BCAST (R273, R297 to R299) -/

def execAnd (e : Die) (n : Fin 4) (s : State) : Host.Outcome State Fault Refusal :=
  done (atInstr s e.val n.val cAnd fun p i => match andValue s p i with
    | some v => andDone s e.val n.val p i v
    | none => s)

/-- R273, R299: the AND's TIME passes: a bit that has not arrived counts as 0, and a module whose own bit is held back
has voted. -/
def execAndDeadline (e : Die) (n : Fin 4) (s : State) : Host.Outcome State Fault Refusal :=
  done (atInstr s e.val n.val cAnd fun p i =>
    if reached s (timeOf p i) then
      let v := (andValue s p i).getD false
      let l := (getCtx s p.ctx).led
      let s := if isDownbeat p.ctx l p && l.st == .armed then
          showReason (modLed s p.ctx fun l => { l with st := .voted }) p.ctx (((firstUnmet s p.ctx).map (·.1)).getD 0)
        else s
      andDone s e.val n.val p i v
    else s)

def execBcast (e : Die) (n : Fin 4) (s : State) : Host.Outcome State Fault Refusal :=
  done (atInstr s e.val n.val cBcast fun p i =>
    if i.root then
      match p.rootAnd with
      | some v => bcastDone s e.val n.val p i v p.rootTime
      | none => s
    else match valueIn p i with
      | some (v, t) => bcastDone s e.val n.val p i v t
      | none => s)

/-- R273, R298: no value has come by TIME: the result is TIMEOUT, and its commit time is open. -/
def execBcastTimeout (e : Die) (n : Fin 4) (s : State) : Host.Outcome State Fault Refusal :=
  done (atInstr s e.val n.val cBcast fun p i =>
    if !i.root && (valueIn p i).isNone && reached s (timeOf p i) then
      let f := drawFree s 40
      let s := setRunning f.2 e.val n.val (nextInstr p)
      let s := setEngine s e.val { getEngine s e.val with result := BitVec.ofNat 64 (f.1.toNat + 2 ^ 62) }
      if isDownbeat p.ctx (getCtx s p.ctx).led p then downbeatResult s p.ctx none else s
    else s)

/-! ### WAIT_TIME, SIGNAL, END (R271) -/

/-- WAIT_TIME issues: its time is armed and evaluated for the first time (R51); a waiting one fires by LAUNCH_FIRE. -/
def execWaitTime (e : Die) (n : Fin 4) (s : State) : Host.Outcome State Fault Refusal :=
  done (atInstr s e.val n.val cWaitTime fun p i =>
    if p.waitArm.isSome then s
    else
      let q := evalArmed s (armTime s (timeOf p i))
      match q.1 with
      | .wait => setRunning s e.val n.val { p with waitArm := some q.2 }
      | .onTime => setRunning s e.val n.val (nextInstr p)
      | .late => setRunning (countLate s) e.val n.val (nextInstr p))

def execCollSignal (e : Die) (n : Fin 4) (s : State) : Host.Outcome State Fault Refusal :=
  done (atInstr s e.val n.val cSignal fun p i => signalDone s e.val n.val p i)

def execCollEnd (e : Die) (n : Fin 4) (s : State) : Host.Outcome State Fault Refusal :=
  done (atInstr s e.val n.val cEnd fun _ _ => endProgram s e.val n.val)

/-! ### Packets (R270, R273, R274, R277) -/

/-- R270, R274, R277: COLL_DATA reaches the module: matched by source and tag to a running program, else dropped. -/
def takeCollData (k : Packet) (tagOk : Bool) (s : State) : State :=
  match acceptCtr s k tagOk with
  | none => modFab s fun f => { f with dropAuth := f.dropAuth + 1 }
  | some s =>
    let tag : BitVec 16 := k.addr.extractLsb' 0 16
    match findChannel s k.src tag false with
    | none => modFab s fun f => { f with dropStale := f.dropStale + 1 }
    | some (e, n, c) =>
      match runningAt s e n with
      | some p => setRunning s e n { p with rx := mapSet p.rx (chunkKey c (k.addr.extractLsb' 16 32).toNat) k.blocks }
      | none => s

/-- R273: COLL_CTRL reaches the module: it concerns a running program, or one that is queued, which keeps it till its launch. -/
def takeCollCtrl (k : Packet) (s : State) : State :=
  match k.ctrl with
  | none => s
  | some b =>
    let tag : BitVec 16 := k.addr.extractLsb' 0 16
    match findChannel s k.src tag false with
    | some (e, n, c) =>
      (match runningAt s e n with
       | some p => earlyResult (setRunning s e n (takeCtrl p c b)) p b
       | none => s)
    | none =>
      match findChannel s k.src tag true with
      | some (e, n, c) =>
        let g := getEngine s e
        (match g.queued[n]? with
         | some p => earlyResult (setEngine s e { g with queued := g.queued.set n (takeCtrl p c b) }) p b
         | none => s)
      | none => modFab s fun f => { f with dropStale := f.dropStale + 1 }

end Sys2Proof.Machine
end

