-- ==== Sys2Proof/Machine/Time.lean ====
section
/-! DEFINITION. Fabric Time: TIME_MASTER, time frames and exchanges, acquisition, holdover, the cadence input and
TIME_PPS_OUT (02_fabric_time.md). The evaluation of armed times stands in Launch.lean, the Beat in Beat.lean. -/

namespace Sys2Proof.Machine

/-! ### States (R41) -/

/-- One nanosecond of the error estimate, in 10^-6 ps. -/
def errNs : Nat := 1000000000

/-- R41, R44: enter UNLOCKED. -/
def toUnlocked (s : State) : State :=
  lifeAdd (modTime s fun t => { t with st := .unlocked, unlockCount := t.unlockCount + 1, good := 0 }) 0x34 1

/-- R41: LOCKED is left when the estimate exceeds 20 ns; a master stays LOCKED. -/
def checkUnlocked (s : State) : State :=
  if s.time.st = .locked && !s.time.master && decide (20 * errNs < s.time.err) then toUnlocked s else s

/-- R42, R41: the load of ACQUIRING is complete: every comparison that has waited for it is evaluated. -/
def acquired (s : State) (now : BitVec 64) (err : Nat) : State :=
  let s := modTime s fun t => { t with now := now, err := err, errValid := true, slew := 0, good := 0, holdover := false }
  let s := if err ≤ 10 * errNs then modTime s fun t => { t with st := .locked } else toUnlocked s
  drivePps 1 (mapArmed (lookNow s) s)

/-! ### The master (R45) -/

/-- R45, R354: TIME_MASTER. A parent that displaces this master later counts as a parent change (assumption log 112). -/
def ansTimeMaster (epoch : BitVec 64) (gen : BitVec 16) (s : State) : Answer :=
  let g : BitVec 15 := gen.setWidth 15
  if 2 ^ 15 ≤ gen.toNat || (s.time.st != .unset && g != s.time.gen + 1) then err s stBadArg 0
  else
    let load := s.time.st == .unset || s.time.st == .acquiring
    let s := modTime s fun t => { t with
      master := true, masterAddr := s.fab.addr, gen := g, seen := [], parent := none, hops := 0, hadParent := true }
    let s := if load then acquired s epoch 0
      else modTime s fun t => { t with st := .locked, err := 0, errValid := true, holdover := false, slew := 0, good := 0 }
    ok s (leBytes 4 (timeStatus s).toNat)

def execTimeMaster (r : Req) (epoch : BitVec 64) (gen : BitVec 16) (s : State) : Host.Outcome State Fault Refusal :=
  done (serve 0x0101 setUp r (.timeMaster r epoch gen) (ansTimeMaster epoch gen) s)

/-! ### Frames (R38, R39) -/

/-- TIME_NOW in 1/16 tick. -/
def nowFine (t : TimeBlock) : BitVec 68 := t.now.setWidth 68 <<< 4

/-- R38: the error estimate a frame carries, in ps; all ones while none is held (assumption log 113). -/
def frameErr (t : TimeBlock) : BitVec 32 :=
  if t.errValid then BitVec.ofNat 32 (min (t.err / 1000000) (2 ^ 32 - 1)) else 0xFFFFFFFF

/-- R38: the frame a port sends; a module in UNSET names no master (assumption log 113). -/
def frameOut (s : State) (p : Nat) : TimeFrame :=
  { master := s.time.masterAddr, gen := s.time.gen, hops := s.time.hops, errPs := frameErr s.time, tx := nowFine s.time
    rx := (getPort s p).frameAt }

/-- R38: a trained port sends a time frame; a port in training, at x2 or retired sends none. -/
def execTimeFrameSend (p : Port) (s : State) : Host.Outcome State Fault Refusal :=
  done (if (getPort s p.val).st = .upX4 then emit s (.linkFrame p.val (frameOut s p.val)) else s)

/-- R39: generation `a` is newer than `b`. -/
def genNewer (a b : BitVec 15) : Bool := decide (1 ≤ (a - b).toNat) && decide ((a - b).toNat ≤ 2 ^ 14 - 1)

/-- R39: a master address other than the one followed, in a frame of the generation followed, is counted once. -/
def countConflict (a : BitVec 17) (t : TimeBlock) : TimeBlock :=
  if t.seen.contains a.toNat then t
  else { t with conflict := t.conflict + 1, seen := if t.seen.length < 64 then a.toNat :: t.seen else t.seen }

/-- R39: the module takes a port as parent. -/
def takeParent (p : Nat) (hops : BitVec 8) (now : BitVec 64) (t : TimeBlock) : TimeBlock :=
  { t with
    parentChanges := if t.hadParent && t.parent != some p then t.parentChanges + 1 else t.parentChanges
    parent := some p, hadParent := true, holdover := false, parentFrame := now
    hops := if hops = 0xFF then 0xFF else hops + 1 }

/-- R39: a frame of the generation followed, for a follower: the lowest master address is followed; among its ports the
one with the fewest hops, then the lowest number, is the parent. -/
def sameGen (p : Nat) (f : TimeFrame) (t : TimeBlock) : TimeBlock :=
  let lower := decide (f.master.toNat < t.masterAddr.toNat)
  let t := if f.master = t.masterAddr then t
    else if lower then { countConflict t.masterAddr t with masterAddr := f.master }
    else countConflict f.master t
  if f.master ≠ t.masterAddr then t
  else
    let h : BitVec 8 := if f.hops = 0xFF then 0xFF else f.hops + 1
    match t.parent with
    | none => takeParent p f.hops t.now t
    | some q =>
      if q = p then { t with hops := h, parentFrame := t.now }
      else if lower ∨ h.toNat < t.hops.toNat ∨ (h = t.hops ∧ p < q) then takeParent p f.hops t.now t
      else t

/-- R39, R42, R43, R45: a time frame arrives. -/
def onFrame (p : Nat) (f : TimeFrame) (t : TimeBlock) : TimeBlock :=
  let fresh := { t with gen := f.gen, seen := [], masterAddr := f.master }
  if t.st = .unset then takeParent p f.hops t.now { fresh with st := .acquiring, acqStart := t.now }
  else if genNewer f.gen t.gen then takeParent p f.hops t.now { fresh with master := false, parent := if t.master then none else t.parent }
  else if f.gen ≠ t.gen then t
  else if t.master then (if f.master = t.masterAddr then t else countConflict f.master t)
  else sameGen p f t

def execTimeFrame (p : Port) (f : TimeFrame) (s : State) : Host.Outcome State Fault Refusal :=
  done (modPort (modTime s (onFrame p.val f)) p.val fun b => { b with frameAt := nowFine s.time })

/-! ### Exchanges (R39, R35, R42) -/

/-- Half of an integer, to the nearest, ties to even. -/
def halfEven (x : Int) : Int :=
  let q := x / 2
  if x % 2 = 0 then q else if q % 2 = 0 then q else q + 1

/-- Signed difference of two times in 1/16 tick. -/
def timeDiff (a b : BitVec 68) : Int := (a - b).toInt

/-- R39: the offset of an exchange, in 1/16 tick, follower minus parent. -/
def exchangeOffset (asym : BitVec 32) (x : Exchange) : Int :=
  halfEven (timeDiff x.t2 x.t1 - timeDiff x.t4 x.t3) - asym.toInt

/-- R39: the error estimate of an exchange, in 10^-6 ps. -/
def exchangeErr (x : Exchange) : Nat := (x.parentErr.toNat + 50 + x.residual.toNat) * 1000000

/-- The correction of an offset, to the nearest tick, ties to even (assumption log 14). -/
def correction (offset : Int) : Int :=
  let q := offset / 16
  let r := offset % 16
  if r < 8 ∨ (r = 8 ∧ q % 2 = 0) then -q else -(q + 1)

/-- R39, R41: an exchange with the parent completes. -/
def exchangeDone (p : Nat) (x : Exchange) (s : State) : State :=
  let off := exchangeOffset (getPort s p).asym x
  let e := exchangeErr x
  let s := modTime s fun t => { t with
    offset := BitVec.ofInt 32 off, slew := correction off, err := e, errValid := true,
    good := if e ≤ 10 * errNs then t.good + 1 else 0 }
  if s.time.st = .unlocked ∧ 16 ≤ s.time.good then modTime s fun t => { t with st := .locked } else checkUnlocked s

/-- R405: an injection of kind 0x0A steps the offset of a port's exchange, by an open amount. -/
def stepExchange (p : Nat) (x : Exchange) (s : State) : State × Exchange :=
  let q := takeInjection s fun d => d.kind == 10 && d.target.toNat == p
  if q.2.isSome then
    let f := drawFree q.1 32
    (f.2, { x with t2 := x.t2 + f.1.signExtend 68 })
  else (q.1, x)

def execTimeExchange (p : Port) (x : Exchange) (s : State) : Host.Outcome State Fault Refusal :=
  done (if s.time.parent = some p.val && !s.time.master && comparing s then
    let q := stepExchange p.val x s
    exchangeDone p.val q.2 q.1
  else s)

/-- R42: the module loads its parent's time as one step. -/
def execAcquireLoad (p : Port) (x : Exchange) (s : State) : Host.Outcome State Fault Refusal :=
  done (if s.time.st = .acquiring ∧ s.time.parent = some p.val then
    let q := stepExchange p.val x s
    let off := exchangeOffset (getPort s p.val).asym q.2
    acquired (modTime q.1 fun t => { t with offset := BitVec.ofInt 32 off }) (s.time.now + BitVec.ofInt 64 (correction off)) (exchangeErr x)
  else s)

/-- R42: no exchange has completed within 64 Beats: the module follows nothing again, and TIME_MASTER reads 0 (assumption
log 114). -/
def execAcquiringTimeout (s : State) : Host.Outcome State Fault Refusal :=
  done (if s.time.st = .acquiring then
    modTime s fun t => { t with st := .unset, parent := none, hops := 0xFF, masterAddr := 0, gen := 0, seen := [] }
  else s)

/-- R43: a module without a usable parent is in holdover. -/
def enterHoldover (s : State) : State :=
  if s.time.parent.isSome && !s.time.master && comparing s then
    modTime s fun t => { t with holdover := true, parent := none }
  else s

def execHoldover (s : State) : Host.Outcome State Fault Refusal := done (enterHoldover s)

/-- R41: the error estimate has exceeded 20 ns. -/
def execUnlocked (s : State) : Host.Outcome State Fault Refusal := done (checkUnlocked s)

/-- R43: the error estimate grows by 2 ns per second of holdover: 2,048 units in a Beat. -/
def holdoverGrowth (s : State) : State :=
  checkUnlocked (if s.time.holdover then modTime s fun t => { t with err := t.err + 2048 } else s)

/-- R35: the slew of one Beat: one tick added to TIME_NOW, or withheld from it. -/
def slewBeat (s : State) : State :=
  if 1 ≤ s.time.slew then modTime s fun t => { t with now := t.now + 1, slew := t.slew - 1 }
  else if s.time.slew ≤ -1 then { modTime s fun t => { t with slew := t.slew + 1 } with ticks := s.ticks + 1 }
  else s

/-! ### The cadence input (R48, R49) -/

/-- R34, R48: the slot of an edge: the first Beat boundary at or after `e + STAGGER * 4096`, modulo 2^64. -/
def slotOf (t : TimeBlock) (e : BitVec 64) : BitVec 64 :=
  (e + BitVec.ofNat 64 (t.cadStagger.toNat * ticksPerBeat + ticksPerBeat - 1)) &&& ~~~(0xFFF : BitVec 64)

/-- R48: an edge lies within 1 % of a period of a predicted edge. -/
def nearPrediction (t : TimeBlock) (e : BitVec 64) : Bool :=
  let d := (e - t.cadLast).toNat
  let p := t.cadPeriod.toNat
  if p = 0 then false
  else
    let k := max 1 ((d + p / 2) / p)
    decide (100 * ((d : Int) - k * p).natAbs ≤ p)

/-- R48: an edge is accepted. The period is the span of the edges held, at most 8, over their number less one (assumption log
115). -/
def acceptEdge (e : BitVec 64) (t : TimeBlock) : TimeBlock :=
  let near := nearPrediction t e
  let edges := (e :: t.edges).take 8
  let n := edges.length
  let period := if 2 ≤ n then BitVec.ofNat 32 ((e - edges.getLast?.getD e).toNat / (n - 1)) else t.cadPeriod
  let good := if near then t.cadGood + 1 else 0
  { t with
    edges := edges, cadLast := e, cadPeriod := period, cadGood := good, cadLocked := t.cadLocked || decide (4 ≤ good)
    cadLost := false, slots := t.slots ++ [slotOf t e] }

/-- R48, R49: a selected edge: the divider passes one in DIV + 1; once locked, an irregular edge is rejected. -/
def cadEdgeAt (t : TimeBlock) : TimeBlock :=
  if !t.cadEnable then t
  else if t.divCount < t.cadDiv.toNat then { t with divCount := t.divCount + 1 }
  else
    let t := { t with divCount := 0 }
    if t.cadLocked && !nearPrediction t t.now then { t with cadReject := t.cadReject + 1 } else acceptEdge t.now t

def execCadEdge (s : State) : Host.Outcome State Fault Refusal := done (modTime s cadEdgeAt)

/-- R48: the first predicted edge after TIME_NOW. -/
def nextEdge (t : TimeBlock) : BitVec 64 :=
  let p := t.cadPeriod.toNat
  t.cadLast + BitVec.ofNat 64 ((ticksSince t.now t.cadLast / p + 1) * p)

/-- R48: eight predicted edges have passed without an accepted edge; slots go on from the last measured period. -/
def execCadLost (s : State) : Host.Outcome State Fault Refusal :=
  done (if s.time.cadEnable && s.time.cadLocked && decide (8 * s.time.cadPeriod.toNat ≤ ticksSince s.time.now s.time.cadLast) then
    modTime s fun t => { t with cadLost := true, cadLocked := false, cadGood := 0, cadNext := nextEdge t }
  else s)

/-- R48: while the cadence is lost, the predicted edges that have come give their slots. -/
def lostSlots (t : TimeBlock) : TimeBlock :=
  let p := t.cadPeriod.toNat
  if !t.cadLost || !t.cadEnable || p == 0 || laterThan t.cadNext t.now then t
  else
    let k := ticksSince t.now t.cadNext / p + 1
    { t with
      slots := t.slots ++ (List.range k).map fun i => slotOf t (t.cadNext + BitVec.ofNat 64 (i * p))
      cadNext := t.cadNext + BitVec.ofNat 64 (k * p) }

/-- R48, R459: a cadence slot comes at this Beat. -/
def atSlot (t : TimeBlock) : Bool := t.cadEnable && t.slots.any fun b => !laterThan b t.now

/-- R48: the slots that have come are past. -/
def passSlots (t : TimeBlock) : TimeBlock := { t with slots := t.slots.filter fun b => laterThan b t.now }

/-- R50: TIME_PPS_OUT at this tick. -/
def execTimePpsOut (s : State) : Host.Outcome State Fault Refusal := done (drivePps 1 s)

end Sys2Proof.Machine
end

