-- ==== Sys2Proof/Machine/Power.lean ====
section
/-! DEFINITION. Low power, the power contract, the governor's Beat, telemetry (R359, R446 to R466), and the operator
commands (R347). -/

namespace Sys2Proof.Machine

/-! ### LOW_POWER, WAKE (R450 to R452) -/

/-- R451: something runs that keeps the device out of low power. -/
def lpBusy (s : State) : Bool :=
  !s.mem.migs.isEmpty || s.sec.sweeps.toList.any (·.isSome) || s.mem.quar.toList.any (fun q => !q.isEmpty) ||
  s.ctxs.toList.any (fun x => !x.led.transfers.isEmpty || x.peal.st != .idle) || s.fab.ports.toList.any fun b => b.st == .training

/-- One more in the byte of a point, saturating at 255. -/
def countPoint (v : BitVec 32) (k : Nat) : BitVec 32 :=
  if field v.toNat (8 * k) 8 = 255 then v else v + BitVec.ofNat 32 (2 ^ (8 * k))

/-- R446, R447: what Doze and Sleep lose: the banks of RETAIN are kept, the others read 0 on wake. -/
def lowLoss (retain : BitVec 32) (c : PCore) : PCore :=
  (List.range 32).foldl (fun c b => if retain.getLsbD b then c else { c with
    stage := memClear c.stage (b * 131072) ((b + 1) * 131072)
    stageBad := c.stageBad.filter fun p => p.1 / 512 != b }) (dozeLoss c)

/-- R450: the device has passed point 4. -/
def enterLow (s : State) (t : Nat) (retain : BitVec 32) : State :=
  let st : PState := if t = 1 then .hold else if t = 2 then .doze else .sleep
  let s := modPwr (modHub s fun h => { h with low := true, lpTarget := BitVec.ofNat 2 t, retain := retain }) fun w => { w with pstate := st }
  let s := ((List.range 128).filter (inService s)).foldl (fun s n => setC s n (getC s n)) s
  let s := { s with slots := s.slots.map fun c => (c.1,
    let k := if t = 1 then c.2 else lowLoss retain c.2
    { k with pstate := st, xlat := if t = 3 then [] else k.xlat }) }
  if t = 3 then
    let s := modMem s fun m => { m with ctrl := m.ctrl.map fun k => { k with selfRefresh := true, lines := [] } }
    let s := (List.range (portCount s)).foldl (fun s p =>
      if (getPort s p).st == .retired || (getPort s p).st == .down then s else setPortState s p .down) s
    if s.time.parent.isSome && !s.time.master && comparing s then
      modTime s fun t => { t with holdover := true, parent := none } else s
  else if t = 2 then modMem s fun m => { m with ctrl := m.ctrl.map fun k => { k with lines := [] } }
  else s

/-- R353, R451: LOW_POWER. `abandon`: the point at which a wake event has abandoned the entry. -/
def ansLowPower (target : BitVec 8) (retain : BitVec 64) (abandon : Option (Fin 4)) (s : State) : Answer :=
  if !within 1 3 target.toNat || decide (2 ^ 32 ≤ retain.toNat) then err s stBadArg 0
  else if lpBusy s then err s stBusy 0
  else match abandon with
    | some k => err (modPwr s fun w => { w with lpAborts := countPoint w.lpAborts k.val }) stBusy 0
    | none => ok (enterLow s target.toNat (retain.setWidth 32)) []

def execLowPower (r : Req) (target : BitVec 8) (retain : BitVec 64) (abandon : Option (Fin 4)) (s : State) :
    Host.Outcome State Fault Refusal :=
  done (serve 0x0009 0x008 r (.lowPower r target retain abandon) (ansLowPower target retain abandon) s)

/-- R353, R452: WAKE is answered when the device is READY. -/
def ansWake (r : Req) (s : State) : Answer :=
  if s.hub.wakeReq.isSome then err s stBusy 0
  else later (modHub (handed s r) fun h => { h with wakeReq := some (r, s.ticks) })

def execWake (r : Req) (s : State) : Host.Outcome State Fault Refusal :=
  done (serve 0x000A 0x200 r (.wake r) (ansWake r) s)

/-- R452: the wake completes; WAKE_US is the time since the handover. -/
def execDeviceWake (s : State) : Host.Outcome State Fault Refusal :=
  done (match s.hub.wakeReq with
    | some (r, t) =>
      if belfryUp s then
        respond (modHub (leaveLow s) fun h => { h with wakeReq := none }) r 0x000A 0 0 0 0x200 (leBytes 4 ((s.ticks - t) / 4000))
      else s
    | none => s)

/-! ### The governor (R30, R456 to R463) -/

/-- R30: the cap that the current limit gives, in W. -/
def currentCap (volt : BitVec 16) : Nat :=
  if volt = 0 ∨ 50800 ≤ volt.toNat then 3300 else 65 * volt.toNat / 1000

/-- R457: the minute term for the window that ends at second `b`, in W. -/
def windowTerm (s : State) (b : Nat) : Nat :=
  let drawn := s.pwr.secs.foldl (fun a q => if b ≤ q.1 + 60 ∧ q.1 < b then a + q.2.1 else a) 0
  let left := 60 * s.pwr.con.minute.toNat * 10 ^ 10 - drawn * 1024
  2 * left / (5 * (b * ticksPerSec - s.time.now.toNat))

/-- R457: C_MIN, in W. -/
def minuteTerm (s : State) : Nat :=
  let next := s.time.now.toNat / ticksPerSec + 1
  (((List.range 60).map fun j => windowTerm s (next + j)).min?).getD 3300

/-- R457: CAP_IN_FORCE, in W. -/
def capInForce (s : State) : Nat :=
  min (min s.pwr.con.fast.toNat (minuteTerm s))
    (min (currentCap s.pwr.last.volt) (max s.pwr.con.floor.toNat s.pwr.tenant.toNat))

/-- R463: the frequency step of a die at a Beat, and its Beats below 97 degrees. `allow`: the step the contract allows. -/
def nextStep (n allow : BitVec 4) (throttled : Bool) (tj : BitVec 8) (below : Nat) : BitVec 4 × Nat :=
  let below := if tj.toNat < 97 then below + 1 else 0
  if 100 < tj.toNat then (if n.toNat < 12 then n + 1 else n, below)
  else if !throttled then (allow, below)
  else if 977 ≤ below ∧ allow.toNat < n.toNat then (n - 1, 0)
  else (n, below)

/-- R460, R463: one die at a Beat. -/
def dieBeat (m : Sensors) (d : Nat) (w : Power) : Power :=
  let tj := m.tj.getD d 0
  let was := w.throttled.getLsbD d
  let q := nextStep (w.freq.getD d 0) (m.step.getD d 0) was tj (w.below.getD d 0)
  let now := 100 < tj.toNat ∨ (was ∧ (m.step.getD d 0).toNat < q.1.toNat)
  let bit : BitVec 4 := BitVec.ofNat 4 (2 ^ d)
  { w with
    freq := w.freq.setIfInBounds d q.1, below := w.below.setIfInBounds d q.2
    throttled := if now then w.throttled ||| bit else w.throttled &&& ~~~bit
    throttledMin := w.throttledMin || decide now
    thermHeld := if decide now != was then w.thermHeld ++ [(BitVec.ofNat 8 d, BitVec.ofNat 8 was.toNat)] else w.thermHeld
    curTj := w.curTj.setIfInBounds d (if (w.curTj.getD d 0).toNat < tj.toNat then tj else w.curTj.getD d 0)
    curFreq := w.curFreq.setIfInBounds d (if (w.curFreq.getD d 0).toNat < q.1.toNat then q.1 else w.curFreq.getD d 0) }

/-- Energy samples by second, the last 60 kept. -/
def addSample (l : List (Nat × Nat × Nat)) (sec p : Nat) : List (Nat × Nat × Nat) :=
  match l with
  | (b, e, n) :: t => if b = sec then (b, e + p, n + 1) :: t else ((sec, p, 1) :: (b, e, n) :: t).take 61
  | [] => [(sec, p, 1)]

/-- R455: the residency counters of the device and of the cores in service. -/
def residency (s : State) : State :=
  let bump := fun (v : Vector (BitVec 64) 4) (p : PState) => v.setIfInBounds (pstateCode p) (v.getD (pstateCode p) 0 + 1)
  let s := modPwr s fun w => { w with res := bump w.res w.pstate }
  ((List.range 128).filter (inService s)).foldl (fun s n => modC s n fun c => { c with
    cnt := { c.cnt with pwrRes := bump c.cnt.pwrRes c.pstate } }) s

/-- R481: the highest hub, inlet and outlet temperatures of the minute so far. -/
def raiseEnv (v : Vector Nat 3) (m : Sensors) : Vector Nat 3 :=
  #v[max (v.getD 0 0) m.tjHub.toNat, max (v.getD 1 0) m.inlet.toNat, max (v.getD 2 0) m.outlet.toNat]

/-! ### The end of a minute (R401, R402, R460 to R462) -/

/-- Ticks of a minute. -/
def minuteTicks : Nat := 240000000000

/-- R462: an operator notice of a minute. -/
def minuteNotice (s : State) (code : BitVec 16) (m : Nat) (rest : Bytes) : State := postOperator s code (leBytes 8 m ++ rest)

/-- The lowest set bit of a mask. -/
def lowestBit (w : Nat) (v : Nat) : Nat := (((List.range w).find? fun i => v / 2 ^ i % 2 == 1)).getD 0

/-- R401: the histograms gain a minute; the rail voltages are not given (assumption log 2). -/
def histograms (s : State) : State :=
  let bin := fun (t : Nat) => if t < 40 then 0 else min 15 ((t - 35) / 5)
  let s := (List.range 5).foldl (fun s d =>
    let t := if d < 4 then (s.pwr.last.tj.getD d 0).toNat else s.pwr.last.tjHub.toNat
    lifeAdd s (0x100 + 64 * d + 4 * bin t) 1) s
  let s := (List.range 4).foldl (fun s d =>
    let f := drawFree s 4
    lifeAdd f.2 (0x240 + 64 * d + 4 * f.1.toNat) 1) s
  lifeAdd s (0x340 + 4 * min 33 (s.pwr.minute.toNat / 1000)) 1

/-- R460, R462: minute `m` of Fabric Time has ended. -/
def endMinute (m : Nat) (s : State) : State :=
  let w := s.pwr
  let avg : BitVec 16 := BitVec.ofNat 16 (if w.samples = 0 then 0 else w.sum / w.samples)
  let s := if w.limitedHeld != 0 then minuteNotice s 0x0101 m [w.limitedHeld.setWidth 8] else s
  let s := if w.missHeld != 0 then minuteNotice s 0x0102 m [BitVec.ofNat 8 (lowestBit 4 w.missHeld.toNat)] else s
  let s := match w.thermHeld with
    | (d, e) :: _ => minuteNotice s 0x0103 m [d, e]
    | [] => s
  let s := modPwr s fun w => { w with
    minute := avg, minuteNo := m, avgs := (avg :: w.avgs).take 60, sum := 0, samples := 0, limitedHeld := 0, missHeld := 0
    thermHeld := [], throttledMin := false, maxTj := w.curTj, minFreq := w.curFreq, curTj := Vector.replicate 4 0
    curFreq := Vector.replicate 4 0, maxEnv := w.curEnv, curEnv := Vector.replicate 3 0
    limitedMin := if w.limitedHeld != 0 then w.limitedMin + 1 else w.limitedMin
    missMin := if w.missHeld != 0 then w.missMin + 1 else w.missMin
    throttleMin := if w.throttledMin then w.throttleMin + 1 else w.throttleMin }
  let s := if w.throttledMin then evidence s 2 1 else s
  histograms (modDiag s fun d => { d with pom := d.pom + 1 })

/-- R460: the minute before the present one has not been closed. -/
def minuteOpen (s : State) : Bool :=
  let m := s.time.now.toNat / minuteTicks
  decide (1 ≤ m) && (s.pwr.avgs.isEmpty || s.pwr.minuteNo != m - 1)

/-- R460: it ends. -/
def closeMinute (s : State) : State := if minuteOpen s then endMinute (s.time.now.toNat / minuteTicks - 1) s else s

def execMinuteEnd (s : State) : Host.Outcome State Fault Refusal := done (if belfryUp s then closeMinute s else s)

/-! ### The power target (R456 to R459, R462) -/

/-- R456: the floor binds in the states that do work. -/
def floorHeld (s : State) : Bool := devNow s == .running || devNow s == .updating

/-- R34, R51: the ticks to an armed time that lies ahead. -/
def ticksTo (s : State) (a : Armed) : Option Nat :=
  let d := (a.t - s.time.now.setWidth 40).toNat
  if 1 ≤ d ∧ d < 2 ^ 39 then some d else none

/-- R458: the armed launch times of the sequencers and of the collective engines. -/
def armedTimes (s : State) : List Armed :=
  (((List.range 128).filter (inService s)).flatMap fun n => (getC s n).streams.toList.filterMap fun t => blockedTime t.blocked) ++
  (List.range 4).flatMap fun e => ((getEngine s e).queued.filter fun p => !p.launched).map (·.launch)

/-- R458: the ticks to the first of them. -/
def firstLaunch (s : State) : Option Nat := ((armedTimes s).filterMap (ticksTo s)).min?

/-- R456: the ticks that a rise between two draws, in µW, takes at a ramp in W/ms; none where no ramp binds. -/
def riseTicks (ramp a b : Nat) : Nat := if ramp = 0 then 0 else (b - a) * 4 / ramp

/-- R48, R459: the ticks to the next cadence slot; with no cadence, to the next Beat. -/
def nextSlotIn (t : TimeBlock) : Nat :=
  if !t.cadEnable then ticksPerBeat
  else ((((t.slots.filter fun b => laterThan b t.now) ++ [slotOf t (nextEdge t)]).map fun b => (b - t.now).toNat).min?).getD ticksPerBeat

/-- R458, R459: the rise for the first armed launch begins now: the next slot would come after T less the ramp time. -/
def riseDue (s : State) (goal : Nat) : Bool :=
  match firstLaunch s with
  | some d => decide (d < nextSlotIn s.time + riseTicks s.pwr.con.ramp.toNat s.pwr.target goal)
  | none => false

/-- R456, R457: what the target should be: the demand, no less than the floor, no more than the cap in force. -/
def wantedPower (m : Sensors) (s : State) : Nat :=
  let cap := capInForce s * 10 ^ 6
  let ahead := min cap (m.ahead.toNat * 10 ^ 5)
  min cap (max (max (m.demand.toNat * 10 ^ 5) (if riseDue s ahead then ahead else 0))
    (if floorHeld s then s.pwr.con.floor.toNat * 10 ^ 6 else 0))

/-- R456: one Beat of a rise or descent at a ramp in W/ms: a Beat is 1.024 µs. -/
def rampStep (ramp t goal : Nat) : Nat :=
  if ramp = 0 then goal else if goal < t then max goal (t - 1024 * ramp) else min goal (t + 1024 * ramp)

/-- R457 to R459: the target at a Beat. A rise or descent begins at a cadence slot while the cadence is enabled; a descent that the
cap forces waits for neither slot nor ramp (assumption log 160). -/
def moveTarget (m : Sensors) (s : State) : State :=
  let cap := capInForce s * 10 ^ 6
  let goal := min cap (if !s.time.cadEnable || atSlot s.time then wantedPower m s else s.pwr.goal)
  modPwr s fun w => { w with goal := goal, target := min cap (rampStep w.con.ramp.toNat w.target goal) }

/-- R458: some core in Run holds no work, on a die that is not throttled, so filler can run. -/
def fillerRoom (s : State) : Bool :=
  (List.range 128).any fun n =>
    inService s n && (getC s n).pstate == .run && !coreBusy (getC s n) && !s.pwr.throttled.getLsbD (physOf s n / 34)

/-- R462: the terms that hold back demand: each that lies below it, and a thermal throttle. -/
def limitTerms (m : Sensors) (s : State) : BitVec 5 :=
  let below := fun (w : Nat) => decide (10 * w < m.demand.toNat)
  BitVec.ofNat 5 ((below s.pwr.con.fast.toNat).toNat + 2 * (below (minuteTerm s)).toNat +
    4 * (decide (s.pwr.target < min (capInForce s * 10 ^ 6) (m.demand.toNat * 10 ^ 5))).toNat +
    8 * (below (currentCap m.volt)).toNat + 16 * (s.pwr.throttled != 0).toNat)

/-- R457, R462: the terms that do not hold: floor, ramp, minute cap, fast cap. -/
def missTerms (m : Sensors) (s : State) : BitVec 4 :=
  let above := fun (w : Nat) => decide (10 * w < m.power.toNat)
  BitVec.ofNat 4 ((floorHeld s && decide (m.power.toNat < 10 * s.pwr.con.floor.toNat)).toNat + 2 * m.offRamp.toNat +
    4 * (above (minuteTerm s)).toNat + 8 * (above s.pwr.con.fast.toNat).toNat)

/-- R455 to R463: the power duties of a Beat; a minute that has passed ends before the sample of the next is taken. -/
def powerBeat (m : Sensors) (s : State) : State :=
  let s := modPwr (closeMinute s) fun w => match w.pend with
    | some c => { w with con := c, pend := none, conSet := true }
    | none => w
  let s := modPwr s fun w => (List.range 4).foldl (fun w d => dieBeat m d w) { w with
    last := m, curEnv := raiseEnv w.curEnv m, sum := w.sum + m.power.toNat, samples := w.samples + 1
    secs := addSample w.secs (s.time.now.toNat / ticksPerSec) m.power.toNat }
  let s := moveTarget m s
  let lim := limitTerms m s
  residency (modPwr s fun w => { w with
    inForce := BitVec.ofNat 16 (capInForce s), limit := lim.setWidth 6, limitedHeld := w.limitedHeld ||| lim
    filler := decide (m.demand.toNat * 10 ^ 5 < w.target) && fillerRoom s, missHeld := w.missHeld ||| missTerms m s })

/-! ### Power commands (R359, R457, R461) -/

/-- R461: the readings a reader gets: the words of R466 (assumption log 22). -/
def ansPwrRead (sess : Option Nat) (s : State) : Answer :=
  ok s ((List.range 16).flatMap fun i => leBytes 4 (pwrWord s sess (4 * i)).toNat)

def execPwrRead (r : Req) (s : State) : Host.Outcome State Fault Refusal :=
  done (serve 0x0701 setAny r (.pwrRead r) (ansPwrRead none) s)

/-- R457: PWR_TENANT_CAP. -/
def ansPwrTenantCap (capW : BitVec 32) (s : State) : Answer :=
  if !within 300 3300 capW.toNat then err s stBadArg 0
  else
    let s := modPwr s fun w => { w with tenant := capW.setWidth 16 }
    let s := modPwr s fun w => { w with inForce := BitVec.ofNat 16 (capInForce s) }
    ok s (leBytes 4 s.pwr.inForce.toNat)

def execPwrTenantCap (r : Req) (capW : BitVec 32) (s : State) : Host.Outcome State Fault Refusal :=
  done (serve 0x0702 setWork r (.pwrTenantCap r capW) (ansPwrTenantCap capW) s)

/-! ### Operator commands (R347, R359, R456, R461) -/

/-- R347: OP_AUTH: a challenge, then the proof. -/
def ansOpAuth (phase : BitVec 8) (mac : Bytes) (s : State) : Answer :=
  if phase = 0 then
    let f := drawFree s 256
    let c := leBytes 32 f.1.toNat
    ok (modMail f.2 fun m => { m with challenge := some c }) c
  else if phase = 1 then
    match s.mail.opSecret, s.mail.challenge with
    | some k, some c => if hmac256 k c = mac then ok (modMail s fun m => { m with opAuth := true, challenge := none }) [] else err s stDenied 0
    | _, _ => err s stDenied 0
  else err s stBadArg 0

def execOpAuth (r : Req) (phase : BitVec 8) (mac : Bytes) (s : State) : Host.Outcome State Fault Refusal :=
  if wellFormed (.opAuth r phase mac) then done (serve 0x0801 setAny r (.opAuth r phase mac) (ansOpAuth phase mac) s)
  else .fault (.illFormed "OP_AUTH")

/-- R347: OP_SECRET_SET, over SMBus only. -/
def ansOpSecretSet (r : Req) (secret : Bytes) (s : State) : Answer :=
  match r.path with
  | .smbus => ok (modMail s fun m => { m with opSecret := some secret }) []
  | _ => err s stDenied 0

def execOpSecretSet (r : Req) (secret : Bytes) (s : State) : Host.Outcome State Fault Refusal :=
  if wellFormed (.opSecretSet r secret) then
    done (serve 0x0802 setAny r (.opSecretSet r secret) (ansOpSecretSet r secret) s)
  else .fault (.illFormed "OP_SECRET_SET")

/-- R456: OP_CONTRACT_SET: every term is checked, then all wait for the next Beat boundary. -/
def ansOpContractSet (fast minute ramp floor : BitVec 32) (s : State) : Answer :=
  if within 500 3300 fast.toNat && within 500 fast.toNat minute.toNat && (ramp == 0 || within 5 3300 ramp.toNat) &&
      decide (floor.toNat ≤ minute.toNat) then
    let c : Contract := { fast := fast.setWidth 16, minute := minute.setWidth 16, ramp := ramp.setWidth 16, floor := floor.setWidth 16 }
    ok (modPwr s fun w => { w with pend := some c }) []
  else err s stBadArg 0

def execOpContractSet (r : Req) (fast minute ramp floor : BitVec 32) (s : State) : Host.Outcome State Fault Refusal :=
  done (serve 0x0803 setAny r (.opContractSet r fast minute ramp floor) (ansOpContractSet fast minute ramp floor) s)

/-- R359: the contract, then the tenant cap and CAP_IN_FORCE. -/
def ansOpContractGet (s : State) : Answer :=
  let c := s.pwr.con
  ok s ([c.fast, c.minute, c.ramp, c.floor, s.pwr.tenant, s.pwr.inForce].flatMap fun v => leBytes 4 v.toNat)

def execOpContractGet (r : Req) (s : State) : Host.Outcome State Fault Refusal :=
  done (serve 0x0804 setAny r (.opContractGet r) ansOpContractGet s)

/-- R461: OP_PWR_READ: the minute averages, newest first, coarse while some partition is confidential. -/
def ansOpPwrRead (s : State) : Answer :=
  let one := fun (a : BitVec 16) => leBytes 2 (if anyConf s then coarse a.toNat else a.toNat)
  ok s ([BitVec.ofNat 8 (anyConf s).toNat, BitVec.ofNat 8 s.pwr.avgs.length] ++ leBytes 8 s.pwr.minuteNo ++ s.pwr.avgs.flatMap one)

def execOpPwrRead (r : Req) (s : State) : Host.Outcome State Fault Refusal :=
  done (serve 0x0805 setAny r (.opPwrRead r) ansOpPwrRead s)

end Sys2Proof.Machine
end

