-- ==== Sys2Proof/Machine/Control.lean ====
section
/-! DEFINITION. The sequencer: fetching descriptors (R170), the control descriptors but LAUNCH_AT (R174, R179 to R184), peer
signals on the die (R178), waking (R449). A command that names a descriptor which is not the next of its stream, or cannot
issue yet (R171), changes nothing. -/

namespace Sys2Proof.Machine

/-! ### Fetching (R170) -/

/-- R188: the page of an address is in the cache of 256 translations, in front. -/
def cacheXlat (c : PCore) (v : Nat) : PCore := { c with xlat := (v :: c.xlat.erase v).take 256 }

/-- R188: a translation of a page is used: a hit moves to the front of the 256 cached; a miss is counted and resolved. An address of
another context is not looked up, and an unmapped page is not kept. -/
def useXlat (s : State) (n ctx : Nat) (va : BitVec 48) : State :=
  let v := va.toNat / 2 ^ 21
  if (getC s n).xlat.contains v then modC s n fun c => cacheXlat c v
  else
    let miss := fun (s : State) => modCnt s n fun k => { k with xlatMiss := k.xlatMiss + 1 }
    match translate s ctx va with
    | .foreign => s
    | .unmapped => miss s
    | _ => modC (miss s) n fun c => cacheXlat c v

/-- A block that is neither held nor marked failed. -/
def blockMissing (t : Stream) (a : BitVec 48) : Bool := !t.blocks.any fun b => b.addr == a && b.data.isSome

/-- The address issue waits for: that of the next descriptor, or of the one after a LAUNCH_AT. -/
def demandAddr (t : Stream) : Option (BitVec 48) :=
  let a := issuePc t
  if blockMissing t (blockAddr a) then some a
  else match fetchedAt t a with
    | some d => if opcodeOf d = opLaunchAt && blockMissing t (blockAddr (a + 32)) then some (a + 32) else none
    | none => none

/-- R170: an END has been fetched at or after the next descriptor. -/
def endFetched (t : Stream) : Bool :=
  (List.range 16).any fun i =>
    let a := t.pc + BitVec.ofNat 48 (32 * i)
    match fetchedAt t a with
    | some d => opcodeOf d == opEnd
    | none => false

/-- R170: the block to fetch ahead. -/
def aheadAddr (t : Stream) : Option (BitVec 48) :=
  let a := blockAddr t.pc + 256
  if (demandAddr t).isNone && !t.blocks.any (fun b => b.addr == a) && !endFetched t then some a else none

/-- Put a fetched block into a stream. -/
def putBlock (s : State) (n i : Nat) (f : Fetched) : State :=
  modC s n fun c => modStream c i fun t => { t with blocks := f :: t.blocks.filter fun b => b.addr != f.addr }

/-- R189: a dropped run-ahead request. -/
def countDrop (s : State) (n : Nat) : State := modCnt s n fun k => { k with raDrop := k.raDrop + 1 }

/-- R170, R215, R219: one fetch. `a`: the descriptor that needs the block; `lost`: reads lost in transport. -/
def fetchBlock (s : State) (n i : Nat) (a : BitVec 48) (ahead : Bool) (lost : Nat) : State :=
  let t := getStream (getC s n) i
  let b := blockAddr a
  let s := useXlat s n t.ctx b
  let refuse := fun (s : State) (cause : BitVec 8) => if ahead then countDrop s n else haltStream s n i cause 0 a
  match translate s t.ctx b with
  | .unmapped => refuse s 0x06
  | .localPage p pg off e _ =>
    match takeTokens s (n / 32) 0 1 with
    | none => holdTokens s (n / 32) 0
    | some s =>
      let r := readLocal s t.ctx p pg off e
      if lost < 2 && blockOk r.2 then putBlock r.1 n i { addr := b, data := some r.2.data }
      else if ahead then putBlock r.1 n i { addr := b, data := none }
      else haltStream r.1 n i 0x09 0 a
  | _ => refuse s 0x05

/-- The sequencer of a core works. -/
def sequencing (s : State) (n : Nat) : Bool :=
  let c := getC s n
  inService s n && c.pstate == .run && !c.stopped && !s.hub.slotTesting.contains (physOf s n)

def fetchStep (s : State) (n i : Nat) (ahead : Bool) (lost : Nat) : State :=
  let t := getStream (getC s n) i
  if sequencing s n && t.st == .running then
    match (if ahead then aheadAddr t else demandAddr t) with
    | some a => fetchBlock s n i a ahead lost
    | none => s
  else s

def execDescriptorFetch (c : Core) (i : SlotNo) (ahead : Bool) (lost : Fin 3) (s : State) : Host.Outcome State Fault Refusal :=
  doneMem (fetchStep s c.val i.val ahead lost.val)

/-! ### Control descriptors -/

/-- R171, R175: issue of a control descriptor: rejected on its bits, or `act` takes effect. -/
def issueControl (op : Nat) (act : State → BitVec 256 → State) (s : State) (n i : Nat) : State :=
  match issuable s n i op with
  | none => s
  | some d => match controlBad d with
    | some c => rejectDesc s n i d c
    | none => wakeCore (act (takeHeader (finishLaunch (takeTurn s n i) n i) n d) d) n

/-- R172: the control descriptor `d` completes at issue, and its stream goes on at `a`. -/
def completeTo (s : State) (n i : Nat) (d : BitVec 256) (a : BitVec 48) : State :=
  modC (countProg (signalSsem s n d) n i) n fun c => modStream c i fun t => gotoPc { t with blocked := none } a

/-- R172: the control descriptor `d` completes at issue, and its stream goes on behind it. -/
def completeNext (s : State) (n i : Nat) (d : BitVec 256) : State :=
  completeTo s n i d ((getStream (getC s n) i).pc + 32)

/-- A fault of the descriptor at the program counter, found when it takes effect (R175). -/
def faultHere (s : State) (n i : Nat) (d : BitVec 256) (cause : BitVec 8) : State :=
  haltStream s n i cause (tagOf d) (getStream (getC s n) i).pc

/-! ### The times that streams wait for (R51, R180, R181, R184, R449) -/

/-- A blocked stream with its time changed; none: the time has been reached. -/
def setBlockedTime (a : Option Armed) : Blocked → Blocked
  | .wait sem acq v _ => .wait sem acq v a
  | .waitLow sem _ => .waitLow sem a
  | .launch t => .launch (a.getD t)
  | b => b

/-- R53: a late launch of a core's sequencer is counted in both places. -/
def countCoreLate (s : State) (n : Nat) : State := modCnt (countLate s) n fun k => { k with late := k.late + 1 }

/-- R180, R181, R449: the time of a blocked stream has come; a core in a low state returns to Run for it. -/
def streamDue (s : State) (n i : Nat) (late : Bool) : State :=
  let t := getStream (getC s n) i
  match t.blocked with
  | some (.launch _) =>
    let ready := match fetchedAt t (t.pc + 32) with
      | some d => !wenOf d || decide (1 ≤ (semGet (getC s n) (wsemOf d)).toNat)
      | none => true
    let s := if late || !ready then countCoreLate s n else s
    modC s n fun c => modStream { c with pstate := .run } i fun t => { t with due := true }
  | some b =>
    let s := if late then countCoreLate s n else s
    let s := modC s n fun c => modStream { c with pstate := .run } i fun t => { t with blocked := some (setBlockedTime none b) }
    wakeCore s n
  | none => s

/-- R51: one evaluation of the time a stream is blocked on. -/
def fireStream (s : State) (n i : Nat) : State :=
  let t := getStream (getC s n) i
  match (if inService s n && t.st == .running && !t.due && !(getC s n).stopped then blockedTime t.blocked else none) with
  | none => s
  | some a =>
    let q := evalArmed s a
    match q.1 with
    | .wait => modC s n fun c => modStream c i fun t => { t with blocked := t.blocked.map (setBlockedTime (some q.2)) }
    | .onTime => streamDue s n i false
    | .late => streamDue s n i true

/-- R51: a stream that blocks on a time is evaluated at once. -/
def blockTimed (s : State) (n i : Nat) (b : Blocked) : State := fireStream (blockOn s n i b) n i

/-! ### WAIT, SIGNAL, FENCE, LOOP, BRANCH, SETBASE -/

/-- R179, R180: the semaphore and the time of a wait. -/
def waitSem (d : BitVec 256) : Option (BitVec 6) := if dbit d 38 then some (d.extractLsb' 32 6) else none

def doWait (n i : Nat) (s : State) (d : BitVec 256) : State :=
  blockTimed s n i (.wait (waitSem d) (dbit d 39) (d.extractLsb' 40 32)
    (if dbit d 72 then some (armTime s (d.extractLsb' 73 40)) else none))

def execWait (c : Core) (i : SlotNo) (s : State) : Host.Outcome State Fault Refusal :=
  done (issueControl opWait (doWait c.val i.val) s c.val i.val)

/-- R178, R179: SIGNAL to a core of the same partition that serves the same context. -/
def doSignal (n i : Nat) (s : State) (d : BitVec 256) : State :=
  let g : BitVec 6 := d.extractLsb' 32 6
  let inc := dfield d 38 16
  let t := dfield d 54 8
  if t = 0xFF ∨ t = n then completeNext (modC s n fun c => semAdd c g.toNat inc) n i d
  else if corePart s t != corePart s n then faultHere s n i d 0x05
  else if !inService s t then faultHere s n i d 0x08
  else if (getC s t).ctx != some (getStream (getC s n) i).ctx then faultHere s n i d 0x05
  else completeNext (modFab s fun f => { f with sigs := f.sigs ++ [(t, g, BitVec.ofNat 32 inc)] }) n i d

def execSignal (c : Core) (i : SlotNo) (s : State) : Host.Outcome State Fault Refusal :=
  done (issueControl opSignal (doSignal c.val i.val) s c.val i.val)

/-- R177, R178: the oldest signal on its way to a core arrives. -/
def peerSignal (s : State) (n : Nat) : State :=
  match s.fab.sigs.find? fun g => g.1 == n with
  | some g =>
    let s := modFab s fun f => { f with sigs := f.sigs.erase g }
    if inService s n then wakeCore (modC s n fun c => semAdd c g.2.1.toNat g.2.2.toNat) n else s
  | none => s

def execPeerSignalArrival (c : Core) (s : State) : Host.Outcome State Fault Refusal := done (peerSignal s c.val)

/-- A VEC that writes through the gather unit. -/
def scatters (d : BitVec 256) : Bool := (vecOf d).op == 0x62 || (vecOf d).op == 0x63

/-- R179: what a FENCE waits for. A scatter held for its replay has not been written (R124). -/
def fenceScope (s : State) (n i scope : Nat) : List Nat :=
  let c := getC s n
  match scope with
  | 0 => (getStream c i).inflight
  | 1 => inFlight c
  | _ => (getStream c i).inflight ++ c.copies.map (·.iss.id) ++
      (c.threads.toList.filterMap fun j => match j with
        | some v => if scatters v.iss.desc then some v.iss.id else none
        | none => none) ++
      (getL s n).replay.toList.filterMap fun r => match r with
        | some r => if opcodeOf r.iss.desc == opVec && scatters r.iss.desc then some r.iss.id else none
        | none => none

def doFence (n i : Nat) (s : State) (d : BitVec 256) : State :=
  blockOn s n i (.fence (fenceScope s n i (dfield d 32 2)))

def execFence (c : Core) (i : SlotNo) (s : State) : Host.Outcome State Fault Refusal :=
  done (issueControl opFence (doFence c.val i.val) s c.val i.val)

/-- A base register, 1 to 4. -/
def getBr (t : Stream) (b : Nat) : BitVec 48 := t.br.getD (b - 1) 0
def setBr (t : Stream) (b : Nat) (v : BitVec 48) : Stream := if b = 0 then t else { t with br := t.br.setIfInBounds (b - 1) v }

/-- R182: the level of a LOOP at its entry; none when another LOOP holds it. -/
def armLevel (t : Stream) (d : BitVec 256) : Option LoopLevel :=
  let l := t.loops.getD (dfield d 32 2) { active := false, ctr := 0, owner := 0, entry := 0, body := 0 }
  if !l.active then
    some { active := true, ctr := d.extractLsb' 34 32, owner := t.pc, entry := getBr t (dfield d 90 3)
           body := targetOf t.pc (dfield d 66 24) }
  else if l.owner = t.pc then some l else none

/-- R182: LOOP. -/
def doLoop (n i : Nat) (s : State) (d : BitVec 256) : State :=
  let t := getStream (getC s n) i
  let lv := dfield d 32 2
  let b := dfield d 90 3
  match armLevel t d with
  | none => faultHere s n i d 0x0A
  | some l =>
    let l := { l with ctr := l.ctr - 1 }
    let put := fun (s : State) (l : LoopLevel) (v : BitVec 48) =>
      modC s n fun c => modStream c i fun t => setBr { t with loops := t.loops.setIfInBounds lv l } b v
    if l.ctr = 0 then completeNext (put s { l with active := false } l.entry) n i d
    else
      let adv := BitVec.ofInt 48 (signed (dfield d 93 32) 32)
      completeTo (put s l (getBr t b + adv)) n i d (targetOf t.pc (dfield d 66 24))

def execLoop (c : Core) (i : SlotNo) (s : State) : Host.Outcome State Fault Refusal :=
  done (issueControl opLoop (doLoop c.val i.val) s c.val i.val)

/-- R179: the condition of a BRANCH. -/
def branchTaken (c : PCore) (d : BitVec 256) : Bool :=
  let v := (semGet c (dfield d 32 6)).toNat
  let w := dfield d 41 32
  match dfield d 38 3 with
  | 0 => v == w
  | 1 => v != w
  | 2 => decide (v < w)
  | _ => decide (w ≤ v)

/-- R183: a target lies in the body of every active loop. -/
def inBodies (t : Stream) (a : BitVec 48) : Bool :=
  t.loops.toList.all fun l => !l.active || decide ((a - l.body).toNat ≤ (l.owner - l.body).toNat)

/-- R189: run-ahead requests of the COPYs that a stream leaves out on its way from `p` to `a` are discarded. -/
def dropAhead (t : Stream) (p a : BitVec 48) : Stream :=
  { t with ahead := t.ahead.filter fun q => !(decide ((q.pc - p).toNat < (a - p).toNat) && decide (0 < (a - p).toInt)) }

/-- R183: BRANCH. Run-ahead data is discarded when the stream branches past it (R189). -/
def doBranch (n i : Nat) (s : State) (d : BitVec 256) : State :=
  let t := getStream (getC s n) i
  if branchTaken (getC s n) d then
    let a := targetOf t.pc (dfield d 73 24)
    if inBodies t a then completeTo (modC s n fun c => modStream c i fun t => dropAhead t t.pc a) n i d a
    else faultHere s n i d 0x0A
  else completeNext s n i d

def execBranch (c : Core) (i : SlotNo) (s : State) : Host.Outcome State Fault Refusal :=
  done (issueControl opBranch (doBranch c.val i.val) s c.val i.val)

def doSetbase (n i : Nat) (s : State) (d : BitVec 256) : State :=
  completeNext (modC s n fun c => modStream c i fun t => setBr t (dfield d 32 3) (d.extractLsb' 35 48)) n i d

def execSetbase (c : Core) (i : SlotNo) (s : State) : Host.Outcome State Fault Refusal :=
  done (issueControl opSetbase (doSetbase c.val i.val) s c.val i.val)

/-! ### WAIT_LOW and waking (R184, R446 to R450) -/

/-- Every engine of a core is empty. -/
def enginesEmpty (c : PCore) : Bool :=
  c.lr.isEmpty && c.mv.isEmpty && c.copies.isEmpty && c.threads.toList.all (·.isNone)

/-- R184: every other stream is IDLE or blocked in a WAIT or a WAIT_LOW. -/
def othersWait (c : PCore) (i : Nat) : Bool :=
  (List.range 16).all fun j => j == i || match (getStream c j).st, (getStream c j).blocked with
    | .idle, _ => true
    | .running, some (.wait _ _ _ _) => true
    | .running, some (.waitLow _ _) => true
    | _, _ => false

/-- R448: the state that WAIT_LOW enters. -/
def lowState (s : State) (c : PCore) (d : BitVec 256) : PState :=
  match c.pwrMode.toNat with
  | 0 => .run
  | 1 => .hold
  | _ =>
    let gap := ((d.extractLsb' 40 40 : BitVec 40) - s.time.now.setWidth 40).toNat
    if dbit d 39 && decide (800000 ≤ gap) && decide (gap < 2 ^ 39) then .doze else .hold

/-- R184, R448, R450: the core enters its low-power state, or a wake event abandons the entry at a point. -/
def enterCoreLow (s : State) (n i : Nat) (d : BitVec 256) (abandon : Option Nat) : State :=
  let c := getC s n
  let p := lowState s c d
  if p = .run || !enginesEmpty c || !othersWait c i then s
  else match abandon with
    | some k => modCnt s n fun q => { q with pwrAborts := countPoint q.pwrAborts k }
    | none => setC s n (let c := if p = .doze then dozeLoss c else c
                        { c with pstate := p })

/-- R184: WAIT_LOW: it waits as a WAIT, and enters a low-power state when its conditions are not met at once. -/
def doWaitLow (n i : Nat) (abandon : Option Nat) (s : State) (d : BitVec 256) : State :=
  let s := blockTimed s n i (.waitLow (waitSem d) (if dbit d 39 then some (armTime s (d.extractLsb' 40 40)) else none))
  if (getStream (getC s n) i).blocked.isNone || (unblock s n i).isSome then s else enterCoreLow s n i d abandon

def execWaitLow (c : Core) (i : SlotNo) (abandon : Option (Fin 4)) (s : State) : Host.Outcome State Fault Refusal :=
  done (issueControl opWaitLow (doWaitLow c.val i.val (abandon.map (·.val))) s c.val i.val)

/-- R449: the event that wakes a core is there. -/
def wakeDue (s : State) (c : PCore) : WakeCause → Bool
  | .belfry => true
  | .device => !s.hub.low
  | .time => c.streams.toList.any fun t => match t.blocked with
    | some (.waitLow _ (some _)) => true
    | some (.wait _ _ _ (some _)) => true
    | _ => false
  | .semaphore => c.streams.toList.any fun t => match t.blocked with
    | some (.waitLow (some k) _) => decide (1 ≤ (semGet c k.toNat).toNat)
    | some (.wait (some k) _ v none) => semMet c (some k) v
    | _ => false

/-- R449: a core returns to Run; what it waits for goes on where it can. -/
def wakeUp (s : State) (n : Nat) (why : WakeCause) : State :=
  let c := getC s n
  if inService s n && c.pstate != .run && !s.hub.low && wakeDue s c why then wakeCore (wakeFrom s n) n else s

def execCoreWake (c : Core) (why : WakeCause) (s : State) : Host.Outcome State Fault Refusal := done (wakeUp s c.val why)

/-! ### END and reserved opcodes (R172, R174) -/

def doEnd (n i : Nat) (s : State) (_ : BitVec 256) : State := blockOn s n i .ending

def execEndStream (c : Core) (i : SlotNo) (s : State) : Host.Outcome State Fault Refusal :=
  doneMem (issueControl opEnd (doEnd c.val i.val) s c.val i.val)

/-- R174: a descriptor with an opcode outside level 3 halts its stream. -/
def reservedStep (s : State) (n i : Nat) : State :=
  let t := getStream (getC s n) i
  match fetchedAt t (issuePc t) with
  | some d =>
    if opcodes.contains (opcodeOf d) || (issuable s n i (opcodeOf d)).isNone then s else rejectDesc s n i d 0x01
  | none => s

def execReservedOpcode (c : Core) (i : SlotNo) (s : State) : Host.Outcome State Fault Refusal :=
  done (reservedStep s c.val i.val)

end Sys2Proof.Machine
end

