-- ==== Sys2Proof/Machine/Ledger.lean ====
section
/-! DEFINITION. The ledger commands (R356) and the events of the step ledger: the ready bit, digests and their records,
the audit copy, shard transfers (11_step_ledger.md). COMMIT stands in Launch.lean. -/

namespace Sys2Proof.Machine

/-! ### PAIR_SET, ABSORB (R290, R308) -/

/-- R290: an absolute Page Map entry is a peer window of the context onto a peer. -/
def windowTo (s : State) (x : Context) (i peer peerCtx : Nat) : Bool :=
  let e := mapGet s.mem.pmap i 0
  decide (x.pmBase.toNat ≤ i) && decide (i < x.pmBase.toNat + x.pmLen.toNat) && e.getLsbD 0 && entField e 1 2 == 1 &&
  entField e 13 17 == peer && entField e 30 6 == peerCtx

/-- R311: every fill of the context ends: a holder's stops, and a receiver's partial copy is discarded. -/
def endFills (l : Ledger) : Ledger :=
  { l with transfers := l.transfers.filter fun t => !t.fill, filling := false, fillDone := 0, fillTotal := 0 }

def ansPairSet (r : Req) (peer : BitVec 32) (peerCtx : BitVec 8) (winMgrad winLedger : BitVec 32) (s : State) : Answer :=
  withOpen s r fun c x =>
    if decide (2 ^ 17 ≤ peer.toNat) || decide (64 ≤ peerCtx.toNat) || !windowTo s x winMgrad.toNat peer.toNat peerCtx.toNat ||
        !windowTo s x winLedger.toNat peer.toNat peerCtx.toNat then err s stBadArg 0
    else
      let q : Pairing := { peer := peer.setWidth 17, peerCtx := peerCtx.setWidth 6, winMgrad := winMgrad, winLedger := winLedger }
      -- R311: the fill with a former partner ends
      let other := ((x.led.pendPair.or x.led.pair).map fun p => p.peer != q.peer || p.peerCtx != q.peerCtx).getD false
      ok (modLed s c fun l => if other then { endFills l with pendPair := some q } else { l with pendPair := some q }) []

def execPairSet (r : Req) (peer : BitVec 32) (peerCtx : BitVec 8) (winMgrad winLedger : BitVec 32) (s : State) :
    Host.Outcome State Fault Refusal :=
  done (serve 0x0301 setWork r (.pairSet r peer peerCtx winMgrad winLedger) (ansPairSet r peer peerCtx winMgrad winLedger) s)

/-- R308, R309: the mirror regions become the absorbed shard, and the shards left without a mirror are written out as of the last
commit (assumption log 157). -/
def ansAbsorb (r : Req) (shardId : BitVec 32) (s : State) : Answer :=
  withOpen s r fun c x =>
    if x.led.absorbed then conflict s 1 (dbCode x.led.st) 0
    else ok (partialPeal (modLed s c fun l => { l with
      absorbed := true, absorbId := shardId, unmirrored := true, pair := none, filling := false, transfers := [], moved := [] }) c
      x.led.committed) []

def execAbsorb (r : Req) (shardId : BitVec 32) (s : State) : Host.Outcome State Fault Refusal :=
  doneMem (serve 0x0302 setWork r (.absorb r shardId) (ansAbsorb r shardId) s)

/-! ### The Downbeat commands (R295, R302, R304) -/

/-- R295: whether the ledger may be armed (R333: not without a committed state). -/
def canArm (l : Ledger) : Bool := l.st == .idle || l.st == .aborted

/-- R295: arm step `step`, whose program is queued. -/
def armStep (s : State) (c : Nat) (step : BitVec 48) (t : BitVec 40) (va : BitVec 48) (e : Nat) : State :=
  modLed s c fun l =>
    let l := if l.st = .aborted then clearAttempt l else l
    { l with
      st := .armed, step := step, tLaunch := t, progVa := va, engine := e, everArmed := true, launched := false, ready := false
      veto := false, reason := 0, attempt := BitVec.ofNat 4 (l.reasons.length + 1), abandoned := false }

def ansDownbeatArm (r : Req) (step tLaunch progVa : BitVec 64) (engine : BitVec 8) (s : State) : Answer :=
  withCtx s r fun c x =>
    if !canArm x.led || x.led.noState then conflict s 1 (dbCode x.led.st) 0x21
    else if step.toNat ≠ (x.led.committed + 1).toNat ∨ 4 ≤ engine.toNat then err s stBadArg 0
    else match loadProgram s c progVa (tLaunch.setWidth 40) true with
      | none => err s stBadArg 0
      | some (s, p) =>
        if engineFull s engine.toNat then err s stNoResource 0
        else
          let s := if x.led.st = .aborted then lifeAdd s 0x28 1 else s
          ok (armStep (queueProgram s engine.toNat p) c (step.setWidth 48) (tLaunch.setWidth 40) (progVa.setWidth 48) engine.toNat) []

def execDownbeatArm (r : Req) (step tLaunch progVa : BitVec 64) (engine : BitVec 8) (s : State) :
    Host.Outcome State Fault Refusal :=
  doneMem (serve 0x0303 setWork r (.downbeatArm r step tLaunch progVa engine) (ansDownbeatArm r step tLaunch progVa engine) s)

/-- R302: a module in doubt takes the result and the commit time it is given. -/
def ansDownbeatResolve (r : Req) (result : BitVec 8) (tCommit : BitVec 64) (s : State) : Answer :=
  withOpen s r fun c x =>
    if x.led.st ≠ .inDoubt then conflict s 1 (dbCode x.led.st) 0x10
    else if result = 1 then
      let t : BitVec 40 := tCommit.setWidth 40
      ok (modLed s c fun l => { l with st := .commitPending, tCommit := t, commitAt := some (armTime s t) }) []
    else if result = 0 then ok (abortStep s c 0x0C) []
    else err s stBadArg 0

def execDownbeatResolve (r : Req) (result : BitVec 8) (tCommit : BitVec 64) (s : State) : Host.Outcome State Fault Refusal :=
  done (serve 0x0304 setWork r (.downbeatResolve r result tCommit) (ansDownbeatResolve r result tCommit) s)

/-- R304: before T_L the program is withdrawn and the step aborts; from T_L on the bit is sent as a veto. -/
def ansDownbeatAbandon (r : Req) (step : BitVec 64) (s : State) : Answer :=
  withOpen s r fun c x =>
    if !(x.led.st == .armed || x.led.st == .voted) || step.toNat != x.led.step.toNat then err s stBadArg 0
    else
      let s := modLed s c fun l => { l with abandoned := true }
      if x.led.launched then ok (castBit s c false 0x0D) []
      else ok (abortStep (dropPrograms s (isDownbeat c x.led)) c 0x0D) []

def execDownbeatAbandon (r : Req) (step : BitVec 64) (s : State) : Host.Outcome State Fault Refusal :=
  done (serve 0x0305 setWork r (.downbeatAbandon r step) (ansDownbeatAbandon r step) s)

/-! ### Shard repair and transfer (R307, R310 to R312) -/

/-- R307: the chunk from the partner's live region is written after its digest has been checked. -/
def ansShardRepair (r : Req) (region : BitVec 8) (chunk : BitVec 32) (partnerChunk : Bytes) (s : State) : Answer :=
  withOpen s r fun c x =>
    if 2 ≤ region.toNat ∨ chunkCount s c (region == 1) ≤ chunk.toNat then err s stBadArg 0
    else if x.led.unmirrored then conflict s 1 (dbCode x.led.st) 0
    else
      let kept := if region = 1 then x.led.keptMirror else x.led.kept
      if mapGet? kept chunk.toNat ≠ some (sha256 partnerChunk) then err s stDenied 0
      else
        ok (putForced s c (chunkVa s c (region == 1) chunk.toNat) partnerChunk) []

def execShardRepair (r : Req) (region : BitVec 8) (chunk : BitVec 32) (partnerChunk : Bytes) (s : State) :
    Host.Outcome State Fault Refusal :=
  doneMem (serve 0x0306 setWork r (.shardRepair r region chunk partnerChunk) (ansShardRepair r region chunk partnerChunk) s)

/-- R312: the bytes of a segment of whole chunks, of which the last of the shard may be partial. -/
def segmentSize (shard first count : Nat) : Nat :=
  if first * chunkBytes < shard then min (count * chunkBytes) (shard - first * chunkBytes) else count * chunkBytes

/-- R310 to R312: the transfer that SHARD_FILL names. All chunks of the shard from the first on are a fill; fewer are a segment,
which the receiver adopts behind its own (assumption log 147). -/
def transferOf (s : State) (c : Nat) (l : Ledger) (receiver mirror : Bool) (first count : Nat) (win : BitVec 32) : Transfer :=
  let shard := ctxSetting s c 0x700
  let size := segmentSize shard first count
  { receiver := receiver, mirror := mirror, fill := first == 0 && decide (shard ≤ count * chunkBytes), first := first, count := count
    win := win, done := 0, kept := 0, base := regionUsed s c mirror + ((l.transfers.filter fun t =>
      t.receiver && !t.fill && t.mirror == mirror).map fun t => t.bytes - segmentBytes t t.kept).sum, bytes := size }

/-- R311: a transfer takes the place of one that has the same role and chunks of the same region. -/
def sameTransfer (t u : Transfer) : Bool :=
  t.receiver == u.receiver && t.mirror == u.mirror && t.fill == u.fill && (t.fill || t.first == u.first)

/-- R310, R312: a transfer of whole chunks begins. -/
def ansShardFill (r : Req) (role region : BitVec 8) (first count win : BitVec 32) (s : State) : Answer :=
  withOpen s r fun c x =>
    let e := mapGet s.mem.pmap win.toNat 0
    let mirror := region == 1
    if 2 ≤ role.toNat ∨ 2 ≤ region.toNat ∨ count = 0 ∨ win.toNat < x.pmBase.toNat ∨ x.pmBase.toNat + x.pmLen.toNat ≤ win.toNat ∨
        !e.getLsbD 0 ∨ entField e 1 2 ≠ 1 ∨ (role = 0 ∧ chunkCount s c mirror < first.toNat + count.toNat) then err s stBadArg 0
    else
      let u := transferOf s c x.led (role == 1) mirror first.toNat count.toNat win
      let l := { x.led with transfers := x.led.transfers.filter fun t => !(sameTransfer t u) }
      let t := transferOf s c l (role == 1) mirror first.toNat count.toNat win
      if t.receiver && decide (regionSize s c < (if t.fill then 0 else t.base) + t.bytes) then err s stNoResource 0
      else if 64 ≤ l.transfers.length then err s stNoResource 0
      else
        let fills := t.receiver && t.fill && mirror
        ok (modLed s c fun _ => { l with
          transfers := l.transfers ++ [t]
          filling := l.filling || fills
          fillDone := if fills then 0 else l.fillDone
          fillTotal := if fills then count.setWidth 16 else l.fillTotal }) []

def execShardFill (r : Req) (role region : BitVec 8) (first count win : BitVec 32) (s : State) :
    Host.Outcome State Fault Refusal :=
  done (serve 0x0307 setWork r (.shardFill r role region first count win) (ansShardFill r role region first count win) s)

/-- Write bytes through consecutive windows from entry `win`, block by block, in the collective/mirror class. -/
def windowPut (c : Nat) : State → Nat → List Bytes → State
  | s, _, [] => s
  | s, va, d :: t =>
    match translate s c (BitVec.ofNat 48 va) with
    | .peer i a rc rva core true =>
      let k := { barePacket s 1 a with
        dctx := BitVec.ofNat 6 rc, cls := 1, addr := rva, core := BitVec.ofNat 7 core, blocks := [mkBlock (fit 256 d)] }
      windowPut c (sendRequest s c i (.ledger c) k).1 (va + 256) t
    | _ => windowPut c s (va + 256) t

/-- The virtual address that a Page Map entry of a context maps. -/
def entryVa (x : Context) (c win : Nat) : Nat := c * 2 ^ 42 + (win - x.pmBase.toNat) * page2M

/-- Offset in its region of the chunk that a transfer copies next, and the bytes of it. -/
def chunkSpan (s : State) (c : Nat) (t : Transfer) : Nat × Nat :=
  if t.receiver && !t.fill then (t.base + t.done * chunkBytes, segmentBytes t (t.done + 1) - segmentBytes t t.done)
  else
    let off := (t.first + t.done) * chunkBytes
    (off, min chunkBytes ((if t.receiver then regionSize s c else regionUsed s c t.mirror) - off))

/-- R310: the update of the region that a receiver's chunk belongs to has started in the step in progress. -/
def updateStarted (l : Ledger) (t : Transfer) : Bool := if t.mirror then l.mirrorStarted else l.ownStarted

/-- R310: one chunk of a transfer: a holder copies it from its live region through the window; a receiver stores it in its live
region, unless its update of the step has started: then the chunk is discarded, and copied again in the next step. -/
def transferChunk (c n : Nat) (chunk : Bytes) (s : State) : State :=
  let x := getCtx s c
  match x.led.transfers[n]? with
  | none => s
  | some t =>
    if decide (t.count ≤ t.done) || (t.receiver && updateStarted x.led t) then s
    else
      let p := chunkSpan s c t
      let va := regionVa s c t.mirror (liveIndex s c) + p.1
      let s := if t.receiver then putForced s c va (chunk.take p.2)
        else match readBytesVa s c va p.2 with
          | some (s, b) => windowPut c s (entryVa x c t.win.toNat + t.done * chunkBytes) (chunksOf 256 (b.length / 256 + 1) b)
          | none => s
      modLed s c fun l => { l with
        transfers := l.transfers.set n { t with done := t.done + 1 }
        fillDone := if t.receiver && t.fill then l.fillDone + 1 else l.fillDone }

def execShardTransferChunk (c : Ctx) (x : ChunkIn) (s : State) : Host.Outcome State Fault Refusal :=
  doneMem (transferChunk c.val x.transfer.val x.data s)

/-! ### QUOTA_SET, PLACEMENT, LEDGER_TIMES (R313 to R315) -/

def ansQuotaSet (r : Req) (quota : BitVec 32) (s : State) : Answer :=
  withOpen s r fun c x =>
    if valueOk (ctxSetting s c) (coresIn s x) true 0x603 quota.toNat then
      ok (modLed s c fun l => { l with pendQuota := some quota }) []
    else err s stBadArg 0

def execQuotaSet (r : Req) (quota : BitVec 32) (s : State) : Host.Outcome State Fault Refusal :=
  done (serve 0x0308 setWork r (.quotaSet r quota) (ansQuotaSet r quota) s)

/-- R315, R300: the mask changes at once; while a commit is pending, with it (assumption log 55). -/
def ansPlacement (r : Req) (gen accept : BitVec 8) (s : State) : Answer :=
  withOpen s r fun c x =>
    let early := (mapGet? x.led.cleared gen.toNat).any fun t => decide (ticksSince s.time.now t < 200 * ticksPerUs)
    if 2 ≤ accept.toNat then err s stBadArg 0
    else if accept = 1 && early then err s stDenied 0
    else ok (modLed s c fun l =>
      if l.st = .commitPending then { l with pendPgen := l.pendPgen ++ [(gen, accept == 1)] }
      else setPlacement s.time.now l gen (accept == 1)) []

def execPlacement (r : Req) (gen accept : BitVec 8) (s : State) : Host.Outcome State Fault Refusal :=
  done (serve 0x0309 setWork r (.placement r gen accept) (ansPlacement r gen accept) s)

/-- R313: a timing record as bytes. -/
def timingBytes (t : TimingRec) : Bytes :=
  leBytes 8 t.step.toNat ++ leBytes 8 t.tStart.toNat ++ leBytes 8 t.tBwd.toNat ++ leBytes 8 t.tUpd.toNat ++
  leBytes 8 t.tReady.toNat ++ leBytes 8 t.tEnd.toNat ++ leBytes 2 t.mbDone.toNat ++ [t.attempts, t.reason] ++ List.replicate 12 0

/-- R289: the shard digest of the chunk digests kept at the last commit. -/
def keptDigest (k : AMap Bytes) : Bytes := sha256 (k.flatMap (·.2))

/-- R356: LEDGER_TIMES for a reader in the session of partition `sess`. A step without a record answers zeros (assumption
log 18); the kept digests are withheld outside the session of a confidential partition. -/
def ansLedgerTimes (r : Req) (sess : Option Nat) (firstStep : BitVec 64) (count digests : BitVec 8) (s : State) : Answer :=
  withOpen s r fun _ x =>
    if !within 1 62 count.toNat || decide (2 ≤ digests.toNat) then err s stBadArg 0
    else
      let recs := (List.range count.toNat).flatMap fun i =>
        match x.led.times.find? (fun t => t.step.toNat == firstStep.toNat + i) with
        | some t => timingBytes t
        | none => List.replicate 64 0
      let digs := if digests = 1 then
          (if mayRead s sess x.part then keptDigest x.led.kept ++ keptDigest x.led.keptMirror else List.replicate 64 0)
        else []
      ok s (recs ++ digs)

def execLedgerTimes (r : Req) (firstStep : BitVec 64) (count digests : BitVec 8) (s : State) : Host.Outcome State Fault Refusal :=
  done (serve 0x030A setWork r (.ledgerTimes r firstStep count digests) (ansLedgerTimes r none firstStep count digests) s)

/-! ### The ready bit (R294, R299) -/

/-- R294: the Belfry looks at the conditions: while the AND of the Downbeat program runs, a failed veto condition sends 0 at once and
all met sends 1; else REASON shows the first unmet condition. While the Belfry does not serve no bit is set (R394). -/
def judgeReady (c : Nat) (s : State) : State :=
  if !belfryUp s || (getCtx s c).led.st != .armed then s
  else match (if (votePlace s c).isSome then firstVeto s c else none) with
    | some k => castBit s c false k
    | none => match firstUnmet s c with
      | none => castBit (showReason s c 0) c true 0
      | some (k, _) => showReason s c k

def execReadyBit (c : Ctx) (s : State) : Host.Outcome State Fault Refusal := doneMem (judgeReady c.val s)

/-! ### Digests (R289, R292, R293) -/

/-- R292: the digest record. -/
def digestRec (s : State) (c : Nat) (step : BitVec 48) : Bytes :=
  let l := (getCtx s c).led
  leBytes 8 step.toNat ++ leBytes 4 s.fab.addr.toNat ++
  [BitVec.ofNat 8 c, BitVec.ofNat 8 (l.unmirrored.toNat + 2 * l.filling.toNat), 0, 0] ++ fit 32 l.own ++
  (if l.filling then List.replicate 32 0 else fit 32 l.mirror) ++ leBytes 8 (regionUsed s c false) ++ List.replicate 168 0

/-- R289, R292: both updates have finished: the digests of the aside regions are formed and the record goes to the partner's
ledger page. R307: a region that cannot be read vetoes the armed step. -/
def formDigest (c : Nat) (s : State) : State :=
  let x := getCtx s c
  let l := x.led
  if l.ownDone && (l.mirrorDone || !mirrorNeeded l) && !l.digestDone && x.st == .opened then
    let aside := liveIndex s c + 1
    let both := mirrorNeeded l && !l.filling
    match regionData s c false aside, (if both then regionData s c true aside else some []) with
    | some a, some b =>
      let s := modLed s c fun l => { l with
        own := shardDigest a, mirror := if both then shardDigest b else List.replicate 32 0, digestDone := true
        ownChunks := digestMap a, mirrorChunks := if both then digestMap b else [] }
      match l.pair with
      | some q => windowPut c s (entryVa x c q.winLedger.toNat) [digestRec s c (l.committed + 1)]
      | none => s
    | _, _ => castBit (modLed s c fun l => { l with digestBad := true }) c false 0x07
  else s

def execDigestFormed (c : Ctx) (s : State) : Host.Outcome State Fault Refusal := doneMem (formDigest c.val s)

/-- R293, R303: a record of the partner for the step in progress is taken; any other, or one that comes after the AND's TIME has
passed with the bit held back, is dropped and counted. -/
def takeRecord (c : Nat) (rec : Bytes) (s : State) : State :=
  let l := (getCtx s c).led
  let mine := match l.pair with
    | some q => leNat (slice rec 8 4) == q.peer.toNat && (rec.getD 0x0C 0).toNat == q.peerCtx.toNat
    | none => false
  let open_ := l.st == .idle || l.st == .armed || (l.st == .voted && (l.ready || l.veto))
  if mine && leNat (slice rec 0 8) == (l.committed + 1).toNat && open_ then
    modLed s c fun l => { l with partnerRec := some rec }
  else modLed s c fun l => { l with recDrop := l.recDrop + 1 }

def execDigestRecord (c : Ctx) (rec : Bytes) (s : State) : Host.Outcome State Fault Refusal :=
  if wellFormed (.digestRecord c rec) then done (takeRecord c.val rec s) else .fault (.illFormed "DIGEST_RECORD")

/-! ### The audit copy (R287) -/

/-- R287: the copy of an audited step into the audit hold: own shard, gradient, inputs, compute copies, in that order. -/
def auditCopy (c : Nat) (s : State) : State :=
  let x := getCtx s c
  if !x.led.auditCopy then s
  else
    let g := fun k => ctxSetting s c k
    let lag := g 0x604
    let step := (x.led.auditing.getD x.led.committed).toNat
    -- the own live region of the audited step: the one aside after its commit
    let parts : List (Nat × Nat) :=
      [ (regionVa s c false step, regionSize s c), (g 0x708, g 0x702), (g 0x70A + step % (1 + lag) * g 0x703, g 0x703),
        (g 0x605 + (step - lag) % (2 + lag) * g 0x606, g 0x606) ]
    let r := parts.foldl (fun (a : State × Nat) p =>
      let s := match readBytesVa a.1 c p.1 p.2 with
        | some (s, b) => putForced s c a.2 b
        | none => a.1
      (s, a.2 + p.2)) (s, g 0x70B)
    modLed r.1 c fun l => { l with auditCopy := false }

def execAuditCopyComplete (c : Ctx) (s : State) : Host.Outcome State Fault Refusal := doneMem (auditCopy c.val s)

end Sys2Proof.Machine
end

