-- ==== Sys2Proof/Machine/Peal.lean ====
section
/-! DEFINITION. The Peal commands (R357) and events: triggers, the quiesce barrier, scanning and restoring
(12_checkpoint.md). What lies in a slot is outside the module: PEAL_SCAN and RESTORE carry the bytes their reads bring
back. -/

namespace Sys2Proof.Machine

/-! ### PEAL_ARM, PEAL_ABORT, PEAL_TARGET (R320 to R323) -/

/-- R322: a Peal runs: its barrier or its writing. -/
def pealRuns (p : Peal) : Bool := p.st == .writing || p.st == .quiescing

def ansPealArm (r : Req) (step : BitVec 64) (s : State) : Answer :=
  withCtx s r fun c x =>
    if decide (2 ^ 48 ≤ step.toNat) || decide (step.toNat ≤ x.led.committed.toNat) then err s stBadArg 0
    else if pealRuns x.peal then err s stBusy 0
    else ok (modPeal s c fun p => { p with armed := some (step.setWidth 48) }) []

def execPealArm (r : Req) (step : BitVec 64) (s : State) : Host.Outcome State Fault Refusal :=
  done (serve 0x0401 setWork r (.pealArm r step) (ansPealArm r step) s)

/-- R322: a running Peal stops with error 0x05 and no manifest. -/
def ansPealAbort (r : Req) (s : State) : Answer :=
  withCtx s r fun c x =>
    match x.peal.st with
    | .writing => ok (pealStop s c) []
    | .quiescing => ok (pealFailWith s c 5) []
    | st => conflict s 2 (pealCode st) 0x6

def execPealAbort (r : Req) (s : State) : Host.Outcome State Fault Refusal :=
  done (serve 0x0404 setWork r (.pealAbort r) (ansPealAbort r) s)

/-- R323: an extent maps through host or peer windows of the context, in whole blocks. -/
def extentOk (s : State) (c : Nat) (e : Extent) : Bool :=
  let a := e.va.toNat
  let n := e.bytes.toNat
  n != 0 && a % 256 == 0 && n % 256 == 0 && decide (a + n ≤ 2 ^ 48) &&
  (List.range ((a % page2M + n + page2M - 1) / page2M)).all fun k =>
    match translate s c (BitVec.ofNat 48 (a / page2M * page2M + k * page2M)) with
    | .host _ _ => true
    | .peer _ _ _ _ _ _ => true
    | _ => false

def ansPealTarget (r : Req) (slot : BitVec 8) (extents : List Extent) (s : State) : Answer :=
  withCtx s r fun c x =>
    if decide (4 ≤ slot.toNat) || !within 1 16 extents.length || !extents.all (extentOk s c) then err s stBadArg 0
    else if x.peal.st == .writing && x.peal.slotNo == slot.toNat then err s stBusy 0
    else
      let old := getSlot x.peal slot.toNat
      let new : PealSlot := if old.extents = extents then old
        else { extents := extents, valid := false, step := 0, seq := 0, kind := 0 }
      ok (modPeal s c fun p => { p with slots := p.slots.setIfInBounds slot.toNat new }) []

def execPealTarget (r : Req) (slot : BitVec 8) (extents : List Extent) (s : State) : Host.Outcome State Fault Refusal :=
  if wellFormed (.pealTarget r slot extents) then
    done (serve 0x0405 setWork r (.pealTarget r slot extents) (ansPealTarget r slot extents) s)
  else .fault (.illFormed "PEAL_TARGET")

/-! ### The quiesce barrier (R329, R330) -/

def ansPealQuiesce (r : Req) (tq : BitVec 64) (s : State) : Answer :=
  withCtx s r fun c x =>
    if x.led.st ≠ .idle then conflict s 1 (dbCode x.led.st) 0x1
    else if pealRuns x.peal ∨ x.peal.tq.isSome then conflict s 2 (pealCode x.peal.st) 0x9
    else ok (modPeal s c fun p => { p with tq := some (armTime s (tq.setWidth 40)) }) []

def execPealQuiesce (r : Req) (tq : BitVec 64) (s : State) : Host.Outcome State Fault Refusal :=
  done (serve 0x0402 setWork r (.pealQuiesce r tq) (ansPealQuiesce r tq) s)

def ansPealResume (r : Req) (tr : BitVec 64) (s : State) : Answer :=
  withCtx s r fun c x =>
    if x.peal.st ≠ .quiesced then conflict s 2 (pealCode x.peal.st) 0x8
    else ok (modPeal s c fun p => { p with tr := some (armTime s (tr.setWidth 40)) }) []

def execPealResume (r : Req) (tr : BitVec 64) (s : State) : Host.Outcome State Fault Refusal :=
  done (serve 0x0403 setWork r (.pealResume r tr) (ansPealResume r tr) s)

/-- Hold an armed time, or free it for a first evaluation (R330). -/
def holdArm (s : State) (h : Bool) (a : Armed) : Armed :=
  if h then { a with held := true, seen := none } else lookNow s { a with held := false, seen := none }

/-- R329, R330, R448: freeze a context, or let it go on: its sequencers and the armed times of its streams and queued
programs. -/
def freeze (s : State) (c : Nat) (h : Bool) : State :=
  let s := (servingCores s c).foldl (fun s n => modC s n fun k => { k with
    frozen := h, pwrMode := if h then 0 else 2, streams := k.streams.map fun t => { t with blocked := t.blocked.map (blockedMap (holdArm s h)) } }) s
  modFab s fun f => { f with engines := f.engines.map fun e =>
    { e with queued := e.queued.map fun p => if p.ctx = c then { p with launch := holdArm s h p.launch } else p } }

/-- R329: at T_Q the cores of the context stop issue. -/
def quiesceAt (s : State) (c : Nat) : State :=
  freeze (modPeal s c fun p => { p with st := .quiescing, tq := none, taken := s.time.now, kind := 2 }) c true

/-- R330: at T_R the streams continue and each held comparison is evaluated anew. -/
def resumeAt (s : State) (c : Nat) : State :=
  let s := freeze (modPeal s c fun p => { p with st := .idle, tr := none }) c false
  (servingCores s c).foldl wakeCore s

/-- R329: no engine holds work of the context. -/
def ctxEmpty (s : State) (c : Nat) : Bool :=
  (servingCores s c).all (fun n =>
    let k := getC s n
    k.lr.isEmpty && k.mv.isEmpty && k.threads.toList.all (·.isNone) && k.copies.isEmpty && slotsHeld s n == 0) &&
  (List.range 4).all fun e => (getEngine s e).running.all fun p => p.ctx != c

/-- R329: the engines have been empty for 100 us: capture begins. -/
def execQuiesceCapture (c : Ctx) (s : State) : Host.Outcome State Fault Refusal :=
  doneMem (if (getCtx s c.val).peal.st = .quiescing && ctxEmpty s c.val then
    startPeal s c.val 2 (getCtx s c.val).led.committed else s)

/-- R329: work is still held at T_Q + 3 ms. -/
def execQuiesceBound (c : Ctx) (s : State) : Host.Outcome State Fault Refusal :=
  done (if (getCtx s c.val).peal.st = .quiescing && !ctxEmpty s c.val then
    pealFailWith s c.val 4 else s)

/-! ### PEAL_COMPLETE, PEAL_FAIL (R322, R327) -/

/-- R327: the manifest write has returned OK. -/
def execPealComplete (c : Ctx) (s : State) : Host.Outcome State Fault Refusal :=
  done (let p := (getCtx s c.val).peal
    if p.st = .writing && p.manifest && p.outst = 0 then finishPeal s c.val else s)

/-- R322: a destination write has failed. -/
def execPealFail (c : Ctx) (s : State) : Host.Outcome State Fault Refusal :=
  done (if (getCtx s c.val).peal.st = .writing then pealFailWith s c.val 1 else s)

/-! ### Reading a slot (R324 to R326, R331, R333) -/

/-- R326: the nonce of an index under a writer's address and SEQ. -/
def nonceOf (addr seq index : Nat) : Bytes := leBytes 4 addr ++ leBytes 4 (seq % 2 ^ 32) ++ leBytes 4 index

/-- R331: the plaintext bytes 0 to 0xFBF of a manifest that passes every check, and the key that opened it. -/
def openManifest (keys : List Bytes) (m : Bytes) : Option (Bytes × Option Bytes) :=
  let head := slice m 0 8
  let plainOk := fun (p : Bytes) => leNat (slice p 0 4) == 0x4C414550 && leNat (slice p 4 2) == 1 &&
    sha256 (fit 0xFC0 p) == slice m 0xFC0 32
  if (m.getD 7 0).getLsbD 0 then
    keys.findSome? fun k =>
      match Config.gcmOpen k (slice m 0xFE0 12) head (slice m 8 0xFB8) (slice m 0xFF0 16) with
      | some p => if plainOk (head ++ p) then some (fit 0xFC0 (head ++ p), some k) else none
      | none => none
  else if plainOk (slice m 0 0xFC0) then some (slice m 0 0xFC0, none) else none

/-- The keys of a context that may open a Peal (R425): none unless its partition is confidential. -/
def openKeys (s : State) (c : Nat) : List Bytes :=
  let x := getCtx s c
  if isConf s x.part then x.sec.job.toList ++ x.sec.jobPrev.toList else []

/-- R331: the 240 bytes PEAL_SCAN answers for a slot; the head packs the fields in the order of the table. -/
def scanBytes (keys : List Bytes) (m : Bytes) : Bytes :=
  match openManifest keys m with
  | none => List.replicate 240 0
  | some (p, _) =>
    let f := slice p
    let pairs := (List.range 32).flatMap fun i => if i < (p.getD 0x3E 0).toNat then
        f (0x80 + 80 * i) 4 ++ f (0x84 + 80 * i) 1 ++ [0] else List.replicate 6 0
    fit 48 ([1] ++ f 6 1 ++ f 0x20 8 ++ f 8 8 ++ f 0x10 16 ++ f 0x40 4 ++ f 0x3E 1) ++ pairs

/-- R331: a slot address is that of a window of the context. -/
def slotVaOk (s : State) (c : Nat) (va : BitVec 64) : Bool := extentOk s c { va := va, bytes := 4096 }

def ansPealScan (r : Req) (slots : List (BitVec 64)) (manifests : List Bytes) (s : State) : Answer :=
  withCtx s r fun c _ =>
    if !within 1 16 slots.length || !slots.all (slotVaOk s c) then err s stBadArg 0
    else ok s ((List.range slots.length).flatMap fun i => scanBytes (openKeys s c) (fit 4096 (manifests.getD i [])))

def execPealScan (r : Req) (slots : List (BitVec 64)) (manifests : List Bytes) (s : State) : Host.Outcome State Fault Refusal :=
  if wellFormed (.pealScan r slots manifests) then
    done (serve 0x0406 setWork r (.pealScan r slots manifests) (ansPealScan r slots manifests) s)
  else .fault (.illFormed "PEAL_SCAN")

/-! ### RESTORE (R333, R334) -/

/-- An entry read out of a slot and verified. -/
structure Loaded where
  kind  : Nat
  addr  : Nat
  ty    : Nat
  shard : Nat
  data  : Bytes

/-- R333: read one chunk of an entry: its stored bytes, opened where sealed, against its table digest. -/
def readChunk (key : Option Bytes) (nonce : Bytes) (stored digest tag : Bytes) : Option Bytes :=
  let plain := match key with
    | none => some stored
    | some k => Config.gcmOpen k nonce [] stored tag
  match plain with
  | some d => if sha256 d = digest then some d else none
  | none => none

/-- R333: entry `i` of the slot image `src`, every chunk, table and tag checked. -/
def readEntry (keys : List Bytes) (step : Nat) (src : Bytes) (i : Nat) : Option Loaded :=
  match openManifest keys (fit 4096 src) with
  | none => none
  | some (m, key) =>
    let o := 0x80 + 80 * i
    let num := fun (a n : Nat) => leNat (slice m a n)
    let off := num (o + 8) 8
    let len := num (o + 0x10) 8
    let n := num (o + 0x18) 4
    let base := (List.range i).foldl (fun a j => a + num (0x80 + 80 * j + 0x18) 4) 0
    let addr := num 0x38 4
    let seq := num 8 8
    if num 0x3E 1 ≤ i ∨ num 0x20 8 ≠ step then none
    else
      let raw := slice src off (48 * n)
      let table := match key with
        | none => some raw
        | some k => Config.gcmOpen k (nonceOf addr seq (0xFFFFFF00 + i)) [] raw (slice m (o + 0x40) 16)
      match table with
      | none => none
      | some tb =>
        if sha256 ((List.range n).flatMap fun j => slice tb (48 * j) 32) ≠ slice m (o + 0x20) 32 then none
        else
          let chunks := (List.range n).map fun j =>
            readChunk key (nonceOf addr seq (base + j))
              (slice src (off + pad4k (48 * n) + j * chunkBytes) (min chunkBytes (len - j * chunkBytes)))
              (slice tb (48 * j) 32) (slice tb (48 * j + 32) 16)
          if chunks.all (·.isSome) then
            some { kind := num 6 1, addr := addr, ty := num (o + 4) 1, shard := num o 4, data := (chunks.filterMap id).flatten }
          else none

/-- R334: a Whole-device Peal fits this module: the writer's address, and in its LEDGER entry options, layout and cores. -/
def wholeOk (s : State) (c : Nat) (l : Loaded) : Bool :=
  l.addr == s.fab.addr.toNat && (l.ty != 4 ||
    (leNat (slice l.data 80 4) == (hubOptions s.opt).toNat && (l.data.getD 84 0).toNat == s.hub.layout.toNat &&
     (l.data.getD 85 0).toNat == (partCores s (getCtx s c).part).length))

/-- The settings records of a LEDGER entry, and the offset after them. -/
def ledgerSets (b : Bytes) : Settings :=
  (List.range (leNat (slice b 130 2))).foldl (fun m i =>
    mapSet m (leNat (slice b (132 + 10 * i) 2)) (BitVec.ofNat 64 (leNat (slice b (134 + 10 * i) 8)))) []

/-- R318, R333: LEDGER is loaded. -/
def loadLedger (s : State) (c : Nat) (b : Bytes) : State :=
  let num := fun (a n : Nat) => leNat (slice b a n)
  let flag := fun (a : Nat) => num a 1 == 1
  let o := 132 + 10 * num 130 2
  let nl := num o 2
  let q := o + 2 + 32 * nl
  let pair : Option Pairing := if flag 21 then some
      { peer := BitVec.ofNat 17 (num 22 4), peerCtx := BitVec.ofNat 6 (num 26 1), winMgrad := BitVec.ofNat 32 (num 27 4)
        winLedger := BitVec.ofNat 32 (num 31 4) }
    else none
  let ver := fun (i : Nat) => ((match num (94 + 9 * i) 1 with
    | 0 => VerState.free
    | 1 => VerState.writing
    | 2 => VerState.written
    | _ => VerState.committed), BitVec.ofNat 48 (num (95 + 9 * i) 8))
  let s := modCtx s c fun x => { x with
    set := ledgerSets b
    layers := (List.range nl).map fun i => BitVec.ofNat 256 (num (o + 2 + 32 * i) 32)
    startVer := BitVec.ofNat 48 (num 86 8)
    vslots := #v[ver 0, ver 1, ver 2] }
  modLed s c fun l => { l with
    lastAudit := if flag 8 then some (BitVec.ofNat 48 (num 9 8)) else none
    quota := BitVec.ofNat 32 (num 17 4), pair := pair, absorbed := flag 35, absorbId := BitVec.ofNat 32 (num 36 4)
    adopted := BitVec.ofNat 64 (num 40 8), adoptedMirror := BitVec.ofNat 64 (num 122 8), accept := BitVec.ofNat 256 (num 48 32)
    ownDone := (num 121 1) % 2 == 1, mirrorDone := (num 121 1 / 2) % 2 == 1, filling := (num 121 1 / 4) % 2 == 1
    unmirrored := true
    records := (List.range (num q 4)).map fun i => BitVec.ofNat 48 (num (q + 4 + 6 * i) 6) }

/-- R318: PAGES is loaded: every local page mapped to the context, in ascending order. -/
def loadPages (s : State) (c : Nat) (b : Bytes) : State :=
  let x := getCtx s c
  let vs := (List.range x.pmLen.toNat).filter fun v =>
    let e := mapGet s.mem.pmap (x.pmBase.toNat + v) 0
    e.getLsbD 0 && entField e 1 2 == 0
  ((List.range vs.length).zip vs).foldl (fun s p => putForced s c (c * 2 ^ 42 + p.2 * page2M) (slice b (p.1 * page2M) page2M)) s

/-- A bank out of `bankBytes`. -/
def bankOf (b : Bytes) : Bank :=
  let w := fun (base i step off : Nat) => BitVec.ofNat 32 (leNat (slice b (base + step * i + off) 4))
  let nz := fun (l : List (Nat × BitVec 32)) => l.filter fun p => p.2 != 0
  { st := match leNat (slice b 0 1) with
      | 0 => .free
      | 1 => .filling
      | 2 => .kept
      | 3 => .draining
      | _ => .held
    m := leNat (slice b 1 1), n := leNat (slice b 2 2), pair := BitVec.ofNat 2 (leNat (slice b 4 1)), int := leNat (slice b 5 1) == 1
    k := Vector.ofFn fun q : Fin 4 => leNat (slice b (6 + 4 * q.val) 4)
    acc := nz ((List.range 32768).map fun i => (i, w 22 i 4 0))
    check := nz ((List.range 1024).map fun i => (i, w 131094 i 8 0)), bound := nz ((List.range 1024).map fun i => (i, w 131094 i 8 4))
    relIssued := false, relDone := none }

/-- A stream slot out of `streamBytes`. -/
def streamOf (c : Nat) (b : Bytes) : Stream :=
  let num := fun (a n : Nat) => leNat (slice b a n)
  { Stream.reset with
    st := match num 0 1 with
      | 0 => .idle
      | 1 => .running
      | 2 => .halted
      | _ => .stopping
    cls := BitVec.ofNat 2 (num 1 1), ctx := c, pgen := BitVec.ofNat 8 (num 2 1), first := BitVec.ofNat 48 (num 3 6)
    pc := BitVec.ofNat 48 (num 9 6)
    loops := Vector.ofFn fun i : Fin 4 => { active := num (15 + 23 * i.val) 1 == 1, ctr := BitVec.ofNat 32 (num (16 + 23 * i.val) 4)
                                            owner := BitVec.ofNat 48 (num (20 + 23 * i.val) 6), entry := BitVec.ofNat 48 (num (26 + 23 * i.val) 6)
                                            body := BitVec.ofNat 48 (num (32 + 23 * i.val) 6) }
    br := Vector.ofFn fun i : Fin 4 => BitVec.ofNat 48 (num (107 + 6 * i.val) 6)
    item := if num 131 1 = 1 then some
        { role := BitVec.ofNat 2 (num 132 1), mirror := num 133 1 == 1, recVa := BitVec.ofNat 48 (num 134 6)
          backward := num 140 1 == 1, step := BitVec.ofNat 48 (num 141 6) }
      else none }

/-- A copy-log entry out of its bytes. -/
def copyLogOf (c : Nat) (b : Bytes) : Option CopyLog :=
  let num := fun (a n : Nat) => leNat (slice b a n)
  if num 0 1 = 1 then some
    { id := none, desc := BitVec.ofNat 256 (num 1 32), src := BitVec.ofNat 48 (num 33 6)
      dst := BitVec.ofNat 48 (num 39 6), ctx := c, refetch := num 45 1 == 1
      blocks := (List.range 16384).filter fun k => num (46 + k / 8) 1 / 2 ^ (k % 8) % 2 == 1 }
  else none

/-- R318: one core is loaded; it stays frozen (R334). -/
def loadCore (s : State) (c : Nat) (b : Bytes) : State :=
  match (partCores s (getCtx s c).part)[(b.getD 0 0).toNat]? with
  | none => s
  | some n =>
    let o := 1 + stageBytes + cacheBytes
    let p := o + 2 * bankLen
    let q := p + 256 + 16 * streamLen
    let s := beginWork s n c
    modC s n fun k => { k with
      stage := memWrite [] 0 (slice b 1 stageBytes), stageBad := [], cache := memWrite [] 0 (slice b (1 + stageBytes) cacheBytes)
      cacheBad := [], banks := #v[bankOf (slice b o bankLen), bankOf (slice b (o + bankLen) bankLen)]
      sems := ((List.range 64).map fun i => (i, BitVec.ofNat 32 (leNat (slice b (p + 4 * i) 4)))).filter fun v => v.2 != 0
      streams := Vector.ofFn fun i : Fin 16 => streamOf c (slice b (p + 256 + streamLen * i.val) streamLen)
      seed := BitVec.ofNat 64 (leNat (slice b q 8))
      copyLog := (List.range 64).filterMap fun i => copyLogOf c (slice b (q + 8 + logLen * i) logLen)
      frozen := true }

/-- An armed time out of `blockedBytes`, held until the resume. -/
def blockedOf (b : Bytes) : Option Blocked :=
  let num := fun (a n : Nat) => leNat (slice b a n)
  let sem := if num 1 1 = 1 then some (BitVec.ofNat 6 (num 2 1)) else none
  let t : Option Armed := if num 8 1 = 1 then some { t := BitVec.ofNat 40 (num 9 5), seen := none, held := true } else none
  match num 0 1 with
  | 1 => some (.wait sem (num 3 1 == 1) (BitVec.ofNat 32 (num 4 4)) t)
  | 2 => some (.waitLow sem t)
  | 3 => t.map .launch
  | 5 => some .ending
  | _ => none

/-- R318: QUEUE is loaded: armed times of the streams, then queued programs, held until the resume. -/
def loadQueue (s : State) (c : Nat) (b : Bytes) : State :=
  let cores := coresOf s c
  let s := ((List.range cores.length).zip cores).foldl (fun s p => modC s p.2 fun k => { k with
    streams := Vector.ofFn fun i : Fin 16 => { getStream k i.val with blocked := blockedOf (slice b (14 * (16 * p.1 + i.val)) 14) } }) s
  let rest := b.drop (14 * 16 * cores.length)
  (chunksOf 12 (rest.length / 12) rest).foldl (fun s d =>
    match loadProgram s c (BitVec.ofNat 64 (leNat (slice d 1 6))) (BitVec.ofNat 40 (leNat (slice d 7 5))) false with
    | some (s, p) => queueProgram s (leNat (slice d 0 1)) { p with launch := holdArm s true p.launch }
    | none => s) s

/-- R333: one verified entry is loaded to its place. `step`: the step restored. -/
def loadEntry (c : Nat) (step : Nat) (s : State) (l : Loaded) : State :=
  let live := step + 1
  match l.ty with
  | 1 => putForced s c (regionVa s c (l.shard != ctxSetting s c 0x70D) live) l.data
  | 2 => putForced s c (regionVa s c true live) l.data
  | 3 => putForced s c (ctxSetting s c 0x605 + verSlot s c (BitVec.ofNat 48 step) * ctxSetting s c 0x606) l.data
  | 4 => loadLedger s c l.data
  | 5 => loadPages s c l.data
  | 6 => (chunksOf coreLen (l.data.length / coreLen) l.data).foldl (fun s b => loadCore s c b) s
  | 7 => loadQueue s c l.data
  | _ => s

/-- R243, R249: the version slots after a restore of step `step` from Downbeat or Partial Peals: the starting version is
that of the first step, and with it the version whose copies were restored. -/
def restoredVersions (s : State) (c step : Nat) (copies : Bool) : State :=
  let n := 2 + ctxSetting s c 0x604
  let free := Vector.replicate 3 (VerState.free, (0 : BitVec 48))
  let v := free.setIfInBounds ((step + 1) % n) (.committed, BitVec.ofNat 48 (step + 1))
  modCtx s c fun x => { x with
    vslots := if copies then v.setIfInBounds (step % n) (.committed, BitVec.ofNat 48 step) else v
    startVer := BitVec.ofNat 48 (if copies then step else step + 1) }

/-- Order of loading: settings and pages before what they place. -/
def loadRank (l : Loaded) : Nat :=
  match l.ty with
  | 4 => 0
  | 5 => 1
  | _ => 2

/-- R333: a restore whose entries have all been verified. -/
def restoreAll (s : State) (c step : Nat) (ls : List Loaded) : State :=
  let whole := ls.any fun l => l.kind == 2
  let s := dropPrograms s (isDownbeat c (getCtx s c).led)
  let s := ([0, 1, 2].flatMap fun k => ls.filter fun l => loadRank l == k).foldl (loadEntry c step) s
  let s := modLed s c fun l => { (if whole then { l with partnerRec := none, bad := false, collFailed := false, abandoned := false }
      else clearAttempt l) with
    st := .idle, committed := BitVec.ofNat 48 step, everArmed := false, commitAt := none, launched := false, reasons := [], reason := 0
    ready := false, veto := false, unmirrored := true, noState := false, transfers := [], redo := false }
  let s := if whole then s else restoredVersions s c step (ls.any fun l => l.ty == 3)
  let live := step + 1
  let s := modLed s c fun l => { l with
    kept := ((regionData s c false live).map digestMap).getD []
    keptMirror := ((regionData s c true live).map digestMap).getD [] }
  let n := BitVec.ofNat 16 (ls.foldl (fun a l => a + (l.data.length + chunkBytes - 1) / chunkBytes) 0)
  applyRegions (modPeal s c fun p => { p with st := if whole then .quiesced else p.st, done := n, total := n }) c

def ansRestore (r : Req) (step : BitVec 64) (items : List RestoreItem) (sources : List Bytes) (s : State) : Answer :=
  withCtx s r fun c _ =>
    if decide (2 ^ 48 ≤ step.toNat) || !within 1 64 items.length || !items.all (fun i => slotVaOk s c i.src) then err s stBadArg 0
    else
      let es := (List.range items.length).map fun k =>
        readEntry (openKeys s c) step.toNat (sources.getD k []) ((items.getD k { src := 0, entry := 0 }).entry.toNat)
      if es.any (fun e => (e.map fun l => l.kind == 2 && !wholeOk s c l).getD false) then err s stBadArg 0
      else match es.findIdx? (·.isNone) with
        | some k =>
          let s := modLed s c fun l => { l with noState := true }
          err (modPeal s c fun p => { p with err := 6 }) stDenied k
        | none => ok (restoreAll s c step.toNat (es.filterMap id)) []

def execRestore (r : Req) (step : BitVec 64) (items : List RestoreItem) (sources : List Bytes) (s : State) :
    Host.Outcome State Fault Refusal :=
  if wellFormed (.restore r step items sources) then
    doneMem (serve 0x0407 setWork r (.restore r step items sources) (ansRestore r step items sources) s)
  else .fault (.illFormed "RESTORE")

end Sys2Proof.Machine
end

