-- ==== Sys2Proof/Machine/Diagnostics.lean ====
section
/-! DEFINITION. Logs, crash dump, lifetime record, health and the arming of injections (R359, R392, R395 to R406).
SELFTEST stands in Selftest.lean, the firing of injections in Rimshot.lean. -/

namespace Sys2Proof.Machine

/-! ### LOG_READ (R396) -/

/-- R396: an error-log entry as bytes. -/
def logBytes (e : LogEntry) : Bytes :=
  leBytes 4 e.eseq.toNat ++ leBytes 2 e.code.toNat ++ [e.sev, e.flags] ++ leBytes 2 e.unit.toNat ++ [e.ctx, 0] ++
  leBytes 4 e.pom.toNat ++ leBytes 8 e.time.toNat ++ fit 40 e.body

/-- R396: a Knell-log entry as bytes. -/
def knellBytes (e : KnellEntry) : Bytes :=
  leBytes 8 e.time.toNat ++ leBytes 4 e.reporter.toNat ++ leBytes 4 e.lost.toNat ++ [e.group, e.reason, e.kind, 0] ++
  leBytes 2 e.kseq.toNat ++ [e.port] ++ List.replicate 9 0

/-- Sequence number `a` is at or after `b`, in 31 bits. -/
def seqFrom (a b : Nat) : Bool := decide ((a + 2 ^ 31 - b % 2 ^ 31) % 2 ^ 31 < 2 ^ 30)

/-- R396: LOG_READ: the oldest entries first, as many as asked for and as the body holds (R340). -/
def ansLogRead (sess : Option Nat) (fromSeq : BitVec 32) (max : BitVec 16) (s : State) : Answer :=
  let f := fromSeq.toNat % 2 ^ 31
  if max = 0 then err s stBadArg 0
  else if fromSeq.getLsbD 31 then
    let l := s.diag.knellLog
    let es := ((List.range l.length).zip l).filter fun q => seqFrom ((s.diag.knellCount - 1 - q.1) % 2 ^ 31) f
    ok s ((es.reverse.take (min max.toNat 127)).flatMap fun q => knellBytes q.2)
  else
    let es := s.diag.log.filter fun e => seqFrom (e.eseq.toNat % 2 ^ 31) f
    ok s ((es.reverse.take (min max.toNat 63)).flatMap fun e => logBytes (logSeen sess e))

def execLogRead (r : Req) (fromSeq : BitVec 32) (max : BitVec 16) (s : State) : Host.Outcome State Fault Refusal :=
  done (serve 0x0601 setAny r (.logRead r fromSeq max) (ansLogRead none fromSeq max) s)

/-- R397: once per second new entries are copied to flash. -/
def execLogFlush (s : State) : Host.Outcome State Fault Refusal := done (if belfryUp s then flushLog s else s)

/-! ### DUMP_READ, DUMP_FLASH_COPY (R397, R399) -/

/-- R399: bytes of a dump. -/
def dumpLen : Nat := 1118208

/-- R359: DUMP_READ; with no dump taken the area reads 0 (assumption log 21). -/
def ansDumpRead (offset : BitVec 32) (n : BitVec 16) (s : State) : Answer :=
  if !within 1 4064 n.toNat || decide (dumpLen < offset.toNat + n.toNat) then err s stBadArg 0
  else ok s (slice (s.diag.dump.getD []) offset.toNat n.toNat)

def execDumpRead (r : Req) (offset : BitVec 32) (n : BitVec 16) (s : State) : Host.Outcome State Fault Refusal :=
  done (serve 0x0602 setAny r (.dumpRead r offset n) (ansDumpRead offset n) s)

def execDumpFlashCopy (s : State) : Host.Outcome State Fault Refusal := done (if belfryUp s then copyDump s else s)

/-! ### The lifetime record (R400, R401) -/

/-- R401: bytes of a counter of the record, by its offset. -/
def lifeWidth (off : Nat) : Nat :=
  if off = 0x3C ∨ off = 0x3E then 2
  else if 0x400 ≤ off ∧ off < 0xB80 ∧ (off - 0x400) % 24 = 0 then 8
  else if 0x1400 ≤ off ∧ off < 0x1760 ∧ (off - 0x1400) % 24 = 0 then 8 else 4

/-- R401: the record, from the working copy; a counter that is full stays there, since none decreases. -/
def lifeBytes (d : Diag) : Bytes :=
  let head := leBytes 4 0x4546494C ++ leBytes 2 1 ++ [0, 0] ++ leBytes 8 d.wseq.toNat ++ leBytes 4 d.pom
  let b := d.life.foldl (fun b p => overlay b p.1 (leBytes (lifeWidth p.1) (min p.2 (256 ^ lifeWidth p.1 - 1)))) (fit 0x1FE0 head)
  b ++ sha256 b

/-- R359: LIFETIME_READ. -/
def ansLifetimeRead (offset : BitVec 32) (n : BitVec 16) (s : State) : Answer :=
  if !within 1 4064 n.toNat || decide (8192 < offset.toNat + n.toNat) then err s stBadArg 0
  else ok s (slice (lifeBytes s.diag) offset.toNat n.toNat)

def execLifetimeRead (r : Req) (offset : BitVec 32) (n : BitVec 16) (s : State) : Host.Outcome State Fault Refusal :=
  done (serve 0x0603 setAny r (.lifetimeRead r offset n) (ansLifetimeRead offset n) s)

/-- R255: the FEC counters of the ports join the lifetime record. -/
def foldPorts (s : State) : State :=
  (List.range (portCount s)).foldl (fun s p =>
    let b := getPort s p
    let s := lifeAdd (lifeAdd s (0x1400 + 24 * p) (b.fecCorr - b.lifeCorr).toNat) (0x1400 + 24 * p + 8) (b.fecUncorr - b.lifeUncorr).toNat
    setPort s p { b with lifeCorr := b.fecCorr, lifeUncorr := b.fecUncorr }) s

/-- R400: the record is written to the next of its four slots: every hour, with the counters of the ports, and for an event at
most once in 60 s. -/
def execLifetimeWrite (s : State) : Host.Outcome State Fault Refusal :=
  done (if belfryUp s && s.diag.pom % 60 == 0 then writeLife (foldPorts s)
    else if belfryUp s && s.diag.lifeDirty && ((s.diag.lifeAt.map fun t => decide (t + 60 * ticksPerSec ≤ s.ticks)).getD true)
    then writeLife s else s)

/-! ### The health score (R402) -/

/-- The three totals. -/
def evidAll (s : State) : List Nat := [evidTotal s 0, evidTotal s 1, evidTotal s 2]

/-- R402: how many totals reach a value. -/
def evidOver (s : State) (v : Nat) : Nat := ((evidAll s).filter fun e => decide (v ≤ e)).length

/-- R485: the body of HEALTH. -/
def healthBody (s : State) (new : Health) : Bytes :=
  [BitVec.ofNat 8 (healthCode s.diag.health), BitVec.ofNat 8 (healthCode new)] ++ (evidAll s).map (BitVec.ofNat 8)

/-- R402: enter a health state. -/
def setHealth (s : State) (h : Health) : State :=
  if s.diag.health = h then s
  else modDiag (postNotice s 0x000E none (healthBody s h)) fun d => { d with health := h, calmSince := s.ticks, calmWatch := s.ticks }

/-- R402: one evaluation of the score. -/
def evalHealth (s : State) : State :=
  let hour := 3600 * ticksPerSec
  -- since when the two calm conditions have held
  let s := modDiag s fun d => { d with
    evid := d.evid.filter fun e => decide (s.ticks < e.tick + hour)
    calmSince := if evidOver s 20 = 0 ∧ evidOver s 10 ≤ 1 then d.calmSince else s.ticks
    calmWatch := if evidOver s 10 = 0 then d.calmWatch else s.ticks }
  match s.diag.health with
  | .healthy => if 1 ≤ evidOver s 20 then setHealth s .watch else s
  | .watch =>
    if 2 ≤ evidOver s 20 ∨ 1 ≤ evidOver s 60 then setHealth s .suspect
    else if s.diag.calmWatch + hour ≤ s.ticks then setHealth s .healthy else s
  | .suspect => if s.diag.calmSince + hour ≤ s.ticks then setHealth s .watch else s

def execHealth (s : State) : Host.Outcome State Fault Refusal := done (if belfryUp s then evalHealth s else s)

/-- R392: HUB_CHIME advances every millisecond while the Belfry serves. -/
def execChime (s : State) : Host.Outcome State Fault Refusal :=
  done (if belfryUp s && !s.hub.bootRom && s.hub.dev != .cold && s.hub.dev != .booting then
    modHub s fun h => { h with chime := h.chime + 1 } else s)

/-! ### RIMSHOT (R405) -/

/-- R405: the partition an injection's target lies in. -/
def injectPart (s : State) (d : Injection) : Option Nat :=
  let t := d.target.toNat
  match d.kind.toNat with
  | 5 => some (chanPart s t)
  | 6 | 7 | 10 => none
  | _ => some (corePart s t)

/-- R405: the descriptor names a kind, a target, and a count. -/
def injectOk (s : State) (d : Injection) : Bool :=
  let t := d.target.toNat
  within 1 10 d.kind.toNat && within 1 1000 d.count.toNat &&
  (match d.kind.toNat with
   | 5 => decide (t < chanCount s)
   | 6 | 7 | 10 => decide (t < portCount s)
   | _ => decide (t < 128))

/-- R21: the target is a logical core that does not serve. -/
def injectGone (s : State) (d : Injection) : Bool :=
  match d.kind.toNat with
  | 5 | 6 | 7 | 10 => false
  | _ => !inService s d.target.toNat

/-- R405: an injection that has fired as often as it asks and has no effect left. -/
def injectSpent (s : State) (a : Armed16) : Bool :=
  a.time.isNone && decide (a.d.count.toNat ≤ a.fired) && a.active == 0 &&
  (match a.attrib with
   | some t => decide (t + 4000000 < s.ticks)
   | none => true)

/-- R21, R359, R405: RIMSHOT. -/
def ansRimshot (d : Injection) (s : State) : Answer :=
  if !dbgEn s then err s stDenied 0
  else if !injectOk s d then err s stBadArg 0
  else if injectGone s d then err s stFenced 0
  else if ((injectPart s d).map (isConf s)).getD false then err s stDenied 0
  else match s.diag.inject.toList.findIdx? (fun a => (a.map (injectSpent s)).getD true) with
    | none => err s stNoResource 0
    | some i =>
      let a : Armed16 := { d := d, time := some (armTime s (d.tFire.setWidth 40)), fired := 0, nextAt := 0, active := 0, attrib := none }
      ok (modDiag s fun g => { g with inject := g.inject.setIfInBounds i (some a) }) []

def execRimshot (r : Req) (d : Injection) (s : State) : Host.Outcome State Fault Refusal :=
  done (serve 0x0605 setLive r (.rimshot r d) (ansRimshot d) s)

end Sys2Proof.Machine
end

