-- ==== Sys2Proof/Machine/Rimshot.lean ====
section
/-! DEFINITION. The firing of injections and the taking of their effects (R405, R406). Kinds 0x01 to 0x03, 0x05, 0x06, 0x08
and 0x0A wait for the event they change; kind 0x04 acts at once; kinds 0x07 and 0x09 last for DURATION_US. -/

namespace Sys2Proof.Machine

/-- R405: a byte of the stage buffer changes to another value, which is open; the stored CRC of its block stays. -/
def corruptStage (s : State) (n a : Nat) : State :=
  if stageBytes ≤ a then s
  else
    let f := drawFree s 8
    modC f.2 n fun c =>
      let k := a / 256
      let old := memRead c.stage (256 * k) 256
      let b := memGet c.stage a + 1 + BitVec.ofNat 8 (f.1.toNat % 255)
      let stage := memSet c.stage a b
      let x := mapGet c.stageBad k 0 ^^^ crc32c old ^^^ crc32c (memRead stage (256 * k) 256)
      { c with stage := stage, stageBad := if x = 0 then mapErase c.stageBad k else mapSet c.stageBad k x }

/-- R405: one firing of an injection. -/
def fireEffect (s : State) (d : Injection) : State :=
  let t := d.target.toNat
  match d.kind.toNat with
  | 4 => corruptStage s t d.addr.toNat
  | 7 => modPort s t fun b => { b with muted := true }
  | 9 => modC s t fun c => { c with stopped := true }
  | _ => s

/-- R405, R406: injection `i` fires. -/
def fireInjection (s : State) (i : Nat) (a : Armed16) : State :=
  let lasting := a.d.kind == 7 || a.d.kind == 9
  let a := { a with
    time := none, fired := a.fired + 1, nextAt := s.ticks + a.d.intervalUs.toNat * ticksPerUs, attrib := some s.ticks
    active := if a.d.kind = 4 then 0 else if lasting then 1 else a.active + 1 }
  fireEffect (setInject s i a) a.d

/-- R405: the repetitions, INTERVAL_US apart. -/
def repeatInjection (s : State) (i : Nat) : State :=
  match injectAt s i with
  | some a =>
    if a.time.isNone && decide (1 ≤ a.fired) && decide (a.fired < a.d.count.toNat) && decide (a.nextAt ≤ s.ticks) then
      fireInjection s i a
    else s
  | none => s

/-- R405: DURATION_US of a lasting injection ends: the transmitters resume and the port trains, or the sequencer goes on. -/
def endInjection (s : State) (i : Nat) : State :=
  match injectAt s i with
  | some a =>
    if a.active = 0 then s
    else if a.d.kind = 7 then
      let p := a.d.target.toNat
      let s := setInject s i { a with active := 0 }
      let s := modPort s p fun b => { b with muted := false }
      if (getPort s p).st = .retired then s else portToTraining s p
    else if a.d.kind = 9 then
      let s := setInject s i { a with active := 0 }
      wakeCore (modC s a.d.target.toNat fun c => { c with stopped := false }) a.d.target.toNat
    else s
  | none => s

def execRimshotMuteEnd (n : Fin 16) (s : State) : Host.Outcome State Fault Refusal := done (endInjection s n.val)

end Sys2Proof.Machine
end

