-- ==== Sys2Proof/Machine/Carillon.lean ====
section
/-! DEFINITION. Configuration sessions and the Carillon image (R358, R361 to R370, R484). -/

namespace Sys2Proof.Machine

/-- R362: bytes of a region. -/
def regionLen (r : Nat) : Nat := if r = 1 then 524288 else if r = 7 then 65536 else 262144

/-- R364: the copy that a session prepares: the one not in force. -/
def staleCopy (s : State) : Carillon := if s.hub.cfgCopyB then s.mail.copyA else s.mail.copyB

/-- Change that copy. -/
def modStale (s : State) (f : Carillon → Carillon) : State :=
  modMail s fun m => if s.hub.cfgCopyB then { m with copyA := f m.copyA } else { m with copyB := f m.copyB }

/-- GEN of the copy in force; 0 while only the factory regions apply. -/
def genInForce (s : State) : BitVec 32 := if s.hub.cfgDefault then 0 else (copyInForce s).gen

/-- R343: the session as a mailbox finds it: none, held by it, or held by another. -/
def holds (s : State) (r : Req) : Bool := (s.mail.session.map fun q => q.mbx == r.mbx.val).getD false

/-- STATE_CONFLICT on the configuration session. -/
def sessionConflict (s : State) (legal : BitVec 32) : Answer := conflict s 6 (s.mail.session.isSome.toNat) legal

/-- R367: CFG_BEGIN. -/
def ansCfgBegin (r : Req) (s : State) : Answer :=
  if s.mail.session.isSome then sessionConflict s 0x1
  else
    let d := if s.hub.cfgDefault then Vector.replicate 6 [] else (copyInForce s).data
    let s := modStale s fun c => { c with headerOk := false, data := d }
    let s := modMail s fun m => { m with session := some { mbx := r.mbx.val, last := s.ticks } }
    ok s (leBytes 4 (genInForce s).toNat)

def execCfgBegin (r : Req) (s : State) : Host.Outcome State Fault Refusal :=
  done (serve 0x0501 setUp r (.cfgBegin r) (ansCfgBegin r) s)

/-- R367, R370: CFG_WRITE. -/
def ansCfgWrite (r : Req) (region : BitVec 8) (offset : BitVec 32) (data : Bytes) (s : State) : Answer :=
  let g := region.toNat
  if !holds s r then sessionConflict s (if s.mail.session.isSome then 0x1 else 0x2)
  else if g < 2 then err s stDenied 0
  else if 8 ≤ g ∨ !within 1 4000 data.length ∨ regionLen g < offset.toNat + data.length then err s stBadArg 0
  else
    let m := memWrite ((staleCopy s).data.getD (g - 2) []) offset.toNat data
    if g = 7 ∧ offset.toNat < 4 ∧ r.mbx.val < 16 ∧ memRead m 0 4 ≠ fit 4 s.mail.cal then err s stDenied 0
    else ok (modStale s fun c => { c with data := c.data.setIfInBounds (g - 2) m }) []

def execCfgWrite (r : Req) (region : BitVec 8) (offset : BitVec 32) (data : Bytes) (s : State) :
    Host.Outcome State Fault Refusal :=
  if wellFormed (.cfgWrite r region offset data) then
    done (serve 0x0502 setUp r (.cfgWrite r region offset data) (ansCfgWrite r region offset data) s)
  else .fault (.illFormed "CFG_WRITE")

/-- Keys strictly ascend (R362). -/
def keysRise : List Setting → Bool
  | a :: b :: t => decide (a.key.toNat < b.key.toNat) && keysRise (b :: t)
  | _ => true

/-- R360, R362, R484: the records of a user region are all taken. -/
def regionOk (s : State) (m : Memory) : Bool :=
  let rs := regionRecs m
  let get := fun k => recValue rs k (mapGet s.mail.factory k 0).toNat
  keysRise rs && (List.range rs.length).all fun i =>
    let r := recordAt m (16 * i)
    let k := r.key.toNat
    keyKnown k && !volatileOnly k && memRead m (16 * i + 2) 2 == [0, 0] &&
    (if isRegulKey k then decide (r.scope.toNat < 4) else r.scope == 0) && valueOk get 0 (!s.opt.m54) k r.value.toNat

/-- A signed 16-bit field lies within `[-n, n]`. -/
def near16 (b : Bytes) (o n : Nat) : Bool := decide ((signed (leNat (slice b o 2)) 16).natAbs ≤ n)

/-- R369: the user calibration lies within its bounds. -/
def calOk (m : Memory) : Bool :=
  let b := memRead m 0 0x128
  near16 b 0 5000 && near16 b 2 2000 && near16 b 4 2000 && near16 b 6 2000 &&
  (List.range 144).all (fun i =>
    let v := leNat (slice b (8 + 2 * i) 2)
    decide (field v 0 5 ≤ 16) && decide (field v 5 5 ≤ 22) && field v 14 1 == 0) &&
  m.all fun c => decide (c.1 < 0x128)

/-- R367: the first region that is not valid. -/
def badRegion (s : State) (c : Carillon) : Option Nat :=
  [2, 3, 4, 5, 6, 7].find? fun g => let m := c.data.getD (g - 2) []
    if g = 7 then !calOk m else !regionOk s m

/-- R367, R369: CFG_COMMIT. -/
def ansCfgCommit (r : Req) (abandon : BitVec 8) (s : State) : Answer :=
  if !holds s r then sessionConflict s (if s.mail.session.isSome then 0x1 else 0x2)
  else if abandon = 1 then ok (modMail s fun m => { m with session := none }) (leBytes 4 (genInForce s).toNat)
  else if abandon ≠ 0 then err s stBadArg 0
  else
    let c := staleCopy s
    match badRegion s c with
    | some g => err s stBadArg g
    | none =>
      let g := genInForce s + 1
      let cur := copyInForce s
      let s := modStale s fun c => { c with
        headerOk := true, digestOk := true, gen := g, profOk := !s.hub.cfgDefault && cur.profOk, profile := cur.profile }
      ok (modMail s fun m => { m with session := none, cal := memRead (c.data.getD 5 []) 0 0x128 }) (leBytes 4 g.toNat)

def execCfgCommit (r : Req) (abandon : BitVec 8) (s : State) : Host.Outcome State Fault Refusal :=
  done (serve 0x0503 setUp r (.cfgCommit r abandon) (ansCfgCommit r abandon) s)

/-- R367: 60 s have passed with no command in the session. -/
def execCfgSessionTimeout (s : State) : Host.Outcome State Fault Refusal :=
  done (modMail s fun m => { m with session := none })

/-- A setting record as bytes (R360). -/
def recordBytes (key scope : Nat) (v : BitVec 64) : Bytes := leBytes 2 key ++ [0, 0] ++ leBytes 4 scope ++ leBytes 8 v.toNat

/-- The settings in force as records, keys ascending, then partitions (assumption log 20). -/
def inForceBytes (s : State) : Bytes :=
  ((List.range 0xA00).filter fun k => keyKnown k && !volatileOnly k).flatMap fun k =>
    if isRegulKey k then (List.range (partCount s.hub.layout)).flatMap fun p => recordBytes k p (BitVec.ofNat 64 (regulValue s p k))
    else recordBytes k 0 (devSetting s k)

/-- R358: CFG_READ. -/
def ansCfgRead (src region : BitVec 8) (offset : BitVec 32) (n : BitVec 16) (s : State) : Answer :=
  let g := region.toNat
  if 3 ≤ src.toNat ∨ 8 ≤ g ∨ !within 1 4000 n.toNat then err s stBadArg 0
  else if src = 2 then
    let b := if g = 7 then s.mail.cal else inForceBytes s
    if b.length < offset.toNat + n.toNat then err s stBadArg 0 else ok s (slice b offset.toNat n.toNat)
  else if regionLen g < offset.toNat + n.toNat then err s stBadArg 0
  else if g < 2 then ok s ((List.range n.toNat).map fun i => Config.factoryByte g (offset.toNat + i))
  else
    let c := if src = 0 then s.mail.copyA else s.mail.copyB
    ok s (memRead (c.data.getD (g - 2) []) offset.toNat n.toNat)

def execCfgRead (r : Req) (src region : BitVec 8) (offset : BitVec 32) (n : BitVec 16) (s : State) :
    Host.Outcome State Fault Refusal :=
  done (serve 0x0504 setAny r (.cfgRead r src region offset n) (ansCfgRead src region offset n) s)

end Sys2Proof.Machine
end

