-- ==== Sys2Proof/Machine/Update.lean ====
section
/-! DEFINITION. Live update: staging, verification, activation, the PHY rollout (R358, R371 to R377, R440, R441). The
handoff's end stands in Restart.lean, the microcode rollout in Replay.lean. -/

namespace Sys2Proof.Machine

def getImage (s : State) (ty : Nat) : Image := s.mail.images.getD ty Image.initial

/-- R361: bytes of the region of an image type. -/
def imageLen (ty : Nat) : Nat := if ty = 1 then 16777216 else 4194304

/-- R377: a type is being activated, or an activated image waits for the device reset. -/
def activating (s : State) (ty : Nat) : Bool :=
  decide (0x10 ≤ (getImage s ty).phase.toNat) || (getImage s ty).atReset || (s.hub.actReq.map fun q => q.2.1 == ty).getD false

/-- Bytes laid over a staging copy; erased flash reads as ones. -/
def stageOver (b : Bytes) (off : Nat) (d : Bytes) : Bytes :=
  let b := b ++ List.replicate (off - b.length) 0xFF
  b.take off ++ d ++ b.drop (off + d.length)

/-- R371: UPDATE_WRITE. -/
def ansUpdateWrite (ty : BitVec 8) (offset : BitVec 32) (data : Bytes) (s : State) : Answer :=
  if 4 ≤ ty.toNat ∨ !within 1 4000 data.length ∨ imageLen ty.toNat < offset.toNat + data.length then err s stBadArg 0
  else if activating s ty.toNat then err s stBusy 0
  else
    ok (modImage s ty.toNat fun i =>
      let b := if offset = 0 ∧ i.phase ≠ 1 then [] else i.staged
      { i with staged := stageOver b offset.toNat data, verified := false, stagedVer := 0, stagedFloor := 0, stagedDigest := [], phase := 1 }) []

def execUpdateWrite (r : Req) (ty : BitVec 8) (offset : BitVec 32) (data : Bytes) (s : State) : Host.Outcome State Fault Refusal :=
  if wellFormed (.updateWrite r ty offset data) then
    done (serve 0x0510 setAny r (.updateWrite r ty offset data) (ansUpdateWrite ty offset data) s)
  else .fault (.illFormed "UPDATE_WRITE")

/-- R440: an image verifies. `sigOk`: its HSS signature verifies against the fused key of its slot. -/
def imageOk (s : State) (ty : Nat) (b : Bytes) (sigOk : Bool) : Bool :=
  let num := fun (a n : Nat) => leNat (slice b a n)
  sigOk && num 0 4 == 0x474D495A && num 4 1 == ty && num 5 3 == 0 && decide (num 0x14 1 ≤ 1) && !s.sec.revoked.getLsbD (num 0x14 1) &&
  decide (num 0x40 4 ≤ 7936) && decide (8192 + num 0x10 4 ≤ b.length) && sha256 (slice b 8192 (num 0x10 4)) == slice b 0x20 32 &&
  decide ((getImage s ty).floor.toNat ≤ num 8 4)

/-- R371, R440: UPDATE_VERIFY. -/
def ansUpdateVerify (ty : BitVec 8) (sigOk : Bool) (s : State) : Answer :=
  if 4 ≤ ty.toNat then err s stBadArg 0
  else if activating s ty.toNat then err s stBusy 0
  else
    let b := (getImage s ty.toNat).staged
    if !imageOk s ty.toNat b sigOk then err s stDenied 0
    else
      ok (modImage s ty.toNat fun i => { i with
        verified := true, stagedVer := BitVec.ofNat 32 (leNat (slice b 8 4)), stagedFloor := BitVec.ofNat 32 (leNat (slice b 12 4))
        stagedDigest := sha256 (slice b 0 256), revoke := b.getD 0x15 0, phase := 2 }) (slice b 8 4)

def execUpdateVerify (r : Req) (ty : BitVec 8) (sigOk : Bool) (s : State) : Host.Outcome State Fault Refusal :=
  done (serve 0x0511 setAny r (.updateVerify r ty sigOk) (ansUpdateVerify ty sigOk) s)

/-- R441: an activation has succeeded: the floor of the type and the revocations follow it. -/
def raiseFloors (s : State) (ty : Nat) : State :=
  let i := getImage s ty
  let keep : BitVec 2 := BitVec.ofNat 2 (2 ^ (i.staged.getD 0x14 0).toNat)
  let s := modSecCore s fun k => { k with
    revoked := k.revoked ||| (i.revoke.setWidth 2 &&& ~~~keep)
    fuseFloor := if ty = 0 then min 64 (max k.fuseFloor i.stagedFloor.toNat) else k.fuseFloor }
  modImage s ty fun i => { i with
    floor := if i.floor.toNat < i.stagedFloor.toNat then i.stagedFloor else i.floor, result := 1 }

/-- R441, R375, R376: an activated image whose units do not all run it yet: it is in force from the next device reset. -/
def waitReset (phase : BitVec 8) (i : Image) : Image := { i with phase := phase, verified := false, atReset := true }

/-- R485: the body of UPDATE. -/
def updateBody (ty : Nat) (phase result : BitVec 8) : Bytes := [BitVec.ofNat 8 ty, phase, result]

/-- The request that an activation answers. -/
def answerActivate (s : State) (status : BitVec 8) : State :=
  match s.hub.actReq with
  | some (r, _, _) => respond (modHub s fun h => { h with updating := false, actReq := none }) r 0x0512 status 0 0 0x18 []
  | none => modHub s fun h => { h with updating := false }

/-- R373 to R376: an activation ends with success; `left`: the phase of what stays pending. -/
def activated (s : State) (ty : Nat) (left : BitVec 8) : State :=
  let s := modImage (raiseFloors s ty) ty fun i => if left = 0 then swapImage i else waitReset left i
  let s := if left = 0 then modFab (modHub s fun h => { h with newSlots := [] }) fun f => { f with
      ports := f.ports.map fun b => { b with phyNew := false } } else s
  answerActivate (postNotice s 0x000C none (updateBody ty left 1)) stOk

/-- R374, R376: an activation is rolled back. -/
def rolledBack (s : State) (ty : Nat) : State :=
  let s := modImage s ty fun i => { i with phase := 0, result := 2, verified := false, pending := [], done := 0 }
  answerActivate (postNotice s 0x000C none (updateBody ty 0 2)) stOk

/-- Ports in service. -/
def upPorts (s : State) : List Nat := (List.range (portCount s)).filter fun p => portUp (getPort s p)

/-- R376: the ports that a rollout may still take: not the only UP port of their group. -/
def rollable (s : State) (ps : List Nat) : List Nat :=
  ps.filter fun p => (groupUp s (p / 4) false).any (· != p) || !portUp (getPort s p)

/-- R375: the die of a logical core has a free spare slot. -/
def hasSpare (s : State) (n : Nat) : Bool := !(freeSpares s (n / 32)).isEmpty

/-- R375, R376: a rollout has done all it can: what is left stays PENDING. -/
def rollDone (s : State) : State :=
  match s.hub.actReq with
  | some (_, 2, _) =>
    let p := (getImage s 2).pending
    if p.all fun n => !hasSpare s n then activated s 2 (if p.isEmpty then 0 else 0x21) else s
  | some (_, 3, _) =>
    let p := (getImage s 3).pending
    if (rollable s p).isEmpty && s.fab.ports.toList.all (fun b => !b.phyNew || b.st != .training) then
      activated s 3 (if p.isEmpty then 0 else 0x31) else s
  | _ => s

/-- R373 to R377: UPDATE_ACTIVATE. -/
def ansUpdateActivate (r : Req) (ty : BitVec 8) (windowMs : BitVec 32) (s : State) : Answer :=
  if 4 ≤ ty.toNat ∨ !within 1 10000 windowMs.toNat then err s stBadArg 0
  else if !(getImage s ty.toNat).verified then err s stDenied 0
  else
    let begin := fun (s : State) => modHub (handed s r) fun h => { h with
      updating := true, actReq := some (r, ty.toNat, s.ticks + windowMs.toNat * 4000000) }
    match ty.toNat with
    | 0 => ok (modImage (raiseFloors s 0) 0 (waitReset 0)) []
    | 1 =>
      if devNow s == .fenced then ok (modImage (raiseFloors s 1) 1 (waitReset 0)) []
      else later (begin s)
    | 2 =>
      let cores := (List.range 128).filter (inService s)
      later (rollDone (modImage (begin s) 2 fun i => { i with phase := 0x20, pending := cores, done := 0 }))
    | _ => later (rollDone (modImage (begin s) 3 fun i => { i with phase := 0x30, pending := upPorts s, done := 0 }))

/-- R358: the states in which an activation is legal: FENCED for the Belfry's type only. -/
def activateSet (ty : BitVec 8) : BitVec 32 := if ty = 1 then 0x58 else 0x18

def execUpdateActivate (r : Req) (ty : BitVec 8) (windowMs : BitVec 32) (s : State) : Host.Outcome State Fault Refusal :=
  done (serve 0x0512 (activateSet ty) r (.updateActivate r ty windowMs) (ansUpdateActivate r ty windowMs) s)

/-- R358: UPDATE_STATUS. -/
def ansUpdateStatus (ty : BitVec 8) (s : State) : Answer :=
  if 4 ≤ ty.toNat then err s stBadArg 0
  else
    let i := getImage s ty.toNat
    ok s ([i.phase] ++ leBytes 2 i.done.toNat ++ leBytes 2 i.pending.length ++ [i.result])

def execUpdateStatus (r : Req) (ty : BitVec 8) (s : State) : Host.Outcome State Fault Refusal :=
  done (serve 0x0513 setAny r (.updateStatus r ty) (ansUpdateStatus ty) s)

/-! ### The PHY rollout (R376) -/

/-- R350: a rollout waits while the device is RECOVERING. -/
def recovering (s : State) : Bool := s.hub.belfryDown || s.hub.diesDown != 0

/-- R376: one port leaves service, takes the new firmware and trains (`ok`), or fails to train on it: it trains again on the
previous firmware and the rollout stops. One port of a group at a time. -/
def phyRoll (p : Nat) (ok : Bool) (s : State) : State :=
  match s.hub.actReq with
  | some (_, 3, _) =>
    let i := getImage s 3
    let free := (groupPorts s (p / 4)).all fun q => (getPort s q).st != .training
    if recovering s || !(i.pending.contains p && free && (rollable s i.pending).contains p) then s
    else
      let s := portToTraining s p
      if ok then
        let s := modPort s p fun b => { b with phyNew := true }
        rollDone (modImage s 3 fun i => { i with pending := i.pending.erase p, done := i.done + 1 })
      else rolledBack (modFab s fun f => { f with ports := f.ports.map fun b => { b with phyNew := false } }) 3
  | _ => s

def execPhyRollPort (p : Port) (ok : Bool) (s : State) : Host.Outcome State Fault Refusal := done (phyRoll p.val ok s)

end Sys2Proof.Machine
end

