-- ==== Sys2Proof/Machine/Security.lean ====
section
/-! DEFINITION. The security commands (R359, R409 to R445): confidential mode, quarantine and blanking, tenant sessions and
their inner commands, keys and their rotation, IDE, signatures and the attestation report. -/

namespace Sys2Proof.Machine

/-! ### SEC_CONF, blanking (R409, R410, R417) -/

/-- R445: the body of SEC_EVENT; no context, or no partition, reads 0xFF. -/
def secEventBody (kind : BitVec 8) (part ctx : Nat) : Bytes := [kind, BitVec.ofNat 8 part, BitVec.ofNat 8 ctx]

/-- Set the CONF bit of a partition. -/
def setConf (s : State) (p : Nat) (on : Bool) : State :=
  let bit : BitVec 4 := BitVec.ofNat 4 (2 ^ p)
  modHub s fun h => { h with conf := if on then h.conf ||| bit else h.conf &&& ~~~bit }

/-- Every data page of a partition is in quarantine, in ascending order. -/
def quarantineAll (s : State) (p : Nat) : State :=
  modMem s fun m => { m with quar := m.quar.setIfInBounds p (List.range (partPages s)) }

/-- R409: the running Belfry image is verified: the boot ROM does not serve in its place. -/
def attested (s : State) : Bool := !s.hub.bootRom

/-- R359, R409, R410: SEC_CONF. -/
def ansSecConf (part enable : BitVec 8) (s : State) : Answer :=
  let p := part.toNat
  if !s.opt.conf then err s stUnsupported 0
  else if partCount s.hub.layout ≤ p ∨ 1 < enable.toNat then err s stBadArg 0
  else if !(openCtxs s p).isEmpty then conflict s 5 1 0x1
  else if enable = 1 then
    if dbgEn s || !attested s || lmsRemain s == 0 then err s stDenied 0
    else
      let s := modSecCore s fun k => { k with kb := k.kb.setIfInBounds p (some k.nextKey), nextKey := k.nextKey + 1 }
      ok (quarantineAll (setConf s p true) p) []
  else
    let s := modMail s fun m => { m with sessions := m.sessions.setIfInBounds p none }
    let s := modSecCore s fun k => { k with
      ide := k.ide &&& ~~~(BitVec.ofNat 4 (2 ^ p)), ideKeys := k.ideKeys.setIfInBounds p (Vector.replicate 2 []) }
    ok (quarantineAll (setConf s p false) p) []

def execSecConf (r : Req) (part enable : BitVec 8) (s : State) : Host.Outcome State Fault Refusal :=
  done (serve 0x0901 setCfg r (.secConf r part enable) (ansSecConf part enable) s)

/-- Charge the background tokens of work of the Belfry on whole pages, which lie on every die of their partition (R417, R427). -/
def chargeBackground (s : State) (p n : Nat) : State :=
  (List.range 4).foldl (fun s d => if dieOwner s d = p then setSlice s d 3 (sliceOf s d 3 - dieShare s d n) else s) s

/-- One slot of a page, as 16 blocks at a position: zeros, blank under the blank key where `conf`. -/
def blankSlot (m : Mem) (pos byte : Nat) (conf : Bool) : Mem :=
  let k := blockKey pos (byte / 256)
  let out := fun {α : Type} (a : AMap α) => a.filter fun q => decide (q.1 < k) || decide (k + 16 ≤ q.1)
  { m with
    cells := memClear m.cells (cellAddr pos byte) (cellAddr pos byte + 4096), bad := out m.bad
    sealKey := if conf then (List.range 16).foldl (fun a i => mapSet a (k + i) blankSeal) m.sealKey else out m.sealKey
    unit := mapErase m.unit (unitKey pos (byte / 4096)) }

/-- R417, R410: write every block of a page as a blank block, or as zeros. -/
def blankLocal (s : State) (p pg : Nat) : State :=
  (List.range 512).foldl (fun s i =>
    let (ch, byte) := placeByte s p pg (4096 * i)
    let s := awaitCopy s ch (byte / 4096)
    let pos := servePos s ch (byte / 4096) true
    modCtrl (modMem s fun m => blankSlot m pos byte (isConf s p)) pos fun k =>
      touchLine (touchLine { k with wr := k.wr + 16 } (metaAddr (byte / 256)) true) (unitAddr (byte / 4096)) true) s

/-- R417, R410: the lowest page of a quarantine is blanked and leaves it; after the last one of a disabled partition the
blank key is erased. -/
def blankNext (p : Nat) (s : State) : State :=
  match s.mem.quar.getD p [] with
  | [] => s
  | pg :: rest =>
    let s := chargeBackground (blankLocal s p pg) p 8192
    let s := modMem s fun m => { m with quar := m.quar.setIfInBounds p rest }
    if rest.isEmpty && !isConf s p then modSecCore s fun k => { k with kb := k.kb.setIfInBounds p none } else s

def execBlankPage (p : Part) (s : State) : Host.Outcome State Fault Refusal := done (if belfryUp s then blankNext p.val s else s)

/-! ### Keys (R425 to R427) -/

/-- The partition in whose session a request comes. -/
def sessOf : ReqPath → Option Nat
  | .sealed p => some p.val
  | _ => none

/-- R423: a command of a tenant session, on a context of its partition. -/
def withTenant (s : State) (sess : Option Nat) (ctx : BitVec 8) (f : Nat → Context → Answer) : Answer :=
  match sess with
  | none => err s stDenied 0
  | some p =>
    let c := ctx.toNat
    if 64 ≤ c then err s stBadArg 0
    else if (getCtx s c).st = .closed then conflict s 5 0 0x2
    else if (getCtx s c).part ≠ p then err s stDenied 0
    else f c (getCtx s c)

/-- R425: a new job key; the one before stays in the previous slot. -/
def setJob (s : State) (c : Nat) (key : Bytes) : State := modSec s c fun k => { k with job := some key, jobPrev := k.job }

/-- R423, R425: SEC_JOB_KEY. -/
def ansSecJobKey (sess : Option Nat) (ctx : BitVec 8) (key : Bytes) (s : State) : Answer :=
  withTenant s sess ctx fun c _ => ok (setJob s c key) []

def execSecJobKey (r : Req) (ctx : BitVec 8) (key : Bytes) (s : State) : Host.Outcome State Fault Refusal :=
  if wellFormed (.secJobKey r ctx key) then
    done (serve 0x0902 setWork r (.secJobKey r ctx key) (ansSecJobKey (sessOf r.path) ctx key) s)
  else .fault (.illFormed "SEC_JOB_KEY")

/-- R277: replay windows of a key slot that contexts other than `c` hold: 256 serve the whole module. -/
def windowsHeld (s : State) (c : Nat) (slot : Bool) : Nat :=
  (((List.range 64).filter (· != c)).map fun d =>
    (((getCtx s d).sec.e2e.getD slot.toNat none).map fun k => k.members.length).getD 0).sum

/-- R426, R277: SEC_E2E_KEY: the key goes to the idle slot, whose replay windows start anew. -/
def ansSecE2eKey (sess : Option Nat) (ctx : BitVec 8) (key : Bytes) (tSwitch : BitVec 64) (members : List (BitVec 32))
    (s : State) : Answer :=
  withTenant s sess ctx fun c x =>
    if 256 < members.length + windowsHeld s c (!x.sec.e2eCur) then err s stNoResource 0
    else if members.isEmpty || members.any (fun a => decide (2 ^ 17 ≤ a.toNat)) then err s stBadArg 0
    else
      let slot := !x.sec.e2eCur
      let k : E2eSlot := { key := key, members := members.map fun a => a.setWidth 17 }
      ok (modSec s c fun z => { z with
        e2e := z.e2e.setIfInBounds slot.toNat (some k), e2eSwitch := some (armTime s (tSwitch.setWidth 40)), e2eErase := false
        windows := z.windows.filter fun w => w.slot != slot }) []

def execSecE2eKey (r : Req) (ctx : BitVec 8) (key : Bytes) (tSwitch : BitVec 64) (members : List (BitVec 32)) (s : State) :
    Host.Outcome State Fault Refusal :=
  if wellFormed (.secE2eKey r ctx key tSwitch members) then
    done (serve 0x0903 setWork r (.secE2eKey r ctx key tSwitch members) (ansSecE2eKey (sessOf r.path) ctx key tSwitch members) s)
  else .fault (.illFormed "SEC_E2E_KEY")

/-- R426: the old key and its windows are erased. -/
def eraseOldE2e (c : Nat) (s : State) : State :=
  modSec s c fun z => if z.e2eErase then { z with
    e2e := z.e2e.setIfInBounds (!z.e2eCur).toNat none, e2eErase := false, windows := z.windows.filter fun w => w.slot == z.e2eCur }
  else z

def execE2eOldKeyErase (c : Ctx) (s : State) : Host.Outcome State Fault Refusal := done (eraseOldE2e c.val s)

/-- Virtual pages of a context that map local pages, ascending. -/
def localPages (s : State) (x : Context) : List Nat :=
  s.mem.pmap.filterMap fun e =>
    if x.pmBase.toNat ≤ e.1 ∧ e.1 < x.pmBase.toNat + x.pmLen.toNat ∧ isLocal e.2 then some (e.1 - x.pmBase.toNat) else none

/-- R427: the last page of a rotation is done: the old key set is erased and the current slot changes. -/
def finishSweep (s : State) (p c : Nat) : State :=
  let s := modSecCore s fun k => { k with sweeps := k.sweeps.setIfInBounds p none }
  let s := modSec s c fun z => { z with keys := z.keys.setIfInBounds z.epoch.toNat none, epoch := !z.epoch, rotating := false }
  postNotice s 0x000F (some c) (secEventBody 1 p c)

/-- R427, R428: the memory key set of a context rotates: a new one into the slot that is not current. -/
def startRotation (s : State) (c : Nat) (x : Context) : State :=
  let n := (localPages s x).length
  let p := x.part
  let w : Sweep := { ctx := c, next := 0, total := n }
  let s := modSec s c fun z => { z with keys := z.keys.setIfInBounds (!z.epoch).toNat (some s.sec.nextKey), rotating := true }
  let s := modSecCore s fun k => { k with
    nextKey := k.nextKey + 1, sweeps := k.sweeps.setIfInBounds p (some w), swept := k.swept.setIfInBounds p 0
    sweepTotal := k.sweepTotal.setIfInBounds p n }
  if n = 0 then finishSweep s p c else s

/-- R427, R428: SEC_ROTATE. -/
def ansSecRotate (sess : Option Nat) (ctx kind : BitVec 8) (key : Bytes) (s : State) : Answer :=
  if kind = 1 then
    withTenant s sess ctx fun c _ => if key.length = 32 then ok (setJob s c key) [] else err s stBadArg 0
  else if kind ≠ 0 ∨ 64 ≤ ctx.toNat then err s stBadArg 0
  else
    let c := ctx.toNat
    let x := getCtx s c
    if !s.opt.conf then err s stUnsupported 0
    else if x.st = .closed then conflict s 5 0 0x2
    else if !isConf s x.part then err s stBadArg 0
    else if x.sec.locked || (sess.isSome && sess != some x.part) then err s stDenied 0
    else if (s.sec.sweeps.getD x.part none).isSome then err s stBusy 0
    else ok (startRotation s c x) []

def execSecRotate (r : Req) (ctx kind : BitVec 8) (key : Bytes) (s : State) : Host.Outcome State Fault Refusal :=
  if wellFormed (.secRotate r ctx kind key) then
    done (serve 0x0904 setWork r (.secRotate r ctx kind key) (ansSecRotate (sessOf r.path) ctx kind key) s)
  else .fault (.illFormed "SEC_ROTATE")

/-- R427, R428: one block of a page under the sweep: verified under the old key set, or blank, it is stored under the new
one; else it stays as it is and counts once. -/
def sweepBlock (old new : Nat) (bad : Bool) (m : Mem) (k : Nat) : Mem × Bool :=
  match mapGet? m.sealKey k with
  | some w => if !bad && (w == old || w == blankSeal) then ({ m with sealKey := mapSet m.sealKey k new }, false) else (m, w != new)
  | none => (m, true)

/-- R427: the blocks of one page; `bad`: numbers of the blocks whose tag the medium has spoiled. -/
def sweepBlocks (s : State) (c p pg old new : Nat) (bad : List Nat) : State :=
  (List.range 8192).foldl (fun s i =>
    let (ch, byte) := placeByte s p pg (256 * i)
    let pos := servePos s ch (byte / 4096) true
    let r := sweepBlock old new (bad.contains i) s.mem (blockKey pos (byte / 256))
    let s := { s with mem := r.1 }
    if r.2 then countTag s c else s) s

/-- R428: the sweep of a partition may take its next page. -/
def sweepFree (s : State) (p c : Nat) : Bool :=
  (getCtx s c).st == .opened && belfryUp s && s.mem.migs.all fun g => chanPart s g.chan != p

/-- R427, R428: the next page of the sweep of a partition. -/
def sweepNext (p : Nat) (bad : List Nat) (s : State) : State :=
  match s.sec.sweeps.getD p none with
  | none => s
  | some w =>
    let c := w.ctx
    let x := getCtx s c
    if !sweepFree s p c then s
    else match (localPages s x).find? (fun v => decide (w.next ≤ v)) with
      | none => finishSweep s p c
      | some v =>
        let i := x.pmBase.toNat + v
        let e := mapGet s.mem.pmap i 0
        let old := (x.sec.keys.getD x.sec.epoch.toNat none).getD 1000000
        let new := (x.sec.keys.getD (!x.sec.epoch).toNat none).getD 1000000
        let s := chargeBackground (sweepBlocks s c p (entField e 13 18) old new bad) p 16384
        let flip : BitVec 64 := if x.sec.epoch then e &&& ~~~(0x800 : BitVec 64) else e ||| 0x800
        let s := modMem s fun m => { m with pmap := mapSet m.pmap i flip }
        let s := (partCores s p).foldl (fun s n => modC s n fun q => { q with xlat := q.xlat.filter (· != c * 2 ^ 21 + v) }) s
        let w' : Sweep := { w with next := v + 1 }
        let s := modSecCore s fun k => { k with
          sweeps := k.sweeps.setIfInBounds p (some w'), swept := k.swept.setIfInBounds p (k.swept.getD p 0 + 1) }
        if (localPages s x).any fun u => decide (v < u) then s else finishSweep s p c

def execSweepPage (p : Part) (badBlocks : List Nat) (s : State) : Host.Outcome State Fault Refusal :=
  doneMem (sweepNext p.val badBlocks s)

/-! ### SEC_READ (R424) -/

/-- R424: a word that a session of partition `p` may read: its cores' windows, its channels' controllers, and what anyone may
read. -/
def readable (s : State) (p off : Nat) : Bool :=
  if 0x100000 ≤ off ∧ off < 0x180000 then
    let q := corePart s ((off - 0x100000) / 0x1000)
    q == p || !isConf s q || coreOpen (off % 0x1000)
  else if 0x4000 ≤ off ∧ off < 0x5400 then
    match (getCtrl s ((off - 0x4000) / 0x40)).chan with
    | some n => chanPart s n == p || !isConf s (chanPart s n) || !(decide (0x20 ≤ off % 0x40) && decide (off % 0x40 < 0x30))
    | none => true
  else true

/-- R424: SEC_READ; its pairs latch in the security mailbox's own latch. -/
def ansSecRead (sess : Option Nat) (offset : BitVec 32) (n : BitVec 16) (s : State) : Answer :=
  match sess with
  | none => err s stDenied 0
  | some p =>
    if !within 4 3968 n.toNat || n.toNat % 4 != 0 || offset.toNat % 4 != 0 ||
        !((List.range (n.toNat / 4)).all fun i => readable s p (offset.toNat + 4 * i)) then err s stBadArg 0
    else
      let r := readRegs s (.mailbox 18) (some p) offset.toNat (n.toNat / 4)
      ok r.1 r.2

def execSecRead (r : Req) (offset : BitVec 32) (n : BitVec 16) (s : State) : Host.Outcome State Fault Refusal :=
  done (serve 0x0907 setLive r (.secRead r offset n) (ansSecRead (sessOf r.path) offset n) s)

/-! ### PCIe IDE (R430, R431) -/

/-- R359, R430: SEC_IDE_KEY. STREAM_STATE answers the bit of SEC_STATUS.IDE. -/
def ansSecIdeKey (sess : Option Nat) (part stream kset : BitVec 8) (keys : List Bytes) (s : State) : Answer :=
  let p := part.toNat
  if !s.opt.conf then err s stUnsupported 0
  else if sess.isNone || sess != some p then err s stDenied 0
  else if !isConf s p || decide (1 < kset.toNat) then err s stBadArg 0
  else
    let s := modSecCore s fun k => { k with
      ideStream := k.ideStream.setIfInBounds p stream
      ideKeys := k.ideKeys.setIfInBounds p ((k.ideKeys.getD p (Vector.replicate 2 [])).setIfInBounds kset.toNat keys) }
    ok s [BitVec.ofNat 8 (s.sec.ide.getLsbD p).toNat]

def execSecIdeKey (r : Req) (part stream kset : BitVec 8) (keys : List Bytes) (s : State) : Host.Outcome State Fault Refusal :=
  if wellFormed (.secIdeKey r part stream kset keys) then
    done (serve 0x0908 setWork r (.secIdeKey r part stream kset keys) (ansSecIdeKey (sessOf r.path) part stream kset keys) s)
  else .fault (.illFormed "SEC_IDE_KEY")

/-- R431: the stream of a confidential partition that has keys enters the Secure state. -/
def execIdeStreamSecure (p : Part) (s : State) : Host.Outcome State Fault Refusal :=
  done (if isConf s p.val && (s.sec.ideKeys.getD p.val (Vector.replicate 2 [])).toList.any (fun k => !k.isEmpty) then
    modSecCore s fun k => { k with ide := k.ide ||| BitVec.ofNat 4 (2 ^ p.val) }
  else s)

/-- R431: the stream leaves the Secure state. -/
def ideLost (p : Nat) (s : State) : State :=
  if s.sec.ide.getLsbD p then
    let s := modSecCore s fun k => { k with ide := k.ide &&& ~~~(BitVec.ofNat 4 (2 ^ p)) }
    let s := (openCtxs s p).foldl (fun s c => if (getCtx s c).st = .opened then startFence s c none else s) s
    postNotice s 0x000F none (secEventBody 4 p 0xFF)
  else s

def execIdeLeaveSecure (p : Part) (s : State) : Host.Outcome State Fault Refusal := done (ideLost p.val s)

/-! ### Signatures (R436 to R439) -/

/-- R436 to R439: one signature by the identity key, with the index it used; none when no index remains. -/
def signOnce (s : State) (msg : Nat → Bytes) : Option (State × Bytes) :=
  if lmsRemain s = 0 then none
  else
    let q := s.sec.lmsNext
    let s := modSecCore s fun k => { k with
      lmsProg := if k.lmsProg ≤ q then q + 16 else k.lmsProg, lmsNext := q + 1, treeLeft := k.treeLeft - 1, tokens := k.tokens - 1 }
    let s := if lmsRemain s < 2 ^ 20 && !s.sec.lmsLow then
        postNotice (modSecCore s fun k => { k with lmsLow := true }) 0x000F none (secEventBody 3 0xFF 0xFF)
      else s
    some (s, fit 5396 (Config.hssSign (msg q) q))

/-- R438: the bucket gains a token. -/
def execSignatureToken (s : State) : Host.Outcome State Fault Refusal :=
  done (modSecCore s fun k => { k with tokens := min 256 (k.tokens + 1) })

/-- R436: the next lower-level tree has been built, begun when 1,024 signatures were left. -/
def execLmsTreeBuilt (s : State) : Host.Outcome State Fault Refusal :=
  done (if s.sec.treeLeft ≤ 1024 then modSecCore s fun k => { k with treeLeft := k.treeLeft + 32768 } else s)

/-- R421: the SHA-256 of the encapsulation key. -/
def kemDigest (s : State) : Bytes := sha256 (fit 1568 (Config.kemKey s.sec.boots.toNat))

/-- The identity public key, 60 bytes. -/
def identityKey : Bytes := fit 60 Config.identityKey

/-- R443: IDENTITY. -/
def identity : Bytes := sha256 identityKey

/-- R432: what the link credential holds. -/
def credential (s : State) : Bytes :=
  identity ++ kemDigest s ++ s.mail.images.toList.flatMap (fun i => fit 32 i.digest) ++ [BitVec.ofNat 8 (dbgEn s).toNat] ++
  leBytes 4 s.sec.boots.toNat

/-- R432, R439: the link credential is signed, once in a boot. -/
def execLinkCredentialSign (s : State) : Host.Outcome State Fault Refusal :=
  done (if s.sec.cred || s.sec.faulted || s.hub.dev == .cold || s.sec.tokens == 0 then s
    else match signOnce s fun _ => credential s with
      | some (s, _) => modSecCore s fun k => { k with cred := true }
      | none => s)

/-! ### The attestation report (R442 to R444) -/

/-- R362: offset of a region in the Carillon image. -/
def regionOffset (g : Nat) : Nat :=
  match g with
  | 2 => 0xC1000
  | 7 => 0x201000
  | g => 0x101000 + 0x40000 * (g - 3)

/-- R363: HDIGEST of a copy. USED reaches to the last byte that is not 0 (assumption log 19). -/
def carillonDigest (c : Carillon) (copyB : Bool) : Bytes :=
  let region := fun (g : Nat) =>
    if g < 2 then fit 48 (Config.factoryEntry g)
    else
      let m := c.data.getD (g - 2) []
      let used := ((m.getLast?).map fun q => q.1 + 1).getD 0
      leBytes 4 (regionOffset g) ++ leBytes 4 (regionLen g) ++ leBytes 4 used ++ leBytes 4 0 ++ sha256 (memRead m 0 used)
  sha256 (fit 0xFE0 (leBytes 4 0x4C524143 ++ leBytes 2 1 ++ [BitVec.ofNat 8 copyB.toNat, BitVec.ofNat 8 c.profOk.toNat] ++
    leBytes 4 c.gen.toNat ++ [c.profile.setWidth 8, 0, 0, 0] ++ (List.range 8).flatMap region))

/-- R443: units of an image type. -/
def allUnits (s : State) (ty : Nat) : Nat :=
  match ty with
  | 2 => ((List.range 128).filter (inService s)).length + sparesFree s 0 + sparesFree s 1 + sparesFree s 2 + sparesFree s 3
  | 3 => portCount s
  | _ => 1

/-- R444: units that run the image in transition. -/
def mixUnits (s : State) (ty : Nat) : Nat :=
  match ty with
  | 1 => s.hub.handoff.toNat
  | 2 => s.hub.newSlots.length
  | 3 => (s.fab.ports.toList.filter (·.phyNew)).length
  | _ => 0

/-- R443, R444: the report's entry of an image type. -/
def imageEntry (s : State) (ty : Nat) : Bytes :=
  let i := getImage s ty
  let moving := decide (0x10 ≤ i.phase.toNat)
  let st := if moving then 2 else if i.atReset then 3 else if i.verified then 1 else 0
  let mix := mixUnits s ty
  [BitVec.ofNat 8 ty, st, BitVec.ofNat 8 i.copyB.toNat, 0] ++ leBytes 4 i.version.toNat ++ leBytes 4 i.floor.toNat ++ leBytes 2 mix ++
  leBytes 2 (allUnits s ty) ++ fit 32 i.digest ++ (if moving && decide (0 < mix) then fit 32 i.stagedDigest else List.replicate 32 0) ++
  fit 32 i.stagedDigest

/-- R443: the report's entry of the Carillon image: type 0x04. -/
def carillonEntry (s : State) : Bytes :=
  let waits := (staleCopy s).headerOk && decide (1 ≤ ((staleCopy s).gen - genInForce s).toInt)
  [4, BitVec.ofNat 8 (3 * waits.toNat), BitVec.ofNat 8 s.hub.cfgCopyB.toNat, 0] ++ leBytes 4 (genInForce s).toNat ++ leBytes 4 0 ++
  leBytes 2 0 ++ leBytes 2 1 ++ carillonDigest (copyInForce s) s.hub.cfgCopyB ++ List.replicate 32 0 ++
  (if waits then carillonDigest (staleCopy s) (!s.hub.cfgCopyB) else List.replicate 32 0)

/-- R443: the PART entry of a partition. -/
def partEntry (s : State) (p : Nat) : Bytes :=
  let q := (s.mem.quar.getD p []).length
  let n := (openCtxs s p).length
  [BitVec.ofNat 8 ((isConf s p).toNat + 2 * (s.sec.ide.getLsbD p).toNat + 4 * ((s.mail.sessions.getD p none).isSome).toNat +
    8 * (decide (0 < q)).toNat), BitVec.ofNat 8 n, 0, 0] ++ leBytes 4 q

/-- A bit mask over `n` numbers. -/
def maskOf (n : Nat) (f : Nat → Bool) : Nat := (List.range n).foldl (fun a i => if f i then a + 2 ^ i else a) 0

/-- R443: the fence masks: contexts, slots, positions, ports. -/
def fenceMasks (s : State) : Bytes :=
  let down := fun d => s.hub.diesDown.getLsbD d
  let chan := fun i => down (i / 20) || (getCtrl s i).role == .failed || (getCtrl s i).role == .migrating
  leBytes 8 (maskOf 64 fun c => (getCtx s c).st == .fencing || (getCtx s c).st == .fenced) ++
  leBytes 24 (maskOf 136 fun p => down (p / 34) || s.hub.slotRetired.contains p || s.hub.slotTesting.contains p) ++
  leBytes 16 (maskOf 80 chan) ++
  leBytes 8 (maskOf 36 fun p => down (p % 4) || shownPort s p == .training || shownPort s p == .retired)

/-- R443: the report, signed with index `q`. -/
def report (s : State) (nonce : Bytes) (q : Nat) : Bytes :=
  let lock := anyConf s
  let remain := lmsRemain s - 1
  leBytes 4 0x54535441 ++ leBytes 2 1 ++ [BitVec.ofNat 8 (devCode (devNow s)), BitVec.ofNat 8 (updatePhase s)] ++ fit 32 nonce ++
  leBytes 8 s.time.now.toNat ++ leBytes 4 s.sec.boots.toNat ++ leBytes 4 q ++ leBytes 4 remain ++ leBytes 4 (hubOptions s.opt).toNat ++
  identity ++ kemDigest s ++
  leBytes 4 (s.sec.revoked.toNat + 4 * s.sec.fuseFloor + 512 * s.opt.debugOpen.toNat) ++
  [BitVec.ofNat 8 ((dbgEn s).toNat + 2 * s.hub.token.toNat + 4 * lock.toNat), s.hub.layout.setWidth 8, s.hub.conf.setWidth 8, 0] ++
  (List.range 4).flatMap (partEntry s) ++
  [BitVec.ofNat 8 (s.hub.diesDown.toNat + 16 * s.hub.belfryDown.toNat + 32 * s.hub.fenced.toNat)] ++ List.replicate 7 0 ++
  fenceMasks s ++ List.replicate 24 0 ++ (List.range 4).flatMap (imageEntry s) ++ carillonEntry s ++ List.replicate 16 0

/-- R442: bytes of an object from an offset, with its total. -/
def attestBytes (s : State) (b : Bytes) (off : Nat) : Answer :=
  if b.length ≤ off then err s stBadArg 0 else ok s (leBytes 4 b.length ++ (b.drop off).take 4032)

/-- R442, R438, R439: SEC_ATTEST. -/
def ansSecAttest (nonce : Bytes) (obj : BitVec 8) (offset : BitVec 32) (s : State) : Answer :=
  let stored := match s.sec.stored with
    | some w => if w.nonce = nonce then some w else none
    | none => none
  match obj.toNat with
  | 0 =>
    (match stored with
     | some w => attestBytes s (w.report ++ identityKey) offset.toNat
     | none =>
       if offset ≠ 0 then err s stBadArg 0
       else if lmsRemain s = 0 then err s stNoResource 0
       else if s.sec.tokens = 0 then err s stBusy 0
       else
         let rep := report s nonce s.sec.lmsNext
         match signOnce s fun _ => rep with
         | none => err s stNoResource 0
         | some (s, sig) =>
           let w : Stored := { nonce := nonce, report := rep, sig := sig }
           attestBytes (modSecCore s fun k => { k with stored := some w }) (rep ++ identityKey) 0)
  | 1 =>
    (match stored with
     | some w => attestBytes s w.sig offset.toNat
     | none => err s stBadArg 0)
  | 2 => attestBytes s Config.identityCert offset.toNat
  | _ => err s stBadArg 0

def execSecAttest (r : Req) (nonce : Bytes) (obj : BitVec 8) (offset : BitVec 32) (s : State) : Host.Outcome State Fault Refusal :=
  if wellFormed (.secAttest r nonce obj offset) then
    done (serve 0x0905 setAny r (.secAttest r nonce obj offset) (ansSecAttest nonce obj offset) s)
  else .fault (.illFormed "SEC_ATTEST")

/-! ### SEC_DEBUG_TOKEN (R433) -/

/-- R433: SEC_DEBUG_TOKEN. `sigOk`: the vendor's signature over the token's 40 bytes verifies. -/
def ansSecDebugToken (ident : Bytes) (boots : BitVec 32) (sigOk : Bool) (s : State) : Answer :=
  if !sigOk || ident != identity || boots != s.sec.boots || anyConf s then err s stDenied 0
  else
    let s := modHub s fun h => { h with token := true }
    ok s [BitVec.ofNat 8 (dbgEn s).toNat]

def execSecDebugToken (r : Req) (ident : Bytes) (boots scope : BitVec 32) (sigOk : Bool) (s : State) :
    Host.Outcome State Fault Refusal :=
  done (serve 0x0909 setUp r (.secDebugToken r ident boots scope sigOk) (ansSecDebugToken ident boots sigOk) s)

/-! ### Tenant sessions (R421 to R423) -/

/-- R421: GET_KEM. -/
def ansGetKem (s : State) : Answer := ok s (fit 1568 (Config.kemKey s.sec.boots.toNat))

def execGetKem (r : Req) (s : State) : Host.Outcome State Fault Refusal := done (serve 0x0906 setWork r (.getKem r) ansGetKem s)

/-- R421: a session key: "ZVM-S req" or "ZVM-S rsp", the partition and the digest of the ciphertext are the information. -/
def sessionKey (s : State) (ask : Bool) (part : BitVec 8) (ct : Bytes) : Bytes :=
  let label : Bytes := [0x5A, 0x56, 0x4D, 0x2D, 0x53, 0x20, 0x72] ++ if ask then [0x65, 0x71] else [0x73, 0x70]
  hkdf256 (fit 32 (Config.kemSecret s.sec.boots.toNat ct)) (kemDigest s) (label ++ part :: sha256 ct)

/-- R421: OPEN closes the session the partition has and opens another. Its SID is an open value (assumption log 2). -/
def ansSessOpen (part : BitVec 8) (ct : Bytes) (s : State) : Answer :=
  let p := part.toNat
  if partCount s.hub.layout ≤ p then err s stBadArg 0
  else if !isConf s p then conflict s 5 0 0
  else
    let f := drawFree s 32
    let w : Session := { sid := f.1, kReq := sessionKey s true part ct, kRsp := sessionKey s false part ct, last := none }
    ok (modMail f.2 fun m => { m with sessions := m.sessions.setIfInBounds p (some w) }) (leBytes 4 f.1.toNat)

def execSessOpen (r : Req) (part : BitVec 8) (ct : Bytes) (s : State) : Host.Outcome State Fault Refusal :=
  if wellFormed (.sessOpen r part ct) then done (serve 0x0906 setWork r (.sessOpen r part ct) (ansSessOpen part ct) s)
  else .fault (.illFormed "OPEN")

/-- The partition whose session has a SID. -/
def sessionOf (s : State) (sid : BitVec 32) : Option (Part × Session) :=
  (List.finRange 4).findSome? fun p => match s.mail.sessions.getD p.val none with
    | some w => if w.sid = sid then some (p, w) else none
    | none => none

/-- R421: CLOSE. -/
def ansSessClose (sid : BitVec 32) (s : State) : Answer :=
  match sessionOf s sid with
  | some (p, _) => ok (modMail s fun m => { m with sessions := m.sessions.setIfInBounds p.val none }) []
  | none => err s stDenied 0

def execSessClose (r : Req) (sid : BitVec 32) (s : State) : Host.Outcome State Fault Refusal :=
  done (serve 0x0906 setWork r (.sessClose r sid) (ansSessClose sid) s)

/-- R423: an inner command other than NOTICE_GET: its code, its legal states, what it answers. -/
def innerMeaning (q : Req) (i : InnerCmd) : BitVec 16 × BitVec 32 × (State → Answer) :=
  let sess := sessOf q.path
  match i with
  | .jobKey ctx key => (0x0902, setWork, ansSecJobKey sess ctx key)
  | .e2eKey ctx key t ms => (0x0903, setWork, ansSecE2eKey sess ctx key t ms)
  | .rotate ctx kind key => (0x0904, setWork, ansSecRotate sess ctx kind key)
  | .secRead off n => (0x0907, setLive, ansSecRead sess off n)
  | .ideKey part stream kset keys => (0x0908, setWork, ansSecIdeKey sess part stream kset keys)
  | .noticeGet _ _ => (0x0003, setAny, fun s => err s stBadArg 0)
  | .logRead f m => (0x0601, setAny, ansLogRead sess f m)
  | .ledgerTimes a n d => (0x030A, setWork, ansLedgerTimes q sess a n d)
  | .pwrRead => (0x0701, setAny, ansPwrRead sess)
  | .other code => (code, 0, fun s => err s (if knownCode code then stDenied else stUnsupported) 0)

/-- R423: the answer of an inner command, judged in the states of its own table. -/
def innerAnswer (q : Req) (i : InnerCmd) (s : State) : BitVec 16 × BitVec 32 × Answer :=
  let m := innerMeaning q i
  let code := m.1
  let legal := m.2.1
  if legal != 0 && !inSet legal (devNow s) then (code, legal, conflict s 0 (devCode (devNow s)) legal) else (code, legal, m.2.2 s)

/-- R422: a SEQ exceeds the last one of its session. -/
def seqFresh (w : Session) (n : BitVec 64) : Bool :=
  match w.last with
  | some l => decide (l.toNat < n.toNat)
  | none => true

/-- R422, R423: SEALED: the inner command runs inside the session, and its response is sealed. -/
def ansSealed (r : Req) (sid : BitVec 32) (sseq : BitVec 64) (tagOk : Bool) (iseq : BitVec 16) (ictx : BitVec 8) (inner : InnerCmd)
    (s : State) : Answer :=
  match sessionOf s sid with
  | none => err s stDenied 0
  | some (p, w) =>
    if !seqFresh w sseq || !tagOk then err s stDenied 0
    else
      let w' : Session := { w with last := some sseq }
      let s := modMail s fun m => { m with sessions := m.sessions.setIfInBounds p.val (some w') }
      let q : Req := { mbx := r.mbx, path := .sealed p, seq := iseq, ctx := ictx, irq := false }
      let close := fun (t : BitVec 16 × BitVec 32 × Answer) =>
        let a := t.2.2
        ok a.st (sealInner w.kRsp sid sseq (encodeResponse (innerResponse a.st q t.1 a.status a.conflict a.detail (a.legal.getD t.2.1) a.body)))
      match inner with
      | .noticeGet max waitUs =>
        if within 1 60 max.toNat && decide (waitUs.toNat ≤ 1000000) then
          later (modMail (handed s r) fun m => { m with waiters := m.waiters ++
            [{ req := q, max := max, till := s.time.now + BitVec.ofNat 64 (waitUs.toNat * ticksPerUs), tenant := some (r, sid, sseq) }] })
        else close (0x0003, setAny, err s stBadArg 0)
      | i => close (innerAnswer q i s)

def execSealed (r : Req) (sid : BitVec 32) (sseq : BitVec 64) (tagOk : Bool) (iseq : BitVec 16) (ictx : BitVec 8) (inner : InnerCmd)
    (s : State) : Host.Outcome State Fault Refusal :=
  if wellFormed (.sealed r sid sseq tagOk iseq ictx inner) then
    done (serve 0x0906 setWork r (.sealed r sid sseq tagOk iseq ictx inner) (ansSealed r sid sseq tagOk iseq ictx inner) s)
  else .fault (.illFormed "SEALED")

end Sys2Proof.Machine
end

