-- ==== Sys2Proof/Machine/Launch.lean ====
section
/-! DEFINITION. The evaluation of armed times (R51 to R54) and what each does when it fires: stream waits and launches,
programs of the collective engines, the commit (R300), the quiesce barrier (R329, R330), key switches (R426), injections
(R405). -/

namespace Sys2Proof.Machine

/-! ### Programs (R269, R270, R297, R299) -/

/-- R269, R270: a queued program launches: it grants its credits. -/
def launchProgram (s : State) (e q : Nat) (p : Program) : State :=
  let g := getEngine s e
  let p := { p with launched := true }
  let s := setEngine s e { g with queued := g.queued.eraseIdx q, running := g.running ++ [p] }
  let s := grantCredits s p
  if isDownbeat p.ctx (getCtx s p.ctx).led p then
    modLed s p.ctx fun l => { l with launched := true }
  else s

/-- R51, R269: one evaluation of a queued program's time; an engine runs four programs at most. -/
def fireProgram (s : State) (e q : Nat) : State :=
  let g := getEngine s e
  match g.queued[q]? with
  | none => s
  | some p =>
    let r := evalArmed s p.launch
    let put := fun (s : State) => setEngine s e { g with queued := g.queued.set q { p with launch := r.2 } }
    match r.1 with
    | .wait => put s
    | v =>
      let s := if v = .late then countLate s else s
      if 4 ≤ g.running.length then put s else launchProgram s e q p

/-- R51, R271: one evaluation of the time a WAIT_TIME waits for. -/
def fireWaitTime (s : State) (e n : Nat) : State :=
  match runningAt s e n with
  | none => s
  | some p =>
    match p.waitArm with
    | none => s
    | some a =>
      let r := evalArmed s a
      match r.1 with
      | .wait => setRunning s e n { p with waitArm := some r.2 }
      | .onTime => setRunning s e n (nextInstr p)
      | .late => setRunning (countLate s) e n (nextInstr p)

/-! ### Timers of the Belfry and the security core -/

/-- R51: one evaluation of a timer: it stays armed, or fires; a late firing is counted. -/
def fireTimer (s : State) (a : Option Armed) (keep : State → Armed → State) (act : State → State) : State :=
  match a with
  | none => s
  | some a =>
    let r := evalArmed s a
    match r.1 with
    | .wait => keep s r.2
    | .onTime => act s
    | .late => act (countLate s)

/-- R300, R320, R390: the commit of a context: then its Peal, then the fence of a domain that waited for it. -/
def commitNow (s : State) (c : Nat) : State :=
  let step := (getCtx s c).led.step
  let s := commitPeal (commitStep s c) c step
  if (getCtx s c).domains != 0 && (getCtx s c).st == .opened then startFence s c none else s

/-- R426: senders switch to the other slot and restart their counter; receivers take both for a while. -/
def switchE2e (s : State) (c : Nat) : State :=
  modSec s c fun z => { z with
    e2eCur := !z.e2eCur, sendCtr := 0, e2eSwitch := none, e2eErase := (z.e2e.getD z.e2eCur.toNat none).isSome }

/-- One evaluation of a commit time; while the Belfry does not serve, the commit is held (R394). -/
def fireCommit (s : State) (c : Nat) : State :=
  if !belfryUp s then s else fireTimer s (getCtx s c).led.commitAt (fun s a => modLed s c fun l => { l with commitAt := some a }) fun s => commitNow s c

/-- One evaluation of T_Q. -/
def fireQuiesce (s : State) (c : Nat) : State :=
  fireTimer s (getCtx s c).peal.tq (fun s a => modPeal s c fun p => { p with tq := some a }) fun s => quiesceAt s c

/-- One evaluation of T_R. -/
def fireResume (s : State) (c : Nat) : State :=
  fireTimer s (getCtx s c).peal.tr (fun s a => modPeal s c fun p => { p with tr := some a }) fun s => resumeAt s c

/-- One evaluation of T_SWITCH. -/
def fireE2e (s : State) (c : Nat) : State :=
  fireTimer s (getCtx s c).sec.e2eSwitch (fun s a => modSec s c fun z => { z with e2eSwitch := some a }) fun s => switchE2e s c

/-- One evaluation of T_FIRE, or a repetition that is due. -/
def fireInject (s : State) (i : Nat) : State :=
  match injectAt s i with
  | none => s
  | some a =>
    if a.time.isNone then repeatInjection s i
    else fireTimer s a.time (fun s t => setInject s i { a with time := some t }) fun s => fireInjection s i a

/-- R51: one evaluation of an armed time. -/
def fireArmed (s : State) : ArmedRef → State
  | .stream c i => fireStream s c.val i.val
  | .coll e q => fireProgram s e.val q.val
  | .collWait e n => fireWaitTime s e.val n.val
  | .commit c => fireCommit s c.val
  | .quiesce c => fireQuiesce s c.val
  | .resume c => fireResume s c.val
  | .inject n => fireInject s n.val
  | .e2e c => fireE2e s c.val

def execLaunchFire (a : ArmedRef) (s : State) : Host.Outcome State Fault Refusal := doneMem (fireArmed s a)
def execCommit (c : Ctx) (s : State) : Host.Outcome State Fault Refusal := doneMem (fireCommit s c.val)
def execQuiesceBarrier (c : Ctx) (s : State) : Host.Outcome State Fault Refusal := done (fireQuiesce s c.val)
def execQuiesceResume (c : Ctx) (s : State) : Host.Outcome State Fault Refusal := done (fireResume s c.val)
def execE2eKeySwitch (c : Ctx) (s : State) : Host.Outcome State Fault Refusal := done (fireE2e s c.val)
def execRimshotFire (n : Fin 16) (s : State) : Host.Outcome State Fault Refusal := done (fireInject s n.val)

end Sys2Proof.Machine
end

