-- ==== Sys2Proof/Machine/CoreMem.lean ====
section
/-! DEFINITION. The stage buffer and the operand cache as the engines see them: blocks with their CRCs, packed elements, whole
and partial writes (R61, R62, R90, R91, R150, R159), and the parts of an output tensor (R73, R79, R104). -/

namespace Sys2Proof.Machine

/-! ### Blocks -/

/-- Bytes of the stage buffer, or of the operand cache. -/
def locMem (c : PCore) (cache : Bool) : Memory := if cache then c.cache else c.stage
/-- Their blocks whose CRC fails. -/
def locBad (c : PCore) (cache : Bool) : AMap (BitVec 32) := if cache then c.cacheBad else c.stageBad

/-- R90: every block that holds a byte of `[lo, hi)` passes its CRC. -/
def blocksGood (bad : AMap (BitVec 32)) (lo hi : Nat) : Bool :=
  bad.all fun p => decide (256 * p.1 + 256 ≤ lo) || decide (hi ≤ 256 * p.1)

/-- R91, R150: every block that `[lo, hi)` covers in part passes its CRC. -/
def partsGood (bad : AMap (BitVec 32)) (lo hi : Nat) : Bool :=
  bad.all fun p => decide (256 * p.1 + 256 ≤ lo) || decide (hi ≤ 256 * p.1) ||
    (decide (lo ≤ 256 * p.1) && decide (256 * p.1 + 256 ≤ hi))

/-- One block with its CRC. -/
def localBlock (c : PCore) (cache : Bool) (k : Nat) : Block :=
  let d := memRead (locMem c cache) (256 * k) 256
  { data := d, crc := crc32c d ^^^ mapGet (locBad c cache) k 0 }

/-- R91, R150, R188: write bytes; the blocks they touch then hold a valid CRC. -/
def localPut (c : PCore) (cache : Bool) (a : Nat) (d : Bytes) : PCore :=
  let m := memWrite (locMem c cache) a d
  let bad := (locBad c cache).filter fun p => decide (256 * p.1 + 256 ≤ a) || decide (a + d.length ≤ 256 * p.1)
  if cache then { c with cache := m, cacheBad := bad } else { c with stage := m, stageBad := bad }

/-- Stage blocks that `n` bytes from `a` touch. -/
def touched (a n : Nat) : List Nat := (List.range ((a % 256 + n + 255) / 256)).map fun i => a / 256 + i

/-- R130: the logged copy of number `id`, or (none) another engine, was the last to write these stage bytes. -/
def noteWriter (c : PCore) (id : Option Nat) (a n : Nat) : PCore :=
  let bs := touched a n
  { c with copyLog := c.copyLog.map fun e => { e with
      blocks := (if id.isSome && e.id == id then bs else []) ++ e.blocks.filter fun k => !bs.contains k } }

/-! ### Packed elements (R61) -/

/-- Element `i`, of `w` bits, of the packed line that begins at byte `base`. -/
def bitsAt (m : Memory) (base i w : Nat) : Nat :=
  let b := i * w
  leNat (memRead m (base + b / 8) ((b % 8 + w + 7) / 8)) / 2 ^ (b % 8) % 2 ^ w

/-- The packed line of elements of `w` bits; trailing bits are 0 (R62). -/
def packElems (w : Nat) (l : List Nat) : Bytes :=
  leBytes ((l.length * w + 7) / 8) (l.foldr (fun x a => a * 2 ^ w + x % 2 ^ w) 0)

/-! ### Output rows (R73, R74, R79, R80, R104) -/

/-- Count what conversions did (R74, R80, R85). -/
def countConv (k : CoreCounters) (l : List Conv) : CoreCounters :=
  { k with fmtSat := k.fmtSat + BitVec.ofNat 32 (l.filter (·.sat)).length
           fmtNan := k.fmtNan + BitVec.ofNat 32 (l.filter (·.nan)).length }

/-- Split into groups of `n`. -/
def groupsOf {α : Type} (n : Nat) : Nat → List α → List (List α)
  | 0, _ => []
  | f + 1, l => if l.isEmpty then [] else l.take n :: groupsOf n f (l.drop n)

/-- R79, R104: a line of values in a format: its packed bytes, its scale bytes (for an MX format), its conversions. `w`: the
random word of each element, if conversion is stochastic. -/
def convLine (fmt : Nat) (mxv sat : Bool) (l : List (Val × Rounding)) : Bytes × Bytes × List Conv :=
  if isMx fmt then
    let q := (groupsOf 32 (l.length / 32 + 1) l).map (quantise fmt mxv)
    let cs := q.flatMap (·.2)
    (packElems (elemBits fmt) (cs.map (·.bits)), q.map (fun b => BitVec.ofNat 8 b.1), cs)
  else
    let cs := l.map fun p => convElem fmt sat p.2 p.1
    (packElems (elemBits fmt) (cs.map (·.bits)), [], cs)

/-- Pad with zeros to a multiple of 32 bytes (R104). -/
def padded (b : Bytes) : Bytes := b ++ List.replicate (pad32 b.length - b.length) 0

/-- The output tensor of an MMA or an MV: its rows, and the rows of its scale tensor. -/
structure OutShape where
  addr  : Nat
  pitch : Nat
  rows  : Nat
  n     : Nat
  fmt   : Nat
  mxv   : Bool
  sat   : Bool

/-- R104: the writes of row `r`: address and bytes. -/
def outRow (o : OutShape) (r : Nat) (l : List Val) : List (Nat × Bytes) × List Conv :=
  let q := convLine o.fmt o.mxv o.sat (l.map fun v => (v, none))
  let sb := mxScaleBase o.addr o.rows (rowBytes o.fmt o.n) o.pitch
  ((o.addr + r * o.pitch, q.1) :: (if isMx o.fmt then [(sb + r * pad32 (mxBlocks o.n), padded q.2.1)] else []), q.2.2)

/-- R91: rows are written in order; none when an existing block of a partial write fails its CRC. -/
def putRows (c : PCore) : List (Nat × Bytes) → Option PCore
  | [] => some c
  | (a, d) :: t => if partsGood c.stageBad a (a + d.length) then putRows (noteWriter (localPut c false a d) none a d.length) t else none

end Sys2Proof.Machine
end

