-- ==== Sys2Proof/Machine/Codec.lean ====
section
/-! DEFINITION. The compressed units of activation compression: layout and codecs (R224 to R228). -/

namespace Sys2Proof.Machine

/-- Bytes of a unit. -/
def unitBytes : Nat := 4096

/-- The BF16 elements of a unit. -/
def unitElems (b : Bytes) : List Nat := (List.range 2048).map fun i => leNat (slice b (2 * i) 2)

/-- R226: the step between two high bytes as an unsigned code. -/
def zigzag (prev cur : Nat) : Nat :=
  let d := signed ((cur + 256 - prev) % 256) 8
  if 0 ≤ d then (2 * d).toNat else (-2 * d - 1).toNat

/-- R226: the high byte after `prev` that a code spells. -/
def unzigzag (prev z : Nat) : Nat := if z % 2 = 0 then (prev + z / 2) % 256 else (prev + 256 - (z + 1) / 2) % 256

/-- The codes of a list of high bytes. -/
def zigzags : Nat → List Nat → List Nat
  | _, [] => []
  | p, h :: t => zigzag p h :: zigzags h t

/-- The high bytes of a list of codes. -/
def unzigzags : Nat → List Nat → List Nat
  | _, [] => []
  | p, z :: t => unzigzag p z :: unzigzags (unzigzag p z) t

/-- Bits needed for a number. -/
def bitsFor (n : Nat) : Nat := if n = 0 then 0 else n.log2 + 1

/-- R226: the payload of the lossless codec. -/
def losslessPayload (b : Bytes) : Bytes :=
  let e := unitElems b
  let gs := groupsOf 32 65 (zigzags 0 (e.map (· / 256)))
  let w := gs.map fun g => bitsFor (g.foldl max 0)
  packElems 4 w ++ (gs.zip w).flatMap (fun p => packElems p.2 p.1) ++ e.map fun x => BitVec.ofNat 8 x

/-- R225: the header of a unit and its payload. -/
def unitImage (ucrc : BitVec 32) (codec : Byte) (payload : Bytes) : Bytes :=
  leBytes 4 ucrc.toNat ++ leBytes 2 payload.length ++ [codec] ++ List.replicate 25 0 ++ payload

/-- R227: the scale bytes, the elements and the conversions of the lossy codec. -/
def lossyBlocks (b : Bytes) : List (Nat × List Conv) :=
  (groupsOf 32 65 (unitElems b)).map fun g => quantise 11 false (g.map fun x => (decodeFloat bf16Fmt x, none))

/-- R227: what decompression of a scale byte and its elements gives: BF16 values, two bytes each. -/
def lossyDecode (sb : Nat) (l : List Nat) : Bytes :=
  l.flatMap fun x => leBytes 2 (convFloat bf16Fmt false none (scaled (decodeElem 11 false x) sb)).bits

/-- A unit as stored: MODE, its bytes, the conversions made. -/
structure UnitOut where
  mode  : Nat
  bytes : Bytes
  convs : List Conv

/-- R224, R226, R227: a unit as a compressing COPY stores it. -/
def encodeUnit (cmode : Nat) (b : Bytes) : UnitOut :=
  if cmode = 1 then
    let u := unitImage (crc32c b) 1 (losslessPayload b)
    if 3840 < u.length then { mode := 0, bytes := b, convs := [] } else { mode := 1, bytes := u, convs := [] }
  else
    let q := lossyBlocks b
    let out := q.flatMap fun p => lossyDecode p.1 (p.2.map (·.bits))
    let payload := q.map (fun p => BitVec.ofNat 8 p.1) ++ q.flatMap fun p => p.2.map fun c => BitVec.ofNat 8 c.bits
    { mode := 2, bytes := unitImage (crc32c out) 2 payload, convs := q.flatMap (·.2) }

/-- Blocks that the bytes of a unit occupy. -/
def unitBlocks (u : UnitOut) : Nat := (u.bytes.length + 255) / 256

/-- R224: the unit-table entry of a stored unit. -/
def unitEntry (u : UnitOut) : BitVec 32 := BitVec.ofNat 32 (u.mode + 4 * (unitBlocks u - 1))

/-- MODE, and the blocks to read, of an entry: all 16 of an uncompressed unit (R228). -/
def entryMode (e : BitVec 32) : Nat := field e.toNat 0 2
def entryBlocks (e : BitVec 32) : Nat := if entryMode e = 0 then 16 else field e.toNat 2 4 + 1

/-- The 64 groups of a lossless payload, from bit widths. -/
def readGroups (b : Bytes) : Nat → List Nat → List Nat
  | _, [] => []
  | off, w :: t =>
    let v := leNat (slice b off (4 * w))
    (List.range 32).map (fun i => field v (w * i) w) ++ readGroups b (off + 4 * w) t

/-- R226: decoding of a lossless payload of `n` bytes. -/
def losslessDecode (p : Bytes) (n : Nat) : Option Bytes :=
  let w := (List.range 64).map fun j => field (leNat (slice p 0 32)) (4 * j) 4
  let size := 32 + 4 * w.foldl (· + ·) 0 + 2048
  if w.any (fun x => decide (8 < x)) || n != size then none
  else
    let h := unzigzags 0 (readGroups p 32 w)
    let l := slice p (size - 2048) 2048
    some ((h.zip l).flatMap fun q => [q.2, BitVec.ofNat 8 q.1])

/-- R227: decoding of a lossy payload of `n` bytes. -/
def lossyDecodeAll (p : Bytes) (n : Nat) : Option Bytes :=
  if n ≠ 2112 then none
  else some ((List.range 64).flatMap fun j =>
    lossyDecode (p.getD j 0).toNat ((slice p (64 + 32 * j) 32).map (·.toNat)))

/-- R228: the 4,096 bytes that a stored unit decodes to; none when a check fails. -/
def decodeUnit (e : BitVec 32) (b : Bytes) : Option Bytes :=
  let clen := leNat (slice b 4 2)
  let p := b.drop 32
  if entryMode e = 0 then some b
  else if entryMode e = 3 ∨ field e.toNat 6 26 ≠ 0 ∨ (b.getD 6 0).toNat ≠ entryMode e ∨ (32 + clen + 255) / 256 ≠ entryBlocks e then none
  else match (if entryMode e = 1 then losslessDecode p clen else lossyDecodeAll p clen) with
    | some o => if crc32c o = BitVec.ofNat 32 (leNat (slice b 0 4)) then some o else none
    | none => none

end Sys2Proof.Machine
end

