-- ==== Sys2Proof/Machine/Copy.lean ====
section
/-! DEFINITION. The copy engine (R186 to R191, R224 to R228, R264): issue of a COPY, its requests, their data, run-ahead.
A request is named by its number in the COPY: rows in order, pieces of a row in order. -/

namespace Sys2Proof.Machine

/-! ### Requests (R188) -/

/-- One request: source and destination address of its first byte, and its bytes. -/
structure Span where
  src : BitVec 48
  dst : BitVec 48
  len : Nat

/-- Requests of one row whose destination begins at `da`: one per 2 KiB span, or one per unit (R224). -/
def rowReqs (x : Copy) (da : BitVec 48) : Nat :=
  if x.cmode != 0 then x.len / unitBytes else (da.toNat % 2048 + x.len + 2047) / 2048

/-- Where row `r` begins. -/
def rowAt (base : BitVec 48) (stride : Int) (r : Nat) : BitVec 48 := base + BitVec.ofInt 48 (stride * r)

/-- Row and piece of request `n`, looking at `f` rows from row `r`. -/
def findReq (x : Copy) (da : BitVec 48) : Nat → Nat → Nat → Option (Nat × Nat)
  | 0, _, _ => none
  | f + 1, r, n =>
    let k := rowReqs x (rowAt da x.dstride r)
    if n < k then some (r, n) else findReq x da f (r + 1) (n - k)

/-- Requests of a COPY. -/
def totalReqs (x : Copy) (da : BitVec 48) : Nat :=
  (List.range x.rows).foldl (fun a r => a + rowReqs x (rowAt da x.dstride r)) 0

/-- R188: the span of request `n`. -/
def spanOf (x : Copy) (sa da : BitVec 48) (n : Nat) : Option Span :=
  (findReq x da x.rows 0 n).map fun p =>
    let d := rowAt da x.dstride p.1
    let s := rowAt sa x.sstride p.1
    if x.cmode != 0 then
      let o := BitVec.ofNat 48 (unitBytes * p.2)
      { src := s + o, dst := d + o, len := unitBytes }
    else
      let lo := if p.2 = 0 then 0 else 2048 * p.2 - d.toNat % 2048
      let hi := min x.len (2048 * (p.2 + 1) - d.toNat % 2048)
      { src := s + BitVec.ofNat 48 lo, dst := d + BitVec.ofNat 48 lo, len := hi - lo }

/-- The addresses of the blocks that hold a byte of `[a, a + n)`. -/
def blocksOf (a : BitVec 48) (n : Nat) : List (BitVec 48) :=
  (List.range ((a.toNat % 256 + n + 255) / 256)).map fun i => a - a % 256 + BitVec.ofNat 48 (256 * i)

/-- A location that is translated (R187). -/
def isPaged (loc : Nat) : Bool := loc == 2 || loc == 3 || loc == 4

/-- The page of an address. -/
def pageOf (a : BitVec 48) : Nat := a.toNat / 2 ^ 21

/-- Pages that a request needs translated: those of its source, then that of its destination. -/
def spanPages (x : Copy) (w : Span) : List (BitVec 48 × Bool) :=
  (if isPaged x.srcLoc then (blocksOf w.src w.len).map fun a => (a, false) else []) ++
  (if isPaged x.dstLoc then (blocksOf w.dst w.len).map fun a => (a, true) else [])

/-- R187, R189, R215, R216: why an access faults, if it does. -/
def accessFault (s : State) (ctx loc : Nat) (a : BitVec 48) (write : Bool) : Option (BitVec 8) :=
  match translate s ctx a with
  | .foreign => some 0x05
  | .unmapped => some 0x06
  | .localPage _ _ _ _ wr => if loc = 2 ∧ (wr ∨ !write) then none else some 0x05
  | .peer _ _ _ _ _ wr => if loc = 3 ∧ (wr ∨ !write) then none else some 0x05
  | .host _ wr => if loc = 4 ∧ (wr ∨ !write) then none else some 0x05

/-- The first fault of a request. -/
def spanFault (s : State) (ctx : Nat) (x : Copy) (w : Span) : Option (BitVec 8) :=
  (spanPages x w).findSome? fun p => accessFault s ctx (if p.2 then x.dstLoc else x.srcLoc) p.1 p.2

/-! ### Jobs -/

/-- A COPY in flight, by the number the row names it with. -/
def findCopy (s : State) (n : Nat) (id : BitVec 16) : Option CopyJob :=
  (getC s n).copies.find? fun j => BitVec.ofNat 16 j.iss.id == id

/-- Put a job back. -/
def setCopy (s : State) (n : Nat) (j : CopyJob) : State :=
  modC s n fun c => { c with copies := c.copies.map fun q => if q.iss.id = j.iss.id then j else q }

/-- The stream a job belongs to. -/
def jobStream (s : State) (n : Nat) (x : Issued) : Stream := getStream (getC s n) x.slot

/-- R189: run-ahead requests outstanding or held on a core. -/
def aheadHeld (c : PCore) : Nat := (c.streams.toList.map fun t => t.ahead.length).foldl (· + ·) 0

/-- Requests of a core that hold a slot of the copy engine (R188, R189). -/
def requestsOut (c : PCore) : Nat := (c.copies.map fun j => j.out.length).foldl (· + ·) 0 + aheadHeld c

/-- R175, R190: a COPY fails: it issues no further request, and its stream halts at it. -/
def failCopy (s : State) (n : Nat) (j : CopyJob) (cause : BitVec 8) : State × CopyJob :=
  if j.failed.isSome then (s, j)
  else
    let j := { j with failed := some cause, total := j.next, miss := none }
    (haltStream (setCopy s n j) n j.iss.slot cause (tagOf j.iss.desc) j.iss.pc, j)

/-- R264: the SIGNAL of PSIG, once every WRITE has returned OK. -/
def sendPsig (s : State) (n : Nat) (j : CopyJob) : State :=
  let x := copyOf j.iss.desc
  let t := jobStream s n j.iss
  match translate s t.ctx j.dst with
  | .peer e a rc _ core _ =>
    let k := { barePacket s 5 a with
      dctx := BitVec.ofNat 6 rc, pgen := t.pgen, cls := BitVec.ofNat 2 x.cls, psig := BitVec.ofNat 6 x.psig
      core := BitVec.ofNat 7 core }
    let r := sendRequest s t.ctx e (.psig n j.iss.id) k
    if r.2 then (failCopy r.1 n j 0x0B).1 else setCopy r.1 n { j with psigSent := true, acks := j.acks + 1 }
  | _ => (failCopy s n j 0x05).1

/-- R130: a COPY writes stage bytes: from its first write it stands in the copy log, which keeps the last 64. -/
def logCopy (c : PCore) (j : CopyJob) (ctx a n : Nat) : PCore :=
  let e : CopyLog :=
    { id := some j.iss.id, desc := j.iss.desc, src := j.src, dst := j.dst, ctx := ctx
      refetch := (copyOf j.iss.desc).refetch, blocks := [] }
  let c := if c.copyLog.any fun q => q.id == some j.iss.id then c else { c with copyLog := (e :: c.copyLog).take 64 }
  noteWriter c (some j.iss.id) a n

/-- Remove a job. -/
def dropCopy (s : State) (n id : Nat) : State := modC s n fun c => { c with copies := c.copies.filter fun q => q.iss.id != id }

/-- R172, R190, R264: a COPY with nothing left to do ends: with its signal, or without when it failed or its stream stops. -/
def endCopy (s : State) (n id : Nat) : State :=
  match (getC s n).copies.find? fun q => q.iss.id == id with
  | none => s
  | some j =>
    let t := jobStream s n j.iss
    if j.next < j.total ∨ !j.out.isEmpty ∨ j.acks ≠ 0 then s
    else if j.failed.isSome || t.st == .stopping then
      idleStopped (wakeCore (dropIssued (dropCopy s n id) n j.iss) n) n
    else if (copyOf j.iss.desc).psigEn && !j.psigSent then
      let s := sendPsig s n j
      match (getC s n).copies.find? fun q => q.iss.id == id with
      | some j => if j.failed.isSome && j.acks == 0 then wakeCore (dropIssued (dropCopy s n id) n j.iss) n else s
      | none => s
    else
      wakeCore (completeIssued (dropCopy s n id) n j.iss) n

/-! ### Issue (R171, R185 to R187) -/

/-- R186: the base addresses of a COPY of a stream. -/
def copyBases (t : Stream) (x : Copy) : BitVec 48 × BitVec 48 :=
  (BitVec.ofNat 48 (baseAddr t.br x.srcBr x.srcAddr), BitVec.ofNat 48 (baseAddr t.br x.dstBr x.dstAddr))

/-- R186, R187, R264: what a COPY of a stream breaks on its own bits. -/
def copyMalformed (t : Stream) (d : BitVec 256) : Option (BitVec 8) :=
  let b := copyBases t (copyOf d)
  copyBad d b.1.toNat b.2.toNat

/-- R189: the data held for a COPY that issues at `pc` with these bases, by request. -/
def heldFor (t : Stream) (pc : BitVec 48) (b : BitVec 48 × BitVec 48) : AMap (List Block) :=
  t.ahead.foldl (fun m q => match q.data with
    | some bs => if q.pc = pc ∧ q.src = b.1 ∧ q.dst = b.2 then mapSet m q.req bs else m
    | none => m) []

/-- Issue of a COPY; data read ahead goes to it, and run-ahead requests of it that have brought nothing yet are given up (assumption
log 135). -/
def issueCopy (s : State) (n i : Nat) : State :=
  match issuable s n i opCopy with
  | none => s
  | some d =>
    let t := getStream (getC s n) i
    match copyMalformed t d with
    | some c => rejectDesc s n i d c
    | none =>
      let b := copyBases t (copyOf d)
      let q := issueTo s n i d
      let j : CopyJob :=
        { iss := q.2, next := 0, total := totalReqs (copyOf d) b.2, out := [], wr := [], miss := none, got := [], acks := 0
          psigSent := false, failed := none, src := b.1, dst := b.2, held := heldFor t q.2.pc b }
      modC q.1 n fun c => modStream { c with copies := c.copies ++ [j] } i fun t =>
        { t with ahead := t.ahead.filter fun r => r.pc != q.2.pc }

def execCopy (c : Core) (i : SlotNo) (s : State) : Host.Outcome State Fault Refusal := done (wakeCore (issueCopy s c.val i.val) c.val)

/-! ### Reading -/

/-- A block of a source on the module (R187, R191, R205). -/
def sourceBlock (s : State) (n ctx loc : Nat) (a : BitVec 48) : State × Block :=
  match loc with
  | 0 => (s, localBlock (getC s n) false (a.toNat / 256))
  | 1 => (s, localBlock (getC s n) true (a.toNat / 256))
  | 5 => (s, mkBlock (fit 256 (capability s n)))
  | _ =>
    match translate s ctx a with
    | .localPage p pg off e _ => readLocal s ctx p pg (off - off % 256) e
    | _ => (s, { data := List.replicate 256 0, crc := 0 })

/-- The blocks of a source on the module, in order. -/
def sourceBlocks (n ctx loc : Nat) : State → List (BitVec 48) → State × List Block
  | s, [] => (s, [])
  | s, a :: t =>
    let r := sourceBlock s n ctx loc a
    let q := sourceBlocks n ctx loc r.1 t
    (q.1, r.2 :: q.2)

/-- R190: a block that was lost on both reads is delivered so that its CRC fails. -/
def lose (l : List Block) (bad : List Nat) : List Block :=
  ((List.range l.length).zip l).map fun p =>
    if bad.contains p.1 then { p.2 with crc := crc32c p.2.data ^^^ 0xFFFFFFFF } else p.2

/-! ### Requests issue (R188, R189, R219) -/

/-- The unit table entry of the slot that holds an address (R224). -/
def unitAt (s : State) (ctx : Nat) (a : BitVec 48) : BitVec 32 :=
  match translate s ctx a with
  | .localPage p pg off _ _ =>
    let q := placeByte s p pg off
    mapGet s.mem.unit (unitKey (servePos s q.1 (q.2 / 4096) false) (q.2 / 4096)) 0
  | _ => 0

/-- R208: the unit-table entry of the slot that holds an address is used. -/
def touchUnit (s : State) (ctx : Nat) (a : BitVec 48) (wr : Bool) : State :=
  match translate s ctx a with
  | .localPage p pg off _ _ =>
    let q := placeByte s p pg off
    modCtrl s (servePos s q.1 (q.2 / 4096) wr) fun k => touchLine k (unitAddr (q.2 / 4096)) wr
  | _ => s

/-- R219: module-memory blocks that a request moves. -/
def chargedBlocks (s : State) (n ctx : Nat) (x : Copy) (w : Span) : Nat :=
  (if x.srcLoc = 2 then
      if x.cmode = 3 then entryBlocks (unitAt s ctx w.src) else (blocksOf w.src w.len).length
    else 0) +
  (if x.dstLoc = 2 then
      if x.cmode = 1 ∨ x.cmode = 2 then
        unitBlocks (encodeUnit x.cmode (memRead (getC s n).stage w.src.toNat unitBytes))
      else (blocksOf w.dst w.len).length
    else 0)

/-- Runs of consecutive block indices of at most 8 blocks inside one page: first index and addresses. -/
def readRuns : Nat → Nat → List (BitVec 48) → List (Nat × List (BitVec 48))
  | 0, _, _ => []
  | _ + 1, _, [] => []
  | f + 1, k, a :: t =>
    let run := (a :: t).take (min 8 ((2 ^ 21 - a.toNat % 2 ^ 21) / 256))
    (k, run) :: readRuns f (k + run.length) ((a :: t).drop run.length)

/-- R261: a READ_REQ of a stream for a run of blocks of a peer; `true` when it was refused at the sender. -/
def readPeer (s : State) (t : Stream) (cls : Nat) (o : ReqOwner) (count : Nat) (a : BitVec 48) : State × Bool :=
  match translate s t.ctx a with
  | .peer e m rc rva core _ =>
    sendRequest s t.ctx e o { barePacket s 2 m with
      dctx := BitVec.ofNat 6 rc, pgen := t.pgen, cls := BitVec.ofNat 2 cls, addr := rva
      core := BitVec.ofNat 7 core, nblk := BitVec.ofNat 4 count }
  | _ => (s, true)

/-- A READ_REQ for a run of blocks of request `req` of a COPY. -/
def sendRead (s : State) (n : Nat) (j : CopyJob) (req first count : Nat) (a : BitVec 48) (again : Bool) : State × Bool :=
  readPeer s (jobStream s n j.iss) (copyOf j.iss.desc).cls (.copyRead n j.iss.id req first again) count a

/-- R190: the host window is read for these blocks. -/
def readHost (s : State) (ctx : Nat) (bs : List (BitVec 48)) : State :=
  (readRuns 10 0 bs).foldl (fun s r => match translate s ctx (r.2.headD 0) with
    | .host a _ => emit s (.hostRead a (256 * r.2.length))
    | _ => s) s

/-- The reads of a request that leave the module. -/
def startReads (s : State) (n : Nat) (j : CopyJob) (req : Nat) (w : Span) : State × CopyJob :=
  let x := copyOf j.iss.desc
  let bs := blocksOf w.src w.len
  match x.srcLoc with
  | 3 =>
    (readRuns 10 0 bs).foldl (fun (q : State × CopyJob) r =>
      let g := sendRead q.1 n q.2 req r.1 r.2.length (r.2.headD 0) false
      if g.2 then failCopy g.1 n q.2 0x0B else (g.1, { q.2 with acks := q.2.acks + 1 })) (s, j)
  | 4 => (readHost s (jobStream s n j.iss).ctx bs, j)
  | _ => (s, j)

/-- R188: a COPY has a request to issue. -/
def wantsRequest (j : CopyJob) : Bool := decide (j.next < j.total) && j.miss.isNone

/-- R188: the COPY whose request issues next: the COPYs in flight take turns, in the order of their issue. -/
def nextToRequest (c : PCore) : Option Nat :=
  let l := (c.copies.filter wantsRequest).map (·.iss.id)
  match c.ceLast with
  | some k => (l.find? fun i => decide (k < i)).or l.head?
  | none => l.head?

/-- R188: a COPY has had its turn. -/
def ceTurn (s : State) (n : Nat) (j : CopyJob) : State := modC s n fun c => { c with ceLast := some j.iss.id }

/-- R188: a translation misses; requests that wait on one page are one miss. -/
def countMiss (s : State) (n v : Nat) : State :=
  let c := getC s n
  if c.copies.any (fun j => j.miss == some v) || c.streams.toList.any (fun t => t.ahead.any fun q => q.miss == some v) then s
  else modCnt s n fun k => { k with xlatMiss := k.xlatMiss + 1 }

/-- R188, R189: the next request of a COPY issues, in the COPY's turn. -/
def issueRequest (s : State) (n : Nat) (j : CopyJob) : State :=
  let x := copyOf j.iss.desc
  let t := jobStream s n j.iss
  let p := n / 32
  match (if nextToRequest (getC s n) == some j.iss.id && decide (requestsOut (getC s n) < 48) then spanOf x j.src j.dst j.next
      else none) with
  | none => s
  | some w =>
    match (spanPages x w).find? fun a => !(getC s n).xlat.contains (pageOf a.1) with
    | some a => setCopy (countMiss s n (pageOf a.1)) n { j with miss := some (pageOf a.1) }
    | none =>
      let s := ceTurn s n j
      match (if x.cmode != 0 ∧ (w.src.toNat % unitBytes ≠ 0 ∨ w.dst.toNat % unitBytes ≠ 0) then some 0x02 else spanFault s t.ctx x w) with
      | some cause => endCopy (failCopy s n j cause).1 n j.iss.id
      | none =>
        let b := chargedBlocks s n t.ctx x w
        match takeAll p x.cls (requestSizes b) s with
        | none => holdTokens s p x.cls
        | some s =>
          let req := j.next
          let j := { j with next := j.next + 1, out := j.out ++ [req] }
          if (mapGet? j.held req).isSome then setCopy s n j
          else
            let r := startReads (setCopy s n j) n j req w
            if r.2.failed.isSome then
              let j := { r.2 with out := r.2.out.erase req }
              endCopy (setCopy r.1 n j) n j.iss.id
            else setCopy r.1 n r.2

def execCopyRequestIssue (c : Core) (id : BitVec 16) (s : State) : Host.Outcome State Fault Refusal :=
  doneMem (match (if inService s c.val then findCopy s c.val id else none) with
    | some j => issueRequest s c.val j
    | none => s)

/-! ### Writing -/

/-- Bytes `[lo, lo + n)` of blocks that begin at `base`. -/
def bytesOf (base : Nat) (bs : List Block) (lo n : Nat) : Bytes := slice (bs.flatMap (·.data)) (lo - base) n

/-- Every source block of `[lo, lo + n)` is good. -/
def allGood (base : Nat) (bs : List Block) (lo n : Nat) : Bool :=
  ((List.range bs.length).zip bs).all fun p =>
    decide (base + 256 * p.1 + 256 ≤ lo) || decide (lo + n ≤ base + 256 * p.1) || blockOk p.2

/-- The destination pieces of a request: one per block it touches: address, offset in the request, bytes. -/
def destPieces (w : Span) : List (BitVec 48 × Nat × Nat) :=
  (blocksOf w.dst w.len).map fun b =>
    let lo := max b.toNat w.dst.toNat
    let hi := min (b.toNat + 256) (w.dst.toNat + w.len)
    (BitVec.ofNat 48 lo, lo - w.dst.toNat, hi - lo)

/-- R190: count a block that failed twice. -/
def countCeCrc (s : State) (n k : Nat) : State := modCnt s n fun q => { q with ceCrc := q.ceCrc + BitVec.ofNat 32 k }

/-- Count bytes written. -/
def countCeBytes (s : State) (n k : Nat) : State := modCnt s n fun q => { q with ceBytes := q.ceBytes + BitVec.ofNat 64 k }

/-- R188, R190: write one piece in the stage buffer, the operand cache or module memory; `false` when the existing contents of
a partial block fail. -/
def putPiece (s : State) (n ctx loc : Nat) (a : BitVec 48) (d : Bytes) : State × Bool :=
  let whole := d.length == 256
  match loc with
  | 2 =>
    match translate s ctx a with
    | .localPage p pg off e _ =>
      let q := if whole then (s, mkBlock d) else readLocal s ctx p pg off e
      if whole || blockOk q.2 then
        (writeLocal q.1 ctx p pg off e false (mkBlock (overlay q.2.data (off % 256) d)), true)
      else (q.1, false)
    | _ => (s, false)
  | 4 =>
    match translate s ctx a with
    | .host h _ => (emit s (.hostWrite h d), true)
    | _ => (s, false)
  | l =>
    let cache := l == 1
    if partsGood (locBad (getC s n) cache) a.toNat (a.toNat + d.length) then
      (modC s n fun c => localPut c cache a.toNat d, true)
    else (s, false)

/-- R261, R264: a WRITE of consecutive blocks to a peer; `true` when it was refused at the sender. -/
def sendWrite (s : State) (n : Nat) (j : CopyJob) (req : Nat) (a : BitVec 48) (bs : List Block) : State × Bool :=
  let t := jobStream s n j.iss
  match translate s t.ctx a with
  | .peer e m rc rva core _ =>
    let k := { barePacket s 1 m with
      dctx := BitVec.ofNat 6 rc, pgen := t.pgen, cls := BitVec.ofNat 2 (copyOf j.iss.desc).cls, addr := rva
      core := BitVec.ofNat 7 core, blocks := bs }
    sendRequest s t.ctx e (.copyWrite n j.iss.id req) k
  | _ => (s, true)

/-- One WRITE of request `req` to a peer. -/
def peerPut (s : State) (n : Nat) (j : CopyJob) (req : Nat) (a : BitVec 48) (d : Bytes) : State × CopyJob :=
  let r := sendWrite s n j req a ((chunksOf 256 (d.length / 256 + 1) d).map mkBlock)
  if r.2 then failCopy r.1 n j 0x0B
  else
    let j := { j with acks := j.acks + 1, wr := mapSet j.wr req (mapGet j.wr req 0 + 1) }
    (countCeBytes (setCopy r.1 n j) n d.length, j)

/-- Write one piece; the COPY fails when it cannot be written. -/
def landPiece (s : State) (n : Nat) (j : CopyJob) (req loc : Nat) (a : BitVec 48) (d : Bytes) : State × CopyJob :=
  if loc = 3 then peerPut s n j req a d
  else
    let r := putPiece s n (jobStream s n j.iss).ctx loc a d
    let s := if loc = 0 ∧ r.2 then modC r.1 n fun c => logCopy c j (jobStream s n j.iss).ctx a.toNat d.length else r.1
    if r.2 then (countCeBytes s n d.length, j) else failCopy (countCeCrc r.1 n 1) n j 0x07

/-- R190: write what a plain request has brought: every destination block whose source bytes are good. A request to a peer whose
blocks are all good is one WRITE. -/
def landPlain (s : State) (n : Nat) (j : CopyJob) (req : Nat) (w : Span) (bs : List Block) : State × CopyJob :=
  let loc := (copyOf j.iss.desc).dstLoc
  let base := w.src.toNat - w.src.toNat % 256
  let lost := (bs.filter fun b => !blockOk b).length
  let q := if lost = 0 then (s, j) else failCopy (countCeCrc s n lost) n j 0x07
  if loc = 3 ∧ lost = 0 then peerPut q.1 n q.2 req w.dst (bytesOf base bs w.src.toNat w.len)
  else (destPieces w).foldl (fun (q : State × CopyJob) p =>
    if allGood base bs (w.src.toNat + p.2.1) p.2.2 then
      landPiece q.1 n q.2 req loc p.1 (bytesOf base bs (w.src.toNat + p.2.1) p.2.2)
    else q) q

/-- Write blocks of a unit's slot with its unit-table entry. -/
def putUnit (s : State) (ctx : Nat) (a : BitVec 48) (u : UnitOut) : State :=
  match translate s ctx a with
  | .localPage p pg off e _ =>
    let bs := chunksOf 256 (u.bytes.length / 256 + 1) u.bytes
    let s := ((List.range bs.length).zip bs).foldl (fun s b =>
      writeLocal s ctx p pg (off + 256 * b.1) e true (mkBlock (fit 256 b.2))) s
    let q := placeByte s p pg off
    touchUnit (modMem s fun m => { m with unit := mapSet m.unit (unitKey (servePos s q.1 (q.2 / 4096) true) (q.2 / 4096)) (unitEntry u) })
      ctx a true
  | _ => s

/-- R224 to R227: a compressing request. -/
def landCompress (s : State) (n : Nat) (j : CopyJob) (w : Span) (bs : List Block) : State × CopyJob :=
  let lost := (bs.filter fun b => !blockOk b).length
  if lost ≠ 0 then failCopy (countCeCrc s n lost) n j 0x07
  else
    let u := encodeUnit (copyOf j.iss.desc).cmode (bs.flatMap (·.data))
    let s := putUnit s (jobStream s n j.iss).ctx w.dst u
    (countCeBytes (modCnt s n fun k => countConv k u.convs) n (256 * unitBlocks u), j)

/-- Blocks a request reads: for a decompressing COPY those of the stored unit. -/
def readBlocks (s : State) (ctx : Nat) (x : Copy) (w : Span) : List (BitVec 48) :=
  let bs := blocksOf w.src w.len
  if x.cmode = 3 then bs.take (entryBlocks (unitAt s ctx w.src)) else bs

/-- R228: a decompressing request; `bs`: the blocks of the unit. -/
def landDecompress (s : State) (n : Nat) (j : CopyJob) (req : Nat) (w : Span) (bs : List Block) : State × CopyJob :=
  let lost := (bs.filter fun b => !blockOk b).length
  if lost ≠ 0 then failCopy (countCeCrc s n lost) n j 0x07
  else
    let ctx := (jobStream s n j.iss).ctx
    let x := copyOf j.iss.desc
    let decode := fun (bs : List Block) => if bs.all blockOk then decodeUnit (unitAt s ctx w.src) (bs.flatMap (·.data)) else none
    -- step 5: a unit that fails is read and decoded once more
    let r := if (decode bs).isSome then (s, bs) else sourceBlocks n ctx x.srcLoc (touchUnit s ctx w.src false) (readBlocks s ctx x w)
    match decode r.2 with
    | none => failCopy r.1 n j 0x07
    | some d =>
      let s := r.1
      (destPieces w).foldl (fun (q : State × CopyJob) p =>
        landPiece q.1 n q.2 req (copyOf j.iss.desc).dstLoc p.1 (slice d p.2.1 p.2.2)) (s, j)

/-- R188: a request leaves its slot, once no WRITE of it waits for its answer. -/
def freeRequest (j : CopyJob) (req : Nat) : CopyJob :=
  { j with
    out := if (mapGet? j.wr req).isSome then j.out else j.out.erase req
    got := j.got.filter fun b => b.1 / 16 != req, held := mapErase j.held req }

/-- The data of request `req` have come and are written. -/
def landRequest (s : State) (n : Nat) (j : CopyJob) (req : Nat) (w : Span) (bs : List Block) : State :=
  let x := copyOf j.iss.desc
  let q := if x.cmode = 0 then landPlain s n j req w bs else if x.cmode = 3 then landDecompress s n j req w bs else landCompress s n j w bs
  endCopy (setCopy q.1 n (freeRequest q.2 req)) n j.iss.id

/-- R190: the blocks of request `req`; none while they have not come. -/
def requestData (s : State) (n : Nat) (j : CopyJob) (req : Nat) (w : Span) (d : CopyData) : Option (State × List Block) :=
  let x := copyOf j.iss.desc
  let ctx := (jobStream s n j.iss).ctx
  match mapGet? j.held req with
  | some bs => some (s, bs)
  | none =>
    match x.srcLoc, d with
    | 3, _ => none
    | 4, .host bs => if bs.length = (blocksOf w.src w.len).length then some (s, bs) else none
    | 4, _ => none
    | _, .local bad1 bad2 =>
      let s := if x.cmode = 3 then touchUnit s ctx w.src false else s
      let r := sourceBlocks n ctx x.srcLoc s (readBlocks s ctx x w)
      some (r.1, lose r.2 (bad1.filter fun b => bad2.contains b))
    | _, _ => none

/-- R188, R190: the data of a request are written. -/
def requestDone (s : State) (n : Nat) (j : CopyJob) (req : Nat) (d : CopyData) : State :=
  if !j.out.contains req || (mapGet? j.wr req).isSome then s
  else match spanOf (copyOf j.iss.desc) j.src j.dst req with
    | none => s
    | some w =>
      if (copyOf j.iss.desc).srcLoc = 4 ∧ d = .hostError ∧ (mapGet? j.held req).isNone then
        let q := failCopy s n j 0x0B
        let j := { q.2 with out := q.2.out.erase req }
        endCopy (setCopy q.1 n j) n j.iss.id
      else match requestData s n j req w d with
        | some r => landRequest r.1 n j req w r.2
        | none => s

def execCopyRequestDone (c : Core) (id : BitVec 16) (n : BitVec 32) (d : CopyData) (s : State) : Host.Outcome State Fault Refusal :=
  if wellFormed (.copyRequestDone c id n d) then
    doneMem (match (if inService s c.val then findCopy s c.val id else none) with
      | some j => requestDone s c.val j n.toNat d
      | none => s)
  else .fault (.illFormed "COPY_REQUEST_DONE")

/-! ### Misses (R188) -/

/-- R189: run-ahead requests of a stream that wait on a page go on, or are dropped when it faults. -/
def resolveAhead (s : State) (n v i : Nat) : State :=
  let t := getStream (getC s n) i
  let hit := fun (q : AheadReq) => q.miss == some v
  let bad := fun (q : AheadReq) => hit q && match fetchedAt t q.pc with
    | some d => (accessFault s t.ctx (copyOf d).srcLoc (BitVec.ofNat 48 (v * 2 ^ 21)) false).isSome
    | none => true
  let s := modCnt s n fun k => { k with raDrop := k.raDrop + BitVec.ofNat 32 (t.ahead.filter bad).length }
  modC s n fun c => modStream c i fun t => { t with
    ahead := (t.ahead.filter fun q => !bad q).map fun q => if hit q then { q with miss := none } else q }

/-- R188, R189: a missed translation is resolved: a mapped page enters the cache, and the COPYs that wait on it go on or fault. -/
def resolveMiss (s : State) (n v : Nat) : State :=
  let waits := (getC s n).copies.any (fun j => j.miss == some v) ||
    (getC s n).streams.toList.any fun t => t.ahead.any fun q => q.miss == some v
  let kept := match translate s (v / 2 ^ 21) (BitVec.ofNat 48 (v * 2 ^ 21)) with
    | .unmapped | .foreign => false
    | _ => true
  let s := if waits && kept then modC s n fun c => cacheXlat c v else s
  (List.range 16).foldl (fun s i => resolveAhead s n v i) <| (getC s n).copies.foldl (fun s j =>
    if j.miss != some v then s
    else
      let t := jobStream s n j.iss
      let x := copyOf j.iss.desc
      let j := { j with miss := none }
      let s := setCopy s n j
      match spanOf x j.src j.dst j.next with
      | some w =>
        match (spanPages x w).findSome? fun p =>
          if pageOf p.1 = v then accessFault s t.ctx (if p.2 then x.dstLoc else x.srcLoc) p.1 p.2 else none with
        | some cause =>
          endCopy (failCopy s n j cause).1 n j.iss.id
        | none => s
      | none => s) s

def execXlatMissResolved (c : Core) (page : BitVec 27) (s : State) : Host.Outcome State Fault Refusal :=
  doneMem (if inService s c.val then resolveMiss s c.val page.toNat else s)

/-! ### Run-ahead (R189) -/

/-- R189: the COPY at an address, when it has been fetched and its stream has not issued it. -/
def aheadCopy (t : Stream) (pc : BitVec 48) : Option (BitVec 256) :=
  if 0 ≤ (pc - issuePc t).toInt then (fetchedAt t pc).filter fun d => opcodeOf d == opCopy else none

/-- Change a run-ahead request, or take it away. -/
def putAhead (s : State) (n i no : Nat) (f : AheadReq → Option AheadReq) : State :=
  modC s n fun c => modStream c i fun t => { t with ahead := t.ahead.filterMap fun q => if q.no = no then f q else some q }

/-- R189: a run-ahead request is dropped. -/
def dropRequest (s : State) (n i no : Nat) : State := countDrop (putAhead s n i no fun _ => none) n

/-- R189: the data of a run-ahead request are held, unless a block fails its CRC. -/
def holdAhead (s : State) (n i no : Nat) (bs : List Block) : State :=
  if bs.all blockOk then putAhead s n i no fun q => some { q with data := some bs } else dropRequest s n i no

/-- R189: the read of a run-ahead request whose pages are translated. -/
def readAhead (s : State) (n i : Nat) (q : AheadReq) (x : Copy) (w : Span) (d : CopyData) : State :=
  let t := getStream (getC s n) i
  let bs := blocksOf w.src w.len
  match x.srcLoc with
  | 3 =>
    (readRuns 10 0 bs).foldl (fun s r =>
      let g := readPeer s t x.cls (.aheadRead n i q.no r.1) r.2.length (r.2.headD 0)
      if g.2 then dropRequest g.1 n i q.no
      else putAhead g.1 n i q.no fun q => some { q with acks := q.acks + 1 }) (putAhead s n i q.no fun q => some { q with sent := true })
  | 4 => putAhead (readHost s t.ctx bs) n i q.no fun q => some { q with sent := true }
  | loc =>
    match d with
    | .local bad1 _ =>
      let ks := readBlocks s t.ctx x w
      match (if loc = 2 then takeTokens s (n / 32) x.cls ks.length else some s) with
      | none => holdTokens s (n / 32) x.cls
      | some s =>
        let r := sourceBlocks n t.ctx loc s ks
        holdAhead r.1 n i q.no (lose r.2 bad1)
    | _ => s

/-- R189: run-ahead request `q` goes on: pages that miss, then its read; for a host window, then what the host returns. -/
def goAhead (s : State) (n i : Nat) (q : AheadReq) (x : Copy) (d : CopyData) : State :=
  let t := getStream (getC s n) i
  match spanOf x q.src q.dst q.req with
  | none => s
  | some w =>
    if q.miss.isSome || q.data.isSome then s
    else if q.sent then
      match x.srcLoc, d with
      | 4, .host bs => if bs.length = (blocksOf w.src w.len).length then holdAhead s n i q.no bs else s
      | 4, .hostError => dropRequest s n i q.no
      | _, _ => s
    else
      let pages := if isPaged x.srcLoc then blocksOf w.src w.len else []
      let fault := fun a => accessFault s t.ctx x.srcLoc a false
      -- an address of another context is dropped before any translation
      if pages.any fun a => fault a == some 0x05 then dropRequest s n i q.no
      else match pages.find? fun a => !(getC s n).xlat.contains (pageOf a) with
        | some a => putAhead (countMiss s n (pageOf a)) n i q.no fun q => some { q with miss := some (pageOf a) }
        | none => if pages.any fun a => (fault a).isSome then dropRequest s n i q.no else readAhead s n i q x w d

/-- R189: run-ahead request `req` of the fetched COPY at `pc`. -/
def runAhead (s : State) (n i : Nat) (pc : BitVec 48) (req : Nat) (d : CopyData) : State :=
  let c := getC s n
  let t := getStream c i
  match (if sequencing s n && t.st == .running then aheadCopy t pc else none) with
  | none => s
  | some e =>
    let x := copyOf e
    let b := copyBases t x
    if !x.ra || (copyMalformed t e).isSome then s
    else match t.ahead.find? fun q => q.pc == pc && q.req == req && q.src == b.1 && q.dst == b.2 with
      | some q => goAhead s n i q x d
      | none =>
        if aheadHeld c < 16 && decide (requestsOut c < 48) && (spanOf x b.1 b.2 req).isSome then
          let q : AheadReq :=
            { no := c.nextId, pc := pc, req := req, src := b.1, dst := b.2, miss := none, sent := false, acks := 0, got := [], data := none }
          goAhead (modC s n fun c => modStream { c with nextId := c.nextId + 1 } i fun t => { t with ahead := t.ahead ++ [q] }) n i q x d
        else s

/-- R189, R263: a read of a run-ahead request through a peer window has been answered; `bs`: its blocks, none when it failed. -/
def aheadBack (s : State) (n i no first : Nat) (bs : Option (List Block)) : State :=
  match (getStream (getC s n) i).ahead.find? fun q => q.no == no with
  | none => s
  | some q =>
    match bs with
    | none => dropRequest s n i no
    | some bs =>
      let got := ((List.range bs.length).zip bs).foldl (fun m b => mapSet m (first + b.1) b.2) q.got
      let s := putAhead s n i no fun q => some { q with acks := q.acks - 1, got := got }
      if q.acks = 1 then holdAhead s n i no (got.map (·.2)) else s

def execRunAheadRead (c : Core) (x : AheadRef) (n : BitVec 32) (d : CopyData) (s : State) :
    Host.Outcome State Fault Refusal :=
  if wellFormed (.runAheadRead c x n d) then doneMem (runAhead s c.val x.slot.val x.pc n.toNat d)
  else .fault (.illFormed "RUN_AHEAD_READ")

end Sys2Proof.Machine
end

