-- ==== Sys2Proof/Machine/LaneRow.lean ====
section
/-! DEFINITION. The lane row: issue of an MMA, stationary and transposer fills, passes, drains with their check (R86 to R109,
R117 to R124). -/

namespace Sys2Proof.Machine

/-! ### Operands (R63, R67, R93, R98, R108) -/

/-- +0, which a missing element reads as. -/
def zeroVal : Val := .num false 0 0

/-- How the pair of an MMA runs. -/
def Mma.run (x : Mma) : PairRun := (pairRun x.aFmt x.bFmt).getD { seg := 1, int := false, bf16 := false, f32 := false }

/-- A'[m, k] as the lanes use it. -/
def aVal (c : PCore) (x : Mma) (m k : Nat) : Val :=
  if x.k ≤ k then zeroVal
  else
    let w := elemBits x.aFmt
    let e := if x.aCol then bitsAt c.stage (x.aAddr + k * x.aPitch) m w else bitsAt c.stage (x.aAddr + m * x.aPitch) k w
    let sb := if x.aCol then memGet c.stage (x.aScale + k / 32 * pad32 x.m + m)
      else memGet c.stage (x.aScale + m * pad32 (mxBlocks x.k) + k / 32)
    operandVal x.run x.aFmt x.aMxv e sb.toNat

/-- B'[k, n] as the lanes hold it. -/
def bVal (c : PCore) (x : Mma) (k n : Nat) : Val :=
  if x.k ≤ k ∨ x.n ≤ n then zeroVal
  else
    let w := elemBits x.bFmt
    let e := if x.bTol then bitsAt c.stage (x.bAddr + n * x.bPitch) k w else bitsAt c.stage (x.bAddr + k * x.bPitch) n w
    let sb := if x.bTol then memGet c.stage (x.bScale + n * pad32 (mxBlocks x.k) + k / 32)
      else memGet c.stage (x.bScale + k / 32 * pad32 x.n + n)
    operandVal x.run x.bFmt x.bMxv e sb.toNat

/-- R96: the K of segment `sg` of a pass. -/
def segKs (x : Mma) (pass sg : Nat) : List Nat := (List.range x.run.seg).map (pass * x.passK + sg * x.run.seg + ·)

/-- R96: segment and column of a lane. -/
def laneSeg (x : Mma) (l : Nat) : Nat := l / pairMaxN x.pair
def laneCol (x : Mma) (l : Nat) : Nat := l % pairMaxN x.pair

/-- Elements `[k0, k1)` of a row of `w`-bit elements lie in these bytes. -/
def partBytes (base k0 k1 w : Nat) : Nat × Nat := (base + k0 * w / 8, base + (k1 * w + 7) / 8)

/-- R90: the byte ranges of an operand that a pass reads: element rows along K or across it, and the scale rows. -/
def passRanges (along : Bool) (addr pitch fmt scale across k : Nat) (k0 k1 : Nat) : List (Nat × Nat) :=
  let w := elemBits fmt
  let rows := List.range across
  let ks := (List.range (k1 - k0)).map (k0 + ·)
  (if along then rows.map fun r => partBytes (addr + r * pitch) k0 k1 w
   else ks.map fun q => partBytes (addr + q * pitch) 0 across w) ++
  (if !isMx fmt then []
   else if along then rows.map fun r => partBytes (scale + r * pad32 (mxBlocks k)) (k0 / 32) ((k1 + 31) / 32) 8
   else (List.range ((k1 + 31) / 32 - k0 / 32)).map fun q => partBytes (scale + (k0 / 32 + q) * pad32 across) 0 across 8)

/-- R90: the A data of a pass passes its CRCs. -/
def aGood (c : PCore) (x : Mma) (pass : Nat) : Bool :=
  (passRanges (!x.aCol) x.aAddr x.aPitch x.aFmt x.aScale x.m x.k (pass * x.passK) (min x.k ((pass + 1) * x.passK))).all fun r =>
    blocksGood c.stageBad r.1 r.2

/-- R90: the B data of a pass passes its CRCs. -/
def bGood (c : PCore) (x : Mma) (pass : Nat) : Bool :=
  (passRanges x.bTol x.bAddr x.bPitch x.bFmt x.bScale x.n x.k (pass * x.passK) (min x.k ((pass + 1) * x.passK))).all fun r =>
    blocksGood c.stageBad r.1 r.2

/-! ### Fills (R92, R98, R117) -/

/-- R117: the sum of one k over the lanes of a group, rounded once; modulo 2^32 for integers. -/
def groupSum (int : Bool) (vs : List Val) : BitVec 32 :=
  if int then accumulate true 0 vs else toF32 (sumVals vs)

/-- Position `j` of each lane of a group. -/
def groupAt (cols : List (List Val)) (g j : Nat) : List Val := ((cols.drop (32 * g)).take 32).map fun l => l.getD j zeroVal

/-- R92, R117: the stationary buffer of a pass. -/
def fillStat (c : PCore) (x : Mma) (id pass : Nat) : StatBuf :=
  let cols := (List.range 256).map fun l => (segKs x pass (laneSeg x l)).map fun k => bVal c x k (laneCol x l)
  let js := List.range x.run.seg
  { id := id, pass := pass, cols := cols
    sums := (List.range 8).map fun g => js.map fun j => groupSum x.run.int (groupAt cols g j)
    abss := if x.run.int then [] else (List.range 8).map fun g => js.map fun j => groupSum false ((groupAt cols g j).map Val.abs) }

/-- The segments of the rows of A of a pass, as they stand in the stage buffer. -/
def aSegments (c : PCore) (x : Mma) (pass : Nat) : List (List (List Val)) :=
  (List.range x.m).map fun m => (List.range (pairSegs x.pair)).map fun sg => (segKs x pass sg).map (aVal c x m)

/-! ### Accumulation (R68, R70, R118) -/

/-- Products of two segments. -/
def segProducts (a b : List Val) : List Val := (a.zip b).map fun p => p.1.mul p.2

/-- Keep only what differs from 0. -/
def nonZero (l : List (Nat × BitVec 32)) : AMap (BitVec 32) := l.filter fun p => p.2 != 0

/-- A row sum as a value. -/
def sumVal (int : Bool) (w : BitVec 32) : Val := if int then intVal w.toInt else f32 w

/-- R68, R70: the lanes add a pass into a bank. `a`: the segments of each row. -/
def addLanes (x : Mma) (st : StatBuf) (a : List (List (List Val))) (acc : AMap (BitVec 32)) : AMap (BitVec 32) :=
  nonZero (((List.range a.length).zip a).flatMap fun r => ((List.range 256).zip st.cols).map fun l =>
    let key := 256 * r.1 + l.1
    (key, accumulate x.run.int (mapGet acc key 0) (segProducts (r.2.getD (laneSeg x l.1) []) l.2)))

/-- R118, R120: the checker lanes, or the bound unit, add a pass; entry (row, group) at 8 row + group. -/
def addChecks (x : Mma) (sums : List (List (BitVec 32))) (a : List (List (List Val))) (bound : Bool) (acc : AMap (BitVec 32)) :
    AMap (BitVec 32) :=
  nonZero (((List.range a.length).zip a).flatMap fun r => ((List.range 8).zip sums).map fun g =>
    let key := 8 * r.1 + g.1
    let s := r.2.getD (laneSeg x (32 * g.1)) []
    (key, accumulate x.run.int (mapGet acc key 0)
      (segProducts (if bound then s.map Val.abs else s) (g.2.map (sumVal x.run.int)))))

/-- R83, R119: elements of K that a pass adds to the entries of a quarter-row. -/
def passCount (x : Mma) (pass q : Nat) : Nat := ((segKs x pass (laneSeg x (64 * q))).filter fun k => decide (k < x.k)).length

/-- One pass on a bank. `lanes`: A as the lanes receive it; `tap`: A as the checker reads it (R120). -/
def addPass (x : Mma) (st : StatBuf) (lanes tap : List (List (List Val))) (b : Bank) : Bank :=
  { b with
    acc := addLanes x st lanes b.acc
    check := addChecks x st.sums tap false b.check
    bound := if x.run.int then b.bound else addChecks x st.abss tap true b.bound
    k := Vector.ofFn fun q : Fin 4 => b.k.getD q.val 0 + passCount x st.pass q.val }

/-- The bank as an MMA begins on it (R100, R118). -/
def beginBank (x : Mma) (b : Bank) : Bank :=
  if x.acc then { b with st := .filling }
  else { Bank.reset with st := .filling, m := x.m, n := x.n, pair := BitVec.ofNat 2 x.pair, int := x.run.int, relIssued := b.relIssued }

/-! ### The check (R119) -/

/-- One comparison: what it found. -/
structure Compare where
  row   : Nat
  group : Nat
  skip  : Bool
  pass  : Bool
  par   : Bool
  check : BitVec 32
  bound : BitVec 32
  tree  : BitVec 32
  vals  : List (BitVec 32)

/-- R119, R121: the comparison of a row and a group. `parity`: quarter-rows failed by parity. -/
def compareGroup (x : Mma) (b : Bank) (parity : BitVec 4) (m g : Nat) : Compare :=
  let vals := (List.range 32).map fun i => mapGet b.acc (256 * m + 32 * g + i) 0
  let t := treeSum b.int 5 vals
  let c := mapGet b.check (8 * m + g) 0
  let be := mapGet b.bound (8 * m + g) 0
  let skip := !b.int && !((t :: c :: be :: vals).all fun w => (f32 w).isFinite)
  let par := parity.getLsbD (g / 2)
  { row := m, group := g, skip := skip, par := par, check := c, bound := be, tree := t, vals := vals
    pass := !par && (skip || checkPasses x.run (b.k.getD (g / 2) 0) t c be) }

/-- The comparisons of a drain, in order. -/
def compareAll (x : Mma) (b : Bank) (parity : BitVec 4) : List Compare :=
  (List.range x.m).flatMap fun m => (List.range 8).map fun g => compareGroup x b parity m g

/-- R84, R119: the counters of a drain. -/
def countCompare (k : CoreCounters) (l : List Compare) : CoreCounters :=
  { k with
    cmp := k.cmp + BitVec.ofNat 64 l.length
    skip := k.skip + BitVec.ofNat 32 (l.filter (·.skip)).length
    failG := Vector.ofFn fun g : Fin 8 =>
      k.failG.getD g.val 0 + BitVec.ofNat 32 (l.filter fun c => c.group == g.val && !c.pass).length }

/-! ### The output (R97, R104) -/

/-- R97: column `n` of a row of a bank, its partials combined. -/
def bankEntry (b : Bank) (m n : Nat) : BitVec 32 :=
  let e := fun (l : Nat) => mapGet b.acc (256 * m + l) 0
  let add := fun (p q : BitVec 32) => if b.int then p + q else fadd p q
  match b.pair.toNat with
  | 0 => e n
  | 1 => add (e n) (e (128 + n))
  | _ => add (add (e n) (e (64 + n))) (add (e (128 + n)) (e (192 + n)))

/-- An entry as a value. -/
def entryVal (b : Bank) (m n : Nat) : Val := sumVal b.int (bankEntry b m n)

def Mma.outShape (x : Mma) : OutShape :=
  { addr := x.oAddr, pitch := x.oPitch, rows := x.m, n := x.n, fmt := x.oFmt, mxv := x.oMxv, sat := x.sat }

/-- What an output writer did: the core whose stage buffer it wrote, the conversions of the rows written, and whether a write
met a failing block. -/
structure Written where
  c     : PCore
  convs : List Conv
  bad   : Bool

/-- R91: one row goes out after those before it; a row that meets a failing block is not written, and none after it. -/
def Written.put (q : Written) (o : List (Nat × Bytes) × List Conv) : Written :=
  if q.bad then q
  else match putRows q.c o.1 with
    | some c => { c := c, convs := q.convs ++ o.2, bad := false }
    | none => { q with bad := true }

/-- R91, R104, R105: rows below `stop` are converted and written. -/
def storeRows (x : Mma) (b : Bank) (stop : Nat) (c : PCore) : Written :=
  (List.range stop).foldl (fun q r => q.put (outRow x.outShape r ((List.range x.n).map (entryVal b r))))
    { c := c, convs := [], bad := false }

/-! ### The end of an MMA (R104, R105, R119, R121, R122) -/

/-- How a checked descriptor ends: the core with what was written, the counters of the slot that ran it, what failed. -/
structure RunEnd where
  c    : PCore
  cnt  : CoreCounters
  fail : Option Capture

/-- R140: a comparison as a replay slot captures it. -/
def captureOf (b : Bank) (cause : BitVec 8) (v : Compare) : Capture :=
  { cause := cause, unit := BitVec.ofNat 8 v.group, row := BitVec.ofNat 8 v.row, k := BitVec.ofNat 32 (b.k.getD (v.group / 2) 0)
    check := v.check, bound := v.bound, tree := v.tree, values := v.vals }

/-- R122: the tree fails its residue at this row and group. -/
def treeAt (tree : Option (Fin 128 × Fin 8)) (v : Compare) : Bool := tree.any fun t => t.1.val == v.row && t.2.val == v.group

/-- R105, R124, R127: the first failing row and group of a drain, with its capture. Where the tree fails its residue the comparison
counts for nothing (assumption log 123). -/
def firstFail (b : Bank) (cs : List Compare) (tree : Option (Fin 128 × Fin 8)) : Option (Nat × Capture) :=
  (cs.find? fun v => !v.pass || treeAt tree v).map fun v =>
    (v.row, captureOf b (if treeAt tree v then 7 else if v.par then 2 else 1) v)

/-- R103 to R105: a drain of a bank into the stage buffer of `c`, on the slot whose counters are `k`. -/
def drainRun (x : Mma) (b : Bank) (parity : BitVec 4) (tree : Option (Fin 128 × Fin 8)) (c : PCore) (k : CoreCounters) : RunEnd :=
  let cs := compareAll x b parity
  let bad := firstFail b cs tree
  let k := countCompare k cs
  let k := { k with veTree := k.veTree + BitVec.ofNat 32 (cs.filter (treeAt tree)).length }
  let w := if x.out = 2 then storeRows x b ((bad.map (·.1)).getD x.m) c else { c := c, convs := [], bad := false }
  let k := countConv k w.convs
  if w.bad then { c := w.c, cnt := { k with lrCrc := k.lrCrc + 1 }, fail := some .input }
  else match bad with
    | some f => { c := w.c, cnt := k, fail := some f.2 }
    | none => { c := w.c, cnt := { k with tiles := k.tiles + 1 }, fail := none }

/-- R104, R121: an MMA with OUT = KEEP ends with its last pass; a parity error fails its quarters' groups. -/
def keepRun (x : Mma) (b : Bank) (parity : BitVec 4) (c : PCore) (k : CoreCounters) : RunEnd :=
  let fails := (List.range 8).filter fun g => parity.getLsbD (g / 2)
  match fails.head? with
  | none => { c := c, cnt := { k with tiles := k.tiles + 1 }, fail := none }
  | some g =>
    let failed := Vector.ofFn fun i : Fin 8 => k.failG.getD i.val 0 + (if fails.contains i.val then BitVec.ofNat 32 x.m else 0)
    { c := c, cnt := { k with failG := failed }, fail := some (captureOf b 2 (compareGroup x b parity 0 g)) }

/-- An MMA ends in the bank as its last pass left it, by its OUT. -/
def mmaEnd (x : Mma) (b : Bank) (parity : BitVec 4) (tree : Option (Fin 128 × Fin 8)) (c : PCore) (k : CoreCounters) : RunEnd :=
  if x.out = 0 then keepRun x b parity c k else drainRun x b parity tree c k

/-- R100, R104: the bank as an MMA leaves it that ended well. -/
def leaveBank (c : PCore) (x : Mma) (b : Bank) : PCore :=
  if x.out = 2 then freeBank c x.bank else setBank c x.bank { b with st := if x.out = 0 then .kept else .held }

/-- R100, R105: the bank of a failed MMA: FREE after STORE, else reserved for the replay. -/
def failBank (c : PCore) (x : Mma) (b : Bank) : PCore :=
  if x.out = 2 then freeBank c x.bank else setBank c x.bank { b with st := .draining }

/-! ### Failures (R90, R105, R124) -/

/-- R124: a checked descriptor fails: it is logged, and held in a replay slot. -/
def holdChecked (s : State) (n : Nat) (r : Replay) : State :=
  let p := physOf s n
  let ctx := (getStream (getC s n) r.iss.slot).ctx
  let life := if r.cause = 1 ∨ r.cause = 2 then [(0x0B80 + 16 * p, 1)] else []
  holdFailure (recordEvent s 1 0x10 2 p (some ctx) life none) n r

/-- Remove an MMA from the lane row with its buffers. -/
def dropMma (c : PCore) (id : Nat) : PCore :=
  { c with lr := c.lr.filter fun j => j.iss.id != id
           stat := c.stat.filter fun b => b.id != id
           trans := c.trans.filter fun b => b.id != id }

/-- R90: an operand block of an MMA fails its CRC. -/
def failMmaInput (s : State) (n : Nat) (j : MmaJob) : State :=
  let x := mmaOf j.iss.desc
  let s := modC s n fun c =>
    let c := dropMma { c with cnt := { c.cnt with lrCrc := c.cnt.lrCrc + 1 } } j.iss.id
    if j.started then failBank c x (getBank c x.bank) else c
  holdChecked s n { mkReplay s n j.iss .input with start := j.start }

/-! ### Launch of a pass (R94, R95, R100, R101, R121) -/

/-- The MMA whose passes run or come next. -/
def activeMma (c : PCore) : Option MmaJob := c.lr.find? fun j => !j.draining

/-- Put an MMA back. -/
def setMma (c : PCore) (j : MmaJob) : PCore := { c with lr := c.lr.map fun q => if q.iss.id = j.iss.id then j else q }

/-- R101: an MMA with ACC = 1 can go on in this bank. -/
def bankKept (x : Mma) (b : Bank) : Bool :=
  b.st == .kept && b.m == x.m && b.n == x.n && b.pair.toNat == x.pair && b.int == x.run.int

/-- R100, R101: the bank of an MMA lets it begin; one with ACC = 1 begins after every earlier MMA on its bank, held ones too. -/
def bankReady (s : State) (n : Nat) (j : MmaJob) : Bool :=
  let x := mmaOf j.iss.desc
  let b := getBank (getC s n) x.bank
  if x.acc then
    bankKept x b && !(getL s n).replay.toList.any fun r => r.any fun r =>
      opcodeOf r.iss.desc == opMma && (mmaOf r.iss.desc).bank == x.bank && decide (r.iss.id < j.iss.id)
  else b.st == .free

/-- R94: the buffers of the next pass are full, and the bank is ready. -/
def passReady (s : State) (n : Nat) (j : MmaJob) : Bool :=
  let x := mmaOf j.iss.desc
  let c := getC s n
  !j.going && c.stat.any (fun b => b.id == j.iss.id && b.pass == j.pass) &&
  (!x.aCol || c.trans.any fun b => b.id == j.iss.id && b.pass == j.pass) && (j.started || bankReady s n j)

/-! ### Replays of other cores (R129) -/

/-- An MMA is in its passes. -/
def rowBusy (c : PCore) : Bool := c.lr.any fun j => j.started && !j.draining

/-- R129: the banks that a replay takes on another core: its own where that is FREE, else the other; what it still wants, what it
has, and the core. -/
def takeBanks : List Nat → List Nat → PCore → List Nat × List Nat × PCore
  | [], g, c => ([], g, c)
  | w :: t, g, c =>
    match [w % 2, 1 - w % 2].find? fun b => (getBank c b).st == .free with
    | some b => takeBanks t (g ++ [b]) (setBank c b { Bank.reset with st := .filling })
    | none => (w :: t, g, c)

/-- R129, R158: the replays of other cores enter this slot: an MMA at an MMA boundary of its lane row, with a FREE bank. -/
def enterGuests (s : State) (p : Nat) : State :=
  (guestsOn s p).foldl (fun s g =>
    let r := g.2.2
    if r.want.isEmpty || (opcodeOf r.iss.desc == opMma && rowBusy (getP s p)) then s
    else
      let q := takeBanks r.want r.guest (getP s p)
      setReplay (setP s p q.2.2) g.1 g.2.1 (some { r with want := q.1, guest := q.2.1 })) s

/-- R129: the core's own next MMA waits behind a replay. -/
def guestWaits (s : State) (p : Nat) : Bool := (guestsOn s p).any fun g => opcodeOf g.2.2.iss.desc == opMma

/-- R405: an injection of kind 0x03 breaks the parity of a quarter. -/
def takeParity (s : State) (n : Nat) : State × BitVec 4 :=
  let q := takeInjection s fun d => d.kind == 3 && d.target.toNat == n
  (q.1, (q.2.map fun d => BitVec.ofNat 4 (2 ^ (d.sub.toNat % 4))).getD 0)

/-- R95, R129: replays of other cores enter, and the next pass launches when it can. -/
def launchPass (s : State) (n : Nat) : State :=
  let s := enterGuests s (physOf s n)
  match activeMma (getC s n) with
  | none => s
  | some j =>
    if !passReady s n j || (!j.started && guestWaits s (physOf s n)) then s
    else
      let x := mmaOf j.iss.desc
      let q := takeParity s n
      let par := q.2
      modC q.1 n fun c =>
        let b := getBank c x.bank
        let c := if j.started then c else setBank c x.bank (beginBank x b)
        let c := if par = 0 then c else { c with cnt := { c.cnt with bcastPar := c.cnt.bcastPar + 1 } }
        setMma c { j with started := true, going := true, parity := j.parity ||| par
                          start := if j.started then j.start else if x.acc then some b else none }

/-! ### Issue (R88, R101, R126) -/

/-- R101: an MMA with ACC = 1 finds its bank KEPT, or follows on its stream an MMA that leaves it so: the one issued last, in the
lane row or held for a replay. -/
def accOk (s : State) (n i : Nat) (x : Mma) : Bool :=
  let c := getC s n
  let last := (getStream c i).lastMma
  let follows := fun (q : Issued) =>
    let p := mmaOf q.desc
    last == some q.id && p.out == 0 && p.bank == x.bank && p.m == x.m && p.n == x.n && p.pair == x.pair && p.run.int == x.run.int
  bankKept x (getBank c x.bank) || c.lr.any (fun j => follows j.iss) ||
  (getL s n).replay.toList.any fun r => r.any fun r => opcodeOf r.iss.desc == opMma && follows r.iss

/-- What an MMA of a stream breaks (R101, R109). -/
def mmaMalformed (s : State) (n i : Nat) (d : BitVec 256) : Option (BitVec 8) :=
  match mmaBad d with
  | some c => some c
  | none => if (mmaOf d).acc && !accOk s n i (mmaOf d) then some 0x04 else none

/-- R88, R126, R158: issue of an MMA. -/
def issueMma (s : State) (n i : Nat) : State :=
  match issuable s n i opMma with
  | none => s
  | some d =>
    match mmaMalformed s n i d with
      | some c => rejectDesc s n i d c
      | none =>
        let x := mmaOf d
        let q := issueTo s n i d
        let j : MmaJob :=
          { iss := q.2, started := false, pass := 0, going := false, parity := 0, draining := false, start := none }
        modC q.1 n fun c =>
          let c := if x.acc then c else setBank c x.bank { getBank c x.bank with relIssued := false }
          modStream { c with lr := c.lr ++ [j] } i fun t => { t with lastMma := some q.2.id }

def execMma (c : Core) (i : SlotNo) (s : State) : Host.Outcome State Fault Refusal := done (wakeCore (issueMma s c.val i.val) c.val)

/-! ### Fills (R92 to R94, R98) -/

/-- Passes of the MMAs in the lane row, in order, from each one's present pass. -/
def passesAhead (c : PCore) : List (MmaJob × Nat) :=
  (c.lr.filter fun j => !j.draining).flatMap fun j =>
    ((List.range (mmaOf j.iss.desc).passes).filter fun p => decide (j.pass ≤ p)).map fun p => (j, p)

/-- R92, R94: the stationary loader fills a buffer for the next pass that has none. -/
def statFilled (s : State) (n : Nat) : State :=
  let c := getC s n
  match (if c.stat.length < 2 then (passesAhead c).find? fun q => !c.stat.any (fun b => b.id == q.1.iss.id && b.pass == q.2) else none) with
  | none => s
  | some (j, p) =>
    let x := mmaOf j.iss.desc
    if bGood c x p then launchPass (modC s n fun c => { c with stat := c.stat ++ [fillStat c x j.iss.id p] }) n
    else launchPass (failMmaInput s n j) n

def execStationaryFillDone (c : Core) (s : State) : Host.Outcome State Fault Refusal :=
  done (if inService s c.val then wakeCore (statFilled s c.val) c.val else s)

/-- R98: the transposer fills a buffer for the next pass with A_COL = 1 that has none. -/
def transFilled (s : State) (n : Nat) : State :=
  let c := getC s n
  match (if c.trans.length < 2 then (passesAhead c).find? fun q =>
      (mmaOf q.1.iss.desc).aCol && !c.trans.any (fun b => b.id == q.1.iss.id && b.pass == q.2) else none) with
  | none => s
  | some (j, p) =>
    let x := mmaOf j.iss.desc
    if aGood c x p then
      launchPass (modC s n fun c => { c with trans := c.trans ++ [{ id := j.iss.id, pass := p, a := aSegments c x p }] }) n
    else launchPass (failMmaInput s n j) n

def execTransposerFillDone (c : Core) (s : State) : Host.Outcome State Fault Refusal :=
  done (if inService s c.val then wakeCore (transFilled s c.val) c.val else s)

/-! ### Passes (R95, R100, R103, R121) -/

/-- Set bits of a mask. -/
def bitCount (v : BitVec 4) : Nat := ((List.range 4).filter fun i => v.getLsbD i).length

/-- R405: injections of kinds 0x01 and 0x02 on a bank whose last pass has completed. -/
def flipBank : Nat → State → Nat → Nat → Bank → State × Bank
  | 0, s, _, _, b => (s, b)
  | f + 1, s, n, k, b =>
    let q := takeInjection s fun d => (d.kind == 1 || d.kind == 2) && d.target.toNat == n && field d.sub.toNat 20 1 == k
    match q.2 with
    | none => (s, b)
    | some d =>
      let v := d.sub.toNat
      let m := field v 8 7
      let w : BitVec 32 := BitVec.ofNat 32 (2 ^ field v 15 5)
      let put := fun (a : AMap (BitVec 32)) (key : Nat) => mapSet a key (mapGet a key 0 ^^^ w)
      let b := if d.kind = 1 then { b with acc := put b.acc (256 * m + field v 0 8) }
        else if field v 21 1 = 0 then { b with check := put b.check (8 * m + field v 0 3) }
        else { b with bound := put b.bound (8 * m + field v 0 3) }
      flipBank f q.1 n k b

/-- R104, R105, R124: the MMA that ran leaves the lane row: it completes, or is held for a replay. -/
def endMma (s : State) (n : Nat) (j : MmaJob) (b : Bank) (e : RunEnd) : State :=
  let x := mmaOf j.iss.desc
  let c := dropMma { e.c with cnt := e.cnt } j.iss.id
  launchPass (match e.fail with
    | none => completeIssued (setC s n (leaveBank c x b)) n j.iss
    | some f =>
      let s := setC s n (failBank c x b)
      holdChecked s n { mkReplay s n j.iss f with start := j.start }) n

/-- R95: the pass in progress completes. -/
def passDone (s : State) (n : Nat) (parity : BitVec 4) : State :=
  let s := launchPass s n
  let c := getC s n
  match activeMma c with
  | none => s
  | some j =>
    let x := mmaOf j.iss.desc
    match (if j.going then c.stat.find? fun b => b.id == j.iss.id && b.pass == j.pass else none) with
    | none => s
    | some st =>
      if !aGood c x j.pass then launchPass (failMmaInput s n j) n
      else
        let tap := aSegments c x j.pass
        let lanes := if x.aCol then ((c.trans.find? fun b => b.id == j.iss.id && b.pass == j.pass).map (·.a)).getD tap else tap
        let last := decide (x.passes ≤ j.pass + 1)
        let b := addPass x st lanes tap (getBank c x.bank)
        let q := if last then flipBank 1000 s n x.bank b else (s, b)
        let j := { j with pass := j.pass + 1, going := false, parity := j.parity ||| parity, draining := last && x.out != 0 }
        let s := modC q.1 n fun c =>
          let c := setBank c x.bank (if last && x.out != 0 then { q.2 with st := .draining } else q.2)
          let c := setMma c j
          { c with
            stat := c.stat.erase st
            trans := c.trans.filter fun b => !(b.id == j.iss.id && b.pass + 1 == j.pass)
            cnt := { c.cnt with
              rowCyc := c.cnt.rowCyc + BitVec.ofNat 64 x.m, passes := c.cnt.passes + 1
              bcastPar := c.cnt.bcastPar + BitVec.ofNat 32 (bitCount parity) } }
        if last && x.out == 0 then endMma s n j q.2 (keepRun x q.2 j.parity (getC s n) (getC s n).cnt) else launchPass s n

def execPassComplete (c : Core) (parity : BitVec 4) (s : State) : Host.Outcome State Fault Refusal :=
  doneMem (if inService s c.val then wakeCore (passDone s c.val parity) c.val else s)

/-! ### Drains (R103 to R105, R119, R122) -/

/-- Physical faults of entries before the drain. -/
def applyFlip (b : Bank) : DrainFlip → Bank
  | .entry l r w => { b with acc := mapSet b.acc (256 * r.val + l.val) (mapGet b.acc (256 * r.val + l.val) 0 ^^^ w) }
  | .check g r w => { b with check := mapSet b.check (8 * r.val + g.val) (mapGet b.check (8 * r.val + g.val) 0 ^^^ w) }
  | .bound g r w => { b with bound := mapSet b.bound (8 * r.val + g.val) (mapGet b.bound (8 * r.val + g.val) 0 ^^^ w) }

/-- R103 to R105: the drain in progress completes. -/
def drainDone (s : State) (n : Nat) (flips : List DrainFlip) (tree : Option (Fin 128 × Fin 8)) : State :=
  match (getC s n).lr.find? (·.draining) with
  | none => s
  | some j =>
    let x := mmaOf j.iss.desc
    let b := flips.foldl applyFlip (getBank (getC s n) x.bank)
    endMma s n j b (drainRun x b j.parity tree (getC s n) (getC s n).cnt)

def execDrainComplete (c : Core) (flips : List DrainFlip) (treeFault : Option (Fin 128 × Fin 8)) (s : State) :
    Host.Outcome State Fault Refusal :=
  doneMem (if inService s c.val then wakeCore (drainDone s c.val flips treeFault) c.val else s)

/-! ### An MMA as a whole, for its rerun (R127) -/

/-- Every pass of an MMA from what its bank held when it began; none when an operand block fails its CRC. -/
def mmaWhole (c : PCore) (x : Mma) (start : Bank) : Option Bank :=
  (List.range x.passes).foldl (fun (b : Option Bank) p => b.bind fun b =>
    if aGood c x p && bGood c x p then
      let a := aSegments c x p
      some (addPass x (fillStat c x 0 p) a a b)
    else none) (some (beginBank x start))

end Sys2Proof.Machine
end

