-- ==== Sys2Proof/Machine/MatVec.lean ====
section
/-! DEFINITION. The matrix-vector unit (R110 to R113, R122, R123). -/

namespace Sys2Proof.Machine

/-- How the pair of an MV runs: the vector in A's place, the weights in B's. -/
def Mv.run (x : Mv) : PairRun := (pairRun x.xFmt x.wFmt).getD { seg := 1, int := false, bf16 := false, f32 := false }

/-- x_v[k]. -/
def xVal (c : PCore) (x : Mv) (v k : Nat) : Val :=
  if x.k ≤ k then zeroVal
  else operandVal x.run x.xFmt false (bitsAt c.stage (x.xAddr + v * x.xPitch) k (elemBits x.xFmt)) 127

/-- W[k, n]. -/
def wVal (c : PCore) (x : Mv) (k n : Nat) : Val :=
  if x.k ≤ k then zeroVal
  else
    let w := elemBits x.wFmt
    let e := if x.wT then bitsAt c.stage (x.wAddr + n * x.wPitch) k w else bitsAt c.stage (x.wAddr + k * x.wPitch) n w
    let sb := if x.wT then memGet c.stage (x.wScale + n * pad32 (mxBlocks x.k) + k / 32)
      else memGet c.stage (x.wScale + k / 32 * pad32 x.n + n)
    operandVal x.run x.wFmt x.wMxv e sb.toNat

/-- R112: y_v[n]: segment by segment in ascending K order. -/
def mvEntry (c : PCore) (x : Mv) (v n : Nat) : BitVec 32 :=
  (List.range ((x.k + x.run.seg - 1) / x.run.seg)).foldl (fun a sg =>
    let ks := (List.range x.run.seg).map (sg * x.run.seg + ·)
    accumulate x.run.int a (segProducts (ks.map (xVal c x v)) (ks.map fun k => wVal c x k n))) 0

/-- R90: the operands of an MV pass their CRCs. -/
def mvGood (c : PCore) (x : Mv) : Bool :=
  ((passRanges x.wT x.wAddr x.wPitch x.wFmt x.wScale x.n x.k 0 x.k) ++
    ((List.range x.v).map fun v => partBytes (x.xAddr + v * x.xPitch) 0 x.k (elemBits x.xFmt))).all fun r =>
      blocksGood c.stageBad r.1 r.2

/-- R111: outputs of an N tile. -/
def mvTile (x : Mv) : Nat := 2048 / x.v

/-- R104, R111: outputs `[lo, hi)` of y_v as they are written: element bytes, then scale bytes, padded at the end of a row. -/
def tileRow (x : Mv) (lo hi v : Nat) (l : List Val) : List (Nat × Bytes) × List Conv :=
  let q := convLine x.oFmt x.oMxv x.sat (l.map fun v => (v, none))
  let sb := mxScaleBase x.oAddr x.v (rowBytes x.oFmt x.n) x.oPitch
  let pad := if hi = x.n then List.replicate (pad32 (mxBlocks x.n) - mxBlocks x.n) 0 else []
  ((x.oAddr + v * x.oPitch + lo * elemBits x.oFmt / 8, q.1) ::
    (if isMx x.oFmt then [(sb + v * pad32 (mxBlocks x.n) + lo / 32, q.2.1 ++ pad)] else []), q.2.2)

/-- R111: the N tile that begins at output `lo`: its outputs are formed, then written to every y_v. -/
def storeTile (x : Mv) (q : Written) (lo : Nat) : Written :=
  if q.bad then q
  else
    let hi := min x.n (lo + mvTile x)
    let rows := (List.range x.v).map fun v => (v, (List.range (hi - lo)).map fun i => sumVal x.run.int (mvEntry q.c x v (lo + i)))
    rows.foldl (fun q r => q.put (tileRow x lo hi r.1 r.2)) q

/-- R111: the first `tiles` N tiles, one after the other. -/
def storeMv (x : Mv) (tiles : Nat) (c : PCore) : Written :=
  ((List.range tiles).map (· * mvTile x)).foldl (storeTile x) { c := c, convs := [], bad := false }

/-- R110: MACs per cycle of a pair. -/
def macRate (r : PairRun) : Nat := if 32 ≤ r.seg then 2048 else if r.seg = 16 then 1024 else 256

/-- R110: the cycles in which an MV performs MACs. -/
def macCycles (x : Mv) : Nat := (x.k * x.n * x.v + macRate x.run - 1) / macRate x.run

/-- R113, R126: issue of an MV. -/
def issueMv (s : State) (n i : Nat) : State :=
  match issuable s n i opMv with
  | none => s
  | some d =>
    match mvBad d with
      | some c => rejectDesc s n i d c
      | none =>
        let q := issueTo s n i d
        modC q.1 n fun c => { c with mv := c.mv ++ [q.2] }

def execMv (c : Core) (i : SlotNo) (s : State) : Host.Outcome State Fault Refusal := done (wakeCore (issueMv s c.val i.val) c.val)

/-- A word as the unit holds an operand. -/
def opWord (int : Bool) (v : Val) : BitVec 32 :=
  match int, v with
  | true, .num neg m _ => BitVec.ofInt 32 (signedMag neg m)
  | _, v => toF32 v

/-- R140: the failing element of an MV, then pairs of its first operands x_v[k] and W[k, n] (assumption log 124). -/
def mvCapture (c : PCore) (x : Mv) (f : BadElem) : Capture :=
  let v := f.elem / x.n
  let n := f.elem % x.n
  { Capture.input with
    cause := 3
    values := f.bits :: (List.range (min 15 x.k)).flatMap fun k => [opWord x.run.int (xVal c x v k), opWord x.run.int (wVal c x k n)] }

/-- R111, R113, R122, R123: a run of an MV on the slot whose counters are `k`. The N tiles before that of a failing element have
been written. -/
def mvRun (x : Mv) (fault : Option BadElem) (c : PCore) (k : CoreCounters) : RunEnd :=
  if !mvGood c x then { c := c, cnt := { k with mvCrc := k.mvCrc + 1 }, fail := some .input }
  else
    let bad := fault.filter fun f => decide (f.elem < x.v * x.n)
    let w := storeMv x ((bad.map fun f => f.elem % x.n / mvTile x).getD ((x.n + mvTile x - 1) / mvTile x)) c
    let k := countConv { k with macCyc := k.macCyc + BitVec.ofNat 64 (macCycles x) } w.convs
    if w.bad then { c := w.c, cnt := { k with mvCrc := k.mvCrc + 1 }, fail := some .input }
    else match bad with
      | some f => { c := w.c, cnt := { k with mvRes := k.mvRes + 1 }, fail := some (mvCapture w.c x f) }
      | none => { c := w.c, cnt := k, fail := none }

/-- R113, R123: the MV that runs completes, or is held for a replay. -/
def mvDone (s : State) (n : Nat) (fault : Option BadElem) : State :=
  match (getC s n).mv.head? with
  | none => s
  | some i =>
    let e := mvRun (mvOf i.desc) fault (getC s n) (getC s n).cnt
    let s := setC s n { e.c with cnt := e.cnt, mv := e.c.mv.filter fun q => q.id != i.id }
    match e.fail with
    | none => completeIssued s n i
    | some f => holdChecked s n (mkReplay s n i f)

def execMvComplete (c : Core) (fault : Option BadElem) (s : State) : Host.Outcome State Fault Refusal :=
  doneMem (if inService s c.val then wakeCore (mvDone s c.val fault) c.val else s)

end Sys2Proof.Machine
end

