-- ==== Sys2Proof/Machine/Special.lean ====
section
/-! DEFINITION. The special functions of the vector engine (R154, R155): what each approximates, to more than 2^-90 of its value or of
1, and the values that its error bound admits. Reals are integers over 2^160, or exact values of R58. -/

namespace Sys2Proof.Machine

/-- 1, as a fixed-point number. -/
def fixOne : Nat := 2 ^ 160

/-- A fixed-point number from an exact value. -/
def toFix : Val → Int
  | .num s m e => signedMag s (if -160 ≤ e then m * 2 ^ (e + 160).toNat else m / 2 ^ (-160 - e).toNat)
  | _ => 0

/-- An exact value from a fixed-point number. -/
def fixVal (i : Int) : Val := (intVal i).scale (-160)

/-- `t + t q / (d + 1) + ...`: the series whose term `i` is the one before it times `q`, over `step i`. -/
def fixSeries (q : Int) (step : Nat → Nat) : Nat → Nat → Int → Int
  | 0, _, _ => 0
  | n + 1, i, t => t + fixSeries q step n (i + 1) (t * q / fixOne / (step (i + 1) : Int))

/-- `z + z^3 / 3 + z^5 / 5 + ...`, or with alternating signs. -/
def oddSeries (z : Int) (alternate : Bool) : Int :=
  let q := z * z / fixOne
  ((List.range 100).foldl (fun (a : Int × Int) i => (a.1 + a.2 / ((2 * i + 1 : Nat) : Int), (if alternate then -1 else 1) * (a.2 * q / fixOne)))
    (0, z)).1

/-- The natural logarithm of 2. -/
def fixLn2 : Int := 2 * oddSeries (fixOne / 3) false

/-- Pi, by Machin's formula. -/
def fixPi : Int := 16 * oddSeries (fixOne / 5) true - 4 * oddSeries (fixOne / 239) true

/-- The square root of `a / b`, for `a / b` less than 2^80. -/
def fixRoot (a b : Nat) : Int := rootFloor 2 (a * 2 ^ 320 / b) 201 0

/-- `e^x`. -/
def expOf (x : Int) : Val :=
  let k := x / fixLn2
  (fixVal (fixSeries (x - k * fixLn2) id 60 0 fixOne)).scale k

/-- `2^x`. -/
def exp2Of (x : Int) : Val :=
  let k := x / fixOne
  (expOf ((x - k * fixOne) * fixLn2 / fixOne)).scale k

/-- `ln (m * 2^e)`. -/
def lnOf (m : Nat) (e : Int) : Int :=
  let l := if 2 ^ (2 * m.log2 + 1) < m * m then m.log2 + 1 else m.log2
  2 * oddSeries (((m : Int) - (2 ^ l : Nat)) * fixOne / ((m + 2 ^ l : Nat) : Int)) false + (e + l) * fixLn2

/-- The logistic function, 0 or 1 from 120 on. -/
def sigmoidOf (x : Val) : Int :=
  if x.lt (intVal (-120)) then 0
  else if (intVal 120).lt x then fixOne
  else fixOne * fixOne / (fixOne + toFix (expOf (-toFix x)))

/-- The normal distribution function, 0 or 1 from 8 on. -/
def normalOf (x : Val) : Int :=
  if x.lt (intVal (-8)) then 0
  else if (intVal 8).lt x then fixOne
  else
    let z := toFix x
    let q := z * z / fixOne / 2
    let sum := ((List.range 250).foldl (fun (a : Int × Int) i =>
      (a.1 + a.2 / ((2 * i + 1 : Nat) : Int), -(a.2 * q / fixOne) / ((i + 1 : Nat) : Int))) (0, (fixOne : Int))).1
    fixOne / 2 + z * sum / fixOne * fixRoot fixOne (2 * fixPi).toNat / fixOne

/-- The inner argument of the tanh form of GELU, doubled: 2 sqrt(2 / pi) (x + 0.044715 x^3). -/
def geluInner (x : Val) : Val :=
  ((x.add ((x.mul (x.mul x)).mul (fixVal (44715 * fixOne / 1000000)))).mul (fixVal (fixRoot (2 * fixOne) fixPi.toNat))).scale 1

/-- R154: what special function `op` approximates at a finite argument that has no stated result. -/
def specialRef (op : Nat) (x : Val) : Val :=
  match op, x with
  | 0x20, x => expOf (toFix x)
  | 0x21, x => exp2Of (toFix x)
  | 0x22, .num s m e => .num s (2 ^ 200 / m) (-200 - e)
  | 0x23, .num _ m e =>
    let m' := if e % 2 = 0 then m else 2 * m
    let e' := if e % 2 = 0 then e else e - 1
    .num false (rootFloor 2 (2 ^ 400 / m') 201 0) (-200 - e' / 2)
  | 0x24, .num _ m e => fixVal (lnOf m e)
  | 0x25, .num _ m e => fixVal (lnOf m e * fixOne / fixLn2)
  | 0x26, x => fixVal (sigmoidOf x)
  | 0x27, x => fixVal (2 * sigmoidOf (x.scale 1) - fixOne)
  | 0x28, x => x.mul (fixVal (sigmoidOf x))
  | 0x29, x => x.mul (fixVal (sigmoidOf (geluInner x)))
  | 0x2A, x => x.mul (fixVal (normalOf x))
  | _, x => x

/-- An ulp of an FP32 result. -/
def ulpOf (y : BitVec 32) : Val := .num false 1 (max 1 (field y.toNat 23 8) - 150 : Int)

/-- R154: the error that special function `op` is allowed at `x` beside the correctly rounded result `y`. -/
def specialBound (op : Nat) (x : Val) (y : BitVec 32) : Val :=
  let u := fun (n : Nat) => (ulpOf y).mul (intVal n)
  let abs := fun (e : Int) => Val.num false 1 e
  let most := fun (a b : Val) => if a.lt b then b else a
  match op with
  | 0x20 => if field y.toNat 23 8 = 0 then abs (-149) else u 2
  | 0x21 | 0x22 => u 1
  | 0x23 => u 2
  | 0x24 | 0x25 => if x.lt (.num false 1 (-1)) || (intVal 2).lt x then u 2 else abs (-22)
  | 0x26 | 0x27 => abs (-22)
  | 0x28 => most (u 4) (abs (-24))
  | 0x29 => most (u 4) (abs (-22))
  | _ => most (u 8) (abs (-22))

/-- R154: an FP32 result lies within the bound; a result that overflows is infinite. -/
def specialAdmits (op : Nat) (x : Val) (y : BitVec 32) : Bool :=
  let r := specialRef op x
  let best := toF32 r
  match f32 y, f32 best with
  | v, .num _ _ _ => v.isFinite && !(specialBound op x best).lt (v.add r.neg).abs
  | _, _ => y == best

/-- R154, R155: the fixed mapping of special function `op` at a finite argument: an open value of those within the bound. -/
def specialAt (op : Nat) (x : BitVec 32) : BitVec 32 :=
  let y := Config.special (BitVec.ofNat 8 op) x
  if specialAdmits op (f32 x) y then y else toF32 (specialRef op (f32 x))

end Sys2Proof.Machine
end

