-- ==== Sys2Proof/Machine/VecOps.lean ====
section
/-! DEFINITION. The vector engine's arithmetic: tensor records and how they are walked (R145, R147, R148), the operations
(R151, R152), reductions (R153), special functions (R154, R155), index operations (R162) and output lines (R156). -/

namespace Sys2Proof.Machine

/-! ### Walking a tensor (R145, R147) -/

/-- Elements of a tensor. -/
def TRec.count (r : TRec) : Nat := r.ext.foldl (· * ·) 1
/-- Extent of a dimension. -/
def TRec.dim (r : TRec) (d : Nat) : Nat := r.ext.getD d 1
/-- Stride of a dimension. -/
def TRec.stride (r : TRec) (d : Nat) : Int := r.str.getD d 0
/-- Bits of an element. -/
def TRec.bits (r : TRec) : Nat := elemBits r.fmt
/-- A sub-byte format: dimension 0 is packed. -/
def TRec.packed (r : TRec) : Bool := decide (r.bits < 8)

/-- The index of a position in row-major order, dimension 0 first. -/
def unravel : List Nat → Nat → List Nat
  | [], _ => []
  | e :: t, i => i % e :: unravel t (i / e)

/-- The position of an index in row-major order. -/
def ravel : List Nat → List Nat → Nat
  | e :: t, i :: u => i + e * ravel t u
  | _, _ => 0

/-- Every index of an extent, in row-major order. -/
def indices (ext : List Nat) : List (List Nat) := (List.range (ext.foldl (· * ·) 1)).map (unravel ext)

/-- Address of the line of dimension 0 that holds an index. -/
def TRec.lineAddr (r : TRec) (hi : List Nat) : Int :=
  ((r.str.drop 1).zip hi).foldl (fun a p => a + p.1 * p.2) (r.base : Int)

/-- First byte of an element, and its first bit in it. -/
def TRec.place (r : TRec) (ix : List Nat) : Nat × Nat :=
  let i := ix.headD 0
  let l := r.lineAddr (ix.drop 1)
  if r.packed then ((l + (i * r.bits / 8 : Nat)).toNat, i * r.bits % 8) else ((l + r.stride 0 * i).toNat, 0)

/-- Bytes that hold a bit of an element at a place. -/
def TRec.width (r : TRec) (p : Nat × Nat) : Nat := (p.2 + r.bits + 7) / 8

/-- Address of the scale byte of an element. -/
def TRec.scaleAt (r : TRec) (ix : List Nat) : Nat :=
  r.sbase + r.spitch * ravel (r.ext.drop 1) (ix.drop 1) + ix.headD 0 / 32

/-- R62, R150: the 256-byte blocks that hold some bit of these elements or of their scales. -/
def TRec.blocks (r : TRec) (ixs : List (List Nat)) : List Nat :=
  (ixs.flatMap fun ix =>
    let p := r.place ix
    p.1 / 256 :: (p.1 + r.width p - 1) / 256 :: (if isMx r.fmt then [r.scaleAt ix / 256] else [])).eraseDups

/-! ### Values (R152) -/

/-- What a source reads from: bytes, or a bank. -/
structure View where
  mem  : Memory
  bank : Bank

/-- The exact value of an element. A bank record names its first column and row in BASE (R157). -/
def TRec.val (r : TRec) (v : View) (ix : List Nat) : Val :=
  if r.loc = 2 then entryVal v.bank (field r.base 9 7 + ix.getD 1 0) (field r.base 1 8 + ix.headD 0)
  else
    let p := r.place ix
    let x := decodeElem r.fmt r.mxv (leNat (memRead v.mem p.1 (r.width p)) / 2 ^ p.2 % 2 ^ r.bits)
    if isMx r.fmt then scaled x (memGet v.mem (r.scaleAt ix)).toNat else x

/-- The integer an integer element holds. -/
def intOf : Val → Int
  | .num neg m _ => signedMag neg m
  | _ => 0

/-- An element as the engine computes on it: INT32, or widened to FP32. -/
def wordOf (int : Bool) (v : Val) : BitVec 32 := if int then BitVec.ofInt 32 (intOf v) else toF32 v

/-- The operations that run in INT32 on integer sources. -/
def intOps : List Nat := [0x01, 0x02, 0x03, 0x05, 0x06, 0x07, 0x08, 0x30, 0x31, 0x32, 0x37, 0x40, 0x41]

/-- R152: the arithmetic of an operation on these sources. -/
def vecInt (op : Nat) (srcs : List TRec) : Bool :=
  intOps.contains op && srcs.all fun r => r.fmt == 8 || r.fmt == 9 || r.fmt == 10

/-! ### Element operations (R151, R152) -/

/-- An FP32 word with its sign changed; a NaN is canonical. -/
def fneg (a : BitVec 32) : BitVec 32 := toF32 (f32 a).neg
def fabs (a : BitVec 32) : BitVec 32 := toF32 (f32 a).abs
def isNan (a : BitVec 32) : Bool := f32 a == .nan

/-- Minimum or maximum. -/
def pick (int max : Bool) (a b : BitVec 32) : BitVec 32 :=
  if int then (if decide (a.toInt < b.toInt) == max then b else a)
  else if isNan a || isNan b then toF32 .nan
  else if (f32 a).lt (f32 b) then (if max then b else a)
  else if (f32 b).lt (f32 a) then (if max then a else b)
  else if a = b then a
  else toF32 (.num (Config.zeroSign max a b) 0 0)

def vadd (int : Bool) (a b : BitVec 32) : BitVec 32 := if int then a + b else fadd a b
def vneg (int : Bool) (a : BitVec 32) : BitVec 32 := if int then -a else fneg a
def vabs (int : Bool) (a : BitVec 32) : BitVec 32 := if int then (if a.toInt < 0 then -a else a) else fabs a

/-- R151: the predicate of a CMP. -/
def cmpHolds (int : Bool) (pred : Nat) (a b : BitVec 32) : Bool :=
  let lt := fun (p q : BitVec 32) => if int then decide (p.toInt < q.toInt) else (f32 p).lt (f32 q)
  let eq := if int then a == b else (f32 a).eqv (f32 b)
  match pred with
  | 0 => eq
  | 1 => !eq
  | 2 => lt a b
  | 3 => lt a b || eq
  | 4 => lt b a
  | 5 => lt b a || eq
  | _ => !int && (isNan a || isNan b)

/-- A finite FP32 value, or an infinity, against a decimal fraction of 10^5. -/
def above5 (x : Val) (t : Int) : Bool := (intVal t).lt (x.mul (intVal 100000))
def below5 (x : Val) (t : Int) : Bool := (x.mul (intVal 100000)).lt (intVal t)

/-- R154: the arguments whose result is stated. -/
def specialArg (op : Nat) (x : Val) : Option Val :=
  let zero := Val.num false 0 0
  match x with
  | .nan => some .nan
  | _ =>
    match op with
    | 0x20 => if above5 x 8872283 then some (.inf false) else if below5 x (-10397208) then some zero else none
    | 0x21 => if !x.lt (intVal 128) then some (.inf false) else if x.lt (intVal (-150)) then some zero else none
    | 0x22 => match x with
      | .inf s => some (.num s 0 0)
      | .num s m _ => if m = 0 then some (.inf s) else none
      | .nan => none
    | 0x23 =>
      if x.lt zero then some .nan
      else match x with
        | .inf _ => some zero
        | .num s m _ => if m = 0 then some (.inf s) else none
        | .nan => none
    | 0x24 | 0x25 => if x.lt zero then some .nan else if x.isZero then some (.inf true) else if x.isFinite then none else some x
    | 0x26 => match x with
      | .inf s => some (if s then zero else intVal 1)
      | _ => none
    | 0x27 => match x with
      | .inf s => some (if s then intVal (-1) else intVal 1)
      | _ => none
    | _ => match x with
      | .inf s => some (if s then .num true 0 0 else .inf false)
      | _ => none

/-- R154, R155: a special function of an FP32 argument. -/
def specialFn (op : Nat) (x : BitVec 32) : BitVec 32 :=
  match specialArg op (f32 x) with
  | some v => toF32 v
  | none => specialAt op x

def isSpecial (op : Nat) : Bool := decide (0x20 ≤ op) && decide (op ≤ 0x2A)

/-- An element of y from the elements of the sources at its index: a, b and c (b is 0 when REC_1 is none). -/
def elemWord (x : Vec) (int : Bool) (a : BitVec 32) (b : Option (BitVec 32)) (c : BitVec 32) : BitVec 32 :=
  let q := b.getD 0
  match x.op with
  | 0x01 => vadd int a q
  | 0x02 => if int then a - q else fadd a (fneg q)
  | 0x03 => if int then a * q else fmul a q
  | 0x04 => ffma a q c
  | 0x05 => pick int false a q
  | 0x06 => pick int true a q
  | 0x07 => vabs int a
  | 0x08 => vneg int a
  | 0x09 => ffma x.imm0 a x.imm1
  | 0x40 => if cmpHolds int (x.imm1.toNat % 8) a q then 1 else 0
  | 0x41 => if a != 0 then q else c
  | op => if isSpecial op then specialFn op (ffma x.imm0 a (fneg q)) else a

/-! ### Reductions (R153) -/

/-- One level of the lane tree. -/
def pairUp (f : BitVec 32 → BitVec 32 → BitVec 32) : List (BitVec 32) → List (BitVec 32)
  | a :: b :: t => f a b :: pairUp f t
  | l => l

/-- The lane tree over at most 2^n lanes. -/
def laneTree (f : BitVec 32 → BitVec 32 → BitVec 32) : Nat → List (BitVec 32) → BitVec 32
  | 0, l => l.headD 0
  | n + 1, l => laneTree f n (pairUp f l)

/-- In ascending order. -/
def fold1 (f : BitVec 32 → BitVec 32 → BitVec 32) : List (BitVec 32) → BitVec 32
  | [] => 0
  | a :: t => t.foldl f a

/-- Along dimension 0: the tree in each group of 64, then the groups in order. -/
def lineFold (f : BitVec 32 → BitVec 32 → BitVec 32) (l : List (BitVec 32)) : BitVec 32 :=
  fold1 f ((groupsOf 64 (l.length / 64 + 1) l).map (laneTree f 6))

/-- How a reduction combines. -/
def redOp (int : Bool) (op : Nat) : BitVec 32 → BitVec 32 → BitVec 32 :=
  match op with
  | 0x31 => pick int true
  | 0x32 => pick int false
  | 0x33 => pick int true
  | _ => vadd int

/-- What a reduction takes of each element. -/
def redArg (op : Nat) (a : BitVec 32) : BitVec 32 :=
  match op with
  | 0x33 => fabs a
  | 0x34 => fmul a a
  | _ => a

/-- The elements of y of a reduction over the dimensions `red`, at an index of y. -/
def reduceAt (op : Nat) (int : Bool) (ext : List Nat) (red : Nat) (rd : List Nat → BitVec 32) (ix : List Nat) : BitVec 32 :=
  let f := redOp int op
  let isRed := fun (d : Nat) => red / 2 ^ d % 2 == 1
  let hiExt := (List.range 4).map fun d => if isRed (d + 1) then ext.getD (d + 1) 1 else 1
  let his := (indices hiExt).map fun h => (h.zip (ix.drop 1)).map fun p => p.1 + p.2
  fold1 f (his.map fun hi =>
    if isRed 0 then lineFold f ((List.range (ext.getD 0 1)).map fun i => redArg op (rd (i :: hi)))
    else redArg op (rd (ix.headD 0 :: hi)))

/-- SCAN: the running sums of a line. -/
def scanLine (int : Bool) : Option (BitVec 32) → List (BitVec 32) → List (BitVec 32)
  | _, [] => []
  | none, a :: t => a :: scanLine int (some a) t
  | some s, a :: t => vadd int s a :: scanLine int (some (vadd int s a)) t

/-- R151: `a` ranks above `b`: a NaN above +infinity. -/
def ranksAbove (a b : BitVec 32) : Bool := if isNan b then false else if isNan a then true else (f32 b).lt (f32 a)

/-- Insert an element, with its index, below every element that does not rank below it. -/
def insertRanked (p : BitVec 32 × Nat) : List (BitVec 32 × Nat) → List (BitVec 32 × Nat)
  | [] => [p]
  | q :: t => if ranksAbove p.1 q.1 then p :: q :: t else q :: insertRanked p t

/-- A line in descending order, lower index first on ties. -/
def rankLine (l : List (BitVec 32)) : List (BitVec 32 × Nat) :=
  (l.zip (List.range l.length)).foldl (fun a p => insertRanked p a) []

/-! ### Sources of an operation at an index -/

/-- What an operation reads: its descriptor, the records, exact values of source `k` at an index (3 is y), integers of b. -/
structure VecIn where
  x    : Vec
  y    : TRec
  a    : TRec
  b    : Option TRec
  c    : Option TRec

/-- R162: the row that an index element names, when it is in the table. -/
def rowIn (rows : Nat) (i : Int) : Option Nat := if 0 ≤ i ∧ i < rows then some i.toNat else none

def needsB (op : Nat) : Bool :=
  [0x01, 0x02, 0x03, 0x04, 0x05, 0x06, 0x40, 0x41, 0x50, 0x60, 0x61, 0x62, 0x63].contains op
/-- REC_2 names a third source. -/
def needsC (op : Nat) : Bool := op == 0x04 || op == 0x41
/-- REC_2 names a second destination. -/
def needsD2 (op : Nat) : Bool := op == 0x36 || op == 0x70
def isScatter (op : Nat) : Bool := op == 0x62 || op == 0x63

/-- R147: the record whose lines the engine walks: that of the source in reductions and scatters, else of y. -/
def VecIn.walked (v : VecIn) : TRec :=
  if (decide (0x30 ≤ v.x.op) && decide (v.x.op ≤ 0x37)) || isScatter v.x.op || v.x.op == 0x70 then v.a else v.y

/-- The index of b that goes with a walked index. -/
def VecIn.bIx (v : VecIn) (ix : List Nat) : List Nat :=
  match v.x.op with
  | 0x50 => [ix.headD 0 % 64, 0, 0, 0, 0]
  | 0x60 | 0x62 | 0x63 => ix.drop 1 ++ [0]
  | _ => ix

/-- The index of a that goes with a walked index, given the element of b there. -/
def VecIn.aIx (v : VecIn) (bi : List Nat → Int) (ix : List Nat) : Option (List Nat) :=
  match v.x.op with
  | 0x51 => some (ix.getD 1 0 :: ix.headD 0 :: ix.drop 2)
  | 0x60 => (rowIn (v.a.dim 1) (bi (v.bIx ix))).map fun r => [ix.headD 0, r, 0, 0, 0]
  | 0x61 => (rowIn (v.a.dim 0) (bi ix)).map fun r => [r, 0, 0, 0, 0]
  | _ => some ix

/-- The index of y that a scatter writes for a walked index. -/
def VecIn.yIx (v : VecIn) (bi : List Nat → Int) (ix : List Nat) : Option (List Nat) :=
  (rowIn (v.y.dim 1) (bi (v.bIx ix))).map fun r => [ix.headD 0, r, 0, 0, 0]

/-! ### Results -/

/-- What an operation other than a scatter gives: the elements of y and of the second destination, in row-major order,
whether each is INT32, and the out-of-range indices. -/
structure VecOut where
  ys   : List (BitVec 32)
  yInt : Bool
  zs   : List (BitVec 32)
  zInt : Bool
  oob  : Nat

def VecOut.plain (int : Bool) (ys : List (BitVec 32)) : VecOut := { ys := ys, yInt := int, zs := [], zInt := false, oob := 0 }

/-- Indices of the lines of an extent. -/
def lineIx (ext : List Nat) : List (List Nat) := indices (ext.drop 1)

/-- The elements of a line. -/
def lineOf (ext : List Nat) (rd : List Nat → BitVec 32) (hi : List Nat) : List (BitVec 32) :=
  (List.range (ext.headD 1)).map fun i => rd (i :: hi)

/-- R151: lane `ix` of a PERM: the lane of its group that the index names; what another index takes is open. -/
def permLane (v : VecIn) (ra : List Nat → BitVec 32) (bi : List Nat → Int) (ix : List Nat) : BitVec 32 :=
  let i := ix.headD 0
  let base := i / 64 * 64
  let lanes := min 64 (v.a.dim 0 - base)
  match rowIn lanes (bi (v.bIx ix)) with
  | some j => ra ((base + j) :: ix.drop 1)
  | none => Config.permOpen ((List.range lanes).map fun j => ra ((base + j) :: ix.drop 1)) (BitVec.ofInt 32 (bi (v.bIx ix))) (i % 64)

/-- R151, R153, R162: the result of an operation. `ra`, `rb`, `rc`: words of the sources; `bi`: integers of b. -/
def vecResult (v : VecIn) (int : Bool) (ra rb rc : List Nat → BitVec 32) (bi : List Nat → Int) : VecOut :=
  let op := v.x.op
  let ixs := indices v.y.ext
  let aLines := lineIx v.a.ext
  match op with
  | 0x30 | 0x31 | 0x32 | 0x33 | 0x34 => .plain int (ixs.map (reduceAt op int v.a.ext v.x.red ra))
  | 0x35 => .plain true (aLines.map fun hi => BitVec.ofNat 32 (((rankLine (lineOf v.a.ext ra hi)).map (·.2)).headD 0))
  | 0x36 =>
    let tops := aLines.map fun hi => (rankLine (lineOf v.a.ext ra hi)).take (v.y.dim 0)
    { ys := tops.flatMap fun l => l.map (·.1), yInt := false, zs := tops.flatMap fun l => l.map fun p => BitVec.ofNat 32 p.2
      zInt := true, oob := 0 }
  | 0x37 => .plain int (aLines.flatMap fun hi => scanLine int none (lineOf v.a.ext ra hi))
  | 0x50 => .plain int (ixs.map (permLane v ra bi))
  | 0x51 => .plain int (ixs.map fun ix => ra (ix.getD 1 0 :: ix.headD 0 :: ix.drop 2))
  | 0x60 | 0x61 =>
    { ys := ixs.map fun ix => ((v.aIx bi ix).map ra).getD 0, yInt := int, zs := [], zInt := false
      oob := ((indices ((v.b.map (·.ext)).getD [])).filter fun q =>
        (rowIn (if op = 0x60 then v.a.dim 1 else v.a.dim 0) (bi q)).isNone).length }
  | 0x70 =>
    let found := aLines.map fun hi =>
      ((List.range (v.a.dim 0)).filter fun i => ra (i :: hi) != 0).map (BitVec.ofNat 32)
    { ys := found.flatMap fun l => l ++ List.replicate (v.a.dim 0 - l.length) 0xFFFFFFFF, yInt := true
      zs := found.map fun l => BitVec.ofNat 32 l.length, zInt := true, oob := 0 }
  | _ =>
    let ys := ixs.map fun ix => elemWord v.x int (ra ix) (v.b.map fun _ => rb ix) (rc ix)
    let yInt := int || op == 0x40
    if isSpecial op && v.c.isSome then
      let n := v.y.dim 0
      { ys := ys, yInt := yInt, zs := (groupsOf n (ys.length / n + 1) ys).map (lineFold fadd), zInt := false, oob := 0 }
    else .plain yInt ys

/-! ### Output lines (R73 to R77, R79, R80, R156) -/

/-- R76: the rounding of element `idx` of y. -/
def srRound (x : Vec) (seed : BitVec 64) (idx : Nat) : Rounding := if x.sr then some (randomWord seed x.srStream idx) else none

/-- Where the bytes of line `l` go, element by element, or as one packed line. -/
def lineRuns (r : TRec) (l : Nat) (d : Bytes) : List (Nat × Bytes) :=
  let a := r.lineAddr (unravel (r.ext.drop 1) l)
  if r.packed then [(a.toNat, d)]
  else
    let w := r.bits / 8
    (List.range (r.dim 0)).map fun (i : Nat) => ((a + r.stride 0 * (i : Int)).toNat, slice d (i * w) w)

/-- The bytes of a line of a tensor, its scale bytes and its conversions. -/
def vecLine (r : TRec) (sat : Bool) (l : List (Val × Rounding)) : Bytes × Bytes × List Conv := convLine r.fmt r.mxv sat l

/-- Join pieces that follow each other. -/
def joinRuns (l : List (Nat × Bytes)) : List (Nat × Bytes) :=
  l.foldr (fun p acc => match acc with
    | [] => [p]
    | q :: t => if p.1 + p.2.length = q.1 then (p.1, p.2 ++ q.2) :: t else p :: q :: t) []

/-- The writes of whole lines of a tensor: elements, then scales. -/
def tensorRuns (r : TRec) (ls : List (Nat × Bytes × Bytes)) : List (Nat × Bytes) :=
  joinRuns (ls.flatMap fun l => lineRuns r l.1 l.2.1) ++
  (if isMx r.fmt then joinRuns (ls.map fun l => (r.sbase + r.spitch * l.1, l.2.2)) else [])

/-- The lines of a whole tensor from its words, with the conversions made. -/
def allLines (r : TRec) (sat int : Bool) (rnd : Nat → Rounding) (ws : List (BitVec 32)) :
    List (Nat × Bytes × Bytes) × List Conv :=
  let n := r.dim 0
  let ls := groupsOf n (ws.length / n + 1) ((ws.zip (List.range ws.length)).map fun p => (sumVal int p.1, rnd p.2))
  let cs := ls.map (vecLine r sat)
  (((List.range cs.length).zip cs).map fun p => (p.1, p.2.1, p.2.2.1), cs.flatMap (·.2.2))

/-! ### Scatters (R162) -/

/-- A scatter as far as it has gone: the rows written, in the table's format; conversions; out-of-range indices. -/
structure ScatOut where
  rows  : AMap (Bytes × Bytes)
  convs : List Conv
  oob   : Nat

/-- R162: the rows of `a`, in ascending order, written or added into the rows of the table. `ya`: exact values of the table. -/
def scatterRows (v : VecIn) (seed : BitVec 64) (ra : List Nat → BitVec 32) (bi : List Nat → Int) (ya : List Nat → Val) : ScatOut :=
  let n := v.y.dim 0
  let w := v.y.bits
  (indices ((v.b.map (·.ext)).getD [])).foldl (fun (o : ScatOut) q =>
    match rowIn (v.y.dim 1) (bi q) with
    | none => { o with oob := o.oob + 1 }
    | some j =>
      let row := (List.range n).map fun i => ra (i :: q.take 4)
      let old := fun (i : Nat) => match mapGet? o.rows j with
        | some d => decodeElem v.y.fmt v.y.mxv (leNat (slice d.1 (i * w / 8) (w / 8)))
        | none => ya [i, j, 0, 0, 0]
      let l := (row.zip (List.range n)).map fun p =>
        if v.x.op = 0x63 then (f32 (fadd (toF32 (old p.2)) p.1), none) else (f32 p.1, srRound v.x seed (p.2 + n * j))
      let c := vecLine v.y v.x.sat l
      { rows := mapSet o.rows j (c.1, c.2.1), convs := o.convs ++ c.2.2, oob := o.oob }) { rows := [], convs := [], oob := 0 }

/-! ### Operation groups (R147) -/

/-- An operand is dense across the boundary above dimension `d`. -/
def denseAbove (r : TRec) (d : Nat) : Bool :=
  if r.loc = 2 then false
  else if r.packed ∧ d = 0 then r.stride 1 * 8 == (r.dim 0 * r.bits : Nat)
  else r.stride (d + 1) == r.stride d * (r.dim d : Nat)

/-- Merging is permitted: an element-wise, conversion or special-function operation, no MX operand. -/
def mergeable (op : Nat) (rs : List TRec) : Bool :=
  (decide (op ≤ 0x10) || isSpecial op || op == 0x40 || op == 0x41) && rs.all fun r => !isMx r.fmt

/-- The extent of a line after merging. -/
def lineExt (op : Nat) (rs : List TRec) (r : TRec) : Nat :=
  if !mergeable op rs then r.dim 0
  else
    ((List.range 4).foldl (fun (q : Nat × Bool) d =>
      if q.2 && rs.all fun t => denseAbove t d then (q.1 * r.dim (d + 1), true) else (q.1, false)) (r.dim 0, true)).1

/-- The walked indices of each operation group. -/
def opGroups (op : Nat) (rs : List TRec) (r : TRec) : List (List (List Nat)) :=
  let n := lineExt op rs r
  (groupsOf n (r.count / n + 1) (indices r.ext)).flatMap fun l => groupsOf 64 (l.length / 64 + 1) l

end Sys2Proof.Machine
end

