-- ==== Sys2Proof/Machine/Vector.lean ====
section
/-! DEFINITION. The vector engine: issue of a VEC, its gathers, its completion (R141 to R150, R156 to R165). -/

namespace Sys2Proof.Machine

/-! ### Records (R144 to R146) -/

/-- The record addresses an operation uses: y, a, b, c or the second destination. -/
def recAddrs (x : Vec) : List (Option Nat) :=
  let opt := fun (need : Bool) (r : Nat) => if need || (isSpecial x.op && r != recNone) then some r else none
  [some x.recD, some x.rec0, opt (needsB x.op) x.rec1, opt (needsC x.op || needsD2 x.op) x.rec2]

/-- The 64 bytes of a record. -/
def recBytes (c : PCore) (r : Nat) : Bytes := memRead c.stage (32 * r) 64

/-- A record can be read: it is named, even, inside the buffer, and passes its CRC. -/
def recReadable (c : PCore) (r : Nat) : Bool :=
  r != recNone && r % 2 == 0 && blocksGood c.stageBad (32 * r) (32 * r + 64)

/-- A reserved bit of a record is set. -/
def recReserved (b : Bytes) : Bool := field (leNat b) 7 1 != 0 || field (leNat b) 11 5 != 0 || field (leNat b) 500 12 != 0

/-- The records of a VEC: y, a, b, c. -/
def recsOf (c : PCore) (x : Vec) : List (Option TRec) :=
  (recAddrs x).map fun r => r.bind fun r => if recReadable c r then trecOf (recBytes c r) else none

/-- The inputs of a VEC from its records. -/
def vecIn (x : Vec) (recs : List (Option TRec)) : Option VecIn :=
  match recs.getD 0 none, recs.getD 1 none with
  | some y, some a => some { x := x, y := y, a := a, b := recs.getD 2 none, c := recs.getD 3 none }
  | _, _ => none

/-- The sources: a, then b, then c where REC_2 names one. -/
def VecIn.sources (v : VecIn) : List TRec := v.a :: v.b.toList ++ (if needsC v.x.op then v.c.toList else [])
/-- The destinations. -/
def VecIn.dests (v : VecIn) : List TRec := v.y :: (if needsC v.x.op then [] else v.c.toList)

/-! ### Checks (R146, R148, R149, R157, R158) -/

/-- Lowest byte, and one past the highest, of the elements of a record. -/
def TRec.lo (r : TRec) : Int :=
  ((r.ext.zip r.str).drop (if r.packed then 1 else 0)).foldl (fun a p => a + min 0 (((p.1 : Int) - 1) * p.2)) (r.base : Int)
def TRec.hi (r : TRec) : Int :=
  ((r.ext.zip r.str).drop (if r.packed then 1 else 0)).foldl (fun a p => a + max 0 (((p.1 : Int) - 1) * p.2)) (r.base : Int) +
    (if r.packed then rowBytes r.fmt (r.dim 0) else r.bits / 8 : Nat)

/-- One past the highest byte of the scale tensor. -/
def TRec.scaleEnd (r : TRec) : Nat := r.sbase + (r.count / r.dim 0 - 1) * r.spitch + mxBlocks (r.dim 0)

/-- Size of a location of a record. -/
def recSpace (loc : Nat) : Nat := if loc = 0 then stageBytes else if loc = 1 then cacheBytes else 2 ^ 48

/-- R146: an address outside the region, or outside the location. -/
def outOfBounds (r : TRec) : Bool :=
  r.loc != 2 && (decide (r.lo < r.regLo) || decide ((r.regHi : Int) < r.hi) || decide (r.lo < 0) ||
    decide ((recSpace r.loc : Int) < r.hi) || (isMx r.fmt && decide (recSpace r.loc < r.scaleEnd)))

/-- R148: some byte is touched twice, of the elements or of the scale lines. -/
def touchesTwice (r : TRec) : Bool :=
  (isMx r.fmt && decide (r.dim 0 < r.count) && decide (r.spitch < mxBlocks (r.dim 0))) ||
  ((List.range 5).foldl (fun (q : Bool × Int) d =>
    if d = 0 ∧ r.packed then (q.1, (rowBytes r.fmt (r.dim 0) : Nat))
    else
      let st : Int := (r.stride d).natAbs
      (q.1 || (decide (1 < r.dim d) && decide (st < q.2)), q.2 + ((r.dim d : Int) - 1) * st)) (false, (r.bits / 8 : Nat))).1

/-- R149: identical tensors, for an in-place operation. -/
def sameTensor (p q : TRec) : Bool :=
  p.loc == q.loc && p.base == q.base && p.bits == q.bits && p.ext == q.ext && p.str == q.str

/-- R149: a forbidden overlap of a destination with a source. -/
def overlapBad (d r : TRec) : Bool :=
  d.loc == r.loc && !sameTensor d r && decide (d.lo < r.hi) && decide (r.lo < d.hi)

/-- The bank a record names. -/
def TRec.bankNo (r : TRec) : Nat := r.base % 2

/-- R157: what a bank record must meet on its own bits. -/
def bankBitsBad (r : TRec) : Bool :=
  r.loc == 2 && (decide (2 ^ 16 ≤ r.base) || r.ndim != 2 || r.str.any (· != 0) || !(r.fmt == 0 || r.fmt == 10))

/-- R157: what it must meet against a HELD bank: its format and its window. -/
def bankRecBad (c : PCore) (r : TRec) : Bool :=
  let b := getBank c r.bankNo
  r.loc == 2 && b.st == .held && (r.fmt != (if b.int then 10 else 0) ||
    decide (b.n < field r.base 1 8 + r.dim 0) || decide (b.m < field r.base 9 7 + r.dim 1))

/-- R157, R158: the bank is not HELD, or a releasing VEC names it already. -/
def bankStateBad (c : PCore) (r : TRec) : Bool :=
  r.loc == 2 && ((getBank c r.bankNo).st != .held || (getBank c r.bankNo).relIssued)

/-- R145, R57: what is wrong with a record on its own. -/
def recBad (r : TRec) : Bool :=
  !mxvOk r.fmt r.mxv || decide (2 ^ 48 < r.count) || (r.packed && r.loc != 2 && r.stride 0 != 0)

/-- Extents that agree but for those of dimension 0. -/
def sameHi (p q : TRec) : Bool := p.ext.drop 1 == q.ext.drop 1

/-- R148, R151, R162: the extents do not fit the operation. -/
def shapeBad (v : VecIn) : Bool :=
  let op := v.x.op
  let bx := (v.b.map (·.ext)).getD []
  match op with
  | 0x30 | 0x31 | 0x32 | 0x33 | 0x34 =>
    (List.range 5).any fun d => if v.x.red / 2 ^ d % 2 = 1 then v.y.dim d != 1 || decide (v.a.ndim ≤ d) else v.y.dim d != v.a.dim d
  | 0x35 => v.y.dim 0 != 1 || !sameHi v.y v.a
  | 0x36 =>
    let k := v.x.imm1.toNat
    k == 0 || decide (8 < k) || decide (v.a.dim 0 < k) || v.y.dim 0 != k || !sameHi v.y v.a || (v.c.map (·.ext)) != some v.y.ext
  | 0x50 => v.y.ext != v.a.ext || bx != [64, 1, 1, 1, 1]
  | 0x51 => v.y.ext != v.a.dim 1 :: v.a.dim 0 :: v.a.ext.drop 2
  | 0x60 => v.a.ext.drop 2 != [1, 1, 1] || v.y.dim 0 != v.a.dim 0 || v.y.ext.drop 1 ++ [1] != bx
  | 0x61 => v.a.ndim != 1 || v.y.ext != bx
  | 0x62 | 0x63 => v.y.ext.drop 2 != [1, 1, 1] || v.y.dim 0 != v.a.dim 0 || v.a.ext.drop 1 ++ [1] != bx
  | 0x70 => v.y.ext != v.a.ext || (v.c.map (·.dim 0)) != some 1 || !((v.c.map (sameHi v.y)).getD false)
  | _ => v.sources.any (fun r => r.ext != v.y.ext) ||
      (isSpecial op && match v.c with
        | some z => z.dim 0 != 1 || !sameHi z v.y
        | none => false)

/-- R75, R151, R156, R162: a format that the operation does not permit. -/
def formatBad (v : VecIn) : Bool :=
  let op := v.x.op
  let bInt := (v.b.map (·.fmt)) != some 10
  (v.x.sr && (!([2, 3, 4, 11] : List Nat).contains v.y.fmt || op == 0x63 || op == 0x40)) ||
  (match op with
   | 0x35 => v.y.fmt != 10
   | 0x36 => (v.c.map (·.fmt)) != some 10
   | 0x40 => v.y.fmt != 8 || v.x.imm1.toNat % 8 == 7
   | 0x41 => v.a.fmt != 8
   | 0x50 | 0x60 | 0x61 | 0x62 => bInt
   | 0x63 => bInt || !([0, 1, 2, 10] : List Nat).contains v.y.fmt
   | 0x70 => v.a.fmt != 8 || v.y.fmt != 10 || (v.c.map (·.fmt)) != some 10
   | _ => false)

/-- R151: the operation codes. -/
def vecOps : List Nat :=
  [0x01, 0x02, 0x03, 0x04, 0x05, 0x06, 0x07, 0x08, 0x09, 0x10, 0x20, 0x21, 0x22, 0x23, 0x24, 0x25, 0x26, 0x27, 0x28, 0x29,
   0x2A, 0x30, 0x31, 0x32, 0x33, 0x34, 0x35, 0x36, 0x37, 0x40, 0x41, 0x50, 0x51, 0x60, 0x61, 0x62, 0x63, 0x70]

/-- R146: RED is set on an operation without reductions. -/
def redBad (x : Vec) : Bool :=
  x.red != 0 && !(decide (0x30 ≤ x.op) && decide (x.op ≤ 0x34)) && !(x.op == 0x35 && x.red == 1)

/-- R146: what a VEC breaks, if anything, with its records as they stand; `now`: it starts, so its banks count (R157). -/
def vecMalformed (c : PCore) (now : Bool) (d : BitVec 256) : Option (BitVec 8) :=
  let x := vecOf d
  let addrs := (recAddrs x).filterMap id
  let recs := recsOf c x
  let used := recs.filterMap id
  match firstCause
    [ (!headerOk d || dfield d 212 44 != 0 || addrs.any (fun r => recReadable c r && recReserved (recBytes c r)), 0x01),
      (!vecOps.contains x.op || addrs.any (fun r => !recReadable c r) || used.length != addrs.length || redBad x ||
        used.any recBad, 0x02) ] with
  | some e => some e
  | none =>
    match vecIn x recs with
    | none => some 0x02
    | some v => firstCause
        [ (v.dests.any (fun r => r.loc == 2 || (!isScatter x.op && touchesTwice r)) || (isScatter x.op && touchesTwice v.y) ||
            shapeBad v || formatBad v || v.sources.any bankBitsBad || (now && v.sources.any (bankRecBad c)) ||
            v.dests.any (fun r => v.sources.any (overlapBad r)), 0x02),
          (used.any outOfBounds, 0x03),
          (now && v.sources.any (bankStateBad c), 0x04) ]

/-- Split a piece at block boundaries. -/
def blockPieces : Nat → Nat → Bytes → List (Nat × Bytes)
  | 0, _, _ => []
  | f + 1, a, d => if d.isEmpty then [] else
      let k := 256 - a % 256
      (a, d.take k) :: blockPieces f (a + k) (d.drop k)

/-! ### Reading operands (R150, R161, R187, R215) -/

/-- Why a block of module memory or of a window cannot be used, if so. -/
def vecFault (s : State) (ctx : Nat) (a : Nat) (write : Bool) : Option (BitVec 8) :=
  match translate s ctx (BitVec.ofNat 48 a) with
  | .foreign => some 0x05
  | .unmapped => some 0x06
  | .localPage _ _ _ _ wr => if write && !wr then some 0x05 else none
  | .peer _ _ _ _ _ wr => if write && !wr then some 0x05 else none
  | .host _ wr => if write && !wr then some 0x05 else none

/-- What a source reads from for these elements, and whether every block passed its CRC. `got`: blocks from outside the core. -/
def viewOf (c : PCore) (got : AMap Block) (r : TRec) (ixs : List (List Nat)) : View × Bool :=
  match r.loc with
  | 2 => ({ mem := [], bank := getBank c r.bankNo }, true)
  | 3 =>
    let bs := (r.blocks ixs).filterMap fun k => (mapGet? got k).map fun b => (k, b)
    ({ mem := bs.flatMap fun p => ((List.range 256).zip p.2.data).map fun q => (256 * p.1 + q.1, q.2), bank := Bank.reset },
      bs.all fun p => blockOk p.2)
  | l =>
    let bad := locBad c (l == 1)
    ({ mem := locMem c (l == 1), bank := Bank.reset }, (r.blocks ixs).all fun k => (mapGet? bad k).isNone)

/-- Views of an optional source. -/
def viewOpt (c : PCore) (got : AMap Block) (r : Option TRec) (ixs : List (List Nat)) : View × Bool :=
  match r with
  | some r => viewOf c got r ixs
  | none => ({ mem := [], bank := Bank.reset }, true)

/-- Exact value, through a view, of an optional source. -/
def optVal (r : Option TRec) (v : View) (ix : List Nat) : Val := (r.map fun r => r.val v ix).getD zeroVal

/-- The operation takes b as indices. -/
def byIndex (op : Nat) : Bool := [0x50, 0x60, 0x61, 0x62, 0x63].contains op

/-- The index elements of b, once they have come. -/
def indexReader (c : PCore) (got : AMap Block) (v : VecIn) : List Nat → Int :=
  if byIndex v.x.op then
    let b := (viewOpt c got v.b (indices ((v.b.map (·.ext)).getD []))).1
    fun ix => intOf (optVal v.b b ix)
  else fun _ => 0

/-- Blocks of a record outside the core for these elements. -/
def outerBlocks (r : Option TRec) (ixs : List (List Nat)) : List Nat :=
  match r with
  | some r => if r.loc = 3 then r.blocks ixs else []
  | none => []

/-- R161: the blocks outside the core whose contents say which others a group reads. -/
def indexBlocks (v : VecIn) (g : List (List Nat)) : List Nat :=
  if byIndex v.x.op then outerBlocks v.b (g.map v.bIx) else []

/-- R161: the other blocks outside the core that a group reads, and those of a table that it scatters into. -/
def dataBlocks (v : VecIn) (bi : List Nat → Int) (g : List (List Nat)) : List Nat :=
  (outerBlocks (some v.a) (if isScatter v.x.op then g else g.filterMap (v.aIx bi)) ++
    (if byIndex v.x.op then [] else outerBlocks v.b (g.map v.bIx)) ++
    (if needsC v.x.op then outerBlocks v.c g else []) ++
    (if isScatter v.x.op then outerBlocks (some v.y) (g.filterMap (v.yIx bi)) else [])).eraseDups

/-- Its operation groups. -/
def VecIn.groups (v : VecIn) : List (List (List Nat)) := opGroups v.x.op (v.y :: v.sources) v.walked

/-- R150: blocks of a peer window that a destination covers in part: they are read before they are written. -/
def partBlocks (s : State) (ctx : Nat) (v : VecIn) : List Nat :=
  if isScatter v.x.op then []
  else (v.dests.filter fun r => r.loc == 3).flatMap fun r =>
    let line := List.replicate (rowBytes r.fmt (r.dim 0)) 0
    let scale := List.replicate (mxBlocks (r.dim 0)) 0
    let runs := tensorRuns r ((List.range (r.count / r.dim 0)).map fun l => (l, line, scale))
    ((runs.flatMap fun p => blockPieces (p.2.length / 256 + 2) p.1 p.2).filter fun p => p.2.length != 256 &&
      match translate s ctx (BitVec.ofNat 48 p.1) with
      | .peer _ _ _ _ _ _ => true
      | _ => false).map fun p => p.1 / 256

/-! ### Gathers (R161, R164 to R166, R219) -/

/-- Change the job of a thread. -/
def setThread (c : PCore) (t : Nat) (j : Option VecJob) : PCore := { c with threads := c.threads.setIfInBounds t j }

/-- The context of a VEC. -/
def vecCtx (s : State) (n : Nat) (x : Issued) : Nat := (getStream (getC s n) x.slot).ctx

/-- R165, R201: the memory bank of a block, by channel and bank; none for a window. -/
def bankAt (s : State) (ctx k : Nat) : Option (Nat × Nat) :=
  match translate s ctx (BitVec.ofNat 48 (256 * k)) with
  | .localPage p pg off _ _ =>
    let q := placeByte s p pg off
    some (q.1, slotBank (q.2 / 4096))
  | _ => none

/-- R175: a VEC ends because an access of it faults: its stream halts at it. -/
def faultVec (s : State) (n t : Nat) (x : Issued) (cause : BitVec 8) : State :=
  let s := modC s n fun c => pruneGather { setThread c t none with gatherQ := c.gatherQ.filter fun q => q.1 != t }
  dropIssued (haltStream s n x.slot cause (tagOf x.desc) x.pc) n x

/-- R161, R188: a block request goes out; `true` when it was refused at the sender. -/
def sendGather (s : State) (n t k : Nat) (x : Issued) : State × Bool :=
  let ctx := vecCtx s n x
  let s := useXlat s n ctx (BitVec.ofNat 48 (256 * k))
  let sent := fun (s : State) => modC s n fun c => { c with gather := c.gather ++ [{ blk := k, thr := t, data := none }] }
  match translate s ctx (BitVec.ofNat 48 (256 * k)) with
  | .peer e m rc rva core _ =>
    let r := sendRequest s ctx e (.vecRead n k)
      { barePacket s 2 m with
        dctx := BitVec.ofNat 6 rc, pgen := (getStream (getC s n) x.slot).pgen, addr := rva, core := BitVec.ofNat 7 core, nblk := 1 }
    if r.2 then r else (sent r.1, false)
  | .host a _ => (sent (emit s (.hostRead a 256)), false)
  | _ => (sent s, false)

/-- R219: the token of a gather request; none while there is none. -/
def gatherToken (s : State) (n ctx k : Nat) : Option State :=
  match translate s ctx (BitVec.ofNat 48 (256 * k)) with
  | .localPage _ _ _ _ _ => takeTokens s (n / 32) 0 1
  | _ => some s

/-- R164, R165: the waiting requests, oldest first. `stuck`: banks whose oldest waiting request could not go. Kept requests stay
in `gatherQ`. -/
def pumpQueue (n : Nat) : List (Nat × Nat) → List (Option (Nat × Nat)) → State → State
  | [], _, s => s
  | (t, k) :: q, stuck, s =>
    let c := getC s n
    match c.threads.getD t none with
    | none => pumpQueue n q stuck s
    | some j =>
      let ctx := vecCtx s n j.iss
      let bank := bankAt s ctx k
      let keep := fun (s : State) => modC s n fun c => { c with gatherQ := c.gatherQ ++ [(t, k)] }
      let capped := bank.isSome && decide (c.bankCap.toNat ≤ (c.gather.filter fun g => bankAt s ctx g.blk == bank).length)
      if c.gather.any (fun g => g.blk == k) then pumpQueue n q stuck (modCnt s n fun k => { k with merged := k.merged + 1 })
      else if stuck.contains bank || decide (256 ≤ c.gather.length) || decide (32 ≤ (c.gather.filter fun g => g.thr == t).length) || capped
      then pumpQueue n q (bank :: stuck) (keep s)
      else match gatherToken s n ctx k with
        | none => pumpQueue n q (bank :: stuck) (keep (holdTokens s (n / 32) 0))
        | some s =>
          let r := sendGather s n t k j.iss
          pumpQueue n q stuck (if r.2 then faultVec r.1 n t j.iss 0x0B else r.1)

/-- R166: every thread that holds a descriptor is switched out and all wait on one memory bank: it is recorded. -/
def noteHot (s : State) (n : Nat) : State :=
  let js := (getC s n).threads.toList.filterMap fun j => j.filter fun j => !j.ended
  let banks := js.flatMap fun j => j.blks.map fun k => bankAt s (vecCtx s n j.iss) k
  match banks.head? with
  | some (some b) =>
    if js.all (fun j => j.out && !j.blks.isEmpty) && banks.all (· == some b) then
      modCnt s n fun k => { k with hotBank := BitVec.ofNat 32 (b.1 + b.2 * 2 ^ 7 + 2 ^ 31) }
    else s
  | _ => s

/-- R164, R165: requests that wait go out as far as the limits let them. -/
def pumpGather (s : State) (n : Nat) : State :=
  let q := (getC s n).gatherQ
  noteHot (pumpQueue n q [] (modC s n fun c => { c with gatherQ := [] })) n

/-- The next group, from number `i`, that needs blocks which have not come, with those blocks. `f`: the blocks a group needs. -/
def needFrom (f : List (List Nat) → List Nat → List Nat) : List (List (List Nat)) → List Nat → Nat → Option (Nat × List Nat)
  | [], _, _ => none
  | g :: t, came, i => if (f g came).isEmpty then needFrom f t [] (i + 1) else some (i, f g came)

/-- R161: what a thread asks for next: the group and its blocks: indices before the data they name, and after the last group the
blocks of a window that are written in part. -/
def nextNeed (s : State) (n : Nat) (v : VecIn) (j : VecJob) : Option (Nat × List Nat) :=
  let c := getC s n
  let bi := indexReader c j.got v
  let gs := v.groups
  let f := fun (g : List (List Nat)) (came : List Nat) =>
    let ix := (indexBlocks v g).filter fun k => !came.contains k
    if ix.isEmpty then (dataBlocks v bi g).filter fun k => !came.contains k else ix
  match needFrom f (gs.drop j.grp) j.came j.grp with
  | some q => some q
  | none =>
    let came := if j.grp = gs.length then j.came else []
    let l := (partBlocks s (vecCtx s n j.iss) v).eraseDups.filter fun k => !came.contains k
    if l.isEmpty then none else some (gs.length, l)

/-- R161, R164: a thread hands its next block requests over and switches out; with none left it is ready. -/
def askGroup (s : State) (n t : Nat) (j : VecJob) : State :=
  match vecIn (vecOf j.iss.desc) j.recs with
  | none => s
  | some v =>
    match nextNeed s n v j with
    | none => modC s n fun c => setThread c t (some { j with out := false, blks := [] })
    | some (i, l) =>
      match l.findSome? fun k => vecFault s (vecCtx s n j.iss) (256 * k) false with
      | some e => faultVec s n t j.iss e
      | none =>
        pumpGather (modC s n fun c =>
          setThread { c with
            gatherQ := c.gatherQ ++ l.map fun k => (t, k)
            cnt := { c.cnt with veSwitches := c.cnt.veSwitches + (if j.out then 0 else 1) } }
            t (some { j with grp := i, out := true, blks := l, came := if i = j.grp then j.came else [] })) n

/-- A block has come for every thread that waits on it. -/
def deliver (k : Nat) (b : Block) (c : PCore) : PCore :=
  { c with
    gather := c.gather.filter fun g => g.blk != k
    threads := c.threads.map fun j => j.map fun j =>
      if j.blks.contains k then { j with blks := j.blks.erase k, came := k :: j.came, got := mapSet j.got k b } else j }

/-- R161, R190: the blocks of a thread that have come: from module memory; through a host window, in `host`; through a peer
window, with its response. -/
def arrive (s : State) (n ctx : Nat) (host : List (Nat × Block)) (k : Nat) : State :=
  match (getC s n).gather.find? fun g => g.blk == k with
  | none => s
  | some g =>
    match translate s ctx (BitVec.ofNat 48 (256 * k)) with
    | .localPage p pg off e _ =>
      let r := readLocal s ctx p pg (off - off % 256) e
      modC r.1 n (deliver k r.2)
    | .host _ _ => match mapGet? host k with
      | some b => modC s n (deliver k b)
      | none => s
    | _ => match g.data with
      | some b => modC s n (deliver k b)
      | none => s

/-! ### Issue (R141, R126, R158) -/

/-- Banks the sources of a VEC name. -/
def namedBanks (recs : List (Option TRec)) (x : Vec) : List Nat :=
  match vecIn x recs with
  | some v => (v.sources.filter fun r => r.loc == 2).map (·.bankNo)
  | none => []

/-- R158: a releasing VEC has issued for these banks. -/
def markRelease (c : PCore) (bs : List Nat) : PCore :=
  bs.foldl (fun c b => setBank c b { getBank c b with relIssued := true }) c

/-- Count a record that failed its CRC (R150). -/
def countRecCrc (c : PCore) (x : Vec) : Nat :=
  ((recAddrs x).filterMap id).countP fun r => r != recNone && r % 2 == 0 && !blocksGood c.stageBad (32 * r) (32 * r + 64)

def issueVec (s : State) (n i : Nat) : State :=
  match issuable s n i opVec with
  | none => s
  | some d =>
    let c := getC s n
    match vecMalformed c true d with
      | some e => rejectDesc (modCnt s n fun k => { k with veCrc := k.veCrc + BitVec.ofNat 32 (countRecCrc c (vecOf d)) }) n i d e
      | none =>
        match (List.range 8).find? fun t => (c.threads.getD t none).isNone with
        | none => s
        | some t =>
          let x := vecOf d
          let recs := recsOf c x
          let q := issueTo s n i d
          let j : VecJob :=
            { iss := q.2, recs := recs, grp := 0, out := false, blks := [], came := [], got := [], acks := 0, ended := false }
          let s := modC q.1 n fun c =>
            setThread (if x.rel then markRelease c (namedBanks recs x) else c) t (some j)
          askGroup s n t j

def execVec (c : Core) (i : SlotNo) (s : State) : Host.Outcome State Fault Refusal := done (wakeCore (issueVec s c.val i.val) c.val)

/-! ### Writing (R150, R156, R163) -/

/-- How the writes of a VEC have gone: `sent`: WRITEs through a peer window. -/
structure VecPut where
  s    : State
  sent : Nat
  /-- A block written in part failed its CRC. -/
  bad  : Bool
  /-- A WRITE was refused at the sender (R263). -/
  refused : Bool

/-- R150, R163, R169: one piece of a block goes out. `got`: blocks read before through a window. -/
def VecPut.put (n : Nat) (x : Issued) (got : AMap Block) (loc : Nat) (q : VecPut) (p : Nat × Bytes) : VecPut :=
  if q.bad || q.refused then q
  else
    let ctx := vecCtx q.s n x
    let a := BitVec.ofNat 48 p.1
    let ok := fun (r : State × Bool) => { q with s := r.1, bad := !r.2 }
    if loc = 3 then
      match translate q.s ctx a with
      | .localPage _ _ _ _ _ => ok (putPiece q.s n ctx 2 a p.2)
      | .peer e m rc rva core _ =>
        let old := (mapGet? got (p.1 / 256)).getD (mkBlock p.2)
        if p.2.length != 256 && !blockOk old then { q with bad := true }
        else
          let r := sendRequest q.s ctx e (.vecWrite n x.id)
            { barePacket q.s 1 m with
              dctx := BitVec.ofNat 6 rc, pgen := (getStream (getC q.s n) x.slot).pgen, addr := rva - rva % 256
              core := BitVec.ofNat 7 core, nblk := 1, blocks := [mkBlock (overlay old.data (p.1 % 256) p.2)] }
          if r.2 then { q with s := r.1, refused := true } else { q with s := r.1, sent := q.sent + 1 }
      | _ => ok (putPiece q.s n ctx 4 a p.2)
    else
      let r := putPiece q.s n ctx loc a p.2
      ok (if loc = 0 ∧ r.2 then (modC r.1 n fun c => noteWriter c none p.1 p.2.length, true) else r)

/-- Pieces of a destination. -/
def piecesOf (runs : List (Nat × Bytes)) : List (Nat × Bytes) := runs.flatMap fun p => blockPieces (p.2.length / 256 + 2) p.1 p.2

/-- How a run of a VEC ends. -/
inductive VecEnd where
  /-- An access faults: the stream halts with this cause. -/
  | access (cause : BitVec 8)
  | failed (f : Capture)
  /-- Its writes are out; so many through a peer window. -/
  | ok (sent : Nat)
  deriving DecidableEq, Repr

/-- What a VEC writes: pieces of y and of the second destination, conversions, out-of-range indices. -/
structure VecWrite where
  ys    : List (Nat × Bytes)
  zs    : List (Nat × Bytes)
  convs : List Conv
  oob   : Nat

/-- Words of the sources as the engine takes them. -/
def vecWords (v : VecIn) (va vb vc : View) : Bool × (List Nat → BitVec 32) × (List Nat → BitVec 32) × (List Nat → BitVec 32) :=
  let int := vecInt v.x.op (if v.x.op = 0x41 then v.sources.drop 1 else v.sources)
  (int, fun ix => wordOf int (v.a.val va ix), fun ix => wordOf int (optVal v.b vb ix), fun ix => wordOf int (optVal v.c vc ix))

/-- The writes of a VEC from the views of its sources. -/
def vecWrite (v : VecIn) (seed : BitVec 64) (va vb vc vy : View) : VecWrite :=
  let (int, ra, rb, rc) := vecWords v va vb vc
  let bi := fun ix => intOf (optVal v.b vb ix)
  if isScatter v.x.op then
    let o := scatterRows v seed ra bi fun ix => v.y.val vy ix
    { ys := piecesOf (tensorRuns v.y (o.rows.map fun r => (r.1, r.2.1, r.2.2))), zs := [], convs := o.convs, oob := o.oob }
  else
    let o := vecResult v int ra rb rc bi
    let l := allLines v.y v.x.sat o.yInt (srRound v.x seed) o.ys
    let m := match (if o.zs.isEmpty then none else v.c) with
      | some z => let m := allLines z v.x.sat o.zInt (fun _ => none) o.zs
                  (piecesOf (tensorRuns z m.1), m.2)
      | none => ([], [])
    { ys := piecesOf (tensorRuns v.y l.1), zs := m.1, convs := l.2 ++ m.2, oob := o.oob }

/-- Cause of a failed check. -/
def vecCause (f : EngFault) : BitVec 8 :=
  match f with
  | .residue => 4
  | .table => 5
  | .permute => 6
  | .tree => 7

def countVecFault (k : CoreCounters) : EngFault → CoreCounters
  | .residue => { k with veRes := k.veRes + 1 }
  | .table => { k with veTbl := k.veTbl + 1 }
  | .permute => { k with vePerm := k.vePerm + 1 }
  | .tree => { k with veTree := k.veTree + 1 }

/-- R140: the failing element of a VEC: its lane, its bits, and the elements of a, b and c at its index (assumption log 124). -/
def vecCapture (v : VecIn) (va vb vc : View) (kind : EngFault) (f : BadElem) : Capture :=
  let (_, ra, rb, rc) := vecWords v va vb vc
  let ix := unravel v.y.ext f.elem
  { Capture.input with
    cause := vecCause kind
    unit := BitVec.ofNat 8 (f.elem % lineExt v.x.op (v.y :: v.sources) v.y % 64)
    values := [f.bits, ra ix] ++ (v.b.map fun _ => rb (v.bIx ix)).toList ++ (if needsC v.x.op then [rc ix] else []) }

/-- Why a block of a run that lies outside the core cannot be read, or written. -/
def faultOf (s : State) (ctx : Nat) (rd wr : List Nat) : Option (BitVec 8) :=
  (rd.findSome? fun k => vecFault s ctx (256 * k) false) <|> (wr.findSome? fun k => vecFault s ctx (256 * k) true)

/-- R150 to R163, R122: run a VEC: verify its operands, compute, write; count what it did. `got`: its blocks from outside the core;
`fault`: the element that a check fails. -/
def runVec (s : State) (n : Nat) (x : Issued) (v : VecIn) (got : AMap Block) (fault : Option (EngFault × BadElem)) : State × VecEnd :=
  let ctx := vecCtx s n x
  let c := getC s n
  let bIxs := indices ((v.b.map (·.ext)).getD [])
  let qb := viewOpt c got v.b bIxs
  let bi := indexReader c got v
  let walked := indices v.walked.ext
  let aIxs := if isScatter v.x.op then walked else (walked.filterMap (v.aIx bi)).eraseDups
  let yIxs := if isScatter v.x.op then (walked.filterMap (v.yIx bi)).eraseDups else indices v.y.ext
  let cIxs := (v.c.map fun r => indices r.ext).getD []
  let rd := outerBlocks v.b bIxs ++ outerBlocks (some v.a) aIxs ++ (if needsC v.x.op then outerBlocks v.c cIxs else [])
  let wr := outerBlocks (some v.y) yIxs ++ (if needsC v.x.op then [] else outerBlocks v.c cIxs)
  match faultOf s ctx rd wr with
  | some e => (s, .access e)
  | none =>
    let none' : View × Bool := ({ mem := [], bank := Bank.reset }, true)
    let qa := viewOf c got v.a aIxs
    let qc := if needsC v.x.op then viewOpt c got v.c cIxs else none'
    let qy := if isScatter v.x.op then viewOf c got v.y yIxs else none'
    let crc := fun (s : State) => (modCnt s n fun k => { k with veCrc := k.veCrc + 1 }, VecEnd.failed .input)
    if !(qa.2 && qb.2 && qc.2 && (v.x.op != 0x63 || qy.2)) then crc s
    else match fault.filter fun f => decide (f.2.elem < v.y.count) with
      | some f => (modCnt s n fun k => countVecFault { k with veGroups := k.veGroups + BitVec.ofNat 64 v.groups.length } f.1,
          .failed (vecCapture v qa.1 qb.1 qc.1 f.1 f.2))
      | none =>
        let w := vecWrite v c.seed qa.1 qb.1 qc.1 qy.1
        let s := modCnt s n fun k =>
          let k := countConv k w.convs
          { k with idxOob := k.idxOob + BitVec.ofNat 32 w.oob, veGroups := k.veGroups + BitVec.ofNat 64 v.groups.length }
        let p0 : VecPut := { s := s, sent := 0, bad := false, refused := false }
        let p := w.ys.foldl (VecPut.put n x got v.y.loc) p0
        let p := match v.c with
          | some z => w.zs.foldl (VecPut.put n x got z.loc) p
          | none => p
        if p.bad then crc p.s else if p.refused then (p.s, .access 0x0B) else (p.s, .ok p.sent)

/-- R161: every block from outside the core that a VEC reads, at once, for its rerun; none while one of a window is missing. -/
def gatherAll (s : State) (ctx : Nat) (win : List (Nat × Block)) : List Nat → AMap Block → Option (State × AMap Block)
  | [], got => some (s, got)
  | k :: t, got =>
    match translate s ctx (BitVec.ofNat 48 (256 * k)) with
    | .localPage p pg off e _ =>
      let r := readLocal s ctx p pg (off - off % 256) e
      gatherAll r.1 ctx win t (mapSet got k r.2)
    | .unmapped => gatherAll s ctx win t got
    | .foreign => gatherAll s ctx win t got
    | _ => (mapGet? win k).bind fun b => gatherAll s ctx win t (mapSet got k b)

/-- Its operands for a rerun: the indices, then the data they name and what is written in part. -/
def gatherFor (s : State) (n : Nat) (x : Issued) (v : VecIn) (win : List (Nat × Block)) : Option (State × AMap Block) :=
  let ctx := vecCtx s n x
  (gatherAll s ctx win (v.groups.flatMap (indexBlocks v)).eraseDups []).bind fun q =>
    let bi := indexReader (getC s n) q.2 v
    gatherAll q.1 ctx win ((v.groups.flatMap (dataBlocks v bi)) ++ partBlocks s ctx v).eraseDups q.2

/-! ### Completion (R123, R124, R158, R172) -/

/-- Another VEC, running or held, with a lower number names the bank. -/
def earlierNames (s : State) (n b id : Nat) : Bool :=
  (getC s n).threads.toList.any (fun j => match j with
    | some j => decide (j.iss.id < id) && (namedBanks j.recs (vecOf j.iss.desc)).contains b
    | none => false) ||
  (getL s n).replay.toList.any fun r => match r with
    | some r => opcodeOf r.iss.desc == opVec && decide (r.iss.id < id) && (namedBanks r.recs (vecOf r.iss.desc)).contains b
    | none => false

/-- R158: banks whose releasing VEC has completed go to FREE once no earlier VEC names them. -/
def freeReleased (s : State) (n : Nat) : State :=
  [0, 1].foldl (fun s b =>
    match (getBank (getC s n) b).relDone with
    | some id => if earlierNames s n b id then s else launchPass (modC s n fun c => freeBank c b) n
    | none => s) s

/-- R158: a VEC has completed: the banks it releases. -/
def releaseBanks (s : State) (n : Nat) (x : Issued) (recs : List (Option TRec)) : State :=
  let v := vecOf x.desc
  freeReleased (modC s n fun c =>
    if v.rel then (namedBanks recs v).foldl (fun c b => setBank c b { getBank c b with relDone := some x.id }) c else c) n

/-- R124: a failed VEC leaves its thread and is held. -/
def failVec (s : State) (n t : Nat) (j : VecJob) (f : Capture) : State :=
  let s := modC s n fun c => pruneGather { setThread c t none with gatherQ := c.gatherQ.filter fun q => q.1 != t }
  freeReleased (holdChecked s n { mkReplay s n j.iss f with recs := j.recs }) n

/-- R172: the last write of a VEC has landed: it completes. -/
def endVec (s : State) (n t : Nat) (j : VecJob) : State :=
  completeIssued (releaseBanks (modC s n fun c => setThread c t none) n j.iss j.recs) n j.iss

/-- R405: an injection of kind 0x08 fails a residue check, at element 0. -/
def vecInject (s : State) (n : Nat) (fault : Option (EngFault × BadElem)) : State × Option (EngFault × BadElem) :=
  match fault with
  | some f => (s, some f)
  | none =>
    let q := takeInjection s fun d => d.kind == 8 && d.target.toNat == n
    (q.1, q.2.map fun _ => (.residue, { elem := 0, bits := Config.freeValue s.free 32 }))

/-- R172: the VEC of a thread has computed and written. -/
def vecDone (s : State) (n t : Nat) (fault : Option (EngFault × BadElem)) : State :=
  match (getC s n).threads.getD t none with
  | none => s
  | some j =>
    match (if j.out || j.ended then none else vecIn (vecOf j.iss.desc) j.recs) with
    | none => s
    | some v =>
      let q := vecInject s n fault
      let r := runVec { q.1 with free := q.1.free + 1 } n j.iss v j.got q.2
      noteHot (match r.2 with
        | .access e => freeReleased (faultVec r.1 n t j.iss e) n
        | .failed f => failVec r.1 n t j f
        | .ok 0 => endVec r.1 n t j
        | .ok k => modC r.1 n fun c => setThread c t (some { j with acks := k, ended := true })) n

def execVecComplete (c : Core) (thread : Fin 8) (fault : Option (EngFault × BadElem)) (s : State) :
    Host.Outcome State Fault Refusal :=
  doneMem (if inService s c.val then wakeCore (vecDone s c.val thread.val fault) c.val else s)

/-! ### Arrivals (R150, R161, R263) -/

/-- R150, R161: a thread after an arrival: a block that fails its CRC fails its descriptor; with nothing outstanding it goes on. -/
def threadOn (s : State) (n t : Nat) : State :=
  match (getC s n).threads.getD t none with
  | none => s
  | some j =>
    if !j.out then s
    else if j.got.any (fun p => !blockOk p.2) then
      failVec (modCnt s n fun k => { k with veCrc := k.veCrc + 1 }) n t j .input
    else if j.blks.isEmpty then askGroup s n t j
    else s

/-- R161: the blocks of a thread's group arrive; threads whose blocks have all come go on, and requests that waited go out. -/
def gatherArrived (s : State) (n t : Nat) (host : List (Nat × Block)) : State :=
  match (getC s n).threads.getD t none with
  | none => s
  | some j =>
    if !j.out then s
    else
      let s := j.blks.foldl (fun s k => arrive s n (vecCtx s n j.iss) host k) s
      pumpGather ((List.range 8).foldl (fun s t => threadOn s n t) s) n

def execGatherArrival (c : Core) (x : GatherIn) (s : State) : Host.Outcome State Fault Refusal :=
  if wellFormed (.gatherArrival c x) then
    doneMem (if inService s c.val then wakeCore (gatherArrived s c.val x.thread.val x.host) c.val else s)
  else .fault (.illFormed "GATHER_ARRIVAL")

/-- R263: the block of a READ_REQ of the gather unit is back. -/
def gatherBack (s : State) (n k : Nat) (b : Block) : State :=
  modC s n fun c => { c with gather := c.gather.map fun g => if g.blk = k then { g with data := some b } else g }

/-- R263: a READ_REQ of the gather unit failed: the descriptors that wait on its block end with cause 0x0B. -/
def gatherFailed (s : State) (n k : Nat) : State :=
  wakeCore ((List.range 8).foldl (fun s t => match (getC s n).threads.getD t none with
    | some j => if j.blks.contains k then freeReleased (faultVec s n t j.iss 0x0B) n else s
    | none => s) s) n

/-- R172, R263: a WRITE of a VEC has been answered. -/
def vecAcked (s : State) (n id : Nat) (ok : Bool) : State :=
  match (List.range 8).find? fun t => ((getC s n).threads.getD t none).any fun j => j.iss.id == id with
  | none => s
  | some t =>
    match (getC s n).threads.getD t none with
    | none => s
    | some j =>
      if !ok then wakeCore (freeReleased (faultVec s n t j.iss 0x0B) n) n
      else if j.acks ≤ 1 then wakeCore (endVec s n t j) n
      else modC s n fun c => setThread c t (some { j with acks := j.acks - 1 })

end Sys2Proof.Machine
end

