-- ==== Sys2Proof/Machine/Packets.lean ====
section
/-! DEFINITION. Packets that arrive at a port: header checks (R259, R260, R265), requests (R262, R315), responses and their
requests (R263, R264), Knells and LINKUPs (R280 to R282), transit (R266 to R268). -/

namespace Sys2Proof.Machine

/-! ### Arrival (R259, R260, R265, R267) -/

/-- R267: a packet is for this module: its own address, or an entry that names this module. -/
def forUs (s : State) (k : Packet) : Bool :=
  (s.fab.valid && k.dst == s.fab.addr) || (routeOf s k.dst).toNat % 16 == 0xE

/-- A packet reaches the module by a port that is up, or by its own loop. -/
def arrives (s : State) (p : Nat) (k : Packet) : Bool := portUp (getPort s p) || (s.fab.valid && k.src == s.fab.addr)

def countHdr (s : State) : State := modFab s fun f => { f with dropHdr := f.dropHdr + 1 }
def countHops (s : State) : State := modFab s fun f => { f with dropHops := f.dropHops + 1 }

/-- R254: a packet of type `ty` that has come by a port leaves its input buffer. -/
def bufferFreed (s : State) (p : Nat) (ty : BitVec 4) (k : Packet) : State :=
  if k.ptype = ty ∧ portUp (getPort s p) then oweCredits s p k else s

/-- R260, R265: a packet of type `ty` for this module: `true` when it passes the checks of its header. -/
def headerIn (s : State) (p : Nat) (ty : BitVec 4) (k : Packet) : State × Bool :=
  if k.ptype ≠ ty || !arrives s p k then (s, false)
  else if k.flood then (countHdr s, false)
  else if k.hopsLeft = 0 then (countHops s, false)
  else (s, forUs s k)

/-- The effect of a packet of type `ty` for this module. -/
def receive (s : State) (p : Nat) (ty : BitVec 4) (k : Packet) (f : State → State) : State :=
  let r := headerIn (bufferFreed s p ty k) p ty k
  if r.2 then f r.1 else r.1

/-! ### Requests (R262) -/

/-- The addresses of the blocks that a request names. -/
def requestVas (k : Packet) : List (BitVec 48) :=
  (List.range (max 1 k.nblk.toNat)).map fun i => k.addr + BitVec.ofNat 48 (256 * i)

/-- R262: STATUS of the translation at the peer: 0x01 unmapped, 0x02 foreign. -/
def peerFault (s : State) (k : Packet) (write : Bool) : Option Nat :=
  (requestVas k).findSome? fun a => match translate s k.dctx.toNat a with
    | .unmapped => some 0x01
    | .localPage _ _ _ _ wr => if write && !wr then some 0x02 else none
    | _ => some 0x02

/-- R262: one block of a WRITE: written when its CRC is valid. -/
def storeBlock (s : State) (c : Nat) (a : BitVec 48) (b : Block) : State :=
  match translate s c a with
  | .localPage p pg off e _ => if blockOk b then writeLocal s c p pg off e false b else s
  | _ => s

/-- R262: a WRITE. -/
def takeWrite (k : Packet) (s : State) : State :=
  let s := ((requestVas k).zip k.blocks).foldl (fun s q => storeBlock s k.dctx.toNat q.1 q.2) s
  sendCompl s k (if k.blocks.all blockOk then 0x00 else 0x05)

/-- R262: the blocks that a READ_REQ asks for, as memory delivers them. -/
def readBlocksVa (c : Nat) : State → List (BitVec 48) → State × List Block
  | s, [] => (s, [])
  | s, a :: t =>
    let r := match translate s c a with
      | .localPage p pg off e _ => readLocal s c p pg off e
      | _ => (s, { data := List.replicate 256 0, crc := 0 })
    let q := readBlocksVa c r.1 t
    (q.1, r.2 :: q.2)

/-- R262, R263: a READ_REQ is answered with its blocks. -/
def takeReadReq (k : Packet) (s : State) : State :=
  let c := k.dctx.toNat
  let r := readBlocksVa c s ((requestVas k).take k.nblk.toNat)
  (sendRouted r.1 c { barePacket r.1 3 k.src with
    dctx := k.sctx, dcgen := k.scgen, sctx := k.dctx, scgen := (getCtx r.1 c).cgen, pgen := k.pgen, cls := k.cls
    reqId := k.reqId, blocks := r.2 }).1

/-- The effect of a request that has its tokens. -/
def doRequest (q : HeldReq) (s : State) : State := if q.write then takeWrite q.k s else takeReadReq q.k s

/-- R219: a request served for the fabric takes its tokens in its CLASS from the slice of its die; without tokens, or behind a
request that waits for them, it waits. -/
def payRequest (q : HeldReq) (s : State) : State :=
  let cls := q.k.cls.toNat
  let wait := fun (s : State) => modFab (holdTokens s q.die cls) fun f => { f with held := f.held ++ [q] }
  if s.fab.held.any fun h => h.die == q.die && h.k.cls == q.k.cls then wait s
  else match takeTokens s q.die cls q.k.nblk.toNat with
    | some s => doRequest q s
    | none => wait s

/-- R262, R219: the checks of a WRITE or READ_REQ after those that every request meets; then its effect. -/
def serveRequest (s : State) (q : HeldReq) (tagOk : Bool) : State :=
  let r := takeIn s q.k tagOk
  if !r.2 then r.1
  else if q.k.addr.toNat % 256 ≠ 0 then sendCompl (countHdr r.1) q.k 0x0A
  else match peerFault r.1 q.k q.write with
    | some st => sendCompl r.1 q.k st
    | none => payRequest q r.1

/-- R219, R262: requests that wait for tokens go on after a refill, in order, unless their context is gone or their page is. -/
def serveHeld (s : State) : State :=
  s.fab.held.foldl (fun s q =>
    let x := getCtx s q.k.dctx.toNat
    if x.st == .fencing || x.st == .fenced then
      sendCompl (modFab s fun f => { f with dropStale := f.dropStale + 1 }) q.k 0x09
    else if x.st != .opened || q.k.dcgen != x.cgen then
      sendCompl (modFab s fun f => { f with dropStale := f.dropStale + 1 }) q.k 0x03
    else match peerFault s q.k q.write with
      | some st => sendCompl s q.k st
      | none => payRequest q s) (modFab s fun f => { f with held := [] })

/-- R262: a request that arrives at a port. -/
def takeRequest (p : Nat) (k : Packet) (tagOk write : Bool) (s : State) : State :=
  serveRequest s { die := p % 4, k := k, write := write } tagOk

def execWrite (p : Port) (k : Packet) (tagOk : Bool) (s : State) : Host.Outcome State Fault Refusal :=
  if wellFormed (.write p k tagOk) then doneMem (receive s p.val 1 k (takeRequest p.val k tagOk true))
  else .fault (.illFormed "WRITE")

def execReadReq (p : Port) (k : Packet) (tagOk : Bool) (s : State) : Host.Outcome State Fault Refusal :=
  if wellFormed (.readReq p k tagOk) then
    doneMem (receive s p.val 2 k (takeRequest p.val k tagOk false))
  else .fault (.illFormed "READ_REQ")

/-- R176, R262: a SIGNAL from the fabric adds 1 to a semaphore. -/
def takeSignal (k : Packet) (tagOk : Bool) (s : State) : State :=
  let r := takeIn s k tagOk
  if !r.2 then r.1
  else
    let n := k.core.toNat
    if inService r.1 n && (getC r.1 n).ctx == some k.dctx.toNat then
      sendCompl (wakeCore (modC r.1 n fun c => semAdd c k.psig.toNat 1) n) k 0x00
    else sendCompl r.1 k 0x02

def execSignalPacket (p : Port) (k : Packet) (tagOk : Bool) (s : State) : Host.Outcome State Fault Refusal :=
  if wellFormed (.signalPacket p k tagOk) then done (receive s p.val 5 k (takeSignal k tagOk))
  else .fault (.illFormed "SIGNAL_PACKET")

def execCollData (p : Port) (k : Packet) (tagOk : Bool) (s : State) : Host.Outcome State Fault Refusal :=
  if wellFormed (.collData p k tagOk) then done (receive s p.val 6 k (takeCollData k tagOk))
  else .fault (.illFormed "COLL_DATA")

/-- R273: a COLL_CTRL packet: its header, with the tag where COLL_DATA has it and what the packet carries (assumption log 9). -/
def ctrlPacket (k : Packet) (tag : BitVec 16) (b : CollCtrl) : Packet := { k with addr := k.addr.extractLsb' 16 32 ++ tag, ctrl := some b }

def execCollCtrl (p : Port) (k : Packet) (tag : BitVec 16) (b : CollCtrl) (s : State) : Host.Outcome State Fault Refusal :=
  if wellFormed (.collCtrl p k tag b) then
    doneMem (receive s p.val 7 (ctrlPacket k tag b) (takeCollCtrl (ctrlPacket k tag b)))
  else .fault (.illFormed "COLL_CTRL")

/-! ### Responses (R263, R264) -/

/-- R263: the outstanding request that a response answers. -/
def answered (s : State) (k : Packet) : Option OutReq :=
  if k.dcgen = (getCtx s k.dctx.toNat).cgen then
    s.fab.reqs.find? fun r => r.reqId == k.reqId && r.ctx == k.dctx.toNat && r.gen == k.dcgen
  else none

def countLateResp (s : State) : State := modFab s fun f => { f with dropLate := f.dropLate + 1 }

/-- A request is no longer outstanding. -/
def dropReq (s : State) (r : OutReq) : State := modFab s fun f => { f with reqs := f.reqs.erase r }

/-- A COPY of a core, by its number. -/
def copyById (s : State) (n id : Nat) : Option CopyJob := (getC s n).copies.find? fun j => j.iss.id == id

/-- One answer of a COPY has come; with a STATUS other than OK it fails with cause 0x0B (R263). -/
def answerCopy (s : State) (n id : Nat) (ok : Bool) : State :=
  match copyById s n id with
  | none => s
  | some j =>
    let q := if ok then (s, j) else failCopy s n j 0x0B
    setCopy q.1 n { q.2 with acks := q.2.acks - 1 }

/-- R172, R188: a WRITE of request `req` of a COPY has been answered; with the last one the request leaves its slot. -/
def answerWrite (s : State) (n id req : Nat) (ok : Bool) : State :=
  let s := answerCopy s n id ok
  match copyById s n id with
  | none => s
  | some j =>
    let k := mapGet j.wr req 0
    let j := if k ≤ 1 then { j with wr := mapErase j.wr req, out := j.out.erase req } else { j with wr := mapSet j.wr req (k - 1) }
    endCopy (setCopy s n j) n id

/-- Reads of one request of a COPY are still outstanding. -/
def readsLeft (s : State) (n id req : Nat) : Bool :=
  s.fab.reqs.any fun r => match r.owner with
    | .copyRead m i q _ _ => m == n && i == id && q == req
    | _ => false

/-- R188, R190: when the last read of a request has been answered its data are written; a block that never came fails the COPY. -/
def settleReads (s : State) (n id req : Nat) : State :=
  match copyById s n id with
  | none => s
  | some j =>
    if readsLeft s n id req || !j.out.contains req then endCopy s n id
    else match spanOf (copyOf j.iss.desc) j.src j.dst req with
      | none => endCopy s n id
      | some w =>
        let bs := (List.range (blocksOf w.src w.len).length).map fun b => mapGet? j.got (16 * req + b)
        if bs.all (·.isSome) then landRequest s n j req w (bs.filterMap fun b => b)
        else
          let q := failCopy s n j 0x0B
          endCopy (setCopy q.1 n (freeRequest q.2 req)) n id

/-- R190, R261: one block of a READ_RESP: a block that fails its CRC is asked for once more. -/
def keepBlock (s : State) (n id req at_ : Nat) (again : Bool) (b : Block) : State :=
  match copyById s n id with
  | none => s
  | some j =>
    let keep := setCopy s n { j with got := mapSet j.got (16 * req + at_) b }
    if blockOk b || again then keep
    else match spanOf (copyOf j.iss.desc) j.src j.dst req with
      | none => keep
      | some w =>
        let r := sendRead s n j req at_ 1 ((blocksOf w.src w.len).getD at_ 0) true
        if r.2 then keep
        else match copyById r.1 n id with
          | some j => setCopy r.1 n { j with acks := j.acks + 1 }
          | none => r.1

/-- R263: a request ends with a STATUS other than OK. -/
def requestFailed (s : State) (r : OutReq) : State :=
  match r.owner with
  | .copyWrite n id req => answerWrite s n id req false
  | .aheadRead n i no f => aheadBack s n i no f none
  | .psig n id => endCopy (answerCopy s n id false) n id
  | .copyRead n id req _ _ => settleReads (answerCopy s n id false) n id req
  | .vecRead n k => gatherFailed s n k
  | .vecWrite n id => vecAcked s n id false
  | .peal c q => if (getCtx s c).peal.st = .writing ∧ (getCtx s c).peal.seq = q then pealFailWith s c 1 else s
  | .ledger _ => s

/-- R264, R327: a WRITE or SIGNAL returns OK; the last acknowledgement of a Peal lets its next part be written. -/
def requestOk (s : State) (r : OutReq) : State :=
  match r.owner with
  | .copyWrite n id req => answerWrite s n id req true
  | .aheadRead n i no f => aheadBack s n i no f none
  | .psig n id => endCopy (answerCopy s n id true) n id
  | .copyRead n id req _ _ => settleReads (answerCopy s n id false) n id req
  | .vecRead n k => gatherFailed s n k
  | .vecWrite n id => vecAcked s n id true
  | .peal c q => if (getCtx s c).peal.st = .writing ∧ (getCtx s c).peal.seq = q then pealAck s c else s
  | .ledger _ => s

/-- R263: the answer to a request is taken only while its context's generation is the one it was sent under. -/
def takeAnswer (s : State) (r : OutReq) (f : State → State) : State :=
  let s := dropReq s r
  if r.gen = (getCtx s r.ctx).cgen then f s else s

/-- R263: a READ_RESP. -/
def takeReadResp (k : Packet) (tagOk : Bool) (s : State) : State :=
  match acceptCtr s k tagOk with
  | none => modFab s fun f => { f with dropAuth := f.dropAuth + 1 }
  | some s =>
    match answered s k with
    | none => countLateResp s
    | some r =>
      match r.owner with
      | .copyRead n id req first again => takeAnswer s r fun s =>
          let s := answerCopy s n id true
          let s := ((List.range k.blocks.length).zip k.blocks).foldl (fun s q => keepBlock s n id req (first + q.1) again q.2) s
          settleReads s n id req
      | .aheadRead n i no f => takeAnswer s r fun s => aheadBack s n i no f (some k.blocks)
      | .vecRead n q => takeAnswer s r fun s => match k.blocks.head? with
        | some b => gatherBack s n q b
        | none => gatherFailed s n q
      | _ => countLateResp s

def execReadResp (p : Port) (k : Packet) (tagOk : Bool) (s : State) : Host.Outcome State Fault Refusal :=
  if wellFormed (.readResp p k tagOk) then doneMem (receive s p.val 3 k (takeReadResp k tagOk))
  else .fault (.illFormed "READ_RESP")

/-- R263, R264: a COMPL ends its request; every STATUS but 0x00 is a failure. -/
def takeCompl (k : Packet) (s : State) : State :=
  match answered s k with
  | none => countLateResp s
  | some r => takeAnswer s r fun s => if k.addr.toNat % 256 = 0 then requestOk s r else requestFailed s r

def execCompl (p : Port) (k : Packet) (s : State) : Host.Outcome State Fault Refusal :=
  if wellFormed (.compl p k) then doneMem (receive s p.val 4 k (takeCompl k))
  else .fault (.illFormed "COMPL")

/-- R263: 200 us after a request was sent without a response it ends with STATUS 0x07. -/
def execRequestTimeout (reqId : BitVec 16) (s : State) : Host.Outcome State Fault Refusal :=
  doneMem (match s.fab.reqs.find? (fun r => r.reqId == reqId) with
    | some r => takeAnswer s r fun s => requestFailed s r
    | none => s)

/-! ### Knells and LINKUPs (R280 to R282, R394) -/

/-- R280: what a Knell or a LINKUP says. `port`: the port it arrived by, 0xFF for one of this module's own. -/
def knellOf (s : State) (k : Packet) (port : BitVec 8) : KnellEntry :=
  { time := s.time.now, reporter := k.src, lost := k.addr.extractLsb' 0 17, group := (k.addr.extractLsb' 17 4).setWidth 8
    reason := (k.addr.extractLsb' 37 3).setWidth 8, kind := if k.ptype = 8 then 0 else 1, kseq := k.addr.extractLsb' 21 16
    port := port }

/-- R485: the body of KNELL and LINKUP. -/
def knellBody (e : KnellEntry) : Bytes :=
  leBytes 4 e.reporter.toNat ++ leBytes 4 e.lost.toNat ++ [e.group, e.reason] ++ leBytes 2 e.kseq.toNat ++ [e.port]

/-- R281: Knells of two reporters that name one module within 1 ms make it unreachable. -/
def markLost (s : State) (e : KnellEntry) : State :=
  let near := s.fab.recent.filter fun q => decide (ticksSince e.time q.2.2 ≤ 1000 * ticksPerUs)
  let s := modFab s fun f => { f with recent := (e.lost, e.reporter, e.time) :: near }
  if near.any fun q => q.1 == e.lost && q.2.1 != e.reporter then
    modFab s fun f => { f with routes := mapSet f.routes e.lost.toNat 0xF }
  else s

/-- R281, R282: the Belfry takes a Knell or a LINKUP. -/
def takeKnell (s : State) (e : KnellEntry) : State :=
  let s := modDiag s fun d => { d with knellLog := (e :: d.knellLog).take 2048, knellCount := d.knellCount + 1 }
  if e.kind = 0 then
    let s := modFab s fun f => { f with knells := f.knells + 1 }
    postNotice (markLost s e) 0x0005 none (knellBody e)
  else postNotice s 0x0006 none (knellBody e)

/-- R373, R394: while the Belfry does not serve, Knells and LINKUPs wait in the event queue of 256. -/
def belfryEvent (s : State) (e : KnellEntry) : State :=
  if belfryUp s then takeKnell s e
  else modDiag s fun d => { d with eventQ := if 256 ≤ d.eventQ.length then d.eventQ.tail ++ [e] else d.eventQ ++ [e] }

/-- R394: the Belfry takes what the event queue holds. -/
def serveEvents (s : State) : State :=
  s.diag.eventQ.foldl takeKnell (modDiag s fun d => { d with eventQ := [] })

/-- R280: send a Knell or a LINKUP on every usable group but one. -/
def floodOut (s : State) (k : Packet) (except : Option Nat) : State :=
  (List.range (groupCount s)).foldl (fun s g =>
    if some g = except then s
    else match pickPort s g false k with
      | some p => sendOn s p k
      | none => s) s

/-- R280: take up a Knell or a LINKUP once: remembered, forwarded, given to the Belfry. -/
def hearFlood (s : State) (k : Packet) (except : Option Nat) (port : BitVec 8) : State :=
  let key := (k.src, k.addr.extractLsb' 21 16)
  if s.fab.knellMem.contains key then s
  else
    let s := modFab s fun f => { f with knellMem := (key :: f.knellMem).take 1024 }
    belfryEvent (floodOut s k except) (knellOf s k port)

/-- R279, R280, R282: this module sends a Knell (type 8) or a LINKUP (type 9) about a group. -/
def floodOwn (s : State) (ty : BitVec 4) (g : Nat) (reason : Nat) : State :=
  let s := modFab s fun f => { f with knellSeq := f.knellSeq + 1 }
  let lost := s.fab.groupPeer.getD g 0
  let a := lost.toNat + g * 2 ^ 17 + s.fab.knellSeq.toNat * 2 ^ 21 + reason * 2 ^ 37
  hearFlood s { barePacket s ty 0 with flood := true, addr := BitVec.ofNat 48 a } none 0xFF

/-- R260, R265, R280: a flooded packet of type `ty` arrives. -/
def receiveFlood (s : State) (p : Nat) (ty : BitVec 4) (k : Packet) : State :=
  let s := bufferFreed s p ty k
  if k.ptype ≠ ty || !portUp (getPort s p) then s
  else if !k.flood then countHdr s
  else if k.hopsLeft = 0 then countHops s
  else hearFlood s { k with hopsLeft := k.hopsLeft - 1 } (some (p / 4)) (BitVec.ofNat 8 p)

def execKnell (p : Port) (k : Packet) (s : State) : Host.Outcome State Fault Refusal :=
  if wellFormed (.knell p k) then done (receiveFlood s p.val 8 k) else .fault (.illFormed "KNELL")

def execLinkup (p : Port) (k : Packet) (s : State) : Host.Outcome State Fault Refusal :=
  if wellFormed (.linkup p k) then done (receiveFlood s p.val 9 k) else .fault (.illFormed "LINKUP")

/-! ### LINK, transit (R259, R265 to R268) -/

/-- R259: a LINK packet ends its one hop here; what it carries of time is the row TIME_FRAME's. -/
def execLink (p : Port) (k : Packet) (s : State) : Host.Outcome State Fault Refusal :=
  if wellFormed (.link p k) then
    done (
      let s := bufferFreed s p.val 10 k
      if k.ptype = 10 && portUp (getPort s p.val) && k.flood then countHdr s else s)
  else .fault (.illFormed "LINK")

/-- R266: the port a transit packet takes in a group: COLL_DATA stays on the die it arrived on while that port is up. -/
def transitPort (s : State) (p g : Nat) (k : Packet) : Option Nat :=
  if k.ptype = 6 then collPort s g (p % 4) false else pickPort s g false k

/-- R265, R268: a packet in transit. -/
def forward (s : State) (p : Nat) (k : Packet) : State :=
  let s := oweCredits s p k
  if k.ptype = 0 ∨ 11 ≤ k.ptype.toNat then countHdr s
  else if k.flood != (k.ptype == 8 || k.ptype == 9) then countHdr s
  else if k.ptype = 10 then s
  else if k.hopsLeft = 0 then countHops s
  else if k.flood || forUs s k then s
  else
    let k := { k with hopsLeft := k.hopsLeft - 1 }
    match route s false (fun g => transitPort s p g k) k with
    | .out q k => sendOn s q k
    | .self => s
    | _ =>
      let s := modFab s fun f => { f with dropNoroute := f.dropNoroute + 1 }
      if isRequest k.ptype then sendCompl s k 0x04 else s

def execPacketForward (p : Port) (k : Packet) (s : State) : Host.Outcome State Fault Refusal :=
  if wellFormed (.packetForward p k) then done (if portUp (getPort s p.val) then forward s p.val k else s)
  else .fault (.illFormed "PACKET_FORWARD")

/-- R265: a packet that has made no progress for 1.5 us is dropped by the router of a die. -/
def execPacketAgeDrop (d : Die) (k : Packet) (s : State) : Host.Outcome State Fault Refusal :=
  if wellFormed (.packetAgeDrop d k) then
    done (if s.hub.diesDown.getLsbD d.val then s else modFab s fun f => { f with dropAge := f.dropAge + 1 })
  else .fault (.illFormed "PACKET_AGE_DROP")

end Sys2Proof.Machine
end

