-- ==== Sys2Proof/Machine/LaunchAt.lean ====
section
/-! DEFINITION. LAUNCH_AT (R181). -/

namespace Sys2Proof.Machine

/-- R181: what the descriptor after a LAUNCH_AT breaks, of the rules that can be decided before it takes effect. -/
def nextMalformed (s : State) (n i : Nat) (d : BitVec 256) : Option (BitVec 8) :=
  let op := opcodeOf d
  let t := getStream (getC s n) i
  if !opcodes.contains op then some 0x01
  else if op = opMma then mmaMalformed s n i d
  else if op = opMv then mvBad d
  else if op = opVec then vecMalformed (getC s n) false d
  else if op = opCopy then copyMalformed t d
  else match controlBad d with
    | some c => some c
    | none => if op = opLoop && (armLevel { t with pc := t.pc + 32 } d).isNone then some 0x0A else none

/-- The descriptor after the one that issues next, once fetched. -/
def followingDesc (s : State) (n i : Nat) : Option (BitVec 256) :=
  let t := getStream (getC s n) i
  fetchedAt t (issuePc t + 32)

/-- R181: issue of a LAUNCH_AT: it checks the next descriptor and reserves its engine slot. -/
def doLaunchAt (n i : Nat) (next : BitVec 256) (s : State) (d : BitVec 256) : State :=
  let t := getStream (getC s n) i
  match nextMalformed s n i next with
  | some c => haltStream s n i c (tagOf next) (t.pc + 32)
  | none => blockTimed s n i (.launch (armTime s (d.extractLsb' 32 40)))

def issueLaunchAt (s : State) (n i : Nat) : State :=
  match followingDesc s n i, issuable s n i opLaunchAt with
  | some next, some d =>
    if (controlBad d).isNone && noLaunch next then rejectDesc s n i d 0x02
    else issueControl opLaunchAt (doLaunchAt n i next) s n i
  | _, _ => s

def execLaunchAt (c : Core) (i : SlotNo) (s : State) : Host.Outcome State Fault Refusal := done (issueLaunchAt s c.val i.val)

end Sys2Proof.Machine
end

