-- ==== Sys2Proof/Machine/ReplayOps.lean ====
section
/-! DEFINITION. The Belfry's work on held replay slots: what a rerun would compute and where it is placed (R127), the choice
of another core (R129), the re-fetch of inputs (R130), marking a step bad (R128 step 4). -/

namespace Sys2Proof.Machine

/-! ### Reruns (R127) -/

/-- R100: the bank of a held MMA is reserved for its replay. -/
def bankReserved (c : PCore) (x : Mma) : Bool :=
  x.out != 2 && (getBank c x.bank).st == .draining && !c.lr.any fun j => j.started && (mmaOf j.iss.desc).bank == x.bank

/-- What the bank of a held MMA holds as its rerun begins; none while the bank is in use (assumption log 102). -/
def rerunStart (c : PCore) (x : Mma) (start : Option Bank) : Option Bank :=
  let b := getBank c x.bank
  let free := b.st == .free || bankReserved c x
  if x.acc then
    match start with
    | some b0 => if free then some b0 else none
    | none => if b.st == .kept then some b else none
  else if free then some Bank.reset else none

/-- What a rerun on another core begins with. -/
def startSums (c : PCore) (x : Mma) (start : Option Bank) : Option Bank :=
  let b := getBank c x.bank
  if !x.acc then some Bank.reset
  else match start with
    | some b0 => some b0
    | none => if b.st == .kept then some b else none

/-- How a rerun ends. -/
inductive Rerun where
  /-- It cannot begin yet. -/
  | wait
  /-- An access of it faults. -/
  | access (s : State) (cause : BitVec 8)
  /-- It fails again. -/
  | failed (s : State) (f : Capture)
  /-- It passes, with its result placed (R127). -/
  | passed (s : State)

/-- Change the counters of a slot. -/
def modCntP (s : State) (p : Nat) (f : CoreCounters → CoreCounters) : State := setP s p { getP s p with cnt := f (getP s p).cnt }

/-- R405: the logical core on whose slot a rerun runs, whose injections it meets; 128: none. -/
def runnerOf (s : State) (p : Nat) : Nat := (servedBy s p).getD 128

/-- R127: a run for core `n` on slot `p` has ended with these data and counters: on another core its output is copied only when it
passes. -/
def placeRun (s : State) (n p : Nat) (c : PCore) (e : RunEnd) : Rerun :=
  let own := p == physOf s n
  match e.fail with
  | some f => .failed (modCntP (if own then setC s n e.c else s) p fun _ => e.cnt) f
  | none => .passed (modCntP (setC s n c) p fun _ => e.cnt)

/-- R127, R74: rerun of a held MMA on slot `p`: an ordinary execution, counted there; on another core it captures the failing unit of
the original run (R128). -/
def rerunMma (s : State) (n p : Nat) (r : Replay) (f : RerunFault) : Rerun :=
  let x := mmaOf r.iss.desc
  let own := p == physOf s n
  match (if own then rerunStart (getC s n) x r.start else startSums (getC s n) x r.start) with
  | none => .wait
  | some b0 =>
    let q := takeParity s (runnerOf s p)
    let par := q.2 ||| f.parity
    match mmaWhole (getC s n) x b0 with
    | none => .failed (modCntP q.1 p fun k => { k with lrCrc := k.lrCrc + 1 }) .input
    | some b =>
      let w := flipBank 1000 q.1 (runnerOf s p) x.bank b
      let b := f.flips.foldl applyFlip w.2
      let k := (getP w.1 p).cnt
      let k := { k with
        rowCyc := k.rowCyc + BitVec.ofNat 64 (x.m * x.passes), passes := k.passes + BitVec.ofNat 32 x.passes
        bcastPar := k.bcastPar + BitVec.ofNat 32 (bitCount par) }
      let e := mmaEnd x b par f.tree (getC w.1 n) k
      let e := { e with fail := e.fail.map fun c =>
        if own then c else captureOf b c.cause (compareGroup x b par r.row.toNat r.unit.toNat) }
      placeRun w.1 n p (if !own && x.out == 2 then e.c else leaveBank e.c x b) e

/-- R127: rerun of a held MV on slot `p`. -/
def rerunMv (s : State) (n p : Nat) (r : Replay) (f : RerunFault) : Rerun :=
  let e := mvRun (mvOf r.iss.desc) (f.eng.map (·.2)) (getC s n) (getP s p).cnt
  placeRun s n p e.c e

/-- R127: rerun of a held VEC on slot `p`: while it runs, what core `n` counts is counted there. On another core nothing is placed
unless it passes. -/
def rerunVec (s : State) (n p : Nat) (r : Replay) (f : RerunFault) : Rerun :=
  match vecIn (vecOf r.iss.desc) r.recs with
  | none => .failed s .input
  | some v =>
    match gatherFor s n r.iss v f.win with
    | none => .wait
    | some g =>
      let i := vecInject g.1 (runnerOf s p) f.eng
      let own := (getC i.1 n).cnt
      let q := runVec (modCnt i.1 n fun _ => (getP i.1 p).cnt) n r.iss v g.2 i.2
      let done := if p = physOf s n then q.1
        else
          let k := (getC q.1 n).cnt
          modCntP (modCnt q.1 n fun _ => own) p fun _ => k
      match q.2 with
      | .access e => .access done e
      | .failed c => .failed done c
      | .ok _ => .passed done

/-- R127: rerun of a held descriptor; `p`: the slot that runs it. -/
def rerun (s : State) (n p : Nat) (r : Replay) (f : RerunFault) : Rerun :=
  let op := opcodeOf r.iss.desc
  if !r.want.isEmpty then .wait
  else if op = opMma then rerunMma s n p r f
  else if op = opMv then rerunMv s n p r f
  else rerunVec s n p r f

/-! ### Another core (R129) -/

/-- Dies of the partition of a logical core: its own first, then the others. -/
def diesFrom (s : State) (n : Nat) : List Nat :=
  n / 32 :: (List.range 4).filter fun d => d != n / 32 && diePart s.hub.layout d == corePart s n

/-- R129: the slot that runs step 2 for core `n`, by preference; none while none qualifies. -/
def otherCore (s : State) (n : Nat) : Option Nat :=
  match (diesFrom s n).findSome? fun d => (freeSpares s d).head? with
  | some p => some p
  | none =>
    ((partCores s (corePart s n)).find? fun m => m != n && slotsHeld s m == 0 && !s.hub.slotTesting.contains (physOf s m) &&
      (guestsOn s (physOf s m)).isEmpty).map (physOf s)

/-- R129, R158: banks that a replay needs on another core. -/
def bankNeed (r : Replay) : List Nat :=
  let op := opcodeOf r.iss.desc
  if op = opMma then [(mmaOf r.iss.desc).bank]
  else if op = opVec then (namedBanks r.recs (vecOf r.iss.desc)).eraseDups
  else []

/-- R129: the partition has another core in service, or a spare slot on its dies. -/
def anyOther (s : State) (n : Nat) : Bool :=
  (partCores s (corePart s n)).any (· != n) ||
  (diesFrom s n).any fun d => (List.range 34).any fun i =>
    !s.hub.slotRetired.contains (34 * d + i) && (servedBy s (34 * d + i)).isNone

/-! ### Re-fetching inputs (R130) -/

/-- The stage bytes that a held descriptor reads. -/
def inputRanges (r : Replay) : List (Nat × Nat) :=
  let op := opcodeOf r.iss.desc
  if op = opMma then
    let x := mmaOf r.iss.desc
    passRanges (!x.aCol) x.aAddr x.aPitch x.aFmt x.aScale x.m x.k 0 x.k ++
      passRanges x.bTol x.bAddr x.bPitch x.bFmt x.bScale x.n x.k 0 x.k
  else if op = opMv then
    let x := mvOf r.iss.desc
    passRanges x.wT x.wAddr x.wPitch x.wFmt x.wScale x.n x.k 0 x.k ++
      (List.range x.v).map fun v => partBytes (x.xAddr + v * x.xPitch) 0 x.k (elemBits x.xFmt)
  else
    match vecIn (vecOf r.iss.desc) r.recs with
    | some v => (v.sources.filter fun t => t.loc == 0).flatMap fun t =>
        (t.blocks (indices t.ext)).map fun k => (256 * k, 256 * k + 256)
    | none => []

/-- The stage blocks that a held descriptor reads. -/
def inputBlocks (r : Replay) : List Nat := ((inputRanges r).flatMap fun q => touched q.1 (q.2 - q.1)).eraseDups

/-- R130: the copies to re-issue, oldest first: those that last wrote the blocks; none when a block was last written by another
engine, by a copy that the log no longer holds, or by one without REFETCH. -/
def refetchPlan (c : PCore) (blocks : List Nat) : Option (List CopyLog) :=
  let need := c.copyLog.filter fun e => blocks.any fun k => e.blocks.contains k
  if blocks.all (fun k => need.any fun e => e.blocks.contains k) && need.all (·.refetch) then some need.reverse else none

/-- Blocks of a source as they are read again: what comes through a window is open. -/
def refetchBlocks (n ctx loc : Nat) : State → List (BitVec 48) → State × List Block
  | s, [] => (s, [])
  | s, a :: t =>
    let r := if loc = 3 ∨ loc = 4 then
        ({ s with free := s.free + 256 }, mkBlock ((List.range 256).map fun i => Config.freeValue (s.free + i) 8))
      else sourceBlock s n ctx loc a
    let q := refetchBlocks n ctx loc r.1 t
    (q.1, r.2 :: q.2)

/-- One request of a re-issued copy: destination bytes whose source blocks are good are written. -/
def refetchReq (s : State) (n : Nat) (e : CopyLog) (req : Nat) : State :=
  let x := copyOf e.desc
  match spanOf x e.src e.dst req with
  | none => s
  | some w =>
    let r := refetchBlocks n e.ctx x.srcLoc s (readBlocks s e.ctx x w)
    let base := w.src.toNat - w.src.toNat % 256
    let put := fun (s : State) (a : BitVec 48) (d : Bytes) =>
      let q := putPiece s n e.ctx 0 a d
      if q.2 then modC q.1 n fun c => noteWriter c e.id a.toNat d.length else q.1
    if x.cmode = 3 then
      match (if r.2.all blockOk then decodeUnit (unitAt s e.ctx w.src) (r.2.flatMap (·.data)) else none) with
      | some d => (destPieces w).foldl (fun s p => put s p.1 (slice d p.2.1 p.2.2)) r.1
      | none => r.1
    else (destPieces w).foldl (fun s p =>
      if allGood base r.2 (w.src.toNat + p.2.1) p.2.2 then put s p.1 (bytesOf base r.2 (w.src.toNat + p.2.1) p.2.2) else s) r.1

/-- R130: the Belfry re-issues the copies. -/
def refetch (s : State) (n : Nat) (l : List CopyLog) : State :=
  l.foldl (fun s e => (List.range (totalReqs (copyOf e.desc) e.dst)).foldl (fun s q => refetchReq s n e q) s) s

/-! ### The decision table (R128) -/

/-- R129: a core that a replay has left goes on with its own MMAs. -/
def launchOn (s : State) (p : Option Nat) : State :=
  match p.bind (servedBy s) with
  | some m => launchPass s m
  | none => s

/-- Step 4: the step is marked bad, the slot is freed, and a reserved bank returns to FREE. -/
def markBad (s : State) (n k : Nat) : State :=
  match (getL s n).replay.getD k none with
  | none => s
  | some r =>
    let s := modLed s (getStream (getC s n) r.iss.slot).ctx fun l => { l with bad := true }
    let x := mmaOf r.iss.desc
    let s := if opcodeOf r.iss.desc = opMma ∧ bankReserved (getC s n) x then modC s n fun c => freeBank c x.bank else s
    launchPass (freeReleased (launchOn (freeReplay s n k) r.other) n) n

/-- The Belfry orders the next step of a held slot. -/
def orderReplay (s : State) (n k : Nat) : State :=
  match (getL s n).replay.getD k none with
  | none => s
  | some r =>
    if r.st = .running ∨ r.step = 0 ∨ !inService s n ∨ (mapGet? s.hub.retire (physOf s n)).isSome ∨
        s.hub.slotTesting.contains (physOf s n) then s
    else if r.step = 1 then setReplay s n k (some { r with st := .running })
    else
      let step3 := fun (s : State) => match refetchPlan (getC s n) (inputBlocks r) with
        | some l => setReplay (refetch s n l) n k (some { r with st := .running, step := 3, other := none })
        | none => markBad s n k
      if r.step = 2 then
        if !anyOther s n then step3 s
        else match otherCore s n with
          | some p => enterGuests (setReplay s n k (some { r with st := .running, other := some p, want := bankNeed r, guest := [] })) p
          | none => s
      else step3 s

/-! ### Issue again (R133) -/

/-- R133: a descriptor marked for reissue is issued again where its engine has room, and its slot freed: an ordinary execution. An
MMA waits until its bank is what it began on. -/
def reissueHeld (s : State) (n k : Nat) : State :=
  match (getL s n).replay.getD k none with
  | none => s
  | some r =>
    let op := opcodeOf r.iss.desc
    let c := getC s n
    if r.step ≠ 0 ∨ !inService s n then s
    else if op = opMma then
      let x := mmaOf r.iss.desc
      match (if c.lr.length < 2 then rerunStart c x r.start else none) with
      | none => s
      | some b0 =>
        let j : MmaJob :=
          { iss := r.iss, started := false, pass := 0, going := false, parity := 0, draining := false, start := none }
        let c := setBank c x.bank (if x.acc then { b0 with st := .kept } else { Bank.reset with relIssued := (getBank c x.bank).relIssued })
        freeReplay (setC s n { c with lr := c.lr ++ [j] }) n k
    else if op = opMv then
      if c.mv.length < 2 then freeReplay (setC s n { c with mv := c.mv ++ [r.iss] }) n k else s
    else
      match (List.range 8).find? fun t => (c.threads.getD t none).isNone with
      | some t =>
        let j : VecJob :=
          { iss := r.iss, recs := r.recs, grp := 0, out := false, blks := [], came := [], got := [], acks := 0, ended := false }
        askGroup (freeReplay (setC s n (setThread c t (some j))) n k) n t j
      | none => s

/-- Replay slots of a core marked for reissue, in the order of their issue. -/
def reissueOrder (s : State) (n : Nat) : List Nat :=
  let r := (getL s n).replay
  orderByKey (fun k => (((r.getD k none).map (·.iss.id)).getD 0, 0))
    ((List.range 4).filter fun k => (r.getD k none).any fun r => r.step == 0)

/-- R133: the descriptors marked for reissue go, the first before the others of its engine. -/
def reissueAll (s : State) (n : Nat) : State :=
  launchPass ((reissueOrder s n).foldl (fun (q : State × List Nat) k =>
    match (getL q.1 n).replay.getD k none with
    | none => q
    | some r =>
      let op := opcodeOf r.iss.desc
      if q.2.contains op then q
      else
        let t := reissueHeld q.1 n k
        (t, if ((getL t n).replay.getD k none).isSome then op :: q.2 else q.2)) (s, [])).1 n

/-- R125, R128, R133: at a Beat boundary the Belfry reads the pending bits, takes up every held slot, and issues again what waits
for that. -/
def orderReplays (s : State) : State :=
  (List.range 128).foldl (fun s n =>
    if slotsHeld s n = 0 then s else reissueAll ((List.range 4).foldl (fun s k => orderReplay s n k) s) n) s

end Sys2Proof.Machine
end

