-- ==== Sys2Proof/Machine/Beat.lean ====
section
/-! DEFINITION. The duties of a Beat boundary (R46): regulators, governor, residency, the counters of HUB_CTX, and what the
Belfry reads and folds (R125, R175, R210, R274, R321). One tick of the module's clock. -/

namespace Sys2Proof.Machine

/-! ### Hourly totals (R210) -/

/-- One hour in ticks. -/
def hourTicks : Nat := 3600 * ticksPerSec

/-- R210: fold an amount into the log of a unit, which keeps two hours. -/
def foldIn (now : Nat) (l : List (Nat × Nat)) (n : Nat) : List (Nat × Nat) :=
  let l := l.filter fun q => decide (now < q.1 + 2 * hourTicks)
  if n = 0 then l else (now, n) :: l

/-- R210: the total of the last hour. -/
def lastHour (now : Nat) (l : List (Nat × Nat)) : Nat :=
  l.foldl (fun a q => if now < q.1 + hourTicks then a + q.2 else a) 0

/-- R321: the total of the hour before. -/
def hourBefore (now : Nat) (l : List (Nat × Nat)) : Nat :=
  l.foldl (fun a q => if q.1 + hourTicks ≤ now ∧ now < q.1 + 2 * hourTicks then a + q.2 else a) 0

/-- The group of a controller position, if its option fits it. -/
def posGroup (s : State) (i : Nat) : Option Nat :=
  (List.range (spareGroups s)).find? fun g => decide (groupBase s g ≤ i) && decide (i < groupBase s g + 10)

/-- The free spare position of a group. -/
def groupSpare (s : State) (g : Nat) : Option Nat :=
  ((List.range 10).map (groupBase s g + ·)).find? fun i => (getCtrl s i).role == .spare

/-- A migration runs in a group. -/
def groupBusy (s : State) (g : Nat) : Bool := s.mem.migs.any fun m => posGroup s m.source == some g

/-- R210: the counters of a position fold into its totals, and an action may become due. -/
def foldCtrl (now : Nat) (p : MemPolicy) (k : Ctrl) : Ctrl :=
  let k := { k with
    hrCorr := foldIn now k.hrCorr (k.corr - k.foldCorr).toNat, foldCorr := k.corr
    hrUncorr := foldIn now k.hrUncorr (k.uncorr - k.foldUncorr).toNat, foldUncorr := k.uncorr
    hrCrc := foldIn now k.hrCrc (k.crcMemory - k.foldCrc).toNat, foldCrc := k.crcMemory }
  if k.role ≠ .inService ∨ k.chan.isNone then k
  else if p.uncorrMapout ≤ lastHour now k.hrUncorr ∨ p.crcMapout ≤ lastHour now k.hrCrc then { k with due := some true }
  else if p.corrRetrain ≤ lastHour now k.hrCorr ∧ k.due.isNone then { k with due := some false }
  else k

/-- R485: the body of PEAL_PREDICT. -/
def predictBody (counter : BitVec 8) (unit hour before : Nat) : Bytes := [counter, 0] ++ leBytes 2 unit ++ leBytes 4 hour ++ leBytes 4 before

/-- R320, R321: one predictive post to a context. -/
def postPredict (s : State) (c : Nat) (b : Bytes) : State :=
  modPeal (postNotice s 0x0007 (some c) b) c fun p => { p with predict := p.predict + 1, lastPredict := some s.ticks }

/-- R321: the contexts that take predictive posts of a partition; none: of every partition. -/
def predictCtxs (s : State) (p : Option Nat) : List Nat :=
  (List.range 64).filter fun c =>
    (getCtx s c).st != .closed && ctxSetting s c 0x802 == 1 && (p.isNone || p == some (getCtx s c).part)

/-- R199, R229: a training has passed: at one of the three rates, with both margins at least 0.15 UI, which is 38.4 of their units of
1/256 UI. -/
def trainedOk (rate : BitVec 2) (eye : Word) : Bool :=
  rate != 3 && decide (39 ≤ (eye.extractLsb' 0 16).toNat) && decide (39 ≤ (eye.extractLsb' 16 16).toNat)

/-- R210: a due action meets no free spare: NO_SPARE is set; a map-out raises the prediction whatever the holdoff. -/
def noSpareAt (s : State) (i : Nat) : State :=
  let k := getCtrl s i
  match posGroup s i with
  | none => s
  | some g =>
    if k.due.isNone || k.noSpare || (groupSpare s g).isSome || groupBusy s g then s
    else
      let s := modCtrl s i fun k => { k with noSpare := true }
      if k.due = some true then
        let part := k.chan.map (chanPart s)
        (predictCtxs s part).foldl (fun s c =>
          postPredict s c (predictBody 4 i (lastHour s.ticks k.hrUncorr) (hourBefore s.ticks k.hrUncorr))) s
      else s

/-- R210: fold every position and start what is due. -/
def foldMemory (s : State) : State :=
  let s := modMem s fun m => { m with ctrl := m.ctrl.map (foldCtrl s.ticks m.policy) }
  (List.range 80).foldl noSpareAt s

/-- R210, R321: fold the ports and the cores. -/
def foldOthers (s : State) : State :=
  let s := modFab s fun f => { f with ports := f.ports.map fun b => { b with
    hrFec := foldIn s.ticks b.hrFec (b.fecUncorr - b.foldFec).toNat, foldFec := b.fecUncorr } }
  { s with slots := s.slots.map fun c => (c.1, { c.2 with
    hrTrans := foldIn s.ticks c.2.hrTrans (c.2.cnt.transient - c.2.foldTrans).toNat, foldTrans := c.2.cnt.transient }) }

/-- R321: a total meets the prediction test. -/
def predicts (now threshold : Nat) (l : List (Nat × Nat)) : Bool :=
  decide (threshold ≤ lastHour now l) && decide (2 * hourBefore now l ≤ lastHour now l)

/-- R321: the first counter that raises a prediction for a context, as a body. -/
def findPredict (s : State) (c : Nat) : Option Bytes :=
  let p := (getCtx s c).part
  let now := s.ticks
  let test := fun (key : Nat) (counter : BitVec 8) (unit : Nat) (l : List (Nat × Nat)) =>
    if predicts now (ctxSetting s c key) l then some (predictBody counter unit (lastHour now l) (hourBefore now l)) else none
  match (List.range 80).findSome? fun i =>
      let k := getCtrl s i
      if (k.chan.map (chanPart s)) = some p then test 0x803 1 i k.hrCorr else none with
  | some b => some b
  | none =>
    match (partCores s p).findSome? fun n => test 0x804 2 n (getC s n).hrTrans with
    | some b => some b
    | none => (List.range (portCount s)).findSome? fun i => test 0x805 3 i (getPort s i).hrFec

/-- R321: PRED_HOLDOFF has passed since the last post. -/
def holdoffOver (s : State) (c : Nat) : Bool :=
  match (getCtx s c).peal.lastPredict with
  | some t => decide (t + ctxSetting s c 0x806 * 60 * ticksPerSec ≤ s.ticks)
  | none => true

/-- R321: predictive posts of a Beat. -/
def predictAll (s : State) : State :=
  (predictCtxs s none).foldl (fun s c =>
    if holdoffOver s c then
      match findPredict s c with
      | some b => postPredict s c b
      | none => s
    else s) s

/-! ### What the Belfry reads (R125, R175) -/

/-- R485: the body of STREAM_HALT. -/
def haltBody (n : Nat) (e : StreamErr) : Bytes :=
  [BitVec.ofNat 8 n, BitVec.ofNat 8 e.stream, e.cause, e.tag, 0, 0, 0, 0] ++ leBytes 8 e.idx.toNat

/-- R175: the error of one core is posted and VALID cleared; the next one is loaded. -/
def reportHalt (s : State) (n : Nat) : State :=
  if !inService s n then s
  else
    let c := getC s n
    match (if c.errValid then c.err else none) with
    | none => s
    | some e =>
      let s := postNotice s 0x0001 (some (getStream c e.stream).ctx) (haltBody n e)
      modC s n fun c => { c with err := if c.errQ.isEmpty then c.err else c.errQ.head?, errValid := !c.errQ.isEmpty, errQ := c.errQ.tail }

/-- R219: the Peals that waited for tokens go on. -/
def pealBeat (s : State) : State := (List.range 64).foldl (fun s c => if (getCtx s c).peal.st = .writing then pealGo s c else s) s

/-- What the Belfry does at a Beat boundary. -/
def belfryBeat (s : State) : State :=
  let s := (List.range 128).foldl reportHalt s
  let s := { s with lcores := s.lcores.map fun l => (l.1, { l.2 with pending := false }) }
  orderReplays (pealBeat (predictAll (foldOthers (foldMemory (reportFails s)))))

/-! ### HUB_CTX (R407) -/

/-- A stream waits on a time. -/
def waitsTime (t : Stream) : Bool := (blockedTime t.blocked).isSome

/-- Streams of a context that RUN. -/
def runningOf (s : State) (c : Nat) : List Stream :=
  (servingCores s c).flatMap fun n => (getC s n).streams.toList.filter fun t => t.st == .running && t.ctx == c

/-- R407: one Beat of IDLE_BEATS. -/
def idleBeat (s : State) (c : Nat) : State :=
  let x := getCtx s c
  if x.st = .closed then s
  else
    let l := runningOf s c
    let idle := !l.isEmpty && !x.completed && l.all fun t => !waitsTime t
    setCtx s c { x with
      completed := false
      idleBeats := if !idle then 0 else if x.idleBeats = 0xFFFFFFFF then x.idleBeats else x.idleBeats + 1 }

/-! ### The Beat and the tick -/

/-- R46: the duties of a Beat boundary that TIME_NOW has reached by `n` ticks. -/
def beatDuties (m : Sensors) (n : Nat) (s : State) : State :=
  let t := holdoverGrowth (slewBeat s)
  let s := modTime (drivePps (n + (t.time.now - s.time.now).toNat) t) lostSlots
  let s := serveHeld ((List.range (partCount s.hub.layout)).foldl countThrottle ((List.range 4).foldl refill s))
  let s := modTime ((List.range 64).foldl idleBeat (powerBeat m s)) passSlots
  if belfryUp s then belfryBeat s else s

/-- The time block and the cores are powered. -/
def powered (s : State) : Bool := s.hub.dev != .cold

/-- R46: TIME_NOW moves on to the next boundary, and its duties are done. -/
def nextBeat (m : Sensors) (s : State) : State :=
  let n := ticksPerBeat - s.time.now.toNat % ticksPerBeat
  beatDuties m n { modTime s fun t => { t with now := t.now + BitVec.ofNat 64 n } with ticks := s.ticks + n }

def execBeatBoundary (m : Sensors) (s : State) : Host.Outcome State Fault Refusal :=
  doneMem (if powered s then nextBeat m s else s)

/-- One tick of Fabric Time (assumption log 1). -/
def tick (s : State) : State :=
  if !powered s then s
  else
    let s := { modTime s fun t => { t with now := t.now + 1 } with ticks := s.ticks + 1 }
    if s.time.now.toNat % ticksPerBeat = 0 then beatDuties s.pwr.last 1 s else drivePps 1 s

/-- What a step does on an empty queue. -/
def idleStep (s : State) : Host.Outcome State Fault Refusal := doneMem (tick s)

end Sys2Proof.Machine
end

