-- ==== Sys2Proof/Machine/Links.lean ====
section
/-! DEFINITION. The links: frames, replay, bring-up, degrade, retirement and loss (R253 to R258, R279, R282), link keys (R275,
R276, R432), the cable pins (R474). PHY_ROLL_PORT stands in Update.lean. -/

namespace Sys2Proof.Machine

/-! ### Frames (R254, R255, R405) -/

/-- R254: an ACK covers a frame: it lies at or behind it in 15 bits. -/
def ackCovers (ack : BitVec 15) (last : BitVec 64) : Bool := decide ((ack - last.setWidth 15).toNat < 2 ^ 14)

/-- R405: symbols that injections of kind 0x06 corrupt in the next frame of a port. -/
def injectedSymbols (s : State) (p : Nat) : State × Nat :=
  let q := takeInjection s fun d => d.kind == 6 && d.target.toNat == p
  (q.1, (q.2.map fun d => d.sub.toNat).getD 0)

/-- R406: a frame error of a port; when it is attributed to Rimshot it is logged so and the lifetime record skips it. -/
def frameEvent (s : State) (p : Nat) (corr uncorr : Nat) : State :=
  let q := takeAttrib s (216 + p)
  let s := modPort q.1 p fun b => { b with fecCorr := b.fecCorr + BitVec.ofNat 32 corr, fecUncorr := b.fecUncorr + BitVec.ofNat 32 uncorr }
  if q.2 then
    logError (modPort s p fun b => { b with
      lifeCorr := b.lifeCorr + BitVec.ofNat 32 corr, lifeUncorr := b.lifeUncorr + BitVec.ofNat 32 uncorr })
      (0x0300 + (Config.logCode 0x30).setWidth 16) 1 2 (216 + p) none []
  else s

/-- R255, R275: a frame is discarded, and the first missing one is asked for again. A frame that the FEC has corrected has failed
its CHECK. -/
def discardFrame (s : State) (p : Nat) (corrected : Nat) (check : Bool) : State :=
  let s := frameEvent s p corrected 1
  let s := if check then modPort s p fun b => { b with
      checkFails := s.ticks :: b.checkFails.filter fun t => decide (s.ticks < t + ticksPerSec) }
    else s
  if (getPort s p).muted then s else emit s (.replayRequest p (getPort s p).rxNext)

/-- A new link key, by number (R275). -/
def drawLinkKey (s : State) : Nat × State := (s.sec.nextKey, modSecCore s fun k => { k with nextKey := k.nextKey + 1 })

/-- R276: the partner sends under its other key: that key is in the idle slot, and its frames count from 0 again. -/
def partnerRekeyed (s : State) (p : Nat) (slot : Bool) : State :=
  let b := getPort s p
  if !b.perLink || b.rxSlot == slot then s
  else
    let q := drawLinkKey s
    modPort q.2 p fun b => { b with rxSlot := slot, rxNext := 0, rxKeys := b.rxKeys.setIfInBounds slot.toNat (some q.1) }

/-- R254, R255: a frame whose CHECK holds is taken: what it acknowledges leaves the retry buffer, and the credits it returns are
held. -/
def acceptFrame (s : State) (p : Nat) (fseq : BitVec 64) (ack : BitVec 15) (credit : Vector Byte 6) : State :=
  let next := (getPort s p).rxNext
  let s := modPort s p fun b => { b with
    buf := b.buf.filter fun k => !ackCovers ack k.1, rxNext := if fseq = next then next + 1 else next
    credits := Vector.ofFn fun i : Fin 6 => b.credits.getD i.val 0 + (if fseq = next then (credit.getD i.val 0).toNat else 0) }
  if next.toNat < fseq.toNat ∧ !(getPort s p).muted then emit s (.replayRequest p next) else s

/-- R253 to R255: a frame arrives: `symbols` bad symbols; `good`: its CHECK holds. A frame that the FEC cannot correct, or whose
CHECK fails, is discarded. -/
def takeFrame (s : State) (p : Nat) (fseq : BitVec 64) (x : Trailer) (symbols : BitVec 16) (good : Bool) : State :=
  let q := injectedSymbols s p
  let n := symbols.toNat + q.2
  if 16 < n then discardFrame q.1 p 0 false
  else if !good then discardFrame q.1 p n true
  else
    let s := if n = 0 then q.1 else frameEvent q.1 p n 0
    acceptFrame (partnerRekeyed s p x.keySlot) p fseq x.ack x.credit

def execFrameReceive (p : Port) (fseq : BitVec 64) (x : Trailer) (symbols : BitVec 16) (good : Bool) (s : State) : Host.Outcome State Fault Refusal :=
  done (if portUp (getPort s p.val) then takeFrame s p.val fseq x symbols good else s)

/-- R255: the partner asks for frames again: those since `fromSeq`, of the last 512. -/
def replayFrames (s : State) (p : Nat) (fromSeq : BitVec 15) : State :=
  let n := min 512 (((getPort s p).fseq.setWidth 15 - fromSeq).toNat)
  let s := modPort s p fun b => { b with retry := b.retry + BitVec.ofNat 32 n }
  if (getPort s p).muted then s else emit s (.retransmit p fromSeq n)

def execFrameReplay (p : Port) (fromSeq : BitVec 15) (s : State) : Host.Outcome State Fault Refusal :=
  done (if portUp (getPort s p.val) then replayFrames s p.val fromSeq else s)

/-! ### Bring-up (R256, R275, R432, R474) -/

/-- R474: CBL_PRSNT# of a port's connector is low. -/
def cableIn (s : State) (p : Nat) : Bool := !(s.pins.cbl.getD (p / 4) true)

/-- A fitted port of a powered die. -/
def portPowered (s : State) (p : Nat) : Bool :=
  decide (p < portCount s) && s.hub.dev != .cold && !s.hub.diesDown.getLsbD (p % 4)

/-- R256: a port in DOWN probes for a partner's signal. -/
def execPortProbe (p : Port) (partner : Bool) (s : State) : Host.Outcome State Fault Refusal :=
  done (if (getPort s p.val).st = .down ∧ portPowered s p.val ∧ cableIn s p.val ∧ partner then portToTraining s p.val else s)

/-- R257: the first port of a group that waits for another's training is sent to TRAINING. -/
def trainWaiting (s : State) (g : Nat) : State :=
  if (groupPorts s g).any fun q => (getPort s q).st == .training then s
  else match (groupPorts s g).find? fun q => (getPort s q).waiting && portUp (getPort s q) with
    | some q => portToTraining s q
    | none => s

/-- R257, R401, R402: lanes of a port are excluded. -/
def excludeLanes (s : State) (p : Nat) (l : BitVec 4) : State :=
  let old := (getPort s p).excluded
  let s := modPort s p fun b => { b with excluded := old ||| l }
  let fresh := (List.range 4).filter fun i => l.getLsbD i && !old.getLsbD i
  let s := fresh.foldl (fun s _ => recordEvent s 3 0x31 2 (216 + p) none [] (some (0, 5))) s
  if fresh.isEmpty then s
  else modDiag s fun d => { d with life := mapSet d.life (0x1400 + 24 * p + 20) (old ||| l).toNat }

/-- R257: how a port runs on the lanes that are not excluded: its state and its active lanes. -/
def laneMode (excluded : BitVec 4) : PortState × BitVec 4 :=
  if excluded = 0 then (.upX4, 0xF)
  else if excluded &&& 0x3 = 0 then (.upX2, 0x3)
  else if excluded &&& 0xC = 0 then (.upX2, 0xC)
  else (.retired, 0)

/-- R282: a group is usable; when it had been lost a LINKUP goes out. -/
def groupBack (s : State) (g : Nat) : State :=
  let lost := s.fab.lostGroups.getLsbD g
  let bit : BitVec 9 := BitVec.ofNat 9 (2 ^ g)
  let s := modFab s fun f => { f with lostGroups := f.lostGroups &&& ~~~bit, wasUp := f.wasUp ||| bit }
  if lost then floodOwn s 9 g 2 else s

/-- R257: a port trained more than three times in an hour excludes its worst lane at the next training; which of those in use is
measured. -/
def worstLane (s : State) (p : Nat) : State :=
  let b := getPort s p
  let left := (List.range 4).filter fun l => !b.excluded.getLsbD l
  if 4 < (b.trains.filter fun t => decide (s.ticks < t + 3600 * ticksPerSec)).length then
    let f := drawFree s 2
    excludeLanes f.2 p (BitVec.ofNat 4 (2 ^ (left.getD (f.1.toNat % left.length) 0)))
  else s

/-- R275: the keys of a link at its bring-up: in per-link mode one of each direction, in slot 0. -/
def freshKeys (s : State) (p : Nat) : State :=
  if !s.fab.perLink then modPort s p fun b => { b with txKeys := Vector.replicate 2 none, rxKeys := Vector.replicate 2 none }
  else
    let t := drawLinkKey s
    let r := drawLinkKey t.2
    modPort r.2 p fun b => { b with txKeys := #v[some t.1, none], rxKeys := #v[some r.1, none] }

/-- R256, R257, R275: a training ends. `lanes`: the lanes that trained. -/
def trained (s : State) (p : Nat) (lanes : BitVec 4) (asym : BitVec 32) (peer : BitVec 17) (peerPort : BitVec 6) (secOk : Bool) : State :=
  let g := p / 4
  if s.fab.perLink && !(secOk && s.sec.cred) then
    modPort (setPortState s p .down) p fun b => { b with secRefused := true, lanes := 0 }
  else
    let s := worstLane (excludeLanes s p (~~~lanes)) p
    let m := laneMode (getPort s p).excluded
    let s := modPort (setPortState s p m.1) p fun b => { b with
      lanes := m.2, perLink := s.fab.perLink, secRefused := false, keyslot := false, peer := some (peer, peerPort), fseq := 0
      rxNext := 0, rxSlot := false, fill := 0, credits := Vector.replicate 6 64, owed := Vector.replicate 6 0, asym := asym
      relockAt := none, checkFails := [], failedOnce := b.failedOnce ||| b.dueLanes, dueLanes := 0 }
    let s := freshKeys s p
    let s := if portUp (getPort s p) then
        groupBack (modFab s fun f => { f with groupPeer := f.groupPeer.setIfInBounds g peer }) g
      else s
    rollDone (trainWaiting s g)

def execTrainingComplete (p : Port) (lanes : BitVec 4) (asym : BitVec 32) (peer : BitVec 17) (peerPort : BitVec 6) (secOk : Bool)
    (s : State) : Host.Outcome State Fault Refusal :=
  done (if (getPort s p.val).st = .training then trained s p.val lanes asym peer peerPort secOk else s)

/-- R256: TRAINING overruns its bound of 200 ms. -/
def execTrainingTimeout (p : Port) (s : State) : Host.Outcome State Fault Refusal :=
  done (if (getPort s p.val).st = .training then
    rollDone (modPort (setPortState s p.val .down) p.val fun b => { b with lanes := 0 })
  else s)

/-! ### Loss of lock (R256, R258, R405, R474) -/

/-- R256: a port leaves its UP state for RELOCK. A muted port's unacknowledged frames are handled as at a port reset (R405). -/
def toRelock (s : State) (p : Nat) : State :=
  let s := dropParent (modPort (setPortState s p .relock) p fun b => { b with relockAt := some s.ticks }) p
  if (getPort s p).muted then resendBuf s p else s

/-- R256: a port loses lock, or one in RELOCK regains it with the trained settings. -/
def execRelock (p : Port) (regained : Bool) (s : State) : Host.Outcome State Fault Refusal :=
  done (
    let b := getPort s p.val
    if portUp b ∧ !regained then toRelock s p.val
    else if b.st = .relock ∧ regained ∧ cableIn s p.val then
      groupBack (modPort (setPortState s p.val (laneMode b.excluded).1) p.val fun b => { b with relockAt := none }) (p.val / 4)
    else s)

/-- R256, R380: the relock window of 40 us ends: TRAINING; without a cable DOWN (R474). -/
def execRelockExpiry (p : Port) (s : State) : Host.Outcome State Fault Refusal :=
  done (if (getPort s p.val).st = .relock then
    if cableIn s p.val then portToTraining s p.val
    else modPort (setPortState (resendBuf s p.val) p.val .down) p.val fun b => { b with relockAt := none, lanes := 0 }
  else s)

/-- R257: lanes of a port in service show too many errors: it is sent to TRAINING, when no other port of its group trains; a lane
that fails again after that is excluded. -/
def laneCheck (s : State) (p : Nat) (bad : BitVec 4) : State :=
  if bad = 0 then s
  else
    let b := getPort s p
    let s := excludeLanes s p (bad &&& b.failedOnce)
    let s := modPort s p fun b => { b with dueLanes := b.dueLanes ||| (bad &&& ~~~b.failedOnce) }
    if (laneMode (getPort s p).excluded).1 = .retired then
      trainWaiting (dropParent (modPort (setPortState (resendBuf s p) p .retired) p fun b => { b with lanes := 0, waiting := false }) p) (p / 4)
    else if (groupPorts s (p / 4)).any fun q => q != p && (getPort s q).st == .training then
      modPort s p fun b => { b with waiting := true }
    else portToTraining s p

def execLaneEvaluation (p : Port) (bad : BitVec 4) (s : State) : Host.Outcome State Fault Refusal :=
  done (if portUp (getPort s p.val) then laneCheck s p.val (bad &&& (getPort s p.val).lanes) else s)

/-- R279, R280: a group is lost: every fitted port out of UP, 40 us after the first RELOCK, or all in TRAINING or RETIRED. -/
def loseGroup (s : State) (g : Nat) : State :=
  let ps := groupPorts s g
  if !s.fab.wasUp.getLsbD g || ps.any fun p => portUp (getPort s p) then s
  else
    let bit : BitVec 9 := BitVec.ofNat 9 (2 ^ g)
    let s := modFab s fun f => { f with lostGroups := f.lostGroups ||| bit, wasUp := f.wasUp &&& ~~~bit }
    floodOwn s 8 g (if ps.all fun p => (getPort s p).st == .retired then 1 else 0)

def execGroupLost (g : Fin 9) (s : State) : Host.Outcome State Fault Refusal := done (loseGroup s g.val)

/-- R474: a cable is pulled: a port in an UP state has lost lock, one that trains goes DOWN. -/
def pullCable (s : State) (g : Nat) : State :=
  (groupPorts s g).foldl (fun s p =>
    let b := getPort s p
    if portUp b then toRelock s p
    else if b.st = .training then rollDone (modPort (setPortState s p .down) p fun b => { b with lanes := 0 })
    else s) s

def execCblPrsnt (g : Fin 9) (level : Bool) (s : State) : Host.Outcome State Fault Refusal :=
  done (
    let s := { s with pins := { s.pins with cbl := s.pins.cbl.set g level } }
    if level then pullCable s g.val else s)

/-! ### Link keys (R275, R276, R432) -/

/-- A port that runs in per-link mode. -/
def keyed (s : State) (p : Nat) : Bool := portUp (getPort s p) && (getPort s p).perLink

/-- R276: the new key is in the idle slot, and the sender switches to it: KEYSLOT toggles and FSEQ restarts. -/
def rekey (s : State) (p : Nat) : State :=
  let q := drawLinkKey s
  tally (modPort q.2 p fun b => { b with
      txKeys := b.txKeys.setIfInBounds (!b.keyslot).toNat (some q.1), keyslot := !b.keyslot, fseq := 0, fill := 0
      rekeys := b.rekeys + 1 })
    (216 + p) [(0x1400 + 24 * p + 16, 1)]

/-- R276: a rekey begins once FSEQ has reached 2^46. -/
def execRekey (p : Port) (s : State) : Host.Outcome State Fault Refusal :=
  done (if keyed s p.val && decide (2 ^ 46 ≤ (getPort s p.val).fseq.toNat) then rekey s p.val else s)

/-- R276: FSEQ reaches 2^47 before the new key is ready. -/
def execRekeyOverdue (p : Port) (s : State) : Host.Outcome State Fault Refusal :=
  done (if keyed s p.val && decide (2 ^ 47 ≤ (getPort s p.val).fseq.toNat) then portToTraining s p.val else s)

/-- R275: more than 16 CHECK failures within 1 s establish new keys. -/
def execCheckFailRetrain (p : Port) (s : State) : Host.Outcome State Fault Refusal :=
  done (if keyed s p.val && decide (16 < ((getPort s p.val).checkFails.filter fun t => decide (s.ticks < t + ticksPerSec)).length) then
    portToTraining s p.val
  else s)

end Sys2Proof.Machine
end

