-- ==== Sys2Proof/Machine/Mapping.lean ====
section
/-! DEFINITION. MAP and UNMAP (R216 to R218). -/

namespace Sys2Proof.Machine

/-! ### Accesses through an old entry (R218) -/

/-- R218: an issued request of a COPY that has a page of `pages` and reads on the module, or has its data, is carried out. -/
def finishCopies (s : State) (n : Nat) (pages : Nat → Bool) : State :=
  (getC s n).copies.foldl (fun s j =>
    let x := copyOf j.iss.desc
    j.out.foldl (fun s req => match findCopy s n (BitVec.ofNat 16 j.iss.id), spanOf x j.src j.dst req with
      | some j, some w =>
        if (spanPages x w).any (fun a => pages (pageOf a.1)) && ((x.srcLoc != 3 && x.srcLoc != 4) || (mapGet? j.held req).isSome) then
          requestDone s n j req (.local [] [])
        else s
      | _, _ => s) s) s

/-- R218: block requests of the gather unit to a page of `pages` are carried out. -/
def finishGathers (s : State) (n c : Nat) (pages : Nat → Bool) : State :=
  let ks := ((getC s n).gather.map (·.blk)).filter fun k => pages (k / 8192)
  if ks.isEmpty then s
  else pumpGather ((List.range 8).foldl (fun s t => threadOn s n t) (ks.foldl (fun s k => arrive s n c [] k) s)) n

/-- R218: every access on the module that a context has under way to pages of its own is carried out (assumption log 140). -/
def finishAccesses (s : State) (c : Nat) (pages : Nat → Bool) : State :=
  (coresOf s c).foldl (fun s n => wakeCore (finishGathers (finishCopies s n pages) n c pages) n) s

/-- R218: the entries `[v, v + k)` of a context, by virtual page, change: accesses made through them complete first. -/
def changeEntries (s : State) (c v k : Nat) : State :=
  finishAccesses s c fun p => decide (c * 2 ^ 21 + v ≤ p) && decide (p < c * 2 ^ 21 + v + k)

/-! ### MAP, UNMAP -/

/-- Valid window entries of a Page Map (R217). -/
def windowCount (m : AMap (BitVec 64)) : Nat := (m.filter fun e => isWindow e.2).length

/-- The local page of a partition is mapped by some entry. -/
def pageMapped (m : AMap (BitVec 64)) (p pg : Nat) : Bool :=
  m.any fun e => isLocal e.2 && entField e.2 9 2 == p && entField e.2 13 18 == pg

/-- R216, R217, R431: the status with which an item is refused, none when it is taken. `m`: the map with the earlier
items; `quar`: pages that they have freed into quarantine. -/
def itemBad (s : State) (c : Nat) (x : Context) (m : AMap (BitVec 64)) (quar : List Nat) (it : MapItem) : Option (BitVec 8) :=
  let e := it.entry
  let i := x.pmBase.toNat + it.index.toNat
  let ty := entField e 1 2
  if x.pmLen.toNat ≤ it.index.toNat then some stBadArg
  else if !e.getLsbD 0 then none
  else if entField e 3 6 ≠ c ∨ entField e 9 2 ≠ x.part ∨ ty = 3 then some stBadArg
  else if ty = 0 then
    if entField e 31 33 ≠ 0 ∨ partPages s ≤ entField e 13 18 then some stBadArg
    else if pageMapped m x.part (entField e 13 18) || (s.mem.quar.getD x.part [] ++ quar).contains (entField e 13 18) then some stDenied
    else none
  else if e.getLsbD 11 ∨ (ty = 2 ∧ entField e 49 15 ≠ 0) then some stBadArg
  else if ty = 2 && isConf s x.part && !s.sec.ide.getLsbD x.part then some stDenied
  else if 20992 ≤ windowCount (mapErase m i) then some stNoResource
  else none

/-- R217: the items in request order: the map they leave, or the first refusal. -/
def takeItems (s : State) (c : Nat) (x : Context) :
    Nat → AMap (BitVec 64) → List Nat → List MapItem → Except (Nat × BitVec 8) (AMap (BitVec 64))
  | _, m, _, [] => .ok m
  | k, m, quar, it :: t =>
    match itemBad s c x m quar it with
    | some st => .error (k, st)
    | none =>
      let i := x.pmBase.toNat + it.index.toNat
      let old := mapGet m i 0
      takeItems s c x (k + 1) (if it.entry.getLsbD 0 then mapSet m i it.entry else mapErase m i)
        (if isConf s x.part && isLocal old then entField old 13 18 :: quar else quar) t

/-- R218, R263: one item takes effect: the old page is released, cached translations go, and a peer window's generation
is written beside it (a value the specification does not give: assumption log 16). -/
def mapOne (s : State) (c : Nat) (it : MapItem) : State :=
  let x := getCtx s c
  let i := x.pmBase.toNat + it.index.toNat
  let s := unmapEntries (changeEntries s c it.index.toNat 1) c i 1
  if !it.entry.getLsbD 0 then s
  else
    let s := modMem s fun m => { m with pmap := mapSet m.pmap i it.entry }
    if entField it.entry 1 2 = 1 then
      let g := drawFree s 16
      modMem g.2 fun m => { m with wgen := mapSet m.wgen i g.1 }
    else s

/-- R355, R217, R286: MAP takes all of its items or none. -/
def ansMap (r : Req) (items : List MapItem) (s : State) : Answer :=
  withCtx s r fun c x =>
    if !within 1 250 items.length then err s stBadArg 0
    else match takeItems s c x 0 s.mem.pmap [] items with
      | .error (k, st) => err s st k
      | .ok _ => ok (applyRegions (items.foldl (fun s it => mapOne s c it) s) c) []

def execMap (r : Req) (items : List MapItem) (s : State) : Host.Outcome State Fault Refusal :=
  if wellFormed (.map r items) then done (serve 0x0205 setWork r (.map r items) (ansMap r items) s)
  else .fault (.illFormed "MAP")

/-- R355, R218: UNMAP. -/
def ansUnmap (r : Req) (first count : BitVec 32) (s : State) : Answer :=
  withOpen s r fun c x =>
    if x.pmLen.toNat < first.toNat + count.toNat then err s stBadArg 0
    else ok (unmapEntries (changeEntries s c first.toNat count.toNat) c (x.pmBase.toNat + first.toNat) count.toNat) []

def execUnmap (r : Req) (first count : BitVec 32) (s : State) : Host.Outcome State Fault Refusal :=
  done (serve 0x0206 setLive r (.unmap r first count) (ansUnmap r first count) s)

end Sys2Proof.Machine
end

