-- ==== Sys2Proof/Machine/Memory.lean ====
section
/-! DEFINITION. The memory controllers: block reads and writes (R205 to R208, R414, R415), scrub (R209), attribution of CRC
failures (R210), migration (R211, R212), the failure of a channel (R213). -/

namespace Sys2Proof.Machine

/-- Symbol errors as the controller meets them. -/
def symErrs (l : List (Fin 260 × Byte)) : SymErr := l.map fun p => (p.1.val, p.2)

/-- R212: a position serves accesses to a block of its channel. -/
def serves (s : State) (p j : Nat) (wr : Bool) : Bool :=
  match (getCtrl s p).chan with
  | some ch => servePos s ch (j / 16) wr == p
  | none => s.mem.migs.any fun g => g.target == p && servePos s g.chan (j / 16) wr == p

/-! ### Contents of a channel (R201 to R203, R224) -/

/-- R202: the 8 metadata bytes of block `j` of a position: the check bytes of its halves, then its stored CRC, or its tag. -/
def blockMeta (m : Mem) (p j : Nat) : Bytes :=
  let d := memRead m.cells (cellAddr p (256 * j)) 256
  let half := fun (b : Bytes) => [(rsCheck b).1, (rsCheck b).2]
  half (d.take 128) ++ half (d.drop 128) ++ leBytes 4 (match mapGet? m.sealKey (blockKey p j) with
    | some k => Config.blockTag k p j d
    | none => crc32c d ^^^ mapGet m.bad (blockKey p j) 0).toNat

/-- R201: the byte at a channel address of a position. -/
def channelByte (m : Mem) (p addr : Nat) : Byte :=
  if addr < 0xF8000000 then memGet m.cells (cellAddr p addr)
  else if addr < 0xFFC00000 then (blockMeta m p ((addr - 0xF8000000) / 8)).getD (addr % 8) 0
  else if addr < 0xFFFE0000 then (leBytes 4 (mapGet m.unit (unitKey p ((addr - 0xFFC00000) / 4)) 0).toNat).getD (addr % 4) 0
  else Config.chanRecord p (addr - 0xFFFE0000)

/-! ### Block accesses (R197, R205, R207, R384, R414, R415) -/

/-- R384: an operation of a context with a generation that is not current is discarded. -/
def currentGen (s : State) (ctx : Option Nat) (gen : BitVec 16) : Bool :=
  match ctx with
  | some c => (getCtx s c).cgen == gen
  | none => true

/-- The key set of an operation; one that names no context has none in a confidential partition. -/
def opKey (s : State) (p : Nat) (ctx : Option Nat) (epoch : Bool) : Option Nat :=
  match ctx with
  | some c => ctxKey s c epoch
  | none => if ((chanAt s p).map fun n => isConf s (chanPart s n)).getD false then some 1000000 else none

/-- R197: a burst has failed its error detection code a fifth time: an uncorrectable detection. What the last burst brought of the
data is open (assumption log 139). -/
def burstLost (s : State) (p : Nat) (b : Block) : State × Block :=
  let s' := modCtrl s p fun k => { k with uncorr := k.uncorr + 1 }
  (tally { s' with free := s.free + 256 } (136 + p) [(0x408 + 24 * p, 1)],
   { b with data := (List.range 256).map fun i => Config.freeValue (s.free + i) 8 })

/-- R205, R384, R414: a block is read. `fails`: bursts that failed on the link. -/
def memRd (s : State) (p j : Nat) (epoch : Bool) (ctx : Option Nat) (gen : BitVec 16) (e1 e2 : SymErr) (fails : Nat) : State :=
  if !serves s p j false then s
  else if !currentGen s ctx gen then emit s (.memData p j none)
  else
    let r := controllerRead s p j (opKey s p ctx epoch) e1 e2
    let s := match ctx with
      | some c => if r.2.tagFail then countTag r.1 c else r.1
      | none => r.1
    let q := if 5 ≤ fails then burstLost s p r.2.block else (s, r.2.block)
    emit q.1 (.memData p j (some q.2))

def execMemoryRead (p : Pos) (j : Fin 16252928) (epoch : Bool) (ctx : Option Ctx) (gen : BitVec 16)
    (err1 : List (Fin 260 × Byte)) (again : ReadAgain) (s : State) : Host.Outcome State Fault Refusal :=
  doneMem (memRd s p.val j.val epoch (ctx.map (·.val)) gen (symErrs err1) (symErrs again.errs) again.linkFails.val)

/-- R207, R212, R415: a whole block is written; in a confidential partition one with a wrong CRC is refused. `fails`: bursts that
failed on the link. -/
def memWr (s : State) (p j : Nat) (epoch : Bool) (ctx : Option Nat) (gen : BitVec 16) (b : Block) (fails : Nat) : State :=
  let key := opKey s p ctx epoch
  if !serves s p j true || !currentGen s ctx gen || (key.isSome && !blockOk b) then s
  else
    let q := if 5 ≤ fails then burstLost s p b else (s, b)
    let s := match chanAt s p with
      | some ch => awaitCopy q.1 ch (j / 16)
      | none => q.1
    controllerWrite s p j key false q.2

def execMemoryWrite (p : Pos) (j : Fin 16252928) (epoch : Bool) (ctx : Option Ctx) (gen : BitVec 16) (x : BlockOut)
    (s : State) : Host.Outcome State Fault Refusal :=
  if wellFormed (.memoryWrite p j epoch ctx gen x) then
    done (memWr s p.val j.val epoch (ctx.map (·.val)) gen x.blk x.linkFails.val)
  else .fault (.illFormed "MEMORY_WRITE")

/-! ### Scrub (R209) -/

/-- R209: a correction is written back: what it leaves of the errors is stored with the block's CRC as it was. -/
def writeBack (m : Mem) (p j : Nat) (left : SymErr) : Mem :=
  let d := memRead m.cells (cellAddr p (256 * j)) 256
  let d' := withErrs left d
  if d' = d then m
  else
    let k := blockKey p j
    let x := mapGet m.bad k 0 ^^^ crc32c d ^^^ crc32c d'
    { m with
      cells := memWrite m.cells (cellAddr p (256 * j)) d'
      bad := if x = 0 then mapErase m.bad k else mapSet m.bad k x
      sealKey := if (mapGet? m.sealKey k).isSome then mapSet m.sealKey k 1000001 else m.sealKey }

/-- The pointer moves to the next block, in slot order. -/
def nextScrub (k : Ctrl) : Ctrl :=
  if k.scrubBlk = 15 then { k with scrubBlk := 0, scrubPtr := if k.scrubPtr.toNat + 1 = slotsPerChan then 0 else k.scrubPtr + 1 }
  else { k with scrubBlk := k.scrubBlk + 1 }

/-- R209: the patrol scrub reads its next block. -/
def scrubNext (s : State) (p : Nat) (e1 e2 : SymErr) : State :=
  let k := getCtrl s p
  match (if k.role == .inService && !s.mem.migs.any (fun g => g.source == p) then k.chan else none) with
  | none => s
  | some _ =>
    match takeTokens s (p / 20) 3 1 with
    | none => holdTokens s (p / 20) 3
    | some s =>
      let j := 16 * k.scrubPtr.toNat + k.scrubBlk.toNat
      let q := injectedErrs s p j
      let e1 := e1 ++ q.2
      let r := controllerRead q.1 p j none e1 e2
      let c := readErrs e1 e2
      let s := if c.2.1 = 0 then r.1 else modMem r.1 fun m => writeBack m p j c.1
      modCtrl s p nextScrub

def execScrub (p : Pos) (err1 err2 : List (Fin 260 × Byte)) (s : State) : Host.Outcome State Fault Refusal :=
  done (scrubNext s p.val (symErrs err1) (symErrs err2))

/-! ### Attribution (R210) -/

/-- R485: the body of MEM_DATA_LOSS. -/
def lossBody (va step : Nat) (ch : Nat) : Bytes := leBytes 8 va ++ leBytes 8 step ++ [BitVec.ofNat 8 ch]

/-- R210: the Belfry has read a block twice again after a consumer's CRC failure. -/
def attribCrc (s : State) (c : Nat) (va : BitVec 48) (ok : Bool) : State :=
  match translate s c va with
  | .localPage p pg off _ _ =>
    let q := placeByte s p pg off
    let pos := servePos s q.1 (q.2 / 4096) false
    let s := modCtrl s pos fun k => touchLine { k with rd := k.rd + 2 } (metaAddr (q.2 / 256)) false
    if ok then modCtrl s pos fun k => { k with crcTransport := k.crcTransport + 1 }
    else
      let s := modCtrl s pos fun k => { k with crcMemory := k.crcMemory + 1 }
      let s := recordEvent s 2 0x21 2 (136 + pos) (some c) [(0x40C + 24 * pos, 1)] none
      postNotice s 0x0004 (some c) (lossBody va.toNat ((getCtx s c).led.committed.toNat + 1) q.1)
  | _ => s

def execCrcAttribution (c : Ctx) (va : BitVec 48) (ok1 ok2 : Bool) (s : State) : Host.Outcome State Fault Refusal :=
  done (if belfryUp s then attribCrc s c.val va (ok1 && ok2) else s)

/-! ### Migration (R198, R211) -/

/-- R200, R401: a position is marked failed for good. -/
def failPos (s : State) (p : Nat) : State :=
  let s := modCtrl s p fun k => { k with role := .failed, chan := none, due := none, selfRefresh := false, training := false }
  lifeEvent (modDiag s fun d => { d with life := mapSet d.life (0x414 + 24 * p) (mapGet d.life (0x414 + 24 * p) 0 / 2 * 2 + 1) })

/-- R401: a position is switched in. -/
def countSwitchIn (s : State) (p : Nat) : State := lifeAdd (lifeAdd s (0x414 + 24 * p) 256) 0x30 1

/-- R211 steps 1 and 2: a due action of a channel begins. `ok`: the target came to service. -/
def migStart (s : State) (ch : Nat) (mapOut ok : Bool) : State :=
  let src := chanPos s ch
  let e := s.hub.chanMap.getD ch { ctrl := 0, status := .unmapped }
  match (if e.status == .inService && belfryUp s && (getCtrl s src).due == some mapOut then posGroup s src else none) with
  | none => s
  | some g =>
    match (if groupBusy s g then none else groupSpare s g) with
    | none => s
    | some t =>
      if !ok then failPos s t
      else
        let s := recordEvent s 2 0x22 2 (136 + src) none [] (some (0, if mapOut then 20 else 5))
        let s := modHub s fun h => setChanMap h ch { e with status := .migrating }
        let s := modCtrl s src fun k => { k with role := .migrating, migPtr := 0, due := none, noSpare := false }
        let s := modCtrl s t fun k => { k with role := .migrating, migPtr := 0, selfRefresh := false }
        modMem s fun m => { m with migs := { chan := ch, source := src, target := t, mapOut := mapOut } :: m.migs }

def execMigrationStart (ch : Chan) (mapOut targetOk : Bool) (s : State) : Host.Outcome State Fault Refusal :=
  done (migStart s ch.val mapOut targetOk)

/-- The migration of a channel. -/
def migOf (s : State) (ch : Nat) : Option Migration := s.mem.migs.find? fun g => g.chan == ch

/-- R211 steps 3 and 4: the slot at MEM_MIG_PTR is copied, as reads and writes of at most 8 blocks of the background class. -/
def migCopy (s : State) (ch : Nat) (e1 e2 : Nat → SymErr) : State :=
  match migOf s ch with
  | none => s
  | some g =>
    let sl := (getCtrl s g.source).migPtr.toNat
    let d := g.source / 20
    if slotsPerChan ≤ sl then s
    else match takeAll d 3 [8, 8, 8, 8] s with
      | none => holdTokens s d 3
      | some s => copySlot s g.source g.target sl e1 e2

/-- The symbol errors of block `i` of a slot. -/
def slotErrs (l : List (Fin 16 × Fin 260 × Byte)) (i : Nat) : SymErr := symErrs ((l.filter fun p => p.1.val == i).map (·.2))

def execMigrationSlotCopy (x : SlotRead) (s : State) : Host.Outcome State Fault Refusal :=
  done (migCopy s x.chan.val (slotErrs x.err1) (slotErrs x.err2))

/-- Data of a position from a slot on reads zero. -/
def clearFrom (m : Mem) (p sl : Nat) : Mem :=
  { m with
    cells := memClear m.cells (cellAddr p (4096 * sl)) (cellAddr (p + 1) 0)
    bad := m.bad.filter fun q => decide (q.1 < blockKey p (16 * sl)) || decide (blockKey (p + 1) 0 ≤ q.1)
    sealKey := m.sealKey.filter fun q => decide (q.1 < blockKey p (16 * sl)) || decide (blockKey (p + 1) 0 ≤ q.1)
    unit := m.unit.filter fun q => decide (q.1 < unitKey p sl) || decide (unitKey (p + 1) 0 ≤ q.1) }

/-- R210: retrainings of the last 24 hours. -/
def recentRetrains (s : State) (k : Ctrl) : List Nat := k.retrains.filter fun t => decide (s.ticks < t + 24 * hourTicks)

/-- R211 step 6: the old position is retrained, or marked failed. -/
def retireSource (s : State) (p : Nat) (mapOut : Bool) (rate : BitVec 2) (eye : Word) : State :=
  let s := modMem s fun m => clearFrom m p 0
  if mapOut then failPos s p
  else
    let k := getCtrl s p
    let rs := s.ticks :: recentRetrains s k
    let s := lifeAdd (setCtrl s p { k with
      chan := none, role := .spare, retrain := k.retrain + 1, retrains := rs, rate := rate, eye := eye
      selfRefresh := true, lines := [], migPtr := 0 }) (0x410 + 24 * p) 1
    if !trainedOk rate eye ∨ s.mem.policy.retrainLimit < rs.length then failPos s p else s

/-- R211 steps 5 and 6: the map names the target. -/
def migDone (s : State) (ch : Nat) (rate : BitVec 2) (eye : Word) : State :=
  match migOf s ch with
  | none => s
  | some g =>
    if (getCtrl s g.source).migPtr.toNat < slotsPerChan then s
    else
      let s := mapChange s fun h => setChanMap h ch { ctrl := g.target % 20, status := .inService }
      let s := modMem s fun m => { m with migs := m.migs.filter fun q => q.chan != ch }
      let s := modCtrl s g.target fun k => { k with role := .inService, chan := some ch, migPtr := 0, scrubPtr := 0, scrubBlk := 0 }
      let s := retireSource (countSwitchIn s g.target) g.source g.mapOut rate eye
      postNotice s 0x000A none (channelBody ch (g.source % 20) (some (g.target % 20)) (if g.mapOut then 2 else 1))

def execMigrationComplete (ch : Chan) (rate : BitVec 2) (eye : Word) (s : State) : Host.Outcome State Fault Refusal :=
  done (migDone s ch.val rate eye)

/-! ### Failure of a channel (R213, R200) -/

/-- Contexts of a partition are fenced for a channel that is lost; they may leave FENCED once the channel has returned, and every
other channel of the partition has its controller. -/
def fenceChan (s : State) (p : Nat) (back : Bool) : State :=
  let cs := openCtxs s p
  let s := cs.foldl (fun s c => fenceDomain s c 4) s
  let lost := (List.range (chanCount s)).any fun n =>
    chanPart s n == p && (s.hub.chanMap.getD n { ctrl := 0, status := .unmapped }).status == .mappedOut
  if back && !lost then cs.foldl (fun s c => modCtx s c fun x => { x with domains := x.domains &&& 0x2F }) s else s

/-- R213 step 1: the address lies on a channel. -/
def onChannel (s : State) (ctx ch : Nat) (a : BitVec 48) : Bool :=
  match translate s ctx a with
  | .localPage p pg off _ _ => (placeByte s p pg off).1 == ch
  | _ => false

/-- R213 step 1: an outstanding request of a COPY to the channel has ended with an error. -/
def loseRequests (s : State) (n ch : Nat) (j : CopyJob) : State :=
  let ctx := (jobStream s n j.iss).ctx
  let lost := j.out.filter fun r => (mapGet? j.wr r).isNone && match spanOf (copyOf j.iss.desc) j.src j.dst r with
    | some w => (spanPages (copyOf j.iss.desc) w).any fun a => onChannel s ctx ch a.1
    | none => false
  if lost.isEmpty then s
  else
    let q := failCopy (countCeCrc s n lost.length) n j 0x07
    endCopy (setCopy q.1 n (lost.foldl freeRequest q.2)) n j.iss.id

/-- R213 step 1, R123: the requests of a core that are outstanding to the channel end with an error: its COPYs fail with cause 0x07,
its vector descriptors as for an input CRC failure. -/
def loseAccesses (s : State) (n ch : Nat) : State :=
  let s := (getC s n).copies.foldl (fun s j => loseRequests s n ch j) s
  let ctx := (getC s n).ctx.getD 0
  let ks := ((getC s n).gather.map (·.blk)).filter fun k => onChannel s ctx ch (BitVec.ofNat 48 (256 * k))
  if ks.isEmpty then s
  else
    let bad : Block := { data := List.replicate 256 0, crc := 0 }
    let s := modC s n fun c => ks.foldl (fun c k => deliver k bad c) c
    wakeCore (pumpGather ((List.range 8).foldl (fun s t => threadOn s n t) s) n) n

/-- R213: a channel fails outright: its data is lost; a spare takes it zero-filled, or, in a migration, the target with the
slots it already has. -/
def channelLost (s : State) (ch : Nat) : State :=
  let e := s.hub.chanMap.getD ch { ctrl := 0, status := .unmapped }
  if ch ≥ chanCount s ∨ (e.status ≠ .inService ∧ e.status ≠ .migrating) then s
  else
    let src := chanPos s ch
    let g := migOf s ch
    let ptr := (getCtrl s src).migPtr.toNat
    let s := recordEvent s 2 0x23 3 (136 + src) none [] none
    let s := (partCores s (chanPart s ch)).foldl (fun s n => loseAccesses s n ch) s
    let s := modMem s fun m => { m with migs := m.migs.filter fun q => q.chan != ch }
    let new := match g with
      | some g => some (g.target, ptr)
      | none => ((posGroup s src).bind (groupSpare s)).map fun t => (t, 0)
    let s := failPos (modMem s fun m => clearFrom m src 0) src
    match new with
    | some (t, keep) =>
      let s := modMem s fun m => clearFrom m t keep
      let s := modCtrl s t fun k => { k with
        role := .inService, chan := some ch, migPtr := 0, selfRefresh := false, scrubPtr := 0, scrubBlk := 0 }
      let s := mapChange s fun h => setChanMap h ch { ctrl := t % 20, status := .inService }
      let s := fenceChan (countSwitchIn s t) (chanPart s ch) true
      postNotice s 0x000A none (channelBody ch (src % 20) (some (t % 20)) 3)
    | none =>
      let s := mapChange s fun h => setChanMap h ch { e with status := .mappedOut }
      let s := fenceChan s (chanPart s ch) false
      postNotice s 0x000A none (channelBody ch (src % 20) none 4)

def execChannelFail (ch : Chan) (s : State) : Host.Outcome State Fault Refusal := done (channelLost s ch.val)

end Sys2Proof.Machine
end

