-- ==== Sys2Proof/Machine/Replay.lean ====
section
/-! DEFINITION. Resolution of held replay slots (R126 to R131), core retirement (R132 to R134), the rollout of sequencer
microcode (R375). -/

namespace Sys2Proof.Machine

/-! ### Results of reruns (R127, R128) -/

/-- R128: the step whose rerun was ordered ended without passing: the slot waits for the next step. -/
def holdFor (s : State) (n k : Nat) (r : Replay) (step : Nat) : State :=
  let s := leaveGuest s r
  let l := getL s n
  setL s n { l with
    replay := l.replay.setIfInBounds k (some { r with st := .held, step := step, other := none, want := [], guest := [] })
    pending := true }

/-- R128: the verdict "inputs suspect"; at step 3 it is step 4. -/
def suspectInputs (s : State) (n k : Nat) (r : Replay) : State :=
  if r.step = 3 then markBad s n k
  else holdFor (modCnt s n fun q => { q with input := q.input + 1 }) n k r 3

/-- R132: a slot has a verdict that retires it; CORE_RETIRE carries it out. -/
def verdict (s : State) (p : Nat) (cause : BitVec 8) : State :=
  modHub s fun h => { h with retire := if (mapGet? h.retire p).isSome then h.retire else mapSet h.retire p cause }

/-- A slot is taken for the known-answer self-test. -/
def toTest (s : State) (p : Nat) : State :=
  modHub s fun h => { h with slotTesting := if h.slotTesting.contains p then h.slotTesting else p :: h.slotTesting }

/-- R127: a rerun passed and its result is in place: the slot is freed and the original semaphore signalled. -/
def replayPassed (s : State) (n k : Nat) (r : Replay) : State :=
  let s := if opcodeOf r.iss.desc = opVec then releaseBanks (freeReplay s n k) n r.iss r.recs else freeReplay s n k
  completeIssued (launchPass s n) n r.iss

/-- R128: a transient: counted, recorded, and evidence of kind I (R401, R402). -/
def countTransient (s : State) (n : Nat) (ctx : Nat) : State :=
  let p := physOf s n
  recordEvent (modCnt s n fun q => { q with transient := q.transient + 1 }) 1 0x11 1 p (some ctx) [(0x0B80 + 16 * p + 4, 1)] (some (0, 2))

/-- R128: a rerun's capture of the failing unit equals the original one. -/
def sameCapture (r : Replay) (f : Capture) : Bool :=
  r.unit == f.unit && r.row == f.row && r.check == f.check && r.bound == f.bound && r.tree == f.tree && r.values == f.values

/-- R128: at step 2 the failing unit shows what it showed before: for a comparison its checker value, for another check its
capture. -/
def failsAlike (r : Replay) (f : Capture) : Bool :=
  if r.cause = 1 ∨ r.cause = 2 then r.check == f.check
  else r.cause == f.cause && sameCapture r f

/-- R128, R132: a rerun failed again. -/
def replayFailed (s : State) (n k : Nat) (r : Replay) (f : Capture) : State :=
  if f.cause = 8 then suspectInputs s n k r
  else match r.step with
    | 1 => holdFor s n k r 2
    | 2 =>
      if failsAlike r f then suspectInputs s n k r
      else if 3 ≤ r.cause.toNat ∧ r.cause.toNat ≤ 7 ∧ f.cause = r.cause then holdFor (verdict s (physOf s n) r.cause) n k r 2
      else markBad (toTest (match r.other with
        | some p => toTest s p
        | none => s) (physOf s n)) n k
    | _ => markBad s n k

/-- R128: the rerun of a slot has ended, with its result placed (R127). -/
def replayDone (s : State) (n k : Nat) (f : RerunFault) : State :=
  match (getL s n).replay.getD k none with
  | none => s
  | some r =>
    if r.st ≠ .running ∨ !inService s n then s
    else
      let p := if r.step = 2 then r.other.getD (physOf s n) else physOf s n
      let count := fun (s : State) => lifeAdd (modCntP s p fun k => { k with replay := k.replay + 1 }) (0x0B80 + 16 * p + 8) 1
      let next := fun (s : State) => match servedBy s p with
        | some m => if m = n then s else wakeCore (launchPass s m) m
        | none => s
      match rerun s n p r f with
      | .wait => s
      | .access t e => next (dropIssued (haltStream (freeReplay (count t) n k) n r.iss.slot e (tagOf r.iss.desc) r.iss.pc) n r.iss)
      | .failed t c => next (replayFailed (count t) n k r c)
      | .passed t =>
        let ctx := (getStream (getC s n) r.iss.slot).ctx
        let t := count t
        let t := if r.step = 1 then countTransient t n ctx else if r.step = 2 then verdict t (physOf t n) r.cause else t
        next (replayPassed t n k r)

def execReplayResult (c : Core) (n : Fin 4) (f : RerunFault) (s : State) : Host.Outcome State Fault Refusal :=
  if wellFormed (.replayResult c n f) then doneMem (wakeCore (replayDone s c.val n.val f) c.val)
  else .fault (.illFormed "REPLAY_RESULT")

/-- R131: a slot not resolved 1 ms after the original failure takes step 4. -/
def replayTimeout (s : State) (n k : Nat) : State :=
  match (getL s n).replay.getD k none with
  | some r => if 1000 * ticksPerUs ≤ ticksSince s.time.now r.since then markBad s n k else s
  | none => s

def execReplaySlotTimeout (c : Core) (n : Fin 4) (s : State) : Host.Outcome State Fault Refusal :=
  doneMem (wakeCore (replayTimeout s c.val n.val) c.val)

/-! ### Moving a logical core to another slot (R133) -/

/-- R133: work in flight on the engines is abandoned: it starts again, and its banks hold what they held before. -/
def restartWork (c : PCore) : PCore :=
  let c := c.lr.foldl (fun c j =>
    if !j.started then c
    else
      let x := mmaOf j.iss.desc
      setBank c x.bank (if x.acc then (j.start.map fun b => { b with st := .kept }).getD Bank.reset
        else { Bank.reset with relIssued := (getBank c x.bank).relIssued })) c
  { c with
    lr := c.lr.map fun j => { j with started := false, pass := 0, going := false, parity := 0, draining := false, start := none }
    stat := [], trans := [], gather := [], gatherQ := []
    threads := c.threads.map fun j => j.map fun v =>
      { v with grp := 0, out := true, blks := [], came := [], got := [], acks := 0, ended := false } }

/-- R133: what moves to the new slot: stage buffer, operand cache, banks, semaphores, streams, seed, copy log, and the work to be
issued again there. -/
def movedSlot (old : PCore) : PCore :=
  let c := restartWork old
  { PCore.reset with
    ctx := c.ctx, gen := c.gen, seed := c.seed, sems := c.sems
    streams := c.streams.map fun t => { t with prog := 0 }, err := c.err, errValid := c.errValid, errQ := c.errQ
    stage := c.stage, stageBad := c.stageBad, cache := c.cache, cacheBad := c.cacheBad, banks := c.banks
    lr := c.lr, mv := c.mv, threads := c.threads, copies := c.copies, copyLog := c.copyLog
    ceLast := c.ceLast, nextId := c.nextId, turns := c.turns, prefer := c.prefer, bankCap := c.bankCap, frozen := c.frozen }

/-- Threads that have to ask for their data again. -/
def askAgain (s : State) (n : Nat) : State :=
  (List.range 8).foldl (fun s t => match (getC s n).threads.getD t none with
    | some j => if j.out && j.blks.isEmpty then askGroup s n t j else s
    | none => s) s

/-- R133 steps 1 to 5: a logical core moves to slot `q`. -/
def moveCore (s : State) (n q : Nat) : State :=
  let p := physOf s n
  let s := setP s q (movedSlot (getP s p))
  let s := resetSlot s p
  coreChange s fun h => setCoreMap h n { phys := q, status := .inService }

/-- R133 steps 6 and 7: held descriptors are marked for reissue, without further steps, and go as their engines have room; the
streams resume. -/
def resumeMoved (s : State) (n : Nat) : State :=
  let s := (List.range 4).foldl (fun s k => match (getL s n).replay.getD k none with
    | some r => setReplay (leaveGuest s r) n k (some { r with st := .held, step := 0, other := none, want := [], guest := [] })
    | none => s) s
  wakeCore (reissueAll (askAgain s n) n) n

/-- R132 to R134: the slot of a logical core is retired on its verdict. -/
def retireCore (s : State) (n : Nat) : State :=
  let p := physOf s n
  match (if inService s n then mapGet? s.hub.retire p else none) with
  | none => s
  | some cause =>
    let s := modHub s fun h => { h with retire := mapErase h.retire p }
    match (freeSpares s (n / 32)).head? with
    | some q =>
      let s := moveCore s n q
      let s := lifeAdd (markRetired s p cause (cause != 0)) 0x2C 1
      resumeMoved (postNotice s 0x0009 none (retiredBody n p (some q) cause)) n
    | none =>
      let s := (List.range 4).foldl (fun s k => markBad s n k) s
      let s := stopStreams s n false fun _ => true
      retireLogical (markRetired (resetSlot s p) p cause (cause != 0)) n p cause

def execCoreRetire (c : Core) (s : State) : Host.Outcome State Fault Refusal := done (retireCore s c.val)

/-! ### Microcode (R375) -/

/-- R375, R390: the lowest core that can move next: its die has a free spare, it holds no replay slot, and its context is not being
fenced. -/
def rollNext (s : State) : Option Nat :=
  (getImage s 2).pending.find? fun n => hasSpare s n && slotsHeld s n == 0 &&
    !((getC s n).ctx.any fun c => (getCtx s c).st == .fencing)

/-- R375: one core takes the new microcode: it moves to a free spare that has loaded it. -/
def rollCore (s : State) (n : Nat) : State :=
  match s.hub.actReq with
  | some (_, 2, _) =>
    if recovering s || rollNext s != some n then s
    else match (freeSpares s (n / 32)).head? with
      | some q =>
        let p := physOf s n
        let s := resumeMoved (moveCore s n q) n
        let s := modHub s fun h => { h with newSlots := p :: q :: h.newSlots.filter fun x => x != p && x != q }
        rollDone (modImage s 2 fun i => { i with pending := i.pending.filter (· != n), done := i.done + 1 })
      | none => s
  | _ => s

def execMicrocodeRollCore (c : Core) (s : State) : Host.Outcome State Fault Refusal := done (rollCore s c.val)

end Sys2Proof.Machine
end

