-- ==== Sys2Proof/Machine/Selftest.lean ====
section
/-! DEFINITION. Self-tests (R128, R383, R404) and audit replay (R134 to R137). -/

namespace Sys2Proof.Machine

/-! ### The known-answer and the clearance self-test (R359, R402, R404) -/

/-- R404: a unit that failed, by dump index (R399), is handled by its own rule: a slot is retired (R132), a position mapped
out (R210). -/
def failUnit (s : State) (u : Nat) : State :=
  if u < 136 then
    match servedBy s u with
    | some _ => verdict s u 0
    | none => if s.hub.slotRetired.contains u then s else retireSpare s u 0
  else if u < 216 then modCtrl s (u - 136) fun k => if k.role = .inService then { k with due := some true } else k
  else s

/-- RESULT and the failing units (assumption log 23). -/
def resultBody (l : List Nat) : Bytes :=
  [if l.isEmpty then 0 else 1, BitVec.ofNat 8 l.length] ++ l.flatMap (leBytes 2)

/-- R402: a clearance self-test that passes clears the evidence. -/
def clearEvidence (s : State) : State := setHealth (modDiag s fun d => { d with evid := [] }) .healthy

/-- R386: every generation is bumped when a clearance self-test ends. -/
def bumpAll (s : State) : State := { s with ctxs := s.ctxs.map fun x => { x with cgen := x.cgen + 1 } }

def ansSelftest (kind core : BitVec 8) (failing : List (Fin 272)) (s : State) : Answer :=
  let l := failing.map (·.val)
  if kind = 0 then
    let n := core.toNat
    if 128 ≤ n then err s stBadArg 0
    else if !inService s n then err s stFenced 0
    else
      let p := physOf s n
      if l.contains p then ok (failUnit s p) (resultBody [p]) else ok s (resultBody [])
  else if kind = 1 then
    if (List.range 64).any fun c => (getCtx s c).st != .closed then conflict s 5 1 0
    else
      let s := lifeAdd (bumpAll (l.foldl failUnit s)) (if l.isEmpty then 0x3C else 0x3E) 1
      ok (if l.isEmpty then clearEvidence s else s) (resultBody l)
  else err s stBadArg 0

def execSelftest (r : Req) (kind core : BitVec 8) (failing : List (Fin 272)) (s : State) : Host.Outcome State Fault Refusal :=
  done (serve 0x0604 setLive r (.selftest r kind core failing) (ansSelftest kind core failing) s)

/-- R128, R132, R383: the self-test of a slot ends: it returns to work, or is retired. -/
def testDone (s : State) (p : Nat) (pass : Bool) : State :=
  if !s.hub.slotTesting.contains p then s
  else
    let s := modHub s fun h => { h with slotTesting := h.slotTesting.erase p }
    match servedBy s p with
    | some n => if pass then wakeCore s n else verdict s p 0
    | none =>
      -- R383: a logical core that had no spare comes back to its slot, or is retired with it (R21)
      match (List.range 128).find? fun n => (coreEntry s n).status == .testing && physOf s n == p with
      | some n =>
        if pass then coreChange s fun h => setCoreMap h n { phys := p, status := .inService }
        else retireLogical (markRetired s p 0 false) n p 0
      | none => if pass then coreChange s fun h => h else retireSpare s p 0

def execSelftestComplete (p : PSlot) (pass : Bool) (s : State) : Host.Outcome State Fault Refusal := done (testDone s p.val pass)

/-! ### Audit replay (R136, R137) -/

/-- The audit ends: its hold is released. -/
def endAudit (l : Ledger) : Ledger := { l with auditing := none, auditRot := none, auditHold := false, auditDigest := [], auditGrads := [] }

/-- R136: the audit of a step starts on a rotated placement, or is skipped. -/
def auditStart (s : State) (c : Nat) : State :=
  let x := getCtx s c
  if x.led.auditing.isNone || x.led.auditCopy || x.led.auditRot.isSome || x.st != .opened then s
  else
    let cp := (partCores s x.part).length
    if cp ≤ 1 then modLed s c fun l => endAudit { l with auditSkipped := l.auditSkipped + 1 }
    else
      let r := ctxSetting s c 0x502
      if r % cp = 0 then
        modLed (logError s (0x0100 + (Config.logCode 0x12).setWidth 16) 0 0 264 (some c) []) c fun l => { l with auditRot := some 1 }
      else modLed s c fun l => { l with auditRot := some r }

def execAuditStart (c : Ctx) (s : State) : Host.Outcome State Fault Refusal := done (auditStart s c.val)

/-- R485: the body of AUDIT_MISMATCH. -/
def mismatchBody (step : BitVec 48) (clean : Option (BitVec 48)) : Bytes :=
  leBytes 8 step.toNat ++ leBytes 8 ((clean.map (·.toNat)).getD (2 ^ 64 - 1))

/-- R136, R137: the audit has recomputed: `grads`: the gradient digests, `digest`: the shard digest it found. -/
def auditDone (s : State) (c : Nat) (grads : List Bytes) (digest : Bytes) : State :=
  let x := getCtx s c
  match x.led.auditing, x.led.auditRot with
  | some step, some _ =>
    if grads == x.led.auditGrads && digest == x.led.auditDigest then modLed s c fun l => { endAudit l with lastAudit := some step }
    else
      let s := postNotice (modLed s c endAudit) 0x0003 (some c) (mismatchBody step x.led.lastAudit)
      let s := recordEvent s 1 0x13 2 264 (some c) [] (some (1, 25))
      (partCores s x.part).foldl (fun s n => toTest s (physOf s n)) s
  | _, _ => s

def execAuditComplete (c : Ctx) (grads : List Bytes) (digest : Bytes) (s : State) : Host.Outcome State Fault Refusal :=
  if wellFormed (.auditComplete c grads digest) then done (auditDone s c.val grads digest)
  else .fault (.illFormed "AUDIT_COMPLETE")

end Sys2Proof.Machine
end

