-- ==== Sys2Proof/Machine/Requests.lean ====
section
/-! DEFINITION. The mailbox protocol (R337 to R341, R344): a request buffer read as a command, handed over, released and
written; the requests that waited for the Belfry; reads of registers with their latches, and writes without effect. -/

namespace Sys2Proof.Machine

/-! ### A request buffer read as a command (R340, R353 to R359) -/

/-- `n` bytes of a body at `off` as a number. -/
def num (b : Bytes) (off n : Nat) : Nat := leNat (slice b off n)

/-- A field of a body, `w` bits wide. -/
def fld (b : Bytes) (off w : Nat) : BitVec w := BitVec.ofNat w (num b off ((w + 7) / 8))

/-- A count of the body, 0 where it lies outside 1 to `max`, so that the command finds no entry. -/
def countIn (n max : Nat) : Nat := if within 1 max n then n else 0

/-- R360: the setting records of a body: N (2), then 16 bytes each. -/
def bodyRecs (b : Bytes) : List Setting :=
  (List.range (countIn (num b 0 2) 253)).map fun i =>
    { key := fld b (2 + 16 * i) 16, scope := fld b (6 + 16 * i) 32, value := fld b (10 + 16 * i) 64 }

/-- R355: the items of MAP. -/
def bodyItems (b : Bytes) : List MapItem :=
  (List.range (countIn (num b 0 2) 250)).map fun i =>
    { index := fld b (2 + 16 * i) 32, entry := fld b (10 + 16 * i) 64 }

/-- R357: the extents of PEAL_TARGET. -/
def bodyExtents (b : Bytes) : List Extent :=
  (List.range (countIn (num b 1 1) 16)).map fun i => { va := fld b (2 + 16 * i) 64, bytes := fld b (10 + 16 * i) 64 }

/-- R405: the descriptor of RIMSHOT. -/
def bodyInjection (b : Bytes) : Injection :=
  { kind := fld b 0 8, target := fld b 2 16, sub := fld b 4 32, addr := fld b 8 64, count := fld b 0x10 16,
    intervalUs := fld b 0x12 16, durationUs := fld b 0x14 32, tFire := fld b 0x18 64 }

/-- R359: six pairs of a key and its initial vector. -/
def bodyIdeKeys (b : Bytes) : List Bytes := (List.range 6).map fun i => slice b (4 + 40 * i) 40

/-- R426: the members of SEC_E2E_KEY; a count beyond what a body holds is cut, and still exceeds 256. -/
def bodyMembers (b : Bytes) : List (BitVec 32) := (List.range (min (num b 41 2) 1004)).map fun i => fld b (43 + 4 * i) 32

/-- R423: the inner command of a SEALED request. -/
def innerOf (code : Nat) (b : Bytes) : InnerCmd :=
  match code with
  | 0x0902 => .jobKey (fld b 0 8) (slice b 1 32)
  | 0x0903 => .e2eKey (fld b 0 8) (slice b 1 32) (fld b 33 64) (bodyMembers b)
  | 0x0904 => .rotate (fld b 0 8) (fld b 1 8) (slice b 2 32)
  | 0x0907 => .secRead (fld b 0 32) (fld b 4 16)
  | 0x0908 => .ideKey (fld b 0 8) (fld b 1 8) (fld b 2 8) (bodyIdeKeys b)
  | 0x0003 => .noticeGet (fld b 0 8) (fld b 1 32)
  | 0x0601 => .logRead (fld b 0 32) (fld b 4 16)
  | 0x030A => .ledgerTimes (fld b 0 64) (fld b 8 8) (fld b 9 8)
  | 0x0701 => .pwrRead
  | n => .other (BitVec.ofNat 16 n)

/-- R421, R422: a SEALED request opened under the key of its session; an unknown SID or a failed tag opens nothing. -/
def sealedOf (s : State) (r : Req) (b : Bytes) : Instr :=
  let sid : BitVec 32 := fld b 1 32
  let sseq : BitVec 64 := fld b 5 64
  let body := slice b 13 (b.length - 29)
  let tag := slice b (b.length - 16) 16
  let plain := (sessionOf s sid).bind fun q =>
    Config.gcmOpen q.2.kReq (leBytes 8 sseq.toNat ++ [0, 0, 0, 0]) (leBytes 4 sid.toNat) body tag
  match plain with
  | some i => .sealed r sid sseq true (fld i 0 16) (fld i 6 8) (innerOf (num i 2 2) (slice i 0x1C (min (num i 4 2) bodyMax)))
  | none => .sealed r sid sseq false 0 0 (.other 0)

/-- R421: SEC_SESSION, by its OP. -/
def sessionReq (s : State) (r : Req) (b : Bytes) : Option Instr :=
  match num b 0 1 with
  | 0 => some (.getKem r)
  | 1 => some (.sessOpen r (fld b 1 8) (slice b 2 1568))
  | 2 => some (sealedOf s r b)
  | 3 => some (.sessClose r (fld b 1 32))
  | _ => none

/-- R353 to R359: the command of a code and a body. The commands whose outcome rests on data from outside the mailbox
(a signature check, Peals in host memory, a partner's chunk, the result of a self-test) are not among them: they wait for
their own row (assumption log 25). -/
def commandOf (s : State) (r : Req) (code : Nat) (b : Bytes) : Option Instr :=
  match code with
  | 0x0001 => some (.ping r (fld b 0 32))
  | 0x0002 => some (.getInfo r (fld b 0 8) (fld b 1 8))
  | 0x0003 => some (.noticeGet r (fld b 0 8) (fld b 1 32))
  | 0x0004 => some (.deviceStart r (fld b 0 32))
  | 0x0005 => some (.deviceStop r)
  | 0x0006 => some (.drain r (fld b 0 8) (fld b 1 32))
  | 0x0007 => some (.partLayout r (fld b 0 8))
  | 0x0008 => some (.selectProfile r (fld b 0 8) (fld b 1 8))
  | 0x0009 => some (.lowPower r (fld b 0 8) (fld b 1 64) none)
  | 0x000A => some (.wake r)
  | 0x0101 => some (.timeMaster r (fld b 0 64) (fld b 8 16))
  | 0x0102 => some (.timeConfig r (bodyRecs b))
  | 0x0103 => some (.routeWrite r (fld b 0 32) (fld b 6 16)
      ((List.range (countIn (num b 4 2) 2000)).map fun i => fld b (8 + 2 * i) 16))
  | 0x0104 => some (.portRetrain r (fld b 0 8) (fld b 1 8))
  | 0x0105 => some (.collStart r (fld b 0 8) (fld b 1 64) (fld b 9 64))
  | 0x0201 => some (.ctxOpen r (fld b 0 8) (fld b 1 32))
  | 0x0202 => some (.ctxClose r)
  | 0x0203 => some (.ctxConfig r (bodyRecs b))
  | 0x0204 => some (.jobConfig r (bodyRecs b))
  | 0x0205 => some (.map r (bodyItems b))
  | 0x0206 => some (.unmap r (fld b 0 32) (fld b 4 32))
  | 0x0207 => some (.memPolicy r (bodyRecs b))
  | 0x0208 => some (.streamStart r (fld b 0 8) (fld b 1 8) (fld b 2 8) (fld b 3 8) (fld b 4 8) (fld b 5 8) (fld b 6 64)
      (fld b 14 64))
  | 0x0301 => some (.pairSet r (fld b 0 32) (fld b 4 8) (fld b 5 32) (fld b 9 32))
  | 0x0302 => some (.absorb r (fld b 0 32))
  | 0x0303 => some (.downbeatArm r (fld b 0 64) (fld b 8 64) (fld b 16 64) (fld b 24 8))
  | 0x0304 => some (.downbeatResolve r (fld b 0 8) (fld b 1 64))
  | 0x0305 => some (.downbeatAbandon r (fld b 0 64))
  | 0x0307 => some (.shardFill r (fld b 0 8) (fld b 1 8) (fld b 2 32) (fld b 6 32) (fld b 10 32))
  | 0x0308 => some (.quotaSet r (fld b 0 32))
  | 0x0309 => some (.placement r (fld b 0 8) (fld b 1 8))
  | 0x030A => some (.ledgerTimes r (fld b 0 64) (fld b 8 8) (fld b 9 8))
  | 0x0401 => some (.pealArm r (fld b 0 64))
  | 0x0402 => some (.pealQuiesce r (fld b 0 64))
  | 0x0403 => some (.pealResume r (fld b 0 64))
  | 0x0404 => some (.pealAbort r)
  | 0x0405 => some (.pealTarget r (fld b 0 8) (bodyExtents b))
  | 0x0501 => some (.cfgBegin r)
  | 0x0502 => some (.cfgWrite r (fld b 0 8) (fld b 1 32) (slice b 7 (countIn (num b 5 2) 4000)))
  | 0x0503 => some (.cfgCommit r (fld b 0 8))
  | 0x0504 => some (.cfgRead r (fld b 0 8) (fld b 1 8) (fld b 2 32) (fld b 6 16))
  | 0x0510 => some (.updateWrite r (fld b 0 8) (fld b 1 32) (slice b 7 (countIn (num b 5 2) 4000)))
  | 0x0512 => some (.updateActivate r (fld b 0 8) (fld b 1 32))
  | 0x0513 => some (.updateStatus r (fld b 0 8))
  | 0x0601 => some (.logRead r (fld b 0 32) (fld b 4 16))
  | 0x0602 => some (.dumpRead r (fld b 0 32) (fld b 4 16))
  | 0x0603 => some (.lifetimeRead r (fld b 0 32) (fld b 4 16))
  | 0x0605 => some (.rimshot r (bodyInjection b))
  | 0x0606 => some (.ctxRecover r)
  | 0x0701 => some (.pwrRead r)
  | 0x0702 => some (.pwrTenantCap r (fld b 0 32))
  | 0x0801 => some (.opAuth r (fld b 0 8) (if num b 0 1 = 1 then slice b 1 32 else []))
  | 0x0802 => some (.opSecretSet r (slice b 0 32))
  | 0x0803 => some (.opContractSet r (fld b 0 32) (fld b 4 32) (fld b 8 32) (fld b 12 32))
  | 0x0804 => some (.opContractGet r)
  | 0x0805 => some (.opPwrRead r)
  | 0x0901 => some (.secConf r (fld b 0 8) (fld b 1 8))
  | 0x0902 => some (.secJobKey r (fld b 0 8) (slice b 1 32))
  | 0x0903 => some (.secE2eKey r (fld b 0 8) (slice b 1 32) (fld b 33 64) (bodyMembers b))
  | 0x0904 => some (.secRotate r (fld b 0 8) (fld b 1 8) (slice b 2 32))
  | 0x0905 => some (.secAttest r (slice b 0 32) (fld b 32 8) (fld b 33 32))
  | 0x0906 => sessionReq s r b
  | 0x0907 => some (.secRead r (fld b 0 32) (fld b 4 16))
  | 0x0908 => some (.secIdeKey r (fld b 0 8) (fld b 1 8) (fld b 2 8) (bodyIdeKeys b))
  | _ => none

/-- The command of a mailbox request runs by the row of its own. -/
def meaningOf (i : Instr) (s : State) : Host.Outcome State Fault Refusal :=
  match i with
  | .ping r a => execPing r a s
  | .getInfo r a b => execGetInfo r a b s
  | .noticeGet r a b => execNoticeGet r a b s
  | .deviceStart r a => execDeviceStart r a s
  | .deviceStop r => execDeviceStop r s
  | .drain r a b => execDrain r a b s
  | .partLayout r a => execPartLayout r a s
  | .selectProfile r a b => execSelectProfile r a b s
  | .lowPower r a b c => execLowPower r a b c s
  | .wake r => execWake r s
  | .timeMaster r a b => execTimeMaster r a b s
  | .timeConfig r a => execTimeConfig r a s
  | .routeWrite r a b c => execRouteWrite r a b c s
  | .portRetrain r a b => execPortRetrain r a b s
  | .collStart r a b c => execCollStart r a b c s
  | .ctxOpen r a b => execCtxOpen r a b s
  | .ctxClose r => execCtxClose r s
  | .ctxConfig r a => execCtxConfig r a s
  | .jobConfig r a => execJobConfig r a s
  | .map r a => execMap r a s
  | .unmap r a b => execUnmap r a b s
  | .memPolicy r a => execMemPolicy r a s
  | .streamStart r a b c d e f g h => execStreamStart r a b c d e f g h s
  | .pairSet r a b c d => execPairSet r a b c d s
  | .absorb r a => execAbsorb r a s
  | .downbeatArm r a b c d => execDownbeatArm r a b c d s
  | .downbeatResolve r a b => execDownbeatResolve r a b s
  | .downbeatAbandon r a => execDownbeatAbandon r a s
  | .shardRepair r a b c => execShardRepair r a b c s
  | .shardFill r a b c d e => execShardFill r a b c d e s
  | .quotaSet r a => execQuotaSet r a s
  | .placement r a b => execPlacement r a b s
  | .ledgerTimes r a b c => execLedgerTimes r a b c s
  | .pealArm r a => execPealArm r a s
  | .pealQuiesce r a => execPealQuiesce r a s
  | .pealResume r a => execPealResume r a s
  | .pealAbort r => execPealAbort r s
  | .pealTarget r a b => execPealTarget r a b s
  | .pealScan r a b => execPealScan r a b s
  | .restore r a b c => execRestore r a b c s
  | .cfgBegin r => execCfgBegin r s
  | .cfgWrite r a b c => execCfgWrite r a b c s
  | .cfgCommit r a => execCfgCommit r a s
  | .cfgRead r a b c d => execCfgRead r a b c d s
  | .updateWrite r a b c => execUpdateWrite r a b c s
  | .updateVerify r a b => execUpdateVerify r a b s
  | .updateActivate r a b => execUpdateActivate r a b s
  | .updateStatus r a => execUpdateStatus r a s
  | .logRead r a b => execLogRead r a b s
  | .dumpRead r a b => execDumpRead r a b s
  | .lifetimeRead r a b => execLifetimeRead r a b s
  | .selftest r a b c => execSelftest r a b c s
  | .rimshot r a => execRimshot r a s
  | .ctxRecover r => execCtxRecover r s
  | .pwrRead r => execPwrRead r s
  | .pwrTenantCap r a => execPwrTenantCap r a s
  | .opAuth r a b => execOpAuth r a b s
  | .opSecretSet r a => execOpSecretSet r a s
  | .opContractSet r a b c d => execOpContractSet r a b c d s
  | .opContractGet r => execOpContractGet r s
  | .opPwrRead r => execOpPwrRead r s
  | .secConf r a b => execSecConf r a b s
  | .secJobKey r a b => execSecJobKey r a b s
  | .secE2eKey r a b c d => execSecE2eKey r a b c d s
  | .secRotate r a b c => execSecRotate r a b c s
  | .secAttest r a b c => execSecAttest r a b c s
  | .getKem r => execGetKem r s
  | .sessOpen r a b => execSessOpen r a b s
  | .sealed r a b c d e f => execSealed r a b c d e f s
  | .sessClose r a => execSessClose r a s
  | .secRead r a b => execSecRead r a b s
  | .secIdeKey r a b c d => execSecIdeKey r a b c d s
  | .secDebugToken r a b c d => execSecDebugToken r a b c d s
  | _ => .next s

/-- The state a command of a mailbox leaves. -/
def runMailbox (i : Instr) (s : State) : State :=
  match meaningOf i s with
  | .next t => t
  | _ => s

/-! ### Handover, release, writes (R338, R339) -/

/-- R340: the header of a request, laid out from SEQ onwards. -/
def headerOf (m : Mbx) (path : ReqPath) (img : Bytes) : Req :=
  { mbx := m, path := path, seq := fld img 0 16, ctx := fld img 6 8, irq := (fld img 7 8).getLsbD 0 }

/-- R346: how a request with an unknown code is answered: BUSY or kept while its mailbox is not served, else UNSUPPORTED. -/
def unknownCode (r : Req) (code : Nat) (i : Instr) (s : State) : State :=
  let c := BitVec.ofNat 16 code
  match r.path with
  | .smbus =>
    if s.hub.dev == .cold || s.hub.dev == .booting then reply r c 0 (err s stBusy 0)
    else if !belfryUp s then deferReq s r i
    else reply r c 0 (err s stUnsupported 0)
  | _ =>
    if s.hub.dev == .booting || (r.mbx.val != 18 && !belfryUp s) then deferReq s r i
    else if r.mbx.val = 18 ∧ s.sec.faulted then handed s r
    else reply r c 0 (err s stUnsupported 0)

/-- R339, R347: a request image is taken up. `again`: the command that stands for it while it waits. -/
def runImage (m : Mbx) (path : ReqPath) (img : Bytes) (again : Instr) (s : State) : State :=
  let r := headerOf m path img
  let code := num img 2 2
  match commandOf s r code (slice img 0x1C (min (num img 4 2) bodyMax)) with
  | some i => runMailbox i s
  | none =>
    let c := BitVec.ofNat 16 code
    if !knownCode c || code == 0x0906 then unknownCode r code again s
    else if permitted s r c then handed s r
    else serve c 0 r again (fun s => err s stDenied 0) s

/-- R338: a dropped host write is counted, saturating at 255. -/
def countBoxDrop (s : State) (m : Nat) : State :=
  let b := getBox s m
  setBox s m { b with drop := if b.drop = 255 then 255 else b.drop + 1 }

/-- R339: the request buffer of a mailbox is handed over; in COLD nothing is served. -/
def handOver (m : Mbx) (s : State) : State :=
  let b := getBox s m.val
  if s.hub.dev = .cold then s
  else if b.owner ≠ .host then countBoxDrop s m.val
  else runImage m .pcie (memRead b.req 4 4092) (.mbxHandover m) (setBox s m.val { b with owner := .device })

def execMbxHandover (m : Mbx) (s : State) : Host.Outcome State Fault Refusal := done (handOver m s)

/-- R338: the host releases a response. -/
def releaseBox (m : Nat) (s : State) : State :=
  let b := getBox s m
  if s.hub.dev = .cold then s
  else if b.owner = .done then setBox s m { b with owner := .host }
  else countBoxDrop s m

def execMbxRelease (m : Mbx) (s : State) : Host.Outcome State Fault Refusal := done (releaseBox m.val s)

/-- Bytes of a write stored in a request buffer; MBX_OWN (bytes 0 to 3) is no memory. -/
def storeReq (s : State) (m off : Nat) (data : Bytes) : State :=
  let b := getBox s m
  setBox s m { b with req := memWrite b.req (max off 4) (data.drop (4 - off)) }

/-- R338, R339: a host write to a mailbox's buffers. -/
def writeBuffer (m : Mbx) (off : Nat) (data : Bytes) (s : State) : State :=
  let b := getBox s m.val
  let owner := (data.headD 0).toNat % 4
  if s.hub.dev = .cold || data.isEmpty then s
  else if 0x1000 < off + data.length then countBoxDrop s m.val
  else match b.owner with
    | .host =>
      if off ≠ 0 || owner = 0 then storeReq s m.val off data
      else if owner = 1 then handOver m (storeReq s m.val off data)
      else countBoxDrop s m.val
    | .done => if off = 0 && owner = 0 && decide (data.length ≤ 4) then releaseBox m.val s else countBoxDrop s m.val
    | .device => countBoxDrop s m.val

def execRequestBufferWrite (m : Mbx) (offset : Fin 8192) (data : Bytes) (s : State) : Host.Outcome State Fault Refusal :=
  if wellFormed (.requestBufferWrite m offset data) then done (writeBuffer m offset.val data s)
  else .fault (.illFormed "REQUEST_BUFFER_WRITE")

/-! ### The requests that waited (R344, R373, R394) -/

/-- A request that waited is a PING. -/
def isPing (q : Nat × Instr) : Bool :=
  match q.2 with
  | .ping _ _ => true
  | _ => false

/-- R344: a request that waited begins. R353: a PING whose deadline has passed is answered TIMEOUT. -/
def beginDeferred (s : State) (q : Nat × Instr) : State :=
  match q.2 with
  | .ping r d =>
    if within 1 1000000 d.toNat && decide (q.1 + d.toNat * ticksPerUs < s.ticks) then
      reply r 0x0001 setAny (err s stTimeout 0)
    else runMailbox (.ping r d) s
  | .mbxHandover m => runImage m .pcie (memRead (getBox s m.val).req 4 4092) (.mbxHandover m) s
  | .mctpVendorMessage m img => runImage m .smbus img (.mctpVendorMessage m img) s
  | i => runMailbox i s

/-- R344, R353, R394: what waited is served in stamp order, PINGs ahead of every other request. -/
def serveDeferred (s : State) : State :=
  let q := s.mail.deferred
  (q.filter isPing ++ q.filter fun x => !isPing x).foldl beginDeferred (modMail s fun m => { m with deferred := [] })

/-! ### Registers (R12, R36) -/

/-- R12: a write to a register that only the module writes, or to no register, has no effect. -/
def execRegisterWriteNoEffect (_offset _value : Word) (s : State) : Host.Outcome State Fault Refusal := done s

/-- R36, R424: in whose session a register read of a path comes: only an inner SEC_READ comes inside one. -/
def readOn (path : RegPath) (off : Nat) (s : State) : State :=
  let q := latchedRead s path none off
  emit q.1 (.regRead path (BitVec.ofNat 32 off) q.2)

/-- R36: a read of a _LO half, or of a register that is no half. -/
def execLoRead (path : RegPath) (offset : Word) (s : State) : Host.Outcome State Fault Refusal :=
  done (readOn path offset.toNat s)

/-- R36: a read of a _HI half. -/
def execHiRead (path : RegPath) (offset : Word) (s : State) : Host.Outcome State Fault Refusal :=
  done (readOn path offset.toNat s)

end Sys2Proof.Machine
end

