-- ==== Sys2Proof/Machine/Restart.lean ====
section
/-! DEFINITION. The reset domains below the device: the Belfry (R393, R394) and its live handoff (R373, R374), a unit that has
not drained (R383), a compute die and the bridges (R15, R378, R379), and the faults that send the device to FENCED (R349). -/

namespace Sys2Proof.Machine

/-! ### Belfry restart and handoff (R373, R374, R392 to R394) -/

/-- R373, R394: every replay slot that is still held takes step 4. -/
def giveUpReplays (s : State) : State :=
  s.lcores.foldl (fun s l => wakeCore ((List.range 4).foldl (fun s k => markBad s l.1 k) s) l.1) s

/-- R394: the Belfry serves again: replay slots, Knells and LINKUPs, commits that have come due, and the requests that waited. -/
def resumeDuties (s : State) : State :=
  let s := serveEvents (giveUpReplays s)
  let s := (List.range 64).foldl fireCommit s
  serveDeferred s

/-- R373, R374: a handoff that runs fails: the image loses its verified mark when the Belfry is back. -/
def failHandoff (s : State) : State :=
  if s.hub.handoff then modImage (modHub s fun h => { h with handoff := false }) 1 fun i => { i with phase := 0x11 } else s

/-- R393, R398, R400, R407: the management cores are reset, with a crash dump first. -/
def stopBelfry (s : State) (cause : BitVec 4) : State :=
  let s := takeDump (leaveLow s) (if cause = 1 then 1 else 3)
  let s := modHub (failHandoff s) fun h => { h with
    belfryDown := true, causeBelfry := cause, bCount := if h.bCount = 255 then 255 else h.bCount + 1, lastRestart := some s.ticks }
  lifeEvent (lifeAdd s 0x1C 1)

/-- R393: a restart less than 1 s ago makes a further write void. -/
def restartRecent (s : State) : Bool := (s.hub.lastRestart.map fun t => decide (s.ticks < t + ticksPerSec)).getD false

/-- R393: a write to HUB_BELFRY_RST. -/
def writeBelfryRst (value : Word) (s : State) : State :=
  if value.extractLsb' 16 16 = 0xB311 ∧ value.getLsbD 0 ∧ s.hub.dev ≠ .cold ∧ s.hub.dev ≠ .booting ∧ !restartRecent s then
    stopBelfry s 1
  else s

def execHubBelfryRst (value : Word) (s : State) : Host.Outcome State Fault Refusal := done (writeBelfryRst value s)

/-- R379: every open context is fenced, where the Belfry's record of them is lost. -/
def fenceAll (s : State) : State :=
  (List.range 64).foldl (fun s c => if (getCtx s c).st = .opened then startFence s c none else s) s

/-- R393: the new instance validates the state record and resumes. -/
def belfryBack (recordValid : Bool) (s : State) : State :=
  if !s.hub.belfryDown then s
  else
    let s := modHub s fun h => { h with belfryDown := false }
    let s := if recordValid then s else fenceAll s
    let s := if (getImage s 1).phase = 0x11 then rolledBack s 1 else s
    resumeDuties s

def execBelfryRestartComplete (recordValid : Bool) (s : State) : Host.Outcome State Fault Refusal :=
  doneMem (belfryBack recordValid s)

/-- R373: the new instance resumes mailbox service. -/
def handoffDone (s : State) : State :=
  if s.hub.handoff then resumeDuties (activated (modHub s fun h => { h with handoff := false }) 1 0) else s

def execHandoffComplete (s : State) : Host.Outcome State Fault Refusal := doneMem (handoffDone s)

/-- R374: the new instance has not resumed, or rejects the state record: the previous image restarts. -/
def execHandoffFail (s : State) : Host.Outcome State Fault Refusal := done (if s.hub.handoff then stopBelfry s 2 else s)

/-! ### A unit that has not drained (R383) -/

/-- R212: a migration is abandoned: the channel stays where it was, and the target is a spare again. -/
def dropMigration (s : State) (g : Migration) : State :=
  let s := modMem s fun m => { m with migs := m.migs.filter fun q => q.chan != g.chan }
  let s := mapChange s fun h => setChanMap h g.chan { ctrl := g.source % 20, status := .inService }
  let s := modCtrl s g.source fun k => { k with role := .inService, migPtr := 0 }
  modCtrl s g.target fun k => { k with role := .spare, migPtr := 0, selfRefresh := true }

/-- R212, R213, R383: a controller is reset as a memory-channel domain: a migration is abandoned, and the channel's data is lost. -/
def resetChannel (s : State) (ch : Nat) : State :=
  channelLost (match migOf s ch with
    | some g => dropMigration s g
    | none => s) ch

/-- R383: a core whose engines hold work of the fencing context, or a controller of its partition, is reset. -/
def drainOverrun (core : Option Nat) (ch : Option Nat) (c : Nat) (s : State) : State :=
  if (getCtx s c).st ≠ .fencing then s
  else
    let s := match core with
      | some n => if (servingCores s c).contains n && !coreDrained (getC s n) then overrunCore s n else s
      | none => s
    match ch with
    | some n => if chanPart s n = (getCtx s c).part then resetChannel s n else s
    | none => s

def execDrainOverrun (core : Option Core) (ch : Option Chan) (c : Ctx) (s : State) : Host.Outcome State Fault Refusal :=
  done (drainOverrun (core.map (·.val)) (ch.map (·.val)) c.val s)

/-! ### Compute dies and bridges (R15, R25, R37, R378, R379, R417) -/

/-- R379: every context of a partition that includes the die is fenced. -/
def fenceDie (s : State) (d : Nat) : State :=
  (openCtxs s (diePart s.hub.layout d)).foldl (fun s c => fenceDomain s c d) s

/-- R378: the cores of a die are reset, their held replay slots with them; microcode left PENDING is taken (R375). -/
def resetCores (s : State) (d : Nat) : State :=
  let s := { s with lcores := s.lcores.filter fun l => l.1 / 32 != d }
  let s := (s.slots.filter fun q => q.1 / 34 == d).foldl (fun s q => resetSlot s q.1) s
  takePending (modFab s fun f => { f with sigs := f.sigs.filter fun q => q.1 / 32 != d }) fun n => n / 32 == d

/-- R378, R199, R417: the data of a die's channels is lost; its positions are zero-filled, and the pages of a confidential
partition go to quarantine. -/
def resetChannels (s : State) (d : Nat) : State :=
  let gone := s.mem.migs.filter fun g => g.source / 20 == d
  let s := gone.foldl dropMigration s
  let s := (List.range 20).foldl (fun s i =>
    modCtrl (modMem s fun m => clearFrom m (20 * d + i) 0) (20 * d + i) fun k => { k with lines := [] }) s
  let p := diePart s.hub.layout d
  if isConf s p then quarantineAll s p else s

/-- R378: the ports of a die go to DOWN; their retry buffers are lost with it, and the requests that wait on it for tokens. -/
def resetPorts (s : State) (d : Nat) : State :=
  let s := modFab s fun f => { f with held := f.held.filter fun q => q.die != d }
  ((List.range (portCount s)).filter fun p => p % 4 == d).foldl (fun s p =>
    dropParent (modPort (setPortState s p .down) p fun b => { b with
      lanes := 0, buf := [], relockAt := none, waiting := false, rxNext := 0, checkFails := [] }) p) s

/-- R378: the programs of the die's collective engine are lost. -/
def resetEngine (s : State) (d : Nat) : State := setEngine s d { getEngine s d with running := [], queued := [] }

/-- R378: a compute die is reset, after the contexts that have state in it are fenced. The loss of every die sends the device to
FENCED (R349). -/
def resetDie (s : State) (d : Nat) : State :=
  let s := fenceDie (leaveLow s) d
  let s := resetEngine (resetPorts (resetChannels (resetCores s d) d) d) d
  let s := logError s (0x0500 + (Config.logCode 0x51).setWidth 16) 3 0 (256 + d) none []
  let s := modHub s fun h => { h with diesDown := h.diesDown ||| BitVec.ofNat 4 (2 ^ d) }
  if s.hub.diesDown = 0xF then enterFenced s else s

/-- A command about the dies acts while the module runs. -/
def onDies (s : State) (f : State → State) : State := if s.hub.dev = .cold ∨ s.hub.dev = .booting then s else f s

def execComputeDieReset (d : Die) (s : State) : Host.Outcome State Fault Refusal := done (onDies s fun s => resetDie s d.val)

/-- R15: an edge fails: both dies it joins are fenced and reset. -/
def failBridge (a b : Nat) (s : State) : State := if a = b then s else resetDie (resetDie s a) b

def execBridgeFail (a b : Die) (s : State) : Host.Outcome State Fault Refusal := done (onDies s (failBridge a.val b.val))

/-- R25, R37, R378: a compute die returns: one map change, and the contexts it fenced may leave FENCED. -/
def dieBack (s : State) (d : Nat) : State :=
  if !s.hub.diesDown.getLsbD d then s
  else domainBack (coreChange s fun h => { h with diesDown := h.diesDown &&& ~~~(BitVec.ofNat 4 (2 ^ d)) }) d

def execDieReturn (d : Die) (s : State) : Host.Outcome State Fault Refusal := done (dieBack s d.val)

/-! ### Faults that send the device to FENCED (R349, R395) -/

/-- R336, R349: the security core fails: its mailbox is not served any more. -/
def securityFault (s : State) : State :=
  if s.hub.dev = .cold then s else enterFenced (modSecCore s fun k => { k with faulted := true })

def execSecurityCoreFault (s : State) : Host.Outcome State Fault Refusal := done (securityFault s)

/-- R395: the retention SRAM holds an uncorrectable error. -/
def execRetentionSramError (s : State) : Host.Outcome State Fault Refusal := done (if s.hub.dev = .cold then s else enterFenced s)

end Sys2Proof.Machine
end

