-- ==== Sys2Proof/Machine/Pins.lean ====
section
/-! DEFINITION. Device reset (R378, R386, R395) and the pins and rails that cause it (R464, R471, R475 to R477); the end of
BOOTING (R20, R199, R200, R349, R364 to R366, R441, R484). -/

namespace Sys2Proof.Machine

/-! ### Device reset (R37, R371, R377, R378, R386, R437) -/

/-- R371, R375 to R377: the copy that the boot header names is in force; what was in progress is discarded. -/
def resetImage (i : Image) : Image :=
  let j := if i.atReset then swapImage i else i
  { j with
    verified := false, stagedVer := 0, stagedFloor := 0, stagedDigest := [], revoke := 0, phase := 0, done := 0, pending := []
    result := 0, atReset := false }

/-- What flash keeps of the mailbox side (R361). -/
def resetMail (m : Mail) : Mail :=
  { Mail.reset with
    opSecret := m.opSecret, factory := m.factory, copyA := m.copyA, copyB := m.copyB, images := m.images.map resetImage }

/-- R437, R441, R443: what the security core's store and fuses keep; the indices below the programmed NEXT are spent. -/
def resetSec (k : Sec) : Sec :=
  { Sec.reset with
    lmsNext := k.lmsProg, lmsProg := k.lmsProg, boots := k.boots + 1, revoked := k.revoked, fuseFloor := k.fuseFloor
    treeLeft := 32768 - k.lmsProg % 32768 }

/-- R395 to R397, R400: what flash keeps of the logs: the lifetime record is the newest copy. -/
def coldDiag (d : Diag) : Diag :=
  let last := d.flashLife.headD []
  { Diag.reset with
    eseq := d.eseq, flushed := d.eseq, flashLog := d.flashLog, dseq := d.dseq, flashDump := d.flashDump
    life := mapErase last 0x10, pom := mapGet last 0x10 0, flashLife := d.flashLife, wseq := d.wseq, pealSeq := d.pealSeq }

/-- R395: a warm reset also keeps the logs, the dump, the working copy and the evidence. -/
def warmDiag (d : Diag) : Diag := { d with eventQ := [], inject := Vector.replicate 16 none }

/-- R456, R466: a warm reset keeps the contract and the counters of the power block. -/
def warmPower (w : Power) : Power :=
  { Power.reset with
    con := w.con, conSet := w.conSet, inForce := BitVec.ofNat 16 (min w.con.fast.toNat w.con.minute.toNat), lpAborts := w.lpAborts
    limitedMin := w.limitedMin, missMin := w.missMin, throttleMin := w.throttleMin, res := w.res }

/-- R20, R401: the slots that a lifetime record marks as retired. -/
def retiredSlots (life : Lifetime) : List Nat := (List.range 136).filter fun p => mapGet life (0x0B80 + 16 * p + 12) 0 % 2 == 1

/-- R378, R386: a device reset. Flash, and in a warm reset the kept areas of the retention SRAM, remain. -/
def deviceReset (s : State) (warm : Bool) (cause : BitVec 4) : State :=
  let diag := if warm then warmDiag s.diag else coldDiag s.diag
  let t : State :=
    { State.reset with
      opt := s.opt, pins := { s.pins with pps := false }, ticks := s.ticks, mail := resetMail s.mail, sec := resetSec s.sec
      diag := diag, outbox := s.outbox, free := s.free, pending := s.pending
      hub := { Hub.reset with
        dev := .cold, causeDev := cause, bootAt := s.ticks, tripped := s.hub.tripped, slotRetired := retiredSlots diag.life
        eid := s.hub.eid, arpDone := s.hub.arpDone }
      ctxs := s.ctxs.map fun x => { Context.reset with cgen := if warm then x.cgen else Context.reset.cgen }
      pwr := if warm then warmPower s.pwr else Power.reset }
  lifeAdd t (if warm then 0x18 else 0x14) 1

/-- R378: the rails go down: PG_OUT goes low, and a cold reset follows when they were up. -/
def railsOff (s : State) (cause : BitVec 4) : State :=
  if s.pins.pgOut then deviceReset { s with pins := { s.pins with pgOut := false } } false cause else s

/-! ### PWR_EN, VIN_54, V12_SB, THERMTRIP#, PG_OUT, PERST# (R464, R471, R475 to R477) -/

/-- R475 to R477, R464: PWR_EN low removes the rails and ends a thermal trip, whose cause the next boot reads. -/
def drivePwrEn (level : Bool) (s : State) : State :=
  let s := { s with pins := { s.pins with pwrEn := level } }
  if level then s
  else
    let s := railsOff s 0
    if s.hub.tripped then modHub { s with pins := { s.pins with thermtrip := true } } fun h => { h with tripped := false } else s

def execPwrEn (level : Bool) (s : State) : Host.Outcome State Fault Refusal := done (drivePwrEn level s)

/-- R477: VIN_54 leaves its range, or returns. -/
def driveVin (inRange : Bool) (s : State) : State :=
  let s := { s with pins := { s.pins with vin54 := inRange } }
  if inRange then s else railsOff s 0

def execVin54 (inRange : Bool) (s : State) : Host.Outcome State Fault Refusal := done (driveVin inRange s)

/-- R477, R478: the standby rail is lost, or returns; without it the SMBus interface forgets its addresses, and THERMTRIP# is
not driven. -/
def driveV12 (present : Bool) (s : State) : State :=
  let s := { s with pins := { s.pins with v12sb := present, thermtrip := !present || !s.hub.tripped } }
  if present then s
  else modHub (railsOff s 0) fun h => { h with eid := 0, arpDone := false }

def execV12Sb (present : Bool) (s : State) : Host.Outcome State Fault Refusal := done (driveV12 present s)

/-- R464: a junction has reached 110 degrees: the trip is recorded, the rails go down, and the module stays off. -/
def thermalTrip (s : State) : State :=
  if !s.pins.pgOut then s
  else
    let s := railsOff (writeLife (lifeAdd s 0x20 1)) 2
    modHub { s with pins := { s.pins with thermtrip := false } } fun h => { h with tripped := true, causeDev := 2 }

def execThermtrip (_die : Fin 5) (s : State) : Host.Outcome State Fault Refusal := done (thermalTrip s)

/-- R401: a position that the lifetime record marks as failed. -/
def lifeFailed (s : State) (p : Nat) : Bool := mapGet s.diag.life (0x414 + 24 * p) 0 % 2 == 1

/-- R199: the positions in training while BOOTING: those fitted that have not failed before. -/
def startTraining (s : State) : State :=
  (List.range 80).foldl (fun s p => if (posGroup s p).isSome && !lifeFailed s p then modCtrl s p fun k => { k with training := true } else s) s

/-- R349, R475: BOOTING begins when power is good and PERST# is deasserted. -/
def beginBoot (s : State) : State :=
  if s.hub.dev = .cold ∧ s.pins.pgOut ∧ s.pins.perst then startTraining (modHub s fun h => { h with dev := .booting, bootAt := s.ticks })
  else s

/-- R475: every rail is in regulation. -/
def powerGood (s : State) : State :=
  if s.pins.pwrEn ∧ s.pins.vin54 ∧ s.pins.v12sb ∧ !s.hub.tripped ∧ !s.pins.pgOut then
    beginBoot { s with pins := { s.pins with pgOut := true } }
  else s

def execPgOut (s : State) : Host.Outcome State Fault Refusal := done (powerGood s)

/-- R366, R378, R477: PERST# asserted is a warm reset; its deassertion samples the straps and starts BOOTING. -/
def drivePerst (level : Bool) (profSel : BitVec 2) (forceSafe : Bool) (s : State) : State :=
  let was := s.pins.perst
  let s := { s with pins := { s.pins with perst := level } }
  if !s.pins.pwrEn || s.hub.tripped || was == level then s
  else if level then beginBoot { s with pins := { s.pins with profSel := profSel, forceSafe := forceSafe } }
  else if s.pins.pgOut then deviceReset s true 1
  else s

def execPerst (level : Bool) (profSel : BitVec 2) (forceSafe : Bool) (s : State) : Host.Outcome State Fault Refusal :=
  done (drivePerst level profSel forceSafe s)

/-! ### Configuration at boot (R364 to R366, R484) -/

/-- R485: the body of CFG_FAULT. -/
def cfgFaultBody (copy region reason : BitVec 8) (idx : Nat) : Bytes := [copy, region, reason, 0] ++ leBytes 2 idx

/-- R364: a copy is valid. -/
def copyValid (c : Carillon) : Bool := c.headerOk && c.digestOk

/-- R364: the copy in force is chosen. -/
def chooseCopy (s : State) : State :=
  let a := s.mail.copyA
  let b := s.mail.copyB
  let useB := copyValid b && (!copyValid a || decide (1 ≤ (b.gen - a.gen).toInt))
  if copyValid a || copyValid b then modHub s fun h => { h with cfgCopyB := useB, cfgDefault := false }
  else
    postNotice (modHub s fun h => { h with cfgCopyB := false, cfgDefault := true }) 0x000D none
      (cfgFaultBody 0xFF 0xFF (if a.headerOk || b.headerOk then 2 else 1) 0xFFFF)

/-- R366: the profile in force. -/
def chooseProfile (s : State) : State :=
  let c := copyInForce s
  modHub s fun h => { h with
    safe := !s.pins.forceSafe
    profile := if !s.pins.forceSafe then 0 else if !h.cfgDefault && c.profOk then c.profile else s.pins.profSel }

/-- R484: the records of the copy in force that this module cannot honour, by region and index. -/
def badRecords (s : State) : List (Nat × Nat) :=
  if s.hub.safe || s.hub.cfgDefault then []
  else (List.range 5).flatMap fun g =>
    let rs := regionRecs ((copyInForce s).data.getD g [])
    (((List.range rs.length).zip rs).filter fun p => !honoured s.opt p.2).map fun p => (g + 2, p.1)

/-- R364 to R366, R369, R484: the configuration is loaded. -/
def bootConfig (s : State) : State :=
  let s := chooseProfile (chooseCopy s)
  let cal := if s.hub.safe || s.hub.cfgDefault then List.replicate 0x128 0 else memRead ((copyInForce s).data.getD 5 []) 0 0x128
  let s := loadProfile (modMail s fun m => { m with cal := cal })
  (badRecords s).foldl (fun s p => postNotice s 0x000D none
    (cfgFaultBody (BitVec.ofNat 8 s.hub.cfgCopyB.toNat) (BitVec.ofNat 8 p.1) 4 p.2)) s

/-! ### Memory and maps at boot (R20, R199, R200) -/

/-- R199: the rate and margins with which a position has passed, if it has. -/
def passedAt (bad : List Nat) (ok : List (Nat × BitVec 2 × Word)) (p : Nat) : Option (BitVec 2 × Word) :=
  if bad.contains p then none
  else match ok.find? fun q => q.1 == p with
    | some q => if trainedOk q.2.1 q.2.2 then some q.2 else none
    | none => none

/-- R199, R200: the rates and margins of the positions that trained; a position that failed is never used again. -/
def trainPositions (s : State) (bad : List Nat) (ok : List (Nat × BitVec 2 × Word)) : State :=
  (List.range 80).foldl (fun s p =>
    if (posGroup s p).isNone then modCtrl s p fun k => { k with role := .failed, training := false }
    else match (if lifeFailed s p then none else passedAt bad ok p) with
      | some q => modCtrl s p fun k => { k with rate := q.1, eye := q.2, training := false }
      | none => failPos s p) s

/-- The controller position takes a channel. -/
def serveChan (s : State) (n p : Nat) : State :=
  modCtrl (modHub s fun h => setChanMap h n { ctrl := p % 20, status := .inService }) p fun k => { k with
    role := .inService, chan := some n, selfRefresh := false }

/-- R200: the channels of a group find their positions; the spare takes the first channel whose position has failed, the others
have none. `fresh`: positions that failed at this boot. -/
def mapGroup (fresh : List Nat) (s : State) (g : Nat) : State :=
  let b := groupBase s g
  let good := fun (s : State) i => (getCtrl s (b + i)).role != .failed
  let s := if good s 9 then modCtrl s (b + 9) fun k => { k with role := .spare, selfRefresh := true } else s
  (List.range 9).foldl (fun s j =>
    let n := 9 * g + j
    if good s j then serveChan s n (b + j)
    else
      let new := fresh.contains (b + j)
      if (getCtrl s (b + 9)).role = .spare then
        let s := serveChan s n (b + 9)
        if new then postNotice (countSwitchIn s (b + 9)) 0x000A none (channelBody n ((b + j) % 20) (some ((b + 9) % 20)) 5) else s
      else
        let s := modHub s fun h => setChanMap h n { ctrl := (b + j) % 20, status := .mappedOut }
        if new then postNotice s 0x000A none (channelBody n ((b + j) % 20) none 4) else s) s

/-- R199, R200: the channel map. -/
def buildChans (s : State) (bad : List Nat) (ok : List (Nat × BitVec 2 × Word)) : State :=
  let fresh := (List.range 80).filter fun p => !lifeFailed s p && (passedAt bad ok p).isNone
  (List.range (spareGroups s)).foldl (mapGroup fresh) (trainPositions s bad ok)

/-- R19, R20: the slots of a die that serve cores before any spare does, in ascending order, whichever slots the fuses name as
spares (assumption log 120). -/
def firstSlots (s : State) (d : Nat) : List Nat := ((List.range 34).map (34 * d + ·)).filter fun p => !s.opt.spares.contains p

/-- R20, R21: the core map of a die: a retired slot is replaced by a spare, or its logical core is retired. -/
def mapDie (s : State) (d : Nat) : State :=
  let firsts := firstSlots s d
  (List.range 32).foldl (fun s j =>
    let n := 32 * d + j
    let p := firsts.getD j 0
    if !s.hub.slotRetired.contains p then modHub s fun h => setCoreMap h n { phys := p, status := .inService }
    else
      let rest := (firsts.drop 32) ++ s.opt.spares.filter fun q => q / 34 == d
      match rest.find? fun q => !s.hub.slotRetired.contains q && !((List.range 128).any fun m => inService s m && physOf s m == q) with
      | some q => modHub s fun h => setCoreMap h n { phys := q, status := .inService }
      | none => modHub s fun h => setCoreMap h n { phys := p, status := .retired }) s

/-! ### The end of BOOTING (R349) -/

/-- R349, R441: what keeps the device from STANDBY sends it to FENCED. Without a verified Belfry image the boot ROM serves. -/
def bootFenced (s : State) (belfryOk : Bool) : State :=
  serveDeferred (enterFenced (modHub s fun h => { h with bootRom := !belfryOk }))

/-- R349, R456: the module is up. -/
def bootStandby (s : State) : State :=
  let s := postNotice (modHub s fun h => { h with dev := .standby }) 0x000B none [1, 2]
  serveDeferred (if s.hub.causeDev = 1 then s else postOperator s 0x0104 [])

/-- R349: BOOTING ends. `belfryOk`: a Belfry image verifies; `hubOk`: the hub self-test passes; `bad`: positions that failed at every
rate; `ok`: rate and margins of the others. -/
def finishBoot (belfryOk hubOk : Bool) (bad : List Nat) (ok : List (Nat × BitVec 2 × Word)) (s : State) : State :=
  if s.hub.dev ≠ .booting then s
  else if !belfryOk then bootFenced s false
  else if !s.mail.copyA.factoryOk && !s.mail.copyB.factoryOk then
    bootFenced (postNotice s 0x000D none (cfgFaultBody 0xFF 0 5 0xFFFF)) true
  else
    let s := buildChans (bootConfig s) bad ok
    let s := coreChange ((List.range 4).foldl mapDie s) fun h => h
    if hubOk then bootStandby s else bootFenced s true

def execBootComplete (belfryOk hubOk : Bool) (bad : List Pos) (trained : List (Pos × BitVec 2 × Word)) (s : State) :
    Host.Outcome State Fault Refusal :=
  done (finishBoot belfryOk hubOk (bad.map (·.val)) (trained.map fun q => (q.1.val, q.2.1, q.2.2)) s)

end Sys2Proof.Machine
end

