-- ==== Sys2Proof/Machine/Standby.lean ====
section
/-! DEFINITION. The SMBus interface: MCTP, PLDM, the alert response, address resolution (R347, R471, R479 to R481); the test access
port (R434). Message bytes follow the DMTF and SMBus standards that the rules name (assumption log 26). -/

namespace Sys2Proof.Machine

/-- R479: the fixed SMBus address. -/
def smbAddress : Byte := 0x4C

/-- R475, R478: the interface answers while the standby rail is up. -/
def onSmbus (s : State) (f : State → State) : State := if s.pins.v12sb then f s else s

/-- An answer over SMBus. -/
def answer (b : Bytes) (s : State) : State := emit s (.smbus b)

/-! ### MCTP (R347, R479) -/

/-- R479: an endpoint identifier may be assigned: not null, not broadcast. -/
def eidOk (e : BitVec 8) : Bool := e != 0 && e != 0xFF

/-- R479: an MCTP control message and its answer: command, completion code, body. -/
def mctpAnswer (m : MctpControl) (s : State) : State :=
  match m with
  | .setEid e =>
    if eidOk e then answer [0x01, 0x00, 0x00, e, 0x00] (modHub s fun h => { h with eid := e })
    else answer [0x01, 0x02] s
  | .getEid => answer [0x02, 0x00, s.hub.eid, 0x00, 0x00] s
  | .getVersion => answer ([0x04, 0x00, 0x01] ++ leBytes 4 Config.mctpVersion.toNat) s
  | .getMessageTypes => answer [0x05, 0x00, 0x02, 0x01, 0x7F] s
  | .getVendorMessages => answer ([0x06, 0x00, 0xFF, 0x01] ++ beBytes 4 Config.enterprise.toNat ++ [0x00, 0x00]) s

def execMctpControl (m : MctpControl) (s : State) : Host.Outcome State Fault Refusal := done (onSmbus s (mctpAnswer m))

/-- R347, R479: a vendor-defined message carries a request image from SEQ onwards; in COLD and BOOTING it is answered BUSY and
nothing is executed. -/
def vendorMessage (m : Mbx) (image : Bytes) (s : State) : State :=
  if s.hub.dev = .cold ∨ s.hub.dev = .booting then
    reply (headerOf m .smbus image) (fld image 2 16) 0 (err s stBusy 0)
  else runImage m .smbus image (.mctpVendorMessage m image) s

def execMctpVendorMessage (m : Mbx) (image : Bytes) (s : State) : Host.Outcome State Fault Refusal :=
  if wellFormed (.mctpVendorMessage m image) then done (onSmbus s (vendorMessage m image))
  else .fault (.illFormed "MCTP_VENDOR_MESSAGE")

/-! ### PLDM (R480, R481) -/

/-- A temperature in whole degrees, from tenths. -/
def wholeDegrees (t : Nat) : Nat := t / 10

/-- R480: the numeric sensors, in the order of `Hub.pldm`, as they are read: power in 0.1 W, millivolts, 10 mA, degrees. -/
def readSensors (s : State) : Vector (BitVec 32) 10 :=
  let m := s.pwr.last
  let v := fun (n : Nat) => BitVec.ofNat 32 n
  #v[v m.power.toNat, v m.volt.toNat, v m.curr.toNat, v (wholeDegrees m.inlet.toNat), v (wholeDegrees m.outlet.toNat),
    v (m.tj.getD 0 0).toNat, v (m.tj.getD 1 0).toNat, v (m.tj.getD 2 0).toNat, v (m.tj.getD 3 0).toNat, v m.tjHub.toNat]

/-- R481: the sensors while some partition is confidential: the coarse power of the last minute, the voltage, no current, the
maxima of the temperatures over the last minute. -/
def minuteSensors (s : State) : Vector (BitVec 32) 10 :=
  let w := s.pwr
  let v := fun (n : Nat) => BitVec.ofNat 32 n
  #v[v (coarse w.minute.toNat), v w.last.volt.toNat, 0, v (wholeDegrees (w.maxEnv.getD 1 0)), v (wholeDegrees (w.maxEnv.getD 2 0)),
    v (w.maxTj.getD 0 0).toNat, v (w.maxTj.getD 1 0).toNat, v (w.maxTj.getD 2 0).toNat, v (w.maxTj.getD 3 0).toNat,
    v (w.maxEnv.getD 0 0)]

/-- R480: sensors that the standby island can read in COLD show values that the specification does not give. -/
def islandSensors (s : State) : Vector (BitVec 32) 10 × State :=
  ((Vector.range 10).map fun i => Config.freeValue (s.free + i) 32, { s with free := s.free + 10 })

/-- R480: the sensors update. `readable`: in COLD, whether the standby island can read them. -/
def updateSensors (readable : Bool) (s : State) : State :=
  let cold := s.hub.dev == .cold
  let q := if cold then islandSensors s else (if anyConf s then minuteSensors s else readSensors s, s)
  modHub q.2 fun h => { h with
    pldm := q.1, pldmOk := !cold || readable, pldmDev := BitVec.ofNat 8 (devCode (devNow s))
    pldmHealth := BitVec.ofNat 8 (healthCode s.diag.health) }

def execPldmSensorUpdate (readable : Bool) (s : State) : Host.Outcome State Fault Refusal := done (onSmbus s (updateSensors readable))

/-- R480, R481: a numeric sensor is available. -/
def sensorOk (s : State) (n : Nat) : Bool := s.hub.pldmOk && !(n == 2 && anyConf s)

/-- The ASCII code of a decimal digit. -/
def digitChar (n : Nat) : Byte := BitVec.ofNat 8 (0x30 + n % 10)

/-- R2: the ordering code: "ZVM-4812-F", the ports, "M", the channels, "S" or "N". -/
def orderingCode (o : Options) : Bytes :=
  [0x5A, 0x56, 0x4D, 0x2D, 0x34, 0x38, 0x31, 0x32, 0x2D, 0x46] ++ (if o.f24 then [0x32, 0x34] else [0x33, 0x36]) ++ [0x4D] ++
  (if o.m54 then [0x35, 0x34] else [0x37, 0x32]) ++ [if o.conf then 0x53 else 0x4E]

/-- R480: the FRU record: part number, ordering code, serial number, stepping, IDENTITY. -/
def fruRecord (s : State) : Bytes :=
  Config.fruText 0 ++ orderingCode s.opt ++ Config.fruText 1 ++
  [BitVec.ofNat 8 (0x40 + s.opt.stepLetter.toNat), digitChar s.opt.stepDigit.toNat] ++ identity

/-- R480: a PLDM request and its answer: completion code, operational state (0 enabled, 2 unavailable), value. -/
def pldmAnswer (q : PldmReq) (s : State) : State :=
  match q with
  | .base => answer [0x00, 0x00, 0x02, 0x04] s
  | .numericSensor n =>
    if sensorOk s n.val then
      answer ([0x00, 0x00] ++ leBytes 4 ((if anyConf s then minuteSensors s else s.hub.pldm).getD n.val 0).toNat) s
    else answer [0x00, 0x02] s
  | .deviceState => answer [0x00, 0x00, s.hub.pldmDev] s
  | .healthState => if s.hub.pldmOk then answer [0x00, 0x00, s.hub.pldmHealth] s else answer [0x00, 0x02] s
  | .fru => answer (0x00 :: fruRecord s) s
  | .other _ => answer [0x05] s

def execPldm (q : PldmReq) (s : State) : Host.Outcome State Fault Refusal := done (onSmbus s (pldmAnswer q))

/-! ### The alert response and address resolution (R471, R479) -/

/-- R471: ALERT# is low while the operator notice queue is not empty; the module then answers with its address. -/
def alertLow (s : State) : Bool := !s.mail.opQ.entries.isEmpty

def execAlertResponse (s : State) : Host.Outcome State Fault Refusal :=
  done (onSmbus s fun s => if alertLow s then answer [smbAddress <<< 1] s else s)

/-- R471: WAKE# is low in LOW_POWER while the host notice queue is not empty. -/
def wakeLow (s : State) : Bool := devNow s == .lowPower && !s.mail.hostQ.entries.isEmpty

/-- R454, R478: what an output presents to the board: nothing driven, a level, no level while it floats, or its bus in use. -/
inductive Drive where
  | released | low | high | floats | idle | bus
  deriving DecidableEq, Repr

/-- R478: the outputs of the module. -/
inductive OutPin where
  | pcieTx | fabricTx | prsnt | thermtrip | pgOut | alert | wake | pps | smbus
  deriving DecidableEq, Repr

/-- R478: an open-drain output. -/
def openDrain (pulled : Bool) : Drive := if pulled then .low else .released

/-- R478: outputs of the main power domain with its rails up. -/
def mainPin (s : State) (o : OutPin) : Drive :=
  match o with
  | .pcieTx => if s.pins.perst then .bus else .idle
  | .fabricTx => if !s.pins.perst then .released else if s.pwr.pstate = .sleep then .floats else .bus
  | .alert => openDrain (s.pins.perst && alertLow s)
  | .wake => openDrain (s.pins.perst && wakeLow s)
  | .pps => if s.pins.perst && s.pins.pps then .high else .low
  | _ => .released

/-- R471, R478: what an output presents; only those of the standby domain are driven while the rails are down. -/
def pinDrive (s : State) (o : OutPin) : Drive :=
  match o with
  | .prsnt => .low
  | .pgOut => if s.pins.pgOut then .high else .low
  | .thermtrip => openDrain (s.pins.v12sb && !s.pins.thermtrip)
  | .smbus => if s.pins.v12sb then .bus else .released
  | o => if s.pins.pgOut then mainPin s o else if s.pins.v12sb then .floats else .released

/-- R479: the Address Resolution Protocol, as a device with a fixed address answers it. -/
def arpAnswer (a : ArpCmd) (s : State) : State :=
  match a with
  | .prepare => modHub s fun h => { h with arpDone := false }
  | .reset => modHub s fun h => { h with arpDone := false }
  | .getUdid => if s.hub.arpDone then s else answer (([0x11] : Bytes) ++ fit 16 Config.udid ++ [(smbAddress <<< 1) ||| 1]) s
  | .assign addr => if addr.setWidth 8 = smbAddress then modHub s fun h => { h with arpDone := true } else s

def execAddressResolutionProtocol (a : ArpCmd) (s : State) : Host.Outcome State Fault Refusal := done (onSmbus s (arpAnswer a))

/-! ### The test access port (R434) -/

/-- R434: the instruction is available; otherwise it acts as BYPASS. -/
def tapAllowed (s : State) : TapInstr → Bool
  | .idcode => true
  | .bypass => true
  | .samplePreload => !anyConf s
  | .extest => !anyConf s
  | .debugAccess => dbgEn s
  | .traceControl => dbgEn s
  | .traceReadout => dbgEn s

/-- R434, R471: the port stands in the main power domain. -/
def execTapInstruction (t : TapInstr) (s : State) : Host.Outcome State Fault Refusal :=
  done (if s.pins.pgOut then emit s (.tap t (tapAllowed s t)) else s)

end Sys2Proof.Machine
end

