-- ==== Sys2Proof/Machine/Dispatch.lean ====
section
/-! DEFINITION. The meaning of every command: one arm per constructor, each one call of its meaning. -/

namespace Sys2Proof.Machine

def exec (i : Instr) (s : State) : Host.Outcome State Fault Refusal :=
  match i with
  | .ping r deadlineUs => Sys2Proof.Machine.execPing r deadlineUs s
  | .getInfo r select core => Sys2Proof.Machine.execGetInfo r select core s
  | .noticeGet r max waitUs => Sys2Proof.Machine.execNoticeGet r max waitUs s
  | .deviceStart r fabAddr => Sys2Proof.Machine.execDeviceStart r fabAddr s
  | .deviceStop r => Sys2Proof.Machine.execDeviceStop r s
  | .drain r mode deadlineMs => Sys2Proof.Machine.execDrain r mode deadlineMs s
  | .drainDeadline => Sys2Proof.Machine.execDrainDeadline s
  | .partLayout r layout => Sys2Proof.Machine.execPartLayout r layout s
  | .selectProfile r profile persist => Sys2Proof.Machine.execSelectProfile r profile persist s
  | .lowPower r target retain abandon => Sys2Proof.Machine.execLowPower r target retain abandon s
  | .wake r => Sys2Proof.Machine.execWake r s
  | .timeMaster r epoch gen => Sys2Proof.Machine.execTimeMaster r epoch gen s
  | .timeConfig r recs => Sys2Proof.Machine.execTimeConfig r recs s
  | .routeWrite r first dateline entries => Sys2Proof.Machine.execRouteWrite r first dateline entries s
  | .portRetrain r port full => Sys2Proof.Machine.execPortRetrain r port full s
  | .collStart r engine progVa tLaunch => Sys2Proof.Machine.execCollStart r engine progVa tLaunch s
  | .ctxOpen r part pmLen => Sys2Proof.Machine.execCtxOpen r part pmLen s
  | .ctxClose r => Sys2Proof.Machine.execCtxClose r s
  | .ctxConfig r recs => Sys2Proof.Machine.execCtxConfig r recs s
  | .jobConfig r recs => Sys2Proof.Machine.execJobConfig r recs s
  | .map r items => Sys2Proof.Machine.execMap r items s
  | .unmap r first count => Sys2Proof.Machine.execUnmap r first count s
  | .memPolicy r recs => Sys2Proof.Machine.execMemPolicy r recs s
  | .streamStart r core slot cls role shard pgen descVa recVa => Sys2Proof.Machine.execStreamStart r core slot cls role shard pgen descVa recVa s
  | .pairSet r peer peerCtx winMgrad winLedger => Sys2Proof.Machine.execPairSet r peer peerCtx winMgrad winLedger s
  | .absorb r shardId => Sys2Proof.Machine.execAbsorb r shardId s
  | .downbeatArm r step tLaunch progVa engine => Sys2Proof.Machine.execDownbeatArm r step tLaunch progVa engine s
  | .downbeatResolve r result tCommit => Sys2Proof.Machine.execDownbeatResolve r result tCommit s
  | .downbeatAbandon r step => Sys2Proof.Machine.execDownbeatAbandon r step s
  | .shardRepair r region chunk partnerChunk => Sys2Proof.Machine.execShardRepair r region chunk partnerChunk s
  | .shardFill r role region first count win => Sys2Proof.Machine.execShardFill r role region first count win s
  | .quotaSet r quota => Sys2Proof.Machine.execQuotaSet r quota s
  | .placement r gen accept => Sys2Proof.Machine.execPlacement r gen accept s
  | .ledgerTimes r firstStep count digests => Sys2Proof.Machine.execLedgerTimes r firstStep count digests s
  | .pealArm r step => Sys2Proof.Machine.execPealArm r step s
  | .pealQuiesce r tq => Sys2Proof.Machine.execPealQuiesce r tq s
  | .pealResume r tr => Sys2Proof.Machine.execPealResume r tr s
  | .pealAbort r => Sys2Proof.Machine.execPealAbort r s
  | .pealTarget r slot extents => Sys2Proof.Machine.execPealTarget r slot extents s
  | .pealScan r slots manifests => Sys2Proof.Machine.execPealScan r slots manifests s
  | .restore r step items sources => Sys2Proof.Machine.execRestore r step items sources s
  | .cfgBegin r => Sys2Proof.Machine.execCfgBegin r s
  | .cfgWrite r region offset data => Sys2Proof.Machine.execCfgWrite r region offset data s
  | .cfgCommit r abandon => Sys2Proof.Machine.execCfgCommit r abandon s
  | .cfgRead r src region offset n => Sys2Proof.Machine.execCfgRead r src region offset n s
  | .cfgSessionTimeout => Sys2Proof.Machine.execCfgSessionTimeout s
  | .updateWrite r ty offset data => Sys2Proof.Machine.execUpdateWrite r ty offset data s
  | .updateVerify r ty sigOk => Sys2Proof.Machine.execUpdateVerify r ty sigOk s
  | .updateActivate r ty windowMs => Sys2Proof.Machine.execUpdateActivate r ty windowMs s
  | .updateStatus r ty => Sys2Proof.Machine.execUpdateStatus r ty s
  | .logRead r fromSeq max => Sys2Proof.Machine.execLogRead r fromSeq max s
  | .dumpRead r offset n => Sys2Proof.Machine.execDumpRead r offset n s
  | .lifetimeRead r offset n => Sys2Proof.Machine.execLifetimeRead r offset n s
  | .selftest r kind core failing => Sys2Proof.Machine.execSelftest r kind core failing s
  | .rimshot r d => Sys2Proof.Machine.execRimshot r d s
  | .ctxRecover r => Sys2Proof.Machine.execCtxRecover r s
  | .pwrRead r => Sys2Proof.Machine.execPwrRead r s
  | .pwrTenantCap r capW => Sys2Proof.Machine.execPwrTenantCap r capW s
  | .opAuth r phase mac => Sys2Proof.Machine.execOpAuth r phase mac s
  | .opSecretSet r secret => Sys2Proof.Machine.execOpSecretSet r secret s
  | .opContractSet r fast minute ramp floor => Sys2Proof.Machine.execOpContractSet r fast minute ramp floor s
  | .opContractGet r => Sys2Proof.Machine.execOpContractGet r s
  | .opPwrRead r => Sys2Proof.Machine.execOpPwrRead r s
  | .secConf r part enable => Sys2Proof.Machine.execSecConf r part enable s
  | .secJobKey r ctx key => Sys2Proof.Machine.execSecJobKey r ctx key s
  | .secE2eKey r ctx key tSwitch members => Sys2Proof.Machine.execSecE2eKey r ctx key tSwitch members s
  | .secRotate r ctx kind key => Sys2Proof.Machine.execSecRotate r ctx kind key s
  | .secAttest r nonce obj offset => Sys2Proof.Machine.execSecAttest r nonce obj offset s
  | .getKem r => Sys2Proof.Machine.execGetKem r s
  | .sessOpen r part ct => Sys2Proof.Machine.execSessOpen r part ct s
  | .sealed r sid sseq tagOk iseq ictx inner => Sys2Proof.Machine.execSealed r sid sseq tagOk iseq ictx inner s
  | .sessClose r sid => Sys2Proof.Machine.execSessClose r sid s
  | .secRead r offset n => Sys2Proof.Machine.execSecRead r offset n s
  | .secIdeKey r part stream kset keys => Sys2Proof.Machine.execSecIdeKey r part stream kset keys s
  | .secDebugToken r identity boots scope sigOk => Sys2Proof.Machine.execSecDebugToken r identity boots scope sigOk s
  | .mbxHandover m => Sys2Proof.Machine.execMbxHandover m s
  | .mbxRelease m => Sys2Proof.Machine.execMbxRelease m s
  | .requestBufferWrite m offset data => Sys2Proof.Machine.execRequestBufferWrite m offset data s
  | .hubBelfryRst value => Sys2Proof.Machine.execHubBelfryRst value s
  | .belfryRestartComplete recordValid => Sys2Proof.Machine.execBelfryRestartComplete recordValid s
  | .dumpFlashCopy => Sys2Proof.Machine.execDumpFlashCopy s
  | .registerWriteNoEffect offset value => Sys2Proof.Machine.execRegisterWriteNoEffect offset value s
  | .loRead path offset => Sys2Proof.Machine.execLoRead path offset s
  | .hiRead path offset => Sys2Proof.Machine.execHiRead path offset s
  | .timeFrameSend p => Sys2Proof.Machine.execTimeFrameSend p s
  | .timeFrame p f => Sys2Proof.Machine.execTimeFrame p f s
  | .timeExchange p x => Sys2Proof.Machine.execTimeExchange p x s
  | .acquireLoad p x => Sys2Proof.Machine.execAcquireLoad p x s
  | .acquiringTimeout => Sys2Proof.Machine.execAcquiringTimeout s
  | .holdover => Sys2Proof.Machine.execHoldover s
  | .unlocked => Sys2Proof.Machine.execUnlocked s
  | .beatBoundary m => Sys2Proof.Machine.execBeatBoundary m s
  | .cadEdge => Sys2Proof.Machine.execCadEdge s
  | .cadLost => Sys2Proof.Machine.execCadLost s
  | .timePpsOut => Sys2Proof.Machine.execTimePpsOut s
  | .launchFire a => Sys2Proof.Machine.execLaunchFire a s
  | .descriptorFetch c slot ahead lost => Sys2Proof.Machine.execDescriptorFetch c slot ahead lost s
  | .copy c slot => Sys2Proof.Machine.execCopy c slot s
  | .copyRequestIssue c id => Sys2Proof.Machine.execCopyRequestIssue c id s
  | .copyRequestDone c id n d => Sys2Proof.Machine.execCopyRequestDone c id n d s
  | .runAheadRead c x n d => Sys2Proof.Machine.execRunAheadRead c x n d s
  | .xlatMissResolved c page => Sys2Proof.Machine.execXlatMissResolved c page s
  | .mma c slot => Sys2Proof.Machine.execMma c slot s
  | .passComplete c parity => Sys2Proof.Machine.execPassComplete c parity s
  | .stationaryFillDone c => Sys2Proof.Machine.execStationaryFillDone c s
  | .drainComplete c flips treeFault => Sys2Proof.Machine.execDrainComplete c flips treeFault s
  | .mv c slot => Sys2Proof.Machine.execMv c slot s
  | .mvComplete c fault => Sys2Proof.Machine.execMvComplete c fault s
  | .vec c slot => Sys2Proof.Machine.execVec c slot s
  | .vecComplete c thread fault => Sys2Proof.Machine.execVecComplete c thread fault s
  | .gatherArrival c x => Sys2Proof.Machine.execGatherArrival c x s
  | .wait c slot => Sys2Proof.Machine.execWait c slot s
  | .signal c slot => Sys2Proof.Machine.execSignal c slot s
  | .peerSignalArrival c => Sys2Proof.Machine.execPeerSignalArrival c s
  | .launchAt c slot => Sys2Proof.Machine.execLaunchAt c slot s
  | .fence c slot => Sys2Proof.Machine.execFence c slot s
  | .loop c slot => Sys2Proof.Machine.execLoop c slot s
  | .branch c slot => Sys2Proof.Machine.execBranch c slot s
  | .setbase c slot => Sys2Proof.Machine.execSetbase c slot s
  | .waitLow c slot abandon => Sys2Proof.Machine.execWaitLow c slot abandon s
  | .coreWake c why => Sys2Proof.Machine.execCoreWake c why s
  | .endStream c slot => Sys2Proof.Machine.execEndStream c slot s
  | .replayResult c n out => Sys2Proof.Machine.execReplayResult c n out s
  | .replaySlotTimeout c n => Sys2Proof.Machine.execReplaySlotTimeout c n s
  | .coreRetire c => Sys2Proof.Machine.execCoreRetire c s
  | .auditStart c => Sys2Proof.Machine.execAuditStart c s
  | .auditComplete c grads digest => Sys2Proof.Machine.execAuditComplete c grads digest s
  | .memoryRead p j epoch ctx gen err1 again => Sys2Proof.Machine.execMemoryRead p j epoch ctx gen err1 again s
  | .memoryWrite p j epoch ctx gen x => Sys2Proof.Machine.execMemoryWrite p j epoch ctx gen x s
  | .scrub p err1 err2 => Sys2Proof.Machine.execScrub p err1 err2 s
  | .crcAttribution c va ok1 ok2 => Sys2Proof.Machine.execCrcAttribution c va ok1 ok2 s
  | .migrationStart ch mapOut targetOk => Sys2Proof.Machine.execMigrationStart ch mapOut targetOk s
  | .migrationSlotCopy x => Sys2Proof.Machine.execMigrationSlotCopy x s
  | .migrationComplete ch rate eye => Sys2Proof.Machine.execMigrationComplete ch rate eye s
  | .channelFail ch => Sys2Proof.Machine.execChannelFail ch s
  | .write p k tagOk => Sys2Proof.Machine.execWrite p k tagOk s
  | .readReq p k tagOk => Sys2Proof.Machine.execReadReq p k tagOk s
  | .readResp p k tagOk => Sys2Proof.Machine.execReadResp p k tagOk s
  | .compl p k => Sys2Proof.Machine.execCompl p k s
  | .signalPacket p k tagOk => Sys2Proof.Machine.execSignalPacket p k tagOk s
  | .collData p k tagOk => Sys2Proof.Machine.execCollData p k tagOk s
  | .collCtrl p k tag b => Sys2Proof.Machine.execCollCtrl p k tag b s
  | .knell p k => Sys2Proof.Machine.execKnell p k s
  | .linkup p k => Sys2Proof.Machine.execLinkup p k s
  | .link p k => Sys2Proof.Machine.execLink p k s
  | .packetForward p k => Sys2Proof.Machine.execPacketForward p k s
  | .packetAgeDrop d k => Sys2Proof.Machine.execPacketAgeDrop d k s
  | .requestTimeout reqId => Sys2Proof.Machine.execRequestTimeout reqId s
  | .frameReceive p fseq x symbols good => Sys2Proof.Machine.execFrameReceive p fseq x symbols good s
  | .frameReplay p fromSeq => Sys2Proof.Machine.execFrameReplay p fromSeq s
  | .portProbe p partner => Sys2Proof.Machine.execPortProbe p partner s
  | .trainingComplete p lanes asym peer peerPort secOk => Sys2Proof.Machine.execTrainingComplete p lanes asym peer peerPort secOk s
  | .trainingTimeout p => Sys2Proof.Machine.execTrainingTimeout p s
  | .relock p regained => Sys2Proof.Machine.execRelock p regained s
  | .relockExpiry p => Sys2Proof.Machine.execRelockExpiry p s
  | .laneEvaluation p bad => Sys2Proof.Machine.execLaneEvaluation p bad s
  | .groupLost g => Sys2Proof.Machine.execGroupLost g s
  | .cblPrsnt g level => Sys2Proof.Machine.execCblPrsnt g level s
  | .rekey p => Sys2Proof.Machine.execRekey p s
  | .rekeyOverdue p => Sys2Proof.Machine.execRekeyOverdue p s
  | .checkFailRetrain p => Sys2Proof.Machine.execCheckFailRetrain p s
  | .send e n => Sys2Proof.Machine.execSend e n s
  | .recv e n => Sys2Proof.Machine.execRecv e n s
  | .recvReduce e n => Sys2Proof.Machine.execRecvReduce e n s
  | .reduceSend e n => Sys2Proof.Machine.execReduceSend e n s
  | .recvSend e n => Sys2Proof.Machine.execRecvSend e n s
  | .and e n => Sys2Proof.Machine.execAnd e n s
  | .andDeadline e n => Sys2Proof.Machine.execAndDeadline e n s
  | .bcast e n => Sys2Proof.Machine.execBcast e n s
  | .bcastTimeout e n => Sys2Proof.Machine.execBcastTimeout e n s
  | .waitTime e n => Sys2Proof.Machine.execWaitTime e n s
  | .collSignal e n => Sys2Proof.Machine.execCollSignal e n s
  | .collEnd e n => Sys2Proof.Machine.execCollEnd e n s
  | .collRecvTimeout e n => Sys2Proof.Machine.execCollRecvTimeout e n s
  | .readyBit c => Sys2Proof.Machine.execReadyBit c s
  | .commit c => Sys2Proof.Machine.execCommit c s
  | .digestFormed c => Sys2Proof.Machine.execDigestFormed c s
  | .digestRecord c rec => Sys2Proof.Machine.execDigestRecord c rec s
  | .auditCopyComplete c => Sys2Proof.Machine.execAuditCopyComplete c s
  | .shardTransferChunk c x => Sys2Proof.Machine.execShardTransferChunk c x s
  | .pealComplete c => Sys2Proof.Machine.execPealComplete c s
  | .pealFail c => Sys2Proof.Machine.execPealFail c s
  | .quiesceBarrier c => Sys2Proof.Machine.execQuiesceBarrier c s
  | .quiesceCapture c => Sys2Proof.Machine.execQuiesceCapture c s
  | .quiesceBound c => Sys2Proof.Machine.execQuiesceBound c s
  | .quiesceResume c => Sys2Proof.Machine.execQuiesceResume c s
  | .fenceContext c => Sys2Proof.Machine.execFenceContext c s
  | .fenceDrainComplete c => Sys2Proof.Machine.execFenceDrainComplete c s
  | .drainOverrun core ch c => Sys2Proof.Machine.execDrainOverrun core ch c s
  | .computeDieReset d => Sys2Proof.Machine.execComputeDieReset d s
  | .bridgeFail a b => Sys2Proof.Machine.execBridgeFail a b s
  | .dieReturn d => Sys2Proof.Machine.execDieReturn d s
  | .selftestComplete slot pass => Sys2Proof.Machine.execSelftestComplete slot pass s
  | .bootComplete belfryOk hubOk bad trained => Sys2Proof.Machine.execBootComplete belfryOk hubOk bad trained s
  | .linkCredentialSign => Sys2Proof.Machine.execLinkCredentialSign s
  | .handoffComplete => Sys2Proof.Machine.execHandoffComplete s
  | .handoffFail => Sys2Proof.Machine.execHandoffFail s
  | .microcodeRollCore c => Sys2Proof.Machine.execMicrocodeRollCore c s
  | .phyRollPort p ok => Sys2Proof.Machine.execPhyRollPort p ok s
  | .logFlush => Sys2Proof.Machine.execLogFlush s
  | .lifetimeWrite => Sys2Proof.Machine.execLifetimeWrite s
  | .health => Sys2Proof.Machine.execHealth s
  | .chime => Sys2Proof.Machine.execChime s
  | .rimshotFire n => Sys2Proof.Machine.execRimshotFire n s
  | .rimshotMuteEnd n => Sys2Proof.Machine.execRimshotMuteEnd n s
  | .sweepPage p badBlocks => Sys2Proof.Machine.execSweepPage p badBlocks s
  | .blankPage p => Sys2Proof.Machine.execBlankPage p s
  | .e2eKeySwitch c => Sys2Proof.Machine.execE2eKeySwitch c s
  | .e2eOldKeyErase c => Sys2Proof.Machine.execE2eOldKeyErase c s
  | .ideLeaveSecure p => Sys2Proof.Machine.execIdeLeaveSecure p s
  | .signatureToken => Sys2Proof.Machine.execSignatureToken s
  | .lmsTreeBuilt => Sys2Proof.Machine.execLmsTreeBuilt s
  | .deviceWake => Sys2Proof.Machine.execDeviceWake s
  | .minuteEnd => Sys2Proof.Machine.execMinuteEnd s
  | .thermtrip die => Sys2Proof.Machine.execThermtrip die s
  | .pwrEn level => Sys2Proof.Machine.execPwrEn level s
  | .pgOut => Sys2Proof.Machine.execPgOut s
  | .perst level profSel forceSafe => Sys2Proof.Machine.execPerst level profSel forceSafe s
  | .vin54 inRange => Sys2Proof.Machine.execVin54 inRange s
  | .v12Sb present => Sys2Proof.Machine.execV12Sb present s
  | .mctpControl m => Sys2Proof.Machine.execMctpControl m s
  | .pldm q => Sys2Proof.Machine.execPldm q s
  | .mctpVendorMessage m image => Sys2Proof.Machine.execMctpVendorMessage m image s
  | .alertResponse => Sys2Proof.Machine.execAlertResponse s
  | .tapInstruction t => Sys2Proof.Machine.execTapInstruction t s
  | .reservedOpcode c slot => Sys2Proof.Machine.execReservedOpcode c slot s
  | .transposerFillDone c => Sys2Proof.Machine.execTransposerFillDone c s
  | .securityCoreFault => Sys2Proof.Machine.execSecurityCoreFault s
  | .retentionSramError => Sys2Proof.Machine.execRetentionSramError s
  | .ideStreamSecure p => Sys2Proof.Machine.execIdeStreamSecure p s
  | .addressResolutionProtocol a => Sys2Proof.Machine.execAddressResolutionProtocol a s
  | .pldmSensorUpdate readable => Sys2Proof.Machine.execPldmSensorUpdate readable s

end Sys2Proof.Machine
end

