-- ==== Sys2Proof/Safety.lean ====
section
/-! DEFINITION. What counts as a safe step and a safe run: the block goes on, with neither a fault nor a refusal. -/

namespace Sys2Proof.Machine

/-- The step gives a next state. -/
def SafeStep (s : State) : Prop := ∃ t, step s = .next t

/-- Every one of the next `n` steps gives a next state. -/
def SafeFor : Nat → State → Prop
  | 0, _ => True
  | n + 1, s => ∃ t, step s = .next t ∧ SafeFor n t

/-! ### What a claim about a command says -/

/-- Everything outside the hub and the mailboxes is the same, and what has left the module stays sent. -/
structure Untouched (s t : State) : Prop where
  opt : t.opt = s.opt
  pins : t.pins = s.pins
  time : t.time = s.time
  latches : t.latches = s.latches
  ticks : t.ticks = s.ticks
  slots : t.slots = s.slots
  lcores : t.lcores = s.lcores
  mem : t.mem = s.mem
  ctxs : t.ctxs = s.ctxs
  fab : t.fab = s.fab
  sec : t.sec = s.sec
  pwr : t.pwr = s.pwr
  diag : t.diag = s.diag
  free : t.free = s.free
  pending : t.pending = s.pending
  outbox : s.outbox <:+ t.outbox

/-- What the mailboxes keep while requests are answered: nothing but responses, buffers, notices, update phases and
waiting requests moves, and a response once given stays on record. -/
structure MailKept (a b : Mail) : Prop where
  responses : a.responses <:+ b.responses
  deferred : b.deferred = a.deferred
  session : b.session = a.session
  opAuth : b.opAuth = a.opAuth
  opSecret : b.opSecret = a.opSecret
  challenge : b.challenge = a.challenge
  volatile : b.volatile = a.volatile
  factory : b.factory = a.factory
  copyA : b.copyA = a.copyA
  copyB : b.copyB = a.copyB
  sessions : b.sessions = a.sessions
  cal : b.cal = a.cal

/-- What the hub keeps at the end of a step: only the shown state, a drain and an activation can move. -/
structure HubKept (a b : Hub) : Prop where
  mapGen : b.mapGen = a.mapGen
  capGen : b.capGen = a.capGen
  coreMap : b.coreMap = a.coreMap
  chanMap : b.chanMap = a.chanMap
  layout : b.layout = a.layout
  conf : b.conf = a.conf
  started : b.started = a.started
  fenced : b.fenced = a.fenced
  belfryDown : b.belfryDown = a.belfryDown
  low : b.low = a.low
  diesDown : b.diesDown = a.diesDown
  profile : b.profile = a.profile
  safe : b.safe = a.safe
  chime : b.chime = a.chime
  causeDev : b.causeDev = a.causeDev
  causeBelfry : b.causeBelfry = a.causeBelfry
  bCount : b.bCount = a.bCount
  lastRestart : b.lastRestart = a.lastRestart
  tripped : b.tripped = a.tripped
  slotRetired : b.slotRetired = a.slotRetired
  slotTesting : b.slotTesting = a.slotTesting
  retire : b.retire = a.retire
  wakeReq : b.wakeReq = a.wakeReq
  token : b.token = a.token
  pldm : b.pldm = a.pldm
  eid : b.eid = a.eid
  bootRom : b.bootRom = a.bootRom
  cfgCopyB : b.cfgCopyB = a.cfgCopyB
  cfgDefault : b.cfgDefault = a.cfgDefault
  bootAt : b.bootAt = a.bootAt
  lpTarget : b.lpTarget = a.lpTarget
  retain : b.retain = a.retain
  pldmOk : b.pldmOk = a.pldmOk
  pldmDev : b.pldmDev = a.pldmDev
  pldmHealth : b.pldmHealth = a.pldmHealth
  arpDone : b.arpDone = a.arpDone

/-- `t` is `s` up to what every step does last (`settle`): requests that have come due are answered, the device state is shown and
its notice delivered. Nothing else moved. -/
structure Settled (s t : State) : Prop where
  out : Untouched s t
  mail : MailKept s.mail t.mail
  hub : HubKept s.hub t.hub

/-- The command answers a next state, which is `s'` up to what every step does last. -/
def Leads (c : Instr) (s s' : State) : Prop := ∃ t, exec c s = .next t ∧ Settled s' t

/-- The command answers a next state of which `P` holds. -/
def Completes (c : Instr) (s : State) (P : State → Prop) : Prop := ∃ t, exec c s = .next t ∧ P t

/-- Between `s` and `t` the request was answered with this command code, status and body; the last responses of `t` are those of
`s`, this one, and what later requests got. -/
def Answers (s t : State) (r : Req) (code : BitVec 16) (status : BitVec 8) (body : Bytes) : Prop :=
  ∃ x, x :: s.mail.responses <:+ t.mail.responses ∧ x.mbx = r.mbx.val ∧ x.path = r.path ∧ x.seq = r.seq ∧ x.cmd = code ∧
    x.status = status ∧ x.body = body

/-- The request a mailbox command carries, its command code and the device states in which it is legal (R352 to R359); none for
what is no mailbox command. -/
def requestOf : Instr → Option (Req × BitVec 16 × BitVec 32)
  | .ping r _ => some (r, 0x0001, setAny)
  | .getInfo r _ _ => some (r, 0x0002, setAny)
  | .noticeGet r _ _ => some (r, 0x0003, setAny)
  | .deviceStart r _ => some (r, 0x0004, 0x004)
  | .deviceStop r => some (r, 0x0005, 0x008)
  | .drain r _ _ => some (r, 0x0006, 0x118)
  | .partLayout r _ => some (r, 0x0007, setCfg)
  | .selectProfile r _ _ => some (r, 0x0008, 0x004)
  | .lowPower r _ _ _ => some (r, 0x0009, 0x008)
  | .wake r => some (r, 0x000A, 0x200)
  | .timeMaster r _ _ => some (r, 0x0101, setUp)
  | .timeConfig r _ => some (r, 0x0102, setUp)
  | .routeWrite r _ _ _ => some (r, 0x0103, setLive)
  | .portRetrain r _ _ => some (r, 0x0104, setLive)
  | .collStart r _ _ _ => some (r, 0x0105, setWork)
  | .ctxOpen r _ _ => some (r, 0x0201, setWork)
  | .ctxClose r => some (r, 0x0202, setLive)
  | .ctxConfig r _ => some (r, 0x0203, setWork)
  | .jobConfig r _ => some (r, 0x0204, setWork)
  | .map r _ => some (r, 0x0205, setWork)
  | .unmap r _ _ => some (r, 0x0206, setLive)
  | .memPolicy r _ => some (r, 0x0207, setUp)
  | .streamStart r _ _ _ _ _ _ _ _ => some (r, 0x0208, setWork)
  | .pairSet r _ _ _ _ => some (r, 0x0301, setWork)
  | .absorb r _ => some (r, 0x0302, setWork)
  | .downbeatArm r _ _ _ _ => some (r, 0x0303, setWork)
  | .downbeatResolve r _ _ => some (r, 0x0304, setWork)
  | .downbeatAbandon r _ => some (r, 0x0305, setWork)
  | .shardRepair r _ _ _ => some (r, 0x0306, setWork)
  | .shardFill r _ _ _ _ _ => some (r, 0x0307, setWork)
  | .quotaSet r _ => some (r, 0x0308, setWork)
  | .placement r _ _ => some (r, 0x0309, setWork)
  | .ledgerTimes r _ _ _ => some (r, 0x030A, setWork)
  | .pealArm r _ => some (r, 0x0401, setWork)
  | .pealQuiesce r _ => some (r, 0x0402, setWork)
  | .pealResume r _ => some (r, 0x0403, setWork)
  | .pealAbort r => some (r, 0x0404, setWork)
  | .pealTarget r _ _ => some (r, 0x0405, setWork)
  | .pealScan r _ _ => some (r, 0x0406, setWork)
  | .restore r _ _ _ => some (r, 0x0407, setWork)
  | .cfgBegin r => some (r, 0x0501, setUp)
  | .cfgWrite r _ _ _ => some (r, 0x0502, setUp)
  | .cfgCommit r _ => some (r, 0x0503, setUp)
  | .cfgRead r _ _ _ _ => some (r, 0x0504, setAny)
  | .updateWrite r _ _ _ => some (r, 0x0510, setAny)
  | .updateVerify r _ _ => some (r, 0x0511, setAny)
  | .updateActivate r ty _ => some (r, 0x0512, activateSet ty)
  | .updateStatus r _ => some (r, 0x0513, setAny)
  | .logRead r _ _ => some (r, 0x0601, setAny)
  | .dumpRead r _ _ => some (r, 0x0602, setAny)
  | .lifetimeRead r _ _ => some (r, 0x0603, setAny)
  | .selftest r _ _ _ => some (r, 0x0604, setLive)
  | .rimshot r _ => some (r, 0x0605, setLive)
  | .ctxRecover r => some (r, 0x0606, setLive)
  | .pwrRead r => some (r, 0x0701, setAny)
  | .pwrTenantCap r _ => some (r, 0x0702, setWork)
  | .opAuth r _ _ => some (r, 0x0801, setAny)
  | .opSecretSet r _ => some (r, 0x0802, setAny)
  | .opContractSet r _ _ _ _ => some (r, 0x0803, setAny)
  | .opContractGet r => some (r, 0x0804, setAny)
  | .opPwrRead r => some (r, 0x0805, setAny)
  | .secConf r _ _ => some (r, 0x0901, setCfg)
  | .secJobKey r _ _ => some (r, 0x0902, setWork)
  | .secE2eKey r _ _ _ _ => some (r, 0x0903, setWork)
  | .secRotate r _ _ _ => some (r, 0x0904, setWork)
  | .secAttest r _ _ _ => some (r, 0x0905, setAny)
  | .getKem r => some (r, 0x0906, setWork)
  | .sealed r _ _ _ _ _ _ => some (r, 0x0906, setWork)
  | .sessClose r _ => some (r, 0x0906, setWork)
  | .sessOpen r _ _ => some (r, 0x0906, setWork)
  | .secRead r _ _ => some (r, 0x0907, setLive)
  | .secIdeKey r _ _ _ _ => some (r, 0x0908, setWork)
  | .secDebugToken r _ _ _ _ => some (r, 0x0909, setUp)
  | _ => none

/-- The state in which a request is judged: the last command of the holder of a configuration session is noted (R367). -/
def takenUp (r : Req) (code : BitVec 16) (s : State) : State :=
  if r.mbx.val = 18 ∧ r.path ≠ .smbus then s else touchSession r code s

/-- The module takes up requests of this mailbox and path: the device is neither COLD nor BOOTING, and the Belfry, or for its own
mailbox the security core, serves (R336, R349, R373, R394). -/
def Serving (r : Req) (s : State) : Prop :=
  s.hub.dev ≠ .cold ∧ s.hub.dev ≠ .booting ∧ s.hub.bootRom = false ∧
  (if r.mbx.val = 18 ∧ r.path ≠ .smbus then s.sec.faulted = false else belfryUp s = true)

/-- Nothing waits for an answer: no NOTICE_GET, no DRAIN, no activation. -/
def NothingWaits (s : State) : Prop := s.mail.waiters = [] ∧ s.hub.drainReq = none ∧ s.hub.actReq = none

/-- No context is near its bound of tag failures, so that none is locked out by what the step ends with (R416). -/
def NoLockout (s : State) : Prop := ∀ c, (getCtx s c).sec.tags.length < 16

/-- A request of command `code`, legal in the device states of `legal`, is taken up and judged on its own merits: the mailbox and
the path permit the command (R346, R347), and the device state is in the set (R352). -/
def Ready (code : BitVec 16) (legal : BitVec 32) (r : Req) (s : State) : Prop :=
  Serving r s ∧ permitted s r code = true ∧ inSet legal (devNow s) = true

/-- The command is served: it answers a next state, `s'` up to what every step does last, and its request is answered. -/
def Serves (c : Instr) (s s' : State) (r : Req) (code : BitVec 16) (status : BitVec 8) (body : Bytes) : Prop :=
  ∃ t, exec c s = .next t ∧ Settled s' t ∧ Answers s t r code status body

/-- R343: the command answers STATE_CONFLICT with the conflicting unit, its state code and the states in which the command is legal; the next
state is `s'` up to what every step does last. -/
def ConflictsTo (c : Instr) (s s' : State) (r : Req) (code : BitVec 16) (unit : BitVec 8) (detail : BitVec 16) (legal : BitVec 32) : Prop :=
  ∃ t, exec c s = .next t ∧ Settled s' t ∧ ∃ x, x :: s.mail.responses <:+ t.mail.responses ∧ x.mbx = r.mbx.val ∧ x.path = r.path ∧
    x.seq = r.seq ∧ x.cmd = code ∧ x.status = 0x02 ∧ x.conflict = unit ∧ x.detail = detail ∧ x.legal = legal ∧ x.body = []

/-- R343: the same, and nothing else has moved. -/
def Conflicts (c : Instr) (s : State) (r : Req) (code : BitVec 16) (unit : BitVec 8) (detail : BitVec 16) (legal : BitVec 32) : Prop :=
  ConflictsTo c s s r code unit detail legal

/-- R342: the command answers with an error status and a DETAIL, without a conflicting unit and without a body; the next state is `s'` up
to what every step does last. -/
def RefusesTo (c : Instr) (s s' : State) (r : Req) (code : BitVec 16) (status : BitVec 8) (detail : Nat) : Prop :=
  ∃ t, exec c s = .next t ∧ Settled s' t ∧ ∃ x, x :: s.mail.responses <:+ t.mail.responses ∧ x.mbx = r.mbx.val ∧ x.path = r.path ∧
    x.seq = r.seq ∧ x.cmd = code ∧ x.status = status ∧ x.conflict = 0 ∧ x.detail = BitVec.ofNat 16 detail ∧ x.body = []

/-- R342: the same, and nothing else has moved. -/
def Refuses (c : Instr) (s : State) (r : Req) (code : BitVec 16) (status : BitVec 8) (detail : Nat) : Prop :=
  RefusesTo c s s r code status detail

/-- R48, R50, R360: a record of a key of TIME_CONFIG with a value in its range. -/
def timeRecordOk (v : Setting) : Bool :=
  ([0x100, 0x101, 0x104].contains v.key.toNat && decide (v.value.toNat ≤ 1)) ||
  (v.key.toNat == 0x102 && decide (v.value.toNat ≤ 255)) || (v.key.toNat == 0x103 && decide (v.value.toNat ≤ 65535)) ||
  (v.key.toNat == 0x105 && decide (1 ≤ v.value.toNat) && decide (v.value.toNat ≤ 255))

/-- R210, R360: a record of a key of MEM_POLICY with a value in its range. -/
def memRecordOk (v : Setting) : Bool :=
  let x := v.value.toNat
  (v.key.toNat == 0x400 && decide (1000 ≤ x ∧ x ≤ 1000000)) || ([0x401, 0x402].contains v.key.toNat && decide (1 ≤ x ∧ x ≤ 100)) ||
  (v.key.toNat == 0x403 && decide (1 ≤ x ∧ x ≤ 10)) || (v.key.toNat == 0x404 && decide (1 ≤ x ∧ x ≤ 168)) ||
  (v.key.toNat == 0x405 && decide (50 ≤ x ∧ x ≤ 500))

/-- The value that the last record of a list gives a key, else `d`. -/
def lastOf (recs : List Setting) (key : Nat) (d : BitVec 64) : BitVec 64 :=
  ((recs.reverse.find? fun q => q.key.toNat == key).map (·.value)).getD d

/-- Module memory, the contexts, the cores, power, security and the clock are the same. -/
structure Apart (s t : State) : Prop where
  opt : t.opt = s.opt
  mem : t.mem = s.mem
  ctxs : t.ctxs = s.ctxs
  slots : t.slots = s.slots
  lcores : t.lcores = s.lcores
  sec : t.sec = s.sec
  pwr : t.pwr = s.pwr
  now : t.time.now = s.time.now
  latches : t.latches = s.latches
  pending : t.pending = s.pending

/-- No injection stands in any place (R405). -/
def NoInjection (s : State) : Prop := ∀ i, injectAt s i = none

/-- R260, R265, R267: a well-formed packet of type `ty` comes in by a port that is up, for this module, and passes the checks of its
header. -/
structure Arrives (ty : BitVec 4) (p : Port) (k : Packet) (s : State) : Prop where
  wf : packetWf k = true
  ty : k.ptype = ty
  up : portUp (getPort s p.val) = true
  flood : k.flood = false
  hops : k.hopsLeft ≠ 0
  us : forUs s k = true

/-- R262: an unsealed request names an open context by its generation, under a placement that it takes. -/
structure Admitted (k : Packet) (s : State) : Prop where
  plain : k.e2e = false
  opened : (getCtx s k.dctx.toNat).st = .opened
  gen : k.dcgen = (getCtx s k.dctx.toNat).cgen
  placed : (getCtx s k.dctx.toNat).led.accept.getLsbD k.pgen.toNat = true

/-- The route to an address leads to a group with a port up that a packet may leave by, and no transmitter is muted; `link`: only
ports in per-link mode may carry it (R278). -/
def ReachesBy (s : State) (link : Bool) (a : BitVec 17) : Prop :=
  (routeOf s a).toNat % 16 ≤ 8 ∧ groupUp s ((routeOf s a).toNat % 16) link ≠ [] ∧ ∀ q, (getPort s q).muted = false

/-- The route to an address leads to a group with a port up, and no transmitter is muted. -/
def Reaches (s : State) (a : BitVec 17) : Prop := ReachesBy s false a

/-- Between `s` and `t` packet `c` has left by port `q`, in the frames that it begins. -/
def Sent (s t : State) (q : Nat) (c : Packet) : Prop :=
  ∃ f o, s.outbox <:+ o ∧ Output.packet q c :: Output.frames q f :: o <:+ t.outbox

/-- R263: between `s` and `t` a COMPL with this status has gone back to the sender of a request. -/
def Replies (s t : State) (k : Packet) (status : Nat) : Prop :=
  ∃ q c, Sent s t q c ∧ c.ptype = 4 ∧ c.dst = k.src ∧ c.reqId = k.reqId ∧ c.dctx = k.sctx ∧ c.dcgen = k.scgen ∧
    c.addr = BitVec.ofNat 48 status

/-- R219: a request of `n` blocks that comes by port `p` in class `cls` has its tokens: no request of that class waits at the die, and the
slice of the die or its pool gives them. -/
def HasTokens (s : State) (p cls n : Nat) : Prop :=
  (∀ h ∈ s.fab.held, h.die = p % 4 → h.k.cls.toNat ≠ cls) ∧ (takeTokens s (p % 4) cls n).isSome = true

/-- No stream of a core waits in a control descriptor. -/
def NoneBlocked (s : State) (n : Nat) : Prop := ∀ i, (getStream (getC s n) i).blocked = none

/-- R218: no access of a context is under way on the cores that hold it, and no stream of them waits. -/
def NoAccess (s : State) (c : Nat) : Prop :=
  ∀ n, n ∈ coresOf s c → (getC s n).copies = [] ∧ (getC s n).gather = [] ∧ NoneBlocked s n

/-- R269: the program `p` runs in place `n` of engine `e`, at the instruction `i` of operation `op`. -/
def RunsAt (s : State) (e n op : Nat) (p : Program) (i : CInstr) : Prop :=
  runningAt s e n = some p ∧ curInstr p = some i ∧ i.op = op

/-- R273, R278: where a port that the context of a program may use leads to the peer of a channel, a COLL_CTRL packet with the tag of the
channel has left for it. -/
def SendsCtrl (s t : State) (p : Program) (c : Nat) (b : CollCtrl) : Prop :=
  ReachesBy s (needsLink s p.ctx) (chanAddr p c) →
    ∃ q k, Sent s t q k ∧ k.ptype = 7 ∧ k.dst = chanAddr p c ∧ k.addr.extractLsb' 0 16 = chanTag p c ∧ k.ctrl = some b

/-- R274: the program in place `n` of engine `e` has failed with a reason: it is gone, ERR is set, the failure stands to be reported, and the
step of its context can no longer be ready (R294); no memory and no core has moved. -/
structure ProgramFails (s t : State) (e n : Nat) (p : Program) (reason : Nat) : Prop where
  gone : (getEngine t e).running = (getEngine s e).running.eraseIdx n
  err : (getEngine t e).err = true
  told : (getEngine t e).fails = (getEngine s e).fails ++ [(reason, p.idx, p.va.toNat, p.ctx)]
  vetoed : p.ctx < 64 → (getCtx t p.ctx).led.collFailed = true
  mem : t.mem = s.mem
  slots : t.slots = s.slots

/-- R185: two states of a stream are the same but for the turns for which it has been passed over. -/
def SameButTurns (a b : Stream) : Prop := ∃ m, a = { b with passed := m }

/-- R172: a control descriptor has completed at issue: stream `i` of core `n` runs on at `a`, and no other stream, no data of the core,
no other core and no memory has moved. -/
structure Advances (s t : State) (n i : Nat) (a : BitVec 48) : Prop where
  pc : (getStream (getC t n) i).pc = a
  runs : (getStream (getC t n) i).st = .running
  free : (getStream (getC t n) i).blocked = none
  count : (getStream (getC t n) i).prog = (getStream (getC s n) i).prog + 1
  flight : (getStream (getC t n) i).inflight = (getStream (getC s n) i).inflight
  others : ∀ k, k ≠ i → SameButTurns (getStream (getC t n) k) (getStream (getC s n) k)
  data : (getC t n).stage = (getC s n).stage ∧ (getC t n).cache = (getC s n).cache ∧ (getC t n).banks = (getC s n).banks
  cores : ∀ p, p ≠ physOf s n → getP t p = getP s p
  mem : t.mem = s.mem

/-- R171, R173: a descriptor has issued to an engine: it is in flight with the next number, its stream has moved past it, and the count of
its header wait is taken; no other stream, no other core, no context and no memory has moved. -/
structure Issues (s t : State) (n i : Nat) (d : BitVec 256) : Prop where
  pc : (getStream (getC t n) i).pc = (getStream (getC s n) i).pc + 32
  runs : (getStream (getC t n) i).st = .running
  flight : (getStream (getC t n) i).inflight = (getStream (getC s n) i).inflight ++ [(getC s n).nextId]
  next : (getC t n).nextId = (getC s n).nextId + 1
  sems : ∀ k, semGet (getC t n) k = semGet (if wenOf d then semTake (getC s n) (wsemOf d) 1 else getC s n) k
  others : ∀ k, k ≠ i → SameButTurns (getStream (getC t n) k) (getStream (getC s n) k)
  data : (getC t n).stage = (getC s n).stage ∧ (getC t n).cache = (getC s n).cache
  cores : ∀ p, p ≠ physOf s n → getP t p = getP s p
  cells : t.mem.cells = s.mem.cells
  ctxs : t.ctxs = s.ctxs

/-- R175: a stream has halted at its descriptor with a cause, which the core's error register holds when it was free; no other stream,
no other core, no context and no memory has moved. -/
structure Halts (s t : State) (n i : Nat) (cause : BitVec 8) : Prop where
  st : (getStream (getC t n) i).st = .halted
  pc : (getStream (getC t n) i).pc = (getStream (getC s n) i).pc
  err : (getC s n).errValid = false → (getC t n).errValid = true ∧ ∃ e, (getC t n).err = some e ∧ e.stream = i ∧ e.cause = cause
  others : ∀ k, k ≠ i → SameButTurns (getStream (getC t n) k) (getStream (getC s n) k)
  cores : ∀ p, p ≠ physOf s n → getP t p = getP s p
  mem : t.mem = s.mem
  ctxs : t.ctxs = s.ctxs

/-- The semaphores of a core once a header wait has taken its count (R173). -/
def headed (c : PCore) (d : BitVec 256) : PCore := if wenOf d then semTake c (wsemOf d) 1 else c

/-- R173, R185: the state in which a control descriptor takes effect: its stream has the turn, and its header wait has taken its count. -/
def turned (s : State) (n i : Nat) (d : BitVec 256) : State := takeHeader (takeTurn s n i) n d

/-- The semaphores of a core once a completion has signalled (R172). -/
def signalled (c : PCore) (d : BitVec 256) : PCore := if senOf d then semAdd c (ssemOf d) 1 else c

/-- A control descriptor stands next in a stream and may issue: its header wait is met, its bits are legal, and no stream of the core
waits (R171, R175). -/
structure Stands (s : State) (n i op : Nat) (d : BitVec 256) : Prop where
  ready : issuable s n i op = some d
  legal : controlBad d = none
  fresh : (getStream (getC s n) i).due = false
  none : NoneBlocked s n

/-- R171, R179: a control descriptor has issued and its stream waits in it; the count of its header wait is taken. The stream stays at
it, and no other stream, no data of the core, no other core, no context and no memory has moved. -/
structure Awaits (s t : State) (n i : Nat) (d : BitVec 256) (b : Blocked) : Prop where
  waits : (getStream (getC t n) i).blocked = some b
  pc : (getStream (getC t n) i).pc = (getStream (getC s n) i).pc
  runs : (getStream (getC t n) i).st = .running
  count : (getStream (getC t n) i).prog = (getStream (getC s n) i).prog
  sems : (getC t n).sems = (headed (getC s n) d).sems
  others : ∀ k, k ≠ i → SameButTurns (getStream (getC t n) k) (getStream (getC s n) k)
  data : (getC t n).stage = (getC s n).stage ∧ (getC t n).cache = (getC s n).cache ∧ (getC t n).banks = (getC s n).banks
  cores : ∀ p, p ≠ physOf s n → getP t p = getP s p
  mem : t.mem = s.mem
  ctxs : t.ctxs = s.ctxs

/-- What a descriptor that issues from stream `i` is known by in its engine. -/
def issuedAs (s : State) (n i : Nat) (d : BitVec 256) : Issued :=
  { id := (getC s n).nextId, slot := i, pc := (getStream (getC s n) i).pc, desc := d }

/-- R172: a descriptor in flight has completed: it has left its stream, has signalled its semaphore, and counts. -/
structure Finishes (s t : State) (n : Nat) (x : Issued) : Prop where
  flight : (getStream (getC t n) x.slot).inflight = (getStream (getC s n) x.slot).inflight.erase x.id
  count : (getStream (getC t n) x.slot).prog = (getStream (getC s n) x.slot).prog + 1
  sems : (getC t n).sems = (signalled (getC s n) x.desc).sems
  others : ∀ k, k ≠ x.slot → getStream (getC t n) k = getStream (getC s n) k
  cores : ∀ p, p ≠ physOf s n → getP t p = getP s p

/-- R124, R125: a checked descriptor has failed: it stands in the first free replay slot with this cause, and the core's bit is set; it has
not signalled. -/
structure Fails (s t : State) (n : Nat) (x : Issued) (cause : BitVec 8) (step : Nat) : Prop where
  held : ∀ k, freeSlot (getL s n) = some k → ∃ r, (getL t n).replay.getD k none = some r ∧ r.iss.desc = x.desc ∧ r.iss.id = x.id ∧
    r.iss.slot = x.slot ∧ r.cause = cause ∧ r.step = step ∧ r.st = .held
  pending : freeSlot (getL s n) ≠ none → (getL t n).pending = true
  sems : (getC t n).sems = (getC s n).sems
  streams : ∀ k, getStream (getC t n) k = getStream (getC s n) k

/-- R350: the state that HUB_DEV_STATE shows is the first of the table that applies. -/
def ShownStateHolds (s : State) : Prop := s.hub.dev = devNow s

/-- Nothing is due at the end of a step: the device state is shown and nothing waits for an answer. -/
def AtRest (s : State) : Prop := ShownStateHolds s ∧ NothingWaits s

end Sys2Proof.Machine
end

