-- ==== Sys2Proof/Certificates/Slice0/Obligations.lean ====
section
/-! DEFINITION. The statements about the model, for the provers. -/

open Sys2Proof Sys2Proof.Machine

/-- A command at the front of the queue is carried out with the queue's rest. -/
def Obligations.StepRunsFront : Prop :=
  ∀ (c : Instr) (rest : List Instr) (s : State), step { s with pending := c :: rest } = exec c { s with pending := rest }

/-- On an empty queue one tick of Fabric Time passes (the model's choice, assumption log 1). Between Beat boundaries TIME_NOW and the
oscillator move by one, and nothing else moves but TIME_PPS_OUT and what has come due. R50: TIME_PPS_OUT is high while the output is
enabled, comparisons are active and the tick lies less than WIDTH after the second that raised it; it rises only at a tick that is a
whole second, and then the rise is seen outside. A tick that reaches a Beat boundary does what the row of the Beat does with the last
sensor values. Premise: no context is at its bound of tag failures. In COLD, with nothing waiting for an answer, nothing moves at
all. -/
def Obligations.EmptyQueueIsOneTick : Prop :=
  ∀ s : State, s.pending = [] → NoLockout s →
    (s.hub.dev ≠ .cold → (s.time.now + 1).toNat % ticksPerBeat ≠ 0 →
      ∃ t, step s = .next t ∧
        Settled { s with time := { s.time with now := s.time.now + 1 }, ticks := s.ticks + 1, pins := t.pins } t ∧
        t.pins = { s.pins with pps := t.pins.pps } ∧
        t.pins.pps = (s.time.ppsEnable && comparing s &&
          decide ((s.time.now + 1).toNat % ticksPerSec < s.time.ppsWidth.toNat * ticksPerUs) &&
          (s.pins.pps || decide ((s.time.now + 1).toNat % ticksPerSec = 0))) ∧
        (s.pins.pps = false → t.pins.pps = true → Output.pps (s.time.now + 1) ∈ t.outbox)) ∧
    (s.hub.dev ≠ .cold → (s.time.now + 1).toNat % ticksPerBeat = 0 → step s = exec (.beatBoundary s.pwr.last) s) ∧
    (s.hub.dev = .cold → NothingWaits s → step s = .next s)

/-- The shown state is right at reset. -/
def Obligations.ShownStateAtReset : Prop :=
 ShownStateHolds State.reset

/-- R350: whatever the state, and whatever stands in the queue, the state after a step shows the first device state of the table
that applies. -/
def Obligations.EveryStepShowsTheState : Prop :=
  ∀ s t : State, step s = .next t → ShownStateHolds t

/-- A command whose operands have the lengths its table gives is always carried out; any other stops by name. -/
def Obligations.WellFormedCommandsComplete : Prop :=
  ∀ (c : Instr) (s : State), (wellFormed c = true → ∃ t, exec c s = .next t) ∧
    (wellFormed c = false → ∃ m, exec c s = .fault (.illFormed m))

/-- R346: a command sent to a mailbox that does not serve it, or on a path that does not reach the mailbox (R347), returns DENIED
and changes nothing. R343, R352: a command that is not legal in the device state returns STATE_CONFLICT on the device with the
state's code and the states in which it is legal, and changes nothing. R349, R344, R394, R479: a request that cannot be served yet.
In COLD a PCIe request is not taken up; in COLD and BOOTING one over SMBus is answered BUSY and not executed; one over PCIe in
BOOTING, or over PCIe or SMBus for the Belfry while it does not serve, waits in order of arrival (that it waits there is the model's
choice, assumption log 27). -/
def Obligations.RequestsAreTakenUp : Prop :=
  (∀ (c : Instr) (r : Req) (code : BitVec 16) (legal : BitVec 32) (s : State), requestOf c = some (r, code, legal) →
     wellFormed c = true → Serving r s → NoLockout s → permitted s r code = false →
     Serves c s (takenUp r code s) r code 0x04 []) ∧
  (∀ (c : Instr) (r : Req) (code : BitVec 16) (legal : BitVec 32) (s : State), requestOf c = some (r, code, legal) →
     wellFormed c = true → Serving r s → NoLockout s → permitted s r code = true → inSet legal (devNow s) = false →
     ∃ t, exec c s = .next t ∧ Settled (takenUp r code s) t ∧
       { mbx := r.mbx.val, path := r.path, seq := r.seq, cmd := code, status := 0x02,
         dev := BitVec.ofNat 8 (devCode (devNow s)), conflict := 0, detail := BitVec.ofNat 16 (devCode (devNow s)),
         legal := legal, time := s.time.now, body := [] } :: s.mail.responses <:+ t.mail.responses) ∧
  (∀ (c : Instr) (r : Req) (code : BitVec 16) (legal : BitVec 32) (s : State), requestOf c = some (r, code, legal) →
     wellFormed c = true → NoLockout s →
     (s.hub.dev = .cold → r.path = .pcie → Leads c s s) ∧
     (s.hub.dev = .cold ∨ s.hub.dev = .booting → r.path = .smbus → Serves c s s r code 0x01 []) ∧
     ((s.hub.dev = .booting ∧ r.path = .pcie) ∨ (s.hub.dev ≠ .cold ∧ s.hub.dev ≠ .booting ∧ belfryUp s = false ∧
         (r.path = .smbus ∨ (r.path = .pcie ∧ r.mbx.val ≠ 18))) →
       Leads c s { s with mail := { s.mail with deferred := s.mail.deferred ++ [(s.ticks, c)] } }))

/-- R338, R341: over PCIe the response of PING stands in the response buffer of the mailbox, byte for byte as the header's table
lays it out, with OWNER = DONE, and the vector of the mailbox is raised when the request asks for it. Premise: nothing else waits
for an answer. R353: PING answers TIME_NOW and the uptime, and GET_INFO the options, addresses and profile (SELECT 0), the
descriptor of a core in service (SELECT 1; FENCED of any other) and the image versions (SELECT 2); a field out of range is BAD_ARG.
Neither changes anything else. R353, R348: with a notice in the host queue and no other reader, NOTICE_GET answers at once with
COUNT, LOST and the oldest entries, at most MAX, and removes them; with none it waits. -/
def Obligations.GeneralCommandsAnswer : Prop :=
  (∀ (r : Req) (d : BitVec 32) (s : State), Ready 0x0001 setAny r s → NothingWaits s → r.path = .pcie →
     1 ≤ d.toNat → d.toNat ≤ 1000000 →
     ∃ t, exec (.ping r d) s = .next t ∧ (getBox t r.mbx.val).owner = .done ∧
       memRead (getBox t r.mbx.val).resp 0 48 =
         leBytes 2 r.seq.toNat ++ leBytes 2 0x0001 ++ [0x00, BitVec.ofNat 8 (devCode (devNow s)), 0x00, 0x00] ++ leBytes 2 16 ++
           leBytes 2 0 ++ leBytes 4 setAny.toNat ++ leBytes 8 s.time.now.toNat ++ leBytes 8 0 ++
           leBytes 8 s.time.now.toNat ++ leBytes 8 (uptimeMs s) ∧
       (r.irq = true → .msix r.mbx.val ∈ t.outbox)) ∧
  (∀ (r : Req) (d : BitVec 32) (sel core : BitVec 8) (s : State),
     (Ready 0x0001 setAny r s →
       Serves (.ping r d) s s r 0x0001 (if 1 ≤ d.toNat ∧ d.toNat ≤ 1000000 then 0x00 else 0x03)
         (if 1 ≤ d.toNat ∧ d.toNat ≤ 1000000 then leBytes 8 s.time.now.toNat ++ leBytes 8 (uptimeMs s) else [])) ∧
     (Ready 0x0002 setAny r s →
       (sel = 0 → Serves (.getInfo r sel core) s s r 0x0002 0x00
         (leBytes 4 (hubOptions s.opt).toNat ++ identityDigest ++ leBytes 4 s.fab.addr.toNat ++ [s.hub.profile.setWidth 8] ++
           leBytes 4 Config.enterprise.toNat)) ∧
       (sel = 1 → core.toNat < 128 → inService s core.toNat = true →
         Serves (.getInfo r sel core) s s r 0x0002 0x00 (capability s core.toNat)) ∧
       (sel = 1 → core.toNat < 128 → inService s core.toNat = false → Serves (.getInfo r sel core) s s r 0x0002 0x08 []) ∧
       (sel = 1 → 128 ≤ core.toNat → Serves (.getInfo r sel core) s s r 0x0002 0x03 []) ∧
       (sel = 2 → Serves (.getInfo r sel core) s s r 0x0002 0x00
         (s.mail.images.toList.flatMap fun i => leBytes 4 i.version.toNat ++ leBytes 4 i.stagedVer.toNat ++ [i.phase])) ∧
       (3 ≤ sel.toNat → Serves (.getInfo r sel core) s s r 0x0002 0x03 []))) ∧
  (∀ (r : Req) (max : BitVec 8) (us : BitVec 32) (s : State), Ready 0x0003 setAny r s → NothingWaits s → r.path = .pcie →
     r.mbx.val < 16 → ShownStateHolds s → 1 ≤ max.toNat → max.toNat ≤ 60 → us.toNat ≤ 1000000 →
     (s.mail.hostQ.entries ≠ [] → ∃ t, exec (.noticeGet r max us) s = .next t ∧ Settled s t ∧
       Answers s t r 0x0003 0x00 ([BitVec.ofNat 8 (min max.toNat s.mail.hostQ.entries.length)] ++ leBytes 4 s.mail.hostQ.lost.toNat ++
         (s.mail.hostQ.entries.take max.toNat).flatMap encodeNotice) ∧
       t.mail.hostQ.entries = s.mail.hostQ.entries.drop max.toNat) ∧
     (s.mail.hostQ.entries = [] → 1 ≤ us.toNat → ∃ t, exec (.noticeGet r max us) s = .next t ∧ Settled s t ∧
       t.mail.responses = s.mail.responses ∧ ∃ w, t.mail.waiters = [w] ∧ w.req = r ∧ w.max = max ∧
         w.till = s.time.now + BitVec.ofNat 64 (us.toNat * ticksPerUs)))

/-- R353: DEVICE_START with an address below 2^17 starts the module and gives it that fabric address; with any other FAB_ADDR it
answers BAD_ARG. DEVICE_STOP, with every context closed, stops the module and takes its fabric address away; while a context is not
closed it answers STATE_CONFLICT on unit 0x05. Neither changes anything else. R353, R349: DRAIN answers BAD_ARG when MODE is above 1 or
DEADLINE_MS is not 1 to 60,000. MODE 0 while a stream or a collective program runs leaves the request waiting with the device DRAINING,
and changes nothing else; with nothing running and no fence in progress it is answered at once. DRAIN_DEADLINE answers the waiting MODE 0 request
TIMEOUT and ends the drain. R353, R381: MODE 1 puts every open context in FENCING and leaves the state of every other context; while one
was open, the request waits with the device DRAINING. -/
def Obligations.DeviceStartsStopsAndDrains : Prop :=
  (∀ (r : Req) (a : BitVec 32) (s : State), Ready 0x0004 0x004 r s →
     (a.toNat < 2 ^ 17 →
       Serves (.deviceStart r a) s
         { s with hub := { s.hub with started := true }, fab := { s.fab with addr := a.setWidth 17, valid := true } } r 0x0004 0x00 []) ∧
     (2 ^ 17 ≤ a.toNat → Serves (.deviceStart r a) s s r 0x0004 0x03 [])) ∧
  (∀ (r : Req) (s : State), Ready 0x0005 0x008 r s →
     ((∀ c, c < 64 → (getCtx s c).st = .closed) →
       Serves (.deviceStop r) s
         { s with hub := { s.hub with started := false }, fab := { s.fab with addr := 0, valid := false } } r 0x0005 0x00 []) ∧
     ((∃ c, c < 64 ∧ (getCtx s c).st ≠ .closed) → Conflicts (.deviceStop r) s r 0x0005 0x05 1 0x1)) ∧
  (∀ (r : Req) (mode : BitVec 8) (ms : BitVec 32) (s : State), Ready 0x0006 0x118 r s →
     (1 < mode.toNat ∨ ms = 0 ∨ 60000 < ms.toNat → Serves (.drain r mode ms) s s r 0x0006 0x03 []) ∧
     (s.hub.actReq = none → 1 ≤ ms.toNat → ms.toNat ≤ 60000 →
       (mode = 0 → busy s = true → ∃ t, exec (.drain r mode ms) s = .next t ∧ Settled s t ∧ t.hub.drainReq = some (r, 0) ∧
         t.hub.draining = true) ∧
       (mode = 0 → busy s = false → (∀ c, (getCtx s c).fence = none) → Serves (.drain r mode ms) s s r 0x0006 0x00 []) ∧
       (mode = 1 → ∃ t, exec (.drain r mode ms) s = .next t ∧
         (∀ c, c < 64 → (getCtx t c).st = (if (getCtx s c).st = .opened then .fencing else (getCtx s c).st)) ∧
         ((∃ c, c < 64 ∧ (getCtx s c).st = .opened) → t.hub.drainReq = some (r, 1) ∧ t.hub.draining = true)))) ∧
  (∀ (r : Req) (s : State), s.hub.drainReq = some (r, 0) → s.hub.actReq = none →
     ∃ t, exec .drainDeadline s = .next t ∧ Settled s t ∧ Answers s t r 0x0006 0x07 [] ∧ t.hub.drainReq = none ∧
       t.hub.draining = false)

/-- R353, R28, R221: PART_LAYOUT with no context open puts the layout in force and gives every partition of it the regulator settings
in force for it; a rate that no command and no record sets is the factory rate divided by the number of partitions; nothing else
changes. LAYOUT 2 on M54 is UNSUPPORTED (R6), a LAYOUT above 2 BAD_ARG, and while a context is not closed the answer is STATE_CONFLICT on
unit 0x05. R353, R366, R365: SELECT_PROFILE puts the profile named, or that of the pins, in force, drops what commands had set, and sets
the time block, the memory policy, the layout, the per-link bit and every regulator from the settings in force then; contexts, cores,
memory contents and the Page Map stay. PERSIST writes the override into the copy not in force, which becomes the later copy with the data
of the copy in force; without it neither copy changes. It is BAD_ARG with a PROFILE that is neither 0 to 3 nor 0xFF or a PERSIST above
1, DENIED under FORCE_SAFE# and BUSY while a configuration session is held. -/
def Obligations.LayoutAndProfileAreChosen : Prop :=
  (∀ (r : Req) (l : BitVec 8) (s : State), Ready 0x0007 setCfg r s →
     (l.toNat < 3 → ¬(l = 2 ∧ s.opt.m54 = true) → (∀ c, c < 64 → (getCtx s c).st = .closed) →
       ∃ t, exec (.partLayout r l) s = .next t ∧ Answers s t r 0x0007 0x00 [] ∧ t.hub.layout = l.setWidth 2 ∧
         Settled { s with hub := { s.hub with layout := t.hub.layout }, mem := { s.mem with buckets := t.mem.buckets } } t ∧
         ∀ p cls, p < 4 → cls < 4 →
           (partCount t.hub.layout ≤ p → getBucket t p cls = getBucket s p cls) ∧
           (p < partCount t.hub.layout →
             getBucket t p cls = { getBucket s p cls with
               rate := regulValue t p (0x410 + 3 * cls), depth := regulValue t p (0x411 + 3 * cls),
               borrow := regulValue t p (0x412 + 3 * cls) == 1 } ∧
             (mapGet? s.mail.volatile (0x410 + 3 * cls + 65536 * (p + 1)) = none →
               (userRecs s).all (fun q => q.key.toNat != 0x410 + 3 * cls) = true →
               (getBucket t p cls).rate = (Bucket.default cls).rate / partCount t.hub.layout))) ∧
     (l = 2 → s.opt.m54 = true → Serves (.partLayout r l) s s r 0x0007 0x06 []) ∧
     (l.toNat < 3 → ¬(l = 2 ∧ s.opt.m54 = true) → (∃ c, c < 64 ∧ (getCtx s c).st ≠ .closed) →
       Conflicts (.partLayout r l) s r 0x0007 0x05 1 0x1) ∧
     (3 ≤ l.toNat → Serves (.partLayout r l) s s r 0x0007 0x03 [])) ∧
  (∀ (r : Req) (p persist : BitVec 8) (s : State), Ready 0x0008 0x004 r s →
     ((3 < p.toNat ∧ p ≠ 0xFF) ∨ 1 < persist.toNat → Serves (.selectProfile r p persist) s s r 0x0008 0x03 []) ∧
     (p.toNat ≤ 3 ∨ p = 0xFF → persist.toNat ≤ 1 →
       (s.hub.safe = false → s.mail.session = none → ∃ t, exec (.selectProfile r p persist) s = .next t ∧
         Answers s t r 0x0008 0x00 [] ∧ t.hub.profile = (if p = 0xFF then s.pins.profSel else p.setWidth 2) ∧ t.mail.volatile = [] ∧
         t.time = { s.time with
           cadEnable := (devSetting t 0x100).toNat == 1, cadFalling := (devSetting t 0x101).toNat == 1,
           cadDiv := BitVec.ofNat 8 (devSetting t 0x102).toNat, cadStagger := BitVec.ofNat 16 (devSetting t 0x103).toNat,
           ppsEnable := (devSetting t 0x104).toNat == 1, ppsWidth := BitVec.ofNat 8 (devSetting t 0x105).toNat,
           slots := if (devSetting t 0x100).toNat = 1 then s.time.slots else [] } ∧
         t.mem.policy = {
           corrRetrain := (devSetting t 0x400).toNat, uncorrMapout := (devSetting t 0x401).toNat,
           crcMapout := (devSetting t 0x402).toNat, retrainLimit := (devSetting t 0x403).toNat,
           scrubHours := (devSetting t 0x404).toNat, migrateShare := (devSetting t 0x405).toNat } ∧
         t.hub.layout = (if (devSetting t 0x200).toNat = 2 ∧ s.opt.m54 = true then 0 else BitVec.ofNat 2 (devSetting t 0x200).toNat) ∧
         t.fab = { s.fab with perLink := devSetting t 0x201 == 1 } ∧
         (∀ q cls, q < partCount t.hub.layout → cls < 4 → getBucket t q cls = { getBucket s q cls with
           rate := regulValue t q (0x410 + 3 * cls), depth := regulValue t q (0x411 + 3 * cls),
           borrow := regulValue t q (0x412 + 3 * cls) == 1 }) ∧
         t.ctxs = s.ctxs ∧ t.slots = s.slots ∧ t.mem.cells = s.mem.cells ∧ t.mem.pmap = s.mem.pmap ∧
         (persist = 1 → ∃ x, x = (if s.hub.cfgCopyB then t.mail.copyA else t.mail.copyB) ∧ copyInForce t = copyInForce s ∧
           x.gen = (copyInForce s).gen + 1 ∧ x.profOk = decide (p ≠ 0xFF) ∧ (p ≠ 0xFF → x.profile = p.setWidth 2) ∧
           x.headerOk = true ∧ x.digestOk = true ∧ x.data = (copyInForce s).data) ∧
         (persist = 0 → t.mail.copyA = s.mail.copyA ∧ t.mail.copyB = s.mail.copyB)) ∧
       (s.hub.safe = true → Serves (.selectProfile r p persist) s s r 0x0008 0x04 []) ∧
       (s.hub.safe = false → s.mail.session ≠ none → Serves (.selectProfile r p persist) s s r 0x0008 0x01 [])))

/-- R354, R360, R365, R48, R50: TIME_CONFIG with 1 to 253 records, all of the keys 0x0100 to 0x0105 and in range, puts them in force, the last
record of a key; the cadence and TIME_PPS_OUT settings follow, the output goes low where it is no longer due, and nothing else of the
time block moves. The first record that is not such is answered BAD_ARG with its index, a request without records BAD_ARG, and nothing
changes. R354, R45, R41: TIME_MASTER. In UNSET any generation is taken, in any other state only the next; the module is then master of
that generation, LOCKED with error estimate 0 and without a parent. In UNSET and ACQUIRING it goes on from EPOCH, and the armed times
that have waited for time are evaluated (R42); otherwise from its own time. Any other GEN is BAD_ARG. R354, R267, R4: ROUTE_WRITE of 1 to 2,000
entries within the table writes them and the dateline mask and moves FAB_ROUTE_GEN by one; no other entry changes. The first entry that
names an absent group or a reserved code, has a bit above its two codes, or whose ALT equals the group it names, is answered BAD_ARG with
its index, and nothing is written. A range outside the table or a DATELINE bit of an absent group is BAD_ARG (the latter is the model's
choice, assumption log 116). -/
def Obligations.TimeBlockAndRoutesAreSet : Prop :=
  (∀ (r : Req) (recs : List Setting) (s : State), Ready 0x0102 setUp r s → wellFormed (.timeConfig r recs) = true →
     (recs ≠ [] → recs.all timeRecordOk = true → ∃ t, exec (.timeConfig r recs) s = .next t ∧ Answers s t r 0x0102 0x00 [] ∧
       (∀ k, devSetting t k = lastOf recs k (devSetting s k)) ∧
       t.time = { s.time with
         cadEnable := (devSetting t 0x100).toNat == 1, cadFalling := (devSetting t 0x101).toNat == 1,
         cadDiv := BitVec.ofNat 8 (devSetting t 0x102).toNat, cadStagger := BitVec.ofNat 16 (devSetting t 0x103).toNat,
         ppsEnable := (devSetting t 0x104).toNat == 1, ppsWidth := BitVec.ofNat 8 (devSetting t 0x105).toNat,
         slots := if (devSetting t 0x100).toNat = 1 then s.time.slots else [] } ∧
       t.pins = { s.pins with
         pps := s.pins.pps && t.time.ppsEnable && comparing s &&
         decide (s.time.now.toNat % ticksPerSec < t.time.ppsWidth.toNat * ticksPerUs) } ∧
       Settled { s with
         time := t.time, pins := t.pins, mem := { s.mem with policy := t.mem.policy },
         mail := { s.mail with volatile := t.mail.volatile } } t) ∧
     (recs = [] → Refuses (.timeConfig r recs) s r 0x0102 0x03 0) ∧
     (∀ i, recs.findIdx? (fun v => !timeRecordOk v) = some i → Refuses (.timeConfig r recs) s r 0x0102 0x03 i)) ∧
  (∀ (r : Req) (epoch : BitVec 64) (gen : BitVec 16) (s : State), Ready 0x0101 setUp r s →
     (gen.toNat < 2 ^ 15 → (s.time.st = .unset ∨ gen.setWidth 15 = s.time.gen + 1) →
       ∃ t, exec (.timeMaster r epoch gen) s = .next t ∧ Answers s t r 0x0101 0x00 (leBytes 4 (timeStatus t).toNat) ∧
         t.time.st = .locked ∧ t.time.master = true ∧ t.time.gen = gen.setWidth 15 ∧ t.time.masterAddr = s.fab.addr ∧
         t.time.err = 0 ∧ t.time.errValid = true ∧ t.time.parent = none ∧ t.time.holdover = false ∧ t.time.hops = 0 ∧
         t.time.lateLaunch = s.time.lateLaunch ∧ t.time.unlockCount = s.time.unlockCount ∧
         (s.time.st = .unset ∨ s.time.st = .acquiring → t.time.now = epoch ∧
           Settled { mapArmed (lookNow t) s with time := t.time, pins := t.pins } t) ∧
         (s.time.st ≠ .unset → s.time.st ≠ .acquiring → t.time.now = s.time.now ∧ Settled { s with time := t.time } t)) ∧
     (2 ^ 15 ≤ gen.toNat ∨ (s.time.st ≠ .unset ∧ gen.setWidth 15 ≠ s.time.gen + 1) →
       Serves (.timeMaster r epoch gen) s s r 0x0101 0x03 [])) ∧
  (∀ (r : Req) (first : BitVec 32) (date : BitVec 16) (es : List (BitVec 16)) (s : State), Ready 0x0103 setLive r s →
     wellFormed (.routeWrite r first date es) = true →
     (1 ≤ es.length → es.length ≤ 2000 → first.toNat + es.length ≤ 131072 → date.toNat < 2 ^ groupCount s →
       (es.all (routeOk s) = true → ∃ t, exec (.routeWrite r first date es) s = .next t ∧
         Answers s t r 0x0103 0x00 (leBytes 4 (s.fab.routeGen + 1).toNat) ∧
         t.fab.dateline = date.setWidth 9 ∧ t.fab.routeGen = s.fab.routeGen + 1 ∧
         Settled { s with fab := { s.fab with routes := t.fab.routes, dateline := t.fab.dateline, routeGen := t.fab.routeGen } } t ∧
         ∀ a, mapGet t.fab.routes a 0x00FF =
           if first.toNat ≤ a ∧ a < first.toNat + es.length then es.getD (a - first.toNat) 0 else mapGet s.fab.routes a 0x00FF) ∧
       (∀ i, es.findIdx? (fun e => !routeOk s e) = some i → Refuses (.routeWrite r first date es) s r 0x0103 0x03 i)) ∧
     (es = [] ∨ 2000 < es.length ∨ 131072 < first.toNat + es.length ∨ 2 ^ groupCount s ≤ date.toNat →
       Refuses (.routeWrite r first date es) s r 0x0103 0x03 0)) ∧
  (∀ (s : State) (e : BitVec 16), routeOk s e = true ↔
     e.toNat < 256 ∧ (e.toNat % 16 < groupCount s ∨ e.toNat % 16 = 0xE ∨ e.toNat % 16 = 0xF) ∧
     (e.toNat / 16 % 16 < groupCount s ∨ e.toNat / 16 % 16 = 0xE ∨ e.toNat / 16 % 16 = 0xF) ∧
     ¬(e.toNat % 16 ≤ 8 ∧ e.toNat / 16 % 16 = e.toNat % 16))

/-- R451, R446, R447: LOW_POWER in READY, with nothing running that keeps the device up: every core in service enters the target
state; in Doze and Sleep the banks that RETAIN does not name read 0 and those it names keep their bytes; in Sleep the memory is in
self-refresh with its contents and no port is up. A TARGET or a RETAIN out of range is BAD_ARG, and a device that is busy BUSY; an
entry that a wake event abandons is BUSY too and counts its point (R450). R452: WAKE in LOW_POWER waits for the device; when it has
woken, the cores run, every controller but the ready spares has left self-refresh, memory has its contents, and WAKE is answered with the time since the handover in
microseconds (WAKE_US); a ready spare controller keeps its device in self-refresh (R198). A second WAKE meanwhile is BUSY. -/
def Obligations.LowPowerIsEnteredAndLeft : Prop :=
  (∀ (r : Req) (target : BitVec 8) (retain : BitVec 64) (ab : Option (Fin 4)) (s : State), Ready 0x0009 0x008 r s →
     (1 ≤ target.toNat → target.toNat ≤ 3 → retain.toNat < 2 ^ 32 → lpBusy s = false →
       (∀ k, ab = some k → Serves (.lowPower r target retain ab) s
         { s with pwr := { s.pwr with lpAborts := countPoint s.pwr.lpAborts k.val } } r 0x0009 0x01 []) ∧
       (ab = none → ∃ t, exec (.lowPower r target retain ab) s = .next t ∧ Answers s t r 0x0009 0x00 [] ∧ t.hub.low = true ∧
         t.hub.dev = .lowPower ∧ t.mem.cells = s.mem.cells ∧ t.mem.pmap = s.mem.pmap ∧
         (∀ n, n < 128 → inService s n = true →
           (getC t n).pstate = (if target = 1 then .hold else if target = 2 then .doze else .sleep) ∧
           (getC t n).sems = (getC s n).sems ∧
           (target = 1 → (getC t n).stage = (getC s n).stage) ∧
           (target ≠ 1 → ∀ b i, b < 32 → i < 131072 → memGet (getC t n).stage (131072 * b + i) =
             (if retain.getLsbD b then memGet (getC s n).stage (131072 * b + i) else 0))) ∧
         (target = 3 → (∀ i, i < 80 → (getCtrl t i).selfRefresh = true) ∧ ∀ p, p < portCount t → portUp (getPort t p) = false))) ∧
     (target = 0 ∨ 3 < target.toNat ∨ 2 ^ 32 ≤ retain.toNat → Serves (.lowPower r target retain ab) s s r 0x0009 0x03 []) ∧
     (1 ≤ target.toNat → target.toNat ≤ 3 → retain.toNat < 2 ^ 32 → lpBusy s = true →
       Serves (.lowPower r target retain ab) s s r 0x0009 0x01 [])) ∧
  (∀ (r : Req) (since : Nat) (s : State),
     (Ready 0x000A 0x200 r s → s.hub.wakeReq = none →
       Leads (.wake r) s { s with hub := { s.hub with wakeReq := some (r, s.ticks) } }) ∧
     (Ready 0x000A 0x200 r s → s.hub.wakeReq ≠ none → Serves (.wake r) s s r 0x000A 0x01 []) ∧
     (s.hub.wakeReq = some (r, since) → belfryUp s = true → s.hub.low = true →
       ∃ t, exec .deviceWake s = .next t ∧ Answers s t r 0x000A 0x00 (leBytes 4 ((s.ticks - since) / 4000)) ∧
         t.hub.low = false ∧ t.hub.wakeReq = none ∧ t.mem.cells = s.mem.cells ∧ t.ctxs = s.ctxs ∧
         (∀ p k, mapGet? t.slots p = some k → k.pstate = .run ∧ ∃ k', mapGet? s.slots p = some k' ∧ k = { k' with pstate := .run }) ∧
         ∀ i, i < 80 → getCtrl t i = { getCtrl s i with selfRefresh := (getCtrl s i).role == .spare }))

/-- R456, R457, R461, R466: the tenant's cap and the operator's contract. PWR_TENANT_CAP takes a cap of 300 to 3,300 W at once and
answers the cap in force; OP_CONTRACT_SET checks every term and leaves the contract waiting for the Beat; a term out of range is
BAD_ARG. OP_CONTRACT_GET answers the contract, the tenant's cap and the cap in force, OP_PWR_READ the minute averages, coarse while a
partition is confidential, and PWR_READ the words of the power registers; they change nothing. R460: at the end of a minute the average
of its Beats enters the list of the last 60, the collection starts anew and the minutes in service count one; the minutes in which
something held the draw back, and those in which a term did not hold, count theirs. Where no minute is open the row changes nothing. -/
def Obligations.PowerContractHolds : Prop :=
  (∀ (r : Req) (w fast minute ramp floor : BitVec 32) (s : State),
     (Ready 0x0702 setWork r s → 300 ≤ w.toNat → w.toNat ≤ 3300 → ∃ cap, cap = BitVec.ofNat 16
         (min (min s.pwr.con.fast.toNat (minuteTerm s)) (min (currentCap s.pwr.last.volt) (max s.pwr.con.floor.toNat w.toNat))) ∧
       Serves (.pwrTenantCap r w) s { s with pwr := { s.pwr with tenant := w.setWidth 16, inForce := cap } } r 0x0702 0x00
         (leBytes 4 cap.toNat)) ∧
     (Ready 0x0702 setWork r s → w.toNat < 300 ∨ 3300 < w.toNat → Serves (.pwrTenantCap r w) s s r 0x0702 0x03 []) ∧
     (Ready 0x0803 setAny r s →
       (500 ≤ fast.toNat ∧ fast.toNat ≤ 3300 ∧ 500 ≤ minute.toNat ∧ minute.toNat ≤ fast.toNat ∧
           (ramp = 0 ∨ (5 ≤ ramp.toNat ∧ ramp.toNat ≤ 3300)) ∧ floor.toNat ≤ minute.toNat →
         Serves (.opContractSet r fast minute ramp floor) s
           { s with pwr := { s.pwr with pend := some (Contract.mk (fast.setWidth 16) (minute.setWidth 16) (ramp.setWidth 16) (floor.setWidth 16)) } }
           r 0x0803 0x00 []) ∧
       (¬(500 ≤ fast.toNat ∧ fast.toNat ≤ 3300 ∧ 500 ≤ minute.toNat ∧ minute.toNat ≤ fast.toNat ∧
           (ramp = 0 ∨ (5 ≤ ramp.toNat ∧ ramp.toNat ≤ 3300)) ∧ floor.toNat ≤ minute.toNat) →
         Serves (.opContractSet r fast minute ramp floor) s s r 0x0803 0x03 [])) ∧
     (Ready 0x0804 setAny r s → Serves (.opContractGet r) s s r 0x0804 0x00
       (leBytes 4 s.pwr.con.fast.toNat ++ leBytes 4 s.pwr.con.minute.toNat ++ leBytes 4 s.pwr.con.ramp.toNat ++
         leBytes 4 s.pwr.con.floor.toNat ++ leBytes 4 s.pwr.tenant.toNat ++ leBytes 4 s.pwr.inForce.toNat)) ∧
     (Ready 0x0805 setAny r s → Serves (.opPwrRead r) s s r 0x0805 0x00
       ([(if s.hub.conf = 0 then 0 else 1), BitVec.ofNat 8 s.pwr.avgs.length] ++ leBytes 8 s.pwr.minuteNo ++
         s.pwr.avgs.flatMap fun a => leBytes 2 (if s.hub.conf = 0 then a.toNat else 250 * ((2 * a.toNat + 250) / 500)))) ∧
     (Ready 0x0701 setAny r s → Serves (.pwrRead r) s s r 0x0701 0x00
       ((List.range 16).flatMap fun i => leBytes 4 (pwrWord s none (4 * i)).toNat))) ∧
  (∀ s : State, (belfryUp s = false ∨ s.time.now.toNat < minuteTicks ∨
       (s.pwr.avgs ≠ [] ∧ s.pwr.minuteNo = s.time.now.toNat / minuteTicks - 1) → Leads .minuteEnd s s) ∧
     (belfryUp s = true → minuteTicks ≤ s.time.now.toNat →
       s.pwr.avgs = [] ∨ s.pwr.minuteNo ≠ s.time.now.toNat / minuteTicks - 1 →
     ∃ t, exec .minuteEnd s = .next t ∧ t.pwr.minuteNo = s.time.now.toNat / minuteTicks - 1 ∧
       t.pwr.avgs = (BitVec.ofNat 16 (if s.pwr.samples = 0 then 0 else s.pwr.sum / s.pwr.samples) :: s.pwr.avgs).take 60 ∧
       t.pwr.sum = 0 ∧ t.pwr.samples = 0 ∧ t.diag.pom = s.diag.pom + 1 ∧ t.pwr.maxTj = s.pwr.curTj ∧ t.pwr.con = s.pwr.con ∧
       t.pwr.limitedMin = (if s.pwr.limitedHeld = 0 then s.pwr.limitedMin else s.pwr.limitedMin + 1) ∧
       t.pwr.missMin = (if s.pwr.missHeld = 0 then s.pwr.missMin else s.pwr.missMin + 1) ∧ t.mem = s.mem ∧ t.ctxs = s.ctxs ∧
       t.slots = s.slots ∧ t.fab = s.fab ∧ t.time = s.time))

/-- R347: OP_AUTH PHASE 0 gives a challenge of 32 bytes, an open value, which is then the one to prove. PHASE 1 with the HMAC of the
secret over the challenge opens the operator mailboxes over PCIe and uses the challenge up; any other MAC, or a proof with no secret or
no challenge, is DENIED, and another PHASE is BAD_ARG. OP_SECRET_SET sets the secret over SMBus and is DENIED on any other path. -/
def Obligations.OperatorProvesTheSecret : Prop :=
  (∀ (r : Req) (phase : BitVec 8) (mac : Bytes) (s : State), Ready 0x0801 setAny r s → wellFormed (.opAuth r phase mac) = true →
    (phase = 0 → ∃ t, exec (.opAuth r phase mac) s = .next t ∧
      ∃ c : BitVec 256, c = Config.freeValue s.free 256 ∧ Answers s t r 0x0801 0x00 (leBytes 32 c.toNat) ∧
        Settled { s with free := s.free + 1, mail := { s.mail with challenge := some (leBytes 32 c.toNat) } } t) ∧
    (∀ k ch, phase = 1 → s.mail.opSecret = some k → s.mail.challenge = some ch →
      (hmac256 k ch = mac → Serves (.opAuth r phase mac) s { s with mail := { s.mail with opAuth := true, challenge := none } } r
        0x0801 0x00 []) ∧
      (hmac256 k ch ≠ mac → Serves (.opAuth r phase mac) s s r 0x0801 0x04 [])) ∧
    (phase = 1 → s.mail.opSecret = none ∨ s.mail.challenge = none → Serves (.opAuth r phase mac) s s r 0x0801 0x04 []) ∧
    (1 < phase.toNat → Serves (.opAuth r phase mac) s s r 0x0801 0x03 [])) ∧
  (∀ (r : Req) (k : Bytes) (s : State), Ready 0x0802 setAny r s → k.length = 32 →
    (r.path = .smbus → Serves (.opSecretSet r k) s { s with mail := { s.mail with opSecret := some k } } r 0x0802 0x00 []) ∧
    (r.path ≠ .smbus → Serves (.opSecretSet r k) s s r 0x0802 0x04 []))

/-- R38: a port in UP_X4 sends a time frame with the master followed, its generation, the hops, the error estimate in ps (all ones
while there is none: the model's choice, assumption log 113), the time of sending and the time the last frame came in, both in 1/16
tick; any other port sends none. R39, R42, R43, R45: what a time frame does. Its time of arrival is kept for its port; nothing else but
the time block moves, and TIME_NOW and the error estimate never do. In UNSET any generation is followed and its port taken as parent; a
newer generation is followed, ends mastership and makes its port the parent; a generation that is neither followed nor newer is ignored.
In the generation followed, a master stays so and counts a master address it has not counted; a follower keeps the lowest master
address and, among the ports that name it, as parent the one with the fewest hops, then the lowest number. -/
def Obligations.TimeFramesFlow : Prop :=
  (∀ (p : Port) (s : State),
     ((getPort s p.val).st = .upX4 → Leads (.timeFrameSend p) s
       { s with outbox := .linkFrame p.val (TimeFrame.mk s.time.masterAddr s.time.gen s.time.hops
         (if s.time.errValid then BitVec.ofNat 32 (min (s.time.err / 1000000) (2 ^ 32 - 1)) else 0xFFFFFFFF)
         (s.time.now.setWidth 68 <<< 4) (getPort s p.val).frameAt) :: s.outbox }) ∧
     ((getPort s p.val).st ≠ .upX4 → AtRest s → exec (.timeFrameSend p) s = .next s)) ∧
  (∀ (p : Port) (f : TimeFrame) (s : State), ∃ t h, exec (.timeFrame p f) s = .next t ∧
     h = (if f.hops = 0xFF then 0xFF else f.hops + 1) ∧
     Settled { s with
       time := t.time, fab := (modPort s p.val fun b => { b with frameAt := s.time.now.setWidth 68 <<< 4 }).fab } t ∧
     t.time.now = s.time.now ∧ t.time.err = s.time.err ∧
     (s.time.st = .unset → t.time.st = .acquiring ∧ t.time.gen = f.gen ∧ t.time.masterAddr = f.master ∧ t.time.parent = some p.val ∧
       t.time.acqStart = s.time.now ∧ t.time.hops = h) ∧
     (s.time.st ≠ .unset → 1 ≤ (f.gen - s.time.gen).toNat → (f.gen - s.time.gen).toNat ≤ 2 ^ 14 - 1 →
       t.time.st = s.time.st ∧ t.time.gen = f.gen ∧ t.time.masterAddr = f.master ∧ t.time.master = false ∧ t.time.parent = some p.val ∧
       t.time.hops = h ∧ t.time.holdover = false ∧ t.time.seen = []) ∧
     (s.time.st ≠ .unset → 2 ^ 14 - 1 < (f.gen - s.time.gen).toNat → t.time = s.time) ∧
     (s.time.st ≠ .unset → f.gen = s.time.gen → s.time.master = true →
       t.time.master = true ∧ t.time.parent = s.time.parent ∧ t.time.masterAddr = s.time.masterAddr ∧
       t.time.conflict = (if f.master = s.time.masterAddr ∨ f.master.toNat ∈ s.time.seen then s.time.conflict
         else s.time.conflict + 1)) ∧
     (s.time.st ≠ .unset → f.gen = s.time.gen → s.time.master = false → s.time.masterAddr.toNat < f.master.toNat →
       t.time.parent = s.time.parent ∧ t.time.masterAddr = s.time.masterAddr) ∧
     (s.time.st ≠ .unset → f.gen = s.time.gen → s.time.master = false → f.master.toNat < s.time.masterAddr.toNat →
       t.time.parent = some p.val ∧ t.time.masterAddr = f.master ∧ t.time.hops = h) ∧
     (s.time.st ≠ .unset → f.gen = s.time.gen → s.time.master = false → f.master = s.time.masterAddr →
       t.time.masterAddr = f.master ∧
       t.time.parent = (match s.time.parent with
         | none => some p.val
         | some q => if q = p.val then some q
           else if h.toNat < s.time.hops.toNat ∨ (h = s.time.hops ∧ p.val < q) then some p.val else some q)))

/-- R39, R41, R42: an exchange with the parent. Its offset is half the difference of the two legs, to the nearest and ties to even, less
the asymmetry of the port; its error estimate the parent's plus 50 ps plus the residual. Aligned, a follower takes the offset to slew
off, to the nearest tick and a tie to even (the model's choice, assumption log 14), without a step of TIME_NOW; LOCKED, it becomes
UNLOCKED above 20 ns, which is counted; UNLOCKED, it becomes LOCKED with the sixteenth exchange on end of at most 10 ns. In ACQUIRING it
loads the parent's time in one step, is LOCKED up to 10 ns and else UNLOCKED, and the armed times that have waited are evaluated (R42).
An exchange by a port that is not the parent's, or in UNSET, does nothing. Premise: no injection stands that would alter the exchange.
R41, R42, R43: an acquisition that times out returns to UNSET and follows nothing (that TIME_MASTER then reads 0 is the model's choice,
assumption log 114); a follower that loses its parent runs on in holdover; a LOCKED follower whose error estimate exceeds 20 ns is
UNLOCKED, and the entry counted; a master stays LOCKED. Elsewhere these three rows do nothing. -/
def Obligations.TimeIsAlignedAndLost : Prop :=
  (∀ (p : Port) (x : Exchange) (s : State) (off : Int) (e : Nat), s.time.parent = some p.val → NoInjection s →
     off = halfEven (timeDiff x.t2 x.t1 - timeDiff x.t4 x.t3) - (getPort s p.val).asym.toInt →
     e = (x.parentErr.toNat + 50 + x.residual.toNat) * 1000000 →
     ∃ k : Int, 2 * (off - 16 * k).natAbs ≤ 16 ∧ ((off - 16 * k).natAbs = 8 → k % 2 = 0) ∧
     (s.time.master = false → s.time.st = .locked ∨ s.time.st = .unlocked →
       ∃ t, exec (.timeExchange p x) s = .next t ∧ Settled { s with time := t.time, diag := t.diag } t ∧ t.time.now = s.time.now ∧
         t.time.offset = BitVec.ofInt 32 off ∧ t.time.slew = -k ∧ t.time.err = e ∧
         (s.time.st = .locked → t.time.st = (if 20 * errNs < e then .unlocked else .locked) ∧
           t.time.unlockCount = (if 20 * errNs < e then s.time.unlockCount + 1 else s.time.unlockCount)) ∧
         (s.time.st = .unlocked → t.time.st = (if e ≤ 10 * errNs ∧ 16 ≤ s.time.good + 1 then .locked else .unlocked))) ∧
     (s.time.st = .acquiring →
       ∃ t, exec (.acquireLoad p x) s = .next t ∧
         Settled { mapArmed (lookNow t) s with time := t.time, pins := t.pins, diag := t.diag } t ∧
         t.time.now = s.time.now + BitVec.ofInt 64 (-k) ∧ t.time.err = e ∧
         t.time.st = (if e ≤ 10 * errNs then .locked else .unlocked))) ∧
  (∀ (p : Port) (x : Exchange) (s : State), AtRest s → s.time.parent ≠ some p.val ∨ s.time.st = .unset →
     exec (.timeExchange p x) s = .next s ∧ exec (.acquireLoad p x) s = .next s) ∧
  (∀ s : State,
     (s.time.st = .acquiring → Leads .acquiringTimeout s { s with time := { s.time with
       st := .unset, parent := none, hops := 0xFF, masterAddr := 0, gen := 0, seen := [] } }) ∧
     (s.time.parent ≠ none → s.time.master = false → s.time.st = .locked ∨ s.time.st = .unlocked →
       Leads .holdover s { s with time := { s.time with holdover := true, parent := none } }) ∧
     (s.time.st = .locked → s.time.master = false → 20 * errNs < s.time.err →
       ∃ t, exec .unlocked s = .next t ∧ Settled { s with diag := t.diag, time := { s.time with
         st := .unlocked, unlockCount := s.time.unlockCount + 1, good := 0 } } t) ∧
     (AtRest s → (s.time.st ≠ .acquiring → exec .acquiringTimeout s = .next s) ∧
       (s.time.parent = none ∨ s.time.master = true → exec .holdover s = .next s) ∧
       (s.time.st ≠ .locked ∨ s.time.master = true ∨ s.time.err ≤ 20 * errNs → exec .unlocked s = .next s)))

/-- R48, R49: an edge of the cadence. With tracking off it does nothing; the divider passes one in DIV + 1; the edge that passes becomes
the last accepted one, the cadence is not lost, and its slot, the first Beat boundary at or after it plus the stagger, joins the slots
ahead; the period is the span of the last 8 edges over their number less one (gaps included: the model's choice, assumption log 115),
and the fourth edge on end that lies within 1 % of a period of a predicted one locks. Once locked, an edge off its prediction is rejected
and counted instead. CAD_LOST, once eight periods (less than 2^63 ticks) have passed without an edge, loses the lock, and the next slots come from the
predicted edges, the first of which is the first after TIME_NOW; before that, or without lock, it does nothing. R50: at the row of
TIME_PPS_OUT the output is high while it is enabled, the time state is LOCKED or UNLOCKED, and the tick lies less than WIDTH
microseconds after the second that raised it; it rises only at a whole second, and then the rise is seen outside. R46, R35, R43, R456,
R457: a Beat. TIME_NOW goes on to the next multiple of 4,096 ticks, and one tick further or one tick of the oscillator longer where a
slew is outstanding; holdover adds to the error estimate; the contract that waited is in force, the governor has taken the readings into
its sum (a new one where a minute has just ended) and formed the cap in force. In COLD nothing moves. -/
def Obligations.BeatAndSecondAreKept : Prop :=
  (∀ s : State,
     (AtRest s → s.time.cadEnable = false → exec .cadEdge s = .next s) ∧
     (s.time.cadEnable = true → s.time.divCount < s.time.cadDiv.toNat →
       Leads .cadEdge s { s with time := { s.time with divCount := s.time.divCount + 1 } }) ∧
     (s.time.cadEnable = true → s.time.cadDiv.toNat ≤ s.time.divCount → s.time.cadLocked = true → nearPrediction s.time s.time.now = false →
       Leads .cadEdge s { s with time := { s.time with divCount := 0, cadReject := s.time.cadReject + 1 } }) ∧
     (s.time.cadEnable = true → s.time.cadDiv.toNat ≤ s.time.divCount →
       s.time.cadLocked = false ∨ nearPrediction s.time s.time.now = true →
       ∃ t, exec .cadEdge s = .next t ∧ Settled { s with time := t.time } t ∧ t.time.cadLast = s.time.now ∧ t.time.cadLost = false ∧
         t.time.cadReject = s.time.cadReject ∧ t.time.divCount = 0 ∧ t.time.now = s.time.now ∧
         (∃ b, t.time.slots = s.time.slots ++ [b] ∧ b.toNat % 4096 = 0 ∧
           (b - (s.time.now + BitVec.ofNat 64 (s.time.cadStagger.toNat * 4096))).toNat < 4096) ∧
         t.time.edges = (s.time.now :: s.time.edges).take 8 ∧
         (s.time.edges ≠ [] → t.time.cadPeriod = BitVec.ofNat 32
           ((s.time.now - t.time.edges.getLast?.getD s.time.now).toNat / (t.time.edges.length - 1))) ∧
         t.time.cadGood = (if nearPrediction s.time s.time.now = true then s.time.cadGood + 1 else 0) ∧
         t.time.cadLocked = (s.time.cadLocked || decide (4 ≤ t.time.cadGood))) ∧
     (s.time.cadPeriod ≠ 0 → (nearPrediction s.time s.time.now = true ↔ ∃ k : Nat, 1 ≤ k ∧
       100 * (((s.time.now - s.time.cadLast).toNat : Int) - k * s.time.cadPeriod.toNat).natAbs ≤ s.time.cadPeriod.toNat)) ∧
     (s.time.cadEnable = true → s.time.cadLocked = true → s.time.cadPeriod ≠ 0 →
       8 * s.time.cadPeriod.toNat ≤ (s.time.now - s.time.cadLast).toNat → (s.time.now - s.time.cadLast).toNat < 2 ^ 63 →
       ∃ k : Nat, (s.time.now - s.time.cadLast).toNat < k * s.time.cadPeriod.toNat ∧
         k * s.time.cadPeriod.toNat ≤ (s.time.now - s.time.cadLast).toNat + s.time.cadPeriod.toNat ∧
         Leads .cadLost s { s with time := { s.time with
           cadLost := true, cadLocked := false, cadGood := 0
           cadNext := s.time.cadLast + BitVec.ofNat 64 (k * s.time.cadPeriod.toNat) } }) ∧
     (AtRest s → s.time.cadEnable = false ∨ s.time.cadLocked = false ∨
       (s.time.now - s.time.cadLast).toNat < 8 * s.time.cadPeriod.toNat → exec .cadLost s = .next s)) ∧
  (∀ s : State, ∃ t, exec .timePpsOut s = .next t ∧ Settled { s with pins := { s.pins with pps := t.pins.pps } } t ∧
     (t.pins.pps = true ↔ s.time.ppsEnable = true ∧ (s.time.st = .locked ∨ s.time.st = .unlocked) ∧
       s.time.now.toNat % 4000000000 < s.time.ppsWidth.toNat * 4000 ∧ (s.pins.pps = true ∨ s.time.now.toNat % 4000000000 = 0)) ∧
     (t.pins.pps = true → s.pins.pps = false → Output.pps s.time.now ∈ t.outbox)) ∧
  (∀ (m : Sensors) (s : State),
     (s.hub.dev ≠ .cold → ∃ t, exec (.beatBoundary m) s = .next t ∧
       t.time.now = s.time.now + BitVec.ofNat 64 (4096 - s.time.now.toNat % 4096) + (if 1 ≤ s.time.slew then 1 else 0) ∧
       (s.time.slew ≤ 0 → t.time.now.toNat % 4096 = 0) ∧
       t.ticks = s.ticks + (4096 - s.time.now.toNat % 4096) + (if s.time.slew ≤ -1 then 1 else 0) ∧
       t.time.slew = (if 1 ≤ s.time.slew then s.time.slew - 1 else if s.time.slew ≤ -1 then s.time.slew + 1 else 0) ∧
       t.time.err = (if s.time.holdover = true then s.time.err + 2048 else s.time.err) ∧
       t.pwr.con = s.pwr.pend.getD s.pwr.con ∧ t.pwr.pend = none ∧ t.pwr.last = m ∧
       t.pwr.inForce = BitVec.ofNat 16 (capInForce t) ∧
       (t.time.now.toNat < minuteTicks ∨ (s.pwr.avgs ≠ [] ∧ s.pwr.minuteNo = t.time.now.toNat / minuteTicks - 1) →
         t.pwr.samples = s.pwr.samples + 1 ∧ t.pwr.sum = s.pwr.sum + m.power.toNat) ∧
       (minuteTicks ≤ t.time.now.toNat → s.pwr.avgs = [] ∨ s.pwr.minuteNo ≠ t.time.now.toNat / minuteTicks - 1 →
         t.pwr.samples = 1 ∧ t.pwr.sum = m.power.toNat)) ∧
     (s.hub.dev = .cold → AtRest s → NoLockout s → exec (.beatBoundary m) s = .next s))

/-- R51, R53, R42: how an armed time is decided, on the switch time of an end-to-end key (R426), by LAUNCH_FIRE or by the row of the
switch. While time comparisons are suspended nothing is evaluated. The first evaluation finds the time at hand (it fires), less than
2^39 ticks ahead (it waits), or past (it fires and counts as late); what it found when the time was armed stands. A time that waits
fires at T or past it, on time. Nothing but the context's switch and the count moves. -/
def Obligations.ArmedTimesDecideByR51 : Prop :=
  ∀ (c : Ctx) (a : Armed) (d : Nat) (v : Launch) (i : Instr) (s : State), i = .launchFire (.e2e c) ∨ i = .e2eKeySwitch c → NoLockout s →
    (getCtx s c.val).sec.e2eSwitch = some a → a.held = false → d = (a.t - s.time.now.setWidth 40).toNat →
    v = a.seen.getD (if d = 0 then .onTime else if d < 2 ^ 39 then .wait else .late) →
    (s.time.st = .unset ∨ s.time.st = .acquiring → Leads i s s) ∧
    (s.time.st = .locked ∨ s.time.st = .unlocked → ∃ t, exec i s = .next t ∧
      Settled { s with ctxs := t.ctxs, time := t.time } t ∧ (∀ k, k ≠ c.val → getCtx t k = getCtx s k) ∧
      t.time = { s.time with lateLaunch := if v = .late then s.time.lateLaunch + 1 else s.time.lateLaunch } ∧
      (v ≠ .wait ∨ (a.seen = some .wait ∧ (d = 0 ∨ 2 ^ 39 ≤ d)) → (getCtx t c.val).sec.e2eSwitch = none ∧
        (getCtx t c.val).sec.e2eCur = !(getCtx s c.val).sec.e2eCur ∧ (getCtx t c.val).sec.sendCtr = 0) ∧
      (v = .wait → a.seen = none ∨ (0 < d ∧ d < 2 ^ 39) →
        (getCtx t c.val).sec.e2eSwitch = some { a with seen := some .wait } ∧
        (getCtx t c.val).sec.e2eCur = (getCtx s c.val).sec.e2eCur))

/-- R34: two times compare by serial numbers: the order of R34 is the one the model's comparison decides. -/
def Obligations.TimesCompareBySerialNumbers : Prop :=
  ∀ a b : BitVec 64, laterThan a b = true ↔ 1 ≤ (a - b).toNat ∧ (a - b).toNat ≤ 2 ^ 63 - 1

/-- R355, R386, R412: CTX_OPEN of a closed context takes a free range of the Page Map that overlaps no other context's, moves the
generation by one and opens the context; one of a confidential partition gets a key set of its own. Memory and every other context
stay. A context that is not closed is STATE_CONFLICT on unit 0x05, a partition with a channel mapped out FENCED (R200), no free range
NO_RESOURCE, and a field out of range BAD_ARG. R381, R385: a fence. FENCE_CONTEXT makes an open context FENCING with no stream of it left
RUNNING on the cores that serve it and no program of it left in an engine, and leaves its generation; when what it awaits has drained, the
context is FENCED with its generation moved by one, and a CTX_RECOVER that waits opens it under that generation, a CTX_CLOSE that waits
closes it, both answered. R387, R389, R390, R416: CTX_RECOVER opens a FENCED context again under the generation the fence left, and answers
it; CTX_CLOSE tears a FENCED context down to closed with no entry of its range left mapped, and neither changes memory's data. Of an open
context both begin a fence and wait for it, and of a FENCING one they join the fence. A recovery of a context that is locked out is DENIED,
of one whose commit is pending STATE_CONFLICT on unit 0x01; where a domain holds the context either command is FENCED, and on a closed
context STATE_CONFLICT on unit 0x05. No row touches another context. -/
def Obligations.ContextsOpenFenceAndClose : Prop :=
  (∀ (r : Req) (part : BitVec 8) (len : BitVec 32) (s : State), Ready 0x0201 setWork r s →
     (r.ctx.toNat < 64 → part.toNat < partCount s.hub.layout → len ≠ 0 → (getCtx s r.ctx.toNat).st = .closed →
       partLost s part.toNat = false →
       (∀ b, findRange s len.toNat = some b → ∃ t, exec (.ctxOpen r part len) s = .next t ∧
         Answers s t r 0x0201 0x00 (leBytes 4 b ++ leBytes 2 ((getCtx s r.ctx.toNat).cgen + 1).toNat) ∧
         Settled { s with ctxs := t.ctxs, sec := { s.sec with nextKey := t.sec.nextKey } } t ∧
         (getCtx t r.ctx.toNat).st = .opened ∧ (getCtx t r.ctx.toNat).cgen = (getCtx s r.ctx.toNat).cgen + 1 ∧
         (getCtx t r.ctx.toNat).part = part.toNat ∧ (getCtx t r.ctx.toNat).pmBase.toNat = b ∧
         (getCtx t r.ctx.toNat).pmLen.toNat = len.toNat ∧ b + len.toNat ≤ 163840 ∧
         (∀ k, k ≠ r.ctx.toNat → getCtx t k = getCtx s k ∧ (k < 64 → (getCtx s k).pmLen = 0 ∨ b + len.toNat ≤ (getCtx s k).pmBase.toNat ∨
           (getCtx s k).pmBase.toNat + (getCtx s k).pmLen.toNat ≤ b)) ∧
         (isConf s part.toNat = true → (getCtx t r.ctx.toNat).sec.keys.getD 0 none = some s.sec.nextKey ∧
           t.sec.nextKey = s.sec.nextKey + 1)) ∧
       (findRange s len.toNat = none → Serves (.ctxOpen r part len) s s r 0x0201 0x05 [])) ∧
     (64 ≤ r.ctx.toNat ∨ partCount s.hub.layout ≤ part.toNat ∨ len = 0 → Serves (.ctxOpen r part len) s s r 0x0201 0x03 []) ∧
     (r.ctx.toNat < 64 → part.toNat < partCount s.hub.layout → len ≠ 0 →
       ((getCtx s r.ctx.toNat).st ≠ .closed → Conflicts (.ctxOpen r part len) s r 0x0201 0x05 1 0x1) ∧
       ((getCtx s r.ctx.toNat).st = .closed → partLost s part.toNat = true → Serves (.ctxOpen r part len) s s r 0x0201 0x08 []))) ∧
  (∀ (c : Ctx) (s : State),
     ((getCtx s c.val).st = .opened → ∃ t, exec (.fenceContext c) s = .next t ∧ (getCtx t c.val).st = .fencing ∧
       (getCtx t c.val).cgen = (getCtx s c.val).cgen ∧ (getCtx t c.val).fence ≠ none ∧
       (∀ n i, n < 128 → inService s n = true → i < 16 → (getC s n).ctx = some c.val → (getStream (getC t n) i).ctx = c.val →
         (getStream (getC t n) i).st ≠ .running) ∧
       (∀ e p, e < 4 → p ∈ (getEngine t e).running ∨ p ∈ (getEngine t e).queued → p.ctx ≠ c.val) ∧
       (∀ k, k ≠ c.val → getCtx t k = getCtx s k)) ∧
     (∀ f, (getCtx s c.val).st = .fencing → (getCtx s c.val).fence = some f → fenceDrained s c.val = true →
       ∃ t, exec (.fenceDrainComplete c) s = .next t ∧ (∀ k, k ≠ c.val → getCtx t k = getCtx s k) ∧
         t.mem.cells = s.mem.cells ∧
         (f.waiters = [] → (getCtx t c.val).st = .fenced ∧ (getCtx t c.val).cgen = (getCtx s c.val).cgen + 1 ∧
           (getCtx t c.val).fence = none ∧ t.mem = s.mem) ∧
         (∀ r, f.waiters = [(0, r)] → (getCtx s c.val).sec.locked = false → (getCtx s c.val).domains = 0 →
           (getCtx t c.val).st = .opened ∧ (getCtx t c.val).cgen = (getCtx s c.val).cgen + 1 ∧
           Answers s t r 0x0606 0x00 (leBytes 2 ((getCtx s c.val).cgen + 1).toNat) ∧ t.mem = s.mem) ∧
         (∀ r, f.waiters = [(1, r)] → (getCtx s c.val).domains = 0 →
           (getCtx t c.val).st = .closed ∧ (getCtx t c.val).cgen = (getCtx s c.val).cgen + 1 ∧ Answers s t r 0x0202 0x00 [])) ∧
     (AtRest s → (getCtx s c.val).st ≠ .opened → exec (.fenceContext c) s = .next s) ∧
     (AtRest s → (getCtx s c.val).st ≠ .fencing ∨ fenceDrained s c.val = false → exec (.fenceDrainComplete c) s = .next s)) ∧
  (∀ (r : Req) (x : Context) (s : State), r.ctx.toNat < 64 → x = getCtx s r.ctx.toNat →
     (Ready 0x0606 setLive r s →
       (x.st = .fenced → x.led.st ≠ .commitPending → x.sec.locked = false → x.domains = 0 →
         ∃ t, exec (.ctxRecover r) s = .next t ∧ Answers s t r 0x0606 0x00 (leBytes 2 x.cgen.toNat) ∧
           getCtx t r.ctx.toNat = { x with st := .opened } ∧ t.mem = s.mem ∧ (∀ k, k ≠ r.ctx.toNat → getCtx t k = getCtx s k)) ∧
       (x.st = .opened → x.led.st ≠ .commitPending → x.sec.locked = false → x.domains = 0 →
         ∃ t f, exec (.ctxRecover r) s = .next t ∧ (getCtx t r.ctx.toNat).st = .fencing ∧ (getCtx t r.ctx.toNat).fence = some f ∧
           f.waiters = [(0, r)] ∧ (∀ k, k ≠ r.ctx.toNat → getCtx t k = getCtx s k)) ∧
       (∀ f, x.st = .fencing → x.fence = some f → x.led.st ≠ .commitPending → x.sec.locked = false → x.domains = 0 →
         ∃ t, exec (.ctxRecover r) s = .next t ∧
           getCtx t r.ctx.toNat = { x with fence := some { f with waiters := f.waiters ++ [(0, r)] } } ∧
           (∀ k, k ≠ r.ctx.toNat → getCtx t k = getCtx s k)) ∧
       (x.st = .closed → Conflicts (.ctxRecover r) s r 0x0606 0x05 0 0x2) ∧
       (x.st ≠ .closed → x.led.st = .commitPending → Conflicts (.ctxRecover r) s r 0x0606 0x01 3 0x37) ∧
       (x.st ≠ .closed → x.led.st ≠ .commitPending → x.sec.locked = true → Serves (.ctxRecover r) s s r 0x0606 0x04 []) ∧
       (x.st ≠ .closed → x.led.st ≠ .commitPending → x.sec.locked = false → x.domains ≠ 0 →
         Serves (.ctxRecover r) s s r 0x0606 0x08 [])) ∧
     (Ready 0x0202 setLive r s →
       (x.st = .fenced → x.domains = 0 →
         ∃ t, exec (.ctxClose r) s = .next t ∧ Answers s t r 0x0202 0x00 [] ∧ (getCtx t r.ctx.toNat).st = .closed ∧
           (getCtx t r.ctx.toNat).cgen = x.cgen ∧ t.mem.cells = s.mem.cells ∧
           (∀ i, x.pmBase.toNat ≤ i → i < x.pmBase.toNat + x.pmLen.toNat → mapGet t.mem.pmap i 0 = 0) ∧
           (∀ k, k ≠ r.ctx.toNat → getCtx t k = getCtx s k)) ∧
       (x.st = .opened → x.domains = 0 →
         ∃ t f, exec (.ctxClose r) s = .next t ∧ (getCtx t r.ctx.toNat).st = .fencing ∧ (getCtx t r.ctx.toNat).fence = some f ∧
           f.waiters = [(1, r)] ∧ (∀ k, k ≠ r.ctx.toNat → getCtx t k = getCtx s k)) ∧
       (∀ f, x.st = .fencing → x.fence = some f → x.domains = 0 →
         ∃ t, exec (.ctxClose r) s = .next t ∧
           getCtx t r.ctx.toNat = { x with fence := some { f with waiters := f.waiters ++ [(1, r)] } } ∧
           (∀ k, k ≠ r.ctx.toNat → getCtx t k = getCtx s k)) ∧
       (x.st = .closed → Conflicts (.ctxClose r) s r 0x0202 0x05 0 0x2) ∧
       (x.st ≠ .closed → x.domains ≠ 0 → Serves (.ctxClose r) s s r 0x0202 0x08 [])))

/-- R355, R360, R232, R210: setting records, on an open context. CTX_CONFIG with the one key 0x0900 sets the seed of the context; any
other key is BAD_ARG. JOB_CONFIG with one record of a plain job key in its range sets it at once, but a pipeline key waits for the next
Downbeat once a step has been armed; no other setting of the context moves; out of range it is BAD_ARG. (AUDIT_ROT takes 1 to 127 but no
multiple of the cores of the partition, PIPE_V 1 to 8.) MEM_POLICY with records all of its keys and in range puts them in force and sets
the memory policy from the settings; the first that is not is BAD_ARG with its index. R216, R217: MAP of one item in the context's own
range, for its own context and partition. An entry with VALID = 0 clears its place; a local entry of a page that is neither mapped nor in
quarantine, and a window, take it; every other entry keeps its value. A page that is mapped or in quarantine is DENIED, as is a host window
of a confidential partition without IDE; a window above 20,992 is NO_RESOURCE; an entry of another context or partition, of the reserved
type, outside the range or with a reserved bit is BAD_ARG. A request of several items that refuses one changes nothing and names it. R218:
UNMAP clears its range and nothing else; a range outside the context's is BAD_ARG. Neither changes memory's data. Premises: no access
of the context is under way (it would complete first, R218), and no region of the job and no frozen layer is set, whose WR bits MAP
would keep right (R242, R286). -/
def Obligations.SettingsAndMapsAreWritten : Prop :=
  (∀ (r : Req) (v : Setting) (s : State) (x : Context), r.ctx.toNat < 64 → x = getCtx s r.ctx.toNat → x.st = .opened →
     (Ready 0x0203 setWork r s →
       (v.key = 0x0900 → Serves (.ctxConfig r [v]) s
         (setCtx s r.ctx.toNat { x with set := mapSet x.set 0x900 v.value }) r 0x0203 0x00 []) ∧
       (v.key ≠ 0x0900 → Refuses (.ctxConfig r [v]) s r 0x0203 0x03 0)) ∧
     (Ready 0x0204 setWork r s →
       [0x300, 0x301, 0x500, 0x501, 0x502, 0x503, 0x600, 0x601, 0x602, 0x603, 0x605, 0x70C, 0x70D, 0x70E, 0x70F,
         0x800, 0x801, 0x802, 0x803, 0x804, 0x805, 0x806].contains v.key.toNat = true →
       (valueOk (ctxAfter s r.ctx.toNat [v]) (coresIn s x) true v.key.toNat v.value.toNat = true →
         ∃ t, exec (.jobConfig r [v]) s = .next t ∧ Answers s t r 0x0204 0x00 [] ∧ t.mem.cells = s.mem.cells ∧
           (∀ k, k ≠ r.ctx.toNat → getCtx t k = getCtx s k) ∧
           (x.led.everArmed = false ∨ v.key.toNat < 0x600 ∨ (0x603 < v.key.toNat ∧ v.key.toNat ≠ 0x605 ∧ v.key.toNat ≠ 0x70D) →
             getCtx t r.ctx.toNat = { x with set := mapSet x.set v.key.toNat v.value }) ∧
           (x.led.everArmed = true → (0x600 ≤ v.key.toNat ∧ v.key.toNat ≤ 0x603) ∨ v.key.toNat = 0x605 ∨ v.key.toNat = 0x70D →
             getCtx t r.ctx.toNat = { x with led := { x.led with pendSet := mapSet x.led.pendSet v.key.toNat v.value } })) ∧
       (valueOk (ctxAfter s r.ctx.toNat [v]) (coresIn s x) true v.key.toNat v.value.toNat = false →
         Refuses (.jobConfig r [v]) s r 0x0204 0x03 0))) ∧
  (∀ (get : Nat → Nat) (cores v : Nat),
     (valueOk get cores true 0x502 v = true ↔ 1 ≤ v ∧ v ≤ 127 ∧ (cores = 0 ∨ v % cores ≠ 0)) ∧
     (valueOk get cores true 0x602 v = true ↔ 1 ≤ v ∧ v ≤ 8)) ∧
  (∀ (r : Req) (recs : List Setting) (s : State), Ready 0x0207 setUp r s → wellFormed (.memPolicy r recs) = true →
     (recs ≠ [] → recs.all memRecordOk = true → ∃ t, exec (.memPolicy r recs) s = .next t ∧ Answers s t r 0x0207 0x00 [] ∧
       (∀ k, devSetting t k = lastOf recs k (devSetting s k)) ∧
       t.mem.policy = {
         corrRetrain := (devSetting t 0x400).toNat, uncorrMapout := (devSetting t 0x401).toNat,
         crcMapout := (devSetting t 0x402).toNat, retrainLimit := (devSetting t 0x403).toNat,
         scrubHours := (devSetting t 0x404).toNat, migrateShare := (devSetting t 0x405).toNat } ∧
       t.time.now = s.time.now ∧
       Settled { s with
         time := t.time, pins := t.pins, mem := { s.mem with policy := t.mem.policy },
         mail := { s.mail with volatile := t.mail.volatile } } t) ∧
     (∀ i, recs.findIdx? (fun v => !memRecordOk v) = some i → Refuses (.memPolicy r recs) s r 0x0207 0x03 i)) ∧
  (∀ (r : Req) (it : MapItem) (s : State) (x : Context) (i : Nat), Ready 0x0205 setWork r s → r.ctx.toNat < 64 →
     x = getCtx s r.ctx.toNat → x.st = .opened → i = x.pmBase.toNat + it.index.toNat →
     (it.index.toNat < x.pmLen.toNat → it.entry.getLsbD 0 = false ∨
         (entField it.entry 3 6 = r.ctx.toNat ∧ entField it.entry 9 2 = x.part ∧
           ((entField it.entry 1 2 = 0 ∧ entField it.entry 31 33 = 0 ∧ entField it.entry 13 18 < partPages s ∧
               (s.mem.quar.getD x.part []).contains (entField it.entry 13 18) = false ∧
               pageMapped s.mem.pmap x.part (entField it.entry 13 18) = false) ∨
            (entField it.entry 1 2 = 1 ∧ it.entry.getLsbD 11 = false ∧ windowCount (mapErase s.mem.pmap i) < 20992) ∨
            (entField it.entry 1 2 = 2 ∧ it.entry.getLsbD 11 = false ∧ entField it.entry 49 15 = 0 ∧
              (isConf s x.part = false ∨ s.sec.ide.getLsbD x.part = true) ∧ windowCount (mapErase s.mem.pmap i) < 20992))) →
       NoAccess s r.ctx.toNat → regionSize s r.ctx.toNat = 0 → frozenLayers x = [] →
       ∃ t, exec (.map r [it]) s = .next t ∧ Answers s t r 0x0205 0x00 [] ∧ t.mem.cells = s.mem.cells ∧
         mapGet t.mem.pmap i 0 = (if it.entry.getLsbD 0 then it.entry else 0) ∧
         ∀ j, j ≠ i → mapGet t.mem.pmap j 0 = mapGet s.mem.pmap j 0) ∧
     (x.pmLen.toNat ≤ it.index.toNat ∨ (it.entry.getLsbD 0 = true ∧ (entField it.entry 1 2 = 3 ∨
         entField it.entry 3 6 ≠ r.ctx.toNat ∨ entField it.entry 9 2 ≠ x.part ∨
         (entField it.entry 1 2 = 0 ∧ (entField it.entry 31 33 ≠ 0 ∨ partPages s ≤ entField it.entry 13 18)) ∨
         (entField it.entry 1 2 ≠ 0 ∧ it.entry.getLsbD 11 = true) ∨ (entField it.entry 1 2 = 2 ∧ entField it.entry 49 15 ≠ 0))) →
       Refuses (.map r [it]) s r 0x0205 0x03 0) ∧
     (it.index.toNat < x.pmLen.toNat → it.entry.getLsbD 0 = true → entField it.entry 3 6 = r.ctx.toNat →
       entField it.entry 9 2 = x.part →
       (entField it.entry 1 2 = 0 → entField it.entry 31 33 = 0 → entField it.entry 13 18 < partPages s →
         (s.mem.quar.getD x.part []).contains (entField it.entry 13 18) = true ∨
           pageMapped s.mem.pmap x.part (entField it.entry 13 18) = true → Refuses (.map r [it]) s r 0x0205 0x04 0) ∧
       (entField it.entry 1 2 = 2 → it.entry.getLsbD 11 = false → entField it.entry 49 15 = 0 → isConf s x.part = true →
         s.sec.ide.getLsbD x.part = false → Refuses (.map r [it]) s r 0x0205 0x04 0) ∧
       (entField it.entry 1 2 = 1 → it.entry.getLsbD 11 = false → 20992 ≤ windowCount (mapErase s.mem.pmap i) →
         Refuses (.map r [it]) s r 0x0205 0x05 0)) ∧
     (∀ items k st, wellFormed (.map r items) = true → items ≠ [] → takeItems s r.ctx.toNat x 0 s.mem.pmap [] items = .error (k, st) →
       items.length ≤ 250 → Refuses (.map r items) s r 0x0205 st k)) ∧
  (∀ (r : Req) (first count : BitVec 32) (s : State) (x : Context), Ready 0x0206 setLive r s → r.ctx.toNat < 64 →
     x = getCtx s r.ctx.toNat → x.st ≠ .closed →
     (first.toNat + count.toNat ≤ x.pmLen.toNat → NoAccess s r.ctx.toNat →
       ∃ t, exec (.unmap r first count) s = .next t ∧ Answers s t r 0x0206 0x00 [] ∧ t.mem.cells = s.mem.cells ∧
       ∀ i, mapGet t.mem.pmap i 0 = (if x.pmBase.toNat + first.toNat ≤ i ∧ i < x.pmBase.toNat + first.toNat + count.toNat then 0
         else mapGet s.mem.pmap i 0)) ∧
     (x.pmLen.toNat < first.toNat + count.toNat → Serves (.unmap r first count) s s r 0x0206 0x03 []))

/-- R169, R355: STREAM_START with role NONE on a core in service of the context's partition, which is not confidential, that serves the
context under its generation, with operands in range. Into a slot that is IDLE or HALTED: the stream runs at the descriptor, under its
class and placement generation, with nothing issued and its count of descriptors kept; every other slot of the core and every other core
stays, but that the core is in Run. On a slot that is RUNNING or STOPPING it is STATE_CONFLICT on the stream, unit 0x03, with its state,
legal in IDLE and HALTED; on a core out of service it is FENCED. R449, R169: on a core in service that serves another generation or no context
and has no stream out of IDLE, the core first begins work for the context: no semaphore has a count, and every other slot is IDLE. R245, R246: a
start with role READ or WRITE whose first descriptor is no SETBASE of BR 4 with VALUE 0 is BAD_ARG; one whose record or version slot is not
ready is BUSY and counts in TRN_BUSY. -/
def Obligations.StreamsStart : Prop :=
  ∀ (r : Req) (core slot cls shard pgen : BitVec 8) (desc recVa : BitVec 64) (s : State), Ready 0x0208 setWork r s → NoLockout s →
    r.ctx.toNat < 64 → (getCtx s r.ctx.toNat).st = .opened → core.toNat < 128 → corePart s core.toNat = (getCtx s r.ctx.toNat).part →
    slot.toNat < 16 → cls.toNat < 3 → shard.toNat < 2 → desc.toNat < 2 ^ 48 → desc.toNat % 32 = 0 → recVa.toNat < 2 ^ 48 →
    (inService s core.toNat = true → isConf s (getCtx s r.ctx.toNat).part = false →
      (getC s core.toNat).ctx = some r.ctx.toNat → (getC s core.toNat).gen = (getCtx s r.ctx.toNat).cgen →
      ((getStream (getC s core.toNat) slot.toNat).st = .idle ∨ (getStream (getC s core.toNat) slot.toNat).st = .halted →
        Serves (.streamStart r core slot cls 0 shard pgen desc recVa) s
          (setC s core.toNat (modStream { getC s core.toNat with pstate := .run } slot.toNat fun t => { Stream.reset with
            st := .running, cls := cls.setWidth 2, ctx := r.ctx.toNat, pgen := pgen, first := desc.setWidth 48,
            pc := desc.setWidth 48, prog := t.prog })) r 0x0208 0x00 []) ∧
      ((getStream (getC s core.toNat) slot.toNat).st = .running →
        Conflicts (.streamStart r core slot cls 0 shard pgen desc recVa) s r 0x0208 0x03 1 0x5) ∧
      ((getStream (getC s core.toNat) slot.toNat).st = .stopping →
        Conflicts (.streamStart r core slot cls 0 shard pgen desc recVa) s r 0x0208 0x03 3 0x5)) ∧
    (inService s core.toNat = true → isConf s (getCtx s r.ctx.toNat).part = false →
      (getC s core.toNat).ctx ≠ some r.ctx.toNat → (∀ i, (getStream (getC s core.toNat) i).st = .idle) →
      ∃ t, exec (.streamStart r core slot cls 0 shard pgen desc recVa) s = .next t ∧ Answers s t r 0x0208 0x00 [] ∧
        (getC t core.toNat).ctx = some r.ctx.toNat ∧ (getC t core.toNat).gen = (getCtx s r.ctx.toNat).cgen ∧
        (∀ k, semGet (getC t core.toNat) k = 0) ∧ (getStream (getC t core.toNat) slot.toNat).st = .running ∧
        (getStream (getC t core.toNat) slot.toNat).pc = desc.setWidth 48 ∧
        (∀ i, i ≠ slot.toNat → (getStream (getC t core.toNat) i).st = .idle) ∧ t.mem = s.mem) ∧
    (inService s core.toNat = false → ∀ role : BitVec 8, role.toNat < 3 →
      Serves (.streamStart r core slot cls role shard pgen desc recVa) s s r 0x0208 0x08 []) ∧
    (∀ (role : BitVec 8) (q : Start), q = Start.mk core.toNat slot.toNat cls role shard pgen desc recVa → role.toNat = 1 ∨ role.toNat = 2 →
      inService s core.toNat = true → isConf s (getCtx s r.ctx.toNat).part = false → (getCtx s r.ctx.toNat).led.noState = false →
      (getC s core.toNat).ctx = some r.ctx.toNat → (getStream (getC s core.toNat) slot.toNat).st = .idle →
      (setbaseFirst s r.ctx.toNat desc.toNat = false → Serves (.streamStart r core slot cls role shard pgen desc recVa) s s r 0x0208 0x03 []) ∧
      (planStart s r.ctx.toNat (getCtx s r.ctx.toNat) q = .busy →
        Serves (.streamStart r core slot cls role shard pgen desc recVa) s
          (setCtx s r.ctx.toNat { getCtx s r.ctx.toNat with trnBusy := (getCtx s r.ctx.toNat).trnBusy + 1 }) r 0x0208 0x01 []))

/-- R256, R258, R354: the bring-up of a port. A powered port in DOWN with its cable in that finds a partner goes to TRAINING; otherwise a
probe does nothing. PORT_RETRAIN sends any fitted port to TRAINING, counted when it was up, with FULL clearing its excluded lanes; while
another port of its group is in TRAINING or RELOCK it is STATE_CONFLICT on unit 0x04, and a port that is not fitted or a FULL above 1
BAD_ARG. R256, R257, R275: training that ends puts the port up on the lanes that are not excluded, a lane that did not train among
those: all four, or a good half; without one it is retired; the partner is known then. With the module in per-link mode a partner that
is not accepted leaves the port DOWN and marked. Training that overruns its bound leaves the port DOWN. Premises: nothing waits in the retry
buffer, no activation is in progress, and the port trained at most four times in the hour and does not wait. R256, R257, R474: how a port
in service falls out of it. One that loses lock goes to RELOCK and no longer serves as the time parent; if it regains lock, it goes back
to the mode of its lanes; when the window ends it goes to TRAINING, and without a cable DOWN. A lane that shows too many errors sends the
port to TRAINING, or lets it wait while another port of its group trains; a lane that has failed before is excluded, and with no good half
left the port is retired. Outside the fabric block nothing of memory, contexts, cores, security or power moves. -/
def Obligations.PortsTrainAndDegrade : Prop :=
  (∀ (p : Port) (s : State), p.val < portCount s → s.hub.actReq = none → (getPort s p.val).buf = [] →
     ((getPort s p.val).st = .down → s.hub.dev ≠ .cold → s.hub.diesDown.getLsbD (p.val % 4) = false → cableIn s p.val = true →
       ∃ t, exec (.portProbe p true) s = .next t ∧ (getPort t p.val).st = .training ∧
         (getPort t p.val).retrain = (getPort s p.val).retrain ∧ Apart s t ∧ ∀ q, q ≠ p.val → getPort t q = getPort s q) ∧
     (∀ partner : Bool, (getPort s p.val).st ≠ .down ∨ cableIn s p.val = false ∨ partner = false ∨ s.hub.dev = .cold ∨
         s.hub.diesDown.getLsbD (p.val % 4) = true → AtRest s → exec (.portProbe p partner) s = .next s) ∧
     (∀ (r : Req) (port full : BitVec 8), Ready 0x0104 setLive r s →
       (port.toNat = p.val → full.toNat ≤ 1 →
           (∀ q, q ≠ p.val → q / 4 = p.val / 4 → (getPort s q).st ≠ .training ∧ (getPort s q).st ≠ .relock) →
         ∃ t, exec (.portRetrain r port full) s = .next t ∧ Answers s t r 0x0104 0x00 [] ∧ (getPort t p.val).st = .training ∧
           (portUp (getPort s p.val) = true → (getPort t p.val).retrain = (getPort s p.val).retrain + 1) ∧
           (getPort t p.val).excluded = (if full = 1 then 0 else (getPort s p.val).excluded) ∧ Apart s t ∧
           ∀ q, q ≠ p.val → getPort t q = getPort s q) ∧
       (port.toNat = p.val → full.toNat ≤ 1 → (∃ q, q < portCount s ∧ q ≠ p.val ∧ q / 4 = p.val / 4 ∧
           ((getPort s q).st = .training ∨ (getPort s q).st = .relock)) →
         ∃ d, Conflicts (.portRetrain r port full) s r 0x0104 0x04 d 0x2D) ∧
       (portCount s ≤ port.toNat ∨ 1 < full.toNat → Serves (.portRetrain r port full) s s r 0x0104 0x03 [])) ∧
     (∀ (lanes : BitVec 4) (asym : BitVec 32) (peer : BitVec 17) (pp : BitVec 6) (ok : Bool) (x : BitVec 4),
       (getPort s p.val).st = .training → x = (getPort s p.val).excluded ||| ~~~lanes →
       (s.fab.perLink = false ∨ (ok = true ∧ s.sec.cred = true) → (getPort s p.val).trains.length ≤ 4 → (getPort s p.val).waiting = false →
         ∃ t, exec (.trainingComplete p lanes asym peer pp ok) s = .next t ∧
         Apart { s with sec := { s.sec with nextKey := t.sec.nextKey } } t ∧
         (x = 0 → (getPort t p.val).st = .upX4 ∧ (getPort t p.val).lanes = 0xF) ∧
         (x ≠ 0 → x &&& 0x3 = 0 → (getPort t p.val).st = .upX2 ∧ (getPort t p.val).lanes = 0x3) ∧
         (x &&& 0x3 ≠ 0 → x &&& 0xC = 0 → (getPort t p.val).st = .upX2 ∧ (getPort t p.val).lanes = 0xC) ∧
         (x &&& 0x3 ≠ 0 → x &&& 0xC ≠ 0 → (getPort t p.val).st = .retired ∧ (getPort t p.val).lanes = 0) ∧
         (getPort t p.val).excluded = x ∧ (getPort t p.val).peer = some (peer, pp) ∧ (getPort t p.val).asym = asym) ∧
       (s.fab.perLink = true → ok = false ∨ s.sec.cred = false →
         ∃ t, exec (.trainingComplete p lanes asym peer pp ok) s = .next t ∧ Apart s t ∧ (getPort t p.val).st = .down ∧
           (getPort t p.val).lanes = 0 ∧ (getPort t p.val).secRefused = true ∧ ∀ q, q ≠ p.val → getPort t q = getPort s q)) ∧
     ((getPort s p.val).st = .training → ∃ t, exec (.trainingTimeout p) s = .next t ∧ (getPort t p.val).st = .down ∧
       (getPort t p.val).lanes = 0 ∧ Apart s t ∧ ∀ q, q ≠ p.val → getPort t q = getPort s q) ∧
     (AtRest s → (getPort s p.val).st ≠ .training → exec (.trainingTimeout p) s = .next s)) ∧
  (∀ (p : Port) (s : State), p.val < portCount s → (getPort s p.val).buf = [] →
     (portUp (getPort s p.val) = true → ∃ t, exec (.relock p false) s = .next t ∧ (getPort t p.val).st = .relock ∧
       (getPort t p.val).relockAt = some s.ticks ∧ (s.time.parent = some p.val → t.time.parent = none) ∧ Apart s t ∧
       ∀ q, q ≠ p.val → getPort t q = getPort s q) ∧
     ((getPort s p.val).st = .relock → cableIn s p.val = true →
       ∃ t, exec (.relock p true) s = .next t ∧ (getPort t p.val).st = (laneMode (getPort s p.val).excluded).1 ∧
         (getPort t p.val).relockAt = none ∧ Apart s t ∧
         (s.fab.lostGroups.getLsbD (p.val / 4) = false → (getPort t p.val).fseq = (getPort s p.val).fseq)) ∧
     ((getPort s p.val).st = .relock → ∃ t, exec (.relockExpiry p) s = .next t ∧
       (getPort t p.val).st = (if cableIn s p.val then .training else .down) ∧ (getPort t p.val).relockAt = none ∧ Apart s t ∧
       ∀ q, q ≠ p.val → getPort t q = getPort s q) ∧
     (∀ bad x : BitVec 4, portUp (getPort s p.val) = true → x = bad &&& (getPort s p.val).lanes → x ≠ 0 →
       ∃ t, exec (.laneEvaluation p bad) s = .next t ∧ Apart s t ∧
         (getPort t p.val).excluded = (getPort s p.val).excluded ||| (x &&& (getPort s p.val).failedOnce) ∧
         (getPort t p.val).dueLanes = (getPort s p.val).dueLanes ||| (x &&& ~~~(getPort s p.val).failedOnce) ∧
         ((laneMode (getPort t p.val).excluded).1 = .retired → (getPort t p.val).st = .retired ∧ (getPort t p.val).lanes = 0) ∧
         ((laneMode (getPort t p.val).excluded).1 ≠ .retired →
           ((∀ q, q ≠ p.val → q / 4 = p.val / 4 → (getPort s q).st ≠ .training) → (getPort t p.val).st = .training) ∧
           ((∃ q, q < portCount s ∧ q ≠ p.val ∧ q / 4 = p.val / 4 ∧ (getPort s q).st = .training) →
             (getPort t p.val).st = (getPort s p.val).st ∧ (getPort t p.val).waiting = true))) ∧
     (AtRest s → exec (.laneEvaluation p 0) s = .next s))

/-- R253 to R255, R276: frames of a port that is up and sends. A good frame in order moves the counter expected next; any good frame frees
what its ACK covers, adds its corrected symbols to FEC_CORR, and asks for the missing frames when it lies ahead of the one expected; the
credits of a frame in order are held. A keyed port whose partner sends under its other slot counts its frames from 0 again. A frame with
more than 16 bad symbols, or one that fails its CHECK, is discarded, counted, and asked for again; the symbols corrected in one that
fails its CHECK are counted, and its time is kept. A replay sends again what is asked for, at most the last 512 frames, and counts it. R275,
R276: with FSEQ at 2^46 a rekey of a keyed port puts a new key into the idle slot, toggles KEYSLOT and restarts FSEQ; one overdue at 2^47, and
more than 16 CHECK failures in a second, send the port to TRAINING; short of that these rows do nothing. Premise: no injection stands, and
the port is not muted. R279, R280, R474: a group that had been usable and has no port up is lost: it is marked, and a Knell of this module's
own goes into its log, counted once; a group that had not been usable, or has a port up, is not. A cable that is pulled takes its group's
ports out of service; one that is plugged in only shows on the pin. -/
def Obligations.LinksCarryFramesAndKeys : Prop :=
  (∀ (p : Port) (b : PortBlock) (s : State), b = getPort s p.val → portUp b = true → b.muted = false → NoInjection s →
     (∀ (fseq : BitVec 64) (ack : BitVec 15) (slot : Bool) (credit : Vector Byte 6) (n : BitVec 16) (next : BitVec 64),
       next = (if b.perLink = true ∧ b.rxSlot ≠ slot then 0 else b.rxNext) →
       (n.toNat ≤ 16 → ∃ t, exec (.frameReceive p fseq ⟨ack, slot, credit⟩ n true) s = .next t ∧
         Apart { s with sec := { s.sec with nextKey := t.sec.nextKey } } t ∧
         (getPort t p.val).rxNext = (if fseq = next then fseq + 1 else next) ∧
         (b.perLink = true → (getPort t p.val).rxSlot = slot) ∧
         (getPort t p.val).buf = b.buf.filter (fun k => !decide ((ack - k.1.setWidth 15).toNat < 2 ^ 14)) ∧
         (getPort t p.val).fecCorr = b.fecCorr + n.setWidth 32 ∧ (getPort t p.val).fecUncorr = b.fecUncorr ∧
         (∀ i, i < 6 → (getPort t p.val).credits.getD i 0 =
           b.credits.getD i 0 + (if fseq = next then (credit.getD i 0).toNat else 0)) ∧
         (next.toNat < fseq.toNat → .replayRequest p.val next :: s.outbox <:+ t.outbox) ∧
         ∀ q, q ≠ p.val → getPort t q = getPort s q) ∧
       (∀ good : Bool, 16 < n.toNat ∨ good = false → ∃ t, exec (.frameReceive p fseq ⟨ack, slot, credit⟩ n good) s = .next t ∧ Apart s t ∧
         (getPort t p.val).rxNext = b.rxNext ∧ (getPort t p.val).buf = b.buf ∧
         (getPort t p.val).fecUncorr = b.fecUncorr + 1 ∧
         (getPort t p.val).fecCorr = (if 16 < n.toNat then b.fecCorr else b.fecCorr + n.setWidth 32) ∧
         (n.toNat ≤ 16 → s.ticks ∈ (getPort t p.val).checkFails) ∧
         .replayRequest p.val b.rxNext :: s.outbox <:+ t.outbox)) ∧
     (∀ (k : BitVec 15) (n : Nat), n = min 512 (b.fseq.setWidth 15 - k).toNat →
       ∃ t, exec (.frameReplay p k) s = .next t ∧ Apart s t ∧ .retransmit p.val k n :: s.outbox <:+ t.outbox ∧
         (getPort t p.val).retry = b.retry + BitVec.ofNat 32 n ∧ (getPort t p.val).fseq = b.fseq) ∧
     (b.perLink = true → 2 ^ 46 ≤ b.fseq.toNat → ∃ t, exec (.rekey p) s = .next t ∧
       Apart { s with sec := { s.sec with nextKey := s.sec.nextKey + 1 } } t ∧
       getPort t p.val = { b with
         txKeys := b.txKeys.setIfInBounds (!b.keyslot).toNat (some s.sec.nextKey), keyslot := !b.keyslot, fseq := 0, fill := 0
         rekeys := b.rekeys + 1 } ∧
       ∀ q, q ≠ p.val → getPort t q = getPort s q) ∧
     (b.perLink = true → 2 ^ 47 ≤ b.fseq.toNat → b.buf = [] →
       ∃ t, exec (.rekeyOverdue p) s = .next t ∧ Apart s t ∧ (getPort t p.val).st = .training) ∧
     (b.perLink = true → 16 < (b.checkFails.filter fun v => decide (s.ticks < v + 4000000000)).length → b.buf = [] →
       ∃ t, exec (.checkFailRetrain p) s = .next t ∧ Apart s t ∧ (getPort t p.val).st = .training ∧ (getPort t p.val).checkFails = []) ∧
     (AtRest s →
       (b.perLink = false ∨ b.fseq.toNat < 2 ^ 46 → exec (.rekey p) s = .next s) ∧
       (b.perLink = false ∨ b.fseq.toNat < 2 ^ 47 → exec (.rekeyOverdue p) s = .next s) ∧
       (b.perLink = false ∨ (b.checkFails.filter fun v => decide (s.ticks < v + 4000000000)).length ≤ 16 →
         exec (.checkFailRetrain p) s = .next s))) ∧
  (∀ (g : Fin 9) (s : State),
     (s.fab.wasUp.getLsbD g.val = true → (∀ q, q / 4 = g.val → portUp (getPort s q) = false) → belfryUp s = true →
       s.fab.knellMem.contains (s.fab.addr, s.fab.knellSeq + 1) = false →
       ∃ t, exec (.groupLost g) s = .next t ∧ Apart s t ∧ t.fab.lostGroups.getLsbD g.val = true ∧
         t.fab.wasUp.getLsbD g.val = false ∧ t.fab.knellSeq = s.fab.knellSeq + 1 ∧ t.fab.knells = s.fab.knells + 1 ∧
         (∀ k, k < 9 → k ≠ g.val → t.fab.lostGroups.getLsbD k = s.fab.lostGroups.getLsbD k) ∧
         ∃ e, t.diag.knellLog = (e :: s.diag.knellLog).take 2048 ∧ e.kind = 0 ∧ e.reporter = s.fab.addr ∧
           e.group.toNat = g.val ∧ e.kseq = s.fab.knellSeq + 1) ∧
     (s.fab.wasUp.getLsbD g.val = false ∨ (∃ q, q < portCount s ∧ q / 4 = g.val ∧ portUp (getPort s q) = true) → AtRest s →
       exec (.groupLost g) s = .next s) ∧
     (s.hub.actReq = none → ∃ t, exec (.cblPrsnt g true) s = .next t ∧ Apart s t ∧ t.pins = { s.pins with cbl := s.pins.cbl.set g true } ∧
       ∀ q, q < 36 → (getPort t q).st = (if q / 4 = g.val ∧ q < portCount s then
         (if portUp (getPort s q) then .relock else if (getPort s q).st = .training then .down else (getPort s q).st)
         else (getPort s q).st)) ∧
     Leads (.cblPrsnt g false) s { s with pins := { s.pins with cbl := s.pins.cbl.set g false } })

/-- R262, R277, R315: the checks of a request from the fabric, in their order, each with the STATUS it answers and the drop it counts. Of
a WRITE, a READ_REQ and a SIGNAL: sealed with a tag that fails (0x06); and, unsealed, for a context that is FENCING or FENCED (0x09), for
one that is CLOSED or of another generation (0x03), under a placement that is not taken (0x08). Of an unsealed WRITE and READ_REQ that has
passed these: an address that is not of a block (0x0A), and of its first block an unmapped page (0x01), or one that is not this
context's, is not local or, for a WRITE, is not writable (0x02). A request refused leaves memory, the cores and, but for the count of
placements, the contexts as they were. Premise: the answer can go back by a port that the context may use. -/
def Obligations.RequestsMeetTheirChecks : Prop :=
  ∀ (p : Port) (k : Packet) (ok wr : Bool) (ty : BitVec 4) (x : Context) (c : Instr) (s : State),
    c = .write p k ok ∧ ty = 1 ∧ wr = true ∨ c = .readReq p k ok ∧ ty = 2 ∧ wr = false ∨ c = .signalPacket p k ok ∧ ty = 5 →
    Arrives ty p k s → ReachesBy s (needsLink s k.dctx.toNat) k.src → NoLockout s → x = getCtx s k.dctx.toNat →
    (k.e2e = true → ok = false → ∃ t, exec c s = .next t ∧ Replies s t k 0x06 ∧ t.fab.dropAuth = s.fab.dropAuth + 1 ∧ Apart s t) ∧
    (k.e2e = false →
      (x.st = .fencing ∨ x.st = .fenced → ∃ t, exec c s = .next t ∧ Replies s t k 0x09 ∧
        t.fab.dropStale = s.fab.dropStale + 1 ∧ Apart s t) ∧
      (x.st = .closed ∨ x.st = .opened ∧ k.dcgen ≠ x.cgen → ∃ t, exec c s = .next t ∧ Replies s t k 0x03 ∧
        t.fab.dropStale = s.fab.dropStale + 1 ∧ Apart s t) ∧
      (x.st = .opened → k.dcgen = x.cgen → x.led.accept.getLsbD k.pgen.toNat = false → ∃ t, exec c s = .next t ∧
        Replies s t k 0x08 ∧ t.mem = s.mem ∧ t.slots = s.slots ∧ (∀ c, c ≠ k.dctx.toNat → getCtx t c = getCtx s c) ∧
        getCtx t k.dctx.toNat = { x with led := { x.led with pgenDrop := x.led.pgenDrop + 1 } }) ∧
      (Admitted k s → ty ≠ 5 →
        (k.addr.toNat % 256 ≠ 0 → ∃ t, exec c s = .next t ∧ Replies s t k 0x0A ∧ t.fab.dropHdr = s.fab.dropHdr + 1 ∧ Apart s t) ∧
        (k.addr.toNat % 256 = 0 →
          (translate s k.dctx.toNat k.addr = .unmapped → ∃ t, exec c s = .next t ∧ Replies s t k 0x01 ∧ Apart s t) ∧
          ((∀ a b d e w, translate s k.dctx.toNat k.addr = .localPage a b d e w → wr = true ∧ w = false) →
            translate s k.dctx.toNat k.addr ≠ .unmapped → ∃ t, exec c s = .next t ∧ Replies s t k 0x02 ∧ Apart s t))))

/-- R262, R207, R219: a WRITE of one block to a local page that is writable, unsealed, with its tokens there. A good block is stored where
the translation leads, is read back as it came, and the WRITE returns OK; every byte outside it stays. A block that fails its CRC is not
stored and returns 0x05. R262, R205: a READ_REQ of one block of a local page of a partition that is not confidential, with its tokens
there, is answered by a READ_RESP with the block as memory holds it, its stored CRC with it; memory's data stay. R219: a WRITE or a
READ_REQ without its tokens waits at its die behind the others; it changes no data, and nothing is sent. Premises: the answer can go back by a port that the
context may use; for the WRITE the block's slot is not the one that a migration copies next (R212); for the READ_REQ no injection
stands. -/
def Obligations.WritesAndReadsReachMemory : Prop :=
  (∀ (p : Port) (k : Packet) (b : Block) (ok : Bool) (s : State) (part pg off byte pos ch j : Nat) (e : Bool),
     Arrives 1 p k s → Admitted k s → ReachesBy s (needsLink s k.dctx.toNat) k.src → NoLockout s → HasTokens s p.val k.cls.toNat 1 →
     memoryWf s.mem.cells = true → k.blocks = [b] → k.addr.toNat % 256 = 0 →
     translate s k.dctx.toNat k.addr = .localPage part pg off e true → placeByte s part pg off = (ch, byte) →
     (∀ g ∈ s.mem.migs, g.chan = ch → byte / 4096 ≠ (getCtrl s g.source).migPtr.toNat) →
     pos = servePos s ch (byte / 4096) true → j = byte / 256 →
     (blockOk b = true → ∃ t, exec (.write p k ok) s = .next t ∧ Replies s t k 0x00 ∧
       (∀ junk, (readBlockAt t.mem pos j (ctxKey s k.dctx.toNat e) junk).block = b) ∧
       memRead t.mem.cells (cellAddr pos (j * 256)) 256 = b.data ∧ memoryWf t.mem.cells = true ∧
       (∀ a, a < cellAddr pos (j * 256) ∨ cellAddr pos (j * 256) + 256 ≤ a → memGet t.mem.cells a = memGet s.mem.cells a) ∧
       t.ctxs = s.ctxs ∧ t.slots = s.slots ∧ t.mem.pmap = s.mem.pmap) ∧
     (blockOk b = false → ∃ t, exec (.write p k ok) s = .next t ∧ Replies s t k 0x05 ∧ t.mem.cells = s.mem.cells ∧
       t.mem.bad = s.mem.bad ∧ t.ctxs = s.ctxs ∧ t.slots = s.slots)) ∧
  (∀ (p : Port) (k : Packet) (ok : Bool) (s : State) (part pg off byte pos ch : Nat) (e wr : Bool),
     Arrives 2 p k s → Admitted k s → Reaches s k.src → NoLockout s → NoInjection s → k.nblk = 1 → HasTokens s p.val k.cls.toNat 1 →
     k.addr.toNat % 256 = 0 → translate s k.dctx.toNat k.addr = .localPage part pg off e wr →
     isConf s (getCtx s k.dctx.toNat).part = false → placeByte s part pg off = (ch, byte) → pos = servePos s ch (byte / 4096) false →
     ∃ t q c d, exec (.readReq p k ok) s = .next t ∧ Sent s t q c ∧ c.ptype = 3 ∧ c.dst = k.src ∧
       c.reqId = k.reqId ∧ c.dctx = k.sctx ∧ d = memRead s.mem.cells (cellAddr pos (byte / 256 * 256)) 256 ∧
       c.blocks = [Block.mk d (crc32c d ^^^ mapGet s.mem.bad (blockKey pos (byte / 256)) 0)] ∧
       t.mem.cells = s.mem.cells ∧ t.mem.pmap = s.mem.pmap ∧ t.ctxs = s.ctxs ∧ t.slots = s.slots) ∧
  (∀ (p : Port) (k : Packet) (ok wr : Bool) (c : Instr) (s : State) (part pg off : Nat) (e w : Bool),
     c = .write p k ok ∧ Arrives 1 p k s ∧ wr = true ∨ c = .readReq p k ok ∧ Arrives 2 p k s ∧ wr = false → Admitted k s → NoLockout s →
     k.nblk = 1 → k.addr.toNat % 256 = 0 → translate s k.dctx.toNat k.addr = .localPage part pg off e w → (wr = true → w = true) →
     ¬ HasTokens s p.val k.cls.toNat 1 →
     ∃ t, exec c s = .next t ∧ t.fab.held = s.fab.held ++ [{ die := p.val % 4, k := k, write := wr }] ∧ t.mem.cells = s.mem.cells ∧
       (∀ q, (getPort t q).frames = (getPort s q).frames) ∧ t.ctxs = s.ctxs ∧ t.slots = s.slots)

/-- R176, R177, R262: an unsealed SIGNAL for a core that serves the context adds 1 to the semaphore it names, which stays at its largest
value, and returns OK; no other semaphore, no stream and no stage byte of the core moves, and no memory and no context. For any other
core it returns 0x02 and changes no core. Premises: no stream of the core waits in a descriptor; the answer can go back by a port that the
context may use. -/
def Obligations.SignalsCount : Prop :=
  ∀ (p : Port) (k : Packet) (ok : Bool) (s : State), Arrives 5 p k s → Admitted k s →
    ReachesBy s (needsLink s k.dctx.toNat) k.src → NoneBlocked s k.core.toNat →
    (inService s k.core.toNat = true → (getC s k.core.toNat).ctx = some k.dctx.toNat →
      ∃ t, exec (.signalPacket p k ok) s = .next t ∧ Replies s t k 0x00 ∧ t.mem = s.mem ∧ t.ctxs = s.ctxs ∧
        semGet (getC t k.core.toNat) k.psig.toNat =
          (if semGet (getC s k.core.toNat) k.psig.toNat = 0xFFFFFFFF then 0xFFFFFFFF
           else semGet (getC s k.core.toNat) k.psig.toNat + 1) ∧
        (∀ i, i ≠ k.psig.toNat → semGet (getC t k.core.toNat) i = semGet (getC s k.core.toNat) i) ∧
        (getC t k.core.toNat).streams = (getC s k.core.toNat).streams ∧ (getC t k.core.toNat).stage = (getC s k.core.toNat).stage) ∧
    (inService s k.core.toNat = false ∨ (getC s k.core.toNat).ctx ≠ some k.dctx.toNat →
      ∃ t, exec (.signalPacket p k ok) s = .next t ∧ Replies s t k 0x02 ∧ Apart s t)

/-- R263, R264, R188: what a response does. It ends the request of its number; to none outstanding it counts as late, and a timeout of none
changes nothing. Of a COPY that waits for more answers than this one: OK for a WRITE counts one answer less, and frees the request of the
COPY whose last WRITE it was; any other status, and 200 us without an answer, fail the COPY with cause 0x0B and halt its stream; a good
block of a peer is kept for its request, other reads of which are outstanding. None of these moves memory or a context. R259, R260,
R265 to R268: an unflooded packet in transit leaves by its route with one hop less, otherwise as it came, but for the class that a
dateline gives it; with no hop left, with a reserved type and with no route it is dropped and counted, and a request without a route
returns 0x04. One that makes no progress is dropped and counted by its die. A LINK packet ends here, and one that is flooded is dropped
and counted. What comes by a port leaves its buffer, which is owed to the partner as credits (R254). R280 to R282: a Knell or a LINKUP
heard again changes nothing but the buffer. Heard for the first time, while the Belfry serves, it is remembered, goes on by every other
group that is up with one hop less, and stands first in the log; a Knell is counted, and when another reporter's Knell has named the same
module within 1 ms the route to it becomes 0x000F, else the routes stay, as they do for a LINKUP. -/
def Obligations.PacketsEndOrMoveOn : Prop :=
  (∀ (p : Port) (k : Packet) (ok : Bool) (s u : State), NoLockout s → (∀ q ∈ s.fab.reqs, q.reqId ≠ k.reqId) →
     (u = bufferFreed s p.val 4 k → Arrives 4 p k s →
        Leads (.compl p k) s { u with fab := { u.fab with dropLate := u.fab.dropLate + 1 } }) ∧
     (u = bufferFreed s p.val 3 k → Arrives 3 p k s → k.e2e = false →
        Leads (.readResp p k ok) s { u with fab := { u.fab with dropLate := u.fab.dropLate + 1 } }) ∧
     (AtRest s → exec (.requestTimeout k.reqId) s = .next s)) ∧
  (∀ (p : Port) (k : Packet) (ok : Bool) (r : OutReq) (n id req first : Nat) (again : Bool) (j j' : CopyJob) (s u : State), NoLockout s →
     r.gen = (getCtx s r.ctx).cgen → copyById s n id = some j → 2 ≤ j.acks →
     u = { s with fab := { s.fab with reqs := s.fab.reqs.erase r } } →
     j' = { j with
       acks := j.acks - 1
       wr := if mapGet j.wr req 0 ≤ 1 then mapErase j.wr req else mapSet j.wr req (mapGet j.wr req 0 - 1)
       out := if mapGet j.wr req 0 ≤ 1 then j.out.erase req else j.out } →
     (∀ c, c = .compl p k ∧ Arrives 4 p k s ∧ k.dcgen = (getCtx s k.dctx.toNat).cgen ∧ k.addr.toNat % 256 ≠ 0 ∧
           s.fab.reqs.find? (fun q => q.reqId == k.reqId && q.ctx == k.dctx.toNat && q.gen == k.dcgen) = some r ∨
         c = .requestTimeout k.reqId ∧ s.fab.reqs.find? (fun q => q.reqId == k.reqId) = some r →
       r.owner = .copyWrite n id req → j.failed = none → (getStream (getC s n) j.iss.slot).st = .running →
       ∃ t, exec c s = .next t ∧ t.fab.reqs = u.fab.reqs ∧ t.mem = s.mem ∧ t.ctxs = s.ctxs ∧
         (getStream (getC t n) j.iss.slot).st = .halted ∧
         copyById t n id = some { j' with failed := some 0x0B, total := j.next, miss := none }) ∧
     (k.dcgen = (getCtx s k.dctx.toNat).cgen →
       s.fab.reqs.find? (fun q => q.reqId == k.reqId && q.ctx == k.dctx.toNat && q.gen == k.dcgen) = some r →
       (r.owner = .copyWrite n id req → Arrives 4 p k s → k.addr.toNat % 256 = 0 →
         Leads (.compl p k) s (setCopy (bufferFreed u p.val 4 k) n j')) ∧
       (∀ b, r.owner = .copyRead n id req first again → Arrives 3 p k s → k.e2e = false → k.blocks = [b] → blockOk b = true →
         readsLeft u n id req = true →
         ∃ t, exec (.readResp p k ok) s = .next t ∧ t.fab.reqs = u.fab.reqs ∧ t.mem = s.mem ∧ t.ctxs = s.ctxs ∧
           copyById t n id = some { j with acks := j.acks - 1, got := mapSet j.got (16 * req + first) b }))) ∧
  (∀ (p : Port) (d : Die) (k : Packet) (s u : State), packetWf k = true → portUp (getPort s p.val) = true → u = oweCredits s p.val k →
     (1 ≤ k.ptype.toNat → k.ptype.toNat ≤ 7 → k.flood = false →
       (k.hopsLeft ≠ 0 → forUs s k = false → Reaches s k.dst →
         ∃ t q c, exec (.packetForward p k) s = .next t ∧ Apart s t ∧ Sent s t q c ∧
           q / 4 = (routeOf s k.dst).toNat % 16 ∧ portUp (getPort s q) = true ∧ c.ptype = k.ptype ∧ c.hopsLeft = k.hopsLeft - 1 ∧
           c.dst = k.dst ∧ c.src = k.src ∧ c.reqId = k.reqId ∧ c.blocks = k.blocks ∧ c.detour = k.detour ∧
           c.dclass = (k.dclass || s.fab.dateline.getLsbD ((routeOf s k.dst).toNat % 16))) ∧
       (k.hopsLeft = 0 → Leads (.packetForward p k) s { u with fab := { u.fab with dropHops := u.fab.dropHops + 1 } }) ∧
       (k.hopsLeft ≠ 0 → forUs s k = false → routeOf s k.dst = 0x00FF →
         (isRequest k.ptype = false →
           Leads (.packetForward p k) s { u with fab := { u.fab with dropNoroute := u.fab.dropNoroute + 1 } }) ∧
         (isRequest k.ptype = true → ReachesBy s (needsLink s k.dctx.toNat) k.src →
           ∃ t, exec (.packetForward p k) s = .next t ∧ Apart s t ∧ Replies s t k 0x04 ∧
             t.fab.dropNoroute = s.fab.dropNoroute + 1))) ∧
     (k.ptype = 0 ∨ 11 ≤ k.ptype.toNat → Leads (.packetForward p k) s { u with fab := { u.fab with dropHdr := u.fab.dropHdr + 1 } }) ∧
     (s.hub.diesDown.getLsbD d.val = false →
       Leads (.packetAgeDrop d k) s { s with fab := { s.fab with dropAge := s.fab.dropAge + 1 } }) ∧
     (k.ptype = 10 → k.flood = true → Leads (.link p k) s { u with fab := { u.fab with dropHdr := u.fab.dropHdr + 1 } }) ∧
     (k.ptype = 10 → k.flood = false → Leads (.link p k) s u)) ∧
  (∀ (p : Port) (k : Packet) (s : State) (c : Instr) (lost : BitVec 17), packetWf k = true → portUp (getPort s p.val) = true →
     k.flood = true → k.hopsLeft ≠ 0 → lost = k.addr.extractLsb' 0 17 → c = .knell p k ∧ k.ptype = 8 ∨ c = .linkup p k ∧ k.ptype = 9 →
     (s.fab.knellMem.contains (k.src, k.addr.extractLsb' 21 16) = true → Leads c s (oweCredits s p.val k)) ∧
     (s.fab.knellMem.contains (k.src, k.addr.extractLsb' 21 16) = false → belfryUp s = true → (∀ q, (getPort s q).muted = false) →
       ∃ t e, exec c s = .next t ∧ Apart s t ∧ t.fab.knellMem = ((k.src, k.addr.extractLsb' 21 16) :: s.fab.knellMem).take 1024 ∧
         t.diag.knellLog = (e :: s.diag.knellLog).take 2048 ∧ e.reporter = k.src ∧ e.lost = lost ∧
         e.port.toNat = p.val ∧ e.kind = (if k.ptype = 8 then 0 else 1) ∧
         t.fab.knells = (if k.ptype = 8 then s.fab.knells + 1 else s.fab.knells) ∧
         (∀ g, g < groupCount s → g ≠ p.val / 4 → groupUp s g false ≠ [] →
           ∃ q z, Sent s t q z ∧ q / 4 = g ∧ z.ptype = k.ptype ∧ z.addr = k.addr ∧ z.src = k.src ∧ z.hopsLeft = k.hopsLeft - 1) ∧
         (k.ptype = 8 → (∃ q ∈ s.fab.recent, q.1 = lost ∧ q.2.1 ≠ k.src ∧ ticksSince s.time.now q.2.2 ≤ 4000000) →
           routeOf t lost = 0x000F ∧ ∀ a, a ≠ lost → routeOf t a = routeOf s a) ∧
         (k.ptype = 8 → (∀ q ∈ s.fab.recent, q.1 = lost → q.2.1 ≠ k.src → 4000000 < ticksSince s.time.now q.2.2) →
           t.fab.routes = s.fab.routes) ∧
         (k.ptype = 9 → t.fab.routes = s.fab.routes)))

/-- R269, R354: COLL_START for an open context whose partition is not confidential. A program that validates is queued last on its engine,
behind the others, its launch time armed, held while the context is quiesced (R330), and changes no data; on an engine that holds all it can
it is NO_RESOURCE. One that does not validate, or an engine that does not exist, is BAD_ARG. For a context that is CLOSED the command is
STATE_CONFLICT on the context, for one that is FENCING or FENCED it is FENCED. R270, R273, R277: what reaches a program. A COLL_DATA packet
sealed with a tag that fails is dropped as not authentic; an unsealed one is matched by source and tag to a channel of a running program
and kept under its chunk number. COLL_CTRL of a running program, outside a Downbeat, gives the next bit or the next value of its channel, or
credits, of which a channel holds at most 16. A packet that matches no program is dropped as stale. -/
def Obligations.CollectivesQueueAndReceive : Prop :=
  (∀ (r : Req) (e : BitVec 8) (va tl : BitVec 64) (s : State), Ready 0x0105 setWork r s → NoLockout s → r.ctx.toNat < 64 →
     ((getCtx s r.ctx.toNat).st = .closed → Conflicts (.collStart r e va tl) s r 0x0105 0x05 0 0x2) ∧
     ((getCtx s r.ctx.toNat).st = .fencing ∨ (getCtx s r.ctx.toNat).st = .fenced → Refuses (.collStart r e va tl) s r 0x0105 0x08 0) ∧
     ((getCtx s r.ctx.toNat).st = .opened → isConf s (getCtx s r.ctx.toNat).part = false →
       (∀ u p, e.toNat < 4 → loadProgram s r.ctx.toNat va (tl.setWidth 40) false = some (u, p) →
         (engineFull s e.toNat = false → ∃ t, exec (.collStart r e va tl) s = .next t ∧ Answers s t r 0x0105 0x00 [] ∧
           (getEngine t e.toNat).queued = (getEngine s e.toNat).queued ++
             [if ctxHeld (getCtx s r.ctx.toNat) then { p with launch := { p.launch with held := true, seen := none } } else p] ∧
           (getEngine t e.toNat).running = (getEngine s e.toNat).running ∧ p.ctx = r.ctx.toNat ∧
           p.gen = (getCtx s r.ctx.toNat).cgen ∧ p.launch = armTime s (tl.setWidth 40) ∧ t.mem.cells = s.mem.cells ∧ t.ctxs = s.ctxs ∧
           ∀ k, k ≠ e.toNat → getEngine t k = getEngine s k) ∧
         (engineFull s e.toNat = true → ∃ t, exec (.collStart r e va tl) s = .next t ∧ Answers s t r 0x0105 0x05 [] ∧
           t.fab = s.fab ∧ t.mem.cells = s.mem.cells ∧ t.ctxs = s.ctxs)) ∧
       (4 ≤ e.toNat ∨ loadProgram s r.ctx.toNat va (tl.setWidth 40) false = none →
         Refuses (.collStart r e va tl) s r 0x0105 0x03 0))) ∧
  (∀ (p : Port) (k : Packet) (ok : Bool) (s u : State), Arrives 6 p k s → u = bufferFreed s p.val 6 k →
     (k.e2e = true → ok = false → Leads (.collData p k ok) s { u with fab := { u.fab with dropAuth := u.fab.dropAuth + 1 } }) ∧
     (k.e2e = false → findChannel s k.src (k.addr.extractLsb' 0 16) false = none →
       Leads (.collData p k ok) s { u with fab := { u.fab with dropStale := u.fab.dropStale + 1 } }) ∧
     (∀ e n c q, k.e2e = false → findChannel s k.src (k.addr.extractLsb' 0 16) false = some (e, n, c) → runningAt s e n = some q →
       ∃ t, exec (.collData p k ok) s = .next t ∧ Apart s t ∧
         runningAt t e n = some { q with rx := mapSet q.rx (chunkKey c (k.addr.extractLsb' 16 32).toNat) k.blocks })) ∧
  (∀ (p : Port) (k : Packet) (tag : BitVec 16) (b : CollCtrl) (s u : State), Arrives 7 p (ctrlPacket k tag b) s → NoLockout s →
     u = bufferFreed s p.val 7 (ctrlPacket k tag b) →
     (findChannel s k.src tag false = none → findChannel s k.src tag true = none →
       Leads (.collCtrl p k tag b) s { u with fab := { u.fab with dropStale := u.fab.dropStale + 1 } }) ∧
     (∀ e n c q, findChannel s k.src tag false = some (e, n, c) → runningAt s e n = some q →
       isDownbeat q.ctx (getCtx s q.ctx).led q = false →
       ∃ t q', exec (.collCtrl p k tag b) s = .next t ∧ Apart s t ∧ runningAt t e n = some q' ∧ q'.idx = q.idx ∧ q'.rx = q.rx ∧
         (∀ v, b = .andBit v → mapGet? q'.ands (chunkKey c (mapGet q.andsIn c 0)) = some v ∧
           mapGet q'.andsIn c 0 = mapGet q.andsIn c 0 + 1 ∧ q'.values = q.values ∧ q'.credits = q.credits) ∧
         (∀ v tc, b = .bcast v tc → mapGet? q'.values (chunkKey c (mapGet q.valuesIn c 0)) = some (v, tc) ∧
           mapGet q'.valuesIn c 0 = mapGet q.valuesIn c 0 + 1 ∧ q'.ands = q.ands ∧ q'.credits = q.credits) ∧
         (∀ m, b = .credit m → mapGet q'.credits c 0 = min 16 (mapGet q.credits c 0 + m.toNat) ∧ q'.ands = q.ands ∧
           q'.values = q.values)))

/-- R271, R272: the last chunk of a data instruction, for a context whose partition is not confidential, with credit where it sends, its data
there where it receives, and the engine's tokens (R219). SEND sends the local elements in the wire format; RECV and RECV_SEND store what
came, RECV_REDUCE stores the FP32 sums of what came and what is local, REDUCE_SEND sends them, RECV_SEND sends what came. What is consumed
gives a credit back, what is sent takes one, and the program stands at its next instruction; of memory only what is stored moves. Without
its credit or its data an instruction waits and changes nothing. A chunk that came with a block that fails its CRC fails the program with
reason 2. Premise for what is sent: the channel's peer can be reached. -/
def Obligations.DataInstructionsMoveChunks : Prop :=
  ∀ (e : Die) (n : Fin 4) (p : Program) (i : CInstr) (s s1 : State) (w : Bytes) (len got sent : Nat) (bs : List Block) (q : Program),
    NoLockout s → isConf s (getCtx s p.ctx).part = false →
    (i.count ≤ p.pos + perChunk i → len = i.count - p.pos → engineTokens s e.val p i len (chunkPlaces i) = some s1 →
      got = mapGet p.got i.chIn 0 → sent = mapGet p.sent i.chOut 0 →
      (RunsAt s e.val n.val cSend p i → 1 ≤ mapGet p.credits i.chOut 0 → Reaches s (chanAddr p i.chOut) →
        ∀ u b, localChunk s1 p i len = some (u, b) →
          ∃ t o k d, exec (.send e n) s = .next t ∧ t.mem.cells = s.mem.cells ∧ t.ctxs = s.ctxs ∧ t.slots = s.slots ∧
            runningAt t e.val n.val = some { nextInstr p with
              sent := mapSet p.sent i.chOut (sent + 1), credits := mapSet p.credits i.chOut (mapGet p.credits i.chOut 0 - 1) } ∧
            d = elemBytes i.wfmt ((elemsOf i.lfmt b).map (moveElem i.lfmt i.wfmt)) ∧ Sent s t o k ∧ k.ptype = 6 ∧
            k.dst = chanAddr p i.chOut ∧ k.addr = collAddr p i.chOut sent ∧ k.blocks = (chunksOf 256 8 d).map fun x => mkBlock (fit 256 x)) ∧
      (mapGet? p.rx (chunkKey i.chIn got) = some bs → bs.all blockOk = true → w = (bs.flatMap (·.data)).take (len * collBytes i.wfmt) →
        q = { nextInstr p with got := mapSet p.got i.chIn (got + 1), rx := mapErase p.rx (chunkKey i.chIn got) } →
        (RunsAt s e.val n.val cRecv p i → ∀ u,
            putVa s1 p.ctx (i.laddr + p.pos * collBytes i.lfmt) (elemBytes i.lfmt ((elemsOf i.wfmt w).map (moveElem i.wfmt i.lfmt))) false = some u →
          ∃ t, exec (.recv e n) s = .next t ∧ t.mem = u.mem ∧ t.ctxs = s.ctxs ∧ t.slots = s.slots ∧
            SendsCtrl s t p i.chIn (.credit 1) ∧ runningAt t e.val n.val = some q) ∧
        (RunsAt s e.val n.val cRecvReduce p i → ∀ u v b, localChunk s1 p i len = some (u, b) →
            putVa u p.ctx (i.laddr2 + p.pos * collBytes i.lfmt) (elemBytes i.lfmt ((reduceElems i w b).map (narrow i.lfmt))) false = some v →
          ∃ t, exec (.recvReduce e n) s = .next t ∧ t.mem = v.mem ∧ t.ctxs = s.ctxs ∧ t.slots = s.slots ∧
            SendsCtrl s t p i.chIn (.credit 1) ∧ runningAt t e.val n.val = some q) ∧
        (1 ≤ mapGet p.credits i.chOut 0 → Reaches s (chanAddr p i.chOut) →
          (RunsAt s e.val n.val cReduceSend p i → ∀ u b, localChunk s1 p i len = some (u, b) →
            ∃ t o k, exec (.reduceSend e n) s = .next t ∧ t.mem.cells = s.mem.cells ∧ t.ctxs = s.ctxs ∧ t.slots = s.slots ∧
              SendsCtrl s t p i.chIn (.credit 1) ∧ Sent s t o k ∧ k.ptype = 6 ∧ k.dst = chanAddr p i.chOut ∧
              k.addr = collAddr p i.chOut sent ∧
              k.blocks = (chunksOf 256 8 (elemBytes i.wfmt ((reduceElems i w b).map (narrow i.wfmt)))).map (fun x => mkBlock (fit 256 x)) ∧
              runningAt t e.val n.val = some { q with
                sent := mapSet p.sent i.chOut (sent + 1), credits := mapSet p.credits i.chOut (mapGet p.credits i.chOut 0 - 1) }) ∧
          (RunsAt s e.val n.val cRecvSend p i → ∀ u,
              putVa s1 p.ctx (i.laddr + p.pos * collBytes i.lfmt) (elemBytes i.lfmt ((elemsOf i.wfmt w).map (moveElem i.wfmt i.lfmt))) false = some u →
            ∃ t o k, exec (.recvSend e n) s = .next t ∧ t.mem = u.mem ∧ t.ctxs = s.ctxs ∧ t.slots = s.slots ∧
              SendsCtrl s t p i.chIn (.credit 1) ∧ Sent s t o k ∧ k.ptype = 6 ∧ k.dst = chanAddr p i.chOut ∧
              k.addr = collAddr p i.chOut sent ∧ k.blocks = (chunksOf 256 8 w).map (fun x => mkBlock (fit 256 x)) ∧
              runningAt t e.val n.val = some { q with
                sent := mapSet p.sent i.chOut (sent + 1), credits := mapSet p.credits i.chOut (mapGet p.credits i.chOut 0 - 1) })))) ∧
    (∀ c op, c = .send e n ∧ op = cSend ∨ c = .recv e n ∧ op = cRecv ∨ c = .recvReduce e n ∧ op = cRecvReduce ∨
        c = .reduceSend e n ∧ op = cReduceSend ∨ c = .recvSend e n ∧ op = cRecvSend → RunsAt s e.val n.val op p i →
      (isSend op = true ∧ mapGet p.credits i.chOut 0 = 0 ∨
          isRecv op = true ∧ mapGet? p.rx (chunkKey i.chIn (mapGet p.got i.chIn 0)) = none → Leads c s s) ∧
      (isRecv op = true → mapGet? p.rx (chunkKey i.chIn (mapGet p.got i.chIn 0)) = some bs → bs.all blockOk = false →
        (isSend op = true → 1 ≤ mapGet p.credits i.chOut 0) → ∃ t, exec c s = .next t ∧ ProgramFails s t e.val n.val p 2))

/-- R273, R297, R299: AND has a value when some bit of it is 0, its own or one that has come, and when all are there; the own bit of a step
that has given it is 1 as long as it is not vetoed and not aborted. AND ends with its value: a root keeps it with the time of its BCAST, any
other sends it on. Outside a Downbeat the deadline of an AND, reached while comparisons are active, ends it with what is missing counted as
0. Outside a Downbeat BCAST ends with the root's value, or with the value that came: it is recorded and passed on; when none has come by
TIME the result is TIMEOUT. R271, R51: WAIT_TIME goes on when its time has come, counted late when it had passed before, and waits before
it or while comparisons are suspended. R271, R274: SIGNAL of a core that serves the context adds 1 to the semaphore, up to its largest
value, any other fails the program with reason 3; END takes it off the engine. A receive whose chunk has not come when it times out fails
the program with reason 1; with its chunk there, nothing happens. An AND or a BCAST that has no value yet, and a deadline not reached,
change nothing. Premise for SIGNAL: no stream of the core waits in a descriptor. -/
def Obligations.ControlInstructionsResolve : Prop :=
  (∀ (e : Die) (n : Fin 4) (p : Program) (i : CInstr) (s : State) (l : Ledger), l = (getCtx s p.ctx).led →
     (RunsAt s e.val n.val cAnd p i →
       (∀ c v, c = .and e n ∧ andValue s p i = some v ∨ c = .andDeadline e n ∧ v = (andValue s p i).getD false ∧
             isDownbeat p.ctx l p = false ∧ reached s (timeOf p i) = true →
         ∃ t, exec c s = .next t ∧ Apart s t ∧
           (i.root = true → runningAt t e.val n.val = some { nextInstr p with
             rootAnd := some v, rootTime := s.time.now.setWidth 40 + p.margin.setWidth 40 }) ∧
           (i.root = false → runningAt t e.val n.val = some (nextInstr p) ∧ SendsCtrl s t p i.chOut (.andBit v))) ∧
       (andValue s p i = none → Leads (.and e n) s s) ∧ (reached s (timeOf p i) = false → Leads (.andDeadline e n) s s)) ∧
     (l.veto = true ∨ (∃ c ∈ i.chSet, mapGet? p.ands (chunkKey c (andsBefore p c)) = some false) → andValue s p i = some false) ∧
     (l.veto = false → l.st ≠ .aborted → l.ready = true → (∀ c ∈ i.chSet, mapGet? p.ands (chunkKey c (andsBefore p c)) = some true) →
       andValue s p i = some true) ∧
     (RunsAt s e.val n.val cBcast p i → isDownbeat p.ctx l p = false →
       (∀ v tc, i.root = true ∧ p.rootAnd = some v ∧ tc = p.rootTime ∨ i.root = false ∧ valueIn p i = some (v, tc) →
         ∃ t, exec (.bcast e n) s = .next t ∧ Apart s t ∧ runningAt t e.val n.val = some (nextInstr p) ∧
           (getEngine t e.val).result = resultWord v tc ∧ ∀ c ∈ i.chSet, SendsCtrl s t p c (.bcast v tc)) ∧
       (i.root = false → valueIn p i = none →
         Leads (.bcast e n) s s ∧ (reached s (timeOf p i) = false → Leads (.bcastTimeout e n) s s) ∧
         (reached s (timeOf p i) = true →
           ∃ t, exec (.bcastTimeout e n) s = .next t ∧ Apart s t ∧ runningAt t e.val n.val = some (nextInstr p) ∧
             (getEngine t e.val).result.getLsbD 62 = true ∧ (getEngine t e.val).result.getLsbD 63 = false)))) ∧
  (∀ (e : Die) (n : Fin 4) (p : Program) (i : CInstr) (s : State) (d : Nat),
     (RunsAt s e.val n.val cWaitTime p i → p.waitArm = none → d = (timeOf p i - s.time.now.setWidth 40).toNat →
       ∃ t, exec (.waitTime e n) s = .next t ∧ Apart s t ∧
         (comparing s = false → runningAt t e.val n.val = some { p with waitArm := some { t := timeOf p i, seen := none, held := false } }) ∧
         (comparing s = true → 0 < d → d < 2 ^ 39 →
           runningAt t e.val n.val = some { p with waitArm := some { t := timeOf p i, seen := some .wait, held := false } }) ∧
         (comparing s = true → d = 0 ∨ 2 ^ 39 ≤ d → runningAt t e.val n.val = some (nextInstr p)) ∧
         t.time.lateLaunch = (if comparing s = true ∧ 2 ^ 39 ≤ d then s.time.lateLaunch + 1 else s.time.lateLaunch)) ∧
     (RunsAt s e.val n.val cSignal p i →
       (inService s i.core = true → (getC s i.core).ctx = some p.ctx → NoneBlocked s i.core →
         ∃ t, exec (.collSignal e n) s = .next t ∧ t.mem = s.mem ∧ t.ctxs = s.ctxs ∧ runningAt t e.val n.val = some (nextInstr p) ∧
           semGet (getC t i.core) i.sem = (if semGet (getC s i.core) i.sem = 0xFFFFFFFF then 0xFFFFFFFF
             else semGet (getC s i.core) i.sem + 1) ∧
           ∀ k, k ≠ i.sem → semGet (getC t i.core) k = semGet (getC s i.core) k) ∧
       (inService s i.core = false ∨ (getC s i.core).ctx ≠ some p.ctx →
         ∃ t, exec (.collSignal e n) s = .next t ∧ ProgramFails s t e.val n.val p 3)) ∧
     (RunsAt s e.val n.val cEnd p i → Leads (.collEnd e n) s (endProgram s e.val n.val)) ∧
     (RunsAt s e.val n.val i.op p i → isRecv i.op = true →
       (mapGet? p.rx (chunkKey i.chIn (mapGet p.got i.chIn 0)) = none →
         ∃ t, exec (.collRecvTimeout e n) s = .next t ∧ ProgramFails s t e.val n.val p 1) ∧
       (∀ bs, mapGet? p.rx (chunkKey i.chIn (mapGet p.got i.chIn 0)) = some bs → Leads (.collRecvTimeout e n) s s)))

/-- R290, R308, R313, R314, R315, R356: the ledger commands. Every one is BAD_ARG for a context that does not exist and STATE_CONFLICT on the
context for one that is CLOSED. PAIR_SET and QUOTA_SET wait for the commit; a PAIR_SET that names another partner than the one named
before ends the fills (R311); without two windows onto the peer, and outside the range of the quota, they are BAD_ARG. ABSORB takes the
mirror as the absorbed shard and ends the pairing, and is STATE_CONFLICT while one is absorbed; PLACEMENT sets and clears the bit of a
generation, is DENIED when it would set one within 200 us after it was cleared, and BAD_ARG with ACCEPT above 1; while a commit is
pending the change waits for it (the model's choice, assumption log 55); LEDGER_TIMES answers the
records, zeros for a step that has none (assumption log 18), with DIGESTS = 1 the shard digests of the last commit, zeros for a
confidential partition, and changes nothing; with a COUNT or DIGESTS out of range it is BAD_ARG. R295, R302, R304: the Downbeat from the
side of the commands. DOWNBEAT_ARM, while the ledger is IDLE or ABORTED and has a committed state, of the step after the committed one,
queues its program and arms the step, whose bit is yet to be given; of any other step, for an engine that does not exist and of a program
that does not validate it is BAD_ARG, on a full engine NO_RESOURCE; in any other state STATE_CONFLICT; for a context that is FENCING or
FENCED it is FENCED. DOWNBEAT_RESOLVE of a module in doubt arms the commit at the time given or aborts the step with reason 0x0C, and is
BAD_ARG with RESULT above 1; of any other it is STATE_CONFLICT. DOWNBEAT_ABANDON of the armed step before its launch withdraws its programs
and aborts it with reason 0x0D; after its launch it votes 0 with that reason, at once where the program stands at its AND (R299); of any
other step it is BAD_ARG. -/
def Obligations.LedgerAndDownbeatCommands : Prop :=
  (∀ (i : Instr) (r : Req) (code : BitVec 16) (s : State), requestOf i = some (r, code, setWork) → 0x0301 ≤ code.toNat →
     code.toNat ≤ 0x030A → wellFormed i = true → NoLockout s → Ready code setWork r s →
     (64 ≤ r.ctx.toNat → Refuses i s r code 0x03 0) ∧
     (r.ctx.toNat < 64 → (getCtx s r.ctx.toNat).st = .closed → Conflicts i s r code 0x05 0 0x2)) ∧
  (∀ (r : Req) (s : State) (c : Nat) (x : Context), c = r.ctx.toNat → c < 64 → x = getCtx s c → x.st ≠ .closed → NoLockout s →
     (∀ (peer wm wl : BitVec 32) (pc : BitVec 8), Ready 0x0301 setWork r s →
       (peer.toNat < 2 ^ 17 → pc.toNat < 64 → windowTo s x wm.toNat peer.toNat pc.toNat = true → windowTo s x wl.toNat peer.toNat pc.toNat = true →
         ((∀ p, x.led.pendPair.or x.led.pair = some p → p.peer.toNat = peer.toNat ∧ p.peerCtx.toNat = pc.toNat) →
           Serves (.pairSet r peer pc wm wl) s (setCtx s c { x with led := { x.led with
             pendPair := some (Pairing.mk (peer.setWidth 17) (pc.setWidth 6) wm wl) } }) r 0x0301 0x00 []) ∧
         ((∃ p, x.led.pendPair.or x.led.pair = some p ∧ (p.peer.toNat ≠ peer.toNat ∨ p.peerCtx.toNat ≠ pc.toNat)) →
           Serves (.pairSet r peer pc wm wl) s (setCtx s c { x with led := { x.led with
             transfers := x.led.transfers.filter (fun t => !t.fill), filling := false, fillDone := 0, fillTotal := 0
             pendPair := some (Pairing.mk (peer.setWidth 17) (pc.setWidth 6) wm wl) } }) r 0x0301 0x00 [])) ∧
       (2 ^ 17 ≤ peer.toNat ∨ 64 ≤ pc.toNat ∨ windowTo s x wm.toNat peer.toNat pc.toNat = false ∨
           windowTo s x wl.toNat peer.toNat pc.toNat = false → Refuses (.pairSet r peer pc wm wl) s r 0x0301 0x03 0)) ∧
     (∀ sh : BitVec 32, Ready 0x0302 setWork r s →
       (x.led.absorbed = false → isConf s x.part = false → ∃ t, exec (.absorb r sh) s = .next t ∧ Answers s t r 0x0302 0x00 [] ∧
         (getCtx t c).led = { x.led with
           absorbed := true, absorbId := sh, unmirrored := true, pair := none, filling := false, transfers := [], moved := [] } ∧
         t.slots = s.slots ∧ t.mem.cells = s.mem.cells ∧ ∀ k, k ≠ c → getCtx t k = getCtx s k) ∧
       (x.led.absorbed = true → Conflicts (.absorb r sh) s r 0x0302 0x01 (BitVec.ofNat 16 (dbCode x.led.st)) 0)) ∧
     (∀ q : BitVec 32, Ready 0x0308 setWork r s →
       (valueOk (ctxSetting s c) (coresIn s x) true 0x603 q.toNat = true →
         Serves (.quotaSet r q) s (setCtx s c { x with led := { x.led with pendQuota := some q } }) r 0x0308 0x00 []) ∧
       (valueOk (ctxSetting s c) (coresIn s x) true 0x603 q.toNat = false → Refuses (.quotaSet r q) s r 0x0308 0x03 0)) ∧
     (∀ g a : BitVec 8, Ready 0x0309 setWork r s →
       (a = 1 → (∀ t, mapGet? x.led.cleared g.toNat = some t → 800000 ≤ ticksSince s.time.now t) → x.led.st ≠ .commitPending →
         ∃ t, exec (.placement r g a) s = .next t ∧ Answers s t r 0x0309 0x00 [] ∧ t.mem = s.mem ∧
           (getCtx t c).led.accept.getLsbD g.toNat = true ∧
           (∀ k, k ≠ g.toNat → (getCtx t c).led.accept.getLsbD k = x.led.accept.getLsbD k) ∧ ∀ k, k ≠ c → getCtx t k = getCtx s k) ∧
       (a = 1 → (∃ t, mapGet? x.led.cleared g.toNat = some t ∧ ticksSince s.time.now t < 800000) →
         Refuses (.placement r g a) s r 0x0309 0x04 0) ∧
       (a = 0 → x.led.st ≠ .commitPending → ∃ t, exec (.placement r g a) s = .next t ∧ Answers s t r 0x0309 0x00 [] ∧ t.mem = s.mem ∧
           (getCtx t c).led.accept.getLsbD g.toNat = false ∧
           (x.led.accept.getLsbD g.toNat = true → mapGet? (getCtx t c).led.cleared g.toNat = some s.time.now) ∧
           (∀ k, k ≠ g.toNat → (getCtx t c).led.accept.getLsbD k = x.led.accept.getLsbD k) ∧ ∀ k, k ≠ c → getCtx t k = getCtx s k) ∧
       (a.toNat < 2 → (a = 1 → ∀ t, mapGet? x.led.cleared g.toNat = some t → 800000 ≤ ticksSince s.time.now t) →
         x.led.st = .commitPending → Serves (.placement r g a) s (setCtx s c { x with led := { x.led with
           pendPgen := x.led.pendPgen ++ [(g, a == 1)] } }) r 0x0309 0x00 []) ∧
       (2 ≤ a.toNat → Refuses (.placement r g a) s r 0x0309 0x03 0)) ∧
     (∀ (f : BitVec 64) (n d : BitVec 8), Ready 0x030A setWork r s →
       (1 ≤ n.toNat → n.toNat ≤ 62 → d.toNat < 2 → Serves (.ledgerTimes r f n d) s s r 0x030A 0x00
         (((List.range n.toNat).flatMap fun i =>
             ((x.led.times.find? fun t => t.step.toNat == f.toNat + i).map timingBytes).getD (List.replicate 64 0)) ++
           (if d = 0 then [] else if isConf s x.part = true then List.replicate 64 0
            else keptDigest x.led.kept ++ keptDigest x.led.keptMirror))) ∧
       (n = 0 ∨ 62 < n.toNat ∨ 2 ≤ d.toNat → Refuses (.ledgerTimes r f n d) s r 0x030A 0x03 0))) ∧
  (∀ (r : Req) (s : State) (c : Nat) (x : Context), c = r.ctx.toNat → c < 64 → x = getCtx s c → NoLockout s →
     isConf s x.part = false →
     (∀ (step tl va : BitVec 64) (e : BitVec 8), Ready 0x0303 setWork r s →
       (x.st = .fencing ∨ x.st = .fenced → Refuses (.downbeatArm r step tl va e) s r 0x0303 0x08 0) ∧
       (x.st = .opened →
         (x.led.noState = true ∨ x.led.st ≠ .idle ∧ x.led.st ≠ .aborted →
           Conflicts (.downbeatArm r step tl va e) s r 0x0303 0x01 (BitVec.ofNat 16 (dbCode x.led.st)) 0x21) ∧
         (x.led.noState = false → x.led.st = .idle ∨ x.led.st = .aborted →
           (step.toNat ≠ (x.led.committed + 1).toNat ∨ 4 ≤ e.toNat ∨ loadProgram s c va (tl.setWidth 40) true = none →
             Refuses (.downbeatArm r step tl va e) s r 0x0303 0x03 0) ∧
           (∀ u p, step.toNat = (x.led.committed + 1).toNat → e.toNat < 4 → loadProgram s c va (tl.setWidth 40) true = some (u, p) →
             (engineFull s e.toNat = true → ∃ t, exec (.downbeatArm r step tl va e) s = .next t ∧ Answers s t r 0x0303 0x05 [] ∧
               t.fab = s.fab ∧ t.mem.cells = s.mem.cells ∧ t.ctxs = s.ctxs) ∧
             (engineFull s e.toNat = false → ∃ t, exec (.downbeatArm r step tl va e) s = .next t ∧ Answers s t r 0x0303 0x00 [] ∧
               (getCtx t c).led.st = .armed ∧ (getCtx t c).led.step = step.setWidth 48 ∧
               (getCtx t c).led.tLaunch = tl.setWidth 40 ∧ (getCtx t c).led.ready = false ∧ (getCtx t c).led.veto = false ∧
               (getCtx t c).led.committed = x.led.committed ∧
               (getEngine t e.toNat).queued = (getEngine s e.toNat).queued ++
                 [if ctxHeld x then { p with launch := { p.launch with held := true, seen := none } } else p] ∧
               t.mem.cells = s.mem.cells ∧ ∀ k, k ≠ c → getCtx t k = getCtx s k))))) ∧
     (∀ (v : BitVec 8) (tc : BitVec 64), Ready 0x0304 setWork r s → x.st ≠ .closed →
       (x.led.st = .inDoubt → v = 1 → Serves (.downbeatResolve r v tc) s (setCtx s c { x with led := { x.led with
         st := .commitPending, tCommit := tc.setWidth 40, commitAt := some (armTime s (tc.setWidth 40)) } }) r 0x0304 0x00 []) ∧
       (x.led.st = .inDoubt → v = 0 → ∃ t, exec (.downbeatResolve r v tc) s = .next t ∧ Answers s t r 0x0304 0x00 [] ∧
         (getCtx t c).led.st = .aborted ∧ (getCtx t c).led.aborts = x.led.aborts + 1 ∧ (getCtx t c).led.reason = 0x0C) ∧
       (x.led.st = .inDoubt → 2 ≤ v.toNat → Refuses (.downbeatResolve r v tc) s r 0x0304 0x03 0) ∧
       (x.led.st ≠ .inDoubt →
         Conflicts (.downbeatResolve r v tc) s r 0x0304 0x01 (BitVec.ofNat 16 (dbCode x.led.st)) 0x10)) ∧
     (∀ step : BitVec 64, Ready 0x0305 setWork r s → x.st ≠ .closed →
       (x.led.st = .armed ∨ x.led.st = .voted → step.toNat = x.led.step.toNat →
         (x.led.launched = false → x.led.veto = false →
           ∃ t, exec (.downbeatAbandon r step) s = .next t ∧ Answers s t r 0x0305 0x00 [] ∧ (getCtx t c).led.st = .aborted ∧
             (getCtx t c).led.reason = 0x0D ∧ (getCtx t c).led.committed = x.led.committed ∧
             ∀ e p, e < 4 → p ∈ (getEngine t e).running ∨ p ∈ (getEngine t e).queued → isDownbeat c x.led p = false) ∧
         (x.led.launched = true → votePlace s c = none → Serves (.downbeatAbandon r step) s
           (setCtx s c { x with led := { x.led with abandoned := true } }) r 0x0305 0x00 []) ∧
         (x.led.launched = true → votePlace s c ≠ none →
           ∃ t, exec (.downbeatAbandon r step) s = .next t ∧ Answers s t r 0x0305 0x00 [] ∧ (getCtx t c).led.st = .voted ∧
             (getCtx t c).led.veto = true ∧ (getCtx t c).led.ready = false ∧ (getCtx t c).led.reason = 0x0D ∧ t.mem = s.mem)) ∧
       (x.led.st ≠ .armed ∧ x.led.st ≠ .voted ∨ step.toNat ≠ x.led.step.toNat →
         Refuses (.downbeatAbandon r step) s r 0x0305 0x03 0)))

/-- R292 to R294, R299: the ready bit. While the Belfry serves and a step is armed, READY_BIT votes 0 at once, with its reason, when a veto
condition has failed and the step's program stands at its AND, and 1 there once every condition is met; else REASON shows the first unmet
condition, 0 when all are met, and the bit is not given. Otherwise it does nothing. While the clock is not LOCKED some condition is unmet. The
digest record of the partner is taken for the step in progress, until a vote held back at its deadline, and any other is dropped and
counted. Digests are formed once, when the updates have finished, of the regions aside; a mirror that is filling, or not there, has the
digest zero; a region that cannot be read marks the step. R307, R310 to R312, R287: repairing and moving shards, for a context whose partition
is not confidential. SHARD_REPAIR writes a chunk whose digest is the one kept at the last commit, and DENIES any other; it is
STATE_CONFLICT for a shard without a mirror, and BAD_ARG for a chunk that does not exist. SHARD_FILL begins a transfer in place of the one
for the same chunks; without room in the region, or with 64 transfers, it is NO_RESOURCE, with operands out of range BAD_ARG. Each
SHARD_TRANSFER_CHUNK moves one chunk of a transfer that has one left, a receiver's into its live region unless the update of the step has
started; the copy of an audited step is made once. Of the contexts only the one named moves. -/
def Obligations.ReadyIsGivenAndShardsMove : Prop :=
  (∀ (c : Ctx) (s : State) (x : Context), x = getCtx s c.val → NoLockout s →
     (belfryUp s = true → x.led.st = .armed →
       (∀ k, votePlace s c.val ≠ none → firstVeto s c.val = some k → ∃ t, exec (.readyBit c) s = .next t ∧ t.mem = s.mem ∧
         (getCtx t c.val).led.st = .voted ∧ (getCtx t c.val).led.veto = true ∧ (getCtx t c.val).led.ready = false ∧
         (getCtx t c.val).led.reason = BitVec.ofNat 8 k ∧ ∀ k, k ≠ c.val → getCtx t k = getCtx s k) ∧
       (votePlace s c.val ≠ none → firstVeto s c.val = none → firstUnmet s c.val = none → ∃ t, exec (.readyBit c) s = .next t ∧
         t.mem = s.mem ∧ (getCtx t c.val).led.st = .voted ∧ (getCtx t c.val).led.ready = true ∧ (getCtx t c.val).led.veto = false ∧
         (getCtx t c.val).led.reason = 0 ∧ ∀ k, k ≠ c.val → getCtx t k = getCtx s k) ∧
       (votePlace s c.val = none → firstUnmet s c.val = none →
         Leads (.readyBit c) s (setCtx s c.val { x with led := { x.led with reason := 0 } })) ∧
       (∀ k v, votePlace s c.val = none ∨ firstVeto s c.val = none → firstUnmet s c.val = some (k, v) →
         ∃ t, exec (.readyBit c) s = .next t ∧ t.mem = s.mem ∧
           (getCtx t c.val).led = { x.led with reason := BitVec.ofNat 8 k, times := (getCtx t c.val).led.times } ∧
           ∀ k, k ≠ c.val → getCtx t k = getCtx s k)) ∧
     (belfryUp s = false ∨ x.led.st ≠ .armed → Leads (.readyBit c) s s) ∧
     (s.time.st ≠ .locked → firstUnmet s c.val ≠ none) ∧
     (∀ (rec : Bytes) (mine : Prop), rec.length = 256 →
       (mine ↔ ∃ q, x.led.pair = some q ∧ leNat (slice rec 8 4) = q.peer.toNat ∧ (rec.getD 0x0C 0).toNat = q.peerCtx.toNat ∧
         leNat (slice rec 0 8) = (x.led.committed + 1).toNat ∧
         (x.led.st = .idle ∨ x.led.st = .armed ∨ x.led.st = .voted ∧ (x.led.ready = true ∨ x.led.veto = true))) →
       (mine → Leads (.digestRecord c rec) s (setCtx s c.val { x with led := { x.led with partnerRec := some rec } })) ∧
       (¬ mine → Leads (.digestRecord c rec) s (setCtx s c.val { x with led := { x.led with recDrop := x.led.recDrop + 1 } }))) ∧
     (∀ (due both : Bool), due = (x.led.ownDone && (x.led.mirrorDone || !mirrorNeeded x.led) && !x.led.digestDone && x.st == .opened) →
       both = (mirrorNeeded x.led && !x.led.filling) →
       (∀ a b, due = true → regionData s c.val false (liveIndex s c.val + 1) = some a →
         (if both then regionData s c.val true (liveIndex s c.val + 1) else some []) = some b →
         ∃ t, exec (.digestFormed c) s = .next t ∧ (getCtx t c.val).led = { x.led with
             own := shardDigest a, mirror := if both then shardDigest b else List.replicate 32 0, digestDone := true
             ownChunks := digestMap a, mirrorChunks := if both then digestMap b else [] } ∧ t.mem = s.mem ∧ t.slots = s.slots ∧
           ∀ k, k ≠ c.val → getCtx t k = getCtx s k) ∧
       (due = true → votePlace s c.val = none → regionData s c.val false (liveIndex s c.val + 1) = none ∨
           both = true ∧ regionData s c.val true (liveIndex s c.val + 1) = none →
         Leads (.digestFormed c) s (setCtx s c.val { x with led := { x.led with digestBad := true } })) ∧
       (due = false → Leads (.digestFormed c) s s))) ∧
  (∀ (r : Req) (s : State) (c : Ctx) (x : Context), c.val = r.ctx.toNat → x = getCtx s c.val → x.st ≠ .closed → NoLockout s →
     isConf s x.part = false →
     (∀ (region : BitVec 8) (chunk : BitVec 32) (d : Bytes) (kept : AMap Bytes), Ready 0x0306 setWork r s →
       kept = (if region = 1 then x.led.keptMirror else x.led.kept) →
       (2 ≤ region.toNat ∨ chunkCount s c.val (region == 1) ≤ chunk.toNat → Refuses (.shardRepair r region chunk d) s r 0x0306 0x03 0) ∧
       (region.toNat < 2 → chunk.toNat < chunkCount s c.val (region == 1) →
         (x.led.unmirrored = true →
           Conflicts (.shardRepair r region chunk d) s r 0x0306 0x01 (BitVec.ofNat 16 (dbCode x.led.st)) 0) ∧
         (x.led.unmirrored = false →
           (mapGet? kept chunk.toNat = some (sha256 d) → ∃ t, exec (.shardRepair r region chunk d) s = .next t ∧
             Answers s t r 0x0306 0x00 [] ∧ t.mem = (putForced s c.val (chunkVa s c.val (region == 1) chunk.toNat) d).mem ∧
             t.ctxs = s.ctxs) ∧
           (mapGet? kept chunk.toNat ≠ some (sha256 d) → Refuses (.shardRepair r region chunk d) s r 0x0306 0x04 0)))) ∧
     (∀ (role region : BitVec 8) (first count win : BitVec 32) (good fills : Prop) (u q : Transfer) (l : Ledger), Ready 0x0307 setWork r s →
       (good ↔ role.toNat < 2 ∧ region.toNat < 2 ∧ count ≠ 0 ∧ x.pmBase.toNat ≤ win.toNat ∧
         win.toNat < x.pmBase.toNat + x.pmLen.toNat ∧ (mapGet s.mem.pmap win.toNat 0).getLsbD 0 = true ∧
         entField (mapGet s.mem.pmap win.toNat 0) 1 2 = 1 ∧
         (role = 0 → first.toNat + count.toNat ≤ chunkCount s c.val (region == 1))) →
       u = transferOf s c.val x.led (role == 1) (region == 1) first.toNat count.toNat win →
       l = { x.led with transfers := x.led.transfers.filter fun t => !(sameTransfer t u) } →
       q = transferOf s c.val l (role == 1) (region == 1) first.toNat count.toNat win →
       (fills ↔ q.receiver = true ∧ q.fill = true ∧ region = 1) →
       (¬ good → Refuses (.shardFill r role region first count win) s r 0x0307 0x03 0) ∧
       (good → 64 ≤ l.transfers.length ∨ q.receiver = true ∧ regionSize s c.val < (if q.fill then 0 else q.base) + q.bytes →
         Refuses (.shardFill r role region first count win) s r 0x0307 0x05 0) ∧
       (good → l.transfers.length < 64 → (q.receiver = true → (if q.fill then 0 else q.base) + q.bytes ≤ regionSize s c.val) →
         (fills → Serves (.shardFill r role region first count win) s (setCtx s c.val { x with led := { l with
           transfers := l.transfers ++ [q], filling := true, fillDone := 0, fillTotal := count.setWidth 16 } }) r 0x0307 0x00 []) ∧
         (¬ fills → Serves (.shardFill r role region first count win) s (setCtx s c.val { x with led := { l with
           transfers := l.transfers ++ [q] } }) r 0x0307 0x00 []))) ∧
     (∀ (n : Fin 64) (d : Bytes),
       (x.led.transfers[n.val]? = none → Leads (.shardTransferChunk c ⟨n, d⟩) s s) ∧
       (∀ q, x.led.transfers[n.val]? = some q →
         (q.count ≤ q.done ∨ q.receiver = true ∧ updateStarted x.led q = true → Leads (.shardTransferChunk c ⟨n, d⟩) s s) ∧
         (q.done < q.count → (q.receiver = true → updateStarted x.led q = false) →
           ∃ t, exec (.shardTransferChunk c ⟨n, d⟩) s = .next t ∧
             (getCtx t c.val).led = { x.led with
               transfers := x.led.transfers.set n.val { q with done := q.done + 1 }
               fillDone := if q.receiver && q.fill then x.led.fillDone + 1 else x.led.fillDone } ∧
             (q.receiver = true → t.mem = (putForced s c.val (regionVa s c.val q.mirror (liveIndex s c.val) + (chunkSpan s c.val q).1)
               (d.take (chunkSpan s c.val q).2)).mem) ∧
             (q.receiver = false → t.mem.cells = s.mem.cells) ∧ ∀ k, k ≠ c.val → getCtx t k = getCtx s k))) ∧
     (x.led.auditCopy = true → ∃ t, exec (.auditCopyComplete c) s = .next t ∧ (getCtx t c.val).led = { x.led with auditCopy := false } ∧
       t.mem.pmap = s.mem.pmap ∧ ∀ k, k ≠ c.val → getCtx t k = getCtx s k) ∧
     (x.led.auditCopy = false → Leads (.auditCopyComplete c) s s))

/-- R320 to R323, R329 to R331, R357: the Peal commands. Each is BAD_ARG for a context that does not exist, STATE_CONFLICT on the context for
one that is CLOSED and FENCED for one that is FENCING or FENCED. For an OPEN one: PEAL_ARM takes a step after the committed one, is BAD_ARG
for any other and BUSY while a Peal runs. PEAL_QUIESCE, with the ledger IDLE, no Peal running and no barrier armed, and PEAL_RESUME in
QUIESCED arm their times (R51), and are STATE_CONFLICT otherwise, on the ledger or on the Peal. PEAL_ABORT ends a running Peal with error
0x05, after the writes in flight, and is STATE_CONFLICT when none runs. PEAL_TARGET gives a slot its extents, which voids what it held
unless they are the same; it is BAD_ARG for a slot, a number of extents or an extent out of range, and BUSY for the slot being written.
PEAL_SCAN answers what the manifests say and changes nothing; it is BAD_ARG for a number of slots or an address out of range. R322, R327: a
Peal ends. When the manifest write has returned OK, its slot is valid with its step, sequence and kind and the Peal is counted; when a
destination write fails, no slot is made valid and the failure is counted with error 0x01; either does nothing when it is not due. -/
def Obligations.PealsBeginAndEnd : Prop :=
  (∀ (i : Instr) (r : Req) (code : BitVec 16) (s : State), requestOf i = some (r, code, setWork) → 0x0401 ≤ code.toNat →
     code.toNat ≤ 0x0407 → wellFormed i = true → NoLockout s → Ready code setWork r s →
     (64 ≤ r.ctx.toNat → Refuses i s r code 0x03 0) ∧
     (r.ctx.toNat < 64 → (getCtx s r.ctx.toNat).st = .closed → Conflicts i s r code 0x05 0 0x2) ∧
     (r.ctx.toNat < 64 → (getCtx s r.ctx.toNat).st = .fencing ∨ (getCtx s r.ctx.toNat).st = .fenced → Refuses i s r code 0x08 0)) ∧
  (∀ (r : Req) (s : State) (c : Nat) (x : Context), c = r.ctx.toNat → c < 64 → x = getCtx s c → x.st = .opened →
     (∀ step : BitVec 64, Ready 0x0401 setWork r s →
       (step.toNat < 2 ^ 48 → x.led.committed.toNat < step.toNat →
         (pealRuns x.peal = false → Serves (.pealArm r step) s
           (setCtx s c { x with peal := { x.peal with armed := some (step.setWidth 48) } }) r 0x0401 0x00 []) ∧
         (pealRuns x.peal = true → Refuses (.pealArm r step) s r 0x0401 0x01 0)) ∧
       (2 ^ 48 ≤ step.toNat ∨ step.toNat ≤ x.led.committed.toNat → Refuses (.pealArm r step) s r 0x0401 0x03 0)) ∧
     (∀ tq : BitVec 64, Ready 0x0402 setWork r s →
       (x.led.st = .idle → pealRuns x.peal = false → x.peal.tq = none → Serves (.pealQuiesce r tq) s
         (setCtx s c { x with peal := { x.peal with tq := some (armTime s (tq.setWidth 40)) } }) r 0x0402 0x00 []) ∧
       (x.led.st = .idle → pealRuns x.peal = true ∨ x.peal.tq ≠ none →
         Conflicts (.pealQuiesce r tq) s r 0x0402 0x02 (BitVec.ofNat 16 (pealCode x.peal.st)) 0x9) ∧
       (x.led.st ≠ .idle → Conflicts (.pealQuiesce r tq) s r 0x0402 0x01 (BitVec.ofNat 16 (dbCode x.led.st)) 0x1)) ∧
     (∀ tr : BitVec 64, Ready 0x0403 setWork r s →
       (x.peal.st = .quiesced → Serves (.pealResume r tr) s
         (setCtx s c { x with peal := { x.peal with tr := some (armTime s (tr.setWidth 40)) } }) r 0x0403 0x00 []) ∧
       (x.peal.st ≠ .quiesced → Conflicts (.pealResume r tr) s r 0x0403 0x02 (BitVec.ofNat 16 (pealCode x.peal.st)) 0x8)) ∧
     (Ready 0x0404 setWork r s →
       (x.peal.st = .quiescing ∨ x.peal.st = .writing ∧ x.peal.outst = 0 → Serves (.pealAbort r) s
         (setCtx s c { x with peal := { endWriting x.peal with err := 5, fail := x.peal.fail + 1 } }) r 0x0404 0x00 []) ∧
       (x.peal.st = .writing → x.peal.outst ≠ 0 → Serves (.pealAbort r) s
         (setCtx s c { x with peal := { x.peal with stopping := true } }) r 0x0404 0x00 []) ∧
       (x.peal.st ≠ .writing → x.peal.st ≠ .quiescing →
         Conflicts (.pealAbort r) s r 0x0404 0x02 (BitVec.ofNat 16 (pealCode x.peal.st)) 0x6)) ∧
     (∀ (slot : BitVec 8) (es : List Extent), Ready 0x0405 setWork r s → es.length ≤ 253 →
       (slot.toNat < 4 → 1 ≤ es.length → es.length ≤ 16 → (∀ e ∈ es, extentOk s c e = true) →
         (x.peal.st = .writing → x.peal.slotNo = slot.toNat → Refuses (.pealTarget r slot es) s r 0x0405 0x01 0) ∧
         (x.peal.st ≠ .writing ∨ x.peal.slotNo ≠ slot.toNat → Serves (.pealTarget r slot es) s (setCtx s c { x with peal := { x.peal with
           slots := x.peal.slots.setIfInBounds slot.toNat (if (getSlot x.peal slot.toNat).extents = es then getSlot x.peal slot.toNat
             else { extents := es, valid := false, step := 0, seq := 0, kind := 0 }) } }) r 0x0405 0x00 [])) ∧
       (4 ≤ slot.toNat ∨ es = [] ∨ 16 < es.length ∨ (∃ e ∈ es, extentOk s c e = false) →
         Refuses (.pealTarget r slot es) s r 0x0405 0x03 0)) ∧
     (∀ (vas : List (BitVec 64)) (ms : List Bytes), Ready 0x0406 setWork r s → vas.length ≤ 507 →
       (1 ≤ vas.length → vas.length ≤ 16 → (∀ va ∈ vas, slotVaOk s c va = true) → Serves (.pealScan r vas ms) s s r 0x0406 0x00
         ((List.range vas.length).flatMap fun i => scanBytes (openKeys s c) (fit 4096 (ms.getD i [])))) ∧
       (vas = [] ∨ 16 < vas.length ∨ (∃ va ∈ vas, slotVaOk s c va = false) → Refuses (.pealScan r vas ms) s r 0x0406 0x03 0))) ∧
  (∀ (c : Ctx) (s : State) (x : Context), x = getCtx s c.val →
     (x.peal.st = .writing → x.peal.manifest = true → x.peal.outst = 0 → Leads (.pealComplete c) s (setCtx s c.val { x with
       peal := { endWriting x.peal with
         count := x.peal.count + 1
         slots := x.peal.slots.setIfInBounds x.peal.slotNo { getSlot x.peal x.peal.slotNo with
           valid := true, step := x.peal.step, seq := x.peal.seq, kind := x.peal.kind } } })) ∧
     (x.peal.st ≠ .writing ∨ x.peal.manifest = false ∨ x.peal.outst ≠ 0 → Leads (.pealComplete c) s s) ∧
     (x.peal.st = .writing → Leads (.pealFail c) s (setCtx s c.val { x with peal := { endWriting x.peal with
       err := 1, fail := x.peal.fail + 1 } })) ∧
     (x.peal.st ≠ .writing → Leads (.pealFail c) s s))

/-- R329, R330: the quiesce barrier. When T_Q comes, as R51 judges it, the cores that serve the context stop issue, at OFF as their power
mode, and the Peal state is QUIESCING; when T_R comes they go on, at their usual power mode; before that only what the first evaluation
found is noted. With the engines empty a Peal of kind 2 of the committed step is taken, or fails for want of room, a window or a readable
chunk, and then the context is QUIESCED; with work still held at the bound it fails with error 0x04. Each does nothing when it is not due.
Nothing but the Peal of the context, its cores and queued programs, and what the Peal sends, moves: not the ledger, and no other context.
Premises: the partition is not confidential; at T_R no stream waits in a descriptor. -/
def Obligations.QuiesceBarrier : Prop :=
  ∀ (c : Ctx) (s : State) (x : Context), x = getCtx s c.val → NoLockout s → isConf s x.part = false →
    (∀ (i : Instr) (a : Armed), i = .quiesceBarrier c ∨ i = .launchFire (.quiesce c) → x.peal.tq = some a →
      ((evalArmed s a).1 = .wait →
        Leads i s (setCtx s c.val { x with peal := { x.peal with tq := some (evalArmed s a).2 } })) ∧
      ((evalArmed s a).1 ≠ .wait → ∃ t, exec i s = .next t ∧
        (getCtx t c.val).peal = { x.peal with st := .quiescing, tq := none, taken := s.time.now, kind := 2 } ∧
        (getCtx t c.val).led = x.led ∧ t.mem = s.mem ∧
        (∀ n, n < 128 → inService s n = true → (getC s n).ctx = some c.val → (getC t n).frozen = true ∧ (getC t n).pwrMode = 0) ∧
        (∀ n, n < 128 → inService s n = true → (∀ m, m < 128 → inService s m = true → physOf s m = physOf s n → (getC s m).ctx ≠ some c.val) →
          getC t n = getC s n) ∧ ∀ k, k ≠ c.val → getCtx t k = getCtx s k)) ∧
    (∀ (i : Instr) (a : Armed), i = .quiesceResume c ∨ i = .launchFire (.resume c) → x.peal.tr = some a →
      ((evalArmed s a).1 = .wait →
        Leads i s (setCtx s c.val { x with peal := { x.peal with tr := some (evalArmed s a).2 } })) ∧
      ((evalArmed s a).1 ≠ .wait → (∀ n, NoneBlocked s n) → ∃ t, exec i s = .next t ∧
        (getCtx t c.val).peal = { x.peal with st := .idle, tr := none } ∧ (getCtx t c.val).led = x.led ∧ t.mem = s.mem ∧
        (∀ n, n < 128 → inService s n = true → (getC s n).ctx = some c.val → (getC t n).frozen = false ∧ (getC t n).pwrMode = 2) ∧
        ∀ k, k ≠ c.val → getCtx t k = getCtx s k)) ∧
    (x.peal.st = .quiescing → ctxEmpty s c.val = true → ∃ t, exec (.quiesceCapture c) s = .next t ∧
      (getCtx t c.val).peal.kind = 2 ∧ (getCtx t c.val).peal.step = x.led.committed ∧ (getCtx t c.val).peal.taken = x.peal.taken ∧
      ((getCtx t c.val).peal.st = .writing ∨
        (getCtx t c.val).peal.st = .quiesced ∧ (getCtx t c.val).peal.fail = x.peal.fail + 1) ∧
      (getCtx t c.val).led = x.led ∧ t.slots = s.slots ∧ ∀ k, k ≠ c.val → getCtx t k = getCtx s k) ∧
    (x.peal.st = .quiescing → ctxEmpty s c.val = false → Leads (.quiesceBound c) s (setCtx s c.val { x with peal := { endWriting x.peal with
      err := 4, fail := x.peal.fail + 1 } })) ∧
    (x.peal.st ≠ .quiescing ∨ ctxEmpty s c.val = false → Leads (.quiesceCapture c) s s) ∧
    (x.peal.st ≠ .quiescing ∨ ctxEmpty s c.val = true → Leads (.quiesceBound c) s s) ∧
    (x.peal.tq = none → Leads (.quiesceBarrier c) s s) ∧ (x.peal.tr = none → Leads (.quiesceResume c) s s)

/-- R300, R247, R51: when its commit time comes, while the Belfry serves, the armed step is the committed one, the ledger is IDLE with nothing
left to replay, the version it has written is committed, and the pairing, the quota and the placement that
waited are in force; before it comes only what
the first evaluation found is noted. While the Belfry does not serve, and without a commit time, nothing happens. Premises: no Peal is due,
no setting waits, and no reset domain waits to fence the context. R333: RESTORE of one entry verifies it before it loads it: one that does not
verify is DENIED and the context has no committed state; one of a Whole-device Peal that does not fit this module is BAD_ARG, as are a
step or an address out of range; an own shard of a Peal of another kind is loaded, and the ledger is IDLE at the step restored, unmirrored,
and can be armed again. R136, R137: the audit of a step runs on a rotated placement, by 1 where the rotation is a whole turn, which is
logged, and where the partition has at most one core it is skipped and counted. It confirms the step when the gradient digests and the
shard digest agree; where they do not, the last audited step stays and every core of the partition goes to its self-test. Each does
nothing when it is not due. -/
def Obligations.StepsCommitRestoreAndAudit : Prop :=
  (∀ (c : Ctx) (ins : Instr) (s : State) (x : Context) (i : Nat), ins = .commit c ∨ ins = .launchFire (.commit c) → x = getCtx s c.val →
     NoLockout s → i = verSlot s c.val (x.led.step + 1) →
     (∀ a, x.led.commitAt = some a → belfryUp s = true →
       ((evalArmed s a).1 = .wait → Leads ins s (setCtx s c.val { x with led := { x.led with commitAt := some (evalArmed s a).2 } })) ∧
       ((evalArmed s a).1 ≠ .wait → x.domains = 0 → x.peal.armed = none → ctxSetting s c.val 0x800 = 0 → x.led.pendSet = [] →
           (∀ k, (getSlot x.peal k).extents = []) → ∃ t, exec ins s = .next t ∧
         (getCtx t c.val).led.committed = x.led.step ∧ (getCtx t c.val).led.st = .idle ∧ (getCtx t c.val).led.commitAt = none ∧
         (getCtx t c.val).led.reasons = [] ∧ (getCtx t c.val).led.aborts = x.led.aborts ∧ (getCtx t c.val).led.pendPair = none ∧
         (getCtx t c.val).led.pair = (if x.led.pendPair.isSome then x.led.pendPair else x.led.pair) ∧
         (getCtx t c.val).led.quota = x.led.pendQuota.getD x.led.quota ∧ (getCtx t c.val).led.pendPgen = [] ∧
         (x.led.pendPgen = [] → (getCtx t c.val).led.accept = x.led.accept) ∧
         (∀ g b, x.led.pendPgen = [(g, b)] → (getCtx t c.val).led.accept.getLsbD g.toNat = b) ∧
         (x.vslots.getD i (.free, 0) = (.written, x.led.step + 1) →
           (getCtx t c.val).vslots.getD i (.free, 0) = (.committed, x.led.step + 1)) ∧
         t.mem.cells = s.mem.cells ∧ t.slots = s.slots ∧ (getCtx t c.val).st = x.st ∧ (getCtx t c.val).cgen = x.cgen ∧
         ∀ k, k ≠ c.val → getCtx t k = getCtx s k)) ∧
     (x.led.commitAt = none ∨ belfryUp s = false → Leads ins s s)) ∧
  (∀ (r : Req) (s : State) (c : Nat) (x : Context) (step : BitVec 64) (it : RestoreItem) (src : Bytes), c = r.ctx.toNat → c < 64 →
     x = getCtx s c → x.st = .opened → Ready 0x0407 setWork r s → NoLockout s → isConf s x.part = false →
     (2 ^ 48 ≤ step.toNat ∨ slotVaOk s c it.src = false → Refuses (.restore r step [it] [src]) s r 0x0407 0x03 0) ∧
     (step.toNat < 2 ^ 48 → slotVaOk s c it.src = true →
       (readEntry (openKeys s c) step.toNat src it.entry.toNat = none → ∃ t, exec (.restore r step [it] [src]) s = .next t ∧
         Answers s t r 0x0407 0x04 [] ∧ (getCtx t c).led = { x.led with noState := true } ∧ (getCtx t c).peal = { x.peal with err := 6 } ∧
         t.mem = s.mem ∧ ∀ k, k ≠ c → getCtx t k = getCtx s k) ∧
       (∀ l, readEntry (openKeys s c) step.toNat src it.entry.toNat = some l →
         (l.kind = 2 → wholeOk s c l = false → Refuses (.restore r step [it] [src]) s r 0x0407 0x03 0) ∧
         (l.kind ≠ 2 → l.ty = 1 →
           ∃ t, exec (.restore r step [it] [src]) s = .next t ∧ Answers s t r 0x0407 0x00 [] ∧ (getCtx t c).led.st = .idle ∧
             (getCtx t c).led.committed.toNat = step.toNat ∧ (getCtx t c).led.noState = false ∧ (getCtx t c).led.unmirrored = true ∧
             (getCtx t c).led.everArmed = false ∧ (getCtx t c).led.reasons = [] ∧ t.slots = s.slots ∧
             t.mem.cells = (putForced s c (regionVa s c (l.shard != ctxSetting s c 0x70D) (step.toNat + 1)) l.data).mem.cells ∧
             ∀ k, k ≠ c → getCtx t k = getCtx s k)))) ∧
  (∀ (c : Ctx) (s : State) (x : Context) (n rot : Nat), x = getCtx s c.val → n = (partCores s x.part).length →
     rot = ctxSetting s c.val 0x502 →
     (x.led.auditing ≠ none → x.led.auditCopy = false → x.led.auditRot = none → x.st = .opened →
       (n ≤ 1 → Leads (.auditStart c) s (setCtx s c.val { x with led := { endAudit x.led with
         auditSkipped := x.led.auditSkipped + 1 } })) ∧
       (1 < n → rot % n ≠ 0 → Leads (.auditStart c) s (setCtx s c.val { x with led := { x.led with auditRot := some rot } })) ∧
       (1 < n → rot % n = 0 → ∃ t, exec (.auditStart c) s = .next t ∧ (getCtx t c.val).led = { x.led with auditRot := some 1 } ∧
         Apart { s with ctxs := t.ctxs } t ∧ (∃ e, t.diag.log = (e :: s.diag.log).take 8192) ∧
         ∀ k, k ≠ c.val → getCtx t k = getCtx s k)) ∧
     (x.led.auditing = none ∨ x.led.auditCopy = true ∨ x.led.auditRot ≠ none ∨ x.st ≠ .opened → Leads (.auditStart c) s s) ∧
     (∀ (gs : List Bytes) (d : Bytes), (∀ g ∈ gs, g.length = 32) → d.length = 32 →
       (∀ step k, x.led.auditing = some step → x.led.auditRot = some k →
         (gs = x.led.auditGrads → d = x.led.auditDigest →
           Leads (.auditComplete c gs d) s (setCtx s c.val { x with led := { endAudit x.led with lastAudit := some step } })) ∧
         (gs ≠ x.led.auditGrads ∨ d ≠ x.led.auditDigest → ∃ t, exec (.auditComplete c gs d) s = .next t ∧
           (getCtx t c.val).led = endAudit x.led ∧ t.mem = s.mem ∧ t.slots = s.slots ∧ t.hub.coreMap = s.hub.coreMap ∧
           (∀ n ∈ partCores s x.part, t.hub.slotTesting.contains (physOf s n) = true) ∧ ∀ k, k ≠ c.val → getCtx t k = getCtx s k)) ∧
       (x.led.auditing = none ∨ x.led.auditRot = none → Leads (.auditComplete c gs d) s s)))

/-- R367 to R370, R358: a configuration session prepares the copy that is not in force. CFG_BEGIN copies the one in force into it, nothing
while only the factory regions apply, and holds the session, of which there is one: while one is held it is STATE_CONFLICT. CFG_WRITE of the
holder changes bytes of a user region of it; it is DENIED for a factory region and for the module type that the host would change, BAD_ARG
for a region, a length or a range out of bounds. CFG_COMMIT of the holder checks every region, is BAD_ARG with the first bad one as
DETAIL, else gives the copy the next generation and ends the session; with ABANDON = 1 it ends it without, above 1 it is BAD_ARG. Both are
STATE_CONFLICT for any other mailbox. The timeout ends the session. CFG_READ answers the bytes of a copy, of a factory region or of what is
in force, and is BAD_ARG out of bounds. Every command of the holder keeps the session alive. The copy in force never changes. -/
def Obligations.ConfigurationSessions : Prop :=
  ∀ (r : Req) (s : State) (mine : Prop), (mine ↔ ∃ q, s.mail.session = some q ∧ q.mbx = r.mbx.val) →
    (Ready 0x0501 setUp r s →
      (s.mail.session = none → ∃ t, exec (.cfgBegin r) s = .next t ∧ Answers s t r 0x0501 0x00 (leBytes 4 (genInForce s).toNat) ∧
        t.mail.session = some { mbx := r.mbx.val, last := s.ticks } ∧
        (staleCopy t).data = (if s.hub.cfgDefault then Vector.replicate 6 [] else (copyInForce s).data) ∧
        (staleCopy t).headerOk = false ∧ copyInForce t = copyInForce s ∧ Apart s t) ∧
      (s.mail.session ≠ none → ConflictsTo (.cfgBegin r) s (takenUp r 0x0501 s) r 0x0501 0x06 1 0x1)) ∧
    (∀ (g : BitVec 8) (off : BitVec 32) (d : Bytes) (m : Memory), Ready 0x0502 setUp r s → d.length ≤ 4056 →
      m = memWrite ((staleCopy s).data.getD (g.toNat - 2) []) off.toNat d →
      (s.mail.session = none → ConflictsTo (.cfgWrite r g off d) s (takenUp r 0x0502 s) r 0x0502 0x06 0 0x2) ∧
      (s.mail.session ≠ none → ¬ mine → ConflictsTo (.cfgWrite r g off d) s (takenUp r 0x0502 s) r 0x0502 0x06 1 0x1) ∧
      (mine →
        (g.toNat < 2 → RefusesTo (.cfgWrite r g off d) s (takenUp r 0x0502 s) r 0x0502 0x04 0) ∧
        (2 ≤ g.toNat → 8 ≤ g.toNat ∨ d = [] ∨ 4000 < d.length ∨ regionLen g.toNat < off.toNat + d.length →
          RefusesTo (.cfgWrite r g off d) s (takenUp r 0x0502 s) r 0x0502 0x03 0) ∧
        (2 ≤ g.toNat → g.toNat ≤ 7 → d ≠ [] → d.length ≤ 4000 → off.toNat + d.length ≤ regionLen g.toNat →
          (g = 7 → off.toNat < 4 → r.mbx.val < 16 → memRead m 0 4 ≠ fit 4 s.mail.cal →
            RefusesTo (.cfgWrite r g off d) s (takenUp r 0x0502 s) r 0x0502 0x04 0) ∧
          (g ≠ 7 ∨ 4 ≤ off.toNat ∨ 16 ≤ r.mbx.val ∨ memRead m 0 4 = fit 4 s.mail.cal → ∃ t, exec (.cfgWrite r g off d) s = .next t ∧
            Answers s t r 0x0502 0x00 [] ∧ (staleCopy t).data.getD (g.toNat - 2) [] = m ∧
            (∀ i, i ≠ g.toNat - 2 → (staleCopy t).data.getD i [] = (staleCopy s).data.getD i []) ∧
            t.mail.session = (takenUp r 0x0502 s).mail.session ∧ copyInForce t = copyInForce s ∧ Apart s t)))) ∧
    (∀ a : BitVec 8, Ready 0x0503 setUp r s →
      (s.mail.session = none → ConflictsTo (.cfgCommit r a) s (takenUp r 0x0503 s) r 0x0503 0x06 0 0x2) ∧
      (s.mail.session ≠ none → ¬ mine → ConflictsTo (.cfgCommit r a) s (takenUp r 0x0503 s) r 0x0503 0x06 1 0x1) ∧
      (mine →
        (a = 0 → badRegion s (staleCopy s) = none → ∃ t, exec (.cfgCommit r a) s = .next t ∧
          Answers s t r 0x0503 0x00 (leBytes 4 (genInForce s + 1).toNat) ∧ t.mail.session = none ∧
          (staleCopy t).gen = genInForce s + 1 ∧ (staleCopy t).headerOk = true ∧ (staleCopy t).data = (staleCopy s).data ∧
          copyInForce t = copyInForce s ∧ Apart s t) ∧
        (∀ g, a = 0 → badRegion s (staleCopy s) = some g → RefusesTo (.cfgCommit r a) s (takenUp r 0x0503 s) r 0x0503 0x03 g) ∧
        (a = 1 → ∃ t, exec (.cfgCommit r a) s = .next t ∧ Answers s t r 0x0503 0x00 (leBytes 4 (genInForce s).toNat) ∧
          t.mail.session = none ∧ staleCopy t = staleCopy s ∧ copyInForce t = copyInForce s ∧ Apart s t) ∧
        (2 ≤ a.toNat → RefusesTo (.cfgCommit r a) s (takenUp r 0x0503 s) r 0x0503 0x03 0))) ∧
    Leads .cfgSessionTimeout s { s with mail := { s.mail with session := none } } ∧
    (∀ (src g : BitVec 8) (off : BitVec 32) (n : BitVec 16) (b : Bytes), Ready 0x0504 setAny r s →
      b = (if g = 7 then s.mail.cal else inForceBytes s) →
      (3 ≤ src.toNat ∨ 8 ≤ g.toNat ∨ n = 0 ∨ 4000 < n.toNat ∨ src = 2 ∧ b.length < off.toNat + n.toNat ∨
          src.toNat < 2 ∧ regionLen g.toNat < off.toNat + n.toNat →
        RefusesTo (.cfgRead r src g off n) s (takenUp r 0x0504 s) r 0x0504 0x03 0) ∧
      (1 ≤ n.toNat → n.toNat ≤ 4000 → g.toNat < 8 →
        (src = 2 → off.toNat + n.toNat ≤ b.length →
          Serves (.cfgRead r src g off n) s (takenUp r 0x0504 s) r 0x0504 0x00 (slice b off.toNat n.toNat)) ∧
        (src.toNat < 2 → off.toNat + n.toNat ≤ regionLen g.toNat →
          Serves (.cfgRead r src g off n) s (takenUp r 0x0504 s) r 0x0504 0x00
            (if g.toNat < 2 then (List.range n.toNat).map fun i => Config.factoryByte g.toNat (off.toNat + i)
             else memRead ((if src = 0 then s.mail.copyA else s.mail.copyB).data.getD (g.toNat - 2) []) off.toNat n.toNat))))

/-- R371, R440, R372: an image is staged, then verified. UPDATE_WRITE lays its bytes over the staging copy and takes the verified mark
away; UPDATE_VERIFY marks an image that passes every check of R440 and answers its version, and DENIES one that does not; both are BUSY for
a type that is being activated; UPDATE_STATUS answers phase, counts and result. The image in force stays. A type, length or range out of
bounds is BAD_ARG. R373 to R377, R441: activation. A type or a window out of range is BAD_ARG, an image that is not verified is DENIED. The
security core's image, and the Belfry's while the device is FENCED, is in force from the next device reset, with its floor raised at once;
else the Belfry's waits for its moment and then begins the handoff; microcode and PHY firmware begin their rollout over the cores and
ports in service. A port that rolls over trains with the new firmware, one of its group at a time; one that fails to train rolls the whole
activation back; without a rollout, while the device is RECOVERING, and for a port that is not to be rolled over now, nothing happens.
Premises: no other activation is in progress when one begins or an image is staged; some unit can begin at once; the retry buffer of a
port that rolls over is empty. -/
def Obligations.ImagesAreUpdated : Prop :=
  (∀ (r : Req) (ty : BitVec 8) (s : State) (i : Image), i = getImage s ty.toNat → s.hub.actReq = none →
     (∀ (off : BitVec 32) (d : Bytes), Ready 0x0510 setAny r s → d.length ≤ 4056 →
       (4 ≤ ty.toNat ∨ d = [] ∨ 4000 < d.length ∨ imageLen ty.toNat < off.toNat + d.length →
         Refuses (.updateWrite r ty off d) s r 0x0510 0x03 0) ∧
       (ty.toNat < 4 → d ≠ [] → d.length ≤ 4000 → off.toNat + d.length ≤ imageLen ty.toNat →
         (activating s ty.toNat = false → ∃ t, exec (.updateWrite r ty off d) s = .next t ∧ Answers s t r 0x0510 0x00 [] ∧
           Settled { s with mail := { s.mail with images := t.mail.images } } t ∧ (getImage t ty.toNat).verified = false ∧
           (getImage t ty.toNat).phase = 1 ∧ (getImage t ty.toNat).version = i.version ∧ (getImage t ty.toNat).copyB = i.copyB ∧
           (∀ k, k < d.length → (getImage t ty.toNat).staged.getD (off.toNat + k) 0 = d.getD k 0) ∧
           (off ≠ 0 → ∀ k, k < off.toNat → k < i.staged.length → (getImage t ty.toNat).staged.getD k 0 = i.staged.getD k 0) ∧
           ∀ k, k ≠ ty.toNat → k ≠ 2 → getImage t k = getImage s k) ∧
         (activating s ty.toNat = true → Refuses (.updateWrite r ty off d) s r 0x0510 0x01 0))) ∧
     (∀ ok : Bool, Ready 0x0511 setAny r s →
       (4 ≤ ty.toNat → Refuses (.updateVerify r ty ok) s r 0x0511 0x03 0) ∧
       (ty.toNat < 4 → activating s ty.toNat = true → Refuses (.updateVerify r ty ok) s r 0x0511 0x01 0) ∧
       (ty.toNat < 4 → activating s ty.toNat = false →
         (imageOk s ty.toNat i.staged ok = true → ∃ t, exec (.updateVerify r ty ok) s = .next t ∧
           Answers s t r 0x0511 0x00 (slice i.staged 8 4) ∧ (getImage t ty.toNat).verified = true ∧ (getImage t ty.toNat).phase = 2 ∧
           (getImage t ty.toNat).stagedVer.toNat = leNat (slice i.staged 8 4) ∧ (getImage t ty.toNat).version = i.version ∧
           (getImage t ty.toNat).staged = i.staged ∧ Apart s t) ∧
         (imageOk s ty.toNat i.staged ok = false → Refuses (.updateVerify r ty ok) s r 0x0511 0x04 0))) ∧
     imageOk s ty.toNat i.staged false = false ∧
     (Ready 0x0513 setAny r s →
       (4 ≤ ty.toNat → Refuses (.updateStatus r ty) s r 0x0513 0x03 0) ∧
       (ty.toNat < 4 → Serves (.updateStatus r ty) s s r 0x0513 0x00
         ([i.phase] ++ leBytes 2 i.done.toNat ++ leBytes 2 i.pending.length ++ [i.result])))) ∧
  (∀ (r : Req) (w : BitVec 32) (s : State), s.hub.actReq = none →
     (∀ ty : BitVec 8, Ready 0x0512 (activateSet ty) r s →
       (4 ≤ ty.toNat ∨ w = 0 ∨ 10000 < w.toNat → Refuses (.updateActivate r ty w) s r 0x0512 0x03 0) ∧
       (ty.toNat < 4 → 1 ≤ w.toNat → w.toNat ≤ 10000 →
         ((getImage s ty.toNat).verified = false → Refuses (.updateActivate r ty w) s r 0x0512 0x04 0) ∧
         ((getImage s ty.toNat).verified = true → ty = 0 ∨ ty = 1 ∧ devNow s = .fenced → ∃ t, exec (.updateActivate r ty w) s = .next t ∧
           Answers s t r 0x0512 0x00 [] ∧ (getImage t ty.toNat).atReset = true ∧
           (getImage t ty.toNat).version = (getImage s ty.toNat).version ∧
           (getImage t ty.toNat).floor.toNat = max (getImage s ty.toNat).floor.toNat (getImage s ty.toNat).stagedFloor.toNat ∧
           (getImage t ty.toNat).result = 1 ∧ t.mem = s.mem ∧ t.ctxs = s.ctxs ∧ t.slots = s.slots) ∧
         ((getImage s ty.toNat).verified = true →
           (ty = 1 → devNow s ≠ .fenced → s.hub.handoff = false → ∃ t, exec (.updateActivate r ty w) s = .next t ∧
             t.hub.actReq = some (r, 1, s.ticks + w.toNat * 4000000) ∧ t.hub.updating = true ∧ t.hub.dev = .updating ∧
             t.hub.handoff = handoffMoment s ∧ (handoffMoment s = true → (getImage t 1).phase = 0x10) ∧ t.mem = s.mem ∧
             t.ctxs = s.ctxs ∧ t.slots = s.slots) ∧
           (ty = 2 → (∃ n, n < 128 ∧ inService s n = true ∧ hasSpare s n = true) → ∃ t, exec (.updateActivate r ty w) s = .next t ∧
             t.hub.actReq = some (r, 2, s.ticks + w.toNat * 4000000) ∧ (getImage t 2).phase = 0x20 ∧
             (getImage t 2).pending = (List.range 128).filter (inService s) ∧ t.hub.updating = true ∧ t.mem = s.mem ∧
             t.ctxs = s.ctxs ∧ t.slots = s.slots) ∧
           (ty = 3 → rollable s (upPorts s) ≠ [] → ∃ t, exec (.updateActivate r ty w) s = .next t ∧
             t.hub.actReq = some (r, 3, s.ticks + w.toNat * 4000000) ∧ (getImage t 3).phase = 0x30 ∧
             (getImage t 3).pending = upPorts s ∧ t.hub.updating = true ∧ t.fab = s.fab ∧ t.mem = s.mem ∧ t.ctxs = s.ctxs))))) ∧
  (∀ (r : Req) (p : Port) (till : Nat) (s : State), s.hub.actReq = some (r, 3, till) →
     (recovering s = false → (getImage s 3).pending.contains p.val = true →
         (∀ v, v < portCount s → v / 4 = p.val / 4 → (getPort s v).st ≠ .training) → (rollable s (getImage s 3).pending).contains p.val = true →
         (getPort s p.val).buf = [] →
       (∃ t, exec (.phyRollPort p true) s = .next t ∧ Apart s t ∧
         (getPort t p.val).st = .training ∧ (getPort t p.val).phyNew = true ∧
         (getImage t 3).pending = (getImage s 3).pending.erase p.val ∧ (getImage t 3).done = (getImage s 3).done + 1) ∧
       (∃ t, exec (.phyRollPort p false) s = .next t ∧ Apart s t ∧ (getPort t p.val).st = .training ∧ (getPort t p.val).phyNew = false ∧
         (getImage t 3).result = 2 ∧ (getImage t 3).verified = false ∧ (getImage t 3).version = (getImage s 3).version ∧
         t.hub.actReq = none ∧ Answers s t r 0x0512 0x00 [])) ∧
     (recovering s = true ∨ (getImage s 3).pending.contains p.val = false ∨
         (∃ v, v < portCount s ∧ v / 4 = p.val / 4 ∧ (getPort s v).st = .training) → ∀ ok, Leads (.phyRollPort p ok) s s)) ∧
  (∀ (p : Port) (ok : Bool) (s : State), (∀ r till, s.hub.actReq ≠ some (r, 3, till)) → Leads (.phyRollPort p ok) s s)

/-- R359, R396, R399, R401: LOG_READ answers the entries of its log, the error log or (FROM bit 31) the Knell log, from FROM on, the
oldest first, as many as MAX and the body allow; DUMP_READ and LIFETIME_READ answer their bytes of the crash dump and of the lifetime
record. A count or a range out of bounds is BAD_ARG. Nothing else changes. R397, R400, R392: what the Belfry does on its own while it
serves. New log entries reach the flash log without the bodies that a session guards; a dump that has not been copied reaches the
flash slots, of which there are two; the lifetime record is written with the next sequence number, each hour with the counters of the
ports, and for an event at most once a minute; HUB_CHIME advances by one. While the Belfry does not serve none of it happens. -/
def Obligations.RecordsAreKeptAndRead : Prop :=
  (∀ (r : Req) (s : State),
     (∀ (from' : BitVec 32) (max : BitVec 16), Ready 0x0601 setAny r s →
       (max = 0 → Refuses (.logRead r from' max) s r 0x0601 0x03 0) ∧
       (max ≠ 0 → from'.getLsbD 31 = false → Serves (.logRead r from' max) s s r 0x0601 0x00
         (((s.diag.log.filter fun e => seqFrom (e.eseq.toNat % 2 ^ 31) (from'.toNat % 2 ^ 31)).reverse.take (min max.toNat 63)).flatMap
           fun e => logBytes (logSeen none e))) ∧
       (max ≠ 0 → from'.getLsbD 31 = true → Serves (.logRead r from' max) s s r 0x0601 0x00
         (((((List.range s.diag.knellLog.length).zip s.diag.knellLog).filter fun q =>
             seqFrom ((s.diag.knellCount - 1 - q.1) % 2 ^ 31) (from'.toNat % 2 ^ 31)).reverse.take (min max.toNat 127)).flatMap
           fun q => knellBytes q.2))) ∧
     (∀ (off : BitVec 32) (n : BitVec 16), Ready 0x0602 setAny r s →
       (1 ≤ n.toNat → n.toNat ≤ 4064 → off.toNat + n.toNat ≤ 1118208 →
         Serves (.dumpRead r off n) s s r 0x0602 0x00 (slice (s.diag.dump.getD []) off.toNat n.toNat)) ∧
       (n = 0 ∨ 4064 < n.toNat ∨ 1118208 < off.toNat + n.toNat → Refuses (.dumpRead r off n) s r 0x0602 0x03 0)) ∧
     (∀ (off : BitVec 32) (n : BitVec 16), Ready 0x0603 setAny r s →
       (1 ≤ n.toNat → n.toNat ≤ 4064 → off.toNat + n.toNat ≤ 8192 →
         Serves (.lifetimeRead r off n) s s r 0x0603 0x00 (slice (lifeBytes s.diag) off.toNat n.toNat)) ∧
       (n = 0 ∨ 4064 < n.toNat ∨ 8192 < off.toNat + n.toNat → Refuses (.lifetimeRead r off n) s r 0x0603 0x03 0))) ∧
  (∀ s : State,
     (belfryUp s = true →
       Leads .logFlush s { s with diag := { s.diag with
         flushed := s.diag.eseq
         flashLog := ((s.diag.log.take (s.diag.eseq - s.diag.flushed).toNat).map (logSeen none) ++ s.diag.flashLog).take 30720 } } ∧
       (∀ b, s.diag.dump = some b → s.diag.dumpPending = true → Leads .dumpFlashCopy s
         { s with diag := { s.diag with flashDump := (b :: s.diag.flashDump).take 2, dumpPending := false } }) ∧
       (s.diag.pom % 60 ≠ 0 → s.diag.lifeDirty = true → (∀ a, s.diag.lifeAt = some a → a + 240000000000 ≤ s.ticks) →
         Leads .lifetimeWrite s { s with diag := { s.diag with
           wseq := s.diag.wseq + 1, lifeDirty := false, lifeAt := some s.ticks
           flashLife := (mapSet s.diag.life 0x10 s.diag.pom :: s.diag.flashLife).take 4 } }) ∧
       (s.diag.pom % 60 = 0 → ∃ t, exec .lifetimeWrite s = .next t ∧ t.diag.wseq = s.diag.wseq + 1 ∧ t.diag.lifeDirty = false ∧
         t.diag.flashLife = (mapSet t.diag.life 0x10 s.diag.pom :: s.diag.flashLife).take 4 ∧
         (∀ p, p < portCount s → mapGet t.diag.life (0x1400 + 24 * p) 0 = mapGet s.diag.life (0x1400 + 24 * p) 0 +
           ((getPort s p).fecCorr - (getPort s p).lifeCorr).toNat ∧ (getPort t p).lifeCorr = (getPort s p).fecCorr) ∧
         t.mem = s.mem ∧ t.ctxs = s.ctxs) ∧
       (s.hub.bootRom = false → s.hub.dev ≠ .cold → s.hub.dev ≠ .booting →
         Leads .chime s { s with hub := { s.hub with chime := s.hub.chime + 1 } })) ∧
     (AtRest s → belfryUp s = false → exec .logFlush s = .next s ∧ exec .dumpFlashCopy s = .next s ∧
       exec .lifetimeWrite s = .next s ∧ exec .chime s = .next s ∧ exec .health s = .next s) ∧
     (AtRest s → s.diag.dumpPending = false → exec .dumpFlashCopy s = .next s) ∧
     (AtRest s → s.diag.pom % 60 ≠ 0 →
       s.diag.lifeDirty = false ∨ (∃ a, s.diag.lifeAt = some a ∧ s.ticks < a + 240000000000) → exec .lifetimeWrite s = .next s))

/-- R402: the health score moves with its hysteresis: any total of 20 is WATCH; two totals of 20, or one of 60, SUSPECT; and after
an hour of calm the state goes one step back. Nothing outside the record and the notices moves. R359, R404, R128, R386, R402, R21:
SELFTEST of a core answers PASS, or FAIL and the slot, which is then to be retired; of a core out of service it is FENCED. The
clearance self-test answers PASS, or FAIL and the units; it bumps every generation and counts, and one that every unit passes makes
the module HEALTHY again. It is STATE_CONFLICT while a context is open. A field out of range is BAD_ARG. A slot that has been tested
comes back to work or to the spares, or is to be retired, and one that is not in test is left alone (R383, R25). -/
def Obligations.HealthAndSelfTestsDecide : Prop :=
  (∀ s : State, belfryUp s = true → ∃ t, exec .health s = .next t ∧ Apart s t ∧ t.fab = s.fab ∧
     (s.diag.health = .healthy → t.diag.health = (if 1 ≤ evidOver s 20 then .watch else .healthy)) ∧
     (s.diag.health = .watch → 2 ≤ evidOver s 20 ∨ 1 ≤ evidOver s 60 → t.diag.health = .suspect) ∧
     (s.diag.health = .watch → evidOver s 20 < 2 → evidOver s 60 = 0 → t.diag.health =
       (if evidOver s 10 = 0 ∧ s.diag.calmWatch + 14400000000000 ≤ s.ticks then .healthy else .watch)) ∧
     (s.diag.health = .suspect → t.diag.health =
       (if evidOver s 20 = 0 ∧ evidOver s 10 ≤ 1 ∧ s.diag.calmSince + 14400000000000 ≤ s.ticks then .watch else .suspect))) ∧
  (∀ (s : State),
     (∀ (r : Req) (core : BitVec 8) (failing : List (Fin 272)), Ready 0x0604 setLive r s →
       (core.toNat < 128 → inService s core.toNat = true → physOf s core.toNat < 136 →
         ((failing.map (·.val)).contains (physOf s core.toNat) = false → Serves (.selftest r 0 core failing) s s r 0x0604 0x00 [0, 0]) ∧
         ((failing.map (·.val)).contains (physOf s core.toNat) = true → mapGet? s.hub.retire (physOf s core.toNat) = none →
           Serves (.selftest r 0 core failing) s { s with hub := { s.hub with retire := mapSet s.hub.retire (physOf s core.toNat) 0 } }
             r 0x0604 0x00 ([1, 1] ++ leBytes 2 (physOf s core.toNat)))) ∧
       (core.toNat < 128 → inService s core.toNat = false → Refuses (.selftest r 0 core failing) s r 0x0604 0x08 0) ∧
       (128 ≤ core.toNat → Refuses (.selftest r 0 core failing) s r 0x0604 0x03 0) ∧
       ((∀ c, c < 64 → (getCtx s c).st = .closed) → ∃ t, exec (.selftest r 1 core failing) s = .next t ∧
         Answers s t r 0x0604 0x00 (resultBody (failing.map (·.val))) ∧ t.slots = s.slots ∧ t.fab = s.fab ∧
         (∀ c, c < 64 → getCtx t c = { getCtx s c with cgen := (getCtx s c).cgen + 1 }) ∧
         (failing = [] → t.diag.health = .healthy ∧ (∀ k, evidTotal t k = 0) ∧ t.mem = s.mem ∧
           mapGet t.diag.life 0x3C 0 = mapGet s.diag.life 0x3C 0 + 1) ∧
         (failing ≠ [] → mapGet t.diag.life 0x3E 0 = mapGet s.diag.life 0x3E 0 + 1)) ∧
       ((∃ c, c < 64 ∧ (getCtx s c).st ≠ .closed) → Conflicts (.selftest r 1 core failing) s r 0x0604 5 1 0) ∧
       (∀ k : BitVec 8, 2 ≤ k.toNat → Refuses (.selftest r k core failing) s r 0x0604 0x03 0)) ∧
     (∀ (p : PSlot) (n : Nat), s.hub.slotTesting.contains p.val = true → servedBy s p.val = some n → NoneBlocked s n →
       Leads (.selftestComplete p true) s { s with hub := { s.hub with slotTesting := s.hub.slotTesting.erase p.val } } ∧
       (mapGet? s.hub.retire p.val = none → Leads (.selftestComplete p false) s
         { s with hub := { s.hub with slotTesting := s.hub.slotTesting.erase p.val, retire := mapSet s.hub.retire p.val 0 } })) ∧
     (∀ p : PSlot, s.hub.slotTesting.contains p.val = true → servedBy s p.val = none →
       (∀ n, n < 128 → (coreEntry s n).status ≠ .testing) →
       Leads (.selftestComplete p true) s { s with hub := { s.hub with
         slotTesting := s.hub.slotTesting.erase p.val, mapGen := s.hub.mapGen + 2, capGen := s.hub.mapGen + 2 } } ∧
       ∃ t, exec (.selftestComplete p false) s = .next t ∧ t.hub.slotRetired.contains p.val = true ∧
         t.hub.mapGen = s.hub.mapGen + 2 ∧ t.diag.wseq = s.diag.wseq + 1 ∧ t.hub.coreMap = s.hub.coreMap ∧ t.slots = s.slots ∧
         t.mem = s.mem ∧ t.ctxs = s.ctxs) ∧
     (∀ (p : PSlot) (ok : Bool), s.hub.slotTesting.contains p.val = false → AtRest s → exec (.selftestComplete p ok) s = .next s))

/-- R405: RIMSHOT arms an injection in a place that is free, for its launch time; with sixteen that still act it is NO_RESOURCE,
with debug disabled or a confidential target DENIED, with a descriptor out of range BAD_ARG, with a logical core that is not in
service for target FENCED (R21). At its time it fires: the transmitters of the port are mute, the byte of the stage buffer is another,
the sequencer stands, or its effect waits for the event it changes; until then it stays armed, and a repetition waits for its
interval. (Premise for a byte of the stage buffer: the buffer is in canonical form.) The end of its duration lets the port train and the sequencer go on; on an injection without a lasting effect it does
nothing. -/
def Obligations.InjectionsFire : Prop :=
  ∀ (s : State),
    (∀ (r : Req) (d : Injection), Ready 0x0605 setLive r s →
      (dbgEn s = true → injectOk s d = true → injectGone s d = false → ((injectPart s d).map (isConf s)).getD false = false →
        ((∃ i, i < 16 ∧ injectAt s i = none) → ∃ t i, exec (.rimshot r d) s = .next t ∧ Answers s t r 0x0605 0x00 [] ∧ i < 16 ∧
          Settled { s with diag := { s.diag with inject := t.diag.inject } } t ∧
          (∀ a, injectAt s i = some a → injectSpent s a = true) ∧
          injectAt t i = some { d := d, time := some (armTime s (d.tFire.setWidth 40)), fired := 0, nextAt := 0, active := 0, attrib := none } ∧
          ∀ j, j ≠ i → injectAt t j = injectAt s j) ∧
        ((∀ i, i < 16 → ∃ a, injectAt s i = some a ∧ injectSpent s a = false) → Refuses (.rimshot r d) s r 0x0605 0x05 0)) ∧
      (dbgEn s = false → Refuses (.rimshot r d) s r 0x0605 0x04 0) ∧
      (dbgEn s = true → injectOk s d = false → Refuses (.rimshot r d) s r 0x0605 0x03 0) ∧
      (dbgEn s = true → injectOk s d = true → injectGone s d = true → Refuses (.rimshot r d) s r 0x0605 0x08 0) ∧
      (∀ p, dbgEn s = true → injectOk s d = true → injectGone s d = false → injectPart s d = some p → isConf s p = true →
        Refuses (.rimshot r d) s r 0x0605 0x04 0)) ∧
    (∀ (n : Fin 16) (a : Armed16) (w : Armed), injectAt s n.val = some a → a.time = some w →
      ((evalArmed s w).1 ≠ .wait → ∃ t b, exec (.rimshotFire n) s = .next t ∧ injectAt t n.val = some b ∧ b.d = a.d ∧
        b.time = none ∧ b.fired = a.fired + 1 ∧ b.attrib = some s.ticks ∧ t.mem = s.mem ∧ t.ctxs = s.ctxs ∧
        ((evalArmed s w).1 = .late → t.time.lateLaunch = s.time.lateLaunch + 1) ∧
        (∀ j, j ≠ n.val → injectAt t j = injectAt s j) ∧
        (a.d.kind = 7 → a.d.target.toNat < 36 → (getPort t a.d.target.toNat).muted = true ∧ t.slots = s.slots ∧
          ∀ q, q ≠ a.d.target.toNat → getPort t q = getPort s q) ∧
        (a.d.kind = 9 → (getC t a.d.target.toNat).stopped = true ∧ t.fab = s.fab) ∧
        (a.d.kind = 4 → a.d.addr.toNat < stageBytes → memoryWf (getC s a.d.target.toNat).stage = true →
          memGet (getC t a.d.target.toNat).stage a.d.addr.toNat ≠ memGet (getC s a.d.target.toNat).stage a.d.addr.toNat ∧
          (∀ k, k ≠ a.d.addr.toNat → memGet (getC t a.d.target.toNat).stage k = memGet (getC s a.d.target.toNat).stage k) ∧
          t.fab = s.fab) ∧
        (a.d.kind ≠ 4 → a.d.kind ≠ 7 → a.d.kind ≠ 9 → b.active = a.active + 1 ∧ t.fab = s.fab ∧ t.slots = s.slots)) ∧
      ((evalArmed s w).1 = .wait →
        Leads (.rimshotFire n) s (setInject s n.val { a with time := some (evalArmed s w).2 }))) ∧
    (∀ (n : Fin 16) (a : Armed16), injectAt s n.val = some a → a.time = none → AtRest s →
      a.fired = 0 ∨ a.d.count.toNat ≤ a.fired ∨ s.ticks < a.nextAt → exec (.rimshotFire n) s = .next s) ∧
    (∀ (n : Fin 16) (a : Armed16), injectAt s n.val = some a → a.active ≠ 0 →
      (a.d.kind = 7 → a.d.target.toNat < 36 → (getPort s a.d.target.toNat).st ≠ .retired → (getPort s a.d.target.toNat).buf = [] →
        ∃ t, exec (.rimshotMuteEnd n) s = .next t ∧ (getPort t a.d.target.toNat).muted = false ∧
          (getPort t a.d.target.toNat).st = .training ∧ t.mem = s.mem ∧ t.slots = s.slots) ∧
      (a.d.kind = 9 → NoneBlocked s a.d.target.toNat → Leads (.rimshotMuteEnd n) s
        (setC (setInject s n.val { a with active := 0 }) a.d.target.toNat { getC s a.d.target.toNat with stopped := false }))) ∧
    (∀ n : Fin 16, AtRest s → injectAt s n.val = none → exec (.rimshotFire n) s = .next s ∧ exec (.rimshotMuteEnd n) s = .next s) ∧
    (∀ (n : Fin 16) (a : Armed16), AtRest s → injectAt s n.val = some a → a.active = 0 ∨ (a.d.kind ≠ 7 ∧ a.d.kind ≠ 9) →
      exec (.rimshotMuteEnd n) s = .next s)

/-- R359, R409, R410, R417: SEC_CONF sets the mode of a partition with no context open. Enabled, the partition has a blank key of
its own; either way every page of it is in quarantine until it has been blanked, and disabled its session and its stream with its keys
are gone. It is DENIED with debug enabled or with no signature left, STATE_CONFLICT with a context open, UNSUPPORTED on a module
without the mode, BAD_ARG with a field out of range. The lowest page of a quarantine is blanked and leaves it; with no migration under
way (premise) all of it then reads as zeros. R433, R436 to R442: the identity key signs. SEC_ATTEST signs a fresh report once for a
nonce, which costs an index and a token, and answers the stored one, its signature and the certificate at no cost from any offset;
without a token it is BUSY, without an index NO_RESOURCE, past the end BAD_ARG. The bucket regains tokens up to 256, a tree is built
ahead, the link credential is signed once in a boot. A debug token whose signature holds enables debug, unless a partition is
confidential; any other is DENIED. -/
def Obligations.PartitionsTurnConfidentialAndSign : Prop :=
  (∀ (r : Req) (part : BitVec 8) (s : State), Ready 0x0901 setCfg r s →
     (s.opt.conf = false → ∀ e, Refuses (.secConf r part e) s r 0x0901 0x06 0) ∧
     (s.opt.conf = true → ∀ e : BitVec 8, partCount s.hub.layout ≤ part.toNat ∨ 1 < e.toNat →
       Refuses (.secConf r part e) s r 0x0901 0x03 0) ∧
     (part.toNat < partCount s.hub.layout → s.opt.conf = true → openCtxs s part.toNat ≠ [] → ∀ e : BitVec 8, e.toNat ≤ 1 →
       Conflicts (.secConf r part e) s r 0x0901 5 1 0x1) ∧
     (part.toNat < partCount s.hub.layout → s.opt.conf = true → openCtxs s part.toNat = [] →
       (dbgEn s = true ∨ lmsRemain s = 0 → Refuses (.secConf r part 1) s r 0x0901 0x04 0) ∧
       (dbgEn s = false → lmsRemain s ≠ 0 → ∃ t, exec (.secConf r part 1) s = .next t ∧ Answers s t r 0x0901 0x00 [] ∧
         isConf t part.toNat = true ∧ (∀ q, q < 4 → q ≠ part.toNat → isConf t q = isConf s q) ∧
         t.mem = { s.mem with quar := s.mem.quar.setIfInBounds part.toNat (List.range (partPages s)) } ∧
         t.sec.kb.getD part.toNat none = some s.sec.nextKey ∧ t.sec.nextKey = s.sec.nextKey + 1 ∧ t.ctxs = s.ctxs ∧ t.slots = s.slots) ∧
       (∃ t, exec (.secConf r part 0) s = .next t ∧ Answers s t r 0x0901 0x00 [] ∧
         isConf t part.toNat = false ∧ (∀ q, q < 4 → q ≠ part.toNat → isConf t q = isConf s q) ∧
         t.mem = { s.mem with quar := s.mem.quar.setIfInBounds part.toNat (List.range (partPages s)) } ∧
         t.mail.sessions.getD part.toNat none = none ∧ t.sec.ide.getLsbD part.toNat = false ∧
         t.sec.ideKeys.getD part.toNat (Vector.replicate 2 []) = Vector.replicate 2 [] ∧ t.ctxs = s.ctxs ∧ t.slots = s.slots))) ∧
  (∀ (p : Part) (s : State),
     (∀ (pg : Nat) (rest : List Nat), belfryUp s = true → s.mem.quar.getD p.val [] = pg :: rest →
       ∃ t, exec (.blankPage p) s = .next t ∧ t.mem.quar.getD p.val [] = rest ∧ t.ctxs = s.ctxs ∧ t.slots = s.slots ∧
         t.mem.pmap = s.mem.pmap ∧
         (s.mem.migs = [] → ∀ i ch byte, i < 512 → placeByte s p.val pg (4096 * i) = (ch, byte) →
           memRead t.mem.cells (cellAddr (chanPos s ch) byte) 4096 = List.replicate 4096 0) ∧
         (rest = [] → isConf s p.val = false → t.sec.kb.getD p.val none = none)) ∧
     (AtRest s → s.mem.quar.getD p.val [] = [] ∨ belfryUp s = false → exec (.blankPage p) s = .next s)) ∧
  (∀ (r : Req) (s : State),
     (∀ (nonce : Bytes) (off : BitVec 32), Ready 0x0905 setAny r s → nonce.length = 32 →
       ((∀ w, s.sec.stored = some w → w.nonce ≠ nonce) →
         (lmsRemain s ≠ 0 → s.sec.tokens ≠ 0 → ∃ t w, exec (.secAttest r nonce 0 0) s = .next t ∧
           w.nonce = nonce ∧ w.report = report s nonce s.sec.lmsNext ∧ w.sig = fit 5396 (Config.hssSign w.report s.sec.lmsNext) ∧
           t.sec.stored = some w ∧ t.sec.lmsNext = s.sec.lmsNext + 1 ∧
           t.sec.tokens = s.sec.tokens - 1 ∧ Answers s t r 0x0905 0x00 (leBytes 4 (w.report ++ identityKey).length ++
             (w.report ++ identityKey).take 4032) ∧ t.mem = s.mem ∧ t.ctxs = s.ctxs ∧ t.slots = s.slots) ∧
         (lmsRemain s ≠ 0 → s.sec.tokens = 0 → Refuses (.secAttest r nonce 0 0) s r 0x0905 0x01 0) ∧
         (lmsRemain s = 0 → Refuses (.secAttest r nonce 0 0) s r 0x0905 0x05 0) ∧
         (off ≠ 0 → Refuses (.secAttest r nonce 0 off) s r 0x0905 0x03 0) ∧ Refuses (.secAttest r nonce 1 off) s r 0x0905 0x03 0) ∧
       (∀ (obj : BitVec 8) (b : Bytes), (∃ w, s.sec.stored = some w ∧ w.nonce = nonce ∧
             (obj = 0 ∧ b = w.report ++ identityKey ∨ obj = 1 ∧ b = w.sig)) ∨ obj = 2 ∧ b = Config.identityCert →
         (off.toNat < b.length → Serves (.secAttest r nonce obj off) s s r 0x0905 0x00
           (leBytes 4 b.length ++ (b.drop off.toNat).take 4032)) ∧
         (b.length ≤ off.toNat → Refuses (.secAttest r nonce obj off) s r 0x0905 0x03 0)) ∧
       (∀ obj : BitVec 8, 3 ≤ obj.toNat → Refuses (.secAttest r nonce obj off) s r 0x0905 0x03 0)) ∧
     (∀ (boots scope : BitVec 32) (ident : Bytes), Ready 0x0909 setUp r s →
       (ident = identity → boots = s.sec.boots → anyConf s = false → Serves (.secDebugToken r ident boots scope true) s
         { s with hub := { s.hub with token := true } } r 0x0909 0x00 [1]) ∧
       (∀ ok : Bool, ok = false ∨ ident ≠ identity ∨ boots ≠ s.sec.boots ∨ anyConf s = true →
         Refuses (.secDebugToken r ident boots scope ok) s r 0x0909 0x04 0)) ∧
     Leads .signatureToken s { s with sec := { s.sec with tokens := min 256 (s.sec.tokens + 1) } } ∧
     (s.sec.treeLeft ≤ 1024 → Leads .lmsTreeBuilt s { s with sec := { s.sec with treeLeft := s.sec.treeLeft + 32768 } }) ∧
     (AtRest s → 1024 < s.sec.treeLeft → exec .lmsTreeBuilt s = .next s) ∧
     (s.sec.cred = false → s.sec.faulted = false → s.hub.dev ≠ .cold → s.sec.tokens ≠ 0 → lmsRemain s ≠ 0 →
       ∃ t, exec .linkCredentialSign s = .next t ∧ t.sec.cred = true ∧ t.sec.lmsNext = s.sec.lmsNext + 1 ∧
         t.sec.tokens = s.sec.tokens - 1 ∧ t.mem = s.mem ∧ t.ctxs = s.ctxs ∧ t.slots = s.slots ∧ t.fab = s.fab) ∧
     (AtRest s → s.sec.cred = true ∨ s.sec.faulted = true ∨ s.hub.dev = .cold ∨ s.sec.tokens = 0 ∨ lmsRemain s = 0 →
       exec .linkCredentialSign s = .next s))

/-- R421, R422, R423: a tenant session. GET_KEM answers the encapsulation key; OPEN gives a confidential partition a session in
place of the one it had, with the two keys of its ciphertext; CLOSE ends it; a SEALED request of a session, its SEQ above every one
before and its tag good, runs its inner command (any but NOTICE_GET is stated) and answers the inner response sealed; one with a SEQ
that has been used, a bad tag, or a SID of no session is DENIED and runs nothing. R424, R430, R431: SEC_READ answers words of the
registers that its partition's session may read, and is BAD_ARG for any other, DENIED outside a session. SEC_IDE_KEY keeps a key set
for the stream of the partition; a stream with keys enters the Secure state, and one that leaves it fences every open context of the
partition. -/
def Obligations.SessionsAndTenantsAreSealed : Prop :=
  (∀ (r : Req) (s : State), Ready 0x0906 setWork r s →
     Serves (.getKem r) s s r 0x0906 0x00 (fit 1568 (Config.kemKey s.sec.boots.toNat)) ∧
     (∀ (part : BitVec 8) (ct : Bytes), wellFormed (.sessOpen r part ct) = true →
       (part.toNat < partCount s.hub.layout → isConf s part.toNat = true → ∃ t w, exec (.sessOpen r part ct) s = .next t ∧
         Answers s t r 0x0906 0x00 (leBytes 4 w.sid.toNat) ∧ t.mail.sessions.getD part.toNat none = some w ∧ w.last = none ∧
         w.kReq = sessionKey s true part ct ∧ w.kRsp = sessionKey s false part ct ∧
         (∀ q, q ≠ part.toNat → t.mail.sessions.getD q none = s.mail.sessions.getD q none) ∧ Apart s t ∧ t.hub.conf = s.hub.conf) ∧
       (part.toNat < partCount s.hub.layout → isConf s part.toNat = false → Conflicts (.sessOpen r part ct) s r 0x0906 5 0 0) ∧
       (partCount s.hub.layout ≤ part.toNat → Refuses (.sessOpen r part ct) s r 0x0906 0x03 0)) ∧
     (∀ (sid : BitVec 32), sessionOf s sid = none → Refuses (.sessClose r sid) s r 0x0906 0x04 0 ∧
       ∀ n ok i c inner, wellFormed (.sealed r sid n ok i c inner) = true →
         Refuses (.sealed r sid n ok i c inner) s r 0x0906 0x04 0) ∧
     (∀ (sid : BitVec 32) (p : Part) (w : Session), sessionOf s sid = some (p, w) →
       Serves (.sessClose r sid) s { s with mail := { s.mail with sessions := s.mail.sessions.setIfInBounds p.val none } } r 0x0906 0x00 [] ∧
       (∀ n ok i c inner, wellFormed (.sealed r sid n ok i c inner) = true → seqFresh w n = false ∨ ok = false →
         Refuses (.sealed r sid n ok i c inner) s r 0x0906 0x04 0) ∧
       (∀ (n : BitVec 64) (i code : BitVec 16) (c : BitVec 8) (inner : InnerCmd) (legal : BitVec 32) (a : Answer) (q : Req) (u : State),
         wellFormed (.sealed r sid n true i c inner) = true → seqFresh w n = true → (∀ m t, inner ≠ .noticeGet m t) →
         u = { s with mail := { s.mail with sessions := s.mail.sessions.setIfInBounds p.val (some { w with last := some n }) } } →
         q = { mbx := r.mbx, path := .sealed p, seq := i, ctx := c, irq := false } → innerAnswer q inner u = (code, legal, a) →
         Serves (.sealed r sid n true i c inner) s a.st r 0x0906 0x00 (sealInner w.kRsp sid n (encodeResponse
           (innerResponse a.st q code a.status a.conflict a.detail (a.legal.getD legal) a.body)))) ∧
       (∀ (n : BitVec 64) (i : BitVec 16) (c k : BitVec 8) (key : Bytes) (u : State) (x : Response), key.length = 32 →
         seqFresh w n = true → k.toNat < 64 → (getCtx s k.toNat).st ≠ .closed → (getCtx s k.toNat).part = p.val →
         u = { s with mail := { s.mail with sessions := s.mail.sessions.setIfInBounds p.val (some { w with last := some n }) } } →
         x = { mbx := r.mbx.val, path := .sealed p, seq := i, cmd := 0x0902, status := 0, dev := BitVec.ofNat 8 (devCode (devNow s)),
               conflict := 0, detail := 0, legal := setWork, time := s.time.now, body := [] } →
         Serves (.sealed r sid n true i c (.jobKey k key)) s (setCtx u k.toNat { getCtx s k.toNat with
           sec := { (getCtx s k.toNat).sec with job := some key, jobPrev := (getCtx s k.toNat).sec.job } })
           r 0x0906 0x00 (sealInner w.kRsp sid n (encodeResponse x))))) ∧
  (∀ (r : Req) (p : Part) (s : State),
     (∀ (off : BitVec 32) (n : BitVec 16), r.path = .sealed p → Ready 0x0907 setLive r s →
       (4 ≤ n.toNat → n.toNat ≤ 3968 → n.toNat % 4 = 0 → off.toNat % 4 = 0 →
         (∀ i, i < n.toNat / 4 → readable s p.val (off.toNat + 4 * i) = true) →
         Serves (.secRead r off n) s (readRegs s (.mailbox 18) (some p.val) off.toNat (n.toNat / 4)).1 r 0x0907 0x00
           (readRegs s (.mailbox 18) (some p.val) off.toNat (n.toNat / 4)).2) ∧
       (n.toNat < 4 ∨ 3968 < n.toNat ∨ n.toNat % 4 ≠ 0 ∨ off.toNat % 4 ≠ 0 ∨
           (∃ i, i < n.toNat / 4 ∧ readable s p.val (off.toNat + 4 * i) = false) →
         Refuses (.secRead r off n) s r 0x0907 0x03 0)) ∧
     (∀ (off : BitVec 32) (n : BitVec 16), r.path = .pcie → Ready 0x0907 setLive r s → Refuses (.secRead r off n) s r 0x0907 0x04 0) ∧
     (∀ (part stream kset : BitVec 8) (keys : List Bytes), r.path = .sealed p → Ready 0x0908 setWork r s →
       wellFormed (.secIdeKey r part stream kset keys) = true →
       (s.opt.conf = false → Refuses (.secIdeKey r part stream kset keys) s r 0x0908 0x06 0) ∧
       (s.opt.conf = true → part.toNat = p.val → isConf s p.val = true → kset.toNat ≤ 1 →
         ∃ t, exec (.secIdeKey r part stream kset keys) s = .next t ∧
         Answers s t r 0x0908 0x00 [BitVec.ofNat 8 (s.sec.ide.getLsbD p.val).toNat] ∧ t.sec.ideStream.getD p.val 0 = stream ∧
         (t.sec.ideKeys.getD p.val (Vector.replicate 2 [])).getD kset.toNat [] = keys ∧ t.sec.ide = s.sec.ide ∧ t.mem = s.mem ∧ t.ctxs = s.ctxs) ∧
       (s.opt.conf = true → part.toNat ≠ p.val → Refuses (.secIdeKey r part stream kset keys) s r 0x0908 0x04 0) ∧
       (s.opt.conf = true → part.toNat = p.val → isConf s p.val = false ∨ 1 < kset.toNat →
         Refuses (.secIdeKey r part stream kset keys) s r 0x0908 0x03 0)) ∧
     (isConf s p.val = true → (∃ k < 2, (s.sec.ideKeys.getD p.val (Vector.replicate 2 [])).getD k [] ≠ []) →
       Leads (.ideStreamSecure p) s { s with sec := { s.sec with ide := s.sec.ide ||| BitVec.ofNat 4 (2 ^ p.val) } }) ∧
     (AtRest s → isConf s p.val = false ∨ (∀ k < 2, (s.sec.ideKeys.getD p.val (Vector.replicate 2 [])).getD k [] = []) →
       exec (.ideStreamSecure p) s = .next s) ∧
     (s.sec.ide.getLsbD p.val = true → ∃ t, exec (.ideLeaveSecure p) s = .next t ∧ t.sec.ide.getLsbD p.val = false ∧
       (∀ q, q < 4 → q ≠ p.val → t.sec.ide.getLsbD q = s.sec.ide.getLsbD q) ∧
       (∀ c, c < 64 → (getCtx s c).st = .opened → (getCtx s c).part = p.val → (getCtx t c).st = .fencing) ∧
       (∀ c, c < 64 → (getCtx s c).st = .closed → (getCtx t c).st = .closed)) ∧
     (AtRest s → s.sec.ide.getLsbD p.val = false → exec (.ideLeaveSecure p) s = .next s))

/-- R423, R425, R426, R277: the keys of a context come in the session of its partition. The job key goes in front of the one before;
an end-to-end key goes, with the list of its members, to the slot that is not current and waits for its switch time, at which
senders start it with counter 0; the old one is erased after. Outside a session the commands are DENIED, as for a context of another
partition; of a closed context they are STATE_CONFLICT; more members than the 256 windows that the module has are NO_RESOURCE, none
at all, or an address above 17 bits, BAD_ARG. R427, R428: the memory keys of a context rotate page by page. SEC_ROTATE gives the slot
that is not current a new key set and begins the sweep of the local pages; a page swept is marked with the other slot, and after the
last one that slot is current and the old key set is gone. Only one sweep of a partition runs: another is BUSY. The contents stay.
Premises: no context is near its bound of tag failures, and the context of a page swept has no record of a micro-batch and no step or
Peal under way. -/
def Obligations.ContextKeysAreTakenAndRotated : Prop :=
  (∀ (r : Req) (p : Part) (ctx : BitVec 8) (key : Bytes) (s : State) (c : Nat) (x : Context), key.length = 32 → c = ctx.toNat → c < 64 →
     x = getCtx s c →
     (r.path = .pcie → Ready 0x0902 setWork r s → Refuses (.secJobKey r ctx key) s r 0x0902 0x04 0) ∧
     (r.path = .sealed p → Ready 0x0902 setWork r s →
       (x.st ≠ .closed → x.part = p.val → Serves (.secJobKey r ctx key) s
         (setCtx s c { x with sec := { x.sec with job := some key, jobPrev := x.sec.job } }) r 0x0902 0x00 []) ∧
       (x.st ≠ .closed → x.part ≠ p.val → Refuses (.secJobKey r ctx key) s r 0x0902 0x04 0) ∧
       (x.st = .closed → Conflicts (.secJobKey r ctx key) s r 0x0902 5 0 0x2)) ∧
     (∀ (ts : BitVec 64) (ms : List (BitVec 32)), Ready 0x0903 setWork r s → wellFormed (.secE2eKey r ctx key ts ms) = true →
       (r.path = .pcie → Refuses (.secE2eKey r ctx key ts ms) s r 0x0903 0x04 0) ∧
       (r.path = .sealed p → x.st = .closed → Conflicts (.secE2eKey r ctx key ts ms) s r 0x0903 5 0 0x2) ∧
       (r.path = .sealed p → x.st ≠ .closed → x.part ≠ p.val → Refuses (.secE2eKey r ctx key ts ms) s r 0x0903 0x04 0) ∧
       (r.path = .sealed p → x.st ≠ .closed → x.part = p.val →
         (ms ≠ [] → ms.length + windowsHeld s c (!x.sec.e2eCur) ≤ 256 → (∀ a ∈ ms, a.toNat < 2 ^ 17) →
           Serves (.secE2eKey r ctx key ts ms) s (setCtx s c { x with sec := { x.sec with
             e2e := x.sec.e2e.setIfInBounds (!x.sec.e2eCur).toNat (some { key := key, members := ms.map fun a => a.setWidth 17 })
             e2eSwitch := some (armTime s (ts.setWidth 40)), e2eErase := false
             windows := x.sec.windows.filter fun w => w.slot != !x.sec.e2eCur } }) r 0x0903 0x00 []) ∧
         (256 < ms.length + windowsHeld s c (!x.sec.e2eCur) → Refuses (.secE2eKey r ctx key ts ms) s r 0x0903 0x05 0) ∧
         (ms.length + windowsHeld s c (!x.sec.e2eCur) ≤ 256 → ms = [] ∨ (∃ a ∈ ms, 2 ^ 17 ≤ a.toNat) →
           Refuses (.secE2eKey r ctx key ts ms) s r 0x0903 0x03 0))) ∧
     (∀ (d : Ctx) (a : Armed) (i : Instr) (u : State), d.val = c → x.sec.e2eSwitch = some a → NoLockout s →
       i = .e2eKeySwitch d ∨ i = .launchFire (.e2e d) →
       ((evalArmed s a).1 ≠ .wait → u = (if (evalArmed s a).1 = .late then countLate s else s) →
         Leads i s (setCtx u c { x with sec := { x.sec with
           e2eCur := !x.sec.e2eCur, sendCtr := 0, e2eSwitch := none
           e2eErase := (x.sec.e2e.getD x.sec.e2eCur.toNat none).isSome } })) ∧
       ((evalArmed s a).1 = .wait →
         Leads i s (setCtx s c { x with sec := { x.sec with e2eSwitch := some (evalArmed s a).2 } }))) ∧
     (∀ d : Ctx, d.val = c → x.sec.e2eErase = true → Leads (.e2eOldKeyErase d) s (setCtx s c { x with sec := { x.sec with
       e2e := x.sec.e2e.setIfInBounds (!x.sec.e2eCur).toNat none, e2eErase := false
       windows := x.sec.windows.filter fun w => w.slot == x.sec.e2eCur } })) ∧
     (∀ d : Ctx, d.val = c → AtRest s → x.sec.e2eSwitch = none → exec (.e2eKeySwitch d) s = .next s) ∧
     (∀ d : Ctx, d.val = c → x.sec.e2eErase = false → Leads (.e2eOldKeyErase d) s s)) ∧
  (∀ (p : Part) (s : State) (c : Nat) (x : Context), c < 64 → x = getCtx s c → x.part = p.val →
     (∀ (r : Req) (ctx : BitVec 8) (key : Bytes), Ready 0x0904 setWork r s → ctx.toNat = c → wellFormed (.secRotate r ctx 0 key) = true →
       (x.st ≠ .closed → r.path = .pcie ∨ r.path = .sealed p → s.opt.conf = true → isConf s p.val = true →
         (x.sec.locked = false → s.sec.sweeps.getD p.val none = none → localPages s x ≠ [] → ∃ t, exec (.secRotate r ctx 0 key) s = .next t ∧
           Answers s t r 0x0904 0x00 [] ∧ (getCtx t c).sec.rotating = true ∧ (getCtx t c).sec.epoch = x.sec.epoch ∧
           (getCtx t c).sec.keys.getD (!x.sec.epoch).toNat none = some s.sec.nextKey ∧
           (getCtx t c).sec.keys.getD x.sec.epoch.toNat none = x.sec.keys.getD x.sec.epoch.toNat none ∧
           t.sec.sweeps.getD p.val none = some { ctx := c, next := 0, total := (localPages s x).length } ∧ t.mem = s.mem ∧
           ∀ k, k ≠ c → getCtx t k = getCtx s k) ∧
         (x.sec.locked = false → s.sec.sweeps.getD p.val none ≠ none → Refuses (.secRotate r ctx 0 key) s r 0x0904 0x01 0) ∧
         (x.sec.locked = true → Refuses (.secRotate r ctx 0 key) s r 0x0904 0x04 0)) ∧
       (s.opt.conf = false → Refuses (.secRotate r ctx 0 key) s r 0x0904 0x06 0) ∧
       (s.opt.conf = true → x.st = .closed → Conflicts (.secRotate r ctx 0 key) s r 0x0904 5 0 0x2) ∧
       (s.opt.conf = true → x.st ≠ .closed → isConf s p.val = false → Refuses (.secRotate r ctx 0 key) s r 0x0904 0x03 0) ∧
       (r.path = .pcie → Refuses (.secRotate r ctx 1 key) s r 0x0904 0x04 0) ∧
       (r.path = .sealed p → x.st ≠ .closed → key.length = 32 → Serves (.secRotate r ctx 1 key) s
         (setCtx s c { x with sec := { x.sec with job := some key, jobPrev := x.sec.job } }) r 0x0904 0x00 []) ∧
       (∀ k : BitVec 8, 2 ≤ k.toNat → Refuses (.secRotate r ctx k key) s r 0x0904 0x03 0)) ∧
     (∀ (w : Sweep) (bad : List Nat), s.sec.sweeps.getD p.val none = some w → w.ctx = c → sweepFree s p.val c = true → NoLockout s →
       (∀ v, (localPages s x).find? (fun v => decide (w.next ≤ v)) = some v → x.led.st = .idle → x.peal.st = .idle → x.led.records = [] →
         ∃ t, exec (.sweepPage p bad) s = .next t ∧
         t.mem.cells = s.mem.cells ∧ (mapGet t.mem.pmap (x.pmBase.toNat + v) 0).getLsbD 11 = !x.sec.epoch ∧
         (∀ b, b < 64 → b ≠ 11 → (mapGet t.mem.pmap (x.pmBase.toNat + v) 0).getLsbD b =
           (mapGet s.mem.pmap (x.pmBase.toNat + v) 0).getLsbD b) ∧
         (∀ i, i ≠ x.pmBase.toNat + v → mapGet t.mem.pmap i 0 = mapGet s.mem.pmap i 0) ∧
         (getCtx t c).sec.epoch = (if ∃ u ∈ localPages s x, v < u then x.sec.epoch else !x.sec.epoch)) ∧
       ((localPages s x).find? (fun v => decide (w.next ≤ v)) = none → ∃ t, exec (.sweepPage p bad) s = .next t ∧
         t.mem = s.mem ∧ (getCtx t c).sec.epoch = !x.sec.epoch ∧ (getCtx t c).sec.rotating = false ∧
         (getCtx t c).sec.keys.getD x.sec.epoch.toNat none = none ∧ t.sec.sweeps.getD p.val none = none ∧
         ∀ k, k ≠ c → getCtx t k = getCtx s k)) ∧
     (∀ bad, AtRest s → NoLockout s →
       s.sec.sweeps.getD p.val none = none ∨ (∃ w, s.sec.sweeps.getD p.val none = some w ∧ w.ctx = c ∧ sweepFree s p.val c = false) →
       exec (.sweepPage p bad) s = .next s))

/-- R338, R339: a request buffer changes hands. A write of the host outside MBX_OWN is stored while the host owns the buffer;
handing it over makes OWNER DEVICE and runs the command that the buffer spells; the host releases a response that is DONE. Any other
write is dropped and counted, up to 255. In COLD nothing happens. -/
def Obligations.MailboxesChangeHands : Prop :=
  ∀ (m : Mbx) (s : State) (b : MailBox), b = getBox s m.val →
    (s.hub.dev ≠ .cold → b.owner = .host → ∀ (i : Instr) (r : Req) (img : Bytes) (u v : State), img = memRead b.req 4 4092 →
      r = headerOf m .pcie img → u = setBox s m.val { b with owner := .device } →
      commandOf u r (num img 2 2) (slice img 0x1C (min (num img 4 2) bodyMax)) = some i → exec i u = .next v →
      Leads (.mbxHandover m) s v) ∧
    (s.hub.dev ≠ .cold → b.owner ≠ .host → Leads (.mbxHandover m) s (setBox s m.val { b with drop := if b.drop = 255 then 255 else b.drop + 1 })) ∧
    (s.hub.dev ≠ .cold → b.owner = .done → Leads (.mbxRelease m) s (setBox s m.val { b with owner := .host })) ∧
    (s.hub.dev ≠ .cold → b.owner ≠ .done → Leads (.mbxRelease m) s (setBox s m.val { b with drop := if b.drop = 255 then 255 else b.drop + 1 })) ∧
    (∀ (off : Fin 8192) (d : Bytes), s.hub.dev ≠ .cold → d ≠ [] → wellFormed (.requestBufferWrite m off d) = true →
      (b.owner = .host → 4 ≤ off.val → off.val + d.length ≤ 4096 →
        Leads (.requestBufferWrite m off d) s (setBox s m.val { b with req := memWrite b.req off.val d })) ∧
      (b.owner = .device ∨ 4096 < off.val + d.length ∨ b.owner = .done ∧ 4 ≤ off.val →
        Leads (.requestBufferWrite m off d) s (setBox s m.val { b with drop := if b.drop = 255 then 255 else b.drop + 1 }))) ∧
    (b.owner = .host → exec (.requestBufferWrite m 0 [1, 0, 0, 0]) s = exec (.mbxHandover m) s) ∧
    (b.owner = .done → exec (.requestBufferWrite m 0 [0, 0, 0, 0]) s = exec (.mbxRelease m) s) ∧
    (s.hub.dev = .cold → AtRest s → exec (.mbxHandover m) s = .next s ∧ exec (.mbxRelease m) s = .next s)

/-- R36: the first read of a _LO half latches the upper half of its own pair on its own path; the next read of that _HI half on that
path returns the latched value and consumes it; with no latch it returns the live upper half. Every other pair, and every other
path, keeps what it has latched, and so it does across a read of a register that is no half. -/
def Obligations.RegisterPairsLatch : Prop :=
  ∀ (path : RegPath) (off : Word) (s : State),
    (∀ v, wideAt s none off.toNat = some v → ∃ t,
      Leads (.loRead path off) s t ∧ t.outbox = .regRead path off (v.setWidth 32) :: s.outbox ∧
      t.latches.find? (fun l => l.path == path && l.off.toNat == off.toNat) = some { path := path, off := off, hi := v.extractLsb' 32 32 } ∧
      (∀ (q : RegPath) (o : Nat), q ≠ path ∨ o ≠ off.toNat → t.latches.find? (fun l => l.path == q && l.off.toNat == o) =
        s.latches.find? (fun l => l.path == q && l.off.toNat == o)) ∧ t = { s with latches := t.latches, outbox := t.outbox }) ∧
    (∀ l, wideAt s none off.toNat = none → s.latches.find? (fun l => l.path == path && l.off.toNat + 4 == off.toNat) = some l → ∃ t,
      Leads (.hiRead path off) s t ∧ t.outbox = .regRead path off l.hi :: s.outbox ∧
      t.latches.find? (fun l => l.path == path && l.off.toNat + 4 == off.toNat) = none ∧
      (∀ (q : RegPath) (o : Nat), q ≠ path ∨ o + 4 ≠ off.toNat → t.latches.find? (fun l => l.path == q && l.off.toNat == o) =
        s.latches.find? (fun l => l.path == q && l.off.toNat == o)) ∧ t = { s with latches := t.latches, outbox := t.outbox }) ∧
    (wideAt s none off.toNat = none → s.latches.find? (fun l => l.path == path && l.off.toNat + 4 == off.toNat) = none →
      Leads (.hiRead path off) s { s with outbox := .regRead path off (regRead s none off.toNat) :: s.outbox } ∧
      Leads (.loRead path off) s { s with outbox := .regRead path off (regRead s none off.toNat) :: s.outbox } ∧
      (∀ v, 4 ≤ off.toNat → off.toNat % 4 = 0 → wideAt s none (off.toNat - 4) = some v → regRead s none off.toNat = v.extractLsb' 32 32))

/-- R12: a write to a register that only the module writes, or to no register, has no effect; a read where no register stands
returns 0. -/
def Obligations.UnnamedRegistersAreInert : Prop :=
  ∀ (off v : Word) (s : State), Leads (.registerWriteNoEffect off v) s s ∧
    (AtRest s → exec (.registerWriteNoEffect off v) s = .next s) ∧
    (0x300000 ≤ off.toNat → ∀ q, regRead s q off.toNat = 0)

/-- R393, R394: a write of the key to HUB_BELFRY_RST resets the Belfry, once in a second, which is counted and dumped; any other
write does nothing. When it comes back it serves again, with every context open where its state record was valid, and with every open
context fenced where it was not. Premises of the return: nothing waits for the Belfry. R373, R374: a handoff ends. Completed, the new
image is in force and answers its activation, and the Belfry serves; failed, the Belfry restarts with the image it had, and the handoff
is over. Premises: nothing waits for the Belfry. R378, R379, R15, R25: a compute die that is reset loses its cores, its channels'
data, its ports and its programs, and every open context of its partition is fenced; a bridge that fails resets both of its dies. The
die's return is one map change, after which the contexts it held may leave FENCED. Premise: no step, no record of a micro-batch and no
Peal is under way, and some die stays up. R383, R349, R336, R395: what cannot be drained or trusted. A core that has not drained for a
fence is reset and its logical core moves to a free spare of the die, or has none until its slot has passed; the slot goes to its
self-test. A controller that has not is reset as a channel that fails. A fault of the security core, whose mailbox is not served any
more, and an error of the retention SRAM send the device to FENCED, with every open context fenced. (Memory stays where no record of a
micro-batch is held and no Downbeat is armed or voted.) -/
def Obligations.BelfryAndDiesComeBack : Prop :=
  (∀ s : State,
     (∀ v : Word, v.extractLsb' 16 16 = 0xB311 → v.getLsbD 0 = true → s.hub.dev ≠ .cold → s.hub.dev ≠ .booting → restartRecent s = false →
       ∃ t, exec (.hubBelfryRst v) s = .next t ∧ t.hub.belfryDown = true ∧ t.hub.causeBelfry = 1 ∧
         t.hub.bCount = (if s.hub.bCount = 255 then 255 else s.hub.bCount + 1) ∧ t.hub.lastRestart = some s.ticks ∧
         mapGet t.diag.life 0x1C 0 = mapGet s.diag.life 0x1C 0 + 1 ∧ t.mem.cells = s.mem.cells ∧ t.ctxs = s.ctxs ∧
         (s.hub.low = false → t.slots = s.slots) ∧ (s.diag.dumpPending = false → t.diag.dump ≠ none ∧ t.diag.dumpPending = true)) ∧
     (∀ v : Word, AtRest s → v.extractLsb' 16 16 ≠ 0xB311 ∨ v.getLsbD 0 = false ∨ restartRecent s = true ∨ s.hub.dev = .cold ∨
         s.hub.dev = .booting →
       exec (.hubBelfryRst v) s = .next s) ∧
     (s.hub.belfryDown = true → NoLockout s → s.lcores = [] → s.diag.eventQ = [] → s.mail.deferred = [] →
       (∀ c, c < 64 → (getCtx s c).led.commitAt = none) → (getImage s 1).phase ≠ 0x11 →
       Leads (.belfryRestartComplete true) s { s with hub := { s.hub with belfryDown := false } } ∧
       ∃ t, exec (.belfryRestartComplete false) s = .next t ∧ t.hub.belfryDown = false ∧
         ((∀ c, c < 64 → (getCtx s c).led.records = [] ∧ (getCtx s c).led.st ≠ .armed ∧ (getCtx s c).led.st ≠ .voted) →
           t.mem.cells = s.mem.cells) ∧
         (∀ c, c < 64 → (getCtx s c).st = .opened → (getCtx t c).st = .fencing) ∧
         (∀ c, c < 64 → (getCtx s c).st = .closed → (getCtx t c).st = .closed)) ∧
     (AtRest s → NoLockout s → s.hub.belfryDown = false → ∀ ok, exec (.belfryRestartComplete ok) s = .next s)) ∧
  (∀ (r : Req) (till : Nat) (s : State), s.hub.handoff = true → s.hub.actReq = some (r, 1, till) →
     (NoLockout s → s.hub.belfryDown = false → s.lcores = [] → s.diag.eventQ = [] → s.mail.deferred = [] →
       (∀ c, c < 64 → (getCtx s c).led.commitAt = none) → ∃ t, exec .handoffComplete s = .next t ∧
         t.hub.handoff = false ∧ t.hub.updating = false ∧ t.hub.actReq = none ∧ Answers s t r 0x0512 0x00 [] ∧
         (getImage t 1).version = (getImage s 1).stagedVer ∧ (getImage t 1).copyB = !(getImage s 1).copyB ∧
         (getImage t 1).verified = false ∧ (getImage t 1).floor.toNat = max (getImage s 1).floor.toNat (getImage s 1).stagedFloor.toNat ∧
         t.mem = s.mem ∧ t.ctxs = s.ctxs ∧ t.slots = s.slots) ∧
     (∃ t, exec .handoffFail s = .next t ∧ t.hub.handoff = false ∧ t.hub.belfryDown = true ∧ t.hub.causeBelfry = 2 ∧
       (getImage t 1).version = (getImage s 1).version ∧ (getImage t 1).phase = 0x11 ∧ t.mem.cells = s.mem.cells ∧ t.ctxs = s.ctxs) ∧
     (∀ u : State, AtRest u → NoLockout u → u.hub.handoff = false → exec .handoffComplete u = .next u ∧ exec .handoffFail u = .next u)) ∧
  (∀ (d : Die) (s : State),
     (s.hub.dev ≠ .cold → s.hub.dev ≠ .booting → s.hub.diesDown ||| BitVec.ofNat 4 (2 ^ d.val) ≠ 0xF →
       (∀ c, c < 64 → (getCtx s c).led.st = .idle ∧ (getCtx s c).peal.st = .idle ∧ (getCtx s c).led.records = []) →
       ∃ t, exec (.computeDieReset d) s = .next t ∧ t.hub.diesDown = s.hub.diesDown ||| BitVec.ofNat 4 (2 ^ d.val) ∧
         t.hub.fenced = s.hub.fenced ∧
         (∀ p, p / 34 = d.val → getP t p = { PCore.reset with bankCap := (getP t p).bankCap, prefer := (getP t p).prefer }) ∧
         (getEngine t d.val).running = [] ∧ (getEngine t d.val).queued = [] ∧
         (∀ p, p < portCount s → p % 4 = d.val → (getPort t p).st = .down ∧ (getPort t p).buf = []) ∧
         (∀ p, p < portCount s → p % 4 ≠ d.val → getPort t p = getPort s p) ∧
         (∀ pos k, pos / 20 = d.val → k < 2 ^ 32 → memGet t.mem.cells (cellAddr pos k) = 0) ∧
         (∀ pos k, pos / 20 ≠ d.val → k < 2 ^ 32 → memGet t.mem.cells (cellAddr pos k) = memGet s.mem.cells (cellAddr pos k)) ∧
         (∀ c, c < 64 → (getCtx s c).st = .opened → (getCtx s c).part = diePart s.hub.layout d.val →
           (getCtx t c).st = .fencing ∧ (getCtx t c).domains = (getCtx s c).domains ||| BitVec.ofNat 6 (2 ^ d.val)) ∧
         (∀ c, c < 64 → (getCtx s c).st = .closed ∨ (getCtx s c).part ≠ diePart s.hub.layout d.val → getCtx t c = getCtx s c)) ∧
     (∀ e : Die, s.hub.dev ≠ .cold → s.hub.dev ≠ .booting → d ≠ e → ∃ t, exec (.bridgeFail d e) s = .next t ∧
       t.hub.diesDown = s.hub.diesDown ||| BitVec.ofNat 4 (2 ^ d.val) ||| BitVec.ofNat 4 (2 ^ e.val) ∧
       (getEngine t d.val).running = [] ∧ (getEngine t e.val).running = [] ∧
       (t.hub.diesDown = 0xF → t.hub.fenced = true)) ∧
     (AtRest s → exec (.bridgeFail d d) s = .next s) ∧
     (∀ e : Die, AtRest s → s.hub.dev = .cold ∨ s.hub.dev = .booting → exec (.computeDieReset d) s = .next s ∧ exec (.bridgeFail d e) s = .next s) ∧
     (s.hub.diesDown.getLsbD d.val = true → Leads (.dieReturn d) s { s with
       hub := { s.hub with
         diesDown := s.hub.diesDown &&& ~~~(BitVec.ofNat 4 (2 ^ d.val)), mapGen := s.hub.mapGen + 2, capGen := s.hub.mapGen + 2 }
       ctxs := s.ctxs.map fun x => { x with domains := x.domains &&& ~~~(BitVec.ofNat 6 (2 ^ d.val)) } }) ∧
     (AtRest s → s.hub.diesDown.getLsbD d.val = false → exec (.dieReturn d) s = .next s)) ∧
  (∀ s : State,
     (∀ (n : Core) (c : Ctx) (p : Nat), (getCtx s c.val).st = .fencing → inService s n.val = true → (getC s n.val).ctx = some c.val →
       coreDrained (getC s n.val) = false → p = physOf s n.val →
       (∀ q, (freeSpares s (n.val / 32)).head? = some q →
         ∃ t, exec (.drainOverrun (some n) none c) s = .next t ∧ coreEntry t n.val = { phys := q, status := .inService } ∧
           t.hub.mapGen = s.hub.mapGen + 2 ∧ t.hub.slotTesting.contains p = true ∧
           (getC t n.val).ctx = some c.val ∧ (getC t n.val).gen = (getCtx s c.val).cgen ∧ (getC t n.val).stage = [] ∧
           (getC t n.val).sems = [] ∧ (getC t n.val).copies = [] ∧ (getC t n.val).streams = Vector.replicate 16 Stream.reset ∧
           t.mem = s.mem ∧ t.ctxs = s.ctxs ∧ (∀ k, k < 128 → k ≠ n.val → coreEntry t k = coreEntry s k)) ∧
       ((freeSpares s (n.val / 32)) = [] → ∃ t, exec (.drainOverrun (some n) none c) s = .next t ∧
         coreEntry t n.val = { phys := p, status := .testing } ∧ t.hub.mapGen = s.hub.mapGen + 2 ∧
         t.hub.slotTesting.contains p = true ∧ t.mem = s.mem ∧ t.ctxs = s.ctxs)) ∧
     (∀ (h : Chan) (c : Ctx), (getCtx s c.val).st = .fencing → chanPart s h.val = (getCtx s c.val).part → migOf s h.val = none →
       exec (.drainOverrun none (some h) c) s = exec (.channelFail h) s) ∧
     (∀ (n : Option Core) (h : Option Chan) (c : Ctx), AtRest s → (getCtx s c.val).st ≠ .fencing → exec (.drainOverrun n h c) s = .next s) ∧
     (s.hub.dev ≠ .cold → s.hub.fenced = false →
       (∀ c, c < 64 → (getCtx s c).led.records = [] ∧ (getCtx s c).led.st ≠ .armed ∧ (getCtx s c).led.st ≠ .voted) →
       (∃ t, exec .securityCoreFault s = .next t ∧ t.hub.fenced = true ∧ t.hub.dev = .fenced ∧ t.sec.faulted = true ∧ t.mem.cells = s.mem.cells ∧
         ∀ c, c < 64 → (getCtx s c).st = .opened → (getCtx t c).st = .fencing) ∧
       (∃ t, exec .retentionSramError s = .next t ∧ t.hub.fenced = true ∧ t.hub.dev = .fenced ∧ t.sec.faulted = s.sec.faulted ∧
         t.mem.cells = s.mem.cells ∧ ∀ c, c < 64 → (getCtx s c).st = .opened → (getCtx t c).st = .fencing)) ∧
     (s.hub.dev = .cold → AtRest s → exec .securityCoreFault s = .next s ∧ exec .retentionSramError s = .next s))

/-- R205, R207, R384, R414, R415, R197: a controller position stores a whole block and delivers it as stored, byte for byte with its
CRC, and no other byte of module memory moves. A read with one bad symbol is corrected and counted. An operation with a generation
that is not current is discarded, as is a write with a bad CRC in a confidential partition; one at a position that does not serve the
block does nothing. A burst that fails up to four times is repeated; a fifth failure counts as uncorrectable, and what the burst
brought of the data is open. Premises: no injection stands, the slot is not the one that a migration copies next, and for the read the
partition is not confidential. -/
def Obligations.ControllersKeepBlocks : Prop :=
  ∀ (p : Pos) (j : Fin 16252928) (e : Bool) (c : Option Ctx) (g : BitVec 16) (b : Block) (s : State) (f : Fin 6),
    wellFormed (.memoryWrite p j e c g ⟨b, f⟩) = true →
    (serves s p.val j.val true = true → currentGen s (c.map (·.val)) g = true →
      (opKey s p.val (c.map (·.val)) e = none ∨ blockOk b = true) → memoryWf s.mem.cells = true →
      (∀ m ∈ s.mem.migs, (getCtrl s m.source).migPtr.toNat ≠ j.val / 16) →
      ∃ t, exec (.memoryWrite p j e c g ⟨b, f⟩) s = .next t ∧
        (∃ x : Block, (f.val < 5 → x = b) ∧ x.data.length = 256 ∧ x.crc = b.crc ∧
          (∀ junk, (readBlockAt t.mem p.val j.val (opKey s p.val (c.map (·.val)) e) junk).block = x) ∧
          memRead t.mem.cells (cellAddr p.val (j.val * 256)) 256 = x.data) ∧ memoryWf t.mem.cells = true ∧
        (∀ a, a < cellAddr p.val (j.val * 256) ∨ cellAddr p.val (j.val * 256) + 256 ≤ a →
          memGet t.mem.cells a = memGet s.mem.cells a) ∧
        (getCtrl t p.val).wr = (getCtrl s p.val).wr + 1 ∧
        (getCtrl t p.val).uncorr = (getCtrl s p.val).uncorr + (if f.val < 5 then 0 else 1) ∧
        t.mem.pmap = s.mem.pmap ∧ t.ctxs = s.ctxs ∧ t.slots = s.slots) ∧
    (serves s p.val j.val true = false ∨ currentGen s (c.map (·.val)) g = false ∨
      (∃ q, opKey s p.val (c.map (·.val)) e = some q) ∧ blockOk b = false → AtRest s → exec (.memoryWrite p j e c g ⟨b, f⟩) s = .next s) ∧
    (serves s p.val j.val false = true → currentGen s (c.map (·.val)) g = true → opKey s p.val (c.map (·.val)) e = none →
      NoInjection s → NoLockout s → ∀ d : Bytes, d = memRead s.mem.cells (cellAddr p.val (j.val * 256)) 256 →
      (∃ t x, exec (.memoryRead p j e c g [] ⟨[], f⟩) s = .next t ∧ t.mem.cells = s.mem.cells ∧ t.ctxs = s.ctxs ∧
        (f.val < 5 → x = d) ∧
        .memData p.val j.val (some { data := x, crc := crc32c d ^^^ mapGet s.mem.bad (blockKey p.val j.val) 0 }) :: s.outbox <:+ t.outbox ∧
        (getCtrl t p.val).rd = (getCtrl s p.val).rd + 1 ∧ (getCtrl t p.val).corr = (getCtrl s p.val).corr ∧
        (getCtrl t p.val).uncorr = (getCtrl s p.val).uncorr + (if f.val < 5 then 0 else 1)) ∧
      (∀ (i : Fin 260) (x : Byte), x ≠ 0 → f.val < 5 →
        ∃ t, exec (.memoryRead p j e c g [(i, x)] ⟨[], f⟩) s = .next t ∧ t.mem.cells = s.mem.cells ∧
        .memData p.val j.val (some { data := d, crc := crc32c d ^^^ mapGet s.mem.bad (blockKey p.val j.val) 0 }) :: s.outbox <:+ t.outbox ∧
        (getCtrl t p.val).corr = (getCtrl s p.val).corr + 1 ∧ (getCtrl t p.val).uncorr = (getCtrl s p.val).uncorr)) ∧
    (serves s p.val j.val false = true → currentGen s (c.map (·.val)) g = false → NoLockout s → ∀ e1 e2,
      Leads (.memoryRead p j e c g e1 ⟨e2, f⟩) s { s with outbox := .memData p.val j.val none :: s.outbox }) ∧
    (serves s p.val j.val false = false → NoLockout s → ∀ e1 e2, Leads (.memoryRead p j e c g e1 ⟨e2, f⟩) s s)

/-- R209, R210: the patrol scrub reads the block at its pointer, corrects a bad symbol, and moves to the next one of its channel,
from the last to the first; it waits while the die's slice and pool have no tokens for its class, and rests where the position is not
in service or its channel moves. A CRC failure that two good re-reads do not confirm counts as transport, one that stays bad as
memory. The contents stay. R198, R200, R211, R213: a channel moves. A due action of a channel with a free spare in its group begins a
migration; without one it waits. A slot is copied whole, byte for byte, with a bad symbol of it corrected, and the pointer moves, once
its tokens are there; when every slot is there the map names the target, in one change, and the old position reads zeros, and is a
spare again or failed. A channel that fails goes to the spare zero-filled, or in a migration to the target, and without either is
mapped out; every open context of the partition is fenced. Premises: no injection stands; memory is in canonical form; for the zeros of
a channel that fails no record of a micro-batch, no step and no Peal is under way. -/
def Obligations.MemoryIsScrubbedAndMigrates : Prop :=
  (∀ s : State, NoInjection s →
     (∀ (p : Pos) (ch : Nat) (k : Ctrl), k = getCtrl s p.val →
       (k.role = .inService → k.chan = some ch → k.scrubPtr.toNat < 1015808 → (∀ g ∈ s.mem.migs, g.source ≠ p.val) →
         ((takeTokens s (p.val / 20) 3 1).isSome = true →
           (∃ t, exec (.scrub p [] []) s = .next t ∧ t.mem.cells = s.mem.cells ∧ (getCtrl t p.val).rd = k.rd + 1 ∧
             16 * (getCtrl t p.val).scrubPtr.toNat + (getCtrl t p.val).scrubBlk.toNat =
               (16 * k.scrubPtr.toNat + k.scrubBlk.toNat + 1) % 16252928 ∧ t.ctxs = s.ctxs ∧ t.slots = s.slots) ∧
           (∀ (i : Fin 260) (x : Byte), x ≠ 0 → ∃ t, exec (.scrub p [(i, x)] []) s = .next t ∧ t.mem.cells = s.mem.cells ∧
             (getCtrl t p.val).corr = k.corr + 1)) ∧
         (takeTokens s (p.val / 20) 3 1 = none → ∀ e1 e2, Leads (.scrub p e1 e2) s (holdTokens s (p.val / 20) 3))) ∧
       (k.role ≠ .inService ∨ k.chan = none ∨ (∃ g ∈ s.mem.migs, g.source = p.val) → ∀ e1 e2, Leads (.scrub p e1 e2) s s)) ∧
     (∀ (c : Ctx) (va : BitVec 48) (part pg off ch byte pos : Nat) (e w : Bool), belfryUp s = true →
       translate s c.val va = .localPage part pg off e w → placeByte s part pg off = (ch, byte) →
       pos = servePos s ch (byte / 4096) false → pos < 80 →
       (∃ t, exec (.crcAttribution c va true true) s = .next t ∧ t.mem.cells = s.mem.cells ∧
         (getCtrl t pos).crcTransport = (getCtrl s pos).crcTransport + 1 ∧ (getCtrl t pos).crcMemory = (getCtrl s pos).crcMemory ∧
         t.ctxs = s.ctxs) ∧
       (∀ ok1 ok2 : Bool, (ok1 && ok2) = false → ∃ t, exec (.crcAttribution c va ok1 ok2) s = .next t ∧ t.mem.cells = s.mem.cells ∧
         (getCtrl t pos).crcMemory = (getCtrl s pos).crcMemory + 1 ∧ (getCtrl t pos).crcTransport = (getCtrl s pos).crcTransport)) ∧
     (∀ (c : Ctx) (va : BitVec 48), AtRest s → belfryUp s = false ∨ (∀ p g o e w, translate s c.val va ≠ .localPage p g o e w) →
       ∀ a b, exec (.crcAttribution c va a b) s = .next s)) ∧
  (∀ (ch : Chan) (s : State) (src : Nat), src = chanPos s ch.val → ch.val < chanCount s → src < 80 → NoInjection s →
     (∀ (m : Bool) (g : Nat), s.hub.chanMap.getD ch.val { ctrl := 0, status := .unmapped } = { ctrl := src % 20, status := .inService } →
       belfryUp s = true → (getCtrl s src).due = some m → posGroup s src = some g →
       (∀ tg, groupBusy s g = false → groupSpare s g = some tg → tg < 80 → src ≠ tg →
         (∃ t, exec (.migrationStart ch m true) s = .next t ∧ t.mem.cells = s.mem.cells ∧
           t.mem.migs = { chan := ch.val, source := src, target := tg, mapOut := m } :: s.mem.migs ∧ (getCtrl t src).role = .migrating ∧
           (getCtrl t tg).role = .migrating ∧ (getCtrl t src).migPtr = 0 ∧ (getCtrl t src).due = none ∧ t.ctxs = s.ctxs ∧
           t.hub.chanMap.getD ch.val { ctrl := 0, status := .unmapped } = { ctrl := src % 20, status := .migrating }) ∧
         (∃ t, exec (.migrationStart ch m false) s = .next t ∧ t.mem.cells = s.mem.cells ∧ t.mem.migs = s.mem.migs ∧
           (getCtrl t tg).role = .failed ∧ t.hub.chanMap = s.hub.chanMap)) ∧
       (groupBusy s g = true ∨ groupSpare s g = none → ∀ ok, Leads (.migrationStart ch m ok) s s)) ∧
     (∀ m ok : Bool, AtRest s → (getCtrl s src).due ≠ some m → exec (.migrationStart ch m ok) s = .next s) ∧
     (∀ g : Migration, migOf s ch.val = some g → g.source < 80 → g.target < 80 → g.source ≠ g.target →
       ((getCtrl s g.source).migPtr.toNat < 1015808 →
         (∀ l, l = [] ∨ (∃ b i x, x ≠ 0 ∧ l = [(b, i, x)]) → (takeAll (g.source / 20) 3 [8, 8, 8, 8] s).isSome = true →
           memoryWf s.mem.cells = true →
           ∃ t n, n = (getCtrl s g.source).migPtr.toNat ∧ exec (.migrationSlotCopy ⟨ch, l, []⟩) s = .next t ∧
           memRead t.mem.cells (cellAddr g.target (4096 * n)) 4096 = memRead s.mem.cells (cellAddr g.source (4096 * n)) 4096 ∧
           (∀ a, a < cellAddr g.target (4096 * n) ∨ cellAddr g.target (4096 * n) + 4096 ≤ a → memGet t.mem.cells a = memGet s.mem.cells a) ∧
           (getCtrl t g.source).migPtr.toNat = n + 1 ∧ (getCtrl t g.source).corr = (getCtrl s g.source).corr + BitVec.ofNat 32 l.length ∧
           t.ctxs = s.ctxs) ∧
         (takeAll (g.source / 20) 3 [8, 8, 8, 8] s = none → ∀ l k, Leads (.migrationSlotCopy ⟨ch, l, k⟩) s (holdTokens s (g.source / 20) 3)) ∧
         (∀ r e, Leads (.migrationComplete ch r e) s s)) ∧
       (1015808 ≤ (getCtrl s g.source).migPtr.toNat → (∀ l k, Leads (.migrationSlotCopy ⟨ch, l, k⟩) s s) ∧
         ∀ (rate : BitVec 2) (eye : Word), ∃ t, exec (.migrationComplete ch rate eye) s = .next t ∧
         t.hub.chanMap.getD ch.val { ctrl := 0, status := .unmapped } = { ctrl := g.target % 20, status := .inService } ∧
         t.hub.mapGen = s.hub.mapGen + 2 ∧ (getCtrl t g.target).chan = some ch.val ∧ (getCtrl t g.target).role = .inService ∧
         (∀ k, k < 2 ^ 32 → memGet t.mem.cells (cellAddr g.source k) = 0 ∧
           ∀ q, q ≠ g.source → memGet t.mem.cells (cellAddr q k) = memGet s.mem.cells (cellAddr q k)) ∧
         (∀ q ∈ t.mem.migs, q.chan ≠ ch.val) ∧
         (getCtrl t g.source).role = (if g.mapOut = false ∧ trainedOk rate eye = true ∧
           (recentRetrains s (getCtrl s g.source)).length < s.mem.policy.retrainLimit then .spare else .failed) ∧ t.ctxs = s.ctxs)) ∧
     (AtRest s → migOf s ch.val = none → ∀ l k r e, exec (.migrationSlotCopy ⟨ch, l, k⟩) s = .next s ∧ exec (.migrationComplete ch r e) s = .next s) ∧
     (s.hub.chanMap.getD ch.val { ctrl := 0, status := .unmapped } = { ctrl := src % 20, status := .inService } → migOf s ch.val = none →
       ∀ g, posGroup s src = some g →
       (∀ tg, groupSpare s g = some tg → tg < 80 → src ≠ tg → ∃ t, exec (.channelFail ch) s = .next t ∧
         t.hub.chanMap.getD ch.val { ctrl := 0, status := .unmapped } = { ctrl := tg % 20, status := .inService } ∧
         t.hub.mapGen = s.hub.mapGen + 2 ∧ (getCtrl t src).role = .failed ∧ (getCtrl t tg).chan = some ch.val ∧
         ((∀ c, c < 64 → (getCtx s c).led.st = .idle ∧ (getCtx s c).peal.st = .idle ∧ (getCtx s c).led.records = []) →
           ∀ k, k < 2 ^ 32 → memGet t.mem.cells (cellAddr tg k) = 0 ∧ memGet t.mem.cells (cellAddr src k) = 0) ∧
         (∀ c, c < 64 → (getCtx s c).st = .opened → (getCtx s c).part = chanPart s ch.val → (getCtx s c).led.st ≠ .commitPending →
           (getCtx t c).st = .fencing)) ∧
       (groupSpare s g = none → ∃ t, exec (.channelFail ch) s = .next t ∧ t.hub.mapGen = s.hub.mapGen + 2 ∧
         t.hub.chanMap.getD ch.val { ctrl := 0, status := .unmapped } = { ctrl := src % 20, status := .mappedOut } ∧ (getCtrl t src).role = .failed)) ∧
     (∀ g : Migration, (s.hub.chanMap.getD ch.val { ctrl := 0, status := .unmapped }).status = .migrating → migOf s ch.val = some g →
       g.target < 80 → src ≠ g.target → ∃ t, exec (.channelFail ch) s = .next t ∧
         t.hub.chanMap.getD ch.val { ctrl := 0, status := .unmapped } = { ctrl := g.target % 20, status := .inService } ∧
         (getCtrl t src).role = .failed ∧ (getCtrl t g.target).chan = some ch.val ∧ (getCtrl t g.target).role = .inService) ∧
     ((s.hub.chanMap.getD ch.val { ctrl := 0, status := .unmapped }).status = .mappedOut ∨
         (s.hub.chanMap.getD ch.val { ctrl := 0, status := .unmapped }).status = .unmapped → AtRest s → exec (.channelFail ch) s = .next s))

/-- R464, R475 to R478, R378, R386, R395, R456: a cold reset follows the loss of a rail, PWR_EN or a thermal trip, which is recorded
and keeps the module off; PERST# is a warm reset, which keeps the context generations, the logs, the contract and the configuration.
Module memory is lost in both. With the rails already down, or the level the same, a pin only shows its level. Power good, and the
release of PERST#, begin BOOTING, in which the fitted positions that have not failed train (R199). R349, R20, R199, R200, R441: BOOTING
ends in STANDBY with every logical core and every channel in service where nothing has failed and every fitted position has trained;
without a verified Belfry image it ends in FENCED, where the boot ROM serves, and with a hub self-test that fails, or no good factory
copy, in FENCED without it. Premises: no request waits, no context is open, and the hub holds nothing but its reset values. -/
def Obligations.PinsAndBootReset : Prop :=
  (∀ s : State,
     (s.pins.pgOut = true → ∀ die, ∃ t, exec (.thermtrip die) s = .next t ∧ t.hub.dev = .cold ∧ t.hub.tripped = true ∧ t.hub.causeDev = 2 ∧
       t.pins.thermtrip = false ∧ t.pins.pgOut = false ∧ t.mem = Mem.reset ∧ t.slots = [] ∧ t.pending = s.pending ∧
       mapGet t.diag.life 0x20 0 = mapGet s.diag.life 0x20 0 + 1) ∧
     (s.pins.pgOut = true → ∃ t, exec (.pwrEn false) s = .next t ∧ t.hub.dev = .cold ∧ t.pins.pwrEn = false ∧ t.pins.pgOut = false ∧
       t.hub.tripped = false ∧ t.mem = Mem.reset ∧ t.mail.copyA = s.mail.copyA ∧ t.mail.copyB = s.mail.copyB ∧
       ∀ c, c < 64 → getCtx t c = Context.reset) ∧
     Leads (.pwrEn true) s { s with pins := { s.pins with pwrEn := true } } ∧
     (s.pins.pgOut = true → ∃ t, exec (.vin54 false) s = .next t ∧ t.hub.dev = .cold ∧ t.pins.vin54 = false ∧ t.pins.pgOut = false ∧
       t.mem = Mem.reset) ∧
     Leads (.vin54 true) s { s with pins := { s.pins with vin54 := true } } ∧
     (∃ t, exec (.v12Sb false) s = .next t ∧ t.pins.v12sb = false ∧ t.pins.pgOut = false ∧ t.hub.eid = 0) ∧
     Leads (.v12Sb true) s { s with pins := { s.pins with v12sb := true, thermtrip := !s.hub.tripped } } ∧
     (s.pins.pgOut = false →
       (∀ die, Leads (.thermtrip die) s s) ∧
       Leads (.pwrEn false) s { s with
         pins := { s.pins with pwrEn := false, thermtrip := s.pins.thermtrip || s.hub.tripped }, hub := { s.hub with tripped := false } } ∧
       Leads (.vin54 false) s { s with pins := { s.pins with vin54 := false } }) ∧
     (s.pins.pwrEn = true → s.pins.vin54 = true → s.pins.v12sb = true → s.hub.tripped = false → s.pins.pgOut = false → s.hub.dev = .cold →
       (s.pins.perst = true → ∃ t, exec .pgOut s = .next t ∧ t.pins.pgOut = true ∧ t.hub.dev = .booting ∧ t.mem.cells = s.mem.cells ∧
         ∀ p, p < 80 → (posGroup s p).isSome = true → lifeFailed s p = false → (getCtrl t p).training = true) ∧
       (s.pins.perst = false → Leads .pgOut s { s with pins := { s.pins with pgOut := true } })) ∧
     (AtRest s → s.pins.pwrEn = false ∨ s.pins.vin54 = false ∨ s.pins.v12sb = false ∨ s.hub.tripped = true ∨ s.pins.pgOut = true →
       exec .pgOut s = .next s) ∧
     (∀ (q : BitVec 2) (f : Bool), s.pins.pwrEn = true → s.hub.tripped = false →
       (s.pins.pgOut = true → s.pins.perst = true → ∃ t, exec (.perst false q f) s = .next t ∧ t.hub.dev = .cold ∧ t.hub.causeDev = 1 ∧
         t.mem = Mem.reset ∧ t.slots = [] ∧ t.diag.log = s.diag.log ∧ t.pwr.con = s.pwr.con ∧ t.mail.copyA = s.mail.copyA ∧
         t.mail.copyB = s.mail.copyB ∧ t.mail.opSecret = s.mail.opSecret ∧ t.pending = s.pending ∧
         ∀ c, c < 64 → getCtx t c = { Context.reset with cgen := (getCtx s c).cgen }) ∧
       (s.pins.pgOut = true → s.pins.perst = false → s.hub.dev = .cold → ∃ t, exec (.perst true q f) s = .next t ∧ t.hub.dev = .booting ∧
         t.pins.perst = true ∧ t.pins.profSel = q ∧ t.pins.forceSafe = f ∧ t.mem.cells = s.mem.cells ∧ t.ctxs = s.ctxs) ∧
       (s.pins.pgOut = false → s.pins.perst = true → Leads (.perst false q f) s { s with pins := { s.pins with perst := false } }) ∧
       (s.pins.pgOut = false → s.pins.perst = false →
         Leads (.perst true q f) s { s with pins := { s.pins with perst := true, profSel := q, forceSafe := f } })) ∧
     (∀ (l : Bool) (q : BitVec 2) (f : Bool), s.pins.pwrEn = false ∨ s.hub.tripped = true ∨ s.pins.perst = l →
       Leads (.perst l q f) s { s with pins := { s.pins with perst := l } })) ∧
  (∀ s : State, s.hub.dev = .booting → s.mail.deferred = [] → s.hub.fenced = false → (∀ c, c < 64 → (getCtx s c).st = .closed) →
     (∀ (bad : List Pos) (ok : List (Pos × BitVec 2 × Word)), s.hub.slotRetired = [] →
       (∀ p, p < 80 → lifeFailed s p = false ∧ (getCtrl s p).role ≠ .failed) →
       (∀ p, p < 80 → (posGroup s p).isSome = true →
         (passedAt (bad.map (·.val)) (ok.map fun q => (q.1.val, q.2.1, q.2.2)) p).isSome = true) →
       s.mail.copyA.factoryOk = true ∨ s.mail.copyB.factoryOk = true →
       (devNow { s with hub := { s.hub with dev := .standby } } = .standby →
         ∃ t, exec (.bootComplete true true bad ok) s = .next t ∧ t.hub.dev = .standby ∧ t.mem.cells = s.mem.cells ∧
         (∀ n, n < 128 → coreEntry t n = { phys := (firstSlots s (n / 32)).getD (n % 32) 0, status := .inService }) ∧
         (∀ n, n < chanCount s → (t.hub.chanMap.getD n { ctrl := 0, status := .unmapped }).status = .inService)) ∧
       ∃ t, exec (.bootComplete true false bad ok) s = .next t ∧ t.hub.dev = .fenced ∧ t.hub.fenced = true ∧ t.hub.bootRom = false ∧
         t.mem.cells = s.mem.cells) ∧
     (∀ hubOk bad ok, ∃ t, exec (.bootComplete false hubOk bad ok) s = .next t ∧ t.hub.dev = .fenced ∧ t.hub.fenced = true ∧
       t.hub.bootRom = true ∧ t.mem.cells = s.mem.cells) ∧
     (s.mail.copyA.factoryOk = false → s.mail.copyB.factoryOk = false → ∀ hubOk bad ok, ∃ t, exec (.bootComplete true hubOk bad ok) s = .next t ∧
       t.hub.dev = .fenced ∧ t.hub.fenced = true ∧ t.hub.bootRom = false ∧ t.mem.cells = s.mem.cells)) ∧
  (∀ (u : State) (b h : Bool), AtRest u → u.hub.dev ≠ .booting → ∀ bad ok, exec (.bootComplete b h bad ok) u = .next u)

/-- R347, R434, R471, R479 to R481: the SMBus interface answers while the standby rail is up: it takes an endpoint identifier that
is neither null nor broadcast and answers its other control messages; it answers PLDM from its sensors, its device state and its
health; it names itself while ALERT# is low, and takes its address; a vendor message carries a request, answered BUSY in COLD and
BOOTING. While some partition is confidential the sensors show the maxima of the last minute and no current. With the rail down it does
nothing. The test access port shows which of its instructions are available. -/
def Obligations.ManagementPathsAnswer : Prop :=
  ∀ s : State,
    (s.pins.v12sb = true →
      (∀ e : BitVec 8, (e ≠ 0 → e ≠ 0xFF → Leads (.mctpControl (.setEid e)) s
          { s with hub := { s.hub with eid := e }, outbox := .smbus [1, 0, 0, e, 0] :: s.outbox }) ∧
        (e = 0 ∨ e = 0xFF → Leads (.mctpControl (.setEid e)) s { s with outbox := .smbus [1, 2] :: s.outbox })) ∧
      Leads (.mctpControl .getEid) s { s with outbox := .smbus [2, 0, s.hub.eid, 0, 0] :: s.outbox } ∧
      Leads (.mctpControl .getMessageTypes) s { s with outbox := .smbus [5, 0, 2, 1, 0x7F] :: s.outbox } ∧
      (∀ m, m = .getVersion ∨ m = .getVendorMessages → ∃ b, Leads (.mctpControl m) s { s with outbox := .smbus b :: s.outbox }) ∧
      Leads (.pldm .base) s { s with outbox := .smbus [0, 0, 2, 4] :: s.outbox } ∧
      Leads (.pldm .deviceState) s { s with outbox := .smbus [0, 0, s.hub.pldmDev] :: s.outbox } ∧
      Leads (.pldm .healthState) s { s with outbox := .smbus (if s.hub.pldmOk then [0, 0, s.hub.pldmHealth] else [0, 2]) :: s.outbox } ∧
      Leads (.pldm .fru) s { s with outbox := .smbus (0 :: fruRecord s) :: s.outbox } ∧
      (∀ k, Leads (.pldm (.other k)) s { s with outbox := .smbus [5] :: s.outbox }) ∧
      (∀ n : Fin 10, s.hub.pldmOk = true → anyConf s = false → Leads (.pldm (.numericSensor n)) s
        { s with outbox := .smbus ([0, 0] ++ leBytes 4 (s.hub.pldm.getD n.val 0).toNat) :: s.outbox }) ∧
      (∀ n : Fin 10, s.hub.pldmOk = true → anyConf s = true → n ≠ 2 → Leads (.pldm (.numericSensor n)) s
        { s with outbox := .smbus ([0, 0] ++ leBytes 4 ((minuteSensors s).getD n.val 0).toNat) :: s.outbox }) ∧
      (∀ n : Fin 10, s.hub.pldmOk = false ∨ n = 2 ∧ anyConf s = true → Leads (.pldm (.numericSensor n)) s
        { s with outbox := .smbus [0, 2] :: s.outbox }) ∧
      (∀ readable, ∃ t, exec (.pldmSensorUpdate readable) s = .next t ∧
        (s.hub.dev ≠ .cold → t.hub.pldm = (if anyConf s then minuteSensors s else readSensors s) ∧ t.hub.pldmOk = true) ∧
        (s.hub.dev = .cold → t.hub.pldmOk = readable) ∧ t.hub.pldmDev = BitVec.ofNat 8 (devCode (devNow s)) ∧
        t.hub.pldmHealth = BitVec.ofNat 8 (healthCode s.diag.health) ∧ t.mem = s.mem ∧ t.ctxs = s.ctxs) ∧
      (s.mail.opQ.entries ≠ [] → Leads .alertResponse s { s with outbox := .smbus [0x98] :: s.outbox }) ∧
      (AtRest s → s.mail.opQ.entries = [] → exec .alertResponse s = .next s) ∧
      Leads (.addressResolutionProtocol (.assign 0x4C)) s { s with hub := { s.hub with arpDone := true } } ∧
      (∀ a, a.setWidth 8 ≠ (0x4C : BitVec 8) → Leads (.addressResolutionProtocol (.assign a)) s s) ∧
      Leads (.addressResolutionProtocol .reset) s { s with hub := { s.hub with arpDone := false } } ∧
      Leads (.addressResolutionProtocol .prepare) s { s with hub := { s.hub with arpDone := false } } ∧
      Leads (.addressResolutionProtocol .getUdid) s (if s.hub.arpDone then s else
        { s with outbox := .smbus (([0x11] : Bytes) ++ fit 16 Config.udid ++ [0x99]) :: s.outbox }) ∧
      (∀ (m : Mbx) (img : Bytes), img.length ≤ 4096 →
        (s.hub.dev = .cold ∨ s.hub.dev = .booting → ∃ t, exec (.mctpVendorMessage m img) s = .next t ∧ t.mem = s.mem ∧ t.ctxs = s.ctxs ∧ t.slots = s.slots ∧ t.hub.eid = s.hub.eid ∧
          Answers s t (headerOf m .smbus img) (fld img 2 16) 0x01 []) ∧
        (s.hub.dev ≠ .cold → s.hub.dev ≠ .booting → ∀ i u, commandOf s (headerOf m .smbus img) (num img 2 2)
            (slice img 0x1C (min (num img 4 2) bodyMax)) = some i → exec i s = .next u → Leads (.mctpVendorMessage m img) s u))) ∧
    (s.pins.v12sb = false → AtRest s → (∀ m, exec (.mctpControl m) s = .next s) ∧ (∀ q, exec (.pldm q) s = .next s) ∧
      exec .alertResponse s = .next s ∧ (∀ a, exec (.addressResolutionProtocol a) s = .next s) ∧
      (∀ m img, wellFormed (.mctpVendorMessage m img) = true → exec (.mctpVendorMessage m img) s = .next s) ∧
      ∀ r, exec (.pldmSensorUpdate r) s = .next s) ∧
    (∀ j : TapInstr, s.pins.pgOut = true → Leads (.tapInstruction j) s { s with outbox := .tap j (tapAllowed s j) :: s.outbox }) ∧
    (∀ j : TapInstr, s.pins.pgOut = false → AtRest s → exec (.tapInstruction j) s = .next s) ∧
    tapAllowed s .extest = !anyConf s ∧ tapAllowed s .samplePreload = !anyConf s ∧
    tapAllowed s .debugAccess = dbgEn s ∧ tapAllowed s .traceReadout = dbgEn s ∧ tapAllowed s .traceControl = dbgEn s ∧
    tapAllowed s .idcode = true ∧ tapAllowed s .bypass = true

/-- R174, R178, R179, R182, R183: the control descriptors that take effect at once. SETBASE loads its base register. BRANCH whose
condition holds goes to its target, past which nothing read ahead is kept, or halts its stream with cause 0x0A when the target lies
outside the body of an active loop; otherwise the stream goes on. LOOP counts its level down and goes back with the base advanced,
until the count is used up, when the base takes its value of the level's entry again; a level that another LOOP holds is cause 0x0A.
SIGNAL adds to a semaphore of its own core, or goes on its way to another core of the partition that serves the context; a core of
another partition or context is cause 0x05, one out of service 0x08. The oldest signal on its way to a core arrives, and is lost when
the core is out of service. Of every control descriptor: a reserved bit or value halts the stream, as does an opcode outside the
table with cause 0x01; one that is not the next of its stream, or that cannot issue, changes nothing. -/
def Obligations.ControlDescriptorsAct : Prop :=
  ∀ (c : Core) (i : SlotNo) (s : State) (d : BitVec 256) (p k : PCore) (u : Stream) (a : BitVec 48),
    p = getC s c.val → u = getStream p i.val → k = headed p d →
    (Stands s c.val i.val opSetbase d → ∃ t, exec (.setbase c i) s = .next t ∧ Advances s t c.val i.val (u.pc + 32) ∧
      (getStream (getC t c.val) i.val).br = u.br.setIfInBounds (dfield d 32 3 - 1) (d.extractLsb' 35 48) ∧
      (getStream (getC t c.val) i.val).loops = u.loops ∧ (getC t c.val).sems = (signalled k d).sems) ∧
    (Stands s c.val i.val opBranch d → a = targetOf u.pc (dfield d 73 24) →
      (branchTaken k d = false → ∃ t, exec (.branch c i) s = .next t ∧ Advances s t c.val i.val (u.pc + 32) ∧
        (getStream (getC t c.val) i.val).ahead = u.ahead ∧ (getStream (getC t c.val) i.val).br = u.br ∧
        (getStream (getC t c.val) i.val).loops = u.loops ∧ (getC t c.val).sems = (signalled k d).sems) ∧
      (branchTaken k d = true → inBodies u a = true → ∃ t, exec (.branch c i) s = .next t ∧ Advances s t c.val i.val a ∧
        (getStream (getC t c.val) i.val).ahead = (dropAhead u u.pc a).ahead ∧ (getStream (getC t c.val) i.val).br = u.br ∧
        (getStream (getC t c.val) i.val).loops = u.loops ∧ (getC t c.val).sems = (signalled k d).sems) ∧
      (branchTaken k d = true → inBodies u a = false → ∃ t, exec (.branch c i) s = .next t ∧ Halts s t c.val i.val 0x0A)) ∧
    (Stands s c.val i.val opLoop d →
      (armLevel u d = none → ∃ t, exec (.loop c i) s = .next t ∧ Halts s t c.val i.val 0x0A) ∧
      (∀ l, armLevel u d = some l →
        (l.ctr = 1 → ∃ t, exec (.loop c i) s = .next t ∧ Advances s t c.val i.val (u.pc + 32) ∧
          (getStream (getC t c.val) i.val).loops = u.loops.setIfInBounds (dfield d 32 2) { l with ctr := 0, active := false } ∧
          (getStream (getC t c.val) i.val).br = (setBr u (dfield d 90 3) l.entry).br ∧
          (getC t c.val).sems = (signalled k d).sems) ∧
        (l.ctr ≠ 1 → ∃ t, exec (.loop c i) s = .next t ∧
          Advances s t c.val i.val (targetOf u.pc (dfield d 66 24)) ∧
          (getStream (getC t c.val) i.val).loops = u.loops.setIfInBounds (dfield d 32 2) { l with ctr := l.ctr - 1 } ∧
          (getStream (getC t c.val) i.val).br =
            (setBr u (dfield d 90 3) (getBr u (dfield d 90 3) + BitVec.ofInt 48 (signed (dfield d 93 32) 32))).br ∧
          (getC t c.val).sems = (signalled k d).sems))) ∧
    (Stands s c.val i.val opSignal d → ∀ m, m = dfield d 54 8 →
      (m = 0xFF ∨ m = c.val → ∃ t, exec (.signal c i) s = .next t ∧ Advances s t c.val i.val (u.pc + 32) ∧ t.fab = s.fab ∧
        (getC t c.val).sems = (signalled (semAdd k (dfield d 32 6) (dfield d 38 16)) d).sems) ∧
      (m ≠ 0xFF → m ≠ c.val → corePart s m = corePart s c.val → inService s m = true → (getC s m).ctx = some u.ctx →
        ∃ t, exec (.signal c i) s = .next t ∧ Advances s t c.val i.val (u.pc + 32) ∧
          t.fab.sigs = s.fab.sigs ++ [(m, d.extractLsb' 32 6, BitVec.ofNat 32 (dfield d 38 16))] ∧
          (getC t c.val).sems = (signalled k d).sems) ∧
      (m ≠ 0xFF → m ≠ c.val → corePart s m ≠ corePart s c.val ∨ inService s m = true ∧ (getC s m).ctx ≠ some u.ctx →
        ∃ t, exec (.signal c i) s = .next t ∧ Halts s t c.val i.val 0x05 ∧ t.fab = s.fab) ∧
      (m ≠ 0xFF → m ≠ c.val → corePart s m = corePart s c.val → inService s m = false →
        ∃ t, exec (.signal c i) s = .next t ∧ Halts s t c.val i.val 0x08 ∧ t.fab = s.fab)) ∧
    (∀ m g v, s.fab.sigs.find? (fun x => x.1 == c.val) = some (m, g, v) →
      (inService s c.val = true → NoneBlocked s c.val →
        Leads (.peerSignalArrival c) s (modC (modFab s fun f => { f with sigs := f.sigs.erase (m, g, v) }) c.val
          fun q => semAdd q g.toNat v.toNat)) ∧
      (inService s c.val = false → Leads (.peerSignalArrival c) s (modFab s fun f => { f with sigs := f.sigs.erase (m, g, v) }))) ∧
    (AtRest s → s.fab.sigs.find? (fun x => x.1 == c.val) = none → exec (.peerSignalArrival c) s = .next s) ∧
    (issuable s c.val i.val (opcodeOf d) = some d → opcodes.contains (opcodeOf d) = false →
      ∃ t, exec (.reservedOpcode c i) s = .next t ∧ Halts s t c.val i.val 0x01 ∧ (getC t c.val).sems = p.sems) ∧
    (AtRest s → (∀ e, readyNext s c.val i.val = some e → opcodes.contains (opcodeOf e) = true) →
      exec (.reservedOpcode c i) s = .next s) ∧
    (NoLockout s → ∀ (x : Option (Fin 4)), ∀ q ∈ [(Instr.wait c i, opWait), (.signal c i, opSignal), (.fence c i, opFence), (.loop c i, opLoop),
        (.branch c i, opBranch), (.setbase c i, opSetbase), (.waitLow c i x, opWaitLow), (.endStream c i, opEnd),
        (.launchAt c i, opLaunchAt)],
      (∀ e, issuable s c.val i.val q.2 = some d → controlBad d = some e →
        ∃ t, exec q.1 s = .next t ∧ Halts s t c.val i.val e ∧ (getC t c.val).sems = p.sems) ∧
      (issuable s c.val i.val q.2 = none → AtRest s → exec q.1 s = .next s))

/-- R172, R175, R177, R179, R180, R184, R446, R448, R449: the control descriptors that may wait. A WAIT whose time, if it has one, has
come and whose semaphore has the value, with no stream before it taking the count, goes on, and takes the value with ACQUIRE;
otherwise its stream waits in it; a time already past when it is armed is counted late in both counters. A FENCE goes on when nothing
it waits for is in flight. END waits for what is in flight; then its stream is IDLE, and the work item that ends with it finishes: an
update stands as done, the own one with its version WRITTEN, and a micro-batch's record takes its STATE. A WAIT_LOW that is met at
once goes on, and takes 1 where its semaphore is met; one that is not, on a core with nothing else to do, enters its low-power state,
in which Doze loses banks and operand cache, unless a wake abandons the entry, which is counted at its point. A core that wakes is in
Run, and a WAIT_LOW that is met goes on; a wake whose cause is not there, or of a core in Run, changes nothing. R181: LAUNCH_AT
checks the descriptor behind it and waits for its time with the engine reserved; one that may not follow it, or that is malformed,
halts the stream with its cause; a time that has come lets that descriptor issue next, and the LAUNCH_AT completes with it, as for a
SETBASE. -/
def Obligations.WaitsAndLaunchesBlockTheirStream : Prop :=
  (∀ (c : Core) (i : SlotNo) (s : State) (d : BitVec 256) (p k : PCore) (u : Stream) (g : Nat) (v : BitVec 32),
     p = getC s c.val → u = getStream p i.val → k = headed p d → g = dfield d 32 6 → v = d.extractLsb' 40 32 →
     (Stands s c.val i.val opWait d → ∀ (r : Launch × Armed) (fired taken : Bool), r = evalArmed s (armTime s (d.extractLsb' 73 40)) →
       fired = (!dbit d 72 || r.1 != .wait) →
       taken = (semMet k (waitSem d) v && !(dbit d 39 && outranked (turned s c.val i.val d) c.val i.val (waitSem d) v.toNat)) →
       (fired = true → taken = true → ∃ t, exec (.wait c i) s = .next t ∧ Advances s t c.val i.val (u.pc + 32) ∧
         (getC t c.val).sems = (signalled (if dbit d 38 && dbit d 39 then semTake k g v else k) d).sems) ∧
       (fired = true → taken = false → ∃ t, exec (.wait c i) s = .next t ∧
         Awaits s t c.val i.val d (.wait (waitSem d) (dbit d 39) v none)) ∧
       (fired = false → ∃ t, exec (.wait c i) s = .next t ∧ Awaits s t c.val i.val d (.wait (waitSem d) (dbit d 39) v (some r.2))) ∧
       ∃ t, exec (.wait c i) s = .next t ∧
         (getC t c.val).cnt.late = p.cnt.late + (if dbit d 72 ∧ r.1 = .late then 1 else 0) ∧
         t.time.lateLaunch = s.time.lateLaunch + (if dbit d 72 ∧ r.1 = .late then 1 else 0)) ∧
     (Stands s c.val i.val opFence d → ∀ ids, ids = fenceScope s c.val i.val (dfield d 32 2) →
       ((∀ x ∈ ids, x ∉ inFlight p ∧ x ≠ p.nextId) → ∃ t, exec (.fence c i) s = .next t ∧ Advances s t c.val i.val (u.pc + 32) ∧
         (getC t c.val).sems = (signalled k d).sems) ∧
       ((∃ x ∈ ids, x ∈ inFlight p) → ∃ t, exec (.fence c i) s = .next t ∧ Awaits s t c.val i.val d (.fence ids))) ∧
     (Stands s c.val i.val opEnd d → NoLockout s →
       (u.inflight ≠ [] → ∃ t, exec (.endStream c i) s = .next t ∧ Awaits s t c.val i.val d .ending) ∧
       (u.inflight = [] → u.item = none ∨ (∃ w m, u.item = some w ∧ m ∈ partCores s (getCtx s u.ctx).part ∧
           physOf s m ≠ physOf s c.val ∧ (getStream (getC s m) i.val).item = some w) →
         ∃ t, exec (.endStream c i) s = .next t ∧ t.mem = s.mem ∧ (getStream (getC t c.val) i.val).st = .idle ∧
           (getStream (getC t c.val) i.val).item = none ∧ (getStream (getC t c.val) i.val).blocked = none ∧
           (getStream (getC t c.val) i.val).prog = u.prog + 1 ∧ (getC t c.val).sems = (signalled k d).sems ∧
           (getC t c.val).stage = p.stage ∧ (getC t c.val).banks = p.banks ∧ (∀ q, q ≠ physOf s c.val → getP t q = getP s q) ∧
           (getCtx t u.ctx).led = (getCtx s u.ctx).led ∧ (getCtx t u.ctx).vslots = (getCtx s u.ctx).vslots ∧
           ∀ j, j ≠ i.val → SameButTurns (getStream (getC t c.val) j) (getStream p j)) ∧
       (∀ w, u.inflight = [] → u.item = some w → u.ctx < 64 →
         (∀ m ∈ partCores s (getCtx s u.ctx).part, physOf s m ≠ physOf s c.val → (getStream (getC s m) i.val).item ≠ some w) →
         (w.role = 2 → ∃ t, exec (.endStream c i) s = .next t ∧ t.mem = s.mem ∧ (getStream (getC t c.val) i.val).st = .idle ∧
           (getC t c.val).sems = (signalled k d).sems ∧
           (getCtx t u.ctx).led.ownDone = (!w.mirror || (getCtx s u.ctx).led.ownDone) ∧
           (getCtx t u.ctx).led.mirrorDone = (w.mirror || (getCtx s u.ctx).led.mirrorDone) ∧
           (getCtx t u.ctx).vslots = (if w.mirror then (getCtx s u.ctx).vslots else
             (getCtx s u.ctx).vslots.setIfInBounds (verSlot s u.ctx (w.step + 1)) (.written, w.step + 1))) ∧
         (w.role = 1 → isConf s (getCtx s u.ctx).part = false → ∃ t, exec (.endStream c i) s = .next t ∧
           t.mem = (setRecState s u.ctx w.recVa (if w.backward then 4 else 2)).mem ∧
           (getStream (getC t c.val) i.val).st = .idle ∧ (getC t c.val).sems = (signalled k d).sems ∧
           (getCtx t u.ctx).led.ownDone = (getCtx s u.ctx).led.ownDone ∧
           (getCtx t u.ctx).vslots = (getCtx s u.ctx).vslots))) ∧
     (Stands s c.val i.val opWaitLow d → ∀ (r : Launch × Armed) (fired taken : Bool),
       r = evalArmed s (armTime s (d.extractLsb' 40 40)) → fired = (dbit d 39 && r.1 != .wait) →
       taken = (dbit d 38 && decide (1 ≤ (semGet k g).toNat) &&
         !outranked (turned s c.val i.val d) c.val i.val (waitSem d) 1) →
       (fired = true ∨ taken = true → ∀ x, ∃ t, exec (.waitLow c i x) s = .next t ∧
         Advances s t c.val i.val (u.pc + 32) ∧ (getC t c.val).sems = (signalled (if taken then semTake k g 1 else k) d).sems ∧
         (getC t c.val).pstate = .run) ∧
       (fired = false → taken = false → ∀ b l,
         b = Blocked.waitLow (waitSem d) (if dbit d 39 then some r.2 else none) → l = lowState s p d →
         (l = .run ∨ enginesEmpty p = false ∨ othersWait p i.val = false → ∀ x,
           ∃ t, exec (.waitLow c i x) s = .next t ∧ Awaits s t c.val i.val d b ∧ (getC t c.val).pstate = .run) ∧
         (l ≠ .run → enginesEmpty p = true → othersWait p i.val = true →
           (∃ t, exec (.waitLow c i none) s = .next t ∧ (getC t c.val).pstate = l ∧ t.mem = s.mem ∧ t.ctxs = s.ctxs ∧
             (getStream (getC t c.val) i.val).blocked = some b ∧ (getStream (getC t c.val) i.val).pc = u.pc ∧
             (getC t c.val).sems = k.sems ∧ (getC t c.val).stage = p.stage ∧
             (getC t c.val).banks = (if l = .doze then Vector.replicate 2 Bank.reset else p.banks) ∧
             (getC t c.val).cache = (if l = .doze then [] else p.cache) ∧
             (∀ j, j ≠ i.val → SameButTurns (getStream (getC t c.val) j) (getStream p j)) ∧
             ∀ q, q ≠ physOf s c.val → getP t q = getP s q) ∧
           (∀ x : Fin 4, ∃ t, exec (.waitLow c i (some x)) s = .next t ∧ Awaits s t c.val i.val d b ∧
             (getC t c.val).pstate = .run ∧ (getC t c.val).cnt.pwrAborts = countPoint p.cnt.pwrAborts x.val)))) ∧
     (∀ w, inService s c.val = true → s.hub.low = false → p.pstate ≠ .run → wakeDue s p w = true →
       ∃ t, exec (.coreWake c w) s = .next t ∧ (getC t c.val).pstate = .run ∧ (getC t c.val).stage = p.stage) ∧
     (∀ y : BitVec 6, inService s c.val = true → s.hub.low = false → p.pstate ≠ .run → u.st = .running → p.frozen = false →
       p.stopped = false → s.hub.slotTesting.contains (physOf s c.val) = false → fetchedAt u u.pc = some d →
       (∀ j, j ≠ i.val → (getStream p j).blocked = none) → ∀ time, u.blocked = some (.waitLow (some y) time) →
       (1 ≤ (semGet p y.toNat).toNat → outranked (wakeFrom s c.val) c.val i.val (some y) 1 = false →
         ∀ w, w = WakeCause.semaphore ∨ w = .belfry ∨ w = .device → ∃ t, exec (.coreWake c w) s = .next t ∧
         Advances s t c.val i.val (u.pc + 32) ∧ (getC t c.val).pstate = .run ∧
         (getC t c.val).sems = (signalled (semTake p y.toNat 1) d).sems) ∧
       (semGet p y.toNat = 0 → time.isSome = true ∨ dbit d 39 = false → ∀ w, w = WakeCause.belfry ∨ w = .device ∨
           w = .time ∧ time.isSome = true →
         Leads (.coreWake c w) s (modC s c.val fun q => { q with pstate := .run })) ∧
       (semGet p y.toNat = 0 → AtRest s → exec (.coreWake c .semaphore) s = .next s ∧
         (time = none → exec (.coreWake c .time) s = .next s))) ∧
     (∀ w, p.pstate = .run ∨ s.hub.low = true ∨ inService s c.val = false ∨ wakeDue s p w = false → AtRest s →
       exec (.coreWake c w) s = .next s)) ∧
  (∀ (c : Core) (i : SlotNo) (s : State) (d next : BitVec 256) (u : Stream), u = getStream (getC s c.val) i.val →
     (Stands s c.val i.val opLaunchAt d → followingDesc s c.val i.val = some next →
       ∀ (r : Launch × Armed), r = evalArmed s (armTime s (d.extractLsb' 32 40)) →
       (noLaunch next = true → ∃ t, exec (.launchAt c i) s = .next t ∧ Halts s t c.val i.val 0x02) ∧
       (noLaunch next = false → nextMalformed (turned s c.val i.val d) c.val i.val next = none →
         (r.1 = .wait → ∃ t, exec (.launchAt c i) s = .next t ∧ Awaits s t c.val i.val d (.launch r.2) ∧
           (getStream (getC t c.val) i.val).due = false) ∧
         (r.1 ≠ .wait → ∃ t, exec (.launchAt c i) s = .next t ∧
           Awaits s t c.val i.val d (.launch (armTime s (d.extractLsb' 32 40))) ∧
           (getStream (getC t c.val) i.val).due = true)) ∧
       (∀ e, noLaunch next = false → nextMalformed (turned s c.val i.val d) c.val i.val next = some e →
         ∃ t, exec (.launchAt c i) s = .next t ∧ Halts s t c.val i.val e)) ∧
     (NoneBlocked (modC s c.val fun q => modStream q i.val fun x => { x with blocked := none }) c.val → u.due = true →
       issuable s c.val i.val opSetbase = some next → controlBad next = none →
       ∃ t, exec (.setbase c i) s = .next t ∧ t.mem = s.mem ∧ (getStream (getC t c.val) i.val).pc = u.pc + 64 ∧
         (getStream (getC t c.val) i.val).due = false ∧ (getStream (getC t c.val) i.val).blocked = none ∧
         (getStream (getC t c.val) i.val).prog = u.prog + 2 ∧
         (getStream (getC t c.val) i.val).br = u.br.setIfInBounds (dfield next 32 3 - 1) (next.extractLsb' 35 48)))

/-- R170, R175, R189, R190, R215, R216, R219: fetching descriptors. The block that issue waits for is read from a local page, for one
token of its die, and stands in its stream; when both reads are lost the stream halts with cause 0x09, and with 0x06 or 0x05 when the
page is unmapped or not local. With no token it is not read, and the stream waits. A block read ahead that cannot be read halts
nothing: one whose page is not a local one is counted as dropped, one lost stands as failed. A stream that waits for no block, or is
not running, asks for none. -/
def Obligations.DescriptorsAreFetched : Prop :=
  ∀ (c : Core) (i : SlotNo) (s : State) (u : Stream) (a : BitVec 48) (part pg off byte pos ch : Nat) (e wr : Bool) (bs : Bytes),
    u = getStream (getC s c.val) i.val → NoLockout s →
    (sequencing s c.val = true → u.st = .running →
      (placeByte s part pg off = (ch, byte) → pos = servePos s ch (byte / 4096) false → NoInjection s →
        isConf s (getCtx s u.ctx).part = false → (takeTokens s (c.val / 32) 0 1).isSome = true →
        bs = memRead s.mem.cells (cellAddr pos (byte / 256 * 256)) 256 → mapGet s.mem.bad (blockKey pos (byte / 256)) 0 = 0 →
        translate s u.ctx (blockAddr a) = .localPage part pg off e wr →
        (demandAddr u = some a →
          (∀ l : Fin 3, l.val < 2 → ∃ t, exec (.descriptorFetch c i false l) s = .next t ∧ t.mem.cells = s.mem.cells ∧ t.ctxs = s.ctxs ∧
            getStream (getC t c.val) i.val = { u with
              blocks := { addr := blockAddr a, data := some bs } :: u.blocks.filter fun b => b.addr != blockAddr a } ∧
            (∀ k, k ≠ i.val → getStream (getC t c.val) k = getStream (getC s c.val) k) ∧
            (getC t c.val).sems = (getC s c.val).sems ∧ (getC t c.val).stage = (getC s c.val).stage) ∧
          (∃ t, exec (.descriptorFetch c i false 2) s = .next t ∧ t.mem.cells = s.mem.cells ∧ t.ctxs = s.ctxs ∧
            (getStream (getC t c.val) i.val).st = .halted ∧ (getStream (getC t c.val) i.val).pc = u.pc ∧
            ((getC s c.val).errValid = false → ∃ x, (getC t c.val).err = some x ∧ x.stream = i.val ∧ x.cause = 0x09))) ∧
        (aheadAddr u = some a → ∀ l : Fin 3, ∃ t, exec (.descriptorFetch c i true l) s = .next t ∧ t.mem.cells = s.mem.cells ∧
          t.ctxs = s.ctxs ∧ getStream (getC t c.val) i.val = { u with
            blocks := { addr := blockAddr a, data := if l.val < 2 then some bs else none } ::
              u.blocks.filter fun b => b.addr != blockAddr a })) ∧
      (∀ ahead l, (if ahead then aheadAddr u else demandAddr u) = some a →
        translate s u.ctx (blockAddr a) = .localPage part pg off e wr → takeTokens s (c.val / 32) 0 1 = none →
        ∃ t, exec (.descriptorFetch c i ahead l) s = .next t ∧ t.mem.cells = s.mem.cells ∧ t.ctxs = s.ctxs ∧
          (∀ k, getStream (getC t c.val) k = getStream (getC s c.val) k) ∧ (getC t c.val).err = (getC s c.val).err ∧
          (dieOwner s (c.val / 32) < 4 → (getBucket t (dieOwner s (c.val / 32)) 0).held = true)) ∧
      (demandAddr u = some a → translate s u.ctx (blockAddr a) = .unmapped → ∀ l,
        ∃ t, exec (.descriptorFetch c i false l) s = .next t ∧ Halts s t c.val i.val 0x06) ∧
      (demandAddr u = some a → translate s u.ctx (blockAddr a) ≠ .unmapped →
        (∀ q g o f w, translate s u.ctx (blockAddr a) ≠ .localPage q g o f w) → ∀ l,
        ∃ t, exec (.descriptorFetch c i false l) s = .next t ∧ Halts s t c.val i.val 0x05) ∧
      (aheadAddr u = some a → (∀ q g o f w, translate s u.ctx (blockAddr a) ≠ .localPage q g o f w) → ∀ l,
        ∃ t, exec (.descriptorFetch c i true l) s = .next t ∧ t.mem = s.mem ∧ t.ctxs = s.ctxs ∧
          (∀ k, getStream (getC t c.val) k = getStream (getC s c.val) k) ∧ (getC t c.val).err = (getC s c.val).err ∧
          (getC t c.val).cnt.raDrop = (getC s c.val).cnt.raDrop + 1)) ∧
    (AtRest s → ∀ ahead l, sequencing s c.val = false ∨ u.st ≠ .running ∨ (if ahead then aheadAddr u else demandAddr u) = none →
      exec (.descriptorFetch c i ahead l) s = .next s)

/-- R88, R101, R107, R109, R113, R126, R141, R146, R158, R171, R186, R187: a descriptor that its engine has room for issues to it: COPY
with its base addresses and the data read ahead for it, MMA, MV, and VEC with its records on the first free thread. A VEC whose first
group needs blocks from outside the core asks for them, and halts its stream with the cause of the first that faults. A descriptor
that its own bits, its operands or its bank make malformed halts its stream with its cause. One that is not the next of its stream,
or for which there is no room, changes nothing. -/
def Obligations.EngineDescriptorsIssue : Prop :=
  ∀ (c : Core) (i : SlotNo) (s : State) (d : BitVec 256) (p : PCore) (u : Stream),
    p = getC s c.val → u = getStream p i.val →
    (issuable s c.val i.val opCopy = some d → u.due = false → NoneBlocked s c.val → ∀ b, b = copyBases u (copyOf d) →
      copyMalformed u d = none → ∃ t, exec (.copy c i) s = .next t ∧ Issues s t c.val i.val d ∧
        (getStream (getC t c.val) i.val).ahead = u.ahead.filter (fun r => r.pc != u.pc) ∧ (getC t c.val).banks = p.banks ∧
        (getC t c.val).copies = p.copies ++ [{
          iss := issuedAs s c.val i.val d, next := 0, total := totalReqs (copyOf d) b.2, out := [], wr := [], miss := none, got := []
          acks := 0, psigSent := false, failed := none, src := b.1, dst := b.2, held := heldFor u u.pc b }]) ∧
    (issuable s c.val i.val opMma = some d → u.due = false → NoneBlocked s c.val → mmaMalformed s c.val i.val d = none →
      ∃ t, exec (.mma c i) s = .next t ∧ Issues s t c.val i.val d ∧ (getC t c.val).copies = p.copies ∧
        (∀ b, (getBank (getC t c.val) b).st = (getBank p b).st ∧ (getBank (getC t c.val) b).acc = (getBank p b).acc) ∧
        (getStream (getC t c.val) i.val).lastMma = some p.nextId ∧
        (getC t c.val).lr = p.lr ++ [{
          iss := issuedAs s c.val i.val d, started := false, pass := 0, going := false, parity := 0, draining := false, start := none }]) ∧
    (issuable s c.val i.val opMv = some d → u.due = false → NoneBlocked s c.val → mvBad d = none →
      ∃ t, exec (.mv c i) s = .next t ∧ Issues s t c.val i.val d ∧ (getC t c.val).lr = p.lr ∧
        (getC t c.val).banks = p.banks ∧ (getC t c.val).mv = p.mv ++ [issuedAs s c.val i.val d]) ∧
    (issuable s c.val i.val opVec = some d → u.due = false → NoneBlocked s c.val →
      ∀ n v (j : VecJob) s1, vecMalformed p true d = none → (List.range 8).find? (fun t => (p.threads.getD t none).isNone) = some n →
        vecIn (vecOf d) (recsOf p (vecOf d)) = some v →
        j = { iss := issuedAs s c.val i.val d, recs := recsOf p (vecOf d), grp := 0, out := false, blks := [], came := [], got := []
              acks := 0, ended := false } →
        s1 = modC (issueTo s c.val i.val d).1 c.val (fun q => setThread (if (vecOf d).rel then
          markRelease q (namedBanks (recsOf p (vecOf d)) (vecOf d)) else q) n (some j)) →
        (nextNeed s1 c.val v j = none → ∃ t, exec (.vec c i) s = .next t ∧ Issues s t c.val i.val d ∧ (getC t c.val).lr = p.lr ∧
          (getC t c.val).threads.getD n none = some j ∧
          ∀ q, q ≠ n → (getC t c.val).threads.getD q none = p.threads.getD q none) ∧
        (∀ g l, nextNeed s1 c.val v j = some (g, l) →
          (p.gatherQ = [] → (∀ k ∈ l, vecFault s u.ctx (256 * k) false = none ∧
              ∀ e m rc rva core w, translate s u.ctx (BitVec.ofNat 48 (256 * k)) ≠ .peer e m rc rva core w) →
            ∃ t, exec (.vec c i) s = .next t ∧ Issues s t c.val i.val d ∧ (getC t c.val).lr = p.lr ∧
              (getC t c.val).threads.getD n none = some { j with grp := g, out := true, blks := l } ∧
              ∀ q, q ≠ n → (getC t c.val).threads.getD q none = p.threads.getD q none) ∧
          (∀ e, l.findSome? (fun k => vecFault s u.ctx (256 * k) false) = some e →
            ∃ t, exec (.vec c i) s = .next t ∧ t.mem = s.mem ∧ (getC t c.val).stage = p.stage ∧
              (getC t c.val).threads.getD n none = none ∧ (getStream (getC t c.val) i.val).st = .halted ∧
              (getC t c.val).sems = (headed p d).sems ∧
              (p.errValid = false → ∃ x, (getC t c.val).err = some x ∧ x.stream = i.val ∧ x.cause = e)))) ∧
    (∀ f, f = (fun op => if op = opCopy then copyMalformed u d else if op = opMma then mmaMalformed s c.val i.val d
        else if op = opMv then mvBad d else vecMalformed p true d) →
      ∀ q ∈ [(Instr.copy c i, opCopy), (.mma c i, opMma), (.mv c i, opMv), (.vec c i, opVec)],
        (∀ x, issuable s c.val i.val q.2 = some d → NoneBlocked s c.val → f q.2 = some x →
          ∃ t, exec q.1 s = .next t ∧ Halts s t c.val i.val x ∧ (getC t c.val).sems = p.sems) ∧
        (AtRest s → NoneBlocked s c.val → issuable s c.val i.val q.2 = none → exec q.1 s = .next s))

/-- R187 to R190, R207, R219, R224 to R228: the requests of a COPY. In the COPY's turn, one whose pages are translated issues, with
tokens for what it moves of module memory, and its reads of a window go out; one whose page is not translated waits for it, and is
released when it has come; one that faults ends its COPY, whose stream halts with the cause; without tokens it waits for them. Data
that have come good are written where they belong, in the stage buffer or the operand cache, where nothing else of the buffer changes,
in module memory, in the host window, or by a WRITE to a peer; with the last of them the COPY completes. A compressing request writes
the stored form of its unit with its unit-table entry; a decompressing one writes what the unit decodes to. A block lost on both reads
is not written, and fails the COPY with cause 0x07; an error of the host fails it with 0x0B. Data that run-ahead reads for a fetched
COPY are kept with its stream when every block is good; a bad block, a host error or an address of another context drops them, which
is counted; a page that is not translated is asked for. -/
def Obligations.CopiesMoveData : Prop :=
  (∀ (c : Core) (id : BitVec 16) (s : State) (p : PCore) (j : CopyJob) (x : Copy) (w : Span) (u : Stream),
     p = getC s c.val → inService s c.val = true → findCopy s c.val id = some j → x = copyOf j.iss.desc → j.failed = none →
     u = getStream p j.iss.slot → j.iss.slot < 16 → u.st = .running → NoneBlocked s c.val → NoLockout s →
     (nextToRequest p = some j.iss.id → requestsOut p < 48 → spanOf x j.src j.dst j.next = some w →
       (∀ a, (spanPages x w).find? (fun q => !p.xlat.contains (pageOf q.1)) = some a →
         Leads (.copyRequestIssue c id) s
           (setCopy (countMiss s c.val (pageOf a.1)) c.val { j with miss := some (pageOf a.1) })) ∧
       (∀ fault, (spanPages x w).find? (fun q => !p.xlat.contains (pageOf q.1)) = none →
         fault = (if x.cmode ≠ 0 ∧ (w.src.toNat % unitBytes ≠ 0 ∨ w.dst.toNat % unitBytes ≠ 0) then some 0x02
           else spanFault s u.ctx x w) →
         (∀ e, fault = some e → ∃ t, exec (.copyRequestIssue c id) s = .next t ∧
           (getStream (getC t c.val) j.iss.slot).st = .halted ∧ (getC t c.val).stage = p.stage ∧ t.mem.cells = s.mem.cells ∧
           (p.errValid = false → ∃ q, (getC t c.val).err = some q ∧ q.stream = j.iss.slot ∧ q.cause = e)) ∧
         (fault = none → takeAll (c.val / 32) x.cls (requestSizes (chargedBlocks s c.val u.ctx x w)) (ceTurn s c.val j) = none →
           Leads (.copyRequestIssue c id) s (holdTokens (ceTurn s c.val j) (c.val / 32) x.cls)) ∧
         (∀ s1 k, fault = none →
           takeAll (c.val / 32) x.cls (requestSizes (chargedBlocks s c.val u.ctx x w)) (ceTurn s c.val j) = some s1 →
           k = { j with next := j.next + 1, out := j.out ++ [j.next] } →
           ((mapGet? j.held j.next).isSome = true ∨ x.srcLoc ≠ 3 ∧ x.srcLoc ≠ 4 →
             Leads (.copyRequestIssue c id) s (setCopy s1 c.val k)) ∧
           (mapGet? j.held j.next = none → x.srcLoc = 4 →
             Leads (.copyRequestIssue c id) s (readHost (setCopy s1 c.val k) u.ctx (blocksOf w.src w.len))) ∧
           (∀ r, mapGet? j.held j.next = none → x.srcLoc = 3 → r = startReads (setCopy s1 c.val k) c.val k j.next w →
             r.2.failed = none → NoLockout r.1 → Leads (.copyRequestIssue c id) s (setCopy r.1 c.val r.2))))) ∧
     (∀ (n : BitVec 32) (v : CopyData), wellFormed (.copyRequestDone c id n v) = true → j.out.contains n.toNat = true →
       mapGet? j.wr n.toNat = none → spanOf x j.src j.dst n.toNat = some w →
       (∀ (s1 : State) (bs : List Block) (cache : Bool), NoLockout s1 → (x.srcLoc = 4 → v ≠ .hostError) →
         requestData s c.val j n.toNat w v = some (s1, bs) → (∀ b ∈ bs, b.data.length = 256) →
         w.src.toNat + w.len ≤ 2 ^ 48 → w.dst.toNat + w.len ≤ 2 ^ 48 → 0 < w.len →
         (x.dstLoc = (if cache then 1 else 0) → memoryWf (locMem p cache) = true →
           partsGood (locBad p cache) w.dst.toNat (w.dst.toNat + w.len) = true →
           (∀ o, (∀ b ∈ bs, blockOk b = true) → (x.cmode = 0 ∧ bs.length = (blocksOf w.src w.len).length ∧
               o = bytesOf (w.src.toNat - w.src.toNat % 256) bs w.src.toNat w.len ∨
               x.cmode = 3 ∧ decodeUnit (unitAt s1 u.ctx w.src) (bs.flatMap (·.data)) = some o ∧ o.length = w.len) →
             ∃ t, exec (.copyRequestDone c id n v) s = .next t ∧ memRead (locMem (getC t c.val) cache) w.dst.toNat w.len = o ∧
               (∀ a, a < w.dst.toNat ∨ w.dst.toNat + w.len ≤ a →
                 memGet (locMem (getC t c.val) cache) a = memGet (locMem p cache) a) ∧
               locMem (getC t c.val) (!cache) = locMem p (!cache) ∧ (getC t c.val).banks = p.banks ∧ t.mem.cells = s1.mem.cells ∧
               (j.next = j.total → j.out = [n.toNat] → j.acks = 0 → x.psigEn = false →
                 (getStream (getC t c.val) j.iss.slot).inflight = u.inflight.erase j.iss.id ∧
                 (getStream (getC t c.val) j.iss.slot).prog = u.prog + 1 ∧ (getC t c.val).sems = (signalled p j.iss.desc).sems ∧
                 ∀ q ∈ (getC t c.val).copies, q.iss.id ≠ j.iss.id)) ∧
           ((∃ b ∈ bs, blockOk b = false) → ∃ t, exec (.copyRequestDone c id n v) s = .next t ∧
             (getStream (getC t c.val) j.iss.slot).st = .halted ∧ (getC t c.val).sems = p.sems ∧
             (p.errValid = false → ∃ q, (getC t c.val).err = some q ∧ q.stream = j.iss.slot ∧ q.cause = 0x07) ∧
             ∀ a, a < w.dst.toNat ∨ w.dst.toNat + w.len ≤ a →
               memGet (locMem (getC t c.val) cache) a = memGet (locMem p cache) a)) ∧
         (∀ b q pg off e wr ch byte pos, x.cmode = 0 → bs = [b] → blockOk b = true → w.src.toNat % 256 = 0 → w.len = 256 →
           w.dst.toNat % 256 = 0 → x.dstLoc = 2 → translate s1 u.ctx w.dst = .localPage q pg off e wr →
           placeByte s1 q pg off = (ch, byte) → s1.mem.migs = [] → pos = chanPos s1 ch → memoryWf s1.mem.cells = true →
           ∃ t, exec (.copyRequestDone c id n v) s = .next t ∧ (getC t c.val).stage = p.stage ∧
             memRead t.mem.cells (cellAddr pos byte) 256 = b.data ∧
             ∀ a, a < cellAddr pos byte ∨ cellAddr pos byte + 256 ≤ a → memGet t.mem.cells a = memGet s1.mem.cells a) ∧
         (∀ b h wr, x.cmode = 0 → bs = [b] → blockOk b = true → w.src.toNat % 256 = 0 → w.len = 256 → w.dst.toNat % 256 = 0 →
           x.dstLoc = 4 → translate s1 u.ctx w.dst = .host h wr → ∃ t, exec (.copyRequestDone c id n v) s = .next t ∧
             (getC t c.val).stage = p.stage ∧ t.mem.cells = s1.mem.cells ∧ Output.hostWrite h b.data :: s1.outbox <:+ t.outbox) ∧
         (∀ o r k, x.cmode = 0 → bs.length = (blocksOf w.src w.len).length → (∀ b ∈ bs, blockOk b = true) → x.dstLoc = 3 →
           o = bytesOf (w.src.toNat - w.src.toNat % 256) bs w.src.toNat w.len →
           r = sendWrite s1 c.val j n.toNat w.dst ((chunksOf 256 (o.length / 256 + 1) o).map mkBlock) → r.2 = false →
           NoLockout r.1 → k = { j with acks := j.acks + 1, wr := mapSet j.wr n.toNat (mapGet j.wr n.toNat 0 + 1) } →
           Leads (.copyRequestDone c id n v) s
             (setCopy (countCeBytes (setCopy r.1 c.val k) c.val o.length) c.val (freeRequest k n.toNat))) ∧
         (∀ q pg off e wr ch byte pos y, x.cmode = 1 ∨ x.cmode = 2 → bs.length = 16 → (∀ b ∈ bs, blockOk b = true) →
           w.len = unitBytes → y = encodeUnit x.cmode (bs.flatMap (·.data)) → x.dstLoc = 2 →
           translate s1 u.ctx w.dst = .localPage q pg off e wr → off % 4096 = 0 → placeByte s1 q pg off = (ch, byte) →
           s1.mem.migs = [] → pos = chanPos s1 ch → memoryWf s1.mem.cells = true →
           ∃ t, exec (.copyRequestDone c id n v) s = .next t ∧ (getC t c.val).stage = p.stage ∧
             memRead t.mem.cells (cellAddr pos byte) y.bytes.length = y.bytes ∧
             mapGet t.mem.unit (unitKey pos (byte / 4096)) 0 = unitEntry y)) ∧
       (v = .hostError → x.srcLoc = 4 → mapGet? j.held n.toNat = none → ∃ t, exec (.copyRequestDone c id n v) s = .next t ∧
         (getStream (getC t c.val) j.iss.slot).st = .halted ∧ (getC t c.val).sems = p.sems ∧ (getC t c.val).stage = p.stage ∧
         t.mem.cells = s.mem.cells ∧
         (p.errValid = false → ∃ q, (getC t c.val).err = some q ∧ q.stream = j.iss.slot ∧ q.cause = 0x0B))) ∧
     (∀ v : BitVec 27, p.copies = [j] → j.miss = some v.toNat → spanOf x j.src j.dst j.next = some w →
       (∀ k, ∀ q ∈ (getStream p k).ahead, q.miss ≠ some v.toNat) → ∀ fault,
       fault = (spanPages x w).findSome? (fun q => if pageOf q.1 = v.toNat then
         accessFault s u.ctx (if q.2 then x.dstLoc else x.srcLoc) q.1 q.2 else none) →
       (fault = none → translate s (v.toNat / 2 ^ 21) (BitVec.ofNat 48 (v.toNat * 2 ^ 21)) ≠ .unmapped →
         translate s (v.toNat / 2 ^ 21) (BitVec.ofNat 48 (v.toNat * 2 ^ 21)) ≠ .foreign →
         Leads (.xlatMissResolved c v) s
           (setCopy (modC s c.val fun k => cacheXlat k v.toNat) c.val { j with miss := none })) ∧
       (∀ e, fault = some e → ∃ t, exec (.xlatMissResolved c v) s = .next t ∧ t.mem = s.mem ∧
         (getStream (getC t c.val) j.iss.slot).st = .halted ∧ (getC t c.val).sems = p.sems ∧
         (p.errValid = false → ∃ q, (getC t c.val).err = some q ∧ q.stream = j.iss.slot ∧ q.cause = e))) ∧
     (AtRest s → nextToRequest p ≠ some j.iss.id ∨ 48 ≤ requestsOut p → exec (.copyRequestIssue c id) s = .next s)) ∧
  (∀ (c : Core) (i : SlotNo) (pc : BitVec 48) (n : BitVec 32) (s : State) (p : PCore) (u : Stream) (d : BitVec 256) (x : Copy)
     (b : BitVec 48 × BitVec 48) (w : Span),
     p = getC s c.val → u = getStream p i.val → NoLockout s →
     (sequencing s c.val = true → u.st = .running → aheadCopy u pc = some d → x = copyOf d → x.ra = true → b = copyBases u x →
       copyMalformed u d = none → spanOf x b.1 b.2 n.toNat = some w →
       (∀ (q : AheadReq), u.ahead.find? (fun q => q.pc == pc && q.req == n.toNat && q.src == b.1 && q.dst == b.2) = none →
         aheadHeld p < 16 → requestsOut p < 48 → (∀ r ∈ u.ahead, r.no ≠ p.nextId) →
         q = { no := p.nextId, pc := pc, req := n.toNat, src := b.1, dst := b.2, miss := none, sent := false, acks := 0, got := []
               data := none } →
         (∀ v, wellFormed (.runAheadRead c ⟨i, pc⟩ n v) = true → isPaged x.srcLoc = true →
           (∃ a ∈ blocksOf w.src w.len, accessFault s u.ctx x.srcLoc a false = some 0x05) →
           ∃ t, exec (.runAheadRead c ⟨i, pc⟩ n v) s = .next t ∧ t.mem = s.mem ∧ getStream (getC t c.val) i.val = u ∧
             (getC t c.val).cnt.raDrop = p.cnt.raDrop + 1) ∧
         ((∀ a ∈ blocksOf w.src w.len, accessFault s u.ctx x.srcLoc a false ≠ some 0x05) → isPaged x.srcLoc = true →
           ∀ v a, wellFormed (.runAheadRead c ⟨i, pc⟩ n v) = true →
           (blocksOf w.src w.len).find? (fun a => !p.xlat.contains (pageOf a)) = some a →
           ∃ t, exec (.runAheadRead c ⟨i, pc⟩ n v) s = .next t ∧ t.mem = s.mem ∧
             getStream (getC t c.val) i.val = { u with ahead := u.ahead ++ [{ q with miss := some (pageOf a) }] }) ∧
         ((∀ a ∈ blocksOf w.src w.len, accessFault s u.ctx x.srcLoc a false = none ∧ p.xlat.contains (pageOf a) = true) →
           (∀ v, x.srcLoc = 4 → wellFormed (.runAheadRead c ⟨i, pc⟩ n v) = true →
             ∃ t, exec (.runAheadRead c ⟨i, pc⟩ n v) s = .next t ∧ t.mem = s.mem ∧ t.ctxs = s.ctxs ∧
               getStream (getC t c.val) i.val = { u with ahead := u.ahead ++ [{ q with sent := true }] } ∧
               (readHost s u.ctx (blocksOf w.src w.len)).outbox <:+ t.outbox) ∧
           (∀ bad1 bad2 s2 s3 l bs, x.srcLoc = 2 → x.cmode = 0 → wellFormed (.runAheadRead c ⟨i, pc⟩ n (.local bad1 bad2)) = true →
             takeTokens s (c.val / 32) x.cls (blocksOf w.src w.len).length = some s2 →
             sourceBlocks c.val u.ctx 2 s2 (blocksOf w.src w.len) = (s3, l) → NoLockout s3 → bs = lose l bad1 →
             ∃ t, exec (.runAheadRead c ⟨i, pc⟩ n (.local bad1 bad2)) s = .next t ∧ t.mem.cells = s3.mem.cells ∧
               (getC t c.val).stage = p.stage ∧ (getC t c.val).copies = p.copies ∧
               (bs.all blockOk = true → getStream (getC t c.val) i.val = { u with ahead := u.ahead ++ [{ q with data := some bs }] }) ∧
               (bs.all blockOk = false → getStream (getC t c.val) i.val = u ∧
                 (getC t c.val).cnt.raDrop = p.cnt.raDrop + 1)))) ∧
       (∀ (q : AheadReq), u.ahead.find? (fun q => q.pc == pc && q.req == n.toNat && q.src == b.1 && q.dst == b.2) = some q →
         q.miss = none → q.sent = true → q.data = none → (∀ r ∈ u.ahead, r.no = q.no → r = q) → x.srcLoc = 4 →
         (∀ bs, wellFormed (.runAheadRead c ⟨i, pc⟩ n (.host bs)) = true → bs.length = (blocksOf w.src w.len).length →
           ∃ t, exec (.runAheadRead c ⟨i, pc⟩ n (.host bs)) s = .next t ∧ t.mem = s.mem ∧
             t.ctxs = s.ctxs ∧ (getC t c.val).stage = p.stage ∧ (getC t c.val).copies = p.copies ∧
             (∀ k, k ≠ i.val → getStream (getC t c.val) k = getStream p k) ∧
             (bs.all blockOk = true → getStream (getC t c.val) i.val =
               { u with ahead := u.ahead.map fun r => if r.no = q.no then { q with data := some bs } else r }) ∧
             (bs.all blockOk = false → getStream (getC t c.val) i.val = { u with ahead := u.ahead.filter fun r => r.no != q.no } ∧
               (getC t c.val).cnt.raDrop = p.cnt.raDrop + 1)) ∧
         (∃ t, exec (.runAheadRead c ⟨i, pc⟩ n .hostError) s = .next t ∧ t.mem = s.mem ∧
           getStream (getC t c.val) i.val = { u with ahead := u.ahead.filter fun r => r.no != q.no } ∧
           (getC t c.val).cnt.raDrop = p.cnt.raDrop + 1))) ∧
     (AtRest s → sequencing s c.val = false ∨ u.st ≠ .running ∨ aheadCopy u pc = none → ∀ v,
       wellFormed (.runAheadRead c ⟨i, pc⟩ n v) = true → exec (.runAheadRead c ⟨i, pc⟩ n v) s = .next s))

/-- R68, R90 to R105, R117 to R119, R121, R122, R124: the lane row. A stationary buffer fills with B', a transposer buffer with A'; a
pass adds its products to the lanes, the checker and the bound entries of its bank, and the last pass of an MMA with OUT = KEEP ends
it. A drain whose comparisons pass, with no fault in its trees, stores or holds the result and completes; at the first that fails it
is held for replay, with the rows before it stored. An operand block, or a block written in part, that fails its CRC makes it an input
failure, which starts at step 3. With nothing to fill, to run or to drain nothing changes. R110 to R113, R122, R123: an MV whose
operands are good stores its outputs and completes; one whose residue check fails is held for replay with the tiles before the failing
element stored, and one whose operands, or a block it writes in part, do not pass their CRC is held as an input failure. -/
def Obligations.MatricesAreMultiplied : Prop :=
  (∀ (c : Core) (s : State) (p : PCore), p = getC s c.val → inService s c.val = true → NoneBlocked s c.val → NoLockout s →
     (∀ (j : MmaJob) (x : Mma), x = mmaOf j.iss.desc → j.iss.slot < 16 →
       (∀ q, p.stat.length < 2 → (passesAhead p).find? (fun y => !p.stat.any (fun b => b.id == y.1.iss.id && b.pass == y.2)) = some (j, q) →
         ∃ t, exec (.stationaryFillDone c) s = .next t ∧ (getC t c.val).stage = p.stage ∧ t.mem = s.mem ∧
           (bGood p x q = true → t.ctxs = s.ctxs ∧ (getC t c.val).stat = p.stat ++ [fillStat p x j.iss.id q]) ∧
           (bGood p x q = false → (∀ y ∈ (getC t c.val).lr, y.iss.id ≠ j.iss.id) ∧ Fails s t c.val j.iss 8 3 ∧
             (getC t c.val).cnt.lrCrc = p.cnt.lrCrc + 1)) ∧
       (∀ q, p.trans.length < 2 → (passesAhead p).find? (fun y => (mmaOf y.1.iss.desc).aCol &&
           !p.trans.any (fun b => b.id == y.1.iss.id && b.pass == y.2)) = some (j, q) →
         ∃ t, exec (.transposerFillDone c) s = .next t ∧ (getC t c.val).stage = p.stage ∧ t.mem = s.mem ∧
           (aGood p x q = true → t.ctxs = s.ctxs ∧
             (getC t c.val).trans = p.trans ++ [{ id := j.iss.id, pass := q, a := aSegments p x q }]) ∧
           (aGood p x q = false → (∀ y ∈ (getC t c.val).lr, y.iss.id ≠ j.iss.id) ∧ Fails s t c.val j.iss 8 3 ∧
             (getC t c.val).cnt.lrCrc = p.cnt.lrCrc + 1)) ∧
       (∀ st (par : BitVec 4), guestsOn s (physOf s c.val) = [] → activeMma p = some j → j.going = true → j.started = true →
         p.stat.find? (fun b => b.id == j.iss.id && b.pass == j.pass) = some st →
         (NoInjection s → aGood p x j.pass = true → ∃ t b lanes, exec (.passComplete c par) s = .next t ∧
           (getC t c.val).stage = p.stage ∧ t.mem = s.mem ∧
           lanes = (if x.aCol then ((p.trans.find? fun b => b.id == j.iss.id && b.pass == j.pass).map (·.a)).getD (aSegments p x j.pass)
             else aSegments p x j.pass) ∧
           b = addPass x st lanes (aSegments p x j.pass) (getBank p x.bank) ∧
           ((x.out = 0 → x.passes ≤ j.pass + 1 → j.parity ||| par = 0) → (getBank (getC t c.val) x.bank).acc = b.acc ∧
             (getBank (getC t c.val) x.bank).check = b.check ∧ (getBank (getC t c.val) x.bank).bound = b.bound ∧
             (getBank (getC t c.val) x.bank).k = b.k) ∧
           (getC t c.val).cnt.passes = p.cnt.passes + 1 ∧
           (x.out = 0 → x.passes ≤ j.pass + 1 → j.parity ||| par = 0 → Finishes s t c.val j.iss) ∧
           (x.out = 0 → x.passes ≤ j.pass + 1 → j.parity ||| par ≠ 0 → Fails s t c.val j.iss 2 1)) ∧
         (aGood p x j.pass = false → ∃ t, exec (.passComplete c par) s = .next t ∧ (getC t c.val).stage = p.stage ∧ t.mem = s.mem ∧
           (∀ y ∈ (getC t c.val).lr, y.iss.id ≠ j.iss.id) ∧ Fails s t c.val j.iss 8 3)) ∧
       (∀ flips tree b l f w, p.lr.find? (·.draining) = some j → b = flips.foldl applyFlip (getBank p x.bank) →
         l = compareAll x b j.parity → f = l.find? (fun y => !y.pass || treeAt tree y) →
         w = storeRows x b ((f.map (·.row)).getD x.m) p →
         (f = none → x.out = 2 → w.bad = false → ∃ t, exec (.drainComplete c flips tree) s = .next t ∧
           (getC t c.val).stage = w.c.stage ∧ t.mem = s.mem ∧ Finishes s t c.val j.iss ∧ ∀ y ∈ (getC t c.val).lr, y.iss.id ≠ j.iss.id) ∧
         (f = none → x.out = 1 → ∃ t, exec (.drainComplete c flips tree) s = .next t ∧ (getC t c.val).stage = p.stage ∧
           t.mem = s.mem ∧ Finishes s t c.val j.iss ∧ getBank (getC t c.val) x.bank = { b with st := .held }) ∧
         (∀ y, f = some y → (x.out = 2 → w.bad = false) → ∃ t, exec (.drainComplete c flips tree) s = .next t ∧ t.mem = s.mem ∧
           Fails s t c.val j.iss (if treeAt tree y then 7 else if y.par then 2 else 1) 1 ∧
           (getC t c.val).stage = (if x.out = 2 then w.c.stage else p.stage)) ∧
         (x.out = 2 → w.bad = true → ∃ t, exec (.drainComplete c flips tree) s = .next t ∧ t.mem = s.mem ∧
           Fails s t c.val j.iss 8 3 ∧ (getC t c.val).stage = w.c.stage ∧ (getC t c.val).cnt.lrCrc = p.cnt.lrCrc + 1))) ∧
     (AtRest s →
       (2 ≤ p.stat.length ∨ (passesAhead p).find? (fun y => !p.stat.any (fun b => b.id == y.1.iss.id && b.pass == y.2)) = none →
         exec (.stationaryFillDone c) s = .next s) ∧
       (2 ≤ p.trans.length ∨ (passesAhead p).find? (fun y => (mmaOf y.1.iss.desc).aCol &&
           !p.trans.any (fun b => b.id == y.1.iss.id && b.pass == y.2)) = none → exec (.transposerFillDone c) s = .next s) ∧
       (guestsOn s (physOf s c.val) = [] → activeMma p = none → ∀ par, exec (.passComplete c par) s = .next s) ∧
       (p.lr.find? (·.draining) = none → ∀ flips tree, exec (.drainComplete c flips tree) s = .next s))) ∧
  (∀ (c : Core) (s : State) (p : PCore), p = getC s c.val → inService s c.val = true → NoneBlocked s c.val → NoLockout s →
     (∀ (i : Issued) (x : Mv), i.slot < 16 → p.mv.head? = some i → x = mvOf i.desc →
       (∀ fault w, mvGood p x = true → w = storeMv x ((x.n + mvTile x - 1) / mvTile x) p →
         (∀ f, fault = some f → x.v * x.n ≤ f.elem) →
         (w.bad = false → ∃ t, exec (.mvComplete c fault) s = .next t ∧ t.mem = s.mem ∧
           (getC t c.val).stage = w.c.stage ∧ (getC t c.val).banks = p.banks ∧ Finishes s t c.val i ∧
           (getC t c.val).cnt.macCyc = p.cnt.macCyc + BitVec.ofNat 64 (macCycles x)) ∧
         (w.bad = true → ∃ t, exec (.mvComplete c fault) s = .next t ∧ t.mem = s.mem ∧ (getC t c.val).stage = w.c.stage ∧
           Fails s t c.val i 8 3 ∧ (getC t c.val).cnt.mvCrc = p.cnt.mvCrc + 1)) ∧
       (∀ f w, mvGood p x = true → f.elem < x.v * x.n → w = storeMv x (f.elem % x.n / mvTile x) p → w.bad = false →
         ∃ t, exec (.mvComplete c (some f)) s = .next t ∧ t.mem = s.mem ∧ (getC t c.val).stage = w.c.stage ∧
           Fails s t c.val i 3 1 ∧ (getC t c.val).cnt.mvRes = p.cnt.mvRes + 1) ∧
       (mvGood p x = false → ∀ fault, ∃ t, exec (.mvComplete c fault) s = .next t ∧ t.mem = s.mem ∧
         (getC t c.val).stage = p.stage ∧ Fails s t c.val i 8 3 ∧ (getC t c.val).cnt.mvCrc = p.cnt.mvCrc + 1)) ∧
     (AtRest s → p.mv = [] → ∀ f, exec (.mvComplete c f) s = .next s))

/-- R122, R123, R124, R150, R158, R161, R172: a VEC whose data have come runs as a whole: what it computes is written where its records
say, and it completes, at once or, where it has written through a peer window, with the last answer. One whose check fails is held for
replay with nothing written, and one whose operand block, or block written in part, fails its CRC is held as an input failure; one
whose access faults halts its stream with the cause. When the block that a group waited for has arrived, the thread is ready once
nothing more is needed; a block that fails its CRC makes its VEC an input failure; while the block has not come the thread waits. A
thread that waits for data, or for its answers, or that holds nothing, does not complete. -/
def Obligations.VectorsAreComputed : Prop :=
  ∀ (c : Core) (n : Fin 8) (s : State) (p : PCore), p = getC s c.val → inService s c.val = true → NoneBlocked s c.val → NoLockout s →
    (∀ (j : VecJob) (v : VecIn) (u : Stream), p.threads.getD n.val none = some j → vecIn (vecOf j.iss.desc) j.recs = some v →
      j.iss.slot < 16 → u = getStream p j.iss.slot →
      (∀ fault s1, j.out = false → j.ended = false → NoInjection s ∨ fault ≠ none → NoLockout s1 →
        (runVec { s with free := s.free + 1 } c.val j.iss v j.got fault = (s1, .ok 0) →
          ∃ t, exec (.vecComplete c n fault) s = .next t ∧ (getC t c.val).stage = (getC s1 c.val).stage ∧
            t.mem.cells = s1.mem.cells ∧ (getC t c.val).threads.getD n.val none = none ∧ Finishes s t c.val j.iss) ∧
        (∀ k, runVec { s with free := s.free + 1 } c.val j.iss v j.got fault = (s1, .ok (k + 1)) →
          ∃ t, exec (.vecComplete c n fault) s = .next t ∧ (getC t c.val).stage = (getC s1 c.val).stage ∧
            t.mem.cells = s1.mem.cells ∧ (getC t c.val).threads.getD n.val none = some { j with acks := k + 1, ended := true } ∧
            (getC t c.val).sems = p.sems ∧ ∀ q, getStream (getC t c.val) q = getStream p q) ∧
        (∀ f, runVec { s with free := s.free + 1 } c.val j.iss v j.got fault = (s1, .failed f) →
          ∃ t, exec (.vecComplete c n fault) s = .next t ∧ (getC t c.val).stage = (getC s1 c.val).stage ∧
            t.mem.cells = s1.mem.cells ∧ (getC t c.val).threads.getD n.val none = none ∧
            Fails s t c.val j.iss f.cause (if f.cause = 8 then 3 else 1)) ∧
        (∀ k f, runVec { s with free := s.free + 1 } c.val j.iss v j.got none = (s1, .ok k) → f.2.elem < v.y.count →
          ∃ t, exec (.vecComplete c n (some f)) s = .next t ∧ (getC t c.val).stage = p.stage ∧ t.mem.cells = s.mem.cells ∧
            (getC t c.val).threads.getD n.val none = none ∧ Fails s t c.val j.iss (vecCause f.1) 1) ∧
        (∀ e, u.st = .running → runVec { s with free := s.free + 1 } c.val j.iss v j.got fault = (s1, .access e) →
          ∃ t, exec (.vecComplete c n fault) s = .next t ∧ t.mem.cells = s1.mem.cells ∧
            (getStream (getC t c.val) j.iss.slot).st = .halted ∧ (getC t c.val).sems = p.sems ∧
            (getC t c.val).threads.getD n.val none = none ∧
            (p.errValid = false → ∃ q, (getC t c.val).err = some q ∧ q.stream = j.iss.slot ∧ q.cause = e))) ∧
      (∀ host k g b s2 j2, wellFormed (.gatherArrival c ⟨n, host⟩) = true → j.out = true → j.blks = [k] → p.gatherQ = [] →
        (∀ q y, q ≠ n.val → p.threads.getD q none = some y → y.out = false) → p.gather.find? (fun g => g.blk == k) = some g →
        (∀ q ∈ j.got, blockOk q.2 = true) → NoLockout s2 →
        ((∃ q pg off e w, translate s u.ctx (BitVec.ofNat 48 (256 * k)) = .localPage q pg off e w ∧
            readLocal s u.ctx q pg (off - off % 256) e = (s2, b)) ∨
          (∃ h w, translate s u.ctx (BitVec.ofNat 48 (256 * k)) = .host h w ∧ mapGet? host k = some b ∧ s2 = s) ∨
          (∃ e m rc rva r w, translate s u.ctx (BitVec.ofNat 48 (256 * k)) = .peer e m rc rva r w ∧ g.data = some b ∧ s2 = s)) →
        j2 = { j with blks := [], came := k :: j.came, got := mapSet j.got k b } →
        (blockOk b = true → nextNeed (modC s2 c.val (deliver k b)) c.val v j2 = none →
          ∃ t, exec (.gatherArrival c ⟨n, host⟩) s = .next t ∧ t.mem.cells = s2.mem.cells ∧ (getC t c.val).stage = p.stage ∧
            (getC t c.val).threads.getD n.val none = some { j2 with out := false } ∧
            ∀ q, getStream (getC t c.val) q = getStream p q) ∧
        (blockOk b = false → ∃ t, exec (.gatherArrival c ⟨n, host⟩) s = .next t ∧ t.mem.cells = s2.mem.cells ∧
          (getC t c.val).stage = p.stage ∧ (getC t c.val).threads.getD n.val none = none ∧ Fails s t c.val j.iss 8 3 ∧
          (getC t c.val).cnt.veCrc = p.cnt.veCrc + 1)) ∧
      (∀ host k g, wellFormed (.gatherArrival c ⟨n, host⟩) = true → j.out = true → j.blks = [k] → p.gatherQ = [] →
        (∀ q y, q ≠ n.val → p.threads.getD q none = some y → y.out = false) → p.gather.find? (fun g => g.blk == k) = some g →
        (∀ q ∈ j.got, blockOk q.2 = true) →
        (∃ h w, translate s u.ctx (BitVec.ofNat 48 (256 * k)) = .host h w ∧ mapGet? host k = none) ∨
          (∃ e m rc rva r w, translate s u.ctx (BitVec.ofNat 48 (256 * k)) = .peer e m rc rva r w ∧ g.data = none) →
        ∃ t, exec (.gatherArrival c ⟨n, host⟩) s = .next t ∧ t.mem = s.mem ∧ (getC t c.val).threads = p.threads ∧
          ∀ q, getStream (getC t c.val) q = getStream p q)) ∧
    (AtRest s → (∀ j, p.threads.getD n.val none = some j → j.out = true ∨ j.ended = true) → ∀ f,
      exec (.vecComplete c n f) s = .next s) ∧
    (AtRest s → (∀ j, p.threads.getD n.val none = some j → j.out = false) → ∀ host, wellFormed (.gatherArrival c ⟨n, host⟩) = true →
      exec (.gatherArrival c ⟨n, host⟩) s = .next s)

/-- R127 to R132: what becomes of a held descriptor. When its rerun passes its result stands: the slot is freed, the semaphore is
signalled and the descriptor counts; at step 1 a transient is counted, and at step 2 the slot that failed first has a verdict, since
another core passed. When the rerun of step 1 fails, another core is due. When that core fails alike, or an input block fails its CRC,
the inputs are suspect: step 3 is due, and is counted. Another core that fails in the same check but not alike is a verdict, and the
next core is due; one that fails otherwise sends both slots to their test and marks the step bad, as does a failure at step 3. A rerun
whose access faults halts its stream with the cause; one that cannot begin, or a slot that waits for its order, changes nothing. A slot
held for 1 ms marks the step of its context bad and is freed; before that nothing happens. -/
def Obligations.FailedWorkIsReplayed : Prop :=
  ∀ (c : Core) (k : Fin 4) (s : State) (r : Replay) (p : PCore) (ctx o : Nat), p = getC s c.val →
    (getL s c.val).replay.getD k.val none = some r → r.iss.slot < 16 → ctx = (getStream p r.iss.slot).ctx → NoneBlocked s c.val →
    NoLockout s → o = (if r.step = 2 then r.other.getD (physOf s c.val) else physOf s c.val) →
    (inService s c.val = true → r.st = .running → (∀ m, servedBy s o = some m → NoneBlocked s m) → ∀ f,
      wellFormed (.replayResult c k f) = true →
      (∀ t0, NoLockout t0 → rerun s c.val o r f = .passed t0 → ∃ t, exec (.replayResult c k f) s = .next t ∧
        (getL t c.val).replay.getD k.val none = none ∧ (getC t c.val).stage = (getC t0 c.val).stage ∧ t.mem.cells = t0.mem.cells ∧
        (getStream (getC t c.val) r.iss.slot).inflight = (getStream p r.iss.slot).inflight.erase r.iss.id ∧
        (getStream (getC t c.val) r.iss.slot).prog = (getStream p r.iss.slot).prog + 1 ∧
        (getC t c.val).sems = (signalled p r.iss.desc).sems ∧
        (r.step = 1 → (getC t c.val).cnt.transient = (getC t0 c.val).cnt.transient + 1) ∧
        (r.step = 2 → (mapGet? t.hub.retire (physOf s c.val)).isSome = true)) ∧
      (∀ t0 g, NoLockout t0 → rerun s c.val o r f = .failed t0 g → r.step = 1 ∨ r.step = 2 ∨ r.step = 3 →
        ∃ t, exec (.replayResult c k f) s = .next t ∧ (getC t c.val).stage = (getC t0 c.val).stage ∧ t.mem.cells = t0.mem.cells ∧
          (getC t c.val).sems = p.sems ∧ (∀ i, getStream (getC t c.val) i = getStream p i) ∧
          (g.cause ≠ 8 → r.step = 1 → (getL t c.val).replay.getD k.val none =
            some { r with st := .held, step := 2, other := none, want := [], guest := [] }) ∧
          (g.cause = 8 ∧ r.step ≠ 3 ∨ g.cause ≠ 8 ∧ r.step = 2 ∧ failsAlike r g = true → (getL t c.val).replay.getD k.val none =
            some { r with st := .held, step := 3, other := none, want := [], guest := [] } ∧
            (getC t c.val).cnt.input = (getC t0 c.val).cnt.input + 1) ∧
          (g.cause ≠ 8 → r.step = 2 → failsAlike r g = false →
            (3 ≤ r.cause.toNat ∧ r.cause.toNat ≤ 7 ∧ g.cause = r.cause →
              (mapGet? t.hub.retire (physOf s c.val)).isSome = true ∧ (getL t c.val).replay.getD k.val none =
                some { r with st := .held, step := 2, other := none, want := [], guest := [] }) ∧
            (¬ (3 ≤ r.cause.toNat ∧ r.cause.toNat ≤ 7 ∧ g.cause = r.cause) → t.hub.slotTesting.contains (physOf s c.val) = true ∧
              t.hub.slotTesting.contains o = true ∧ (getL t c.val).replay.getD k.val none = none ∧
              (ctx < 64 → (getCtx t ctx).led.bad = true))) ∧
          (r.step = 3 → (getL t c.val).replay.getD k.val none = none ∧ (ctx < 64 → (getCtx t ctx).led.bad = true))) ∧
      (∀ t0 e, NoLockout t0 → (getStream p r.iss.slot).st = .running → rerun s c.val o r f = .access t0 e →
        ∃ t, exec (.replayResult c k f) s = .next t ∧ (getL t c.val).replay.getD k.val none = none ∧
          (getStream (getC t c.val) r.iss.slot).st = .halted ∧ (getC t c.val).sems = p.sems ∧
          (p.errValid = false → ∃ q, (getC t c.val).err = some q ∧ q.stream = r.iss.slot ∧ q.cause = e)) ∧
      (AtRest s → rerun s c.val o r f = .wait → exec (.replayResult c k f) s = .next s)) ∧
    (AtRest s → inService s c.val = false ∨ r.st ≠ .running → ∀ f, wellFormed (.replayResult c k f) = true →
      exec (.replayResult c k f) s = .next s) ∧
    (1000 * ticksPerUs ≤ ticksSince s.time.now r.since → ctx < 64 → ∃ t, exec (.replaySlotTimeout c k) s = .next t ∧
      (getL t c.val).replay.getD k.val none = none ∧ (getCtx t ctx).led.bad = true ∧ t.mem = s.mem ∧
      (getC t c.val).sems = p.sems ∧ (getC t c.val).stage = p.stage) ∧
    (AtRest s → ticksSince s.time.now r.since < 1000 * ticksPerUs → exec (.replaySlotTimeout c k) s = .next s)

/-- R25, R132 to R134, R168, R375: a logical core moves to the lowest free spare of its die, by its verdict or for new microcode: its
streams' places, its semaphores and its stage buffer move with it, its streams count anew, what it holds for replay is marked for
reissue or has been issued again, and the map names the new slot under a new generation. A verdict retires the old slot; with no spare
left the logical core leaves service as retired, and its streams stop. A core without a verdict, or that is not the next of a rollout,
stays. -/
def Obligations.CoresMoveToSpares : Prop :=
  ∀ (c : Core) (s : State) (p : PCore) (b : Nat), p = getC s c.val → b = physOf s c.val →
    (inService s c.val = true → NoneBlocked s c.val →
      (∀ q x, (freeSpares s (c.val / 32)).head? = some q →
        (x = .coreRetire c ∧ (mapGet? s.hub.retire b).isSome = true ∨
          x = .microcodeRollCore c ∧ (∃ f y, s.hub.actReq = some (f, 2, y)) ∧ recovering s = false ∧ rollNext s = some c.val) →
        ∃ t, exec x s = .next t ∧ physOf t c.val = q ∧ inService t c.val = true ∧ (getC t c.val).stage = p.stage ∧
          (getC t c.val).sems = p.sems ∧ (getC t c.val).ctx = p.ctx ∧ t.mem.cells = s.mem.cells ∧
          t.hub.mapGen = s.hub.mapGen + 2 ∧ t.hub.capGen = t.hub.mapGen ∧
          (∀ i, (getStream (getC t c.val) i).pc = (getStream p i).pc ∧ (getStream (getC t c.val) i).prog = 0) ∧
          ((∀ k, p.threads.getD k none = none) → (∀ k, (getL s c.val).replay.getD k none = none) →
            ∀ i, (getStream (getC t c.val) i).st = (getStream p i).st) ∧
          (∀ k, (getL t c.val).replay.getD k none = none ∨
            ∃ r, (getL t c.val).replay.getD k none = some r ∧ r.step = 0 ∧ r.st = .held) ∧
          (x = .coreRetire c → t.hub.slotRetired.contains b = true ∧ mapGet? t.hub.retire b = none) ∧
          (x = .microcodeRollCore c → t.hub.slotRetired = s.hub.slotRetired ∧ c.val ∉ (getImage t 2).pending ∧
            ((getImage t 2).pending ≠ [] → b ∈ t.hub.newSlots ∧ q ∈ t.hub.newSlots))) ∧
      ((mapGet? s.hub.retire b).isSome = true → (freeSpares s (c.val / 32)).head? = none →
        ∃ t, exec (.coreRetire c) s = .next t ∧ inService t c.val = false ∧ coreEntry t c.val = { phys := b, status := .retired } ∧
          t.hub.slotRetired.contains b = true ∧ mapGet? t.hub.retire b = none ∧ t.hub.mapGen = s.hub.mapGen + 2 ∧
          t.mem.cells = s.mem.cells ∧ ∀ i, (getStream (getC t c.val) i).st = .idle)) ∧
    (AtRest s → inService s c.val = false ∨ mapGet? s.hub.retire b = none → exec (.coreRetire c) s = .next s) ∧
    (AtRest s → exec (.microcodeRollCore c) s = .next s) ∧
    (rollNext s ≠ some c.val ∨ recovering s = true → Leads (.microcodeRollCore c) s s)
end

