-- ==== Sys2Proof/Laws/Maps.lean ====
section
/-! SUPPORT. Finite maps and byte memories: a read after a write to the same place gives the value written, a write leaves every
other place alone, and every memory operation keeps the canonical form. -/

namespace Sys2Proof.Machine

/-! ### Finite maps -/

theorem mapGet?_set_same {α : Type} (m : AMap α) (i : Nat) (x : α) : mapGet? (mapSet m i x) i = some x := by
  induction m with
  | nil => simp [mapSet, mapGet?]
  | cons a t ih =>
    obtain ⟨k, v⟩ := a
    simp only [mapSet]
    split
    · simp [mapGet?]
    · split <;> simp [mapGet?, *]

theorem mapGet?_set_other {α : Type} (m : AMap α) {i j : Nat} (h : j ≠ i) (x : α) : mapGet? (mapSet m i x) j = mapGet? m j := by
  induction m with
  | nil => simp [mapSet, mapGet?, Ne.symm h]
  | cons a t ih =>
    obtain ⟨k, v⟩ := a
    simp only [mapSet]
    split
    · subst_vars
      simp [mapGet?, Ne.symm h]
    · split <;> simp [mapGet?, Ne.symm h, ih]

@[simp] theorem mapGet_set_same {α : Type} (m : AMap α) (i : Nat) (x d : α) : mapGet (mapSet m i x) i d = x := by
  simp [mapGet, mapGet?_set_same]

theorem mapGet_set_other {α : Type} (m : AMap α) {i j : Nat} (h : j ≠ i) (x d : α) : mapGet (mapSet m i x) j d = mapGet m j d := by
  simp [mapGet, mapGet?_set_other m h]

theorem mapGet?_erase_same {α : Type} (m : AMap α) (i : Nat) : mapGet? (mapErase m i) i = none := by
  induction m with
  | nil => rfl
  | cons a t ih =>
    obtain ⟨k, v⟩ := a
    simp only [mapErase]
    split <;> simp [mapGet?, *]

theorem mapGet?_erase_other {α : Type} (m : AMap α) {i j : Nat} (h : j ≠ i) : mapGet? (mapErase m i) j = mapGet? m j := by
  induction m with
  | nil => rfl
  | cons a t ih =>
    obtain ⟨k, v⟩ := a
    simp only [mapErase]
    split
    · subst_vars
      simp [mapGet?, Ne.symm h, ih]
    · simp [mapGet?, ih]

/-! ### Byte memories -/

/-- Every listed address lies at or above a bound. -/
def memFrom (lo : Nat) (m : Memory) : Bool := m.all fun c => decide (lo ≤ c.1)

theorem memFrom_cons {lo a : Nat} {v : Byte} {t : Memory} : memFrom lo ((a, v) :: t) = true ↔ lo ≤ a ∧ memFrom lo t = true := by
  simp [memFrom]

theorem memoryWf_cons {a : Nat} {v : Byte} {t : Memory} :
    memoryWf ((a, v) :: t) = true ↔ v ≠ 0 ∧ memFrom (a + 1) t = true ∧ memoryWf t = true := by
  induction t generalizing a v with
  | nil => simp [memoryWf, memFrom]
  | cons c t ih =>
    obtain ⟨b, w⟩ := c
    have step : memoryWf ((a, v) :: (b, w) :: t) = true ↔ v ≠ 0 ∧ a < b ∧ memoryWf ((b, w) :: t) = true := by
      simp [memoryWf, and_assoc]
    have mono : memFrom (b + 1) t = true → a < b → memFrom (a + 1) t = true := by
      simp only [memFrom, List.all_eq_true, decide_eq_true_eq]
      intro h hab x hx
      have := h x hx
      omega
    rw [step]
    constructor
    · rintro ⟨h1, h2, h3⟩
      refine ⟨h1, ?_, h3⟩
      have := (ih.mp h3).2.1
      exact memFrom_cons.mpr ⟨h2, mono this h2⟩
    · rintro ⟨h1, h2, h3⟩
      refine ⟨h1, ?_, h3⟩
      exact (memFrom_cons.mp h2).1

theorem memFrom_mono {m : Memory} {a b : Nat} (h : memFrom b m = true) (hab : a ≤ b) : memFrom a m = true := by
  simp only [memFrom, List.all_eq_true, decide_eq_true_eq] at *
  intro x hx
  have := h x hx
  omega

theorem memFrom_set {m : Memory} {lo i : Nat} (h : memFrom lo m = true) (hi : lo ≤ i) (x : Byte) :
    memFrom lo (memSet m i x) = true := by
  induction m with
  | nil => unfold memSet; split <;> simp [memFrom, hi]
  | cons c t ih =>
    obtain ⟨a, v⟩ := c
    have hc := memFrom_cons.mp h
    unfold memSet
    split
    · split
      · exact hc.2
      · exact memFrom_cons.mpr ⟨hi, hc.2⟩
    · split
      · split
        · exact h
        · exact memFrom_cons.mpr ⟨hi, h⟩
      · exact memFrom_cons.mpr ⟨hc.1, ih hc.2⟩

/-- Writing a byte keeps the canonical form. -/
theorem memoryWf_set {m : Memory} (h : memoryWf m = true) (i : Nat) (x : Byte) : memoryWf (memSet m i x) = true := by
  induction m with
  | nil => unfold memSet; split <;> simp_all [memoryWf]
  | cons c t ih =>
    obtain ⟨a, v⟩ := c
    obtain ⟨hv, hf, ht⟩ := memoryWf_cons.mp h
    unfold memSet
    split
    · rename_i he
      split
      · exact ht
      · exact memoryWf_cons.mpr ⟨by assumption, he ▸ hf, ht⟩
    · split
      · rename_i hlt
        split
        · exact h
        · refine memoryWf_cons.mpr ⟨by assumption, ?_, h⟩
          exact memFrom_cons.mpr ⟨hlt, memFrom_mono hf (by omega)⟩
      · exact memoryWf_cons.mpr ⟨hv, memFrom_set hf (by omega) x, ih ht⟩

/-- Writing bytes keeps the canonical form. -/
theorem memoryWf_write {m : Memory} (h : memoryWf m = true) (a : Nat) (d : Bytes) : memoryWf (memWrite m a d) = true := by
  induction d generalizing m a with
  | nil => exact h
  | cons b t ih => exact ih (memoryWf_set h a b) (a + 1)

/-- Clearing a range keeps the canonical form. -/
theorem memoryWf_clear {m : Memory} (h : memoryWf m = true) (lo hi : Nat) : memoryWf (memClear m lo hi) = true := by
  induction m with
  | nil => rfl
  | cons c t ih =>
    obtain ⟨a, v⟩ := c
    obtain ⟨hv, hf, ht⟩ := memoryWf_cons.mp h
    unfold memClear at *
    rw [List.filter_cons]
    split
    · refine memoryWf_cons.mpr ⟨hv, ?_, ih ht⟩
      simp only [memFrom, List.all_eq_true, decide_eq_true_eq] at *
      exact fun x hx => hf x (List.mem_of_mem_filter hx)
    · exact ih ht

theorem memGet_from {m : Memory} {lo i : Nat} (h : memFrom lo m = true) (hi : i < lo) : memGet m i = 0 := by
  induction m with
  | nil => rfl
  | cons c t ih =>
    obtain ⟨a, v⟩ := c
    obtain ⟨h1, h2⟩ := memFrom_cons.mp h
    have : ¬ a = i := by omega
    simp only [memGet, this, if_false]
    exact ih h2

/-- A byte reads as it was written. -/
theorem memGet_set_same {m : Memory} (h : memoryWf m = true) (i : Nat) (x : Byte) : memGet (memSet m i x) i = x := by
  induction m with
  | nil => unfold memSet; split <;> simp [memGet, *]
  | cons c t ih =>
    obtain ⟨a, v⟩ := c
    obtain ⟨-, hf, ht⟩ := memoryWf_cons.mp h
    unfold memSet
    split
    · rename_i he
      split
      · rename_i hx
        rw [hx]
        exact memGet_from hf (by omega)
      · simp [memGet]
    · rename_i hne
      split
      · rename_i hlt
        split
        · rename_i hx
          rw [hx]
          exact memGet_from (memFrom_cons.mpr ⟨(by omega : i + 1 ≤ a), memFrom_mono hf (by omega)⟩) (by omega)
        · simp [memGet]
      · simp [memGet, hne, ih ht]

/-- Every other byte stays. -/
theorem memGet_set_other {m : Memory} {i j : Nat} (h : j ≠ i) (x : Byte) : memGet (memSet m i x) j = memGet m j := by
  induction m with
  | nil => unfold memSet; split <;> simp [memGet, Ne.symm h]
  | cons c t ih =>
    obtain ⟨a, v⟩ := c
    unfold memSet
    split
    · rename_i he
      split <;> simp [memGet, he, Ne.symm h]
    · split
      · split <;> simp [memGet, Ne.symm h]
      · simp [memGet, ih]

/-- Bytes outside those written stay. -/
theorem memGet_write_other (d : Bytes) : ∀ {m : Memory} {a j : Nat}, (j < a ∨ a + d.length ≤ j) → memGet (memWrite m a d) j = memGet m j := by
  induction d with
  | nil => intros; rfl
  | cons b t ih =>
    intro m a j h
    simp only [List.length_cons] at h
    unfold memWrite
    rw [ih (by omega), memGet_set_other (by omega)]

/-- Bytes read as they were written. -/
theorem memGet_write_same (d : Bytes) : ∀ {m : Memory} {a i : Nat}, memoryWf m = true → (h : i < d.length) →
    memGet (memWrite m a d) (a + i) = d[i] := by
  induction d with
  | nil => intro m a i _ h; simp at h
  | cons b t ih =>
    intro m a i hm h
    unfold memWrite
    cases i with
    | zero => simp only [Nat.add_zero, List.getElem_cons_zero]; rw [memGet_write_other t (by omega), memGet_set_same hm]
    | succ i =>
      have := ih (m := memSet m a b) (a := a + 1) (i := i) (memoryWf_set hm a b) (by simpa using h)
      simpa [Nat.add_assoc, Nat.add_comm 1 i] using this

/-- What was written is read back whole. -/
theorem memRead_write {m : Memory} (hm : memoryWf m = true) (a : Nat) (d : Bytes) : memRead (memWrite m a d) a d.length = d := by
  refine List.ext_getElem (by simp [memRead]) fun i h1 h2 => ?_
  simp only [memRead, List.getElem_map, List.getElem_range]
  exact memGet_write_same d hm h2

/-- The memories at reset are in canonical form. -/
theorem reset_memoryWf : memoryWf State.reset.mem.cells = true := rfl

end Sys2Proof.Machine
end

