-- ==== Sys2Proof/Laws/Cores.lean ====
section
/-! SUPPORT. Cores and streams: a read after a write gives what was written, a write of one slot or stream leaves the others alone,
what may issue comes from a running stream of a core that works (R171), and where no stream waits nothing goes on (R172). -/

namespace Sys2Proof.Machine

@[simp] theorem getP_setP_same (s : State) (p : Nat) (c : PCore) : getP (setP s p c) p = c := by simp [getP, setP]

theorem getP_setP_other (s : State) {p q : Nat} (h : q ≠ p) (c : PCore) : getP (setP s p c) q = getP s q := by
  simp [getP, setP, mapGet_set_other _ h]

@[simp] theorem physOf_modC (s : State) (n m : Nat) (f : PCore → PCore) : physOf (modC s n f) m = physOf s m := rfl
@[simp] theorem inService_modC (s : State) (n m : Nat) (f : PCore → PCore) : inService (modC s n f) m = inService s m := rfl
@[simp] theorem getCtx_modC (s : State) (n m : Nat) (f : PCore → PCore) : getCtx (modC s n f) m = getCtx s m := rfl
@[simp] theorem getL_modC (s : State) (n m : Nat) (f : PCore → PCore) : getL (modC s n f) m = getL s m := rfl

@[simp] theorem getC_modC_same (s : State) (n : Nat) (f : PCore → PCore) : getC (modC s n f) n = f (getC s n) := by
  simp [getC, modC, setC, physOf, coreEntry, setP, getP]

theorem getP_modC_other (s : State) (n : Nat) (f : PCore → PCore) {q : Nat} (h : q ≠ physOf s n) :
    getP (modC s n f) q = getP s q := getP_setP_other s h _

@[simp] theorem getL_setL_same (s : State) (n : Nat) (l : LCore) : getL (setL s n l) n = l := by simp [getL, setL]

theorem getL_setL_other (s : State) {n m : Nat} (h : m ≠ n) (l : LCore) : getL (setL s n l) m = getL s m := by
  simp [getL, setL, mapGet_set_other _ h]

theorem getStream_setStream_same (c : PCore) {i : Nat} (h : i < 16) (t : Stream) : getStream (setStream c i t) i = t := by
  simp [getStream, setStream, Vector.getD, h]

theorem getStream_setStream_other (c : PCore) {i k : Nat} (h : k ≠ i) (t : Stream) :
    getStream (setStream c i t) k = getStream c k := by
  simp only [getStream, setStream, Vector.getD]
  by_cases hk : k < 16
  · simp [hk, Vector.getElem_setIfInBounds, h.symm]
  · simp [hk]

theorem getStream_modStream_same (c : PCore) {i : Nat} (h : i < 16) (f : Stream → Stream) :
    getStream (modStream c i f) i = f (getStream c i) := getStream_setStream_same c h _

theorem getStream_modStream_other (c : PCore) {i k : Nat} (h : k ≠ i) (f : Stream → Stream) :
    getStream (modStream c i f) k = getStream c k := getStream_setStream_other c h _

/-- R171: a descriptor that may issue is the next of a running stream of a core that works, and has its opcode. -/
theorem issuable_some {s : State} {n i op : Nat} {d : BitVec 256} (h : issuable s n i op = some d) :
    opcodeOf d = op ∧ readyNext s n i = some d ∧ pickStream s n = some i := by
  unfold issuable at h
  split at h
  · rename_i e he
    split at h
    · rename_i hc
      cases h
      simp only [Bool.and_eq_true, decide_eq_true_eq, beq_iff_eq] at hc
      exact ⟨hc.1, he, hc.2⟩
    · cases h
  · cases h

/-- R171: what a ready descriptor says of its core and its stream. -/
theorem readyNext_some {s : State} {n i : Nat} {d : BitVec 256} (h : readyNext s n i = some d) :
    canIssue s n = true ∧ (getStream (getC s n) i).st = .running ∧
    fetchedAt (getStream (getC s n) i) (issuePc (getStream (getC s n) i)) = some d ∧
    headerReady (getC s n) (getStream (getC s n) i) d = true ∧ hasRoom s n i d = true := by
  unfold readyNext at h
  simp only at h
  split at h
  · rename_i hc
    simp only [Bool.and_eq_true, beq_iff_eq] at hc
    split at h
    · rename_i e he
      split at h
      · rename_i hr
        cases h
        simp only [Bool.and_eq_true] at hr
        exact ⟨hc.1.1, hc.1.2, he, hr.1, hr.2⟩
      · cases h
    · cases h
  · cases h

/-- R172: on a core where no stream waits, nothing goes on. -/
theorem wakeOne_none {s : State} {n : Nat} (h : ∀ i, (getStream (getC s n) i).blocked = none) :
    ∀ l, wakeOne s n l = none
  | [] => rfl
  | i :: t => by
    have : unblock s n i = none := by simp [unblock, h i]
    rw [wakeOne, this]
    exact wakeOne_none h t

theorem wakeCore_none {s : State} {n : Nat} (h : ∀ i, (getStream (getC s n) i).blocked = none) : wakeCore s n = s := by
  show wakeLoop 64 s n = s
  unfold wakeLoop
  rw [wakeOne_none h]

end Sys2Proof.Machine
end

