-- ==== Sys2Proof/Laws/State.lean ====
section
/-! SUPPORT. One lemma per field of the state for every update of one part of it: the part takes its new value, every other
field stays. -/

namespace Sys2Proof.Machine

variable (s : State)

@[simp] theorem modHub_opt (f : Hub → Hub) : (modHub s f).opt = s.opt := rfl
@[simp] theorem modHub_pins (f : Hub → Hub) : (modHub s f).pins = s.pins := rfl
@[simp] theorem modHub_hub (f : Hub → Hub) : (modHub s f).hub = f s.hub := rfl
@[simp] theorem modHub_time (f : Hub → Hub) : (modHub s f).time = s.time := rfl
@[simp] theorem modHub_latches (f : Hub → Hub) : (modHub s f).latches = s.latches := rfl
@[simp] theorem modHub_ticks (f : Hub → Hub) : (modHub s f).ticks = s.ticks := rfl
@[simp] theorem modHub_slots (f : Hub → Hub) : (modHub s f).slots = s.slots := rfl
@[simp] theorem modHub_lcores (f : Hub → Hub) : (modHub s f).lcores = s.lcores := rfl
@[simp] theorem modHub_mem (f : Hub → Hub) : (modHub s f).mem = s.mem := rfl
@[simp] theorem modHub_ctxs (f : Hub → Hub) : (modHub s f).ctxs = s.ctxs := rfl
@[simp] theorem modHub_fab (f : Hub → Hub) : (modHub s f).fab = s.fab := rfl
@[simp] theorem modHub_mail (f : Hub → Hub) : (modHub s f).mail = s.mail := rfl
@[simp] theorem modHub_sec (f : Hub → Hub) : (modHub s f).sec = s.sec := rfl
@[simp] theorem modHub_pwr (f : Hub → Hub) : (modHub s f).pwr = s.pwr := rfl
@[simp] theorem modHub_diag (f : Hub → Hub) : (modHub s f).diag = s.diag := rfl
@[simp] theorem modHub_outbox (f : Hub → Hub) : (modHub s f).outbox = s.outbox := rfl
@[simp] theorem modHub_free (f : Hub → Hub) : (modHub s f).free = s.free := rfl
@[simp] theorem modHub_pending (f : Hub → Hub) : (modHub s f).pending = s.pending := rfl

@[simp] theorem modTime_opt (f : TimeBlock → TimeBlock) : (modTime s f).opt = s.opt := rfl
@[simp] theorem modTime_pins (f : TimeBlock → TimeBlock) : (modTime s f).pins = s.pins := rfl
@[simp] theorem modTime_hub (f : TimeBlock → TimeBlock) : (modTime s f).hub = s.hub := rfl
@[simp] theorem modTime_time (f : TimeBlock → TimeBlock) : (modTime s f).time = f s.time := rfl
@[simp] theorem modTime_latches (f : TimeBlock → TimeBlock) : (modTime s f).latches = s.latches := rfl
@[simp] theorem modTime_ticks (f : TimeBlock → TimeBlock) : (modTime s f).ticks = s.ticks := rfl
@[simp] theorem modTime_slots (f : TimeBlock → TimeBlock) : (modTime s f).slots = s.slots := rfl
@[simp] theorem modTime_lcores (f : TimeBlock → TimeBlock) : (modTime s f).lcores = s.lcores := rfl
@[simp] theorem modTime_mem (f : TimeBlock → TimeBlock) : (modTime s f).mem = s.mem := rfl
@[simp] theorem modTime_ctxs (f : TimeBlock → TimeBlock) : (modTime s f).ctxs = s.ctxs := rfl
@[simp] theorem modTime_fab (f : TimeBlock → TimeBlock) : (modTime s f).fab = s.fab := rfl
@[simp] theorem modTime_mail (f : TimeBlock → TimeBlock) : (modTime s f).mail = s.mail := rfl
@[simp] theorem modTime_sec (f : TimeBlock → TimeBlock) : (modTime s f).sec = s.sec := rfl
@[simp] theorem modTime_pwr (f : TimeBlock → TimeBlock) : (modTime s f).pwr = s.pwr := rfl
@[simp] theorem modTime_diag (f : TimeBlock → TimeBlock) : (modTime s f).diag = s.diag := rfl
@[simp] theorem modTime_outbox (f : TimeBlock → TimeBlock) : (modTime s f).outbox = s.outbox := rfl
@[simp] theorem modTime_free (f : TimeBlock → TimeBlock) : (modTime s f).free = s.free := rfl
@[simp] theorem modTime_pending (f : TimeBlock → TimeBlock) : (modTime s f).pending = s.pending := rfl

@[simp] theorem modFab_opt (f : Fabric → Fabric) : (modFab s f).opt = s.opt := rfl
@[simp] theorem modFab_pins (f : Fabric → Fabric) : (modFab s f).pins = s.pins := rfl
@[simp] theorem modFab_hub (f : Fabric → Fabric) : (modFab s f).hub = s.hub := rfl
@[simp] theorem modFab_time (f : Fabric → Fabric) : (modFab s f).time = s.time := rfl
@[simp] theorem modFab_latches (f : Fabric → Fabric) : (modFab s f).latches = s.latches := rfl
@[simp] theorem modFab_ticks (f : Fabric → Fabric) : (modFab s f).ticks = s.ticks := rfl
@[simp] theorem modFab_slots (f : Fabric → Fabric) : (modFab s f).slots = s.slots := rfl
@[simp] theorem modFab_lcores (f : Fabric → Fabric) : (modFab s f).lcores = s.lcores := rfl
@[simp] theorem modFab_mem (f : Fabric → Fabric) : (modFab s f).mem = s.mem := rfl
@[simp] theorem modFab_ctxs (f : Fabric → Fabric) : (modFab s f).ctxs = s.ctxs := rfl
@[simp] theorem modFab_fab (f : Fabric → Fabric) : (modFab s f).fab = f s.fab := rfl
@[simp] theorem modFab_mail (f : Fabric → Fabric) : (modFab s f).mail = s.mail := rfl
@[simp] theorem modFab_sec (f : Fabric → Fabric) : (modFab s f).sec = s.sec := rfl
@[simp] theorem modFab_pwr (f : Fabric → Fabric) : (modFab s f).pwr = s.pwr := rfl
@[simp] theorem modFab_diag (f : Fabric → Fabric) : (modFab s f).diag = s.diag := rfl
@[simp] theorem modFab_outbox (f : Fabric → Fabric) : (modFab s f).outbox = s.outbox := rfl
@[simp] theorem modFab_free (f : Fabric → Fabric) : (modFab s f).free = s.free := rfl
@[simp] theorem modFab_pending (f : Fabric → Fabric) : (modFab s f).pending = s.pending := rfl

@[simp] theorem modMail_opt (f : Mail → Mail) : (modMail s f).opt = s.opt := rfl
@[simp] theorem modMail_pins (f : Mail → Mail) : (modMail s f).pins = s.pins := rfl
@[simp] theorem modMail_hub (f : Mail → Mail) : (modMail s f).hub = s.hub := rfl
@[simp] theorem modMail_time (f : Mail → Mail) : (modMail s f).time = s.time := rfl
@[simp] theorem modMail_latches (f : Mail → Mail) : (modMail s f).latches = s.latches := rfl
@[simp] theorem modMail_ticks (f : Mail → Mail) : (modMail s f).ticks = s.ticks := rfl
@[simp] theorem modMail_slots (f : Mail → Mail) : (modMail s f).slots = s.slots := rfl
@[simp] theorem modMail_lcores (f : Mail → Mail) : (modMail s f).lcores = s.lcores := rfl
@[simp] theorem modMail_mem (f : Mail → Mail) : (modMail s f).mem = s.mem := rfl
@[simp] theorem modMail_ctxs (f : Mail → Mail) : (modMail s f).ctxs = s.ctxs := rfl
@[simp] theorem modMail_fab (f : Mail → Mail) : (modMail s f).fab = s.fab := rfl
@[simp] theorem modMail_mail (f : Mail → Mail) : (modMail s f).mail = f s.mail := rfl
@[simp] theorem modMail_sec (f : Mail → Mail) : (modMail s f).sec = s.sec := rfl
@[simp] theorem modMail_pwr (f : Mail → Mail) : (modMail s f).pwr = s.pwr := rfl
@[simp] theorem modMail_diag (f : Mail → Mail) : (modMail s f).diag = s.diag := rfl
@[simp] theorem modMail_outbox (f : Mail → Mail) : (modMail s f).outbox = s.outbox := rfl
@[simp] theorem modMail_free (f : Mail → Mail) : (modMail s f).free = s.free := rfl
@[simp] theorem modMail_pending (f : Mail → Mail) : (modMail s f).pending = s.pending := rfl

@[simp] theorem modDiag_opt (f : Diag → Diag) : (modDiag s f).opt = s.opt := rfl
@[simp] theorem modDiag_pins (f : Diag → Diag) : (modDiag s f).pins = s.pins := rfl
@[simp] theorem modDiag_hub (f : Diag → Diag) : (modDiag s f).hub = s.hub := rfl
@[simp] theorem modDiag_time (f : Diag → Diag) : (modDiag s f).time = s.time := rfl
@[simp] theorem modDiag_latches (f : Diag → Diag) : (modDiag s f).latches = s.latches := rfl
@[simp] theorem modDiag_ticks (f : Diag → Diag) : (modDiag s f).ticks = s.ticks := rfl
@[simp] theorem modDiag_slots (f : Diag → Diag) : (modDiag s f).slots = s.slots := rfl
@[simp] theorem modDiag_lcores (f : Diag → Diag) : (modDiag s f).lcores = s.lcores := rfl
@[simp] theorem modDiag_mem (f : Diag → Diag) : (modDiag s f).mem = s.mem := rfl
@[simp] theorem modDiag_ctxs (f : Diag → Diag) : (modDiag s f).ctxs = s.ctxs := rfl
@[simp] theorem modDiag_fab (f : Diag → Diag) : (modDiag s f).fab = s.fab := rfl
@[simp] theorem modDiag_mail (f : Diag → Diag) : (modDiag s f).mail = s.mail := rfl
@[simp] theorem modDiag_sec (f : Diag → Diag) : (modDiag s f).sec = s.sec := rfl
@[simp] theorem modDiag_pwr (f : Diag → Diag) : (modDiag s f).pwr = s.pwr := rfl
@[simp] theorem modDiag_diag (f : Diag → Diag) : (modDiag s f).diag = f s.diag := rfl
@[simp] theorem modDiag_outbox (f : Diag → Diag) : (modDiag s f).outbox = s.outbox := rfl
@[simp] theorem modDiag_free (f : Diag → Diag) : (modDiag s f).free = s.free := rfl
@[simp] theorem modDiag_pending (f : Diag → Diag) : (modDiag s f).pending = s.pending := rfl

@[simp] theorem modMem_opt (f : Mem → Mem) : (modMem s f).opt = s.opt := rfl
@[simp] theorem modMem_pins (f : Mem → Mem) : (modMem s f).pins = s.pins := rfl
@[simp] theorem modMem_hub (f : Mem → Mem) : (modMem s f).hub = s.hub := rfl
@[simp] theorem modMem_time (f : Mem → Mem) : (modMem s f).time = s.time := rfl
@[simp] theorem modMem_latches (f : Mem → Mem) : (modMem s f).latches = s.latches := rfl
@[simp] theorem modMem_ticks (f : Mem → Mem) : (modMem s f).ticks = s.ticks := rfl
@[simp] theorem modMem_slots (f : Mem → Mem) : (modMem s f).slots = s.slots := rfl
@[simp] theorem modMem_lcores (f : Mem → Mem) : (modMem s f).lcores = s.lcores := rfl
@[simp] theorem modMem_mem (f : Mem → Mem) : (modMem s f).mem = f s.mem := rfl
@[simp] theorem modMem_ctxs (f : Mem → Mem) : (modMem s f).ctxs = s.ctxs := rfl
@[simp] theorem modMem_fab (f : Mem → Mem) : (modMem s f).fab = s.fab := rfl
@[simp] theorem modMem_mail (f : Mem → Mem) : (modMem s f).mail = s.mail := rfl
@[simp] theorem modMem_sec (f : Mem → Mem) : (modMem s f).sec = s.sec := rfl
@[simp] theorem modMem_pwr (f : Mem → Mem) : (modMem s f).pwr = s.pwr := rfl
@[simp] theorem modMem_diag (f : Mem → Mem) : (modMem s f).diag = s.diag := rfl
@[simp] theorem modMem_outbox (f : Mem → Mem) : (modMem s f).outbox = s.outbox := rfl
@[simp] theorem modMem_free (f : Mem → Mem) : (modMem s f).free = s.free := rfl
@[simp] theorem modMem_pending (f : Mem → Mem) : (modMem s f).pending = s.pending := rfl

@[simp] theorem modPwr_opt (f : Power → Power) : (modPwr s f).opt = s.opt := rfl
@[simp] theorem modPwr_pins (f : Power → Power) : (modPwr s f).pins = s.pins := rfl
@[simp] theorem modPwr_hub (f : Power → Power) : (modPwr s f).hub = s.hub := rfl
@[simp] theorem modPwr_time (f : Power → Power) : (modPwr s f).time = s.time := rfl
@[simp] theorem modPwr_latches (f : Power → Power) : (modPwr s f).latches = s.latches := rfl
@[simp] theorem modPwr_ticks (f : Power → Power) : (modPwr s f).ticks = s.ticks := rfl
@[simp] theorem modPwr_slots (f : Power → Power) : (modPwr s f).slots = s.slots := rfl
@[simp] theorem modPwr_lcores (f : Power → Power) : (modPwr s f).lcores = s.lcores := rfl
@[simp] theorem modPwr_mem (f : Power → Power) : (modPwr s f).mem = s.mem := rfl
@[simp] theorem modPwr_ctxs (f : Power → Power) : (modPwr s f).ctxs = s.ctxs := rfl
@[simp] theorem modPwr_fab (f : Power → Power) : (modPwr s f).fab = s.fab := rfl
@[simp] theorem modPwr_mail (f : Power → Power) : (modPwr s f).mail = s.mail := rfl
@[simp] theorem modPwr_sec (f : Power → Power) : (modPwr s f).sec = s.sec := rfl
@[simp] theorem modPwr_pwr (f : Power → Power) : (modPwr s f).pwr = f s.pwr := rfl
@[simp] theorem modPwr_diag (f : Power → Power) : (modPwr s f).diag = s.diag := rfl
@[simp] theorem modPwr_outbox (f : Power → Power) : (modPwr s f).outbox = s.outbox := rfl
@[simp] theorem modPwr_free (f : Power → Power) : (modPwr s f).free = s.free := rfl
@[simp] theorem modPwr_pending (f : Power → Power) : (modPwr s f).pending = s.pending := rfl

@[simp] theorem modSecCore_opt (f : Sec → Sec) : (modSecCore s f).opt = s.opt := rfl
@[simp] theorem modSecCore_pins (f : Sec → Sec) : (modSecCore s f).pins = s.pins := rfl
@[simp] theorem modSecCore_hub (f : Sec → Sec) : (modSecCore s f).hub = s.hub := rfl
@[simp] theorem modSecCore_time (f : Sec → Sec) : (modSecCore s f).time = s.time := rfl
@[simp] theorem modSecCore_latches (f : Sec → Sec) : (modSecCore s f).latches = s.latches := rfl
@[simp] theorem modSecCore_ticks (f : Sec → Sec) : (modSecCore s f).ticks = s.ticks := rfl
@[simp] theorem modSecCore_slots (f : Sec → Sec) : (modSecCore s f).slots = s.slots := rfl
@[simp] theorem modSecCore_lcores (f : Sec → Sec) : (modSecCore s f).lcores = s.lcores := rfl
@[simp] theorem modSecCore_mem (f : Sec → Sec) : (modSecCore s f).mem = s.mem := rfl
@[simp] theorem modSecCore_ctxs (f : Sec → Sec) : (modSecCore s f).ctxs = s.ctxs := rfl
@[simp] theorem modSecCore_fab (f : Sec → Sec) : (modSecCore s f).fab = s.fab := rfl
@[simp] theorem modSecCore_mail (f : Sec → Sec) : (modSecCore s f).mail = s.mail := rfl
@[simp] theorem modSecCore_sec (f : Sec → Sec) : (modSecCore s f).sec = f s.sec := rfl
@[simp] theorem modSecCore_pwr (f : Sec → Sec) : (modSecCore s f).pwr = s.pwr := rfl
@[simp] theorem modSecCore_diag (f : Sec → Sec) : (modSecCore s f).diag = s.diag := rfl
@[simp] theorem modSecCore_outbox (f : Sec → Sec) : (modSecCore s f).outbox = s.outbox := rfl
@[simp] theorem modSecCore_free (f : Sec → Sec) : (modSecCore s f).free = s.free := rfl
@[simp] theorem modSecCore_pending (f : Sec → Sec) : (modSecCore s f).pending = s.pending := rfl

@[simp] theorem setP_opt (p : Nat) (c : PCore) : (setP s p c).opt = s.opt := rfl
@[simp] theorem setP_pins (p : Nat) (c : PCore) : (setP s p c).pins = s.pins := rfl
@[simp] theorem setP_hub (p : Nat) (c : PCore) : (setP s p c).hub = s.hub := rfl
@[simp] theorem setP_time (p : Nat) (c : PCore) : (setP s p c).time = s.time := rfl
@[simp] theorem setP_latches (p : Nat) (c : PCore) : (setP s p c).latches = s.latches := rfl
@[simp] theorem setP_ticks (p : Nat) (c : PCore) : (setP s p c).ticks = s.ticks := rfl
@[simp] theorem setP_slots (p : Nat) (c : PCore) : (setP s p c).slots = mapSet s.slots p c := rfl
@[simp] theorem setP_lcores (p : Nat) (c : PCore) : (setP s p c).lcores = s.lcores := rfl
@[simp] theorem setP_mem (p : Nat) (c : PCore) : (setP s p c).mem = s.mem := rfl
@[simp] theorem setP_ctxs (p : Nat) (c : PCore) : (setP s p c).ctxs = s.ctxs := rfl
@[simp] theorem setP_fab (p : Nat) (c : PCore) : (setP s p c).fab = s.fab := rfl
@[simp] theorem setP_mail (p : Nat) (c : PCore) : (setP s p c).mail = s.mail := rfl
@[simp] theorem setP_sec (p : Nat) (c : PCore) : (setP s p c).sec = s.sec := rfl
@[simp] theorem setP_pwr (p : Nat) (c : PCore) : (setP s p c).pwr = s.pwr := rfl
@[simp] theorem setP_diag (p : Nat) (c : PCore) : (setP s p c).diag = s.diag := rfl
@[simp] theorem setP_outbox (p : Nat) (c : PCore) : (setP s p c).outbox = s.outbox := rfl
@[simp] theorem setP_free (p : Nat) (c : PCore) : (setP s p c).free = s.free := rfl
@[simp] theorem setP_pending (p : Nat) (c : PCore) : (setP s p c).pending = s.pending := rfl

@[simp] theorem setC_opt (n : Nat) (c : PCore) : (setC s n c).opt = s.opt := rfl
@[simp] theorem setC_pins (n : Nat) (c : PCore) : (setC s n c).pins = s.pins := rfl
@[simp] theorem setC_hub (n : Nat) (c : PCore) : (setC s n c).hub = s.hub := rfl
@[simp] theorem setC_time (n : Nat) (c : PCore) : (setC s n c).time = s.time := rfl
@[simp] theorem setC_latches (n : Nat) (c : PCore) : (setC s n c).latches = s.latches := rfl
@[simp] theorem setC_ticks (n : Nat) (c : PCore) : (setC s n c).ticks = s.ticks := rfl
@[simp] theorem setC_slots (n : Nat) (c : PCore) : (setC s n c).slots = mapSet s.slots (physOf s n) c := rfl
@[simp] theorem setC_lcores (n : Nat) (c : PCore) : (setC s n c).lcores = s.lcores := rfl
@[simp] theorem setC_mem (n : Nat) (c : PCore) : (setC s n c).mem = s.mem := rfl
@[simp] theorem setC_ctxs (n : Nat) (c : PCore) : (setC s n c).ctxs = s.ctxs := rfl
@[simp] theorem setC_fab (n : Nat) (c : PCore) : (setC s n c).fab = s.fab := rfl
@[simp] theorem setC_mail (n : Nat) (c : PCore) : (setC s n c).mail = s.mail := rfl
@[simp] theorem setC_sec (n : Nat) (c : PCore) : (setC s n c).sec = s.sec := rfl
@[simp] theorem setC_pwr (n : Nat) (c : PCore) : (setC s n c).pwr = s.pwr := rfl
@[simp] theorem setC_diag (n : Nat) (c : PCore) : (setC s n c).diag = s.diag := rfl
@[simp] theorem setC_outbox (n : Nat) (c : PCore) : (setC s n c).outbox = s.outbox := rfl
@[simp] theorem setC_free (n : Nat) (c : PCore) : (setC s n c).free = s.free := rfl
@[simp] theorem setC_pending (n : Nat) (c : PCore) : (setC s n c).pending = s.pending := rfl

@[simp] theorem modC_opt (n : Nat) (f : PCore → PCore) : (modC s n f).opt = s.opt := rfl
@[simp] theorem modC_pins (n : Nat) (f : PCore → PCore) : (modC s n f).pins = s.pins := rfl
@[simp] theorem modC_hub (n : Nat) (f : PCore → PCore) : (modC s n f).hub = s.hub := rfl
@[simp] theorem modC_time (n : Nat) (f : PCore → PCore) : (modC s n f).time = s.time := rfl
@[simp] theorem modC_latches (n : Nat) (f : PCore → PCore) : (modC s n f).latches = s.latches := rfl
@[simp] theorem modC_ticks (n : Nat) (f : PCore → PCore) : (modC s n f).ticks = s.ticks := rfl
@[simp] theorem modC_slots (n : Nat) (f : PCore → PCore) : (modC s n f).slots = mapSet s.slots (physOf s n) (f (getC s n)) := rfl
@[simp] theorem modC_lcores (n : Nat) (f : PCore → PCore) : (modC s n f).lcores = s.lcores := rfl
@[simp] theorem modC_mem (n : Nat) (f : PCore → PCore) : (modC s n f).mem = s.mem := rfl
@[simp] theorem modC_ctxs (n : Nat) (f : PCore → PCore) : (modC s n f).ctxs = s.ctxs := rfl
@[simp] theorem modC_fab (n : Nat) (f : PCore → PCore) : (modC s n f).fab = s.fab := rfl
@[simp] theorem modC_mail (n : Nat) (f : PCore → PCore) : (modC s n f).mail = s.mail := rfl
@[simp] theorem modC_sec (n : Nat) (f : PCore → PCore) : (modC s n f).sec = s.sec := rfl
@[simp] theorem modC_pwr (n : Nat) (f : PCore → PCore) : (modC s n f).pwr = s.pwr := rfl
@[simp] theorem modC_diag (n : Nat) (f : PCore → PCore) : (modC s n f).diag = s.diag := rfl
@[simp] theorem modC_outbox (n : Nat) (f : PCore → PCore) : (modC s n f).outbox = s.outbox := rfl
@[simp] theorem modC_free (n : Nat) (f : PCore → PCore) : (modC s n f).free = s.free := rfl
@[simp] theorem modC_pending (n : Nat) (f : PCore → PCore) : (modC s n f).pending = s.pending := rfl

@[simp] theorem modCnt_opt (n : Nat) (f : CoreCounters → CoreCounters) : (modCnt s n f).opt = s.opt := rfl
@[simp] theorem modCnt_pins (n : Nat) (f : CoreCounters → CoreCounters) : (modCnt s n f).pins = s.pins := rfl
@[simp] theorem modCnt_hub (n : Nat) (f : CoreCounters → CoreCounters) : (modCnt s n f).hub = s.hub := rfl
@[simp] theorem modCnt_time (n : Nat) (f : CoreCounters → CoreCounters) : (modCnt s n f).time = s.time := rfl
@[simp] theorem modCnt_latches (n : Nat) (f : CoreCounters → CoreCounters) : (modCnt s n f).latches = s.latches := rfl
@[simp] theorem modCnt_ticks (n : Nat) (f : CoreCounters → CoreCounters) : (modCnt s n f).ticks = s.ticks := rfl
@[simp] theorem modCnt_lcores (n : Nat) (f : CoreCounters → CoreCounters) : (modCnt s n f).lcores = s.lcores := rfl
@[simp] theorem modCnt_mem (n : Nat) (f : CoreCounters → CoreCounters) : (modCnt s n f).mem = s.mem := rfl
@[simp] theorem modCnt_ctxs (n : Nat) (f : CoreCounters → CoreCounters) : (modCnt s n f).ctxs = s.ctxs := rfl
@[simp] theorem modCnt_fab (n : Nat) (f : CoreCounters → CoreCounters) : (modCnt s n f).fab = s.fab := rfl
@[simp] theorem modCnt_mail (n : Nat) (f : CoreCounters → CoreCounters) : (modCnt s n f).mail = s.mail := rfl
@[simp] theorem modCnt_sec (n : Nat) (f : CoreCounters → CoreCounters) : (modCnt s n f).sec = s.sec := rfl
@[simp] theorem modCnt_pwr (n : Nat) (f : CoreCounters → CoreCounters) : (modCnt s n f).pwr = s.pwr := rfl
@[simp] theorem modCnt_diag (n : Nat) (f : CoreCounters → CoreCounters) : (modCnt s n f).diag = s.diag := rfl
@[simp] theorem modCnt_outbox (n : Nat) (f : CoreCounters → CoreCounters) : (modCnt s n f).outbox = s.outbox := rfl
@[simp] theorem modCnt_free (n : Nat) (f : CoreCounters → CoreCounters) : (modCnt s n f).free = s.free := rfl
@[simp] theorem modCnt_pending (n : Nat) (f : CoreCounters → CoreCounters) : (modCnt s n f).pending = s.pending := rfl

@[simp] theorem setL_opt (n : Nat) (l : LCore) : (setL s n l).opt = s.opt := rfl
@[simp] theorem setL_pins (n : Nat) (l : LCore) : (setL s n l).pins = s.pins := rfl
@[simp] theorem setL_hub (n : Nat) (l : LCore) : (setL s n l).hub = s.hub := rfl
@[simp] theorem setL_time (n : Nat) (l : LCore) : (setL s n l).time = s.time := rfl
@[simp] theorem setL_latches (n : Nat) (l : LCore) : (setL s n l).latches = s.latches := rfl
@[simp] theorem setL_ticks (n : Nat) (l : LCore) : (setL s n l).ticks = s.ticks := rfl
@[simp] theorem setL_slots (n : Nat) (l : LCore) : (setL s n l).slots = s.slots := rfl
@[simp] theorem setL_lcores (n : Nat) (l : LCore) : (setL s n l).lcores = mapSet s.lcores n l := rfl
@[simp] theorem setL_mem (n : Nat) (l : LCore) : (setL s n l).mem = s.mem := rfl
@[simp] theorem setL_ctxs (n : Nat) (l : LCore) : (setL s n l).ctxs = s.ctxs := rfl
@[simp] theorem setL_fab (n : Nat) (l : LCore) : (setL s n l).fab = s.fab := rfl
@[simp] theorem setL_mail (n : Nat) (l : LCore) : (setL s n l).mail = s.mail := rfl
@[simp] theorem setL_sec (n : Nat) (l : LCore) : (setL s n l).sec = s.sec := rfl
@[simp] theorem setL_pwr (n : Nat) (l : LCore) : (setL s n l).pwr = s.pwr := rfl
@[simp] theorem setL_diag (n : Nat) (l : LCore) : (setL s n l).diag = s.diag := rfl
@[simp] theorem setL_outbox (n : Nat) (l : LCore) : (setL s n l).outbox = s.outbox := rfl
@[simp] theorem setL_free (n : Nat) (l : LCore) : (setL s n l).free = s.free := rfl
@[simp] theorem setL_pending (n : Nat) (l : LCore) : (setL s n l).pending = s.pending := rfl

@[simp] theorem setCtx_opt (c : Nat) (x : Context) : (setCtx s c x).opt = s.opt := rfl
@[simp] theorem setCtx_pins (c : Nat) (x : Context) : (setCtx s c x).pins = s.pins := rfl
@[simp] theorem setCtx_hub (c : Nat) (x : Context) : (setCtx s c x).hub = s.hub := rfl
@[simp] theorem setCtx_time (c : Nat) (x : Context) : (setCtx s c x).time = s.time := rfl
@[simp] theorem setCtx_latches (c : Nat) (x : Context) : (setCtx s c x).latches = s.latches := rfl
@[simp] theorem setCtx_ticks (c : Nat) (x : Context) : (setCtx s c x).ticks = s.ticks := rfl
@[simp] theorem setCtx_slots (c : Nat) (x : Context) : (setCtx s c x).slots = s.slots := rfl
@[simp] theorem setCtx_lcores (c : Nat) (x : Context) : (setCtx s c x).lcores = s.lcores := rfl
@[simp] theorem setCtx_mem (c : Nat) (x : Context) : (setCtx s c x).mem = s.mem := rfl
@[simp] theorem setCtx_ctxs (c : Nat) (x : Context) : (setCtx s c x).ctxs = s.ctxs.setIfInBounds c x := rfl
@[simp] theorem setCtx_fab (c : Nat) (x : Context) : (setCtx s c x).fab = s.fab := rfl
@[simp] theorem setCtx_mail (c : Nat) (x : Context) : (setCtx s c x).mail = s.mail := rfl
@[simp] theorem setCtx_sec (c : Nat) (x : Context) : (setCtx s c x).sec = s.sec := rfl
@[simp] theorem setCtx_pwr (c : Nat) (x : Context) : (setCtx s c x).pwr = s.pwr := rfl
@[simp] theorem setCtx_diag (c : Nat) (x : Context) : (setCtx s c x).diag = s.diag := rfl
@[simp] theorem setCtx_outbox (c : Nat) (x : Context) : (setCtx s c x).outbox = s.outbox := rfl
@[simp] theorem setCtx_free (c : Nat) (x : Context) : (setCtx s c x).free = s.free := rfl
@[simp] theorem setCtx_pending (c : Nat) (x : Context) : (setCtx s c x).pending = s.pending := rfl

@[simp] theorem modCtx_opt (c : Nat) (f : Context → Context) : (modCtx s c f).opt = s.opt := rfl
@[simp] theorem modCtx_pins (c : Nat) (f : Context → Context) : (modCtx s c f).pins = s.pins := rfl
@[simp] theorem modCtx_hub (c : Nat) (f : Context → Context) : (modCtx s c f).hub = s.hub := rfl
@[simp] theorem modCtx_time (c : Nat) (f : Context → Context) : (modCtx s c f).time = s.time := rfl
@[simp] theorem modCtx_latches (c : Nat) (f : Context → Context) : (modCtx s c f).latches = s.latches := rfl
@[simp] theorem modCtx_ticks (c : Nat) (f : Context → Context) : (modCtx s c f).ticks = s.ticks := rfl
@[simp] theorem modCtx_slots (c : Nat) (f : Context → Context) : (modCtx s c f).slots = s.slots := rfl
@[simp] theorem modCtx_lcores (c : Nat) (f : Context → Context) : (modCtx s c f).lcores = s.lcores := rfl
@[simp] theorem modCtx_mem (c : Nat) (f : Context → Context) : (modCtx s c f).mem = s.mem := rfl
@[simp] theorem modCtx_ctxs (c : Nat) (f : Context → Context) : (modCtx s c f).ctxs = s.ctxs.setIfInBounds c (f (getCtx s c)) := rfl
@[simp] theorem modCtx_fab (c : Nat) (f : Context → Context) : (modCtx s c f).fab = s.fab := rfl
@[simp] theorem modCtx_mail (c : Nat) (f : Context → Context) : (modCtx s c f).mail = s.mail := rfl
@[simp] theorem modCtx_sec (c : Nat) (f : Context → Context) : (modCtx s c f).sec = s.sec := rfl
@[simp] theorem modCtx_pwr (c : Nat) (f : Context → Context) : (modCtx s c f).pwr = s.pwr := rfl
@[simp] theorem modCtx_diag (c : Nat) (f : Context → Context) : (modCtx s c f).diag = s.diag := rfl
@[simp] theorem modCtx_outbox (c : Nat) (f : Context → Context) : (modCtx s c f).outbox = s.outbox := rfl
@[simp] theorem modCtx_free (c : Nat) (f : Context → Context) : (modCtx s c f).free = s.free := rfl
@[simp] theorem modCtx_pending (c : Nat) (f : Context → Context) : (modCtx s c f).pending = s.pending := rfl

@[simp] theorem modLed_opt (c : Nat) (f : Ledger → Ledger) : (modLed s c f).opt = s.opt := rfl
@[simp] theorem modLed_pins (c : Nat) (f : Ledger → Ledger) : (modLed s c f).pins = s.pins := rfl
@[simp] theorem modLed_hub (c : Nat) (f : Ledger → Ledger) : (modLed s c f).hub = s.hub := rfl
@[simp] theorem modLed_time (c : Nat) (f : Ledger → Ledger) : (modLed s c f).time = s.time := rfl
@[simp] theorem modLed_latches (c : Nat) (f : Ledger → Ledger) : (modLed s c f).latches = s.latches := rfl
@[simp] theorem modLed_ticks (c : Nat) (f : Ledger → Ledger) : (modLed s c f).ticks = s.ticks := rfl
@[simp] theorem modLed_slots (c : Nat) (f : Ledger → Ledger) : (modLed s c f).slots = s.slots := rfl
@[simp] theorem modLed_lcores (c : Nat) (f : Ledger → Ledger) : (modLed s c f).lcores = s.lcores := rfl
@[simp] theorem modLed_mem (c : Nat) (f : Ledger → Ledger) : (modLed s c f).mem = s.mem := rfl
@[simp] theorem modLed_fab (c : Nat) (f : Ledger → Ledger) : (modLed s c f).fab = s.fab := rfl
@[simp] theorem modLed_mail (c : Nat) (f : Ledger → Ledger) : (modLed s c f).mail = s.mail := rfl
@[simp] theorem modLed_sec (c : Nat) (f : Ledger → Ledger) : (modLed s c f).sec = s.sec := rfl
@[simp] theorem modLed_pwr (c : Nat) (f : Ledger → Ledger) : (modLed s c f).pwr = s.pwr := rfl
@[simp] theorem modLed_diag (c : Nat) (f : Ledger → Ledger) : (modLed s c f).diag = s.diag := rfl
@[simp] theorem modLed_outbox (c : Nat) (f : Ledger → Ledger) : (modLed s c f).outbox = s.outbox := rfl
@[simp] theorem modLed_free (c : Nat) (f : Ledger → Ledger) : (modLed s c f).free = s.free := rfl
@[simp] theorem modLed_pending (c : Nat) (f : Ledger → Ledger) : (modLed s c f).pending = s.pending := rfl

@[simp] theorem modPeal_opt (c : Nat) (f : Peal → Peal) : (modPeal s c f).opt = s.opt := rfl
@[simp] theorem modPeal_pins (c : Nat) (f : Peal → Peal) : (modPeal s c f).pins = s.pins := rfl
@[simp] theorem modPeal_hub (c : Nat) (f : Peal → Peal) : (modPeal s c f).hub = s.hub := rfl
@[simp] theorem modPeal_time (c : Nat) (f : Peal → Peal) : (modPeal s c f).time = s.time := rfl
@[simp] theorem modPeal_latches (c : Nat) (f : Peal → Peal) : (modPeal s c f).latches = s.latches := rfl
@[simp] theorem modPeal_ticks (c : Nat) (f : Peal → Peal) : (modPeal s c f).ticks = s.ticks := rfl
@[simp] theorem modPeal_slots (c : Nat) (f : Peal → Peal) : (modPeal s c f).slots = s.slots := rfl
@[simp] theorem modPeal_lcores (c : Nat) (f : Peal → Peal) : (modPeal s c f).lcores = s.lcores := rfl
@[simp] theorem modPeal_mem (c : Nat) (f : Peal → Peal) : (modPeal s c f).mem = s.mem := rfl
@[simp] theorem modPeal_fab (c : Nat) (f : Peal → Peal) : (modPeal s c f).fab = s.fab := rfl
@[simp] theorem modPeal_mail (c : Nat) (f : Peal → Peal) : (modPeal s c f).mail = s.mail := rfl
@[simp] theorem modPeal_sec (c : Nat) (f : Peal → Peal) : (modPeal s c f).sec = s.sec := rfl
@[simp] theorem modPeal_pwr (c : Nat) (f : Peal → Peal) : (modPeal s c f).pwr = s.pwr := rfl
@[simp] theorem modPeal_diag (c : Nat) (f : Peal → Peal) : (modPeal s c f).diag = s.diag := rfl
@[simp] theorem modPeal_outbox (c : Nat) (f : Peal → Peal) : (modPeal s c f).outbox = s.outbox := rfl
@[simp] theorem modPeal_free (c : Nat) (f : Peal → Peal) : (modPeal s c f).free = s.free := rfl
@[simp] theorem modPeal_pending (c : Nat) (f : Peal → Peal) : (modPeal s c f).pending = s.pending := rfl

@[simp] theorem modSec_opt (c : Nat) (f : CtxSec → CtxSec) : (modSec s c f).opt = s.opt := rfl
@[simp] theorem modSec_pins (c : Nat) (f : CtxSec → CtxSec) : (modSec s c f).pins = s.pins := rfl
@[simp] theorem modSec_hub (c : Nat) (f : CtxSec → CtxSec) : (modSec s c f).hub = s.hub := rfl
@[simp] theorem modSec_time (c : Nat) (f : CtxSec → CtxSec) : (modSec s c f).time = s.time := rfl
@[simp] theorem modSec_latches (c : Nat) (f : CtxSec → CtxSec) : (modSec s c f).latches = s.latches := rfl
@[simp] theorem modSec_ticks (c : Nat) (f : CtxSec → CtxSec) : (modSec s c f).ticks = s.ticks := rfl
@[simp] theorem modSec_slots (c : Nat) (f : CtxSec → CtxSec) : (modSec s c f).slots = s.slots := rfl
@[simp] theorem modSec_lcores (c : Nat) (f : CtxSec → CtxSec) : (modSec s c f).lcores = s.lcores := rfl
@[simp] theorem modSec_mem (c : Nat) (f : CtxSec → CtxSec) : (modSec s c f).mem = s.mem := rfl
@[simp] theorem modSec_fab (c : Nat) (f : CtxSec → CtxSec) : (modSec s c f).fab = s.fab := rfl
@[simp] theorem modSec_mail (c : Nat) (f : CtxSec → CtxSec) : (modSec s c f).mail = s.mail := rfl
@[simp] theorem modSec_sec (c : Nat) (f : CtxSec → CtxSec) : (modSec s c f).sec = s.sec := rfl
@[simp] theorem modSec_pwr (c : Nat) (f : CtxSec → CtxSec) : (modSec s c f).pwr = s.pwr := rfl
@[simp] theorem modSec_diag (c : Nat) (f : CtxSec → CtxSec) : (modSec s c f).diag = s.diag := rfl
@[simp] theorem modSec_outbox (c : Nat) (f : CtxSec → CtxSec) : (modSec s c f).outbox = s.outbox := rfl
@[simp] theorem modSec_free (c : Nat) (f : CtxSec → CtxSec) : (modSec s c f).free = s.free := rfl
@[simp] theorem modSec_pending (c : Nat) (f : CtxSec → CtxSec) : (modSec s c f).pending = s.pending := rfl

@[simp] theorem setPort_opt (p : Nat) (b : PortBlock) : (setPort s p b).opt = s.opt := rfl
@[simp] theorem setPort_pins (p : Nat) (b : PortBlock) : (setPort s p b).pins = s.pins := rfl
@[simp] theorem setPort_hub (p : Nat) (b : PortBlock) : (setPort s p b).hub = s.hub := rfl
@[simp] theorem setPort_time (p : Nat) (b : PortBlock) : (setPort s p b).time = s.time := rfl
@[simp] theorem setPort_latches (p : Nat) (b : PortBlock) : (setPort s p b).latches = s.latches := rfl
@[simp] theorem setPort_ticks (p : Nat) (b : PortBlock) : (setPort s p b).ticks = s.ticks := rfl
@[simp] theorem setPort_slots (p : Nat) (b : PortBlock) : (setPort s p b).slots = s.slots := rfl
@[simp] theorem setPort_lcores (p : Nat) (b : PortBlock) : (setPort s p b).lcores = s.lcores := rfl
@[simp] theorem setPort_mem (p : Nat) (b : PortBlock) : (setPort s p b).mem = s.mem := rfl
@[simp] theorem setPort_ctxs (p : Nat) (b : PortBlock) : (setPort s p b).ctxs = s.ctxs := rfl
@[simp] theorem setPort_mail (p : Nat) (b : PortBlock) : (setPort s p b).mail = s.mail := rfl
@[simp] theorem setPort_sec (p : Nat) (b : PortBlock) : (setPort s p b).sec = s.sec := rfl
@[simp] theorem setPort_pwr (p : Nat) (b : PortBlock) : (setPort s p b).pwr = s.pwr := rfl
@[simp] theorem setPort_diag (p : Nat) (b : PortBlock) : (setPort s p b).diag = s.diag := rfl
@[simp] theorem setPort_outbox (p : Nat) (b : PortBlock) : (setPort s p b).outbox = s.outbox := rfl
@[simp] theorem setPort_free (p : Nat) (b : PortBlock) : (setPort s p b).free = s.free := rfl
@[simp] theorem setPort_pending (p : Nat) (b : PortBlock) : (setPort s p b).pending = s.pending := rfl

@[simp] theorem modPort_opt (p : Nat) (f : PortBlock → PortBlock) : (modPort s p f).opt = s.opt := rfl
@[simp] theorem modPort_pins (p : Nat) (f : PortBlock → PortBlock) : (modPort s p f).pins = s.pins := rfl
@[simp] theorem modPort_hub (p : Nat) (f : PortBlock → PortBlock) : (modPort s p f).hub = s.hub := rfl
@[simp] theorem modPort_time (p : Nat) (f : PortBlock → PortBlock) : (modPort s p f).time = s.time := rfl
@[simp] theorem modPort_latches (p : Nat) (f : PortBlock → PortBlock) : (modPort s p f).latches = s.latches := rfl
@[simp] theorem modPort_ticks (p : Nat) (f : PortBlock → PortBlock) : (modPort s p f).ticks = s.ticks := rfl
@[simp] theorem modPort_slots (p : Nat) (f : PortBlock → PortBlock) : (modPort s p f).slots = s.slots := rfl
@[simp] theorem modPort_lcores (p : Nat) (f : PortBlock → PortBlock) : (modPort s p f).lcores = s.lcores := rfl
@[simp] theorem modPort_mem (p : Nat) (f : PortBlock → PortBlock) : (modPort s p f).mem = s.mem := rfl
@[simp] theorem modPort_ctxs (p : Nat) (f : PortBlock → PortBlock) : (modPort s p f).ctxs = s.ctxs := rfl
@[simp] theorem modPort_mail (p : Nat) (f : PortBlock → PortBlock) : (modPort s p f).mail = s.mail := rfl
@[simp] theorem modPort_sec (p : Nat) (f : PortBlock → PortBlock) : (modPort s p f).sec = s.sec := rfl
@[simp] theorem modPort_pwr (p : Nat) (f : PortBlock → PortBlock) : (modPort s p f).pwr = s.pwr := rfl
@[simp] theorem modPort_diag (p : Nat) (f : PortBlock → PortBlock) : (modPort s p f).diag = s.diag := rfl
@[simp] theorem modPort_outbox (p : Nat) (f : PortBlock → PortBlock) : (modPort s p f).outbox = s.outbox := rfl
@[simp] theorem modPort_free (p : Nat) (f : PortBlock → PortBlock) : (modPort s p f).free = s.free := rfl
@[simp] theorem modPort_pending (p : Nat) (f : PortBlock → PortBlock) : (modPort s p f).pending = s.pending := rfl

@[simp] theorem setEngine_opt (e : Nat) (x : Engine) : (setEngine s e x).opt = s.opt := rfl
@[simp] theorem setEngine_pins (e : Nat) (x : Engine) : (setEngine s e x).pins = s.pins := rfl
@[simp] theorem setEngine_hub (e : Nat) (x : Engine) : (setEngine s e x).hub = s.hub := rfl
@[simp] theorem setEngine_time (e : Nat) (x : Engine) : (setEngine s e x).time = s.time := rfl
@[simp] theorem setEngine_latches (e : Nat) (x : Engine) : (setEngine s e x).latches = s.latches := rfl
@[simp] theorem setEngine_ticks (e : Nat) (x : Engine) : (setEngine s e x).ticks = s.ticks := rfl
@[simp] theorem setEngine_slots (e : Nat) (x : Engine) : (setEngine s e x).slots = s.slots := rfl
@[simp] theorem setEngine_lcores (e : Nat) (x : Engine) : (setEngine s e x).lcores = s.lcores := rfl
@[simp] theorem setEngine_mem (e : Nat) (x : Engine) : (setEngine s e x).mem = s.mem := rfl
@[simp] theorem setEngine_ctxs (e : Nat) (x : Engine) : (setEngine s e x).ctxs = s.ctxs := rfl
@[simp] theorem setEngine_mail (e : Nat) (x : Engine) : (setEngine s e x).mail = s.mail := rfl
@[simp] theorem setEngine_sec (e : Nat) (x : Engine) : (setEngine s e x).sec = s.sec := rfl
@[simp] theorem setEngine_pwr (e : Nat) (x : Engine) : (setEngine s e x).pwr = s.pwr := rfl
@[simp] theorem setEngine_diag (e : Nat) (x : Engine) : (setEngine s e x).diag = s.diag := rfl
@[simp] theorem setEngine_outbox (e : Nat) (x : Engine) : (setEngine s e x).outbox = s.outbox := rfl
@[simp] theorem setEngine_free (e : Nat) (x : Engine) : (setEngine s e x).free = s.free := rfl
@[simp] theorem setEngine_pending (e : Nat) (x : Engine) : (setEngine s e x).pending = s.pending := rfl

@[simp] theorem setCtrl_opt (i : Nat) (c : Ctrl) : (setCtrl s i c).opt = s.opt := rfl
@[simp] theorem setCtrl_pins (i : Nat) (c : Ctrl) : (setCtrl s i c).pins = s.pins := rfl
@[simp] theorem setCtrl_hub (i : Nat) (c : Ctrl) : (setCtrl s i c).hub = s.hub := rfl
@[simp] theorem setCtrl_time (i : Nat) (c : Ctrl) : (setCtrl s i c).time = s.time := rfl
@[simp] theorem setCtrl_latches (i : Nat) (c : Ctrl) : (setCtrl s i c).latches = s.latches := rfl
@[simp] theorem setCtrl_ticks (i : Nat) (c : Ctrl) : (setCtrl s i c).ticks = s.ticks := rfl
@[simp] theorem setCtrl_slots (i : Nat) (c : Ctrl) : (setCtrl s i c).slots = s.slots := rfl
@[simp] theorem setCtrl_lcores (i : Nat) (c : Ctrl) : (setCtrl s i c).lcores = s.lcores := rfl
@[simp] theorem setCtrl_ctxs (i : Nat) (c : Ctrl) : (setCtrl s i c).ctxs = s.ctxs := rfl
@[simp] theorem setCtrl_fab (i : Nat) (c : Ctrl) : (setCtrl s i c).fab = s.fab := rfl
@[simp] theorem setCtrl_mail (i : Nat) (c : Ctrl) : (setCtrl s i c).mail = s.mail := rfl
@[simp] theorem setCtrl_sec (i : Nat) (c : Ctrl) : (setCtrl s i c).sec = s.sec := rfl
@[simp] theorem setCtrl_pwr (i : Nat) (c : Ctrl) : (setCtrl s i c).pwr = s.pwr := rfl
@[simp] theorem setCtrl_diag (i : Nat) (c : Ctrl) : (setCtrl s i c).diag = s.diag := rfl
@[simp] theorem setCtrl_outbox (i : Nat) (c : Ctrl) : (setCtrl s i c).outbox = s.outbox := rfl
@[simp] theorem setCtrl_free (i : Nat) (c : Ctrl) : (setCtrl s i c).free = s.free := rfl
@[simp] theorem setCtrl_pending (i : Nat) (c : Ctrl) : (setCtrl s i c).pending = s.pending := rfl

@[simp] theorem modCtrl_opt (i : Nat) (f : Ctrl → Ctrl) : (modCtrl s i f).opt = s.opt := rfl
@[simp] theorem modCtrl_pins (i : Nat) (f : Ctrl → Ctrl) : (modCtrl s i f).pins = s.pins := rfl
@[simp] theorem modCtrl_hub (i : Nat) (f : Ctrl → Ctrl) : (modCtrl s i f).hub = s.hub := rfl
@[simp] theorem modCtrl_time (i : Nat) (f : Ctrl → Ctrl) : (modCtrl s i f).time = s.time := rfl
@[simp] theorem modCtrl_latches (i : Nat) (f : Ctrl → Ctrl) : (modCtrl s i f).latches = s.latches := rfl
@[simp] theorem modCtrl_ticks (i : Nat) (f : Ctrl → Ctrl) : (modCtrl s i f).ticks = s.ticks := rfl
@[simp] theorem modCtrl_slots (i : Nat) (f : Ctrl → Ctrl) : (modCtrl s i f).slots = s.slots := rfl
@[simp] theorem modCtrl_lcores (i : Nat) (f : Ctrl → Ctrl) : (modCtrl s i f).lcores = s.lcores := rfl
@[simp] theorem modCtrl_ctxs (i : Nat) (f : Ctrl → Ctrl) : (modCtrl s i f).ctxs = s.ctxs := rfl
@[simp] theorem modCtrl_fab (i : Nat) (f : Ctrl → Ctrl) : (modCtrl s i f).fab = s.fab := rfl
@[simp] theorem modCtrl_mail (i : Nat) (f : Ctrl → Ctrl) : (modCtrl s i f).mail = s.mail := rfl
@[simp] theorem modCtrl_sec (i : Nat) (f : Ctrl → Ctrl) : (modCtrl s i f).sec = s.sec := rfl
@[simp] theorem modCtrl_pwr (i : Nat) (f : Ctrl → Ctrl) : (modCtrl s i f).pwr = s.pwr := rfl
@[simp] theorem modCtrl_diag (i : Nat) (f : Ctrl → Ctrl) : (modCtrl s i f).diag = s.diag := rfl
@[simp] theorem modCtrl_outbox (i : Nat) (f : Ctrl → Ctrl) : (modCtrl s i f).outbox = s.outbox := rfl
@[simp] theorem modCtrl_free (i : Nat) (f : Ctrl → Ctrl) : (modCtrl s i f).free = s.free := rfl
@[simp] theorem modCtrl_pending (i : Nat) (f : Ctrl → Ctrl) : (modCtrl s i f).pending = s.pending := rfl

@[simp] theorem setBox_opt (m : Nat) (b : MailBox) : (setBox s m b).opt = s.opt := rfl
@[simp] theorem setBox_pins (m : Nat) (b : MailBox) : (setBox s m b).pins = s.pins := rfl
@[simp] theorem setBox_hub (m : Nat) (b : MailBox) : (setBox s m b).hub = s.hub := rfl
@[simp] theorem setBox_time (m : Nat) (b : MailBox) : (setBox s m b).time = s.time := rfl
@[simp] theorem setBox_latches (m : Nat) (b : MailBox) : (setBox s m b).latches = s.latches := rfl
@[simp] theorem setBox_ticks (m : Nat) (b : MailBox) : (setBox s m b).ticks = s.ticks := rfl
@[simp] theorem setBox_slots (m : Nat) (b : MailBox) : (setBox s m b).slots = s.slots := rfl
@[simp] theorem setBox_lcores (m : Nat) (b : MailBox) : (setBox s m b).lcores = s.lcores := rfl
@[simp] theorem setBox_mem (m : Nat) (b : MailBox) : (setBox s m b).mem = s.mem := rfl
@[simp] theorem setBox_ctxs (m : Nat) (b : MailBox) : (setBox s m b).ctxs = s.ctxs := rfl
@[simp] theorem setBox_fab (m : Nat) (b : MailBox) : (setBox s m b).fab = s.fab := rfl
@[simp] theorem setBox_sec (m : Nat) (b : MailBox) : (setBox s m b).sec = s.sec := rfl
@[simp] theorem setBox_pwr (m : Nat) (b : MailBox) : (setBox s m b).pwr = s.pwr := rfl
@[simp] theorem setBox_diag (m : Nat) (b : MailBox) : (setBox s m b).diag = s.diag := rfl
@[simp] theorem setBox_outbox (m : Nat) (b : MailBox) : (setBox s m b).outbox = s.outbox := rfl
@[simp] theorem setBox_free (m : Nat) (b : MailBox) : (setBox s m b).free = s.free := rfl
@[simp] theorem setBox_pending (m : Nat) (b : MailBox) : (setBox s m b).pending = s.pending := rfl

@[simp] theorem emit_opt (o : Output) : (emit s o).opt = s.opt := rfl
@[simp] theorem emit_pins (o : Output) : (emit s o).pins = s.pins := rfl
@[simp] theorem emit_hub (o : Output) : (emit s o).hub = s.hub := rfl
@[simp] theorem emit_time (o : Output) : (emit s o).time = s.time := rfl
@[simp] theorem emit_latches (o : Output) : (emit s o).latches = s.latches := rfl
@[simp] theorem emit_ticks (o : Output) : (emit s o).ticks = s.ticks := rfl
@[simp] theorem emit_slots (o : Output) : (emit s o).slots = s.slots := rfl
@[simp] theorem emit_lcores (o : Output) : (emit s o).lcores = s.lcores := rfl
@[simp] theorem emit_mem (o : Output) : (emit s o).mem = s.mem := rfl
@[simp] theorem emit_ctxs (o : Output) : (emit s o).ctxs = s.ctxs := rfl
@[simp] theorem emit_fab (o : Output) : (emit s o).fab = s.fab := rfl
@[simp] theorem emit_mail (o : Output) : (emit s o).mail = s.mail := rfl
@[simp] theorem emit_sec (o : Output) : (emit s o).sec = s.sec := rfl
@[simp] theorem emit_pwr (o : Output) : (emit s o).pwr = s.pwr := rfl
@[simp] theorem emit_diag (o : Output) : (emit s o).diag = s.diag := rfl
@[simp] theorem emit_outbox (o : Output) : (emit s o).outbox = o :: s.outbox := rfl
@[simp] theorem emit_free (o : Output) : (emit s o).free = s.free := rfl
@[simp] theorem emit_pending (o : Output) : (emit s o).pending = s.pending := rfl

@[simp] theorem lifeAdd_opt (off n : Nat) : (lifeAdd s off n).opt = s.opt := rfl
@[simp] theorem lifeAdd_pins (off n : Nat) : (lifeAdd s off n).pins = s.pins := rfl
@[simp] theorem lifeAdd_hub (off n : Nat) : (lifeAdd s off n).hub = s.hub := rfl
@[simp] theorem lifeAdd_time (off n : Nat) : (lifeAdd s off n).time = s.time := rfl
@[simp] theorem lifeAdd_latches (off n : Nat) : (lifeAdd s off n).latches = s.latches := rfl
@[simp] theorem lifeAdd_ticks (off n : Nat) : (lifeAdd s off n).ticks = s.ticks := rfl
@[simp] theorem lifeAdd_slots (off n : Nat) : (lifeAdd s off n).slots = s.slots := rfl
@[simp] theorem lifeAdd_lcores (off n : Nat) : (lifeAdd s off n).lcores = s.lcores := rfl
@[simp] theorem lifeAdd_mem (off n : Nat) : (lifeAdd s off n).mem = s.mem := rfl
@[simp] theorem lifeAdd_ctxs (off n : Nat) : (lifeAdd s off n).ctxs = s.ctxs := rfl
@[simp] theorem lifeAdd_fab (off n : Nat) : (lifeAdd s off n).fab = s.fab := rfl
@[simp] theorem lifeAdd_mail (off n : Nat) : (lifeAdd s off n).mail = s.mail := rfl
@[simp] theorem lifeAdd_sec (off n : Nat) : (lifeAdd s off n).sec = s.sec := rfl
@[simp] theorem lifeAdd_pwr (off n : Nat) : (lifeAdd s off n).pwr = s.pwr := rfl
@[simp] theorem lifeAdd_outbox (off n : Nat) : (lifeAdd s off n).outbox = s.outbox := rfl
@[simp] theorem lifeAdd_free (off n : Nat) : (lifeAdd s off n).free = s.free := rfl
@[simp] theorem lifeAdd_pending (off n : Nat) : (lifeAdd s off n).pending = s.pending := rfl

@[simp] theorem evidence_opt (k : BitVec 2) (n : Nat) : (evidence s k n).opt = s.opt := rfl
@[simp] theorem evidence_pins (k : BitVec 2) (n : Nat) : (evidence s k n).pins = s.pins := rfl
@[simp] theorem evidence_hub (k : BitVec 2) (n : Nat) : (evidence s k n).hub = s.hub := rfl
@[simp] theorem evidence_time (k : BitVec 2) (n : Nat) : (evidence s k n).time = s.time := rfl
@[simp] theorem evidence_latches (k : BitVec 2) (n : Nat) : (evidence s k n).latches = s.latches := rfl
@[simp] theorem evidence_ticks (k : BitVec 2) (n : Nat) : (evidence s k n).ticks = s.ticks := rfl
@[simp] theorem evidence_slots (k : BitVec 2) (n : Nat) : (evidence s k n).slots = s.slots := rfl
@[simp] theorem evidence_lcores (k : BitVec 2) (n : Nat) : (evidence s k n).lcores = s.lcores := rfl
@[simp] theorem evidence_mem (k : BitVec 2) (n : Nat) : (evidence s k n).mem = s.mem := rfl
@[simp] theorem evidence_ctxs (k : BitVec 2) (n : Nat) : (evidence s k n).ctxs = s.ctxs := rfl
@[simp] theorem evidence_fab (k : BitVec 2) (n : Nat) : (evidence s k n).fab = s.fab := rfl
@[simp] theorem evidence_mail (k : BitVec 2) (n : Nat) : (evidence s k n).mail = s.mail := rfl
@[simp] theorem evidence_sec (k : BitVec 2) (n : Nat) : (evidence s k n).sec = s.sec := rfl
@[simp] theorem evidence_pwr (k : BitVec 2) (n : Nat) : (evidence s k n).pwr = s.pwr := rfl
@[simp] theorem evidence_outbox (k : BitVec 2) (n : Nat) : (evidence s k n).outbox = s.outbox := rfl
@[simp] theorem evidence_free (k : BitVec 2) (n : Nat) : (evidence s k n).free = s.free := rfl
@[simp] theorem evidence_pending (k : BitVec 2) (n : Nat) : (evidence s k n).pending = s.pending := rfl

end Sys2Proof.Machine
end

