-- ==== Sys2Proof/Laws/Settle.lean ====
section
/-! SUPPORT. What the end of every step can do (`settle`): it answers what has become due and shows the device state; the rest of
the machine stays. -/

namespace Sys2Proof.Machine

theorem Untouched.refl (s : State) : Untouched s s := by constructor <;> rfl

theorem Untouched.trans {s t u : State} (h : Untouched s t) (k : Untouched t u) : Untouched s u :=
  ⟨k.opt.trans h.opt, k.pins.trans h.pins, k.time.trans h.time, k.latches.trans h.latches, k.ticks.trans h.ticks,
   k.slots.trans h.slots, k.lcores.trans h.lcores, k.mem.trans h.mem, k.ctxs.trans h.ctxs, k.fab.trans h.fab,
   k.sec.trans h.sec, k.pwr.trans h.pwr, k.diag.trans h.diag, k.free.trans h.free, k.pending.trans h.pending,
   h.outbox.trans k.outbox⟩

theorem MailKept.refl (a : Mail) : MailKept a a := by constructor <;> rfl

theorem MailKept.trans {a b c : Mail} (h : MailKept a b) (k : MailKept b c) : MailKept a c :=
  ⟨h.responses.trans k.responses, k.deferred.trans h.deferred, k.session.trans h.session,
   k.opAuth.trans h.opAuth, k.opSecret.trans h.opSecret, k.challenge.trans h.challenge, k.volatile.trans h.volatile,
   k.factory.trans h.factory, k.copyA.trans h.copyA, k.copyB.trans h.copyB, k.sessions.trans h.sessions, k.cal.trans h.cal⟩

theorem HubKept.refl (a : Hub) : HubKept a a := by constructor <;> rfl

theorem HubKept.trans {a b c : Hub} (h : HubKept a b) (k : HubKept b c) : HubKept a c :=
  ⟨k.mapGen.trans h.mapGen, k.capGen.trans h.capGen, k.coreMap.trans h.coreMap, k.chanMap.trans h.chanMap, k.layout.trans h.layout,
   k.conf.trans h.conf, k.started.trans h.started, k.fenced.trans h.fenced, k.belfryDown.trans h.belfryDown,
   k.low.trans h.low, k.diesDown.trans h.diesDown, k.profile.trans h.profile, k.safe.trans h.safe, k.chime.trans h.chime,
   k.causeDev.trans h.causeDev, k.causeBelfry.trans h.causeBelfry, k.bCount.trans h.bCount,
   k.lastRestart.trans h.lastRestart, k.tripped.trans h.tripped, k.slotRetired.trans h.slotRetired,
   k.slotTesting.trans h.slotTesting, k.retire.trans h.retire, k.wakeReq.trans h.wakeReq, k.token.trans h.token,
   k.pldm.trans h.pldm, k.eid.trans h.eid,
   k.bootRom.trans h.bootRom, k.cfgCopyB.trans h.cfgCopyB, k.cfgDefault.trans h.cfgDefault, k.bootAt.trans h.bootAt, k.lpTarget.trans h.lpTarget,
   k.retain.trans h.retain, k.pldmOk.trans h.pldmOk, k.pldmDev.trans h.pldmDev, k.pldmHealth.trans h.pldmHealth, k.arpDone.trans h.arpDone⟩

theorem Settled.refl (s : State) : Settled s s := ⟨.refl s, .refl _, .refl _⟩
theorem Settled.trans {s t u : State} (h : Settled s t) (k : Settled t u) : Settled s u :=
  ⟨h.out.trans k.out, h.mail.trans k.mail, h.hub.trans k.hub⟩

/-- A change of the mailboxes alone. -/
theorem settled_mail (s : State) (f : Mail → Mail) (h : MailKept s.mail (f s.mail)) : Settled s (modMail s f) :=
  ⟨by constructor <;> rfl, h, .refl _⟩

/-- A change of the hub alone. -/
theorem settled_hub (s : State) (f : Hub → Hub) (h : HubKept s.hub (f s.hub)) : Settled s (modHub s f) :=
  ⟨by constructor <;> rfl, .refl _, h⟩

theorem settled_emit (s : State) (o : Output) : Settled s (emit s o) := ⟨by constructor <;> first | rfl | exact List.suffix_cons _ _, .refl _, .refl _⟩

theorem settled_setBox (s : State) (m : Nat) (b : MailBox) : Settled s (setBox s m b) :=
  ⟨by constructor <;> rfl, by constructor <;> rfl, .refl _⟩

/-- Answering a request leaves the rest alone. -/
theorem settled_respond (s : State) (q : Req) (cmd : BitVec 16) (st cf : BitVec 8) (d : BitVec 16) (l : BitVec 32) (b : Bytes) :
    Settled s (respond s q cmd st cf d l b) := by
  have push : ∀ r, Settled s (modMail s fun m => { m with responses := r :: m.responses }) := fun r =>
    settled_mail s _ (by constructor <;> first | rfl | exact List.suffix_cons _ _)
  have irq : ∀ (t : State) (m : Nat), Settled t (emit (modMail t fun l => { l with msix := m :: l.msix }) (.msix m)) := fun t m =>
    (settled_mail t _ (by constructor <;> rfl)).trans (settled_emit _ _)
  unfold respond
  simp only
  split
  · exact (push _).trans (settled_emit _ _)
  · exact push _
  · split
    · exact ((push _).trans (settled_setBox _ _ _)).trans (irq _ _)
    · exact (push _).trans (settled_setBox _ _ _)

/-- Posting a notice leaves the rest alone. -/
theorem settled_postNotice (s : State) (code : BitVec 16) (ctx : Option Nat) (b : Bytes) :
    Settled s (postNotice s code ctx b) := by
  unfold postNotice
  simp only
  split
  · exact (settled_mail s _ (by constructor <;> rfl)).trans (settled_emit _ _)
  · exact settled_mail s _ (by constructor <;> rfl)

theorem settled_respondSealed (s : State) (q : Req) (sid : BitVec 32) (n : BitVec 64) (i : Response) :
    Settled s (respondSealed s q sid n i) := by
  unfold respondSealed
  split <;> exact settled_respond _ _ _ _ _ _ _ _

theorem settled_modImage (s : State) (ty : Nat) (f : Image → Image) : Settled s (modImage s ty f) :=
  settled_mail s _ (by constructor <;> rfl)

theorem settled_setWaiterQueue (s : State) (w : Waiter) (q : NoticeQ) : Settled s (setWaiterQueue s w q) :=
  settled_mail s _ (by
    split
    · constructor <;> rfl
    · split <;> (constructor <;> rfl))

/-- A fold of operations that leave the rest alone leaves it alone. -/
theorem settled_foldl {α : Type} (f : State → α → State) (h : ∀ s a, Settled s (f s a)) :
    ∀ (l : List α) (s : State), Settled s (l.foldl f s)
  | [], s => .refl s
  | a :: l, s => (h s a).trans (settled_foldl f h l (f s a))

theorem settled_serveWaiters (s : State) : Settled s (serveWaiters s) := by
  unfold serveWaiters
  split
  · exact .refl s
  · refine settled_foldl _ (fun s w => ?_) _ _
    dsimp only
    split
    · have h : Settled s (modMail s fun m => { m with waiters := m.waiters.erase w }) :=
        settled_mail s _ (by constructor <;> rfl)
      split
      · exact (h.trans (settled_setWaiterQueue _ _ _)).trans (settled_respondSealed _ _ _ _ _)
      · exact (h.trans (settled_setWaiterQueue _ _ _)).trans (settled_respond _ _ _ _ _ _ _ _)
    · exact .refl s

theorem settled_takePending (s : State) (cores : Nat → Bool) : Settled s (takePending s cores) := by
  unfold takePending
  simp only
  split
  · exact .refl s
  · exact (settled_hub s _ (by constructor <;> rfl)).trans (settled_modImage _ _ _)

theorem settled_finishDrain (s : State) : Settled s (finishDrain s) := by
  unfold finishDrain
  split
  · split
    · exact ((settled_hub s _ (by constructor <;> rfl)).trans (settled_takePending _ _)).trans (settled_respond _ _ _ _ _ _ _ _)
    · exact .refl s
  · exact .refl s

theorem settled_serveActivate (s : State) : Settled s (serveActivate s) := by
  unfold serveActivate
  split
  · split
    · exact .refl s
    · split
      · exact (settled_hub s _ (by constructor <;> rfl)).trans (settled_modImage _ _ _)
      · split
        · exact (settled_hub s _ (by constructor <;> rfl)).trans (settled_respond _ _ _ _ _ _ _ _)
        · exact .refl s
  · exact .refl s

theorem settled_refreshDev (s : State) : Settled s (refreshDev s) := by
  unfold refreshDev
  simp only
  split
  · exact .refl s
  · exact (settled_hub s _ (by constructor <;> rfl)).trans (settled_postNotice _ _ _ _)

/-- The end of a step leaves the rest of the machine alone. -/
theorem settle_settled (s : State) : Settled s (settle s) :=
  (((settled_serveActivate s).trans (settled_finishDrain _)).trans (settled_refreshDev _)).trans (settled_serveWaiters _)

section fields
variable (s : State)
@[simp] theorem settle_opt : (settle s).opt = s.opt := (settle_settled s).out.opt
@[simp] theorem settle_pins : (settle s).pins = s.pins := (settle_settled s).out.pins
@[simp] theorem settle_time : (settle s).time = s.time := (settle_settled s).out.time
@[simp] theorem settle_latches : (settle s).latches = s.latches := (settle_settled s).out.latches
@[simp] theorem settle_ticks : (settle s).ticks = s.ticks := (settle_settled s).out.ticks
@[simp] theorem settle_slots : (settle s).slots = s.slots := (settle_settled s).out.slots
@[simp] theorem settle_lcores : (settle s).lcores = s.lcores := (settle_settled s).out.lcores
@[simp] theorem settle_mem : (settle s).mem = s.mem := (settle_settled s).out.mem
@[simp] theorem settle_ctxs : (settle s).ctxs = s.ctxs := (settle_settled s).out.ctxs
@[simp] theorem settle_fab : (settle s).fab = s.fab := (settle_settled s).out.fab
@[simp] theorem settle_sec : (settle s).sec = s.sec := (settle_settled s).out.sec
@[simp] theorem settle_pwr : (settle s).pwr = s.pwr := (settle_settled s).out.pwr
@[simp] theorem settle_diag : (settle s).diag = s.diag := (settle_settled s).out.diag
@[simp] theorem settle_free : (settle s).free = s.free := (settle_settled s).out.free
@[simp] theorem settle_pending : (settle s).pending = s.pending := (settle_settled s).out.pending
end fields

/-- A response once written stays on record. -/
theorem settle_keeps_response {s : State} {r : Response} (h : r ∈ s.mail.responses) : r ∈ (settle s).mail.responses :=
  (settle_settled s).mail.responses.subset h

/-- Where nothing is due, nothing moves. -/
theorem settle_atRest {s : State} (h : AtRest s) : settle s = s := by
  obtain ⟨h1, h2, h3, h4⟩ := h
  have e1 : serveActivate s = s := by simp [serveActivate, h4]
  have e2 : finishDrain s = s := by simp [finishDrain, h3]
  have e3 : refreshDev s = s := by
    unfold refreshDev
    simp only
    rw [if_pos h1.symm]
  have e4 : serveWaiters s = s := by simp [serveWaiters, h2]
  rw [settle, e1, e2, e3, e4]

/-- Every meaning that ends in `done` answers a next state. -/
theorem done_next (s : State) : done s = .next (settle s) := rfl

end Sys2Proof.Machine
end

