-- ==== Sys2Proof/Laws/Serve.lean ====
section
/-! SUPPORT. What serving a mailbox request can do: a request taken up is judged on its own merits and answered; the lemmas that
conclude a `Serves` or a `Leads` claim. -/

namespace Sys2Proof.Machine

theorem leads_done {c : Instr} {s s' u : State} (h : exec c s = done u) (k : Settled s' u) : Leads c s s' :=
  ⟨settle u, h, k.trans (settle_settled u)⟩

theorem completes_done {c : Instr} {s u : State} {P : State → Prop} (h : exec c s = done u) (k : P (settle u)) :
    Completes c s P := ⟨settle u, h, k⟩

/-- The device state is a function of the hub, the slots and the fabric (R350). -/
theorem devNow_congr {s u : State} (h1 : u.hub = s.hub) (h2 : u.slots = s.slots) (h3 : u.fab = s.fab) : devNow u = devNow s := by
  have h : devNow u = devNow { s with hub := u.hub, slots := u.slots, fab := u.fab } := rfl
  rw [h, h1, h2, h3]

/-- A response goes to the front of the record. -/
theorem respond_responses (s : State) (q : Req) (cmd : BitVec 16) (st cf : BitVec 8) (d : BitVec 16) (l : BitVec 32) (b : Bytes) :
    (respond s q cmd st cf d l b).mail.responses = innerResponse s q cmd st cf d l b :: s.mail.responses := by
  unfold respond
  cases h : q.path <;> simp only [innerResponse, h]
  · split <;> rfl
  · rfl
  · rfl

/-- What is noted of the configuration session changes nothing that a judgement looks at. -/
theorem takenUp_same (r : Req) (code : BitVec 16) (s : State) :
    (takenUp r code s).hub = s.hub ∧ (takenUp r code s).mail.opAuth = s.mail.opAuth ∧ devNow (takenUp r code s) = devNow s ∧
    (takenUp r code s).mail.responses = s.mail.responses ∧ (takenUp r code s).time = s.time ∧
    (takenUp r code s).ctxs = s.ctxs ∧ (takenUp r code s).mail.sessions = s.mail.sessions := by
  unfold takenUp touchSession
  split <;> (try split) <;> exact ⟨rfl, rfl, rfl, rfl, rfl, rfl, rfl⟩

theorem takenUp_eq {r : Req} {code : BitVec 16} (h : ¬(0x0501 ≤ code.toNat ∧ code.toNat ≤ 0x0504)) (s : State) :
    takenUp r code s = s := by simp [takenUp, touchSession, h]

/-- Where its server serves, a request is judged. -/
theorem serve_serving {r : Req} {s : State} (h : Serving r s) (code : BitVec 16) (legal : BitVec 32) (i : Instr)
    (f : State → Answer) : serve code legal r i f s = judge code legal r f (takenUp r code s) := by
  obtain ⟨hc, hb, -, hup⟩ := h
  cases hpath : r.path <;> by_cases hm : r.mbx.val = 18 <;> simp_all [serve, takenUp]

/-- R346: a request that its mailbox or its path does not permit is denied. -/
theorem judge_denied {r : Req} {s : State} (hr : s.hub.bootRom = false) {code : BitVec 16} (hp : permitted s r code = false)
    (legal : BitVec 32) (f : State → Answer) : judge code legal r f s = reply r code legal (err s stDenied 0) := by
  simp [judge, hr, hp]

/-- R343: a request that is not legal in the device state meets a conflict on the device. -/
theorem judge_conflict {r : Req} {s : State} (hr : s.hub.bootRom = false) {code : BitVec 16} (hp : permitted s r code = true)
    {legal : BitVec 32} (hs : inSet legal (devNow s) = false) (f : State → Answer) :
    judge code legal r f s = reply r code legal (conflict s 0 (devCode (devNow s)) legal) := by
  simp [judge, hr, hp, hs]

/-- A request that is ready is judged on its own merits. -/
theorem serve_ready {code : BitVec 16} {legal : BitVec 32} {r : Req} {s : State} (h : Ready code legal r s) (i : Instr)
    (f : State → Answer) : serve code legal r i f s = reply r code legal (f (takenUp r code s)) := by
  obtain ⟨hs, hp, hset⟩ := h
  obtain ⟨h1, h2, h3, -, -, -, h7⟩ := takenUp_same r code s
  have hp' : permitted (takenUp r code s) r code = true := by simpa [permitted, h2, h7] using hp
  have hrom : s.hub.bootRom = false := hs.2.2.1
  rw [serve_serving hs, judge, h1, hrom, hp', h3, hset]
  simp

/-- The response of an answer given at once. -/
theorem settled_reply {r : Req} {code : BitVec 16} {legal : BitVec 32} {a : Answer} (h : a.later = false) :
    Settled a.st (reply r code legal a) := by
  simp only [reply, h]
  exact settled_respond _ _ _ _ _ _ _ _

theorem answers_reply {s : State} {r : Req} {code : BitVec 16} {legal : BitVec 32} {a : Answer} (h : a.later = false)
    (hr : a.st.mail.responses = s.mail.responses) :
    Answers s (settle (reply r code legal a)) r code a.status a.body := by
  simp only [reply, h]
  refine ⟨innerResponse a.st r code a.status a.conflict a.detail (a.legal.getD legal) a.body, ?_, rfl, rfl, rfl, rfl, rfl, rfl⟩
  rw [← hr, ← respond_responses]
  exact (settle_settled _).mail.responses

/-- A ready request whose command answers at once is served: the next state is the one the command leaves. -/
theorem serves_intro {c : Instr} {s s' : State} {r : Req} {code : BitVec 16} {legal : BitVec 32} {f : State → Answer}
    {status : BitVec 8} {body : Bytes} (he : exec c s = done (serve code legal r c f s)) (h : Ready code legal r s)
    (hn : ¬(0x0501 ≤ code.toNat ∧ code.toNat ≤ 0x0504)) (hf : ∃ a, f s = a ∧ a.later = false ∧ Settled s' a.st ∧
      a.st.mail.responses = s.mail.responses ∧ a.status = status ∧ a.body = body) : Serves c s s' r code status body := by
  obtain ⟨a, ha, hl, hs, hr, rfl, rfl⟩ := hf
  rw [serve_ready h, takenUp_eq hn, ha] at he
  exact ⟨_, he, (hs.trans (settled_reply hl)).trans (settle_settled _), answers_reply hl hr⟩

/-- As `serves_intro`, for a command whose operands are checked. -/
theorem serves_intro_wf {c : Instr} {s s' : State} {r : Req} {code : BitVec 16} {legal : BitVec 32} {f : State → Answer}
    {status : BitVec 8} {body : Bytes} {z : Host.Outcome State Fault Refusal} (hw : wellFormed c = true)
    (he : exec c s = if wellFormed c then done (serve code legal r c f s) else z) (h : Ready code legal r s)
    (hn : ¬(0x0501 ≤ code.toNat ∧ code.toNat ≤ 0x0504)) (hf : ∃ a, f s = a ∧ a.later = false ∧ Settled s' a.st ∧
      a.st.mail.responses = s.mail.responses ∧ a.status = status ∧ a.body = body) : Serves c s s' r code status body :=
  serves_intro (he.trans (if_pos hw)) h hn hf

/-- The next state of a ready request. -/
theorem served_next {c : Instr} {s : State} {r : Req} {code : BitVec 16} {legal : BitVec 32} {f : State → Answer}
    (he : exec c s = done (serve code legal r c f s)) (h : Ready code legal r s) :
    exec c s = .next (settle (reply r code legal (f (takenUp r code s)))) := by
  rw [he, serve_ready h]
  rfl

/-! ### Lockouts -/

/-- With no context near its bound, nothing is locked out. -/
theorem lockouts_id {s : State} (h : NoLockout s) : lockouts s = s := by
  have one : ∀ c, lockout s c = s := by
    intro c
    have hl : ¬ 16 ≤ ((getCtx s c).sec.tags.filter fun t => decide (s.ticks < t + 3600 * ticksPerSec)).length := by
      have h1 := h c
      have h2 := List.length_filter_le (fun t => decide (s.ticks < t + 3600 * ticksPerSec)) (getCtx s c).sec.tags
      omega
    simp [lockout, hl]
  have all : ∀ l : List Nat, l.foldl lockout s = s := by
    intro l
    induction l with
    | nil => rfl
    | cons a l ih => rw [List.foldl_cons, one a, ih]
  rw [lockouts, all]

theorem NoLockout.settled {s t : State} (h : NoLockout s) (k : Settled s t) : NoLockout t := fun c => by
  have e : getCtx t c = getCtx s c := by simp [getCtx, k.out.ctxs]
  rw [e]
  exact h c

theorem doneMem_eq {s : State} (h : NoLockout s) : doneMem s = done s := by rw [doneMem, lockouts_id h]

/-! ### Every mailbox command is served alike -/

/-- A well-formed mailbox command is served under its code and its set of states. -/
theorem exec_request {c : Instr} {r : Req} {code : BitVec 16} {legal : BitVec 32} (h : requestOf c = some (r, code, legal))
    (hw : wellFormed c = true) (s : State) :
    ∃ f, exec c s = done (serve code legal r c f s) ∨ exec c s = doneMem (serve code legal r c f s) := by
  cases c <;> simp only [requestOf, Option.some.injEq, Prod.mk.injEq, reduceCtorEq] at h <;> obtain ⟨rfl, rfl, rfl⟩ := h
  case collStart => exact ⟨_, .inr rfl⟩
  case streamStart => exact ⟨_, .inr rfl⟩
  case absorb => exact ⟨_, .inr rfl⟩
  case downbeatArm => exact ⟨_, .inr rfl⟩
  case shardRepair => exact ⟨_, .inr rfl⟩
  case restore => exact ⟨_, .inr (if_pos hw)⟩
  all_goals first
    | exact ⟨_, .inl (if_pos hw)⟩
    | exact ⟨_, .inl rfl⟩

/-- What a mailbox command leads to, when its serving leaves the contexts' security state alone. -/
theorem request_done {c : Instr} {r : Req} {code : BitVec 16} {legal : BitVec 32} (h : requestOf c = some (r, code, legal))
    (hw : wellFormed c = true) (s : State) : ∃ f, ∀ u, serve code legal r c f s = u → NoLockout u → exec c s = done u := by
  obtain ⟨f, hf | hf⟩ := exec_request h hw s
  · exact ⟨f, fun u hu _ => by rw [hf, hu]⟩
  · exact ⟨f, fun u hu hn => by rw [hf, hu, doneMem_eq hn]⟩

end Sys2Proof.Machine
end

