-- ==== Sys2Proof/Tests/Slice0.lean ====
section
/-! SUPPORT. Small tests: terms that are not commands, values that the specification gives, and for each statement states and operands
that meet its hypotheses. -/

namespace Sys2Proof.Tests
open Sys2Proof Sys2Proof.Machine

set_option Elab.async false

/-! ### States and operands -/

/-- A request over PCIe. -/
def rq (m : Mbx) (c : BitVec 8) : Req := { mbx := m, path := .pcie, seq := 7, ctx := c, irq := true }

/-- The module booted and stopped, with core 0 in service. -/
def standby : State :=
  { State.reset with hub := { State.reset.hub with
      dev := .standby, coreMap := State.reset.hub.coreMap.set 0 { phys := 0, status := .inService } } }

/-- The module started. -/
def work : State := { standby with hub := { standby.hub with dev := .ready, started := true } }

/-- A context with 256 entries of the Page Map. -/
def openCtx : Context :=
  { Context.reset with st := .opened, cgen := 1, pmBase := 512, pmLen := 256, led := { Ledger.reset with accept := 1 } }

/-- The module at work in context 0, which core 0 serves, with its page 0 mapped to local page 5. -/
def home : State :=
  setC (setCtx { work with mem := { work.mem with pmap := [(512, 0xB001)] } } 0 openCtx) 0 { PCore.reset with ctx := some 0, gen := 1 }

/-- The same, with another context 0. -/
def withCtx (f : Context → Context) : State := modCtx home 0 f

/-- The same, with another stream 0 of core 0. -/
def withStream (f : Stream → Stream) : State := modC home 0 fun c => modStream c 0 f

/-- The same, with Fabric Time in another state. -/
def withTime (f : TimeBlock → TimeBlock) : State := modTime home f

/-- The same as module 5, with port 0 up and module 3 behind its group. -/
def linked : State :=
  setPort { home with fab := { home.fab with addr := 5, valid := true, routes := [(3, 0x00F0)], wasUp := 1 } } 0
    { PortBlock.reset with st := .upX4, lanes := 0xF }

/-- Decides `Ready`. -/
def readyB (code : BitVec 16) (legal : BitVec 32) (r : Req) (s : State) : Bool :=
  decide (s.hub.dev ≠ .cold) && decide (s.hub.dev ≠ .booting) && !s.hub.bootRom &&
  (if r.mbx.val = 18 ∧ r.path ≠ .smbus then !s.sec.faulted else belfryUp s) && permitted s r code && inSet legal (devNow s)

theorem ready_of {code : BitVec 16} {legal : BitVec 32} {r : Req} {s : State} (h : readyB code legal r s = true) :
    Ready code legal r s := by
  simp only [readyB, Bool.and_eq_true, decide_eq_true_eq, Bool.not_eq_true'] at h
  obtain ⟨⟨⟨⟨⟨h1, h2⟩, h3⟩, h4⟩, h5⟩, h6⟩ := h
  refine ⟨⟨h1, h2, h3, ?_⟩, h5, h6⟩
  split
  · simpa [*] using h4
  · simpa [*] using h4

theorem ready_all {codes : List (BitVec 16)} {legal : BitVec 32} {r : Req} {s : State}
    (h : codes.all (fun code => readyB code legal r s) = true) : ∀ code ∈ codes, Ready code legal r s :=
  fun x hx => ready_of (List.all_eq_true.mp h x hx)

theorem vget_all {α : Type} {n : Nat} (v : Vector α n) (d : α) (P : α → Prop) (hd : P d) (h : ∀ x ∈ v.toList, P x) (i : Nat) :
    P (v.getD i d) := by
  by_cases hi : i < n
  · have : v.getD i d = v[i] := by simp [Vector.getD, hi]
    rw [this]
    exact h _ (Vector.mem_toList_iff.mpr (Vector.getElem_mem hi))
  · have : v.getD i d = d := by simp [Vector.getD, hi]
    rw [this]; exact hd

theorem noLockout_of {s : State} (h : ∀ x ∈ s.ctxs.toList, x.sec.tags.length < 16) : NoLockout s :=
  vget_all s.ctxs Context.reset (fun x => x.sec.tags.length < 16) (by decide) h

theorem noneBlocked_of {s : State} {n : Nat} (h : ∀ x ∈ (getC s n).streams.toList, x.blocked = none) : NoneBlocked s n :=
  vget_all (getC s n).streams Stream.reset (fun x => x.blocked = none) (by decide) h

theorem unmuted_of {s : State} (h : ∀ x ∈ s.fab.ports.toList, x.muted = false) (q : Nat) : (getPort s q).muted = false :=
  vget_all s.fab.ports PortBlock.reset (fun x => x.muted = false) (by decide) h q

theorem noInjection_of {s : State} (h : ∀ x ∈ s.diag.inject.toList, x = none) : NoInjection s :=
  vget_all s.diag.inject none (fun x => x = none) rfl h

/-! ### Ill-formed terms: one for each check of WellFormed.lean -/

/-- A block of the wrong length. -/
def shortBlock : Block := { data := [1], crc := 0 }

/-- A WRITE of no block to context 0, from module 3. -/
def pk : Packet :=
  { ptype := 1, vc := 0, dst := 0, src := 3, dctx := 0, dcgen := 1, sctx := 0, scgen := 1, pgen := 0, hopsLeft := 5, detour := false,
    e2e := false, dclass := false, cls := 0, flood := false, reqId := 9, addr := 0, psig := 0, core := 0, e2eCtr := 0, nblk := 0,
    blocks := [], ctrl := none, tag := [] }

/-- A rerun that meets no fault. -/
def noFault : RerunFault := { flips := [], parity := 0, tree := none, eng := none, win := [] }

/-- No list that is longer than its buffer denotes a command (R340: 4,064 bytes of body). -/
theorem test_long_lists_refused :
    let r := rq 0 0
    [Instr.timeConfig r (List.replicate 254 ⟨0x100, 0, 0⟩), .ctxConfig r (List.replicate 254 ⟨0x900, 0, 0⟩),
      .jobConfig r (List.replicate 254 ⟨0x300, 0, 0⟩), .memPolicy r (List.replicate 254 ⟨0x400, 0, 0⟩),
      .routeWrite r 0 0 (List.replicate 2029 0), .map r (List.replicate 254 ⟨0, 0⟩), .pealTarget r 0 (List.replicate 254 ⟨0, 0⟩),
      .pealScan r (List.replicate 508 0) [], .restore r 0 (List.replicate 254 ⟨0, 0⟩) [], .cfgWrite r 2 0 (List.replicate 4057 0),
      .updateWrite r 0 0 (List.replicate 4057 0), .secE2eKey r 0 (List.replicate 32 0) 0 (List.replicate 1005 0),
      .requestBufferWrite 0 8191 [0, 0], .mctpVendorMessage 0 (List.replicate 4097 0)].all (fun c => !wellFormed c) = true := by
  decide +kernel

/-- No key, MAC, nonce, digest or ciphertext of another length denotes a command. -/
theorem test_wrong_lengths_refused :
    let r := rq 18 0
    [Instr.opAuth r 1 [0], .opSecretSet r [0], .secJobKey r 0 [0], .secE2eKey r 0 [0] 0 [], .secRotate r 0 1 [0], .secAttest r [0] 0 0,
      .sessOpen r 0 [0], .secIdeKey r 0 0 0 [], .secIdeKey r 0 0 0 (List.replicate 6 [0]), .sealed r 0 0 true 0 0 (.jobKey 0 [0]),
      .sealed r 0 0 true 0 0 (.e2eKey 0 [0] 0 []), .sealed r 0 0 true 0 0 (.rotate 0 1 [0]), .sealed r 0 0 true 0 0 (.ideKey 0 0 0 []),
      .digestRecord 0 [0], .auditComplete 0 [[0]] (List.replicate 32 0), .auditComplete 0 [] [0]].all (fun c => !wellFormed c) = true := by
  decide +kernel

/-- No block that is not whole denotes a command, no packet whose NBLK is not the number of its blocks, and no COLL_CTRL without its
content. -/
theorem test_wrong_blocks_refused :
    let k := { pk with nblk := 1 }
    [Instr.copyRequestDone 0 0 0 (.host [shortBlock]), .runAheadRead 0 ⟨0, 0⟩ 0 (.host [shortBlock]), .memoryWrite 0 0 false none 0 ⟨shortBlock, 0⟩,
      .gatherArrival 0 ⟨0, [(0, shortBlock)]⟩, .replayResult 0 0 { noFault with win := [(0, shortBlock)] }, .write 0 k true,
      .readReq 0 { pk with ptype := 2, nblk := 9 } true, .readReq 0 { pk with ptype := 2, blocks := [shortBlock] } true, .readResp 0 k true,
      .compl 0 k, .signalPacket 0 k true, .collData 0 k true, .collCtrl 0 k 0 (.credit 1), .knell 0 k, .linkup 0 k, .link 0 k,
      .packetForward 0 k, .packetAgeDrop 0 k].all (fun c => !wellFormed c) = true := by
  decide +kernel

/-- What is within its bounds denotes a command, at the bound. -/
theorem test_bounds_taken :
    let r := rq 0 0
    [Instr.timeConfig r (List.replicate 253 ⟨0x100, 0, 0⟩), .routeWrite r 0 0 (List.replicate 2028 0), .cfgWrite r 2 0 (List.replicate 4056 0),
      .pealScan r (List.replicate 507 0) [], .requestBufferWrite 0 8191 [0], .opAuth r 0 [], .secRotate r 0 0 [], .write 0 pk true,
      .readReq 0 { pk with ptype := 2, nblk := 8 } true, .collCtrl 0 pk 0 (.credit 1)].all wellFormed = true := by
  decide +kernel

/-- An ill-formed term stops by name. -/
theorem test_ill_formed_stops : exec (.opSecretSet (rq 16 0) [0]) State.reset = .fault (.illFormed "OP_SECRET_SET") := by rfl

/-! ### Values that the specification gives -/

/-- CRC-32C of the digits 1 to 9, the check value published with the polynomial that R204 names. -/
theorem test_crc32c : crc32c [0x31, 0x32, 0x33, 0x34, 0x35, 0x36, 0x37, 0x38, 0x39] = 0xE3069283 := by decide +kernel

/-- SHA-256 of "abc", from the standard that R289 names. -/
theorem test_sha256 : (sha256 [0x61, 0x62, 0x63]).take 8 = [0xBA, 0x78, 0x16, 0xBF, 0x8F, 0x01, 0xCF, 0xEA] := by decide +kernel

/-- The block of MXFP4 of the worked example after R80: scale 0x80, codes 7, 3, 9, 0 and 4, one element saturated. -/
theorem test_mxfp4_example :
    let q := quantise 13 false
      ([(.num false 13 0, none), (f32 0x40266666, none), (f32 0xBF333333, none), (.num false 1 (-2), none), (.num false 5 0, none)] ++
        List.replicate 27 (.num false 0 0, none))
    q.1 = 0x80 ∧ (q.2.take 5).map (·.bits) = [7, 3, 9, 0, 4] ∧ (q.2.filter (·.sat)).length = 1 := by decide +kernel

/-- The rounding of 1 + 3/512 to BF16 of the worked example after R76: to the nearest, and with the two random words. -/
theorem test_bf16_example :
    [none, some 0x2A5B1C00#32, some 0x90000000#32].map (fun r => (convFloat bf16Fmt false r (f32 0x3F80C000)).bits) =
      [0x3F81, 0x3F80, 0x3F81] := by decide +kernel

/-- R58: E4M3 has 448 as its largest value and no infinity; E5M2 has one. -/
theorem test_fp8_tops : decodeElem 3 false 0x7E = .num false 14 5 ∧ decodeElem 3 false 0x7F = .nan ∧ decodeElem 4 false 0xFC = .inf true := by
  decide +kernel

/-- The worked example after R54: the cores that wait for T = 8,192 across the wrap of the low 40 bits, and late after it. -/
theorem test_launch_example :
    evalLaunch 0x2000 0x000012FFFFFFF000 true = .wait ∧ evalLaunch 0x2000 0x0000130000002000 false = .onTime ∧
      evalLaunch 0x2000 0x0000130000002400 true = .late := by decide +kernel

/-- R34: a time is later than another up to 2^63 - 1 ticks ahead of it, also across the wrap. -/
theorem test_serial_times : laterThan 0 0xFFFFFFFFFFFFFFFF = true ∧ laterThan 0x8000000000000000 0 = false ∧ laterThan 5 5 = false := by
  decide +kernel

/-- R19: on a die without a defect the logical cores are the slots 0 to 31 of the die. -/
theorem test_default_slots : firstSlots State.reset 0 = List.range 32 ∧ firstSlots State.reset 3 = (List.range 32).map (· + 102) := by
  decide +kernel

/-- The opcode table gives no row its bits: no word spells a command. -/
theorem test_no_word_spells : decodeTableWord 64 0x0001 = none := by rfl

/-- A step carries out the command at the front, with the queue's rest. -/
theorem test_step_takes_front :
    step { State.reset with pending := [.v12Sb true, .drainDeadline] } = exec (.v12Sb true) { State.reset with pending := [.drainDeadline] } := by
  rfl

/-! ### Nothing is stated of no state: what meets the hypotheses of each statement -/

/-- Requests that are taken up on their own merits, by the states that their commands are legal in. -/
theorem test_meets_ready :
    (∀ code ∈ [0x0001#16, 0x0002, 0x0003, 0x0504, 0x0510, 0x0511, 0x0513, 0x0601, 0x0602, 0x0603, 0x0701], Ready code setAny (rq 0 0) home) ∧
    (∀ code ∈ [0x0103#16, 0x0104, 0x0202, 0x0206, 0x0604, 0x0605, 0x0606], Ready code setLive (rq 0 0) home) ∧
    (∀ code ∈ [0x0101#16, 0x0102, 0x0207, 0x0501, 0x0502, 0x0503], Ready code setUp (rq 0 0) home) ∧
    (∀ code ∈ [0x0105#16, 0x0201, 0x0203, 0x0204, 0x0205, 0x0208, 0x0301, 0x0302, 0x0303, 0x0304, 0x0305, 0x0306, 0x0307, 0x0308, 0x0309,
      0x030A, 0x0401, 0x0402, 0x0403, 0x0404, 0x0405, 0x0406, 0x0407, 0x0702], Ready code setWork (rq 0 0) home) ∧
    (∀ code ∈ [0x0801#16, 0x0802, 0x0803, 0x0804, 0x0805], Ready code setAny { rq 16 0 with path := .smbus } home) ∧
    (∀ code ∈ [0x0902#16, 0x0903, 0x0904, 0x0906, 0x0908], Ready code setWork (rq 18 0) home) ∧
    Ready 0x0004 0x004 (rq 0 0) standby ∧ Ready 0x0005 0x008 (rq 0 0) work ∧ Ready 0x0006 0x118 (rq 0 0) work ∧
    Ready 0x0007 setCfg (rq 0 0) work ∧ Ready 0x0008 0x004 (rq 0 0) standby ∧ Ready 0x0009 0x008 (rq 0 0) work ∧
    Ready 0x0901 setCfg (rq 18 0) work ∧ Ready 0x0905 setAny (rq 18 0) work ∧ Ready 0x0907 setLive (rq 18 0) work ∧
    Ready 0x0909 setUp (rq 18 0) work := by
  exact ⟨ready_all (by decide +kernel), ready_all (by decide +kernel), ready_all (by decide +kernel), ready_all (by decide +kernel),
    ready_all (by decide +kernel), ready_all (by decide +kernel), ready_of (by decide +kernel), ready_of (by decide +kernel),
    ready_of (by decide +kernel), ready_of (by decide +kernel), ready_of (by decide +kernel), ready_of (by decide +kernel),
    ready_of (by decide +kernel), ready_of (by decide +kernel), ready_of (by decide +kernel), ready_of (by decide +kernel)⟩

/-- EmptyQueueIsOneTick: between Beats, with the output low and high; the tick before a Beat; and COLD. -/
theorem test_meets_tick :
    home.pending = [] ∧ NoLockout home ∧ home.hub.dev ≠ .cold ∧ (home.time.now + 1).toNat % ticksPerBeat ≠ 0 ∧ home.pins.pps = false ∧
    ((withTime fun t => { t with now := 4095 }).time.now + 1).toNat % ticksPerBeat = 0 ∧
    ((withTime fun t => { t with now := 4094 }).time.now + 1).toNat % ticksPerBeat ≠ 0 ∧
    (let s := { home with hub := { home.hub with dev := .cold } }; s.pending = [] ∧ NothingWaits s) :=
  ⟨rfl, noLockout_of (by decide +kernel), by decide +kernel, by decide +kernel, by decide +kernel, by decide +kernel, by decide +kernel,
    rfl, by unfold NothingWaits; decide +kernel⟩

/-- EveryStepShowsTheState: a step that answers a next state. -/
theorem test_meets_step : ∃ t, step State.reset = .next t := ⟨_, rfl⟩

/-- RequestsAreTakenUp: a command of another mailbox, one that the device state does not allow, and the requests that wait. -/
theorem test_meets_requests :
    (requestOf (.opContractGet (rq 0 0)) = some (rq 0 0, 0x0804, setAny) ∧ Serving (rq 0 0) work ∧ NoLockout work ∧
      permitted work (rq 0 0) 0x0804 = false) ∧
    (requestOf (.deviceStart (rq 0 0) 5) = some (rq 0 0, 0x0004, 0x004) ∧ permitted work (rq 0 0) 0x0004 = true ∧
      inSet 0x004 (devNow work) = false) ∧
    (State.reset.hub.dev = .booting ∧ NoLockout State.reset) ∧
    (let s := { work with hub := { work.hub with belfryDown := true } }
     s.hub.dev ≠ .cold ∧ s.hub.dev ≠ .booting ∧ belfryUp s = false) := by
  refine ⟨⟨rfl, (ready_of (code := 1) (legal := setAny) (by decide +kernel)).1, noLockout_of (by decide +kernel), by decide +kernel⟩,
    ⟨rfl, by decide +kernel, by decide +kernel⟩, ⟨rfl, noLockout_of (by decide +kernel)⟩, by decide +kernel⟩

/-- GeneralCommandsAnswer: PING at both bounds, a core in service and one that is not, a notice that waits and none. -/
theorem test_meets_general :
    NothingWaits work ∧ ShownStateHolds work ∧ (1 : BitVec 32).toNat = 1 ∧ (1000000 : BitVec 32).toNat ≤ 1000000 ∧
    inService work 0 = true ∧ inService work 127 = false ∧ work.mail.hostQ.entries = [] ∧
    ({ work with mail := { work.mail with hostQ := { entries := [Notice.mk 1 0xFF 0 0 0 []], lost := 0 } } } : State).mail.hostQ.entries ≠ [] := by
  unfold NothingWaits ShownStateHolds; decide +kernel

/-- DeviceStartsStopsAndDrains: with every context closed and with one open, with and without a stream, a drain in progress. -/
theorem test_meets_lifecycle :
    (∀ c, c < 64 → (getCtx work c).st = .closed) ∧ (∃ c, c < 64 ∧ (getCtx home c).st ≠ .closed) ∧ busy work = false ∧
    work.hub.actReq = none ∧ (∀ c, (getCtx work c).fence = none) ∧
    (let s := withStream fun t => { t with st := .running }
     busy s = true ∧ readyB 0x0006 0x118 (rq 0 0) s = true ∧ (∃ c, c < 64 ∧ (getCtx s c).st = .opened)) ∧
    ({ work with hub := { work.hub with drainReq := some (rq 0 0, 0) } } : State).hub.drainReq = some (rq 0 0, 0) :=
  ⟨by decide +kernel, ⟨0, by decide +kernel⟩, by decide +kernel, rfl,
    vget_all work.ctxs Context.reset (fun x => x.fence = none) rfl (by decide +kernel), ⟨by decide +kernel, by decide +kernel, 0, by decide +kernel⟩, rfl⟩

/-- LayoutAndProfileAreChosen: every layout on M72, layout 2 on M54, a rate that no record sets, FORCE_SAFE# low and high, and a
session. -/
theorem test_meets_layout :
    (∀ l : BitVec 8, l.toNat < 3 → ¬(l = 2 ∧ work.opt.m54 = true)) ∧ (∀ c, c < 64 → (getCtx work c).st = .closed) ∧
    (mapGet? work.mail.volatile (0x410 + 65536) = none ∧ (userRecs work).all (fun q => q.key.toNat != 0x410) = true) ∧
    (let s := { work with opt := { work.opt with m54 := true } }; s.opt.m54 = true ∧ readyB 0x0007 setCfg (rq 0 0) s = true) ∧
    (readyB 0x0007 setCfg (rq 0 0) home = true ∧ (getCtx home 0).st ≠ .closed) ∧
    standby.hub.safe = false ∧ standby.mail.session = none ∧
    readyB 0x0008 0x004 (rq 0 0) { standby with hub := { standby.hub with safe := true } } = true ∧
    readyB 0x0008 0x004 (rq 0 0) { standby with mail := { standby.mail with session := some { mbx := 1, last := 0 } } } = true := by
  decide +kernel

/-- TimeBlockAndRoutesAreSet: records in and out of range, a module in UNSET and one locked, entries in and out of range. -/
theorem test_meets_time_block :
    ([Setting.mk 0x102 0 255, Setting.mk 0x105 0 1].all timeRecordOk = true ∧
      [Setting.mk 0x102 0 255, Setting.mk 0x105 0 0].findIdx? (fun v => !timeRecordOk v) = some 1) ∧
    (home.time.st = .unset ∧ (0x7FFF : BitVec 16).toNat < 2 ^ 15 ∧ 2 ^ 15 ≤ (0x8000 : BitVec 16).toNat) ∧
    (let s := withTime fun t => { t with st := .locked, gen := 4 }
     s.time.st ≠ .unset ∧ (5 : BitVec 16).setWidth 15 = s.time.gen + 1 ∧ (4 : BitVec 16).setWidth 15 ≠ s.time.gen + 1 ∧
       readyB 0x0101 setUp (rq 0 0) s = true) ∧
    ([0x00F0#16, 0x00FF, 0x0018].all (routeOk home) = true ∧ [0x00F0#16, 0x0011].findIdx? (fun e => !routeOk home e) = some 1) ∧
    (131071 + 1 ≤ 131072 ∧ (0x1FF : BitVec 16).toNat < 2 ^ groupCount home ∧ 2 ^ groupCount home ≤ (0x200 : BitVec 16).toNat) := by
  decide +kernel

/-- LowPowerIsEnteredAndLeft: a module with nothing that keeps it up, one that trains a port, and the wake. -/
theorem test_meets_low_power :
    lpBusy work = false ∧ inService work 0 = true ∧
    lpBusy (modPort work 0 fun b => { b with st := .training }) = true ∧
    (let s := { work with hub := { work.hub with dev := .lowPower, low := true } }
     readyB 0x000A 0x200 (rq 0 0) s = true ∧ s.hub.wakeReq = none) ∧
    (let s := { work with hub := { work.hub with dev := .lowPower, low := true, wakeReq := some (rq 0 0, 0) } }
     readyB 0x000A 0x200 (rq 0 0) s = true ∧ s.hub.wakeReq = some (rq 0 0, 0) ∧ belfryUp s = true ∧ s.hub.low = true) := by
  decide +kernel

/-- PowerContractHolds: caps and contracts at their bounds and past them, a minute that has ended and one that has not. -/
theorem test_meets_contract :
    (300 ≤ (300 : BitVec 32).toNat ∧ (3300 : BitVec 32).toNat ≤ 3300 ∧ (299 : BitVec 32).toNat < 300 ∧ 3300 < (3301 : BitVec 32).toNat) ∧
    (500 ≤ (500 : BitVec 32).toNat ∧ (0 : BitVec 32) = 0 ∧ 5 ≤ (5 : BitVec 32).toNat ∧ (500 : BitVec 32).toNat ≤ 500) ∧
    (let s := withTime fun t => { t with now := BitVec.ofNat 64 minuteTicks }
     belfryUp s = true ∧ minuteTicks ≤ s.time.now.toNat ∧ s.pwr.avgs = []) ∧
    (let s := withTime fun t => { t with now := BitVec.ofNat 64 (minuteTicks - 1) }; s.time.now.toNat < minuteTicks) := by
  decide +kernel

/-- OperatorProvesTheSecret: with a secret and a challenge, and with none. -/
theorem test_meets_operator :
    let s := { home with mail := { home.mail with opSecret := some [1], challenge := some [2] } }
    readyB 0x0801 setAny (rq 16 0) s = true ∧ wellFormed (.opAuth (rq 16 0) 1 (hmac256 [1] [2])) = true ∧ s.mail.opSecret = some [1] ∧
      s.mail.challenge = some [2] ∧ hmac256 [1] [2] ≠ List.replicate 32 0 ∧ home.mail.opSecret = none ∧
      readyB 0x0802 setAny { rq 16 0 with path := .smbus } s = true ∧
      readyB 0x0802 setAny (rq 16 0) { s with mail := { s.mail with opAuth := true } } = true := by
  decide +kernel

/-- A time frame of generation 1 from master 2, one hop away. -/
def frame : TimeFrame := { master := 2, gen := 1, hops := 1, errPs := 0, tx := 0, rx := 0 }

/-- TimeFramesFlow: the states and generations that its clauses tell apart. -/
theorem test_meets_time_frames :
    (getPort linked 0).st = .upX4 ∧ ((getPort work 0).st ≠ .upX4 ∧ work.hub.dev = devNow work ∧ NothingWaits work) ∧ home.time.st = .unset ∧
    (let s := withTime fun t => { t with st := .locked }
     s.time.st ≠ .unset ∧ 1 ≤ (frame.gen - s.time.gen).toNat ∧ (frame.gen - s.time.gen).toNat ≤ 2 ^ 14 - 1 ∧
       2 ^ 14 - 1 < ((0x4000 : BitVec 15) - s.time.gen).toNat) ∧
    (let s := withTime fun t => { t with st := .locked, gen := 1, master := true, masterAddr := 7 }
     s.time.st ≠ .unset ∧ frame.gen = s.time.gen ∧ s.time.master = true) ∧
    (let s := withTime fun t => { t with st := .locked, gen := 1, masterAddr := 7, parent := some 3 }
     s.time.master = false ∧ frame.master.toNat < s.time.masterAddr.toNat ∧ s.time.masterAddr.toNat < (8 : BitVec 17).toNat ∧
       (7 : BitVec 17) = s.time.masterAddr) := by
  unfold NothingWaits; decide +kernel

/-- An exchange whose offset is 8 of 16 parts of a tick, a tie. -/
def exch : Exchange := { t1 := 0, t2 := 16, t3 := 16, t4 := 16, parentErr := 0, residual := 0 }

/-- TimeIsAlignedAndLost: a follower aligned and one in ACQUIRING, and the states of the three rows that lose time. -/
theorem test_meets_time_lost :
    (let s := withTime fun t => { t with st := .locked, parent := some 0, err := 20 * errNs + 1 }
     s.time.parent = some 0 ∧ NoInjection s ∧ s.time.master = false ∧ s.time.st = .locked ∧ 20 * errNs < s.time.err) ∧
    (let s := withTime fun t => { t with st := .acquiring, parent := some 0 }; s.time.st = .acquiring ∧ s.time.parent = some 0) ∧
    (AtRest work ∧ work.time.parent ≠ some 0 ∧ work.time.st = .unset) ∧ halfEven 16 = 8 :=
  ⟨⟨rfl, noInjection_of (by decide +kernel), by decide +kernel⟩, ⟨rfl, rfl⟩, ⟨by unfold AtRest ShownStateHolds NothingWaits; decide +kernel, by decide +kernel, rfl⟩,
    by decide +kernel⟩

/-- BeatAndSecondAreKept: an edge that the divider holds, one that is rejected, one that is accepted, a cadence that is lost, slews of
either sign, and a minute that has ended. -/
theorem test_meets_beats :
    (let t := (withTime fun t => { t with cadEnable := true, cadDiv := 1 }).time; t.divCount < t.cadDiv.toNat ∧ t.cadLocked = false) ∧
    (let t := (withTime fun t => { t with cadEnable := true, cadLocked := true, cadPeriod := 1000, now := 1500 }).time
     t.cadDiv.toNat ≤ t.divCount ∧ nearPrediction t t.now = false) ∧
    (let t := (withTime fun t => { t with cadEnable := true, cadLocked := true, cadPeriod := 1000, now := 1010, edges := [0] }).time
     t.cadPeriod ≠ 0 ∧ nearPrediction t t.now = true ∧ t.edges ≠ []) ∧
    (let t := (withTime fun t => { t with cadEnable := true, cadLocked := true, cadPeriod := 1000, now := 8000 }).time
     8 * t.cadPeriod.toNat ≤ (t.now - t.cadLast).toNat ∧ (t.now - t.cadLast).toNat < 2 ^ 63) ∧
    (home.hub.dev ≠ .cold ∧ home.time.slew ≤ 0 ∧ (withTime fun t => { t with slew := 1 }).time.slew = 1 ∧ home.time.now.toNat < minuteTicks) ∧
    (let s := { work with hub := { work.hub with dev := .cold } }; s.hub.dev = .cold ∧ s.hub.dev = devNow s ∧ NothingWaits s) := by
  unfold NothingWaits; decide +kernel

/-- ArmedTimesDecideByR51: a switch time that waits, one on time and one that is late. -/
theorem test_meets_armed :
    let s (t : BitVec 40) (seen : Option Launch) := setCtx (withTime fun b => { b with st := .locked, now := 4096 }) 0 { openCtx with sec := { CtxSec.reset with
      e2eSwitch := some { t := t, seen := seen, held := false } } }
    NoLockout (s 5000 none) ∧ (getCtx (s 5000 none) 0).sec.e2eSwitch = some { t := 5000, seen := none, held := false } ∧
      ((5000 : BitVec 40) - (s 5000 none).time.now.setWidth 40).toNat < 2 ^ 39 ∧
      ((4096 : BitVec 40) - (s 4096 none).time.now.setWidth 40).toNat = 0 ∧
      2 ^ 39 ≤ ((4095 : BitVec 40) - (s 4095 none).time.now.setWidth 40).toNat ∧ (s 4096 (some .wait)).time.st = .locked :=
  ⟨noLockout_of (by decide +kernel), by decide +kernel⟩

/-- ContextsOpenFenceAndClose: a free range and none, the states of a context that a command meets, and a fence that has drained. -/
theorem test_meets_contexts :
    (openCtx.st = .opened ∧ (getCtx home 1).st = .closed ∧ partLost home 0 = false ∧ findRange home 256 = some 0 ∧
      findRange home 163840 = none ∧ (0 : BitVec 8).toNat < partCount home.hub.layout) ∧
    (getCtx home 0).led.st ≠ .commitPending ∧ (getCtx home 0).sec.locked = false ∧ (getCtx home 0).domains = 0 ∧
    (let s := withCtx fun x => { x with st := .fencing, fence := some { waiters := [(0, rq 0 0)], since := 0 } }
     (getCtx s 0).st = .fencing ∧ fenceDrained s 0 = true ∧ readyB 0x0606 setLive (rq 0 0) s = true) ∧
    (let s := withCtx fun x => { x with st := .fenced }
     (getCtx s 0).st = .fenced ∧ readyB 0x0606 setLive (rq 0 0) s = true ∧ readyB 0x0202 setLive (rq 0 0) s = true) ∧
    (let s := withCtx fun x => { x with led := { x.led with st := .commitPending } }
     (getCtx s 0).st ≠ .closed ∧ (getCtx s 0).led.st = .commitPending ∧ readyB 0x0606 setLive (rq 0 0) s = true) ∧
    (let s := withCtx fun x => { x with sec := { x.sec with locked := true } }; (getCtx s 0).sec.locked = true) ∧
    (let s := withCtx fun x => { x with domains := 1 }; (getCtx s 0).domains ≠ 0) ∧
    (home.hub.dev = devNow home ∧ NothingWaits home ∧ (getCtx home 1).st ≠ .opened) ∧
    (let s := { home with hub := { home.hub with chanMap := home.hub.chanMap.set 0 { ctrl := 0, status := .mappedOut } } }
     partLost s 0 = true) := by
  unfold NothingWaits; decide +kernel

/-- SettingsAndMapsAreWritten: values in and out of range before and after a step has been armed, and page-map entries of every kind: a
free local page and one that is mapped, windows, a wrong context, one index too many. -/
theorem test_meets_settings :
    (valueOk (ctxAfter home 0 [⟨0x300, 0, 1⟩]) (coresIn home (getCtx home 0)) true 0x300 1 = true ∧
      valueOk (ctxAfter home 0 [⟨0x602, 0, 9⟩]) (coresIn home (getCtx home 0)) true 0x602 9 = false ∧
      (getCtx home 0).led.everArmed = false ∧ (getCtx (withCtx fun x => { x with led := { x.led with everArmed := true } }) 0).led.everArmed = true) ∧
    ([Setting.mk 0x400 0 1000, Setting.mk 0x404 0 168].all memRecordOk = true ∧
      [Setting.mk 0x400 0 999].findIdx? (fun v => !memRecordOk v) = some 0) ∧
    (let e : BitVec 64 := 0xF001
     e.getLsbD 0 = true ∧ entField e 3 6 = 0 ∧ entField e 9 2 = 0 ∧ entField e 1 2 = 0 ∧ entField e 31 33 = 0 ∧
       entField e 13 18 < partPages home ∧ (home.mem.quar.getD 0 []).contains (entField e 13 18) = false ∧
       pageMapped home.mem.pmap 0 (entField e 13 18) = false ∧ pageMapped home.mem.pmap 0 (entField 0xB001 13 18) = true) ∧
    (let e : BitVec 64 := 0x6003
     e.getLsbD 0 = true ∧ entField e 1 2 = 1 ∧ e.getLsbD 11 = false ∧ windowCount (mapErase home.mem.pmap 513) < 20992) ∧
    (entField 0x0005 1 2 = 2 ∧ (0x0005 : BitVec 64).getLsbD 11 = false ∧ entField 0x0005 49 15 = 0 ∧ isConf home 0 = false) ∧
    (entField 0x0007 1 2 = 3 ∧ entField 0x0009 3 6 ≠ 0 ∧ (255 : BitVec 32).toNat < (getCtx home 0).pmLen.toNat ∧
      (getCtx home 0).pmLen.toNat ≤ (256 : BitVec 32).toNat) ∧
    regionSize home 0 = 0 ∧ frozenLayers (getCtx home 0) = [] ∧
    (0 + 256 ≤ (getCtx home 0).pmLen.toNat ∧ (getCtx home 0).pmLen.toNat < 1 + 256) := by
  decide +kernel

/-- The premise of MAP and UNMAP: no access of the context is under way. -/
theorem test_meets_no_access : NoAccess home 0 := by
  intro n hn
  have h : coresOf home 0 = [0] := by decide +kernel
  rw [h, List.mem_singleton] at hn
  subst hn
  exact ⟨by decide +kernel, by decide +kernel, noneBlocked_of (by decide +kernel)⟩

/-- StreamsStart: a slot that is IDLE, RUNNING and STOPPING, a core that serves no context and one out of service. -/
theorem test_meets_streams :
    (inService home 0 = true ∧ isConf home 0 = false ∧ (getC home 0).ctx = some 0 ∧ (getC home 0).gen = (getCtx home 0).cgen ∧
      corePart home 0 = (getCtx home 0).part ∧ (getStream (getC home 0) 15).st = .idle ∧ inService home 1 = false) ∧
    (let s := withStream fun t => { t with st := .running }
     (getStream (getC s 0) 0).st = .running ∧ readyB 0x0208 setWork (rq 0 0) s = true) ∧
    (let s := withStream fun t => { t with st := .stopping }
     (getStream (getC s 0) 0).st = .stopping ∧ readyB 0x0208 setWork (rq 0 0) s = true) ∧
    (let s := setC home 0 PCore.reset
     (getC s 0).ctx ≠ some 0 ∧ (∀ x ∈ (getC s 0).streams.toList, x.st = .idle) ∧ readyB 0x0208 setWork (rq 0 0) s = true) ∧
    (setbaseFirst home 0 0x200000 = false ∧ (getCtx home 0).led.noState = false) := by
  decide +kernel

/-- PortsTrainAndDegrade: a port in each state that its clauses name, with its cable in and out. -/
theorem test_meets_ports :
    (let s := { home with pins := { home.pins with cbl := Vector.replicate 9 false } }
     s.hub.actReq = none ∧ (getPort s 35).buf = [] ∧ 35 < portCount s ∧ (getPort s 35).st = .down ∧ s.hub.diesDown.getLsbD (35 % 4) = false ∧
       cableIn s 35 = true) ∧
    cableIn home 35 = false ∧ (∀ q, q < 36 → (getPort home q).st ≠ .training ∧ (getPort home q).st ≠ .relock) ∧
    portCount home ≤ (36 : BitVec 8).toNat ∧ home.fab.perLink = false ∧
    (let s := modPort home 0 fun b => { b with st := .training }
     (getPort s 0).st = .training ∧ (getPort s 0).trains.length ≤ 4 ∧ (getPort s 0).waiting = false ∧ 0 % 4 = 0 ∧
       (getPort s 0).excluded ||| ~~~(0xF : BitVec 4) = 0) ∧
    (let s := modPort { home with fab := { home.fab with perLink := true } } 0 fun b => { b with st := .training }
     s.fab.perLink = true ∧ s.sec.cred = false) ∧
    (portUp (getPort linked 0) = true ∧ (1 : BitVec 4) &&& (getPort linked 0).lanes ≠ 0 ∧ linked.fab.lostGroups.getLsbD 0 = false) ∧
    (getPort (modPort home 0 fun b => { b with st := .relock }) 0).st = .relock := by
  decide +kernel

/-- LinksCarryFramesAndKeys: a port in per-link mode with FSEQ at and past its bounds, and groups that were usable and are not. -/
theorem test_meets_links :
    (portUp (getPort linked 0) = true ∧ (getPort linked 0).muted = false ∧ (16 : BitVec 16).toNat ≤ 16 ∧ 16 < (17 : BitVec 16).toNat) ∧
    (let b := { getPort linked 0 with perLink := true, fseq := 0x400000000000 }; b.perLink = true ∧ 2 ^ 46 ≤ b.fseq.toNat ∧ b.fseq.toNat < 2 ^ 47) ∧
    (let b := { getPort linked 0 with perLink := true, fseq := 0x800000000000 }; 2 ^ 47 ≤ b.fseq.toNat ∧ b.buf = []) ∧
    (let b := { getPort linked 0 with checkFails := List.replicate 17 0 }
     16 < (b.checkFails.filter fun v => decide (linked.ticks < v + 4000000000)).length) ∧
    (let s := modPort linked 0 fun b => { b with st := .relock }
     s.fab.wasUp.getLsbD 0 = true ∧ (∀ q, q < 4 → portUp (getPort s q) = false) ∧ belfryUp s = true ∧
       s.fab.knellMem.contains (s.fab.addr, s.fab.knellSeq + 1) = false) ∧
    linked.fab.wasUp.getLsbD 1 = false := by
  decide +kernel

theorem test_meets_uninjected : NoInjection linked := noInjection_of (by decide +kernel)

/-- A WRITE of one block of zeros to page 0 of context 0. -/
def wr : Packet := { pk with dst := 5, nblk := 1, blocks := [mkBlock (List.replicate 256 0)] }

/-- The module reached, with tokens in every bucket. -/
def funded : State :=
  { linked with mem := { linked.mem with buckets := linked.mem.buckets.map fun v => v.map fun b => { b with tokens := Vector.replicate 4 100 } } }

theorem arrives_of {ty : BitVec 4} {p : Port} {k : Packet} {s : State}
    (h : (packetWf k && (k.ptype == ty) && portUp (getPort s p.val) && !k.flood && (k.hopsLeft != 0) && forUs s k) = true) : Arrives ty p k s := by
  simp only [Bool.and_eq_true, beq_iff_eq, Bool.not_eq_true', bne_iff_ne] at h
  obtain ⟨⟨⟨⟨⟨h1, h2⟩, h3⟩, h4⟩, h5⟩, h6⟩ := h
  exact ⟨h1, h2, h3, h4, h5, h6⟩

theorem reaches_of {s : State} {l : Bool} {a : BitVec 17}
    (h : (routeOf s a).toNat % 16 ≤ 8 ∧ groupUp s ((routeOf s a).toNat % 16) l ≠ [] ∧ ∀ x ∈ s.fab.ports.toList, x.muted = false) :
    ReachesBy s l a := ⟨h.1, h.2.1, unmuted_of h.2.2⟩

/-- RequestsMeetTheirChecks, WritesAndReadsReachMemory: requests that arrive and are admitted, the checks they can fail, and tokens there
and not there. -/
theorem test_meets_requests_in :
    Arrives 1 0 wr funded ∧ Arrives 2 0 { wr with ptype := 2, blocks := [] } funded ∧ Arrives 5 0 { pk with ptype := 5, dst := 5 } funded ∧
    ReachesBy funded (needsLink funded 0) 3 ∧ NoLockout funded ∧ Admitted wr funded ∧ HasTokens funded 0 0 1 ∧ ¬HasTokens linked 0 0 1 :=
  ⟨arrives_of (by decide +kernel), arrives_of (by decide +kernel), arrives_of (by decide +kernel), reaches_of (by decide +kernel),
    noLockout_of (by decide +kernel), ⟨rfl, by decide +kernel, by decide +kernel, by decide +kernel⟩,
    ⟨by decide +kernel, by decide +kernel⟩, fun h => absurd h.2 (by decide +kernel)⟩

theorem test_meets_checks :
    (getCtx (withCtx fun x => { x with st := .fencing }) 0).st = .fencing ∧ (2 : BitVec 16) ≠ (getCtx funded 0).cgen ∧
    (getCtx funded 0).led.accept.getLsbD 1 = false ∧ (1 : BitVec 48).toNat % 256 ≠ 0 ∧
    Machine.translate funded 0 0x200000 = .unmapped ∧ Machine.translate funded 0 0 = .localPage 0 5 0 false true ∧
    Machine.translate { funded with mem := { funded.mem with pmap := [(512, 0x6003)] } } 0 0 ≠ .unmapped ∧
    memoryWf funded.mem.cells = true ∧ funded.mem.migs = [] ∧ isConf funded 0 = false := by
  decide +kernel

/-- Blocks that pass and that fail their CRC. -/
theorem test_meets_blocks (d : Bytes) : blockOk (mkBlock d) = true ∧ blockOk { data := d, crc := crc32c d ^^^ 1 } = false := by
  refine ⟨by simp [blockOk, mkBlock], ?_⟩
  simp only [blockOk, beq_eq_false_iff_ne, ne_eq]
  intro h
  have := congrArg (fun x => x ^^^ crc32c d) h
  simp [BitVec.xor_comm] at this

/-- SignalsCount: a core that serves the context, and one that does not. -/
theorem test_meets_signals :
    NoneBlocked funded 0 ∧ inService funded 0 = true ∧ (getC funded 0).ctx = some 0 ∧ inService funded 1 = false ∧ NoneBlocked funded 1 :=
  ⟨noneBlocked_of (by decide +kernel), by decide +kernel, by decide +kernel, by decide +kernel, noneBlocked_of (by decide +kernel)⟩

/-- A COPY of core 0 whose first request waits for the answers of two WRITEs. -/
def job : CopyJob :=
  { iss := { id := 4, slot := 0, pc := 0, desc := 0 }, next := 1, total := 1, out := [0], wr := [(0, 2)], miss := none, got := [], acks := 2,
    psigSent := false, failed := none, src := 0, dst := 0, held := [] }

/-- The request of its first WRITE. -/
def outReq : OutReq := { reqId := 9, ctx := 0, gen := 1, owner := .copyWrite 0 4 0, sent := 0 }

/-- The module with that COPY and that request, which a COMPL answers. -/
def copying : State :=
  modC { linked with fab := { linked.fab with reqs := [outReq] } } 0 fun c => { modStream c 0 fun t => { t with st := .running } with copies := [job] }

/-- PacketsEndOrMoveOn: responses to a request and to none, packets in transit, and Knells heard again and for the first time. -/
theorem test_meets_responses :
    (Arrives 4 0 { pk with ptype := 4, dst := 5 } linked ∧ Arrives 3 0 { pk with ptype := 3, dst := 5 } linked ∧
      (∀ q ∈ linked.fab.reqs, q.reqId ≠ pk.reqId)) ∧
    (Arrives 4 0 { pk with ptype := 4, dst := 5 } copying ∧ NoLockout copying ∧ outReq.gen = (getCtx copying 0).cgen ∧
      copyById copying 0 4 = some job ∧ 2 ≤ job.acks ∧ (getStream (getC copying 0) 0).st = .running ∧
      copying.fab.reqs.find? (fun q => q.reqId == pk.reqId && q.ctx == 0 && q.gen == pk.dcgen) = some outReq) :=
  ⟨⟨arrives_of (by decide +kernel), arrives_of (by decide +kernel), by decide +kernel⟩,
    ⟨arrives_of (by decide +kernel), noLockout_of (by decide +kernel), by decide +kernel⟩⟩

theorem test_meets_transit :
    packetWf { pk with dst := 3 } = true ∧ portUp (getPort linked 0) = true ∧ forUs linked { pk with dst := 3 } = false ∧
    routeOf linked 7 = 0x00FF ∧ isRequest pk.ptype = true ∧ isRequest 4 = false ∧ linked.hub.diesDown.getLsbD 3 = false ∧
    linked.fab.knellMem.contains (3, 0) = false ∧ belfryUp linked = true ∧ (∀ x ∈ linked.fab.ports.toList, x.muted = false) ∧
    groupUp linked 0 false ≠ [] ∧
    (let s := { linked with fab := { linked.fab with knellMem := [(3, 0)], recent := [(7, 8, 0)] } }
     s.fab.knellMem.contains (3, 0) = true ∧ ∃ q ∈ s.fab.recent, q.1 = 7 ∧ q.2.1 ≠ 3 ∧ ticksSince s.time.now q.2.2 ≤ 4000000) := by
  decide +kernel

/-! ### Collective engines -/

/-- The module with a program of one END at virtual address 0. -/
def loaded : State :=
  let b := placeByte funded 0 5 0
  let a := cellAddr (chanPos funded b.1) b.2
  { funded with mem := { funded.mem with cells := [(a, 1), (a + 512, 10)] } }

/-- A program of context 0 that stands at instruction `d`, with credit on channel 0 to module 3. -/
def prog (d : BitVec 256) : Program :=
  { ctx := 0, gen := 1, va := 0, launch := { t := 0, seen := none, held := false }, launched := true, base := none, timeout := 10000,
    margin := 80000, chans := [3], instrs := [d, 10], idx := 0, pos := 0, rx := [], sent := [], got := [], ands := [], values := [],
    andsIn := [], valuesIn := [], crcAgain := false, rootAnd := none, rootTime := 0, credits := [(0, 1)], waitArm := none }

/-- Engine 0 runs that program. -/
def running (d : BitVec 256) : State := setEngine funded 0 { getEngine funded 0 with running := [prog d] }

/-- A data instruction of one FP32 element on channel 0, with its local element at virtual address 0. -/
def dataInstr (op : Nat) : BitVec 256 := BitVec.ofNat 256 (op + 2 ^ 128)

set_option maxRecDepth 1000000 in
/-- CollectivesQueueAndReceive, LedgerAndDownbeatCommands: a program that validates, one that does not, and a full engine. -/
theorem test_meets_programs :
    (loadProgram loaded 0 0 0 false).isSome = true ∧ (loadProgram loaded 0 0 0 true).isSome = true ∧
      loadProgram funded 0 0 0 false = none ∧ engineFull loaded 0 = false ∧ readyB 0x0105 setWork (rq 0 0) loaded = true ∧
      (let s := setEngine loaded 0 { getEngine loaded 0 with queued := List.replicate 12 (prog 10) }
       engineFull s 0 = true ∧ (loadProgram s 0 0 0 false).isSome = true ∧ readyB 0x0105 setWork (rq 0 0) s = true) := by
  refine ⟨by decide +kernel, by decide +kernel, ?_, by decide +kernel⟩
  rw [← Option.not_isSome_iff_eq_none]; decide +kernel

theorem test_meets_coll_packets :
    (Arrives 6 0 { pk with ptype := 6, dst := 5 } (running (dataInstr 2)) ∧
      Arrives 7 0 (ctrlPacket { pk with ptype := 7, dst := 5 } 0 (.credit 1)) (running (dataInstr 2))) ∧
    (findChannel (running (dataInstr 2)) 3 0 false = some (0, 0, 0) ∧ findChannel funded 3 0 false = none ∧
      findChannel funded 3 0 true = none ∧ isDownbeat 0 Ledger.reset (prog (dataInstr 2)) = false) :=
  ⟨⟨arrives_of (by decide +kernel), arrives_of (by decide +kernel)⟩, by decide +kernel⟩

theorem test_meets_place (d : BitVec 256) : runningAt (running d) 0 0 = some (prog d) := by rfl

/-- ControlInstructionsResolve, DataInstructionsMoveChunks: a program stands at its instruction, whichever it is. -/
theorem test_meets_runs (d : BitVec 256) : RunsAt (running d) 0 0 (cinstrOf d).op (prog d) (cinstrOf d) := ⟨rfl, rfl, rfl⟩

set_option maxRecDepth 1000000 in
/-- DataInstructionsMoveChunks: the last chunk of every data instruction, with its credit, its tokens and its local data; a chunk that has
come and one that has not. -/
theorem test_meets_chunks :
    (∀ op ∈ [1, 2, 3, 4, 5], let i := cinstrOf (dataInstr op)
      i.op = op ∧ i.count ≤ (prog (dataInstr op)).pos + perChunk i ∧ 1 ≤ mapGet (prog (dataInstr op)).credits i.chOut 0 ∧
        (engineTokens (running (dataInstr op)) 0 (prog (dataInstr op)) i 1 (chunkPlaces i)).isSome = true ∧
        (localChunk (running (dataInstr op)) (prog (dataInstr op)) i 1).isSome = true ∧
        mapGet? (prog (dataInstr op)).rx (chunkKey i.chIn 0) = none) ∧
    (putVa (running (dataInstr 2)) 0 0 [0, 0, 0, 0] false).isSome = true ∧ isConf funded 0 = false ∧
    engineTokens (setEngine linked 0 (getEngine (running (dataInstr 2)) 0)) 0 (prog (dataInstr 2)) (cinstrOf (dataInstr 2)) 1 [0] = none := by
  refine ⟨by decide +kernel, by decide +kernel, by decide +kernel, ?_⟩
  rw [← Option.not_isSome_iff_eq_none]; decide +kernel

theorem test_meets_received :
    let p := { prog (dataInstr 2) with rx := [(0, [mkBlock (List.replicate 256 0)])] }
    mapGet? p.rx (chunkKey 0 0) = some [mkBlock (List.replicate 256 0)] ∧ [mkBlock (List.replicate 256 0)].all blockOk = true ∧
      Reaches funded (chanAddr p 0) :=
  ⟨rfl, List.all_eq_true.mpr fun b hb => List.mem_singleton.mp hb ▸ (test_meets_blocks _).1, reaches_of (by decide +kernel)⟩

/-- ControlInstructionsResolve: an AND with a value and without, its deadline, a BCAST with a value and without, WAIT_TIME on either side
of its time, and a SIGNAL of a core that serves the context. -/
theorem test_meets_control :
    (let d := BitVec.ofNat 256 (6 + 2 ^ 160)
     andValue (running d) (prog d) (cinstrOf d) = none ∧
       andValue (running d) { prog d with ands := [(0, false)] } (cinstrOf d) = some false ∧
       0 ∈ (cinstrOf d).chSet ∧ mapGet? [(0, false)] (chunkKey 0 (andsBefore (prog d) 0)) = some false) ∧
    (let s := modTime (running 6) fun t => { t with st := .locked, now := 1 }
     reached s (timeOf (prog 6) (cinstrOf 6)) = true ∧ reached s 2 = false ∧ comparing s = true) ∧
    (valueIn (prog 7) (cinstrOf 7) = none ∧ valueIn { prog 7 with values := [(0, true, 0)] } (cinstrOf 7) = some (true, 0) ∧
      (cinstrOf (BitVec.ofNat 256 (7 + 2 ^ 26))).root = true) ∧
    ((timeOf (prog 8) (cinstrOf 8) - (0 : BitVec 64).setWidth 40).toNat = 0 ∧
      2 ^ 39 ≤ (timeOf (prog 8) (cinstrOf 8) - (1 : BitVec 64).setWidth 40).toNat ∧ comparing (running 8) = false) ∧
    (inService (running 9) (cinstrOf 9).core = true ∧ (getC (running 9) (cinstrOf 9).core).ctx = some 0 ∧
      inService (running 9) (cinstrOf (BitVec.ofNat 256 (9 + 2 ^ 238))).core = false) ∧
    (let l := { Ledger.reset with ready := true }; l.veto = false ∧ l.st ≠ .aborted ∧ l.ready = true) ∧ isRecv 2 = true := by
  decide +kernel

theorem test_meets_unblocked : NoneBlocked (running 9) 0 := noneBlocked_of (by decide +kernel)

/-! ### Ledger and Peal -/

/-- The module at work, with another ledger of context 0. -/
def withLed (f : Ledger → Ledger) : State := withCtx fun x => { x with led := f x.led }

/-- The module at work, with another Peal of context 0. -/
def withPeal (f : Peal → Peal) : State := withCtx fun x => { x with peal := f x.peal }

/-- The same with two windows of context 0: entry 513 onto context 9 of module 3, entry 514 onto the host. -/
def windowed (s : State) : State := { s with mem := { s.mem with pmap := [(512, 0xB001), (513, 0x240006003), (514, 0x5)] } }

/-- The Downbeat program of the armed step stands at its AND. -/
def voting (f : Ledger → Ledger) : State :=
  setEngine (withLed fun l => f { l with st := .armed, launched := true }) 0
    { getEngine home 0 with running := [{ prog 6 with base := some 0 }] }

/-- LedgerAndDownbeatCommands: windows that name the partner and that do not, pairings with it and with another, quotas, placements
that may be set again and that may not, times and counts at their bounds. -/
theorem test_meets_ledger :
    (let s := windowed home
     windowTo s (getCtx s 0) 513 3 9 = true ∧ windowTo s (getCtx s 0) 512 3 9 = false ∧
       readyB 0x0301 setWork (rq 0 0) s = true ∧ (3 : BitVec 32).toNat < 2 ^ 17 ∧ (63 : BitVec 8).toNat < 64 ∧
       (0x1FFFF : BitVec 32).toNat < 2 ^ 17) ∧
    (let q : Pairing := { peer := 3, peerCtx := 9, winMgrad := 513, winLedger := 513 }
     q.peer.toNat = 3 ∧ (getCtx home 0).led.pendPair.or (getCtx home 0).led.pair = none ∧
       (getCtx (withLed fun l => { l with pair := some q }) 0).led.pair = some q) ∧
    ((getCtx home 0).led.absorbed = false ∧ isConf home (getCtx home 0).part = false ∧
      (getCtx (withLed fun l => { l with absorbed := true }) 0).led.absorbed = true) ∧
    (valueOk (ctxSetting home 0) (coresIn home (getCtx home 0)) true 0x603 1 = true ∧
      valueOk (ctxSetting home 0) (coresIn home (getCtx home 0)) true 0x603 4097 = false) ∧
    (mapGet? (getCtx home 0).led.cleared 5 = none ∧
      mapGet? (getCtx (withLed fun l => { l with cleared := [(5, 0)] }) 0).led.cleared 5 = some 0 ∧
      ticksSince (800000 : BitVec 64) 0 = 800000 ∧ ticksSince (799999 : BitVec 64) 0 < 800000) ∧
    ((62 : BitVec 8).toNat ≤ 62 ∧ 62 < (63 : BitVec 8).toNat) := by
  decide +kernel

set_option maxRecDepth 1000000 in
/-- The Downbeat commands: a step that can be armed, in doubt, armed before and after its launch, at its AND and before it. -/
theorem test_meets_downbeat :
    ((getCtx loaded 0).led.noState = false ∧ (getCtx loaded 0).led.st = .idle ∧ (getCtx loaded 0).st = .opened ∧
      (1 : BitVec 64).toNat = ((getCtx loaded 0).led.committed + 1).toNat ∧ readyB 0x0303 setWork (rq 0 0) loaded = true) ∧
    (let s := withLed fun l => { l with st := .inDoubt }
     (getCtx s 0).led.st = .inDoubt ∧ readyB 0x0304 setWork (rq 0 0) s = true) ∧
    (let s := withLed fun l => { l with st := .armed, step := 1 }
     (getCtx s 0).led.launched = false ∧ (getCtx s 0).led.veto = false ∧ (getCtx s 0).led.step.toNat = (1 : BitVec 64).toNat ∧
       readyB 0x0305 setWork (rq 0 0) s = true) ∧
    (let s := withLed fun l => { l with st := .armed, step := 1, launched := true }; votePlace s 0 = none ∧ (getCtx s 0).led.launched = true) ∧
    votePlace (voting id) 0 = some 0 := by
  decide +kernel

/-- The record of the only micro-batch of step 0 stands at virtual address 0, with STATE 0x04. -/
def recorded (s : State) : State :=
  let b := placeByte s 0 5 0
  { s with mem := { s.mem with cells := [(cellAddr (chanPos s b.1) b.2 + 0x1B, 4)] }, time := { s.time with st := .locked } }

/-- A step with every condition of its ready bit met. -/
def met (l : Ledger) : Ledger := { l with records := [0], ownDone := true, digestDone := true, unmirrored := true }

set_option maxRecDepth 1000000 in
/-- ReadyIsGivenAndShardsMove: a ready step, an unready one, a veto, each at the AND and before it. -/
theorem test_meets_ready_bit :
    (let s := recorded (voting met)
     belfryUp s = true ∧ (getCtx s 0).led.st = .armed ∧ votePlace s 0 ≠ none ∧ firstVeto s 0 = none ∧ firstUnmet s 0 = none) ∧
    (let s := recorded (withLed fun l => { met l with st := .armed }); votePlace s 0 = none ∧ firstUnmet s 0 = none) ∧
    (votePlace (voting id) 0 ≠ none ∧ firstVeto (voting id) 0 = none ∧ firstUnmet (voting id) 0 = some (1, false) ∧
      home.time.st ≠ .locked) ∧
    firstVeto (voting fun l => { l with bad := true }) 0 = some 6 := by
  decide +kernel

/-- The digest record of context 9 of module 3 for step 1. -/
def digestRec : Bytes := leBytes 8 1 ++ leBytes 4 3 ++ [9] ++ List.replicate 243 0

set_option maxRecDepth 1000000 in
/-- A digest record of the partner, digests that are due, and a region that cannot be read. -/
theorem test_meets_digests :
    (let x := getCtx (withLed fun l => { l with pair := some { peer := 3, peerCtx := 9, winMgrad := 513, winLedger := 513 } }) 0
     digestRec.length = 256 ∧ x.led.st = .idle ∧ leNat (slice digestRec 8 4) = 3 ∧ (digestRec.getD 0x0C 0).toNat = 9 ∧
       leNat (slice digestRec 0 8) = (x.led.committed + 1).toNat) ∧
    (let s := withLed fun l => { l with ownDone := true }
     let x := getCtx s 0
     (x.led.ownDone && (x.led.mirrorDone || !mirrorNeeded x.led) && !x.led.digestDone && x.st == .opened) = true ∧
       (mirrorNeeded x.led && !x.led.filling) = false ∧ (regionData s 0 false (liveIndex s 0 + 1)).isSome = true) ∧
    (let s := withCtx fun x => { x with set := [(0x700, 4)], led := { x.led with ownDone := true } }
     votePlace s 0 = none ∧ (regionData { s with mem := { s.mem with pmap := [] } } 0 false (liveIndex s 0 + 1)).isNone = true) := by
  decide +kernel

/-- A chunk of the shard of one byte per region. -/
def sharded (f : Ledger → Ledger) : State := withCtx fun x => { x with set := [(0x700, 1)], led := f x.led }

/-- SHARD_REPAIR, SHARD_FILL and the transfers: chunks that exist, with the digest kept and another, room and none, a chunk left and none. -/
theorem test_meets_shards :
    (chunkCount (sharded id) 0 false = 1 ∧ (getCtx (sharded fun l => { l with unmirrored := false }) 0).led.unmirrored = false ∧
      mapGet? (getCtx (sharded fun l => { l with unmirrored := false, kept := [(0, sha256 [7])] }) 0).led.kept 0 = some (sha256 [7]) ∧
      mapGet? (getCtx (sharded id) 0).led.kept 0 ≠ some (sha256 [7]) ∧
      (getCtx (sharded id) 0).led.unmirrored = true ∧
      readyB 0x0306 setWork (rq 0 0) (sharded id) = true) ∧
    (let s := windowed (sharded id)
     let x := getCtx s 0
     x.pmBase.toNat ≤ (513 : BitVec 32).toNat ∧ (513 : BitVec 32).toNat < x.pmBase.toNat + x.pmLen.toNat ∧
       (mapGet s.mem.pmap 513 0).getLsbD 0 = true ∧ entField (mapGet s.mem.pmap 513 0) 1 2 = 1 ∧
       0 + 1 ≤ chunkCount s 0 false ∧ x.led.transfers.length < 64 ∧ readyB 0x0307 setWork (rq 0 0) s = true) ∧
    (let q (d : Nat) : Transfer :=
       { receiver := false, mirror := false, fill := true, first := 0, count := 1, win := 513, done := d, kept := 0, base := 0, bytes := 1 }
     (getCtx (sharded fun l => { l with transfers := [q 0] }) 0).led.transfers[0]? = some (q 0) ∧ (q 0).done < (q 0).count ∧
       (q 1).count ≤ (q 1).done ∧ (getCtx home 0).led.transfers[0]? = none ∧
       64 ≤ (getCtx (sharded fun l => { l with transfers := List.replicate 64 (q 0) }) 0).led.transfers.length) ∧
    ((getCtx (withLed fun l => { l with auditCopy := true }) 0).led.auditCopy = true ∧ (getCtx home 0).led.auditCopy = false) := by
  decide +kernel

/-- PealsBeginAndEnd: Peals that run, that write and that do not; extents and slots in a host window, in local memory and of no bytes. -/
theorem test_meets_peals :
    (pealRuns (getCtx home 0).peal = false ∧ pealRuns (getCtx (withPeal fun p => { p with st := .writing }) 0).peal = true ∧
      (getCtx home 0).led.committed.toNat < (1 : BitVec 64).toNat ∧ (getCtx home 0).peal.tq = none ∧ (getCtx home 0).led.st = .idle ∧
      (getCtx (withLed fun l => { l with st := .armed }) 0).led.st ≠ .idle) ∧
    (let s := windowed home
     extentOk s 0 { va := 0x400000, bytes := 256 } = true ∧ extentOk s 0 { va := 0, bytes := 256 } = false ∧
       extentOk s 0 { va := 0x400000, bytes := 0 } = false ∧ slotVaOk s 0 0x400000 = true ∧ slotVaOk s 0 0x400001 = false ∧
       readyB 0x0405 setWork (rq 0 0) s = true ∧ readyB 0x0406 setWork (rq 0 0) s = true) ∧
    (let s := withPeal fun p => { p with st := .writing, manifest := true, slotNo := 1 }
     (getCtx s 0).peal.outst = 0 ∧ (getCtx s 0).peal.slotNo = (1 : BitVec 8).toNat ∧ readyB 0x0404 setWork (rq 0 0) s = true) ∧
    (getCtx (withPeal fun p => { p with st := .writing, outst := 1 }) 0).peal.outst ≠ 0 ∧
    (getCtx (withPeal fun p => { p with st := .quiesced }) 0).peal.st = .quiesced := by
  decide +kernel

/-- QuiesceBarrier: barriers whose time has come and has not, with the engines empty and with a COPY that stays. -/
theorem test_meets_quiesce :
    let a (t : BitVec 40) : Armed := { t := t, seen := none, held := false }
    let at' (p : Peal → Peal) : State := modTime (withPeal p) fun b => { b with st := .locked, now := 4096 }
    ((evalArmed (at' fun p => { p with tq := some (a 4096) }) (a 4096)).1 = .onTime ∧
      (evalArmed (at' fun p => { p with tr := some (a 4097) }) (a 4097)).1 = .wait ∧ NoLockout (at' id) ∧ isConf (at' id) 0 = false) ∧
    (ctxEmpty (withPeal fun p => { p with st := .quiescing }) 0 = true ∧
      ctxEmpty (modC (withPeal fun p => { p with st := .quiescing }) 0 fun k => { modStream k 0 (fun t => { t with st := .running, inflight := [4] }) with
        copies := [job] }) 0 = false) :=
  ⟨⟨by decide +kernel, by decide +kernel, noLockout_of (by decide +kernel), by decide +kernel⟩, by decide +kernel⟩

theorem mem_of_mapGet? {α : Type} {m : AMap α} {i : Nat} {x : α} (h : mapGet? m i = some x) : (i, x) ∈ m := by
  induction m with
  | nil => simp [mapGet?] at h
  | cons e t ih =>
    simp only [mapGet?] at h
    split at h
    · next k => cases h; subst k; exact List.mem_cons_self ..
    · exact List.mem_cons_of_mem _ (ih h)

theorem allUnblocked_of {s : State} (h : ∀ e ∈ s.slots, ∀ x ∈ e.2.streams.toList, x.blocked = none) (n : Nat) : NoneBlocked s n := by
  refine noneBlocked_of ?_
  unfold getC getP mapGet
  cases hm : mapGet? s.slots (physOf s n) with
  | none =>
    have h0 : ∀ x ∈ PCore.reset.streams.toList, x.blocked = none := by decide +kernel
    exact h0
  | some c => exact h _ (mem_of_mapGet? hm)

/-- QuiesceBarrier: at T_R no stream waits. -/
theorem test_meets_resume (n : Nat) : NoneBlocked home n := allUnblocked_of (by decide +kernel) n

/-- The module with core 1 in service too, in the same partition. -/
def twoCores (f : Ledger → Ledger) : State :=
  let s := withLed f
  { s with hub := { s.hub with coreMap := s.hub.coreMap.set 1 { phys := 1, status := .inService } } }

/-- StepsCommitRestoreAndAudit: a commit time that has come and one that has not, an audit with one core, with two, and with a rotation
that is a whole turn and one that is not, and its end with digests that agree and that do not. -/
theorem test_meets_commit :
    (let a : Armed := { t := 4096, seen := none, held := false }
     let s := modTime (withLed fun l => { l with st := .commitPending, commitAt := some a, pendPgen := [(5, true)] }) fun b =>
       { b with st := .locked, now := 4096 }
     (getCtx s 0).led.commitAt = some a ∧ (evalArmed s a).1 ≠ .wait ∧ (getCtx s 0).domains = 0 ∧ (getCtx s 0).peal.armed = none ∧
       ctxSetting s 0 0x800 = 0 ∧ (getCtx s 0).led.pendSet = [] ∧ (∀ x ∈ (getCtx s 0).peal.slots.toList, x.extents = []) ∧
       (evalArmed (withTime fun b => { b with st := .unset }) a).1 = .wait) ∧
    ((partCores home 0).length = 1 ∧ (partCores (twoCores id) 0).length = 2 ∧
      (let x := getCtx (twoCores fun l => { l with auditing := some 3 }) 0
       x.led.auditing ≠ none ∧ x.led.auditCopy = false ∧ x.led.auditRot = none ∧ x.st = .opened) ∧
      ctxSetting (withCtx fun x => { x with set := [(0x502, 1)] }) 0 0x502 % 2 ≠ 0 ∧
      ctxSetting (withCtx fun x => { x with set := [(0x502, 2)] }) 0 0x502 % 2 = 0) ∧
    (let x := getCtx (twoCores fun l => { l with auditing := some 3, auditRot := some 1, auditDigest := List.replicate 32 0 }) 0
     x.led.auditing = some 3 ∧ x.led.auditRot = some 1 ∧ ([] : List Bytes) = x.led.auditGrads ∧ List.replicate 32 0 = x.led.auditDigest ∧
       List.replicate 32 1 ≠ x.led.auditDigest) := by
  decide +kernel

/-- A round keeps four words in each half. -/
theorem shaRound_len (v : ShaHalves) (kw : BitVec 32) (hm : v.maj.length = 4) (hc : v.cho.length = 4) :
    (shaRound v kw).maj.length = 4 ∧ (shaRound v kw).cho.length = 4 := by
  unfold shaRound
  split <;> simp_all

/-- So does a run of rounds. -/
theorem shaRounds_len (l : List (BitVec 32 × BitVec 32)) :
    ∀ v : ShaHalves, v.maj.length = 4 → v.cho.length = 4 →
      (l.foldl (fun v p => shaRound v (p.1 + p.2)) v).maj.length = 4 ∧
        (l.foldl (fun v p => shaRound v (p.1 + p.2)) v).cho.length = 4 := by
  induction l with
  | nil => exact fun v hm hc => ⟨hm, hc⟩
  | cons p l ih =>
    intro v hm hc
    obtain ⟨a, b⟩ := shaRound_len v (p.1 + p.2) hm hc
    exact ih _ a b

/-- A block keeps eight words. -/
theorem shaBlock_len (st : List (BitVec 32)) (blk : Bytes) (h : st.length = 8) : (shaBlock st blk).length = 8 := by
  unfold shaBlock
  obtain ⟨a, b⟩ := shaRounds_len (shaK.zip (((List.range 48).foldl (fun w _ => shaNext w :: w)
    (((chunksOf 4 16 blk).map fun b => BitVec.ofNat 32 (beNat b)).reverse)).reverse))
    { maj := st.take 4, cho := st.drop 4 } (by simp [h]) (by simp [h])
  simp only [List.length_zipWith, List.length_append, a, b, h]
  rfl

/-- The bytes of a number are as many as were asked for. -/
theorem leBytes_len : ∀ n v : Nat, (leBytes n v).length = n
  | 0, _ => rfl
  | n + 1, v => by simp [leBytes, leBytes_len n]

/-- A digest has 32 bytes. -/
theorem sha256_len (m : Bytes) : (sha256 m).length = 32 := by
  have hf : ∀ (l : List Bytes) (st : List (BitVec 32)), st.length = 8 → (l.foldl shaBlock st).length = 8 := by
    intro l
    induction l with
    | nil => exact fun _ h => h
    | cons b l ih => exact fun st h => ih _ (shaBlock_len st b h)
  have h8 := hf (chunksOf 64 (m.length / 64 + (if m.length % 64 < 56 then 1 else 2))
    (fit (64 * (m.length / 64 + (if m.length % 64 < 56 then 1 else 2)) - 8) (m ++ [0x80]) ++ beBytes 8 (8 * m.length)))
    shaInit (by decide)
  unfold sha256
  have h4 : ∀ w : BitVec 32, (beBytes 4 w.toNat).length = 4 := fun w => by simp [beBytes, leBytes_len]
  rw [List.length_flatMap]
  simp only [h4, List.map_const', List.sum_replicate, h8]
  rfl

/-- A manifest in the clear whose digest follows it opens. -/
theorem openManifest_plain (h : Bytes) (hl : h.length = 0xFC0) (hv : (h.getD 7 0).getLsbD 0 = false)
    (hm : (leNat (slice h 0 4) == 0x4C414550 && leNat (slice h 4 2) == 1) = true) :
    openManifest [] (fit 4096 (h ++ (sha256 h ++ List.replicate 32 0))) = some (h, none) := by
  have hs := sha256_len h
  have e0 : ∀ b : Bytes, ∀ n, b.length = n → fit n b = b := by
    intro b n hb
    subst hb
    simp [fit, slice]
  have e1 : fit 4096 (h ++ (sha256 h ++ List.replicate 32 0)) = h ++ (sha256 h ++ List.replicate 32 0) :=
    e0 _ _ (by simp [hl, hs])
  have e2 : slice (h ++ (sha256 h ++ List.replicate 32 0)) 0 0xFC0 = h := by
    simp [slice, hl]
  have e3 : slice (h ++ (sha256 h ++ List.replicate 32 0)) 0xFC0 32 = sha256 h := by
    simp [slice, hl, hs]
  have e4 : (h ++ (sha256 h ++ List.replicate 32 0)).getD 7 0 = h.getD 7 0 := by
    simp [List.getD, List.getElem?_append, hl]
  have e5 : (sha256 (fit 0xFC0 h) == sha256 h) = true := by rw [e0 h 0xFC0 hl]; exact beq_self_eq_true _
  rw [e1]
  unfold openManifest
  simp only [e2, e3, e4, hv, e5, hm, Bool.and_self, if_true, if_false, Bool.false_eq_true]

/-- A plain manifest of a Peal of step 1: a Downbeat Peal with one entry, an empty own shard. -/
def manifestHead : Bytes :=
  overlay (overlay (overlay (List.replicate 0xFC0 0) 0 [0x50, 0x45, 0x41, 0x4C, 1, 0, 1]) 0x20 [1]) 0x3E [1] |>.take 0x80 |>.append
    ([0, 0, 0, 0, 1, 0, 0, 0] ++ List.replicate 24 0 ++ sha256 [] ++ List.replicate (0xFC0 - 0xC0) 0)

/-- An entry that is an empty own shard, from the fields of its manifest. -/
theorem readEntry_empty (src m : Bytes) (ho : openManifest [] (fit 4096 src) = some (m, none)) (hn : leNat (slice m 0x98 4) = 0)
    (hc : leNat (slice m 0x3E 1) = 1 ∧ leNat (slice m 0x20 8) = 1 ∧ leNat (slice m 6 1) = 1 ∧ leNat (slice m 0x84 1) = 1)
    (hs : sha256 [] = slice m 0xA0 32) : ((readEntry [] 1 src 0).map fun l => (l.kind, l.ty)) = some (1, 1) := by
  obtain ⟨h1, h2, h3, h4⟩ := hc
  unfold readEntry
  rw [ho]
  simp only [Nat.mul_zero, Nat.add_zero, Nat.reduceAdd, hn, h1, h2, h3, h4, hs, List.range_zero, List.flatMap_nil, List.map_nil,
    List.all_nil, if_true]
  simp

/-- RESTORE: an entry that verifies. -/
theorem test_meets_restore :
    ((readEntry [] 1 (manifestHead ++ (sha256 manifestHead ++ List.replicate 32 0)) 0).map fun l => (l.kind, l.ty)) = some (1, 1) :=
  readEntry_empty _ manifestHead (openManifest_plain _ (by decide +kernel) (by decide +kernel) (by decide +kernel)) (by decide +kernel)
    (by decide +kernel) (by decide +kernel)

/-- RESTORE: an entry that does not verify, and the rest of the conditions. -/
theorem test_meets_restore_refused :
    (readEntry [] 1 [] 0).isNone = true ∧ openKeys home 0 = [] ∧ slotVaOk (windowed home) 0 0x400000 = true ∧
      readyB 0x0407 setWork (rq 0 0) (windowed home) = true := by
  decide +kernel

/-! ### Configuration, updates, records, diagnostics -/

/-- The module at work, with other mailboxes. -/
def withMail (f : Mail → Mail) : State := { home with mail := f home.mail }

/-- The module at work, with another hub. -/
def withHub (f : Hub → Hub) : State := { home with hub := f home.hub }

/-- The module at work, with other records. -/
def withDiag (f : Diag → Diag) : State := { home with diag := f home.diag }

/-- ConfigurationSessions: no session, one of the mailbox and one of another; regions that are valid and one that is not; the bounds. -/
theorem test_meets_config :
    let mine : Mail → Mail := fun m => { m with session := some { mbx := 0, last := 0 } }
    (home.mail.session = none ∧ (withMail mine).mail.session = some { mbx := (rq 0 0).mbx.val, last := 0 } ∧
      ¬ (∃ q ∈ (withMail fun m => { m with session := some { mbx := 1, last := 0 } }).mail.session, q.mbx = (rq 0 0).mbx.val) ∧
      [0x0501#16, 0x0502, 0x0503].all (fun k => readyB k setUp (rq 0 0) (withMail mine)) = true) ∧
    (badRegion (withMail mine) { (staleCopy home) with data := Vector.replicate 6 [] } = none ∧
      badRegion (withMail mine) { (staleCopy home) with data := (Vector.replicate 6 []).set 3 [(0, 1), (1, 0xFF)] } = some 5) ∧
    (regionLen 2 = 262144 ∧ 262140 + [1, 2, 3, 4].length ≤ regionLen 2 ∧ regionLen 2 < 262141 + [1, 2, 3, 4].length) ∧
    (memRead (memWrite ([] : Memory) 0 [0]) 0 4 = fit 4 home.mail.cal ∧ memRead (memWrite ([] : Memory) 0 [1]) 0 4 ≠ fit 4 home.mail.cal) := by
  decide +kernel

/-- The module at work, with another image of a type. -/
def withImage (ty : Nat) (f : Image → Image) : State := modImage home ty f

/-- An image of type 0 with an empty body. -/
def emptyImage : Bytes :=
  [0x5A, 0x49, 0x4D, 0x47, 0, 0, 0, 0, 9, 0, 0, 0, 8] ++ List.replicate 19 0 ++ sha256 [] ++ List.replicate (8192 - 64) 0

set_option maxRecDepth 1000000 in
/-- ImagesAreUpdated: staged images that verify and that do not, activations of each type, and a port that rolls over. -/
theorem test_meets_images :
    (imageOk (withImage 0 fun i => { i with staged := emptyImage }) 0 emptyImage true = true ∧ imageOk home 0 [] true = false ∧
      imageOk home 0 emptyImage false = false ∧ activating home 0 = false ∧ home.hub.actReq = none) ∧
    (let s := withImage 1 fun i => { i with verified := true }
     (getImage s 1).verified = true ∧ devNow s ≠ .fenced ∧ s.hub.handoff = false ∧ handoffMoment s = true ∧
       readyB 0x0512 (activateSet 1) (rq 0 0) s = true ∧
       (let u := { s with hub := { s.hub with fenced := true } }; devNow u = .fenced ∧ readyB 0x0512 (activateSet 1) (rq 0 0) u = true)) ∧
    (inService home 0 = true ∧ hasSpare home 0 = true ∧ readyB 0x0512 (activateSet 2) (rq 0 0) home = true) ∧
    (let s := modPort linked 1 fun b => { b with st := .upX4, lanes := 0xF }
     rollable s (upPorts s) = [0, 1] ∧ readyB 0x0512 (activateSet 3) (rq 0 0) s = true ∧
       (let u := { modImage s 3 fun i => { i with pending := [0, 1] } with hub := { s.hub with actReq := some (rq 0 0, 3, 40000) } }
        recovering u = false ∧ (getImage u 3).pending.contains 0 = true ∧ (∀ v, v < 4 → (getPort u v).st ≠ .training) ∧
          (rollable u (getImage u 3).pending).contains 0 = true ∧ (getPort u 0).buf = [] ∧ (getImage u 3).pending.contains 2 = false)) := by
  decide +kernel

/-- RecordsAreKeptAndRead: a dump not yet copied, the hour and between hours, a change to write, and one written within the minute. -/
theorem test_meets_records :
    (let s := withDiag fun g => { g with dump := some [1], dumpPending := true }; belfryUp s = true ∧ s.diag.dump = some [1]) ∧
    (let s := withDiag fun g => { g with pom := 61, lifeDirty := true }
     s.diag.pom % 60 ≠ 0 ∧ s.diag.lifeDirty = true ∧ s.diag.lifeAt = none) ∧
    (withDiag fun g => { g with pom := 60 }).diag.pom % 60 = 0 ∧
    (let s := withDiag fun g => { g with pom := 61, lifeDirty := true, lifeAt := some 0 }; s.ticks < 0 + 240000000000) ∧
    ((4064 : BitVec 16).toNat ≤ 4064 ∧ (1114144 : BitVec 32).toNat + (4064 : BitVec 16).toNat = 1118208 ∧
      (4128 : BitVec 32).toNat + (4064 : BitVec 16).toNat = 8192) ∧
    (let s := withHub fun h => { h with belfryDown := true, dev := devNow { home with hub := { home.hub with belfryDown := true } } }
     AtRest s ∧ belfryUp s = false) := by
  unfold AtRest ShownStateHolds NothingWaits; decide +kernel

/-- HealthAndSelfTestsDecide: totals on either side of 20 and 60, calm on either side of an hour, and slots in test that serve and that
do not. -/
theorem test_meets_health :
    (evidOver home 20 = 0 ∧ evidOver (withDiag fun g => { g with evid := [⟨0, 20, 0⟩, ⟨1, 20, 0⟩] }) 20 = 2 ∧
      evidOver (withDiag fun g => { g with evid := [⟨0, 60, 0⟩] }) 60 = 1 ∧
      (let s := { withDiag fun g => { g with health := .watch } with ticks := 14400000000000 }
       s.diag.health = .watch ∧ evidOver s 10 = 0 ∧ s.diag.calmWatch + 14400000000000 ≤ s.ticks) ∧
      (let s := { withDiag fun g => { g with health := .suspect } with ticks := 14399999999999 }
       s.diag.health = .suspect ∧ evidOver s 20 = 0 ∧ s.ticks < s.diag.calmSince + 14400000000000)) ∧
    (inService home 0 = true ∧ physOf home 0 = 0 ∧ mapGet? home.hub.retire 0 = none ∧ inService home 127 = false ∧
      (∀ c, c < 64 → (getCtx work c).st = .closed) ∧ readyB 0x0604 setLive (rq 0 0) work = true) ∧
    (let s := withHub fun h => { h with slotTesting := [0, 32] }
     s.hub.slotTesting.contains 0 = true ∧ servedBy s 0 = some 0 ∧ s.hub.slotTesting.contains 32 = true ∧ servedBy s 32 = none ∧
       (∀ n, n < 128 → (coreEntry s n).status ≠ .testing) ∧ s.hub.slotTesting.contains 33 = false) := by
  decide +kernel

/-- An injection of a kind into a target, twice, at time 4096. -/
def inj (kind : BitVec 8) (target : BitVec 16) : Injection :=
  { kind := kind, target := target, sub := 1, addr := 4, count := 2, intervalUs := 1, durationUs := 1, tFire := 4096 }

/-- The module at work with debug enabled, in Fabric Time 4096, with an injection in place 3. -/
def injected (a : Armed16) : State :=
  setInject { withHub fun h => { h with token := true } with time := { home.time with st := .locked, now := 4096 } } 3 a

/-- InjectionsFire: injections that can be armed and that cannot, places free and taken, times that have come and that have not, and
injections of the lasting kinds that act. -/
theorem test_meets_injections :
    let a (k : BitVec 8) (t : Option Armed) (n m : Nat) : Armed16 :=
      { d := inj k 0, time := t, fired := n, nextAt := 8, active := m, attrib := none }
    let w (t : BitVec 40) : Armed := { t := t, seen := none, held := false }
    (let s := injected (a 4 none 2 0)
     dbgEn s = true ∧ injectOk s (inj 4 0) = true ∧ injectGone s (inj 4 0) = false ∧ injectGone s (inj 4 127) = true ∧
       injectOk s (inj 0 0) = false ∧ ((injectPart s (inj 4 0)).map (isConf s)).getD false = false ∧ injectAt s 0 = none ∧
       injectSpent s (a 4 none 2 0) = true ∧ dbgEn home = false ∧ readyB 0x0605 setLive (rq 0 0) s = true) ∧
    (let s := { injected (a 4 none 0 0) with diag := { home.diag with inject := Vector.replicate 16 (some (a 4 none 0 0)) } }
     ∀ i, i < 16 → injectAt s i = some (a 4 none 0 0) ∧ injectSpent s (a 4 none 0 0) = false) ∧
    ([4, 7, 9, 1].all (fun k => injectAt (injected (a k (some (w 4096)) 0 0)) 3 == some (a k (some (w 4096)) 0 0)) = true ∧
      (evalArmed (injected (a 4 (some (w 4096)) 0 0)) (w 4096)).1 = .onTime ∧
      (evalArmed (injected (a 4 (some (w 4095)) 0 0)) (w 4095)).1 = .late ∧
      (evalArmed (injected (a 4 (some (w 4097)) 0 0)) (w 4097)).1 = .wait) ∧
    ((injected (a 4 none 1 0)).ticks < 8 ∧ (a 4 none 1 0).time = none) ∧
    (let s := injected (a 7 none 1 1)
     injectAt s 3 = some (a 7 none 1 1) ∧ (getPort s 0).st ≠ .retired ∧ (getPort s 0).buf = []) ∧
    (let s := injected (a 9 none 1 1); injectAt s 3 = some (a 9 none 1 1) ∧ injectAt home 3 = none) := by
  decide +kernel

/-! ### Security -/

/-- A module with the S option, with partition 0 confidential or not, and a session with SID 7 in it. -/
def secured (conf : BitVec 4) (f : Sec → Sec) : State :=
  { home with
    opt := { home.opt with conf := true }, hub := { home.hub with conf := conf }, sec := f home.sec
    mail := { home.mail with sessions := home.mail.sessions.set 0 (some { sid := 7, kReq := [1], kRsp := [2], last := some 4 }) } }

/-- A request inside the session of partition 0. -/
def inSession : Req := { rq 18 0 with path := .sealed 0 }

/-- PartitionsTurnConfidentialAndSign: with the option and without it, contexts open and closed, signatures, tokens and a stored report
left and not, pages in quarantine and none. -/
theorem test_meets_signing :
    (let s := { work with opt := { work.opt with conf := true } }
     ({ work with opt := { work.opt with conf := false } } : State).opt.conf = false ∧ s.opt.conf = true ∧ openCtxs s 0 = [] ∧ openCtxs home 0 ≠ [] ∧ dbgEn s = false ∧ lmsRemain s ≠ 0 ∧
       partCount s.hub.layout = 1 ∧ readyB 0x0901 setCfg (rq 18 0) s = true) ∧
    (let s := { home with mem := { home.mem with quar := home.mem.quar.set 0 [5, 6] } }
     belfryUp s = true ∧ s.mem.quar.getD 0 [] = 5 :: [6] ∧ s.mem.migs = [] ∧ home.mem.quar.getD 0 [] = [] ∧
       ({ home with mem := { home.mem with quar := home.mem.quar.set 0 [5] } } : State).mem.quar.getD 0 [] = 5 :: []) ∧
    (home.sec.stored = none ∧ home.sec.tokens ≠ 0 ∧ (secured 0 fun k => { k with tokens := 0 }).sec.tokens = 0 ∧
      lmsRemain (secured 0 fun k => { k with lmsNext := 2 ^ 30 }) = 0 ∧
      (secured 0 fun k => { k with stored := some { nonce := List.replicate 32 0, report := [1], sig := [2] } }).sec.stored =
        some { nonce := List.replicate 32 0, report := [1], sig := [2] } ∧ (1 : BitVec 32).toNat = [(2 : Byte)].length) ∧
    (anyConf home = false ∧ anyConf (secured 1 id) = true ∧ home.sec.cred = false ∧ home.sec.faulted = false ∧
      (secured 0 fun k => { k with treeLeft := 1024 }).sec.treeLeft ≤ 1024 ∧ 1024 < (secured 0 fun k => { k with treeLeft := 1025 }).sec.treeLeft) := by
  decide +kernel

/-- SessionsAndTenantsAreSealed: a session and none, a SEQ above the last and one that is not, registers that it may read and that it may
not, key sets and a Secure stream. -/
theorem test_meets_sessions :
    (isConf (secured 1 id) 0 = true ∧ isConf (secured 0 id) 0 = false ∧ 0 < partCount (secured 1 id).hub.layout ∧
      wellFormed (.sessOpen (rq 18 0) 0 (List.replicate 1568 0)) = true ∧ readyB 0x0906 setWork (rq 18 0) (secured 1 id) = true) ∧
    (sessionOf (secured 1 id) 7 = some (0, { sid := 7, kReq := [1], kRsp := [2], last := some 4 }) ∧ sessionOf (secured 1 id) 8 = none ∧
      seqFresh { sid := 7, kReq := [1], kRsp := [2], last := some 4 } 5 = true ∧
      seqFresh { sid := 7, kReq := [1], kRsp := [2], last := some 4 } 4 = false ∧
      wellFormed (.sealed (rq 18 0) 7 5 true 1 0 .pwrRead) = true ∧
      wellFormed (.sealed (rq 18 0) 7 5 true 1 0 (.jobKey 0 (List.replicate 32 0))) = true) ∧
    (readyB 0x0907 setLive inSession (secured 1 id) = true ∧ readyB 0x0907 setLive (rq 18 0) (secured 1 id) = true ∧
      readable (secured 1 id) 0 0 = true ∧ readable (secured 1 id) 1 0x100000 = false ∧ readyB 0x0908 setWork inSession (secured 1 id) = true ∧
      wellFormed (.secIdeKey inSession 0 1 1 (List.replicate 6 (List.replicate 40 0))) = true) ∧
    (let s := secured 1 fun k => { k with ideKeys := k.ideKeys.set 0 #v[[[1]], []] }
     (s.sec.ideKeys.getD 0 (Vector.replicate 2 [])).getD 0 [] ≠ [] ∧ s.sec.ide.getLsbD 0 = false) ∧
    (secured 1 fun k => { k with ide := 1 }).sec.ide.getLsbD 0 = true := by
  decide +kernel

/-- The context of `secured` with other secrets. -/
def keyed0 (f : CtxSec → CtxSec) (g : Sec → Sec) : State := modCtx (secured 1 g) 0 fun x => { x with sec := f x.sec }

/-- ContextKeysAreTakenAndRotated: contexts of the partition and of another, windows left and not, switch times on either side, a sweep
that runs and none, pages left and none. -/
theorem test_meets_keys :
    (let s := secured 1 id
     let x := getCtx s 0
     x.st ≠ .closed ∧ x.part = 0 ∧ (getCtx s 1).st = .closed ∧ windowsHeld s 0 (!x.sec.e2eCur) = 0 ∧
       [0x0902#16, 0x0903, 0x0904].all (fun k => readyB k setWork inSession s && readyB k setWork (rq 18 0) s) = true ∧
       wellFormed (.secE2eKey inSession 0 (List.replicate 32 0) 0 [3]) = true ∧ (0x1FFFF : BitVec 32).toNat < 2 ^ 17) ∧
    (let a : Armed := { t := 4096, seen := none, held := false }
     let s (n : BitVec 64) := modTime (keyed0 (fun z => { z with e2eSwitch := some a }) id) fun b => { b with st := .locked, now := n }
     (getCtx (s 0) 0).sec.e2eSwitch = some a ∧ (evalArmed (s 4096) a).1 = .onTime ∧ (evalArmed (s 5000) a).1 = .late ∧
       (evalArmed (s 0) a).1 = .wait) ∧
    (getCtx (keyed0 (fun z => { z with e2eErase := true }) id) 0).sec.e2eErase = true ∧
    (let s := secured 1 id
     (getCtx s 0).sec.locked = false ∧ s.sec.sweeps.getD 0 none = none ∧ localPages s (getCtx s 0) = [0] ∧
       wellFormed (.secRotate inSession 0 0 (List.replicate 32 0)) = true ∧
       (getCtx (keyed0 (fun z => { z with locked := true }) id) 0).sec.locked = true) ∧
    (let w (n : Nat) : Sweep := { ctx := 0, next := n, total := 1 }
     let s (n : Nat) := secured 1 fun k => { k with sweeps := k.sweeps.set 0 (some (w n)) }
     (s 0).sec.sweeps.getD 0 none = some (w 0) ∧ sweepFree (s 0) 0 0 = true ∧
       (localPages (s 0) (getCtx (s 0) 0)).find? (fun v => decide ((w 0).next ≤ v)) = some 0 ∧
       (localPages (s 1) (getCtx (s 1) 0)).find? (fun v => decide ((w 1).next ≤ v)) = none ∧
       (getCtx (s 0) 0).led.st = .idle ∧ (getCtx (s 0) 0).peal.st = .idle ∧ (getCtx (s 0) 0).led.records = []) := by
  decide +kernel

/-- MailboxesChangeHands: buffers of each owner, and a request buffer that holds a PING. -/
theorem test_meets_mailboxes :
    ((getBox home 0).owner = .host ∧
      (getBox (setBox home 0 { getBox home 0 with owner := .done }) 0).owner = .done ∧
      (getBox (setBox home 0 { getBox home 0 with owner := .device }) 0).owner = .device ∧ home.hub.dev ≠ .cold) ∧
    (let s := setBox home 0 { getBox home 0 with req := [(6, 1), (8, 4)] }
     let img := memRead (getBox s 0).req 4 4092
     commandOf s (headerOf 0 .pcie img) (num img 2 2) (slice img 0x1C (min (num img 4 2) bodyMax)) = some (.ping (headerOf 0 .pcie img) 0)) ∧
    wellFormed (.requestBufferWrite 0 4 [1]) = true ∧ 4092 + [(1 : Byte), 2, 3, 4].length ≤ 4096 := by
  decide +kernel

/-- RegisterPairsLatch: the pair of TIME_NOW, with a latch of another path and with one of its own; a register that is no half. -/
theorem test_meets_latches :
    (wideAt home none 0x2000).isSome = true ∧ wideAt home none 0x2004 = none ∧ wideAt home none 0 = none ∧ home.latches = [] ∧
    (let l : Latch := { path := .pcie, off := 0x2000, hi := 9 }
     let s := { home with latches := [l] }
     s.latches.find? (fun l => l.path == .pcie && l.off.toNat + 4 == 0x2004) = some l ∧
       s.latches.find? (fun l => l.path == .mailbox 18 && l.off.toNat + 4 == 0x2004) = none) ∧
    (AtRest work ∧ 0x300000 ≤ (0x300000 : Word).toNat) := by
  unfold AtRest ShownStateHolds NothingWaits; decide +kernel

/-! ### The Belfry, dies, memory, pins -/

/-- BelfryAndDiesComeBack: a key that comes soon after another and one that does not, the Belfry that comes back and a handoff that ends,
dies down and up, a core that has not drained with and without a spare, a channel, and a device that is not FENCED. -/
theorem test_meets_restart :
    ((0xB3110001 : Word).extractLsb' 16 16 = 0xB311 ∧ (0xB3110001 : Word).getLsbD 0 = true ∧ restartRecent home = false ∧
      restartRecent (withHub fun h => { h with lastRestart := some 0 }) = true ∧ home.diag.dumpPending = false ∧ home.hub.low = false) ∧
    (let s := withHub fun h => { h with belfryDown := true }
     s.hub.belfryDown = true ∧ s.lcores = [] ∧ s.diag.eventQ = [] ∧ s.mail.deferred = [] ∧
       (∀ c, c < 64 → (getCtx s c).led.commitAt = none) ∧ (getImage s 1).phase ≠ 0x11 ∧
       (∀ c, c < 64 → (getCtx s c).led.records = [] ∧ (getCtx s c).led.st ≠ .armed ∧ (getCtx s c).led.st ≠ .voted)) ∧
    (let s := withHub fun h => { h with handoff := true, actReq := some (rq 0 0, 1, 9) }
     s.hub.handoff = true ∧ s.hub.actReq = some (rq 0 0, 1, 9) ∧ s.hub.belfryDown = false) ∧
    (home.hub.dev ≠ .cold ∧ home.hub.dev ≠ .booting ∧ home.hub.diesDown ||| BitVec.ofNat 4 (2 ^ 3) ≠ 0xF ∧
      (∀ c, c < 64 → (getCtx home c).led.st = .idle ∧ (getCtx home c).peal.st = .idle ∧ (getCtx home c).led.records = []) ∧
      diePart home.hub.layout 3 = (getCtx home 0).part ∧
      (withHub fun h => { h with diesDown := 8 }).hub.diesDown.getLsbD 3 = true ∧ home.hub.diesDown.getLsbD 3 = false) ∧
    (let s := modC (withCtx fun x => { x with st := .fencing }) 0 fun k => { modStream k 0 (fun t => { t with st := .stopping, inflight := [4] }) with
        copies := [job] }
     (getCtx s 0).st = .fencing ∧ inService s 0 = true ∧ (getC s 0).ctx = some 0 ∧ coreDrained (getC s 0) = false ∧
       (freeSpares s 0).head? = some 1 ∧
       freeSpares { s with hub := { s.hub with slotRetired := (List.range 34).drop 1 } } 0 = [] ∧
       chanPart s 0 = (getCtx s 0).part ∧ migOf s 0 = none) ∧
    (home.hub.fenced = false ∧ AtRest { work with hub := { work.hub with belfryDown := false } }) := by
  unfold AtRest ShownStateHolds NothingWaits; decide +kernel

/-- The module at work, with channel `n` in service at a position of its own. -/
def served (f : Ctrl → Ctrl) : State :=
  modCtrl { funded with hub := { funded.hub with chanMap := funded.hub.chanMap.set 0 { ctrl := 0, status := .inService } } } 0
    fun k => f { k with role := .inService, chan := some 0 }

set_option maxRecDepth 1000000 in
/-- ControllersKeepBlocks: positions that serve a block and that do not, generations that are current and that are not, and a write of a
whole block. -/
theorem test_meets_controllers :
    wellFormed (.memoryWrite 0 0 false (some 0) 1 ⟨mkBlock (List.replicate 256 0), 4⟩) = true ∧
    serves (served id) 0 0 true = true ∧ serves (served id) 0 0 false = true ∧ serves (served id) 1 0 true = false ∧
    currentGen (served id) (some 0) 1 = true ∧ currentGen (served id) (some 0) 2 = false ∧ opKey (served id) 0 (some 0) false = none ∧
    memoryWf (served id).mem.cells = true ∧ (served id).mem.migs = [] := by
  decide +kernel

/-- The same with a migration of channel 0 to the spare of its group, which stands at a slot. -/
def migrating (ptr : BitVec 20) : State :=
  let s := served fun k => { k with role := .migrating, migPtr := ptr }
  { s with
    mem := { s.mem with migs := [{ chan := 0, source := 0, target := 9, mapOut := false }] }
    hub := { s.hub with chanMap := s.hub.chanMap.set 0 { ctrl := 0, status := .migrating } } }

/-- MemoryIsScrubbedAndMigrates: a scrub with tokens and without, attributions, actions that are due with a spare and without, slots left
and none, and channels in every state. -/
theorem test_meets_migration :
    (let k := getCtrl (served id) 0
     k.role = .inService ∧ k.chan = some 0 ∧ k.scrubPtr.toNat < 1015808 ∧ (takeTokens (served id) 0 3 1).isSome = true ∧
       (takeTokens home 0 3 1).isNone = true ∧ (getCtrl home 0).chan = none) ∧
    (belfryUp home = true ∧ Machine.translate home 0 0 = .localPage 0 5 0 false true ∧ servePos home (placeByte home 0 5 0).1 0 false < 80) ∧
    (let s := modCtrl (served fun k => { k with due := some false }) 9 fun k => { k with role := .spare }
     chanPos s 0 = 0 ∧ 0 < chanCount s ∧ (getCtrl s 0).due = some false ∧ posGroup s 0 = some 0 ∧ groupBusy s 0 = false ∧
       groupSpare s 0 = some 9 ∧
       s.hub.chanMap.getD 0 { ctrl := 0, status := .unmapped } = { ctrl := 0 % 20, status := .inService }) ∧
    groupSpare (served fun k => { k with due := some true }) 0 = none ∧
    (let s := migrating 5
     migOf s 0 = some { chan := 0, source := 0, target := 9, mapOut := false } ∧ (getCtrl s 0).migPtr.toNat < 1015808 ∧
       (takeAll 0 3 [8, 8, 8, 8] s).isSome = true ∧ memoryWf s.mem.cells = true ∧
       (s.hub.chanMap.getD 0 { ctrl := 0, status := .unmapped }).status = .migrating) ∧
    1015808 ≤ (getCtrl (migrating 1015808) 0).migPtr.toNat ∧
    (home.hub.chanMap.getD 0 { ctrl := 0, status := .unmapped }).status = .unmapped := by
  decide +kernel

/-- PinsAndBootReset: the rails up and down, a reset held and released, power good to come, and a module that boots with every position
trained. -/
theorem test_meets_pins :
    (let p := { home.pins with pgOut := true, perst := true, pwrEn := true, vin54 := true, v12sb := true }
     ({ home with pins := p } : State).pins.pgOut = true ∧ ({ home with pins := { p with perst := false } } : State).pins.perst = false) ∧
    (let s := { home with
        hub := { home.hub with dev := .cold, tripped := false }
        pins := { home.pins with pgOut := false, perst := true, pwrEn := true, vin54 := true, v12sb := true } }
     s.hub.dev = .cold ∧ s.pins.pgOut = false ∧ (posGroup s 0).isSome = true ∧ lifeFailed s 0 = false) ∧
    (State.reset.hub.dev = .booting ∧ State.reset.mail.deferred = [] ∧ State.reset.hub.fenced = false ∧
      (∀ c, c < 64 → (getCtx State.reset c).st = .closed) ∧ State.reset.hub.slotRetired = [] ∧
      (∀ p, p < 80 → lifeFailed State.reset p = false ∧ (getCtrl State.reset p).role ≠ .failed) ∧
      (∀ p, p < 80 → (posGroup State.reset p).isSome = true →
        (passedAt [] ((List.range 80).map fun q => (q, 0, 0xFFFFFFFF)) p).isSome = true) ∧
      State.reset.mail.copyA.factoryOk = true ∧
      devNow { State.reset with hub := { State.reset.hub with dev := .standby } } = .standby) := by
  decide +kernel

/-- ManagementPathsAnswer: the standby rail, ALERT# and the sensors, a vendor message with a PING, COLD and BOOTING. -/
theorem test_meets_management :
    (home.pins.v12sb = true ∧ home.hub.pldmOk = false ∧ (withHub fun h => { h with pldmOk := true }).hub.pldmOk = true ∧
      anyConf home = false ∧ anyConf (secured 1 id) = true ∧ home.mail.opQ.entries = [] ∧ home.pins.pgOut = true) ∧
    (let img : Bytes := [0, 0, 1, 0, 4] ++ List.replicate 31 0
     commandOf home (headerOf 0 .smbus img) (num img 2 2) (slice img 0x1C (min (num img 4 2) bodyMax)) = some (.ping (headerOf 0 .smbus img) 0) ∧
       img.length ≤ 4096 ∧ wellFormed (.mctpVendorMessage 0 img) = true) ∧
    (let s := { work with pins := { work.pins with v12sb := false } }; s.pins.v12sb = false ∧ AtRest s) ∧
    State.reset.hub.dev = .booting := by
  unfold AtRest ShownStateHolds NothingWaits; decide +kernel

/-! ### Cores -/

/-- Core 0 with stream 0 at address 0, where descriptor `d` and behind it `e` have been fetched. -/
def holding (d e : Nat) : State :=
  withStream fun t => { t with
    st := .running, ctx := 0, blocks := [{ addr := 0, data := some (leBytes 32 d ++ leBytes 32 e ++ List.replicate 192 0) }] }

/-- Decides `Stands`. -/
def standsB (s : State) (op d : Nat) : Bool :=
  issuable s 0 0 op == some (BitVec.ofNat 256 d) && controlBad (BitVec.ofNat 256 d) == none && !(getStream (getC s 0) 0).due &&
  (getC s 0).streams.toList.all fun x => x.blocked == none

theorem stands_of {s : State} {op d : Nat} (h : standsB s op d = true) : Stands s 0 0 op (BitVec.ofNat 256 d) := by
  simp only [standsB, Bool.and_eq_true, beq_iff_eq, Bool.not_eq_true', List.all_eq_true] at h
  exact ⟨h.1.1.1, h.1.1.2, h.1.2, noneBlocked_of h.2⟩

theorem stands_all {l : List (Nat × Nat)} {e : Nat} (h : l.all (fun q => standsB (holding q.2 e) q.1 q.2) = true) :
    ∀ q ∈ l, Stands (holding q.2 e) 0 0 q.1 (BitVec.ofNat 256 q.2) :=
  fun q hq => stands_of (List.all_eq_true.mp h q hq)

/-- SETBASE of register 1, BRANCH on semaphore 0 = 0 and on semaphore 0 ≠ 0, LOOP of two turns back by one, SIGNAL of the own core. -/
def aSetbase : Nat := 0x36 + 2 ^ 32 + 5 * 2 ^ 35
def aBranch (cond : Nat) : Nat := 0x35 + cond * 2 ^ 38 + 2 * 2 ^ 73
def aLoop : Nat := 0x34 + 2 * 2 ^ 34 + (2 ^ 24 - 1) * 2 ^ 66 + 2 ^ 90
def aSignal (core : Nat) : Nat := 0x31 + 2 ^ 38 + core * 2 ^ 54

/-- ControlDescriptorsAct, WaitsAndLaunchesBlockTheirStream: each control descriptor stands next in its stream. -/
theorem test_meets_stands :
    (∀ q ∈ [(opSetbase, aSetbase), (opBranch, aBranch 0), (opBranch, aBranch 1), (opLoop, aLoop), (opSignal, aSignal 0xFF), (opSignal, aSignal 1),
        (opWait, 0x30 + 2 ^ 38 + 2 ^ 39 + 2 ^ 40), (opWait, 0x30 + 2 ^ 72), (opFence, 0x33), (opEnd, 0x3F), (opWaitLow, 0x37 + 2 ^ 38),
        (opWaitLow, 0x37 + 2 ^ 39), (opLaunchAt, 0x32)], Stands (holding q.2 aSetbase) 0 0 q.1 (BitVec.ofNat 256 q.2)) :=
  stands_all (by decide +kernel)

/-- ControlDescriptorsAct: branches that are taken and that are not, loops that arm, go on, end and are held, cores that serve and that do
not, signals on their way, and words that are no control descriptor of the module. -/
theorem test_meets_control_descriptors :
    (let u := getStream (getC (holding aLoop 0) 0) 0
     let d := BitVec.ofNat 256 aLoop
     let k : LoopLevel := { active := true, ctr := 1, owner := 0, entry := 0, body := 0 }
     branchTaken (getC home 0) (BitVec.ofNat 256 (aBranch 0)) = true ∧ branchTaken (getC home 0) (BitVec.ofNat 256 (aBranch 1)) = false ∧
       inBodies u (targetOf 0 (dfield (BitVec.ofNat 256 (aBranch 0)) 73 24)) = true ∧
       inBodies { u with loops := u.loops.set 0 k } 64 = false ∧
       (armLevel u d).map (·.ctr) = some 2 ∧ armLevel { u with loops := u.loops.set 0 k } d = some k ∧
       armLevel { u with loops := u.loops.set 0 { k with owner := 32 } } d = none) ∧
    (corePart home 1 = corePart home 0 ∧ inService (twoCores id) 1 = true ∧ (getC (setC (twoCores id) 1 { PCore.reset with ctx := some 0 }) 1).ctx = some 0 ∧
      (getC (twoCores id) 1).ctx ≠ some 0 ∧ inService home 1 = false) ∧
    (let s := modFab home fun f => { f with sigs := [(0, 3, 1)] }
     s.fab.sigs.find? (fun x => x.1 == 0) = some (0, 3, 1) ∧ home.fab.sigs.find? (fun x => x.1 == 0) = none ∧ inService s 0 = true) ∧
    (issuable (holding 0x02 0) 0 0 (opcodeOf (BitVec.ofNat 256 0x02)) = some (BitVec.ofNat 256 0x02) ∧
      opcodes.contains (opcodeOf (BitVec.ofNat 256 0x02)) = false) ∧
    (issuable (holding (0x33 + 3 * 2 ^ 32) 0) 0 0 opFence = some (BitVec.ofNat 256 (0x33 + 3 * 2 ^ 32)) ∧
      controlBad (BitVec.ofNat 256 (0x33 + 3 * 2 ^ 32)) = some 0x02 ∧ issuable home 0 0 opFence = none) := by
  decide +kernel

/-- WaitsAndLaunchesBlockTheirStream: conditions met and not met, work in flight and none, items that end, cores that enter their low-power
state and wake, and descriptors behind a LAUNCH_AT. -/
theorem test_meets_waits :
    (let k := semAdd (getC home 0) 0 1
     semMet k (some 0) 1 = true ∧ semMet (getC home 0) (some 0) 1 = false ∧ outranked home 0 0 (some 0) 1 = false) ∧
    (let s (n : BitVec 64) := withTime fun t => { t with st := .locked, now := n }
     (evalArmed (s 4096) (armTime (s 4096) 4096)).1 = .onTime ∧ (evalArmed (s 4096) (armTime (s 4096) 5000)).1 = .wait) ∧
    (let s := modC (holding 0x33 0) 0 fun k => { modStream k 0 (fun t => { t with inflight := [4] }) with copies := [job], nextId := 5 }
     fenceScope s 0 0 0 = [4] ∧ 4 ∈ inFlight (getC s 0) ∧ fenceScope home 0 0 0 = [] ∧ (getStream (getC s 0) 0).inflight ≠ []) ∧
    (let w : Item := { role := 2, mirror := false, recVa := 0, backward := false, step := 0 }
     let s := modC (holding 0x3F 0) 0 fun k => modStream k 0 fun t => { t with item := some w }
     (getStream (getC s 0) 0).inflight = [] ∧ (getStream (getC s 0) 0).item = some w ∧
       (∀ m ∈ partCores s 0, physOf s m ≠ physOf s 0 → (getStream (getC s m) 0).item ≠ some w)) ∧
    (let s := holding (0x37 + 2 ^ 38) 0
     let d := BitVec.ofNat 256 (0x37 + 2 ^ 38)
     lowState s (getC s 0) d ≠ .run ∧ enginesEmpty (getC s 0) = true ∧ othersWait (getC s 0) 0 = true ∧
       lowState s { getC s 0 with pwrMode := 0 } d = .run) ∧
    (let s := modC (holding (0x37 + 2 ^ 38) 0) 0 fun k => semAdd { modStream k 0 (fun t => { t with blocked := some (.waitLow (some 0) none) }) with
        pstate := .hold } 0 1
     inService s 0 = true ∧ s.hub.low = false ∧ (getC s 0).pstate ≠ .run ∧ wakeDue s (getC s 0) .semaphore = true ∧
       wakeDue s (getC s 0) .time = false ∧ outranked (wakeFrom s 0) 0 0 (some 0) 1 = false ∧ 1 ≤ (semGet (getC s 0) 0).toNat ∧
       fetchedAt (getStream (getC s 0) 0) 0 = some (BitVec.ofNat 256 (0x37 + 2 ^ 38))) ∧
    (let s := holding 0x32 aSetbase
     followingDesc s 0 0 = some (BitVec.ofNat 256 aSetbase) ∧ noLaunch (BitVec.ofNat 256 aSetbase) = false ∧
       nextMalformed (turned s 0 0 0x32) 0 0 (BitVec.ofNat 256 aSetbase) = none ∧ noLaunch 0x3F = true ∧
       nextMalformed (turned s 0 0 0x32) 0 0 0x02 = some 0x01) ∧
    (let s := modC (holding 0x32 aSetbase) 0 fun k => modStream k 0 fun t => { t with due := true, blocked := some (.launch (armTime home 0)) }
     (getStream (getC s 0) 0).due = true ∧ issuable s 0 0 opSetbase = some (BitVec.ofNat 256 aSetbase) ∧
       controlBad (BitVec.ofNat 256 aSetbase) = none) := by
  decide +kernel

/-- DescriptorsAreFetched: a stream that waits for a block and one that reads ahead, with tokens and without, of pages of every kind. -/
theorem test_meets_fetch :
    (let s := modC funded 0 fun k => modStream k 0 fun t => { t with st := .running }
     sequencing s 0 = true ∧ (getStream (getC s 0) 0).st = .running ∧ demandAddr (getStream (getC s 0) 0) = some 0 ∧
       (takeTokens s (0 / 32) 0 1).isSome = true ∧ (takeTokens home 0 0 1).isNone = true ∧
       servePos s (placeByte s 0 5 0).1 0 false < 80 ∧ mapGet s.mem.bad (blockKey 0 0) 0 = 0 ∧
       Machine.translate s 0 (blockAddr 0) = .localPage 0 5 0 false true ∧ isConf s (getCtx s 0).part = false) ∧
    (aheadAddr (getStream (getC (holding aSetbase aSetbase) 0) 0) = some 256 ∧ aheadAddr (getStream (getC home 0) 0) = none) ∧
    (Machine.translate { home with mem := { home.mem with pmap := [] } } 0 (blockAddr 0) = .unmapped ∧
      (Machine.translate (windowed home) 0 (blockAddr 0x400000) matches .host _ _) = true ∧ sequencing home 1 = false) := by
  decide +kernel

/-! ### Engines -/

/-- COPY of 256 bytes from one location to another; MMA, KEPT in bank 0, and MV of one FP8 element each. -/
def aCopy (src dst : Nat) : Nat := 0x01 + src * 2 ^ 32 + dst * 2 ^ 35 + 255 * 2 ^ 140
def aMma (out : Nat) : Nat :=
  0x10 + 2 ^ 49 + 3 * 2 ^ 61 + 2 ^ 101 + 3 * 2 ^ 113 + 2 ^ 151 + out * 2 ^ 175 + (if out = 2 then 128 * 2 ^ 177 + 2 ^ 194 else 0)
def aMv : Nat := 0x11 + 2 ^ 49 + 3 * 2 ^ 61 + 2 ^ 101 + 3 * 2 ^ 113 + 2 ^ 119 + 128 * 2 ^ 155 + 2 ^ 172

/-- VEC of operation 0x01 on the records at 0 (the result) and 64 (both sources). -/
def aVec : Nat := 0x20 + 0x01 * 2 ^ 32 + 2 * 2 ^ 57 + 2 * 2 ^ 74 + recNone * 2 ^ 91

/-- The record of one FP32 element of the stage buffer at an address. -/
def recAt (base : Nat) : Bytes := leBytes 64 (2 ^ 8 + base * 2 ^ 16 + 4 * 2 ^ 164 + 8192 * 2 ^ 372)

/-- Core 0 at descriptor `d`, with both records in its stage buffer. -/
def engined (d : Nat) : State :=
  modC (holding d 0) 0 fun k => { k with stage := memWrite (memWrite [] 0 (recAt 1024)) 64 (recAt 2048) }

/-- EngineDescriptorsIssue: a descriptor of every engine that issues, one that is malformed, and none. -/
theorem test_meets_engines :
    ([(opCopy, aCopy 0 1), (opMma, aMma 0), (opMv, aMv), (opVec, aVec)].all (fun q =>
        issuable (engined q.2) 0 0 q.1 == some (BitVec.ofNat 256 q.2)) = true ∧
      (getStream (getC (engined (aMma 0)) 0) 0).due = false) ∧
    copyMalformed (getStream (getC home 0) 0) (BitVec.ofNat 256 (aCopy 0 1)) = none ∧
    mmaMalformed (engined (aMma 0)) 0 0 (BitVec.ofNat 256 (aMma 0)) = none ∧ mvBad (BitVec.ofNat 256 aMv) = none ∧
    vecMalformed (getC (engined aVec) 0) true (BitVec.ofNat 256 aVec) = none ∧
    (vecIn (vecOf (BitVec.ofNat 256 aVec)) (recsOf (getC (engined aVec) 0) (vecOf (BitVec.ofNat 256 aVec)))).isSome = true ∧
    (copyMalformed (getStream (getC home 0) 0) (BitVec.ofNat 256 (aCopy 6 1)) = some 0x02 ∧
      mmaMalformed home 0 0 (BitVec.ofNat 256 (aMma 3)) = some 0x02 ∧ mvBad (BitVec.ofNat 256 0x11) = some 0x02 ∧
      vecMalformed (getC home 0) true (BitVec.ofNat 256 0x20) = some 0x02 ∧ issuable home 0 0 opCopy = none) := by
  decide +kernel

/-- A COPY of core 0 that has issued, from one location to another. -/
def copyJob (src dst next : Nat) (out : List Nat) : CopyJob :=
  { iss := { id := 4, slot := 0, pc := 0, desc := BitVec.ofNat 256 (aCopy src dst) }, next := next, total := 1, out := out, wr := []
    miss := none, got := [], acks := 0, psigSent := false, failed := none, src := 0, dst := 0, held := [] }

/-- The module reached, with that COPY. -/
def copies (f : PCore → PCore) (j : CopyJob) : State :=
  modC funded 0 fun k => f { modStream k 0 (fun t => { t with st := .running, inflight := [4] }) with copies := [j] }

set_option maxRecDepth 1000000 in
/-- CopiesMoveData: requests that issue, wait for a page, for tokens or fault, and data that have come from the buffer, from memory and
from the host. -/
theorem test_meets_copies :
    (let s := copies id (copyJob 0 1 0 [])
     findCopy s 0 4 = some (copyJob 0 1 0 []) ∧ nextToRequest (getC s 0) = some 4 ∧ requestsOut (getC s 0) < 48 ∧
       (spanOf (copyOf (copyJob 0 1 0 []).iss.desc) 0 0 0).map (fun w => (w.src, w.dst, w.len)) = some (0, 0, 256) ∧
       (getStream (getC s 0) 0).st = .running) ∧
    (let x := copyOf (copyJob 2 1 0 []).iss.desc
     let w : Span := { src := 0, dst := 0, len := 256 }
     let s := copies (fun k => cacheXlat k 0) (copyJob 2 1 0 [])
     (spanPages x w).find? (fun q => !(getC s 0).xlat.contains (pageOf q.1)) = none ∧ spanFault s 0 x w = none ∧
       ((spanPages x w).find? (fun q => !(getC home 0).xlat.contains (pageOf q.1))).isSome = true ∧
       (takeAll 0 x.cls (requestSizes (chargedBlocks s 0 0 x w)) (ceTurn s 0 (copyJob 2 1 0 []))).isSome = true ∧
       (takeAll 0 x.cls (requestSizes (chargedBlocks home 0 0 x w)) home).isNone = true ∧
       spanFault { s with mem := { s.mem with pmap := [] } } 0 x w = some 0x06) ∧
    (let j := copyJob 0 1 1 [0]
     let s := copies id j
     let w : Span := { src := 0, dst := 0, len := 256 }
     j.out.contains (0 : BitVec 32).toNat = true ∧ mapGet? j.wr (0 : BitVec 32).toNat = none ∧
       (requestData s 0 j 0 w (.local [] [])).map (fun r => r.2.map (·.data.length)) = some [256] ∧
       ((requestData s 0 j 0 w (.local [] [])).map fun r => r.2.all blockOk) = some true ∧
       wellFormed (.copyRequestDone 0 4 0 (.local [] [])) = true ∧ memoryWf (locMem (getC s 0) true) = true ∧
       partsGood (locBad (getC s 0) true) 0 256 = true ∧ j.next = j.total ∧ j.acks = 0 ∧ (copyOf j.iss.desc).psigEn = false) ∧
    ((copyOf (copyJob 4 0 1 [0]).iss.desc).srcLoc = 4 ∧ mapGet? (copyJob 4 0 1 [0]).held 0 = none) ∧
    (let j := { copyJob 2 1 0 [] with miss := some 0 }
     (copies id j |> (getC · 0)).copies = [j] ∧ j.miss = some (0 : BitVec 27).toNat ∧ Machine.translate (copies id j) (0 / 2 ^ 21) 0 ≠ .unmapped) := by
  decide +kernel

/-- The same: a COPY with RA that has been fetched, and one that is still to come. -/
theorem test_meets_run_ahead :
    let d := aCopy 2 1 + 2 ^ 247
    let s := modC { holding aSetbase d with mem := funded.mem } 0 fun k => cacheXlat k 0
    let u := getStream (getC s 0) 0
    sequencing s 0 = true ∧ aheadCopy u 32 = some (BitVec.ofNat 256 d) ∧ (copyOf (BitVec.ofNat 256 d)).ra = true ∧
      copyMalformed u (BitVec.ofNat 256 d) = none ∧ u.ahead = [] ∧ aheadHeld (getC s 0) < 16 ∧ requestsOut (getC s 0) < 48 ∧
      (blocksOf 0 256).all (fun a => accessFault s 0 2 a false == none && (getC s 0).xlat.contains (pageOf a)) = true ∧
      (takeTokens s 0 (copyOf (BitVec.ofNat 256 d)).cls (blocksOf 0 256).length).isSome = true ∧
      wellFormed (.runAheadRead 0 ⟨0, 32⟩ 0 (.local [] [])) = true ∧ aheadCopy (getStream (getC home 0) 0) 32 = none := by
  decide +kernel

/-- An MMA of core 0 in the lane row. -/
def mmaJob (out : Nat) (f : MmaJob → MmaJob) : MmaJob :=
  f { iss := { id := 4, slot := 0, pc := 0, desc := BitVec.ofNat 256 (aMma out) }, started := true, pass := 0, going := true, parity := 0
      draining := false, start := none }

/-- Core 0 with other engines. -/
def withCore (f : PCore → PCore) : State := modC home 0 f

/-- MatricesAreMultiplied: buffers to fill, a pass that runs, a drain that passes and one that fails, an MV, with operands that pass their
CRC and that do not. -/
theorem test_meets_matrices :
    (let x := mmaOf (BitVec.ofNat 256 (aMma 0))
     let s := withCore fun k => { k with lr := [mmaJob 0 id] }
     let p := getC s 0
     p.stat.length < 2 ∧ (passesAhead p).find? (fun y => !p.stat.any (fun b => b.id == y.1.iss.id && b.pass == y.2)) = some (mmaJob 0 id, 0) ∧
       bGood p x 0 = true ∧ aGood p x 0 = true ∧ bGood { p with stageBad := [(0, 1)] } x 0 = false ∧ activeMma p = some (mmaJob 0 id) ∧
       guestsOn s (physOf s 0) = [] ∧ x.passes ≤ 0 + 1 ∧ x.out = 0 ∧
       ([fillStat p x 4 0].find? (fun b => b.id == 4 && b.pass == 0)).isSome = true) ∧
    (let y := mmaJob 2 fun j => { j with draining := true }
     let x := mmaOf (BitVec.ofNat 256 (aMma 2))
     let s := withCore fun k => { k with lr := [y] }
     let b := getBank (getC s 0) 0
     (getC s 0).lr.find? (·.draining) = some y ∧ x.out = 2 ∧ (compareAll x b 0).find? (fun y => !y.pass || treeAt none y) = none ∧
       ((compareAll x b 1).find? (fun y => !y.pass || treeAt none y)).isSome = true ∧ (storeRows x b x.m (getC s 0)).bad = false) ∧
    (let x := mvOf (BitVec.ofNat 256 aMv)
     let s := withCore fun k => { k with mv := [{ id := 4, slot := 0, pc := 0, desc := BitVec.ofNat 256 aMv }] }
     (getC s 0).mv.head?.isSome = true ∧ mvGood (getC s 0) x = true ∧ (storeMv x ((x.n + mvTile x - 1) / mvTile x) (getC s 0)).bad = false ∧
       mvGood { getC s 0 with stageBad := [(0, 1)] } x = false ∧ 0 < x.v * x.n) := by
  decide +kernel

/-- The inputs of that VEC. -/
def vecJob : VecJob :=
  { iss := { id := 4, slot := 0, pc := 0, desc := BitVec.ofNat 256 aVec }, recs := [trecOf (recAt 1024), trecOf (recAt 2048), trecOf (recAt 2048)]
    grp := 0, out := false, blks := [], came := [], got := [], acks := 0, ended := false }

/-- VectorsAreComputed: a VEC on thread 0 that runs, and one whose check fails. -/
theorem test_meets_vectors :
    let s := modC (engined aVec) 0 fun k => setThread k 0 (some vecJob)
    ((getC s 0).threads.getD 0 none = some vecJob ∧ (vecIn (vecOf vecJob.iss.desc) vecJob.recs).isSome = true ∧
      (vecIn (vecOf vecJob.iss.desc) vecJob.recs).map (fun v => (runVec { s with free := 1 } 0 vecJob.iss v [] none).2) = some (.ok 0) ∧
      ((vecIn (vecOf vecJob.iss.desc) vecJob.recs).map fun v =>
        match (runVec { s with free := 1 } 0 vecJob.iss v [] (some (.residue, ⟨0, 1⟩))).2 with
        | .failed _ => true
        | _ => false) = some true ∧
      (vecIn (vecOf vecJob.iss.desc) vecJob.recs).map (fun v => v.y.count) = some 1 ∧
      (vecIn (vecOf vecJob.iss.desc) vecJob.recs).map (fun v => (nextNeed s 0 v vecJob).isNone) = some true) ∧
    (∀ j, (getC home 0).threads.getD 0 none = some j → j.out = true ∨ j.ended = true) := by
  refine ⟨by decide +kernel, fun j h => ?_⟩
  have : (getC home 0).threads.getD 0 none = none := by decide +kernel
  simp [this] at h

/-- A held MV that runs again. -/
def heldMv (step : Nat) : Replay :=
  { iss := { id := 4, slot := 0, pc := 0, desc := BitVec.ofNat 256 aMv }, idx := 0, cause := 3, unit := 0, row := 0, st := .running, kEntry := 0
    check := 0, bound := 0, tree := 0, values := [], step := step, since := 0, other := none, want := [], guest := [], start := none, recs := [] }

/-- FailedWorkIsReplayed: a rerun that passes, one that fails, one that waits, and a slot held for 1 ms. -/
theorem test_meets_replay :
    (let s := setL home 0 { replay := #v[some (heldMv 1), none, none, none], pending := true }
     (getL s 0).replay.getD 0 none = some (heldMv 1) ∧ inService s 0 = true ∧ servedBy s 0 = some 0 ∧
       wellFormed (.replayResult 0 0 noFault) = true ∧
       (match rerun s 0 0 (heldMv 1) noFault with
        | .passed _ => true
        | _ => false) = true ∧
       (match rerun s 0 0 (heldMv 1) { noFault with eng := some (.residue, ⟨0, 1⟩) } with
        | .failed _ g => g.cause == 3
        | _ => false) = true ∧
       (match rerun s 0 0 { heldMv 1 with want := [0] } noFault with
        | .wait => true
        | _ => false) = true) ∧
    (1000 * ticksPerUs ≤ ticksSince 4000000 0 ∧ ticksSince 3999999 0 < 1000 * ticksPerUs) ∧ (heldMv 1).st = .running := by
  decide +kernel

/-- CoresMoveToSpares: a core with a verdict, with a spare and without, and the next of a rollout. -/
theorem test_meets_moves :
    (let s := withHub fun h => { h with retire := [(0, 3)] }
     (mapGet? s.hub.retire (physOf s 0)).isSome = true ∧ inService s 0 = true ∧ (freeSpares s (0 / 32)).head? = some 1 ∧
       (freeSpares { s with hub := { s.hub with slotRetired := (List.range 34).drop 1 } } 0).head? = none ∧
       mapGet? home.hub.retire (physOf home 0) = none) ∧
    (let s := { withImage 2 fun i => { i with pending := [0] } with hub := { home.hub with actReq := some (rq 0 0, 2, 40000) } }
     s.hub.actReq = some (rq 0 0, 2, 40000) ∧ recovering s = false ∧ rollNext s = some 0 ∧ rollNext home = none) := by
  decide +kernel

end Sys2Proof.Tests
end

section
/-! PROOFS. Fabric Time: the order of times (R34), and the latches of the _LO/_HI register pairs (R36). -/

namespace Sys2Proof.Machine

/-! ### The order of times (R34) -/

/-- Settles O18: the comparison leaves out the difference 0, which is the equality of the two times, and what is not below 2^63. -/
theorem timesCompareBySerialNumbers : Obligations.TimesCompareBySerialNumbers := by
  intro a b
  have differ : a ≠ b ↔ 1 ≤ (a - b).toNat := by
    rw [ne_eq, ← sub_eq_zero, ← BitVec.toNat_inj]
    exact Nat.one_le_iff_ne_zero.symm
  rw [laterThan, Bool.and_eq_true, bne_iff_ne, decide_eq_true_iff, differ]
  omega

/-! ### What is latched (R36) -/

section
variable (s : State) (path : RegPath) (off : Nat)

theorem hi32_eq_extractLsb' (v : BitVec 64) : hi32 v = v.extractLsb' 32 32 := rfl

/-- A latch of the _HI half at `off` is one of the _LO half four bytes below it. -/
theorem hiLatch_eq_loLatch {off : Nat} (h : 4 ≤ off) :
    (fun l : Latch => l.path == path && l.off.toNat + 4 == off) = fun l => l.path == path && l.off.toNat == off - 4 := by
  funext l
  have half : l.off.toNat + 4 = off ↔ l.off.toNat = off - 4 := by omega
  rw [Bool.eq_iff_iff]
  simp only [Bool.and_eq_true, beq_iff_eq, half]

/-- A dropped latch is gone. -/
theorem dropLatch_find?_same : (dropLatch s path off).latches.find? (fun l => l.path == path && l.off.toNat == off) = none :=
  List.find?_eq_none.mpr fun _ hl => by simpa only [Bool.not_eq_true', Bool.not_eq_true] using List.of_mem_filter hl

/-- Dropping a latch keeps those of every other path and of every other pair. -/
theorem dropLatch_find?_other {q : RegPath} {o : Nat} (h : q ≠ path ∨ o ≠ off) :
    (dropLatch s path off).latches.find? (fun l => l.path == q && l.off.toNat == o) =
      s.latches.find? (fun l => l.path == q && l.off.toNat == o) := by
  rw [dropLatch, List.find?_filter]
  congr 1
  funext l
  have kept : l.path = q ∧ l.off.toNat = o → l.path ≠ path ∨ l.off.toNat ≠ off := by
    rintro ⟨rfl, rfl⟩
    exact h
  rw [Bool.eq_iff_iff]
  simpa using kept

/-! ### One read (R36) -/

theorem latchedRead_lo {v : BitVec 64} {sess : Option Nat} (h : wideAt s sess off = some v) :
    latchedRead s path sess off =
      ({ s with latches := ⟨path, BitVec.ofNat 32 off, hi32 v⟩ :: (dropLatch s path off).latches }, lo32 v) := by
  rw [latchedRead, h]
  rfl

theorem latchedRead_hi_latched {l : Latch} {sess : Option Nat} (h : wideAt s sess off = none)
    (hl : s.latches.find? (fun l => l.path == path && l.off.toNat + 4 == off) = some l) :
    latchedRead s path sess off = (dropLatch s path (off - 4), l.hi) := by
  rw [latchedRead, h, hl]

theorem latchedRead_live {sess : Option Nat} (h : wideAt s sess off = none)
    (hl : s.latches.find? (fun l => l.path == path && l.off.toNat + 4 == off) = none) :
    latchedRead s path sess off = (s, regRead s sess off) := by
  rw [latchedRead, h, hl]

/-- The live value of a _HI half is the upper half of its pair. -/
theorem regRead_hi_half {v : BitVec 64} {sess : Option Nat} (hoff : 4 ≤ off) (hal : off % 4 = 0) (h : wideAt s sess off = none)
    (hv : wideAt s sess (off - 4) = some v) : regRead s sess off = hi32 v := by
  simp [regRead, hal, h, Nat.not_lt.mpr hoff, hv]

end

/-! ### The two read commands (R36) -/

section
variable {path : RegPath} {off : Word} {s t : State} {v : BitVec 32}

/-- A read leads to the state after its latch has been taken or made, with the value sent on its path. -/
theorem readOn_of_latchedRead (h : latchedRead s path none off.toNat = (t, v)) :
    readOn path off.toNat s = emit t (.regRead path off v) := by
  rw [readOn, h, BitVec.ofNat_toNat, BitVec.setWidth_eq]

theorem leads_loRead (h : latchedRead s path none off.toNat = (t, v)) :
    Leads (.loRead path off) s (emit t (.regRead path off v)) :=
  leads_done rfl (readOn_of_latchedRead h ▸ .refl _)

theorem leads_hiRead (h : latchedRead s path none off.toNat = (t, v)) :
    Leads (.hiRead path off) s (emit t (.regRead path off v)) :=
  leads_done rfl (readOn_of_latchedRead h ▸ .refl _)

end

/-- Settles O45: by what the offset names on its path, a _LO half, the _HI half of a latched pair, or neither. -/
theorem registerPairsLatch : Obligations.RegisterPairsLatch := by
  intro path off s
  refine ⟨fun v hv => ?lo, fun l hw hl => ?hi, fun hw hl => ?live⟩
  case lo =>
    refine ⟨_, leads_loRead (latchedRead_lo s path off.toNat hv), rfl, ?_, fun q o hne => ?_, rfl⟩
    · simp [hi32_eq_extractLsb']
    · have skip : ¬(path = q ∧ off.toNat = o) := fun ⟨hp, ho⟩ => hne.elim (· hp.symm) (· ho.symm)
      simpa [skip] using dropLatch_find?_other s path off.toNat hne
  case hi =>
    have hoff : 4 ≤ off.toNat := by
      have found := List.find?_some hl
      simp only [Bool.and_eq_true, beq_iff_eq] at found
      omega
    refine ⟨_, leads_hiRead (latchedRead_hi_latched s path off.toNat hw hl), rfl, ?_, fun q o hne => ?_, rfl⟩
    · rw [hiLatch_eq_loLatch path hoff]
      exact dropLatch_find?_same s path (off.toNat - 4)
    · exact dropLatch_find?_other s path (off.toNat - 4) (hne.imp_right (by omega))
  case live =>
    have live := latchedRead_live s path off.toNat hw hl
    exact ⟨leads_hiRead live, leads_loRead live, fun v hoff hal hv => regRead_hi_half s off.toNat hoff hal hw hv⟩

end Sys2Proof.Machine
end

section
-- One proof after the other: a text of this length has more proofs waiting at once than the check has threads for.
set_option Elab.async false
/-! PROOFS. What a step can do: a command ends as every step ends or stops as ill-formed, and every end of a step shows the device
state (R350). -/
namespace Sys2Proof.Machine

/-! ### How a command ends -/

/-- How the command `c` ends: a well-formed one with the end of a step, any other as ill-formed. -/
def Ends (c : Instr) (o : Host.Outcome State Fault Refusal) : Prop :=
  (wellFormed c = true ∧ ∃ u, o = done u) ∨ (wellFormed c = false ∧ ∃ m, o = .fault (.illFormed m))

/-- A command without operands to check ends as a step does. -/
theorem ends_unchecked {c : Instr} (h : wellFormed c = true) (u : State) : Ends c (done u) := .inl ⟨h, u, rfl⟩

/-- A command that checks its operands first ends as they say. -/
theorem ends_checked (c : Instr) (u : State) (m : String) :
    Ends c (if wellFormed c then done u else .fault (.illFormed m)) := by
  cases h : wellFormed c
  · exact .inr ⟨h, m, rfl⟩
  · exact .inl ⟨h, u, rfl⟩

theorem exec_ends (c : Instr) (s : State) : Ends c (exec c s) := by
  cases c <;> first
    | exact ends_unchecked rfl _
    | exact ends_checked _ _ _

/-- A command that answers a next state ends as every step does. -/
theorem exec_next_settles {c : Instr} {s t : State} (h : exec c s = .next t) : ∃ u, t = settle u := by
  obtain ⟨-, u, hu⟩ | ⟨-, m, hm⟩ := exec_ends c s
  · rw [hu, done_next] at h
    exact ⟨u, (Host.Outcome.next.inj h).symm⟩
  · rw [hm] at h
    cases h

/-- A step that answers a next state ends as every step does, with a command or without. -/
theorem step_next_settles {s t : State} (h : step s = .next t) : ∃ u, t = settle u := by
  unfold step at h
  split at h
  case h_1 => exact exec_next_settles h
  case h_2 => exact ⟨_, (Host.Outcome.next.inj h).symm⟩

/-! ### The shown device state (R350) -/

/-- Nothing that the mailboxes hold enters the device state. -/
theorem postNotice_hub (s : State) (code : BitVec 16) (ctx : Option Nat) (b : Bytes) : (postNotice s code ctx b).hub = s.hub := by
  unfold postNotice
  dsimp only
  split <;> rfl

theorem respond_hub (s : State) (q : Req) (cmd : BitVec 16) (st cf : BitVec 8) (d : BitVec 16) (l : BitVec 32) (b : Bytes) :
    (respond s q cmd st cf d l b).hub = s.hub := by
  unfold respond
  dsimp only
  split
  · rfl
  · rfl
  · split <;> rfl

theorem respondSealed_hub (s : State) (q : Req) (sid : BitVec 32) (n : BitVec 64) (i : Response) :
    (respondSealed s q sid n i).hub = s.hub := by
  unfold respondSealed
  split <;> exact respond_hub _ _ _ _ _ _ _ _

/-- A fold of operations that leave the hub alone leaves it alone. -/
theorem foldl_hub {α : Type} (f : State → α → State) (h : ∀ s a, (f s a).hub = s.hub) (l : List α) (s : State) :
    (l.foldl f s).hub = s.hub := by
  induction l generalizing s with
  | nil => rfl
  | cons a l ih => exact (ih (f s a)).trans (h s a)

theorem serveWaiters_hub (s : State) : (serveWaiters s).hub = s.hub := by
  unfold serveWaiters
  split
  · rfl
  · refine foldl_hub _ (fun s w => ?_) _ _
    dsimp only
    split
    · split
      · exact respondSealed_hub _ _ _ _ _
      · exact respond_hub _ _ _ _ _ _ _ _
    · rfl

theorem shownStateHolds_congr {s u : State} (h1 : u.hub = s.hub) (h2 : u.slots = s.slots) (h3 : u.fab = s.fab)
    (h : ShownStateHolds s) : ShownStateHolds u := by
  rw [ShownStateHolds, h1, devNow_congr h1 h2 h3]
  exact h

/-- A device that is neither COLD nor BOOTING shows neither. -/
theorem devNow_live {s : State} (hc : s.hub.dev ≠ .cold) (hb : s.hub.dev ≠ .booting) :
    devNow s ≠ .cold ∧ devNow s ≠ .booting := by
  unfold devNow
  split
  · contradiction
  · contradiction
  · split_ifs <;> exact ⟨nofun, nofun⟩

/-- Between two states that are neither COLD nor BOOTING, the one shown does not decide which applies. -/
theorem devNow_of_live {s : State} {d : DevState} (hc : s.hub.dev ≠ .cold) (hb : s.hub.dev ≠ .booting) (hc' : d ≠ .cold)
    (hb' : d ≠ .booting) : devNow (modHub s fun h => { h with dev := d }) = devNow s := by
  unfold devNow
  cases d <;> first | contradiction | skip
  all_goals
    split
    · contradiction
    · contradiction
    · rfl

/-- Showing the state that applies does not change which applies. -/
theorem devNow_shown (s : State) : devNow (modHub s fun h => { h with dev := devNow s }) = devNow s := by
  by_cases hc : s.hub.dev = .cold
  · simp [devNow, hc, modHub]
  by_cases hb : s.hub.dev = .booting
  · simp [devNow, hb, modHub]
  obtain ⟨hc', hb'⟩ := devNow_live hc hb
  exact devNow_of_live hc hb hc' hb'

theorem refreshDev_shows (s : State) : ShownStateHolds (refreshDev s) := by
  unfold refreshDev
  dsimp only
  split
  next h => exact h.symm
  next =>
    have shown : ShownStateHolds (modHub s fun h => { h with dev := devNow s }) := (devNow_shown s).symm
    have posted := settled_postNotice (modHub s fun h => { h with dev := devNow s }) 0x000B none
      [BitVec.ofNat 8 (devCode s.hub.dev), BitVec.ofNat 8 (devCode (devNow s))]
    exact shownStateHolds_congr (postNotice_hub _ _ _ _) posted.out.slots posted.out.fab shown

/-- The end of a step shows the first device state that applies. -/
theorem settle_shows (s : State) : ShownStateHolds (settle s) :=
  shownStateHolds_congr (serveWaiters_hub _) (settled_serveWaiters _).out.slots (settled_serveWaiters _).out.fab (refreshDev_shows _)

/-- Settles O4: every step that goes on ends with `settle`, which shows the state that applies. -/
theorem everyStepShowsTheState : Obligations.EveryStepShowsTheState := by
  intro s t h
  obtain ⟨u, rfl⟩ := step_next_settles h
  exact settle_shows u

/-- Settles O5: by how a command ends. -/
theorem wellFormedCommandsComplete : Obligations.WellFormedCommandsComplete := by
  intro c s
  obtain ⟨hw, u, hu⟩ | ⟨hw, m, hm⟩ := exec_ends c s
  · exact ⟨fun _ => ⟨_, hu⟩, fun h => absurd (hw.symm.trans h) nofun⟩
  · exact ⟨fun h => absurd (hw.symm.trans h) nofun, fun _ => ⟨m, hm⟩⟩

end Sys2Proof.Machine
end

section
-- One proof after the other: a text of this length has more proofs waiting at once than the check has threads for.
set_option Elab.async false
/-! PROOFS. Mailbox requests: permission, device state, and what becomes of a request that cannot be served yet (R338 to R349). -/
namespace Sys2Proof.Machine

/-- Settles O1: by the step's own equation. -/
theorem stepRunsFront : Obligations.StepRunsFront := fun _ _ _ => rfl

/-- Settles O3: at reset the device is COLD, which decides what is shown. -/
theorem shownStateAtReset : Obligations.ShownStateAtReset := rfl

/-! ### Requests that are judged -/

section
variable {c : Instr} {r : Req} {code : BitVec 16} {legal : BitVec 32} {s : State}

theorem noLockout_takenUp (h : NoLockout s) : NoLockout (takenUp r code s) := by
  obtain ⟨-, -, -, -, -, hctxs, -⟩ := takenUp_same r code s
  intro k
  simpa only [getCtx, hctxs] using h k

theorem permitted_takenUp : permitted (takenUp r code s) r code = permitted s r code := by
  obtain ⟨-, hauth, -, -, -, -, hsess⟩ := takenUp_same r code s
  simp only [permitted, hauth, hsess]

theorem bootRom_takenUp (h : Serving r s) : (takenUp r code s).hub.bootRom = false := by
  obtain ⟨-, -, hrom, -⟩ := h
  rw [(takenUp_same r code s).1, hrom]

/-- A request whose serving comes to `u`, where no context is near its bound, ends with it. -/
theorem exec_of_serve {u : State} (h : requestOf c = some (r, code, legal)) (hw : wellFormed c = true)
    (hu : ∀ f, serve code legal r c f s = u) (hn : NoLockout u) : exec c s = done u := by
  obtain ⟨f, hf⟩ := request_done h hw s
  exact hf u (hu f) hn

/-- A request that is answered at once, without a change of its own, ends so. -/
theorem exec_of_reply {a : Answer} (h : requestOf c = some (r, code, legal)) (hw : wellFormed c = true)
    (hu : ∀ f, serve code legal r c f s = reply r code legal a) (ha : a.later = false) (hn : NoLockout a.st) :
    exec c s = done (reply r code legal a) :=
  exec_of_serve h hw hu (hn.settled (settled_reply ha))

theorem serves_of_reply {a : Answer} (h : requestOf c = some (r, code, legal)) (hw : wellFormed c = true)
    (hu : ∀ f, serve code legal r c f s = reply r code legal a) (ha : a.later = false) (hn : NoLockout a.st)
    (hr : a.st.mail.responses = s.mail.responses) : Serves c s a.st r code a.status a.body :=
  ⟨_, exec_of_reply h hw hu ha hn, (settled_reply ha).trans (settle_settled _), answers_reply ha hr⟩

/-- R346: a request that is not permitted is denied. -/
theorem serves_denied (h : requestOf c = some (r, code, legal)) (hw : wellFormed c = true) (hs : Serving r s) (hn : NoLockout s)
    (hp : permitted s r code = false) : Serves c s (takenUp r code s) r code 0x04 [] := by
  have judged : ∀ f, serve code legal r c f s = reply r code legal (err (takenUp r code s) stDenied 0) := fun f => by
    rw [serve_serving hs, judge_denied (bootRom_takenUp hs) (permitted_takenUp.trans hp)]
  obtain ⟨-, -, -, responses, -⟩ := takenUp_same r code s
  exact serves_of_reply h hw judged rfl (noLockout_takenUp hn) responses

/-! ### Requests that cannot be served yet -/

/-- R344: a request that waits for the Belfry is kept, and nothing else moves but its mailbox's owner. -/
theorem settled_deferReq (i : Instr) :
    Settled { s with mail := { s.mail with deferred := s.mail.deferred ++ [(s.ticks, i)] } } (deferReq s r i) := by
  unfold deferReq handed
  split
  · exact ⟨by constructor <;> rfl, by constructor <;> rfl, .refl _⟩
  · exact .refl _

theorem serve_cold (hd : s.hub.dev = .cold) (hp : r.path = .pcie) (f : State → Answer) : serve code legal r c f s = s := by
  simp [serve, hp, hd]

theorem serve_early_smbus (hd : s.hub.dev = .cold ∨ s.hub.dev = .booting) (hp : r.path = .smbus) (f : State → Answer) :
    serve code legal r c f s = reply r code legal (err s stBusy 0) := by
  rcases hd with hd | hd <;> simp [serve, hp, hd]

theorem serve_booting (hd : s.hub.dev = .booting) (hp : r.path = .pcie) (f : State → Answer) :
    serve code legal r c f s = deferReq s r c := by
  simp [serve, hp, hd]

theorem serve_belfryDown (hc : s.hub.dev ≠ .cold) (hb : s.hub.dev ≠ .booting) (hu : belfryUp s = false)
    (hp : r.path = .smbus ∨ (r.path = .pcie ∧ r.mbx.val ≠ 18)) (f : State → Answer) :
    serve code legal r c f s = deferReq s r c := by
  rcases hp with hp | ⟨hp, hm⟩
  · simp [serve, hp, hc, hb, hu]
  · simp [serve, hp, hc, hb, hu, hm]

/-- A request that is kept waits behind the others. -/
theorem leads_defer (h : requestOf c = some (r, code, legal)) (hw : wellFormed c = true) (hn : NoLockout s)
    (hu : ∀ f, serve code legal r c f s = deferReq s r c) :
    Leads c s { s with mail := { s.mail with deferred := s.mail.deferred ++ [(s.ticks, c)] } } := by
  have kept := settled_deferReq (r := r) (s := s) c
  have free : NoLockout { s with mail := { s.mail with deferred := s.mail.deferred ++ [(s.ticks, c)] } } := hn
  exact leads_done (exec_of_serve h hw hu (free.settled kept)) kept

end

/-- Settles O6: by what serving a request comes to on its path and in the device state. -/
theorem requestsAreTakenUp : Obligations.RequestsAreTakenUp := by
  refine ⟨fun c r code legal s h hw hs hn hp => serves_denied h hw hs hn hp, fun c r code legal s h hw hs hn hp hset => ?_,
    fun c r code legal s h hw hn => ⟨fun hd hp => ?_, fun hd hp => ?_, fun hlate => ?_⟩⟩
  · obtain ⟨-, -, hdev, responses, htime, -⟩ := takenUp_same r code s
    have judged : ∀ f, serve code legal r c f s =
        reply r code legal (conflict (takenUp r code s) 0 (devCode (devNow s)) legal) := fun f => by
      rw [serve_serving hs, judge_conflict (bootRom_takenUp hs) (permitted_takenUp.trans hp) (hdev ▸ hset), hdev]
    have ends := settle_settled (reply r code legal (conflict (takenUp r code s) 0 (devCode (devNow s)) legal))
    refine ⟨_, exec_of_reply h hw judged rfl (noLockout_takenUp hn), .trans ?_ ends, ?_⟩
    · exact settled_reply (a := conflict (takenUp r code s) _ _ _) rfl
    · simpa [reply, conflict, respond_responses, innerResponse, responses, hdev, htime, stConflict] using ends.mail.responses
  · exact leads_done (exec_of_serve h hw (serve_cold hd hp) hn) (.refl s)
  · exact serves_of_reply h hw (serve_early_smbus hd hp) rfl hn rfl
  · rcases hlate with ⟨hd, hp⟩ | ⟨hc, hb, hu, hp⟩
    · exact leads_defer h hw hn (serve_booting hd hp)
    · exact leads_defer h hw hn (serve_belfryDown hc hb hu hp)

end Sys2Proof.Machine
end

section
-- One proof after the other: a text of this length has more proofs waiting at once than the check has threads for.
set_option Elab.async false
/-! PROOFS. What a ready request comes to, by the answer of its command: served, refused, a conflict, or answered later; and the
general commands (R353). -/
namespace Sys2Proof.Machine

@[simp] theorem leBytes_length (n v : Nat) : (leBytes n v).length = n := by
  induction n generalizing v with
  | zero => rfl
  | succ n ih => rw [leBytes, List.length_cons, ih]

@[simp] theorem ok_st (s : State) (b : Bytes) : (ok s b).st = s := rfl
@[simp] theorem err_st (s : State) (st : BitVec 8) (d : Nat) : (err s st d).st = s := rfl
@[simp] theorem conflict_st (s : State) (u : BitVec 8) (d : Nat) (l : BitVec 32) : (conflict s u d l).st = s := rfl
@[simp] theorem later_st (s : State) : (later s).st = s := rfl

theorem reply_ok (r : Req) (code : BitVec 16) (legal : BitVec 32) (s : State) (b : Bytes) :
    reply r code legal (ok s b) = respond s r code stOk 0 0 legal b := by simp [reply, ok]

@[simp] theorem within_iff {lo hi v : Nat} : within lo hi v = true ↔ lo ≤ v ∧ v ≤ hi := by simp [within]

@[simp] theorem getCtx_settle (s : State) (c : Nat) : getCtx (settle s) c = getCtx s c := by simp [getCtx]

/-! ### From the command's answer to what the request comes to -/

/-- `c` is the mailbox command whose answer is `f`: it is served under its code and its set of states. -/
def RunsAs (c : Instr) (r : Req) (code : BitVec 16) (legal : BitVec 32) (f : State → Answer) (s : State) : Prop :=
  exec c s = done (serve code legal r c f s)

section
variable {c : Instr} {r : Req} {code : BitVec 16} {legal : BitVec 32} {f : State → Answer} {s : State} {a : Answer}

/-- A command that ends with the lockouts ends as any other where no context is near its bound. -/
theorem runsAs_of_mem (he : exec c s = doneMem (serve code legal r c f s)) (h : Ready code legal r s)
    (hn : NoLockout (reply r code legal (f (takenUp r code s)))) : RunsAs c r code legal f s := by
  rw [RunsAs, he, doneMem_eq]
  rwa [serve_ready h]

/-- The next state of a ready request, by its command's answer. -/
theorem exec_ready (he : RunsAs c r code legal f s) (h : Ready code legal r s) (ha : f (takenUp r code s) = a) :
    exec c s = .next (settle (reply r code legal a)) := by
  rw [he, serve_ready h, ha]
  rfl

/-- A command that answers at once is served with the status and the body of its answer. -/
theorem serves_of_answer {s' : State} (he : RunsAs c r code legal f s) (h : Ready code legal r s)
    (ha : f (takenUp r code s) = a) (hl : a.later = false) (hs : Settled s' a.st)
    (hr : a.st.mail.responses = s.mail.responses) : Serves c s s' r code a.status a.body :=
  ⟨_, exec_ready he h ha, (hs.trans (settled_reply hl)).trans (settle_settled _), answers_reply hl hr⟩

/-- The response of an answer given at once stands first in the record. -/
theorem reply_recorded (hl : a.later = false) (hr : a.st.mail.responses = s.mail.responses) :
    innerResponse a.st r code a.status a.conflict a.detail (a.legal.getD legal) a.body :: s.mail.responses <:+
      (settle (reply r code legal a)).mail.responses := by
  have recorded := (settle_settled (reply r code legal a)).mail.responses
  rw [reply, hl] at recorded
  simpa [respond_responses, hr, reply, hl] using recorded

/-- A command outside the configuration sessions is judged in the state in which it comes. -/
theorem answer_taken (hcode : ¬(0x0501 ≤ code.toNat ∧ code.toNat ≤ 0x0504)) (ha : f s = a) : f (takenUp r code s) = a := by
  rw [takenUp_eq hcode, ha]

theorem serves_ok {s' : State} {b : Bytes} (he : RunsAs c r code legal f s) (h : Ready code legal r s) (ha : f s = ok s' b)
    (hr : s'.mail.responses = s.mail.responses) (hcode : ¬(0x0501 ≤ code.toNat ∧ code.toNat ≤ 0x0504) := by decide) :
    Serves c s s' r code 0x00 b :=
  serves_of_answer (a := ok s' b) he h (answer_taken hcode ha) rfl (.refl _) hr

theorem serves_err {st : BitVec 8} {d : Nat} (he : RunsAs c r code legal f s) (h : Ready code legal r s)
    (ha : f s = err s st d)
    (hcode : ¬(0x0501 ≤ code.toNat ∧ code.toNat ≤ 0x0504) := by decide) : Serves c s s r code st [] :=
  serves_of_answer (a := err s st d) he h (answer_taken hcode ha) rfl (.refl _) rfl

theorem refuses_err {st : BitVec 8} {d : Nat} (he : RunsAs c r code legal f s) (h : Ready code legal r s)
    (ha : f s = err s st d)
    (hcode : ¬(0x0501 ≤ code.toNat ∧ code.toNat ≤ 0x0504) := by decide) : Refuses c s r code st d := by
  refine ⟨_, exec_ready he h (answer_taken hcode ha), (settled_reply (a := err s st d) rfl).trans (settle_settled _), _,
    reply_recorded rfl rfl, rfl, rfl, rfl, rfl, rfl, rfl, rfl, rfl⟩

theorem conflicts_of {u : BitVec 8} {d : Nat} {l : BitVec 32} (he : RunsAs c r code legal f s) (h : Ready code legal r s)
    (ha : f s = conflict s u d l)
    (hcode : ¬(0x0501 ≤ code.toNat ∧ code.toNat ≤ 0x0504) := by decide) :
    Conflicts c s r code u (BitVec.ofNat 16 d) l := by
  refine ⟨_, exec_ready he h (answer_taken hcode ha), (settled_reply (a := conflict s u d l) rfl).trans (settle_settled _), _,
    reply_recorded rfl rfl, rfl, rfl, rfl, rfl, rfl, rfl, rfl, rfl, rfl⟩

theorem exec_later {s' : State} (he : RunsAs c r code legal f s) (h : Ready code legal r s) (ha : f s = later s')
    (hcode : ¬(0x0501 ≤ code.toNat ∧ code.toNat ≤ 0x0504) := by decide) :
    exec c s = .next (settle s') :=
  exec_ready (a := later s') he h (answer_taken hcode ha)

end

/-! ### The end of a step where nothing waits -/

/-- Where nothing waits for an answer, a step ends with the device state shown. -/
theorem settle_nothingWaits {s : State} (h : NothingWaits s) : settle s = refreshDev s := by
  obtain ⟨hw, hd, ha⟩ := h
  have activate : serveActivate s = s := by simp [serveActivate, ha]
  have drain : finishDrain s = s := by simp [finishDrain, hd]
  have waiters : (refreshDev s).mail.waiters = [] := by
    unfold refreshDev postNotice
    dsimp only
    split
    · exact hw
    · split <;> exact hw
  rw [settle, activate, drain, serveWaiters, waiters]
  exact ite_self _

/-- Showing the device state leaves the mailboxes' buffers alone. -/
theorem refreshDev_boxes (s : State) : (refreshDev s).mail.boxes = s.mail.boxes := by
  unfold refreshDev postNotice
  dsimp only
  split
  · rfl
  · split <;> rfl

@[simp] theorem getBox_refreshDev (s : State) (m : Nat) : getBox (refreshDev s) m = getBox s m := by
  rw [getBox, refreshDev_boxes, getBox]

theorem refreshDev_of_shown {s : State} (h : ShownStateHolds s) : refreshDev s = s := by
  unfold refreshDev
  dsimp only
  rw [if_pos h.symm]

/-- A response is written to its buffer over PCIe, and its vector is raised when asked for (R338). -/
theorem respond_pcie_box {s : State} {r : Req} (hp : r.path = .pcie) (cmd : BitVec 16) (st cf : BitVec 8) (d : BitVec 16)
    (l : BitVec 32) (b : Bytes) :
    getBox (respond s r cmd st cf d l b) r.mbx.val = { getBox s r.mbx.val with
      owner := .done, resp := memWrite [] 0 (encodeResponse (innerResponse s r cmd st cf d l b)) } := by
  have written : ∀ (t : State) (x : MailBox), getBox (setBox t r.mbx.val x) r.mbx.val = x := fun t x => by
    simp [getBox, setBox, Vector.getD, r.mbx.isLt]
  unfold respond
  rw [hp]
  dsimp only
  split <;> (refine .trans (written _ _) ?_; simp [innerResponse, hp, getBox])

theorem respond_pcie_msix {s : State} {r : Req} (hp : r.path = .pcie) (hi : r.irq = true) (cmd : BitVec 16) (st cf : BitVec 8)
    (d : BitVec 16) (l : BitVec 32) (b : Bytes) : .msix r.mbx.val ∈ (respond s r cmd st cf d l b).outbox := by
  simp [respond, hp, hi, emit]

/-! ### PING, GET_INFO -/

/-- R353: what PING answers. -/
theorem ansPing_inRange {d : BitVec 32} (h : 1 ≤ d.toNat ∧ d.toNat ≤ 1000000) (s : State) :
    ansPing d s = ok s (leBytes 8 s.time.now.toNat ++ leBytes 8 (uptimeMs s)) := if_pos (within_iff.mpr h)

theorem ansPing_outOfRange {d : BitVec 32} (h : ¬(1 ≤ d.toNat ∧ d.toNat ≤ 1000000)) (s : State) :
    ansPing d s = err s stBadArg 0 := if_neg (mt within_iff.mp h)

theorem serves_ping {r : Req} {s : State} (h : Ready 0x0001 setAny r s) (d : BitVec 32) :
    Serves (.ping r d) s s r 0x0001 (if 1 ≤ d.toNat ∧ d.toNat ≤ 1000000 then 0x00 else 0x03)
      (if 1 ≤ d.toNat ∧ d.toNat ≤ 1000000 then leBytes 8 s.time.now.toNat ++ leBytes 8 (uptimeMs s) else []) := by
  split
  case isTrue hd => exact serves_ok rfl h (ansPing_inRange hd s) rfl
  case isFalse hd => exact serves_err rfl h (ansPing_outOfRange hd s)

theorem nothingWaits_respond {s : State} (h : NothingWaits s) {r : Req} (hp : r.path = .pcie) (cmd : BitVec 16) (st cf : BitVec 8)
    (d : BitVec 16) (l : BitVec 32) (b : Bytes) : NothingWaits (respond s r cmd st cf d l b) := by
  unfold respond
  rw [hp]
  dsimp only
  split <;> exact h

/-- R338, R341: the response of PING in the buffer of its mailbox. -/
theorem ping_responseBuffer {r : Req} {d : BitVec 32} {s : State} (h : Ready 0x0001 setAny r s) (hn : NothingWaits s)
    (hp : r.path = .pcie) (hd : 1 ≤ d.toNat ∧ d.toNat ≤ 1000000) :
    ∃ t, exec (.ping r d) s = .next t ∧ (getBox t r.mbx.val).owner = .done ∧
      memRead (getBox t r.mbx.val).resp 0 48 =
        leBytes 2 r.seq.toNat ++ leBytes 2 0x0001 ++ [0x00, BitVec.ofNat 8 (devCode (devNow s)), 0x00, 0x00] ++ leBytes 2 16 ++
          leBytes 2 0 ++ leBytes 4 setAny.toNat ++ leBytes 8 s.time.now.toNat ++ leBytes 8 0 ++
          leBytes 8 s.time.now.toNat ++ leBytes 8 (uptimeMs s) ∧
      (r.irq = true → .msix r.mbx.val ∈ t.outbox) := by
  obtain ⟨u, hu⟩ : ∃ u, u = respond s r 0x0001 stOk 0 0 setAny (leBytes 8 s.time.now.toNat ++ leBytes 8 (uptimeMs s)) := ⟨_, rfl⟩
  have run : exec (.ping r d) s = .next (settle u) := by
    rw [hu, ← reply_ok]
    exact exec_ready (f := ansPing d) rfl h (answer_taken (by decide) (ansPing_inRange hd s))
  have waits : NothingWaits u := by
    rw [hu]
    exact nothingWaits_respond hn hp _ _ _ _ _ _
  have box : getBox (settle u) r.mbx.val = { getBox s r.mbx.val with
      owner := .done, resp := memWrite [] 0 (encodeResponse (innerResponse s r 0x0001 stOk 0 0 setAny
        (leBytes 8 s.time.now.toNat ++ leBytes 8 (uptimeMs s)))) } := by
    rw [settle_nothingWaits waits, getBox_refreshDev, hu, respond_pcie_box hp]
  refine ⟨settle u, run, ?_, ?_, fun hi => ?_⟩
  · rw [box]
  · have read : memRead (getBox (settle u) r.mbx.val).resp 0 48 = encodeResponse (innerResponse s r 0x0001 stOk 0 0 setAny
        (leBytes 8 s.time.now.toNat ++ leBytes 8 (uptimeMs s))) := by
      rw [box]
      have length : 48 = (encodeResponse (innerResponse s r 0x0001 stOk 0 0 setAny
          (leBytes 8 s.time.now.toNat ++ leBytes 8 (uptimeMs s)))).length := by simp [encodeResponse, innerResponse]
      simp only [length]
      exact memRead_write rfl _ _
    rw [read]
    simp [encodeResponse, innerResponse, stOk]
  · exact (settle_settled u).out.outbox.subset (by rw [hu]; exact respond_pcie_msix hp hi _ _ _ _ _ _)

/-! ### GET_INFO -/

section
variable {r : Req} {s : State} {sel core : BitVec 8}

theorem ansGetInfo_identity (h : sel = 0) : ansGetInfo sel core s = ok s (leBytes 4 (hubOptions s.opt).toNat ++ identityDigest ++
    leBytes 4 s.fab.addr.toNat ++ [s.hub.profile.setWidth 8] ++ leBytes 4 Config.enterprise.toNat) := by rw [h]; rfl

theorem ansGetInfo_core (h : sel = 1) : ansGetInfo sel core s =
    if 128 ≤ core.toNat then err s stBadArg 0
    else if inService s core.toNat then ok s (capability s core.toNat) else err s stFenced 0 := by rw [h]; rfl

theorem ansGetInfo_images (h : sel = 2) : ansGetInfo sel core s =
    ok s (s.mail.images.toList.flatMap fun i => leBytes 4 i.version.toNat ++ leBytes 4 i.stagedVer.toNat ++ [i.phase]) := by
  rw [h]; rfl

theorem ansGetInfo_outOfRange (h : 3 ≤ sel.toNat) : ansGetInfo sel core s = err s stBadArg 0 := by
  unfold ansGetInfo
  split
  case h_4 => rfl
  all_goals omega

/-- R353: what GET_INFO answers, by its selector. -/
theorem serves_getInfo (h : Ready 0x0002 setAny r s) :
    (sel = 0 → Serves (.getInfo r sel core) s s r 0x0002 0x00
      (leBytes 4 (hubOptions s.opt).toNat ++ identityDigest ++ leBytes 4 s.fab.addr.toNat ++ [s.hub.profile.setWidth 8] ++
        leBytes 4 Config.enterprise.toNat)) ∧
    (sel = 1 → core.toNat < 128 → inService s core.toNat = true →
      Serves (.getInfo r sel core) s s r 0x0002 0x00 (capability s core.toNat)) ∧
    (sel = 1 → core.toNat < 128 → inService s core.toNat = false → Serves (.getInfo r sel core) s s r 0x0002 0x08 []) ∧
    (sel = 1 → 128 ≤ core.toNat → Serves (.getInfo r sel core) s s r 0x0002 0x03 []) ∧
    (sel = 2 → Serves (.getInfo r sel core) s s r 0x0002 0x00
      (s.mail.images.toList.flatMap fun i => leBytes 4 i.version.toNat ++ leBytes 4 i.stagedVer.toNat ++ [i.phase])) ∧
    (3 ≤ sel.toNat → Serves (.getInfo r sel core) s s r 0x0002 0x03 []) := by
  have run : RunsAs (.getInfo r sel core) r 0x0002 setAny (ansGetInfo sel core) s := rfl
  refine ⟨fun hs => serves_ok run h (ansGetInfo_identity hs) rfl, fun hs hc hi => serves_ok run h ?_ rfl,
    fun hs hc hi => serves_err (d := 0) run h ?_, fun hs hc => serves_err (d := 0) run h ?_,
    fun hs => serves_ok run h (ansGetInfo_images hs) rfl, fun hs => serves_err run h (ansGetInfo_outOfRange hs)⟩
  · rw [ansGetInfo_core hs, if_neg (by omega), if_pos hi]
  · rw [ansGetInfo_core hs, if_neg (by omega), if_neg (by simp [hi])]
    rfl
  · rw [ansGetInfo_core hs, if_pos hc]
    rfl

end

/-! ### NOTICE_GET -/

/-- The request that NOTICE_GET leaves waiting. -/
def noticeWait (r : Req) (max : BitVec 8) (us : BitVec 32) (s : State) : Waiter :=
  { req := r, max := max, till := s.time.now + BitVec.ofNat 64 (us.toNat * ticksPerUs), tenant := none }

theorem settled_handed (s : State) (r : Req) : Settled s (handed s r) := by
  unfold handed
  split
  · exact settled_setBox _ _ _
  · exact .refl s

@[simp] theorem handed_hub (s : State) (r : Req) : (handed s r).hub = s.hub := by
  unfold handed
  split <;> rfl

@[simp] theorem handed_mail_queues (s : State) (r : Req) :
    (handed s r).mail.hostQ = s.mail.hostQ ∧ (handed s r).mail.waiters = s.mail.waiters ∧
      (handed s r).mail.responses = s.mail.responses := by
  unfold handed
  split <;> exact ⟨rfl, rfl, rfl⟩

theorem ansNoticeGet_waits {max : BitVec 8} {us : BitVec 32} (hm : 1 ≤ max.toNat ∧ max.toNat ≤ 60) (hu : us.toNat ≤ 1000000)
    (r : Req) (s : State) : ansNoticeGet r max us s =
      later (modMail (handed s r) fun m => { m with waiters := m.waiters ++ [noticeWait r max us s] }) := by
  simp [ansNoticeGet, within, hm, hu, noticeWait]

/-- R353: what one waiting NOTICE_GET of the host comes to at the end of a step. -/
theorem serveWaiters_one {s : State} {w : Waiter} (hup : belfryUp s = true) (hw : s.mail.waiters = [w]) (hp : w.req.path = .pcie)
    (hm : w.req.mbx.val < 16) (ht : w.tenant = none) :
    serveWaiters s = if !s.mail.hostQ.entries.isEmpty || !laterThan w.till s.time.now then
      respond (modMail s fun m => { m with waiters := [], hostQ := (takeNotices s.mail.hostQ w.max.toNat).2 }) w.req 0x0003 0 0 0 setAny
        (takeNotices s.mail.hostQ w.max.toNat).1
    else s := by
  have queue : waiterQueue s w = s.mail.hostQ := by simp [waiterQueue, hp, hm]
  rw [serveWaiters, hup, hw]
  simp only [Bool.not_true, Bool.false_eq_true, if_false, List.foldl_cons, List.foldl_nil, queue, ht]
  congr 2
  simp [setWaiterQueue, modMail, hp, hm, hw]

/-- A time that lies ahead by less than 2^63 ticks is later (R34). -/
theorem laterThan_add {t : BitVec 64} {n : Nat} (h0 : 0 < n) (h : n < 2 ^ 63) : laterThan (t + BitVec.ofNat 64 n) t = true := by
  have ahead : (t + BitVec.ofNat 64 n - t).toNat = n := by
    rw [BitVec.add_comm, BitVec.add_sub_cancel, BitVec.toNat_ofNat]
    omega
  have differ : t + BitVec.ofNat 64 n ≠ t := fun e => by
    rw [e, BitVec.sub_self] at ahead
    simp at ahead
    omega
  simp only [laterThan, ahead, h, decide_true, Bool.and_true, bne_iff_ne]
  exact differ

section
variable {r : Req} {max : BitVec 8} {us : BitVec 32} {s : State}

/-- NOTICE_GET at the end of its step, where nothing else waits: what its own wait comes to. -/
theorem exec_noticeGet (h : Ready 0x0003 setAny r s) (hn : NothingWaits s) (hm : r.mbx.val < 16)
    (hd : ShownStateHolds s) (hmax : 1 ≤ max.toNat ∧ max.toNat ≤ 60) (hus : us.toNat ≤ 1000000) :
    ∃ u, Settled s u ∧ u.mail.hostQ = s.mail.hostQ ∧ u.mail.responses = s.mail.responses ∧
      u.mail.waiters = [noticeWait r max us s] ∧ exec (.noticeGet r max us) s = .next (serveWaiters u) ∧ belfryUp u = true := by
  let u := modMail (handed s r) fun m => { m with waiters := m.waiters ++ [noticeWait r max us s] }
  obtain ⟨hw, hdrain, hact⟩ := hn
  obtain ⟨hostQ, waiters, responses⟩ := handed_mail_queues s r
  have hub : u.hub = s.hub := handed_hub s r
  have kept : Settled s u := (settled_handed s r).trans (settled_mail _ _ (by constructor <;> rfl))
  have up : belfryUp s = true := by
    obtain ⟨⟨-, -, -, hup⟩, -, -⟩ := h
    rwa [if_neg (by omega)] at hup
  have shown : refreshDev u = u := refreshDev_of_shown (shownStateHolds_congr hub kept.out.slots kept.out.fab hd)
  have ends : settle u = serveWaiters u := by
    rw [settle, serveActivate, hub, hact, finishDrain, hub, hdrain, shown]
  refine ⟨u, kept, hostQ, responses, by simp [u, hw], ?_, by rw [belfryUp, hub]; exact up⟩
  rw [← ends]
  exact exec_later rfl h (ansNoticeGet_waits hmax hus r s)

theorem takeNotices_fst (q : NoticeQ) (n : Nat) : (takeNotices q n).1 =
    [BitVec.ofNat 8 (min n q.entries.length)] ++ leBytes 4 q.lost.toNat ++ (q.entries.take n).flatMap encodeNotice := by
  simp [takeNotices]

/-- What a response answers. -/
theorem answers_respond {s u : State} {q : Req} (cmd : BitVec 16) (st cf : BitVec 8) (d : BitVec 16) (l : BitVec 32) {b : Bytes}
    (hr : u.mail.responses = s.mail.responses) : Answers s (respond u q cmd st cf d l b) q cmd st b :=
  ⟨innerResponse u q cmd st cf d l b, by rw [respond_responses, hr], rfl, rfl, rfl, rfl, rfl, rfl⟩

/-- A response leaves the queues of notices alone, and who waits. -/
theorem respond_queues (s : State) (q : Req) (cmd : BitVec 16) (st cf : BitVec 8) (d : BitVec 16) (l : BitVec 32) (b : Bytes) :
    (respond s q cmd st cf d l b).mail.hostQ = s.mail.hostQ ∧ (respond s q cmd st cf d l b).mail.waiters = s.mail.waiters := by
  unfold respond
  dsimp only
  split
  · exact ⟨rfl, rfl⟩
  · exact ⟨rfl, rfl⟩
  · split <;> exact ⟨rfl, rfl⟩

theorem noticeGet_withEntries (h : Ready 0x0003 setAny r s) (hn : NothingWaits s) (hp : r.path = .pcie) (hm : r.mbx.val < 16)
    (hd : ShownStateHolds s) (hmax : 1 ≤ max.toNat ∧ max.toNat ≤ 60) (hus : us.toNat ≤ 1000000)
    (hq : s.mail.hostQ.entries ≠ []) : ∃ t, exec (.noticeGet r max us) s = .next t ∧ Settled s t ∧
      Answers s t r 0x0003 0x00 ([BitVec.ofNat 8 (min max.toNat s.mail.hostQ.entries.length)] ++ leBytes 4 s.mail.hostQ.lost.toNat ++
        (s.mail.hostQ.entries.take max.toNat).flatMap encodeNotice) ∧
      t.mail.hostQ.entries = s.mail.hostQ.entries.drop max.toNat := by
  obtain ⟨u, kept, queue, responses, waiters, run, up⟩ := exec_noticeGet h hn hm hd hmax hus
  have served := serveWaiters_one up waiters hp hm rfl
  rw [queue, if_pos (by simp [hq])] at served
  refine ⟨_, run, kept.trans (settled_serveWaiters u), ?_, ?_⟩
  · rw [served, ← takeNotices_fst]
    exact answers_respond _ _ _ _ _ responses
  · rw [served, (respond_queues _ _ _ _ _ _ _ _).1]
    rfl

theorem noticeGet_waits (h : Ready 0x0003 setAny r s) (hn : NothingWaits s) (hp : r.path = .pcie) (hm : r.mbx.val < 16)
    (hd : ShownStateHolds s) (hmax : 1 ≤ max.toNat ∧ max.toNat ≤ 60) (hus : us.toNat ≤ 1000000)
    (hq : s.mail.hostQ.entries = []) (h1 : 1 ≤ us.toNat) : ∃ t, exec (.noticeGet r max us) s = .next t ∧ Settled s t ∧
      t.mail.responses = s.mail.responses ∧ ∃ w, t.mail.waiters = [w] ∧ w.req = r ∧ w.max = max ∧
        w.till = s.time.now + BitVec.ofNat 64 (us.toNat * ticksPerUs) := by
  obtain ⟨u, kept, queue, responses, waiters, run, up⟩ := exec_noticeGet h hn hm hd hmax hus
  have ahead : laterThan (noticeWait r max us s).till u.time.now = true := by
    rw [kept.out.time]
    exact laterThan_add (by simp only [ticksPerUs]; omega) (by simp only [ticksPerUs]; omega)
  have served := serveWaiters_one up waiters hp hm rfl
  rw [queue, if_neg (by simp [hq, ahead])] at served
  exact ⟨u, served ▸ run, kept, responses, _, waiters, rfl, rfl, rfl⟩

end

/-- Settles O7: the buffer of PING, the answers of PING and GET_INFO, and the one wait of NOTICE_GET. -/
theorem generalCommandsAnswer : Obligations.GeneralCommandsAnswer :=
  ⟨fun _ _ _ h hn hp h1 h2 => ping_responseBuffer h hn hp ⟨h1, h2⟩,
   fun _ d _ _ _ => ⟨fun h => serves_ping h d, fun h => serves_getInfo h⟩,
   fun _ _ _ _ h hn hp hm hd h1 h60 hus =>
    ⟨fun hq => noticeGet_withEntries h hn hp hm hd ⟨h1, h60⟩ hus hq, fun hq h1' => noticeGet_waits h hn hp hm hd ⟨h1, h60⟩ hus hq h1'⟩⟩

end Sys2Proof.Machine
end

section
-- One proof after the other: a text of this length has more proofs waiting at once than the check has threads for.
set_option Elab.async false
/-! PROOFS. Frames: what the shared operations leave alone. A frame names the parts of the state that an operation may change; every
other part stays. Frames compose, so that the frame of an operation follows from those of what it calls. -/
namespace Sys2Proof.Machine

/-! ### Parts and frames -/

/-- The parts of the state that frames speak of: its fields, and some of what stands in them. -/
inductive Part where
  | opt | pins | hub | time | latches | ticks | slots | lcores | mem | ctxs | fab | mail | sec | pwr | diag | outbox | free | pending
  /-- The data of module memory, the Page Map, and the engines and ports of the fabric. -/
  | cells | pmap | engines | ports
  /-- What has been answered stays answered, what has left the module stays sent, and the mailboxes stay but for answers and notices. -/
  | told | sent | mailKept
  /-- The security core but for its counts of tag failures. -/
  | secKept
  deriving DecidableEq

/-- A part is the same in two states, or, of what only grows, goes on. -/
def Part.Same : Part → State → State → Prop
  | .opt, s, t => t.opt = s.opt
  | .pins, s, t => t.pins = s.pins
  | .hub, s, t => t.hub = s.hub
  | .time, s, t => t.time = s.time
  | .latches, s, t => t.latches = s.latches
  | .ticks, s, t => t.ticks = s.ticks
  | .slots, s, t => t.slots = s.slots
  | .lcores, s, t => t.lcores = s.lcores
  | .mem, s, t => t.mem = s.mem
  | .ctxs, s, t => t.ctxs = s.ctxs
  | .fab, s, t => t.fab = s.fab
  | .mail, s, t => t.mail = s.mail
  | .sec, s, t => t.sec = s.sec
  | .pwr, s, t => t.pwr = s.pwr
  | .diag, s, t => t.diag = s.diag
  | .outbox, s, t => t.outbox = s.outbox
  | .free, s, t => t.free = s.free
  | .pending, s, t => t.pending = s.pending
  | .cells, s, t => t.mem.cells = s.mem.cells
  | .pmap, s, t => t.mem.pmap = s.mem.pmap
  | .engines, s, t => t.fab.engines = s.fab.engines
  | .ports, s, t => t.fab.ports = s.fab.ports
  | .told, s, t => s.mail.responses <:+ t.mail.responses
  | .sent, s, t => s.outbox <:+ t.outbox
  | .mailKept, s, t => MailKept s.mail t.mail
  | .secKept, s, t => t.sec = { s.sec with tagFail := t.sec.tagFail }

theorem Part.Same.refl (p : Part) (s : State) : p.Same s s := by
  cases p <;> first | exact rfl | exact List.suffix_rfl | exact MailKept.refl _

theorem secKept_of_eq {s t : State} (h : t.sec = s.sec) : t.sec = { s.sec with tagFail := t.sec.tagFail } := by rw [h]

theorem secKept_trans {s t u : State} (h : t.sec = { s.sec with tagFail := t.sec.tagFail })
    (k : u.sec = { t.sec with tagFail := u.sec.tagFail }) : u.sec = { s.sec with tagFail := u.sec.tagFail } := by
  rw [k, h]

theorem Part.Same.trans {p : Part} {s t u : State} (h : p.Same s t) (k : p.Same t u) : p.Same s u := by
  cases p <;> first | exact Eq.trans k h | exact List.IsSuffix.trans h k | exact MailKept.trans h k | exact secKept_trans h k

/-- Between two states every part stays but those of `l`. -/
def AllBut (l : List Part) (s t : State) : Prop := ∀ p, p ∉ l → p.Same s t

section
variable {l m : List Part} {s t u : State}

theorem AllBut.refl (l : List Part) (s : State) : AllBut l s s := fun p _ => .refl p s

theorem AllBut.trans (h : AllBut l s t) (k : AllBut l t u) : AllBut l s u := fun p hp => (h p hp).trans (k p hp)

/-- A frame that lets more change follows. -/
theorem AllBut.mono (h : AllBut l s t) (hl : ∀ p ∈ l, p ∈ m := by decide) : AllBut m s t := fun p hp => h p (mt (hl p) hp)

theorem AllBut.foldl {α : Type} {f : State → α → State} (h : ∀ s a, AllBut l s (f s a)) (as : List α) (s : State) :
    AllBut l s (as.foldl f s) := by
  induction as generalizing s with
  | nil => exact .refl l s
  | cons a as ih => exact (h s a).trans (ih (f s a))

theorem AllBut.ite {c : Prop} [Decidable c] (h : c → AllBut l s t) (k : ¬c → AllBut l s u) : AllBut l s (if c then t else u) := by
  split
  · exact h ‹_›
  · exact k ‹_›

end

/-! ### Frames of the updates of one part -/

section
variable (s : State)

theorem frame_modHub (f : Hub → Hub) : AllBut [.hub] s (modHub s f) := fun p hp => by
  cases p <;> first | exact absurd (by decide) hp | exact rfl | exact List.suffix_rfl | exact MailKept.refl _
theorem frame_modTime (f : TimeBlock → TimeBlock) : AllBut [.time] s (modTime s f) := fun p hp => by
  cases p <;> first | exact absurd (by decide) hp | exact rfl | exact List.suffix_rfl | exact MailKept.refl _
theorem frame_modFab (f : Fabric → Fabric) : AllBut [.fab, .engines, .ports] s (modFab s f) := fun p hp => by
  cases p <;> first | exact absurd (by decide) hp | exact rfl | exact List.suffix_rfl | exact MailKept.refl _
theorem frame_modMail (f : Mail → Mail) : AllBut [.mail, .told, .mailKept] s (modMail s f) := fun p hp => by
  cases p <;> first | exact absurd (by decide) hp | exact rfl | exact List.suffix_rfl
theorem frame_modDiag (f : Diag → Diag) : AllBut [.diag] s (modDiag s f) := fun p hp => by
  cases p <;> first | exact absurd (by decide) hp | exact rfl | exact List.suffix_rfl | exact MailKept.refl _
theorem frame_modMem (f : Mem → Mem) : AllBut [.mem, .cells, .pmap] s (modMem s f) := fun p hp => by
  cases p <;> first | exact absurd (by decide) hp | exact rfl | exact List.suffix_rfl | exact MailKept.refl _
theorem frame_modPwr (f : Power → Power) : AllBut [.pwr] s (modPwr s f) := fun p hp => by
  cases p <;> first | exact absurd (by decide) hp | exact rfl | exact List.suffix_rfl | exact MailKept.refl _
theorem frame_modSecCore (f : Sec → Sec) : AllBut [.sec, .secKept] s (modSecCore s f) := fun p hp => by
  cases p <;> first | exact absurd (by decide) hp | exact rfl | exact List.suffix_rfl | exact MailKept.refl _
theorem frame_setP (p : Nat) (c : PCore) : AllBut [.slots] s (setP s p c) := fun q hq => by
  cases q <;> first | exact absurd (by decide) hq | exact rfl | exact List.suffix_rfl | exact MailKept.refl _
theorem frame_modC (n : Nat) (f : PCore → PCore) : AllBut [.slots] s (modC s n f) := frame_setP s _ _
theorem frame_setC (n : Nat) (c : PCore) : AllBut [.slots] s (setC s n c) := frame_setP s _ _
theorem frame_setL (n : Nat) (x : LCore) : AllBut [.lcores] s (setL s n x) := fun q hq => by
  cases q <;> first | exact absurd (by decide) hq | exact rfl | exact List.suffix_rfl | exact MailKept.refl _
theorem frame_modCtx (c : Nat) (f : Context → Context) : AllBut [.ctxs] s (modCtx s c f) := fun q hq => by
  cases q <;> first | exact absurd (by decide) hq | exact rfl | exact List.suffix_rfl | exact MailKept.refl _
theorem frame_modLed (c : Nat) (f : Ledger → Ledger) : AllBut [.ctxs] s (modLed s c f) := frame_modCtx s c _
theorem frame_modPeal (c : Nat) (f : Peal → Peal) : AllBut [.ctxs] s (modPeal s c f) := frame_modCtx s c _
theorem frame_modSec (c : Nat) (f : CtxSec → CtxSec) : AllBut [.ctxs] s (modSec s c f) := frame_modCtx s c _
theorem frame_setPort (p : Nat) (b : PortBlock) : AllBut [.fab, .ports] s (setPort s p b) := fun q hq => by
  cases q <;> first | exact absurd (by decide) hq | exact rfl | exact List.suffix_rfl | exact MailKept.refl _
theorem frame_modPort (p : Nat) (f : PortBlock → PortBlock) : AllBut [.fab, .ports] s (modPort s p f) := frame_setPort s p _
theorem frame_setEngine (e : Nat) (x : Engine) : AllBut [.fab, .engines] s (setEngine s e x) := fun q hq => by
  cases q <;> first | exact absurd (by decide) hq | exact rfl | exact List.suffix_rfl | exact MailKept.refl _
theorem frame_modCtrl (i : Nat) (f : Ctrl → Ctrl) : AllBut [.mem] s (modCtrl s i f) := fun q hq => by
  cases q <;> first | exact absurd (by decide) hq | exact rfl | exact List.suffix_rfl | exact MailKept.refl _
theorem frame_setBucket (p cls : Nat) (b : Bucket) : AllBut [.mem] s (setBucket s p cls b) := fun q hq => by
  cases q <;> first | exact absurd (by decide) hq | exact rfl | exact List.suffix_rfl | exact MailKept.refl _
theorem frame_emit (o : Output) : AllBut [.outbox] s (emit s o) := fun q hq => by
  cases q <;> first | exact absurd (by decide) hq | exact rfl | exact List.suffix_rfl | exact MailKept.refl _ | exact List.suffix_cons _ _
theorem frame_free (n : Nat) : AllBut [.free] s { s with free := n } := fun q hq => by
  cases q <;> first | exact absurd (by decide) hq | exact rfl | exact List.suffix_rfl | exact MailKept.refl _
theorem frame_drawFree (w : Nat) : AllBut [.free] s (drawFree s w).2 := frame_free s _
theorem frame_setReplay (n k : Nat) (r : Option Replay) : AllBut [.lcores] s (setReplay s n k r) := frame_setL s n _
theorem frame_runningAt (e n : Nat) (p : Program) : AllBut [.fab, .engines] s (setRunning s e n p) := frame_setEngine s e _

/-- What leaves the hub, and every part of the state but the mailboxes and what is sent, as it was. -/
theorem AllBut.of_settled {s t : State} (h : Settled s t) (hh : t.hub = s.hub) : AllBut [.mail, .outbox] s t := fun q hq => by
  have o := h.out
  cases q <;> first
    | exact absurd (by decide) hq
    | exact o.opt | exact o.pins | exact hh | exact o.time | exact o.latches | exact o.ticks | exact o.slots | exact o.lcores
    | exact o.mem | exact o.ctxs | exact o.fab | exact o.sec | exact o.pwr | exact o.diag | exact o.free | exact o.pending
    | exact congrArg _ o.mem | exact congrArg _ o.fab | exact h.mail.responses | exact o.outbox | exact h.mail
    | exact secKept_of_eq o.sec

theorem frame_postNotice (code : BitVec 16) (ctx : Option Nat) (b : Bytes) : AllBut [.mail, .outbox] s (postNotice s code ctx b) :=
  .of_settled (settled_postNotice s code ctx b) (postNotice_hub s code ctx b)
theorem frame_respond (q : Req) (cmd : BitVec 16) (st cf : BitVec 8) (d : BitVec 16) (l : BitVec 32) (b : Bytes) :
    AllBut [.mail, .outbox] s (respond s q cmd st cf d l b) :=
  .of_settled (settled_respond s q cmd st cf d l b) (respond_hub s q cmd st cf d l b)

end

/-! ### Frames of records and logs -/

section
variable (s : State)

theorem frame_takeAttrib (u : Nat) : AllBut [.diag] s (takeAttrib s u).1 := by
  unfold takeAttrib
  split
  · dsimp only
    exact frame_modDiag s _
  · exact .refl _ s
theorem frame_logError (code : BitVec 16) (sev flags : BitVec 8) (u : Nat) (ctx : Option Nat) (b : Bytes) :
    AllBut [.diag] s (logError s code sev flags u ctx b) := by
  unfold logError
  exact frame_modDiag s _
theorem frame_lifeAdds (l : List (Nat × Nat)) : AllBut [.diag] s (l.foldl (fun s p => lifeAdd s p.1 p.2) s) :=
  AllBut.foldl (fun s _ => frame_modDiag s _) l s
theorem frame_lifeAdd (off n : Nat) : AllBut [.diag] s (lifeAdd s off n) := frame_modDiag s _
theorem frame_evidence (k : BitVec 2) (n : Nat) : AllBut [.diag] s (evidence s k n) := frame_modDiag s _
theorem frame_recordEvent (cls ev : Nat) (sev : BitVec 8) (u : Nat) (ctx : Option Nat) (life : List (Nat × Nat))
    (evid : Option (BitVec 2 × Nat)) : AllBut [.diag] s (recordEvent s cls ev sev u ctx life evid) := by
  have logged := fun b c => (frame_takeAttrib s u).trans (frame_logError _ (BitVec.ofNat 16 (256 * cls) + (Config.logCode ev).setWidth 16) sev b u ctx c)
  unfold recordEvent
  dsimp only
  split
  · exact logged _ _
  · split
    · exact ((logged _ _).trans (frame_lifeAdds _ life)).trans (frame_evidence _ _ _)
    · exact (logged _ _).trans (frame_lifeAdds _ life)
theorem frame_tally (u : Nat) (life : List (Nat × Nat)) : AllBut [.diag] s (tally s u life) := by
  unfold tally
  dsimp only
  split
  · exact (frame_takeAttrib s u).trans (frame_logError _ _ _ _ _ _ _)
  · exact (frame_takeAttrib s u).trans (frame_lifeAdds _ life)
theorem frame_takeInjection (p : Injection → Bool) : AllBut [.diag] s (takeInjection s p).1 := by
  unfold takeInjection setInject
  split
  · dsimp only
    exact frame_modDiag s _
  · exact .refl _ s

end

/-! ### Frames of module memory (R205 to R216) -/

section
variable (s : State)

theorem frame_injectedErrs (pos j : Nat) : AllBut [.diag, .free] s (injectedErrs s pos j).1 := by
  unfold injectedErrs
  dsimp only
  split
  · exact (frame_takeInjection s _).mono
  · exact ((frame_takeInjection s _).mono).trans ((frame_free _ _).mono)

/-- R205: a read counts at its controller, may take an injection and draw what is open; the data of memory stay. -/
theorem frame_controllerRead (pos j : Nat) (key : Option Nat) (e1 e2 : SymErr) :
    AllBut [.mem, .diag, .free] s (controllerRead s pos j key e1 e2).1 := by
  have read := ((frame_injectedErrs s pos j).mono (m := [.mem, .diag, .free])).trans
    ((frame_free _ (if key.isSome then (injectedErrs s pos j).1.free + 256 else (injectedErrs s pos j).1.free)).mono)
  unfold controllerRead
  dsimp only
  split
  · exact read.trans ((frame_modCtrl _ _ _).mono)
  · exact (read.trans ((frame_modCtrl _ _ _).mono)).trans ((frame_tally _ _ _).mono)

theorem frame_countTag (c : Nat) : AllBut [.sec, .ctxs] s (countTag s c) := by
  have counted : ∀ v : Sec → Vector (BitVec 32) 4, AllBut [.sec] s (modSecCore s fun k => { k with tagFail := v k }) := fun v q hq => by
    cases q <;> first | exact absurd (by decide) hq | exact rfl | exact List.suffix_rfl | exact MailKept.refl _
  unfold countTag
  exact .trans (.mono (counted _)) (.mono (frame_modSec _ c _))

theorem frame_readLocal (c p pg off : Nat) (epoch : Bool) :
    AllBut [.mem, .diag, .free, .sec, .ctxs] s (readLocal s c p pg off epoch).1 := by
  unfold readLocal
  dsimp only
  split
  · exact ((frame_controllerRead s _ _ _ _ _).mono).trans ((frame_countTag _ c).mono)
  · exact (frame_controllerRead s _ _ _ _ _).mono

theorem frame_controllerWrite (pos j : Nat) (key : Option Nat) (k : Bool) (b : Block) :
    AllBut [.mem, .cells] s (controllerWrite s pos j key k b) := by
  have stored : AllBut [.mem, .cells] s (modMem s fun m => writeBlockAt m pos j key k b) := fun q hq => by
    cases q <;> first | exact absurd (by decide) hq | exact rfl | exact List.suffix_rfl | exact MailKept.refl _
  exact stored.trans ((frame_modCtrl _ _ _).mono)

theorem frame_setSeal (f : Mem → AMap Nat) : AllBut [.mem] s (modMem s fun m => { m with sealKey := f m }) := fun q hq => by
  cases q <;> first | exact absurd (by decide) hq | exact rfl | exact List.suffix_rfl | exact MailKept.refl _

theorem frame_copyBlock (src dst j : Nat) (e1 e2 : SymErr) :
    AllBut [.mem, .cells, .diag, .free] s (copyBlock s src dst j e1 e2) := by
  have copied := ((frame_controllerRead s src j none e1 e2).mono (m := [.mem, .cells, .diag, .free])).trans
    ((frame_controllerWrite _ dst j none true (controllerRead s src j none e1 e2).2.block).mono)
  unfold copyBlock
  dsimp only
  split
  · exact copied.trans (.mono (frame_setSeal _ _))
  · exact copied

theorem frame_copySlot (src dst sl : Nat) (e1 e2 : Nat → SymErr) :
    AllBut [.mem, .cells, .diag, .free] s (copySlot s src dst sl e1 e2) := by
  have blocks : AllBut [.mem, .cells, .diag, .free] s
      ((List.range 16).foldl (fun s i => copyBlock s src dst (16 * sl + i) (e1 i) (e2 i)) s) :=
    AllBut.foldl (fun s i => frame_copyBlock s src dst (16 * sl + i) (e1 i) (e2 i)) _ s
  have unit : ∀ (t : State) (f : Mem → AMap (BitVec 32)), AllBut [.mem, .cells, .diag, .free] t (modMem t fun m => { m with unit := f m }) :=
    fun t f q hq => by cases q <;> first | exact absurd (by decide) hq | exact rfl | exact List.suffix_rfl | exact MailKept.refl _
  unfold copySlot
  dsimp only
  exact .trans (.trans (.trans blocks (unit _ _)) (.mono (frame_modCtrl _ _ _))) (.mono (frame_modCtrl _ _ _))

theorem frame_awaitCopy (ch sl : Nat) : AllBut [.mem, .cells, .diag, .free] s (awaitCopy s ch sl) := by
  unfold awaitCopy
  split
  · split
    · exact frame_copySlot s _ _ _ _ _
    · exact .refl _ s
  · exact .refl _ s

theorem frame_writeLocal (c p pg off : Nat) (epoch k : Bool) (b : Block) :
    AllBut [.mem, .cells, .diag, .free] s (writeLocal s c p pg off epoch k b) := by
  unfold writeLocal
  exact .trans (frame_awaitCopy s _ _) (.mono (frame_controllerWrite _ _ _ _ k b))

end

/-- What a write of the Belfry or of an engine to module memory may change: memory, its counters, and the count of tag failures. -/
def memoryParts : List Part := [.mem, .cells, .diag, .free, .sec, .ctxs]

theorem frame_readVa {c : Nat} (fuel : Nat) : ∀ {s : State} {va : Nat} {r : State × Bytes}, readVa s c va fuel = some r →
    AllBut [.mem, .diag, .free, .sec, .ctxs] s r.1 := by
  induction fuel with
  | zero =>
    intro s va r h
    cases h
    exact .refl _ s
  | succ k ih =>
    intro s va r h
    unfold readVa at h
    split at h
    · dsimp only at h
      split at h
      · split at h
        · rename_i later
          cases h
          have rest := ih later
          exact .trans (frame_readLocal s c _ _ _ _) rest
        · cases h
      · cases h
    · cases h

theorem frame_readBytesVa {s : State} {c va n : Nat} {r : State × Bytes} (h : readBytesVa s c va n = some r) :
    AllBut [.mem, .diag, .free, .sec, .ctxs] s r.1 := by
  obtain ⟨q, hq, rfl⟩ := Option.map_eq_some_iff.mp h
  exact (frame_readVa _ hq :)

theorem frame_writePiece {s t : State} {c va : Nat} {d : Bytes} {force : Bool} (h : writePiece s c va d force = some t) :
    AllBut memoryParts s t := by
  unfold writePiece at h
  split at h
  · split at h
    · split at h
      · cases h
        exact (frame_writeLocal s c _ _ _ _ _ _).mono
      · rename_i p pg off e _ _ _ _
        dsimp only at h
        split at h
        · obtain rfl := Option.some.inj h
          have read := (frame_readLocal s c p pg off e).mono (m := memoryParts)
          exact read.trans ((frame_writeLocal _ c p pg off e false _).mono)
        · cases h
    · cases h
  · cases h

theorem frame_writeBytesVa {c : Nat} {force : Bool} (fuel : Nat) : ∀ {s t : State} {va : Nat} {d : Bytes},
    writeBytesVa s c va d force fuel = some t → AllBut memoryParts s t := by
  induction fuel with
  | zero =>
    intro s t va d h
    unfold writeBytesVa at h
    split at h <;> cases h
    exact .refl _ s
  | succ k ih =>
    intro s t va d h
    unfold writeBytesVa at h
    split at h
    · cases h
      exact .refl _ s
    · dsimp only at h
      split at h
      · rename_i piece
        exact (frame_writePiece piece).trans (ih h)
      · cases h

theorem frame_putVa {s t : State} {c va : Nat} {d : Bytes} {force : Bool} (h : putVa s c va d force = some t) :
    AllBut memoryParts s t := frame_writeBytesVa _ h

theorem frame_putForced (s : State) (c va : Nat) (d : Bytes) : AllBut memoryParts s (putForced s c va d) := by
  unfold putForced
  cases h : putVa s c va d true with
  | none => exact .refl _ s
  | some t => exact frame_putVa h

theorem frame_setRecState (s : State) (c : Nat) (va : BitVec 48) (v : Nat) : AllBut memoryParts s (setRecState s c va v) :=
  frame_putForced s c _ _

end Sys2Proof.Machine
end

section
-- One proof after the other: a text of this length has more proofs waiting at once than the check has threads for.
set_option Elab.async false
/-! PROOFS. Contexts, ports and engines: a read after a write, and frames of what the fabric, the cores and the ledger share. -/
namespace Sys2Proof.Machine

/-! ### Reading what has been written -/

theorem vector_getD_set_same {α : Type} {n : Nat} (v : Vector α n) {i : Nat} (h : i < n) (x d : α) :
    (v.setIfInBounds i x).getD i d = x := by simp [Vector.getD, h]

theorem vector_getD_set_other {α : Type} {n : Nat} (v : Vector α n) {i k : Nat} (h : k ≠ i) (x d : α) :
    (v.setIfInBounds i x).getD k d = v.getD k d := by
  simp only [Vector.getD]
  by_cases hk : k < n
  · simp [hk, h.symm]
  · simp [hk]

theorem vector_set_outOfBounds {α : Type} {n : Nat} (v : Vector α n) {i : Nat} (h : n ≤ i) (x : α) : v.setIfInBounds i x = v := by
  ext k hk
  rw [Vector.getElem_setIfInBounds, if_neg (by omega)]

section
variable (s : State)

theorem getCtx_congr {s t : State} (h : t.ctxs = s.ctxs) (c : Nat) : getCtx t c = getCtx s c := by rw [getCtx, h, getCtx]
theorem getPort_congr {s t : State} (h : t.fab.ports = s.fab.ports) (p : Nat) : getPort t p = getPort s p := by
  rw [getPort, h, getPort]
theorem getEngine_congr {s t : State} (h : t.fab.engines = s.fab.engines) (e : Nat) : getEngine t e = getEngine s e := by
  rw [getEngine, h, getEngine]
theorem getP_congr {s t : State} (h : t.slots = s.slots) (p : Nat) : getP t p = getP s p := by rw [getP, h, getP]
theorem getL_congr {s t : State} (h : t.lcores = s.lcores) (n : Nat) : getL t n = getL s n := by rw [getL, h, getL]
theorem physOf_congr {s t : State} (h : t.hub = s.hub) (n : Nat) : physOf t n = physOf s n := by rw [physOf, coreEntry, h, physOf, coreEntry]
theorem inService_congr {s t : State} (h : t.hub = s.hub) (n : Nat) : inService t n = inService s n := by
  rw [inService, coreEntry, h, inService, coreEntry]
theorem getC_congr {s t : State} (hh : t.hub = s.hub) (h : t.slots = s.slots) (n : Nat) : getC t n = getC s n := by
  rw [getC, physOf_congr hh, getP_congr h, getC]

theorem getCtx_setCtx_same {c : Nat} (h : c < 64) (x : Context) : getCtx (setCtx s c x) c = x := vector_getD_set_same _ h _ _
theorem getCtx_setCtx_other {c k : Nat} (h : k ≠ c) (x : Context) : getCtx (setCtx s c x) k = getCtx s k := vector_getD_set_other _ h _ _
theorem getCtx_modCtx_same {c : Nat} (h : c < 64) (f : Context → Context) : getCtx (modCtx s c f) c = f (getCtx s c) :=
  getCtx_setCtx_same s h _
theorem getCtx_modCtx_other {c k : Nat} (h : k ≠ c) (f : Context → Context) : getCtx (modCtx s c f) k = getCtx s k :=
  getCtx_setCtx_other s h _
/-- There are 64 contexts; a write of any other changes nothing. -/
theorem modCtx_outOfBounds {c : Nat} (h : 64 ≤ c) (f : Context → Context) : modCtx s c f = s := by
  rw [modCtx, setCtx, vector_set_outOfBounds _ h]

theorem getPort_setPort_same {p : Nat} (h : p < 36) (b : PortBlock) : getPort (setPort s p b) p = b := vector_getD_set_same _ h _ _
theorem getPort_setPort_other {p q : Nat} (h : q ≠ p) (b : PortBlock) : getPort (setPort s p b) q = getPort s q :=
  vector_getD_set_other _ h _ _
theorem getPort_modPort_same {p : Nat} (h : p < 36) (f : PortBlock → PortBlock) : getPort (modPort s p f) p = f (getPort s p) :=
  getPort_setPort_same s h _
theorem getPort_modPort_other {p q : Nat} (h : q ≠ p) (f : PortBlock → PortBlock) : getPort (modPort s p f) q = getPort s q :=
  getPort_setPort_other s h _

theorem getEngine_setEngine_same {e : Nat} (h : e < 4) (x : Engine) : getEngine (setEngine s e x) e = x := vector_getD_set_same _ h _ _
theorem getEngine_setEngine_other {e k : Nat} (h : k ≠ e) (x : Engine) : getEngine (setEngine s e x) k = getEngine s k :=
  vector_getD_set_other _ h _ _

end

/-! ### Frames of the fabric (R253 to R278) -/

section
variable (s : State)

theorem frame_sendOn (p : Nat) (k : Packet) : AllBut [.fab, .ports, .outbox] s (sendOn s p k) := by
  unfold sendOn
  dsimp only
  split
  · split
    · exact (frame_setPort s p _).mono
    · exact .trans (.trans (.mono (frame_setPort s p _)) (.mono (frame_emit _ _))) (.mono (frame_emit _ _))
  · exact (frame_emit s _).mono

/-- What sending changes: the ports, the counts of the fabric, and what leaves the module. -/
def fabricParts : List Part := [.fab, .ports, .outbox]

theorem frame_dropNoroute : AllBut fabricParts s (modFab s fun f => { f with dropNoroute := f.dropNoroute + 1 }) := fun q hq => by
  cases q <;> first | exact absurd (by decide) hq | exact rfl | exact List.suffix_rfl | exact MailKept.refl _

theorem frame_sealPacket {s : State} {c : Nat} {k : Packet} {r : State × Packet} (h : sealPacket s c k = some r) :
    AllBut [.ctxs] s r.1 := by
  unfold sealPacket at h
  dsimp only at h
  split at h
  · cases h
    exact .refl _ s
  · split at h
    · cases h
    · cases h
      dsimp only
      exact frame_modSec s c _

theorem frame_sendRouted (c : Nat) (k : Packet) : AllBut (.ctxs :: fabricParts) s (sendRouted s c k).1 := by
  unfold sendRouted
  cases h : sealPacket s c k with
  | none => exact .refl _ s
  | some r =>
    have taken := (frame_sealPacket h).mono (m := .ctxs :: fabricParts)
    dsimp only
    split <;> dsimp only
    · exact taken.trans (.mono (frame_sendOn _ _ _))
    · exact taken.trans (.mono (frame_sendOn _ _ _))
    · exact taken
    · exact taken.trans (.mono (frame_dropNoroute _))

theorem frame_sendCompl (k : Packet) (status : Nat) : AllBut fabricParts s (sendCompl s k status) := by
  unfold sendCompl
  dsimp only
  split
  · exact frame_sendOn _ _ _
  · exact frame_sendOn _ _ _
  · exact .refl _ s
  · exact frame_dropNoroute s

theorem frame_sendCtrl (p : Program) (c : Nat) (b : CollCtrl) : AllBut (.ctxs :: fabricParts) s (sendCtrl s p c b) :=
  frame_sendRouted s p.ctx _

theorem frame_sendCtrls (p : Program) (cs : List Nat) (b : CollCtrl) : AllBut (.ctxs :: fabricParts) s (sendCtrls s p cs b) :=
  AllBut.foldl (fun s c => frame_sendCtrl s p c b) cs s

theorem frame_resendBuf (p : Nat) : AllBut fabricParts s (resendBuf s p) := by
  unfold resendBuf
  refine .trans (.mono (frame_modPort s p _)) (AllBut.foldl (fun s q => ?_) _ _)
  dsimp only
  split
  · exact frame_sendOn _ _ _
  · exact .refl _ _

end

/-! ### Frames of the ledger (R292 to R306) -/

section
variable (s : State)

theorem frame_modTiming (c : Nat) (step : BitVec 48) (f : TimingRec → TimingRec) : AllBut [.ctxs] s (modTiming s c step f) :=
  frame_modLed s c _

theorem frame_showReason (c k : Nat) : AllBut [.ctxs] s (showReason s c k) := by
  unfold showReason
  split
  · exact frame_modLed s c _
  · exact .trans (frame_modLed s c _) (frame_modTiming _ c _ _)

theorem frame_slowStep (c : Nat) (step : BitVec 48) : AllBut [.diag] s (slowStep s c step) := by
  unfold slowStep
  dsimp only
  split
  · split
    · exact frame_evidence s _ _
    · exact .refl _ s
  · exact .refl _ s

theorem frame_castBit (c : Nat) (ready : Bool) (reason : Nat) : AllBut [.ctxs, .diag] s (castBit s c ready reason) := by
  unfold castBit
  dsimp only
  split
  · exact .refl _ s
  · have shown : ∀ f (k : Nat) step g, AllBut [.ctxs, .diag] s (modTiming (showReason (modLed s c f) c k) c step g) := fun f k step g =>
      .mono ((frame_modLed s c f).trans (.trans (frame_showReason _ c k) (frame_modTiming _ c step g)))
    split
    · exact .trans (shown _ _ _ _) (.mono (frame_slowStep _ c _))
    · split
      · exact .trans (shown _ _ _ _) (.mono (frame_evidence _ _ _))
      · exact shown _ _ _ _

theorem frame_andDone (e n : Nat) (p : Program) (i : CInstr) (v : Bool) :
    AllBut (.ctxs :: .engines :: fabricParts) s (andDone s e n p i v) := by
  unfold andDone
  split
  · exact (frame_runningAt s e n _).mono
  · exact .trans (.mono (frame_runningAt s e n _)) (.mono (frame_sendCtrl _ _ _ _))

theorem frame_atInstr {l : List Part} {e n op : Nat} {f : Program → CInstr → State}
    (h : ∀ p i, runningAt s e n = some p → AllBut l s (f p i)) : AllBut l s (atInstr s e n op f) := by
  unfold atInstr
  split
  · exact .refl _ s
  · rename_i p running
    split
    · split
      · exact h p _ running
      · exact .refl _ s
    · exact .refl _ s

theorem frame_sendVeto (c : Nat) : AllBut (.ctxs :: .engines :: .diag :: fabricParts) s (sendVeto s c) := by
  unfold sendVeto
  split
  · exact .refl _ s
  · refine .trans (.mono (frame_castBit s c false 7)) (frame_atInstr _ fun p i _ => ?_)
    exact (frame_andDone _ _ _ p i false).mono

end

/-! ### Frames of the cores (R124 to R127, R169, R381) -/

section
variable (s : State)

theorem frame_leaveGuest (r : Replay) : AllBut [.slots] s (leaveGuest s r) := by
  unfold leaveGuest
  split
  · exact frame_setP s _ _
  · exact .refl _ s

theorem frame_freeReplay (n k : Nat) : AllBut [.slots, .lcores] s (freeReplay s n k) := by
  have freed : ∀ (t : State) (f : PCore → PCore), AllBut [.slots, .lcores] s t → AllBut [.slots, .lcores] s
      (if slotsHeld (setReplay t n k none) n = 0 then modC (setReplay t n k none) n f else setReplay t n k none) := fun t f h => by
    have set := h.trans (.mono (frame_setReplay t n k none))
    split
    · exact set.trans (.mono (frame_modC _ n f))
    · exact set
  unfold freeReplay
  refine freed _ _ ?_
  split
  · exact (frame_leaveGuest s _).mono
  · exact .refl _ s

/-- Streams that stop change their core and its replay slots. -/
theorem frame_stopStreams (n : Nat) (fence : Bool) (dead : Stream → Bool) :
    AllBut [.slots, .lcores] s (stopStreams s n fence dead) := by
  unfold stopStreams
  refine .trans (.mono (frame_setC s n _)) (AllBut.foldl (fun s k => ?_) _ _)
  split
  · split
    · refine .trans ?_ (frame_freeReplay _ n k)
      split
      · exact (frame_modC _ n _).mono
      · exact .refl _ _
    · exact .refl _ _
  · exact .refl _ _

theorem frame_dropPrograms (dead : Program → Bool) : AllBut [.fab, .engines] s (dropPrograms s dead) := fun q hq => by
  cases q <;> first | exact absurd (by decide) hq | exact rfl | exact List.suffix_rfl | exact MailKept.refl _

end

/-! ### Frames of the abort and of the fence (R301, R381) -/

/-- What an abort of a step may change: cores, records in memory, the job of the context, notices and the lifetime record. -/
def abortParts : List Part := .slots :: .lcores :: .mail :: .outbox :: memoryParts

section
variable (s : State)

theorem frame_setVer (c i : Nat) (v : VerState × BitVec 48) : AllBut [.ctxs] s (setVer s c i v) := frame_modCtx s c _

/-- The states of records that are set one after the other. -/
theorem frame_recStates (c v : Nat) (p : State → BitVec 48 → MbRec → Prop) [∀ s va r, Decidable (p s va r)] (l : List (BitVec 48)) :
    AllBut memoryParts s (l.foldl (fun s va => match readRec s c va with
      | some r => if p s va r then setRecState s c va v else s
      | none => s) s) := by
  refine AllBut.foldl (fun s va => ?_) l s
  split
  · split
    · exact frame_setRecState s c va v
    · exact .refl _ s
  · exact .refl _ s

theorem frame_abortStep (c reason : Nat) : AllBut abortParts s (abortStep s c reason) := by
  unfold abortStep
  extract_lets l why s1 s2 i v s3 s4 s5 s6 l'
  have stopped : AllBut abortParts s s1 := AllBut.foldl (fun s n => (frame_stopStreams s n _ _).mono) _ s
  have records : AllBut abortParts s1 s2 := (frame_recStates s1 c 5 (fun _ _ r => r.step = l.step ∧ 1 ≤ r.state ∧ r.state ≤ 3) _).mono
  have version : AllBut abortParts s2 s3 := AllBut.ite (fun _ => (frame_setVer _ c _ _).mono) fun _ => .refl _ _
  have ended : AllBut abortParts s3 s6 :=
    .trans (.mono (frame_modLed s3 c _)) (.trans (.mono (frame_modTiming s4 c _ _)) (.mono (frame_lifeAdd s5 _ _)))
  have all := stopped.trans (records.trans (version.trans ended))
  exact AllBut.ite (fun _ => all.trans (.mono (frame_postNotice _ _ _ _))) fun _ => all

/-- What a fence of a context may change. -/
def fenceParts : List Part := .fab :: .engines :: .ports :: abortParts

theorem frame_fenceJob (c : Nat) : AllBut fenceParts s (fenceJob s c) := by
  unfold fenceJob
  extract_lets l s1 s2 p s3
  have aborted : AllBut fenceParts s s1 :=
    AllBut.ite (fun _ => .trans (.mono (frame_sendVeto s c)) (.mono (frame_abortStep _ c 7))) fun _ => .refl _ _
  have marked : AllBut fenceParts s1 s2 := (frame_modLed s1 c _).mono
  have failed : AllBut fenceParts s2 s3 := by
    unfold s3
    split
    · exact (frame_modPeal _ c _).mono
    · exact (frame_modPeal _ c _).mono
    · exact .refl _ _
  exact aborted.trans (marked.trans (failed.trans (.mono (frame_modPeal s3 c _))))

theorem frame_dropRecords (c : Nat) : AllBut memoryParts s (dropRecords s c) := frame_recStates s c 5 _ _

theorem frame_startFence (c : Nat) (w : Option (Nat × Req)) : AllBut fenceParts s (startFence s c w) := by
  unfold startFence
  extract_lets x s1 s2 s3
  split
  · exact .refl _ s
  · exact (frame_modCtx s c _).mono
  · have job : AllBut fenceParts s s1 := (frame_fenceJob s c).trans (.mono (frame_dropRecords _ c))
    have cores : AllBut fenceParts s1 s2 :=
      AllBut.foldl (fun s n => .trans (.mono (frame_stopStreams s n _ _)) (.mono (frame_modC _ n _))) _ _
    have programs : AllBut fenceParts s2 s3 := (frame_dropPrograms s2 _).mono
    exact job.trans (cores.trans (programs.trans (.mono (frame_modCtx s3 c _))))

end

/-! ### What a change of one context leaves (R51, R381) -/

/-- What a job, its Peal and its security counters leave of a context. -/
structure CtxStays (a b : Context) : Prop where
  st : b.st = a.st
  cgen : b.cgen = a.cgen
  prog : b.prog = a.prog
  idleBeats : b.idleBeats = a.idleBeats
  completed : b.completed = a.completed
  part : b.part = a.part
  pmBase : b.pmBase = a.pmBase
  pmLen : b.pmLen = a.pmLen
  set : b.set = a.set
  startVer : b.startVer = a.startVer
  trnBusy : b.trnBusy = a.trnBusy
  trnStep : b.trnStep = a.trnStep
  layers : b.layers = a.layers
  fence : b.fence = a.fence
  domains : b.domains = a.domains

theorem CtxStays.refl (a : Context) : CtxStays a a := by constructor <;> rfl

theorem CtxStays.trans {a b d : Context} (h : CtxStays a b) (k : CtxStays b d) : CtxStays a d :=
  ⟨k.st.trans h.st, k.cgen.trans h.cgen, k.prog.trans h.prog, k.idleBeats.trans h.idleBeats, k.completed.trans h.completed,
   k.part.trans h.part, k.pmBase.trans h.pmBase, k.pmLen.trans h.pmLen, k.set.trans h.set, k.startVer.trans h.startVer,
   k.trnBusy.trans h.trnBusy, k.trnStep.trans h.trnStep, k.layers.trans h.layers, k.fence.trans h.fence, k.domains.trans h.domains⟩

/-- Between two states no context moves but `c`, and of it only the job, the Peal, the versions and the security counters. -/
structure JobMoves (c : Nat) (s t : State) : Prop where
  others : ∀ k, k ≠ c → getCtx t k = getCtx s k
  own : CtxStays (getCtx s c) (getCtx t c)

section
variable {c : Nat} {s t u : State}

theorem JobMoves.refl (c : Nat) (s : State) : JobMoves c s s := ⟨fun _ _ => rfl, .refl _⟩

theorem JobMoves.trans (h : JobMoves c s t) (k : JobMoves c t u) : JobMoves c s u :=
  ⟨fun n hn => (k.others n hn).trans (h.others n hn), h.own.trans k.own⟩

theorem JobMoves.of_ctxs (h : t.ctxs = s.ctxs) (c : Nat) : JobMoves c s t :=
  ⟨fun k _ => getCtx_congr h k, by rw [getCtx_congr h]; exact .refl _⟩

theorem JobMoves.of_frame {l : List Part} (h : AllBut l s t) (hl : Part.ctxs ∉ l := by decide) : JobMoves c s t := .of_ctxs (h .ctxs hl) c

theorem JobMoves.of_modCtx (s : State) (c : Nat) {f : Context → Context} (h : ∀ x, CtxStays x (f x)) : JobMoves c s (modCtx s c f) := by
  refine ⟨fun k hk => getCtx_modCtx_other s hk f, ?_⟩
  by_cases hc : c < 64
  · rw [getCtx_modCtx_same s hc]
    exact h _
  · rw [modCtx_outOfBounds s (by omega)]
    exact .refl _

theorem JobMoves.of_modLed (s : State) (c : Nat) (f : Ledger → Ledger) : JobMoves c s (modLed s c f) :=
  .of_modCtx s c fun _ => by constructor <;> rfl
theorem JobMoves.of_modPeal (s : State) (c : Nat) (f : Peal → Peal) : JobMoves c s (modPeal s c f) :=
  .of_modCtx s c fun _ => by constructor <;> rfl
theorem JobMoves.of_modSec (s : State) (c : Nat) (f : CtxSec → CtxSec) : JobMoves c s (modSec s c f) :=
  .of_modCtx s c fun _ => by constructor <;> rfl

theorem JobMoves.foldl {α : Type} {f : State → α → State} (h : ∀ s a, JobMoves c s (f s a)) (as : List α) (s : State) :
    JobMoves c s (as.foldl f s) := by
  induction as generalizing s with
  | nil => exact .refl c s
  | cons a as ih => exact (h s a).trans (ih (f s a))

theorem JobMoves.ite {p : Prop} [Decidable p] (h : p → JobMoves c s t) (k : ¬p → JobMoves c s u) :
    JobMoves c s (if p then t else u) := by
  split
  · exact h ‹_›
  · exact k ‹_›

end

/-! ### The context that a shared operation moves -/

section
variable (s : State) (c : Nat)

theorem jobMoves_countTag : JobMoves c s (countTag s c) := by
  unfold countTag
  exact .trans (.of_frame (frame_modSecCore s _)) (.of_modSec _ c _)

theorem jobMoves_readLocal (p pg off : Nat) (epoch : Bool) : JobMoves c s (readLocal s c p pg off epoch).1 := by
  have read := fun pos j key => (JobMoves.of_frame (c := c) (frame_controllerRead s pos j key [] []))
  unfold readLocal
  dsimp only
  split
  · exact (read _ _ _).trans (jobMoves_countTag _ c)
  · exact read _ _ _

theorem jobMoves_writeLocal (p pg off : Nat) (epoch k : Bool) (b : Block) : JobMoves c s (writeLocal s c p pg off epoch k b) :=
  .of_frame (frame_writeLocal s c p pg off epoch k b)

end

theorem jobMoves_readVa {c : Nat} (fuel : Nat) : ∀ {s : State} {va : Nat} {r : State × Bytes}, readVa s c va fuel = some r →
    JobMoves c s r.1 := by
  induction fuel with
  | zero =>
    intro s va r h
    cases h
    exact .refl _ s
  | succ k ih =>
    intro s va r h
    unfold readVa at h
    split at h
    · dsimp only at h
      split at h
      · split at h
        · rename_i later
          cases h
          have rest := ih later
          exact .trans (jobMoves_readLocal s c _ _ _ _) rest
        · cases h
      · cases h
    · cases h

theorem jobMoves_readBytesVa {s : State} {c va n : Nat} {r : State × Bytes} (h : readBytesVa s c va n = some r) : JobMoves c s r.1 := by
  obtain ⟨q, hq, rfl⟩ := Option.map_eq_some_iff.mp h
  exact (jobMoves_readVa _ hq :)

theorem jobMoves_writePiece {s t : State} {c va : Nat} {d : Bytes} {force : Bool} (h : writePiece s c va d force = some t) :
    JobMoves c s t := by
  unfold writePiece at h
  split at h
  · split at h
    · split at h
      · obtain rfl := Option.some.inj h
        exact jobMoves_writeLocal s c _ _ _ _ _ _
      · rename_i p pg off e _ _ _ _
        dsimp only at h
        split at h
        · obtain rfl := Option.some.inj h
          exact (jobMoves_readLocal s c p pg off e).trans (jobMoves_writeLocal _ c p pg off e false _)
        · cases h
    · cases h
  · cases h

theorem jobMoves_writeBytesVa {c : Nat} {force : Bool} (fuel : Nat) : ∀ {s t : State} {va : Nat} {d : Bytes},
    writeBytesVa s c va d force fuel = some t → JobMoves c s t := by
  induction fuel with
  | zero =>
    intro s t va d h
    unfold writeBytesVa at h
    split at h <;> cases h
    exact .refl _ s
  | succ k ih =>
    intro s t va d h
    unfold writeBytesVa at h
    split at h
    · cases h
      exact .refl _ s
    · dsimp only at h
      split at h
      · rename_i piece
        exact (jobMoves_writePiece piece).trans (ih h)
      · cases h

theorem jobMoves_putVa {s t : State} {c va : Nat} {d : Bytes} {force : Bool} (h : putVa s c va d force = some t) : JobMoves c s t :=
  jobMoves_writeBytesVa _ h

section
variable (s : State) (c : Nat)

theorem jobMoves_putForced (va : Nat) (d : Bytes) : JobMoves c s (putForced s c va d) := by
  unfold putForced
  cases h : putVa s c va d true with
  | none => exact .refl c s
  | some t => exact jobMoves_putVa h

theorem jobMoves_recStates (v : Nat) (p : State → BitVec 48 → MbRec → Prop) [∀ s va r, Decidable (p s va r)] (l : List (BitVec 48)) :
    JobMoves c s (l.foldl (fun s va => match readRec s c va with
      | some r => if p s va r then setRecState s c va v else s
      | none => s) s) := by
  refine JobMoves.foldl (fun s va => ?_) l s
  split
  · split
    · exact jobMoves_putForced s c _ _
    · exact .refl _ s
  · exact .refl _ s

theorem jobMoves_modTiming (step : BitVec 48) (f : TimingRec → TimingRec) : JobMoves c s (modTiming s c step f) := .of_modLed s c _

theorem jobMoves_sealPacket {s : State} {c : Nat} {k : Packet} {r : State × Packet} (h : sealPacket s c k = some r) :
    JobMoves c s r.1 := by
  unfold sealPacket at h
  dsimp only at h
  split at h
  · cases h
    exact .refl _ s
  · split at h
    · cases h
    · cases h
      dsimp only
      exact .of_modSec s c _

theorem jobMoves_sendRouted (k : Packet) : JobMoves c s (sendRouted s c k).1 := by
  unfold sendRouted
  cases h : sealPacket s c k with
  | none => exact .refl _ s
  | some r =>
    have taken := jobMoves_sealPacket h
    dsimp only
    split <;> dsimp only
    · exact taken.trans (.of_frame (frame_sendOn _ _ _))
    · exact taken.trans (.of_frame (frame_sendOn _ _ _))
    · exact taken
    · exact taken.trans (.of_frame (frame_dropNoroute _))

theorem jobMoves_andDone (e n : Nat) (p : Program) (i : CInstr) (v : Bool) : JobMoves p.ctx s (andDone s e n p i v) := by
  unfold andDone
  split
  · exact .of_frame (frame_runningAt s e n _)
  · exact .trans (.of_frame (frame_runningAt s e n _)) (jobMoves_sendRouted _ p.ctx _)

theorem jobMoves_showReason (k : Nat) : JobMoves c s (showReason s c k) := by
  unfold showReason
  extract_lets s1
  exact .ite (fun _ => .of_modLed s c _) fun _ => .trans (.of_modLed s c _) (jobMoves_modTiming s1 c _ _)

theorem jobMoves_castBit (ready : Bool) (reason : Nat) : JobMoves c s (castBit s c ready reason) := by
  unfold castBit
  extract_lets l s1 s2
  have cast : JobMoves c s s2 :=
    .trans (.of_modLed s c _) (.trans (jobMoves_showReason _ c _) (jobMoves_modTiming s1 c _ _))
  exact .ite (fun _ => .refl c s) fun _ => .ite (fun _ => cast.trans (.of_frame (frame_slowStep s2 c _))) fun _ =>
    .ite (fun _ => cast.trans (.of_frame (frame_evidence s2 _ _))) fun _ => cast

/-- The program that takes a ready bit is one of the context (R299). -/
theorem votePlace_ctx {s : State} {c n : Nat} (h : votePlace s c = some n) {p : Program}
    (hp : runningAt s (getCtx s c).led.engine n = some p) : p.ctx = c := by
  unfold votePlace at h
  dsimp only at h
  split at h
  · obtain ⟨hn, found, -⟩ := List.findIdx?_eq_some_iff_getElem.mp h
    have at_ : (getEngine s (getCtx s c).led.engine).running[n] = p := by
      simpa [runningAt, List.getElem?_eq_getElem hn] using hp
    rw [at_] at found
    simp only [isDownbeat, Bool.and_eq_true, beq_iff_eq] at found
    exact found.1.1.1
  · cases h

theorem runningAt_congr {s t : State} (h : t.fab = s.fab) (e n : Nat) : runningAt t e n = runningAt s e n := by
  simp only [runningAt, getEngine, h]

theorem jobMoves_sendVeto : JobMoves c s (sendVeto s c) := by
  unfold sendVeto
  split
  · exact .refl c s
  · rename_i n place
    extract_lets e s1
    have cast : JobMoves c s s1 := jobMoves_castBit s c false 7
    have fab : s1.fab = s.fab := frame_castBit s c false 7 .fab (by decide)
    refine cast.trans ?_
    unfold atInstr
    split
    · exact .refl c s1
    · rename_i p running
      rw [runningAt_congr fab] at running
      obtain rfl : p.ctx = c := votePlace_ctx place running
      split
      · exact .ite (fun _ => jobMoves_andDone s1 e n p _ false) fun _ => .refl _ s1
      · exact .refl _ s1

theorem jobMoves_abortStep (reason : Nat) : JobMoves c s (abortStep s c reason) := by
  unfold abortStep
  extract_lets l why s1 s2 i v s3 s4 s5 s6 l'
  have stopped : JobMoves c s s1 := .foldl (fun s n => .of_frame (frame_stopStreams s n _ _)) _ s
  have records : JobMoves c s1 s2 := jobMoves_recStates s1 c 5 (fun _ _ r => r.step = l.step ∧ 1 ≤ r.state ∧ r.state ≤ 3) _
  have version : JobMoves c s2 s3 := .ite (fun _ => .of_modCtx s2 c fun _ => by constructor <;> rfl) fun _ => .refl c s2
  have ended : JobMoves c s3 s6 := .trans (.of_modLed s3 c _) (.trans (jobMoves_modTiming s4 c _ _) (.of_frame (frame_lifeAdd s5 _ _)))
  have all := stopped.trans (records.trans (version.trans ended))
  exact .ite (fun _ => all.trans (.of_frame (frame_postNotice _ _ _ _))) fun _ => all

theorem jobMoves_fenceJob : JobMoves c s (fenceJob s c) := by
  unfold fenceJob
  extract_lets l s1 s2 p s3
  have aborted : JobMoves c s s1 := .ite (fun _ => (jobMoves_sendVeto s c).trans (jobMoves_abortStep _ c 7)) fun _ => .refl c s
  have failed : JobMoves c s2 s3 := by
    unfold s3
    split
    · exact .of_modPeal s2 c _
    · exact .of_modPeal s2 c _
    · exact .refl c s2
  exact aborted.trans (.trans (.of_modLed s1 c _) (failed.trans (.of_modPeal s3 c _)))

theorem jobMoves_dropRecords : JobMoves c s (dropRecords s c) := jobMoves_recStates s c 5 _ _

/-- What a fence begins with, up to the mark that the context is FENCING: its job, its cores and its programs stop. -/
def fenceBegun (s : State) (c : Nat) : State :=
  let s := dropRecords (fenceJob s c) c
  let s := (servingCores s c).foldl (fun s n => modC (stopStreams s n true fun t => t.ctx == c) n fun k =>
    { k with frozen := false, pwrMode := if k.frozen then 2 else k.pwrMode }) s
  dropPrograms s fun p => p.ctx == c

theorem jobMoves_fenceBegun : JobMoves c s (fenceBegun s c) := by
  unfold fenceBegun
  extract_lets s1 s2
  have job : JobMoves c s s1 := (jobMoves_fenceJob s c).trans (jobMoves_dropRecords _ c)
  have cores : JobMoves c s1 s2 := .foldl (fun s n => .trans (.of_frame (frame_stopStreams s n _ _)) (.of_frame (frame_modC _ n _))) _ _
  exact job.trans (cores.trans (.of_frame (frame_dropPrograms s2 _)))

/-! ### The beginning of a fence (R381) -/

theorem startFence_closed {s : State} {c : Nat} (h : (getCtx s c).st = .closed) (w : Option (Nat × Req)) : startFence s c w = s := by
  simp only [startFence, h]

theorem startFence_fencing {s : State} {c : Nat} (h : (getCtx s c).st = .fencing) (w : Option (Nat × Req)) :
    startFence s c w = modCtx s c fun x => { x with fence := x.fence.map fun f => { f with waiters := f.waiters ++ w.toList } } := by
  simp only [startFence, h]

theorem startFence_begins {s : State} {c : Nat} (hc : (getCtx s c).st ≠ .closed) (hf : (getCtx s c).st ≠ .fencing)
    (w : Option (Nat × Req)) : startFence s c w = modCtx (fenceBegun s c) c fun x =>
      { x with st := .fencing, fence := some { waiters := w.toList, since := (fenceBegun s c).ticks } } := by
  unfold startFence
  extract_lets x
  split
  · contradiction
  · contradiction
  · rfl

/-- A fence moves no other context. -/
theorem startFence_others (w : Option (Nat × Req)) {k : Nat} (hk : k ≠ c) : getCtx (startFence s c w) k = getCtx s k := by
  by_cases hc : (getCtx s c).st = .closed
  · rw [startFence_closed hc]
  by_cases hf : (getCtx s c).st = .fencing
  · rw [startFence_fencing hf, getCtx_modCtx_other s hk]
  · rw [startFence_begins hc hf, getCtx_modCtx_other _ hk, (jobMoves_fenceBegun s c).others k hk]

end

end Sys2Proof.Machine
end

section
-- One proof after the other: a text of this length has more proofs waiting at once than the check has threads for.
set_option Elab.async false
/-! PROOFS. Starting, stopping and draining the device (R349, R353, R381). -/
namespace Sys2Proof.Machine

/-! ### Fencing every open context (R353, R381) -/

/-- An open context that is fenced is FENCING, with a fence in progress. -/
theorem startFence_open {s : State} {c : Nat} (hc : c < 64) (h : (getCtx s c).st = .opened) (w : Option (Nat × Req)) :
    (getCtx (startFence s c w) c).st = .fencing ∧ (getCtx (startFence s c w) c).fence ≠ none := by
  rw [startFence_begins (by rw [h]; decide) (by rw [h]; decide), getCtx_modCtx_same _ hc]
  exact ⟨rfl, nofun⟩

/-- The open contexts of a list are fenced, one after the other. -/
def fenceOpen (l : List Nat) (s : State) : State :=
  l.foldl (fun s c => if (getCtx s c).st = .opened then startFence s c none else s) s

theorem frame_fenceOpen (l : List Nat) (s : State) : AllBut fenceParts s (fenceOpen l s) :=
  AllBut.foldl (fun s c => AllBut.ite (fun _ => frame_startFence s c none) fun _ => .refl _ s) l s

/-- A context that is not open stays as it is. -/
theorem getCtx_fenceOpen_other (l : List Nat) {s : State} {k : Nat} (h : k ∉ l ∨ (getCtx s k).st ≠ .opened) :
    getCtx (fenceOpen l s) k = getCtx s k := by
  induction l generalizing s with
  | nil => rfl
  | cons a l ih =>
    have one : getCtx (if (getCtx s a).st = .opened then startFence s a none else s) k = getCtx s k := by
      split
      · rename_i open_
        have differ : k ≠ a := by
          rintro rfl
          exact h.elim (· List.mem_cons_self) (· open_)
        exact startFence_others s a none differ
      · rfl
    have rest : k ∉ l ∨ (getCtx (if (getCtx s a).st = .opened then startFence s a none else s) k).st ≠ .opened :=
      h.imp (mt (List.mem_cons_of_mem a)) fun h => by rwa [one]
    exact (ih rest).trans one

/-- An open context of the list is FENCING. -/
theorem getCtx_fenceOpen_open {l : List Nat} {s : State} {k : Nat} (hk : k < 64) (hl : k ∈ l) (h : (getCtx s k).st = .opened) :
    (getCtx (fenceOpen l s) k).st = .fencing ∧ (getCtx (fenceOpen l s) k).fence ≠ none := by
  induction l generalizing s with
  | nil => cases hl
  | cons a l ih =>
    by_cases ha : a = k
    · subst ha
      have begun := startFence_open hk h none
      have stays : getCtx (fenceOpen l (startFence s a none)) a = getCtx (startFence s a none) a :=
        getCtx_fenceOpen_other l (.inr (by rw [begun.1]; decide))
      rw [fenceOpen, List.foldl_cons, if_pos h]
      exact stays ▸ begun
    · refine ih ((List.mem_cons.mp hl).resolve_left (Ne.symm ha)) ?_
      dsimp only
      split
      · rw [startFence_others s a none (Ne.symm ha), h]
      · exact h

/-- What becomes of the state of a context when every open one is fenced. -/
theorem st_fenceOpen (s : State) {c : Nat} (hc : c < 64) : (getCtx (fenceOpen (List.range 64) s) c).st =
    if (getCtx s c).st = .opened then .fencing else (getCtx s c).st := by
  split
  · exact (getCtx_fenceOpen_open hc (List.mem_range.mpr hc) ‹_›).1
  · rw [getCtx_fenceOpen_other _ (.inr ‹_›)]

/-! ### Whether every context is closed -/

theorem getCtx_eq_getElem (s : State) {c : Nat} (hc : c < 64) : getCtx s c = s.ctxs[c] := by simp [getCtx, Vector.getD, hc]

theorem anyOpen_eq_false {s : State} (h : ∀ c, c < 64 → (getCtx s c).st = .closed) : anyOpen s = false := by
  rw [anyOpen, Bool.eq_false_iff]
  intro found
  obtain ⟨x, hx, hne⟩ := List.any_eq_true.mp found
  obtain ⟨i, hi, rfl⟩ := Vector.mem_iff_getElem.mp (Vector.mem_toList_iff.mp hx)
  have closed := h i hi
  rw [getCtx_eq_getElem s hi] at closed
  simp [closed] at hne

theorem anyOpen_eq_true {s : State} (h : ∃ c, c < 64 ∧ (getCtx s c).st ≠ .closed) : anyOpen s = true := by
  obtain ⟨c, hc, hne⟩ := h
  refine List.any_eq_true.mpr ⟨s.ctxs[c], by simp, ?_⟩
  simpa [getCtx_eq_getElem s hc] using hne

/-! ### DEVICE_START, DEVICE_STOP -/

section
variable {r : Req} {s : State}

theorem serves_deviceStart {a : BitVec 32} (h : Ready 0x0004 0x004 r s) :
    (a.toNat < 2 ^ 17 → Serves (.deviceStart r a) s
      { s with hub := { s.hub with started := true }, fab := { s.fab with addr := a.setWidth 17, valid := true } } r 0x0004 0x00 []) ∧
    (2 ^ 17 ≤ a.toNat → Serves (.deviceStart r a) s s r 0x0004 0x03 []) := by
  have run : RunsAs (.deviceStart r a) r 0x0004 0x004 (ansDeviceStart a) s := rfl
  exact ⟨fun ha => serves_ok run h (if_pos ha) rfl, fun ha => serves_err (d := 0) run h (if_neg (by omega))⟩

theorem serves_deviceStop (h : Ready 0x0005 0x008 r s) :
    ((∀ c, c < 64 → (getCtx s c).st = .closed) → Serves (.deviceStop r) s
      { s with hub := { s.hub with started := false }, fab := { s.fab with addr := 0, valid := false } } r 0x0005 0x00 []) ∧
    ((∃ c, c < 64 ∧ (getCtx s c).st ≠ .closed) → Conflicts (.deviceStop r) s r 0x0005 0x05 1 0x1) := by
  have run : RunsAs (.deviceStop r) r 0x0005 0x008 ansDeviceStop s := rfl
  refine ⟨fun hc => serves_ok run h ?_ rfl, fun ho => conflicts_of run h (if_pos (anyOpen_eq_true ho))⟩
  rw [ansDeviceStop, anyOpen_eq_false hc]
  rfl

end

/-! ### DRAIN and its deadline -/

section
variable {r : Req} {s : State} {mode : BitVec 8} {ms : BitVec 32}

/-- The state in which a DRAIN waits, before MODE 1 fences. -/
def drainState (r : Req) (mode : BitVec 8) (s : State) : State :=
  modHub (handed s r) fun h => { h with draining := true, drainReq := some (r, mode.toNat) }

theorem ansDrain_outOfRange (h : 1 < mode.toNat ∨ ms = 0 ∨ 60000 < ms.toNat) : ansDrain r mode ms s = err s stBadArg 0 := by
  refine if_neg fun ok => ?_
  rw [Bool.and_eq_true, decide_eq_true_iff, within_iff] at ok
  obtain ⟨hm, h1, h2⟩ := ok
  rcases h with h | rfl | h
  · omega
  · simp at h1
  · omega

theorem ansDrain_inRange (hm : mode.toNat ≤ 1) (h1 : 1 ≤ ms.toNat) (h2 : ms.toNat ≤ 60000) : ansDrain r mode ms s =
    later (if mode = 1 then fenceOpen (List.range 64) (drainState r mode s) else drainState r mode s) := by
  rw [ansDrain, if_pos (by simp [hm, within, h1, h2])]
  rfl

/-- With no activation in progress, none is served. -/
theorem serveActivate_none {s : State} (h : s.hub.actReq = none) : serveActivate s = s := by
  rw [serveActivate, h]

theorem refreshDev_drain (s : State) : (refreshDev s).hub.drainReq = s.hub.drainReq ∧ (refreshDev s).hub.draining = s.hub.draining := by
  unfold refreshDev
  dsimp only
  split
  · exact ⟨rfl, rfl⟩
  · rw [postNotice_hub]
    exact ⟨rfl, rfl⟩

/-- A drain that is not done waits on. -/
theorem settle_drains {s : State} (ha : s.hub.actReq = none)
    (hb : busy s = true ∨ ∃ c, c < 64 ∧ (getCtx s c).fence ≠ none) :
    (settle s).hub.drainReq = s.hub.drainReq ∧ (settle s).hub.draining = s.hub.draining := by
  have waits : finishDrain s = s := by
    unfold finishDrain
    split
    · refine if_neg fun done => ?_
      simp only [Bool.and_eq_true, Bool.not_eq_true', List.all_eq_true] at done
      obtain ⟨⟨-, idle⟩, none_⟩ := done
      rcases hb with hb | ⟨c, hc, hf⟩
      · simp [hb] at idle
      · have clear := none_ s.ctxs[c] (by simp)
        rw [getCtx_eq_getElem s hc] at hf
        exact hf (Option.isNone_iff_eq_none.mp clear)
    · rfl
  rw [settle, serveActivate_none ha, waits, serveWaiters_hub]
  exact refreshDev_drain s

/-- What has been answered stays answered. -/
theorem Answers.mono {s t u : State} {r : Req} {code : BitVec 16} {st : BitVec 8} {b : Bytes} (h : Answers s t r code st b)
    (k : t.mail.responses <:+ u.mail.responses) : Answers s u r code st b := by
  obtain ⟨x, hx, fields⟩ := h
  exact ⟨x, hx.trans k, fields⟩

/-- A drain of MODE 0 with nothing left to wait for is answered. -/
theorem settle_drained {s : State} {r : Req} (ha : s.hub.actReq = none) (hr : s.hub.drainReq = some (r, 0)) (hd : s.hub.draining = true)
    (hu : belfryUp s = true) (hb : busy s = false) (hf : ∀ c, (getCtx s c).fence = none) :
    Answers s (settle s) r 0x0006 0x00 [] := by
  have clear : s.ctxs.toList.all (fun x => x.fence.isNone) = true := by
    refine List.all_eq_true.mpr fun x hx => ?_
    obtain ⟨i, hi, rfl⟩ := Vector.mem_iff_getElem.mp (Vector.mem_toList_iff.mp hx)
    rw [← getCtx_eq_getElem s hi, hf i]
    rfl
  have ended : finishDrain s = respond (takePending (modHub s fun h => { h with draining := false, drainReq := none }) fun _ => true)
      r 0x0006 0 0 0 0x118 [] := by
    simp only [finishDrain, hr, hu, hd, hb, clear, Bool.and_self, Bool.not_false, if_true]
  have responses : (takePending (modHub s fun h => { h with draining := false, drainReq := none }) fun _ => true).mail.responses =
      s.mail.responses := by
    unfold takePending
    dsimp only
    split <;> rfl
  rw [settle, serveActivate_none ha, ended]
  exact (answers_respond 0x0006 0 0 0 0x118 responses).mono
    (((settled_refreshDev _).trans (settled_serveWaiters _)).mail.responses)

theorem busy_congr {s t : State} (h : t.slots = s.slots) (hf : t.fab = s.fab) : busy t = busy s := by
  simp only [busy, getEngine, h, hf]

theorem settled_drainState : Settled s (drainState r mode s) :=
  (settled_handed s r).trans (settled_hub _ _ (by constructor <;> rfl))

theorem busy_drainState : busy (drainState r mode s) = busy s :=
  busy_congr (settled_handed s r).out.slots (settled_handed s r).out.fab

theorem actReq_drainState : (drainState r mode s).hub.actReq = s.hub.actReq := by
  rw [drainState, modHub_hub, handed_hub]

theorem belfryUp_drainState (h : Ready 0x0006 0x118 r s) : belfryUp (drainState r mode s) = true := by
  obtain ⟨⟨-, -, -, hup⟩, hperm, -⟩ := h
  have mailbox : ¬(r.mbx.val = 18 ∧ r.path ≠ .smbus) := fun ⟨hm, _⟩ => by
    simp [permitted, served, hm] at hperm
  rw [if_neg mailbox] at hup
  rw [belfryUp, drainState, modHub_hub, handed_hub]
  exact hup

/-- DRAIN, by its answer, where it is in range. -/
theorem exec_drain (h : Ready 0x0006 0x118 r s) (hm : mode.toNat ≤ 1) (h1 : 1 ≤ ms.toNat) (h2 : ms.toNat ≤ 60000) :
    exec (.drain r mode ms) s =
      .next (settle (if mode = 1 then fenceOpen (List.range 64) (drainState r mode s) else drainState r mode s)) :=
  exec_later rfl h (ansDrain_inRange hm h1 h2)

theorem drain_mode0_waits (h : Ready 0x0006 0x118 r s) (ha : s.hub.actReq = none) (h1 : 1 ≤ ms.toNat) (h2 : ms.toNat ≤ 60000)
    (hm : mode = 0) (hb : busy s = true) : ∃ t, exec (.drain r mode ms) s = .next t ∧ Settled s t ∧
      t.hub.drainReq = some (r, 0) ∧ t.hub.draining = true := by
  subst hm
  have run := exec_drain h (mode := 0) (by decide) h1 h2
  rw [if_neg (by decide)] at run
  have waits := settle_drains (s := drainState r 0 s) (actReq_drainState.trans ha) (.inl (busy_drainState.trans hb))
  exact ⟨_, run, settled_drainState.trans (settle_settled _), waits.1, waits.2⟩

theorem drain_mode0_idle (h : Ready 0x0006 0x118 r s) (ha : s.hub.actReq = none) (h1 : 1 ≤ ms.toNat) (h2 : ms.toNat ≤ 60000)
    (hm : mode = 0) (hb : busy s = false) (hf : ∀ c, (getCtx s c).fence = none) : Serves (.drain r mode ms) s s r 0x0006 0x00 [] := by
  subst hm
  have run := exec_drain h (mode := 0) (by decide) h1 h2
  rw [if_neg (by decide)] at run
  have same : ∀ c, getCtx (drainState r 0 s) c = getCtx s c := getCtx_congr (settled_handed s r).out.ctxs
  obtain ⟨x, hx, fields⟩ := settle_drained (r := r) (s := drainState r 0 s) (actReq_drainState.trans ha) rfl rfl
    (belfryUp_drainState h) (busy_drainState.trans hb) (fun c => by rw [same, hf c])
  refine ⟨_, run, settled_drainState.trans (settle_settled _), x, ?_, fields⟩
  have responses : (drainState r 0 s).mail.responses = s.mail.responses := (handed_mail_queues s r).2.2
  rwa [← responses]

theorem drain_mode1 (h : Ready 0x0006 0x118 r s) (ha : s.hub.actReq = none) (h1 : 1 ≤ ms.toNat) (h2 : ms.toNat ≤ 60000)
    (hm : mode = 1) : ∃ t, exec (.drain r mode ms) s = .next t ∧
      (∀ c, c < 64 → (getCtx t c).st = (if (getCtx s c).st = .opened then .fencing else (getCtx s c).st)) ∧
      ((∃ c, c < 64 ∧ (getCtx s c).st = .opened) → t.hub.drainReq = some (r, 1) ∧ t.hub.draining = true) := by
  subst hm
  have run := exec_drain h (mode := 1) (by decide) h1 h2
  rw [if_pos rfl] at run
  have same : ∀ c, getCtx (drainState r 1 s) c = getCtx s c := getCtx_congr (settled_handed s r).out.ctxs
  have hub : (fenceOpen (List.range 64) (drainState r 1 s)).hub = (drainState r 1 s).hub := frame_fenceOpen _ _ .hub (by decide)
  refine ⟨_, run, fun c hc => ?_, fun ⟨c, hc, ho⟩ => ?_⟩
  · rw [getCtx_settle, st_fenceOpen _ hc, same]
  · have fenced := (getCtx_fenceOpen_open hc (List.mem_range.mpr hc) ((same c).symm ▸ ho)).2
    have waits := settle_drains ((congrArg Hub.actReq hub).trans (actReq_drainState.trans ha)) (.inr ⟨c, hc, fenced⟩)
    exact ⟨waits.1.trans (congrArg Hub.drainReq hub), waits.2.trans (congrArg Hub.draining hub)⟩

/-- R349: the deadline of a drain of MODE 0. -/
theorem drainDeadline_ends (hr : s.hub.drainReq = some (r, 0)) (ha : s.hub.actReq = none) :
    ∃ t, exec .drainDeadline s = .next t ∧ Settled s t ∧ Answers s t r 0x0006 0x07 [] ∧ t.hub.drainReq = none ∧
      t.hub.draining = false := by
  have run : exec .drainDeadline s = done (respond (modHub s fun h => { h with draining := false, drainReq := none }) r 0x0006 stTimeout
      0 0 0x118 []) := by
    show execDrainDeadline s = _
    rw [execDrainDeadline, hr]
    rfl
  have hub := respond_hub (modHub s fun h => { h with draining := false, drainReq := none }) r 0x0006 stTimeout 0 0 0x118 []
  have kept : ∀ u : State, u.hub.actReq = none → u.hub.drainReq = none →
      (settle u).hub.drainReq = none ∧ (settle u).hub.draining = u.hub.draining := fun u hu hd => by
    have idle : finishDrain u = u := by rw [finishDrain, hd]
    rw [settle, serveActivate_none hu, idle, serveWaiters_hub, (refreshDev_drain u).1, (refreshDev_drain u).2]
    exact ⟨hd, rfl⟩
  have ends := kept _ (by rw [hub]; exact ha) (by rw [hub]; rfl)
  refine ⟨_, run, ?_, ?_, ends.1, ?_⟩
  · exact ((settled_hub s _ (by constructor <;> rfl)).trans (settled_respond _ _ _ _ _ _ _ _)).trans (settle_settled _)
  · exact (answers_respond 0x0006 stTimeout 0 0 0x118 (by rfl)).mono (settle_settled _).mail.responses
  · rw [ends.2, hub]
    rfl

end

/-- Settles O8: each command by its answer, a drain by whether something is left to wait for. -/
theorem deviceStartsStopsAndDrains : Obligations.DeviceStartsStopsAndDrains :=
  ⟨fun _ _ _ h => serves_deviceStart h, fun _ _ h => serves_deviceStop h,
   fun _ _ _ _ h => ⟨fun bad => serves_err (d := 0) rfl h (ansDrain_outOfRange bad), fun ha h1 h2 =>
     ⟨fun hm hb => drain_mode0_waits h ha h1 h2 hm hb, fun hm hb hf => drain_mode0_idle h ha h1 h2 hm hb hf,
      fun hm => drain_mode1 h ha h1 h2 hm⟩⟩,
   fun _ _ hr ha => drainDeadline_ends hr ha⟩

end Sys2Proof.Machine
end

section
-- One proof after the other: a text of this length has more proofs waiting at once than the check has threads for.
set_option Elab.async false
/-! PROOFS. The operator's secret (R347), the power contract (R456 to R466), and one armed time (R51). -/
namespace Sys2Proof.Machine

/-! ### OP_AUTH, OP_SECRET_SET (R347) -/

section
variable {r : Req} {phase : BitVec 8} {mac secret : Bytes} {s : State}

theorem ansOpAuth_challenge : ansOpAuth 0 mac s =
    ok (modMail (drawFree s 256).2 fun m => { m with challenge := some (leBytes 32 (drawFree s 256).1.toNat) })
      (leBytes 32 (drawFree s 256).1.toNat) := rfl

theorem ansOpAuth_proof {k ch : Bytes} (hk : s.mail.opSecret = some k) (hc : s.mail.challenge = some ch) : ansOpAuth 1 mac s =
    if hmac256 k ch = mac then ok (modMail s fun m => { m with opAuth := true, challenge := none }) [] else err s stDenied 0 := by
  rw [ansOpAuth, hk, hc]
  rfl

theorem ansOpAuth_nothingToProve (h : s.mail.opSecret = none ∨ s.mail.challenge = none) : ansOpAuth 1 mac s = err s stDenied 0 := by
  rw [ansOpAuth, if_neg (by decide), if_pos rfl]
  split
  · rename_i hk hc
    simp [hk, hc] at h
  · rfl

theorem ansOpAuth_outOfRange (h : 1 < phase.toNat) : ansOpAuth phase mac s = err s stBadArg 0 := by
  rw [ansOpAuth, if_neg (by rintro rfl; simp at h), if_neg (by rintro rfl; simp at h)]

theorem runsAs_opAuth (hw : wellFormed (.opAuth r phase mac) = true) :
    RunsAs (.opAuth r phase mac) r 0x0801 setAny (ansOpAuth phase mac) s := if_pos hw

theorem ansOpSecretSet_smbus (h : r.path = .smbus) :
    ansOpSecretSet r secret s = ok (modMail s fun m => { m with opSecret := some secret }) [] := by rw [ansOpSecretSet, h]

theorem ansOpSecretSet_other (h : r.path ≠ .smbus) : ansOpSecretSet r secret s = err s stDenied 0 := by
  unfold ansOpSecretSet
  split
  · exact absurd ‹_› h
  · rfl

end

/-- Settles O13: each phase by its answer, and the secret by its path. -/
theorem operatorProvesTheSecret : Obligations.OperatorProvesTheSecret := by
  refine ⟨fun r phase mac s h hw => ⟨?_, ?_, ?_, ?_⟩, fun r k s h hk => ⟨?_, ?_⟩⟩
  · rintro rfl
    obtain ⟨t, run, kept, answer⟩ := serves_ok (runsAs_opAuth hw) h ansOpAuth_challenge rfl
    exact ⟨t, run, _, rfl, answer, kept⟩
  · rintro k ch rfl hs hc
    have answer := ansOpAuth_proof (mac := mac) hs hc
    exact ⟨fun same => serves_ok (runsAs_opAuth hw) h (answer.trans (if_pos same)) rfl,
      fun differ => serves_err (d := 0) (runsAs_opAuth hw) h (answer.trans (if_neg differ))⟩
  · rintro rfl none_
    exact serves_err (d := 0) (runsAs_opAuth hw) h (ansOpAuth_nothingToProve none_)
  · exact fun hp => serves_err (d := 0) (runsAs_opAuth hw) h (ansOpAuth_outOfRange hp)
  · exact fun hp => serves_ok (if_pos (by simp [wellFormed, hk])) h (ansOpSecretSet_smbus hp) rfl
  · exact fun hp => serves_err (d := 0) (if_pos (by simp [wellFormed, hk])) h (ansOpSecretSet_other hp)

/-! ### The commands of the power contract (R456, R457, R461, R466) -/

section
variable {r : Req} {w fast minute ramp floor : BitVec 32} {s : State}

/-- A value of 32 bits that is small stands in 16. -/
theorem setWidth16_toNat {v : BitVec 32} (h : v.toNat < 65536) : (v.setWidth 16).toNat = v.toNat := by
  rw [BitVec.toNat_setWidth, Nat.mod_eq_of_lt h]

theorem ansPwrTenantCap_inRange (h1 : 300 ≤ w.toNat) (h2 : w.toNat ≤ 3300) : ansPwrTenantCap w s =
    ok { s with pwr := { s.pwr with
          tenant := w.setWidth 16, inForce := BitVec.ofNat 16 (min (min s.pwr.con.fast.toNat (minuteTerm s))
            (min (currentCap s.pwr.last.volt) (max s.pwr.con.floor.toNat w.toNat))) } }
      (leBytes 4 (BitVec.ofNat 16 (min (min s.pwr.con.fast.toNat (minuteTerm s))
        (min (currentCap s.pwr.last.volt) (max s.pwr.con.floor.toNat w.toNat)))).toNat) := by
  have cap : capInForce (modPwr s fun p => { p with tenant := w.setWidth 16 }) =
      min (min s.pwr.con.fast.toNat (minuteTerm s)) (min (currentCap s.pwr.last.volt) (max s.pwr.con.floor.toNat w.toNat)) := by
    rw [capInForce, modPwr_pwr]
    dsimp only
    rw [setWidth16_toNat (by omega)]
    rfl
  rw [ansPwrTenantCap, if_neg (by simp [within, h1, h2])]
  dsimp only
  rw [cap]
  rfl

theorem ansPwrTenantCap_outOfRange (h : w.toNat < 300 ∨ 3300 < w.toNat) : ansPwrTenantCap w s = err s stBadArg 0 :=
  if_pos (by simp [within]; omega)

theorem ansOpContractSet_eq : ansOpContractSet fast minute ramp floor s =
    if 500 ≤ fast.toNat ∧ fast.toNat ≤ 3300 ∧ 500 ≤ minute.toNat ∧ minute.toNat ≤ fast.toNat ∧
        (ramp = 0 ∨ (5 ≤ ramp.toNat ∧ ramp.toNat ≤ 3300)) ∧ floor.toNat ≤ minute.toNat then
      ok (modPwr s fun p => { p with pend := some (Contract.mk (fast.setWidth 16) (minute.setWidth 16) (ramp.setWidth 16) (floor.setWidth 16)) }) []
    else err s stBadArg 0 := by
  unfold ansOpContractSet
  simp only [Bool.and_eq_true, Bool.or_eq_true, within_iff, beq_iff_eq, decide_eq_true_iff, and_assoc]

theorem coarse_eq (v : Nat) : coarse v = 250 * ((2 * v + 250) / 500) := rfl

theorem ansOpPwrRead_eq : ansOpPwrRead s =
    ok s ([(if s.hub.conf = 0 then 0 else 1), BitVec.ofNat 8 s.pwr.avgs.length] ++ leBytes 8 s.pwr.minuteNo ++
      s.pwr.avgs.flatMap fun a => leBytes 2 (if s.hub.conf = 0 then a.toNat else 250 * ((2 * a.toNat + 250) / 500))) := by
  have flag : BitVec.ofNat 8 (anyConf s).toNat = if s.hub.conf = 0 then 0 else 1 := by
    rw [anyConf]
    generalize s.hub.conf = v
    revert v
    decide
  have mode : anyConf s = true ↔ ¬s.hub.conf = 0 := by simp [anyConf]
  simp only [ansOpPwrRead, flag, mode, coarse_eq, ite_not]

theorem ansOpContractGet_eq : ansOpContractGet s =
    ok s (leBytes 4 s.pwr.con.fast.toNat ++ leBytes 4 s.pwr.con.minute.toNat ++ leBytes 4 s.pwr.con.ramp.toNat ++
      leBytes 4 s.pwr.con.floor.toNat ++ leBytes 4 s.pwr.tenant.toNat ++ leBytes 4 s.pwr.inForce.toNat) := by
  simp [ansOpContractGet]

end

/-! ### The end of a minute (R460) -/

/-- A counter of the lifetime record is no counter of the power-on minutes. -/
theorem pom_foldl {α : Type} {f : State → α → State} (h : ∀ s a, (f s a).diag.pom = s.diag.pom) (as : List α) (s : State) :
    (as.foldl f s).diag.pom = s.diag.pom := by
  induction as generalizing s with
  | nil => rfl
  | cons a as ih => exact (ih _).trans (h s a)

theorem frame_histograms (s : State) : AllBut [.diag, .free] s (histograms s) := by
  unfold histograms
  extract_lets bin s1 s2
  have h1 : AllBut [.diag] s s1 := by
    refine AllBut.foldl (fun s d => ?_) _ s
    exact frame_lifeAdd s _ _
  have h2 : AllBut [.diag, .free] s1 s2 := by
    refine AllBut.foldl (fun s d => ?_) _ s1
    exact (AllBut.mono (frame_drawFree s 4)).trans (.mono (frame_lifeAdd _ _ _))
  exact ((AllBut.mono h1).trans h2).trans (.mono (frame_lifeAdd s2 _ _))

theorem histograms_pom (s : State) : (histograms s).diag.pom = s.diag.pom := by
  unfold histograms
  extract_lets bin s1 s2
  have h1 : s1.diag.pom = s.diag.pom := by
    refine pom_foldl (fun s d => ?_) _ s
    rfl
  have h2 : s2.diag.pom = s1.diag.pom := by
    refine pom_foldl (fun s d => ?_) _ s1
    rfl
  exact h2.trans h1

/-- What the power block holds after a minute. -/
def nextMinute (m : Nat) (w : Power) : Power :=
  let avg : BitVec 16 := BitVec.ofNat 16 (if w.samples = 0 then 0 else w.sum / w.samples)
  { w with
    minute := avg, minuteNo := m, avgs := (avg :: w.avgs).take 60, sum := 0, samples := 0, limitedHeld := 0, missHeld := 0
    thermHeld := [], throttledMin := false, maxTj := w.curTj, minFreq := w.curFreq, curTj := Vector.replicate 4 0
    curFreq := Vector.replicate 4 0, maxEnv := w.curEnv, curEnv := Vector.replicate 3 0
    limitedMin := if w.limitedHeld != 0 then w.limitedMin + 1 else w.limitedMin
    missMin := if w.missHeld != 0 then w.missMin + 1 else w.missMin
    throttleMin := if w.throttledMin then w.throttleMin + 1 else w.throttleMin }

theorem frame_minuteNotice (s : State) (code : BitVec 16) (m : Nat) (b : Bytes) :
    AllBut [.mail, .told, .mailKept] s (minuteNotice s code m b) := by
  unfold minuteNotice postOperator
  exact frame_modMail s _

/-- The end of a minute moves the power block, the notices, the diagnosis block and what is drawn. -/
theorem endMinute_moves (m : Nat) (s : State) : AllBut [.mail, .told, .mailKept, .diag, .free, .pwr] s (endMinute m s) ∧
    (endMinute m s).pwr = nextMinute m s.pwr ∧ (endMinute m s).diag.pom = s.diag.pom + 1 := by
  unfold endMinute
  extract_lets w avg s1 s2 s3 s4 s5
  have notice : ∀ (u : State) (c : Prop) [Decidable c] (code : BitVec 16) (b : Bytes),
      AllBut [.mail, .told, .mailKept] u (if c then minuteNotice u code m b else u) := fun u c _ code b =>
    AllBut.ite (fun _ => frame_minuteNotice u _ _ _) fun _ => .refl _ u
  have h1 : AllBut [.mail, .told, .mailKept] s s1 := notice s _ _ _
  have h2 : AllBut [.mail, .told, .mailKept] s1 s2 := notice s1 _ _ _
  have h3 : AllBut [.mail, .told, .mailKept] s2 s3 := by
    show AllBut _ s2 (match w.thermHeld with
      | (d, e) :: _ => minuteNotice s2 0x0103 m [d, e]
      | [] => s2)
    split
    · exact frame_minuteNotice s2 _ _ _
    · exact .refl _ _
  have told := (h1.trans h2).trans h3
  have h5 : AllBut [.diag] s4 s5 := AllBut.ite (fun _ => frame_evidence _ _ _) fun _ => .refl _ _
  have pom5 : s5.diag.pom = s4.diag.pom := by
    show (if w.throttledMin = true then evidence s4 2 1 else s4).diag.pom = _
    split <;> rfl
  have h6 : AllBut [.diag, .free] s4 (histograms (modDiag s5 fun d => { d with pom := d.pom + 1 })) :=
    ((AllBut.mono h5).trans (.mono (frame_modDiag _ _))).trans (frame_histograms _)
  have h4 : AllBut [.pwr] s3 s4 := frame_modPwr _ _
  refine ⟨((AllBut.mono told).trans (.mono h4)).trans (.mono h6), ?_, ?_⟩
  · have held : s3.pwr = s.pwr := told .pwr (by decide)
    have here : s4.pwr = nextMinute m s.pwr := by
      show (modPwr s3 _).pwr = _
      rw [modPwr_pwr, held]
      rfl
    exact Eq.trans (h6 .pwr (by decide)) here
  · rw [histograms_pom]
    show s5.diag.pom + 1 = _
    have held : s4.diag = s.diag := told .diag (by decide)
    rw [pom5, held]

theorem minuteOpen_eq (s : State) : minuteOpen s = true ↔ minuteTicks ≤ s.time.now.toNat ∧
    (s.pwr.avgs = [] ∨ s.pwr.minuteNo ≠ s.time.now.toNat / minuteTicks - 1) := by
  have started : 1 ≤ s.time.now.toNat / minuteTicks ↔ minuteTicks ≤ s.time.now.toNat := by
    rw [Nat.le_div_iff_mul_le (by decide), Nat.one_mul]
  simp [minuteOpen, started]

theorem minuteEnd_closed {s : State} (h : belfryUp s = false ∨ minuteOpen s = false) : Leads .minuteEnd s s := by
  refine leads_done (u := s) ?_ (.refl s)
  show execMinuteEnd s = done s
  rw [execMinuteEnd, closeMinute]
  rcases h with h | h <;> simp [h]

theorem minuteEnd_open {s : State} (hb : belfryUp s = true) (ho : minuteOpen s = true) :
    exec .minuteEnd s = done (endMinute (s.time.now.toNat / minuteTicks - 1) s) := by
  show execMinuteEnd s = _
  rw [execMinuteEnd, closeMinute, if_pos hb, if_pos ho]

/-- Settles O12: the commands by their answers, the minute by what it moves. -/
theorem powerContractHolds : Obligations.PowerContractHolds := by
  refine ⟨fun r w fast minute ramp floor s => ⟨?_, ?_, ?_, ?_, ?_, ?_⟩, fun s => ⟨fun h => minuteEnd_closed ?_, ?_⟩⟩
  · exact fun h h1 h2 => ⟨_, rfl, serves_ok rfl h (ansPwrTenantCap_inRange h1 h2) rfl⟩
  · exact fun h bad => serves_err (d := 0) rfl h (ansPwrTenantCap_outOfRange bad)
  · exact fun h => ⟨fun terms => serves_ok rfl h (ansOpContractSet_eq.trans (if_pos terms)) rfl,
      fun terms => serves_err (d := 0) rfl h (ansOpContractSet_eq.trans (if_neg terms))⟩
  · exact fun h => serves_ok rfl h ansOpContractGet_eq rfl
  · exact fun h => serves_ok rfl h ansOpPwrRead_eq rfl
  · exact fun h => serves_ok rfl h rfl rfl
  · refine h.imp_right fun h => Bool.eq_false_iff.mpr fun ho => ?_
    obtain ⟨late, fresh⟩ := (minuteOpen_eq s).mp ho
    rcases h with h | ⟨hne, heq⟩
    · omega
    · exact fresh.elim hne (· heq)
  · intro hb late fresh
    obtain ⟨frame, pwr, pom⟩ := endMinute_moves (s.time.now.toNat / minuteTicks - 1) s
    have at_ : ∀ p : Part, p ∉ [.mail, .told, .mailKept, .diag, .free, .pwr] → p.Same s _ := fun p hp => frame p hp
    refine ⟨_, minuteEnd_open hb ((minuteOpen_eq s).mpr ⟨late, fresh⟩), ?_⟩
    rw [settle_pwr, settle_diag, settle_mem, settle_ctxs, settle_slots, settle_fab, settle_time, pwr]
    refine ⟨rfl, rfl, rfl, rfl, pom, rfl, rfl, ?_, ?_, frame .mem (by decide), frame .ctxs (by decide), frame .slots (by decide),
      frame .fab (by decide), frame .time (by decide)⟩ <;> simp [nextMinute]

/-! ### One armed time (R51, R53) -/

section
variable {s : State} {a : Armed} {c : Nat}

/-- R51: what the first evaluation of a time finds that lies `d` ticks ahead, modulo 2^40. -/
def firstVerdict (d : Nat) : Launch := if d = 0 then .onTime else if d < 2 ^ 39 then .wait else .late

/-- The ticks from now to an armed time, modulo 2^40. -/
def ahead (s : State) (a : Armed) : Nat := (a.t - s.time.now.setWidth 40).toNat

/-- R51: a time that waits fires at it or past it. -/
def hasCome (d : Nat) : Prop := d = 0 ∨ 2 ^ 39 ≤ d

theorem evalArmed_suspended (h : comparing s = false) : evalArmed s a = (.wait, a) := by simp [evalArmed, h]

theorem evalArmed_first (hh : a.held = false) (hc : comparing s = true) (hs : a.seen = none) :
    evalArmed s a = (firstVerdict (ahead s a), { a with seen := some (firstVerdict (ahead s a)) }) := by
  have look : lookNow s a = { a with seen := some (firstVerdict (ahead s a)) } := by simp [lookNow, firstLook, hh, hs, hc]; rfl
  simp only [evalArmed, hh, hc, look, hs]
  cases firstVerdict (ahead s a) <;> rfl

theorem evalArmed_waiting (hh : a.held = false) (hc : comparing s = true) (hs : a.seen = some .wait) :
    evalArmed s a = (evalLaunch a.t s.time.now false, a) := by simp [evalArmed, lookNow, hh, hc, hs]

theorem evalLaunch_come (h : hasCome (ahead s a)) : evalLaunch a.t s.time.now false = .onTime := by
  unfold evalLaunch
  rcases h with h | h
  · exact if_pos h
  · exact (ite_eq_left_iff.mpr fun _ => if_pos h)

theorem evalLaunch_ahead (h : ¬hasCome (ahead s a)) : evalLaunch a.t s.time.now false = .wait := by
  obtain ⟨later, near⟩ := not_or.mp h
  exact (if_neg later).trans (if_neg near)

theorem evalArmed_decided {v : Launch} (hh : a.held = false) (hc : comparing s = true) (hs : a.seen = some v) (hv : v ≠ .wait) :
    evalArmed s a = (v, a) := by
  cases v
  case wait => exact absurd rfl hv
  all_goals simp [evalArmed, lookNow, hh, hc, hs]

theorem comparing_iff : comparing s = true ↔ s.time.st = .locked ∨ s.time.st = .unlocked := by simp [comparing]

theorem comparing_of_suspended (h : s.time.st = .unset ∨ s.time.st = .acquiring) : comparing s = false := by
  rcases h with h | h <;> simp [comparing, h]

variable {keep : State → Armed → State} {act : State → State} {o : Option Armed}

/-- A time that is not to fire yet is kept as the evaluation left it. -/
theorem fireTimer_keeps {b : Armed} (ho : o = some a) (h : evalArmed s a = (.wait, b)) : fireTimer s o keep act = keep s b := by
  rw [ho, fireTimer, h]

theorem fireTimer_fires {b : Armed} (ho : o = some a) (h : evalArmed s a = (.onTime, b)) : fireTimer s o keep act = act s := by
  rw [ho, fireTimer, h]

theorem fireTimer_late {b : Armed} (ho : o = some a) (h : evalArmed s a = (.late, b)) :
    fireTimer s o keep act = act (countLate s) := by rw [ho, fireTimer, h]

/-- R51: what an armed time comes to while comparisons are active: it fires, counted when it was late, or it is kept with what the first
evaluation found. -/
theorem fireTimer_decides {v : Launch} (ho : o = some a) (hh : a.held = false) (hc : comparing s = true)
    (hv : v = a.seen.getD (firstVerdict (ahead s a))) :
    (v ≠ .wait ∨ (a.seen = some .wait ∧ hasCome (ahead s a)) →
      fireTimer s o keep act = act (if v = .late then countLate s else s)) ∧
    (v = .wait → a.seen = none ∨ ¬hasCome (ahead s a) → fireTimer s o keep act = keep s { a with seen := some .wait }) := by
  match hs : a.seen with
  | none =>
    have found := evalArmed_first hh hc hs
    rw [hs, Option.getD_none] at hv
    rw [← hv] at found
    refine ⟨fun h => ?_, fun h _ => ?_⟩
    · have fires : v ≠ .wait := h.resolve_right (fun h => nomatch h.1)
      cases v
      case wait => exact absurd rfl fires
      case onTime => exact fireTimer_fires ho found
      case late => exact fireTimer_late ho found
    · subst h
      exact fireTimer_keeps ho found
  | some .wait =>
    rw [hs, Option.getD_some] at hv
    subst hv
    have found := evalArmed_waiting hh hc hs
    refine ⟨fun h => ?_, fun _ h => ?_⟩
    · rw [evalLaunch_come (h.resolve_left (fun h => h rfl)).2] at found
      exact fireTimer_fires ho found
    · rw [evalLaunch_ahead (h.resolve_left nofun)] at found
      have same : { a with seen := some .wait } = a := by rw [← hs]
      rw [same]
      exact fireTimer_keeps ho found
  | some .onTime =>
    rw [hs, Option.getD_some] at hv
    subst hv
    exact ⟨fun _ => fireTimer_fires ho (evalArmed_decided hh hc hs nofun), nofun⟩
  | some .late =>
    rw [hs, Option.getD_some] at hv
    subst hv
    exact ⟨fun _ => fireTimer_late ho (evalArmed_decided hh hc hs nofun), nofun⟩

end

/-! ### The switch of an end-to-end key (R426) -/

section
variable {s : State} {a : Armed} {c : Nat}

theorem vector_set_self {α : Type} {n : Nat} (v : Vector α n) {i : Nat} (h : i < n) : v.setIfInBounds i v[i] = v := by
  ext j hj
  by_cases hij : i = j <;> simp [hij]

/-- A context written as it is leaves the state as it is. -/
theorem modCtx_same {s : State} {c : Nat} {f : Context → Context} (h : f (getCtx s c) = getCtx s c) : modCtx s c f = s := by
  by_cases hc : c < 64
  · rw [modCtx, h, setCtx, getCtx_eq_getElem s hc, vector_set_self]
  · exact modCtx_outOfBounds s (by omega) f

theorem fireE2e_eq : fireE2e s c = fireTimer s (getCtx s c).sec.e2eSwitch
    (fun s a => modSec s c fun z => { z with e2eSwitch := some a }) fun s => switchE2e s c := rfl

/-- What of a context's keys a step writes keeps its count of tag failures. -/
theorem NoLockout.modSec {f : CtxSec → CtxSec} (h : NoLockout s) (hf : ∀ z, (f z).tags = z.tags) : NoLockout (modSec s c f) := fun k => by
  by_cases hk : k = c
  · subst hk
    by_cases hb : k < 64
    · rw [Machine.modSec, getCtx_modCtx_same _ hb, hf]
      exact h k
    · rw [Machine.modSec, modCtx_outOfBounds s (by omega)]
      exact h k
  · rw [Machine.modSec, getCtx_modCtx_other s hk]
    exact h k

/-- A step that moves the contexts and the time block alone is settled but for these. -/
theorem settled_ctxsTime {u : State} (h : { s with ctxs := u.ctxs, time := u.time } = u) :
    Settled { s with ctxs := (settle u).ctxs, time := (settle u).time } (settle u) := by
  rw [settle_ctxs, settle_time, h]
  exact settle_settled u

theorem exec_e2eSwitch {c : Ctx} {i : Instr} {u : State} (hi : i = .launchFire (.e2e c) ∨ i = .e2eKeySwitch c)
    (hu : fireE2e s c.val = u) (hn : NoLockout u) : exec i s = .next (settle u) := by
  subst hu
  rcases hi with rfl | rfl
  · exact doneMem_eq hn
  · rfl

end

/-- Settles O17: what the evaluation of the one time finds decides whether the key switches. -/
theorem armedTimesDecideByR51 : Obligations.ArmedTimesDecideByR51 := by
  rintro c a d v i s hi hn ha hh rfl hv
  have at_ : ∀ (u : State) (f : CtxSec → CtxSec), getCtx u c.val = getCtx s c.val →
      getCtx (modSec u c.val f) c.val = { getCtx s c.val with sec := f (getCtx s c.val).sec } := fun u f hu => by
    rw [modSec, getCtx_modCtx_same u c.isLt, hu]
  refine ⟨fun off => ?_, fun on => ?_⟩
  · have stays : fireE2e s c.val = s :=
      (fireTimer_keeps ha (evalArmed_suspended (comparing_of_suspended off))).trans (modCtx_same (by rw [← ha]))
    exact ⟨_, exec_e2eSwitch hi stays hn, settle_settled s⟩
  · obtain ⟨fires, waits⟩ := fireTimer_decides (keep := fun s a => modSec s c.val fun z => { z with e2eSwitch := some a })
      (act := fun s => switchE2e s c.val) ha hh (comparing_iff.mpr on) hv
    by_cases hw : v ≠ .wait ∨ (a.seen = some .wait ∧ hasCome (ahead s a))
    · obtain ⟨u, hu⟩ : ∃ u, u = if v = .late then countLate s else s := ⟨_, rfl⟩
      have ctxs : u.ctxs = s.ctxs := by rw [hu]; split <;> rfl
      have same : ∀ k, getCtx u k = getCtx s k := getCtx_congr ctxs
      have free : NoLockout u := fun k => by rw [same]; exact hn k
      have run := exec_e2eSwitch (u := switchE2e u c.val) hi ((fires hw).trans (by rw [← hu])) (free.modSec fun _ => rfl)
      refine ⟨_, run, settled_ctxsTime ?_, fun k hk => ?_, ?_, fun _ => ?_, fun hv' wait => ?_⟩
      · rw [hu]; split <;> rfl
      · rw [getCtx_settle, switchE2e, modSec, getCtx_modCtx_other _ hk, same]
      · rw [settle_time, hu]
        show (if v = .late then countLate s else s).time = _
        split <;> rfl
      · rw [getCtx_settle, switchE2e, at_ u _ (same _)]
        exact ⟨rfl, rfl, rfl⟩
      · exact absurd hw (not_or.mpr ⟨(· hv'), fun ⟨h1, h2⟩ => (wait.elim (fun h => by simp [h] at h1) fun h => by
          unfold hasCome ahead at h2
          omega)⟩)
    · obtain ⟨waiting, before⟩ := not_or.mp hw
      have hv' : v = .wait := not_not.mp waiting
      have unseen : a.seen = none ∨ ¬hasCome (ahead s a) := by
        by_cases hs : a.seen = some .wait
        · exact .inr fun h => before ⟨hs, h⟩
        · refine .inl ?_
          match hs' : a.seen with
          | none => rfl
          | some w =>
            rw [hs', Option.getD_some] at hv
            exact absurd (hs'.trans (congrArg some (hv.symm.trans hv'))) hs
      have run := exec_e2eSwitch hi (waits hv' unseen) (NoLockout.modSec hn fun _ => rfl)
      refine ⟨_, run, settled_ctxsTime rfl, fun k hk => ?_, ?_, fun fire => absurd fire hw, fun _ _ => ?_⟩
      · rw [getCtx_settle, modSec, getCtx_modCtx_other _ hk]
      · rw [settle_time, if_neg (by simp [hv'])]
        rfl
      · rw [getCtx_settle, at_ s _ rfl]
        exact ⟨rfl, rfl⟩

end Sys2Proof.Machine
end

section
-- One proof after the other: a text of this length has more proofs waiting at once than the check has threads for.
set_option Elab.async false
/-! PROOFS. Settings of the device: records by their keys (R360), TIME_CONFIG, TIME_MASTER and ROUTE_WRITE (R354). -/
namespace Sys2Proof.Machine

/-! ### What a list of records sets -/

/-- Writing records one after the other leaves the last one of a key. -/
theorem mapGet?_records {α : Type} (key : α → Nat) (val : α → BitVec 64) (recs : List α) (m : AMap (BitVec 64)) (k : Nat) :
    mapGet? (recs.foldl (fun v r => mapSet v (key r) (val r)) m) k =
      ((recs.reverse.find? fun r => key r == k).map val).or (mapGet? m k) := by
  induction recs generalizing m with
  | nil => simp
  | cons r recs ih =>
    rw [List.foldl_cons, ih, List.reverse_cons, List.find?_append]
    cases recs.reverse.find? fun r => key r == k with
    | some x => simp
    | none =>
      by_cases hk : key r = k
      · subst hk
        simp [mapGet?_set_same]
      · simp [mapGet?_set_other m (Ne.symm hk), hk]

/-- A device setting depends on what the layers and the commands set. -/
theorem devSetting_congr {s t : State} (hv : t.mail.volatile = s.mail.volatile) (hl : ∀ k, layerValue t k = layerValue s k) (k : Nat) :
    devSetting t k = devSetting s k := by rw [devSetting, hv, hl, devSetting]

theorem layerValue_congr {s t : State} (hm : MailKept s.mail t.mail ∨ t.mail.factory = s.mail.factory ∧ t.mail.copyA = s.mail.copyA ∧
    t.mail.copyB = s.mail.copyB) (hh : HubKept s.hub t.hub) (ho : t.opt = s.opt) (k : Nat) : layerValue t k = layerValue s k := by
  have copies : t.mail.factory = s.mail.factory ∧ t.mail.copyA = s.mail.copyA ∧ t.mail.copyB = s.mail.copyB :=
    hm.elim (fun h => ⟨h.factory, h.copyA, h.copyB⟩) id
  obtain ⟨hf, ha, hb⟩ := copies
  simp only [layerValue, userRecs, copyInForce, hf, ha, hb, hh.safe, hh.cfgDefault, hh.profile, hh.cfgCopyB, ho]

theorem devSetting_settled {s t : State} (h : Settled s t) (k : Nat) : devSetting t k = devSetting s k :=
  devSetting_congr h.mail.volatile (layerValue_congr (.inl h.mail) h.hub h.out.opt) k

/-- Records of no regulator key set what the last of a key says. -/
theorem devSetting_setVolatile {s : State} {recs : List Setting} (h : ∀ r ∈ recs, isRegulKey r.key.toNat = false) (k : Nat) :
    devSetting (setVolatile s recs) k = lastOf recs k (devSetting s k) := by
  have written : (setVolatile s recs).mail.volatile = recs.foldl (fun v r => mapSet v r.key.toNat r.value) s.mail.volatile := by
    rw [setVolatile, modMail_mail]
    refine List.foldl_ext _ _ _ fun v r hr => ?_
    simp [h r hr]
  have layer : layerValue (setVolatile s recs) k = layerValue s k :=
    layerValue_congr (.inr ⟨rfl, rfl, rfl⟩) (.refl _) rfl k
  rw [devSetting, written, mapGet?_records, layer, lastOf, devSetting]
  cases recs.reverse.find? fun r => r.key.toNat == k <;> rfl

/-! ### TIME_CONFIG (R48, R50, R360) -/

section
variable {r : Req} {recs : List Setting} {s : State}

/-- The keys of TIME_CONFIG and their ranges. -/
theorem timeRecordOk_eq (v : Setting) : (keyKnown v.key.toNat && decide (0x100 ≤ v.key.toNat ∧ v.key.toNat ≤ 0x105) &&
    valueOk (fun _ => 0) 0 true v.key.toNat v.value.toNat && (!isRegulKey v.key.toNat || decide (v.scope.toNat < 4))) = timeRecordOk v := by
  unfold timeRecordOk
  generalize v.key.toNat = k
  by_cases hk : 0x100 ≤ k ∧ k ≤ 0x105
  · have known : keyKnown k = true := by simp [keyKnown, hk]
    have plain : isRegulKey k = false := by simp [isRegulKey]; omega
    obtain ⟨h1, h2⟩ := hk
    interval_cases k <;> simp [known, plain, valueOk, within]
  · have other : k ≠ 0x100 ∧ k ≠ 0x101 ∧ k ≠ 0x102 ∧ k ≠ 0x103 ∧ k ≠ 0x104 ∧ k ≠ 0x105 := by omega
    simp [hk, other]

theorem timeRecordOk_key {v : Setting} (h : timeRecordOk v = true) : isRegulKey v.key.toNat = false := by
  rw [← timeRecordOk_eq] at h
  simp only [Bool.and_eq_true, decide_eq_true_iff] at h
  obtain ⟨⟨⟨-, low, high⟩, -⟩, -⟩ := h
  simp [isRegulKey]
  omega

theorem firstBad_time (recs : List Setting) :
    firstBad (fun k => decide (0x100 ≤ k ∧ k ≤ 0x105)) (valueOk (fun _ => 0) 0 true) 4 recs = recs.findIdx? fun v => !timeRecordOk v := by
  simp only [firstBad, timeRecordOk_eq]

theorem runsAs_timeConfig (hw : wellFormed (.timeConfig r recs) = true) :
    RunsAs (.timeConfig r recs) r 0x0102 setUp (ansTimeConfig recs) s := if_pos hw

/-- A record command that fits its body has at most 253 records. -/
theorem recsOk_iff (h : 2 + 16 * recs.length ≤ bodyMax) : recsOk recs = true ↔ recs ≠ [] := by
  rw [recsOk, within_iff, ← List.length_pos_iff]
  simp only [bodyMax] at h
  omega

theorem length_timeConfig (hw : wellFormed (.timeConfig r recs) = true) : 2 + 16 * recs.length ≤ bodyMax := by
  simpa [wellFormed] using hw

/-- The first record that does not fit stands in a list that is not empty. -/
theorem findIdx?_ne_nil {α : Type} {p : α → Bool} {l : List α} {i : Nat} (h : l.findIdx? p = some i) : l ≠ [] := by
  rintro rfl
  simp at h

theorem ansTimeConfig_bad (hw : wellFormed (.timeConfig r recs) = true) {i : Nat} (h : recs.findIdx? (fun v => !timeRecordOk v) = some i) :
    ansTimeConfig recs s = err s stBadArg i := by
  have some_ := (recsOk_iff (length_timeConfig hw)).mpr (findIdx?_ne_nil h)
  rw [ansTimeConfig, some_, firstBad_time, h]
  rfl

theorem ansTimeConfig_good (hw : wellFormed (.timeConfig r recs) = true) (hn : recs ≠ []) (h : recs.all timeRecordOk = true) :
    ansTimeConfig recs s = ok (loadDevice (setVolatile s recs)) [] := by
  have none_ : recs.findIdx? (fun v => !timeRecordOk v) = none := by
    rw [List.findIdx?_eq_none_iff]
    simpa using h
  rw [ansTimeConfig, (recsOk_iff (length_timeConfig hw)).mpr hn, firstBad_time, none_]
  rfl

/-- R48, R50: the time block as the settings of a state set it. -/
def timeFrom (s : State) (t : TimeBlock) : TimeBlock :=
  { t with
    cadEnable := (devSetting s 0x100).toNat == 1, cadFalling := (devSetting s 0x101).toNat == 1,
    cadDiv := BitVec.ofNat 8 (devSetting s 0x102).toNat, cadStagger := BitVec.ofNat 16 (devSetting s 0x103).toNat,
    ppsEnable := (devSetting s 0x104).toNat == 1, ppsWidth := BitVec.ofNat 8 (devSetting s 0x105).toNat,
    slots := if (devSetting s 0x100).toNat = 1 then t.slots else [] }

/-- R50: TIME_PPS_OUT where no second has passed. -/
theorem drivePps_zero (s : State) : drivePps 0 s = { s with pins := { s.pins with
    pps := s.pins.pps && s.time.ppsEnable && comparing s &&
    decide (s.time.now.toNat % ticksPerSec < s.time.ppsWidth.toNat * ticksPerUs) } } := by
  unfold drivePps
  simp [Bool.and_assoc, Bool.and_comm, Bool.and_left_comm]

theorem loadDevice_moves (s : State) : (loadDevice s).time = timeFrom s s.time ∧
    (loadDevice s).pins = { s.pins with
      pps := s.pins.pps && (timeFrom s s.time).ppsEnable && comparing s &&
      decide (s.time.now.toNat % ticksPerSec < (timeFrom s s.time).ppsWidth.toNat * ticksPerUs) } ∧
    loadDevice s = { s with
      time := (loadDevice s).time, pins := (loadDevice s).pins, mem := { s.mem with policy := (loadDevice s).mem.policy } } := by
  unfold loadDevice
  simp only [drivePps_zero]
  exact ⟨rfl, rfl, rfl⟩

theorem timeConfig_sets (h : Ready 0x0102 setUp r s) (hw : wellFormed (.timeConfig r recs) = true) (hn : recs ≠ [])
    (hr : recs.all timeRecordOk = true) : ∃ t, exec (.timeConfig r recs) s = .next t ∧ Answers s t r 0x0102 0x00 [] ∧
      (∀ k, devSetting t k = lastOf recs k (devSetting s k)) ∧ t.time = timeFrom t s.time ∧
      t.pins = { s.pins with
        pps := s.pins.pps && t.time.ppsEnable && comparing s &&
        decide (s.time.now.toNat % ticksPerSec < t.time.ppsWidth.toNat * ticksPerUs) } ∧
      Settled { s with
        time := t.time, pins := t.pins, mem := { s.mem with policy := t.mem.policy }, mail := { s.mail with volatile := t.mail.volatile } } t := by
  obtain ⟨u, hu⟩ : ∃ u, u = loadDevice (setVolatile s recs) := ⟨_, rfl⟩
  have answer := hu ▸ ansTimeConfig_good (s := s) hw hn hr
  have moved := loadDevice_moves (setVolatile s recs)
  rw [← hu] at moved
  obtain ⟨time, pins, rest⟩ := moved
  have responses : u.mail.responses = s.mail.responses := by rw [rest]; rfl
  obtain ⟨t, run, kept, answered⟩ := serves_ok (runsAs_timeConfig hw) h answer responses
  have set_ : ∀ k, devSetting t k = devSetting (setVolatile s recs) k := fun k => by
    rw [devSetting_settled kept, rest]
    exact devSetting_congr rfl (layerValue_congr (.inr ⟨rfl, rfl, rfl⟩) (.refl _) rfl) k
  have now : t.time = timeFrom t s.time := by
    rw [kept.out.time, time]
    simp only [timeFrom, set_]
    rfl
  refine ⟨t, run, answered, fun k => ?_, now, ?_, ?_⟩
  · rw [set_]
    exact devSetting_setVolatile (fun r hr' => timeRecordOk_key (List.all_eq_true.mp hr r hr')) k
  · rw [kept.out.pins, kept.out.time, pins, ← time]
    rfl
  · have same : { s with
        time := t.time, pins := t.pins, mem := { s.mem with policy := t.mem.policy }
        mail := { s.mail with volatile := t.mail.volatile } } = u := by
      rw [kept.out.time, kept.out.pins, kept.out.mem, kept.mail.volatile]
      exact rest.symm ▸ rfl
    rw [same]
    exact kept

end

/-! ### The load of Fabric Time (R41, R42) -/

section
variable {s : State}

theorem lookNow_congr {s t : State} (h : t.time = s.time) (a : Armed) : lookNow t a = lookNow s a := by
  unfold lookNow firstLook comparing
  rw [h]

/-- What has left the module may have grown. -/
theorem settled_outbox {o : List Output} (h : s.outbox <:+ o) : Settled s { s with outbox := o } :=
  ⟨by constructor <;> first | exact rfl | exact h, .refl _, .refl _⟩

/-- R50: TIME_PPS_OUT moves its pin, and shows a rise outside. -/
theorem drivePps_moves (n : Nat) (s : State) : ∃ p o, drivePps n s = { s with pins := p, outbox := o } ∧ s.outbox <:+ o := by
  unfold drivePps
  dsimp only
  split
  · exact ⟨_, _, rfl, List.suffix_cons _ _⟩
  · exact ⟨_, _, rfl, List.suffix_rfl⟩

/-- The time block after the load. -/
def loadedTime (now : BitVec 64) (err : Nat) (t : TimeBlock) : TimeBlock :=
  { t with
    now := now, err := err, errValid := true, slew := 0, good := 0, holdover := false
    st := if err ≤ 10 * errNs then .locked else .unlocked
    unlockCount := if err ≤ 10 * errNs then t.unlockCount else t.unlockCount + 1 }

/-- R42: what is armed once the load has been evaluated. -/
def lookedLoad (s : State) (now : BitVec 64) (err : Nat) : State := mapArmed (lookNow (modTime s (loadedTime now err))) s

/-- R42: the load moves the time block, evaluates what is armed, drives TIME_PPS_OUT, and records an entry into UNLOCKED. -/
theorem acquired_moves (s : State) (now : BitVec 64) (err : Nat) : ∃ p d o, acquired s now err =
    { lookedLoad s now err with time := loadedTime now err s.time, pins := p, diag := d, outbox := o } ∧ s.outbox <:+ o ∧
    (err ≤ 10 * errNs → d = (lookedLoad s now err).diag) := by
  unfold acquired
  extract_lets s1 s2
  obtain ⟨diag, h2, hd⟩ : ∃ d, s2 = { s with time := loadedTime now err s.time, diag := d } ∧ (err ≤ 10 * errNs → d = s.diag) := by
    show ∃ d, (if err ≤ 10 * errNs then modTime s1 fun t => { t with st := .locked } else toUnlocked s1) = _ ∧ _
    split
    · exact ⟨s.diag, by simp [loadedTime, s1, modTime, *], fun _ => rfl⟩
    · exact ⟨(toUnlocked s1).diag, by simp [loadedTime, s1, modTime, toUnlocked, lifeAdd, modDiag, *], fun h => absurd h ‹_›⟩
  have look : lookNow s2 = lookNow (modTime s (loadedTime now err)) := funext fun a => lookNow_congr (by rw [h2]; rfl) a
  obtain ⟨p, o, moved, suffix⟩ := drivePps_moves 1 (mapArmed (lookNow s2) s2)
  rw [moved, look]
  refine ⟨p, (mapArmed (lookNow (modTime s (loadedTime now err))) s2).diag, o, ?_, ?_, fun he => ?_⟩
  · rw [h2]
    rfl
  · have same : (mapArmed (lookNow s2) s2).outbox = s.outbox := by rw [h2]; rfl
    rwa [same] at suffix
  · rw [h2, hd he]
    rfl

end

/-! ### TIME_MASTER (R45) -/

section
variable {r : Req} {epoch : BitVec 64} {gen : BitVec 16} {s : State}

/-- R45: the time block of a module that is told to be master, before its time is loaded. -/
def mastered (s : State) (gen : BitVec 16) : State :=
  modTime s fun t => { t with
    master := true, masterAddr := s.fab.addr, gen := gen.setWidth 15, seen := [], parent := none, hops := 0, hadParent := true }

/-- R45: the state after TIME_MASTER: with a load, or on the module's own time. -/
def asMaster (s : State) (epoch : BitVec 64) (gen : BitVec 16) : State :=
  if s.time.st = .unset ∨ s.time.st = .acquiring then acquired (mastered s gen) epoch 0
  else modTime (mastered s gen) fun t => { t with st := .locked, err := 0, errValid := true, holdover := false, slew := 0, good := 0 }

theorem ansTimeMaster_eq : ansTimeMaster epoch gen s =
    if 2 ^ 15 ≤ gen.toNat ∨ (s.time.st ≠ .unset ∧ gen.setWidth 15 ≠ s.time.gen + 1) then err s stBadArg 0
    else ok (asMaster s epoch gen) (leBytes 4 (timeStatus (asMaster s epoch gen)).toNat) := by
  unfold ansTimeMaster asMaster
  simp [mastered]

/-- What every taken TIME_MASTER leaves. -/
theorem asMaster_time : (asMaster s epoch gen).time.st = .locked ∧ (asMaster s epoch gen).time.master = true ∧
    (asMaster s epoch gen).time.gen = gen.setWidth 15 ∧ (asMaster s epoch gen).time.masterAddr = s.fab.addr ∧
    (asMaster s epoch gen).time.err = 0 ∧ (asMaster s epoch gen).time.errValid = true ∧ (asMaster s epoch gen).time.parent = none ∧
    (asMaster s epoch gen).time.holdover = false ∧ (asMaster s epoch gen).time.hops = 0 ∧
    (asMaster s epoch gen).time.lateLaunch = s.time.lateLaunch ∧ (asMaster s epoch gen).time.unlockCount = s.time.unlockCount := by
  unfold asMaster
  split
  · obtain ⟨p, d, o, loaded, -, -⟩ := acquired_moves (mastered s gen) epoch 0
    rw [loaded]
    exact ⟨rfl, rfl, rfl, rfl, rfl, rfl, rfl, rfl, rfl, rfl, rfl⟩
  · exact ⟨rfl, rfl, rfl, rfl, rfl, rfl, rfl, rfl, rfl, rfl, rfl⟩

theorem asMaster_responses : (asMaster s epoch gen).mail.responses = s.mail.responses := by
  unfold asMaster
  split
  · obtain ⟨p, d, o, loaded, -, -⟩ := acquired_moves (mastered s gen) epoch 0
    rw [loaded]
    rfl
  · rfl

/-- R45, R42: TIME_MASTER of a module without time loads the epoch. -/
theorem asMaster_loads (h : s.time.st = .unset ∨ s.time.st = .acquiring) : (asMaster s epoch gen).time.now = epoch ∧
    Settled { mapArmed (lookNow (asMaster s epoch gen)) s with
      time := (asMaster s epoch gen).time, pins := (asMaster s epoch gen).pins } (asMaster s epoch gen) := by
  rw [asMaster, if_pos h]
  obtain ⟨p, d, o, loaded, suffix, diag⟩ := acquired_moves (mastered s gen) epoch 0
  have look : lookNow (acquired (mastered s gen) epoch 0) = lookNow (modTime (mastered s gen) (loadedTime epoch 0)) :=
    funext fun a => lookNow_congr (by rw [loaded]; rfl) a
  rw [look, loaded, diag (Nat.zero_le _)]
  exact ⟨rfl, settled_outbox suffix⟩

theorem asMaster_goesOn (h : ¬(s.time.st = .unset ∨ s.time.st = .acquiring)) : (asMaster s epoch gen).time.now = s.time.now ∧
    { s with time := (asMaster s epoch gen).time } = asMaster s epoch gen := by
  rw [asMaster, if_neg h]
  exact ⟨rfl, rfl⟩

theorem timeStatus_congr {s t : State} (h : t.time = s.time) : timeStatus t = timeStatus s := by rw [timeStatus, h, timeStatus]

theorem timeMaster_taken (h : Ready 0x0101 setUp r s) (hg : gen.toNat < 2 ^ 15) (hs : s.time.st = .unset ∨ gen.setWidth 15 = s.time.gen + 1) :
    ∃ t, exec (.timeMaster r epoch gen) s = .next t ∧ Answers s t r 0x0101 0x00 (leBytes 4 (timeStatus t).toNat) ∧
      Settled (asMaster s epoch gen) t := by
  have taken : ¬(2 ^ 15 ≤ gen.toNat ∨ (s.time.st ≠ .unset ∧ gen.setWidth 15 ≠ s.time.gen + 1)) :=
    not_or.mpr ⟨by omega, fun ⟨h1, h2⟩ => hs.elim h1 h2⟩
  have runs : RunsAs (.timeMaster r epoch gen) r 0x0101 setUp (ansTimeMaster epoch gen) s := rfl
  obtain ⟨t, run, kept, answered⟩ := serves_ok runs h (ansTimeMaster_eq.trans (if_neg taken)) asMaster_responses
  exact ⟨t, run, timeStatus_congr kept.out.time ▸ answered, kept⟩

end

/-! ### ROUTE_WRITE (R267) -/

section
variable {r : Req} {first : BitVec 32} {date : BitVec 16} {es : List (BitVec 16)} {s : State}

/-- A run of entries written one after the other stands at its places, and nothing else has moved. -/
theorem mapGet_written {α : Type} (es : List α) (first b : Nat) (m : AMap α) (a : Nat) (d e : α) :
    mapGet (((List.range' b es.length).zip es).foldl (fun m p => mapSet m (first + p.1) p.2) m) a d =
      if first + b ≤ a ∧ a < first + b + es.length then es.getD (a - (first + b)) e else mapGet m a d := by
  induction es generalizing b m with
  | nil => simp
  | cons x es ih =>
    rw [List.length_cons, List.range'_succ, List.zip_cons_cons, List.foldl_cons, ih]
    by_cases here : a = first + b
    · subst here
      simp
    · rw [mapGet_set_other m here]
      by_cases after : first + (b + 1) ≤ a ∧ a < first + (b + 1) + es.length
      · rw [if_pos after, if_pos (by omega), show a - (first + b) = a - (first + (b + 1)) + 1 by omega, List.getD_cons_succ]
      · rw [if_neg after, if_neg (by omega)]

/-- R267: the table after ROUTE_WRITE. -/
def routesWritten (s : State) (first : BitVec 32) (es : List (BitVec 16)) : AMap (BitVec 16) :=
  ((List.range es.length).zip es).foldl (fun m p => mapSet m (first.toNat + p.1) p.2) s.fab.routes

theorem mapGet_routesWritten (a : Nat) : mapGet (routesWritten s first es) a 0x00FF =
    if first.toNat ≤ a ∧ a < first.toNat + es.length then es.getD (a - first.toNat) 0 else mapGet s.fab.routes a 0x00FF := by
  have written := mapGet_written es first.toNat 0 s.fab.routes a 0x00FF 0
  rw [← List.range_eq_range'] at written
  exact written

theorem ansRouteWrite_bounds (h : es = [] ∨ 2000 < es.length ∨ 131072 < first.toNat + es.length ∨ 2 ^ groupCount s ≤ date.toNat) :
    ansRouteWrite first date es s = err s stBadArg 0 := by
  refine if_pos ?_
  simp only [Bool.or_eq_true, Bool.not_eq_true', decide_eq_true_iff, ← Bool.not_eq_true, within_iff]
  rcases h with rfl | h | h | h
  · simp
  · omega
  · omega
  · exact .inr h

theorem ansRouteWrite_inBounds (h1 : 1 ≤ es.length) (h2 : es.length ≤ 2000) (h3 : first.toNat + es.length ≤ 131072)
    (h4 : date.toNat < 2 ^ groupCount s) : ansRouteWrite first date es s =
      match es.findIdx? fun e => !routeOk s e with
      | some i => err s stBadArg i
      | none => ok (modFab s fun f => { f with
          routes := routesWritten s first es, dateline := date.setWidth 9, routeGen := f.routeGen + 1 })
          (leBytes 4 (s.fab.routeGen + 1).toNat) := by
  have inside : (!within 1 2000 es.length || decide (131072 < first.toNat + es.length) ||
      decide (2 ^ groupCount s ≤ date.toNat)) = false := by simp [within, h1, h2, h3, h4]
  rw [ansRouteWrite, inside]
  rfl

theorem runsAs_routeWrite (hw : wellFormed (.routeWrite r first date es) = true) :
    RunsAs (.routeWrite r first date es) r 0x0103 setLive (ansRouteWrite first date es) s := if_pos hw

theorem routeOk_iff (s : State) (e : BitVec 16) : routeOk s e = true ↔
    e.toNat < 256 ∧ (e.toNat % 16 < groupCount s ∨ e.toNat % 16 = 0xE ∨ e.toNat % 16 = 0xF) ∧
    (e.toNat / 16 % 16 < groupCount s ∨ e.toNat / 16 % 16 = 0xE ∨ e.toNat / 16 % 16 = 0xF) ∧
    ¬(e.toNat % 16 ≤ 8 ∧ e.toNat / 16 % 16 = e.toNat % 16) := by
  have high : e.toNat / 256 = 0 ↔ e.toNat < 256 := by omega
  simp only [routeOk, routeCodeOk, Bool.and_eq_true, Bool.or_eq_true, Bool.not_eq_true', ← Bool.not_eq_true, decide_eq_true_iff,
    beq_iff_eq, high]
  tauto

end

/-- Settles O10: each command by its answer. -/
theorem timeBlockAndRoutesAreSet : Obligations.TimeBlockAndRoutesAreSet := by
  refine ⟨fun r recs s h hw => ⟨fun hn hr => timeConfig_sets h hw hn hr, ?_, fun i hi => ?_⟩,
    fun r epoch gen s h => ⟨fun hg hs => ?_, fun bad => ?_⟩, fun r first date es s h hw => ⟨fun h1 h2 h3 h4 => ⟨?_, ?_⟩, fun bad => ?_⟩,
    routeOk_iff⟩
  · rintro rfl
    exact refuses_err (runsAs_timeConfig hw) h rfl
  · exact refuses_err (runsAs_timeConfig hw) h (ansTimeConfig_bad hw hi)
  · obtain ⟨t, run, answered, kept⟩ := timeMaster_taken (epoch := epoch) h hg hs
    obtain ⟨st, master, g, addr, err, valid, parent, holdover, hops, late, count⟩ := asMaster_time (s := s) (epoch := epoch) (gen := gen)
    have time := kept.out.time
    refine ⟨t, run, answered, ?_⟩
    have look : ∀ u : State, mapArmed (lookNow t) u = mapArmed (lookNow (asMaster s epoch gen)) u := fun u =>
      congrArg (mapArmed · u) (funext (lookNow_congr time))
    rw [look, time, kept.out.pins]
    refine ⟨st, master, g, addr, err, valid, parent, holdover, hops, late, count, fun load => ?_, fun h1 h2 => ?_⟩
    · exact ⟨(asMaster_loads load).1, (asMaster_loads load).2.trans kept⟩
    · obtain ⟨now, same⟩ := asMaster_goesOn (epoch := epoch) (gen := gen) (s := s) (not_or.mpr ⟨h1, h2⟩)
      exact ⟨now, by rw [same]; exact kept⟩
  · exact serves_err (d := 0) rfl h (ansTimeMaster_eq.trans (if_pos bad))
  · intro hr
    have none_ : es.findIdx? (fun e => !routeOk s e) = none := by
      rw [List.findIdx?_eq_none_iff]
      simpa using hr
    have answer := ansRouteWrite_inBounds (es := es) h1 h2 h3 h4
    rw [none_] at answer
    obtain ⟨t, run, kept, answered⟩ := serves_ok (runsAs_routeWrite hw) h answer rfl
    refine ⟨t, run, answered, ?_⟩
    rw [kept.out.fab]
    exact ⟨rfl, rfl, kept, fun a => mapGet_routesWritten a⟩
  · intro i hi
    have answer := ansRouteWrite_inBounds (es := es) h1 h2 h3 h4
    rw [hi] at answer
    exact refuses_err (runsAs_routeWrite hw) h answer
  · exact refuses_err (runsAs_routeWrite hw) h (ansRouteWrite_bounds bad)

end Sys2Proof.Machine
end

section
-- One proof after the other: a text of this length has more proofs waiting at once than the check has threads for.
set_option Elab.async false
/-! PROOFS. Fabric Time: frames (R38, R39), exchanges and the states (R41 to R43), the tick of an empty queue, TIME_PPS_OUT (R50). -/
namespace Sys2Proof.Machine

/-! ### Time frames (R38, R39, R45) -/

section
variable {s : State} {p : Nat} {f : TimeFrame} {t : TimeBlock} {h : BitVec 8}

/-- R39: the hops of a module behind a frame. -/
def hopsBehind (f : TimeFrame) : BitVec 8 := if f.hops = 0xFF then 0xFF else f.hops + 1

@[simp] theorem takeParent_now (now : BitVec 64) : (takeParent p h now t).now = t.now := rfl
@[simp] theorem takeParent_err (now : BitVec 64) : (takeParent p h now t).err = t.err := rfl
@[simp] theorem takeParent_st (now : BitVec 64) : (takeParent p h now t).st = t.st := rfl
@[simp] theorem takeParent_gen (now : BitVec 64) : (takeParent p h now t).gen = t.gen := rfl
@[simp] theorem takeParent_masterAddr (now : BitVec 64) : (takeParent p h now t).masterAddr = t.masterAddr := rfl
@[simp] theorem takeParent_parent (now : BitVec 64) : (takeParent p h now t).parent = some p := rfl

/-- Counting a master address moves the count alone. -/
theorem countConflict_moves (a : BitVec 17) (t : TimeBlock) :
    ∃ c l, countConflict a t = { t with conflict := c, seen := l } ∧ c = if a.toNat ∈ t.seen then t.conflict else t.conflict + 1 := by
  unfold countConflict
  split
  · rename_i counted
    exact ⟨t.conflict, t.seen, rfl, (if_pos (List.contains_iff_mem.mp counted)).symm⟩
  · rename_i fresh
    exact ⟨_, _, rfl, (if_neg (mt List.contains_iff_mem.mpr fresh)).symm⟩

theorem onFrame_unset (hs : t.st = .unset) : onFrame p f t = takeParent p f.hops t.now
    { t with gen := f.gen, seen := [], masterAddr := f.master, st := .acquiring, acqStart := t.now } := by
  simp [onFrame, hs]

theorem genNewer_iff {a b : BitVec 15} : genNewer a b = true ↔ 1 ≤ (a - b).toNat ∧ (a - b).toNat ≤ 2 ^ 14 - 1 := by
  simp only [genNewer, Bool.and_eq_true, decide_eq_true_iff]

theorem not_genNewer_self (a : BitVec 15) : ¬genNewer a a = true := by simp [genNewer_iff]

theorem onFrame_newer (hs : t.st ≠ .unset) (hg : genNewer f.gen t.gen = true) : onFrame p f t = takeParent p f.hops t.now
    { t with gen := f.gen, seen := [], masterAddr := f.master, master := false, parent := if t.master then none else t.parent } := by
  simp [onFrame, hs, hg]

theorem onFrame_older (hs : t.st ≠ .unset) (hg : ¬genNewer f.gen t.gen = true) (hd : f.gen ≠ t.gen) : onFrame p f t = t := by
  simp [onFrame, hs, hg, hd]

theorem onFrame_master (hs : t.st ≠ .unset) (hg : f.gen = t.gen) (hm : t.master = true) :
    onFrame p f t = if f.master = t.masterAddr then t else countConflict f.master t := by
  rw [onFrame, if_neg hs, hg, if_neg (not_genNewer_self _), if_neg (not_not.mpr rfl), if_pos hm]

theorem onFrame_follower (hs : t.st ≠ .unset) (hg : f.gen = t.gen) (hm : t.master = false) : onFrame p f t = sameGen p f t := by
  rw [onFrame, if_neg hs, hg, if_neg (not_genNewer_self _), if_neg (not_not.mpr rfl), if_neg (by simp [hm])]

theorem sameGen_higher (h : t.masterAddr.toNat < f.master.toNat) : sameGen p f t = countConflict f.master t := by
  have differ : f.master ≠ t.masterAddr := fun e => by rw [e] at h; omega
  obtain ⟨c, l, counted, -⟩ := countConflict_moves f.master t
  unfold sameGen
  extract_lets lower counting t1
  have higher : lower = false := decide_eq_false (by omega)
  have counts : t1 = countConflict f.master t := by simp [t1, differ, higher]
  rw [counts, if_pos]
  rw [counted]
  exact differ

theorem sameGen_lower (h : f.master.toNat < t.masterAddr.toNat) : (sameGen p f t).parent = some p ∧
    (sameGen p f t).masterAddr = f.master ∧ (sameGen p f t).hops = hopsBehind f ∧ (sameGen p f t).now = t.now ∧
    (sameGen p f t).err = t.err := by
  have differ : f.master ≠ t.masterAddr := fun e => by rw [e] at h; omega
  obtain ⟨c, l, counted, -⟩ := countConflict_moves t.masterAddr t
  unfold sameGen
  extract_lets lower counting t1 hops
  have lower_ : lower = true := decide_eq_true h
  have follows : t1 = { t with conflict := c, seen := l, masterAddr := f.master } := by simp [t1, counting, differ, lower_, counted]
  rw [follows, if_neg (not_not.mpr rfl)]
  match hp : t.parent with
  | none => exact ⟨rfl, rfl, rfl, rfl, rfl⟩
  | some q =>
    dsimp only
    split
    · rename_i same
      exact ⟨congrArg some same, rfl, rfl, rfl, rfl⟩
    · rw [if_pos (.inl lower_)]
      exact ⟨rfl, rfl, rfl, rfl, rfl⟩

theorem sameGen_same (h : f.master = t.masterAddr) : sameGen p f t =
    match t.parent with
    | none => takeParent p f.hops t.now t
    | some q =>
      if q = p then { t with hops := hopsBehind f, parentFrame := t.now }
      else if (hopsBehind f).toNat < t.hops.toNat ∨ (hopsBehind f = t.hops ∧ p < q) then takeParent p f.hops t.now t
      else t := by
  unfold sameGen
  simp [h, hopsBehind] <;> rfl

theorem sameGen_same_parent (h : f.master = t.masterAddr) : (sameGen p f t).masterAddr = f.master ∧
    (sameGen p f t).now = t.now ∧ (sameGen p f t).err = t.err ∧
    (sameGen p f t).parent = (match t.parent with
      | none => some p
      | some q => if q = p then some q
        else if (hopsBehind f).toNat < t.hops.toNat ∨ (hopsBehind f = t.hops ∧ p < q) then some p else some q) := by
  rw [sameGen_same h]
  match hp : t.parent with
  | none => exact ⟨h.symm, rfl, rfl, rfl⟩
  | some q =>
    dsimp only
    split
    · exact ⟨h.symm, rfl, rfl, rfl⟩
    · split
      · exact ⟨h.symm, rfl, rfl, rfl⟩
      · exact ⟨h.symm, rfl, rfl, hp⟩

/-- R39: a time frame does not move TIME_NOW or the error estimate. -/
theorem onFrame_clock (p : Nat) (f : TimeFrame) (t : TimeBlock) : (onFrame p f t).now = t.now ∧ (onFrame p f t).err = t.err := by
  by_cases hs : t.st = .unset
  · rw [onFrame_unset hs]
    exact ⟨rfl, rfl⟩
  by_cases hn : genNewer f.gen t.gen = true
  · rw [onFrame_newer hs hn]
    exact ⟨rfl, rfl⟩
  by_cases hg : f.gen = t.gen
  · have counts : ∀ a, (countConflict a t).now = t.now ∧ (countConflict a t).err = t.err := fun a => by
      obtain ⟨c, l, counted, -⟩ := countConflict_moves a t
      rw [counted]
      exact ⟨rfl, rfl⟩
    cases hm : t.master
    · rw [onFrame_follower hs hg hm]
      rcases Nat.lt_trichotomy f.master.toNat t.masterAddr.toNat with h | h | h
      · exact ⟨(sameGen_lower h).2.2.2.1, (sameGen_lower h).2.2.2.2⟩
      · exact ⟨(sameGen_same_parent (BitVec.eq_of_toNat_eq h)).2.1, (sameGen_same_parent (BitVec.eq_of_toNat_eq h)).2.2.1⟩
      · rw [sameGen_higher h]
        exact counts _
    · rw [onFrame_master hs hg hm]
      split
      · exact ⟨rfl, rfl⟩
      · exact counts _
  · rw [onFrame_older hs hn hg]
    exact ⟨rfl, rfl⟩

theorem exec_timeFrame (p : Port) (f : TimeFrame) (s : State) : exec (.timeFrame p f) s =
    done (modPort (modTime s (onFrame p.val f)) p.val fun b => { b with frameAt := s.time.now.setWidth 68 <<< 4 }) := rfl

end

/-- Settles O14: a frame by the generation it names, and, in the one followed, by its master. -/
theorem timeFramesFlow : Obligations.TimeFramesFlow := by
  refine ⟨fun p s => ⟨fun up => ?_, fun down rest => ?_⟩, fun p f s => ⟨_, hopsBehind f, exec_timeFrame p f s, rfl, ?_⟩⟩
  · have run : exec (.timeFrameSend p) s = done (emit s (.linkFrame p.val (frameOut s p.val))) := congrArg done (if_pos up)
    exact leads_done run (.refl _)
  · have run : exec (.timeFrameSend p) s = done s := congrArg done (if_neg down)
    rw [run, done_next, settle_atRest rest]
  · obtain ⟨u, hu⟩ : ∃ u, u = onFrame p.val f s.time := ⟨_, rfl⟩
    have time : (settle (modPort (modTime s (onFrame p.val f)) p.val fun b => { b with frameAt := s.time.now.setWidth 68 <<< 4 })).time = u := by
      rw [settle_time, hu]
      rfl
    rw [time]
    refine ⟨?_, hu ▸ (onFrame_clock _ _ _).1, hu ▸ (onFrame_clock _ _ _).2, fun hs => ?_, fun hs h1 h2 => ?_, fun hs hg => ?_,
      fun hs hg hm => ?_, fun hs hg hm hl => ?_, fun hs hg hm hl => ?_, fun hs hg hm he => ?_⟩
    · rw [hu]
      exact settle_settled _
    · rw [hu, onFrame_unset hs]
      exact ⟨rfl, rfl, rfl, rfl, rfl, rfl⟩
    · rw [hu, onFrame_newer hs (genNewer_iff.mpr ⟨h1, h2⟩)]
      exact ⟨rfl, rfl, rfl, rfl, rfl, rfl, rfl, rfl⟩
    · have older : ¬genNewer f.gen s.time.gen = true := fun newer => by have := (genNewer_iff.mp newer).2; omega
      have differ : f.gen ≠ s.time.gen := fun e => by rw [e, BitVec.sub_self] at hg; simp at hg
      rw [hu, onFrame_older hs older differ]
    · rw [hu, onFrame_master hs hg hm]
      split
      · exact ⟨hm, rfl, rfl, (if_pos (.inl ‹_›)).symm⟩
      · obtain ⟨c, l, counted, hc⟩ := countConflict_moves f.master s.time
        rw [counted]
        refine ⟨hm, rfl, rfl, hc.trans ?_⟩
        simp [*]
    · obtain ⟨c, l, counted, -⟩ := countConflict_moves f.master s.time
      rw [hu, onFrame_follower hs hg hm, sameGen_higher hl, counted]
      exact ⟨rfl, rfl⟩
    · obtain ⟨parent, addr, hops, -, -⟩ := sameGen_lower (p := p.val) hl
      rw [hu, onFrame_follower hs hg hm]
      exact ⟨parent, addr, hops⟩
    · obtain ⟨addr, -, -, parent⟩ := sameGen_same_parent (p := p.val) he
      rw [hu, onFrame_follower hs hg hm]
      exact ⟨addr, parent⟩

/-! ### Exchanges (R39, R41, R42) -/

section
variable {s : State} {p : Port} {x : Exchange}

/-- R405: without an injection none is taken. -/
theorem takeInjection_none (h : NoInjection s) (q : Injection → Bool) : takeInjection s q = (s, none) := by
  unfold takeInjection
  split
  · rename_i found
    obtain ⟨i, -, hi⟩ := List.exists_of_findSome?_eq_some found
    simp [h i] at hi
  · rfl

theorem stepExchange_plain (h : NoInjection s) (p : Nat) (x : Exchange) : stepExchange p x s = (s, x) := by
  rw [stepExchange, takeInjection_none h]
  rfl

/-- The correction of an offset: the nearest whole tick, a tie to even. -/
theorem correction_nearest (off : Int) : 2 * (off - 16 * -correction off).natAbs ≤ 16 ∧
    ((off - 16 * -correction off).natAbs = 8 → -correction off % 2 = 0) := by
  unfold correction
  dsimp only
  split <;> omega

/-- R39, R41: the time block of a follower after an exchange. -/
def exchanged (off : Int) (e : Nat) (t : TimeBlock) : TimeBlock :=
  { t with
    offset := BitVec.ofInt 32 off, slew := correction off, err := e, errValid := true, good := if e ≤ 10 * errNs then t.good + 1 else 0 }

theorem toUnlocked_moves (s : State) : ∃ d, toUnlocked s =
    { s with diag := d, time := { s.time with st := .unlocked, unlockCount := s.time.unlockCount + 1, good := 0 } } := ⟨_, rfl⟩

/-- R41: what becomes of an exchange's time state. -/
theorem exchangeDone_moves (p : Nat) (x : Exchange) (s : State) (hm : s.time.master = false)
    (hs : s.time.st = .locked ∨ s.time.st = .unlocked) : ∃ st n g d, exchangeDone p x s = { s with diag := d, time :=
      { exchanged (exchangeOffset (getPort s p).asym x) (exchangeErr x) s.time with st := st, unlockCount := n, good := g } } ∧
    (s.time.st = .locked → st = (if 20 * errNs < exchangeErr x then .unlocked else .locked) ∧
      n = (if 20 * errNs < exchangeErr x then s.time.unlockCount + 1 else s.time.unlockCount)) ∧
    (s.time.st = .unlocked → st = (if exchangeErr x ≤ 10 * errNs ∧ 16 ≤ s.time.good + 1 then .locked else .unlocked)) := by
  obtain ⟨u, hu⟩ : ∃ u, u = modTime s (exchanged (exchangeOffset (getPort s p).asym x) (exchangeErr x)) := ⟨_, rfl⟩
  have step_ : exchangeDone p x s = if u.time.st = .unlocked ∧ 16 ≤ u.time.good then modTime u fun t => { t with st := .locked }
      else checkUnlocked u := by rw [hu]; rfl
  have good : u.time.good = if exchangeErr x ≤ 10 * errNs then s.time.good + 1 else 0 := by rw [hu]; rfl
  have locks : 16 ≤ u.time.good ↔ exchangeErr x ≤ 10 * errNs ∧ 16 ≤ s.time.good + 1 := by
    rw [good]
    split <;> simp [*]
  have st : u.time.st = s.time.st := by rw [hu]; rfl
  have check : checkUnlocked u = if s.time.st = .locked ∧ 20 * errNs < exchangeErr x then toUnlocked u else u := by
    simp [checkUnlocked, hu, modTime, exchanged, hm]
  have cases_ : exchangeDone p x s = if s.time.st = .unlocked ∧ exchangeErr x ≤ 10 * errNs ∧ 16 ≤ s.time.good + 1 then
      modTime u fun t => { t with st := .locked }
      else if s.time.st = .locked ∧ 20 * errNs < exchangeErr x then toUnlocked u else u := by
    rw [step_, check]
    exact if_congr (by rw [st, locks]) rfl rfl
  rw [cases_]
  subst hu
  rcases hs with hs | hs
  · have stays : ¬(s.time.st = .unlocked ∧ exchangeErr x ≤ 10 * errNs ∧ 16 ≤ s.time.good + 1) := by simp [hs]
    rw [if_neg stays]
    by_cases far : 20 * errNs < exchangeErr x
    · rw [if_pos ⟨hs, far⟩]
      obtain ⟨d, moved⟩ := toUnlocked_moves (modTime s (exchanged (exchangeOffset (getPort s p).asym x) (exchangeErr x)))
      exact ⟨.unlocked, s.time.unlockCount + 1, 0, d, moved, fun _ => ⟨(if_pos far).symm, (if_pos far).symm⟩, by simp [hs]⟩
    · rw [if_neg (fun h => far h.2)]
      exact ⟨s.time.st, s.time.unlockCount, _, s.diag, rfl, fun _ => ⟨hs.trans (if_neg far).symm, (if_neg far).symm⟩, by simp [hs]⟩
  · by_cases near : exchangeErr x ≤ 10 * errNs ∧ 16 ≤ s.time.good + 1
    · rw [if_pos ⟨hs, near⟩]
      exact ⟨.locked, s.time.unlockCount, _, s.diag, rfl, by simp [hs], fun _ => (if_pos near).symm⟩
    · have stays : ¬(s.time.st = .locked ∧ 20 * errNs < exchangeErr x) := by simp [hs]
      rw [if_neg (fun h => near h.2), if_neg stays]
      exact ⟨s.time.st, s.time.unlockCount, _, s.diag, rfl, by simp [hs], fun _ => hs.trans (if_neg near).symm⟩

theorem exec_timeExchange (hp : s.time.parent = some p.val) (hi : NoInjection s) (hm : s.time.master = false)
    (hs : s.time.st = .locked ∨ s.time.st = .unlocked) : exec (.timeExchange p x) s = done (exchangeDone p.val x s) := by
  show execTimeExchange p x s = _
  rw [execTimeExchange, stepExchange_plain hi, comparing_iff.mpr hs]
  simp [hp, hm]

theorem exec_acquireLoad (hp : s.time.parent = some p.val) (hi : NoInjection s) (hs : s.time.st = .acquiring) :
    exec (.acquireLoad p x) s = done (acquired
      (modTime s fun t => { t with offset := BitVec.ofInt 32 (exchangeOffset (getPort s p.val).asym x) })
      (s.time.now + BitVec.ofInt 64 (correction (exchangeOffset (getPort s p.val).asym x))) (exchangeErr x)) := by
  show execAcquireLoad p x s = _
  rw [execAcquireLoad, stepExchange_plain hi]
  simp [hp, hs]

/-- R42: an exchange of another port, or of a module without time, does nothing. -/
theorem exchange_ignored (h : AtRest s) (hp : s.time.parent ≠ some p.val ∨ s.time.st = .unset) :
    exec (.timeExchange p x) s = .next s ∧ exec (.acquireLoad p x) s = .next s := by
  have rest : done s = .next s := by rw [done_next, settle_atRest h]
  have off : s.time.st = .unset → comparing s = false := fun hs => by simp [comparing, hs]
  constructor
  · refine Eq.trans (congrArg done (if_neg ?_)) rest
    rcases hp with hp | hs
    · simp [hp]
    · simp [off hs]
  · refine Eq.trans (congrArg done (if_neg ?_)) rest
    rcases hp with hp | hs
    · simp [hp]
    · simp [hs]

end

/-! ### How time is lost (R41 to R43) -/

section
variable {s : State}

theorem acquiringTimeout_ends (h : s.time.st = .acquiring) : exec .acquiringTimeout s = done { s with time := { s.time with
    st := .unset, parent := none, hops := 0xFF, masterAddr := 0, gen := 0, seen := [] } } := congrArg done (if_pos h)

theorem acquiringTimeout_other (h : s.time.st ≠ .acquiring) : exec .acquiringTimeout s = done s := congrArg done (if_neg h)

theorem holdover_enters (hp : s.time.parent ≠ none) (hm : s.time.master = false) (hs : s.time.st = .locked ∨ s.time.st = .unlocked) :
    exec .holdover s = done { s with time := { s.time with holdover := true, parent := none } } := by
  refine congrArg done (if_pos ?_)
  simp [Option.isSome_iff_ne_none.mpr hp, hm, comparing_iff.mpr hs]

theorem holdover_other (h : s.time.parent = none ∨ s.time.master = true) : exec .holdover s = done s := by
  refine congrArg done (if_neg ?_)
  rcases h with h | h <;> simp [h]

theorem unlocked_enters (hs : s.time.st = .locked) (hm : s.time.master = false) (he : 20 * errNs < s.time.err) :
    exec .unlocked s = done (toUnlocked s) := congrArg done (if_pos (by simp [hs, hm, he]))

theorem unlocked_other (h : s.time.st ≠ .locked ∨ s.time.master = true ∨ s.time.err ≤ 20 * errNs) : exec .unlocked s = done s := by
  refine congrArg done (if_neg ?_)
  rcases h with h | h | h
  · simp [h]
  · simp [h]
  · simp [Nat.not_lt.mpr h]

end

/-- Settles O15: an exchange by the port and the state it finds, and the three ways in which time is lost. -/
theorem timeIsAlignedAndLost : Obligations.TimeIsAlignedAndLost := by
  refine ⟨?_, fun p x s rest h => exchange_ignored rest h, fun s => ⟨fun h => ?_, fun hp hm hs => ?_, fun hs hm he => ?_,
    fun rest => ⟨fun h => ?_, fun h => ?_, fun h => ?_⟩⟩⟩
  · rintro p x s off e hp hi rfl rfl
    obtain ⟨near, even⟩ := correction_nearest (exchangeOffset (getPort s p.val).asym x)
    refine ⟨_, near, even, fun hm hs => ?_, fun hs => ?_⟩
    · obtain ⟨st, n, g, d, moved, locked, unlocked⟩ := exchangeDone_moves p.val x s hm hs
      refine ⟨_, exec_timeExchange hp hi hm hs, ?_⟩
      rw [settle_time, settle_diag, moved]
      exact ⟨settle_settled _, rfl, rfl, (neg_neg _).symm, rfl, locked, unlocked⟩
    · obtain ⟨u, hu⟩ : ∃ u, u = modTime s fun t =>
        { t with offset := BitVec.ofInt 32 (exchangeOffset (getPort s p.val).asym x) } := ⟨_, rfl⟩
      obtain ⟨pins, d, o, loaded, suffix, -⟩ := acquired_moves u
        (s.time.now + BitVec.ofInt 64 (correction (exchangeOffset (getPort s p.val).asym x))) (exchangeErr x)
      obtain ⟨w, hw⟩ : ∃ w, w = acquired u
        (s.time.now + BitVec.ofInt 64 (correction (exchangeOffset (getPort s p.val).asym x))) (exchangeErr x) := ⟨_, rfl⟩
      have run : exec (.acquireLoad p x) s = done w := by
        rw [hw, hu]
        exact exec_acquireLoad hp hi hs
      rw [← hw] at loaded
      have look : lookNow (settle w) = lookNow (modTime u (loadedTime
          (s.time.now + BitVec.ofInt 64 (correction (exchangeOffset (getPort s p.val).asym x))) (exchangeErr x))) :=
        funext (lookNow_congr ((settle_time w).trans (by rw [loaded]; rfl)))
      refine ⟨_, run, ?_, ?_⟩
      · rw [look, settle_time, settle_diag, settle_pins]
        refine Settled.trans ?_ (settle_settled w)
        rw [loaded, hu]
        rw [hu] at suffix
        exact settled_outbox suffix
      · rw [settle_time, neg_neg, loaded, hu]
        exact ⟨rfl, rfl, rfl⟩
  · exact leads_done (acquiringTimeout_ends h) (.refl _)
  · exact leads_done (holdover_enters hp hm hs) (.refl _)
  · exact ⟨_, unlocked_enters hs hm he, by rw [settle_diag]; exact settle_settled _⟩
  · rw [acquiringTimeout_other h, done_next, settle_atRest rest]
  · rw [holdover_other h, done_next, settle_atRest rest]
  · rw [unlocked_other h, done_next, settle_atRest rest]

/-! ### TIME_PPS_OUT and the tick of an empty queue (R50, R46) -/

section
variable {s : State}

/-- R50: the level of TIME_PPS_OUT after one tick. -/
def ppsAfter (s : State) : Bool := s.time.ppsEnable && comparing s &&
  decide (s.time.now.toNat % ticksPerSec < s.time.ppsWidth.toNat * ticksPerUs) &&
  (s.pins.pps || decide (s.time.now.toNat % ticksPerSec = 0))

/-- R50: at a tick the output takes its level; where it rises, the second is a whole one and is shown outside. -/
theorem drivePps_one (s : State) : ∃ o, drivePps 1 s = { s with pins := { s.pins with pps := ppsAfter s }, outbox := o } ∧ s.outbox <:+ o ∧
    (ppsAfter s = true → s.pins.pps = false → Output.pps s.time.now ∈ o) := by
  obtain ⟨q, hq⟩ : ∃ q, q = s.time.now.toNat % ticksPerSec := ⟨_, rfl⟩
  unfold drivePps
  extract_lets on off edge pins moved
  have edge_ : edge = (on && decide (q = 0) && !s.pins.pps) := by
    simp only [edge, off, ← hq, Nat.lt_one_iff]
  have level : (on && decide (off < s.time.ppsWidth.toNat * ticksPerUs) && (s.pins.pps || edge)) = ppsAfter s := by
    rw [edge_]
    simp only [ppsAfter, on, off, ← hq]
    cases s.pins.pps <;> cases s.time.ppsEnable <;> cases comparing s <;> simp
  have moved_ : moved = { s with pins := { s.pins with pps := ppsAfter s } } := by rw [← level]
  rw [moved_]
  split
  · rename_i rises
    have whole : q = 0 := by
      rw [edge_] at rises
      simp only [Bool.and_eq_true, decide_eq_true_iff] at rises
      exact rises.1.2
    refine ⟨_, rfl, List.suffix_cons _ _, fun _ _ => ?_⟩
    have now : s.time.now - BitVec.ofNat 64 off = s.time.now := by
      simp [off, ← hq, whole]
    simp [now]
  · rename_i flat
    refine ⟨_, rfl, List.suffix_rfl, fun up low => absurd ?_ flat⟩
    rw [edge_]
    simp only [ppsAfter, low, ← hq, Bool.false_or, Bool.and_eq_true, decide_eq_true_iff] at up
    simp [on, low, up]

theorem tick_eq (hp : s.hub.dev ≠ .cold) : tick s =
    if (s.time.now + 1).toNat % ticksPerBeat = 0 then
      beatDuties s.pwr.last 1 { s with time := { s.time with now := s.time.now + 1 }, ticks := s.ticks + 1 }
    else drivePps 1 { s with time := { s.time with now := s.time.now + 1 }, ticks := s.ticks + 1 } := by
  rw [tick, if_neg (by simp [powered, hp])]
  rfl

theorem tick_cold (hp : s.hub.dev = .cold) : tick s = s := if_pos (by simp [powered, hp])

theorem step_idle (h : s.pending = []) : step s = doneMem (tick s) := by rw [step, h]; rfl

/-- A tick between boundaries. -/
theorem step_tick (h : s.pending = []) (hn : NoLockout s) (hp : s.hub.dev ≠ .cold) (hb : (s.time.now + 1).toNat % ticksPerBeat ≠ 0) :
    step s = done (drivePps 1 { s with time := { s.time with now := s.time.now + 1 }, ticks := s.ticks + 1 }) := by
  rw [step_idle h, tick_eq hp, if_neg hb]
  refine doneMem_eq fun c => ?_
  obtain ⟨o, moved, -⟩ := drivePps_one { s with time := { s.time with now := s.time.now + 1 }, ticks := s.ticks + 1 }
  rw [moved]
  exact hn c

/-- The ticks to a boundary that the next tick reaches. -/
theorem ticks_to_boundary {n : BitVec 64} (h : (n + 1).toNat % ticksPerBeat = 0) : ticksPerBeat - n.toNat % ticksPerBeat = 1 := by
  simp only [ticksPerBeat, BitVec.toNat_add] at h ⊢
  have one : (1 : BitVec 64).toNat = 1 := rfl
  omega

/-- A tick that reaches a boundary. -/
theorem step_boundary (h : s.pending = []) (hp : s.hub.dev ≠ .cold) (hb : (s.time.now + 1).toNat % ticksPerBeat = 0) :
    step s = exec (.beatBoundary s.pwr.last) s := by
  rw [step_idle h, tick_eq hp, if_pos hb]
  show _ = execBeatBoundary s.pwr.last s
  rw [execBeatBoundary, if_pos (by simp [powered, hp]), nextBeat, ticks_to_boundary hb]
  rfl

/-- A device that is cold shows it. -/
theorem atRest_cold (hp : s.hub.dev = .cold) (hn : NothingWaits s) : AtRest s := ⟨by simp [ShownStateHolds, devNow, hp], hn⟩

end

/-- Settles O2: the tick between boundaries, at one, and in COLD. -/
theorem emptyQueueIsOneTick : Obligations.EmptyQueueIsOneTick := by
  refine fun s h hn => ⟨fun hp hb => ?_, fun hp hb => step_boundary h hp hb, fun hp hw => ?_⟩
  · obtain ⟨o, moved, suffix, rises⟩ := drivePps_one { s with time := { s.time with now := s.time.now + 1 }, ticks := s.ticks + 1 }
    have run := step_tick h hn hp hb
    obtain ⟨w, hw⟩ : ∃ w, w = drivePps 1 { s with time := { s.time with now := s.time.now + 1 }, ticks := s.ticks + 1 } := ⟨_, rfl⟩
    rw [← hw] at run moved
    have pins : (settle w).pins = { s.pins with
        pps := ppsAfter { s with time := { s.time with now := s.time.now + 1 }, ticks := s.ticks + 1 } } := by
      rw [settle_pins, moved]
    refine ⟨_, run, ?_, ?_⟩
    · rw [pins]
      refine Settled.trans ?_ (settle_settled w)
      rw [moved]
      exact settled_outbox suffix
    · rw [pins]
      refine ⟨rfl, rfl, fun low up => (settle_settled w).out.outbox.subset ?_⟩
      rw [moved]
      exact rises up low
  · have nothing : lockouts s = s := lockouts_id hn
    rw [step_idle h, tick_cold hp, doneMem, nothing, done_next, settle_atRest (atRest_cold hp hw)]

end Sys2Proof.Machine
end

section
-- One proof after the other: a text of this length has more proofs waiting at once than the check has threads for.
set_option Elab.async false
/-! PROOFS. PART_LAYOUT and SELECT_PROFILE (R353, R28, R221, R365, R366). -/
namespace Sys2Proof.Machine

/-! ### The settings in force -/

/-- What a setting is read from is the same in two states. -/
structure SameSettings (s t : State) : Prop where
  volatile : t.mail.volatile = s.mail.volatile
  factory : t.mail.factory = s.mail.factory
  recs : userRecs t = userRecs s

section
variable {s t u : State}

theorem SameSettings.trans (h : SameSettings s t) (k : SameSettings t u) : SameSettings s u :=
  ⟨k.volatile.trans h.volatile, k.factory.trans h.factory, k.recs.trans h.recs⟩

theorem SameSettings.dev (h : SameSettings s t) (k : Nat) : devSetting t k = devSetting s k := by
  simp only [devSetting, layerValue, h.volatile, h.factory, h.recs]

theorem SameSettings.regul (h : SameSettings s t) (hl : t.hub.layout = s.hub.layout) (p k : Nat) : regulValue t p k = regulValue s p k := by
  simp only [regulValue, h.volatile, h.recs, hl]

theorem userRecs_congr (hh : HubKept s.hub t.hub) (ho : t.opt = s.opt) (ha : t.mail.copyA = s.mail.copyA)
    (hb : t.mail.copyB = s.mail.copyB) : userRecs t = userRecs s := by
  simp only [userRecs, copyInForce, ha, hb, hh.safe, hh.cfgDefault, hh.profile, hh.cfgCopyB, ho]

theorem SameSettings.of_settled (h : Settled s t) : SameSettings s t :=
  ⟨h.mail.volatile, h.mail.factory, userRecs_congr h.hub h.out.opt h.mail.copyA h.mail.copyB⟩

/-! ### The regulators (R221) -/

/-- A regulator with the settings in force for it. -/
def regulated (s : State) (p cls : Nat) : Bucket :=
  { getBucket s p cls with
    rate := regulValue s p (0x410 + 3 * cls), depth := regulValue s p (0x411 + 3 * cls),
    borrow := regulValue s p (0x412 + 3 * cls) == 1 }

theorem regulValue_buckets (s : State) (b : Vector (Vector Bucket 4) 4) (q k : Nat) :
    regulValue { s with mem := { s.mem with buckets := b } } q k = regulValue s q k := by
  apply SameSettings.regul
  · exact ⟨rfl, rfl, userRecs_congr (.refl _) rfl rfl rfl⟩
  · rfl

theorem getBucket_setBucket_same (s : State) {p cls : Nat} (hp : p < 4) (hc : cls < 4) (b : Bucket) :
    getBucket (setBucket s p cls b) p cls = b := by
  simp [getBucket, setBucket, modMem, vector_getD_set_same, hp, hc]

theorem getBucket_setBucket_other (s : State) {p cls q d : Nat} (h : ¬(q = p ∧ d = cls)) (b : Bucket) :
    getBucket (setBucket s p cls b) q d = getBucket s q d := by
  by_cases hq : q = p
  · subst hq
    have hd : d ≠ cls := fun e => h ⟨rfl, e⟩
    by_cases hb : q < 4
    · simp [getBucket, setBucket, modMem, vector_getD_set_same, vector_getD_set_other, hb, hd]
    · simp [getBucket, setBucket, modMem, vector_set_outOfBounds _ (Nat.not_lt.mp hb)]
  · simp [getBucket, setBucket, modMem, vector_getD_set_other, hq]

theorem regulValue_setBucket (s : State) (p cls : Nat) (b : Bucket) (q k : Nat) :
    regulValue (setBucket s p cls b) q k = regulValue s q k := by
  apply SameSettings.regul
  · exact ⟨rfl, rfl, userRecs_congr (.refl _) rfl rfl rfl⟩
  · rfl

/-- Regulators are loaded one after the other. -/
def loadClasses (p : Nat) (l : List Nat) (s : State) : State := l.foldl (fun s cls => setBucket s p cls (regulated s p cls)) s

theorem loadRegul_eq (s : State) (p : Nat) : loadRegul s p = loadClasses p (List.range 4) s := rfl

/-- Loading moves the regulators alone. -/
theorem loadClasses_moves (p : Nat) (l : List Nat) (s : State) :
    ∃ b, loadClasses p l s = { s with mem := { s.mem with buckets := b } } := by
  induction l generalizing s with
  | nil => exact ⟨s.mem.buckets, rfl⟩
  | cons a l ih =>
    obtain ⟨b, moved⟩ := ih (setBucket s p a (regulated s p a))
    exact ⟨b, moved⟩

theorem getBucket_loadClasses {p : Nat} (hp : p < 4) {l : List Nat} (s : State) (q : Nat) {d : Nat} (hd : d < 4) :
    getBucket (loadClasses p l s) q d = if q = p ∧ d ∈ l then regulated s q d else getBucket s q d := by
  induction l generalizing s with
  | nil => simp [loadClasses]
  | cons a l ih =>
    rw [loadClasses, List.foldl_cons]
    refine (ih (setBucket s p a (regulated s p a))).trans ?_
    have values : ∀ k, regulValue (setBucket s p a (regulated s p a)) q k = regulValue s q k := regulValue_setBucket _ _ _ _ _
    rw [regulated, values, values, values]
    by_cases here : q = p ∧ d = a
    · obtain ⟨rfl, rfl⟩ := here
      rw [if_pos (⟨rfl, .head l⟩ : q = q ∧ d ∈ d :: l), getBucket_setBucket_same s hp hd]
      exact ite_self _
    · rw [getBucket_setBucket_other s here]
      refine if_congr (and_congr_right fun hq => ?_) rfl rfl
      rw [List.mem_cons, or_iff_right fun e => here ⟨hq, e⟩]

/-- The regulators of the partitions of a list are loaded. -/
def loadParts (l : List Nat) (s : State) : State := l.foldl loadRegul s

theorem loadReguls_eq (s : State) : loadReguls s = loadParts (List.range (partCount s.hub.layout)) s := rfl

theorem loadParts_moves (l : List Nat) (s : State) : ∃ b, loadParts l s = { s with mem := { s.mem with buckets := b } } := by
  induction l generalizing s with
  | nil => exact ⟨s.mem.buckets, rfl⟩
  | cons a l ih =>
    obtain ⟨b, first⟩ := loadClasses_moves a (List.range 4) s
    obtain ⟨b', rest⟩ := ih (loadRegul s a)
    rw [loadRegul_eq, first] at rest
    exact ⟨b', by rw [loadParts, List.foldl_cons, loadRegul_eq, first]; exact rest⟩

theorem getBucket_loadParts {l : List Nat} (hl : ∀ p ∈ l, p < 4) (s : State) (q : Nat) {d : Nat} (hd : d < 4) :
    getBucket (loadParts l s) q d = if q ∈ l then regulated s q d else getBucket s q d := by
  induction l generalizing s with
  | nil => simp [loadParts]
  | cons a l ih =>
    have values : ∀ k, regulValue (loadRegul s a) q k = regulValue s q k := fun k => by
      obtain ⟨b, moved⟩ := loadClasses_moves a (List.range 4) s
      rw [loadRegul_eq, moved, regulValue_buckets]
    have first := getBucket_loadClasses (hl a List.mem_cons_self) (l := List.range 4) s q hd
    rw [← loadRegul_eq] at first
    rw [loadParts, List.foldl_cons]
    refine (ih (fun p hp => hl p (List.mem_cons_of_mem a hp)) (loadRegul s a)).trans ?_
    by_cases here : q = a
    · subst here
      rw [if_pos ⟨rfl, List.mem_range.mpr hd⟩] at first
      rw [if_pos List.mem_cons_self, regulated, first]
      simp only [values]
      exact ite_self _
    · rw [if_neg fun h => here h.1] at first
      rw [regulated, first]
      simp only [values, List.mem_cons, here, false_or]
      rfl

theorem partCount_le (l : BitVec 2) : partCount l ≤ 4 := by
  unfold partCount
  split <;> decide

theorem loadReguls_moves (s : State) : ∃ b, loadReguls s = { s with mem := { s.mem with buckets := b } } := loadParts_moves _ s

theorem getBucket_loadReguls (s : State) (q : Nat) {d : Nat} (hd : d < 4) :
    getBucket (loadReguls s) q d = if q < partCount s.hub.layout then regulated s q d else getBucket s q d := by
  rw [loadReguls_eq, getBucket_loadParts (fun p hp => ?_) s q hd]
  · simp only [List.mem_range]
  · exact Nat.lt_of_lt_of_le (List.mem_range.mp hp) (partCount_le _)

/-- R221: a rate that nothing sets is the factory rate, divided by the number of partitions. -/
theorem regulValue_factory {p cls : Nat} (hv : mapGet? s.mail.volatile (0x410 + 3 * cls + 65536 * (p + 1)) = none)
    (hr : (userRecs s).all (fun q => q.key.toNat != 0x410 + 3 * cls) = true) :
    regulValue s p (0x410 + 3 * cls) = (Bucket.default cls).rate / partCount s.hub.layout := by
  have none_ : (userRecs s).find? (fun r => r.key.toNat == 0x410 + 3 * cls && r.scope.toNat == p) = none := by
    refine List.find?_eq_none.mpr fun r hmem => ?_
    have differ := List.all_eq_true.mp hr r hmem
    simp only [bne_iff_ne] at differ
    simp [differ]
  have key : (0x410 + 3 * cls - 0x410) / 3 = cls ∧ (0x410 + 3 * cls - 0x410) % 3 = 0 := by omega
  rw [regulValue, hv, none_]
  simp only [key]

end

/-! ### PART_LAYOUT (R28) -/

section
variable {r : Req} {l : BitVec 8} {s : State}

theorem ansPartLayout_unsupported (h : l = 2) (hm : s.opt.m54 = true) : ansPartLayout l s = err s stUnsupported 0 := by
  subst h
  rw [ansPartLayout, if_neg (by decide), if_pos (by simp [hm])]

theorem ansPartLayout_offered (hl : l.toNat < 3) (hm : ¬(l = 2 ∧ s.opt.m54 = true)) : ansPartLayout l s =
    if anyOpen s then conflict s 5 1 0x1 else ok (loadReguls (modHub s fun h => { h with layout := l.setWidth 2 })) [] := by
  rw [ansPartLayout, if_neg (by omega), if_neg (by simpa using hm)]

theorem partLayout_sets (h : Ready 0x0007 setCfg r s) (hl : l.toNat < 3) (hm : ¬(l = 2 ∧ s.opt.m54 = true))
    (hc : ∀ c, c < 64 → (getCtx s c).st = .closed) : ∃ t, exec (.partLayout r l) s = .next t ∧ Answers s t r 0x0007 0x00 [] ∧
      t.hub.layout = l.setWidth 2 ∧
      Settled { s with hub := { s.hub with layout := t.hub.layout }, mem := { s.mem with buckets := t.mem.buckets } } t ∧
      ∀ p cls, p < 4 → cls < 4 → (partCount t.hub.layout ≤ p → getBucket t p cls = getBucket s p cls) ∧
        (p < partCount t.hub.layout → getBucket t p cls = { getBucket s p cls with
            rate := regulValue t p (0x410 + 3 * cls), depth := regulValue t p (0x411 + 3 * cls),
            borrow := regulValue t p (0x412 + 3 * cls) == 1 } ∧
          (mapGet? s.mail.volatile (0x410 + 3 * cls + 65536 * (p + 1)) = none →
            (userRecs s).all (fun q => q.key.toNat != 0x410 + 3 * cls) = true →
            (getBucket t p cls).rate = (Bucket.default cls).rate / partCount t.hub.layout)) := by
  obtain ⟨v, hv⟩ : ∃ v, v = modHub s fun h => { h with layout := l.setWidth 2 } := ⟨_, rfl⟩
  obtain ⟨u, hu⟩ : ∃ u, u = loadReguls v := ⟨_, rfl⟩
  obtain ⟨b, moved⟩ := loadReguls_moves v
  have answer : ansPartLayout l s = ok u [] := by
    rw [ansPartLayout_offered hl hm, if_neg (by simp [anyOpen_eq_false hc]), hu, hv]
  rw [← hu] at moved
  have runs : RunsAs (.partLayout r l) r 0x0007 setCfg (ansPartLayout l) s := rfl
  obtain ⟨t, run, kept, answered⟩ := serves_ok runs h answer (by rw [moved, hv]; rfl)
  have layout : t.hub.layout = l.setWidth 2 := by rw [kept.hub.layout, moved, hv]; rfl
  have same : SameSettings v t := ⟨by rw [kept.mail.volatile, moved], by rw [kept.mail.factory, moved],
    by rw [(SameSettings.of_settled kept).recs, moved]; rfl⟩
  have values : ∀ p k, regulValue t p k = regulValue v p k := same.regul (by rw [kept.hub.layout, moved])
  have buckets : ∀ p d, getBucket t p d = getBucket u p d := fun p d => by rw [getBucket, kept.out.mem, getBucket]
  refine ⟨t, run, answered, layout, ?_, fun p cls hp hcls => ?_⟩
  · have frame : { s with hub := { s.hub with layout := t.hub.layout }, mem := { s.mem with buckets := t.mem.buckets } } = u := by
      rw [layout, kept.out.mem, moved, hv]
      rfl
    rw [frame]
    exact kept
  · have found := getBucket_loadReguls v p hcls
    rw [← hu, ← buckets, show v.hub.layout = t.hub.layout by rw [kept.hub.layout, moved]] at found
    refine ⟨fun out => ?_, fun inside => ?_⟩
    · rw [found, if_neg (by omega), hv]
      rfl
    · rw [if_pos inside] at found
      refine ⟨?_, fun hvol hrec => ?_⟩
      · rw [found, regulated, values, values, values, hv]
        rfl
      · have factory := regulValue_factory (s := v) (p := p) (cls := cls) (by rw [hv]; exact hvol) (by rw [hv]; exact hrec)
        rw [found]
        refine factory.trans ?_
        rw [kept.hub.layout, moved]

end

/-! ### SELECT_PROFILE (R366) -/

section
variable {r : Req} {profile persist : BitVec 8} {p : BitVec 2} {s : State}

/-- R366: profile `p` is in force, and what commands had set is dropped. -/
def chosen (s : State) (p : BitVec 2) : State :=
  modHub (modMail s fun m => { m with volatile := [] }) fun h => { h with profile := p }

/-- R28: the layout that the settings of a state name. -/
def layoutFrom (s : State) : BitVec 2 :=
  if (devSetting s 0x200).toNat = 2 ∧ s.opt.m54 = true then 0 else BitVec.ofNat 2 (devSetting s 0x200).toNat

/-- R210: the memory policy that the settings of a state name. -/
def policyFrom (s : State) : MemPolicy := {
  corrRetrain := (devSetting s 0x400).toNat, uncorrMapout := (devSetting s 0x401).toNat, crcMapout := (devSetting s 0x402).toNat
  retrainLimit := (devSetting s 0x403).toNat, scrubHours := (devSetting s 0x404).toNat, migrateShare := (devSetting s 0x405).toNat }

theorem loadDevice_policy (s : State) : (loadDevice s).mem.policy = policyFrom s := by
  unfold loadDevice
  simp only [drivePps_zero]
  rfl

/-- R366: what loading the settings of a profile moves. -/
theorem loadProfile_moves (v : State) : ∃ pins b, loadProfile v = { v with
      time := timeFrom v v.time, pins := pins, mem := { v.mem with policy := policyFrom v, buckets := b }
      hub := { v.hub with layout := layoutFrom v }, fab := { v.fab with perLink := devSetting v 0x201 == 1 } } ∧
    ∀ q d, d < 4 → q < partCount (layoutFrom v) → getBucket (loadProfile v) q d = { getBucket v q d with
      rate := regulValue (loadProfile v) q (0x410 + 3 * d), depth := regulValue (loadProfile v) q (0x411 + 3 * d),
      borrow := regulValue (loadProfile v) q (0x412 + 3 * d) == 1 } := by
  obtain ⟨time, -, rest⟩ := loadDevice_moves v
  have same : SameSettings v (loadDevice v) := by
    rw [rest]
    exact ⟨rfl, rfl, userRecs_congr (.refl _) rfl rfl rfl⟩
  obtain ⟨w, hw⟩ : ∃ w, w = modFab (modHub (loadDevice v) fun h => { h with layout := layoutFrom v }) fun f =>
      { f with perLink := devSetting v 0x201 == 1 } := ⟨_, rfl⟩
  have moved : loadProfile v = loadReguls w := by
    have dev : ∀ l k, devSetting (modHub (loadDevice v) fun h => { h with layout := l }) k = devSetting v k := fun l k => by
      have kept : SameSettings (loadDevice v) (modHub (loadDevice v) fun h => { h with layout := l }) := ⟨rfl, rfl, rfl⟩
      rw [kept.dev, same.dev]
    have opt : (loadDevice v).opt = v.opt := by rw [rest]
    rw [hw, loadProfile]
    simp only [same.dev, dev, opt]
    rfl
  obtain ⟨b, loaded⟩ := loadReguls_moves w
  have state : loadProfile v = { v with
      time := timeFrom v v.time, pins := (loadDevice v).pins, mem := { v.mem with policy := policyFrom v, buckets := b }
      hub := { v.hub with layout := layoutFrom v }, fab := { v.fab with perLink := devSetting v 0x201 == 1 } } := by
    rw [moved, loaded, hw, rest, time, loadDevice_policy]
    rfl
  have values : ∀ q k, regulValue (loadProfile v) q k = regulValue w q k := fun q k => by rw [moved, loaded, regulValue_buckets]
  have layout : w.hub.layout = layoutFrom v := by rw [hw]; rfl
  refine ⟨_, b, state, fun q d hd hq => ?_⟩
  rw [values, values, values, moved, getBucket_loadReguls w q hd, layout, if_pos hq, regulated]
  have bucket : getBucket w q d = getBucket v q d := by rw [hw, rest]; rfl
  rw [bucket]

/-- R366: PERSIST writes the copy that is not in force. -/
theorem persistProfile_moves (u : State) (o : Option (BitVec 2)) :
    Settled { u with mail := { u.mail with copyA := (persistProfile u o).mail.copyA, copyB := (persistProfile u o).mail.copyB } }
      (persistProfile u o) ∧ (persistProfile u o).mail.responses = u.mail.responses ∧
    copyInForce (persistProfile u o) = copyInForce u ∧
    ∃ x, x = (if u.hub.cfgCopyB then (persistProfile u o).mail.copyA else (persistProfile u o).mail.copyB) ∧
      x.gen = (copyInForce u).gen + 1 ∧ x.profOk = o.isSome ∧ x.profile = o.getD 0 ∧ x.headerOk = true ∧ x.digestOk = true ∧
      x.data = (copyInForce u).data := by
  unfold persistProfile
  cases h : u.hub.cfgCopyB <;> refine ⟨.refl _, rfl, ?_, _, rfl, ?_⟩ <;> simp [copyInForce, h]

theorem ansSelectProfile_outOfRange (h : (3 < profile.toNat ∧ profile ≠ 0xFF) ∨ 1 < persist.toNat) :
    ansSelectProfile profile persist s = err s stBadArg 0 := by
  refine if_pos ?_
  simp only [Bool.or_eq_true, Bool.not_eq_true', decide_eq_true_iff]
  refine h.imp_left fun ⟨h1, h2⟩ => ?_
  rw [beq_eq_false_iff_ne.mpr h2, Bool.or_false, decide_eq_false (by omega)]

theorem ansSelectProfile_inRange (hp : profile.toNat ≤ 3 ∨ profile = 0xFF) (hk : persist.toNat ≤ 1) : ansSelectProfile profile persist s =
    if s.hub.safe then err s stDenied 0
    else if s.mail.session.isSome then err s stBusy 0
    else ok (if persist = 1 then
        persistProfile (loadProfile (chosen s (if profile = 0xFF then s.pins.profSel else profile.setWidth 2)))
          (if profile = 0xFF then none else some (if profile = 0xFF then s.pins.profSel else profile.setWidth 2))
      else loadProfile (chosen s (if profile = 0xFF then s.pins.profSel else profile.setWidth 2))) [] := by
  refine if_neg ?_
  simp only [Bool.or_eq_true, Bool.not_eq_true', ← Bool.not_eq_true, decide_eq_true_iff, beq_iff_eq]
  exact not_or.mpr ⟨not_not.mpr hp, by omega⟩

theorem userRecs_of_copy {s t : State} (hh : HubKept s.hub t.hub) (ho : t.opt = s.opt) (hc : copyInForce t = copyInForce s) :
    userRecs t = userRecs s := by simp only [userRecs, hc, hh.safe, hh.cfgDefault, hh.profile, ho]

/-- R366: PERSIST = 1 writes the override. -/
def persisted (u : State) (o : Option (BitVec 2)) (persist : BitVec 8) : State := if persist = 1 then persistProfile u o else u

/-- R366: the state after SELECT_PROFILE. -/
def selected (s : State) (p : BitVec 2) (o : Option (BitVec 2)) (persist : BitVec 8) : State :=
  persisted (loadProfile (chosen s p)) o persist

/-- What is the same with and without PERSIST. -/
theorem persisted_moves (u : State) (o : Option (BitVec 2)) (persist : BitVec 8) :
    Settled { u with mail := { u.mail with copyA := (persisted u o persist).mail.copyA, copyB := (persisted u o persist).mail.copyB } }
      (persisted u o persist) ∧ (persisted u o persist).mail.responses = u.mail.responses ∧
    copyInForce (persisted u o persist) = copyInForce u := by
  unfold persisted
  split
  · obtain ⟨kept, responses, copy, -⟩ := persistProfile_moves u o
    exact ⟨kept, responses, copy⟩
  · exact ⟨.refl _, rfl, rfl⟩

theorem copyInForce_settled {s t : State} (h : Settled s t) : copyInForce t = copyInForce s := by
  simp only [copyInForce, h.hub.cfgCopyB, h.mail.copyA, h.mail.copyB]

theorem selectProfile_sets (h : Ready 0x0008 0x004 r s) (hp : profile.toNat ≤ 3 ∨ profile = 0xFF) (hk : persist.toNat ≤ 1)
    (hsafe : s.hub.safe = false) (hsess : s.mail.session = none) (hq : p = if profile = 0xFF then s.pins.profSel else profile.setWidth 2) :
    ∃ t, exec (.selectProfile r profile persist) s = .next t ∧ Answers s t r 0x0008 0x00 [] ∧
      Settled (selected s p (if profile = 0xFF then none else some p) persist) t := by
  have answer : ansSelectProfile profile persist s = ok (selected s p (if profile = 0xFF then none else some p) persist) [] := by
    rw [ansSelectProfile_inRange hp hk, if_neg (by simp [hsafe]), if_neg (by simp [hsess]), ← hq]
    rfl
  have runs : RunsAs (.selectProfile r profile persist) r 0x0008 0x004 (ansSelectProfile profile persist) s := rfl
  obtain ⟨pins, b, moved, -⟩ := loadProfile_moves (chosen s p)
  have responses : (selected s p (if profile = 0xFF then none else some p) persist).mail.responses = s.mail.responses := by
    rw [selected, (persisted_moves _ _ persist).2.1, moved]
    rfl
  obtain ⟨t, run, kept, answered⟩ := serves_ok runs h answer responses
  exact ⟨t, run, answered, kept⟩

/-- What SELECT_PROFILE leaves in force. -/
theorem selected_inForce {o : Option (BitVec 2)} {t : State} (kept : Settled (selected s p o persist) t) :
    t.hub.profile = p ∧ t.mail.volatile = [] ∧ t.time = timeFrom t s.time ∧ t.mem.policy = policyFrom t ∧
    t.hub.layout = (if (devSetting t 0x200).toNat = 2 ∧ s.opt.m54 = true then 0 else BitVec.ofNat 2 (devSetting t 0x200).toNat) ∧
    t.fab = { s.fab with perLink := devSetting t 0x201 == 1 } ∧
    (∀ q cls, q < partCount t.hub.layout → cls < 4 → getBucket t q cls = { getBucket s q cls with
      rate := regulValue t q (0x410 + 3 * cls), depth := regulValue t q (0x411 + 3 * cls),
      borrow := regulValue t q (0x412 + 3 * cls) == 1 }) ∧
    t.ctxs = s.ctxs ∧ t.slots = s.slots ∧ t.mem.cells = s.mem.cells ∧ t.mem.pmap = s.mem.pmap := by
  obtain ⟨pins, b, moved, buckets⟩ := loadProfile_moves (chosen s p)
  obtain ⟨same, -, copy⟩ := persisted_moves (loadProfile (chosen s p)) o persist
  obtain ⟨w, hw⟩ : ∃ w, w = loadProfile (chosen s p) := ⟨_, rfl⟩
  rw [selected, ← hw] at kept
  rw [← hw] at moved buckets same copy
  have loaded : SameSettings (chosen s p) w := by
    rw [moved]
    exact ⟨rfl, rfl, rfl⟩
  have last : SameSettings w t := by
    refine ⟨?_, ?_, userRecs_of_copy (same.hub.trans kept.hub) ?_ ((copyInForce_settled kept).trans copy)⟩
    · rw [kept.mail.volatile, same.mail.volatile]
    · rw [kept.mail.factory, same.mail.factory]
    · rw [kept.out.opt, same.out.opt]
  have dev : ∀ k, devSetting t k = devSetting (chosen s p) k := fun k => (last.dev k).trans (loaded.dev k)
  have layout : t.hub.layout = w.hub.layout := by rw [kept.hub.layout, same.hub.layout]
  have mem : t.mem = w.mem := by rw [kept.out.mem, same.out.mem]
  have values : ∀ q k, regulValue t q k = regulValue w q k := last.regul layout
  refine ⟨?_, ?_, ?_, ?_, ?_, ?_, fun q cls hq hcls => ?_, ?_, ?_, ?_, ?_⟩
  · rw [kept.hub.profile, same.hub.profile, moved]; rfl
  · rw [last.volatile, moved]; rfl
  · rw [kept.out.time, same.out.time]
    simp only [timeFrom, dev]
    rw [moved]
    rfl
  · rw [mem, moved]
    simp only [policyFrom, dev]
  · rw [layout, moved, dev]; rfl
  · rw [kept.out.fab, same.out.fab, dev]
    show w.fab = _
    rw [moved]
    rfl
  · have found := buckets q cls hcls (by rw [layout, moved] at hq; exact hq)
    rw [values, values, values]
    refine Eq.trans ?_ found
    rw [getBucket, mem, getBucket]
  · rw [kept.out.ctxs, same.out.ctxs]
    show w.ctxs = _
    rw [moved]
    rfl
  · rw [kept.out.slots, same.out.slots]
    show w.slots = _
    rw [moved]
    rfl
  · rw [mem, moved]; rfl
  · rw [mem, moved]; rfl

/-- R366: which copy of the image SELECT_PROFILE writes. -/
theorem selected_copies {o : Option (BitVec 2)} {t : State} (kept : Settled (selected s p o persist) t) :
    (persist = 1 → ∃ x, x = (if s.hub.cfgCopyB then t.mail.copyA else t.mail.copyB) ∧ copyInForce t = copyInForce s ∧
      x.gen = (copyInForce s).gen + 1 ∧ x.profOk = o.isSome ∧ x.profile = o.getD 0 ∧ x.headerOk = true ∧ x.digestOk = true ∧
      x.data = (copyInForce s).data) ∧
    (persist = 0 → t.mail.copyA = s.mail.copyA ∧ t.mail.copyB = s.mail.copyB) := by
  obtain ⟨pins, b, moved, -⟩ := loadProfile_moves (chosen s p)
  have copy : copyInForce (loadProfile (chosen s p)) = copyInForce s := by rw [moved]; rfl
  have flag : (loadProfile (chosen s p)).hub.cfgCopyB = s.hub.cfgCopyB := by rw [moved]; rfl
  refine ⟨fun hp => ?_, fun hp => ?_⟩
  · rw [selected, persisted, if_pos hp] at kept
    obtain ⟨-, -, inForce, x, hx, fields⟩ := persistProfile_moves (loadProfile (chosen s p)) o
    rw [copy] at inForce fields
    rw [flag] at hx
    refine ⟨x, ?_, (copyInForce_settled kept).trans inForce, fields⟩
    rw [kept.mail.copyA, kept.mail.copyB]
    exact hx
  · rw [selected, persisted, if_neg (by rw [hp]; decide)] at kept
    rw [kept.mail.copyA, kept.mail.copyB, moved]
    exact ⟨rfl, rfl⟩

end

/-- Settles O9: the layout by its regulators, the profile by the settings that it puts in force. -/
theorem layoutAndProfileAreChosen : Obligations.LayoutAndProfileAreChosen := by
  refine ⟨fun r l s h => ⟨fun hl hm hc => partLayout_sets h hl hm hc, fun hl hm => ?_, fun hl hm hc => ?_, fun hl => ?_⟩,
    fun r profile persist s h => ⟨fun bad => ?_, fun hp hk => ⟨fun safe sess => ?_, fun safe => ?_, fun safe sess => ?_⟩⟩⟩
  · exact serves_err (d := 0) rfl h (ansPartLayout_unsupported hl hm)
  · refine conflicts_of rfl h ?_
    rw [ansPartLayout_offered hl hm, if_pos (anyOpen_eq_true hc)]
  · exact serves_err (d := 0) rfl h (if_pos hl)
  · exact serves_err (d := 0) rfl h (ansSelectProfile_outOfRange bad)
  · obtain ⟨t, run, answered, kept⟩ := selectProfile_sets h hp hk safe sess rfl
    obtain ⟨prof, volatile, time, policy, layout, fab, buckets, ctxs, slots, cells, pmap⟩ := selected_inForce kept
    obtain ⟨persists, keeps⟩ := selected_copies kept
    refine ⟨t, run, answered, prof, volatile, time, policy, layout, fab, buckets, ctxs, slots, cells, pmap, fun hp1 => ?_, keeps⟩
    obtain ⟨x, hx, copy, gen, profOk, named, header, digest, data⟩ := persists hp1
    refine ⟨x, hx, copy, gen, profOk.trans ?_, fun hff => named.trans ?_, header, digest, data⟩
    · split
      · rename_i hff
        exact (decide_eq_false (not_not.mpr hff)).symm
      · rename_i hff
        exact (decide_eq_true hff).symm
    · rw [if_neg hff]
      exact if_neg hff
  · exact serves_err (d := 0) rfl h ((ansSelectProfile_inRange hp hk).trans (if_pos safe))
  · refine serves_err (d := 0) rfl h ((ansSelectProfile_inRange hp hk).trans ?_)
    rw [if_neg (by simp [safe]), if_pos (Option.isSome_iff_ne_none.mpr sess)]
    rfl

end Sys2Proof.Machine
end

section
-- One proof after the other: a text of this length has more proofs waiting at once than the check has threads for.
set_option Elab.async false
/-! PROOFS. Low power (R446 to R452). -/
namespace Sys2Proof.Machine

/-! ### The flags of the hub at the end of a step -/

/-- Between two hubs neither an update nor a drain begins, and a device that is neither COLD nor BOOTING stays so. -/
structure Calmer (a b : Hub) : Prop where
  updating : a.updating = false → b.updating = false
  draining : a.draining = false → b.draining = false
  live : a.dev ≠ .cold ∧ a.dev ≠ .booting → b.dev ≠ .cold ∧ b.dev ≠ .booting

theorem Calmer.refl (a : Hub) : Calmer a a := ⟨id, id, id⟩

theorem Calmer.trans {a b c : Hub} (h : Calmer a b) (k : Calmer b c) : Calmer a c :=
  ⟨k.updating ∘ h.updating, k.draining ∘ h.draining, k.live ∘ h.live⟩

@[simp] theorem modImage_hub (s : State) (ty : Nat) (f : Image → Image) : (modImage s ty f).hub = s.hub := rfl

theorem calmer_serveActivate (s : State) : Calmer s.hub (serveActivate s).hub := by
  unfold serveActivate
  split
  · split_ifs
    · exact .refl _
    · exact ⟨id, id, id⟩
    · rw [respond_hub]
      exact ⟨fun _ => rfl, id, id⟩
    · exact .refl _
  · exact .refl _

theorem calmer_takePending (s : State) (cores : Nat → Bool) : Calmer s.hub (takePending s cores).hub := by
  unfold takePending
  dsimp only
  split
  · exact .refl _
  · exact ⟨id, id, id⟩

theorem calmer_finishDrain (s : State) : Calmer s.hub (finishDrain s).hub := by
  unfold finishDrain
  split
  · split
    · rw [respond_hub]
      refine Calmer.trans (b := { s.hub with draining := false, drainReq := none }) ⟨id, fun _ => rfl, id⟩ ?_
      exact calmer_takePending (modHub s fun h => { h with draining := false, drainReq := none }) _
    · exact .refl _
  · exact .refl _

theorem calmer_refreshDev (s : State) : Calmer s.hub (refreshDev s).hub := by
  unfold refreshDev
  dsimp only
  split
  · exact .refl _
  · rw [postNotice_hub]
    exact ⟨id, id, fun h => devNow_live h.1 h.2⟩

theorem calmer_settle (s : State) : Calmer s.hub (settle s).hub := by
  rw [settle, serveWaiters_hub]
  exact ((calmer_serveActivate s).trans (calmer_finishDrain _)).trans (calmer_refreshDev _)

/-- R350: a device that is READY has none of the conditions that come before it. -/
theorem ready_flags {s : State} (h : devNow s = .ready) : (s.hub.dev ≠ .cold ∧ s.hub.dev ≠ .booting) ∧ s.hub.fenced = false ∧
    (s.hub.belfryDown = false ∧ s.hub.diesDown = 0) ∧ s.hub.updating = false ∧ s.hub.draining = false ∧ s.hub.low = false ∧
    s.hub.started = true := by
  unfold devNow at h
  split at h
  · cases h
  · cases h
  · rename_i cold booting
    refine ⟨⟨cold, booting⟩, ?_⟩
    split_ifs at h with h1 h2 h3 h4 h5 h6 h7
    simp only [Bool.or_eq_true, bne_iff_ne, not_or, Bool.not_eq_true, ne_eq, not_not, Bool.not_eq_false'] at *
    simp_all

/-- Only in READY is a command legal whose states are READY alone. -/
theorem ready_of_legal {s : State} (h : inSet 0x008 (devNow s) = true) : devNow s = .ready := by
  generalize devNow s = d at h ⊢
  revert h
  cases d <;> decide

/-- R350: a live device without any of the conditions before LOW_POWER shows it when it is in low power. -/
theorem shows_lowPower {s : State} (hs : ShownStateHolds s) (live : s.hub.dev ≠ .cold ∧ s.hub.dev ≠ .booting)
    (hf : s.hub.fenced = false) (hd : s.hub.belfryDown = false ∧ s.hub.diesDown = 0) (hu : s.hub.updating = false)
    (hr : s.hub.draining = false) (hl : s.hub.low = true) : s.hub.dev = .lowPower := by
  rw [hs]
  unfold devNow
  split
  · exact absurd ‹_› live.1
  · exact absurd ‹_› live.2
  · simp [hf, hd, hu, hr, hl]

/-! ### What the cores lose (R446, R447) -/

theorem memGet_clear (m : Memory) (lo hi i : Nat) : memGet (memClear m lo hi) i = if lo ≤ i ∧ i < hi then 0 else memGet m i := by
  induction m with
  | nil => simp [memClear, memGet]
  | cons c m ih =>
    obtain ⟨a, v⟩ := c
    unfold memClear at ih ⊢
    by_cases keep : a < lo ∨ hi ≤ a
    · rw [List.filter_cons_of_pos (by simpa using keep), memGet, memGet, ih]
      by_cases ha : a = i
      · subst ha
        rw [if_pos rfl, if_pos rfl, if_neg (by omega)]
      · rw [if_neg ha, if_neg ha]
    · rw [List.filter_cons_of_neg (by simpa using keep), ih, memGet]
      by_cases ha : a = i
      · subst ha
        rw [if_pos (by omega), if_pos (by omega)]
      · rw [if_neg ha]

/-- One bank that is not retained. -/
def loseBank (c : PCore) (b : Nat) : PCore :=
  { c with stage := memClear c.stage (b * 131072) ((b + 1) * 131072), stageBad := c.stageBad.filter fun p => p.1 / 512 != b }

/-- The banks of a list that are not retained are lost. -/
def loseBanks (retain : BitVec 32) (l : List Nat) (c : PCore) : PCore :=
  l.foldl (fun c b => if retain.getLsbD b then c else loseBank c b) c

theorem lowLoss_eq (retain : BitVec 32) (c : PCore) : lowLoss retain c = loseBanks retain (List.range 32) (dozeLoss c) := rfl

theorem loseBanks_sems (retain : BitVec 32) (l : List Nat) (c : PCore) : (loseBanks retain l c).sems = c.sems := by
  induction l generalizing c with
  | nil => rfl
  | cons b l ih =>
    refine (ih _).trans ?_
    dsimp only
    split <;> rfl

/-- A byte of a bank is kept when the bank is retained, and reads 0 when it is lost. -/
theorem memGet_loseBanks (retain : BitVec 32) (l : List Nat) (c : PCore) {b i : Nat} (hi : i < 131072) :
    memGet (loseBanks retain l c).stage (131072 * b + i) =
      if retain.getLsbD b = true ∨ b ∉ l then memGet c.stage (131072 * b + i) else 0 := by
  induction l generalizing c with
  | nil => simp [loseBanks]
  | cons a l ih =>
    rw [loseBanks, List.foldl_cons]
    refine (ih _).trans ?_
    by_cases keep : retain.getLsbD a = true
    · rw [if_pos keep]
      refine if_congr ?_ rfl rfl
      by_cases ha : b = a
      · subst ha
        simp [keep]
      · simp [ha]
    · rw [if_neg keep]
      have cleared := memGet_clear c.stage (a * 131072) ((a + 1) * 131072) (131072 * b + i)
      by_cases ha : b = a
      · subst ha
        rw [if_pos (by omega)] at cleared
        have lost : ¬(retain.getLsbD b = true ∨ b ∉ b :: l) := by simp [keep]
        rw [if_neg lost]
        show (if _ then memGet (memClear c.stage (b * 131072) ((b + 1) * 131072)) _ else 0) = 0
        rw [cleared]
        exact ite_self _
      · rw [if_neg (by omega)] at cleared
        refine if_congr (by simp [ha]) cleared rfl

theorem dozeLoss_stage (c : PCore) : (dozeLoss c).stage = c.stage ∧ (dozeLoss c).sems = c.sems := ⟨rfl, rfl⟩

/-- R446, R447: what a core keeps in the low-power state of target `t`. -/
def lowCore (t : Nat) (retain : BitVec 32) (st : PState) (c : PCore) : PCore :=
  { (if t = 1 then c else lowLoss retain c) with pstate := st, xlat := if t = 3 then [] else (if t = 1 then c else lowLoss retain c).xlat }

theorem lowCore_keeps (t : Nat) (retain : BitVec 32) (st : PState) (c : PCore) : (lowCore t retain st c).pstate = st ∧
    (lowCore t retain st c).sems = c.sems ∧ (t = 1 → (lowCore t retain st c).stage = c.stage) ∧
    (t ≠ 1 → ∀ b i, b < 32 → i < 131072 → memGet (lowCore t retain st c).stage (131072 * b + i) =
      if retain.getLsbD b then memGet c.stage (131072 * b + i) else 0) := by
  refine ⟨rfl, ?_, fun ht => ?_, fun ht b i hb hi => ?_⟩
  · show (if t = 1 then c else lowLoss retain c).sems = _
    split
    · rfl
    · exact loseBanks_sems _ _ _
  · show (if t = 1 then c else lowLoss retain c).stage = _
    rw [if_pos ht]
  · show memGet (if t = 1 then c else lowLoss retain c).stage _ = _
    rw [if_neg ht, lowLoss_eq, memGet_loseBanks retain _ _ hi]
    exact if_congr (by simp [hb]) rfl rfl

/-! ### The entry (R450) -/

section
variable {s : State}

theorem mapGet?_map {α β : Type} (g : α → β) (m : AMap α) (k : Nat) :
    mapGet? (m.map fun c => (c.1, g c.2)) k = (mapGet? m k).map g := by
  induction m with
  | nil => rfl
  | cons c m ih =>
    obtain ⟨a, v⟩ := c
    rw [List.map_cons, mapGet?, mapGet?, ih]
    split <;> rfl

/-- The cores of a list stand in the table of the slots. -/
def present (l : List Nat) (s : State) : State := l.foldl (fun s n => setC s n (getC s n)) s

theorem present_moves (l : List Nat) (s : State) : ∃ m, present l s = { s with slots := m } ∧ ∀ p, mapGet m p PCore.reset = getP s p := by
  induction l generalizing s with
  | nil => exact ⟨s.slots, rfl, fun _ => rfl⟩
  | cons a l ih =>
    obtain ⟨m, moved, same⟩ := ih (setC s a (getC s a))
    refine ⟨m, moved, fun p => (same p).trans ?_⟩
    by_cases hp : p = physOf s a
    · subst hp
      exact getP_setP_same _ _ _
    · exact getP_setP_other _ hp _

theorem mapGet?_present {l : List Nat} {n : Nat} (hn : n ∈ l) (s : State) :
    mapGet? (present l s).slots (physOf s n) = some (getC s n) := by
  have stays : ∀ (l : List Nat) (s : State), mapGet? s.slots (physOf s n) = some (getC s n) →
      mapGet? (present l s).slots (physOf s n) = some (getC s n) := fun l => by
    induction l with
    | nil => exact fun s h => h
    | cons a l ih =>
      intro s h
      have same : getC (setC s a (getC s a)) n = getC s n ∧
          mapGet? (setC s a (getC s a)).slots (physOf s n) = some (getC s n) := by
        by_cases hp : physOf s n = physOf s a
        · refine ⟨?_, ?_⟩
          · show getP (setP s (physOf s a) _) (physOf s n) = _
            rw [hp, getP_setP_same, getC, getC, hp]
          · show mapGet? (mapSet s.slots (physOf s a) _) (physOf s n) = _
            rw [hp, mapGet?_set_same, getC, getC, hp]
        · refine ⟨getP_setP_other s hp _, ?_⟩
          show mapGet? (mapSet s.slots (physOf s a) _) (physOf s n) = _
          rw [mapGet?_set_other _ hp, h]
      have rest := ih (setC s a (getC s a)) (same.2.trans (congrArg some same.1.symm))
      exact rest.trans (congrArg some same.1)
  induction l generalizing s with
  | nil => cases hn
  | cons a l ih =>
    by_cases ha : n = a
    · subst ha
      have now : mapGet? (setC s n (getC s n)).slots (physOf s n) = some (getC s n) := mapGet?_set_same _ _ _
      have same : getC (setC s n (getC s n)) n = getC s n := getP_setP_same _ _ _
      exact (stays l (setC s n (getC s n)) (now.trans (congrArg some same.symm))).trans (congrArg some same)
    · have same : getC (setC s a (getC s a)) n = getC s n := by
        by_cases hp : physOf s n = physOf s a
        · show getP (setP s (physOf s a) _) (physOf s n) = _
          rw [hp, getP_setP_same, getC, getC, hp]
        · exact getP_setP_other s hp _
      exact (ih ((List.mem_cons.mp hn).resolve_left ha) (setC s a (getC s a))).trans (congrArg some same)

/-- R452: in Sleep a port that works or trains goes down. -/
def quietPort (s : State) (p : Nat) : State :=
  if (getPort s p).st == .retired || (getPort s p).st == .down then s else setPortState s p .down

def quietPorts (l : List Nat) (s : State) : State := l.foldl quietPort s

theorem frame_setPortState (s : State) (p : Nat) (st : PortState) : AllBut [.fab, .ports, .diag] s (setPortState s p st) :=
  AllBut.ite (fun _ => .refl _ s) fun _ => (AllBut.mono (frame_modPort s p _)).trans (.mono (frame_lifeAdd _ _ _))

theorem frame_quietPorts (l : List Nat) (s : State) : AllBut [.fab, .ports, .diag] s (quietPorts l s) :=
  AllBut.foldl (fun s p => AllBut.ite (fun _ => .refl _ s) fun _ => frame_setPortState s p _) l s

theorem modPort_outOfBounds (s : State) {p : Nat} (h : 36 ≤ p) (f : PortBlock → PortBlock) : modPort s p f = s := by
  unfold modPort setPort
  rw [vector_set_outOfBounds _ h]

theorem getPort_setPortState (s : State) (p : Nat) (st : PortState) (q : Nat) :
    (getPort (setPortState s p st) q).st = if q = p ∧ p < 36 then st else (getPort s q).st := by
  unfold setPortState
  split
  · rename_i same
    split
    · rename_i here
      rw [here.1, same]
    · rfl
  · have fab : getPort (lifeAdd (modPort s p fun b => { b with st := st }) 0x38 1) q = getPort (modPort s p fun b => { b with st := st }) q :=
      getPort_congr rfl q
    rw [fab]
    by_cases hq : q = p
    · subst hq
      by_cases hb : q < 36
      · rw [getPort_modPort_same _ hb, if_pos ⟨rfl, hb⟩]
      · rw [if_neg (fun h => hb h.2), modPort_outOfBounds _ (Nat.not_lt.mp hb)]
    · rw [getPort_modPort_other _ hq, if_neg (fun h => hq h.1)]

/-- A port that is not up stays so, and one of the list is not up. -/
theorem quietPorts_down {l : List Nat} {p : Nat} (hp : p < 36) (s : State) (h : p ∈ l ∨ portUp (getPort s p) = false) :
    portUp (getPort (quietPorts l s) p) = false := by
  induction l generalizing s with
  | nil => exact h.resolve_left nofun
  | cons a l ih =>
    refine ih (quietPort s a) ?_
    by_cases here : p ∈ l
    · exact .inl here
    · refine .inr ?_
      have st : (getPort (quietPort s a) p).st = (getPort s p).st ∨ (getPort (quietPort s a) p).st = .down := by
        unfold quietPort
        split
        · exact .inl rfl
        · rw [getPort_setPortState]
          split
          · exact .inr rfl
          · exact .inl rfl
      by_cases ha : p = a
      · subst ha
        unfold quietPort
        split
        · rename_i off
          rcases Bool.or_eq_true _ _ ▸ off with off | off <;> simp [portUp, beq_iff_eq.mp off]
        · simp [portUp, getPort_setPortState, hp]
      · have down := h.resolve_left (fun h => (List.mem_cons.mp h).elim ha here)
        rcases st with st | st
        · rw [portUp, st]
          exact down
        · simp [portUp, st]

/-- R452: what Sleep and Doze do outside the cores. -/
def lowTail (t : Nat) (s : State) : State :=
  if t = 3 then
    let s := modMem s fun m => { m with ctrl := m.ctrl.map fun k => { k with selfRefresh := true, lines := [] } }
    let s := quietPorts (List.range (portCount s)) s
    if s.time.parent.isSome && !s.time.master && comparing s then
      modTime s fun t => { t with holdover := true, parent := none } else s
  else if t = 2 then modMem s fun m => { m with ctrl := m.ctrl.map fun k => { k with lines := [] } }
  else s

theorem frame_lowTail (t : Nat) (s : State) : AllBut [.fab, .ports, .diag, .time, .mem, .cells, .pmap] s (lowTail t s) := by
  unfold lowTail
  refine AllBut.ite (fun _ => ?_) fun _ => AllBut.ite (fun _ => .mono (frame_modMem _ _)) fun _ => .refl _ s
  extract_lets s1 s2
  have h1 : AllBut [.fab, .ports, .diag, .time, .mem, .cells, .pmap] s s1 := .mono (frame_modMem s _)
  have h2 : AllBut [.fab, .ports, .diag, .time, .mem, .cells, .pmap] s1 s2 := .mono (frame_quietPorts _ s1)
  exact (h1.trans h2).trans (AllBut.ite (fun _ => .mono (frame_modTime s2 _)) fun _ => .refl _ s2)

theorem lowTail_mem (t : Nat) (s : State) : (lowTail t s).mem.cells = s.mem.cells ∧ (lowTail t s).mem.pmap = s.mem.pmap := by
  unfold lowTail
  split
  · extract_lets s1 s2
    have mem : s2.mem = s1.mem := frame_quietPorts _ s1 .mem (by decide)
    have both : s2.mem.cells = s.mem.cells ∧ s2.mem.pmap = s.mem.pmap := by
      rw [mem]
      exact ⟨rfl, rfl⟩
    split <;> exact both
  · split <;> exact ⟨rfl, rfl⟩

theorem lowTail_sleeps (s : State) : (∀ i, i < 80 → (getCtrl (lowTail 3 s) i).selfRefresh = true) ∧
    ∀ p, p < portCount s → portUp (getPort (lowTail 3 s) p) = false := by
  rw [lowTail, if_pos rfl]
  extract_lets s1 s2
  have mem : s2.mem = s1.mem := frame_quietPorts _ s1 .mem (by decide)
  have few : portCount s ≤ 36 := by
    unfold portCount
    split <;> decide
  have down : ∀ p, p < portCount s → portUp (getPort s2 p) = false := fun p hp =>
    quietPorts_down (by omega) s1 (.inl (List.mem_range.mpr hp))
  have fresh : ∀ i, i < 80 → (getCtrl s2 i).selfRefresh = true := fun i hi => by
    rw [getCtrl, mem]
    simp [s1, Vector.getD, hi]
  split <;> exact ⟨fresh, down⟩

/-- R450: what the entry leaves of the hub, memory, the cores, the controllers and the ports. -/
theorem enterLow_moves (s : State) (t : Nat) (retain : BitVec 32) :
    (enterLow s t retain).hub = { s.hub with low := true, lpTarget := BitVec.ofNat 2 t, retain := retain } ∧
    ((enterLow s t retain).mem.cells = s.mem.cells ∧ (enterLow s t retain).mem.pmap = s.mem.pmap) ∧
    (enterLow s t retain).mail = s.mail ∧ (enterLow s t retain).opt = s.opt ∧
    (∀ n, n < 128 → inService s n = true → getC (enterLow s t retain) n =
      lowCore t retain (if t = 1 then .hold else if t = 2 then .doze else .sleep) (getC s n)) ∧
    (t = 3 → (∀ i, i < 80 → (getCtrl (enterLow s t retain) i).selfRefresh = true) ∧
      ∀ p, p < portCount s → portUp (getPort (enterLow s t retain) p) = false) := by
  unfold enterLow
  extract_lets st s1 s2 s3
  obtain ⟨m, h2, -⟩ := present_moves ((List.range 128).filter (inService s1)) s1
  have h2 : s2 = { s1 with slots := m } := h2
  have h3 : s3 = { s1 with slots := m.map fun c => (c.1, lowCore t retain st c.2) } := by
    simp only [s3, h2]
    rfl
  have frame := frame_lowTail t s3
  have found : ∀ n, n < 128 → inService s n = true → getC s3 n = lowCore t retain st (getC s n) := fun n hn hs => by
    have there := mapGet?_present (l := (List.range 128).filter (inService s1)) (n := n)
      (List.mem_filter.mpr ⟨List.mem_range.mpr hn, hs⟩) s1
    have mapped := mapGet?_map (lowCore t retain st) s2.slots (physOf s1 n)
    rw [show mapGet? s2.slots (physOf s1 n) = some (getC s1 n) from there] at mapped
    have phys : physOf s3 n = physOf s1 n := physOf_congr (by rw [h3]) n
    have slots : s3.slots = s2.slots.map fun c => (c.1, lowCore t retain st c.2) := rfl
    rw [getC, phys, getP, mapGet, slots, mapped]
    rfl
  show (lowTail t s3).hub = _ ∧ ((lowTail t s3).mem.cells = _ ∧ (lowTail t s3).mem.pmap = _) ∧ (lowTail t s3).mail = _ ∧
    (lowTail t s3).opt = _ ∧ (∀ n, n < 128 → inService s n = true → getC (lowTail t s3) n = _) ∧ (t = 3 → (∀ i, i < 80 →
      (getCtrl (lowTail t s3) i).selfRefresh = true) ∧ ∀ p, p < portCount s → portUp (getPort (lowTail t s3) p) = false)
  have hub : (lowTail t s3).hub = s3.hub := frame .hub (by decide)
  have opt : (lowTail t s3).opt = s3.opt := frame .opt (by decide)
  refine ⟨?_, ?_, ?_, ?_, fun n hn hs => ?_, fun ht => ?_⟩
  · rw [hub, h3]
    rfl
  · rw [(lowTail_mem t s3).1, (lowTail_mem t s3).2, h3]
    exact ⟨rfl, rfl⟩
  · have mail : (lowTail t s3).mail = s3.mail := frame .mail (by decide)
    rw [mail, h3]
    rfl
  · rw [opt, h3]
    rfl
  · rw [getC_congr hub (frame .slots (by decide))]
    exact found n hn hs
  · subst ht
    have count : portCount s3 = portCount s := by
      rw [portCount, h3]
      rfl
    exact count ▸ lowTail_sleeps s3

/-! ### LOW_POWER and WAKE (R446 to R452) -/

section
variable {r : Req} {target : BitVec 8} {retain : BitVec 64} {ab : Option (Fin 4)}

theorem ansLowPower_outOfRange (h : target = 0 ∨ 3 < target.toNat ∨ 2 ^ 32 ≤ retain.toNat) :
    ansLowPower target retain ab s = err s stBadArg 0 := by
  refine if_pos ?_
  simp only [Bool.or_eq_true, Bool.not_eq_true', ← Bool.not_eq_true, within_iff, decide_eq_true_iff]
  rcases h with rfl | h | h
  · exact .inl (by decide)
  · exact .inl (by omega)
  · exact .inr h

theorem ansLowPower_inRange (h1 : 1 ≤ target.toNat) (h3 : target.toNat ≤ 3) (hr : retain.toNat < 2 ^ 32) :
    ansLowPower target retain ab s = if lpBusy s then err s stBusy 0
      else match ab with
        | some k => err (modPwr s fun w => { w with lpAborts := countPoint w.lpAborts k.val }) stBusy 0
        | none => ok (enterLow s target.toNat (retain.setWidth 32)) [] := by
  refine (if_neg ?_).trans ?_
  · simp [within, h1, h3]
    exact hr
  · cases ab <;> rfl

/-- An answer that moves the state and refuses is served with its status. -/
theorem serves_errTo {c : Instr} {code : BitVec 16} {legal : BitVec 32} {f : State → Answer} {st : BitVec 8} {d : Nat} {s' : State}
    (he : RunsAs c r code legal f s) (h : Ready code legal r s) (ha : f s = err s' st d) (hr : s'.mail.responses = s.mail.responses)
    (hcode : ¬(0x0501 ≤ code.toNat ∧ code.toNat ≤ 0x0504) := by decide) : Serves c s s' r code st [] :=
  serves_of_answer (a := err s' st d) he h (answer_taken hcode ha) rfl (.refl _) hr

theorem getLsbD_setWidth32 (v : BitVec 64) {b : Nat} (hb : b < 32) : (v.setWidth 32).getLsbD b = v.getLsbD b := by
  simp [hb]

theorem lowPower_enters (h : Ready 0x0009 0x008 r s) (h1 : 1 ≤ target.toNat) (h3 : target.toNat ≤ 3) (hr : retain.toNat < 2 ^ 32)
    (hb : lpBusy s = false) : ∃ t, exec (.lowPower r target retain none) s = .next t ∧ Answers s t r 0x0009 0x00 [] ∧ t.hub.low = true ∧
      t.hub.dev = .lowPower ∧ t.mem.cells = s.mem.cells ∧ t.mem.pmap = s.mem.pmap ∧
      (∀ n, n < 128 → inService s n = true →
        (getC t n).pstate = (if target = 1 then .hold else if target = 2 then .doze else .sleep) ∧
        (getC t n).sems = (getC s n).sems ∧ (target = 1 → (getC t n).stage = (getC s n).stage) ∧
        (target ≠ 1 → ∀ b i, b < 32 → i < 131072 → memGet (getC t n).stage (131072 * b + i) =
          (if retain.getLsbD b then memGet (getC s n).stage (131072 * b + i) else 0))) ∧
      (target = 3 → (∀ i, i < 80 → (getCtrl t i).selfRefresh = true) ∧ ∀ p, p < portCount t → portUp (getPort t p) = false) := by
  obtain ⟨u, hu⟩ : ∃ u, u = enterLow s target.toNat (retain.setWidth 32) := ⟨_, rfl⟩
  have answer : ansLowPower target retain none s = ok u [] := by
    rw [ansLowPower_inRange h1 h3 hr, if_neg (by simp [hb]), hu]
  obtain ⟨hub, ⟨cells, pmap⟩, mail, opt, cores, sleeps⟩ := enterLow_moves s target.toNat (retain.setWidth 32)
  rw [← hu] at hub cells pmap mail opt cores sleeps
  have runs : RunsAs (.lowPower r target retain none) r 0x0009 0x008 (ansLowPower target retain none) s := rfl
  have run := exec_ready runs h (answer_taken (by decide) answer)
  rw [reply_ok] at run
  obtain ⟨v, hv⟩ : ∃ v, v = respond u r 0x0009 stOk 0 0 0x008 [] := ⟨_, rfl⟩
  rw [← hv] at run
  have kept : Settled u (settle v) := by
    rw [hv]
    exact (settled_respond _ _ _ _ _ _ _ _).trans (settle_settled _)
  have vhub : v.hub = u.hub := by rw [hv, respond_hub]
  have one : target.toNat = 1 ↔ target = 1 := by rw [← BitVec.toNat_inj]; rfl
  have two : target.toNat = 2 ↔ target = 2 := by rw [← BitVec.toNat_inj]; rfl
  have three : target.toNat = 3 ↔ target = 3 := by rw [← BitVec.toNat_inj]; rfl
  refine ⟨_, run, ?_, ?_, ?_, ?_, ?_, fun n hn hs => ?_, fun ht => ?_⟩
  · have said : Answers s v r 0x0009 0x00 [] := by
      rw [hv]
      exact answers_respond 0x0009 stOk 0 0 0x008 (by rw [mail])
    exact said.mono (settle_settled v).mail.responses
  · rw [kept.hub.low, hub]
  · obtain ⟨-, -, legal⟩ := h
    obtain ⟨live, fenced, down, updating, draining, -, -⟩ := ready_flags (ready_of_legal legal)
    have calm := calmer_settle v
    rw [vhub, hub] at calm
    refine shows_lowPower (settle_shows v) (calm.live live) ?_ ?_ (calm.updating updating) (calm.draining draining) ?_
    · rw [kept.hub.fenced, hub]
      exact fenced
    · rw [kept.hub.belfryDown, kept.hub.diesDown, hub]
      exact down
    · rw [kept.hub.low, hub]
  · rw [kept.out.mem, cells]
  · rw [kept.out.mem, pmap]
  · have same : getC (settle v) n = lowCore target.toNat (retain.setWidth 32)
        (if target.toNat = 1 then .hold else if target.toNat = 2 then .doze else .sleep) (getC s n) := by
      have phys : physOf (settle v) n = physOf u n := by
        rw [physOf, coreEntry, kept.hub.coreMap, physOf, coreEntry]
      rw [← cores n hn hs, getC, phys, getP_congr kept.out.slots, getC]
    obtain ⟨pstate, sems, hold, lost⟩ := lowCore_keeps target.toNat (retain.setWidth 32)
      (if target.toNat = 1 then .hold else if target.toNat = 2 then .doze else .sleep) (getC s n)
    rw [same]
    refine ⟨?_, sems, fun ht => hold (one.mpr ht), fun ht b i hb' hi => ?_⟩
    · rw [pstate]
      exact if_congr one rfl (if_congr two rfl rfl)
    · rw [lost (mt one.mp ht) b i hb' hi, getLsbD_setWidth32 retain hb']
  · obtain ⟨fresh, down⟩ := sleeps (three.mpr ht)
    have count : portCount (settle v) = portCount s := by rw [portCount, kept.out.opt, opt, portCount]
    refine ⟨fun i hi => ?_, fun p hp => ?_⟩
    · rw [getCtrl, kept.out.mem]
      exact fresh i hi
    · rw [getPort_congr (congrArg Fabric.ports kept.out.fab)]
      exact down p (count ▸ hp)

/-- R452: a core that has woken. -/
def awake (c : PCore) : PCore := { c with pstate := .run }

/-- R452: what the wake leaves. -/
theorem leaveLow_moves (h : s.hub.low = true) : ∃ pwr, leaveLow s = { s with
    pwr := pwr, hub := { s.hub with low := false, lpTarget := 0 }, slots := s.slots.map fun c => (c.1, awake c.2)
    mem := { s.mem with ctrl := s.mem.ctrl.map fun k => { k with selfRefresh := k.role == .spare } } } :=
  ⟨_, by rw [leaveLow, if_neg (by simp [h])]; rfl⟩

/-- A request that is taken from its buffer is settled, whatever the hub notes of it. -/
theorem settled_handedHub (f : Hub → Hub) : Settled { s with hub := f s.hub } (modHub (handed s r) f) := by
  obtain ⟨⟨opt, pins, time, latches, ticks, slots, lcores, mem, ctxs, fab, sec, pwr, diag, free, pending, outbox⟩, mail, -⟩ :=
    settled_handed s r
  refine ⟨⟨opt, pins, time, latches, ticks, slots, lcores, mem, ctxs, fab, sec, pwr, diag, free, pending, outbox⟩, mail, ?_⟩
  rw [modHub_hub, handed_hub]
  exact .refl _

theorem exec_deviceWake {since : Nat} (hw : s.hub.wakeReq = some (r, since)) (hu : belfryUp s = true) : exec .deviceWake s =
    done (respond (modHub (leaveLow s) fun h => { h with wakeReq := none }) r 0x000A 0 0 0 0x200
      (leBytes 4 ((s.ticks - since) / 4000))) := by
  show execDeviceWake s = _
  rw [execDeviceWake, hw]
  exact congrArg done (if_pos hu)

theorem deviceWake_wakes {since : Nat} (hw : s.hub.wakeReq = some (r, since)) (hu : belfryUp s = true) (hl : s.hub.low = true) :
    ∃ t, exec .deviceWake s = .next t ∧ Answers s t r 0x000A 0x00 (leBytes 4 ((s.ticks - since) / 4000)) ∧
      t.hub.low = false ∧ t.hub.wakeReq = none ∧ t.mem.cells = s.mem.cells ∧ t.ctxs = s.ctxs ∧
      (∀ p k, mapGet? t.slots p = some k → k.pstate = .run ∧ ∃ k', mapGet? s.slots p = some k' ∧ k = { k' with pstate := .run }) ∧
      ∀ i, i < 80 → getCtrl t i = { getCtrl s i with selfRefresh := (getCtrl s i).role == .spare } := by
  obtain ⟨pwr, moved⟩ := leaveLow_moves hl
  obtain ⟨u, hv⟩ : ∃ u, u = modHub (leaveLow s) fun h => { h with wakeReq := none } := ⟨_, rfl⟩
  have run := exec_deviceWake hw hu
  rw [← hv] at run
  have kept : Settled u (settle (respond u r 0x000A 0 0 0 0x200 (leBytes 4 ((s.ticks - since) / 4000)))) :=
    (settled_respond _ _ _ _ _ _ _ _).trans (settle_settled _)
  rw [moved] at hv
  refine ⟨_, run, ?_, ?_, ?_, ?_, ?_, fun p k hk => ?_, fun i hi => ?_⟩
  · have said : Answers s (respond u r 0x000A 0 0 0 0x200 (leBytes 4 ((s.ticks - since) / 4000))) r 0x000A 0x00
        (leBytes 4 ((s.ticks - since) / 4000)) := answers_respond _ _ _ _ _ (by rw [hv]; rfl)
    exact said.mono (settle_settled _).mail.responses
  · rw [kept.hub.low, hv]; rfl
  · rw [kept.hub.wakeReq, hv]; rfl
  · rw [kept.out.mem, hv]; rfl
  · rw [kept.out.ctxs, hv]; rfl
  · have slots : u.slots = s.slots.map fun c => (c.1, awake c.2) := by rw [hv]; rfl
    rw [kept.out.slots, slots, mapGet?_map awake] at hk
    obtain ⟨k', hk', rfl⟩ := Option.map_eq_some_iff.mp hk
    exact ⟨rfl, k', hk', rfl⟩
  · rw [getCtrl, kept.out.mem, hv]
    simp [getCtrl, Vector.getD, hi]

end

end

/-- Settles O11: the entry by what each core keeps, the wake by what it answers. -/
theorem lowPowerIsEnteredAndLeft : Obligations.LowPowerIsEnteredAndLeft := by
  refine ⟨fun r target retain ab s h => ⟨fun h1 h3 hr hb => ⟨?_, ?_⟩, fun bad => ?_, fun h1 h3 hr hb => ?_⟩,
    fun r since s => ⟨fun h hw => ?_, fun h hw => ?_, fun hw hu hl => deviceWake_wakes hw hu hl⟩⟩
  · rintro k rfl
    exact serves_errTo (d := 0) rfl h ((ansLowPower_inRange h1 h3 hr).trans (if_neg (by simp [hb]))) rfl
  · rintro rfl
    exact lowPower_enters h h1 h3 hr hb
  · exact serves_err (d := 0) rfl h (ansLowPower_outOfRange bad)
  · exact serves_err (d := 0) rfl h ((ansLowPower_inRange h1 h3 hr).trans (if_pos hb))
  · have answer : ansWake r s = later (modHub (handed s r) fun h => { h with wakeReq := some (r, s.ticks) }) := by rw [ansWake, hw]; rfl
    refine ⟨_, exec_later rfl h answer, Settled.trans ?_ (settle_settled _)⟩
    exact settled_handedHub fun h => { h with wakeReq := some (r, s.ticks) }
  · exact serves_err (d := 0) rfl h (if_pos (Option.isSome_iff_ne_none.mpr hw))

end Sys2Proof.Machine
end

section
-- One proof after the other: a text of this length has more proofs waiting at once than the check has threads for.
set_option Elab.async false
/-! PROOFS. Configuration sessions (R358, R367 to R370). -/
namespace Sys2Proof.Machine

section
variable {c : Instr} {r : Req} {code : BitVec 16} {legal : BitVec 32} {f : State → Answer} {s u t : State}

/-- A refusal in the state in which the request is judged. -/
theorem refusesTo_err {st : BitVec 8} {d : Nat} (he : RunsAs c r code legal f s) (h : Ready code legal r s)
    (ha : f (takenUp r code s) = err (takenUp r code s) st d) : RefusesTo c s (takenUp r code s) r code st d :=
  ⟨_, exec_ready he h ha, (settled_reply (a := err _ st d) rfl).trans (settle_settled _), _,
    reply_recorded rfl (takenUp_same r code s).2.2.2.1, rfl, rfl, rfl, rfl, rfl, rfl, rfl, rfl⟩

/-- A conflict in the state in which the request is judged. -/
theorem conflictsTo_of {k : BitVec 8} {d : Nat} {l : BitVec 32} (he : RunsAs c r code legal f s) (h : Ready code legal r s)
    (ha : f (takenUp r code s) = conflict (takenUp r code s) k d l) :
    ConflictsTo c s (takenUp r code s) r code k (BitVec.ofNat 16 d) l :=
  ⟨_, exec_ready he h ha, (settled_reply (a := conflict _ k d l) rfl).trans (settle_settled _), _,
    reply_recorded rfl (takenUp_same r code s).2.2.2.1, rfl, rfl, rfl, rfl, rfl, rfl, rfl, rfl, rfl⟩

/-- A command served in the state in which the request is judged. -/
theorem serves_okTo {s' : State} {b : Bytes} (he : RunsAs c r code legal f s) (h : Ready code legal r s)
    (ha : f (takenUp r code s) = ok s' b) (hr : s'.mail.responses = s.mail.responses) : Serves c s s' r code 0x00 b :=
  serves_of_answer (a := ok s' b) he h ha rfl (.refl _) hr

/-- A command that moves the mailboxes alone leaves everything apart from them. -/
theorem apart_of_mail {m : Mail} (h : Settled { s with mail := m } t) : Apart s t := by
  obtain ⟨opt, pins, time, latches, ticks, slots, lcores, mem, ctxs, fab, sec, pwr, diag, free, pending, outbox⟩ := h.out
  exact ⟨opt, mem, ctxs, slots, lcores, sec, pwr, congrArg TimeBlock.now time, latches, pending⟩

/-! ### The session (R367) -/

/-- R367: taking up a request moves at most the time of the session's last command. -/
theorem takenUp_moves (r : Req) (code : BitVec 16) (s : State) : ∃ q, takenUp r code s = { s with mail := { s.mail with session := q } } ∧
    q.map (·.mbx) = s.mail.session.map (·.mbx) := by
  unfold takenUp touchSession
  split
  · exact ⟨s.mail.session, rfl, rfl⟩
  · split
    · refine ⟨_, rfl, ?_⟩
      rw [Option.map_map]
      refine Option.map_congr fun q _ => ?_
      dsimp only [Function.comp]
      split <;> rfl
    · exact ⟨s.mail.session, rfl, rfl⟩

theorem holds_congr (h : u.mail.session.map (·.mbx) = s.mail.session.map (·.mbx)) : holds u r = holds s r := by
  have pull : ∀ o : Option CfgSession, (o.map fun q => q.mbx == r.mbx.val) = (o.map (·.mbx)).map (· == r.mbx.val) := fun o => by
    rw [Option.map_map]
    rfl
  rw [holds, holds, pull, pull, h]

theorem holds_iff : holds s r = true ↔ ∃ q, s.mail.session = some q ∧ q.mbx = r.mbx.val := by
  unfold holds
  cases s.mail.session <;> simp

theorem not_holds_of_none (h : s.mail.session = none) : holds s r = false := by rw [holds, h]; rfl

theorem isSome_of_map_eq {q p : Option CfgSession} (h : q.map (·.mbx) = p.map (·.mbx)) : q.isSome = p.isSome := by
  have := congrArg Option.isSome h
  rwa [Option.isSome_map, Option.isSome_map] at this

/-! ### The copy that a session prepares (R364) -/

theorem staleCopy_settled (h : Settled s t) : staleCopy t = staleCopy s := by
  simp only [staleCopy, h.hub.cfgCopyB, h.mail.copyA, h.mail.copyB]

theorem modStale_moves (s : State) (g : Carillon → Carillon) : staleCopy (modStale s g) = g (staleCopy s) ∧
    copyInForce (modStale s g) = copyInForce s ∧
    modStale s g = { s with mail := { s.mail with copyA := (modStale s g).mail.copyA, copyB := (modStale s g).mail.copyB } } := by
  unfold modStale
  cases h : s.hub.cfgCopyB <;> simp [staleCopy, copyInForce, h, modMail]

/-- What is read from the flash copies does not see the session. -/
theorem sessionless (s : State) (q : Option CfgSession) :
    staleCopy { s with mail := { s.mail with session := q } } = staleCopy s ∧
    copyInForce { s with mail := { s.mail with session := q } } = copyInForce s ∧
    genInForce { s with mail := { s.mail with session := q } } = genInForce s := ⟨rfl, rfl, rfl⟩

theorem sameSettings_session (s : State) (q : Option CfgSession) : SameSettings s { s with mail := { s.mail with session := q } } :=
  ⟨rfl, rfl, userRecs_congr (.refl _) rfl rfl rfl⟩

theorem inForceBytes_session (s : State) (q : Option CfgSession) :
    inForceBytes { s with mail := { s.mail with session := q } } = inForceBytes s := by
  have regul := (sameSettings_session s q).regul (show _ = s.hub.layout from rfl)
  simp only [inForceBytes, regul, (sameSettings_session s q).dev]

end

/-! ### CFG_BEGIN -/

section
variable {r : Req} {s : State}

theorem cfgBegin_held (h : Ready 0x0501 setUp r s) (hs : s.mail.session ≠ none) :
    ConflictsTo (.cfgBegin r) s (takenUp r 0x0501 s) r 0x0501 0x06 1 0x1 := by
  obtain ⟨q, moved, same⟩ := takenUp_moves r 0x0501 s
  have held : (takenUp r 0x0501 s).mail.session.isSome = true := by
    rw [moved]
    exact (isSome_of_map_eq same).trans (Option.isSome_iff_ne_none.mpr hs)
  have answer : ansCfgBegin r (takenUp r 0x0501 s) = conflict (takenUp r 0x0501 s) 6 1 0x1 := by
    rw [ansCfgBegin, if_pos held, sessionConflict, held]
    rfl
  exact conflictsTo_of rfl h answer

theorem cfgBegin_begins (h : Ready 0x0501 setUp r s) (hs : s.mail.session = none) :
    ∃ t, exec (.cfgBegin r) s = .next t ∧ Answers s t r 0x0501 0x00 (leBytes 4 (genInForce s).toNat) ∧
      t.mail.session = some { mbx := r.mbx.val, last := s.ticks } ∧
      (staleCopy t).data = (if s.hub.cfgDefault then Vector.replicate 6 [] else (copyInForce s).data) ∧
      (staleCopy t).headerOk = false ∧ copyInForce t = copyInForce s ∧ Apart s t := by
  obtain ⟨q, moved, same⟩ := takenUp_moves r 0x0501 s
  have unheld : q = none := by
    rw [hs] at same
    exact Option.map_eq_none_iff.mp same
  have taken : takenUp r 0x0501 s = s := by
    rw [moved, unheld, ← hs]
  obtain ⟨g, hg⟩ : ∃ g : Carillon → Carillon, g = fun k => { k with
      headerOk := false, data := if s.hub.cfgDefault then Vector.replicate 6 [] else (copyInForce s).data } := ⟨_, rfl⟩
  obtain ⟨stale, copy, frame⟩ := modStale_moves s g
  obtain ⟨v, hv⟩ : ∃ v, v = modStale s g := ⟨_, rfl⟩
  rw [← hv] at stale copy frame
  have gen : genInForce v = genInForce s := by
    rw [genInForce, copy, frame, genInForce]
  have answer : ansCfgBegin r (takenUp r 0x0501 s) =
      ok (modMail v fun m => { m with session := some { mbx := r.mbx.val, last := s.ticks } }) (leBytes 4 (genInForce s).toNat) := by
    rw [taken, ansCfgBegin, if_neg (by simp [hs]), ← gen, hv, hg]
    have ticks : (modStale s g).ticks = s.ticks := by rw [← hv, frame]
    rw [hg] at ticks
    dsimp only
    rw [ticks]
    rfl
  have runs : RunsAs (.cfgBegin r) r 0x0501 setUp (ansCfgBegin r) s := rfl
  obtain ⟨t, run, kept, answered⟩ := serves_okTo runs h answer (by rw [modMail_mail, frame])
  have stale_t : staleCopy t = g (staleCopy s) := (staleCopy_settled kept).trans stale
  refine ⟨t, run, answered, kept.mail.session, ?_, ?_, (copyInForce_settled kept).trans copy, ?_⟩
  · rw [stale_t, hg]
  · rw [stale_t, hg]
  · rw [frame] at kept
    exact apart_of_mail kept

/-! ### Commands of the holder, and of another mailbox (R343, R367) -/

/-- A command that only the holder may give is a conflict without a session, and with another's. -/
theorem session_conflicts {c : Instr} {code : BitVec 16} {legal : BitVec 32} {f : State → Answer} (he : RunsAs c r code legal f s)
    (h : Ready code legal r s) (hf : ∀ u, holds u r = false → f u = sessionConflict u (if u.mail.session.isSome then 0x1 else 0x2)) :
    (s.mail.session = none → ConflictsTo c s (takenUp r code s) r code 0x06 0 0x2) ∧
    (s.mail.session ≠ none → holds s r = false → ConflictsTo c s (takenUp r code s) r code 0x06 1 0x1) := by
  obtain ⟨q, moved, same⟩ := takenUp_moves r code s
  have someness : (takenUp r code s).mail.session.isSome = s.mail.session.isSome := by
    rw [moved]
    exact isSome_of_map_eq same
  have held : holds (takenUp r code s) r = holds s r := by
    rw [moved]
    exact holds_congr same
  refine ⟨fun hs => conflictsTo_of (d := 0) he h ?_, fun hs hm => conflictsTo_of (d := 1) he h ?_⟩
  · rw [hf _ (held.trans (not_holds_of_none hs)), sessionConflict, someness, hs]
    rfl
  · rw [hf _ (held.trans hm), sessionConflict, someness, Option.isSome_iff_ne_none.mpr hs]
    rfl

theorem holds_takenUp (code : BitVec 16) : holds (takenUp r code s) r = holds s r := by
  obtain ⟨q, moved, same⟩ := takenUp_moves r code s
  rw [moved]
  exact holds_congr same

/-- The flash copies as a taken-up request finds them. -/
theorem copies_takenUp (code : BitVec 16) : staleCopy (takenUp r code s) = staleCopy s ∧
    copyInForce (takenUp r code s) = copyInForce s ∧ genInForce (takenUp r code s) = genInForce s ∧
    (takenUp r code s).mail.cal = s.mail.cal ∧ (takenUp r code s).hub = s.hub ∧ (takenUp r code s).mail.copyA = s.mail.copyA ∧
    (takenUp r code s).mail.copyB = s.mail.copyB := by
  obtain ⟨q, moved, -⟩ := takenUp_moves r code s
  rw [moved]
  exact ⟨rfl, rfl, rfl, rfl, rfl, rfl, rfl⟩

theorem apart_takenUp {code : BitVec 16} {m : Mail} {t : State} (h : Settled { takenUp r code s with mail := m } t) : Apart s t := by
  obtain ⟨q, moved, -⟩ := takenUp_moves r code s
  rw [moved] at h
  exact apart_of_mail h

/-! ### CFG_WRITE (R367, R370) -/

section
variable {g : BitVec 8} {off : BitVec 32} {d : Bytes} {m : Memory}

theorem runsAs_cfgWrite (hd : d.length ≤ 4056) : RunsAs (.cfgWrite r g off d) r 0x0502 setUp (ansCfgWrite r g off d) s :=
  if_pos (decide_eq_true (show 8 + d.length ≤ 4064 by omega))

theorem ansCfgWrite_other {u : State} (h : holds u r = false) :
    ansCfgWrite r g off d u = sessionConflict u (if u.mail.session.isSome then 0x1 else 0x2) := if_pos (by simp [h])

theorem ansCfgWrite_factory {u : State} (h : holds u r = true) (hg : g.toNat < 2) : ansCfgWrite r g off d u = err u stDenied 0 :=
  (if_neg (by simp [h])).trans (if_pos hg)

theorem ansCfgWrite_outOfRange {u : State} (h : holds u r = true) (hg : 2 ≤ g.toNat)
    (bad : 8 ≤ g.toNat ∨ d = [] ∨ 4000 < d.length ∨ regionLen g.toNat < off.toNat + d.length) :
    ansCfgWrite r g off d u = err u stBadArg 0 := by
  refine (if_neg (by simp [h])).trans ((if_neg (by omega)).trans (if_pos ?_))
  rcases bad with bad | rfl | bad | bad
  · exact .inl bad
  · exact .inr (.inl rfl)
  · exact .inr (.inl (by simp [within]; omega))
  · exact .inr (.inr bad)

theorem ansCfgWrite_inRange {u : State} (h : holds u r = true) (hg : 2 ≤ g.toNat) (h7 : g.toNat ≤ 7) (hd : d ≠ []) (hl : d.length ≤ 4000)
    (hr : off.toNat + d.length ≤ regionLen g.toNat) (hm : m = memWrite ((staleCopy u).data.getD (g.toNat - 2) []) off.toNat d) :
    ansCfgWrite r g off d u = if g.toNat = 7 ∧ off.toNat < 4 ∧ r.mbx.val < 16 ∧ memRead m 0 4 ≠ fit 4 u.mail.cal then err u stDenied 0
      else ok (modStale u fun c => { c with data := c.data.setIfInBounds (g.toNat - 2) m }) [] := by
  have some_ : 1 ≤ d.length := List.length_pos_iff.mpr hd
  subst hm
  refine (if_neg (by simp [h])).trans ((if_neg (by omega)).trans (if_neg ?_))
  simp only [not_or, Bool.not_eq_true', ← Bool.not_eq_true, not_not, within_iff]
  exact ⟨by omega, ⟨some_, hl⟩, by omega⟩

theorem cfgWrite_writes (h : Ready 0x0502 setUp r s) (hw : d.length ≤ 4056) (hh : holds s r = true) (hg : 2 ≤ g.toNat) (h7 : g.toNat ≤ 7)
    (hd : d ≠ []) (hl : d.length ≤ 4000) (hr : off.toNat + d.length ≤ regionLen g.toNat)
    (hm : m = memWrite ((staleCopy s).data.getD (g.toNat - 2) []) off.toNat d)
    (hc : g ≠ 7 ∨ 4 ≤ off.toNat ∨ 16 ≤ r.mbx.val ∨ memRead m 0 4 = fit 4 s.mail.cal) :
    ∃ t, exec (.cfgWrite r g off d) s = .next t ∧ Answers s t r 0x0502 0x00 [] ∧ (staleCopy t).data.getD (g.toNat - 2) [] = m ∧
      (∀ i, i ≠ g.toNat - 2 → (staleCopy t).data.getD i [] = (staleCopy s).data.getD i []) ∧
      t.mail.session = (takenUp r 0x0502 s).mail.session ∧ copyInForce t = copyInForce s ∧ Apart s t := by
  obtain ⟨stale, copy, -, cal, -⟩ := copies_takenUp (r := r) (s := s) 0x0502
  have seven : g.toNat = 7 → g = 7 := fun e => BitVec.eq_of_toNat_eq e
  have allowed : ¬(g.toNat = 7 ∧ off.toNat < 4 ∧ r.mbx.val < 16 ∧ memRead m 0 4 ≠ fit 4 (takenUp r 0x0502 s).mail.cal) := by
    rw [cal]
    rintro ⟨h1, h2, h3, h4⟩
    rcases hc with hc | hc | hc | hc
    · exact hc (seven h1)
    · omega
    · omega
    · exact h4 hc
  have answer := (ansCfgWrite_inRange ((holds_takenUp 0x0502).trans hh) hg h7 hd hl hr (by rw [stale]; exact hm)).trans (if_neg allowed)
  obtain ⟨staleW, copyW, frame⟩ := modStale_moves (takenUp r 0x0502 s) fun c => { c with data := c.data.setIfInBounds (g.toNat - 2) m }
  obtain ⟨v, hv⟩ : ∃ v, v = modStale (takenUp r 0x0502 s) fun c => { c with data := c.data.setIfInBounds (g.toNat - 2) m } := ⟨_, rfl⟩
  rw [← hv] at answer staleW copyW frame
  obtain ⟨t, run, kept, answered⟩ := serves_okTo (runsAs_cfgWrite hw) h answer
    (by rw [frame]; exact (takenUp_same r 0x0502 s).2.2.2.1)
  have staleT : staleCopy t = { staleCopy s with data := (staleCopy s).data.setIfInBounds (g.toNat - 2) m } := by
    rw [staleCopy_settled kept, staleW, stale]
  refine ⟨t, run, answered, ?_, fun i hi => ?_, ?_, ?_, ?_⟩
  · rw [staleT]
    exact vector_getD_set_same _ (by omega) _ _
  · rw [staleT]
    exact vector_getD_set_other _ hi _ _
  · rw [kept.mail.session, frame]
  · rw [copyInForce_settled kept, copyW, copy]
  · rw [frame] at kept
    exact apart_takenUp kept

end

/-! ### CFG_COMMIT (R367, R369) -/

section
variable {a : BitVec 8}

theorem ansCfgCommit_other {u : State} (h : holds u r = false) :
    ansCfgCommit r a u = sessionConflict u (if u.mail.session.isSome then 0x1 else 0x2) := if_pos (by simp [h])

theorem ansCfgCommit_abandons {u : State} (h : holds u r = true) (ha : a = 1) :
    ansCfgCommit r a u = ok (modMail u fun m => { m with session := none }) (leBytes 4 (genInForce u).toNat) :=
  (if_neg (by simp [h])).trans (if_pos ha)

theorem ansCfgCommit_outOfRange {u : State} (h : holds u r = true) (ha : 2 ≤ a.toNat) : ansCfgCommit r a u = err u stBadArg 0 := by
  refine (if_neg (by simp [h])).trans ((if_neg ?_).trans (if_pos ?_))
  · rintro rfl
    exact absurd ha (by decide)
  · rintro rfl
    exact absurd ha (by decide)

theorem ansCfgCommit_bad {u : State} (h : holds u r = true) (ha : a = 0) {g : Nat} (hb : badRegion u (staleCopy u) = some g) :
    ansCfgCommit r a u = err u stBadArg g := by
  subst ha
  refine (if_neg (by simp [h])).trans ((if_neg (by decide)).trans ((if_neg (by decide)).trans ?_))
  simp only [hb]

/-- R367: what a commit writes into the header of the copy it has prepared. -/
def committed (s : State) (c : Carillon) : Carillon :=
  { c with
    headerOk := true, digestOk := true, gen := genInForce s + 1, profOk := !s.hub.cfgDefault && (copyInForce s).profOk
    profile := (copyInForce s).profile }

/-- R367, R369: the session ends, and the calibration committed is in force. -/
def sessionCommitted (s : State) : State :=
  modMail (modStale s (committed s)) fun m => { m with session := none, cal := memRead ((staleCopy s).data.getD 5 []) 0 0x128 }

theorem ansCfgCommit_good {u : State} (h : holds u r = true) (ha : a = 0) (hb : badRegion u (staleCopy u) = none) :
    ansCfgCommit r a u = ok (sessionCommitted u) (leBytes 4 (genInForce u + 1).toNat) := by
  subst ha
  refine (if_neg (by simp [h])).trans ((if_neg (by decide)).trans ((if_neg (by decide)).trans ?_))
  simp only [hb]
  rfl

theorem badRegion_takenUp (code : BitVec 16) (c : Carillon) : badRegion (takenUp r code s) c = badRegion s c := by
  obtain ⟨q, moved, -⟩ := takenUp_moves r code s
  rw [moved]
  rfl

theorem cfgCommit_commits (h : Ready 0x0503 setUp r s) (hh : holds s r = true) (ha : a = 0) (hb : badRegion s (staleCopy s) = none) :
    ∃ t, exec (.cfgCommit r a) s = .next t ∧ Answers s t r 0x0503 0x00 (leBytes 4 (genInForce s + 1).toNat) ∧ t.mail.session = none ∧
      (staleCopy t).gen = genInForce s + 1 ∧ (staleCopy t).headerOk = true ∧ (staleCopy t).data = (staleCopy s).data ∧
      copyInForce t = copyInForce s ∧ Apart s t := by
  obtain ⟨stale, copy, gen, -⟩ := copies_takenUp (r := r) (s := s) 0x0503
  have answer := ansCfgCommit_good ((holds_takenUp 0x0503).trans hh) ha (by rw [stale, badRegion_takenUp]; exact hb)
  rw [gen] at answer
  obtain ⟨staleW, copyW, frame⟩ := modStale_moves (takenUp r 0x0503 s) (committed (takenUp r 0x0503 s))
  obtain ⟨v, hv⟩ : ∃ v, v = modStale (takenUp r 0x0503 s) (committed (takenUp r 0x0503 s)) := ⟨_, rfl⟩
  rw [sessionCommitted, ← hv] at answer
  rw [← hv] at staleW copyW frame
  have runs : RunsAs (.cfgCommit r a) r 0x0503 setUp (ansCfgCommit r a) s := rfl
  obtain ⟨t, run, kept, answered⟩ := serves_okTo runs h answer
    (by rw [modMail_mail, frame]; exact (takenUp_same r 0x0503 s).2.2.2.1)
  have staleT : staleCopy t = committed (takenUp r 0x0503 s) (staleCopy s) := by
    rw [staleCopy_settled kept, ← stale]
    exact staleW
  refine ⟨t, run, answered, kept.mail.session, ?_, ?_, ?_, ?_, ?_⟩
  · rw [staleT, committed, gen]
  · rw [staleT, committed]
  · rw [staleT, committed]
  · rw [copyInForce_settled kept, ← copy]
    exact copyW
  · rw [frame] at kept
    exact apart_takenUp kept

theorem cfgCommit_abandons (h : Ready 0x0503 setUp r s) (hh : holds s r = true) (ha : a = 1) :
    ∃ t, exec (.cfgCommit r a) s = .next t ∧ Answers s t r 0x0503 0x00 (leBytes 4 (genInForce s).toNat) ∧
      t.mail.session = none ∧ staleCopy t = staleCopy s ∧ copyInForce t = copyInForce s ∧ Apart s t := by
  obtain ⟨stale, copy, gen, -⟩ := copies_takenUp (r := r) (s := s) 0x0503
  have answer := ansCfgCommit_abandons ((holds_takenUp 0x0503).trans hh) ha
  rw [gen] at answer
  have runs : RunsAs (.cfgCommit r a) r 0x0503 setUp (ansCfgCommit r a) s := rfl
  obtain ⟨t, run, kept, answered⟩ := serves_okTo runs h answer (takenUp_same r 0x0503 s).2.2.2.1
  exact ⟨t, run, answered, kept.mail.session, (staleCopy_settled kept).trans stale, (copyInForce_settled kept).trans copy,
    apart_takenUp kept⟩

end

/-! ### CFG_READ (R358) -/

section
variable {src g : BitVec 8} {off : BitVec 32} {n : BitVec 16}

/-- R358: the bytes in force of a region. -/
def forceBytes (s : State) (g : BitVec 8) : Bytes := if g = 7 then s.mail.cal else inForceBytes s

theorem forceBytes_takenUp (code : BitVec 16) : forceBytes (takenUp r code s) g = forceBytes s g := by
  obtain ⟨q, moved, -⟩ := takenUp_moves r code s
  rw [moved, forceBytes, inForceBytes_session, forceBytes]

theorem ansCfgRead_outOfRange {u : State} (bad : 3 ≤ src.toNat ∨ 8 ≤ g.toNat ∨ n = 0 ∨ 4000 < n.toNat ∨
    src = 2 ∧ (forceBytes u g).length < off.toNat + n.toNat ∨ src.toNat < 2 ∧ regionLen g.toNat < off.toNat + n.toNat) :
    ansCfgRead src g off n u = err u stBadArg 0 := by
  unfold ansCfgRead
  extract_lets k b
  by_cases h : 3 ≤ src.toNat ∨ 8 ≤ k ∨ (!within 1 4000 n.toNat) = true
  · rw [if_pos h]
  · rw [if_neg h]
    simp only [not_or, Bool.not_eq_true', ← Bool.not_eq_true, not_not, within_iff] at h
    obtain ⟨h1, h2, h3, h4⟩ := h
    have rest : src = 2 ∧ (forceBytes u g).length < off.toNat + n.toNat ∨ src.toNat < 2 ∧ regionLen g.toNat < off.toNat + n.toNat := by
      rcases bad with bad | bad | rfl | bad | bad
      · exact absurd bad h1
      · exact absurd bad h2
      · exact absurd h3 (by decide)
      · omega
      · exact bad
    have seven : (if k = 7 then u.mail.cal else inForceBytes u) = forceBytes u g :=
      if_congr (by rw [← BitVec.toNat_inj]; rfl) rfl rfl
    rcases rest with ⟨rfl, short⟩ | ⟨low, short⟩
    · rw [if_pos rfl]
      show (if b.length < _ then _ else _) = _
      rw [show b = forceBytes u g from seven, if_pos short]
    · rw [if_neg (by rintro rfl; exact absurd low (by decide)), if_pos short]

theorem ansCfgRead_inForce {u : State} (h1 : 1 ≤ n.toNat) (h2 : n.toNat ≤ 4000) (hg : g.toNat < 8) (hs : src = 2)
    (hl : off.toNat + n.toNat ≤ (forceBytes u g).length) : ansCfgRead src g off n u = ok u (slice (forceBytes u g) off.toNat n.toNat) := by
  subst hs
  have inside : ¬(3 ≤ (2 : BitVec 8).toNat ∨ 8 ≤ g.toNat ∨ (!within 1 4000 n.toNat) = true) := by
    simp [within, h1, h2, hg]
  unfold ansCfgRead
  extract_lets k b
  have seven : b = forceBytes u g := if_congr (by rw [← BitVec.toNat_inj]; rfl) rfl rfl
  rw [if_neg inside, if_pos rfl, seven, if_neg (by omega)]

theorem ansCfgRead_copy {u : State} (h1 : 1 ≤ n.toNat) (h2 : n.toNat ≤ 4000) (hg : g.toNat < 8) (hs : src.toNat < 2)
    (hl : off.toNat + n.toNat ≤ regionLen g.toNat) : ansCfgRead src g off n u =
      ok u (if g.toNat < 2 then (List.range n.toNat).map fun i => Config.factoryByte g.toNat (off.toNat + i)
        else memRead ((if src = 0 then u.mail.copyA else u.mail.copyB).data.getD (g.toNat - 2) []) off.toNat n.toNat) := by
  have inside : ¬(3 ≤ src.toNat ∨ 8 ≤ g.toNat ∨ (!within 1 4000 n.toNat) = true) := by
    simp [within, h1, h2]
    omega
  have flash : src ≠ 2 := by
    rintro rfl
    exact absurd hs (by decide)
  unfold ansCfgRead
  extract_lets k b c
  rw [if_neg inside, if_neg flash, if_neg (Nat.not_lt.mpr hl)]
  split <;> rfl

end

end

/-- Settles O36: each command of a session by who holds it and by what it answers. -/
theorem configurationSessions : Obligations.ConfigurationSessions := by
  intro r s mine hmine
  have held : mine ↔ holds s r = true := hmine.trans holds_iff.symm
  have notHeld : ¬mine → holds s r = false := fun h => Bool.eq_false_iff.mpr (mt held.mpr h)
  refine ⟨fun h => ⟨fun hs => cfgBegin_begins h hs, fun hs => cfgBegin_held h hs⟩, fun g off d m h hd hm => ?_, fun a h => ?_,
    leads_done (u := modMail s fun m => { m with session := none }) rfl (.refl _), fun src g off n b h hb => ?_⟩
  · obtain ⟨free, other⟩ := session_conflicts (runsAs_cfgWrite hd) h fun u hu => ansCfgWrite_other (r := r) (g := g) (off := off) (d := d) hu
    refine ⟨free, fun hs hn => other hs (notHeld hn), fun hmn => ⟨fun hg => ?_, fun hg bad => ?_, fun hg h7 hne hl hr => ⟨?_, ?_⟩⟩⟩
    · exact refusesTo_err (runsAs_cfgWrite hd) h (ansCfgWrite_factory ((holds_takenUp _).trans (held.mp hmn)) hg)
    · exact refusesTo_err (runsAs_cfgWrite hd) h (ansCfgWrite_outOfRange ((holds_takenUp _).trans (held.mp hmn)) hg bad)
    · rintro rfl hoff hmbx hcal
      obtain ⟨stale, -, -, cal, -⟩ := copies_takenUp (r := r) (s := s) 0x0502
      have answer := ansCfgWrite_inRange (m := m) ((holds_takenUp 0x0502).trans (held.mp hmn)) hg h7 hne hl hr (by rw [stale]; exact hm)
      exact refusesTo_err (runsAs_cfgWrite hd) h (answer.trans (if_pos ⟨rfl, hoff, hmbx, by rw [cal]; exact hcal⟩))
    · exact fun hc => cfgWrite_writes h hd (held.mp hmn) hg h7 hne hl hr hm hc
  · have runs : RunsAs (.cfgCommit r a) r 0x0503 setUp (ansCfgCommit r a) s := rfl
    obtain ⟨free, other⟩ := session_conflicts runs h fun u hu => ansCfgCommit_other (r := r) (a := a) hu
    refine ⟨free, fun hs hn => other hs (notHeld hn), fun hmn => ⟨fun ha hb => cfgCommit_commits h (held.mp hmn) ha hb, fun g ha hb => ?_,
      fun ha => cfgCommit_abandons h (held.mp hmn) ha, fun ha => ?_⟩⟩
    · refine refusesTo_err runs h (ansCfgCommit_bad ((holds_takenUp _).trans (held.mp hmn)) ha ?_)
      rw [(copies_takenUp 0x0503).1, badRegion_takenUp]
      exact hb
    · exact refusesTo_err runs h (ansCfgCommit_outOfRange ((holds_takenUp _).trans (held.mp hmn)) ha)
  · have runs : RunsAs (.cfgRead r src g off n) r 0x0504 setAny (ansCfgRead src g off n) s := rfl
    have bytes : forceBytes (takenUp r 0x0504 s) g = b := (forceBytes_takenUp _).trans hb.symm
    obtain ⟨-, -, -, -, -, copyA, copyB⟩ := copies_takenUp (r := r) (s := s) 0x0504
    have responses := (takenUp_same r 0x0504 s).2.2.2.1
    refine ⟨fun bad => refusesTo_err runs h (ansCfgRead_outOfRange (by rw [bytes]; exact bad)), fun h1 h2 hg => ⟨fun hs hl => ?_, fun hs hl => ?_⟩⟩
    · have answer := ansCfgRead_inForce (u := takenUp r 0x0504 s) h1 h2 hg hs (by rw [bytes]; exact hl)
      rw [bytes] at answer
      exact serves_okTo runs h answer responses
    · have answer := ansCfgRead_copy (u := takenUp r 0x0504 s) h1 h2 hg hs hl
      rw [copyA, copyB] at answer
      exact serves_okTo runs h answer responses

end Sys2Proof.Machine
end

section
-- One proof after the other: a text of this length has more proofs waiting at once than the check has threads for.
set_option Elab.async false
/-! PROOFS. Logs, dumps and the lifetime record (R396 to R401), and the request buffers (R338, R339). -/
namespace Sys2Proof.Machine

/-! ### LOG_READ, DUMP_READ, LIFETIME_READ (R359) -/

section
variable {off : BitVec 32} {n : BitVec 16} {s : State}

theorem ansLogRead_noCount {f : BitVec 32} {m : BitVec 16} (h : m = 0) : ansLogRead none f m s = err s stBadArg 0 := if_pos h

theorem ansLogRead_errors {f : BitVec 32} {m : BitVec 16} (h : m ≠ 0) (hf : f.getLsbD 31 = false) : ansLogRead none f m s =
    ok s (((s.diag.log.filter fun e => seqFrom (e.eseq.toNat % 2 ^ 31) (f.toNat % 2 ^ 31)).reverse.take (min m.toNat 63)).flatMap
      fun e => logBytes (logSeen none e)) := (if_neg h).trans (if_neg (Bool.not_eq_true _ ▸ hf))

theorem ansLogRead_knells {f : BitVec 32} {m : BitVec 16} (h : m ≠ 0) (hf : f.getLsbD 31 = true) : ansLogRead none f m s =
    ok s (((((List.range s.diag.knellLog.length).zip s.diag.knellLog).filter fun q =>
      seqFrom ((s.diag.knellCount - 1 - q.1) % 2 ^ 31) (f.toNat % 2 ^ 31)).reverse.take (min m.toNat 127)).flatMap
      fun q => knellBytes q.2) := (if_neg h).trans (if_pos hf)

/-- The bounds of a read of `len` bytes, 4,064 at most. -/
theorem readBounds_iff {len : Nat} : (!within 1 4064 n.toNat || decide (len < off.toNat + n.toNat)) = true ↔
    n = 0 ∨ 4064 < n.toNat ∨ len < off.toNat + n.toNat := by
  rw [Bool.or_eq_true, Bool.not_eq_true', ← Bool.not_eq_true, within_iff, decide_eq_true_iff, ← BitVec.toNat_inj]
  have zero : (0 : BitVec 16).toNat = 0 := rfl
  omega

theorem ansDumpRead_eq : ansDumpRead off n s = if n = 0 ∨ 4064 < n.toNat ∨ 1118208 < off.toNat + n.toNat then err s stBadArg 0
    else ok s (slice (s.diag.dump.getD []) off.toNat n.toNat) := if_congr readBounds_iff rfl rfl

theorem ansLifetimeRead_eq : ansLifetimeRead off n s = if n = 0 ∨ 4064 < n.toNat ∨ 8192 < off.toNat + n.toNat then err s stBadArg 0
    else ok s (slice (lifeBytes s.diag) off.toNat n.toNat) := if_congr readBounds_iff rfl rfl

theorem inReadBounds {len : Nat} (h1 : 1 ≤ n.toNat) (h2 : n.toNat ≤ 4064) (h3 : off.toNat + n.toNat ≤ len) :
    ¬(n = 0 ∨ 4064 < n.toNat ∨ len < off.toNat + n.toNat) := by
  rintro (rfl | h | h)
  · exact absurd h1 (by decide)
  · omega
  · omega

end

/-! ### The rows of the Belfry (R392, R397, R400) -/

section
variable {s : State}

/-- R400: the record may be written for an event: a minute has passed since it was written. -/
theorem lifeDue_iff : ((s.diag.lifeAt.map fun t => decide (t + 60 * ticksPerSec ≤ s.ticks)).getD true) = true ↔
    ∀ a, s.diag.lifeAt = some a → a + 240000000000 ≤ s.ticks := by
  cases h : s.diag.lifeAt with
  | none => simp
  | some a =>
    have each : (∀ x, some a = some x → x + 240000000000 ≤ s.ticks) ↔ a + 240000000000 ≤ s.ticks :=
      ⟨fun h => h a rfl, fun h x hx => Option.some.inj hx ▸ h⟩
    have minute : 60 * ticksPerSec = 240000000000 := by norm_num [ticksPerSec]
    rw [each, minute, Option.map_some, Option.getD_some, decide_eq_true_iff]

theorem exec_lifetimeWrite_event (hu : belfryUp s = true) (hp : s.diag.pom % 60 ≠ 0) (hd : s.diag.lifeDirty = true)
    (ha : ∀ a, s.diag.lifeAt = some a → a + 240000000000 ≤ s.ticks) : exec .lifetimeWrite s = done (writeLife s) := by
  show execLifetimeWrite s = _
  rw [execLifetimeWrite, if_neg (by simp [hp]), if_pos (by rw [hu, hd, lifeDue_iff.mpr ha]; rfl)]

theorem exec_lifetimeWrite_hour (hu : belfryUp s = true) (hp : s.diag.pom % 60 = 0) :
    exec .lifetimeWrite s = done (writeLife (foldPorts s)) := congrArg done (if_pos (by simp [hu, hp]))

theorem exec_lifetimeWrite_down (hu : belfryUp s = false) : exec .lifetimeWrite s = done s := by
  show execLifetimeWrite s = _
  rw [execLifetimeWrite, if_neg (by simp [hu]), if_neg (by simp [hu])]

theorem exec_lifetimeWrite_rests (hp : s.diag.pom % 60 ≠ 0)
    (h : s.diag.lifeDirty = false ∨ ∃ a, s.diag.lifeAt = some a ∧ s.ticks < a + 240000000000) : exec .lifetimeWrite s = done s := by
  show execLifetimeWrite s = _
  rw [execLifetimeWrite, if_neg (by simp [hp]), if_neg]
  rw [Bool.and_eq_true, Bool.and_eq_true, lifeDue_iff]
  rintro ⟨⟨-, dirty⟩, due⟩
  rcases h with clean | ⟨a, ha, early⟩
  · rw [clean] at dirty
    cases dirty
  · have := due a ha
    omega

/-- R255: the counters of one port join the lifetime record. -/
def foldPort (s : State) (p : Nat) : State :=
  setPort (lifeAdd (lifeAdd s (0x1400 + 24 * p) ((getPort s p).fecCorr - (getPort s p).lifeCorr).toNat) (0x1400 + 24 * p + 8)
    ((getPort s p).fecUncorr - (getPort s p).lifeUncorr).toNat) p
    { getPort s p with lifeCorr := (getPort s p).fecCorr, lifeUncorr := (getPort s p).fecUncorr }

theorem foldPorts_eq (s : State) : foldPorts s = (List.range (portCount s)).foldl foldPort s := rfl

/-- What a port adds to the record, and where it stands. -/
theorem foldPort_moves (s : State) (p : Nat) : mapGet (foldPort s p).diag.life (0x1400 + 24 * p) 0 =
      mapGet s.diag.life (0x1400 + 24 * p) 0 + ((getPort s p).fecCorr - (getPort s p).lifeCorr).toNat ∧
    (∀ q, q ≠ p → mapGet (foldPort s p).diag.life (0x1400 + 24 * q) 0 = mapGet s.diag.life (0x1400 + 24 * q) 0) ∧
    (foldPort s p).diag.pom = s.diag.pom ∧ (foldPort s p).diag.wseq = s.diag.wseq ∧ (foldPort s p).diag.flashLife = s.diag.flashLife ∧
    (∀ q, q ≠ p → getPort (foldPort s p) q = getPort s q) ∧
    (p < 36 → getPort (foldPort s p) p =
      { getPort s p with lifeCorr := (getPort s p).fecCorr, lifeUncorr := (getPort s p).fecUncorr }) ∧
    (foldPort s p).mem = s.mem ∧ (foldPort s p).ctxs = s.ctxs := by
  refine ⟨?_, fun q hq => ?_, rfl, rfl, rfl, fun q hq => ?_, fun hp => ?_, rfl, rfl⟩
  · show mapGet (mapSet (mapSet s.diag.life _ _) _ _) _ 0 = _
    rw [mapGet_set_other _ (by omega), mapGet_set_same]
  · show mapGet (mapSet (mapSet s.diag.life _ _) _ _) _ 0 = _
    rw [mapGet_set_other _ (by omega), mapGet_set_other _ (by omega)]
  · exact getPort_setPort_other _ hq _
  · exact getPort_setPort_same _ hp _

/-- The ports of a list, each once, add what they have counted. -/
theorem foldPort_list {l : List Nat} (hl : l.Nodup) (hb : ∀ p ∈ l, p < 36) (s : State) :
    (∀ p, (p ∈ l → mapGet (l.foldl foldPort s).diag.life (0x1400 + 24 * p) 0 =
        mapGet s.diag.life (0x1400 + 24 * p) 0 + ((getPort s p).fecCorr - (getPort s p).lifeCorr).toNat ∧
        (getPort (l.foldl foldPort s) p).lifeCorr = (getPort s p).fecCorr) ∧
      (p ∉ l → mapGet (l.foldl foldPort s).diag.life (0x1400 + 24 * p) 0 = mapGet s.diag.life (0x1400 + 24 * p) 0 ∧
        getPort (l.foldl foldPort s) p = getPort s p)) ∧
    (l.foldl foldPort s).diag.pom = s.diag.pom ∧ (l.foldl foldPort s).diag.wseq = s.diag.wseq ∧
    (l.foldl foldPort s).diag.flashLife = s.diag.flashLife ∧ (l.foldl foldPort s).mem = s.mem ∧ (l.foldl foldPort s).ctxs = s.ctxs := by
  induction l generalizing s with
  | nil => exact ⟨fun p => ⟨nofun, fun _ => ⟨rfl, rfl⟩⟩, rfl, rfl, rfl, rfl, rfl⟩
  | cons a l ih =>
    obtain ⟨fresh, rest⟩ := List.nodup_cons.mp hl
    obtain ⟨life, others, pom, wseq, flash, ports, port, mem, ctxs⟩ := foldPort_moves s a
    obtain ⟨each, pom', wseq', flash', mem', ctxs'⟩ := ih rest (fun p hp => hb p (List.mem_cons_of_mem a hp)) (foldPort s a)
    rw [List.foldl_cons]
    refine ⟨fun p => ⟨fun hp => ?_, fun hp => ?_⟩, pom'.trans pom, wseq'.trans wseq, flash'.trans flash, mem'.trans mem, ctxs'.trans ctxs⟩
    · by_cases ha : p = a
      · subst ha
        obtain ⟨l1, p1⟩ := (each p).2 fresh
        rw [l1, p1, life, port (hb p List.mem_cons_self)]
        exact ⟨rfl, rfl⟩
      · obtain ⟨l1, p1⟩ := (each p).1 ((List.mem_cons.mp hp).resolve_left ha)
        rw [l1, p1, others p ha, ports p ha]
        exact ⟨rfl, rfl⟩
    · obtain ⟨ha, hl'⟩ := not_or.mp (mt List.mem_cons.mpr hp)
      obtain ⟨l1, p1⟩ := (each p).2 hl'
      rw [l1, p1, others p ha, ports p ha]
      exact ⟨rfl, rfl⟩

theorem portCount_le (s : State) : portCount s ≤ 36 := by
  unfold portCount
  split <;> decide

/-- R400: the hourly write of the lifetime record. -/
theorem lifetime_hour (hu : belfryUp s = true) (hp : s.diag.pom % 60 = 0) : ∃ t, exec .lifetimeWrite s = .next t ∧
    t.diag.wseq = s.diag.wseq + 1 ∧ t.diag.lifeDirty = false ∧
    t.diag.flashLife = (mapSet t.diag.life 0x10 s.diag.pom :: s.diag.flashLife).take 4 ∧
    (∀ p, p < portCount s → mapGet t.diag.life (0x1400 + 24 * p) 0 = mapGet s.diag.life (0x1400 + 24 * p) 0 +
      ((getPort s p).fecCorr - (getPort s p).lifeCorr).toNat ∧ (getPort t p).lifeCorr = (getPort s p).fecCorr) ∧
    t.mem = s.mem ∧ t.ctxs = s.ctxs := by
  obtain ⟨each, pom, wseq, flash, mem, ctxs⟩ := foldPort_list List.nodup_range
    (fun p hp => Nat.lt_of_lt_of_le (List.mem_range.mp hp) (portCount_le s)) s
  rw [← foldPorts_eq] at each pom wseq flash mem ctxs
  refine ⟨_, exec_lifetimeWrite_hour hu hp, ?_, ?_, ?_, fun p hp => ?_, ?_, ?_⟩
  · rw [settle_diag, ← wseq]; rfl
  · rw [settle_diag]; rfl
  · rw [settle_diag, ← pom, ← flash]; rfl
  · rw [settle_diag, getPort_congr (congrArg Fabric.ports (settle_fab _))]
    exact (each p).1 (List.mem_range.mpr hp)
  · rw [settle_mem, ← mem]; rfl
  · rw [settle_ctxs, ← ctxs]; rfl

end

/-- Settles O38: the reads by their answers, the rows by whether they are due. -/
theorem recordsAreKeptAndRead : Obligations.RecordsAreKeptAndRead := by
  refine ⟨fun r s => ⟨fun f m h => ⟨fun hm => ?_, fun hm hf => ?_, fun hm hf => ?_⟩, fun off n h => ⟨fun h1 h2 h3 => ?_, fun bad => ?_⟩,
    fun off n h => ⟨fun h1 h2 h3 => ?_, fun bad => ?_⟩⟩, fun s => ⟨fun hu => ⟨?_, fun b hb hp => ?_, fun hp hd ha => ?_, fun hp => ?_,
      fun hr hc hb => ?_⟩, fun rest hu => ?_, fun rest hp => ?_, fun rest hp h => ?_⟩⟩
  · exact refuses_err rfl h (ansLogRead_noCount hm)
  · exact serves_ok rfl h (ansLogRead_errors hm hf) rfl
  · exact serves_ok rfl h (ansLogRead_knells hm hf) rfl
  · exact serves_ok rfl h (ansDumpRead_eq.trans (if_neg (inReadBounds h1 h2 h3))) rfl
  · exact refuses_err rfl h (ansDumpRead_eq.trans (if_pos bad))
  · exact serves_ok rfl h (ansLifetimeRead_eq.trans (if_neg (inReadBounds h1 h2 h3))) rfl
  · exact refuses_err rfl h (ansLifetimeRead_eq.trans (if_pos bad))
  · exact leads_done (u := flushLog s) (congrArg done (if_pos hu)) (.refl _)
  · have copied : copyDump s = modDiag s fun d => { d with flashDump := (b :: d.flashDump).take 2, dumpPending := false } := by
      rw [copyDump, hb]
      exact if_pos hp
    exact leads_done (congrArg done ((if_pos hu).trans copied)) (.refl _)
  · exact leads_done (exec_lifetimeWrite_event hu hp hd ha) (.refl _)
  · exact lifetime_hour hu hp
  · exact leads_done (u := modHub s fun h => { h with chime := h.chime + 1 }) (congrArg done (if_pos (by simp [hu, hr, hc, hb]))) (.refl _)
  · have idle : done s = .next s := by rw [done_next, settle_atRest rest]
    refine ⟨?_, ?_, (exec_lifetimeWrite_down hu).trans idle, ?_, ?_⟩
    · exact (congrArg done (if_neg (by simp [hu]))).trans idle
    · exact (congrArg done (if_neg (by simp [hu]))).trans idle
    · exact (congrArg done (if_neg (by simp [hu]))).trans idle
    · exact (congrArg done (if_neg (by simp [hu]))).trans idle
  · have nothing : copyDump s = s := by
      unfold copyDump
      split
      · exact if_neg (by simp [hp])
      · rfl
    have idle : done s = .next s := by rw [done_next, settle_atRest rest]
    refine (congrArg done ?_).trans idle
    rw [nothing]
    exact ite_self _
  · rw [exec_lifetimeWrite_rests hp h, done_next, settle_atRest rest]

/-! ### The request buffers (R338, R339) -/

section
variable {m : Mbx} {s u v : State} {b : MailBox}

/-- R346: what a request buffer spells runs by the row of its command. -/
theorem meaningOf_sessionReq {r : Req} {b : Bytes} {i : Instr} (h : sessionReq s r b = some i) : meaningOf i u = exec i u := by
  unfold sessionReq at h
  split at h
  · obtain rfl := Option.some.inj h
    rfl
  · obtain rfl := Option.some.inj h
    rfl
  · obtain rfl := Option.some.inj h
    unfold sealedOf
    dsimp only
    split <;> rfl
  · obtain rfl := Option.some.inj h
    rfl
  · cases h

theorem meaningOf_commandOf {r : Req} {code : Nat} {b : Bytes} {i : Instr} (h : commandOf s r code b = some i) :
    meaningOf i u = exec i u := by
  unfold commandOf at h
  split at h
  case h_62 => exact meaningOf_sessionReq h
  all_goals first
    | cases h; done
    | obtain rfl := Option.some.inj h; rfl

/-- A buffer written as it is leaves the state as it is. -/
theorem setBox_self {x : MailBox} (h : x = getBox s m.val) : setBox s m.val x = s := by
  have held : getBox s m.val = s.mail.boxes[m.val] := by simp [getBox, Vector.getD, m.isLt]
  rw [setBox, h, held, vector_set_self]

theorem countBoxDrop_eq (hb : b = getBox s m.val) :
    countBoxDrop s m.val = setBox s m.val { b with drop := if b.drop = 255 then 255 else b.drop + 1 } := by rw [hb]; rfl

theorem handOver_dropped (hc : s.hub.dev ≠ .cold) (hb : b = getBox s m.val) (ho : b.owner ≠ .host) :
    handOver m s = countBoxDrop s m.val := by
  subst hb
  exact (if_neg hc).trans (if_pos ho)

theorem runImage_some {path : ReqPath} {img : Bytes} {again i : Instr}
    (hi : commandOf s (headerOf m path img) (num img 2 2) (slice img 0x1C (min (num img 4 2) bodyMax)) = some i) :
    runImage m path img again s = runMailbox i s := by
  unfold runImage
  extract_lets r code
  generalize commandOf s r code _ = o at hi
  rw [hi]

theorem handOver_runs (hc : s.hub.dev ≠ .cold) (hb : b = getBox s m.val) (ho : b.owner = .host) {i : Instr} {r : Req} {img : Bytes}
    (himg : img = memRead b.req 4 4092) (hr : r = headerOf m .pcie img) (hu : u = setBox s m.val { b with owner := .device })
    (hi : commandOf u r (num img 2 2) (slice img 0x1C (min (num img 4 2) bodyMax)) = some i) (hv : exec i u = .next v) :
    handOver m s = v := by
  have taken : handOver m s = runImage m .pcie img (.mbxHandover m) u := by
    rw [himg, hu, hb]
    exact (if_neg hc).trans (if_neg (not_not.mpr (hb ▸ ho)))
  rw [hr] at hi
  have run : runMailbox i u = v := by
    unfold runMailbox
    rw [meaningOf_commandOf hi, hv]
  exact taken.trans ((runImage_some hi).trans run)

theorem releaseBox_done (hc : s.hub.dev ≠ .cold) (hb : b = getBox s m.val) (ho : b.owner = .done) :
    releaseBox m.val s = setBox s m.val { b with owner := .host } := by
  subst hb
  exact (if_neg hc).trans (if_pos ho)

theorem releaseBox_dropped (hc : s.hub.dev ≠ .cold) (hb : b = getBox s m.val) (ho : b.owner ≠ .done) :
    releaseBox m.val s = countBoxDrop s m.val := by
  subst hb
  exact (if_neg hc).trans (if_neg ho)

theorem handOver_cold (hc : s.hub.dev = .cold) : handOver m s = s := if_pos hc
theorem releaseBox_cold (hc : s.hub.dev = .cold) : releaseBox m.val s = s := if_pos hc

section
variable {off : Nat} {d : Bytes}

theorem writeBuffer_powered (hc : s.hub.dev ≠ .cold) (hd : d ≠ []) (hb : b = getBox s m.val) : writeBuffer m off d s =
    if 0x1000 < off + d.length then countBoxDrop s m.val
    else match b.owner with
      | .host => if (off ≠ 0 || (d.headD 0).toNat % 4 = 0) = true then storeReq s m.val off d
        else if (d.headD 0).toNat % 4 = 1 then handOver m (storeReq s m.val off d) else countBoxDrop s m.val
      | .done => if (decide (off = 0) && decide ((d.headD 0).toNat % 4 = 0) && decide (d.length ≤ 4)) = true then releaseBox m.val s
        else countBoxDrop s m.val
      | .device => countBoxDrop s m.val := by
  subst hb
  refine (if_neg ?_).trans rfl
  simp [hc, hd]

theorem writeBuffer_stores (hc : s.hub.dev ≠ .cold) (hd : d ≠ []) (hb : b = getBox s m.val) (ho : b.owner = .host) (h4 : 4 ≤ off)
    (hl : off + d.length ≤ 4096) : writeBuffer m off d s = setBox s m.val { b with req := memWrite b.req off d } := by
  have stored : storeReq s m.val off d = setBox s m.val { b with req := memWrite b.req off d } := by
    rw [storeReq, Nat.max_eq_left h4, Nat.sub_eq_zero_of_le h4, List.drop_zero, ← hb]
  rw [← stored, writeBuffer_powered hc hd hb, if_neg (by omega), ho]
  exact if_pos (by simp; omega)

theorem writeBuffer_drops (hc : s.hub.dev ≠ .cold) (hd : d ≠ []) (hb : b = getBox s m.val)
    (h : b.owner = .device ∨ 4096 < off + d.length ∨ b.owner = .done ∧ 4 ≤ off) : writeBuffer m off d s = countBoxDrop s m.val := by
  rw [writeBuffer_powered hc hd hb]
  by_cases hl : 0x1000 < off + d.length
  · exact if_pos hl
  · rw [if_neg hl]
    rcases h with ho | hl' | ⟨ho, h4⟩
    · rw [ho]
    · exact absurd hl' hl
    · rw [ho]
      exact if_neg (by simp; omega)

end

theorem exec_write {off : Fin 8192} {d : Bytes} (hw : wellFormed (.requestBufferWrite m off d) = true) :
    exec (.requestBufferWrite m off d) s = done (writeBuffer m off.val d s) := if_pos hw

/-- R338: the write that hands a buffer over stores nothing outside MBX_OWN. -/
theorem write_hands_over (hb : b = getBox s m.val) (ho : b.owner = .host) :
    exec (.requestBufferWrite m 0 [1, 0, 0, 0]) s = exec (.mbxHandover m) s := by
  have run : exec (.requestBufferWrite m 0 [1, 0, 0, 0]) s = done (writeBuffer m 0 [1, 0, 0, 0] s) :=
    exec_write (off := 0) rfl
  rw [run]
  refine congrArg done ?_
  by_cases hc : s.hub.dev = .cold
  · rw [handOver_cold hc]
    exact if_pos (by simp [hc])
  · rw [writeBuffer_powered hc (by simp) hb, if_neg (by decide), ho]
    have stored : storeReq s m.val 0 [1, 0, 0, 0] = s := setBox_self rfl
    show (if _ then _ else if _ then handOver m (storeReq s m.val 0 [1, 0, 0, 0]) else _) = _
    rw [if_neg (by decide), if_pos (by decide), stored]

theorem write_releases (hb : b = getBox s m.val) (ho : b.owner = .done) :
    exec (.requestBufferWrite m 0 [0, 0, 0, 0]) s = exec (.mbxRelease m) s := by
  have run : exec (.requestBufferWrite m 0 [0, 0, 0, 0]) s = done (writeBuffer m 0 [0, 0, 0, 0] s) :=
    exec_write (off := 0) rfl
  rw [run]
  refine congrArg done ?_
  by_cases hc : s.hub.dev = .cold
  · rw [releaseBox_cold hc]
    exact if_pos (by simp [hc])
  · rw [writeBuffer_powered hc (by simp) hb, if_neg (by decide), ho]
    exact if_pos (by decide)

end

/-- Settles O44: each write by who owns the buffer. -/
theorem mailboxesChangeHands : Obligations.MailboxesChangeHands := by
  refine fun m s b hb => ⟨fun hc ho i r img u v himg hr hu hi hv => ?_, fun hc ho => ?_, fun hc ho => ?_, fun hc ho => ?_,
    fun off d hc hd hw => ⟨fun ho h4 hl => ?_, fun h => ?_⟩, fun ho => write_hands_over hb ho, fun ho => write_releases hb ho,
    fun hc rest => ⟨?_, ?_⟩⟩
  · exact leads_done (congrArg done (handOver_runs hc hb ho himg hr hu hi hv)) (.refl _)
  · exact leads_done (congrArg done ((handOver_dropped hc hb ho).trans (countBoxDrop_eq hb))) (.refl _)
  · exact leads_done (congrArg done (releaseBox_done hc hb ho)) (.refl _)
  · exact leads_done (congrArg done ((releaseBox_dropped hc hb ho).trans (countBoxDrop_eq hb))) (.refl _)
  · exact leads_done ((exec_write hw).trans (congrArg done (writeBuffer_stores hc hd hb ho h4 hl))) (.refl _)
  · exact leads_done ((exec_write hw).trans (congrArg done ((writeBuffer_drops hc hd hb h).trans (countBoxDrop_eq hb)))) (.refl _)
  · exact (congrArg done (handOver_cold hc)).trans (by rw [done_next, settle_atRest rest])
  · exact (congrArg done (releaseBox_cold hc)).trans (by rw [done_next, settle_atRest rest])

end Sys2Proof.Machine
end

section
-- One proof after the other: a text of this length has more proofs waiting at once than the check has threads for.
set_option Elab.async false
/-! PROOFS. The SMBus interface and the test access port (R434, R471, R479 to R481). -/
namespace Sys2Proof.Machine

section
variable {s : State} {f : State → State}

theorem onSmbus_up (h : s.pins.v12sb = true) : onSmbus s f = f s := if_pos h

theorem onSmbus_down (h : s.pins.v12sb = false) : onSmbus s f = s := if_neg (by simp [h])

/-- What comes over SMBus, with the standby rail up. -/
theorem leads_onSmbus {c : Instr} {u : State} (he : exec c s = done (onSmbus s f)) (h : s.pins.v12sb = true) (hf : f s = u) :
    Leads c s u := leads_done (he.trans (by rw [onSmbus_up h, hf])) (.refl _)

/-- A step that ends as it began. -/
theorem exec_idle {c : Instr} (he : exec c s = done s) (rest : AtRest s) : exec c s = .next s := by
  rw [he, done_next, settle_atRest rest]

theorem exec_onSmbus_down {c : Instr} (he : exec c s = done (onSmbus s f)) (h : s.pins.v12sb = false) (rest : AtRest s) :
    exec c s = .next s := exec_idle (he.trans (by rw [onSmbus_down h])) rest

/-! ### MCTP and PLDM (R479, R480, R481) -/

theorem eidOk_iff {e : BitVec 8} : eidOk e = true ↔ e ≠ 0 ∧ e ≠ 0xFF := by simp only [eidOk, Bool.and_eq_true, bne_iff_ne]

theorem mctpAnswer_setEid {e : BitVec 8} (h : e ≠ 0 ∧ e ≠ 0xFF) : mctpAnswer (.setEid e) s =
    { s with hub := { s.hub with eid := e }, outbox := .smbus [1, 0, 0, e, 0] :: s.outbox } := if_pos (eidOk_iff.mpr h)

theorem mctpAnswer_refusedEid {e : BitVec 8} (h : e = 0 ∨ e = 0xFF) :
    mctpAnswer (.setEid e) s = { s with outbox := .smbus [1, 2] :: s.outbox } := if_neg (by rw [eidOk_iff]; tauto)

theorem sensorOk_iff {n : Nat} : sensorOk s n = true ↔ s.hub.pldmOk = true ∧ ¬(n = 2 ∧ anyConf s = true) := by
  cases ho : s.hub.pldmOk <;> cases hc : anyConf s <;> by_cases hn : n = 2 <;> simp [sensorOk, ho, hc, hn]

theorem pldmAnswer_sensor {n : Fin 10} (h : sensorOk s n.val = true) : pldmAnswer (.numericSensor n) s =
    { s with outbox := .smbus ([0, 0] ++ leBytes 4 ((if anyConf s then minuteSensors s else s.hub.pldm).getD n.val 0).toNat) ::
      s.outbox } := if_pos h

theorem pldmAnswer_noSensor {n : Fin 10} (h : sensorOk s n.val ≠ true) :
    pldmAnswer (.numericSensor n) s = { s with outbox := .smbus [0, 2] :: s.outbox } := if_neg h

theorem pldmAnswer_health : pldmAnswer .healthState s =
    { s with outbox := .smbus (if s.hub.pldmOk then [0, 0, s.hub.pldmHealth] else [0, 2]) :: s.outbox } := by
  unfold pldmAnswer
  cases s.hub.pldmOk <;> rfl

theorem updateSensors_powered {readable : Bool} (h : s.hub.dev ≠ .cold) :
    (updateSensors readable s).hub.pldm = (if anyConf s then minuteSensors s else readSensors s) ∧
      (updateSensors readable s).hub.pldmOk = true := by
  have warm : (s.hub.dev == DevState.cold) = false := beq_eq_false_iff_ne.mpr h
  simp [updateSensors, modHub, warm]

theorem updateSensors_cold {readable : Bool} (h : s.hub.dev = .cold) : (updateSensors readable s).hub.pldmOk = readable := by
  simp [updateSensors, modHub, h]

theorem updateSensors_keeps {readable : Bool} : (updateSensors readable s).hub.pldmDev = BitVec.ofNat 8 (devCode (devNow s)) ∧
    (updateSensors readable s).hub.pldmHealth = BitVec.ofNat 8 (healthCode s.diag.health) ∧
    (updateSensors readable s).mem = s.mem ∧ (updateSensors readable s).ctxs = s.ctxs := by
  unfold updateSensors
  cases (s.hub.dev == DevState.cold) <;> exact ⟨rfl, rfl, rfl, rfl⟩

theorem exec_pldmSensorUpdate (h : s.pins.v12sb = true) (readable : Bool) : ∃ t, exec (.pldmSensorUpdate readable) s = .next t ∧
    (s.hub.dev ≠ .cold → t.hub.pldm = (if anyConf s then minuteSensors s else readSensors s) ∧ t.hub.pldmOk = true) ∧
    (s.hub.dev = .cold → t.hub.pldmOk = readable) ∧ t.hub.pldmDev = BitVec.ofNat 8 (devCode (devNow s)) ∧
    t.hub.pldmHealth = BitVec.ofNat 8 (healthCode s.diag.health) ∧ t.mem = s.mem ∧ t.ctxs = s.ctxs := by
  obtain ⟨t, run, kept⟩ : Leads (.pldmSensorUpdate readable) s (updateSensors readable s) := leads_onSmbus rfl h rfl
  obtain ⟨dev, health, mem, ctxs⟩ := updateSensors_keeps (s := s) (readable := readable)
  refine ⟨t, run, fun hc => ?_, fun hc => ?_, kept.hub.pldmDev.trans dev, kept.hub.pldmHealth.trans health,
    kept.out.mem.trans mem, kept.out.ctxs.trans ctxs⟩
  · rw [kept.hub.pldm, kept.hub.pldmOk]
    exact updateSensors_powered hc
  · rw [kept.hub.pldmOk]
    exact updateSensors_cold hc

/-! ### The alert response, vendor messages and the test access port -/

theorem alertLow_iff : alertLow s = true ↔ s.mail.opQ.entries ≠ [] := by simp [alertLow]

theorem arpAnswer_assign_other {a : BitVec 7} (h : a.setWidth 8 ≠ (0x4C : BitVec 8)) : arpAnswer (.assign a) s = s := if_neg h

theorem arpAnswer_udid : arpAnswer .getUdid s = if s.hub.arpDone then s else
    { s with outbox := .smbus (([0x11] : Bytes) ++ fit 16 Config.udid ++ [0x99]) :: s.outbox } := rfl

section
variable {m : Mbx} {img : Bytes}

theorem exec_vendorMessage (h : img.length ≤ 4096) :
    exec (.mctpVendorMessage m img) s = done (onSmbus s (vendorMessage m img)) := if_pos (decide_eq_true h)

/-- R347: a vendor message while the module does not serve is answered BUSY. -/
theorem vendorMessage_busy (hs : s.pins.v12sb = true) (h : img.length ≤ 4096) (hd : s.hub.dev = .cold ∨ s.hub.dev = .booting) :
    ∃ t, exec (.mctpVendorMessage m img) s = .next t ∧ t.mem = s.mem ∧ t.ctxs = s.ctxs ∧ t.slots = s.slots ∧
      t.hub.eid = s.hub.eid ∧ Answers s t (headerOf m .smbus img) (fld img 2 16) 0x01 [] := by
  have run : exec (.mctpVendorMessage m img) s =
      .next (settle (reply (headerOf m .smbus img) (fld img 2 16) 0 (err s stBusy 0))) := by
    rw [exec_vendorMessage h, onSmbus_up hs, vendorMessage, if_pos hd, done_next]
  have kept := (settled_reply (r := headerOf m .smbus img) (code := fld img 2 16) (legal := 0) (a := err s stBusy 0) rfl).trans
    (settle_settled _)
  exact ⟨_, run, kept.out.mem, kept.out.ctxs, kept.out.slots, kept.hub.eid, answers_reply rfl rfl⟩

theorem vendorMessage_runs (hs : s.pins.v12sb = true) (h : img.length ≤ 4096) (hc : s.hub.dev ≠ .cold) (hb : s.hub.dev ≠ .booting)
    {i : Instr} {u : State}
    (hi : commandOf s (headerOf m .smbus img) (num img 2 2) (slice img 0x1C (min (num img 4 2) bodyMax)) = some i)
    (hu : exec i s = .next u) : Leads (.mctpVendorMessage m img) s u := by
  refine leads_onSmbus (exec_vendorMessage h) hs ?_
  rw [vendorMessage, if_neg (by simp [hc, hb]), runImage_some hi]
  unfold runMailbox
  rw [meaningOf_commandOf hi, hu]

end

theorem exec_alertResponse_low (hs : s.pins.v12sb = true) (h : s.mail.opQ.entries ≠ []) :
    Leads .alertResponse s { s with outbox := .smbus [0x98] :: s.outbox } :=
  leads_onSmbus rfl hs (if_pos (alertLow_iff.mpr h))

theorem exec_alertResponse_high (hs : s.pins.v12sb = true) (h : s.mail.opQ.entries = []) :
    exec .alertResponse s = done s := by
  have quiet : ¬alertLow s = true := fun low => alertLow_iff.mp low h
  exact congrArg done ((onSmbus_up hs).trans (if_neg quiet))

end

/-- Settles O51: each message by its answer, with the standby rail up and down, and the test access port. -/
theorem managementPathsAnswer : Obligations.ManagementPathsAnswer := by
  intro s
  refine ⟨fun up => ⟨fun e => ⟨fun h0 h1 => leads_onSmbus rfl up (mctpAnswer_setEid ⟨h0, h1⟩),
      fun h => leads_onSmbus rfl up (mctpAnswer_refusedEid h)⟩, leads_onSmbus rfl up rfl, leads_onSmbus rfl up rfl, ?_,
      leads_onSmbus rfl up rfl, leads_onSmbus rfl up rfl, leads_onSmbus rfl up pldmAnswer_health, leads_onSmbus rfl up rfl,
      fun _ => leads_onSmbus rfl up rfl, fun n ok plain => ?_, fun n ok conf h2 => ?_, fun n h => ?_, exec_pldmSensorUpdate up,
      exec_alertResponse_low up, fun rest h => exec_idle (exec_alertResponse_high up h) rest, leads_onSmbus rfl up rfl,
      fun a h => leads_onSmbus rfl up (arpAnswer_assign_other h), leads_onSmbus rfl up rfl, leads_onSmbus rfl up rfl,
      leads_onSmbus rfl up arpAnswer_udid, fun m img h => ⟨vendorMessage_busy up h, fun hc hb i u => vendorMessage_runs up h hc hb⟩⟩,
    fun down rest => ⟨fun m => exec_onSmbus_down rfl down rest, fun q => exec_onSmbus_down rfl down rest,
      exec_onSmbus_down rfl down rest, fun a => exec_onSmbus_down rfl down rest,
      fun m img h => exec_onSmbus_down (if_pos h) down rest, fun r => exec_onSmbus_down rfl down rest⟩,
    fun j h => leads_done (congrArg done (if_pos h)) (.refl _),
    fun j h rest => exec_idle (congrArg done (if_neg (by simp [h]))) rest, rfl, rfl, rfl, rfl, rfl, rfl, rfl⟩
  · rintro m (rfl | rfl)
    · exact ⟨_, leads_onSmbus rfl up rfl⟩
    · exact ⟨_, leads_onSmbus rfl up rfl⟩
  · have shown := pldmAnswer_sensor (n := n) (sensorOk_iff.mpr ⟨ok, by simp [plain]⟩)
    rw [if_neg (by simp [plain])] at shown
    exact leads_onSmbus rfl up shown
  · have other : n.val ≠ 2 := fun h => h2 (Fin.ext h)
    have shown := pldmAnswer_sensor (n := n) (sensorOk_iff.mpr ⟨ok, by simp [other]⟩)
    rw [if_pos conf] at shown
    exact leads_onSmbus rfl up shown
  · refine leads_onSmbus rfl up (pldmAnswer_noSensor ?_)
    rw [ne_eq, sensorOk_iff]
    rintro ⟨ok, plain⟩
    rcases h with h | ⟨rfl, h⟩
    · simp [h] at ok
    · exact plain ⟨rfl, h⟩

end Sys2Proof.Machine
end

section
-- One proof after the other: a text of this length has more proofs waiting at once than the check has threads for.
set_option Elab.async false
/-! PROOFS. The health score and the self-tests (R128, R359, R383, R386, R402, R404). -/
namespace Sys2Proof.Machine

/-! ### The health score (R402) -/

section
variable {s : State}

theorem hour_ticks : 3600 * ticksPerSec = 14400000000000 := by norm_num [ticksPerSec]

/-- Calm that has been interrupted just now has not lasted. -/
theorem calm_lasted {c : Prop} [Decidable c] {a b d : Nat} (hd : 0 < d) : (if c then a else b) + d ≤ b ↔ c ∧ a + d ≤ b := by
  split
  · simp [*]
  · simp [*]; omega

/-- The record as an evaluation of the score leaves it before it decides: evidence of the last hour, and since when it is calm. -/
def calmed (s : State) : State := modDiag s fun d => { d with
  evid := d.evid.filter fun e => decide (s.ticks < e.tick + 3600 * ticksPerSec)
  calmSince := if evidOver s 20 = 0 ∧ evidOver s 10 ≤ 1 then d.calmSince else s.ticks
  calmWatch := if evidOver s 10 = 0 then d.calmWatch else s.ticks }

theorem evalHealth_eq : evalHealth s = match (calmed s).diag.health with
    | .healthy => if 1 ≤ evidOver (calmed s) 20 then setHealth (calmed s) .watch else calmed s
    | .watch =>
      if 2 ≤ evidOver (calmed s) 20 ∨ 1 ≤ evidOver (calmed s) 60 then setHealth (calmed s) .suspect
      else if (calmed s).diag.calmWatch + 3600 * ticksPerSec ≤ (calmed s).ticks then setHealth (calmed s) .healthy else calmed s
    | .suspect =>
      if (calmed s).diag.calmSince + 3600 * ticksPerSec ≤ (calmed s).ticks then setHealth (calmed s) .watch else calmed s := rfl

/-- The totals count the evidence of the last hour only, so that what is older may go. -/
theorem evidTotal_calmed (k : BitVec 2) : evidTotal (calmed s) k = evidTotal s k := by
  have kept : ∀ l : List Evidence, (l.filter fun e => decide (s.ticks < e.tick + 3600 * ticksPerSec)).filter
      (fun e => e.kind == k && decide (s.ticks < e.tick + 3600 * ticksPerSec)) =
      l.filter fun e => e.kind == k && decide (s.ticks < e.tick + 3600 * ticksPerSec) := fun l => by
    rw [List.filter_filter]
    refine List.filter_congr fun e _ => ?_
    cases decide (s.ticks < e.tick + 3600 * ticksPerSec) <;> simp
  exact congrArg (fun l : List Evidence => min 255 (l.foldl (fun a e => a + e.points) 0)) (kept s.diag.evid)

theorem evidOver_calmed (v : Nat) : evidOver (calmed s) v = evidOver s v := by
  simp only [evidOver, evidAll, evidTotal_calmed]

theorem setHealth_health (h : Health) : (setHealth s h).diag.health = h := by
  unfold setHealth
  split
  · assumption
  · rfl

theorem postNotice_responses (code : BitVec 16) (ctx : Option Nat) (b : Bytes) :
    (postNotice s code ctx b).mail.responses = s.mail.responses := by
  unfold postNotice
  dsimp only
  split <;> rfl

theorem setHealth_responses (h : Health) : (setHealth s h).mail.responses = s.mail.responses := by
  unfold setHealth
  split
  · rfl
  · exact postNotice_responses _ _ _

theorem frame_setHealth (s : State) (h : Health) : AllBut [.mail, .outbox, .diag] s (setHealth s h) :=
  AllBut.ite (fun _ => .refl _ s) fun _ => (frame_postNotice s _ _ _).mono.trans (frame_modDiag _ _).mono

theorem frame_evalHealth (s : State) : AllBut [.mail, .outbox, .diag] s (evalHealth s) := by
  have first : AllBut [.mail, .outbox, .diag] s (calmed s) := (frame_modDiag s _).mono
  have moves := fun h => first.trans (frame_setHealth (calmed s) h)
  rw [evalHealth_eq]
  split
  · exact .ite (fun _ => moves _) fun _ => first
  · exact .ite (fun _ => moves _) fun _ => .ite (fun _ => moves _) fun _ => first
  · exact .ite (fun _ => moves _) fun _ => first

theorem ite_health (c : Prop) [Decidable c] {u : State} (h : Health) :
    (if c then setHealth u h else u).diag.health = if c then h else u.diag.health := by
  split
  · exact setHealth_health h
  · rfl

theorem evalHealth_healthy (h : s.diag.health = .healthy) :
    (evalHealth s).diag.health = if 1 ≤ evidOver s 20 then .watch else .healthy := by
  have was : (calmed s).diag.health = .healthy := h
  rw [evalHealth_eq, was]
  dsimp only
  rw [ite_health, evidOver_calmed, was]

theorem evalHealth_worse (h : s.diag.health = .watch) (bad : 2 ≤ evidOver s 20 ∨ 1 ≤ evidOver s 60) :
    (evalHealth s).diag.health = .suspect := by
  have was : (calmed s).diag.health = .watch := h
  rw [evalHealth_eq, was]
  dsimp only
  rw [if_pos (by rwa [evidOver_calmed, evidOver_calmed]), setHealth_health]

theorem evalHealth_watch (h : s.diag.health = .watch) (h20 : evidOver s 20 < 2) (h60 : evidOver s 60 = 0) :
    (evalHealth s).diag.health =
      if evidOver s 10 = 0 ∧ s.diag.calmWatch + 14400000000000 ≤ s.ticks then .healthy else .watch := by
  have was : (calmed s).diag.health = .watch := h
  have since : (calmed s).diag.calmWatch = if evidOver s 10 = 0 then s.diag.calmWatch else s.ticks := rfl
  have now : (calmed s).ticks = s.ticks := rfl
  rw [evalHealth_eq, was]
  dsimp only
  rw [if_neg (by rw [evidOver_calmed, evidOver_calmed]; omega), ite_health, was, since, now, hour_ticks]
  exact if_congr (calm_lasted (by norm_num)) rfl rfl

theorem evalHealth_suspect (h : s.diag.health = .suspect) : (evalHealth s).diag.health =
    if evidOver s 20 = 0 ∧ evidOver s 10 ≤ 1 ∧ s.diag.calmSince + 14400000000000 ≤ s.ticks then .watch else .suspect := by
  have was : (calmed s).diag.health = .suspect := h
  have since : (calmed s).diag.calmSince = if evidOver s 20 = 0 ∧ evidOver s 10 ≤ 1 then s.diag.calmSince else s.ticks := rfl
  have now : (calmed s).ticks = s.ticks := rfl
  have decided : evalHealth s = if (calmed s).diag.calmSince + 3600 * ticksPerSec ≤ (calmed s).ticks
      then setHealth (calmed s) .watch else calmed s := by rw [evalHealth_eq, was]
  rw [decided, ite_health, was, since, now, hour_ticks]
  exact if_congr ((calm_lasted (by norm_num)).trans and_assoc) rfl rfl

/-- What stands apart from the fabric, the record and the mailboxes stays. -/
theorem apart_of_frame {t : State} (h : AllBut [.mail, .outbox, .diag] s t) : Apart s t where
  opt := h .opt (by decide)
  mem := h .mem (by decide)
  ctxs := h .ctxs (by decide)
  slots := h .slots (by decide)
  lcores := h .lcores (by decide)
  sec := h .sec (by decide)
  pwr := h .pwr (by decide)
  now := congrArg (·.now) (h .time (by decide))
  latches := h .latches (by decide)
  pending := h .pending (by decide)

theorem Apart.then_settle {t : State} (h : Apart s t) : Apart s (settle t) := by
  have k := (settle_settled t).out
  exact ⟨k.opt.trans h.opt, k.mem.trans h.mem, k.ctxs.trans h.ctxs, k.slots.trans h.slots, k.lcores.trans h.lcores,
    k.sec.trans h.sec, k.pwr.trans h.pwr, (congrArg (·.now) k.time).trans h.now, k.latches.trans h.latches,
    k.pending.trans h.pending⟩

theorem health_moves (hu : belfryUp s = true) : ∃ t, exec .health s = .next t ∧ Apart s t ∧ t.fab = s.fab ∧
    (s.diag.health = .healthy → t.diag.health = (if 1 ≤ evidOver s 20 then .watch else .healthy)) ∧
    (s.diag.health = .watch → 2 ≤ evidOver s 20 ∨ 1 ≤ evidOver s 60 → t.diag.health = .suspect) ∧
    (s.diag.health = .watch → evidOver s 20 < 2 → evidOver s 60 = 0 → t.diag.health =
      (if evidOver s 10 = 0 ∧ s.diag.calmWatch + 14400000000000 ≤ s.ticks then .healthy else .watch)) ∧
    (s.diag.health = .suspect → t.diag.health =
      (if evidOver s 20 = 0 ∧ evidOver s 10 ≤ 1 ∧ s.diag.calmSince + 14400000000000 ≤ s.ticks then .watch else .suspect)) := by
  have kept := (settle_settled (evalHealth s)).out
  have frame := frame_evalHealth s
  refine ⟨settle (evalHealth s), congrArg done (if_pos hu), (apart_of_frame frame).then_settle,
    kept.fab.trans (frame .fab (by decide)), ?_, ?_, ?_, ?_⟩ <;> rw [kept.diag]
  · exact evalHealth_healthy
  · exact evalHealth_worse
  · exact evalHealth_watch
  · exact evalHealth_suspect

end

/-! ### What a unit that fails its test leaves alone -/

/-- The lifetime record was not written, and its word at `k` stays. -/
def LifeKept (k : Nat) (s t : State) : Prop := t.diag.wseq = s.diag.wseq ∧ mapGet t.diag.life k 0 = mapGet s.diag.life k 0

section
variable {s t u : State} {k : Nat}

theorem LifeKept.refl (k : Nat) (s : State) : LifeKept k s s := ⟨rfl, rfl⟩
theorem LifeKept.trans (h : LifeKept k s t) (g : LifeKept k t u) : LifeKept k s u := ⟨g.1.trans h.1, g.2.trans h.2⟩
theorem LifeKept.of_diag (h : t.diag = s.diag) : LifeKept k s t := ⟨by rw [h], by rw [h]⟩

theorem lifeKept_lifeAdd {off : Nat} (h : k ≠ off) (n : Nat) : LifeKept k s (lifeAdd s off n) := ⟨rfl, mapGet_set_other _ h _ _⟩

theorem lifeKept_lifeAdds {l : List (Nat × Nat)} (h : ∀ p ∈ l, k ≠ p.1) :
    LifeKept k s (l.foldl (fun s p => lifeAdd s p.1 p.2) s) := by
  induction l generalizing s with
  | nil => exact .refl k s
  | cons p l ih =>
    exact (lifeKept_lifeAdd (h p List.mem_cons_self) _).trans (ih fun q hq => h q (List.mem_cons_of_mem _ hq))

theorem lifeKept_takeAttrib (un : Nat) : LifeKept k s (takeAttrib s un).1 := by
  unfold takeAttrib
  split <;> exact ⟨rfl, rfl⟩

theorem lifeKept_recordEvent {life : List (Nat × Nat)} (h : ∀ p ∈ life, k ≠ p.1) (cls ev : Nat) (sev : BitVec 8) (un : Nat)
    (ctx : Option Nat) (evid : Option (BitVec 2 × Nat)) : LifeKept k s (recordEvent s cls ev sev un ctx life evid) := by
  have logged : ∀ c sv fl b, LifeKept k s (logError (takeAttrib s un).1 c sv fl un ctx b) := fun _ _ _ _ => lifeKept_takeAttrib un
  unfold recordEvent
  dsimp only
  split
  · exact logged _ _ _ _
  · split
    · exact (logged _ _ _ _).trans (lifeKept_lifeAdds h)
    · exact (logged _ _ _ _).trans (lifeKept_lifeAdds h)

/-- The record of a retired slot is written once, and its words below those of the slots stay. -/
theorem markRetired_life {p : Nat} {cause : BitVec 8} {v : Bool} (hk : k < 0x0B80) :
    (markRetired s p cause v).diag.wseq = s.diag.wseq + 1 ∧
      mapGet (markRetired s p cause v).diag.life k 0 = mapGet s.diag.life k 0 := by
  unfold markRetired
  extract_lets s1 s2
  have recorded : LifeKept k s1 s2 := lifeKept_recordEvent (by simp; omega) _ _ _ _ _ _
  obtain ⟨seq, word⟩ := recorded
  refine ⟨congrArg (· + 1) seq, ?_⟩
  exact (mapGet_set_other _ (by omega) _ _).trans word

theorem frame_markRetired (s : State) (p : Nat) (cause : BitVec 8) (v : Bool) : AllBut [.hub, .diag] s (markRetired s p cause v) := by
  unfold markRetired
  extract_lets s1 s2
  have first : AllBut [.hub, .diag] s s1 := (frame_modHub s _).mono
  have second : AllBut [.hub, .diag] s1 s2 := (frame_recordEvent s1 _ _ _ _ _ _ _).mono
  have flagged : AllBut [.diag] s2 (writeLife (lifeFlag s2 (0x0B80 + 16 * p + 12) cause.toNat)) := (frame_modDiag s2 _).trans (frame_modDiag _ _)
  exact (first.trans second).trans flagged.mono

theorem frame_coreChange (s : State) (f : Hub → Hub) : AllBut [.hub] s (coreChange s f) := (frame_modHub s _).trans (frame_modHub _ _)

theorem frame_retireSpare (s : State) (p : Nat) (cause : BitVec 8) : AllBut [.hub, .diag] s (retireSpare s p cause) :=
  (frame_markRetired s p cause false).trans (frame_coreChange _ _).mono

theorem frame_failUnit (s : State) (un : Nat) : AllBut [.hub, .diag, .mem] s (failUnit s un) := by
  unfold failUnit
  refine .ite (fun _ => ?_) fun _ => .ite (fun _ => (frame_modCtrl s _ _).mono) fun _ => .refl _ s
  split
  · exact (frame_modHub s _).mono
  · exact .ite (fun _ => .refl _ s) fun _ => (frame_retireSpare s un 0).mono

theorem failUnit_life (hk : k < 0x0B80) (un : Nat) : mapGet (failUnit s un).diag.life k 0 = mapGet s.diag.life k 0 := by
  unfold failUnit
  split
  · split
    · rfl
    · split
      · rfl
      · exact (markRetired_life hk).2
  · split <;> rfl

theorem frame_failUnits (l : List Nat) (s : State) : AllBut [.hub, .diag, .mem] s (l.foldl failUnit s) := .foldl frame_failUnit l s

theorem failUnits_life (hk : k < 0x0B80) (l : List Nat) (s : State) :
    mapGet (l.foldl failUnit s).diag.life k 0 = mapGet s.diag.life k 0 := by
  induction l generalizing s with
  | nil => rfl
  | cons p l ih => exact (ih _).trans (failUnit_life hk p)

/-! ### SELFTEST (R359, R386, R404) -/

theorem getCtx_bumpAll {c : Nat} (hc : c < 64) : getCtx (bumpAll s) c = { getCtx s c with cgen := (getCtx s c).cgen + 1 } := by
  rw [getCtx_eq_getElem _ hc, getCtx_eq_getElem _ hc]
  exact Vector.getElem_map _ _

/-- The slot of a core in service serves some core. -/
theorem servedBy_physOf {n : Nat} (hn : n < 128) (h : inService s n = true) : ∃ m, servedBy s (physOf s n) = some m := by
  rw [← Option.isSome_iff_exists, servedBy, List.find?_isSome]
  exact ⟨n, List.mem_range.mpr hn, by simp [h]⟩

theorem failUnit_served {p m : Nat} (hp : p < 136) (h : servedBy s p = some m) (hr : mapGet? s.hub.retire p = none) :
    failUnit s p = { s with hub := { s.hub with retire := mapSet s.hub.retire p 0 } } := by
  have fresh : ¬(mapGet? s.hub.retire p).isSome = true := by simp [hr]
  rw [failUnit, if_pos hp, h]
  exact congrArg (fun l => { s with hub := { s.hub with retire := l } }) (if_neg fresh)

theorem clearEvidence_facts (u : State) : (clearEvidence u).diag.health = .healthy ∧ (∀ k, evidTotal (clearEvidence u) k = 0) ∧
    (clearEvidence u).mail.responses = u.mail.responses ∧ (clearEvidence u).diag.life = u.diag.life := by
  refine ⟨setHealth_health _, fun k => ?_, setHealth_responses _, ?_⟩
  · have none_left : (clearEvidence u).diag.evid = [] := by
      unfold clearEvidence setHealth
      split
      · rfl
      · exact congrArg (·.evid) (frame_postNotice _ _ _ _ .diag (by decide) : (_ : Diag) = _)
    simp [evidTotal, none_left]
  · unfold clearEvidence setHealth
    split
    · rfl
    · exact congrArg (·.life) (frame_postNotice _ _ _ _ .diag (by decide) : (_ : Diag) = _)

/-- The module as a clearance self-test leaves it. -/
def cleared (l : List Nat) (s : State) : State :=
  if l.isEmpty then clearEvidence (lifeAdd (bumpAll (l.foldl failUnit s)) 0x3C 1)
  else lifeAdd (bumpAll (l.foldl failUnit s)) 0x3E 1

theorem ansSelftest_clearance {core : BitVec 8} {failing : List (Fin 272)} (h : ∀ c, c < 64 → (getCtx s c).st = .closed) :
    ansSelftest 1 core failing s = ok (cleared (failing.map (·.val)) s) (resultBody (failing.map (·.val))) := by
  unfold ansSelftest
  rw [if_neg (by decide), if_pos rfl]
  refine (if_neg ?_).trans ?_
  · rw [List.any_eq_true]
    rintro ⟨c, hc, ho⟩
    exact bne_iff_ne.mp ho (h c (List.mem_range.mp hc))
  · cases failing <;> rfl

theorem frame_clearEvidence (u : State) : AllBut [.mail, .outbox, .diag] u (clearEvidence u) :=
  (frame_modDiag u _).mono.trans (frame_setHealth _ _)

theorem cleared_keeps (l : List Nat) (s : State) : (cleared l s).slots = s.slots ∧ (cleared l s).fab = s.fab ∧
    (cleared l s).mail.responses = s.mail.responses ∧
    ∀ c, c < 64 → getCtx (cleared l s) c = { getCtx s c with cgen := (getCtx s c).cgen + 1 } := by
  have frame := frame_failUnits l s
  have bumped : ∀ t : State, t.ctxs = (bumpAll (l.foldl failUnit s)).ctxs →
      ∀ c, c < 64 → getCtx t c = { getCtx s c with cgen := (getCtx s c).cgen + 1 } := fun t ht c hc => by
    rw [getCtx_congr ht, getCtx_bumpAll hc, getCtx_congr (frame .ctxs (by decide))]
  unfold cleared
  split
  · have clears := frame_clearEvidence (lifeAdd (bumpAll (l.foldl failUnit s)) 0x3C 1)
    refine ⟨Eq.trans (clears .slots (by decide)) (frame .slots (by decide)), Eq.trans (clears .fab (by decide)) (frame .fab (by decide)),
      ?_, bumped _ (clears .ctxs (by decide))⟩
    rw [(clearEvidence_facts _).2.2.1]
    exact congrArg (·.responses) (frame .mail (by decide) : (_ : Mail) = _)
  · exact ⟨frame .slots (by decide), frame .fab (by decide), congrArg (·.responses) (frame .mail (by decide) : (_ : Mail) = _),
      bumped _ rfl⟩

theorem cleared_failing {l : List Nat} (h : l ≠ []) (s : State) :
    mapGet (cleared l s).diag.life 0x3E 0 = mapGet s.diag.life 0x3E 0 + 1 := by
  unfold cleared
  rw [if_neg (by simpa using h)]
  exact (mapGet_set_same _ _ _ _).trans (congrArg (· + 1) (failUnits_life (by decide) l s))

theorem cleared_passing (s : State) : (cleared [] s).diag.health = .healthy ∧ (∀ k, evidTotal (cleared [] s) k = 0) ∧
    (cleared [] s).mem = s.mem ∧ mapGet (cleared [] s).diag.life 0x3C 0 = mapGet s.diag.life 0x3C 0 + 1 := by
  obtain ⟨health, evid, -, life⟩ := clearEvidence_facts (lifeAdd (bumpAll s) 0x3C 1)
  exact ⟨health, evid, frame_clearEvidence (lifeAdd (bumpAll s) 0x3C 1) .mem (by decide), by
    refine (congrArg (mapGet · 0x3C 0) life).trans (mapGet_set_same _ _ _ _)⟩

theorem evidTotal_congr (hd : t.diag = s.diag) (ht : t.ticks = s.ticks) (k : BitVec 2) : evidTotal t k = evidTotal s k := by
  rw [evidTotal, hd, ht, evidTotal]

theorem selftest_clearance {r : Req} {core : BitVec 8} {failing : List (Fin 272)} (h : Ready 0x0604 setLive r s)
    (closed : ∀ c, c < 64 → (getCtx s c).st = .closed) : ∃ t, exec (.selftest r 1 core failing) s = .next t ∧
      Answers s t r 0x0604 0x00 (resultBody (failing.map (·.val))) ∧ t.slots = s.slots ∧ t.fab = s.fab ∧
      (∀ c, c < 64 → getCtx t c = { getCtx s c with cgen := (getCtx s c).cgen + 1 }) ∧
      (failing = [] → t.diag.health = .healthy ∧ (∀ k, evidTotal t k = 0) ∧ t.mem = s.mem ∧
        mapGet t.diag.life 0x3C 0 = mapGet s.diag.life 0x3C 0 + 1) ∧
      (failing ≠ [] → mapGet t.diag.life 0x3E 0 = mapGet s.diag.life 0x3E 0 + 1) := by
  have runs : RunsAs (.selftest r 1 core failing) r 0x0604 setLive (ansSelftest 1 core failing) s := rfl
  obtain ⟨slots, fab, told, ctxs⟩ := cleared_keeps (failing.map (·.val)) s
  obtain ⟨t, run, kept, ans⟩ := serves_ok runs h (ansSelftest_clearance closed) told
  refine ⟨t, run, ans, kept.out.slots.trans slots, kept.out.fab.trans fab,
    fun c hc => (getCtx_congr kept.out.ctxs c).trans (ctxs c hc), ?_, fun hf => ?_⟩
  · rintro rfl
    obtain ⟨health, evid, mem, life⟩ := cleared_passing s
    exact ⟨by rw [kept.out.diag]; exact health, fun k => (evidTotal_congr kept.out.diag kept.out.ticks k).trans (evid k),
      kept.out.mem.trans mem, by rw [kept.out.diag]; exact life⟩
  · rw [kept.out.diag]
    exact cleared_failing (by simpa using hf) s

section
variable {r : Req} {core : BitVec 8} {failing : List (Fin 272)}

theorem ansSelftest_core : ansSelftest 0 core failing s = if 128 ≤ core.toNat then err s stBadArg 0
    else if (!inService s core.toNat) = true then err s stFenced 0
    else if (failing.map (·.val)).contains (physOf s core.toNat) = true then
      ok (failUnit s (physOf s core.toNat)) (resultBody [physOf s core.toNat]) else ok s (resultBody []) := by
  unfold ansSelftest
  rw [if_pos rfl]

theorem selftest_core (h : Ready 0x0604 setLive r s) (hn : core.toNat < 128) (hs : inService s core.toNat = true)
    (hp : physOf s core.toNat < 136) :
    ((failing.map (·.val)).contains (physOf s core.toNat) = false → Serves (.selftest r 0 core failing) s s r 0x0604 0x00 [0, 0]) ∧
    ((failing.map (·.val)).contains (physOf s core.toNat) = true → mapGet? s.hub.retire (physOf s core.toNat) = none →
      Serves (.selftest r 0 core failing) s { s with hub := { s.hub with retire := mapSet s.hub.retire (physOf s core.toNat) 0 } }
        r 0x0604 0x00 ([1, 1] ++ leBytes 2 (physOf s core.toNat))) := by
  have ans : ansSelftest 0 core failing s = if (failing.map (·.val)).contains (physOf s core.toNat) then
      ok (failUnit s (physOf s core.toNat)) (resultBody [physOf s core.toNat]) else ok s (resultBody []) :=
    by rw [ansSelftest_core, if_neg (by omega), if_neg (by simp [hs])]
  refine ⟨fun hf => serves_ok rfl h (ans.trans (if_neg (by simp only [hf]; decide))) rfl, fun hf hr => ?_⟩
  obtain ⟨m, served⟩ := servedBy_physOf hn hs
  rw [if_pos hf, failUnit_served hp served hr] at ans
  have body : resultBody [physOf s core.toNat] = [1, 1] ++ leBytes 2 (physOf s core.toNat) := by simp [resultBody]
  rw [body] at ans
  exact serves_ok rfl h ans rfl

theorem ansSelftest_gone (hn : core.toNat < 128) (hs : inService s core.toNat = false) :
    ansSelftest 0 core failing s = err s stFenced 0 := by
  rw [ansSelftest_core, if_neg (by omega), if_pos (by simp [hs])]

theorem ansSelftest_noCore (hn : 128 ≤ core.toNat) : ansSelftest 0 core failing s = err s stBadArg 0 := by
  rw [ansSelftest_core, if_pos hn]

theorem ansSelftest_open (h : ∃ c, c < 64 ∧ (getCtx s c).st ≠ .closed) : ansSelftest 1 core failing s = conflict s 5 1 0 := by
  unfold ansSelftest
  rw [if_neg (by decide), if_pos rfl]
  refine if_pos ?_
  obtain ⟨c, hc, ho⟩ := h
  exact List.any_eq_true.mpr ⟨c, List.mem_range.mpr hc, bne_iff_ne.mpr ho⟩

theorem ansSelftest_noKind {k : BitVec 8} (h : 2 ≤ k.toNat) : ansSelftest k core failing s = err s stBadArg 0 := by
  refine (if_neg ?_).trans (if_neg ?_)
  · rintro rfl
    exact absurd h (by decide)
  · rintro rfl
    exact absurd h (by decide)

end

/-! ### The test of a slot ends (R128, R383) -/

/-- A slot whose test has ended stands in no list of those in test. -/
def untested (s : State) (p : Nat) : State := { s with hub := { s.hub with slotTesting := s.hub.slotTesting.erase p } }

theorem testDone_served {p n : Nat} (ht : s.hub.slotTesting.contains p = true) (hs : servedBy s p = some n) (pass : Bool) :
    testDone s p pass = if pass then wakeCore (untested s p) n else verdict (untested s p) p 0 := by
  have served : servedBy (untested s p) p = some n := hs
  unfold testDone
  rw [if_neg (by simpa using ht)]
  extract_lets u
  rw [show servedBy u p = some n from served]
  rfl

theorem testDone_unserved {p : Nat} (ht : s.hub.slotTesting.contains p = true) (hs : servedBy s p = none)
    (hc : ∀ n, n < 128 → (coreEntry s n).status ≠ .testing) (pass : Bool) :
    testDone s p pass = if pass then coreChange (untested s p) (fun h => h) else retireSpare (untested s p) p 0 := by
  have served : servedBy (untested s p) p = none := hs
  have nobody : ((List.range 128).find? fun n => (coreEntry (untested s p) n).status == .testing && physOf (untested s p) n == p) = none := by
    refine List.find?_eq_none.mpr fun n hn => ?_
    have other : ((coreEntry (untested s p) n).status == CoreStatus.testing) = false := beq_eq_false_iff_ne.mpr (hc n (List.mem_range.mp hn))
    rw [other]
    exact Bool.false_ne_true
  unfold testDone
  rw [if_neg (by simpa using ht)]
  extract_lets u
  rw [show servedBy u p = none from served]
  dsimp only
  rw [show ((List.range 128).find? fun n => (coreEntry u n).status == .testing && physOf u n == p) = none from nobody]
  rfl

theorem retireSpare_facts (u : State) (p : Nat) : (retireSpare u p 0).hub.slotRetired.contains p = true ∧
    (retireSpare u p 0).hub.mapGen = u.hub.mapGen + 2 ∧ (retireSpare u p 0).hub.coreMap = u.hub.coreMap := by
  have hub : ∀ v : State, AllBut [.diag] v (markRetired u p 0 false) → (retireSpare u p 0).hub = { v.hub with
      mapGen := v.hub.mapGen + 2, capGen := v.hub.mapGen + 2 } := fun v hv => by
    rw [← (hv .hub (by decide) : (_ : Hub) = _)]
    rfl
  have flagged : ∀ v w : State, AllBut [.diag] v w → AllBut [.diag] v (writeLife (lifeFlag w (0x0B80 + 16 * p + 12) 0)) :=
    fun v w h => (h.trans (frame_modDiag w _)).trans (frame_modDiag _ _)
  have marked := hub (modHub u fun h => { h with
      slotRetired := if h.slotRetired.contains p then h.slotRetired else p :: h.slotRetired, slotTesting := h.slotTesting.erase p })
    (flagged _ _ (frame_recordEvent _ _ _ _ _ _ _ _))
  rw [marked]
  refine ⟨?_, rfl, rfl⟩
  show (if u.hub.slotRetired.contains p then u.hub.slotRetired else p :: u.hub.slotRetired).contains p = true
  split
  · assumption
  · simp

theorem selftestComplete_retires {p : PSlot} (ht : s.hub.slotTesting.contains p.val = true) (hs : servedBy s p.val = none)
    (hc : ∀ n, n < 128 → (coreEntry s n).status ≠ .testing) : ∃ t, exec (.selftestComplete p false) s = .next t ∧
      t.hub.slotRetired.contains p.val = true ∧ t.hub.mapGen = s.hub.mapGen + 2 ∧ t.diag.wseq = s.diag.wseq + 1 ∧
      t.hub.coreMap = s.hub.coreMap ∧ t.slots = s.slots ∧ t.mem = s.mem ∧ t.ctxs = s.ctxs := by
  obtain ⟨retired, gen, cores⟩ := retireSpare_facts (untested s p.val) p.val
  obtain ⟨t, run, kept⟩ : Leads (.selftestComplete p false) s (retireSpare (untested s p.val) p.val 0) :=
    leads_done (congrArg done ((testDone_unserved ht hs hc false).trans (if_neg (by decide)))) (.refl _)
  have frame := frame_retireSpare (untested s p.val) p.val 0
  refine ⟨t, run, by rw [kept.hub.slotRetired]; exact retired, kept.hub.mapGen.trans gen, ?_, kept.hub.coreMap.trans cores,
    kept.out.slots.trans (frame .slots (by decide)), kept.out.mem.trans (frame .mem (by decide)),
    kept.out.ctxs.trans (frame .ctxs (by decide))⟩
  rw [kept.out.diag]
  exact (markRetired_life (k := 0) (by decide)).1

end

/-- Settles O39: the evaluation of the score by the health state, SELFTEST by its kind, and the end of a slot's test by whom it serves. -/
theorem healthAndSelfTestsDecide : Obligations.HealthAndSelfTestsDecide := by
  refine ⟨fun s => health_moves, fun s => ⟨fun r core failing h => ⟨fun hn hs hp => selftest_core h hn hs hp,
      fun hn hs => refuses_err rfl h (ansSelftest_gone hn hs), fun hn => refuses_err rfl h (ansSelftest_noCore hn),
      selftest_clearance h, fun ho => conflicts_of rfl h (ansSelftest_open ho),
      fun k hk => refuses_err rfl h (ansSelftest_noKind hk)⟩,
    fun p n ht hs hb => ⟨?_, fun hr => ?_⟩, fun p ht hs hc => ⟨?_, selftestComplete_retires ht hs hc⟩,
    fun p ok hp rest => exec_idle (congrArg done (if_pos (by simpa using hp))) rest⟩⟩
  · exact leads_done (congrArg done ((testDone_served ht hs true).trans ((if_pos rfl).trans (wakeCore_none hb)))) (.refl _)
  · refine leads_done (congrArg done ((testDone_served ht hs false).trans (if_neg (by decide)))) ?_
    have fresh : ¬(mapGet? s.hub.retire p.val).isSome = true := by simp [hr]
    have due : verdict (untested s p.val) p.val 0 = { s with hub := { s.hub with
        slotTesting := s.hub.slotTesting.erase p.val, retire := mapSet s.hub.retire p.val 0 } } :=
      congrArg (fun l => { s with hub := { s.hub with slotTesting := s.hub.slotTesting.erase p.val, retire := l } })
        (if_neg fresh)
    exact due ▸ .refl _
  · exact leads_done (congrArg done ((testDone_unserved ht hs hc true).trans (if_pos rfl))) (.refl _)

end Sys2Proof.Machine
end

section
-- One proof after the other: a text of this length has more proofs waiting at once than the check has threads for.
set_option Elab.async false
/-! PROOFS. A port that is sent to train (R256), and the injections (R405). -/
namespace Sys2Proof.Machine

/-! ### A port is sent to train -/

section
variable {s : State} {p : Nat}

theorem modPort_same {f : PortBlock → PortBlock} (h : f (getPort s p) = getPort s p) : modPort s p f = s := by
  by_cases hp : p < 36
  · have held : getPort s p = s.fab.ports[p] := by simp [getPort, Vector.getD, hp]
    rw [modPort, h, setPort, held, vector_set_self]
  · exact modPort_outOfBounds s (by omega) f

/-- With an empty retry buffer nothing is sent again by another port. -/
theorem resendBuf_empty (h : (getPort s p).buf = []) : resendBuf s p = s := by
  have emptied : modPort s p (fun b => { b with buf := [] }) = s := modPort_same (by rw [← h])
  unfold resendBuf
  dsimp only
  rw [h, emptied]
  rfl

/-- A port as it is when its training begins. -/
def inTraining (s : State) (b : PortBlock) : PortBlock := { b with
  st := .training, retrain := if portUp b then b.retrain + 1 else b.retrain, relockAt := none, rxNext := 0, checkFails := []
  waiting := false, trains := s.ticks :: (b.trains.filter fun t => decide (s.ticks < t + 3600 * ticksPerSec)) }

/-- What a port's writing leaves alone of it. -/
theorem getPort_modPort_keeps {α : Type} (g : PortBlock → α) {f : PortBlock → PortBlock} (h : ∀ b, g (f b) = g b) (s : State) (p q : Nat) :
    g (getPort (modPort s p f) q) = g (getPort s q) := by
  by_cases hq : q = p
  · subst hq
    by_cases hb : q < 36
    · rw [getPort_modPort_same _ hb, h]
    · rw [modPort_outOfBounds _ (by omega)]
  · rw [getPort_modPort_other _ hq]

theorem modPort_fab {s t : State} (h : t.fab = s.fab) (p : Nat) (f : PortBlock → PortBlock) : (modPort t p f).fab = (modPort s p f).fab := by
  simp only [modPort, setPort, getPort, h]

theorem setPortState_fab (s : State) (p : Nat) (st : PortState) :
    (setPortState s p st).fab = (modPort s p fun b => { b with st := st }).fab := by
  unfold setPortState
  split
  · rename_i same
    have stays : modPort s p (fun b => { b with st := st }) = s := by
      refine modPort_same ?_
      show { getPort s p with st := st } = getPort s p
      rw [← same]
    rw [stays]
  · rfl

theorem frame_dropParent (s : State) (p : Nat) : AllBut [.time] s (dropParent s p) := .ite (fun _ => frame_modTime s _) fun _ => .refl _ s

/-- A port that goes to train has counted that it was up, stands in training, and is followed no longer. -/
def trainingBegun (s : State) (p : Nat) : State :=
  dropParent (setPortState (if portUp (getPort s p) then tally s (216 + p) [(0x1400 + 24 * p + 12, 1)] else s) p .training) p

theorem trainingBegun_moves (s : State) (p : Nat) : AllBut [.fab, .ports, .diag, .time] s (trainingBegun s p) ∧
    (trainingBegun s p).fab = (modPort s p fun b => { b with st := .training }).fab := by
  unfold trainingBegun
  have counted : AllBut [.diag] s (if portUp (getPort s p) then tally s (216 + p) [(0x1400 + 24 * p + 12, 1)] else s) :=
    .ite (fun _ => frame_tally s _ _) fun _ => .refl _ s
  generalize (if portUp (getPort s p) then tally s (216 + p) [(0x1400 + 24 * p + 12, 1)] else s) = v at counted
  refine ⟨(counted.mono.trans (frame_setPortState v p _).mono).trans (frame_dropParent _ p).mono, ?_⟩
  have dropped : (dropParent (setPortState v p .training) p).fab = (setPortState v p .training).fab :=
    frame_dropParent _ p .fab (by decide)
  rw [dropped, setPortState_fab]
  exact modPort_fab (counted .fab (by decide)) p _

theorem portToTraining_eq (hb : (getPort s p).buf = []) : portToTraining s p = modPort (trainingBegun s p) p fun b => { b with
    retrain := if portUp (getPort s p) then b.retrain + 1 else b.retrain, relockAt := none, rxNext := 0, checkFails := []
    waiting := false
    trains := (trainingBegun s p).ticks ::
      (b.trains.filter fun t => decide ((trainingBegun s p).ticks < t + 3600 * ticksPerSec)) } := by
  unfold portToTraining
  extract_lets up s1 s2
  have empty : (getPort (setPortState s1 p .training) p).buf = [] := by
    rw [getPort_congr (congrArg (·.ports) (setPortState_fab s1 p .training))]
    refine (getPort_modPort_keeps (·.buf) (f := fun b => { b with st := .training }) (fun _ => rfl) s1 p p).trans ?_
    have same : s1.fab.ports = s.fab.ports :=
      (AllBut.ite (fun _ => frame_tally s _ _) fun _ => .refl _ s : AllBut [.diag] s s1) .ports (by decide)
    rw [getPort_congr same]
    exact hb
  have begun : s2 = trainingBegun s p := congrArg (dropParent · p) (resendBuf_empty empty)
  rw [begun]

/-- What sending a port with an empty retry buffer to train moves. -/
theorem portToTraining_moves (hb : (getPort s p).buf = []) : AllBut [.fab, .ports, .diag, .time] s (portToTraining s p) ∧
    (portToTraining s p).fab = (modPort s p (inTraining s)).fab := by
  obtain ⟨frame, fab⟩ := trainingBegun_moves s p
  have ticks : (trainingBegun s p).ticks = s.ticks := frame .ticks (by decide)
  rw [portToTraining_eq hb, ticks]
  refine ⟨frame.trans (frame_modPort _ p _).mono, (modPort_fab fab p _).trans ?_⟩
  by_cases hp : p < 36
  · simp only [modPort, setPort, inTraining]
    rw [show getPort { s with fab := _ } p = _ from getPort_setPort_same s hp _]
    simp [Vector.setIfInBounds]
  · rw [modPort_outOfBounds _ (by omega), modPort_outOfBounds _ (by omega), modPort_outOfBounds _ (by omega)]

theorem portToTraining_port (hp : p < 36) (hb : (getPort s p).buf = []) : getPort (portToTraining s p) p = inTraining s (getPort s p) :=
  (getPort_congr (congrArg (·.ports) (portToTraining_moves hb).2) p).trans (getPort_modPort_same s hp _)

theorem portToTraining_others (hb : (getPort s p).buf = []) {q : Nat} (hq : q ≠ p) : getPort (portToTraining s p) q = getPort s q :=
  (getPort_congr (congrArg (·.ports) (portToTraining_moves hb).2) q).trans (getPort_modPort_other s hq _)

end

/-- The cores as they are, up to what every step does last. -/
theorem getC_settled {u t : State} (k : Settled u t) (n : Nat) : getC t n = getC u n := by
  simp only [getC, getP, physOf, coreEntry, k.hub.coreMap, k.out.slots]

/-! ### RIMSHOT (R405) -/

section
variable {s u : State} {d : Injection} {a : Armed16} {i : Nat}

theorem injectAt_setInject_same (hi : i < 16) : injectAt (setInject s i a) i = some a := vector_getD_set_same _ hi _ _
theorem injectAt_setInject_other {j : Nat} (h : j ≠ i) : injectAt (setInject s i a) j = injectAt s j := vector_getD_set_other _ h _ _
theorem injectAt_congr (h : u.diag = s.diag) (j : Nat) : injectAt u j = injectAt s j := by rw [injectAt, h, injectAt]

theorem injectAt_eq (hi : i < 16) : injectAt s i = s.diag.inject[i] := by simp [injectAt, Vector.getD, hi]

/-- R405: where a new injection may stand: nothing stands there, or what has no effect left. -/
def placeFree (s : State) (o : Option Armed16) : Bool := (o.map (injectSpent s)).getD true

/-- An injection as it is armed. -/
def armedInjection (s : State) (d : Injection) : Armed16 :=
  { d := d, time := some (armTime s (d.tFire.setWidth 40)), fired := 0, nextAt := 0, active := 0, attrib := none }

theorem ansRimshot_arms (he : dbgEn s = true) (ho : injectOk s d = true) (hg : injectGone s d = false)
    (hc : ((injectPart s d).map (isConf s)).getD false = false) : ansRimshot d s =
      match s.diag.inject.toList.findIdx? (placeFree s) with
      | none => err s stNoResource 0
      | some i => ok (setInject s i (armedInjection s d)) [] := by
  unfold ansRimshot
  rw [if_neg (by simp [he]), if_neg (by simp [ho]), if_neg (by simp [hg]), if_neg (by simp [hc])]
  rfl

theorem findPlace_some (h : ∃ i, i < 16 ∧ injectAt s i = none) :
    ∃ i, s.diag.inject.toList.findIdx? (placeFree s) = some i ∧ i < 16 ∧ ∀ a, injectAt s i = some a → injectSpent s a = true := by
  obtain ⟨k, hk, empty⟩ := h
  have there : s.diag.inject.toList.findIdx? (placeFree s) ≠ none := fun none_ => by
    have free := List.findIdx?_eq_none_iff.mp none_ s.diag.inject[k] (by simp)
    rw [← injectAt_eq hk, empty] at free
    exact Bool.noConfusion free
  obtain ⟨i, hi⟩ := Option.ne_none_iff_exists'.mp there
  obtain ⟨bound, free, -⟩ := List.findIdx?_eq_some_iff_getElem.mp hi
  have lt : i < 16 := by simpa using bound
  refine ⟨i, hi, lt, fun a ha => ?_⟩
  have stands : s.diag.inject.toList[i] = some a := by rw [← ha, injectAt_eq lt, Vector.getElem_toList]
  rw [stands] at free
  exact free

theorem findPlace_none (h : ∀ i, i < 16 → ∃ a, injectAt s i = some a ∧ injectSpent s a = false) :
    s.diag.inject.toList.findIdx? (placeFree s) = none := by
  refine List.findIdx?_eq_none_iff.mpr fun x hx => ?_
  obtain ⟨i, hi, rfl⟩ := List.getElem_of_mem hx
  obtain ⟨a, ha, acts⟩ := h i (by simpa using hi)
  rw [Vector.getElem_toList, ← injectAt_eq (by simpa using hi), ha]
  exact acts

theorem rimshot_arms {r : Req} (h : Ready 0x0605 setLive r s) (he : dbgEn s = true) (ho : injectOk s d = true) (hg : injectGone s d = false)
    (hc : ((injectPart s d).map (isConf s)).getD false = false) (free : ∃ i, i < 16 ∧ injectAt s i = none) :
    ∃ t i, exec (.rimshot r d) s = .next t ∧ Answers s t r 0x0605 0x00 [] ∧ i < 16 ∧
      Settled { s with diag := { s.diag with inject := t.diag.inject } } t ∧
      (∀ a, injectAt s i = some a → injectSpent s a = true) ∧
      injectAt t i = some { d := d, time := some (armTime s (d.tFire.setWidth 40)), fired := 0, nextAt := 0, active := 0, attrib := none } ∧
      ∀ j, j ≠ i → injectAt t j = injectAt s j := by
  obtain ⟨i, found, hi, spent⟩ := findPlace_some free
  have ans := ansRimshot_arms he ho hg hc
  rw [found] at ans
  have runs : RunsAs (.rimshot r d) r 0x0605 setLive (ansRimshot d) s := rfl
  obtain ⟨t, run, kept, told⟩ := serves_ok runs h ans rfl
  have diag : t.diag = (setInject s i (armedInjection s d)).diag := kept.out.diag
  refine ⟨t, i, run, told, hi, ?_, spent, ?_, fun j hj => ?_⟩
  · rw [diag]
    exact kept
  · rw [injectAt_congr diag]
    exact injectAt_setInject_same hi
  · rw [injectAt_congr diag]
    exact injectAt_setInject_other hj

theorem rimshot_noPlace {r : Req} (h : Ready 0x0605 setLive r s) (he : dbgEn s = true) (ho : injectOk s d = true) (hg : injectGone s d = false)
    (hc : ((injectPart s d).map (isConf s)).getD false = false)
    (acts : ∀ i, i < 16 → ∃ a, injectAt s i = some a ∧ injectSpent s a = false) : Refuses (.rimshot r d) s r 0x0605 0x05 0 := by
  have ans := ansRimshot_arms he ho hg hc
  rw [findPlace_none acts] at ans
  exact refuses_err rfl h ans

theorem ansRimshot_noDebug (he : dbgEn s = false) : ansRimshot d s = err s stDenied 0 := if_pos (by simp [he])

theorem ansRimshot_bad (he : dbgEn s = true) (ho : injectOk s d = false) : ansRimshot d s = err s stBadArg 0 :=
  (if_neg (by simp [he])).trans (if_pos (by simp [ho]))

theorem ansRimshot_gone (he : dbgEn s = true) (ho : injectOk s d = true) (hg : injectGone s d = true) : ansRimshot d s = err s stFenced 0 :=
  (if_neg (by simp [he])).trans ((if_neg (by simp [ho])).trans (if_pos hg))

theorem ansRimshot_conf (he : dbgEn s = true) (ho : injectOk s d = true) (hg : injectGone s d = false) {p : Nat}
    (hp : injectPart s d = some p) (hc : isConf s p = true) : ansRimshot d s = err s stDenied 0 :=
  (if_neg (by simp [he])).trans ((if_neg (by simp [ho])).trans ((if_neg (by simp [hg])).trans (if_pos (by simp [hp, hc]))))

/-! ### An injection fires (R405, R406) -/

/-- An injection once it has fired. -/
def fired (s : State) (a : Armed16) : Armed16 := { a with
  time := none, fired := a.fired + 1, nextAt := s.ticks + a.d.intervalUs.toNat * ticksPerUs, attrib := some s.ticks
  active := if a.d.kind = 4 then 0 else if a.d.kind == 7 || a.d.kind == 9 then 1 else a.active + 1 }

theorem fireInjection_eq : fireInjection s i a = fireEffect (setInject s i (fired s a)) a.d := rfl

theorem frame_corruptStage (s : State) (n b : Nat) : AllBut [.free, .slots] s (corruptStage s n b) :=
  .ite (fun _ => .refl _ s) fun _ => (frame_drawFree s 8).mono.trans (frame_modC _ n _).mono

theorem frame_fireEffect (s : State) (d : Injection) : AllBut [.free, .slots, .fab, .ports] s (fireEffect s d) := by
  unfold fireEffect
  dsimp only
  split
  · exact (frame_corruptStage s _ _).mono
  · exact (frame_modPort s _ _).mono
  · exact (frame_modC s _ _).mono
  · exact .refl _ s

theorem kind_toNat {k : BitVec 8} (h : d.kind = k) : d.kind.toNat = k.toNat := by rw [h]

theorem fireEffect_mutes (h : d.kind = 7) : fireEffect s d = modPort s d.target.toNat fun b => { b with muted := true } := by
  unfold fireEffect
  rw [kind_toNat h]
  rfl

theorem fireEffect_stops (h : d.kind = 9) : fireEffect s d = modC s d.target.toNat fun c => { c with stopped := true } := by
  unfold fireEffect
  rw [kind_toNat h]
  rfl

theorem fireEffect_corrupts (h : d.kind = 4) : fireEffect s d = corruptStage s d.target.toNat d.addr.toNat := by
  unfold fireEffect
  rw [kind_toNat h]
  rfl

theorem fireEffect_waits (h4 : d.kind ≠ 4) (h7 : d.kind ≠ 7) (h9 : d.kind ≠ 9) : fireEffect s d = s := by
  have other : ∀ k : BitVec 8, d.kind ≠ k → d.kind.toNat ≠ k.toNat := fun k h e => h (BitVec.eq_of_toNat_eq e)
  unfold fireEffect
  dsimp only
  split
  · exact absurd ‹_› (other 4 h4)
  · exact absurd ‹_› (other 7 h7)
  · exact absurd ‹_› (other 9 h9)
  · rfl

/-- An open byte that is added so is never none at all. -/
theorem byte_moves (b f : Byte) : b + 1 + BitVec.ofNat 8 (f.toNat % 255) ≠ b := by
  intro h
  have nat := congrArg BitVec.toNat h
  simp only [BitVec.toNat_add, BitVec.toNat_ofNat, show (1 : Byte).toNat = 1 from rfl] at nat
  have := b.isLt
  omega

theorem corruptStage_byte {n b : Nat} (hb : b < stageBytes) (hw : memoryWf (getC s n).stage = true) :
    memGet (getC (corruptStage s n b) n).stage b ≠ memGet (getC s n).stage b ∧
      ∀ k, k ≠ b → memGet (getC (corruptStage s n b) n).stage k = memGet (getC s n).stage k := by
  have wrote : (getC (corruptStage s n b) n).stage =
      memSet (getC s n).stage b (memGet (getC s n).stage b + 1 + BitVec.ofNat 8 ((drawFree s 8).1.toNat % 255)) := by
    rw [corruptStage, if_neg (by omega)]
    exact congrArg (·.stage) (getC_modC_same (drawFree s 8).2 n _)
  rw [wrote]
  refine ⟨?_, fun k hk => memGet_set_other hk _⟩
  rw [memGet_set_same hw]
  exact byte_moves _ _

theorem fireInject_armed {w : Armed} (ha : injectAt s i = some a) (hw : a.time = some w) : fireInject s i =
    fireTimer s (some w) (fun s t => setInject s i { a with time := some t }) fun s => fireInjection s i a := by
  unfold fireInject
  rw [ha]
  dsimp only
  rw [if_neg (by simp [hw]), hw]

/-- The state in which an injection that is due fires: one that comes late has been counted. -/
def lookedLate (v : Launch) (s : State) : State := if v = .late then countLate s else s

theorem lookedLate_facts (v : Launch) (s : State) : AllBut [.time] s (lookedLate v s) ∧
    (v = .late → (lookedLate v s).time.lateLaunch = s.time.lateLaunch + 1) := by
  unfold lookedLate
  split
  · exact ⟨frame_modTime s _, fun _ => rfl⟩
  · exact ⟨.refl _ s, fun h => absurd h ‹_›⟩

theorem fireInject_fires {w : Armed} (ha : injectAt s i = some a) (hw : a.time = some w) (hv : (evalArmed s w).1 ≠ .wait) :
    fireInject s i = fireEffect (setInject (lookedLate (evalArmed s w).1 s) i (fired s a)) a.d := by
  rw [fireInject_armed ha hw]
  rcases h : evalArmed s w with ⟨v, x⟩
  rw [h] at hv
  cases v
  case wait => exact absurd rfl hv
  case onTime => exact fireTimer_fires rfl h
  case late => exact fireTimer_late rfl h

theorem rimshotFire_fires {n : Fin 16} {w : Armed} (ha : injectAt s n.val = some a) (hw : a.time = some w)
    (hv : (evalArmed s w).1 ≠ .wait) : ∃ t b, exec (.rimshotFire n) s = .next t ∧ injectAt t n.val = some b ∧ b.d = a.d ∧
      b.time = none ∧ b.fired = a.fired + 1 ∧ b.attrib = some s.ticks ∧ t.mem = s.mem ∧ t.ctxs = s.ctxs ∧
      ((evalArmed s w).1 = .late → t.time.lateLaunch = s.time.lateLaunch + 1) ∧
      (∀ j, j ≠ n.val → injectAt t j = injectAt s j) ∧
      (a.d.kind = 7 → a.d.target.toNat < 36 → (getPort t a.d.target.toNat).muted = true ∧ t.slots = s.slots ∧
        ∀ q, q ≠ a.d.target.toNat → getPort t q = getPort s q) ∧
      (a.d.kind = 9 → (getC t a.d.target.toNat).stopped = true ∧ t.fab = s.fab) ∧
      (a.d.kind = 4 → a.d.addr.toNat < stageBytes → memoryWf (getC s a.d.target.toNat).stage = true →
        memGet (getC t a.d.target.toNat).stage a.d.addr.toNat ≠ memGet (getC s a.d.target.toNat).stage a.d.addr.toNat ∧
        (∀ k, k ≠ a.d.addr.toNat → memGet (getC t a.d.target.toNat).stage k = memGet (getC s a.d.target.toNat).stage k) ∧
        t.fab = s.fab) ∧
      (a.d.kind ≠ 4 → a.d.kind ≠ 7 → a.d.kind ≠ 9 → b.active = a.active + 1 ∧ t.fab = s.fab ∧ t.slots = s.slots) := by
  obtain ⟨looked, late⟩ := lookedLate_facts (evalArmed s w).1 s
  obtain ⟨v, hvv⟩ : ∃ v, v = setInject (lookedLate (evalArmed s w).1 s) n.val (fired s a) := ⟨_, rfl⟩
  have first : AllBut [.time, .diag] s v := hvv ▸ looked.mono.trans (frame_modDiag _ _).mono
  have effect := frame_fireEffect v a.d
  obtain ⟨t, run, kept⟩ : Leads (.rimshotFire n) s (fireEffect v a.d) :=
    leads_done (congrArg done ((fireInject_fires ha hw hv).trans (by rw [hvv]))) (.refl _)
  have core : ∀ k, getC t k = getC (fireEffect v a.d) k := fun k => getC_settled kept k
  have diag : t.diag = v.diag := kept.out.diag.trans (effect .diag (by decide))
  have slots : fireEffect v a.d = v → t.slots = s.slots := fun h => kept.out.slots.trans (by rw [h]; exact first .slots (by decide))
  have vcore : ∀ k, getC v k = getC s k := getC_congr (first .hub (by decide)) (first .slots (by decide))
  have corrupt := fun b => frame_corruptStage v a.d.target.toNat b
  refine ⟨t, fired s a, run, ?_, rfl, rfl, rfl, rfl, kept.out.mem.trans (Eq.trans (effect .mem (by decide)) (first .mem (by decide))),
    kept.out.ctxs.trans (Eq.trans (effect .ctxs (by decide)) (first .ctxs (by decide))), fun hl => ?_, fun j hj => ?_, fun h7 hp => ?_, fun h9 => ?_,
    fun h4 hb wf => ?_, fun h4 h7 h9 => ?_⟩
  · rw [injectAt_congr diag, hvv]
    exact injectAt_setInject_same n.isLt
  · rw [kept.out.time, (effect .time (by decide) : (_ : TimeBlock) = _), hvv]
    exact late hl
  · rw [injectAt_congr diag, hvv]
    exact (injectAt_setInject_other hj).trans (injectAt_congr (looked .diag (by decide)) j)
  · have moved := fireEffect_mutes (s := v) h7
    have ports : ∀ q, getPort t q = getPort (modPort v a.d.target.toNat fun b => { b with muted := true }) q := fun q =>
      (getPort_congr (congrArg (·.ports) kept.out.fab) q).trans (by rw [moved])
    refine ⟨by rw [ports, getPort_modPort_same _ hp], ?_, fun q hq => ?_⟩
    · rw [kept.out.slots, moved]
      exact first .slots (by decide)
    · rw [ports, getPort_modPort_other _ hq]
      exact getPort_congr (first .ports (by decide)) q
  · rw [core, fireEffect_stops h9, getC_modC_same]
    refine ⟨rfl, ?_⟩
    rw [kept.out.fab, fireEffect_stops h9]
    exact first .fab (by decide)
  · have moved := fireEffect_corrupts (s := v) h4
    obtain ⟨differs, others⟩ := corruptStage_byte (s := v) hb (by rw [vcore]; exact wf)
    rw [core, moved, ← vcore]
    refine ⟨differs, others, ?_⟩
    rw [kept.out.fab, moved]
    exact Eq.trans (corrupt _ .fab (by decide)) (first .fab (by decide))
  · have still := fireEffect_waits (s := v) h4 h7 h9
    refine ⟨?_, kept.out.fab.trans (by rw [still]; exact first .fab (by decide)), slots still⟩
    have plain : ¬(a.d.kind == 7 || a.d.kind == 9) = true := by
      simp only [Bool.or_eq_true, beq_iff_eq]
      exact not_or.mpr ⟨h7, h9⟩
    exact (if_neg h4).trans (if_neg plain)

theorem fireInject_waits {w : Armed} (ha : injectAt s i = some a) (hw : a.time = some w) (hv : (evalArmed s w).1 = .wait) :
    fireInject s i = setInject s i { a with time := some (evalArmed s w).2 } := by
  rw [fireInject_armed ha hw]
  exact fireTimer_keeps rfl (Prod.ext hv rfl)

theorem fireInject_none (h : injectAt s i = none) : fireInject s i = s := by
  unfold fireInject
  rw [h]

/-- R405: a repetition that is not due. -/
theorem fireInject_notDue (ha : injectAt s i = some a) (ht : a.time = none)
    (h : a.fired = 0 ∨ a.d.count.toNat ≤ a.fired ∨ s.ticks < a.nextAt) : fireInject s i = s := by
  have rests : repeatInjection s i = s := by
    unfold repeatInjection
    rw [ha]
    refine if_neg ?_
    simp only [Bool.and_eq_true, decide_eq_true_eq]
    omega
  unfold fireInject
  rw [ha]
  dsimp only
  rw [if_pos (by simp [ht]), rests]

/-! ### The duration of an injection ends -/

theorem endInjection_none (h : injectAt s i = none) : endInjection s i = s := by
  unfold endInjection
  rw [h]

theorem endInjection_idle (ha : injectAt s i = some a) (h : a.active = 0 ∨ (a.d.kind ≠ 7 ∧ a.d.kind ≠ 9)) : endInjection s i = s := by
  unfold endInjection
  rw [ha]
  dsimp only
  rcases h with h | ⟨h7, h9⟩
  · rw [if_pos h]
  · rw [if_neg h7, if_neg h9, ite_self]

theorem endInjection_unmutes (ha : injectAt s i = some a) (hac : a.active ≠ 0) (h7 : a.d.kind = 7)
    (hst : (getPort (modPort (setInject s i { a with active := 0 }) a.d.target.toNat fun b => { b with muted := false })
      a.d.target.toNat).st ≠ .retired) : endInjection s i =
      portToTraining (modPort (setInject s i { a with active := 0 }) a.d.target.toNat fun b => { b with muted := false }) a.d.target.toNat := by
  unfold endInjection
  rw [ha]
  dsimp only
  rw [if_neg hac, if_pos h7, if_neg hst]

theorem endInjection_goesOn (ha : injectAt s i = some a) (hac : a.active ≠ 0) (h9 : a.d.kind = 9) : endInjection s i =
    wakeCore (modC (setInject s i { a with active := 0 }) a.d.target.toNat fun c => { c with stopped := false }) a.d.target.toNat := by
  have not7 : a.d.kind ≠ 7 := by rw [h9]; decide
  unfold endInjection
  rw [ha]
  dsimp only
  rw [if_neg hac, if_neg not7, if_pos h9]

theorem muteEnd_trains {n : Fin 16} (ha : injectAt s n.val = some a) (hac : a.active ≠ 0) (h7 : a.d.kind = 7)
    (hp : a.d.target.toNat < 36) (hst : (getPort s a.d.target.toNat).st ≠ .retired) (hb : (getPort s a.d.target.toNat).buf = []) :
    ∃ t, exec (.rimshotMuteEnd n) s = .next t ∧ (getPort t a.d.target.toNat).muted = false ∧
      (getPort t a.d.target.toNat).st = .training ∧ t.mem = s.mem ∧ t.slots = s.slots := by
  obtain ⟨u, hu⟩ : ∃ u, u = modPort (setInject s n.val { a with active := 0 }) a.d.target.toNat fun b => { b with muted := false } := ⟨_, rfl⟩
  have port : getPort u a.d.target.toNat = { getPort s a.d.target.toNat with muted := false } := by
    rw [hu, getPort_modPort_same _ hp]
    rfl
  have buf : (getPort u a.d.target.toNat).buf = [] := by rw [port]; exact hb
  obtain ⟨frame, -⟩ := portToTraining_moves buf
  have trained := portToTraining_port hp buf
  obtain ⟨t, run, kept⟩ : Leads (.rimshotMuteEnd n) s (portToTraining u a.d.target.toNat) := by
    refine leads_done (congrArg done ?_) (.refl _)
    rw [hu]
    exact endInjection_unmutes ha hac h7 (by rw [← hu, port]; exact hst)
  have now : getPort t a.d.target.toNat = inTraining u (getPort u a.d.target.toNat) :=
    (getPort_congr (congrArg (·.ports) kept.out.fab) _).trans trained
  refine ⟨t, run, by rw [now, port]; rfl, by rw [now]; rfl, kept.out.mem.trans (Eq.trans (frame .mem (by decide)) (by rw [hu]; rfl)),
    kept.out.slots.trans ?_⟩
  have slots : (portToTraining u a.d.target.toNat).slots = u.slots := frame .slots (by decide)
  rw [slots, hu]
  rfl

end

/-- Settles O40: RIMSHOT by its checks, the firing by what its time comes to and by the kind, and the end of a duration. -/
theorem injectionsFire : Obligations.InjectionsFire := by
  refine fun s => ⟨fun r d h => ⟨fun he ho hg hc => ⟨rimshot_arms h he ho hg hc, rimshot_noPlace h he ho hg hc⟩,
      fun he => refuses_err rfl h (ansRimshot_noDebug he), fun he ho => refuses_err rfl h (ansRimshot_bad he ho),
      fun he ho hg => refuses_err rfl h (ansRimshot_gone he ho hg),
      fun p he ho hg hp hc => refuses_err rfl h (ansRimshot_conf he ho hg hp hc)⟩,
    fun n a w ha hw => ⟨rimshotFire_fires ha hw, fun hv => leads_done (congrArg done (fireInject_waits ha hw hv)) (.refl _)⟩,
    fun n a ha ht rest h => exec_idle (congrArg done (fireInject_notDue ha ht h)) rest,
    fun n a ha hac => ⟨fun h7 hp hst hb => muteEnd_trains ha hac h7 hp hst hb, fun h9 blocked => ?_⟩,
    fun n rest h => ⟨exec_idle (congrArg done (fireInject_none h)) rest, exec_idle (congrArg done (endInjection_none h)) rest⟩,
    fun n a rest ha h => exec_idle (congrArg done (endInjection_idle ha h)) rest⟩
  refine leads_done (congrArg done ((endInjection_goesOn ha hac h9).trans (wakeCore_none fun i => ?_))) (.refl _)
  rw [getC_modC_same]
  exact blocked i

end Sys2Proof.Machine
end

section
-- One proof after the other: a text of this length has more proofs waiting at once than the check has threads for.
set_option Elab.async false
/-! PROOFS. Confidential mode, blanking, and what the identity key signs (R409, R410, R417, R433, R436 to R442). -/
namespace Sys2Proof.Machine

/-! ### SEC_CONF (R409, R410) -/

section
variable {s : State}

/-- One bit of a power of two. -/
theorem getLsbD_twoPow (p : Nat) {q : Nat} (hq : q < 4) : (BitVec.ofNat 4 (2 ^ p)).getLsbD q = decide (p = q) := by
  rw [BitVec.getLsbD_ofNat, Nat.testBit_two_pow]
  simp [hq]

theorem isConf_setConf (p : Nat) (on : Bool) {q : Nat} (hq : q < 4) :
    isConf (setConf s p on) q = if q = p then on else isConf s q := by
  cases on
  · show (s.hub.conf &&& ~~~(BitVec.ofNat 4 (2 ^ p))).getLsbD q = _
    rw [BitVec.getLsbD_and, BitVec.getLsbD_not, getLsbD_twoPow p hq]
    by_cases h : q = p
    · simp [h]
    · simp only [if_neg h, decide_eq_true hq, decide_eq_false (Ne.symm h), Bool.not_false, Bool.and_true]
      rfl
  · show (s.hub.conf ||| BitVec.ofNat 4 (2 ^ p)).getLsbD q = _
    rw [BitVec.getLsbD_or, getLsbD_twoPow p hq]
    by_cases h : q = p
    · simp [h]
    · simp only [if_neg h, decide_eq_false (Ne.symm h), Bool.or_false]
      rfl

/-- A partition as SEC_CONF enables it. -/
def confEnabled (s : State) (p : Nat) : State :=
  quarantineAll (setConf (modSecCore s fun k => { k with kb := k.kb.setIfInBounds p (some k.nextKey), nextKey := k.nextKey + 1 }) p true) p

/-- A partition as SEC_CONF disables it: its session and its stream with its keys are gone. -/
def confDisabled (s : State) (p : Nat) : State :=
  quarantineAll (setConf (modSecCore (modMail s fun m => { m with sessions := m.sessions.setIfInBounds p none }) fun k => { k with
    ide := k.ide &&& ~~~(BitVec.ofNat 4 (2 ^ p)), ideKeys := k.ideKeys.setIfInBounds p (Vector.replicate 2 []) }) p false) p

section
variable {part e : BitVec 8}

theorem ansSecConf_unsupported (h : s.opt.conf = false) : ansSecConf part e s = err s stUnsupported 0 := if_pos (by simp [h])

theorem ansSecConf_outOfRange (h : s.opt.conf = true) (bad : partCount s.hub.layout ≤ part.toNat ∨ 1 < e.toNat) :
    ansSecConf part e s = err s stBadArg 0 := (if_neg (by simp [h])).trans (if_pos bad)

theorem ansSecConf_open (h : s.opt.conf = true) (hp : part.toNat < partCount s.hub.layout) (he : e.toNat ≤ 1)
    (ho : openCtxs s part.toNat ≠ []) : ansSecConf part e s = conflict s 5 1 0x1 :=
  (if_neg (by simp [h])).trans ((if_neg (by omega)).trans (if_pos (by simpa using ho)))

theorem ansSecConf_on (h : s.opt.conf = true) (hp : part.toNat < partCount s.hub.layout) (ho : openCtxs s part.toNat = []) :
    ansSecConf part 1 s = if (dbgEn s || !attested s || lmsRemain s == 0) = true then err s stDenied 0
      else ok (confEnabled s part.toNat) [] := by
  unfold ansSecConf
  rw [if_neg (by simp [h]), if_neg (by simp [hp]), if_neg (by simp [ho]), if_pos rfl]
  rfl

theorem ansSecConf_off (h : s.opt.conf = true) (hp : part.toNat < partCount s.hub.layout) (ho : openCtxs s part.toNat = []) :
    ansSecConf part 0 s = ok (confDisabled s part.toNat) [] := by
  unfold ansSecConf
  rw [if_neg (by simp [h]), if_neg (by simp [hp]), if_neg (by simp [ho]), if_neg (by decide)]
  rfl

theorem isConf_settled {u t : State} (k : Settled u t) (q : Nat) : isConf t q = isConf u q := by rw [isConf, k.hub.conf, isConf]

theorem secConf_on {r : Req} (hr : Ready 0x0901 setCfg r s) (h : s.opt.conf = true) (hp : part.toNat < partCount s.hub.layout)
    (ho : openCtxs s part.toNat = []) (hd : dbgEn s = false) (hl : lmsRemain s ≠ 0) :
    ∃ t, exec (.secConf r part 1) s = .next t ∧ Answers s t r 0x0901 0x00 [] ∧
      isConf t part.toNat = true ∧ (∀ q, q < 4 → q ≠ part.toNat → isConf t q = isConf s q) ∧
      t.mem = { s.mem with quar := s.mem.quar.setIfInBounds part.toNat (List.range (partPages s)) } ∧
      t.sec.kb.getD part.toNat none = some s.sec.nextKey ∧ t.sec.nextKey = s.sec.nextKey + 1 ∧ t.ctxs = s.ctxs ∧ t.slots = s.slots := by
  have h4 : part.toNat < 4 := Nat.lt_of_lt_of_le hp (partCount_le _)
  obtain ⟨⟨-, -, rom, -⟩, -, -⟩ := id hr
  have ans := (ansSecConf_on h hp ho).trans (if_neg (by simp [hd, hl, attested, rom]))
  have runs : RunsAs (.secConf r part 1) r 0x0901 setCfg (ansSecConf part 1) s := rfl
  obtain ⟨t, run, kept, told⟩ := serves_ok runs hr ans rfl
  have conf : ∀ q, q < 4 → isConf t q = if q = part.toNat then true else isConf s q := fun q hq =>
    (isConf_settled kept q).trans (isConf_setConf (s := modSecCore s _) part.toNat true hq)
  refine ⟨t, run, told, by rw [conf _ h4, if_pos rfl], fun q hq hne => by rw [conf q hq, if_neg hne], kept.out.mem, ?_, ?_,
    kept.out.ctxs, kept.out.slots⟩
  · rw [kept.out.sec]
    exact vector_getD_set_same _ h4 _ _
  · rw [kept.out.sec]
    rfl

theorem secConf_off {r : Req} (hr : Ready 0x0901 setCfg r s) (h : s.opt.conf = true) (hp : part.toNat < partCount s.hub.layout)
    (ho : openCtxs s part.toNat = []) : ∃ t, exec (.secConf r part 0) s = .next t ∧ Answers s t r 0x0901 0x00 [] ∧
      isConf t part.toNat = false ∧ (∀ q, q < 4 → q ≠ part.toNat → isConf t q = isConf s q) ∧
      t.mem = { s.mem with quar := s.mem.quar.setIfInBounds part.toNat (List.range (partPages s)) } ∧
      t.mail.sessions.getD part.toNat none = none ∧ t.sec.ide.getLsbD part.toNat = false ∧
      t.sec.ideKeys.getD part.toNat (Vector.replicate 2 []) = Vector.replicate 2 [] ∧ t.ctxs = s.ctxs ∧ t.slots = s.slots := by
  have h4 : part.toNat < 4 := Nat.lt_of_lt_of_le hp (partCount_le _)
  have runs : RunsAs (.secConf r part 0) r 0x0901 setCfg (ansSecConf part 0) s := rfl
  obtain ⟨t, run, kept, told⟩ := serves_ok runs hr (ansSecConf_off h hp ho) rfl
  have conf : ∀ q, q < 4 → isConf t q = if q = part.toNat then false else isConf s q := fun q hq =>
    (isConf_settled kept q).trans (isConf_setConf (s := modSecCore _ _) part.toNat false hq)
  refine ⟨t, run, told, by rw [conf _ h4, if_pos rfl], fun q hq hne => by rw [conf q hq, if_neg hne], kept.out.mem, ?_, ?_, ?_,
    kept.out.ctxs, kept.out.slots⟩
  · rw [kept.mail.sessions]
    exact vector_getD_set_same _ h4 _ _
  · rw [kept.out.sec]
    show (s.sec.ide &&& ~~~(BitVec.ofNat 4 (2 ^ part.toNat))).getLsbD part.toNat = false
    rw [BitVec.getLsbD_and, BitVec.getLsbD_not, getLsbD_twoPow _ h4]
    simp
  · rw [kept.out.sec]
    exact vector_getD_set_same _ h4 _ _

end

/-! ### Blanking (R410, R417) -/

theorem frame_modMem_cells {f : Mem → Mem} (h : ∀ m, (f m).pmap = m.pmap) (s : State) : AllBut [.mem, .cells] s (modMem s f) := fun q hq => by
  cases q <;> first | exact absurd (by decide) hq | exact rfl | exact h _ | exact List.suffix_rfl | exact MailKept.refl _

/-- One slot of a page is blanked. -/
def blankPart (p pg : Nat) (s : State) (i : Nat) : State :=
  modCtrl (modMem (awaitCopy s (placeByte s p pg (4096 * i)).1 ((placeByte s p pg (4096 * i)).2 / 4096)) fun m =>
      blankSlot m (servePos (awaitCopy s (placeByte s p pg (4096 * i)).1 ((placeByte s p pg (4096 * i)).2 / 4096))
        (placeByte s p pg (4096 * i)).1 ((placeByte s p pg (4096 * i)).2 / 4096) true) (placeByte s p pg (4096 * i)).2
        (isConf (awaitCopy s (placeByte s p pg (4096 * i)).1 ((placeByte s p pg (4096 * i)).2 / 4096)) p))
    (servePos (awaitCopy s (placeByte s p pg (4096 * i)).1 ((placeByte s p pg (4096 * i)).2 / 4096))
        (placeByte s p pg (4096 * i)).1 ((placeByte s p pg (4096 * i)).2 / 4096) true) fun k =>
      touchLine (touchLine { k with wr := k.wr + 16 } (metaAddr ((placeByte s p pg (4096 * i)).2 / 256)) true)
        (unitAddr ((placeByte s p pg (4096 * i)).2 / 4096)) true

theorem blankLocal_eq (p pg : Nat) : blankLocal s p pg = (List.range 512).foldl (blankPart p pg) s := rfl

theorem frame_blankPart (p pg : Nat) (s : State) (i : Nat) : AllBut [.mem, .cells, .diag, .free] s (blankPart p pg s i) :=
by
  have blanked : ∀ (u : State) (f : Mem → Mem) (pos : Nat) (g : Ctrl → Ctrl), (∀ m, (f m).pmap = m.pmap) →
      AllBut [.mem, .cells, .diag, .free] u (modCtrl (modMem u f) pos g) := fun u f pos g h =>
    (frame_modMem_cells h u).mono.trans (frame_modCtrl _ pos g).mono
  exact (frame_awaitCopy s _ _).trans (blanked _ _ _ _ fun _ => rfl)

theorem frame_blankLocal (s : State) (p pg : Nat) : AllBut [.mem, .cells, .diag, .free] s (blankLocal s p pg) :=
  .foldl (frame_blankPart p pg) _ s

theorem placeByte_congr {t : State} (ho : t.opt = s.opt) (hh : t.hub = s.hub) (p pg off : Nat) :
    placeByte t p pg off = placeByte s p pg off := by
  simp only [placeByte, partChans, partFirst, chanCount, ho, hh]

theorem chanPos_congr {t : State} (ho : t.opt = s.opt) (hh : t.hub = s.hub) (n : Nat) : chanPos t n = chanPos s n := by
  simp only [chanPos, chanDie, groupDie, ho, hh]

/-- With no migration under way a slot is blanked where its channel stands. -/
theorem blankPart_still {p pg i ch byte : Nat} (hm : s.mem.migs = []) (h : placeByte s p pg (4096 * i) = (ch, byte)) :
    (blankPart p pg s i).mem.migs = [] ∧
      (blankPart p pg s i).mem.cells = memClear s.mem.cells (cellAddr (chanPos s ch) byte) (cellAddr (chanPos s ch) byte + 4096) := by
  have waits : ∀ c sl, awaitCopy s c sl = s := fun c sl => by rw [awaitCopy, hm]; rfl
  have serves : ∀ c sl, servePos s c sl true = chanPos s c := fun c sl => by rw [servePos, hm]; rfl
  unfold blankPart
  rw [h, waits]
  dsimp only
  rw [serves]
  exact ⟨hm, rfl⟩

theorem blankParts_zero {p pg : Nat} (x : Nat) (l : List Nat) : ∀ {s : State}, s.mem.migs = [] →
    (memGet s.mem.cells x = 0 ∨ ∃ i ∈ l, ∃ ch byte, placeByte s p pg (4096 * i) = (ch, byte) ∧
      cellAddr (chanPos s ch) byte ≤ x ∧ x < cellAddr (chanPos s ch) byte + 4096) →
    memGet (l.foldl (blankPart p pg) s).mem.cells x = 0 := by
  induction l with
  | nil => exact fun _ h => h.elim id fun ⟨_, h, _⟩ => nomatch h
  | cons k l ih =>
    intro s hm h
    obtain ⟨migs, cells⟩ := blankPart_still (p := p) (pg := pg) (i := k) hm (Prod.mk.eta (p := placeByte s p pg (4096 * k))).symm
    have frame := frame_blankPart p pg s k
    have place := placeByte_congr (t := blankPart p pg s k) (frame .opt (by decide)) (frame .hub (by decide)) p pg
    have chan := chanPos_congr (t := blankPart p pg s k) (frame .opt (by decide)) (frame .hub (by decide))
    refine ih migs ?_
    rw [cells, memGet_clear]
    rcases h with zero | ⟨i, hi, ch, byte, at_, lo, hi'⟩
    · exact .inl (by split; · rfl
                     · exact zero)
    · rcases List.mem_cons.mp hi with rfl | hi
      · rw [at_]
        exact .inl (if_pos ⟨lo, hi'⟩)
      · exact .inr ⟨i, hi, ch, byte, by rw [place, at_], by rw [chan]; exact lo, by rw [chan]; exact hi'⟩

theorem frame_setSlice (s : State) (d cls : Nat) (t : Int) : AllBut [.mem] s (setSlice s d cls t) := frame_setBucket s _ _ _

theorem frame_chargeBackground (s : State) (p n : Nat) : AllBut [.mem] s (chargeBackground s p n) :=
  .foldl (fun s d => .ite (fun _ => frame_setSlice s d 3 _) fun _ => .refl _ s) _ s

/-- A partition whose lowest page has been blanked, the work charged, and the page out of quarantine. -/
def pageBlanked (s : State) (p pg : Nat) (rest : List Nat) : State :=
  modMem (chargeBackground (blankLocal s p pg) p 8192) fun m => { m with quar := m.quar.setIfInBounds p rest }

theorem pageBlanked_moves (s : State) (p pg : Nat) (rest : List Nat) : AllBut [.mem, .cells, .diag, .free] s (pageBlanked s p pg rest) ∧
    (pageBlanked s p pg rest).mem.cells = (blankLocal s p pg).mem.cells ∧
    (p < 4 → (pageBlanked s p pg rest).mem.quar.getD p [] = rest) := by
  have local_ := frame_blankLocal s p pg
  unfold pageBlanked
  generalize blankLocal s p pg = v at local_ ⊢
  generalize 8192 = n
  have charged := frame_chargeBackground v p n
  generalize chargeBackground v p n = u at charged ⊢
  refine ⟨(local_.trans charged.mono).trans (frame_modMem_cells (f := fun m => { m with quar := m.quar.setIfInBounds p rest })
    (fun _ => rfl) _).mono, ?_, fun h => vector_getD_set_same _ h _ _⟩
  exact (charged .cells (by decide) : u.mem.cells = v.mem.cells)

theorem blankNext_eq {p pg : Nat} {rest : List Nat} (h : s.mem.quar.getD p [] = pg :: rest) : blankNext p s =
    if (rest.isEmpty && !isConf s p) = true then modSecCore (pageBlanked s p pg rest) fun k => { k with kb := k.kb.setIfInBounds p none }
    else pageBlanked s p pg rest := by
  have conf : isConf (pageBlanked s p pg rest) p = isConf s p := by
    rw [isConf, ((pageBlanked_moves s p pg rest).1 .hub (by decide) : (_ : Hub) = _), isConf]
  rw [← conf]
  unfold blankNext
  rw [h]
  rfl

theorem memRead_zero {m : Memory} {a n : Nat} (h : ∀ k, k < n → memGet m (a + k) = 0) : memRead m a n = List.replicate n 0 := by
  rw [memRead, List.eq_replicate_iff]
  refine ⟨by rw [List.length_map, List.length_range], fun b hb => ?_⟩
  obtain ⟨k, hk, rfl⟩ := List.mem_map.mp hb
  exact h k (List.mem_range.mp hk)

theorem blankPage_blanks {p : Sys2Proof.Part} {pg : Nat} {rest : List Nat} (hu : belfryUp s = true) (h : s.mem.quar.getD p.val [] = pg :: rest) :
    ∃ t, exec (.blankPage p) s = .next t ∧ t.mem.quar.getD p.val [] = rest ∧ t.ctxs = s.ctxs ∧ t.slots = s.slots ∧
      t.mem.pmap = s.mem.pmap ∧
      (s.mem.migs = [] → ∀ i ch byte, i < 512 → placeByte s p.val pg (4096 * i) = (ch, byte) →
        memRead t.mem.cells (cellAddr (chanPos s ch) byte) 4096 = List.replicate 4096 0) ∧
      (rest = [] → isConf s p.val = false → t.sec.kb.getD p.val none = none) := by
  obtain ⟨frame, cells, quar⟩ := pageBlanked_moves s p.val pg rest
  have next := blankNext_eq h
  generalize pageBlanked s p.val pg rest = v at frame cells quar next
  obtain ⟨t, run, kept⟩ : Leads (.blankPage p) s (blankNext p.val s) := leads_done (congrArg done (if_pos hu)) (.refl _)
  have after : AllBut [.sec, .secKept] v (blankNext p.val s) := by
    rw [next]
    exact .ite (fun _ => frame_modSecCore v _) fun _ => .refl _ v
  have mem : t.mem = v.mem := kept.out.mem.trans (after .mem (by decide))
  refine ⟨t, run, ?_, kept.out.ctxs.trans (Eq.trans (after .ctxs (by decide)) (frame .ctxs (by decide))),
    kept.out.slots.trans (Eq.trans (after .slots (by decide)) (frame .slots (by decide))), ?_, fun hm i ch byte hi at_ => ?_, fun hr hc => ?_⟩
  · rw [mem]
    exact quar p.isLt
  · rw [mem]
    exact frame .pmap (by decide)
  · rw [mem, cells, blankLocal_eq]
    exact memRead_zero fun k hk => blankParts_zero _ _ hm
      (.inr ⟨i, List.mem_range.mpr hi, ch, byte, at_, Nat.le_add_right _ _, Nat.add_lt_add_left hk _⟩)
  · rw [kept.out.sec, next, if_pos (by simp [hr, hc])]
    exact vector_getD_set_same _ p.isLt _ _

theorem exec_blankPage_idle {p : Sys2Proof.Part} (h : s.mem.quar.getD p.val [] = [] ∨ belfryUp s = false) : exec (.blankPage p) s = done s := by
  refine congrArg done ?_
  rcases h with h | h
  · have stays : blankNext p.val s = s := by
      unfold blankNext
      rw [h]
    rw [stays, ite_self]
  · exact if_neg (by simp [h])

end

/-! ### The identity key signs (R436 to R439) -/

section
variable {s : State}

theorem signOnce_some (h : lmsRemain s ≠ 0) (msg : Nat → Bytes) :
    ∃ u, signOnce s msg = some (u, fit 5396 (Config.hssSign (msg s.sec.lmsNext) s.sec.lmsNext)) ∧ AllBut [.sec, .secKept, .mail, .outbox] s u ∧
      u.sec.lmsNext = s.sec.lmsNext + 1 ∧ u.sec.tokens = s.sec.tokens - 1 ∧ u.mail.responses = s.mail.responses := by
  unfold signOnce
  rw [if_neg h]
  extract_lets q s1 s2
  have first : AllBut [.sec, .secKept, .mail, .outbox] s s1 := (frame_modSecCore s _).mono
  refine ⟨s2, rfl, ?_, ?_, ?_, ?_⟩
  · exact .ite (fun _ => first.trans ((frame_modSecCore s1 _).mono.trans (frame_postNotice _ _ _ _).mono)) fun _ => first
  all_goals
    unfold s2
    split
  · rw [(frame_postNotice _ _ _ _ .sec (by decide) : (_ : Sec) = _)]
    rfl
  · rfl
  · rw [(frame_postNotice _ _ _ _ .sec (by decide) : (_ : Sec) = _)]
    rfl
  · rfl
  · exact postNotice_responses _ _ _
  · rfl

theorem signOnce_none (h : lmsRemain s = 0) (msg : Nat → Bytes) : signOnce s msg = none := if_pos h

/-! ### SEC_ATTEST (R442) -/

section
variable {nonce : Bytes} {off : BitVec 32} {r : Req}

theorem runsAs_secAttest (hn : nonce.length = 32) (obj : BitVec 8) :
    RunsAs (.secAttest r nonce obj off) r 0x0905 setAny (ansSecAttest nonce obj off) s := if_pos (beq_iff_eq.mpr hn)

/-- The report of a nonce for which none is stored is signed afresh. -/
theorem ansSecAttest_fresh (h : ∀ w, s.sec.stored = some w → w.nonce ≠ nonce) : ansSecAttest nonce 0 off s =
    if off ≠ 0 then err s stBadArg 0 else if lmsRemain s = 0 then err s stNoResource 0 else if s.sec.tokens = 0 then err s stBusy 0
    else match signOnce s fun _ => report s nonce s.sec.lmsNext with
      | none => err s stNoResource 0
      | some (u, sig) => attestBytes (modSecCore u fun k => { k with
          stored := some { nonce := nonce, report := report s nonce s.sec.lmsNext, sig := sig } })
          (report s nonce s.sec.lmsNext ++ identityKey) 0 := by
  unfold ansSecAttest
  extract_lets stored
  have fresh : stored = none := by
    unfold stored
    split
    · exact if_neg (h _ ‹_›)
    · rfl
  clear_value stored
  subst fresh
  rfl

theorem ansSecAttest_noSig (h : ∀ w, s.sec.stored = some w → w.nonce ≠ nonce) : ansSecAttest nonce 1 off s = err s stBadArg 0 := by
  unfold ansSecAttest
  extract_lets stored
  have fresh : stored = none := by
    unfold stored
    split
    · exact if_neg (h _ ‹_›)
    · rfl
  clear_value stored
  subst fresh
  rfl

/-- What stands stored for a nonce, and the certificate, is answered as it is. -/
theorem ansSecAttest_object {obj : BitVec 8} {b : Bytes} (h : (∃ w, s.sec.stored = some w ∧ w.nonce = nonce ∧
      (obj = 0 ∧ b = w.report ++ identityKey ∨ obj = 1 ∧ b = w.sig)) ∨ obj = 2 ∧ b = Config.identityCert) :
    ansSecAttest nonce obj off s = attestBytes s b off.toNat := by
  rcases h with ⟨w, hw, hn, h⟩ | ⟨rfl, rfl⟩
  · unfold ansSecAttest
    extract_lets stored
    have held : stored = some w := by
      unfold stored
      rw [hw]
      exact if_pos hn
    clear_value stored
    subst held
    rcases h with ⟨rfl, rfl⟩ | ⟨rfl, rfl⟩
    · rfl
    · rfl
  · rfl

theorem ansSecAttest_noObject {obj : BitVec 8} (h : 3 ≤ obj.toNat) : ansSecAttest nonce obj off s = err s stBadArg 0 := by
  unfold ansSecAttest
  dsimp only
  split
  · omega
  · omega
  · omega
  · rfl

theorem secAttest_signs (hr : Ready 0x0905 setAny r s) (hn : nonce.length = 32) (h : ∀ w, s.sec.stored = some w → w.nonce ≠ nonce)
    (hl : lmsRemain s ≠ 0) (ht : s.sec.tokens ≠ 0) : ∃ t w, exec (.secAttest r nonce 0 0) s = .next t ∧
      w.nonce = nonce ∧ w.report = report s nonce s.sec.lmsNext ∧ w.sig = fit 5396 (Config.hssSign w.report s.sec.lmsNext) ∧
      t.sec.stored = some w ∧ t.sec.lmsNext = s.sec.lmsNext + 1 ∧ t.sec.tokens = s.sec.tokens - 1 ∧
      Answers s t r 0x0905 0x00 (leBytes 4 (w.report ++ identityKey).length ++ (w.report ++ identityKey).take 4032) ∧
      t.mem = s.mem ∧ t.ctxs = s.ctxs ∧ t.slots = s.slots := by
  obtain ⟨u, signed, frame, next, tokens, told⟩ := signOnce_some hl fun _ => report s nonce s.sec.lmsNext
  have ans := ansSecAttest_fresh (off := 0) h
  rw [if_neg (by decide), if_neg hl, if_neg ht, signed] at ans
  generalize report s nonce s.sec.lmsNext = rep at ans ⊢
  obtain ⟨w, hw⟩ : ∃ w : Stored, w = { nonce := nonce, report := rep, sig := fit 5396 (Config.hssSign rep s.sec.lmsNext) } := ⟨_, rfl⟩
  have some_ : ¬(rep ++ identityKey).length ≤ 0 := by simp [identityKey, fit, slice]
  replace ans := ans.trans (if_neg some_)
  rw [List.drop_zero, ← hw] at ans
  obtain ⟨t, run, kept, answered⟩ := serves_ok (runsAs_secAttest hn 0) hr ans told
  have rep_ : w.report = rep := by rw [hw]
  refine ⟨t, w, run, by rw [hw], rep_, by rw [hw], by rw [kept.out.sec]; rfl, by rw [kept.out.sec]; exact next,
    by rw [kept.out.sec]; exact tokens, by rw [rep_]; exact answered, kept.out.mem.trans (frame .mem (by decide)),
    kept.out.ctxs.trans (frame .ctxs (by decide)), kept.out.slots.trans (frame .slots (by decide))⟩

end

/-! ### SEC_DEBUG_TOKEN and the link credential (R432, R433) -/

section
variable {ident : Bytes} {boots : BitVec 32} {good : Bool}

theorem ansSecDebugToken_denied (h : good = false ∨ ident ≠ identity ∨ boots ≠ s.sec.boots ∨ anyConf s = true) :
    ansSecDebugToken ident boots good s = err s stDenied 0 := by
  refine if_pos ?_
  simp only [Bool.or_eq_true, bne_iff_ne, Bool.not_eq_true']
  tauto

theorem ansSecDebugToken_opens (hi : ident = identity) (hb : boots = s.sec.boots) (hc : anyConf s = false) :
    ansSecDebugToken ident boots true s = ok { s with hub := { s.hub with token := true } } [1] := by
  refine (if_neg ?_).trans ?_
  · simp [hi, hb, hc]
  · have enabled : dbgEn (modHub s fun h => { h with token := true }) = true := Bool.or_true _
    show ok _ [BitVec.ofNat 8 (dbgEn (modHub s fun h => { h with token := true })).toNat] = _
    rw [enabled]
    rfl

end

theorem credential_signs (hc : s.sec.cred = false) (hf : s.sec.faulted = false) (hd : s.hub.dev ≠ .cold) (ht : s.sec.tokens ≠ 0)
    (hl : lmsRemain s ≠ 0) : ∃ t, exec .linkCredentialSign s = .next t ∧ t.sec.cred = true ∧ t.sec.lmsNext = s.sec.lmsNext + 1 ∧
      t.sec.tokens = s.sec.tokens - 1 ∧ t.mem = s.mem ∧ t.ctxs = s.ctxs ∧ t.slots = s.slots ∧ t.fab = s.fab := by
  obtain ⟨u, signed, frame, next, tokens, -⟩ := signOnce_some hl fun _ => credential s
  have run : exec .linkCredentialSign s = done (modSecCore u fun k => { k with cred := true }) := by
    show execLinkCredentialSign s = _
    rw [execLinkCredentialSign, if_neg (by simp [hc, hf, hd, ht]), signed]
  obtain ⟨t, run, kept⟩ : Leads .linkCredentialSign s _ := leads_done run (.refl _)
  exact ⟨t, run, by rw [kept.out.sec]; rfl, by rw [kept.out.sec]; exact next, by rw [kept.out.sec]; exact tokens,
    kept.out.mem.trans (frame .mem (by decide)), kept.out.ctxs.trans (frame .ctxs (by decide)),
    kept.out.slots.trans (frame .slots (by decide)), kept.out.fab.trans (frame .fab (by decide))⟩

theorem credential_rests (h : s.sec.cred = true ∨ s.sec.faulted = true ∨ s.hub.dev = .cold ∨ s.sec.tokens = 0 ∨ lmsRemain s = 0) :
    exec .linkCredentialSign s = done s := by
  show execLinkCredentialSign s = _
  unfold execLinkCredentialSign
  refine congrArg done ?_
  split
  · rfl
  · rename_i waits
    simp only [Bool.or_eq_true, beq_iff_eq, not_or] at waits
    obtain ⟨⟨⟨hc, hf⟩, hd⟩, ht⟩ := waits
    have none_left : lmsRemain s = 0 := by tauto
    rw [signOnce_none none_left]

end

/-- Settles O41: SEC_CONF and the blanking of a quarantine, and what the identity key signs. -/
theorem partitionsTurnConfidentialAndSign : Obligations.PartitionsTurnConfidentialAndSign := by
  refine ⟨fun r part s hr => ⟨fun h e => refuses_err rfl hr (ansSecConf_unsupported h),
      fun h e bad => refuses_err rfl hr (ansSecConf_outOfRange h bad),
      fun hp h ho e he => conflicts_of rfl hr (ansSecConf_open h hp he ho),
      fun hp h ho => ⟨fun bad => refuses_err rfl hr ((ansSecConf_on h hp ho).trans (if_pos ?_)), secConf_on hr h hp ho, secConf_off hr h hp ho⟩⟩,
    fun p s => ⟨fun pg rest hu h => blankPage_blanks hu h, fun rest h => exec_idle (exec_blankPage_idle h) rest⟩,
    fun r s => ⟨fun nonce off hr hn => ⟨fun h => ⟨secAttest_signs hr hn h, fun hl ht => ?_, fun hl => ?_, fun ho => ?_,
        refuses_err (runsAs_secAttest hn 1) hr (ansSecAttest_noSig h)⟩,
        fun obj b h => ⟨fun hb => serves_ok (runsAs_secAttest hn obj) hr ((ansSecAttest_object h).trans (if_neg (by omega))) rfl,
          fun hb => refuses_err (runsAs_secAttest hn obj) hr ((ansSecAttest_object h).trans (if_pos hb))⟩,
        fun obj h => refuses_err (runsAs_secAttest hn obj) hr (ansSecAttest_noObject h)⟩,
      fun boots scope ident hr => ⟨fun hi hb hc => serves_ok rfl hr (ansSecDebugToken_opens hi hb hc) rfl,
        fun good h => refuses_err rfl hr (ansSecDebugToken_denied h)⟩,
      leads_done rfl (.refl _), fun h => leads_done (congrArg done (if_pos h)) (.refl _),
      fun rest h => exec_idle (congrArg done (if_neg (by omega))) rest, credential_signs, fun rest h => exec_idle (credential_rests h) rest⟩⟩
  · rcases bad with h | h <;> simp [h]
  · exact refuses_err (runsAs_secAttest hn 0) hr ((ansSecAttest_fresh h).trans ((if_neg (by decide)).trans ((if_neg hl).trans (if_pos ht))))
  · exact refuses_err (runsAs_secAttest hn 0) hr ((ansSecAttest_fresh h).trans ((if_neg (by decide)).trans (if_pos hl)))
  · exact refuses_err (runsAs_secAttest hn 0) hr ((ansSecAttest_fresh h).trans (if_pos ho))

end Sys2Proof.Machine
end

section
-- One proof after the other: a text of this length has more proofs waiting at once than the check has threads for.
set_option Elab.async false
/-! PROOFS. Live update: staging, verification, activation, and the PHY rollout (R371 to R377, R440, R441). -/
namespace Sys2Proof.Machine

/-! ### What the end of a step leaves of the images and of an activation -/

section
variable {s : State}

theorem respond_images (s : State) (q : Req) (cmd : BitVec 16) (st cf : BitVec 8) (d : BitVec 16) (l : BitVec 32) (b : Bytes) :
    (respond s q cmd st cf d l b).mail.images = s.mail.images := by
  unfold respond
  dsimp only
  split
  · rfl
  · rfl
  · split <;> rfl

theorem respondSealed_images (s : State) (q : Req) (sid : BitVec 32) (n : BitVec 64) (i : Response) :
    (respondSealed s q sid n i).mail.images = s.mail.images := by
  unfold respondSealed
  split <;> exact respond_images _ _ _ _ _ _ _ _

theorem setWaiterQueue_images (s : State) (w : Waiter) (q : NoticeQ) : (setWaiterQueue s w q).mail.images = s.mail.images := by
  unfold setWaiterQueue modMail
  dsimp only
  split
  · rfl
  · split <;> rfl

theorem postNotice_images (s : State) (code : BitVec 16) (ctx : Option Nat) (b : Bytes) :
    (postNotice s code ctx b).mail.images = s.mail.images := by
  unfold postNotice
  dsimp only
  split <;> rfl

theorem foldl_images {α : Type} {f : State → α → State} (h : ∀ s a, (f s a).mail.images = s.mail.images) (l : List α) (s : State) :
    (l.foldl f s).mail.images = s.mail.images := by
  induction l generalizing s with
  | nil => rfl
  | cons a l ih => exact (ih _).trans (h s a)

theorem serveWaiters_images (s : State) : (serveWaiters s).mail.images = s.mail.images := by
  unfold serveWaiters
  split
  · rfl
  · refine foldl_images (fun s w => ?_) _ s
    dsimp only
    split
    · have taken : ∀ q, (setWaiterQueue (modMail s fun m => { m with waiters := m.waiters.erase w }) w q).mail.images = s.mail.images :=
        fun q => setWaiterQueue_images _ w q
      split
      · exact (respondSealed_images _ _ _ _ _).trans (taken _)
      · exact (respond_images _ _ _ _ _ _ _ _).trans (taken _)
    · rfl

theorem refreshDev_images (s : State) : (refreshDev s).mail.images = s.mail.images := by
  unfold refreshDev
  dsimp only
  split
  · rfl
  · exact postNotice_images _ _ _ _

theorem handed_images (s : State) (r : Req) : (handed s r).mail.images = s.mail.images := by
  unfold handed
  split <;> rfl

theorem getImage_congr {u : State} (h : u.mail.images = s.mail.images) (k : Nat) : getImage u k = getImage s k := by
  rw [getImage, h, getImage]

theorem getImage_modImage_same (s : State) {k : Nat} (h : k < 4) (f : Image → Image) : getImage (modImage s k f) k = f (getImage s k) :=
  vector_getD_set_same _ h _ _
theorem getImage_modImage_other (s : State) {k j : Nat} (h : j ≠ k) (f : Image → Image) : getImage (modImage s k f) j = getImage s j :=
  vector_getD_set_other _ h _ _

/-- A rollout of microcode that is left pending moves its own image only. -/
theorem getImage_takePending (cores : Nat → Bool) {k : Nat} (h : k ≠ 2 ∨ (getImage s 2).phase ≠ 0x21) :
    getImage (takePending s cores) k = getImage s k := by
  unfold takePending
  dsimp only
  split
  · rfl
  · rename_i pending
    exact getImage_modImage_other _ (h.resolve_right (fun h => pending h)) _

theorem getImage_finishDrain {k : Nat} (h : k ≠ 2 ∨ (getImage s 2).phase ≠ 0x21) : getImage (finishDrain s) k = getImage s k := by
  unfold finishDrain
  split
  · split
    · exact (getImage_congr (respond_images _ _ _ _ _ _ _ _) k).trans
        (getImage_takePending (s := modHub s fun h => { h with draining := false, drainReq := none }) _ h)
    · rfl
  · rfl

/-- The images at the end of a step that serves no activation. -/
theorem getImage_settle {k : Nat} (ha : serveActivate s = s) (h : k ≠ 2 ∨ (getImage s 2).phase ≠ 0x21) :
    getImage (settle s) k = getImage s k := by
  rw [settle, ha, getImage_congr ((serveWaiters_images _).trans (refreshDev_images _)), getImage_finishDrain h]

theorem finishDrain_activation (s : State) : (finishDrain s).hub.actReq = s.hub.actReq ∧ (finishDrain s).hub.updating = s.hub.updating := by
  unfold finishDrain
  split
  · split
    · rw [respond_hub]
      unfold takePending
      dsimp only
      split <;> exact ⟨rfl, rfl⟩
    · exact ⟨rfl, rfl⟩
  · exact ⟨rfl, rfl⟩

theorem refreshDev_hub (s : State) : (refreshDev s).hub = { s.hub with dev := devNow s } := by
  unfold refreshDev
  dsimp only
  split
  · rename_i shown
    rw [shown]
  · exact postNotice_hub _ _ _ _

theorem settle_activation (ha : serveActivate s = s) :
    (settle s).hub.actReq = s.hub.actReq ∧ (settle s).hub.updating = s.hub.updating := by
  rw [settle, ha, serveWaiters_hub, refreshDev_hub]
  exact finishDrain_activation s

/-- Only an activation of the Belfry's image is served at the end of a step. -/
theorem serveActivate_other (h : ∀ r till, s.hub.actReq ≠ some (r, 1, till)) : serveActivate s = s := by
  unfold serveActivate
  split
  · exact absurd ‹_› (h _ _)
  · rfl

end

/-! ### Staging, verifying and asking (R358, R371, R440) -/

section
variable {s : State} {r : Req} {ty : BitVec 8} {off : BitVec 32} {d : Bytes} {good : Bool}

/-- A staging copy that a write lays its bytes over. -/
def stagedBy (off : BitVec 32) (d : Bytes) (i : Image) : Image :=
  { i with staged := stageOver (if off = 0 ∧ i.phase ≠ 1 then [] else i.staged) off.toNat d, verified := false, stagedVer := 0,
           stagedFloor := 0, stagedDigest := [], phase := 1 }

theorem runsAs_updateWrite (hd : d.length ≤ 4056) :
    RunsAs (.updateWrite r ty off d) r 0x0510 setAny (ansUpdateWrite ty off d) s :=
  if_pos (decide_eq_true (show 8 + d.length ≤ 4064 by omega))

theorem ansUpdateWrite_outOfRange (h : 4 ≤ ty.toNat ∨ d = [] ∨ 4000 < d.length ∨ imageLen ty.toNat < off.toNat + d.length) :
    ansUpdateWrite ty off d s = err s stBadArg 0 := by
  refine if_pos ?_
  rcases h with h | rfl | h | h
  · exact .inl h
  · exact .inr (.inl rfl)
  · exact .inr (.inl (by simp [within]; omega))
  · exact .inr (.inr h)

theorem ansUpdateWrite_inRange (ht : ty.toNat < 4) (hd : d ≠ []) (hl : d.length ≤ 4000) (ho : off.toNat + d.length ≤ imageLen ty.toNat) :
    ansUpdateWrite ty off d s =
      if activating s ty.toNat = true then err s stBusy 0 else ok (modImage s ty.toNat (stagedBy off d)) [] := by
  have some_ := List.length_pos_iff.mpr hd
  refine if_neg ?_
  simp only [not_or, Bool.not_eq_true', Bool.not_eq_false, within_iff]
  exact ⟨by omega, ⟨by omega, hl⟩, by omega⟩

/-- The bytes laid over, and those before them. -/
theorem stageOver_getD (b : Bytes) (off : Nat) (d : Bytes) :
    (∀ k, k < d.length → (stageOver b off d).getD (off + k) 0 = d.getD k 0) ∧
      ∀ k, k < off → k < b.length → (stageOver b off d).getD k 0 = b.getD k 0 := by
  have head : ((b ++ List.replicate (off - b.length) 0xFF).take off).length = off := by
    rw [List.length_take, List.length_append, List.length_replicate]
    omega
  unfold stageOver
  dsimp only
  refine ⟨fun k hk => ?_, fun k hk hb => ?_⟩
  · rw [List.append_assoc, List.getD_append_right _ _ _ _ (by omega), head, Nat.add_sub_cancel_left, List.getD_append _ _ _ _ hk]
  · rw [List.append_assoc, List.getD_append _ _ _ _ (by omega), List.getD_eq_getElem?_getD, List.getElem?_take_of_lt hk,
      List.getElem?_append_left hb, ← List.getD_eq_getElem?_getD]

theorem updateWrite_stages (hr : Ready 0x0510 setAny r s) (ha : s.hub.actReq = none) (h4056 : d.length ≤ 4056) (ht : ty.toNat < 4) (hd : d ≠ [])
    (hl : d.length ≤ 4000) (ho : off.toNat + d.length ≤ imageLen ty.toNat) (hact : activating s ty.toNat = false) :
    ∃ t, exec (.updateWrite r ty off d) s = .next t ∧ Answers s t r 0x0510 0x00 [] ∧
      Settled { s with mail := { s.mail with images := t.mail.images } } t ∧
      getImage t ty.toNat = stagedBy off d (getImage s ty.toNat) ∧ ∀ k, k ≠ ty.toNat → k ≠ 2 → getImage t k = getImage s k := by
  have ans := (ansUpdateWrite_inRange (s := s) ht hd hl ho).trans (if_neg (by simp [hact]))
  have exec_ := exec_ready (runsAs_updateWrite h4056) hr (answer_taken (by decide) ans)
  rw [reply_ok] at exec_
  obtain ⟨v, hv⟩ : ∃ v, v = respond (modImage s ty.toNat (stagedBy off d)) r 0x0510 stOk 0 0 setAny [] := ⟨_, rfl⟩
  rw [← hv] at exec_
  obtain ⟨t, run, kept, told⟩ := serves_ok (runsAs_updateWrite h4056) hr ans rfl
  have t_eq : t = settle v := Host.Outcome.next.inj (run.symm.trans exec_)
  have idle : serveActivate v = v := serveActivate_none (by rw [hv, respond_hub]; exact ha)
  have images : ∀ k, getImage v k = getImage (modImage s ty.toNat (stagedBy off d)) k := fun k =>
    getImage_congr (by rw [hv, respond_images]) k
  have own : getImage v ty.toNat = stagedBy off d (getImage s ty.toNat) := (images _).trans (getImage_modImage_same s ht _)
  refine ⟨t, run, told, ?_, ?_, fun k hk h2 => ?_⟩
  · exact (settled_mail { s with mail := { s.mail with images := t.mail.images } }
      (fun m => { m with images := (modImage s ty.toNat (stagedBy off d)).mail.images }) (by constructor <;> first | exact List.suffix_rfl | rfl)).trans kept
  · rw [t_eq, getImage_settle idle ?_, own]
    by_cases h2 : ty.toNat = 2
    · rw [← h2, own]
      exact .inr (by show (1 : BitVec 8) ≠ 0x21; decide)
    · exact .inl h2
  · rw [t_eq, getImage_settle idle (.inl h2), images]
    exact getImage_modImage_other s hk _

theorem updateWrite_facts (hr : Ready 0x0510 setAny r s) (ha : s.hub.actReq = none) (h4056 : d.length ≤ 4056) (ht : ty.toNat < 4) (hd : d ≠ [])
    (hl : d.length ≤ 4000) (ho : off.toNat + d.length ≤ imageLen ty.toNat) (hact : activating s ty.toNat = false) :
    ∃ t, exec (.updateWrite r ty off d) s = .next t ∧ Answers s t r 0x0510 0x00 [] ∧
      Settled { s with mail := { s.mail with images := t.mail.images } } t ∧ (getImage t ty.toNat).verified = false ∧
      (getImage t ty.toNat).phase = 1 ∧ (getImage t ty.toNat).version = (getImage s ty.toNat).version ∧
      (getImage t ty.toNat).copyB = (getImage s ty.toNat).copyB ∧
      (∀ k, k < d.length → (getImage t ty.toNat).staged.getD (off.toNat + k) 0 = d.getD k 0) ∧
      (off ≠ 0 → ∀ k, k < off.toNat → k < (getImage s ty.toNat).staged.length →
        (getImage t ty.toNat).staged.getD k 0 = (getImage s ty.toNat).staged.getD k 0) ∧
      ∀ k, k ≠ ty.toNat → k ≠ 2 → getImage t k = getImage s k := by
  obtain ⟨t, run, told, kept, own, others⟩ := updateWrite_stages hr ha h4056 ht hd hl ho hact
  refine ⟨t, run, told, kept, by rw [own]; rfl, by rw [own]; rfl, by rw [own]; rfl, by rw [own]; rfl, fun k hk => ?_, fun h0 k hk hb => ?_, others⟩
  · rw [own]
    exact (stageOver_getD _ off.toNat d).1 k hk
  · have laid : (stagedBy off d (getImage s ty.toNat)).staged = stageOver (getImage s ty.toNat).staged off.toNat d := by
      rw [stagedBy, if_neg fun h : off = 0 ∧ _ => h0 h.1]
    rw [own, laid]
    exact (stageOver_getD _ off.toNat d).2 k hk hb

/-- A staged image that has been verified. -/
def verifiedImage (i : Image) : Image := { i with
  verified := true, stagedVer := BitVec.ofNat 32 (leNat (slice i.staged 8 4)), stagedFloor := BitVec.ofNat 32 (leNat (slice i.staged 12 4))
  stagedDigest := sha256 (slice i.staged 0 256), revoke := i.staged.getD 0x15 0, phase := 2 }

theorem modImage_congr {f g : Image → Image} {k : Nat} (h : f (getImage s k) = g (getImage s k)) : modImage s k f = modImage s k g :=
  congrArg (fun x => modMail s fun m => { m with images := m.images.setIfInBounds k x }) h

theorem ansUpdateVerify_noType (h : 4 ≤ ty.toNat) : ansUpdateVerify ty good s = err s stBadArg 0 := if_pos h

theorem ansUpdateVerify_busy (ht : ty.toNat < 4) (h : activating s ty.toNat = true) : ansUpdateVerify ty good s = err s stBusy 0 :=
  (if_neg (by omega)).trans (if_pos h)

theorem ansUpdateVerify_fails (ht : ty.toNat < 4) (h : activating s ty.toNat = false)
    (bad : imageOk s ty.toNat (getImage s ty.toNat).staged good = false) : ansUpdateVerify ty good s = err s stDenied 0 :=
  (if_neg (by omega)).trans ((if_neg (by simp [h])).trans (if_pos (by simp [bad])))

theorem ansUpdateVerify_passes (ht : ty.toNat < 4) (h : activating s ty.toNat = false)
    (sound : imageOk s ty.toNat (getImage s ty.toNat).staged good = true) :
    ansUpdateVerify ty good s = ok (modImage s ty.toNat verifiedImage) (slice (getImage s ty.toNat).staged 8 4) := by
  refine (if_neg (by omega)).trans ((if_neg (by simp [h])).trans ((if_neg (by simp [sound])).trans ?_))
  exact congrArg (ok · _) (modImage_congr rfl)

theorem leNat_lt (b : Bytes) : leNat b < 256 ^ b.length := by
  induction b with
  | nil => decide
  | cons x b ih =>
    have := x.isLt
    rw [leNat, List.length_cons, pow_succ]
    omega

theorem slice_length (b : Bytes) (off n : Nat) : (slice b off n).length = n := by
  unfold slice
  dsimp only
  rw [List.length_append, List.length_replicate, List.length_take]
  omega

theorem updateVerify_marks (hr : Ready 0x0511 setAny r s) (ha : s.hub.actReq = none) (ht : ty.toNat < 4) (h : activating s ty.toNat = false)
    (sound : imageOk s ty.toNat (getImage s ty.toNat).staged good = true) : ∃ t, exec (.updateVerify r ty good) s = .next t ∧
      Answers s t r 0x0511 0x00 (slice (getImage s ty.toNat).staged 8 4) ∧ (getImage t ty.toNat).verified = true ∧
      (getImage t ty.toNat).phase = 2 ∧ (getImage t ty.toNat).stagedVer.toNat = leNat (slice (getImage s ty.toNat).staged 8 4) ∧
      (getImage t ty.toNat).version = (getImage s ty.toNat).version ∧ (getImage t ty.toNat).staged = (getImage s ty.toNat).staged ∧
      Apart s t := by
  have runs : RunsAs (.updateVerify r ty good) r 0x0511 setAny (ansUpdateVerify ty good) s := rfl
  have ans := ansUpdateVerify_passes ht h sound
  have exec_ := exec_ready runs hr (answer_taken (by decide) ans)
  rw [reply_ok] at exec_
  obtain ⟨t, run, kept, told⟩ := serves_ok runs hr ans rfl
  obtain ⟨v, hv⟩ : ∃ v, v = respond (modImage s ty.toNat verifiedImage) r 0x0511 stOk 0 0 setAny (slice (getImage s ty.toNat).staged 8 4) :=
    ⟨_, rfl⟩
  rw [← hv] at exec_
  have t_eq : t = settle v := Host.Outcome.next.inj (run.symm.trans exec_)
  have idle : serveActivate v = v := serveActivate_none (by rw [hv, respond_hub]; exact ha)
  have own : getImage v ty.toNat = verifiedImage (getImage s ty.toNat) :=
    (getImage_congr (by rw [hv, respond_images]) _).trans (getImage_modImage_same s ht _)
  have now : getImage t ty.toNat = verifiedImage (getImage s ty.toNat) := by
    rw [t_eq, getImage_settle idle ?_, own]
    by_cases h2 : ty.toNat = 2
    · rw [← h2, own]
      exact .inr (by show (2 : BitVec 8) ≠ 0x21; decide)
    · exact .inl h2
  have bound := leNat_lt (slice (getImage s ty.toNat).staged 8 4)
  rw [slice_length] at bound
  refine ⟨t, run, told, by rw [now]; rfl, by rw [now]; rfl, ?_, by rw [now]; rfl, by rw [now]; rfl, apart_of_mail kept⟩
  rw [now]
  exact (BitVec.toNat_ofNat _ _).trans (Nat.mod_eq_of_lt bound)

theorem ansUpdateStatus_noType (h : 4 ≤ ty.toNat) : ansUpdateStatus ty s = err s stBadArg 0 := if_pos h

theorem ansUpdateStatus_eq (h : ty.toNat < 4) : ansUpdateStatus ty s = ok s ([(getImage s ty.toNat).phase] ++
    leBytes 2 (getImage s ty.toNat).done.toNat ++ leBytes 2 (getImage s ty.toNat).pending.length ++ [(getImage s ty.toNat).result]) :=
  if_neg (by omega)

end

end Sys2Proof.Machine
end

section
-- One proof after the other: a text of this length has more proofs waiting at once than the check has threads for.
set_option Elab.async false
/-! PROOFS. Activation of an image and the PHY rollout (R373 to R377, R441). -/
namespace Sys2Proof.Machine

section
variable {s : State} {r : Req} {w : BitVec 32} {ty : BitVec 8}

/-! ### Asking for an activation -/

theorem ansUpdateActivate_outOfRange (h : 4 ≤ ty.toNat ∨ w = 0 ∨ 10000 < w.toNat) : ansUpdateActivate r ty w s = err s stBadArg 0 := by
  refine if_pos ?_
  rcases h with h | rfl | h
  · exact .inl h
  · exact .inr rfl
  · exact .inr (by simp [within]; omega)

/-- The device while an activation is in progress. -/
def activationBegun (s : State) (r : Req) (ty : BitVec 8) (w : BitVec 32) : State :=
  modHub (handed s r) fun h => { h with updating := true, actReq := some (r, ty.toNat, (handed s r).ticks + w.toNat * 4000000) }

theorem ansUpdateActivate_inRange (ht : ty.toNat < 4) (h1 : 1 ≤ w.toNat) (h2 : w.toNat ≤ 10000) : ansUpdateActivate r ty w s =
    if (!(getImage s ty.toNat).verified) = true then err s stDenied 0 else
    match ty.toNat with
    | 0 => ok (modImage (raiseFloors s 0) 0 (waitReset 0)) []
    | 1 => if (devNow s == .fenced) = true then ok (modImage (raiseFloors s 1) 1 (waitReset 0)) [] else later (activationBegun s r ty w)
    | 2 => later (rollDone (modImage (activationBegun s r ty w) 2 fun i =>
        { i with phase := 0x20, pending := (List.range 128).filter (inService s), done := 0 }))
    | _ => later (rollDone (modImage (activationBegun s r ty w) 3 fun i => { i with phase := 0x30, pending := upPorts s, done := 0 })) := by
  have ticks : (handed s r).ticks = s.ticks := (settled_handed s r).out.ticks
  unfold ansUpdateActivate activationBegun
  rw [ticks]
  exact if_neg (by simp only [not_or, Bool.not_eq_true', Bool.not_eq_false, within_iff]; omega)

theorem runsAs_updateActivate : RunsAs (.updateActivate r ty w) r 0x0512 (activateSet ty) (ansUpdateActivate r ty w) s := rfl

/-! ### An image that is in force from the next device reset (R441) -/

theorem raiseFloors_image (s : State) {k : Nat} (h : k < 4) : getImage (modImage (raiseFloors s k) k (waitReset 0)) k =
    waitReset 0 { getImage s k with
      floor := if (getImage s k).floor.toNat < (getImage s k).stagedFloor.toNat then (getImage s k).stagedFloor else (getImage s k).floor
      result := 1 } := by
  rw [getImage_modImage_same _ h, raiseFloors, getImage_modImage_same _ h]
  rfl

theorem activate_waits (hr : Ready 0x0512 (activateSet ty) r s) (ha : s.hub.actReq = none) (ht : ty.toNat < 2)
    (ans : ansUpdateActivate r ty w s = ok (modImage (raiseFloors s ty.toNat) ty.toNat (waitReset 0)) []) :
    ∃ t, exec (.updateActivate r ty w) s = .next t ∧ Answers s t r 0x0512 0x00 [] ∧ (getImage t ty.toNat).atReset = true ∧
      (getImage t ty.toNat).version = (getImage s ty.toNat).version ∧
      (getImage t ty.toNat).floor.toNat = max (getImage s ty.toNat).floor.toNat (getImage s ty.toNat).stagedFloor.toNat ∧
      (getImage t ty.toNat).result = 1 ∧ t.mem = s.mem ∧ t.ctxs = s.ctxs ∧ t.slots = s.slots := by
  obtain ⟨u, hu⟩ : ∃ u, u = modImage (raiseFloors s ty.toNat) ty.toNat (waitReset 0) := ⟨_, rfl⟩
  have image := raiseFloors_image s (k := ty.toNat) (by omega)
  rw [← hu] at ans image
  have exec_ := exec_ready runsAs_updateActivate hr (answer_taken (by decide) ans)
  rw [reply_ok] at exec_
  obtain ⟨t, run, kept, told⟩ := serves_ok runsAs_updateActivate hr ans (by rw [hu]; rfl)
  have t_eq := Host.Outcome.next.inj (run.symm.trans exec_)
  have now : getImage t ty.toNat = getImage u ty.toNat := by
    rw [t_eq, getImage_settle (serveActivate_none (by rw [respond_hub, hu]; exact ha)) (.inl (by omega))]
    exact getImage_congr (respond_images _ _ _ _ _ _ _ _) _
  have img := now.trans image
  refine ⟨t, run, told, by rw [img]; rfl, by rw [img]; rfl, ?_, by rw [img]; rfl, kept.out.mem.trans (by rw [hu]; rfl),
    kept.out.ctxs.trans (by rw [hu]; rfl), kept.out.slots.trans (by rw [hu]; rfl)⟩
  rw [img]
  show (if _ then _ else _ : BitVec 32).toNat = _
  split <;> omega

/-! ### An activation that goes on (R373, R375, R376) -/

/-- R350: a device in READY or RUNNING has none of the conditions that come before. -/
theorem working_flags (h : inSet 0x18 (devNow s) = true) : (s.hub.dev ≠ .cold ∧ s.hub.dev ≠ .booting) ∧ s.hub.fenced = false ∧
    (s.hub.belfryDown = false ∧ s.hub.diesDown = 0) ∧ s.hub.draining = false := by
  have works : devNow s = .ready ∨ devNow s = .running := by
    generalize devNow s = d at h ⊢
    revert h
    cases d <;> decide
  unfold devNow at works
  split at works
  · simp at works
  · simp at works
  · rename_i cold booting
    refine ⟨⟨cold, booting⟩, ?_⟩
    split_ifs at works with h1 h2 h3 h4 h5 h6 h7 <;> simp at works
    all_goals
      simp only [Bool.or_eq_true, bne_iff_ne, not_or, Bool.not_eq_true, ne_eq, not_not] at *
      exact ⟨h1, h2, h4⟩

theorem shows_updating (live : s.hub.dev ≠ .cold ∧ s.hub.dev ≠ .booting) (hf : s.hub.fenced = false)
    (hd : s.hub.belfryDown = false ∧ s.hub.diesDown = 0) (hu : s.hub.updating = true) : devNow s = .updating := by
  unfold devNow
  split
  · exact absurd ‹_› live.1
  · exact absurd ‹_› live.2
  · simp [hf, hd, hu]

theorem finishDrain_idle (h : s.hub.draining = false) : finishDrain s = s := by
  unfold finishDrain
  split
  · exact if_neg (by simp [h])
  · rfl

/-- R373: what the end of a step makes of an activation of the Belfry's image. -/
theorem serveActivate_belfry {till : Nat} (ha : s.hub.actReq = some (r, 1, till)) : serveActivate s =
    if (s.hub.handoff || s.hub.belfryDown || s.hub.diesDown != 0) = true then s
    else if handoffMoment s = true then modImage (modHub s fun h => { h with handoff := true }) 1 fun i => { i with phase := 0x10 }
    else if till ≤ s.ticks then
      respond (modHub s fun h => { h with updating := false, actReq := none }) r 0x0512 0x01 0 0 0x18 []
    else s := by
  unfold serveActivate
  split
  · rename_i q x h
    obtain ⟨rfl, same⟩ := Prod.mk.inj (Option.some.inj (ha.symm.trans h))
    obtain ⟨-, rfl⟩ := Prod.mk.inj same
    rfl
  · rename_i other
    exact absurd ha (other _ _)

/-- The end of the step that begins the activation of the Belfry's image. -/
theorem settle_begun (hf : inSet 0x18 (devNow s) = true) (hh : s.hub.handoff = false) (h1 : 1 ≤ w.toNat) :
    (settle (activationBegun s r 1 w)).hub.actReq = some (r, 1, s.ticks + w.toNat * 4000000) ∧
      (settle (activationBegun s r 1 w)).hub.updating = true ∧ (settle (activationBegun s r 1 w)).hub.dev = .updating ∧
      (settle (activationBegun s r 1 w)).hub.handoff = handoffMoment s ∧
      (handoffMoment s = true → (getImage (settle (activationBegun s r 1 w)) 1).phase = 0x10) := by
  obtain ⟨live, fenced, ⟨down, dies⟩, drains⟩ := working_flags hf
  have kept := (settled_handed s r).out
  have hub : (activationBegun s r 1 w).hub = { s.hub with updating := true, actReq := some (r, 1, s.ticks + w.toNat * 4000000) } := by
    rw [activationBegun, modHub_hub, handed_hub, kept.ticks]
    rfl
  have moment : handoffMoment (activationBegun s r 1 w) = handoffMoment s := by
    show handoffMoment (handed s r) = _
    simp only [handoffMoment, kept.ctxs, kept.mem, kept.fab, kept.lcores]
  have ticks : (activationBegun s r 1 w).ticks = s.ticks := kept.ticks
  generalize activationBegun s r 1 w = v at hub moment ticks
  obtain ⟨u, served, uhub, image⟩ : ∃ u, serveActivate v = u ∧ u.hub = { v.hub with handoff := handoffMoment s } ∧
      (handoffMoment s = true → (getImage u 1).phase = 0x10) := by
    refine ⟨_, rfl, ?_⟩
    have req : v.hub.actReq = some (r, 1, s.ticks + w.toNat * 4000000) := by rw [hub]
    rw [serveActivate_belfry req, if_neg (by simp [hub, hh, down, dies]), moment]
    split
    · rename_i now
      refine ⟨by rw [modImage_hub, modHub_hub, hub, now], fun _ => ?_⟩
      rw [getImage_modImage_same _ (by decide)]
    · rename_i waits
      rw [if_neg (by rw [ticks]; omega), hub]
      exact ⟨by simp [hh, waits], fun h => absurd h waits⟩
  have ends : settle v = serveWaiters (refreshDev u) := by
    rw [settle, served, finishDrain_idle (by rw [uhub, hub]; exact drains)]
  have shown : devNow u = .updating := by
    refine shows_updating ?_ ?_ ?_ ?_ <;> rw [uhub, hub]
    · exact live
    · exact fenced
    · exact ⟨down, dies⟩
  rw [ends, serveWaiters_hub, refreshDev_hub, uhub, hub, shown]
  refine ⟨rfl, rfl, rfl, rfl, fun h => ?_⟩
  rw [getImage_congr ((serveWaiters_images _).trans (refreshDev_images _))]
  exact image h

theorem working_of_activation (h : inSet 0x58 (devNow s) = true) (hf : devNow s ≠ .fenced) : inSet 0x18 (devNow s) = true := by
  generalize devNow s = d at h hf ⊢
  revert h hf
  cases d <;> decide

theorem activate_belfry (hr : Ready 0x0512 (activateSet 1) r s) (hf : devNow s ≠ .fenced) (hh : s.hub.handoff = false)
    (h1 : 1 ≤ w.toNat) (h2 : w.toNat ≤ 10000) (hv : (getImage s 1).verified = true) :
    ∃ t, exec (.updateActivate r 1 w) s = .next t ∧ t.hub.actReq = some (r, 1, s.ticks + w.toNat * 4000000) ∧ t.hub.updating = true ∧
      t.hub.dev = .updating ∧ t.hub.handoff = handoffMoment s ∧ (handoffMoment s = true → (getImage t 1).phase = 0x10) ∧ t.mem = s.mem ∧
      t.ctxs = s.ctxs ∧ t.slots = s.slots := by
  have ans : ansUpdateActivate r 1 w s = later (activationBegun s r 1 w) :=
    (ansUpdateActivate_inRange (by decide) h1 h2).trans ((if_neg (by rw [show (1 : BitVec 8).toNat = 1 from rfl, hv]; decide)).trans
      (if_neg (by simpa using hf)))
  have legal : inSet 0x58 (devNow s) = true := hr.2.2
  obtain ⟨req, updating, dev, handoff, image⟩ := settle_begun (r := r) (working_of_activation legal hf) hh h1
  have kept := (settled_handed s r).out
  refine ⟨_, exec_later runsAs_updateActivate hr ans, req, updating, dev, handoff, image, ?_, ?_, ?_⟩
  · rw [settle_mem]
    exact kept.mem
  · rw [settle_ctxs]
    exact kept.ctxs
  · rw [settle_slots]
    exact kept.slots

theorem rollDone_cores {till : Nat} {q : Req} (ha : s.hub.actReq = some (q, 2, till)) {n : Nat} (hn : n ∈ (getImage s 2).pending)
    (hs : hasSpare s n = true) : rollDone s = s := by
  unfold rollDone
  rw [ha]
  refine if_neg fun all => ?_
  have := List.all_eq_true.mp all n hn
  simp [hs] at this

theorem rollDone_ports {till : Nat} {q : Req} (ha : s.hub.actReq = some (q, 3, till))
    (h : ((rollable s (getImage s 3).pending).isEmpty && s.fab.ports.toList.all fun b => !b.phyNew || b.st != .training) = false) :
    rollDone s = s := by
  unfold rollDone
  rw [ha]
  exact if_neg (by rw [h]; exact Bool.false_ne_true)

theorem activationBegun_keeps (s : State) (r : Req) (ty : BitVec 8) (w : BitVec 32) :
    (activationBegun s r ty w).hub = { s.hub with updating := true, actReq := some (r, ty.toNat, s.ticks + w.toNat * 4000000) } ∧
    (activationBegun s r ty w).mem = s.mem ∧ (activationBegun s r ty w).ctxs = s.ctxs ∧ (activationBegun s r ty w).slots = s.slots ∧
    (activationBegun s r ty w).fab = s.fab ∧ (activationBegun s r ty w).opt = s.opt ∧ (activationBegun s r ty w).lcores = s.lcores := by
  have kept := (settled_handed s r).out
  refine ⟨?_, kept.mem, kept.ctxs, kept.slots, kept.fab, kept.opt, kept.lcores⟩
  rw [activationBegun, modHub_hub, handed_hub, kept.ticks]

theorem hasSpare_begun (n : Nat) (f : Image → Image) (k : Nat) : hasSpare (modImage (activationBegun s r ty w) k f) n = hasSpare s n := by
  obtain ⟨hub, -, -, -, -, -, lcores⟩ := activationBegun_keeps s r ty w
  simp only [hasSpare, freeSpares, inService, physOf, coreEntry, getL, modImage, modMail, hub, lcores]

theorem groupPorts_congr {t : State} (h : t.opt = s.opt) (g : Nat) : groupPorts t g = groupPorts s g := by
  have count : portCount t = portCount s := by rw [portCount, h, portCount]
  unfold groupPorts
  rw [count]

theorem groupUp_congr {t : State} (h : t.opt = s.opt) (hf : t.fab = s.fab) (g : Nat) (b : Bool) : groupUp t g b = groupUp s g b := by
  unfold groupUp getPort
  rw [groupPorts_congr h, hf]

theorem rollable_congr {t : State} (h : t.opt = s.opt) (hf : t.fab = s.fab) (l : List Nat) : rollable t l = rollable s l := by
  unfold rollable
  simp only [groupUp_congr h hf, getPort, hf]

theorem rollable_begun (l : List Nat) (f : Image → Image) (k : Nat) : rollable (modImage (activationBegun s r ty w) k f) l = rollable s l := by
  obtain ⟨-, -, -, -, fab, opt, -⟩ := activationBegun_keeps s r ty w
  exact rollable_congr (s := s) opt fab l

theorem activate_cores (hr : Ready 0x0512 (activateSet 2) r s) (h1 : 1 ≤ w.toNat) (h2 : w.toNat ≤ 10000) (hv : (getImage s 2).verified = true)
    (spare : ∃ n, n < 128 ∧ inService s n = true ∧ hasSpare s n = true) :
    ∃ t, exec (.updateActivate r 2 w) s = .next t ∧ t.hub.actReq = some (r, 2, s.ticks + w.toNat * 4000000) ∧ (getImage t 2).phase = 0x20 ∧
      (getImage t 2).pending = (List.range 128).filter (inService s) ∧ t.hub.updating = true ∧ t.mem = s.mem ∧ t.ctxs = s.ctxs ∧
      t.slots = s.slots := by
  obtain ⟨hub, mem, ctxs, slots, -, -, -⟩ := activationBegun_keeps s r 2 w
  obtain ⟨v, hvv⟩ : ∃ v, v = modImage (activationBegun s r 2 w) 2 fun i =>
      { i with phase := 0x20, pending := (List.range 128).filter (inService s), done := 0 } := ⟨_, rfl⟩
  have image : getImage v 2 = { getImage (activationBegun s r 2 w) 2 with
      phase := 0x20, pending := (List.range 128).filter (inService s), done := 0 } := by
    rw [hvv]
    exact getImage_modImage_same _ (by decide) _
  have req : v.hub.actReq = some (r, 2, s.ticks + w.toNat * 4000000) := by
    rw [hvv, modImage_hub, hub]
    rfl
  have rolls : rollDone v = v := by
    obtain ⟨n, hn, serves, free⟩ := spare
    refine rollDone_cores (n := n) req ?_ (by rw [hvv, hasSpare_begun]; exact free)
    rw [image]
    exact List.mem_filter.mpr ⟨List.mem_range.mpr hn, serves⟩
  have ans : ansUpdateActivate r 2 w s = later v := by
    refine (ansUpdateActivate_inRange (by decide) h1 h2).trans ((if_neg (by rw [show (2 : BitVec 8).toNat = 2 from rfl, hv]; decide)).trans ?_)
    show later (rollDone (modImage (activationBegun s r 2 w) 2 _)) = _
    rw [← hvv, rolls]
  have idle : serveActivate v = v := serveActivate_other fun q till h => by rw [req] at h; cases h
  obtain ⟨act, updating⟩ := settle_activation idle
  have now : getImage (settle v) 2 = getImage v 2 := getImage_settle idle (.inr (by rw [image]; show (0x20 : BitVec 8) ≠ 0x21; decide))
  refine ⟨_, exec_later runsAs_updateActivate hr ans, act.trans req, by rw [now, image], by rw [now, image], updating.trans ?_, ?_, ?_, ?_⟩
  · rw [hvv, modImage_hub, hub]
  · rw [settle_mem, hvv]
    exact mem
  · rw [settle_ctxs, hvv]
    exact ctxs
  · rw [settle_slots, hvv]
    exact slots

theorem activate_ports (hr : Ready 0x0512 (activateSet 3) r s) (h1 : 1 ≤ w.toNat) (h2 : w.toNat ≤ 10000) (hv : (getImage s 3).verified = true)
    (some_ : rollable s (upPorts s) ≠ []) :
    ∃ t, exec (.updateActivate r 3 w) s = .next t ∧ t.hub.actReq = some (r, 3, s.ticks + w.toNat * 4000000) ∧ (getImage t 3).phase = 0x30 ∧
      (getImage t 3).pending = upPorts s ∧ t.hub.updating = true ∧ t.fab = s.fab ∧ t.mem = s.mem ∧ t.ctxs = s.ctxs := by
  obtain ⟨hub, mem, ctxs, -, fab, -, -⟩ := activationBegun_keeps s r 3 w
  obtain ⟨v, hvv⟩ : ∃ v, v = modImage (activationBegun s r 3 w) 3 fun i => { i with phase := 0x30, pending := upPorts s, done := 0 } := ⟨_, rfl⟩
  have image : getImage v 3 = { getImage (activationBegun s r 3 w) 3 with phase := 0x30, pending := upPorts s, done := 0 } := by
    rw [hvv]
    exact getImage_modImage_same _ (by decide) _
  have req : v.hub.actReq = some (r, 3, s.ticks + w.toNat * 4000000) := by
    rw [hvv, modImage_hub, hub]
    rfl
  have rolls : rollDone v = v := by
    refine rollDone_ports req ?_
    rw [image, hvv, rollable_begun]
    simp [some_]
  have ans : ansUpdateActivate r 3 w s = later v := by
    refine (ansUpdateActivate_inRange (by decide) h1 h2).trans ((if_neg (by rw [show (3 : BitVec 8).toNat = 3 from rfl, hv]; decide)).trans ?_)
    show later (rollDone (modImage (activationBegun s r 3 w) 3 _)) = _
    rw [← hvv, rolls]
  have idle : serveActivate v = v := serveActivate_other fun q till h => by rw [req] at h; cases h
  obtain ⟨act, updating⟩ := settle_activation idle
  have now : getImage (settle v) 3 = getImage v 3 := getImage_settle idle (.inl (by decide))
  refine ⟨_, exec_later runsAs_updateActivate hr ans, act.trans req, by rw [now, image], by rw [now, image], updating.trans ?_, ?_, ?_, ?_⟩
  · rw [hvv, modImage_hub, hub]
  · rw [settle_fab, hvv]
    exact fab
  · rw [settle_mem, hvv]
    exact mem
  · rw [settle_ctxs, hvv]
    exact ctxs

end

/-! ### The PHY rollout (R376) -/

section
variable {s : State} {r : Req} {p : Port} {till : Nat}

theorem groupPorts_mem {v g : Nat} : v ∈ groupPorts s g ↔ v < portCount s ∧ v / 4 = g := by
  simp only [groupPorts, List.mem_filter, List.mem_map, List.mem_range, decide_eq_true_eq]
  constructor
  · rintro ⟨⟨i, hi, rfl⟩, hv⟩
    exact ⟨hv, by omega⟩
  · rintro ⟨hv, rfl⟩
    exact ⟨⟨v % 4, by omega, by omega⟩, hv⟩

/-- Whether no port of a group trains. -/
def groupFree (s : State) (p : Nat) : Bool := (groupPorts s (p / 4)).all fun q => (getPort s q).st != .training

theorem groupFree_iff {p : Nat} : groupFree s p = true ↔ ∀ v, v < portCount s → v / 4 = p / 4 → (getPort s v).st ≠ .training := by
  simp only [groupFree, List.all_eq_true, groupPorts_mem, bne_iff_ne, and_imp, ne_eq]

theorem phyRoll_eq (ha : s.hub.actReq = some (r, 3, till)) (p : Nat) (good : Bool) : phyRoll p good s =
    if (recovering s || !((getImage s 3).pending.contains p && groupFree s p && (rollable s (getImage s 3).pending).contains p)) = true then s
    else if good = true then
      rollDone (modImage (modPort (portToTraining s p) p fun b => { b with phyNew := true }) 3 fun i =>
        { i with pending := i.pending.erase p, done := i.done + 1 })
    else rolledBack (modFab (portToTraining s p) fun f => { f with ports := f.ports.map fun b => { b with phyNew := false } }) 3 := by
  unfold phyRoll
  rw [ha]
  rfl

theorem phyRoll_none (h : ∀ r till, s.hub.actReq ≠ some (r, 3, till)) (p : Nat) (good : Bool) : phyRoll p good s = s := by
  unfold phyRoll
  split
  · exact absurd ‹_› (h _ _)
  · rfl

/-- Sending a port to train leaves the machine but for the fabric, the record and what time it follows. -/
theorem apart_portToTraining {p : Nat} (hb : (getPort s p).buf = []) {t : State} (h : AllBut [.fab, .ports, .mail, .outbox, .hub] (portToTraining s p) t) :
    Apart s t := by
  have frame := (portToTraining_moves hb).1
  have keeps : ∀ q : Part, q ∉ [.fab, .ports, .diag, .time, .mail, .outbox, .hub] → q.Same s t := fun q hq =>
    (frame.mono.trans h.mono : AllBut [.fab, .ports, .diag, .time, .mail, .outbox, .hub] s t) q hq
  refine ⟨keeps .opt (by decide), keeps .mem (by decide), keeps .ctxs (by decide), keeps .slots (by decide), keeps .lcores (by decide),
    keeps .sec (by decide), keeps .pwr (by decide), ?_, keeps .latches (by decide), keeps .pending (by decide)⟩
  rw [(h .time (by decide) : t.time = _)]
  rw [portToTraining_eq hb]
  show (trainingBegun s p).time.now = s.time.now
  have still : ∀ v : State, (dropParent v p).time.now = v.time.now := fun v => by
    unfold dropParent
    split <;> rfl
  unfold trainingBegun
  rw [still]
  have counted : ∀ c : Prop, [Decidable c] → (if c then tally s (216 + p) [(0x1400 + 24 * p + 12, 1)] else s).time = s.time := fun c _ => by
    split
    · exact frame_tally s _ _ .time (by decide)
    · rfl
  rw [(frame_setPortState _ p .training .time (by decide) : (_ : TimeBlock) = _), counted]

/-- The rollout after a port has trained, in `x`, with the new firmware. -/
def portRolled (x : State) (p : Nat) : State :=
  modImage (modPort x p fun b => { b with phyNew := true }) 3 fun i => { i with pending := i.pending.erase p, done := i.done + 1 }

theorem portRolled_port (x : State) (p : Port) : getPort (portRolled x p.val) p.val = { getPort x p.val with phyNew := true } := by
  have kept : (portRolled x p.val).fab.ports = (modPort x p.val fun b => { b with phyNew := true }).fab.ports := rfl
  rw [getPort_congr kept, getPort_modPort_same _ p.isLt]

theorem frame_modImage (x : State) (k : Nat) (f : Image → Image) : AllBut [.mail] x (modImage x k f) := fun q hq => by
  cases q <;> first | exact absurd (by decide) hq | exact rfl | exact List.suffix_rfl | (constructor <;> rfl)

theorem portRolled_keeps (x : State) (p : Nat) : AllBut [.fab, .ports, .mail, .outbox, .hub] x (portRolled x p) ∧
    (portRolled x p).hub = x.hub ∧
    getImage (portRolled x p) 3 = { getImage x 3 with pending := (getImage x 3).pending.erase p, done := (getImage x 3).done + 1 } :=
  ⟨((frame_modPort x p _).mono (m := [.fab, .ports, .mail, .outbox, .hub])).trans (frame_modImage _ _ _).mono, rfl,
    getImage_modImage_same _ (by decide) _⟩

theorem getPort_mem (s : State) (p : Port) : getPort s p.val ∈ s.fab.ports.toList := by
  have held : getPort s p.val = s.fab.ports[p.val] := by simp [getPort, Vector.getD, p.isLt]
  rw [held]
  exact Vector.mem_toList_iff.mpr (Vector.getElem_mem _)

theorem phyRoll_trains (ha : s.hub.actReq = some (r, 3, till)) (goes : phyRoll p.val true s = rollDone (portRolled (portToTraining s p.val) p.val))
    (hb : (getPort s p.val).buf = []) : ∃ t, exec (.phyRollPort p true) s = .next t ∧ Apart s t ∧
      (getPort t p.val).st = .training ∧ (getPort t p.val).phyNew = true ∧
      (getImage t 3).pending = (getImage s 3).pending.erase p.val ∧ (getImage t 3).done = (getImage s 3).done + 1 := by
  have frame := (portToTraining_moves hb).1
  have trained := portToTraining_port p.isLt hb
  have hub : (portToTraining s p.val).hub = s.hub := frame .hub (by decide)
  have mail : (portToTraining s p.val).mail = s.mail := frame .mail (by decide)
  have old : getImage (portToTraining s p.val) 3 = getImage s 3 := getImage_congr (congrArg (·.images) mail) 3
  have apart := fun t => apart_portToTraining (t := t) hb
  generalize portToTraining s p.val = x at *
  obtain ⟨rolled, hub', image⟩ := portRolled_keeps x p.val
  have port : getPort (portRolled x p.val) p.val = { inTraining s (getPort s p.val) with phyNew := true } := by rw [portRolled_port, trained]
  replace apart := apart _ rolled
  have req : (portRolled x p.val).hub.actReq = some (r, 3, till) := by rw [hub', hub]; exact ha
  rw [old] at image
  generalize portRolled x p.val = v at *
  have rolls : rollDone v = v := by
    refine rollDone_ports req ?_
    rw [Bool.and_eq_false_iff]
    refine .inr (List.all_eq_false.mpr ⟨_, getPort_mem v p, ?_⟩)
    rw [port]
    simp [inTraining]
  rw [rolls] at goes
  have run : exec (.phyRollPort p true) s = done v := congrArg done goes
  have idle : serveActivate v = v := serveActivate_other fun q x h => by rw [req] at h; cases h
  have now := getImage_settle idle (k := 3) (.inl (by decide))
  have ports : getPort (settle v) p.val = _ := (getPort_congr (by rw [settle_fab]) p.val).trans port
  exact ⟨_, run, apart.then_settle, by rw [ports]; rfl, by rw [ports], by rw [now, image], by rw [now, image]⟩

/-- The ports after a rollout that failed: none runs the new firmware. -/
def portsRolledBack (s : State) : State := modFab s fun f => { f with ports := f.ports.map fun b => { b with phyNew := false } }

theorem portsRolledBack_port (s : State) (p : Port) : getPort (portsRolledBack s) p.val = { getPort s p.val with phyNew := false } := by
  have held : ∀ u : State, getPort u p.val = u.fab.ports[p.val] := fun u => by simp [getPort, Vector.getD, p.isLt]
  rw [held, held]
  exact Vector.getElem_map _ _

theorem frame_portsRolledBack (s : State) : AllBut [.fab, .ports] s (portsRolledBack s) := fun q hq => by
  cases q <;> first | exact absurd (by decide) hq | exact rfl | exact List.suffix_rfl | exact MailKept.refl _

/-- An activation that is rolled back is answered, and its image is neither verified nor in force. -/
theorem rolledBack_facts (u : State) (ha : u.hub.actReq = some (r, 3, till)) : AllBut [.mail, .outbox, .hub] u (rolledBack u 3) ∧
    (rolledBack u 3).hub.actReq = none ∧ Answers u (rolledBack u 3) r 0x0512 0x00 [] ∧
    getImage (rolledBack u 3) 3 = { getImage u 3 with phase := 0, result := 2, verified := false, pending := [], done := 0 } := by
  obtain ⟨v, hv⟩ : ∃ v, v = modImage u 3 fun i => { i with phase := 0, result := 2, verified := false, pending := [], done := 0 } := ⟨_, rfl⟩
  have ends : rolledBack u 3 = answerActivate (postNotice v 0x000C none (updateBody 3 0 2)) stOk := by rw [hv]; rfl
  have image : getImage v 3 = { getImage u 3 with phase := 0, result := 2, verified := false, pending := [], done := 0 } := by
    rw [hv]
    exact getImage_modImage_same _ (by decide) _
  have first : AllBut [.mail, .outbox, .hub] u v := hv ▸ (frame_modImage u 3 _).mono
  have told : v.mail.responses = u.mail.responses := by rw [hv]; rfl
  have vreq : v.hub.actReq = some (r, 3, till) := by rw [hv]; exact ha
  have noticed := frame_postNotice v 0x000C none (updateBody 3 0 2)
  have req : (postNotice v 0x000C none (updateBody 3 0 2)).hub.actReq = some (r, 3, till) := by
    rw [postNotice_hub]
    exact vreq
  have images := postNotice_images v 0x000C none (updateBody 3 0 2)
  have responses := postNotice_responses (s := v) 0x000C none (updateBody 3 0 2)
  generalize postNotice v 0x000C none (updateBody 3 0 2) = x at noticed req images responses ends
  have answer : answerActivate x stOk = respond (modHub x fun h => { h with updating := false, actReq := none }) r 0x0512 stOk 0 0 0x18 [] := by
    rw [answerActivate, req]
  rw [ends, answer]
  refine ⟨first.trans (noticed.mono.trans ((frame_modHub x _).mono.trans (frame_respond _ _ _ _ _ _ _ _).mono)), ?_, ?_, ?_⟩
  · rw [respond_hub]
    rfl
  · exact answers_respond (u := modHub x _) _ _ _ _ _ (responses.trans told)
  · rw [getImage_congr (respond_images _ _ _ _ _ _ _ _)]
    exact (getImage_congr images 3).trans image

theorem phyRoll_fails (ha : s.hub.actReq = some (r, 3, till))
    (goes : phyRoll p.val false s = rolledBack (portsRolledBack (portToTraining s p.val)) 3) (hb : (getPort s p.val).buf = []) :
    ∃ t, exec (.phyRollPort p false) s = .next t ∧ Apart s t ∧ (getPort t p.val).st = .training ∧ (getPort t p.val).phyNew = false ∧
      (getImage t 3).result = 2 ∧ (getImage t 3).verified = false ∧ (getImage t 3).version = (getImage s 3).version ∧
      t.hub.actReq = none ∧ Answers s t r 0x0512 0x00 [] := by
  have frame := (portToTraining_moves hb).1
  have trained := portToTraining_port p.isLt hb
  have hub : (portToTraining s p.val).hub = s.hub := frame .hub (by decide)
  have mail : (portToTraining s p.val).mail = s.mail := frame .mail (by decide)
  have apart := fun t => apart_portToTraining (t := t) hb
  generalize portToTraining s p.val = x at *
  have back := frame_portsRolledBack x
  have port := portsRolledBack_port x p
  rw [trained] at port
  have req : (portsRolledBack x).hub.actReq = some (r, 3, till) := by rw [(back .hub (by decide) : (_ : Hub) = _), hub]; exact ha
  have mail' : (portsRolledBack x).mail = s.mail := Eq.trans (back .mail (by decide)) mail
  have old : getImage (portsRolledBack x) 3 = getImage s 3 := getImage_congr (congrArg (·.images) mail') 3
  generalize portsRolledBack x = y at *
  obtain ⟨moves, ended, told, image⟩ := rolledBack_facts _ req
  replace apart := apart _ (back.mono.trans moves.mono)
  replace port := (getPort_congr (moves .ports (by decide)) p.val).trans port
  have answered : Answers s (rolledBack y 3) r 0x0512 0x00 [] := by
    obtain ⟨z, hz, fields⟩ := told
    exact ⟨z, by rw [← mail']; exact hz, fields⟩
  rw [old] at image
  generalize rolledBack y 3 = v at *
  have run : exec (.phyRollPort p false) s = done v := congrArg done goes
  have idle : serveActivate v = v := serveActivate_none ended
  have now := (getImage_settle idle (k := 3) (.inl (by decide))).trans image
  have ports : getPort (settle v) p.val = _ := (getPort_congr (by rw [settle_fab]) p.val).trans port
  exact ⟨_, run, apart.then_settle, by rw [ports]; rfl, by rw [ports], by rw [now], by rw [now], by rw [now],
    (settle_activation idle).1.trans ended, answered.mono (settle_settled v).mail.responses⟩

end

/-- Settles O37: the staging commands by their answers, the activation by its type, and the PHY rollout by the port. -/
theorem imagesAreUpdated : Obligations.ImagesAreUpdated := by
  refine ⟨fun r ty s i hi ha => ⟨fun off d hr h4056 => ⟨fun bad => refuses_err (runsAs_updateWrite h4056) hr (ansUpdateWrite_outOfRange bad),
      fun ht hd hl ho => ⟨fun hact => ?_, fun hact => refuses_err (runsAs_updateWrite h4056) hr
        ((ansUpdateWrite_inRange ht hd hl ho).trans (if_pos hact))⟩⟩,
      fun good hr => ⟨fun h => refuses_err rfl hr (ansUpdateVerify_noType h), fun ht h => refuses_err rfl hr (ansUpdateVerify_busy ht h),
        fun ht h => ⟨fun sound => ?_, fun bad => refuses_err rfl hr (ansUpdateVerify_fails ht h (hi ▸ bad))⟩⟩, rfl,
      fun hr => ⟨fun h => refuses_err rfl hr (ansUpdateStatus_noType h), fun ht => ?_⟩⟩,
    fun r w s ha => fun ty hr => ⟨fun bad => refuses_err rfl hr (ansUpdateActivate_outOfRange bad),
      fun ht h1 h2 => ⟨fun hv => ?_, fun hv kind => ?_, fun hv => ⟨?_, ?_, ?_⟩⟩⟩,
    fun r p till s ha => ⟨fun up pend free roll hb => ?_, fun h good => ?_⟩,
    fun p good s h => leads_done (congrArg done (phyRoll_none h p.val good)) (.refl _)⟩
  · subst hi
    exact updateWrite_facts hr ha h4056 ht hd hl ho hact
  · subst hi
    exact updateVerify_marks hr ha ht h sound
  · subst hi
    exact serves_ok rfl hr (ansUpdateStatus_eq ht) rfl
  · exact refuses_err rfl hr ((ansUpdateActivate_inRange ht h1 h2).trans (if_pos (by simp [hv])))
  · refine activate_waits hr ha ?_ ?_
    · rcases kind with rfl | ⟨rfl, -⟩ <;> decide
    · refine (ansUpdateActivate_inRange ht h1 h2).trans ((if_neg (by simp [hv])).trans ?_)
      rcases kind with rfl | ⟨rfl, fenced⟩
      · rfl
      · exact if_pos (by simp [fenced])
  · rintro rfl hf hh
    exact activate_belfry hr hf hh h1 h2 hv
  · rintro rfl spare
    exact activate_cores hr h1 h2 hv spare
  · rintro rfl some_
    exact activate_ports hr h1 h2 hv some_
  · have goes : (recovering s || !((getImage s 3).pending.contains p.val && groupFree s p.val &&
        (rollable s (getImage s 3).pending).contains p.val)) = false := by
      rw [up, pend, groupFree_iff.mpr free, roll]
      rfl
    have step := fun good => (phyRoll_eq ha p.val good).trans (if_neg (by rw [goes]; exact Bool.false_ne_true))
    exact ⟨phyRoll_trains ha ((step true).trans (if_pos rfl)) hb, phyRoll_fails ha ((step false).trans (if_neg (by decide))) hb⟩
  · refine leads_done (congrArg done ((phyRoll_eq ha p.val good).trans (if_pos ?_))) (.refl _)
    rcases h with h | h | ⟨v, hv, same, trains⟩
    · rw [h]
      rfl
    · rw [h, Bool.false_and, Bool.false_and]
      exact Bool.or_true _
    · have taken : groupFree s p.val = false := Bool.eq_false_iff.mpr fun free => groupFree_iff.mp free v hv same trains
      rw [taken, Bool.and_false, Bool.false_and]
      exact Bool.or_true _

end Sys2Proof.Machine
end

section
-- One proof after the other: a text of this length has more proofs waiting at once than the check has threads for.
set_option Elab.async false
/-! PROOFS. Tenant sessions and the streams of the host (R421 to R424, R430, R431). -/
namespace Sys2Proof.Machine

/-! ### What an inner command leaves alone (R423) -/

/-- The answer has put no response on record. -/
def Unanswered (s : State) (a : Answer) : Prop := a.st.mail.responses = s.mail.responses

section
variable {s : State} {sess : Option Nat} {a b : Answer}

theorem Unanswered.ite {c : Prop} [Decidable c] (h : Unanswered s a) (k : Unanswered s b) : Unanswered s (if c then a else b) := by
  split
  · exact h
  · exact k

/-- The refusals of a command on a context of a session put nothing on record. -/
theorem unanswered_withTenant {ctx : BitVec 8} {f : Nat → Context → Answer} (h : ∀ c x, Unanswered s (f c x)) :
    Unanswered s (withTenant s sess ctx f) := by
  cases sess with
  | none => rfl
  | some p => exact .ite rfl (.ite rfl (.ite rfl (h _ _)))

theorem finishSweep_responses (p c : Nat) : (finishSweep s p c).mail.responses = s.mail.responses := postNotice_responses _ _ _

theorem startRotation_responses (c : Nat) (x : Context) : (startRotation s c x).mail.responses = s.mail.responses := by
  unfold startRotation
  extract_lets
  split
  · exact finishSweep_responses _ _
  · rfl

theorem unanswered_secE2eKey (ctx : BitVec 8) (key : Bytes) (t : BitVec 64) (ms : List (BitVec 32)) :
    Unanswered s (ansSecE2eKey sess ctx key t ms s) := unanswered_withTenant fun _ _ => .ite rfl (.ite rfl rfl)

theorem unanswered_secRotate (ctx kind : BitVec 8) (key : Bytes) : Unanswered s (ansSecRotate sess ctx kind key s) :=
  .ite (unanswered_withTenant fun _ _ => .ite rfl rfl)
    (.ite rfl (.ite rfl (.ite rfl (.ite rfl (.ite rfl (.ite rfl (startRotation_responses _ _)))))))

theorem latchedRead_mail (path : RegPath) (off : Nat) : (latchedRead s path sess off).1.mail = s.mail := by
  unfold latchedRead
  split
  · rfl
  · split <;> rfl

theorem readRegs_mail (path : RegPath) (off n : Nat) : (readRegs s path sess off n).1.mail = s.mail := by
  induction n generalizing s off with
  | zero => rfl
  | succ n ih => exact (ih (off + 4)).trans (latchedRead_mail path off)

theorem unanswered_secRead (off : BitVec 32) (n : BitVec 16) : Unanswered s (ansSecRead sess off n s) := by
  cases sess with
  | none => rfl
  | some p => exact .ite rfl (congrArg Mail.responses (readRegs_mail _ _ _))

theorem unanswered_secIdeKey (part stream kset : BitVec 8) (keys : List Bytes) :
    Unanswered s (ansSecIdeKey sess part stream kset keys s) := .ite rfl (.ite rfl (.ite rfl rfl))

theorem unanswered_logRead (f : BitVec 32) (m : BitVec 16) : Unanswered s (ansLogRead sess f m s) := .ite rfl (.ite rfl rfl)

theorem unanswered_ledgerTimes (q : Req) (t : BitVec 64) (n d : BitVec 8) : Unanswered s (ansLedgerTimes q sess t n d s) := by
  unfold ansLedgerTimes withOpen
  exact .ite rfl (.ite rfl (.ite rfl rfl))

/-- What an inner command answers, it answers inside the session only. -/
theorem unanswered_inner (q : Req) (i : InnerCmd) : Unanswered s ((innerMeaning q i).2.2 s) := by
  cases i with
  | jobKey ctx key => exact unanswered_withTenant fun _ _ => rfl
  | e2eKey ctx key t ms => exact unanswered_secE2eKey ctx key t ms
  | rotate ctx kind key => exact unanswered_secRotate ctx kind key
  | secRead off n => exact unanswered_secRead off n
  | ideKey part stream kset keys => exact unanswered_secIdeKey part stream kset keys
  | noticeGet m t => rfl
  | logRead f m => exact unanswered_logRead f m
  | ledgerTimes t n d => exact unanswered_ledgerTimes q t n d
  | pwrRead => rfl
  | other code => rfl

theorem innerAnswer_unanswered (q : Req) (i : InnerCmd) : Unanswered s (innerAnswer q i s).2.2 := by
  unfold innerAnswer
  dsimp only
  split
  · rfl
  · exact unanswered_inner q i

end

/-! ### SEALED (R422, R423) -/

section
variable {s : State} {r : Req} {sid : BitVec 32} {p : Sys2Proof.Part} {w : Session} {n : BitVec 64} {i : BitVec 16} {c : BitVec 8}
  {inner : InnerCmd} {ok' : Bool}

theorem runsAs_sealed (h : wellFormed (.sealed r sid n ok' i c inner) = true) :
    RunsAs (.sealed r sid n ok' i c inner) r 0x0906 setWork (ansSealed r sid n ok' i c inner) s := if_pos h

theorem ansSealed_noSession (h : sessionOf s sid = none) : ansSealed r sid n ok' i c inner s = err s stDenied 0 := by
  unfold ansSealed
  rw [h]

theorem ansSealed_stale (hs : sessionOf s sid = some (p, w)) (h : seqFresh w n = false ∨ ok' = false) :
    ansSealed r sid n ok' i c inner s = err s stDenied 0 := by
  unfold ansSealed
  rw [hs]
  exact if_pos (by rcases h with h | h <;> simp [h])

/-- R423: the inner command runs once the session has seen the SEQ; its response is sealed. -/
theorem ansSealed_runs (hs : sessionOf s sid = some (p, w)) (hf : seqFresh w n = true) (hi : ∀ m t, inner ≠ .noticeGet m t)
    {code : BitVec 16} {legal : BitVec 32} {a : Answer} {u : State} {q : Req}
    (hu : u = { s with mail := { s.mail with sessions := s.mail.sessions.setIfInBounds p.val (some { w with last := some n }) } })
    (hq : q = { mbx := r.mbx, path := .sealed p, seq := i, ctx := c, irq := false }) (ha : innerAnswer q inner u = (code, legal, a)) :
    ansSealed r sid n true i c inner s = ok a.st (sealInner w.kRsp sid n (encodeResponse
      (innerResponse a.st q code a.status a.conflict a.detail (a.legal.getD legal) a.body))) := by
  subst hu hq
  unfold ansSealed
  rw [hs]
  refine (if_neg (by simp [hf])).trans ?_
  dsimp only [modMail]
  split
  · exact absurd rfl (hi _ _)
  · rw [ha]

end

/-! ### A command on a context of the session's partition (R423) -/

section
variable {s : State} {ctx : BitVec 8} {f : Nat → Context → Answer} {c p : Nat}

theorem withTenant_outside : withTenant s none ctx f = err s stDenied 0 := rfl

theorem withTenant_closed (hc : c = ctx.toNat) (hn : c < 64) (h : (getCtx s c).st = .closed) :
    withTenant s (some p) ctx f = conflict s 5 0 0x2 := by
  subst hc
  exact (if_neg (by omega)).trans (if_pos h)

theorem withTenant_foreign (hc : c = ctx.toNat) (hn : c < 64) (h : (getCtx s c).st ≠ .closed) (hp : (getCtx s c).part ≠ p) :
    withTenant s (some p) ctx f = err s stDenied 0 := by
  subst hc
  exact (if_neg (by omega)).trans ((if_neg h).trans (if_pos hp))

theorem withTenant_own (hc : c = ctx.toNat) (hn : c < 64) (h : (getCtx s c).st ≠ .closed) (hp : (getCtx s c).part = p) :
    withTenant s (some p) ctx f = f c (getCtx s c) := by
  subst hc
  exact (if_neg (by omega)).trans ((if_neg h).trans (if_neg (not_not.mpr hp)))

end

section
variable {s : State} {r : Req} {sid : BitVec 32} {p : Sys2Proof.Part} {w : Session}

theorem serves_sealed (hr : Ready 0x0906 setWork r s) (hs : sessionOf s sid = some (p, w)) {n : BitVec 64} {i code : BitVec 16}
    {c : BitVec 8} {inner : InnerCmd} {legal : BitVec 32} {a : Answer} {q : Req} {u : State}
    (wf : wellFormed (.sealed r sid n true i c inner) = true) (hf : seqFresh w n = true) (hi : ∀ m t, inner ≠ .noticeGet m t)
    (hu : u = { s with mail := { s.mail with sessions := s.mail.sessions.setIfInBounds p.val (some { w with last := some n }) } })
    (hq : q = { mbx := r.mbx, path := .sealed p, seq := i, ctx := c, irq := false }) (ha : innerAnswer q inner u = (code, legal, a)) :
    Serves (.sealed r sid n true i c inner) s a.st r 0x0906 0x00 (sealInner w.kRsp sid n (encodeResponse
      (innerResponse a.st q code a.status a.conflict a.detail (a.legal.getD legal) a.body))) := by
  refine serves_ok (runsAs_sealed wf) hr (ansSealed_runs hs hf hi hu hq ha) ?_
  have quiet : Unanswered u (innerAnswer q inner u).2.2 := innerAnswer_unanswered q inner
  rw [ha] at quiet
  exact quiet.trans (by rw [hu])

/-- SEC_JOB_KEY inside a session. -/
theorem serves_sealedJobKey (hr : Ready 0x0906 setWork r s) (hs : sessionOf s sid = some (p, w)) {n : BitVec 64} {i : BitVec 16}
    {c k : BitVec 8} {key : Bytes} {u : State} {x : Response} (hk : key.length = 32) (hf : seqFresh w n = true) (hn : k.toNat < 64)
    (ho : (getCtx s k.toNat).st ≠ .closed) (hp : (getCtx s k.toNat).part = p.val)
    (hu : u = { s with mail := { s.mail with sessions := s.mail.sessions.setIfInBounds p.val (some { w with last := some n }) } })
    (hx : x = { mbx := r.mbx.val, path := .sealed p, seq := i, cmd := 0x0902, status := 0, dev := BitVec.ofNat 8 (devCode (devNow s))
                conflict := 0, detail := 0, legal := setWork, time := s.time.now, body := [] }) :
    Serves (.sealed r sid n true i c (.jobKey k key)) s (setCtx u k.toNat { getCtx s k.toNat with
      sec := { (getCtx s k.toNat).sec with job := some key, jobPrev := (getCtx s k.toNat).sec.job } })
      r 0x0906 0x00 (sealInner w.kRsp sid n (encodeResponse x)) := by
  have same : devNow u = devNow s := by
    subst hu
    exact devNow_congr rfl rfl rfl
  have ctxs : getCtx u k.toNat = getCtx s k.toNat := by
    subst hu
    rfl
  have time : u.time = s.time := by rw [hu]
  have ans : innerAnswer { mbx := r.mbx, path := .sealed p, seq := i, ctx := c, irq := false } (.jobKey k key) u =
      (0x0902, setWork, ok (setJob u k.toNat key) []) := by
    unfold innerAnswer
    dsimp only [innerMeaning]
    rw [if_neg (by simp [same, hr.2.2])]
    have own : ansSecJobKey (some p.val) k key u = ok (setJob u k.toNat key) [] :=
      withTenant_own rfl hn (by rwa [ctxs]) (by rwa [ctxs])
    exact congrArg (fun a => ((0x0902 : BitVec 16), setWork, a)) own
  have wf : wellFormed (.sealed r sid n true i c (.jobKey k key)) = true := beq_iff_eq.mpr hk
  have served := serves_sealed hr hs wf hf (fun _ _ => InnerCmd.noConfusion) hu rfl ans
  have shown : devNow (setJob u k.toNat key) = devNow u := devNow_congr rfl rfl rfl
  have told : innerResponse (setJob u k.toNat key) { mbx := r.mbx, path := .sealed p, seq := i, ctx := c, irq := false } 0x0902 stOk 0 0
      setWork [] = x := by
    rw [innerResponse, shown, same, hx, ← time]
    rfl
  rw [← told, ← ctxs]
  exact served

/-! ### OPEN and CLOSE (R421) -/

theorem ansSessClose_noSession (h : sessionOf s sid = none) : ansSessClose sid s = err s stDenied 0 := by
  unfold ansSessClose
  rw [h]

theorem ansSessClose_ends (h : sessionOf s sid = some (p, w)) : ansSessClose sid s =
    ok { s with mail := { s.mail with sessions := s.mail.sessions.setIfInBounds p.val none } } [] := by
  unfold ansSessClose
  rw [h]
  rfl

section
variable {part : BitVec 8} {ct : Bytes}

theorem ansSessOpen_outOfRange (h : partCount s.hub.layout ≤ part.toNat) : ansSessOpen part ct s = err s stBadArg 0 := if_pos h

theorem ansSessOpen_plain (h : part.toNat < partCount s.hub.layout) (hc : isConf s part.toNat = false) :
    ansSessOpen part ct s = conflict s 5 0 0 := (if_neg (by omega)).trans (if_pos (by rw [hc]; rfl))

theorem sessOpen_opens (hr : Ready 0x0906 setWork r s) (wf : wellFormed (.sessOpen r part ct) = true)
    (h : part.toNat < partCount s.hub.layout) (hc : isConf s part.toNat = true) : ∃ t w, exec (.sessOpen r part ct) s = .next t ∧
      Answers s t r 0x0906 0x00 (leBytes 4 w.sid.toNat) ∧ t.mail.sessions.getD part.toNat none = some w ∧ w.last = none ∧
      w.kReq = sessionKey s true part ct ∧ w.kRsp = sessionKey s false part ct ∧
      (∀ q, q ≠ part.toNat → t.mail.sessions.getD q none = s.mail.sessions.getD q none) ∧ Apart s t ∧ t.hub.conf = s.hub.conf := by
  obtain ⟨w, hw⟩ : ∃ w : Session, w = { sid := Config.freeValue s.free 32, kReq := sessionKey s true part ct
                                        kRsp := sessionKey s false part ct, last := none } := ⟨_, rfl⟩
  have ans : ansSessOpen part ct s = ok (modMail { s with free := s.free + 1 } fun m => { m with
      sessions := m.sessions.setIfInBounds part.toNat (some w) }) (leBytes 4 w.sid.toNat) := by
    rw [hw]
    exact (if_neg (by omega)).trans (if_neg (by rw [hc]; decide))
  have few := partCount_le s.hub.layout
  obtain ⟨t, run, kept, told⟩ := serves_ok (show RunsAs (.sessOpen r part ct) r 0x0906 setWork (ansSessOpen part ct) s from if_pos wf)
    hr ans rfl
  refine ⟨t, w, run, told, ?_, by rw [hw], by rw [hw], by rw [hw], fun q hq => ?_, ?_, kept.hub.conf⟩
  · rw [kept.mail.sessions]
    exact vector_getD_set_same _ (by omega) _ _
  · rw [kept.mail.sessions]
    exact vector_getD_set_other _ hq _ _
  · exact ⟨kept.out.opt, kept.out.mem, kept.out.ctxs, kept.out.slots, kept.out.lcores, kept.out.sec, kept.out.pwr,
      congrArg TimeBlock.now kept.out.time, kept.out.latches, kept.out.pending⟩

end

end

/-! ### SEC_READ and SEC_IDE_KEY (R424, R430) -/

section
variable {s : State} {r : Req} {p : Sys2Proof.Part}

section
variable {off : BitVec 32} {n : BitVec 16}

theorem ansSecRead_reads (h1 : 4 ≤ n.toNat) (h2 : n.toNat ≤ 3968) (h3 : n.toNat % 4 = 0) (h4 : off.toNat % 4 = 0)
    (h : ∀ i, i < n.toNat / 4 → readable s p.val (off.toNat + 4 * i) = true) : ansSecRead (some p.val) off n s =
      ok (readRegs s (.mailbox 18) (some p.val) off.toNat (n.toNat / 4)).1 (readRegs s (.mailbox 18) (some p.val) off.toNat (n.toNat / 4)).2 := by
  refine if_neg ?_
  have all : ((List.range (n.toNat / 4)).all fun i => readable s p.val (off.toNat + 4 * i)) = true :=
    List.all_eq_true.mpr fun i hi => h i (List.mem_range.mp hi)
  rw [all, within_iff.mpr ⟨h1, h2⟩, h3, h4]
  decide

theorem ansSecRead_bad (h : n.toNat < 4 ∨ 3968 < n.toNat ∨ n.toNat % 4 ≠ 0 ∨ off.toNat % 4 ≠ 0 ∨
    (∃ i, i < n.toNat / 4 ∧ readable s p.val (off.toNat + 4 * i) = false)) : ansSecRead (some p.val) off n s = err s stBadArg 0 := by
  refine if_pos ?_
  simp only [Bool.or_eq_true, Bool.not_eq_true', bne_iff_ne, List.all_eq_false, List.mem_range, Bool.not_eq_true]
  rw [← Bool.not_eq_true, within_iff]
  by_cases range : 4 ≤ n.toNat ∧ n.toNat ≤ 3968
  · have rest : n.toNat % 4 ≠ 0 ∨ off.toNat % 4 ≠ 0 ∨ (∃ i, i < n.toNat / 4 ∧ readable s p.val (off.toNat + 4 * i) = false) := by
      rcases h with h | h | h
      · omega
      · omega
      · exact h
    tauto
  · exact .inl (.inl (.inl range))

end

section
variable {part stream kset : BitVec 8} {keys : List Bytes}

theorem ansSecIdeKey_unsupported {sess : Option Nat} (h : s.opt.conf = false) :
    ansSecIdeKey sess part stream kset keys s = err s stUnsupported 0 := if_pos (by rw [h]; rfl)

theorem ansSecIdeKey_foreign (h : s.opt.conf = true) (hp : part.toNat ≠ p.val) :
    ansSecIdeKey (some p.val) part stream kset keys s = err s stDenied 0 :=
  (if_neg (by simp [h])).trans (if_pos (by simp [Ne.symm hp]))

theorem ansSecIdeKey_bad (h : s.opt.conf = true) (hp : part.toNat = p.val) (hb : isConf s p.val = false ∨ 1 < kset.toNat) :
    ansSecIdeKey (some p.val) part stream kset keys s = err s stBadArg 0 := by
  refine (if_neg (by simp [h])).trans ((if_neg (by simp [hp])).trans (if_pos ?_))
  rw [hp]
  rcases hb with hb | hb <;> simp [hb]

/-- R430: the stream of a partition and one of its two key sets are named. -/
def ideNamed (s : State) (p : Nat) (stream kset : BitVec 8) (keys : List Bytes) : State :=
  modSecCore s fun k => { k with
    ideStream := k.ideStream.setIfInBounds p stream
    ideKeys := k.ideKeys.setIfInBounds p ((k.ideKeys.getD p (Vector.replicate 2 [])).setIfInBounds kset.toNat keys) }

theorem secIdeKey_keeps (hp' : r.path = .sealed p) (hr : Ready 0x0908 setWork r s)
    (wf : wellFormed (.secIdeKey r part stream kset keys) = true) (h : s.opt.conf = true) (hp : part.toNat = p.val)
    (hc : isConf s p.val = true) (hk : kset.toNat ≤ 1) : ∃ t, exec (.secIdeKey r part stream kset keys) s = .next t ∧
      Answers s t r 0x0908 0x00 [BitVec.ofNat 8 (s.sec.ide.getLsbD p.val).toNat] ∧ t.sec.ideStream.getD p.val 0 = stream ∧
      (t.sec.ideKeys.getD p.val (Vector.replicate 2 [])).getD kset.toNat [] = keys ∧ t.sec.ide = s.sec.ide ∧ t.mem = s.mem ∧
      t.ctxs = s.ctxs := by
  have runs : RunsAs (.secIdeKey r part stream kset keys) r 0x0908 setWork (ansSecIdeKey (some p.val) part stream kset keys) s := by
    have e : sessOf r.path = some p.val := by rw [hp']; rfl
    rw [← e]
    exact if_pos wf
  have ans : ansSecIdeKey (some p.val) part stream kset keys s =
      ok (ideNamed s p.val stream kset keys) [BitVec.ofNat 8 (s.sec.ide.getLsbD p.val).toNat] := by
    refine (if_neg (by simp [h])).trans ((if_neg (by simp [hp])).trans ((if_neg ?_).trans (by rw [hp]; rfl)))
    rw [hp]
    simp [hc, hk]
  obtain ⟨t, run, kept, told⟩ := serves_ok runs hr ans rfl
  have sec : t.sec = (ideNamed s p.val stream kset keys).sec := kept.out.sec
  refine ⟨t, run, told, ?_, ?_, by rw [sec]; rfl, kept.out.mem, kept.out.ctxs⟩
  · rw [sec]
    exact vector_getD_set_same _ p.isLt _ _
  · have slot : t.sec.ideKeys.getD p.val (Vector.replicate 2 []) =
        (s.sec.ideKeys.getD p.val (Vector.replicate 2 [])).setIfInBounds kset.toNat keys := by
      rw [sec]
      exact vector_getD_set_same _ p.isLt _ _
    rw [slot]
    exact vector_getD_set_same _ (by omega) _ _

end

/-! ### The Secure state of a stream (R431) -/

theorem anyKey_iff (v : Vector (List Bytes) 2) : v.toList.any (fun k => !k.isEmpty) = true ↔ ∃ k < 2, v.getD k [] ≠ [] := by
  rw [List.any_eq_true]
  constructor
  · rintro ⟨x, hx, some_⟩
    obtain ⟨k, hk, rfl⟩ := List.getElem_of_mem hx
    have two : k < 2 := by simpa using hk
    exact ⟨k, two, by simpa [Vector.getD, two] using some_⟩
  · rintro ⟨k, hk, some_⟩
    exact ⟨v[k], by simp, by simpa [Vector.getD, hk] using some_⟩

theorem ideStream_enters (hc : isConf s p.val = true)
    (hk : ∃ k < 2, (s.sec.ideKeys.getD p.val (Vector.replicate 2 [])).getD k [] ≠ []) :
    Leads (.ideStreamSecure p) s { s with sec := { s.sec with ide := s.sec.ide ||| BitVec.ofNat 4 (2 ^ p.val) } } :=
  leads_done (congrArg done (if_pos (by rw [hc, anyKey_iff _ |>.mpr hk]; rfl))) (.refl _)

theorem ideStream_rests (h : isConf s p.val = false ∨ (∀ k < 2, (s.sec.ideKeys.getD p.val (Vector.replicate 2 [])).getD k [] = [])) :
    exec (.ideStreamSecure p) s = done s := by
  refine congrArg done (if_neg ?_)
  rw [Bool.and_eq_true, anyKey_iff]
  rintro ⟨conf, k, hk, some_⟩
  exact h.elim (by simp [conf]) fun h => some_ (h k hk)

/-- What moves but the security core's counts of tag failures leaves the rest of the core. -/
theorem secKept_of_frame {l : List Part} {t : State} (h : AllBut l s t) (hl : Part.secKept ∉ l := by decide) :
    t.sec = { s.sec with tagFail := t.sec.tagFail } := h .secKept hl

/-- The stream of a partition is no longer Secure. -/
def ideOut (s : State) (p : Nat) : State := modSecCore s fun k => { k with ide := k.ide &&& ~~~(BitVec.ofNat 4 (2 ^ p)) }

theorem ideLost_secure {p : Nat} (h : s.sec.ide.getLsbD p = true) :
    ideLost p s = postNotice (fenceOpen (openCtxs s p) (ideOut s p)) 0x000F none (secEventBody 4 p 0xFF) := if_pos h

theorem mem_openCtxs {c q : Nat} (hc : c < 64) (ho : (getCtx s c).st ≠ .closed) (hp : (getCtx s c).part = q) : c ∈ openCtxs s q := by
  simp [openCtxs, hc, ho, hp]

theorem ideLeave_fences (h : s.sec.ide.getLsbD p.val = true) : ∃ t, exec (.ideLeaveSecure p) s = .next t ∧
    t.sec.ide.getLsbD p.val = false ∧ (∀ q, q < 4 → q ≠ p.val → t.sec.ide.getLsbD q = s.sec.ide.getLsbD q) ∧
    (∀ c, c < 64 → (getCtx s c).st = .opened → (getCtx s c).part = p.val → (getCtx t c).st = .fencing) ∧
    (∀ c, c < 64 → (getCtx s c).st = .closed → (getCtx t c).st = .closed) := by
  obtain ⟨t, run, kept⟩ : Leads (.ideLeaveSecure p) s (fenceOpen (openCtxs s p.val) (ideOut s p.val)) :=
    leads_done (congrArg done (ideLost_secure h)) (settled_postNotice _ _ _ _)
  have ide : t.sec.ide = s.sec.ide &&& ~~~(BitVec.ofNat 4 (2 ^ p.val)) := by
    rw [kept.out.sec]
    exact congrArg Sec.ide (secKept_of_frame (frame_fenceOpen (openCtxs s p.val) (ideOut s p.val)))
  have ctx (c : Nat) : getCtx t c = getCtx (fenceOpen (openCtxs s p.val) (ideOut s p.val)) c := getCtx_congr kept.out.ctxs c
  refine ⟨t, run, ?_, fun q hq hn => ?_, fun c hc ho hp => ?_, fun c hc ho => ?_⟩
  · rw [ide, BitVec.getLsbD_and, BitVec.getLsbD_not, getLsbD_twoPow _ p.isLt]
    simp
  · rw [ide, BitVec.getLsbD_and, BitVec.getLsbD_not, getLsbD_twoPow _ hq, decide_eq_false (Ne.symm hn), decide_eq_true hq]
    simp
  · rw [ctx]
    exact (getCtx_fenceOpen_open (s := ideOut s p.val) hc (mem_openCtxs hc (by rw [ho]; decide) hp) ho).1
  · rw [ctx, getCtx_fenceOpen_other _ (.inr (by rw [show getCtx (ideOut s p.val) c = getCtx s c from rfl, ho]; decide))]
    exact ho

theorem ideLeave_rests (h : s.sec.ide.getLsbD p.val = false) : exec (.ideLeaveSecure p) s = done s :=
  congrArg done (if_neg (by rw [h]; decide))

theorem runsAs_secRead (hp : r.path = .sealed p) (off : BitVec 32) (n : BitVec 16) :
    RunsAs (.secRead r off n) r 0x0907 setLive (ansSecRead (some p.val) off n) s := by
  have e : sessOf r.path = some p.val := by rw [hp]; rfl
  rw [← e]
  rfl

theorem runsAs_secRead_host (hp : r.path = .pcie) (off : BitVec 32) (n : BitVec 16) :
    RunsAs (.secRead r off n) r 0x0907 setLive (ansSecRead none off n) s := by
  have e : sessOf r.path = none := by rw [hp]; rfl
  rw [← e]
  rfl

theorem runsAs_secIdeKey (hp : r.path = .sealed p) {part stream kset : BitVec 8} {keys : List Bytes}
    (wf : wellFormed (.secIdeKey r part stream kset keys) = true) :
    RunsAs (.secIdeKey r part stream kset keys) r 0x0908 setWork (ansSecIdeKey (some p.val) part stream kset keys) s := by
  have e : sessOf r.path = some p.val := by rw [hp]; rfl
  rw [← e]
  exact if_pos wf

end

/-- Settles O42: OPEN, CLOSE and SEALED, the reads of a session, and the streams of the host. -/
theorem sessionsAndTenantsAreSealed : Obligations.SessionsAndTenantsAreSealed :=
  ⟨fun r s hr => ⟨serves_ok rfl hr rfl rfl,
      fun part ct wf => ⟨sessOpen_opens hr wf, fun h hc => conflicts_of (if_pos wf) hr (ansSessOpen_plain h hc),
        fun h => refuses_err (if_pos wf) hr (ansSessOpen_outOfRange h)⟩,
      fun sid h => ⟨refuses_err rfl hr (ansSessClose_noSession h),
        fun n ok i c inner wf => refuses_err (runsAs_sealed wf) hr (ansSealed_noSession h)⟩,
      fun sid p w h => ⟨serves_ok rfl hr (ansSessClose_ends h) rfl,
        fun n ok i c inner wf old => refuses_err (runsAs_sealed wf) hr (ansSealed_stale h old),
        fun n i code c inner legal a q u wf hf hi hu hq ha => serves_sealed hr h wf hf hi hu hq ha,
        fun n i c k key u x hk hf hn ho hp hu hx => serves_sealedJobKey hr h hk hf hn ho hp hu hx⟩⟩,
    fun r p s => ⟨fun off n hp hr => ⟨fun h1 h2 h3 h4 h => serves_ok (runsAs_secRead hp off n) hr (ansSecRead_reads h1 h2 h3 h4 h)
          (congrArg Mail.responses (readRegs_mail _ _ _)),
        fun h => refuses_err (runsAs_secRead hp off n) hr (ansSecRead_bad h)⟩,
      fun off n hp hr => refuses_err (runsAs_secRead_host hp off n) hr rfl,
      fun part stream kset keys hp hr wf => ⟨fun h => refuses_err (runsAs_secIdeKey hp wf) hr (ansSecIdeKey_unsupported h),
        secIdeKey_keeps hp hr wf, fun h hne => refuses_err (runsAs_secIdeKey hp wf) hr (ansSecIdeKey_foreign h hne),
        fun h he hb => refuses_err (runsAs_secIdeKey hp wf) hr (ansSecIdeKey_bad h he hb)⟩,
      ideStream_enters, fun rest h => exec_idle (ideStream_rests h) rest, ideLeave_fences,
      fun rest h => exec_idle (ideLeave_rests h) rest⟩⟩

end Sys2Proof.Machine
end

section
-- One proof after the other: a text of this length has more proofs waiting at once than the check has threads for.
set_option Elab.async false
/-! PROOFS. A fence and a lockout of a context with no step under way, and the keys of contexts (R416, R425 to R428). -/
namespace Sys2Proof.Machine

/-! ### A fence of a context that holds no record and has no step under way (R381) -/

/-- What a fence changes where no step and no record of the context is in memory. -/
def quietParts : List Part := [.fab, .engines, .slots, .lcores, .ctxs]

section
variable {s : State} {c : Nat}

/-- With no step armed or voted a fence begins with the marks of the job and the Peal of its context alone. -/
theorem fenceJob_quiet (hc : c < 64) (h1 : (getCtx s c).led.st ≠ .armed) (h2 : (getCtx s c).led.st ≠ .voted) :
    AllBut [.ctxs] s (fenceJob s c) ∧ (getCtx (fenceJob s c) c).led = { (getCtx s c).led with redo := true } ∧
      (getCtx (fenceJob s c) c).sec = (getCtx s c).sec := by
  unfold fenceJob
  extract_lets l s1 s2 p s3
  have calm : s1 = s := if_neg (not_or.mpr ⟨h1, h2⟩)
  have marked : AllBut [.ctxs] s s2 := by
    unfold s2
    rw [calm]
    exact frame_modLed s c _
  have led2 : getCtx s2 c = { getCtx s c with led := { (getCtx s c).led with redo := true } } := by
    unfold s2
    rw [calm]
    exact getCtx_modCtx_same s hc _
  have peal : AllBut [.ctxs] s2 s3 ∧ (getCtx s3 c).led = (getCtx s2 c).led ∧ (getCtx s3 c).sec = (getCtx s2 c).sec := by
    have failed : AllBut [.ctxs] s2 (pealFailWith s2 c 5) ∧ (getCtx (pealFailWith s2 c 5) c).led = (getCtx s2 c).led ∧
        (getCtx (pealFailWith s2 c 5) c).sec = (getCtx s2 c).sec :=
      ⟨frame_modPeal s2 c _, by rw [pealFailWith, modPeal, getCtx_modCtx_same s2 hc], by rw [pealFailWith, modPeal, getCtx_modCtx_same s2 hc]⟩
    unfold s3
    split
    · exact failed
    · exact failed
    · exact ⟨.refl _ _, rfl, rfl⟩
  obtain ⟨moved, led3, sec3⟩ := peal
  refine ⟨(marked.trans moved).trans (frame_modPeal s3 c _), ?_, ?_⟩
  · rw [modPeal, getCtx_modCtx_same s3 hc]
    show (getCtx s3 c).led = _
    rw [led3, led2]
  · rw [modPeal, getCtx_modCtx_same s3 hc]
    show (getCtx s3 c).sec = _
    rw [sec3, led2]

theorem dropRecords_none (h : (getCtx s c).led.records = []) : dropRecords s c = s := by rw [dropRecords, h, List.foldl_nil]

/-- The cores that serve a context stop its streams for a fence. -/
def coresStopped (s : State) (c : Nat) : State :=
  (servingCores s c).foldl (fun s n => modC (stopStreams s n true fun t => t.ctx == c) n fun k =>
    { k with frozen := false, pwrMode := if k.frozen then 2 else k.pwrMode }) s

theorem fenceBegun_eq : fenceBegun s c = dropPrograms (coresStopped (dropRecords (fenceJob s c) c) c) fun p => p.ctx == c := rfl

theorem frame_coresStopped : AllBut [.slots, .lcores] s (coresStopped s c) :=
  .foldl (fun s n => (frame_stopStreams s n _ _).trans (frame_modC _ n _).mono) _ _

theorem fenceBegun_quiet (hc : c < 64) (h1 : (getCtx s c).led.st ≠ .armed) (h2 : (getCtx s c).led.st ≠ .voted)
    (hr : (getCtx s c).led.records = []) :
    AllBut quietParts s (fenceBegun s c) ∧ (getCtx (fenceBegun s c) c).sec = (getCtx s c).sec := by
  obtain ⟨job, led, sec⟩ := fenceJob_quiet hc h1 h2
  rw [fenceBegun_eq, dropRecords_none (by rw [led]; exact hr)]
  generalize fenceJob s c = u at job sec ⊢
  have cores : AllBut [.slots, .lcores] u (coresStopped u c) := frame_coresStopped
  generalize coresStopped u c = v at cores ⊢
  have programs := frame_dropPrograms v fun p => p.ctx == c
  refine ⟨job.mono.trans (cores.mono.trans programs.mono), ?_⟩
  rw [getCtx_congr (programs .ctxs (by decide)), getCtx_congr (cores .ctxs (by decide)), sec]

/-- A fence of a context with no record and no step under way leaves memory and the secrets of the context. -/
theorem startFence_quiet (hc : c < 64) (h1 : (getCtx s c).led.st ≠ .armed) (h2 : (getCtx s c).led.st ≠ .voted)
    (hr : (getCtx s c).led.records = []) (w : Option (Nat × Req)) :
    AllBut quietParts s (startFence s c w) ∧ (getCtx (startFence s c w) c).sec = (getCtx s c).sec := by
  by_cases closed : (getCtx s c).st = .closed
  · rw [startFence_closed closed]
    exact ⟨.refl _ _, rfl⟩
  by_cases fencing : (getCtx s c).st = .fencing
  · rw [startFence_fencing fencing]
    exact ⟨(frame_modCtx s c _).mono, by rw [getCtx_modCtx_same s hc]⟩
  obtain ⟨begun, sec⟩ := fenceBegun_quiet hc h1 h2 hr
  rw [startFence_begins closed fencing]
  generalize fenceBegun s c = u at begun sec ⊢
  refine ⟨begun.trans (frame_modCtx u c _).mono, ?_⟩
  rw [getCtx_modCtx_same u hc]
  exact sec

/-! ### Lockouts (R416) -/

theorem lockout_none (h : (getCtx s c).sec.tags.length < 16) : lockout s c = s := by
  have few := List.length_filter_le (fun t => decide (s.ticks < t + 3600 * ticksPerSec)) (getCtx s c).sec.tags
  exact if_neg (by simp; omega)

/-- A context without keys, marked as locked out. -/
def keysTaken (s : State) (c : Nat) : State := modSec s c fun k => { k with keys := Vector.replicate 2 none, locked := true }

/-- A context fenced and locked out, before its notice. -/
def lockedOut (s : State) (c : Nat) : State :=
  modSecCore (keysTaken (startFence s c none) c) fun k =>
    { k with lockouts := k.lockouts.setIfInBounds (getCtx s c).part (k.lockouts.getD (getCtx s c).part 0 + 1) }

theorem lockout_eq : lockout s c = s ∨ AllBut [.mail, .outbox] (lockedOut s c) (lockout s c) := by
  unfold lockout
  dsimp only
  split
  · exact .inr (frame_postNotice (lockedOut s c) _ _ _)
  · exact .inl rfl

theorem lockedOut_ctxs : (lockedOut s c).ctxs = (keysTaken (startFence s c none) c).ctxs := rfl

theorem lockout_others {k : Nat} (hk : k ≠ c) : getCtx (lockout s c) k = getCtx s k := by
  rcases lockout_eq (s := s) (c := c) with same | told
  · rw [same]
  · rw [getCtx_congr (told .ctxs (by decide)), getCtx_congr lockedOut_ctxs, keysTaken, modSec, getCtx_modCtx_other _ hk,
      startFence_others s c none hk]

/-- Where one context alone is near its bound, it alone is locked out. -/
theorem lockouts_one (hc : c < 64) (h : ∀ k, k ≠ c → (getCtx s k).sec.tags.length < 16) : lockouts s = lockout s c := by
  have none_ (l : List Nat) (s : State) (hl : ∀ k ∈ l, (getCtx s k).sec.tags.length < 16) : l.foldl lockout s = s := by
    induction l with
    | nil => rfl
    | cons a l ih =>
      rw [List.foldl_cons, lockout_none (hl a List.mem_cons_self)]
      exact ih fun k hk => hl k (List.mem_cons_of_mem a hk)
  obtain ⟨l1, l2, hl⟩ := List.append_of_mem (List.mem_range.mpr hc)
  have once : (l1 ++ c :: l2).Nodup := hl ▸ List.nodup_range
  have before : ∀ k ∈ l1, k ≠ c := fun k hk e => (List.disjoint_of_nodup_append once) hk (e ▸ List.mem_cons_self)
  have after : ∀ k ∈ l2, k ≠ c := fun k hk e => (List.nodup_cons.mp (List.Nodup.of_append_right once)).1 (e ▸ hk)
  rw [lockouts, hl, List.foldl_append, List.foldl_cons, none_ l1 s fun k hk => h k (before k hk)]
  refine none_ l2 _ fun k hk => ?_
  rw [lockout_others (after k hk)]
  exact h k (after k hk)

/-- The lockout of a context with no record and no step under way leaves memory and the current slot of its keys. -/
theorem lockout_quiet (hc : c < 64) (h1 : (getCtx s c).led.st ≠ .armed) (h2 : (getCtx s c).led.st ≠ .voted)
    (hr : (getCtx s c).led.records = []) : (lockout s c).mem = s.mem ∧ (getCtx (lockout s c) c).sec.epoch = (getCtx s c).sec.epoch := by
  obtain ⟨fenced, sec⟩ := startFence_quiet hc h1 h2 hr none
  rcases lockout_eq (s := s) (c := c) with same | told
  · rw [same]
    exact ⟨rfl, rfl⟩
  · have mem : (lockedOut s c).mem = (startFence s c none).mem := rfl
    refine ⟨Eq.trans (told .mem (by decide)) (mem.trans (fenced .mem (by decide))), ?_⟩
    rw [getCtx_congr (told .ctxs (by decide)), getCtx_congr lockedOut_ctxs, keysTaken, modSec, getCtx_modCtx_same _ hc, ← sec]

end

/-! ### SEC_JOB_KEY and SEC_E2E_KEY (R425, R426) -/

section
variable {s : State} {r : Req} {p : Sys2Proof.Part} {ctx : BitVec 8} {c : Nat} {key : Bytes}

theorem sessOf_sealed (h : r.path = .sealed p) : sessOf r.path = some p.val := by rw [h]; rfl
theorem sessOf_pcie (h : r.path = .pcie) : sessOf r.path = none := by rw [h]; rfl

section
variable {sess : Option Nat}

theorem runsAs_secJobKey (h : sessOf r.path = sess) (hk : key.length = 32) :
    RunsAs (.secJobKey r ctx key) r 0x0902 setWork (ansSecJobKey sess ctx key) s := by
  rw [← h]
  exact if_pos (beq_iff_eq.mpr hk)

theorem runsAs_secE2eKey (h : sessOf r.path = sess) {ts : BitVec 64} {ms : List (BitVec 32)}
    (wf : wellFormed (.secE2eKey r ctx key ts ms) = true) :
    RunsAs (.secE2eKey r ctx key ts ms) r 0x0903 setWork (ansSecE2eKey sess ctx key ts ms) s := by
  rw [← h]
  exact if_pos wf

theorem runsAs_secRotate (h : sessOf r.path = sess) {kind : BitVec 8} (wf : wellFormed (.secRotate r ctx kind key) = true) :
    RunsAs (.secRotate r ctx kind key) r 0x0904 setWork (ansSecRotate sess ctx kind key) s := by
  rw [← h]
  exact if_pos wf

end

section
variable {ts : BitVec 64} {ms : List (BitVec 32)}

theorem ansSecE2eKey_takes (hc : c = ctx.toNat) (hn : c < 64) (ho : (getCtx s c).st ≠ .closed) (hp : (getCtx s c).part = p.val)
    (hm : ms ≠ []) (few : ms.length + windowsHeld s c (!(getCtx s c).sec.e2eCur) ≤ 256) (low : ∀ a ∈ ms, a.toNat < 2 ^ 17) :
    ansSecE2eKey (some p.val) ctx key ts ms s = ok (setCtx s c { getCtx s c with sec := { (getCtx s c).sec with
      e2e := (getCtx s c).sec.e2e.setIfInBounds (!(getCtx s c).sec.e2eCur).toNat
        (some { key := key, members := ms.map fun a => a.setWidth 17 })
      e2eSwitch := some (armTime s (ts.setWidth 40)), e2eErase := false
      windows := (getCtx s c).sec.windows.filter fun w => w.slot != !(getCtx s c).sec.e2eCur } }) [] := by
  have inRange : (ms.any fun a => decide (2 ^ 17 ≤ a.toNat)) = false :=
    List.any_eq_false.mpr fun a ha => by simpa using low a ha
  refine (withTenant_own hc hn ho hp).trans ((if_neg (by omega)).trans ((if_neg ?_).trans rfl))
  rw [inRange, List.isEmpty_eq_false_iff.mpr hm]
  decide

theorem ansSecE2eKey_full (hc : c = ctx.toNat) (hn : c < 64) (ho : (getCtx s c).st ≠ .closed) (hp : (getCtx s c).part = p.val)
    (many : 256 < ms.length + windowsHeld s c (!(getCtx s c).sec.e2eCur)) :
    ansSecE2eKey (some p.val) ctx key ts ms s = err s stNoResource 0 := (withTenant_own hc hn ho hp).trans (if_pos many)

theorem ansSecE2eKey_bad (hc : c = ctx.toNat) (hn : c < 64) (ho : (getCtx s c).st ≠ .closed) (hp : (getCtx s c).part = p.val)
    (few : ms.length + windowsHeld s c (!(getCtx s c).sec.e2eCur) ≤ 256) (h : ms = [] ∨ ∃ a ∈ ms, 2 ^ 17 ≤ a.toNat) :
    ansSecE2eKey (some p.val) ctx key ts ms s = err s stBadArg 0 := by
  refine (withTenant_own hc hn ho hp).trans ((if_neg (by omega)).trans (if_pos ?_))
  rw [Bool.or_eq_true, List.isEmpty_iff, List.any_eq_true]
  simpa using h

end

end

/-! ### The switch and the erasure of an end-to-end key (R426) -/

section
variable {s : State} {d : Ctx}

theorem e2e_switches {a : Armed} {i : Instr} {u : State} (ha : (getCtx s d.val).sec.e2eSwitch = some a) (hn : NoLockout s)
    (hi : i = .e2eKeySwitch d ∨ i = .launchFire (.e2e d)) (hv : (evalArmed s a).1 ≠ .wait)
    (hu : u = if (evalArmed s a).1 = .late then countLate s else s) :
    Leads i s (setCtx u d.val { getCtx s d.val with sec := { (getCtx s d.val).sec with
      e2eCur := !(getCtx s d.val).sec.e2eCur, sendCtr := 0, e2eSwitch := none
      e2eErase := ((getCtx s d.val).sec.e2e.getD (getCtx s d.val).sec.e2eCur.toNat none).isSome } }) := by
  have ctxs : u.ctxs = s.ctxs := by
    rw [hu]
    split <;> rfl
  have same : ∀ k, getCtx u k = getCtx s k := getCtx_congr ctxs
  have fires : fireE2e s d.val = switchE2e u d.val := by
    rw [fireE2e_eq]
    match hb : evalArmed s a with
    | (.wait, b) => exact absurd (by rw [hb]) hv
    | (.onTime, b) => rw [fireTimer_fires ha hb, hu, hb, if_neg Launch.noConfusion]
    | (.late, b) => rw [fireTimer_late ha hb, hu, hb, if_pos rfl]
  have free : NoLockout u := fun k => by
    rw [same]
    exact hn k
  refine ⟨_, exec_e2eSwitch hi.symm fires (free.modSec fun _ => rfl), ?_⟩
  rw [← same]
  exact settle_settled _

theorem e2e_waits {a : Armed} {i : Instr} (ha : (getCtx s d.val).sec.e2eSwitch = some a) (hn : NoLockout s)
    (hi : i = .e2eKeySwitch d ∨ i = .launchFire (.e2e d)) (hv : (evalArmed s a).1 = .wait) :
    Leads i s (setCtx s d.val { getCtx s d.val with sec := { (getCtx s d.val).sec with e2eSwitch := some (evalArmed s a).2 } }) := by
  have waits : fireE2e s d.val = modSec s d.val fun z => { z with e2eSwitch := some (evalArmed s a).2 } := by
    rw [fireE2e_eq]
    exact fireTimer_keeps ha (Prod.ext hv rfl)
  exact ⟨_, exec_e2eSwitch hi.symm waits (hn.modSec fun _ => rfl), settle_settled _⟩

theorem exec_e2eKeySwitch_unarmed (h : (getCtx s d.val).sec.e2eSwitch = none) : exec (.e2eKeySwitch d) s = done s := by
  show done (fireE2e s d.val) = _
  rw [fireE2e_eq, h]
  rfl

theorem e2eOldKey_erased (h : (getCtx s d.val).sec.e2eErase = true) : Leads (.e2eOldKeyErase d) s (setCtx s d.val { getCtx s d.val with
    sec := { (getCtx s d.val).sec with
      e2e := (getCtx s d.val).sec.e2e.setIfInBounds (!(getCtx s d.val).sec.e2eCur).toNat none, e2eErase := false
      windows := (getCtx s d.val).sec.windows.filter fun w => w.slot == (getCtx s d.val).sec.e2eCur } }) := by
  refine leads_done (u := eraseOldE2e d.val s) rfl ?_
  rw [eraseOldE2e, modSec, modCtx, if_pos h]
  exact .refl _

theorem e2eOldKey_stays (h : (getCtx s d.val).sec.e2eErase = false) : Leads (.e2eOldKeyErase d) s s := by
  refine leads_done (u := eraseOldE2e d.val s) rfl ?_
  rw [eraseOldE2e, modSec, modCtx_same (by rw [if_neg (by simp [h])])]
  exact .refl _

end

/-! ### SEC_ROTATE (R427) -/

section
variable {s : State} {r : Req} {p : Sys2Proof.Part} {ctx : BitVec 8} {c : Nat} {key : Bytes} {sess : Option Nat}

theorem ansSecRotate_noKind {k : BitVec 8} (h : 2 ≤ k.toNat) : ansSecRotate sess ctx k key s = err s stBadArg 0 := by
  have h1 : k ≠ 1 := fun e => by simp [e] at h
  have h0 : k ≠ 0 := fun e => by simp [e] at h
  exact (if_neg h1).trans (if_pos (.inl h0))

theorem ansSecRotate_job (hc : c = ctx.toNat) (hn : c < 64) (ho : (getCtx s c).st ≠ .closed) (hp : (getCtx s c).part = p.val)
    (hk : key.length = 32) : ansSecRotate (some p.val) ctx 1 key s = ok (setCtx s c { getCtx s c with
      sec := { (getCtx s c).sec with job := some key, jobPrev := (getCtx s c).sec.job } }) [] :=
  (if_pos rfl).trans ((withTenant_own hc hn ho hp).trans (if_pos hk))

/-- SEC_ROTATE of memory keys asks, in this order, for the mode, the context, its partition, its rights and the sweep. -/
theorem ansSecRotate_memory (hc : ctx.toNat = c) (hn : c < 64) : ansSecRotate sess ctx 0 key s =
    if s.opt.conf = false then err s stUnsupported 0
    else if (getCtx s c).st = .closed then conflict s 5 0 0x2
    else if isConf s (getCtx s c).part = false then err s stBadArg 0
    else if ((getCtx s c).sec.locked || (sess.isSome && sess != some (getCtx s c).part)) = true then err s stDenied 0
    else if (s.sec.sweeps.getD (getCtx s c).part none).isSome = true then err s stBusy 0
    else ok (startRotation s c (getCtx s c)) [] := by
  unfold ansSecRotate
  rw [if_neg (by decide), if_neg (not_or.mpr ⟨not_not.mpr rfl, by omega⟩), hc]
  dsimp only
  simp only [Bool.not_eq_true']

theorem ansSecRotate_unsupported (hc : ctx.toNat = c) (hn : c < 64) (h : s.opt.conf = false) :
    ansSecRotate sess ctx 0 key s = err s stUnsupported 0 := (ansSecRotate_memory hc hn).trans (if_pos h)

theorem ansSecRotate_closed (hc : ctx.toNat = c) (hn : c < 64) (h : s.opt.conf = true) (ho : (getCtx s c).st = .closed) :
    ansSecRotate sess ctx 0 key s = conflict s 5 0 0x2 :=
  (ansSecRotate_memory hc hn).trans ((if_neg (by simp [h])).trans (if_pos ho))

theorem ansSecRotate_plain (hc : ctx.toNat = c) (hn : c < 64) (h : s.opt.conf = true) (ho : (getCtx s c).st ≠ .closed)
    (hf : isConf s (getCtx s c).part = false) : ansSecRotate sess ctx 0 key s = err s stBadArg 0 :=
  (ansSecRotate_memory hc hn).trans ((if_neg (by simp [h])).trans ((if_neg ho).trans (if_pos hf)))

section
variable (hc : ctx.toNat = c) (hn : c < 64) (h : s.opt.conf = true) (ho : (getCtx s c).st ≠ .closed)
  (hf : isConf s (getCtx s c).part = true) (hs : sess = none ∨ sess = some (getCtx s c).part)
include hc hn h ho hf

theorem ansSecRotate_locked (hl : (getCtx s c).sec.locked = true) : ansSecRotate sess ctx 0 key s = err s stDenied 0 :=
  (ansSecRotate_memory hc hn).trans ((if_neg (by simp [h])).trans ((if_neg ho).trans ((if_neg (by simp [hf])).trans
    (if_pos (by simp [hl])))))

include hs

theorem ansSecRotate_allowed (hl : (getCtx s c).sec.locked = false) : ansSecRotate sess ctx 0 key s =
    if (s.sec.sweeps.getD (getCtx s c).part none).isSome = true then err s stBusy 0 else ok (startRotation s c (getCtx s c)) [] := by
  refine (ansSecRotate_memory hc hn).trans ((if_neg (by simp [h])).trans ((if_neg ho).trans ((if_neg (by simp [hf])).trans (if_neg ?_))))
  rcases hs with e | e <;> simp [e, hl]

end

theorem getCtx_modSec_same (hn : c < 64) (f : CtxSec → CtxSec) : getCtx (modSec s c f) c = { getCtx s c with sec := f (getCtx s c).sec } :=
  getCtx_modCtx_same s hn _

theorem getCtx_modSec_other {k : Nat} (hk : k ≠ c) (f : CtxSec → CtxSec) : getCtx (modSec s c f) k = getCtx s k :=
  getCtx_modCtx_other s hk _

theorem getCtx_modSecCore (f : Sec → Sec) (k : Nat) : getCtx (modSecCore s f) k = getCtx s k := rfl

/-- What the rotation of the keys of a context begins with. -/
theorem startRotation_begins (hn : c < 64) {x : Context} (hx : x = getCtx s c) (hp : x.part = p.val) (some_ : localPages s x ≠ []) :
    AllBut [.ctxs, .sec, .secKept] s (startRotation s c x) ∧
    getCtx (startRotation s c x) c = { x with sec := { x.sec with
      keys := x.sec.keys.setIfInBounds (!x.sec.epoch).toNat (some s.sec.nextKey), rotating := true } } ∧
    (∀ k, k ≠ c → getCtx (startRotation s c x) k = getCtx s k) ∧
    (startRotation s c x).sec.sweeps.getD p.val none = some { ctx := c, next := 0, total := (localPages s x).length } := by
  have pages : (localPages s x).length ≠ 0 := by simpa using some_
  have eq : startRotation s c x = modSecCore (modSec s c fun z =>
      { z with keys := z.keys.setIfInBounds (!z.epoch).toNat (some s.sec.nextKey), rotating := true }) fun k => { k with
        nextKey := k.nextKey + 1
        sweeps := k.sweeps.setIfInBounds x.part (some { ctx := c, next := 0, total := (localPages s x).length })
        swept := k.swept.setIfInBounds x.part 0, sweepTotal := k.sweepTotal.setIfInBounds x.part (localPages s x).length } := if_neg pages
  rw [eq]
  refine ⟨(frame_modSec s c _).mono.trans (frame_modSecCore _ _).mono, ?_, fun k hk => by rw [getCtx_modSecCore, getCtx_modSec_other hk], ?_⟩
  · rw [getCtx_modSecCore, getCtx_modSec_same hn, hx]
  · rw [hp]
    exact vector_getD_set_same _ p.isLt _ _

theorem secRotate_begins (hr : Ready 0x0904 setWork r s) (hc : ctx.toNat = c) (hn : c < 64) (hp : (getCtx s c).part = p.val)
    (wf : wellFormed (.secRotate r ctx 0 key) = true) (ho : (getCtx s c).st ≠ .closed) (hs : r.path = .pcie ∨ r.path = .sealed p)
    (h : s.opt.conf = true) (hf : isConf s p.val = true) (hl : (getCtx s c).sec.locked = false)
    (idle : s.sec.sweeps.getD p.val none = none) (some_ : localPages s (getCtx s c) ≠ []) :
    ∃ t, exec (.secRotate r ctx 0 key) s = .next t ∧ Answers s t r 0x0904 0x00 [] ∧ (getCtx t c).sec.rotating = true ∧
      (getCtx t c).sec.epoch = (getCtx s c).sec.epoch ∧
      (getCtx t c).sec.keys.getD (!(getCtx s c).sec.epoch).toNat none = some s.sec.nextKey ∧
      (getCtx t c).sec.keys.getD (getCtx s c).sec.epoch.toNat none = (getCtx s c).sec.keys.getD (getCtx s c).sec.epoch.toNat none ∧
      t.sec.sweeps.getD p.val none = some { ctx := c, next := 0, total := (localPages s (getCtx s c)).length } ∧ t.mem = s.mem ∧
      ∀ k, k ≠ c → getCtx t k = getCtx s k := by
  have sess : sessOf r.path = none ∨ sessOf r.path = some (getCtx s c).part := by
    rw [hp]
    exact hs.imp sessOf_pcie sessOf_sealed
  have ans : ansSecRotate (sessOf r.path) ctx 0 key s = ok (startRotation s c (getCtx s c)) [] := by
    rw [ansSecRotate_allowed hc hn h ho (by rwa [hp]) sess hl, hp, idle]
    rfl
  obtain ⟨frame, own, others, sweep⟩ := startRotation_begins hn rfl hp some_
  obtain ⟨t, run, kept, told⟩ := serves_ok (runsAs_secRotate rfl wf) hr ans (startRotation_responses _ _)
  have ctx (k : Nat) : getCtx t k = getCtx (startRotation s c (getCtx s c)) k := getCtx_congr kept.out.ctxs k
  have two (e : Bool) : e.toNat < 2 := by cases e <;> decide
  have differ (e : Bool) : e.toNat ≠ (!e).toNat := by cases e <;> decide
  refine ⟨t, run, told, ?_, ?_, ?_, ?_, by rw [kept.out.sec]; exact sweep, Eq.trans kept.out.mem (frame .mem (by decide)), fun k hk => ?_⟩
  · rw [ctx, own]
  · rw [ctx, own]
  · rw [ctx, own]
    exact vector_getD_set_same _ (two _) _ _
  · rw [ctx, own]
    exact vector_getD_set_other _ (differ _) _ _
  · rw [ctx, others k hk]

theorem secRotate_busy (hr : Ready 0x0904 setWork r s) (hc : ctx.toNat = c) (hn : c < 64) (hp : (getCtx s c).part = p.val)
    (wf : wellFormed (.secRotate r ctx 0 key) = true) (ho : (getCtx s c).st ≠ .closed) (hs : r.path = .pcie ∨ r.path = .sealed p)
    (h : s.opt.conf = true) (hf : isConf s p.val = true) (hl : (getCtx s c).sec.locked = false)
    (runs : s.sec.sweeps.getD p.val none ≠ none) : Refuses (.secRotate r ctx 0 key) s r 0x0904 0x01 0 := by
  have sess : sessOf r.path = none ∨ sessOf r.path = some (getCtx s c).part := by
    rw [hp]
    exact hs.imp sessOf_pcie sessOf_sealed
  refine refuses_err (runsAs_secRotate rfl wf) hr ((ansSecRotate_allowed hc hn h ho (by rwa [hp]) sess hl).trans (if_pos ?_))
  rw [hp]
  exact Option.isSome_iff_ne_none.mpr runs

end

/-! ### A page of the sweep (R427, R428) -/

/-- A write of a map leaves the entries of every other key. -/
theorem mem_mapSet_other {α : Type} (m : AMap α) {i k : Nat} (h : k ≠ i) (x v : α) : (k, v) ∈ mapSet m i x ↔ (k, v) ∈ m := by
  induction m with
  | nil => simp [mapSet, h]
  | cons a m ih =>
    obtain ⟨j, w⟩ := a
    unfold mapSet
    split
    · rename_i same
      simp [h, same]
    · split
      · simp [h]
      · simp [ih]

section
variable {s : State} {c : Nat}

/-- What every step of a fold moves, in a sense that goes on, the fold moves. -/
theorem foldl_moves {α : Type} {R : State → State → Prop} {f : State → α → State} (refl : ∀ s, R s s)
    (trans : ∀ {s t u}, R s t → R t u → R s u) (h : ∀ s a, R s (f s a)) (l : List α) (s : State) : R s (l.foldl f s) := by
  induction l generalizing s with
  | nil => exact refl s
  | cons a l ih => exact trans (h s a) (ih _)

/-- A context with another record of tag failures. -/
def withTags (x : Context) (l : List Nat) : Context := { x with sec := { x.sec with tags := l } }

/-- Between two states tag failures of one context have been counted, and nothing else of the contexts has moved. -/
def OnlyTags (c : Nat) (s t : State) : Prop := (∀ k, k ≠ c → getCtx t k = getCtx s k) ∧ ∃ l, getCtx t c = withTags (getCtx s c) l

theorem OnlyTags.refl (c : Nat) (s : State) : OnlyTags c s s := ⟨fun _ _ => rfl, _, rfl⟩

theorem OnlyTags.trans {t u : State} (h : OnlyTags c s t) (k : OnlyTags c t u) : OnlyTags c s u := by
  obtain ⟨ho, l, hl⟩ := h
  obtain ⟨ko, l', kl⟩ := k
  exact ⟨fun n hn => (ko n hn).trans (ho n hn), l', by rw [kl, hl]; rfl⟩

theorem OnlyTags.of_ctxs {t u : State} (h : OnlyTags c s t) (k : u.ctxs = t.ctxs) : OnlyTags c s u :=
  ⟨fun n hn => (getCtx_congr k n).trans (h.1 n hn), h.2.imp fun _ hl => (getCtx_congr k c).trans hl⟩

theorem onlyTags_countTag (hc : c < 64) : OnlyTags c s (countTag s c) := by
  unfold countTag
  exact ⟨fun k hk => (getCtx_modSec_other hk _).trans rfl, _, getCtx_modSec_same hc _⟩

/-- What the sweep of some blocks moves: what they are sealed under, and the counts of tag failures. -/
theorem sweepBlocks_moves (hc : c < 64) (p pg old new : Nat) (bad : List Nat) :
    AllBut [.mem, .sec, .ctxs] s (sweepBlocks s c p pg old new bad) ∧ OnlyTags c s (sweepBlocks s c p pg old new bad) := by
  have sealed_ (s : State) (x : Bool) (k : Nat) : AllBut [.mem] s { s with mem := (sweepBlock old new x s.mem k).1 } := fun q hq => by
    unfold sweepBlock
    split
    · split <;> cases q <;> first | exact absurd (by decide) hq | exact rfl | exact List.suffix_rfl | exact MailKept.refl _
    · exact .refl _ s
  unfold sweepBlocks
  generalize List.range 8192 = l
  refine foldl_moves (R := fun s t => AllBut [.mem, .sec, .ctxs] s t ∧ OnlyTags c s t) (fun s => ⟨.refl _ s, .refl c s⟩)
    (fun h k => ⟨h.1.trans k.1, h.2.trans k.2⟩) (fun s i => ?_) l s
  dsimp only
  split
  · exact ⟨(sealed_ s _ _).mono.trans (frame_countTag _ c).mono, (OnlyTags.refl c s).trans (onlyTags_countTag hc)⟩
  · exact ⟨(sealed_ s _ _).mono, .refl c s⟩

end

section
variable {s u : State} {x : Context} {c v : Nat}

theorem mem_localPages {k : Nat} : k ∈ localPages s x ↔
    ∃ e, (x.pmBase.toNat + k, e) ∈ s.mem.pmap ∧ k < x.pmLen.toNat ∧ isLocal e = true := by
  rw [localPages, List.mem_filterMap]
  constructor
  · rintro ⟨⟨i, e⟩, he, some_⟩
    split at some_
    · rename_i own
      obtain ⟨lo, hi, loc⟩ := own
      dsimp only at lo hi loc some_
      have at_ : i = x.pmBase.toNat + k := by
        have := Option.some.inj some_
        omega
      exact ⟨e, at_ ▸ he, by omega, loc⟩
    · cases some_
  · rintro ⟨e, he, lt, loc⟩
    exact ⟨_, he, by rw [if_pos ⟨by omega, by dsimp only; omega, loc⟩]; simp⟩

/-- The pages behind one whose entry is written stay the same. -/
theorem pagesBehind_set {e : BitVec 64} (h : u.mem.pmap = mapSet s.mem.pmap (x.pmBase.toNat + v) e) :
    (∃ k ∈ localPages u x, v < k) ↔ ∃ k ∈ localPages s x, v < k := by
  have same (k : Nat) (hk : v < k) : k ∈ localPages u x ↔ k ∈ localPages s x := by
    simp only [mem_localPages, h, mem_mapSet_other s.mem.pmap (show x.pmBase.toNat + k ≠ x.pmBase.toNat + v by omega)]
  exact exists_congr fun k => ⟨fun h => ⟨(same k h.2).mp h.1, h.2⟩, fun h => ⟨(same k h.2).mpr h.1, h.2⟩⟩

/-- R427: the entry of a page marked with the other slot of keys. -/
def flipped (epoch : Bool) (e : BitVec 64) : BitVec 64 := if epoch then e &&& ~~~(0x800 : BitVec 64) else e ||| 0x800

theorem getLsbD_mark (b : Nat) : (0x800 : BitVec 64).getLsbD b = decide (b = 11) := by
  rw [show (0x800 : BitVec 64) = BitVec.ofNat 64 (2 ^ 11) from rfl, BitVec.getLsbD_ofNat, Nat.testBit_two_pow]
  by_cases h : b = 11
  · simp [h]
  · simp [h, Ne.symm h]

theorem flipped_mark (epoch : Bool) (e : BitVec 64) : (flipped epoch e).getLsbD 11 = !epoch := by
  cases epoch
  · simp [flipped]
  · simp [flipped]

theorem flipped_other (epoch : Bool) (e : BitVec 64) {b : Nat} (hb : b < 64) (h : b ≠ 11) : (flipped epoch e).getLsbD b = e.getLsbD b := by
  cases epoch
  · rw [flipped, if_neg (by decide), BitVec.getLsbD_or, getLsbD_mark, decide_eq_false h, Bool.or_false]
  · rw [flipped, if_pos rfl, BitVec.getLsbD_and, BitVec.getLsbD_not, getLsbD_mark, decide_eq_false h, decide_eq_true hb]
    simp

/-- R427: the blocks of a page swept, and the work charged. -/
def blocksSwept (s : State) (p c v : Nat) (bad : List Nat) (n : Nat) : State :=
  chargeBackground (sweepBlocks s c p (entField (mapGet s.mem.pmap ((getCtx s c).pmBase.toNat + v) 0) 13 18)
    (((getCtx s c).sec.keys.getD (getCtx s c).sec.epoch.toNat none).getD 1000000)
    (((getCtx s c).sec.keys.getD (!(getCtx s c).sec.epoch).toNat none).getD 1000000) bad) p n

/-- R427: the entry of a page marked, its translation forgotten, and the sweep at the next page. -/
def entryMarked (s : State) (p c v i : Nat) (e : BitVec 64) (w : Sweep) : State :=
  modSecCore ((partCores (modMem s fun m => { m with pmap := mapSet m.pmap i e }) p).foldl
      (fun s n => modC s n fun q => { q with xlat := q.xlat.filter (· != c * 2 ^ 21 + v) })
      (modMem s fun m => { m with pmap := mapSet m.pmap i e })) fun k => { k with
    sweeps := k.sweeps.setIfInBounds p (some { w with next := v + 1 }), swept := k.swept.setIfInBounds p (k.swept.getD p 0 + 1) }

/-- R427: a page swept, its entry marked with the other slot, and the sweep at the next page. -/
def pageSwept (s : State) (p c v : Nat) (w : Sweep) (bad : List Nat) : State :=
  entryMarked (blocksSwept s p c v bad 16384) p c v ((getCtx s c).pmBase.toNat + v)
    (flipped (getCtx s c).sec.epoch (mapGet s.mem.pmap ((getCtx s c).pmBase.toNat + v) 0)) w

theorem sweepNext_page {p : Nat} {w : Sweep} {bad : List Nat} (hw : s.sec.sweeps.getD p none = some w) (hc : w.ctx = c)
    (free : sweepFree s p c = true) (hv : (localPages s (getCtx s c)).find? (fun v => decide (w.next ≤ v)) = some v) :
    sweepNext p bad s = if ((localPages (pageSwept s p c v w bad) (getCtx s c)).any fun u => decide (v < u)) = true
      then pageSwept s p c v w bad else finishSweep (pageSwept s p c v w bad) p c := by
  subst hc
  unfold sweepNext
  rw [hw]
  dsimp only
  rw [if_neg (by simp [free]), hv]
  rfl

theorem sweepNext_last {p : Nat} {w : Sweep} {bad : List Nat} (hw : s.sec.sweeps.getD p none = some w) (hc : w.ctx = c)
    (free : sweepFree s p c = true) (hv : (localPages s (getCtx s c)).find? (fun v => decide (w.next ≤ v)) = none) :
    sweepNext p bad s = finishSweep s p c := by
  subst hc
  unfold sweepNext
  rw [hw]
  dsimp only
  rw [if_neg (by simp [free]), hv]

theorem blocksSwept_moves (hc : c < 64) (p : Nat) (bad : List Nat) (n : Nat) :
    AllBut [.mem, .sec, .ctxs] s (blocksSwept s p c v bad n) ∧ OnlyTags c s (blocksSwept s p c v bad n) := by
  obtain ⟨blocks, tags⟩ := sweepBlocks_moves (s := s) hc p (entField (mapGet s.mem.pmap ((getCtx s c).pmBase.toNat + v) 0) 13 18)
    (((getCtx s c).sec.keys.getD (getCtx s c).sec.epoch.toNat none).getD 1000000)
    (((getCtx s c).sec.keys.getD (!(getCtx s c).sec.epoch).toNat none).getD 1000000) bad
  have frame := frame_chargeBackground (sweepBlocks s c p (entField (mapGet s.mem.pmap ((getCtx s c).pmBase.toNat + v) 0) 13 18)
    (((getCtx s c).sec.keys.getD (getCtx s c).sec.epoch.toNat none).getD 1000000)
    (((getCtx s c).sec.keys.getD (!(getCtx s c).sec.epoch).toNat none).getD 1000000) bad) p n
  exact ⟨blocks.trans frame.mono, tags.of_ctxs (frame .ctxs (by decide))⟩

theorem entryMarked_moves (p c v i : Nat) (e : BitVec 64) (w : Sweep) : (entryMarked s p c v i e w).mem.cells = s.mem.cells ∧
    (entryMarked s p c v i e w).mem.pmap = mapSet s.mem.pmap i e ∧ (entryMarked s p c v i e w).ctxs = s.ctxs := by
  unfold entryMarked
  obtain ⟨u, hu⟩ : ∃ u, u = modMem s fun m => { m with pmap := mapSet m.pmap i e } := ⟨_, rfl⟩
  rw [← hu]
  have cores : AllBut [.slots] u ((partCores u p).foldl
      (fun s n => modC s n fun q => { q with xlat := q.xlat.filter (· != c * 2 ^ 21 + v) }) u) := .foldl (fun s n => frame_modC s n _) _ _
  generalize List.foldl _ u _ = t at cores
  have mem : t.mem = u.mem := cores .mem (by decide)
  have ctxs : t.ctxs = u.ctxs := cores .ctxs (by decide)
  refine ⟨?_, ?_, ?_⟩
  · show t.mem.cells = _
    rw [mem, hu]
    rfl
  · show t.mem.pmap = _
    rw [mem, hu]
    rfl
  · show t.ctxs = _
    rw [ctxs, hu]
    rfl

theorem pageSwept_moves (hc : c < 64) (p : Nat) (w : Sweep) (bad : List Nat) :
    (pageSwept s p c v w bad).mem.cells = s.mem.cells ∧
    (pageSwept s p c v w bad).mem.pmap = mapSet s.mem.pmap ((getCtx s c).pmBase.toNat + v)
      (flipped (getCtx s c).sec.epoch (mapGet s.mem.pmap ((getCtx s c).pmBase.toNat + v) 0)) ∧
    OnlyTags c s (pageSwept s p c v w bad) := by
  unfold pageSwept
  generalize 16384 = n
  obtain ⟨frame, tags⟩ := blocksSwept_moves (s := s) (v := v) hc p bad n
  generalize blocksSwept s p c v bad n = u at frame tags
  obtain ⟨cells, pmap, ctxs⟩ := entryMarked_moves (s := u) p c v ((getCtx s c).pmBase.toNat + v)
    (flipped (getCtx s c).sec.epoch (mapGet s.mem.pmap ((getCtx s c).pmBase.toNat + v) 0)) w
  have before : u.mem.pmap = s.mem.pmap := frame .pmap (by decide)
  exact ⟨Eq.trans cells (frame .cells (by decide)), by rw [pmap, before], tags.of_ctxs ctxs⟩

end

section
variable {s : State} {c : Nat} {p : Sys2Proof.Part}

/-- The end of a sweep: the other slot is current, and the old key set is gone. -/
theorem finishSweep_ends (hc : c < 64) : AllBut [.sec, .secKept, .ctxs, .mail, .outbox] s (finishSweep s p.val c) ∧
    getCtx (finishSweep s p.val c) c = { getCtx s c with sec := { (getCtx s c).sec with
      keys := (getCtx s c).sec.keys.setIfInBounds (getCtx s c).sec.epoch.toNat none, epoch := !(getCtx s c).sec.epoch, rotating := false } } ∧
    (∀ k, k ≠ c → getCtx (finishSweep s p.val c) k = getCtx s k) ∧ (finishSweep s p.val c).sec.sweeps.getD p.val none = none := by
  unfold finishSweep
  extract_lets s1 s2
  have ended : AllBut [.sec, .secKept] s s1 := frame_modSecCore s _
  have turned : AllBut [.ctxs] s1 s2 := frame_modSec s1 c _
  have told := frame_postNotice s2 0x000F (some c) (secEventBody 1 p.val c)
  generalize postNotice s2 0x000F (some c) (secEventBody 1 p.val c) = t at told
  refine ⟨ended.mono.trans (turned.mono.trans told.mono), ?_, fun k hk => ?_, ?_⟩
  · rw [getCtx_congr (told .ctxs (by decide))]
    exact getCtx_modSec_same (s := s1) hc _
  · rw [getCtx_congr (told .ctxs (by decide))]
    exact getCtx_modSec_other (s := s1) hk _
  · rw [show t.sec = s1.sec from told .sec (by decide)]
    exact vector_getD_set_same _ p.isLt _ _

/-- What a page of the sweep leaves: its data, the other entries, the other contexts, and the job of its own. -/
theorem sweepNext_moves (hc : c < 64) {w : Sweep} {bad : List Nat} {v : Nat} (hw : s.sec.sweeps.getD p.val none = some w) (hx : w.ctx = c)
    (free : sweepFree s p.val c = true) (hv : (localPages s (getCtx s c)).find? (fun v => decide (w.next ≤ v)) = some v) :
    ∃ u, sweepNext p.val bad s = u ∧ u.mem.cells = s.mem.cells ∧
      u.mem.pmap = mapSet s.mem.pmap ((getCtx s c).pmBase.toNat + v)
        (flipped (getCtx s c).sec.epoch (mapGet s.mem.pmap ((getCtx s c).pmBase.toNat + v) 0)) ∧
      (getCtx u c).led = (getCtx s c).led ∧ (∀ k, k ≠ c → getCtx u k = getCtx s k) ∧
      (getCtx u c).sec.epoch = if ∃ k ∈ localPages s (getCtx s c), v < k then (getCtx s c).sec.epoch else !(getCtx s c).sec.epoch := by
  obtain ⟨cells, pmap, others, l, own⟩ := pageSwept_moves (s := s) (v := v) hc p.val w bad
  have behind : ((localPages (pageSwept s p.val c v w bad) (getCtx s c)).any fun k => decide (v < k)) = true ↔
      ∃ k ∈ localPages s (getCtx s c), v < k := by
    rw [List.any_eq_true, ← pagesBehind_set pmap]
    simp only [decide_eq_true_eq]
  have eq := sweepNext_page (bad := bad) hw hx free hv
  generalize pageSwept s p.val c v w bad = u at cells pmap others own behind eq
  by_cases more : ∃ k ∈ localPages s (getCtx s c), v < k
  · refine ⟨u, eq.trans (if_pos (behind.mpr more)), cells, pmap, by rw [own]; rfl, others, ?_⟩
    rw [if_pos more, own]
    rfl
  · obtain ⟨frame, ended, rest, -⟩ := finishSweep_ends (s := u) (p := p) hc
    refine ⟨finishSweep u p.val c, eq.trans (if_neg (mt behind.mp more)), Eq.trans (frame .cells (by decide)) cells,
      Eq.trans (frame .pmap (by decide)) pmap, ?_, fun k hk => (rest k hk).trans (others k hk), ?_⟩
    · rw [ended, own]
      rfl
    · rw [ended, own, if_neg more]
      rfl

theorem sweepPage_sweeps (hc : c < 64) {w : Sweep} {bad : List Nat} {v : Nat} (hw : s.sec.sweeps.getD p.val none = some w) (hx : w.ctx = c)
    (free : sweepFree s p.val c = true) (hn : NoLockout s)
    (hv : (localPages s (getCtx s c)).find? (fun v => decide (w.next ≤ v)) = some v) (hl : (getCtx s c).led.st = .idle)
    (hr : (getCtx s c).led.records = []) : ∃ t, exec (.sweepPage p bad) s = .next t ∧ t.mem.cells = s.mem.cells ∧
      (mapGet t.mem.pmap ((getCtx s c).pmBase.toNat + v) 0).getLsbD 11 = !(getCtx s c).sec.epoch ∧
      (∀ b, b < 64 → b ≠ 11 → (mapGet t.mem.pmap ((getCtx s c).pmBase.toNat + v) 0).getLsbD b =
        (mapGet s.mem.pmap ((getCtx s c).pmBase.toNat + v) 0).getLsbD b) ∧
      (∀ i, i ≠ (getCtx s c).pmBase.toNat + v → mapGet t.mem.pmap i 0 = mapGet s.mem.pmap i 0) ∧
      (getCtx t c).sec.epoch = if ∃ k ∈ localPages s (getCtx s c), v < k then (getCtx s c).sec.epoch else !(getCtx s c).sec.epoch := by
  obtain ⟨u, hu, cells, pmap, led, others, epoch⟩ := sweepNext_moves (bad := bad) hc hw hx free hv
  obtain ⟨mem, kept⟩ := lockout_quiet (s := u) hc (by rw [led, hl]; decide) (by rw [led, hl]; decide) (by rw [led, hr])
  have run : exec (.sweepPage p bad) s = done (lockout u c) := by
    show done (lockouts (sweepNext p.val bad s)) = _
    rw [hu, lockouts_one hc fun k hk => by rw [others k hk]; exact hn k]
  obtain ⟨t, run, settled⟩ : Leads (.sweepPage p bad) s _ := leads_done run (.refl _)
  have memory : t.mem = u.mem := settled.out.mem.trans mem
  refine ⟨t, run, by rw [memory, cells], ?_, fun b hb h11 => ?_, fun i hi => ?_, ?_⟩
  · rw [memory, pmap, mapGet_set_same, flipped_mark]
  · rw [memory, pmap, mapGet_set_same, flipped_other _ _ hb h11]
  · rw [memory, pmap, mapGet_set_other _ hi]
  · rw [getCtx_congr settled.out.ctxs, kept, epoch]

theorem sweepPage_ends (hc : c < 64) {w : Sweep} {bad : List Nat} (hw : s.sec.sweeps.getD p.val none = some w) (hx : w.ctx = c)
    (free : sweepFree s p.val c = true) (hn : NoLockout s)
    (hv : (localPages s (getCtx s c)).find? (fun v => decide (w.next ≤ v)) = none) : ∃ t, exec (.sweepPage p bad) s = .next t ∧
      t.mem = s.mem ∧ (getCtx t c).sec.epoch = !(getCtx s c).sec.epoch ∧ (getCtx t c).sec.rotating = false ∧
      (getCtx t c).sec.keys.getD (getCtx s c).sec.epoch.toNat none = none ∧ t.sec.sweeps.getD p.val none = none ∧
      ∀ k, k ≠ c → getCtx t k = getCtx s k := by
  obtain ⟨frame, own, others, none_⟩ := finishSweep_ends (s := s) (p := p) hc
  have eq := sweepNext_last (bad := bad) hw hx free hv
  generalize finishSweep s p.val c = u at frame own others none_ eq
  have calm : NoLockout u := fun k => by
    by_cases hk : k = c
    · rw [hk, own]
      exact hn c
    · rw [others k hk]
      exact hn k
  obtain ⟨t, run, kept⟩ : Leads (.sweepPage p bad) s u := by
    refine leads_done (u := u) ?_ (.refl _)
    show doneMem (sweepNext p.val bad s) = _
    rw [eq, doneMem_eq calm]
  have ctx (k : Nat) : getCtx t k = getCtx u k := getCtx_congr kept.out.ctxs k
  refine ⟨t, run, Eq.trans kept.out.mem (frame .mem (by decide)), by rw [ctx, own], by rw [ctx, own], ?_, by rw [kept.out.sec]; exact none_,
    fun k hk => by rw [ctx, others k hk]⟩
  rw [ctx, own]
  exact vector_getD_set_same _ (by cases (getCtx s c).sec.epoch <;> decide) _ _

theorem sweepPage_rests {bad : List Nat} (hn : NoLockout s) (h : s.sec.sweeps.getD p.val none = none ∨
    ∃ w, s.sec.sweeps.getD p.val none = some w ∧ w.ctx = c ∧ sweepFree s p.val c = false) : exec (.sweepPage p bad) s = done s := by
  have idle : sweepNext p.val bad s = s := by
    unfold sweepNext
    rcases h with h | ⟨w, hw, rfl, h⟩
    · rw [h]
    · rw [hw]
      exact if_pos (by simp [h])
  show doneMem (sweepNext p.val bad s) = _
  rw [idle, doneMem_eq hn]

end

/-- Settles O43: the job key and the end-to-end key of a context, and the rotation of its memory keys. -/
theorem contextKeysAreTakenAndRotated : Obligations.ContextKeysAreTakenAndRotated := by
  refine ⟨?_, ?_⟩
  · rintro r p ctx key s c x hk hc hn rfl
    refine ⟨fun hp hr => refuses_err (runsAs_secJobKey (sessOf_pcie hp) hk) hr rfl, fun hp hr => ⟨fun ho he => ?_, fun ho he => ?_, fun ho => ?_⟩,
      fun ts ms hr wf => ⟨fun hp => refuses_err (runsAs_secE2eKey (sessOf_pcie hp) wf) hr rfl,
        fun hp ho => conflicts_of (runsAs_secE2eKey (sessOf_sealed hp) wf) hr (withTenant_closed hc hn ho),
        fun hp ho he => refuses_err (runsAs_secE2eKey (sessOf_sealed hp) wf) hr (withTenant_foreign hc hn ho he),
        fun hp ho he => ⟨fun hm few low => serves_ok (runsAs_secE2eKey (sessOf_sealed hp) wf) hr (ansSecE2eKey_takes hc hn ho he hm few low) rfl,
          fun many => refuses_err (runsAs_secE2eKey (sessOf_sealed hp) wf) hr (ansSecE2eKey_full hc hn ho he many),
          fun few h => refuses_err (runsAs_secE2eKey (sessOf_sealed hp) wf) hr (ansSecE2eKey_bad hc hn ho he few h)⟩⟩,
      fun d a i u hd ha free hi => ?_, fun d hd h => ?_, fun d hd rest h => ?_, fun d hd h => ?_⟩
    · exact serves_ok (runsAs_secJobKey (sessOf_sealed hp) hk) hr (withTenant_own hc hn ho he) rfl
    · exact refuses_err (runsAs_secJobKey (sessOf_sealed hp) hk) hr (withTenant_foreign hc hn ho he)
    · exact conflicts_of (runsAs_secJobKey (sessOf_sealed hp) hk) hr (withTenant_closed hc hn ho)
    · subst hd
      exact ⟨e2e_switches ha free hi, e2e_waits ha free hi⟩
    · subst hd
      exact e2eOldKey_erased h
    · subst hd
      exact exec_idle (exec_e2eKeySwitch_unarmed h) rest
    · subst hd
      exact e2eOldKey_stays h
  · rintro p s c x hn rfl hp
    refine ⟨fun r ctx key hr hc wf => ⟨fun ho hs h hf => ⟨secRotate_begins hr hc hn hp wf ho hs h hf,
          secRotate_busy hr hc hn hp wf ho hs h hf, fun hl => refuses_err (runsAs_secRotate rfl wf) hr
            (ansSecRotate_locked hc hn h ho (by rwa [hp]) hl)⟩,
        fun h => refuses_err (runsAs_secRotate rfl wf) hr (ansSecRotate_unsupported hc hn h),
        fun h ho => conflicts_of (runsAs_secRotate rfl wf) hr (ansSecRotate_closed hc hn h ho),
        fun h ho hf => refuses_err (runsAs_secRotate rfl wf) hr (ansSecRotate_plain hc hn h ho (by rwa [hp])),
        fun hs => refuses_err (runsAs_secRotate (kind := 1) (sessOf_pcie hs) wf) hr rfl,
        fun hs ho hk => serves_ok (runsAs_secRotate (kind := 1) (sessOf_sealed hs) wf) hr (ansSecRotate_job hc.symm hn ho hp hk) rfl,
        fun k hk => refuses_err (runsAs_secRotate (kind := k) rfl wf) hr (ansSecRotate_noKind hk)⟩,
      fun w bad hw hx free calm => ⟨fun v hv hl _ hr => sweepPage_sweeps hn hw hx free calm hv hl hr, sweepPage_ends hn hw hx free calm⟩,
      fun bad rest calm h => exec_idle (sweepPage_rests calm h) rest⟩

end Sys2Proof.Machine
end

section
-- One proof after the other: a text of this length has more proofs waiting at once than the check has threads for.
set_option Elab.async false
/-! PROOFS. What reading and writing the memory of a context moves, by its virtual addresses, and what a Peal moves. -/
namespace Sys2Proof.Machine

/-! ### Memory of a context, by virtual addresses -/

theorem isConf_congr {s t : State} (h : t.hub = s.hub) (p : Nat) : isConf t p = isConf s p := by rw [isConf, h, isConf]

/-- Between two states nothing has moved but the parts of `l` and, where the partition of context `c` is confidential, the tag failures
counted for it. -/
structure MemMoves (l : List Part) (c : Nat) (s t : State) : Prop where
  frame : AllBut (.sec :: .ctxs :: l) s t
  tags : OnlyTags c s t
  plain : isConf s (getCtx s c).part = false → AllBut l s t

section
variable {l m : List Part} {c : Nat} {s t u : State}

theorem OnlyTags.part (h : OnlyTags c s t) : (getCtx t c).part = (getCtx s c).part := by
  obtain ⟨-, w, hw⟩ := h
  rw [hw]
  rfl

theorem MemMoves.refl : MemMoves l c s s := ⟨.refl _ s, .refl c s, fun _ => .refl l s⟩

theorem MemMoves.trans (hl : Part.hub ∉ l) (h : MemMoves l c s t) (k : MemMoves l c t u) : MemMoves l c s u :=
  ⟨h.frame.trans k.frame, h.tags.trans k.tags, fun open_ => (h.plain open_).trans (k.plain (by
    rw [isConf_congr ((h.plain open_) .hub hl), h.tags.part, open_]))⟩

theorem MemMoves.of_frame (h : AllBut l s t) (hl : Part.ctxs ∉ l := by decide) : MemMoves l c s t :=
  ⟨fun p hp => h p fun hm => hp (List.mem_cons_of_mem _ (List.mem_cons_of_mem _ hm)), (OnlyTags.refl c s).of_ctxs (h .ctxs hl), fun _ => h⟩

theorem MemMoves.mono (h : MemMoves l c s t) (hl : ∀ p ∈ l, p ∈ m := by decide) : MemMoves m c s t := by
  refine ⟨h.frame.mono fun p hp => ?_, h.tags, fun open_ => (h.plain open_).mono hl⟩
  simp only [List.mem_cons] at hp ⊢
  exact hp.imp_right (Or.imp_right (hl p))

end

/-- What a read of module memory moves: the counts of its controllers, and injections. -/
def readParts : List Part := [.mem, .diag, .free]

/-- What a write of module memory moves. -/
def writeParts : List Part := [.mem, .cells, .diag, .free]

theorem onlyTags_countTag' (c : Nat) (s : State) : OnlyTags c s (countTag s c) := by
  by_cases hc : c < 64
  · exact onlyTags_countTag hc
  · have same : (countTag s c).ctxs = s.ctxs := by
      unfold countTag modSec
      rw [modCtx_outOfBounds _ (Nat.le_of_not_lt hc)]
      rfl
    exact (OnlyTags.refl c s).of_ctxs same

section
variable {c : Nat} {s t : State}

/-- A block that is not sealed fails no tag. -/
theorem controllerRead_plain (s : State) (pos j : Nat) (e1 e2 : SymErr) : (controllerRead s pos j none e1 e2).2.tagFail = false := by
  unfold controllerRead
  dsimp only
  split <;> rfl

theorem ctxKey_plain (h : isConf s (getCtx s c).part = false) (e : Bool) : ctxKey s c e = none := by
  rw [ctxKey, h]
  rfl

theorem memMoves_readLocal (s : State) (c p pg off : Nat) (e : Bool) : MemMoves readParts c s (readLocal s c p pg off e).1 := by
  unfold readLocal
  dsimp only
  have read (key : Option Nat) (pos j : Nat) := frame_controllerRead s pos j key [] []
  split
  · rename_i failed
    refine ⟨(read _ _ _).mono.trans (frame_countTag _ c).mono, ?_, fun open_ => ?_⟩
    · exact ((OnlyTags.refl c s).of_ctxs (read _ _ _ .ctxs (by decide))).trans (onlyTags_countTag' c _)
    · rw [ctxKey_plain open_, controllerRead_plain] at failed
      cases failed
  · exact .of_frame (read _ _ _)

theorem memMoves_writeLocal (s : State) (c p pg off : Nat) (e k : Bool) (b : Block) :
    MemMoves writeParts c s (writeLocal s c p pg off e k b) := .of_frame (frame_writeLocal s c p pg off e k b)

theorem memMoves_readVa (fuel : Nat) : ∀ {s : State} {va : Nat} {r : State × Bytes}, readVa s c va fuel = some r →
    MemMoves readParts c s r.1 := by
  induction fuel with
  | zero =>
    intro s va r h
    cases h
    exact .refl
  | succ k ih =>
    intro s va r h
    unfold readVa at h
    split at h
    · dsimp only at h
      split at h
      · split at h
        · rename_i later
          cases h
          have rest := ih later
          exact .trans (by decide) (memMoves_readLocal s c _ _ _ _) rest
        · cases h
      · cases h
    · cases h

theorem memMoves_readBytesVa {va n : Nat} {r : State × Bytes} (h : readBytesVa s c va n = some r) : MemMoves readParts c s r.1 := by
  obtain ⟨q, hq, rfl⟩ := Option.map_eq_some_iff.mp h
  exact (memMoves_readVa _ hq :)

theorem memMoves_writePiece {va : Nat} {d : Bytes} {force : Bool} (h : writePiece s c va d force = some t) : MemMoves writeParts c s t := by
  unfold writePiece at h
  split at h
  · split at h
    · split at h
      · obtain rfl := Option.some.inj h
        exact memMoves_writeLocal s c _ _ _ _ _ _
      · rename_i p pg off e _ _ _ _
        dsimp only at h
        split at h
        · obtain rfl := Option.some.inj h
          exact .trans (by decide) (memMoves_readLocal s c p pg off e).mono (memMoves_writeLocal _ c p pg off e false _)
        · cases h
    · cases h
  · cases h

theorem memMoves_writeBytesVa {force : Bool} (fuel : Nat) : ∀ {s t : State} {va : Nat} {d : Bytes},
    writeBytesVa s c va d force fuel = some t → MemMoves writeParts c s t := by
  induction fuel with
  | zero =>
    intro s t va d h
    unfold writeBytesVa at h
    split at h <;> cases h
    exact .refl
  | succ k ih =>
    intro s t va d h
    unfold writeBytesVa at h
    split at h
    · cases h
      exact .refl
    · dsimp only at h
      split at h
      · rename_i piece
        exact .trans (by decide) (memMoves_writePiece piece) (ih h)
      · cases h

theorem memMoves_putVa {va : Nat} {d : Bytes} {force : Bool} (h : putVa s c va d force = some t) : MemMoves writeParts c s t :=
  memMoves_writeBytesVa _ h

theorem memMoves_putForced (s : State) (c va : Nat) (d : Bytes) : MemMoves writeParts c s (putForced s c va d) := by
  unfold putForced
  cases h : putVa s c va d true with
  | none => exact .refl
  | some t => exact memMoves_putVa h

theorem memMoves_recStates (v : Nat) (p : State → BitVec 48 → MbRec → Prop) [∀ s va r, Decidable (p s va r)] (l : List (BitVec 48))
    (s : State) : MemMoves writeParts c s (l.foldl (fun s va => match readRec s c va with
      | some r => if p s va r then setRecState s c va v else s
      | none => s) s) := by
  refine foldl_moves (R := MemMoves writeParts c) (fun _ => .refl) (.trans (by decide)) (fun s va => ?_) l s
  split
  · split
    · exact memMoves_putForced s c _ _
    · exact .refl
  · exact .refl

/-- In a partition that is not confidential, memory of a context moves no context. -/
theorem MemMoves.ctxs {l : List Part} (h : MemMoves l c s t) (open_ : isConf s (getCtx s c).part = false)
    (hl : Part.ctxs ∉ l := by decide) : t.ctxs = s.ctxs := h.plain open_ .ctxs hl

end

/-! ### A Peal (R322, R327) -/

/-- What a Peal moves outside the contexts and the security core: what it reads and sends, and its notices. -/
def pealParts : List Part := .mem :: .diag :: .free :: .mail :: fabricParts

/-- Between two states a Peal of context `c` has gone on. Of the context only the Peal and its secrets move, and the secrets only where
its partition is confidential. -/
structure PealMoves (c : Nat) (s t : State) : Prop where
  frame : AllBut (.sec :: .ctxs :: pealParts) s t
  others : ∀ k, k ≠ c → getCtx t k = getCtx s k
  own : ∃ p z, getCtx t c = { getCtx s c with peal := p, sec := z }
  plain : isConf s (getCtx s c).part = false → (getCtx t c).sec = (getCtx s c).sec ∧ t.sec = s.sec
  told : t.mail.responses = s.mail.responses

section
variable {c : Nat} {s t u : State}

theorem PealMoves.part (h : PealMoves c s t) : (getCtx t c).part = (getCtx s c).part := by
  obtain ⟨p, z, own⟩ := h.own
  rw [own]

theorem PealMoves.led (h : PealMoves c s t) : (getCtx t c).led = (getCtx s c).led := by
  obtain ⟨p, z, own⟩ := h.own
  rw [own]

theorem PealMoves.refl : PealMoves c s s := ⟨.refl _ s, fun _ _ => rfl, ⟨_, _, rfl⟩, fun _ => ⟨rfl, rfl⟩, rfl⟩

theorem PealMoves.trans (h : PealMoves c s t) (k : PealMoves c t u) : PealMoves c s u := by
  refine ⟨h.frame.trans k.frame, fun n hn => (k.others n hn).trans (h.others n hn), ?_, fun open_ => ?_, k.told.trans h.told⟩
  · obtain ⟨p, z, own⟩ := h.own
    obtain ⟨p', z', own'⟩ := k.own
    exact ⟨p', z', by rw [own', own]⟩
  · obtain ⟨sec, core⟩ := h.plain open_
    have still : isConf t (getCtx t c).part = false := by rw [isConf_congr (h.frame .hub (by decide)), h.part, open_]
    obtain ⟨sec', core'⟩ := k.plain still
    exact ⟨sec'.trans sec, core'.trans core⟩

theorem PealMoves.of_told {l : List Part} (h : AllBut l s t) (told : t.mail.responses = s.mail.responses)
    (hl : ∀ p ∈ l, p ∈ pealParts := by decide) : PealMoves c s t := by
  have ctxs : t.ctxs = s.ctxs := h .ctxs fun hm => absurd (hl _ hm) (by decide)
  have ctx := getCtx_congr ctxs
  refine ⟨h.mono fun p hp => List.mem_cons_of_mem _ (List.mem_cons_of_mem _ (hl p hp)), fun k _ => ctx k, ⟨_, _, ctx c⟩, fun _ => ⟨?_, ?_⟩, told⟩
  · rw [ctx]
  · exact h .sec fun hm => absurd (hl _ hm) (by decide)

theorem PealMoves.of_frame {l : List Part} (h : AllBut l s t) (hl : ∀ p ∈ l, p ∈ pealParts := by decide)
    (hm : Part.mail ∉ l := by decide) : PealMoves c s t := .of_told h (congrArg Mail.responses (h .mail hm)) hl

theorem PealMoves.of_mem (h : MemMoves readParts c s t) : PealMoves c s t := by
  obtain ⟨others, w, own⟩ := h.tags
  refine ⟨h.frame.mono, others, ⟨_, _, own⟩, fun open_ => ⟨?_, h.plain open_ .sec (by decide)⟩,
    congrArg Mail.responses (h.frame .mail (by decide))⟩
  rw [getCtx_congr (h.ctxs open_)]

theorem PealMoves.of_modPeal (s : State) (c : Nat) (f : Peal → Peal) : PealMoves c s (modPeal s c f) := by
  refine ⟨(frame_modPeal s c f).mono, fun k hk => getCtx_modCtx_other s hk _, ?_, fun _ => ⟨?_, rfl⟩, rfl⟩
  all_goals by_cases hc : c < 64
  · exact ⟨_, _, getCtx_modCtx_same s hc _⟩
  · exact ⟨_, _, by rw [modPeal, modCtx_outOfBounds s (by omega)]⟩
  · rw [modPeal, getCtx_modCtx_same s hc]
  · rw [modPeal, modCtx_outOfBounds s (by omega)]

theorem PealMoves.ite {p : Prop} [Decidable p] (h : p → PealMoves c s t) (k : ¬p → PealMoves c s u) :
    PealMoves c s (if p then t else u) := by
  split
  · exact h ‹_›
  · exact k ‹_›

end

section
variable {c : Nat} {s t : State}

theorem pealMoves_failWith (s : State) (c : Nat) (e : BitVec 8) : PealMoves c s (pealFailWith s c e) := .of_modPeal s c _

theorem pealMoves_sealPacket {k : Packet} {r : State × Packet} (h : sealPacket s c k = some r) : PealMoves c s r.1 := by
  by_cases open_ : isConf s (getCtx s c).part = false
  · have plain : sealPacket s c k = some (s, k) := by
      unfold sealPacket
      dsimp only
      rw [open_]
      rfl
    rw [plain] at h
    obtain rfl := Option.some.inj h
    exact .refl
  · have own : ∃ z, getCtx r.1 c = { getCtx s c with sec := z } := by
      unfold sealPacket at h
      dsimp only at h
      split at h
      · cases h
        exact ⟨_, rfl⟩
      · split at h
        · cases h
        · cases h
          by_cases hc : c < 64
          · exact ⟨_, getCtx_modSec_same hc _⟩
          · exact ⟨_, by rw [modSec, modCtx_outOfBounds s (by omega)]⟩
    obtain ⟨z, hz⟩ := own
    exact ⟨(frame_sealPacket h).mono, (jobMoves_sealPacket h).others, ⟨_, z, hz⟩, fun h => absurd h open_,
      congrArg Mail.responses (frame_sealPacket h .mail (by decide))⟩

theorem pealMoves_sendRouted (s : State) (c : Nat) (k : Packet) : PealMoves c s (sendRouted s c k).1 := by
  unfold sendRouted
  cases h : sealPacket s c k with
  | none => exact .refl
  | some r =>
    have taken := pealMoves_sealPacket h
    dsimp only
    split <;> dsimp only
    · exact taken.trans (.of_frame (frame_sendOn _ _ _))
    · exact taken.trans (.of_frame (frame_sendOn _ _ _))
    · exact taken
    · exact taken.trans (.of_frame (frame_dropNoroute _))

/-- The request of a number, kept until it is answered. -/
theorem frame_requestKept (f : Fabric → Fabric) (he : ∀ b, (f b).engines = b.engines) : AllBut fabricParts s (modFab s f) := fun q hq => by
  cases q <;> first | exact absurd (by decide) hq | exact rfl | exact he _ | exact List.suffix_rfl | exact MailKept.refl _

theorem pealMoves_sendRequest (s : State) (c entry : Nat) (o : ReqOwner) (k : Packet) : PealMoves c s (sendRequest s c entry o k).1 := by
  unfold sendRequest
  extract_lets x id k' r
  split
  · exact pealMoves_sendRouted s c _
  · have sent : PealMoves c s r.1 := pealMoves_sendRouted s c _
    dsimp only
    refine sent.trans (.of_frame (l := fabricParts) (frame_requestKept (s := r.1) _ ?_))
    exact fun _ => rfl

theorem pealMoves_block (s : State) (c slot off : Nat) (d : Bytes) : PealMoves c s (pealBlock s c slot off d).1 := by
  unfold pealBlock
  split
  · exact .refl
  · split
    · exact .of_frame (frame_emit s _)
    · dsimp only
      split
      · exact pealMoves_sendRequest s c _ _ _
      · dsimp only
        exact (pealMoves_sendRequest s c _ _ _).trans (.of_modPeal _ c _)
    · exact .refl

theorem pealMoves_put (slot : Nat) (ds : List Bytes) : ∀ (s : State) (off : Nat), PealMoves c s (pealPut c slot s off ds).1 := by
  induction ds with
  | nil => exact fun _ _ => .refl
  | cons d ds ih =>
    intro s off
    unfold pealPut
    dsimp only
    split
    · exact pealMoves_block s c slot off d
    · exact (pealMoves_block s c slot off d).trans (ih _ _)

theorem pealMoves_write (s : State) (c slot off : Nat) (d : Bytes) : PealMoves c s (pealWrite s c slot off d).1 :=
  pealMoves_put slot _ s off

theorem pealMoves_readSegs (segs : List (Nat × Nat)) : ∀ {off n : Nat} {s : State} {r : State × Bytes},
    readSegs c segs off n s = some r → MemMoves readParts c s r.1 := by
  induction segs with
  | nil =>
    intro off n s r h
    cases n <;> cases h <;> exact .refl
  | cons a segs ih =>
    obtain ⟨va, len⟩ := a
    intro off n s r h
    cases n with
    | zero =>
      cases h
      exact .refl
    | succ n =>
      rw [readSegs.eq_3 _ _ _ _ _ _ _ (Nat.succ_ne_zero n)] at h
      split at h
      · exact ih h
      · dsimp only at h
        split at h
        · rename_i read
          obtain ⟨q, later, rfl⟩ := Option.map_eq_some_iff.mp h
          have first := memMoves_readBytesVa read
          exact .trans (by decide) first (ih later :)
        · cases h

theorem pealMoves_readChunkOf {e : PealEntry} {i : Nat} {r : State × Bytes} (h : readChunkOf s c e i = some r) : PealMoves c s r.1 := by
  unfold readChunkOf at h
  split at h
  · cases h
    exact .refl
  · exact .of_mem (pealMoves_readSegs _ h)

theorem pealMoves_postNotice (s : State) (c : Nat) (code : BitVec 16) (x : Option Nat) (b : Bytes) :
    PealMoves c s (postNotice s code x b) := .of_told (frame_postNotice s code x b) (postNotice_responses code x b)

theorem pealMoves_digest (s : State) (c : Nat) (e : PealEntry) (i : Nat) : PealMoves c s (pealDigest s c e i) := by
  unfold pealDigest
  exact .trans (.ite (fun _ => pealMoves_postNotice s c _ _ _) fun _ => .refl) (pealMoves_failWith _ c 3)

theorem frame_takeTokens {d cls b : Nat} (h : takeTokens s d cls b = some t) : AllBut [.mem] s t := by
  unfold takeTokens at h
  dsimp only at h
  split at h
  · obtain rfl := Option.some.inj h
    exact frame_setSlice s d cls _
  · split at h
    · obtain rfl := Option.some.inj h
      exact fun q hq => by
        cases q <;> first | exact absurd (by decide) hq | exact rfl | exact List.suffix_rfl | exact MailKept.refl _
    · cases h

theorem frame_holdTokens (s : State) (d cls : Nat) : AllBut [.mem] s (holdTokens s d cls) := frame_setBucket s _ _ _

/-- What every step of a fold over a state with a mark moves, the fold moves. -/
theorem foldl_marked {α β : Type} {R : State → State → Prop} {f : State × β → α → State × β} (refl : ∀ s, R s s)
    (trans : ∀ {s t u}, R s t → R t u → R s u) (h : ∀ a x, R a.1 (f a x).1) (l : List α) (a : State × β) : R a.1 (l.foldl f a).1 := by
  induction l generalizing a with
  | nil => exact refl a.1
  | cons x l ih => exact trans (h a x) (ih _)

theorem pealMoves_payChunk (s : State) (c n : Nat) : PealMoves c s (payChunk s c n) := by
  refine foldl_marked (R := PealMoves c) (fun _ => .refl) .trans (fun a b => ?_) _ (s, false)
  split
  · exact .refl
  · split
    · rename_i taken
      dsimp only
      exact (PealMoves.of_frame (frame_takeTokens taken)).trans (.of_modPeal _ c _)
    · exact .of_frame (frame_holdTokens a.1 _ _)

theorem pealMoves_chunk (s : State) (c : Nat) (e : PealEntry) (i : Nat) : PealMoves c s (pealChunk s c e i) := by
  unfold pealChunk
  split
  · exact pealMoves_digest s c e i
  · rename_i read
    have first := pealMoves_readChunkOf read
    dsimp only
    split
    · exact first.trans (pealMoves_digest _ c e i)
    · split
      · exact first.trans ((pealMoves_write _ c _ _ _).trans (pealMoves_failWith _ c 1))
      · exact first.trans ((pealMoves_write _ c _ _ _).trans (.of_modPeal _ c _))

theorem pealMoves_next (s : State) (c : Nat) : PealMoves c s (pealNext s c).1 := by
  unfold pealNext
  dsimp only
  split
  · exact .refl
  · split
    · split
      · split
        · exact pealMoves_payChunk s c _
        · exact (pealMoves_payChunk s c _).trans (pealMoves_chunk _ c _ _)
      · split
        · exact (pealMoves_write s c _ _ _).trans (pealMoves_failWith _ c 1)
        · dsimp only
          exact (pealMoves_write s c _ _ _).trans (.of_modPeal _ c _)
    · split
      · exact .refl
      · split
        · exact ((PealMoves.of_frame (frame_drawFree s 32)).trans (pealMoves_write _ c _ _ _)).trans (pealMoves_failWith _ c 1)
        · dsimp only
          exact ((PealMoves.of_frame (frame_drawFree s 32)).trans (pealMoves_write _ c _ _ _)).trans (.of_modPeal _ c _)

theorem pealMoves_run (n : Nat) : ∀ s : State, PealMoves c s (pealRun c n s) := by
  induction n with
  | zero => exact fun _ => .refl
  | succ n ih =>
    intro s
    unfold pealRun
    dsimp only
    split
    · exact (pealMoves_next s c).trans (ih _)
    · exact pealMoves_next s c

theorem pealMoves_go (s : State) (c : Nat) : PealMoves c s (pealGo s c) := pealMoves_run _ s

theorem pealMoves_start (s : State) (c : Nat) (kind : BitVec 8) (step : BitVec 48) : PealMoves c s (startPeal s c kind step) := by
  unfold startPeal
  extract_lets slot es s1 s2 s3 r
  have first : PealMoves c s s1 := .of_modPeal s c _
  have named : PealMoves c s1 s3 := (PealMoves.of_frame (frame_modDiag s1 _)).trans (.of_modPeal s2 c _)
  have zeros : PealMoves c s3 r.1 := pealMoves_write s3 c slot 0 _
  have all := first.trans (named.trans zeros)
  exact .ite (fun _ => first.trans (pealMoves_failWith s1 c 2)) fun _ => .ite (fun _ => all.trans (pealMoves_failWith r.1 c 1))
    fun _ => all.trans (pealMoves_go r.1 c)

theorem pealMoves_partial (s : State) (c : Nat) (step : BitVec 48) : PealMoves c s (partialPeal s c step) :=
  .ite (fun _ => pealMoves_start s c 3 step) fun _ => .refl

theorem pealMoves_commit (s : State) (c : Nat) (step : BitVec 48) : PealMoves c s (commitPeal s c step) := by
  unfold commitPeal
  extract_lets p every sched armed s1
  have first : PealMoves c s s1 := .ite (fun _ => .of_modPeal s c _) fun _ => .refl
  exact .ite (fun _ => .ite (fun _ => first.trans (pealMoves_start s1 c 1 step)) fun _ => first.trans (.of_modPeal s1 c _))
    fun _ => first.trans (pealMoves_partial s1 c step)

/-- Between two states a Peal moves nothing that counts as a tag failure where its partition is not confidential. -/
theorem PealMoves.noLockout (h : PealMoves c s t) (open_ : isConf s (getCtx s c).part = false) (hn : NoLockout s) : NoLockout t := fun k => by
  by_cases hk : k = c
  · rw [hk, (h.plain open_).1]
    exact hn c
  · rw [h.others k hk]
    exact hn k

end

end Sys2Proof.Machine
end

section
-- One proof after the other: a text of this length has more proofs waiting at once than the check has threads for.
set_option Elab.async false
/-! PROOFS. The ledger and the Downbeat from the side of the commands (R290 to R315, R356). -/
namespace Sys2Proof.Machine

/-! ### A command on the context that its request names -/

section
variable {s : State} {r : Req} {f : Nat → Context → Answer} {c : Nat}

theorem withOpen_outside (h : 64 ≤ r.ctx.toNat) : withOpen s r f = err s stBadArg 0 := if_pos h

theorem withOpen_closed (h : r.ctx.toNat < 64) (hc : (getCtx s r.ctx.toNat).st = .closed) : withOpen s r f = conflict s 5 0 0x2 :=
  (if_neg (Nat.not_le.mpr h)).trans (if_pos hc)

theorem withOpen_open (hc : c = r.ctx.toNat) (hn : c < 64) (ho : (getCtx s c).st ≠ .closed) : withOpen s r f = f c (getCtx s c) := by
  subst hc
  exact (if_neg (Nat.not_le.mpr hn)).trans (if_neg ho)

theorem withCtx_outside (h : 64 ≤ r.ctx.toNat) : withCtx s r f = err s stBadArg 0 := if_pos h

theorem withCtx_closed (h : r.ctx.toNat < 64) (hc : (getCtx s r.ctx.toNat).st = .closed) : withCtx s r f = conflict s 5 0 0x2 := by
  unfold withCtx
  rw [if_neg (Nat.not_le.mpr h)]
  dsimp only
  rw [hc]

theorem withCtx_open (hc : c = r.ctx.toNat) (hn : c < 64) (ho : (getCtx s c).st = .opened) : withCtx s r f = f c (getCtx s c) := by
  subst hc
  unfold withCtx
  rw [if_neg (Nat.not_le.mpr hn)]
  dsimp only
  rw [ho]

theorem withCtx_fenced (hc : c = r.ctx.toNat) (hn : c < 64) (ho : (getCtx s c).st = .fencing ∨ (getCtx s c).st = .fenced) :
    withCtx s r f = err s stFenced 0 := by
  subst hc
  unfold withCtx
  rw [if_neg (Nat.not_le.mpr hn)]
  dsimp only
  rcases ho with ho | ho <;> rw [ho]

end

/-! ### The ledger commands -/

/-- A command whose context has to exist and to be open, with its answer. -/
def AsksContext (i : Instr) (r : Req) (code : BitVec 16) (s : State) : Prop :=
  ∃ f, (exec i s = done (serve code setWork r i f s) ∨ exec i s = doneMem (serve code setWork r i f s)) ∧
    (64 ≤ r.ctx.toNat → f s = err s stBadArg 0) ∧
    (r.ctx.toNat < 64 → (getCtx s r.ctx.toNat).st = .closed → f s = conflict s 5 0 0x2)

theorem asksContext_ledger {i : Instr} {r : Req} {code : BitVec 16} (h : requestOf i = some (r, code, setWork)) (lo : 0x0301 ≤ code.toNat)
    (hi : code.toNat ≤ 0x030A) (s : State) : AsksContext i r code s := by
  cases i <;> simp only [requestOf, Option.some.injEq, Prod.mk.injEq, reduceCtorEq] at h <;> obtain ⟨rfl, rfl, -⟩ := h
  all_goals simp at lo hi
  case pairSet => exact ⟨_, .inl rfl, withOpen_outside, withOpen_closed⟩
  case absorb => exact ⟨_, .inr rfl, withOpen_outside, withOpen_closed⟩
  case downbeatArm => exact ⟨_, .inr rfl, withCtx_outside, withCtx_closed⟩
  case downbeatResolve => exact ⟨_, .inl rfl, withOpen_outside, withOpen_closed⟩
  case downbeatAbandon => exact ⟨_, .inl rfl, withOpen_outside, withOpen_closed⟩
  case shardRepair => exact ⟨_, .inr rfl, withOpen_outside, withOpen_closed⟩
  case shardFill => exact ⟨_, .inl rfl, withOpen_outside, withOpen_closed⟩
  case quotaSet => exact ⟨_, .inl rfl, withOpen_outside, withOpen_closed⟩
  case placement => exact ⟨_, .inl rfl, withOpen_outside, withOpen_closed⟩
  case ledgerTimes => exact ⟨_, .inl rfl, withOpen_outside, withOpen_closed⟩

section
variable {i : Instr} {r : Req} {code : BitVec 16} {legal : BitVec 32} {s : State} {f : State → Answer} {a : Answer}

theorem noLockout_reply (hl : a.later = false) (hn : NoLockout a.st) : NoLockout (reply r code legal a) := hn.settled (settled_reply hl)

/-- A command that ends with the lockouts is served as any other when its answer leaves no context near its bound. -/
theorem runsAs_of_calm (he : exec i s = doneMem (serve code legal r i f s)) (h : Ready code legal r s)
    (hcode : ¬(0x0501 ≤ code.toNat ∧ code.toNat ≤ 0x0504)) (ha : f s = a) (hl : a.later = false) (hn : NoLockout a.st) :
    RunsAs i r code legal f s := by
  refine runsAs_of_mem he h ?_
  rw [answer_taken hcode ha]
  exact noLockout_reply hl hn

theorem asksContext_refuses (k : AsksContext i r code s) (hr : Ready code setWork r s) (hn : NoLockout s)
    (hcode : ¬(0x0501 ≤ code.toNat ∧ code.toNat ≤ 0x0504)) :
    (64 ≤ r.ctx.toNat → Refuses i s r code 0x03 0) ∧
    (r.ctx.toNat < 64 → (getCtx s r.ctx.toNat).st = .closed → Conflicts i s r code 0x05 0 0x2) := by
  obtain ⟨f, run, out, shut⟩ := k
  have runs {a : Answer} (ha : f s = a) (hl : a.later = false) (st : a.st = s) : RunsAs i r code setWork f s :=
    run.elim id fun h => runsAs_of_calm h hr hcode ha hl (by rwa [st])
  exact ⟨fun h => refuses_err (runs (out h) rfl rfl) hr (out h) hcode,
    fun h hc => conflicts_of (runs (shut h hc) rfl rfl) hr (shut h hc) hcode⟩

end

/-! ### PAIR_SET, ABSORB, QUOTA_SET, PLACEMENT and LEDGER_TIMES -/

section
variable {s : State} {r : Req} {c : Nat} (hc : c = r.ctx.toNat) (hn : c < 64) (ho : (getCtx s c).st ≠ .closed)
include hc hn ho

section
variable {peer wm wl : BitVec 32} {pc : BitVec 8}

/-- R308: the partner that a PAIR_SET names. -/
def partnerNamed (peer wm wl : BitVec 32) (pc : BitVec 8) : Pairing := Pairing.mk (peer.setWidth 17) (pc.setWidth 6) wm wl

/-- R311: the partner named is another than the one named before. -/
def otherPartner (l : Ledger) (q : Pairing) : Bool := ((l.pendPair.or l.pair).map fun p => p.peer != q.peer || p.peerCtx != q.peerCtx).getD false

theorem ansPairSet_named (hp : peer.toNat < 2 ^ 17) (hq : pc.toNat < 64) (hm : windowTo s (getCtx s c) wm.toNat peer.toNat pc.toNat = true)
    (hl : windowTo s (getCtx s c) wl.toNat peer.toNat pc.toNat = true) : ansPairSet r peer pc wm wl s =
      ok (modLed s c fun l => if otherPartner (getCtx s c).led (partnerNamed peer wm wl pc)
        then { endFills l with pendPair := some (partnerNamed peer wm wl pc) }
        else { l with pendPair := some (partnerNamed peer wm wl pc) }) [] := by
  refine (withOpen_open hc hn ho).trans (if_neg ?_)
  rw [hm, hl, decide_eq_false (by omega), decide_eq_false (by omega)]
  decide

theorem ansPairSet_bad (h : 2 ^ 17 ≤ peer.toNat ∨ 64 ≤ pc.toNat ∨ windowTo s (getCtx s c) wm.toNat peer.toNat pc.toNat = false ∨
    windowTo s (getCtx s c) wl.toNat peer.toNat pc.toNat = false) : ansPairSet r peer pc wm wl s = err s stBadArg 0 := by
  refine (withOpen_open hc hn ho).trans (if_pos ?_)
  simp only [Bool.or_eq_true, decide_eq_true_eq, Bool.not_eq_true']
  tauto

omit hc hn ho in
theorem otherPartner_iff (hp : peer.toNat < 2 ^ 17) (hq : pc.toNat < 64) (l : Ledger) : otherPartner l (partnerNamed peer wm wl pc) = true ↔
    ∃ p, l.pendPair.or l.pair = some p ∧ (p.peer.toNat ≠ peer.toNat ∨ p.peerCtx.toNat ≠ pc.toNat) := by
  have addr : (peer.setWidth 17).toNat = peer.toNat := by rw [BitVec.toNat_setWidth, Nat.mod_eq_of_lt hp]
  have ctx : (pc.setWidth 6).toNat = pc.toNat := by rw [BitVec.toNat_setWidth, Nat.mod_eq_of_lt hq]
  unfold otherPartner partnerNamed
  cases l.pendPair.or l.pair with
  | none => simp
  | some p => simp only [Option.map_some, Option.getD_some, Bool.or_eq_true, bne_iff_ne, ne_eq, Option.some.injEq, exists_eq_left',
      BitVec.toNat_inj.symm, addr, ctx]

omit ho hn hc in
theorem modLed_eq (f : Ledger → Ledger) : modLed s c f = setCtx s c { getCtx s c with led := f (getCtx s c).led } := rfl

end

section
variable {sh : BitVec 32}

/-- R313: the mirror taken as the absorbed shard, and the pairing ended. -/
def absorbedLed (l : Ledger) (sh : BitVec 32) : Ledger :=
  { l with absorbed := true, absorbId := sh, unmirrored := true, pair := none, filling := false, transfers := [], moved := [] }

theorem ansAbsorb_again (h : (getCtx s c).led.absorbed = true) :
    ansAbsorb r sh s = conflict s 1 (dbCode (getCtx s c).led.st) 0 := (withOpen_open hc hn ho).trans (if_pos h)

theorem absorb_absorbs (hr : Ready 0x0302 setWork r s) (h : (getCtx s c).led.absorbed = false) (open_ : isConf s (getCtx s c).part = false)
    (calm : NoLockout s) : ∃ t, exec (.absorb r sh) s = .next t ∧ Answers s t r 0x0302 0x00 [] ∧
      (getCtx t c).led = absorbedLed (getCtx s c).led sh ∧ t.slots = s.slots ∧ t.mem.cells = s.mem.cells ∧
      ∀ k, k ≠ c → getCtx t k = getCtx s k := by
  obtain ⟨v, hv⟩ : ∃ v, v = modLed s c fun l => absorbedLed l sh := ⟨_, rfl⟩
  have ans : ansAbsorb r sh s = ok (partialPeal v c (getCtx s c).led.committed) [] := by
    rw [hv]
    exact (withOpen_open hc hn ho).trans (if_neg (by simp [h]))
  have own : getCtx v c = { getCtx s c with led := absorbedLed (getCtx s c).led sh } := by
    rw [hv]
    exact getCtx_modCtx_same s hn _
  have others (k : Nat) (hk : k ≠ c) : getCtx v k = getCtx s k := by
    rw [hv]
    exact getCtx_modCtx_other s hk _
  have frame : AllBut [.ctxs] s v := by
    rw [hv]
    exact frame_modLed s c _
  have calm' : NoLockout v := fun k => by
    by_cases hk : k = c
    · rw [hk, own]
      exact calm c
    · rw [others k hk]
      exact calm k
  have moves := pealMoves_partial v c (getCtx s c).led.committed
  generalize partialPeal v c (getCtx s c).led.committed = u at moves ans
  have still : isConf v (getCtx v c).part = false := by
    rw [isConf_congr (frame .hub (by decide)), own]
    exact open_
  have runs : RunsAs (.absorb r sh) r 0x0302 setWork (ansAbsorb r sh) s :=
    runsAs_of_calm (a := ok u []) rfl hr (by decide) ans rfl (moves.noLockout still calm')
  have told : u.mail.responses = s.mail.responses := moves.told.trans (congrArg Mail.responses (frame .mail (by decide)))
  obtain ⟨t, run, kept, answered⟩ := serves_ok runs hr ans told
  have ctx (k : Nat) : getCtx t k = getCtx u k := getCtx_congr kept.out.ctxs k
  refine ⟨t, run, answered, by rw [ctx, moves.led, own], ?_, ?_, fun k hk => by rw [ctx, moves.others k hk, others k hk]⟩
  · exact Eq.trans kept.out.slots (Eq.trans (moves.frame .slots (by decide)) (frame .slots (by decide)))
  · have cells : u.mem.cells = s.mem.cells := Eq.trans (moves.frame .cells (by decide)) (frame .cells (by decide))
    rw [kept.out.mem, cells]

end

theorem ansQuotaSet_waits {q : BitVec 32} (h : valueOk (ctxSetting s c) (coresIn s (getCtx s c)) true 0x603 q.toNat = true) :
    ansQuotaSet r q s = ok (modLed s c fun l => { l with pendQuota := some q }) [] := (withOpen_open hc hn ho).trans (if_pos h)

theorem ansQuotaSet_bad {q : BitVec 32} (h : valueOk (ctxSetting s c) (coresIn s (getCtx s c)) true 0x603 q.toNat = false) :
    ansQuotaSet r q s = err s stBadArg 0 := (withOpen_open hc hn ho).trans (if_neg (by simp [h]))

/-! ### PLACEMENT (R315) -/

section
variable {g a : BitVec 8}

/-- R315: the generation was cleared less than 200 us ago. -/
def clearedLately (s : State) (l : Ledger) (g : BitVec 8) : Bool :=
  (mapGet? l.cleared g.toNat).any fun t => decide (ticksSince s.time.now t < 200 * ticksPerUs)

omit hc hn ho in
theorem clearedLately_false (h : ∀ t, mapGet? (getCtx s c).led.cleared g.toNat = some t → 800000 ≤ ticksSince s.time.now t) :
    clearedLately s (getCtx s c).led g = false := by
  unfold clearedLately
  cases e : mapGet? (getCtx s c).led.cleared g.toNat with
  | none => rfl
  | some t =>
    have long := h t e
    exact decide_eq_false (by norm_num [ticksPerUs]; omega)

omit hc hn ho in
theorem clearedLately_true (h : ∃ t, mapGet? (getCtx s c).led.cleared g.toNat = some t ∧ ticksSince s.time.now t < 800000) :
    clearedLately s (getCtx s c).led g = true := by
  obtain ⟨t, e, short⟩ := h
  unfold clearedLately
  rw [e]
  exact decide_eq_true (by norm_num [ticksPerUs]; omega)

theorem ansPlacement_bad (h : 2 ≤ a.toNat) : ansPlacement r g a s = err s stBadArg 0 := (withOpen_open hc hn ho).trans (if_pos h)

theorem ansPlacement_early (h : a = 1) (e : clearedLately s (getCtx s c).led g = true) : ansPlacement r g a s = err s stDenied 0 := by
  subst h
  exact (withOpen_open hc hn ho).trans ((if_neg (by decide)).trans (if_pos e))

theorem ansPlacement_set (h : a.toNat < 2) (e : a = 1 → clearedLately s (getCtx s c).led g = false) : ansPlacement r g a s =
    ok (modLed s c fun l => if l.st = .commitPending then { l with pendPgen := l.pendPgen ++ [(g, a == 1)] }
      else setPlacement s.time.now l g (a == 1)) [] := by
  refine (withOpen_open hc hn ho).trans ((if_neg (by omega)).trans (if_neg ?_))
  rw [Bool.and_eq_true, decide_eq_true_eq]
  rintro ⟨ha, early⟩
  exact absurd (early.symm.trans (e ha)) (by decide)

omit hc hn ho in
theorem getLsbD_genBit (g : BitVec 8) (k : Nat) : (BitVec.ofNat 256 (2 ^ g.toNat)).getLsbD k = decide (k = g.toNat) := by
  have small := g.isLt
  rw [BitVec.getLsbD_ofNat, Nat.testBit_two_pow]
  by_cases h : k = g.toNat
  · simp [h]
    omega
  · simp [h, Ne.symm h]

omit hc hn ho in
/-- R315: a placement generation taken. -/
theorem setPlacement_takes (now : BitVec 64) (l : Ledger) : (setPlacement now l g true).accept.getLsbD g.toNat = true ∧
    ∀ k, k ≠ g.toNat → (setPlacement now l g true).accept.getLsbD k = l.accept.getLsbD k := by
  have bit (k : Nat) : (setPlacement now l g true).accept.getLsbD k = (l.accept.getLsbD k || decide (k = g.toNat)) := by
    show (l.accept ||| BitVec.ofNat 256 (2 ^ g.toNat)).getLsbD k = _
    rw [BitVec.getLsbD_or, getLsbD_genBit]
  exact ⟨by simp [bit], fun k hk => by simp [bit, hk]⟩

omit hc hn ho in
/-- R315: a placement generation cleared, and when. -/
theorem setPlacement_clears (now : BitVec 64) (l : Ledger) : (setPlacement now l g false).accept.getLsbD g.toNat = false ∧
    (l.accept.getLsbD g.toNat = true → mapGet? (setPlacement now l g false).cleared g.toNat = some now) ∧
    ∀ k, k ≠ g.toNat → (setPlacement now l g false).accept.getLsbD k = l.accept.getLsbD k := by
  by_cases h : l.accept.getLsbD g.toNat = true
  · have eq : setPlacement now l g false = { l with
        accept := l.accept &&& ~~~(BitVec.ofNat 256 (2 ^ g.toNat)), cleared := mapSet l.cleared g.toNat now } := if_pos h
    have bit (k : Nat) (hk : k < 256) : (setPlacement now l g false).accept.getLsbD k = (l.accept.getLsbD k && !decide (k = g.toNat)) := by
      rw [eq, BitVec.getLsbD_and, BitVec.getLsbD_not, getLsbD_genBit, decide_eq_true hk, Bool.true_and]
    have small := g.isLt
    refine ⟨by simp [bit _ (by omega : g.toNat < 256)], fun _ => by rw [eq]; exact mapGet?_set_same _ _ _, fun k hk => ?_⟩
    by_cases inside : k < 256
    · simp [bit k inside, hk]
    · rw [BitVec.getLsbD_of_ge _ _ (by omega), BitVec.getLsbD_of_ge _ _ (by omega)]
  · have eq : setPlacement now l g false = l := if_neg h
    rw [eq]
    exact ⟨by simpa using h, fun h' => absurd h' h, fun _ _ => rfl⟩

theorem placement_sets (hr : Ready 0x0309 setWork r s) (h : a.toNat < 2) (e : a = 1 → clearedLately s (getCtx s c).led g = false)
    (idle : (getCtx s c).led.st ≠ .commitPending) : ∃ t, exec (.placement r g a) s = .next t ∧ Answers s t r 0x0309 0x00 [] ∧ t.mem = s.mem ∧
      (getCtx t c).led = setPlacement s.time.now (getCtx s c).led g (a == 1) ∧ ∀ k, k ≠ c → getCtx t k = getCtx s k := by
  obtain ⟨t, run, kept, told⟩ := serves_ok (show RunsAs (.placement r g a) r 0x0309 setWork (ansPlacement r g a) s from rfl) hr
    (ansPlacement_set hc hn ho h e) rfl
  refine ⟨t, run, told, kept.out.mem, ?_, fun k hk => ?_⟩
  · rw [getCtx_congr kept.out.ctxs, modLed, getCtx_modCtx_same s hn]
    exact if_neg idle
  · rw [getCtx_congr kept.out.ctxs, modLed, getCtx_modCtx_other s hk]

theorem placement_waits (hr : Ready 0x0309 setWork r s) (h : a.toNat < 2) (e : a = 1 → clearedLately s (getCtx s c).led g = false)
    (pending : (getCtx s c).led.st = .commitPending) : Serves (.placement r g a) s (setCtx s c { getCtx s c with
      led := { (getCtx s c).led with pendPgen := (getCtx s c).led.pendPgen ++ [(g, a == 1)] } }) r 0x0309 0x00 [] := by
  have ans := ansPlacement_set hc hn ho h e
  rw [modLed_eq, if_pos pending] at ans
  exact serves_ok rfl hr ans rfl

end

/-! ### LEDGER_TIMES (R314) -/

section
variable {f : BitVec 64} {n d : BitVec 8}

theorem ansLedgerTimes_bad (h : n = 0 ∨ 62 < n.toNat ∨ 2 ≤ d.toNat) : ansLedgerTimes r none f n d s = err s stBadArg 0 := by
  refine (withOpen_open hc hn ho).trans (if_pos ?_)
  rw [Bool.or_eq_true, Bool.not_eq_true', ← Bool.not_eq_true, within_iff, decide_eq_true_eq]
  rcases h with rfl | h | h
  · simp
  · omega
  · omega

theorem ansLedgerTimes_answers (h1 : 1 ≤ n.toNat) (h2 : n.toNat ≤ 62) (hd : d.toNat < 2) : ansLedgerTimes r none f n d s =
    ok s (((List.range n.toNat).flatMap fun i =>
        (((getCtx s c).led.times.find? fun t => t.step.toNat == f.toNat + i).map timingBytes).getD (List.replicate 64 0)) ++
      (if d = 0 then [] else if isConf s (getCtx s c).part = true then List.replicate 64 0
        else keptDigest (getCtx s c).led.kept ++ keptDigest (getCtx s c).led.keptMirror)) := by
  refine (withOpen_open hc hn ho).trans ((if_neg ?_).trans (congrArg (ok s) (congrArg₂ _ ?_ ?_)))
  · rw [within_iff.mpr ⟨h1, h2⟩, decide_eq_false (by omega)]
    decide
  · refine congrArg (List.flatMap · (List.range n.toNat)) (funext fun i => ?_)
    cases (getCtx s c).led.times.find? fun t => t.step.toNat == f.toNat + i <;> rfl
  · have two : d = 0 ∨ d = 1 := by
      rcases (by omega : d.toNat = 0 ∨ d.toNat = 1) with e | e
      · exact .inl (BitVec.eq_of_toNat_eq e)
      · exact .inr (BitVec.eq_of_toNat_eq e)
    rcases two with rfl | rfl
    · rfl
    · rw [if_pos rfl, if_neg (show ¬(1 : BitVec 8) = 0 by decide), mayRead]
      cases isConf s (getCtx s c).part <;> rfl

end

end

end Sys2Proof.Machine
end

section
-- One proof after the other: a text of this length has more proofs waiting at once than the check has threads for.
set_option Elab.async false
/-! PROOFS. The Downbeat: arming, the abort of a step, the vote (R295 to R304). -/
namespace Sys2Proof.Machine

/-! ### The abort of a step (R301) -/

/-- R301: the reason that an aborted step shows. -/
def abortReason (l : Ledger) (reason : Nat) : BitVec 8 := if l.veto ∧ reason ≠ 0x0C then l.reason else BitVec.ofNat 8 reason

/-- What an abort comes to: the ledger says so, the programs of the engines stay, and no response is put on record. -/
structure StepAborted (s t : State) (c reason : Nat) : Prop where
  st : (getCtx t c).led.st = .aborted
  aborts : (getCtx t c).led.aborts = (getCtx s c).led.aborts + 1
  reason : (getCtx t c).led.reason = abortReason (getCtx s c).led reason
  committed : (getCtx t c).led.committed = (getCtx s c).led.committed
  fab : t.fab = s.fab
  told : t.mail.responses = s.mail.responses

section
variable {s : State} {c : Nat}

/-- The streams of the step in progress stop. -/
def stepStopped (s : State) (c : Nat) : State :=
  (partCores s (getCtx s c).part).foldl (fun s' n =>
    stopStreams s' n false fun t => t.st == .running && t.ctx == c && (match t.item with
      | some w => w.step == (getCtx s c).led.step
      | none => false)) s

/-- The records of the step in progress are failed. -/
def stepRecords (s : State) (c : Nat) (l : Ledger) : State :=
  l.records.foldl (fun s va =>
    match readRec s c va with
    | some r => if r.step = l.step ∧ 1 ≤ r.state ∧ r.state ≤ 3 then setRecState s c va 5 else s
    | none => s) s

theorem getCtx_stepRecords (l : Ledger) : (getCtx (stepRecords s c l) c).led = (getCtx s c).led ∧
    AllBut (.sec :: .ctxs :: writeParts) s (stepRecords s c l) := by
  have moves : MemMoves writeParts c s (stepRecords s c l) :=
    memMoves_recStates 5 (fun _ _ r => r.step = l.step ∧ 1 ≤ r.state ∧ r.state ≤ 3) _ s
  obtain ⟨-, w, own⟩ := moves.tags
  exact ⟨by rw [own]; rfl, moves.frame⟩

theorem stepAborted (hc : c < 64) (reason : Nat) : StepAborted s (abortStep s c reason) c reason := by
  unfold abortStep
  extract_lets l why s1 s2 i v s3 s4 s5 s6 l'
  have stopped : AllBut [.slots, .lcores] s s1 := AllBut.foldl (fun s n => frame_stopStreams s n _ _) _ s
  have records : (getCtx s2 c).led = (getCtx s1 c).led ∧ AllBut (.sec :: .ctxs :: writeParts) s1 s2 := getCtx_stepRecords (s := s1) l
  have version : AllBut [.ctxs] s2 s3 := AllBut.ite (fun _ => frame_setVer _ c _ _) fun _ => .refl _ _
  have led3 : (getCtx s3 c).led = l := by
    have e : (getCtx s3 c).led = (getCtx s2 c).led := by
      unfold s3
      split
      · rw [setVer, getCtx_modCtx_same s2 hc]
      · rfl
    rw [e, records.1, getCtx_congr (stopped .ctxs (by decide))]
  have led4 : (getCtx s4 c).led = { clearAttempt l with
      st := .aborted, aborts := l.aborts + 1, reason := why, abortAt := s3.time.now, commitAt := none,
      reasons := l.reasons ++ [why], launched := false, redo := true } := by
    unfold s4
    rw [modLed, getCtx_modCtx_same s3 hc, led3]
  have led5 : ∃ ts, (getCtx s6 c).led = { (getCtx s4 c).led with times := ts } := by
    have same : (getCtx s6 c).led = (getCtx s5 c).led := by
      have life : AllBut [.diag] s5 s6 := frame_lifeAdd s5 _ _
      rw [getCtx_congr (life .ctxs (by decide))]
    rw [same]
    unfold s5
    rw [modTiming, modLed, getCtx_modCtx_same s4 hc]
    dsimp only
    split <;> exact ⟨_, rfl⟩
  obtain ⟨ts, led6⟩ := led5
  have rest : AllBut (.sec :: .ctxs :: .slots :: .lcores :: writeParts) s s6 :=
    stopped.mono.trans (records.2.mono.trans (version.mono.trans ((frame_modLed s3 c _).mono.trans
      ((frame_modTiming s4 c _ _).mono.trans (frame_lifeAdd s5 _ _).mono))))
  have done6 : StepAborted s s6 c reason :=
    ⟨by rw [led6, led4], by rw [led6, led4], by rw [led6, led4]; rfl, by rw [led6, led4]; rfl, rest .fab (by decide),
      congrArg Mail.responses (rest .mail (by decide))⟩
  split
  · have sent := frame_postNotice s6 0x0008 (some c) (replayLimitBody l')
    have ctx : getCtx (postNotice s6 0x0008 (some c) (replayLimitBody l')) c = getCtx s6 c := getCtx_congr (sent .ctxs (by decide)) c
    exact ⟨by rw [ctx, done6.st], by rw [ctx, done6.aborts], by rw [ctx, done6.reason], by rw [ctx, done6.committed],
      Eq.trans (sent .fab (by decide)) done6.fab, (postNotice_responses _ _ _).trans done6.told⟩
  · exact done6

end

/-! ### DOWNBEAT_ARM (R295) -/

section
variable {s u : State} {c : Nat} {va : BitVec 64} {tl : BitVec 40} {p : Program}

theorem parseProgram_ctx {gen : BitVec 16} {v : BitVec 48} {launch : Armed} {d : Bool} {h : Bytes} {ins : List (BitVec 256)}
    (hp : parseProgram c gen v launch d h ins = some p) : p.ctx = c := by
  unfold parseProgram at hp
  dsimp only at hp
  split at hp
  · rw [← Option.some.inj hp]
  · cases hp

/-- Loading a program reads memory, and what is loaded is a program of the context. -/
theorem loadProgram_moves {d : Bool} (h : loadProgram s c va tl d = some (u, p)) : MemMoves readParts c s u ∧ p.ctx = c := by
  unfold loadProgram at h
  split at h
  · cases h
  · split at h
    · cases h
    · rename_i v1 head read
      dsimp only at h
      split at h
      · cases h
      · split at h
        · cases h
        · rename_i v2 body read2
          obtain ⟨q, parsed, e⟩ := Option.map_eq_some_iff.mp h
          obtain ⟨rfl, rfl⟩ := Prod.mk.inj e
          exact ⟨.trans (by decide) (memMoves_readBytesVa read) (memMoves_readBytesVa read2), parseProgram_ctx parsed⟩

end

section
variable {s : State} {r : Req} {c : Nat} {step tl va : BitVec 64} {e : BitVec 8}

theorem canArm_iff (l : Ledger) : canArm l = true ↔ l.st = .idle ∨ l.st = .aborted := by simp [canArm]

theorem ansDownbeatArm_fenced (hc : c = r.ctx.toNat) (hn : c < 64) (h : (getCtx s c).st = .fencing ∨ (getCtx s c).st = .fenced) :
    ansDownbeatArm r step tl va e s = err s stFenced 0 := withCtx_fenced hc hn h

section
variable (hc : c = r.ctx.toNat) (hn : c < 64) (ho : (getCtx s c).st = .opened)
include hc hn ho

theorem ansDownbeatArm_conflict (h : (getCtx s c).led.noState = true ∨ (getCtx s c).led.st ≠ .idle ∧ (getCtx s c).led.st ≠ .aborted) :
    ansDownbeatArm r step tl va e s = conflict s 1 (dbCode (getCtx s c).led.st) 0x21 := by
  refine (withCtx_open hc hn ho).trans (if_pos ?_)
  rw [Bool.or_eq_true, Bool.not_eq_true', ← Bool.not_eq_true, canArm_iff]
  tauto

variable (free : (getCtx s c).led.noState = false) (arm : (getCtx s c).led.st = .idle ∨ (getCtx s c).led.st = .aborted)
include free arm

theorem ansDownbeatArm_bad (h : step.toNat ≠ ((getCtx s c).led.committed + 1).toNat ∨ 4 ≤ e.toNat ∨
    loadProgram s c va (tl.setWidth 40) true = none) : ansDownbeatArm r step tl va e s = err s stBadArg 0 := by
  refine (withCtx_open hc hn ho).trans ((if_neg ?_).trans ?_)
  · simp [free, (canArm_iff _).mpr arm]
  · by_cases bad : step.toNat ≠ ((getCtx s c).led.committed + 1).toNat ∨ 4 ≤ e.toNat
    · exact if_pos bad
    · rw [if_neg bad, (or_assoc.mpr h).resolve_left bad]

theorem ansDownbeatArm_loads {u : State} {p : Program} (hs : step.toNat = ((getCtx s c).led.committed + 1).toNat) (he : e.toNat < 4)
    (hp : loadProgram s c va (tl.setWidth 40) true = some (u, p)) : ansDownbeatArm r step tl va e s =
      if engineFull u e.toNat = true then err u stNoResource 0 else
        ok (armStep (queueProgram (if (getCtx s c).led.st = .aborted then lifeAdd u 0x28 1 else u) e.toNat p) c (step.setWidth 48)
          (tl.setWidth 40) (va.setWidth 48) e.toNat) [] := by
  refine (withCtx_open hc hn ho).trans ((if_neg ?_).trans ((if_neg ?_).trans ?_))
  · simp [free, (canArm_iff _).mpr arm]
  · simp [hs, he]
  · rw [hp]

end

theorem engineFull_congr {s u : State} (h : u.fab = s.fab) (e : Nat) : engineFull u e = engineFull s e := by
  rw [engineFull, getEngine_congr (congrArg Fabric.engines h), engineFull]

theorem arm_full {s u : State} {p : Program} (hc : c = r.ctx.toNat) (hn : c < 64) (ho : (getCtx s c).st = .opened)
    (free : (getCtx s c).led.noState = false) (arm : (getCtx s c).led.st = .idle ∨ (getCtx s c).led.st = .aborted)
    (open_ : isConf s (getCtx s c).part = false) (calm : NoLockout s) (hr : Ready 0x0303 setWork r s)
    (hs : step.toNat = ((getCtx s c).led.committed + 1).toNat) (he : e.toNat < 4)
    (hp : loadProgram s c va (tl.setWidth 40) true = some (u, p)) (full : engineFull s e.toNat = true) :
    ∃ t, exec (.downbeatArm r step tl va e) s = .next t ∧ Answers s t r 0x0303 0x05 [] ∧ t.fab = s.fab ∧
      t.mem.cells = s.mem.cells ∧ t.ctxs = s.ctxs := by
  have frame := (loadProgram_moves hp).1.plain open_
  have fab : u.fab = s.fab := frame .fab (by decide)
  have ctxs : u.ctxs = s.ctxs := frame .ctxs (by decide)
  have ans : ansDownbeatArm r step tl va e s = err u stNoResource 0 := by
    rw [ansDownbeatArm_loads hc hn ho free arm hs he hp, engineFull_congr fab, if_pos full]
  have calm' : NoLockout u := fun k => by
    rw [getCtx_congr ctxs]
    exact calm k
  have runs : RunsAs (.downbeatArm r step tl va e) r 0x0303 setWork (ansDownbeatArm r step tl va e) s :=
    runsAs_of_calm (a := err u stNoResource 0) rfl hr (by decide) ans rfl calm'
  obtain ⟨t, run, kept, told⟩ := serves_of_answer (a := err u stNoResource 0) runs hr (answer_taken (by decide) ans) rfl (.refl u)
    (congrArg Mail.responses (frame .mail (by decide)))
  have cells : u.mem.cells = s.mem.cells := frame .cells (by decide)
  exact ⟨t, run, told, kept.out.fab.trans fab, by rw [kept.out.mem, cells], kept.out.ctxs.trans ctxs⟩

/-- A step armed: the program of the Downbeat stands last at its engine, and the ledger is ARMED. -/
theorem armStep_moves {s u : State} {c e : Nat} {p : Program} (hc : c < 64) (he : e < 4) (ctxs : u.ctxs = s.ctxs) (fab : u.fab = s.fab)
    (hp : p.ctx = c) (step : BitVec 48) (t : BitVec 40) (a : BitVec 48) :
    AllBut [.ctxs, .fab, .engines] u (armStep (queueProgram u e p) c step t a e) ∧
    (∃ l : Ledger, getCtx (armStep (queueProgram u e p) c step t a e) c = { getCtx s c with led := l } ∧ l.st = .armed ∧ l.step = step ∧
      l.tLaunch = t ∧ l.ready = false ∧ l.veto = false ∧ l.committed = (getCtx s c).led.committed) ∧
    (getEngine (armStep (queueProgram u e p) c step t a e) e).queued = (getEngine s e).queued ++
      [if ctxHeld (getCtx s c) then { p with launch := { p.launch with held := true, seen := none } } else p] ∧
    ∀ k, k ≠ c → getCtx (armStep (queueProgram u e p) c step t a e) k = getCtx s k := by
  have queued : AllBut [.fab, .engines] u (queueProgram u e p) := frame_setEngine u e _
  have ctx (k : Nat) : getCtx (queueProgram u e p) k = getCtx s k :=
    (getCtx_congr (queued .ctxs (by decide)) k).trans (getCtx_congr ctxs k)
  refine ⟨queued.mono.trans (frame_modLed _ c _).mono, ?_, ?_, fun k hk => ?_⟩
  · rw [armStep, modLed, getCtx_modCtx_same _ hc, ctx]
    refine ⟨_, rfl, rfl, rfl, rfl, rfl, rfl, ?_⟩
    dsimp only
    split <;> rfl
  · have own : (getEngine (queueProgram u e p) e).queued = (getEngine u e).queued ++
        [if ctxHeld (getCtx u p.ctx) then { p with launch := { p.launch with held := true, seen := none } } else p] := by
      rw [queueProgram]
      exact congrArg Engine.queued (getEngine_setEngine_same u he _)
    rw [← getEngine_congr (congrArg Fabric.engines fab), ← getCtx_congr ctxs, ← hp]
    exact own
  · rw [armStep, modLed, getCtx_modCtx_other _ hk, ctx]

theorem arm_arms {s u : State} {p : Program} (hc : c = r.ctx.toNat) (hn : c < 64) (ho : (getCtx s c).st = .opened)
    (free : (getCtx s c).led.noState = false) (arm : (getCtx s c).led.st = .idle ∨ (getCtx s c).led.st = .aborted)
    (open_ : isConf s (getCtx s c).part = false) (calm : NoLockout s) (hr : Ready 0x0303 setWork r s)
    (hs : step.toNat = ((getCtx s c).led.committed + 1).toNat) (he : e.toNat < 4)
    (hp : loadProgram s c va (tl.setWidth 40) true = some (u, p)) (room : engineFull s e.toNat = false) :
    ∃ t, exec (.downbeatArm r step tl va e) s = .next t ∧ Answers s t r 0x0303 0x00 [] ∧ (getCtx t c).led.st = .armed ∧
      (getCtx t c).led.step = step.setWidth 48 ∧ (getCtx t c).led.tLaunch = tl.setWidth 40 ∧ (getCtx t c).led.ready = false ∧
      (getCtx t c).led.veto = false ∧ (getCtx t c).led.committed = (getCtx s c).led.committed ∧
      (getEngine t e.toNat).queued = (getEngine s e.toNat).queued ++
        [if ctxHeld (getCtx s c) then { p with launch := { p.launch with held := true, seen := none } } else p] ∧
      t.mem.cells = s.mem.cells ∧ ∀ k, k ≠ c → getCtx t k = getCtx s k := by
  obtain ⟨moves, own⟩ := loadProgram_moves hp
  have loaded := moves.plain open_
  have ans := ansDownbeatArm_loads (tl := tl) hc hn ho free arm hs he hp
  rw [engineFull_congr (loaded .fab (by decide)), if_neg (by simp [room])] at ans
  obtain ⟨v, hv⟩ : ∃ v, v = if (getCtx s c).led.st = .aborted then lifeAdd u 0x28 1 else u := ⟨_, rfl⟩
  have frame : AllBut readParts s v := by
    rw [hv]
    exact .ite (fun _ => loaded.trans (frame_lifeAdd u _ _).mono) fun _ => loaded
  rw [← hv] at ans
  obtain ⟨armed, ⟨l, ctx, facts⟩, queue, others⟩ := armStep_moves (s := s) hn he (frame .ctxs (by decide)) (frame .fab (by decide)) own
    (step.setWidth 48) (tl.setWidth 40) (va.setWidth 48)
  generalize armStep (queueProgram v e.toNat p) c (step.setWidth 48) (tl.setWidth 40) (va.setWidth 48) e.toNat = w at armed ctx queue others ans
  have calm' : NoLockout w := fun k => by
    by_cases hk : k = c
    · rw [hk, ctx]
      exact calm c
    · rw [others k hk]
      exact calm k
  have runs : RunsAs (.downbeatArm r step tl va e) r 0x0303 setWork (ansDownbeatArm r step tl va e) s :=
    runsAs_of_calm (a := ok w []) rfl hr (by decide) ans rfl calm'
  have mail : w.mail = s.mail := Eq.trans (armed .mail (by decide)) (frame .mail (by decide))
  obtain ⟨t, run, kept, told⟩ := serves_ok runs hr ans (congrArg Mail.responses mail)
  have cells : w.mem.cells = s.mem.cells := Eq.trans (armed .cells (by decide)) (frame .cells (by decide))
  have at_ : getCtx t c = { getCtx s c with led := l } := (getCtx_congr kept.out.ctxs c).trans ctx
  obtain ⟨st, stp, tlaunch, ready, veto, committed⟩ := facts
  refine ⟨t, run, told, by rw [at_, st], by rw [at_, stp], by rw [at_, tlaunch], by rw [at_, ready], by rw [at_, veto],
    by rw [at_, committed], ?_, by rw [kept.out.mem, cells], fun k hk => (getCtx_congr kept.out.ctxs k).trans (others k hk)⟩
  rw [getEngine_congr (congrArg Fabric.engines kept.out.fab)]
  exact queue

end

/-! ### DOWNBEAT_RESOLVE and DOWNBEAT_ABANDON (R302, R304) -/

section
variable {s : State} {r : Req} {c : Nat} (hc : c = r.ctx.toNat) (hn : c < 64) (ho : (getCtx s c).st ≠ .closed)
include hc hn ho

section
variable {v : BitVec 8} {tc : BitVec 64}

theorem ansDownbeatResolve_conflict (h : (getCtx s c).led.st ≠ .inDoubt) :
    ansDownbeatResolve r v tc s = conflict s 1 (dbCode (getCtx s c).led.st) 0x10 := (withOpen_open hc hn ho).trans (if_pos h)

theorem ansDownbeatResolve_commits (h : (getCtx s c).led.st = .inDoubt) (hv : v = 1) : ansDownbeatResolve r v tc s =
    ok (setCtx s c { getCtx s c with led := { (getCtx s c).led with
      st := .commitPending, tCommit := tc.setWidth 40, commitAt := some (armTime s (tc.setWidth 40)) } }) [] :=
  (withOpen_open hc hn ho).trans ((if_neg (not_not.mpr h)).trans (if_pos hv))

theorem ansDownbeatResolve_aborts (h : (getCtx s c).led.st = .inDoubt) (hv : v = 0) :
    ansDownbeatResolve r v tc s = ok (abortStep s c 0x0C) [] := by
  subst hv
  exact (withOpen_open hc hn ho).trans ((if_neg (not_not.mpr h)).trans ((if_neg (by decide)).trans (if_pos rfl)))

theorem ansDownbeatResolve_bad (h : (getCtx s c).led.st = .inDoubt) (hv : 2 ≤ v.toNat) : ansDownbeatResolve r v tc s = err s stBadArg 0 := by
  have h1 : v ≠ 1 := fun e => by simp [e] at hv
  have h0 : v ≠ 0 := fun e => by simp [e] at hv
  exact (withOpen_open hc hn ho).trans ((if_neg (not_not.mpr h)).trans ((if_neg h1).trans (if_neg h0)))

theorem resolve_aborts (hr : Ready 0x0304 setWork r s) (h : (getCtx s c).led.st = .inDoubt) (hv : v = 0) :
    ∃ t, exec (.downbeatResolve r v tc) s = .next t ∧ Answers s t r 0x0304 0x00 [] ∧ (getCtx t c).led.st = .aborted ∧
      (getCtx t c).led.aborts = (getCtx s c).led.aborts + 1 ∧ (getCtx t c).led.reason = 0x0C := by
  have aborted := stepAborted (s := s) hn 0x0C
  obtain ⟨t, run, kept, told⟩ := serves_ok (show RunsAs (.downbeatResolve r v tc) r 0x0304 setWork (ansDownbeatResolve r v tc) s from rfl)
    hr (ansDownbeatResolve_aborts hc hn ho h hv) aborted.told
  have ctx := getCtx_congr kept.out.ctxs c
  refine ⟨t, run, told, by rw [ctx, aborted.st], by rw [ctx, aborted.aborts], ?_⟩
  rw [ctx, aborted.reason]
  exact if_neg fun ⟨_, other⟩ => other rfl

end

section
variable {step : BitVec 64}

theorem ansDownbeatAbandon_bad (h : (getCtx s c).led.st ≠ .armed ∧ (getCtx s c).led.st ≠ .voted ∨ step.toNat ≠ (getCtx s c).led.step.toNat) :
    ansDownbeatAbandon r step s = err s stBadArg 0 := by
  refine (withOpen_open hc hn ho).trans (if_pos ?_)
  simp only [Bool.or_eq_true, Bool.not_eq_true', Bool.or_eq_false_iff, beq_eq_false_iff_ne, bne_iff_ne]
  exact h

/-- R304: the mark that a step is abandoned. -/
def marked (s : State) (c : Nat) : State := modLed s c fun l => { l with abandoned := true }

variable (h : (getCtx s c).led.st = .armed ∨ (getCtx s c).led.st = .voted) (hs : step.toNat = (getCtx s c).led.step.toNat)
include h hs

theorem ansDownbeatAbandon_eq : ansDownbeatAbandon r step s =
    if (getCtx s c).led.launched = true then ok (castBit (marked s c) c false 0x0D) []
    else ok (abortStep (dropPrograms (marked s c) (isDownbeat c (getCtx s c).led)) c 0x0D) [] := by
  refine (withOpen_open hc hn ho).trans (if_neg ?_)
  rw [hs]
  rcases h with h | h <;> rw [h] <;> simp

omit hc ho h hs in
theorem getCtx_marked : getCtx (marked s c) c = { getCtx s c with led := { (getCtx s c).led with abandoned := true } } :=
  getCtx_modCtx_same s hn _

/-- A step that has not been launched is withdrawn from its engines and aborted. -/
theorem abandon_withdraws (hr : Ready 0x0305 setWork r s) (hl : (getCtx s c).led.launched = false) (hv : (getCtx s c).led.veto = false) :
    ∃ t, exec (.downbeatAbandon r step) s = .next t ∧ Answers s t r 0x0305 0x00 [] ∧ (getCtx t c).led.st = .aborted ∧
      (getCtx t c).led.reason = 0x0D ∧ (getCtx t c).led.committed = (getCtx s c).led.committed ∧
      ∀ e p, e < 4 → p ∈ (getEngine t e).running ∨ p ∈ (getEngine t e).queued → isDownbeat c (getCtx s c).led p = false := by
  have ans := (ansDownbeatAbandon_eq hc hn ho h hs).trans (if_neg (by simp [hl]))
  obtain ⟨u, hu⟩ : ∃ u, u = dropPrograms (marked s c) (isDownbeat c (getCtx s c).led) := ⟨_, rfl⟩
  have own : getCtx u c = { getCtx s c with led := { (getCtx s c).led with abandoned := true } } := by
    rw [hu]
    exact getCtx_marked hn
  have mail : u.mail = s.mail := by rw [hu]; rfl
  have dropped (e : Nat) (he : e < 4) : (getEngine u e).running = (getEngine s e).running.filter (fun p => !isDownbeat c (getCtx s c).led p) ∧
      (getEngine u e).queued = (getEngine s e).queued.filter (fun p => !isDownbeat c (getCtx s c).led p) := by
    rw [hu]
    simp [getEngine, dropPrograms, modFab, Vector.getD, he, marked, modLed, modCtx, setCtx]
  rw [← hu] at ans
  have aborted := stepAborted (s := u) hn 0x0D
  obtain ⟨t, run, kept, told⟩ := serves_ok (show RunsAs (.downbeatAbandon r step) r 0x0305 setWork (ansDownbeatAbandon r step) s from rfl)
    hr ans (aborted.told.trans (congrArg Mail.responses mail))
  have ctx := getCtx_congr kept.out.ctxs c
  refine ⟨t, run, told, by rw [ctx, aborted.st], ?_, by rw [ctx, aborted.committed, own], fun e p he hp => ?_⟩
  · rw [ctx, aborted.reason, own]
    exact if_neg fun ⟨veto, _⟩ => by simp [hv] at veto
  · obtain ⟨running, queued⟩ := dropped e he
    have engine : getEngine t e = getEngine u e :=
      (getEngine_congr (congrArg Fabric.engines kept.out.fab) e).trans (getEngine_congr (congrArg Fabric.engines aborted.fab) e)
    rw [engine, running, queued] at hp
    simpa using hp.elim List.of_mem_filter List.of_mem_filter

omit hc hn ho h hs in
theorem castBit_noPlace {ready : Bool} {reason : Nat} (h : votePlace s c = none) : castBit s c ready reason = s := if_pos (by rw [h]; rfl)

omit hc ho h hs in
theorem votePlace_marked : votePlace (marked s c) c = votePlace s c := by
  unfold votePlace
  dsimp only
  rw [getCtx_marked hn]
  rfl

theorem abandon_waits (hr : Ready 0x0305 setWork r s) (hl : (getCtx s c).led.launched = true) (none_ : votePlace s c = none) :
    Serves (.downbeatAbandon r step) s (setCtx s c { getCtx s c with led := { (getCtx s c).led with abandoned := true } }) r 0x0305 0x00 [] := by
  have ans := (ansDownbeatAbandon_eq hc hn ho h hs).trans (if_pos hl)
  rw [castBit_noPlace ((votePlace_marked hn).trans none_)] at ans
  exact serves_ok rfl hr ans rfl

omit hc ho h hs in
/-- A vote of 0 given at its AND shows in the ledger, with its reason; memory stays. -/
theorem castBit_vetoes {reason : Nat} (hr : reason ≠ 4) (h0 : reason ≠ 0) (place : votePlace s c ≠ none) :
    AllBut [.ctxs] s (castBit s c false reason) ∧ (getCtx (castBit s c false reason) c).led.st = .voted ∧
    (getCtx (castBit s c false reason) c).led.veto = true ∧ (getCtx (castBit s c false reason) c).led.ready = false ∧
    (getCtx (castBit s c false reason) c).led.reason = BitVec.ofNat 8 reason := by
  have timing (u : State) (stp : BitVec 48) (f : TimingRec → TimingRec) : ∃ ts, (getCtx (modTiming u c stp f) c).led =
      { (getCtx u c).led with times := ts } := by
    rw [modTiming, modLed, getCtx_modCtx_same u hn]
    dsimp only
    split <;> exact ⟨_, rfl⟩
  obtain ⟨v, hv⟩ : ∃ v, v = modLed s c fun l => { l with ready := false, veto := !false, st := .voted } := ⟨_, rfl⟩
  obtain ⟨w, hw⟩ : ∃ w, w = modLed v c fun l => { l with reason := BitVec.ofNat 8 reason } := ⟨_, rfl⟩
  obtain ⟨x, hx⟩ : ∃ x, x = modTiming w c (getCtx w c).led.step fun t => { t with reason := BitVec.ofNat 8 reason } := ⟨_, rfl⟩
  have eq : castBit s c false reason = modTiming x c (getCtx s c).led.step fun t => { t with tReady := x.time.now } := by
    have shown : showReason v c reason = x := by
      rw [hx, hw]
      exact if_neg h0
    unfold castBit
    dsimp only
    rw [if_neg (by simpa using place), if_neg (by decide), if_neg hr, ← hv, if_neg (by decide), shown]
  have led : (getCtx w c).led = { (getCtx s c).led with ready := false, veto := true, st := .voted, reason := BitVec.ofNat 8 reason } := by
    rw [hw, modLed, getCtx_modCtx_same v hn, hv, modLed, getCtx_modCtx_same s hn]
    rfl
  obtain ⟨ts, led1⟩ := timing w (getCtx w c).led.step fun t => { t with reason := BitVec.ofNat 8 reason }
  obtain ⟨ts', led2⟩ := timing x (getCtx s c).led.step fun t => { t with tReady := x.time.now }
  rw [← hx] at led1
  have frame : AllBut [.ctxs] s x := by
    have first : AllBut [.ctxs] s v := hv ▸ frame_modLed s c _
    have second : AllBut [.ctxs] v w := hw ▸ frame_modLed v c _
    have third : AllBut [.ctxs] w x := hx ▸ frame_modTiming w c _ _
    exact first.trans (second.trans third)
  rw [eq]
  exact ⟨frame.trans (frame_modTiming x c _ _), by rw [led2, led1, led], by rw [led2, led1, led], by rw [led2, led1, led],
    by rw [led2, led1, led]⟩

theorem abandon_votes (hr : Ready 0x0305 setWork r s) (hl : (getCtx s c).led.launched = true) (place : votePlace s c ≠ none) :
    ∃ t, exec (.downbeatAbandon r step) s = .next t ∧ Answers s t r 0x0305 0x00 [] ∧ (getCtx t c).led.st = .voted ∧
      (getCtx t c).led.veto = true ∧ (getCtx t c).led.ready = false ∧ (getCtx t c).led.reason = 0x0D ∧ t.mem = s.mem := by
  have ans := (ansDownbeatAbandon_eq hc hn ho h hs).trans (if_pos hl)
  obtain ⟨frame, st, veto, ready, reason⟩ := castBit_vetoes (s := marked s c) (reason := 0x0D) hn (by decide) (by decide)
    (by rwa [votePlace_marked hn])
  generalize castBit (marked s c) c false 0x0D = u at frame st veto ready reason ans
  have mail : u.mail = s.mail := frame .mail (by decide)
  obtain ⟨t, run, kept, told⟩ := serves_ok (show RunsAs (.downbeatAbandon r step) r 0x0305 setWork (ansDownbeatAbandon r step) s from rfl)
    hr ans (congrArg Mail.responses mail)
  have ctx := getCtx_congr kept.out.ctxs c
  exact ⟨t, run, told, by rw [ctx, st], by rw [ctx, veto], by rw [ctx, ready], by rw [ctx, reason]; rfl,
    Eq.trans kept.out.mem (frame .mem (by decide))⟩

end

end

/-- Settles O31: the ledger commands, then the Downbeat from the side of the commands. -/
theorem ledgerAndDownbeatCommands : Obligations.LedgerAndDownbeatCommands := by
  refine ⟨fun i r code s h lo hi _ calm hr => asksContext_refuses (asksContext_ledger h lo hi s) hr calm
    (fun ⟨_, _⟩ => by omega), ?_, ?_⟩
  · rintro r s c x hc hn rfl ho calm
    refine ⟨fun peer wm wl pc hr => ⟨fun hp hq hm hl => ⟨fun same => ?_, fun other => ?_⟩,
        fun h => refuses_err rfl hr (ansPairSet_bad hc hn ho h)⟩,
      fun sh hr => ⟨fun h open_ => absorb_absorbs hc hn ho hr h open_ calm,
        fun h => conflicts_of (runsAs_of_calm (a := conflict s 1 _ 0) rfl hr (by decide) (ansAbsorb_again hc hn ho h) rfl calm) hr
          (ansAbsorb_again hc hn ho h)⟩,
      fun q hr => ⟨fun h => serves_ok rfl hr (ansQuotaSet_waits hc hn ho h) rfl, fun h => refuses_err rfl hr (ansQuotaSet_bad hc hn ho h)⟩,
      fun g a hr => ⟨fun ha old idle => ?_, fun ha early => refuses_err rfl hr (ansPlacement_early hc hn ho ha (clearedLately_true early)),
        fun ha idle => ?_, fun ha old pending => placement_waits hc hn ho hr ha (fun e => clearedLately_false (old e)) pending,
        fun ha => refuses_err rfl hr (ansPlacement_bad hc hn ho ha)⟩,
      fun f n d hr => ⟨fun h1 h2 hd => serves_ok rfl hr (ansLedgerTimes_answers hc hn ho h1 h2 hd) rfl,
        fun h => refuses_err rfl hr (ansLedgerTimes_bad hc hn ho h)⟩⟩
    · have ans := ansPairSet_named hc hn ho hp hq hm hl
      rw [modLed_eq, if_neg] at ans
      · exact serves_ok rfl hr ans rfl
      · rw [otherPartner_iff hp hq]
        rintro ⟨p, named, differ⟩
        exact differ.elim (· (same p named).1) (· (same p named).2)
    · have ans := ansPairSet_named hc hn ho hp hq hm hl
      rw [modLed_eq, if_pos ((otherPartner_iff hp hq _).mpr other)] at ans
      exact serves_ok rfl hr ans rfl
    · subst ha
      obtain ⟨t, run, told, mem, led, others⟩ := placement_sets hc hn ho (g := g) (a := 1) hr (by decide) (fun _ => clearedLately_false old) idle
      obtain ⟨own, rest⟩ := setPlacement_takes (g := g) s.time.now (getCtx s c).led
      exact ⟨t, run, told, mem, by rw [led]; exact own, fun k hk => by rw [led]; exact rest k hk, others⟩
    · subst ha
      obtain ⟨t, run, told, mem, led, others⟩ := placement_sets hc hn ho (g := g) (a := 0) hr (by decide) (fun e => absurd e (by decide)) idle
      obtain ⟨own, cleared, rest⟩ := setPlacement_clears (g := g) s.time.now (getCtx s c).led
      exact ⟨t, run, told, mem, by rw [led]; exact own, fun h => by rw [led]; exact cleared h, fun k hk => by rw [led]; exact rest k hk, others⟩
  · rintro r s c x hc hn rfl calm open_
    refine ⟨fun step tl va e hr => ⟨fun h => ?_, fun ho => ⟨fun h => ?_, fun free arm => ⟨fun h => ?_, fun u p hs he hp =>
        ⟨arm_full hc hn ho free arm open_ calm hr hs he hp, arm_arms hc hn ho free arm open_ calm hr hs he hp⟩⟩⟩⟩,
      fun v tc hr ho => ⟨fun h hv => serves_ok rfl hr (ansDownbeatResolve_commits hc hn ho h hv) rfl, resolve_aborts hc hn ho hr,
        fun h hv => refuses_err rfl hr (ansDownbeatResolve_bad hc hn ho h hv),
        fun h => conflicts_of rfl hr (ansDownbeatResolve_conflict hc hn ho h)⟩,
      fun step hr ho => ⟨fun h hs => ⟨abandon_withdraws hc hn ho h hs hr, abandon_waits hc hn ho h hs hr, abandon_votes hc hn ho h hs hr⟩,
        fun h => refuses_err rfl hr (ansDownbeatAbandon_bad hc hn ho h)⟩⟩
    · have ans := ansDownbeatArm_fenced (step := step) (tl := tl) (va := va) (e := e) hc hn h
      exact refuses_err (runsAs_of_calm (a := err s stFenced 0) rfl hr (by decide) ans rfl calm) hr ans
    · have ans := ansDownbeatArm_conflict (step := step) (tl := tl) (va := va) (e := e) hc hn ho h
      exact conflicts_of (runsAs_of_calm (a := conflict s 1 _ 0x21) rfl hr (by decide) ans rfl calm) hr ans
    · have ans := ansDownbeatArm_bad hc hn ho free arm h
      exact refuses_err (runsAs_of_calm (a := err s stBadArg 0) rfl hr (by decide) ans rfl calm) hr ans

end Sys2Proof.Machine
end

section
-- One proof after the other: a text of this length has more proofs waiting at once than the check has threads for.
set_option Elab.async false
/-! PROOFS. The Peal commands, and how a Peal ends (R320 to R331, R357). -/
namespace Sys2Proof.Machine

/-- A command whose context has to exist, to be open and not to be fenced, with its answer. -/
def AsksOpen (i : Instr) (r : Req) (code : BitVec 16) (s : State) : Prop :=
  ∃ f, (exec i s = done (serve code setWork r i f s) ∨ exec i s = doneMem (serve code setWork r i f s)) ∧
    (64 ≤ r.ctx.toNat → f s = err s stBadArg 0) ∧
    (r.ctx.toNat < 64 → (getCtx s r.ctx.toNat).st = .closed → f s = conflict s 5 0 0x2) ∧
    (r.ctx.toNat < 64 → (getCtx s r.ctx.toNat).st = .fencing ∨ (getCtx s r.ctx.toNat).st = .fenced → f s = err s stFenced 0)

theorem asksOpen_peal {i : Instr} {r : Req} {code : BitVec 16} (h : requestOf i = some (r, code, setWork)) (lo : 0x0401 ≤ code.toNat)
    (hi : code.toNat ≤ 0x0407) (wf : wellFormed i = true) (s : State) : AsksOpen i r code s := by
  cases i <;> simp only [requestOf, Option.some.injEq, Prod.mk.injEq, reduceCtorEq] at h <;> obtain ⟨rfl, rfl, -⟩ := h
  all_goals simp at lo hi
  case pealArm => exact ⟨_, .inl rfl, withCtx_outside, withCtx_closed, withCtx_fenced rfl⟩
  case pealQuiesce => exact ⟨_, .inl rfl, withCtx_outside, withCtx_closed, withCtx_fenced rfl⟩
  case pealResume => exact ⟨_, .inl rfl, withCtx_outside, withCtx_closed, withCtx_fenced rfl⟩
  case pealAbort => exact ⟨_, .inl rfl, withCtx_outside, withCtx_closed, withCtx_fenced rfl⟩
  case pealTarget => exact ⟨_, .inl (if_pos wf), withCtx_outside, withCtx_closed, withCtx_fenced rfl⟩
  case pealScan => exact ⟨_, .inl (if_pos wf), withCtx_outside, withCtx_closed, withCtx_fenced rfl⟩
  case restore => exact ⟨_, .inr (if_pos wf), withCtx_outside, withCtx_closed, withCtx_fenced rfl⟩

theorem asksOpen_refuses {i : Instr} {r : Req} {code : BitVec 16} {s : State} (k : AsksOpen i r code s) (hr : Ready code setWork r s)
    (hn : NoLockout s) (hcode : ¬(0x0501 ≤ code.toNat ∧ code.toNat ≤ 0x0504)) : (64 ≤ r.ctx.toNat → Refuses i s r code 0x03 0) ∧
      (r.ctx.toNat < 64 → (getCtx s r.ctx.toNat).st = .closed → Conflicts i s r code 0x05 0 0x2) ∧
      (r.ctx.toNat < 64 → (getCtx s r.ctx.toNat).st = .fencing ∨ (getCtx s r.ctx.toNat).st = .fenced → Refuses i s r code 0x08 0) := by
  obtain ⟨f, run, out, shut, fenced⟩ := k
  obtain ⟨h1, h2⟩ := asksContext_refuses ⟨f, run, out, shut⟩ hr hn hcode
  refine ⟨h1, h2, fun h hf => ?_⟩
  have runs : RunsAs i r code setWork f s :=
    run.elim id fun e => runsAs_of_calm (a := err s stFenced 0) e hr hcode (fenced h hf) rfl hn
  exact refuses_err runs hr (fenced h hf) hcode

/-! ### PEAL_ARM, PEAL_QUIESCE, PEAL_RESUME and PEAL_ABORT -/

section
variable {s : State} {r : Req} {c : Nat} (hc : c = r.ctx.toNat) (hn : c < 64) (ho : (getCtx s c).st = .opened)
include hc hn ho

theorem ansPealArm_bad {step : BitVec 64} (h : 2 ^ 48 ≤ step.toNat ∨ step.toNat ≤ (getCtx s c).led.committed.toNat) :
    ansPealArm r step s = err s stBadArg 0 :=
  (withCtx_open hc hn ho).trans (if_pos (by rw [Bool.or_eq_true, decide_eq_true_eq, decide_eq_true_eq]; exact h))

theorem ansPealArm_judged {step : BitVec 64} (h1 : step.toNat < 2 ^ 48) (h2 : (getCtx s c).led.committed.toNat < step.toNat) :
    ansPealArm r step s = if pealRuns (getCtx s c).peal = true then err s stBusy 0 else
      ok (setCtx s c { getCtx s c with peal := { (getCtx s c).peal with armed := some (step.setWidth 48) } }) [] :=
  (withCtx_open hc hn ho).trans (if_neg (by rw [decide_eq_false (by omega), decide_eq_false (by omega)]; decide))

theorem ansPealQuiesce_ledger {tq : BitVec 64} (h : (getCtx s c).led.st ≠ .idle) :
    ansPealQuiesce r tq s = conflict s 1 (dbCode (getCtx s c).led.st) 0x1 := (withCtx_open hc hn ho).trans (if_pos h)

theorem ansPealQuiesce_peal {tq : BitVec 64} (h : (getCtx s c).led.st = .idle)
    (runs : pealRuns (getCtx s c).peal = true ∨ (getCtx s c).peal.tq ≠ none) :
    ansPealQuiesce r tq s = conflict s 2 (pealCode (getCtx s c).peal.st) 0x9 :=
  (withCtx_open hc hn ho).trans ((if_neg (not_not.mpr h)).trans (if_pos (runs.imp_right Option.isSome_iff_ne_none.mpr)))

theorem ansPealQuiesce_arms {tq : BitVec 64} (h : (getCtx s c).led.st = .idle) (rests : pealRuns (getCtx s c).peal = false)
    (free : (getCtx s c).peal.tq = none) : ansPealQuiesce r tq s =
      ok (setCtx s c { getCtx s c with peal := { (getCtx s c).peal with tq := some (armTime s (tq.setWidth 40)) } }) [] :=
  (withCtx_open hc hn ho).trans ((if_neg (not_not.mpr h)).trans (if_neg (by simp [rests, free])))

theorem ansPealResume_conflict {tr : BitVec 64} (h : (getCtx s c).peal.st ≠ .quiesced) :
    ansPealResume r tr s = conflict s 2 (pealCode (getCtx s c).peal.st) 0x8 := (withCtx_open hc hn ho).trans (if_pos h)

theorem ansPealResume_arms {tr : BitVec 64} (h : (getCtx s c).peal.st = .quiesced) : ansPealResume r tr s =
    ok (setCtx s c { getCtx s c with peal := { (getCtx s c).peal with tr := some (armTime s (tr.setWidth 40)) } }) [] :=
  (withCtx_open hc hn ho).trans (if_neg (not_not.mpr h))

/-- R322: a Peal ended with error 5, its failure counted. -/
def pealAborted (s : State) (c : Nat) : State :=
  setCtx s c { getCtx s c with peal := { endWriting (getCtx s c).peal with err := 5, fail := (getCtx s c).peal.fail + 1 } }

theorem ansPealAbort_eq : ansPealAbort r s = match (getCtx s c).peal.st with
    | .writing => ok (if (getCtx s c).peal.outst = 0 then pealAborted s c
        else setCtx s c { getCtx s c with peal := { (getCtx s c).peal with stopping := true } }) []
    | .quiescing => ok (pealAborted s c) []
    | st => conflict s 2 (pealCode st) 0x6 := (withCtx_open hc hn ho).trans rfl

theorem ansPealAbort_ends (h : (getCtx s c).peal.st = .quiescing ∨ (getCtx s c).peal.st = .writing ∧ (getCtx s c).peal.outst = 0) :
    ansPealAbort r s = ok (pealAborted s c) [] := by
  rw [ansPealAbort_eq hc hn ho]
  rcases h with h | ⟨h, none_⟩
  · rw [h]
  · rw [h, if_pos none_]

theorem ansPealAbort_stops (h : (getCtx s c).peal.st = .writing) (some_ : (getCtx s c).peal.outst ≠ 0) : ansPealAbort r s =
    ok (setCtx s c { getCtx s c with peal := { (getCtx s c).peal with stopping := true } }) [] := by
  rw [ansPealAbort_eq hc hn ho, h, if_neg some_]

theorem ansPealAbort_conflict (h1 : (getCtx s c).peal.st ≠ .writing) (h2 : (getCtx s c).peal.st ≠ .quiescing) :
    ansPealAbort r s = conflict s 2 (pealCode (getCtx s c).peal.st) 0x6 := by
  rw [ansPealAbort_eq hc hn ho]
  split
  · contradiction
  · contradiction
  · rfl

/-! ### PEAL_TARGET and PEAL_SCAN -/

section
variable {slot : BitVec 8} {es : List Extent}

theorem ansPealTarget_bad (h : 4 ≤ slot.toNat ∨ es = [] ∨ 16 < es.length ∨ ∃ e ∈ es, extentOk s c e = false) :
    ansPealTarget r slot es s = err s stBadArg 0 := by
  refine (withCtx_open hc hn ho).trans (if_pos ?_)
  rw [Bool.or_eq_true, Bool.or_eq_true, decide_eq_true_eq, Bool.not_eq_true', Bool.not_eq_true', ← Bool.not_eq_true, within_iff,
    List.all_eq_false]
  rcases h with h | rfl | h | ⟨e, he, bad⟩
  · exact .inl (.inl h)
  · exact .inl (.inr (by simp))
  · exact .inl (.inr (by omega))
  · exact .inr ⟨e, he, by simp [bad]⟩

theorem ansPealTarget_judged (h : slot.toNat < 4) (h1 : 1 ≤ es.length) (h2 : es.length ≤ 16) (good : ∀ e ∈ es, extentOk s c e = true) :
    ansPealTarget r slot es s = if ((getCtx s c).peal.st == .writing && (getCtx s c).peal.slotNo == slot.toNat) = true then err s stBusy 0
      else ok (setCtx s c { getCtx s c with peal := { (getCtx s c).peal with
        slots := (getCtx s c).peal.slots.setIfInBounds slot.toNat
          (if (getSlot (getCtx s c).peal slot.toNat).extents = es then getSlot (getCtx s c).peal slot.toNat
            else { extents := es, valid := false, step := 0, seq := 0, kind := 0 }) } }) [] := by
  refine (withCtx_open hc hn ho).trans (if_neg ?_)
  rw [decide_eq_false (by omega), within_iff.mpr ⟨h1, h2⟩, List.all_eq_true.mpr good]
  decide

end

section
variable {vas : List (BitVec 64)} {ms : List Bytes}

theorem ansPealScan_bad (h : vas = [] ∨ 16 < vas.length ∨ ∃ va ∈ vas, slotVaOk s c va = false) :
    ansPealScan r vas ms s = err s stBadArg 0 := by
  refine (withCtx_open hc hn ho).trans (if_pos ?_)
  rw [Bool.or_eq_true, Bool.not_eq_true', Bool.not_eq_true', ← Bool.not_eq_true, within_iff, List.all_eq_false]
  rcases h with rfl | h | ⟨va, hva, bad⟩
  · exact .inl (by simp)
  · exact .inl (by omega)
  · exact .inr ⟨va, hva, by simp [bad]⟩

theorem ansPealScan_answers (h1 : 1 ≤ vas.length) (h2 : vas.length ≤ 16) (good : ∀ va ∈ vas, slotVaOk s c va = true) :
    ansPealScan r vas ms s =
      ok s ((List.range vas.length).flatMap fun i => scanBytes (openKeys s c) (fit 4096 (ms.getD i []))) := by
  refine (withCtx_open hc hn ho).trans (if_neg ?_)
  rw [within_iff.mpr ⟨h1, h2⟩, List.all_eq_true.mpr good]
  decide

end

end

/-- Settles O33: the Peal commands by their answers, and the two ends of a Peal. -/
theorem pealsBeginAndEnd : Obligations.PealsBeginAndEnd := by
  refine ⟨fun i r code s h lo hi wf calm hr => asksOpen_refuses (asksOpen_peal h lo hi wf s) hr calm (fun ⟨_, _⟩ => by omega), ?_, ?_⟩
  · rintro r s c x hc hn rfl ho
    refine ⟨fun step hr => ⟨fun h1 h2 => ⟨fun rests => serves_ok rfl hr ((ansPealArm_judged hc hn ho h1 h2).trans (if_neg (by simp [rests]))) rfl,
          fun runs => refuses_err rfl hr ((ansPealArm_judged hc hn ho h1 h2).trans (if_pos runs))⟩,
        fun h => refuses_err rfl hr (ansPealArm_bad hc hn ho h)⟩,
      fun tq hr => ⟨fun h rests free => serves_ok rfl hr (ansPealQuiesce_arms hc hn ho h rests free) rfl,
        fun h runs => conflicts_of rfl hr (ansPealQuiesce_peal hc hn ho h runs),
        fun h => conflicts_of rfl hr (ansPealQuiesce_ledger hc hn ho h)⟩,
      fun tr hr => ⟨fun h => serves_ok rfl hr (ansPealResume_arms hc hn ho h) rfl,
        fun h => conflicts_of rfl hr (ansPealResume_conflict hc hn ho h)⟩,
      fun hr => ⟨fun h => serves_ok rfl hr (ansPealAbort_ends hc hn ho h) rfl,
        fun h some_ => serves_ok rfl hr (ansPealAbort_stops hc hn ho h some_) rfl,
        fun h1 h2 => conflicts_of rfl hr (ansPealAbort_conflict hc hn ho h1 h2)⟩,
      fun slot es hr short => ?_, fun vas ms hr short => ?_⟩
    · have runs : RunsAs (.pealTarget r slot es) r 0x0405 setWork (ansPealTarget r slot es) s :=
        if_pos (decide_eq_true (show 2 + 16 * es.length ≤ 4064 by omega))
      refine ⟨fun h h1 h2 good => ⟨fun w same => refuses_err runs hr ((ansPealTarget_judged hc hn ho h h1 h2 good).trans (if_pos ?_)),
          fun other => serves_ok runs hr ((ansPealTarget_judged hc hn ho h h1 h2 good).trans (if_neg ?_)) rfl⟩,
        fun h => refuses_err runs hr (ansPealTarget_bad hc hn ho h)⟩
      · simp [w, same]
      · simpa [← not_and_or] using other
    · have runs : RunsAs (.pealScan r vas ms) r 0x0406 setWork (ansPealScan r vas ms) s :=
        if_pos (decide_eq_true (show 2 + 8 * vas.length ≤ 4064 by omega))
      exact ⟨fun h1 h2 good => serves_ok runs hr (ansPealScan_answers hc hn ho h1 h2 good) rfl,
        fun h => refuses_err runs hr (ansPealScan_bad hc hn ho h)⟩
  · rintro c s x rfl
    refine ⟨fun h m z => leads_done (u := finishPeal s c.val) (congrArg done (if_pos ?_)) (.refl _),
      fun h => leads_done (congrArg done (if_neg ?_)) (.refl s), fun h => leads_done (u := pealFailWith s c.val 1) (congrArg done (if_pos h)) (.refl _),
      fun h => leads_done (congrArg done (if_neg h)) (.refl s)⟩
    · simp [h, m, z]
    · simp only [Bool.and_eq_true, decide_eq_true_eq]
      rintro ⟨⟨writing, manifest⟩, none_⟩
      rcases h with h | h | h
      · exact h writing
      · exact absurd (h.symm.trans manifest) (by decide)
      · exact h none_

end Sys2Proof.Machine
end

section
-- One proof after the other: a text of this length has more proofs waiting at once than the check has threads for.
set_option Elab.async false
/-! PROOFS. The arrival of packets (R259, R260, R265), and the collective programs they reach (R269 to R277). -/
namespace Sys2Proof.Machine

/-! ### Arrival -/

section
variable {s : State} {p : Nat} {ty : BitVec 4} {k : Packet}

theorem frame_bufferFreed (s : State) (p : Nat) (ty : BitVec 4) (k : Packet) : AllBut [.fab, .ports] s (bufferFreed s p ty k) :=
  .ite (fun _ => frame_modPort s p _) fun _ => .refl _ s

/-- A packet that leaves its buffer moves nothing of the fabric but the ports. -/
theorem bufferFreed_fab : (bufferFreed s p ty k).fab = { s.fab with ports := (bufferFreed s p ty k).fab.ports } := by
  unfold bufferFreed
  split <;> rfl

/-- A packet that leaves its buffer moves nothing of a port but what is owed. -/
theorem getPort_bufferFreed (q : Nat) : ∃ o, getPort (bufferFreed s p ty k) q = { getPort s q with owed := o } := by
  unfold bufferFreed
  split
  · by_cases hq : q = p
    · subst hq
      by_cases hp : q < 36
      · exact ⟨_, getPort_modPort_same s hp _⟩
      · exact ⟨_, by rw [oweCredits, modPort_outOfBounds s (by omega)]⟩
    · exact ⟨_, by rw [oweCredits, getPort_modPort_other s hq]⟩
  · exact ⟨_, rfl⟩

theorem portUp_bufferFreed (q : Nat) : portUp (getPort (bufferFreed s p ty k) q) = portUp (getPort s q) := by
  obtain ⟨o, ho⟩ := getPort_bufferFreed (s := s) (p := p) (ty := ty) (k := k) q
  rw [ho]
  rfl

theorem routeOf_bufferFreed (a : BitVec 17) : routeOf (bufferFreed s p ty k) a = routeOf s a := by
  unfold routeOf
  rw [bufferFreed_fab]

theorem forUs_bufferFreed (q : Packet) : forUs (bufferFreed s p ty k) q = forUs s q := by
  rw [forUs, forUs, routeOf_bufferFreed, bufferFreed_fab]

/-- A packet for this module that passes the checks of its header has its effect, once it has left its buffer. -/
theorem receive_arrives {p : Port} (h : Arrives ty p k s) (f : State → State) : receive s p.val ty k f = f (bufferFreed s p.val ty k) := by
  have up : arrives (bufferFreed s p.val ty k) p.val k = true := by
    rw [arrives, portUp_bufferFreed, h.up]
    rfl
  have passes : headerIn (bufferFreed s p.val ty k) p.val ty k = (bufferFreed s p.val ty k, true) := by
    unfold headerIn
    rw [if_neg (by simp [h.ty, up]), if_neg (by simp [h.flood]), if_neg h.hops, forUs_bufferFreed, h.us]
  unfold receive
  rw [passes]
  rfl

theorem noLockout_bufferFreed (hn : NoLockout s) : NoLockout (bufferFreed s p ty k) := fun c => by
  rw [getCtx_congr (frame_bufferFreed s p ty k .ctxs (by decide))]
  exact hn c

theorem getEngine_bufferFreed (e : Nat) : getEngine (bufferFreed s p ty k) e = getEngine s e :=
  getEngine_congr (frame_bufferFreed s p ty k .engines (by decide)) e

theorem findChannel_congr {s u : State} (h : ∀ e, getEngine u e = getEngine s e) (a : BitVec 17) (tag : BitVec 16) (q : Bool) :
    findChannel u a tag q = findChannel s a tag q := by simp only [findChannel, h]

/-- A channel found is one of a program of an engine that exists. -/
theorem findChannel_engine {a : BitVec 17} {tag : BitVec 16} {q : Bool} {e n c : Nat} (h : findChannel s a tag q = some (e, n, c)) :
    e < 4 := by
  obtain ⟨e', he, found⟩ := List.exists_of_findSome?_eq_some h
  obtain ⟨x, -, found⟩ := List.exists_of_findSome?_eq_some found
  obtain ⟨c', -, eq⟩ := Option.map_eq_some_iff.mp found
  obtain ⟨rfl, -⟩ := Prod.mk.inj eq
  exact List.mem_range.mp he

theorem runningAt_of_engine {s u : State} {e : Nat} (h : getEngine u e = getEngine s e) (n : Nat) : runningAt u e n = runningAt s e n := by
  rw [runningAt, h, runningAt]

theorem runningAt_setRunning {e n : Nat} {q : Program} (he : e < 4) (hq : runningAt s e n = some q) (q' : Program) :
    runningAt (setRunning s e n q') e n = some q' := by
  have inside : n < (getEngine s e).running.length := (List.getElem?_eq_some_iff.mp hq).1
  rw [runningAt, setRunning, getEngine_setEngine_same s he]
  exact List.getElem?_set_self inside

theorem apart_of_allBut {l : List Part} {t : State} (h : AllBut l s t)
    (hl : ∀ q ∈ [Part.opt, .mem, .ctxs, .slots, .lcores, .sec, .pwr, .time, .latches, .pending], q ∉ l := by decide) : Apart s t :=
  ⟨h .opt (hl _ (by decide)), h .mem (hl _ (by decide)), h .ctxs (hl _ (by decide)), h .slots (hl _ (by decide)),
   h .lcores (hl _ (by decide)), h .sec (hl _ (by decide)), h .pwr (hl _ (by decide)), congrArg TimeBlock.now (h .time (hl _ (by decide))),
   h .latches (hl _ (by decide)), h .pending (hl _ (by decide))⟩

end

/-! ### COLL_START (R269) -/

section
variable {s u : State} {r : Req} {c : Nat} {e : BitVec 8} {va tl : BitVec 64} {p : Program}

theorem armTime_congr (h : u.time = s.time) (t : BitVec 40) : armTime u t = armTime s t := by
  unfold armTime firstLook comparing
  rw [h]

theorem parseProgram_launch {gen : BitVec 16} {v : BitVec 48} {launch : Armed} {d : Bool} {h : Bytes} {ins : List (BitVec 256)}
    (hp : parseProgram c gen v launch d h ins = some p) : p.gen = gen ∧ p.launch = launch := by
  unfold parseProgram at hp
  dsimp only at hp
  split at hp
  · rw [← Option.some.inj hp]
    exact ⟨rfl, rfl⟩
  · cases hp

/-- A program loaded is of its context's generation, and its launch time is armed. -/
theorem loadProgram_launch {t : BitVec 40} {d : Bool} (h : loadProgram s c va t d = some (u, p)) :
    p.gen = (getCtx s c).cgen ∧ p.launch = armTime s t := by
  obtain ⟨moves, -⟩ := loadProgram_moves h
  have time : u.time = s.time := moves.frame .time (by decide)
  have gen : (getCtx u c).cgen = (getCtx s c).cgen := by
    obtain ⟨-, w, own⟩ := moves.tags
    rw [own]
    rfl
  rw [← gen, ← armTime_congr time]
  unfold loadProgram at h
  split at h
  · cases h
  · split at h
    · cases h
    · dsimp only at h
      split at h
      · cases h
      · split at h
        · cases h
        · obtain ⟨q, parsed, eq⟩ := Option.map_eq_some_iff.mp h
          obtain ⟨rfl, rfl⟩ := Prod.mk.inj eq
          exact parseProgram_launch parsed

section
variable (hc : c = r.ctx.toNat) (hn : c < 64) (ho : (getCtx s c).st = .opened) (open_ : isConf s (getCtx s c).part = false)
include hc hn ho

theorem ansCollStart_noEngine (h : 4 ≤ e.toNat) : ansCollStart r e va tl s = err s stBadArg 0 := (withCtx_open hc hn ho).trans (if_pos h)

include open_

omit hc hn ho in
theorem mustWaitKey_plain : mustWaitKey s c = false := by simp [mustWaitKey, needsLink, open_]

theorem ansCollStart_invalid (h : loadProgram s c va (tl.setWidth 40) false = none) : ansCollStart r e va tl s = err s stBadArg 0 := by
  by_cases he : 4 ≤ e.toNat
  · exact ansCollStart_noEngine hc hn ho he
  · refine (withCtx_open hc hn ho).trans ((if_neg he).trans ((if_neg ?_).trans ?_))
    · simp [mustWaitKey_plain open_]
    · rw [h]

theorem ansCollStart_loads (he : e.toNat < 4) (h : loadProgram s c va (tl.setWidth 40) false = some (u, p)) : ansCollStart r e va tl s =
    if engineFull u e.toNat = true then err u stNoResource 0 else ok (queueProgram u e.toNat p) [] := by
  refine (withCtx_open hc hn ho).trans ((if_neg (by omega)).trans ((if_neg ?_).trans ?_))
  · simp [mustWaitKey_plain open_]
  · rw [h]

theorem collStart_full (calm : NoLockout s) (hr : Ready 0x0105 setWork r s) (he : e.toNat < 4)
    (h : loadProgram s c va (tl.setWidth 40) false = some (u, p)) (full : engineFull s e.toNat = true) :
    ∃ t, exec (.collStart r e va tl) s = .next t ∧ Answers s t r 0x0105 0x05 [] ∧ t.fab = s.fab ∧ t.mem.cells = s.mem.cells ∧
      t.ctxs = s.ctxs := by
  have frame := (loadProgram_moves h).1.plain open_
  have fab : u.fab = s.fab := frame .fab (by decide)
  have ctxs : u.ctxs = s.ctxs := frame .ctxs (by decide)
  have ans : ansCollStart r e va tl s = err u stNoResource 0 := by
    rw [ansCollStart_loads hc hn ho open_ he h, engineFull_congr fab, if_pos full]
  have calm' : NoLockout u := fun k => by
    rw [getCtx_congr ctxs]
    exact calm k
  have runs : RunsAs (.collStart r e va tl) r 0x0105 setWork (ansCollStart r e va tl) s :=
    runsAs_of_calm (a := err u stNoResource 0) rfl hr (by decide) ans rfl calm'
  obtain ⟨t, run, kept, told⟩ := serves_of_answer (a := err u stNoResource 0) runs hr (answer_taken (by decide) ans) rfl (.refl u)
    (congrArg Mail.responses (frame .mail (by decide)))
  have cells : u.mem.cells = s.mem.cells := frame .cells (by decide)
  exact ⟨t, run, told, kept.out.fab.trans fab, by rw [kept.out.mem, cells], kept.out.ctxs.trans ctxs⟩

theorem collStart_queues (calm : NoLockout s) (hr : Ready 0x0105 setWork r s) (he : e.toNat < 4)
    (h : loadProgram s c va (tl.setWidth 40) false = some (u, p)) (room : engineFull s e.toNat = false) :
    ∃ t, exec (.collStart r e va tl) s = .next t ∧ Answers s t r 0x0105 0x00 [] ∧
      (getEngine t e.toNat).queued = (getEngine s e.toNat).queued ++
        [if ctxHeld (getCtx s c) then { p with launch := { p.launch with held := true, seen := none } } else p] ∧
      (getEngine t e.toNat).running = (getEngine s e.toNat).running ∧ p.ctx = c ∧ p.gen = (getCtx s c).cgen ∧
      p.launch = armTime s (tl.setWidth 40) ∧ t.mem.cells = s.mem.cells ∧ t.ctxs = s.ctxs ∧
      ∀ k, k ≠ e.toNat → getEngine t k = getEngine s k := by
  obtain ⟨moves, own⟩ := loadProgram_moves h
  obtain ⟨gen, launch⟩ := loadProgram_launch h
  have frame := moves.plain open_
  have fab : u.fab = s.fab := frame .fab (by decide)
  have ctxs : u.ctxs = s.ctxs := frame .ctxs (by decide)
  have engines := getEngine_congr (congrArg Fabric.engines fab)
  obtain ⟨v, hv⟩ : ∃ v, v = queueProgram u e.toNat p := ⟨_, rfl⟩
  have ans : ansCollStart r e va tl s = ok v [] := by
    rw [ansCollStart_loads hc hn ho open_ he h, engineFull_congr fab, if_neg (by simp [room]), hv]
  have queued : AllBut [.fab, .engines] u v := hv ▸ frame_setEngine u _ _
  have at_ : getEngine v e.toNat = { getEngine s e.toNat with queued := (getEngine s e.toNat).queued ++
      [if ctxHeld (getCtx s c) then { p with launch := { p.launch with held := true, seen := none } } else p] } := by
    rw [hv, queueProgram, getEngine_setEngine_same u he, engines, own, getCtx_congr ctxs]
  have others (k : Nat) (hk : k ≠ e.toNat) : getEngine v k = getEngine s k := by
    rw [hv, queueProgram, getEngine_setEngine_other u hk, engines]
  clear hv
  have same : v.ctxs = s.ctxs := Eq.trans (queued .ctxs (by decide)) ctxs
  have calm' : NoLockout v := fun k => by
    rw [getCtx_congr same]
    exact calm k
  have runs : RunsAs (.collStart r e va tl) r 0x0105 setWork (ansCollStart r e va tl) s :=
    runsAs_of_calm (a := ok v []) rfl hr (by decide) ans rfl calm'
  have mail : v.mail = s.mail := Eq.trans (queued .mail (by decide)) (frame .mail (by decide))
  obtain ⟨t, run, kept, told⟩ := serves_ok runs hr ans (congrArg Mail.responses mail)
  have cells : v.mem.cells = s.mem.cells := Eq.trans (queued .cells (by decide)) (frame .cells (by decide))
  have engine (k : Nat) : getEngine t k = getEngine v k := getEngine_congr (congrArg Fabric.engines kept.out.fab) k
  exact ⟨t, run, told, by rw [engine, at_], by rw [engine, at_], own, gen, launch, by rw [kept.out.mem, cells], kept.out.ctxs.trans same,
    fun k hk => (engine k).trans (others k hk)⟩

end

end

/-! ### COLL_DATA and COLL_CTRL (R270, R273, R277) -/

section
variable {s : State} {p : Port} {k : Packet}

theorem acceptCtr_plain {ok : Bool} (h : k.e2e = false) : acceptCtr s k ok = some s := if_pos (by rw [h]; rfl)
theorem acceptCtr_forged (h : k.e2e = true) : acceptCtr s k false = none := (if_neg (by rw [h]; decide)).trans (if_pos rfl)

theorem exec_collData {ok : Bool} (h : Arrives 6 p k s) : exec (.collData p k ok) s = done (takeCollData k ok (bufferFreed s p.val 6 k)) := by
  refine (if_pos h.wf).trans (congrArg done ?_)
  exact receive_arrives h _

theorem collData_forged (h : Arrives 6 p k s) (he : k.e2e = true) : Leads (.collData p k false) s
    { bufferFreed s p.val 6 k with fab := { (bufferFreed s p.val 6 k).fab with dropAuth := (bufferFreed s p.val 6 k).fab.dropAuth + 1 } } := by
  refine leads_done (exec_collData h) ?_
  rw [takeCollData, acceptCtr_forged he]
  exact .refl _

theorem collData_stale {ok : Bool} (h : Arrives 6 p k s) (he : k.e2e = false) (none_ : findChannel s k.src (k.addr.extractLsb' 0 16) false = none) :
    Leads (.collData p k ok) s { bufferFreed s p.val 6 k with
      fab := { (bufferFreed s p.val 6 k).fab with dropStale := (bufferFreed s p.val 6 k).fab.dropStale + 1 } } := by
  refine leads_done (exec_collData h) ?_
  rw [takeCollData, acceptCtr_plain he]
  dsimp only
  rw [findChannel_congr getEngine_bufferFreed, none_]
  exact .refl _

theorem collData_kept {ok : Bool} {e n c : Nat} {q : Program} (h : Arrives 6 p k s) (he : k.e2e = false)
    (found : findChannel s k.src (k.addr.extractLsb' 0 16) false = some (e, n, c)) (hq : runningAt s e n = some q) :
    ∃ t, exec (.collData p k ok) s = .next t ∧ Apart s t ∧
      runningAt t e n = some { q with rx := mapSet q.rx (chunkKey c (k.addr.extractLsb' 16 32).toNat) k.blocks } := by
  have at_ : runningAt (bufferFreed s p.val 6 k) e n = some q := by rw [runningAt_of_engine (getEngine_bufferFreed e), hq]
  have frame := frame_bufferFreed s p.val 6 k
  have eq : takeCollData k ok (bufferFreed s p.val 6 k) = setRunning (bufferFreed s p.val 6 k) e n
      { q with rx := mapSet q.rx (chunkKey c (k.addr.extractLsb' 16 32).toNat) k.blocks } := by
    rw [takeCollData, acceptCtr_plain he]
    dsimp only
    rw [findChannel_congr getEngine_bufferFreed, found]
    dsimp only
    rw [at_]
  have run := exec_collData (ok := ok) h
  rw [eq] at run
  refine ⟨_, run, ?_, ?_⟩
  · have moved (q' : Program) : AllBut [.fab, .ports, .engines] s (setRunning (bufferFreed s p.val 6 k) e n q') :=
      frame.mono.trans (frame_runningAt _ e n q').mono
    exact (apart_of_allBut (moved _)).then_settle
  · rw [runningAt_of_engine (getEngine_congr (congrArg Fabric.engines (settle_fab _)) e)]
    exact runningAt_setRunning (findChannel_engine found) at_ _

variable {tag : BitVec 16} {b : CollCtrl}

theorem ctrlPacket_tag : (ctrlPacket k tag b).addr.extractLsb' 0 16 = tag := by
  refine BitVec.eq_of_getLsbD_eq fun i hi => ?_
  rw [ctrlPacket, BitVec.getLsbD_extractLsb', BitVec.getLsbD_append]
  simp [hi]

theorem exec_collCtrl (h : Arrives 7 p (ctrlPacket k tag b) s) : exec (.collCtrl p k tag b) s =
    doneMem (takeCollCtrl (ctrlPacket k tag b) (bufferFreed s p.val 7 (ctrlPacket k tag b))) := by
  refine (if_pos h.wf).trans (congrArg doneMem ?_)
  exact receive_arrives h _

theorem collCtrl_stale (h : Arrives 7 p (ctrlPacket k tag b) s) (hn : NoLockout s) (h1 : findChannel s k.src tag false = none)
    (h2 : findChannel s k.src tag true = none) : Leads (.collCtrl p k tag b) s { bufferFreed s p.val 7 (ctrlPacket k tag b) with
      fab := { (bufferFreed s p.val 7 (ctrlPacket k tag b)).fab with
        dropStale := (bufferFreed s p.val 7 (ctrlPacket k tag b)).fab.dropStale + 1 } } := by
  have eq : takeCollCtrl (ctrlPacket k tag b) (bufferFreed s p.val 7 (ctrlPacket k tag b)) =
      modFab (bufferFreed s p.val 7 (ctrlPacket k tag b)) fun f => { f with dropStale := f.dropStale + 1 } := by
    unfold takeCollCtrl
    rw [show (ctrlPacket k tag b).ctrl = some b from rfl, ctrlPacket_tag, show (ctrlPacket k tag b).src = k.src from rfl]
    dsimp only
    rw [findChannel_congr getEngine_bufferFreed, findChannel_congr getEngine_bufferFreed, h1, h2]
  refine leads_done (u := modFab (bufferFreed s p.val 7 (ctrlPacket k tag b)) fun f => { f with dropStale := f.dropStale + 1 })
    ((exec_collCtrl h).trans ?_) (.refl _)
  rw [eq]
  exact doneMem_eq (noLockout_bufferFreed hn)

theorem collCtrl_taken {e n c : Nat} {q : Program} (h : Arrives 7 p (ctrlPacket k tag b) s) (hn : NoLockout s)
    (found : findChannel s k.src tag false = some (e, n, c)) (hq : runningAt s e n = some q)
    (plain : isDownbeat q.ctx (getCtx s q.ctx).led q = false) :
    ∃ t, exec (.collCtrl p k tag b) s = .next t ∧ Apart s t ∧ runningAt t e n = some (takeCtrl q c b) := by
  obtain ⟨u, hu⟩ : ∃ u, u = bufferFreed s p.val 7 (ctrlPacket k tag b) := ⟨_, rfl⟩
  have frame : AllBut [.fab, .ports] s u := hu ▸ frame_bufferFreed s p.val 7 _
  have engines (e : Nat) : getEngine u e = getEngine s e := hu ▸ getEngine_bufferFreed e
  have at_ : runningAt u e n = some q := by rw [runningAt_of_engine (engines e), hq]
  have given := frame_runningAt u e n (takeCtrl q c b)
  have ctxs : (setRunning u e n (takeCtrl q c b)).ctxs = s.ctxs := Eq.trans (given .ctxs (by decide)) (frame .ctxs (by decide))
  have same : earlyResult (setRunning u e n (takeCtrl q c b)) q b = setRunning u e n (takeCtrl q c b) := by
    unfold earlyResult
    split
    · exact if_neg (by simp [getCtx_congr ctxs, plain])
    · rfl
  have eq : takeCollCtrl (ctrlPacket k tag b) u = setRunning u e n (takeCtrl q c b) := by
    unfold takeCollCtrl
    rw [show (ctrlPacket k tag b).ctrl = some b from rfl, ctrlPacket_tag, show (ctrlPacket k tag b).src = k.src from rfl]
    dsimp only
    rw [findChannel_congr engines, found]
    dsimp only
    rw [at_]
    exact same
  have calm : NoLockout (setRunning u e n (takeCtrl q c b)) := fun j => by
    rw [getCtx_congr ctxs]
    exact hn j
  have run := exec_collCtrl h
  rw [← hu, eq, doneMem_eq calm] at run
  refine ⟨_, run, ?_, ?_⟩
  · have moved : AllBut [.fab, .ports, .engines] s (setRunning u e n (takeCtrl q c b)) := frame.mono.trans given.mono
    exact (apart_of_allBut moved).then_settle
  · rw [runningAt_of_engine (getEngine_congr (congrArg Fabric.engines (settle_fab _)) e)]
    exact runningAt_setRunning (findChannel_engine found) at_ _

end

/-- Settles O28: COLL_START, then what reaches a program. -/
theorem collectivesQueueAndReceive : Obligations.CollectivesQueueAndReceive := by
  refine ⟨fun r e va tl s hr calm hn => ⟨fun h => ?_, fun h => ?_, fun ho open_ => ⟨fun u p he load =>
      ⟨collStart_queues rfl hn ho open_ calm hr he load, collStart_full rfl hn ho open_ calm hr he load⟩, fun h => ?_⟩⟩, ?_, ?_⟩
  · have ans : ansCollStart r e va tl s = conflict s 5 0 0x2 := withCtx_closed hn h
    exact conflicts_of (runsAs_of_calm (a := conflict s 5 0 0x2) rfl hr (by decide) ans rfl calm) hr ans
  · have ans : ansCollStart r e va tl s = err s stFenced 0 := withCtx_fenced rfl hn h
    exact refuses_err (runsAs_of_calm (a := err s stFenced 0) rfl hr (by decide) ans rfl calm) hr ans
  · have ans : ansCollStart r e va tl s = err s stBadArg 0 :=
      h.elim (ansCollStart_noEngine rfl hn ho) (ansCollStart_invalid rfl hn ho open_)
    exact refuses_err (runsAs_of_calm (a := err s stBadArg 0) rfl hr (by decide) ans rfl calm) hr ans
  · rintro p k ok s u h rfl
    refine ⟨fun he hf => ?_, collData_stale h, fun e n c q he found hq => collData_kept h he found hq⟩
    subst hf
    exact collData_forged h he
  · rintro p k tag b s u h hn rfl
    refine ⟨collCtrl_stale h hn, fun e n c q found hq plain => ?_⟩
    obtain ⟨t, run, apart, at_⟩ := collCtrl_taken h hn found hq plain
    refine ⟨t, _, run, apart, at_, ?_, ?_, fun v hb => ?_, fun v tc hb => ?_, fun m hb => ?_⟩
    · cases b <;> rfl
    · cases b <;> rfl
    · subst hb
      exact ⟨mapGet?_set_same _ _ _, mapGet_set_same _ _ _ _, rfl, rfl⟩
    · subst hb
      exact ⟨mapGet?_set_same _ _ _, mapGet_set_same _ _ _ _, rfl, rfl⟩
    · subst hb
      exact ⟨mapGet_set_same _ _ _ _, rfl, rfl⟩

end Sys2Proof.Machine
end

section
-- One proof after the other: a text of this length has more proofs waiting at once than the check has threads for.
set_option Elab.async false
/-! PROOFS. The start of streams (R169, R245, R246, R355, R449). -/
namespace Sys2Proof.Machine

theorem mapSet_mapSet {α : Type} (m : AMap α) (i : Nat) (x y : α) : mapSet (mapSet m i x) i y = mapSet m i y := by
  induction m with
  | nil => simp [mapSet]
  | cons e t ih =>
    obtain ⟨k, v⟩ := e
    unfold mapSet
    by_cases he : k = i
    · simp [he, mapSet]
    · by_cases hl : i < k
      · simp [he, hl, mapSet]
      · simp [he, hl, mapSet, ih]

section
variable (s : State) {n : Nat}

/-- The last content given to a core stands. -/
theorem setC_setC (x y : PCore) : setC (setC s n x) n y = setC s n y := by
  show { s with slots := mapSet (mapSet s.slots (physOf s n) x) (physOf s n) y } = setC s n y
  rw [mapSet_mapSet]
  rfl

@[simp] theorem getC_setC_same (x : PCore) : getC (setC s n x) n = x := getP_setP_same _ _ _

theorem modC_modC (f g : PCore → PCore) : modC (modC s n f) n g = setC s n (g (f (getC s n))) := by
  rw [modC, getC_modC_same, modC, setC_setC]

end

theorem noLockout_setCtx {s : State} {c : Nat} {x : Context} (h : NoLockout s) (hx : x.sec.tags.length < 16) : NoLockout (setCtx s c x) := by
  intro k
  by_cases hk : k = c
  · subst hk
    by_cases hb : k < 64
    · rw [getCtx_setCtx_same s hb]
      exact hx
    · rw [setCtx, vector_set_outOfBounds _ (by omega)]
      exact h k
  · rw [getCtx_setCtx_other s hk]
    exact h k

/-- A context that is open, operands in range and a core in service that can take a stream of it (R169, R278, R355). -/
structure MayStart (r : Req) (q : Start) (s : State) : Prop where
  ctx   : r.ctx.toNat < 64
  open_ : (getCtx s r.ctx.toNat).st = .opened
  fits  : startBad s (getCtx s r.ctx.toNat) q = false
  core  : q.core < 128
  here  : inService s q.core = true
  plain : isConf s (getCtx s r.ctx.toNat).part = false
  state : (getCtx s r.ctx.toNat).led.noState = false ∨ q.role = 0

section
variable {s : State} {r : Req} {q : Start}

theorem startBad_eq_false {x : Context} (h1 : q.core < 128) (h2 : corePart s q.core = x.part) (h3 : q.slot < 16) (h4 : q.cls.toNat < 3)
    (h5 : q.role.toNat < 3) (h6 : q.shard.toNat < 2) (h7 : q.desc.toNat < 2 ^ 48) (h8 : q.desc.toNat % 32 = 0)
    (h9 : q.recVa.toNat < 2 ^ 48) : startBad s x q = false := by
  simp only [startBad, Bool.or_eq_false_iff, Bool.and_eq_false_iff, decide_eq_false_iff_not, bne_eq_false_iff_eq]
  exact ⟨⟨⟨⟨⟨⟨⟨⟨.inl (by omega), .inr h2⟩, by omega⟩, by omega⟩, by omega⟩, by omega⟩, by omega⟩, h8⟩, by omega⟩

/-- R21: a core out of service takes no stream. -/
theorem ansStreamStart_outOfService (hn : r.ctx.toNat < 64) (ho : (getCtx s r.ctx.toNat).st = .opened)
    (fits : startBad s (getCtx s r.ctx.toNat) q = false) (core : q.core < 128) (out : inService s q.core = false) :
    ansStreamStart r q s = err s stFenced 0 := by
  refine (withCtx_open rfl hn ho).trans ((if_neg (by simp [fits])).trans (if_pos ?_))
  simp [core, out]

/-- What STREAM_START answers once its checks have passed. -/
theorem ansStreamStart_checked (h : MayStart r q s) : ansStreamStart r q s =
    match startBlock s r.ctx.toNat [q.core] q.slot with
    | some (st, legal) => conflict s 3 (streamCode st) legal
    | none =>
      match planStart s r.ctx.toNat (getCtx s r.ctx.toNat) q with
      | .bad => err s stBadArg 0
      | .busy => err (modCtx s r.ctx.toNat fun x => { x with trnBusy := x.trnBusy + 1 }) stBusy 0
      | .go v item effect =>
        let s := effect s
        let s := match v with
          | some v => putForced s r.ctx.toNat (q.desc.toNat + 4) (leBytes 7
              ((ctxSetting s r.ctx.toNat 0x605 + verSlot s r.ctx.toNat v * ctxSetting s r.ctx.toNat 0x606) % 2 ^ 48 * 8 + 4))
          | none => s
        ok (startOne (beginIfNew s q.core r.ctx.toNat) q.core r.ctx.toNat q item) [] := by
  have single : (if q.core = 0xFF then partCores s (getCtx s r.ctx.toNat).part else [q.core]) = [q.core] :=
    if_neg (by have := h.core; omega)
  refine (withCtx_open rfl h.ctx h.open_).trans ((if_neg (by simp [h.fits])).trans ((if_neg (by simp [h.here])).trans
    ((if_neg (by simp [mustWaitKey_plain h.plain])).trans ((if_neg ?_).trans ?_))))
  · rcases h.state with hs | hs <;> simp [hs]
  · dsimp only
    rw [single]
    rfl

theorem startBlock_serving {c n i : Nat} (h : (getC s n).ctx = some c) : startBlock s c [n] i =
    if (getStream (getC s n) i).st = .idle ∨ (getStream (getC s n) i).st = .halted then none
    else some ((getStream (getC s n) i).st, 0x5) := by
  simp only [startBlock, List.findSome?_cons, List.findSome?_nil, h, ne_eq, not_true_eq_false, if_false]
  split <;> rename_i e <;> [exact e.symm; exact e.symm]

theorem startBlock_idle {c n i : Nat} (h : (getC s n).ctx ≠ some c) (idle : ∀ i, (getStream (getC s n) i).st = .idle) :
    startBlock s c [n] i = none := by
  have none_ : (getC s n).streams.toList.find? (fun t => t.st != .idle) = none := by
    refine List.find?_eq_none.mpr fun t ht => ?_
    obtain ⟨j, hj, rfl⟩ := List.mem_iff_getElem.mp ht
    have at_ := idle j
    have inside : j < 16 := by simpa using hj
    have same : getStream (getC s n) j = (getC s n).streams[j] := by simp [getStream, Vector.getD, inside]
    rw [same] at at_
    simp [at_]
  rw [startBlock, List.findSome?_cons, if_pos h, none_]
  rfl

theorem planStart_none {c : Nat} {x : Context} (h : q.role = 0) : planStart s c x q = .go none none id := by
  unfold planStart
  rw [h]
  rfl

theorem planStart_bad {c : Nat} {x : Context} (h : q.role.toNat = 1 ∨ q.role.toNat = 2) (bad : setbaseFirst s c q.desc.toNat = false) :
    planStart s c x q = .bad := by
  unfold planStart
  rcases h with h | h <;> rw [h] <;> simp [bad]

end

/-! ### The stream of a core -/

section
variable {s : State} {r : Req} {q : Start}

/-- The state of a slot that can take a stream: it is IDLE or HALTED, or the core is new to the context and idle (R169, R449). -/
theorem ansStreamStart_starts (h : MayStart r q s) (role : q.role = 0) (free : startBlock s r.ctx.toNat [q.core] q.slot = none) :
    ansStreamStart r q s = ok (startOne (beginIfNew s q.core r.ctx.toNat) q.core r.ctx.toNat q none) [] := by
  rw [ansStreamStart_checked h, free]
  dsimp only
  rw [planStart_none role]
  rfl

theorem ansStreamStart_blocked {st : StreamState} {l : BitVec 32} (h : MayStart r q s)
    (blocked : startBlock s r.ctx.toNat [q.core] q.slot = some (st, l)) : ansStreamStart r q s = conflict s 3 (streamCode st) l := by
  rw [ansStreamStart_checked h, blocked]

theorem ansStreamStart_bad (h : MayStart r q s) (free : startBlock s r.ctx.toNat [q.core] q.slot = none)
    (bad : planStart s r.ctx.toNat (getCtx s r.ctx.toNat) q = .bad) : ansStreamStart r q s = err s stBadArg 0 := by
  rw [ansStreamStart_checked h, free]
  dsimp only
  rw [bad]

theorem ansStreamStart_busy (h : MayStart r q s) (free : startBlock s r.ctx.toNat [q.core] q.slot = none)
    (busy : planStart s r.ctx.toNat (getCtx s r.ctx.toNat) q = .busy) : ansStreamStart r q s =
      err (setCtx s r.ctx.toNat { getCtx s r.ctx.toNat with trnBusy := (getCtx s r.ctx.toNat).trnBusy + 1 }) stBusy 0 := by
  rw [ansStreamStart_checked h, free]
  dsimp only
  rw [busy]
  rfl

/-- The stream a start puts into a slot. -/
def startedStream (q : Start) (c : Nat) (item : Option Item) (t : Stream) : Stream :=
  { Stream.reset with
    st := .running, cls := q.cls.setWidth 2, ctx := c, pgen := q.pgen, first := q.desc.setWidth 48, pc := q.desc.setWidth 48,
    prog := t.prog, item := item }

theorem startOne_eq (n c : Nat) (item : Option Item) :
    startOne s n c q item = setC s n (modStream { getC s n with pstate := .run } q.slot (startedStream q c item)) :=
  modC_modC s (fun k => { k with pstate := .run }) fun k => modStream k q.slot (startedStream q c item)

end

section
variable {s : State} {r : Req} {core slot cls role shard pgen : BitVec 8} {desc recVa : BitVec 64}

theorem streamStart_runs {a : Answer} (hr : Ready 0x0208 setWork r s)
    (ans : ansStreamStart r ⟨core.toNat, slot.toNat, cls, role, shard, pgen, desc, recVa⟩ s = a) (hl : a.later = false)
    (calm : NoLockout a.st) : RunsAs (.streamStart r core slot cls role shard pgen desc recVa) r 0x0208 setWork
      (ansStreamStart r ⟨core.toNat, slot.toNat, cls, role, shard, pgen, desc, recVa⟩) s :=
  runsAs_of_calm (a := a) rfl hr (by decide) ans hl calm

theorem streamStart_refused {st : BitVec 8} (hr : Ready 0x0208 setWork r s) (calm : NoLockout s)
    (ans : ansStreamStart r ⟨core.toNat, slot.toNat, cls, role, shard, pgen, desc, recVa⟩ s = err s st 0) :
    Serves (.streamStart r core slot cls role shard pgen desc recVa) s s r 0x0208 st [] :=
  serves_of_answer (a := err s st 0) (streamStart_runs (a := err s st 0) hr ans rfl calm) hr (answer_taken (by decide) ans) rfl (.refl s) rfl

theorem streamStart_conflict {d : Nat} {l : BitVec 32} (hr : Ready 0x0208 setWork r s) (calm : NoLockout s)
    (ans : ansStreamStart r ⟨core.toNat, slot.toNat, cls, role, shard, pgen, desc, recVa⟩ s = conflict s 3 d l) :
    Conflicts (.streamStart r core slot cls role shard pgen desc recVa) s r 0x0208 3 (BitVec.ofNat 16 d) l :=
  conflicts_of (streamStart_runs (a := conflict s 3 d l) hr ans rfl calm) hr ans

theorem streamStart_done {u : State} (hr : Ready 0x0208 setWork r s) (calm : NoLockout s) (ctxs : u.ctxs = s.ctxs) (mail : u.mail = s.mail)
    (ans : ansStreamStart r ⟨core.toNat, slot.toNat, cls, role, shard, pgen, desc, recVa⟩ s = ok u []) :
    Serves (.streamStart r core slot cls role shard pgen desc recVa) s u r 0x0208 0x00 [] := by
  have calm' : NoLockout u := fun c => by
    rw [getCtx_congr ctxs]
    exact calm c
  exact serves_ok (streamStart_runs (a := ok u []) hr ans rfl calm') hr ans (congrArg Mail.responses mail)

/-- R449, R169: a core begins work for the context with the stream that is started. -/
theorem streamStart_begins (hr : Ready 0x0208 setWork r s) (calm : NoLockout s)
    (h : MayStart r ⟨core.toNat, slot.toNat, cls, 0, shard, pgen, desc, recVa⟩ s) (hs : slot.toNat < 16)
    (new : (getC s core.toNat).ctx ≠ some r.ctx.toNat) (idle : ∀ i, (getStream (getC s core.toNat) i).st = .idle) :
    ∃ t, exec (.streamStart r core slot cls 0 shard pgen desc recVa) s = .next t ∧ Answers s t r 0x0208 0x00 [] ∧
      (getC t core.toNat).ctx = some r.ctx.toNat ∧ (getC t core.toNat).gen = (getCtx s r.ctx.toNat).cgen ∧
      (∀ k, semGet (getC t core.toNat) k = 0) ∧ (getStream (getC t core.toNat) slot.toNat).st = .running ∧
      (getStream (getC t core.toNat) slot.toNat).pc = desc.setWidth 48 ∧
      (∀ i, i ≠ slot.toNat → (getStream (getC t core.toNat) i).st = .idle) ∧ t.mem = s.mem := by
  have ans := ansStreamStart_starts h rfl (startBlock_idle new idle)
  rw [beginIfNew, if_neg (fun hc => new hc.1), startOne_eq] at ans
  obtain ⟨k, hk⟩ : ∃ k, k = { getC (beginWork s core.toNat r.ctx.toNat) core.toNat with pstate := .run } := ⟨_, rfl⟩
  rw [← hk] at ans
  obtain ⟨t, run, kept, told⟩ := streamStart_done (u := setC (beginWork s core.toNat r.ctx.toNat) core.toNat _) hr calm rfl rfl ans
  have own : getC t core.toNat = modStream k slot.toNat
      (startedStream ⟨core.toNat, slot.toNat, cls, 0, shard, pgen, desc, recVa⟩ r.ctx.toNat none) :=
    (getC_settled kept core.toNat).trans (getC_setC_same _ _)
  have begun : getC (beginWork s core.toNat r.ctx.toNat) core.toNat = _ := getC_modC_same s core.toNat _
  have idleAll (i : Nat) : (Vector.getD (Vector.replicate 16 Stream.reset) i Stream.reset).st = .idle := by
    by_cases hi : i < 16 <;> simp [Vector.getD, hi, Stream.reset]
  refine ⟨t, run, told, ?_, ?_, ?_, ?_, ?_, ?_, kept.out.mem⟩
  · rw [own, hk, begun]; rfl
  · rw [own, hk, begun]; rfl
  · intro j
    rw [own, hk, begun]; rfl
  · rw [own, getStream_modStream_same _ hs]; rfl
  · rw [own, getStream_modStream_same _ hs]; rfl
  · intro i hi
    rw [own, getStream_modStream_other _ hi, hk, begun]
    exact idleAll i

end

/-- Settles O21. -/
theorem streamsStart : Obligations.StreamsStart := by
  intro r core slot cls shard pgen desc recVa s hr calm hn ho hcore part hslot hcls hshard hdesc aligned hrec
  have fits (role : BitVec 8) (hrole : role.toNat < 3) :
      startBad s (getCtx s r.ctx.toNat) ⟨core.toNat, slot.toNat, cls, role, shard, pgen, desc, recVa⟩ = false :=
    startBad_eq_false hcore part hslot hcls hrole hshard hdesc aligned hrec
  have may (here : inService s core.toNat = true) (plain : isConf s (getCtx s r.ctx.toNat).part = false) :
      MayStart r ⟨core.toNat, slot.toNat, cls, 0, shard, pgen, desc, recVa⟩ s :=
    ⟨hn, ho, fits 0 (by decide), hcore, here, plain, .inr rfl⟩
  refine ⟨fun here plain serves gen => ⟨fun free => ?_, fun run => ?_, fun stop => ?_⟩,
    fun here plain new idle => streamStart_begins hr calm (may here plain) hslot new idle,
    fun out role hrole => streamStart_refused hr calm (ansStreamStart_outOfService hn ho (fits role hrole) hcore out), ?_⟩
  · have ans := ansStreamStart_starts (may here plain) rfl ((startBlock_serving serves).trans (if_pos free))
    rw [beginIfNew, if_pos ⟨serves, gen⟩, startOne_eq] at ans
    exact streamStart_done hr calm rfl rfl ans
  · have ans := ansStreamStart_blocked (may here plain) ((startBlock_serving serves).trans (if_neg (by simp [run])))
    rw [run] at ans
    exact streamStart_conflict hr calm ans
  · have ans := ansStreamStart_blocked (may here plain) ((startBlock_serving serves).trans (if_neg (by simp [stop])))
    rw [stop] at ans
    exact streamStart_conflict hr calm ans
  · rintro role q rfl hrole here plain state serves idle
    have start : MayStart r ⟨core.toNat, slot.toNat, cls, role, shard, pgen, desc, recVa⟩ s :=
      ⟨hn, ho, fits role (by omega), hcore, here, plain, .inl state⟩
    have free := (startBlock_serving (i := slot.toNat) serves).trans (if_pos (.inl idle))
    refine ⟨fun bad => ?_, fun busy => ?_⟩
    · exact streamStart_refused hr calm (ansStreamStart_bad start free (planStart_bad hrole bad))
    · have ans := ansStreamStart_busy start free busy
      obtain ⟨u, hu⟩ : ∃ u, u = setCtx s r.ctx.toNat { getCtx s r.ctx.toNat with trnBusy := (getCtx s r.ctx.toNat).trnBusy + 1 } :=
        ⟨_, rfl⟩
      have calm' : NoLockout u := hu ▸ noLockout_setCtx calm (calm r.ctx.toNat)
      have mail : u.mail = s.mail := by rw [hu]; rfl
      rw [← hu] at ans ⊢
      exact serves_of_answer (a := err u stBusy 0) (streamStart_runs (a := err u stBusy 0) hr ans rfl calm') hr
        (answer_taken (by decide) ans) rfl (.refl u) (congrArg Mail.responses mail)

end Sys2Proof.Machine
end

section
-- One proof after the other: a text of this length has more proofs waiting at once than the check has threads for.
set_option Elab.async false
/-! PROOFS. Settings of a context and of memory (R210, R232, R360), and the Page Map (R216 to R218). -/
namespace Sys2Proof.Machine

/-! ### One record -/

section
variable {s : State} {c : Nat} {v : Setting}

theorem recsOk_single : recsOk [v] = true := rfl

theorem firstBad_single (allowed : Nat → Bool) (okv : Nat → Nat → Bool) (parts : Nat) : firstBad allowed okv parts [v] =
    if (keyKnown v.key.toNat && allowed v.key.toNat && okv v.key.toNat v.value.toNat &&
      (!isRegulKey v.key.toNat || decide (v.scope.toNat < parts))) = true then none else some 0 := by
  unfold firstBad
  rw [List.findIdx?_cons]
  dsimp only
  by_cases h : (keyKnown v.key.toNat && allowed v.key.toNat && okv v.key.toNat v.value.toNat &&
    (!isRegulKey v.key.toNat || decide (v.scope.toNat < parts))) = true
  · rw [if_neg (by rw [h]; decide), if_pos h]
    rfl
  · rw [if_pos (by rw [Bool.not_eq_true _ |>.mp h]; rfl), if_neg h]

/-- A setting of a context depends on its own record of the key; the lag has no other source. -/
theorem ctxSetting_lag_congr {t : State} (h : mapGet? (getCtx t c).set 0x604 = mapGet? (getCtx s c).set 0x604) :
    ctxSetting t c 0x604 = ctxSetting s c 0x604 := by
  unfold ctxSetting
  rw [h]
  rfl

theorem settleVersions_same {t : State} (h : mapGet? (getCtx t c).set 0x604 = mapGet? (getCtx s c).set 0x604) :
    settleVersions t c (ctxSetting s c 0x604) = t := if_pos (ctxSetting_lag_congr h)

/-- One record that takes effect at once is the value of its key. -/
theorem setCtxValues_now (hc : c < 64) (plain : isRegulKey v.key.toNat = false) (hk : v.key.toNat ≠ 0x604)
    (now : (pends v.key.toNat && jobRuns (getCtx s c).led) = false) :
    setCtxValues s c [v] = setCtx s c { getCtx s c with set := mapSet (getCtx s c).set v.key.toNat v.value } := by
  unfold setCtxValues
  simp only [List.foldl_cons, List.foldl_nil, plain, now, Bool.false_eq_true, if_false]
  refine settleVersions_same ?_
  rw [getCtx_modCtx_same s hc, mapGet?_set_other _ (Ne.symm hk)]

/-- One record that waits stands beside those that wait. -/
theorem setCtxValues_pends (hc : c < 64) (plain : isRegulKey v.key.toNat = false)
    (later : (pends v.key.toNat && jobRuns (getCtx s c).led) = true) : setCtxValues s c [v] =
      setCtx s c { getCtx s c with led := { (getCtx s c).led with pendSet := mapSet (getCtx s c).led.pendSet v.key.toNat v.value } } := by
  unfold setCtxValues
  simp only [List.foldl_cons, List.foldl_nil, plain, later, Bool.false_eq_true, if_false, if_true]
  refine settleVersions_same ?_
  rw [modLed, getCtx_modCtx_same s hc]

end

/-! ### CTX_CONFIG -/

section
variable {r : Req} {v : Setting} {s : State} {x : Context}

theorem wellFormed_ctxConfig_single : wellFormed (.ctxConfig r [v]) = true := by simp [wellFormed, bodyMax]
theorem wellFormed_jobConfig_single : wellFormed (.jobConfig r [v]) = true := by simp [wellFormed, bodyMax]

theorem runsAs_ctxConfig {recs : List Setting} (wf : wellFormed (.ctxConfig r recs) = true) :
    RunsAs (.ctxConfig r recs) r 0x0203 setWork (ansCtxConfig r recs) s := if_pos wf
theorem runsAs_jobConfig {recs : List Setting} (wf : wellFormed (.jobConfig r recs) = true) :
    RunsAs (.jobConfig r recs) r 0x0204 setWork (ansJobConfig r recs) s := if_pos wf

theorem ctxConfig_seed (hn : r.ctx.toNat < 64) (hx : x = getCtx s r.ctx.toNat) (ho : x.st = .opened) (hr : Ready 0x0203 setWork r s)
    (hk : v.key = 0x0900) : Serves (.ctxConfig r [v]) s (setCtx s r.ctx.toNat { x with set := mapSet x.set 0x900 v.value }) r 0x0203 0x00 [] := by
  subst hx
  have key : v.key.toNat = 0x900 := by rw [hk]; rfl
  have ans : ansCtxConfig r [v] s =
      ok (setCtx s r.ctx.toNat { getCtx s r.ctx.toNat with set := mapSet (getCtx s r.ctx.toNat).set 0x900 v.value }) [] := by
    refine (withOpen_open rfl hn (by rw [ho]; decide)).trans ((if_neg (by rw [recsOk_single]; decide)).trans ?_)
    rw [firstBad_single, key, if_pos (by rfl)]
    dsimp only
    rw [setCtxValues_now hn (by rw [key]; rfl) (by rw [key]; decide) (by rw [key]; rfl), key]
  exact serves_ok (runsAs_ctxConfig wellFormed_ctxConfig_single) hr ans rfl

theorem ctxConfig_refused (hn : r.ctx.toNat < 64) (hx : x = getCtx s r.ctx.toNat) (ho : x.st = .opened) (hr : Ready 0x0203 setWork r s)
    (hk : v.key ≠ 0x0900) : Refuses (.ctxConfig r [v]) s r 0x0203 0x03 0 := by
  subst hx
  have key : v.key.toNat ≠ 0x900 := fun h => hk (BitVec.eq_of_toNat_eq h)
  have ans : ansCtxConfig r [v] s = err s stBadArg 0 := by
    refine (withOpen_open rfl hn (by rw [ho]; decide)).trans ((if_neg (by rw [recsOk_single]; decide)).trans ?_)
    rw [firstBad_single, if_neg (by simp [key])]
  exact refuses_err (runsAs_ctxConfig wellFormed_ctxConfig_single) hr ans

end

/-! ### The WR bits of regions (R242, R286) -/

section
variable (s : State)

theorem frame_pmap {f : Mem → Mem} (h : (f s.mem).cells = s.mem.cells) : AllBut [.mem, .pmap] s (modMem s f) := fun p hp => by
  cases p <;> first | exact absurd (by decide) hp | exact h | exact rfl | exact List.suffix_rfl | exact MailKept.refl _

theorem frame_setWr (c va len : Nat) (wr : Bool) : AllBut [.mem, .pmap] s (setWr s c va len wr) := by
  refine .foldl (fun s k => ?_) _ s
  dsimp only
  split
  · split
    · exact frame_pmap s rfl
    · exact .refl _ s
  · exact .refl _ s

theorem frame_applyRegions (c : Nat) : AllBut [.mem, .pmap] s (applyRegions s c) := by
  unfold applyRegions
  extract_lets live n one s1 s2
  have each (s : State) (m : Bool) (i : Nat) (wr : Bool) : AllBut [.mem, .pmap] s (one s m i wr) :=
    .ite (fun _ => .refl _ s) fun _ => frame_setWr s c _ _ _
  have own : AllBut [.mem, .pmap] s s1 := (each s _ _ _).trans (each _ _ _ _)
  have mirror : AllBut [.mem, .pmap] s1 s2 := (each s1 _ _ _).trans (each _ _ _ _)
  exact (own.trans mirror).trans (.foldl (fun s r => frame_setWr s c _ _ _) _ s2)

theorem frame_loadCores (c : Nat) : AllBut [.slots] s (loadCores s c) := .foldl (fun s n => frame_modC s n _) _ s

theorem setWr_empty (c va : Nat) (wr : Bool) : setWr s c va 0 wr = s := rfl

/-- Without regions and without frozen layers there are no WR bits to keep. -/
theorem applyRegions_none {s : State} {c : Nat} (h : regionSize s c = 0) (hf : frozenLayers (getCtx s c) = []) : applyRegions s c = s := by
  unfold applyRegions
  simp only [h, setWr_empty, ite_self, hf, List.foldl_nil]

end

/-! ### JOB_CONFIG -/

/-- The job keys of one record that a command sets without a look at memory (R360). -/
def plainJobKeys : List Nat :=
  [0x300, 0x301, 0x500, 0x501, 0x502, 0x503, 0x600, 0x601, 0x602, 0x603, 0x605, 0x70C, 0x70D, 0x70E, 0x70F, 0x800, 0x801, 0x802, 0x803,
    0x804, 0x805, 0x806]

/-- What the checks of JOB_CONFIG ask of a key. -/
def jobKeyPlain (k : Nat) : Bool :=
  keyKnown k && jobKey k && !isRegulKey k && !regionKey k && k != 0x710 && k != 0x604 && k != 0x606 && k != 0x607 && k != 0x608

theorem plainJobKeys_plain : ∀ k ∈ plainJobKeys, jobKeyPlain k = true := by decide

/-- Of the plain keys, those of the pipeline wait for the next Downbeat once a step has been armed. -/
theorem plainJobKeys_pends : ∀ k ∈ plainJobKeys, (pends k = true ↔ (0x600 ≤ k ∧ k ≤ 0x603) ∨ k = 0x605 ∨ k = 0x70D) := by decide

section
variable {r : Req} {v : Setting} {s : State} {x : Context} {c : Nat}

theorem takeJob_plain (hk : jobKeyPlain v.key.toNat = true) :
    takeJob s c [v] none = applyRegions (loadCores (setVolatile (setCtxValues s c [v]) []) c) c := by
  simp only [jobKeyPlain, Bool.and_eq_true, Bool.not_eq_true', bne_iff_ne] at hk
  obtain ⟨⟨⟨⟨⟨⟨⟨⟨-, -⟩, plain⟩, -⟩, first⟩, -⟩, -⟩, -⟩, -⟩ := hk
  simp [takeJob, names, plain, first]

/-- One record of a plain job key moves no data, no answer and no context's settings but as `setCtxValues` does. -/
theorem takeJob_moves (hk : jobKeyPlain v.key.toNat = true) :
    (takeJob s c [v] none).ctxs = (setCtxValues s c [v]).ctxs ∧ (takeJob s c [v] none).mem.cells = (setCtxValues s c [v]).mem.cells ∧
      (takeJob s c [v] none).mail.responses = (setCtxValues s c [v]).mail.responses := by
  rw [takeJob_plain hk]
  generalize setCtxValues s c [v] = u
  have cores := frame_loadCores (setVolatile u []) c
  have regions := frame_applyRegions (loadCores (setVolatile u []) c) c
  refine ⟨?_, ?_, ?_⟩
  · exact Eq.trans (regions .ctxs (by decide)) (cores .ctxs (by decide))
  · exact Eq.trans (regions .cells (by decide)) (cores .cells (by decide))
  · exact congrArg Mail.responses (Eq.trans (regions .mail (by decide)) (cores .mail (by decide)))

section
variable (hn : r.ctx.toNat < 64) (ho : (getCtx s r.ctx.toNat).st = .opened) (hk : jobKeyPlain v.key.toNat = true)
include hn ho hk

theorem ansJobConfig_good (good : valueOk (ctxAfter s r.ctx.toNat [v]) (coresIn s (getCtx s r.ctx.toNat)) true v.key.toNat v.value.toNat = true) :
    ansJobConfig r [v] s = ok (takeJob s r.ctx.toNat [v] none) [] := by
  simp only [jobKeyPlain, Bool.and_eq_true, Bool.not_eq_true', bne_iff_ne] at hk
  obtain ⟨⟨⟨⟨⟨⟨⟨⟨known, job⟩, plain⟩, region⟩, first⟩, lag⟩, pages⟩, layers⟩, count⟩ := hk
  refine (withOpen_open rfl hn (by rw [ho]; decide)).trans ((if_neg (by rw [recsOk_single]; decide)).trans ?_)
  rw [firstBad_single, known, job, good, plain]
  simp [names, region, first, lag, pages, layers, count]

omit hk in
theorem ansJobConfig_bad (bad : valueOk (ctxAfter s r.ctx.toNat [v]) (coresIn s (getCtx s r.ctx.toNat)) true v.key.toNat v.value.toNat = false) :
    ansJobConfig r [v] s = err s stBadArg 0 := by
  refine (withOpen_open rfl hn (by rw [ho]; decide)).trans ((if_neg (by rw [recsOk_single]; decide)).trans ?_)
  rw [firstBad_single, if_neg (by simp [bad])]

end

theorem jobConfig_single (hn : r.ctx.toNat < 64) (hx : x = getCtx s r.ctx.toNat) (ho : x.st = .opened) (hr : Ready 0x0204 setWork r s)
    (mem : v.key.toNat ∈ plainJobKeys) :
    (valueOk (ctxAfter s r.ctx.toNat [v]) (coresIn s x) true v.key.toNat v.value.toNat = true →
      ∃ t, exec (.jobConfig r [v]) s = .next t ∧ Answers s t r 0x0204 0x00 [] ∧ t.mem.cells = s.mem.cells ∧
        (∀ k, k ≠ r.ctx.toNat → getCtx t k = getCtx s k) ∧
        (x.led.everArmed = false ∨ v.key.toNat < 0x600 ∨ (0x603 < v.key.toNat ∧ v.key.toNat ≠ 0x605 ∧ v.key.toNat ≠ 0x70D) →
          getCtx t r.ctx.toNat = { x with set := mapSet x.set v.key.toNat v.value }) ∧
        (x.led.everArmed = true → (0x600 ≤ v.key.toNat ∧ v.key.toNat ≤ 0x603) ∨ v.key.toNat = 0x605 ∨ v.key.toNat = 0x70D →
          getCtx t r.ctx.toNat = { x with led := { x.led with pendSet := mapSet x.led.pendSet v.key.toNat v.value } })) ∧
    (valueOk (ctxAfter s r.ctx.toNat [v]) (coresIn s x) true v.key.toNat v.value.toNat = false → Refuses (.jobConfig r [v]) s r 0x0204 0x03 0) := by
  subst hx
  have plainKey := plainJobKeys_plain _ mem
  have waits := plainJobKeys_pends _ mem
  have regul : isRegulKey v.key.toNat = false ∧ v.key.toNat ≠ 0x604 := by
    simp only [jobKeyPlain, Bool.and_eq_true, Bool.not_eq_true', bne_iff_ne] at plainKey
    exact ⟨plainKey.1.1.1.1.1.1.2, plainKey.1.1.1.2⟩
  refine ⟨fun good => ?_, fun bad => refuses_err (runsAs_jobConfig wellFormed_jobConfig_single) hr (ansJobConfig_bad hn ho bad)⟩
  obtain ⟨u, hu⟩ : ∃ u, u = takeJob s r.ctx.toNat [v] none := ⟨_, rfl⟩
  have ans : ansJobConfig r [v] s = ok u [] := hu ▸ ansJobConfig_good hn ho plainKey good
  have moves := takeJob_moves (s := s) (c := r.ctx.toNat) plainKey
  rw [← hu] at moves
  obtain ⟨ctxs, cells, responses⟩ := moves
  -- the context after the record, at once or waiting
  obtain ⟨y, hy, set, pend⟩ : ∃ y, setCtxValues s r.ctx.toNat [v] = setCtx s r.ctx.toNat y ∧
      ((pends v.key.toNat && jobRuns (getCtx s r.ctx.toNat).led) = false →
        y = { getCtx s r.ctx.toNat with set := mapSet (getCtx s r.ctx.toNat).set v.key.toNat v.value }) ∧
      ((pends v.key.toNat && jobRuns (getCtx s r.ctx.toNat).led) = true →
        y = { getCtx s r.ctx.toNat with led := { (getCtx s r.ctx.toNat).led with
          pendSet := mapSet (getCtx s r.ctx.toNat).led.pendSet v.key.toNat v.value } }) := by
    cases now : pends v.key.toNat && jobRuns (getCtx s r.ctx.toNat).led
    · exact ⟨_, setCtxValues_now hn regul.1 regul.2 now, fun _ => rfl, nofun⟩
    · exact ⟨_, setCtxValues_pends hn regul.1 now, nofun, fun _ => rfl⟩
  rw [hy] at ctxs cells responses
  obtain ⟨t, run, kept, told⟩ := serves_ok (runsAs_jobConfig wellFormed_jobConfig_single) hr ans responses
  have at_ (k : Nat) : getCtx t k = getCtx (setCtx s r.ctx.toNat y) k := getCtx_congr (kept.out.ctxs.trans ctxs) k
  refine ⟨t, run, told, by rw [kept.out.mem, cells]; rfl, fun k hk => by rw [at_, getCtx_setCtx_other s hk], fun h => ?_, fun armed h => ?_⟩
  · rw [at_, getCtx_setCtx_same s hn]
    refine set ?_
    rw [Bool.and_eq_false_iff]
    rcases h with h | h | h
    · exact .inr h
    · exact .inl (by rw [← Bool.not_eq_true, waits]; omega)
    · exact .inl (by rw [← Bool.not_eq_true, waits]; omega)
  · rw [at_, getCtx_setCtx_same s hn]
    exact pend (by rw [Bool.and_eq_true]; exact ⟨waits.mpr h, armed⟩)

end

/-- R232: how AUDIT_ROT and PIPE_V are bounded. -/
theorem valueOk_bounds (get : Nat → Nat) (cores v : Nat) :
    (valueOk get cores true 0x502 v = true ↔ 1 ≤ v ∧ v ≤ 127 ∧ (cores = 0 ∨ v % cores ≠ 0)) ∧
    (valueOk get cores true 0x602 v = true ↔ 1 ≤ v ∧ v ≤ 8) := by
  constructor <;> simp [valueOk, within, and_assoc]

/-! ### MEM_POLICY (R210) -/

section
variable {r : Req} {recs : List Setting} {s : State}

theorem runsAs_memPolicy (hw : wellFormed (.memPolicy r recs) = true) : RunsAs (.memPolicy r recs) r 0x0207 setUp (ansMemPolicy recs) s :=
  if_pos hw

/-- The keys of MEM_POLICY and their ranges. -/
theorem memRecordOk_eq (v : Setting) : (keyKnown v.key.toNat && decide (0x400 ≤ v.key.toNat ∧ v.key.toNat ≤ 0x405) &&
    valueOk (fun _ => 0) 0 true v.key.toNat v.value.toNat && (!isRegulKey v.key.toNat || decide (v.scope.toNat < 4))) = memRecordOk v := by
  unfold memRecordOk
  generalize v.key.toNat = k
  by_cases hk : 0x400 ≤ k ∧ k ≤ 0x405
  · have known : keyKnown k = true := by simp [keyKnown, hk]
    have plain : isRegulKey k = false := by simp [isRegulKey]; omega
    obtain ⟨h1, h2⟩ := hk
    interval_cases k <;> simp [known, plain, valueOk, within]
  · have other : k ≠ 0x400 ∧ k ≠ 0x401 ∧ k ≠ 0x402 ∧ k ≠ 0x403 ∧ k ≠ 0x404 ∧ k ≠ 0x405 := by omega
    simp [hk, other]

theorem memRecordOk_key {v : Setting} (h : memRecordOk v = true) : isRegulKey v.key.toNat = false := by
  rw [← memRecordOk_eq] at h
  simp only [Bool.and_eq_true, decide_eq_true_iff] at h
  obtain ⟨⟨⟨-, low, high⟩, -⟩, -⟩ := h
  simp [isRegulKey]
  omega

theorem firstBad_mem (recs : List Setting) :
    firstBad (fun k => decide (0x400 ≤ k ∧ k ≤ 0x405)) (valueOk (fun _ => 0) 0 true) 4 recs = recs.findIdx? fun v => !memRecordOk v := by
  simp only [firstBad, memRecordOk_eq]

section
variable (hw : wellFormed (.memPolicy r recs) = true)
include hw

theorem length_memPolicy : 2 + 16 * recs.length ≤ bodyMax := by simpa [wellFormed] using hw

theorem ansMemPolicy_bad {i : Nat} (h : recs.findIdx? (fun v => !memRecordOk v) = some i) : ansMemPolicy recs s = err s stBadArg i := by
  rw [ansMemPolicy, (recsOk_iff (length_memPolicy hw)).mpr (findIdx?_ne_nil h), firstBad_mem, h]
  rfl

theorem ansMemPolicy_good (hn : recs ≠ []) (h : recs.all memRecordOk = true) :
    ansMemPolicy recs s = ok (loadDevice (setVolatile s recs)) [] := by
  have none_ : recs.findIdx? (fun v => !memRecordOk v) = none := by
    rw [List.findIdx?_eq_none_iff]
    simpa using h
  rw [ansMemPolicy, (recsOk_iff (length_memPolicy hw)).mpr hn, firstBad_mem, none_]
  rfl

theorem memPolicy_sets (h : Ready 0x0207 setUp r s) (hn : recs ≠ []) (hr : recs.all memRecordOk = true) :
    ∃ t, exec (.memPolicy r recs) s = .next t ∧ Answers s t r 0x0207 0x00 [] ∧ (∀ k, devSetting t k = lastOf recs k (devSetting s k)) ∧
      t.mem.policy = policyFrom t ∧ t.time.now = s.time.now ∧
      Settled { s with
        time := t.time, pins := t.pins, mem := { s.mem with policy := t.mem.policy }, mail := { s.mail with volatile := t.mail.volatile } } t := by
  obtain ⟨u, hu⟩ : ∃ u, u = loadDevice (setVolatile s recs) := ⟨_, rfl⟩
  have answer := hu ▸ ansMemPolicy_good (s := s) hw hn hr
  have moved := loadDevice_moves (setVolatile s recs)
  have policy := loadDevice_policy (setVolatile s recs)
  rw [← hu] at moved policy
  obtain ⟨time, pins, rest⟩ := moved
  have responses : u.mail.responses = s.mail.responses := by rw [rest]; rfl
  obtain ⟨t, run, kept, answered⟩ := serves_ok (runsAs_memPolicy hw) h answer responses
  have set_ : ∀ k, devSetting t k = devSetting (setVolatile s recs) k := fun k => by
    rw [devSetting_settled kept, rest]
    exact devSetting_congr rfl (layerValue_congr (.inr ⟨rfl, rfl, rfl⟩) (.refl _) rfl) k
  refine ⟨t, run, answered, fun k => ?_, ?_, ?_, ?_⟩
  · rw [set_]
    exact devSetting_setVolatile (fun r hr' => memRecordOk_key (List.all_eq_true.mp hr r hr')) k
  · rw [kept.out.mem, policy]
    simp only [policyFrom, set_]
  · rw [kept.out.time, time]
    rfl
  · have same : { s with
        time := t.time, pins := t.pins, mem := { s.mem with policy := t.mem.policy }
        mail := { s.mail with volatile := t.mail.volatile } } = u := by
      rw [kept.out.time, kept.out.pins, kept.out.mem, kept.mail.volatile]
      exact rest.symm ▸ rfl
    rw [same]
    exact kept

end

end

/-! ### The Page Map (R216 to R218) -/

section
variable {α : Type}

theorem mapGet?_filter (m : AMap α) (p : Nat → Bool) (j : Nat) : mapGet? (m.filter fun e => p e.1) j = if p j then mapGet? m j else none := by
  induction m with
  | nil => simp [mapGet?]
  | cons e t ih =>
    obtain ⟨k, v⟩ := e
    by_cases hk : k = j
    · subst hk
      cases hp : p k
      · simp [hp, ih]
      · simp [hp, mapGet?]
    · cases hp : p k
      · simp [hp, ih, mapGet?, hk]
      · simp [hp, mapGet?, hk, ih]

theorem mapGet_filter (m : AMap α) (p : Nat → Bool) (j : Nat) (d : α) :
    mapGet (m.filter fun e => p e.1) j d = if p j then mapGet m j d else d := by
  unfold mapGet
  rw [mapGet?_filter]
  cases p j <;> rfl

end

section
variable {s : State} {c : Nat}

theorem frame_releasePage (s : State) (e : BitVec 64) : AllBut [.mem] s (releasePage s e) := by
  unfold releasePage
  refine .ite (fun _ => ?_) fun _ => .refl _ s
  dsimp only
  exact .ite (fun _ p hp => by cases p <;> first | exact absurd (by decide) hp | exact rfl | exact List.suffix_rfl | exact MailKept.refl _)
    fun _ => .refl _ s

/-- R218: entries that go leave every other entry, all data and everything but cached translations. -/
theorem unmapEntries_moves (s : State) (c i n : Nat) : AllBut [.mem, .pmap, .slots] s (unmapEntries s c i n) ∧
    (unmapEntries s c i n).mem.pmap = s.mem.pmap.filter fun e => !(decide (i ≤ e.1) && decide (e.1 < i + n)) := by
  unfold unmapEntries
  extract_lets x gone s1 s2
  have released : AllBut [.mem] s s1 := .foldl (fun s (e : Nat × BitVec 64) => frame_releasePage s e.2) _ s
  have dropped : AllBut [.mem, .pmap] s1 s2 := frame_pmap s1 rfl
  have cores := AllBut.foldl (l := [.slots]) (f := fun s k => modC s k fun q => { q with
      xlat := q.xlat.filter fun v => !(decide (c * 2 ^ 21 + (i - x.pmBase.toNat) ≤ v) &&
        decide (v < c * 2 ^ 21 + (i - x.pmBase.toNat) + n)) }) (fun s k => frame_modC s k _) (partCores s2 x.part) s2
  refine ⟨(released.mono.trans dropped.mono).trans cores.mono, ?_⟩
  have map : s2.mem.pmap = s1.mem.pmap.filter fun e => !(decide (i ≤ e.1) && decide (e.1 < i + n)) := rfl
  have same : s1.mem.pmap = s.mem.pmap := released .pmap (by decide)
  exact Eq.trans (cores .pmap (by decide)) (map.trans (by rw [same]))

/-- R218: a context with no access under way has none to complete. -/
theorem changeEntries_rest (h : NoAccess s c) (v k : Nat) : changeEntries s c v k = s := by
  unfold changeEntries finishAccesses
  have each : ∀ l : List Nat, (∀ n ∈ l, n ∈ coresOf s c) → ∀ pages : Nat → Bool,
      l.foldl (fun s n => wakeCore (finishGathers (finishCopies s n pages) n c pages) n) s = s := by
    intro l hl pages
    induction l with
    | nil => rfl
    | cons n l ih =>
      obtain ⟨copies, gather, free⟩ := h n (hl n (List.mem_cons_self ..))
      have c1 : finishCopies s n pages = s := by simp [finishCopies, copies]
      have c2 : finishGathers s n c pages = s := by simp [finishGathers, gather]
      rw [List.foldl_cons, c1, c2, wakeCore_none free]
      exact ih fun m hm => hl m (List.mem_cons_of_mem _ hm)
  exact each _ (fun _ => id) _

end

section
variable {s : State} {r : Req} {it : MapItem} {x : Context} {i : Nat}

/-- One item of MAP, with no access under way: its place takes the entry, or is clear. -/
theorem mapOne_moves {c : Nat} (h : NoAccess s c) (hi : i = (getCtx s c).pmBase.toNat + it.index.toNat) :
    AllBut [.mem, .pmap, .slots, .free] s (mapOne s c it) ∧
      mapGet (mapOne s c it).mem.pmap i 0 = (if it.entry.getLsbD 0 then it.entry else 0) ∧
      ∀ j, j ≠ i → mapGet (mapOne s c it).mem.pmap j 0 = mapGet s.mem.pmap j 0 := by
  unfold mapOne
  dsimp only
  rw [changeEntries_rest h, ← hi]
  obtain ⟨frame, map⟩ := unmapEntries_moves s c i 1
  generalize unmapEntries s c i 1 = u at frame map ⊢
  have here : mapGet u.mem.pmap i 0 = 0 := by
    rw [map, mapGet_filter _ (fun a => !(decide (i ≤ a) && decide (a < i + 1)))]
    simp
  have others (j : Nat) (hj : j ≠ i) : mapGet u.mem.pmap j 0 = mapGet s.mem.pmap j 0 := by
    rw [map, mapGet_filter _ (fun a => !(decide (i ≤ a) && decide (a < i + 1))), if_pos]
    simp only [Bool.not_eq_true', Bool.and_eq_false_iff, decide_eq_false_iff_not]
    omega
  cases valid : it.entry.getLsbD 0
  · exact ⟨frame.mono, here, others⟩
  · have put : AllBut [.mem, .pmap] u (modMem u fun m => { m with pmap := mapSet m.pmap i it.entry }) := frame_pmap u rfl
    have own : mapGet (mapSet u.mem.pmap i it.entry) i 0 = it.entry := mapGet_set_same _ _ _ _
    have rest (j : Nat) (hj : j ≠ i) : mapGet (mapSet u.mem.pmap i it.entry) j 0 = mapGet s.mem.pmap j 0 := by
      rw [mapGet_set_other _ hj, others j hj]
    rw [if_neg (by simp)]
    split
    · refine ⟨?_, own, rest⟩
      refine (frame.mono.trans put.mono).trans fun p hp => ?_
      cases p <;> first | exact absurd (by decide) hp | exact rfl | exact List.suffix_rfl | exact MailKept.refl _
    · exact ⟨frame.mono.trans put.mono, own, rest⟩

theorem wellFormed_map_single : wellFormed (.map r [it]) = true := by simp [wellFormed, bodyMax]

theorem runsAs_map {items : List MapItem} (wf : wellFormed (.map r items) = true) :
    RunsAs (.map r items) r 0x0205 setWork (ansMap r items) s := if_pos wf

/-- One item is refused or taken by its own checks. -/
theorem takeItems_single {c k : Nat} {m : AMap (BitVec 64)} {q : List Nat} : takeItems s c x k m q [it] =
    match itemBad s c x m q it with
    | some st => .error (k, st)
    | none => .ok (if it.entry.getLsbD 0 then mapSet m (x.pmBase.toNat + it.index.toNat) it.entry
        else mapErase m (x.pmBase.toNat + it.index.toNat)) := by
  unfold takeItems
  cases itemBad s c x m q it <;> rfl

section
variable (hn : r.ctx.toNat < 64) (hx : x = getCtx s r.ctx.toNat) (ho : x.st = .opened) (hr : Ready 0x0205 setWork r s)
include hn hx ho hr

theorem map_refuses {items : List MapItem} {k : Nat} {st : BitVec 8} (wf : wellFormed (.map r items) = true) (hi : items ≠ [])
    (h : takeItems s r.ctx.toNat x 0 s.mem.pmap [] items = .error (k, st)) (hl : items.length ≤ 250) :
    Refuses (.map r items) s r 0x0205 st k := by
  subst hx
  have count : within 1 250 items.length = true := by
    have := List.length_pos_iff.mpr hi
    simp [within]
    omega
  have ans : ansMap r items s = err s st k := by
    refine (withCtx_open rfl hn ho).trans ?_
    rw [count, h]
    rfl
  exact refuses_err (runsAs_map wf) hr ans

theorem map_refuses_single {st : BitVec 8} (bad : itemBad s r.ctx.toNat x s.mem.pmap [] it = some st) : Refuses (.map r [it]) s r 0x0205 st 0 :=
  map_refuses hn hx ho hr wellFormed_map_single (by simp) (by rw [takeItems_single, bad]) (by simp)

theorem map_takes (hi : i = x.pmBase.toNat + it.index.toNat) (good : itemBad s r.ctx.toNat x s.mem.pmap [] it = none)
    (rest : NoAccess s r.ctx.toNat) (region : regionSize s r.ctx.toNat = 0) (frozen : frozenLayers x = []) :
    ∃ t, exec (.map r [it]) s = .next t ∧ Answers s t r 0x0205 0x00 [] ∧ t.mem.cells = s.mem.cells ∧
      mapGet t.mem.pmap i 0 = (if it.entry.getLsbD 0 then it.entry else 0) ∧ ∀ j, j ≠ i → mapGet t.mem.pmap j 0 = mapGet s.mem.pmap j 0 := by
  subst hx
  obtain ⟨frame, here, others⟩ := mapOne_moves (it := it) rest hi
  obtain ⟨u, hu⟩ : ∃ u, u = mapOne s r.ctx.toNat it := ⟨_, rfl⟩
  rw [← hu] at frame here others
  have ctx : getCtx u r.ctx.toNat = getCtx s r.ctx.toNat := getCtx_congr (frame .ctxs (by decide)) _
  have regions : applyRegions u r.ctx.toNat = u := by
    refine applyRegions_none ?_ (ctx ▸ frozen)
    rw [← region]
    simp only [regionSize, ctxSetting, ctx]
    rfl
  have ans : ansMap r [it] s = ok u [] := by
    refine (withCtx_open rfl hn ho).trans ?_
    rw [takeItems_single, good]
    simp only [List.foldl_cons, List.foldl_nil, ← hu, regions]
    rfl
  obtain ⟨t, run, kept, told⟩ := serves_ok (runsAs_map wellFormed_map_single) hr ans (congrArg Mail.responses (frame .mail (by decide)))
  have cells : u.mem.cells = s.mem.cells := frame .cells (by decide)
  exact ⟨t, run, told, by rw [kept.out.mem, cells], by rw [kept.out.mem, here], fun j hj => by rw [kept.out.mem, others j hj]⟩

end

/-- R216, R217: the items that are taken. -/
theorem itemBad_none {c : Nat} (inside : it.index.toNat < x.pmLen.toNat) (hi : i = x.pmBase.toNat + it.index.toNat)
    (h : it.entry.getLsbD 0 = false ∨ (entField it.entry 3 6 = c ∧ entField it.entry 9 2 = x.part ∧
      ((entField it.entry 1 2 = 0 ∧ entField it.entry 31 33 = 0 ∧ entField it.entry 13 18 < partPages s ∧
          (s.mem.quar.getD x.part []).contains (entField it.entry 13 18) = false ∧
          pageMapped s.mem.pmap x.part (entField it.entry 13 18) = false) ∨
       (entField it.entry 1 2 = 1 ∧ it.entry.getLsbD 11 = false ∧ windowCount (mapErase s.mem.pmap i) < 20992) ∨
       (entField it.entry 1 2 = 2 ∧ it.entry.getLsbD 11 = false ∧ entField it.entry 49 15 = 0 ∧
         (isConf s x.part = false ∨ s.sec.ide.getLsbD x.part = true) ∧ windowCount (mapErase s.mem.pmap i) < 20992)))) :
    itemBad s c x s.mem.pmap [] it = none := by
  unfold itemBad
  dsimp only
  rw [if_neg (by omega), ← hi]
  rcases h with h | ⟨own, part, h⟩
  · rw [if_pos (by rw [h]; rfl)]
  · split
    · rfl
    · rcases h with ⟨ty, high, page, free, new⟩ | ⟨ty, bit, room⟩ | ⟨ty, bit, high, host, room⟩
      · have free' : entField it.entry 13 18 ∉ s.mem.quar.getD x.part [] := by simpa using free
        simp [own, part, ty, high, Nat.not_le.mpr page, new, free']
      · simp only [own, part, ty, bit, ne_eq, not_true_eq_false, if_false, Nat.reduceEqDiff, false_and, or_self,
          Bool.false_eq_true, decide_false, Bool.false_and, Nat.not_le.mpr room]
      · have denied : ¬(decide (entField it.entry 1 2 = 2) && isConf s x.part && !s.sec.ide.getLsbD x.part) = true := by
          rcases host with host | host <;> simp [host]
        rw [if_neg (by simp [own, part, ty]), if_neg (by omega), if_neg (by rw [bit, high]; simp), if_neg denied, if_neg (by omega)]

theorem itemBad_badArg {c : Nat} (h : x.pmLen.toNat ≤ it.index.toNat ∨ (it.entry.getLsbD 0 = true ∧ (entField it.entry 1 2 = 3 ∨
      entField it.entry 3 6 ≠ c ∨ entField it.entry 9 2 ≠ x.part ∨
      (entField it.entry 1 2 = 0 ∧ (entField it.entry 31 33 ≠ 0 ∨ partPages s ≤ entField it.entry 13 18)) ∨
      (entField it.entry 1 2 ≠ 0 ∧ it.entry.getLsbD 11 = true) ∨ (entField it.entry 1 2 = 2 ∧ entField it.entry 49 15 ≠ 0)))) :
    itemBad s c x s.mem.pmap [] it = some stBadArg := by
  unfold itemBad
  dsimp only
  by_cases inside : x.pmLen.toNat ≤ it.index.toNat
  · rw [if_pos inside]
  · obtain ⟨valid, h⟩ := h.resolve_left inside
    rw [if_neg inside, if_neg (by simp [valid])]
    by_cases own : entField it.entry 3 6 ≠ c ∨ entField it.entry 9 2 ≠ x.part ∨ entField it.entry 1 2 = 3
    · rw [if_pos own]
    · rw [if_neg own]
      push Not at own
      obtain ⟨ctx, part, type⟩ := own
      rcases h with h | h | h | ⟨ty, h⟩ | ⟨ty, h⟩ | ⟨ty, h⟩
      · exact absurd h type
      · exact absurd ctx h
      · exact absurd part h
      · rw [if_pos ty, if_pos h]
      · rw [if_neg ty, if_pos (.inl h)]
      · rw [if_neg (by omega), if_pos (.inr ⟨ty, h⟩)]

section
variable {c : Nat} (inside : it.index.toNat < x.pmLen.toNat) (valid : it.entry.getLsbD 0 = true) (own : entField it.entry 3 6 = c)
  (part : entField it.entry 9 2 = x.part)
include inside valid own part

theorem itemBad_typed (ty : entField it.entry 1 2 ≠ 3) : itemBad s c x s.mem.pmap [] it =
    if entField it.entry 1 2 = 0 then
      if entField it.entry 31 33 ≠ 0 ∨ partPages s ≤ entField it.entry 13 18 then some stBadArg
      else if pageMapped s.mem.pmap x.part (entField it.entry 13 18) ||
        (s.mem.quar.getD x.part [] ++ []).contains (entField it.entry 13 18) then some stDenied else none
    else if it.entry.getLsbD 11 ∨ (entField it.entry 1 2 = 2 ∧ entField it.entry 49 15 ≠ 0) then some stBadArg
    else if entField it.entry 1 2 = 2 && isConf s x.part && !s.sec.ide.getLsbD x.part then some stDenied
    else if 20992 ≤ windowCount (mapErase s.mem.pmap (x.pmBase.toNat + it.index.toNat)) then some stNoResource else none :=
  (if_neg (by omega)).trans ((if_neg (by rw [valid]; decide)).trans (if_neg (by rintro (h | h | h); exacts [h own, h part, ty h])))

theorem itemBad_pageTaken (ty : entField it.entry 1 2 = 0) (high : entField it.entry 31 33 = 0)
    (page : entField it.entry 13 18 < partPages s) (taken : (s.mem.quar.getD x.part []).contains (entField it.entry 13 18) = true ∨
      pageMapped s.mem.pmap x.part (entField it.entry 13 18) = true) : itemBad s c x s.mem.pmap [] it = some stDenied := by
  rw [itemBad_typed inside valid own part (by omega), if_pos ty, if_neg (by omega), if_pos]
  rw [List.append_nil, Bool.or_eq_true]
  exact taken.symm

theorem itemBad_hostDenied (ty : entField it.entry 1 2 = 2) (bit : it.entry.getLsbD 11 = false) (high : entField it.entry 49 15 = 0)
    (conf : isConf s x.part = true) (ide : s.sec.ide.getLsbD x.part = false) : itemBad s c x s.mem.pmap [] it = some stDenied := by
  rw [itemBad_typed inside valid own part (by omega), if_neg (by omega), if_neg (by rw [bit, high]; simp), if_pos (by simp [ty, conf, ide])]

theorem itemBad_noWindow (hi : i = x.pmBase.toNat + it.index.toNat) (ty : entField it.entry 1 2 = 1) (bit : it.entry.getLsbD 11 = false)
    (full : 20992 ≤ windowCount (mapErase s.mem.pmap i)) : itemBad s c x s.mem.pmap [] it = some stNoResource := by
  rw [itemBad_typed inside valid own part (by omega), if_neg (by omega), if_neg (by rw [bit, ty]; simp), if_neg (by simp [ty]), ← hi, if_pos full]

end

end

/-! ### UNMAP (R218) -/

section
variable {s : State} {r : Req} {first count : BitVec 32} {x : Context}
variable (hn : r.ctx.toNat < 64) (hx : x = getCtx s r.ctx.toNat) (ho : x.st ≠ .closed) (hr : Ready 0x0206 setLive r s)
include hn hx ho hr

theorem unmap_clears (inside : first.toNat + count.toNat ≤ x.pmLen.toNat) (rest : NoAccess s r.ctx.toNat) :
    ∃ t, exec (.unmap r first count) s = .next t ∧ Answers s t r 0x0206 0x00 [] ∧ t.mem.cells = s.mem.cells ∧
      ∀ i, mapGet t.mem.pmap i 0 = (if x.pmBase.toNat + first.toNat ≤ i ∧ i < x.pmBase.toNat + first.toNat + count.toNat then 0
        else mapGet s.mem.pmap i 0) := by
  subst hx
  obtain ⟨frame, map⟩ := unmapEntries_moves s r.ctx.toNat ((getCtx s r.ctx.toNat).pmBase.toNat + first.toNat) count.toNat
  obtain ⟨u, hu⟩ : ∃ u, u = unmapEntries s r.ctx.toNat ((getCtx s r.ctx.toNat).pmBase.toNat + first.toNat) count.toNat := ⟨_, rfl⟩
  rw [← hu] at frame map
  have ans : ansUnmap r first count s = ok u [] := by
    refine (withOpen_open rfl hn ho).trans ((if_neg (by omega)).trans ?_)
    rw [changeEntries_rest rest, ← hu]
  obtain ⟨t, run, kept, told⟩ := serves_ok (show RunsAs (.unmap r first count) r 0x0206 setLive (ansUnmap r first count) s from rfl) hr ans (congrArg Mail.responses (frame .mail (by decide)))
  have cells : u.mem.cells = s.mem.cells := frame .cells (by decide)
  refine ⟨t, run, told, by rw [kept.out.mem, cells], fun i => ?_⟩
  rw [kept.out.mem, map, mapGet_filter _ fun a => !(decide (_ ≤ a) && decide (a < _))]
  by_cases h : (getCtx s r.ctx.toNat).pmBase.toNat + first.toNat ≤ i ∧
      i < (getCtx s r.ctx.toNat).pmBase.toNat + first.toNat + count.toNat
  · rw [if_pos h, if_neg (by simp [h])]
  · rw [if_neg h, if_pos (by simp; omega)]

theorem unmap_refused (outside : x.pmLen.toNat < first.toNat + count.toNat) : Serves (.unmap r first count) s s r 0x0206 0x03 [] := by
  subst hx
  have ans : ansUnmap r first count s = err s stBadArg 0 := (withOpen_open rfl hn ho).trans (if_pos outside)
  exact serves_err (show RunsAs (.unmap r first count) r 0x0206 setLive (ansUnmap r first count) s from rfl) hr ans

end

/-- Settles O20: setting records, then MAP and UNMAP. -/
theorem settingsAndMapsAreWritten : Obligations.SettingsAndMapsAreWritten := by
  refine ⟨fun r v s x hn hx ho => ⟨fun hr => ⟨ctxConfig_seed hn hx ho hr, ctxConfig_refused hn hx ho hr⟩, fun hr mem =>
      jobConfig_single hn hx ho hr (List.contains_iff_mem.mp mem)⟩, valueOk_bounds,
    fun r recs s hr hw => ⟨fun hn good => memPolicy_sets hw hr hn good, fun i bad => refuses_err (runsAs_memPolicy hw) hr (ansMemPolicy_bad hw bad)⟩,
    ?_, fun r first count s x hr hn hx ho => ⟨unmap_clears hn hx ho hr, unmap_refused hn hx ho hr⟩⟩
  intro r it s x i hr hn hx ho hi
  refine ⟨fun inside good => map_takes hn hx ho hr hi (itemBad_none inside hi good), fun bad =>
    map_refuses_single hn hx ho hr (itemBad_badArg bad), fun inside valid own part => ⟨fun ty high page taken => ?_,
      fun ty bit high conf ide => ?_, fun ty bit full => ?_⟩, fun items k st wf hne bad hl => map_refuses hn hx ho hr wf hne bad hl⟩
  · exact map_refuses_single hn hx ho hr (itemBad_pageTaken inside valid own part ty high page taken)
  · exact map_refuses_single hn hx ho hr (itemBad_hostDenied inside valid own part ty bit high conf ide)
  · exact map_refuses_single hn hx ho hr (itemBad_noWindow inside valid own part hi ty bit full)

end Sys2Proof.Machine
end

section
-- One proof after the other: a text of this length has more proofs waiting at once than the check has threads for.
set_option Elab.async false
/-! PROOFS. The links move the fabric, and what time it follows, alone (R253 to R258, R279 to R282). -/
namespace Sys2Proof.Machine

/-! ### What the links move -/

/-- The parts that the links move. -/
def linkParts : List Part := [.fab, .ports, .engines, .diag, .time, .outbox, .mail]

/-- Only the links, the records of them and the time parent move. -/
structure LinkMoves (s t : State) : Prop where
  frame : AllBut linkParts s t
  now   : t.time.now = s.time.now

section
variable {s t u : State}

theorem LinkMoves.refl (s : State) : LinkMoves s s := ⟨.refl _ s, rfl⟩
theorem LinkMoves.trans (h : LinkMoves s t) (k : LinkMoves t u) : LinkMoves s u := ⟨h.frame.trans k.frame, k.now.trans h.now⟩

theorem LinkMoves.of_frame {l : List Part} (h : AllBut l s t) (hl : ∀ p ∈ l, p ∈ linkParts := by decide) (ht : Part.time ∉ l := by decide) :
    LinkMoves s t := ⟨h.mono hl, congrArg TimeBlock.now (h .time ht)⟩

theorem LinkMoves.foldl {α : Type} {f : State → α → State} (h : ∀ s a, LinkMoves s (f s a)) (l : List α) (s : State) :
    LinkMoves s (l.foldl f s) := foldl_moves LinkMoves.refl (fun h k => LinkMoves.trans h k) h l s

theorem LinkMoves.apart (h : LinkMoves s t) : Apart s t :=
  ⟨h.frame .opt (by decide), h.frame .mem (by decide), h.frame .ctxs (by decide), h.frame .slots (by decide), h.frame .lcores (by decide),
   h.frame .sec (by decide), h.frame .pwr (by decide), h.now, h.frame .latches (by decide), h.frame .pending (by decide)⟩

theorem Apart.then_settled (h : Apart s t) (k : Settled t u) : Apart s u :=
  ⟨k.out.opt.trans h.opt, k.out.mem.trans h.mem, k.out.ctxs.trans h.ctxs, k.out.slots.trans h.slots, k.out.lcores.trans h.lcores,
   k.out.sec.trans h.sec, k.out.pwr.trans h.pwr, (congrArg TimeBlock.now k.out.time).trans h.now, k.out.latches.trans h.latches,
   k.out.pending.trans h.pending⟩

theorem linkMoves_dropParent (s : State) (p : Nat) : LinkMoves s (dropParent s p) :=
  ⟨(frame_dropParent s p).mono, by unfold dropParent; split <;> rfl⟩

end

/-! ### What sending leaves of a port -/

/-- Two ports that differ in what has been sent and received alone. -/
structure PortKept (a b : PortBlock) : Prop where
  st         : b.st = a.st
  lanes      : b.lanes = a.lanes
  perLink    : b.perLink = a.perLink
  excluded   : b.excluded = a.excluded
  peer       : b.peer = a.peer
  asym       : b.asym = a.asym
  dueLanes   : b.dueLanes = a.dueLanes
  failedOnce : b.failedOnce = a.failedOnce
  waiting    : b.waiting = a.waiting
  trains     : b.trains = a.trains
  relockAt   : b.relockAt = a.relockAt
  retrain    : b.retrain = a.retrain
  muted      : b.muted = a.muted

theorem PortKept.refl (a : PortBlock) : PortKept a a := by constructor <;> rfl

theorem PortKept.trans {a b c : PortBlock} (h : PortKept a b) (k : PortKept b c) : PortKept a c :=
  ⟨k.st.trans h.st, k.lanes.trans h.lanes, k.perLink.trans h.perLink, k.excluded.trans h.excluded, k.peer.trans h.peer,
   k.asym.trans h.asym, k.dueLanes.trans h.dueLanes, k.failedOnce.trans h.failedOnce, k.waiting.trans h.waiting,
   k.trains.trans h.trains, k.relockAt.trans h.relockAt, k.retrain.trans h.retrain, k.muted.trans h.muted⟩

theorem portKept_portSends (b : PortBlock) (k : Packet) : PortKept b (portSends b k) := by constructor <;> rfl

/-- Every port keeps its state. -/
def PortsKept (s t : State) : Prop := ∀ q, PortKept (getPort s q) (getPort t q)

section
variable {s t u : State}

theorem PortsKept.refl (s : State) : PortsKept s s := fun _ => .refl _
theorem PortsKept.trans (h : PortsKept s t) (k : PortsKept t u) : PortsKept s u := fun q => (h q).trans (k q)
theorem PortsKept.of_ports (h : t.fab.ports = s.fab.ports) : PortsKept s t := fun q => by
  rw [getPort_congr h]
  exact .refl _

theorem PortsKept.foldl {α : Type} {f : State → α → State} (h : ∀ s a, PortsKept s (f s a)) (l : List α) (s : State) :
    PortsKept s (l.foldl f s) := foldl_moves PortsKept.refl (fun h k => PortsKept.trans h k) h l s

theorem PortsKept.of_modPort (s : State) (p : Nat) {f : PortBlock → PortBlock} (h : ∀ b, PortKept b (f b)) : PortsKept s (modPort s p f) :=
  fun q => by
    by_cases hq : q = p
    · subst hq
      by_cases hp : q < 36
      · rw [getPort_modPort_same s hp]
        exact h _
      · rw [modPort_outOfBounds s (by omega)]
        exact .refl _
    · rw [getPort_modPort_other s hq]
      exact .refl _

theorem portsKept_sendOn (s : State) (p : Nat) (k : Packet) : PortsKept s (sendOn s p k) := by
  unfold sendOn
  dsimp only
  split
  · have sends : PortsKept s (setPort s p (portSends (getPort s p) { fillNblk k with vc := vcOf k.ptype k.dclass })) :=
      .of_modPort s p fun b => portKept_portSends b { fillNblk k with vc := vcOf k.ptype k.dclass }
    split
    · exact sends
    · exact sends.trans (.of_ports rfl)
  · exact .of_ports rfl

theorem portsKept_resendBuf (s : State) (p : Nat) : PortsKept s (resendBuf s p) := by
  unfold resendBuf
  refine .trans (.of_modPort s p fun b => by constructor <;> rfl) (.foldl (fun s q => ?_) _ _)
  dsimp only
  split
  · exact portsKept_sendOn s _ _
  · exact .refl s

theorem linkMoves_resendBuf (s : State) (p : Nat) : LinkMoves s (resendBuf s p) := .of_frame (frame_resendBuf s p)

/-! ### A Knell or a LINKUP of this module's own (R279 to R282) -/

theorem linkMoves_sendOn (s : State) (p : Nat) (k : Packet) : LinkMoves s (sendOn s p k) := .of_frame (frame_sendOn s p k)
theorem linkMoves_modFab (s : State) (f : Fabric → Fabric) : LinkMoves s (modFab s f) := .of_frame (frame_modFab s f)
theorem linkMoves_modDiag (s : State) (f : Diag → Diag) : LinkMoves s (modDiag s f) := .of_frame (frame_modDiag s f)
theorem linkMoves_modPort (s : State) (p : Nat) (f : PortBlock → PortBlock) : LinkMoves s (modPort s p f) := .of_frame (frame_modPort s p f)
theorem linkMoves_postNotice (s : State) (code : BitVec 16) (b : Bytes) : LinkMoves s (postNotice s code none b) :=
  .of_frame (frame_postNotice s code none b)
theorem portsKept_postNotice (s : State) (code : BitVec 16) (b : Bytes) : PortsKept s (postNotice s code none b) :=
  .of_ports (frame_postNotice s code none b .ports (by decide))

theorem markLost_moves (s : State) (e : KnellEntry) : LinkMoves s (markLost s e) ∧ PortsKept s (markLost s e) := by
  unfold markLost
  extract_lets near u
  have first : LinkMoves s u ∧ PortsKept s u := ⟨linkMoves_modFab s _, .of_ports rfl⟩
  split
  · exact ⟨first.1.trans (linkMoves_modFab u _), first.2.trans (.of_ports rfl)⟩
  · exact first

theorem takeKnell_moves (s : State) (e : KnellEntry) : LinkMoves s (takeKnell s e) ∧ PortsKept s (takeKnell s e) := by
  unfold takeKnell
  extract_lets u v
  have logged : LinkMoves s u ∧ PortsKept s u := ⟨linkMoves_modDiag s _, .of_ports rfl⟩
  split
  · have counted : LinkMoves u v ∧ PortsKept u v := ⟨linkMoves_modFab u _, .of_ports rfl⟩
    have marked := markLost_moves v e
    exact ⟨((logged.1.trans counted.1).trans marked.1).trans (linkMoves_postNotice _ _ _),
      ((logged.2.trans counted.2).trans marked.2).trans (portsKept_postNotice _ _ _)⟩
  · exact ⟨logged.1.trans (linkMoves_postNotice _ _ _), logged.2.trans (portsKept_postNotice _ _ _)⟩

theorem belfryEvent_moves (s : State) (e : KnellEntry) : LinkMoves s (belfryEvent s e) ∧ PortsKept s (belfryEvent s e) := by
  unfold belfryEvent
  split
  · exact takeKnell_moves s e
  · exact ⟨linkMoves_modDiag s _, .of_ports rfl⟩

theorem floodOut_moves (s : State) (k : Packet) (x : Option Nat) : LinkMoves s (floodOut s k x) ∧ PortsKept s (floodOut s k x) := by
  refine ⟨.foldl (fun s g => ?_) _ s, .foldl (fun s g => ?_) _ s⟩
  · split
    · exact .refl s
    · split
      · exact linkMoves_sendOn s _ k
      · exact .refl s
  · split
    · exact .refl s
    · split
      · exact portsKept_sendOn s _ k
      · exact .refl s

theorem hearFlood_moves (s : State) (k : Packet) (x : Option Nat) (port : BitVec 8) :
    LinkMoves s (hearFlood s k x port) ∧ PortsKept s (hearFlood s k x port) := by
  unfold hearFlood
  extract_lets key u
  split
  · exact ⟨.refl s, .refl s⟩
  · have remembered : LinkMoves s u ∧ PortsKept s u := ⟨linkMoves_modFab s _, .of_ports rfl⟩
    have out := floodOut_moves u k x
    have told := belfryEvent_moves (floodOut u k x) (knellOf u k port)
    exact ⟨(remembered.1.trans out.1).trans told.1, (remembered.2.trans out.2).trans told.2⟩

theorem floodOwn_moves (s : State) (ty : BitVec 4) (g reason : Nat) :
    LinkMoves s (floodOwn s ty g reason) ∧ PortsKept s (floodOwn s ty g reason) := by
  unfold floodOwn
  extract_lets u lost a
  have counted : LinkMoves s u ∧ PortsKept s u := ⟨linkMoves_modFab s _, .of_ports rfl⟩
  have heard := hearFlood_moves u { barePacket u ty 0 with flood := true, addr := BitVec.ofNat 48 a } none 0xFF
  exact ⟨counted.1.trans heard.1, counted.2.trans heard.2⟩

/-- R282: a group that is usable again; when it was not lost, no port moves at all. -/
theorem groupBack_moves (s : State) (g : Nat) : LinkMoves s (groupBack s g) ∧ PortsKept s (groupBack s g) ∧
    (s.fab.lostGroups.getLsbD g = false → (groupBack s g).fab.ports = s.fab.ports) := by
  unfold groupBack
  extract_lets lost bit u
  have marked : LinkMoves s u ∧ PortsKept s u := ⟨linkMoves_modFab s _, .of_ports rfl⟩
  split
  · rename_i h
    have told := floodOwn_moves u 9 g 2
    exact ⟨marked.1.trans told.1, marked.2.trans told.2, fun no => absurd (h.symm.trans no) (by decide)⟩
  · exact ⟨marked.1, marked.2, fun _ => rfl⟩

/-! ### A port that changes its state -/

theorem setPortState_port (s : State) {p : Nat} (hp : p < 36) (st : PortState) :
    getPort (setPortState s p st) p = { getPort s p with st := st } :=
  (getPort_congr (congrArg (·.ports) (setPortState_fab s p st)) p).trans (getPort_modPort_same s hp _)

theorem setPortState_others (s : State) {p q : Nat} (hq : q ≠ p) (st : PortState) : getPort (setPortState s p st) q = getPort s q :=
  (getPort_congr (congrArg (·.ports) (setPortState_fab s p st)) q).trans (getPort_modPort_other s hq _)

theorem linkMoves_setPortState (s : State) (p : Nat) (st : PortState) : LinkMoves s (setPortState s p st) :=
  .of_frame (frame_setPortState s p st)

/-! ### A port that goes to train, whatever stands in its retry buffer -/

theorem portToTraining_leaves (s : State) (p : Nat) : LinkMoves s (portToTraining s p) ∧
    ∀ q, q ≠ p → PortKept (getPort s q) (getPort (portToTraining s p) q) := by
  unfold portToTraining
  extract_lets up s1 s2
  have counted : AllBut [.diag] s s1 := .ite (fun _ => frame_tally s _ _) fun _ => .refl _ s
  have same (q : Nat) : getPort s1 q = getPort s q := getPort_congr (counted .ports (by decide)) q
  clear_value s1
  have set_ := linkMoves_setPortState s1 p .training
  have others (q : Nat) (hq : q ≠ p) : getPort (setPortState s1 p .training) q = getPort s q :=
    (setPortState_others s1 hq _).trans (same q)
  have sent := portsKept_resendBuf (setPortState s1 p .training) p
  have moved := linkMoves_resendBuf (setPortState s1 p .training) p
  have left : LinkMoves (resendBuf (setPortState s1 p .training) p) s2 := linkMoves_dropParent _ p
  have ports : s2.fab.ports = (resendBuf (setPortState s1 p .training) p).fab.ports := frame_dropParent _ p .ports (by decide)
  clear_value s2
  refine ⟨?_, fun q hq => ?_⟩
  · exact ((((LinkMoves.of_frame counted).trans set_).trans moved).trans left).trans (linkMoves_modPort s2 p _)
  · rw [getPort_modPort_other s2 hq, getPort_congr ports, ← others q hq]
    exact sent q

/-- R257: of the ports of a group only one that waits trains. -/
theorem trainWaiting_leaves (s : State) (g : Nat) : LinkMoves s (trainWaiting s g) ∧
    ∀ q, (getPort s q).waiting = false ∨ portUp (getPort s q) = false → PortKept (getPort s q) (getPort (trainWaiting s g) q) := by
  unfold trainWaiting
  split
  · exact ⟨.refl s, fun _ _ => .refl _⟩
  · split
    · rename_i q found
      have waits := List.find?_some found
      have trains := portToTraining_leaves s q
      refine ⟨trains.1, fun k hk => trains.2 k ?_⟩
      rintro rfl
      rcases hk with hk | hk <;> simp [hk] at waits
    · exact ⟨.refl s, fun _ _ => .refl _⟩

/-! ### Lanes (R257) -/

theorem excludeLanes_moves (s : State) (p : Nat) (l : BitVec 4) : AllBut [.fab, .ports, .diag] s (excludeLanes s p l) ∧
    (excludeLanes s p l).fab = (modPort s p fun b => { b with excluded := b.excluded ||| l }).fab := by
  unfold excludeLanes
  extract_lets old u fresh v
  have set_ : AllBut [.fab, .ports] s u := frame_modPort s p _
  have fab : u.fab = (modPort s p fun b => { b with excluded := b.excluded ||| l }).fab := rfl
  have logged : AllBut [.diag] u v := .foldl (fun s _ => frame_recordEvent s _ _ _ _ _ _ _) _ u
  have fab' : v.fab = (modPort s p fun b => { b with excluded := b.excluded ||| l }).fab := Eq.trans (logged .fab (by decide)) fab
  split
  · exact ⟨set_.mono.trans logged.mono, fab'⟩
  · exact ⟨(set_.mono.trans logged.mono).trans (frame_modDiag v _).mono, fab'⟩

theorem excludeLanes_port (s : State) {p : Nat} (hp : p < 36) (l : BitVec 4) :
    getPort (excludeLanes s p l) p = { getPort s p with excluded := (getPort s p).excluded ||| l } :=
  (getPort_congr (congrArg (·.ports) (excludeLanes_moves s p l).2) p).trans (getPort_modPort_same s hp _)

theorem excludeLanes_others (s : State) {p q : Nat} (hq : q ≠ p) (l : BitVec 4) : getPort (excludeLanes s p l) q = getPort s q :=
  (getPort_congr (congrArg (·.ports) (excludeLanes_moves s p l).2) q).trans (getPort_modPort_other s hq _)

theorem laneMode_all : laneMode 0 = (.upX4, 0xF) := rfl
theorem laneMode_low {x : BitVec 4} (h : x ≠ 0) (h3 : x &&& 0x3 = 0) : laneMode x = (.upX2, 0x3) :=
  (if_neg h).trans (if_pos h3)
theorem laneMode_high {x : BitVec 4} (h3 : x &&& 0x3 ≠ 0) (hC : x &&& 0xC = 0) : laneMode x = (.upX2, 0xC) := by
  have h : x ≠ 0 := by
    rintro rfl
    exact h3 rfl
  exact (if_neg h).trans ((if_neg h3).trans (if_pos hC))
theorem laneMode_none {x : BitVec 4} (h3 : x &&& 0x3 ≠ 0) (hC : x &&& 0xC ≠ 0) : laneMode x = (.retired, 0) := by
  have h : x ≠ 0 := by
    rintro rfl
    exact h3 rfl
  exact (if_neg h).trans ((if_neg h3).trans (if_neg hC))

end

end Sys2Proof.Machine
end

section
-- One proof after the other: a text of this length has more proofs waiting at once than the check has threads for.
set_option Elab.async false
/-! PROOFS. The bring-up of a port and how it falls out of service (R256 to R258, R275, R354, R474). -/
namespace Sys2Proof.Machine

section
variable {s : State} {p : Port}

theorem port_lt (p : Port) : p.val < 36 := p.isLt

theorem rollDone_none (h : s.hub.actReq = none) : rollDone s = s := by rw [rollDone, h]

theorem mem_groupPorts {g q : Nat} : q ∈ groupPorts s g ↔ q / 4 = g ∧ q < portCount s := by
  simp only [groupPorts, List.mem_filter, List.mem_map, List.mem_range, decide_eq_true_eq]
  constructor
  · rintro ⟨⟨a, ha, rfl⟩, h⟩
    exact ⟨by omega, h⟩
  · rintro ⟨rfl, h⟩
    exact ⟨⟨q % 4, Nat.mod_lt _ (by decide), by omega⟩, h⟩

theorem next_of_atRest {i : Instr} (rest : AtRest s) (h : exec i s = done s) : exec i s = .next s := by
  rw [h, done_next, settle_atRest rest]

theorem getPort_settle (u : State) (q : Nat) : getPort (settle u) q = getPort u q := getPort_congr (congrArg (·.ports) (settle_fab u)) q

/-- A port with an empty retry buffer goes to train: nothing but it moves. -/
theorem trains_apart (hb : (getPort s p.val).buf = []) : Apart s (settle (portToTraining s p.val)) ∧
    getPort (settle (portToTraining s p.val)) p.val = inTraining s (getPort s p.val) ∧
    ∀ q, q ≠ p.val → getPort (settle (portToTraining s p.val)) q = getPort s q :=
  ⟨((portToTraining_leaves s p.val).1.apart).then_settle, (getPort_settle _ _).trans (portToTraining_port p.isLt hb),
   fun q hq => (getPort_settle _ q).trans (portToTraining_others hb hq)⟩

/-! ### A probe (R256) -/

theorem exec_portProbe (partner : Bool) : exec (.portProbe p partner) s = done (if (getPort s p.val).st = .down ∧ portPowered s p.val ∧
    cableIn s p.val ∧ partner then portToTraining s p.val else s) := rfl

theorem portPowered_iff : portPowered s p.val = true ↔ p.val < portCount s ∧ s.hub.dev ≠ .cold ∧ s.hub.diesDown.getLsbD (p.val % 4) = false := by
  simp [portPowered, and_assoc]

theorem portProbe_trains (hp : p.val < portCount s) (hb : (getPort s p.val).buf = []) (hd : (getPort s p.val).st = .down)
    (cold : s.hub.dev ≠ .cold) (die : s.hub.diesDown.getLsbD (p.val % 4) = false) (cable : cableIn s p.val = true) :
    ∃ t, exec (.portProbe p true) s = .next t ∧ (getPort t p.val).st = .training ∧
      (getPort t p.val).retrain = (getPort s p.val).retrain ∧ Apart s t ∧ ∀ q, q ≠ p.val → getPort t q = getPort s q := by
  obtain ⟨apart, own, others⟩ := trains_apart (s := s) (p := p) hb
  refine ⟨_, (exec_portProbe true).trans (congrArg done (if_pos ⟨hd, portPowered_iff.mpr ⟨hp, cold, die⟩, cable, rfl⟩)), ?_, ?_, apart, others⟩
  · rw [own]
    rfl
  · rw [own]
    exact if_neg (by simp [portUp, hd])

theorem portProbe_rests {partner : Bool} (h : (getPort s p.val).st ≠ .down ∨ cableIn s p.val = false ∨ partner = false ∨ s.hub.dev = .cold ∨
    s.hub.diesDown.getLsbD (p.val % 4) = true) (rest : AtRest s) : exec (.portProbe p partner) s = .next s := by
  refine next_of_atRest rest ((exec_portProbe partner).trans (congrArg done (if_neg ?_)))
  rintro ⟨down, powered, cable, signal⟩
  obtain ⟨-, cold, die⟩ := portPowered_iff.mp powered
  rcases h with h | h | h | h | h
  · exact h down
  · exact absurd (cable.symm.trans h) (by decide)
  · exact absurd (signal.symm.trans h) (by decide)
  · exact cold h
  · exact absurd (h.symm.trans die) (by decide)

/-! ### PORT_RETRAIN (R354) -/

section
variable {r : Req} {port full : BitVec 8}

theorem ansPortRetrain_bad (h : portCount s ≤ port.toNat ∨ 1 < full.toNat) : ansPortRetrain port full s = err s stBadArg 0 := by
  refine if_pos ?_
  simpa using h

section
variable (hp : port.toNat < portCount s) (hf : full.toNat ≤ 1)
include hp hf

theorem ansPortRetrain_inRange : ansPortRetrain port full s =
    match (groupPorts s (port.toNat / 4)).find? (fun q => q != port.toNat && ((getPort s q).st == .training || (getPort s q).st == .relock)) with
    | some q => conflict s 4 (portCode (getPort s q).st) 0x2D
    | none => ok (portToTraining (if full = 1 then modPort s port.toNat fun b =>
        { b with excluded := 0, failedOnce := 0, dueLanes := 0, trains := [] } else s) port.toNat) [] := by
  refine if_neg ?_
  simp [hp, hf]

/-- R258: one port of a group trains at a time. -/
theorem ansPortRetrain_conflict (h : ∃ q, q < portCount s ∧ q ≠ port.toNat ∧ q / 4 = port.toNat / 4 ∧
    ((getPort s q).st = .training ∨ (getPort s q).st = .relock)) : ∃ d, ansPortRetrain port full s = conflict s 4 d 0x2D := by
  rw [ansPortRetrain_inRange hp hf]
  cases found : (groupPorts s (port.toNat / 4)).find? (fun q => q != port.toNat && ((getPort s q).st == .training || (getPort s q).st == .relock)) with
  | some q => exact ⟨_, rfl⟩
  | none =>
    obtain ⟨q, hq, other, group, busy⟩ := h
    have free := List.find?_eq_none.mp found q (mem_groupPorts.mpr ⟨group, hq⟩)
    rcases busy with busy | busy <;> simp [other, busy] at free

theorem ansPortRetrain_trains (h : ∀ q, q ≠ port.toNat → q / 4 = port.toNat / 4 → (getPort s q).st ≠ .training ∧ (getPort s q).st ≠ .relock) :
    ansPortRetrain port full s = ok (portToTraining (if full = 1 then modPort s port.toNat fun b =>
      { b with excluded := 0, failedOnce := 0, dueLanes := 0, trains := [] } else s) port.toNat) [] := by
  have found : (groupPorts s (port.toNat / 4)).find? (fun q => q != port.toNat && ((getPort s q).st == .training || (getPort s q).st == .relock)) = none := by
    refine List.find?_eq_none.mpr fun q hq => ?_
    by_cases own : q = port.toNat
    · simp [own]
    · obtain ⟨h1, h2⟩ := h q own (mem_groupPorts.mp hq).1
      simp [h1, h2]
  rw [ansPortRetrain_inRange hp hf, found]

end

theorem portRetrain_trains (hr : Ready 0x0104 setLive r s) (hp : p.val < portCount s) (hb : (getPort s p.val).buf = [])
    (hport : port.toNat = p.val) (hf : full.toNat ≤ 1)
    (h : ∀ q, q ≠ p.val → q / 4 = p.val / 4 → (getPort s q).st ≠ .training ∧ (getPort s q).st ≠ .relock) :
    ∃ t, exec (.portRetrain r port full) s = .next t ∧ Answers s t r 0x0104 0x00 [] ∧ (getPort t p.val).st = .training ∧
      (portUp (getPort s p.val) = true → (getPort t p.val).retrain = (getPort s p.val).retrain + 1) ∧
      (getPort t p.val).excluded = (if full = 1 then 0 else (getPort s p.val).excluded) ∧ Apart s t ∧
      ∀ q, q ≠ p.val → getPort t q = getPort s q := by
  obtain ⟨u, hu⟩ : ∃ u, u = (if full = 1 then modPort s p.val fun b => { b with excluded := 0, failedOnce := 0, dueLanes := 0, trains := [] }
    else s) := ⟨_, rfl⟩
  have ans : ansPortRetrain port full s = ok (portToTraining u p.val) [] := by
    rw [hu, ← hport]
    exact ansPortRetrain_trains (hport ▸ hp) hf (hport ▸ h)
  -- the port without its exclusions, where FULL asks for it
  have cleared : AllBut [.fab, .ports] s u ∧ (getPort u p.val).buf = [] ∧ portUp (getPort u p.val) = portUp (getPort s p.val) ∧
      (getPort u p.val).retrain = (getPort s p.val).retrain ∧
      (getPort u p.val).excluded = (if full = 1 then 0 else (getPort s p.val).excluded) ∧ ∀ q, q ≠ p.val → getPort u q = getPort s q := by
    rw [hu]
    split
    · rw [getPort_modPort_same s p.isLt]
      exact ⟨frame_modPort s _ _, hb, rfl, rfl, rfl, fun q hq => getPort_modPort_other s hq _⟩
    · exact ⟨.refl _ s, hb, rfl, rfl, rfl, fun _ _ => rfl⟩
  obtain ⟨frame, buf, up, count, excluded, others⟩ := cleared
  clear hu
  have moves := portToTraining_moves (p := p.val) buf
  obtain ⟨t, run, kept, told⟩ := serves_ok (show RunsAs (.portRetrain r port full) r 0x0104 setLive (ansPortRetrain port full) s from rfl) hr ans
    (congrArg Mail.responses (Eq.trans (moves.1 .mail (by decide)) (frame .mail (by decide))))
  have ports (q : Nat) : getPort t q = getPort (portToTraining u p.val) q := getPort_congr (congrArg (·.ports) kept.out.fab) q
  have own : getPort t p.val = inTraining u (getPort u p.val) := (ports _).trans (portToTraining_port p.isLt buf)
  refine ⟨t, run, told, by rw [own]; rfl, fun hup => ?_, by rw [own, ← excluded]; rfl,
    ((LinkMoves.of_frame frame).trans (portToTraining_leaves u p.val).1).apart.then_settled kept,
    fun q hq => (ports q).trans ((portToTraining_others buf hq).trans (others q hq))⟩
  rw [own, ← count]
  exact if_pos (up.trans hup)

end

/-! ### The end of a training (R256, R257, R275) -/

theorem exec_trainingComplete (lanes : BitVec 4) (asym : BitVec 32) (peer : BitVec 17) (pp : BitVec 6) (secOk : Bool) :
    exec (.trainingComplete p lanes asym peer pp secOk) s =
      done (if (getPort s p.val).st = .training then trained s p.val lanes asym peer pp secOk else s) := rfl

/-- A port that has trained, in its mode, with nothing sent yet. -/
def portTrained (perLink : Bool) (m : PortState × BitVec 4) (asym : BitVec 32) (peer : BitVec 17) (pp : BitVec 6) (b : PortBlock) : PortBlock :=
  { b with
    lanes := m.2, perLink := perLink, secRefused := false, keyslot := false, peer := some (peer, pp), fseq := 0
    rxNext := 0, rxSlot := false, fill := 0, credits := Vector.replicate 6 64, owed := Vector.replicate 6 0, asym := asym
    relockAt := none, checkFails := [], failedOnce := b.failedOnce ||| b.dueLanes, dueLanes := 0 }

/-- A port after its training, before its keys. -/
def portModed (s : State) (p : Nat) (x : BitVec 4) (asym : BitVec 32) (peer : BitVec 17) (pp : BitVec 6) : State :=
  let u := excludeLanes s p x
  let m := laneMode (getPort u p).excluded
  modPort (setPortState u p m.1) p (portTrained u.fab.perLink m asym peer pp)

/-- R257: a port that trained at most four times in the hour excludes no lane more. -/
theorem worstLane_calm {q : Nat} (h : (getPort s q).trains.length ≤ 4) : worstLane s q = s := by
  refine if_neg fun many => ?_
  have short := List.length_filter_le (fun t => decide (s.ticks < t + 3600 * ticksPerSec)) (getPort s q).trains
  omega

/-- A group whose port is up has its partner, and is usable again. -/
def groupJoined (s : State) (p : Nat) (peer : BitVec 17) : State :=
  if portUp (getPort s p) then groupBack (modFab s fun f => { f with groupPeer := f.groupPeer.setIfInBounds (p / 4) peer }) (p / 4) else s

theorem groupJoined_moves (s : State) (p : Nat) (peer : BitVec 17) : LinkMoves s (groupJoined s p peer) ∧ PortsKept s (groupJoined s p peer) := by
  unfold groupJoined
  split
  · obtain ⟨moves, kept, -⟩ := groupBack_moves (modFab s fun f => { f with groupPeer := f.groupPeer.setIfInBounds (p / 4) peer }) (p / 4)
    exact ⟨(linkMoves_modFab s _).trans moves, .trans (.of_ports rfl) kept⟩
  · exact ⟨.refl s, .refl s⟩

theorem trained_accepts {lanes : BitVec 4} {asym : BitVec 32} {peer : BitVec 17} {pp : BitVec 6} {secOk : Bool}
    (h : s.fab.perLink = false ∨ secOk = true ∧ s.sec.cred = true) (calm : (getPort s p.val).trains.length ≤ 4) :
    trained s p.val lanes asym peer pp secOk = rollDone (trainWaiting (groupJoined
      (freshKeys (portModed s p.val (~~~lanes) asym peer pp) p.val) p.val peer) (p.val / 4)) := by
  unfold trained
  rw [if_neg (by rcases h with h | ⟨h1, h2⟩ <;> simp [*])]
  have same : worstLane (excludeLanes s p.val (~~~lanes)) p.val = excludeLanes s p.val (~~~lanes) :=
    worstLane_calm (by rw [excludeLanes_port s p.isLt]; exact calm)
  rw [same]
  rfl

theorem portModed_moves (x : BitVec 4) (asym : BitVec 32) (peer : BitVec 17) (pp : BitVec 6) : LinkMoves s (portModed s p.val x asym peer pp) ∧
    ∃ pl, getPort (portModed s p.val x asym peer pp) p.val = portTrained pl (laneMode ((getPort s p.val).excluded ||| x)) asym peer pp
      { getPort s p.val with
        excluded := (getPort s p.val).excluded ||| x
        st := (laneMode ((getPort s p.val).excluded ||| x)).1 } := by
  unfold portModed
  have lanes := excludeLanes_port s p.isLt x
  have moved := LinkMoves.of_frame (excludeLanes_moves s p.val x).1
  generalize excludeLanes s p.val x = u at lanes moved ⊢
  dsimp only
  rw [lanes]
  have own := setPortState_port u p.isLt (laneMode ((getPort s p.val).excluded ||| x)).1
  have set_ := linkMoves_setPortState u p.val (laneMode ((getPort s p.val).excluded ||| x)).1
  generalize setPortState u p.val (laneMode ((getPort s p.val).excluded ||| x)).1 = v at own set_ ⊢
  refine ⟨(moved.trans set_).trans (linkMoves_modPort v p.val _), u.fab.perLink, ?_⟩
  rw [getPort_modPort_same v p.isLt, own, lanes]

theorem freshKeys_moves (s : State) (q : Nat) : AllBut [.fab, .ports, .sec, .secKept] s (freshKeys s q) ∧
    (freshKeys s q).sec = { s.sec with nextKey := (freshKeys s q).sec.nextKey } ∧ PortsKept s (freshKeys s q) := by
  unfold freshKeys
  split
  · exact ⟨(frame_modPort s q _).mono, rfl, .of_modPort s q fun b => by constructor <;> rfl⟩
  · extract_lets t r
    have first : AllBut [.sec, .secKept] s t.2 := frame_modSecCore s fun k => { k with nextKey := k.nextKey + 1 }
    have second : AllBut [.sec, .secKept] t.2 r.2 := frame_modSecCore t.2 fun k => { k with nextKey := k.nextKey + 1 }
    exact ⟨(first.mono.trans second.mono).trans (frame_modPort r.2 q _).mono, rfl,
      .trans (.of_ports rfl) (.of_modPort r.2 q fun b => by constructor <;> rfl)⟩

/-- R256, R257, R275: a training ends with the port up on good lanes, or retired. -/
theorem trained_moves {lanes : BitVec 4} {asym : BitVec 32} {peer : BitVec 17} {pp : BitVec 6} {secOk : Bool} (act : s.hub.actReq = none)
    (h : s.fab.perLink = false ∨ secOk = true ∧ s.sec.cred = true) (calm : (getPort s p.val).trains.length ≤ 4)
    (alone : (getPort s p.val).waiting = false) {t : State} (ht : t = trained s p.val lanes asym peer pp secOk) :
    Apart { s with sec := { s.sec with nextKey := t.sec.nextKey } } t ∧
      (getPort t p.val).st = (laneMode ((getPort s p.val).excluded ||| ~~~lanes)).1 ∧
      (getPort t p.val).lanes = (laneMode ((getPort s p.val).excluded ||| ~~~lanes)).2 ∧
      (getPort t p.val).excluded = (getPort s p.val).excluded ||| ~~~lanes ∧ (getPort t p.val).peer = some (peer, pp) ∧
      (getPort t p.val).asym = asym := by
  rw [trained_accepts h calm] at ht
  obtain ⟨moded, pl, own⟩ := portModed_moves (s := s) (p := p) (~~~lanes) asym peer pp
  generalize portModed s p.val (~~~lanes) asym peer pp = u at moded own ht
  obtain ⟨keys, drawn, kept⟩ := freshKeys_moves u p.val
  generalize freshKeys u p.val = v at keys drawn kept ht
  obtain ⟨joined, joinedPorts⟩ := groupJoined_moves v p.val peer
  generalize groupJoined v p.val peer = w at joined joinedPorts ht
  obtain ⟨waits, waitPorts⟩ := trainWaiting_leaves w (p.val / 4)
  have upTo : PortKept (getPort u p.val) (getPort w p.val) := (kept.trans joinedPorts) p.val
  have last : PortKept (getPort w p.val) (getPort (trainWaiting w (p.val / 4)) p.val) :=
    waitPorts p.val (.inl (by rw [upTo.waiting, own]; exact alone))
  generalize trainWaiting w (p.val / 4) = z at waits last ht
  have moved : LinkMoves v z := joined.trans waits
  have hub : z.hub = s.hub := Eq.trans (moved.frame .hub (by decide)) (Eq.trans (keys .hub (by decide)) (moded.frame .hub (by decide)))
  rw [rollDone_none (by rw [hub, act])] at ht
  subst ht
  have all : PortKept (getPort u p.val) (getPort t p.val) := upTo.trans last
  have secs : t.sec = v.sec := moved.frame .sec (by decide)
  have first : u.sec = s.sec := moded.frame .sec (by decide)
  refine ⟨⟨?_, ?_, ?_, ?_, ?_, ?_, ?_, ?_, ?_, ?_⟩, ?_, ?_, ?_, ?_, ?_⟩
  · exact Eq.trans (moved.frame .opt (by decide)) (Eq.trans (keys .opt (by decide)) (moded.frame .opt (by decide)))
  · exact Eq.trans (moved.frame .mem (by decide)) (Eq.trans (keys .mem (by decide)) (moded.frame .mem (by decide)))
  · exact Eq.trans (moved.frame .ctxs (by decide)) (Eq.trans (keys .ctxs (by decide)) (moded.frame .ctxs (by decide)))
  · exact Eq.trans (moved.frame .slots (by decide)) (Eq.trans (keys .slots (by decide)) (moded.frame .slots (by decide)))
  · exact Eq.trans (moved.frame .lcores (by decide)) (Eq.trans (keys .lcores (by decide)) (moded.frame .lcores (by decide)))
  · show t.sec = { s.sec with nextKey := t.sec.nextKey }
    rw [secs, drawn, first]
  · exact Eq.trans (moved.frame .pwr (by decide)) (Eq.trans (keys .pwr (by decide)) (moded.frame .pwr (by decide)))
  · exact moved.now.trans ((congrArg TimeBlock.now (keys .time (by decide))).trans moded.now)
  · exact Eq.trans (moved.frame .latches (by decide)) (Eq.trans (keys .latches (by decide)) (moded.frame .latches (by decide)))
  · exact Eq.trans (moved.frame .pending (by decide)) (Eq.trans (keys .pending (by decide)) (moded.frame .pending (by decide)))
  · rw [all.st, own]; rfl
  · rw [all.lanes, own]; rfl
  · rw [all.excluded, own]; rfl
  · rw [all.peer, own]; rfl
  · rw [all.asym, own]; rfl

/-- R275: without the keys a link in per-link mode does not come up. -/
theorem trained_refused {lanes : BitVec 4} {asym : BitVec 32} {peer : BitVec 17} {pp : BitVec 6} {secOk : Bool} (h : s.fab.perLink = true)
    (no : secOk = false ∨ s.sec.cred = false) : trained s p.val lanes asym peer pp secOk =
      modPort (setPortState s p.val .down) p.val fun b => { b with secRefused := true, lanes := 0 } := by
  refine if_pos ?_
  rcases no with no | no <;> simp [h, no]

/-- A port changes its state, and more of its own. -/
theorem portSet_moves (st : PortState) (f : PortBlock → PortBlock) {t : State} (ht : t = settle (modPort (setPortState s p.val st) p.val f)) :
    Apart s t ∧ getPort t p.val = f { getPort s p.val with st := st } ∧ ∀ q, q ≠ p.val → getPort t q = getPort s q := by
  subst ht
  refine ⟨((linkMoves_setPortState s p.val st).trans (linkMoves_modPort _ p.val f)).apart.then_settle, ?_, fun q hq => ?_⟩
  · rw [getPort_settle, getPort_modPort_same _ p.isLt, setPortState_port s p.isLt]
  · rw [getPort_settle, getPort_modPort_other _ hq, setPortState_others s hq]

theorem exec_trainingTimeout : exec (.trainingTimeout p) s = done (if (getPort s p.val).st = .training then
    rollDone (modPort (setPortState s p.val .down) p.val fun b => { b with lanes := 0 }) else s) := rfl

theorem trainingTimeout_falls (act : s.hub.actReq = none) (h : (getPort s p.val).st = .training) :
    ∃ t, exec (.trainingTimeout p) s = .next t ∧ (getPort t p.val).st = .down ∧ (getPort t p.val).lanes = 0 ∧ Apart s t ∧
      ∀ q, q ≠ p.val → getPort t q = getPort s q := by
  have hub : (modPort (setPortState s p.val .down) p.val fun b => { b with lanes := 0 }).hub = s.hub :=
    Eq.trans (frame_modPort _ _ _ .hub (by decide)) (frame_setPortState s _ _ .hub (by decide))
  have run := (exec_trainingTimeout (s := s) (p := p)).trans (congrArg done (if_pos h))
  rw [rollDone_none (by rw [hub, act])] at run
  obtain ⟨apart, own, others⟩ := portSet_moves (s := s) (p := p) .down (fun b => { b with lanes := 0 }) rfl
  exact ⟨_, run, by rw [own], by rw [own], apart, others⟩

/-! ### RELOCK (R256, R474) -/

theorem exec_relock (regained : Bool) : exec (.relock p regained) s = done (
    if portUp (getPort s p.val) ∧ !regained then toRelock s p.val
    else if (getPort s p.val).st = .relock ∧ regained ∧ cableIn s p.val then
      groupBack (modPort (setPortState s p.val (laneMode (getPort s p.val).excluded).1) p.val fun b => { b with relockAt := none }) (p.val / 4)
    else s) := rfl

/-- A port that serves no longer as the time parent. -/
theorem dropParent_parent {q : Nat} (h : (getPort s q).st ≠ .upX4) (hp : s.time.parent = some q) : (dropParent s q).time.parent = none := by
  rw [dropParent, if_pos ⟨hp, h⟩]
  rfl

theorem relock_falls (hb : (getPort s p.val).buf = []) (up : portUp (getPort s p.val) = true) : ∃ t, exec (.relock p false) s = .next t ∧
    (getPort t p.val).st = .relock ∧ (getPort t p.val).relockAt = some s.ticks ∧ (s.time.parent = some p.val → t.time.parent = none) ∧
    Apart s t ∧ ∀ q, q ≠ p.val → getPort t q = getPort s q := by
  obtain ⟨u, hu⟩ : ∃ u, u = modPort (setPortState s p.val .relock) p.val fun b => { b with relockAt := some s.ticks } := ⟨_, rfl⟩
  have ticks : (setPortState s p.val .relock).ticks = s.ticks := frame_setPortState s _ _ .ticks (by decide)
  have own : getPort u p.val = { getPort s p.val with st := .relock, relockAt := some s.ticks } := by
    rw [hu, getPort_modPort_same _ p.isLt, setPortState_port s p.isLt]
  have others (q : Nat) (hq : q ≠ p.val) : getPort u q = getPort s q := by rw [hu, getPort_modPort_other _ hq, setPortState_others s hq]
  have moved : LinkMoves s u := hu ▸ (linkMoves_setPortState s p.val .relock).trans (linkMoves_modPort _ p.val _)
  have time : u.time = s.time := by
    rw [hu]
    exact Eq.trans (frame_modPort _ _ _ .time (by decide)) (frame_setPortState s _ _ .time (by decide))
  have ports (q : Nat) : getPort (dropParent u p.val) q = getPort u q := getPort_congr (frame_dropParent u p.val .ports (by decide)) q
  have done_ : toRelock s p.val = dropParent u p.val := by
    unfold toRelock
    rw [show (modPort (setPortState s p.val .relock) p.val fun b => { b with relockAt := some s.ticks }) = u from hu.symm]
    dsimp only
    split
    · exact resendBuf_empty (by rw [ports, own]; exact hb)
    · rfl
  have run := (exec_relock (s := s) (p := p) false).trans (congrArg done (if_pos ⟨up, rfl⟩))
  rw [done_] at run
  refine ⟨_, run, by rw [getPort_settle, ports, own], by rw [getPort_settle, ports, own], fun parent => ?_,
    (moved.trans (linkMoves_dropParent u p.val)).apart.then_settle, fun q hq => by rw [getPort_settle, ports, others q hq]⟩
  rw [settle_time]
  exact dropParent_parent (by rw [own]; nofun) (time ▸ parent)

theorem relock_regains (h : (getPort s p.val).st = .relock) (cable : cableIn s p.val = true) : ∃ t, exec (.relock p true) s = .next t ∧
    (getPort t p.val).st = (laneMode (getPort s p.val).excluded).1 ∧ (getPort t p.val).relockAt = none ∧ Apart s t ∧
    (s.fab.lostGroups.getLsbD (p.val / 4) = false → (getPort t p.val).fseq = (getPort s p.val).fseq) := by
  obtain ⟨u, hu⟩ : ∃ u, u = modPort (setPortState s p.val (laneMode (getPort s p.val).excluded).1) p.val fun b => { b with relockAt := none } :=
    ⟨_, rfl⟩
  have own : getPort u p.val = { getPort s p.val with st := (laneMode (getPort s p.val).excluded).1, relockAt := none } := by
    rw [hu, getPort_modPort_same _ p.isLt, setPortState_port s p.isLt]
  have moved : LinkMoves s u := hu ▸ (linkMoves_setPortState s p.val _).trans (linkMoves_modPort _ p.val _)
  have lost : u.fab.lostGroups = s.fab.lostGroups := by
    have same : (setPortState s p.val (laneMode (getPort s p.val).excluded).1).fab.lostGroups = s.fab.lostGroups :=
      (congrArg Fabric.lostGroups (setPortState_fab s _ _)).trans rfl
    rw [hu]
    exact same
  have run : exec (.relock p true) s = done (groupBack u (p.val / 4)) := by
    rw [exec_relock, if_neg (by simp), if_pos ⟨h, rfl, cable⟩, hu]
  obtain ⟨back, kept, whole⟩ := groupBack_moves u (p.val / 4)
  refine ⟨_, run, by rw [getPort_settle, (kept _).st, own], by rw [getPort_settle, (kept _).relockAt, own],
    (moved.trans back).apart.then_settle, fun no => ?_⟩
  rw [getPort_settle, getPort_congr (whole (lost ▸ no)), own]

theorem exec_relockExpiry : exec (.relockExpiry p) s = done (if (getPort s p.val).st = .relock then
    if cableIn s p.val then portToTraining s p.val
    else modPort (setPortState (resendBuf s p.val) p.val .down) p.val fun b => { b with relockAt := none, lanes := 0 } else s) := rfl

theorem relockExpiry_ends (hb : (getPort s p.val).buf = []) (h : (getPort s p.val).st = .relock) : ∃ t, exec (.relockExpiry p) s = .next t ∧
    (getPort t p.val).st = (if cableIn s p.val then .training else .down) ∧ (getPort t p.val).relockAt = none ∧ Apart s t ∧
    ∀ q, q ≠ p.val → getPort t q = getPort s q := by
  have run := (exec_relockExpiry (s := s) (p := p)).trans (congrArg done (if_pos h))
  rw [resendBuf_empty hb] at run
  by_cases cable : cableIn s p.val = true
  · rw [if_pos cable] at run ⊢
    obtain ⟨apart, own, others⟩ := trains_apart (s := s) (p := p) hb
    exact ⟨_, run, by rw [own]; rfl, by rw [own]; rfl, apart, others⟩
  · rw [if_neg cable] at run ⊢
    obtain ⟨apart, own, others⟩ := portSet_moves (s := s) (p := p) .down (fun b => { b with relockAt := none, lanes := 0 }) rfl
    exact ⟨_, run, by rw [own], by rw [own], apart, others⟩

/-! ### Lanes that show too many errors (R257) -/

theorem exec_laneEvaluation (bad : BitVec 4) : exec (.laneEvaluation p bad) s =
    done (if portUp (getPort s p.val) then laneCheck s p.val (bad &&& (getPort s p.val).lanes) else s) := rfl

/-- A port whose lanes have failed: those that failed before are excluded, the others due. -/
def lanesNoted (s : State) (p : Nat) (bad : BitVec 4) : State :=
  modPort (excludeLanes s p (bad &&& (getPort s p).failedOnce)) p fun b =>
    { b with dueLanes := b.dueLanes ||| (bad &&& ~~~b.failedOnce) }

theorem laneCheck_eq {q : Nat} {bad : BitVec 4} (h : bad ≠ 0) : laneCheck s q bad =
    let u := lanesNoted s q bad
    if (laneMode (getPort u q).excluded).1 = .retired then
      trainWaiting (dropParent (modPort (setPortState (resendBuf u q) q .retired) q fun b => { b with lanes := 0, waiting := false }) q) (q / 4)
    else if (groupPorts u (q / 4)).any fun k => k != q && (getPort u k).st == .training then modPort u q fun b => { b with waiting := true }
    else portToTraining u q := by
  rw [laneCheck, if_neg h]
  rfl

theorem lanesNoted_moves (bad : BitVec 4) : LinkMoves s (lanesNoted s p.val bad) ∧
    getPort (lanesNoted s p.val bad) p.val = { getPort s p.val with
      excluded := (getPort s p.val).excluded ||| (bad &&& (getPort s p.val).failedOnce)
      dueLanes := (getPort s p.val).dueLanes ||| (bad &&& ~~~(getPort s p.val).failedOnce) } ∧
    ∀ q, q ≠ p.val → getPort (lanesNoted s p.val bad) q = getPort s q := by
  unfold lanesNoted
  have moved := LinkMoves.of_frame (excludeLanes_moves s p.val (bad &&& (getPort s p.val).failedOnce)).1
  have own := excludeLanes_port s p.isLt (bad &&& (getPort s p.val).failedOnce)
  have others (q : Nat) (hq : q ≠ p.val) := excludeLanes_others s hq (bad &&& (getPort s p.val).failedOnce)
  generalize excludeLanes s p.val (bad &&& (getPort s p.val).failedOnce) = u at moved own others ⊢
  refine ⟨moved.trans (linkMoves_modPort u p.val _), ?_, fun q hq => (getPort_modPort_other u hq _).trans (others q hq)⟩
  rw [getPort_modPort_same u p.isLt, own]

/-- R257: a port without a good half is retired. -/
theorem portRetired_moves {u t : State} (ht : t = trainWaiting (dropParent
      (modPort (setPortState u p.val .retired) p.val fun b => { b with lanes := 0, waiting := false }) p.val) (p.val / 4)) :
    LinkMoves u t ∧ (getPort t p.val).st = .retired ∧ (getPort t p.val).lanes = 0 ∧
      (getPort t p.val).excluded = (getPort u p.val).excluded ∧ (getPort t p.val).dueLanes = (getPort u p.val).dueLanes := by
  obtain ⟨v, hv⟩ : ∃ v, v = modPort (setPortState u p.val .retired) p.val fun b => { b with lanes := 0, waiting := false } := ⟨_, rfl⟩
  have own : getPort v p.val = { getPort u p.val with st := .retired, lanes := 0, waiting := false } := by
    rw [hv, getPort_modPort_same _ p.isLt, setPortState_port u p.isLt]
  have moved : LinkMoves u v := hv ▸ (linkMoves_setPortState u p.val _).trans (linkMoves_modPort _ p.val _)
  rw [← hv] at ht
  have ports : getPort (dropParent v p.val) p.val = getPort v p.val := getPort_congr (frame_dropParent v p.val .ports (by decide)) _
  obtain ⟨waits, kept⟩ := trainWaiting_leaves (dropParent v p.val) (p.val / 4)
  have stays := kept p.val (.inl (by rw [ports, own]))
  rw [← ht] at waits stays
  exact ⟨(moved.trans (linkMoves_dropParent v p.val)).trans waits, by rw [stays.st, ports, own], by rw [stays.lanes, ports, own],
    by rw [stays.excluded, ports, own], by rw [stays.dueLanes, ports, own]⟩

theorem laneEvaluation_degrades (hb : (getPort s p.val).buf = []) {bad x : BitVec 4} (up : portUp (getPort s p.val) = true)
    (hx : x = bad &&& (getPort s p.val).lanes) (h0 : x ≠ 0) : ∃ t, exec (.laneEvaluation p bad) s = .next t ∧ Apart s t ∧
      (getPort t p.val).excluded = (getPort s p.val).excluded ||| (x &&& (getPort s p.val).failedOnce) ∧
      (getPort t p.val).dueLanes = (getPort s p.val).dueLanes ||| (x &&& ~~~(getPort s p.val).failedOnce) ∧
      ((laneMode (getPort t p.val).excluded).1 = .retired → (getPort t p.val).st = .retired ∧ (getPort t p.val).lanes = 0) ∧
      ((laneMode (getPort t p.val).excluded).1 ≠ .retired →
        ((∀ q, q ≠ p.val → q / 4 = p.val / 4 → (getPort s q).st ≠ .training) → (getPort t p.val).st = .training) ∧
        ((∃ q, q < portCount s ∧ q ≠ p.val ∧ q / 4 = p.val / 4 ∧ (getPort s q).st = .training) →
          (getPort t p.val).st = (getPort s p.val).st ∧ (getPort t p.val).waiting = true)) := by
  have run := (exec_laneEvaluation (s := s) (p := p) bad).trans (congrArg done (if_pos up))
  rw [← hx, laneCheck_eq h0] at run
  obtain ⟨moved, own, others⟩ := lanesNoted_moves (s := s) (p := p) x
  generalize lanesNoted s p.val x = u at moved own others run
  dsimp only at run
  have buf : (getPort u p.val).buf = [] := by rw [own]; exact hb
  have count : groupPorts u (p.val / 4) = groupPorts s (p.val / 4) := by
    rw [groupPorts, groupPorts, portCount, portCount, show u.opt = s.opt from moved.frame .opt (by decide)]
  by_cases retired : (laneMode (getPort u p.val).excluded).1 = .retired
  · rw [if_pos retired, resendBuf_empty buf] at run
    obtain ⟨moves, st, lanes, excluded, due⟩ := portRetired_moves (p := p) (u := u) rfl
    refine ⟨_, run, (moved.trans moves).apart.then_settle, ?_, ?_, fun _ => ?_, fun no => ?_⟩
    · rw [getPort_settle, excluded, own]
    · rw [getPort_settle, due, own]
    · rw [getPort_settle]
      exact ⟨st, lanes⟩
    · rw [getPort_settle, excluded] at no
      exact absurd retired no
  · rw [if_neg retired, count] at run
    by_cases others_ : ((groupPorts s (p.val / 4)).any fun k => k != p.val && (getPort u k).st == .training) = true
    · rw [if_pos others_] at run
      have at_ : getPort (modPort u p.val fun b => { b with waiting := true }) p.val = { getPort u p.val with waiting := true } :=
        getPort_modPort_same u p.isLt _
      refine ⟨_, run, (moved.trans (linkMoves_modPort u p.val _)).apart.then_settle, ?_, ?_, fun yes => ?_, fun _ => ⟨fun none_ => ?_, fun _ => ?_⟩⟩
      · rw [getPort_settle, at_, own]
      · rw [getPort_settle, at_, own]
      · rw [getPort_settle, at_] at yes
        exact absurd yes retired
      · obtain ⟨k, hk, trains⟩ := List.any_eq_true.mp others_
        simp only [Bool.and_eq_true, bne_iff_ne, beq_iff_eq] at trains
        exact absurd ((others k trains.1) ▸ trains.2) (none_ k trains.1 (mem_groupPorts.mp hk).1)
      · rw [getPort_settle, at_, own]
        exact ⟨rfl, rfl⟩
    · rw [if_neg others_] at run
      have at_ : getPort (portToTraining u p.val) p.val = inTraining u (getPort u p.val) := portToTraining_port p.isLt buf
      refine ⟨_, run, (moved.trans (portToTraining_leaves u p.val).1).apart.then_settle, ?_, ?_, fun yes => ?_,
        fun _ => ⟨fun _ => ?_, fun some_ => ?_⟩⟩
      · rw [getPort_settle, at_, own]; rfl
      · rw [getPort_settle, at_, own]; rfl
      · rw [getPort_settle, at_] at yes
        exact absurd yes retired
      · rw [getPort_settle, at_]; rfl
      · obtain ⟨k, hk, other, group, trains⟩ := some_
        refine absurd (List.any_eq_true.mpr ⟨k, mem_groupPorts.mpr ⟨group, hk⟩, ?_⟩) others_
        simp [other, others k other, trains]

theorem laneEvaluation_rests (rest : AtRest s) : exec (.laneEvaluation p 0) s = .next s := by
  refine next_of_atRest rest ((exec_laneEvaluation 0).trans (congrArg done ?_))
  split
  · exact if_pos (BitVec.zero_and)
  · rfl

end

/-- Settles O22: the bring-up, then how a port falls out of service. -/
theorem portsTrainAndDegrade : Obligations.PortsTrainAndDegrade := by
  refine ⟨fun p s hp act hb => ⟨portProbe_trains hp hb, fun partner h rest => portProbe_rests h rest, fun r port full hr => ⟨?_, ?_, ?_⟩,
      ?_, trainingTimeout_falls act, fun rest h => next_of_atRest rest (exec_trainingTimeout.trans (congrArg done (if_neg h)))⟩,
    fun p s hp hb => ⟨relock_falls hb, relock_regains, relockExpiry_ends hb, fun bad x => laneEvaluation_degrades hb, laneEvaluation_rests⟩⟩
  · exact fun hport hf h => portRetrain_trains hr hp hb hport hf h
  · intro hport hf h
    obtain ⟨d, ans⟩ := ansPortRetrain_conflict (hport ▸ hp) hf (hport ▸ h)
    exact ⟨_, conflicts_of (show RunsAs (.portRetrain r port full) r 0x0104 setLive (ansPortRetrain port full) s from rfl) hr ans⟩
  · exact fun h => serves_err (d := 0) (show RunsAs (.portRetrain r port full) r 0x0104 setLive (ansPortRetrain port full) s from rfl) hr
      (ansPortRetrain_bad h)
  · intro lanes asym peer pp ok x training hx
    refine ⟨fun accepted calm alone => ?_, fun link no => ?_⟩
    · obtain ⟨t, ht⟩ : ∃ t, t = trained s p.val lanes asym peer pp ok := ⟨_, rfl⟩
      obtain ⟨apart, st, active, excluded, partner, as⟩ := trained_moves act accepted calm alone ht
      have run := (exec_trainingComplete (s := s) (p := p) lanes asym peer pp ok).trans (congrArg done (if_pos training))
      rw [← ht] at run
      rw [← hx] at st active excluded
      refine ⟨_, run, ?_, fun h => ?_, fun h h3 => ?_, fun h3 hC => ?_, fun h3 hC => ?_, ?_, ?_, ?_⟩
      · rw [settle_sec]
        exact apart.then_settle
      · rw [getPort_settle, st, active, h]
        exact ⟨rfl, rfl⟩
      · rw [getPort_settle, st, active, laneMode_low h h3]
        exact ⟨rfl, rfl⟩
      · rw [getPort_settle, st, active, laneMode_high h3 hC]
        exact ⟨rfl, rfl⟩
      · rw [getPort_settle, st, active, laneMode_none h3 hC]
        exact ⟨rfl, rfl⟩
      · rw [getPort_settle, excluded]
      · rw [getPort_settle, partner]
      · rw [getPort_settle, as]
    · have run := (exec_trainingComplete (s := s) (p := p) lanes asym peer pp ok).trans (congrArg done (if_pos training))
      rw [trained_refused link no] at run
      obtain ⟨apart, own, others⟩ := portSet_moves (s := s) (p := p) .down (fun b => { b with secRefused := true, lanes := 0 }) rfl
      exact ⟨_, run, apart, by rw [own], by rw [own], by rw [own], others⟩

end Sys2Proof.Machine
end

section
-- One proof after the other: a text of this length has more proofs waiting at once than the check has threads for.
set_option Elab.async false
/-! PROOFS. Frames, their replay and their keys (R253 to R255, R275, R276); a group that is lost, and the cable (R279, R280, R474). -/
namespace Sys2Proof.Machine

/-! ### Frames that arrive (R254, R255) -/

section
variable {s t : State} {p : Port}

theorem ofNat_toNat16 (n : BitVec 16) : BitVec.ofNat 32 n.toNat = n.setWidth 32 := BitVec.ofNat_toNat 32 n

theorem takeAttrib_none (h : NoInjection s) (u : Nat) : takeAttrib s u = (s, false) := by
  have none_ : s.diag.inject.toList.findIdx? (fun a => match a with
      | some a => (match a.attrib with
        | some t => decide (s.ticks ≤ t + 4000000) && injectSite s a.d == u
        | none => false)
      | none => false) = none := by
    rw [List.findIdx?_eq_none_iff]
    intro a ha
    obtain ⟨i, hi, rfl⟩ := Vector.mem_iff_getElem.mp (Vector.mem_toList_iff.mp ha)
    have free := h i
    rw [injectAt_eq hi] at free
    rw [free]
  unfold takeAttrib
  split <;> rename_i found
  · exact absurd (found.symm.trans none_) nofun
  · rfl

/-- A frame error is counted at its port. -/
theorem frameEvent_plain (h : NoInjection s) (q corr uncorr : Nat) : frameEvent s q corr uncorr = modPort s q fun b =>
    { b with fecCorr := b.fecCorr + BitVec.ofNat 32 corr, fecUncorr := b.fecUncorr + BitVec.ofNat 32 uncorr } := by
  unfold frameEvent
  rw [takeAttrib_none h]
  rfl

/-- Of two states only port `p` and what has left differ. -/
structure OnePort (p : Port) (f : PortBlock → PortBlock) (s t : State) : Prop where
  frame  : AllBut [.fab, .ports, .outbox] s t
  own    : getPort t p.val = f (getPort s p.val)
  others : ∀ q, q ≠ p.val → getPort t q = getPort s q

theorem onePort_modPort (s : State) (p : Port) (f : PortBlock → PortBlock) : OnePort p f s (modPort s p.val f) :=
  ⟨(frame_modPort s p.val f).mono, getPort_modPort_same s p.isLt f, fun _ hq => getPort_modPort_other s hq f⟩

theorem OnePort.trans {u : State} {f g : PortBlock → PortBlock} (h : OnePort p f s t) (k : OnePort p g t u) : OnePort p (g ∘ f) s u :=
  ⟨h.frame.trans k.frame, by rw [k.own, h.own]; rfl, fun q hq => (k.others q hq).trans (h.others q hq)⟩

theorem OnePort.apart {f : PortBlock → PortBlock} (h : OnePort p f s t) : Apart s t := (LinkMoves.of_frame h.frame).apart

theorem OnePort.then_settle {f : PortBlock → PortBlock} (h : OnePort p f s t) : Apart s (settle t) ∧
    getPort (settle t) p.val = f (getPort s p.val) ∧ ∀ q, q ≠ p.val → getPort (settle t) q = getPort s q :=
  ⟨h.apart.then_settle, (getPort_settle t _).trans h.own, fun q hq => (getPort_settle t q).trans (h.others q hq)⟩

/-- What has left the module stays sent when a step ends. -/
theorem sent_settle {o : Output} (h : o :: s.outbox <:+ t.outbox) : o :: s.outbox <:+ (settle t).outbox :=
  h.trans (settle_settled t).out.outbox

/-! #### A frame that is discarded -/

theorem exec_frameReceive (fseq : BitVec 64) (x : Trailer) (n : BitVec 16) (good : Bool) : exec (.frameReceive p fseq x n good) s =
    done (if portUp (getPort s p.val) then takeFrame s p.val fseq x n good else s) := rfl

theorem injectedSymbols_none (h : NoInjection s) (q : Nat) : injectedSymbols s q = (s, 0) := by
  rw [injectedSymbols, takeInjection_none h]
  rfl

theorem discardFrame_moves (h : NoInjection s) (m : (getPort s p.val).muted = false) (n : Nat) (check : Bool) :
    OnePort p (fun b => { b with
      fecCorr := b.fecCorr + BitVec.ofNat 32 n, fecUncorr := b.fecUncorr + 1
      checkFails := if check then s.ticks :: b.checkFails.filter fun t => decide (s.ticks < t + ticksPerSec) else b.checkFails })
      s (discardFrame s p.val n check) ∧
    .replayRequest p.val (getPort s p.val).rxNext :: s.outbox <:+ (discardFrame s p.val n check).outbox := by
  unfold discardFrame
  rw [frameEvent_plain h]
  have counted := onePort_modPort s p fun b => { b with fecCorr := b.fecCorr + BitVec.ofNat 32 n, fecUncorr := b.fecUncorr + BitVec.ofNat 32 1 }
  have ticks : (modPort s p.val fun b =>
      { b with fecCorr := b.fecCorr + BitVec.ofNat 32 n, fecUncorr := b.fecUncorr + BitVec.ofNat 32 1 }).ticks = s.ticks := rfl
  have out : (modPort s p.val fun b =>
      { b with fecCorr := b.fecCorr + BitVec.ofNat 32 n, fecUncorr := b.fecUncorr + BitVec.ofNat 32 1 }).outbox = s.outbox := rfl
  generalize (modPort s p.val fun b =>
      { b with fecCorr := b.fecCorr + BitVec.ofNat 32 n, fecUncorr := b.fecUncorr + BitVec.ofNat 32 1 }) = u at counted ticks out ⊢
  obtain ⟨v, hv⟩ : ∃ v, v = (if check then modPort u p.val fun b => { b with
      checkFails := u.ticks :: b.checkFails.filter fun t => decide (u.ticks < t + ticksPerSec) } else u) := ⟨_, rfl⟩
  have failed : OnePort p (fun b => { b with
      checkFails := if check then s.ticks :: b.checkFails.filter fun t => decide (s.ticks < t + ticksPerSec) else b.checkFails }) u v := by
    rw [hv, ← ticks]
    cases check
    · exact ⟨.refl _ u, rfl, fun _ _ => rfl⟩
    · exact onePort_modPort u p _
  have out' : v.outbox = s.outbox := by
    rw [← out, hv]
    split <;> rfl
  dsimp only
  rw [← hv]
  have all := counted.trans failed
  rw [if_neg (by rw [all.own]; simp [m]), all.own]
  exact ⟨⟨all.frame.trans (frame_emit v _).mono, all.own, all.others⟩, by rw [← out']; exact List.suffix_rfl⟩

theorem frameReceive_discards (up : portUp (getPort s p.val) = true) (m : (getPort s p.val).muted = false) (h : NoInjection s)
    {fseq : BitVec 64} {x : Trailer} {n : BitVec 16} {good : Bool} (bad : 16 < n.toNat ∨ good = false) :
    ∃ t, exec (.frameReceive p fseq x n good) s = .next t ∧ Apart s t ∧ (getPort t p.val).rxNext = (getPort s p.val).rxNext ∧
      (getPort t p.val).buf = (getPort s p.val).buf ∧ (getPort t p.val).fecUncorr = (getPort s p.val).fecUncorr + 1 ∧
      (getPort t p.val).fecCorr = (if 16 < n.toNat then (getPort s p.val).fecCorr else (getPort s p.val).fecCorr + n.setWidth 32) ∧
      (n.toNat ≤ 16 → s.ticks ∈ (getPort t p.val).checkFails) ∧ .replayRequest p.val (getPort s p.val).rxNext :: s.outbox <:+ t.outbox := by
  have run := (exec_frameReceive (s := s) (p := p) fseq x n good).trans (congrArg done (if_pos up))
  unfold takeFrame at run
  rw [injectedSymbols_none h] at run
  dsimp only at run
  rw [Nat.add_zero] at run
  by_cases many : 16 < n.toNat
  · rw [if_pos many] at run
    obtain ⟨moved, sent⟩ := discardFrame_moves (p := p) h m 0 false
    obtain ⟨apart, own, -⟩ := moved.then_settle
    exact ⟨_, run, apart, by rw [own], by rw [own], by rw [own], by rw [own, if_pos many]; exact BitVec.add_zero _, fun few => by omega,
      sent_settle sent⟩
  · rw [if_neg many, if_pos (by simp [bad.resolve_left many])] at run
    obtain ⟨moved, sent⟩ := discardFrame_moves (p := p) h m n.toNat true
    obtain ⟨apart, own, -⟩ := moved.then_settle
    exact ⟨_, run, apart, by rw [own], by rw [own], by rw [own], by rw [own, if_neg many, ← ofNat_toNat16],
      fun _ => by rw [own]; exact List.mem_cons_self, sent_settle sent⟩

/-! #### A frame that is taken -/

/-- The port whose partner sends under its other key. -/
theorem partnerRekeyed_moves (slot : Bool) : AllBut [.fab, .ports, .sec, .secKept] s (partnerRekeyed s p.val slot) ∧
    (partnerRekeyed s p.val slot).sec = { s.sec with nextKey := (partnerRekeyed s p.val slot).sec.nextKey } ∧
    (∃ keys, getPort (partnerRekeyed s p.val slot) p.val = { getPort s p.val with
      rxSlot := if (getPort s p.val).perLink then slot else (getPort s p.val).rxSlot
      rxNext := if (getPort s p.val).perLink = true ∧ (getPort s p.val).rxSlot ≠ slot then 0 else (getPort s p.val).rxNext
      rxKeys := keys }) ∧
    ∀ q, q ≠ p.val → getPort (partnerRekeyed s p.val slot) q = getPort s q := by
  unfold partnerRekeyed
  dsimp only
  split
  · rename_i same
    refine ⟨.refl _ s, rfl, ⟨(getPort s p.val).rxKeys, ?_⟩, fun _ _ => rfl⟩
    simp only [Bool.or_eq_true, Bool.not_eq_true', beq_iff_eq] at same
    rw [if_neg (by rintro ⟨h1, h2⟩; rcases same with h | h; exacts [absurd (h1.symm.trans h) (by decide), h2 h])]
    have slotSame : (if (getPort s p.val).perLink then slot else (getPort s p.val).rxSlot) = (getPort s p.val).rxSlot := by
      split
      · rename_i link
        rcases same with h | h
        · exact absurd (link.symm.trans h) (by decide)
        · exact h.symm
      · rfl
    rw [slotSame]
  · rename_i differ
    have drawn : AllBut [.sec, .secKept] s (drawLinkKey s).2 := frame_modSecCore s fun k => { k with nextKey := k.nextKey + 1 }
    refine ⟨drawn.mono.trans (frame_modPort _ _ _).mono, rfl,
      ⟨(getPort s p.val).rxKeys.setIfInBounds slot.toNat (some s.sec.nextKey), ?_⟩, fun q hq => getPort_modPort_other _ hq _⟩
    · simp only [Bool.or_eq_true, Bool.not_eq_true', beq_iff_eq, not_or, Bool.not_eq_false] at differ
      rw [getPort_modPort_same _ p.isLt, if_pos differ.1, if_pos differ]
      rfl

/-- What a good frame leaves of the port it arrived by. -/
def frameHeld (fseq : BitVec 64) (ack : BitVec 15) (credit : Vector Byte 6) (b : PortBlock) : PortBlock :=
  { b with
    buf := b.buf.filter fun k => !ackCovers ack k.1, rxNext := if fseq = b.rxNext then b.rxNext + 1 else b.rxNext
    credits := Vector.ofFn fun i : Fin 6 => b.credits.getD i.val 0 + (if fseq = b.rxNext then (credit.getD i.val 0).toNat else 0) }

theorem acceptFrame_moves (m : (getPort s p.val).muted = false) (fseq : BitVec 64) (ack : BitVec 15) (credit : Vector Byte 6) :
    OnePort p (frameHeld fseq ack credit) s (acceptFrame s p.val fseq ack credit) ∧
    ((getPort s p.val).rxNext.toNat < fseq.toNat →
      .replayRequest p.val (getPort s p.val).rxNext :: s.outbox <:+ (acceptFrame s p.val fseq ack credit).outbox) := by
  unfold acceptFrame
  extract_lets next u
  have held : OnePort p (frameHeld fseq ack credit) s u := by
    refine ⟨(frame_modPort s p.val _).mono, (getPort_modPort_same s p.isLt _).trans rfl, fun q hq => getPort_modPort_other s hq _⟩
  have out : u.outbox = s.outbox := rfl
  clear_value u
  have muted : (getPort u p.val).muted = false := by rw [held.own]; exact m
  split
  · exact ⟨⟨held.frame.trans (frame_emit u _).mono, held.own, held.others⟩, fun _ => by rw [← out]; exact List.suffix_rfl⟩
  · rename_i kept
    exact ⟨held, fun ahead => absurd ⟨ahead, by simp [muted]⟩ kept⟩

theorem frameReceive_takes (up : portUp (getPort s p.val) = true) (m : (getPort s p.val).muted = false) (h : NoInjection s)
    {fseq : BitVec 64} {ack : BitVec 15} {slot : Bool} {credit : Vector Byte 6} {n : BitVec 16} {next : BitVec 64}
    (hnext : next = (if (getPort s p.val).perLink = true ∧ (getPort s p.val).rxSlot ≠ slot then 0 else (getPort s p.val).rxNext))
    (few : n.toNat ≤ 16) : ∃ t, exec (.frameReceive p fseq ⟨ack, slot, credit⟩ n true) s = .next t ∧
      Apart { s with sec := { s.sec with nextKey := t.sec.nextKey } } t ∧
      (getPort t p.val).rxNext = (if fseq = next then fseq + 1 else next) ∧
      ((getPort s p.val).perLink = true → (getPort t p.val).rxSlot = slot) ∧
      (getPort t p.val).buf = (getPort s p.val).buf.filter (fun k => !decide ((ack - k.1.setWidth 15).toNat < 2 ^ 14)) ∧
      (getPort t p.val).fecCorr = (getPort s p.val).fecCorr + n.setWidth 32 ∧ (getPort t p.val).fecUncorr = (getPort s p.val).fecUncorr ∧
      (∀ i, i < 6 → (getPort t p.val).credits.getD i 0 =
        (getPort s p.val).credits.getD i 0 + (if fseq = next then (credit.getD i 0).toNat else 0)) ∧
      (next.toNat < fseq.toNat → .replayRequest p.val next :: s.outbox <:+ t.outbox) ∧ ∀ q, q ≠ p.val → getPort t q = getPort s q := by
  have run := (exec_frameReceive (s := s) (p := p) fseq ⟨ack, slot, credit⟩ n true).trans (congrArg done (if_pos up))
  unfold takeFrame at run
  rw [injectedSymbols_none h] at run
  dsimp only at run
  rw [Nat.add_zero, if_neg (by omega), if_neg (by decide)] at run
  obtain ⟨u, hu⟩ : ∃ u, u = (if n.toNat = 0 then s else frameEvent s p.val n.toNat 0) := ⟨_, rfl⟩
  have counted : OnePort p (fun b => { b with fecCorr := b.fecCorr + n.setWidth 32 }) s u ∧ u.outbox = s.outbox ∧ u.sec = s.sec := by
    rw [hu]
    split
    · rename_i zero
      have none_ : n.setWidth 32 = 0#32 := BitVec.eq_of_toNat_eq (by simp [zero])
      exact ⟨⟨.refl _ s, by rw [none_, BitVec.add_zero], fun _ _ => rfl⟩, rfl, rfl⟩
    · rw [frameEvent_plain h]
      refine ⟨⟨(frame_modPort s _ _).mono, ?_, fun q hq => getPort_modPort_other s hq _⟩, rfl, rfl⟩
      rw [getPort_modPort_same s p.isLt]
      rw [← ofNat_toNat16]
      exact congrArg (fun x => { getPort s p.val with fecCorr := (getPort s p.val).fecCorr + BitVec.ofNat 32 n.toNat, fecUncorr := x })
        (BitVec.add_zero _)
  rw [← hu] at run
  clear hu
  obtain ⟨one, out, sec⟩ := counted
  obtain ⟨frame, drawn, ⟨keys, rekeyed⟩, others⟩ := partnerRekeyed_moves (s := u) (p := p) slot
  have out' : (partnerRekeyed u p.val slot).outbox = s.outbox := Eq.trans (frame .outbox (by decide)) out
  generalize partnerRekeyed u p.val slot = v at frame drawn rekeyed others out' run
  have expected : (getPort v p.val).rxNext = next := by rw [rekeyed, one.own, hnext]
  obtain ⟨held, replay⟩ := acceptFrame_moves (s := v) (p := p) (by rw [rekeyed, one.own]; exact m) fseq ack credit
  rw [expected, out'] at replay
  generalize acceptFrame v p.val fseq ack credit = w at held replay run
  have final : getPort (settle w) p.val = frameHeld fseq ack credit (getPort v p.val) := (getPort_settle w _).trans held.own
  have kept (q : Part) (hq : q ∉ [Part.fab, .ports, .outbox, .sec, .secKept]) : q.Same s w :=
    ((one.frame.mono.trans frame.mono).trans held.frame.mono : AllBut [.fab, .ports, .outbox, .sec, .secKept] s w) q hq
  have secs : w.sec = { s.sec with nextKey := w.sec.nextKey } := by
    have same : w.sec = v.sec := held.frame .sec (by decide)
    rw [same, drawn, sec]
  refine ⟨_, run, Apart.then_settle ⟨kept .opt (by decide), kept .mem (by decide), kept .ctxs (by decide), kept .slots (by decide),
      kept .lcores (by decide), ?_, kept .pwr (by decide), congrArg TimeBlock.now (kept .time (by decide)), kept .latches (by decide),
      kept .pending (by decide)⟩, ?_, fun link => ?_, ?_, ?_, ?_, fun i hi => ?_, fun ahead => sent_settle (replay ahead),
    fun q hq => (getPort_settle w q).trans ((held.others q hq).trans ((others q hq).trans (one.others q hq)))⟩
  · rw [settle_sec]
    exact secs
  · rw [final, frameHeld, expected]
    dsimp only
    split
    · rename_i e
      rw [e]
    · rfl
  · rw [final, frameHeld, rekeyed, one.own]
    exact if_pos link
  · rw [final, frameHeld, rekeyed, one.own]
    rfl
  · rw [final, frameHeld, rekeyed, one.own]
  · rw [final, frameHeld, rekeyed, one.own]
  · rw [final, frameHeld, expected, rekeyed, one.own]
    simp [Vector.getD, hi]

/-! ### Replay and keys (R255, R275, R276) -/

theorem exec_frameReplay (k : BitVec 15) : exec (.frameReplay p k) s =
    done (if portUp (getPort s p.val) then replayFrames s p.val k else s) := rfl

theorem frameReplay_sends (up : portUp (getPort s p.val) = true) (m : (getPort s p.val).muted = false) {k : BitVec 15} {n : Nat}
    (hn : n = min 512 ((getPort s p.val).fseq.setWidth 15 - k).toNat) : ∃ t, exec (.frameReplay p k) s = .next t ∧ Apart s t ∧
      .retransmit p.val k n :: s.outbox <:+ t.outbox ∧ (getPort t p.val).retry = (getPort s p.val).retry + BitVec.ofNat 32 n ∧
      (getPort t p.val).fseq = (getPort s p.val).fseq := by
  have run := (exec_frameReplay (s := s) (p := p) k).trans (congrArg done (if_pos up))
  unfold replayFrames at run
  dsimp only at run
  rw [← hn] at run
  have counted := onePort_modPort s p fun b => { b with retry := b.retry + BitVec.ofNat 32 n }
  have out : (modPort s p.val fun b => { b with retry := b.retry + BitVec.ofNat 32 n }).outbox = s.outbox := rfl
  generalize (modPort s p.val fun b => { b with retry := b.retry + BitVec.ofNat 32 n }) = u at counted out run
  rw [if_neg (by rw [counted.own]; simp [m])] at run
  have told : OnePort p (fun b => { b with retry := b.retry + BitVec.ofNat 32 n }) s (emit u (.retransmit p.val k n)) :=
    ⟨counted.frame.trans (frame_emit u _).mono, counted.own, counted.others⟩
  obtain ⟨apart, own, -⟩ := told.then_settle
  exact ⟨_, run, apart, sent_settle (by rw [← out]; exact List.suffix_rfl), by rw [own], by rw [own]⟩

theorem exec_rekey : exec (.rekey p) s =
    done (if keyed s p.val && decide (2 ^ 46 ≤ (getPort s p.val).fseq.toNat) then rekey s p.val else s) := rfl
theorem exec_rekeyOverdue : exec (.rekeyOverdue p) s =
    done (if keyed s p.val && decide (2 ^ 47 ≤ (getPort s p.val).fseq.toNat) then portToTraining s p.val else s) := rfl
theorem exec_checkFailRetrain : exec (.checkFailRetrain p) s = done (if keyed s p.val &&
    decide (16 < ((getPort s p.val).checkFails.filter fun t => decide (s.ticks < t + ticksPerSec)).length) then
    portToTraining s p.val else s) := rfl

theorem rekey_begins (up : portUp (getPort s p.val) = true) (link : (getPort s p.val).perLink = true)
    (h : 2 ^ 46 ≤ (getPort s p.val).fseq.toNat) : ∃ t, exec (.rekey p) s = .next t ∧
      Apart { s with sec := { s.sec with nextKey := s.sec.nextKey + 1 } } t ∧
      getPort t p.val = { getPort s p.val with
        txKeys := (getPort s p.val).txKeys.setIfInBounds (!(getPort s p.val).keyslot).toNat (some s.sec.nextKey)
        keyslot := !(getPort s p.val).keyslot, fseq := 0, fill := 0, rekeys := (getPort s p.val).rekeys + 1 } ∧
      ∀ q, q ≠ p.val → getPort t q = getPort s q := by
  have run := (exec_rekey (s := s) (p := p)).trans (congrArg done (if_pos (by
    rw [Bool.and_eq_true, decide_eq_true_iff]
    exact ⟨by rw [keyed, up, link]; rfl, h⟩)))
  obtain ⟨u, hu⟩ : ∃ u, u = ({ s with sec := { s.sec with nextKey := s.sec.nextKey + 1 } } : State) := ⟨_, rfl⟩
  have ports (q : Nat) : getPort u q = getPort s q := by rw [hu]; rfl
  have form : rekey s p.val = tally (modPort u p.val fun b => { b with
      txKeys := b.txKeys.setIfInBounds (!b.keyslot).toNat (some s.sec.nextKey), keyslot := !b.keyslot, fseq := 0, fill := 0
      rekeys := b.rekeys + 1 }) (216 + p.val) [(0x1400 + 24 * p.val + 16, 1)] := by
    rw [hu]
    rfl
  rw [form] at run
  rw [← hu]
  have one := onePort_modPort u p fun b => { b with
      txKeys := b.txKeys.setIfInBounds (!b.keyslot).toNat (some s.sec.nextKey), keyslot := !b.keyslot, fseq := 0, fill := 0
      rekeys := b.rekeys + 1 }
  generalize (modPort u p.val fun b => { b with
      txKeys := b.txKeys.setIfInBounds (!b.keyslot).toNat (some s.sec.nextKey), keyslot := !b.keyslot, fseq := 0, fill := 0
      rekeys := b.rekeys + 1 }) = v at one run
  have counted := frame_tally v (216 + p.val) [(0x1400 + 24 * p.val + 16, 1)]
  have same (q : Nat) : getPort (settle (tally v (216 + p.val) [(0x1400 + 24 * p.val + 16, 1)])) q = getPort v q :=
    (getPort_settle _ q).trans (getPort_congr (counted .ports (by decide)) q)
  exact ⟨_, run, ((LinkMoves.of_frame one.frame).trans (.of_frame counted)).apart.then_settle, by rw [same, one.own, ports],
    fun q hq => by rw [same, one.others q hq, ports]⟩

theorem keyed_trains {i : Instr} (hb : (getPort s p.val).buf = []) (h : exec i s = done (portToTraining s p.val)) :
    ∃ t, exec i s = .next t ∧ Apart s t ∧ (getPort t p.val).st = .training ∧ (getPort t p.val).checkFails = [] := by
  obtain ⟨apart, own, -⟩ := trains_apart (s := s) (p := p) hb
  exact ⟨_, h, apart, by rw [own]; rfl, by rw [own]; rfl⟩

theorem keyed_rests {i : Instr} {c : Bool} {u : State} (h : exec i s = done (if keyed s p.val && c then u else s))
    (no : (getPort s p.val).perLink = false ∨ c = false) (rest : AtRest s) : exec i s = .next s := by
  refine next_of_atRest rest (h.trans (congrArg done (if_neg ?_)))
  rcases no with no | no <;> simp [keyed, no]

end

/-! ### A group that is lost (R279, R280) -/

section
variable {s : State} {g : Fin 9}

theorem exec_groupLost : exec (.groupLost g) s = done (loseGroup s g.val) := rfl

theorem frame_floodOut (s : State) (k : Packet) (x : Option Nat) : AllBut [.fab, .ports, .outbox] s (floodOut s k x) := by
  refine .foldl (fun s g => ?_) _ s
  split
  · exact .refl _ s
  · split
    · exact frame_sendOn s _ k
    · exact .refl _ s

/-- Sending moves nothing of the fabric but the ports. -/
def SentOnly (s t : State) : Prop := t.fab = { s.fab with ports := t.fab.ports }

theorem sentOnly_sendOn (s : State) (p : Nat) (k : Packet) : SentOnly s (sendOn s p k) := by
  unfold sendOn SentOnly
  dsimp only
  split
  · split <;> rfl
  · rfl

theorem sentOnly_floodOut (s : State) (k : Packet) (x : Option Nat) : SentOnly s (floodOut s k x) := by
  refine foldl_moves (R := SentOnly) (fun _ => rfl) (fun h k => ?_) (fun s g => ?_) _ s
  · exact k.trans (by rw [h])
  · split
    · exact rfl
    · split
      · exact sentOnly_sendOn s _ k
      · exact rfl

theorem takeKnell_knell {e : KnellEntry} (h : e.kind = 0) : (takeKnell s e).diag.knellLog = (e :: s.diag.knellLog).take 2048 ∧
    (takeKnell s e).fab.knells = s.fab.knells + 1 ∧ (takeKnell s e).fab.lostGroups = s.fab.lostGroups ∧
    (takeKnell s e).fab.wasUp = s.fab.wasUp ∧ (takeKnell s e).fab.knellSeq = s.fab.knellSeq := by
  unfold takeKnell
  extract_lets u v
  rw [if_pos h]
  have fab : (postNotice (markLost v e) 0x0005 none (knellBody e)).fab = (markLost v e).fab :=
    frame_postNotice _ _ _ _ .fab (by decide)
  have diag : (postNotice (markLost v e) 0x0005 none (knellBody e)).diag = (markLost v e).diag :=
    frame_postNotice _ _ _ _ .diag (by decide)
  rw [fab, diag]
  unfold markLost
  dsimp only
  split <;> exact ⟨rfl, rfl, rfl, rfl, rfl⟩

/-- The bit of a group. -/
def groupBit (g : Nat) : BitVec 9 := BitVec.ofNat 9 (2 ^ g)

theorem getLsbD_groupBit (g : Fin 9) (k : Nat) : (groupBit g.val).getLsbD k = decide (k = g.val) := by
  have small := g.isLt
  rw [groupBit, BitVec.getLsbD_ofNat, Nat.testBit_two_pow]
  by_cases h : k = g.val
  · simp [h]
  · simp [h, Ne.symm h]

/-- The group marked as lost. -/
def groupMarked (s : State) (g : Nat) : State :=
  modFab s fun f => { f with lostGroups := f.lostGroups ||| groupBit g, wasUp := f.wasUp &&& ~~~groupBit g }

theorem loseGroup_eq (s : State) (g : Nat) : loseGroup s g =
    if !s.fab.wasUp.getLsbD g || (groupPorts s g).any fun p => portUp (getPort s p) then s
    else floodOwn (groupMarked s g) 8 g (if (groupPorts (groupMarked s g) g).all fun p => (getPort (groupMarked s g) p).st == .retired then 1 else 0) :=
  rfl

/-- The address of a Knell: the module lost, the group, the sequence number and the reason. -/
def knellAddr (lost : BitVec 17) (g : Nat) (seq : BitVec 16) (reason : Nat) : BitVec 48 :=
  BitVec.ofNat 48 (lost.toNat + g * 2 ^ 17 + seq.toNat * 2 ^ 21 + reason * 2 ^ 37)

theorem knellAddr_group (lost : BitVec 17) (g : Fin 9) (seq : BitVec 16) (reason : Nat) :
    ((knellAddr lost g.val seq reason).extractLsb' 17 4).toNat = g.val := by
  have hg := g.isLt
  have hl := lost.isLt
  rw [knellAddr, BitVec.extractLsb'_toNat, BitVec.toNat_ofNat, Nat.shiftRight_eq_div_pow]
  omega

theorem knellAddr_seq (lost : BitVec 17) (g : Fin 9) (seq : BitVec 16) (reason : Nat) :
    (knellAddr lost g.val seq reason).extractLsb' 21 16 = seq := by
  have hg := g.isLt
  have hl := lost.isLt
  have hs := seq.isLt
  refine BitVec.eq_of_toNat_eq ?_
  rw [knellAddr, BitVec.extractLsb'_toNat, BitVec.toNat_ofNat, Nat.shiftRight_eq_div_pow]
  omega

/-- A Knell of this module's own that it has not heard is entered in its log and counted. -/
theorem floodOwn_knell (up : belfryUp s = true) (reason : Nat)
    (fresh : s.fab.knellMem.contains (s.fab.addr, s.fab.knellSeq + 1) = false) :
    (floodOwn s 8 g.val reason).fab.lostGroups = s.fab.lostGroups ∧ (floodOwn s 8 g.val reason).fab.wasUp = s.fab.wasUp ∧
    (floodOwn s 8 g.val reason).fab.knellSeq = s.fab.knellSeq + 1 ∧ (floodOwn s 8 g.val reason).fab.knells = s.fab.knells + 1 ∧
    ∃ e, (floodOwn s 8 g.val reason).diag.knellLog = (e :: s.diag.knellLog).take 2048 ∧ e.kind = 0 ∧ e.reporter = s.fab.addr ∧
      e.group.toNat = g.val ∧ e.kseq = s.fab.knellSeq + 1 := by
  unfold floodOwn
  extract_lets u lost a
  have fab : u.fab = { s.fab with knellSeq := s.fab.knellSeq + 1 } := rfl
  have diag : u.diag = s.diag := rfl
  have up' : belfryUp u = true := up
  have addr : BitVec.ofNat 48 a = knellAddr lost g.val (s.fab.knellSeq + 1) reason := rfl
  rw [addr]
  clear_value u lost
  clear addr a
  obtain ⟨k, hk⟩ : ∃ k, k = { barePacket u 8 0 with flood := true, addr := knellAddr lost g.val (s.fab.knellSeq + 1) reason } := ⟨_, rfl⟩
  rw [← hk]
  have src : k.src = s.fab.addr := by rw [hk, barePacket, fab]
  have ty : k.ptype = 8 := by rw [hk]; rfl
  have place : k.addr = knellAddr lost g.val (s.fab.knellSeq + 1) reason := by rw [hk]
  clear hk
  unfold hearFlood
  extract_lets key v
  have hkey : key = (s.fab.addr, s.fab.knellSeq + 1) := by
    show (k.src, k.addr.extractLsb' 21 16) = _
    rw [src, place, knellAddr_seq]
  have unheard : ¬ u.fab.knellMem.contains key = true := by
    rw [fab, hkey]
    exact Bool.eq_false_iff.mp fresh
  rw [if_neg unheard]
  have fabV : v.fab = { u.fab with knellMem := (key :: u.fab.knellMem).take 1024 } := rfl
  have diagV : v.diag = u.diag := rfl
  have upV : belfryUp v = true := up'
  have kind : (knellOf v k 0xFF).kind = 0 := if_pos ty
  have reporter : (knellOf v k 0xFF).reporter = s.fab.addr := src
  have group : (knellOf v k 0xFF).group.toNat = g.val := by
    show ((k.addr.extractLsb' 17 4).setWidth 8).toNat = _
    have small := knellAddr_group lost g (s.fab.knellSeq + 1) reason
    rw [← place] at small
    rw [BitVec.toNat_setWidth, small]
    exact Nat.mod_eq_of_lt (by have := g.isLt; omega)
  have seq : (knellOf v k 0xFF).kseq = s.fab.knellSeq + 1 := by
    show k.addr.extractLsb' 21 16 = _
    rw [place, knellAddr_seq]
  generalize knellOf v k 0xFF = e at kind reporter group seq
  clear_value v
  have sent := sentOnly_floodOut v k none
  have frame := frame_floodOut v k none
  have hub : (floodOut v k none).hub = v.hub := frame .hub (by decide)
  have diagW : (floodOut v k none).diag = v.diag := frame .diag (by decide)
  generalize floodOut v k none = w at sent hub diagW
  have upW : belfryUp w = true := by
    rw [← upV, belfryUp, belfryUp, hub]
  rw [belfryEvent, if_pos upW]
  obtain ⟨log, count, lostGroups, wasUp, seqKept⟩ := takeKnell_knell (s := w) kind
  rw [log, count, lostGroups, wasUp, seqKept, sent, fabV, fab, diagW, diagV, diag]
  exact ⟨rfl, rfl, rfl, rfl, e, rfl, kind, reporter, group, seq⟩

theorem groupLost_knells (was : s.fab.wasUp.getLsbD g.val = true) (down : ∀ q, q / 4 = g.val → portUp (getPort s q) = false)
    (up : belfryUp s = true) (fresh : s.fab.knellMem.contains (s.fab.addr, s.fab.knellSeq + 1) = false) :
    ∃ t, exec (.groupLost g) s = .next t ∧ Apart s t ∧ t.fab.lostGroups.getLsbD g.val = true ∧ t.fab.wasUp.getLsbD g.val = false ∧
      t.fab.knellSeq = s.fab.knellSeq + 1 ∧ t.fab.knells = s.fab.knells + 1 ∧
      (∀ k, k < 9 → k ≠ g.val → t.fab.lostGroups.getLsbD k = s.fab.lostGroups.getLsbD k) ∧
      ∃ e, t.diag.knellLog = (e :: s.diag.knellLog).take 2048 ∧ e.kind = 0 ∧ e.reporter = s.fab.addr ∧ e.group.toNat = g.val ∧
        e.kseq = s.fab.knellSeq + 1 := by
  have run := (exec_groupLost (s := s) (g := g)).trans (congrArg done ((loseGroup_eq s g.val).trans (if_neg (by
    rw [was, Bool.not_true, Bool.false_or, List.any_eq_true]
    rintro ⟨q, hq, h⟩
    exact absurd (h.symm.trans (down q (mem_groupPorts.mp hq).1)) (by decide)))))
  generalize (if (groupPorts (groupMarked s g.val) g.val).all fun p => (getPort (groupMarked s g.val) p).st == .retired then 1 else 0) =
    reason at run
  have marked : LinkMoves s (groupMarked s g.val) := linkMoves_modFab s _
  obtain ⟨lost, wasUp, seq, count, e, log, h⟩ := floodOwn_knell (s := groupMarked s g.val) (g := g) up reason fresh
  have moved := marked.trans (floodOwn_moves (groupMarked s g.val) 8 g.val reason).1
  generalize floodOwn (groupMarked s g.val) 8 g.val reason = u at run lost wasUp seq count log moved
  have own := getLsbD_groupBit g g.val
  rw [decide_eq_true rfl] at own
  refine ⟨_, run, moved.apart.then_settle, ?_, ?_, ?_, ?_, fun k hk other => ?_, e, ?_, h⟩
  · rw [settle_fab, lost]
    show (s.fab.lostGroups ||| groupBit g.val).getLsbD g.val = true
    rw [BitVec.getLsbD_or, own, Bool.or_true]
  · rw [settle_fab, wasUp]
    show (s.fab.wasUp &&& ~~~groupBit g.val).getLsbD g.val = false
    rw [BitVec.getLsbD_and, BitVec.getLsbD_not, own, Bool.not_true, Bool.and_false, Bool.and_false]
  · rw [settle_fab, seq]
    rfl
  · rw [settle_fab, count]
    rfl
  · rw [settle_fab, lost]
    show (s.fab.lostGroups ||| groupBit g.val).getLsbD k = _
    rw [BitVec.getLsbD_or, getLsbD_groupBit, decide_eq_false other, Bool.or_false]
  · rw [(settle_settled u).out.diag, log]
    rfl

theorem groupLost_rests (h : s.fab.wasUp.getLsbD g.val = false ∨ (∃ q, q < portCount s ∧ q / 4 = g.val ∧ portUp (getPort s q) = true))
    (rest : AtRest s) : exec (.groupLost g) s = .next s := by
  refine next_of_atRest rest (exec_groupLost.trans (congrArg done ((loseGroup_eq s g.val).trans (if_pos ?_))))
  rcases h with h | ⟨q, hq, group, up⟩
  · rw [h]
    rfl
  · rw [Bool.or_eq_true, List.any_eq_true]
    exact .inr ⟨q, mem_groupPorts.mpr ⟨group, hq⟩, up⟩

/-! ### The cable (R474) -/

/-- The state of a port whose cable is pulled. -/
def unplugged (b : PortBlock) : PortState := if portUp b then .relock else if b.st = .training then .down else b.st

/-- What a pulled cable does to one port. -/
def pullPort (s : State) (p : Nat) : State :=
  if portUp (getPort s p) then toRelock s p
  else if (getPort s p).st = .training then rollDone (modPort (setPortState s p .down) p fun b => { b with lanes := 0 })
  else s

theorem pullCable_eq (s : State) (g : Nat) : pullCable s g = (groupPorts s g).foldl pullPort s := rfl

theorem toRelock_moves (s : State) {p : Nat} (hp : p < 36) : LinkMoves s (toRelock s p) ∧ (getPort (toRelock s p) p).st = .relock ∧
    ∀ q, q ≠ p → PortKept (getPort s q) (getPort (toRelock s p) q) := by
  unfold toRelock
  extract_lets u
  have moved : LinkMoves s u :=
    ((linkMoves_setPortState s p .relock).trans (linkMoves_modPort _ p _)).trans (linkMoves_dropParent _ p)
  have ports (q : Nat) : getPort u q = getPort (modPort (setPortState s p .relock) p fun b => { b with relockAt := some s.ticks }) q :=
    getPort_congr (frame_dropParent _ p .ports (by decide)) q
  have own : (getPort u p).st = .relock := by rw [ports, getPort_modPort_same _ hp, setPortState_port s hp]
  have others (q : Nat) (hq : q ≠ p) : getPort u q = getPort s q := by rw [ports, getPort_modPort_other _ hq, setPortState_others s hq]
  clear_value u
  split
  · have resent := portsKept_resendBuf u p
    exact ⟨moved.trans (linkMoves_resendBuf u p), (resent p).st.trans own, fun q hq => others q hq ▸ resent q⟩
  · exact ⟨moved, own, fun q hq => others q hq ▸ .refl _⟩

theorem pullPort_moves (act : s.hub.actReq = none) {p : Nat} (hp : p < 36) : LinkMoves s (pullPort s p) ∧
    (getPort (pullPort s p) p).st = unplugged (getPort s p) ∧ ∀ q, q ≠ p → PortKept (getPort s q) (getPort (pullPort s p) q) := by
  unfold pullPort unplugged
  split
  · exact toRelock_moves s hp
  · split
    · have moved : LinkMoves s (modPort (setPortState s p .down) p fun b => { b with lanes := 0 }) :=
        (linkMoves_setPortState s p .down).trans (linkMoves_modPort _ p _)
      rw [rollDone_none (Eq.trans (congrArg (·.actReq) (moved.frame .hub (by decide))) act)]
      refine ⟨moved, ?_, fun q hq => ?_⟩
      · rw [getPort_modPort_same _ hp, setPortState_port s hp]
      · rw [getPort_modPort_other _ hq, setPortState_others s hq]
        exact .refl _
    · exact ⟨.refl s, rfl, fun _ _ => .refl _⟩

theorem pullPorts_moves {l : List Nat} (hl : ∀ p ∈ l, p < 36) (once : l.Nodup) : ∀ {s : State}, s.hub.actReq = none →
    LinkMoves s (l.foldl pullPort s) ∧
    ∀ q, (getPort (l.foldl pullPort s) q).st = if q ∈ l then unplugged (getPort s q) else (getPort s q).st := by
  induction l with
  | nil => exact fun _ => ⟨.refl _, fun q => by simp⟩
  | cons p ps ih =>
    intro s act
    obtain ⟨apart, once⟩ := List.nodup_cons.mp once
    obtain ⟨moved, own, others⟩ := pullPort_moves (s := s) act (hl p List.mem_cons_self)
    obtain ⟨rest, states⟩ := ih (fun q hq => hl q (List.mem_cons_of_mem p hq)) once
      (Eq.trans (congrArg (·.actReq) (moved.frame .hub (by decide))) act)
    refine ⟨moved.trans rest, fun q => ?_⟩
    rw [List.foldl_cons, states]
    by_cases hq : q = p
    · subst hq
      rw [if_neg apart, if_pos List.mem_cons_self, own]
    · have same : unplugged (getPort (pullPort s p) q) = unplugged (getPort s q) := by
        rw [unplugged, unplugged, portUp, portUp, (others q hq).st]
      rw [same, (others q hq).st]
      simp [hq]

theorem groupPorts_nodup (s : State) (g : Nat) : (groupPorts s g).Nodup :=
  (List.Nodup.map (fun a b h => by simpa using h) List.nodup_range).filter _

theorem exec_cblPrsnt (level : Bool) : exec (.cblPrsnt g level) s =
    done (if level then pullCable { s with pins := { s.pins with cbl := s.pins.cbl.set g level } } g.val
      else { s with pins := { s.pins with cbl := s.pins.cbl.set g level } }) := rfl

theorem cblPrsnt_pulled (act : s.hub.actReq = none) : ∃ t, exec (.cblPrsnt g true) s = .next t ∧ Apart s t ∧
    t.pins = { s.pins with cbl := s.pins.cbl.set g true } ∧
    ∀ q, q < 36 → (getPort t q).st = (if q / 4 = g.val ∧ q < portCount s then
      (if portUp (getPort s q) then .relock else if (getPort s q).st = .training then .down else (getPort s q).st)
      else (getPort s q).st) := by
  have run := exec_cblPrsnt (s := s) (g := g) true
  rw [if_pos rfl, pullCable_eq] at run
  obtain ⟨u, hu⟩ : ∃ u, u = ({ s with pins := { s.pins with cbl := s.pins.cbl.set g true } } : State) := ⟨_, rfl⟩
  rw [← hu] at run
  have members {q : Nat} : q ∈ groupPorts u g.val ↔ q / 4 = g.val ∧ q < portCount s := by
    rw [mem_groupPorts, hu]
    rfl
  obtain ⟨moved, states⟩ := pullPorts_moves (s := u) (l := groupPorts u g.val)
    (fun p hp => by have := (members.mp hp).1; have := g.isLt; omega) (groupPorts_nodup u g.val) (by rw [hu]; exact act)
  refine ⟨_, run, Apart.then_settle ?_, ?_, fun q _ => ?_⟩
  · have apart := moved.apart
    rw [hu] at apart ⊢
    exact ⟨apart.opt, apart.mem, apart.ctxs, apart.slots, apart.lcores, apart.sec, apart.pwr, apart.now, apart.latches, apart.pending⟩
  · have pinned : (settle ((groupPorts u g.val).foldl pullPort u)).pins = u.pins :=
      Eq.trans ((settle_settled _).out.pins) (moved.frame .pins (by decide))
    rw [pinned, hu]
  · have same : getPort u q = getPort s q := by rw [hu]; rfl
    rw [getPort_settle, states, same]
    by_cases h : q / 4 = g.val ∧ q < portCount s
    · rw [if_pos (members.mpr h), if_pos h]
      rfl
    · rw [if_neg (fun m => h (members.mp m)), if_neg h]

theorem cblPrsnt_plugged : Leads (.cblPrsnt g false) s { s with pins := { s.pins with cbl := s.pins.cbl.set g false } } :=
  ⟨_, exec_cblPrsnt false, settle_settled _⟩

end

/-- Settles O23. -/
theorem linksCarryFramesAndKeys : Obligations.LinksCarryFramesAndKeys := by
  unfold Obligations.LinksCarryFramesAndKeys
  refine ⟨?_, fun g s => ⟨fun was down up fresh => groupLost_knells was down up fresh, groupLost_rests, cblPrsnt_pulled, cblPrsnt_plugged⟩⟩
  rintro p b s rfl up muted none_
  refine ⟨fun fseq ack slot credit n next hnext => ⟨frameReceive_takes up muted none_ hnext, fun good => frameReceive_discards up muted none_⟩,
    fun k n => frameReplay_sends up muted, rekey_begins up, fun link overdue empty => ?_, fun link many empty => ?_, fun rest => ⟨?_, ?_, ?_⟩⟩
  · obtain ⟨t, run, apart, st, -⟩ := keyed_trains empty ((exec_rekeyOverdue (s := s) (p := p)).trans (congrArg done (if_pos (by
      rw [keyed, up, link, Bool.true_and, Bool.true_and]
      exact decide_eq_true overdue))))
    exact ⟨t, run, apart, st⟩
  · exact keyed_trains empty ((exec_checkFailRetrain (s := s) (p := p)).trans (congrArg done (if_pos (by
      rw [keyed, up, link, Bool.true_and, Bool.true_and]
      exact decide_eq_true many))))
  · exact fun no => keyed_rests exec_rekey (no.imp_right fun h => decide_eq_false (by omega)) rest
  · exact fun no => keyed_rests exec_rekeyOverdue (no.imp_right fun h => decide_eq_false (by omega)) rest
  · exact fun no => keyed_rests exec_checkFailRetrain (no.imp_right fun h => decide_eq_false (Nat.not_lt.mpr h)) rest

end Sys2Proof.Machine
end

section
-- One proof after the other: a text of this length has more proofs waiting at once than the check has threads for.
set_option Elab.async false
/-! PROOFS. Answers on the fabric (R263, R266 to R268), and the checks that a request meets (R262, R277, R315). -/
namespace Sys2Proof.Machine

/-! ### What has been sent (R255, R266) -/

section
variable {s t u : State} {k c : Packet} {q : Nat}

theorem Sent.before (h : Sent t u q c) (out : t.outbox = s.outbox) : Sent s u q c := by
  obtain ⟨f, o, before, after⟩ := h
  exact ⟨f, o, out ▸ before, after⟩

theorem Sent.after (h : Sent s t q c) (out : t.outbox <:+ u.outbox) : Sent s u q c := by
  obtain ⟨f, o, before, after⟩ := h
  exact ⟨f, o, before, after.trans out⟩

theorem Sent.settle (h : Sent s t q c) : Sent s (settle t) q c := h.after (settle_settled t).out.outbox

theorem Replies.before {n : Nat} (h : Replies t u k n) (out : t.outbox = s.outbox) : Replies s u k n := by
  obtain ⟨q, c, sent, is⟩ := h
  exact ⟨q, c, sent.before out, is⟩

theorem Replies.settle {n : Nat} (h : Replies s t k n) : Replies s (settle t) k n := by
  obtain ⟨q, c, sent, is⟩ := h
  exact ⟨q, c, sent.settle, is⟩

/-- A packet as it stands on a port. -/
def onPort (k : Packet) : Packet := { fillNblk k with vc := vcOf k.ptype k.dclass }

theorem sendOn_sent (hq : q < 36) (m : (getPort s q).muted = false) (k : Packet) : Sent s (sendOn s q k) q (onPort k) := by
  refine ⟨(List.range (framesBegun (getPort s q).fill (packetBytes (onPort k)))).map (frameOf (getPort s q)), s.outbox, List.suffix_rfl, ?_⟩
  have sent : sendOn s q k = emit (emit (setPort s q (portSends (getPort s q) (onPort k)))
      (.frames q ((List.range (framesBegun (getPort s q).fill (packetBytes (onPort k)))).map (frameOf (getPort s q))))) (.packet q (onPort k)) := by
    refine (if_pos hq).trans (if_neg ?_)
    simp [m]
  rw [sent]
  exact List.suffix_rfl

/-! ### The port of a route (R266, R267) -/

theorem weighted_mem {l : List Nat} (h : q ∈ weighted s l) : q ∈ l := by
  obtain ⟨p, hp, at_⟩ := List.mem_flatMap.mp h
  have eq : q = p := by
    split at at_
    · simpa using at_
    · simpa using at_
  exact eq ▸ hp

theorem weighted_ne {l : List Nat} (h : l ≠ []) : weighted s l ≠ [] := by
  obtain ⟨p, l, rfl⟩ := List.exists_cons_of_ne_nil h
  rw [weighted, List.flatMap_cons]
  split
  · exact List.cons_ne_nil _ _
  · exact List.cons_ne_nil _ _

theorem pickPort_some {g : Nat} {link : Bool} (h : groupUp s g link ≠ []) (k : Packet) :
    ∃ q, pickPort s g link k = some q ∧ q ∈ groupUp s g link := by
  have pos : 0 < (weighted s (groupUp s g link)).length := List.length_pos_of_ne_nil (weighted_ne h)
  have inside : (k.src.toNat ^^^ k.dst.toNat ^^^ k.reqId.toNat) % (weighted s (groupUp s g link)).length <
      (weighted s (groupUp s g link)).length := Nat.mod_lt _ pos
  exact ⟨_, List.getElem?_eq_getElem inside, weighted_mem (List.getElem_mem inside)⟩

theorem mem_groupUp {g : Nat} {link : Bool} (h : q ∈ groupUp s g link) : q / 4 = g ∧ q < 36 ∧ portUp (getPort s q) = true := by
  obtain ⟨inside, up⟩ := List.mem_filter.mp h
  obtain ⟨group, fitted⟩ := mem_groupPorts.mp inside
  exact ⟨group, Nat.lt_of_lt_of_le fitted (portCount_le s), (Bool.and_eq_true_iff.mp up).1⟩

/-- A packet whose destination can be reached leaves by a port of the first group of its route. -/
theorem route_out {link : Bool} {k' : Packet} (h : ReachesBy s link k.dst) : ∃ q, q / 4 = (routeOf s k.dst).toNat % 16 ∧ q < 36 ∧
    portUp (getPort s q) = true ∧
    route s link (fun g => pickPort s g link k') k = .out q (leaveBy s ((routeOf s k.dst).toNat % 16) k) := by
  obtain ⟨group, up, -⟩ := h
  obtain ⟨q, pick, at_⟩ := pickPort_some up k'
  obtain ⟨own, fitted, live⟩ := mem_groupUp at_
  refine ⟨q, own, fitted, live, ?_⟩
  have usable : (if (groupUp s ((routeOf s k.dst).toNat % 16) link).isEmpty then none else pickPort s ((routeOf s k.dst).toNat % 16) link k') =
      some q := (if_neg (by rw [List.isEmpty_iff]; exact up)).trans pick
  unfold route
  dsimp only
  rw [if_neg (by omega), if_neg (by omega), usable]

/-! ### A COMPL (R263) -/

/-- The answer to a request. -/
def complOf (s : State) (k : Packet) (status : Nat) : Packet :=
  { barePacket s 4 k.src with
    dctx := k.sctx, dcgen := k.scgen, sctx := k.dctx, scgen := (getCtx s k.dctx.toNat).cgen, pgen := k.pgen,
    cls := k.cls, reqId := k.reqId, addr := BitVec.ofNat 48 status }

theorem sendCompl_out (h : ReachesBy s (needsLink s k.dctx.toNat) k.src) (n : Nat) : ∃ q, q < 36 ∧
    sendCompl s k n = sendOn s q (leaveBy s ((routeOf s k.src).toNat % 16) (complOf s k n)) := by
  obtain ⟨q, -, fitted, -, out⟩ := route_out (k := complOf s k n) (k' := complOf s k n) h
  refine ⟨q, fitted, ?_⟩
  show (match route s (needsLink s k.dctx.toNat) (fun g => pickPort s g (needsLink s k.dctx.toNat) (complOf s k n)) (complOf s k n) with
    | .out p k => sendOn s p k
    | .self => sendOn s 36 (complOf s k n)
    | .refused => s
    | .noRoute => modFab s fun f => { f with dropNoroute := f.dropNoroute + 1 }) = _
  rw [out]
  rfl

/-- A COMPL goes back to the sender, and nothing of the fabric but a port moves. -/
theorem sendCompl_replies (h : ReachesBy s (needsLink s k.dctx.toNat) k.src) (n : Nat) :
    Replies s (sendCompl s k n) k n ∧ SentOnly s (sendCompl s k n) := by
  obtain ⟨q, fitted, eq⟩ := sendCompl_out h n
  rw [eq]
  exact ⟨⟨q, _, sendOn_sent fitted (h.2.2 q) _, rfl, rfl, rfl, rfl, rfl, rfl⟩, sentOnly_sendOn s q _⟩

end

/-! ### States from which the same can be reached -/

/-- Of two states the routes, the ports that are up, and whom they face are the same. -/
structure RoutesAlike (s u : State) : Prop where
  opt    : u.opt = s.opt
  hub    : u.hub = s.hub
  routes : u.fab.routes = s.fab.routes
  ports  : ∀ q, ∃ o, getPort u q = { getPort s q with owed := o }

section
variable {s u : State} {k : Packet}

theorem routesAlike_bufferFreed (s : State) (p : Nat) (ty : BitVec 4) (k : Packet) : RoutesAlike s (bufferFreed s p ty k) :=
  ⟨frame_bufferFreed s p ty k .opt (by decide), frame_bufferFreed s p ty k .hub (by decide), by rw [bufferFreed_fab],
   fun q => getPort_bufferFreed q⟩

theorem RoutesAlike.modFab {f : Fabric → Fabric} (h : RoutesAlike s u) (hr : ∀ x, (f x).routes = x.routes := by intro _; rfl)
    (hp : ∀ x, (f x).ports = x.ports := by intro _; rfl) : RoutesAlike s (modFab u f) :=
  ⟨h.opt, h.hub, (hr u.fab).trans h.routes, fun q => by rw [getPort_congr (s := u) (hp u.fab)]; exact h.ports q⟩

theorem RoutesAlike.of_frame {t : State} {l : List Part} (h : RoutesAlike s u) (k : AllBut l u t)
    (hl : ∀ q ∈ [Part.opt, .hub, .fab], q ∉ l := by decide) : RoutesAlike s t := by
  have fab : t.fab = u.fab := k .fab (hl _ (by decide))
  exact ⟨Eq.trans (k .opt (hl _ (by decide))) h.opt, Eq.trans (k .hub (hl _ (by decide))) h.hub, by rw [fab, h.routes],
    fun q => by rw [getPort_congr (congrArg Fabric.ports fab)]; exact h.ports q⟩

theorem RoutesAlike.groupUp (h : RoutesAlike s u) (g : Nat) (link : Bool) : groupUp u g link = groupUp s g link := by
  have fitted : groupPorts u g = groupPorts s g := by rw [groupPorts, portCount, h.opt, groupPorts, portCount]
  unfold Machine.groupUp
  rw [fitted]
  refine List.filter_congr fun q _ => ?_
  obtain ⟨o, ho⟩ := h.ports q
  rw [ho]
  rfl

theorem RoutesAlike.reaches (h : RoutesAlike s u) {link : Bool} {a : BitVec 17} (r : ReachesBy s link a) : ReachesBy u link a := by
  have route : routeOf u a = routeOf s a := by rw [routeOf, h.routes, routeOf]
  refine ⟨route ▸ r.1, by rw [route, h.groupUp]; exact r.2.1, fun q => ?_⟩
  obtain ⟨o, ho⟩ := h.ports q
  rw [ho]
  exact r.2.2 q

/-- Whether a context is bound to links of its own follows from its state, its partition and its keys. -/
theorem needsLink_congr {c : Nat} (hub : u.hub = s.hub) (st : (getCtx u c).st = (getCtx s c).st) (part : (getCtx u c).part = (getCtx s c).part)
    (sec : (getCtx u c).sec = (getCtx s c).sec) : needsLink u c = needsLink s c := by
  rw [needsLink, st, part, sec, isConf_congr hub, needsLink]

/-- Where a refusal can be sent, it is sent, and nothing of the fabric but a port moves. -/
theorem replies_from {n : Nat} (alike : RoutesAlike s u) (out : u.outbox = s.outbox) (link : needsLink u k.dctx.toNat = needsLink s k.dctx.toNat)
    (h : ReachesBy s (needsLink s k.dctx.toNat) k.src) : Replies s (sendCompl u k n) k n ∧ SentOnly u (sendCompl u k n) := by
  obtain ⟨told, only⟩ := sendCompl_replies (s := u) (k := k) (link ▸ alike.reaches h) n
  exact ⟨told.before out, only⟩

theorem translate_congr {c : Nat} {a : BitVec 48} (ctxs : u.ctxs = s.ctxs) (mem : u.mem = s.mem) : translate u c a = translate s c a := by
  unfold translate
  rw [getCtx_congr ctxs, mem]

end

/-! ### The checks (R262, R277, R315) -/

section
variable {s u : State} {k : Packet} {ok : Bool}

theorem takeIn_forged (he : k.e2e = true) (hf : ok = false) :
    takeIn s k ok = (sendCompl (modFab s fun f => { f with dropAuth := f.dropAuth + 1 }) k 0x06, false) := by
  rw [takeIn, hf, acceptCtr_forged he]

theorem takeIn_plain (he : k.e2e = false) : takeIn s k ok =
    if (getCtx s k.dctx.toNat).st == .fencing || (getCtx s k.dctx.toNat).st == .fenced then
      (sendCompl (modFab s fun f => { f with dropStale := f.dropStale + 1 }) k 0x09, false)
    else if (getCtx s k.dctx.toNat).st != .opened || k.dcgen != (getCtx s k.dctx.toNat).cgen then
      (sendCompl (modFab s fun f => { f with dropStale := f.dropStale + 1 }) k 0x03, false)
    else if !(getCtx s k.dctx.toNat).led.accept.getLsbD k.pgen.toNat then
      (sendCompl (modLed s k.dctx.toNat fun l => { l with pgenDrop := l.pgenDrop + 1 }) k 0x08, false)
    else (s, true) := by
  rw [takeIn, acceptCtr_plain he]

theorem takeIn_fenced (he : k.e2e = false) (h : (getCtx s k.dctx.toNat).st = .fencing ∨ (getCtx s k.dctx.toNat).st = .fenced) :
    takeIn s k ok = (sendCompl (modFab s fun f => { f with dropStale := f.dropStale + 1 }) k 0x09, false) := by
  rw [takeIn_plain he, if_pos (by rcases h with h | h <;> rw [h] <;> rfl)]

theorem takeIn_stale (he : k.e2e = false) (h : (getCtx s k.dctx.toNat).st = .closed ∨
    (getCtx s k.dctx.toNat).st = .opened ∧ k.dcgen ≠ (getCtx s k.dctx.toNat).cgen) :
    takeIn s k ok = (sendCompl (modFab s fun f => { f with dropStale := f.dropStale + 1 }) k 0x03, false) := by
  rw [takeIn_plain he]
  rcases h with h | ⟨h, gen⟩
  · rw [h]
    rfl
  · rw [h, if_neg (by decide), if_pos (by simp [gen])]

theorem takeIn_unplaced (he : k.e2e = false) (open_ : (getCtx s k.dctx.toNat).st = .opened) (gen : k.dcgen = (getCtx s k.dctx.toNat).cgen)
    (h : (getCtx s k.dctx.toNat).led.accept.getLsbD k.pgen.toNat = false) :
    takeIn s k ok = (sendCompl (modLed s k.dctx.toNat fun l => { l with pgenDrop := l.pgenDrop + 1 }) k 0x08, false) := by
  rw [takeIn_plain he, open_, if_neg (by decide), if_neg (by simp [gen]), if_pos (by rw [h]; rfl)]

theorem takeIn_admitted (h : Admitted k s) : takeIn s k ok = (s, true) := by
  obtain ⟨plain, open_, gen, placed⟩ := h
  rw [takeIn_plain plain, open_, if_neg (by decide), if_neg (by simp [gen]), if_neg (by rw [placed]; decide)]

theorem Admitted.congr (h : Admitted k s) (ctxs : u.ctxs = s.ctxs) : Admitted k u := by
  obtain ⟨plain, open_, gen, placed⟩ := h
  rw [← getCtx_congr ctxs] at open_ gen placed
  exact ⟨plain, open_, gen, placed⟩

/-- What the page of a block refuses a request with. -/
def pageFault (s : State) (c : Nat) (wr : Bool) (a : BitVec 48) : Option Nat :=
  match translate s c a with
  | .unmapped => some 0x01
  | .localPage _ _ _ _ w => if wr && !w then some 0x02 else none
  | _ => some 0x02

theorem peerFault_eq (wr : Bool) : peerFault s k wr = (requestVas k).findSome? (pageFault s k.dctx.toNat wr) := rfl

theorem requestVas_first : ∃ l, requestVas k = k.addr :: l := by
  obtain ⟨m, hm⟩ : ∃ m, max 1 k.nblk.toNat = m + 1 := ⟨max 1 k.nblk.toNat - 1, by omega⟩
  rw [requestVas, hm, List.range_succ_eq_map, List.map_cons]
  exact ⟨_, congrArg (· :: _) (BitVec.add_zero _)⟩

/-- The page of the first block decides before any other. -/
theorem peerFault_first {n : Nat} {wr : Bool} (h : pageFault s k.dctx.toNat wr k.addr = some n) : peerFault s k wr = some n := by
  obtain ⟨l, hl⟩ := requestVas_first (k := k)
  rw [peerFault_eq, hl, List.findSome?_cons, h]

theorem peerFault_unmapped {wr : Bool} (h : translate s k.dctx.toNat k.addr = .unmapped) : peerFault s k wr = some 0x01 :=
  peerFault_first (by rw [pageFault, h])

theorem peerFault_foreign {wr : Bool} (h : ∀ a b d e w, translate s k.dctx.toNat k.addr = .localPage a b d e w → wr = true ∧ w = false)
    (mapped : translate s k.dctx.toNat k.addr ≠ .unmapped) : peerFault s k wr = some 0x02 := by
  refine peerFault_first ?_
  unfold pageFault
  cases found : translate s k.dctx.toNat k.addr with
  | unmapped => exact absurd found mapped
  | localPage a b d e w =>
    obtain ⟨rfl, rfl⟩ := h a b d e w found
    rfl
  | peer => rfl
  | host => rfl
  | foreign => rfl

end

/-! ### The three requests -/

/-- A WRITE, a READ_REQ or a SIGNAL. -/
def RequestIs (ty : BitVec 4) (wr : Bool) (p : Port) (k : Packet) (ok : Bool) (c : Instr) : Prop :=
  c = .write p k ok ∧ ty = 1 ∧ wr = true ∨ c = .readReq p k ok ∧ ty = 2 ∧ wr = false ∨ c = .signalPacket p k ok ∧ ty = 5

section
variable {s w : State} {p : Port} {k : Packet} {ok wr : Bool} {ty : BitVec 4} {c : Instr}

theorem exec_writePacket (h : Arrives 1 p k s) : exec (.write p k ok) s = doneMem (serveRequest (bufferFreed s p.val 1 k)
    { die := p.val % 4, k := k, write := true } ok) := (if_pos h.wf).trans (congrArg doneMem (receive_arrives h _))
theorem exec_readReqPacket (h : Arrives 2 p k s) : exec (.readReq p k ok) s = doneMem (serveRequest (bufferFreed s p.val 2 k)
    { die := p.val % 4, k := k, write := false } ok) := (if_pos h.wf).trans (congrArg doneMem (receive_arrives h _))
theorem exec_signalPacket (h : Arrives 5 p k s) : exec (.signalPacket p k ok) s = done (takeSignal k ok (bufferFreed s p.val 5 k)) :=
  (if_pos h.wf).trans (congrArg done (receive_arrives h _))

/-- A request that the first checks refuse ends there. -/
theorem request_refused (hc : RequestIs ty wr p k ok c) (h : Arrives ty p k s) (refused : takeIn (bufferFreed s p.val ty k) k ok = (w, false))
    (calm : NoLockout w) : exec c s = done w := by
  have served (q : HeldReq) (hq : q.k = k) : serveRequest (bufferFreed s p.val ty k) q ok = w := by
    rw [serveRequest, hq, refused]
    rfl
  rcases hc with ⟨rfl, rfl, rfl⟩ | ⟨rfl, rfl, rfl⟩ | ⟨rfl, rfl⟩
  · rw [exec_writePacket h, served _ rfl, doneMem_eq calm]
  · rw [exec_readReqPacket h, served _ rfl, doneMem_eq calm]
  · rw [exec_signalPacket h, takeSignal, refused]
    rfl

/-- A WRITE or a READ_REQ that passes them meets the checks of its addresses. -/
theorem request_checked (hc : RequestIs ty wr p k ok c) (h : Arrives ty p k s) (ty5 : ty ≠ 5)
    (passed : takeIn (bufferFreed s p.val ty k) k ok = (bufferFreed s p.val ty k, true)) : exec c s = doneMem (
      if k.addr.toNat % 256 ≠ 0 then sendCompl (countHdr (bufferFreed s p.val ty k)) k 0x0A
      else match peerFault (bufferFreed s p.val ty k) k wr with
        | some st => sendCompl (bufferFreed s p.val ty k) k st
        | none => payRequest { die := p.val % 4, k := k, write := wr } (bufferFreed s p.val ty k)) := by
  rcases hc with ⟨rfl, rfl, rfl⟩ | ⟨rfl, rfl, rfl⟩ | ⟨rfl, rfl⟩
  · rw [exec_writePacket h, serveRequest, passed]
    rfl
  · rw [exec_readReqPacket h, serveRequest, passed]
    rfl
  · exact absurd rfl ty5

/-- A refusal that counts in the fabric alone. -/
theorem refusal_apart {u : State} {n : Nat} (frame : AllBut [.fab, .ports, .engines] s u) (alike : RoutesAlike s u)
    (reach : ReachesBy s (needsLink s k.dctx.toNat) k.src) : Replies s (settle (sendCompl u k n)) k n ∧
      (settle (sendCompl u k n)).fab = { u.fab with ports := (sendCompl u k n).fab.ports } ∧
      Apart s (settle (sendCompl u k n)) ∧ (sendCompl u k n).ctxs = s.ctxs := by
  have same := getCtx_congr (frame .ctxs (by decide)) k.dctx.toNat
  obtain ⟨told, only⟩ := replies_from (n := n) alike (frame .outbox (by decide))
    (needsLink_congr alike.hub (by rw [same]) (by rw [same]) (by rw [same])) reach
  have moved : AllBut [.fab, .ports, .engines, .outbox] s (sendCompl u k n) := frame.mono.trans (frame_sendCompl u k n).mono
  exact ⟨told.settle, (settle_fab _).trans only, (apart_of_allBut moved).then_settle, moved .ctxs (by decide)⟩

/-- A refusal that a count of the fabric goes with. -/
theorem counted_apart (p : Port) (ty : BitVec 4) (f : Fabric → Fabric) (n : Nat) (hr : ∀ x, (f x).routes = x.routes) (hp : ∀ x, (f x).ports = x.ports)
    (reach : ReachesBy s (needsLink s k.dctx.toNat) k.src) : ∃ w, w = sendCompl (modFab (bufferFreed s p.val ty k) f) k n ∧
      Replies s (settle w) k n ∧ (settle w).fab = { f (bufferFreed s p.val ty k).fab with ports := w.fab.ports } ∧
      Apart s (settle w) ∧ w.ctxs = s.ctxs := by
  obtain ⟨u, hu⟩ : ∃ u, u = modFab (bufferFreed s p.val ty k) f := ⟨_, rfl⟩
  have counted : AllBut [.fab, .ports, .engines] (bufferFreed s p.val ty k) u := hu ▸ (frame_modFab _ f).mono
  have fab : u.fab = f (bufferFreed s p.val ty k).fab := by rw [hu, modFab_fab]
  obtain ⟨told, fab', apart, ctxs⟩ := refusal_apart (n := n) ((frame_bufferFreed s p.val ty k).mono.trans counted)
    (hu ▸ (routesAlike_bufferFreed s p.val ty k).modFab hr hp) reach
  exact ⟨_, congrArg (fun u => sendCompl u k n) hu, told, by rw [fab', fab], apart, ctxs⟩

/-- A placement that is not taken counts in the context. -/
theorem unplaced_replies (reach : ReachesBy s (needsLink s k.dctx.toNat) k.src) :
    ∃ w, w = sendCompl (modLed (bufferFreed s p.val ty k) k.dctx.toNat fun l => { l with pgenDrop := l.pgenDrop + 1 }) k 0x08 ∧
      Replies s w k 0x08 ∧ w.mem = s.mem ∧ w.slots = s.slots ∧ (∀ c, c ≠ k.dctx.toNat → getCtx w c = getCtx s c) ∧
      getCtx w k.dctx.toNat = { getCtx s k.dctx.toNat with led :=
        { (getCtx s k.dctx.toNat).led with pgenDrop := (getCtx s k.dctx.toNat).led.pgenDrop + 1 } } := by
  have freed := frame_bufferFreed s p.val ty k
  have ctx (c : Nat) : getCtx (bufferFreed s p.val ty k) c = getCtx s c := getCtx_congr (freed .ctxs (by decide)) c
  obtain ⟨u, hu⟩ : ∃ u, u = modLed (bufferFreed s p.val ty k) k.dctx.toNat fun l => { l with pgenDrop := l.pgenDrop + 1 } := ⟨_, rfl⟩
  have counted : AllBut [.ctxs] (bufferFreed s p.val ty k) u := hu ▸ frame_modLed _ _ _
  have frame : AllBut [.fab, .ports, .ctxs] s u := freed.mono.trans counted.mono
  have own : getCtx u k.dctx.toNat = { getCtx s k.dctx.toNat with led :=
      { (getCtx s k.dctx.toNat).led with pgenDrop := (getCtx s k.dctx.toNat).led.pgenDrop + 1 } } := by
    rw [hu, modLed, getCtx_modCtx_same _ k.dctx.isLt, ctx]
  have others (c : Nat) (hc : c ≠ k.dctx.toNat) : getCtx u c = getCtx s c := by rw [hu, modLed, getCtx_modCtx_other _ hc, ctx]
  have alike : RoutesAlike s u := (routesAlike_bufferFreed s p.val ty k).of_frame counted
  obtain ⟨told, -⟩ := replies_from (n := 0x08) alike (frame .outbox (by decide))
    (needsLink_congr alike.hub (by rw [own]) (by rw [own]) (by rw [own])) reach
  have sent := frame_sendCompl u k 0x08
  have kept (c : Nat) : getCtx (sendCompl u k 0x08) c = getCtx u c := getCtx_congr (sent .ctxs (by decide)) c
  refine ⟨_, congrArg (fun u => sendCompl u k 0x08) hu, told, Eq.trans (sent .mem (by decide)) (frame .mem (by decide)),
    Eq.trans (sent .slots (by decide)) (frame .slots (by decide)), fun c hc => (kept c).trans (others c hc), (kept _).trans own⟩

end

/-- Settles O24. -/
theorem requestsMeetTheirChecks : Obligations.RequestsMeetTheirChecks := by
  rintro p k ok wr ty x c s hc h reach calm rfl
  have freed := frame_bufferFreed s p.val ty k
  have ctx : getCtx (bufferFreed s p.val ty k) k.dctx.toNat = getCtx s k.dctx.toNat := getCtx_congr (freed .ctxs (by decide)) _
  have calm' {w : State} (same : w.ctxs = s.ctxs) : NoLockout w := fun n => by
    rw [getCtx_congr same]
    exact calm n
  have alike := routesAlike_bufferFreed s p.val ty k
  refine ⟨fun he hf => ?_, fun he => ⟨fun st => ?_, fun st => ?_, fun st gen place => ?_, fun admitted ty5 => ?_⟩⟩
  · obtain ⟨w, hw, told, fab, apart, ctxs⟩ := counted_apart p ty (fun f => { f with dropAuth := f.dropAuth + 1 }) 0x06 (fun _ => rfl)
      (fun _ => rfl) reach
    refine ⟨_, request_refused hc h (hw ▸ takeIn_forged he hf) (calm' ctxs), told, ?_, apart⟩
    rw [fab, bufferFreed_fab]
  · obtain ⟨w, hw, told, fab, apart, ctxs⟩ := counted_apart p ty (fun f => { f with dropStale := f.dropStale + 1 }) 0x09 (fun _ => rfl)
      (fun _ => rfl) reach
    refine ⟨_, request_refused hc h (hw ▸ takeIn_fenced he (by rw [ctx]; exact st)) (calm' ctxs), told, ?_, apart⟩
    rw [fab, bufferFreed_fab]
  · obtain ⟨w, hw, told, fab, apart, ctxs⟩ := counted_apart p ty (fun f => { f with dropStale := f.dropStale + 1 }) 0x03 (fun _ => rfl)
      (fun _ => rfl) reach
    refine ⟨_, request_refused hc h (hw ▸ takeIn_stale he (by rw [ctx]; exact st)) (calm' ctxs), told, ?_, apart⟩
    rw [fab, bufferFreed_fab]
  · obtain ⟨w, hw, told, mem, slots, others, own⟩ := unplaced_replies (p := p) (ty := ty) reach
    have refused := takeIn_unplaced (s := bufferFreed s p.val ty k) (ok := ok) he (by rw [ctx]; exact st) (by rw [ctx]; exact gen)
      (by rw [ctx]; exact place)
    rw [← hw] at refused
    have calm'' : NoLockout w := fun n => by
      by_cases hn : n = k.dctx.toNat
      · rw [hn, own]
        exact calm _
      · rw [others n hn]
        exact calm n
    have kept (n : Nat) : getCtx (settle w) n = getCtx w n := getCtx_congr (settle_settled w).out.ctxs n
    exact ⟨_, request_refused hc h refused calm'', told.settle, (settle_settled w).out.mem.trans mem, (settle_settled w).out.slots.trans slots,
      fun c hc => (kept c).trans (others c hc), (kept _).trans own⟩
  · have run := request_checked hc h ty5 (takeIn_admitted (admitted.congr (freed .ctxs (by decide))))
    have page : translate (bufferFreed s p.val ty k) k.dctx.toNat k.addr = translate s k.dctx.toNat k.addr :=
      translate_congr (freed .ctxs (by decide)) (freed .mem (by decide))
    refine ⟨fun aligned => ?_, fun aligned => ⟨fun unmapped => ?_, fun foreign mapped => ?_⟩⟩
    · obtain ⟨w, hw, told, fab, apart, ctxs⟩ := counted_apart p ty (fun f => { f with dropHdr := f.dropHdr + 1 }) 0x0A (fun _ => rfl)
        (fun _ => rfl) reach
      rw [if_pos aligned, countHdr, ← hw, doneMem_eq (calm' ctxs)] at run
      refine ⟨_, run, told, ?_, apart⟩
      rw [fab, bufferFreed_fab]
    · obtain ⟨told, -, apart, ctxs⟩ := refusal_apart (n := 0x01) freed.mono alike reach
      rw [if_neg (not_not_intro aligned), peerFault_unmapped (page.trans unmapped)] at run
      exact ⟨_, run.trans (doneMem_eq (calm' ctxs)), told, apart⟩
    · obtain ⟨told, -, apart, ctxs⟩ := refusal_apart (n := 0x02) freed.mono alike reach
      rw [if_neg (not_not_intro aligned), peerFault_foreign (by rw [page]; exact foreign) (by rw [page]; exact mapped)] at run
      exact ⟨_, run.trans (doneMem_eq (calm' ctxs)), told, apart⟩

end Sys2Proof.Machine
end

section
-- One proof after the other: a text of this length has more proofs waiting at once than the check has threads for.
set_option Elab.async false
/-! PROOFS. A SIGNAL counts in a semaphore (R176, R177, R262). -/
namespace Sys2Proof.Machine

section
variable (c : PCore) (i v : Nat)

/-- R176: a semaphore stays at its largest value. -/
theorem semGet_semAdd_same : semGet (semAdd c i 1) i = if semGet c i = 0xFFFFFFFF then 0xFFFFFFFF else semGet c i + 1 := by
  have small := (semGet c i).isLt
  unfold semAdd
  dsimp only
  split
  · rename_i full
    have largest : semGet c i = 0xFFFFFFFF := BitVec.eq_of_toNat_eq (by simp; omega)
    rw [if_pos largest]
    exact mapGet_set_same _ _ _ _
  · rename_i room
    have less : semGet c i ≠ 0xFFFFFFFF := fun h => room (by rw [h]; decide)
    rw [if_neg less]
    refine (mapGet_set_same _ _ _ _).trans (BitVec.eq_of_toNat_eq ?_)
    simp

theorem semGet_semAdd_other {k : Nat} (h : k ≠ i) : semGet (semAdd c i v) k = semGet c k := by
  unfold semAdd
  dsimp only
  split
  · exact mapGet_set_other _ h _ _
  · exact mapGet_set_other _ h _ _

/-- Counting in a semaphore moves nothing else of the core but its own count. -/
theorem semAdd_eq : ∃ sems cnt, semAdd c i v = { c with sems := sems, cnt := cnt } := by
  unfold semAdd
  dsimp only
  split
  · exact ⟨_, _, rfl⟩
  · exact ⟨_, c.cnt, rfl⟩

theorem semAdd_streams : (semAdd c i v).streams = c.streams := by
  obtain ⟨sems, cnt, h⟩ := semAdd_eq c i v
  rw [h]

theorem semAdd_stage : (semAdd c i v).stage = c.stage := by
  obtain ⟨sems, cnt, h⟩ := semAdd_eq c i v
  rw [h]

end

/-- A core whose streams wait in no descriptor goes on as it is when a semaphore counts. -/
theorem wakeCore_semAdd {s : State} {n : Nat} (h : NoneBlocked s n) (i v : Nat) :
    wakeCore (modC s n fun c => semAdd c i v) n = modC s n fun c => semAdd c i v := by
  refine wakeCore_none fun j => ?_
  rw [getC_modC_same, getStream, semAdd_streams]
  exact h j

section
variable {s : State} {p : Port} {k : Packet} {ok : Bool}

theorem signalPacket_counts (h : Arrives 5 p k s) (adm : Admitted k s) (reach : ReachesBy s (needsLink s k.dctx.toNat) k.src)
    (none_ : NoneBlocked s k.core.toNat) (serves : inService s k.core.toNat = true) (own : (getC s k.core.toNat).ctx = some k.dctx.toNat) :
    ∃ t, exec (.signalPacket p k ok) s = .next t ∧ Replies s t k 0x00 ∧ t.mem = s.mem ∧ t.ctxs = s.ctxs ∧
      getC t k.core.toNat = semAdd (getC s k.core.toNat) k.psig.toNat 1 := by
  have freed := frame_bufferFreed s p.val 5 k
  have hub := freed .hub (by decide)
  obtain ⟨u, hu⟩ : ∃ u, u = bufferFreed s p.val 5 k := ⟨_, rfl⟩
  have alike : RoutesAlike s u := hu ▸ routesAlike_bufferFreed s p.val 5 k
  have passed : takeIn u k ok = (u, true) := hu ▸ takeIn_admitted (adm.congr (freed .ctxs (by decide)))
  rw [← hu] at freed
  have core : getC u k.core.toNat = getC s k.core.toNat := getC_congr (freed .hub (by decide)) (freed .slots (by decide)) _
  have effect : takeSignal k ok u = sendCompl (modC u k.core.toNat fun c => semAdd c k.psig.toNat 1) k 0x00 := by
    unfold takeSignal
    dsimp only
    rw [passed, if_neg (show ¬ (!true) = true by decide), if_pos, wakeCore_semAdd (fun i => by rw [core]; exact none_ i)]
    rw [inService_congr (freed .hub (by decide)), serves, core, own]
    exact beq_self_eq_true _
  have run := exec_signalPacket (ok := ok) h
  rw [← hu, effect] at run
  obtain ⟨v, hv⟩ : ∃ v, v = modC u k.core.toNat fun c => semAdd c k.psig.toNat 1 := ⟨_, rfl⟩
  have counted : AllBut [.slots] u v := hv ▸ frame_modC u _ _
  have frame : AllBut [.fab, .ports, .slots] s v := freed.mono.trans counted.mono
  have at_ : getC v k.core.toNat = semAdd (getC s k.core.toNat) k.psig.toNat 1 := by rw [hv, getC_modC_same, core]
  rw [← hv] at run
  clear hv hu
  have same := getCtx_congr (frame .ctxs (by decide)) k.dctx.toNat
  obtain ⟨told, -⟩ := replies_from (n := 0x00) (alike.of_frame counted) (frame .outbox (by decide))
    (needsLink_congr (frame .hub (by decide)) (by rw [same]) (by rw [same]) (by rw [same])) reach
  have sent := frame_sendCompl v k 0x00
  generalize sendCompl v k 0x00 = w at run told sent
  refine ⟨_, run, told.settle, ?_, ?_, ?_⟩
  · exact (settle_settled w).out.mem.trans (Eq.trans (sent .mem (by decide)) (frame .mem (by decide)))
  · exact (settle_settled w).out.ctxs.trans (Eq.trans (sent .ctxs (by decide)) (frame .ctxs (by decide)))
  · rw [getC_settled (settle_settled w), getC_congr (sent .hub (by decide)) (sent .slots (by decide)), at_]

theorem signalPacket_refused (h : Arrives 5 p k s) (adm : Admitted k s) (reach : ReachesBy s (needsLink s k.dctx.toNat) k.src)
    (no : inService s k.core.toNat = false ∨ (getC s k.core.toNat).ctx ≠ some k.dctx.toNat) :
    ∃ t, exec (.signalPacket p k ok) s = .next t ∧ Replies s t k 0x02 ∧ Apart s t := by
  have freed := frame_bufferFreed s p.val 5 k
  have passed : takeIn (bufferFreed s p.val 5 k) k ok = (bufferFreed s p.val 5 k, true) := takeIn_admitted (adm.congr (freed .ctxs (by decide)))
  have effect : takeSignal k ok (bufferFreed s p.val 5 k) = sendCompl (bufferFreed s p.val 5 k) k 0x02 := by
    unfold takeSignal
    dsimp only
    rw [passed, if_neg (show ¬ (!true) = true by decide), if_neg]
    rw [inService_congr (freed .hub (by decide)), getC_congr (freed .hub (by decide)) (freed .slots (by decide)), Bool.and_eq_true, beq_iff_eq]
    rintro ⟨serves, own⟩
    exact no.elim (fun out => absurd (serves.symm.trans out) (by decide)) (fun other => other own)
  have run := exec_signalPacket (ok := ok) h
  rw [effect] at run
  obtain ⟨told, -, apart, -⟩ := refusal_apart (n := 0x02) freed.mono (routesAlike_bufferFreed s p.val 5 k) reach
  exact ⟨_, run, told, apart⟩

end

/-- Settles O26. -/
theorem signalsCount : Obligations.SignalsCount := by
  intro p k ok s h adm reach none_
  refine ⟨fun serves own => ?_, signalPacket_refused h adm reach⟩
  obtain ⟨t, run, told, mem, ctxs, core⟩ := signalPacket_counts (ok := ok) h adm reach none_ serves own
  refine ⟨t, run, told, mem, ctxs, ?_, fun i hi => ?_, ?_, ?_⟩
  · rw [core, semGet_semAdd_same]
  · rw [core, semGet_semAdd_other _ _ _ hi]
  · rw [core, semAdd_streams]
  · rw [core, semAdd_stage]

end Sys2Proof.Machine
end

section
-- One proof after the other: a text of this length has more proofs waiting at once than the check has threads for.
set_option Elab.async false
/-! PROOFS. The blocks of module memory: what is stored and what is delivered (R203, R205, R207), and the code that corrects one symbol. -/
namespace Sys2Proof.Machine

/-! ### A block that has been stored (R207, R415) -/

section
variable {m : Mem} {pos j : Nat} {key : Option Nat} {keep : Bool} {b : Block}

theorem xor_xor_same (x y : BitVec 32) : x ^^^ (x ^^^ y) = y := by rw [← BitVec.xor_assoc, BitVec.xor_self, BitVec.zero_xor]

/-- What is stored of a block beside its bytes gives its CRC back. -/
theorem writeBlockAt_crc : crc32c b.data ^^^ mapGet (writeBlockAt m pos j key keep b).bad (blockKey pos j) 0 = b.crc := by
  unfold writeBlockAt
  dsimp only
  split
  · rename_i same
    rw [mapGet, mapGet?_erase_same]
    exact (BitVec.xor_zero).trans (BitVec.xor_eq_zero_iff.mp same)
  · rw [mapGet_set_same, xor_xor_same]

theorem writeBlockAt_data (wf : memoryWf m.cells = true) (len : b.data.length = 256) :
    memRead (writeBlockAt m pos j key keep b).cells (cellAddr pos (j * 256)) 256 = b.data := by
  have back := memRead_write wf (cellAddr pos (j * 256)) b.data
  rw [len] at back
  exact back

/-- Without a key a block is delivered as it stands. -/
theorem readBlockAt_plain (m : Mem) (pos j : Nat) (junk : Nat → Byte) : readBlockAt m pos j none junk = ⟨⟨
    memRead m.cells (cellAddr pos (j * 256)) 256,
    crc32c (memRead m.cells (cellAddr pos (j * 256)) 256) ^^^ mapGet m.bad (blockKey pos j) 0⟩, false⟩ := rfl

/-- A block is delivered as it was stored, under the key it was stored under. -/
theorem readBlockAt_write (wf : memoryWf m.cells = true) (len : b.data.length = 256) (junk : Nat → Byte) :
    readBlockAt (writeBlockAt m pos j key keep b) pos j key junk = { block := b, tagFail := false } := by
  have stored : Block.mk (memRead (writeBlockAt m pos j key keep b).cells (cellAddr pos (j * 256)) 256)
      (crc32c (memRead (writeBlockAt m pos j key keep b).cells (cellAddr pos (j * 256)) 256) ^^^
        mapGet (writeBlockAt m pos j key keep b).bad (blockKey pos j) 0) = b := by
    rw [writeBlockAt_data wf len, writeBlockAt_crc]
  cases key with
  | none => exact congrArg (fun b => Delivered.mk b false) stored
  | some q =>
    have sealed_ : mapGet? (writeBlockAt m pos j (some q) keep b).sealKey (blockKey pos j) = some q := mapGet?_set_same _ _ _
    unfold readBlockAt
    dsimp only
    rw [sealed_]
    dsimp only
    rw [if_pos rfl, stored]

theorem writeBlockAt_others {a : Nat} (len : b.data.length = 256) (h : a < cellAddr pos (j * 256) ∨ cellAddr pos (j * 256) + 256 ≤ a) :
    memGet (writeBlockAt m pos j key keep b).cells a = memGet m.cells a :=
  memGet_write_other b.data (by rw [len]; exact h)

theorem writeBlockAt_wf (wf : memoryWf m.cells = true) : memoryWf (writeBlockAt m pos j key keep b).cells = true :=
  memoryWf_write wf _ _

end

/-! ### Controllers -/

section
variable {s : State} {pos : Nat}

theorem getCtrl_congr {t : State} (h : t.mem = s.mem) (q : Nat) : getCtrl t q = getCtrl s q := by rw [getCtrl, h, getCtrl]
theorem getCtrl_modCtrl_same (h : pos < 80) (f : Ctrl → Ctrl) : getCtrl (modCtrl s pos f) pos = f (getCtrl s pos) :=
  vector_getD_set_same _ h _ _
theorem getCtrl_modCtrl_other {q : Nat} (h : q ≠ pos) (f : Ctrl → Ctrl) : getCtrl (modCtrl s pos f) q = getCtrl s q :=
  vector_getD_set_other _ h _ _
theorem modCtrl_mem (f : Ctrl → Ctrl) : (modCtrl s pos f).mem = { s.mem with ctrl := (modCtrl s pos f).mem.ctrl } := rfl

/-- A count at a controller leaves what the migrations and the map need of every controller. -/
theorem getCtrl_modCtrl_kept {α : Type} {f : Ctrl → Ctrl} (g : Ctrl → α) (h : ∀ k, g (f k) = g k) (q : Nat) :
    g (getCtrl (modCtrl s pos f) q) = g (getCtrl s q) := by
  by_cases hq : q = pos
  · subst hq
    by_cases hp : q < 80
    · rw [getCtrl_modCtrl_same hp, h]
    · have same : getCtrl (modCtrl s q f) q = getCtrl s q := by
        rw [getCtrl, modCtrl, setCtrl, vector_set_outOfBounds _ (by omega), getCtrl]
      rw [same]
  · rw [getCtrl_modCtrl_other hq]

/-- Using the metadata cache moves its lines and its count of misses. -/
theorem touchLine_eq (k : Ctrl) (a : Nat) (w : Bool) : ∃ lines miss, touchLine k a w = { k with lines := lines, metaMiss := miss } := by
  unfold touchLine
  dsimp only
  split
  · exact ⟨_, k.metaMiss, rfl⟩
  · exact ⟨_, _, rfl⟩

/-- A block that is stored counts at its controller. -/
def wrNoted (j : Nat) (keep : Bool) (k : Ctrl) : Ctrl :=
  let k := touchLine { k with wr := k.wr + 1 } (metaAddr j) true
  if keep then k else touchLine k (unitAddr (j / 16)) true

theorem wrNoted_eq (j : Nat) (keep : Bool) (k : Ctrl) :
    ∃ lines miss, wrNoted j keep k = { k with wr := k.wr + 1, lines := lines, metaMiss := miss } := by
  unfold wrNoted
  obtain ⟨l1, m1, h1⟩ := touchLine_eq { k with wr := k.wr + 1 } (metaAddr j) true
  dsimp only
  split
  · exact ⟨l1, m1, h1⟩
  · obtain ⟨l2, m2, h2⟩ := touchLine_eq (touchLine { k with wr := k.wr + 1 } (metaAddr j) true) (unitAddr (j / 16)) true
    exact ⟨l2, m2, by rw [h2, h1]⟩

theorem controllerWrite_eq (j : Nat) (key : Option Nat) (keep : Bool) (b : Block) : controllerWrite s pos j key keep b =
    modCtrl (modMem s fun m => writeBlockAt m pos j key keep b) pos (wrNoted j keep) := rfl

/-- Between two states nothing of module memory moves but its controllers. -/
def CtrlOnly (s t : State) : Prop := t.mem = { s.mem with ctrl := t.mem.ctrl }

theorem CtrlOnly.refl (s : State) : CtrlOnly s s := rfl
theorem CtrlOnly.of_mem {t : State} (h : t.mem = s.mem) : CtrlOnly s t := by rw [CtrlOnly, h]
theorem CtrlOnly.trans {t u : State} (h : CtrlOnly s t) (k : CtrlOnly t u) : CtrlOnly s u := by
  unfold CtrlOnly at *
  rw [k, h]
theorem ctrlOnly_modCtrl (f : Ctrl → Ctrl) : CtrlOnly s (modCtrl s pos f) := rfl

theorem readBlockAt_ctrl {m m' : Mem} (h : m' = { m with ctrl := m'.ctrl }) (q j : Nat) (key : Option Nat) (junk : Nat → Byte) :
    readBlockAt m' q j key junk = readBlockAt m q j key junk := by
  rw [h]
  rfl

end

/-! ### The code of a block (R203, R205) -/

section
variable {k : Nat} {x : BitVec 8}

theorem withErrs_clean {e : SymErr} (h : ∀ i, errAt e i = 0) (d : Bytes) : withErrs e d = d := by
  refine List.ext_getElem (by simp [withErrs]) fun i h1 h2 => ?_
  simp [withErrs, h]

/-- Multiplying `y` by alpha does not give `x` within `n` times. -/
def neverMeets : Nat → BitVec 8 → BitVec 8 → Bool
  | 0, _, _ => true
  | n + 1, x, y => y != x && neverMeets n x (gfX y)

theorem gfPow_add (n m : Nat) (x : BitVec 8) : gfPow (n + m) x = gfPow n (gfPow m x) := by
  induction m generalizing x with
  | zero => rfl
  | succ m ih => exact ih (gfX x)

theorem neverMeets_spec {n : Nat} {x y : BitVec 8} (h : neverMeets n x y = true) {d : Nat} (hd : d < n) : gfPow d y ≠ x := by
  induction n generalizing y d with
  | zero => omega
  | succ n ih =>
    obtain ⟨ne, rest⟩ := Bool.and_eq_true_iff.mp h
    cases d with
    | zero => exact bne_iff_ne.mp ne
    | succ d => exact ih rest (by omega)

/-- Alpha has no smaller order than the length of a half: no symbol comes back within it. -/
theorem gfX_order : ∀ x : BitVec 8, x ≠ 0 → neverMeets 129 x (gfX x) = true := by decide +kernel

theorem gfPow_ne_self {d : Nat} (hd : 0 < d) (h : d < 130) (hx : x ≠ 0) : gfPow d x ≠ x := by
  obtain ⟨n, rfl⟩ : ∃ n, d = n + 1 := ⟨d - 1, by omega⟩
  exact neverMeets_spec (gfX_order x hx) (by omega)

theorem gfX_ne_zero : ∀ x : BitVec 8, x ≠ 0 → gfX x ≠ 0 := by decide +kernel

theorem gfPow_ne_zero (n : Nat) {x : BitVec 8} (hx : x ≠ 0) : gfPow n x ≠ 0 := by
  induction n generalizing x with
  | zero => exact hx
  | succ n ih => exact ih (gfX_ne_zero x hx)

/-- The syndromes of one symbol in error name it. -/
theorem gfPow_injective {a b : Nat} (ha : a < 130) (hb : b < 130) (hx : x ≠ 0) (h : gfPow a x = gfPow b x) : a = b := by
  rcases Nat.lt_trichotomy a b with lt | eq | gt
  · obtain ⟨d, rfl⟩ : ∃ d, b = d + a := ⟨b - a, by omega⟩
    rw [gfPow_add] at h
    exact absurd h.symm (gfPow_ne_self (by omega) (by omega) (gfPow_ne_zero a hx))
  · exact eq
  · obtain ⟨d, rfl⟩ : ∃ d, a = d + b := ⟨a - b, by omega⟩
    rw [gfPow_add] at h
    exact absurd h (gfPow_ne_self (by omega) (by omega) (gfPow_ne_zero b hx))

theorem correctHalf_one (hk : k < 130) (hx : x ≠ 0) : correctHalf [(k, x)] = some ([(k, x), (k, x)], true) := by
  have syn : syndromes [(k, x)] = (x, gfPow (129 - k) x) := by
    show (0#8 ^^^ x, 0#8 ^^^ gfPow (129 - k) x) = _
    rw [BitVec.zero_xor, BitVec.zero_xor]
  have found : (List.range 130).find? (fun i => gfPow (129 - i) x == gfPow (129 - k) x) = some k := by
    rw [List.find?_range_eq_some]
    refine ⟨beq_self_eq_true _, List.mem_range.mpr hk, fun i hi => ?_⟩
    rw [Bool.not_eq_true', beq_eq_false_iff_ne]
    intro same
    have := gfPow_injective (by omega) (by omega) hx same
    omega
  unfold correctHalf
  dsimp only
  rw [syn, if_neg (by rintro ⟨h, -⟩; exact hx h), if_neg hx, found]
  rfl

theorem correctHalf_none : correctHalf [] = some ([], false) := rfl

/-- R205: one symbol in error is corrected. -/
theorem correctBlock_one {i : Nat} (hi : i < 260) (hx : x ≠ 0) : ∃ left, correctBlock [(i, x)] = (left, 1, false) ∧ ∀ n, errAt left n = 0 := by
  have own : halfOf [(i, x)] (i / 130) = [(i % 130, x)] := by simp [halfOf]
  have cancels {l : SymErr} (hl : l = [(i, x), (i, x)]) (n : Nat) : errAt l n = 0 := by
    rw [hl, errAt, List.filter_cons, List.filter_cons, List.filter_nil]
    dsimp only
    split
    · show 0 ^^^ x ^^^ x = 0
      rw [BitVec.xor_assoc, BitVec.xor_self]
      rfl
    · rfl
  have fixed := correctHalf_one (k := i % 130) (by omega) hx
  rcases (by omega : i / 130 = 0 ∨ i / 130 = 1) with h | h
  · have other : halfOf [(i, x)] 1 = [] := by simp [halfOf, h]
    have place : i % 130 = i := by omega
    rw [h, place] at own
    rw [place] at fixed
    refine ⟨[(i, x), (i, x)], ?_, cancels rfl⟩
    rw [correctBlock, readHalf, readHalf, own, other, fixed, correctHalf_none]
    rfl
  · have other : halfOf [(i, x)] 0 = [] := by simp [halfOf, h]
    have place : i % 130 + 130 = i := by omega
    rw [h] at own
    refine ⟨[(i % 130 + 130, x), (i % 130 + 130, x)], ?_, cancels (by rw [place])⟩
    rw [correctBlock, readHalf, readHalf, own, other, fixed, correctHalf_none]
    rfl

end

/-! ### A block that is read (R205) -/

section
variable {s : State} {pos j : Nat}

theorem injectedErrs_none (h : NoInjection s) (pos j : Nat) : injectedErrs s pos j = (s, []) := by
  rw [injectedErrs, takeInjection_none h]

/-- A read counts at its controller. -/
def rdNoted (j : Nat) (corr : Nat) (lost : Bool) (k : Ctrl) : Ctrl :=
  touchLine { k with
    rd := k.rd + 1, corr := k.corr + BitVec.ofNat 32 corr, uncorr := if lost then k.uncorr + 1 else k.uncorr } (metaAddr j) false

theorem rdNoted_eq (j corr : Nat) (lost : Bool) (k : Ctrl) : ∃ lines miss, rdNoted j corr lost k = { k with
    rd := k.rd + 1, corr := k.corr + BitVec.ofNat 32 corr, uncorr := if lost then k.uncorr + 1 else k.uncorr
    lines := lines, metaMiss := miss } := by
  obtain ⟨l, m, h⟩ := touchLine_eq { k with
    rd := k.rd + 1, corr := k.corr + BitVec.ofNat 32 corr, uncorr := if lost then k.uncorr + 1 else k.uncorr } (metaAddr j) false
  exact ⟨l, m, h⟩

/-- Errors that are corrected leave the block as it is stored. -/
theorem controllerRead_corrects (h : NoInjection s) {e1 e2 left : SymErr} {n : Nat} (hr : readErrs e1 e2 = (left, n, false))
    (clean : ∀ i, errAt left i = 0) : (controllerRead s pos j none e1 e2).1 =
      (if n = 0 then modCtrl s pos (rdNoted j n false)
       else tally (modCtrl s pos (rdNoted j n false)) (136 + pos) [(0x400 + 24 * pos, n), (0x408 + 24 * pos, 0)]) ∧
    ∀ junk, (controllerRead s pos j none e1 e2).2 = readBlockAt s.mem pos j none junk := by
  have zeros : ((withErrs left (List.replicate 256 0)).all (· == 0)) = true := by
    rw [withErrs_clean clean, List.all_replicate]
    rfl
  unfold controllerRead
  rw [injectedErrs_none h]
  dsimp only
  rw [List.append_nil, hr]
  dsimp only
  have cond : (((withErrs left (List.replicate 256 0)).all (· == 0)) = true) ∧ (!false) = true := ⟨zeros, rfl⟩
  rw [if_pos cond]
  refine ⟨?_, fun junk => (readBlockAt_plain _ _ _ _).trans (readBlockAt_plain _ _ _ junk).symm⟩
  by_cases hn : n = 0
  · rw [if_pos ⟨hn, rfl⟩, if_pos hn]
    rfl
  · rw [if_neg (fun h => hn h.1), if_neg hn]
    rfl

theorem readErrs_none : readErrs [] [] = ([], 0, false) := rfl

theorem controllerRead_clean (h : NoInjection s) : (controllerRead s pos j none [] []).1 = modCtrl s pos (rdNoted j 0 false) ∧
    ∀ junk, (controllerRead s pos j none [] []).2 = readBlockAt s.mem pos j none junk :=
  controllerRead_corrects h readErrs_none fun _ => rfl

end

end Sys2Proof.Machine
end

section
-- One proof after the other: a text of this length has more proofs waiting at once than the check has threads for.
set_option Elab.async false
/-! PROOFS. A controller position stores blocks and delivers them (R197, R205, R207, R384, R414, R415). -/
namespace Sys2Proof.Machine

section
variable {s : State} {p : Pos}

theorem awaitCopy_free {u : State} {ch sl : Nat} (h : ∀ m ∈ u.mem.migs, m.chan = ch → (getCtrl u m.source).migPtr.toNat ≠ sl) :
    awaitCopy u ch sl = u := by
  unfold awaitCopy
  split
  · rename_i m found
    have own : m.chan = ch := by simpa using List.find?_some found
    exact if_neg fun here => h m (List.mem_of_find?_eq_some found) own here.symm
  · rfl

/-- What is left of a burst that failed a fifth time. -/
theorem burstLost_moves (b : Block) : CtrlOnly s (burstLost s p.val b).1 ∧ AllBut [.mem, .diag, .free] s (burstLost s p.val b).1 ∧
    getCtrl (burstLost s p.val b).1 p.val = { getCtrl s p.val with uncorr := (getCtrl s p.val).uncorr + 1 } ∧
    (∀ q, (getCtrl (burstLost s p.val b).1 q).migPtr = (getCtrl s q).migPtr) ∧
    (burstLost s p.val b).2.data.length = 256 ∧ (burstLost s p.val b).2.crc = b.crc := by
  obtain ⟨u, hu⟩ : ∃ u, u = modCtrl s p.val fun k => { k with uncorr := k.uncorr + 1 } := ⟨_, rfl⟩
  have told := frame_tally { u with free := s.free + 256 } (136 + p.val) [(0x408 + 24 * p.val, 1)]
  have first : (burstLost s p.val b).1 = tally { u with free := s.free + 256 } (136 + p.val) [(0x408 + 24 * p.val, 1)] := by
    rw [hu]
    rfl
  have mem : (burstLost s p.val b).1.mem = u.mem := by
    rw [first]
    exact told .mem (by decide)
  refine ⟨?_, ?_, ?_, fun q => ?_, by simp [burstLost], rfl⟩
  · rw [CtrlOnly, mem, hu]
    rfl
  · rw [first]
    have counted : AllBut [.mem] s u := hu ▸ frame_modCtrl s _ _
    exact (counted.mono.trans (frame_free u _).mono).trans told.mono
  · rw [getCtrl_congr mem, hu, getCtrl_modCtrl_same p.isLt]
  · rw [getCtrl_congr mem, hu]
    exact getCtrl_modCtrl_kept (f := fun k => { k with uncorr := k.uncorr + 1 }) (·.migPtr) (fun _ => rfl) q

theorem exec_memoryWrite {j : Fin 16252928} {e : Bool} {c : Option Ctx} {g : BitVec 16} {x : BlockOut}
    (wf : wellFormed (.memoryWrite p j e c g x) = true) : exec (.memoryWrite p j e c g x) s =
      done (memWr s p.val j.val e (c.map (·.val)) g x.blk x.linkFails.val) := if_pos wf

theorem exec_memoryRead (j : Fin 16252928) (e : Bool) (c : Option Ctx) (g : BitVec 16) (e1 e2 : List (Fin 260 × Byte)) (f : Fin 6) :
    exec (.memoryRead p j e c g e1 ⟨e2, f⟩) s =
      doneMem (memRd s p.val j.val e (c.map (·.val)) g (symErrs e1) (symErrs e2) f.val) := rfl

/-! ### A write -/

section
variable {j : Nat} {e : Bool} {c : Option Nat} {g : BitVec 16} {b : Block} {f : Nat}

/-- R207, R212: a block that is taken is stored, with what the burst has left of it. -/
theorem memWr_stores (serves_ : serves s p.val j true = true) (gen : currentGen s c g = true)
    (good : opKey s p.val c e = none ∨ blockOk b = true) (len : b.data.length = 256)
    (free : ∀ m ∈ s.mem.migs, (getCtrl s m.source).migPtr.toNat ≠ j / 16) : ∃ u x,
      memWr s p.val j e c g b f = controllerWrite u p.val j (opKey s p.val c e) false x ∧ CtrlOnly s u ∧ AllBut [.mem, .diag, .free] s u ∧
      (f < 5 → x = b) ∧ x.data.length = 256 ∧ x.crc = b.crc ∧ (getCtrl u p.val).wr = (getCtrl s p.val).wr ∧
      (getCtrl u p.val).uncorr = (getCtrl s p.val).uncorr + (if f < 5 then 0 else 1) := by
  have taken : ¬ (!serves s p.val j true || !currentGen s c g || ((opKey s p.val c e).isSome && !blockOk b)) = true := by
    rcases good with h | h <;> simp [serves_, gen, h]
  have eq : memWr s p.val j e c g b f = controllerWrite (match chanAt s p.val with
      | some ch => awaitCopy (if 5 ≤ f then burstLost s p.val b else (s, b)).1 ch (j / 16)
      | none => (if 5 ≤ f then burstLost s p.val b else (s, b)).1) p.val j (opKey s p.val c e) false
      (if 5 ≤ f then burstLost s p.val b else (s, b)).2 := if_neg taken
  obtain ⟨ctrl, frame, own, ptr, len', crc⟩ := burstLost_moves (s := s) (p := p) b
  have waits {u : State} (h : CtrlOnly s u) (ptr : ∀ q, (getCtrl u q).migPtr = (getCtrl s q).migPtr) : (match chanAt s p.val with
      | some ch => awaitCopy u ch (j / 16)
      | none => u) = u := by
    split
    · refine awaitCopy_free fun m hm _ => ?_
      rw [ptr]
      rw [h] at hm
      exact free m hm
    · rfl
  by_cases lost : 5 ≤ f
  · rw [if_pos lost, waits ctrl ptr] at eq
    refine ⟨_, _, eq, ctrl, frame, fun h => absurd h (by omega), len', crc, by rw [own], ?_⟩
    rw [own, if_neg (by omega)]
  · rw [if_neg lost, waits (.refl s) fun _ => rfl] at eq
    refine ⟨_, _, eq, .refl s, .refl _ s, fun _ => rfl, len, rfl, rfl, ?_⟩
    rw [if_pos (by omega)]
    exact (BitVec.add_zero _).symm

theorem memWr_refused (h : serves s p.val j true = false ∨ currentGen s c g = false ∨ (∃ q, opKey s p.val c e = some q) ∧ blockOk b = false) :
    memWr s p.val j e c g b f = s := by
  refine if_pos ?_
  rcases h with h | h | ⟨⟨q, h⟩, bad⟩
  · simp [h]
  · simp [h]
  · simp [h, bad]

end

theorem memoryWrite_stores {j : Fin 16252928} {e : Bool} {c : Option Ctx} {g : BitVec 16} {b : Block} {f : Fin 6}
    (wf : wellFormed (.memoryWrite p j e c g ⟨b, f⟩) = true) (serves_ : serves s p.val j.val true = true)
    (gen : currentGen s (c.map (·.val)) g = true) (good : opKey s p.val (c.map (·.val)) e = none ∨ blockOk b = true)
    (canon : memoryWf s.mem.cells = true) (free : ∀ m ∈ s.mem.migs, (getCtrl s m.source).migPtr.toNat ≠ j.val / 16) :
    ∃ t, exec (.memoryWrite p j e c g ⟨b, f⟩) s = .next t ∧
      (∃ x : Block, (f.val < 5 → x = b) ∧ x.data.length = 256 ∧ x.crc = b.crc ∧
        (∀ junk, (readBlockAt t.mem p.val j.val (opKey s p.val (c.map (·.val)) e) junk).block = x) ∧
        memRead t.mem.cells (cellAddr p.val (j.val * 256)) 256 = x.data) ∧ memoryWf t.mem.cells = true ∧
      (∀ a, a < cellAddr p.val (j.val * 256) ∨ cellAddr p.val (j.val * 256) + 256 ≤ a →
        memGet t.mem.cells a = memGet s.mem.cells a) ∧
      (getCtrl t p.val).wr = (getCtrl s p.val).wr + 1 ∧
      (getCtrl t p.val).uncorr = (getCtrl s p.val).uncorr + (if f.val < 5 then 0 else 1) ∧
      t.mem.pmap = s.mem.pmap ∧ t.ctxs = s.ctxs ∧ t.slots = s.slots := by
  have run := exec_memoryWrite (s := s) wf
  obtain ⟨u, x, eq, ctrl, frame, same, len, crc, wr, uncorr⟩ := memWr_stores (f := f.val) serves_ gen good (beq_iff_eq.mp wf) free
  dsimp only at run
  rw [eq, controllerWrite_eq] at run
  obtain ⟨m, hm⟩ : ∃ m, m = writeBlockAt u.mem p.val j.val (opKey s p.val (c.map (·.val)) e) false x := ⟨_, rfl⟩
  have cells : u.mem.cells = s.mem.cells := by rw [ctrl]
  have wf' : memoryWf u.mem.cells = true := cells ▸ canon
  have stored (t : State) (ht : t.mem = { m with ctrl := t.mem.ctrl }) :
      (∀ junk, (readBlockAt t.mem p.val j.val (opKey s p.val (c.map (·.val)) e) junk).block = x) ∧
      memRead t.mem.cells (cellAddr p.val (j.val * 256)) 256 = x.data ∧ memoryWf t.mem.cells = true ∧
      (∀ a, a < cellAddr p.val (j.val * 256) ∨ cellAddr p.val (j.val * 256) + 256 ≤ a → memGet t.mem.cells a = memGet s.mem.cells a) ∧
      t.mem.pmap = s.mem.pmap := by
    have tc : t.mem.cells = m.cells := by rw [ht]
    refine ⟨fun junk => ?_, ?_, ?_, fun a ha => ?_, ?_⟩
    · rw [readBlockAt_ctrl ht, hm, readBlockAt_write wf' len]
    · rw [tc, hm, writeBlockAt_data wf' len]
    · rw [tc, hm]
      exact writeBlockAt_wf wf'
    · rw [tc, hm, writeBlockAt_others len ha, cells]
    · rw [ht, hm]
      show u.mem.pmap = _
      rw [ctrl]
  obtain ⟨w, hw⟩ : ∃ w, w = modMem u fun m => writeBlockAt m p.val j.val (opKey s p.val (c.map (·.val)) e) false x := ⟨_, rfl⟩
  have wmem : w.mem = m := by rw [hw, hm]; rfl
  have wctrl (q : Nat) : getCtrl w q = getCtrl u q := by rw [hw]; rfl
  have wframe : AllBut [.mem, .cells, .pmap] u w := hw ▸ frame_modMem u _
  rw [← hw] at run
  clear hw hm
  have noted := frame_modCtrl w p.val (wrNoted j.val false)
  have kept := settle_settled (modCtrl w p.val (wrNoted j.val false))
  have tmem : (settle (modCtrl w p.val (wrNoted j.val false))).mem = (modCtrl w p.val (wrNoted j.val false)).mem := kept.out.mem
  obtain ⟨back, data, canon', others, pmap⟩ := stored (settle (modCtrl w p.val (wrNoted j.val false))) (by rw [tmem, modCtrl_mem, wmem])
  have final : getCtrl (settle (modCtrl w p.val (wrNoted j.val false))) p.val = wrNoted j.val false (getCtrl u p.val) := by
    rw [getCtrl_congr tmem, getCtrl_modCtrl_same p.isLt, wctrl]
  obtain ⟨lines, miss, counts⟩ := wrNoted_eq j.val false (getCtrl u p.val)
  refine ⟨_, run, ⟨x, same, len, crc, back, data⟩, canon', others, ?_, ?_, pmap, ?_, ?_⟩
  · rw [final, counts, wr]
  · rw [final, counts, uncorr]
  · exact kept.out.ctxs.trans (Eq.trans (noted .ctxs (by decide)) (Eq.trans (wframe .ctxs (by decide)) (frame .ctxs (by decide))))
  · exact kept.out.slots.trans (Eq.trans (noted .slots (by decide)) (Eq.trans (wframe .slots (by decide)) (frame .slots (by decide))))

/-! ### A read -/

section
variable {j : Nat} {e : Bool} {c : Option Nat} {g : BitVec 16} {e1 e2 : SymErr} {f : Nat}

theorem memRd_elsewhere (h : serves s p.val j false = false) : memRd s p.val j e c g e1 e2 f = s := if_pos (by rw [h]; rfl)

theorem memRd_stale (h : serves s p.val j false = true) (gen : currentGen s c g = false) :
    memRd s p.val j e c g e1 e2 f = emit s (.memData p.val j none) := by
  unfold memRd
  rw [if_neg (by rw [h]; decide), if_pos (by rw [gen]; rfl)]

theorem memRd_reads (h : serves s p.val j false = true) (gen : currentGen s c g = true) (plain : opKey s p.val c e = none) :
    memRd s p.val j e c g e1 e2 f =
      emit (if 5 ≤ f then burstLost (controllerRead s p.val j none e1 e2).1 p.val (controllerRead s p.val j none e1 e2).2.block
          else ((controllerRead s p.val j none e1 e2).1, (controllerRead s p.val j none e1 e2).2.block)).1
        (.memData p.val j (some
          (if 5 ≤ f then burstLost (controllerRead s p.val j none e1 e2).1 p.val (controllerRead s p.val j none e1 e2).2.block
          else ((controllerRead s p.val j none e1 e2).1, (controllerRead s p.val j none e1 e2).2.block)).2)) := by
  unfold memRd
  rw [if_neg (by rw [h]; decide), if_neg (by rw [gen]; decide), plain]
  dsimp only
  rw [controllerRead_plain]
  cases c <;> rfl

end

/-- What a read that errors do not spoil leaves. -/
theorem controllerRead_leaves (h : NoInjection s) {e1 e2 left : SymErr} {n : Nat} (hr : readErrs e1 e2 = (left, n, false))
    (clean : ∀ i, errAt left i = 0) (j : Nat) : (getCtrl (controllerRead s p.val j none e1 e2).1 p.val).rd = (getCtrl s p.val).rd + 1 ∧
      (getCtrl (controllerRead s p.val j none e1 e2).1 p.val).corr = (getCtrl s p.val).corr + BitVec.ofNat 32 n ∧
      (getCtrl (controllerRead s p.val j none e1 e2).1 p.val).uncorr = (getCtrl s p.val).uncorr ∧
      (controllerRead s p.val j none e1 e2).2.block = ⟨memRead s.mem.cells (cellAddr p.val (j * 256)) 256,
        crc32c (memRead s.mem.cells (cellAddr p.val (j * 256)) 256) ^^^ mapGet s.mem.bad (blockKey p.val j) 0⟩ := by
  obtain ⟨state, block⟩ := controllerRead_corrects (s := s) (pos := p.val) (j := j) h hr clean
  obtain ⟨lines, miss, counts⟩ := rdNoted_eq j n false (getCtrl s p.val)
  have mem : (controllerRead s p.val j none e1 e2).1.mem = (modCtrl s p.val (rdNoted j n false)).mem := by
    rw [state]
    split
    · rfl
    · exact frame_tally _ _ _ .mem (by decide)
  have own : getCtrl (controllerRead s p.val j none e1 e2).1 p.val = rdNoted j n false (getCtrl s p.val) := by
    rw [getCtrl_congr mem, getCtrl_modCtrl_same p.isLt]
  refine ⟨by rw [own, counts], by rw [own, counts], by rw [own, counts]; rfl, ?_⟩
  rw [block fun _ => 0, readBlockAt_plain]

theorem memoryRead_delivers {j : Fin 16252928} {e : Bool} {c : Option Ctx} {g : BitVec 16} {f : Fin 6} (none_ : NoInjection s)
    (calm : NoLockout s) (serves_ : serves s p.val j.val false = true) (gen : currentGen s (c.map (·.val)) g = true)
    (plain : opKey s p.val (c.map (·.val)) e = none) {e1 : List (Fin 260 × Byte)} {left : SymErr} {n : Nat}
    (hr : readErrs (symErrs e1) [] = (left, n, false)) (clean : ∀ i, errAt left i = 0) {d : Bytes}
    (hd : d = memRead s.mem.cells (cellAddr p.val (j.val * 256)) 256) : ∃ t x, exec (.memoryRead p j e c g e1 ⟨[], f⟩) s = .next t ∧
      t.mem.cells = s.mem.cells ∧ t.ctxs = s.ctxs ∧ (f.val < 5 → x = d) ∧
      .memData p.val j.val (some ⟨x, crc32c d ^^^ mapGet s.mem.bad (blockKey p.val j.val) 0⟩) :: s.outbox <:+ t.outbox ∧
      (getCtrl t p.val).rd = (getCtrl s p.val).rd + 1 ∧ (getCtrl t p.val).corr = (getCtrl s p.val).corr + BitVec.ofNat 32 n ∧
      (getCtrl t p.val).uncorr = (getCtrl s p.val).uncorr + (if f.val < 5 then 0 else 1) := by
  have run := exec_memoryRead (s := s) (p := p) j e c g e1 [] f
  rw [memRd_reads serves_ gen plain, show symErrs [] = [] from rfl] at run
  obtain ⟨rd, corr, uncorr, block⟩ := controllerRead_leaves (p := p) none_ hr clean j.val
  have frame := frame_controllerRead s p.val j.val none (symErrs e1) []
  generalize controllerRead s p.val j.val none (symErrs e1) [] = r at run rd corr uncorr block frame
  obtain ⟨-, lost, own, -, -, crc⟩ := burstLost_moves (s := r.1) (p := p) r.2.block
  obtain ⟨q, hq⟩ : ∃ q, q = (if 5 ≤ f.val then burstLost r.1 p.val r.2.block else (r.1, r.2.block)) := ⟨_, rfl⟩
  have moved : AllBut [.mem, .diag, .free] s q.1 ∧ (f.val < 5 → q.2 = r.2.block) ∧ q.2.crc = r.2.block.crc ∧
      (getCtrl q.1 p.val).rd = (getCtrl r.1 p.val).rd ∧ (getCtrl q.1 p.val).corr = (getCtrl r.1 p.val).corr ∧
      (getCtrl q.1 p.val).uncorr = (getCtrl r.1 p.val).uncorr + (if f.val < 5 then 0 else 1) := by
    by_cases five : 5 ≤ f.val
    · rw [hq, if_pos five, if_neg (by omega)]
      exact ⟨frame.trans lost, fun h => absurd h (by omega), crc, by rw [own], by rw [own], by rw [own]⟩
    · rw [hq, if_neg five, if_pos (by omega)]
      exact ⟨frame, fun _ => rfl, rfl, rfl, rfl, (BitVec.add_zero _).symm⟩
  rw [← hq] at run
  clear hq lost own
  obtain ⟨frame', same, crc', rd', corr', uncorr'⟩ := moved
  have sent := frame_emit q.1 (.memData p.val j.val (some q.2))
  have ctxs : (emit q.1 (.memData p.val j.val (some q.2))).ctxs = s.ctxs := Eq.trans (sent .ctxs (by decide)) (frame' .ctxs (by decide))
  have calm' : NoLockout (emit q.1 (.memData p.val j.val (some q.2))) := fun k => by
    rw [getCtx_congr ctxs]
    exact calm k
  rw [doneMem_eq calm'] at run
  have kept := settle_settled (emit q.1 (.memData p.val j.val (some q.2)))
  have mem : (settle (emit q.1 (.memData p.val j.val (some q.2)))).mem = q.1.mem := kept.out.mem
  have ctrl := getCtrl_congr mem p.val
  have out : q.1.outbox = s.outbox := frame' .outbox (by decide)
  refine ⟨_, q.2.data, run, ?_, kept.out.ctxs.trans ctxs, fun few => ?_, ?_, ?_, ?_, ?_⟩
  · rw [mem]
    exact frame' .cells (by decide)
  · rw [same few, block, hd]
  · have shown : q.2 = ⟨q.2.data, crc32c d ^^^ mapGet s.mem.bad (blockKey p.val j.val) 0⟩ := by
      rw [hd, show crc32c (memRead s.mem.cells (cellAddr p.val (j.val * 256)) 256) ^^^ mapGet s.mem.bad (blockKey p.val j.val) 0 = q.2.crc by
        rw [crc', block]]
    rw [← shown, ← out]
    exact sent_settle List.suffix_rfl
  · rw [ctrl, rd', rd]
  · rw [ctrl, corr', corr]
  · rw [ctrl, uncorr', uncorr]

end

/-- Settles O48. -/
theorem controllersKeepBlocks : Obligations.ControllersKeepBlocks := by
  intro p j e c g b s f wf
  refine ⟨memoryWrite_stores wf, fun refused rest => ?_, fun serves_ gen plain none_ calm d hd => ⟨?_, fun i x hx few => ?_⟩,
    fun serves_ gen calm e1 e2 => ?_, fun elsewhere calm e1 e2 => ?_⟩
  · exact next_of_atRest rest ((exec_memoryWrite wf).trans (congrArg done (memWr_refused refused)))
  · obtain ⟨t, x, run, cells, ctxs, same, sent, rd, corr, uncorr⟩ :=
      memoryRead_delivers (f := f) none_ calm serves_ gen plain (e1 := []) readErrs_none (fun _ => rfl) hd
    exact ⟨t, x, run, cells, ctxs, same, sent, rd, corr.trans (BitVec.add_zero _), uncorr⟩
  · obtain ⟨left, corrects, clean⟩ := correctBlock_one i.isLt hx
    have hr : readErrs (symErrs [(i, x)]) [] = (left, 1, false) := by
      unfold readErrs
      rw [show correctBlock (symErrs [(i, x)]) = (left, 1, false) from corrects]
      rfl
    obtain ⟨t, y, run, cells, -, same, sent, -, corr, uncorr⟩ := memoryRead_delivers (f := f) none_ calm serves_ gen plain hr clean hd
    rw [same few] at sent
    rw [if_pos few] at uncorr
    exact ⟨t, run, cells, sent, corr, uncorr.trans (BitVec.add_zero _)⟩
  · refine leads_done ((exec_memoryRead j e c g e1 e2 f).trans ?_) (.refl _)
    rw [memRd_stale serves_ gen]
    exact doneMem_eq calm
  · refine leads_done ((exec_memoryRead j e c g e1 e2 f).trans ?_) (.refl _)
    rw [memRd_elsewhere elsewhere, doneMem_eq calm]

end Sys2Proof.Machine
end

section
-- One proof after the other: a text of this length has more proofs waiting at once than the check has threads for.
set_option Elab.async false
/-! PROOFS. A WRITE and a READ_REQ of one block reach module memory, or wait for their tokens (R205, R207, R219, R262). -/
namespace Sys2Proof.Machine

/-! ### Tokens (R219) -/

section
variable {s t u : State} {d cls b : Nat}

/-- Between two states nothing of module memory moves but the tokens. -/
def TokensOnly (s t : State) : Prop := t.mem = { s.mem with buckets := t.mem.buckets, pool := t.mem.pool }

theorem takeTokens_mem (h : takeTokens s d cls b = some t) : TokensOnly s t := by
  unfold takeTokens at h
  dsimp only at h
  split at h
  · obtain rfl := Option.some.inj h
    rfl
  · split at h
    · obtain rfl := Option.some.inj h
      rfl
    · cases h

theorem takeTokens_isSome_congr (hub : u.hub = s.hub) (mem : u.mem = s.mem) :
    (takeTokens u d cls b).isSome = (takeTokens s d cls b).isSome := by
  have owner : dieOwner u d = dieOwner s d := by rw [dieOwner, hub, dieOwner]
  have bucket (p : Nat) : getBucket u p cls = getBucket s p cls := by rw [getBucket, mem, getBucket]
  unfold takeTokens sliceOf
  rw [owner, bucket, mem]
  dsimp only
  split
  · rfl
  · split <;> rfl

/-- The tokens of a request do not depend on how many blocks it names. -/
theorem takeTokens_isSome_any (n : Nat) : (takeTokens s d cls b).isSome = (takeTokens s d cls n).isSome := by
  unfold takeTokens
  dsimp only
  split
  · rfl
  · split <;> rfl

/-! ### Where a block lies -/

/-- Of two states a virtual address leads to the same block, under the same key. -/
structure PlacesAlike (s u : State) : Prop where
  opt  : u.opt = s.opt
  hub  : u.hub = s.hub
  ctxs : u.ctxs = s.ctxs
  pmap : u.mem.pmap = s.mem.pmap
  migs : u.mem.migs = s.mem.migs
  ptr  : ∀ q, (getCtrl u q).migPtr = (getCtrl s q).migPtr

theorem placesAlike_tokens (h : takeTokens s d cls b = some t) : PlacesAlike s t := by
  have frame := frame_takeTokens h
  have mem := takeTokens_mem h
  exact ⟨frame .opt (by decide), frame .hub (by decide), frame .ctxs (by decide), by rw [mem], by rw [mem], fun q => by
    rw [getCtrl, mem, getCtrl]⟩

theorem PlacesAlike.of_frame {l : List Part} (h : AllBut l s u) (hl : ∀ q ∈ [Part.opt, .hub, .ctxs, .mem], q ∉ l := by decide) :
    PlacesAlike s u := by
  have mem : u.mem = s.mem := h .mem (hl _ (by decide))
  exact ⟨h .opt (hl _ (by decide)), h .hub (hl _ (by decide)), h .ctxs (hl _ (by decide)), by rw [mem], by rw [mem],
    fun q => by rw [getCtrl_congr mem]⟩

theorem PlacesAlike.trans (h : PlacesAlike s t) (k : PlacesAlike t u) : PlacesAlike s u :=
  ⟨k.opt.trans h.opt, k.hub.trans h.hub, k.ctxs.trans h.ctxs, k.pmap.trans h.pmap, k.migs.trans h.migs, fun q => (k.ptr q).trans (h.ptr q)⟩

namespace PlacesAlike
variable (h : PlacesAlike s u)
include h

theorem translate (c : Nat) (a : BitVec 48) : Machine.translate u c a = Machine.translate s c a := by
  unfold Machine.translate
  rw [getCtx_congr h.ctxs, h.pmap]

theorem placeByte (p pg off : Nat) : Machine.placeByte u p pg off = Machine.placeByte s p pg off := placeByte_congr h.opt h.hub p pg off

theorem servePos (ch sl : Nat) (wr : Bool) : Machine.servePos u ch sl wr = Machine.servePos s ch sl wr := by
  unfold Machine.servePos
  rw [h.migs, chanPos_congr h.opt h.hub]
  split
  · rw [h.ptr]
  · rfl

theorem ctxKey (c : Nat) (e : Bool) : Machine.ctxKey u c e = Machine.ctxKey s c e := by
  unfold Machine.ctxKey
  dsimp only
  rw [getCtx_congr h.ctxs, isConf_congr h.hub]

end PlacesAlike

/-! ### The block of a local page -/

section
variable {c p pg off ch byte : Nat} {e keep : Bool} {b : Block}

theorem writeLocal_at (place : placeByte s p pg off = (ch, byte))
    (free : ∀ m ∈ s.mem.migs, m.chan = ch → (getCtrl s m.source).migPtr.toNat ≠ byte / 4096) : writeLocal s c p pg off e keep b =
      controllerWrite s (servePos s ch (byte / 4096) true) (byte / 256) (ctxKey s c e) keep b := by
  unfold writeLocal
  rw [place]
  dsimp only
  rw [awaitCopy_free free]

theorem readLocal_at (none_ : NoInjection s) (place : placeByte s p pg off = (ch, byte)) (open_ : isConf s (getCtx s c).part = false) :
    readLocal s c p pg off e = (modCtrl s (servePos s ch (byte / 4096) false) (rdNoted (byte / 256) 0 false),
      ⟨memRead s.mem.cells (cellAddr (servePos s ch (byte / 4096) false) (byte / 256 * 256)) 256,
       crc32c (memRead s.mem.cells (cellAddr (servePos s ch (byte / 4096) false) (byte / 256 * 256)) 256) ^^^
         mapGet s.mem.bad (blockKey (servePos s ch (byte / 4096) false) (byte / 256)) 0⟩) := by
  obtain ⟨state, block⟩ := controllerRead_clean (s := s) (pos := servePos s ch (byte / 4096) false) (j := byte / 256) none_
  have block' := (block fun _ => 0).trans (readBlockAt_plain _ _ _ _)
  unfold readLocal
  rw [place]
  dsimp only
  rw [ctxKey_plain open_, block', state]
  rfl

end

end

/-! ### The checks of a request of one block -/

section
variable {s u : State} {k : Packet} {p : Port} {ty : BitVec 4} {wr : Bool} {part pg off : Nat} {e w : Bool}

theorem requestVas_one (h : k.nblk = 1) : requestVas k = [k.addr] := by
  rw [requestVas, h]
  exact congrArg (· :: []) (BitVec.add_zero _)

theorem peerFault_none (one : k.nblk = 1) (page : translate s k.dctx.toNat k.addr = .localPage part pg off e w) (h : wr = true → w = true) :
    peerFault s k wr = none := by
  have fine : pageFault s k.dctx.toNat wr k.addr = none := by
    rw [pageFault, page]
    dsimp only
    refine if_neg ?_
    cases wr with
    | false => simp
    | true => simp [h rfl]
  rw [peerFault_eq, requestVas_one one, List.findSome?_cons, fine]
  rfl

/-- What has left its buffer leads to where it led. -/
theorem placesAlike_bufferFreed (s : State) (p : Nat) (ty : BitVec 4) (k : Packet) : PlacesAlike s (bufferFreed s p ty k) :=
  .of_frame (frame_bufferFreed s p ty k)

theorem payRequest_waits {q : HeldReq} (h : ¬ ((∀ h ∈ s.fab.held, h.die = q.die → h.k.cls.toNat ≠ q.k.cls.toNat) ∧
    (takeTokens s q.die q.k.cls.toNat q.k.nblk.toNat).isSome = true)) :
    payRequest q s = modFab (holdTokens s q.die q.k.cls.toNat) fun f => { f with held := f.held ++ [q] } := by
  unfold payRequest
  dsimp only
  split
  · rfl
  · rename_i first
    cases taken : takeTokens s q.die q.k.cls.toNat q.k.nblk.toNat with
    | none => rfl
    | some v =>
      refine absurd ⟨fun x hx die cls => first ?_, by rw [taken]; rfl⟩ h
      rw [List.any_eq_true]
      exact ⟨x, hx, by simp [die, BitVec.eq_of_toNat_eq cls]⟩

theorem payRequest_pays {q : HeldReq} {v : State} (first : ∀ h ∈ s.fab.held, h.die = q.die → h.k.cls.toNat ≠ q.k.cls.toNat)
    (taken : takeTokens s q.die q.k.cls.toNat q.k.nblk.toNat = some v) : payRequest q s = doRequest q v := by
  unfold payRequest
  dsimp only
  rw [if_neg, taken]
  rw [List.any_eq_true]
  rintro ⟨x, hx, same⟩
  obtain ⟨die, cls⟩ := Bool.and_eq_true_iff.mp same
  exact first x hx (beq_iff_eq.mp die) (congrArg BitVec.toNat (beq_iff_eq.mp cls))

/-- A request of one block of a local page has only its tokens to find. -/
theorem request_pays {c : Instr} {ok : Bool} (hc : RequestIs ty wr p k ok c) (ty5 : ty ≠ 5) (h : Arrives ty p k s) (adm : Admitted k s)
    (one : k.nblk = 1) (aligned : k.addr.toNat % 256 = 0) (page : translate s k.dctx.toNat k.addr = .localPage part pg off e w)
    (writable : wr = true → w = true) :
    exec c s = doneMem (payRequest { die := p.val % 4, k := k, write := wr } (bufferFreed s p.val ty k)) := by
  have alike := placesAlike_bufferFreed s p.val ty k
  rw [request_checked hc h ty5 (takeIn_admitted (adm.congr alike.ctxs)), if_neg (not_not_intro aligned),
    peerFault_none one ((alike.translate _ _).trans page) writable]

/-- With its tokens there it is served at once. -/
theorem tokens_taken (tokens : HasTokens s p.val k.cls.toNat 1) (one : k.nblk = 1) : ∃ v,
    payRequest { die := p.val % 4, k := k, write := wr } (bufferFreed s p.val ty k) = doRequest { die := p.val % 4, k := k, write := wr } v ∧
      AllBut [.fab, .ports, .mem] s v ∧ PlacesAlike s v ∧ RoutesAlike s v ∧ v.mem = { s.mem with buckets := v.mem.buckets, pool := v.mem.pool } := by
  have freed := frame_bufferFreed s p.val ty k
  obtain ⟨first, some_⟩ := tokens
  have found : (takeTokens (bufferFreed s p.val ty k) (p.val % 4) k.cls.toNat k.nblk.toNat).isSome = true := by
    rw [takeTokens_isSome_congr (freed .hub (by decide)) (freed .mem (by decide)), one]
    exact some_
  obtain ⟨v, taken⟩ := Option.isSome_iff_exists.mp found
  have mem : (bufferFreed s p.val ty k).mem = s.mem := freed .mem (by decide)
  refine ⟨v, payRequest_pays (q := { die := p.val % 4, k := k, write := wr }) ?_ taken, freed.mono.trans (frame_takeTokens taken).mono,
    (placesAlike_bufferFreed s p.val ty k).trans (placesAlike_tokens taken),
    (routesAlike_bufferFreed s p.val ty k).of_frame (frame_takeTokens taken), ?_⟩
  · rw [bufferFreed_fab]
    exact first
  · have only := takeTokens_mem taken
    rw [TokensOnly, mem] at only
    exact only

end

/-! ### A WRITE (R207, R262) -/

section
variable {s : State} {p : Port} {k : Packet} {b : Block} {ok : Bool} {part pg off byte pos ch j : Nat} {e : Bool}

theorem write_runs (h : Arrives 1 p k s) (adm : Admitted k s) (tokens : HasTokens s p.val k.cls.toNat 1) (blocks : k.blocks = [b])
    (aligned : k.addr.toNat % 256 = 0) (page : translate s k.dctx.toNat k.addr = .localPage part pg off e true) : ∃ v,
      exec (.write p k ok) s = doneMem (sendCompl (if blockOk b then writeLocal v k.dctx.toNat part pg off e false b else v) k
        (if blockOk b then 0x00 else 0x05)) ∧ b.data.length = 256 ∧
      AllBut [.fab, .ports, .mem] s v ∧ PlacesAlike s v ∧ RoutesAlike s v ∧ v.mem = { s.mem with buckets := v.mem.buckets, pool := v.mem.pool } := by
  have wf := h.wf
  simp only [packetWf, blocks, h.ty, Bool.and_eq_true, List.all_cons, List.all_nil] at wf
  obtain ⟨⟨-, len, -⟩, count⟩ := wf
  rw [if_neg (by decide)] at count
  have one : k.nblk = 1 := BitVec.eq_of_toNat_eq (beq_iff_eq.mp count).symm
  obtain ⟨v, pays, frame, alike, routes, mem⟩ := tokens_taken (wr := true) (ty := 1) tokens one
  have run := request_pays (c := .write p k ok) (ok := ok) (.inl ⟨rfl, rfl, rfl⟩) (by decide) h adm one aligned page fun _ => rfl
  refine ⟨v, run.trans (congrArg doneMem (pays.trans ?_)), beq_iff_eq.mp len, frame, alike, routes, mem⟩
  show takeWrite k v = _
  have stored : storeBlock v k.dctx.toNat k.addr b = if blockOk b then writeLocal v k.dctx.toNat part pg off e false b else v := by
    rw [storeBlock, alike.translate, page]
  unfold takeWrite
  dsimp only
  rw [requestVas_one one, blocks, List.zip_cons_cons, List.zip_nil_left, List.foldl_cons, List.foldl_nil, stored]
  simp

theorem sendCompl_from {w : State} {n : Nat} (calm : NoLockout s) (reach : ReachesBy s (needsLink s k.dctx.toNat) k.src)
    (routes : RoutesAlike s w) (frame : AllBut [.fab, .ports, .mem, .cells] s w) : ∃ t, doneMem (sendCompl w k n) = .next t ∧
      Replies s t k n ∧ t.mem = w.mem ∧ t.ctxs = s.ctxs ∧ t.slots = s.slots := by
  have ctx := getCtx_congr (frame .ctxs (by decide)) k.dctx.toNat
  obtain ⟨told, -⟩ := replies_from (n := n) routes (frame .outbox (by decide))
    (needsLink_congr (frame .hub (by decide)) (by rw [ctx]) (by rw [ctx]) (by rw [ctx])) reach
  have sent := frame_sendCompl w k n
  have ctxs : (sendCompl w k n).ctxs = s.ctxs := Eq.trans (sent .ctxs (by decide)) (frame .ctxs (by decide))
  have calm' : NoLockout (sendCompl w k n) := fun c => by
    rw [getCtx_congr ctxs]
    exact calm c
  have kept := settle_settled (sendCompl w k n)
  exact ⟨_, doneMem_eq calm', told.settle, kept.out.mem.trans (sent .mem (by decide)), kept.out.ctxs.trans ctxs,
    kept.out.slots.trans (Eq.trans (sent .slots (by decide)) (frame .slots (by decide)))⟩

theorem write_refuses (h : Arrives 1 p k s) (adm : Admitted k s) (reach : ReachesBy s (needsLink s k.dctx.toNat) k.src) (calm : NoLockout s)
    (tokens : HasTokens s p.val k.cls.toNat 1) (blocks : k.blocks = [b]) (aligned : k.addr.toNat % 256 = 0)
    (page : translate s k.dctx.toNat k.addr = .localPage part pg off e true) (bad : blockOk b = false) :
    ∃ t, exec (.write p k ok) s = .next t ∧ Replies s t k 0x05 ∧ t.mem.cells = s.mem.cells ∧ t.mem.bad = s.mem.bad ∧
      t.ctxs = s.ctxs ∧ t.slots = s.slots := by
  obtain ⟨v, run, -, frame, -, routes, mem⟩ := write_runs (ok := ok) h adm tokens blocks aligned page
  rw [bad] at run
  obtain ⟨t, done_, told, tmem, ctxs, slots⟩ := sendCompl_from (n := 0x05) calm reach routes frame.mono
  exact ⟨t, run.trans done_, told, by rw [tmem, mem], by rw [tmem, mem], ctxs, slots⟩

theorem write_stores (h : Arrives 1 p k s) (adm : Admitted k s) (reach : ReachesBy s (needsLink s k.dctx.toNat) k.src) (calm : NoLockout s)
    (tokens : HasTokens s p.val k.cls.toNat 1) (canon : memoryWf s.mem.cells = true) (blocks : k.blocks = [b])
    (aligned : k.addr.toNat % 256 = 0) (page : translate s k.dctx.toNat k.addr = .localPage part pg off e true)
    (place : placeByte s part pg off = (ch, byte)) (free : ∀ g ∈ s.mem.migs, g.chan = ch → byte / 4096 ≠ (getCtrl s g.source).migPtr.toNat)
    (hpos : pos = servePos s ch (byte / 4096) true) (hj : j = byte / 256) (good : blockOk b = true) :
    ∃ t, exec (.write p k ok) s = .next t ∧ Replies s t k 0x00 ∧
      (∀ junk, (readBlockAt t.mem pos j (ctxKey s k.dctx.toNat e) junk).block = b) ∧
      memRead t.mem.cells (cellAddr pos (j * 256)) 256 = b.data ∧ memoryWf t.mem.cells = true ∧
      (∀ a, a < cellAddr pos (j * 256) ∨ cellAddr pos (j * 256) + 256 ≤ a → memGet t.mem.cells a = memGet s.mem.cells a) ∧
      t.ctxs = s.ctxs ∧ t.slots = s.slots ∧ t.mem.pmap = s.mem.pmap := by
  obtain ⟨v, run, len, frame, alike, routes, mem⟩ := write_runs (ok := ok) h adm tokens blocks aligned page
  rw [good, if_pos rfl, if_pos rfl, writeLocal_at ((alike.placeByte _ _ _).trans place) (fun m hm own => by
    rw [alike.ptr]
    exact (free m (alike.migs ▸ hm) own).symm), alike.servePos, ← hpos, ← hj, alike.ctxKey] at run
  have stored := frame_controllerWrite v pos j (ctxKey s k.dctx.toNat e) false b
  obtain ⟨t, done_, told, tmem, ctxs, slots⟩ := sendCompl_from (n := 0x00) calm reach (routes.of_frame stored) (frame.mono.trans stored.mono)
  have cells : v.mem.cells = s.mem.cells := by rw [mem]
  have canon' : memoryWf v.mem.cells = true := cells ▸ canon
  obtain ⟨m, hm⟩ : ∃ m, m = writeBlockAt v.mem pos j (ctxKey s k.dctx.toNat e) false b := ⟨_, rfl⟩
  have shape : t.mem = { m with ctrl := t.mem.ctrl } := by
    rw [tmem, controllerWrite_eq, modCtrl_mem, hm]
    rfl
  have tc : t.mem.cells = m.cells := by rw [shape]
  refine ⟨t, run.trans done_, told, fun junk => ?_, ?_, ?_, fun a ha => ?_, ctxs, slots, ?_⟩
  · rw [readBlockAt_ctrl shape, hm, readBlockAt_write canon' len]
  · rw [tc, hm, writeBlockAt_data canon' len]
  · rw [tc, hm]
    exact writeBlockAt_wf canon'
  · rw [tc, hm, writeBlockAt_others len ha, cells]
  · rw [shape, hm]
    show v.mem.pmap = _
    rw [mem]

end

/-! ### A READ_REQ (R205, R262) -/

section
variable {s : State} {p : Port} {k : Packet} {ok : Bool} {part pg off byte pos ch : Nat} {e wr : Bool}

/-- A packet of a context that is not confidential leaves as it is. -/
theorem sendRouted_plain {c : Nat} (open_ : isConf s (getCtx s c).part = false) (reach : Reaches s k.dst) : ∃ q, q < 36 ∧
    (sendRouted s c k).1 = sendOn s q (leaveBy s ((routeOf s k.dst).toNat % 16) k) := by
  have link : needsLink s c = false := by simp [needsLink, open_]
  have plain : sealPacket s c k = some (s, k) := by simp [sealPacket, open_]
  obtain ⟨q, -, fitted, -, out⟩ := route_out (k' := k) reach
  refine ⟨q, fitted, ?_⟩
  unfold sendRouted
  rw [plain]
  dsimp only
  rw [link, out]

/-- The response to a READ_REQ. -/
def readRespOf (s : State) (k : Packet) (bs : List Block) : Packet :=
  { barePacket s 3 k.src with
    dctx := k.sctx, dcgen := k.scgen, sctx := k.dctx, scgen := (getCtx s k.dctx.toNat).cgen, pgen := k.pgen, cls := k.cls
    reqId := k.reqId, blocks := bs }

theorem takeReadReq_eq : takeReadReq k s = (sendRouted (readBlocksVa k.dctx.toNat s ((requestVas k).take k.nblk.toNat)).1 k.dctx.toNat
    (readRespOf (readBlocksVa k.dctx.toNat s ((requestVas k).take k.nblk.toNat)).1 k
      (readBlocksVa k.dctx.toNat s ((requestVas k).take k.nblk.toNat)).2)).1 := rfl

theorem readReq_answers (h : Arrives 2 p k s) (adm : Admitted k s) (reach : Reaches s k.src) (calm : NoLockout s) (none_ : NoInjection s)
    (one : k.nblk = 1) (tokens : HasTokens s p.val k.cls.toNat 1) (aligned : k.addr.toNat % 256 = 0)
    (page : translate s k.dctx.toNat k.addr = .localPage part pg off e wr) (open_ : isConf s (getCtx s k.dctx.toNat).part = false)
    (place : placeByte s part pg off = (ch, byte)) (hpos : pos = servePos s ch (byte / 4096) false) :
    ∃ t q c d, exec (.readReq p k ok) s = .next t ∧ Sent s t q c ∧ c.ptype = 3 ∧ c.dst = k.src ∧
      c.reqId = k.reqId ∧ c.dctx = k.sctx ∧ d = memRead s.mem.cells (cellAddr pos (byte / 256 * 256)) 256 ∧
      c.blocks = [Block.mk d (crc32c d ^^^ mapGet s.mem.bad (blockKey pos (byte / 256)) 0)] ∧
      t.mem.cells = s.mem.cells ∧ t.mem.pmap = s.mem.pmap ∧ t.ctxs = s.ctxs ∧ t.slots = s.slots := by
  obtain ⟨v, pays, frame, alike, routes, mem⟩ := tokens_taken (wr := false) (ty := 2) tokens one
  have run := request_pays (c := .readReq p k ok) (ok := ok) (.inr (.inl ⟨rfl, rfl, rfl⟩)) (by decide) h adm one aligned page (fun no => by cases no)
  rw [pays] at run
  have noneV : NoInjection v := fun i => by
    have diag : v.diag = s.diag := frame .diag (by decide)
    rw [injectAt, diag]
    exact none_ i
  have openV : isConf v (getCtx v k.dctx.toNat).part = false := by
    rw [isConf_congr alike.hub, getCtx_congr alike.ctxs]
    exact open_
  have read := readLocal_at (c := k.dctx.toNat) (e := e) noneV ((alike.placeByte _ _ _).trans place) openV
  rw [alike.servePos, ← hpos] at read
  obtain ⟨u, hu⟩ : ∃ u, u = modCtrl v pos (rdNoted (byte / 256) 0 false) := ⟨_, rfl⟩
  obtain ⟨d, hd⟩ : ∃ d, d = memRead s.mem.cells (cellAddr pos (byte / 256 * 256)) 256 := ⟨_, rfl⟩
  obtain ⟨b, hb⟩ : ∃ b, b = Block.mk d (crc32c d ^^^ mapGet s.mem.bad (blockKey pos (byte / 256)) 0) := ⟨_, rfl⟩
  have block : readLocal v k.dctx.toNat part pg off e = (u, b) := by
    rw [read, hb, hd, hu, mem]
  have answers : takeReadReq k v = (sendRouted u k.dctx.toNat (readRespOf u k [b])).1 := by
    have blocks : readBlocksVa k.dctx.toNat v [k.addr] = (u, [b]) := by
      rw [readBlocksVa, readBlocksVa, alike.translate, page]
      dsimp only
      rw [block]
    rw [takeReadReq_eq, requestVas_one one, one, show List.take (BitVec.toNat (1 : BitVec 4)) [k.addr] = [k.addr] from rfl, blocks]
  have counted : AllBut [.mem] v u := hu ▸ frame_modCtrl v _ _
  have umem : u.mem.cells = s.mem.cells ∧ u.mem.pmap = s.mem.pmap := by
    rw [hu, modCtrl_mem, mem]
    exact ⟨rfl, rfl⟩
  have frameU : AllBut [.fab, .ports, .mem] s u := frame.trans counted.mono
  clear hu block read
  obtain ⟨q, fitted, out⟩ := sendRouted_plain (s := u) (c := k.dctx.toNat) (k := readRespOf u k [b]) (by
    rw [isConf_congr (frameU .hub (by decide)), getCtx_congr (frameU .ctxs (by decide))]
    exact open_) ((routes.of_frame counted).reaches reach)
  change exec _ s = doneMem (takeReadReq k v) at run
  rw [answers, out] at run
  have unmuted := ((routes.of_frame counted).reaches reach).2.2 q
  obtain ⟨c, hc⟩ : ∃ c, c = leaveBy u ((routeOf u (readRespOf u k [b]).dst).toNat % 16) (readRespOf u k [b]) := ⟨_, rfl⟩
  have told := sendOn_sent fitted unmuted c
  have sent := frame_sendOn u q c
  rw [← hc] at run
  have ctxs : (sendOn u q c).ctxs = s.ctxs := Eq.trans (sent .ctxs (by decide)) (frameU .ctxs (by decide))
  have calm' : NoLockout (sendOn u q c) := fun n => by
    rw [getCtx_congr ctxs]
    exact calm n
  rw [doneMem_eq calm'] at run
  have kept := settle_settled (sendOn u q c)
  have tmem : (settle (sendOn u q c)).mem = u.mem := kept.out.mem.trans (sent .mem (by decide))
  refine ⟨_, q, onPort c, d, run, (told.before (frameU .outbox (by decide))).settle, ?_, ?_, ?_, ?_, hd, ?_, ?_, ?_,
    kept.out.ctxs.trans ctxs, kept.out.slots.trans (Eq.trans (sent .slots (by decide)) (frameU .slots (by decide)))⟩
  · rw [hc]; rfl
  · rw [hc]; rfl
  · rw [hc]; rfl
  · rw [hc]; rfl
  · rw [hc, ← hb]; rfl
  · rw [tmem, umem.1]
  · rw [tmem, umem.2]

end

/-! ### A request without its tokens (R219) -/

theorem request_waits {s : State} {p : Port} {k : Packet} {ok wr : Bool} {ty : BitVec 4} {c : Instr} {part pg off : Nat} {e w : Bool}
    (hc : RequestIs ty wr p k ok c) (ty5 : ty ≠ 5) (h : Arrives ty p k s) (adm : Admitted k s) (calm : NoLockout s) (one : k.nblk = 1)
    (aligned : k.addr.toNat % 256 = 0) (page : translate s k.dctx.toNat k.addr = .localPage part pg off e w) (writable : wr = true → w = true)
    (no : ¬ HasTokens s p.val k.cls.toNat 1) : ∃ t, exec c s = .next t ∧
      t.fab.held = s.fab.held ++ [{ die := p.val % 4, k := k, write := wr }] ∧ t.mem.cells = s.mem.cells ∧
      (∀ q, (getPort t q).frames = (getPort s q).frames) ∧ t.ctxs = s.ctxs ∧ t.slots = s.slots := by
  have freed := frame_bufferFreed s p.val ty k
  have run := request_pays hc ty5 h adm one aligned page writable
  rw [payRequest_waits (q := { die := p.val % 4, k := k, write := wr }) (fun has => no ⟨?_, ?_⟩)] at run
  · obtain ⟨u, hu⟩ : ∃ u, u = holdTokens (bufferFreed s p.val ty k) (p.val % 4) k.cls.toNat := ⟨_, rfl⟩
    have held : AllBut [.mem] (bufferFreed s p.val ty k) u := hu ▸ frame_holdTokens _ _ _
    have fab : u.fab = (bufferFreed s p.val ty k).fab := held .fab (by decide)
    have moved : AllBut [.fab, .ports, .mem, .engines] s (modFab u fun f => { f with held := f.held ++ [{ die := p.val % 4, k := k, write := wr }] }) :=
      (freed.mono.trans held.mono).trans (frame_modFab u _).mono
    dsimp only at run
    rw [← hu] at run
    obtain ⟨w, hw⟩ : ∃ w, w = modFab u fun f => { f with held := f.held ++ [{ die := p.val % 4, k := k, write := wr }] } := ⟨_, rfl⟩
    have wfab : w.fab = { u.fab with held := u.fab.held ++ [{ die := p.val % 4, k := k, write := wr }] } := by rw [hw]; rfl
    rw [← hw] at run moved
    clear hw
    have calm' : NoLockout w := fun n => by
      rw [getCtx_congr (moved .ctxs (by decide))]
      exact calm n
    rw [doneMem_eq calm'] at run
    have kept := settle_settled w
    refine ⟨_, run, ?_, ?_, fun q => ?_, kept.out.ctxs.trans (moved .ctxs (by decide)), kept.out.slots.trans (moved .slots (by decide))⟩
    · rw [settle_fab, wfab, fab, bufferFreed_fab]
    · rw [kept.out.mem]
      exact moved .cells (by decide)
    · obtain ⟨o, ho⟩ := getPort_bufferFreed (s := s) (p := p.val) (ty := ty) (k := k) q
      have same : getPort w q = getPort (bufferFreed s p.val ty k) q := getPort_congr (by rw [wfab, fab]) q
      rw [getPort_settle, same, ho]
  · have first := has.1
    rw [bufferFreed_fab] at first
    exact first
  · have some_ := has.2
    rw [takeTokens_isSome_congr (freed .hub (by decide)) (freed .mem (by decide))] at some_
    rw [takeTokens_isSome_any k.nblk.toNat]
    exact some_

/-- Settles O25. -/
theorem writesAndReadsReachMemory : Obligations.WritesAndReadsReachMemory := by
  refine ⟨fun p k b ok s part pg off byte pos ch j e h adm reach calm tokens canon blocks aligned page place free hpos hj =>
      ⟨write_stores h adm reach calm tokens canon blocks aligned page place free hpos hj, write_refuses h adm reach calm tokens blocks aligned page⟩,
    fun p k ok s part pg off byte pos ch e wr h adm reach calm none_ one tokens aligned page open_ place hpos =>
      readReq_answers h adm reach calm none_ one tokens aligned page open_ place hpos, ?_⟩
  rintro p k ok wr c s part pg off e w (⟨rfl, h, rfl⟩ | ⟨rfl, h, rfl⟩) adm calm one aligned page writable no
  · exact request_waits (ok := ok) (.inl ⟨rfl, rfl, rfl⟩) (by decide) h adm calm one aligned page writable no
  · exact request_waits (ok := ok) (.inr (.inl ⟨rfl, rfl, rfl⟩)) (by decide) h adm calm one aligned page writable no

end Sys2Proof.Machine
end

section
-- One proof after the other: a text of this length has more proofs waiting at once than the check has threads for.
set_option Elab.async false
/-! PROOFS. The end of a fence for which two recoveries wait (R385, R387): the second begins a fence anew, which aborts a step that is
armed and so writes the record of a micro-batch. -/
namespace Sys2Proof.Machine

/-! ### Bytes of one local page (R206) -/

section
variable {s : State} {c va n p pg off ch byte : Nat} {e w : Bool} {d : Bytes}

theorem servePos_still (still : s.mem.migs = []) (ch sl : Nat) (wr : Bool) : servePos s ch sl wr = chanPos s ch := by
  rw [servePos, still]
  rfl

/-- The block that holds a byte of a local page. -/
def blockBytes (s : State) (ch byte : Nat) : Bytes := memRead s.mem.cells (cellAddr (chanPos s ch) (byte / 256 * 256)) 256

section
variable (none_ : NoInjection s) (open_ : isConf s (getCtx s c).part = false) (still : s.mem.migs = [])
  (page : translate s c (BitVec.ofNat 48 va) = .localPage p pg off e w) (place : placeByte s p pg off = (ch, byte))
  (good : mapGet s.mem.bad (blockKey (chanPos s ch) (byte / 256)) 0 = 0)
include none_ open_ still place good

theorem readLocal_good : ∃ b, readLocal s c p pg off e = (modCtrl s (chanPos s ch) (rdNoted (byte / 256) 0 false), b) ∧
    b.data = blockBytes s ch byte ∧ blockOk b = true := by
  have read := readLocal_at (e := e) none_ place open_
  rw [servePos_still still, good] at read
  exact ⟨_, read, rfl, beq_iff_eq.mpr BitVec.xor_zero.symm⟩

include page

theorem readBytesVa_block (pos : 0 < n) (inside : va % 256 + n ≤ 256) :
    ∃ u, readBytesVa s c va n = some (u, ((blockBytes s ch byte).drop (va % 256)).take n) := by
  obtain ⟨b, read, data, ok⟩ := readLocal_good (e := e) none_ open_ still place good
  have one : (va % 256 + n + 255) / 256 = 1 := by omega
  refine ⟨modCtrl s (chanPos s ch) (rdNoted (byte / 256) 0 false), ?_⟩
  rw [readBytesVa, one, readVa, page]
  dsimp only
  rw [read]
  dsimp only
  rw [if_pos ok, readVa, data, Option.map_some, List.append_nil]

theorem putVa_block (some_ : d ≠ []) (inside : va % 256 + d.length < 256) : ∃ t, putVa s c va d true = some t ∧
    t.mem.cells = memWrite s.mem.cells (cellAddr (chanPos s ch) (byte / 256 * 256)) (overlay (blockBytes s ch byte) (va % 256) d) := by
  obtain ⟨b, read, data, ok⟩ := readLocal_good (e := e) none_ open_ still place good
  obtain ⟨u, hu⟩ : ∃ u, u = modCtrl s (chanPos s ch) (rdNoted (byte / 256) 0 false) := ⟨_, rfl⟩
  have counted : AllBut [.mem] s u := hu ▸ frame_modCtrl s _ _
  have migs : u.mem.migs = [] := by rw [hu]; exact still
  have cells : u.mem.cells = s.mem.cells := counted .cells (by decide)
  have wrote : writeLocal u c p pg off e false (mkBlock (overlay b.data (va % 256) d)) =
      controllerWrite u (chanPos s ch) (byte / 256) (ctxKey u c e) false (mkBlock (overlay b.data (va % 256) d)) := by
    rw [writeLocal_at ((placeByte_congr (counted .opt (by decide)) (counted .hub (by decide)) p pg off).trans place) (by rw [migs]; nofun),
      servePos_still migs, chanPos_congr (counted .opt (by decide)) (counted .hub (by decide))]
  have piece : writePiece s c va d true = some (writeLocal u c p pg off e false (mkBlock (overlay b.data (va % 256) d))) := by
    rw [writePiece, page]
    dsimp only
    rw [if_pos (Bool.or_true w), if_neg (by omega), read, ← hu]
    exact if_pos ok
  have whole : d.take (256 - va % 256) = d := List.take_of_length_le (by omega)
  have rest : d.drop (256 - va % 256) = [] := List.drop_of_length_le (by omega)
  refine ⟨controllerWrite u (chanPos s ch) (byte / 256) (ctxKey u c e) false (mkBlock (overlay b.data (va % 256) d)), ?_, ?_⟩
  · have few : d.length / 256 + 2 = 1 + 1 := by omega
    rw [putVa, few, writeBytesVa, if_neg (by simpa using some_)]
    dsimp only
    rw [whole, rest, piece]
    dsimp only
    rw [writeBytesVa, wrote]
    rfl
  · rw [controllerWrite_eq, modCtrl_mem, ← data, ← cells]
    rfl

end

end

/-! ### Two recoveries wait (R385) -/

/-- No core is in service. -/
def NoneServe (s : State) : Prop := ∀ n, inService s n = false

section
variable {s : State} {c : Nat}

theorem NoneServe.congr {u : State} (h : NoneServe s) (hub : u.hub = s.hub) : NoneServe u := fun n => (inService_congr hub n).trans (h n)

theorem partCores_none (h : NoneServe s) (p : Nat) : partCores s p = [] := by
  unfold partCores
  rw [List.filter_eq_nil_iff]
  intro n _
  simp [h n]

theorem servingCores_none (h : NoneServe s) (c : Nat) : servingCores s c = [] := by
  unfold servingCores
  rw [List.filter_eq_nil_iff]
  intro n _
  simp [h n]

/-- The context FENCED under its next generation. -/
def fenceDone (s : State) (c : Nat) : State := modCtx s c fun x => { x with st := .fenced, cgen := x.cgen + 1, fence := none }

/-- The context open again, and the recovery answered. -/
def recovered (s : State) (c : Nat) (r : Req) : State :=
  respond (resumeCtx s c) r 0x0606 stOk 0 0 setLive (leBytes 2 (getCtx (resumeCtx s c) c).cgen.toNat)

theorem finishFence_none (h : NoneServe s) : finishFence s c = answerFence c (((getCtx s c).fence.map (·.waiters)).getD []) (fenceDone s c) := by
  unfold finishFence
  dsimp only
  rw [servingCores_none h]
  rfl

theorem answerFence_recovers {r r' : Req} (st : (getCtx s c).st = .fenced) (locked : (getCtx s c).sec.locked = false)
    (domains : (getCtx s c).domains = 0) : answerFence c [(0, r), (0, r')] s = startFence (recovered s c r) c (some (0, r')) := by
  rw [answerFence]
  dsimp only
  rw [st, locked, domains, if_neg (by decide), if_neg (by decide), if_neg (by decide)]
  rfl

theorem recovered_frame (s : State) (c : Nat) (r : Req) : AllBut [.slots, .ctxs, .mail, .outbox] s (recovered s c r) := by
  have resumed : AllBut [.slots, .ctxs] s (resumeCtx s c) := by
    unfold resumeCtx
    exact (AllBut.foldl (fun s n => (frame_modC s n _).mono) _ s).trans (frame_modCtx _ c _).mono
  exact resumed.mono.trans (frame_respond _ _ _ _ _ _ _ _).mono

theorem recovered_ctx (h : NoneServe s) (hc : c < 64) (r : Req) : getCtx (recovered s c r) c = { getCtx s c with st := .opened } := by
  have answered : getCtx (recovered s c r) c = getCtx (resumeCtx s c) c := getCtx_congr (frame_respond _ _ _ _ _ _ _ _ .ctxs (by decide)) c
  rw [answered, resumeCtx, servingCores_none h, List.foldl_nil, getCtx_modCtx_same _ hc]

/-! ### The step that is aborted (R381) -/

theorem sendVeto_unlaunched (h : (getCtx s c).led.launched = false) : sendVeto s c = s := by
  have none_ : votePlace s c = none := if_neg (by rw [h]; rintro ⟨-, launched⟩; exact absurd launched (by decide))
  rw [sendVeto, none_]

/-- The records of a step that is aborted. -/
def recordsAborted (s : State) (c : Nat) : State :=
  (getCtx s c).led.records.foldl (fun t va =>
    match readRec t c va with
    | some r => if r.step = (getCtx s c).led.step ∧ 1 ≤ r.state ∧ r.state ≤ 3 then setRecState t c va 5 else t
    | none => t) s

theorem recordsAborted_one {va : BitVec 48} {r : MbRec} (records : (getCtx s c).led.records = [va]) (read : readRec s c va = some r)
    (open_ : r.step = (getCtx s c).led.step ∧ 1 ≤ r.state ∧ r.state ≤ 3) : recordsAborted s c = setRecState s c va 5 := by
  rw [recordsAborted, records, List.foldl_cons, List.foldl_nil, read]
  exact if_pos open_

/-- With no core in service the abort of a step writes the data of its records alone. -/
theorem abortStep_cells (h : NoneServe s) (reason : Nat) : (abortStep s c reason).mem.cells = (recordsAborted s c).mem.cells ∧
    (abortStep s c reason).hub = s.hub := by
  refine ⟨?_, frame_abortStep s c reason .hub (by decide)⟩
  unfold abortStep
  extract_lets l why s1 s2 i v s3 s4 s5 s6 l'
  have same : s1 = s := by
    show (partCores s (getCtx s c).part).foldl _ s = s
    rw [partCores_none h]
    rfl
  have records : s2 = recordsAborted s c := by
    show (getCtx s c).led.records.foldl _ s1 = _
    rw [same]
    rfl
  have version : s3.mem.cells = s2.mem.cells :=
    (AllBut.ite (fun _ => frame_setVer _ c _ _) (fun _ => .refl _ _) : AllBut [.ctxs] s2 s3) .cells (by decide)
  have ended : AllBut [.ctxs, .diag] s3 s6 :=
    .trans (.mono (frame_modLed s3 c _)) (.trans (.mono (frame_modTiming s4 c _ _)) (.mono (frame_lifeAdd s5 _ _)))
  have kept : s6.mem.cells = (recordsAborted s c).mem.cells := Eq.trans (ended .cells (by decide)) (records ▸ version)
  split
  · exact Eq.trans (frame_postNotice _ _ _ _ .cells (by decide)) kept
  · exact kept

/-- No core holds a record back. -/
theorem dropRecords_unserved (h : NoneServe s) : dropRecords s c = s := by
  unfold dropRecords
  have same : ∀ l : List (BitVec 48), l.foldl (fun s va =>
      match readRec s c va with
      | some r => if (r.state == 1 || r.state == 3) && (servingCores s c).any (fun n => (getC s n).streams.toList.any fun t =>
          t.st != .idle && t.ctx == c && (t.item.map fun w => w.role == 1 && w.recVa == va).getD false) then setRecState s c va 5 else s
      | none => s) s = s := by
    intro l
    induction l with
    | nil => rfl
    | cons va l ih =>
      rw [List.foldl_cons, servingCores_none h]
      have first : (match readRec s c va with
          | some r => if (r.state == 1 || r.state == 3) && ([] : List Nat).any (fun n => (getC s n).streams.toList.any fun t =>
              t.st != .idle && t.ctx == c && (t.item.map fun w => w.role == 1 && w.recVa == va).getD false) then setRecState s c va 5 else s
          | none => s) = s := by
        split
        · exact if_neg (by simp)
        · rfl
      rw [first]
      exact ih
  exact same _

theorem fenceJob_cells (h : NoneServe s) (armed : (getCtx s c).led.st = .armed) (unlaunched : (getCtx s c).led.launched = false) :
    (fenceJob s c).mem.cells = (recordsAborted s c).mem.cells ∧ (fenceJob s c).hub = s.hub := by
  obtain ⟨cells, hub⟩ := abortStep_cells (c := c) h 7
  unfold fenceJob
  extract_lets l s1 s2 p s3
  have aborted : s1 = abortStep s c 7 := (if_pos (.inl armed)).trans (by rw [sendVeto_unlaunched unlaunched])
  have failed : AllBut [.ctxs] s2 s3 := by
    unfold s3
    split
    · exact frame_modPeal _ c _
    · exact frame_modPeal _ c _
    · exact .refl _ _
  have rest : AllBut [.ctxs] s1 (modPeal s3 c fun p => match p.st with
      | .quiescing | .quiesced => { p with st := .idle, tq := none, tr := none }
      | _ => p) := (frame_modLed s1 c _).trans (failed.trans (frame_modPeal s3 c _))
  rw [aborted] at rest
  exact ⟨Eq.trans (rest .cells (by decide)) cells, Eq.trans (rest .hub (by decide)) hub⟩

theorem startFence_cells (h : NoneServe s) (open_ : (getCtx s c).st = .opened) (armed : (getCtx s c).led.st = .armed)
    (unlaunched : (getCtx s c).led.launched = false) (w : Option (Nat × Req)) :
    (startFence s c w).mem.cells = (recordsAborted s c).mem.cells := by
  obtain ⟨cells, hub⟩ := fenceJob_cells h armed unlaunched
  rw [startFence_begins (by rw [open_]; decide) (by rw [open_]; decide)]
  have marked := frame_modCtx (fenceBegun s c) c fun x => { x with st := .fencing, fence := some { waiters := w.toList, since := (fenceBegun s c).ticks } }
  refine Eq.trans (marked .cells (by decide)) ?_
  unfold fenceBegun
  dsimp only
  rw [dropRecords_unserved (h.congr hub), servingCores_none (h.congr hub), List.foldl_nil]
  exact Eq.trans (frame_dropPrograms _ _ .cells (by decide)) cells

end

/-! ### The state -/

/-- A recovery of context 0. -/
def recovery : Req := { mbx := 0, path := .pcie, seq := 7, ctx := 0, irq := false }

/-- The context FENCING, with two recoveries waiting, a step armed, and the record of one micro-batch of it on its only page. -/
def fencedTwice : Context :=
  { Context.reset with
    st := .fencing, pmBase := 512, pmLen := 256, fence := some { waiters := [(0, recovery), (0, recovery)], since := 0 }
    led := { Ledger.reset with st := .armed, records := [0] } }

/-- Context 0 is that context. -/
def recoveredTwice : State :=
  { State.reset with
    mem := { State.reset.mem with pmap := [(512, 0xB001)], cells := [(143387, 1)] }
    ctxs := State.reset.ctxs.set 0 fencedTwice }

theorem recoveredTwice_ctx : getCtx recoveredTwice 0 = fencedTwice := rfl

theorem recoveredTwice_none : NoneServe recoveredTwice := fun n => by
  unfold inService coreEntry
  by_cases hn : n < 128
  · exact (by decide +kernel : ∀ n : Fin 128, ((State.reset.hub.coreMap.getD n.val { phys := 0, status := .unmapped }).status == .inService) = false) ⟨n, hn⟩
  · simp [Vector.getD, hn]

theorem recoveredTwice_plain : NoInjection recoveredTwice := fun i => by
  show State.reset.diag.inject.getD i none = none
  by_cases hi : i < 16
  · exact (by decide +kernel : ∀ i : Fin 16, State.reset.diag.inject.getD i.val none = none) ⟨i, hi⟩
  · simp [Vector.getD, hi]

/-- What the state at the second recovery has of the first: memory, the map, no injection; and its context open. -/
structure AtSecond (s : State) : Prop where
  opt   : s.opt = State.reset.opt
  hub   : s.hub = State.reset.hub
  mem   : s.mem = recoveredTwice.mem
  plain : NoInjection s
  ctx   : getCtx s 0 = { fencedTwice with st := .opened, cgen := fencedTwice.cgen + 1, fence := none }

section
variable {s : State} (h : AtSecond s)
include h

theorem AtSecond.page : translate s 0 (BitVec.ofNat 48 0) = .localPage 0 5 0 false true ∧ translate s 0 (BitVec.ofNat 48 27) = .localPage 0 5 27 false true := by
  unfold translate
  rw [h.ctx, h.mem]
  decide +kernel

theorem AtSecond.place : placeByte s 0 5 0 = (3, 143360) ∧ placeByte s 0 5 27 = (3, 143387) ∧ chanPos s 3 = 0 := by
  rw [placeByte_congr (s := State.reset) h.opt h.hub, placeByte_congr (s := State.reset) h.opt h.hub, chanPos_congr (s := State.reset) h.opt h.hub]
  decide +kernel

theorem AtSecond.open_ : isConf s (getCtx s 0).part = false := by
  rw [isConf_congr (s := State.reset) h.hub, h.ctx]
  decide +kernel

theorem AtSecond.still : s.mem.migs = [] := by
  rw [h.mem]
  rfl

theorem AtSecond.good (k : Nat) : mapGet s.mem.bad k 0 = 0 := by
  rw [h.mem]
  rfl

theorem AtSecond.bytes {byte : Nat} (hb : byte / 256 = 560) : blockBytes s 3 byte = memRead [(143387, 1)] 143360 256 := by
  rw [blockBytes, h.place.2.2, h.mem, hb]
  rfl

/-- The abort writes STATE 0x05 into the record. -/
theorem AtSecond.writes : memGet (recordsAborted s 0).mem.cells 143387 = 5 := by
  obtain ⟨u, read⟩ := readBytesVa_block (n := 32) h.plain h.open_ h.still h.page.1 h.place.1 (h.good _) (by decide) (by decide)
  obtain ⟨t, put, cells⟩ := putVa_block (d := [5]) h.plain h.open_ h.still h.page.2 h.place.2.1 (h.good _) (by decide) (by decide)
  rw [h.bytes (by decide)] at read cells
  have record : readRec s 0 0 = some (mbRecOf (((memRead [(143387, 1)] 143360 256).drop (0 % 256)).take 32)) := by
    rw [readRec, show BitVec.toNat (0 : BitVec 48) = 0 from rfl, read, Option.map_some]
  have stored : setRecState s 0 0 5 = t := congrArg (Option.getD · s) put
  have aborted : recordsAborted s 0 = t :=
    (recordsAborted_one (by rw [h.ctx]; rfl) record (by rw [h.ctx]; decide +kernel)).trans stored
  rw [aborted, cells, h.place.2.2, h.mem]
  decide +kernel

end

theorem secondBegins : AtSecond (recovered (fenceDone recoveredTwice 0) 0 recovery) := by
  have done_ : AllBut [.ctxs] recoveredTwice (fenceDone recoveredTwice 0) := frame_modCtx _ _ _
  have frame := (done_.mono (m := [.slots, .ctxs, .mail, .outbox])).trans (recovered_frame (fenceDone recoveredTwice 0) 0 recovery)
  have diag : (recovered (fenceDone recoveredTwice 0) 0 recovery).diag = recoveredTwice.diag := frame .diag (by decide)
  refine ⟨frame .opt (by decide), frame .hub (by decide), frame .mem (by decide), fun i => ?_, ?_⟩
  · rw [injectAt, diag]
    exact recoveredTwice_plain i
  · rw [recovered_ctx (recoveredTwice_none.congr (done_ .hub (by decide))) (by decide), fenceDone, getCtx_modCtx_same _ (by decide),
      recoveredTwice_ctx]

theorem recoveredTwice_writes : ∃ t, exec (.fenceDrainComplete 0) recoveredTwice = .next t ∧ memGet t.mem.cells 143387 = 5 := by
  have drained : fenceDrained recoveredTwice 0 = true := by
    rw [fenceDrained, servingCores_none recoveredTwice_none]
    rfl
  have second := secondBegins
  have none_ : NoneServe (recovered (fenceDone recoveredTwice 0) 0 recovery) := recoveredTwice_none.congr second.hub
  have begun : finishFence recoveredTwice 0 = startFence (recovered (fenceDone recoveredTwice 0) 0 recovery) 0 (some (0, recovery)) := by
    have own : getCtx (fenceDone recoveredTwice 0) 0 = { fencedTwice with st := .fenced, cgen := fencedTwice.cgen + 1, fence := none } := by
      rw [fenceDone, getCtx_modCtx_same _ (by decide), recoveredTwice_ctx]
    rw [finishFence_none recoveredTwice_none, recoveredTwice_ctx]
    exact answerFence_recovers (by rw [own]) (by rw [own]; rfl) (by rw [own]; rfl)
  have run : exec (.fenceDrainComplete 0) recoveredTwice = done (finishFence recoveredTwice 0) :=
    congrArg done (if_pos (Bool.and_eq_true_iff.mpr ⟨rfl, drained⟩))
  rw [begun] at run
  have cells := startFence_cells (c := 0) none_ (by rw [second.ctx]) (by rw [second.ctx]; rfl) (by rw [second.ctx]; rfl) (some (0, recovery))
  refine ⟨_, run, ?_⟩
  rw [(settle_settled _).out.mem, cells]
  exact second.writes

/-- Refutes O19: with two recoveries waiting and a step armed, the end of a fence moves the data of memory. -/
theorem not_contextsOpenFenceAndClose : ¬ Obligations.ContextsOpenFenceAndClose := by
  rintro ⟨-, fences, -⟩
  obtain ⟨-, ends, -⟩ := fences 0 recoveredTwice
  have drained : fenceDrained recoveredTwice 0 = true := by
    rw [fenceDrained, servingCores_none recoveredTwice_none]
    rfl
  obtain ⟨t, run, -, kept, -⟩ := ends { waiters := [(0, recovery), (0, recovery)], since := 0 } rfl rfl drained
  obtain ⟨u, run', written⟩ := recoveredTwice_writes
  cases run.symm.trans run'
  rw [kept] at written
  exact absurd written (by decide)

end Sys2Proof.Machine
end

section
-- One proof after the other: a text of this length has more proofs waiting at once than the check has threads for.
set_option Elab.async false
/-! PROOFS. Responses end their requests (R188, R263, R264). -/
namespace Sys2Proof.Machine

section
variable {s u : State} {p : Port} {k : Packet} {ok : Bool} {r : OutReq}

/-! ### A response without a request -/

theorem exec_compl (h : Arrives 4 p k s) : exec (.compl p k) s = doneMem (takeCompl k (bufferFreed s p.val 4 k)) :=
  (if_pos h.wf).trans (congrArg doneMem (receive_arrives h _))
theorem exec_readResp (h : Arrives 3 p k s) : exec (.readResp p k ok) s = doneMem (takeReadResp k ok (bufferFreed s p.val 3 k)) :=
  (if_pos h.wf).trans (congrArg doneMem (receive_arrives h _))

/-- The request that a response of the context's generation answers. -/
def reqOf (s : State) (k : Packet) : Option OutReq := s.fab.reqs.find? fun r => r.reqId == k.reqId && r.ctx == k.dctx.toNat && r.gen == k.dcgen

theorem answered_current (gen : k.dcgen = (getCtx s k.dctx.toNat).cgen) : answered s k = reqOf s k := if_pos gen

theorem reqOf_none (h : ∀ q ∈ s.fab.reqs, q.reqId ≠ k.reqId) : reqOf s k = none := by
  rw [reqOf, List.find?_eq_none]
  intro q hq
  simp [h q hq]

theorem answered_none (h : ∀ q ∈ s.fab.reqs, q.reqId ≠ k.reqId) : answered s k = none := by
  unfold answered
  split
  · exact reqOf_none h
  · rfl

theorem reqs_bufferFreed {ty : BitVec 4} : (bufferFreed s p.val ty k).fab.reqs = s.fab.reqs := by rw [bufferFreed_fab]

theorem compl_late (calm : NoLockout s) (h : Arrives 4 p k s) (none_ : ∀ q ∈ s.fab.reqs, q.reqId ≠ k.reqId) (hu : u = bufferFreed s p.val 4 k) :
    Leads (.compl p k) s { u with fab := { u.fab with dropLate := u.fab.dropLate + 1 } } := by
  have late : takeCompl k u = countLateResp u := by
    rw [takeCompl, answered_none (by rw [hu, reqs_bufferFreed]; exact none_)]
  refine leads_done (u := countLateResp u) ((exec_compl h).trans ?_) (.refl _)
  rw [← hu, late]
  exact doneMem_eq (fun c => by
    rw [hu]
    exact noLockout_bufferFreed calm c)

theorem readResp_late (calm : NoLockout s) (h : Arrives 3 p k s) (plain : k.e2e = false) (none_ : ∀ q ∈ s.fab.reqs, q.reqId ≠ k.reqId)
    (hu : u = bufferFreed s p.val 3 k) : Leads (.readResp p k ok) s { u with fab := { u.fab with dropLate := u.fab.dropLate + 1 } } := by
  have late : takeReadResp k ok u = countLateResp u := by
    rw [takeReadResp, acceptCtr_plain plain]
    dsimp only
    rw [answered_none (by rw [hu, reqs_bufferFreed]; exact none_)]
  refine leads_done (u := countLateResp u) ((exec_readResp h).trans ?_) (.refl _)
  rw [← hu, late]
  exact doneMem_eq (fun c => by
    rw [hu]
    exact noLockout_bufferFreed calm c)

theorem exec_requestTimeout (id : BitVec 16) : exec (.requestTimeout id) s = doneMem (match s.fab.reqs.find? (fun r => r.reqId == id) with
    | some r => takeAnswer s r fun s => requestFailed s r
    | none => s) := rfl

theorem requestTimeout_rests (calm : NoLockout s) {id : BitVec 16} (none_ : ∀ q ∈ s.fab.reqs, q.reqId ≠ id) (rest : AtRest s) :
    exec (.requestTimeout id) s = .next s := by
  have found : s.fab.reqs.find? (fun r => r.reqId == id) = none := by
    rw [List.find?_eq_none]
    intro q hq
    simp [none_ q hq]
  refine next_of_atRest rest ((exec_requestTimeout id).trans ?_)
  rw [found]
  exact doneMem_eq calm

end

/-! ### The COPY that a response is for (R188) -/

section
variable {s : State} {n id req : Nat} {j j' : CopyJob}

theorem copyById_iss (h : copyById s n id = some j) : j.iss.id = id := by simpa using List.find?_some h

/-- A COPY that takes its place among the others is found under its number. -/
theorem copyById_setCopy (h : copyById s n id = some j) (same : j'.iss.id = id) : copyById (setCopy s n j') n id = some j' := by
  unfold copyById setCopy
  rw [getC_modC_same]
  unfold copyById at h
  generalize (getC s n).copies = l at h ⊢
  induction l with
  | nil => cases h
  | cons a l ih =>
    rw [List.map_cons, List.find?_cons]
    rw [List.find?_cons] at h
    by_cases ha : a.iss.id = id
    · rw [if_pos (ha.trans same.symm), same, beq_self_eq_true]
    · rw [show (a.iss.id == id) = false by simpa using ha] at h
      rw [if_neg (by rw [same]; exact ha), show (a.iss.id == id) = false by simpa using ha]
      exact ih h

/-- Only the last place it takes counts. -/
theorem setCopy_setCopy (j j' : CopyJob) (same : j.iss.id = j'.iss.id) : setCopy (setCopy s n j) n j' = setCopy s n j' := by
  rw [setCopy, setCopy, modC_modC, setCopy, modC]
  refine congrArg (setC s n) ?_
  dsimp only
  rw [List.map_map]
  refine congrArg (fun l => { getC s n with copies := l }) (List.map_congr_left fun a _ => ?_)
  show (if (if a.iss.id = j.iss.id then j else a).iss.id = j'.iss.id then j' else (if a.iss.id = j.iss.id then j else a)) = _
  by_cases ha : a.iss.id = j.iss.id
  · rw [if_pos ha, if_pos same, if_pos (ha.trans same)]
  · rw [if_neg ha]

theorem frame_setCopy (s : State) (n : Nat) (j : CopyJob) : AllBut [.slots] s (setCopy s n j) := frame_modC s n _

/-- R188: a COPY that waits for answers does not end. -/
theorem endCopy_waits (h : copyById s n id = some j) (waits : j.acks ≠ 0) : endCopy s n id = s := by
  unfold endCopy
  rw [show (getC s n).copies.find? (fun q => q.iss.id == id) = some j from h]
  exact if_pos (.inr (.inr waits))

/-- What the answer to a WRITE leaves of a COPY. -/
def writeAnswered (j : CopyJob) (req : Nat) : CopyJob :=
  { j with
    acks := j.acks - 1
    wr := if mapGet j.wr req 0 ≤ 1 then mapErase j.wr req else mapSet j.wr req (mapGet j.wr req 0 - 1)
    out := if mapGet j.wr req 0 ≤ 1 then j.out.erase req else j.out }

theorem answerWrite_from {ok : Bool} {w : State} {q : CopyJob} (h : answerCopy s n id ok = setCopy w n { q with acks := q.acks - 1 })
    (found : copyById w n id = some q) (more : 2 ≤ q.acks) : answerWrite s n id req ok = setCopy w n (writeAnswered q req) := by
  have own := copyById_iss found
  have first : copyById (setCopy w n { q with acks := q.acks - 1 }) n id = some { q with acks := q.acks - 1 } := copyById_setCopy found own
  unfold answerWrite
  dsimp only
  rw [h, first]
  dsimp only
  obtain ⟨z, hz⟩ : ∃ z, z = writeAnswered q req := ⟨_, rfl⟩
  have eq : (if mapGet q.wr req 0 ≤ 1 then
      ({ q with acks := q.acks - 1, wr := mapErase q.wr req, out := q.out.erase req } : CopyJob)
      else { q with acks := q.acks - 1, wr := mapSet q.wr req (mapGet q.wr req 0 - 1) }) = z := by
    rw [hz, writeAnswered]
    split <;> rfl
  rw [eq, setCopy_setCopy _ _ (by rw [hz]; rfl), ← hz]
  refine endCopy_waits (copyById_setCopy found (by rw [hz]; exact own)) ?_
  rw [hz]
  show q.acks - 1 ≠ 0
  omega

theorem answerCopy_ok (h : copyById s n id = some j) : answerCopy s n id true = setCopy s n { j with acks := j.acks - 1 } := by
  rw [answerCopy, h]
  rfl

/-- R263: a WRITE of a COPY that has been taken. -/
theorem answerWrite_ok (h : copyById s n id = some j) (more : 2 ≤ j.acks) : answerWrite s n id req true = setCopy s n (writeAnswered j req) :=
  answerWrite_from (answerCopy_ok h) h more

/-- The COPY that has failed. -/
def copyFailed (j : CopyJob) (cause : BitVec 8) : CopyJob := { j with failed := some cause, total := j.next, miss := none }

theorem answerCopy_fails (h : copyById s n id = some j) (sound : j.failed = none) : answerCopy s n id false =
    setCopy (haltStream (setCopy s n (copyFailed j 0x0B)) n j.iss.slot 0x0B (tagOf j.iss.desc) j.iss.pc) n
      { copyFailed j 0x0B with acks := j.acks - 1 } := by
  have fails : failCopy s n j 0x0B = (haltStream (setCopy s n (copyFailed j 0x0B)) n j.iss.slot 0x0B (tagOf j.iss.desc) j.iss.pc,
      copyFailed j 0x0B) := if_neg (by rw [sound]; decide)
  rw [answerCopy, h]
  dsimp only
  rw [if_neg (by decide), fails]
  rfl

end

/-! ### A stream that halts (R170) -/

section
variable {s : State} {n i : Nat} {cause tag : BitVec 8} {a : BitVec 48}

theorem recordErr_keeps (c : PCore) (e : StreamErr) : (recordErr c e).streams = c.streams ∧ (recordErr c e).copies = c.copies := by
  unfold recordErr
  split <;> exact ⟨rfl, rfl⟩

/-- A stream that runs is one of the sixteen. -/
theorem running_lt {c : PCore} (h : (getStream c i).st = .running) : i < 16 := by
  by_contra out
  have reset : getStream c i = Stream.reset := by simp [getStream, Vector.getD, out]
  rw [reset] at h
  cases h

theorem frame_haltStream (s : State) (n i : Nat) (cause tag : BitVec 8) (a : BitVec 48) : AllBut [.slots] s (haltStream s n i cause tag a) :=
  frame_modC s n _

theorem haltStream_copies : (getC (haltStream s n i cause tag a) n).copies = (getC s n).copies := by
  rw [haltStream, getC_modC_same]
  dsimp only
  split
  · exact (recordErr_keeps _ _).2
  · rfl

theorem haltStream_halts (h : (getStream (getC s n) i).st = .running) : (getStream (getC (haltStream s n i cause tag a) n) i).st = .halted := by
  rw [haltStream, getC_modC_same]
  dsimp only
  rw [if_pos h, getStream, (recordErr_keeps _ _).1]
  exact congrArg Stream.st (getStream_setStream_same _ (running_lt h) _)

theorem copyById_haltStream (id : Nat) : copyById (haltStream s n i cause tag a) n id = copyById s n id := by
  rw [copyById, haltStream_copies, copyById]

end

section
variable {s : State} {n id req : Nat} {j : CopyJob}

theorem getStream_setCopy (s : State) (n : Nat) (j : CopyJob) (i : Nat) : getStream (getC (setCopy s n j) n) i = getStream (getC s n) i := by
  rw [setCopy, getC_modC_same]
  rfl

/-- R263: a WRITE of a COPY that has not been taken fails it, and its stream halts. -/
theorem answerWrite_fails (h : copyById s n id = some j) (sound : j.failed = none) (more : 2 ≤ j.acks)
    (runs : (getStream (getC s n) j.iss.slot).st = .running) : ∃ w, answerWrite s n id req false = setCopy w n (writeAnswered (copyFailed j 0x0B) req) ∧
      AllBut [.slots] s w ∧ copyById (setCopy w n (writeAnswered (copyFailed j 0x0B) req)) n id = some (writeAnswered (copyFailed j 0x0B) req) ∧
      (getStream (getC (setCopy w n (writeAnswered (copyFailed j 0x0B) req)) n) j.iss.slot).st = .halted := by
  have own := copyById_iss h
  obtain ⟨v, hv⟩ : ∃ v, v = setCopy s n (copyFailed j 0x0B) := ⟨_, rfl⟩
  obtain ⟨w, hw⟩ : ∃ w, w = haltStream v n j.iss.slot 0x0B (tagOf j.iss.desc) j.iss.pc := ⟨_, rfl⟩
  have found : copyById w n id = some (copyFailed j 0x0B) := by
    rw [hw, copyById_haltStream, hv]
    exact copyById_setCopy h own
  have answered_ := answerCopy_fails h sound
  rw [← hv, ← hw] at answered_
  have first : AllBut [.slots] s v := hv ▸ frame_setCopy s n _
  have second : AllBut [.slots] v w := hw ▸ frame_haltStream v n _ _ _ _
  refine ⟨w, answerWrite_from (q := copyFailed j 0x0B) answered_ found more, first.trans second,
    copyById_setCopy found own, ?_⟩
  rw [getStream_setCopy, hw]
  refine haltStream_halts ?_
  rw [hv, getStream_setCopy]
  exact runs

end

/-! ### The answers of a COPY -/

section
variable {s u : State} {p : Port} {k : Packet} {ok : Bool} {r : OutReq} {n id req first : Nat} {again : Bool} {j : CopyJob}

theorem takeAnswer_current {f : State → State} (gen : r.gen = (getCtx s r.ctx).cgen) : takeAnswer s r f = f (dropReq s r) := if_pos gen

theorem dropReq_frame (s : State) (r : OutReq) : AllBut [.fab, .ports, .engines] s (dropReq s r) := (frame_modFab s _).mono

/-- R263: a failed answer to a WRITE of a COPY. -/
theorem copyWrite_failed (calm : NoLockout s) (gen : r.gen = (getCtx s r.ctx).cgen) (found : copyById s n id = some j) (more : 2 ≤ j.acks)
    (owner : r.owner = .copyWrite n id req) (sound : j.failed = none) (runs : (getStream (getC s n) j.iss.slot).st = .running)
    {v : State} (frame : AllBut [.fab, .ports] s v) (reqs : v.fab.reqs = s.fab.reqs) :
    ∃ t, doneMem (takeAnswer v r fun s => requestFailed s r) = .next t ∧ t.fab.reqs = s.fab.reqs.erase r ∧ t.mem = s.mem ∧ t.ctxs = s.ctxs ∧
      (getStream (getC t n) j.iss.slot).st = .halted ∧ copyById t n id = some (writeAnswered (copyFailed j 0x0B) req) := by
  have ctxs : v.ctxs = s.ctxs := frame .ctxs (by decide)
  have dropped : AllBut [.fab, .ports, .engines] s (dropReq v r) := frame.mono.trans (dropReq_frame v r)
  have core : getC (dropReq v r) n = getC s n := getC_congr (dropped .hub (by decide)) (dropped .slots (by decide)) n
  obtain ⟨w, eq, moved, copy, halted⟩ := answerWrite_fails (s := dropReq v r) (req := req) (by rw [copyById, core]; exact found) sound more
    (by rw [core]; exact runs)
  have fails : (takeAnswer v r fun s => requestFailed s r) = setCopy w n (writeAnswered (copyFailed j 0x0B) req) := by
    rw [takeAnswer_current (by rw [getCtx_congr ctxs]; exact gen)]
    rw [requestFailed, owner]
    exact eq
  rw [fails]
  have all : AllBut [.slots] (dropReq v r) (setCopy w n (writeAnswered (copyFailed j 0x0B) req)) := moved.trans (frame_setCopy w n _)
  generalize setCopy w n (writeAnswered (copyFailed j 0x0B) req) = z at copy halted all
  have whole : AllBut [.fab, .ports, .engines, .slots] s z := dropped.mono.trans all.mono
  have fab : z.fab = (dropReq v r).fab := all .fab (by decide)
  have calm' : NoLockout z := fun c => by
    rw [getCtx_congr (whole .ctxs (by decide))]
    exact calm c
  have kept := settle_settled z
  refine ⟨_, doneMem_eq calm', ?_, kept.out.mem.trans (whole .mem (by decide)), kept.out.ctxs.trans (whole .ctxs (by decide)), ?_, ?_⟩
  · rw [settle_fab, fab]
    exact congrArg (List.erase · r) reqs
  · rw [getC_settled kept]
    exact halted
  · rw [copyById, getC_settled kept]
    exact copy

/-- R264: a WRITE of a COPY returns OK. -/
theorem compl_ok (calm : NoLockout s) (gen : r.gen = (getCtx s r.ctx).cgen) (found : copyById s n id = some j) (more : 2 ≤ j.acks)
    (current : k.dcgen = (getCtx s k.dctx.toNat).cgen) (hr : reqOf s k = some r) (owner : r.owner = .copyWrite n id req) (h : Arrives 4 p k s)
    (status : k.addr.toNat % 256 = 0) (hu : u = { s with fab := { s.fab with reqs := s.fab.reqs.erase r } }) :
    Leads (.compl p k) s (setCopy (bufferFreed u p.val 4 k) n (writeAnswered j req)) := by
  obtain ⟨v, hv⟩ : ∃ v, v = bufferFreed s p.val 4 k := ⟨_, rfl⟩
  have frame : AllBut [.fab, .ports] s v := hv ▸ frame_bufferFreed s p.val 4 k
  have ctx (c : Nat) : getCtx v c = getCtx s c := getCtx_congr (frame .ctxs (by decide)) c
  have same : dropReq v r = bufferFreed u p.val 4 k := by
    rw [hv, hu]
    by_cases c : k.ptype = 4 ∧ portUp (getPort s p.val) = true
    · have freed : bufferFreed (dropReq s r) p.val 4 k = oweCredits (dropReq s r) p.val k := if_pos c
      exact (congrArg (dropReq · r) (if_pos c)).trans freed.symm
    · have freed : bufferFreed (dropReq s r) p.val 4 k = dropReq s r := if_neg c
      exact (congrArg (dropReq · r) (if_neg c)).trans freed.symm
  have asked : answered v k = some r := by
    rw [answered_current (by rw [ctx]; exact current), reqOf, hv, reqs_bufferFreed]
    exact hr
  have core : getC (dropReq v r) n = getC s n := by
    have dropped := frame.mono.trans (dropReq_frame v r)
    exact getC_congr (dropped .hub (by decide)) (dropped .slots (by decide)) n
  have taken : takeCompl k v = setCopy (bufferFreed u p.val 4 k) n (writeAnswered j req) := by
    rw [takeCompl, asked]
    dsimp only
    rw [takeAnswer_current (by rw [ctx]; exact gen), if_pos status, requestOk, owner]
    dsimp only
    rw [answerWrite_ok (by rw [copyById, core]; exact found) more, same]
  refine leads_done (u := setCopy (bufferFreed u p.val 4 k) n (writeAnswered j req)) ((exec_compl h).trans ?_) (.refl _)
  rw [← hv, taken]
  refine doneMem_eq fun c => ?_
  have moved : AllBut [.fab, .ports, .engines, .slots] s (setCopy (dropReq v r) n (writeAnswered j req)) :=
    (frame.mono.trans (dropReq_frame v r).mono).trans (frame_setCopy _ n _).mono
  rw [← same, getCtx_congr (moved .ctxs (by decide))]
  exact calm c

/-- R263: a good block of a peer is kept for its request. -/
theorem readResp_keeps {b : Block} (calm : NoLockout s) (gen : r.gen = (getCtx s r.ctx).cgen) (found : copyById s n id = some j) (more : 2 ≤ j.acks)
    (current : k.dcgen = (getCtx s k.dctx.toNat).cgen) (hr : reqOf s k = some r) (owner : r.owner = .copyRead n id req first again)
    (h : Arrives 3 p k s) (plain : k.e2e = false) (blocks : k.blocks = [b]) (good : blockOk b = true)
    (hu : u = { s with fab := { s.fab with reqs := s.fab.reqs.erase r } }) (left : readsLeft u n id req = true) :
    ∃ t, exec (.readResp p k ok) s = .next t ∧ t.fab.reqs = u.fab.reqs ∧ t.mem = s.mem ∧ t.ctxs = s.ctxs ∧
      copyById t n id = some { j with acks := j.acks - 1, got := mapSet j.got (16 * req + first) b } := by
  obtain ⟨v, hv⟩ : ∃ v, v = bufferFreed s p.val 3 k := ⟨_, rfl⟩
  have frame : AllBut [.fab, .ports] s v := hv ▸ frame_bufferFreed s p.val 3 k
  have ctx (c : Nat) : getCtx v c = getCtx s c := getCtx_congr (frame .ctxs (by decide)) c
  have reqs : v.fab.reqs = s.fab.reqs := by rw [hv, reqs_bufferFreed]
  have asked : answered v k = some r := by
    rw [answered_current (by rw [ctx]; exact current), reqOf, reqs]
    exact hr
  have dropped : AllBut [.fab, .ports, .engines] s (dropReq v r) := frame.mono.trans (dropReq_frame v r)
  have core : getC (dropReq v r) n = getC s n := getC_congr (dropped .hub (by decide)) (dropped .slots (by decide)) n
  obtain ⟨j1, hj1⟩ : ∃ j1, j1 = { j with acks := j.acks - 1 } := ⟨_, rfl⟩
  obtain ⟨j2, hj2⟩ : ∃ j2, j2 = { j with acks := j.acks - 1, got := mapSet j.got (16 * req + first) b } := ⟨_, rfl⟩
  have own := copyById_iss found
  have at0 : copyById (dropReq v r) n id = some j := by rw [copyById, core]; exact found
  have at1 : copyById (setCopy (dropReq v r) n j1) n id = some j1 := copyById_setCopy at0 (by rw [hj1]; exact own)
  have at2 : copyById (setCopy (dropReq v r) n j2) n id = some j2 := copyById_setCopy at0 (by rw [hj2]; exact own)
  have keeps : keepBlock (setCopy (dropReq v r) n j1) n id req first again b = setCopy (dropReq v r) n j2 := by
    rw [keepBlock, at1]
    dsimp only
    rw [if_pos (by rw [good]; rfl)]
    refine Eq.trans ?_ (setCopy_setCopy j1 j2 (by rw [hj1, hj2]))
    rw [hj2, hj1]
  have waits : settleReads (setCopy (dropReq v r) n j2) n id req = setCopy (dropReq v r) n j2 := by
    have more_ : readsLeft (setCopy (dropReq v r) n j2) n id req = true := by
      have same : (setCopy (dropReq v r) n j2).fab.reqs = u.fab.reqs := by
        rw [hu]
        exact congrArg (List.erase · r) reqs
      rw [readsLeft, same]
      exact left
    rw [settleReads, at2]
    dsimp only
    rw [if_pos (by rw [more_]; rfl)]
    refine endCopy_waits at2 ?_
    rw [hj2]
    show j.acks - 1 ≠ 0
    omega
  have taken : takeReadResp k ok v = setCopy (dropReq v r) n j2 := by
    rw [takeReadResp, acceptCtr_plain plain]
    dsimp only
    rw [asked]
    dsimp only
    rw [owner]
    dsimp only
    rw [takeAnswer_current (by rw [ctx]; exact gen), answerCopy_ok at0, ← hj1, blocks]
    show settleReads (keepBlock (setCopy (dropReq v r) n j1) n id req (first + 0) again b) n id req = _
    rw [Nat.add_zero, keeps, waits]
  have run := exec_readResp (ok := ok) h
  rw [← hv, taken] at run
  have moved : AllBut [.fab, .ports, .engines, .slots] s (setCopy (dropReq v r) n j2) := dropped.mono.trans (frame_setCopy _ n _).mono
  have fab : (setCopy (dropReq v r) n j2).fab.reqs = v.fab.reqs.erase r := rfl
  generalize setCopy (dropReq v r) n j2 = z at run moved fab at2
  rw [doneMem_eq (fun c => by
    rw [getCtx_congr (moved .ctxs (by decide))]
    exact calm c)] at run
  have kept := settle_settled z
  refine ⟨_, run, ?_, kept.out.mem.trans (moved .mem (by decide)), kept.out.ctxs.trans (moved .ctxs (by decide)), ?_⟩
  · rw [settle_fab, fab, reqs, hu]
  · rw [copyById, getC_settled kept, ← hj2]
    exact at2

end

end Sys2Proof.Machine
end

section
-- One proof after the other: a text of this length has more proofs waiting at once than the check has threads for.
set_option Elab.async false
/-! PROOFS. Packets in transit, and Knells and LINKUPs that are heard (R254, R259, R260, R265 to R268, R280 to R282). -/
namespace Sys2Proof.Machine

section
variable {s : State} {p : Port} {k : Packet} {d : Die}

/-! ### Transit (R265 to R268) -/

theorem exec_packetForward (wf : packetWf k = true) (up : portUp (getPort s p.val) = true) :
    exec (.packetForward p k) s = done (forward s p.val k) := (if_pos wf).trans (congrArg done (if_pos up))
theorem exec_packetAgeDrop (wf : packetWf k = true) : exec (.packetAgeDrop d k) s =
    done (if s.hub.diesDown.getLsbD d.val then s else modFab s fun f => { f with dropAge := f.dropAge + 1 }) := if_pos wf
theorem exec_link (wf : packetWf k = true) : exec (.link p k) s = done (
    if k.ptype = 10 && portUp (getPort (bufferFreed s p.val 10 k) p.val) && k.flood then countHdr (bufferFreed s p.val 10 k)
    else bufferFreed s p.val 10 k) := if_pos wf

/-- A packet leaves its buffer as one that is freed. -/
theorem bufferFreed_owes {ty : BitVec 4} (hty : k.ptype = ty) (up : portUp (getPort s p.val) = true) :
    bufferFreed s p.val ty k = oweCredits s p.val k := if_pos ⟨hty, up⟩

theorem forward_reserved (h : k.ptype = 0 ∨ 11 ≤ k.ptype.toNat) : forward s p.val k = countHdr (oweCredits s p.val k) := if_pos h

/-- A packet as it goes on. -/
def onward (k : Packet) : Packet := { k with hopsLeft := k.hopsLeft - 1 }

/-- The way of a packet in transit. -/
def transitRoute (s : State) (p : Nat) (k : Packet) : Hop := route s false (fun g => transitPort s p g (onward k)) (onward k)

/-- What becomes of a packet of a type that travels and is not flooded. -/
theorem forward_plain (h1 : 1 ≤ k.ptype.toNat) (h7 : k.ptype.toNat ≤ 7) (flood : k.flood = false) {u : State} (hu : u = oweCredits s p.val k) :
    (k.hopsLeft = 0 → forward s p.val k = countHops u) ∧
    (k.hopsLeft ≠ 0 → forUs u k = false →
      (∀ q c, transitRoute u p.val k = .out q c → forward s p.val k = sendOn u q c) ∧
      (transitRoute u p.val k = .refused ∨ transitRoute u p.val k = .noRoute → forward s p.val k =
        if isRequest k.ptype then sendCompl (modFab u fun f => { f with dropNoroute := f.dropNoroute + 1 }) (onward k) 0x04
        else modFab u fun f => { f with dropNoroute := f.dropNoroute + 1 })) := by
  have type_ (t : BitVec 4) (ht : 7 < t.toNat) : k.ptype ≠ t := fun e => by rw [e] at h7; omega
  have travels : ¬ (k.ptype = 0 ∨ 11 ≤ k.ptype.toNat) := by
    rintro (e | e)
    · rw [e] at h1
      exact absurd h1 (by decide)
    · omega
  have fits : ¬ (k.flood != (k.ptype == 8 || k.ptype == 9)) = true := by
    rw [flood, beq_eq_false_iff_ne.mpr (type_ 8 (by decide)), beq_eq_false_iff_ne.mpr (type_ 9 (by decide))]
    decide
  unfold forward transitRoute onward
  dsimp only
  rw [if_neg travels, if_neg fits, if_neg (type_ 10 (by decide)), ← hu]
  refine ⟨fun hops => if_pos hops, fun hops us => ?_⟩
  rw [if_neg hops, if_neg (by rw [flood, us]; decide)]
  refine ⟨fun q c out => ?_, fun no => ?_⟩
  · rw [out]
  · rcases no with no | no <;> rw [no] <;> rfl

/-- The port of a packet in transit is one of its group that is up. -/
theorem transitPort_some {g : Nat} (h : groupUp s g false ≠ []) (n : Nat) (k : Packet) :
    ∃ q, transitPort s n g k = some q ∧ q ∈ groupUp s g false := by
  unfold transitPort
  split
  · unfold collPort
    dsimp only
    split
    · rename_i own
      exact ⟨_, rfl, List.contains_iff_mem.mp own⟩
    · obtain ⟨q, l, hl⟩ := List.exists_cons_of_ne_nil h
      exact ⟨q, by rw [hl]; rfl, by rw [hl]; exact List.mem_cons_self⟩
  · exact pickPort_some h k

theorem route_transit {n : Nat} {k' : Packet} (h : Reaches s k.dst) : ∃ q, q / 4 = (routeOf s k.dst).toNat % 16 ∧ q < 36 ∧
    portUp (getPort s q) = true ∧
    route s false (fun g => transitPort s n g k') k = .out q (leaveBy s ((routeOf s k.dst).toNat % 16) k) := by
  obtain ⟨group, up, -⟩ := h
  obtain ⟨q, pick, at_⟩ := transitPort_some up n k'
  obtain ⟨own, fitted, live⟩ := mem_groupUp at_
  refine ⟨q, own, fitted, live, ?_⟩
  have usable : (if (groupUp s ((routeOf s k.dst).toNat % 16) false).isEmpty then none else transitPort s n ((routeOf s k.dst).toNat % 16) k') =
      some q := (if_neg (by rw [List.isEmpty_iff]; exact up)).trans pick
  unfold route
  dsimp only
  rw [if_neg (by omega), if_neg (by omega), usable]

/-- R267: without a route a packet goes nowhere. -/
theorem route_none {pick : Nat → Option Nat} (h : routeOf s k.dst = 0x00FF) :
    route s false pick k = .refused ∨ route s false pick k = .noRoute := by
  have empty : groupUp s 15 false = [] := by
    rw [List.eq_nil_iff_forall_not_mem]
    intro q hq
    obtain ⟨group, fitted, -⟩ := mem_groupUp hq
    omega
  unfold route
  dsimp only
  rw [h, if_neg (by decide), show (0x00FF : BitVec 16).toNat % 16 = 15 from rfl, empty]
  split
  · exact .inl rfl
  · exact .inr rfl

/-- A packet in transit leaves the states alike. -/
theorem routesAlike_oweCredits (s : State) (p : Port) (k : Packet) : RoutesAlike s (oweCredits s p.val k) :=
  ⟨rfl, rfl, rfl, fun q => by
    by_cases hq : q = p.val
    · subst hq
      exact ⟨_, getPort_modPort_same s p.isLt _⟩
    · exact ⟨_, by rw [oweCredits, getPort_modPort_other s hq]⟩⟩

theorem frame_oweCredits (s : State) (p : Port) (k : Packet) : AllBut [.fab, .ports] s (oweCredits s p.val k) := frame_modPort s p.val _

section
variable (wf : packetWf k = true) (up : portUp (getPort s p.val) = true) (h1 : 1 ≤ k.ptype.toNat) (h7 : k.ptype.toNat ≤ 7)
  (flood : k.flood = false)
include wf up h1 h7 flood

theorem packetForward_leaves (hops : k.hopsLeft ≠ 0) (us : forUs s k = false) (reach : Reaches s k.dst) :
    ∃ t q c, exec (.packetForward p k) s = .next t ∧ Apart s t ∧ Sent s t q c ∧ q / 4 = (routeOf s k.dst).toNat % 16 ∧
      portUp (getPort s q) = true ∧ c.ptype = k.ptype ∧ c.hopsLeft = k.hopsLeft - 1 ∧ c.dst = k.dst ∧ c.src = k.src ∧ c.reqId = k.reqId ∧
      c.blocks = k.blocks ∧ c.detour = k.detour ∧ c.dclass = (k.dclass || s.fab.dateline.getLsbD ((routeOf s k.dst).toNat % 16)) := by
  obtain ⟨u, hu⟩ : ∃ u, u = oweCredits s p.val k := ⟨_, rfl⟩
  have alike : RoutesAlike s u := hu ▸ routesAlike_oweCredits s p k
  have frame : AllBut [.fab, .ports] s u := hu ▸ frame_oweCredits s p k
  have route_ : routeOf u k.dst = routeOf s k.dst := by rw [routeOf, alike.routes, routeOf]
  have us' : forUs u k = false := by
    rw [forUs, route_, hu]
    exact us
  have dateline : u.fab.dateline = s.fab.dateline := by rw [hu]; rfl
  obtain ⟨q, group, fitted, live, out⟩ := route_transit (s := u) (n := p.val) (k := onward k) (k' := onward k) (alike.reaches reach)
  have run := exec_packetForward wf up
  rw [((forward_plain h1 h7 flood hu).2 hops us').1 q _ out, show (onward k).dst = k.dst from rfl, route_] at run
  have unmuted := (alike.reaches reach).2.2 q
  obtain ⟨c, hc⟩ : ∃ c, c = leaveBy u ((routeOf s k.dst).toNat % 16) (onward k) := ⟨_, rfl⟩
  rw [← hc] at run
  have told := sendOn_sent fitted unmuted c
  have moved : AllBut [.fab, .ports, .outbox] s (sendOn u q c) := frame.mono.trans (frame_sendOn u q c)
  obtain ⟨o, ho⟩ := alike.ports q
  rw [ho] at live
  refine ⟨_, q, onPort c, run, (apart_of_allBut moved).then_settle, (told.before (frame .outbox (by decide))).settle, ?_, live, ?_⟩
  · rw [← route_]
    exact group
  · rw [hc, ← dateline]
    exact ⟨rfl, rfl, rfl, rfl, rfl, rfl, rfl, rfl⟩

theorem packetForward_hops (hops : k.hopsLeft = 0) {u : State} (hu : u = oweCredits s p.val k) :
    Leads (.packetForward p k) s { u with fab := { u.fab with dropHops := u.fab.dropHops + 1 } } := by
  refine leads_done (u := countHops u) ((exec_packetForward wf up).trans ?_) (.refl _)
  rw [(forward_plain h1 h7 flood hu).1 hops]

/-- What is done with a packet without a route. -/
theorem forward_noRoute (hops : k.hopsLeft ≠ 0) (us : forUs s k = false) (none_ : routeOf s k.dst = 0x00FF) {u : State}
    (hu : u = oweCredits s p.val k) : exec (.packetForward p k) s = done (if isRequest k.ptype then
        sendCompl (modFab u fun f => { f with dropNoroute := f.dropNoroute + 1 }) (onward k) 0x04
      else modFab u fun f => { f with dropNoroute := f.dropNoroute + 1 }) := by
  have route_ : routeOf u k.dst = 0x00FF := by rw [hu]; exact none_
  have us' : forUs u k = false := by rw [hu]; exact us
  exact (exec_packetForward wf up).trans (congrArg done (((forward_plain h1 h7 flood hu).2 hops us').2 (route_none route_)))

theorem packetForward_refused (hops : k.hopsLeft ≠ 0) (us : forUs s k = false) (none_ : routeOf s k.dst = 0x00FF)
    (req : isRequest k.ptype = true) (reach : ReachesBy s (needsLink s k.dctx.toNat) k.src) :
    ∃ t, exec (.packetForward p k) s = .next t ∧ Apart s t ∧ Replies s t k 0x04 ∧ t.fab.dropNoroute = s.fab.dropNoroute + 1 := by
  have run := forward_noRoute wf up h1 h7 flood hops us none_ rfl
  rw [if_pos req] at run
  obtain ⟨u, hu⟩ : ∃ u, u = modFab (oweCredits s p.val k) fun f => { f with dropNoroute := f.dropNoroute + 1 } := ⟨_, rfl⟩
  have counted : u.fab.dropNoroute = s.fab.dropNoroute + 1 := by rw [hu]; rfl
  have frame : AllBut [.fab, .ports, .engines] s u := hu ▸ (frame_oweCredits s p k).mono.trans (frame_modFab _ _).mono
  have alike : RoutesAlike s u := hu ▸ (routesAlike_oweCredits s p k).modFab
  rw [← hu] at run
  obtain ⟨told, fab, apart, -⟩ := refusal_apart (k := onward k) (n := 0x04) frame alike reach
  exact ⟨_, run, apart, told, by rw [fab]; exact counted⟩

theorem packetForward_lost (hops : k.hopsLeft ≠ 0) (us : forUs s k = false) (none_ : routeOf s k.dst = 0x00FF)
    (other : isRequest k.ptype = false) {u : State} (hu : u = oweCredits s p.val k) :
    Leads (.packetForward p k) s { u with fab := { u.fab with dropNoroute := u.fab.dropNoroute + 1 } } := by
  have run := forward_noRoute wf up h1 h7 flood hops us none_ hu
  rw [if_neg (by rw [other]; decide)] at run
  exact leads_done run (.refl _)

end

/-! ### Knells and LINKUPs that are heard (R280 to R282) -/

theorem exec_flood {c : Instr} (wf : packetWf k = true) (up : portUp (getPort s p.val) = true) (flood : k.flood = true) (hops : k.hopsLeft ≠ 0)
    (hc : c = .knell p k ∧ k.ptype = 8 ∨ c = .linkup p k ∧ k.ptype = 9) : exec c s = done
      (hearFlood (oweCredits s p.val k) (onward k) (some (p.val / 4)) (BitVec.ofNat 8 p.val)) := by
  have heard {ty : BitVec 4} (hty : k.ptype = ty) : receiveFlood s p.val ty k =
      hearFlood (oweCredits s p.val k) (onward k) (some (p.val / 4)) (BitVec.ofNat 8 p.val) := by
    unfold receiveFlood
    rw [bufferFreed_owes hty up]
    dsimp only
    obtain ⟨o, ho⟩ := (routesAlike_oweCredits s p k).ports p.val
    have up' : portUp (getPort (oweCredits s p.val k) p.val) = true := by
      rw [ho]
      exact up
    rw [if_neg (by simp [hty, up']), if_neg (by rw [flood]; decide), if_neg hops]
    rfl
  rcases hc with ⟨rfl, hty⟩ | ⟨rfl, hty⟩
  · exact (if_pos wf).trans (congrArg done (heard hty))
  · exact (if_pos wf).trans (congrArg done (heard hty))

theorem groupUp_kept {u : State} (opt : u.opt = s.opt) (ports : PortsKept s u) (g : Nat) : groupUp u g false = groupUp s g false := by
  have fitted : groupPorts u g = groupPorts s g := by rw [groupPorts, portCount, opt, groupPorts, portCount]
  unfold groupUp
  rw [fitted]
  refine List.filter_congr fun q _ => ?_
  rw [portUp, (ports q).st, portUp]
  rfl

/-- What a flooded packet does at one group. -/
def floodGroup (k : Packet) (x : Option Nat) (s : State) (g : Nat) : State :=
  if some g = x then s
  else match pickPort s g false k with
    | some p => sendOn s p k
    | none => s

theorem floodOut_eq (s : State) (k : Packet) (x : Option Nat) : floodOut s k x = (List.range (groupCount s)).foldl (floodGroup k x) s := rfl

/-- States between which packets are sent alone. -/
structure SendsMore (s u : State) : Prop where
  opt   : u.opt = s.opt
  ports : PortsKept s u
  out   : s.outbox <:+ u.outbox

theorem sendsMore_group (k : Packet) (x : Option Nat) (s : State) (g : Nat) : SendsMore s (floodGroup k x s g) := by
  unfold floodGroup
  split
  · exact ⟨rfl, .refl s, List.suffix_rfl⟩
  · split
    · rename_i q _
      exact ⟨frame_sendOn s q k .opt (by decide), portsKept_sendOn s q k, frame_sendOn s q k .sent (by decide)⟩
    · exact ⟨rfl, .refl s, List.suffix_rfl⟩

theorem SendsMore.trans {u v : State} (h : SendsMore s u) (k : SendsMore u v) : SendsMore s v :=
  ⟨k.opt.trans h.opt, h.ports.trans k.ports, h.out.trans k.out⟩

/-- R280: a flooded packet leaves by every usable group but the one it came by. -/
theorem floodOut_sends {x : Option Nat} (unmuted : ∀ q, (getPort s q).muted = false) {g : Nat} (hg : g < groupCount s) (other : some g ≠ x)
    (usable : groupUp s g false ≠ []) : ∃ q, Sent s (floodOut s k x) q (onPort k) ∧ q / 4 = g := by
  obtain ⟨before, after, split_⟩ := List.append_of_mem (List.mem_range.mpr hg)
  have more (l : List Nat) (u : State) : SendsMore u (l.foldl (floodGroup k x) u) :=
    foldl_moves (R := SendsMore) (fun u => ⟨rfl, .refl u, List.suffix_rfl⟩) (fun h k => SendsMore.trans h k) (sendsMore_group k x) l u
  rw [floodOut_eq, split_, List.foldl_append, List.foldl_cons]
  have first := more before s
  generalize before.foldl (floodGroup k x) s = u at first ⊢
  obtain ⟨q, pick, at_⟩ := pickPort_some (s := u) (g := g) (link := false) (by rw [groupUp_kept first.opt first.ports]; exact usable) k
  obtain ⟨own, fitted, -⟩ := mem_groupUp at_
  have sent := sendOn_sent fitted ((first.ports q).muted.trans (unmuted q)) k
  have here : floodGroup k x u g = sendOn u q k := (if_neg other).trans (by rw [pick])
  obtain ⟨f, o, since, told⟩ := sent
  exact ⟨q, ⟨f, o, first.out.trans since, by rw [here]; exact told.trans (more after _).out⟩, own⟩

theorem markLost_fab_congr {u v : State} (h : u.fab = v.fab) (e : KnellEntry) : (markLost u e).fab = (markLost v e).fab := by
  unfold markLost
  dsimp only
  rw [h]
  split
  · rw [modFab_fab, modFab_fab, modFab_fab, modFab_fab, h]
  · rw [modFab_fab, modFab_fab, h]

/-- What the Belfry takes of a Knell or a LINKUP in the fabric. -/
theorem takeKnell_fab (s : State) (e : KnellEntry) : (takeKnell s e).fab =
      (if e.kind = 0 then (markLost (modFab s fun f => { f with knells := f.knells + 1 }) e).fab else s.fab) ∧
    (takeKnell s e).diag.knellLog = (e :: s.diag.knellLog).take 2048 := by
  unfold takeKnell
  extract_lets u v
  have logged : u.fab = s.fab ∧ u.diag.knellLog = (e :: s.diag.knellLog).take 2048 := ⟨rfl, rfl⟩
  split
  · have told := frame_postNotice (markLost v e) 0x0005 none (knellBody e)
    have marked : (markLost v e).diag = u.diag := by
      unfold markLost
      dsimp only
      split <;> rfl
    have fab : (markLost v e).fab = (markLost (modFab s fun f => { f with knells := f.knells + 1 }) e).fab :=
      markLost_fab_congr (show v.fab = (modFab s fun f => { f with knells := f.knells + 1 }).fab from rfl) e
    refine ⟨Eq.trans (told .fab (by decide)) fab, ?_⟩
    rw [show (postNotice (markLost v e) 0x0005 none (knellBody e)).diag = (markLost v e).diag from told .diag (by decide), marked, logged.2]
  · have told := frame_postNotice u 0x0006 none (knellBody e)
    exact ⟨told .fab (by decide), by
      rw [show (postNotice u 0x0006 none (knellBody e)).diag = u.diag from told .diag (by decide), logged.2]⟩

/-- Two reporters have named one module within a millisecond. -/
def NamedTwice (s : State) (e : KnellEntry) : Prop :=
  ∃ q ∈ s.fab.recent, q.1 = e.lost ∧ q.2.1 ≠ e.reporter ∧ ticksSince e.time q.2.2 ≤ 4000000

theorem markLost_fab (s : State) (e : KnellEntry) : ((markLost s e).fab.knells = s.fab.knells ∧ (markLost s e).fab.knellMem = s.fab.knellMem) ∧
    (NamedTwice s e → (markLost s e).fab.routes = mapSet s.fab.routes e.lost.toNat 0xF) ∧
    (¬ NamedTwice s e → (markLost s e).fab.routes = s.fab.routes) := by
  have twice : (((s.fab.recent.filter fun q => decide (ticksSince e.time q.2.2 ≤ 1000 * ticksPerUs)).any fun q =>
      q.1 == e.lost && q.2.1 != e.reporter) = true) ↔ NamedTwice s e := by
    rw [List.any_eq_true]
    constructor
    · rintro ⟨q, hq, named⟩
      obtain ⟨inside, near⟩ := List.mem_filter.mp hq
      obtain ⟨lost, other⟩ := Bool.and_eq_true_iff.mp named
      exact ⟨q, inside, beq_iff_eq.mp lost, bne_iff_ne.mp other, of_decide_eq_true near⟩
    · rintro ⟨q, inside, lost, other, near⟩
      exact ⟨q, List.mem_filter.mpr ⟨inside, decide_eq_true near⟩, by simp [lost, other]⟩
  unfold markLost
  dsimp only
  by_cases h : NamedTwice s e
  · rw [if_pos (twice.mpr h)]
    exact ⟨⟨rfl, rfl⟩, fun _ => rfl, fun no => absurd h no⟩
  · rw [if_neg (fun c => h (twice.mp c))]
    exact ⟨⟨rfl, rfl⟩, fun yes => absurd yes h, fun _ => rfl⟩

/-- R280 to R282: a Knell or a LINKUP heard for the first time. -/
theorem flood_heard {c : Instr} (wf : packetWf k = true) (up : portUp (getPort s p.val) = true) (flood : k.flood = true) (hops : k.hopsLeft ≠ 0)
    (hc : c = .knell p k ∧ k.ptype = 8 ∨ c = .linkup p k ∧ k.ptype = 9)
    (fresh : s.fab.knellMem.contains (k.src, k.addr.extractLsb' 21 16) = false) (belfry : belfryUp s = true)
    (unmuted : ∀ q, (getPort s q).muted = false) : ∃ t e, exec c s = .next t ∧ Apart s t ∧
      e = knellOf s k (BitVec.ofNat 8 p.val) ∧
      t.fab.knellMem = ((k.src, k.addr.extractLsb' 21 16) :: s.fab.knellMem).take 1024 ∧
      t.diag.knellLog = (e :: s.diag.knellLog).take 2048 ∧
      t.fab.knells = (if k.ptype = 8 then s.fab.knells + 1 else s.fab.knells) ∧
      (∀ g, g < groupCount s → g ≠ p.val / 4 → groupUp s g false ≠ [] → ∃ q, Sent s t q (onPort (onward k)) ∧ q / 4 = g) ∧
      (k.ptype = 8 → NamedTwice s e → t.fab.routes = mapSet s.fab.routes e.lost.toNat 0xF) ∧
      (k.ptype = 8 → ¬ NamedTwice s e → t.fab.routes = s.fab.routes) ∧ (k.ptype = 9 → t.fab.routes = s.fab.routes) := by
  have run := exec_flood wf up flood hops hc
  obtain ⟨u, hu⟩ : ∃ u, u = modFab (oweCredits s p.val k) fun f => { f with knellMem := ((k.src, k.addr.extractLsb' 21 16) :: f.knellMem).take 1024 } :=
    ⟨_, rfl⟩
  have alike : RoutesAlike s u := hu ▸ (routesAlike_oweCredits s p k).modFab
  have ufab : u.fab = { s.fab with ports := u.fab.ports, knellMem := ((k.src, k.addr.extractLsb' 21 16) :: s.fab.knellMem).take 1024 } := by
    rw [hu]
    rfl
  have frame : AllBut [.fab, .ports, .engines] s u := hu ▸ (frame_oweCredits s p k).mono.trans (frame_modFab _ _).mono
  have hears : hearFlood (oweCredits s p.val k) (onward k) (some (p.val / 4)) (BitVec.ofNat 8 p.val) =
      belfryEvent (floodOut u (onward k) (some (p.val / 4))) (knellOf u (onward k) (BitVec.ofNat 8 p.val)) := by
    rw [hu]
    exact if_neg (Bool.eq_false_iff.mp fresh)
  have told : knellOf u (onward k) (BitVec.ofNat 8 p.val) = knellOf s k (BitVec.ofNat 8 p.val) := by
    have time : u.time = s.time := frame .time (by decide)
    rw [knellOf, time]
    rfl
  obtain ⟨e, he⟩ : ∃ e, e = knellOf s k (BitVec.ofNat 8 p.val) := ⟨_, rfl⟩
  rw [hears, told, ← he] at run
  have sends {g : Nat} (hg : g < groupCount s) (other : g ≠ p.val / 4) (usable : groupUp s g false ≠ []) :
      ∃ q, Sent u (floodOut u (onward k) (some (p.val / 4))) q (onPort (onward k)) ∧ q / 4 = g :=
    floodOut_sends (fun q => by
      obtain ⟨o, ho⟩ := alike.ports q
      rw [ho]
      exact unmuted q) (by rw [groupCount, alike.opt]; exact hg) (by simpa using other) (by rw [alike.groupUp]; exact usable)
  have only := sentOnly_floodOut u (onward k) (some (p.val / 4))
  have out := frame_floodOut u (onward k) (some (p.val / 4))
  have moved : LinkMoves s (floodOut u (onward k) (some (p.val / 4))) :=
    (LinkMoves.of_frame frame).trans (floodOut_moves u (onward k) (some (p.val / 4))).1
  generalize floodOut u (onward k) (some (p.val / 4)) = v at run sends only out moved
  have up' : belfryUp v = true := by
    rw [belfryUp, show v.hub = s.hub from Eq.trans (out .hub (by decide)) (frame .hub (by decide))]
    exact belfry
  have taken : belfryEvent v e = takeKnell v e := if_pos up'
  rw [taken] at run
  obtain ⟨fab, log⟩ := takeKnell_fab v e
  have apart := (moved.trans (takeKnell_moves v e).1).apart
  have outbox : v.outbox <:+ (takeKnell v e).outbox := (takeKnell_moves v e).1.frame .sent (by decide)
  have diag : v.diag = s.diag := Eq.trans (out .diag (by decide)) (frame .diag (by decide))
  have vfab : v.fab = { s.fab with ports := v.fab.ports, knellMem := ((k.src, k.addr.extractLsb' 21 16) :: s.fab.knellMem).take 1024 } := by
    rw [only, ufab]
  have kind : e.kind = if k.ptype = 8 then 0 else 1 := by rw [he]; rfl
  generalize takeKnell v e = w at run fab log apart outbox
  have sfab := settle_fab w
  refine ⟨_, e, run, apart.then_settle, he, ?_, ?_, ?_, fun g hg other usable => ?_, ?_⟩
  · rw [sfab, fab]
    split
    · rw [(markLost_fab _ e).1.2]
      show v.fab.knellMem = _
      rw [vfab]
    · rw [vfab]
  · rw [(settle_settled w).out.diag, log, diag]
  · rw [sfab, fab, kind]
    by_cases h8 : k.ptype = 8
    · rw [if_pos h8, if_pos rfl, if_pos h8, (markLost_fab _ e).1.1]
      show v.fab.knells + 1 = _
      rw [vfab]
    · rw [if_neg h8, if_neg (by decide), if_neg h8, vfab]
  · obtain ⟨q, sent, group⟩ := sends hg other usable
    exact ⟨q, ((sent.before (frame .outbox (by decide))).after outbox).settle, group⟩
  · have routes : v.fab.routes = s.fab.routes := by rw [vfab]
    have recent : v.fab.recent = s.fab.recent := by rw [vfab]
    have named : NamedTwice (modFab v fun f => { f with knells := f.knells + 1 }) e ↔ NamedTwice s e := by
      unfold NamedTwice
      rw [modFab_fab, recent]
    rw [sfab, fab, kind]
    refine ⟨fun h8 twice => ?_, fun h8 once => ?_, fun h9 => ?_⟩
    · rw [if_pos h8, if_pos rfl, (markLost_fab _ e).2.1 (named.mpr twice)]
      show mapSet v.fab.routes e.lost.toNat 0xF = _
      rw [routes]
    · rw [if_pos h8, if_pos rfl, (markLost_fab _ e).2.2 (fun t => once (named.mp t))]
      exact routes
    · rw [if_neg (by rw [h9]; decide)]
      exact routes

theorem flood_known {c : Instr} (wf : packetWf k = true) (up : portUp (getPort s p.val) = true) (flood : k.flood = true) (hops : k.hopsLeft ≠ 0)
    (hc : c = .knell p k ∧ k.ptype = 8 ∨ c = .linkup p k ∧ k.ptype = 9)
    (known : s.fab.knellMem.contains (k.src, k.addr.extractLsb' 21 16) = true) : Leads c s (oweCredits s p.val k) := by
  refine leads_done (u := oweCredits s p.val k) ((exec_flood wf up flood hops hc).trans (congrArg done ?_)) (.refl _)
  exact if_pos known

end

/-- Settles O27. -/
theorem packetsEndOrMoveOn : Obligations.PacketsEndOrMoveOn := by
  refine ⟨fun p k ok s u calm none_ => ⟨fun hu h => compl_late calm h none_ hu, fun hu h plain => readResp_late calm h plain none_ hu,
    requestTimeout_rests calm none_⟩, ?_, ?_, ?_⟩
  · rintro p k ok r n id req first again j j' s u calm gen found more rfl rfl
    refine ⟨?_, fun current hr => ⟨fun owner h status => compl_ok calm gen found more current hr owner h status rfl,
      fun b owner h plain blocks good left => readResp_keeps calm gen found more current hr owner h plain blocks good rfl left⟩⟩
    rintro c (⟨rfl, h, current, status, hr⟩ | ⟨rfl, hr⟩) owner sound runs
    · have frame := frame_bufferFreed s p.val 4 k
      have asked : answered (bufferFreed s p.val 4 k) k = some r := by
        rw [answered_current (by rw [getCtx_congr (frame .ctxs (by decide))]; exact current), reqOf, reqs_bufferFreed]
        exact hr
      have taken : takeCompl k (bufferFreed s p.val 4 k) = takeAnswer (bufferFreed s p.val 4 k) r fun s => requestFailed s r := by
        rw [takeCompl, asked]
        dsimp only
        simp only [if_neg status]
      obtain ⟨t, done_, result⟩ := copyWrite_failed calm gen found more owner sound runs frame reqs_bufferFreed
      exact ⟨t, (exec_compl h).trans ((congrArg doneMem taken).trans done_), result⟩
    · obtain ⟨t, done_, result⟩ := copyWrite_failed calm gen found more owner sound runs (.refl _ s) rfl
      refine ⟨t, (exec_requestTimeout k.reqId).trans ?_, result⟩
      rw [hr]
      exact done_
  · rintro p d k s u wf up rfl
    refine ⟨fun h1 h7 flood => ⟨packetForward_leaves wf up h1 h7 flood, fun hops => packetForward_hops wf up h1 h7 flood hops rfl,
        fun hops us none_ => ⟨fun other => packetForward_lost wf up h1 h7 flood hops us none_ other rfl,
          packetForward_refused wf up h1 h7 flood hops us none_⟩⟩, fun reserved => ?_, fun live => ?_, fun h10 flood => ?_, fun h10 flood => ?_⟩
    · exact leads_done (u := countHdr (oweCredits s p.val k))
        ((exec_packetForward wf up).trans (congrArg done (forward_reserved reserved))) (.refl _)
    · refine leads_done (u := modFab s fun f => { f with dropAge := f.dropAge + 1 }) ((exec_packetAgeDrop wf).trans (congrArg done (if_neg ?_)))
        (.refl _)
      rw [live]
      decide
    · refine leads_done (u := countHdr (oweCredits s p.val k)) ((exec_link wf).trans (congrArg done ?_)) (.refl _)
      rw [portUp_bufferFreed, bufferFreed_owes h10 up, h10, up, flood]
      rfl
    · refine leads_done (u := oweCredits s p.val k) ((exec_link wf).trans (congrArg done ?_)) (.refl _)
      rw [bufferFreed_owes h10 up, flood, Bool.and_false]
      rfl
  · rintro p k s c lost wf up flood hops rfl hc
    refine ⟨flood_known wf up flood hops hc, fun fresh belfry unmuted => ?_⟩
    obtain ⟨t, e, run, apart, he, mem, log, knells, sends, twice, once, back⟩ := flood_heard wf up flood hops hc fresh belfry unmuted
    have lost : e.lost = k.addr.extractLsb' 0 17 := by rw [he]; rfl
    have time : e.time = s.time.now := by rw [he]; rfl
    have reporter : e.reporter = k.src := by rw [he]; rfl
    refine ⟨t, e, run, apart, mem, log, reporter, lost, ?_, by rw [he]; rfl, knells, fun g hg other usable => ?_, fun h8 named => ?_,
      fun h8 far => ?_, back⟩
    · rw [he]
      exact Nat.mod_eq_of_lt (by have := p.isLt; omega)
    · obtain ⟨q, sent, group⟩ := sends g hg other usable
      exact ⟨q, _, sent, group, rfl, rfl, rfl, rfl⟩
    · obtain ⟨q, hq, named, other, near⟩ := named
      have routes := twice h8 ⟨q, hq, named.trans lost.symm, by rw [reporter]; exact other, by rw [time]; exact near⟩
      rw [lost] at routes
      refine ⟨?_, fun a ha => ?_⟩
      · rw [routeOf, routes, mapGet_set_same]
      · rw [routeOf, routes, mapGet_set_other _ (fun same => ha (BitVec.eq_of_toNat_eq same)), routeOf]
    · refine once h8 ?_
      rintro ⟨q, hq, named, other, near⟩
      have away := far q hq (named.trans lost) (by rw [← reporter]; exact other)
      rw [time] at near
      omega

end Sys2Proof.Machine
end

section
-- One proof after the other: a text of this length has more proofs waiting at once than the check has threads for.
set_option Elab.async false
/-! PROOFS. The data instructions of the collective engines (R271, R272): what one chunk comes to, and what it sends. -/
namespace Sys2Proof.Machine

/-! ### What can be reached after something was sent -/

/-- Of two states the routes, the ports that are up, and those that are muted are the same. -/
structure ReachAlike (s u : State) : Prop where
  routes : u.fab.routes = s.fab.routes
  up     : ∀ g link, groupUp u g link = groupUp s g link
  muted  : ∀ q, (getPort u q).muted = (getPort s q).muted

section
variable {s t u : State} {c : Nat} {k : Packet}

theorem ReachAlike.refl (s : State) : ReachAlike s s := ⟨rfl, fun _ _ => rfl, fun _ => rfl⟩

theorem ReachAlike.trans (h : ReachAlike s t) (k : ReachAlike t u) : ReachAlike s u :=
  ⟨k.routes.trans h.routes, fun g l => (k.up g l).trans (h.up g l), fun q => (k.muted q).trans (h.muted q)⟩

theorem ReachAlike.of_ports (opt : u.opt = s.opt) (routes : u.fab.routes = s.fab.routes) (ports : ∀ q, (getPort u q).st = (getPort s q).st ∧
    (getPort u q).perLink = (getPort s q).perLink ∧ (getPort u q).muted = (getPort s q).muted) : ReachAlike s u := by
  refine ⟨routes, fun g link => ?_, fun q => (ports q).2.2⟩
  have fitted : groupPorts u g = groupPorts s g := by rw [groupPorts, portCount, opt, groupPorts, portCount]
  unfold Machine.groupUp
  rw [fitted]
  refine List.filter_congr fun q _ => ?_
  obtain ⟨st, link, -⟩ := ports q
  rw [portUp, st, link, portUp]

theorem ReachAlike.of_frame {l : List Part} (h : AllBut l s u) (hl : ∀ q ∈ [Part.opt, .fab], q ∉ l := by decide) : ReachAlike s u := by
  have fab : u.fab = s.fab := h .fab (hl _ (by decide))
  have ports (q : Nat) : getPort u q = getPort s q := getPort_congr (congrArg Fabric.ports fab) q
  exact .of_ports (h .opt (hl _ (by decide))) (congrArg Fabric.routes fab) fun q => by rw [ports]; exact ⟨rfl, rfl, rfl⟩

theorem ReachAlike.reaches (h : ReachAlike s u) {link : Bool} {a : BitVec 17} (r : ReachesBy s link a) : ReachesBy u link a := by
  have route : routeOf u a = routeOf s a := by rw [routeOf, h.routes, routeOf]
  exact ⟨route ▸ r.1, by rw [route, h.up]; exact r.2.1, fun q => (h.muted q).trans (r.2.2 q)⟩

theorem reachAlike_sendOn (s : State) (p : Nat) (k : Packet) : ReachAlike s (sendOn s p k) := by
  have frame := frame_sendOn s p k
  refine .of_ports (frame .opt (by decide)) ?_ fun q => ?_
  · have only := sentOnly_sendOn s p k
    rw [only]
  by_cases hp : p < 36
  · have sent : getPort (sendOn s p k) q = getPort (setPort s p (portSends (getPort s p) (onPort k))) q := by
      unfold sendOn
      dsimp only
      rw [if_pos hp]
      split <;> rfl
    rw [sent]
    by_cases hq : q = p
    · subst hq
      rw [getPort_setPort_same s hp]
      exact ⟨rfl, rfl, rfl⟩
    · rw [getPort_setPort_other s hq]
      exact ⟨rfl, rfl, rfl⟩
  · have sent : sendOn s p k = emit s (.packet p (onPort k)) := if_neg hp
    rw [sent]
    exact ⟨rfl, rfl, rfl⟩

/-- What a packet that is not sealed moves. -/
theorem sendRouted_moves (plain : sealPacket s c k = some (s, k)) :
    AllBut fabricParts s (sendRouted s c k).1 ∧ ReachAlike s (sendRouted s c k).1 := by
  unfold sendRouted
  rw [plain]
  dsimp only
  split
  · exact ⟨frame_sendOn s _ _, reachAlike_sendOn s _ _⟩
  · exact ⟨frame_sendOn s 36 _, reachAlike_sendOn s 36 _⟩
  · exact ⟨.refl _ s, .refl s⟩
  · exact ⟨frame_dropNoroute s, .of_ports rfl rfl fun _ => ⟨rfl, rfl, rfl⟩⟩

/-- A packet that is not sealed leaves as it is. -/
theorem sendRouted_out (plain : sealPacket s c k = some (s, k)) (reach : ReachesBy s (needsLink s c) k.dst) : ∃ q, q < 36 ∧
    (sendRouted s c k).1 = sendOn s q (leaveBy s ((routeOf s k.dst).toNat % 16) k) := by
  obtain ⟨q, -, fitted, -, out⟩ := route_out (k' := k) reach
  refine ⟨q, fitted, ?_⟩
  unfold sendRouted
  rw [plain]
  dsimp only
  rw [out]

theorem Sent.from {q : Nat} (h : Sent t u q k) (out : s.outbox <:+ t.outbox) : Sent s u q k := by
  obtain ⟨f, o, before, after⟩ := h
  exact ⟨f, o, out.trans before, after⟩

end

/-! ### COLL_CTRL and COLL_DATA (R269, R273) -/

/-- The COLL_CTRL packet of a program. -/
def collCtrlOf (s : State) (p : Program) (c : Nat) (b : CollCtrl) : Packet :=
  { barePacket s 7 (chanAddr p c) with
    dctx := BitVec.ofNat 6 p.ctx, sctx := BitVec.ofNat 6 p.ctx, scgen := p.gen, cls := 1, addr := collAddr p c 0, ctrl := some b }

/-- The COLL_DATA packet of a program's next chunk. -/
def collDataOf (s : State) (p : Program) (c : Nat) (wire : Bytes) : Packet :=
  { barePacket s 6 (chanAddr p c) with
    dctx := BitVec.ofNat 6 p.ctx, sctx := BitVec.ofNat 6 p.ctx, scgen := p.gen, cls := 1, addr := collAddr p c (mapGet p.sent c 0),
    blocks := (chunksOf 256 8 wire).map fun d => mkBlock (fit 256 d) }

/-- A program that has sent a chunk on a channel. -/
def chunkSent (p : Program) (c : Nat) : Program :=
  { p with sent := mapSet p.sent c (mapGet p.sent c 0 + 1), credits := mapSet p.credits c (mapGet p.credits c 0 - 1) }

/-- A program that has consumed a chunk of a channel. -/
def chunkTaken (p : Program) (c : Nat) : Program :=
  { p with got := mapSet p.got c (mapGet p.got c 0 + 1), rx := mapErase p.rx (chunkKey c (mapGet p.got c 0)) }

section
variable {s t u : State} {p : Program} {c e n : Nat} {w : Bytes}

theorem sendCtrl_eq (s : State) (p : Program) (c : Nat) (b : CollCtrl) : sendCtrl s p c b = (sendRouted s p.ctx (collCtrlOf s p c b)).1 := rfl

theorem consume_eq (s : State) (p : Program) (c : Nat) : consume s p c = (sendCtrl s p c (.credit 1), chunkTaken p c) := rfl

theorem collAddr_tag (p : Program) (c n : Nat) : (collAddr p c n).extractLsb' 0 16 = chanTag p c := by
  have small := (chanTag p c).isLt
  refine BitVec.eq_of_toNat_eq ?_
  simp only [collAddr, BitVec.extractLsb'_toNat, BitVec.toNat_ofNat, Nat.shiftRight_zero]
  omega

theorem needsLink_plain (open_ : isConf s (getCtx s c).part = false) : needsLink s c = false := by simp [needsLink, open_]

/-- A COLL_CTRL is not sealed. -/
theorem sealPacket_ctrl (b : CollCtrl) (x : Nat) : sealPacket s x (collCtrlOf s p c b) = some (s, collCtrlOf s p c b) := by
  have open_ : (isConf s (getCtx s x).part && sealedType (collCtrlOf s p c b).ptype) = false := by
    rw [show sealedType (collCtrlOf s p c b).ptype = false from rfl, Bool.and_false]
  unfold sealPacket
  dsimp only
  rw [open_]
  rfl

theorem sendCtrl_moves (s : State) (p : Program) (c : Nat) (b : CollCtrl) :
    AllBut fabricParts s (sendCtrl s p c b) ∧ ReachAlike s (sendCtrl s p c b) := sendRouted_moves (sealPacket_ctrl b p.ctx)

theorem sendCtrl_sends (s : State) (p : Program) (c : Nat) (b : CollCtrl) : SendsCtrl s (sendCtrl s p c b) p c b := by
  intro reach
  obtain ⟨q, fitted, eq⟩ := sendRouted_out (k := collCtrlOf s p c b) (sealPacket_ctrl b p.ctx) reach
  rw [sendCtrl_eq, eq]
  exact ⟨q, _, sendOn_sent fitted (reach.2.2 q) _, rfl, rfl, collAddr_tag p c 0, rfl⟩

theorem SendsCtrl.after {b : CollCtrl} (h : SendsCtrl s t p c b) (out : t.outbox <:+ u.outbox) : SendsCtrl s u p c b := fun reach => by
  obtain ⟨q, k, sent, is⟩ := h reach
  exact ⟨q, k, sent.after out, is⟩

/-- A COLL_CTRL goes out as from an earlier state in which the same can be reached. -/
theorem SendsCtrl.from {b : CollCtrl} (h : SendsCtrl t u p c b) (alike : ReachAlike s t) (link : needsLink t p.ctx = needsLink s p.ctx)
    (out : s.outbox <:+ t.outbox) : SendsCtrl s u p c b := fun reach => by
  obtain ⟨q, k, sent, is⟩ := h (link ▸ alike.reaches reach)
  exact ⟨q, k, sent.from out, is⟩

theorem needsLink_kept {l : List Part} (h : AllBut l s t) (c : Nat) (hl : ∀ q ∈ [Part.hub, .ctxs], q ∉ l := by decide) :
    needsLink t c = needsLink s c := by
  have same := getCtx_congr (h .ctxs (hl _ (by decide))) c
  exact needsLink_congr (h .hub (hl _ (by decide))) (by rw [same]) (by rw [same]) (by rw [same])

theorem collPort_some {g : Nat} {link : Bool} (h : groupUp s g link ≠ []) (d : Nat) :
    ∃ q, collPort s g d link = some q ∧ q ∈ groupUp s g link := by
  unfold collPort
  dsimp only
  split
  next inside => exact ⟨_, rfl, List.contains_iff_mem.mp inside⟩
  · exact ⟨_, List.head?_eq_some_head h, List.head_mem h⟩

/-- A chunk leaves by a port of its route. -/
theorem sendChunk_sends (open_ : isConf s (getCtx s p.ctx).part = false) (reach : Reaches s (chanAddr p c)) : ∃ q, q < 36 ∧
    sendChunk s e p c w = (sendOn s q (leaveBy s ((routeOf s (chanAddr p c)).toNat % 16) (collDataOf s p c w)), chunkSent p c) := by
  have plain : sealPacket s p.ctx (collDataOf s p c w) = some (s, collDataOf s p c w) := by simp [sealPacket, open_]
  obtain ⟨group, up, -⟩ := reach
  obtain ⟨q, pick, at_⟩ := collPort_some up e
  have out : route s false (fun g => collPort s g e false) (collDataOf s p c w) =
      .out q (leaveBy s ((routeOf s (chanAddr p c)).toNat % 16) (collDataOf s p c w)) := by
    have usable : (if (groupUp s ((routeOf s (chanAddr p c)).toNat % 16) false).isEmpty then none else
        collPort s ((routeOf s (chanAddr p c)).toNat % 16) e false) = some q :=
      (if_neg (by rw [List.isEmpty_iff]; exact up)).trans pick
    have dst : (collDataOf s p c w).dst = chanAddr p c := rfl
    unfold route
    dsimp only
    rw [dst, if_neg (by omega), if_neg (by omega), usable]
  refine ⟨q, (mem_groupUp at_).2.1, ?_⟩
  unfold sendChunk
  dsimp only
  change (match sealPacket s p.ctx (collDataOf s p c w) with
    | none => (s, chunkSent p c)
    | some (s, k) => match route s (needsLink s p.ctx) (fun g => collPort s g e (needsLink s p.ctx)) k with
      | .out o k => (sendOn s o k, chunkSent p c)
      | .self => (sendOn s 36 k, chunkSent p c)
      | .refused => (s, chunkSent p c)
      | .noRoute => (modFab s fun f => { f with dropNoroute := f.dropNoroute + 1 }, chunkSent p c)) = _
  rw [plain]
  dsimp only
  rw [needsLink_plain open_, out]

end

end Sys2Proof.Machine
end

section
-- One proof after the other: a text of this length has more proofs waiting at once than the check has threads for.
set_option Elab.async false
/-! PROOFS. One chunk of a data instruction, to its end or to its failure (R271, R272, R274). -/
namespace Sys2Proof.Machine

section
variable {s t u v : State} {p q : Program} {i : CInstr} {e n op len d cls : Nat} {w : Bytes} {bs : List Block} {c : Instr}

/-! ### What the memory accesses of a chunk leave alone -/

theorem frame_takeAll : ∀ {l : List Nat} {s t : State}, takeAll d cls l s = some t → AllBut [.mem] s t
  | [], s, t, h => by
    cases h
    exact .refl _ s
  | b :: l, s, t, h => by
    obtain ⟨u, taken, rest⟩ := Option.bind_eq_some_iff.mp h
    exact (frame_takeTokens taken).trans (frame_takeAll rest)

theorem frame_engineTokens (h : engineTokens s e p i len (chunkPlaces i) = some t) : AllBut [.mem] s t := frame_takeAll h

/-- A context keeps its partition's openness where the hub and the contexts stay. -/
theorem isConf_kept {l : List Part} {k : Nat} (h : AllBut l s t) (open_ : isConf s (getCtx s k).part = false)
    (hl : ∀ q ∈ [Part.hub, .ctxs], q ∉ l := by decide) : isConf t (getCtx t k).part = false := by
  rw [isConf_congr (h .hub (hl _ (by decide))), getCtx_congr (h .ctxs (hl _ (by decide))), open_]

theorem frame_localChunk {r : State × Bytes} (open_ : isConf s (getCtx s p.ctx).part = false) (h : localChunk s p i len = some r) :
    AllBut readParts s r.1 := (memMoves_readBytesVa h).plain open_

theorem frame_store {a : Nat} {b : Bytes} {f : Bool} (open_ : isConf s (getCtx s p.ctx).part = false) (h : putVa s p.ctx a b f = some t) :
    AllBut writeParts s t := (memMoves_putVa h).plain open_

/-! ### What a chunk comes to -/

/-- The elements of the last chunk. -/
theorem lastChunk_len (last : i.count ≤ p.pos + perChunk i) : min (perChunk i) (i.count - p.pos) = i.count - p.pos := by omega

theorem advance_last (q : Program) (h : q.pos = p.pos) : advance q i (i.count - p.pos) = nextInstr q := if_pos (by omega)

section
variable (last : i.count ≤ p.pos + perChunk i) (tokens : engineTokens s e p i (i.count - p.pos) (chunkPlaces i) = some t)
include last tokens

theorem chunkStep_send (hop : i.op = cSend) (credit : 1 ≤ mapGet p.credits i.chOut 0) {b : Bytes}
    (read : localChunk t p i (i.count - p.pos) = some (u, b)) : chunkStep s e p i =
      let r := sendChunk u e p i.chOut (elemBytes i.wfmt ((elemsOf i.lfmt b).map (moveElem i.lfmt i.wfmt)))
      .moved r.1 (advance r.2 i (i.count - p.pos)) := by
  have noCredit : (mapGet p.credits i.chOut 0 == 0) = false := by simpa using Nat.ne_of_gt credit
  unfold chunkStep
  rw [lastChunk_len last]
  dsimp only
  rw [noCredit, Bool.and_false, if_neg (by decide), if_pos hop, tokens]
  dsimp only
  rw [chunkSend, read]

theorem chunkStep_recv (hop : i.op ≠ cSend) (credit : isSend i.op = true → 1 ≤ mapGet p.credits i.chOut 0)
    (rx : mapGet? p.rx (chunkKey i.chIn (mapGet p.got i.chIn 0)) = some bs) (good : bs.all blockOk = true) :
    chunkStep s e p i = chunkRecv t e p i (i.count - p.pos) ((bs.flatMap (·.data)).take ((i.count - p.pos) * collBytes i.wfmt)) := by
  have paid : ¬ (isSend i.op && mapGet p.credits i.chOut 0 == 0) = true := by
    simp only [Bool.and_eq_true, beq_iff_eq, not_and]
    exact fun h => Nat.ne_of_gt (credit h)
  unfold chunkStep
  rw [lastChunk_len last]
  dsimp only
  rw [if_neg paid, if_neg hop, rx]
  dsimp only
  rw [if_pos good, tokens]

end

/-- What an instruction stores of a chunk. -/
def storedOf (s : State) (p : Program) (i : CInstr) : Option (Nat × List Nat) → Option State
  | some q => storeElems s p i q.1 q.2
  | none => some s

/-- A chunk that came, with its credit given back, and sent on where the instruction does. -/
def passedOn (s : State) (e : Nat) (p : Program) (i : CInstr) : Option Bytes → State × Program
  | some w => sendChunk (sendCtrl s p i.chIn (.credit 1)) e (chunkTaken p i.chIn) i.chOut w
  | none => (sendCtrl s p i.chIn (.credit 1), chunkTaken p i.chIn)

theorem chunkRecv_moves {put : Option (Nat × List Nat)} {on : Option Bytes} (result : chunkResult s p i len w = some (u, put, on))
    (store : storedOf u p i put = some v) : chunkRecv s e p i len w =
      .moved (passedOn v e p i on).1 (advance (passedOn v e p i on).2 i len) := by
  unfold chunkRecv
  rw [result]
  cases put with
  | none =>
    cases Option.some.inj store
    cases on <;> rfl
  | some a =>
    change storeElems u p i a.1 a.2 = some v at store
    dsimp only
    rw [store]
    cases on <;> rfl

end

/-! ### A data instruction runs -/

section
variable {s t u v : State} {p q : Program} {i : CInstr} {e n op len : Nat} {w : Bytes} {bs : List Block} {c : Instr}

theorem runData_loop (hr : RunsAt s e n op p i) : runData s e n op = chunkLoop 16 s e n p.idx := by
  obtain ⟨at_, cur, hop⟩ := hr
  rw [runData, at_]
  dsimp only
  rw [cur]
  exact if_pos hop

theorem chunkLoop_step (hr : RunsAt s e n op p i) (k : Nat) : chunkLoop (k + 1) s e n p.idx = match chunkStep s e p i with
    | .wait => if lacksTokens s e p i then holdTokens s e 1 else s
    | .crc => if p.crcAgain then failProgram s e n p 2 else chunkLoop k (setRunning s e n { p with crcAgain := true }) e n p.idx
    | .moved s p' => chunkLoop k (setRunning s e n p') e n p.idx := by
  obtain ⟨at_, cur, -⟩ := hr
  rw [chunkLoop, at_]
  dsimp only
  rw [cur]
  dsimp only
  rw [if_neg (by simp)] <;> rfl

/-- The loop ends where the program stands at another instruction. -/
theorem chunkLoop_ends (at_ : runningAt s e n = some q) {idx : Nat} (h : q.idx ≠ idx) : ∀ k, chunkLoop k s e n idx = s
  | 0 => rfl
  | k + 1 => by
    rw [chunkLoop, at_]
    dsimp only
    split
    · rfl
    · rw [if_pos h]

/-- The last chunk of an instruction leaves the program at the next one. -/
theorem runData_moves (he : e < 4) (hr : RunsAt s e n op p i) (step : chunkStep s e p i = .moved u q) (next : q.idx ≠ p.idx)
    (engines : u.fab.engines = s.fab.engines) : runData s e n op = setRunning u e n q := by
  have at_ : runningAt u e n = some p := (runningAt_of_engine (getEngine_congr engines e) n).trans hr.1
  rw [runData_loop hr, chunkLoop_step hr, step]
  exact chunkLoop_ends (runningAt_setRunning he at_ q) next 15

/-- What the state shows after the last chunk of an instruction. -/
theorem chunk_runs (he : e < 4) (calm : NoLockout s) (hr : RunsAt s e n op p i) (run : exec c s = doneMem (runData s e n op))
    (step : chunkStep s e p i = .moved u q) (next : q.idx ≠ p.idx) (frame : AllBut (.fab :: .ports :: .outbox :: writeParts) s u) :
    ∃ t, exec c s = .next t ∧ t.mem = u.mem ∧ t.ctxs = s.ctxs ∧ t.slots = s.slots ∧ runningAt t e n = some q ∧ u.outbox <:+ t.outbox := by
  have engines : u.fab.engines = s.fab.engines := frame .engines (by decide)
  have ctxs : u.ctxs = s.ctxs := frame .ctxs (by decide)
  have slots : u.slots = s.slots := frame .slots (by decide)
  have at_ : runningAt u e n = some p := (runningAt_of_engine (getEngine_congr engines e) n).trans hr.1
  have calm' : NoLockout (setRunning u e n q) := fun k => by
    rw [getCtx_congr (s := s) (t := setRunning u e n q) ctxs]
    exact calm k
  have kept := settle_settled (setRunning u e n q)
  refine ⟨_, run.trans (by rw [runData_moves he hr step next engines, doneMem_eq calm']; rfl), kept.out.mem, kept.out.ctxs.trans ctxs,
    kept.out.slots.trans slots, ?_, kept.out.outbox⟩
  rw [runningAt_of_engine (getEngine_congr (congrArg Fabric.engines kept.out.fab) e)]
  exact runningAt_setRunning he at_ q

/-- An instruction without its credit or its data waits. -/
theorem chunkStep_waits (h : isSend i.op = true ∧ mapGet p.credits i.chOut 0 = 0 ∨
    isRecv i.op = true ∧ mapGet? p.rx (chunkKey i.chIn (mapGet p.got i.chIn 0)) = none) :
    chunkStep s e p i = .wait ∧ lacksTokens s e p i = false := by
  rcases h with ⟨send, credit⟩ | ⟨recv, rx⟩
  · constructor
    · unfold chunkStep
      dsimp only
      rw [send, credit]
      rfl
    · unfold lacksTokens
      dsimp only
      rw [send, credit]
      rfl
  · have hop : i.op ≠ cSend := by
      rintro h
      rw [h] at recv
      cases recv
    constructor
    · unfold chunkStep
      dsimp only
      rw [rx, if_neg hop]
      split <;> rfl
    · unfold lacksTokens
      dsimp only
      rw [rx, beq_eq_false_iff_ne.mpr hop]
      simp

theorem chunkStep_bad (recv : isRecv i.op = true) (credit : isSend i.op = true → 1 ≤ mapGet p.credits i.chOut 0)
    (rx : mapGet? p.rx (chunkKey i.chIn (mapGet p.got i.chIn 0)) = some bs) (bad : bs.all blockOk = false) :
    chunkStep s e p i = .crc := by
  have hop : i.op ≠ cSend := by
    rintro h
    rw [h] at recv
    cases recv
  have paid : ¬ (isSend i.op && mapGet p.credits i.chOut 0 == 0) = true := by
    simp only [Bool.and_eq_true, beq_iff_eq, not_and]
    exact fun h => Nat.ne_of_gt (credit h)
  unfold chunkStep
  dsimp only
  rw [if_neg paid, if_neg hop, rx]
  dsimp only
  rw [bad]
  rfl

/-! ### A program fails (R274) -/

theorem failProgram_fails (he : e < 4) (reason : Nat) : ProgramFails s (failProgram s e n p reason) e n p reason := by
  obtain ⟨u, hu⟩ : ∃ u, u = endProgram s e n := ⟨_, rfl⟩
  have ended : getEngine u e = { getEngine s e with running := (getEngine s e).running.eraseIdx n } := by
    rw [hu, endProgram, getEngine_setEngine_same s he]
  obtain ⟨v, hv⟩ : ∃ v, v = setEngine u e { getEngine u e with
      err := true, fails := (getEngine u e).fails ++ [(reason, p.idx, p.va.toNat, p.ctx)] } := ⟨_, rfl⟩
  have failed : failProgram s e n p reason = modLed v p.ctx fun l => { l with collFailed := true } := by
    rw [hv, hu]
    rfl
  have shown : getEngine (failProgram s e n p reason) e = { getEngine u e with
      err := true, fails := (getEngine u e).fails ++ [(reason, p.idx, p.va.toNat, p.ctx)] } := by
    rw [failed]
    refine (getEngine_congr ?_ e).trans (hv ▸ getEngine_setEngine_same u he _)
    exact frame_modLed v p.ctx _ .engines (by decide)
  rw [ended] at shown
  refine ⟨by rw [shown], by rw [shown], by rw [shown], fun hc => ?_, ?_, ?_⟩
  · rw [failed, modLed, getCtx_modCtx_same v hc]
  · rw [failed, hv, hu]
    rfl
  · rw [failed, hv, hu]
    rfl

theorem ProgramFails.settle {reason : Nat} (h : ProgramFails s t e n p reason) : ProgramFails s (settle t) e n p reason := by
  obtain ⟨gone, err, told, vetoed, mem, slots⟩ := h
  have kept := (settle_settled t).out
  have engine : getEngine (Machine.settle t) e = getEngine t e := getEngine_congr (congrArg Fabric.engines kept.fab) e
  exact ⟨engine ▸ gone, engine ▸ err, engine ▸ told, fun hc => getCtx_congr kept.ctxs p.ctx ▸ vetoed hc, kept.mem.trans mem, kept.slots.trans slots⟩

theorem noLockout_failProgram (calm : NoLockout s) (reason : Nat) : NoLockout (failProgram s e n p reason) := fun k => by
  obtain ⟨v, hv⟩ : ∃ v, failProgram s e n p reason = modLed v p.ctx (fun l => { l with collFailed := true }) ∧ v.ctxs = s.ctxs := ⟨_, rfl, rfl⟩
  rw [hv.1, modLed]
  by_cases hk : k = p.ctx
  · subst hk
    by_cases hc : p.ctx < 64
    · rw [getCtx_modCtx_same v hc]
      exact getCtx_congr hv.2 p.ctx ▸ calm p.ctx
    · rw [modCtx_outOfBounds _ (Nat.le_of_not_lt hc)]
      exact getCtx_congr hv.2 p.ctx ▸ calm p.ctx
  · rw [getCtx_modCtx_other v hk]
    exact getCtx_congr hv.2 k ▸ calm k

/-- A chunk with a bad block fails its program, at the second look if it was the first one. -/
theorem chunk_fails (he : e < 4) (calm : NoLockout s) (hr : RunsAt s e n op p i) (run : exec c s = doneMem (runData s e n op))
    (recv : isRecv i.op = true) (credit : isSend i.op = true → 1 ≤ mapGet p.credits i.chOut 0)
    (rx : mapGet? p.rx (chunkKey i.chIn (mapGet p.got i.chIn 0)) = some bs) (bad : bs.all blockOk = false) :
    ∃ t, exec c s = .next t ∧ ProgramFails s t e n p 2 := by
  have step : chunkStep s e p i = .crc := chunkStep_bad recv credit rx bad
  rw [runData_loop hr, chunkLoop_step hr, step] at run
  dsimp only at run
  by_cases again : p.crcAgain = true
  · rw [if_pos again, doneMem_eq (noLockout_failProgram calm 2)] at run
    exact ⟨_, run, (failProgram_fails he 2).settle⟩
  · obtain ⟨at_, cur, hop⟩ := hr
    obtain ⟨v, hv⟩ : ∃ v, v = setRunning s e n { p with crcAgain := true } := ⟨_, rfl⟩
    have hr' : RunsAt v e n op { p with crcAgain := true } i := ⟨hv ▸ runningAt_setRunning he at_ _, cur, hop⟩
    have step' : chunkStep v e { p with crcAgain := true } i = .crc := chunkStep_bad recv credit rx bad
    have loop : chunkLoop 15 v e n p.idx = failProgram v e n { p with crcAgain := true } 2 := by
      rw [show p.idx = ({ p with crcAgain := true } : Program).idx from rfl, chunkLoop_step hr', step']
      rfl
    have calm' : NoLockout v := fun k => by
      have ctxs : v.ctxs = s.ctxs := hv ▸ rfl
      exact getCtx_congr ctxs k ▸ calm k
    rw [if_neg again, ← hv, loop, doneMem_eq (noLockout_failProgram calm' 2)] at run
    refine ⟨_, run, ?_⟩
    obtain ⟨gone, err, told, vetoed, mem, slots⟩ :=
      (failProgram_fails (s := v) (p := { p with crcAgain := true }) (n := n) he 2).settle
    have engine : getEngine v e = { getEngine s e with running := (getEngine s e).running.set n { p with crcAgain := true } } := by
      rw [hv, setRunning, getEngine_setEngine_same s he]
    rw [engine] at gone told
    exact ⟨gone.trans (List.eraseIdx_set_eq), err, told, vetoed, mem.trans (hv ▸ rfl), slots.trans (hv ▸ rfl)⟩

end

end Sys2Proof.Machine
end

section
-- One proof after the other: a text of this length has more proofs waiting at once than the check has threads for.
set_option Elab.async false
/-! PROOFS. SEND, RECV, RECV_REDUCE, REDUCE_SEND and RECV_SEND (R271, R272). -/
namespace Sys2Proof.Machine

section
variable {s t u v : State} {p : Program} {i : CInstr} {e n op len ch : Nat} {w : Bytes} {bs : List Block} {c : Instr} {b : CollCtrl}

/-- The chunk `wire` of a program has left on its channel. -/
def ChunkLeft (s t : State) (p : Program) (ch : Nat) (wire : Bytes) : Prop :=
  ∃ o k, Sent s t o k ∧ k.ptype = 6 ∧ k.dst = chanAddr p ch ∧ k.addr = collAddr p ch (mapGet p.sent ch 0) ∧
    k.blocks = (chunksOf 256 8 wire).map fun x => mkBlock (fit 256 x)

theorem ChunkLeft.after (h : ChunkLeft s t p ch w) (out : t.outbox <:+ u.outbox) : ChunkLeft s u p ch w := by
  obtain ⟨o, k, sent, is⟩ := h
  exact ⟨o, k, sent.after out, is⟩

theorem ChunkLeft.from (h : ChunkLeft t u p ch w) (out : s.outbox <:+ t.outbox) : ChunkLeft s u p ch w := by
  obtain ⟨o, k, sent, is⟩ := h
  exact ⟨o, k, sent.from out, is⟩

/-- A COLL_CTRL goes out as from the state before the memory accesses. -/
theorem sendCtrl_after (frame : AllBut writeParts s v) (p : Program) (ch : Nat) (b : CollCtrl) :
    SendsCtrl s (sendCtrl v p ch b) p ch b ∧ AllBut (.fab :: .ports :: .outbox :: writeParts) s (sendCtrl v p ch b) ∧
      ReachAlike s (sendCtrl v p ch b) := by
  obtain ⟨moves, reached⟩ := sendCtrl_moves v p ch b
  have alike : ReachAlike s v := .of_frame frame
  exact ⟨(sendCtrl_sends v p ch b).from alike (needsLink_kept frame _) (frame .sent (by decide)), frame.mono.trans moves.mono, alike.trans reached⟩

/-- A chunk goes out where its peer can be reached. -/
theorem sendChunk_leaves (open_ : isConf s (getCtx s p.ctx).part = false) (reach : Reaches s (chanAddr p ch)) (e : Nat) (w : Bytes) :
    ChunkLeft s (sendChunk s e p ch w).1 p ch w ∧ AllBut fabricParts s (sendChunk s e p ch w).1 ∧
      (sendChunk s e p ch w).2 = chunkSent p ch := by
  obtain ⟨q, fitted, eq⟩ := sendChunk_sends (e := e) (w := w) open_ reach
  rw [eq]
  exact ⟨⟨q, _, sendOn_sent fitted (reach.2.2 q) _, rfl, rfl, rfl, rfl⟩, frame_sendOn _ _ _, rfl⟩

/-- A chunk that came goes on after its credit has gone back. -/
theorem passedOn_leaves (frame : AllBut writeParts s v) (open_ : isConf s (getCtx s p.ctx).part = false) (reach : Reaches s (chanAddr p i.chOut))
    (e : Nat) (w : Bytes) :
    SendsCtrl s (passedOn v e p i (some w)).1 p i.chIn (.credit 1) ∧ ChunkLeft s (passedOn v e p i (some w)).1 p i.chOut w ∧
      AllBut (.fab :: .ports :: .outbox :: writeParts) s (passedOn v e p i (some w)).1 ∧ (passedOn v e p i (some w)).1.mem = v.mem ∧
      (passedOn v e p i (some w)).2 = chunkSent (chunkTaken p i.chIn) i.chOut := by
  obtain ⟨credit, moves, alike⟩ := sendCtrl_after frame p i.chIn (.credit 1)
  have mem : (sendCtrl v p i.chIn (.credit 1)).mem = v.mem := frame_sendCtrl v p _ _ .mem (by decide)
  obtain ⟨x, hx⟩ : ∃ x, x = sendCtrl v p i.chIn (.credit 1) := ⟨_, rfl⟩
  rw [← hx] at credit moves alike mem
  obtain ⟨left, after, prog⟩ := sendChunk_leaves (s := x) (p := chunkTaken p i.chIn) (ch := i.chOut) (isConf_kept moves open_)
    (alike.reaches reach) e w
  have is : passedOn v e p i (some w) = sendChunk x e (chunkTaken p i.chIn) i.chOut w := by rw [hx, passedOn]
  rw [is]
  exact ⟨credit.after (after .sent (by decide)), left.from (moves .sent (by decide)), moves.trans after.mono,
    Eq.trans (after .mem (by decide)) mem, prog⟩

end

/-! ### The five instructions -/

section
variable {s s1 u v : State} {p q : Program} {i : CInstr} {e : Die} {n : Fin 4} {b w : Bytes} {bs : List Block} {c : Instr} {op : Nat}
variable (calm : NoLockout s) (open_ : isConf s (getCtx s p.ctx).part = false) (last : i.count ≤ p.pos + perChunk i)
  (tokens : engineTokens s e.val p i (i.count - p.pos) (chunkPlaces i) = some s1)
include calm open_ last tokens

theorem send_sends (hr : RunsAt s e.val n.val cSend p i) (credit : 1 ≤ mapGet p.credits i.chOut 0) (reach : Reaches s (chanAddr p i.chOut))
    (read : localChunk s1 p i (i.count - p.pos) = some (u, b)) :
    ∃ t, exec (.send e n) s = .next t ∧ t.mem.cells = s.mem.cells ∧ t.ctxs = s.ctxs ∧ t.slots = s.slots ∧
      runningAt t e.val n.val = some (nextInstr (chunkSent p i.chOut)) ∧
      ChunkLeft s t p i.chOut (elemBytes i.wfmt ((elemsOf i.lfmt b).map (moveElem i.lfmt i.wfmt))) := by
  have paid := frame_engineTokens tokens
  have frame : AllBut readParts s u := paid.mono.trans (frame_localChunk (isConf_kept paid open_) read)
  have alike : ReachAlike s u := .of_frame frame
  obtain ⟨left, after, prog⟩ := sendChunk_leaves (isConf_kept frame open_) (alike.reaches reach) e.val
    (elemBytes i.wfmt ((elemsOf i.lfmt b).map (moveElem i.lfmt i.wfmt)))
  have step := chunkStep_send last tokens hr.2.2 credit read
  dsimp only at step
  rw [prog, advance_last (p := p) (chunkSent p i.chOut) rfl] at step
  have cells : (sendChunk u e.val p i.chOut (elemBytes i.wfmt ((elemsOf i.lfmt b).map (moveElem i.lfmt i.wfmt)))).1.mem.cells = s.mem.cells :=
    Eq.trans (after .cells (by decide)) (frame .cells (by decide))
  have out : u.outbox = s.outbox := frame .outbox (by decide)
  obtain ⟨t, run, mem, ctxs, slots, at_, grows⟩ := chunk_runs e.isLt calm hr (c := .send e n) rfl step (Nat.succ_ne_self _)
    ((frame.mono (m := .fab :: .ports :: .outbox :: writeParts)).trans after.mono)
  exact ⟨t, run, by rw [mem, cells], ctxs, slots, at_, (left.from (by rw [out])).after grows⟩

section
variable (rx : mapGet? p.rx (chunkKey i.chIn (mapGet p.got i.chIn 0)) = some bs) (good : bs.all blockOk = true)
  (hw : w = (bs.flatMap (·.data)).take ((i.count - p.pos) * collBytes i.wfmt))
include rx good hw

/-- A chunk that is stored and not sent on. -/
theorem recv_stores (he : exec c s = doneMem (runData s e.val n.val op)) (hr : RunsAt s e.val n.val op p i) (hop : i.op ≠ cSend)
    (noSend : isSend i.op = false) {put : Option (Nat × List Nat)} (result : chunkResult s1 p i (i.count - p.pos) w = some (u, put, none))
    (store : storedOf u p i put = some v) (frame : AllBut writeParts s v) :
    ∃ t, exec c s = .next t ∧ t.mem = v.mem ∧ t.ctxs = s.ctxs ∧ t.slots = s.slots ∧ SendsCtrl s t p i.chIn (.credit 1) ∧
      runningAt t e.val n.val = some (nextInstr (chunkTaken p i.chIn)) := by
  have step := chunkStep_recv last tokens hop (by simp [noSend]) rx good
  rw [← hw, chunkRecv_moves result store] at step
  obtain ⟨credit, moves, -⟩ := sendCtrl_after frame p i.chIn (.credit 1)
  have kept : (sendCtrl v p i.chIn (.credit 1)).mem = v.mem := frame_sendCtrl v p _ _ .mem (by decide)
  rw [passedOn] at step
  dsimp only at step
  rw [advance_last (p := p) (chunkTaken p i.chIn) rfl] at step
  obtain ⟨t, run, mem, ctxs, slots, at_, grows⟩ := chunk_runs e.isLt calm hr he step (Nat.succ_ne_self _) moves
  exact ⟨t, run, mem.trans kept, ctxs, slots, credit.after grows, at_⟩

/-- A chunk that is sent on. -/
theorem recv_passes (he : exec c s = doneMem (runData s e.val n.val op)) (hr : RunsAt s e.val n.val op p i) (hop : i.op ≠ cSend)
    (credit : 1 ≤ mapGet p.credits i.chOut 0) (reach : Reaches s (chanAddr p i.chOut)) {put : Option (Nat × List Nat)} {d : Bytes}
    (result : chunkResult s1 p i (i.count - p.pos) w = some (u, put, some d)) (store : storedOf u p i put = some v)
    (frame : AllBut writeParts s v) :
    ∃ t, exec c s = .next t ∧ t.mem = v.mem ∧ t.ctxs = s.ctxs ∧ t.slots = s.slots ∧ SendsCtrl s t p i.chIn (.credit 1) ∧
      ChunkLeft s t p i.chOut d ∧ runningAt t e.val n.val = some (nextInstr (chunkSent (chunkTaken p i.chIn) i.chOut)) := by
  have step := chunkStep_recv last tokens hop (fun _ => credit) rx good
  rw [← hw, chunkRecv_moves result store] at step
  obtain ⟨gives, left, moves, kept, prog⟩ := passedOn_leaves frame open_ reach e.val d
  rw [prog, advance_last (p := p) (chunkSent (chunkTaken p i.chIn) i.chOut) rfl] at step
  obtain ⟨t, run, mem, ctxs, slots, at_, grows⟩ := chunk_runs e.isLt calm hr he step (Nat.succ_ne_self _) moves
  exact ⟨t, run, mem.trans kept, ctxs, slots, gives.after grows, left.after grows, at_⟩

end

end

theorem chunkResult_recv {s : State} {p : Program} {i : CInstr} (h : i.op = cRecv) (n : Nat) (w : Bytes) :
    chunkResult s p i n w = some (s, some (i.laddr, (elemsOf i.wfmt w).map (moveElem i.wfmt i.lfmt)), none) := if_pos h

theorem chunkResult_recvSend {s : State} {p : Program} {i : CInstr} (h : i.op = cRecvSend) (n : Nat) (w : Bytes) :
    chunkResult s p i n w = some (s, some (i.laddr, (elemsOf i.wfmt w).map (moveElem i.wfmt i.lfmt)), some w) :=
  (if_neg (by rw [h]; decide)).trans (if_pos h)

theorem chunkResult_recvReduce {s u : State} {p : Program} {i : CInstr} (h : i.op = cRecvReduce) {n : Nat} {w b : Bytes}
    (read : localChunk s p i n = some (u, b)) :
    chunkResult s p i n w = some (u, some (i.laddr2, (reduceElems i w b).map (narrow i.lfmt)), none) := by
  refine (if_neg (by rw [h]; decide)).trans ((if_neg (by rw [h]; decide)).trans ?_)
  rw [read, Option.map_some, if_pos h]

theorem chunkResult_reduceSend {s u : State} {p : Program} {i : CInstr} (h : i.op = cReduceSend) {n : Nat} {w b : Bytes}
    (read : localChunk s p i n = some (u, b)) :
    chunkResult s p i n w = some (u, none, some (elemBytes i.wfmt ((reduceElems i w b).map (narrow i.wfmt)))) := by
  refine (if_neg (by rw [h]; decide)).trans ((if_neg (by rw [h]; decide)).trans ?_)
  rw [read, Option.map_some, if_neg (by rw [h]; decide)]

/-- The instruction of a data operation runs the chunks of its program. -/
theorem exec_data {e : Die} {n : Fin 4} {s : State} {c : Instr} {op : Nat} (h : c = .send e n ∧ op = cSend ∨ c = .recv e n ∧ op = cRecv ∨
    c = .recvReduce e n ∧ op = cRecvReduce ∨ c = .reduceSend e n ∧ op = cReduceSend ∨ c = .recvSend e n ∧ op = cRecvSend) :
    exec c s = doneMem (runData s e.val n.val op) := by
  rcases h with ⟨rfl, rfl⟩ | ⟨rfl, rfl⟩ | ⟨rfl, rfl⟩ | ⟨rfl, rfl⟩ | ⟨rfl, rfl⟩ <;> rfl

/-- Settles O29: an instruction's last chunk is what its tables of elements say, on its way once the accesses have been paid. -/
theorem dataInstructionsMoveChunks : Obligations.DataInstructionsMoveChunks := by
  intro e n p i s s1 w len got sent bs q calm open_
  refine ⟨fun last hlen tokens hgot hsent => ⟨fun hr credit reach u b read => ?_, fun rx good hw hq => ?_⟩, fun c op hc hr => ⟨fun h => ?_,
    fun recv rx bad credit => ?_⟩⟩
  · subst hlen hsent
    obtain ⟨t, run, cells, ctxs, slots, at_, o, k, left, is⟩ := send_sends calm open_ last tokens hr credit reach read
    exact ⟨t, o, k, _, run, cells, ctxs, slots, at_, rfl, left, is⟩
  · subst hlen hsent hgot
    have next : q = nextInstr (chunkTaken p i.chIn) := hq
    have paid := frame_engineTokens tokens
    have openS1 := isConf_kept paid open_
    refine ⟨fun hr u put => ?_, fun hr u v b read put => ?_, fun credit reach => ⟨fun hr u b read => ?_, fun hr u put => ?_⟩⟩
    · have := recv_stores calm open_ last tokens rx good hw (c := .recv e n) rfl hr (by rw [hr.2.2]; decide) (by rw [hr.2.2]; decide)
        (chunkResult_recv hr.2.2 _ w) (v := u) put (paid.mono.trans (frame_store openS1 put))
      rwa [next]
    · have readFrame := paid.mono.trans (frame_localChunk openS1 read)
      have := recv_stores calm open_ last tokens rx good hw (c := .recvReduce e n) rfl hr (by rw [hr.2.2]; decide) (by rw [hr.2.2]; decide)
        (chunkResult_recvReduce hr.2.2 read) (v := v) put (readFrame.mono.trans (frame_store (isConf_kept readFrame open_) put))
      rwa [next]
    · have readFrame := paid.mono.trans (frame_localChunk openS1 read)
      obtain ⟨t, run, mem, ctxs, slots, gives, ⟨o, k, left, ty, dst, addr, blocks⟩, at_⟩ := recv_passes calm open_ last tokens rx good hw
        (c := .reduceSend e n) rfl hr (by rw [hr.2.2]; decide) credit reach (chunkResult_reduceSend hr.2.2 read) (v := u) rfl readFrame.mono
      have cells : u.mem.cells = s.mem.cells := readFrame .cells (by decide)
      exact ⟨t, o, k, run, by rw [mem, cells], ctxs, slots, gives, left, ty, dst, addr, blocks, by rw [at_, next]; rfl⟩
    · obtain ⟨t, run, mem, ctxs, slots, gives, ⟨o, k, left, ty, dst, addr, blocks⟩, at_⟩ := recv_passes calm open_ last tokens rx good hw
        (c := .recvSend e n) rfl hr (by rw [hr.2.2]; decide) credit reach (chunkResult_recvSend hr.2.2 _ w) (v := u) put
        (paid.mono.trans (frame_store openS1 put))
      exact ⟨t, o, k, run, mem, ctxs, slots, gives, left, ty, dst, addr, blocks, by rw [at_, next]; rfl⟩
  · obtain ⟨waits, paid⟩ := chunkStep_waits (s := s) (e := e.val) (i := i) (p := p) (by rw [hr.2.2]; exact h)
    have same : runData s e.val n.val op = s := by
      rw [runData_loop hr, chunkLoop_step hr, waits]
      dsimp only
      rw [paid]
      rfl
    exact leads_done (by rw [exec_data hc, same, doneMem_eq calm]) (.refl s)
  · exact chunk_fails e.isLt calm hr (exec_data hc) (by rw [hr.2.2]; exact recv) (by rw [hr.2.2]; exact credit) rx bad

end Sys2Proof.Machine
end

section
-- One proof after the other: a text of this length has more proofs waiting at once than the check has threads for.
set_option Elab.async false
/-! PROOFS. AND, BCAST, WAIT_TIME, SIGNAL and END of a program, and its deadlines (R271, R273, R274, R297, R299). -/
namespace Sys2Proof.Machine

section
variable {s t u v : State} {p q : Program} {i : CInstr} {e n op ch : Nat} {b : CollCtrl} {x : Bool} {tc : BitVec 40}

theorem atInstr_runs (hr : RunsAt s e n op p i) (f : Program → CInstr → State) : atInstr s e n op f = f p i := by
  obtain ⟨at_, cur, hop⟩ := hr
  rw [atInstr, at_]
  dsimp only
  rw [cur]
  exact if_pos hop

theorem runningAt_settle (t : State) (e n : Nat) : runningAt (settle t) e n = runningAt t e n :=
  runningAt_of_engine (getEngine_congr (congrArg Fabric.engines (settle_settled t).out.fab) e) n

theorem getEngine_settle (t : State) (e : Nat) : getEngine (settle t) e = getEngine t e :=
  getEngine_congr (congrArg Fabric.engines (settle_settled t).out.fab) e

theorem settle_sent (t : State) : t.outbox <:+ (settle t).outbox := (settle_settled t).out.outbox

/-! ### The value of an AND (R273, R297) -/

theorem ownBit_veto (h : (getCtx s p.ctx).led.veto = true) : ownBit s p = some false := by
  unfold ownBit
  dsimp only
  rw [h]
  rfl

theorem ownBit_ready (veto : (getCtx s p.ctx).led.veto = false) (st : (getCtx s p.ctx).led.st ≠ .aborted)
    (ready : (getCtx s p.ctx).led.ready = true) : ownBit s p = some true := by
  have runs : ((getCtx s p.ctx).led.st == .aborted) = false := by
    cases h : (getCtx s p.ctx).led.st <;> first | rfl | exact absurd h st
  unfold ownBit
  dsimp only
  rw [veto, runs, Bool.and_false, ready]
  rfl

theorem andValue_zero (h : (getCtx s p.ctx).led.veto = true ∨
    ∃ c ∈ i.chSet, mapGet? p.ands (chunkKey c (andsBefore p c)) = some false) : andValue s p i = some false := by
  refine if_pos (List.contains_iff_mem.mpr ?_)
  rcases h with h | ⟨c, hc, bit⟩
  · exact List.mem_cons.mpr (.inl (ownBit_veto h).symm)
  · exact List.mem_cons_of_mem _ (List.mem_map.mpr ⟨c, hc, bit⟩)

theorem andValue_one (own : ownBit s p = some true) (h : ∀ c ∈ i.chSet, mapGet? p.ands (chunkKey c (andsBefore p c)) = some true) :
    andValue s p i = some true := by
  have ones : ∀ o ∈ ownBit s p :: i.chSet.map (fun c => mapGet? p.ands (chunkKey c (andsBefore p c))), o = some true := by
    intro o ho
    rcases List.mem_cons.mp ho with rfl | ho
    · exact own
    · obtain ⟨c, hc, rfl⟩ := List.mem_map.mp ho
      exact h c hc
  refine (if_neg fun zero => ?_).trans (if_pos (List.all_eq_true.mpr fun o ho => by rw [ones o ho]; rfl))
  cases ones _ (List.contains_iff_mem.mp zero)

/-! ### AND and BCAST end -/

/-- The parts of the state that a program moves that goes on and sends. -/
def programParts : List Part := .engines :: fabricParts

theorem andDone_moves (he : e < 4) (at_ : runningAt s e n = some p) : AllBut programParts s (andDone s e n p i x) ∧
    (i.root = true → runningAt (andDone s e n p i x) e n = some { nextInstr p with
      rootAnd := some x, rootTime := s.time.now.setWidth 40 + p.margin.setWidth 40 }) ∧
    (i.root = false → runningAt (andDone s e n p i x) e n = some (nextInstr p) ∧ SendsCtrl s (andDone s e n p i x) p i.chOut (.andBit x)) := by
  unfold andDone
  by_cases root : i.root = true
  · rw [if_pos root]
    exact ⟨.mono (frame_runningAt s e n _), fun _ => runningAt_setRunning he at_ _, fun h => absurd root (by rw [h]; decide)⟩
  · rw [if_neg root]
    obtain ⟨u, hu⟩ : ∃ u, u = setRunning s e n (nextInstr p) := ⟨_, rfl⟩
    have frame : AllBut [.fab, .engines] s u := hu ▸ frame_runningAt s e n _
    have alike : ReachAlike s u := hu ▸ .of_ports rfl rfl fun _ => ⟨rfl, rfl, rfl⟩
    have next : runningAt u e n = some (nextInstr p) := hu ▸ runningAt_setRunning he at_ _
    rw [← hu]
    obtain ⟨moves, -⟩ := sendCtrl_moves u p i.chOut (.andBit x)
    refine ⟨frame.mono.trans moves.mono, fun h => absurd h root, fun _ => ⟨?_, ?_⟩⟩
    · rw [← next]
      exact runningAt_of_engine (getEngine_congr (moves .engines (by decide)) e) n
    · exact (sendCtrl_sends u p i.chOut _).from alike (needsLink_kept frame _) (frame .sent (by decide))

theorem sendCtrls_moves (p : Program) (b : CollCtrl) : ∀ (cs : List Nat) (s : State), AllBut fabricParts s (sendCtrls s p cs b) ∧
    ReachAlike s (sendCtrls s p cs b) ∧ ∀ c ∈ cs, SendsCtrl s (sendCtrls s p cs b) p c b
  | [], s => ⟨.refl _ s, .refl s, fun _ h => absurd h (by simp)⟩
  | c :: cs, s => by
    obtain ⟨first, reached⟩ := sendCtrl_moves s p c b
    have own := sendCtrl_sends s p c b
    obtain ⟨u, hu⟩ : ∃ u, u = sendCtrl s p c b := ⟨_, rfl⟩
    have all : sendCtrls s p (c :: cs) b = sendCtrls u p cs b := by rw [hu]; rfl
    rw [← hu] at first reached own
    obtain ⟨rest, alike, others⟩ := sendCtrls_moves p b cs u
    rw [all]
    refine ⟨first.trans rest, reached.trans alike, fun k hk => ?_⟩
    rcases List.mem_cons.mp hk with rfl | hk
    · exact own.after (rest .sent (by decide))
    · exact (others k hk).from reached (needsLink_kept first _) (first .sent (by decide))

theorem bcastDone_moves (he : e < 4) (at_ : runningAt s e n = some p) (alone : isDownbeat p.ctx (getCtx s p.ctx).led p = false) :
    AllBut programParts s (bcastDone s e n p i x tc) ∧ runningAt (bcastDone s e n p i x tc) e n = some (nextInstr p) ∧
      (getEngine (bcastDone s e n p i x tc) e).result = resultWord x tc ∧
      ∀ c ∈ i.chSet, SendsCtrl s (bcastDone s e n p i x tc) p c (.bcast x tc) := by
  obtain ⟨u, hu⟩ : ∃ u, u = setEngine (setRunning s e n (nextInstr p)) e
      { getEngine (setRunning s e n (nextInstr p)) e with result := resultWord x tc } := ⟨_, rfl⟩
  have frame : AllBut [.fab, .engines] s u := hu ▸ (frame_runningAt s e n _).trans (frame_setEngine _ e _)
  have alike : ReachAlike s u := hu ▸ .of_ports rfl rfl fun _ => ⟨rfl, rfl, rfl⟩
  have engine : getEngine u e = { getEngine (setRunning s e n (nextInstr p)) e with result := resultWord x tc } :=
    hu ▸ getEngine_setEngine_same _ he _
  have next : runningAt u e n = some (nextInstr p) := by
    rw [runningAt, engine]
    exact runningAt_setRunning he at_ (nextInstr p)
  obtain ⟨moves, -, sends⟩ := sendCtrls_moves p (.bcast x tc) i.chSet u
  have engines : getEngine (sendCtrls u p i.chSet (.bcast x tc)) e = getEngine u e := getEngine_congr (moves .engines (by decide)) e
  have led : getCtx (sendCtrls u p i.chSet (.bcast x tc)) p.ctx = getCtx s p.ctx :=
    getCtx_congr (Eq.trans (moves .ctxs (by decide)) (frame .ctxs (by decide))) p.ctx
  have done_ : bcastDone s e n p i x tc = sendCtrls u p i.chSet (.bcast x tc) := by
    unfold bcastDone
    dsimp only
    rw [← hu, led, alone]
    rfl
  rw [done_]
  refine ⟨frame.mono.trans moves.mono, (runningAt_of_engine engines n).trans next, by rw [engines, engine], fun c hc => ?_⟩
  exact (sends c hc).from alike (needsLink_kept frame _) (frame .sent (by decide))

/-- No value has come by TIME. -/
def bcastLate (s : State) (e n : Nat) (p : Program) : State :=
  let u := setRunning (drawFree s 40).2 e n (nextInstr p)
  setEngine u e { getEngine u e with result := BitVec.ofNat 64 ((drawFree s 40).1.toNat + 2 ^ 62) }

theorem bcastLate_moves (he : e < 4) (at_ : runningAt s e n = some p) : AllBut (.free :: programParts) s (bcastLate s e n p) ∧
    runningAt (bcastLate s e n p) e n = some (nextInstr p) ∧ (getEngine (bcastLate s e n p) e).result.getLsbD 62 = true ∧
      (getEngine (bcastLate s e n p) e).result.getLsbD 63 = false := by
  obtain ⟨f, hf⟩ : ∃ f, f = drawFree s 40 := ⟨_, rfl⟩
  have free : AllBut [.free] s f.2 := hf ▸ frame_drawFree s 40
  have at' : runningAt f.2 e n = some p := (runningAt_of_engine (getEngine_congr (free .engines (by decide)) e) n).trans at_
  unfold bcastLate
  dsimp only
  rw [← hf]
  obtain ⟨u, hu⟩ : ∃ u, u = setRunning f.2 e n (nextInstr p) := ⟨_, rfl⟩
  have frame : AllBut [.fab, .engines] f.2 u := hu ▸ frame_runningAt _ e n _
  have next : runningAt u e n = some (nextInstr p) := hu ▸ runningAt_setRunning he at' _
  rw [← hu, runningAt, getEngine_setEngine_same u he]
  have small := f.1.isLt
  refine ⟨free.mono.trans (frame.mono.trans (.mono (frame_setEngine u e _))), next, ?_, ?_⟩
  · simp only [BitVec.getLsbD_ofNat]
    rw [Nat.add_comm, Nat.testBit_two_pow_add_eq, Nat.testBit_lt_two_pow (by omega)]
    rfl
  · simp only [BitVec.getLsbD_ofNat]
    rw [Nat.testBit_lt_two_pow (by omega)]
    rfl

end

/-! ### The rows of AND and BCAST -/

section
variable {s : State} {p : Program} {i : CInstr} {e : Die} {n : Fin 4} {v : Bool} {tc : BitVec 40} {c : Instr}

theorem and_ends (hr : RunsAt s e.val n.val cAnd p i) (run : exec c s = done (andDone s e.val n.val p i v)) :
    ∃ t, exec c s = .next t ∧ Apart s t ∧
      (i.root = true → runningAt t e.val n.val = some { nextInstr p with
        rootAnd := some v, rootTime := s.time.now.setWidth 40 + p.margin.setWidth 40 }) ∧
      (i.root = false → runningAt t e.val n.val = some (nextInstr p) ∧ SendsCtrl s t p i.chOut (.andBit v)) := by
  obtain ⟨moves, root, child⟩ := andDone_moves (i := i) (x := v) e.isLt hr.1
  refine ⟨_, run, (apart_of_allBut moves).then_settle, fun h => (runningAt_settle _ _ _).trans (root h), fun h => ?_⟩
  exact ⟨(runningAt_settle _ _ _).trans (child h).1, (child h).2.after (settle_sent _)⟩

theorem exec_and (hr : RunsAt s e.val n.val cAnd p i) : exec (.and e n) s = done (match andValue s p i with
    | some v => andDone s e.val n.val p i v
    | none => s) := congrArg done (atInstr_runs hr _)

theorem exec_andDeadline_reached (hr : RunsAt s e.val n.val cAnd p i) (alone : isDownbeat p.ctx (getCtx s p.ctx).led p = false)
    (due : reached s (timeOf p i) = true) :
    exec (.andDeadline e n) s = done (andDone s e.val n.val p i ((andValue s p i).getD false)) := by
  refine congrArg done ((atInstr_runs hr _).trans ((if_pos due).trans ?_))
  dsimp only
  rw [alone]
  rfl

theorem exec_andDeadline_before (hr : RunsAt s e.val n.val cAnd p i) (early : reached s (timeOf p i) = false) :
    exec (.andDeadline e n) s = done s :=
  congrArg done ((atInstr_runs hr _).trans (if_neg (by rw [early]; decide)))

theorem exec_bcast_value (hr : RunsAt s e.val n.val cBcast p i) (h : i.root = true ∧ p.rootAnd = some v ∧ tc = p.rootTime ∨
    i.root = false ∧ valueIn p i = some (v, tc)) : exec (.bcast e n) s = done (bcastDone s e.val n.val p i v tc) := by
  refine congrArg done ((atInstr_runs hr _).trans ?_)
  rcases h with ⟨root, value, rfl⟩ | ⟨root, value⟩
  · rw [if_pos root, value]
  · rw [if_neg (by rw [root]; decide), value]

theorem exec_bcast_none (hr : RunsAt s e.val n.val cBcast p i) (root : i.root = false) (value : valueIn p i = none) :
    exec (.bcast e n) s = done s := by
  refine congrArg done ((atInstr_runs hr _).trans ?_)
  rw [if_neg (by rw [root]; decide), value]

theorem bcast_ends (hr : RunsAt s e.val n.val cBcast p i) (alone : isDownbeat p.ctx (getCtx s p.ctx).led p = false)
    (h : i.root = true ∧ p.rootAnd = some v ∧ tc = p.rootTime ∨ i.root = false ∧ valueIn p i = some (v, tc)) :
    ∃ t, exec (.bcast e n) s = .next t ∧ Apart s t ∧ runningAt t e.val n.val = some (nextInstr p) ∧
      (getEngine t e.val).result = resultWord v tc ∧ ∀ c ∈ i.chSet, SendsCtrl s t p c (.bcast v tc) := by
  obtain ⟨moves, next, result, sends⟩ := bcastDone_moves (i := i) (x := v) (tc := tc) e.isLt hr.1 alone
  exact ⟨_, exec_bcast_value hr h, (apart_of_allBut moves).then_settle, (runningAt_settle _ _ _).trans next,
    by rw [getEngine_settle, result], fun c hc => (sends c hc).after (settle_sent _)⟩

theorem bcastTimeout_waits (hr : RunsAt s e.val n.val cBcast p i) (early : reached s (timeOf p i) = false) :
    exec (.bcastTimeout e n) s = done s := by
  refine congrArg done ((atInstr_runs hr _).trans (if_neg ?_))
  rw [early, Bool.and_false]
  decide

theorem bcastTimeout_ends (hr : RunsAt s e.val n.val cBcast p i) (alone : isDownbeat p.ctx (getCtx s p.ctx).led p = false)
    (root : i.root = false) (value : valueIn p i = none) (due : reached s (timeOf p i) = true) :
    ∃ t, exec (.bcastTimeout e n) s = .next t ∧ Apart s t ∧ runningAt t e.val n.val = some (nextInstr p) ∧
      (getEngine t e.val).result.getLsbD 62 = true ∧ (getEngine t e.val).result.getLsbD 63 = false := by
  obtain ⟨moves, next, set_, clear_⟩ := bcastLate_moves (n := n.val) e.isLt hr.1
  have led : getCtx (bcastLate s e.val n.val p) p.ctx = getCtx s p.ctx := getCtx_congr (moves .ctxs (by decide)) p.ctx
  have run : exec (.bcastTimeout e n) s = done (bcastLate s e.val n.val p) := by
    refine congrArg done ((atInstr_runs hr _).trans ((if_pos (by rw [root, value, due]; rfl)).trans ?_))
    change (if isDownbeat p.ctx (getCtx (bcastLate s e.val n.val p) p.ctx).led p then
      downbeatResult (bcastLate s e.val n.val p) p.ctx none else bcastLate s e.val n.val p) = _
    rw [led, alone]
    rfl
  exact ⟨_, run, (apart_of_allBut moves).then_settle, (runningAt_settle _ _ _).trans next, by rw [getEngine_settle, set_],
    by rw [getEngine_settle, clear_]⟩

end

/-! ### WAIT_TIME (R51, R271) -/

section
variable {s : State} {p : Program} {i : CInstr} {e : Die} {n : Fin 4} {d : Nat}

theorem firstVerdict_wait (h : firstVerdict d = .wait) : ¬hasCome d := by
  rintro (zero | far)
  · cases (if_pos zero).symm.trans h
  · have later : ¬d = 0 := by omega
    cases ((if_neg later).trans (if_neg (Nat.not_lt.mpr far))).symm.trans h

/-- A time that is armed now and evaluated at once. -/
theorem evalArmed_armTime (t : BitVec 40) : evalArmed s (armTime s t) =
    if comparing s = true then (firstVerdict (t - s.time.now.setWidth 40).toNat,
      { t := t, seen := some (firstVerdict (t - s.time.now.setWidth 40).toNat), held := false })
    else (.wait, { t := t, seen := none, held := false }) := by
  by_cases hc : comparing s = true
  · have armed : armTime s t = { t := t, seen := some (firstVerdict (t - s.time.now.setWidth 40).toNat), held := false } := by
      rw [armTime, firstLook, if_pos hc]
      rfl
    rw [armed, if_pos hc]
    obtain ⟨v, hv⟩ : ∃ v, v = firstVerdict (t - s.time.now.setWidth 40).toNat := ⟨_, rfl⟩
    rw [← hv]
    by_cases wait : v = .wait
    · subst wait
      rw [evalArmed_waiting rfl hc rfl]
      have before : ¬hasCome (ahead s { t := t, seen := some .wait, held := false }) := firstVerdict_wait hv.symm
      rw [evalLaunch_ahead before]
    · rw [evalArmed_decided rfl hc rfl wait]
  · rw [if_neg hc, armTime, firstLook, if_neg hc]
    exact evalArmed_suspended (Bool.eq_false_iff.mpr hc)

theorem apart_settled {t : State} {l : List Part} (h : AllBut l s t)
    (hl : ∀ q ∈ [Part.opt, .mem, .ctxs, .slots, .lcores, .sec, .pwr, .time, .latches, .pending], q ∉ l := by decide) : Apart s (settle t) :=
  (apart_of_allBut h hl).then_settle

theorem apart_countLate {t : State} (h : Apart (countLate s) t) : Apart s t :=
  ⟨h.opt, h.mem, h.ctxs, h.slots, h.lcores, h.sec, h.pwr, h.now, h.latches, h.pending⟩

theorem waitTime_runs (hr : RunsAt s e.val n.val cWaitTime p i) (fresh : p.waitArm = none) :
    exec (.waitTime e n) s = done (match (evalArmed s (armTime s (timeOf p i))).1 with
      | .wait => setRunning s e.val n.val { p with waitArm := some (evalArmed s (armTime s (timeOf p i))).2 }
      | .onTime => setRunning s e.val n.val (nextInstr p)
      | .late => setRunning (countLate s) e.val n.val (nextInstr p)) := by
  refine congrArg done ((atInstr_runs hr _).trans ?_)
  exact if_neg (by rw [fresh]; decide)

theorem waitTime_decides (hr : RunsAt s e.val n.val cWaitTime p i) (fresh : p.waitArm = none)
    (hd : d = (timeOf p i - s.time.now.setWidth 40).toNat) :
    ∃ t, exec (.waitTime e n) s = .next t ∧ Apart s t ∧
      (comparing s = false → runningAt t e.val n.val = some { p with waitArm := some { t := timeOf p i, seen := none, held := false } }) ∧
      (comparing s = true → 0 < d → d < 2 ^ 39 →
        runningAt t e.val n.val = some { p with waitArm := some { t := timeOf p i, seen := some .wait, held := false } }) ∧
      (comparing s = true → d = 0 ∨ 2 ^ 39 ≤ d → runningAt t e.val n.val = some (nextInstr p)) ∧
      t.time.lateLaunch = (if comparing s = true ∧ 2 ^ 39 ≤ d then s.time.lateLaunch + 1 else s.time.lateLaunch) := by
  have run := waitTime_runs hr fresh
  have late_kept (t : State) : (settle t).time.lateLaunch = t.time.lateLaunch := congrArg TimeBlock.lateLaunch (settle_settled t).out.time
  by_cases hc : comparing s = true
  · rw [evalArmed_armTime, if_pos hc, ← hd] at run
    have look (q : Program) : runningAt (settle (setRunning s e.val n.val q)) e.val n.val = some q :=
      (runningAt_settle _ _ _).trans (runningAt_setRunning e.isLt hr.1 q)
    have noSuspend {x : Prop} : comparing s = false → x := fun h => absurd (h.symm.trans hc) (by decide)
    by_cases zero : d = 0
    · rw [show firstVerdict d = .onTime from if_pos zero] at run
      refine ⟨_, run, apart_settled (frame_runningAt s _ _ _), noSuspend, fun _ h => by omega, fun _ _ => look _, ?_⟩
      rw [late_kept, if_neg (by omega)]
      rfl
    · by_cases near : d < 2 ^ 39
      · rw [show firstVerdict d = .wait from (if_neg zero).trans (if_pos near)] at run
        refine ⟨_, run, apart_settled (frame_runningAt s _ _ _), noSuspend, fun _ _ _ => look _, fun _ h => by omega, ?_⟩
        rw [late_kept, if_neg (by omega)]
        rfl
      · rw [show firstVerdict d = .late from (if_neg zero).trans (if_neg near)] at run
        refine ⟨_, run, apart_countLate (apart_settled (frame_runningAt _ _ _ _)), noSuspend, fun _ _ h => absurd h near, fun _ _ => ?_, ?_⟩
        · exact (runningAt_settle _ _ _).trans (runningAt_setRunning (s := countLate s) e.isLt hr.1 _)
        · rw [late_kept, if_pos ⟨hc, by omega⟩]
          rfl
  · have off : comparing s = false := Bool.eq_false_iff.mpr hc
    rw [evalArmed_armTime, if_neg hc] at run
    refine ⟨_, run, apart_settled (frame_runningAt s _ _ _), fun _ => (runningAt_settle _ _ _).trans (runningAt_setRunning e.isLt hr.1 _),
      fun h => absurd h hc, fun h => absurd h hc, ?_⟩
    rw [late_kept, if_neg (fun h => hc h.1)]
    rfl

end

/-! ### SIGNAL, END and a receive that times out (R271, R274) -/

section
variable {s : State} {p : Program} {i : CInstr} {e : Die} {n : Fin 4} {op : Nat}

theorem collSignal_counts (hr : RunsAt s e.val n.val cSignal p i) (serves : inService s i.core = true)
    (own : (getC s i.core).ctx = some p.ctx) (free : NoneBlocked s i.core) :
    ∃ t, exec (.collSignal e n) s = .next t ∧ t.mem = s.mem ∧ t.ctxs = s.ctxs ∧ runningAt t e.val n.val = some (nextInstr p) ∧
      semGet (getC t i.core) i.sem = (if semGet (getC s i.core) i.sem = 0xFFFFFFFF then 0xFFFFFFFF
        else semGet (getC s i.core) i.sem + 1) ∧
      ∀ k, k ≠ i.sem → semGet (getC t i.core) k = semGet (getC s i.core) k := by
  obtain ⟨u, hu⟩ : ∃ u, u = setRunning s e.val n.val (nextInstr p) := ⟨_, rfl⟩
  have frame : AllBut [.fab, .engines] s u := hu ▸ frame_runningAt s _ _ _
  have core : getC u i.core = getC s i.core := getC_congr (frame .hub (by decide)) (frame .slots (by decide)) i.core
  have next : runningAt u e.val n.val = some (nextInstr p) := hu ▸ runningAt_setRunning e.isLt hr.1 _
  obtain ⟨v, hv⟩ : ∃ v, v = modC u i.core fun c => semAdd c i.sem 1 := ⟨_, rfl⟩
  have counted : AllBut [.slots] u v := hv ▸ frame_modC u _ _
  have at_ : getC v i.core = semAdd (getC s i.core) i.sem 1 := by rw [hv, getC_modC_same, core]
  have run : exec (.collSignal e n) s = done v := by
    refine congrArg done ((atInstr_runs hr _).trans ((if_pos (by rw [serves, own]; exact beq_self_eq_true _)).trans ?_))
    rw [← hu, hv]
    exact wakeCore_semAdd (fun j => by rw [core]; exact free j) _ _
  have kept := settle_settled v
  have shown : getC (settle v) i.core = getC v i.core := getC_settled kept i.core
  refine ⟨_, run, ?_, ?_, ?_, ?_, fun k hk => ?_⟩
  · exact kept.out.mem.trans (Eq.trans (counted .mem (by decide)) (frame .mem (by decide)))
  · exact kept.out.ctxs.trans (Eq.trans (counted .ctxs (by decide)) (frame .ctxs (by decide)))
  · rw [runningAt_settle, ← next]
    exact runningAt_congr (counted .fab (by decide)) _ _
  · rw [shown, at_, semGet_semAdd_same]
  · rw [shown, at_, semGet_semAdd_other _ _ _ hk]

theorem collSignal_fails (hr : RunsAt s e.val n.val cSignal p i) (h : inService s i.core = false ∨ (getC s i.core).ctx ≠ some p.ctx) :
    ∃ t, exec (.collSignal e n) s = .next t ∧ ProgramFails s t e.val n.val p 3 := by
  have elsewhere : ¬(inService s i.core && (getC s i.core).ctx == some p.ctx) = true := by
    rw [Bool.and_eq_true, beq_iff_eq]
    rintro ⟨serves, own⟩
    exact h.elim (fun no => absurd (no.symm.trans serves) (by decide)) (fun no => no own)
  exact ⟨_, congrArg done ((atInstr_runs hr _).trans (if_neg elsewhere)), (failProgram_fails e.isLt 3).settle⟩

theorem exec_collRecvTimeout (hr : RunsAt s e.val n.val op p i) (recv : isRecv i.op = true) : exec (.collRecvTimeout e n) s =
    done (if (mapGet? p.rx (chunkKey i.chIn (mapGet p.got i.chIn 0))).isNone then failProgram s e.val n.val p 1 else s) := by
  obtain ⟨at_, cur, -⟩ := hr
  change done (match runningAt s e.val n.val with
    | some p => (match curInstr p with
      | some i => if isRecv i.op && (mapGet? p.rx (chunkKey i.chIn (mapGet p.got i.chIn 0))).isNone then
          failProgram s e.val n.val p 1 else s
      | none => s)
    | none => s) = _
  rw [at_]
  dsimp only
  rw [cur]
  dsimp only
  rw [recv, Bool.true_and]

end

/-- Settles O30: each instruction is one step of its program, whose parts are moved one after the other. -/
theorem controlInstructionsResolve : Obligations.ControlInstructionsResolve := by
  refine ⟨fun e n p i s l hl => ?_, fun e n p i s d => ?_⟩
  · subst hl
    refine ⟨fun hr => ⟨fun c v h => ?_, fun none_ => ?_, fun early => ?_⟩, andValue_zero, fun veto st ready ones => ?_, fun hr alone =>
      ⟨fun v tc h => bcast_ends hr alone h, fun root none_ => ⟨?_, fun early => ?_, bcastTimeout_ends hr alone root none_⟩⟩⟩
    · rcases h with ⟨rfl, value⟩ | ⟨rfl, rfl, alone, due⟩
      · exact and_ends hr (by rw [exec_and hr, value])
      · exact and_ends hr (exec_andDeadline_reached hr alone due)
    · exact leads_done (by rw [exec_and hr, none_]) (.refl s)
    · exact leads_done (exec_andDeadline_before hr early) (.refl s)
    · exact andValue_one (ownBit_ready veto st ready) ones
    · exact leads_done (exec_bcast_none hr root none_) (.refl s)
    · exact leads_done (bcastTimeout_waits hr early) (.refl s)
  · refine ⟨waitTime_decides, fun hr => ⟨collSignal_counts hr, collSignal_fails hr⟩, fun hr => ?_, fun hr recv => ⟨fun none_ => ?_, fun bs some_ => ?_⟩⟩
    · exact leads_done (congrArg done (atInstr_runs hr _)) (.refl _)
    · exact ⟨_, (exec_collRecvTimeout hr recv).trans (by rw [none_]; rfl), (failProgram_fails e.isLt 1).settle⟩
    · exact leads_done ((exec_collRecvTimeout hr recv).trans (by rw [some_]; rfl)) (.refl s)

end Sys2Proof.Machine
end

section
-- One proof after the other: a text of this length has more proofs waiting at once than the check has threads for.
set_option Elab.async false
/-! PROOFS. The ready bit, the partner's record and the digests of a step (R289, R292 to R294, R299). -/
namespace Sys2Proof.Machine

/-! ### A step in which a ledger moves -/

/-- Between two states the ledger of context `c` has become `l`; nothing else has moved but the record of the module. -/
structure LedgerTo (c : Nat) (s t : State) (l : Ledger) : Prop where
  frame  : AllBut [.ctxs, .diag] s t
  own    : getCtx t c = { getCtx s c with led := l }
  others : ∀ k, k ≠ c → getCtx t k = getCtx s k

section
variable {s t u : State} {c : Nat} {l m : Ledger}

theorem ledgerTo_modLed (hc : c < 64) (f : Ledger → Ledger) : LedgerTo c s (modLed s c f) (f (getCtx s c).led) :=
  ⟨(frame_modLed s c f).mono, getCtx_modCtx_same s hc _, fun _ hk => getCtx_modCtx_other s hk _⟩

theorem LedgerTo.led (h : LedgerTo c s t l) : (getCtx t c).led = l := by rw [h.own]

theorem LedgerTo.trans (h : LedgerTo c s t l) (k : LedgerTo c t u m) : LedgerTo c s u m :=
  ⟨h.frame.trans k.frame, by rw [k.own, h.own], fun n hn => (k.others n hn).trans (h.others n hn)⟩

theorem LedgerTo.then_diag (h : LedgerTo c s t l) (k : AllBut [.diag] t u) : LedgerTo c s u l := by
  have ctx := getCtx_congr (k .ctxs (by decide))
  exact ⟨h.frame.trans k.mono, by rw [ctx, h.own], fun n hn => by rw [ctx, h.others n hn]⟩

theorem LedgerTo.ite {p : Prop} [Decidable p] (h : p → LedgerTo c s t l) (k : ¬p → LedgerTo c s u l) :
    LedgerTo c s (if p then t else u) l := by
  split
  next hp => exact h hp
  next hp => exact k hp

theorem LedgerTo.calm (h : LedgerTo c s t l) (calm : NoLockout s) : NoLockout t := fun k => by
  by_cases hk : k = c
  · rw [hk, h.own]
    exact calm c
  · rw [h.others k hk]
    exact calm k

theorem ledgerTo_modTiming (hc : c < 64) (stp : BitVec 48) (f : TimingRec → TimingRec) :
    ∃ ts, LedgerTo c s (modTiming s c stp f) { (getCtx s c).led with times := ts } := by
  obtain ⟨g, eq, form⟩ : ∃ g, modTiming s c stp f = modLed s c g ∧ ∀ l, ∃ ts, g l = { l with times := ts } :=
    ⟨_, rfl, fun l => by split <;> exact ⟨_, rfl⟩⟩
  obtain ⟨ts, at_⟩ := form (getCtx s c).led
  exact ⟨ts, eq ▸ at_ ▸ ledgerTo_modLed hc g⟩

theorem ledgerTo_showReason (hc : c < 64) (k : Nat) :
    ∃ ts, LedgerTo c s (showReason s c k) { (getCtx s c).led with reason := BitVec.ofNat 8 k, times := ts } := by
  unfold showReason
  dsimp only
  have first := ledgerTo_modLed (s := s) hc fun l => { l with reason := BitVec.ofNat 8 k }
  generalize modLed s c (fun l => { l with reason := BitVec.ofNat 8 k }) = u at first ⊢
  split
  · exact ⟨_, first⟩
  · generalize (getCtx u c).led.step = stp
    obtain ⟨ts, timed⟩ := ledgerTo_modTiming (s := u) hc stp fun t => { t with reason := BitVec.ofNat 8 k }
    rw [first.led] at timed
    exact ⟨ts, first.trans timed⟩

/-- A bit given at its AND shows in the ledger, with its reason. -/
theorem ledgerTo_castBit (hc : c < 64) (ready : Bool) (reason : Nat) (place : votePlace s c ≠ none) :
    ∃ ts, LedgerTo c s (castBit s c ready reason) { (getCtx s c).led with
      ready := ready, veto := !ready, st := .voted, reason := BitVec.ofNat 8 (if ready then 0 else reason), times := ts } := by
  obtain ⟨u, hu⟩ : ∃ u, u = modLed s c fun l => { l with ready := ready, veto := !ready, st := .voted } := ⟨_, rfl⟩
  have voted : LedgerTo c s u { (getCtx s c).led with ready := ready, veto := !ready, st := .voted } := hu ▸ ledgerTo_modLed hc _
  obtain ⟨ts, shown⟩ := ledgerTo_showReason (s := u) hc (if ready then 0 else reason)
  obtain ⟨ts', timed⟩ := ledgerTo_modTiming (s := showReason u c (if ready then 0 else reason)) hc (getCtx s c).led.step
    fun t => { t with tReady := (showReason u c (if ready then 0 else reason)).time.now }
  rw [voted.led] at shown
  rw [shown.led] at timed
  have all := (voted.trans shown).trans timed
  refine ⟨ts', ?_⟩
  unfold castBit
  dsimp only
  rw [if_neg (by simpa using place), ← hu]
  generalize modTiming (showReason u c (if ready then 0 else reason)) c (getCtx s c).led.step _ = v at all ⊢
  exact .ite (fun _ => all.then_diag (frame_slowStep v c _)) fun _ => .ite (fun _ => all.then_diag (frame_evidence v 1 25)) fun _ => all

end

/-! ### The Belfry looks at the conditions (R294) -/

section
variable {s : State} {c : Ctx}

theorem judgeReady_idle (h : belfryUp s = false ∨ (getCtx s c.val).led.st ≠ .armed) : judgeReady c.val s = s := by
  refine if_pos ?_
  rcases h with h | h
  · rw [h]
    rfl
  · rw [bne_iff_ne.mpr h, Bool.or_true]

variable (up : belfryUp s = true) (armed : (getCtx s c.val).led.st = .armed)
include up armed

theorem judgeReady_runs : ¬(!belfryUp s || (getCtx s c.val).led.st != .armed) = true := by
  rw [up, armed]
  decide

theorem judgeReady_vetoes {k : Nat} (place : votePlace s c.val ≠ none) (veto : firstVeto s c.val = some k) :
    judgeReady c.val s = castBit s c.val false k := by
  unfold judgeReady
  rw [if_neg (judgeReady_runs up armed), if_pos (Option.isSome_iff_ne_none.mpr place), veto]

theorem judgeReady_shows (h : votePlace s c.val = none ∨ firstVeto s c.val = none) : judgeReady c.val s = match firstUnmet s c.val with
    | none => castBit (showReason s c.val 0) c.val true 0
    | some (k, _) => showReason s c.val k := by
  have noVeto : (if (votePlace s c.val).isSome = true then firstVeto s c.val else none) = none := by
    rcases h with h | h
    · rw [h]
      rfl
    · rw [h, ite_self]
  unfold judgeReady
  rw [if_neg (judgeReady_runs up armed), noVeto] <;> rfl

end

theorem votePlace_led {s t : State} {c : Nat} {l : Ledger} (h : LedgerTo c s t l) (st : l.st = (getCtx s c).led.st)
    (launched : l.launched = (getCtx s c).led.launched) (engine : l.engine = (getCtx s c).led.engine)
    (va : l.progVa = (getCtx s c).led.progVa) : votePlace t c = votePlace s c := by
  have engines (e : Nat) : getEngine t e = getEngine s e := getEngine_congr (h.frame .engines (by decide)) e
  have same : isDownbeat c l = isDownbeat c (getCtx s c).led := by
    funext p
    rw [isDownbeat, va, isDownbeat]
  unfold votePlace
  dsimp only
  rw [h.led, st, launched, engine, engines, same]

section
variable {s : State} {c : Ctx}

theorem firstUnmet_unlocked (h : s.time.st ≠ .locked) : firstUnmet s c.val ≠ none := by
  have unlocked : (s.time.st == .locked) = false := by
    cases st : s.time.st <;> first | rfl | exact absurd st h
  unfold firstUnmet
  dsimp only
  rw [Ne, Option.map_eq_none_iff, List.find?_eq_none]
  intro none_
  exact none_ (s.time.st == .locked, 0x08, false) (by simp) (by rw [unlocked]; rfl)

theorem showReason_zero : showReason s c.val 0 = setCtx s c.val { getCtx s c.val with led := { (getCtx s c.val).led with reason := 0 } } := rfl

/-- What the state shows after a step in which only a ledger moved. -/
theorem ledgerTo_ends {i : Instr} {u t : State} {l : Ledger} (run : exec i u = doneMem t) (calm : NoLockout s) (h : LedgerTo c.val s t l) :
    ∃ t, exec i u = .next t ∧ t.mem = s.mem ∧ (getCtx t c.val).led = l ∧ ∀ k, k ≠ c.val → getCtx t k = getCtx s k := by
  have kept := (settle_settled t).out
  have ctx := getCtx_congr kept.ctxs
  exact ⟨_, run.trans (doneMem_eq (h.calm calm)), Eq.trans kept.mem (h.frame .mem (by decide)), by rw [ctx, h.led],
    fun k hk => (ctx k).trans (h.others k hk)⟩

/-! ### The partner's record (R293, R303) -/

/-- Whether a record is the partner's, for the step in progress. -/
def recordMine (l : Ledger) (rec : Bytes) : Bool :=
  (match l.pair with
    | some q => leNat (slice rec 8 4) == q.peer.toNat && (rec.getD 0x0C 0).toNat == q.peerCtx.toNat
    | none => false) &&
  leNat (slice rec 0 8) == (l.committed + 1).toNat && (l.st == .idle || l.st == .armed || (l.st == .voted && (l.ready || l.veto)))

theorem takeRecord_eq (rec : Bytes) : takeRecord c.val rec s = if recordMine (getCtx s c.val).led rec then
    modLed s c.val fun l => { l with partnerRec := some rec } else modLed s c.val fun l => { l with recDrop := l.recDrop + 1 } := rfl

theorem recordMine_iff (l : Ledger) (rec : Bytes) : recordMine l rec = true ↔
    ∃ q, l.pair = some q ∧ leNat (slice rec 8 4) = q.peer.toNat ∧ (rec.getD 0x0C 0).toNat = q.peerCtx.toNat ∧
      leNat (slice rec 0 8) = (l.committed + 1).toNat ∧
      (l.st = .idle ∨ l.st = .armed ∨ l.st = .voted ∧ (l.ready = true ∨ l.veto = true)) := by
  unfold recordMine
  cases l.pair with
  | none => simp
  | some q => simp [and_assoc, or_assoc]

theorem digestRecord_runs {rec : Bytes} (h : rec.length = 256) : exec (.digestRecord c rec) s = done (takeRecord c.val rec s) :=
  if_pos (by simp [wellFormed, h])

end

/-! ### What a context posts to its partner (R266, R289) -/

/-- Between two states context `c` has sent. Of the context only its count of sealed packets moves. -/
structure Posted (c : Nat) (s t : State) : Prop where
  frame  : AllBut (.ctxs :: fabricParts) s t
  own    : ∃ n, getCtx t c = { getCtx s c with sec := { (getCtx s c).sec with sendCtr := n } }
  others : ∀ k, k ≠ c → getCtx t k = getCtx s k

section
variable {s t u : State} {c : Nat}

theorem Posted.of_frame {l : List Part} (h : AllBut l s t) (hl : ∀ p ∈ l, p ∈ fabricParts := by decide) : Posted c s t := by
  have ctx := getCtx_congr (h .ctxs fun hm => absurd (hl _ hm) (by decide))
  exact ⟨h.mono fun p hp => List.mem_cons_of_mem _ (hl p hp), ⟨_, ctx c⟩, fun k _ => ctx k⟩

theorem Posted.refl : Posted c s s := .of_frame (.refl [] s)

theorem Posted.trans (h : Posted c s t) (k : Posted c t u) : Posted c s u := by
  obtain ⟨n, own⟩ := h.own
  obtain ⟨m, own'⟩ := k.own
  exact ⟨h.frame.trans k.frame, ⟨m, by rw [own', own]⟩, fun q hq => (k.others q hq).trans (h.others q hq)⟩

theorem Posted.led (h : Posted c s t) : (getCtx t c).led = (getCtx s c).led := by
  obtain ⟨n, own⟩ := h.own
  rw [own]

theorem Posted.calm (h : Posted c s t) (calm : NoLockout s) : NoLockout t := fun k => by
  by_cases hk : k = c
  · obtain ⟨n, own⟩ := h.own
    rw [hk, own]
    exact calm c
  · rw [h.others k hk]
    exact calm k

theorem posted_sealPacket (hc : c < 64) {k : Packet} {r : State × Packet} (h : sealPacket s c k = some r) : Posted c s r.1 := by
  unfold sealPacket at h
  dsimp only at h
  split at h
  · cases h
    exact .refl
  · split at h
    · cases h
    · cases h
      dsimp only
      exact ⟨(frame_modSec s c _).mono, ⟨_, getCtx_modCtx_same s hc _⟩, fun k hk => getCtx_modCtx_other s hk _⟩

theorem posted_sendRouted (hc : c < 64) (s : State) (k : Packet) : Posted c s (sendRouted s c k).1 := by
  unfold sendRouted
  cases h : sealPacket s c k with
  | none => exact .refl
  | some r =>
    have sealed_ := posted_sealPacket hc h
    dsimp only
    split <;> dsimp only
    · exact sealed_.trans (.of_frame (frame_sendOn _ _ _))
    · exact sealed_.trans (.of_frame (frame_sendOn _ _ _))
    · exact sealed_
    · exact sealed_.trans (.of_frame (frame_dropNoroute _))

theorem posted_sendRequest (hc : c < 64) (s : State) (entry : Nat) (o : ReqOwner) (k : Packet) : Posted c s (sendRequest s c entry o k).1 := by
  unfold sendRequest
  extract_lets x id k' r
  split
  · exact posted_sendRouted hc s _
  · have sent : Posted c s r.1 := posted_sendRouted hc s _
    dsimp only
    refine sent.trans (.of_frame (l := fabricParts) (frame_requestKept (s := r.1) _ ?_))
    exact fun _ => rfl

theorem posted_windowPut (hc : c < 64) : ∀ (ds : List Bytes) (s : State) (va : Nat), Posted c s (windowPut c s va ds)
  | [], _, _ => .refl
  | d :: ds, s, va => by
    unfold windowPut
    split
    · exact (posted_sendRequest hc s _ _ _).trans (posted_windowPut hc ds _ _)
    · exact posted_windowPut hc ds s _

end

end Sys2Proof.Machine
end

section
-- One proof after the other: a text of this length has more proofs waiting at once than the check has threads for.
set_option Elab.async false
/-! PROOFS. Digests of a step, and the repair and the transfer of shards (R287, R289, R292, R307, R310 to R312). -/
namespace Sys2Proof.Machine

/-! ### Digests of a step (R289, R292, R307) -/

/-- The ledger with the digests of a step formed. -/
def digested (l : Ledger) (a b : Bytes) (both : Bool) : Ledger :=
  { l with
    own := shardDigest a, mirror := if both then shardDigest b else List.replicate 32 0, digestDone := true
    ownChunks := digestMap a, mirrorChunks := if both then digestMap b else [] }

section
variable {s : State} {c : Ctx} {a b : Bytes}

/-- The updates of the step have finished, and its digests have not been formed. -/
def digestDue (x : Context) : Bool :=
  x.led.ownDone && (x.led.mirrorDone || !mirrorNeeded x.led) && !x.led.digestDone && x.st == .opened

/-- Both regions of the step have a digest. -/
def bothDigests (x : Context) : Bool := mirrorNeeded x.led && !x.led.filling

theorem formDigest_idle (h : digestDue (getCtx s c.val) = false) : formDigest c.val s = s := if_neg (by rw [← digestDue, h]; decide)

theorem formDigest_forms (due : digestDue (getCtx s c.val) = true) (own : regionData s c.val false (liveIndex s c.val + 1) = some a)
    (mirror : (if bothDigests (getCtx s c.val) then regionData s c.val true (liveIndex s c.val + 1) else some []) = some b) :
    ∃ va rec_, formDigest c.val s = match (getCtx s c.val).led.pair with
      | some _ => windowPut c.val (modLed s c.val fun l => digested l a b (bothDigests (getCtx s c.val))) va [rec_]
      | none => modLed s c.val fun l => digested l a b (bothDigests (getCtx s c.val)) := by
  refine ⟨entryVa (getCtx s c.val) c.val (((getCtx s c.val).led.pair.map (·.winLedger.toNat)).getD 0),
    digestRec (modLed s c.val fun l => digested l a b (bothDigests (getCtx s c.val))) c.val ((getCtx s c.val).led.committed + 1), ?_⟩
  refine (if_pos due).trans ?_
  dsimp only
  rw [bothDigests] at mirror ⊢
  rw [own, mirror]
  dsimp only
  cases (getCtx s c.val).led.pair <;> rfl

theorem digestFormed_forms (calm : NoLockout s) (due : digestDue (getCtx s c.val) = true)
    (own : regionData s c.val false (liveIndex s c.val + 1) = some a)
    (mirror : (if bothDigests (getCtx s c.val) then regionData s c.val true (liveIndex s c.val + 1) else some []) = some b) :
    ∃ t, exec (.digestFormed c) s = .next t ∧ (getCtx t c.val).led = digested (getCtx s c.val).led a b (bothDigests (getCtx s c.val)) ∧
      t.mem = s.mem ∧ t.slots = s.slots ∧ ∀ k, k ≠ c.val → getCtx t k = getCtx s k := by
  obtain ⟨va, rec_, eq⟩ := formDigest_forms due own mirror
  obtain ⟨u, hu⟩ : ∃ u, u = modLed s c.val fun l => digested l a b (bothDigests (getCtx s c.val)) := ⟨_, rfl⟩
  have formed : LedgerTo c.val s u (digested (getCtx s c.val).led a b (bothDigests (getCtx s c.val))) := hu ▸ ledgerTo_modLed c.isLt _
  rw [← hu] at eq
  have sent : Posted c.val u (formDigest c.val s) := by
    rw [eq]
    split
    · exact posted_windowPut c.isLt _ u va
    · exact .refl
  have kept := (settle_settled (formDigest c.val s)).out
  have ctx := getCtx_congr kept.ctxs
  refine ⟨_, doneMem_eq (sent.calm (formed.calm calm)), by rw [ctx, sent.led, formed.led], ?_, ?_, fun k hk => ?_⟩
  · exact kept.mem.trans (Eq.trans (sent.frame .mem (by decide)) (formed.frame .mem (by decide)))
  · exact kept.slots.trans (Eq.trans (sent.frame .slots (by decide)) (formed.frame .slots (by decide)))
  · rw [ctx, sent.others k hk, formed.others k hk]

theorem digestFormed_bad (calm : NoLockout s) (due : digestDue (getCtx s c.val) = true) (place : votePlace s c.val = none)
    (h : regionData s c.val false (liveIndex s c.val + 1) = none ∨
      bothDigests (getCtx s c.val) = true ∧ regionData s c.val true (liveIndex s c.val + 1) = none) :
    Leads (.digestFormed c) s (setCtx s c.val { getCtx s c.val with led := { (getCtx s c.val).led with digestBad := true } }) := by
  have marked : LedgerTo c.val s (modLed s c.val fun l => { l with digestBad := true }) _ := ledgerTo_modLed c.isLt _
  have vote : votePlace (modLed s c.val fun l => { l with digestBad := true }) c.val = none :=
    (votePlace_led marked rfl rfl rfl rfl).trans place
  have forms : formDigest c.val s = castBit (modLed s c.val fun l => { l with digestBad := true }) c.val false 0x07 := by
    refine (if_pos due).trans ?_
    dsimp only
    rcases h with h | ⟨both, h⟩
    · rw [h]
    · rw [bothDigests] at both
      rw [both, if_pos rfl, h]
      cases regionData s c.val false (liveIndex s c.val + 1) <;> rfl
  have run : exec (.digestFormed c) s = doneMem (modLed s c.val fun l => { l with digestBad := true }) := by
    rw [← castBit_noPlace (ready := false) (reason := 0x07) vote, ← forms]
    rfl
  exact leads_done (run.trans (doneMem_eq (marked.calm calm))) (.refl _)

end

/-! ### SHARD_REPAIR and SHARD_FILL (R307, R310 to R312) -/

section
variable {s : State} {r : Req} {c : Nat} {region role : BitVec 8} {chunk first count win : BitVec 32} {d : Bytes}
variable (hc : c = r.ctx.toNat) (hn : c < 64) (ho : (getCtx s c).st ≠ .closed)
include hc hn ho

theorem ansShardRepair_bad (h : 2 ≤ region.toNat ∨ chunkCount s c (region == 1) ≤ chunk.toNat) :
    ansShardRepair r region chunk d s = err s stBadArg 0 := (withOpen_open hc hn ho).trans (if_pos h)

section
variable (hr : region.toNat < 2) (inside : chunk.toNat < chunkCount s c (region == 1))
include hr inside

theorem ansShardRepair_unmirrored (h : (getCtx s c).led.unmirrored = true) :
    ansShardRepair r region chunk d s = conflict s 1 (dbCode (getCtx s c).led.st) 0 :=
  (withOpen_open hc hn ho).trans ((if_neg (by omega)).trans (if_pos h))

variable (mirrored : (getCtx s c).led.unmirrored = false)
include mirrored

theorem ansShardRepair_judged : ansShardRepair r region chunk d s =
    if mapGet? (if region = 1 then (getCtx s c).led.keptMirror else (getCtx s c).led.kept) chunk.toNat ≠ some (sha256 d) then err s stDenied 0
    else ok (putForced s c (chunkVa s c (region == 1) chunk.toNat) d) [] :=
  (withOpen_open hc hn ho).trans ((if_neg (by omega)).trans (if_neg (by rw [mirrored]; decide)))

theorem shardRepair_writes (calm : NoLockout s) (open_ : isConf s (getCtx s c).part = false) (ready : Ready 0x0306 setWork r s)
    (kept : mapGet? (if region = 1 then (getCtx s c).led.keptMirror else (getCtx s c).led.kept) chunk.toNat = some (sha256 d)) :
    ∃ t, exec (.shardRepair r region chunk d) s = .next t ∧ Answers s t r 0x0306 0x00 [] ∧
      t.mem = (putForced s c (chunkVa s c (region == 1) chunk.toNat) d).mem ∧ t.ctxs = s.ctxs := by
  have ans := (ansShardRepair_judged (d := d) hc hn ho hr inside mirrored).trans (if_neg (by rw [kept]; simp))
  have frame := (memMoves_putForced s c (chunkVa s c (region == 1) chunk.toNat) d).plain open_
  generalize putForced s c (chunkVa s c (region == 1) chunk.toNat) d = u at ans frame ⊢
  have ctxs : u.ctxs = s.ctxs := frame .ctxs (by decide)
  have calm' : NoLockout u := fun k => by
    rw [getCtx_congr ctxs]
    exact calm k
  have runs : RunsAs (.shardRepair r region chunk d) r 0x0306 setWork (ansShardRepair r region chunk d) s :=
    runsAs_of_calm (a := ok u []) rfl ready (by decide) ans rfl calm'
  obtain ⟨t, run, still, told⟩ := serves_ok runs ready ans (congrArg Mail.responses (frame .mail (by decide)))
  exact ⟨t, run, told, still.out.mem, still.out.ctxs.trans ctxs⟩

end

/-- The operands of a SHARD_FILL are in range. -/
def FillNamed (s : State) (c : Nat) (role region : BitVec 8) (first count win : BitVec 32) : Prop :=
  role.toNat < 2 ∧ region.toNat < 2 ∧ count ≠ 0 ∧ (getCtx s c).pmBase.toNat ≤ win.toNat ∧
    win.toNat < (getCtx s c).pmBase.toNat + (getCtx s c).pmLen.toNat ∧ (mapGet s.mem.pmap win.toNat 0).getLsbD 0 = true ∧
    entField (mapGet s.mem.pmap win.toNat 0) 1 2 = 1 ∧
    (role = 0 → first.toNat + count.toNat ≤ chunkCount s c (region == 1))

/-- A SHARD_FILL is refused for its operands where one of them is out of range. -/
def fillRefused (s : State) (c : Nat) (role region : BitVec 8) (first count win : BitVec 32) : Prop :=
  2 ≤ role.toNat ∨ 2 ≤ region.toNat ∨ count = 0 ∨ win.toNat < (getCtx s c).pmBase.toNat ∨
    (getCtx s c).pmBase.toNat + (getCtx s c).pmLen.toNat ≤ win.toNat ∨
    (!(mapGet s.mem.pmap win.toNat 0).getLsbD 0) = true ∨ entField (mapGet s.mem.pmap win.toNat 0) 1 2 ≠ 1 ∨
    (role = 0 ∧ chunkCount s c (region == 1) < first.toNat + count.toNat)

omit hc hn ho in
theorem fillRefused_iff : fillRefused s c role region first count win ↔ ¬FillNamed s c role region first count win := by
  unfold fillRefused FillNamed
  simp only [not_and_or, Classical.not_imp, Nat.not_lt, Nat.not_le, Bool.not_eq_true, not_not, Bool.not_eq_true', ne_eq]

/-- The ledger without the transfer that a new one takes the place of. -/
def fillCleared (s : State) (c : Nat) (role region : BitVec 8) (first count win : BitVec 32) : Ledger :=
  { (getCtx s c).led with transfers := (getCtx s c).led.transfers.filter fun t =>
      !(sameTransfer t (transferOf s c (getCtx s c).led (role == 1) (region == 1) first.toNat count.toNat win)) }

/-- The transfer that a SHARD_FILL begins. -/
def fillOf (s : State) (c : Nat) (role region : BitVec 8) (first count win : BitVec 32) : Transfer :=
  transferOf s c (fillCleared s c role region first count win) (role == 1) (region == 1) first.toNat count.toNat win

/-- The ledger once a transfer of a ledger `l` has begun; `fills`: it fills the mirror. -/
def fillBegun (l : Ledger) (q : Transfer) (count : BitVec 32) (fills : Bool) : Ledger :=
  { l with
    transfers := l.transfers ++ [q]
    filling := l.filling || fills
    fillDone := if fills then 0 else l.fillDone
    fillTotal := if fills then count.setWidth 16 else l.fillTotal }

omit hc hn ho in
theorem fillBegun_mirror (l : Ledger) (q : Transfer) (count : BitVec 32) : fillBegun l q count true =
    { l with transfers := l.transfers ++ [q], filling := true, fillDone := 0, fillTotal := count.setWidth 16 } := by
  rw [fillBegun, Bool.or_true]
  rfl

omit hc hn ho in
theorem fillBegun_other (l : Ledger) (q : Transfer) (count : BitVec 32) : fillBegun l q count false =
    { l with transfers := l.transfers ++ [q] } := by
  rw [fillBegun, Bool.or_false]
  rfl

omit hc hn ho in
theorem fillsMirror_iff (q : Transfer) (region : BitVec 8) :
    (q.receiver && q.fill && region == 1) = true ↔ q.receiver = true ∧ q.fill = true ∧ region = 1 := by
  simp [and_assoc]

theorem ansShardFill_bad (bad : ¬FillNamed s c role region first count win) :
    ansShardFill r role region first count win s = err s stBadArg 0 :=
  (withOpen_open hc hn ho).trans (if_pos (fillRefused_iff.mpr bad))

variable (good : FillNamed s c role region first count win)
include good

theorem ansShardFill_judged : ansShardFill r role region first count win s =
    if (fillOf s c role region first count win).receiver && decide (regionSize s c <
        (if (fillOf s c role region first count win).fill then 0 else (fillOf s c role region first count win).base) +
          (fillOf s c role region first count win).bytes) then err s stNoResource 0
    else if 64 ≤ (fillCleared s c role region first count win).transfers.length then err s stNoResource 0
    else ok (modLed s c fun _ => fillBegun (fillCleared s c role region first count win) (fillOf s c role region first count win) count
      ((fillOf s c role region first count win).receiver && (fillOf s c role region first count win).fill && region == 1)) [] :=
  (withOpen_open hc hn ho).trans (if_neg fun bad => fillRefused_iff.mp bad good)

theorem ansShardFill_full (h : 64 ≤ (fillCleared s c role region first count win).transfers.length ∨
    (fillOf s c role region first count win).receiver = true ∧ regionSize s c <
      (if (fillOf s c role region first count win).fill then 0 else (fillOf s c role region first count win).base) +
        (fillOf s c role region first count win).bytes) :
    ansShardFill r role region first count win s = err s stNoResource 0 := by
  rw [ansShardFill_judged hc hn ho good]
  rcases h with h | ⟨receives, small⟩
  · rw [if_pos h, ite_self]
  · exact if_pos (by rw [receives, decide_eq_true small]; rfl)

theorem ansShardFill_begins (room : (fillCleared s c role region first count win).transfers.length < 64)
    (fits : (fillOf s c role region first count win).receiver = true →
      (if (fillOf s c role region first count win).fill then 0 else (fillOf s c role region first count win).base) +
        (fillOf s c role region first count win).bytes ≤ regionSize s c) :
    ansShardFill r role region first count win s = ok (modLed s c fun _ =>
      fillBegun (fillCleared s c role region first count win) (fillOf s c role region first count win) count
        ((fillOf s c role region first count win).receiver && (fillOf s c role region first count win).fill && region == 1)) [] := by
  rw [ansShardFill_judged hc hn ho good]
  refine (if_neg ?_).trans (if_neg (by omega))
  rw [Bool.and_eq_true, decide_eq_true_iff]
  rintro ⟨receives, small⟩
  exact absurd (fits receives) (Nat.not_le.mpr small)

end

section
variable {s : State} {r : Req} {c : Nat} {region role : BitVec 8} {first count win : BitVec 32} {q : Transfer} {l : Ledger}
variable (hc : c = r.ctx.toNat) (hn : c < 64) (ho : (getCtx s c).st ≠ .closed) (good : FillNamed s c role region first count win)
  (room : (fillCleared s c role region first count win).transfers.length < 64)
  (fits : (fillOf s c role region first count win).receiver = true →
    (if (fillOf s c role region first count win).fill then 0 else (fillOf s c role region first count win).base) +
      (fillOf s c role region first count win).bytes ≤ regionSize s c)
include hc hn ho good room fits

theorem shardFill_fills (h : (fillOf s c role region first count win).receiver = true ∧
    (fillOf s c role region first count win).fill = true ∧ region = 1) : ansShardFill r role region first count win s =
    ok (setCtx s c { getCtx s c with led := { fillCleared s c role region first count win with
      transfers := (fillCleared s c role region first count win).transfers ++ [fillOf s c role region first count win]
      filling := true, fillDone := 0, fillTotal := count.setWidth 16 } }) [] := by
  have ans := ansShardFill_begins hc hn ho good room fits
  rw [(fillsMirror_iff _ _).mpr h, fillBegun_mirror] at ans
  exact ans

theorem shardFill_begins (h : ¬((fillOf s c role region first count win).receiver = true ∧
    (fillOf s c role region first count win).fill = true ∧ region = 1)) : ansShardFill r role region first count win s =
    ok (setCtx s c { getCtx s c with led := { fillCleared s c role region first count win with
      transfers := (fillCleared s c role region first count win).transfers ++ [fillOf s c role region first count win] } }) [] := by
  have ans := ansShardFill_begins hc hn ho good room fits
  rw [Bool.eq_false_iff.mpr (fun k => h ((fillsMirror_iff _ _).mp k)), fillBegun_other] at ans
  exact ans

end

/-! ### The chunks of a transfer, and the audit copy (R287, R310) -/

section
variable {s : State} {c : Ctx} {n : Fin 64} {d : Bytes} {q : Transfer}

/-- A transfer has no chunk left, or none that it may store now. -/
theorem transferChunk_idle (at_ : (getCtx s c.val).led.transfers[n.val]? = some q)
    (h : q.count ≤ q.done ∨ q.receiver = true ∧ updateStarted (getCtx s c.val).led q = true) : transferChunk c.val n.val d s = s := by
  unfold transferChunk
  dsimp only
  rw [at_]
  refine if_pos ?_
  simpa only [Bool.or_eq_true, decide_eq_true_iff, Bool.and_eq_true] using h

/-- What a chunk of a transfer moves besides the ledger. -/
def chunkCopied (s : State) (c : Nat) (q : Transfer) (d : Bytes) : State :=
  let p := chunkSpan s c q
  let va := regionVa s c q.mirror (liveIndex s c) + p.1
  if q.receiver then putForced s c va (d.take p.2)
  else match readBytesVa s c va p.2 with
    | some (u, b) => windowPut c u (entryVa (getCtx s c) c q.win.toNat + q.done * chunkBytes) (chunksOf 256 (b.length / 256 + 1) b)
    | none => s

/-- The ledger with one chunk of a transfer done. -/
def chunkDone (l : Ledger) (n : Nat) (q : Transfer) : Ledger :=
  { l with
    transfers := l.transfers.set n { q with done := q.done + 1 }
    fillDone := if q.receiver && q.fill then l.fillDone + 1 else l.fillDone }

theorem transferChunk_moves (at_ : (getCtx s c.val).led.transfers[n.val]? = some q) (left : q.done < q.count)
    (may : q.receiver = true → updateStarted (getCtx s c.val).led q = false) :
    transferChunk c.val n.val d s = modLed (chunkCopied s c.val q d) c.val fun l => chunkDone l n.val q := by
  unfold transferChunk
  dsimp only
  rw [at_]
  dsimp only
  rw [if_neg]
  · rfl
  rw [Bool.or_eq_true, decide_eq_true_iff, Bool.and_eq_true]
  rintro (h | ⟨receives, started⟩)
  · exact absurd left (Nat.not_lt.mpr h)
  · exact absurd ((may receives).symm.trans started) (by decide)

theorem chunkCopied_moves (open_ : isConf s (getCtx s c.val).part = false) : NoLockout s →
    NoLockout (chunkCopied s c.val q d) ∧ (getCtx (chunkCopied s c.val q d) c.val).led = (getCtx s c.val).led ∧
      (∀ k, k ≠ c.val → getCtx (chunkCopied s c.val q d) k = getCtx s k) ∧
      (q.receiver = false → (chunkCopied s c.val q d).mem.cells = s.mem.cells) := by
  intro calm
  unfold chunkCopied
  dsimp only
  by_cases receives : q.receiver = true
  · rw [if_pos receives]
    have ctx := getCtx_congr ((memMoves_putForced s c.val (regionVa s c.val q.mirror (liveIndex s c.val) + (chunkSpan s c.val q).1)
      (d.take (chunkSpan s c.val q).2)).plain open_ .ctxs (by decide))
    exact ⟨fun k => by rw [ctx]; exact calm k, by rw [ctx], fun k _ => ctx k, fun h => absurd (h.symm.trans receives) (by decide)⟩
  · rw [if_neg receives]
    split
    next u b read =>
      have frame : AllBut readParts s u := (memMoves_readBytesVa read).plain open_
      have ctx := getCtx_congr (frame .ctxs (by decide))
      have calm' : NoLockout u := fun k => by rw [ctx]; exact calm k
      have sent := posted_windowPut c.isLt (chunksOf 256 (b.length / 256 + 1) b) u
        (entryVa (getCtx s c.val) c.val q.win.toNat + q.done * chunkBytes)
      generalize windowPut c.val u _ _ = v at sent ⊢
      refine ⟨sent.calm calm', by rw [sent.led, ctx], fun k hk => by rw [sent.others k hk, ctx], fun _ => ?_⟩
      exact Eq.trans (sent.frame .cells (by decide)) (frame .cells (by decide))
    next => exact ⟨calm, rfl, fun _ _ => rfl, fun _ => rfl⟩

theorem shardTransferChunk_moves (calm : NoLockout s) (open_ : isConf s (getCtx s c.val).part = false)
    (at_ : (getCtx s c.val).led.transfers[n.val]? = some q) (left : q.done < q.count)
    (may : q.receiver = true → updateStarted (getCtx s c.val).led q = false) :
    ∃ t, exec (.shardTransferChunk c ⟨n, d⟩) s = .next t ∧ (getCtx t c.val).led = chunkDone (getCtx s c.val).led n.val q ∧
      (q.receiver = true → t.mem = (putForced s c.val (regionVa s c.val q.mirror (liveIndex s c.val) + (chunkSpan s c.val q).1)
        (d.take (chunkSpan s c.val q).2)).mem) ∧
      (q.receiver = false → t.mem.cells = s.mem.cells) ∧ ∀ k, k ≠ c.val → getCtx t k = getCtx s k := by
  obtain ⟨calm', led, others, cells⟩ := chunkCopied_moves (q := q) (d := d) open_ calm
  have stored : q.receiver = true → chunkCopied s c.val q d = putForced s c.val
      (regionVa s c.val q.mirror (liveIndex s c.val) + (chunkSpan s c.val q).1) (d.take (chunkSpan s c.val q).2) := fun h => by
    unfold chunkCopied
    dsimp only
    rw [if_pos h]
  have run : exec (.shardTransferChunk c ⟨n, d⟩) s = doneMem (transferChunk c.val n.val d s) := rfl
  rw [transferChunk_moves at_ left may] at run
  generalize chunkCopied s c.val q d = u at calm' led others cells stored run
  have ends := ledgerTo_modLed (s := u) c.isLt fun l => chunkDone l n.val q
  obtain ⟨t, run, mem, shown, still⟩ := ledgerTo_ends run calm' ends
  exact ⟨t, run, by rw [shown, led], fun h => by rw [mem, stored h], fun h => by rw [mem, cells h],
    fun k hk => (still k hk).trans (others k hk)⟩

/-- The copy of an audited step, part by part. -/
theorem auditCopied_moves (open_ : isConf s (getCtx s c.val).part = false) (parts : List (Nat × Nat)) (start : Nat) :
    MemMoves writeParts c.val s (parts.foldl (fun (a : State × Nat) p =>
      (match readBytesVa a.1 c.val p.1 p.2 with
        | some (s, b) => putForced s c.val a.2 b
        | none => a.1, a.2 + p.2)) (s, start)).1 := by
  refine foldl_marked (R := MemMoves writeParts c.val) (fun _ => .refl) (.trans (by decide)) (fun a p => ?_) parts (s, start)
  dsimp only
  split
  next u b read => exact (memMoves_readBytesVa read).mono.trans (by decide) (memMoves_putForced u c.val _ b)
  next => exact .refl

theorem auditCopy_idle (h : (getCtx s c.val).led.auditCopy = false) : auditCopy c.val s = s := if_pos (by rw [h]; rfl)

theorem auditCopy_copies (due : (getCtx s c.val).led.auditCopy = true) (open_ : isConf s (getCtx s c.val).part = false) :
    ∃ u, auditCopy c.val s = modLed u c.val (fun l => { l with auditCopy := false }) ∧ MemMoves writeParts c.val s u := by
  refine ⟨_, if_neg (by rw [due]; decide), auditCopied_moves open_ _ _⟩

theorem auditCopyComplete_copies (calm : NoLockout s) (due : (getCtx s c.val).led.auditCopy = true)
    (open_ : isConf s (getCtx s c.val).part = false) : ∃ t, exec (.auditCopyComplete c) s = .next t ∧
      (getCtx t c.val).led = { (getCtx s c.val).led with auditCopy := false } ∧ t.mem.pmap = s.mem.pmap ∧
      ∀ k, k ≠ c.val → getCtx t k = getCtx s k := by
  obtain ⟨u, eq, moves⟩ := auditCopy_copies due open_
  have frame := moves.plain open_
  have ctx := getCtx_congr (frame .ctxs (by decide))
  have run : exec (.auditCopyComplete c) s = doneMem (auditCopy c.val s) := rfl
  rw [eq] at run
  obtain ⟨t, run, mem, led, others⟩ := ledgerTo_ends run (fun k => by rw [ctx]; exact calm k)
    (ledgerTo_modLed (s := u) c.isLt fun l => { l with auditCopy := false })
  have pmap : u.mem.pmap = s.mem.pmap := frame .pmap (by decide)
  exact ⟨t, run, by rw [led, ctx], by rw [mem, pmap], fun k hk => (others k hk).trans (ctx k)⟩

end

/-- Settles O32: the ready bit by the conditions it waits for, then the records, the digests and the shards. -/
theorem readyIsGivenAndShardsMove : Obligations.ReadyIsGivenAndShardsMove := by
  refine ⟨?_, ?_⟩
  · rintro c s x rfl calm
    refine ⟨fun up armed => ⟨fun k place veto => ?_, fun place veto met => ?_, fun place met => ?_, fun k v noVeto unmet => ?_⟩,
      fun h => ?_, firstUnmet_unlocked, fun rec mine len hmine => ⟨fun h => ?_, fun h => ?_⟩, ?_⟩
    · obtain ⟨ts, cast⟩ := ledgerTo_castBit c.isLt false k place
      obtain ⟨t, run, mem, led, others⟩ := ledgerTo_ends (i := .readyBit c)
        (congrArg doneMem (judgeReady_vetoes up armed place veto)) calm cast
      exact ⟨t, run, mem, by rw [led], by rw [led]; rfl, by rw [led], by rw [led]; rfl, others⟩
    · have shown : LedgerTo c.val s (showReason s c.val 0) { (getCtx s c.val).led with reason := 0 } :=
        ledgerTo_modLed c.isLt fun l => { l with reason := 0 }
      have place' : votePlace (showReason s c.val 0) c.val ≠ none := by rwa [votePlace_led shown rfl rfl rfl rfl]
      obtain ⟨ts, cast⟩ := ledgerTo_castBit c.isLt true 0 place'
      obtain ⟨t, run, mem, led, others⟩ := ledgerTo_ends (i := .readyBit c)
        (congrArg doneMem ((judgeReady_shows up armed (.inr veto)).trans (by rw [met]))) calm (shown.trans cast)
      exact ⟨t, run, mem, by rw [led], by rw [led], by rw [led]; rfl, by rw [led]; rfl, others⟩
    · have shown : LedgerTo c.val s (showReason s c.val 0) { (getCtx s c.val).led with reason := 0 } :=
        ledgerTo_modLed c.isLt fun l => { l with reason := 0 }
      have place' : votePlace (showReason s c.val 0) c.val = none := by rwa [votePlace_led shown rfl rfl rfl rfl]
      have run : exec (.readyBit c) s = doneMem (showReason s c.val 0) :=
        congrArg doneMem ((judgeReady_shows up armed (.inl place)).trans (by rw [met]; exact castBit_noPlace place'))
      exact leads_done (run.trans (doneMem_eq (shown.calm calm))) (.refl _)
    · obtain ⟨ts, shown⟩ := ledgerTo_showReason (s := s) c.isLt k
      obtain ⟨t, run, mem, led, others⟩ := ledgerTo_ends (i := .readyBit c)
        (congrArg doneMem ((judgeReady_shows up armed noVeto).trans (by rw [unmet]))) calm shown
      exact ⟨t, run, mem, by rw [led], others⟩
    · exact leads_done ((congrArg doneMem (judgeReady_idle h)).trans (doneMem_eq calm)) (.refl s)
    · have takes := (takeRecord_eq (s := s) (c := c) rec).trans (if_pos ((recordMine_iff _ _).mpr (hmine.mp h)))
      exact leads_done ((digestRecord_runs len).trans (congrArg done takes)) (.refl _)
    · have drops := (takeRecord_eq (s := s) (c := c) rec).trans (if_neg fun k => h (hmine.mpr ((recordMine_iff _ _).mp k)))
      exact leads_done ((digestRecord_runs len).trans (congrArg done drops)) (.refl _)
    · rintro due both rfl rfl
      exact ⟨fun a b due own mirror => digestFormed_forms calm due own mirror, fun due place h => digestFormed_bad calm due place h,
        fun idle => leads_done ((congrArg doneMem (formDigest_idle idle)).trans (doneMem_eq calm)) (.refl s)⟩
  · rintro r s c x hc rfl ho calm open_
    refine ⟨?_, ?_, fun n d => ⟨fun none_ => ?_, fun q at_ => ⟨fun idle => ?_, fun left may => shardTransferChunk_moves calm open_ at_ left may⟩⟩,
      fun due => auditCopyComplete_copies calm due open_, fun idle => ?_⟩
    · rintro region chunk d kept ready rfl
      refine ⟨fun bad => ?_, fun hr inside => ⟨fun unmirrored => ?_, fun mirrored => ⟨fun same =>
        shardRepair_writes hc c.isLt ho hr inside mirrored calm open_ ready same, fun other => ?_⟩⟩⟩
      · have ans := ansShardRepair_bad (d := d) hc c.isLt ho bad
        exact refuses_err (runsAs_of_calm (a := err s _ 0) rfl ready (by decide) ans rfl calm) ready ans
      · have ans := ansShardRepair_unmirrored (d := d) hc c.isLt ho hr inside unmirrored
        exact conflicts_of (runsAs_of_calm (a := conflict s 1 _ 0) rfl ready (by decide) ans rfl calm) ready ans
      · have ans := (ansShardRepair_judged (d := d) hc c.isLt ho hr inside mirrored).trans (if_pos other)
        exact refuses_err (runsAs_of_calm (a := err s _ 0) rfl ready (by decide) ans rfl calm) ready ans
    · rintro role region first count win good fills u q l ready hgood rfl rfl rfl hfills
      refine ⟨fun bad => ?_, fun named full => ?_, fun named room fits => ⟨fun yes => ?_, fun no => ?_⟩⟩
      · exact refuses_err rfl ready (ansShardFill_bad hc c.isLt ho (fun h => bad (hgood.mpr h)))
      · exact refuses_err rfl ready (ansShardFill_full hc c.isLt ho (hgood.mp named) full)
      · have ans := shardFill_fills hc c.isLt ho (hgood.mp named) room fits (hfills.mp yes)
        exact serves_ok rfl ready ans rfl
      · have ans := shardFill_begins hc c.isLt ho (hgood.mp named) room fits (fun h => no (hfills.mpr h))
        exact serves_ok rfl ready ans rfl
    · have same : transferChunk c.val n.val d s = s := by
        unfold transferChunk
        dsimp only
        rw [none_]
      exact leads_done ((congrArg doneMem same).trans (doneMem_eq calm)) (.refl s)
    · exact leads_done ((congrArg doneMem (transferChunk_idle at_ idle)).trans (doneMem_eq calm)) (.refl s)
    · exact leads_done ((congrArg doneMem (auditCopy_idle idle)).trans (doneMem_eq calm)) (.refl s)

end Sys2Proof.Machine
end

section
-- One proof after the other: a text of this length has more proofs waiting at once than the check has threads for.
set_option Elab.async false
/-! PROOFS. The quiesce barrier (R329, R330): the cores of a context at T_Q and at T_R, and the Peal that is captured. -/
namespace Sys2Proof.Machine

/-! ### The cores of a context freeze, and go on -/

/-- A core frozen, or let go on. -/
def frozenCore (s : State) (h : Bool) (k : PCore) : PCore :=
  { k with
    frozen := h, pwrMode := if h then 0 else 2
    streams := k.streams.map fun t => { t with blocked := t.blocked.map (blockedMap (holdArm s h)) } }

/-- The cores of a list frozen, or let go on. -/
def frozenCores (l : List Nat) (h : Bool) (s : State) : State := l.foldl (fun s n => modC s n (frozenCore s h)) s

section
variable {s : State} {h : Bool} {n : Nat}

theorem frozenCore_blocked {k : PCore} (free : ∀ i, (getStream k i).blocked = none) (i : Nat) :
    (getStream (frozenCore s h k) i).blocked = none := by
  have own := free i
  unfold getStream frozenCore at *
  by_cases hi : i < 16
  · simp_all [Vector.getD]
  · simp_all [Vector.getD]

theorem getC_modC_aliased {m : Nat} (f : PCore → PCore) (same : physOf s m = physOf s n) : getC (modC s n f) m = f (getC s n) := by
  have one : getC (modC s n f) m = getC (modC s n f) n := congrArg (getP (modC s n f)) same
  rw [one, getC_modC_same]

theorem getC_modC_apart {m : Nat} (f : PCore → PCore) (apart : physOf s n ≠ physOf s m) : getC (modC s n f) m = getC s m :=
  mapGet_set_other _ (Ne.symm apart) _ _

/-- What freezing cores does, core by core. -/
theorem frozenCores_spec : ∀ (l : List Nat) (s : State), AllBut [.slots] s (frozenCores l h s) ∧
    (∀ n, (∃ m ∈ l, physOf s m = physOf s n) → (getC (frozenCores l h s) n).frozen = h ∧
      (getC (frozenCores l h s) n).pwrMode = if h then 0 else 2) ∧
    (∀ n, (∀ m ∈ l, physOf s m ≠ physOf s n) → getC (frozenCores l h s) n = getC s n) ∧
    ((∀ n, NoneBlocked s n) → ∀ n, NoneBlocked (frozenCores l h s) n)
  | [], s => ⟨.refl _ s, fun _ ⟨_, hm, _⟩ => absurd hm (by simp), fun _ _ => rfl, id⟩
  | m :: l, s => by
    obtain ⟨u, hu⟩ : ∃ u, u = modC s m (frozenCore s h) := ⟨_, rfl⟩
    have all : frozenCores (m :: l) h s = frozenCores l h u := by rw [hu]; rfl
    have first : AllBut [.slots] s u := hu ▸ frame_modC s m _
    have phys (k : Nat) : physOf u k = physOf s k := by rw [hu]; rfl
    obtain ⟨frame, hit, missed, free⟩ := frozenCores_spec l u
    simp only [phys] at hit missed
    rw [all]
    refine ⟨first.trans frame, fun n hn => ?_, fun n hn => ?_, fun none_ => free fun n => ?_⟩
    · by_cases later : ∃ k ∈ l, physOf s k = physOf s n
      · exact hit n later
      · have own : physOf s n = physOf s m := by
          obtain ⟨k, hk, at_⟩ := hn
          rcases List.mem_cons.mp hk with rfl | hk
          · exact at_.symm
          · exact absurd ⟨k, hk, at_⟩ later
        rw [missed n fun k hk at_ => later ⟨k, hk, at_⟩, hu, getC_modC_aliased _ own]
        exact ⟨rfl, rfl⟩
    · rw [missed n fun k hk => hn k (List.mem_cons_of_mem _ hk), hu, getC_modC_apart _ (hn m List.mem_cons_self)]
    · by_cases own : physOf s n = physOf s m
      · intro i
        rw [hu, getC_modC_aliased _ own]
        exact frozenCore_blocked (none_ m) i
      · intro i
        rw [hu, getC_modC_apart _ (Ne.symm own)]
        exact none_ n i

theorem mem_servingCores {c : Nat} : n ∈ servingCores s c ↔ n < 128 ∧ inService s n = true ∧ (getC s n).ctx = some c := by
  simp [servingCores]

/-- A context's queued programs held, or freed. -/
theorem freeze_eq (s : State) (c : Nat) (h : Bool) : ∃ f : Fabric → Fabric,
    freeze s c h = modFab (frozenCores (servingCores s c) h s) f :=
  ⟨fun f => { f with engines := f.engines.map fun e => { e with queued := e.queued.map fun p =>
    if p.ctx = c then { p with launch := holdArm (frozenCores (servingCores s c) h s) h p.launch } else p } }, rfl⟩

/-- What freezing a context, or letting it go on, does to its cores. -/
theorem freeze_spec (s : State) (c : Nat) (h : Bool) : AllBut [.slots, .fab, .engines, .ports] s (freeze s c h) ∧
    (∀ n, n < 128 → inService s n = true → (getC s n).ctx = some c →
      (getC (freeze s c h) n).frozen = h ∧ (getC (freeze s c h) n).pwrMode = if h then 0 else 2) ∧
    (∀ n, (∀ m, m < 128 → inService s m = true → physOf s m = physOf s n → (getC s m).ctx ≠ some c) →
      getC (freeze s c h) n = getC s n) ∧
    ((∀ n, NoneBlocked s n) → ∀ n, NoneBlocked (freeze s c h) n) := by
  obtain ⟨f, eq⟩ := freeze_eq s c h
  obtain ⟨frame, hit, missed, free⟩ := frozenCores_spec (h := h) (servingCores s c) s
  rw [eq]
  refine ⟨frame.mono.trans (.mono (frame_modFab _ f)), fun n hn serves own => hit n ⟨n, mem_servingCores.mpr ⟨hn, serves, own⟩, rfl⟩,
    fun n hn => missed n fun m hm at_ => ?_, free⟩
  obtain ⟨lt, serves, own⟩ := mem_servingCores.mp hm
  exact hn m lt serves at_ own

theorem wakeCores_none (free : ∀ n, NoneBlocked s n) : ∀ l : List Nat, l.foldl wakeCore s = s
  | [] => rfl
  | n :: l => by
    rw [List.foldl_cons, wakeCore_none (free n)]
    exact wakeCores_none free l

end

/-! ### T_Q and T_R (R329, R330) -/

section
variable {s t u : State} {c : Nat}

/-- Between two states only the Peal of context `c` has moved, to `p`, besides cores and programs. -/
structure PealTo (c : Nat) (s t : State) (p : Peal) : Prop where
  frame  : AllBut [.ctxs, .slots, .fab, .engines, .ports] s t
  own    : getCtx t c = { getCtx s c with peal := p }
  others : ∀ k, k ≠ c → getCtx t k = getCtx s k

theorem PealTo.calm {p : Peal} (h : PealTo c s t p) (calm : NoLockout s) : NoLockout t := fun k => by
  by_cases hk : k = c
  · rw [hk, h.own]
    exact calm c
  · rw [h.others k hk]
    exact calm k

theorem pealTo_modPeal (hc : c < 64) (f : Peal → Peal) : PealTo c s (modPeal s c f) (f (getCtx s c).peal) :=
  ⟨(frame_modPeal s c f).mono, getCtx_modCtx_same s hc _, fun _ hk => getCtx_modCtx_other s hk _⟩

theorem PealTo.then {p : Peal} (h : PealTo c s t p) (k : AllBut [.slots, .fab, .engines, .ports] t u) : PealTo c s u p := by
  have ctx := getCtx_congr (k .ctxs (by decide))
  exact ⟨h.frame.trans k.mono, by rw [ctx, h.own], fun n hn => by rw [ctx, h.others n hn]⟩

theorem quiesceAt_spec (hc : c < 64) (s : State) : PealTo c s (quiesceAt s c) { (getCtx s c).peal with
      st := .quiescing, tq := none, taken := s.time.now, kind := 2 } ∧
    (∀ n, n < 128 → inService s n = true → (getC s n).ctx = some c →
      (getC (quiesceAt s c) n).frozen = true ∧ (getC (quiesceAt s c) n).pwrMode = 0) ∧
    (∀ n, (∀ m, m < 128 → inService s m = true → physOf s m = physOf s n → (getC s m).ctx ≠ some c) →
      getC (quiesceAt s c) n = getC s n) := by
  obtain ⟨u, hu⟩ : ∃ u, u = modPeal s c fun p => { p with st := .quiescing, tq := none, taken := s.time.now, kind := 2 } := ⟨_, rfl⟩
  have eq : quiesceAt s c = freeze u c true := by rw [hu]; rfl
  have moved : PealTo c s u _ := hu ▸ pealTo_modPeal hc _
  have core (n : Nat) : getC u n = getC s n := by rw [hu]; rfl
  have serves (n : Nat) : inService u n = inService s n := by rw [hu]; rfl
  have phys (n : Nat) : physOf u n = physOf s n := by rw [hu]; rfl
  obtain ⟨frame, hit, missed, -⟩ := freeze_spec u c true
  simp only [core, serves, phys] at hit missed
  rw [eq]
  exact ⟨moved.then frame, hit, missed⟩

theorem resumeAt_spec (hc : c < 64) (free : ∀ n, NoneBlocked s n) : PealTo c s (resumeAt s c) { (getCtx s c).peal with st := .idle, tr := none } ∧
    ∀ n, n < 128 → inService s n = true → (getC s n).ctx = some c →
      (getC (resumeAt s c) n).frozen = false ∧ (getC (resumeAt s c) n).pwrMode = 2 := by
  obtain ⟨u, hu⟩ : ∃ u, u = modPeal s c fun p => { p with st := .idle, tr := none } := ⟨_, rfl⟩
  have moved : PealTo c s u _ := hu ▸ pealTo_modPeal hc _
  have core (n : Nat) : getC u n = getC s n := by rw [hu]; rfl
  have serves (n : Nat) : inService u n = inService s n := by rw [hu]; rfl
  obtain ⟨frame, hit, -, still⟩ := freeze_spec u c false
  have freeU : ∀ n, NoneBlocked (freeze u c false) n := still fun n i => by rw [core]; exact free n i
  have eq : resumeAt s c = freeze u c false := by
    rw [hu] at freeU ⊢
    exact wakeCores_none freeU _
  simp only [core, serves] at hit
  rw [eq]
  exact ⟨moved.then frame, hit⟩

/-- A count of a late firing moves nothing but itself. -/
theorem PealTo.of_late {p : Peal} (h : PealTo c (countLate s) t p) (mem : t.mem = (countLate s).mem) : t.mem = s.mem ∧
    getCtx t c = { getCtx s c with peal := p } ∧ ∀ k, k ≠ c → getCtx t k = getCtx s k := ⟨mem, h.own, h.others⟩

end

end Sys2Proof.Machine
end

section
-- One proof after the other: a text of this length has more proofs waiting at once than the check has threads for.
set_option Elab.async false
/-! PROOFS. The Peal that a quiesce barrier captures (R327, R329), and the barrier itself. -/
namespace Sys2Proof.Machine

/-! ### The course of a Peal (R327) -/

/-- Between two states the Peal of context `c` is of the same kind, step and time, in the same state, with as many failures. -/
def SameCourse (c : Nat) (s t : State) : Prop :=
  (getCtx t c).peal.st = (getCtx s c).peal.st ∧ (getCtx t c).peal.kind = (getCtx s c).peal.kind ∧
    (getCtx t c).peal.step = (getCtx s c).peal.step ∧ (getCtx t c).peal.taken = (getCtx s c).peal.taken ∧
    (getCtx t c).peal.fail = (getCtx s c).peal.fail

/-- The Peal of context `c` is a quiesced one of `step` and `taken` that is being written, or has failed once more than `n` times. -/
def Captures (c : Nat) (step : BitVec 48) (taken : BitVec 64) (n : BitVec 32) (s : State) : Prop :=
  (getCtx s c).peal.kind = 2 ∧ (getCtx s c).peal.step = step ∧ (getCtx s c).peal.taken = taken ∧
    ((getCtx s c).peal.st = .writing ∧ (getCtx s c).peal.fail = n ∨ (getCtx s c).peal.st = .quiesced ∧ (getCtx s c).peal.fail = n + 1)

section
variable {c : Nat} {s t u : State} {step : BitVec 48} {taken : BitVec 64} {n : BitVec 32}

theorem SameCourse.refl : SameCourse c s s := ⟨rfl, rfl, rfl, rfl, rfl⟩

theorem SameCourse.trans (h : SameCourse c s t) (k : SameCourse c t u) : SameCourse c s u := by
  obtain ⟨a1, a2, a3, a4, a5⟩ := h
  obtain ⟨b1, b2, b3, b4, b5⟩ := k
  exact ⟨b1.trans a1, b2.trans a2, b3.trans a3, b4.trans a4, b5.trans a5⟩

theorem SameCourse.of_peal (h : (getCtx t c).peal = (getCtx s c).peal) : SameCourse c s t := by
  unfold SameCourse
  rw [h]
  exact ⟨rfl, rfl, rfl, rfl, rfl⟩

theorem SameCourse.of_frame {l : List Part} (h : AllBut l s t) (hl : Part.ctxs ∉ l := by decide) : SameCourse c s t :=
  .of_peal (by rw [getCtx_congr (h .ctxs hl)])

theorem SameCourse.of_modPeal (hc : c < 64) (s : State) {f : Peal → Peal} (hf : ∀ p, (f p).st = p.st ∧ (f p).kind = p.kind ∧ (f p).step = p.step ∧
    (f p).taken = p.taken ∧ (f p).fail = p.fail := by intro _; exact ⟨rfl, rfl, rfl, rfl, rfl⟩) : SameCourse c s (modPeal s c f) := by
  unfold SameCourse
  rw [modPeal, getCtx_modCtx_same s hc]
  exact hf _

theorem SameCourse.of_posted (h : Posted c s t) : SameCourse c s t := by
  obtain ⟨m, own⟩ := h.own
  exact .of_peal (by rw [own])

theorem SameCourse.of_mem {l : List Part} (h : MemMoves l c s t) : SameCourse c s t := by
  obtain ⟨-, w, own⟩ := h.tags
  exact .of_peal (by rw [own]; rfl)

theorem SameCourse.captures (h : SameCourse c s t) (k : Captures c step taken n s) : Captures c step taken n t := by
  obtain ⟨st, kind, stp, tk, fail⟩ := h
  unfold Captures
  rw [st, kind, stp, tk, fail]
  exact k

variable (hc : c < 64)
include hc

theorem sameCourse_block (s : State) (slot off : Nat) (d : Bytes) : SameCourse c s (pealBlock s c slot off d).1 := by
  unfold pealBlock
  split
  · exact .refl
  · split
    · exact .of_frame (frame_emit s _)
    · dsimp only
      split
      · exact .of_posted (posted_sendRequest hc s _ _ _)
      · dsimp only
        exact (SameCourse.of_posted (posted_sendRequest hc s _ _ _)).trans (.of_modPeal hc _)
    · exact .refl

theorem sameCourse_put (slot : Nat) : ∀ (ds : List Bytes) (s : State) (off : Nat), SameCourse c s (pealPut c slot s off ds).1
  | [], _, _ => .refl
  | d :: ds, s, off => by
    unfold pealPut
    dsimp only
    split
    · exact sameCourse_block hc s slot off d
    · exact (sameCourse_block hc s slot off d).trans (sameCourse_put slot ds _ _)

theorem sameCourse_write (s : State) (slot off : Nat) (d : Bytes) : SameCourse c s (pealWrite s c slot off d).1 := sameCourse_put hc slot _ s off

theorem sameCourse_payChunk (s : State) (k : Nat) : SameCourse c s (payChunk s c k) := by
  refine foldl_marked (R := SameCourse c) (fun _ => .refl) .trans (fun a b => ?_) _ (s, false)
  split
  · exact .refl
  · split
    next u taken =>
      have paid : SameCourse c a.1 u := .of_frame (frame_takeTokens taken)
      exact paid.trans (.of_modPeal hc u)
    · exact .of_frame (frame_holdTokens a.1 _ _)

omit hc in
theorem sameCourse_readChunkOf {e : PealEntry} {i : Nat} {r : State × Bytes} (h : readChunkOf s c e i = some r) : SameCourse c s r.1 := by
  unfold readChunkOf at h
  split at h
  · cases h
    exact .refl
  · exact .of_mem (pealMoves_readSegs _ h)

/-! ### A Peal that is captured goes on, or fails once -/

/-- A Peal being written that fails stays quiesced. -/
theorem captures_fails (e : BitVec 8) (h : Captures c step taken n s) (writing : (getCtx s c).peal.st = .writing) :
    Captures c step taken n (pealFailWith s c e) := by
  obtain ⟨kind, stp, tk, st⟩ := h
  have fail : (getCtx s c).peal.fail = n := by
    rcases st with ⟨-, fail⟩ | ⟨quiesced, -⟩
    · exact fail
    · rw [quiesced] at writing
      cases writing
  unfold Captures pealFailWith
  rw [modPeal, getCtx_modCtx_same s hc]
  exact ⟨kind, stp, tk, .inr ⟨if_pos kind, by rw [← fail]⟩⟩

theorem captures_digest (e : PealEntry) (i : Nat) (h : Captures c step taken n s) (writing : (getCtx s c).peal.st = .writing) :
    Captures c step taken n (pealDigest s c e i) := by
  obtain ⟨u, hu, told⟩ : ∃ u, pealDigest s c e i = pealFailWith u c 3 ∧ SameCourse c s u := by
    refine ⟨_, rfl, ?_⟩
    split
    · exact .of_frame (frame_postNotice s _ _ _)
    · exact .refl
  rw [hu]
  exact captures_fails hc 3 (told.captures h) (told.1.trans writing)

theorem captures_chunk (e : PealEntry) (i : Nat) (h : Captures c step taken n s) (writing : (getCtx s c).peal.st = .writing) :
    Captures c step taken n (pealChunk s c e i) := by
  unfold pealChunk
  split
  · exact captures_digest hc e i h writing
  next u d read =>
    have first : SameCourse c s u := sameCourse_readChunkOf read
    dsimp only
    split
    · exact captures_digest hc e i (first.captures h) (first.1.trans writing)
    · split
      · have wrote := first.trans (sameCourse_write hc u (getCtx u c).peal.slotNo
          ((entryOffsets 4096 (getCtx u c).peal.entries).getD (getCtx u c).peal.cur 0 + pad4k (48 * entryChunks e) + i * chunkBytes)
          (storeChunk u c (getCtx u c).peal (getCtx u c).peal.done.toNat d).1)
        exact captures_fails hc 1 (wrote.captures h) (wrote.1.trans writing)
      · exact ((first.trans (sameCourse_write hc u _ _ _)).trans (.of_modPeal hc _)).captures h

theorem captures_next (h : Captures c step taken n s) : Captures c step taken n (pealNext s c).1 := by
  by_cases writing : (getCtx s c).peal.st = .writing
  · unfold pealNext
    dsimp only
    split
    · exact h
    · split
      next e _ =>
        split
        · have paid := sameCourse_payChunk hc s (chunkCost e e.rows.length)
          split
          · exact paid.captures h
          · exact captures_chunk hc e e.rows.length (paid.captures h) (paid.1.trans writing)
        · have wrote := sameCourse_write hc s (getCtx s c).peal.slotNo ((entryOffsets 4096 (getCtx s c).peal.entries).getD (getCtx s c).peal.cur 0)
            (storeTable s c (getCtx s c).peal (getCtx s c).peal.cur e)
          split
          · exact captures_fails hc 1 (wrote.captures h) (wrote.1.trans writing)
          · exact (wrote.trans (.of_modPeal hc _)).captures h
      · split
        · exact h
        · have wrote := (SameCourse.of_frame (c := c) (frame_drawFree s 32)).trans (sameCourse_write hc (drawFree s 32).2
            (getCtx s c).peal.slotNo 0 (manifestBytes (drawFree s 32).2 c (getCtx s c).peal (drawFree s 32).1))
          split
          · exact captures_fails hc 1 (wrote.captures h) (wrote.1.trans writing)
          · exact (wrote.trans (.of_modPeal hc _)).captures h
  · have still : pealNext s c = (s, false) := if_pos (.inl writing)
    rw [still]
    exact h

theorem captures_run : ∀ (k : Nat) {s : State}, Captures c step taken n s → Captures c step taken n (pealRun c k s)
  | 0, _, h => h
  | k + 1, s, h => by
    unfold pealRun
    dsimp only
    split
    · exact captures_run k (captures_next hc h)
    · exact captures_next hc h

/-- A Peal of kind 2 that is started is written, or fails. -/
theorem captures_start (s : State) (step : BitVec 48) :
    Captures c step (getCtx s c).peal.taken (getCtx s c).peal.fail (startPeal s c 2 step) := by
  unfold startPeal
  extract_lets slot es s1 s2 s3 r
  have own : (getCtx s1 c).peal = _ := congrArg Context.peal (getCtx_modCtx_same s hc _)
  have begun : Captures c step (getCtx s c).peal.taken (getCtx s c).peal.fail s1 := by
    unfold Captures
    rw [own]
    exact ⟨rfl, rfl, rfl, .inl ⟨rfl, rfl⟩⟩
  have writing : (getCtx s1 c).peal.st = .writing := by rw [own]
  split
  · exact captures_fails hc 2 begun writing
  · have named : SameCourse c s1 r.1 := (SameCourse.of_frame (frame_modDiag s1 _)).trans
      ((SameCourse.of_modPeal hc s2).trans (sameCourse_write hc s3 slot 0 _))
    split
    · exact captures_fails hc 1 (named.captures begun) (named.1.trans writing)
    · exact captures_run hc _ (named.captures begun)

end

/-! ### The rows of the barrier -/

section
variable {s : State} {c : Ctx} {i : Instr} {a : Armed}

/-- A row that is done with its state, with the lockouts or without. -/
theorem runs_calm {t : State} (run : exec i s = done t ∨ exec i s = doneMem t) (calm : NoLockout t) : exec i s = done t :=
  run.elim id fun h => h.trans (doneMem_eq calm)

theorem exec_quiesce (h : i = .quiesceBarrier c ∨ i = .launchFire (.quiesce c)) :
    exec i s = done (fireQuiesce s c.val) ∨ exec i s = doneMem (fireQuiesce s c.val) := by
  rcases h with rfl | rfl
  · exact .inl rfl
  · exact .inr rfl

theorem exec_resume (h : i = .quiesceResume c ∨ i = .launchFire (.resume c)) :
    exec i s = done (fireResume s c.val) ∨ exec i s = doneMem (fireResume s c.val) := by
  rcases h with rfl | rfl
  · exact .inl rfl
  · exact .inr rfl

/-- A timer that has come fires, in the state itself or with a late firing counted. -/
theorem fireTimer_comes {keep : State → Armed → State} {act : State → State} {o : Option Armed} (ho : o = some a)
    (due : (evalArmed s a).1 ≠ .wait) : ∃ u, (u = s ∨ u = countLate s) ∧ fireTimer s o keep act = act u := by
  obtain ⟨⟨v, b⟩, h⟩ : ∃ r, evalArmed s a = r := ⟨_, rfl⟩
  rw [h] at due
  cases v with
  | wait => exact absurd rfl due
  | onTime => exact ⟨s, .inl rfl, fireTimer_fires ho h⟩
  | late => exact ⟨countLate s, .inr rfl, fireTimer_late ho h⟩

theorem fireTimer_waits {keep : State → Armed → State} {act : State → State} {o : Option Armed} (ho : o = some a)
    (wait : (evalArmed s a).1 = .wait) : fireTimer s o keep act = keep s (evalArmed s a).2 := by
  obtain ⟨⟨v, b⟩, h⟩ : ∃ r, evalArmed s a = r := ⟨_, rfl⟩
  rw [h] at wait ⊢
  cases wait
  exact fireTimer_keeps ho h

/-- A state, or the same with a late firing counted. -/
theorem late_same {u : State} (h : u = s ∨ u = countLate s) : u.ctxs = s.ctxs ∧ u.hub = s.hub ∧ u.slots = s.slots ∧ u.mem = s.mem ∧
    u.time.now = s.time.now := by
  rcases h with rfl | rfl <;> exact ⟨rfl, rfl, rfl, rfl, rfl⟩

theorem quiesce_fires (hi : i = .quiesceBarrier c ∨ i = .launchFire (.quiesce c)) (armed : (getCtx s c.val).peal.tq = some a)
    (due : (evalArmed s a).1 ≠ .wait) (calm : NoLockout s) : ∃ t, exec i s = .next t ∧
      (getCtx t c.val).peal = { (getCtx s c.val).peal with st := .quiescing, tq := none, taken := s.time.now, kind := 2 } ∧
      (getCtx t c.val).led = (getCtx s c.val).led ∧ t.mem = s.mem ∧
      (∀ n, n < 128 → inService s n = true → (getC s n).ctx = some c.val → (getC t n).frozen = true ∧ (getC t n).pwrMode = 0) ∧
      (∀ n, n < 128 → inService s n = true → (∀ m, m < 128 → inService s m = true → physOf s m = physOf s n → (getC s m).ctx ≠ some c.val) →
        getC t n = getC s n) ∧ ∀ k, k ≠ c.val → getCtx t k = getCtx s k := by
  obtain ⟨u, hu, fires⟩ := fireTimer_comes (keep := fun s a => modPeal s c.val fun p => { p with tq := some a })
    (act := fun s => quiesceAt s c.val) armed due
  obtain ⟨ctxs, hub, slots, mem, now⟩ := late_same hu
  have ctx := getCtx_congr ctxs
  have core := getC_congr hub slots
  obtain ⟨moved, hit, missed⟩ := quiesceAt_spec c.isLt u
  have calm' : NoLockout u := fun k => by rw [ctx]; exact calm k
  have run := runs_calm (exec_quiesce hi) (by rw [fireQuiesce, fires]; exact moved.calm calm')
  rw [fireQuiesce, fires] at run
  have kept := settle_settled (quiesceAt u c.val)
  have shown := getCtx_congr kept.out.ctxs
  have cores (n : Nat) : getC (settle (quiesceAt u c.val)) n = getC (quiesceAt u c.val) n := getC_settled kept n
  simp only [core, inService_congr hub, physOf_congr hub] at hit missed
  refine ⟨_, run, by rw [shown, moved.own, ctx, now], by rw [shown, moved.own, ctx], ?_, fun n hn serves own => ?_,
    fun n _ _ h => by rw [cores, missed n h], fun k hk => by rw [shown, moved.others k hk, ctx]⟩
  · exact kept.out.mem.trans (Eq.trans (moved.frame .mem (by decide)) mem)
  · rw [cores]
    exact hit n hn serves own

theorem resume_fires (hi : i = .quiesceResume c ∨ i = .launchFire (.resume c)) (armed : (getCtx s c.val).peal.tr = some a)
    (due : (evalArmed s a).1 ≠ .wait) (free : ∀ n, NoneBlocked s n) (calm : NoLockout s) : ∃ t, exec i s = .next t ∧
      (getCtx t c.val).peal = { (getCtx s c.val).peal with st := .idle, tr := none } ∧
      (getCtx t c.val).led = (getCtx s c.val).led ∧ t.mem = s.mem ∧
      (∀ n, n < 128 → inService s n = true → (getC s n).ctx = some c.val → (getC t n).frozen = false ∧ (getC t n).pwrMode = 2) ∧
      ∀ k, k ≠ c.val → getCtx t k = getCtx s k := by
  obtain ⟨u, hu, fires⟩ := fireTimer_comes (keep := fun s a => modPeal s c.val fun p => { p with tr := some a })
    (act := fun s => resumeAt s c.val) armed due
  obtain ⟨ctxs, hub, slots, mem, -⟩ := late_same hu
  have ctx := getCtx_congr ctxs
  have core := getC_congr hub slots
  obtain ⟨moved, hit⟩ := resumeAt_spec (s := u) c.isLt (fun n j => by rw [core]; exact free n j)
  have calm' : NoLockout u := fun k => by rw [ctx]; exact calm k
  have run := runs_calm (exec_resume hi) (by rw [fireResume, fires]; exact moved.calm calm')
  rw [fireResume, fires] at run
  have kept := settle_settled (resumeAt u c.val)
  have shown := getCtx_congr kept.out.ctxs
  have cores (n : Nat) : getC (settle (resumeAt u c.val)) n = getC (resumeAt u c.val) n := getC_settled kept n
  simp only [core, inService_congr hub] at hit
  refine ⟨_, run, by rw [shown, moved.own, ctx], by rw [shown, moved.own, ctx], ?_, fun n hn serves own => ?_,
    fun k hk => by rw [shown, moved.others k hk, ctx]⟩
  · exact kept.out.mem.trans (Eq.trans (moved.frame .mem (by decide)) mem)
  · rw [cores]
    exact hit n hn serves own

theorem capture_runs (quiescing : (getCtx s c.val).peal.st = .quiescing) (empty : ctxEmpty s c.val = true) :
    exec (.quiesceCapture c) s = doneMem (startPeal s c.val 2 (getCtx s c.val).led.committed) :=
  congrArg doneMem (if_pos (by rw [quiescing, empty]; decide))

theorem capture_rests (h : (getCtx s c.val).peal.st ≠ .quiescing ∨ ctxEmpty s c.val = false) : exec (.quiesceCapture c) s = doneMem s := by
  refine congrArg doneMem (if_neg ?_)
  rw [Bool.and_eq_true, decide_eq_true_iff]
  rintro ⟨st, empty⟩
  exact h.elim (fun no => no st) (fun no => absurd (no.symm.trans empty) (by decide))

theorem bound_fails (quiescing : (getCtx s c.val).peal.st = .quiescing) (busy : ctxEmpty s c.val = false) :
    exec (.quiesceBound c) s = done (pealFailWith s c.val 4) :=
  congrArg done (if_pos (by rw [quiescing, busy]; decide))

theorem bound_rests (h : (getCtx s c.val).peal.st ≠ .quiescing ∨ ctxEmpty s c.val = true) : exec (.quiesceBound c) s = done s := by
  refine congrArg done (if_neg ?_)
  rw [Bool.and_eq_true, decide_eq_true_iff, Bool.not_eq_true']
  rintro ⟨st, busy⟩
  exact h.elim (fun no => no st) (fun no => absurd (no.symm.trans busy) (by decide))

theorem capture_captures (quiescing : (getCtx s c.val).peal.st = .quiescing) (empty : ctxEmpty s c.val = true) (calm : NoLockout s)
    (open_ : isConf s (getCtx s c.val).part = false) : ∃ t, exec (.quiesceCapture c) s = .next t ∧
      (getCtx t c.val).peal.kind = 2 ∧ (getCtx t c.val).peal.step = (getCtx s c.val).led.committed ∧
      (getCtx t c.val).peal.taken = (getCtx s c.val).peal.taken ∧
      ((getCtx t c.val).peal.st = .writing ∨
        (getCtx t c.val).peal.st = .quiesced ∧ (getCtx t c.val).peal.fail = (getCtx s c.val).peal.fail + 1) ∧
      (getCtx t c.val).led = (getCtx s c.val).led ∧ t.slots = s.slots ∧ ∀ k, k ≠ c.val → getCtx t k = getCtx s k := by
  have run := capture_runs quiescing empty
  have moves := pealMoves_start s c.val 2 (getCtx s c.val).led.committed
  have captures := captures_start c.isLt s (getCtx s c.val).led.committed
  generalize startPeal s c.val 2 (getCtx s c.val).led.committed = u at run moves captures
  obtain ⟨kind, step, taken, st⟩ := captures
  have kept := settle_settled u
  have shown := getCtx_congr kept.out.ctxs
  refine ⟨_, run.trans (doneMem_eq (moves.noLockout open_ calm)), by rw [shown, kind], by rw [shown, step], by rw [shown, taken],
    by rw [shown]; exact st.imp And.left id, by rw [shown, moves.led], ?_, fun k hk => by rw [shown, moves.others k hk]⟩
  exact kept.out.slots.trans (moves.frame .slots (by decide))

end

/-- Settles O34: the barrier's times, then the capture and its bound. -/
theorem quiesceBarrier : Obligations.QuiesceBarrier := by
  rintro c s x rfl calm open_
  refine ⟨fun i a hi armed => ⟨fun wait => ?_, fun due => quiesce_fires hi armed due calm⟩,
    fun i a hi armed => ⟨fun wait => ?_, fun due free => resume_fires hi armed due free calm⟩,
    fun quiescing empty => capture_captures quiescing empty calm open_, fun quiescing busy => leads_done (bound_fails quiescing busy) (.refl _),
    fun h => leads_done ((capture_rests h).trans (doneMem_eq calm)) (.refl s), fun h => leads_done (bound_rests h) (.refl s),
    fun none_ => ?_, fun none_ => ?_⟩
  · have waits : fireQuiesce s c.val = modPeal s c.val fun p => { p with tq := some (evalArmed s a).2 } := fireTimer_waits armed wait
    have run := runs_calm (exec_quiesce hi) (by rw [waits]; exact (pealTo_modPeal c.isLt _).calm calm)
    exact leads_done (run.trans (congrArg done waits)) (.refl _)
  · have waits : fireResume s c.val = modPeal s c.val fun p => { p with tr := some (evalArmed s a).2 } := fireTimer_waits armed wait
    have run := runs_calm (exec_resume hi) (by rw [waits]; exact (pealTo_modPeal c.isLt _).calm calm)
    exact leads_done (run.trans (congrArg done waits)) (.refl _)
  · exact leads_done (show exec (.quiesceBarrier c) s = done s from congrArg done (by rw [fireQuiesce, none_]; rfl)) (.refl s)
  · exact leads_done (show exec (.quiesceResume c) s = done s from congrArg done (by rw [fireResume, none_]; rfl)) (.refl s)

end Sys2Proof.Machine
end

section
-- One proof after the other: a text of this length has more proofs waiting at once than the check has threads for.
set_option Elab.async false
/-! PROOFS. Writing the memory of a context does not depend on what memory does not read: beside a change of the fabric, of the cores or
of the counts of a context it does the same. -/
namespace Sys2Proof.Machine

/-- A change of the state that memory does not see: it leaves what memory reads, and commutes with what memory writes. -/
structure Aside (F : State → State) : Prop where
  opt     : ∀ s, (F s).opt = s.opt
  hub     : ∀ s, (F s).hub = s.hub
  mem     : ∀ s, (F s).mem = s.mem
  diag    : ∀ s, (F s).diag = s.diag
  ticks   : ∀ s, (F s).ticks = s.ticks
  free    : ∀ s, (F s).free = s.free
  view    : ∀ s k, (getCtx (F s) k).part = (getCtx s k).part ∧ (getCtx (F s) k).sec = (getCtx s k).sec ∧
    (getCtx (F s) k).pmBase = (getCtx s k).pmBase ∧ (getCtx (F s) k).pmLen = (getCtx s k).pmLen
  putMem  : ∀ s m, { F s with mem := m } = F { s with mem := m }
  putDiag : ∀ s d, { F s with diag := d } = F { s with diag := d }
  putFree : ∀ s n, { F s with free := n } = F { s with free := n }
  logs    : ∀ s code sev src u b, logError (F s) code sev src u none b = F (logError s code sev src u none b)
  tags    : ∀ s c, countTag (F s) c = F (countTag s c)

/-- The state with another fabric. -/
def withFab (g : Fabric) (s : State) : State := { s with fab := g }

theorem aside_withFab (g : Fabric) : Aside (withFab g) where
  opt _ := rfl
  hub _ := rfl
  mem _ := rfl
  diag _ := rfl
  ticks _ := rfl
  free _ := rfl
  view _ _ := ⟨rfl, rfl, rfl, rfl⟩
  putMem _ _ := rfl
  putDiag _ _ := rfl
  putFree _ _ := rfl
  logs _ _ _ _ _ _ := rfl
  tags _ _ := rfl

namespace Aside
variable {F : State → State} (h : Aside F) (s : State)
include h

theorem modMem (f : Mem → Mem) : Machine.modMem (F s) f = F (Machine.modMem s f) := by
  show { F s with mem := f (F s).mem } = _
  rw [h.mem, h.putMem]
  rfl

theorem modDiag (f : Diag → Diag) : Machine.modDiag (F s) f = F (Machine.modDiag s f) := by
  show { F s with diag := f (F s).diag } = _
  rw [h.diag, h.putDiag]
  rfl

theorem getCtrl (q : Nat) : Machine.getCtrl (F s) q = Machine.getCtrl s q := getCtrl_congr (h.mem s) q

theorem modCtrl (pos : Nat) (f : Ctrl → Ctrl) : Machine.modCtrl (F s) pos f = F (Machine.modCtrl s pos f) := by
  unfold Machine.modCtrl
  rw [h.getCtrl]
  exact h.modMem s fun m => { m with ctrl := m.ctrl.setIfInBounds pos (f (Machine.getCtrl s pos)) }

omit h in
theorem foldl {α : Type} {f : State → α → State} (hf : ∀ s a, f (F s) a = F (f s a)) (l : List α) : l.foldl f (F s) = F (l.foldl f s) := by
  induction l generalizing s with
  | nil => rfl
  | cons a l ih => rw [List.foldl_cons, hf, ih, List.foldl_cons]

theorem chanPos (ch : Nat) : Machine.chanPos (F s) ch = Machine.chanPos s ch := chanPos_congr (h.opt s) (h.hub s) ch

theorem injectSite (d : Injection) : Machine.injectSite (F s) d = Machine.injectSite s d := by
  unfold Machine.injectSite physOf coreEntry
  dsimp only
  rw [h.chanPos, h.hub]

theorem takeAttrib (u : Nat) : Machine.takeAttrib (F s) u = (F (Machine.takeAttrib s u).1, (Machine.takeAttrib s u).2) := by
  unfold Machine.takeAttrib
  simp only [h.injectSite, h.diag, h.ticks]
  generalize List.findIdx? _ _ = o
  cases o with
  | none => rfl
  | some i =>
    dsimp only
    rw [h.modDiag]

theorem lifeAdd (off n : Nat) : Machine.lifeAdd (F s) off n = F (Machine.lifeAdd s off n) :=
  h.modDiag s fun d => { d with life := mapSet d.life off (mapGet d.life off 0 + n) }

theorem tally (u : Nat) (l : List (Nat × Nat)) : Machine.tally (F s) u l = F (Machine.tally s u l) := by
  unfold Machine.tally
  rw [h.takeAttrib]
  dsimp only
  split
  · exact h.logs _ _ _ _ _ _
  · exact foldl (F := F) (f := fun s (p : Nat × Nat) => Machine.lifeAdd s p.1 p.2) _ (fun s p => h.lifeAdd s p.1 p.2) l

theorem takeInjection (p : Injection → Bool) :
    Machine.takeInjection (F s) p = (F (Machine.takeInjection s p).1, (Machine.takeInjection s p).2) := by
  have at_ : ∀ i, injectAt (F s) i = injectAt s i := fun i => by rw [injectAt, h.diag, injectAt]
  unfold Machine.takeInjection
  simp only [at_]
  generalize List.findSome? _ _ = o
  cases o with
  | none => rfl
  | some x =>
    obtain ⟨i, a⟩ := x
    dsimp only
    unfold setInject
    rw [h.modDiag]

theorem injectedErrs (pos j : Nat) : Machine.injectedErrs (F s) pos j = (F (Machine.injectedErrs s pos j).1, (Machine.injectedErrs s pos j).2) := by
  unfold Machine.injectedErrs
  rw [h.getCtrl, h.takeInjection]
  dsimp only
  generalize (Machine.takeInjection s _) = q
  obtain ⟨t, o⟩ := q
  cases o with
  | none => rfl
  | some d =>
    dsimp only
    rw [h.free, h.putFree]

end Aside

/-- A read noted at its controller, before its errors are counted. -/
def readNoted (key : Option Nat) (pos j corr : Nat) (lost : Bool) (s : State) : State :=
  modCtrl { s with free := if key.isSome then s.free + 256 else s.free } pos (rdNoted j corr lost)

/-- The errors of a read counted. -/
def errsCounted (pos corr : Nat) (lost : Bool) (s : State) : State :=
  if corr = 0 ∧ !lost then s else tally s (136 + pos) [(0x400 + 24 * pos, corr), (0x408 + 24 * pos, lost.toNat)]

theorem controllerRead_state (s : State) (pos j : Nat) (key : Option Nat) (e1 e2 : SymErr) : (controllerRead s pos j key e1 e2).1 =
    errsCounted pos (readErrs (e1 ++ (injectedErrs s pos j).2) e2).2.1 (readErrs (e1 ++ (injectedErrs s pos j).2) e2).2.2
      (readNoted key pos j (readErrs (e1 ++ (injectedErrs s pos j).2) e2).2.1 (readErrs (e1 ++ (injectedErrs s pos j).2) e2).2.2
        (injectedErrs s pos j).1) := rfl

/-- A slot copied, without its blocks. -/
def slotMoved (src dst sl : Nat) (s : State) : State :=
  let s := modMem s fun m => { m with
    unit := match mapGet? m.unit (unitKey src sl) with
      | some x => mapSet m.unit (unitKey dst sl) x
      | none => mapErase m.unit (unitKey dst sl) }
  let s := modCtrl s src fun k => touchLine { k with migPtr := k.migPtr + 1 } (unitAddr sl) false
  modCtrl s dst fun k => touchLine { k with migPtr := k.migPtr + 1 } (unitAddr sl) true

theorem copySlot_eq (s : State) (src dst sl : Nat) (e1 e2 : Nat → SymErr) : copySlot s src dst sl e1 e2 =
    slotMoved src dst sl ((List.range 16).foldl (fun s i => copyBlock s src dst (16 * sl + i) (e1 i) (e2 i)) s) := rfl

namespace Aside
variable {F : State → State} (h : Aside F) (s : State)
include h

theorem readNoted (key : Option Nat) (pos j corr : Nat) (lost : Bool) :
    Machine.readNoted key pos j corr lost (F s) = F (Machine.readNoted key pos j corr lost s) := by
  unfold Machine.readNoted
  rw [h.free, h.putFree, h.modCtrl]

theorem errsCounted (pos corr : Nat) (lost : Bool) : Machine.errsCounted pos corr lost (F s) = F (Machine.errsCounted pos corr lost s) := by
  unfold Machine.errsCounted
  split
  · rfl
  · exact h.tally s _ _

theorem controllerRead (pos j : Nat) (key : Option Nat) (e1 e2 : SymErr) : Machine.controllerRead (F s) pos j key e1 e2 =
    (F (Machine.controllerRead s pos j key e1 e2).1, (Machine.controllerRead s pos j key e1 e2).2) := by
  refine Prod.ext ?_ ?_
  · rw [controllerRead_state, controllerRead_state, h.injectedErrs, h.readNoted, h.errsCounted]
  · unfold Machine.controllerRead
    rw [h.injectedErrs]
    dsimp only
    rw [h.mem, h.free]

theorem controllerWrite (pos j : Nat) (key : Option Nat) (k : Bool) (b : Block) :
    Machine.controllerWrite (F s) pos j key k b = F (Machine.controllerWrite s pos j key k b) := by
  unfold Machine.controllerWrite
  rw [h.modMem, h.modCtrl]

theorem copyBlock (src dst j : Nat) (e1 e2 : SymErr) : Machine.copyBlock (F s) src dst j e1 e2 = F (Machine.copyBlock s src dst j e1 e2) := by
  unfold Machine.copyBlock
  rw [h.controllerRead, h.mem]
  generalize Machine.controllerRead s src j none e1 e2 = r
  obtain ⟨t, d⟩ := r
  dsimp only
  rw [h.controllerWrite, h.mem]
  cases mapGet? (Machine.controllerWrite t dst j none true d.block).mem.sealKey (blockKey src j) with
  | none => rfl
  | some q => exact h.modMem _ _

theorem slotMoved (src dst sl : Nat) : Machine.slotMoved src dst sl (F s) = F (Machine.slotMoved src dst sl s) := by
  unfold Machine.slotMoved
  dsimp only
  rw [h.modMem, h.modCtrl, h.modCtrl]

theorem copySlot (src dst sl : Nat) (e1 e2 : Nat → SymErr) : Machine.copySlot (F s) src dst sl e1 e2 = F (Machine.copySlot s src dst sl e1 e2) := by
  rw [copySlot_eq, copySlot_eq, foldl s fun s i => h.copyBlock s src dst (16 * sl + i) (e1 i) (e2 i), h.slotMoved]

theorem awaitCopy (ch sl : Nat) : Machine.awaitCopy (F s) ch sl = F (Machine.awaitCopy s ch sl) := by
  unfold Machine.awaitCopy
  rw [h.mem]
  split
  · rw [h.getCtrl]
    split
    · exact h.copySlot s _ _ sl _ _
    · rfl
  · rfl

theorem placeByte (p pg off : Nat) : Machine.placeByte (F s) p pg off = Machine.placeByte s p pg off := placeByte_congr (h.opt s) (h.hub s) p pg off

theorem servePos (ch sl : Nat) (wr : Bool) : Machine.servePos (F s) ch sl wr = Machine.servePos s ch sl wr := by
  unfold Machine.servePos
  rw [h.mem, h.chanPos]
  simp only [h.getCtrl]

theorem ctxKey (c : Nat) (e : Bool) : Machine.ctxKey (F s) c e = Machine.ctxKey s c e := by
  obtain ⟨part, sec, -, -⟩ := h.view s c
  unfold Machine.ctxKey isConf
  dsimp only
  rw [part, sec, h.hub]

theorem translate (c : Nat) (a : BitVec 48) : Machine.translate (F s) c a = Machine.translate s c a := by
  obtain ⟨-, -, base, len⟩ := h.view s c
  unfold Machine.translate
  dsimp only
  rw [base, len, h.mem]

theorem readLocal (c p pg off : Nat) (e : Bool) : Machine.readLocal (F s) c p pg off e =
    (F (Machine.readLocal s c p pg off e).1, (Machine.readLocal s c p pg off e).2) := by
  unfold Machine.readLocal
  rw [h.placeByte, h.ctxKey]
  dsimp only
  rw [h.servePos, h.controllerRead]
  dsimp only
  split
  · rw [h.tags]
  · rfl

theorem writeLocal (c p pg off : Nat) (e k : Bool) (b : Block) :
    Machine.writeLocal (F s) c p pg off e k b = F (Machine.writeLocal s c p pg off e k b) := by
  unfold Machine.writeLocal
  rw [h.placeByte]
  dsimp only
  rw [h.awaitCopy, h.servePos, h.ctxKey, h.controllerWrite]

theorem writePiece (c va : Nat) (d : Bytes) (f : Bool) : Machine.writePiece (F s) c va d f = (Machine.writePiece s c va d f).map F := by
  unfold Machine.writePiece
  rw [h.translate]
  split
  · split
    · split
      · rw [h.writeLocal]
        rfl
      · rw [h.readLocal]
        dsimp only
        split
        · rw [h.writeLocal]
          rfl
        · rfl
    · rfl
  · rfl

theorem writeBytesVa (c : Nat) (f : Bool) (n : Nat) (va : Nat) (d : Bytes) :
    Machine.writeBytesVa (F s) c va d f n = (Machine.writeBytesVa s c va d f n).map F := by
  induction n generalizing s va d with
  | zero =>
    unfold Machine.writeBytesVa
    split <;> rfl
  | succ n ih =>
    unfold Machine.writeBytesVa
    split
    · rfl
    · dsimp only
      rw [h.writePiece]
      cases Machine.writePiece s c va (d.take (256 - va % 256)) f with
      | none => rfl
      | some t => exact ih t _ _

theorem putForced (c va : Nat) (d : Bytes) : Machine.putForced (F s) c va d = F (Machine.putForced s c va d) := by
  unfold Machine.putForced putVa
  rw [h.writeBytesVa]
  cases Machine.writeBytesVa s c va d true (d.length / 256 + 2) <;> rfl

end Aside

theorem putForced_withFab {g : Fabric} {s : State} (c va : Nat) (d : Bytes) : putForced (withFab g s) c va d = withFab g (putForced s c va d) :=
  (aside_withFab g).putForced s c va d

end Sys2Proof.Machine
end

section
-- One proof after the other: a text of this length has more proofs waiting at once than the check has threads for.
set_option Elab.async false
/-! PROOFS. A step commits (R300, R247, R51). -/
namespace Sys2Proof.Machine

/-! ### A context that moves -/

/-- Between two states context `c` has become `x`; besides, only the parts of `l` have moved. -/
structure CtxTo (l : List Part) (c : Nat) (s t : State) (x : Context) : Prop where
  frame  : AllBut (.ctxs :: l) s t
  own    : getCtx t c = x
  others : ∀ k, k ≠ c → getCtx t k = getCtx s k

section
variable {l : List Part} {s t u : State} {c : Nat} {x y : Context}

theorem ctxTo_modCtx (hc : c < 64) (l : List Part) (s : State) (f : Context → Context) : CtxTo l c s (modCtx s c f) (f (getCtx s c)) :=
  ⟨(frame_modCtx s c f).mono fun p hp => by
    rw [List.mem_singleton.mp hp]
    exact List.mem_cons_self, getCtx_modCtx_same s hc f, fun _ hk => getCtx_modCtx_other s hk f⟩

theorem ctxTo_modLed (hc : c < 64) (l : List Part) (s : State) (f : Ledger → Ledger) :
    CtxTo l c s (modLed s c f) { getCtx s c with led := f (getCtx s c).led } := ctxTo_modCtx hc l s _

theorem CtxTo.trans (h : CtxTo l c s t x) (k : CtxTo l c t u y) : CtxTo l c s u y :=
  ⟨h.frame.trans k.frame, k.own, fun n hn => (k.others n hn).trans (h.others n hn)⟩

theorem CtxTo.then (h : CtxTo l c s t x) (k : AllBut l t u) (hl : Part.ctxs ∉ l := by decide) : CtxTo l c s u x := by
  have ctx := getCtx_congr (k .ctxs hl)
  exact ⟨h.frame.trans (k.mono fun p hp => List.mem_cons_of_mem _ hp), (ctx c).trans h.own, fun n hn => (ctx n).trans (h.others n hn)⟩

theorem CtxTo.refl (l : List Part) (c : Nat) (s : State) : CtxTo l c s s (getCtx s c) := ⟨.refl _ s, rfl, fun _ _ => rfl⟩

theorem CtxTo.calm (h : CtxTo l c s t x) (tags : x.sec = (getCtx s c).sec) (calm : NoLockout s) : NoLockout t := fun k => by
  by_cases hk : k = c
  · rw [hk, h.own, tags]
    exact calm c
  · rw [h.others k hk]
    exact calm k

end

/-! ### What a commit makes of the ledger (R300) -/

section
variable {l : Ledger} {n : Nat} {now : BitVec 64}

theorem keepChunks_keeps (l : Ledger) (t : Transfer) : ∃ a b m, keepChunks l t = { l with adopted := a, adoptedMirror := b, moved := m } := by
  unfold keepChunks
  dsimp only
  split
  · split
    · exact ⟨l.adopted, _, l.moved, rfl⟩
    · exact ⟨_, l.adoptedMirror, l.moved, rfl⟩
  · split
    · exact ⟨l.adopted, l.adoptedMirror, _, rfl⟩
    · exact ⟨l.adopted, l.adoptedMirror, l.moved, rfl⟩

theorem keepsChunks_keep : ∀ (ts : List Transfer) (l : Ledger),
    ∃ a b m, ts.foldl keepChunks l = { l with adopted := a, adoptedMirror := b, moved := m }
  | [], l => ⟨l.adopted, l.adoptedMirror, l.moved, rfl⟩
  | t :: ts, l => by
    obtain ⟨a, b, m, first⟩ := keepChunks_keeps l t
    obtain ⟨a', b', m', rest⟩ := keepsChunks_keep ts (keepChunks l t)
    exact ⟨a', b', m', by rw [List.foldl_cons, rest, first]⟩

theorem endTransfers_keeps (n : Nat) (l : Ledger) : ∃ a b m ts f ab, endTransfers n l =
    { l with adopted := a, adoptedMirror := b, moved := m, transfers := ts, filling := f, absorbed := ab } := by
  obtain ⟨a, b, m, kept⟩ := keepsChunks_keep l.transfers l
  unfold endTransfers
  rw [kept]
  exact ⟨a, _, _, _, _, _, rfl⟩

theorem setPlacement_keeps (g : BitVec 8) (b : Bool) (l : Ledger) : ∃ a cl, setPlacement now l g b = { l with accept := a, cleared := cl } := by
  unfold setPlacement
  dsimp only
  split
  · exact ⟨_, l.cleared, rfl⟩
  · split
    · exact ⟨_, _, rfl⟩
    · exact ⟨l.accept, l.cleared, rfl⟩

/-- The placements that waited, taken in their order. -/
def placementsTaken (now : BitVec 64) (l : Ledger) : Ledger := l.pendPgen.foldl (fun l p => setPlacement now l p.1 p.2) l

theorem placements_keep : ∀ (ps : List (BitVec 8 × Bool)) (l : Ledger),
    ∃ a cl, ps.foldl (fun l p => setPlacement now l p.1 p.2) l = { l with accept := a, cleared := cl }
  | [], l => ⟨l.accept, l.cleared, rfl⟩
  | p :: ps, l => by
    obtain ⟨a, cl, first⟩ := setPlacement_keeps (now := now) p.1 p.2 l
    obtain ⟨a', cl', rest⟩ := placements_keep ps (setPlacement now l p.1 p.2)
    exact ⟨a', cl', by rw [List.foldl_cons, rest, first]⟩

/-- The ledger with its step committed, before what waited is in force. -/
def stepCommitted (n : Nat) (passed : Bool) (step : BitVec 48) (l : Ledger) : Ledger :=
  { endTransfers n (clearAttempt l) with
    st := .idle, committed := step, commitAt := none, launched := false, reasons := [], reason := 0, redo := false
    unmirrored := if passed && l.pair.isSome then false else l.unmirrored || l.pair.isNone }

/-- The ledger with what waited in force. -/
def pendingTaken (now : BitVec 64) (l : Ledger) : Ledger :=
  { placementsTaken now l with
    pendPgen := [], pendSet := [], pendLayers := none, quota := l.pendQuota.getD l.quota, pendQuota := none,
    unmirrored := l.unmirrored || (l.pendPair.isSome && l.pendPair != l.pair),
    pair := if l.pendPair.isSome then l.pendPair else l.pair, pendPair := none }

/-- What a ledger shows once its step is committed. -/
structure StepCommitted (l m : Ledger) : Prop where
  committed : m.committed = l.step
  st        : m.st = .idle
  commitAt  : m.commitAt = none
  reasons   : m.reasons = []
  aborts    : m.aborts = l.aborts
  pendPair  : m.pendPair = none
  pair      : m.pair = if l.pendPair.isSome then l.pendPair else l.pair
  quota     : m.quota = l.pendQuota.getD l.quota
  pendPgen  : m.pendPgen = []
  kept      : l.pendPgen = [] → m.accept = l.accept
  placed    : ∀ g b, l.pendPgen = [(g, b)] → m.accept.getLsbD g.toNat = b

theorem commit_shows (passed : Bool) : StepCommitted l (pendingTaken now (stepCommitted n passed l.step l)) := by
  obtain ⟨a, b, m, ts, f, ab, ended⟩ := endTransfers_keeps n (clearAttempt l)
  obtain ⟨w, hw⟩ : ∃ w, w = stepCommitted n passed l.step l := ⟨_, rfl⟩
  have is : w = _ := hw
  rw [stepCommitted, ended] at is
  obtain ⟨a', cl, taken⟩ := placements_keep (now := now) w.pendPgen w
  have placed : placementsTaken now w = { w with accept := a', cleared := cl } := taken
  rw [← hw]
  unfold pendingTaken
  refine ⟨?_, ?_, ?_, ?_, ?_, rfl, ?_, ?_, rfl, fun none_ => ?_, fun g b one => ?_⟩
  · rw [placed, is]
  · rw [placed, is]
  · rw [placed, is]
  · rw [placed, is]
  · rw [placed, is]
    rfl
  · rw [is]
    rfl
  · rw [is]
    rfl
  · have none' : w.pendPgen = [] := by rw [is]; exact none_
    have still : placementsTaken now w = w := by rw [placementsTaken, none']; rfl
    rw [still, is]
    rfl
  · have one' : w.pendPgen = [(g, b)] := by rw [is]; exact one
    have set_ : placementsTaken now w = setPlacement now w g b := by rw [placementsTaken, one']; rfl
    rw [set_]
    cases b with
    | true => exact (setPlacement_takes now w).1
    | false => exact (setPlacement_clears now w).1

end

/-! ### The commit of a context (R247, R300) -/

section
variable {s t u : State} {c : Nat} {l m : Ledger} {step : BitVec 48}

/-- What is kept and counted besides does not matter for what a committed ledger shows. -/
theorem StepCommitted.with_kept (h : StepCommitted l m) (a b : AMap Bytes) (r : List (BitVec 48)) :
    StepCommitted l { m with kept := a, keptMirror := b, records := r } := by
  obtain ⟨h1, h2, h3, h4, h5, h6, h7, h8, h9, h10, h11⟩ := h
  exact ⟨h1, h2, h3, h4, h5, h6, h7, h8, h9, h10, h11⟩

theorem StepCommitted.with_times (h : StepCommitted l m) (ts : List TimingRec) : StepCommitted l { m with times := ts } := by
  obtain ⟨h1, h2, h3, h4, h5, h6, h7, h8, h9, h10, h11⟩ := h
  exact ⟨h1, h2, h3, h4, h5, h6, h7, h8, h9, h10, h11⟩

theorem StepCommitted.with_audit (h : StepCommitted l m) (k : BitVec 32) (a b : Bool) (st : Option (BitVec 48)) (d : Bytes) (g : List Bytes) :
    StepCommitted l { m with auditSkipped := k, auditCopy := a, auditHold := b, auditing := st, auditDigest := d, auditGrads := g } := by
  obtain ⟨h1, h2, h3, h4, h5, h6, h7, h8, h9, h10, h11⟩ := h
  exact ⟨h1, h2, h3, h4, h5, h6, h7, h8, h9, h10, h11⟩

theorem modTiming_times (hc : c < 64) (s : State) (step : BitVec 48) (f : TimingRec → TimingRec) :
    ∃ ts, CtxTo [.mem, .pmap] c s (modTiming s c step f) { getCtx s c with led := { (getCtx s c).led with times := ts } } := by
  obtain ⟨g, eq, form⟩ : ∃ g, modTiming s c step f = modLed s c g ∧ ∀ l, ∃ ts, g l = { l with times := ts } :=
    ⟨_, rfl, fun l => by split <;> exact ⟨_, rfl⟩⟩
  obtain ⟨ts, at_⟩ := form (getCtx s c).led
  have moved := ctxTo_modLed hc [.mem, .pmap] s g
  rw [at_] at moved
  exact ⟨ts, eq ▸ moved⟩

theorem beginAudit_marks (hc : c < 64) (s : State) (step : BitVec 48) : ∃ k a b st d g, CtxTo [.mem, .pmap] c s (beginAudit s c step)
    { getCtx s c with led := { (getCtx s c).led with
      auditSkipped := k, auditCopy := a, auditHold := b, auditing := st, auditDigest := d, auditGrads := g } } := by
  unfold beginAudit
  split
  · exact ⟨_, _, _, _, _, _, .refl _ c s⟩
  · obtain ⟨f, eq, form⟩ : ∃ f : Ledger → Ledger, f = (fun l =>
        if l.auditHold || l.auditing.isSome then { l with auditSkipped := l.auditSkipped + 1 }
        else { l with auditCopy := true, auditHold := true, auditing := some step, auditDigest := l.own, auditGrads := l.gradDigests }) ∧
        ∀ l, ∃ k a b st d g, f l = { l with
          auditSkipped := k, auditCopy := a, auditHold := b, auditing := st, auditDigest := d, auditGrads := g } :=
      ⟨_, rfl, fun l => by split <;> exact ⟨_, _, _, _, _, _, rfl⟩⟩
    obtain ⟨k, a, b, st, d, g, at_⟩ := form (getCtx s c).led
    have moved := ctxTo_modLed hc [.mem, .pmap] s f
    rw [at_] at moved
    exact ⟨k, a, b, st, d, g, eq ▸ moved⟩

/-- What waited is taken, where no setting waits. -/
theorem applyPending_takes (hc : c < 64) (none_ : (getCtx s c).led.pendSet = []) : ∃ ls, CtxTo [.mem, .pmap] c s (applyPending s c)
    { getCtx s c with layers := ls, led := pendingTaken s.time.now (getCtx s c).led } := by
  obtain ⟨u, hu⟩ : ∃ u, u = modCtx s c fun x => { x with
    set := (getCtx s c).led.pendSet.foldl (fun m p => mapSet m p.1 p.2) x.set, layers := (getCtx s c).led.pendLayers.getD x.layers } := ⟨_, rfl⟩
  have first : CtxTo [.mem, .pmap] c s u _ := hu ▸ ctxTo_modCtx hc _ s _
  have own := first.own
  rw [none_] at own
  have now : u.time = s.time := first.frame .time (by decide)
  have same : settleVersions u c (ctxSetting s c 0x604) = u := settleVersions_same (by rw [own]; rfl)
  have eq : applyPending s c = modLed u c (pendingTaken u.time.now) := by
    have form : applyPending s c = modLed (settleVersions u c (ctxSetting s c 0x604)) c
        (pendingTaken (settleVersions u c (ctxSetting s c 0x604)).time.now) := by
      rw [hu]
      rfl
    rw [form, same]
  refine ⟨(getCtx s c).led.pendLayers.getD (getCtx s c).layers, ?_⟩
  rw [eq, now]
  have second := ctxTo_modLed hc [.mem, .pmap] u (pendingTaken s.time.now)
  rw [own] at second
  exact first.trans second

/-- What a context shows once its step is committed; `i`: the slot of the version written. -/
structure CommitShows (x y : Context) : Prop where
  led     : StepCommitted x.led y.led
  st      : y.st = x.st
  cgen    : y.cgen = x.cgen
  peal    : y.peal = x.peal
  domains : y.domains = x.domains
  set     : y.set = x.set
  sec     : y.sec = x.sec
  version : ∀ i, x.vslots.getD i (.free, 0) = (.written, x.led.step + 1) → y.vslots.getD i (.free, 0) = (.committed, x.led.step + 1)

theorem commitVersions_written (lag : Nat) (v : Vector (VerState × BitVec 48) 3) {i : Nat} (h : v.getD i (.free, 0) = (.written, step + 1)) :
    (commitVersions lag step v).getD i (.free, 0) = (.committed, step + 1) := by
  unfold commitVersions
  by_cases hi : i < 3
  · simp only [Vector.getD, hi] at h ⊢
    simp_all
  · simp_all [Vector.getD]

theorem stepCommitted_pends (n : Nat) (passed : Bool) (step : BitVec 48) (l : Ledger) :
    (stepCommitted n passed step l).pendSet = l.pendSet := by
  obtain ⟨a, b, m, ts, f, ab, ended⟩ := endTransfers_keeps n (clearAttempt l)
  rw [stepCommitted, ended]
  rfl

theorem commitStep_commits (hc : c < 64) (none_ : (getCtx s c).led.pendSet = []) :
    ∃ y, CtxTo [.mem, .pmap] c s (commitStep s c) y ∧ CommitShows (getCtx s c) y := by
  unfold commitStep
  extract_lets l step passed s1 s2 s3 s4 s5 s6
  have first : CtxTo [.mem, .pmap] c s s1 { getCtx s c with led := stepCommitted (ctxSetting s c 0x700) passed l.step l } :=
    ctxTo_modLed hc _ s (stepCommitted (ctxSetting s c 0x700) passed l.step)
  have pends : (getCtx s1 c).led.pendSet = [] := by
    rw [first.own]
    exact (stepCommitted_pends _ passed l.step l).trans none_
  obtain ⟨ls, second⟩ := applyPending_takes hc pends
  rw [first.own] at second
  have third : CtxTo [.mem, .pmap] c s2 s3 _ := ctxTo_modCtx hc _ s2 fun x => { x with vslots := commitVersions (ctxSetting s2 c 0x604) step x.vslots }
  have fourth : CtxTo [.mem, .pmap] c s3 s4 _ := ctxTo_modLed hc _ s3 fun q => { q with
    kept := keptDigests s3 c false (l.digestDone && q.adopted == l.adopted) l.ownChunks
    keptMirror := keptDigests s3 c true (l.digestDone && q.adoptedMirror == l.adoptedMirror) l.mirrorChunks
    records := q.records.filter fun va => ((readRec s3 c va).map fun r => r.step != step).getD false }
  rw [second.own] at third
  rw [third.own] at fourth
  have fifth : CtxTo [.mem, .pmap] c s4 s5 _ := (CtxTo.refl [.mem, .pmap] c s4).then (frame_applyRegions s4 c)
  rw [fourth.own] at fifth
  obtain ⟨ts, sixth⟩ := modTiming_times hc s5 step fun t => { t with tEnd := s5.time.now, attempts := BitVec.ofNat 8 (l.reasons.length + 1) }
  rw [fifth.own] at sixth
  have sixth' : CtxTo [.mem, .pmap] c s5 s6 _ := sixth
  obtain ⟨k, a, b, st, d, g, last⟩ := beginAudit_marks hc s6 step
  rw [sixth'.own] at last
  refine ⟨_, first.trans (second.trans (third.trans (fourth.trans (fifth.trans (sixth'.trans last))))), ?_⟩
  have shows : StepCommitted l (pendingTaken s1.time.now (stepCommitted (ctxSetting s c 0x700) passed l.step l)) := commit_shows passed
  exact ⟨(((shows.with_kept _ _ _).with_times ts).with_audit k a b st d g), rfl, rfl, rfl, rfl, rfl, rfl,
    fun i h => commitVersions_written _ _ h⟩

end

end Sys2Proof.Machine
end

section
-- One proof after the other: a text of this length has more proofs waiting at once than the check has threads for.
set_option Elab.async false
/-! PROOFS. The commit time comes; RESTORE of one entry (R333); the audit of a step (R136, R137). -/
namespace Sys2Proof.Machine

/-! ### The commit time (R300, R51) -/

section
variable {s t u : State} {c : Nat}

/-- A setting of a context depends on its own records and on what the layers set. -/
theorem ctxSetting_kept {l : List Part} {k : Nat} (h : AllBut l s t) (set_ : (getCtx t c).set = (getCtx s c).set)
    (hl : ∀ q ∈ [Part.opt, .hub, .mail], q ∉ l := by decide) : ctxSetting t c k = ctxSetting s c k := by
  have hub : t.hub = s.hub := h .hub (hl _ (by decide))
  have layers : layerValue t k = layerValue s k := by
    refine layerValue_congr (.inl ?_) ?_ (h .opt (hl _ (by decide))) k
    · have mail : t.mail = s.mail := h .mail (hl _ (by decide))
      rw [mail]
      exact .refl _
    · rw [hub]
      exact .refl _
  unfold ctxSetting
  rw [set_, layers]

theorem slotBytes_none {p : PealSlot} (h : p.extents = []) : slotBytes p = 0 := by rw [slotBytes, h]; rfl

/-- A commit starts no Peal where none is due and no destination is named. -/
theorem commitPeal_none (every : ctxSetting s c 0x800 = 0) (armed : (getCtx s c).peal.armed = none)
    (slots : ∀ k, (getSlot (getCtx s c).peal k).extents = []) (step : BitVec 48) : commitPeal s c step = s := by
  have unarmed : ((none : Option (BitVec 48)) == some step) = false := rfl
  have noSlot : partialPeal s c step = s := by
    refine if_neg ?_
    rw [slotBytes_none (slots _), Bool.and_eq_true]
    rintro ⟨-, h⟩
    cases h
  unfold commitPeal
  dsimp only
  rw [every, armed, unarmed]
  exact noSlot

theorem commitNow_rests (s : State) (c : Nat) (u : State) (step : u = commitStep s c) (still : commitPeal u c (getCtx s c).led.step = u) :
    commitNow s c = if (getCtx u c).domains != 0 && (getCtx u c).st == .opened then startFence u c none else u := by
  unfold commitNow
  dsimp only
  rw [← step, still]

theorem commitNow_commits (hc : c < 64) (none_ : (getCtx s c).led.pendSet = []) (domains : (getCtx s c).domains = 0)
    (armed : (getCtx s c).peal.armed = none) (every : ctxSetting s c 0x800 = 0)
    (slots : ∀ k, (getSlot (getCtx s c).peal k).extents = []) :
    ∃ y, CtxTo [.mem, .pmap] c s (commitNow s c) y ∧ CommitShows (getCtx s c) y := by
  obtain ⟨y, moved, shows⟩ := commitStep_commits hc none_
  obtain ⟨u, hu⟩ : ∃ u, u = commitStep s c := ⟨_, rfl⟩
  rw [← hu] at moved
  obtain ⟨frame, own, others⟩ := moved
  have every' : ctxSetting u c 0x800 = 0 := (ctxSetting_kept frame (by rw [own, shows.set])).trans every
  have still : commitPeal u c (getCtx s c).led.step = u :=
    commitPeal_none every' (by rw [own, shows.peal, armed]) (by rw [own, shows.peal]; exact slots) _
  have eq : commitNow s c = u := by
    rw [commitNow_rests s c u hu still]
    rw [own, shows.domains, domains]
    rfl
  have moved : CtxTo [.mem, .pmap] c s u y := ⟨frame, own, others⟩
  exact ⟨y, eq ▸ moved, shows⟩

end

section
variable {s : State} {c : Ctx} {i : Instr} {a : Armed}

theorem exec_commit (h : i = .commit c ∨ i = .launchFire (.commit c)) : exec i s = doneMem (fireCommit s c.val) := by
  rcases h with rfl | rfl <;> rfl

theorem fireCommit_serving (up : belfryUp s = true) : fireCommit s c.val = fireTimer s (getCtx s c.val).led.commitAt
    (fun s a => modLed s c.val fun l => { l with commitAt := some a }) fun s => commitNow s c.val := if_neg (by rw [up]; decide)

theorem fireCommit_rests (h : (getCtx s c.val).led.commitAt = none ∨ belfryUp s = false) : fireCommit s c.val = s := by
  by_cases up : belfryUp s = true
  · rw [fireCommit_serving up, h.resolve_right (by rw [up]; decide)]
    rfl
  · exact if_pos (by rw [Bool.eq_false_iff.mpr up]; rfl)

theorem commit_waits (hi : i = .commit c ∨ i = .launchFire (.commit c)) (calm : NoLockout s) (up : belfryUp s = true)
    (armed : (getCtx s c.val).led.commitAt = some a) (wait : (evalArmed s a).1 = .wait) :
    Leads i s (setCtx s c.val { getCtx s c.val with led := { (getCtx s c.val).led with commitAt := some (evalArmed s a).2 } }) := by
  have run : exec i s = doneMem (modLed s c.val fun l => { l with commitAt := some (evalArmed s a).2 }) := by
    rw [exec_commit hi, fireCommit_serving up, fireTimer_waits armed wait]
  have moved := ctxTo_modLed c.isLt [] s fun l => { l with commitAt := some (evalArmed s a).2 }
  exact leads_done (run.trans (doneMem_eq (moved.calm rfl calm))) (.refl _)

theorem commit_comes (hi : i = .commit c ∨ i = .launchFire (.commit c)) (calm : NoLockout s) (up : belfryUp s = true)
    (armed : (getCtx s c.val).led.commitAt = some a) (due : (evalArmed s a).1 ≠ .wait) (none_ : (getCtx s c.val).led.pendSet = [])
    (domains : (getCtx s c.val).domains = 0) (noPeal : (getCtx s c.val).peal.armed = none) (every : ctxSetting s c.val 0x800 = 0)
    (slots : ∀ k, (getSlot (getCtx s c.val).peal k).extents = []) :
    ∃ t, exec i s = .next t ∧ CommitShows (getCtx s c.val) (getCtx t c.val) ∧ t.mem.cells = s.mem.cells ∧ t.slots = s.slots ∧
      ∀ k, k ≠ c.val → getCtx t k = getCtx s k := by
  obtain ⟨u, hu, fires⟩ := fireTimer_comes (keep := fun s a => modLed s c.val fun l => { l with commitAt := some a })
    (act := fun s => commitNow s c.val) armed due
  obtain ⟨ctxs, -, sl, mem, -⟩ := late_same hu
  have ctx := getCtx_congr ctxs
  have late : AllBut [.time] s u := by
    rcases hu with rfl | rfl
    · exact .refl _ _
    · exact frame_modTime s _
  have every' : ctxSetting u c.val 0x800 = 0 := (ctxSetting_kept late (by rw [ctx])).trans every
  obtain ⟨y, moved, shows⟩ := commitNow_commits (s := u) c.isLt (by rw [ctx]; exact none_) (by rw [ctx]; exact domains)
    (by rw [ctx]; exact noPeal) every' (by rw [ctx]; exact slots)
  have run : exec i s = doneMem (commitNow u c.val) := by rw [exec_commit hi, fireCommit_serving up, fires]
  have calm' : NoLockout u := fun k => by rw [ctx]; exact calm k
  generalize commitNow u c.val = v at moved run
  have kept := (settle_settled v).out
  have shown := getCtx_congr kept.ctxs
  refine ⟨_, run.trans (doneMem_eq (moved.calm shows.sec calm')), ?_, ?_, ?_, fun k hk => by rw [shown, moved.others k hk, ctx]⟩
  · rw [shown, moved.own, ← ctx]
    exact shows
  · have cells : v.mem.cells = u.mem.cells := moved.frame .cells (by decide)
    rw [kept.mem, cells, mem]
  · exact kept.slots.trans (Eq.trans (moved.frame .slots (by decide)) sl)

end

theorem CtxTo.mono {l m : List Part} {c : Nat} {s t : State} {x : Context} (h : CtxTo l c s t x) (sub : l ⊆ m := by decide) :
    CtxTo m c s t x := ⟨h.frame.mono (List.cons_subset_cons _ sub), h.own, h.others⟩

/-! ### RESTORE of one entry (R333) -/

/-- What the entries of a restore say. -/
def restoreEntries (s : State) (c step : Nat) (items : List RestoreItem) (sources : List Bytes) : List (Option Loaded) :=
  (List.range items.length).map fun k =>
    readEntry (openKeys s c) step (sources.getD k []) ((items.getD k { src := 0, entry := 0 }).entry.toNat)

theorem restoreEntries_one (s : State) (c step : Nat) (it : RestoreItem) (src : Bytes) :
    restoreEntries s c step [it] [src] = [readEntry (openKeys s c) step src it.entry.toNat] := rfl

/-- The ledger of a step restored from Downbeat Peals. -/
def restoredLed (step : Nat) (l : Ledger) : Ledger :=
  { clearAttempt l with
    st := .idle, committed := BitVec.ofNat 48 step, everArmed := false, commitAt := none, launched := false, reasons := [], reason := 0
    ready := false, veto := false, unmirrored := true, noState := false, transfers := [], redo := false }

section
variable {s : State} {r : Req} {c : Nat} {step : BitVec 64} {it : RestoreItem} {src : Bytes} {l : Loaded}

theorem restore_formed : wellFormed (.restore r step [it] [src]) = true := by simp [wellFormed, bodyMax]

theorem restore_runs : exec (.restore r step [it] [src]) s =
    doneMem (serve 0x0407 setWork r (.restore r step [it] [src]) (ansRestore r step [it] [src]) s) :=
  Eq.trans (b := execRestore r step [it] [src] s) rfl (by unfold execRestore; rw [if_pos restore_formed])

variable (hc : c = r.ctx.toNat) (hn : c < 64) (ho : (getCtx s c).st = .opened)
include hc hn ho

theorem ansRestore_bad (h : 2 ^ 48 ≤ step.toNat ∨ slotVaOk s c it.src = false) : ansRestore r step [it] [src] s = err s stBadArg 0 := by
  refine (withCtx_open hc hn ho).trans (if_pos ?_)
  rcases h with h | h
  · rw [decide_eq_true h]
    rfl
  · simp [h]

theorem ansRestore_judged (h : step.toNat < 2 ^ 48) (place : slotVaOk s c it.src = true) : ansRestore r step [it] [src] s =
    if (restoreEntries s c step.toNat [it] [src]).any (fun e => (e.map fun l => l.kind == 2 && !wholeOk s c l).getD false) then err s stBadArg 0
    else match (restoreEntries s c step.toNat [it] [src]).findIdx? (·.isNone) with
      | some k => err (modPeal (modLed s c fun l => { l with noState := true }) c fun p => { p with err := 6 }) stDenied k
      | none => ok (restoreAll s c step.toNat ((restoreEntries s c step.toNat [it] [src]).filterMap id)) [] := by
  refine (withCtx_open hc hn ho).trans ((if_neg ?_).trans rfl)
  have early : ¬ 2 ^ 48 ≤ step.toNat := Nat.not_le.mpr h
  simpa [early, place, within] using h

section
variable (h : step.toNat < 2 ^ 48) (place : slotVaOk s c it.src = true)
include h place

theorem ansRestore_unread (read : readEntry (openKeys s c) step.toNat src it.entry.toNat = none) : ansRestore r step [it] [src] s =
    err (modPeal (modLed s c fun l => { l with noState := true }) c fun p => { p with err := 6 }) stDenied 0 := by
  rw [ansRestore_judged hc hn ho h place, restoreEntries_one, read]
  rfl

variable (read : readEntry (openKeys s c) step.toNat src it.entry.toNat = some l)
include read

theorem ansRestore_unfit (kind : l.kind = 2) (fit_ : wholeOk s c l = false) : ansRestore r step [it] [src] s = err s stBadArg 0 := by
  rw [ansRestore_judged hc hn ho h place, restoreEntries_one, read]
  refine if_pos ?_
  simp [kind, fit_]

theorem ansRestore_loads (kind : l.kind ≠ 2) : ansRestore r step [it] [src] s = ok (restoreAll s c step.toNat [l]) [] := by
  rw [ansRestore_judged hc hn ho h place, restoreEntries_one, read]
  refine (if_neg ?_).trans rfl
  simp [kind]

end

end

section
variable {s : State} {c step : Nat} {l : Loaded}

/-- What a restore of one own shard of a Downbeat Peal does: it stores the shard, and its step is the committed one. -/
theorem restoreAll_shard (hc : c < 64) (open_ : isConf s (getCtx s c).part = false) (kind : l.kind ≠ 2) (ty : l.ty = 1) :
    ∃ y, CtxTo [.mem, .cells, .pmap, .diag, .free, .fab, .engines, .ports] c s (restoreAll s c step [l]) y ∧
      (restoreAll s c step [l]).mem.cells =
        (putForced s c (regionVa s c (l.shard != ctxSetting s c 0x70D) (step + 1)) l.data).mem.cells ∧
      y.sec = (getCtx s c).sec ∧ ∃ a b, y.led = { restoredLed step (getCtx s c).led with kept := a, keptMirror := b } := by
  have whole : ([l].any fun l => l.kind == 2) = false := by simp [kind]
  have copies : ([l].any fun l => l.ty == 3) = false := by simp [ty]
  have order : ([0, 1, 2].flatMap fun k => [l].filter fun l => loadRank l == k) = [l] := by simp [loadRank, ty]
  unfold restoreAll
  rw [whole, copies, order]
  extract_lets wh s0 s1 s2 s3 live s4 n
  obtain ⟨g, dropped⟩ : ∃ g, s0 = withFab g s := ⟨_, rfl⟩
  have loaded : s1 = withFab g (putForced s c (regionVa s c (l.shard != ctxSetting s c 0x70D) (step + 1)) l.data) := by
    change loadEntry c step s0 l = _
    unfold loadEntry
    rw [ty, dropped]
    exact putForced_withFab c _ l.data
  have put := (memMoves_putForced s c (regionVa s c (l.shard != ctxSetting s c 0x70D) (step + 1)) l.data).plain open_
  generalize putForced s c (regionVa s c (l.shard != ctxSetting s c 0x70D) (step + 1)) l.data = v at loaded put ⊢
  have other : AllBut [.fab, .engines, .ports] v s1 := loaded ▸ frame_modFab v fun _ => g
  have first : CtxTo [.mem, .cells, .pmap, .diag, .free, .fab, .engines, .ports] c s s1 (getCtx s c) :=
    (CtxTo.refl _ c s).then (put.mono.trans other.mono)
  have second : CtxTo [] c s1 s2 _ := ctxTo_modLed hc _ s1 (restoredLed step)
  rw [first.own] at second
  have third := ctxTo_modCtx hc [] s2 fun x => { x with
    vslots := (Vector.replicate 3 (VerState.free, (0 : BitVec 48))).setIfInBounds ((step + 1) % (2 + ctxSetting s2 c 0x604))
      (.committed, BitVec.ofNat 48 (step + 1))
    startVer := BitVec.ofNat 48 (step + 1) }
  have third' : CtxTo [] c s2 s3 _ := third
  rw [second.own] at third'
  have fourth : CtxTo [] c s3 s4 _ := ctxTo_modLed hc _ s3 fun l => { l with
    kept := ((regionData s3 c false live).map digestMap).getD []
    keptMirror := ((regionData s3 c true live).map digestMap).getD [] }
  rw [third'.own] at fourth
  generalize ((regionData s3 c false live).map digestMap).getD [] = a at fourth
  generalize ((regionData s3 c true live).map digestMap).getD [] = b at fourth
  obtain ⟨s5, hs5⟩ : ∃ s5, s5 = modPeal s4 c fun p => { p with st := if wh then .quiesced else p.st, done := n, total := n } := ⟨_, rfl⟩
  have fifth : CtxTo [] c s4 s5 { getCtx s4 c with peal := { (getCtx s4 c).peal with done := n, total := n } } := hs5 ▸ ctxTo_modCtx hc [] s4 _
  rw [fourth.own] at fifth
  rw [← hs5]
  have ledger := second.trans (third'.trans (fourth.trans fifth))
  have last := first.trans (ledger.mono.then ((frame_applyRegions s5 c).mono))
  refine ⟨_, last, ?_, rfl, a, b, rfl⟩
  calc (applyRegions s5 c).mem.cells
      = s5.mem.cells := frame_applyRegions s5 c .cells (by decide)
    _ = s1.mem.cells := ledger.frame .cells (by decide)
    _ = v.mem.cells := other .cells (by decide)

end

end Sys2Proof.Machine
end

section
-- One proof after the other: a text of this length has more proofs waiting at once than the check has threads for.
set_option Elab.async false
/-! PROOFS. What RESTORE of one entry answers (R333); the audit of a step (R136, R137); O35. -/
namespace Sys2Proof.Machine

theorem ctxTo_modPeal {c : Nat} (hc : c < 64) (l : List Part) (s : State) (f : Peal → Peal) :
    CtxTo l c s (modPeal s c f) { getCtx s c with peal := f (getCtx s c).peal } := ctxTo_modCtx hc l s _

/-! ### What RESTORE answers -/

section
variable {s : State} {r : Req} {c : Nat} {step : BitVec 64} {it : RestoreItem} {src : Bytes} {l : Loaded}

theorem restore_refused (calm : NoLockout s) (ready : Ready 0x0407 setWork r s)
    (ans : ansRestore r step [it] [src] s = err s stBadArg 0) : Refuses (.restore r step [it] [src]) s r 0x0407 0x03 0 := by
  have runs : RunsAs (.restore r step [it] [src]) r 0x0407 setWork (ansRestore r step [it] [src]) s :=
    runsAs_of_calm (a := err s stBadArg 0) restore_runs ready (by decide) ans rfl calm
  exact refuses_err runs ready ans

variable (hc : c = r.ctx.toNat) (hn : c < 64) (ho : (getCtx s c).st = .opened) (calm : NoLockout s) (ready : Ready 0x0407 setWork r s)
include hc hn ho calm ready

theorem restore_unread (h : step.toNat < 2 ^ 48) (place : slotVaOk s c it.src = true)
    (read : readEntry (openKeys s c) step.toNat src it.entry.toNat = none) : ∃ t, exec (.restore r step [it] [src]) s = .next t ∧
      Answers s t r 0x0407 0x04 [] ∧ (getCtx t c).led = { (getCtx s c).led with noState := true } ∧
      (getCtx t c).peal = { (getCtx s c).peal with err := 6 } ∧ t.mem = s.mem ∧ ∀ k, k ≠ c → getCtx t k = getCtx s k := by
  have ans := ansRestore_unread hc hn ho h place read
  obtain ⟨u, hu⟩ : ∃ u, u = modPeal (modLed s c fun l => { l with noState := true }) c fun p => { p with err := 6 } := ⟨_, rfl⟩
  rw [← hu] at ans
  have first := ctxTo_modLed hn [] s fun l => { l with noState := true }
  have second := ctxTo_modPeal hn [] (modLed s c fun l => { l with noState := true }) fun p => { p with err := 6 }
  rw [first.own] at second
  have moved := first.trans second
  rw [← hu] at moved
  have runs : RunsAs (.restore r step [it] [src]) r 0x0407 setWork (ansRestore r step [it] [src]) s :=
    runsAs_of_calm (a := err u stDenied 0) restore_runs ready (by decide) ans rfl (moved.calm rfl calm)
  obtain ⟨t, run, still, told⟩ := serves_of_answer runs ready (answer_taken (by decide) ans) rfl (.refl _)
    (congrArg Mail.responses (moved.frame .mail (by decide)))
  have ctx := getCtx_congr still.out.ctxs
  have mem : u.mem = s.mem := moved.frame .mem (by decide)
  have own : getCtx t c = _ := (ctx c).trans moved.own
  exact ⟨t, run, told, by rw [own], by rw [own], still.out.mem.trans mem, fun k hk => (ctx k).trans (moved.others k hk)⟩

theorem restore_loads (open_ : isConf s (getCtx s c).part = false) (h : step.toNat < 2 ^ 48) (place : slotVaOk s c it.src = true)
    (read : readEntry (openKeys s c) step.toNat src it.entry.toNat = some l) (kind : l.kind ≠ 2) (ty : l.ty = 1) :
    ∃ t, exec (.restore r step [it] [src]) s = .next t ∧ Answers s t r 0x0407 0x00 [] ∧ (getCtx t c).led.st = .idle ∧
      (getCtx t c).led.committed.toNat = step.toNat ∧ (getCtx t c).led.noState = false ∧ (getCtx t c).led.unmirrored = true ∧
      (getCtx t c).led.everArmed = false ∧ (getCtx t c).led.reasons = [] ∧ t.slots = s.slots ∧
      t.mem.cells = (putForced s c (regionVa s c (l.shard != ctxSetting s c 0x70D) (step.toNat + 1)) l.data).mem.cells ∧
      ∀ k, k ≠ c → getCtx t k = getCtx s k := by
  have ans := ansRestore_loads hc hn ho h place read kind
  obtain ⟨y, moved, cells, sec, a, b, led⟩ := restoreAll_shard (step := step.toNat) hn open_ kind ty
  generalize restoreAll s c step.toNat [l] = u at ans moved cells
  have runs : RunsAs (.restore r step [it] [src]) r 0x0407 setWork (ansRestore r step [it] [src]) s :=
    runsAs_of_calm (a := ok u []) restore_runs ready (by decide) ans rfl (moved.calm sec calm)
  obtain ⟨t, run, still, told⟩ := serves_ok runs ready ans (congrArg Mail.responses (moved.frame .mail (by decide)))
  have ctx := getCtx_congr still.out.ctxs
  have own : (getCtx t c).led = _ := (congrArg Context.led ((ctx c).trans moved.own)).trans led
  have slots : u.slots = s.slots := moved.frame .slots (by decide)
  have mem : t.mem.cells = u.mem.cells := congrArg Mem.cells still.out.mem
  have small : (BitVec.ofNat 48 step.toNat).toNat = step.toNat := Nat.mod_eq_of_lt h
  exact ⟨t, run, told, by rw [own]; rfl, by rw [own]; exact small, by rw [own]; rfl, by rw [own]; rfl, by rw [own]; rfl, by rw [own]; rfl,
    still.out.slots.trans slots, mem.trans cells, fun k hk => (ctx k).trans (moved.others k hk)⟩

end

/-! ### The audit (R136, R137) -/

section
variable {s t : State} {c : Ctx}

/-- An audit of the context is to start. -/
def AuditDue (x : Context) : Prop := x.led.auditing ≠ none ∧ x.led.auditCopy = false ∧ x.led.auditRot = none ∧ x.st = .opened

theorem auditStart_rests (h : ¬AuditDue (getCtx s c.val)) : auditStart s c.val = s := by
  refine if_pos ?_
  have h : (getCtx s c.val).led.auditing ≠ none → (getCtx s c.val).led.auditCopy = false → (getCtx s c.val).led.auditRot = none →
      (getCtx s c.val).st ≠ .opened := fun h1 h2 h3 h4 => h ⟨h1, h2, h3, h4⟩
  simp only [Bool.or_eq_true, Option.isNone_iff_eq_none, Option.isSome_iff_ne_none, bne_iff_ne]
  by_contra all
  obtain ⟨⟨⟨h1, h2⟩, h3⟩, h4⟩ : ((¬(getCtx s c.val).led.auditing = none ∧ ¬(getCtx s c.val).led.auditCopy = true) ∧
      ¬(getCtx s c.val).led.auditRot ≠ none) ∧ ¬(getCtx s c.val).st ≠ .opened := by simpa only [not_or] using all
  exact h4 (h h1 (Bool.eq_false_iff.mpr h2) (not_not.mp h3))

theorem auditStart_due (h : AuditDue (getCtx s c.val)) : auditStart s c.val =
    if (partCores s (getCtx s c.val).part).length ≤ 1 then modLed s c.val fun l => endAudit { l with auditSkipped := l.auditSkipped + 1 }
    else if ctxSetting s c.val 0x502 % (partCores s (getCtx s c.val).part).length = 0 then
      modLed (logError s (0x0100 + (Config.logCode 0x12).setWidth 16) 0 0 264 (some c.val) []) c.val fun l => { l with auditRot := some 1 }
    else modLed s c.val fun l => { l with auditRot := some (ctxSetting s c.val 0x502) } := by
  obtain ⟨h1, h2, h3, h4⟩ := h
  refine if_neg ?_
  rw [h2, h3, h4]
  simpa using h1

theorem auditStart_whole (due : AuditDue (getCtx s c.val)) (some_ : 1 < (partCores s (getCtx s c.val).part).length)
    (whole : ctxSetting s c.val 0x502 % (partCores s (getCtx s c.val).part).length = 0) :
    ∃ t, exec (.auditStart c) s = .next t ∧ (getCtx t c.val).led = { (getCtx s c.val).led with auditRot := some 1 } ∧
      Apart { s with ctxs := t.ctxs } t ∧ (∃ e, t.diag.log = (e :: s.diag.log).take 8192) ∧
      ∀ k, k ≠ c.val → getCtx t k = getCtx s k := by
  obtain ⟨v, hv⟩ : ∃ v, v = logError s (0x0100 + (Config.logCode 0x12).setWidth 16) 0 0 264 (some c.val) [] := ⟨_, rfl⟩
  have logged : AllBut [.diag] s v := hv ▸ frame_logError s _ _ _ _ _ _
  have entry : ∃ e, v.diag.log = (e :: s.diag.log).take 8192 := hv ▸ ⟨_, rfl⟩
  have moved := ctxTo_modLed c.isLt [.diag] v fun l => { l with auditRot := some 1 }
  have all : CtxTo [.diag] c.val s _ _ := (CtxTo.refl _ _ _).then logged |>.trans moved
  have diag : (modLed v c.val fun l => { l with auditRot := some 1 }).diag = v.diag := frame_modLed v _ _ .diag (by decide)
  have run : exec (.auditStart c) s = done (modLed v c.val fun l => { l with auditRot := some 1 }) := by
    rw [hv]
    exact congrArg done ((auditStart_due due).trans ((if_neg (by omega)).trans (if_pos whole)))
  generalize (modLed v c.val fun l => { l with auditRot := some 1 }) = u at run all diag
  have kept := (settle_settled u).out
  have ctx := getCtx_congr kept.ctxs
  refine ⟨_, run, ?_, ?_, ?_, fun k hk => (ctx k).trans (all.others k hk)⟩
  · rw [ctx, all.own, getCtx_congr (logged .ctxs (by decide))]
  · obtain ⟨hopt, hmem, -, hslots, hlcores, hsec, hpwr, hnow, hlatches, hpending⟩ :=
      apart_of_allBut (l := [.diag]) (s := { s with ctxs := u.ctxs }) (t := u) fun q hq => by
        have := all.frame q
        cases q <;> first | exact absurd (by decide) hq | exact rfl | exact this (by decide)
    exact ⟨kept.opt.trans hopt, kept.mem.trans hmem, rfl, kept.slots.trans hslots, kept.lcores.trans hlcores, kept.sec.trans hsec,
      kept.pwr.trans hpwr, (congrArg TimeBlock.now kept.time).trans hnow, kept.latches.trans hlatches, kept.pending.trans hpending⟩
  · obtain ⟨e, he⟩ := entry
    exact ⟨e, by rw [kept.diag, diag, he]⟩

/-- Two slots are sent to their test: the one named, and those that were. -/
theorem toTest_testing (s : State) (p q : Nat) :
    (toTest s p).hub.slotTesting.contains q = true ↔ p = q ∨ s.hub.slotTesting.contains q = true := by
  unfold toTest
  change (if s.hub.slotTesting.contains p then s.hub.slotTesting else p :: s.hub.slotTesting).contains q = true ↔ _
  split
  · next held =>
    refine ⟨.inr, ?_⟩
    rintro (rfl | h)
    · exact held
    · exact h
  · rw [List.contains_cons, Bool.or_eq_true, beq_iff_eq, eq_comm]

/-- Cores sent to their test: only what is said to be in test moves. -/
theorem toTests_spec (g : State → Nat → Nat) (hg : ∀ s p n, g (toTest s p) n = g s n) : ∀ (l : List Nat) (s : State),
    AllBut [.hub] s (l.foldl (fun s n => toTest s (g s n)) s) ∧
    (l.foldl (fun s n => toTest s (g s n)) s).hub.coreMap = s.hub.coreMap ∧
    (∀ n, g (l.foldl (fun s n => toTest s (g s n)) s) n = g s n) ∧
    ∀ q, (q ∈ l.map (g s) ∨ s.hub.slotTesting.contains q = true) →
      (l.foldl (fun s n => toTest s (g s n)) s).hub.slotTesting.contains q = true
  | [], s => ⟨.refl _ s, rfl, fun _ => rfl, fun q h => h.resolve_left List.not_mem_nil⟩
  | n :: l, s => by
    obtain ⟨frame, map_, phys, testing⟩ := toTests_spec g hg l (toTest s (g s n))
    refine ⟨(frame_modHub s _).trans frame, map_, fun m => (phys m).trans (hg s _ m), fun q h => testing q ?_⟩
    rcases h with h | h
    · rcases List.mem_map.mp h with ⟨m, hm, rfl⟩
      rcases List.mem_cons.mp hm with rfl | hm
      · exact .inr ((toTest_testing s _ _).mpr (.inl rfl))
      · exact .inl (List.mem_map.mpr ⟨m, hm, hg s _ m⟩)
    · exact .inr ((toTest_testing s _ q).mpr (.inr h))

variable {gs : List Bytes} {d : Bytes}

theorem audit_formed (each : ∀ g ∈ gs, g.length = 32) (own : d.length = 32) : wellFormed (.auditComplete c gs d) = true := by
  simpa [wellFormed, own] using each

theorem exec_auditComplete (each : ∀ g ∈ gs, g.length = 32) (own : d.length = 32) :
    exec (.auditComplete c gs d) s = done (auditDone s c.val gs d) :=
  Eq.trans (b := execAuditComplete c gs d s) rfl (by unfold execAuditComplete; rw [if_pos (audit_formed each own)])

theorem auditDone_rests (h : (getCtx s c.val).led.auditing = none ∨ (getCtx s c.val).led.auditRot = none) : auditDone s c.val gs d = s := by
  unfold auditDone
  dsimp only
  rcases h with h | h
  · rw [h]
  · rw [h]
    cases (getCtx s c.val).led.auditing <;> rfl

section
variable {step : BitVec 48} {k : Nat} (on : (getCtx s c.val).led.auditing = some step) (rot : (getCtx s c.val).led.auditRot = some k)
include on rot

theorem auditDone_agrees (grads : gs = (getCtx s c.val).led.auditGrads) (own : d = (getCtx s c.val).led.auditDigest) :
    auditDone s c.val gs d = modLed s c.val fun l => { endAudit l with lastAudit := some step } := by
  unfold auditDone
  dsimp only
  rw [on, rot]
  exact if_pos (by rw [grads, own]; simp)

theorem auditDone_differs (h : gs ≠ (getCtx s c.val).led.auditGrads ∨ d ≠ (getCtx s c.val).led.auditDigest) : ∃ v,
    auditDone s c.val gs d = (partCores v (getCtx s c.val).part).foldl (fun s n => toTest s (physOf s n)) v ∧
    CtxTo [.mail, .outbox, .diag] c.val s v { getCtx s c.val with led := endAudit (getCtx s c.val).led } := by
  obtain ⟨v, hv⟩ : ∃ v, v = recordEvent (postNotice (modLed s c.val endAudit) 0x0003 (some c.val)
    (mismatchBody step (getCtx s c.val).led.lastAudit)) 1 0x13 2 264 (some c.val) [] (some (1, 25)) := ⟨_, rfl⟩
  refine ⟨v, ?_, ?_⟩
  · rw [hv]
    unfold auditDone
    dsimp only
    rw [on, rot]
    refine if_neg ?_
    rw [Bool.and_eq_true, beq_iff_eq, beq_iff_eq]
    exact not_and_or.mpr h
  · rw [hv]
    exact ((ctxTo_modLed c.isLt _ s endAudit).then (frame_postNotice _ _ _ _).mono).then (frame_recordEvent _ _ _ _ _ _ _ _).mono

end

theorem partCores_congr {s t : State} (h : t.hub = s.hub) (p : Nat) : partCores t p = partCores s p := by
  have part : ∀ n, corePart t n = corePart s n := fun n => by rw [corePart, corePart, h]
  simp only [partCores, part, inService_congr h]

theorem audit_mismatch (each : ∀ g ∈ gs, g.length = 32) (own : d.length = 32) {step : BitVec 48} {k : Nat}
    (on : (getCtx s c.val).led.auditing = some step) (rot : (getCtx s c.val).led.auditRot = some k)
    (h : gs ≠ (getCtx s c.val).led.auditGrads ∨ d ≠ (getCtx s c.val).led.auditDigest) : ∃ t, exec (.auditComplete c gs d) s = .next t ∧
      (getCtx t c.val).led = endAudit (getCtx s c.val).led ∧ t.mem = s.mem ∧ t.slots = s.slots ∧ t.hub.coreMap = s.hub.coreMap ∧
      (∀ n ∈ partCores s (getCtx s c.val).part, t.hub.slotTesting.contains (physOf s n) = true) ∧
      ∀ k, k ≠ c.val → getCtx t k = getCtx s k := by
  obtain ⟨v, done_, moved⟩ := auditDone_differs on rot h
  have hub : v.hub = s.hub := moved.frame .hub (by decide)
  rw [partCores_congr hub] at done_
  obtain ⟨frame, map_, -, testing⟩ := toTests_spec physOf (fun _ _ _ => rfl) (partCores s (getCtx s c.val).part) v
  rw [← done_] at frame map_ testing
  have run := (exec_auditComplete (c := c) (s := s) each own)
  generalize auditDone s c.val gs d = u at run frame map_ testing
  have settled := settle_settled u
  have kept := settled.out
  have mem : u.mem = s.mem := Eq.trans (frame .mem (by decide)) (moved.frame .mem (by decide))
  have slots : u.slots = s.slots := Eq.trans (frame .slots (by decide)) (moved.frame .slots (by decide))
  have ctx : ∀ k, getCtx (settle u) k = getCtx v k := getCtx_congr (kept.ctxs.trans (frame .ctxs (by decide)))
  have hubs := settled.hub
  refine ⟨_, run, ?_, kept.mem.trans mem, kept.slots.trans slots, hubs.coreMap.trans (map_.trans (congrArg Hub.coreMap hub)), fun n hn => ?_, fun k hk => (ctx k).trans (moved.others k hk)⟩
  · rw [ctx, moved.own]
  · rw [hubs.slotTesting, ← physOf_congr hub]
    exact testing _ (.inl (List.mem_map_of_mem hn))

end

/-- Settles O35: a commit, a restore and an audit each move their own context alone. -/
theorem stepsCommitRestoreAndAudit : Obligations.StepsCommitRestoreAndAudit := by
  unfold Obligations.StepsCommitRestoreAndAudit
  refine ⟨?_, ?_, ?_⟩
  · rintro c ins s x i hi rfl calm rfl
    refine ⟨fun a armed up => ⟨fun wait => commit_waits hi calm up armed wait, fun due domains noPeal every none_ slots => ?_⟩, fun h => ?_⟩
    · obtain ⟨t, run, ⟨led, st, cgen, -, -, -, -, version⟩, cells, still, others⟩ :=
        commit_comes hi calm up armed due none_ domains noPeal every slots
      obtain ⟨h1, h2, h3, h4, h5, h6, h7, h8, h9, h10, h11⟩ := led
      exact ⟨t, run, h1, h2, h3, h4, h5, h6, h7, h8, h9, h10, h11, version _, cells, still, st, cgen, others⟩
    · exact leads_done ((exec_commit hi).trans (by rw [fireCommit_rests h, doneMem_eq calm])) (.refl s)
  · rintro r s c x step it src hc hn rfl ho ready calm open_
    refine ⟨fun h => restore_refused calm ready (ansRestore_bad hc hn ho h), fun h place => ⟨fun read =>
      restore_unread hc hn ho calm ready h place read, fun l read => ⟨fun kind fit_ =>
      restore_refused calm ready (ansRestore_unfit hc hn ho h place read kind fit_), fun kind ty =>
      restore_loads hc hn ho calm ready open_ h place read kind ty⟩⟩⟩
  · rintro c s x n rot rfl rfl rfl
    have starts : ∀ u, auditStart s c.val = u → Leads (.auditStart c) s u := fun u h => leads_done (u := u) (congrArg done h) (.refl u)
    refine ⟨fun on copy rot st => ?_, fun h => starts s (auditStart_rests fun ⟨h1, h2, h3, h4⟩ => ?_), fun gs d each own =>
      ⟨fun step k on rot => ⟨fun grads dig => ?_, audit_mismatch each own on rot⟩, fun h => ?_⟩⟩
    · have due := auditStart_due ⟨on, copy, rot, st⟩
      exact ⟨fun few => starts _ (due.trans (if_pos few)), fun many part => starts _ (due.trans ((if_neg (by omega)).trans (if_neg part))),
        auditStart_whole ⟨on, copy, rot, st⟩⟩
    · rcases h with h | h | h | h
      · exact h1 h
      · exact Bool.false_ne_true (h2.symm.trans h)
      · exact h h3
      · exact h h4
    · exact leads_done ((exec_auditComplete each own).trans (congrArg done (auditDone_agrees on rot grads dig))) (.refl _)
    · exact leads_done ((exec_auditComplete each own).trans (congrArg done (auditDone_rests h))) (.refl s)

end Sys2Proof.Machine
end

section
-- One proof after the other: a text of this length has more proofs waiting at once than the check has threads for.
set_option Elab.async false
/-! PROOFS. The external cadence (R48, R49) and TIME_PPS_OUT (R50). -/
namespace Sys2Proof.Machine

/-! ### Slots and predictions -/

theorem clearBeat_toNat (y : BitVec 64) : (y &&& ~~~(0xFFF : BitVec 64)).toNat = y.toNat / 4096 * 4096 := by
  have mask : ∀ i : Fin 64, (~~~(0xFFF : BitVec 64)).getLsbD i = decide (12 ≤ i.val) := by decide
  have shifted : y &&& ~~~(0xFFF : BitVec 64) = (y >>> 12) <<< 12 := by
    refine BitVec.eq_of_getLsbD_eq fun i hi => ?_
    rw [BitVec.getLsbD_and, mask ⟨i, hi⟩, BitVec.getLsbD_shiftLeft, BitVec.getLsbD_ushiftRight]
    by_cases h : i < 12
    · simp [h]
    · have back : 12 + (i - 12) = i := by omega
      simp [h, hi, back, Nat.not_lt.mp h]
  rw [shifted, BitVec.toNat_shiftLeft, BitVec.toNat_ushiftRight, Nat.shiftLeft_eq, Nat.shiftRight_eq_div_pow]
  have bound := y.isLt
  omega

/-- Rounding up to a boundary: less than a Beat is added. -/
theorem roundUp_near (x y : BitVec 64) (h : y = x + 0xFFF#64) : ((y &&& ~~~(0xFFF : BitVec 64)) - x).toNat < 4096 := by
  have bx := x.isLt
  have ny : y.toNat = (x.toNat + 4095) % 2 ^ 64 := by rw [h]; rfl
  rw [BitVec.toNat_sub, clearBeat_toNat, ny]
  omega

theorem slotOf_boundary (t : TimeBlock) (e : BitVec 64) : (slotOf t e).toNat % 4096 = 0 ∧
    (slotOf t e - (e + BitVec.ofNat 64 (t.cadStagger.toNat * 4096))).toNat < 4096 := by
  refine ⟨?_, roundUp_near _ _ ?_⟩
  · unfold slotOf
    rw [clearBeat_toNat, Nat.mul_mod_left]
  · have ahead : t.cadStagger.toNat * ticksPerBeat + ticksPerBeat - 1 = t.cadStagger.toNat * 4096 + 4095 := by simp [ticksPerBeat]
    rw [ahead, BitVec.ofNat_add, BitVec.add_assoc]

/-- The number of periods nearest to a distance: where a multiple lies within 1 % of a period, it is the one found. -/
theorem nearest_multiple {d p k : Nat} (hk : 1 ≤ k) (h : 100 * ((d : Int) - k * p).natAbs ≤ p) (hp : p ≠ 0) :
    max 1 ((d + p / 2) / p) = k := by
  have found : (d + p / 2) / p = k := by
    refine Nat.div_eq_of_lt_le ?_ ?_
    · have : (k : Int) * p = ((k * p : Nat) : Int) := by push_cast; rfl
      rw [this] at h
      omega
    · have : (k : Int) * p = ((k * p : Nat) : Int) := by push_cast; rfl
      rw [this] at h
      have next : (k + 1) * p = k * p + p := Nat.succ_mul k p
      omega
  rw [found]
  omega

theorem nearPrediction_iff {t : TimeBlock} {e : BitVec 64} (hp : t.cadPeriod ≠ 0) : nearPrediction t e = true ↔
    ∃ k : Nat, 1 ≤ k ∧ 100 * (((e - t.cadLast).toNat : Int) - k * t.cadPeriod.toNat).natAbs ≤ t.cadPeriod.toNat := by
  have some_ : t.cadPeriod.toNat ≠ 0 := fun h => hp (BitVec.eq_of_toNat_eq h)
  have form : nearPrediction t e = decide (100 * (((e - t.cadLast).toNat : Int) -
      (max 1 (((e - t.cadLast).toNat + t.cadPeriod.toNat / 2) / t.cadPeriod.toNat) : Nat) * t.cadPeriod.toNat).natAbs ≤ t.cadPeriod.toNat) := if_neg some_
  rw [form, decide_eq_true_iff]
  refine ⟨fun h => ⟨_, le_max_left _ _, h⟩, fun ⟨k, hk, h⟩ => ?_⟩
  rw [nearest_multiple hk h some_]
  exact h

/-! ### An edge (R48, R49) -/

section
variable {t : TimeBlock}

theorem cadEdgeAt_off (h : t.cadEnable = false) : cadEdgeAt t = t := if_pos (by rw [h]; rfl)

theorem cadEdgeAt_divided (on : t.cadEnable = true) (h : t.divCount < t.cadDiv.toNat) :
    cadEdgeAt t = { t with divCount := t.divCount + 1 } := (if_neg (by rw [on]; decide)).trans (if_pos h)

variable (on : t.cadEnable = true) (passes : t.cadDiv.toNat ≤ t.divCount)
include on passes

theorem cadEdgeAt_rejected (locked : t.cadLocked = true) (off : nearPrediction t t.now = false) :
    cadEdgeAt t = { t with divCount := 0, cadReject := t.cadReject + 1 } := by
  refine (if_neg (by rw [on]; decide)).trans ((if_neg (Nat.not_lt.mpr passes)).trans (if_pos ?_))
  change (t.cadLocked && !nearPrediction t t.now) = true
  rw [locked, off]
  rfl

theorem cadEdgeAt_accepted (h : t.cadLocked = false ∨ nearPrediction t t.now = true) :
    cadEdgeAt t = acceptEdge t.now { t with divCount := 0 } := by
  refine (if_neg (by rw [on]; decide)).trans ((if_neg (Nat.not_lt.mpr passes)).trans (if_neg ?_))
  change ¬(t.cadLocked && !nearPrediction t t.now) = true
  rw [Bool.and_eq_true]
  rintro ⟨locked, off⟩
  rcases h with h | h
  · exact Bool.false_ne_true (h.symm.trans locked)
  · rw [h] at off
    exact Bool.false_ne_true off

end

theorem acceptEdge_period {t : TimeBlock} (e : BitVec 64) (h : t.edges ≠ []) : (acceptEdge e t).cadPeriod = BitVec.ofNat 32
    ((e - (acceptEdge e t).edges.getLast?.getD e).toNat / ((acceptEdge e t).edges.length - 1)) := by
  refine if_pos ?_
  cases he : t.edges with
  | nil => exact absurd he h
  | cons x l => simp [List.length_take]

/-! ### The cadence is lost (R49) -/

section
variable {s : State}

/-- The cadence is locked, and eight periods have passed without an edge. -/
def EdgesMissed (s : State) : Prop := s.time.cadEnable = true ∧ s.time.cadLocked = true ∧
  8 * s.time.cadPeriod.toNat ≤ ticksSince s.time.now s.time.cadLast

theorem exec_cadLost (h : EdgesMissed s) : exec .cadLost s = done { s with time := { s.time with
    cadLost := true, cadLocked := false, cadGood := 0, cadNext := nextEdge s.time } } := by
  obtain ⟨on, locked, missed⟩ := h
  exact congrArg done (if_pos (by rw [on, locked, decide_eq_true missed]; rfl))

theorem exec_cadLost_rests (h : ¬EdgesMissed s) : exec .cadLost s = done s := by
  refine congrArg done (if_neg ?_)
  rw [Bool.and_eq_true, Bool.and_eq_true, decide_eq_true_iff]
  rintro ⟨⟨on, locked⟩, missed⟩
  exact h ⟨on, locked, missed⟩

theorem ticksSince_le (a b : BitVec 64) : ticksSince a b ≤ (a - b).toNat := by
  unfold ticksSince
  split
  · exact le_rfl
  · exact Nat.zero_le _

theorem ticksSince_near {a b : BitVec 64} (h : (a - b).toNat < 2 ^ 63) : ticksSince a b = (a - b).toNat := if_pos (decide_eq_true h)

theorem cadLost_counts (on : s.time.cadEnable = true) (locked : s.time.cadLocked = true) (hp : s.time.cadPeriod ≠ 0)
    (missed : 8 * s.time.cadPeriod.toNat ≤ (s.time.now - s.time.cadLast).toNat) (near : (s.time.now - s.time.cadLast).toNat < 2 ^ 63) :
    ∃ k : Nat, (s.time.now - s.time.cadLast).toNat < k * s.time.cadPeriod.toNat ∧
      k * s.time.cadPeriod.toNat ≤ (s.time.now - s.time.cadLast).toNat + s.time.cadPeriod.toNat ∧
      Leads .cadLost s { s with time := { s.time with
        cadLost := true, cadLocked := false, cadGood := 0
        cadNext := s.time.cadLast + BitVec.ofNat 64 (k * s.time.cadPeriod.toNat) } } := by
  have since := ticksSince_near near
  have some_ : 0 < s.time.cadPeriod.toNat := Nat.pos_of_ne_zero fun h => hp (BitVec.eq_of_toNat_eq h)
  have run := exec_cadLost ⟨on, locked, since.symm ▸ missed⟩
  unfold nextEdge at run
  rw [since] at run
  refine ⟨_, ?_, ?_, leads_done run (.refl _)⟩
  · rw [Nat.succ_mul]
    exact Nat.lt_div_mul_add some_
  · rw [Nat.succ_mul]
    exact Nat.add_le_add_right (Nat.div_mul_le_self _ _) _

end

/-! ### The first part of O16: the cadence; its second: TIME_PPS_OUT -/

theorem cadence_kept (s : State) :
    (AtRest s → s.time.cadEnable = false → exec .cadEdge s = .next s) ∧
    (s.time.cadEnable = true → s.time.divCount < s.time.cadDiv.toNat →
      Leads .cadEdge s { s with time := { s.time with divCount := s.time.divCount + 1 } }) ∧
    (s.time.cadEnable = true → s.time.cadDiv.toNat ≤ s.time.divCount → s.time.cadLocked = true → nearPrediction s.time s.time.now = false →
      Leads .cadEdge s { s with time := { s.time with divCount := 0, cadReject := s.time.cadReject + 1 } }) := by
  have run : exec .cadEdge s = done { s with time := cadEdgeAt s.time } := rfl
  refine ⟨fun rest off => ?_, fun on h => ?_, fun on passes locked off => ?_⟩
  · rw [run, cadEdgeAt_off off, done_next, settle_atRest rest]
  · exact leads_done (run.trans (by rw [cadEdgeAt_divided on h])) (.refl _)
  · exact leads_done (run.trans (by rw [cadEdgeAt_rejected on passes locked off])) (.refl _)

theorem edge_accepted {s : State} (on : s.time.cadEnable = true) (passes : s.time.cadDiv.toNat ≤ s.time.divCount)
    (h : s.time.cadLocked = false ∨ nearPrediction s.time s.time.now = true) :
    ∃ t, exec .cadEdge s = .next t ∧ Settled { s with time := t.time } t ∧ t.time.cadLast = s.time.now ∧ t.time.cadLost = false ∧
      t.time.cadReject = s.time.cadReject ∧ t.time.divCount = 0 ∧ t.time.now = s.time.now ∧
      (∃ b, t.time.slots = s.time.slots ++ [b] ∧ b.toNat % 4096 = 0 ∧
        (b - (s.time.now + BitVec.ofNat 64 (s.time.cadStagger.toNat * 4096))).toNat < 4096) ∧
      t.time.edges = (s.time.now :: s.time.edges).take 8 ∧
      (s.time.edges ≠ [] → t.time.cadPeriod = BitVec.ofNat 32
        ((s.time.now - t.time.edges.getLast?.getD s.time.now).toNat / (t.time.edges.length - 1))) ∧
      t.time.cadGood = (if nearPrediction s.time s.time.now = true then s.time.cadGood + 1 else 0) ∧
      t.time.cadLocked = (s.time.cadLocked || decide (4 ≤ t.time.cadGood)) := by
  obtain ⟨u, hu⟩ : ∃ u, u = ({ s with time := acceptEdge s.time.now { s.time with divCount := 0 } } : State) := ⟨_, rfl⟩
  have run : exec .cadEdge s = done u := by
    rw [hu, ← cadEdgeAt_accepted on passes h]
    rfl
  have time : (settle u).time = acceptEdge s.time.now { s.time with divCount := 0 } := by rw [settle_time, hu]
  have settled : Settled { s with time := (settle u).time } (settle u) := by
    rw [time, ← hu]
    exact settle_settled u
  refine ⟨_, run, settled, ?_⟩
  rw [time]
  exact ⟨rfl, rfl, rfl, rfl, rfl, ⟨_, rfl, slotOf_boundary _ _⟩, rfl, acceptEdge_period _, rfl, rfl⟩

theorem cadLost_rests {s : State} (rest : AtRest s) (h : s.time.cadEnable = false ∨ s.time.cadLocked = false ∨
    (s.time.now - s.time.cadLast).toNat < 8 * s.time.cadPeriod.toNat) : exec .cadLost s = .next s := by
  have held : ¬EdgesMissed s := by
    rintro ⟨on, locked, missed⟩
    rcases h with h | h | h
    · exact Bool.false_ne_true (h.symm.trans on)
    · exact Bool.false_ne_true (h.symm.trans locked)
    · exact absurd (missed.trans (ticksSince_le _ _)) (Nat.not_le.mpr h)
  rw [exec_cadLost_rests held, done_next, settle_atRest rest]

theorem ppsAfter_iff (s : State) : ppsAfter s = true ↔ s.time.ppsEnable = true ∧ (s.time.st = .locked ∨ s.time.st = .unlocked) ∧
    s.time.now.toNat % 4000000000 < s.time.ppsWidth.toNat * 4000 ∧ (s.pins.pps = true ∨ s.time.now.toNat % 4000000000 = 0) := by
  simp only [ppsAfter, comparing, Bool.and_eq_true, Bool.or_eq_true, decide_eq_true_iff, beq_iff_eq, and_assoc]
  exact Iff.rfl

theorem pps_driven (s : State) : ∃ t, exec .timePpsOut s = .next t ∧ Settled { s with pins := { s.pins with pps := t.pins.pps } } t ∧
    (t.pins.pps = true ↔ s.time.ppsEnable = true ∧ (s.time.st = .locked ∨ s.time.st = .unlocked) ∧
      s.time.now.toNat % 4000000000 < s.time.ppsWidth.toNat * 4000 ∧ (s.pins.pps = true ∨ s.time.now.toNat % 4000000000 = 0)) ∧
    (t.pins.pps = true → s.pins.pps = false → Output.pps s.time.now ∈ t.outbox) := by
  obtain ⟨o, moved, suffix, rises⟩ := drivePps_one s
  obtain ⟨w, hw⟩ : ∃ w, w = drivePps 1 s := ⟨_, rfl⟩
  have run : exec .timePpsOut s = done w := by rw [hw]; rfl
  rw [← hw] at moved
  have pins : (settle w).pins.pps = ppsAfter s := by rw [settle_pins, moved]
  refine ⟨_, run, ?_, ?_, ?_⟩
  · rw [pins]
    refine Settled.trans ?_ (settle_settled w)
    rw [moved]
    exact settled_outbox suffix
  · rw [pins]
    exact ppsAfter_iff s
  · rw [pins]
    intro up low
    refine (settle_settled w).out.outbox.subset ?_
    rw [moved]
    exact rises up low

end Sys2Proof.Machine
end

section
-- One proof after the other: a text of this length has more proofs waiting at once than the check has threads for.
set_option Elab.async false
/-! PROOFS. Frames of the engines of a core: the lane row, the vector engine's gathers, what a replay orders. -/
namespace Sys2Proof.Machine

/-- What the work of an engine may change: cores and what they hold for replay, memory, contexts, and what a core sends. -/
def workParts : List Part := .slots :: .lcores :: .fab :: .ports :: .outbox :: memoryParts

/-- What the lane row may change. -/
def rowParts : List Part := [.slots, .lcores, .diag]

section
variable {s t : State} {n : Nat}

theorem frame_modCnt (s : State) (n : Nat) (f : CoreCounters → CoreCounters) : AllBut [.slots] s (modCnt s n f) := frame_modC s n _

/-! ### The lane row -/

theorem frame_enterGuests (s : State) (p : Nat) : AllBut rowParts s (enterGuests s p) := by
  unfold enterGuests
  refine .foldl (fun s g => ?_) _ s
  dsimp only
  split
  · exact .refl _ s
  · exact (frame_setP s p _).mono.trans (frame_setReplay _ _ _ _).mono

theorem frame_launchPass (s : State) (n : Nat) : AllBut rowParts s (launchPass s n) := by
  have entered := frame_enterGuests s (physOf s n)
  unfold launchPass
  dsimp only
  split
  · exact entered
  · refine .ite (fun _ => entered) fun _ => ?_
    refine entered.trans (AllBut.trans (t := (takeParity (enterGuests s (physOf s n)) n).1) ?_ (frame_modC _ n _).mono)
    exact (frame_takeInjection _ _).mono

theorem frame_launchOn (s : State) (p : Option Nat) : AllBut rowParts s (launchOn s p) := by
  unfold launchOn
  split
  · exact frame_launchPass s _
  · exact .refl _ s

theorem frame_freeReleased (s : State) (n : Nat) : AllBut rowParts s (freeReleased s n) := by
  unfold freeReleased
  refine .foldl (fun s b => ?_) _ s
  split
  · exact .ite (fun _ => .refl _ s) fun _ => (frame_modC s n _).mono.trans (frame_launchPass _ n)
  · exact .refl _ s

theorem frame_markBad (s : State) (n k : Nat) : AllBut (.ctxs :: rowParts) s (markBad s n k) := by
  unfold markBad
  split
  · exact .refl _ s
  · extract_lets u x v
    have marked : AllBut (.ctxs :: rowParts) s u := (frame_modLed s _ _).mono
    have freed : AllBut (.ctxs :: rowParts) u v := .ite (fun _ => (frame_modC u n _).mono) fun _ => .refl _ u
    have left : AllBut (.ctxs :: rowParts) v (freeReplay v n k) := (frame_freeReplay v n k).mono
    exact marked.trans (freed.trans (left.trans (((frame_launchOn _ _).trans (frame_freeReleased _ n)).trans (frame_launchPass _ n)).mono))

/-! ### Requests of the vector engine -/

theorem frame_useXlat (s : State) (n ctx : Nat) (a : BitVec 48) : AllBut [.slots] s (useXlat s n ctx a) := by
  unfold useXlat
  extract_lets v miss
  refine .ite (fun _ => frame_modC s n _) fun _ => ?_
  split
  · exact .refl _ s
  · exact frame_modC s n _
  · exact (frame_modC s n _).trans (frame_modC _ n _)

theorem frame_sendRequest (s : State) (c e : Nat) (o : ReqOwner) (k : Packet) :
    AllBut (.ctxs :: fabricParts) s (sendRequest s c e o k).1 := by
  unfold sendRequest
  extract_lets x id k' r
  have sent : AllBut (.ctxs :: fabricParts) s r.1 := frame_sendRouted s c k'
  split
  · exact sent
  · refine sent.trans fun q hq => ?_
    cases q <;> first | exact absurd (by decide) hq | exact rfl | exact List.suffix_rfl | exact MailKept.refl _

theorem frame_dropIssued (s : State) (n : Nat) (x : Issued) : AllBut [.slots] s (dropIssued s n x) := frame_modC s n _

theorem frame_faultVec (s : State) (n k : Nat) (x : Issued) (cause : BitVec 8) : AllBut [.slots] s (faultVec s n k x cause) :=
  (frame_modC s n _).trans ((frame_haltStream _ n _ _ _ _).trans (frame_dropIssued _ n x))

theorem frame_sendGather (s : State) (n k a : Nat) (x : Issued) : AllBut workParts s (sendGather s n k a x).1 := by
  unfold sendGather
  extract_lets ctx u sent
  have used : AllBut workParts s u := (frame_useXlat s n ctx _).mono
  have noted : ∀ v, AllBut workParts v (sent v) := fun v => (frame_modC v n _).mono
  split
  · dsimp only
    rename_i e m rc rva core w _
    have asked := used.trans ((frame_sendRequest u ctx e (.vecRead n a) { barePacket u 2 m with
        dctx := BitVec.ofNat 6 rc, pgen := (getStream (getC u n) x.slot).pgen, addr := rva, core := BitVec.ofNat 7 core, nblk := 1 }).mono
          (m := workParts))
    split
    · exact asked
    · exact asked.trans (noted _)
  · exact used.trans (((frame_emit u _).mono (m := workParts)).trans (noted _))
  · exact used.trans (noted u)

theorem frame_gatherToken {ctx k : Nat} (h : gatherToken s n ctx k = some t) : AllBut [.mem] s t := by
  unfold gatherToken at h
  split at h
  · exact frame_takeTokens h
  · cases h
    exact .refl _ s

theorem frame_pumpQueue (n : Nat) : ∀ (q : List (Nat × Nat)) (stuck : List (Option (Nat × Nat))) (s : State),
    AllBut workParts s (pumpQueue n q stuck s)
  | [], _, s => .refl _ s
  | (a, k) :: q, stuck, s => by
    have on : ∀ u stuck, AllBut workParts s u → AllBut workParts s (pumpQueue n q stuck u) := fun u stuck hu =>
      hu.trans (frame_pumpQueue n q stuck u)
    have kept : ∀ u, AllBut workParts s u → AllBut workParts s (modC u n fun c => { c with gatherQ := c.gatherQ ++ [(a, k)] }) :=
      fun u hu => hu.trans (frame_modC u n _).mono
    unfold pumpQueue
    extract_lets c
    split
    · exact on s _ (.refl _ s)
    · rename_i j _
      extract_lets ctx bank keep
      split
      · exact on _ _ (frame_modCnt s n _).mono
      · split
        · exact on _ _ (kept s (.refl _ s))
        · split
          · exact on _ _ (kept _ (frame_holdTokens s _ _).mono)
          · rename_i u paid
            have sent : AllBut workParts s (sendGather u n a k j.iss).1 := (frame_gatherToken paid).mono.trans (frame_sendGather u n a k j.iss)
            refine on _ stuck ?_
            split
            · exact sent.trans (frame_faultVec _ n a j.iss 0x0B).mono
            · exact sent

theorem frame_noteHot (s : State) (n : Nat) : AllBut [.slots] s (noteHot s n) := by
  unfold noteHot
  extract_lets js banks
  split
  · exact .ite (fun _ => frame_modCnt s n _) fun _ => .refl _ s
  · exact .refl _ s

theorem frame_pumpGather (s : State) (n : Nat) : AllBut workParts s (pumpGather s n) := by
  have emptied : AllBut workParts s (modC s n fun c => { c with gatherQ := [] }) := (frame_modC s n _).mono
  exact emptied.trans ((frame_pumpQueue n _ [] _).trans (frame_noteHot _ n).mono)

theorem frame_askGroup (s : State) (n k : Nat) (j : VecJob) : AllBut workParts s (askGroup s n k j) := by
  unfold askGroup
  split
  · exact .refl _ s
  · split
    · exact (frame_modC s n _).mono
    · split
      · exact (frame_faultVec s n k j.iss _).mono
      · exact AllBut.trans (frame_modC s n _).mono (frame_pumpGather _ n)

/-! ### What comes out of a run, and the copies that are made again (R130) -/

theorem frame_putPiece (s : State) (n ctx loc : Nat) (a : BitVec 48) (d : Bytes) : AllBut workParts s (putPiece s n ctx loc a d).1 := by
  have local_ : ∀ cache : Bool, AllBut workParts s (if partsGood (locBad (getC s n) cache) a.toNat (a.toNat + d.length) then
      (modC s n fun c => localPut c cache a.toNat d, true) else (s, false)).1 := fun cache => by
    split
    · exact AllBut.mono (frame_modC s n fun c => localPut c cache a.toNat d)
    · exact .refl _ s
  unfold putPiece
  extract_lets whole
  split
  · split
    · rename_i p pg off e w _
      extract_lets q
      have readIt : AllBut workParts s q.1 := by
        unfold q
        split
        · exact .refl _ s
        · exact (frame_readLocal s ctx p pg off e).mono
      split
      · exact readIt.trans (frame_writeLocal q.1 ctx p pg off e false _).mono
      · exact readIt
    · exact .refl _ s
  · split
    · exact (frame_emit s _).mono
    · exact .refl _ s
  · exact local_ _

theorem frame_sourceBlock (s : State) (n ctx loc : Nat) (a : BitVec 48) : AllBut memoryParts s (sourceBlock s n ctx loc a).1 := by
  unfold sourceBlock
  split
  · exact .refl _ s
  · exact .refl _ s
  · exact .refl _ s
  · split
    · exact (frame_readLocal s ctx _ _ _ _).mono
    · exact .refl _ s

theorem frame_sourceBlocks (n ctx loc : Nat) : ∀ (l : List (BitVec 48)) (s : State), AllBut memoryParts s (sourceBlocks n ctx loc s l).1
  | [], s => .refl _ s
  | a :: l, s => (frame_sourceBlock s n ctx loc a).trans (frame_sourceBlocks n ctx loc l _)

theorem frame_refetchBlocks (n ctx loc : Nat) : ∀ (l : List (BitVec 48)) (s : State), AllBut memoryParts s (refetchBlocks n ctx loc s l).1
  | [], s => .refl _ s
  | a :: l, s => by
    unfold refetchBlocks
    dsimp only
    refine AllBut.trans (t := (if loc = 3 ∨ loc = 4 then
      (({ s with free := s.free + 256 } : State), mkBlock ((List.range 256).map fun i => Config.freeValue (s.free + i) 8))
      else sourceBlock s n ctx loc a).1) ?_ (frame_refetchBlocks n ctx loc l _)
    split
    · exact (frame_free s _).mono
    · exact frame_sourceBlock s n ctx loc a

/-- A piece that a re-issued copy writes. -/
def refetchPut (n : Nat) (e : CopyLog) (s : State) (a : BitVec 48) (d : Bytes) : State :=
  let q := putPiece s n e.ctx 0 a d
  if q.2 then modC q.1 n fun c => noteWriter c e.id a.toNat d.length else q.1

theorem frame_refetchPut (n : Nat) (e : CopyLog) (s : State) (a : BitVec 48) (d : Bytes) : AllBut workParts s (refetchPut n e s a d) :=
  .ite (fun _ => (frame_putPiece s n e.ctx 0 a d).trans (frame_modC _ n _).mono) fun _ => frame_putPiece s n e.ctx 0 a d

theorem frame_refetchReq (s : State) (n : Nat) (e : CopyLog) (q : Nat) : AllBut workParts s (refetchReq s n e q) := by
  unfold refetchReq
  extract_lets x
  split
  · exact .refl _ s
  · rename_i w _
    extract_lets r base
    have readIt : AllBut workParts s r.1 := (frame_refetchBlocks n e.ctx x.srcLoc _ s).mono
    refine .ite (fun _ => ?_) fun _ => ?_
    · split
      · exact readIt.trans (.foldl (fun s p => frame_refetchPut n e s _ _) _ _)
      · exact readIt
    · exact readIt.trans (.foldl (fun s p => .ite (fun _ => frame_refetchPut n e s _ _) fun _ => .refl _ s) _ _)

theorem frame_refetch (s : State) (n : Nat) (l : List CopyLog) : AllBut workParts s (refetch s n l) :=
  .foldl (fun s e => .foldl (fun s q => frame_refetchReq s n e q) _ s) l s

/-! ### What the Belfry orders (R125, R128, R133) -/

theorem frame_orderReplay (s : State) (n k : Nat) : AllBut workParts s (orderReplay s n k) := by
  have third : ∀ r : Replay, AllBut workParts s (match refetchPlan (getC s n) (inputBlocks r) with
      | some l => setReplay (refetch s n l) n k (some { r with st := .running, step := 3, other := none })
      | none => markBad s n k) := fun r => by
    split
    · exact (frame_refetch s n _).trans (frame_setReplay _ _ _ _).mono
    · exact (frame_markBad s n k).mono
  unfold orderReplay
  split
  · exact .refl _ s
  · rename_i r _
    refine .ite (fun _ => .refl _ s) fun _ => .ite (fun _ => (frame_setReplay s _ _ _).mono) fun _ => ?_
    extract_lets step3
    refine .ite (fun _ => .ite (fun _ => third r) fun _ => ?_) fun _ => third r
    split
    · exact AllBut.trans (frame_setReplay s _ _ _).mono (frame_enterGuests _ _).mono
    · exact .refl _ s

theorem frame_reissueHeld (s : State) (n k : Nat) : AllBut workParts s (reissueHeld s n k) := by
  have freed : ∀ c : PCore, AllBut workParts s (freeReplay (setC s n c) n k) := fun c =>
    (frame_setC s n c).mono.trans (frame_freeReplay _ n k).mono
  unfold reissueHeld
  split
  · exact .refl _ s
  · extract_lets op c
    refine .ite (fun _ => .refl _ s) fun _ => .ite (fun _ => ?_) fun _ => .ite (fun _ => .ite (fun _ => freed _) fun _ => .refl _ s) fun _ => ?_
    · extract_lets x
      split
      · exact .refl _ s
      · exact freed _
    · split
      · exact (freed _).trans (frame_askGroup _ n _ _)
      · exact .refl _ s

theorem frame_reissueAll (s : State) (n : Nat) : AllBut workParts s (reissueAll s n) := by
  unfold reissueAll
  refine AllBut.trans ?_ (frame_launchPass _ n).mono
  refine foldl_marked (R := AllBut workParts) (fun _ => .refl _ _) .trans (fun a k => ?_) _ (s, ([] : List Nat))
  split
  · exact .refl _ _
  · dsimp only
    split
    · exact .refl _ _
    · exact frame_reissueHeld a.1 n k

theorem frame_orderReplays (s : State) : AllBut workParts s (orderReplays s) :=
  .foldl (fun s n => .ite (fun _ => .refl _ s) fun _ =>
    (AllBut.foldl (fun s k => frame_orderReplay s n k) _ s).trans (frame_reissueAll _ n)) _ s

end

end Sys2Proof.Machine
end

section
-- One proof after the other: a text of this length has more proofs waiting at once than the check has threads for.
set_option Elab.async false
/-! PROOFS. The Beat (R46, R35, R43, R456, R457): what its duties leave alone, and what they do to the clock and the power block. -/
namespace Sys2Proof.Machine

/-- Everything but the options, the map and the registers of the hub, the clock and the power block. -/
def beatParts : List Part := [.pins, .latches, .engines, .pmap, .mail, .told, .sent, .mailKept, .secKept] ++ workParts

section
variable {s t : State}

/-! ### Duties that leave the clock and the power block alone -/

theorem frame_drivePps (n : Nat) (s : State) : AllBut [.pins, .outbox] s (drivePps n s) := by
  have driven : ∀ (p : Pins) (o : List Output), s.outbox <:+ o → AllBut [.pins, .outbox] s { s with pins := p, outbox := o } :=
    fun p o ho q hq => by
      cases q <;> first | exact absurd (by decide) hq | exact rfl | exact List.suffix_rfl | exact MailKept.refl _ | exact ho
  unfold drivePps
  extract_lets on off edge src
  refine .ite (fun _ => ?_) fun _ => ?_
  · exact driven _ _ (List.suffix_cons _ _)
  · exact driven _ _ List.suffix_rfl

theorem frame_refill (s : State) (d : Nat) : AllBut [.mem, .cells, .pmap] s (refill s d) :=
  .foldl (fun s cls => AllBut.trans (frame_setSlice s d cls _).mono (frame_modMem _ _)) _ s

theorem frame_countThrottle (s : State) (p : Nat) : AllBut [.mem] s (countThrottle s p) :=
  .foldl (fun s cls => .ite (fun _ => frame_setBucket s p cls _) fun _ => .refl _ s) _ s

theorem frame_storeBlock (s : State) (c : Nat) (a : BitVec 48) (b : Block) : AllBut workParts s (storeBlock s c a b) := by
  unfold storeBlock
  split
  · exact .ite (fun _ => (frame_writeLocal s c _ _ _ _ false b).mono) fun _ => .refl _ s
  · exact .refl _ s

theorem frame_readBlocksVa (c : Nat) : ∀ (l : List (BitVec 48)) (s : State), AllBut memoryParts s (readBlocksVa c s l).1
  | [], s => .refl _ s
  | a :: l, s => by
    unfold readBlocksVa
    extract_lets r
    refine AllBut.trans ?_ (frame_readBlocksVa c l r.1)
    unfold r
    split
    · exact (frame_readLocal s c _ _ _ _).mono
    · exact .refl _ s

theorem frame_takeWrite (k : Packet) (s : State) : AllBut workParts s (takeWrite k s) := by
  unfold takeWrite
  extract_lets u
  have stored : AllBut workParts s u := .foldl (fun s (b : BitVec 48 × Block) => frame_storeBlock s _ b.1 b.2) _ s
  exact stored.trans (frame_sendCompl u k _).mono

theorem frame_takeReadReq (k : Packet) (s : State) : AllBut workParts s (takeReadReq k s) := by
  unfold takeReadReq
  extract_lets c r
  have readIt : AllBut workParts s r.1 := (frame_readBlocksVa c _ s).mono
  exact readIt.trans (frame_sendRouted r.1 c _).mono

theorem frame_doRequest (q : HeldReq) (s : State) : AllBut workParts s (doRequest q s) :=
  .ite (fun _ => frame_takeWrite q.k s) fun _ => frame_takeReadReq q.k s

theorem frame_payRequest (q : HeldReq) (s : State) : AllBut (.engines :: workParts) s (payRequest q s) := by
  have wait : AllBut (.engines :: workParts) s
      (modFab (holdTokens s q.die q.k.cls.toNat) fun f => { f with held := f.held ++ [q] }) :=
    AllBut.trans (frame_holdTokens s _ _).mono (frame_modFab _ _).mono
  unfold payRequest
  extract_lets cls w
  refine .ite (fun _ => wait) fun _ => ?_
  split
  · rename_i paid
    exact AllBut.trans (frame_takeTokens paid).mono (frame_doRequest q _).mono
  · exact wait

theorem frame_serveHeld (s : State) : AllBut (.engines :: workParts) s (serveHeld s) := by
  unfold serveHeld
  refine AllBut.trans (t := modFab s fun f => { f with held := [] }) (frame_modFab s _).mono (.foldl (fun s q => ?_) _ _)
  have dropped : ∀ status, AllBut (.engines :: workParts) s
      (sendCompl (modFab s fun f => { f with dropStale := f.dropStale + 1 }) q.k status) := fun status =>
    AllBut.trans (frame_modFab s _).mono (frame_sendCompl _ q.k status).mono
  extract_lets x
  refine .ite (fun _ => dropped _) fun _ => .ite (fun _ => dropped _) fun _ => ?_
  split
  · exact (frame_sendCompl s q.k _).mono
  · exact frame_payRequest q s

theorem frame_idleBeat (s : State) (c : Nat) : AllBut [.ctxs] s (idleBeat s c) :=
  .ite (fun _ => .refl _ s) fun _ => frame_modCtx s c fun _ => _

theorem frame_reportHalt (s : State) (n : Nat) : AllBut [.slots, .mail, .outbox] s (reportHalt s n) := by
  unfold reportHalt
  refine .ite (fun _ => .refl _ s) fun _ => ?_
  extract_lets c
  split
  · exact .refl _ s
  · exact (frame_postNotice s _ _ _).mono.trans (frame_modC _ n _).mono

theorem frame_reportFails (s : State) : AllBut [.fab, .engines, .mail, .outbox] s (reportFails s) := by
  refine .foldl (fun s e => ?_) _ s
  exact AllBut.trans (.foldl (fun s f => (frame_postNotice s _ _ _).mono) _ s) (frame_setEngine _ e _).mono

theorem frame_postPredict (s : State) (c : Nat) (b : Bytes) : AllBut [.mail, .outbox, .ctxs] s (postPredict s c b) :=
  AllBut.trans (frame_postNotice s _ _ _).mono (frame_modPeal _ c _).mono

theorem frame_foldMemory (s : State) : AllBut [.mem, .cells, .pmap, .mail, .outbox, .ctxs] s (foldMemory s) := by
  unfold foldMemory
  refine AllBut.trans (t := modMem s fun m => { m with ctrl := m.ctrl.map (foldCtrl s.ticks m.policy) })
    (frame_modMem s _).mono (.foldl (fun s i => ?_) _ _)
  unfold noSpareAt
  extract_lets k
  split
  · exact .refl _ s
  · refine .ite (fun _ => .refl _ s) fun _ => ?_
    have noted : AllBut [.mem, .cells, .pmap, .mail, .outbox, .ctxs] s (modCtrl s i fun k => { k with noSpare := true }) :=
      (frame_modCtrl s i _).mono
    exact .ite (fun _ => noted.trans (.foldl (fun s c => (frame_postPredict s c _).mono) _ _)) fun _ => noted

theorem frame_foldOthers (s : State) : AllBut [.fab, .ports, .engines, .slots] s (foldOthers s) := by
  have folded : ∀ (u : State) (l : AMap PCore), AllBut [.fab, .ports, .engines, .slots] u { u with slots := l } := fun u l q hq => by
    cases q <;> first | exact absurd (by decide) hq | exact rfl | exact List.suffix_rfl | exact MailKept.refl _
  exact AllBut.trans (frame_modFab s _).mono (folded _ _)

theorem frame_predictAll (s : State) : AllBut [.mail, .outbox, .ctxs] s (predictAll s) := by
  refine .foldl (fun s c => .ite (fun _ => ?_) fun _ => .refl _ s) _ s
  split
  · exact frame_postPredict s c _
  · exact .refl _ s

theorem frame_pealBeat (s : State) : AllBut (.sec :: .ctxs :: pealParts) s (pealBeat s) :=
  .foldl (fun s c => .ite (fun _ => (pealMoves_go s c).frame) fun _ => .refl _ s) _ s

theorem frame_belfryBeat (s : State) : AllBut beatParts s (belfryBeat s) := by
  have read : ∀ u : State, AllBut beatParts u { u with lcores := u.lcores.map fun l => (l.1, { l.2 with pending := false }) } :=
    fun u q hq => by
      cases q <;> first | exact absurd (by decide) hq | exact rfl
  unfold belfryBeat
  extract_lets u v
  have halts : AllBut beatParts s u := .foldl (fun s n => (frame_reportHalt s n).mono) _ s
  have folds : AllBut beatParts v (foldOthers (foldMemory (reportFails v))) :=
    ((frame_reportFails v).mono.trans (frame_foldMemory _).mono).trans (frame_foldOthers _).mono
  have beats : AllBut beatParts v (pealBeat (predictAll (foldOthers (foldMemory (reportFails v))))) :=
    folds.trans (AllBut.trans (frame_predictAll _).mono (frame_pealBeat _).mono)
  exact (halts.trans (read u)).trans (beats.trans (frame_orderReplays _).mono)

theorem frame_lockouts (s : State) : AllBut beatParts s (lockouts s) := by
  refine .foldl (fun s c => ?_) _ s
  unfold lockout
  refine .ite (fun _ => ?_) fun _ => .refl _ s
  extract_lets u v w
  have fenced : AllBut beatParts s u := (frame_startFence s c none).mono
  have taken : AllBut beatParts u w := (frame_modSec u c _).mono.trans (frame_modSecCore v _).mono
  exact (fenced.trans taken).trans (frame_postNotice w _ _ _).mono

end

end Sys2Proof.Machine
end

section
-- One proof after the other: a text of this length has more proofs waiting at once than the check has threads for.
set_option Elab.async false
/-! PROOFS. What a Beat does to the clock and the power block; O16. -/
namespace Sys2Proof.Machine

/-! ### The clock -/

section
variable {s t : State}

theorem slewBeat_clock (s : State) :
    (slewBeat s).time.now = s.time.now + (if 1 ≤ s.time.slew then 1 else 0) ∧
    (slewBeat s).ticks = s.ticks + (if s.time.slew ≤ -1 then 1 else 0) ∧
    (slewBeat s).time.slew = (if 1 ≤ s.time.slew then s.time.slew - 1 else if s.time.slew ≤ -1 then s.time.slew + 1 else 0) ∧
    (slewBeat s).time.err = s.time.err ∧ (slewBeat s).time.holdover = s.time.holdover ∧ (slewBeat s).pwr = s.pwr := by
  unfold slewBeat
  by_cases fast : 1 ≤ s.time.slew
  · have slow : ¬s.time.slew ≤ -1 := by omega
    simp [fast, slow, modTime]
  · by_cases slow : s.time.slew ≤ -1
    · simp [fast, slow, modTime]
    · have still : s.time.slew = 0 := by omega
      simp [still]

theorem checkUnlocked_clock (s : State) : (checkUnlocked s).time.now = s.time.now ∧ (checkUnlocked s).ticks = s.ticks ∧
    (checkUnlocked s).time.slew = s.time.slew ∧ (checkUnlocked s).time.err = s.time.err ∧ (checkUnlocked s).pwr = s.pwr := by
  unfold checkUnlocked
  split
  · exact ⟨rfl, rfl, rfl, rfl, rfl⟩
  · exact ⟨rfl, rfl, rfl, rfl, rfl⟩

theorem holdoverGrowth_clock (s : State) : (holdoverGrowth s).time.now = s.time.now ∧ (holdoverGrowth s).ticks = s.ticks ∧
    (holdoverGrowth s).time.slew = s.time.slew ∧
    (holdoverGrowth s).time.err = (if s.time.holdover = true then s.time.err + 2048 else s.time.err) ∧ (holdoverGrowth s).pwr = s.pwr := by
  unfold holdoverGrowth
  obtain ⟨now, ticks, slew, err, pwr⟩ :=
    checkUnlocked_clock (if s.time.holdover then modTime s fun t => { t with err := t.err + 2048 } else s)
  rw [now, ticks, slew, err, pwr]
  split
  · exact ⟨rfl, rfl, rfl, rfl, rfl⟩
  · exact ⟨rfl, rfl, rfl, rfl, rfl⟩

/-- Two states show the same time, error estimate and slew. -/
def ClockAlike (s t : State) : Prop := t.time.now = s.time.now ∧ t.time.slew = s.time.slew ∧ t.time.err = s.time.err

theorem ClockAlike.trans {u : State} (h : ClockAlike s t) (k : ClockAlike t u) : ClockAlike s u := by
  obtain ⟨h1, h2, h3⟩ := h
  obtain ⟨k1, k2, k3⟩ := k
  exact ⟨k1.trans h1, k2.trans h2, k3.trans h3⟩

theorem ClockAlike.of_time (h : t.time = s.time) : ClockAlike s t := ⟨by rw [h], by rw [h], by rw [h]⟩

theorem clockAlike_lostSlots (s : State) : ClockAlike s (modTime s lostSlots) := by
  unfold modTime lostSlots
  dsimp only
  split
  · exact ⟨rfl, rfl, rfl⟩
  · exact ⟨rfl, rfl, rfl⟩

/-! ### The power block (R456, R457) -/

theorem minuteTerm_congr (time : t.time.now = s.time.now) (con : t.pwr.con = s.pwr.con) (secs : t.pwr.secs = s.pwr.secs) :
    minuteTerm t = minuteTerm s := by
  have window : ∀ b, windowTerm t b = windowTerm s b := fun b => by rw [windowTerm, time, con, secs, windowTerm]
  simp only [minuteTerm, time, window]

theorem capInForce_congr (time : t.time.now = s.time.now) (con : t.pwr.con = s.pwr.con) (secs : t.pwr.secs = s.pwr.secs)
    (last : t.pwr.last = s.pwr.last) (tenant : t.pwr.tenant = s.pwr.tenant) : capInForce t = capInForce s := by
  rw [capInForce, minuteTerm_congr time con secs, con, last, tenant, capInForce]

/-- What the governor of a die leaves in the power block. -/
theorem dieBeats_keep (m : Sensors) : ∀ (l : List Nat) (w : Power), ∃ fr be th tm he tj cf, l.foldl (fun w d => dieBeat m d w) w = { w with
    freq := fr, below := be, throttled := th, throttledMin := tm, thermHeld := he, curTj := tj, curFreq := cf }
  | [], w => ⟨_, _, _, _, _, _, _, rfl⟩
  | d :: l, w => by
    obtain ⟨fr, be, th, tm, he, tj, cf, rest⟩ := dieBeats_keep m l (dieBeat m d w)
    exact ⟨fr, be, th, tm, he, tj, cf, by rw [List.foldl_cons, rest]; rfl⟩

/-- What the power block shows after a Beat, from what it was with its minute closed. -/
structure PowerBeats (m : Sensors) (w v : Power) : Prop where
  con     : v.con = w.pend.getD w.con
  pend    : v.pend = none
  last    : v.last = m
  samples : v.samples = w.samples + 1
  sum     : v.sum = w.sum + m.power.toNat

theorem residency_moves (s : State) : ∃ r, (residency s).pwr = { s.pwr with res := r } ∧ AllBut [.pwr, .slots] s (residency s) := by
  unfold residency
  extract_lets bump u
  have counted : AllBut [.slots] u (((List.range 128).filter (inService u)).foldl (fun s n => modC s n fun c => { c with
      cnt := { c.cnt with pwrRes := bump c.cnt.pwrRes c.pstate } }) u) := .foldl (fun s n => frame_modC s n _) _ u
  exact ⟨bump s.pwr.res s.pwr.pstate, counted .pwr (by decide), AllBut.trans (frame_modPwr s _).mono counted.mono⟩

/-- The contract that waited is in force. -/
def contractTaken (w : Power) : Power := match w.pend with
  | some c => { w with con := c, pend := none, conSet := true }
  | none => w

theorem contractTaken_shows (w : Power) : (contractTaken w).con = w.pend.getD w.con ∧ (contractTaken w).pend = none ∧
    (contractTaken w).sum = w.sum ∧ (contractTaken w).samples = w.samples := by
  unfold contractTaken
  cases h : w.pend with
  | none => exact ⟨rfl, h, rfl, rfl⟩
  | some c => exact ⟨rfl, rfl, rfl, rfl⟩

/-- The readings of a Beat are taken into the sum of the minute and by the dies. -/
def readingsTaken (m : Sensors) (now : BitVec 64) (w : Power) : Power := (List.range 4).foldl (fun w d => dieBeat m d w) { w with
  last := m, curEnv := raiseEnv w.curEnv m, sum := w.sum + m.power.toNat, samples := w.samples + 1
  secs := addSample w.secs (now.toNat / ticksPerSec) m.power.toNat }

theorem readingsTaken_shows (m : Sensors) (now : BitVec 64) (w : Power) : (readingsTaken m now w).con = w.con ∧
    (readingsTaken m now w).pend = w.pend ∧ (readingsTaken m now w).last = m ∧ (readingsTaken m now w).samples = w.samples + 1 ∧
    (readingsTaken m now w).sum = w.sum + m.power.toNat := by
  obtain ⟨fr, be, th, tm, he, tj, cf, kept⟩ := dieBeats_keep m (List.range 4) { w with
    last := m, curEnv := raiseEnv w.curEnv m, sum := w.sum + m.power.toNat, samples := w.samples + 1
    secs := addSample w.secs (now.toNat / ticksPerSec) m.power.toNat }
  unfold readingsTaken
  rw [kept]
  exact ⟨rfl, rfl, rfl, rfl, rfl⟩

/-- What the governor adds to the power block once the target has moved. -/
def capFormed (m : Sensors) (s : State) : State :=
  let lim := limitTerms m s
  modPwr s fun w => { w with
    inForce := BitVec.ofNat 16 (capInForce s), limit := lim.setWidth 6, limitedHeld := w.limitedHeld ||| lim
    filler := decide (m.demand.toNat * 10 ^ 5 < w.target) && fillerRoom s, missHeld := w.missHeld ||| missTerms m s }

theorem frame_moveTarget (m : Sensors) (s : State) : AllBut [.pwr] s (moveTarget m s) := by
  unfold moveTarget
  exact frame_modPwr s _

theorem frame_capFormed (m : Sensors) (s : State) : AllBut [.pwr] s (capFormed m s) := by
  unfold capFormed
  exact frame_modPwr s _

theorem powerBeat_eq (m : Sensors) (s : State) : powerBeat m s =
    residency (capFormed m (moveTarget m (modPwr (modPwr (closeMinute s) contractTaken) (readingsTaken m (closeMinute s).time.now)))) := rfl

theorem powerBeat_beats (m : Sensors) (s : State) : PowerBeats m (closeMinute s).pwr (powerBeat m s).pwr ∧
    (powerBeat m s).pwr.inForce = BitVec.ofNat 16 (capInForce (powerBeat m s)) ∧
    AllBut [.pwr, .slots] (closeMinute s) (powerBeat m s) := by
  rw [powerBeat_eq]
  generalize closeMinute s = s
  obtain ⟨con, pend, sum, samples⟩ := contractTaken_shows s.pwr
  obtain ⟨rcon, rpend, rlast, rsamples, rsum⟩ := readingsTaken_shows m s.time.now (contractTaken s.pwr)
  obtain ⟨x, hx⟩ : ∃ x, x = moveTarget m (modPwr (modPwr s contractTaken) (readingsTaken m s.time.now)) := ⟨_, rfl⟩
  obtain ⟨g, t, target⟩ : ∃ g t, x.pwr = { readingsTaken m s.time.now (contractTaken s.pwr) with goal := g, target := t } := hx ▸ ⟨_, _, rfl⟩
  have moved : AllBut [.pwr] s x := hx ▸ ((frame_modPwr s _).trans ((frame_modPwr _ _).trans (frame_moveTarget m _)))
  rw [← hx]
  obtain ⟨r, pwr, frame⟩ := residency_moves (capFormed m x)
  have formed : AllBut [.pwr] x (capFormed m x) := frame_capFormed m x
  have time : (residency (capFormed m x)).time = x.time := Eq.trans (frame .time (by decide)) (formed .time (by decide))
  refine ⟨⟨?_, ?_, ?_, ?_, ?_⟩, ?_, (moved.trans formed).mono.trans frame⟩
  · rw [pwr]
    exact (congrArg Power.con target).trans (rcon.trans con)
  · rw [pwr]
    exact (congrArg Power.pend target).trans (rpend.trans pend)
  · rw [pwr]
    exact (congrArg Power.last target).trans rlast
  · rw [pwr]
    exact (congrArg Power.samples target).trans (rsamples.trans (congrArg (· + 1) samples))
  · rw [pwr]
    exact (congrArg Power.sum target).trans (rsum.trans (congrArg (· + m.power.toNat) sum))
  · have cap : capInForce (residency (capFormed m x)) = capInForce x :=
      capInForce_congr (congrArg TimeBlock.now time) (by rw [pwr]; rfl) (by rw [pwr]; rfl) (by rw [pwr]; rfl) (by rw [pwr]; rfl)
    rw [cap, pwr]
    rfl

/-- A minute that has ended is closed before the readings of the next are taken. -/
theorem closeMinute_moves (s : State) : AllBut [.mail, .told, .mailKept, .diag, .free, .pwr] s (closeMinute s) ∧
    (closeMinute s).pwr.con = s.pwr.con ∧ (closeMinute s).pwr.pend = s.pwr.pend ∧
    (minuteOpen s = false → (closeMinute s).pwr = s.pwr) ∧
    (minuteOpen s = true → (closeMinute s).pwr.samples = 0 ∧ (closeMinute s).pwr.sum = 0) := by
  cases open_ : minuteOpen s with
  | false =>
    have still : closeMinute s = s := if_neg (by rw [open_]; exact Bool.false_ne_true)
    rw [still]
    exact ⟨.refl _ s, rfl, rfl, fun _ => rfl, fun h => absurd h Bool.false_ne_true⟩
  | true =>
    have ends : closeMinute s = endMinute (s.time.now.toNat / minuteTicks - 1) s := if_pos open_
    obtain ⟨frame, pwr, -⟩ := endMinute_moves (s.time.now.toNat / minuteTicks - 1) s
    rw [ends, pwr]
    exact ⟨frame, rfl, rfl, fun h => absurd h (by decide), fun _ => ⟨rfl, rfl⟩⟩

/-! ### The Beat -/

/-- The duties of a Beat up to the readings of power. -/
def beatServed (n : Nat) (s : State) : State :=
  let t := holdoverGrowth (slewBeat s)
  let s := modTime (drivePps (n + (t.time.now - s.time.now).toNat) t) lostSlots
  serveHeld ((List.range (partCount s.hub.layout)).foldl countThrottle ((List.range 4).foldl refill s))

/-- The duties of a Beat after the readings of power. -/
def beatEnded (s : State) : State :=
  let s := modTime ((List.range 64).foldl idleBeat s) passSlots
  if belfryUp s then belfryBeat s else s

theorem beatDuties_eq (m : Sensors) (n : Nat) (s : State) : beatDuties m n s = beatEnded (powerBeat m (beatServed n s)) := rfl

theorem beatServed_clock (n : Nat) (s : State) :
    (beatServed n s).time.now = s.time.now + (if 1 ≤ s.time.slew then 1 else 0) ∧
    (beatServed n s).ticks = s.ticks + (if s.time.slew ≤ -1 then 1 else 0) ∧
    (beatServed n s).time.slew = (if 1 ≤ s.time.slew then s.time.slew - 1 else if s.time.slew ≤ -1 then s.time.slew + 1 else 0) ∧
    (beatServed n s).time.err = (if s.time.holdover = true then s.time.err + 2048 else s.time.err) ∧ (beatServed n s).pwr = s.pwr := by
  unfold beatServed
  extract_lets t u
  obtain ⟨now1, ticks1, slew1, err1, hold1, pwr1⟩ := slewBeat_clock s
  obtain ⟨now2, ticks2, slew2, err2, pwr2⟩ := holdoverGrowth_clock (slewBeat s)
  have driven : AllBut [.pins, .outbox] t (drivePps (n + (t.time.now - s.time.now).toNat) t) := frame_drivePps _ t
  have alike : ClockAlike t u := (ClockAlike.of_time (driven .time (by decide))).trans (clockAlike_lostSlots _)
  have slots : AllBut [.time] (drivePps (n + (t.time.now - s.time.now).toNat) t) u := frame_modTime _ _
  have served : AllBut beatParts u (serveHeld ((List.range (partCount u.hub.layout)).foldl countThrottle ((List.range 4).foldl refill u))) :=
    AllBut.trans (.foldl (fun s d => (frame_refill s d).mono) _ u)
      (AllBut.trans (.foldl (fun s p => (frame_countThrottle s p).mono) _ _) (frame_serveHeld _).mono)
  obtain ⟨now3, slew3, err3⟩ := alike.trans (.of_time (served .time (by decide)))
  have ticks3 : _ = t.ticks := Eq.trans (served .ticks (by decide)) (Eq.trans (slots .ticks (by decide)) (driven .ticks (by decide)))
  have pwr3 : _ = t.pwr := Eq.trans (served .pwr (by decide)) (Eq.trans (slots .pwr (by decide)) (driven .pwr (by decide)))
  refine ⟨now3.trans (now2.trans now1), ticks3.trans (ticks2.trans ticks1), slew3.trans (slew2.trans slew1), err3.trans ?_,
    pwr3.trans (pwr2.trans pwr1)⟩
  rw [err2, hold1, err1]

theorem beatEnded_clock (s : State) : ClockAlike s (beatEnded s) ∧ (beatEnded s).ticks = s.ticks ∧ (beatEnded s).pwr = s.pwr := by
  unfold beatEnded
  have idle : AllBut [.ctxs] s ((List.range 64).foldl idleBeat s) := .foldl (fun s c => frame_idleBeat s c) _ s
  generalize (List.range 64).foldl idleBeat s = v at idle
  extract_lets u
  have passed : AllBut [.time] v u := frame_modTime _ _
  have alike : ClockAlike s u := (ClockAlike.of_time (idle .time (by decide))).trans ⟨rfl, rfl, rfl⟩
  have ends : AllBut beatParts u (if belfryUp u then belfryBeat u else u) := .ite (fun _ => frame_belfryBeat u) fun _ => .refl _ u
  exact ⟨alike.trans (.of_time (ends .time (by decide))),
    Eq.trans (ends .ticks (by decide)) (Eq.trans (passed .ticks (by decide)) (idle .ticks (by decide))),
    Eq.trans (ends .pwr (by decide)) (Eq.trans (passed .pwr (by decide)) (idle .pwr (by decide)))⟩

theorem boundary_reached (now : BitVec 64) : (now + BitVec.ofNat 64 (4096 - now.toNat % 4096)).toNat % 4096 = 0 := by
  rw [BitVec.toNat_add, BitVec.toNat_ofNat]
  omega

theorem beat_kept (m : Sensors) {s : State} (hot : s.hub.dev ≠ .cold) : ∃ t, exec (.beatBoundary m) s = .next t ∧
    t.time.now = s.time.now + BitVec.ofNat 64 (4096 - s.time.now.toNat % 4096) + (if 1 ≤ s.time.slew then 1 else 0) ∧
    (s.time.slew ≤ 0 → t.time.now.toNat % 4096 = 0) ∧
    t.ticks = s.ticks + (4096 - s.time.now.toNat % 4096) + (if s.time.slew ≤ -1 then 1 else 0) ∧
    t.time.slew = (if 1 ≤ s.time.slew then s.time.slew - 1 else if s.time.slew ≤ -1 then s.time.slew + 1 else 0) ∧
    t.time.err = (if s.time.holdover = true then s.time.err + 2048 else s.time.err) ∧
    t.pwr.con = s.pwr.pend.getD s.pwr.con ∧ t.pwr.pend = none ∧ t.pwr.last = m ∧
    t.pwr.inForce = BitVec.ofNat 16 (capInForce t) ∧
    (t.time.now.toNat < minuteTicks ∨ (s.pwr.avgs ≠ [] ∧ s.pwr.minuteNo = t.time.now.toNat / minuteTicks - 1) →
      t.pwr.samples = s.pwr.samples + 1 ∧ t.pwr.sum = s.pwr.sum + m.power.toNat) ∧
    (minuteTicks ≤ t.time.now.toNat → s.pwr.avgs = [] ∨ s.pwr.minuteNo ≠ t.time.now.toNat / minuteTicks - 1 →
      t.pwr.samples = 1 ∧ t.pwr.sum = m.power.toNat) := by
  obtain ⟨s0, hs0⟩ : ∃ s0 : State, s0 = { modTime s fun t => { t with now := t.now + BitVec.ofNat 64 (4096 - s.time.now.toNat % 4096) } with
    ticks := s.ticks + (4096 - s.time.now.toNat % 4096) } := ⟨_, rfl⟩
  obtain ⟨n, hn⟩ : ∃ n, n = 4096 - s.time.now.toNat % 4096 := ⟨_, rfl⟩
  obtain ⟨now1, ticks1, slew1, err1, pwr1⟩ := beatServed_clock n s0
  obtain ⟨u, hu⟩ : ∃ u, u = beatServed n s0 := ⟨_, rfl⟩
  rw [← hu] at now1 ticks1 slew1 err1 pwr1
  obtain ⟨closed, ccon, cpend, cshut, copen⟩ := closeMinute_moves u
  obtain ⟨⟨con, pend, last, samples, sum⟩, cap, frame⟩ := powerBeat_beats m u
  obtain ⟨⟨now3, slew3, err3⟩, ticks3, pwr3⟩ := beatEnded_clock (powerBeat m u)
  have time2 : (powerBeat m u).time = u.time := Eq.trans (frame .time (by decide)) (closed .time (by decide))
  have ticks2 : (powerBeat m u).ticks = u.ticks := Eq.trans (frame .ticks (by decide)) (closed .ticks (by decide))
  obtain ⟨v, hv⟩ : ∃ v, v = lockouts (beatEnded (powerBeat m u)) := ⟨_, rfl⟩
  have run : exec (.beatBoundary m) s = .next (settle v) := by
    rw [hv, hu, hs0, hn]
    exact congrArg doneMem (if_pos (bne_iff_ne.mpr hot))
  have lock : AllBut beatParts (beatEnded (powerBeat m u)) v := hv ▸ frame_lockouts _
  have time4 : (settle v).time = (beatEnded (powerBeat m u)).time := (settle_time v).trans (lock .time (by decide))
  have pwr4 : (settle v).pwr = (powerBeat m u).pwr := (settle_pwr v).trans (Eq.trans (lock .pwr (by decide)) pwr3)
  have ticks4 : (settle v).ticks = u.ticks := (settle_ticks v).trans (Eq.trans (lock .ticks (by decide)) (ticks3.trans ticks2))
  have now4 : (settle v).time.now = u.time.now := by rw [time4, now3, time2]
  have start : s0.time.now = s.time.now + BitVec.ofNat 64 (4096 - s.time.now.toNat % 4096) := by rw [hs0]; rfl
  have slew0 : s0.time.slew = s.time.slew := by rw [hs0]; rfl
  have rest0 : s0.time.err = s.time.err ∧ s0.time.holdover = s.time.holdover ∧ s0.pwr = s.pwr ∧
      s0.ticks = s.ticks + (4096 - s.time.now.toNat % 4096) := by rw [hs0]; exact ⟨rfl, rfl, rfl, rfl⟩
  obtain ⟨err0, hold0, pwr0, ticks0⟩ := rest0
  rw [slew0] at now1 ticks1 slew1
  rw [err0, hold0] at err1
  rw [pwr0] at pwr1
  rw [start] at now1
  rw [ticks0] at ticks1
  refine ⟨_, run, now4.trans now1, fun slow => ?_, ticks4.trans ticks1, ?_, ?_, ?_, ?_, ?_, ?_, fun held => ?_, fun began ends => ?_⟩
  · rw [now4, now1, if_neg (by omega)]
    simpa using boundary_reached s.time.now
  · rw [time4, slew3, time2, slew1]
  · rw [time4, err3, time2, err1]
  · rw [pwr4, con, cpend, ccon, pwr1]
  · rw [pwr4, pend]
  · rw [pwr4, last]
  · have same : capInForce (settle v) = capInForce (powerBeat m u) :=
      capInForce_congr (by rw [now4, time2]) (by rw [pwr4]) (by rw [pwr4]) (by rw [pwr4]) (by rw [pwr4])
    rw [pwr4, same]
    exact cap
  · have shut : minuteOpen u = false := by
      refine Bool.eq_false_iff.mpr fun h => ?_
      obtain ⟨past, new⟩ := (minuteOpen_eq u).mp h
      rw [now4] at held
      rw [pwr1] at new
      rcases held with held | ⟨some_, same⟩
      · omega
      · rcases new with new | new
        · exact some_ new
        · exact new same
    rw [pwr4, samples, sum, cshut shut, pwr1]
    exact ⟨rfl, rfl⟩
  · have open_ : minuteOpen u = true := by
      rw [now4] at began ends
      rw [← pwr1] at ends
      exact (minuteOpen_eq u).mpr ⟨began, ends⟩
    obtain ⟨none_, zero⟩ := copen open_
    rw [pwr4, samples, sum, none_, zero]
    exact ⟨rfl, Nat.zero_add _⟩

end

/-- Settles O16: the edges of the cadence, the output of the second, and the Beat. -/
theorem beatAndSecondAreKept : Obligations.BeatAndSecondAreKept := by
  unfold Obligations.BeatAndSecondAreKept
  refine ⟨fun s => ?_, pps_driven, fun m s => ⟨beat_kept m, fun cold rest calm => ?_⟩⟩
  · obtain ⟨off, divided, rejected⟩ := cadence_kept s
    exact ⟨off, divided, rejected, edge_accepted, nearPrediction_iff, cadLost_counts, cadLost_rests⟩
  · have run : exec (.beatBoundary m) s = doneMem s := congrArg doneMem (if_neg (by rw [powered, cold]; decide))
    rw [run, doneMem_eq calm, done_next, settle_atRest rest]

end Sys2Proof.Machine
end

section
-- One proof after the other: a text of this length has more proofs waiting at once than the check has threads for.
set_option Elab.async false
/-! PROOFS. One core moves: what a turn of the scheduler, a header wait, a completion and a halt make of it (R172, R173, R175, R185). -/

namespace Sys2Proof.Machine

/-- One core has moved, to `p`; of the rest of the state only the parts listed. -/
structure CoreTo (l : List Part) (n : Nat) (s t : State) (p : PCore) : Prop where
  frame  : AllBut (.slots :: l) s t
  own    : getC t n = p
  others : ∀ q, q ≠ physOf s n → getP t q = getP s q

section
variable {l : List Part} {n : Nat} {s t u : State} {p q : PCore}

theorem CoreTo.place (h : CoreTo l n s t p) (hl : Part.hub ∉ Part.slots :: l := by decide) (m : Nat) : physOf t m = physOf s m :=
  physOf_congr (h.frame .hub hl) m

theorem CoreTo.serves (h : CoreTo l n s t p) (hl : Part.hub ∉ Part.slots :: l := by decide) (m : Nat) : inService t m = inService s m :=
  inService_congr (h.frame .hub hl) m

theorem CoreTo.refl (l : List Part) (n : Nat) (s : State) : CoreTo l n s s (getC s n) := ⟨.refl _ s, rfl, fun _ _ => rfl⟩

theorem coreTo_modC (l : List Part) (s : State) (n : Nat) (f : PCore → PCore) : CoreTo l n s (modC s n f) (f (getC s n)) :=
  ⟨(frame_modC s n f).mono fun p hp => by
    rw [List.mem_singleton.mp hp]
    exact List.mem_cons_self, getC_modC_same s n f, fun _ hq => getP_modC_other s n f hq⟩

theorem CoreTo.trans (h : CoreTo l n s t p) (k : CoreTo l n t u q) (hl : Part.hub ∉ Part.slots :: l := by decide) : CoreTo l n s u q :=
  ⟨h.frame.trans k.frame, k.own, fun m hm => (k.others m (by rwa [h.place hl])).trans (h.others m hm)⟩

theorem CoreTo.mono {m : List Part} (h : CoreTo l n s t p) (hl : ∀ x ∈ Part.slots :: l, x ∈ Part.slots :: m := by decide) : CoreTo m n s t p :=
  ⟨h.frame.mono hl, h.own, h.others⟩

/-- What moves no core and no map changes nothing of it. -/
theorem CoreTo.then (h : CoreTo l n s t p) (k : AllBut l t u) (hl : Part.slots ∉ l ∧ Part.hub ∉ l := by decide) : CoreTo l n s u p := by
  have slots := k .slots hl.1
  exact ⟨h.frame.trans (k.mono fun x hx => List.mem_cons_of_mem _ hx), (getC_congr (k .hub hl.2) slots n).trans h.own,
    fun q hq => (getP_congr slots q).trans (h.others q hq)⟩

/-- A step over one core on top of another. -/
theorem CoreTo.modC (h : CoreTo l n s t p) (f : PCore → PCore) (hl : Part.hub ∉ Part.slots :: l := by decide) :
    CoreTo l n s (modC t n f) (f p) := by
  have k := coreTo_modC l t n f
  rw [h.own] at k
  exact h.trans k hl

end

/-! ### A stream's turn -/

/-- R185: the core once stream `i` has had the turn, and the others that are ready have been passed over. -/
def passTurn (ready : Nat → Bool) (i : Nat) (c : PCore) : PCore :=
  { c with
    turns := c.turns + 1
    streams := Vector.ofFn fun (j : Fin 16) =>
      let t := getStream c j.val
      if j.val = i then { t with passed := 0, turn := some c.turns }
      else { t with passed := if ready j.val then t.passed + 1 else 0 } }

theorem sameButTurns_refl (t : Stream) : SameButTurns t t := ⟨t.passed, rfl⟩

theorem SameButTurns.trans {a b c : Stream} (h : SameButTurns a b) (k : SameButTurns b c) : SameButTurns a c := by
  obtain ⟨m, rfl⟩ := h
  obtain ⟨n, rfl⟩ := k
  exact ⟨m, rfl⟩

theorem SameButTurns.of_eq {a b : Stream} (h : a = b) : SameButTurns a b := h ▸ sameButTurns_refl _

section
variable {ready : Nat → Bool} {i : Nat} {c : PCore}

theorem vector_getD_ofFn {α : Type} {n k : Nat} (g : Fin n → α) (hk : k < n) (x : α) : (Vector.ofFn g).getD k x = g ⟨k, hk⟩ := by
  simp [Vector.getD, hk]

theorem getStream_passTurn {k : Nat} (hk : k < 16) : getStream (passTurn ready i c) k =
    if k = i then { getStream c k with passed := 0, turn := some c.turns }
    else { getStream c k with passed := if ready k then (getStream c k).passed + 1 else 0 } := by
  rw [getStream, passTurn, vector_getD_ofFn _ hk]

theorem getStream_passTurn_same (hi : i < 16) :
    getStream (passTurn ready i c) i = { getStream c i with passed := 0, turn := some c.turns } := by
  rw [getStream_passTurn hi, if_pos rfl]

theorem getStream_outside {k : Nat} (hk : ¬ k < 16) : getStream c k = Stream.reset := by
  simp [getStream, Vector.getD, hk]

theorem getStream_passTurn_other {k : Nat} (hk : k ≠ i) : SameButTurns (getStream (passTurn ready i c) k) (getStream c k) := by
  by_cases h : k < 16
  · exact ⟨_, by rw [getStream_passTurn h, if_neg hk]⟩
  · rw [getStream_outside h, getStream_outside h]
    exact sameButTurns_refl _

end

theorem takeTurn_core (l : List Part) (s : State) (n i : Nat) :
    CoreTo l n s (takeTurn s n i) (passTurn (fun j => (readyNext s n j).isSome) i (getC s n)) :=
  coreTo_modC l s n (passTurn (fun j => (readyNext s n j).isSome) i)

/-! ### Semaphores -/

section
variable (c : PCore) (d : BitVec 256)

theorem headed_eq : ∃ x, headed c d = { c with sems := x } := by
  unfold headed
  split
  · exact ⟨_, rfl⟩
  · exact ⟨_, rfl⟩

theorem signalled_eq : ∃ x y, signalled c d = { c with sems := x, cnt := y } := by
  unfold signalled
  split
  · exact semAdd_eq c _ _
  · exact ⟨_, _, rfl⟩

theorem headed_streams : (headed c d).streams = c.streams := by
  obtain ⟨x, hx⟩ := headed_eq c d
  rw [hx]

theorem signalled_streams : (signalled c d).streams = c.streams := by
  obtain ⟨x, y, hx⟩ := signalled_eq c d
  rw [hx]

theorem getStream_headed (i : Nat) : getStream (headed c d) i = getStream c i := congrArg (Vector.getD · i Stream.reset) (headed_streams c d)

theorem getStream_signalled (i : Nat) : getStream (signalled c d) i = getStream c i :=
  congrArg (Vector.getD · i Stream.reset) (signalled_streams c d)

end

theorem semAdd_sems {c e : PCore} (h : c.sems = e.sems) (i v : Nat) : (semAdd c i v).sems = (semAdd e i v).sems := by
  unfold semAdd semGet
  rw [h]
  dsimp only
  split <;> rfl

theorem semTake_sems {c e : PCore} (h : c.sems = e.sems) (i : Nat) (v : BitVec 32) : (semTake c i v).sems = (semTake e i v).sems := by
  unfold semTake semGet
  rw [h]

theorem headed_sems {c e : PCore} (h : c.sems = e.sems) (d : BitVec 256) : (headed c d).sems = (headed e d).sems := by
  unfold headed
  split
  · exact semTake_sems h _ _
  · exact h

theorem signalled_sems {c e : PCore} (h : c.sems = e.sems) (d : BitVec 256) : (signalled c d).sems = (signalled e d).sems := by
  unfold signalled
  split
  · exact semAdd_sems h _ _
  · exact h

theorem takeHeader_core (l : List Part) (s : State) (n : Nat) (d : BitVec 256) : CoreTo l n s (takeHeader s n d) (headed (getC s n) d) := by
  unfold takeHeader headed
  split
  · exact coreTo_modC l s n _
  · exact .refl l n s

theorem signalSsem_core (l : List Part) (s : State) (n : Nat) (d : BitVec 256) : CoreTo l n s (signalSsem s n d) (signalled (getC s n) d) := by
  unfold signalSsem signalled
  split
  · exact coreTo_modC l s n _
  · exact .refl l n s

/-- R173, R185: the core at the moment a descriptor takes effect. -/
theorem turned_core (l : List Part) (s : State) (n i : Nat) (d : BitVec 256) (hl : Part.hub ∉ Part.slots :: l := by decide) :
    CoreTo l n s (turned s n i d) (headed (passTurn (fun j => (readyNext s n j).isSome) i (getC s n)) d) := by
  have k := takeHeader_core l (takeTurn s n i) n d
  rw [(takeTurn_core l s n i).own] at k
  exact (takeTurn_core l s n i).trans k hl

/-! ### What a descriptor that takes effect leaves of its core -/

/-- Stream `i` still stands where it stood, with its counts; the other streams, the data and what waits stay. -/
structure Attends (i : Nat) (c e : PCore) : Prop where
  st     : (getStream e i).st = (getStream c i).st
  pc     : (getStream e i).pc = (getStream c i).pc
  prog   : (getStream e i).prog = (getStream c i).prog
  flight : (getStream e i).inflight = (getStream c i).inflight
  others : ∀ k, k ≠ i → SameButTurns (getStream e k) (getStream c k)
  data   : e.stage = c.stage ∧ e.cache = c.cache ∧ e.banks = c.banks

section
variable {i n : Nat} {c e f : PCore}

theorem Attends.refl (i : Nat) (c : PCore) : Attends i c c := ⟨rfl, rfl, rfl, rfl, fun _ _ => sameButTurns_refl _, rfl, rfl, rfl⟩

theorem Attends.trans (h : Attends i c e) (k : Attends i e f) : Attends i c f :=
  ⟨k.st.trans h.st, k.pc.trans h.pc, k.prog.trans h.prog, k.flight.trans h.flight, fun j hj => (k.others j hj).trans (h.others j hj),
    k.data.1.trans h.data.1, k.data.2.1.trans h.data.2.1, k.data.2.2.trans h.data.2.2⟩

/-- Where no stream has moved. -/
theorem attends_of_streams (i : Nat) (hs : e.streams = c.streams) (hd : e.stage = c.stage ∧ e.cache = c.cache ∧ e.banks = c.banks) :
    Attends i c e := by
  have same : ∀ k, getStream e k = getStream c k := fun k => congrArg (Vector.getD · k Stream.reset) hs
  exact ⟨by rw [same], by rw [same], by rw [same], by rw [same], fun k _ => .of_eq (same k), hd⟩

theorem attends_passTurn (ready : Nat → Bool) (hi : i < 16) (c : PCore) : Attends i c (passTurn ready i c) := by
  have own := getStream_passTurn_same (ready := ready) (c := c) hi
  exact ⟨by rw [own], by rw [own], by rw [own], by rw [own], fun k hk => getStream_passTurn_other hk, rfl, rfl, rfl⟩

theorem attends_headed (i : Nat) (c : PCore) (d : BitVec 256) : Attends i c (headed c d) := by
  obtain ⟨x, hx⟩ := headed_eq c d
  rw [hx]
  exact attends_of_streams i rfl ⟨rfl, rfl, rfl⟩

theorem attends_signalled (i : Nat) (c : PCore) (d : BitVec 256) : Attends i c (signalled c d) := by
  obtain ⟨x, y, hx⟩ := signalled_eq c d
  rw [hx]
  exact attends_of_streams i rfl ⟨rfl, rfl, rfl⟩

theorem attends_semAdd (i : Nat) (c : PCore) (k v : Nat) : Attends i c (semAdd c k v) := by
  obtain ⟨x, y, hx⟩ := semAdd_eq c k v
  rw [hx]
  exact attends_of_streams i rfl ⟨rfl, rfl, rfl⟩

/-- A change of what a stream knows, but not of where it stands. -/
theorem attends_modStream (hi : i < 16) (c : PCore) (g : Stream → Stream) (h : (g (getStream c i)).st = (getStream c i).st ∧
    (g (getStream c i)).pc = (getStream c i).pc ∧ (g (getStream c i)).prog = (getStream c i).prog ∧
    (g (getStream c i)).inflight = (getStream c i).inflight) : Attends i c (modStream c i g) := by
  obtain ⟨st, pc, prog, flight⟩ := h
  have own := getStream_modStream_same c hi g
  exact ⟨by rw [own, st], by rw [own, pc], by rw [own, prog], by rw [own, flight],
    fun k hk => .of_eq (getStream_modStream_other c hk g), rfl, rfl, rfl⟩

theorem attends_turned (ready : Nat → Bool) (hi : i < 16) (c : PCore) (d : BitVec 256) : Attends i c (headed (passTurn ready i c) d) :=
  (attends_passTurn ready hi c).trans (attends_headed i _ d)

end

/-! ### A control descriptor completes (R172) -/

/-- R172: the core once a control descriptor has completed, and its stream goes on at `a`. -/
def landed (c : PCore) (i : Nat) (d : BitVec 256) (a : BitVec 48) : PCore :=
  modStream (modStream (signalled c d) i fun t => { t with prog := t.prog + 1 }) i fun t => gotoPc { t with blocked := none } a

theorem countProg_core (s : State) (n i : Nat) :
    CoreTo [.ctxs] n s (countProg s n i) (modStream (getC s n) i fun t => { t with prog := t.prog + 1 }) :=
  (coreTo_modC [.ctxs] s n fun c => modStream c i fun t => { t with prog := t.prog + 1 }).then
    (frame_modCtx _ (getStream (getC s n) i).ctx fun x => { x with prog := x.prog + 1, idleBeats := 0, completed := true })

theorem completeTo_core (s : State) (n i : Nat) (d : BitVec 256) (a : BitVec 48) :
    CoreTo [.ctxs] n s (completeTo s n i d a) (landed (getC s n) i d a) := by
  have first := signalSsem_core [.ctxs] s n d
  have second := countProg_core (signalSsem s n d) n i
  rw [first.own] at second
  exact (first.trans second).modC _

section
variable {i : Nat} {c : PCore} {d : BitVec 256} {a : BitVec 48}

theorem getStream_landed (hi : i < 16) : getStream (landed c i d a) i =
    gotoPc { getStream c i with prog := (getStream c i).prog + 1, blocked := none } a := by
  rw [landed, getStream_modStream_same _ hi, getStream_modStream_same _ hi, getStream_signalled]

theorem getStream_landed_other {k : Nat} (hk : k ≠ i) : getStream (landed c i d a) k = getStream c k := by
  rw [landed, getStream_modStream_other _ hk, getStream_modStream_other _ hk, getStream_signalled]

theorem landed_sems : (landed c i d a).sems = (signalled c d).sems := rfl

theorem landed_data : (landed c i d a).stage = c.stage ∧ (landed c i d a).cache = c.cache ∧ (landed c i d a).banks = c.banks :=
  (attends_signalled i c d).data

end

/-- R172: what attends to its stream up to the moment a control descriptor completes, and completes it, advances. -/
theorem advances_of_landed {l : List Part} {s t : State} {n i : Nat} {c : PCore} {d : BitVec 256} {a : BitVec 48}
    (runs : (getStream (getC s n) i).st = .running) (kept : Attends i (getC s n) c) (out : CoreTo l n s t (landed c i d a))
    (hl : Part.mem ∉ Part.slots :: l := by decide) : Advances s t n i a := by
  have own := getStream_landed (c := c) (d := d) (a := a) (running_lt runs)
  refine ⟨?_, ?_, ?_, ?_, ?_, fun k hk => ?_, ?_, out.others, out.frame .mem hl⟩
  · rw [out.own, own]
    rfl
  · rw [out.own, own]
    exact kept.st.trans runs
  · rw [out.own, own]
    rfl
  · rw [out.own, own, ← kept.prog]
    rfl
  · rw [out.own, own, ← kept.flight]
    rfl
  · rw [out.own, getStream_landed_other hk]
    exact kept.others k hk
  · obtain ⟨stage, cache, banks⟩ := landed_data (c := c) (i := i) (d := d) (a := a)
    rw [out.own]
    exact ⟨stage.trans kept.data.1, cache.trans kept.data.2.1, banks.trans kept.data.2.2⟩

section
variable {s u t : State} {n i : Nat} {a : BitVec 48} {d : BitVec 256} {b : Blocked} {e : BitVec 8}

theorem getP_settled (k : Settled u t) (p : Nat) : getP t p = getP u p := getP_congr k.out.slots p

theorem Advances.of_settled (h : Advances s u n i a) (k : Settled u t) : Advances s t n i a := by
  obtain ⟨h1, h2, h3, h4, h5, h6, h7, h8, h9⟩ := h
  rw [← getC_settled k n] at h1 h2 h3 h4 h5 h6 h7
  exact ⟨h1, h2, h3, h4, h5, h6, h7, fun p hp => (getP_settled k p).trans (h8 p hp), k.out.mem.trans h9⟩

theorem Halts.of_settled (h : Halts s u n i e) (k : Settled u t) : Halts s t n i e := by
  obtain ⟨h1, h2, h3, h4, h5, h6, h7⟩ := h
  rw [← getC_settled k n] at h1 h2 h3 h4
  exact ⟨h1, h2, h3, h4, fun p hp => (getP_settled k p).trans (h5 p hp), k.out.mem.trans h6, k.out.ctxs.trans h7⟩

theorem Awaits.of_settled (h : Awaits s u n i d b) (k : Settled u t) : Awaits s t n i d b := by
  obtain ⟨h1, h2, h3, h4, h5, h6, h7, h8, h9, h10⟩ := h
  rw [← getC_settled k n] at h1 h2 h3 h4 h5 h6 h7
  exact ⟨h1, h2, h3, h4, h5, h6, h7, fun p hp => (getP_settled k p).trans (h8 p hp), k.out.mem.trans h9, k.out.ctxs.trans h10⟩

/-- Where a stream has gone on and no other waited, none waits. -/
theorem Advances.none (h : Advances s u n i a) (none_ : NoneBlocked s n) : NoneBlocked u n := fun k => by
  by_cases hk : k = i
  · rw [hk]
    exact h.free
  · obtain ⟨m, hm⟩ := h.others k hk
    rw [hm]
    exact none_ k

end

/-! ### A stream halts (R175) -/

/-- R175: the core once stream `i`, which runs, has halted. -/
def haltCore (c : PCore) (i : Nat) (cause tag : BitVec 8) (a : BitVec 48) : PCore :=
  recordErr (setStream c i { getStream c i with st := .halted, blocked := none, due := false, ahead := [] })
    { stream := i, cause := cause, tag := tag, idx := descIndex (getStream c i) a }

section
variable {c : PCore} {i n : Nat} {cause tag : BitVec 8} {a : BitVec 48} {s t : State} {l : List Part}

theorem recordErr_eq (c : PCore) (e : StreamErr) :
    recordErr c e = { c with err := if c.errValid then c.err else some e, errValid := true, errQ := if c.errValid then c.errQ ++ [e] else c.errQ } := by
  unfold recordErr
  cases h : c.errValid
  · rfl
  · simp only [↓reduceIte, ← h]

theorem haltStream_core (l : List Part) (runs : (getStream (getC s n) i).st = .running) :
    CoreTo l n s (haltStream s n i cause tag a) (haltCore (getC s n) i cause tag a) := by
  have k := coreTo_modC l s n fun c =>
    if (getStream c i).st = .running then haltCore c i cause tag a else c
  rw [if_pos runs] at k
  exact k

theorem getStream_haltCore (hi : i < 16) : getStream (haltCore c i cause tag a) i =
    { getStream c i with st := .halted, blocked := none, due := false, ahead := [] } := by
  rw [haltCore, recordErr_eq]
  exact getStream_setStream_same c hi _

theorem getStream_haltCore_other {k : Nat} (hk : k ≠ i) : getStream (haltCore c i cause tag a) k = getStream c k := by
  rw [haltCore, recordErr_eq]
  exact getStream_setStream_other c hk _

theorem haltCore_sems : (haltCore c i cause tag a).sems = c.sems := by rw [haltCore, recordErr_eq]; rfl
theorem haltCore_stage : (haltCore c i cause tag a).stage = c.stage := by rw [haltCore, recordErr_eq]; rfl

theorem haltCore_err (h : c.errValid = false) : (haltCore c i cause tag a).errValid = true ∧
    ∃ e, (haltCore c i cause tag a).err = some e ∧ e.stream = i ∧ e.cause = cause := by
  rw [haltCore, recordErr_eq]
  refine ⟨rfl, { stream := i, cause := cause, tag := tag, idx := descIndex (getStream c i) a }, ?_, rfl, rfl⟩
  show (if c.errValid = true then c.err else _) = _
  rw [h]
  rfl

/-- R175: what attends to its stream and then halts it. -/
theorem halts_of_haltCore (runs : (getStream (getC s n) i).st = .running) (kept : Attends i (getC s n) c)
    (valid : c.errValid = (getC s n).errValid) (out : CoreTo l n s t (haltCore c i cause tag a))
    (hl : Part.mem ∉ Part.slots :: l ∧ Part.ctxs ∉ Part.slots :: l := by decide) : Halts s t n i cause := by
  have own := getStream_haltCore (c := c) (cause := cause) (tag := tag) (a := a) (running_lt runs)
  refine ⟨?_, ?_, fun free => ?_, fun k hk => ?_, out.others, out.frame .mem hl.1, out.frame .ctxs hl.2⟩
  · rw [out.own, own]
  · rw [out.own, own]
    exact kept.pc
  · rw [out.own]
    exact haltCore_err (valid.trans free)
  · rw [out.own, getStream_haltCore_other hk]
    exact kept.others k hk

theorem Halts.none (h : Halts s t n i cause) (free : (getStream (getC t n) i).blocked = none) (none_ : NoneBlocked s n) : NoneBlocked t n :=
  fun k => by
    by_cases hk : k = i
    · rw [hk]
      exact free
    · obtain ⟨m, hm⟩ := h.others k hk
      rw [hm]
      exact none_ k

end

theorem turned_valid (ready : Nat → Bool) (i : Nat) (c : PCore) (d : BitVec 256) : (headed (passTurn ready i c) d).errValid = c.errValid := by
  obtain ⟨x, hx⟩ := headed_eq (passTurn ready i c) d
  rw [hx]
  rfl

/-- R175: a malformed descriptor halts its stream, and its semaphores stay. -/
theorem rejectDesc_halts {s : State} {n i : Nat} (runs : (getStream (getC s n) i).st = .running) (d : BitVec 256) (cause : BitVec 8) :
    Halts s (rejectDesc s n i d cause) n i cause ∧ (getC (rejectDesc s n i d cause) n).sems = (getC s n).sems := by
  have turn := takeTurn_core [] s n i
  have kept := attends_passTurn (fun j => (readyNext s n j).isSome) (running_lt runs) (getC s n)
  have runs' : (getStream (getC (takeTurn s n i) n) i).st = .running := by
    rw [turn.own]
    exact kept.st.trans runs
  have halt := haltStream_core [] runs' (cause := cause) (tag := tagOf d) (a := issuePc (getStream (getC s n) i))
  rw [turn.own] at halt
  have out := turn.trans halt
  exact ⟨halts_of_haltCore runs kept rfl out, by rw [rejectDesc, out.own]; exact haltCore_sems⟩

end Sys2Proof.Machine
end

section
-- One proof after the other: a text of this length has more proofs waiting at once than the check has threads for.
set_option Elab.async false
/-! PROOFS. Control descriptors that take effect at once: SETBASE, BRANCH, LOOP and SIGNAL (R174, R178, R179, R182, R183). -/

namespace Sys2Proof.Machine

/-- R173, R185: the core at the moment a control descriptor takes effect. -/
def turnedCore (s : State) (n i : Nat) (d : BitVec 256) : PCore := headed (passTurn (fun j => (readyNext s n j).isSome) i (getC s n)) d

section
variable {s v t : State} {n i op : Nat} {d : BitVec 256} {a : BitVec 48} {act : State → BitVec 256 → State} {q : Instr} {c : PCore}

theorem issuable_runs (h : issuable s n i op = some d) : (getStream (getC s n) i).st = .running := (readyNext_some (issuable_some h).2.1).2.1

theorem issuable_lt (h : issuable s n i op = some d) : i < 16 := running_lt (issuable_runs h)

theorem turned_own (s : State) (n i : Nat) (d : BitVec 256) : getC (turned s n i d) n = turnedCore s n i d := (turned_core [] s n i d).own

theorem turnedCore_sems (s : State) (n i : Nat) (d : BitVec 256) : (turnedCore s n i d).sems = (headed (getC s n) d).sems :=
  headed_sems (c := passTurn (fun j => (readyNext s n j).isSome) i (getC s n)) (e := getC s n) rfl d

theorem turnedCore_valid (s : State) (n i : Nat) (d : BitVec 256) : (turnedCore s n i d).errValid = (getC s n).errValid :=
  turned_valid (fun j => (readyNext s n j).isSome) i (getC s n) d

theorem attends_turnedCore (hi : i < 16) (s : State) (n : Nat) (d : BitVec 256) : Attends i (getC s n) (turnedCore s n i d) :=
  attends_turned _ hi _ d

theorem getStream_turnedCore (hi : i < 16) (s : State) (n : Nat) (d : BitVec 256) : getStream (turnedCore s n i d) i =
    { getStream (getC s n) i with passed := 0, turn := some (getC s n).turns } := by
  rw [turnedCore, getStream_headed, getStream_passTurn_same hi]

theorem Stands.runs (h : Stands s n i op d) : (getStream (getC s n) i).st = .running := issuable_runs h.ready

theorem Stands.lt (h : Stands s n i op d) : i < 16 := running_lt h.runs

theorem Stands.op_eq (h : Stands s n i op d) : opcodeOf d = op := (issuable_some h.ready).1

theorem finishLaunch_fresh (h : (getStream (getC s n) i).due = false) : finishLaunch s n i = s := by
  unfold finishLaunch
  simp only [h, Bool.false_eq_true, ↓reduceIte]

/-- R171, R173: a descriptor that stands next takes effect in the state in which its stream has the turn. -/
theorem issueControl_takes (h : Stands s n i op d) : issueControl op act s n i = wakeCore (act (turned s n i d) d) n := by
  have fresh : (getStream (getC (takeTurn s n i) n) i).due = false := by
    rw [(takeTurn_core [] s n i).own, getStream_passTurn_same h.lt]
    exact h.fresh
  unfold issueControl
  rw [h.ready]
  dsimp only
  rw [h.legal]
  dsimp only
  rw [finishLaunch_fresh fresh]
  rfl

/-- A control descriptor that takes effect and lets no stream of its core wait. -/
theorem control_ends (h : Stands s n i op d) (run : exec q s = done (issueControl op act s n i))
    (none_ : NoneBlocked (act (turned s n i d) d) n) : ∃ t, exec q s = .next t ∧ Settled (act (turned s n i d) d) t := by
  rw [issueControl_takes h, wakeCore_none none_] at run
  exact ⟨_, run, settle_settled _⟩

/-- R172: a control descriptor that completes at issue. -/
theorem control_lands {l : List Part} (h : Stands s n i op d) (run : exec q s = done (issueControl op act s n i))
    (kept : Attends i (turnedCore s n i d) c) (out : CoreTo l n (turned s n i d) (act (turned s n i d) d) (landed c i d a))
    (hl : Part.hub ∉ Part.slots :: l ∧ Part.mem ∉ Part.slots :: l := by decide) :
    ∃ t, exec q s = .next t ∧ Settled (act (turned s n i d) d) t ∧ Advances s t n i a ∧ getC t n = landed c i d a := by
  have whole := (turned_core l s n i d hl.1).trans out hl.1
  have adv := advances_of_landed h.runs ((attends_turnedCore h.lt s n d).trans kept) whole hl.2
  obtain ⟨t, ht, k⟩ := control_ends h run (adv.none h.none)
  exact ⟨t, ht, k, adv.of_settled k, (getC_settled k n).trans whole.own⟩

/-- R172: the core once a control descriptor that has done its work on it completes. -/
theorem completes_core {w : State} (h : CoreTo [.ctxs] n s w c) (a : BitVec 48) : CoreTo [.ctxs] n s (completeTo w n i d a) (landed c i d a) := by
  have k := completeTo_core w n i d a
  rw [h.own] at k
  exact h.trans k

/-- R175: a descriptor that halts its stream once it has the turn. -/
theorem turned_halts (h : Stands s n i op d) (cause tag : BitVec 8) (a : BitVec 48) :
    Halts s (haltStream (turned s n i d) n i cause tag a) n i cause ∧
    (getStream (getC (haltStream (turned s n i d) n i cause tag a) n) i).blocked = none ∧
    AllBut [.slots] s (haltStream (turned s n i d) n i cause tag a) := by
  have kept : Attends i (getC s n) (getC (turned s n i d) n) := by
    rw [turned_own]
    exact attends_turnedCore h.lt s n d
  have valid : (getC (turned s n i d) n).errValid = (getC s n).errValid := by rw [turned_own, turnedCore_valid]
  have out := haltStream_core [] (kept.st.trans h.runs) (cause := cause) (tag := tag) (a := a)
  have whole := CoreTo.trans ⟨(turned_core [] s n i d).frame, rfl, (turned_core [] s n i d).others⟩ out
  refine ⟨halts_of_haltCore h.runs kept valid whole, ?_, whole.frame⟩
  rw [out.own, getStream_haltCore h.lt]

/-- What a descriptor that halts its stream comes to. -/
theorem control_faults {cause tag : BitVec 8} (h : Stands s n i op d) (run : exec q s = done (wakeCore (act (turned s n i d) d) n))
    (fault : act (turned s n i d) d = haltStream (turned s n i d) n i cause tag a) :
    ∃ t, exec q s = .next t ∧ Halts s t n i cause ∧ t.fab = s.fab := by
  obtain ⟨halt, free, frame⟩ := turned_halts h cause tag a
  have none_ := halt.none free h.none
  rw [fault, wakeCore_none none_] at run
  have k := settle_settled (haltStream (turned s n i d) n i cause tag a)
  exact ⟨_, run, halt.of_settled k, k.out.fab.trans (frame .fab (by decide))⟩

/-- R175: a control descriptor that faults as it takes effect. -/
theorem control_halts {cause : BitVec 8} (h : Stands s n i op d) (run : exec q s = done (issueControl op act s n i))
    (fault : act (turned s n i d) d = faultHere (turned s n i d) n i d cause) :
    ∃ t, exec q s = .next t ∧ Halts s t n i cause ∧ t.fab = s.fab := by
  rw [issueControl_takes h] at run
  exact control_faults h run fault

end

/-! ### SETBASE (R183) -/

section
variable {s : State} {c : Core} {i : SlotNo} {d : BitVec 256}

theorem setbase_names (h : controlBad d = none) (op : opcodeOf d = opSetbase) : dfield d 32 3 ≠ 0 := by
  unfold controlBad at h
  rw [op] at h
  intro zero
  simp [opSetbase, opWait, opSignal, opLaunchAt, opFence, opLoop, opBranch, firstCause, zero] at h
  split at h <;> cases h

theorem setbase_loads (h : Stands s c.val i.val opSetbase d) : ∃ t, exec (.setbase c i) s = .next t ∧
    Advances s t c.val i.val ((getStream (getC s c.val) i.val).pc + 32) ∧
    (getStream (getC t c.val) i.val).br = (getStream (getC s c.val) i.val).br.setIfInBounds (dfield d 32 3 - 1) (d.extractLsb' 35 48) ∧
    (getStream (getC t c.val) i.val).loops = (getStream (getC s c.val) i.val).loops ∧
    (getC t c.val).sems = (signalled (headed (getC s c.val) d) d).sems := by
  have own := getStream_turnedCore h.lt s c.val d
  have names := setbase_names h.legal h.op_eq
  obtain ⟨g, hg⟩ : ∃ g : Stream → Stream, g = fun x => setBr x (dfield d 32 3) (d.extractLsb' 35 48) := ⟨_, rfl⟩
  have loads : ∀ x, g x = { x with br := x.br.setIfInBounds (dfield d 32 3 - 1) (d.extractLsb' 35 48) } := fun x => by
    rw [hg]
    exact if_neg names
  have based := coreTo_modC [.ctxs] (turned s c.val i.val d) c.val fun q => modStream q i.val g
  rw [turned_own] at based
  have here : getStream (modStream (turnedCore s c.val i.val d) i.val g) i.val = _ := (getStream_modStream_same _ h.lt g).trans (loads _)
  have whole := completes_core (i := i.val) (d := d) based ((getStream (getC s c.val) i.val).pc + 32)
  have next : doSetbase c.val i.val (turned s c.val i.val d) d = completeTo (modC (turned s c.val i.val d) c.val
      fun q => modStream q i.val g) c.val i.val d ((getStream (getC s c.val) i.val).pc + 32) := by
    rw [doSetbase, completeNext, ← hg, based.own, here, own]
  obtain ⟨t, ht, -, adv, core⟩ := control_lands h (q := .setbase c i) rfl
    (attends_modStream h.lt _ _ (by rw [loads]; exact ⟨rfl, rfl, rfl, rfl⟩)) (next ▸ whole)
  refine ⟨t, ht, adv, ?_, ?_, ?_⟩
  · rw [core, getStream_landed h.lt, here, own]
    rfl
  · rw [core, getStream_landed h.lt, here, own]
    rfl
  · rw [core, landed_sems]
    exact signalled_sems (c := modStream (turnedCore s c.val i.val d) i.val g) (turnedCore_sems s c.val i.val d) d

end

/-! ### BRANCH (R183) -/

theorem semGet_congr {c e : PCore} (h : c.sems = e.sems) (k : Nat) : semGet c k = semGet e k := by rw [semGet, h, semGet]

theorem branchTaken_congr {c e : PCore} (h : c.sems = e.sems) (d : BitVec 256) : branchTaken c d = branchTaken e d := by
  rw [branchTaken, semGet_congr h, branchTaken]

section
variable {s : State} {c : Core} {i : SlotNo} {d : BitVec 256} {a : BitVec 48} {u : Stream} {k : PCore}

theorem branchTaken_turned (s : State) (n i : Nat) (d : BitVec 256) :
    branchTaken (getC (turned s n i d) n) d = branchTaken (headed (getC s n) d) d := by
  rw [turned_own]
  exact branchTaken_congr (turnedCore_sems s n i d) d

theorem branch_passes (h : Stands s c.val i.val opBranch d) (hu : u = getStream (getC s c.val) i.val) (hk : k = headed (getC s c.val) d)
    (no : branchTaken k d = false) : ∃ t, exec (.branch c i) s = .next t ∧ Advances s t c.val i.val (u.pc + 32) ∧
      (getStream (getC t c.val) i.val).ahead = u.ahead ∧ (getStream (getC t c.val) i.val).br = u.br ∧
      (getStream (getC t c.val) i.val).loops = u.loops ∧ (getC t c.val).sems = (signalled k d).sems := by
  subst hu hk
  have own := getStream_turnedCore h.lt s c.val d
  have start : CoreTo [.ctxs] c.val (turned s c.val i.val d) (turned s c.val i.val d) (turnedCore s c.val i.val d) :=
    ⟨.refl _ _, turned_own s c.val i.val d, fun _ _ => rfl⟩
  have whole := completes_core (i := i.val) (d := d) start ((getStream (getC s c.val) i.val).pc + 32)
  have next : doBranch c.val i.val (turned s c.val i.val d) d =
      completeTo (turned s c.val i.val d) c.val i.val d ((getStream (getC s c.val) i.val).pc + 32) := by
    rw [doBranch]
    dsimp only
    rw [branchTaken_turned, no, completeNext, turned_own, own]
    rfl
  obtain ⟨t, ht, -, adv, core⟩ := control_lands h (q := .branch c i) rfl (.refl _ _) (next ▸ whole)
  have here := getStream_landed (c := turnedCore s c.val i.val d) (d := d) (a := (getStream (getC s c.val) i.val).pc + 32) h.lt
  rw [own] at here
  exact ⟨t, ht, adv, by rw [core, here]; rfl, by rw [core, here]; rfl, by rw [core, here]; rfl, by
    rw [core, landed_sems]
    exact signalled_sems (turnedCore_sems s c.val i.val d) d⟩

theorem inBodies_turned (h : i.val < 16) (s : State) (n : Nat) (d : BitVec 256) (a : BitVec 48) :
    inBodies (getStream (getC (turned s n i.val d) n) i.val) a = inBodies (getStream (getC s n) i.val) a := by
  rw [turned_own, getStream_turnedCore h]
  rfl

theorem pc_turned (h : i.val < 16) (s : State) (n : Nat) (d : BitVec 256) :
    (getStream (getC (turned s n i.val d) n) i.val).pc = (getStream (getC s n) i.val).pc := by
  rw [turned_own, getStream_turnedCore h]

theorem branch_jumps (h : Stands s c.val i.val opBranch d) (hu : u = getStream (getC s c.val) i.val) (hk : k = headed (getC s c.val) d)
    (ha : a = targetOf u.pc (dfield d 73 24)) (yes : branchTaken k d = true) (inside : inBodies u a = true) :
    ∃ t, exec (.branch c i) s = .next t ∧ Advances s t c.val i.val a ∧
      (getStream (getC t c.val) i.val).ahead = (dropAhead u u.pc a).ahead ∧ (getStream (getC t c.val) i.val).br = u.br ∧
      (getStream (getC t c.val) i.val).loops = u.loops ∧ (getC t c.val).sems = (signalled k d).sems := by
  subst hu hk
  have own := getStream_turnedCore h.lt s c.val d
  obtain ⟨g, hg⟩ : ∃ g : Stream → Stream, g = fun x => dropAhead x x.pc a := ⟨_, rfl⟩
  have dropped := coreTo_modC [.ctxs] (turned s c.val i.val d) c.val fun q => modStream q i.val g
  rw [turned_own] at dropped
  have here : getStream (modStream (turnedCore s c.val i.val d) i.val g) i.val = _ := getStream_modStream_same _ h.lt g
  have whole := completes_core (i := i.val) (d := d) dropped a
  have next : doBranch c.val i.val (turned s c.val i.val d) d =
      completeTo (modC (turned s c.val i.val d) c.val fun q => modStream q i.val g) c.val i.val d a := by
    rw [doBranch]
    dsimp only
    rw [branchTaken_turned, yes, if_pos rfl, pc_turned h.lt, ← ha, inBodies_turned h.lt, inside, if_pos rfl, hg]
  obtain ⟨t, ht, -, adv, core⟩ := control_lands h (q := .branch c i) rfl
    (attends_modStream h.lt _ _ (by rw [hg]; exact ⟨rfl, rfl, rfl, rfl⟩)) (next ▸ whole)
  rw [hg, own] at here
  refine ⟨t, ht, adv, ?_, ?_, ?_, ?_⟩
  · rw [core, getStream_landed h.lt, hg, here]
    rfl
  · rw [core, getStream_landed h.lt, hg, here]
    rfl
  · rw [core, getStream_landed h.lt, hg, here]
    rfl
  · rw [core, landed_sems]
    exact signalled_sems (c := modStream (turnedCore s c.val i.val d) i.val g) (turnedCore_sems s c.val i.val d) d

theorem branch_leaves (h : Stands s c.val i.val opBranch d) (hu : u = getStream (getC s c.val) i.val) (hk : k = headed (getC s c.val) d)
    (ha : a = targetOf u.pc (dfield d 73 24)) (yes : branchTaken k d = true) (outside : inBodies u a = false) :
    ∃ t, exec (.branch c i) s = .next t ∧ Halts s t c.val i.val 0x0A := by
  subst hu hk
  obtain ⟨t, ht, halt, -⟩ := control_halts h (q := .branch c i) (cause := 0x0A) rfl (by
    rw [doBranch]
    dsimp only
    rw [branchTaken_turned, yes, if_pos rfl, pc_turned h.lt, ← ha, inBodies_turned h.lt, outside]
    rfl)
  exact ⟨t, ht, halt⟩

end

/-! ### LOOP (R182) -/

/-- A stream once a LOOP has written its level and its base. -/
def loopPut (d : BitVec 256) (l : LoopLevel) (v : BitVec 48) (x : Stream) : Stream :=
  setBr { x with loops := x.loops.setIfInBounds (dfield d 32 2) l } (dfield d 90 3) v

theorem loopPut_eq (d : BitVec 256) (l : LoopLevel) (v : BitVec 48) (x : Stream) : loopPut d l v x =
    { x with loops := x.loops.setIfInBounds (dfield d 32 2) l, br := (setBr x (dfield d 90 3) v).br } := by
  unfold loopPut setBr
  split <;> rfl

section
variable {s : State} {c : Core} {i : SlotNo} {d : BitVec 256} {a : BitVec 48} {u : Stream} {k : PCore} {l : LoopLevel}

theorem armLevel_turned (h : Stands s c.val i.val opLoop d) : armLevel (getStream (getC (turned s c.val i.val d) c.val) i.val) d =
    armLevel (getStream (getC s c.val) i.val) d := by
  rw [turned_own, getStream_turnedCore h.lt]
  rfl

theorem loop_held (h : Stands s c.val i.val opLoop d) (held : armLevel (getStream (getC s c.val) i.val) d = none) :
    ∃ t, exec (.loop c i) s = .next t ∧ Halts s t c.val i.val 0x0A := by
  obtain ⟨t, ht, halt, -⟩ := control_halts h (q := .loop c i) (cause := 0x0A) rfl (by
    rw [doLoop]
    dsimp only
    rw [armLevel_turned h, held])
  exact ⟨t, ht, halt⟩

/-- R182: a LOOP writes its level and its base, and its stream goes on. -/
theorem loop_puts {m : LoopLevel} {v : BitVec 48} (h : Stands s c.val i.val opLoop d) (hu : u = getStream (getC s c.val) i.val)
    (hk : k = headed (getC s c.val) d) (next : doLoop c.val i.val (turned s c.val i.val d) d =
      completeTo (modC (turned s c.val i.val d) c.val fun q => modStream q i.val (loopPut d m v)) c.val i.val d a) :
    ∃ t, exec (.loop c i) s = .next t ∧ Advances s t c.val i.val a ∧
      (getStream (getC t c.val) i.val).loops = u.loops.setIfInBounds (dfield d 32 2) m ∧
      (getStream (getC t c.val) i.val).br = (setBr u (dfield d 90 3) v).br ∧ (getC t c.val).sems = (signalled k d).sems := by
  subst hu hk
  have own := getStream_turnedCore h.lt s c.val d
  have put := coreTo_modC [.ctxs] (turned s c.val i.val d) c.val fun q => modStream q i.val (loopPut d m v)
  rw [turned_own] at put
  have here : getStream (modStream (turnedCore s c.val i.val d) i.val (loopPut d m v)) i.val = _ :=
    (getStream_modStream_same _ h.lt _).trans (loopPut_eq d m v _)
  have whole := completes_core (i := i.val) (d := d) put a
  obtain ⟨t, ht, -, adv, core⟩ := control_lands h (q := .loop c i) rfl
    (attends_modStream h.lt _ _ (by rw [loopPut_eq]; exact ⟨rfl, rfl, rfl, rfl⟩)) (next ▸ whole)
  rw [own] at here
  refine ⟨t, ht, adv, ?_, ?_, ?_⟩
  · rw [core, getStream_landed h.lt, here]
    rfl
  · rw [core, getStream_landed h.lt, here]
    show (setBr _ _ _).br = _
    unfold setBr
    split <;> rfl
  · rw [core, landed_sems]
    exact signalled_sems (c := modStream (turnedCore s c.val i.val d) i.val (loopPut d m v)) (turnedCore_sems s c.val i.val d) d

theorem loop_ends (h : Stands s c.val i.val opLoop d) (hu : u = getStream (getC s c.val) i.val) (hk : k = headed (getC s c.val) d)
    (hl : armLevel u d = some l) (last : l.ctr = 1) : ∃ t, exec (.loop c i) s = .next t ∧ Advances s t c.val i.val (u.pc + 32) ∧
      (getStream (getC t c.val) i.val).loops = u.loops.setIfInBounds (dfield d 32 2) { l with ctr := 0, active := false } ∧
      (getStream (getC t c.val) i.val).br = (setBr u (dfield d 90 3) l.entry).br ∧ (getC t c.val).sems = (signalled k d).sems := by
  refine loop_puts h hu hk ?_
  have level := armLevel_turned h
  rw [← hu, hl] at level
  have pc : (getStream (getC (modC (turned s c.val i.val d) c.val fun q => modStream q i.val (loopPut d
      { l with ctr := 0, active := false } l.entry)) c.val) i.val).pc = u.pc := by
    rw [getC_modC_same, getStream_modStream_same _ h.lt, loopPut_eq, turned_own, getStream_turnedCore h.lt, hu]
  rw [doLoop]
  dsimp only
  rw [level]
  dsimp only
  rw [last, if_pos (by decide), completeNext, ← pc]
  rfl

theorem loop_turns (h : Stands s c.val i.val opLoop d) (hu : u = getStream (getC s c.val) i.val) (hk : k = headed (getC s c.val) d)
    (hl : armLevel u d = some l) (more : l.ctr ≠ 1) : ∃ t, exec (.loop c i) s = .next t ∧
      Advances s t c.val i.val (targetOf u.pc (dfield d 66 24)) ∧
      (getStream (getC t c.val) i.val).loops = u.loops.setIfInBounds (dfield d 32 2) { l with ctr := l.ctr - 1 } ∧
      (getStream (getC t c.val) i.val).br =
        (setBr u (dfield d 90 3) (getBr u (dfield d 90 3) + BitVec.ofInt 48 (signed (dfield d 93 32) 32))).br ∧
      (getC t c.val).sems = (signalled k d).sems := by
  refine loop_puts h hu hk ?_
  have level := armLevel_turned h
  have here : getStream (getC (turned s c.val i.val d) c.val) i.val = _ := (congrArg (getStream · i.val) (turned_own s c.val i.val d)).trans
    (getStream_turnedCore h.lt s c.val d)
  rw [← hu] at level here
  rw [hl] at level
  have left : ¬ l.ctr - 1 = 0 := fun z => more (by bv_omega)
  rw [doLoop]
  dsimp only
  rw [level]
  dsimp only
  rw [if_neg left, here]
  rfl

end

end Sys2Proof.Machine
end

section
-- One proof after the other: a text of this length has more proofs waiting at once than the check has threads for.
set_option Elab.async false
/-! PROOFS. SIGNAL, the arrival of a signal, and descriptors that are malformed or reserved (R174, R175, R178). -/

namespace Sys2Proof.Machine

section
variable {s : State} {c : Core} {i : SlotNo} {d : BitVec 256} {u : Stream} {k : PCore} {m : Nat}

theorem signal_counts (h : Stands s c.val i.val opSignal d) (hu : u = getStream (getC s c.val) i.val) (hk : k = headed (getC s c.val) d)
    (hm : m = dfield d 54 8) (own_ : m = 0xFF ∨ m = c.val) :
    ∃ t, exec (.signal c i) s = .next t ∧ Advances s t c.val i.val (u.pc + 32) ∧ t.fab = s.fab ∧
      (getC t c.val).sems = (signalled (semAdd k (dfield d 32 6) (dfield d 38 16)) d).sems := by
  subst hu hk hm
  obtain ⟨g, hg⟩ : ∃ g : PCore → PCore, g = fun q => semAdd q (dfield d 32 6) (dfield d 38 16) := ⟨_, rfl⟩
  have added := coreTo_modC [.ctxs] (turned s c.val i.val d) c.val g
  rw [turned_own] at added
  have kept : Attends i.val (turnedCore s c.val i.val d) (g (turnedCore s c.val i.val d)) := by
    rw [hg]
    exact attends_semAdd _ _ _ _
  have pc : (getStream (getC (modC (turned s c.val i.val d) c.val g) c.val) i.val).pc = (getStream (getC s c.val) i.val).pc := by
    rw [added.own, kept.pc, ← turned_own, pc_turned h.lt]
  have whole := completes_core (i := i.val) (d := d) added ((getStream (getC s c.val) i.val).pc + 32)
  have next : doSignal c.val i.val (turned s c.val i.val d) d =
      completeTo (modC (turned s c.val i.val d) c.val g) c.val i.val d ((getStream (getC s c.val) i.val).pc + 32) := by
    unfold doSignal
    dsimp only
    rw [if_pos own_, completeNext, ← pc, hg]
    rfl
  obtain ⟨t, ht, kt, adv, core⟩ := control_lands h (q := .signal c i) rfl kept (next ▸ whole)
  refine ⟨t, ht, adv, ?_, ?_⟩
  · rw [next] at kt
    exact kt.out.fab.trans (Eq.trans (whole.frame .fab (by decide)) ((turned_core [] s c.val i.val d).frame .fab (by decide)))
  · rw [core, landed_sems, hg]
    exact signalled_sems (semAdd_sems (turnedCore_sems s c.val i.val d) _ _) d

theorem turned_ctx (s : State) (n i : Nat) (d : BitVec 256) (m : Nat) : (getC (turned s n i d) m).ctx = (getC s m).ctx := by
  have turn := turned_core [] s n i d
  by_cases hm : physOf s m = physOf s n
  · have same : ∀ r, physOf r m = physOf r n → getC r m = getC r n := fun r hr => by rw [getC, hr, getC]
    rw [same _ hm, same _ (by rw [turn.place, turn.place, hm]), turn.own]
    obtain ⟨x, hx⟩ := headed_eq (passTurn (fun j => (readyNext s n j).isSome) i (getC s n)) d
    rw [hx]
    rfl
  · rw [getC, turn.place, turn.others _ hm, getC]

/-- What SIGNAL sees of the other core. -/
theorem signal_sees (h : Stands s c.val i.val opSignal d) (hu : u = getStream (getC s c.val) i.val) (m : Nat) :
    corePart (turned s c.val i.val d) m = corePart s m ∧ inService (turned s c.val i.val d) m = inService s m ∧
    (getC (turned s c.val i.val d) m).ctx = (getC s m).ctx ∧ (getStream (getC (turned s c.val i.val d) c.val) i.val).ctx = u.ctx := by
  have turn := turned_core [] s c.val i.val d
  refine ⟨?_, turn.serves (by decide) m, turned_ctx _ _ _ _ _, ?_⟩
  · rw [corePart, corePart, turn.frame .hub (by decide)]
  · rw [turned_own, getStream_turnedCore h.lt, hu]

theorem signal_sends (h : Stands s c.val i.val opSignal d) (hu : u = getStream (getC s c.val) i.val) (hk : k = headed (getC s c.val) d)
    (hm : m = dfield d 54 8) (all : m ≠ 0xFF) (other : m ≠ c.val) (part : corePart s m = corePart s c.val) (serves : inService s m = true)
    (ctx : (getC s m).ctx = some u.ctx) :
    ∃ t, exec (.signal c i) s = .next t ∧ Advances s t c.val i.val (u.pc + 32) ∧
      t.fab.sigs = s.fab.sigs ++ [(m, d.extractLsb' 32 6, BitVec.ofNat 32 (dfield d 38 16))] ∧
      (getC t c.val).sems = (signalled k d).sems := by
  obtain ⟨seenPart, seenServes, seenCtx, ownCtx⟩ := signal_sees h hu m
  have ownPart := (signal_sees h hu c.val).1
  subst hu hk
  have turn := turned_core [] s c.val i.val d
  obtain ⟨g, hg⟩ : ∃ g : Fabric → Fabric,
    g = fun f => { f with sigs := f.sigs ++ [(m, d.extractLsb' 32 6, BitVec.ofNat 32 (dfield d 38 16))] } := ⟨_, rfl⟩
  obtain ⟨w, hw⟩ : ∃ w, w = modFab (turned s c.val i.val d) g := ⟨_, rfl⟩
  have sent : CoreTo [.fab, .engines, .ports, .ctxs] c.val (turned s c.val i.val d) w (turnedCore s c.val i.val d) := by
    rw [hw]
    exact ⟨(frame_modFab _ g).mono, turned_own s c.val i.val d, fun _ _ => rfl⟩
  have landing := completeTo_core w c.val i.val d ((getStream (getC s c.val) i.val).pc + 32)
  rw [sent.own] at landing
  have whole := sent.trans (landing.mono (m := [.fab, .engines, .ports, .ctxs]))
  have next : doSignal c.val i.val (turned s c.val i.val d) d = completeTo w c.val i.val d ((getStream (getC s c.val) i.val).pc + 32) := by
    unfold doSignal
    dsimp only
    rw [← hm, if_neg (by rintro (x | x); exact all x; exact other x), seenPart, ownPart, part, seenServes, serves, seenCtx, ctx, ownCtx]
    simp only [bne_self_eq_false, Bool.false_eq_true, ↓reduceIte, Bool.not_true]
    rw [← hg, ← hw, completeNext, sent.own, ← turned_own, pc_turned h.lt]
  obtain ⟨t, ht, kt, adv, core⟩ := control_lands h (q := .signal c i) rfl (.refl _ _) (next ▸ whole)
  refine ⟨t, ht, adv, ?_, ?_⟩
  · rw [next] at kt
    rw [kt.out.fab, landing.frame .fab (by decide), hw, modFab_fab, turn.frame .fab (by decide), hg]
  · rw [core, landed_sems]
    exact signalled_sems (turnedCore_sems s c.val i.val d) d

theorem signal_strays (h : Stands s c.val i.val opSignal d) (hu : u = getStream (getC s c.val) i.val) (hm : m = dfield d 54 8)
    (all : m ≠ 0xFF) (other : m ≠ c.val)
    (stray : corePart s m ≠ corePart s c.val ∨ inService s m = true ∧ (getC s m).ctx ≠ some u.ctx) :
    ∃ t, exec (.signal c i) s = .next t ∧ Halts s t c.val i.val 0x05 ∧ t.fab = s.fab := by
  obtain ⟨seenPart, seenServes, seenCtx, ownCtx⟩ := signal_sees h hu m
  have ownPart := (signal_sees h hu c.val).1
  refine control_halts h rfl ?_
  unfold doSignal
  dsimp only
  rw [← hm, if_neg (by rintro (x | x); exact all x; exact other x), seenPart, ownPart, seenServes, seenCtx, ownCtx]
  by_cases part : corePart s m = corePart s c.val
  · obtain ⟨serves, ctx⟩ := stray.resolve_left (absurd part)
    simp only [part, serves, bne_self_eq_false, Bool.false_eq_true, ↓reduceIte, Bool.not_true, bne_iff_ne.mpr ctx]
  · rw [if_pos (bne_iff_ne.mpr part)]

theorem signal_lost (h : Stands s c.val i.val opSignal d) (hu : u = getStream (getC s c.val) i.val) (hm : m = dfield d 54 8)
    (all : m ≠ 0xFF) (other : m ≠ c.val) (part : corePart s m = corePart s c.val) (out : inService s m = false) :
    ∃ t, exec (.signal c i) s = .next t ∧ Halts s t c.val i.val 0x08 ∧ t.fab = s.fab := by
  obtain ⟨seenPart, seenServes, seenCtx, ownCtx⟩ := signal_sees h hu m
  have ownPart := (signal_sees h hu c.val).1
  refine control_halts h rfl ?_
  unfold doSignal
  dsimp only
  rw [← hm, if_neg (by rintro (x | x); exact all x; exact other x), seenPart, ownPart, seenServes, part, out]
  simp only [bne_self_eq_false, Bool.false_eq_true, ↓reduceIte, Bool.not_false]

end

/-! ### A signal arrives (R177, R178) -/

theorem done_atRest {s : State} (rest : AtRest s) : done s = .next s := by rw [done_next, settle_atRest rest]

section
variable {s : State} {c : Core} {m : Nat} {g : BitVec 6} {v : BitVec 32}

theorem peerSignal_counts (h : s.fab.sigs.find? (fun x => x.1 == c.val) = some (m, g, v)) (serves : inService s c.val = true)
    (free : NoneBlocked s c.val) : Leads (.peerSignalArrival c) s
      (modC (modFab s fun f => { f with sigs := f.sigs.erase (m, g, v) }) c.val fun q => semAdd q g.toNat v.toNat) := by
  refine leads_done ?_ (.refl _)
  show done (peerSignal s c.val) = _
  unfold peerSignal
  rw [h]
  dsimp only
  have serves' : inService (modFab s fun f => { f with sigs := f.sigs.erase (m, g, v) }) c.val = true := serves
  rw [if_pos serves']
  exact congrArg done (wakeCore_semAdd (s := modFab s fun f => { f with sigs := f.sigs.erase (m, g, v) }) free _ _)

theorem peerSignal_drops (h : s.fab.sigs.find? (fun x => x.1 == c.val) = some (m, g, v)) (out : inService s c.val = false) :
    Leads (.peerSignalArrival c) s (modFab s fun f => { f with sigs := f.sigs.erase (m, g, v) }) := by
  refine leads_done ?_ (.refl _)
  show done (peerSignal s c.val) = _
  unfold peerSignal
  rw [h]
  dsimp only
  have out' : ¬ inService (modFab s fun f => { f with sigs := f.sigs.erase (m, g, v) }) c.val = true := by
    rw [show inService (modFab s fun f => { f with sigs := f.sigs.erase (m, g, v) }) c.val = inService s c.val from rfl, out]
    exact Bool.false_ne_true
  rw [if_neg out']

theorem peerSignal_none (rest : AtRest s) (h : s.fab.sigs.find? (fun x => x.1 == c.val) = none) :
    exec (.peerSignalArrival c) s = .next s := by
  show done (peerSignal s c.val) = _
  unfold peerSignal
  rw [h, done_atRest rest]

end

/-! ### Malformed and reserved descriptors (R174, R175) -/

section
variable {s : State} {n i op : Nat} {d : BitVec 256} {q : Instr} {act : State → BitVec 256 → State} {cause : BitVec 8}

theorem issueControl_rejects (h : issuable s n i op = some d) (bad : controlBad d = some cause) :
    issueControl op act s n i = rejectDesc s n i d cause := by
  unfold issueControl
  rw [h]
  dsimp only
  rw [bad]

theorem issueControl_none (h : issuable s n i op = none) : issueControl op act s n i = s := by
  unfold issueControl
  rw [h]

/-- R175: what rejects a descriptor halts its stream, and its semaphores stay. -/
theorem rejects_halts (h : issuable s n i op = some d) (run : exec q s = done (rejectDesc s n i d cause)) :
    ∃ t, exec q s = .next t ∧ Halts s t n i cause ∧ (getC t n).sems = (getC s n).sems := by
  obtain ⟨halt, sems⟩ := rejectDesc_halts (issuable_runs h) d cause
  have k := settle_settled (rejectDesc s n i d cause)
  exact ⟨_, run, halt.of_settled k, by rw [getC_settled k, sems]⟩

theorem noLockout_rejectDesc (calm : NoLockout s) (h : issuable s n i op = some d) : NoLockout (rejectDesc s n i d cause) := fun k => by
  rw [getCtx_congr (rejectDesc_halts (issuable_runs h) d cause).1.ctxs]
  exact calm k

/-- R181: a LAUNCH_AT that could issue has its next descriptor. -/
theorem following_of_issuable (h : issuable s n i opLaunchAt = some d) : ∃ e, followingDesc s n i = some e := by
  obtain ⟨op, next, -⟩ := issuable_some h
  obtain ⟨-, -, -, -, room⟩ := readyNext_some next
  unfold hasRoom at room
  dsimp only at room
  rw [if_pos op] at room
  cases he : followingDesc s n i with
  | some e => exact ⟨e, rfl⟩
  | none =>
    unfold followingDesc at he
    dsimp only at he
    rw [he] at room
    cases room

theorem issueLaunchAt_rejects (h : issuable s n i opLaunchAt = some d) (bad : controlBad d = some cause) :
    issueLaunchAt s n i = rejectDesc s n i d cause := by
  obtain ⟨e, he⟩ := following_of_issuable h
  unfold issueLaunchAt
  rw [he, h]
  dsimp only
  rw [bad]
  exact issueControl_rejects h bad

theorem issueLaunchAt_none (h : issuable s n i opLaunchAt = none) : issueLaunchAt s n i = s := by
  unfold issueLaunchAt
  rw [h]
  cases followingDesc s n i <;> rfl

/-- R174: an opcode outside the table. -/
theorem reserved_halts {c : Core} {i : SlotNo} (h : issuable s c.val i.val (opcodeOf d) = some d) (out : opcodes.contains (opcodeOf d) = false) :
    ∃ t, exec (.reservedOpcode c i) s = .next t ∧ Halts s t c.val i.val 0x01 ∧ (getC t c.val).sems = (getC s c.val).sems := by
  refine rejects_halts h ?_
  show done (reservedStep s c.val i.val) = _
  unfold reservedStep
  dsimp only
  rw [(readyNext_some (issuable_some h).2.1).2.2.1]
  dsimp only
  rw [out, h]
  rfl

theorem reserved_rests {c : Core} {i : SlotNo} (rest : AtRest s)
    (known : ∀ e, readyNext s c.val i.val = some e → opcodes.contains (opcodeOf e) = true) : exec (.reservedOpcode c i) s = .next s := by
  have still : reservedStep s c.val i.val = s := by
    unfold reservedStep
    dsimp only
    split
    · rename_i e he
      by_cases hk : opcodes.contains (opcodeOf e) = true
      · rw [hk]
        rfl
      · have idle : issuable s c.val i.val (opcodeOf e) = none := by
          by_contra hi
          obtain ⟨d, hd⟩ := Option.ne_none_iff_exists'.mp hi
          have next := (issuable_some hd).2.1
          have same := Option.some.inj (he.symm.trans (readyNext_some next).2.2.1)
          exact hk (same ▸ known d next)
        rw [idle]
        simp
    · rfl
  show done (reservedStep s c.val i.val) = _
  rw [still, done_atRest rest]

end

/-- The control descriptors: a malformed one halts its stream, one that is not the next does nothing. -/
theorem control_bounds {s : State} {d : BitVec 256} (calm : NoLockout s) (c : Core) (i : SlotNo) (x : Option (Fin 4)) :
    ∀ q ∈ [(Instr.wait c i, opWait), (.signal c i, opSignal), (.fence c i, opFence), (.loop c i, opLoop), (.branch c i, opBranch),
        (.setbase c i, opSetbase), (.waitLow c i x, opWaitLow), (.endStream c i, opEnd), (.launchAt c i, opLaunchAt)],
      (∀ e, issuable s c.val i.val q.2 = some d → controlBad d = some e →
        ∃ t, exec q.1 s = .next t ∧ Halts s t c.val i.val e ∧ (getC t c.val).sems = (getC s c.val).sems) ∧
      (issuable s c.val i.val q.2 = none → AtRest s → exec q.1 s = .next s) := by
  have each : ∀ (q : Instr) (op : Nat) (act : State → BitVec 256 → State), exec q s = done (issueControl op act s c.val i.val) →
      (∀ e, issuable s c.val i.val op = some d → controlBad d = some e →
        ∃ t, exec q s = .next t ∧ Halts s t c.val i.val e ∧ (getC t c.val).sems = (getC s c.val).sems) ∧
      (issuable s c.val i.val op = none → AtRest s → exec q s = .next s) := fun q op act run =>
    ⟨fun e h bad => rejects_halts h (by rw [run, issueControl_rejects h bad]),
      fun h rest => by rw [run, issueControl_none h, done_atRest rest]⟩
  intro q hq
  simp only [List.mem_cons, List.not_mem_nil, or_false] at hq
  rcases hq with rfl | rfl | rfl | rfl | rfl | rfl | rfl | rfl | rfl
  · exact each _ _ _ rfl
  · exact each _ _ _ rfl
  · exact each _ _ _ rfl
  · exact each _ _ _ rfl
  · exact each _ _ _ rfl
  · exact each _ _ _ rfl
  · exact each _ _ _ rfl
  · refine ⟨fun e h bad => rejects_halts h ?_, fun h rest => ?_⟩
    · show doneMem (issueControl opEnd (doEnd c.val i.val) s c.val i.val) = _
      rw [issueControl_rejects h bad, doneMem_eq (noLockout_rejectDesc calm h)]
    · show doneMem (issueControl opEnd (doEnd c.val i.val) s c.val i.val) = _
      rw [issueControl_none h, doneMem_eq calm, done_atRest rest]
  · refine ⟨fun e h bad => rejects_halts h (congrArg done (issueLaunchAt_rejects h bad)), fun h rest => ?_⟩
    exact (congrArg done (issueLaunchAt_none h)).trans (done_atRest rest)

/-- Settles O52: each descriptor takes effect on the core that has the turn, and completes or halts its stream. -/
theorem controlDescriptorsAct : Obligations.ControlDescriptorsAct := by
  intro c i s d p k u a hp hu hk
  subst hp
  refine ⟨fun h => ?_, fun h ha => ?_, fun h => ?_, fun h m hm => ?_, fun m g v h => ?_, peerSignal_none, reserved_halts, reserved_rests,
    fun calm x => control_bounds calm c i x⟩
  · subst hu hk
    exact setbase_loads h
  · exact ⟨branch_passes h hu hk, branch_jumps h hu hk ha, branch_leaves h hu hk ha⟩
  · exact ⟨fun held => loop_held h (hu ▸ held), fun l hl => ⟨loop_ends h hu hk hl, loop_turns h hu hk hl⟩⟩
  · exact ⟨signal_counts h hu hk hm, signal_sends h hu hk hm, signal_strays h hu hm, signal_lost h hu hm⟩
  · exact ⟨peerSignal_counts h, peerSignal_drops h⟩

end Sys2Proof.Machine
end

section
-- One proof after the other: a text of this length has more proofs waiting at once than the check has threads for.
set_option Elab.async false
/-! PROOFS. The fetch of descriptors (R170, R175, R189, R190, R215, R216, R219). -/

namespace Sys2Proof.Machine

section
variable {s t u : State} {n i : Nat} {a : BitVec 48} {ahead : Bool} {l : Nat}

/-- R188: looking a page up moves the core's translation cache and its count of misses alone. -/
theorem useXlat_core (s : State) (n ctx : Nat) (va : BitVec 48) : ∃ x m,
    CoreTo [] n s (useXlat s n ctx va) { getC s n with xlat := x, cnt := { (getC s n).cnt with xlatMiss := m } } := by
  have missed := coreTo_modC [] s n fun q => { q with cnt := { q.cnt with xlatMiss := q.cnt.xlatMiss + 1 } }
  unfold useXlat
  dsimp only
  split
  · exact ⟨_, _, coreTo_modC [] s n fun q => cacheXlat q (va.toNat / 2 ^ 21)⟩
  · split
    · exact ⟨_, _, .refl [] n s⟩
    · exact ⟨_, _, missed⟩
    · exact ⟨_, _, missed.modC fun q => cacheXlat q (va.toNat / 2 ^ 21)⟩

/-- R170: a fetch by a stream whose core works. -/
theorem fetchStep_fetches (work : sequencing s n = true) (runs : (getStream (getC s n) i).st = .running)
    (asks : (if ahead then aheadAddr (getStream (getC s n) i) else demandAddr (getStream (getC s n) i)) = some a) :
    fetchStep s n i ahead l = fetchBlock s n i a ahead l := by
  unfold fetchStep
  dsimp only
  rw [work, runs, asks]
  rfl

theorem fetchStep_rests (h : sequencing s n = false ∨ (getStream (getC s n) i).st ≠ .running ∨
    (if ahead then aheadAddr (getStream (getC s n) i) else demandAddr (getStream (getC s n) i)) = none) : fetchStep s n i ahead l = s := by
  unfold fetchStep
  dsimp only
  split
  · rename_i works
    obtain ⟨work, runs⟩ := Bool.and_eq_true_iff.mp works
    rcases h with h | h | h
    · rw [h] at work
      cases work
    · exact absurd (beq_iff_eq.mp runs) h
    · rw [h]
  · rfl

/-- The state in which a fetch has looked its page up. -/
def fetching (s : State) (n i : Nat) (a : BitVec 48) : State := useXlat s n (getStream (getC s n) i).ctx (blockAddr a)

theorem fetching_core (s : State) (n i : Nat) (a : BitVec 48) : ∃ x m,
    CoreTo [] n s (fetching s n i a) { getC s n with xlat := x, cnt := { (getC s n).cnt with xlatMiss := m } } := useXlat_core s n _ _

theorem fetching_kept (s : State) (n i : Nat) (a : BitVec 48) : Attends i (getC s n) (getC (fetching s n i a) n) ∧
    (∀ k, getStream (getC (fetching s n i a) n) k = getStream (getC s n) k) ∧ (getC (fetching s n i a) n).sems = (getC s n).sems ∧
    (getC (fetching s n i a) n).errValid = (getC s n).errValid ∧ (getC (fetching s n i a) n).err = (getC s n).err ∧
    (getC (fetching s n i a) n).cnt.raDrop = (getC s n).cnt.raDrop := by
  obtain ⟨x, m, h⟩ := fetching_core s n i a
  rw [h.own]
  exact ⟨attends_of_streams i rfl ⟨rfl, rfl, rfl⟩, fun _ => rfl, rfl, rfl, rfl, rfl⟩

theorem fetching_frame (s : State) (n i : Nat) (a : BitVec 48) : AllBut [.slots] s (fetching s n i a) := by
  obtain ⟨x, m, h⟩ := fetching_core s n i a
  exact h.frame

theorem fetching_page (s : State) (n i : Nat) (a : BitVec 48) (c : Nat) (b : BitVec 48) : translate (fetching s n i a) c b = translate s c b :=
  (PlacesAlike.of_frame (fetching_frame s n i a)).translate c b

/-- A page that a fetch may not read. -/
theorem fetchBlock_refused {cause : BitVec 8} (h : translate s (getStream (getC s n) i).ctx (blockAddr a) = .unmapped ∧ cause = 0x06 ∨
      (translate s (getStream (getC s n) i).ctx (blockAddr a) ≠ .unmapped ∧
        ∀ q g o f w, translate s (getStream (getC s n) i).ctx (blockAddr a) ≠ .localPage q g o f w) ∧ cause = 0x05) :
    fetchBlock s n i a ahead l = if ahead then countDrop (fetching s n i a) n else haltStream (fetching s n i a) n i cause 0 a := by
  unfold fetchBlock
  dsimp only
  rw [← fetching, fetching_page]
  cases page : translate s (getStream (getC s n) i).ctx (blockAddr a) with
  | unmapped =>
    rcases h with ⟨-, rfl⟩ | ⟨⟨no, -⟩, -⟩
    · rfl
    · exact absurd page no
  | localPage q g o f w =>
    rcases h with ⟨no, -⟩ | ⟨⟨-, no⟩, -⟩
    · rw [page] at no
      cases no
    · exact absurd page (no q g o f w)
  | _ =>
    rcases h with ⟨no, -⟩ | ⟨-, rfl⟩
    · rw [page] at no
      cases no
    · rfl

/-- A page that a fetch may read, without a token. -/
theorem fetchBlock_held {part pg off : Nat} {e wr : Bool} (page : translate s (getStream (getC s n) i).ctx (blockAddr a) = .localPage part pg off e wr)
    (out : takeTokens (fetching s n i a) (n / 32) 0 1 = none) : fetchBlock s n i a ahead l = holdTokens (fetching s n i a) (n / 32) 0 := by
  unfold fetchBlock
  dsimp only
  rw [← fetching, fetching_page, page]
  dsimp only
  rw [out]

/-- What a fetch does with the block it has read. -/
def blockRead (s : State) (n i : Nat) (a : BitVec 48) (ahead : Bool) (l : Nat) (b : Block) : State :=
  if l < 2 && blockOk b then putBlock s n i { addr := blockAddr a, data := some b.data }
  else if ahead then putBlock s n i { addr := blockAddr a, data := none }
  else haltStream s n i 0x09 0 a

theorem fetchBlock_reads {part pg off : Nat} {e wr : Bool} {v : State}
    (page : translate s (getStream (getC s n) i).ctx (blockAddr a) = .localPage part pg off e wr)
    (paid : takeTokens (fetching s n i a) (n / 32) 0 1 = some v) : fetchBlock s n i a ahead l =
      blockRead (readLocal v (getStream (getC s n) i).ctx part pg off e).1 n i a ahead l
        (readLocal v (getStream (getC s n) i).ctx part pg off e).2 := by
  unfold fetchBlock
  dsimp only
  rw [← fetching, fetching_page, page]
  dsimp only
  rw [paid]
  rfl

/-- The block that a fetch reads, and what the read leaves. -/
theorem fetch_reads {part pg off ch byte pos : Nat} {e wr : Bool} {bs : Bytes}
    (place : placeByte s part pg off = (ch, byte)) (hpos : pos = servePos s ch (byte / 4096) false) (none_ : NoInjection s)
    (open_ : isConf s (getCtx s (getStream (getC s n) i).ctx).part = false) (paid : (takeTokens s (n / 32) 0 1).isSome = true)
    (hbs : bs = memRead s.mem.cells (cellAddr pos (byte / 256 * 256)) 256) (good : mapGet s.mem.bad (blockKey pos (byte / 256)) 0 = 0)
    (page : translate s (getStream (getC s n) i).ctx (blockAddr a) = .localPage part pg off e wr) :
    ∃ v b, (∀ ahead l, fetchBlock s n i a ahead l = blockRead v n i a ahead l b) ∧ blockOk b = true ∧ b.data = bs ∧
      CoreTo [.mem] n s v (getC (fetching s n i a) n) := by
  have looked := fetching_frame s n i a
  have paid' := (takeTokens_isSome_congr (d := n / 32) (cls := 0) (b := 1) (looked .hub (by decide)) (looked .mem (by decide))).trans paid
  obtain ⟨w, hw⟩ := Option.isSome_iff_exists.mp paid'
  have tokens := takeTokens_mem hw
  have alike : PlacesAlike s w := (PlacesAlike.of_frame looked).trans (placesAlike_tokens hw)
  have frame := frame_takeTokens hw
  have calm : NoInjection w := fun j => by
    rw [injectAt, frame .diag (by decide), looked .diag (by decide)]
    exact none_ j
  have open' : isConf w (getCtx w (getStream (getC s n) i).ctx).part = false := by
    rw [isConf_congr alike.hub, getCtx_congr alike.ctxs]
    exact open_
  have cells : w.mem.cells = s.mem.cells := by rw [tokens, looked .mem (by decide)]
  have bad : w.mem.bad = s.mem.bad := by rw [tokens, looked .mem (by decide)]
  have read := readLocal_at (e := e) calm ((alike.placeByte part pg off).trans place) open'
  rw [alike.servePos, ← hpos, cells, bad, good, ← hbs] at read
  obtain ⟨x, m, core⟩ := fetching_core s n i a
  have stands : CoreTo [.mem] n s (fetching s n i a) (getC (fetching s n i a) n) := ⟨core.frame.mono, rfl, core.others⟩
  refine ⟨modCtrl w pos (rdNoted (byte / 256) 0 false), ⟨bs, crc32c bs ^^^ 0⟩, fun ahead l => (fetchBlock_reads page hw).trans (by rw [read]),
    ?_, rfl, stands.then (frame.trans (frame_modCtrl w pos _))⟩
  exact beq_iff_eq.mpr (BitVec.xor_zero).symm

end

/-! ### What a fetch leaves -/

section
variable {s v u t : State} {n i : Nat} {a : BitVec 48} {c : Core} {j : SlotNo} {ahead : Bool} {l : Fin 3} {x : Stream}

theorem fetch_runs (calm : NoLockout s) (work : sequencing s c.val = true) (runs : (getStream (getC s c.val) j.val).st = .running)
    (asks : (if ahead then aheadAddr (getStream (getC s c.val) j.val) else demandAddr (getStream (getC s c.val) j.val)) = some a)
    (ctxs : (fetchBlock s c.val j.val a ahead l.val).ctxs = s.ctxs) : ∃ t, exec (.descriptorFetch c j ahead l) s = .next t ∧
      Settled (fetchBlock s c.val j.val a ahead l.val) t := by
  have still : NoLockout (fetchBlock s c.val j.val a ahead l.val) := fun k => by
    rw [getCtx_congr ctxs]
    exact calm k
  refine ⟨_, ?_, settle_settled _⟩
  show doneMem (fetchStep s c.val j.val ahead l.val) = _
  rw [fetchStep_fetches work runs asks, doneMem_eq still, done_next]

theorem putBlock_core (s : State) (n i : Nat) (f : Fetched) : CoreTo [.mem] n s (putBlock s n i f)
    (modStream (getC s n) i fun t => { t with blocks := f :: t.blocks.filter fun b => b.addr != f.addr }) :=
  coreTo_modC [.mem] s n fun c => modStream c i fun t => { t with blocks := f :: t.blocks.filter fun b => b.addr != f.addr }

/-- A block that a fetch has brought, or lost ahead, stands in its stream. -/
theorem fetch_puts {f : Fetched} (hi : i < 16) (stands : CoreTo [.mem] n s v (getC (fetching s n i a) n)) (k : Settled (putBlock v n i f) t) :
    t.mem.cells = s.mem.cells ∧ t.ctxs = s.ctxs ∧ getStream (getC t n) i = { getStream (getC s n) i with
        blocks := f :: (getStream (getC s n) i).blocks.filter fun b => b.addr != f.addr } ∧
      (∀ m, m ≠ i → getStream (getC t n) m = getStream (getC s n) m) ∧ (getC t n).sems = (getC s n).sems ∧
      (getC t n).stage = (getC s n).stage := by
  obtain ⟨kept, streams, sems, -⟩ := fetching_kept s n i a
  have put := putBlock_core v n i f
  rw [stands.own] at put
  have whole := stands.trans put
  rw [getC_settled k, whole.own]
  refine ⟨(congrArg Mem.cells k.out.mem).trans (whole.frame .cells (by decide)), k.out.ctxs.trans (whole.frame .ctxs (by decide)), ?_, ?_,
    sems, kept.data.1⟩
  · rw [getStream_modStream_same _ hi, streams]
  · intro m hm
    rw [getStream_modStream_other _ hm, streams]

/-- R175: a fetch that halts its stream. -/
theorem fetch_halts {m : List Part} {cause : BitVec 8} (runs : (getStream (getC s n) i).st = .running)
    (stands : CoreTo m n s v (getC (fetching s n i a) n)) (hm : Part.hub ∉ Part.slots :: m := by decide) :
    CoreTo m n s (haltStream v n i cause 0 a) (haltCore (getC (fetching s n i a) n) i cause 0 a) := by
  obtain ⟨kept, -⟩ := fetching_kept s n i a
  have runs' : (getStream (getC v n) i).st = .running := by rw [stands.own, kept.st, runs]
  have halt := haltStream_core m runs' (cause := cause) (tag := 0) (a := a)
  rw [stands.own] at halt
  exact stands.trans halt hm

theorem fetching_stands (m : List Part) (s : State) (n i : Nat) (a : BitVec 48) :
    CoreTo m n s (fetching s n i a) (getC (fetching s n i a) n) := by
  obtain ⟨x, y, core⟩ := fetching_core s n i a
  exact ⟨core.frame.mono fun p hp => by
    rw [List.mem_singleton.mp hp]
    exact List.mem_cons_self, rfl, core.others⟩

theorem fetch_refused {cause : BitVec 8} (calm : NoLockout s) (work : sequencing s c.val = true)
    (runs : (getStream (getC s c.val) j.val).st = .running) (asks : demandAddr (getStream (getC s c.val) j.val) = some a)
    (h : translate s (getStream (getC s c.val) j.val).ctx (blockAddr a) = .unmapped ∧ cause = 0x06 ∨
      (translate s (getStream (getC s c.val) j.val).ctx (blockAddr a) ≠ .unmapped ∧
        ∀ q g o f w, translate s (getStream (getC s c.val) j.val).ctx (blockAddr a) ≠ .localPage q g o f w) ∧ cause = 0x05) :
    ∃ t, exec (.descriptorFetch c j false l) s = .next t ∧ Halts s t c.val j.val cause := by
  have eq := fetchBlock_refused (n := c.val) (i := j.val) (ahead := false) (l := l.val) h
  rw [if_neg Bool.false_ne_true] at eq
  have whole := fetch_halts (cause := cause) runs (fetching_stands [] s c.val j.val a)
  obtain ⟨t, ht, k⟩ := fetch_runs (l := l) (ahead := false) calm work runs asks (by
    rw [eq]
    exact whole.frame .ctxs (by decide))
  rw [eq] at k
  obtain ⟨kept, -, -, valid, -⟩ := fetching_kept s c.val j.val a
  exact ⟨t, ht, (halts_of_haltCore runs kept valid whole).of_settled k⟩

theorem fetchAhead_drops (calm : NoLockout s) (work : sequencing s c.val = true) (runs : (getStream (getC s c.val) j.val).st = .running)
    (asks : aheadAddr (getStream (getC s c.val) j.val) = some a)
    (no : ∀ q g o f w, translate s (getStream (getC s c.val) j.val).ctx (blockAddr a) ≠ .localPage q g o f w) :
    ∃ t, exec (.descriptorFetch c j true l) s = .next t ∧ t.mem = s.mem ∧ t.ctxs = s.ctxs ∧
      (∀ k, getStream (getC t c.val) k = getStream (getC s c.val) k) ∧ (getC t c.val).err = (getC s c.val).err ∧
      (getC t c.val).cnt.raDrop = (getC s c.val).cnt.raDrop + 1 := by
  have eq : fetchBlock s c.val j.val a true l.val = countDrop (fetching s c.val j.val a) c.val := by
    by_cases un : translate s (getStream (getC s c.val) j.val).ctx (blockAddr a) = .unmapped
    · exact fetchBlock_refused (.inl ⟨un, rfl⟩)
    · exact fetchBlock_refused (.inr ⟨⟨un, no⟩, rfl⟩)
  obtain ⟨-, streams, -, -, err, drop⟩ := fetching_kept s c.val j.val a
  have whole := (fetching_stands [] s c.val j.val a).modC fun q => { q with cnt := { q.cnt with raDrop := q.cnt.raDrop + 1 } }
  obtain ⟨t, ht, k⟩ := fetch_runs (l := l) (ahead := true) calm work runs asks (by
    rw [eq]
    exact whole.frame .ctxs (by decide))
  rw [eq] at k
  have core : getC t c.val = _ := (getC_settled k c.val).trans whole.own
  refine ⟨t, ht, k.out.mem.trans (whole.frame .mem (by decide)), k.out.ctxs.trans (whole.frame .ctxs (by decide)), fun m => ?_, ?_, ?_⟩
  · rw [core, ← streams m]
    rfl
  · rw [core, ← err]
  · rw [core, ← drop]

theorem fetch_held {part pg off : Nat} {e wr : Bool} (calm : NoLockout s) (work : sequencing s c.val = true)
    (runs : (getStream (getC s c.val) j.val).st = .running)
    (asks : (if ahead then aheadAddr (getStream (getC s c.val) j.val) else demandAddr (getStream (getC s c.val) j.val)) = some a)
    (page : translate s (getStream (getC s c.val) j.val).ctx (blockAddr a) = .localPage part pg off e wr)
    (out : takeTokens s (c.val / 32) 0 1 = none) :
    ∃ t, exec (.descriptorFetch c j ahead l) s = .next t ∧ t.mem.cells = s.mem.cells ∧ t.ctxs = s.ctxs ∧
      (∀ k, getStream (getC t c.val) k = getStream (getC s c.val) k) ∧ (getC t c.val).err = (getC s c.val).err ∧
      (dieOwner s (c.val / 32) < 4 → (getBucket t (dieOwner s (c.val / 32)) 0).held = true) := by
  have looked := fetching_frame s c.val j.val a
  have owner : dieOwner (fetching s c.val j.val a) (c.val / 32) = dieOwner s (c.val / 32) := by
    rw [dieOwner, looked .hub (by decide), dieOwner]
  have out' : takeTokens (fetching s c.val j.val a) (c.val / 32) 0 1 = none := by
    rw [← Option.not_isSome_iff_eq_none, takeTokens_isSome_congr (looked .hub (by decide)) (looked .mem (by decide)), out]
    exact Bool.false_ne_true
  have eq := fetchBlock_held (ahead := ahead) (l := l.val) page out'
  obtain ⟨-, streams, -, -, err, -⟩ := fetching_kept s c.val j.val a
  have whole := (fetching_stands [.mem] s c.val j.val a).then (frame_holdTokens _ (c.val / 32) 0)
  obtain ⟨t, ht, k⟩ := fetch_runs (l := l) (ahead := ahead) calm work runs asks (by
    rw [eq]
    exact whole.frame .ctxs (by decide))
  rw [eq] at k
  have core : getC t c.val = _ := (getC_settled k c.val).trans whole.own
  refine ⟨t, ht, (congrArg Mem.cells k.out.mem).trans (whole.frame .cells (by decide)), k.out.ctxs.trans (whole.frame .ctxs (by decide)),
    fun m => by rw [core, streams], by rw [core, err], fun small => ?_⟩
  rw [getBucket, k.out.mem, ← getBucket, holdTokens, owner, getBucket_setBucket_same _ small (by decide)]

end

section
variable {s : State} {c : Core} {j : SlotNo} {a : BitVec 48} {x : Stream} {part pg off ch byte pos : Nat} {e wr : Bool} {bs : Bytes}

theorem fetch_brings (calm : NoLockout s) (hx : x = getStream (getC s c.val) j.val) (work : sequencing s c.val = true) (runs : x.st = .running)
    (place : placeByte s part pg off = (ch, byte)) (hpos : pos = servePos s ch (byte / 4096) false) (none_ : NoInjection s)
    (open_ : isConf s (getCtx s x.ctx).part = false) (paid : (takeTokens s (c.val / 32) 0 1).isSome = true)
    (hbs : bs = memRead s.mem.cells (cellAddr pos (byte / 256 * 256)) 256) (good : mapGet s.mem.bad (blockKey pos (byte / 256)) 0 = 0)
    (page : translate s x.ctx (blockAddr a) = .localPage part pg off e wr) :
    (demandAddr x = some a →
      (∀ l : Fin 3, l.val < 2 → ∃ t, exec (.descriptorFetch c j false l) s = .next t ∧ t.mem.cells = s.mem.cells ∧ t.ctxs = s.ctxs ∧
        getStream (getC t c.val) j.val = { x with
          blocks := { addr := blockAddr a, data := some bs } :: x.blocks.filter fun b => b.addr != blockAddr a } ∧
        (∀ k, k ≠ j.val → getStream (getC t c.val) k = getStream (getC s c.val) k) ∧
        (getC t c.val).sems = (getC s c.val).sems ∧ (getC t c.val).stage = (getC s c.val).stage) ∧
      (∃ t, exec (.descriptorFetch c j false 2) s = .next t ∧ t.mem.cells = s.mem.cells ∧ t.ctxs = s.ctxs ∧
        (getStream (getC t c.val) j.val).st = .halted ∧ (getStream (getC t c.val) j.val).pc = x.pc ∧
        ((getC s c.val).errValid = false → ∃ y, (getC t c.val).err = some y ∧ y.stream = j.val ∧ y.cause = 0x09))) ∧
    (aheadAddr x = some a → ∀ l : Fin 3, ∃ t, exec (.descriptorFetch c j true l) s = .next t ∧ t.mem.cells = s.mem.cells ∧
      t.ctxs = s.ctxs ∧ getStream (getC t c.val) j.val = { x with
        blocks := { addr := blockAddr a, data := if l.val < 2 then some bs else none } ::
          x.blocks.filter fun b => b.addr != blockAddr a }) := by
  subst hx
  obtain ⟨v, b, reads, ok, data, stands⟩ := fetch_reads place hpos none_ open_ paid hbs good page
  have put : ∀ f, CoreTo [.mem] c.val s (putBlock v c.val j.val f) _ := fun f => stands.trans (stands.own ▸ putBlock_core v c.val j.val f)
  have came : ∀ (ahead : Bool) (l : Fin 3), l.val < 2 → fetchBlock s c.val j.val a ahead l.val =
      putBlock v c.val j.val { addr := blockAddr a, data := some bs } := fun ahead l hl => by
    rw [reads, blockRead, ok, decide_eq_true hl, data]
    rfl
  have lost : ∀ ahead : Bool, fetchBlock s c.val j.val a ahead (2 : Fin 3).val = if ahead then
      putBlock v c.val j.val { addr := blockAddr a, data := none } else haltStream v c.val j.val 0x09 0 a := fun ahead => by
    rw [reads]
    rfl
  refine ⟨fun asks => ⟨fun l hl => ?_, ?_⟩, fun asks l => ?_⟩
  · obtain ⟨t, ht, k⟩ := fetch_runs (l := l) (ahead := false) calm work runs asks (by
      rw [came false l hl]
      exact (put _).frame .ctxs (by decide))
    rw [came false l hl] at k
    exact ⟨t, ht, fetch_puts (running_lt runs) stands k⟩
  · have whole := fetch_halts (cause := 0x09) runs stands
    obtain ⟨t, ht, k⟩ := fetch_runs (l := 2) (ahead := false) calm work runs asks (by
      rw [lost, if_neg Bool.false_ne_true]
      exact whole.frame .ctxs (by decide))
    rw [lost, if_neg Bool.false_ne_true] at k
    obtain ⟨kept, -, -, valid, -⟩ := fetching_kept s c.val j.val a
    have core : getC t c.val = _ := (getC_settled k c.val).trans whole.own
    have own := getStream_haltCore (c := getC (fetching s c.val j.val a) c.val) (cause := 0x09) (tag := 0) (a := a) (running_lt runs)
    refine ⟨t, ht, (congrArg Mem.cells k.out.mem).trans (whole.frame .cells (by decide)), k.out.ctxs.trans (whole.frame .ctxs (by decide)),
      by rw [core, own], by rw [core, own]; exact kept.pc, fun free => ?_⟩
    rw [core]
    exact (haltCore_err (valid.trans free)).2
  · by_cases hl : l.val < 2
    · obtain ⟨t, ht, k⟩ := fetch_runs (l := l) (ahead := true) calm work runs asks (by
        rw [came true l hl]
        exact (put _).frame .ctxs (by decide))
      rw [came true l hl] at k
      obtain ⟨cells, ctxs, own, -⟩ := fetch_puts (running_lt runs) stands k
      exact ⟨t, ht, cells, ctxs, by rw [own, if_pos hl]⟩
    · obtain rfl : l = 2 := by omega
      obtain ⟨t, ht, k⟩ := fetch_runs (l := 2) (ahead := true) calm work runs asks (by
        rw [lost, if_pos rfl]
        exact (put _).frame .ctxs (by decide))
      rw [lost, if_pos rfl] at k
      obtain ⟨cells, ctxs, own, -⟩ := fetch_puts (running_lt runs) stands k
      exact ⟨t, ht, cells, ctxs, by rw [own, if_neg hl]⟩

end

/-- Settles O54: a fetch looks its page up, and then reads, waits, halts or drops. -/
theorem descriptorsAreFetched : Obligations.DescriptorsAreFetched := by
  intro c i s u a part pg off byte pos ch e wr bs hu calm
  refine ⟨fun work runs => ⟨fun place hpos none_ open_ paid hbs good page => ?_, fun ahead l asks page out => ?_, fun asks un l => ?_,
    fun asks un no l => ?_, fun asks no l => ?_⟩, fun rest ahead l idle => ?_⟩
  · exact fetch_brings calm hu work runs place hpos none_ open_ paid hbs good page
  · subst hu
    exact fetch_held calm work runs asks page out
  · subst hu
    exact fetch_refused calm work runs asks (.inl ⟨un, rfl⟩)
  · subst hu
    exact fetch_refused calm work runs asks (.inr ⟨⟨un, no⟩, rfl⟩)
  · subst hu
    exact fetchAhead_drops calm work runs asks no
  · subst hu
    show doneMem (fetchStep s c.val i.val ahead l.val) = _
    rw [fetchStep_rests idle, doneMem_eq calm, done_atRest rest]

end Sys2Proof.Machine
end

section
-- One proof after the other: a text of this length has more proofs waiting at once than the check has threads for.
set_option Elab.async false
/-! PROOFS. One stream of a core waits: what the scheduler sees of it, and what wakes it (R171, R172, R177, R185). -/

namespace Sys2Proof.Machine

/-! ### The order of turns (R185) -/

section
variable {f : Nat → Nat × Nat}

theorem mem_insertByKey (i j : Nat) (l : List Nat) : j ∈ insertByKey f i l ↔ j = i ∨ j ∈ l := by
  induction l with
  | nil => simp [insertByKey]
  | cons k l ih =>
    unfold insertByKey
    split
    · rw [List.mem_cons, ih, List.mem_cons]
      tauto
    · simp

theorem mem_orderByKey (j : Nat) (l : List Nat) : j ∈ orderByKey f l ↔ j ∈ l := by
  induction l with
  | nil => rfl
  | cons k l ih => rw [orderByKey, mem_insertByKey, ih, List.mem_cons]

end

theorem mem_turnOrder {c : PCore} {i : Nat} (hi : i < 16) : i ∈ turnOrder c := (mem_orderByKey i _).mpr (List.mem_range.mpr hi)

/-! ### Only one stream waits -/

/-- No stream of a core but `i` waits. -/
def OnlyBlocked (s : State) (n i : Nat) : Prop := ∀ j, j ≠ i → (getStream (getC s n) j).blocked = none

section
variable {s v : State} {n i : Nat}

theorem unblock_none {j : Nat} (h : (getStream (getC s n) j).blocked = none) : unblock s n j = none := by
  simp [unblock, h]

theorem wakeLoop_none (h : NoneBlocked s n) (k : Nat) : wakeLoop k s n = s := by
  cases k with
  | zero => rfl
  | succ k =>
    unfold wakeLoop
    rw [wakeOne_none h]

/-- R172: where one stream waits and cannot go on, nothing goes on. -/
theorem wakeOne_still (only : OnlyBlocked s n i) (h : unblock s n i = none) : ∀ l, wakeOne s n l = none
  | [] => rfl
  | j :: l => by
    have each : unblock s n j = none := by
      by_cases hj : j = i
      · rw [hj, h]
      · exact unblock_none (only j hj)
    rw [wakeOne, each]
    exact wakeOne_still only h l

theorem wakeCore_still (only : OnlyBlocked s n i) (h : unblock s n i = none) : wakeCore s n = s := by
  show wakeLoop 64 s n = s
  unfold wakeLoop
  rw [wakeOne_still only h]

theorem wakeOne_goes (only : OnlyBlocked s n i) (h : unblock s n i = some v) : ∀ l, i ∈ l → wakeOne s n l = some v
  | j :: l, hl => by
    by_cases hj : j = i
    · rw [wakeOne, hj, h]
    · rw [wakeOne, unblock_none (only j hj)]
      exact wakeOne_goes only h l ((List.mem_cons.mp hl).resolve_left fun e => hj e.symm)

/-- R172: where one stream waits and can go on, it alone does. -/
theorem wakeCore_goes (only : OnlyBlocked s n i) (hi : i < 16) (h : unblock s n i = some v) (free : NoneBlocked v n) : wakeCore s n = v := by
  show wakeLoop 64 s n = v
  unfold wakeLoop
  rw [wakeOne_goes only h _ (mem_turnOrder hi)]
  exact wakeLoop_none free 63

end

/-! ### A stream that waits, beside the others -/

/-- A blocking cause other than a LAUNCH_AT's. -/
def notLaunch : Blocked → Bool
  | .launch _ => false
  | _ => true

/-- Stream `i` waits in `b`; of its core only counts have moved. -/
structure Stalls (i : Nat) (b : Blocked) (c e : PCore) : Prop where
  own    : ∃ m, getStream e i = { getStream c i with blocked := some b, blockId := m }
  others : ∀ k, k ≠ i → getStream e k = getStream c k
  rest   : e = { c with streams := e.streams, nextId := e.nextId, cnt := e.cnt }

section
variable {i : Nat} {b : Blocked} {c e : PCore}

theorem Stalls.blocked (h : Stalls i b c e) : (getStream e i).blocked = some b := by
  obtain ⟨m, own⟩ := h.own
  rw [own]

theorem Stalls.sems (h : Stalls i b c e) : e.sems = c.sems := by rw [h.rest]

theorem Stalls.attends (h : Stalls i b c e) : Attends i c e := by
  obtain ⟨m, own⟩ := h.own
  exact ⟨by rw [own], by rw [own], by rw [own], by rw [own], fun k hk => .of_eq (h.others k hk), by rw [h.rest], by rw [h.rest], by rw [h.rest]⟩

theorem Stalls.turnKey (h : Stalls i b c e) (k : Nat) : turnKey e k = turnKey c k := by
  have prefer : e.prefer = c.prefer := by rw [h.rest]
  unfold Machine.turnKey
  by_cases hk : k = i
  · obtain ⟨m, own⟩ := h.own
    rw [hk, own, prefer]
  · rw [h.others k hk, prefer]

theorem Stalls.turnOrder (h : Stalls i b c e) : turnOrder e = turnOrder c := by
  unfold Machine.turnOrder
  rw [funext h.turnKey]

theorem Stalls.reservedFor (h : Stalls i b c e) (plain : notLaunch b = true) (free : (getStream c i).blocked = none) (j op : Nat) :
    reservedFor e j op = reservedFor c j op := by
  unfold Machine.reservedFor
  refine congrArg List.length (List.filter_congr fun k _ => ?_)
  dsimp only
  by_cases hk : k = i
  · rw [hk, h.blocked, free]
    cases b <;> first | rfl | cases plain
  · rw [h.others k hk]

theorem Stalls.engineRoom (h : Stalls i b c e) (plain : notLaunch b = true) (free : (getStream c i).blocked = none) (j op : Nat) :
    engineRoom e j op = engineRoom c j op := by
  have lr : e.lr = c.lr := by rw [h.rest]
  have mv : e.mv = c.mv := by rw [h.rest]
  have threads : e.threads = c.threads := by rw [h.rest]
  have copies : e.copies = c.copies := by rw [h.rest]
  unfold Machine.engineRoom
  rw [h.reservedFor plain free, lr, mv, threads, copies]

theorem headerReady_congr (h : e.sems = c.sems) (t : Stream) (d : BitVec 256) : headerReady e t d = headerReady c t d := by
  rw [headerReady, semGet_congr h, headerReady]

end

section
variable {w t : State} {n i : Nat} {b : Blocked}

theorem slotsHeld_congr (h : t.lcores = w.lcores) (n : Nat) : slotsHeld t n = slotsHeld w n := by
  rw [slotsHeld, getL, h, slotsHeld, getL]

theorem reissueDue_congr (h : t.lcores = w.lcores) (n : Nat) : reissueDue t n = reissueDue w n := by
  rw [reissueDue, getL, h, reissueDue, getL]

theorem checkedRoom_stalls (lcores : t.lcores = w.lcores) (st : Stalls i b (getC w n) (getC t n)) : checkedRoom t n = checkedRoom w n := by
  have busy : checkedInFlight (getC t n) = checkedInFlight (getC w n) := by
    rw [checkedInFlight, st.rest, checkedInFlight]
  unfold checkedRoom
  rw [slotsHeld_congr lcores, reissueDue_congr lcores, busy]

theorem canIssue_stalls (hub : t.hub = w.hub) (st : Stalls i b (getC w n) (getC t n)) : canIssue t n = canIssue w n := by
  have pstate : (getC t n).pstate = (getC w n).pstate := by rw [st.rest]
  have frozen : (getC t n).frozen = (getC w n).frozen := by rw [st.rest]
  have stopped : (getC t n).stopped = (getC w n).stopped := by rw [st.rest]
  unfold canIssue
  dsimp only
  rw [pstate, frozen, stopped, inService_congr hub, hub, physOf_congr hub]

theorem hasRoom_stalls (lcores : t.lcores = w.lcores) (st : Stalls i b (getC w n) (getC t n)) (plain : notLaunch b = true)
    (free : (getStream (getC w n) i).blocked = none) {j : Nat} (hj : j ≠ i) (d : BitVec 256) : hasRoom t n j d = hasRoom w n j d := by
  unfold hasRoom
  dsimp only
  rw [st.others j hj, checkedRoom_stalls lcores st, st.engineRoom plain free]
  split
  · cases fetchedAt (getStream (getC w n) j) (issuePc (getStream (getC w n) j) + 32) with
    | none => rfl
    | some e =>
      dsimp only
      rw [st.engineRoom plain free]
  · rfl

/-- R171: a stream that has begun to wait leaves what the others could issue. -/
theorem readyNext_stalls (hub : t.hub = w.hub) (lcores : t.lcores = w.lcores) (st : Stalls i b (getC w n) (getC t n))
    (plain : notLaunch b = true) (free : (getStream (getC w n) i).blocked = none) {j : Nat} (hj : j ≠ i) : readyNext t n j = readyNext w n j := by
  unfold readyNext
  dsimp only
  rw [canIssue_stalls hub st, st.others j hj]
  split
  · cases fetchedAt (getStream (getC w n) j) (issuePc (getStream (getC w n) j)) with
    | none => rfl
    | some d =>
      dsimp only
      rw [headerReady_congr st.sems, hasRoom_stalls lcores st plain free hj]
  · rfl

theorem any_takeWhile_congr {f g : Nat → Bool} (h : ∀ j, j ≠ i → f j = g j) (l : List Nat) :
    (l.takeWhile (· != i)).any f = (l.takeWhile (· != i)).any g := by
  induction l with
  | nil => rfl
  | cons k l ih =>
    rw [List.takeWhile_cons]
    split
    · rename_i hk
      rw [List.any_cons, List.any_cons, ih, h k (bne_iff_ne.mp hk)]
    · rfl

/-- R177: a stream that has begun to wait is outranked as before. -/
theorem outranked_stalls (hub : t.hub = w.hub) (lcores : t.lcores = w.lcores) (st : Stalls i b (getC w n) (getC t n))
    (plain : notLaunch b = true) (free : (getStream (getC w n) i).blocked = none) (sem : Option (BitVec 6)) (v : Nat) :
    outranked t n i sem v = outranked w n i sem v := by
  unfold outranked
  cases sem with
  | none => rfl
  | some k =>
    dsimp only
    rw [semGet_congr st.sems, st.turnOrder]
    refine congrArg _ (any_takeWhile_congr (fun j hj => ?_) _)
    rw [readyNext_stalls hub lcores st plain free hj]

end

/-! ### A wait begins -/

/-- The core once stream `i` waits in `b`. -/
def blockedCore (c : PCore) (i : Nat) (b : Blocked) : PCore :=
  modStream { c with nextId := c.nextId + 1 } i fun t => { t with blocked := some b, blockId := c.nextId }

section
variable {s w t v : State} {n i : Nat} {b : Blocked} {c e : PCore} {d : BitVec 256}

theorem blockOn_core (l : List Part) (s : State) (n i : Nat) (b : Blocked) : CoreTo l n s (blockOn s n i b) (blockedCore (getC s n) i b) :=
  coreTo_modC l s n fun c => blockedCore c i b

theorem stalls_blockedCore (hi : i < 16) (c : PCore) (b : Blocked) : Stalls i b c (blockedCore c i b) := by
  refine ⟨⟨c.nextId, ?_⟩, fun k hk => ?_, rfl⟩
  · exact getStream_modStream_same _ hi _
  · exact getStream_modStream_other _ hk _

/-- R171: the stream of a descriptor that has issued and waits. -/
theorem awaits_of_attends {l : List Part} {op : Nat} (h : Stands s n i op d) (attends : Attends i (turnedCore s n i d) e)
    (waits : (getStream e i).blocked = some b) (sems : e.sems = (turnedCore s n i d).sems) (out : CoreTo l n (turned s n i d) t e)
    (hl : Part.hub ∉ Part.slots :: l ∧ Part.mem ∉ Part.slots :: l ∧ Part.ctxs ∉ Part.slots :: l := by decide) : Awaits s t n i d b := by
  obtain ⟨hub, mem, ctxs⟩ := hl
  have whole := (turned_core l s n i d hub).trans out hub
  have kept := (attends_turnedCore h.lt s n d).trans attends
  refine ⟨?_, ?_, ?_, ?_, ?_, fun k hk => ?_, ?_, whole.others, whole.frame .mem mem, whole.frame .ctxs ctxs⟩
  · rw [out.own, waits]
  · rw [out.own, kept.pc]
  · rw [out.own, kept.st, h.runs]
  · rw [out.own, kept.prog]
  · rw [out.own, sems, turnedCore_sems]
  · rw [out.own]
    exact kept.others k hk
  · rw [out.own]
    exact kept.data

theorem onlyBlocked_of_stalls {l : List Part} (none_ : NoneBlocked s n) (hi : i < 16) (st : Stalls i b (turnedCore s n i d) e)
    (out : CoreTo l n (turned s n i d) t e) : OnlyBlocked t n i := fun j hj => by
  obtain ⟨m, hm⟩ := ((attends_turnedCore hi s n d).trans st.attends).others j hj
  rw [out.own, hm]
  exact none_ j

/-- R172: the descriptor that a stream waits in has completed. -/
theorem completeHere_core (hi : i < 16) (h : fetchedAt (getStream (getC s n) i) (getStream (getC s n) i).pc = some d) :
    CoreTo [.ctxs] n s (completeHere s n i) (landed (getC s n) i d ((getStream (getC s n) i).pc + 32)) := by
  have first := signalSsem_core [.ctxs] s n d
  have second := countProg_core (signalSsem s n d) n i
  rw [first.own] at second
  have third := (first.trans second).modC fun c => modStream c i fun t => gotoPc { t with blocked := none } (t.pc + 32)
  have eq : landed (getC s n) i d ((getStream (getC s n) i).pc + 32) =
      modStream (modStream (signalled (getC s n) d) i fun t => { t with prog := t.prog + 1 }) i
        fun t => gotoPc { t with blocked := none } (t.pc + 32) := by
    unfold landed
    unfold modStream
    rw [getStream_setStream_same _ hi, getStream_signalled]
  rw [eq]
  unfold completeHere
  dsimp only
  rw [h]
  exact third

end

end Sys2Proof.Machine
end

section
-- One proof after the other: a text of this length has more proofs waiting at once than the check has threads for.
set_option Elab.async false
/-! PROOFS. Waits with and without a time, WAIT and FENCE (R51, R177, R179, R180). -/

namespace Sys2Proof.Machine

section
variable {s v t : State} {n i op : Nat} {d : BitVec 256} {b : Blocked} {a : Armed} {late : Bool} {c e : PCore}

/-- A stream has begun to wait in `b`; a time that had passed is counted. -/
structure Begun (s : State) (n i : Nat) (d : BitVec 256) (b : Blocked) (late : Bool) (v : State) : Prop where
  core     : Stalls i b (turnedCore s n i d) (getC v n)
  out      : CoreTo [.time] n (turned s n i d) v (getC v n)
  lateCore : (getC v n).cnt.late = (getC s n).cnt.late + if late then 1 else 0
  lateAll  : v.time.lateLaunch = s.time.lateLaunch + if late then 1 else 0
  now      : v.time.now = s.time.now

theorem passTurn_eq (ready : Nat → Bool) (i : Nat) (c : PCore) : ∃ x y, passTurn ready i c = { c with turns := x, streams := y } := ⟨_, _, rfl⟩

theorem headed_passTurn_rest (ready : Nat → Bool) (i : Nat) (c : PCore) (d : BitVec 256) : (headed (passTurn ready i c) d).cnt = c.cnt ∧
    (headed (passTurn ready i c) d).pstate = c.pstate ∧ (headed (passTurn ready i c) d).stopped = c.stopped ∧
    (headed (passTurn ready i c) d).frozen = c.frozen ∧ (headed (passTurn ready i c) d).nextId = c.nextId := by
  obtain ⟨x, hx⟩ := headed_eq (passTurn ready i c) d
  obtain ⟨y, z, hy⟩ := passTurn_eq ready i c
  rw [hx, hy]
  exact ⟨rfl, rfl, rfl, rfl, rfl⟩

theorem modStream_rest (c : PCore) (i : Nat) (f : Stream → Stream) : ∃ x, modStream c i f = { c with streams := x } := ⟨_, rfl⟩

theorem modStream_cnt (c : PCore) (i : Nat) (f : Stream → Stream) : (modStream c i f).cnt = c.cnt := by
  obtain ⟨x, hx⟩ := modStream_rest c i f
  rw [hx]

theorem turnedCore_rest (s : State) (n i : Nat) (d : BitVec 256) : (turnedCore s n i d).cnt = (getC s n).cnt ∧
    (turnedCore s n i d).pstate = (getC s n).pstate ∧ (turnedCore s n i d).stopped = (getC s n).stopped ∧
    (turnedCore s n i d).frozen = (getC s n).frozen ∧ (turnedCore s n i d).nextId = (getC s n).nextId :=
  headed_passTurn_rest (fun j => (readyNext s n j).isSome) i (getC s n) d

theorem Stands.can (h : Stands s n i op d) : canIssue s n = true := (readyNext_some (issuable_some h.ready).2.1).1

theorem canIssue_parts (h : canIssue s n = true) : inService s n = true ∧ (getC s n).pstate = .run ∧ (getC s n).frozen = false ∧
    (getC s n).stopped = false := by
  unfold canIssue at h
  simp only [Bool.and_eq_true, beq_iff_eq, Bool.not_eq_true'] at h
  exact ⟨h.1.1.1.1, h.1.1.1.2, h.1.1.2, h.1.2⟩

theorem canIssue_turned (h : Stands s n i op d) : canIssue (turned s n i d) n = true := by
  have can := h.can
  obtain ⟨-, pstate, stopped, frozen, -⟩ := turnedCore_rest s n i d
  have out := turned_core [] s n i d
  unfold canIssue at can ⊢
  dsimp only at can ⊢
  rwa [turned_own, pstate, stopped, frozen, out.serves, out.place, out.frame .hub (by decide)]

theorem Stands.fetched (h : Stands s n i op d) : fetchedAt (getStream (getC s n) i) (getStream (getC s n) i).pc = some d := by
  have k := (readyNext_some (issuable_some h.ready).2.1).2.2.1
  rwa [issuePc, h.fresh] at k

theorem stalls_modCore (hi : i < 16) (st : Stalls i b c e) (b' : Blocked) (x : CoreCounters) (run : c.pstate = .run) :
    Stalls i b' c (modStream { e with pstate := .run, cnt := x } i fun t => { t with blocked := some b' }) := by
  obtain ⟨m, own⟩ := st.own
  refine ⟨⟨m, ?_⟩, fun k hk => (getStream_modStream_other _ hk _).trans (st.others k hk), ?_⟩
  · rw [getStream_modStream_same _ hi]
    show { getStream e i with blocked := some b' } = _
    rw [own]
  · have rest := st.rest
    rw [← run]
    show modStream _ i _ = _
    conv_lhs => rw [rest]
    conv_rhs => rw [rest]
    rfl

theorem begun_blockOn (h : Stands s n i op d) (b : Blocked) : Begun s n i d b false (blockOn (turned s n i d) n i b) := by
  have out := blockOn_core [.time] (turned s n i d) n i b
  have turn := turned_core [] s n i d
  have core : getC (blockOn (turned s n i d) n i b) n = blockedCore (turnedCore s n i d) i b := out.own.trans (by rw [turned_own])
  refine ⟨?_, ⟨out.frame, rfl, out.others⟩, ?_, ?_, ?_⟩
  · rw [core]
    exact stalls_blockedCore h.lt _ b
  · rw [core, ← (turnedCore_rest s n i d).1]
    exact (BitVec.add_zero _).symm
  · rw [show (blockOn (turned s n i d) n i b).time = s.time from turn.frame .time (by decide)]
    exact (BitVec.add_zero _).symm
  · rw [show (blockOn (turned s n i d) n i b).time = s.time from turn.frame .time (by decide)]

theorem evalArmed_congr (h : t.time = s.time) (a : Armed) : evalArmed t a = evalArmed s a := by
  unfold evalArmed lookNow firstLook comparing
  rw [h]

theorem turned_time (s : State) (n i : Nat) (d : BitVec 256) : (turned s n i d).time = s.time := (turned_core [] s n i d).frame .time (by decide)

/-- What the evaluation of its time sees of a stream that has begun to wait. -/
theorem Begun.seen {v : State} (h : Stands s n i op d) (begun : Begun s n i d b late v) :
    (inService v n && (getStream (getC v n) i).st == .running && !(getStream (getC v n) i).due && !(getC v n).stopped) = true := by
  obtain ⟨serves, -, -, stopped⟩ := canIssue_parts h.can
  obtain ⟨m, own⟩ := begun.core.own
  have stop : (getC v n).stopped = false := by
    rw [begun.core.rest, ← stopped]
    exact (turnedCore_rest s n i d).2.2.1
  have serves' : inService v n = true := by rw [begun.out.serves, (turned_core [] s n i d).serves, serves]
  have runs : (getStream (getC v n) i).st = .running := by
    rw [begun.core.attends.st, (attends_turnedCore h.lt s n d).st, h.runs]
  have fresh : (getStream (getC v n) i).due = false := by
    rw [own, getStream_turnedCore h.lt]
    exact h.fresh
  rw [serves', runs, fresh, stop]
  rfl

section
variable (h : Stands s n i op d) (begun : Begun s n i d b late v)
include h begun

theorem fireStream_untimed (ht : blockedTime (some b) = none) : fireStream v n i = v := by
  unfold fireStream
  dsimp only
  rw [begun.seen h, begun.core.blocked, ht]
  rfl

theorem fireStream_waits (ht : blockedTime (some b) = some a) (hw : (evalArmed v a).1 = .wait) :
    fireStream v n i = modC v n fun c => modStream c i fun t => { t with blocked := t.blocked.map (setBlockedTime (some (evalArmed v a).2)) } := by
  unfold fireStream
  dsimp only
  rw [begun.seen h, begun.core.blocked, ht, if_pos rfl]
  dsimp only
  rw [hw]

theorem fireStream_fires (ht : blockedTime (some b) = some a) (hw : (evalArmed v a).1 ≠ .wait) :
    fireStream v n i = streamDue v n i ((evalArmed v a).1 == .late) := by
  unfold fireStream
  dsimp only
  rw [begun.seen h, begun.core.blocked, ht, if_pos rfl]
  dsimp only
  cases hv : (evalArmed v a).1 with
  | wait => exact absurd hv hw
  | onTime => rfl
  | late => rfl

end

theorem blockOn_time (s : State) (n i : Nat) (d : BitVec 256) (b : Blocked) : (blockOn (turned s n i d) n i b).time = s.time := turned_time s n i d

theorem run_of_turned (h : Stands s n i op d) : (turnedCore s n i d).pstate = .run :=
  (turnedCore_rest s n i d).2.1.trans (canIssue_parts h.can).2.1

/-- R51: a stream that waits for a time ahead. -/
theorem begun_waits (h : Stands s n i op d) (ht : blockedTime (some b) = some a) (hw : (evalArmed s a).1 = .wait) :
    Begun s n i d (setBlockedTime (some (evalArmed s a).2) b) false (blockTimed (turned s n i d) n i b) := by
  have begun := begun_blockOn h b
  have same := evalArmed_congr (blockOn_time s n i d b) a
  have eq := fireStream_waits h begun ht (by rw [same, hw])
  have lift := begun.out.modC fun c => modStream c i fun t => { t with blocked := t.blocked.map (setBlockedTime (some (evalArmed s a).2)) }
  rw [same] at eq
  rw [blockTimed, eq]
  obtain ⟨m, own⟩ := begun.core.own
  have here : getStream (modStream (getC (blockOn (turned s n i d) n i b) n) i fun t =>
      { t with blocked := t.blocked.map (setBlockedTime (some (evalArmed s a).2)) }) i = { getStream (turnedCore s n i d) i with
        blocked := some (setBlockedTime (some (evalArmed s a).2) b), blockId := m } := by
    rw [getStream_modStream_same _ h.lt, own]
    rfl
  have stalls : Stalls i (setBlockedTime (some (evalArmed s a).2) b) (turnedCore s n i d)
      (modStream (getC (blockOn (turned s n i d) n i b) n) i fun t => { t with blocked := t.blocked.map (setBlockedTime (some (evalArmed s a).2)) }) := by
    refine ⟨⟨m, here⟩, fun k hk => (getStream_modStream_other _ hk _).trans (begun.core.others k hk), ?_⟩
    have rest := begun.core.rest
    show modStream _ i _ = _
    conv_lhs => rw [rest]
    rfl
  refine ⟨lift.own ▸ stalls, ⟨lift.frame, rfl, lift.others⟩, ?_, begun.lateAll, begun.now⟩
  rw [lift.own, modStream_cnt]
  exact begun.lateCore

/-- R53: a late firing of a core's sequencer moves its two counts alone. -/
theorem countCoreLate_core (w : State) (n : Nat) (l : Bool) : ∃ y : CoreCounters, y.late = (getC w n).cnt.late + (if l then 1 else 0) ∧
    CoreTo [.time] n w (if l then countCoreLate w n else w) { getC w n with cnt := y } ∧
    (if l then countCoreLate w n else w).time.lateLaunch = w.time.lateLaunch + (if l then 1 else 0) ∧
    (if l then countCoreLate w n else w).time.now = w.time.now := by
  cases l
  · exact ⟨(getC w n).cnt, (BitVec.add_zero _).symm, .refl _ n w, (BitVec.add_zero _).symm, rfl⟩
  · have counted : CoreTo [.time] n w (countLate w) (getC w n) :=
      (CoreTo.refl [.time] n w).then (frame_modTime w fun t => { t with lateLaunch := t.lateLaunch + 1 })
    exact ⟨{ (getC w n).cnt with late := (getC w n).cnt.late + 1 }, rfl,
      counted.modC fun c => { c with cnt := { c.cnt with late := c.cnt.late + 1 } }, rfl, rfl⟩

/-- R51, R53: a stream whose time has come as it begins to wait: the time is gone, one that had passed is counted, and the stream may go
on. -/
theorem begun_fires (h : Stands s n i op d) (plain : notLaunch b = true) (ht : blockedTime (some b) = some a)
    (hf : (evalArmed s a).1 ≠ .wait) : ∃ v, blockTimed (turned s n i d) n i b = wakeCore v n ∧
      Begun s n i d (setBlockedTime none b) ((evalArmed s a).1 == .late) v := by
  have begun := begun_blockOn h b
  have same := evalArmed_congr (blockOn_time s n i d b) a
  have eq := fireStream_fires h begun ht (by rw [same]; exact hf)
  rw [same] at eq
  obtain ⟨w, hw⟩ : ∃ w, w = blockOn (turned s n i d) n i b := ⟨_, rfl⟩
  rw [← hw] at begun eq
  obtain ⟨l, hl⟩ : ∃ l, l = ((evalArmed s a).1 == .late) := ⟨_, rfl⟩
  rw [← hl] at eq ⊢
  obtain ⟨x, hx⟩ : ∃ x, x = if l then countCoreLate w n else w := ⟨_, rfl⟩
  have due : streamDue w n i l = wakeCore (modC x n fun c =>
      modStream { c with pstate := .run } i fun t => { t with blocked := some (setBlockedTime none b) }) n := by
    unfold streamDue
    dsimp only
    rw [begun.core.blocked, ← hx]
    cases b with
    | launch => cases plain
    | _ => dsimp only
  rw [blockTimed, ← hw, eq, due]
  obtain ⟨y, hy, counted, all, now⟩ := countCoreLate_core w n l
  rw [← hx] at counted all now
  have lift := counted.modC fun c => modStream { c with pstate := .run } i fun t => { t with blocked := some (setBlockedTime none b) }
  have whole := begun.out.trans lift
  refine ⟨_, rfl, lift.own ▸ stalls_modCore h.lt begun.core _ y (run_of_turned h), ⟨whole.frame, rfl, whole.others⟩, ?_, ?_, now.trans begun.now⟩
  · rw [lift.own, modStream_cnt]
    exact hy.trans (congrArg (· + if l then 1 else 0) (begun.lateCore.trans (BitVec.add_zero _)))
  · exact all.trans (congrArg (· + if l then 1 else 0) (begun.lateAll.trans (BitVec.add_zero _)))

/-! ### What lets a stream that has begun to wait go on -/

theorem Begun.stalls (begun : Begun s n i d b late v) : Stalls i b (getC (turned s n i d) n) (getC v n) := by
  rw [turned_own]
  exact begun.core

theorem Begun.can (h : Stands s n i op d) (begun : Begun s n i d b late v) : canIssue v n = true :=
  (canIssue_stalls (begun.out.frame .hub (by decide)) begun.stalls).trans (canIssue_turned h)

theorem Begun.runs (h : Stands s n i op d) (begun : Begun s n i d b late v) : (getStream (getC v n) i).st = .running := by
  rw [begun.core.attends.st, (attends_turnedCore h.lt s n d).st, h.runs]

theorem Begun.free (h : Stands s n i op d) : (getStream (getC (turned s n i d) n) i).blocked = none := by
  rw [turned_own, getStream_turnedCore h.lt]
  exact h.none i

theorem Begun.outranked (h : Stands s n i op d) (plain : notLaunch b = true) (begun : Begun s n i d b late v) (sem : Option (BitVec 6)) (k : Nat) :
    outranked v n i sem k = outranked (turned s n i d) n i sem k :=
  outranked_stalls (begun.out.frame .hub (by decide)) (begun.out.frame .lcores (by decide)) begun.stalls plain (Begun.free h) sem k

theorem Begun.sems (begun : Begun s n i d b late v) : (getC v n).sems = (headed (getC s n) d).sems :=
  begun.core.sems.trans (turnedCore_sems s n i d)

theorem Begun.fetched (h : Stands s n i op d) (begun : Begun s n i d b late v) :
    fetchedAt (getStream (getC v n) i) (getStream (getC v n) i).pc = some d := by
  obtain ⟨m, own⟩ := begun.core.own
  rw [own, getStream_turnedCore h.lt]
  exact h.fetched

theorem Begun.only (h : Stands s n i op d) (begun : Begun s n i d b late v) : OnlyBlocked v n i :=
  onlyBlocked_of_stalls h.none h.lt begun.core begun.out

theorem Begun.awaits (h : Stands s n i op d) (begun : Begun s n i d b late v) : Awaits s v n i d b :=
  awaits_of_attends h begun.core.attends begun.core.blocked begun.core.sems begun.out

/-- The semaphore that a wait takes its count from. -/
def semTaken (s : State) (n : Nat) (sem : Option (BitVec 6)) (take : Bool) (v : BitVec 32) : State :=
  match sem with
  | some k => if take then modC s n fun c => semTake c k.toNat v else s
  | none => s

/-- The core that a wait has taken its count from. -/
def takenCore (c : PCore) (sem : Option (BitVec 6)) (take : Bool) (v : BitVec 32) : PCore :=
  match sem with
  | some k => if take then semTake c k.toNat v else c
  | none => c

theorem semTaken_core (l : List Part) (s : State) (n : Nat) (sem : Option (BitVec 6)) (take : Bool) (v : BitVec 32) :
    CoreTo l n s (semTaken s n sem take v) (takenCore (getC s n) sem take v) := by
  cases sem with
  | none => exact .refl l n s
  | some k => cases take with
    | false => exact .refl l n s
    | true => exact coreTo_modC l s n fun c => semTake c k.toNat v

theorem takenCore_eq (c : PCore) (sem : Option (BitVec 6)) (take : Bool) (v : BitVec 32) :
    ∃ x, takenCore c sem take v = { c with sems := x } := by
  cases sem with
  | none => exact ⟨c.sems, rfl⟩
  | some k => cases take with
    | false => exact ⟨c.sems, rfl⟩
    | true => exact ⟨_, rfl⟩

theorem takenCore_sems {c e : PCore} (h : c.sems = e.sems) (sem : Option (BitVec 6)) (take : Bool) (v : BitVec 32) :
    (takenCore c sem take v).sems = (takenCore e sem take v).sems := by
  cases sem with
  | none => exact h
  | some k => cases take with
    | false => exact h
    | true => exact semTake_sems h _ _

/-- A stream that waits, and goes on with its count taken. -/
theorem Begun.goes (h : Stands s n i op d) (begun : Begun s n i d b late v) (sem : Option (BitVec 6)) (take : Bool) (k : BitVec 32) :
    ∃ y, y = completeHere (semTaken v n sem take k) n i ∧ Advances s y n i ((getStream (getC s n) i).pc + 32) ∧
      getC y n = landed (takenCore (getC v n) sem take k) i d ((getStream (getC s n) i).pc + 32) ∧
      y.time.lateLaunch = s.time.lateLaunch + if late then 1 else 0 := by
  have took := semTaken_core [.time, .ctxs] v n sem take k
  obtain ⟨x, hx⟩ := takenCore_eq (getC v n) sem take k
  have streams : ∀ j, getStream (takenCore (getC v n) sem take k) j = getStream (getC v n) j := fun j => by
    rw [hx]
    rfl
  have kept : Attends i (getC v n) (takenCore (getC v n) sem take k) := by
    rw [hx]
    exact attends_of_streams i rfl ⟨rfl, rfl, rfl⟩
  have whole := (attends_turnedCore h.lt s n d).trans (begun.core.attends.trans kept)
  have fetched := begun.fetched h
  rw [← streams i, ← took.own] at fetched
  have done_ := completeHere_core h.lt fetched
  rw [took.own, whole.pc] at done_
  have early : CoreTo [.time, .ctxs] n s v (getC v n) :=
    CoreTo.mono ((turned_core [.time] s n i d).trans begun.out)
  have out := (early.trans took).trans (done_.mono (m := [.time, .ctxs]))
  refine ⟨_, rfl, advances_of_landed h.runs whole out, out.own, ?_⟩
  have time : (completeHere (semTaken v n sem take k) n i).time = v.time :=
    Eq.trans (done_.frame .time (by decide)) ((semTaken_core [] v n sem take k).frame .time (by decide))
  rw [time]
  exact begun.lateAll

theorem landed_late (c : PCore) (i : Nat) (d : BitVec 256) (a : BitVec 48) : (landed c i d a).cnt.late = c.cnt.late := by
  rw [landed, modStream_cnt, modStream_cnt, signalled]
  split
  · unfold semAdd
    dsimp only
    split <;> rfl
  · rfl

/-- R177, R180: what lets a WAIT go on. -/
theorem unblock_wait {sem : Option (BitVec 6)} {acq : Bool} {k : BitVec 32} {time : Option Armed} (h : Stands s n i op d)
    (begun : Begun s n i d (.wait sem acq k time) late v) : unblock v n i =
      if time.isNone && semMet (headed (getC s n) d) sem k && !(acq && outranked (turned s n i d) n i sem k.toNat) then
        some (completeHere (semTaken v n sem acq k) n i)
      else none := by
  have met : semMet (getC v n) sem k = semMet (headed (getC s n) d) sem k := by
    unfold semMet
    cases sem with
    | none => rfl
    | some j =>
      dsimp only
      rw [semGet_congr begun.sems]
  unfold unblock
  dsimp only
  rw [if_neg (by simp [begun.runs h, begun.can h]), begun.core.blocked]
  dsimp only
  rw [met, begun.outranked h rfl]
  rfl

end

/-! ### WAIT (R177, R180) -/

section
variable {s v : State} {c : Core} {i : SlotNo} {d : BitVec 256} {late taken : Bool} {u : Stream} {k : PCore}

/-- What WAIT comes to once its time, if it has one, is gone. -/
theorem wait_ends (h : Stands s c.val i.val opWait d)
    (begun : Begun s c.val i.val d (.wait (waitSem d) (dbit d 39) (d.extractLsb' 40 32) none) late v)
    (ht : taken = (semMet (headed (getC s c.val) d) (waitSem d) (d.extractLsb' 40 32) &&
      !(dbit d 39 && outranked (turned s c.val i.val d) c.val i.val (waitSem d) (d.extractLsb' 40 32).toNat))) :
    wakeCore (wakeCore v c.val) c.val = wakeCore v c.val ∧
    (wakeCore v c.val).time.lateLaunch = s.time.lateLaunch + (if late then 1 else 0) ∧
    (getC (wakeCore v c.val) c.val).cnt.late = (getC s c.val).cnt.late + (if late then 1 else 0) ∧
    (taken = true → Advances s (wakeCore v c.val) c.val i.val ((getStream (getC s c.val) i.val).pc + 32) ∧
      (getC (wakeCore v c.val) c.val).sems = (signalled (takenCore (headed (getC s c.val) d) (waitSem d) (dbit d 39) (d.extractLsb' 40 32)) d).sems) ∧
    (taken = false → Awaits s (wakeCore v c.val) c.val i.val d (.wait (waitSem d) (dbit d 39) (d.extractLsb' 40 32) none)) := by
  have un := unblock_wait h begun
  rw [Option.isNone_none, Bool.true_and, ← ht] at un
  cases taken with
  | false =>
    have still := wakeCore_still (begun.only h) un
    rw [still, still]
    exact ⟨rfl, begun.lateAll, begun.lateCore, fun e => Bool.noConfusion e, fun _ => begun.awaits h⟩
  | true =>
    obtain ⟨y, hy, adv, core, all⟩ := begun.goes h (waitSem d) (dbit d 39) (d.extractLsb' 40 32)
    have free := adv.none h.none
    have goes := wakeCore_goes (begun.only h) h.lt un (hy ▸ free)
    rw [← hy] at goes
    rw [goes, wakeCore_none free]
    obtain ⟨x, hx⟩ := takenCore_eq (getC v c.val) (waitSem d) (dbit d 39) (d.extractLsb' 40 32)
    refine ⟨rfl, all, ?_, fun _ => ⟨adv, ?_⟩, fun e => Bool.noConfusion e⟩
    · rw [core, landed_late, hx]
      exact begun.lateCore
    · rw [core, landed_sems]
      exact signalled_sems (takenCore_sems begun.sems _ _ _) d

variable {r : Launch × Armed} {fired : Bool}

theorem exec_wait (h : Stands s c.val i.val opWait d) : exec (.wait c i) s = done (wakeCore (blockTimed (turned s c.val i.val d) c.val i.val
    (.wait (waitSem d) (dbit d 39) (d.extractLsb' 40 32) (if dbit d 72 then some (armTime s (d.extractLsb' 73 40)) else none))) c.val) := by
  show done (issueControl opWait (doWait c.val i.val) s c.val i.val) = _
  rw [issueControl_takes h, doWait, armTime_congr (turned_time s c.val i.val d)]

/-- R51, R180: a WAIT without a time, or whose time has come. -/
theorem wait_fires (h : Stands s c.val i.val opWait d) (hr : r = evalArmed s (armTime s (d.extractLsb' 73 40)))
    (hf : (!dbit d 72 || r.1 != .wait) = true) : ∃ v late, late = (dbit d 72 && r.1 == .late) ∧
      exec (.wait c i) s = done (wakeCore v c.val) ∧
      Begun s c.val i.val d (.wait (waitSem d) (dbit d 39) (d.extractLsb' 40 32) none) late v := by
  have run := exec_wait h
  cases timed : dbit d 72 with
  | false =>
    have begun := begun_blockOn h (.wait (waitSem d) (dbit d 39) (d.extractLsb' 40 32) none)
    rw [timed, if_neg Bool.false_ne_true, blockTimed, fireStream_untimed h begun rfl] at run
    exact ⟨_, _, rfl, run, begun⟩
  | true =>
    rw [timed] at hf
    have fires : (evalArmed s (armTime s (d.extractLsb' 73 40))).1 ≠ .wait := hr ▸ bne_iff_ne.mp hf
    obtain ⟨v, hv, begun⟩ := begun_fires h rfl rfl fires
      (b := .wait (waitSem d) (dbit d 39) (d.extractLsb' 40 32) (some (armTime s (d.extractLsb' 73 40))))
    rw [timed, if_pos rfl, hv, (wait_ends h begun rfl).1] at run
    exact ⟨v, _, by rw [Bool.true_and, hr], run, begun⟩

/-- R51, R180: a WAIT whose time is ahead. -/
theorem wait_waits (h : Stands s c.val i.val opWait d) (hr : r = evalArmed s (armTime s (d.extractLsb' 73 40)))
    (hf : (!dbit d 72 || r.1 != .wait) = false) : ∃ v, dbit d 72 = true ∧ r.1 = .wait ∧ exec (.wait c i) s = done v ∧
      Begun s c.val i.val d (.wait (waitSem d) (dbit d 39) (d.extractLsb' 40 32) (some r.2)) false v := by
  have run := exec_wait h
  obtain ⟨timed, waits⟩ := Bool.or_eq_false_iff.mp hf
  rw [Bool.not_eq_false'] at timed
  have waits' : r.1 = .wait := by simpa using waits
  have begun := begun_waits h (b := .wait (waitSem d) (dbit d 39) (d.extractLsb' 40 32) (some (armTime s (d.extractLsb' 73 40)))) rfl
    (hr ▸ waits')
  rw [← hr] at begun
  rw [timed, if_pos rfl, wakeCore_still (begun.only h) (unblock_wait h begun)] at run
  exact ⟨_, timed, waits', run, begun⟩

theorem takenCore_wait (k : PCore) (d : BitVec 256) (v : BitVec 32) : takenCore k (waitSem d) (dbit d 39) v =
    if dbit d 38 && dbit d 39 then semTake k (dfield d 32 6) v else k := by
  unfold waitSem
  cases dbit d 38 <;> rfl

/-- R177, R180: WAIT. -/
theorem wait_shows {g : Nat} {v : BitVec 32} (hu : u = getStream (getC s c.val) i.val) (hk : k = headed (getC s c.val) d)
    (hg : g = dfield d 32 6) (hv : v = d.extractLsb' 40 32) (h : Stands s c.val i.val opWait d)
    (hr : r = evalArmed s (armTime s (d.extractLsb' 73 40))) (hf : fired = (!dbit d 72 || r.1 != .wait))
    (ht : taken = (semMet k (waitSem d) v && !(dbit d 39 && outranked (turned s c.val i.val d) c.val i.val (waitSem d) v.toNat))) :
    (fired = true → taken = true → ∃ t, exec (.wait c i) s = .next t ∧ Advances s t c.val i.val (u.pc + 32) ∧
      (getC t c.val).sems = (signalled (if dbit d 38 && dbit d 39 then semTake k g v else k) d).sems) ∧
    (fired = true → taken = false → ∃ t, exec (.wait c i) s = .next t ∧ Awaits s t c.val i.val d (.wait (waitSem d) (dbit d 39) v none)) ∧
    (fired = false → ∃ t, exec (.wait c i) s = .next t ∧ Awaits s t c.val i.val d (.wait (waitSem d) (dbit d 39) v (some r.2))) ∧
    ∃ t, exec (.wait c i) s = .next t ∧
      (getC t c.val).cnt.late = (getC s c.val).cnt.late + (if dbit d 72 ∧ r.1 = .late then 1 else 0) ∧
      t.time.lateLaunch = s.time.lateLaunch + (if dbit d 72 ∧ r.1 = .late then 1 else 0) := by
  subst hu hk hg hv hf
  have lates : (dbit d 72 && r.1 == .late) = true ↔ dbit d 72 = true ∧ r.1 = .late := by simp
  cases hf : (!dbit d 72 || r.1 != .wait) with
  | true =>
    obtain ⟨v, late, hl, run, begun⟩ := wait_fires h hr hf
    obtain ⟨-, all, own, goes, waits⟩ := wait_ends h begun ht
    have k := settle_settled (wakeCore v c.val)
    have count : (if late then (1 : BitVec 32) else 0) = if dbit d 72 = true ∧ r.1 = .late then 1 else 0 := if_congr (hl ▸ lates) rfl rfl
    refine ⟨fun _ taken => ⟨_, run, (goes taken).1.of_settled k, ?_⟩, fun _ no => ⟨_, run, (waits no).of_settled k⟩,
      fun no => Bool.noConfusion no, _, run, ?_, ?_⟩
    · rw [getC_settled k, (goes taken).2, takenCore_wait]
    · rw [getC_settled k, own, count]
    · rw [k.out.time, all]
      exact congrArg _ (if_congr (hl ▸ lates) rfl rfl)
  | false =>
    obtain ⟨v, timed, waits, run, begun⟩ := wait_waits h hr hf
    have k := settle_settled v
    have no : ¬ (dbit d 72 = true ∧ r.1 = .late) := fun e => by
      rw [waits] at e
      cases e.2
    refine ⟨fun no => Bool.noConfusion no, fun no => Bool.noConfusion no, fun _ => ⟨_, run, (begun.awaits h).of_settled k⟩, _, run, ?_, ?_⟩
    · rw [getC_settled k, begun.lateCore, if_neg no]
      rfl
    · rw [k.out.time, begun.lateAll, if_neg no]
      rfl

end

/-! ### FENCE (R179) -/

section
variable {s v : State} {c : Core} {i : SlotNo} {d : BitVec 256} {late : Bool} {u : Stream} {k : PCore} {ids : List Nat}

theorem streams_toList (c : PCore) : c.streams.toList = (List.range 16).map (getStream c) := by
  refine List.ext_getElem (by simp) fun j hj _ => ?_
  have small : j < 16 := by simpa using hj
  simp [getStream, Vector.getD, small]

/-- The numbers of the descriptors of one stream in flight. -/
def flightOf (t : Stream) : List Nat := if t.blocked.isSome then t.blockId :: t.inflight else t.inflight

theorem inFlight_eq (c : PCore) : inFlight c = (List.range 16).flatMap fun j => flightOf (getStream c j) := by
  unfold inFlight
  rw [streams_toList, List.flatMap_map]
  rfl

theorem flightOf_butTurns {a b : Stream} (h : SameButTurns a b) : flightOf a = flightOf b := by
  obtain ⟨m, rfl⟩ := h
  rfl

theorem inFlight_turnedCore {n j : Nat} (hj : j < 16) (s : State) (d : BitVec 256) : inFlight (turnedCore s n j d) = inFlight (getC s n) := by
  rw [inFlight_eq, inFlight_eq]
  refine congrArg (fun f => List.flatMap f (List.range 16)) (funext fun k => ?_)
  by_cases hk : k = j
  · rw [hk, getStream_turnedCore hj]
    rfl
  · exact flightOf_butTurns ((attends_turnedCore hj s n d).others k hk)

theorem turnedCore_work (s : State) (n j : Nat) (d : BitVec 256) : (turnedCore s n j d).copies = (getC s n).copies ∧
    (turnedCore s n j d).threads = (getC s n).threads := by
  obtain ⟨x, hx⟩ := headed_eq (passTurn (fun k => (readyNext s n k).isSome) j (getC s n)) d
  obtain ⟨y, z, hy⟩ := passTurn_eq (fun k => (readyNext s n k).isSome) j (getC s n)
  rw [turnedCore, hx, hy]
  exact ⟨rfl, rfl⟩

theorem fenceScope_turned (h : Stands s c.val i.val opFence d) (m : Nat) :
    fenceScope (turned s c.val i.val d) c.val i.val m = fenceScope s c.val i.val m := by
  have lcores : getL (turned s c.val i.val d) c.val = getL s c.val := by
    rw [getL, (turned_core [] s c.val i.val d).frame .lcores (by decide), getL]
  obtain ⟨copies, threads⟩ := turnedCore_work s c.val i.val d
  unfold fenceScope
  dsimp only
  rw [turned_own, lcores, inFlight_turnedCore h.lt, copies, threads, (attends_turnedCore h.lt s c.val d).flight]

/-- A stream that has begun to wait adds its own number to what is in flight. -/
theorem inFlight_begun {b : Blocked} {op : Nat} (h : Stands s c.val i.val op d) {x : Nat}
    (hx : x ∈ inFlight (getC (blockOn (turned s c.val i.val d) c.val i.val b) c.val)) : x ∈ inFlight (getC s c.val) ∨ x = (getC s c.val).nextId := by
  rw [(blockOn_core [] _ _ _ _).own, turned_own, inFlight_eq, List.mem_flatMap] at hx
  obtain ⟨k, hk, hx⟩ := hx
  rw [← inFlight_turnedCore h.lt s d, inFlight_eq]
  by_cases own : k = i.val
  · rw [own, blockedCore, getStream_modStream_same _ h.lt] at hx
    rcases List.mem_cons.mp hx with rfl | hx
    · exact .inr (turnedCore_rest s c.val i.val d).2.2.2.2
    · refine .inl (List.mem_flatMap.mpr ⟨i.val, List.mem_range.mpr h.lt, ?_⟩)
      unfold flightOf
      split
      · exact List.mem_cons_of_mem _ hx
      · exact hx
  · rw [blockedCore, getStream_modStream_other _ own] at hx
    exact .inl (List.mem_flatMap.mpr ⟨k, hk, hx⟩)

theorem inFlight_kept {b : Blocked} {op : Nat} (h : Stands s c.val i.val op d) {x : Nat} (hx : x ∈ inFlight (getC s c.val)) :
    x ∈ inFlight (getC (blockOn (turned s c.val i.val d) c.val i.val b) c.val) := by
  rw [← inFlight_turnedCore h.lt s d, inFlight_eq, List.mem_flatMap] at hx
  obtain ⟨k, hk, hx⟩ := hx
  rw [(blockOn_core [] _ _ _ _).own, turned_own, inFlight_eq, List.mem_flatMap]
  refine ⟨k, hk, ?_⟩
  by_cases own : k = i.val
  · have free : (getStream (turnedCore s c.val i.val d) i.val).blocked = none := by
      rw [getStream_turnedCore h.lt]
      exact h.none i.val
    rw [own, flightOf, free] at hx
    rw [own, blockedCore, getStream_modStream_same _ h.lt]
    exact List.mem_cons_of_mem _ hx
  · rw [blockedCore, getStream_modStream_other _ own]
    exact hx

theorem exec_fence (h : Stands s c.val i.val opFence d) : exec (.fence c i) s =
    done (wakeCore (blockOn (turned s c.val i.val d) c.val i.val (.fence (fenceScope s c.val i.val (dfield d 32 2)))) c.val) := by
  show done (issueControl opFence (doFence c.val i.val) s c.val i.val) = _
  rw [issueControl_takes h, doFence, fenceScope_turned h]

theorem unblock_fence (h : Stands s c.val i.val opFence d) (begun : Begun s c.val i.val d (.fence ids) late v) :
    unblock v c.val i.val = if ids.all (fun x => !(inFlight (getC v c.val)).contains x) then some (completeHere v c.val i.val) else none := by
  unfold unblock
  dsimp only
  rw [if_neg (by simp [begun.runs h, begun.can h]), begun.core.blocked]

/-- R179: FENCE. -/
theorem fence_shows (hu : u = getStream (getC s c.val) i.val) (hk : k = headed (getC s c.val) d) (h : Stands s c.val i.val opFence d)
    (hids : ids = fenceScope s c.val i.val (dfield d 32 2)) :
    ((∀ x ∈ ids, x ∉ inFlight (getC s c.val) ∧ x ≠ (getC s c.val).nextId) → ∃ t, exec (.fence c i) s = .next t ∧
      Advances s t c.val i.val (u.pc + 32) ∧ (getC t c.val).sems = (signalled k d).sems) ∧
    ((∃ x ∈ ids, x ∈ inFlight (getC s c.val)) → ∃ t, exec (.fence c i) s = .next t ∧ Awaits s t c.val i.val d (.fence ids)) := by
  subst hu hk
  have run := exec_fence h
  rw [← hids] at run
  have begun := begun_blockOn h (.fence ids)
  have un := unblock_fence h begun
  refine ⟨fun clear => ?_, fun ⟨x, hx, busy⟩ => ?_⟩
  · obtain ⟨y, hy, adv, core, -⟩ := begun.goes h none false 0
    have passes : ids.all (fun x => !(inFlight (getC (blockOn (turned s c.val i.val d) c.val i.val (.fence ids)) c.val)).contains x) = true := by
      rw [List.all_eq_true]
      intro x hx
      rw [Bool.not_eq_true', ← Bool.not_eq_true, List.contains_iff_mem]
      exact fun busy => (inFlight_begun h busy).elim (clear x hx).1 (clear x hx).2
    rw [if_pos passes] at un
    have goes := wakeCore_goes (begun.only h) h.lt un (show NoneBlocked (completeHere _ _ _) _ from hy ▸ adv.none h.none)
    rw [goes] at run
    rw [show completeHere (blockOn (turned s c.val i.val d) c.val i.val (.fence ids)) c.val i.val = y from hy.symm] at run
    have kept := settle_settled y
    refine ⟨_, run, adv.of_settled kept, ?_⟩
    rw [getC_settled kept, core, landed_sems]
    exact signalled_sems (takenCore_sems begun.sems none false 0) d
  · have blocks : ¬ ids.all (fun x => !(inFlight (getC (blockOn (turned s c.val i.val d) c.val i.val (.fence ids)) c.val)).contains x) = true := by
      rw [List.all_eq_true]
      intro clear
      have free := clear x hx
      rw [Bool.not_eq_true', ← Bool.not_eq_true, List.contains_iff_mem] at free
      exact free (inFlight_kept h busy)
    rw [if_neg blocks] at un
    rw [wakeCore_still (begun.only h) un] at run
    exact ⟨_, run, (begun.awaits h).of_settled (settle_settled _)⟩

end

end Sys2Proof.Machine
end

section
-- One proof after the other: a text of this length has more proofs waiting at once than the check has threads for.
set_option Elab.async false
/-! PROOFS. END: a stream ends, and with the last of its streams a work item finishes (R172, R234). -/

namespace Sys2Proof.Machine

/-! ### Counts of a context, beside memory -/

/-- A descriptor of a context has completed (R407). -/
def countDone (x : Context) : Context := { x with prog := x.prog + 1, idleBeats := 0, completed := true }

/-- The state with other cores, and a completion counted for a context. -/
def withDone (sl : AMap PCore) (c : Nat) (s : State) : State := modCtx { s with slots := sl } c countDone

theorem modCtx_comm (s : State) (a b : Nat) {f g : Context → Context} (h : ∀ x, f (g x) = g (f x)) :
    modCtx (modCtx s a f) b g = modCtx (modCtx s b g) a f := by
  by_cases hb : b < 64
  · by_cases hab : a = b
    · subst hab
      show setCtx (modCtx s a f) a (g (getCtx (modCtx s a f) a)) = setCtx (modCtx s a g) a (f (getCtx (modCtx s a g) a))
      rw [getCtx_modCtx_same s hb, getCtx_modCtx_same s hb, h]
      simp only [modCtx, setCtx, Vector.setIfInBounds_setIfInBounds]
    · show setCtx (modCtx s a f) b (g (getCtx (modCtx s a f) b)) = setCtx (modCtx s b g) a (f (getCtx (modCtx s b g) a))
      rw [getCtx_modCtx_other s (Ne.symm hab), getCtx_modCtx_other s hab]
      simp only [modCtx, setCtx]
      congr 1
      refine Vector.ext fun k hk => ?_
      simp only [Vector.getElem_setIfInBounds]
      split <;> split <;> first | rfl | (exfalso; omega)
  · rw [modCtx_outOfBounds _ (Nat.le_of_not_lt hb), modCtx_outOfBounds _ (Nat.le_of_not_lt hb)]

theorem getCtx_modCtx_kept {α : Type} (v : Context → α) {f : Context → Context} (h : ∀ x, v (f x) = v x) (s : State) (c k : Nat) :
    v (getCtx (modCtx s c f) k) = v (getCtx s k) := by
  by_cases hk : k = c
  · subst hk
    by_cases hb : k < 64
    · rw [getCtx_modCtx_same s hb, h]
    · rw [modCtx_outOfBounds _ (Nat.le_of_not_lt hb)]
  · rw [getCtx_modCtx_other s hk]

theorem aside_withDone (sl : AMap PCore) (c : Nat) : Aside (withDone sl c) where
  opt _ := rfl
  hub _ := rfl
  mem _ := rfl
  diag _ := rfl
  ticks _ := rfl
  free _ := rfl
  view s k := ⟨getCtx_modCtx_kept Context.part (f := countDone) (fun _ => rfl) { s with slots := sl } c k,
    getCtx_modCtx_kept Context.sec (f := countDone) (fun _ => rfl) { s with slots := sl } c k,
    getCtx_modCtx_kept Context.pmBase (f := countDone) (fun _ => rfl) { s with slots := sl } c k,
    getCtx_modCtx_kept Context.pmLen (f := countDone) (fun _ => rfl) { s with slots := sl } c k⟩
  putMem _ _ := rfl
  putDiag _ _ := rfl
  putFree _ _ := rfl
  logs _ _ _ _ _ _ := rfl
  tags s k := by
    have part : (getCtx (withDone sl c s) k).part = (getCtx s k).part :=
      getCtx_modCtx_kept Context.part (f := countDone) (fun _ => rfl) { s with slots := sl } c k
    unfold countTag
    dsimp only
    rw [part]
    exact modCtx_comm (modSecCore { s with slots := sl } fun q =>
      { q with tagFail := q.tagFail.setIfInBounds (getCtx s k).part (q.tagFail.getD (getCtx s k).part 0 + 1) }) c k (fun _ => rfl)

/-! ### What finishing a work item moves -/

section
variable {s t : State} {c : Nat} {w : Item}

theorem modTiming_moves (hc : c < 64) (s : State) (step : BitVec 48) (f : TimingRec → TimingRec) :
    ∃ ts, CtxTo [] c s (modTiming s c step f) { getCtx s c with led := { (getCtx s c).led with times := ts } } := by
  have h := ctxTo_modLed hc [] s fun l =>
    { l with times := if l.times.any (fun t => t.step == step) then l.times.map fun t => if t.step == step then f t else t
      else (f (TimingRec.fresh step) :: l.times).take 64 }
  have eq : modTiming s c step f = modLed s c fun l =>
      { l with times := if l.times.any (fun t => t.step == step) then l.times.map fun t => if t.step == step then f t else t
        else (f (TimingRec.fresh step) :: l.times).take 64 } := by
    unfold modTiming
    refine congrArg (modLed s c) (funext fun l => ?_)
    split <;> rfl
  rw [← eq] at h
  exact ⟨_, h⟩

/-- R234: of the ledger a forward or backward item moves times and digests alone. -/
theorem finishItem_record (hc : c < 64) (role : w.role = 1) (s : State) : ∃ x, CtxTo [] c (setRecState s c w.recVa (if w.backward then 4 else 2))
      (finishItem s c w) x ∧ x.led.ownDone = (getCtx (setRecState s c w.recVa (if w.backward then 4 else 2)) c).led.ownDone ∧
      x.vslots = (getCtx (setRecState s c w.recVa (if w.backward then 4 else 2)) c).vslots ∧
      x.sec = (getCtx (setRecState s c w.recVa (if w.backward then 4 else 2)) c).sec := by
  generalize hv : (if w.backward then 4 else 2) = n
  obtain ⟨z, hz⟩ : ∃ z, z = setRecState s c w.recVa n := ⟨_, rfl⟩
  have one : w.role.toNat = 1 := by rw [role]; rfl
  unfold finishItem
  rw [one, hv]
  dsimp only
  rw [← hz]
  by_cases backward : w.backward = true
  · rw [if_pos backward]
    obtain ⟨ts, first⟩ := modTiming_moves hc z w.step fun t => { t with mbDone := BitVec.ofNat 16 (mbsDone z c w.step) }
    obtain ⟨z1, hz1⟩ : ∃ z1, z1 = modTiming z c w.step fun t => { t with mbDone := BitVec.ofNat 16 (mbsDone z c w.step) } := ⟨_, rfl⟩
    rw [← hz1] at first ⊢
    by_cases all : recordsDone z1 c w.step = true
    · rw [if_pos all]
      unfold backwardDone
      dsimp only
      obtain ⟨ts', second⟩ := modTiming_moves hc z1 w.step fun t => { t with tBwd := z1.time.now }
      obtain ⟨z2, hz2⟩ : ∃ z2, z2 = modTiming z1 c w.step fun t => { t with tBwd := z1.time.now } := ⟨_, rfl⟩
      rw [← hz2] at second ⊢
      rw [first.own] at second
      by_cases audit : audited z2 c w.step = true
      · rw [if_pos audit]
        have third := ctxTo_modLed hc [] z2 fun l => { l with gradDigests := gradDigests z2 c }
        rw [second.own] at third
        exact ⟨_, (first.trans second).trans third, rfl, rfl, rfl⟩
      · rw [if_neg audit]
        exact ⟨_, first.trans second, rfl, rfl, rfl⟩
    · rw [if_neg all]
      exact ⟨_, first, rfl, rfl, rfl⟩
  · rw [if_neg backward]
    exact ⟨_, .refl [] c z, rfl, rfl, rfl⟩

/-- R247: an update stands as done, the own one with its version written. -/
theorem finishItem_update (hc : c < 64) (role : w.role = 2) (s : State) : ∃ x, CtxTo [] c s (finishItem s c w) x ∧
      x.led.ownDone = (!w.mirror || (getCtx s c).led.ownDone) ∧ x.led.mirrorDone = (w.mirror || (getCtx s c).led.mirrorDone) ∧
      x.vslots = (if w.mirror then (getCtx s c).vslots else
        (getCtx s c).vslots.setIfInBounds (verSlot s c (w.step + 1)) (.written, w.step + 1)) ∧ x.sec = (getCtx s c).sec := by
  have two : w.role.toNat = 2 := by rw [role]; rfl
  have marked : ∃ z x, z = (if w.mirror then modLed s c fun l => { l with mirrorDone := true }
      else setVer (modLed s c fun l => { l with ownDone := true }) c (verSlot s c (w.step + 1)) (.written, w.step + 1)) ∧ CtxTo [] c s z x ∧
      x.led.ownDone = (!w.mirror || (getCtx s c).led.ownDone) ∧ x.led.mirrorDone = (w.mirror || (getCtx s c).led.mirrorDone) ∧
      x.vslots = (if w.mirror then (getCtx s c).vslots else
        (getCtx s c).vslots.setIfInBounds (verSlot s c (w.step + 1)) (.written, w.step + 1)) ∧ x.sec = (getCtx s c).sec := by
    cases w.mirror with
    | true => exact ⟨_, _, rfl, ctxTo_modLed hc [] s fun l => { l with mirrorDone := true }, rfl, rfl, rfl, rfl⟩
    | false =>
      have own := ctxTo_modLed hc [] s fun l => { l with ownDone := true }
      have ver := ctxTo_modCtx hc [] (modLed s c fun l => { l with ownDone := true }) fun x =>
        { x with vslots := x.vslots.setIfInBounds (verSlot s c (w.step + 1)) (.written, w.step + 1) }
      rw [own.own] at ver
      exact ⟨_, _, rfl, own.trans ver, rfl, rfl, rfl, rfl⟩
  obtain ⟨z, x, hz, first, ownDone, mirrorDone, vslots, sec⟩ := marked
  unfold finishItem
  rw [two]
  dsimp only
  rw [← hz]
  by_cases all : ((getCtx z c).led.ownDone && ((getCtx z c).led.mirrorDone || !mirrorNeeded (getCtx z c).led)) = true
  · rw [if_pos all]
    obtain ⟨ts, second⟩ := modTiming_moves hc z w.step fun t => { t with tUpd := z.time.now }
    rw [first.own] at second
    exact ⟨_, first.trans second, ownDone, mirrorDone, vslots, sec⟩
  · rw [if_neg all]
    exact ⟨x, first, ownDone, mirrorDone, vslots, sec⟩

end

/-! ### A stream ends -/

/-- The core once stream `i` has ended. -/
def endedCore (c : PCore) (i : Nat) (d : BitVec 256) : PCore :=
  modStream (modStream (signalled c d) i fun t => { t with prog := t.prog + 1 }) i
    fun t => { t with st := .idle, blocked := none, blocks := [], ahead := [], item := none }

/-- The state once stream `i` has ended, before its work item finishes. -/
def streamEnded (s : State) (n i : Nat) (d : BitVec 256) : State :=
  modC (countProg (signalSsem s n d) n i) n fun c =>
    modStream c i fun t => { t with st := .idle, blocked := none, blocks := [], ahead := [], item := none }

section
variable {s v : State} {n i : Nat} {d : BitVec 256} {c : PCore}

theorem streamEnded_core (s : State) (n i : Nat) (d : BitVec 256) : CoreTo [.ctxs] n s (streamEnded s n i d) (endedCore (getC s n) i d) := by
  have first := signalSsem_core [.ctxs] s n d
  have second := countProg_core (signalSsem s n d) n i
  rw [first.own] at second
  exact (first.trans second).modC _

theorem getStream_endedCore (hi : i < 16) : getStream (endedCore c i d) i = { getStream c i with
    prog := (getStream c i).prog + 1, st := .idle, blocked := none, blocks := [], ahead := [], item := none } := by
  rw [endedCore, getStream_modStream_same _ hi, getStream_modStream_same _ hi, getStream_signalled]

theorem getStream_endedCore_other {k : Nat} (hk : k ≠ i) : getStream (endedCore c i d) k = getStream c k := by
  rw [endedCore, getStream_modStream_other _ hk, getStream_modStream_other _ hk, getStream_signalled]

theorem endedCore_sems : (endedCore c i d).sems = (signalled c d).sems := rfl

theorem endedCore_data : (endedCore c i d).stage = c.stage ∧ (endedCore c i d).cache = c.cache ∧ (endedCore c i d).banks = c.banks :=
  (attends_signalled i c d).data

theorem streamEnded_ctxs (s : State) (n i : Nat) (d : BitVec 256) :
    (streamEnded s n i d).ctxs = (modCtx s (getStream (getC s n) i).ctx countDone).ctxs := by
  have same : (getStream (getC (signalSsem s n d) n) i).ctx = (getStream (getC s n) i).ctx := by
    rw [(signalSsem_core [] s n d).own, getStream_signalled]
  have ctxs : (signalSsem s n d).ctxs = s.ctxs := (signalSsem_core [] s n d).frame .ctxs (by decide)
  show ((signalSsem s n d).ctxs.setIfInBounds (getStream (getC (signalSsem s n d) n) i).ctx
    (countDone (getCtx (signalSsem s n d) (getStream (getC (signalSsem s n d) n) i).ctx))) = _
  rw [same, getCtx_congr ctxs, ctxs]
  rfl

/-- What a frame of the cores and the contexts leaves, written out. -/
theorem eq_of_workFrame {s t : State} (h : AllBut [.slots, .ctxs] s t) : t = { s with slots := t.slots, ctxs := t.ctxs } := by
  have e1 := h .opt (by decide)
  have e2 := h .pins (by decide)
  have e3 := h .hub (by decide)
  have e4 := h .time (by decide)
  have e5 := h .latches (by decide)
  have e6 := h .ticks (by decide)
  have e7 := h .lcores (by decide)
  have e8 := h .mem (by decide)
  have e9 := h .fab (by decide)
  have e10 := h .mail (by decide)
  have e11 := h .sec (by decide)
  have e12 := h .pwr (by decide)
  have e13 := h .diag (by decide)
  have e14 := h .outbox (by decide)
  have e15 := h .free (by decide)
  have e16 := h .pending (by decide)
  cases s
  cases t
  cases e1; cases e2; cases e3; cases e4; cases e5; cases e6; cases e7; cases e8; cases e9; cases e10; cases e11; cases e12; cases e13
  cases e14; cases e15; cases e16
  rfl

theorem endStreamNow_bare (h : fetchedAt (getStream (getC s n) i) (getStream (getC s n) i).pc = some d)
    (item : (getStream (getC s n) i).item = none) : endStreamNow s n i = streamEnded s n i d := by
  unfold endStreamNow
  dsimp only
  rw [h, item]
  rfl

theorem endStreamNow_item {w : Item} (h : fetchedAt (getStream (getC s n) i) (getStream (getC s n) i).pc = some d)
    (item : (getStream (getC s n) i).item = some w) : endStreamNow s n i =
      if (partCores (streamEnded s n i d) (getCtx (streamEnded s n i d) (getStream (getC s n) i).ctx).part).any
        (fun m => (getStream (getC (streamEnded s n i d) m) i).item == some w) then streamEnded s n i d
      else finishItem (streamEnded s n i d) (getStream (getC s n) i).ctx w := by
  unfold endStreamNow
  dsimp only
  rw [h, item]
  rfl

end

end Sys2Proof.Machine
end

section
-- One proof after the other: a text of this length has more proofs waiting at once than the check has threads for.
set_option Elab.async false
/-! PROOFS. END as it issues: it waits for what is in flight, and then its stream ends (R172, R234). -/

namespace Sys2Proof.Machine

section
variable {s v : State} {n i : Nat} {c : Core} {j : SlotNo} {d : BitVec 256} {w : Item}

/-- The state in which a stream waits in its END. -/
def endWaits (s : State) (n i : Nat) (d : BitVec 256) : State := blockOn (turned s n i d) n i .ending

theorem endWaits_core (s : State) (n i : Nat) (d : BitVec 256) : CoreTo [] n s (endWaits s n i d) (blockedCore (turnedCore s n i d) i .ending) := by
  have k := blockOn_core [] (turned s n i d) n i .ending
  rw [turned_own] at k
  exact (turned_core [] s n i d).trans k

theorem endWaits_begun (h : Stands s n i opEnd d) : Begun s n i d .ending false (endWaits s n i d) := begun_blockOn h .ending

/-- The stream as it waits in its END. -/
theorem endWaits_stream (h : Stands s n i opEnd d) : (getStream (getC (endWaits s n i d) n) i).item = (getStream (getC s n) i).item ∧
    (getStream (getC (endWaits s n i d) n) i).ctx = (getStream (getC s n) i).ctx ∧
    (getStream (getC (endWaits s n i d) n) i).inflight = (getStream (getC s n) i).inflight := by
  obtain ⟨m, own⟩ := (endWaits_begun h).core.own
  rw [own, getStream_turnedCore h.lt]
  exact ⟨rfl, rfl, rfl⟩

theorem exec_end (h : Stands s c.val j.val opEnd d) : exec (.endStream c j) s = doneMem (wakeCore (endWaits s c.val j.val d) c.val) := by
  show doneMem (issueControl opEnd (doEnd c.val j.val) s c.val j.val) = _
  rw [issueControl_takes h]
  rfl

theorem unblock_ending (h : Stands s n i opEnd d) : unblock (endWaits s n i d) n i =
    if (getStream (getC s n) i).inflight.isEmpty then some (endStreamNow (endWaits s n i d) n i) else none := by
  have begun := endWaits_begun h
  unfold unblock
  dsimp only
  rw [if_neg (by simp [begun.runs h, begun.can h]), begun.core.blocked, (endWaits_stream h).2.2]

/-- An END with something in flight waits. -/
theorem end_waits (h : Stands s c.val j.val opEnd d) (calm : NoLockout s) (busy : (getStream (getC s c.val) j.val).inflight ≠ []) :
    ∃ t, exec (.endStream c j) s = .next t ∧ Awaits s t c.val j.val d .ending := by
  have begun := endWaits_begun h
  have un := unblock_ending h
  rw [if_neg (by rwa [List.isEmpty_iff])] at un
  have waits := begun.awaits h
  have run := exec_end h
  rw [wakeCore_still (begun.only h) un, doneMem_eq fun k => by
    rw [getCtx_congr waits.ctxs]
    exact calm k] at run
  exact ⟨_, run, waits.of_settled (settle_settled _)⟩

/-- The state once the stream of an END has ended. -/
def ended (s : State) (n i : Nat) (d : BitVec 256) : State := streamEnded (endWaits s n i d) n i d

theorem ended_core (s : State) (n i : Nat) (d : BitVec 256) :
    CoreTo [.ctxs] n s (ended s n i d) (endedCore (getC (endWaits s n i d) n) i d) :=
  CoreTo.trans ⟨(endWaits_core s n i d).frame.mono, rfl, (endWaits_core s n i d).others⟩ (streamEnded_core (endWaits s n i d) n i d)

theorem ended_ctxs (h : Stands s n i opEnd d) : (ended s n i d).ctxs = (modCtx s (getStream (getC s n) i).ctx countDone).ctxs := by
  have ctxs : (endWaits s n i d).ctxs = s.ctxs := (endWaits_core s n i d).frame .ctxs (by decide)
  rw [ended, streamEnded_ctxs, (endWaits_stream h).2.1]
  show (endWaits s n i d).ctxs.setIfInBounds _ (countDone (getCtx (endWaits s n i d) _)) = s.ctxs.setIfInBounds _ (countDone (getCtx s _))
  rw [ctxs, getCtx_congr ctxs]

theorem ended_kept {α : Type} (f : Context → α) (hf : ∀ x, f (countDone x) = f x) (h : Stands s n i opEnd d) (k : Nat) :
    f (getCtx (ended s n i d) k) = f (getCtx s k) := by
  rw [getCtx_congr (ended_ctxs h)]
  exact getCtx_modCtx_kept f hf s _ k

theorem ended_calm (h : Stands s n i opEnd d) (calm : NoLockout s) : NoLockout (ended s n i d) := fun k => by
  rw [ended_kept Context.sec (fun _ => rfl) h]
  exact calm k

/-- What an END that has ended its stream leaves of its core and of the others. -/
structure StreamGone (s t : State) (n i : Nat) (d : BitVec 256) : Prop where
  own    : (getStream (getC t n) i).st = .idle ∧ (getStream (getC t n) i).item = none ∧ (getStream (getC t n) i).blocked = none ∧
    (getStream (getC t n) i).prog = (getStream (getC s n) i).prog + 1
  sems   : (getC t n).sems = (signalled (headed (getC s n) d) d).sems
  data   : (getC t n).stage = (getC s n).stage ∧ (getC t n).banks = (getC s n).banks
  cores  : ∀ q, q ≠ physOf s n → getP t q = getP s q
  others : ∀ k, k ≠ i → SameButTurns (getStream (getC t n) k) (getStream (getC s n) k)

theorem ended_gone (h : Stands s n i opEnd d) : StreamGone s (ended s n i d) n i d := by
  have begun := endWaits_begun h
  have core := ended_core s n i d
  have kept := (attends_turnedCore h.lt s n d).trans begun.core.attends
  have own := getStream_endedCore (c := getC (endWaits s n i d) n) (d := d) h.lt
  obtain ⟨stage, -, banks⟩ := endedCore_data (c := getC (endWaits s n i d) n) (i := i) (d := d)
  refine ⟨?_, ?_, ?_, core.others, fun k hk => ?_⟩
  · rw [core.own, own, ← kept.prog]
    exact ⟨rfl, rfl, rfl, rfl⟩
  · rw [core.own, endedCore_sems]
    exact signalled_sems begun.sems d
  · rw [core.own, stage, banks, kept.data.1, kept.data.2.2]
    exact ⟨rfl, rfl⟩
  · rw [core.own, getStream_endedCore_other hk]
    exact kept.others k hk

theorem StreamGone.congr {t t' : State} (h : StreamGone s t n i d) (hub : t'.hub = t.hub) (slots : t'.slots = t.slots) : StreamGone s t' n i d := by
  obtain ⟨h1, h2, h3, h4, h5⟩ := h
  rw [← getC_congr hub slots n] at h1 h2 h3 h5
  exact ⟨h1, h2, h3, fun q hq => (getP_congr slots q).trans (h4 q hq), h5⟩

theorem StreamGone.of_settled {t t' : State} (h : StreamGone s t n i d) (k : Settled t t') : StreamGone s t' n i d := by
  obtain ⟨h1, h2, h3, h4, h5⟩ := h
  rw [← getC_settled k n] at h1 h2 h3 h5
  exact ⟨h1, h2, h3, fun q hq => (getP_settled k q).trans (h4 q hq), h5⟩

theorem StreamGone.none {t : State} (h : StreamGone s t n i d) (none_ : NoneBlocked s n) : NoneBlocked t n := fun k => by
  by_cases hk : k = i
  · rw [hk]
    exact h.own.2.2.1
  · obtain ⟨m, hm⟩ := h.others k hk
    rw [hm]
    exact none_ k

/-- An END with nothing in flight ends its stream. -/
theorem end_ends {y : State} (h : Stands s c.val j.val opEnd d) (still : (getStream (getC s c.val) j.val).inflight = [])
    (eq : endStreamNow (endWaits s c.val j.val d) c.val j.val = y) (gone : StreamGone s y c.val j.val d) (calm : NoLockout y) :
    ∃ t, exec (.endStream c j) s = .next t ∧ Settled y t ∧ StreamGone s t c.val j.val d := by
  have begun := endWaits_begun h
  have un := unblock_ending h
  rw [still, List.isEmpty_nil, if_pos rfl, eq] at un
  have run := exec_end h
  rw [wakeCore_goes (begun.only h) h.lt un (gone.none h.none), doneMem_eq calm] at run
  exact ⟨_, run, settle_settled y, gone.of_settled (settle_settled y)⟩

/-- Whether another core still works on the item of a stream that has ended. -/
theorem ended_shared (h : Stands s n i opEnd d) (w : Item) : (partCores (ended s n i d) (getCtx (ended s n i d) (getStream (getC s n) i).ctx).part).any
      (fun m => (getStream (getC (ended s n i d) m) i).item == some w) = true ↔
    ∃ m ∈ partCores s (getCtx s (getStream (getC s n) i).ctx).part, physOf s m ≠ physOf s n ∧ (getStream (getC s m) i).item = some w := by
  have core := ended_core s n i d
  have gone := ended_gone h
  rw [partCores_congr (core.frame .hub (by decide)), ended_kept Context.part (fun _ => rfl) h, List.any_eq_true]
  refine exists_congr fun m => and_congr_right fun _ => ?_
  rw [beq_iff_eq]
  by_cases hm : physOf s m = physOf s n
  · have same : getC (ended s n i d) m = getC (ended s n i d) n := by rw [getC, getC, core.place, core.place, hm]
    rw [same, gone.own.2.1]
    exact ⟨fun e => (by cases e), fun e => absurd hm e.1⟩
  · have same : getC (ended s n i d) m = getC s m := by rw [getC, core.place, core.others _ hm, getC]
    rw [same]
    exact ⟨fun e => ⟨hm, e⟩, fun e => e.2⟩

theorem endStreamNow_alone (h : Stands s n i opEnd d) (item : (getStream (getC s n) i).item = none) :
    endStreamNow (endWaits s n i d) n i = ended s n i d :=
  endStreamNow_bare ((endWaits_begun h).fetched h) ((endWaits_stream h).1.trans item)

theorem endStreamNow_works (h : Stands s n i opEnd d) (item : (getStream (getC s n) i).item = some w) :
    endStreamNow (endWaits s n i d) n i = if (partCores (ended s n i d) (getCtx (ended s n i d) (getStream (getC s n) i).ctx).part).any
        (fun m => (getStream (getC (ended s n i d) m) i).item == some w) then ended s n i d
      else finishItem (ended s n i d) (getStream (getC s n) i).ctx w := by
  have eq := endStreamNow_item ((endWaits_begun h).fetched h) ((endWaits_stream h).1.trans item)
  rw [(endWaits_stream h).2.1] at eq
  exact eq

/-- An END of a stream whose work, if it has any, goes on elsewhere. -/
theorem end_alone (h : Stands s c.val j.val opEnd d) (calm : NoLockout s) (still : (getStream (getC s c.val) j.val).inflight = [])
    (shared : (getStream (getC s c.val) j.val).item = none ∨ ∃ w m, (getStream (getC s c.val) j.val).item = some w ∧
      m ∈ partCores s (getCtx s (getStream (getC s c.val) j.val).ctx).part ∧ physOf s m ≠ physOf s c.val ∧
      (getStream (getC s m) j.val).item = some w) :
    ∃ t, exec (.endStream c j) s = .next t ∧ t.mem = s.mem ∧ StreamGone s t c.val j.val d ∧
      ∀ k, (getCtx t k).led = (getCtx s k).led ∧ (getCtx t k).vslots = (getCtx s k).vslots := by
  have eq : endStreamNow (endWaits s c.val j.val d) c.val j.val = ended s c.val j.val d := by
    rcases shared with item | ⟨w, m, item, mem, other, works⟩
    · exact endStreamNow_alone h item
    · rw [endStreamNow_works h item, if_pos ((ended_shared h w).mpr ⟨m, mem, other, works⟩)]
  obtain ⟨t, ht, k, gone⟩ := end_ends h still eq (ended_gone h) (ended_calm h calm)
  refine ⟨t, ht, k.out.mem.trans ((ended_core _ _ _ _).frame .mem (by decide)), gone, fun x => ?_⟩
  rw [getCtx_congr k.out.ctxs]
  exact ⟨ended_kept Context.led (fun _ => rfl) h x, ended_kept Context.vslots (fun _ => rfl) h x⟩

theorem endStreamNow_last (h : Stands s n i opEnd d) (item : (getStream (getC s n) i).item = some w)
    (last : ∀ m ∈ partCores s (getCtx s (getStream (getC s n) i).ctx).part, physOf s m ≠ physOf s n → (getStream (getC s m) i).item ≠ some w) :
    endStreamNow (endWaits s n i d) n i = finishItem (ended s n i d) (getStream (getC s n) i).ctx w := by
  rw [endStreamNow_works h item, if_neg]
  rw [ended_shared h w]
  rintro ⟨m, mem, other, works⟩
  exact last m mem other works

/-- An END that finishes an update (R247). -/
theorem end_update (h : Stands s c.val j.val opEnd d) (calm : NoLockout s) (still : (getStream (getC s c.val) j.val).inflight = [])
    (item : (getStream (getC s c.val) j.val).item = some w) (hx : (getStream (getC s c.val) j.val).ctx < 64)
    (last : ∀ m ∈ partCores s (getCtx s (getStream (getC s c.val) j.val).ctx).part, physOf s m ≠ physOf s c.val →
      (getStream (getC s m) j.val).item ≠ some w) (role : w.role = 2) {x : Nat} (ex : x = (getStream (getC s c.val) j.val).ctx) :
    ∃ t, exec (.endStream c j) s = .next t ∧ t.mem = s.mem ∧ StreamGone s t c.val j.val d ∧
      (getCtx t x).led.ownDone = (!w.mirror || (getCtx s x).led.ownDone) ∧
      (getCtx t x).led.mirrorDone = (w.mirror || (getCtx s x).led.mirrorDone) ∧
      (getCtx t x).vslots = (if w.mirror then (getCtx s x).vslots else
        (getCtx s x).vslots.setIfInBounds (verSlot s x (w.step + 1)) (.written, w.step + 1)) := by
  subst ex
  obtain ⟨y, moved, ownDone, mirrorDone, vslots, sec⟩ := finishItem_update hx role (ended s c.val j.val d)
  have core := ended_core s c.val j.val d
  have led := ended_kept Context.led (fun _ => rfl) h (getStream (getC s c.val) j.val).ctx
  have ver : verSlot (ended s c.val j.val d) (getStream (getC s c.val) j.val).ctx (w.step + 1) =
      verSlot s (getStream (getC s c.val) j.val).ctx (w.step + 1) := by
    rw [verSlot, ctxSetting_kept core.frame (ended_kept Context.set (fun _ => rfl) h _), verSlot]
  obtain ⟨t, ht, k, gone⟩ := end_ends h still (endStreamNow_last h item last)
    ((ended_gone h).congr (moved.frame .hub (by decide)) (moved.frame .slots (by decide))) (moved.calm sec (ended_calm h calm))
  refine ⟨t, ht, k.out.mem.trans (Eq.trans (moved.frame .mem (by decide)) (core.frame .mem (by decide))), gone, ?_, ?_, ?_⟩
  · rw [getCtx_congr k.out.ctxs, moved.own, ownDone, led]
  · rw [getCtx_congr k.out.ctxs, moved.own, mirrorDone, led]
  · rw [getCtx_congr k.out.ctxs, moved.own, vslots, ver, ended_kept Context.vslots (fun _ => rfl) h]

theorem ended_withDone (h : Stands s n i opEnd d) :
    ended s n i d = withDone (ended s n i d).slots (getStream (getC s n) i).ctx s := by
  have eq := eq_of_workFrame (ended_core s n i d).frame
  rw [ended_ctxs h] at eq
  exact eq

/-- An END that finishes a forward or backward pass of a micro-batch (R234). -/
theorem end_record (h : Stands s c.val j.val opEnd d) (calm : NoLockout s) (still : (getStream (getC s c.val) j.val).inflight = [])
    (item : (getStream (getC s c.val) j.val).item = some w) (hx : (getStream (getC s c.val) j.val).ctx < 64)
    (last : ∀ m ∈ partCores s (getCtx s (getStream (getC s c.val) j.val).ctx).part, physOf s m ≠ physOf s c.val →
      (getStream (getC s m) j.val).item ≠ some w) (role : w.role = 1) {x : Nat} (ex : x = (getStream (getC s c.val) j.val).ctx)
    (open_ : isConf s (getCtx s x).part = false) :
    ∃ t, exec (.endStream c j) s = .next t ∧ t.mem = (setRecState s x w.recVa (if w.backward then 4 else 2)).mem ∧
      StreamGone s t c.val j.val d ∧ (getCtx t x).led.ownDone = (getCtx s x).led.ownDone ∧ (getCtx t x).vslots = (getCtx s x).vslots := by
  subst ex
  obtain ⟨y, moved, ownDone, vslots, sec⟩ := finishItem_record hx role (ended s c.val j.val d)
  generalize (if w.backward then 4 else 2) = m at moved ownDone vslots sec ⊢
  obtain ⟨z, hz⟩ : ∃ z, z = setRecState s (getStream (getC s c.val) j.val).ctx w.recVa m := ⟨_, rfl⟩
  have written : AllBut writeParts s z := hz ▸ (memMoves_putForced s _ _ _).plain open_
  have beside : setRecState (ended s c.val j.val d) (getStream (getC s c.val) j.val).ctx w.recVa m =
      withDone (ended s c.val j.val d).slots (getStream (getC s c.val) j.val).ctx z := by
    have put := (aside_withDone (ended s c.val j.val d).slots (getStream (getC s c.val) j.val).ctx).putForced s
      (getStream (getC s c.val) j.val).ctx (w.recVa.toNat + 0x1B) [BitVec.ofNat 8 m]
    rw [← ended_withDone h] at put
    rw [hz]
    exact put
  rw [beside] at moved ownDone vslots sec
  have kept : ∀ {α : Type} (f : Context → α), (∀ q, f (countDone q) = f q) → ∀ k,
      f (getCtx (withDone (ended s c.val j.val d).slots (getStream (getC s c.val) j.val).ctx z) k) = f (getCtx s k) := fun f hf k =>
    (getCtx_modCtx_kept f hf { z with slots := (ended s c.val j.val d).slots } _ k).trans
      (congrArg f (getCtx_congr (written .ctxs (by decide)) k))
  have hub : (withDone (ended s c.val j.val d).slots (getStream (getC s c.val) j.val).ctx z).hub = (ended s c.val j.val d).hub :=
    Eq.trans (written .hub (by decide)) ((ended_core s c.val j.val d).frame .hub (by decide)).symm
  obtain ⟨t, ht, k, gone⟩ := end_ends h still (endStreamNow_last h item last)
    ((ended_gone h).congr (Eq.trans (moved.frame .hub (by decide)) hub) (moved.frame .slots (by decide)))
    (moved.calm sec fun q => by
      rw [kept Context.sec fun _ => rfl]
      exact calm q)
  have mem : (finishItem (ended s c.val j.val d) (getStream (getC s c.val) j.val).ctx w).mem = z.mem := moved.frame .mem (by decide)
  refine ⟨t, ht, k.out.mem.trans (mem.trans (congrArg State.mem hz)), gone, ?_, ?_⟩
  · rw [getCtx_congr k.out.ctxs, moved.own, ownDone, kept Context.led fun _ => rfl]
  · rw [getCtx_congr k.out.ctxs, moved.own, vslots, kept Context.vslots fun _ => rfl]

end

end Sys2Proof.Machine
end

section
-- One proof after the other: a text of this length has more proofs waiting at once than the check has threads for.
set_option Elab.async false
/-! PROOFS. WAIT_LOW (R184, R446, R448, R450). -/

namespace Sys2Proof.Machine

section
variable {s v : State} {n i op : Nat} {d : BitVec 256} {late : Bool} {time : Option Armed}

theorem turnedCore_eq (s : State) (n i : Nat) (d : BitVec 256) : ∃ x y z,
    turnedCore s n i d = { getC s n with sems := x, turns := y, streams := z } := by
  obtain ⟨x, hx⟩ := headed_eq (passTurn (fun j => (readyNext s n j).isSome) i (getC s n)) d
  obtain ⟨y, z, hy⟩ := passTurn_eq (fun j => (readyNext s n j).isSome) i (getC s n)
  exact ⟨x, y, z, by rw [turnedCore, hx, hy]⟩

/-- What waits in WAIT_LOW, as the core that waits shows it. -/
theorem Begun.core_eq {b : Blocked} (begun : Begun s n i d b late v) : ∃ a x y z w,
    getC v n = { getC s n with sems := x, turns := y, streams := z, nextId := w, cnt := a } := by
  obtain ⟨x, y, z, eq⟩ := turnedCore_eq s n i d
  have rest := begun.core.rest
  rw [eq] at rest
  exact ⟨_, _, _, _, _, rest⟩

theorem enginesEmpty_begun {b : Blocked} (begun : Begun s n i d b late v) : enginesEmpty (getC v n) = enginesEmpty (getC s n) := by
  obtain ⟨a, x, y, z, w, eq⟩ := begun.core_eq
  rw [eq]
  rfl

theorem othersWait_begun {b : Blocked} (h : Stands s n i op d) (begun : Begun s n i d b late v) :
    othersWait (getC v n) i = othersWait (getC s n) i := by
  have kept := (attends_turnedCore h.lt s n d).trans begun.core.attends
  unfold othersWait
  refine congrArg (fun f => List.all (List.range 16) f) (funext fun j => ?_)
  by_cases hj : j = i
  · rw [hj, beq_self_eq_true, Bool.true_or, Bool.true_or]
  · obtain ⟨m, hm⟩ := kept.others j hj
    rw [hm]

theorem lowState_begun {b : Blocked} (begun : Begun s n i d b late v) (e : BitVec 256) :
    lowState v (getC v n) e = lowState s (getC s n) e := by
  obtain ⟨a, x, y, z, w, eq⟩ := begun.core_eq
  have mode : (getC v n).pwrMode = (getC s n).pwrMode := by rw [eq]
  unfold lowState
  rw [mode, begun.now]

/-- R177, R184: what lets a WAIT_LOW go on. -/
theorem unblock_low {taken : Bool} (h : Stands s n i op d) (begun : Begun s n i d (.waitLow (waitSem d) time) late v)
    (ht : taken = (dbit d 38 && decide (1 ≤ (semGet (headed (getC s n) d) (dfield d 32 6)).toNat) &&
      !outranked (turned s n i d) n i (waitSem d) 1)) : unblock v n i =
      if taken || (time.isNone && dbit d 39) then some (completeHere (semTaken v n (waitSem d) taken 1) n i) else none := by
  have sem : semGet (getC v n) (d.extractLsb' 32 6).toNat = semGet (headed (getC s n) d) (dfield d 32 6) := semGet_congr begun.sems _
  have rank := begun.outranked h rfl (waitSem d) 1
  unfold unblock
  dsimp only
  rw [if_neg (by simp [begun.runs h, begun.can h]), begun.core.blocked]
  dsimp only
  rw [rank, begun.fetched h, ht]
  unfold waitSem
  cases dbit d 38 with
  | false => rfl
  | true =>
    simp only [if_pos, sem, Option.map_some, Option.getD_some, Bool.true_and]
    rfl

theorem landed_rest (c : PCore) (i : Nat) (d : BitVec 256) (a : BitVec 48) : (landed c i d a).pstate = c.pstate := by
  obtain ⟨x, y, hx⟩ := signalled_eq c d
  rw [landed, hx]
  rfl

theorem begun_run {b : Blocked} (h : Stands s n i op d) (begun : Begun s n i d b late v) : (getC v n).pstate = .run := by
  obtain ⟨a, x, y, z, w, eq⟩ := begun.core_eq
  rw [eq]
  exact (canIssue_parts h.can).2.1

/-- A WAIT_LOW that is met goes on. -/
theorem low_goes {taken : Bool} (h : Stands s n i op d) (begun : Begun s n i d (.waitLow (waitSem d) time) late v)
    (ht : taken = (dbit d 38 && decide (1 ≤ (semGet (headed (getC s n) d) (dfield d 32 6)).toNat) &&
      !outranked (turned s n i d) n i (waitSem d) 1)) (met : (taken || (time.isNone && dbit d 39)) = true) :
    ∃ y, wakeCore v n = y ∧ (unblock v n i).isSome = true ∧ Advances s y n i ((getStream (getC s n) i).pc + 32) ∧
      (getC y n).sems = (signalled (takenCore (headed (getC s n) d) (waitSem d) taken 1) d).sems ∧ (getC y n).pstate = .run := by
  obtain ⟨y, hy, adv, core, -⟩ := begun.goes h (waitSem d) taken 1
  have un := unblock_low h begun ht
  rw [met, if_pos rfl, ← hy] at un
  obtain ⟨x, hx⟩ := takenCore_eq (getC v n) (waitSem d) taken 1
  refine ⟨y, wakeCore_goes (begun.only h) h.lt un (adv.none h.none), by rw [un]; rfl, adv, ?_, ?_⟩
  · rw [core, landed_sems]
    exact signalled_sems (takenCore_sems begun.sems _ _ _) d
  · rw [core, landed_rest, hx]
    exact begun_run h begun

end

section
variable {s v : State} {c : Core} {i : SlotNo} {d : BitVec 256} {u : Stream} {k : PCore} {r : Launch × Armed} {fired taken : Bool}
  {x : Option (Fin 4)}

/-- The blocking cause with which WAIT_LOW begins. -/
def lowWait (s : State) (d : BitVec 256) : Blocked :=
  .waitLow (waitSem d) (if dbit d 39 then some (armTime s (d.extractLsb' 40 40)) else none)

theorem exec_waitLow (h : Stands s c.val i.val opWaitLow d) : exec (.waitLow c i x) s =
    done (wakeCore (doWaitLow c.val i.val (x.map (·.val)) (turned s c.val i.val d) d) c.val) := by
  show done (issueControl opWaitLow (doWaitLow c.val i.val (x.map (·.val))) s c.val i.val) = _
  rw [issueControl_takes h]

theorem doWaitLow_eq (s : State) (n i : Nat) (a : Option Nat) (d : BitVec 256) : doWaitLow n i a (turned s n i d) d =
    if (getStream (getC (blockTimed (turned s n i d) n i (lowWait s d)) n) i).blocked.isNone ||
      (unblock (blockTimed (turned s n i d) n i (lowWait s d)) n i).isSome then blockTimed (turned s n i d) n i (lowWait s d)
    else enterCoreLow (blockTimed (turned s n i d) n i (lowWait s d)) n i d a := by
  unfold doWaitLow
  dsimp only
  rw [armTime_congr (turned_time s n i d)]
  rfl

theorem blockOn_cnt (s : State) (n i : Nat) (d : BitVec 256) (b : Blocked) :
    (getC (blockOn (turned s n i d) n i b) n).cnt = (getC s n).cnt := by
  rw [(blockOn_core [] _ n i b).own, turned_own, blockedCore, modStream_cnt]
  exact (turnedCore_rest s n i d).1

/-- A wait whose time is ahead counts nothing. -/
theorem waits_cnt {n j op : Nat} {b : Blocked} {a : Armed} (h : Stands s n j op d) (ht : blockedTime (some b) = some a)
    (hw : (evalArmed s a).1 = .wait) : (getC (blockTimed (turned s n j d) n j b) n).cnt = (getC s n).cnt := by
  have same := evalArmed_congr (blockOn_time s n j d b) a
  rw [blockTimed, fireStream_waits h (begun_blockOn h b) ht (by rw [same, hw]), getC_modC_same, modStream_cnt, blockOn_cnt]

/-- R184: a WAIT_LOW whose time, if it has one, has not come, waits. -/
theorem low_begins (h : Stands s c.val i.val opWaitLow d) (hr : r = evalArmed s (armTime s (d.extractLsb' 40 40)))
    (hf : (dbit d 39 && r.1 != .wait) = false) : Begun s c.val i.val d (.waitLow (waitSem d) (if dbit d 39 then some r.2 else none)) false
      (blockTimed (turned s c.val i.val d) c.val i.val (lowWait s d)) ∧
    (getC (blockTimed (turned s c.val i.val d) c.val i.val (lowWait s d)) c.val).cnt = (getC s c.val).cnt := by
  unfold lowWait
  cases timed : dbit d 39 with
  | false =>
    have begun := begun_blockOn h (.waitLow (waitSem d) none)
    rw [if_neg Bool.false_ne_true, if_neg Bool.false_ne_true, blockTimed, fireStream_untimed h begun rfl]
    exact ⟨begun, blockOn_cnt s c.val i.val d _⟩
  | true =>
    rw [timed] at hf
    have waits : r.1 = .wait := by simpa using hf
    have begun := begun_waits h (b := .waitLow (waitSem d) (some (armTime s (d.extractLsb' 40 40)))) rfl (hr ▸ waits)
    rw [← hr] at begun
    exact ⟨begun, waits_cnt h rfl (hr ▸ waits)⟩

theorem takenCore_low (k : PCore) (d : BitVec 256) (t : Bool) (ht : t = true → dbit d 38 = true) : takenCore k (waitSem d) t 1 =
    if t then semTake k (dfield d 32 6) 1 else k := by
  unfold waitSem
  cases t with
  | false => cases dbit d 38 <;> rfl
  | true =>
    rw [ht rfl]
    rfl

theorem taken_sem {w : State} {m n j : Nat} (ht : taken = (dbit d 38 && decide (1 ≤ (semGet k m).toNat) && !outranked w n j (waitSem d) 1)) :
    taken = true → dbit d 38 = true := fun e => by
  rw [ht] at e
  exact (Bool.and_eq_true_iff.mp (Bool.and_eq_true_iff.mp e).1).1

/-- R184: a WAIT_LOW that is met at once. -/
theorem waitLow_met (hu : u = getStream (getC s c.val) i.val) (hk : k = headed (getC s c.val) d) (h : Stands s c.val i.val opWaitLow d)
    (hr : r = evalArmed s (armTime s (d.extractLsb' 40 40))) (hf : fired = (dbit d 39 && r.1 != .wait))
    (ht : taken = (dbit d 38 && decide (1 ≤ (semGet k (dfield d 32 6)).toNat) && !outranked (turned s c.val i.val d) c.val i.val (waitSem d) 1))
    (met : fired = true ∨ taken = true) : ∃ t, exec (.waitLow c i x) s = .next t ∧ Advances s t c.val i.val (u.pc + 32) ∧
      (getC t c.val).sems = (signalled (if taken then semTake k (dfield d 32 6) 1 else k) d).sems ∧ (getC t c.val).pstate = .run := by
  subst hu hk
  have sem := taken_sem ht
  have run := exec_waitLow (x := x) h
  rw [doWaitLow_eq] at run
  have finish : ∀ y, wakeCore (if (getStream (getC (blockTimed (turned s c.val i.val d) c.val i.val (lowWait s d)) c.val) i.val).blocked.isNone ||
        (unblock (blockTimed (turned s c.val i.val d) c.val i.val (lowWait s d)) c.val i.val).isSome then
          blockTimed (turned s c.val i.val d) c.val i.val (lowWait s d)
        else enterCoreLow (blockTimed (turned s c.val i.val d) c.val i.val (lowWait s d)) c.val i.val d (x.map (·.val))) c.val = y →
      Advances s y c.val i.val ((getStream (getC s c.val) i.val).pc + 32) →
      (getC y c.val).sems = (signalled (takenCore (headed (getC s c.val) d) (waitSem d) taken 1) d).sems → (getC y c.val).pstate = .run →
      ∃ t, exec (.waitLow c i x) s = .next t ∧ Advances s t c.val i.val ((getStream (getC s c.val) i.val).pc + 32) ∧
        (getC t c.val).sems = (signalled (if taken then semTake (headed (getC s c.val) d) (dfield d 32 6) 1 else headed (getC s c.val) d) d).sems ∧
        (getC t c.val).pstate = .run := fun y eq adv sems state => by
    rw [eq] at run
    have kept := settle_settled y
    refine ⟨_, run, adv.of_settled kept, ?_, ?_⟩
    · rw [getC_settled kept, sems, takenCore_low _ d taken sem]
    · rw [getC_settled kept, state]
  cases hfired : (dbit d 39 && r.1 != .wait) with
  | true =>
    obtain ⟨timed, come⟩ := Bool.and_eq_true_iff.mp hfired
    obtain ⟨v, hv, begun⟩ := begun_fires h (b := .waitLow (waitSem d) (some (armTime s (d.extractLsb' 40 40)))) rfl rfl
      (hr ▸ bne_iff_ne.mp come)
    obtain ⟨y, hy, -, adv, sems, state⟩ := low_goes h begun ht (by rw [timed]; exact Bool.or_true _)
    have eq : blockTimed (turned s c.val i.val d) c.val i.val (lowWait s d) = y := by
      rw [lowWait, timed, if_pos rfl, hv, hy]
    refine finish y ?_ adv sems state
    rw [eq, adv.free, Option.isNone_none, Bool.true_or, if_pos rfl, wakeCore_none (adv.none h.none)]
  | false =>
    have begun := (low_begins h hr hfired).1
    have taken' : taken = true := met.resolve_left (by rw [hf, hfired]; exact Bool.false_ne_true)
    obtain ⟨y, hy, un, adv, sems, state⟩ := low_goes h begun ht (by rw [taken']; exact Bool.true_or _)
    refine finish y ?_ adv sems state
    rw [un, Bool.or_true, if_pos rfl, hy]

/-- R184: a WAIT_LOW that is not met at once waits, or enters the low-power state. -/
theorem waitLow_unmet (h : Stands s c.val i.val opWaitLow d) (hr : r = evalArmed s (armTime s (d.extractLsb' 40 40)))
    (hf : fired = (dbit d 39 && r.1 != .wait))
    (ht : taken = (dbit d 38 && decide (1 ≤ (semGet (headed (getC s c.val) d) (dfield d 32 6)).toNat) &&
      !outranked (turned s c.val i.val d) c.val i.val (waitSem d) 1)) (no : fired = false) (none_ : taken = false) :
    ∃ v, Begun s c.val i.val d (.waitLow (waitSem d) (if dbit d 39 then some r.2 else none)) false v ∧
      (getC v c.val).cnt = (getC s c.val).cnt ∧ (∀ w late, Begun s c.val i.val d (.waitLow (waitSem d) (if dbit d 39 then some r.2 else none)) late w →
        wakeCore w c.val = w) ∧
      ∀ x : Option (Fin 4), exec (.waitLow c i x) s = done (wakeCore (enterCoreLow v c.val i.val d (x.map (·.val))) c.val) := by
  obtain ⟨begun, cnt⟩ := low_begins h hr (hf ▸ no)
  have clear : (taken || ((if dbit d 39 then some r.2 else none).isNone && dbit d 39)) = false := by
    rw [none_]
    cases dbit d 39 <;> rfl
  have un : ∀ w late, Begun s c.val i.val d (.waitLow (waitSem d) (if dbit d 39 then some r.2 else none)) late w →
      unblock w c.val i.val = none := fun w late b => by
    rw [unblock_low h b ht, clear]
    rfl
  refine ⟨_, begun, cnt, fun w late b => wakeCore_still (b.only h) (un w late b), fun x => ?_⟩
  rw [exec_waitLow h, doWaitLow_eq, begun.core.blocked, un _ _ begun]
  rfl

/-- A count of an abandoned entry leaves the wait as it is. -/
theorem begun_abandoned {b : Blocked} {n j : Nat} (h : Begun s n j d b false v) (m : Nat) : Begun s n j d b false
      (modCnt v n fun q => { q with pwrAborts := countPoint q.pwrAborts m }) := by
  have lift := h.out.modC fun q => { q with cnt := { q.cnt with pwrAborts := countPoint q.cnt.pwrAborts m } }
  obtain ⟨a, own⟩ := h.core.own
  have core : getC (modCnt v n fun q => { q with pwrAborts := countPoint q.pwrAborts m }) n = _ := lift.own
  refine ⟨?_, ⟨lift.frame, rfl, lift.others⟩, ?_, h.lateAll, h.now⟩
  · rw [core]
    refine ⟨⟨a, own⟩, h.core.others, ?_⟩
    conv_lhs => rw [h.core.rest]
  · rw [core]
    exact h.lateCore

/-- The core once it has entered its low-power state. -/
def dimmedCore (l : PState) (q : PCore) : PCore := { (if l = .doze then dozeLoss q else q) with pstate := l }

theorem dimmedCore_eq (l : PState) (q : PCore) : (dimmedCore l q).streams = q.streams ∧ (dimmedCore l q).sems = q.sems ∧
    (dimmedCore l q).stage = q.stage ∧ (dimmedCore l q).banks = (if l = .doze then Vector.replicate 2 Bank.reset else q.banks) ∧
    (dimmedCore l q).cache = (if l = .doze then [] else q.cache) := by
  unfold dimmedCore
  split
  · exact ⟨rfl, rfl, rfl, rfl, rfl⟩
  · exact ⟨rfl, rfl, rfl, rfl, rfl⟩

theorem enterCoreLow_stays {n j : Nat} {y : Option Nat} (h : lowState v (getC v n) d = .run ∨ enginesEmpty (getC v n) = false ∨
    othersWait (getC v n) j = false) : enterCoreLow v n j d y = v := by
  unfold enterCoreLow
  dsimp only
  rw [if_pos]
  rcases h with h | h | h <;> simp [h]

theorem enterCoreLow_enters {n j : Nat} (low : lowState v (getC v n) d ≠ .run) (empty : enginesEmpty (getC v n) = true)
    (wait : othersWait (getC v n) j = true) : enterCoreLow v n j d none = modC v n (dimmedCore (lowState v (getC v n) d)) := by
  unfold enterCoreLow
  dsimp only
  rw [if_neg (by simp [low, empty, wait])]
  rfl

theorem enterCoreLow_abandons {n j m : Nat} (low : lowState v (getC v n) d ≠ .run) (empty : enginesEmpty (getC v n) = true)
    (wait : othersWait (getC v n) j = true) : enterCoreLow v n j d (some m) =
      modCnt v n fun q => { q with pwrAborts := countPoint q.pwrAborts m } := by
  unfold enterCoreLow
  dsimp only
  rw [if_neg (by simp [low, empty, wait])]

/-- R184, R448, R450: what a WAIT_LOW that is not met comes to. -/
theorem waitLow_waits {b : Blocked} {l : PState} (hu : u = getStream (getC s c.val) i.val) (hk : k = headed (getC s c.val) d)
    (h : Stands s c.val i.val opWaitLow d)
    (hr : r = evalArmed s (armTime s (d.extractLsb' 40 40))) (hf : fired = (dbit d 39 && r.1 != .wait))
    (ht : taken = (dbit d 38 && decide (1 ≤ (semGet k (dfield d 32 6)).toNat) && !outranked (turned s c.val i.val d) c.val i.val (waitSem d) 1))
    (no : fired = false) (none_ : taken = false) (hb : b = .waitLow (waitSem d) (if dbit d 39 then some r.2 else none))
    (hl : l = lowState s (getC s c.val) d) :
    (l = .run ∨ enginesEmpty (getC s c.val) = false ∨ othersWait (getC s c.val) i.val = false → ∀ x,
      ∃ t, exec (.waitLow c i x) s = .next t ∧ Awaits s t c.val i.val d b ∧ (getC t c.val).pstate = .run) ∧
    (l ≠ .run → enginesEmpty (getC s c.val) = true → othersWait (getC s c.val) i.val = true →
      (∃ t, exec (.waitLow c i none) s = .next t ∧ (getC t c.val).pstate = l ∧ t.mem = s.mem ∧ t.ctxs = s.ctxs ∧
        (getStream (getC t c.val) i.val).blocked = some b ∧ (getStream (getC t c.val) i.val).pc = u.pc ∧
        (getC t c.val).sems = k.sems ∧ (getC t c.val).stage = (getC s c.val).stage ∧
        (getC t c.val).banks = (if l = .doze then Vector.replicate 2 Bank.reset else (getC s c.val).banks) ∧
        (getC t c.val).cache = (if l = .doze then [] else (getC s c.val).cache) ∧
        (∀ j, j ≠ i.val → SameButTurns (getStream (getC t c.val) j) (getStream (getC s c.val) j)) ∧
        ∀ q, q ≠ physOf s c.val → getP t q = getP s q) ∧
      (∀ x : Fin 4, ∃ t, exec (.waitLow c i (some x)) s = .next t ∧ Awaits s t c.val i.val d b ∧
        (getC t c.val).pstate = .run ∧ (getC t c.val).cnt.pwrAborts = countPoint (getC s c.val).cnt.pwrAborts x.val)) := by
  subst hu hk
  obtain ⟨v, begun, cnt, still, run⟩ := waitLow_unmet h hr hf ht no none_
  rw [← hb] at begun still
  have low := lowState_begun begun d
  have empty := enginesEmpty_begun begun
  have wait := othersWait_begun h begun
  rw [← hl] at low
  refine ⟨fun stays x => ?_, fun enters busy idle => ⟨?_, fun x => ?_⟩⟩
  · have eq := run x
    rw [enterCoreLow_stays (by rw [low, empty, wait]; exact stays), still v false begun] at eq
    have kept := settle_settled v
    exact ⟨_, eq, (begun.awaits h).of_settled kept, by rw [getC_settled kept, begun_run h begun]⟩
  · obtain ⟨streams, sems, stage, banks, cache⟩ := dimmedCore_eq l (getC v c.val)
    have entered := begun.out.modC (dimmedCore l)
    have each : ∀ j, getStream (dimmedCore l (getC v c.val)) j = getStream (getC v c.val) j := fun j =>
      congrArg (Vector.getD · j Stream.reset) streams
    have only : OnlyBlocked (modC v c.val (dimmedCore l)) c.val i.val := fun j hj => by
      rw [entered.own, each]
      exact begun.only h j hj
    have stuck : unblock (modC v c.val (dimmedCore l)) c.val i.val = none := by
      have can : canIssue (modC v c.val (dimmedCore l)) c.val = false := by
        unfold canIssue
        dsimp only
        rw [entered.own, show (dimmedCore l (getC v c.val)).pstate = l from rfl, beq_eq_false_iff_ne.mpr enters]
        simp
      unfold unblock
      dsimp only
      rw [if_pos (by rw [can]; exact Bool.or_true _)]
    have eq := run none
    rw [Option.map_none, enterCoreLow_enters (by rw [low]; exact enters) (empty.trans busy) (wait.trans idle), low,
      wakeCore_still only stuck] at eq
    have waits := begun.awaits h
    have kept := settle_settled (modC v c.val (dimmedCore l))
    have core : getC (settle (modC v c.val (dimmedCore l))) c.val = dimmedCore l (getC v c.val) := (getC_settled kept _).trans entered.own
    have whole := (turned_core [.time] s c.val i.val d).trans entered
    refine ⟨_, eq, ?_, kept.out.mem.trans (whole.frame .mem (by decide)), kept.out.ctxs.trans (whole.frame .ctxs (by decide)),
      ?_, ?_, ?_, ?_, ?_, ?_, fun j hj => ?_, fun q hq => (getP_settled kept q).trans (whole.others q hq)⟩
    · rw [core]
      rfl
    · rw [core, each, waits.waits]
    · rw [core, each, waits.pc]
    · rw [core, sems, waits.sems]
    · rw [core, stage, waits.data.1]
    · rw [core, banks, waits.data.2.2]
    · rw [core, cache, waits.data.2.1]
    · rw [core, each]
      exact waits.others j hj
  · have left := begun_abandoned begun x.val
    have eq := run (some x)
    rw [Option.map_some, enterCoreLow_abandons (by rw [low]; exact enters) (empty.trans busy) (wait.trans idle), still _ false left] at eq
    have kept := settle_settled (modCnt v c.val fun q => { q with pwrAborts := countPoint q.pwrAborts x.val })
    refine ⟨_, eq, (left.awaits h).of_settled kept, by rw [getC_settled kept, begun_run h left], ?_⟩
    rw [getC_settled kept, show getC (modCnt v c.val fun q => { q with pwrAborts := countPoint q.pwrAborts x.val }) c.val = _ from
      getC_modC_same v c.val fun q => { q with cnt := { q.cnt with pwrAborts := countPoint q.cnt.pwrAborts x.val } }]
    exact congrArg (fun a : CoreCounters => countPoint a.pwrAborts x.val) cnt

end

end Sys2Proof.Machine
end

section
-- One proof after the other: a text of this length has more proofs waiting at once than the check has threads for.
set_option Elab.async false
/-! PROOFS. A core returns to Run, and what it waits for goes on (R449). -/

namespace Sys2Proof.Machine

/-! ### What a stream that goes on leaves of its core -/

/-- The map stays, and of a core its power state and its stage buffer. -/
structure Poised (n : Nat) (s t : State) : Prop where
  hub    : t.hub = s.hub
  pstate : (getC t n).pstate = (getC s n).pstate
  stage  : (getC t n).stage = (getC s n).stage

section
variable {s t u : State} {n i : Nat} {w : Item}

theorem Poised.refl (n : Nat) (s : State) : Poised n s s := ⟨rfl, rfl, rfl⟩

theorem Poised.trans (h : Poised n s t) (k : Poised n t u) : Poised n s u :=
  ⟨k.hub.trans h.hub, k.pstate.trans h.pstate, k.stage.trans h.stage⟩

theorem poised_modC (s : State) (n : Nat) {f : PCore → PCore} (h : ∀ c, (f c).pstate = c.pstate ∧ (f c).stage = c.stage) :
    Poised n s (modC s n f) := by
  obtain ⟨pstate, stage⟩ := h (getC s n)
  exact ⟨rfl, by rw [getC_modC_same, pstate], by rw [getC_modC_same, stage]⟩

theorem poised_frame {l : List Part} (n : Nat) (h : AllBut l s t) (hl : Part.hub ∉ l ∧ Part.slots ∉ l := by decide) : Poised n s t := by
  have same := getC_congr (h .hub hl.1) (h .slots hl.2) n
  exact ⟨h .hub hl.1, by rw [same], by rw [same]⟩

theorem poised_modStream (s : State) (n i : Nat) (f : Stream → Stream) : Poised n s (modC s n fun c => modStream c i f) :=
  poised_modC s n fun c => by
    obtain ⟨x, hx⟩ := modStream_rest c i f
    rw [hx]
    exact ⟨rfl, rfl⟩

theorem poised_signalSsem (s : State) (n : Nat) (d : BitVec 256) : Poised n s (signalSsem s n d) := by
  unfold signalSsem
  split
  · refine poised_modC s n fun c => ?_
    obtain ⟨x, y, hx⟩ := semAdd_eq c (ssemOf d) 1
    rw [hx]
    exact ⟨rfl, rfl⟩
  · exact .refl n s

theorem poised_countProg (s : State) (n i : Nat) : Poised n s (countProg s n i) :=
  (poised_modStream s n i fun t => { t with prog := t.prog + 1 }).trans (poised_frame (l := [.ctxs]) n
    (frame_modCtx _ (getStream (getC s n) i).ctx fun x => { x with prog := x.prog + 1, idleBeats := 0, completed := true }))

theorem poised_semTaken (s : State) (n : Nat) (sem : Option (BitVec 6)) (take : Bool) (v : BitVec 32) : Poised n s (semTaken s n sem take v) := by
  cases sem with
  | none => exact .refl n s
  | some k => cases take with
    | false => exact .refl n s
    | true => exact poised_modC s n (f := fun c => semTake c k.toNat v) fun c => ⟨rfl, rfl⟩

theorem poised_completeHere (s : State) (n i : Nat) : Poised n s (completeHere s n i) := by
  unfold completeHere
  dsimp only
  cases fetchedAt (getStream (getC s n) i) (getStream (getC s n) i).pc with
  | none => exact .refl n s
  | some d => exact ((poised_signalSsem s n d).trans (poised_countProg _ n i)).trans (poised_modStream _ n i _)

theorem frame_backwardDone (s : State) (c : Nat) (step : BitVec 48) : AllBut [.ctxs] s (backwardDone s c step) := by
  unfold backwardDone
  dsimp only
  split
  · exact (frame_modTiming s c step _).trans (frame_modLed _ c _)
  · exact frame_modTiming s c step _

theorem frame_finishItem (s : State) (c : Nat) (w : Item) : AllBut memoryParts s (finishItem s c w) := by
  unfold finishItem
  split
  · obtain ⟨v, hv⟩ : ∃ v, v = if w.backward then 4 else 2 := ⟨_, rfl⟩
    obtain ⟨z, hz⟩ : ∃ z, z = setRecState s c w.recVa v := ⟨_, rfl⟩
    have first : AllBut memoryParts s z := hz ▸ frame_setRecState s c w.recVa v
    dsimp only
    rw [← hv, ← hz]
    by_cases backward : w.backward = true
    · rw [if_pos backward]
      have second : AllBut [.ctxs] z (modTiming z c w.step fun t => { t with mbDone := BitVec.ofNat 16 (mbsDone z c w.step) }) :=
        frame_modTiming z c w.step _
      split
      · exact first.trans (second.trans (frame_backwardDone _ c w.step)).mono
      · exact first.trans second.mono
    · rw [if_neg backward]
      exact first
  · obtain ⟨z, hz⟩ : ∃ z, z = if w.mirror then modLed s c fun l => { l with mirrorDone := true }
        else setVer (modLed s c fun l => { l with ownDone := true }) c (verSlot s c (w.step + 1)) (.written, w.step + 1) := ⟨_, rfl⟩
    have first : AllBut [.ctxs] s z := by
      rw [hz]
      split
      · exact frame_modLed s c _
      · exact (frame_modLed s c fun l => { l with ownDone := true }).trans
          (frame_modCtx _ c fun x => { x with vslots := x.vslots.setIfInBounds (verSlot s c (w.step + 1)) (.written, w.step + 1) })
    dsimp only
    rw [← hz]
    split
    · exact (first.trans (frame_modTiming z c w.step _)).mono
    · exact first.mono
  · exact .refl _ s

theorem poised_endStreamNow (s : State) (n i : Nat) : Poised n s (endStreamNow s n i) := by
  have ended : ∀ z, Poised n s z → Poised n s (modC (countProg z n i) n fun c => modStream c i
      fun t => { t with st := .idle, blocked := none, blocks := [], ahead := [], item := none }) := fun z hz =>
    (hz.trans (poised_countProg z n i)).trans (poised_modStream _ n i _)
  have finish : ∀ z, Poised n s z → Poised n s (match (getStream (getC s n) i).item with
      | some w => if (partCores z (getCtx z (getStream (getC s n) i).ctx).part).any (fun m => (getStream (getC z m) i).item == some w) then z
        else finishItem z (getStream (getC s n) i).ctx w
      | none => z) := fun z hz => by
    cases (getStream (getC s n) i).item with
    | none => exact hz
    | some w =>
      dsimp only
      split
      · exact hz
      · exact hz.trans (poised_frame n (frame_finishItem z _ w))
  unfold endStreamNow
  dsimp only
  cases fetchedAt (getStream (getC s n) i) (getStream (getC s n) i).pc with
  | none => exact finish _ (ended s (.refl n s))
  | some d => exact finish _ (ended _ (poised_signalSsem s n d))

theorem poised_unblock (h : unblock s n i = some t) : Poised n s t := by
  unfold unblock at h
  dsimp only at h
  split at h
  · cases h
  · cases hb : (getStream (getC s n) i).blocked with
    | none =>
      rw [hb] at h
      cases h
    | some b =>
      rw [hb] at h
      cases b with
      | wait sem acq v time =>
        dsimp only at h
        split at h
        · cases h
          exact (poised_semTaken s n sem acq v).trans (poised_completeHere _ n i)
        · cases h
      | waitLow sem time =>
        cases sem with
        | none =>
          dsimp only at h
          split at h
          · cases h
            exact poised_completeHere s n i
          · cases h
        | some k =>
          dsimp only at h
          obtain ⟨taken, ht⟩ : ∃ taken, taken = (decide (1 ≤ (semGet (getC s n) k.toNat).toNat) && !outranked s n i (some k) 1) := ⟨_, rfl⟩
          rw [← ht] at h
          split at h
          · cases h
            exact (poised_semTaken s n (some k) taken 1).trans (poised_completeHere _ n i)
          · cases h
      | fence ids =>
        dsimp only at h
        split at h
        · cases h
          exact poised_completeHere s n i
        · cases h
      | ending =>
        dsimp only at h
        split at h
        · cases h
          exact poised_endStreamNow s n i
        · cases h
      | launch a => cases h

theorem poised_wakeOne : ∀ l, wakeOne s n l = some t → Poised n s t
  | [], h => by cases h
  | j :: l, h => by
    unfold wakeOne at h
    cases hj : unblock s n j with
    | some v =>
      rw [hj] at h
      cases h
      exact poised_unblock hj
    | none =>
      rw [hj] at h
      exact poised_wakeOne l h

theorem poised_wakeLoop (k : Nat) (s : State) (n : Nat) : Poised n s (wakeLoop k s n) := by
  induction k generalizing s with
  | zero => exact .refl n s
  | succ k ih =>
    unfold wakeLoop
    split
    · rename_i v hv
      exact (poised_wakeOne _ hv).trans (ih v)
    · exact .refl n s

theorem poised_wakeCore (s : State) (n : Nat) : Poised n s (wakeCore s n) := poised_wakeLoop 64 s n

end

/-! ### The wake of a core -/

section
variable {s : State} {c : Core} {i : SlotNo} {w : WakeCause} {d : BitVec 256} {y : BitVec 6} {time : Option Armed}

theorem exec_coreWake (serves : inService s c.val = true) (up : s.hub.low = false) (low : (getC s c.val).pstate ≠ .run)
    (due : wakeDue s (getC s c.val) w = true) : exec (.coreWake c w) s = done (wakeCore (wakeFrom s c.val) c.val) := by
  show done (wakeUp s c.val w) = _
  rw [wakeUp, if_pos (by simp [serves, up, low, due])]

theorem coreWake_runs (serves : inService s c.val = true) (up : s.hub.low = false) (low : (getC s c.val).pstate ≠ .run)
    (due : wakeDue s (getC s c.val) w = true) :
    ∃ t, exec (.coreWake c w) s = .next t ∧ (getC t c.val).pstate = .run ∧ (getC t c.val).stage = (getC s c.val).stage := by
  have kept := poised_wakeCore (wakeFrom s c.val) c.val
  have own : getC (wakeFrom s c.val) c.val = { getC s c.val with pstate := .run } := getC_modC_same s c.val _
  have k := settle_settled (wakeCore (wakeFrom s c.val) c.val)
  refine ⟨_, exec_coreWake serves up low due, ?_, ?_⟩
  · rw [getC_settled k, kept.pstate, own]
  · rw [getC_settled k, kept.stage, own]

theorem coreWake_nothing (h : (getC s c.val).pstate = .run ∨ s.hub.low = true ∨ inService s c.val = false ∨
    wakeDue s (getC s c.val) w = false) (rest : AtRest s) : exec (.coreWake c w) s = .next s := by
  show done (wakeUp s c.val w) = _
  rw [wakeUp, if_neg, done_atRest rest]
  rcases h with h | h | h | h <;> simp [h]

/-- R449: a core in a low-power state in which one stream waits in WAIT_LOW. -/
structure Dozes (s : State) (n i : Nat) (d : BitVec 256) (y : BitVec 6) (time : Option Armed) : Prop where
  serves  : inService s n = true
  up      : s.hub.low = false
  low     : (getC s n).pstate ≠ .run
  runs    : (getStream (getC s n) i).st = .running
  thaws   : (getC s n).frozen = false
  goes    : (getC s n).stopped = false
  tests   : s.hub.slotTesting.contains (physOf s n) = false
  fetched : fetchedAt (getStream (getC s n) i) (getStream (getC s n) i).pc = some d
  only    : OnlyBlocked s n i
  waits   : (getStream (getC s n) i).blocked = some (.waitLow (some y) time)

theorem Dozes.any (h : Dozes s c.val i.val d y time) (f : Stream → Bool) (free : ∀ t, t.blocked = none → f t = false) :
    (getC s c.val).streams.toList.any f = f (getStream (getC s c.val) i.val) := by
  rw [streams_toList, List.any_map, Bool.eq_iff_iff, List.any_eq_true]
  refine ⟨fun ⟨j, _, hj⟩ => ?_, fun own => ⟨i.val, List.mem_range.mpr (running_lt h.runs), own⟩⟩
  by_cases own : j = i.val
  · rwa [own] at hj
  · rw [Function.comp_apply, free _ (h.only j own)] at hj
    cases hj

theorem Dozes.semaphore (h : Dozes s c.val i.val d y time) :
    wakeDue s (getC s c.val) .semaphore = decide (1 ≤ (semGet (getC s c.val) y.toNat).toNat) := by
  unfold wakeDue
  dsimp only
  rw [h.any _ fun t ht => by rw [ht], h.waits]

theorem Dozes.timeDue (h : Dozes s c.val i.val d y time) : wakeDue s (getC s c.val) .time = time.isSome := by
  unfold wakeDue
  dsimp only
  rw [h.any _ fun t ht => by rw [ht], h.waits]
  cases time <;> rfl

theorem Dozes.device (h : Dozes s c.val i.val d y time) : wakeDue s (getC s c.val) .device = true := by
  unfold wakeDue
  rw [h.up]
  rfl

/-- What lets the stream of a core that has woken go on. -/
theorem Dozes.unblock (h : Dozes s c.val i.val d y time) : unblock (wakeFrom s c.val) c.val i.val =
    if (decide (1 ≤ (semGet (getC s c.val) y.toNat).toNat) && !outranked (wakeFrom s c.val) c.val i.val (some y) 1) ||
      (time.isNone && dbit d 39) then
      some (completeHere (semTaken (wakeFrom s c.val) c.val (some y)
        (decide (1 ≤ (semGet (getC s c.val) y.toNat).toNat) && !outranked (wakeFrom s c.val) c.val i.val (some y) 1) 1) c.val i.val)
    else none := by
  have own : getC (wakeFrom s c.val) c.val = { getC s c.val with pstate := .run } := getC_modC_same s c.val _
  have each : getStream (getC (wakeFrom s c.val) c.val) i.val = getStream (getC s c.val) i.val := by
    rw [own]
    rfl
  have sem : semGet (getC (wakeFrom s c.val) c.val) y.toNat = semGet (getC s c.val) y.toNat := by
    rw [own]
    rfl
  have can : canIssue (wakeFrom s c.val) c.val = true := by
    have place : physOf (wakeFrom s c.val) c.val = physOf s c.val := rfl
    have serves : inService (wakeFrom s c.val) c.val = true := h.serves
    unfold canIssue
    dsimp only
    rw [serves, place, own, show (wakeFrom s c.val).hub = s.hub from rfl, h.tests, h.thaws, h.goes]
    rfl
  unfold Machine.unblock
  dsimp only
  rw [if_neg (by rw [can, each, h.runs]; decide), each, h.waits]
  dsimp only
  simp only [sem, h.fetched, Option.map_some, Option.getD_some]
  rfl

/-- R184, R449: a WAIT_LOW whose semaphore has a count goes on when its core wakes. -/
theorem coreWake_goes (h : Dozes s c.val i.val d y time) (met : 1 ≤ (semGet (getC s c.val) y.toNat).toNat)
    (first : outranked (wakeFrom s c.val) c.val i.val (some y) 1 = false) (hw : w = .semaphore ∨ w = .belfry ∨ w = .device) :
    ∃ t, exec (.coreWake c w) s = .next t ∧ Advances s t c.val i.val ((getStream (getC s c.val) i.val).pc + 32) ∧
      (getC t c.val).pstate = .run ∧ (getC t c.val).sems = (signalled (semTake (getC s c.val) y.toNat 1) d).sems := by
  have due : wakeDue s (getC s c.val) w = true := by
    rcases hw with rfl | rfl | rfl
    · rw [h.semaphore]
      exact decide_eq_true met
    · rfl
    · exact h.device
  have un := h.unblock
  rw [first, decide_eq_true met] at un
  have run := exec_coreWake h.serves h.up h.low due
  obtain ⟨f, hf⟩ : ∃ f : PCore → PCore, f = fun q => semTake { q with pstate := .run } y.toNat 1 := ⟨_, rfl⟩
  have took : CoreTo [.ctxs] c.val s (semTaken (wakeFrom s c.val) c.val (some y) true 1) (f (getC s c.val)) := by
    have woken : CoreTo [.ctxs] c.val s (wakeFrom s c.val) { getC s c.val with pstate := .run } := coreTo_modC _ s c.val _
    exact hf ▸ woken.modC fun q => semTake q y.toNat 1
  have same : (f (getC s c.val)).streams = (getC s c.val).streams := by
    rw [hf]
    rfl
  have each : getStream (f (getC s c.val)) i.val = getStream (getC s c.val) i.val := congrArg (Vector.getD · i.val Stream.reset) same
  have fetched := h.fetched
  rw [← each, ← took.own] at fetched
  have out := completeHere_core (running_lt h.runs) fetched
  rw [took.own, each] at out
  have adv := advances_of_landed h.runs (attends_of_streams i.val same (by rw [hf]; exact ⟨rfl, rfl, rfl⟩)) (took.trans out)
  obtain ⟨x, hx⟩ : ∃ x, x = completeHere (semTaken (wakeFrom s c.val) c.val (some y) true 1) c.val i.val := ⟨_, rfl⟩
  have un' : Machine.unblock (wakeFrom s c.val) c.val i.val = some x := by
    rw [hx]
    exact un
  rw [← hx] at adv out
  have free : NoneBlocked x c.val := fun k => by
    by_cases hk : k = i.val
    · rw [hk]
      exact adv.free
    · obtain ⟨m, hm⟩ := adv.others k hk
      rw [hm]
      exact h.only k hk
  have only : OnlyBlocked (wakeFrom s c.val) c.val i.val := fun k hk => by
    rw [show getC (wakeFrom s c.val) c.val = { getC s c.val with pstate := .run } from getC_modC_same s c.val _]
    exact h.only k hk
  rw [wakeCore_goes only (running_lt h.runs) un' free] at run
  have k := settle_settled x
  refine ⟨_, run, adv.of_settled k, ?_, ?_⟩
  · rw [getC_settled k, out.own, landed_rest, hf]
    rfl
  · rw [getC_settled k, out.own, landed_sems]
    exact signalled_sems (by rw [hf]; rfl) d

/-- R449: a core that wakes while its WAIT_LOW is not met. -/
theorem coreWake_waits (h : Dozes s c.val i.val d y time) (unmet : semGet (getC s c.val) y.toNat = 0) (timed : time.isSome = true ∨ dbit d 39 = false)
    (hw : w = .belfry ∨ w = .device ∨ w = .time ∧ time.isSome = true) :
    Leads (.coreWake c w) s (modC s c.val fun q => { q with pstate := .run }) := by
  have due : wakeDue s (getC s c.val) w = true := by
    rcases hw with rfl | rfl | ⟨rfl, some_⟩
    · rfl
    · exact h.device
    · rw [h.timeDue, some_]
  have un := h.unblock
  have off : (time.isNone && dbit d 39) = false := by
    rcases timed with timed | timed
    · cases time with
      | none => cases timed
      | some a => rfl
    · rw [timed, Bool.and_false]
  rw [unmet, off] at un
  have only : OnlyBlocked (wakeFrom s c.val) c.val i.val := fun k hk => by
    rw [show getC (wakeFrom s c.val) c.val = { getC s c.val with pstate := .run } from getC_modC_same s c.val _]
    exact h.only k hk
  have run := exec_coreWake h.serves h.up h.low due
  rw [wakeCore_still only un] at run
  exact leads_done run (.refl _)

theorem coreWake_early (h : Dozes s c.val i.val d y time) (unmet : semGet (getC s c.val) y.toNat = 0) (rest : AtRest s) :
    exec (.coreWake c .semaphore) s = .next s ∧ (time = none → exec (.coreWake c .time) s = .next s) := by
  refine ⟨coreWake_nothing (.inr (.inr (.inr ?_))) rest, fun none_ => coreWake_nothing (.inr (.inr (.inr ?_))) rest⟩
  · rw [h.semaphore, unmet]
    rfl
  · rw [h.timeDue, none_]
    rfl

end

end Sys2Proof.Machine
end

section
-- One proof after the other: a text of this length has more proofs waiting at once than the check has threads for.
set_option Elab.async false
/-! PROOFS. LAUNCH_AT, and the descriptor behind it (R181); the obligation on what waits. -/

namespace Sys2Proof.Machine

section
variable {s v : State} {c : Core} {i : SlotNo} {d next : BitVec 256} {r : Launch × Armed} {e : BitVec 8} {a : Armed} {late : Bool}

theorem exec_launchAt (h : Stands s c.val i.val opLaunchAt d) (hn : followingDesc s c.val i.val = some next) (may : noLaunch next = false) :
    exec (.launchAt c i) s = done (wakeCore (doLaunchAt c.val i.val next (turned s c.val i.val d) d) c.val) := by
  have takes : issueLaunchAt s c.val i.val = issueControl opLaunchAt (doLaunchAt c.val i.val next) s c.val i.val := by
    unfold issueLaunchAt
    rw [hn, h.ready]
    dsimp only
    rw [may, Bool.and_false]
    rfl
  show done (issueLaunchAt s c.val i.val) = _
  rw [takes, issueControl_takes h]

/-- R181: a descriptor that may not follow a LAUNCH_AT. -/
theorem launchAt_forbidden (h : Stands s c.val i.val opLaunchAt d) (hn : followingDesc s c.val i.val = some next) (bars : noLaunch next = true) :
    ∃ t, exec (.launchAt c i) s = .next t ∧ Halts s t c.val i.val 0x02 := by
  have rejects : issueLaunchAt s c.val i.val = rejectDesc s c.val i.val d 0x02 := by
    unfold issueLaunchAt
    rw [hn, h.ready]
    dsimp only
    rw [if_pos (by rw [bars, h.legal]; rfl)]
  obtain ⟨t, ht, halt, -⟩ := rejects_halts (q := .launchAt c i) h.ready (congrArg done rejects)
  exact ⟨t, ht, halt⟩

theorem launchAt_malformed (h : Stands s c.val i.val opLaunchAt d) (hn : followingDesc s c.val i.val = some next) (may : noLaunch next = false)
    (bad : nextMalformed (turned s c.val i.val d) c.val i.val next = some e) :
    ∃ t, exec (.launchAt c i) s = .next t ∧ Halts s t c.val i.val e := by
  obtain ⟨t, ht, halt, -⟩ := control_faults (q := .launchAt c i) (act := doLaunchAt c.val i.val next) h (exec_launchAt h hn may)
    (by rw [doLaunchAt, bad])
  exact ⟨t, ht, halt⟩

theorem doLaunchAt_arms (good : nextMalformed (turned s c.val i.val d) c.val i.val next = none) :
    doLaunchAt c.val i.val next (turned s c.val i.val d) d =
      blockTimed (turned s c.val i.val d) c.val i.val (.launch (armTime s (d.extractLsb' 32 40))) := by
  rw [doLaunchAt, good]
  dsimp only
  rw [armTime_congr (turned_time s c.val i.val d)]

/-- A LAUNCH_AT is ended by the descriptor behind it alone. -/
theorem unblock_launch (hb : (getStream (getC v c.val) i.val).blocked = some (.launch a)) : unblock v c.val i.val = none := by
  unfold unblock
  dsimp only
  split
  · rfl
  · rw [hb]

/-- R181: a LAUNCH_AT whose time is ahead. -/
theorem launchAt_waits (h : Stands s c.val i.val opLaunchAt d) (hn : followingDesc s c.val i.val = some next) (may : noLaunch next = false)
    (good : nextMalformed (turned s c.val i.val d) c.val i.val next = none) (hr : r = evalArmed s (armTime s (d.extractLsb' 32 40)))
    (hw : r.1 = .wait) : ∃ t, exec (.launchAt c i) s = .next t ∧ Awaits s t c.val i.val d (.launch r.2) ∧
      (getStream (getC t c.val) i.val).due = false := by
  have begun := begun_waits h (b := .launch (armTime s (d.extractLsb' 32 40))) rfl (hr ▸ hw)
  rw [← hr] at begun
  have run := exec_launchAt h hn may
  rw [doLaunchAt_arms good, wakeCore_still (begun.only h) (unblock_launch begun.core.blocked)] at run
  have k := settle_settled (blockTimed (turned s c.val i.val d) c.val i.val (.launch (armTime s (d.extractLsb' 32 40))))
  obtain ⟨m, own⟩ := begun.core.own
  refine ⟨_, run, (begun.awaits h).of_settled k, ?_⟩
  rw [getC_settled k, own, getStream_turnedCore h.lt]
  exact h.fresh

/-- R181: the time of a LAUNCH_AT comes: the descriptor behind it may issue. -/
theorem streamDue_launch (v : State) (n i : Nat) (late : Bool) (hb : (getStream (getC v n) i).blocked = some (.launch a)) :
    ∃ y : CoreCounters, CoreTo [.time] n v (streamDue v n i late)
      (modStream { getC v n with pstate := .run, cnt := y } i fun t => { t with due := true }) := by
  obtain ⟨l, hl⟩ : ∃ l : Bool, streamDue v n i late = modC (if l then countCoreLate v n else v) n fun c =>
      modStream { c with pstate := .run } i fun t => { t with due := true } := by
    unfold streamDue
    dsimp only
    rw [hb]
    dsimp only
    cases fetchedAt (getStream (getC v n) i) ((getStream (getC v n) i).pc + 32) with
    | none => exact ⟨_, rfl⟩
    | some e => exact ⟨_, rfl⟩
  obtain ⟨y, -, out, -, -⟩ := countCoreLate_core v n l
  have lift := out.modC fun c => modStream { c with pstate := .run } i fun t => { t with due := true }
  exact ⟨y, hl ▸ lift⟩

theorem launchAt_fires (h : Stands s c.val i.val opLaunchAt d) (hn : followingDesc s c.val i.val = some next) (may : noLaunch next = false)
    (good : nextMalformed (turned s c.val i.val d) c.val i.val next = none) (hr : r = evalArmed s (armTime s (d.extractLsb' 32 40)))
    (hw : r.1 ≠ .wait) : ∃ t, exec (.launchAt c i) s = .next t ∧
      Awaits s t c.val i.val d (.launch (armTime s (d.extractLsb' 32 40))) ∧ (getStream (getC t c.val) i.val).due = true := by
  obtain ⟨a, ha⟩ : ∃ a, a = armTime s (d.extractLsb' 32 40) := ⟨_, rfl⟩
  rw [← ha] at hr ⊢
  have begun := begun_blockOn h (.launch a)
  have same := evalArmed_congr (blockOn_time s c.val i.val d (.launch a)) a
  have fires := fireStream_fires h begun (a := a) rfl (by rw [same, ← hr]; exact hw)
  obtain ⟨y, out⟩ := streamDue_launch (blockOn (turned s c.val i.val d) c.val i.val (.launch a)) c.val i.val
    ((evalArmed (blockOn (turned s c.val i.val d) c.val i.val (.launch a)) a).1 == .late) begun.core.blocked
  rw [← fires] at out
  obtain ⟨w, hv⟩ : ∃ w, w = fireStream (blockOn (turned s c.val i.val d) c.val i.val (.launch a)) c.val i.val := ⟨_, rfl⟩
  have run := exec_launchAt h hn may
  rw [doLaunchAt_arms good, ← ha, blockTimed, ← hv] at run
  rw [← hv] at out
  obtain ⟨z, hz⟩ : ∃ z, z = getC (blockOn (turned s c.val i.val d) c.val i.val (.launch a)) c.val := ⟨_, rfl⟩
  have stalls := begun.core
  have early := begun.out
  rw [← hz] at out stalls early
  have own : getStream (modStream { z with pstate := .run, cnt := y } i.val fun t => { t with due := true }) i.val =
      { getStream z i.val with due := true } := getStream_modStream_same _ h.lt _
  have kept : Attends i.val z (modStream { z with pstate := .run, cnt := y } i.val fun t => { t with due := true }) := by
    have first : Attends i.val z { z with pstate := .run, cnt := y } := attends_of_streams i.val rfl ⟨rfl, rfl, rfl⟩
    exact first.trans (attends_modStream h.lt _ (fun t => { t with due := true }) ⟨rfl, rfl, rfl, rfl⟩)
  have waits := awaits_of_attends h (stalls.attends.trans kept) (by rw [own]; exact stalls.blocked) stalls.sems (early.trans out)
  have only : OnlyBlocked w c.val i.val := fun j hj => by
    obtain ⟨m, hm⟩ := waits.others j hj
    rw [hm]
    exact h.none j
  rw [wakeCore_still only (unblock_launch waits.waits)] at run
  have k := settle_settled w
  refine ⟨_, run, waits.of_settled k, ?_⟩
  rw [getC_settled k, out.own, own]

end

/-! ### The descriptor behind a LAUNCH_AT whose time has come -/

section
variable {s : State} {n i : Nat} {d : BitVec 256}

/-- The stream of a LAUNCH_AT once it has completed with the descriptor behind it (R172, R181). -/
def launchedStream (t : Stream) : Stream := { t with prog := t.prog + 1, blocked := none, due := false, pc := t.pc + 32 }

/-- R172, R181: a LAUNCH_AT completes with the descriptor behind it; of the streams its own moves alone. -/
theorem finishLaunch_due (hi : i < 16) (due : (getStream (getC s n) i).due = true) : ∃ e, CoreTo [.ctxs] n s (finishLaunch s n i) e ∧
    getStream e i = launchedStream (getStream (getC s n) i) ∧ ∀ k, k ≠ i → getStream e k = getStream (getC s n) k := by
  obtain ⟨z, x, eq, first, streams⟩ : ∃ z x, finishLaunch s n i = modC (countProg z n i) n (fun c =>
      modStream c i fun t => { t with blocked := none, due := false, pc := t.pc + 32 }) ∧
      CoreTo [.ctxs] n s z x ∧ ∀ k, getStream x k = getStream (getC s n) k := by
    unfold finishLaunch
    dsimp only
    rw [if_pos due]
    cases fetchedAt (getStream (getC s n) i) (getStream (getC s n) i).pc with
    | none => exact ⟨_, _, rfl, .refl _ n s, fun k => rfl⟩
    | some e => exact ⟨_, _, rfl, signalSsem_core [.ctxs] s n e, fun k => getStream_signalled _ _ k⟩
  have second := countProg_core z n i
  rw [first.own] at second
  have third := (first.trans second).modC fun c => modStream c i fun t => { t with blocked := none, due := false, pc := t.pc + 32 }
  refine ⟨_, eq ▸ third, ?_, fun k hk => ?_⟩
  · rw [getStream_modStream_same _ hi, getStream_modStream_same _ hi, streams]
    rfl
  · rw [getStream_modStream_other _ hk, getStream_modStream_other _ hk, streams]

variable {c : Core} {j : SlotNo} {next : BitVec 256} {u : Stream}

/-- R181, R182: a SETBASE behind a LAUNCH_AT whose time has come completes with it. -/
theorem setbase_due (hu : u = getStream (getC s c.val) j.val)
    (free : NoneBlocked (modC s c.val fun q => modStream q j.val fun x => { x with blocked := none }) c.val) (due : u.due = true)
    (h : issuable s c.val j.val opSetbase = some next) (legal : controlBad next = none) :
    ∃ t, exec (.setbase c j) s = .next t ∧ t.mem = s.mem ∧ (getStream (getC t c.val) j.val).pc = u.pc + 64 ∧
      (getStream (getC t c.val) j.val).due = false ∧ (getStream (getC t c.val) j.val).blocked = none ∧
      (getStream (getC t c.val) j.val).prog = u.prog + 2 ∧
      (getStream (getC t c.val) j.val).br = u.br.setIfInBounds (dfield next 32 3 - 1) (next.extractLsb' 35 48) := by
  subst hu
  have hj := issuable_lt h
  have others : ∀ k, k ≠ j.val → (getStream (getC s c.val) k).blocked = none := fun k hk => by
    have each := free k
    rwa [getC_modC_same, getStream_modStream_other _ hk] at each
  have names := setbase_names legal (issuable_some h).1
  obtain ⟨g, hg⟩ : ∃ g : Stream → Stream, g = fun x => setBr x (dfield next 32 3) (next.extractLsb' 35 48) := ⟨_, rfl⟩
  have loads : ∀ x, g x = { x with br := x.br.setIfInBounds (dfield next 32 3 - 1) (next.extractLsb' 35 48) } := fun x => by
    rw [hg]
    exact if_neg names
  obtain ⟨ready, hready⟩ : ∃ ready : Nat → Bool, ready = fun k => (readyNext s c.val k).isSome := ⟨_, rfl⟩
  have turn := takeTurn_core [.ctxs] s c.val j.val
  rw [← hready] at turn
  have turnOwn : getStream (passTurn ready j.val (getC s c.val)) j.val = _ := getStream_passTurn_same hj
  obtain ⟨e, launched, own, rest⟩ := finishLaunch_due (s := takeTurn s c.val j.val) (n := c.val) hj (by rw [turn.own, turnOwn]; exact due)
  have header := takeHeader_core [.ctxs] (finishLaunch (takeTurn s c.val j.val) c.val j.val) c.val next
  rw [launched.own] at header
  have based := ((turn.trans launched).trans header).modC fun q => modStream q j.val g
  have here : getStream (modStream (headed e next) j.val g) j.val = _ := (getStream_modStream_same _ hj g).trans (loads _)
  have whole := completes_core (i := j.val) (d := next) based ((getStream (getC s c.val) j.val).pc + 64)
  obtain ⟨x, hx⟩ : ∃ x, x = doSetbase c.val j.val (takeHeader (finishLaunch (takeTurn s c.val j.val) c.val j.val) c.val next) next := ⟨_, rfl⟩
  have lands : x = completeTo (modC (takeHeader (finishLaunch (takeTurn s c.val j.val) c.val j.val) c.val next) c.val
      fun q => modStream q j.val g) c.val j.val next ((getStream (getC s c.val) j.val).pc + 64) := by
    rw [hx, doSetbase, completeNext, ← hg, based.own, here, getStream_headed, own, turn.own, turnOwn]
    show completeTo _ _ _ _ ((getStream (getC s c.val) j.val).pc + 32 + 32) = _
    rw [BitVec.add_assoc]
    rfl
  rw [← lands] at whole
  have final : getStream (getC x c.val) j.val = _ := (congrArg (getStream · j.val) whole.own).trans
    ((getStream_landed hj).trans (by rw [here, getStream_headed, own, turn.own, turnOwn]))
  have none_ : NoneBlocked x c.val := fun k => by
    by_cases hk : k = j.val
    · rw [hk, final]
      rfl
    · rw [whole.own, getStream_landed_other hk, getStream_modStream_other _ hk, getStream_headed, rest k hk, turn.own]
      obtain ⟨m, hm⟩ := getStream_passTurn_other (ready := ready) (c := getC s c.val) hk
      rw [hm]
      exact others k hk
  have run : exec (.setbase c j) s = done x := by
    show done (issueControl opSetbase (doSetbase c.val j.val) s c.val j.val) = _
    unfold issueControl
    rw [h]
    dsimp only
    rw [legal]
    dsimp only
    rw [← hx, wakeCore_none none_]
  have k := settle_settled x
  refine ⟨_, run, k.out.mem.trans (whole.frame .mem (by decide)), ?_, ?_, ?_, ?_, ?_⟩
  · rw [getC_settled k, final]
    rfl
  · rw [getC_settled k, final]
    rfl
  · rw [getC_settled k, final]
    rfl
  · rw [getC_settled k, final]
    exact BitVec.add_assoc _ 1 1
  · rw [getC_settled k, final]
    rfl

end

/-- Settles O53: a stream that begins to wait is the only one that waits, so that what lets it go on, at once or when its core wakes, is
what the core does next; END counts a work item as finished with the last of its streams. -/
theorem waitsAndLaunchesBlockTheirStream : Obligations.WaitsAndLaunchesBlockTheirStream := by
  unfold Obligations.WaitsAndLaunchesBlockTheirStream
  refine ⟨fun c i s d p k u g v hp hu hk hg hv => ?_, fun c i s d next u hu => ⟨fun h hn r hr => ⟨launchAt_forbidden h hn,
    fun may good => ⟨launchAt_waits h hn may good hr, launchAt_fires h hn may good hr⟩, fun e may bad => launchAt_malformed h hn may bad⟩,
    fun free due h legal => setbase_due hu free due h legal⟩⟩
  subst hp
  refine ⟨fun h r fired taken hr hf ht => wait_shows hu hk hg hv h hr hf ht, fun h ids hids => fence_shows hu hk h hids,
    fun h calm => ?_, fun h r fired taken hr hf ht => ?_, fun w serves up low due => coreWake_runs serves up low due,
    fun y serves up low runs thaws goes tests fetched others time waits => ?_, fun w h rest => coreWake_nothing h rest⟩
  · subst hu hk
    refine ⟨end_waits h calm, fun still shared => ?_, fun w still item hx last => ⟨fun role => ?_, fun role plain => ?_⟩⟩
    · obtain ⟨t, ht, mem, ⟨⟨st, gone, free, prog⟩, sems, ⟨stage, banks⟩, cores, streams⟩, ctxs⟩ := end_alone h calm still shared
      obtain ⟨led, vslots⟩ := ctxs (getStream (getC s c.val) i.val).ctx
      exact ⟨t, ht, mem, st, gone, free, prog, sems, stage, banks, cores, led, vslots, streams⟩
    · obtain ⟨t, ht, mem, ⟨⟨st, -, -, -⟩, sems, -, -, -⟩, ownDone, mirrorDone, vslots⟩ := end_update h calm still item hx last role rfl
      exact ⟨t, ht, mem, st, sems, ownDone, mirrorDone, vslots⟩
    · obtain ⟨t, ht, mem, ⟨⟨st, -, -, -⟩, sems, -, -, -⟩, ownDone, vslots⟩ := end_record h calm still item hx last role rfl plain
      exact ⟨t, ht, mem, st, sems, ownDone, vslots⟩
  · subst hg
    exact ⟨fun met x => waitLow_met hu hk h hr hf ht met, fun no none_ b l hb hl => waitLow_waits hu hk h hr hf ht no none_ hb hl⟩
  · subst hu
    have dozes : Dozes s c.val i.val d y time := ⟨serves, up, low, runs, thaws, goes, tests, fetched, others, waits⟩
    exact ⟨fun met first w hw => coreWake_goes dozes met first hw, fun unmet timed w hw => coreWake_waits dozes unmet timed hw,
      coreWake_early dozes⟩

end Sys2Proof.Machine
end

section
-- One proof after the other: a text of this length has more proofs waiting at once than the check has threads for.
set_option Elab.async false
/-! PROOFS. A core that moves to a spare, where the map of logical cores lists the core twice (R25, R133). -/

namespace Sys2Proof.Machine

/-- A tensor of one value in a window. -/
def windowValue : TRec :=
  { loc := 3, fmt := 0, mxv := false, ndim := 1, base := 0, ext := [1], str := [1], regLo := 0, regHi := 0, sbase := 0, spitch := 0 }

/-- A VEC of stream 0, on its rerun on slot 0, whose operand lies at an address of context 0. -/
def guestReplay : Replay :=
  { iss := { id := 0, slot := 0, pc := 0, desc := 0 }, idx := 0, cause := 0, unit := 0, row := 0, st := .running, kEntry := 0, check := 0,
    bound := 0, tree := 0, values := [], step := 2, since := 0, other := some 0, want := [], guest := [], start := none,
    recs := [some windowValue, some windowValue] }

/-- A core whose stream 0 runs for context 1. -/
def runningCore : PCore := { PCore.reset with streams := PCore.reset.streams.set 0 { Stream.reset with st := .running, ctx := 1 } }

/-- Core 0 in service on slot 0, due to retire, with stream 0 running. Its entry of the logical cores holds nothing for replay; behind it
stands a second entry of core 0, which the lookup passes over and the drop of slot 0's guests (R129) does not: it puts that entry's
replay into the first. -/
def listedTwice : State :=
  { State.reset with
    hub := { State.reset.hub with
      coreMap := State.reset.hub.coreMap.set 0 { phys := 0, status := .inService }, retire := [(0, 0)] }
    slots := [(0, runningCore)]
    lcores := [(0, LCore.reset), (0, { LCore.reset with replay := LCore.reset.replay.set 0 (some guestReplay) })] }

theorem listedTwice_place : physOf listedTwice (0 : Core).val = 0 := by decide +kernel

theorem listedTwice_core : getC listedTwice (0 : Core).val = runningCore := by
  rw [getC, listedTwice_place]
  rfl

theorem runningCore_free (i : Nat) : (getStream runningCore i).blocked = none := by
  by_cases hi : i < 16
  · exact (by decide +kernel : ∀ i : Fin 16, (getStream runningCore i.val).blocked = none) ⟨i, hi⟩
  · rw [getStream_outside hi]
    rfl

theorem runningCore_threads (k : Nat) : runningCore.threads.getD k none = none := by
  by_cases hk : k < 8 <;> simp [runningCore, PCore.reset, Vector.getD, hk]

theorem reset_replay (k : Nat) : LCore.reset.replay.getD k none = none := by
  by_cases hk : k < 4 <;> simp [LCore.reset, Vector.getD, hk]

theorem listedTwice_spare : (freeSpares listedTwice ((0 : Core).val / 32)).head? = some 1 := by decide +kernel

/-- The replay that appears is issued again, and its access faults. -/
theorem listedTwice_halts : (getStream (getC (retireCore listedTwice (0 : Core).val) (0 : Core).val) 0).st = .halted := by decide +kernel

theorem exec_coreRetire (c : Core) (s : State) : exec (.coreRetire c) s = .next (settle (retireCore s c.val)) := rfl

/-- Refutes O60: where the map of logical cores lists a core twice, a core without work moves to its spare and its stream halts. -/
theorem not_coresMoveToSpares : ¬ Obligations.CoresMoveToSpares := by
  intro h
  obtain ⟨serving, -⟩ := h 0 listedTwice runningCore 0 listedTwice_core.symm listedTwice_place.symm
  obtain ⟨moves, -⟩ := serving (by decide +kernel) (fun i => by rw [listedTwice_core, runningCore_free])
  obtain ⟨t, run, -, -, -, -, -, -, -, -, -, states, -⟩ := moves 1 (.coreRetire 0) listedTwice_spare (.inl ⟨rfl, rfl⟩)
  have same := states runningCore_threads reset_replay 0
  have eq := Host.Outcome.next.inj ((exec_coreRetire 0 listedTwice).symm.trans run)
  rw [← eq, getC_settled (settle_settled _), listedTwice_halts] at same
  exact absurd same (by decide +kernel)

end Sys2Proof.Machine
end

section
-- One proof after the other: a text of this length has more proofs waiting at once than the check has threads for.
set_option Elab.async false
/-! PROOFS. A replay slot that times out, where the map of logical cores lists the core twice (R129, R131). -/

namespace Sys2Proof.Machine

/-- A held VEC of core 0 that has stood since TIME_NOW was 0. -/
def staleReplay : Replay := { guestReplay with st := .held, step := 1, other := none }

/-- A VEC that waits on slot 0 for bank 0. -/
def waitingGuest : Replay := { guestReplay with want := [0] }

/-- Core 0 in service on slot 0, 10 ms after its VEC was held. Behind its entry of the logical cores stands a second one, which the
lookup passes over; its replay waits for a bank of slot 0, and enters where the next MMA may begin (R129): it is put into the first
entry. -/
def staleTwice : State :=
  { State.reset with
    hub := { State.reset.hub with coreMap := State.reset.hub.coreMap.set 0 { phys := 0, status := .inService } }
    time := { State.reset.time with now := BitVec.ofNat 64 (10000 * ticksPerUs) }
    lcores := [(0, { LCore.reset with replay := LCore.reset.replay.set 0 (some staleReplay) }),
      (0, { LCore.reset with replay := LCore.reset.replay.set 0 (some waitingGuest) })] }

theorem reset_free (i : Nat) : (getStream PCore.reset i).blocked = none := by
  by_cases hi : i < 16
  · exact (by decide +kernel : ∀ i : Fin 16, (getStream PCore.reset i.val).blocked = none) ⟨i, hi⟩
  · rw [getStream_outside hi]
    rfl

theorem reset_tags (k : Nat) : (State.reset.ctxs.getD k Context.reset).sec.tags = [] := by
  by_cases hk : k < 64
  · exact (by decide +kernel : ∀ k : Fin 64, (State.reset.ctxs.getD k.val Context.reset).sec.tags = []) ⟨k, hk⟩
  · simp [Vector.getD, hk]
    rfl

/-- What core 0 holds in its replay slot 0 after a step. -/
def slotAfter (o : Host.Outcome State Fault Refusal) : Option Replay :=
  match o with
  | .next t => (getL t (0 : Core).val).replay.getD (0 : Fin 4).val none
  | _ => none

/-- The slot that is freed holds a replay again. -/
theorem staleTwice_holds : (slotAfter (exec (.replaySlotTimeout 0 0) staleTwice)).isSome = true := by decide +kernel

/-- Refutes O59: where the map of logical cores lists a core twice, the replay slot that a timeout frees is taken again. -/
theorem not_failedWorkIsReplayed : ¬ Obligations.FailedWorkIsReplayed := by
  intro h
  obtain ⟨-, -, times, -⟩ := h 0 0 staleTwice staleReplay PCore.reset 0 0 rfl (by decide +kernel) (by decide) (by decide +kernel) reset_free
    (fun k => by
      show (State.reset.ctxs.getD k Context.reset).sec.tags.length < 16
      rw [reset_tags]
      decide) (by decide +kernel)
  obtain ⟨t, run, freed, -⟩ := times (by decide +kernel) (by decide)
  have holds := staleTwice_holds
  rw [run, slotAfter, freed] at holds
  exact absurd holds (by decide)

end Sys2Proof.Machine
end

section
-- One proof after the other: a text of this length has more proofs waiting at once than the check has threads for.
set_option Elab.async false
/-! PROOFS. A fill that meets a bad block, where the map of logical cores lists the core twice (R90, R129). -/

namespace Sys2Proof.Machine

/-- An MMA whose K is 1, and whose operands begin at stage byte 0. -/
def smallMma : MmaJob :=
  { iss := { id := 7, slot := 0, pc := 0, desc := BitVec.ofNat 256 (2 ^ 151) }, started := false, pass := 0, going := false, parity := 0
    draining := false, start := none }

/-- A core whose lane row holds that MMA, and whose first stage block fails its CRC. -/
def badBlockCore : PCore := { PCore.reset with lr := [smallMma], stageBad := [(0, 1)] }

/-- Core 0 in service on slot 0. Behind its entry of the logical cores, which holds nothing, stands a second one; its replay waits for a
bank of slot 0 (R129), and where it enters it is put into the first entry. -/
def fillTwice : State :=
  { State.reset with
    hub := { State.reset.hub with coreMap := State.reset.hub.coreMap.set 0 { phys := 0, status := .inService } }
    slots := [(0, badBlockCore)]
    lcores := [(0, LCore.reset), (0, { LCore.reset with replay := LCore.reset.replay.set 0 (some waitingGuest) })] }

theorem fillTwice_core : getC fillTwice (0 : Core).val = badBlockCore := by
  rw [getC, show physOf fillTwice (0 : Core).val = 0 by decide +kernel]
  rfl

theorem badBlockCore_ahead : (passesAhead badBlockCore).find? (fun y => !badBlockCore.stat.any (fun b => b.id == y.1.iss.id && b.pass == y.2)) =
    some (smallMma, 0) := by decide +kernel

/-- The slot in which the failed MMA is held is taken by the guest. -/
theorem fillTwice_runs : (slotAfter (exec (.stationaryFillDone 0) fillTwice)).map (·.st) = some .running := by decide +kernel

/-- Refutes O57: where the map of logical cores lists a core twice, an MMA with a bad operand block is not held for replay. -/
theorem not_matricesAreMultiplied : ¬ Obligations.MatricesAreMultiplied := by
  rintro ⟨rows, -⟩
  obtain ⟨jobs, -⟩ := rows 0 fillTwice badBlockCore fillTwice_core.symm (by decide +kernel) (fun i => by rw [fillTwice_core]; exact reset_free i)
    (fun k => by
      show (State.reset.ctxs.getD k Context.reset).sec.tags.length < 16
      rw [reset_tags]
      decide)
  obtain ⟨fills, -⟩ := jobs smallMma _ rfl (by decide)
  obtain ⟨t, run, -, -, -, fails⟩ := fills 0 (by decide) badBlockCore_ahead
  obtain ⟨-, failed, -⟩ := fails (by decide +kernel)
  obtain ⟨r, held, -, -, -, -, -, st⟩ := failed.held 0 (by decide +kernel)
  have runs := fillTwice_runs
  rw [run, slotAfter, show (getL t (0 : Core).val).replay.getD (0 : Fin 4).val none = some r from held, Option.map_some, st] at runs
  exact absurd runs (by decide)

end Sys2Proof.Machine
end

section
-- One proof after the other: a text of this length has more proofs waiting at once than the check has threads for.
set_option Elab.async false
/-! PROOFS. A VEC with a bad operand block, where the map of logical cores lists the core twice (R123, R129, R158). -/

namespace Sys2Proof.Machine

/-- A tensor of one value at stage byte 0. -/
def stageValue : TRec := { windowValue with loc := 0 }

/-- A VEC on that tensor, ready to run. -/
def smallVec : VecJob :=
  { iss := { id := 7, slot := 0, pc := 0, desc := 0 }, recs := [some stageValue, some stageValue], grp := 0, out := false, blks := []
    came := [], got := [], acks := 0, ended := false }

def smallVecIn : VecIn := { x := vecOf 0, y := stageValue, a := stageValue, b := none, c := none }

/-- A core with that VEC, whose first stage block fails its CRC, and with a bank that is due to be released. -/
def badOperandCore : PCore :=
  { PCore.reset with
    threads := PCore.reset.threads.set 0 (some smallVec), stageBad := [(0, 1)]
    banks := PCore.reset.banks.set 0 { Bank.reset with relDone := some 5 } }

/-- Core 0 in service on slot 0. Behind its entry of the logical cores, which holds nothing, stands a second one; its replay waits for a
bank of slot 0 (R129), and where it enters it is put into the first entry. -/
def vecTwice : State :=
  { State.reset with
    hub := { State.reset.hub with coreMap := State.reset.hub.coreMap.set 0 { phys := 0, status := .inService } }
    slots := [(0, badOperandCore)]
    lcores := [(0, LCore.reset), (0, { LCore.reset with replay := LCore.reset.replay.set 0 (some waitingGuest) })] }

theorem vecTwice_core : getC vecTwice (0 : Core).val = badOperandCore := by
  rw [getC, show physOf vecTwice (0 : Core).val = 0 by decide +kernel]
  rfl

/-- The check that is said to fail. -/
def someFault : Option (EngFault × BadElem) := some (.residue, { elem := 0, bits := 0 })

/-- The run of the VEC. -/
def badRun : State × VecEnd := runVec { vecTwice with free := vecTwice.free + 1 } (0 : Core).val smallVec.iss smallVecIn smallVec.got someFault

theorem badRun_fails : badRun.2 = .failed .input := by decide +kernel

theorem eq_of_snd {α β : Type} {p : α × β} {b : β} (h : p.2 = b) : p = (p.1, b) := h ▸ Prod.eta p

theorem badRun_eq : badRun = (badRun.1, .failed .input) := eq_of_snd badRun_fails

theorem badRun_tags : ∀ k : Fin 64, (getCtx badRun.1 k.val).sec.tags.length < 16 := by decide +kernel

/-- The slot in which the failed VEC is held is taken by the guest. -/
theorem vecTwice_runs : (slotAfter (exec (.vecComplete 0 0 someFault) vecTwice)).map (·.st) = some .running := by decide +kernel

theorem noLockout_of_fin {s : State} (h : ∀ k : Fin 64, (getCtx s k.val).sec.tags.length < 16) : NoLockout s := fun k => by
  by_cases hk : k < 64
  · exact h ⟨k, hk⟩
  · rw [getCtx, show s.ctxs.getD k Context.reset = Context.reset by simp [Vector.getD, hk]]
    decide

theorem vecTwice_calm : NoLockout vecTwice := noLockout_of_fin (by decide +kernel)

/-- Refutes O58: where the map of logical cores lists a core twice, a VEC with a bad operand block is not held for replay. -/
theorem not_vectorsAreComputed : ¬ Obligations.VectorsAreComputed := by
  intro h
  obtain ⟨jobs, -⟩ := h 0 0 vecTwice badOperandCore vecTwice_core.symm (by decide +kernel)
    (fun i => by rw [vecTwice_core]; exact reset_free i) vecTwice_calm
  obtain ⟨ends, -⟩ := jobs smallVec smallVecIn _ (by decide +kernel) rfl (by decide) rfl
  obtain ⟨-, -, fails, -⟩ := ends someFault badRun.1 rfl rfl (.inr (by decide)) (noLockout_of_fin badRun_tags)
  obtain ⟨t, run, -, -, -, failed⟩ := fails .input badRun_eq
  obtain ⟨r, held, -, -, -, -, -, st⟩ := failed.held 0 (by decide +kernel)
  have runs := vecTwice_runs
  rw [run, slotAfter, show (getL t (0 : Core).val).replay.getD (0 : Fin 4).val none = some r from held, Option.map_some, st] at runs
  exact absurd runs (by decide)

end Sys2Proof.Machine
end

section
-- One proof after the other: a text of this length has more proofs waiting at once than the check has threads for.
set_option Elab.async false
/-! PROOFS. The pins and rails, the resets they cause, and how BOOTING begins (R199, R349, R378, R386, R395, R464, R475 to R478). -/
namespace Sys2Proof.Machine

/-! ### The device state at the end of a step -/

section
variable {s u v : State}

theorem serveActivate_hub (u : State) : (serveActivate u).hub = { u.hub with
      handoff := (serveActivate u).hub.handoff, actReq := (serveActivate u).hub.actReq, updating := (serveActivate u).hub.updating } ∧
    ((serveActivate u).hub.updating = true → u.hub.updating = true) := by
  unfold serveActivate
  split
  · split_ifs
    · exact ⟨rfl, id⟩
    · exact ⟨rfl, id⟩
    · rw [respond_hub]
      exact ⟨rfl, nofun⟩
    · exact ⟨rfl, id⟩
  · exact ⟨rfl, id⟩

theorem finishDrain_hub (u : State) : (finishDrain u).hub = { u.hub with
      draining := (finishDrain u).hub.draining, drainReq := (finishDrain u).hub.drainReq, newSlots := (finishDrain u).hub.newSlots } ∧
    ((finishDrain u).hub.draining = true → u.hub.draining = true) := by
  have taken : ∀ w : State, (takePending w fun _ => true).hub = { w.hub with newSlots := (takePending w fun _ => true).hub.newSlots } :=
    fun w => by
      unfold takePending
      dsimp only
      split <;> rfl
  unfold finishDrain
  split
  · split
    · rw [respond_hub, taken]
      exact ⟨rfl, nofun⟩
    · exact ⟨rfl, id⟩
  · exact ⟨rfl, id⟩

/-- What the end of a step shows is the state of a module whose activation and drain have at most ended. -/
theorem settle_dev (u : State) : ∃ v : State, (settle u).hub.dev = devNow v ∧ v.hub.dev = u.hub.dev ∧ v.hub.fenced = u.hub.fenced ∧
    v.hub.belfryDown = u.hub.belfryDown ∧ v.hub.diesDown = u.hub.diesDown ∧ v.hub.low = u.hub.low ∧ v.hub.started = u.hub.started ∧
    (v.hub.updating = true → u.hub.updating = true) ∧ (v.hub.draining = true → u.hub.draining = true) := by
  obtain ⟨h1, up⟩ := serveActivate_hub u
  obtain ⟨h2, down⟩ := finishDrain_hub (serveActivate u)
  have kept : ∀ {α : Type} (g : Hub → α), g (finishDrain (serveActivate u)).hub = g _ := fun g => congrArg g h2
  have first : ∀ {α : Type} (g : Hub → α), g (serveActivate u).hub = g _ := fun g => congrArg g h1
  refine ⟨finishDrain (serveActivate u), ?_, (kept (·.dev)).trans (first (·.dev)), (kept (·.fenced)).trans (first (·.fenced)),
    (kept (·.belfryDown)).trans (first (·.belfryDown)), (kept (·.diesDown)).trans (first (·.diesDown)),
    (kept (·.low)).trans (first (·.low)), (kept (·.started)).trans (first (·.started)),
    fun h => up ((kept (·.updating)).symm.trans h), fun h => (first (·.draining)).symm.trans (down h)⟩
  rw [settle, serveWaiters_hub, refreshDev_hub]

theorem devNow_cold (h : s.hub.dev = .cold) : devNow s = .cold := by rw [devNow, h]
theorem devNow_booting (h : s.hub.dev = .booting) : devNow s = .booting := by rw [devNow, h]

theorem settle_cold (h : u.hub.dev = .cold) : (settle u).hub.dev = .cold := by
  obtain ⟨v, shown, dev, -⟩ := settle_dev u
  rw [shown, devNow_cold (dev.trans h)]

theorem settle_booting (h : u.hub.dev = .booting) : (settle u).hub.dev = .booting := by
  obtain ⟨v, shown, dev, -⟩ := settle_dev u
  rw [shown, devNow_booting (dev.trans h)]

end

/-! ### A device reset (R378, R386, R395) -/

section
variable {s : State} {warm : Bool} {cause : BitVec 4}

/-- What a device reset leaves, but for the logs. -/
theorem deviceReset_leaves (s : State) (warm : Bool) (cause : BitVec 4) :
    (deviceReset s warm cause).pins = { s.pins with pps := false } ∧ (deviceReset s warm cause).mem = Mem.reset ∧
    (deviceReset s warm cause).slots = [] ∧ (deviceReset s warm cause).pending = s.pending ∧
    (deviceReset s warm cause).mail = resetMail s.mail ∧ (deviceReset s warm cause).hub.dev = .cold ∧
    (deviceReset s warm cause).hub.causeDev = cause ∧ (deviceReset s warm cause).hub.tripped = s.hub.tripped :=
  ⟨rfl, rfl, rfl, rfl, rfl, rfl, rfl, rfl⟩

theorem deviceReset_ctx (s : State) (warm : Bool) (cause : BitVec 4) {c : Nat} (h : c < 64) : getCtx (deviceReset s warm cause) c =
    { Context.reset with cgen := if warm then (getCtx s c).cgen else Context.reset.cgen } := by
  have ctxs : (deviceReset s warm cause).ctxs =
    s.ctxs.map fun x => { Context.reset with cgen := if warm then x.cgen else Context.reset.cgen } := rfl
  have here : ∀ v : Vector Context 64, v.getD c Context.reset = v[c] := fun v => by simp [Vector.getD, h]
  rw [getCtx, ctxs, here, Vector.getElem_map, getCtx, here]

/-- R395: of the lifetime counters a cold reset keeps what flash held last. -/
theorem coldReset_life (cause : BitVec 4) {k : Nat} (h1 : k ≠ 0x14) (h2 : k ≠ 0x10) :
    mapGet (deviceReset s false cause).diag.life k 0 = mapGet (s.diag.flashLife.headD []) k 0 :=
  (mapGet_set_other _ h1 _ _).trans (congrArg (·.getD 0) (mapGet?_erase_other _ h2))

theorem warmReset_keeps (cause : BitVec 4) : (deviceReset s true cause).diag.log = s.diag.log ∧
    (deviceReset s true cause).pwr.con = s.pwr.con := ⟨rfl, rfl⟩

theorem railsOff_up (h : s.pins.pgOut = true) (cause : BitVec 4) :
    railsOff s cause = deviceReset { s with pins := { s.pins with pgOut := false } } false cause := if_pos h

theorem railsOff_down (h : s.pins.pgOut = false) (cause : BitVec 4) : railsOff s cause = s := if_neg (by rw [h]; exact nofun)

/-- R378: the loss of the rails is a cold reset. -/
theorem railsOff_cold (h : s.pins.pgOut = true) (cause : BitVec 4) : (railsOff s cause).hub.dev = .cold ∧
    (railsOff s cause).pins = { s.pins with pgOut := false, pps := false } ∧ (railsOff s cause).mem = Mem.reset ∧
    (railsOff s cause).slots = [] ∧ (railsOff s cause).pending = s.pending ∧ (railsOff s cause).mail = resetMail s.mail ∧
    (railsOff s cause).hub.tripped = s.hub.tripped ∧ ∀ c, c < 64 → getCtx (railsOff s cause) c = Context.reset := by
  rw [railsOff_up h]
  obtain ⟨pins, mem, slots, pending, mail, dev, -, tripped⟩ :=
    deviceReset_leaves { s with pins := { s.pins with pgOut := false } } false cause
  exact ⟨dev, pins, mem, slots, pending, mail, tripped, fun c hc => deviceReset_ctx _ false cause hc⟩

end

/-! ### PWR_EN, VIN_54, V12_SB and THERMTRIP# -/

section
variable {s : State}

theorem thermtrip_up (h : s.pins.pgOut = true) (die : Fin 5) : ∃ t, exec (.thermtrip die) s = .next t ∧ t.hub.dev = .cold ∧
    t.hub.tripped = true ∧ t.hub.causeDev = 2 ∧ t.pins.thermtrip = false ∧ t.pins.pgOut = false ∧ t.mem = Mem.reset ∧ t.slots = [] ∧
    t.pending = s.pending ∧ mapGet t.diag.life 0x20 0 = mapGet s.diag.life 0x20 0 + 1 := by
  obtain ⟨w, hw⟩ : ∃ w, w = writeLife (lifeAdd s 0x20 1) := ⟨_, rfl⟩
  have up : w.pins.pgOut = true := by rw [hw]; exact h
  have head : mapGet (w.diag.flashLife.headD []) 0x20 0 = mapGet s.diag.life 0x20 0 + 1 := by
    rw [hw]
    exact (mapGet_set_other _ (by decide) _ _).trans (mapGet_set_same _ _ _ _)
  obtain ⟨dev, pins, mem, slots, pending, -⟩ := railsOff_cold up 2
  have life := (coldReset_life (s := { w with pins := { w.pins with pgOut := false } }) 2 (by decide : 0x20 ≠ 0x14) (by decide)).trans head
  rw [← railsOff_up up] at life
  have tripped : exec (.thermtrip die) s = done (modHub { railsOff w 2 with pins := { (railsOff w 2).pins with thermtrip := false } }
      fun h => { h with tripped := true, causeDev := 2 }) := by
    rw [hw]
    exact congrArg done (if_neg (by rw [h]; exact nofun))
  have out := settle_settled (modHub { railsOff w 2 with pins := { (railsOff w 2).pins with thermtrip := false } }
      fun h => { h with tripped := true, causeDev := 2 })
  refine ⟨_, tripped.trans (done_next _), settle_cold dev, out.hub.tripped, out.hub.causeDev, ?_, ?_, ?_, ?_, ?_, ?_⟩
  · rw [settle_pins]; rfl
  · rw [settle_pins]
    exact congrArg (·.pgOut) pins
  · rw [settle_mem]; exact mem
  · rw [settle_slots]; exact slots
  · rw [settle_pending]
    refine pending.trans ?_
    rw [hw]; rfl
  · rw [settle_diag]; exact life

theorem pwrEn_low_up (h : s.pins.pgOut = true) : ∃ t, exec (.pwrEn false) s = .next t ∧ t.hub.dev = .cold ∧ t.pins.pwrEn = false ∧
    t.pins.pgOut = false ∧ t.hub.tripped = false ∧ t.mem = Mem.reset ∧ t.mail.copyA = s.mail.copyA ∧ t.mail.copyB = s.mail.copyB ∧
    ∀ c, c < 64 → getCtx t c = Context.reset := by
  obtain ⟨w, hw⟩ : ∃ w : State, w = { s with pins := { s.pins with pwrEn := false } } := ⟨_, rfl⟩
  have up : w.pins.pgOut = true := by rw [hw]; exact h
  obtain ⟨dev, pins, mem, -, -, mail, -, ctxs⟩ := railsOff_cold up 0
  have copies : (railsOff w 0).mail.copyA = s.mail.copyA ∧ (railsOff w 0).mail.copyB = s.mail.copyB := by
    rw [mail, hw]; exact ⟨rfl, rfl⟩
  have low : (railsOff w 0).pins.pwrEn = false ∧ (railsOff w 0).pins.pgOut = false := by rw [pins, hw]; exact ⟨rfl, rfl⟩
  have drive : exec (.pwrEn false) s = done (if (railsOff w 0).hub.tripped then
      modHub { railsOff w 0 with pins := { (railsOff w 0).pins with thermtrip := true } } fun h => { h with tripped := false }
    else railsOff w 0) := by rw [hw]; rfl
  cases trip : (railsOff w 0).hub.tripped with
  | true =>
    rw [trip, if_pos rfl] at drive
    have out := settle_settled (modHub { railsOff w 0 with pins := { (railsOff w 0).pins with thermtrip := true } }
      fun h => { h with tripped := false })
    refine ⟨_, drive.trans (done_next _), settle_cold dev, ?_, ?_, out.hub.tripped, ?_, out.mail.copyA.trans copies.1,
      out.mail.copyB.trans copies.2, fun c hc => (getCtx_congr out.out.ctxs c).trans (ctxs c hc)⟩
    · rw [settle_pins]; exact low.1
    · rw [settle_pins]; exact low.2
    · rw [settle_mem]; exact mem
  | false =>
    rw [trip, if_neg nofun] at drive
    have out := settle_settled (railsOff w 0)
    refine ⟨_, drive.trans (done_next _), settle_cold dev, ?_, ?_, out.hub.tripped.trans trip, ?_, out.mail.copyA.trans copies.1,
      out.mail.copyB.trans copies.2, fun c hc => (getCtx_congr out.out.ctxs c).trans (ctxs c hc)⟩
    · rw [settle_pins]; exact low.1
    · rw [settle_pins]; exact low.2
    · rw [settle_mem]; exact mem

theorem vin54_low_up (h : s.pins.pgOut = true) : ∃ t, exec (.vin54 false) s = .next t ∧ t.hub.dev = .cold ∧ t.pins.vin54 = false ∧
    t.pins.pgOut = false ∧ t.mem = Mem.reset := by
  obtain ⟨dev, pins, mem, -⟩ := railsOff_cold (s := { s with pins := { s.pins with vin54 := false } }) h 0
  refine ⟨_, done_next _, settle_cold dev, ?_, ?_, ?_⟩
  · rw [settle_pins]; exact congrArg (·.vin54) pins
  · rw [settle_pins]; exact congrArg (·.pgOut) pins
  · rw [settle_mem]; exact mem

theorem v12Sb_lost (s : State) : ∃ t, exec (.v12Sb false) s = .next t ∧ t.pins.v12sb = false ∧ t.pins.pgOut = false ∧ t.hub.eid = 0 := by
  obtain ⟨w, hw⟩ : ∃ w : State, w = { s with pins := { s.pins with v12sb := false, thermtrip := !false || !s.hub.tripped } } := ⟨_, rfl⟩
  have drive : exec (.v12Sb false) s = done (modHub (railsOff w 0) fun h => { h with eid := 0, arpDone := false }) := by rw [hw]; rfl
  have pins : (railsOff w 0).pins.v12sb = false ∧ (railsOff w 0).pins.pgOut = false := by
    cases h : w.pins.pgOut with
    | true =>
      obtain ⟨-, pins, -⟩ := railsOff_cold h 0
      rw [pins, hw]; exact ⟨rfl, rfl⟩
    | false =>
      rw [railsOff_down h]
      exact ⟨by rw [hw], h⟩
  have out := settle_settled (modHub (railsOff w 0) fun h => { h with eid := 0, arpDone := false })
  refine ⟨_, drive.trans (done_next _), ?_, ?_, out.hub.eid⟩
  · rw [settle_pins]; exact pins.1
  · rw [settle_pins]; exact pins.2

theorem thermtrip_down (h : s.pins.pgOut = false) (die : Fin 5) : Leads (.thermtrip die) s s :=
  leads_done (congrArg done (if_pos (by rw [h]; rfl) : thermalTrip s = s)) (.refl s)

theorem pwrEn_low_down (h : s.pins.pgOut = false) : Leads (.pwrEn false) s { s with
    pins := { s.pins with pwrEn := false, thermtrip := s.pins.thermtrip || s.hub.tripped }, hub := { s.hub with tripped := false } } := by
  obtain ⟨w, hw⟩ : ∃ w : State, w = { s with pins := { s.pins with pwrEn := false } } := ⟨_, rfl⟩
  have drive : exec (.pwrEn false) s = done (if (railsOff w 0).hub.tripped then
      modHub { railsOff w 0 with pins := { (railsOff w 0).pins with thermtrip := true } } fun h => { h with tripped := false }
    else railsOff w 0) := by rw [hw]; rfl
  have off : railsOff w 0 = w := railsOff_down (by rw [hw]; exact h) 0
  have trip : w.hub.tripped = s.hub.tripped := by rw [hw]
  refine leads_done drive ?_
  rw [off, trip]
  cases cause : s.hub.tripped with
  | true =>
    rw [if_pos rfl, Bool.or_true, hw]
    exact .refl _
  | false =>
    have kept : ({ s.hub with tripped := false } : Hub) = s.hub := by rw [← cause]
    rw [if_neg nofun, Bool.or_false, kept, hw]
    exact .refl _

theorem vin54_low_down (h : s.pins.pgOut = false) : Leads (.vin54 false) s { s with pins := { s.pins with vin54 := false } } :=
  leads_done (congrArg done (railsOff_down (s := { s with pins := { s.pins with vin54 := false } }) h 0)) (.refl _)

end

/-! ### Training of the memory positions begins (R199) -/

/-- R199: a position begins to train where it is fitted and has not failed. -/
def trainFitted (s : State) (p : Nat) : State :=
  if (posGroup s p).isSome && !lifeFailed s p then modCtrl s p fun k => { k with training := true } else s

section
variable {s : State} {p q : Nat}

theorem frame_trainFitted (s : State) (q : Nat) : AllBut [.mem] s (trainFitted s q) :=
  .ite (fun _ => frame_modCtrl s q _) fun _ => .refl _ s

theorem posGroup_congr {t : State} (h : t.opt = s.opt) (p : Nat) : posGroup t p = posGroup s p := by
  unfold posGroup spareGroups groupBase groupDie
  rw [h]

theorem lifeFailed_congr {t : State} (h : t.diag = s.diag) (p : Nat) : lifeFailed t p = lifeFailed s p := by
  rw [lifeFailed, h, lifeFailed]

theorem trainFitted_keeps (hp : p < 80) (h : (getCtrl s p).training = true) (q : Nat) :
    (getCtrl (trainFitted s q) p).training = true := by
  unfold trainFitted
  split
  · by_cases hq : p = q
    · rw [← hq, getCtrl_modCtrl_same hp]
    · rw [getCtrl_modCtrl_other hq]
      exact h
  · exact h

theorem trains_of_mem (hp : p < 80) : ∀ (l : List Nat) (s : State), p ∈ l ∨ (getCtrl s p).training = true →
    (posGroup s p).isSome = true → lifeFailed s p = false → (getCtrl (l.foldl trainFitted s) p).training = true := by
  intro l
  induction l with
  | nil => exact fun s h _ _ => h.resolve_left (List.not_mem_nil)
  | cons q l ih =>
    intro s h fitted good
    have kept := frame_trainFitted s q
    refine ih _ ?_ ((congrArg Option.isSome (posGroup_congr (kept .opt (by decide)) p)).trans fitted)
      ((lifeFailed_congr (kept .diag (by decide)) p).trans good)
    obtain hq | h := h
    · obtain rfl | hq := List.mem_cons.mp hq
      · right
        rw [trainFitted, if_pos (by rw [fitted, good]; rfl), getCtrl_modCtrl_same hp]
      · exact .inl hq
    · exact .inr (trainFitted_keeps hp h q)

theorem frame_startTraining (s : State) : AllBut [.mem] s (startTraining s) :=
  .foldl (f := trainFitted) (fun s q => frame_trainFitted s q) (List.range 80) s

theorem startTraining_trains (hp : p < 80) (fitted : (posGroup s p).isSome = true) (good : lifeFailed s p = false) :
    (getCtrl (startTraining s) p).training = true := trains_of_mem hp _ s (.inl (List.mem_range.mpr hp)) fitted good

/-- R349, R475: BOOTING begins. -/
theorem beginBoot_begins (cold : s.hub.dev = .cold) (up : s.pins.pgOut = true) (released : s.pins.perst = true) :
    (beginBoot s).hub.dev = .booting ∧ (beginBoot s).pins = s.pins ∧ (beginBoot s).mem.cells = s.mem.cells ∧
    (beginBoot s).ctxs = s.ctxs ∧
    ∀ p, p < 80 → (posGroup s p).isSome = true → lifeFailed s p = false → (getCtrl (beginBoot s) p).training = true := by
  have begun : beginBoot s = startTraining (modHub s fun h => { h with dev := .booting, bootAt := s.ticks }) := if_pos ⟨cold, up, released⟩
  rw [begun]
  have kept := frame_startTraining (modHub s fun h => { h with dev := .booting, bootAt := s.ticks })
  exact ⟨congrArg (·.dev) (kept .hub (by decide)), kept .pins (by decide), kept .cells (by decide), kept .ctxs (by decide),
    fun p hp => startTraining_trains (s := modHub s fun h => { h with dev := .booting, bootAt := s.ticks }) hp⟩

theorem beginBoot_waits (h : s.hub.dev ≠ .cold ∨ s.pins.pgOut = false ∨ s.pins.perst = false) : beginBoot s = s := by
  refine if_neg fun ⟨cold, up, released⟩ => ?_
  obtain h | h | h := h
  · exact h cold
  · rw [h] at up; cases up
  · rw [h] at released; cases released

end

/-! ### PG_OUT and PERST# -/

section
variable {s : State}

theorem pgOut_begins (en : s.pins.pwrEn = true) (vin : s.pins.vin54 = true) (sb : s.pins.v12sb = true) (trip : s.hub.tripped = false)
    (off : s.pins.pgOut = false) : exec .pgOut s = done (beginBoot { s with pins := { s.pins with pgOut := true } }) :=
  congrArg done (if_pos ⟨en, vin, sb, by rw [trip]; rfl, by rw [off]; rfl⟩)

theorem pgOut_boots (en : s.pins.pwrEn = true) (vin : s.pins.vin54 = true) (sb : s.pins.v12sb = true) (trip : s.hub.tripped = false)
    (off : s.pins.pgOut = false) (cold : s.hub.dev = .cold) (released : s.pins.perst = true) :
    ∃ t, exec .pgOut s = .next t ∧ t.pins.pgOut = true ∧ t.hub.dev = .booting ∧ t.mem.cells = s.mem.cells ∧
      ∀ p, p < 80 → (posGroup s p).isSome = true → lifeFailed s p = false → (getCtrl t p).training = true := by
  obtain ⟨dev, pins, cells, -, trains⟩ := beginBoot_begins (s := { s with pins := { s.pins with pgOut := true } }) cold rfl released
  refine ⟨_, (pgOut_begins en vin sb trip off).trans (done_next _), ?_, settle_booting dev, ?_, fun p hp fitted good => ?_⟩
  · rw [settle_pins, pins]
  · rw [settle_mem]; exact cells
  · rw [getCtrl, settle_mem]
    exact trains p hp fitted good

theorem pgOut_held (en : s.pins.pwrEn = true) (vin : s.pins.vin54 = true) (sb : s.pins.v12sb = true) (trip : s.hub.tripped = false)
    (off : s.pins.pgOut = false) (held : s.pins.perst = false) : Leads .pgOut s { s with pins := { s.pins with pgOut := true } } := by
  refine leads_done (pgOut_begins en vin sb trip off) ?_
  rw [beginBoot_waits (s := { s with pins := { s.pins with pgOut := true } }) (.inr (.inr held))]
  exact .refl _

theorem pgOut_off (rest : AtRest s) (h : s.pins.pwrEn = false ∨ s.pins.vin54 = false ∨ s.pins.v12sb = false ∨ s.hub.tripped = true ∨
    s.pins.pgOut = true) : exec .pgOut s = .next s := by
  have kept : powerGood s = s := if_neg fun ⟨h1, h2, h3, h4, h5⟩ => by
    obtain h | h | h | h | h := h
    · rw [h] at h1; cases h1
    · rw [h] at h2; cases h2
    · rw [h] at h3; cases h3
    · rw [h] at h4; cases h4
    · rw [h] at h5; cases h5
  exact (congrArg done kept).trans (done_atRest rest)

theorem drivePerst_acts (l : Bool) (q : BitVec 2) (f : Bool) (en : s.pins.pwrEn = true) (trip : s.hub.tripped = false)
    (was : s.pins.perst = !l) : exec (.perst l q f) s = done (
      if l then beginBoot { s with pins := { s.pins with perst := l, profSel := q, forceSafe := f } }
      else if s.pins.pgOut then deviceReset { s with pins := { s.pins with perst := l } } true 1
      else { s with pins := { s.pins with perst := l } }) := by
  refine congrArg done (if_neg ?_)
  show ¬(!s.pins.pwrEn || s.hub.tripped || s.pins.perst == l) = true
  rw [en, trip, was]
  cases l <;> decide

theorem perst_shows (l : Bool) (q : BitVec 2) (f : Bool) (h : s.pins.pwrEn = false ∨ s.hub.tripped = true ∨ s.pins.perst = l) :
    Leads (.perst l q f) s { s with pins := { s.pins with perst := l } } := by
  refine leads_done (congrArg done (if_pos ?_)) (.refl _)
  show (!s.pins.pwrEn || s.hub.tripped || s.pins.perst == l) = true
  obtain h | h | h := h
  · rw [h]; rfl
  · rw [h, Bool.or_true, Bool.true_or]
  · rw [h, beq_self_eq_true, Bool.or_true]

theorem perst_resets (q : BitVec 2) (f : Bool) (en : s.pins.pwrEn = true) (trip : s.hub.tripped = false) (up : s.pins.pgOut = true)
    (released : s.pins.perst = true) : ∃ t, exec (.perst false q f) s = .next t ∧ t.hub.dev = .cold ∧ t.hub.causeDev = 1 ∧
      t.mem = Mem.reset ∧ t.slots = [] ∧ t.diag.log = s.diag.log ∧ t.pwr.con = s.pwr.con ∧ t.mail.copyA = s.mail.copyA ∧
      t.mail.copyB = s.mail.copyB ∧ t.mail.opSecret = s.mail.opSecret ∧ t.pending = s.pending ∧
      ∀ c, c < 64 → getCtx t c = { Context.reset with cgen := (getCtx s c).cgen } := by
  obtain ⟨w, hw⟩ : ∃ w : State, w = { s with pins := { s.pins with perst := false } } := ⟨_, rfl⟩
  have drive : exec (.perst false q f) s = done (deviceReset w true 1) := by
    rw [drivePerst_acts false q f en trip released, if_neg nofun, if_pos up, hw]
  obtain ⟨-, mem, slots, pending, mail, dev, cause, -⟩ := deviceReset_leaves w true 1
  obtain ⟨log, con⟩ := warmReset_keeps (s := w) 1
  have flash : (deviceReset w true 1).mail.copyA = s.mail.copyA ∧ (deviceReset w true 1).mail.copyB = s.mail.copyB ∧
      (deviceReset w true 1).mail.opSecret = s.mail.opSecret := by
    rw [mail, hw]; exact ⟨rfl, rfl, rfl⟩
  obtain ⟨copyA, copyB, secret⟩ := flash
  have out := settle_settled (deviceReset w true 1)
  refine ⟨_, drive.trans (done_next _), settle_cold dev, out.hub.causeDev.trans cause, ?_, ?_, ?_, ?_, out.mail.copyA.trans copyA,
    out.mail.copyB.trans copyB, out.mail.opSecret.trans secret, ?_, fun c hc => ?_⟩
  · rw [settle_mem]; exact mem
  · rw [settle_slots]; exact slots
  · rw [settle_diag, log, hw]
  · rw [settle_pwr, con, hw]
  · rw [settle_pending, pending, hw]
  · rw [getCtx_congr out.out.ctxs, deviceReset_ctx w true 1 hc, if_pos rfl, hw]
    rfl

theorem perst_boots (q : BitVec 2) (f : Bool) (en : s.pins.pwrEn = true) (trip : s.hub.tripped = false) (up : s.pins.pgOut = true)
    (held : s.pins.perst = false) (cold : s.hub.dev = .cold) : ∃ t, exec (.perst true q f) s = .next t ∧ t.hub.dev = .booting ∧
      t.pins.perst = true ∧ t.pins.profSel = q ∧ t.pins.forceSafe = f ∧ t.mem.cells = s.mem.cells ∧ t.ctxs = s.ctxs := by
  obtain ⟨dev, pins, cells, ctxs, -⟩ :=
    beginBoot_begins (s := { s with pins := { s.pins with perst := true, profSel := q, forceSafe := f } }) cold up rfl
  refine ⟨_, ((drivePerst_acts true q f en trip held).trans (congrArg done (if_pos rfl))).trans (done_next _), settle_booting dev,
    ?_, ?_, ?_, ?_, ?_⟩
  · rw [settle_pins, pins]
  · rw [settle_pins, pins]
  · rw [settle_pins, pins]
  · rw [settle_mem]; exact cells
  · rw [settle_ctxs]; exact ctxs

theorem perst_asserted_off (q : BitVec 2) (f : Bool) (en : s.pins.pwrEn = true) (trip : s.hub.tripped = false) (off : s.pins.pgOut = false)
    (released : s.pins.perst = true) : Leads (.perst false q f) s { s with pins := { s.pins with perst := false } } := by
  refine leads_done (drivePerst_acts false q f en trip released) ?_
  rw [if_neg nofun, if_neg (by rw [off]; exact nofun)]
  exact .refl _

theorem perst_released_off (q : BitVec 2) (f : Bool) (en : s.pins.pwrEn = true) (trip : s.hub.tripped = false) (off : s.pins.pgOut = false)
    (held : s.pins.perst = false) :
    Leads (.perst true q f) s { s with pins := { s.pins with perst := true, profSel := q, forceSafe := f } } := by
  refine leads_done (drivePerst_acts true q f en trip held) ?_
  rw [if_pos rfl, beginBoot_waits (s := { s with pins := { s.pins with perst := true, profSel := q, forceSafe := f } }) (.inr (.inl off))]
  exact .refl _

end
end Sys2Proof.Machine
end

section
-- One proof after the other: a text of this length has more proofs waiting at once than the check has threads for.
set_option Elab.async false
/-! PROOFS. The end of BOOTING: the configuration, the maps of channels and cores, STANDBY and FENCED (R20, R199, R200, R349, R441). -/
namespace Sys2Proof.Machine

/-- An invariant that every step of a counted loop carries on holds when the loop ends. -/
theorem foldl_range_carries {α : Type} {P : Nat → α → Prop} {f : α → Nat → α} : ∀ (n : Nat) {s : α}, P 0 s →
    (∀ k s, k < n → P k s → P (k + 1) (f s k)) → P n ((List.range n).foldl f s)
  | 0, _, h0, _ => h0
  | n + 1, s, h0, h => by
    rw [List.range_succ, List.foldl_append]
    exact h n _ (Nat.lt_succ_self n) (foldl_range_carries n h0 fun k s hk => h k s (Nat.lt_succ_of_lt hk))

/-! ### What the end of BOOTING does not move -/

/-- Of a module that boots, everything stays that its configuration, its maps and its notices do not set. -/
structure BootKept (s t : State) : Prop where
  opt : t.opt = s.opt
  cells : t.mem.cells = s.mem.cells
  ctxs : t.ctxs = s.ctxs
  deferred : t.mail.deferred = s.mail.deferred
  hub : t.hub = { s.hub with
    mapGen := t.hub.mapGen, capGen := t.hub.capGen, coreMap := t.hub.coreMap, chanMap := t.hub.chanMap, layout := t.hub.layout
    profile := t.hub.profile, safe := t.hub.safe, cfgCopyB := t.hub.cfgCopyB, cfgDefault := t.hub.cfgDefault }

section
variable {s t u : State}

theorem BootKept.refl (s : State) : BootKept s s := ⟨rfl, rfl, rfl, rfl, rfl⟩

theorem BootKept.trans (h : BootKept s t) (k : BootKept t u) : BootKept s u :=
  ⟨k.opt.trans h.opt, k.cells.trans h.cells, k.ctxs.trans h.ctxs, k.deferred.trans h.deferred, by rw [k.hub, h.hub]⟩

theorem BootKept.foldl {α : Type} {f : State → α → State} (h : ∀ s a, BootKept s (f s a)) (l : List α) (s : State) :
    BootKept s (l.foldl f s) := by
  induction l generalizing s with
  | nil => exact .refl s
  | cons a l ih => exact (h s a).trans (ih (f s a))

theorem BootKept.of_frame {l : List Part} (h : AllBut l s t) (deferred : t.mail.deferred = s.mail.deferred)
    (hl : ∀ p ∈ l, p ∈ [.mem, .diag, .mail, .told, .mailKept, .outbox, .time, .pins, .fab, .pwr] := by decide) : BootKept s t := by
  have kept := h.mono hl
  exact ⟨kept .opt (by decide), kept .cells (by decide), kept .ctxs (by decide), deferred,
    by rw [show t.hub = s.hub from kept .hub (by decide)]⟩

theorem bootKept_postNotice (code : BitVec 16) (b : Bytes) : BootKept s (postNotice s code none b) :=
  .of_frame (frame_postNotice s code none b) (settled_postNotice s code none b).mail.deferred

theorem bootKept_modCtrl (p : Nat) (f : Ctrl → Ctrl) : BootKept s (modCtrl s p f) := .of_frame (frame_modCtrl s p f) rfl

theorem bootKept_chooseCopy : BootKept s (chooseCopy s) := by
  unfold chooseCopy
  dsimp only
  split
  · exact ⟨rfl, rfl, rfl, rfl, rfl⟩
  · exact BootKept.trans (t := modHub s fun h => { h with cfgCopyB := false, cfgDefault := true }) ⟨rfl, rfl, rfl, rfl, rfl⟩
      (bootKept_postNotice _ _)

theorem bootKept_loadProfile : BootKept s (loadProfile s) := by
  obtain ⟨pins, b, moves, -⟩ := loadProfile_moves s
  rw [moves]
  exact ⟨rfl, rfl, rfl, rfl, rfl⟩

/-- The notices of the records that a module cannot honour. -/
def faultNotice (s : State) (p : Nat × Nat) : State :=
  postNotice s 0x000D none (cfgFaultBody (BitVec.ofNat 8 s.hub.cfgCopyB.toNat) (BitVec.ofNat 8 p.1) 4 p.2)

/-- The calibration that a module boots with. -/
def calibrated (s : State) (cal : Bytes) : State := modMail s fun m => { m with cal := cal }

theorem bootConfig_eq (s : State) : ∃ cal, bootConfig s = (badRecords (loadProfile (calibrated (chooseProfile (chooseCopy s)) cal))).foldl
    faultNotice (loadProfile (calibrated (chooseProfile (chooseCopy s)) cal)) := ⟨_, rfl⟩

theorem bootKept_bootConfig : BootKept s (bootConfig s) := by
  obtain ⟨cal, eq⟩ := bootConfig_eq s
  have chosen : BootKept s (calibrated (chooseProfile (chooseCopy s)) cal) := bootKept_chooseCopy.trans ⟨rfl, rfl, rfl, rfl, rfl⟩
  rw [eq]
  exact (chosen.trans bootKept_loadProfile).trans (.foldl (fun _ _ => bootKept_postNotice _ _) _ _)

/-- The configuration moves neither the controllers nor the records of failures. -/
theorem bootConfig_ctrl (s : State) : (bootConfig s).mem.ctrl = s.mem.ctrl ∧ (bootConfig s).diag = s.diag := by
  obtain ⟨cal, eq⟩ := bootConfig_eq s
  have noticed : ∀ (w : State) (code : BitVec 16) b, (postNotice w code none b).mem = w.mem ∧ (postNotice w code none b).diag = w.diag :=
    fun w code b => ⟨(settled_postNotice w code none b).out.mem, (settled_postNotice w code none b).out.diag⟩
  have chosen : (chooseCopy s).mem = s.mem ∧ (chooseCopy s).diag = s.diag := by
    unfold chooseCopy
    dsimp only
    split
    · exact ⟨rfl, rfl⟩
    · exact noticed _ _ _
  obtain ⟨w, hw⟩ : ∃ w, w = calibrated (chooseProfile (chooseCopy s)) cal := ⟨_, rfl⟩
  have start : w.mem = s.mem ∧ w.diag = s.diag := by rw [hw]; exact chosen
  have loaded : (loadProfile w).mem.ctrl = w.mem.ctrl ∧ (loadProfile w).diag = w.diag := by
    obtain ⟨pins, b, moves, -⟩ := loadProfile_moves w
    rw [moves]
    exact ⟨rfl, rfl⟩
  have told : AllBut [.mail, .outbox] (loadProfile w) ((badRecords (loadProfile w)).foldl faultNotice (loadProfile w)) :=
    .foldl (fun s p => frame_postNotice s _ _ _) _ _
  rw [eq, ← hw]
  exact ⟨(congrArg Mem.ctrl (told .mem (by decide))).trans (loaded.1.trans (by rw [start.1])),
    Eq.trans (told .diag (by decide)) (loaded.2.trans start.2)⟩

theorem bootKept_failPos (p : Nat) : BootKept s (failPos s p) := ⟨rfl, rfl, rfl, rfl, rfl⟩

theorem bootKept_trainPositions (bad : List Nat) (ok : List (Nat × BitVec 2 × Word)) : BootKept s (trainPositions s bad ok) := by
  refine .foldl (fun s p => ?_) _ s
  split
  · exact bootKept_modCtrl _ _
  · split
    · exact bootKept_modCtrl _ _
    · exact bootKept_failPos _

theorem bootKept_serveChan (n p : Nat) : BootKept s (serveChan s n p) :=
  BootKept.trans (t := modHub s fun h => setChanMap h n { ctrl := p % 20, status := .inService }) ⟨rfl, rfl, rfl, rfl, rfl⟩
    (bootKept_modCtrl _ _)

/-- R200: a channel of the group whose positions begin at `b` finds its position. -/
def mapChan (fresh : List Nat) (g b : Nat) (s : State) (j : Nat) : State :=
  if (getCtrl s (b + j)).role != .failed then serveChan s (9 * g + j) (b + j)
  else if (getCtrl s (b + 9)).role = .spare then
    let s' := serveChan s (9 * g + j) (b + 9)
    if fresh.contains (b + j) then
      postNotice (countSwitchIn s' (b + 9)) 0x000A none (channelBody (9 * g + j) ((b + j) % 20) (some ((b + 9) % 20)) 5)
    else s'
  else
    let s' := modHub s fun h => setChanMap h (9 * g + j) { ctrl := (b + j) % 20, status := .mappedOut }
    if fresh.contains (b + j) then postNotice s' 0x000A none (channelBody (9 * g + j) ((b + j) % 20) none 4) else s'

/-- R200: the spare of a group stands ready. -/
def readySpare (b : Nat) (s : State) : State :=
  if (getCtrl s (b + 9)).role != .failed then modCtrl s (b + 9) fun k => { k with role := .spare, selfRefresh := true } else s

theorem mapGroup_eq (fresh : List Nat) (s : State) (g : Nat) : mapGroup fresh s g =
    (List.range 9).foldl (mapChan fresh g (groupBase s g)) (readySpare (groupBase s g) s) := rfl

theorem bootKept_mapGroup (fresh : List Nat) (g : Nat) : BootKept s (mapGroup fresh s g) := by
  rw [mapGroup_eq]
  refine BootKept.trans (t := readySpare (groupBase s g) s) ?_ (.foldl (fun s j => ?_) _ _)
  · unfold readySpare
    split
    · exact bootKept_modCtrl _ _
    · exact .refl s
  · unfold mapChan
    dsimp only
    split_ifs
    · exact bootKept_serveChan _ _
    · exact ((bootKept_serveChan _ _).trans (.of_frame ((frame_modDiag _ _).trans (frame_modDiag _ _)) rfl)).trans
        (bootKept_postNotice _ _)
    · exact bootKept_serveChan _ _
    · exact BootKept.trans (t := modHub s fun h => setChanMap h _ { ctrl := _, status := .mappedOut }) ⟨rfl, rfl, rfl, rfl, rfl⟩
        (bootKept_postNotice _ _)
    · exact ⟨rfl, rfl, rfl, rfl, rfl⟩

theorem bootKept_buildChans (bad : List Nat) (ok : List (Nat × BitVec 2 × Word)) : BootKept s (buildChans s bad ok) :=
  (bootKept_trainPositions bad ok).trans (.foldl (fun _ g => bootKept_mapGroup _ g) _ _)

/-- R20, R21: a logical core of a die finds its slot. -/
def mapCore (firsts : List Nat) (d : Nat) (s : State) (j : Nat) : State :=
  if !s.hub.slotRetired.contains (firsts.getD j 0) then
    modHub s fun h => setCoreMap h (32 * d + j) { phys := firsts.getD j 0, status := .inService }
  else
    match ((firsts.drop 32) ++ s.opt.spares.filter fun q => q / 34 == d).find? fun q => !s.hub.slotRetired.contains q &&
        !((List.range 128).any fun m => inService s m && physOf s m == q) with
    | some q => modHub s fun h => setCoreMap h (32 * d + j) { phys := q, status := .inService }
    | none => modHub s fun h => setCoreMap h (32 * d + j) { phys := firsts.getD j 0, status := .retired }

theorem mapDie_eq (s : State) (d : Nat) : mapDie s d = (List.range 32).foldl (mapCore (firstSlots s d) d) s := rfl

theorem bootKept_mapDie (d : Nat) : BootKept s (mapDie s d) := by
  rw [mapDie_eq]
  refine .foldl (fun s j => ?_) _ s
  unfold mapCore
  split
  · exact ⟨rfl, rfl, rfl, rfl, rfl⟩
  · split <;> exact ⟨rfl, rfl, rfl, rfl, rfl⟩

theorem bootKept_coreChange : BootKept s (coreChange s fun h => h) := ⟨rfl, rfl, rfl, rfl, rfl⟩

/-- What boots in a module whose Belfry image and factory copies are good. -/
def mapped (bad : List Nat) (ok : List (Nat × BitVec 2 × Word)) (s : State) : State :=
  coreChange ((List.range 4).foldl mapDie (buildChans (bootConfig s) bad ok)) fun h => h

theorem bootKept_mapped (bad : List Nat) (ok : List (Nat × BitVec 2 × Word)) : BootKept s (mapped bad ok s) :=
  ((bootKept_bootConfig.trans (bootKept_buildChans bad ok)).trans (.foldl (fun _ d => bootKept_mapDie d) _ _)).trans bootKept_coreChange

end

/-! ### The maps of a module without a failure (R20, R199, R200) -/

/-- No fitted position has failed, and the first `n` channels are in service. -/
structure Fitted (s u : State) (n : Nat) : Prop where
  opt : u.opt = s.opt
  good : ∀ p, p < 80 → (posGroup s p).isSome = true → (getCtrl u p).role ≠ .failed
  served : ∀ m, m < n → (u.hub.chanMap.getD m { ctrl := 0, status := .unmapped }).status = .inService

section
variable {s u : State} {n : Nat}

theorem Fitted.modCtrl (h : Fitted s u n) (p : Nat) {f : Ctrl → Ctrl} (hf : ∀ k, k.role ≠ .failed → (f k).role ≠ .failed) :
    Fitted s (modCtrl u p f) n := by
  refine ⟨h.opt, fun q hq fitted => ?_, h.served⟩
  by_cases same : q = p
  · rw [← same, getCtrl_modCtrl_same hq]
    exact hf _ (h.good q hq fitted)
  · rw [getCtrl_modCtrl_other same]
    exact h.good q hq fitted

theorem Fitted.serveChan (h : Fitted s u n) (hn : n < 72) (p : Nat) : Fitted s (serveChan u n p) (n + 1) := by
  have mapped : Fitted s (modHub u fun h => setChanMap h n { ctrl := p % 20, status := .inService }) (n + 1) := by
    refine ⟨h.opt, h.good, fun m hm => ?_⟩
    by_cases same : m = n
    · subst same
      exact congrArg ChanEntry.status (vector_getD_set_same _ hn _ _)
    · exact (congrArg ChanEntry.status (vector_getD_set_other _ same _ _)).trans (h.served m (by omega))
  exact mapped.modCtrl p fun k _ => nofun

/-- The positions of a group are fitted. -/
theorem groupBase_fitted {g i : Nat} (hg : g < spareGroups s) (hi : i < 10) :
    groupBase s g + i < 80 ∧ (posGroup s (groupBase s g + i)).isSome = true := by
  constructor
  · unfold groupBase groupDie
    unfold spareGroups at hg
    split_ifs at hg ⊢
    · interval_cases g <;> simp <;> omega
    · omega
  · rw [posGroup, List.find?_isSome]
    exact ⟨g, List.mem_range.mpr hg, by simp; omega⟩

theorem groupBase_congr {t : State} (h : t.opt = s.opt) (g : Nat) : groupBase t g = groupBase s g := by
  unfold groupBase groupDie
  rw [h]

theorem spareGroups_congr {t : State} (h : t.opt = s.opt) : spareGroups t = spareGroups s := by rw [spareGroups, h, spareGroups]

theorem spareGroups_le (s : State) : spareGroups s ≤ 8 := by
  unfold spareGroups
  split <;> decide

theorem Fitted.mapGroup {g : Nat} (h : Fitted s u (9 * g)) (hg : g < spareGroups s) (fresh : List Nat) :
    Fitted s (mapGroup fresh u g) (9 * (g + 1)) := by
  have most := spareGroups_le s
  rw [mapGroup_eq, groupBase_congr h.opt]
  have ready : Fitted s (readySpare (groupBase s g) u) (9 * g) := by
    unfold readySpare
    split
    · exact h.modCtrl _ fun k _ => nofun
    · exact h
  refine foldl_range_carries (P := fun j v => Fitted s v (9 * g + j)) 9 ready fun j v hj hv => ?_
  obtain ⟨inside, fitted⟩ := groupBase_fitted hg (show j < 10 by omega)
  rw [mapChan, if_pos (bne_iff_ne.mpr (hv.good _ inside fitted))]
  exact hv.serveChan (by omega) _

/-- R199: where every fitted position passes, none fails. -/
theorem trainPositions_good {bad : List Nat} {ok : List (Nat × BitVec 2 × Word)} (opt : u.opt = s.opt) (ctrl : u.mem.ctrl = s.mem.ctrl)
    (diag : u.diag = s.diag) (good : ∀ p, p < 80 → lifeFailed s p = false ∧ (getCtrl s p).role ≠ .failed)
    (passed : ∀ p, p < 80 → (posGroup s p).isSome = true → (passedAt bad ok p).isSome = true) :
    Fitted s (trainPositions u bad ok) 0 := by
  have start : Fitted s u 0 ∧ u.diag = s.diag :=
    ⟨⟨opt, fun p hp _ => by rw [getCtrl, ctrl]; exact (good p hp).2, fun m hm => absurd hm (Nat.not_lt_zero m)⟩, diag⟩
  have carried := foldl_range_carries (P := fun _ v => Fitted s v 0 ∧ v.diag = s.diag)
    (f := fun s p =>
      if (posGroup s p).isNone then modCtrl s p fun k => { k with role := .failed, training := false }
      else match (if lifeFailed s p then none else passedAt bad ok p) with
        | some q => modCtrl s p fun k => { k with rate := q.1, eye := q.2, training := false }
        | none => failPos s p) 80 start fun p v hp hv => ?_
  · exact carried.1
  · obtain ⟨serving, same⟩ := hv
    rw [posGroup_congr serving.opt, lifeFailed_congr same, (good p hp).1, if_neg (show ¬(false = true) from nofun)]
    by_cases fitted : (posGroup s p).isSome = true
    · obtain ⟨q, hq⟩ := Option.isSome_iff_exists.mp (passed p hp fitted)
      rw [if_neg (by rw [Option.isNone_iff_eq_none]; exact fun h => by rw [h] at fitted; cases fitted), hq]
      exact ⟨serving.modCtrl p fun k hk => hk, same⟩
    · have none : (posGroup s p).isNone = true := by rw [Option.isNone_iff_eq_none]; simpa using fitted
      rw [if_pos none]
      refine ⟨⟨serving.opt, fun r hr hf => ?_, serving.served⟩, same⟩
      by_cases here : r = p
      · exact absurd (here ▸ hf) fitted
      · rw [getCtrl_modCtrl_other here]
        exact serving.good r hr hf

theorem buildChans_serves {bad : List Nat} {ok : List (Nat × BitVec 2 × Word)} (opt : u.opt = s.opt) (ctrl : u.mem.ctrl = s.mem.ctrl)
    (diag : u.diag = s.diag) (good : ∀ p, p < 80 → lifeFailed s p = false ∧ (getCtrl s p).role ≠ .failed)
    (passed : ∀ p, p < 80 → (posGroup s p).isSome = true → (passedAt bad ok p).isSome = true) :
    Fitted s (buildChans u bad ok) (9 * spareGroups s) := by
  rw [buildChans, spareGroups_congr opt]
  exact foldl_range_carries (P := fun g v => Fitted s v (9 * g)) _ (trainPositions_good opt ctrl diag good passed)
    fun g v hg hv => hv.mapGroup hg _

/-- No slot is retired, and the first `n` logical cores are in service on the first slots of their dies. -/
structure Seated (s u : State) (n : Nat) : Prop where
  opt : u.opt = s.opt
  sound : u.hub.slotRetired = []
  seat : ∀ m, m < n → coreEntry u m = { phys := (firstSlots s (m / 32)).getD (m % 32) 0, status := .inService }

theorem firstSlots_congr {t : State} (h : t.opt = s.opt) (d : Nat) : firstSlots t d = firstSlots s d := by
  rw [firstSlots, h, firstSlots]

theorem Seated.mapDie {d : Nat} (h : Seated s u (32 * d)) (hd : d < 4) : Seated s (mapDie u d) (32 * (d + 1)) := by
  rw [mapDie_eq, firstSlots_congr h.opt]
  refine foldl_range_carries (P := fun j v => Seated s v (32 * d + j)) 32 h fun j v hj hv => ?_
  rw [mapCore, if_pos (by rw [hv.sound]; rfl)]
  refine ⟨hv.opt, hv.sound, fun m hm => ?_⟩
  by_cases same : m = 32 * d + j
  · have place : m / 32 = d ∧ m % 32 = j := by omega
    rw [place.1, place.2, same]
    exact vector_getD_set_same _ (by omega) _ _
  · exact (vector_getD_set_other _ same _ _).trans (hv.seat m (by omega))

theorem mapDie_chanMap (d : Nat) : (mapDie s d).hub.chanMap = s.hub.chanMap := by
  rw [mapDie_eq]
  have kept : ∀ (l : List Nat) (v : State), (l.foldl (mapCore (firstSlots s d) d) v).hub.chanMap = v.hub.chanMap := by
    intro l
    induction l with
    | nil => exact fun v => rfl
    | cons j l ih =>
      intro v
      refine (ih _).trans ?_
      unfold mapCore
      split
      · rfl
      · split <;> rfl
  exact kept _ s

theorem mapDies_chanMap (l : List Nat) (s : State) : (l.foldl mapDie s).hub.chanMap = s.hub.chanMap := by
  induction l generalizing s with
  | nil => rfl
  | cons d l ih => rw [List.foldl_cons, ih, mapDie_chanMap]

/-- R20, R199, R200: where nothing has failed, every channel and every logical core is in service. -/
theorem mapped_serves {bad : List Nat} {ok : List (Nat × BitVec 2 × Word)} (sound : s.hub.slotRetired = [])
    (good : ∀ p, p < 80 → lifeFailed s p = false ∧ (getCtrl s p).role ≠ .failed)
    (passed : ∀ p, p < 80 → (posGroup s p).isSome = true → (passedAt bad ok p).isSome = true) :
    (∀ n, n < chanCount s → ((mapped bad ok s).hub.chanMap.getD n { ctrl := 0, status := .unmapped }).status = .inService) ∧
    ∀ n, n < 128 → coreEntry (mapped bad ok s) n = { phys := (firstSlots s (n / 32)).getD (n % 32) 0, status := .inService } := by
  have config : BootKept s (bootConfig s) := bootKept_bootConfig
  obtain ⟨ctrl, diag⟩ := bootConfig_ctrl s
  obtain ⟨w, hw⟩ : ∃ w, w = buildChans (bootConfig s) bad ok := ⟨_, rfl⟩
  have serving : Fitted s w (9 * spareGroups s) := by
    rw [hw]; exact buildChans_serves config.opt ctrl diag good passed
  have kept : BootKept s w := by rw [hw]; exact config.trans (bootKept_buildChans bad ok)
  have seats : Seated s ((List.range 4).foldl mapDie w) (32 * 4) :=
    foldl_range_carries (P := fun d v => Seated s v (32 * d)) 4
      ⟨kept.opt, (congrArg (·.slotRetired) kept.hub).trans sound, fun m hm => absurd hm (Nat.not_lt_zero m)⟩
      fun d v hd hv => hv.mapDie hd
  rw [mapped, ← hw]
  have moved : ∀ v : State, (coreChange v fun h => h).hub.chanMap = v.hub.chanMap ∧ ∀ n, coreEntry (coreChange v fun h => h) n = coreEntry v n :=
    fun v => ⟨rfl, fun n => rfl⟩
  refine ⟨fun n hn => ?_, fun n hn => ((moved _).2 n).trans (seats.seat n (by omega))⟩
  have count : chanCount s = 9 * spareGroups s := by unfold chanCount spareGroups; split <;> rfl
  rw [(moved _).1, mapDies_chanMap]
  exact serving.served n (by omega)

end

/-! ### STANDBY and FENCED (R349, R441) -/

section
variable {s u : State}

/-- Without a request that waited, nothing is taken up. -/
theorem serveDeferred_none (h : s.mail.deferred = []) : serveDeferred s = s := by
  have mail : ({ s.mail with deferred := [] } : Mail) = s.mail := by rw [← h]
  rw [serveDeferred, h]
  show { s with mail := { s.mail with deferred := [] } } = s
  rw [mail]

/-- A module that is up, with nothing to keep it from STANDBY. -/
structure Idle (s : State) : Prop where
  fenced : s.hub.fenced = false
  belfry : s.hub.belfryDown = false
  dies : s.hub.diesDown = 0
  updating : s.hub.updating = false
  draining : s.hub.draining = false
  low : s.hub.low = false
  started : s.hub.started = false

theorem devNow_standby (h : s.hub.dev = .standby) : devNow s = .standby ↔ Idle s := by
  constructor
  · intro shown
    rw [devNow, h] at shown
    dsimp only at shown
    split_ifs at shown with fenced down updating draining low started
    simp only [Bool.or_eq_true, bne_iff_ne, ne_eq, not_or, Bool.not_eq_true, Decidable.not_not] at down
    exact ⟨by simpa using fenced, down.1, down.2, by simpa using updating, by simpa using draining, by simpa using low,
      by simpa using started⟩
  · intro ⟨fenced, belfry, dies, updating, draining, low, started⟩
    rw [devNow, h]
    simp [fenced, belfry, dies, updating, draining, low, started]

theorem settle_standby (h : u.hub.dev = .standby) (idle : Idle u) : (settle u).hub.dev = .standby := by
  obtain ⟨v, shown, dev, fenced, belfry, dies, low, started, updating, draining⟩ := settle_dev u
  rw [shown, devNow_standby (dev.trans h)]
  refine ⟨fenced.trans idle.fenced, belfry.trans idle.belfry, dies.trans idle.dies, ?_, ?_, low.trans idle.low,
    started.trans idle.started⟩
  · exact Bool.eq_false_iff.mpr fun h => absurd (updating h) (by rw [idle.updating]; exact nofun)
  · exact Bool.eq_false_iff.mpr fun h => absurd (draining h) (by rw [idle.draining]; exact nofun)

theorem settle_fenced (h : u.hub.dev = .fenced) (fenced : u.hub.fenced = true) : (settle u).hub.dev = .fenced := by
  obtain ⟨v, shown, dev, same, -⟩ := settle_dev u
  rw [shown, devNow, dev, h]
  exact if_pos (same.trans fenced)

/-- R349, R456: the module is up. -/
theorem bootStandby_up (h : u.mail.deferred = []) : (bootStandby u).mem = u.mem ∧ (bootStandby u).hub = { u.hub with dev := .standby } := by
  have told := settled_postNotice (modHub u fun h => { h with dev := .standby }) 0x000B none [1, 2]
  have hub := postNotice_hub (modHub u fun h => { h with dev := .standby }) 0x000B none [1, 2]
  obtain ⟨v, hv⟩ : ∃ v, v = postNotice (modHub u fun h => { h with dev := .standby }) 0x000B none [1, 2] := ⟨_, rfl⟩
  rw [← hv] at told hub
  have waits : v.mail.deferred = [] := told.mail.deferred.trans h
  rw [bootStandby, ← hv]
  dsimp only
  split
  · rw [serveDeferred_none waits]
    exact ⟨told.out.mem, hub⟩
  · rw [serveDeferred_none (s := postOperator v 0x0104 []) waits]
    exact ⟨told.out.mem, hub⟩

/-- The contexts that a fence of the device meets. -/
def fenceOpened (s : State) (c : Nat) : State := if (getCtx s c).st = .opened then startFence s c none else s

theorem enterFenced_booting (unfenced : u.hub.fenced = false) (booting : u.hub.dev = .booting) : enterFenced u = takeDump (writeLife
    ((List.range 64).foldl fenceOpened (postNotice (modHub (leaveLow u) fun h => { h with fenced := true, dev := .fenced }) 0x000B none
      [1, 6]))) 2 := by
  rw [enterFenced, if_neg (by rw [unfenced]; exact nofun), booting]
  rfl

theorem fenceOpened_none (closed : ∀ c, c < 64 → (getCtx s c).st = .closed) : (List.range 64).foldl fenceOpened s = s := by
  refine foldl_range_carries (P := fun _ v => v = s) 64 rfl fun c v hc hv => ?_
  rw [hv, fenceOpened, if_neg (by rw [closed c hc]; exact nofun)]

theorem leaveLow_keeps (s : State) : (leaveLow s).mem.cells = s.mem.cells ∧ (leaveLow s).ctxs = s.ctxs ∧ (leaveLow s).mail = s.mail ∧
    (leaveLow s).hub.bootRom = s.hub.bootRom := by
  unfold leaveLow
  split <;> exact ⟨rfl, rfl, rfl, rfl⟩

theorem takeDump_keeps (s : State) (why : Nat) : (takeDump s why).mem = s.mem ∧ (takeDump s why).hub = s.hub ∧
    (takeDump s why).mail = s.mail := by
  unfold takeDump
  split <;> exact ⟨rfl, rfl, rfl⟩

/-- R349, R441: what keeps the device from STANDBY sends it to FENCED. -/
theorem bootFenced_fences (unfenced : u.hub.fenced = false) (booting : u.hub.dev = .booting) (waits : u.mail.deferred = [])
    (closed : ∀ c, c < 64 → (getCtx u c).st = .closed) (ok : Bool) : ∃ t, done (bootFenced u ok) = .next t ∧ t.hub.dev = .fenced ∧
      t.hub.fenced = true ∧ t.hub.bootRom = !ok ∧ t.mem.cells = u.mem.cells := by
  obtain ⟨cells, ctxs, mail, rom⟩ := leaveLow_keeps (modHub u fun h => { h with bootRom := !ok })
  obtain ⟨w, hw⟩ : ∃ w, w = leaveLow (modHub u fun h => { h with bootRom := !ok }) := ⟨_, rfl⟩
  rw [← hw] at cells ctxs mail rom
  have told := settled_postNotice (modHub w fun h => { h with fenced := true, dev := .fenced }) 0x000B none [1, 6]
  have hub := postNotice_hub (modHub w fun h => { h with fenced := true, dev := .fenced }) 0x000B none [1, 6]
  have fence := enterFenced_booting (u := modHub u fun h => { h with bootRom := !ok }) unfenced booting
  obtain ⟨v, hv⟩ : ∃ v, v = postNotice (modHub w fun h => { h with fenced := true, dev := .fenced }) 0x000B none [1, 6] := ⟨_, rfl⟩
  rw [← hv] at told hub
  have shut : ∀ c, c < 64 → (getCtx v c).st = .closed := fun c hc =>
    (congrArg Context.st (getCtx_congr (s := u) (told.out.ctxs.trans ctxs) c)).trans (closed c hc)
  rw [← hw, ← hv, fenceOpened_none shut] at fence
  obtain ⟨mem, kept, post⟩ := takeDump_keeps (writeLife v) 2
  have up : bootFenced u ok = takeDump (writeLife v) 2 := by
    rw [bootFenced, fence, serveDeferred_none]
    rw [post]
    exact told.mail.deferred.trans ((congrArg Mail.deferred mail).trans waits)
  have out := settle_settled (takeDump (writeLife v) 2)
  have shown : (takeDump (writeLife v) 2).hub = { w.hub with fenced := true, dev := .fenced } := kept.trans hub
  refine ⟨_, (congrArg done up).trans (done_next _), settle_fenced (congrArg (·.dev) shown) (congrArg (·.fenced) shown),
    out.hub.fenced.trans (congrArg (·.fenced) shown), out.hub.bootRom.trans ((congrArg (·.bootRom) shown).trans rom), ?_⟩
  rw [settle_mem, mem]
  exact (congrArg Mem.cells told.out.mem).trans cells

/-! ### The end of BOOTING -/

theorem bootComplete_atRest (rest : AtRest u) (h : u.hub.dev ≠ .booting) (b k : Bool) (bad : List Pos)
    (ok : List (Pos × BitVec 2 × Word)) : exec (.bootComplete b k bad ok) u = .next u :=
  (congrArg done (if_pos h)).trans (done_atRest rest)

section
variable (booting : s.hub.dev = .booting) (waits : s.mail.deferred = []) (unfenced : s.hub.fenced = false)
  (closed : ∀ c, c < 64 → (getCtx s c).st = .closed) (bad : List Pos) (ok : List (Pos × BitVec 2 × Word))

include booting in
theorem bootComplete_mapped (factory : s.mail.copyA.factoryOk = true ∨ s.mail.copyB.factoryOk = true) (hubOk : Bool) :
    exec (.bootComplete true hubOk bad ok) s = done (
      if hubOk then bootStandby (mapped (bad.map (·.val)) (ok.map fun q => (q.1.val, q.2.1, q.2.2)) s)
      else bootFenced (mapped (bad.map (·.val)) (ok.map fun q => (q.1.val, q.2.1, q.2.2)) s) true) := by
  refine congrArg done ((if_neg (by rw [booting]; exact fun h => h rfl)).trans ((if_neg nofun).trans (if_neg ?_)))
  obtain h | h := factory <;> rw [h] <;> simp

include booting waits unfenced closed in
theorem bootComplete_noImage (hubOk : Bool) : ∃ t, exec (.bootComplete false hubOk bad ok) s = .next t ∧ t.hub.dev = .fenced ∧
    t.hub.fenced = true ∧ t.hub.bootRom = true ∧ t.mem.cells = s.mem.cells := by
  obtain ⟨t, ht, rest⟩ := bootFenced_fences unfenced booting waits closed false
  refine ⟨t, Eq.trans (congrArg done ?_) ht, rest⟩
  exact (if_neg (by rw [booting]; exact fun h => h rfl)).trans (if_pos rfl)

include booting waits unfenced closed in
theorem bootComplete_noFactory (a : s.mail.copyA.factoryOk = false) (b : s.mail.copyB.factoryOk = false) (hubOk : Bool) :
    ∃ t, exec (.bootComplete true hubOk bad ok) s = .next t ∧ t.hub.dev = .fenced ∧ t.hub.fenced = true ∧ t.hub.bootRom = false ∧
      t.mem.cells = s.mem.cells := by
  have told := settled_postNotice s 0x000D none (cfgFaultBody 0xFF 0 5 0xFFFF)
  have hub := postNotice_hub s 0x000D none (cfgFaultBody 0xFF 0 5 0xFFFF)
  obtain ⟨t, ht, dev, fenced, rom, cells⟩ := bootFenced_fences (by rw [hub]; exact unfenced) (by rw [hub]; exact booting)
    (told.mail.deferred.trans waits) (fun c hc => by rw [getCtx_congr told.out.ctxs]; exact closed c hc) true
  refine ⟨t, Eq.trans (congrArg done ?_) ht, dev, fenced, rom, cells.trans (congrArg Mem.cells told.out.mem)⟩
  exact (if_neg (by rw [booting]; exact fun h => h rfl)).trans ((if_neg nofun).trans (if_pos (by rw [a, b]; rfl)))

include booting waits in
theorem bootComplete_standby (factory : s.mail.copyA.factoryOk = true ∨ s.mail.copyB.factoryOk = true) (sound : s.hub.slotRetired = [])
    (good : ∀ p, p < 80 → lifeFailed s p = false ∧ (getCtrl s p).role ≠ .failed)
    (passed : ∀ p, p < 80 → (posGroup s p).isSome = true →
      (passedAt (bad.map (·.val)) (ok.map fun q => (q.1.val, q.2.1, q.2.2)) p).isSome = true)
    (idle : devNow { s with hub := { s.hub with dev := .standby } } = .standby) :
    ∃ t, exec (.bootComplete true true bad ok) s = .next t ∧ t.hub.dev = .standby ∧ t.mem.cells = s.mem.cells ∧
      (∀ n, n < 128 → coreEntry t n = { phys := (firstSlots s (n / 32)).getD (n % 32) 0, status := .inService }) ∧
      ∀ n, n < chanCount s → (t.hub.chanMap.getD n { ctrl := 0, status := .unmapped }).status = .inService := by
  obtain ⟨chans, cores⟩ := mapped_serves sound good passed
  have kept : BootKept s (mapped (bad.map (·.val)) (ok.map fun q => (q.1.val, q.2.1, q.2.2)) s) := bootKept_mapped _ _
  have boot := bootComplete_mapped booting bad ok factory true
  obtain ⟨w, hw⟩ : ∃ w, w = mapped (bad.map (·.val)) (ok.map fun q => (q.1.val, q.2.1, q.2.2)) s := ⟨_, rfl⟩
  rw [← hw] at chans cores kept boot
  obtain ⟨mem, hub⟩ := bootStandby_up (kept.deferred.trans waits)
  obtain ⟨fenced, belfry, dies, updating, draining, low, started⟩ := (devNow_standby rfl).mp idle
  have same : ∀ {α : Type} (g : Hub → α), g (bootStandby w).hub = g { w.hub with dev := .standby } := fun g => congrArg g hub
  have before : ∀ {α : Type} (g : Hub → α), g w.hub = g _ := fun g => congrArg g kept.hub
  have still : Idle (bootStandby w) := ⟨(same (·.fenced)).trans ((before (·.fenced)).trans fenced),
    (same (·.belfryDown)).trans ((before (·.belfryDown)).trans belfry), (same (·.diesDown)).trans ((before (·.diesDown)).trans dies),
    (same (·.updating)).trans ((before (·.updating)).trans updating), (same (·.draining)).trans ((before (·.draining)).trans draining),
    (same (·.low)).trans ((before (·.low)).trans low), (same (·.started)).trans ((before (·.started)).trans started)⟩
  have out := settle_settled (bootStandby w)
  refine ⟨_, boot.trans (done_next _), settle_standby (same (·.dev)) still, ?_, fun n hn => ?_, fun n hn => ?_⟩
  · rw [if_pos rfl, settle_mem, mem, kept.cells]
  · rw [if_pos rfl, coreEntry, out.hub.coreMap.trans (same (·.coreMap))]
    exact cores n hn
  · rw [if_pos rfl, out.hub.chanMap.trans (same (·.chanMap))]
    exact chans n hn

include booting waits unfenced closed in
theorem bootComplete_badHub (factory : s.mail.copyA.factoryOk = true ∨ s.mail.copyB.factoryOk = true) :
    ∃ t, exec (.bootComplete true false bad ok) s = .next t ∧ t.hub.dev = .fenced ∧ t.hub.fenced = true ∧ t.hub.bootRom = false ∧
      t.mem.cells = s.mem.cells := by
  have kept : BootKept s (mapped (bad.map (·.val)) (ok.map fun q => (q.1.val, q.2.1, q.2.2)) s) := bootKept_mapped _ _
  have boot := bootComplete_mapped booting bad ok factory false
  obtain ⟨w, hw⟩ : ∃ w, w = mapped (bad.map (·.val)) (ok.map fun q => (q.1.val, q.2.1, q.2.2)) s := ⟨_, rfl⟩
  rw [← hw] at kept boot
  obtain ⟨t, ht, dev, fenced, rom, cells⟩ := bootFenced_fences ((congrArg (·.fenced) kept.hub).trans unfenced)
    ((congrArg (·.dev) kept.hub).trans booting) (kept.deferred.trans waits)
    (fun c hc => by rw [getCtx_congr kept.ctxs]; exact closed c hc) true
  exact ⟨t, (boot.trans (congrArg done (if_neg nofun))).trans ht, dev, fenced, rom, cells.trans kept.cells⟩

end

end

/-- Settles O50: by what each pin and rail does to the module, and by what BOOTING ends in. -/
theorem pinsAndBootReset : Obligations.PinsAndBootReset := by
  refine ⟨fun s => ⟨fun up die => thermtrip_up up die, fun up => pwrEn_low_up up, leads_done rfl (.refl _), fun up => vin54_low_up up,
    leads_done rfl (.refl _), v12Sb_lost s, leads_done rfl (.refl _),
    fun off => ⟨fun die => thermtrip_down off die, pwrEn_low_down off, vin54_low_down off⟩,
    fun en vin sb trip off cold => ⟨fun released => pgOut_boots en vin sb trip off cold released,
      fun held => pgOut_held en vin sb trip off held⟩,
    fun rest off => pgOut_off rest off,
    fun q f en trip => ⟨fun up released => perst_resets q f en trip up released, fun up held cold => perst_boots q f en trip up held cold,
      fun off released => perst_asserted_off q f en trip off released, fun off held => perst_released_off q f en trip off held⟩,
    fun l q f h => perst_shows l q f h⟩,
    fun s booting waits unfenced closed => ⟨fun bad ok sound good passed factory =>
        ⟨fun idle => bootComplete_standby booting waits bad ok factory sound good passed idle,
          bootComplete_badHub booting waits unfenced closed bad ok factory⟩,
      fun hubOk bad ok => bootComplete_noImage booting waits unfenced closed bad ok hubOk,
      fun a b hubOk bad ok => bootComplete_noFactory booting waits unfenced closed bad ok a b hubOk⟩,
    fun u b h rest dev bad ok => bootComplete_atRest rest dev b h bad ok⟩

end Sys2Proof.Machine
end

section
-- One proof after the other: a text of this length has more proofs waiting at once than the check has threads for.
set_option Elab.async false
/-! PROOFS. A core that has not drained, where the map of logical cores lists another core twice (R25, R378, R383). -/

namespace Sys2Proof.Machine

/-- A COPY between places of the module, with one request out. -/
def outJob : CopyJob :=
  { iss := { id := 7, slot := 0, pc := 0, desc := 0 }, next := 1, total := 1, out := [0], wr := [], miss := none, got := [], acks := 0
    psigSent := false, failed := none, src := 0, dst := 0, held := [] }

/-- The core that a fence of context 0 waits for. -/
def undrainedCore : PCore := { PCore.reset with ctx := some 0, copies := [outJob] }

/-- Core 0 in service on slot 0, with work of context 0 that the fence awaits. Core 5 is listed twice: the entry that lookups find reruns
on slot 1, the other one on slot 0. When slot 0 is reset, the guest of the second entry is taken off it into the first (R378), and
slot 1 is free. -/
def overrunTwice : State :=
  { State.reset with
    hub := { State.reset.hub with coreMap := State.reset.hub.coreMap.set 0 { phys := 0, status := .inService } }
    ctxs := State.reset.ctxs.set 0 { Context.reset with st := .fencing }
    slots := [(0, undrainedCore)]
    lcores := [(5, { LCore.reset with replay := LCore.reset.replay.set 0 (some { guestReplay with other := some 1 }) }),
      (5, { LCore.reset with replay := LCore.reset.replay.set 0 (some guestReplay) })] }

/-- Where core 0 stands after a step. -/
def placeAfter (o : Host.Outcome State Fault Refusal) : Option CoreEntry :=
  match o with
  | .next t => some (coreEntry t (0 : Core).val)
  | _ => none

/-- Slot 2 is the first free spare before the reset. -/
theorem overrunTwice_spare : (freeSpares overrunTwice ((0 : Core).val / 32)).head? = some 2 := by decide +kernel

/-- The core moves to slot 1. -/
theorem overrunTwice_moves : placeAfter (exec (.drainOverrun (some 0) none 0) overrunTwice) = some { phys := 1, status := .inService } := by
  decide +kernel

/-- Refutes O47: where the map of logical cores lists a core twice, a core that has not drained moves to a slot that becomes free with
its reset. -/
theorem not_belfryAndDiesComeBack : ¬ Obligations.BelfryAndDiesComeBack := by
  intro h
  obtain ⟨overruns, -⟩ := h.2.2.2 overrunTwice
  obtain ⟨moves, -⟩ := overruns 0 0 0 (by decide +kernel) (by decide +kernel) (by decide +kernel) (by decide +kernel) (by decide +kernel)
  obtain ⟨t, run, place, -⟩ := moves 2 overrunTwice_spare
  have moved := overrunTwice_moves
  rw [run, placeAfter, place] at moved
  exact absurd moved (by decide)

end Sys2Proof.Machine
end

section
-- One proof after the other: a text of this length has more proofs waiting at once than the check has threads for.
set_option Elab.async false
/-! PROOFS. A descriptor issues to its engine: COPY, MMA and MV (R171, R186, R187). -/
namespace Sys2Proof.Machine

/-! ### The core once a descriptor has issued (R171) -/

/-- R171: the core once a descriptor has issued to its engine, before the engine has it. -/
def issuedCore (s : State) (n i : Nat) (d : BitVec 256) : PCore :=
  setStream { turnedCore s n i d with nextId := (turnedCore s n i d).nextId + 1 } i
    (gotoPc { getStream (turnedCore s n i d) i with
      inflight := (getStream (turnedCore s n i d) i).inflight ++ [(turnedCore s n i d).nextId] }
      ((getStream (turnedCore s n i d) i).pc + 32))

section
variable {s t w : State} {n i op : Nat} {d : BitVec 256} {e : PCore} {q : Instr} {l : List Part}

theorem turnedCore_nextId (s : State) (n i : Nat) (d : BitVec 256) : (turnedCore s n i d).nextId = (getC s n).nextId := by
  obtain ⟨x, y, z, eq⟩ := turnedCore_eq s n i d
  rw [eq]

theorem issueTo_core (l : List Part) (fresh : (getStream (getC s n) i).due = false) (hi : i < 16)
    (hl : Part.hub ∉ Part.slots :: l := by decide) :
    CoreTo l n s (issueTo s n i d).1 (issuedCore s n i d) ∧ (issueTo s n i d).2 = issuedAs s n i d := by
  have turn := takeTurn_core l s n i
  have still : finishLaunch (takeTurn s n i) n i = takeTurn s n i := finishLaunch_fresh (by
    rw [turn.own, getStream_passTurn_same hi]
    exact fresh)
  have begun : issueTo s n i d = (setC (turned s n i d) n (issuedCore s n i d),
      { id := (turnedCore s n i d).nextId, slot := i, pc := (getStream (turnedCore s n i d) i).pc, desc := d }) := by
    rw [issueTo, still, ← turned]
    dsimp only
    rw [turned_own]
    rfl
  have moved : CoreTo l n s (setC (turned s n i d) n (issuedCore s n i d)) (issuedCore s n i d) :=
    (turned_core l s n i d hl).modC (fun _ => issuedCore s n i d) hl
  refine ⟨?_, ?_⟩
  · rw [begun]
    exact moved
  · rw [begun, issuedAs, turnedCore_nextId, getStream_turnedCore hi]

theorem getStream_issuedCore (hi : i < 16) (s : State) (n : Nat) (d : BitVec 256) : getStream (issuedCore s n i d) i =
    gotoPc { getStream (getC s n) i with
      passed := 0, turn := some (getC s n).turns, inflight := (getStream (getC s n) i).inflight ++ [(getC s n).nextId] }
      ((getStream (getC s n) i).pc + 32) := by
  rw [issuedCore, getStream_setStream_same _ hi, turnedCore_nextId, getStream_turnedCore hi]

theorem getStream_issuedCore_other {k : Nat} (hi : i < 16) (hk : k ≠ i) (s : State) (n : Nat) (d : BitVec 256) :
    SameButTurns (getStream (issuedCore s n i d) k) (getStream (getC s n) k) := by
  rw [issuedCore, getStream_setStream_other _ hk]
  exact (attends_turnedCore hi s n d).others k hk

theorem issuedCore_eq (s : State) (n i : Nat) (d : BitVec 256) : ∃ y z, issuedCore s n i d =
    { getC s n with sems := (headed (getC s n) d).sems, turns := y, streams := z, nextId := (getC s n).nextId + 1 } := by
  have sems := turnedCore_sems s n i d
  obtain ⟨x, y, z, eq⟩ := turnedCore_eq s n i d
  rw [issuedCore, ← sems, eq]
  exact ⟨_, _, rfl⟩

/-- What the engine that takes a descriptor leaves of the core that issues it. -/
structure Taken (i : Nat) (c e : PCore) : Prop where
  pc     : (getStream e i).pc = (getStream c i).pc
  st     : (getStream e i).st = (getStream c i).st
  flight : (getStream e i).inflight = (getStream c i).inflight
  free   : (getStream e i).blocked = (getStream c i).blocked
  others : ∀ k, k ≠ i → getStream e k = getStream c k
  next   : e.nextId = c.nextId
  sems   : e.sems = c.sems
  data   : e.stage = c.stage ∧ e.cache = c.cache

theorem Taken.of_streams {c : PCore} (hs : e.streams = c.streams) (next : e.nextId = c.nextId) (sems : e.sems = c.sems)
    (data : e.stage = c.stage ∧ e.cache = c.cache) : Taken i c e := by
  have same : ∀ k, getStream e k = getStream c k := fun k => congrArg (Vector.getD · k Stream.reset) hs
  exact ⟨by rw [same], by rw [same], by rw [same], by rw [same], fun k _ => same k, next, sems, data⟩

/-- A descriptor that an engine has taken has issued. -/
theorem issues_of_taken (h : issuable s n i op = some d) (out : CoreTo l n s w e) (taken : Taken i (issuedCore s n i d) e)
    (hl : Part.cells ∉ Part.slots :: l ∧ Part.ctxs ∉ Part.slots :: l := by decide) : Issues s w n i d := by
  have lt := issuable_lt h
  have own := getStream_issuedCore lt s n d
  obtain ⟨y, z, eq⟩ := issuedCore_eq s n i d
  refine ⟨?_, ?_, ?_, ?_, fun k => ?_, fun k hk => ?_, ?_, out.others, out.frame .cells hl.1, out.frame .ctxs hl.2⟩
  · rw [out.own, taken.pc, own]
    rfl
  · rw [out.own, taken.st, own]
    exact issuable_runs h
  · rw [out.own, taken.flight, own]
    rfl
  · rw [out.own, taken.next, eq]
  · rw [out.own]
    refine semGet_congr ?_ k
    rw [taken.sems, eq]
    rfl
  · rw [out.own, taken.others k hk]
    exact getStream_issuedCore_other lt hk s n d
  · rw [out.own, taken.data.1, taken.data.2, eq]
    exact ⟨rfl, rfl⟩

theorem noneBlocked_of_taken (h : issuable s n i op = some d) (none_ : NoneBlocked s n) (out : CoreTo l n s w e)
    (taken : Taken i (issuedCore s n i d) e) : NoneBlocked w n := fun k => by
  have lt := issuable_lt h
  rw [out.own]
  by_cases hk : k = i
  · rw [hk, taken.free, getStream_issuedCore lt]
    exact none_ i
  · obtain ⟨m, hm⟩ := getStream_issuedCore_other lt hk s n d
    rw [taken.others k hk, hm]
    exact none_ k

theorem Issues.of_settled (h : Issues s w n i d) (k : Settled w t) : Issues s t n i d := by
  obtain ⟨h1, h2, h3, h4, h5, h6, h7, h8, h9, h10⟩ := h
  rw [← getC_settled k n] at h1 h2 h3 h4 h5 h6 h7
  exact ⟨h1, h2, h3, h4, h5, h6, h7, fun p hp => (getP_settled k p).trans (h8 p hp), (congrArg Mem.cells k.out.mem).trans h9,
    k.out.ctxs.trans h10⟩

/-- R171: how a step ends in which a descriptor issues to its engine. -/
theorem issue_ends (h : issuable s n i op = some d) (none_ : NoneBlocked s n) (run : exec q s = done (wakeCore w n))
    (out : CoreTo l n s w e) (taken : Taken i (issuedCore s n i d) e)
    (hl : Part.cells ∉ Part.slots :: l ∧ Part.ctxs ∉ Part.slots :: l := by decide) :
    ∃ t, exec q s = .next t ∧ Issues s t n i d ∧ getC t n = e := by
  have k := settle_settled w
  rw [wakeCore_none (noneBlocked_of_taken h none_ out taken)] at run
  exact ⟨_, run, (issues_of_taken h out taken hl).of_settled k, (getC_settled k n).trans out.own⟩

end

/-! ### COPY (R186, R187, R189) -/

section
variable {s : State} {c : Core} {i : SlotNo} {d : BitVec 256} {p : PCore} {u : Stream}

/-- R186, R189: what the copy engine takes of a COPY. -/
def copyJob (s : State) (n i : Nat) (d : BitVec 256) : CopyJob :=
  { iss := issuedAs s n i d, next := 0, total := totalReqs (copyOf d) (copyBases (getStream (getC s n) i) (copyOf d)).2, out := []
    wr := [], miss := none, got := [], acks := 0, psigSent := false, failed := none
    src := (copyBases (getStream (getC s n) i) (copyOf d)).1, dst := (copyBases (getStream (getC s n) i) (copyOf d)).2
    held := heldFor (getStream (getC s n) i) (issuedAs s n i d).pc (copyBases (getStream (getC s n) i) (copyOf d)) }

theorem issueCopy_takes {n i : Nat} (h : issuable s n i opCopy = some d) (legal : copyMalformed (getStream (getC s n) i) d = none)
    (named : (issueTo s n i d).2 = issuedAs s n i d) : issueCopy s n i = modC (issueTo s n i d).1 n fun k =>
      modStream { k with copies := k.copies ++ [copyJob s n i d] } i
        fun t => { t with ahead := t.ahead.filter fun r => r.pc != (issuedAs s n i d).pc } := by
  unfold issueCopy
  rw [h]
  dsimp only
  rw [legal, named]
  rfl

theorem copy_issues (hp : p = getC s c.val) (hu : u = getStream p i.val) (h : issuable s c.val i.val opCopy = some d)
    (fresh : u.due = false) (none_ : NoneBlocked s c.val) {b : BitVec 48 × BitVec 48} (hb : b = copyBases u (copyOf d))
    (legal : copyMalformed u d = none) : ∃ t, exec (.copy c i) s = .next t ∧ Issues s t c.val i.val d ∧
      (getStream (getC t c.val) i.val).ahead = u.ahead.filter (fun r => r.pc != u.pc) ∧ (getC t c.val).banks = p.banks ∧
      (getC t c.val).copies = p.copies ++ [{
        iss := issuedAs s c.val i.val d, next := 0, total := totalReqs (copyOf d) b.2, out := [], wr := [], miss := none, got := []
        acks := 0, psigSent := false, failed := none, src := b.1, dst := b.2, held := heldFor u u.pc b }] := by
  subst hp hu hb
  have lt := issuable_lt h
  obtain ⟨issued, named⟩ := issueTo_core [] (d := d) fresh lt
  have run : exec (.copy c i) s = done (wakeCore (issueCopy s c.val i.val) c.val) := rfl
  rw [issueCopy_takes h legal named] at run
  have out := issued.modC fun k => modStream { k with copies := k.copies ++ [copyJob s c.val i.val d] } i.val
    fun t => { t with ahead := t.ahead.filter fun r => r.pc != (issuedAs s c.val i.val d).pc }
  have own := getStream_modStream_same { issuedCore s c.val i.val d with copies := (issuedCore s c.val i.val d).copies ++ [copyJob s c.val i.val d] } lt
    fun t => { t with ahead := t.ahead.filter fun r => r.pc != (issuedAs s c.val i.val d).pc }
  have here : getStream { issuedCore s c.val i.val d with copies := (issuedCore s c.val i.val d).copies ++ [copyJob s c.val i.val d] } i.val =
    getStream (issuedCore s c.val i.val d) i.val := rfl
  have taken : Taken i.val (issuedCore s c.val i.val d) (modStream
      { issuedCore s c.val i.val d with copies := (issuedCore s c.val i.val d).copies ++ [copyJob s c.val i.val d] } i.val
      fun t => { t with ahead := t.ahead.filter fun r => r.pc != (issuedAs s c.val i.val d).pc }) := by
    refine ⟨?_, ?_, ?_, ?_, fun k hk => ?_, rfl, rfl, rfl, rfl⟩
    · rw [own, here]
    · rw [own, here]
    · rw [own, here]
    · rw [own, here]
    · rw [getStream_modStream_other _ hk]
      rfl
  obtain ⟨t, ht, issues, core⟩ := issue_ends h none_ run out taken
  obtain ⟨y, z, eq⟩ := issuedCore_eq s c.val i.val d
  refine ⟨t, ht, issues, ?_, ?_, ?_⟩
  · rw [core, own, here, getStream_issuedCore lt]
    rfl
  · rw [core, eq]
    rfl
  · rw [core, eq]
    rfl

end

/-! ### MMA and MV (R88, R101, R107, R109, R113) -/

section
variable {s : State} {c : Core} {i : SlotNo} {d : BitVec 256} {p : PCore} {u : Stream}

/-- R101: an MMA that does not add to its bank takes back the release that was issued for it. -/
def startBank (d : BitVec 256) (k : PCore) : PCore :=
  if (mmaOf d).acc then k else setBank k (mmaOf d).bank { getBank k (mmaOf d).bank with relIssued := false }

theorem startBank_eq (d : BitVec 256) (k : PCore) : ∃ b, startBank d k = { k with banks := b } := by
  unfold startBank
  split
  · exact ⟨_, rfl⟩
  · exact ⟨_, rfl⟩

/-- A field of the banks that a change of one of them leaves. -/
theorem getBank_setBank_kept {α : Type} {g : Bank → α} {k : PCore} {x : Nat} {v : Bank} (h : g v = g (getBank k x)) (b : Nat) :
    g (getBank (setBank k x v) b) = g (getBank k b) := by
  unfold getBank setBank at *
  by_cases hb : b = x
  · subst hb
    by_cases hx : b < 2
    · rw [vector_getD_set_same _ hx, h]
    · rw [vector_set_outOfBounds _ (by omega)]
  · rw [vector_getD_set_other _ hb]

theorem startBank_keeps (d : BitVec 256) (k : PCore) (b : Nat) :
    (getBank (startBank d k) b).st = (getBank k b).st ∧ (getBank (startBank d k) b).acc = (getBank k b).acc := by
  unfold startBank
  split
  · exact ⟨rfl, rfl⟩
  · obtain ⟨v, hv⟩ : ∃ v : Bank, v = { getBank k (mmaOf d).bank with relIssued := false } := ⟨_, rfl⟩
    have st : v.st = (getBank k (mmaOf d).bank).st := by rw [hv]
    have acc : v.acc = (getBank k (mmaOf d).bank).acc := by rw [hv]
    rw [← hv]
    exact ⟨getBank_setBank_kept (g := Bank.st) st b, getBank_setBank_kept (g := Bank.acc) acc b⟩

/-- R88: the lane row takes an MMA. -/
def mmaTaken (x : Issued) (k : PCore) : PCore :=
  modStream { startBank x.desc k with
    lr := (startBank x.desc k).lr ++ [{ iss := x, started := false, pass := 0, going := false, parity := 0, draining := false, start := none }] }
    x.slot fun t => { t with lastMma := some x.id }

theorem issueMma_takes {n i : Nat} (h : issuable s n i opMma = some d) (legal : mmaMalformed s n i d = none)
    (named : (issueTo s n i d).2 = issuedAs s n i d) : issueMma s n i = modC (issueTo s n i d).1 n (mmaTaken (issuedAs s n i d)) := by
  unfold issueMma
  rw [h]
  dsimp only
  rw [legal, named]
  rfl

theorem mma_issues (hp : p = getC s c.val) (hu : u = getStream p i.val) (h : issuable s c.val i.val opMma = some d)
    (fresh : u.due = false) (none_ : NoneBlocked s c.val) (legal : mmaMalformed s c.val i.val d = none) :
    ∃ t, exec (.mma c i) s = .next t ∧ Issues s t c.val i.val d ∧ (getC t c.val).copies = p.copies ∧
      (∀ b, (getBank (getC t c.val) b).st = (getBank p b).st ∧ (getBank (getC t c.val) b).acc = (getBank p b).acc) ∧
      (getStream (getC t c.val) i.val).lastMma = some p.nextId ∧
      (getC t c.val).lr = p.lr ++ [{
        iss := issuedAs s c.val i.val d, started := false, pass := 0, going := false, parity := 0, draining := false, start := none }] := by
  subst hp hu
  have lt := issuable_lt h
  obtain ⟨issued, named⟩ := issueTo_core [] (d := d) fresh lt
  have run : exec (.mma c i) s = done (wakeCore (issueMma s c.val i.val) c.val) := rfl
  rw [issueMma_takes h legal named] at run
  have out := issued.modC (mmaTaken (issuedAs s c.val i.val d))
  obtain ⟨y, z, eq⟩ := issuedCore_eq s c.val i.val d
  obtain ⟨k, hk⟩ : ∃ k, k = issuedCore s c.val i.val d := ⟨_, rfl⟩
  obtain ⟨b, hb⟩ := startBank_eq d k
  have own : getStream (mmaTaken (issuedAs s c.val i.val d) k) i.val =
      { getStream k i.val with lastMma := some (getC s c.val).nextId } := by
    refine (getStream_modStream_same _ lt _).trans ?_
    show { getStream (startBank d k) i.val with lastMma := some (getC s c.val).nextId } = _
    rw [hb]
    rfl
  have rest : ∃ x, mmaTaken (issuedAs s c.val i.val d) k = { k with banks := b, streams := x, lr := k.lr ++ [{
      iss := issuedAs s c.val i.val d, started := false, pass := 0, going := false, parity := 0, draining := false, start := none }] } := by
    refine ⟨(mmaTaken (issuedAs s c.val i.val d) k).streams, ?_⟩
    unfold mmaTaken
    rw [show (issuedAs s c.val i.val d).desc = d from rfl, hb]
    rfl
  have banks : (mmaTaken (issuedAs s c.val i.val d) k).banks = (startBank d k).banks := rfl
  have taken : Taken i.val k (mmaTaken (issuedAs s c.val i.val d) k) := by
    obtain ⟨x, hx⟩ := rest
    refine ⟨by rw [own], by rw [own], by rw [own], by rw [own], fun m hm => ?_, by rw [hx], by rw [hx], by rw [hx]; exact ⟨rfl, rfl⟩⟩
    refine (getStream_modStream_other _ hm _).trans ?_
    show getStream (startBank d k) m = _
    rw [hb]
    rfl
  rw [hk] at taken
  obtain ⟨t, ht, issues, core⟩ := issue_ends h none_ run out taken
  rw [← hk] at core
  obtain ⟨x, hx⟩ := rest
  refine ⟨t, ht, issues, ?_, fun m => ?_, ?_, ?_⟩
  · rw [core, hx, hk, eq]
  · have kept := startBank_keeps d k m
    have same : ∀ m, getBank k m = getBank (getC s c.val) m := fun m => by rw [hk, eq]; rfl
    rw [core, ← same m]
    exact kept
  · rw [core, own]
  · rw [core, hx, hk, eq]

theorem issueMv_takes {n i : Nat} (h : issuable s n i opMv = some d) (legal : mvBad d = none)
    (named : (issueTo s n i d).2 = issuedAs s n i d) :
    issueMv s n i = modC (issueTo s n i d).1 n fun k => { k with mv := k.mv ++ [issuedAs s n i d] } := by
  unfold issueMv
  rw [h]
  dsimp only
  rw [legal, named]

theorem mv_issues (hp : p = getC s c.val) (hu : u = getStream p i.val) (h : issuable s c.val i.val opMv = some d)
    (fresh : u.due = false) (none_ : NoneBlocked s c.val) (legal : mvBad d = none) :
    ∃ t, exec (.mv c i) s = .next t ∧ Issues s t c.val i.val d ∧ (getC t c.val).lr = p.lr ∧ (getC t c.val).banks = p.banks ∧
      (getC t c.val).mv = p.mv ++ [issuedAs s c.val i.val d] := by
  subst hp hu
  have lt := issuable_lt h
  obtain ⟨issued, named⟩ := issueTo_core [] (d := d) fresh lt
  have run : exec (.mv c i) s = done (wakeCore (issueMv s c.val i.val) c.val) := rfl
  rw [issueMv_takes h legal named] at run
  obtain ⟨t, ht, issues, core⟩ := issue_ends h none_ run (issued.modC fun k => { k with mv := k.mv ++ [issuedAs s c.val i.val d] })
    (.of_streams rfl rfl rfl ⟨rfl, rfl⟩)
  obtain ⟨y, z, eq⟩ := issuedCore_eq s c.val i.val d
  refine ⟨t, ht, issues, ?_, ?_, ?_⟩
  · rw [core, eq]
  · rw [core, eq]
  · rw [core, eq]

end
end Sys2Proof.Machine
end

section
-- One proof after the other: a text of this length has more proofs waiting at once than the check has threads for.
set_option Elab.async false
/-! PROOFS. A VEC issues to a thread, and its first group asks for the blocks that it needs (R126, R141, R146, R150, R158, R161). -/
namespace Sys2Proof.Machine

/-! ### Requests of the vector engine -/

/-- What asking for blocks leaves of a core: what it has asked for, and what it has counted and looked up for it. -/
def asked (c : PCore) (gq : List (Nat × Nat)) (g : List GatherReq) (k : CoreCounters) (x : List Nat) : PCore :=
  { c with gatherQ := gq, gather := g, cnt := k, xlat := x }

/-- Between two states core `n` has at most asked for blocks. -/
def Pumps (n : Nat) (s t : State) : Prop := ∃ gq g k x, CoreTo [.mem, .outbox] n s t (asked (getC s n) gq g k x)

section
variable {s t u v : State} {n a k : Nat} {j : VecJob}

theorem Pumps.refl (n : Nat) (s : State) : Pumps n s s := ⟨_, _, _, _, .refl _ n s⟩

theorem Pumps.trans (h : Pumps n s t) (h' : Pumps n t u) : Pumps n s u := by
  obtain ⟨gq, g, k, x, first⟩ := h
  obtain ⟨gq', g', k', x', second⟩ := h'
  rw [first.own] at second
  exact ⟨gq', g', k', x', first.trans second⟩

theorem pumps_modC {f : PCore → PCore} (h : ∀ c, ∃ gq g k x, f c = asked c gq g k x) : Pumps n s (modC s n f) := by
  obtain ⟨gq, g, k, x, eq⟩ := h (getC s n)
  refine ⟨gq, g, k, x, ?_⟩
  rw [← eq]
  exact coreTo_modC _ s n f

theorem Pumps.then (h : Pumps n s t) {l : List Part} (k : AllBut l t u) (hl : ∀ p ∈ l, p ∈ [Part.mem, .outbox] := by decide) :
    Pumps n s u := by
  obtain ⟨gq, g, c, x, first⟩ := h
  exact ⟨gq, g, c, x, first.then (k.mono hl)⟩

theorem pumps_useXlat (s : State) (n ctx : Nat) (va : BitVec 48) : Pumps n s (useXlat s n ctx va) := by
  obtain ⟨x, m, core⟩ := useXlat_core s n ctx va
  exact ⟨(getC s n).gatherQ, (getC s n).gather, { (getC s n).cnt with xlatMiss := m }, x, core.mono⟩

/-- A translation depends on the contexts and the Page Map alone. -/
theorem translate_framed {l : List Part} (h : AllBut l s t) (hl : Part.ctxs ∉ l ∧ Part.pmap ∉ l := by decide) (c : Nat) (b : BitVec 48) :
    translate t c b = translate s c b := by
  have pmap : t.mem.pmap = s.mem.pmap := h .pmap hl.2
  unfold translate
  rw [getCtx_congr (h .ctxs hl.1), pmap]

theorem Pumps.translate (h : Pumps n s t) (c : Nat) (b : BitVec 48) : translate t c b = translate s c b := by
  obtain ⟨gq, g, k, x, core⟩ := h
  exact translate_framed core.frame (by decide) c b

theorem Pumps.threads (h : Pumps n s t) : (getC t n).threads = (getC s n).threads := by
  obtain ⟨gq, g, k, x, core⟩ := h
  rw [core.own]
  rfl

theorem Pumps.streams (h : Pumps n s t) (i : Nat) : getStream (getC t n) i = getStream (getC s n) i := by
  obtain ⟨gq, g, k, x, core⟩ := h
  rw [core.own]
  rfl

/-- A block that no peer holds. -/
def NoPeer (s : State) (ctx k : Nat) : Prop := ∀ e m rc rva core w, translate s ctx (BitVec.ofNat 48 (256 * k)) ≠ .peer e m rc rva core w

theorem sendGather_pumps {x : Issued} (h : NoPeer s (getStream (getC s n) x.slot).ctx k) :
    Pumps n s (sendGather s n a k x).1 ∧ (sendGather s n a k x).2 = false := by
  have used := pumps_useXlat s n (getStream (getC s n) x.slot).ctx (BitVec.ofNat 48 (256 * k))
  have noted : ∀ w : State, Pumps n w (modC w n fun c => { c with gather := c.gather ++ [{ blk := k, thr := a, data := none }] }) :=
    fun w => pumps_modC fun c => ⟨c.gatherQ, c.gather ++ [{ blk := k, thr := a, data := none }], c.cnt, c.xlat, rfl⟩
  have page := used.translate (getStream (getC s n) x.slot).ctx (BitVec.ofNat 48 (256 * k))
  unfold sendGather
  dsimp only
  rw [vecCtx, page]
  split
  · rename_i e m rc rva core w eq
    exact absurd eq (h e m rc rva core w)
  · rename_i b w eq
    exact ⟨(used.then (frame_emit _ _)).trans (noted _), rfl⟩
  · exact ⟨used.trans (noted _), rfl⟩

theorem pumpQueue_pumps : ∀ (q : List (Nat × Nat)) (stuck : List (Option (Nat × Nat))) (v : State),
    (getC v n).threads.getD a none = some j →
    (∀ x ∈ q, x.1 = a ∧ NoPeer v (getStream (getC v n) j.iss.slot).ctx x.2) → Pumps n v (pumpQueue n q stuck v)
  | [], _, v, _, _ => .refl n v
  | (b, k) :: q, stuck, v, thread, local_ => by
    obtain ⟨same, here⟩ := local_ (b, k) List.mem_cons_self
    obtain same : a = b := same.symm
    subst same
    have goes : ∀ u stuck, Pumps n v u → Pumps n v (pumpQueue n q stuck u) := fun u stuck hu =>
      hu.trans (pumpQueue_pumps q stuck u (by rw [hu.threads]; exact thread) fun x hx => by
        obtain ⟨same, far⟩ := local_ x (List.mem_cons_of_mem _ hx)
        refine ⟨same, fun e m rc rva core w => ?_⟩
        rw [hu.streams, hu.translate]
        exact far e m rc rva core w)
    have kept : ∀ u, Pumps n v u → Pumps n v (modC u n fun c => { c with gatherQ := c.gatherQ ++ [(a, k)] }) := fun u hu =>
      hu.trans (pumps_modC fun c => ⟨c.gatherQ ++ [(a, k)], c.gather, c.cnt, c.xlat, rfl⟩)
    unfold pumpQueue
    dsimp only
    rw [thread]
    dsimp only
    split
    · exact goes _ _ (pumps_modC fun c => ⟨c.gatherQ, c.gather, { c.cnt with merged := c.cnt.merged + 1 }, c.xlat, rfl⟩)
    · split
      · exact goes _ _ (kept v (.refl n v))
      · split
        · exact goes _ _ (kept _ ((Pumps.refl n v).then (frame_holdTokens v _ _)))
        · rename_i u paid
          have charged : Pumps n v u := (Pumps.refl n v).then (frame_gatherToken paid)
          obtain ⟨sent, fine⟩ := sendGather_pumps (s := u) (n := n) (a := a) (k := k) (x := j.iss) fun e m rc rva core w => by
            rw [charged.streams, charged.translate]
            exact here e m rc rva core w
          rw [fine, if_neg Bool.false_ne_true]
          exact goes _ _ (charged.trans sent)

theorem pumps_noteHot (s : State) (n : Nat) : Pumps n s (noteHot s n) := by
  unfold noteHot
  dsimp only
  split
  · split
    · exact pumps_modC fun c => ⟨c.gatherQ, c.gather, { c.cnt with hotBank := _ }, c.xlat, rfl⟩
    · exact .refl n s
  · exact .refl n s

theorem pumpGather_pumps (thread : (getC s n).threads.getD a none = some j)
    (local_ : ∀ x ∈ (getC s n).gatherQ, x.1 = a ∧ NoPeer s (getStream (getC s n) j.iss.slot).ctx x.2) : Pumps n s (pumpGather s n) := by
  have emptied : Pumps n s (modC s n fun c => { c with gatherQ := [] }) := pumps_modC fun c => ⟨[], c.gather, c.cnt, c.xlat, rfl⟩
  refine (emptied.trans (pumpQueue_pumps _ [] _ (by rw [emptied.threads]; exact thread) fun x hx => ?_)).trans (pumps_noteHot _ n)
  obtain ⟨same, far⟩ := local_ x hx
  refine ⟨same, fun e m rc rva core w => ?_⟩
  rw [emptied.streams, emptied.translate]
  exact far e m rc rva core w

end

/-! ### VEC (R126, R141, R146, R158) -/

/-- R158: a thread takes a VEC, and with REL the banks that it names are to be released. -/
def vecTaken (d : BitVec 256) (bs : List Nat) (a : Nat) (j : VecJob) (q : PCore) : PCore :=
  setThread (if (vecOf d).rel then markRelease q bs else q) a (some j)

/-- What a thread holds of a VEC that has issued. -/
def vecJob (s : State) (n i : Nat) (d : BitVec 256) : VecJob :=
  { iss := issuedAs s n i d, recs := recsOf (getC s n) (vecOf d), grp := 0, out := false, blks := [], came := [], got := [], acks := 0
    ended := false }

/-- The state in which a VEC that has issued asks for its first group. -/
def vecIssued (s : State) (n i a : Nat) (d : BitVec 256) : State :=
  modC (issueTo s n i d).1 n (vecTaken d (namedBanks (recsOf (getC s n) (vecOf d)) (vecOf d)) a (vecJob s n i d))

theorem markRelease_eq (bs : List Nat) (c : PCore) : ∃ b, markRelease c bs = { c with banks := b } := by
  unfold markRelease
  induction bs generalizing c with
  | nil => exact ⟨_, rfl⟩
  | cons x bs ih =>
    obtain ⟨b, hb⟩ := ih (setBank c x { getBank c x with relIssued := true })
    exact ⟨b, by rw [List.foldl_cons, hb]; rfl⟩

theorem vecTaken_eq (d : BitVec 256) (bs : List Nat) (a : Nat) (j : VecJob) (q : PCore) :
    ∃ b, vecTaken d bs a j q = { q with banks := b, threads := q.threads.setIfInBounds a (some j) } := by
  unfold vecTaken
  split
  · obtain ⟨b, hb⟩ := markRelease_eq bs q
    exact ⟨b, by rw [hb]; rfl⟩
  · exact ⟨_, rfl⟩

section
variable {s : State} {n i a : Nat} {d : BitVec 256} {v : VecIn}

theorem issueVec_takes (h : issuable s n i opVec = some d) (legal : vecMalformed (getC s n) true d = none)
    (free : (List.range 8).find? (fun t => ((getC s n).threads.getD t none).isNone) = some a) (named : (issueTo s n i d).2 = issuedAs s n i d) :
    issueVec s n i = askGroup (vecIssued s n i a d) n a (vecJob s n i d) := by
  unfold issueVec
  rw [h]
  dsimp only
  rw [legal, free, named]
  rfl

theorem free_lt (free : (List.range 8).find? (fun t => ((getC s n).threads.getD t none).isNone) = some a) : a < 8 :=
  List.mem_range.mp (List.mem_of_find?_eq_some free)

/-- The core once a thread has taken a VEC. -/
theorem vecIssued_core (l : List Part) (fresh : (getStream (getC s n) i).due = false) (hi : i < 16)
    (hl : Part.hub ∉ Part.slots :: l := by decide) : ∃ b, CoreTo l n s (vecIssued s n i a d) { issuedCore s n i d with
      banks := b, threads := (getC s n).threads.setIfInBounds a (some (vecJob s n i d)) } := by
  obtain ⟨issued, -⟩ := issueTo_core l (d := d) fresh hi hl
  obtain ⟨b, hb⟩ := vecTaken_eq d (namedBanks (recsOf (getC s n) (vecOf d)) (vecOf d)) a (vecJob s n i d) (issuedCore s n i d)
  have out := issued.modC (vecTaken d (namedBanks (recsOf (getC s n) (vecOf d)) (vecOf d)) a (vecJob s n i d)) hl
  have threads : (issuedCore s n i d).threads = (getC s n).threads := by
    obtain ⟨y, z, eq⟩ := issuedCore_eq s n i d
    rw [eq]
  rw [hb, threads] at out
  exact ⟨b, out⟩

theorem vecIssued_ctx (fresh : (getStream (getC s n) i).due = false) (hi : i < 16) :
    vecCtx (vecIssued s n i a d) n (issuedAs s n i d) = (getStream (getC s n) i).ctx := by
  obtain ⟨b, out⟩ := vecIssued_core (a := a) (d := d) [] fresh hi
  rw [vecCtx, out.own]
  show (getStream (issuedCore s n i d) i).ctx = _
  rw [getStream_issuedCore hi]
  rfl

theorem vecFault_framed {l : List Part} {t : State} (h : AllBut l s t) (c b : Nat) (wr : Bool)
    (hl : Part.ctxs ∉ l ∧ Part.pmap ∉ l := by decide) : vecFault t c b wr = vecFault s c b wr := by
  unfold vecFault
  rw [translate_framed h hl]

/-- R161: a VEC that needs nothing more is ready. -/
theorem askGroup_ready {w : State} {j : VecJob} (hv : vecIn (vecOf j.iss.desc) j.recs = some v) (need : nextNeed w n v j = none) :
    askGroup w n a j = modC w n fun c => setThread c a (some { j with out := false, blks := [] }) := by
  unfold askGroup
  rw [hv]
  dsimp only
  rw [need]

theorem askGroup_asks {w : State} {j : VecJob} {g : Nat} {l : List Nat} (hv : vecIn (vecOf j.iss.desc) j.recs = some v)
    (need : nextNeed w n v j = some (g, l)) (fine : l.findSome? (fun k => vecFault w (vecCtx w n j.iss) (256 * k) false) = none) :
    askGroup w n a j = pumpGather (modC w n fun c => setThread { c with
        gatherQ := c.gatherQ ++ l.map fun k => (a, k)
        cnt := { c.cnt with veSwitches := c.cnt.veSwitches + (if j.out then 0 else 1) } } a
      (some { j with grp := g, out := true, blks := l, came := if g = j.grp then j.came else [] })) n := by
  unfold askGroup
  rw [hv]
  dsimp only
  rw [need]
  dsimp only
  rw [fine]

theorem askGroup_faults {w : State} {j : VecJob} {g : Nat} {l : List Nat} {e : BitVec 8} (hv : vecIn (vecOf j.iss.desc) j.recs = some v)
    (need : nextNeed w n v j = some (g, l)) (bad : l.findSome? (fun k => vecFault w (vecCtx w n j.iss) (256 * k) false) = some e) :
    askGroup w n a j = faultVec w n a j.iss e := by
  unfold askGroup
  rw [hv]
  dsimp only
  rw [need]
  dsimp only
  rw [bad]

end

section
variable {s : State} {c : Core} {i : SlotNo} {d : BitVec 256} {p : PCore} {u : Stream} {n g : Nat} {v : VecIn} {l : List Nat}

theorem vec_issues (hp : p = getC s c.val) (hu : u = getStream p i.val) (h : issuable s c.val i.val opVec = some d) (fresh : u.due = false)
    (none_ : NoneBlocked s c.val) (legal : vecMalformed p true d = none)
    (free : (List.range 8).find? (fun t => (p.threads.getD t none).isNone) = some n) (hv : vecIn (vecOf d) (recsOf p (vecOf d)) = some v)
    (need : nextNeed (vecIssued s c.val i.val n d) c.val v (vecJob s c.val i.val d) = none) :
    ∃ t, exec (.vec c i) s = .next t ∧ Issues s t c.val i.val d ∧ (getC t c.val).lr = p.lr ∧
      (getC t c.val).threads.getD n none = some (vecJob s c.val i.val d) ∧
      ∀ q, q ≠ n → (getC t c.val).threads.getD q none = p.threads.getD q none := by
  subst hp hu
  have lt := issuable_lt h
  obtain ⟨b, out⟩ := vecIssued_core (a := n) (d := d) [] fresh lt
  have run : exec (.vec c i) s = done (wakeCore (issueVec s c.val i.val) c.val) := rfl
  rw [issueVec_takes h legal free (issueTo_core [] fresh lt).2, askGroup_ready (j := vecJob s c.val i.val d) hv need] at run
  obtain ⟨y, z, eq⟩ := issuedCore_eq s c.val i.val d
  obtain ⟨k, hk⟩ : ∃ k, k = issuedCore s c.val i.val d := ⟨_, rfl⟩
  have ready := out.modC fun q => setThread q n (some { vecJob s c.val i.val d with out := false, blks := [] })
  rw [← hk] at ready eq
  obtain ⟨t, ht, issues, core⟩ := issue_ends h none_ run ready (by
    rw [← hk]
    exact .of_streams rfl rfl rfl ⟨rfl, rfl⟩)
  refine ⟨t, ht, issues, ?_, ?_, fun q hq => ?_⟩
  · rw [core, eq]
    rfl
  · rw [core]
    exact vector_getD_set_same _ (free_lt free) _ _
  · rw [core]
    exact (vector_getD_set_other _ hq _ _).trans (vector_getD_set_other _ hq _ _)

theorem vec_asks (hp : p = getC s c.val) (hu : u = getStream p i.val) (h : issuable s c.val i.val opVec = some d) (fresh : u.due = false)
    (none_ : NoneBlocked s c.val) (legal : vecMalformed p true d = none)
    (free : (List.range 8).find? (fun t => (p.threads.getD t none).isNone) = some n) (hv : vecIn (vecOf d) (recsOf p (vecOf d)) = some v)
    (need : nextNeed (vecIssued s c.val i.val n d) c.val v (vecJob s c.val i.val d) = some (g, l)) (empty : p.gatherQ = [])
    (fine : ∀ k ∈ l, vecFault s u.ctx (256 * k) false = none ∧ NoPeer s u.ctx k) :
    ∃ t, exec (.vec c i) s = .next t ∧ Issues s t c.val i.val d ∧ (getC t c.val).lr = p.lr ∧
      (getC t c.val).threads.getD n none = some { vecJob s c.val i.val d with grp := g, out := true, blks := l } ∧
      ∀ q, q ≠ n → (getC t c.val).threads.getD q none = p.threads.getD q none := by
  subst hp hu
  have lt := issuable_lt h
  obtain ⟨b, out⟩ := vecIssued_core (a := n) (d := d) [.mem, .outbox] fresh lt
  have ctx := vecIssued_ctx (a := n) (d := d) fresh lt
  have run : exec (.vec c i) s = done (wakeCore (issueVec s c.val i.val) c.val) := rfl
  have good : l.findSome? (fun k => vecFault (vecIssued s c.val i.val n d)
      (vecCtx (vecIssued s c.val i.val n d) c.val (vecJob s c.val i.val d).iss) (256 * k) false) = none := by
    rw [List.findSome?_eq_none_iff]
    intro k hk
    rw [vecFault_framed out.frame, show (vecJob s c.val i.val d).iss = issuedAs s c.val i.val d from rfl, ctx]
    exact (fine k hk).1
  rw [issueVec_takes h legal free (issueTo_core [] fresh lt).2, askGroup_asks (j := vecJob s c.val i.val d) hv need good] at run
  obtain ⟨y, z, eq⟩ := issuedCore_eq s c.val i.val d
  obtain ⟨j, hj⟩ : ∃ j, j = { vecJob s c.val i.val d with
    grp := g, out := true, blks := l, came := if g = (vecJob s c.val i.val d).grp then (vecJob s c.val i.val d).came else [] } := ⟨_, rfl⟩
  have same : j = { vecJob s c.val i.val d with grp := g, out := true, blks := l } := by
    rw [hj]
    split <;> rfl
  rw [← hj] at run
  have asks := out.modC fun q => setThread { q with
    gatherQ := q.gatherQ ++ l.map fun k => (n, k)
    cnt := { q.cnt with veSwitches := q.cnt.veSwitches + (if (vecJob s c.val i.val d).out then 0 else 1) } } n (some j)
  obtain ⟨w, hw⟩ : ∃ w, w = modC (vecIssued s c.val i.val n d) c.val fun q => setThread { q with
    gatherQ := q.gatherQ ++ l.map fun k => (n, k)
    cnt := { q.cnt with veSwitches := q.cnt.veSwitches + (if (vecJob s c.val i.val d).out then 0 else 1) } } n (some j) := ⟨_, rfl⟩
  rw [← hw] at run asks
  have thread : (getC w c.val).threads.getD n none = some j := by
    rw [asks.own]
    exact vector_getD_set_same _ (free_lt free) _ _
  have slot : (getStream (getC w c.val) j.iss.slot).ctx = (getStream (getC s c.val) i.val).ctx := by
    rw [asks.own, same]
    show (getStream (issuedCore s c.val i.val d) i.val).ctx = _
    rw [getStream_issuedCore lt]
    rfl
  have queue : (getC w c.val).gatherQ = l.map fun k => (n, k) := by
    rw [asks.own, eq]
    show (getC s c.val).gatherQ ++ _ = _
    rw [empty, List.nil_append]
  obtain ⟨gq, gs, k, x, pumped⟩ := pumpGather_pumps thread fun y hy => by
    rw [queue] at hy
    obtain ⟨k, hk, rfl⟩ := List.mem_map.mp hy
    refine ⟨rfl, fun e m rc rva core wr => ?_⟩
    rw [slot, translate_framed asks.frame (by decide)]
    exact (fine k hk).2 e m rc rva core wr
  rw [asks.own] at pumped
  obtain ⟨t, ht, issues, core⟩ := issue_ends h none_ run (asks.trans pumped) (.of_streams rfl rfl rfl ⟨rfl, rfl⟩)
  refine ⟨t, ht, issues, ?_, ?_, fun q hq => ?_⟩
  · rw [core, eq]
    rfl
  · rw [core, ← same]
    exact vector_getD_set_same _ (free_lt free) _ _
  · rw [core]
    exact (vector_getD_set_other _ hq _ _).trans (vector_getD_set_other _ hq _ _)

/-- What a fault takes off a thread. -/
def threadDropped (a : Nat) (q : PCore) : PCore := pruneGather { setThread q a none with gatherQ := q.gatherQ.filter fun x => x.1 != a }

theorem faultVec_eq (s : State) (n a : Nat) (x : Issued) (cause : BitVec 8) : faultVec s n a x cause =
    modC (haltStream (modC s n (threadDropped a)) n x.slot cause (tagOf x.desc) x.pc) n
      fun q => modStream q x.slot fun t => { t with inflight := t.inflight.erase x.id } := rfl

theorem vec_faults {e : BitVec 8} (hp : p = getC s c.val) (hu : u = getStream p i.val) (h : issuable s c.val i.val opVec = some d)
    (fresh : u.due = false) (none_ : NoneBlocked s c.val) (legal : vecMalformed p true d = none)
    (free : (List.range 8).find? (fun t => (p.threads.getD t none).isNone) = some n) (hv : vecIn (vecOf d) (recsOf p (vecOf d)) = some v)
    (need : nextNeed (vecIssued s c.val i.val n d) c.val v (vecJob s c.val i.val d) = some (g, l))
    (bad : l.findSome? (fun k => vecFault s u.ctx (256 * k) false) = some e) :
    ∃ t, exec (.vec c i) s = .next t ∧ t.mem = s.mem ∧ (getC t c.val).stage = p.stage ∧
      (getC t c.val).threads.getD n none = none ∧ (getStream (getC t c.val) i.val).st = .halted ∧
      (getC t c.val).sems = (headed p d).sems ∧
      (p.errValid = false → ∃ x, (getC t c.val).err = some x ∧ x.stream = i.val ∧ x.cause = e) := by
  subst hp hu
  have lt := issuable_lt h
  obtain ⟨b, out⟩ := vecIssued_core (a := n) (d := d) [] fresh lt
  have ctx := vecIssued_ctx (a := n) (d := d) fresh lt
  have run : exec (.vec c i) s = done (wakeCore (issueVec s c.val i.val) c.val) := rfl
  have fault : l.findSome? (fun k => vecFault (vecIssued s c.val i.val n d)
      (vecCtx (vecIssued s c.val i.val n d) c.val (vecJob s c.val i.val d).iss) (256 * k) false) = some e := by
    rw [← bad]
    refine congrArg (fun f => List.findSome? f l) (funext fun k => ?_)
    rw [vecFault_framed out.frame, show (vecJob s c.val i.val d).iss = issuedAs s c.val i.val d from rfl, ctx]
  rw [issueVec_takes h legal free (issueTo_core [] fresh lt).2, askGroup_faults (j := vecJob s c.val i.val d) hv need fault, faultVec_eq] at run
  obtain ⟨y, z, eq⟩ := issuedCore_eq s c.val i.val d
  have dropped := out.modC (threadDropped n)
  obtain ⟨q, hq⟩ : ∃ q, q = threadDropped n { issuedCore s c.val i.val d with
    banks := b, threads := (getC s c.val).threads.setIfInBounds n (some (vecJob s c.val i.val d)) } := ⟨_, rfl⟩
  rw [← hq] at dropped
  have streams : ∀ k, getStream q k = getStream (issuedCore s c.val i.val d) k := fun k => by rw [hq]; rfl
  have runs : (getStream (getC (modC (vecIssued s c.val i.val n d) c.val (threadDropped n)) c.val) i.val).st = .running := by
    rw [dropped.own, streams, getStream_issuedCore lt]
    exact issuable_runs h
  have halt := haltStream_core [] runs (cause := e) (tag := tagOf d) (a := (getStream (getC s c.val) i.val).pc)
  rw [dropped.own] at halt
  obtain ⟨w, hw, whole⟩ : ∃ w, exec (.vec c i) s = done (wakeCore w c.val) ∧ CoreTo [] c.val s w _ := ⟨_, run,
    (dropped.trans halt).modC fun q => modStream q i.val fun t => { t with inflight := t.inflight.erase (getC s c.val).nextId }⟩
  obtain ⟨r, hr⟩ : ∃ r, r = haltCore q i.val e (tagOf d) (getStream (getC s c.val) i.val).pc := ⟨_, rfl⟩
  rw [← hr] at whole
  have own := getStream_modStream_same r lt fun t => { t with inflight := t.inflight.erase (getC s c.val).nextId }
  have halted : getStream r i.val = { getStream q i.val with st := .halted, blocked := none, due := false, ahead := [] } := by
    rw [hr, getStream_haltCore lt]
  have still : NoneBlocked w c.val := fun k => by
    rw [whole.own]
    by_cases hk : k = i.val
    · rw [hk, own, halted]
    · rw [getStream_modStream_other _ hk, hr, getStream_haltCore_other hk, streams]
      obtain ⟨m, hm⟩ := getStream_issuedCore_other lt hk s c.val d
      rw [hm]
      exact none_ k
  rw [wakeCore_none still] at hw
  have k := settle_settled w
  refine ⟨_, hw, k.out.mem.trans (whole.frame .mem (by decide)), ?_, ?_, ?_, ?_, fun valid => ?_⟩
  · rw [getC_settled k, whole.own]
    show r.stage = _
    rw [hr, haltCore_stage, hq, eq]
    rfl
  · rw [getC_settled k, whole.own]
    show r.threads.getD n none = none
    rw [hr, haltCore, recordErr_eq, hq]
    exact vector_getD_set_same _ (free_lt free) _ _
  · rw [getC_settled k, whole.own, own, halted]
  · rw [getC_settled k, whole.own]
    show r.sems = _
    rw [hr, haltCore_sems, hq, eq]
    rfl
  · have same : q.errValid = false := by
      rw [hq, eq]
      exact valid
    obtain ⟨-, x, hx, stream, cause⟩ := haltCore_err (i := i.val) (cause := e) (tag := tagOf d)
      (a := (getStream (getC s c.val) i.val).pc) same
    refine ⟨x, ?_, stream, cause⟩
    rw [getC_settled k, whole.own]
    show r.err = _
    rw [hr, hx]

end

/-! ### Malformed descriptors, and those that cannot issue (R171, R175) -/

section
variable {s : State} {n i : Nat} {d : BitVec 256} {x : BitVec 8}

theorem issueCopy_rejects (h : issuable s n i opCopy = some d) (bad : copyMalformed (getStream (getC s n) i) d = some x) :
    issueCopy s n i = rejectDesc s n i d x := by
  unfold issueCopy
  rw [h]
  dsimp only
  rw [bad]

theorem issueMma_rejects (h : issuable s n i opMma = some d) (bad : mmaMalformed s n i d = some x) :
    issueMma s n i = rejectDesc s n i d x := by
  unfold issueMma
  rw [h]
  dsimp only
  rw [bad]

theorem issueMv_rejects (h : issuable s n i opMv = some d) (bad : mvBad d = some x) : issueMv s n i = rejectDesc s n i d x := by
  unfold issueMv
  rw [h]
  dsimp only
  rw [bad]

/-- The records of a VEC that fail their CRC are counted. -/
def recordsCounted (s : State) (n : Nat) (d : BitVec 256) : State :=
  modCnt s n fun k => { k with veCrc := k.veCrc + BitVec.ofNat 32 (countRecCrc (getC s n) (vecOf d)) }

theorem issueVec_rejects (h : issuable s n i opVec = some d) (bad : vecMalformed (getC s n) true d = some x) :
    issueVec s n i = rejectDesc (recordsCounted s n d) n i d x := by
  unfold issueVec
  rw [h]
  dsimp only
  rw [bad]
  rfl

/-- What a count in the core leaves of a halt. -/
theorem Halts.of_counted {t : State} (h : Halts (recordsCounted s n d) t n i x) : Halts s t n i x := by
  have counted := coreTo_modC [] s n fun c => { c with
    cnt := { c.cnt with veCrc := c.cnt.veCrc + BitVec.ofNat 32 (countRecCrc (getC s n) (vecOf d)) } }
  have core : getC (recordsCounted s n d) n = { getC s n with
    cnt := { (getC s n).cnt with veCrc := (getC s n).cnt.veCrc + BitVec.ofNat 32 (countRecCrc (getC s n) (vecOf d)) } } := counted.own
  have streams : ∀ k, getStream (getC (recordsCounted s n d) n) k = getStream (getC s n) k := fun k => by rw [core]; rfl
  obtain ⟨st, pc, err, others, cores, mem, ctxs⟩ := h
  refine ⟨st, by rw [pc, streams], fun valid => err (by rw [core]; exact valid), fun k hk => by rw [← streams]; exact others k hk,
    fun p hp => (cores p (by rw [show physOf (recordsCounted s n d) n = physOf s n from counted.place (by decide) n]; exact hp)).trans
      (counted.others p hp), mem, ctxs⟩

theorem issue_rejects {q : Instr} {w : State} (run : exec q s = done (wakeCore (rejectDesc w n i d x) n))
    (runs : (getStream (getC w n) i).st = .running) (none_ : NoneBlocked w n) :
    ∃ t, exec q s = .next t ∧ Halts w t n i x ∧ (getC t n).sems = (getC w n).sems := by
  obtain ⟨halt, sems⟩ := rejectDesc_halts runs d x
  have free : (getStream (getC (rejectDesc w n i d x) n) i).blocked = none := by
    have turn := takeTurn_core [] w n i
    have runs' : (getStream (getC (takeTurn w n i) n) i).st = .running := by
      rw [turn.own, getStream_passTurn_same (running_lt runs)]
      exact runs
    rw [rejectDesc, (haltStream_core [] runs').own, getStream_haltCore (running_lt runs)]
  rw [wakeCore_none (halt.none free none_)] at run
  have k := settle_settled (rejectDesc w n i d x)
  exact ⟨_, run, halt.of_settled k, by rw [getC_settled k, sems]⟩

theorem issue_rests {q : Instr} (rest : AtRest s) (none_ : NoneBlocked s n) (run : exec q s = done (wakeCore s n)) :
    exec q s = .next s := by
  rw [run, wakeCore_none none_, done_atRest rest]

end

/-- Settles O55: by what each engine takes of a descriptor that issues, and by what a VEC asks for first. -/
theorem engineDescriptorsIssue : Obligations.EngineDescriptorsIssue := by
  intro c i s d p u hp hu
  refine ⟨fun h fresh none_ b hb legal => copy_issues hp hu h fresh none_ hb legal,
    fun h fresh none_ legal => mma_issues hp hu h fresh none_ legal, fun h fresh none_ legal => mv_issues hp hu h fresh none_ legal,
    fun h fresh none_ n v j s1 legal free hv hj hs => ?_, fun f hf q hq => ?_⟩
  · have job : j = vecJob s c.val i.val d := by rw [hj, hp]; rfl
    have begun : s1 = vecIssued s c.val i.val n d := by rw [hs, job, hp]; rfl
    subst job begun
    exact ⟨fun need => vec_issues hp hu h fresh none_ legal free hv need, fun g l need =>
      ⟨fun empty fine => vec_asks hp hu h fresh none_ legal free hv need empty fine,
        fun e bad => vec_faults hp hu h fresh none_ legal free hv need bad⟩⟩
  · subst hp hu hf
    simp only [List.mem_cons, List.not_mem_nil, or_false] at hq
    obtain rfl | rfl | rfl | rfl := hq
    · refine ⟨fun x h none_ bad => issue_rejects (q := .copy c i) (s := s) (w := s) (d := d)
        (congrArg (fun w => done (wakeCore w c.val)) (issueCopy_rejects h bad)) (issuable_runs h) none_,
        fun rest none_ h => issue_rests rest none_ ?_⟩
      · refine congrArg (fun w => done (wakeCore w c.val)) ?_
        unfold issueCopy
        rw [h]
    · refine ⟨fun x h none_ bad => issue_rejects (q := .mma c i) (s := s) (w := s) (d := d)
        (congrArg (fun w => done (wakeCore w c.val)) (issueMma_rejects h bad)) (issuable_runs h) none_,
        fun rest none_ h => issue_rests rest none_ ?_⟩
      · refine congrArg (fun w => done (wakeCore w c.val)) ?_
        unfold issueMma
        rw [h]
    · refine ⟨fun x h none_ bad => issue_rejects (q := .mv c i) (s := s) (w := s) (d := d)
        (congrArg (fun w => done (wakeCore w c.val)) (issueMv_rejects h bad)) (issuable_runs h) none_,
        fun rest none_ h => issue_rests rest none_ ?_⟩
      · refine congrArg (fun w => done (wakeCore w c.val)) ?_
        unfold issueMv
        rw [h]
    · refine ⟨fun x h none_ bad => ?_, fun rest none_ h => issue_rests rest none_ ?_⟩
      · have counted := coreTo_modC [] s c.val fun k => { k with
          cnt := { k.cnt with veCrc := k.cnt.veCrc + BitVec.ofNat 32 (countRecCrc (getC s c.val) (vecOf d)) } }
        have same : ∀ k, getStream (getC (recordsCounted s c.val d) c.val) k = getStream (getC s c.val) k := fun k => by
          rw [show getC (recordsCounted s c.val d) c.val = _ from counted.own]
          rfl
        obtain ⟨t, ht, halt, sems⟩ := issue_rejects (q := .vec c i) (s := s) (w := recordsCounted s c.val d) (d := d)
          (congrArg (fun w => done (wakeCore w c.val)) (issueVec_rejects h bad))
          (by rw [same]; exact issuable_runs h) (fun k => by rw [same]; exact none_ k)
        refine ⟨t, ht, halt.of_counted, sems.trans ?_⟩
        rw [show getC (recordsCounted s c.val d) c.val = _ from counted.own]
      · refine congrArg (fun w => done (wakeCore w c.val)) ?_
        unfold issueVec
        rw [h]

end Sys2Proof.Machine
end

section
-- One proof after the other: a text of this length has more proofs waiting at once than the check has threads for.
set_option Elab.async false
/-! PROOFS. The patrol scrub (R209) and what the Belfry makes of a consumer's CRC failure (R210). -/
namespace Sys2Proof.Machine

/-- An injection that does not stand does not stand after a change that leaves the diagnostic state. -/
theorem noInjection_congr {s t : State} (none_ : NoInjection s) (h : t.diag = s.diag) : NoInjection t := fun i => by
  rw [injectAt, h]
  exact none_ i

/-! ### The patrol scrub (R209) -/

/-- The pointer of the scrub as the number of its block. -/
theorem nextScrub_block {k : Ctrl} (h : k.scrubPtr.toNat < 1015808) :
    16 * (nextScrub k).scrubPtr.toNat + (nextScrub k).scrubBlk.toNat = (16 * k.scrubPtr.toNat + k.scrubBlk.toNat + 1) % 16252928 := by
  have small : k.scrubBlk.toNat < 16 := k.scrubBlk.isLt
  unfold nextScrub slotsPerChan
  by_cases last : k.scrubBlk = 15
  · rw [if_pos last, last]
    by_cases wraps : k.scrubPtr.toNat + 1 = 1015808
    · rw [if_pos wraps, show k.scrubPtr.toNat = 1015807 by omega]
      show 16 * (0#20).toNat + (0#4).toNat = (16 * 1015807 + (15#4).toNat + 1) % 16252928
      decide
    · rw [if_neg wraps]
      have goes : (k.scrubPtr + 1).toNat = k.scrubPtr.toNat + 1 := by
        rw [BitVec.toNat_add]
        exact Nat.mod_eq_of_lt (by have := k.scrubPtr.isLt; simp; omega)
      show 16 * (k.scrubPtr + 1).toNat + 0 = (16 * k.scrubPtr.toNat + 15 + 1) % 16252928
      rw [goes]
      omega
  · rw [if_neg last]
    have short : k.scrubBlk.toNat ≠ 15 := fun e => last (BitVec.eq_of_toNat_eq e)
    have goes : (k.scrubBlk + 1).toNat = k.scrubBlk.toNat + 1 := by
      rw [BitVec.toNat_add]
      exact Nat.mod_eq_of_lt (by simp; omega)
    show 16 * k.scrubPtr.toNat + (k.scrubBlk + 1).toNat = _
    rw [goes]
    omega

theorem nextScrub_counts (k : Ctrl) : (nextScrub k).rd = k.rd ∧ (nextScrub k).corr = k.corr := by
  unfold nextScrub
  split <;> exact ⟨rfl, rfl⟩

section
variable {s v : State} {p : Pos} {ch : Nat} {e1 e2 left : SymErr} {n : Nat}

/-- A correction that leaves no error writes nothing back. -/
theorem writeBack_clean (clean : ∀ i, errAt left i = 0) (m : Mem) (q j : Nat) : writeBack m q j left = m := by
  unfold writeBack
  dsimp only
  rw [withErrs_clean clean, if_pos rfl]

theorem scrubNext_of_chan (role : (getCtrl s p.val).role = .inService) (chan : (getCtrl s p.val).chan = some ch)
    (calm : ∀ g ∈ s.mem.migs, g.source ≠ p.val) : (if (getCtrl s p.val).role == .inService && !s.mem.migs.any (fun g => g.source == p.val)
      then (getCtrl s p.val).chan else none) = some ch := by
  have none_ : s.mem.migs.any (fun g => g.source == p.val) = false := List.any_eq_false.mpr fun g hg => by
    simpa using calm g hg
  rw [role, none_, chan]
  rfl

/-- A block that the scrub reads without an error that stays. -/
theorem scrubNext_reads (role : (getCtrl s p.val).role = .inService) (chan : (getCtrl s p.val).chan = some ch)
    (calm : ∀ g ∈ s.mem.migs, g.source ≠ p.val) (none_ : NoInjection s) (taken : takeTokens s (p.val / 20) 3 1 = some v)
    (hr : readErrs e1 e2 = (left, n, false)) (clean : ∀ i, errAt left i = 0) : scrubNext s p.val e1 e2 =
      modCtrl (controllerRead v p.val (16 * (getCtrl s p.val).scrubPtr.toNat + (getCtrl s p.val).scrubBlk.toNat) none e1 e2).1 p.val nextScrub := by
  have plain : NoInjection v := noInjection_congr none_ (frame_takeTokens taken .diag (by decide))
  unfold scrubNext
  dsimp only
  rw [scrubNext_of_chan role chan calm]
  dsimp only
  rw [taken]
  dsimp only
  rw [injectedErrs_none plain]
  dsimp only
  rw [List.append_nil, hr]
  dsimp only
  split
  · rfl
  · rw [modMem, writeBack_clean clean]

theorem scrubNext_waits (role : (getCtrl s p.val).role = .inService) (chan : (getCtrl s p.val).chan = some ch)
    (calm : ∀ g ∈ s.mem.migs, g.source ≠ p.val) (none_ : takeTokens s (p.val / 20) 3 1 = none) :
    scrubNext s p.val e1 e2 = holdTokens s (p.val / 20) 3 := by
  unfold scrubNext
  dsimp only
  rw [scrubNext_of_chan role chan calm]
  dsimp only
  rw [none_]

/-- The scrub rests where the position serves no channel, or its channel moves. -/
theorem scrubNext_rests (h : (getCtrl s p.val).role ≠ .inService ∨ (getCtrl s p.val).chan = none ∨ ∃ g ∈ s.mem.migs, g.source = p.val) :
    scrubNext s p.val e1 e2 = s := by
  have off : (if (getCtrl s p.val).role == .inService && !s.mem.migs.any (fun g => g.source == p.val) then (getCtrl s p.val).chan else none)
      = none := by
    obtain role | chan | ⟨g, hg, eq⟩ := h
    · rw [show ((getCtrl s p.val).role == .inService) = false by simpa using role]
      rfl
    · rw [chan, ite_self]
    · have some_ : s.mem.migs.any (fun g => g.source == p.val) = true := List.any_eq_true.mpr ⟨g, hg, by simpa using eq⟩
      rw [some_, Bool.not_true, Bool.and_false]
      rfl
  unfold scrubNext
  dsimp only
  rw [off]

/-- The scrub reads a block: nothing moves but the counts of its position, the tokens, and its pointer. -/
theorem scrub_reads (role : (getCtrl s p.val).role = .inService) (chan : (getCtrl s p.val).chan = some ch)
    (ptr : (getCtrl s p.val).scrubPtr.toNat < 1015808) (calm : ∀ g ∈ s.mem.migs, g.source ≠ p.val) (none_ : NoInjection s)
    (tokens : (takeTokens s (p.val / 20) 3 1).isSome = true) {l1 l2 : List (Fin 260 × Byte)}
    (hr : readErrs (symErrs l1) (symErrs l2) = (left, n, false)) (clean : ∀ i, errAt left i = 0) : ∃ t, exec (.scrub p l1 l2) s = .next t ∧
      t.mem.cells = s.mem.cells ∧ (getCtrl t p.val).rd = (getCtrl s p.val).rd + 1 ∧
      (getCtrl t p.val).corr = (getCtrl s p.val).corr + BitVec.ofNat 32 n ∧
      16 * (getCtrl t p.val).scrubPtr.toNat + (getCtrl t p.val).scrubBlk.toNat =
        (16 * (getCtrl s p.val).scrubPtr.toNat + (getCtrl s p.val).scrubBlk.toNat + 1) % 16252928 ∧
      t.ctxs = s.ctxs ∧ t.slots = s.slots := by
  obtain ⟨v, taken⟩ := Option.isSome_iff_exists.mp tokens
  have paid := frame_takeTokens taken
  have plain : NoInjection v := noInjection_congr none_ (paid .diag (by decide))
  have same : getCtrl v p.val = getCtrl s p.val := by rw [getCtrl, takeTokens_mem taken, getCtrl]
  have run : exec (.scrub p l1 l2) s = done (scrubNext s p.val (symErrs l1) (symErrs l2)) := rfl
  rw [scrubNext_reads role chan calm none_ taken hr clean] at run
  obtain ⟨j, hj⟩ : ∃ j, j = 16 * (getCtrl s p.val).scrubPtr.toNat + (getCtrl s p.val).scrubBlk.toNat := ⟨_, rfl⟩
  rw [← hj] at run
  obtain ⟨state, -⟩ := controllerRead_corrects (pos := p.val) (j := j) plain hr clean
  have frame := frame_controllerRead v p.val j none (symErrs l1) (symErrs l2)
  generalize (controllerRead v p.val j none (symErrs l1) (symErrs l2)).1 = w at run state frame
  have mem : w.mem = (modCtrl v p.val (rdNoted j n false)).mem := by
    rw [state]
    split
    · rfl
    · exact frame_tally _ _ _ .mem (by decide)
  have own : getCtrl w p.val = rdNoted j n false (getCtrl s p.val) := by rw [getCtrl_congr mem, getCtrl_modCtrl_same p.isLt, same]
  obtain ⟨lines, miss, counts⟩ := rdNoted_eq j n false (getCtrl s p.val)
  have next : getCtrl (settle (modCtrl w p.val nextScrub)) p.val = nextScrub (getCtrl w p.val) := by
    rw [getCtrl_congr (settle_mem _), getCtrl_modCtrl_same p.isLt]
  obtain ⟨rd, corr⟩ := nextScrub_counts (getCtrl w p.val)
  refine ⟨_, run, ?_, ?_, ?_, ?_, ?_, ?_⟩
  · rw [settle_mem]
    exact (congrArg Mem.cells mem).trans (by rw [show (modCtrl v p.val (rdNoted j n false)).mem.cells = v.mem.cells from rfl, takeTokens_mem taken])
  · rw [next, rd, own, counts]
  · rw [next, corr, own, counts]
  · rw [next, nextScrub_block (by rw [own, counts]; exact ptr), own, counts]
  · rw [settle_ctxs]
    exact (paid .ctxs (by decide)).trans (frame .ctxs (by decide))
  · rw [settle_slots]
    exact (paid .slots (by decide)).trans (frame .slots (by decide))

theorem scrub_waits (role : (getCtrl s p.val).role = .inService) (chan : (getCtrl s p.val).chan = some ch)
    (calm : ∀ g ∈ s.mem.migs, g.source ≠ p.val) (none_ : takeTokens s (p.val / 20) 3 1 = none) (l1 l2 : List (Fin 260 × Byte)) :
    Leads (.scrub p l1 l2) s (holdTokens s (p.val / 20) 3) :=
  leads_done (congrArg done (scrubNext_waits role chan calm none_)) (.refl _)

theorem scrub_rests (h : (getCtrl s p.val).role ≠ .inService ∨ (getCtrl s p.val).chan = none ∨ ∃ g ∈ s.mem.migs, g.source = p.val)
    (l1 l2 : List (Fin 260 × Byte)) : Leads (.scrub p l1 l2) s s :=
  leads_done (congrArg done (scrubNext_rests h)) (.refl _)

/-- One bad symbol is corrected, and counted. -/
theorem readErrs_one {i : Fin 260} {x : Byte} (hx : x ≠ 0) : ∃ left, readErrs (symErrs [(i, x)]) (symErrs []) = (left, 1, false) ∧
    ∀ n, errAt left n = 0 := by
  obtain ⟨left, corrects, clean⟩ := correctBlock_one i.isLt hx
  refine ⟨left, ?_, clean⟩
  show readErrs [(i.val, x)] [] = _
  unfold readErrs
  rw [corrects]
  rfl

end

/-! ### Attribution (R210) -/

section
variable {s : State} {c : Ctx} {va : BitVec 48} {part pg off ch byte pos : Nat} {e w : Bool}

/-- The two reads of an attribution at their position. -/
def readTwice (byte pos : Nat) (s : State) : State :=
  modCtrl s pos fun k => touchLine { k with rd := k.rd + 2 } (metaAddr (byte / 256)) false

theorem readTwice_counts (hpos : pos < 80) : (getCtrl (readTwice byte pos s) pos).crcTransport = (getCtrl s pos).crcTransport ∧
    (getCtrl (readTwice byte pos s) pos).crcMemory = (getCtrl s pos).crcMemory := by
  obtain ⟨lines, miss, eq⟩ := touchLine_eq { getCtrl s pos with rd := (getCtrl s pos).rd + 2 } (metaAddr (byte / 256)) false
  have own : getCtrl (readTwice byte pos s) pos = touchLine { getCtrl s pos with rd := (getCtrl s pos).rd + 2 } (metaAddr (byte / 256)) false :=
    getCtrl_modCtrl_same hpos _
  rw [own, eq]
  exact ⟨rfl, rfl⟩

theorem attribCrc_at (page : translate s c.val va = .localPage part pg off e w) (place : placeByte s part pg off = (ch, byte))
    (serve_ : pos = servePos s ch (byte / 4096) false) (ok : Bool) : attribCrc s c.val va ok =
      (if ok then modCtrl (readTwice byte pos s) pos fun k => { k with crcTransport := k.crcTransport + 1 }
       else postNotice (recordEvent (modCtrl (readTwice byte pos s) pos fun k => { k with crcMemory := k.crcMemory + 1 })
          2 0x21 2 (136 + pos) (some c.val) [(0x40C + 24 * pos, 1)] none) 0x0004 (some c.val)
        (lossBody va.toNat ((getCtx (recordEvent (modCtrl (readTwice byte pos s) pos fun k => { k with crcMemory := k.crcMemory + 1 })
          2 0x21 2 (136 + pos) (some c.val) [(0x40C + 24 * pos, 1)] none) c.val).led.committed.toNat + 1) ch)) := by
  unfold attribCrc
  rw [page]
  dsimp only
  rw [place]
  dsimp only
  rw [← serve_]
  rfl

theorem attribution_transport (up : belfryUp s = true) (page : translate s c.val va = .localPage part pg off e w)
    (place : placeByte s part pg off = (ch, byte)) (serve_ : pos = servePos s ch (byte / 4096) false) (hpos : pos < 80) :
    ∃ t, exec (.crcAttribution c va true true) s = .next t ∧ t.mem.cells = s.mem.cells ∧
      (getCtrl t pos).crcTransport = (getCtrl s pos).crcTransport + 1 ∧ (getCtrl t pos).crcMemory = (getCtrl s pos).crcMemory ∧
      t.ctxs = s.ctxs := by
  have run : exec (.crcAttribution c va true true) s = done (attribCrc s c.val va true) := congrArg done (if_pos up)
  rw [attribCrc_at page place serve_, if_pos rfl] at run
  obtain ⟨transport, memory⟩ := readTwice_counts (s := s) (byte := byte) hpos
  have own := getCtrl_modCtrl_same (s := readTwice byte pos s) hpos fun k => { k with crcTransport := k.crcTransport + 1 }
  refine ⟨_, run, ?_, ?_, ?_, settle_ctxs _⟩
  · rw [settle_mem]
    rfl
  · rw [getCtrl_congr (settle_mem _), own, transport]
  · rw [getCtrl_congr (settle_mem _), own, memory]

theorem attribution_memory (up : belfryUp s = true) (page : translate s c.val va = .localPage part pg off e w)
    (place : placeByte s part pg off = (ch, byte)) (serve_ : pos = servePos s ch (byte / 4096) false) (hpos : pos < 80) {ok1 ok2 : Bool}
    (bad : (ok1 && ok2) = false) : ∃ t, exec (.crcAttribution c va ok1 ok2) s = .next t ∧ t.mem.cells = s.mem.cells ∧
      (getCtrl t pos).crcMemory = (getCtrl s pos).crcMemory + 1 ∧ (getCtrl t pos).crcTransport = (getCtrl s pos).crcTransport := by
  have run : exec (.crcAttribution c va ok1 ok2) s = done (attribCrc s c.val va (ok1 && ok2)) := congrArg done (if_pos up)
  rw [bad, attribCrc_at page place serve_, if_neg Bool.false_ne_true] at run
  obtain ⟨transport, memory⟩ := readTwice_counts (s := s) (byte := byte) hpos
  have own := getCtrl_modCtrl_same (s := readTwice byte pos s) hpos fun k => { k with crcMemory := k.crcMemory + 1 }
  obtain ⟨x, hx⟩ : ∃ x, x = modCtrl (readTwice byte pos s) pos fun k => { k with crcMemory := k.crcMemory + 1 } := ⟨_, rfl⟩
  have cells : x.mem.cells = s.mem.cells := by
    rw [hx]
    rfl
  rw [← hx] at run own
  have noted := frame_postNotice (recordEvent x 2 0x21 2 (136 + pos) (some c.val) [(0x40C + 24 * pos, 1)] none) 0x0004 (some c.val)
    (lossBody va.toNat ((getCtx (recordEvent x 2 0x21 2 (136 + pos) (some c.val) [(0x40C + 24 * pos, 1)] none) c.val).led.committed.toNat + 1) ch)
  have recorded := frame_recordEvent x 2 0x21 2 (136 + pos) (some c.val) [(0x40C + 24 * pos, 1)] none
  have mem := (recorded .mem (by decide)).trans (noted .mem (by decide))
  refine ⟨_, run, ?_, ?_, ?_⟩
  · rw [settle_mem, mem, cells]
  · rw [getCtrl_congr ((settle_mem _).trans mem), own, memory]
  · rw [getCtrl_congr ((settle_mem _).trans mem), own, transport]

theorem attribution_rests (rest : AtRest s) (h : belfryUp s = false ∨ ∀ p g o e w, translate s c.val va ≠ .localPage p g o e w)
    (a b : Bool) : exec (.crcAttribution c va a b) s = .next s := by
  have run : exec (.crcAttribution c va a b) s = done (if belfryUp s then attribCrc s c.val va (a && b) else s) := rfl
  have still : (if belfryUp s then attribCrc s c.val va (a && b) else s) = s := by
    obtain down | far := h
    · rw [down, if_neg Bool.false_ne_true]
    · split
      · unfold attribCrc
        split
        · rename_i p g o e w eq
          exact absurd eq (far p g o e w)
        · rfl
      · rfl
  rw [run, still, done_atRest rest]

end

end Sys2Proof.Machine
end

section
-- One proof after the other: a text of this length has more proofs waiting at once than the check has threads for.
set_option Elab.async false
/-! PROOFS. A channel begins to move, and its slots are copied (R198, R211). -/
namespace Sys2Proof.Machine

/-! ### The start of a migration (R211) -/

section
variable {s : State} {ch : Chan} {m : Bool} {src g tg : Nat}

/-- The entry of a channel that the map names in service at a position. -/
def servedAt (p : Nat) : ChanEntry := { ctrl := p % 20, status := .inService }

theorem chanMap_setChanMap (h : Hub) {n : Nat} (hn : n < 72) (e : ChanEntry) :
    (setChanMap h n e).chanMap.getD n { ctrl := 0, status := .unmapped } = e := vector_getD_set_same _ hn _ _

/-- What a migration that begins leaves. -/
def migBegun (s : State) (ch src tg : Nat) (m : Bool) : State :=
  let s := recordEvent s 2 0x22 2 (136 + src) none [] (some (0, if m then 20 else 5))
  let s := modHub s fun h => setChanMap h ch { ctrl := src % 20, status := .migrating }
  let s := modCtrl s src fun k => { k with role := .migrating, migPtr := 0, due := none, noSpare := false }
  let s := modCtrl s tg fun k => { k with role := .migrating, migPtr := 0, selfRefresh := false }
  modMem s fun x => { x with migs := { chan := ch, source := src, target := tg, mapOut := m } :: x.migs }

theorem migStart_guard (entry : s.hub.chanMap.getD ch.val { ctrl := 0, status := .unmapped } = { ctrl := src % 20, status := .inService })
    (up : belfryUp s = true) (due : (getCtrl s src).due = some m) (group : posGroup s src = some g) :
    (if (s.hub.chanMap.getD ch.val { ctrl := 0, status := .unmapped }).status == .inService && belfryUp s && (getCtrl s src).due == some m
      then posGroup s src else none) = some g := by
  rw [entry, up, due, group]
  cases m <;> rfl

theorem migStart_begins (hsrc : src = chanPos s ch.val)
    (entry : s.hub.chanMap.getD ch.val { ctrl := 0, status := .unmapped } = { ctrl := src % 20, status := .inService })
    (up : belfryUp s = true) (due : (getCtrl s src).due = some m) (group : posGroup s src = some g) (free : groupBusy s g = false)
    (spare : groupSpare s g = some tg) (ok : Bool) :
    migStart s ch.val m ok = if ok then migBegun s ch.val src tg m else failPos s tg := by
  unfold migStart
  dsimp only
  rw [← hsrc, migStart_guard entry up due group]
  dsimp only
  rw [free, if_neg Bool.false_ne_true, spare]
  dsimp only
  cases ok with
  | false => rfl
  | true => rw [if_neg (by decide), if_pos rfl, entry, migBegun]

theorem migStart_waits (hsrc : src = chanPos s ch.val)
    (entry : s.hub.chanMap.getD ch.val { ctrl := 0, status := .unmapped } = { ctrl := src % 20, status := .inService })
    (up : belfryUp s = true) (due : (getCtrl s src).due = some m) (group : posGroup s src = some g)
    (h : groupBusy s g = true ∨ groupSpare s g = none) (ok : Bool) : migStart s ch.val m ok = s := by
  have stuck : (if groupBusy s g then none else groupSpare s g) = none := by
    obtain busy | none_ := h
    · rw [busy, if_pos rfl]
    · rw [none_, ite_self]
  unfold migStart
  dsimp only
  rw [← hsrc, migStart_guard entry up due group]
  dsimp only
  rw [stuck]

theorem migStart_notDue (hsrc : src = chanPos s ch.val) (due : (getCtrl s src).due ≠ some m) (ok : Bool) : migStart s ch.val m ok = s := by
  have off : ((getCtrl s src).due == some m) = false := by simpa using due
  unfold migStart
  dsimp only
  rw [← hsrc, off, Bool.and_false, if_neg Bool.false_ne_true]

theorem migBegun_moves (hs : src < 80) (ht : tg < 80) (ne : src ≠ tg) :
    (migBegun s ch.val src tg m).mem.cells = s.mem.cells ∧
    (migBegun s ch.val src tg m).mem.migs = { chan := ch.val, source := src, target := tg, mapOut := m } :: s.mem.migs ∧
    (getCtrl (migBegun s ch.val src tg m) src).role = .migrating ∧ (getCtrl (migBegun s ch.val src tg m) tg).role = .migrating ∧
    (getCtrl (migBegun s ch.val src tg m) src).migPtr = 0 ∧ (getCtrl (migBegun s ch.val src tg m) src).due = none ∧
    (migBegun s ch.val src tg m).ctxs = s.ctxs ∧
    (migBegun s ch.val src tg m).hub.chanMap.getD ch.val { ctrl := 0, status := .unmapped } = { ctrl := src % 20, status := .migrating } := by
  have frame := frame_recordEvent s 2 0x22 2 (136 + src) none [] (some (0, if m then 20 else 5))
  unfold migBegun
  generalize recordEvent s 2 0x22 2 (136 + src) none [] (some (0, if m then 20 else 5)) = w at frame
  dsimp only
  obtain ⟨x, hx⟩ : ∃ x, x = modHub w fun h => setChanMap h ch.val { ctrl := src % 20, status := .migrating } := ⟨_, rfl⟩
  have mem : x.mem = s.mem := by
    rw [hx]
    exact frame .mem (by decide)
  have ctxs : x.ctxs = s.ctxs := by
    rw [hx]
    exact frame .ctxs (by decide)
  have map_ : x.hub.chanMap.getD ch.val { ctrl := 0, status := .unmapped } = { ctrl := src % 20, status := .migrating } := by
    rw [hx]
    exact chanMap_setChanMap w.hub ch.isLt _
  rw [← hx]
  have atSrc : ∀ f g : Ctrl → Ctrl, getCtrl (modCtrl (modCtrl x src f) tg g) src = f (getCtrl x src) := fun f g => by
    rw [getCtrl_modCtrl_other ne, getCtrl_modCtrl_same hs]
  have atTg : ∀ f g : Ctrl → Ctrl, getCtrl (modCtrl (modCtrl x src f) tg g) tg = g (getCtrl x tg) := fun f g => by
    rw [getCtrl_modCtrl_same ht, getCtrl_modCtrl_other ne.symm]
  have own : ∀ (f g : Ctrl → Ctrl) (l : List Migration) (q : Nat),
      getCtrl (modMem (modCtrl (modCtrl x src f) tg g) fun y => { y with migs := l }) q = getCtrl (modCtrl (modCtrl x src f) tg g) q :=
    fun _ _ _ _ => rfl
  have cells : x.mem.cells = s.mem.cells := congrArg Mem.cells mem
  have migs : x.mem.migs = s.mem.migs := congrArg Mem.migs mem
  refine ⟨cells, ?_, ?_, ?_, ?_, ?_, ctxs, map_⟩
  · exact congrArg ({ chan := ch.val, source := src, target := tg, mapOut := m } :: ·) migs
  · exact congrArg Ctrl.role ((own _ _ _ src).trans (atSrc _ _))
  · exact congrArg Ctrl.role ((own _ _ _ tg).trans (atTg _ _))
  · exact congrArg Ctrl.migPtr ((own _ _ _ src).trans (atSrc _ _))
  · exact congrArg Ctrl.due ((own _ _ _ src).trans (atSrc _ _))

/-- A due action of a channel with a free spare in its group begins a migration. -/
theorem migrationStart_begins (hsrc : src = chanPos s ch.val) (hs : src < 80) (ht : tg < 80) (ne : src ≠ tg)
    (entry : s.hub.chanMap.getD ch.val { ctrl := 0, status := .unmapped } = { ctrl := src % 20, status := .inService })
    (up : belfryUp s = true) (due : (getCtrl s src).due = some m) (group : posGroup s src = some g) (free : groupBusy s g = false)
    (spare : groupSpare s g = some tg) : ∃ t, exec (.migrationStart ch m true) s = .next t ∧ t.mem.cells = s.mem.cells ∧
      t.mem.migs = { chan := ch.val, source := src, target := tg, mapOut := m } :: s.mem.migs ∧ (getCtrl t src).role = .migrating ∧
      (getCtrl t tg).role = .migrating ∧ (getCtrl t src).migPtr = 0 ∧ (getCtrl t src).due = none ∧ t.ctxs = s.ctxs ∧
      t.hub.chanMap.getD ch.val { ctrl := 0, status := .unmapped } = { ctrl := src % 20, status := .migrating } := by
  have run : exec (.migrationStart ch m true) s = done (migStart s ch.val m true) := rfl
  rw [migStart_begins hsrc entry up due group free spare, if_pos rfl] at run
  obtain ⟨cells, migs, a, b, c, d, ctxs, map_⟩ := migBegun_moves (s := s) (ch := ch) (m := m) hs ht ne
  generalize migBegun s ch.val src tg m = w at *
  have same := fun q => getCtrl_congr (settle_mem w) q
  refine ⟨_, run, ?_, ?_, ?_, ?_, ?_, ?_, ?_, ?_⟩
  · rw [settle_mem, cells]
  · rw [settle_mem, migs]
  · rw [same, a]
  · rw [same, b]
  · rw [same, c]
  · rw [same, d]
  · rw [settle_ctxs, ctxs]
  · rw [(settle_settled w).hub.chanMap, map_]

/-- A controller that has failed for good. -/
def failedCtrl (k : Ctrl) : Ctrl := { k with role := .failed, chan := none, due := none, selfRefresh := false, training := false }

theorem failPos_eq (s : State) (p : Nat) : ∃ d, failPos s p = { modCtrl s p failedCtrl with diag := d } := ⟨_, rfl⟩

theorem failPos_moves (s : State) {p : Nat} (hp : p < 80) : (failPos s p).mem = { s.mem with ctrl := (failPos s p).mem.ctrl } ∧
    (failPos s p).hub = s.hub ∧ (failPos s p).ctxs = s.ctxs ∧ (getCtrl (failPos s p) p).role = .failed ∧
    ∀ q, q ≠ p → getCtrl (failPos s p) q = getCtrl s q := by
  obtain ⟨d, eq⟩ := failPos_eq s p
  have own : ∀ q, getCtrl (failPos s p) q = getCtrl (modCtrl s p failedCtrl) q := fun q => by rw [eq, getCtrl, getCtrl]
  refine ⟨by rw [eq]; rfl, by rw [eq]; rfl, by rw [eq]; rfl, ?_, fun q hq => ?_⟩
  · rw [own, getCtrl_modCtrl_same hp, failedCtrl]
  · rw [own, getCtrl_modCtrl_other hq]

/-- A target that does not come to service is marked failed, and the channel stays. -/
theorem migrationStart_fails (hsrc : src = chanPos s ch.val) (ht : tg < 80)
    (entry : s.hub.chanMap.getD ch.val { ctrl := 0, status := .unmapped } = { ctrl := src % 20, status := .inService })
    (up : belfryUp s = true) (due : (getCtrl s src).due = some m) (group : posGroup s src = some g) (free : groupBusy s g = false)
    (spare : groupSpare s g = some tg) : ∃ t, exec (.migrationStart ch m false) s = .next t ∧ t.mem.cells = s.mem.cells ∧
      t.mem.migs = s.mem.migs ∧ (getCtrl t tg).role = .failed ∧ t.hub.chanMap = s.hub.chanMap := by
  have run : exec (.migrationStart ch m false) s = done (migStart s ch.val m false) := rfl
  rw [migStart_begins hsrc entry up due group free spare, if_neg Bool.false_ne_true] at run
  obtain ⟨mem, hub, -, role, -⟩ := failPos_moves s ht
  generalize failPos s tg = w at *
  refine ⟨_, run, ?_, ?_, ?_, ?_⟩
  · rw [settle_mem, mem]
  · rw [settle_mem, mem]
  · rw [getCtrl_congr (settle_mem w), role]
  · rw [(settle_settled w).hub.chanMap, hub]

end

/-! ### A slot is copied (R211) -/

theorem memRead_append (m : Memory) (a x y : Nat) : memRead m a (x + y) = memRead m a x ++ memRead m (a + x) y := by
  unfold memRead
  rw [List.range_add, List.map_append, List.map_map]
  congr 1
  exact List.map_congr_left fun i _ => by rw [Function.comp_apply, Nat.add_assoc]

theorem memRead_congr {m m' : Memory} {a b n : Nat} (h : ∀ i, i < n → memGet m' (b + i) = memGet m (a + i)) : memRead m' b n = memRead m a n :=
  List.map_congr_left fun i hi => h i (List.mem_range.mp hi)

theorem memRead_length (m : Memory) (a n : Nat) : (memRead m a n).length = n := by
  rw [memRead, List.length_map, List.length_range]

section
variable {s u v : State} {src dst j n : Nat} {e1 e2 left : SymErr}

theorem injects_lifeAdds (l : List (Nat × Nat)) (s : State) : (l.foldl (fun s p => lifeAdd s p.1 p.2) s).diag.inject = s.diag.inject := by
  induction l generalizing s with
  | nil => rfl
  | cons p l ih => exact ih _

theorem noInjection_tally (h : NoInjection s) (unit : Nat) (life : List (Nat × Nat)) : NoInjection (tally s unit life) := fun i => by
  unfold tally
  rw [takeAttrib_none h]
  dsimp only
  rw [if_neg Bool.false_ne_true, injectAt, injects_lifeAdds]
  exact h i

/-- A block copied, of which at most corrected symbols were bad: it stands at the target as it stands at the source. -/
theorem copyBlock_copies (h : NoInjection s) (hs : src < 80) (ne : src ≠ dst) (hr : readErrs e1 e2 = (left, n, false))
    (clean : ∀ i, errAt left i = 0) : NoInjection (copyBlock s src dst j e1 e2) ∧
      (copyBlock s src dst j e1 e2).mem.cells =
        memWrite s.mem.cells (cellAddr dst (j * 256)) (memRead s.mem.cells (cellAddr src (j * 256)) 256) ∧
      (getCtrl (copyBlock s src dst j e1 e2) src).migPtr = (getCtrl s src).migPtr ∧
      (getCtrl (copyBlock s src dst j e1 e2) src).corr = (getCtrl s src).corr + BitVec.ofNat 32 n := by
  obtain ⟨state, block⟩ := controllerRead_corrects (pos := src) (j := j) h hr clean
  have block := (block fun _ => 0).trans (readBlockAt_plain _ _ _ _)
  obtain ⟨lines, miss, counts⟩ := rdNoted_eq j n false (getCtrl s src)
  obtain ⟨r, hr'⟩ : ∃ r, r = controllerRead s src j none e1 e2 := ⟨_, rfl⟩
  rw [← hr'] at state block
  have mem : r.1.mem = (modCtrl s src (rdNoted j n false)).mem := by
    rw [state]
    split
    · rfl
    · exact frame_tally _ _ _ .mem (by decide)
  have none_ : NoInjection r.1 := by
    have counted : NoInjection (modCtrl s src (rdNoted j n false)) := h
    rw [state]
    split
    · exact counted
    · exact noInjection_tally counted _ _
  have own : getCtrl r.1 src = rdNoted j n false (getCtrl s src) := by rw [getCtrl_congr mem, getCtrl_modCtrl_same hs]
  have cells : r.1.mem.cells = s.mem.cells := (congrArg Mem.cells mem).trans rfl
  obtain ⟨w, hw⟩ : ∃ w, w = controllerWrite r.1 dst j none true r.2.block := ⟨_, rfl⟩
  have written : w.mem.cells = memWrite s.mem.cells (cellAddr dst (j * 256)) (memRead s.mem.cells (cellAddr src (j * 256)) 256) := by
    have data : r.2.block.data = memRead s.mem.cells (cellAddr src (j * 256)) 256 := by rw [block]
    rw [← data, ← cells, hw]
    generalize r.2.block = b
    rfl
  have kept : getCtrl w src = getCtrl r.1 src := by
    rw [hw, controllerWrite_eq, getCtrl_modCtrl_other ne]
    rfl
  have calm : NoInjection w := noInjection_congr none_ (hw ▸ frame_controllerWrite r.1 dst j none true r.2.block .diag (by decide))
  have out : ∃ k, copyBlock s src dst j e1 e2 = modMem w fun m => { m with sealKey := k } := by
    unfold copyBlock
    dsimp only
    rw [← hr', ← hw]
    split
    · exact ⟨_, rfl⟩
    · exact ⟨w.mem.sealKey, rfl⟩
  obtain ⟨k, out⟩ := out
  rw [out]
  have same : getCtrl (modMem w fun m => { m with sealKey := k }) src = getCtrl r.1 src := kept
  refine ⟨calm, written, ?_, ?_⟩
  · rw [same, own, counts]
  · rw [same, own, counts]

/-- The first `n` blocks of a slot have been copied. -/
structure CopiedTo (s : State) (src dst sl : Nat) (cnt : Nat → Nat) (n : Nat) (u : State) : Prop where
  none   : NoInjection u
  wf     : memoryWf u.mem.cells = true
  copied : memRead u.mem.cells (cellAddr dst (4096 * sl)) (256 * n) = memRead s.mem.cells (cellAddr src (4096 * sl)) (256 * n)
  others : ∀ a, a < cellAddr dst (4096 * sl) ∨ cellAddr dst (4096 * sl) + 256 * n ≤ a → memGet u.mem.cells a = memGet s.mem.cells a
  ptr    : (getCtrl u src).migPtr = (getCtrl s src).migPtr
  corr   : (getCtrl u src).corr = (getCtrl s src).corr + BitVec.ofNat 32 ((List.range n).map cnt).sum

theorem CopiedTo.next {sl k : Nat} {cnt : Nat → Nat} (h : CopiedTo s src dst sl cnt k u) (hs : src < 80) (ne : src ≠ dst)
    (small : sl < 1015808) (hk : k < 16) (hr : readErrs e1 e2 = (left, cnt k, false)) (clean : ∀ i, errAt left i = 0) :
    CopiedTo s src dst sl cnt (k + 1) (copyBlock u src dst (16 * sl + k) e1 e2) := by
  obtain ⟨none_, cells, ptr, corr⟩ := copyBlock_copies (dst := dst) (j := 16 * sl + k) h.none hs ne hr clean
  obtain ⟨t, ht⟩ : ∃ t, t = copyBlock u src dst (16 * sl + k) e1 e2 := ⟨_, rfl⟩
  rw [← ht] at none_ cells ptr corr ⊢
  have at_ : ∀ p, cellAddr p ((16 * sl + k) * 256) = cellAddr p (4096 * sl) + 256 * k := fun p => by
    unfold cellAddr
    omega
  rw [at_, at_] at cells
  obtain ⟨d, hd⟩ : ∃ d, d = memRead u.mem.cells (cellAddr src (4096 * sl) + 256 * k) 256 := ⟨_, rfl⟩
  have len : d.length = 256 := hd ▸ memRead_length _ _ _
  have source : d = memRead s.mem.cells (cellAddr src (4096 * sl) + 256 * k) 256 := by
    rw [hd]
    refine memRead_congr fun i hi => h.others _ ?_
    unfold cellAddr at *
    omega
  rw [← hd] at cells
  have back := memRead_write h.wf (cellAddr dst (4096 * sl) + 256 * k) d
  rw [len] at back
  refine ⟨none_, ?_, ?_, fun a ha => ?_, ptr.trans h.ptr, ?_⟩
  · rw [cells]
    exact memoryWf_write h.wf _ _
  · have before : memRead t.mem.cells (cellAddr dst (4096 * sl)) (256 * k) = memRead u.mem.cells (cellAddr dst (4096 * sl)) (256 * k) := by
      rw [cells]
      exact memRead_congr fun i hi => memGet_write_other d (.inl (by omega))
    rw [show 256 * (k + 1) = 256 * k + 256 from rfl, memRead_append, memRead_append, before, h.copied, ← source, cells, back]
  · have outside : a < cellAddr dst (4096 * sl) + 256 * k ∨ cellAddr dst (4096 * sl) + 256 * k + d.length ≤ a := by
      rw [len]
      omega
    rw [cells, memGet_write_other d outside]
    exact h.others a (by omega)
  · rw [corr, h.corr, List.range_succ, List.map_append, List.sum_append, List.map_singleton, List.sum_singleton, BitVec.ofNat_add,
      BitVec.add_assoc]

/-- The pointer moves behind the blocks of a slot. -/
theorem slotMoved_moves {sl : Nat} (hs : src < 80) (ne : src ≠ dst) : (slotMoved src dst sl s).mem.cells = s.mem.cells ∧
    (getCtrl (slotMoved src dst sl s) src).migPtr = (getCtrl s src).migPtr + 1 ∧
    (getCtrl (slotMoved src dst sl s) src).corr = (getCtrl s src).corr := by
  have out : ∃ x, slotMoved src dst sl s = modCtrl (modCtrl (modMem s fun m => { m with unit := x }) src
      fun k => touchLine { k with migPtr := k.migPtr + 1 } (unitAddr sl) false) dst
      fun k => touchLine { k with migPtr := k.migPtr + 1 } (unitAddr sl) true := ⟨_, rfl⟩
  obtain ⟨x, out⟩ := out
  have own : getCtrl (slotMoved src dst sl s) src = touchLine { getCtrl s src with migPtr := (getCtrl s src).migPtr + 1 } (unitAddr sl) false := by
    rw [out, getCtrl_modCtrl_other ne, getCtrl_modCtrl_same hs]
    rfl
  obtain ⟨lines, miss, noted⟩ := touchLine_eq { getCtrl s src with migPtr := (getCtrl s src).migPtr + 1 } (unitAddr sl) false
  rw [own, noted, out]
  exact ⟨rfl, rfl, rfl⟩

/-- A slot is copied, byte for byte, and the pointer moves. -/
theorem copySlot_copies {sl : Nat} {cnt : Nat → Nat} {f1 f2 : Nat → SymErr} (h : NoInjection s) (wf : memoryWf s.mem.cells = true) (hs : src < 80)
    (ne : src ≠ dst) (small : sl < 1015808)
    (hr : ∀ k, k < 16 → ∃ left, readErrs (f1 k) (f2 k) = (left, cnt k, false) ∧ ∀ i, errAt left i = 0) :
    memRead (copySlot s src dst sl f1 f2).mem.cells (cellAddr dst (4096 * sl)) 4096 = memRead s.mem.cells (cellAddr src (4096 * sl)) 4096 ∧
    (∀ a, a < cellAddr dst (4096 * sl) ∨ cellAddr dst (4096 * sl) + 4096 ≤ a →
      memGet (copySlot s src dst sl f1 f2).mem.cells a = memGet s.mem.cells a) ∧
    (getCtrl (copySlot s src dst sl f1 f2) src).migPtr = (getCtrl s src).migPtr + 1 ∧
    (getCtrl (copySlot s src dst sl f1 f2) src).corr = (getCtrl s src).corr + BitVec.ofNat 32 ((List.range 16).map cnt).sum := by
  have start : CopiedTo s src dst sl cnt 0 s := ⟨h, wf, by simp [memRead], fun _ _ => rfl, rfl, by
    rw [List.range_zero, List.map_nil, List.sum_nil, BitVec.add_zero]⟩
  have all := foldl_range_carries (P := CopiedTo s src dst sl cnt) (f := fun s i => copyBlock s src dst (16 * sl + i) (f1 i) (f2 i)) 16 start
    fun k u hk hu => by
      obtain ⟨left, read, clean⟩ := hr k hk
      exact hu.next hs ne small hk read clean
  rw [copySlot_eq]
  generalize (List.range 16).foldl (fun s i => copyBlock s src dst (16 * sl + i) (f1 i) (f2 i)) s = w at all ⊢
  obtain ⟨cells, ptr, corr⟩ := slotMoved_moves (s := w) (sl := sl) hs ne
  rw [cells, ptr, corr, all.ptr, all.corr]
  exact ⟨all.copied, all.others, rfl, rfl⟩

end

end Sys2Proof.Machine
end

section
-- One proof after the other: a text of this length has more proofs waiting at once than the check has threads for.
set_option Elab.async false
/-! PROOFS. A migration takes its next slot, and when every slot is there the map names the target (R211). -/
namespace Sys2Proof.Machine

/-! ### The next slot (R211 steps 3 and 4) -/

theorem takeAll_tokens {d cls : Nat} : ∀ {l : List Nat} {s t : State}, takeAll d cls l s = some t → TokensOnly s t
  | [], s, t, h => by
    cases h
    rfl
  | b :: l, s, t, h => by
    obtain ⟨u, taken, rest⟩ := Option.bind_eq_some_iff.mp h
    have first := takeTokens_mem taken
    have later := takeAll_tokens rest
    unfold TokensOnly at *
    rw [later, first]

/-- The blocks of a slot with at most one bad symbol. -/
def badIn (l : List (Fin 16 × Fin 260 × Byte)) (k : Nat) : Nat := (l.filter fun p => p.1.val == k).length

theorem slotErrs_corrected {l : List (Fin 16 × Fin 260 × Byte)} (h : l = [] ∨ ∃ b i x, x ≠ 0 ∧ l = [(b, i, x)]) (k : Nat) :
    ∃ left, readErrs (slotErrs l k) (slotErrs [] k) = (left, badIn l k, false) ∧ ∀ i, errAt left i = 0 := by
  obtain rfl | ⟨b, i, x, hx, rfl⟩ := h
  · exact ⟨[], rfl, fun _ => rfl⟩
  · by_cases here : b.val = k
    · obtain ⟨left, read, clean⟩ := readErrs_one (i := i) hx
      have one : ([(b, i, x)] : List (Fin 16 × Fin 260 × Byte)).filter (fun p => p.1.val == k) = [(b, i, x)] :=
        List.filter_cons_of_pos (by simpa using here)
      refine ⟨left, ?_, clean⟩
      rw [slotErrs, one, badIn, one]
      exact read
    · have none_ : ([(b, i, x)] : List (Fin 16 × Fin 260 × Byte)).filter (fun p => p.1.val == k) = [] :=
        List.filter_cons_of_neg (by simpa using here)
      refine ⟨[], ?_, fun _ => rfl⟩
      rw [slotErrs, none_, badIn, none_]
      rfl

theorem badIn_sum {l : List (Fin 16 × Fin 260 × Byte)} (h : l = [] ∨ ∃ b i x, x ≠ 0 ∧ l = [(b, i, x)]) :
    ((List.range 16).map (badIn l)).sum = l.length := by
  obtain rfl | ⟨b, i, x, -, rfl⟩ := h
  · rfl
  · have each : ∀ k, badIn [(b, i, x)] k = if b.val = k then 1 else 0 := fun k => by
      unfold badIn
      by_cases here : b.val = k
      · rw [List.filter_cons_of_pos (by simpa using here), if_pos here]
        rfl
      · rw [List.filter_cons_of_neg (by simpa using here), if_neg here]
        rfl
    have all : ∀ b : Fin 16, ((List.range 16).map fun k => if b.val = k then 1 else 0).sum = 1 := by decide
    rw [show badIn [(b, i, x)] = fun k => if b.val = k then 1 else 0 from funext each, all]
    rfl

section
variable {s : State} {ch : Chan} {g : Migration}

theorem migCopy_none (h : migOf s ch.val = none) (e1 e2 : Nat → SymErr) : migCopy s ch.val e1 e2 = s := by rw [migCopy, h]

theorem migCopy_done (h : migOf s ch.val = some g) (all : 1015808 ≤ (getCtrl s g.source).migPtr.toNat) (e1 e2 : Nat → SymErr) :
    migCopy s ch.val e1 e2 = s := by
  unfold migCopy
  rw [h]
  exact if_pos all

theorem migCopy_waits (h : migOf s ch.val = some g) (more : (getCtrl s g.source).migPtr.toNat < 1015808)
    (none_ : takeAll (g.source / 20) 3 [8, 8, 8, 8] s = none) (e1 e2 : Nat → SymErr) :
    migCopy s ch.val e1 e2 = holdTokens s (g.source / 20) 3 := by
  have go : ¬ slotsPerChan ≤ (getCtrl s g.source).migPtr.toNat := Nat.not_le.mpr more
  unfold migCopy
  rw [h]
  dsimp only
  rw [if_neg go, none_]

theorem migCopy_copies {v : State} (h : migOf s ch.val = some g) (more : (getCtrl s g.source).migPtr.toNat < 1015808)
    (taken : takeAll (g.source / 20) 3 [8, 8, 8, 8] s = some v) (e1 e2 : Nat → SymErr) :
    migCopy s ch.val e1 e2 = copySlot v g.source g.target (getCtrl s g.source).migPtr.toNat e1 e2 := by
  have go : ¬ slotsPerChan ≤ (getCtrl s g.source).migPtr.toNat := Nat.not_le.mpr more
  unfold migCopy
  rw [h]
  dsimp only
  rw [if_neg go, taken]

/-- The slot at the pointer is copied whole, and a bad symbol of it is corrected. -/
theorem migrationSlotCopy_copies {l : List (Fin 16 × Fin 260 × Byte)} (h : migOf s ch.val = some g) (hs : g.source < 80)
    (ne : g.source ≠ g.target) (more : (getCtrl s g.source).migPtr.toNat < 1015808) (none_ : NoInjection s)
    (errs : l = [] ∨ ∃ b i x, x ≠ 0 ∧ l = [(b, i, x)]) (tokens : (takeAll (g.source / 20) 3 [8, 8, 8, 8] s).isSome = true)
    (wf : memoryWf s.mem.cells = true) : ∃ t n, n = (getCtrl s g.source).migPtr.toNat ∧ exec (.migrationSlotCopy ⟨ch, l, []⟩) s = .next t ∧
      memRead t.mem.cells (cellAddr g.target (4096 * n)) 4096 = memRead s.mem.cells (cellAddr g.source (4096 * n)) 4096 ∧
      (∀ a, a < cellAddr g.target (4096 * n) ∨ cellAddr g.target (4096 * n) + 4096 ≤ a → memGet t.mem.cells a = memGet s.mem.cells a) ∧
      (getCtrl t g.source).migPtr.toNat = n + 1 ∧ (getCtrl t g.source).corr = (getCtrl s g.source).corr + BitVec.ofNat 32 l.length ∧
      t.ctxs = s.ctxs := by
  obtain ⟨v, taken⟩ := Option.isSome_iff_exists.mp tokens
  have paid := frame_takeAll taken
  have mem := takeAll_tokens taken
  have plain : NoInjection v := noInjection_congr none_ (paid .diag (by decide))
  have cells : v.mem.cells = s.mem.cells := paid .cells (by decide)
  have same : getCtrl v g.source = getCtrl s g.source := by rw [getCtrl, mem, getCtrl]
  obtain ⟨n, hn⟩ : ∃ n, n = (getCtrl s g.source).migPtr.toNat := ⟨_, rfl⟩
  have run : exec (.migrationSlotCopy ⟨ch, l, []⟩) s = done (migCopy s ch.val (slotErrs l) (slotErrs [])) := rfl
  rw [migCopy_copies h more taken, ← hn] at run
  obtain ⟨read, others, ptr, corr⟩ := copySlot_copies (dst := g.target) (sl := n) (cnt := badIn l) (f1 := slotErrs l) (f2 := slotErrs [])
    plain (cells ▸ wf) hs ne (hn ▸ more) fun k _ => slotErrs_corrected errs k
  have frame := frame_copySlot v g.source g.target n (slotErrs l) (slotErrs [])
  generalize copySlot v g.source g.target n (slotErrs l) (slotErrs []) = w at *
  refine ⟨_, n, hn, run, ?_, fun a ha => ?_, ?_, ?_, ?_⟩
  · rw [settle_mem, read, cells]
  · rw [settle_mem, others a ha, cells]
  · rw [getCtrl_congr (settle_mem w), ptr, same, BitVec.toNat_add, ← hn]
    exact Nat.mod_eq_of_lt (by simp; omega)
  · rw [getCtrl_congr (settle_mem w), corr, same, badIn_sum errs]
  · rw [settle_ctxs]
    exact (paid .ctxs (by decide)).trans (frame .ctxs (by decide))

end

/-! ### The end of a migration (R211 steps 5 and 6) -/

section
variable {s : State} {p q : Nat}

theorem memGet_clearFrom_here (m : Mem) (p : Nat) {k : Nat} (hk : k < 2 ^ 32) : memGet (clearFrom m p 0).cells (cellAddr p k) = 0 := by
  have at_ : cellAddr p (4096 * 0) ≤ cellAddr p k ∧ cellAddr p k < cellAddr (p + 1) 0 := by
    unfold cellAddr
    omega
  exact (memGet_clear m.cells _ _ _).trans (if_pos at_)

theorem memGet_clearFrom_other (m : Mem) {p q : Nat} (ne : q ≠ p) (sl : Nat) {k : Nat} (hk : k < 2 ^ 32) :
    memGet (clearFrom m p sl).cells (cellAddr q k) = memGet m.cells (cellAddr q k) := by
  have at_ : ¬ (cellAddr p (4096 * sl) ≤ cellAddr q k ∧ cellAddr q k < cellAddr (p + 1) 0) := by
    unfold cellAddr
    omega
  exact (memGet_clear m.cells _ _ _).trans (if_neg at_)

/-- What an old position has once it has been retrained. -/
def retrained (now : Nat) (rs : List Nat) (rate : BitVec 2) (eye : Word) (k : Ctrl) : Ctrl := { k with
  chan := none, role := .spare, retrain := k.retrain + 1, retrains := now :: rs, rate := rate, eye := eye
  selfRefresh := true, lines := [], migPtr := 0 }

/-- The old position is retrained. -/
def sourceRetrained (s : State) (p : Nat) (rate : BitVec 2) (eye : Word) : State :=
  lifeAdd (modCtrl (modMem s fun m => clearFrom m p 0) p (retrained s.ticks (recentRetrains s (getCtrl s p)) rate eye)) (0x410 + 24 * p) 1

theorem retireSource_eq (s : State) (p : Nat) (mapOut : Bool) (rate : BitVec 2) (eye : Word) : retireSource s p mapOut rate eye =
    if mapOut then failPos (modMem s fun m => clearFrom m p 0) p
    else if !trainedOk rate eye ∨ s.mem.policy.retrainLimit < (s.ticks :: recentRetrains s (getCtrl s p)).length
      then failPos (sourceRetrained s p rate eye) p else sourceRetrained s p rate eye := rfl

/-- An old position reads zeros, and is a spare again or failed. -/
theorem retireSource_moves (hp : p < 80) (mapOut : Bool) (rate : BitVec 2) (eye : Word) :
    (retireSource s p mapOut rate eye).mem.cells = (clearFrom s.mem p 0).cells ∧
    (retireSource s p mapOut rate eye).mem.migs = s.mem.migs ∧ (retireSource s p mapOut rate eye).hub = s.hub ∧
    (retireSource s p mapOut rate eye).ctxs = s.ctxs ∧ (∀ q, q ≠ p → getCtrl (retireSource s p mapOut rate eye) q = getCtrl s q) ∧
    (getCtrl (retireSource s p mapOut rate eye) p).role = (if mapOut = false ∧ trainedOk rate eye = true ∧
      (recentRetrains s (getCtrl s p)).length < s.mem.policy.retrainLimit then .spare else .failed) := by
  have failed : ∀ w : State, w.mem.cells = (clearFrom s.mem p 0).cells → w.mem.migs = s.mem.migs → w.hub = s.hub → w.ctxs = s.ctxs →
      (∀ q, q ≠ p → getCtrl w q = getCtrl s q) → (failPos w p).mem.cells = (clearFrom s.mem p 0).cells ∧
      (failPos w p).mem.migs = s.mem.migs ∧ (failPos w p).hub = s.hub ∧ (failPos w p).ctxs = s.ctxs ∧
      (∀ q, q ≠ p → getCtrl (failPos w p) q = getCtrl s q) ∧ (getCtrl (failPos w p) p).role = .failed := fun w cells migs hub ctxs ctrl => by
    obtain ⟨mem, hub', ctxs', role, other⟩ := failPos_moves w hp
    exact ⟨by rw [mem, cells], by rw [mem, migs], hub'.trans hub, ctxs'.trans ctxs, fun q hq => (other q hq).trans (ctrl q hq), role⟩
  have served : ∀ q, q ≠ p → getCtrl (sourceRetrained s p rate eye) q = getCtrl s q := fun q hq =>
    (getCtrl_modCtrl_other (s := modMem s fun m => clearFrom m p 0) hq _ :)
  have spare : getCtrl (sourceRetrained s p rate eye) p = retrained s.ticks (recentRetrains s (getCtrl s p)) rate eye (getCtrl s p) :=
    (getCtrl_modCtrl_same (s := modMem s fun m => clearFrom m p 0) hp _ :)
  rw [retireSource_eq]
  cases mapOut with
  | true =>
    rw [if_pos rfl, if_neg fun h => absurd h.1 (by decide)]
    exact failed _ rfl rfl rfl rfl fun _ _ => rfl
  | false =>
    rw [if_neg Bool.false_ne_true]
    by_cases bad : (!trainedOk rate eye) = true ∨ s.mem.policy.retrainLimit < (s.ticks :: recentRetrains s (getCtrl s p)).length
    · rw [if_pos bad, if_neg]
      · exact failed _ rfl rfl rfl rfl served
      · rintro ⟨-, ok, few⟩
        obtain untrained | many := bad
        · rw [ok] at untrained
          exact absurd untrained (by decide)
        · rw [List.length_cons] at many
          omega
    · rw [if_neg bad, if_pos]
      · exact ⟨rfl, rfl, rfl, rfl, served, by rw [spare]; rfl⟩
      · rw [not_or, List.length_cons] at bad
        refine ⟨rfl, ?_, by omega⟩
        simpa using bad.1

/-- The map names the target, which takes the channel. -/
def migSwitched (s : State) (ch tg : Nat) : State :=
  countSwitchIn (modCtrl (modMem (mapChange s fun h => setChanMap h ch { ctrl := tg % 20, status := .inService })
    fun m => { m with migs := m.migs.filter fun q => q.chan != ch }) tg
    fun k => { k with role := .inService, chan := some ch, migPtr := 0, scrubPtr := 0, scrubBlk := 0 }) tg

theorem migSwitched_moves (hq : q < 80) (ch : Chan) : (migSwitched s ch.val q).mem.cells = s.mem.cells ∧
    (migSwitched s ch.val q).mem.migs = s.mem.migs.filter (fun g => g.chan != ch.val) ∧ (migSwitched s ch.val q).mem.policy = s.mem.policy ∧
    (migSwitched s ch.val q).ctxs = s.ctxs ∧ (migSwitched s ch.val q).ticks = s.ticks ∧ (migSwitched s ch.val q).hub.mapGen = s.hub.mapGen + 2 ∧
    (migSwitched s ch.val q).hub.chanMap.getD ch.val { ctrl := 0, status := .unmapped } = { ctrl := q % 20, status := .inService } ∧
    (getCtrl (migSwitched s ch.val q) q).chan = some ch.val ∧ (getCtrl (migSwitched s ch.val q) q).role = .inService ∧
    ∀ r, r ≠ q → getCtrl (migSwitched s ch.val q) r = getCtrl s r := by
  have own := getCtrl_modCtrl_same (s := modMem (mapChange s fun h => setChanMap h ch.val { ctrl := q % 20, status := .inService })
    fun m => { m with migs := m.migs.filter fun q => q.chan != ch.val }) hq
    fun k => { k with role := .inService, chan := some ch.val, migPtr := 0, scrubPtr := 0, scrubBlk := 0 }
  refine ⟨rfl, rfl, rfl, rfl, rfl, rfl, chanMap_setChanMap s.hub ch.isLt _, ?_, ?_, fun r hr => ?_⟩
  · exact (congrArg Ctrl.chan own :)
  · exact (congrArg Ctrl.role own :)
  · exact (getCtrl_modCtrl_other (s := modMem (mapChange s fun h => setChanMap h ch.val { ctrl := q % 20, status := .inService })
      fun m => { m with migs := m.migs.filter fun q => q.chan != ch.val }) hr
      (fun k => { k with role := .inService, chan := some ch.val, migPtr := 0, scrubPtr := 0, scrubBlk := 0 }) :)

end

section
variable {s : State} {ch : Chan} {g : Migration}

theorem migDone_none (h : migOf s ch.val = none) (rate : BitVec 2) (eye : Word) : migDone s ch.val rate eye = s := by rw [migDone, h]

theorem migDone_early (h : migOf s ch.val = some g) (more : (getCtrl s g.source).migPtr.toNat < 1015808) (rate : BitVec 2) (eye : Word) :
    migDone s ch.val rate eye = s := by
  unfold migDone
  rw [h]
  exact if_pos more

theorem migDone_switches (h : migOf s ch.val = some g) (all : 1015808 ≤ (getCtrl s g.source).migPtr.toNat) (rate : BitVec 2) (eye : Word) :
    migDone s ch.val rate eye = postNotice (retireSource (migSwitched s ch.val g.target) g.source g.mapOut rate eye) 0x000A none
      (channelBody ch.val (g.source % 20) (some (g.target % 20)) (if g.mapOut then 2 else 1)) := by
  have go : ¬ (getCtrl s g.source).migPtr.toNat < slotsPerChan := Nat.not_lt.mpr all
  unfold migDone
  rw [h]
  dsimp only
  rw [if_neg go]
  rfl

/-- When every slot is there the map names the target, in one change, and the old position reads zeros. -/
theorem migrationComplete_switches (h : migOf s ch.val = some g) (hs : g.source < 80) (ht : g.target < 80) (ne : g.source ≠ g.target)
    (all : 1015808 ≤ (getCtrl s g.source).migPtr.toNat) (rate : BitVec 2) (eye : Word) :
    ∃ t, exec (.migrationComplete ch rate eye) s = .next t ∧
      t.hub.chanMap.getD ch.val { ctrl := 0, status := .unmapped } = { ctrl := g.target % 20, status := .inService } ∧
      t.hub.mapGen = s.hub.mapGen + 2 ∧ (getCtrl t g.target).chan = some ch.val ∧ (getCtrl t g.target).role = .inService ∧
      (∀ k, k < 2 ^ 32 → memGet t.mem.cells (cellAddr g.source k) = 0 ∧
        ∀ q, q ≠ g.source → memGet t.mem.cells (cellAddr q k) = memGet s.mem.cells (cellAddr q k)) ∧
      (∀ q ∈ t.mem.migs, q.chan ≠ ch.val) ∧
      (getCtrl t g.source).role = (if g.mapOut = false ∧ trainedOk rate eye = true ∧
        (recentRetrains s (getCtrl s g.source)).length < s.mem.policy.retrainLimit then .spare else .failed) ∧ t.ctxs = s.ctxs := by
  have run : exec (.migrationComplete ch rate eye) s = done (migDone s ch.val rate eye) := rfl
  rw [migDone_switches h all] at run
  obtain ⟨cells, migs, policy, ctxs, ticks, mapGen, map_, chan, role, other⟩ := migSwitched_moves (s := s) ht ch
  generalize migSwitched s ch.val g.target = w at *
  obtain ⟨cells', migs', hub', ctxs', other', role'⟩ := retireSource_moves (s := w) hs g.mapOut rate eye
  have recent : recentRetrains w (getCtrl w g.source) = recentRetrains s (getCtrl s g.source) := by
    rw [other _ ne]
    unfold recentRetrains
    rw [ticks]
  rw [recent, policy] at role'
  generalize retireSource w g.source g.mapOut rate eye = x at *
  obtain ⟨b, hb⟩ : ∃ b, b = channelBody ch.val (g.source % 20) (some (g.target % 20)) (if g.mapOut then 2 else 1) := ⟨_, rfl⟩
  rw [← hb] at run
  have noted := frame_postNotice x 0x000A none b
  generalize postNotice x 0x000A none b = y at run noted
  have mem : (settle y).mem = x.mem := (settle_mem y).trans (noted .mem (by decide))
  have hub : y.hub = w.hub := Eq.trans (noted .hub (by decide)) hub'
  have kept := (settle_settled y).hub
  refine ⟨_, run, ?_, ?_, ?_, ?_, fun k hk => ⟨?_, fun q hq => ?_⟩, fun q hq => ?_, ?_, ?_⟩
  · rw [kept.chanMap, hub, map_]
  · rw [kept.mapGen, hub, mapGen]
  · rw [getCtrl_congr mem, other' _ ne.symm, chan]
  · rw [getCtrl_congr mem, other' _ ne.symm, role]
  · rw [mem, cells']
    exact memGet_clearFrom_here w.mem g.source hk
  · rw [mem, cells']
    exact (memGet_clearFrom_other w.mem hq 0 hk).trans (by rw [cells])
  · rw [mem, migs', migs] at hq
    simpa using (List.mem_filter.mp hq).2
  · rw [getCtrl_congr mem, role']
  · rw [settle_ctxs]
    exact Eq.trans (noted .ctxs (by decide)) (ctxs'.trans ctxs)

end

end Sys2Proof.Machine
end

section
-- One proof after the other: a text of this length has more proofs waiting at once than the check has threads for.
set_option Elab.async false
/-! PROOFS. What the accesses to a lost channel leave (R213): however they end, the map, the roles of the controllers and the jobs of the
contexts stay. -/
namespace Sys2Proof.Machine

/-- What decides over a context that a channel's loss may fence. -/
structure JobKept (a b : Context) : Prop where
  st      : b.st = a.st
  part    : b.part = a.part
  step    : b.led.st = a.led.st
  records : b.led.records = a.led.records
  peal    : b.peal.st = a.peal.st

theorem JobKept.refl (a : Context) : JobKept a a := ⟨rfl, rfl, rfl, rfl, rfl⟩

theorem JobKept.trans {a b d : Context} (h : JobKept a b) (k : JobKept b d) : JobKept a d :=
  ⟨k.st.trans h.st, k.part.trans h.part, k.step.trans h.step, k.records.trans h.records, k.peal.trans h.peal⟩

/-- Between two states the map, the roles of the controllers and what decides over the contexts stay. -/
structure Unhurt (s t : State) : Prop where
  opt  : t.opt = s.opt
  hub  : t.hub = s.hub
  role : ∀ q, (getCtrl t q).role = (getCtrl s q).role
  chan : ∀ q, (getCtrl t q).chan = (getCtrl s q).chan
  ctx  : ∀ c, JobKept (getCtx s c) (getCtx t c)

section
variable {s t u : State}

theorem Unhurt.refl (s : State) : Unhurt s s := ⟨rfl, rfl, fun _ => rfl, fun _ => rfl, fun _ => .refl _⟩

theorem Unhurt.trans (h : Unhurt s t) (k : Unhurt t u) : Unhurt s u :=
  ⟨k.opt.trans h.opt, k.hub.trans h.hub, fun q => (k.role q).trans (h.role q), fun q => (k.chan q).trans (h.chan q), fun c => (h.ctx c).trans (k.ctx c)⟩

theorem Unhurt.foldl {α : Type} {f : State → α → State} (h : ∀ s a, Unhurt s (f s a)) (l : List α) (s : State) : Unhurt s (l.foldl f s) := by
  induction l generalizing s with
  | nil => exact .refl s
  | cons a l ih => exact (h s a).trans (ih _)

theorem Unhurt.ite {c : Prop} [Decidable c] (h : c → Unhurt s t) (k : ¬c → Unhurt s u) : Unhurt s (if c then t else u) := by
  split
  · exact h ‹_›
  · exact k ‹_›

theorem Unhurt.of_frame {l : List Part} (h : AllBut l s t) (hl : Part.opt ∉ l ∧ Part.hub ∉ l ∧ Part.mem ∉ l ∧ Part.ctxs ∉ l := by decide) :
    Unhurt s t := by
  obtain ⟨ho, hh, hm, hc⟩ := hl
  have mem := getCtrl_congr (h .mem hm)
  exact ⟨h .opt ho, h .hub hh, fun q => by rw [mem], fun q => by rw [mem], fun c => by rw [getCtx_congr (h .ctxs hc)]; exact .refl _⟩

theorem unhurt_modC (s : State) (n : Nat) (f : PCore → PCore) : Unhurt s (modC s n f) := .of_frame (frame_modC s n f)

theorem unhurt_modMem (s : State) {f : Mem → Mem} (h : ∀ m, (f m).ctrl = m.ctrl) : Unhurt s (modMem s f) := by
  have ctrl : ∀ q, getCtrl (modMem s f) q = getCtrl s q := fun q => congrArg (fun v => Vector.getD v q Ctrl.reset) (h s.mem)
  exact ⟨rfl, rfl, fun q => by rw [ctrl], fun q => by rw [ctrl], fun _ => .refl _⟩

theorem unhurt_modCtrl (s : State) (p : Nat) {f : Ctrl → Ctrl} (h : ∀ k, (f k).role = k.role ∧ (f k).chan = k.chan) : Unhurt s (modCtrl s p f) :=
  ⟨rfl, rfl, getCtrl_modCtrl_kept Ctrl.role fun k => (h k).1, getCtrl_modCtrl_kept Ctrl.chan fun k => (h k).2, fun _ => .refl _⟩

theorem unhurt_modCtx (s : State) (c : Nat) {f : Context → Context} (h : ∀ x, JobKept x (f x)) : Unhurt s (modCtx s c f) := by
  refine ⟨rfl, rfl, fun _ => rfl, fun _ => rfl, fun k => ?_⟩
  by_cases hk : k = c
  · subst hk
    by_cases bound : k < 64
    · rw [getCtx_modCtx_same s bound]
      exact h _
    · rw [modCtx_outOfBounds s (by omega)]
      exact .refl _
  · rw [getCtx_modCtx_other s hk]
    exact .refl _

theorem unhurt_modSec (s : State) (c : Nat) (f : CtxSec → CtxSec) : Unhurt s (modSec s c f) :=
  unhurt_modCtx s c fun _ => ⟨rfl, rfl, rfl, rfl, rfl⟩

theorem unhurt_modLed (s : State) (c : Nat) {f : Ledger → Ledger} (h : ∀ l, (f l).st = l.st ∧ (f l).records = l.records) :
    Unhurt s (modLed s c f) := unhurt_modCtx s c fun x => ⟨rfl, rfl, (h x.led).1, (h x.led).2, rfl⟩

/-! ### Memory (R205 to R216) -/

theorem unhurt_controllerRead (s : State) (p j : Nat) (key : Option Nat) (e1 e2 : SymErr) : Unhurt s (controllerRead s p j key e1 e2).1 := by
  have noted : ∀ (v : State) (corr : Nat) (lost : Bool), Unhurt v (modCtrl v p (rdNoted j corr lost)) := fun v corr lost =>
    unhurt_modCtrl v p fun k => by
      obtain ⟨lines, miss, eq⟩ := rdNoted_eq j corr lost k
      rw [eq]
      exact ⟨rfl, rfl⟩
  have drawn : ∀ (v : State) (n : Nat), Unhurt v { v with free := n } := fun v n => .of_frame (frame_free v n)
  have met : Unhurt s (injectedErrs s p j).1 := .of_frame (frame_injectedErrs s p j)
  rw [controllerRead_state]
  refine met.trans ?_
  obtain ⟨corr, hc⟩ : ∃ corr, corr = (readErrs (e1 ++ (injectedErrs s p j).2) e2).2.1 := ⟨_, rfl⟩
  obtain ⟨lost, hl⟩ : ∃ lost, lost = (readErrs (e1 ++ (injectedErrs s p j).2) e2).2.2 := ⟨_, rfl⟩
  rw [← hc, ← hl]
  have read : ∀ v : State, Unhurt v (readNoted key p j corr lost v) := fun v => (drawn v _).trans (noted _ corr lost)
  exact (read _).trans (.ite (fun _ => .refl _) fun _ => .of_frame (frame_tally _ _ _))

theorem unhurt_controllerWrite (s : State) (p j : Nat) (key : Option Nat) (keep : Bool) (b : Block) :
    Unhurt s (controllerWrite s p j key keep b) := by
  rw [controllerWrite_eq]
  refine (unhurt_modMem s (f := fun m => writeBlockAt m p j key keep b) fun _ => rfl).trans (unhurt_modCtrl _ p fun k => ?_)
  obtain ⟨lines, miss, eq⟩ := wrNoted_eq j keep k
  rw [eq]
  exact ⟨rfl, rfl⟩

theorem unhurt_countTag (s : State) (c : Nat) : Unhurt s (countTag s c) := by
  unfold countTag
  dsimp only
  exact (Unhurt.of_frame (frame_modSecCore s _)).trans (unhurt_modSec _ c _)

theorem unhurt_readLocal (s : State) (c p pg off : Nat) (e : Bool) : Unhurt s (readLocal s c p pg off e).1 := by
  unfold readLocal
  dsimp only
  split
  · exact (unhurt_controllerRead s _ _ _ _ _).trans (unhurt_countTag _ c)
  · exact unhurt_controllerRead s _ _ _ _ _

theorem unhurt_copyBlock (s : State) (src dst j : Nat) (e1 e2 : SymErr) : Unhurt s (copyBlock s src dst j e1 e2) := by
  have copied := (unhurt_controllerRead s src j none e1 e2).trans
    (unhurt_controllerWrite _ dst j none true (controllerRead s src j none e1 e2).2.block)
  unfold copyBlock
  dsimp only
  split
  · exact copied.trans (unhurt_modMem _ fun _ => rfl)
  · exact copied

theorem unhurt_slotMoved (src dst sl : Nat) (s : State) : Unhurt s (slotMoved src dst sl s) := by
  have touched : ∀ (a : Nat) (w : Bool) (k : Ctrl), (touchLine { k with migPtr := k.migPtr + 1 } a w).role = k.role ∧
      (touchLine { k with migPtr := k.migPtr + 1 } a w).chan = k.chan := fun a w k => by
    obtain ⟨lines, miss, eq⟩ := touchLine_eq { k with migPtr := k.migPtr + 1 } a w
    rw [eq]
    exact ⟨rfl, rfl⟩
  unfold slotMoved
  dsimp only
  refine Unhurt.trans ?_ (unhurt_modCtrl _ dst (touched (unitAddr sl) true))
  refine Unhurt.trans ?_ (unhurt_modCtrl _ src (touched (unitAddr sl) false))
  exact unhurt_modMem s fun _ => rfl

theorem unhurt_awaitCopy (s : State) (ch sl : Nat) : Unhurt s (awaitCopy s ch sl) := by
  have slot : ∀ src dst, Unhurt s (copySlot s src dst sl (fun _ => []) (fun _ => [])) := fun src dst => by
    rw [copySlot_eq]
    exact (Unhurt.foldl (fun v i => unhurt_copyBlock v src dst (16 * sl + i) [] []) _ s).trans (unhurt_slotMoved src dst sl _)
  unfold awaitCopy
  split
  · exact .ite (fun _ => slot _ _) fun _ => .refl s
  · exact .refl s

theorem unhurt_writeLocal (s : State) (c p pg off : Nat) (e keep : Bool) (b : Block) : Unhurt s (writeLocal s c p pg off e keep b) := by
  unfold writeLocal
  exact (unhurt_awaitCopy s _ _).trans (unhurt_controllerWrite _ _ _ _ keep b)

theorem unhurt_writePiece {c va : Nat} {d : Bytes} {force : Bool} (h : writePiece s c va d force = some t) : Unhurt s t := by
  unfold writePiece at h
  split at h
  · rename_i p pg off e wr _
    split at h
    · split at h
      · cases h
        exact unhurt_writeLocal s c p pg off e false _
      · dsimp only at h
        split at h
        · obtain rfl := Option.some.inj h
          exact (unhurt_readLocal s c p pg off e).trans (unhurt_writeLocal _ c p pg off e false _)
        · cases h
    · cases h
  · cases h

theorem unhurt_writeBytesVa {c : Nat} {force : Bool} (fuel : Nat) : ∀ {s t : State} {va : Nat} {d : Bytes},
    writeBytesVa s c va d force fuel = some t → Unhurt s t := by
  induction fuel with
  | zero =>
    intro s t va d h
    unfold writeBytesVa at h
    split at h <;> cases h
    exact .refl s
  | succ k ih =>
    intro s t va d h
    unfold writeBytesVa at h
    split at h
    · cases h
      exact .refl s
    · dsimp only at h
      split at h
      · rename_i piece
        exact (unhurt_writePiece piece).trans (ih h)
      · cases h

theorem unhurt_setRecState (s : State) (c : Nat) (va : BitVec 48) (v : Nat) : Unhurt s (setRecState s c va v) := by
  unfold setRecState putForced
  cases h : putVa s c (va.toNat + 0x1B) [BitVec.ofNat 8 v] true with
  | none => exact .refl s
  | some t => exact unhurt_writeBytesVa _ h

theorem unhurt_takeTokens {d cls b : Nat} (h : takeTokens s d cls b = some t) : Unhurt s t := by
  have frame := frame_takeTokens h
  have same : ∀ q, getCtrl t q = getCtrl s q := fun q => by rw [getCtrl, takeTokens_mem h, getCtrl]
  exact ⟨frame .opt (by decide), frame .hub (by decide), fun q => by rw [same], fun q => by rw [same], fun c => by
    rw [getCtx_congr (frame .ctxs (by decide))]
    exact .refl _⟩

theorem unhurt_holdTokens (s : State) (d cls : Nat) : Unhurt s (holdTokens s d cls) := by
  unfold holdTokens setBucket
  exact unhurt_modMem s fun _ => rfl

/-! ### Streams that go on (R172) -/

theorem unhurt_signalSsem (s : State) (n : Nat) (d : BitVec 256) : Unhurt s (signalSsem s n d) :=
  .ite (fun _ => unhurt_modC s n _) fun _ => .refl s

theorem unhurt_countProg (s : State) (n i : Nat) : Unhurt s (countProg s n i) := by
  unfold countProg
  dsimp only
  refine Unhurt.trans ?_ (unhurt_modCtx _ _ fun _ => ⟨rfl, rfl, rfl, rfl, rfl⟩)
  exact unhurt_modC s n _

theorem unhurt_modTiming (s : State) (c : Nat) (step : BitVec 48) (f : TimingRec → TimingRec) : Unhurt s (modTiming s c step f) :=
  unhurt_modLed s c fun l => by split <;> exact ⟨rfl, rfl⟩

theorem unhurt_backwardDone (s : State) (c : Nat) (step : BitVec 48) : Unhurt s (backwardDone s c step) := by
  unfold backwardDone
  dsimp only
  exact .ite (fun _ => (unhurt_modTiming s c step _).trans (unhurt_modLed _ c fun _ => ⟨rfl, rfl⟩)) fun _ => unhurt_modTiming s c step _

theorem unhurt_updateDone (s : State) (c : Nat) (w : Item) : Unhurt s (if w.mirror then modLed s c fun l => { l with mirrorDone := true }
    else setVer (modLed s c fun l => { l with ownDone := true }) c (verSlot s c (w.step + 1)) (.written, w.step + 1)) :=
  .ite (fun _ => unhurt_modLed s c fun _ => ⟨rfl, rfl⟩) fun _ =>
    (unhurt_modLed s c (f := fun l => { l with ownDone := true }) fun _ => ⟨rfl, rfl⟩).trans
      (unhurt_modCtx _ c (f := fun x => { x with vslots := x.vslots.setIfInBounds (verSlot s c (w.step + 1)) (.written, w.step + 1) })
        fun _ => ⟨rfl, rfl, rfl, rfl, rfl⟩)

theorem unhurt_finishItem (s : State) (c : Nat) (w : Item) : Unhurt s (finishItem s c w) := by
  unfold finishItem
  split
  · obtain ⟨v, hv⟩ : ∃ v, v = if w.backward then 4 else 2 := ⟨_, rfl⟩
    dsimp only
    rw [← hv]
    have recorded := unhurt_setRecState s c w.recVa v
    generalize setRecState s c w.recVa v = z at recorded ⊢
    split
    · have timed := unhurt_modTiming z c w.step fun t => { t with mbDone := BitVec.ofNat 16 (mbsDone z c w.step) }
      exact .ite (fun _ => recorded.trans (timed.trans (unhurt_backwardDone _ c w.step))) fun _ => recorded.trans timed
    · exact recorded
  · have done_ := unhurt_updateDone s c w
    dsimp only
    generalize (if w.mirror then modLed s c fun l => { l with mirrorDone := true }
      else setVer (modLed s c fun l => { l with ownDone := true }) c (verSlot s c (w.step + 1)) (.written, w.step + 1)) = z at done_ ⊢
    exact .ite (fun _ => done_.trans (unhurt_modTiming z c w.step _)) fun _ => done_
  · exact .refl s

variable {n i : Nat}

theorem unhurt_semTaken (s : State) (n : Nat) (sem : Option (BitVec 6)) (take : Bool) (v : BitVec 32) : Unhurt s (semTaken s n sem take v) := by
  cases sem with
  | none => exact .refl s
  | some k => cases take with
    | false => exact .refl s
    | true => exact unhurt_modC s n fun c => semTake c k.toNat v

theorem unhurt_completeHere (s : State) (n i : Nat) : Unhurt s (completeHere s n i) := by
  unfold completeHere
  dsimp only
  cases fetchedAt (getStream (getC s n) i) (getStream (getC s n) i).pc with
  | none => exact .refl s
  | some d => exact ((unhurt_signalSsem s n d).trans (unhurt_countProg _ n i)).trans (unhurt_modC _ n _)

theorem unhurt_endStreamNow (s : State) (n i : Nat) : Unhurt s (endStreamNow s n i) := by
  have ended : ∀ z, Unhurt s z → Unhurt s (modC (countProg z n i) n fun c => modStream c i
      fun t => { t with st := .idle, blocked := none, blocks := [], ahead := [], item := none }) := fun z hz =>
    (hz.trans (unhurt_countProg z n i)).trans (unhurt_modC _ n _)
  have finish : ∀ z, Unhurt s z → Unhurt s (match (getStream (getC s n) i).item with
      | some w => if (partCores z (getCtx z (getStream (getC s n) i).ctx).part).any (fun m => (getStream (getC z m) i).item == some w) then z
        else finishItem z (getStream (getC s n) i).ctx w
      | none => z) := fun z hz => by
    cases (getStream (getC s n) i).item with
    | none => exact hz
    | some w => exact .ite (fun _ => hz) fun _ => hz.trans (unhurt_finishItem z _ w)
  unfold endStreamNow
  dsimp only
  cases fetchedAt (getStream (getC s n) i) (getStream (getC s n) i).pc with
  | none => exact finish _ (ended s (.refl s))
  | some d => exact finish _ (ended _ (unhurt_signalSsem s n d))

/-- A stream that goes on has taken its semaphore, if it waited for one, and completes; one that waited in END ends. -/
theorem unblock_cases (h : unblock s n i = some t) :
    (∃ sem take v, t = completeHere (semTaken s n sem take v) n i) ∨ t = endStreamNow s n i := by
  unfold unblock at h
  dsimp only at h
  split at h
  · cases h
  · cases hb : (getStream (getC s n) i).blocked with
    | none =>
      rw [hb] at h
      cases h
    | some b =>
      rw [hb] at h
      cases b with
      | wait sem acq v time =>
        dsimp only at h
        split at h
        · cases h
          exact .inl ⟨sem, acq, v, rfl⟩
        · cases h
      | waitLow sem time =>
        cases sem with
        | none =>
          dsimp only at h
          split at h
          · cases h
            exact .inl ⟨none, false, 0, rfl⟩
          · cases h
        | some k =>
          dsimp only at h
          obtain ⟨taken, ht⟩ : ∃ taken, taken = (decide (1 ≤ (semGet (getC s n) k.toNat).toNat) && !outranked s n i (some k) 1) := ⟨_, rfl⟩
          rw [← ht] at h
          split at h
          · cases h
            exact .inl ⟨some k, taken, 1, rfl⟩
          · cases h
      | fence ids =>
        dsimp only at h
        split at h
        · cases h
          exact .inl ⟨none, false, 0, rfl⟩
        · cases h
      | ending =>
        dsimp only at h
        split at h
        · cases h
          exact .inr rfl
        · cases h
      | launch a => cases h

theorem unhurt_wakeOne : ∀ l, wakeOne s n l = some t → Unhurt s t
  | [], h => by cases h
  | j :: l, h => by
    unfold wakeOne at h
    cases hj : unblock s n j with
    | some v =>
      rw [hj] at h
      cases h
      obtain ⟨sem, take, v, rfl⟩ | rfl := unblock_cases hj
      · exact (unhurt_semTaken s n sem take v).trans (unhurt_completeHere _ n j)
      · exact unhurt_endStreamNow s n j
    | none =>
      rw [hj] at h
      exact unhurt_wakeOne l h

theorem unhurt_wakeLoop (k : Nat) (s : State) (n : Nat) : Unhurt s (wakeLoop k s n) := by
  induction k generalizing s with
  | zero => exact .refl s
  | succ k ih =>
    unfold wakeLoop
    split
    · rename_i v hv
      exact (unhurt_wakeOne _ hv).trans (ih v)
    · exact .refl s

theorem unhurt_wakeCore (s : State) (n : Nat) : Unhurt s (wakeCore s n) := unhurt_wakeLoop 64 s n

/-! ### Requests (R262) -/

theorem unhurt_sealPacket {c : Nat} {k : Packet} {r : State × Packet} (h : sealPacket s c k = some r) : Unhurt s r.1 := by
  unfold sealPacket at h
  dsimp only at h
  split at h
  · cases h
    exact .refl s
  · split at h
    · cases h
    · cases h
      dsimp only
      exact unhurt_modSec s c _

theorem unhurt_sendRouted (s : State) (c : Nat) (k : Packet) : Unhurt s (sendRouted s c k).1 := by
  unfold sendRouted
  cases h : sealPacket s c k with
  | none => exact .refl s
  | some r =>
    have taken := unhurt_sealPacket h
    dsimp only
    split <;> dsimp only
    · exact taken.trans (.of_frame (frame_sendOn _ _ _))
    · exact taken.trans (.of_frame (frame_sendOn _ _ _))
    · exact taken
    · exact taken.trans (.of_frame (frame_dropNoroute _))

theorem unhurt_sendRequest (s : State) (c e : Nat) (o : ReqOwner) (k : Packet) : Unhurt s (sendRequest s c e o k).1 := by
  unfold sendRequest
  extract_lets x id k' r
  have sent : Unhurt s r.1 := unhurt_sendRouted s c k'
  split
  · exact sent
  · refine sent.trans ?_
    dsimp only
    exact .of_frame (frame_modFab r.1 _)

/-! ### The vector engine (R150, R161) -/

theorem unhurt_faultVec (s : State) (n k : Nat) (x : Issued) (cause : BitVec 8) : Unhurt s (faultVec s n k x cause) :=
  .of_frame (frame_faultVec s n k x cause)

theorem unhurt_sendGather (s : State) (n a k : Nat) (x : Issued) : Unhurt s (sendGather s n a k x).1 := by
  unfold sendGather
  extract_lets ctx u sent
  have used : Unhurt s u := .of_frame (frame_useXlat s n ctx _)
  have noted : ∀ v, Unhurt v (sent v) := fun v => unhurt_modC v n _
  split
  · dsimp only
    have asked := fun e k' => used.trans (unhurt_sendRequest u ctx e (.vecRead n k) k')
    split
    · exact asked _ _
    · exact (asked _ _).trans (noted _)
  · exact used.trans ((Unhurt.of_frame (frame_emit u _)).trans (noted _))
  · exact used.trans (noted u)

theorem unhurt_gatherToken {ctx k : Nat} (h : gatherToken s n ctx k = some t) : Unhurt s t := by
  unfold gatherToken at h
  split at h
  · exact unhurt_takeTokens h
  · cases h
    exact .refl s

theorem unhurt_pumpQueue (n : Nat) : ∀ (q : List (Nat × Nat)) (stuck : List (Option (Nat × Nat))) (s : State), Unhurt s (pumpQueue n q stuck s)
  | [], _, s => .refl s
  | (a, k) :: q, stuck, s => by
    have on : ∀ u stuck, Unhurt s u → Unhurt s (pumpQueue n q stuck u) := fun u stuck hu => hu.trans (unhurt_pumpQueue n q stuck u)
    have kept : ∀ u, Unhurt s u → Unhurt s (modC u n fun c => { c with gatherQ := c.gatherQ ++ [(a, k)] }) := fun u hu =>
      hu.trans (unhurt_modC u n _)
    unfold pumpQueue
    extract_lets c
    split
    · exact on s _ (.refl s)
    · rename_i j _
      extract_lets ctx bank keep
      split
      · exact on _ _ (unhurt_modC s n _)
      · split
        · exact on _ _ (kept s (.refl s))
        · split
          · exact on _ _ (kept _ (unhurt_holdTokens s _ _))
          · rename_i u paid
            have sent : Unhurt s (sendGather u n a k j.iss).1 := (unhurt_gatherToken paid).trans (unhurt_sendGather u n a k j.iss)
            refine on _ stuck (.ite (fun _ => sent.trans (unhurt_faultVec _ n a j.iss 0x0B)) fun _ => sent)

theorem unhurt_pumpGather (s : State) (n : Nat) : Unhurt s (pumpGather s n) :=
  (unhurt_modC s n _).trans ((unhurt_pumpQueue n _ [] _).trans (.of_frame (frame_noteHot _ n)))

theorem unhurt_askGroup (s : State) (n a : Nat) (j : VecJob) : Unhurt s (askGroup s n a j) := by
  unfold askGroup
  split
  · exact .refl s
  · split
    · exact unhurt_modC s n _
    · split
      · exact unhurt_faultVec s n a j.iss _
      · exact (unhurt_modC s n _).trans (unhurt_pumpGather _ n)

theorem unhurt_holdFailure (s : State) (n : Nat) (r : Replay) : Unhurt s (holdFailure s n r) := by
  unfold holdFailure
  dsimp only
  split
  · exact (Unhurt.of_frame (frame_setL s n _)).trans (unhurt_modC _ n _)
  · have bad := unhurt_modLed s (getStream (getC s n) r.iss.slot).ctx (f := fun l => { l with bad := true }) fun _ => ⟨rfl, rfl⟩
    exact .ite (fun _ => bad.trans (unhurt_modC _ n _)) fun _ => bad

theorem unhurt_failVec (s : State) (n a : Nat) (j : VecJob) (f : Capture) : Unhurt s (failVec s n a j f) :=
  (unhurt_modC s n _).trans (((Unhurt.of_frame (frame_recordEvent _ _ _ _ _ _ _ _)).trans (unhurt_holdFailure _ n _)).trans
    (.of_frame (frame_freeReleased _ n)))

theorem unhurt_threadOn (s : State) (n a : Nat) : Unhurt s (threadOn s n a) := by
  unfold threadOn
  split
  · exact .refl s
  · exact .ite (fun _ => .refl s) fun _ => .ite (fun _ => (unhurt_modC s n _).trans (unhurt_failVec _ n a _ _)) fun _ =>
      .ite (fun _ => unhurt_askGroup s n a _) fun _ => .refl s

/-! ### The copy engine (R187 to R190) -/

theorem unhurt_failCopy (s : State) (n : Nat) (j : CopyJob) (cause : BitVec 8) : Unhurt s (failCopy s n j cause).1 := by
  unfold failCopy
  split
  · exact .refl s
  · dsimp only
    refine Unhurt.trans ?_ (unhurt_modC _ n _)
    exact unhurt_modC s n _

theorem unhurt_sendPsig (s : State) (n : Nat) (j : CopyJob) : Unhurt s (sendPsig s n j) := by
  unfold sendPsig
  dsimp only
  split
  · have sent := fun e k => unhurt_sendRequest s (jobStream s n j.iss).ctx e (.psig n j.iss.id) k
    exact .ite (fun _ => (sent _ _).trans (unhurt_failCopy _ n j _)) fun _ => (sent _ _).trans (unhurt_modC _ n _)
  · exact unhurt_failCopy s n j _

theorem unhurt_endCopy (s : State) (n id : Nat) : Unhurt s (endCopy s n id) := by
  have dropped : ∀ v x, Unhurt v (dropIssued (dropCopy v n id) n x) := fun v x =>
    (show Unhurt v (dropCopy v n id) from unhurt_modC v n _).trans (.of_frame (frame_dropIssued _ n x))
  have idled : ∀ v, Unhurt v (idleStopped v n) := fun v => by
    unfold idleStopped
    exact unhurt_modC v n _
  have completed : ∀ v x, Unhurt v (completeIssued (dropCopy v n id) n x) := fun v x => by
    refine Unhurt.trans (show Unhurt v (dropCopy v n id) from unhurt_modC v n _) ?_
    unfold completeIssued
    refine Unhurt.trans ?_ (unhurt_modC _ n _)
    exact (unhurt_signalSsem _ n _).trans (unhurt_countProg _ n _)
  unfold endCopy
  split
  · exact .refl s
  · rename_i j _
    dsimp only
    refine .ite (fun _ => .refl s) fun _ => .ite (fun _ => ?_) fun _ => .ite (fun _ => ?_) fun _ => ?_
    · exact ((dropped s j.iss).trans (unhurt_wakeCore _ n)).trans (idled _)
    · refine (unhurt_sendPsig s n j).trans ?_
      split
      · rename_i k _
        exact .ite (fun _ => (dropped _ k.iss).trans (unhurt_wakeCore _ n)) fun _ => .refl _
      · exact .refl _
    · exact (completed s j.iss).trans (unhurt_wakeCore _ n)

/-! ### A lost channel (R213) -/

theorem unhurt_loseRequests (s : State) (n ch : Nat) (j : CopyJob) : Unhurt s (loseRequests s n ch j) := by
  unfold loseRequests
  extract_lets ctx lost q
  exact .ite (fun _ => .refl s) fun _ =>
    (((unhurt_modC s n _).trans (unhurt_failCopy _ n j _)).trans (unhurt_modC _ n _)).trans (unhurt_endCopy _ n _)

theorem unhurt_loseAccesses (s : State) (n ch : Nat) : Unhurt s (loseAccesses s n ch) := by
  unfold loseAccesses
  extract_lets u ctx ks bad v
  have copies : Unhurt s u := .foldl (fun s j => unhurt_loseRequests s n ch j) _ s
  exact .ite (fun _ => copies) fun _ => copies.trans ((((unhurt_modC u n _).trans (.foldl (fun s a => unhurt_threadOn s n a) _ _)).trans
    (unhurt_pumpGather _ n)).trans (unhurt_wakeCore _ n))

end

end Sys2Proof.Machine
end

section
-- One proof after the other: a text of this length has more proofs waiting at once than the check has threads for.
set_option Elab.async false
/-! PROOFS. A channel that fails (R200, R213): it goes to the spare or to the target, or is mapped out, and its contexts are fenced. -/
namespace Sys2Proof.Machine

/-! ### What a fence leaves of the controllers (R381) -/

/-- Between two states every controller keeps its role and its channel. -/
def RolesKept (s t : State) : Prop := ∀ q, (getCtrl t q).role = (getCtrl s q).role ∧ (getCtrl t q).chan = (getCtrl s q).chan

section
variable {s t u : State} {c : Nat}

theorem RolesKept.refl (s : State) : RolesKept s s := fun _ => ⟨rfl, rfl⟩

theorem RolesKept.trans (h : RolesKept s t) (k : RolesKept t u) : RolesKept s u := fun q =>
  ⟨(k q).1.trans (h q).1, (k q).2.trans (h q).2⟩

theorem RolesKept.foldl {α : Type} {f : State → α → State} (h : ∀ s a, RolesKept s (f s a)) (l : List α) (s : State) :
    RolesKept s (l.foldl f s) := by
  induction l generalizing s with
  | nil => exact .refl s
  | cons a l ih => exact (h s a).trans (ih _)

theorem RolesKept.of_frame {l : List Part} (h : AllBut l s t) (hl : Part.mem ∉ l := by decide) : RolesKept s t := fun q => by
  rw [getCtrl_congr (h .mem hl)]
  exact ⟨rfl, rfl⟩

theorem Unhurt.roles (h : Unhurt s t) : RolesKept s t := fun q => ⟨h.role q, h.chan q⟩

theorem roles_recStates (v : Nat) (p : State → BitVec 48 → MbRec → Prop) [∀ s va r, Decidable (p s va r)] (l : List (BitVec 48)) (s : State) :
    RolesKept s (l.foldl (fun s va => match readRec s c va with
      | some r => if p s va r then setRecState s c va v else s
      | none => s) s) := by
  refine RolesKept.foldl (fun s va => ?_) l s
  split
  · split
    · exact (unhurt_setRecState s c va v).roles
    · exact .refl s
  · exact .refl s

theorem roles_abortStep (s : State) (c reason : Nat) : RolesKept s (abortStep s c reason) := by
  unfold abortStep
  extract_lets l why s1 s2 i v s3 s4 s5 s6 l'
  have stopped : RolesKept s s1 := .foldl (fun s n => .of_frame (frame_stopStreams s n _ _)) _ s
  have records : RolesKept s1 s2 := roles_recStates 5 (fun _ _ r => r.step = l.step ∧ 1 ≤ r.state ∧ r.state ≤ 3) _ s1
  have version : RolesKept s2 s3 := by
    unfold s3
    split
    · exact .of_frame (frame_setVer _ c _ _)
    · exact .refl _
  have ended : RolesKept s3 s6 := RolesKept.trans (.of_frame (frame_modLed s3 c _))
    (RolesKept.trans (.of_frame (frame_modTiming s4 c _ _)) (.of_frame (frame_lifeAdd s5 _ _)))
  have all := stopped.trans (records.trans (version.trans ended))
  split
  · exact all.trans (.of_frame (frame_postNotice _ _ _ _))
  · exact all

theorem roles_fenceJob (s : State) (c : Nat) : RolesKept s (fenceJob s c) := by
  unfold fenceJob
  extract_lets l s1 s2 p s3
  have aborted : RolesKept s s1 := by
    unfold s1
    split
    · exact (RolesKept.of_frame (frame_sendVeto s c)).trans (roles_abortStep _ c 7)
    · exact .refl s
  have failed : RolesKept s2 s3 := by
    unfold s3
    split
    · exact .of_frame (frame_modPeal s2 c _)
    · exact .of_frame (frame_modPeal s2 c _)
    · exact .refl s2
  exact aborted.trans ((RolesKept.of_frame (frame_modLed s1 c _)).trans (failed.trans (.of_frame (frame_modPeal s3 c _))))

theorem roles_startFence (s : State) (c : Nat) (w : Option (Nat × Req)) : RolesKept s (startFence s c w) := by
  unfold startFence
  extract_lets x s1 s2 s3
  have job : RolesKept s s1 := (roles_fenceJob s c).trans (roles_recStates 5 _ _ _)
  have cores : RolesKept s1 s2 := .foldl (fun s n => RolesKept.trans (.of_frame (frame_stopStreams s n _ _)) (.of_frame (frame_modC _ n _))) _ _
  have programs : RolesKept s2 s3 := .of_frame (frame_dropPrograms s2 _)
  split
  · exact .refl s
  · exact .of_frame (frame_modCtx s c _)
  · exact job.trans (cores.trans (programs.trans (.of_frame (frame_modCtx s3 c _))))

/-! ### A domain fences a context (R385) -/

/-- The context is marked as held by a reset domain. -/
def heldBy (bit c : Nat) (s : State) : State := modCtx s c fun x => { x with domains := x.domains ||| BitVec.ofNat 6 (2 ^ bit) }

theorem fenceDomain_cases (s : State) (c bit : Nat) : fenceDomain s c bit = s ∨ fenceDomain s c bit = heldBy bit c s ∨
    fenceDomain s c bit = startFence (heldBy bit c s) c none := by
  unfold fenceDomain
  dsimp only
  split
  · exact .inl rfl
  · exact .inr (.inl rfl)
  · split
    · exact .inr (.inl rfl)
    · exact .inr (.inr rfl)

theorem frame_heldBy (bit c : Nat) (s : State) : AllBut [.ctxs] s (heldBy bit c s) := frame_modCtx s c _

theorem fenceDomain_kept (s : State) (c bit : Nat) : AllBut fenceParts s (fenceDomain s c bit) ∧ RolesKept s (fenceDomain s c bit) := by
  have held := frame_heldBy bit c s
  obtain eq | eq | eq := fenceDomain_cases s c bit
  · rw [eq]
    exact ⟨.refl _ s, .refl s⟩
  · rw [eq]
    exact ⟨held.mono, .of_frame held⟩
  · rw [eq]
    exact ⟨AllBut.trans held.mono (frame_startFence _ c none), (RolesKept.of_frame held).trans (roles_startFence _ c none)⟩

theorem fenceDomain_others (s : State) (c bit : Nat) {k : Nat} (hk : k ≠ c) : getCtx (fenceDomain s c bit) k = getCtx s k := by
  obtain eq | eq | eq := fenceDomain_cases s c bit
  · rw [eq]
  · rw [eq, heldBy, getCtx_modCtx_other s hk]
  · rw [eq, startFence_others (heldBy bit c s) c none hk, heldBy, getCtx_modCtx_other s hk]

theorem fenceDomain_opened (s : State) (bit : Nat) (hc : c < 64) (open_ : (getCtx s c).st = .opened) (step : (getCtx s c).led.st ≠ .commitPending) :
    (getCtx (fenceDomain s c bit) c).st = .fencing := by
  have eq : fenceDomain s c bit = startFence (heldBy bit c s) c none := by
    unfold fenceDomain
    dsimp only
    rw [open_]
    exact if_neg step
  rw [eq]
  have still : (getCtx (heldBy bit c s) c).st = .opened := by
    rw [heldBy, getCtx_modCtx_same s hc]
    exact open_
  exact (startFence_open hc still none).1

/-- A context with no step, no record and no Peal under way. -/
def Calm (x : Context) : Prop := x.led.st = .idle ∧ x.peal.st = .idle ∧ x.led.records = []

theorem fenceDomain_calm (s : State) (bit : Nat) (hc : c < 64) (calm : Calm (getCtx s c)) : (fenceDomain s c bit).mem.cells = s.mem.cells := by
  obtain ⟨step, -, records⟩ := calm
  obtain eq | eq | eq := fenceDomain_cases s c bit
  · rw [eq]
  · rw [eq]
    rfl
  · have own : getCtx (heldBy bit c s) c = { getCtx s c with domains := (getCtx s c).domains ||| BitVec.ofNat 6 (2 ^ bit) } := by
      rw [heldBy, getCtx_modCtx_same s hc]
    rw [eq]
    exact (startFence_quiet hc (by rw [own, step]; decide) (by rw [own, step]; decide) (by rw [own]; exact records) none).1 .cells (by decide)

/-! ### The contexts of a partition are fenced (R213) -/

/-- The domain of a failed channel fences the contexts of a list. -/
def fenceEach (l : List Nat) (s : State) : State := l.foldl (fun s c => fenceDomain s c 4) s

theorem fenceEach_kept (l : List Nat) (s : State) : AllBut fenceParts s (fenceEach l s) ∧ RolesKept s (fenceEach l s) :=
  ⟨.foldl (fun s c => (fenceDomain_kept s c 4).1) l s, .foldl (fun s c => (fenceDomain_kept s c 4).2) l s⟩

theorem fenceEach_others {k : Nat} : ∀ {l : List Nat} {s : State}, k ∉ l → getCtx (fenceEach l s) k = getCtx s k
  | [], _, _ => rfl
  | a :: l, s, h => by
    have first : k ≠ a := fun e => h (e ▸ List.mem_cons_self)
    have rest : k ∉ l := fun e => h (List.mem_cons_of_mem a e)
    exact (fenceEach_others (s := fenceDomain s a 4) rest).trans (fenceDomain_others s a 4 first)

theorem fenceEach_opened (hc : c < 64) : ∀ {l : List Nat} {s : State}, l.Nodup → c ∈ l → (getCtx s c).st = .opened →
    (getCtx s c).led.st ≠ .commitPending → (getCtx (fenceEach l s) c).st = .fencing
  | [], _, _, h, _, _ => absurd h List.not_mem_nil
  | a :: l, s, nodup, h, open_, step => by
    obtain ⟨fresh, nodup⟩ := List.nodup_cons.mp nodup
    by_cases ha : c = a
    · subst ha
      have later : getCtx (fenceEach l (fenceDomain s c 4)) c = getCtx (fenceDomain s c 4) c := fenceEach_others fresh
      show (getCtx (fenceEach l (fenceDomain s c 4)) c).st = .fencing
      rw [later, fenceDomain_opened s 4 hc open_ step]
    · have same := fenceDomain_others s a 4 ha
      exact fenceEach_opened (s := fenceDomain s a 4) hc nodup ((List.mem_cons.mp h).resolve_left ha) (by rw [same]; exact open_)
        (by rw [same]; exact step)

theorem fenceEach_calm : ∀ {l : List Nat} {s : State}, l.Nodup → (∀ c ∈ l, c < 64 ∧ Calm (getCtx s c)) → (fenceEach l s).mem.cells = s.mem.cells
  | [], _, _, _ => rfl
  | a :: l, s, nodup, h => by
    obtain ⟨fresh, nodup⟩ := List.nodup_cons.mp nodup
    obtain ⟨bound, calm⟩ := h a List.mem_cons_self
    have rest := fenceEach_calm (l := l) (s := fenceDomain s a 4) nodup fun c hc => by
      rw [fenceDomain_others s a 4 fun e => fresh (e ▸ hc)]
      exact h c (List.mem_cons_of_mem _ hc)
    exact rest.trans (fenceDomain_calm s 4 bound calm)

theorem lt_of_mem_openCtxs {p : Nat} (h : c ∈ openCtxs s p) : c < 64 := List.mem_range.mp (List.mem_filter.mp h).1

theorem openCtxs_nodup (s : State) (p : Nat) : (openCtxs s p).Nodup := List.nodup_range.filter _

/-- The contexts may leave FENCED again. -/
def released (l : List Nat) (s : State) : State := l.foldl (fun s c => modCtx s c fun x => { x with domains := x.domains &&& 0x2F }) s

theorem released_kept (l : List Nat) (s : State) : AllBut [.ctxs] s (released l s) ∧ Unhurt s (released l s) :=
  ⟨.foldl (fun s c => frame_modCtx s c _) l s, .foldl (f := fun s c => modCtx s c fun x => { x with domains := x.domains &&& 0x2F })
    (fun s c => unhurt_modCtx s c fun _ => ⟨rfl, rfl, rfl, rfl, rfl⟩) l s⟩

theorem fenceChan_cases (s : State) (p : Nat) (back : Bool) : fenceChan s p back = fenceEach (openCtxs s p) s ∨
    fenceChan s p back = released (openCtxs s p) (fenceEach (openCtxs s p) s) := by
  unfold fenceChan
  dsimp only
  split
  · exact .inr rfl
  · exact .inl rfl

theorem fenceChan_kept (s : State) (p : Nat) (back : Bool) : AllBut fenceParts s (fenceChan s p back) ∧ RolesKept s (fenceChan s p back) := by
  obtain ⟨frame, roles⟩ := fenceEach_kept (openCtxs s p) s
  obtain eq | eq := fenceChan_cases s p back
  · rw [eq]
    exact ⟨frame, roles⟩
  · obtain ⟨frame', unhurt⟩ := released_kept (openCtxs s p) (fenceEach (openCtxs s p) s)
    rw [eq]
    exact ⟨frame.trans frame'.mono, roles.trans unhurt.roles⟩

theorem fenceChan_opened (s : State) (p : Nat) (back : Bool) (hc : c < 64) (open_ : (getCtx s c).st = .opened) (part : (getCtx s c).part = p)
    (step : (getCtx s c).led.st ≠ .commitPending) : (getCtx (fenceChan s p back) c).st = .fencing := by
  have fenced := fenceEach_opened hc (openCtxs_nodup s p) (mem_openCtxs hc (by rw [open_]; decide) part) open_ step
  obtain eq | eq := fenceChan_cases s p back
  · rw [eq, fenced]
  · rw [eq, ((released_kept _ _).2.ctx c).st, fenced]

theorem fenceChan_calm (s : State) (p : Nat) (back : Bool) (calm : ∀ c, c < 64 → Calm (getCtx s c)) :
    (fenceChan s p back).mem.cells = s.mem.cells := by
  have cells := fenceEach_calm (openCtxs_nodup s p) fun c hc => ⟨lt_of_mem_openCtxs hc, calm c (lt_of_mem_openCtxs hc)⟩
  obtain eq | eq := fenceChan_cases s p back
  · rw [eq, cells]
  · rw [eq]
    exact Eq.trans ((released_kept _ _).1 .cells (by decide)) cells

end

/-! ### The failure of a channel (R213) -/

section
variable {s : State} {ch : Chan} {src tg g : Nat}

/-- The failure is noted, the accesses to the channel have ended, and its migration, if there was one. -/
def accessesEnded (s : State) (ch src : Nat) : State :=
  let s := recordEvent s 2 0x23 3 (136 + src) none [] none
  modMem ((partCores s (chanPart s ch)).foldl (fun s n => loseAccesses s n ch) s) fun m => { m with migs := m.migs.filter fun q => q.chan != ch }

theorem unhurt_accessesEnded (s : State) (ch src : Nat) : Unhurt s (accessesEnded s ch src) := by
  unfold accessesEnded
  dsimp only
  have noted : Unhurt s (recordEvent s 2 0x23 3 (136 + src) none [] none) := .of_frame (frame_recordEvent s 2 0x23 3 (136 + src) none [] none)
  refine Unhurt.trans ?_ (unhurt_modMem _ fun _ => rfl)
  exact noted.trans (.foldl (fun s n => unhurt_loseAccesses s n ch) _ _)

/-- The failed position is cleared and marked. -/
def positionLost (s : State) (ch src : Nat) : State := failPos (modMem (accessesEnded s ch src) fun m => clearFrom m src 0) src

/-- A position takes the channel. -/
def takenOver (s : State) (ch t keep : Nat) : State :=
  mapChange (modCtrl (modMem s fun m => clearFrom m t keep) t fun k => { k with
    role := .inService, chan := some ch, migPtr := 0, selfRefresh := false, scrubPtr := 0, scrubBlk := 0 })
    fun h => setChanMap h ch { ctrl := t % 20, status := .inService }

/-- The channel is mapped out. -/
def mappedOut (s : State) (ch : Nat) (e : ChanEntry) : State := mapChange s fun h => setChanMap h ch { e with status := .mappedOut }

/-- A channel that fails goes to another position, and its contexts are fenced. -/
def lossMoved (s : State) (ch src t keep : Nat) : State :=
  let s := takenOver (positionLost s ch src) ch t keep
  postNotice (fenceChan (countSwitchIn s t) (chanPart s ch) true) 0x000A none (channelBody ch (src % 20) (some (t % 20)) 3)

/-- A channel that fails without a spare is mapped out, and its contexts are fenced. -/
def lossUnmapped (s : State) (ch src : Nat) (e : ChanEntry) : State :=
  let s := mappedOut (positionLost s ch src) ch e
  postNotice (fenceChan s (chanPart s ch) false) 0x000A none (channelBody ch (src % 20) none 4)

section
variable (hsrc : src = chanPos s ch.val) (bound : ch.val < chanCount s)
  (st : (s.hub.chanMap.getD ch.val { ctrl := 0, status := .unmapped }).status = .inService ∨
    (s.hub.chanMap.getD ch.val { ctrl := 0, status := .unmapped }).status = .migrating)
include bound st

theorem channelLost_guard : ¬ (ch.val ≥ chanCount s ∨ ((s.hub.chanMap.getD ch.val { ctrl := 0, status := .unmapped }).status ≠ .inService ∧
    (s.hub.chanMap.getD ch.val { ctrl := 0, status := .unmapped }).status ≠ .migrating)) := by
  rintro (h | ⟨a, b⟩)
  · omega
  · exact st.elim a b

include hsrc

theorem channelLost_moves {m : Migration} (mig : migOf s ch.val = some m) :
    channelLost s ch.val = lossMoved s ch.val src m.target (getCtrl s src).migPtr.toNat := by
  unfold channelLost
  dsimp only
  rw [if_neg (channelLost_guard bound st), ← hsrc, mig]
  dsimp only
  unfold lossMoved takenOver positionLost accessesEnded
  dsimp only

theorem channelLost_spare (mig : migOf s ch.val = none)
    (spare : (posGroup (accessesEnded s ch.val src) src).bind (groupSpare (accessesEnded s ch.val src)) = some tg) :
    channelLost s ch.val = lossMoved s ch.val src tg 0 := by
  unfold channelLost
  dsimp only
  rw [if_neg (channelLost_guard bound st), ← hsrc, mig]
  unfold lossMoved takenOver positionLost
  unfold accessesEnded at spare ⊢
  dsimp only at spare ⊢
  rw [spare, Option.map_some]

theorem channelLost_unmapped (mig : migOf s ch.val = none)
    (none_ : (posGroup (accessesEnded s ch.val src) src).bind (groupSpare (accessesEnded s ch.val src)) = none) :
    channelLost s ch.val = lossUnmapped s ch.val src (s.hub.chanMap.getD ch.val { ctrl := 0, status := .unmapped }) := by
  unfold channelLost
  dsimp only
  rw [if_neg (channelLost_guard bound st), ← hsrc, mig]
  unfold lossUnmapped mappedOut positionLost
  unfold accessesEnded at none_ ⊢
  dsimp only at none_ ⊢
  rw [none_, Option.map_none]

end

end

end Sys2Proof.Machine
end

section
-- One proof after the other: a text of this length has more proofs waiting at once than the check has threads for.
set_option Elab.async false
/-! PROOFS. Memory is scrubbed and migrates (R198, R200, R209 to R213). -/
namespace Sys2Proof.Machine

section
variable {s : State} {ch : Chan} {src tg keep : Nat}

theorem positionLost_moves (s : State) (ch : Nat) (hs : src < 80) :
    (positionLost s ch src).hub = s.hub ∧ (positionLost s ch src).opt = s.opt ∧ (getCtrl (positionLost s ch src) src).role = .failed ∧
    (∀ k, k < 2 ^ 32 → memGet (positionLost s ch src).mem.cells (cellAddr src k) = 0) ∧
    ∀ c, JobKept (getCtx s c) (getCtx (positionLost s ch src) c) := by
  have unhurt := unhurt_accessesEnded s ch src
  unfold positionLost
  generalize accessesEnded s ch src = w at unhurt ⊢
  obtain ⟨mem, hub, ctxs, role, -⟩ := failPos_moves (modMem w fun m => clearFrom m src 0) hs
  obtain ⟨d, eq⟩ := failPos_eq (modMem w fun m => clearFrom m src 0) src
  refine ⟨hub.trans unhurt.hub, ?_, role, fun k hk => ?_, fun c => ?_⟩
  · rw [eq]
    exact unhurt.opt
  · rw [mem]
    exact memGet_clearFrom_here w.mem src hk
  · rw [getCtx_congr ctxs]
    exact unhurt.ctx c

theorem takenOver_moves (s : State) (ch : Chan) (ht : tg < 80) (ne : src ≠ tg) :
    (takenOver s ch.val tg keep).hub.mapGen = s.hub.mapGen + 2 ∧ (takenOver s ch.val tg keep).hub.layout = s.hub.layout ∧
    (takenOver s ch.val tg keep).hub.chanMap.getD ch.val { ctrl := 0, status := .unmapped } = { ctrl := tg % 20, status := .inService } ∧
    (getCtrl (takenOver s ch.val tg keep) tg).role = .inService ∧ (getCtrl (takenOver s ch.val tg keep) tg).chan = some ch.val ∧
    getCtrl (takenOver s ch.val tg keep) src = getCtrl s src ∧ (takenOver s ch.val tg keep).ctxs = s.ctxs ∧
    (takenOver s ch.val tg keep).opt = s.opt ∧ (takenOver s ch.val tg keep).mem.cells = (clearFrom s.mem tg keep).cells := by
  obtain ⟨w, hw⟩ : ∃ w, w = modMem s fun m => clearFrom m tg keep := ⟨_, rfl⟩
  have same : getCtrl w src = getCtrl s src := by
    rw [hw]
    rfl
  have cells : w.mem.cells = (clearFrom s.mem tg keep).cells := by rw [hw, modMem]
  have rest : w.hub = s.hub ∧ w.ctxs = s.ctxs ∧ w.opt = s.opt := by
    rw [hw]
    exact ⟨rfl, rfl, rfl⟩
  obtain ⟨hub, ctxs, opt⟩ := rest
  have eq : takenOver s ch.val tg keep = mapChange (modCtrl w tg fun k => { k with
      role := .inService, chan := some ch.val, migPtr := 0, selfRefresh := false, scrubPtr := 0, scrubBlk := 0 })
      fun h => setChanMap h ch.val { ctrl := tg % 20, status := .inService } := by rw [hw, takenOver]
  obtain ⟨f, hf⟩ : ∃ f : Ctrl → Ctrl, f = fun k => { k with
      role := .inService, chan := some ch.val, migPtr := 0, selfRefresh := false, scrubPtr := 0, scrubBlk := 0 } := ⟨_, rfl⟩
  rw [← hf] at eq
  have own : ∀ q, getCtrl (takenOver s ch.val tg keep) q = getCtrl (modCtrl w tg f) q := fun q => by
    rw [eq]
    rfl
  have at_ : getCtrl (takenOver s ch.val tg keep) tg = f (getCtrl w tg) := by rw [own, getCtrl_modCtrl_same ht]
  refine ⟨?_, ?_, ?_, ?_, ?_, ?_, ?_, ?_, ?_⟩
  · rw [eq, ← hub]
    rfl
  · rw [eq, ← hub]
    rfl
  · rw [eq]
    exact chanMap_setChanMap w.hub ch.isLt _
  · rw [at_, hf]
  · rw [at_, hf]
  · rw [own, getCtrl_modCtrl_other ne, same]
  · rw [eq]
    exact ctxs
  · rw [eq]
    exact opt
  · rw [eq]
    exact cells

theorem chanPart_congr {t : State} (opt : t.opt = s.opt) (layout : t.hub.layout = s.hub.layout) (n : Nat) : chanPart t n = chanPart s n := by
  rw [chanPart, layout, chanDie, groupDie, opt, chanPart, chanDie, groupDie]

/-- What stands once a failed channel has gone to another position. -/
structure Relocated (s t : State) (ch src tg : Nat) : Prop where
  entry  : t.hub.chanMap.getD ch { ctrl := 0, status := .unmapped } = { ctrl := tg % 20, status := .inService }
  mapGen : t.hub.mapGen = s.hub.mapGen + 2
  failed : (getCtrl t src).role = .failed
  chan   : (getCtrl t tg).chan = some ch
  serves : (getCtrl t tg).role = .inService
  fenced : ∀ c, c < 64 → (getCtx s c).st = .opened → (getCtx s c).part = chanPart s ch → (getCtx s c).led.st ≠ .commitPending →
    (getCtx t c).st = .fencing

theorem calm_kept {a b : Context} (h : JobKept a b) (calm : Calm a) : Calm b :=
  ⟨h.step.trans calm.1, h.peal.trans calm.2.1, h.records.trans calm.2.2⟩

theorem lossMoved_relocates (hs : src < 80) (ht : tg < 80) (ne : src ≠ tg) :
    Relocated s (settle (lossMoved s ch.val src tg keep)) ch.val src tg ∧ (keep = 0 → (∀ c, c < 64 → Calm (getCtx s c)) → ∀ k, k < 2 ^ 32 →
      memGet (settle (lossMoved s ch.val src tg keep)).mem.cells (cellAddr tg k) = 0 ∧
      memGet (settle (lossMoved s ch.val src tg keep)).mem.cells (cellAddr src k) = 0) := by
  obtain ⟨hub, opt, failed, lost, jobs⟩ := positionLost_moves s ch.val hs
  unfold lossMoved
  generalize positionLost s ch.val src = w at hub opt failed lost jobs ⊢
  obtain ⟨gen, layout, entry, serves, chan, other, ctxs, opt', cells⟩ := takenOver_moves (src := src) (keep := keep) w ch ht ne
  dsimp only
  have part : chanPart (takenOver w ch.val tg keep) ch.val = chanPart s ch.val :=
    chanPart_congr (opt'.trans opt) (layout.trans (congrArg Hub.layout hub)) ch.val
  rw [part]
  generalize takenOver w ch.val tg keep = x at *
  have counted : AllBut [.diag] x (countSwitchIn x tg) := AllBut.trans (frame_lifeAdd x _ _) (frame_lifeAdd _ _ _)
  generalize countSwitchIn x tg = y at counted ⊢
  have jobsY : ∀ c, JobKept (getCtx s c) (getCtx y c) := fun c => by
    rw [getCtx_congr (counted .ctxs (by decide)), getCtx_congr ctxs]
    exact jobs c
  have hubY : y.hub = x.hub := counted .hub (by decide)
  have memY : y.mem = x.mem := counted .mem (by decide)
  obtain ⟨frame, roles⟩ := fenceChan_kept y (chanPart s ch.val) true
  have fenced := fun c hc open_ part step => fenceChan_opened (c := c) y (chanPart s ch.val) true hc ((jobsY c).st.trans open_)
    ((jobsY c).part.trans part) (by rw [(jobsY c).step]; exact step)
  have calm := fenceChan_calm y (chanPart s ch.val) true
  generalize fenceChan y (chanPart s ch.val) true = z at frame roles fenced calm ⊢
  obtain ⟨b, hb⟩ : ∃ b, b = channelBody ch.val (src % 20) (some (tg % 20)) 3 := ⟨_, rfl⟩
  rw [← hb]
  have noted := frame_postNotice z 0x000A none b
  generalize postNotice z 0x000A none b = v at noted ⊢
  have hub' : v.hub = x.hub := Eq.trans (noted .hub (by decide)) (Eq.trans (frame .hub (by decide)) hubY)
  have mem : (settle v).mem = z.mem := (settle_mem v).trans (noted .mem (by decide))
  have kept := (settle_settled v).hub
  have role : ∀ q, (getCtrl (settle v) q).role = (getCtrl x q).role ∧ (getCtrl (settle v) q).chan = (getCtrl x q).chan := fun q => by
    rw [getCtrl_congr mem, ← getCtrl_congr memY]
    exact roles q
  refine ⟨⟨?_, ?_, ?_, ?_, ?_, fun c hc open_ part step => ?_⟩, fun keep0 idle k hk => ?_⟩
  · rw [kept.chanMap, hub', entry]
  · rw [kept.mapGen, hub', gen, hub]
  · rw [(role src).1, other, failed]
  · rw [(role tg).2, chan]
  · rw [(role tg).1, serves]
  · rw [getCtx_congr (settle_ctxs v), getCtx_congr (noted .ctxs (by decide)), fenced c hc open_ part step]
  · have stays : (settle v).mem.cells = (clearFrom w.mem tg 0).cells := by
      rw [mem, calm fun c hc => calm_kept (jobsY c) (idle c hc), memY, cells, keep0]
    rw [stays]
    exact ⟨memGet_clearFrom_here w.mem tg hk, (memGet_clearFrom_other w.mem ne 0 hk).trans (lost k hk)⟩

theorem lossUnmapped_unmaps (hs : src < 80) (ch : Chan) (e : ChanEntry) :
    (settle (lossUnmapped s ch.val src e)).hub.mapGen = s.hub.mapGen + 2 ∧
    (settle (lossUnmapped s ch.val src e)).hub.chanMap.getD ch.val { ctrl := 0, status := .unmapped } = { e with status := .mappedOut } ∧
    (getCtrl (settle (lossUnmapped s ch.val src e)) src).role = .failed := by
  obtain ⟨hub, -, failed, -, -⟩ := positionLost_moves s ch.val hs
  unfold lossUnmapped
  generalize positionLost s ch.val src = w at hub failed ⊢
  dsimp only
  obtain ⟨x, hx⟩ : ∃ x, x = mappedOut w ch.val e := ⟨_, rfl⟩
  have gen : x.hub.mapGen = s.hub.mapGen + 2 := by
    rw [hx, ← hub]
    rfl
  have entry : x.hub.chanMap.getD ch.val { ctrl := 0, status := .unmapped } = { e with status := .mappedOut } := by
    rw [hx]
    exact chanMap_setChanMap w.hub ch.isLt _
  have role : (getCtrl x src).role = .failed := by
    rw [hx]
    exact failed
  rw [← hx]
  obtain ⟨frame, roles⟩ := fenceChan_kept x (chanPart x ch.val) false
  generalize fenceChan x (chanPart x ch.val) false = z at frame roles ⊢
  obtain ⟨b, hb⟩ : ∃ b, b = channelBody ch.val (src % 20) none 4 := ⟨_, rfl⟩
  rw [← hb]
  have noted := frame_postNotice z 0x000A none b
  generalize postNotice z 0x000A none b = v at noted ⊢
  have hub' : v.hub = x.hub := Eq.trans (noted .hub (by decide)) (frame .hub (by decide))
  have mem : (settle v).mem = z.mem := (settle_mem v).trans (noted .mem (by decide))
  have kept := (settle_settled v).hub
  refine ⟨?_, ?_, ?_⟩
  · rw [kept.mapGen, hub', gen]
  · rw [kept.chanMap, hub', entry]
  · rw [getCtrl_congr mem, (roles src).1, role]

/-- Whether a group has a spare depends on the roles of its controllers. -/
theorem groupSpare_congr {t : State} (opt : t.opt = s.opt) (role : ∀ q, (getCtrl t q).role = (getCtrl s q).role) (g : Nat) :
    groupSpare t g = groupSpare s g := by
  unfold groupSpare
  rw [groupBase_congr opt]
  simp only [role]

theorem spare_ends {g : Nat} (ch : Nat) (group : posGroup s src = some g) :
    (posGroup (accessesEnded s ch src) src).bind (groupSpare (accessesEnded s ch src)) = groupSpare s g := by
  have unhurt := unhurt_accessesEnded s ch src
  rw [posGroup_congr unhurt.opt, group, Option.bind_some, groupSpare_congr unhurt.opt unhurt.role]

variable {g : Nat} (hsrc : src = chanPos s ch.val) (bound : ch.val < chanCount s) (hs : src < 80)
include hsrc bound hs

/-- A channel that fails goes to the spare, zero-filled. -/
theorem channelFail_spare (entry : s.hub.chanMap.getD ch.val { ctrl := 0, status := .unmapped } = { ctrl := src % 20, status := .inService })
    (mig : migOf s ch.val = none) (group : posGroup s src = some g) (spare : groupSpare s g = some tg) (ht : tg < 80) (ne : src ≠ tg) :
    ∃ t, exec (.channelFail ch) s = .next t ∧ Relocated s t ch.val src tg ∧ ((∀ c, c < 64 → Calm (getCtx s c)) → ∀ k, k < 2 ^ 32 →
      memGet t.mem.cells (cellAddr tg k) = 0 ∧ memGet t.mem.cells (cellAddr src k) = 0) := by
  have run : exec (.channelFail ch) s = done (channelLost s ch.val) := rfl
  rw [channelLost_spare hsrc bound (by rw [entry]; exact .inl rfl) mig ((spare_ends ch.val group).trans spare)] at run
  obtain ⟨moved, zeros⟩ := lossMoved_relocates (s := s) (ch := ch) (keep := 0) hs ht ne
  exact ⟨_, run, moved, zeros rfl⟩

/-- A channel that fails without a spare is mapped out. -/
theorem channelFail_unmaps (entry : s.hub.chanMap.getD ch.val { ctrl := 0, status := .unmapped } = { ctrl := src % 20, status := .inService })
    (mig : migOf s ch.val = none) (group : posGroup s src = some g) (none_ : groupSpare s g = none) :
    ∃ t, exec (.channelFail ch) s = .next t ∧ t.hub.mapGen = s.hub.mapGen + 2 ∧
      t.hub.chanMap.getD ch.val { ctrl := 0, status := .unmapped } = { ctrl := src % 20, status := .mappedOut } ∧
      (getCtrl t src).role = .failed := by
  have run : exec (.channelFail ch) s = done (channelLost s ch.val) := rfl
  rw [channelLost_unmapped hsrc bound (by rw [entry]; exact .inl rfl) mig ((spare_ends ch.val group).trans none_), entry] at run
  exact ⟨_, run, lossUnmapped_unmaps hs ch _⟩

/-- A channel that fails in a migration goes to its target. -/
theorem channelFail_migrating {m : Migration} (st : (s.hub.chanMap.getD ch.val { ctrl := 0, status := .unmapped }).status = .migrating)
    (mig : migOf s ch.val = some m) (ht : m.target < 80) (ne : src ≠ m.target) :
    ∃ t, exec (.channelFail ch) s = .next t ∧ Relocated s t ch.val src m.target := by
  have run : exec (.channelFail ch) s = done (channelLost s ch.val) := rfl
  rw [channelLost_moves hsrc bound (.inr st) mig] at run
  exact ⟨_, run, (lossMoved_relocates hs ht ne).1⟩

omit hsrc bound hs in
theorem channelFail_rests (rest : AtRest s) (st : (s.hub.chanMap.getD ch.val { ctrl := 0, status := .unmapped }).status = .mappedOut ∨
    (s.hub.chanMap.getD ch.val { ctrl := 0, status := .unmapped }).status = .unmapped) : exec (.channelFail ch) s = .next s := by
  have still : channelLost s ch.val = s := by
    refine if_pos (.inr ?_)
    obtain h | h := st <;> exact ⟨by rw [h]; decide, by rw [h]; decide⟩
  exact (congrArg done still).trans (done_atRest rest)

end

/-- Settles O49: a migration in progress keeps of the slot what has been copied, and the end of the accesses to a lost channel leaves
the roles of the controllers, so that the spare of the group is the one that stood before. -/
theorem memoryIsScrubbedAndMigrates : Obligations.MemoryIsScrubbedAndMigrates := by
  unfold Obligations.MemoryIsScrubbedAndMigrates
  refine ⟨fun s none_ => ⟨?_, ?_, ?_⟩, ?_⟩
  · rintro p ch k rfl
    refine ⟨fun role chan ptr calm => ⟨fun tokens => ⟨?_, fun i x hx => ?_⟩, fun dry e1 e2 => ?_⟩, fun h e1 e2 => scrub_rests h e1 e2⟩
    · obtain ⟨t, run, cells, rd, -, pointer, ctxs, slots⟩ := scrub_reads (l1 := []) (l2 := []) role chan ptr calm none_ tokens readErrs_none
        fun _ => rfl
      exact ⟨t, run, cells, rd, pointer, ctxs, slots⟩
    · obtain ⟨left, read, clean⟩ := readErrs_one (i := i) hx
      obtain ⟨t, run, cells, -, corr, -⟩ := scrub_reads role chan ptr calm none_ tokens read clean
      exact ⟨t, run, cells, corr⟩
    · exact scrub_waits role chan calm dry e1 e2
  · intro c va part pg off ch byte pos e w up page place serve_ hpos
    exact ⟨attribution_transport up page place serve_ hpos, fun ok1 ok2 bad => attribution_memory up page place serve_ hpos bad⟩
  · exact fun c va rest h a b => attribution_rests rest h a b
  · intro ch s src hsrc bound hs none_
    refine ⟨?_, ?_, ?_, ?_, ?_, ?_, ?_⟩
    · intro m g entry up due group
      refine ⟨fun tg free spare ht ne => ⟨?_, ?_⟩, fun h ok => ?_⟩
      · exact migrationStart_begins hsrc hs ht ne entry up due group free spare
      · exact migrationStart_fails hsrc ht entry up due group free spare
      · exact leads_done (congrArg done (migStart_waits hsrc entry up due group h ok)) (.refl _)
    · exact fun m ok rest due => (congrArg done (migStart_notDue hsrc due ok)).trans (done_atRest rest)
    · intro g mig hsg htg ne
      refine ⟨fun more => ⟨fun l errs tokens wf => ?_, fun dry l k => ?_, fun r e => ?_⟩, fun all => ⟨fun l k => ?_, fun rate eye => ?_⟩⟩
      · exact migrationSlotCopy_copies mig hsg ne more none_ errs tokens wf
      · exact leads_done (congrArg done (migCopy_waits mig more dry _ _)) (.refl _)
      · exact leads_done (congrArg done (migDone_early mig more r e)) (.refl _)
      · exact leads_done (congrArg done (migCopy_done mig all _ _)) (.refl _)
      · exact migrationComplete_switches mig hsg htg ne all rate eye
    · exact fun rest mig l k r e => ⟨(congrArg done (migCopy_none mig _ _)).trans (done_atRest rest),
        (congrArg done (migDone_none mig r e)).trans (done_atRest rest)⟩
    · intro entry mig g group
      refine ⟨fun tg spare ht ne => ?_, fun dry => channelFail_unmaps hsrc bound hs entry mig group dry⟩
      obtain ⟨t, run, moved, zeros⟩ := channelFail_spare hsrc bound hs entry mig group spare ht ne
      exact ⟨t, run, moved.entry, moved.mapGen, moved.failed, moved.chan, zeros, moved.fenced⟩
    · intro g st mig ht ne
      obtain ⟨t, run, moved⟩ := channelFail_migrating hsrc bound hs st mig ht ne
      exact ⟨t, run, moved.entry, moved.failed, moved.chan, moved.serves⟩
    · exact fun st rest => channelFail_rests rest st

end Sys2Proof.Machine
end

section
-- One proof after the other: a text of this length has more proofs waiting at once than the check has threads for.
set_option Elab.async false
/-! PROOFS. How a COPY ends (R172, R175, R190, R264): what its end leaves of the module and of its core, and what a failure leaves of its
stream. -/
namespace Sys2Proof.Machine

/-! ### What the end of a COPY leaves -/

/-- Between two cores the data stay, and where no stream waited none waits. -/
structure DataKept (c e : PCore) : Prop where
  stage : e.stage = c.stage
  cache : e.cache = c.cache
  banks : e.banks = c.banks
  free  : (∀ i, (getStream c i).blocked = none) → ∀ i, (getStream e i).blocked = none

/-- Between two states the map and memory stay, what was sent stays sent, and so do the data of a core. -/
structure Tame (n : Nat) (s t : State) : Prop where
  hub  : t.hub = s.hub
  mem  : t.mem = s.mem
  sent : s.outbox <:+ t.outbox
  tags : NoLockout s → NoLockout t
  data : DataKept (getC s n) (getC t n)

section
variable {c d e : PCore} {s t u : State} {n i : Nat}

theorem DataKept.refl (c : PCore) : DataKept c c := ⟨rfl, rfl, rfl, id⟩

theorem DataKept.trans (h : DataKept c d) (k : DataKept d e) : DataKept c e :=
  ⟨k.stage.trans h.stage, k.cache.trans h.cache, k.banks.trans h.banks, fun f => k.free (h.free f)⟩

/-- Where the streams stay. -/
theorem dataKept_of_streams (streams : e.streams = c.streams) (stage : e.stage = c.stage) (cache : e.cache = c.cache) (banks : e.banks = c.banks) :
    DataKept c e := ⟨stage, cache, banks, fun f k => by
  rw [getStream, streams]
  exact f k⟩

theorem dataKept_setStream (c : PCore) (i : Nat) {t : Stream} (h : t.blocked = none ∨ t.blocked = (getStream c i).blocked) :
    DataKept c (setStream c i t) := ⟨rfl, rfl, rfl, fun f k => by
  by_cases hk : k = i
  · subst hk
    by_cases bound : k < 16
    · rw [getStream_setStream_same c bound]
      exact h.elim id fun same => same.trans (f k)
    · rw [getStream_outside bound]
      rfl
  · rw [getStream_setStream_other c hk]
    exact f k⟩

theorem dataKept_modStream (c : PCore) (i : Nat) {f : Stream → Stream} (h : ∀ t, (f t).blocked = none ∨ (f t).blocked = t.blocked) :
    DataKept c (modStream c i f) := dataKept_setStream c i (h _)

theorem dataKept_signalled (c : PCore) (d : BitVec 256) : DataKept c (signalled c d) := by
  obtain ⟨x, y, eq⟩ := signalled_eq c d
  rw [eq]
  exact dataKept_of_streams rfl rfl rfl rfl

theorem Tame.refl (n : Nat) (s : State) : Tame n s s := ⟨rfl, rfl, List.suffix_rfl, id, .refl _⟩

theorem Tame.trans (h : Tame n s t) (k : Tame n t u) : Tame n s u :=
  ⟨k.hub.trans h.hub, k.mem.trans h.mem, h.sent.trans k.sent, fun f => k.tags (h.tags f), h.data.trans k.data⟩

theorem noLockout_congr (calm : NoLockout s) (h : t.ctxs = s.ctxs) : NoLockout t := fun k => by
  rw [getCtx_congr h]
  exact calm k

theorem tame_modC (s : State) (n : Nat) {f : PCore → PCore} (h : ∀ c, DataKept c (f c)) : Tame n s (modC s n f) :=
  ⟨rfl, rfl, List.suffix_rfl, id, by rw [getC_modC_same]; exact h _⟩

theorem tame_frame {l : List Part} (n : Nat) (h : AllBut l s t)
    (hl : ∀ q ∈ [Part.hub, .mem, .sent, .ctxs, .slots], q ∉ l := by decide) : Tame n s t := by
  have ctxs : t.ctxs = s.ctxs := h .ctxs (hl _ (by decide))
  refine ⟨h .hub (hl _ (by decide)), h .mem (hl _ (by decide)), h .sent (hl _ (by decide)), fun f => noLockout_congr f ctxs, ?_⟩
  rw [getC_congr (h .hub (hl _ (by decide))) (h .slots (hl _ (by decide)))]
  exact .refl _

/-- A change of a context that leaves its counts of tag failures. -/
theorem tame_modCtx (n : Nat) (s : State) (c : Nat) {f : Context → Context} (h : ∀ x, (f x).sec.tags = x.sec.tags) : Tame n s (modCtx s c f) := by
  refine ⟨rfl, rfl, List.suffix_rfl, fun calm k => ?_, .refl _⟩
  by_cases hk : k = c
  · subst hk
    by_cases bound : k < 64
    · rw [getCtx_modCtx_same s bound, h]
      exact calm k
    · rw [modCtx_outOfBounds s (by omega)]
      exact calm k
  · rw [getCtx_modCtx_other s hk]
    exact calm k

/-! ### Requests of a core (R262) -/

theorem tame_sealPacket {c : Nat} {k : Packet} {r : State × Packet} (n : Nat) (h : sealPacket s c k = some r) : Tame n s r.1 := by
  unfold sealPacket at h
  dsimp only at h
  split at h
  · cases h
    exact .refl n s
  · split at h
    · cases h
    · cases h
      dsimp only
      exact tame_modCtx n s c fun _ => rfl

theorem tame_sendRouted (n : Nat) (s : State) (c : Nat) (k : Packet) : Tame n s (sendRouted s c k).1 := by
  unfold sendRouted
  cases h : sealPacket s c k with
  | none => exact .refl n s
  | some r =>
    have taken := tame_sealPacket n h
    dsimp only
    split <;> dsimp only
    · exact taken.trans (tame_frame n (frame_sendOn _ _ _))
    · exact taken.trans (tame_frame n (frame_sendOn _ _ _))
    · exact taken
    · exact taken.trans (tame_frame n (frame_dropNoroute _))

theorem tame_sendRequest (n : Nat) (s : State) (c e : Nat) (o : ReqOwner) (k : Packet) : Tame n s (sendRequest s c e o k).1 := by
  unfold sendRequest
  extract_lets x id k' r
  have sent : Tame n s r.1 := tame_sendRouted n s c k'
  split
  · exact sent
  · refine sent.trans ?_
    dsimp only
    exact tame_frame n (frame_modFab r.1 _)

/-! ### The end of a COPY -/

variable {id : Nat} {j k : CopyJob} {cause : BitVec 8}

theorem tame_setCopy (s : State) (n : Nat) (j : CopyJob) : Tame n s (setCopy s n j) := by
  unfold setCopy
  exact tame_modC s n fun _ => dataKept_of_streams rfl rfl rfl rfl

theorem dataKept_haltStream (c : PCore) (i : Nat) (cause tag : BitVec 8) (a : BitVec 48) : DataKept c (haltCore c i cause tag a) := by
  rw [haltCore, recordErr_eq]
  exact (dataKept_setStream c i (t := { getStream c i with st := .halted, blocked := none, due := false, ahead := [] }) (.inl rfl)).trans
    (dataKept_of_streams rfl rfl rfl rfl)

theorem tame_haltStream (s : State) (n i : Nat) (cause tag : BitVec 8) (a : BitVec 48) : Tame n s (haltStream s n i cause tag a) := by
  unfold haltStream
  refine tame_modC s n fun c => ?_
  dsimp only
  split
  · exact dataKept_haltStream c i cause tag a
  · exact .refl c

theorem tame_failCopy (s : State) (n : Nat) (j : CopyJob) (cause : BitVec 8) : Tame n s (failCopy s n j cause).1 := by
  unfold failCopy
  split
  · exact .refl n s
  · exact (tame_setCopy s n _).trans (tame_haltStream _ n _ _ _ _)

theorem tame_sendPsig (s : State) (n : Nat) (j : CopyJob) : Tame n s (sendPsig s n j) := by
  unfold sendPsig
  dsimp only
  split
  · have sent := fun e k => tame_sendRequest n s (jobStream s n j.iss).ctx e (.psig n j.iss.id) k
    split
    · exact (sent _ _).trans (tame_failCopy _ n j _)
    · exact (sent _ _).trans (tame_setCopy _ n _)
  · exact tame_failCopy s n j _

theorem tame_countProg (s : State) (n i : Nat) : Tame n s (countProg s n i) := by
  unfold countProg
  dsimp only
  refine Tame.trans ?_ (tame_modCtx n _ _ fun _ => rfl)
  exact tame_modC s n fun c => dataKept_modStream c i fun _ => .inr rfl

theorem tame_signalSsem (s : State) (n : Nat) (d : BitVec 256) : Tame n s (signalSsem s n d) := by
  unfold signalSsem
  split
  · refine tame_modC s n fun c => ?_
    obtain ⟨x, y, eq⟩ := semAdd_eq c (ssemOf d) 1
    rw [eq]
    exact dataKept_of_streams rfl rfl rfl rfl
  · exact .refl n s

theorem tame_dropCopy (s : State) (n id : Nat) : Tame n s (dropCopy s n id) := by
  unfold dropCopy
  exact tame_modC s n fun _ => dataKept_of_streams rfl rfl rfl rfl

theorem tame_dropIssued (s : State) (n : Nat) (x : Issued) : Tame n s (dropIssued s n x) := by
  unfold dropIssued
  exact tame_modC s n fun c => dataKept_modStream c x.slot fun _ => .inr rfl

theorem tame_completeIssued (s : State) (n : Nat) (x : Issued) : Tame n s (completeIssued s n x) := by
  unfold completeIssued
  dsimp only
  refine ((tame_signalSsem s n x.desc).trans (tame_countProg _ n x.slot)).trans ?_
  exact tame_modC _ n fun c => dataKept_modStream c x.slot fun _ => .inr rfl

theorem Tame.none (h : Tame n s t) (free : NoneBlocked s n) : NoneBlocked t n := h.data.free free

/-- What a fence leaves of a stream that stopped for it. -/
def idledStream (s : State) (c : PCore) (i : Nat) : PCore :=
  if (getStream c i).st == .stopping && (getStream c i).inflight.isEmpty && (getCtx s (getStream c i).ctx).st != .fencing
  then setStream c i { getStream c i with st := .idle } else c

theorem idleStopped_eq (s : State) (n : Nat) : idleStopped s n = modC s n fun c => (List.range 16).foldl (idledStream s) c := rfl

/-- Of a core at most streams that stop have moved. -/
structure Idles (c e : PCore) : Prop where
  rest  : ∃ x, e = { c with streams := x }
  halted : ∀ i, (getStream c i).st = .halted → (getStream e i).st = .halted
  data  : DataKept c e

theorem idles_idledStream (s : State) (c : PCore) (i : Nat) : Idles c (idledStream s c i) := by
  unfold idledStream
  split
  · rename_i stops
    refine ⟨⟨_, rfl⟩, fun k hk => ?_, dataKept_setStream c i (.inr rfl)⟩
    have other : k ≠ i := fun e => by
      rw [← e, hk] at stops
      simp at stops
    rw [getStream_setStream_other c other]
    exact hk
  · exact ⟨⟨c.streams, rfl⟩, fun _ hk => hk, .refl c⟩

theorem Idles.trans (h : Idles c d) (k : Idles d e) : Idles c e := by
  obtain ⟨⟨x, rfl⟩, halted, data⟩ := h
  obtain ⟨⟨y, eq⟩, halted', data'⟩ := k
  exact ⟨⟨y, eq⟩, fun i hi => halted' i (halted i hi), data.trans data'⟩

theorem idles_idledStreams (s : State) : ∀ (l : List Nat) (c : PCore), Idles c (l.foldl (idledStream s) c)
  | [], c => ⟨⟨c.streams, rfl⟩, fun _ hk => hk, .refl c⟩
  | i :: l, c => (idles_idledStream s c i).trans (idles_idledStreams s l _)

theorem tame_idleStopped (s : State) (n : Nat) : Tame n s (idleStopped s n) := by
  rw [idleStopped_eq]
  exact tame_modC s n fun c => (idles_idledStreams s _ c).data

/-- The end of a COPY on a core on which no stream waits leaves memory, and the data of the core. -/
theorem tame_endCopy (id : Nat) (free : NoneBlocked s n) : Tame n s (endCopy s n id) := by
  have woken : ∀ v, Tame n s v → Tame n s (wakeCore v n) := fun v hv => by
    rw [wakeCore_none (hv.none free)]
    exact hv
  have dropped : ∀ v x, Tame n s v → Tame n s (dropIssued (dropCopy v n id) n x) := fun v x hv =>
    (hv.trans (tame_dropCopy v n id)).trans (tame_dropIssued _ n x)
  unfold endCopy
  split
  · exact .refl n s
  · rename_i j _
    dsimp only
    split
    · exact .refl n s
    · split
      · exact (woken _ (dropped s j.iss (.refl n s))).trans (tame_idleStopped _ n)
      · split
        · have signalled := tame_sendPsig s n j
          split
          · split
            · exact woken _ (dropped _ _ signalled)
            · exact signalled
          · exact signalled
        · exact woken _ ((tame_dropCopy s n id).trans (tame_completeIssued _ n j.iss))

/-! ### A COPY fails (R175, R190) -/

/-- Of a core stream `i` has halted with a cause, which stands in its error register where that was free, and the semaphores stay. -/
structure HaltedBy (p : PCore) (i : Nat) (cause : BitVec 8) (e : PCore) : Prop where
  st   : (getStream e i).st = .halted
  sems : e.sems = p.sems
  err  : p.errValid = false → ∃ q, e.err = some q ∧ q.stream = i ∧ q.cause = cause

/-- What moves neither the stream nor the error register keeps the halt. -/
theorem HaltedBy.of_kept {p : PCore} (h : HaltedBy p i cause c) (st : (getStream c i).st = .halted → (getStream e i).st = .halted)
    (sems : e.sems = c.sems) (err : e.err = c.err) : HaltedBy p i cause e :=
  ⟨st h.st, sems.trans h.sems, fun free => by
    rw [err]
    exact h.err free⟩

theorem failCopy_sound (sound : j.failed = none) (cause : BitVec 8) : failCopy s n j cause =
    (haltStream (setCopy s n (copyFailed j cause)) n j.iss.slot cause (tagOf j.iss.desc) j.iss.pc, copyFailed j cause) :=
  if_neg (by rw [sound]; decide)

theorem failCopy_failed (h : j.failed.isSome = true) (cause : BitVec 8) : failCopy s n j cause = (s, j) := if_pos h

/-- The core once a COPY of it has failed. -/
def failedCore (c : PCore) (j : CopyJob) (cause : BitVec 8) : PCore :=
  haltCore { c with copies := c.copies.map fun q => if q.iss.id = j.iss.id then copyFailed j cause else q } j.iss.slot cause (tagOf j.iss.desc) j.iss.pc

theorem failCopy_core (l : List Part) (sound : j.failed = none) (runs : (getStream (getC s n) j.iss.slot).st = .running) (cause : BitVec 8)
    (hl : Part.hub ∉ Part.slots :: l := by decide) : CoreTo l n s (failCopy s n j cause).1 (failedCore (getC s n) j cause) := by
  have placed : CoreTo l n s (setCopy s n (copyFailed j cause)) { getC s n with
      copies := (getC s n).copies.map fun q => if q.iss.id = (copyFailed j cause).iss.id then copyFailed j cause else q } :=
    coreTo_modC l s n fun c => { c with copies := c.copies.map fun q => if q.iss.id = (copyFailed j cause).iss.id then copyFailed j cause else q }
  have runs' : (getStream (getC (setCopy s n (copyFailed j cause)) n) j.iss.slot).st = .running := by
    rw [getStream_setCopy]
    exact runs
  have halt := haltStream_core l runs' (cause := cause) (tag := tagOf j.iss.desc) (a := j.iss.pc)
  rw [placed.own] at halt
  rw [failCopy_sound sound]
  exact placed.trans halt hl

theorem failedCore_halted (c : PCore) (j : CopyJob) (cause : BitVec 8) (hi : j.iss.slot < 16) : HaltedBy c j.iss.slot cause (failedCore c j cause) :=
  ⟨by rw [failedCore, getStream_haltCore hi], by rw [failedCore, haltCore_sems], fun free =>
    (haltCore_err (c := { c with copies := c.copies.map fun q => if q.iss.id = j.iss.id then copyFailed j cause else q }) free).2⟩

/-- A COPY that has failed ends without a signal. -/
theorem endCopy_failed (h : copyById s n id = some j) (failed : j.failed.isSome = true) (free : NoneBlocked s n) :
    endCopy s n id = s ∨ endCopy s n id = idleStopped (dropIssued (dropCopy s n id) n j.iss) n := by
  unfold endCopy
  rw [show (getC s n).copies.find? (fun q => q.iss.id == id) = some j from h]
  dsimp only
  split
  · exact .inl rfl
  · right
    rw [failed, Bool.true_or, if_pos rfl, wakeCore_none (((tame_dropCopy s n id).trans (tame_dropIssued _ n j.iss)).none free)]

theorem endCopy_halted {p : PCore} (h : copyById s n id = some j) (failed : j.failed.isSome = true) (free : NoneBlocked s n)
    (halt : HaltedBy p i cause (getC s n)) : HaltedBy p i cause (getC (endCopy s n id) n) ∧ AllBut [.slots] s (endCopy s n id) := by
  obtain eq | eq := endCopy_failed h failed free
  · rw [eq]
    exact ⟨halt, .refl _ s⟩
  · have dropped : HaltedBy p i cause (getC (dropIssued (dropCopy s n id) n j.iss) n) := by
      refine halt.of_kept (fun st => ?_) ?_ ?_
      · rw [dropIssued, getC_modC_same, dropCopy, getC_modC_same]
        by_cases same : i = j.iss.slot
        · subst same
          by_cases bound : j.iss.slot < 16
          · rw [getStream_modStream_same _ bound]
            exact st
          · rw [getStream_outside bound] at st
            cases st
        · rw [getStream_modStream_other _ same]
          exact st
      · rw [dropIssued, getC_modC_same, dropCopy, getC_modC_same]
        rfl
      · rw [dropIssued, getC_modC_same, dropCopy, getC_modC_same]
        rfl
    have frame : AllBut [.slots] s (dropIssued (dropCopy s n id) n j.iss) :=
      AllBut.trans (show AllBut [.slots] s (dropCopy s n id) from frame_modC s n _) (frame_dropIssued _ n j.iss)
    rw [eq]
    generalize dropIssued (dropCopy s n id) n j.iss = v at dropped frame ⊢
    rw [idleStopped_eq]
    refine ⟨?_, frame.trans (frame_modC v n _)⟩
    rw [getC_modC_same]
    obtain ⟨⟨x, rest⟩, halted, -⟩ := idles_idledStreams v (List.range 16) (getC v n)
    exact dropped.of_kept (halted i) (by rw [rest]) (by rw [rest])

end

end Sys2Proof.Machine
end

section
-- One proof after the other: a text of this length has more proofs waiting at once than the check has threads for.
set_option Elab.async false
/-! PROOFS. The requests of a COPY issue in its turn (R187 to R189, R219), and wait for the pages that are not translated. -/
namespace Sys2Proof.Machine

section
variable {s t u v : State} {n : Nat} {j k : CopyJob} {x : Copy} {w : Span} {id : BitVec 16}

/-- The COPY that a row names is the first under its number. -/
theorem copyById_of_find (h : findCopy s n id = some j) : copyById s n j.iss.id = some j := by
  unfold findCopy at h
  unfold copyById
  generalize (getC s n).copies = l at h ⊢
  induction l with
  | nil => cases h
  | cons a l ih =>
    rw [List.find?_cons] at h ⊢
    by_cases ha : BitVec.ofNat 16 a.iss.id = id
    · rw [show (BitVec.ofNat 16 a.iss.id == id) = true by simpa using ha] at h
      obtain rfl := Option.some.inj h
      rw [beq_self_eq_true]
    · rw [show (BitVec.ofNat 16 a.iss.id == id) = false by simpa using ha] at h
      have named : BitVec.ofNat 16 j.iss.id = id := by simpa using List.find?_some h
      have other : (a.iss.id == j.iss.id) = false := by
        rw [beq_eq_false_iff_ne]
        exact fun e => ha (e ▸ named)
      rw [other]
      exact ih h

/-! ### The turn of a COPY (R188) -/

/-- The fault of a request before its pages are judged (R187). -/
def requestFault (s : State) (ctx : Nat) (x : Copy) (w : Span) : Option (BitVec 8) :=
  if x.cmode ≠ 0 ∧ (w.src.toNat % unitBytes ≠ 0 ∨ w.dst.toNat % unitBytes ≠ 0) then some 0x02 else spanFault s ctx x w

theorem accessFault_framed {l : List Part} (h : AllBut l s t) (hl : Part.ctxs ∉ l ∧ Part.pmap ∉ l := by decide) (c loc : Nat) (a : BitVec 48)
    (wr : Bool) : accessFault t c loc a wr = accessFault s c loc a wr := by
  unfold accessFault
  rw [translate_framed h hl]

theorem spanFault_framed {l : List Part} (h : AllBut l s t) (hl : Part.ctxs ∉ l ∧ Part.pmap ∉ l := by decide) (c : Nat) (x : Copy) (w : Span) :
    spanFault t c x w = spanFault s c x w := by
  unfold spanFault
  simp only [accessFault_framed h hl]

theorem frame_ceTurn (s : State) (n : Nat) (j : CopyJob) : AllBut [.slots] s (ceTurn s n j) := frame_modC s n _

theorem frame_countMiss (s : State) (n v : Nat) : AllBut [.slots] s (countMiss s n v) := by
  unfold countMiss
  exact .ite (fun _ => .refl _ s) fun _ => frame_modCnt s n _

/-- R188: the COPY has its turn with its next request. -/
structure HasTurn (s : State) (n : Nat) (j : CopyJob) (x : Copy) (w : Span) : Prop where
  next : nextToRequest (getC s n) = some j.iss.id
  few  : requestsOut (getC s n) < 48
  job  : x = copyOf j.iss.desc
  span : spanOf x j.src j.dst j.next = some w

theorem HasTurn.scrutinee (h : HasTurn s n j x w) : (if nextToRequest (getC s n) == some j.iss.id && decide (requestsOut (getC s n) < 48)
    then spanOf (copyOf j.iss.desc) j.src j.dst j.next else none) = some w := by
  rw [h.next, beq_self_eq_true, decide_eq_true h.few, ← h.job, h.span]
  rfl

theorem issueRequest_misses (h : HasTurn s n j x w) {a : BitVec 48 × Bool}
    (miss : (spanPages x w).find? (fun q => !(getC s n).xlat.contains (pageOf q.1)) = some a) :
    issueRequest s n j = setCopy (countMiss s n (pageOf a.1)) n { j with miss := some (pageOf a.1) } := by
  unfold issueRequest
  dsimp only
  rw [h.scrutinee]
  dsimp only
  rw [← h.job, miss]

variable (h : HasTurn s n j x w) (pages : (spanPages x w).find? (fun q => !(getC s n).xlat.contains (pageOf q.1)) = none)
include h pages

omit h pages in
theorem issueRequest_fault_scrutinee : (if x.cmode != 0 ∧ (w.src.toNat % unitBytes ≠ 0 ∨ w.dst.toNat % unitBytes ≠ 0) then some 0x02
    else spanFault (ceTurn s n j) (jobStream s n j.iss).ctx x w) = requestFault s (jobStream s n j.iss).ctx x w := by
  rw [spanFault_framed (frame_ceTurn s n j)]
  simp only [bne_iff_ne]
  rfl

theorem issueRequest_faults {e : BitVec 8} (fault : requestFault s (jobStream s n j.iss).ctx x w = some e) :
    issueRequest s n j = endCopy (failCopy (ceTurn s n j) n j e).1 n j.iss.id := by
  unfold issueRequest
  dsimp only
  rw [h.scrutinee]
  dsimp only
  rw [← h.job, pages]
  dsimp only
  rw [issueRequest_fault_scrutinee, fault]

variable (fine : requestFault s (jobStream s n j.iss).ctx x w = none)
include fine

omit pages fine h in
/-- Beside a change of the cores a request moves as many blocks. -/
theorem chargedBlocks_ceTurn (s : State) (n : Nat) (j : CopyJob) (c : Nat) (x : Copy) (w : Span) :
    chargedBlocks (ceTurn s n j) n c x w = chargedBlocks s n c x w := by
  have alike : PlacesAlike s (ceTurn s n j) := .of_frame (frame_ceTurn s n j)
  have stage : (getC (ceTurn s n j) n).stage = (getC s n).stage := by
    rw [ceTurn, getC_modC_same]
  have unit : unitAt (ceTurn s n j) c w.src = unitAt s c w.src := by
    unfold unitAt
    rw [alike.translate]
    split
    · dsimp only
      rw [alike.placeByte, alike.servePos]
      rfl
    · rfl
  unfold chargedBlocks
  rw [unit, stage]

theorem issueRequest_waits (dry : takeAll (n / 32) x.cls (requestSizes (chargedBlocks s n (jobStream s n j.iss).ctx x w)) (ceTurn s n j) = none) :
    issueRequest s n j = holdTokens (ceTurn s n j) (n / 32) x.cls := by
  unfold issueRequest
  dsimp only
  rw [h.scrutinee]
  dsimp only
  rw [← h.job, pages]
  dsimp only
  rw [issueRequest_fault_scrutinee, fine]
  dsimp only
  rw [chargedBlocks_ceTurn, dry]

/-- The COPY with its next request issued. -/
def asking (j : CopyJob) : CopyJob := { j with next := j.next + 1, out := j.out ++ [j.next] }

variable (paid : takeAll (n / 32) x.cls (requestSizes (chargedBlocks s n (jobStream s n j.iss).ctx x w)) (ceTurn s n j) = some u)
include paid

theorem issueRequest_held (held : (mapGet? j.held j.next).isSome = true) : issueRequest s n j = setCopy u n (asking j) := by
  unfold issueRequest
  dsimp only
  rw [h.scrutinee]
  dsimp only
  rw [← h.job, pages]
  dsimp only
  rw [issueRequest_fault_scrutinee, fine]
  dsimp only
  rw [chargedBlocks_ceTurn, paid]
  exact if_pos held

theorem issueRequest_sends (held : mapGet? j.held j.next = none)
    (sound : (startReads (setCopy u n (asking j)) n (asking j) j.next w).2.failed = none) : issueRequest s n j =
      setCopy (startReads (setCopy u n (asking j)) n (asking j) j.next w).1 n (startReads (setCopy u n (asking j)) n (asking j) j.next w).2 := by
  have none_ : ¬ (mapGet? j.held j.next).isSome = true := by rw [held]; decide
  have fine_ : ¬ (startReads (setCopy u n (asking j)) n (asking j) j.next w).2.failed.isSome = true := by rw [sound]; decide
  unfold issueRequest
  dsimp only
  rw [h.scrutinee]
  dsimp only
  rw [← h.job, pages]
  dsimp only
  rw [issueRequest_fault_scrutinee, fine]
  dsimp only
  rw [chargedBlocks_ceTurn, paid]
  exact (if_neg none_).trans (if_neg fine_)

end

section
variable {s u : State} {n req : Nat} {j : CopyJob} {w : Span} {c : Nat}

theorem startReads_none (h3 : (copyOf j.iss.desc).srcLoc ≠ 3) (h4 : (copyOf j.iss.desc).srcLoc ≠ 4) : startReads s n j req w = (s, j) := by
  unfold startReads
  dsimp only
  split
  · contradiction
  · contradiction
  · rfl

theorem startReads_host (h4 : (copyOf j.iss.desc).srcLoc = 4) :
    startReads s n j req w = (readHost s (jobStream s n j.iss).ctx (blocksOf w.src w.len), j) := by
  have at4 : (copyOf j.iss.desc).srcLoc = 4 := h4
  unfold startReads
  dsimp only
  split
  · exact absurd (at4.symm.trans ‹_›) (by decide)
  · rfl
  · contradiction

/-- Reads of the host window leave only in the outbox. -/
theorem readHost_eq (s : State) (c : Nat) (l : List (BitVec 48)) : ∃ o, readHost s c l = { s with outbox := o ++ s.outbox } := by
  unfold readHost
  generalize readRuns 10 0 l = rs
  induction rs generalizing s with
  | nil => exact ⟨[], rfl⟩
  | cons r rs ih =>
    rw [List.foldl_cons]
    split
    · rename_i a wr _
      obtain ⟨o, ho⟩ := ih (emit s (.hostRead a (256 * r.2.length)))
      exact ⟨o ++ [.hostRead a (256 * r.2.length)], ho.trans (by rw [List.append_assoc]; rfl)⟩
    · exact ih s

theorem setCopy_readHost (s : State) (n c : Nat) (j : CopyJob) (l : List (BitVec 48)) :
    setCopy (readHost (setCopy s n j) c l) n j = readHost (setCopy s n j) c l := by
  obtain ⟨o, ho⟩ := readHost_eq (setCopy s n j) c l
  have aside : ∀ v : State, setCopy { v with outbox := o ++ v.outbox } n j = { setCopy v n j with outbox := o ++ v.outbox } := fun _ => rfl
  rw [ho, aside, setCopy_setCopy _ _ rfl]

end

/-- A COPY that fails with nothing outstanding of it, or ends later: its stream has halted. -/
theorem copy_fails {s : State} {n : Nat} {j : CopyJob} (named : copyById s n j.iss.id = some j) (sound : j.failed = none)
    (runs : (getStream (getC s n) j.iss.slot).st = .running) (free : NoneBlocked s n) (e : BitVec 8) :
    HaltedBy (getC s n) j.iss.slot e (getC (endCopy (failCopy s n j e).1 n j.iss.id) n) ∧
      Tame n s (endCopy (failCopy s n j e).1 n j.iss.id) ∧ AllBut [.slots] s (endCopy (failCopy s n j e).1 n j.iss.id) := by
  have out := failCopy_core [] sound runs e
  have fails := tame_failCopy s n j e
  have halt := failedCore_halted (getC s n) j e (running_lt runs)
  rw [← out.own] at halt
  have named' : copyById (failCopy s n j e).1 n j.iss.id = some (copyFailed j e) := by
    rw [failCopy_sound sound, copyById_haltStream]
    exact copyById_setCopy named rfl
  obtain ⟨ends, frame⟩ := endCopy_halted named' rfl (fails.none free) halt
  exact ⟨ends, fails.trans (tame_endCopy j.iss.id (fails.none free)), out.frame.trans frame⟩

theorem ceTurn_core (l : List Part) (s : State) (n : Nat) (j : CopyJob) : CoreTo l n s (ceTurn s n j) { getC s n with ceLast := some j.iss.id } :=
  coreTo_modC l s n _

/-! ### COPY_REQUEST_ISSUE (R188) -/

section
variable {c : Core} {id : BitVec 16} {s u : State} {j : CopyJob} {x : Copy} {w : Span}
variable (serves : inService s c.val = true) (found : findCopy s c.val id = some j) (calm : NoLockout s)
include serves found

theorem exec_requestIssue : exec (.copyRequestIssue c id) s = doneMem (issueRequest s c.val j) := by
  have scrutinee : (if inService s c.val then findCopy s c.val id else none) = some j := by rw [if_pos serves, found]
  show doneMem _ = _
  rw [scrutinee]

theorem requestIssue_leads {v : State} (eq : issueRequest s c.val j = v) (kept : NoLockout v) : Leads (.copyRequestIssue c id) s v :=
  leads_done ((exec_requestIssue serves found).trans ((congrArg doneMem eq).trans (doneMem_eq kept))) (.refl _)

include calm

theorem requestIssue_rests (rest : AtRest s) (h : nextToRequest (getC s c.val) ≠ some j.iss.id ∨ 48 ≤ requestsOut (getC s c.val)) :
    exec (.copyRequestIssue c id) s = .next s := by
  have off : (nextToRequest (getC s c.val) == some j.iss.id && decide (requestsOut (getC s c.val) < 48)) = false := by
    obtain other | many := h
    · rw [show (nextToRequest (getC s c.val) == some j.iss.id) = false by simpa using other, Bool.false_and]
    · rw [decide_eq_false (by omega), Bool.and_false]
  have still : issueRequest s c.val j = s := by
    unfold issueRequest
    dsimp only
    rw [off, if_neg Bool.false_ne_true]
  refine next_of_atRest rest ((exec_requestIssue serves found).trans ?_)
  rw [still]
  exact doneMem_eq calm

variable (runs : (getStream (getC s c.val) j.iss.slot).st = .running) (free : NoneBlocked s c.val) (sound : j.failed = none)
include runs free sound

/-- A request that faults ends its COPY, whose stream halts. -/
theorem requestIssue_faults {e : BitVec 8} (h : HasTurn s c.val j x w)
    (pages : (spanPages x w).find? (fun q => !(getC s c.val).xlat.contains (pageOf q.1)) = none)
    (fault : requestFault s (jobStream s c.val j.iss).ctx x w = some e) : ∃ t, exec (.copyRequestIssue c id) s = .next t ∧
      (getStream (getC t c.val) j.iss.slot).st = .halted ∧ (getC t c.val).stage = (getC s c.val).stage ∧ t.mem.cells = s.mem.cells ∧
      ((getC s c.val).errValid = false → ∃ q, (getC t c.val).err = some q ∧ q.stream = j.iss.slot ∧ q.cause = e) := by
  have turn := ceTurn_core [] s c.val j
  have tame : Tame c.val s (ceTurn s c.val j) := tame_modC s c.val fun _ => dataKept_of_streams rfl rfl rfl rfl
  have ends := copy_fails (s := ceTurn s c.val j) (n := c.val) (j := j) (by rw [copyById, turn.own]; exact copyById_of_find found) sound
    (by rw [turn.own]; exact runs) (tame.none free) e
  have run := exec_requestIssue serves found
  rw [issueRequest_faults h pages fault] at run
  obtain ⟨halt, after, -⟩ := ends
  rw [turn.own] at halt
  have all := tame.trans after
  generalize endCopy (failCopy (ceTurn s c.val j) c.val j e).1 c.val j.iss.id = v at run halt all
  have same := getC_settled (settle_settled v) c.val
  refine ⟨_, run.trans (doneMem_eq (all.tags calm)), ?_, ?_, ?_, fun valid => ?_⟩
  · rw [same, halt.st]
  · rw [same, all.data.stage]
  · rw [settle_mem, all.mem]
  · rw [same]
    exact halt.err valid

end

end Sys2Proof.Machine
end

section
-- One proof after the other: a text of this length has more proofs waiting at once than the check has threads for.
set_option Elab.async false
/-! PROOFS. A translation that was missing has come (R188): the COPY that waits for it goes on, or fails with the fault of its page. -/
namespace Sys2Proof.Machine

section
variable {s t : State} {n v i : Nat} {j : CopyJob} {w : Span} {e : BitVec 8}

/-- No run-ahead request of a stream waits for a page. -/
def NoneAhead (s : State) (n v : Nat) : Prop := ∀ i, ∀ q ∈ (getStream (getC s n) i).ahead, q.miss ≠ some v

theorem setStream_self (c : PCore) (i : Nat) : setStream c i (getStream c i) = c := by
  have back : c.streams.setIfInBounds i (getStream c i) = c.streams := by
    by_cases bound : i < 16
    · rw [show getStream c i = c.streams[i] by simp [getStream, Vector.getD, bound], vector_set_self]
    · exact vector_set_outOfBounds _ (by omega) _
  rw [setStream, back]

theorem modStream_self {c : PCore} {i : Nat} {f : Stream → Stream} (h : f (getStream c i) = getStream c i) : modStream c i f = c := by
  rw [modStream, h, setStream_self]

/-- R189: without a run-ahead request that waits on the page a core is written as it is. -/
theorem resolveAhead_none (none_ : ∀ q ∈ (getStream (getC s n) i).ahead, q.miss ≠ some v) : resolveAhead s n v i = setC s n (getC s n) := by
  have hit : ∀ q ∈ (getStream (getC s n) i).ahead, (q.miss == some v) = false := fun q hq => by
    rw [beq_eq_false_iff_ne]
    exact none_ q hq
  unfold resolveAhead
  dsimp only
  rw [modCnt, modC_modC]
  refine congrArg (setC s n) ?_
  have dropped : ∀ f : AheadReq → Bool, ((getStream (getC s n) i).ahead.filter fun q => (q.miss == some v) && f q) = [] := fun f =>
    List.filter_eq_nil_iff.mpr fun q hq => by
      rw [hit q hq, Bool.false_and]
      exact Bool.false_ne_true
  have kept : ∀ f : AheadReq → Bool, ((getStream (getC s n) i).ahead.filter fun q => !((q.miss == some v) && f q)) = (getStream (getC s n) i).ahead :=
    fun f => List.filter_eq_self.mpr fun q hq => by rw [hit q hq, Bool.false_and]; rfl
  have same : (getStream (getC s n) i).ahead.map (fun q => if (q.miss == some v) = true then { q with miss := none } else q) =
      (getStream (getC s n) i).ahead :=
    (List.map_congr_left fun q hq => by rw [hit q hq]; exact if_neg Bool.false_ne_true).trans (List.map_id _)
  rw [modStream_self, dropped]
  · show { getC s n with cnt := { (getC s n).cnt with raDrop := (getC s n).cnt.raDrop + 0#32 } } = getC s n
    rw [BitVec.add_zero]
  · exact congrArg (fun l => { getStream (getC s n) i with ahead := l }) ((congrArg (List.map _) (kept _)).trans same)

/-- What a run-ahead request makes of the core leaves its halts. -/
theorem resolveAhead_halted {p : PCore} {k : Nat} (h : HaltedBy p k e (getC s n)) : HaltedBy p k e (getC (resolveAhead s n v i) n) := by
  unfold resolveAhead
  dsimp only
  rw [modCnt, getC_modC_same, getC_modC_same]
  refine h.of_kept (fun st => ?_) rfl rfl
  by_cases same : k = i
  · subst same
    by_cases bound : k < 16
    · rw [getStream_modStream_same _ bound]
      exact st
    · rw [getStream_outside bound] at st
      cases st
  · rw [getStream_modStream_other _ same]
    exact st

theorem frame_resolveAhead (s : State) (n v i : Nat) : AllBut [.slots] s (resolveAhead s n v i) := by
  unfold resolveAhead
  dsimp only
  exact AllBut.trans (show AllBut [.slots] s _ from frame_modC s n _) (frame_modC _ n _)

theorem resolveAheads_none (none_ : NoneAhead s n v) : ∀ l : List Nat,
    l.foldl (fun s i => resolveAhead s n v i) (setC s n (getC s n)) = setC s n (getC s n)
  | [] => rfl
  | i :: l => by
    rw [List.foldl_cons, resolveAhead_none (by rw [getC_setC_same]; exact none_ i), getC_setC_same, setC_setC]
    exact resolveAheads_none none_ l

theorem resolveAheads_halted {p : PCore} {k : Nat} : ∀ (l : List Nat) {s : State}, HaltedBy p k e (getC s n) →
    HaltedBy p k e (getC (l.foldl (fun s i => resolveAhead s n v i) s) n) ∧ AllBut [.slots] s (l.foldl (fun s i => resolveAhead s n v i) s)
  | [], s, h => ⟨h, .refl _ s⟩
  | i :: l, s, h => by
    obtain ⟨halt, frame⟩ := resolveAheads_halted l (resolveAhead_halted (v := v) (i := i) h)
    exact ⟨halt, (frame_resolveAhead s n v i).trans frame⟩

/-- The COPY goes on from the page it waited for. -/
def unmissed (j : CopyJob) : CopyJob := { j with miss := none }

/-- R188: a page that is mapped. -/
def Xlat.keeps : Xlat → Bool
  | .unmapped | .foreign => false
  | _ => true

/-- R188: a translation that has come enters the cache. -/
def xlatKept (s : State) (n v : Nat) : State :=
  if (translate s (v / 2 ^ 21) (BitVec.ofNat 48 (v * 2 ^ 21))).keeps then modC s n fun c => cacheXlat c v else s

/-- R187: the fault of a page that a request needs. -/
def missFault (s : State) (ctx : Nat) (x : Copy) (w : Span) (v : Nat) : Option (BitVec 8) :=
  (spanPages x w).findSome? fun q => if pageOf q.1 = v then accessFault s ctx (if q.2 then x.dstLoc else x.srcLoc) q.1 q.2 else none

theorem missFault_framed {l : List Part} (h : AllBut l s t) (hl : Part.ctxs ∉ l ∧ Part.pmap ∉ l := by decide) (c : Nat) (x : Copy) (w : Span) :
    missFault t c x w v = missFault s c x w v := by
  unfold missFault
  simp only [accessFault_framed h hl]

theorem xlat_self (c : PCore) : c = { c with xlat := c.xlat } := rfl

/-- The core while the page is looked up: at most its cache of translations is another. -/
theorem xlatKept_core (s : State) (n v : Nat) : AllBut [.slots] s (xlatKept s n v) ∧ ∃ l, getC (xlatKept s n v) n = { getC s n with xlat := l } := by
  unfold xlatKept
  split
  · exact ⟨frame_modC s n _, _, getC_modC_same s n _⟩
  · exact ⟨.refl _ s, _, xlat_self _⟩

variable (only : (getC s n).copies = [j]) (waits : j.miss = some v) (span : spanOf (copyOf j.iss.desc) j.src j.dst j.next = some w)
include only waits span

theorem resolveMiss_eq : resolveMiss s n v = (List.range 16).foldl (fun s i => resolveAhead s n v i)
    (match missFault (setCopy (xlatKept s n v) n (unmissed j)) (jobStream s n j.iss).ctx (copyOf j.iss.desc) w v with
      | some cause => endCopy (failCopy (setCopy (xlatKept s n v) n (unmissed j)) n (unmissed j) cause).1 n j.iss.id
      | none => setCopy (xlatKept s n v) n (unmissed j)) := by
  obtain ⟨-, l, own⟩ := xlatKept_core s n v
  have hit : (some v == some v) = true := beq_self_eq_true _
  have waiting : ((getC s n).copies.any fun q => q.miss == some v) = true := by
    rw [only]
    simp [waits]
  have stream : jobStream (xlatKept s n v) n j.iss = jobStream s n j.iss := by
    unfold jobStream
    rw [own]
    rfl
  unfold resolveMiss
  extract_lets a b z
  have mapped : b = (translate s (v / 2 ^ 21) (BitVec.ofNat 48 (v * 2 ^ 21))).keeps := by
    simp only [b]
    generalize translate s (v / 2 ^ 21) (BitVec.ofNat 48 (v * 2 ^ 21)) = y
    cases y <;> rfl
  have both : (a && b) = (translate s (v / 2 ^ 21) (BitVec.ofNat 48 (v * 2 ^ 21))).keeps := by
    rw [show a = true by simp only [a]; rw [waiting, Bool.true_or], Bool.true_and, mapped]
  have kept : z = xlatKept s n v := if_congr (by rw [both]) rfl rfl
  rw [kept, own, only, List.foldl_cons, List.foldl_nil]
  have off : ¬ (j.miss != some v) = true := by rw [waits]; simp
  rw [if_neg off]
  dsimp only
  rw [span]
  dsimp only
  rw [stream]
  rfl

end

/-! ### XLAT_MISS_RESOLVED (R188) -/

section
variable {c : Core} {v : BitVec 27} {s : State} {j : CopyJob} {w : Span}
variable (serves : inService s c.val = true) (calm : NoLockout s)
variable (only : (getC s c.val).copies = [j]) (waits : j.miss = some v.toNat) (span : spanOf (copyOf j.iss.desc) j.src j.dst j.next = some w)

include serves in
theorem exec_xlatMissResolved : exec (.xlatMissResolved c v) s = doneMem (resolveMiss s c.val v.toNat) :=
  congrArg doneMem (if_pos serves)

include serves calm only waits span

theorem missResolved_goes (none_ : NoneAhead s c.val v.toNat) (fine : missFault s (jobStream s c.val j.iss).ctx (copyOf j.iss.desc) w v.toNat = none)
    (mapped : (translate s (v.toNat / 2 ^ 21) (BitVec.ofNat 48 (v.toNat * 2 ^ 21))).keeps = true) :
    Leads (.xlatMissResolved c v) s (setCopy (modC s c.val fun k => cacheXlat k v.toNat) c.val (unmissed j)) := by
  have kept : xlatKept s c.val v.toNat = modC s c.val fun k => cacheXlat k v.toNat := if_pos mapped
  have frame : AllBut [.slots] s (setCopy (xlatKept s c.val v.toNat) c.val (unmissed j)) :=
    (xlatKept_core s c.val v.toNat).1.trans (frame_setCopy _ _ _)
  have run := exec_xlatMissResolved (v := v) serves
  rw [resolveMiss_eq only waits span, missFault_framed frame, fine] at run
  dsimp only at run
  rw [kept] at run frame
  have streams : ∀ i, getStream (getC (setCopy (modC s c.val fun k => cacheXlat k v.toNat) c.val (unmissed j)) c.val) i = getStream (getC s c.val) i :=
    fun i => by
      rw [getStream_setCopy, getC_modC_same]
      rfl
  have still : setC (setCopy (modC s c.val fun k => cacheXlat k v.toNat) c.val (unmissed j)) c.val
      (getC (setCopy (modC s c.val fun k => cacheXlat k v.toNat) c.val (unmissed j)) c.val) =
      setCopy (modC s c.val fun k => cacheXlat k v.toNat) c.val (unmissed j) := by
    rw [setCopy, getC_modC_same]
    exact setC_setC _ _ _
  have aheads := resolveAheads_none (s := setCopy (modC s c.val fun k => cacheXlat k v.toNat) c.val (unmissed j)) (n := c.val) (v := v.toNat)
    (fun i => by rw [streams]; exact none_ i) (List.range 16)
  rw [still] at aheads
  rw [aheads] at run
  exact leads_done (run.trans (doneMem_eq (noLockout_congr calm (frame .ctxs (by decide))))) (.refl _)

theorem missResolved_faults {e : BitVec 8} (sound : j.failed = none) (runs : (getStream (getC s c.val) j.iss.slot).st = .running)
    (free : NoneBlocked s c.val) (fault : missFault s (jobStream s c.val j.iss).ctx (copyOf j.iss.desc) w v.toNat = some e) :
    ∃ t, exec (.xlatMissResolved c v) s = .next t ∧ t.mem = s.mem ∧ HaltedBy (getC s c.val) j.iss.slot e (getC t c.val) := by
  obtain ⟨kept, l, own⟩ := xlatKept_core s c.val v.toNat
  have frame : AllBut [.slots] s (setCopy (xlatKept s c.val v.toNat) c.val (unmissed j)) := kept.trans (frame_setCopy _ _ _)
  have run := exec_xlatMissResolved (v := v) serves
  rw [resolveMiss_eq only waits span, missFault_framed frame, fault] at run
  dsimp only at run
  have core : getC (setCopy (xlatKept s c.val v.toNat) c.val (unmissed j)) c.val = { getC s c.val with xlat := l, copies := [unmissed j] } := by
    rw [setCopy, getC_modC_same, own, only]
    show { getC s c.val with xlat := l, copies := [if j.iss.id = j.iss.id then unmissed j else j] } = _
    rw [if_pos rfl]
  obtain ⟨halt, -, after⟩ := copy_fails (s := setCopy (xlatKept s c.val v.toNat) c.val (unmissed j)) (n := c.val) (j := unmissed j)
    (by rw [copyById, core]; exact List.find?_cons_of_pos (beq_self_eq_true _)) sound (by rw [core]; exact runs)
    (fun i => by rw [core]; exact free i) e
  obtain ⟨halt', more⟩ := resolveAheads_halted (v := v.toNat) (List.range 16) halt
  have all := (frame.trans after).trans more
  rw [core] at halt'
  dsimp only [unmissed] at run halt' all
  generalize List.foldl _ _ _ = z at run halt' all
  refine ⟨_, run.trans (doneMem_eq (noLockout_congr calm (all .ctxs (by decide)))), ?_, ?_⟩
  · rw [settle_mem]
    exact all .mem (by decide)
  · rw [getC_settled (settle_settled z)]
    exact ⟨halt'.st, halt'.sems, halt'.err⟩

end

end Sys2Proof.Machine
end

section
-- One proof after the other: a text of this length has more proofs waiting at once than the check has threads for.
set_option Elab.async false
/-! PROOFS. The data of a request are written in the stage buffer or the operand cache, block by block (R188, R190, R228). -/
namespace Sys2Proof.Machine

/-! ### The pieces of a request -/

section
variable {m : Memory} {a x n : Nat} {d o : Bytes} {w : Span}

theorem memGet_write (wf : memoryWf m = true) (a : Nat) (d : Bytes) (x : Nat) :
    memGet (memWrite m a d) x = if a ≤ x ∧ x < a + d.length then d.getD (x - a) 0 else memGet m x := by
  split
  · rename_i inside
    have here : x - a < d.length := by omega
    have same := memGet_write_same d (a := a) wf here
    rw [show a + (x - a) = x by omega] at same
    rw [same, List.getD_eq_getElem _ _ here]
  · exact memGet_write_other d (by omega)

theorem slice_getD (b : Bytes) (off n : Nat) {i : Nat} (hi : i < n) : (slice b off n).getD i 0 = b.getD (off + i) 0 := by
  unfold slice
  dsimp only
  rw [List.getD_eq_getElem?_getD, List.getD_eq_getElem?_getD, List.getElem?_append]
  split
  · rw [List.getElem?_take_of_lt hi, List.getElem?_drop]
  · rename_i past
    rw [List.length_take, List.length_drop] at past
    rw [List.getElem?_eq_none (l := b) (by omega), List.getElem?_replicate]
    split <;> rfl

/-- A part of the bytes of blocks is a part of the part. -/
theorem slice_slice (b : Bytes) {p q n k : Nat} (fits : q + k ≤ n) : slice b (p + q) k = slice (slice b p n) q k := by
  refine List.ext_getElem (by rw [slice_length, slice_length]) fun i h1 h2 => ?_
  rw [slice_length] at h1
  have one := slice_getD b (p + q) k h1
  have two := slice_getD (slice b p n) q k h1
  rw [slice_getD b p n (by omega), ← Nat.add_assoc] at two
  rw [List.getD_eq_getElem _ _ (by rwa [slice_length])] at one two
  exact one.trans two.symm

/-- Where the `i`-th block of a request begins. -/
def blockBase (w : Span) (i : Nat) : Nat := w.dst.toNat - w.dst.toNat % 256 + 256 * i

/-- The bytes of the request before its piece in that block, and before the next one. -/
def pieceFrom (w : Span) (i : Nat) : Nat := max (blockBase w i) w.dst.toNat - w.dst.toNat
def pieceUpTo (w : Span) (i : Nat) : Nat := min (blockBase w i + 256) (w.dst.toNat + w.len) - w.dst.toNat

theorem blockAt_toNat (a : BitVec 48) {n i : Nat} (fits : a.toNat + n ≤ 2 ^ 48) (hi : i < (a.toNat % 256 + n + 255) / 256) :
    (a - a % 256 + BitVec.ofNat 48 (256 * i)).toNat = a.toNat - a.toNat % 256 + 256 * i := by
  have rem : (a % 256).toNat = a.toNat % 256 := BitVec.toNat_umod
  have low : (a - a % 256).toNat = a.toNat - a.toNat % 256 := by
    rw [BitVec.toNat_sub_of_le (BitVec.le_def.mpr (by rw [rem]; exact Nat.mod_le _ _)), rem]
  rw [BitVec.toNat_add, low, BitVec.toNat_ofNat]
  omega

/-- R188: one piece for each block of the destination. -/
theorem destPieces_eq (fits : w.dst.toNat + w.len ≤ 2 ^ 48) : destPieces w = (List.range ((w.dst.toNat % 256 + w.len + 255) / 256)).map fun i =>
    (BitVec.ofNat 48 (w.dst.toNat + pieceFrom w i), pieceFrom w i, pieceUpTo w i - pieceFrom w i) := by
  unfold destPieces blocksOf
  rw [List.map_map]
  refine List.map_congr_left fun i hi => ?_
  have hi' := List.mem_range.mp hi
  have base := blockAt_toNat w.dst fits hi'
  have at_ : w.dst.toNat + pieceFrom w i = max (blockBase w i) w.dst.toNat := by unfold pieceFrom; omega
  have len : pieceUpTo w i - pieceFrom w i = min (blockBase w i + 256) (w.dst.toNat + w.len) - max (blockBase w i) w.dst.toNat := by
    unfold pieceUpTo pieceFrom
    unfold blockBase
    omega
  rw [at_, len]
  dsimp only [Function.comp]
  rw [base]
  rfl

/-- The pieces lie one behind the other, and together they are the request. -/
theorem piece_fits {i : Nat} (hi : i < (w.dst.toNat % 256 + w.len + 255) / 256) (some_ : 0 < w.len) :
    pieceFrom w i < pieceUpTo w i ∧ pieceUpTo w i ≤ w.len ∧ (w.dst.toNat + pieceFrom w i) / 256 = (w.dst.toNat + pieceUpTo w i - 1) / 256 := by
  unfold pieceFrom pieceUpTo blockBase
  omega

theorem pieces_cover {x : Nat} (hx : x < w.len) : ∃ i, i < (w.dst.toNat % 256 + w.len + 255) / 256 ∧ pieceFrom w i ≤ x ∧ x < pieceUpTo w i := by
  refine ⟨(w.dst.toNat + x) / 256 - w.dst.toNat / 256, ?_⟩
  unfold pieceFrom pieceUpTo blockBase
  omega

end

/-! ### What writing a piece leaves of the core -/

/-- Between two cores only bytes `[lo, hi)` of one memory of the core have moved, besides its copy log and its counters. -/
structure Pours (cache : Bool) (lo hi : Nat) (c e : PCore) : Prop where
  wf      : memoryWf (locMem c cache) = true → memoryWf (locMem e cache) = true
  good    : ∀ x y, partsGood (locBad c cache) x y = true → partsGood (locBad e cache) x y = true
  outside : ∀ a, a < lo ∨ hi ≤ a → memGet (locMem e cache) a = memGet (locMem c cache) a
  other   : locMem e (!cache) = locMem c (!cache)
  banks   : e.banks = c.banks
  streams : e.streams = c.streams
  sems    : e.sems = c.sems
  copies  : e.copies = c.copies
  err     : e.err = c.err

section
variable {c d e : PCore} {cache : Bool} {lo hi : Nat} {s : State} {n req loc : Nat} {j : CopyJob} {a : BitVec 48} {b : Bytes} {w : Span}

theorem Pours.refl (cache : Bool) (lo hi : Nat) (c : PCore) : Pours cache lo hi c c := ⟨id, fun _ _ h => h, fun _ _ => rfl, rfl, rfl, rfl, rfl, rfl, rfl⟩

theorem pours_count (cache : Bool) (lo hi : Nat) (c : PCore) (m : CoreCounters) : Pours cache lo hi c { c with cnt := m } := by
  cases cache <;> exact ⟨id, fun _ _ h => h, fun _ _ => rfl, rfl, rfl, rfl, rfl, rfl, rfl⟩

theorem Pours.trans (h : Pours cache lo hi c d) (k : Pours cache lo hi d e) : Pours cache lo hi c e where
  wf := fun f => k.wf (h.wf f)
  good := fun x y f => k.good x y (h.good x y f)
  outside := fun a ha => (k.outside a ha).trans (h.outside a ha)
  other := k.other.trans h.other
  banks := k.banks.trans h.banks
  streams := k.streams.trans h.streams
  sems := k.sems.trans h.sems
  copies := k.copies.trans h.copies
  err := k.err.trans h.err

theorem Pours.mono {x y : Nat} (h : Pours cache lo hi c e) (hx : x ≤ lo) (hy : hi ≤ y) : Pours cache x y c e :=
  { h with outside := fun a ha => h.outside a (by omega) }

/-- A piece and what it leaves in the log and the counters. -/
theorem pours_localPut (c : PCore) (cache : Bool) (a : Nat) (b : Bytes) (l : List CopyLog) (k : CoreCounters) :
    Pours cache a (a + b.length) c { localPut c cache a b with copyLog := l, cnt := k } ∧
      locMem { localPut c cache a b with copyLog := l, cnt := k } cache = memWrite (locMem c cache) a b := by
  have shrunk : ∀ (f : Nat × BitVec 32 → Bool) (bad : AMap (BitVec 32)) (x y : Nat), partsGood bad x y = true → partsGood (bad.filter f) x y = true :=
    fun f bad x y h => List.all_eq_true.mpr fun q hq => List.all_eq_true.mp h q (List.mem_filter.mp hq).1
  cases cache
  · exact ⟨⟨fun h => memoryWf_write h _ _, fun x y h => shrunk _ _ x y h, fun x hx => memGet_write_other b hx, rfl, rfl, rfl, rfl, rfl, rfl⟩, rfl⟩
  · exact ⟨⟨fun h => memoryWf_write h _ _, fun x y h => shrunk _ _ x y h, fun x hx => memGet_write_other b hx, rfl, rfl, rfl, rfl, rfl, rfl⟩, rfl⟩

theorem logCopy_eq (c : PCore) (j : CopyJob) (ctx a n : Nat) : ∃ l, logCopy c j ctx a n = { c with copyLog := l } := by
  unfold logCopy noteWriter
  dsimp only
  split <;> exact ⟨_, rfl⟩

/-- The place of a memory of the core in a descriptor. -/
def coreLoc (cache : Bool) : Nat := if cache then 1 else 0

theorem putPiece_core (good : partsGood (locBad (getC s n) cache) a.toNat (a.toNat + b.length) = true) (ctx : Nat) :
    putPiece s n ctx (coreLoc cache) a b = (modC s n fun c => localPut c cache a.toNat b, true) := by
  cases cache
  · exact if_pos good
  · exact if_pos good

theorem putPiece_core_bad (bad : partsGood (locBad (getC s n) cache) a.toNat (a.toNat + b.length) = false) (ctx : Nat) :
    putPiece s n ctx (coreLoc cache) a b = (s, false) := by
  have off : ¬ partsGood (locBad (getC s n) cache) a.toNat (a.toNat + b.length) = true := by rw [bad]; decide
  cases cache
  · exact if_neg off
  · exact if_neg off

theorem coreLoc_ne (cache : Bool) : coreLoc cache ≠ 3 := by cases cache <;> decide

theorem frame_countCeBytes (s : State) (n k : Nat) : AllBut [.slots] s (countCeBytes s n k) := by
  unfold countCeBytes
  exact frame_modCnt s n _
theorem frame_countCeCrc (s : State) (n k : Nat) : AllBut [.slots] s (countCeCrc s n k) := by
  unfold countCeCrc
  exact frame_modCnt s n _

/-- A count is all that moves. -/
theorem countCeBytes_core (s : State) (n k : Nat) : ∃ m, getC (countCeBytes s n k) n = { getC s n with cnt := m } := by
  unfold countCeBytes modCnt
  exact ⟨_, getC_modC_same s n _⟩

theorem countCeCrc_core (s : State) (n k : Nat) : ∃ m, getC (countCeCrc s n k) n = { getC s n with cnt := m } := by
  unfold countCeCrc modCnt
  exact ⟨_, getC_modC_same s n _⟩

theorem landPiece_good (good : partsGood (locBad (getC s n) cache) a.toNat (a.toNat + b.length) = true) : ∃ l k,
    getC (landPiece s n j req (coreLoc cache) a b).1 n = { localPut (getC s n) cache a.toNat b with copyLog := l, cnt := k } ∧
    (landPiece s n j req (coreLoc cache) a b).2 = j ∧ AllBut [.slots] s (landPiece s n j req (coreLoc cache) a b).1 := by
  have put := putPiece_core good (jobStream s n j.iss).ctx
  unfold landPiece
  rw [if_neg (coreLoc_ne cache), put]
  dsimp only
  rw [if_pos rfl]
  have stored := frame_modC s n fun c => localPut c cache a.toNat b
  split
  · obtain ⟨l, log⟩ := logCopy_eq (localPut (getC s n) cache a.toNat b) j (jobStream s n j.iss).ctx a.toNat b.length
    obtain ⟨k, count⟩ := countCeBytes_core (modC (modC s n fun c => localPut c cache a.toNat b) n fun c =>
      logCopy c j (jobStream s n j.iss).ctx a.toNat b.length) n b.length
    refine ⟨l, k, ?_, rfl, (stored.trans (frame_modC _ n _)).trans (frame_countCeBytes _ n _)⟩
    refine count.trans ?_
    rw [getC_modC_same, getC_modC_same, log]
  · obtain ⟨k, count⟩ := countCeBytes_core (modC s n fun c => localPut c cache a.toNat b) n b.length
    refine ⟨(localPut (getC s n) cache a.toNat b).copyLog, k, ?_, rfl, stored.trans (frame_countCeBytes _ n _)⟩
    refine count.trans ?_
    rw [getC_modC_same]

/-- A piece of a COPY that has failed is written, or left out. -/
theorem landPiece_failed (failed : j.failed.isSome = true) : Pours cache a.toNat (a.toNat + b.length) (getC s n) (getC (landPiece s n j req (coreLoc cache) a b).1 n) ∧
    (landPiece s n j req (coreLoc cache) a b).2 = j ∧ AllBut [.slots] s (landPiece s n j req (coreLoc cache) a b).1 := by
  cases good : partsGood (locBad (getC s n) cache) a.toNat (a.toNat + b.length) with
  | true =>
    obtain ⟨l, k, own, same, frame⟩ := landPiece_good (j := j) (req := req) good
    refine ⟨?_, same, frame⟩
    rw [own]
    exact (pours_localPut _ cache _ b l k).1
  | false =>
    have put := putPiece_core_bad good (jobStream s n j.iss).ctx
    unfold landPiece
    rw [if_neg (coreLoc_ne cache), put]
    dsimp only
    rw [if_neg Bool.false_ne_true, failCopy_failed failed]
    refine ⟨?_, rfl, frame_countCeCrc s n 1⟩
    obtain ⟨m, count⟩ := countCeCrc_core s n 1
    rw [count]
    exact pours_count cache _ _ _ m

/-! ### All pieces of a request -/

/-- R191: a block that a piece touches in part is one that the request touches in part. -/
theorem partsGood_piece {bad : AMap (BitVec 32)} (h : partsGood bad w.dst.toNat (w.dst.toNat + w.len) = true) {i : Nat} (some_ : 0 < w.len) :
    partsGood bad (w.dst.toNat + pieceFrom w i) (w.dst.toNat + pieceUpTo w i) = true := by
  refine List.all_eq_true.mpr fun p hp => ?_
  have whole := List.all_eq_true.mp h p hp
  simp only [Bool.or_eq_true, Bool.and_eq_true, decide_eq_true_eq] at whole ⊢
  unfold pieceFrom pieceUpTo blockBase
  omega

/-- The address of a piece. -/
def pieceAt (w : Span) (i : Nat) : BitVec 48 := BitVec.ofNat 48 (w.dst.toNat + pieceFrom w i)

theorem pieceAt_toNat (fits : w.dst.toNat + w.len ≤ 2 ^ 48) {i : Nat} (hi : i < (w.dst.toNat % 256 + w.len + 255) / 256) (some_ : 0 < w.len) :
    (pieceAt w i).toNat = w.dst.toNat + pieceFrom w i := by
  obtain ⟨below, last, -⟩ := piece_fits hi some_
  rw [pieceAt, BitVec.toNat_ofNat]
  omega

/-- Pieces of `o`, which is what the request brings, are written one after the other. -/
def pourPieces (s : State) (n : Nat) (j : CopyJob) (req loc : Nat) (w : Span) (o : Bytes) (l : List Nat) : State × CopyJob :=
  l.foldl (fun q i => landPiece q.1 n q.2 req loc (pieceAt w i) (slice o (pieceFrom w i) (pieceUpTo w i - pieceFrom w i))) (s, j)

variable {o : Bytes} (fits : w.dst.toNat + w.len ≤ 2 ^ 48) (some_ : 0 < w.len)
include fits some_

theorem pourPieces_lands : ∀ (l : List Nat), (∀ i ∈ l, i < (w.dst.toNat % 256 + w.len + 255) / 256) → ∀ {s : State},
    memoryWf (locMem (getC s n) cache) = true → partsGood (locBad (getC s n) cache) w.dst.toNat (w.dst.toNat + w.len) = true →
    (pourPieces s n j req (coreLoc cache) w o l).2 = j ∧ AllBut [.slots] s (pourPieces s n j req (coreLoc cache) w o l).1 ∧
      Pours cache w.dst.toNat (w.dst.toNat + w.len) (getC s n) (getC (pourPieces s n j req (coreLoc cache) w o l).1 n) ∧
      ∀ x, x < w.len → memGet (locMem (getC (pourPieces s n j req (coreLoc cache) w o l).1 n) cache) (w.dst.toNat + x) =
        if ∃ i ∈ l, pieceFrom w i ≤ x ∧ x < pieceUpTo w i then o.getD x 0 else memGet (locMem (getC s n) cache) (w.dst.toNat + x)
  | [], _, s, _, _ => ⟨rfl, .refl _ s, .refl _ _ _ _, fun x _ => (if_neg fun ⟨_, h, _⟩ => nomatch h).symm⟩
  | i :: l, hl, s, wf, good => by
    have hi := hl i List.mem_cons_self
    obtain ⟨below, last, -⟩ := piece_fits hi some_
    have at_ := pieceAt_toNat fits hi some_
    have len : (slice o (pieceFrom w i) (pieceUpTo w i - pieceFrom w i)).length = pieceUpTo w i - pieceFrom w i := slice_length _ _ _
    have stop : w.dst.toNat + pieceFrom w i + (pieceUpTo w i - pieceFrom w i) = w.dst.toNat + pieceUpTo w i := by omega
    obtain ⟨log, cnt, own, same, frame⟩ := landPiece_good (s := s) (n := n) (j := j) (req := req) (a := pieceAt w i) (cache := cache)
      (b := slice o (pieceFrom w i) (pieceUpTo w i - pieceFrom w i)) (by rw [at_, len, stop]; exact partsGood_piece good some_)
    obtain ⟨pours, stored⟩ := pours_localPut (getC s n) cache (pieceAt w i).toNat (slice o (pieceFrom w i) (pieceUpTo w i - pieceFrom w i)) log cnt
    rw [← own] at pours stored
    have step : pourPieces s n j req (coreLoc cache) w o (i :: l) = pourPieces
        (landPiece s n j req (coreLoc cache) (pieceAt w i) (slice o (pieceFrom w i) (pieceUpTo w i - pieceFrom w i))).1 n j req (coreLoc cache) w o l := by
      unfold pourPieces
      rw [List.foldl_cons, ← Prod.mk.eta (p := landPiece s n j req (coreLoc cache) (pieceAt w i) _), same]
    rw [step]
    generalize landPiece s n j req (coreLoc cache) (pieceAt w i) _ = r at pours stored frame
    have inside : Pours cache w.dst.toNat (w.dst.toNat + w.len) (getC s n) (getC r.1 n) := pours.mono (by omega) (by omega)
    obtain ⟨back, rest, more, bytes⟩ := pourPieces_lands l (fun i hi => hl i (List.mem_cons_of_mem _ hi)) (inside.wf wf) (inside.good _ _ good)
    refine ⟨back, frame.trans rest, inside.trans more, fun x hx => (bytes x hx).trans ?_⟩
    by_cases later : ∃ k ∈ l, pieceFrom w k ≤ x ∧ x < pieceUpTo w k
    · obtain ⟨k, hk, span⟩ := later
      rw [if_pos ⟨k, hk, span⟩, if_pos ⟨k, List.mem_cons_of_mem _ hk, span⟩]
    · rw [if_neg later, stored, memGet_write wf, len, at_, stop]
      by_cases now : pieceFrom w i ≤ x ∧ x < pieceUpTo w i
      · rw [if_pos (by omega), if_pos ⟨i, List.mem_cons_self, now⟩, slice_getD _ _ _ (by omega)]
        congr 1
        omega
      · rw [if_neg (by omega), if_neg]
        rintro ⟨k, hk, span⟩
        obtain rfl | hk := List.mem_cons.mp hk
        · exact now span
        · exact later ⟨k, hk, span⟩

/-- All pieces together are what the request brings. -/
theorem pourPieces_all (len : o.length = w.len) {s : State} (wf : memoryWf (locMem (getC s n) cache) = true)
    (good : partsGood (locBad (getC s n) cache) w.dst.toNat (w.dst.toNat + w.len) = true) {r : State × CopyJob}
    (hr : r = pourPieces s n j req (coreLoc cache) w o (List.range ((w.dst.toNat % 256 + w.len + 255) / 256))) :
    r.2 = j ∧ AllBut [.slots] s r.1 ∧ Pours cache w.dst.toNat (w.dst.toNat + w.len) (getC s n) (getC r.1 n) ∧
      memRead (locMem (getC r.1 n) cache) w.dst.toNat w.len = o := by
  subst hr
  obtain ⟨same, frame, pours, bytes⟩ := pourPieces_lands (j := j) (req := req) (o := o) fits some_
    (List.range ((w.dst.toNat % 256 + w.len + 255) / 256)) (fun i hi => List.mem_range.mp hi) wf good
  refine ⟨same, frame, pours, List.ext_getElem (by rw [memRead_length, len]) fun x h1 h2 => ?_⟩
  rw [len] at h2
  obtain ⟨i, hi, covers⟩ := pieces_cover h2
  have byte := bytes x h2
  rw [if_pos ⟨i, List.mem_range.mpr hi, covers⟩] at byte
  simp only [memRead, List.getElem_map, List.getElem_range]
  rw [byte]
  exact List.getD_eq_getElem _ _ _

/-- Of a COPY that has failed the pieces that can be written are written, and nothing besides. -/
theorem failedPieces_lands (failed : j.failed.isSome = true) (keep : Nat → Bool) (f : Nat → Bytes)
    (hf : ∀ i, (f i).length = pieceUpTo w i - pieceFrom w i) : ∀ (l : List Nat), (∀ i ∈ l, i < (w.dst.toNat % 256 + w.len + 255) / 256) → ∀ {s : State},
    (l.foldl (fun q i => if keep i then landPiece q.1 n q.2 req (coreLoc cache) (pieceAt w i) (f i) else q) (s, j)).2 = j ∧
    AllBut [.slots] s (l.foldl (fun q i => if keep i then landPiece q.1 n q.2 req (coreLoc cache) (pieceAt w i) (f i) else q) (s, j)).1 ∧
    Pours cache w.dst.toNat (w.dst.toNat + w.len) (getC s n)
      (getC (l.foldl (fun q i => if keep i then landPiece q.1 n q.2 req (coreLoc cache) (pieceAt w i) (f i) else q) (s, j)).1 n)
  | [], _, s => ⟨rfl, .refl _ s, .refl _ _ _ _⟩
  | i :: l, hl, s => by
    have hi := hl i List.mem_cons_self
    have rest := fun s => failedPieces_lands failed keep f hf l (fun i hi => hl i (List.mem_cons_of_mem _ hi)) (s := s)
    rw [List.foldl_cons]
    cases keep i with
    | false =>
      rw [if_neg Bool.false_ne_true]
      exact rest s
    | true =>
      rw [if_pos rfl]
      obtain ⟨below, last, -⟩ := piece_fits hi some_
      obtain ⟨pours, same, frame⟩ := landPiece_failed (s := s) (n := n) (req := req) (a := pieceAt w i) (b := f i) (cache := cache) failed
      dsimp only
      rw [← Prod.mk.eta (p := landPiece s n j req (coreLoc cache) (pieceAt w i) (f i)), same]
      generalize landPiece s n j req (coreLoc cache) (pieceAt w i) (f i) = r at pours frame
      rw [hf, pieceAt_toNat fits hi some_] at pours
      obtain ⟨back, more, all⟩ := rest r.1
      exact ⟨back, frame.trans more, (pours.mono (by omega) (by omega)).trans all⟩

end

end Sys2Proof.Machine
end

section
-- One proof after the other: a text of this length has more proofs waiting at once than the check has threads for.
set_option Elab.async false
/-! PROOFS. The data of a request have come (R188, R190, R228): the request ends, and with the last one its COPY. -/
namespace Sys2Proof.Machine

/-! ### The last request of a COPY (R172) -/

section
variable {s t : State} {n id req : Nat} {j : CopyJob} {x : Issued} {w : Span} {v : CopyData} {bs : List Block}

theorem endCopy_completes (named : copyById s n id = some j) (last : j.next = j.total) (out : j.out = []) (acks : j.acks = 0)
    (sound : j.failed = none) (runs : (getStream (getC s n) j.iss.slot).st = .running) (quiet : (copyOf j.iss.desc).psigEn = false)
    (free : NoneBlocked s n) : endCopy s n id = completeIssued (dropCopy s n id) n j.iss := by
  have more : ¬ (j.next < j.total ∨ (!j.out.isEmpty) = true ∨ j.acks ≠ 0) := by
    rw [out, acks, last]
    simp
  have going : ¬ (j.failed.isSome || (jobStream s n j.iss).st == .stopping) = true := by
    rw [sound, jobStream, runs]
    decide
  have plain : ¬ ((copyOf j.iss.desc).psigEn && !j.psigSent) = true := by
    rw [quiet, Bool.false_and]
    exact Bool.false_ne_true
  unfold endCopy
  rw [show (getC s n).copies.find? (fun q => q.iss.id == id) = some j from named]
  dsimp only
  rw [if_neg more, if_neg going, if_neg plain, wakeCore_none (((tame_dropCopy s n id).trans (tame_completeIssued _ n j.iss)).none free)]

/-- The core once a descriptor has completed. -/
def completedCore (c : PCore) (x : Issued) : PCore :=
  modStream (modStream (signalled c x.desc) x.slot fun t => { t with prog := t.prog + 1 }) x.slot fun t => { t with inflight := t.inflight.erase x.id }

theorem completeIssued_core (s : State) (n : Nat) (x : Issued) : CoreTo [.ctxs] n s (completeIssued s n x) (completedCore (getC s n) x) := by
  have first := signalSsem_core [.ctxs] s n x.desc
  have second := countProg_core (signalSsem s n x.desc) n x.slot
  rw [first.own] at second
  exact (first.trans second).modC fun c => modStream c x.slot fun t => { t with inflight := t.inflight.erase x.id }

theorem completedCore_stream (c : PCore) (hi : x.slot < 16) : getStream (completedCore c x) x.slot =
    { getStream c x.slot with prog := (getStream c x.slot).prog + 1, inflight := (getStream c x.slot).inflight.erase x.id } := by
  have same : getStream (signalled c x.desc) x.slot = getStream c x.slot := by rw [getStream, signalled_streams, getStream]
  rw [completedCore, getStream_modStream_same _ hi, getStream_modStream_same _ hi, same]

theorem completedCore_rest (c : PCore) (x : Issued) : (completedCore c x).sems = (signalled c x.desc).sems ∧ (completedCore c x).copies = c.copies := by
  obtain ⟨y, k, eq⟩ := signalled_eq c x.desc
  unfold completedCore
  rw [eq]
  exact ⟨rfl, rfl⟩

/-- R172, R185: of the last COPY of its descriptor nothing is left, and its stream goes on. -/
structure CopyEnded (p : PCore) (u : Stream) (x : Issued) (e : PCore) : Prop where
  inflight : (getStream e x.slot).inflight = u.inflight.erase x.id
  prog     : (getStream e x.slot).prog = u.prog + 1
  sems     : e.sems = (signalled p x.desc).sems
  gone     : ∀ q ∈ e.copies, q.iss.id ≠ x.id

theorem endCopy_ended {p : PCore} (named : copyById s n j.iss.id = some j) (last : j.next = j.total) (out : j.out = []) (acks : j.acks = 0)
    (sound : j.failed = none) (runs : (getStream (getC s n) j.iss.slot).st = .running) (quiet : (copyOf j.iss.desc).psigEn = false)
    (free : NoneBlocked s n) (streams : (getC s n).streams = p.streams) (sems : (getC s n).sems = p.sems) :
    CopyEnded p (getStream p j.iss.slot) j.iss (getC (endCopy s n j.iss.id) n) := by
  rw [endCopy_completes named last out acks sound runs quiet free, (completeIssued_core _ n j.iss).own]
  have dropped : getC (dropCopy s n j.iss.id) n = { getC s n with copies := (getC s n).copies.filter fun q => q.iss.id != j.iss.id } := by
    rw [dropCopy, getC_modC_same]
  have stream : getStream (getC (dropCopy s n j.iss.id) n) j.iss.slot = getStream p j.iss.slot := by
    rw [dropped, getStream, getStream, ← streams]
  obtain ⟨sems', copies'⟩ := completedCore_rest (getC (dropCopy s n j.iss.id) n) j.iss
  have own := completedCore_stream (getC (dropCopy s n j.iss.id) n) (running_lt runs)
  rw [stream] at own
  refine ⟨by rw [own], by rw [own], sems'.trans (signalled_sems ?_ _), fun q hq => ?_⟩
  · rw [dropped]
    exact sems
  · rw [copies', dropped] at hq
    simpa using (List.mem_filter.mp hq).2

/-! ### The data that have come (R190) -/

theorem frame_touchUnit (s : State) (c : Nat) (a : BitVec 48) (wr : Bool) : AllBut [.mem] s (touchUnit s c a wr) := by
  unfold touchUnit
  split
  · exact frame_modCtrl _ _ _
  · exact .refl _ s

theorem requestData_frame {r : State × List Block} (h : requestData s n j req w v = some r) : AllBut memoryParts s r.1 := by
  unfold requestData at h
  dsimp only at h
  split at h
  · cases h
    exact .refl _ s
  · split at h
    · cases h
    · split at h
      · cases h
        exact .refl _ s
      · cases h
    · cases h
    · cases h
      refine AllBut.trans ?_ (frame_sourceBlocks _ _ _ _ _)
      exact .ite (fun _ => (frame_touchUnit _ _ _ _).mono) fun _ => .refl _ s
    · cases h

/-! ### A request whose blocks are good, or not -/

/-- R190: all blocks have come good. -/
theorem none_lost : (bs.filter fun b => !blockOk b).length = 0 ↔ ∀ b ∈ bs, blockOk b = true := by
  rw [List.length_eq_zero_iff, List.filter_eq_nil_iff]
  simp

theorem allGood_of (good : ∀ b ∈ bs, blockOk b = true) (base lo k : Nat) : allGood base bs lo k = true :=
  List.all_eq_true.mpr fun p hp => by
    rw [good p.2 (List.of_mem_zip hp).2, Bool.or_true]

/-- The bytes of a plain request. -/
def plainBytes (w : Span) (bs : List Block) : Bytes := bytesOf (w.src.toNat - w.src.toNat % 256) bs w.src.toNat w.len

theorem plainBytes_piece {i : Nat} (hi : i < (w.dst.toNat % 256 + w.len + 255) / 256) (some_ : 0 < w.len) :
    bytesOf (w.src.toNat - w.src.toNat % 256) bs (w.src.toNat + pieceFrom w i) (pieceUpTo w i - pieceFrom w i) =
      slice (plainBytes w bs) (pieceFrom w i) (pieceUpTo w i - pieceFrom w i) := by
  obtain ⟨below, last, -⟩ := piece_fits hi some_
  have at_ : w.src.toNat + pieceFrom w i - (w.src.toNat - w.src.toNat % 256) = w.src.toNat - (w.src.toNat - w.src.toNat % 256) + pieceFrom w i := by omega
  unfold plainBytes bytesOf
  rw [at_]
  exact slice_slice _ (by omega)

variable {cache : Bool} (loc : (copyOf j.iss.desc).dstLoc = coreLoc cache) (fits : w.dst.toNat + w.len ≤ 2 ^ 48) (some_ : 0 < w.len)
include loc fits some_

theorem landPlain_pours (good : ∀ b ∈ bs, blockOk b = true) : landPlain s n j req w bs =
    pourPieces s n j req (coreLoc cache) w (plainBytes w bs) (List.range ((w.dst.toNat % 256 + w.len + 255) / 256)) := by
  unfold landPlain
  extract_lets to_ base lost q
  have none_ : lost = 0 := none_lost.mpr good
  have start : q = (s, j) := if_pos none_
  have elsewhere : ¬ (to_ = 3 ∧ lost = 0) := fun h => coreLoc_ne cache (loc.symm.trans h.1)
  rw [if_neg elsewhere, start, destPieces_eq fits, List.foldl_map]
  refine List.foldl_ext _ _ _ fun q i hi => ?_
  rw [if_pos (allGood_of good _ _ _), plainBytes_piece (List.mem_range.mp hi) some_]
  show landPiece _ _ _ _ to_ _ _ = _
  rw [show to_ = coreLoc cache from loc]
  rfl

omit some_ in
theorem landDecompress_pours {o : Bytes} (good : ∀ b ∈ bs, blockOk b = true)
    (decodes : decodeUnit (unitAt s (jobStream s n j.iss).ctx w.src) (bs.flatMap (·.data)) = some o) : landDecompress s n j req w bs =
      pourPieces s n j req (coreLoc cache) w o (List.range ((w.dst.toNat % 256 + w.len + 255) / 256)) := by
  have none_ := none_lost.mpr good
  have all : bs.all blockOk = true := List.all_eq_true.mpr good
  unfold landDecompress
  extract_lets lost ctx x decode r z
  have decoded : decode bs = some o := (if_pos all).trans decodes
  have first : r = (s, bs) := if_pos (by rw [decoded]; rfl)
  rw [if_neg (not_not_intro none_), first]
  dsimp only
  rw [decoded]
  dsimp only
  have same : z = s := congrArg Prod.fst first
  rw [same, destPieces_eq fits, List.foldl_map, loc]
  rfl

omit loc fits some_ in
theorem landDecompress_lost (lost : ¬ ∀ b ∈ bs, blockOk b = true) : landDecompress s n j req w bs =
    failCopy (countCeCrc s n (bs.filter fun b => !blockOk b).length) n j 0x07 := by
  unfold landDecompress
  exact if_pos fun h => lost (none_lost.mp h)

omit loc fits some_ in
theorem landCompress_lost (lost : ¬ ∀ b ∈ bs, blockOk b = true) : landCompress s n j w bs =
    failCopy (countCeCrc s n (bs.filter fun b => !blockOk b).length) n j 0x07 := by
  unfold landCompress
  exact if_pos fun h => lost (none_lost.mp h)

/-- R190: of a plain request with a lost block the other blocks are written. -/
theorem landPlain_lost (sound : j.failed = none) (lost : ¬ ∀ b ∈ bs, blockOk b = true) {z : State × CopyJob}
    (hz : z = failCopy (countCeCrc s n (bs.filter fun b => !blockOk b).length) n j 0x07) :
    (landPlain s n j req w bs).2 = copyFailed j 0x07 ∧ AllBut [.slots] z.1 (landPlain s n j req w bs).1 ∧
      Pours cache w.dst.toNat (w.dst.toNat + w.len) (getC z.1 n) (getC (landPlain s n j req w bs).1 n) := by
  have failed : z.2 = copyFailed j 0x07 := by rw [hz, failCopy_sound sound]
  unfold landPlain
  extract_lets to_ base some' q
  have there : ¬ some' = 0 := fun h => lost (none_lost.mp h)
  have start : q = z := (if_neg there).trans hz.symm
  have elsewhere : ¬ (to_ = 3 ∧ some' = 0) := fun h => there h.2
  rw [if_neg elsewhere, start, destPieces_eq fits, List.foldl_map]
  rw [show to_ = coreLoc cache from loc]
  rw [← Prod.mk.eta (p := z), failed]
  exact failedPieces_lands fits some_ rfl (fun i => allGood base bs (w.src.toNat + pieceFrom w i) (pieceUpTo w i - pieceFrom w i))
    (fun i => bytesOf base bs (w.src.toNat + pieceFrom w i) (pieceUpTo w i - pieceFrom w i)) (fun i => slice_length _ _ _)
    (List.range ((w.dst.toNat % 256 + w.len + 255) / 256)) fun i hi => List.mem_range.mp hi

end

/-! ### COPY_REQUEST_DONE (R188, R190) -/

section
variable {c : Core} {id : BitVec 16} {num : BitVec 32} {v : CopyData} {s s1 : State} {j : CopyJob} {w : Span} {bs : List Block}

/-- A request that is out, for which data can be handed in. -/
structure AwaitsData (c : Core) (id : BitVec 16) (num : BitVec 32) (v : CopyData) (s : State) (j : CopyJob) (w : Span) : Prop where
  serves  : inService s c.val = true
  found   : findCopy s c.val id = some j
  sound   : j.failed = none
  runs    : (getStream (getC s c.val) j.iss.slot).st = .running
  free    : NoneBlocked s c.val
  formed  : wellFormed (.copyRequestDone c id num v) = true
  out     : j.out.contains num.toNat = true
  idle    : mapGet? j.wr num.toNat = none
  span    : spanOf (copyOf j.iss.desc) j.src j.dst num.toNat = some w

theorem AwaitsData.exec_eq (h : AwaitsData c id num v s j w) : exec (.copyRequestDone c id num v) s = doneMem (requestDone s c.val j num.toNat v) := by
  have scrutinee : (if inService s c.val then findCopy s c.val id else none) = some j := by rw [if_pos h.serves, h.found]
  show (if wellFormed (.copyRequestDone c id num v) then doneMem _ else _) = _
  rw [if_pos h.formed, scrutinee]

theorem AwaitsData.ready (h : AwaitsData c id num v s j w) : ¬ (!j.out.contains num.toNat || (mapGet? j.wr num.toNat).isSome) = true := by
  rw [h.out, h.idle]
  decide

theorem AwaitsData.lands (h : AwaitsData c id num v s j w) (sent : (copyOf j.iss.desc).srcLoc = 4 → v ≠ .hostError)
    (data : requestData s c.val j num.toNat w v = some (s1, bs)) :
    exec (.copyRequestDone c id num v) s = doneMem (landRequest s1 c.val j num.toNat w bs) := by
  have came : ¬ ((copyOf j.iss.desc).srcLoc = 4 ∧ v = .hostError ∧ (mapGet? j.held num.toNat).isNone = true) :=
    fun ⟨host, error, _⟩ => sent host error
  refine h.exec_eq.trans (congrArg doneMem ?_)
  unfold requestDone
  rw [if_neg h.ready, h.span]
  dsimp only
  rw [if_neg came, data]

/-- What an error of the host makes of a COPY. -/
def hostFailed (j : CopyJob) (req : Nat) : CopyJob := { copyFailed j 0x0B with out := j.out.erase req }

theorem AwaitsData.errs (h : AwaitsData c id num .hostError s j w) (host : (copyOf j.iss.desc).srcLoc = 4) (held : mapGet? j.held num.toNat = none) :
    exec (.copyRequestDone c id num .hostError) s =
      doneMem (endCopy (setCopy (failCopy s c.val j 0x0B).1 c.val (hostFailed j num.toNat)) c.val j.iss.id) := by
  refine h.exec_eq.trans (congrArg doneMem ?_)
  unfold requestDone
  rw [if_neg h.ready, h.span]
  dsimp only
  rw [if_pos ⟨host, rfl, by rw [held]; rfl⟩, failCopy_sound h.sound]
  rfl

/-- A COPY that has failed, put back and ended: its stream has halted, memory and the data of the core stay. -/
theorem failed_ends {n : Nat} {p : PCore} {k : CopyJob} {i : Nat} {e : BitVec 8} {z : State} (named : copyById z n k.iss.id = some j)
    (failed : k.failed.isSome = true) (free : NoneBlocked z n) (halt : HaltedBy p i e (getC z n)) :
    HaltedBy p i e (getC (endCopy (setCopy z n k) n k.iss.id) n) ∧ Tame n z (endCopy (setCopy z n k) n k.iss.id) ∧
      AllBut [.slots] z (endCopy (setCopy z n k) n k.iss.id) := by
  have put := tame_setCopy z n k
  have halt' : HaltedBy p i e (getC (setCopy z n k) n) := by
    rw [setCopy, getC_modC_same]
    exact ⟨halt.st, halt.sems, halt.err⟩
  obtain ⟨ends, frame⟩ := endCopy_halted (copyById_setCopy named rfl) failed (put.none free) halt'
  exact ⟨ends, put.trans (tame_endCopy _ (put.none free)), (frame_setCopy z n k).trans frame⟩

end

end Sys2Proof.Machine
end

section
-- One proof after the other: a text of this length has more proofs waiting at once than the check has threads for.
set_option Elab.async false
/-! PROOFS. What the data of a request do to the core (R188, R190, R228). -/
namespace Sys2Proof.Machine

section
variable {c : Core} {id : BitVec 16} {num : BitVec 32} {v : CopyData} {s s1 : State} {j : CopyJob} {w : Span} {bs : List Block} {cache : Bool}

theorem failCopy_halts {s : State} {n : Nat} {j : CopyJob} (sound : j.failed = none)
    (runs : (getStream (getC s n) j.iss.slot).st = .running) (e : BitVec 8) : HaltedBy (getC s n) j.iss.slot e (getC (failCopy s n j e).1 n) := by
  rw [(failCopy_core [] sound runs e).own]
  exact failedCore_halted _ j e (running_lt runs)

theorem copyById_failCopy {s : State} {n : Nat} {j : CopyJob} (sound : j.failed = none) (named : copyById s n j.iss.id = some j) (e : BitVec 8) :
    copyById (failCopy s n j e).1 n j.iss.id = some (copyFailed j e) := by
  rw [failCopy_sound sound, copyById_haltStream]
  exact copyById_setCopy named rfl

theorem AwaitsData.named (h : AwaitsData c id num v s j w) : copyById s c.val j.iss.id = some j := copyById_of_find h.found

/-- R190: an error of the host fails the COPY. -/
theorem AwaitsData.hostError_fails (h : AwaitsData c id num .hostError s j w) (calm : NoLockout s) (host : (copyOf j.iss.desc).srcLoc = 4)
    (held : mapGet? j.held num.toNat = none) : ∃ t, exec (.copyRequestDone c id num .hostError) s = .next t ∧
      HaltedBy (getC s c.val) j.iss.slot 0x0B (getC t c.val) ∧ (getC t c.val).stage = (getC s c.val).stage ∧ t.mem = s.mem := by
  have fails := tame_failCopy s c.val j 0x0B
  obtain ⟨halt, ends, -⟩ := failed_ends (k := hostFailed j num.toNat) (copyById_failCopy h.sound h.named 0x0B) rfl (fails.none h.free)
    (failCopy_halts h.sound h.runs 0x0B)
  have all := fails.trans ends
  have run := h.errs host held
  rw [show (hostFailed j num.toNat).iss.id = j.iss.id from rfl] at halt all
  generalize endCopy _ c.val j.iss.id = z at run halt all
  have same := getC_settled (settle_settled z) c.val
  refine ⟨_, run.trans (doneMem_eq (all.tags calm)), ?_, ?_, ?_⟩
  · rw [same]
    exact halt
  · rw [same, all.data.stage]
  · rw [settle_mem, all.mem]

theorem locMem_kept {p e : PCore} (h : DataKept p e) (cache : Bool) : locMem e cache = locMem p cache := by
  cases cache
  · exact h.stage
  · exact h.cache

variable (h : AwaitsData c id num v s j w) (calm : NoLockout s1) (sent : (copyOf j.iss.desc).srcLoc = 4 → v ≠ .hostError)
variable (data : requestData s c.val j num.toNat w v = some (s1, bs))
include h calm sent data

omit h calm sent in
/-- The cores are those before the data came. -/
theorem core_of_data : getC s1 c.val = getC s c.val := by
  have frame := requestData_frame data
  exact getC_congr (frame .hub (by decide)) (frame .slots (by decide)) c.val

variable (loc : (copyOf j.iss.desc).dstLoc = coreLoc cache) (fits : w.dst.toNat + w.len ≤ 2 ^ 48) (some_ : 0 < w.len)
include loc fits some_

/-- R188: the bytes of a request whose blocks are good stand where they belong; with the last ones the COPY ends. -/
theorem AwaitsData.pours {o : Bytes} (wf : memoryWf (locMem (getC s c.val) cache) = true)
    (good : partsGood (locBad (getC s c.val) cache) w.dst.toNat (w.dst.toNat + w.len) = true) (blocks : ∀ b ∈ bs, blockOk b = true)
    (brings : (copyOf j.iss.desc).cmode = 0 ∧ o = plainBytes w bs ∨ (copyOf j.iss.desc).cmode = 3 ∧
      decodeUnit (unitAt s1 (jobStream s c.val j.iss).ctx w.src) (bs.flatMap (·.data)) = some o ∧ o.length = w.len) :
    ∃ t, exec (.copyRequestDone c id num v) s = .next t ∧ memRead (locMem (getC t c.val) cache) w.dst.toNat w.len = o ∧
      (∀ a, a < w.dst.toNat ∨ w.dst.toNat + w.len ≤ a → memGet (locMem (getC t c.val) cache) a = memGet (locMem (getC s c.val) cache) a) ∧
      locMem (getC t c.val) (!cache) = locMem (getC s c.val) (!cache) ∧ (getC t c.val).banks = (getC s c.val).banks ∧ t.mem = s1.mem ∧
      (j.next = j.total → j.out = [num.toNat] → j.acks = 0 → (copyOf j.iss.desc).psigEn = false →
        CopyEnded (getC s c.val) (getStream (getC s c.val) j.iss.slot) j.iss (getC t c.val)) := by
  have core := core_of_data data
  have len : o.length = w.len := by
    obtain ⟨-, rfl⟩ | ⟨-, -, len⟩ := brings
    · exact slice_length _ _ _
    · exact len
  have lands : landRequest s1 c.val j num.toNat w bs = endCopy (setCopy
      (pourPieces s1 c.val j num.toNat (coreLoc cache) w o (List.range ((w.dst.toNat % 256 + w.len + 255) / 256))).1 c.val
      (freeRequest (pourPieces s1 c.val j num.toNat (coreLoc cache) w o (List.range ((w.dst.toNat % 256 + w.len + 255) / 256))).2 num.toNat))
      c.val j.iss.id := by
    unfold landRequest
    dsimp only
    obtain ⟨plain, rfl⟩ | ⟨packed, decodes, -⟩ := brings
    · rw [if_pos plain, landPlain_pours loc fits some_ blocks]
    · have stream : (jobStream s1 c.val j.iss).ctx = (jobStream s c.val j.iss).ctx := by unfold jobStream; rw [core]
      rw [if_neg (by rw [packed]; decide), if_pos packed, landDecompress_pours loc fits blocks (by rw [stream]; exact decodes)]
  have run := h.lands sent data
  rw [lands] at run
  rw [← core] at wf good
  obtain ⟨same, frame, pours, bytes⟩ := pourPieces_all (j := j) (req := num.toNat) fits some_ len wf good rfl
  rw [same] at run
  generalize (pourPieces s1 c.val j num.toNat (coreLoc cache) w o (List.range ((w.dst.toNat % 256 + w.len + 255) / 256))).1 = z at run frame pours bytes
  rw [core] at pours
  have put := tame_setCopy z c.val (freeRequest j num.toNat)
  have streams : (getC (setCopy z c.val (freeRequest j num.toNat)) c.val).streams = (getC s c.val).streams := by
    rw [setCopy, getC_modC_same]
    exact pours.streams
  have free : NoneBlocked (setCopy z c.val (freeRequest j num.toNat)) c.val := fun i => by
    rw [getStream, streams]
    exact h.free i
  have named : copyById (setCopy z c.val (freeRequest j num.toNat)) c.val j.iss.id = some (freeRequest j num.toNat) :=
    copyById_setCopy (by rw [copyById, pours.copies]; exact h.named) rfl
  have ends := tame_endCopy j.iss.id free
  have ended : j.next = j.total → j.out = [num.toNat] → j.acks = 0 → (copyOf j.iss.desc).psigEn = false →
      CopyEnded (getC s c.val) (getStream (getC s c.val) j.iss.slot) j.iss
        (getC (endCopy (setCopy z c.val (freeRequest j num.toNat)) c.val j.iss.id) c.val) := fun last only acks quiet => by
    have empty : (freeRequest j num.toNat).out = [] := by
      show (if (mapGet? j.wr num.toNat).isSome then j.out else j.out.erase num.toNat) = []
      rw [h.idle, only]
      simp
    refine endCopy_ended (j := freeRequest j num.toNat) named last empty acks h.sound ?_ quiet free streams ?_
    · rw [getStream, streams]
      exact h.runs
    · rw [setCopy, getC_modC_same]
      exact pours.sems
  have kept := put.trans ends
  generalize endCopy _ c.val j.iss.id = y at run ended kept
  have core' := getC_settled (settle_settled y) c.val
  refine ⟨_, run.trans (doneMem_eq (kept.tags (noLockout_congr calm (frame .ctxs (by decide))))), ?_, ?_, ?_, ?_, ?_, ?_⟩
  · rw [core', locMem_kept kept.data]
    exact bytes
  · rw [core', locMem_kept kept.data]
    exact pours.outside
  · rw [core', locMem_kept kept.data]
    exact pours.other
  · rw [core', kept.data.banks]
    exact pours.banks
  · rw [settle_mem, kept.mem]
    exact frame .mem (by decide)
  · rw [core']
    exact ended

/-- R190: a block that is lost is not written, and fails the COPY. -/
theorem AwaitsData.lost_fails (lost : ¬ ∀ b ∈ bs, blockOk b = true) : ∃ t, exec (.copyRequestDone c id num v) s = .next t ∧
    HaltedBy (getC s c.val) j.iss.slot 0x07 (getC t c.val) ∧
    ∀ a, a < w.dst.toNat ∨ w.dst.toNat + w.len ≤ a → memGet (locMem (getC t c.val) cache) a = memGet (locMem (getC s c.val) cache) a := by
  have core := core_of_data data
  obtain ⟨z, hz⟩ : ∃ z, z = failCopy (countCeCrc s1 c.val (bs.filter fun b => !blockOk b).length) c.val j 0x07 := ⟨_, rfl⟩
  obtain ⟨m, count⟩ := countCeCrc_core s1 c.val (bs.filter fun b => !blockOk b).length
  have counted : Tame c.val s1 (countCeCrc s1 c.val (bs.filter fun b => !blockOk b).length) := by
    unfold countCeCrc modCnt
    exact tame_modC s1 c.val fun _ => dataKept_of_streams rfl rfl rfl rfl
  have runs : (getStream (getC (countCeCrc s1 c.val (bs.filter fun b => !blockOk b).length) c.val) j.iss.slot).st = .running := by
    rw [count, core]
    exact h.runs
  have halt := failCopy_halts h.sound runs 0x07
  have named := copyById_failCopy (s := countCeCrc s1 c.val (bs.filter fun b => !blockOk b).length) (n := c.val) h.sound
    (by rw [copyById, count, core]; exact h.named) 0x07
  have tame := counted.trans (tame_failCopy (countCeCrc s1 c.val (bs.filter fun b => !blockOk b).length) c.val j 0x07)
  have failed : z.2 = copyFailed j 0x07 := by rw [hz, failCopy_sound h.sound]
  rw [← hz] at halt named tame
  rw [count, core] at halt
  obtain ⟨r, hr, same, frame, pours⟩ : ∃ r : State × CopyJob, landRequest s1 c.val j num.toNat w bs =
      endCopy (setCopy r.1 c.val (freeRequest r.2 num.toNat)) c.val j.iss.id ∧ r.2 = copyFailed j 0x07 ∧ AllBut [.slots] z.1 r.1 ∧
      Pours cache w.dst.toNat (w.dst.toNat + w.len) (getC z.1 c.val) (getC r.1 c.val) := by
    refine ⟨_, rfl, ?_⟩
    split
    · exact landPlain_lost loc fits some_ h.sound lost hz
    · split
      · rw [landDecompress_lost lost, ← hz]
        exact ⟨failed, .refl _ _, .refl _ _ _ _⟩
      · rw [landCompress_lost lost, ← hz]
        exact ⟨failed, .refl _ _, .refl _ _ _ _⟩
  have streams : ∀ i, getStream (getC r.1 c.val) i = getStream (getC z.1 c.val) i := fun i => by rw [getStream, pours.streams, getStream]
  have run := h.lands sent data
  rw [hr, same] at run
  have free : NoneBlocked s1 c.val := fun i => by
    rw [core]
    exact h.free i
  obtain ⟨ends, kept, -⟩ := failed_ends (n := c.val) (z := r.1) (k := freeRequest (copyFailed j 0x07) num.toNat) (j := copyFailed j 0x07)
    (by rw [copyById, pours.copies]; exact named) rfl (fun i => by rw [streams]; exact tame.none free i)
    (halt.of_kept (fun st => by rw [streams]; exact st) pours.sems pours.err)
  have calm' : NoLockout r.1 := noLockout_congr (tame.tags calm) (frame .ctxs (by decide))
  rw [show (freeRequest (copyFailed j 0x07) num.toNat).iss.id = j.iss.id from rfl] at ends kept
  generalize endCopy _ c.val j.iss.id = y at run ends kept
  have core' := getC_settled (settle_settled y) c.val
  refine ⟨_, run.trans (doneMem_eq (kept.tags calm')), ?_, fun a ha => ?_⟩
  · rw [core']
    exact ⟨ends.st, ends.sems, ends.err⟩
  · rw [core', locMem_kept kept.data, pours.outside a ha, locMem_kept tame.data, core]

end

end Sys2Proof.Machine
end

section
-- One proof after the other: a text of this length has more proofs waiting at once than the check has threads for.
set_option Elab.async false
/-! PROOFS. Data of a request that leave the core: for module memory, for the host window, for a peer (R188, R190, R261, R264). -/
namespace Sys2Proof.Machine

section
variable {s : State} {n req : Nat} {j : CopyJob} {w : Span} {b : Block} {bs : List Block}

theorem overlay_whole (b d : Bytes) (len : d.length = b.length) : overlay b 0 d = d := by
  unfold overlay fit slice
  dsimp only
  rw [List.take_zero, List.length_nil, List.replicate_zero, Nat.zero_add, len, List.drop_length, List.append_nil]
  rfl

/-- R188: what a request of one whole block brings. -/
theorem plainBytes_block (len : b.data.length = 256) (src : w.src.toNat % 256 = 0) (whole : w.len = 256) : plainBytes w [b] = b.data := by
  unfold plainBytes bytesOf
  rw [src, Nat.sub_zero, Nat.sub_self, whole]
  unfold slice
  dsimp only
  rw [List.flatMap_cons, List.flatMap_nil, List.append_nil, List.drop_zero, ← len, List.take_length, Nat.sub_self, List.replicate_zero, List.append_nil]

/-- A request of one good block writes one piece. -/
theorem landPlain_block (ok : blockOk b = true) (len : b.data.length = 256) (src : w.src.toNat % 256 = 0) (whole : w.len = 256)
    (dst : w.dst.toNat % 256 = 0) (fits : w.dst.toNat + w.len ≤ 2 ^ 48) (elsewhere : (copyOf j.iss.desc).dstLoc ≠ 3) :
    landPlain s n j req w [b] = landPiece s n j req (copyOf j.iss.desc).dstLoc w.dst b.data := by
  have good : ∀ x ∈ [b], blockOk x = true := fun x hx => by rw [List.mem_singleton.mp hx]; exact ok
  unfold landPlain
  extract_lets to_ base lost q
  have none_ : lost = 0 := none_lost.mpr good
  have start : q = (s, j) := if_pos none_
  rw [if_neg (fun h => elsewhere h.1), start, destPieces_eq fits, show (w.dst.toNat % 256 + w.len + 255) / 256 = 1 by omega]
  rw [show List.range 1 = [0] from rfl, List.map_cons, List.map_nil, List.foldl_cons, List.foldl_nil, if_pos (allGood_of good _ _ _)]
  have first : pieceFrom w 0 = 0 := by unfold pieceFrom blockBase; omega
  have last : pieceUpTo w 0 = 256 := by unfold pieceUpTo blockBase; omega
  rw [first, last, Nat.add_zero, Nat.add_zero, BitVec.ofNat_toNat, BitVec.setWidth_eq]
  have bytes := plainBytes_block len src whole
  unfold plainBytes at bytes
  rw [whole] at bytes
  rw [show bytesOf base [b] w.src.toNat (256 - 0) = b.data from bytes]

theorem landPiece_elsewhere {loc : Nat} {a : BitVec 48} {d : Bytes} {z : State} (here : loc ≠ 3) (far : loc ≠ 0)
    (put : putPiece s n (jobStream s n j.iss).ctx loc a d = (z, true)) : landPiece s n j req loc a d = (countCeBytes z n d.length, j) := by
  unfold landPiece
  rw [if_neg here, put]
  dsimp only
  rw [if_pos rfl, if_neg (fun h => far h.1)]

end

section
variable {c : Core} {id : BitVec 16} {num : BitVec 32} {v : CopyData} {s s1 : State} {j : CopyJob} {w : Span} {bs : List Block} {b : Block}
variable (h : AwaitsData c id num v s j w) (calm : NoLockout s1) (sent : (copyOf j.iss.desc).srcLoc = 4 → v ≠ .hostError)
variable (data : requestData s c.val j num.toNat w v = some (s1, bs))

/-- What the landing of a request makes of the state, less what its core has of it. -/
theorem AwaitsData.moves {z : State} {k : CopyJob} (h : AwaitsData c id num v s j w) (sent : (copyOf j.iss.desc).srcLoc = 4 → v ≠ .hostError)
    (data : requestData s c.val j num.toNat w v = some (s1, bs))
    (lands : landRequest s1 c.val j num.toNat w bs = endCopy (setCopy z c.val (freeRequest k num.toNat)) c.val j.iss.id)
    (kept : DataKept (getC s c.val) (getC z c.val)) (calm : NoLockout z) : ∃ t, exec (.copyRequestDone c id num v) s = .next t ∧
      (getC t c.val).stage = (getC s c.val).stage ∧ t.mem = z.mem ∧ z.outbox <:+ t.outbox := by
  have run := h.lands sent data
  have put := tame_setCopy z c.val (freeRequest k num.toNat)
  have all := put.trans (tame_endCopy j.iss.id (put.none (kept.free h.free)))
  rw [lands] at run
  generalize endCopy _ c.val j.iss.id = y at run all
  refine ⟨_, run.trans (doneMem_eq (all.tags calm)), ?_, ?_, all.sent.trans (settle_settled y).out.outbox⟩
  · rw [getC_settled (settle_settled y), all.data.stage, kept.stage]
  · rw [settle_mem, all.mem]

theorem countCeBytes_kept (s : State) (n k : Nat) : DataKept (getC s n) (getC (countCeBytes s n k) n) := by
  obtain ⟨m, count⟩ := countCeBytes_core s n k
  rw [count]
  exact dataKept_of_streams rfl rfl rfl rfl

variable (ok : blockOk b = true) (len : b.data.length = 256) (src : w.src.toNat % 256 = 0) (whole : w.len = 256)
variable (dst : w.dst.toNat % 256 = 0) (fits : w.dst.toNat + w.len ≤ 2 ^ 48) (plain : (copyOf j.iss.desc).cmode = 0)
include h calm sent ok len src whole dst fits plain

/-- A request of one block whose place is not in the core. -/
theorem AwaitsData.puts (data : requestData s c.val j num.toNat w v = some (s1, [b])) {z : State} {l : List Part}
    (here : (copyOf j.iss.desc).dstLoc ≠ 3) (far : (copyOf j.iss.desc).dstLoc ≠ 0)
    (put : putPiece s1 c.val (jobStream s c.val j.iss).ctx (copyOf j.iss.desc).dstLoc w.dst b.data = (z, true)) (frame : AllBut l s1 z)
    (hl : Part.hub ∉ l ∧ Part.slots ∉ l ∧ Part.ctxs ∉ l := by decide) : ∃ t, exec (.copyRequestDone c id num v) s = .next t ∧
      (getC t c.val).stage = (getC s c.val).stage ∧ t.mem = z.mem ∧ z.outbox <:+ t.outbox := by
  have core := core_of_data data
  have own : getC z c.val = getC s c.val := (getC_congr (frame .hub hl.1) (frame .slots hl.2.1) c.val).trans core
  have stream : jobStream s1 c.val j.iss = jobStream s c.val j.iss := by rw [jobStream, core, jobStream]
  rw [← stream] at put
  have count := frame_countCeBytes z c.val b.data.length
  have lands : landRequest s1 c.val j num.toNat w [b] = endCopy (setCopy (countCeBytes z c.val b.data.length) c.val (freeRequest j num.toNat)) c.val j.iss.id := by
    unfold landRequest
    dsimp only
    rw [if_pos plain, landPlain_block ok len src whole dst fits here, landPiece_elsewhere here far put]
  obtain ⟨t, run, stage, mem, out⟩ := h.moves sent data lands (by rw [← own]; exact countCeBytes_kept z _ _)
    (noLockout_congr calm ((frame .ctxs hl.2.2).trans (count .ctxs (by decide))))
  exact ⟨t, run, stage, mem.trans (count .mem (by decide)), (count .outbox (by decide)) ▸ out⟩

end

/-! ### Where a block goes -/

section
variable {s : State} {x p pg off ch byte : Nat} {a : BitVec 48} {e wr : Bool}

theorem translate_off (h : translate s x a = .localPage p pg off e wr) : off = a.toNat % 2 ^ 21 := by
  unfold translate at h
  dsimp only at h
  split at h
  · cases h
  · split at h
    · cases h
    · split at h
      · cases h
      · split at h
        · injection h with _ _ off
          exact off.symm
        · cases h
        · cases h
        · cases h

theorem placeByte_snd (h : placeByte s p pg off = (ch, byte)) : byte = (pg * 512 + off / 4096) / partChans s * 4096 + off % 4096 :=
  (congrArg Prod.snd h).symm

theorem putPiece_memory {n c loc : Nat} {d : Bytes} (there : loc = 2) (page : translate s c a = .localPage p pg off e wr) (len : d.length = 256)
    (at_ : off % 256 = 0) : putPiece s n c loc a d = (writeLocal s c p pg off e false (mkBlock d), true) := by
  have all : (d.length == 256) = true := by rw [len]; rfl
  unfold putPiece
  extract_lets whole
  have all' : whole = true := all
  split
  · rw [page]
    dsimp only
    rw [all', if_pos rfl, Bool.true_or, if_pos rfl, at_, show overlay (mkBlock d).data 0 d = d from overlay_whole _ _ rfl]
  · cases there
  · contradiction

theorem putPiece_host {n c loc h : Nat} {d : Bytes} (there : loc = 4) (page : translate s c a = .host h wr) :
    putPiece s n c loc a d = (emit s (.hostWrite h d), true) := by
  unfold putPiece
  dsimp only
  split
  · cases there
  · rw [page]
  · contradiction

theorem writeLocal_still (still : s.mem.migs = []) (place : placeByte s p pg off = (ch, byte)) (c : Nat) (e keep : Bool) (b : Block) :
    writeLocal s c p pg off e keep b = controllerWrite s (chanPos s ch) (byte / 256) (ctxKey s c e) keep b := by
  rw [writeLocal_at place (fun m hm => by rw [still] at hm; cases hm), servePos_still still]

end

section
variable {c : Core} {id : BitVec 16} {num : BitVec 32} {v : CopyData} {s s1 : State} {j : CopyJob} {w : Span} {b : Block}
variable (h : AwaitsData c id num v s j w) (calm : NoLockout s1) (sent : (copyOf j.iss.desc).srcLoc = 4 → v ≠ .hostError)
variable (ok : blockOk b = true) (len : b.data.length = 256) (src : w.src.toNat % 256 = 0) (whole : w.len = 256)
variable (dst : w.dst.toNat % 256 = 0) (fits : w.dst.toNat + w.len ≤ 2 ^ 48) (plain : (copyOf j.iss.desc).cmode = 0)
variable (data : requestData s c.val j num.toNat w v = some (s1, [b]))
include h calm sent ok len src whole dst fits plain data

/-- R188: a block for module memory stands where the translation leads. -/
theorem AwaitsData.memory {q pg off ch byte : Nat} {e wr : Bool} (loc : (copyOf j.iss.desc).dstLoc = 2)
    (page : translate s1 (jobStream s c.val j.iss).ctx w.dst = .localPage q pg off e wr) (place : placeByte s1 q pg off = (ch, byte))
    (still : s1.mem.migs = []) (wf : memoryWf s1.mem.cells = true) : ∃ t, exec (.copyRequestDone c id num v) s = .next t ∧
      (getC t c.val).stage = (getC s c.val).stage ∧ memRead t.mem.cells (cellAddr (chanPos s1 ch) byte) 256 = b.data ∧
      ∀ a, a < cellAddr (chanPos s1 ch) byte ∨ cellAddr (chanPos s1 ch) byte + 256 ≤ a → memGet t.mem.cells a = memGet s1.mem.cells a := by
  have off256 : off % 256 = 0 := by
    rw [translate_off page]
    omega
  have byte256 : byte / 256 * 256 = byte := by
    rw [placeByte_snd place]
    omega
  have put : putPiece s1 c.val (jobStream s c.val j.iss).ctx 2 w.dst b.data =
      (writeLocal s1 (jobStream s c.val j.iss).ctx q pg off e false (mkBlock b.data), true) :=
    putPiece_memory rfl page len off256
  rw [writeLocal_still still place] at put
  obtain ⟨t, run, stage, mem, -⟩ := h.puts calm sent ok len src whole dst fits plain data (by rw [loc]; decide) (by rw [loc]; decide)
    (by rw [loc]; exact put) (frame_controllerWrite _ _ _ _ _ _)
  have cells : t.mem.cells = (writeBlockAt s1.mem (chanPos s1 ch) (byte / 256) (ctxKey s1 (jobStream s c.val j.iss).ctx e) false (mkBlock b.data)).cells := by
    rw [mem]
    rfl
  have block : (mkBlock b.data).data.length = 256 := len
  refine ⟨t, run, stage, ?_, fun a ha => ?_⟩
  · rw [cells]
    have back := writeBlockAt_data (pos := chanPos s1 ch) (j := byte / 256) (key := ctxKey s1 (jobStream s c.val j.iss).ctx e) (keep := false) wf block
    rw [byte256] at back
    exact back
  · rw [cells]
    exact writeBlockAt_others block (by rw [byte256]; exact ha)

/-- R190: a block for the host window goes out to the host. -/
theorem AwaitsData.host {a : Nat} {wr : Bool} (loc : (copyOf j.iss.desc).dstLoc = 4)
    (page : translate s1 (jobStream s c.val j.iss).ctx w.dst = .host a wr) : ∃ t, exec (.copyRequestDone c id num v) s = .next t ∧
      (getC t c.val).stage = (getC s c.val).stage ∧ t.mem = s1.mem ∧ Output.hostWrite a b.data :: s1.outbox <:+ t.outbox := by
  have put : putPiece s1 c.val (jobStream s c.val j.iss).ctx 4 w.dst b.data = (emit s1 (.hostWrite a b.data), true) := putPiece_host rfl page
  obtain ⟨t, run, stage, mem, out⟩ := h.puts calm sent ok len src whole dst fits plain data (by rw [loc]; decide) (by rw [loc]; decide)
    (by rw [loc]; exact put) (frame_emit s1 _)
  exact ⟨t, run, stage, mem, out⟩

end

section
variable {c : Core} {id : BitVec 16} {num : BitVec 32} {v : CopyData} {s s1 : State} {j : CopyJob} {w : Span} {bs : List Block}

/-- A COPY once a WRITE of one of its requests has gone out. -/
def writing (j : CopyJob) (req : Nat) : CopyJob := { j with acks := j.acks + 1, wr := mapSet j.wr req (mapGet j.wr req 0 + 1) }

theorem frame_sendWrite (s : State) (n : Nat) (j : CopyJob) (req : Nat) (a : BitVec 48) (l : List Block) :
    AllBut (.ctxs :: fabricParts) s (sendWrite s n j req a l).1 := by
  unfold sendWrite
  dsimp only
  split
  · exact frame_sendRequest _ _ _ _ _
  · exact .refl _ s

/-- R261, R264: a request for a peer goes out as one WRITE, whose answer the COPY waits for. -/
theorem AwaitsData.peer (h : AwaitsData c id num v s j w) (sent : (copyOf j.iss.desc).srcLoc = 4 → v ≠ .hostError)
    (data : requestData s c.val j num.toNat w v = some (s1, bs)) (plain : (copyOf j.iss.desc).cmode = 0) (loc : (copyOf j.iss.desc).dstLoc = 3)
    (good : ∀ b ∈ bs, blockOk b = true) {r : State × Bool}
    (hr : r = sendWrite s1 c.val j num.toNat w.dst ((chunksOf 256 ((plainBytes w bs).length / 256 + 1) (plainBytes w bs)).map mkBlock))
    (taken : r.2 = false) (calm : NoLockout r.1) : Leads (.copyRequestDone c id num v) s
      (setCopy (countCeBytes (setCopy r.1 c.val (writing j num.toNat)) c.val (plainBytes w bs).length) c.val
        (freeRequest (writing j num.toNat) num.toNat)) := by
  have lands : landPlain s1 c.val j num.toNat w bs =
      (countCeBytes (setCopy r.1 c.val (writing j num.toNat)) c.val (plainBytes w bs).length, writing j num.toNat) := by
    unfold landPlain
    extract_lets to_ base lost q
    have none_ : lost = 0 := none_lost.mpr good
    have start : q = (s1, j) := if_pos none_
    rw [if_pos ⟨loc, none_⟩, start]
    unfold peerPut
    rw [← show r = sendWrite s1 c.val j num.toNat w.dst ((chunksOf 256 ((bytesOf base bs w.src.toNat w.len).length / 256 + 1)
      (bytesOf base bs w.src.toNat w.len)).map mkBlock) from hr]
    dsimp only
    rw [taken]
    rfl
  have core := getC_congr ((requestData_frame data) .hub (by decide)) ((requestData_frame data) .slots (by decide)) c.val
  have frame : AllBut (.ctxs :: fabricParts) s1 r.1 := hr ▸ frame_sendWrite s1 c.val j num.toNat w.dst _
  have same := getC_congr (frame .hub (by decide)) (frame .slots (by decide)) c.val
  have named : copyById (setCopy (countCeBytes (setCopy r.1 c.val (writing j num.toNat)) c.val (plainBytes w bs).length) c.val
      (freeRequest (writing j num.toNat) num.toNat)) c.val j.iss.id = some (freeRequest (writing j num.toNat) num.toNat) := by
    obtain ⟨m, count⟩ := countCeBytes_core (setCopy r.1 c.val (writing j num.toNat)) c.val (plainBytes w bs).length
    refine copyById_setCopy (j := writing j num.toNat) ?_ rfl
    rw [copyById, count]
    exact copyById_setCopy (by rw [copyById, same, core]; exact h.named) rfl
  have run := h.lands sent data
  unfold landRequest at run
  dsimp only at run
  rw [if_pos plain, lands] at run
  dsimp only at run
  rw [endCopy_waits named (Nat.succ_ne_zero _)] at run
  refine leads_done (run.trans (doneMem_eq (noLockout_congr calm ?_))) (.refl _)
  exact ((frame_setCopy r.1 c.val _).trans (frame_countCeBytes _ c.val _) |>.trans (frame_setCopy _ c.val _)) .ctxs (by decide)

end

end Sys2Proof.Machine
end

section
-- One proof after the other: a text of this length has more proofs waiting at once than the check has threads for.
set_option Elab.async false
/-! PROOFS. A compressing request writes the stored form of its unit with its unit-table entry (R224 to R227). -/
namespace Sys2Proof.Machine

/-! ### The stored form of a unit fits its slot (R225 to R227) -/

section
variable {n f : Nat} {b : Bytes}

theorem groupsOf_length {α : Type} (n : Nat) : ∀ (f : Nat) (l : List α), (groupsOf n f l).length ≤ f
  | 0, _ => Nat.le_refl 0
  | f + 1, l => by
    unfold groupsOf
    split
    · exact Nat.zero_le _
    · exact Nat.succ_le_succ (groupsOf_length n f _)

/-- Groups together hold no more than the list. -/
theorem groupsOf_flatMap {α β : Type} {F : List α → List β} (hF : ∀ g, (F g).length = g.length) (n : Nat) :
    ∀ (f : Nat) (l : List α), ((groupsOf n f l).flatMap F).length ≤ l.length
  | 0, _ => Nat.zero_le _
  | f + 1, l => by
    unfold groupsOf
    split
    · exact Nat.zero_le _
    · have rest := groupsOf_flatMap hF n f (l.drop n)
      rw [List.flatMap_cons, List.length_append, hF, List.length_take]
      rw [List.length_drop] at rest
      omega

theorem quantise_length (code : Nat) (mxv : Bool) (l : List (Val × Rounding)) : (quantise code mxv l).2.length = l.length := by
  unfold quantise
  dsimp only
  split
  · rw [List.length_map, List.length_map]
  · rw [List.length_map, List.length_map]

theorem unitImage_length (u : BitVec 32) (k : Byte) (p : Bytes) : (unitImage u k p).length = 32 + p.length := by
  have bytes : ∀ (n v : Nat), (leBytes n v).length = n := fun n => by
    induction n with
    | zero => intro _; rfl
    | succ n ih => intro v; rw [leBytes, List.length_cons, ih]
  unfold unitImage
  simp only [List.length_append, bytes, List.length_replicate, List.length_cons, List.length_nil]

theorem encodeUnit_length (m : Nat) (len : b.length = 4096) : (encodeUnit m b).bytes.length ≤ 4096 := by
  unfold encodeUnit
  split
  · dsimp only
    split
    · exact Nat.le_of_eq len
    · dsimp only
      omega
  · dsimp only
    rw [unitImage_length, List.length_append, List.length_map]
    have blocks : (lossyBlocks b).length ≤ 65 := by
      unfold lossyBlocks
      rw [List.length_map]
      exact groupsOf_length _ _ _
    have codes : ((lossyBlocks b).flatMap fun p => p.2.map fun c => BitVec.ofNat 8 c.bits).length ≤ 2048 := by
      unfold lossyBlocks
      rw [List.flatMap_map]
      have each : ∀ g : List Nat, ((quantise 11 false (g.map fun x => (decodeFloat bf16Fmt x, none))).2.map fun c => BitVec.ofNat 8 c.bits).length = g.length :=
        fun g => by rw [List.length_map, quantise_length, List.length_map]
      refine (groupsOf_flatMap each 32 65 (unitElems b)).trans ?_
      rw [unitElems, List.length_map, List.length_range]
    omega

end

/-! ### The blocks of a unit (R224) -/

section
variable {f k x : Nat} {b : Bytes}

theorem chunksOf_length : ∀ (f : Nat) (b : Bytes), b.length ≤ 256 * f → (chunksOf 256 f b).length = (b.length + 255) / 256
  | 0, b, h => by
    rw [List.length_eq_zero_iff.mp (Nat.le_zero.mp h)]
    rfl
  | f + 1, b, h => by
    unfold chunksOf
    split
    · rename_i none_
      rw [List.isEmpty_iff.mp none_]
      rfl
    · rename_i some_
      have pos : 0 < b.length := List.length_pos_iff.mpr fun e => some_ (by rw [e]; rfl)
      have rest := chunksOf_length f (b.drop 256) (by rw [List.length_drop]; omega)
      rw [List.length_cons, rest, List.length_drop]
      omega

theorem chunksOf_getD : ∀ (f : Nat) (b : Bytes) (k : Nat), b.length ≤ 256 * f → (chunksOf 256 f b).getD k [] = (b.drop (256 * k)).take 256
  | 0, b, k, h => by
    rw [List.length_eq_zero_iff.mp (Nat.le_zero.mp h), List.drop_nil, List.take_nil]
    rfl
  | f + 1, b, k, h => by
    unfold chunksOf
    split
    · rename_i none_
      rw [List.isEmpty_iff.mp none_, List.drop_nil, List.take_nil]
      rfl
    · cases k with
      | zero => rfl
      | succ k =>
        rw [List.getD_cons_succ, chunksOf_getD f (b.drop 256) k (by rw [List.length_drop]; omega), List.drop_drop]
        congr 2
        omega

/-- A byte of a list is that of its block. -/
theorem chunksOf_byte (h : b.length ≤ 256 * f) : (fit 256 ((chunksOf 256 f b).getD (x / 256) [])).getD (x % 256) 0 = b.getD x 0 := by
  rw [fit, slice_getD _ _ _ (Nat.mod_lt _ (by decide)), chunksOf_getD f b _ h, Nat.zero_add, List.getD_eq_getElem?_getD, List.getD_eq_getElem?_getD,
    List.getElem?_take_of_lt (Nat.mod_lt _ (by decide)), List.getElem?_drop, Nat.div_add_mod]

theorem zip_range (l : List Bytes) : (List.range l.length).zip l = (List.range l.length).map fun i => (i, l.getD i []) := by
  refine List.ext_getElem (by simp) fun i h1 h2 => ?_
  rw [List.length_map, List.length_range] at h2
  simp [List.getD_eq_getElem?_getD, h2]

end

section
variable {s : State} {c q pg off ch byte : Nat} {e : Bool} {bs : List Bytes} {a : BitVec 48}

/-- The blocks of a unit are written one after the other. -/
def putChunks (s : State) (c q pg off : Nat) (e : Bool) (bs : List Bytes) (l : List Nat) : State :=
  l.foldl (fun s i => writeLocal s c q pg (off + 256 * i) e true (mkBlock (fit 256 (bs.getD i [])))) s

/-- R217: the blocks of a slot lie one behind the other. -/
theorem placeByte_slot (place : placeByte s q pg off = (ch, byte)) (slot : off % 4096 = 0) {i : Nat} (hi : i < 16) :
    placeByte s q pg (off + 256 * i) = (ch, byte + 256 * i) := by
  have same : (off + 256 * i) / 4096 = off / 4096 := by omega
  have rest : (off + 256 * i) % 4096 = off % 4096 + 256 * i := by omega
  unfold placeByte at place ⊢
  dsimp only at place ⊢
  rw [same, rest, ← Nat.add_assoc]
  injection place with one two
  rw [one, two]

theorem controllerWrite_cells (s : State) (pos j : Nat) (key : Option Nat) (keep : Bool) (b : Block) :
    (controllerWrite s pos j key keep b).mem.cells = memWrite s.mem.cells (cellAddr pos (j * 256)) b.data := rfl

theorem controllerWrite_migs (s : State) (pos j : Nat) (key : Option Nat) (keep : Bool) (b : Block) :
    (controllerWrite s pos j key keep b).mem.migs = s.mem.migs := rfl

theorem putChunks_lands (slot : off % 4096 = 0) : ∀ (l : List Nat), (∀ i ∈ l, i < 16) → ∀ {s : State}, placeByte s q pg off = (ch, byte) →
    s.mem.migs = [] → memoryWf s.mem.cells = true → AllBut [.mem, .cells] s (putChunks s c q pg off e bs l) ∧
      (putChunks s c q pg off e bs l).mem.migs = [] ∧ memoryWf (putChunks s c q pg off e bs l).mem.cells = true ∧
      ∀ x, x < 4096 → memGet (putChunks s c q pg off e bs l).mem.cells (cellAddr (chanPos s ch) (byte + x)) =
        if x / 256 ∈ l then (fit 256 (bs.getD (x / 256) [])).getD (x % 256) 0 else memGet s.mem.cells (cellAddr (chanPos s ch) (byte + x))
  | [], _, s, _, still, wf => ⟨.refl _ s, still, wf, fun x _ => (if_neg List.not_mem_nil).symm⟩
  | i :: l, hl, s, place, still, wf => by
    have hi := hl i List.mem_cons_self
    have wrote := writeLocal_still still (placeByte_slot place slot hi) c e true (mkBlock (fit 256 (bs.getD i [])))
    have step : putChunks s c q pg off e bs (i :: l) =
        putChunks (writeLocal s c q pg (off + 256 * i) e true (mkBlock (fit 256 (bs.getD i [])))) c q pg off e bs l := rfl
    have size : (mkBlock (fit 256 (bs.getD i []))).data.length = 256 := slice_length _ _ _
    have aligned : byte % 256 = 0 := by
      rw [placeByte_snd place]
      omega
    have frame := frame_controllerWrite (s := s) (chanPos s ch) ((byte + 256 * i) / 256) (ctxKey s c e) true (mkBlock (fit 256 (bs.getD i [])))
    rw [← wrote] at frame
    have cells : (writeLocal s c q pg (off + 256 * i) e true (mkBlock (fit 256 (bs.getD i [])))).mem.cells =
        memWrite s.mem.cells (cellAddr (chanPos s ch) (byte + 256 * i)) (mkBlock (fit 256 (bs.getD i []))).data := by
      rw [wrote, controllerWrite_cells, show (byte + 256 * i) / 256 * 256 = byte + 256 * i by omega]
    have still' : (writeLocal s c q pg (off + 256 * i) e true (mkBlock (fit 256 (bs.getD i [])))).mem.migs = [] := by
      rw [wrote, controllerWrite_migs]
      exact still
    rw [step]
    generalize writeLocal s c q pg (off + 256 * i) e true (mkBlock (fit 256 (bs.getD i []))) = z at frame cells still'
    have place' : placeByte z q pg off = (ch, byte) := (placeByte_congr (frame .opt (by decide)) (frame .hub (by decide)) q pg off).trans place
    have pos : chanPos z ch = chanPos s ch := chanPos_congr (frame .opt (by decide)) (frame .hub (by decide)) ch
    obtain ⟨more, migs, wf', bytes⟩ := putChunks_lands slot l (fun k hk => hl k (List.mem_cons_of_mem _ hk)) place' still'
      (by rw [cells]; exact memoryWf_write wf _ _)
    refine ⟨frame.trans more, migs, wf', fun x hx => ?_⟩
    have now := bytes x hx
    rw [pos] at now
    rw [now, cells, memGet_write wf, size]
    by_cases later : x / 256 ∈ l
    · rw [if_pos later, if_pos (List.mem_cons_of_mem _ later)]
    · rw [if_neg later]
      unfold cellAddr
      by_cases here : x / 256 = i
      · rw [if_pos (by omega), if_pos (by rw [here]; exact List.mem_cons_self)]
        rw [here, show chanPos s ch * 2 ^ 32 + (byte + x) - (chanPos s ch * 2 ^ 32 + (byte + 256 * i)) = x % 256 by omega]
        rfl
      · rw [if_neg (by omega), if_neg]
        intro hm
        obtain e | hm := List.mem_cons.mp hm
        · exact here e
        · exact later hm

/-! ### The unit and its entry (R224) -/

/-- A use of the unit table moves a cache line of a controller. -/
theorem touchUnit_mem (s : State) (c : Nat) (a : BitVec 48) (wr : Bool) : (touchUnit s c a wr).mem.cells = s.mem.cells ∧
    (touchUnit s c a wr).mem.unit = s.mem.unit := by
  unfold touchUnit
  split
  · exact ⟨rfl, rfl⟩
  · exact ⟨rfl, rfl⟩

theorem putUnit_eq {wr : Bool} {u : UnitOut} (page : translate s c a = .localPage q pg off e wr) : ∃ z,
    z = putChunks s c q pg off e (chunksOf 256 (u.bytes.length / 256 + 1) u.bytes) (List.range (chunksOf 256 (u.bytes.length / 256 + 1) u.bytes).length) ∧
    putUnit s c a u = touchUnit (modMem z fun m => { m with unit := mapSet m.unit (unitKey
      (servePos z (placeByte z q pg off).1 ((placeByte z q pg off).2 / 4096) true) ((placeByte z q pg off).2 / 4096)) (unitEntry u) }) c a true := by
  refine ⟨_, rfl, ?_⟩
  unfold putUnit putChunks
  rw [page]
  dsimp only
  rw [zip_range, List.foldl_map]

theorem putUnit_lands {wr : Bool} {u : UnitOut} (page : translate s c a = .localPage q pg off e wr) (slot : off % 4096 = 0)
    (place : placeByte s q pg off = (ch, byte)) (still : s.mem.migs = []) (wf : memoryWf s.mem.cells = true) (size : u.bytes.length ≤ 4096) :
    AllBut [.mem, .cells] s (putUnit s c a u) ∧ memRead (putUnit s c a u).mem.cells (cellAddr (chanPos s ch) byte) u.bytes.length = u.bytes ∧
      mapGet (putUnit s c a u).mem.unit (unitKey (chanPos s ch) (byte / 4096)) 0 = unitEntry u := by
  obtain ⟨z, hz, eq⟩ := putUnit_eq (u := u) page
  have fits : u.bytes.length ≤ 256 * (u.bytes.length / 256 + 1) := by omega
  have count := chunksOf_length _ u.bytes fits
  obtain ⟨frame, still', -, bytes⟩ := putChunks_lands (c := c) (e := e) (bs := chunksOf 256 (u.bytes.length / 256 + 1) u.bytes) slot
    (List.range (chunksOf 256 (u.bytes.length / 256 + 1) u.bytes).length) (fun i hi => by
      have := List.mem_range.mp hi
      omega) place still wf
  rw [← hz] at frame still' bytes
  have place' : placeByte z q pg off = (ch, byte) := (placeByte_congr (frame .opt (by decide)) (frame .hub (by decide)) q pg off).trans place
  have pos : servePos z ch (byte / 4096) true = chanPos s ch :=
    (servePos_still still' _ _ _).trans (chanPos_congr (frame .opt (by decide)) (frame .hub (by decide)) ch)
  rw [place', pos] at eq
  rw [eq]
  obtain ⟨w, hw⟩ : ∃ w, w = modMem z fun m => { m with unit := mapSet m.unit (unitKey (chanPos s ch) (byte / 4096)) (unitEntry u) } := ⟨_, rfl⟩
  have cells : w.mem.cells = z.mem.cells := by rw [hw]; rfl
  have unit : w.mem.unit = mapSet z.mem.unit (unitKey (chanPos s ch) (byte / 4096)) (unitEntry u) := by rw [hw]; rfl
  have entry : AllBut [.mem, .cells] z w := hw ▸ frame_modMem_cells
    (f := fun m => { m with unit := mapSet m.unit (unitKey (chanPos s ch) (byte / 4096)) (unitEntry u) }) (fun _ => rfl) z
  rw [← hw]
  obtain ⟨cells', unit'⟩ := touchUnit_mem w c a true
  refine ⟨(frame.trans entry).trans (frame_touchUnit w c a true).mono, ?_, ?_⟩
  · rw [cells', cells]
    refine List.ext_getElem (memRead_length _ _ _) fun x h1 h2 => ?_
    have here := bytes x (by omega)
    rw [if_pos (List.mem_range.mpr (by omega)), chunksOf_byte fits] at here
    rw [List.getD_eq_getElem _ _ h2] at here
    simp only [memRead, List.getElem_map, List.getElem_range]
    rw [cellAddr, Nat.add_assoc, ← cellAddr]
    exact here
  · rw [unit', unit, mapGet_set_same]

end

section
variable {c : Core} {id : BitVec 16} {num : BitVec 32} {v : CopyData} {s s1 : State} {j : CopyJob} {w : Span} {bs : List Block}

theorem blocks_length (size : ∀ b ∈ bs, b.data.length = 256) : (bs.flatMap (·.data)).length = 256 * bs.length := by
  induction bs with
  | nil => rfl
  | cons b bs ih =>
    rw [List.flatMap_cons, List.length_append, size b List.mem_cons_self, ih fun x hx => size x (List.mem_cons_of_mem _ hx), List.length_cons]
    omega

/-- R224: a compressing request writes the stored form of its unit, and its unit-table entry. -/
theorem AwaitsData.compresses (h : AwaitsData c id num v s j w) (calm : NoLockout s1) (sent : (copyOf j.iss.desc).srcLoc = 4 → v ≠ .hostError)
    (data : requestData s c.val j num.toNat w v = some (s1, bs)) (mode : (copyOf j.iss.desc).cmode = 1 ∨ (copyOf j.iss.desc).cmode = 2)
    (good : ∀ b ∈ bs, blockOk b = true) (size : ∀ b ∈ bs, b.data.length = 256) (all : bs.length = 16) {q pg off ch byte : Nat} {e wr : Bool}
    (page : translate s1 (jobStream s c.val j.iss).ctx w.dst = .localPage q pg off e wr) (slot : off % 4096 = 0)
    (place : placeByte s1 q pg off = (ch, byte)) (still : s1.mem.migs = []) (wf : memoryWf s1.mem.cells = true) {y : UnitOut}
    (hy : y = encodeUnit (copyOf j.iss.desc).cmode (bs.flatMap (·.data))) : ∃ t, exec (.copyRequestDone c id num v) s = .next t ∧
      (getC t c.val).stage = (getC s c.val).stage ∧ memRead t.mem.cells (cellAddr (chanPos s1 ch) byte) y.bytes.length = y.bytes ∧
      mapGet t.mem.unit (unitKey (chanPos s1 ch) (byte / 4096)) 0 = unitEntry y := by
  have core := getC_congr ((requestData_frame data) .hub (by decide)) ((requestData_frame data) .slots (by decide)) c.val
  have stream : jobStream s1 c.val j.iss = jobStream s c.val j.iss := by rw [jobStream, core, jobStream]
  have short : y.bytes.length ≤ 4096 := by
    rw [hy]
    exact encodeUnit_length _ (by rw [blocks_length size, all])
  obtain ⟨frame, cells, unit⟩ := putUnit_lands (u := y) page slot place still wf short
  obtain ⟨z, hz⟩ : ∃ z, z = putUnit s1 (jobStream s c.val j.iss).ctx w.dst y := ⟨_, rfl⟩
  rw [← hz] at frame cells unit
  have none_ : ¬ (bs.filter fun b => !blockOk b).length ≠ 0 := not_not_intro (none_lost.mpr good)
  have lands : landRequest s1 c.val j num.toNat w bs = endCopy (setCopy
      (countCeBytes (modCnt z c.val fun k => countConv k y.convs) c.val (256 * unitBlocks y)) c.val (freeRequest j num.toNat)) c.val j.iss.id := by
    unfold landRequest
    dsimp only
    rw [if_neg (by obtain m | m := mode <;> rw [m] <;> decide), if_neg (by obtain m | m := mode <;> rw [m] <;> decide)]
    unfold landCompress
    dsimp only
    rw [if_neg none_, stream, ← hy, ← hz]
  have counts := (frame_modCnt z c.val fun k => countConv k y.convs).trans
    (frame_countCeBytes (modCnt z c.val fun k => countConv k y.convs) c.val (256 * unitBlocks y))
  have kept : DataKept (getC s c.val) (getC (countCeBytes (modCnt z c.val fun k => countConv k y.convs) c.val (256 * unitBlocks y)) c.val) := by
    have own : getC z c.val = getC s c.val := (getC_congr (frame .hub (by decide)) (frame .slots (by decide)) c.val).trans core
    have first : DataKept (getC z c.val) (getC (modCnt z c.val fun k => countConv k y.convs) c.val) := by
      rw [modCnt, getC_modC_same]
      exact dataKept_of_streams rfl rfl rfl rfl
    rw [← own]
    exact first.trans (countCeBytes_kept _ _ _)
  obtain ⟨t, run, stage, mem, -⟩ := h.moves sent data lands kept
    (noLockout_congr calm ((frame .ctxs (by decide)).trans (counts .ctxs (by decide))))
  have mem' := mem.trans (counts .mem (by decide))
  exact ⟨t, run, stage, by rw [mem']; exact cells, by rw [mem']; exact unit⟩

end

end Sys2Proof.Machine
end

section
-- One proof after the other: a text of this length has more proofs waiting at once than the check has threads for.
set_option Elab.async false
/-! PROOFS. What run-ahead reads for a COPY that has been fetched (R189). -/
namespace Sys2Proof.Machine

/-! ### Reads beside another content of the cores -/

/-- The state with other cores. -/
def withSlots (g : AMap PCore) (s : State) : State := { s with slots := g }

theorem aside_withSlots (g : AMap PCore) : Aside (withSlots g) where
  opt _ := rfl
  hub _ := rfl
  mem _ := rfl
  diag _ := rfl
  ticks _ := rfl
  free _ := rfl
  view _ _ := ⟨rfl, rfl, rfl, rfl⟩
  putMem _ _ := rfl
  putDiag _ _ := rfl
  putFree _ _ := rfl
  logs _ _ _ _ _ _ := rfl
  tags _ _ := rfl

theorem modC_withSlots (s : State) (n : Nat) (f : PCore → PCore) : modC s n f = withSlots (modC s n f).slots s := rfl

section
variable (g : AMap PCore) (s : State) (n c : Nat)

theorem takeTokens_withSlots (d cls b : Nat) : takeTokens (withSlots g s) d cls b = (takeTokens s d cls b).map (withSlots g) := by
  have own : dieOwner (withSlots g s) d = dieOwner s d := rfl
  have bucket : ∀ o, getBucket (withSlots g s) o cls = getBucket s o cls := fun _ => rfl
  have slice : sliceOf (withSlots g s) d cls = sliceOf s d cls := rfl
  unfold takeTokens
  dsimp only
  rw [own, bucket, slice]
  split
  · rfl
  · show (if ((getBucket s (dieOwner s d) cls).borrow && decide (1 ≤ s.mem.pool.getD d 0)) = true then _ else _) = _
    split
    · rfl
    · rfl

theorem sourceBlock_two (a : BitVec 48) : sourceBlock s n c 2 a = match translate s c a with
    | .localPage p pg off e _ => readLocal s c p pg (off - off % 256) e
    | _ => (s, { data := List.replicate 256 0, crc := 0 }) := rfl

theorem sourceBlock_withSlots (a : BitVec 48) : sourceBlock (withSlots g s) n c 2 a = (withSlots g (sourceBlock s n c 2 a).1, (sourceBlock s n c 2 a).2) := by
  rw [sourceBlock_two, sourceBlock_two, (aside_withSlots g).translate]
  cases translate s c a with
  | localPage p pg off e wr => exact (aside_withSlots g).readLocal s c p pg (off - off % 256) e
  | _ => rfl

theorem sourceBlocks_withSlots : ∀ (l : List (BitVec 48)) (s : State),
    sourceBlocks n c 2 (withSlots g s) l = (withSlots g (sourceBlocks n c 2 s l).1, (sourceBlocks n c 2 s l).2)
  | [], _ => rfl
  | a :: l, s => by
    unfold sourceBlocks
    dsimp only
    rw [sourceBlock_withSlots]
    dsimp only
    rw [sourceBlocks_withSlots l]

end

/-! ### A run-ahead request is changed, or dropped -/

/-- Of a core the run-ahead requests of a stream are others. -/
def aheadPut (c : PCore) (i no : Nat) (f : AheadReq → Option AheadReq) : PCore :=
  modStream c i fun t => { t with ahead := t.ahead.filterMap fun q => if q.no = no then f q else some q }

theorem putAhead_eq (s : State) (n i no : Nat) (f : AheadReq → Option AheadReq) : putAhead s n i no f = setC s n (aheadPut (getC s n) i no f) := rfl

section
variable {s : State} {n i no k : Nat} {f : AheadReq → Option AheadReq} {c : PCore}

theorem getC_putAhead : getC (putAhead s n i no f) n = aheadPut (getC s n) i no f := by rw [putAhead_eq, getC_setC_same]

theorem frame_putAhead (s : State) (n i no : Nat) (f : AheadReq → Option AheadReq) : AllBut [.slots] s (putAhead s n i no f) := frame_modC s n _

theorem aheadPut_stream (hi : i < 16) : getStream (aheadPut c i no f) i =
    { getStream c i with ahead := (getStream c i).ahead.filterMap fun q => if q.no = no then f q else some q } :=
  getStream_modStream_same _ hi _

theorem aheadPut_other (hk : k ≠ i) : getStream (aheadPut c i no f) k = getStream c k :=
  getStream_modStream_other _ hk _

/-- Besides, the core stays. -/
theorem aheadPut_rest (c : PCore) (i no : Nat) (f : AheadReq → Option AheadReq) :
    (aheadPut c i no f).stage = c.stage ∧ (aheadPut c i no f).copies = c.copies ∧ (aheadPut c i no f).cnt = c.cnt := ⟨rfl, rfl, rfl⟩

theorem getC_dropRequest : getC (dropRequest s n i no) n = { aheadPut (getC s n) i no (fun _ => none) with
    cnt := { (getC s n).cnt with raDrop := (getC s n).cnt.raDrop + 1 } } := by
  rw [dropRequest, countDrop, modCnt, getC_modC_same, getC_putAhead]
  rfl

theorem frame_dropRequest (s : State) (n i no : Nat) : AllBut [.slots] s (dropRequest s n i no) := by
  unfold dropRequest countDrop
  exact (frame_putAhead s n i no _).trans (frame_modCnt _ n _)

/-- A request behind others of other numbers. -/
theorem filterMap_last {l : List AheadReq} {q : AheadReq} (new : ∀ r ∈ l, r.no ≠ q.no) :
    (l ++ [q]).filterMap (fun r => if r.no = q.no then f r else some r) = l ++ (f q).toList := by
  rw [List.filterMap_append]
  have kept : l.filterMap (fun r => if r.no = q.no then f r else some r) = l :=
    (List.filterMap_congr fun r hr => if_neg (new r hr)).trans List.filterMap_some
  rw [kept, List.filterMap_cons, if_pos rfl]
  cases f q <;> rfl

end

/-! ### The read of a run-ahead request (R189) -/

section
variable {s : State} {n i : Nat} {q : AheadReq} {x : Copy} {v : CopyData} {w : Span}

/-- R189: a request that has not gone out. -/
structure Unsent (x : Copy) (q : AheadReq) (w : Span) : Prop where
  span : spanOf x q.src q.dst q.req = some w
  miss : q.miss = none
  data : q.data = none
  sent : q.sent = false

theorem Unsent.idle (h : Unsent x q w) : ¬ (q.miss.isSome || q.data.isSome) = true := by
  rw [h.miss, h.data]
  decide

theorem Unsent.waits (h : Unsent x q w) : ¬ q.sent = true := by
  rw [h.sent]
  decide

/-- The fault of an access of the source. -/
def aheadFault (s : State) (n i : Nat) (x : Copy) (a : BitVec 48) : Option (BitVec 8) := accessFault s (getStream (getC s n) i).ctx x.srcLoc a false

variable (h : Unsent x q w)
include h

theorem goAhead_foreign (paged : isPaged x.srcLoc = true) (foreign : ∃ a ∈ blocksOf w.src w.len, aheadFault s n i x a = some 0x05) :
    goAhead s n i q x v = dropRequest s n i q.no := by
  obtain ⟨a, ha, fault⟩ := foreign
  have any : ((blocksOf w.src w.len).any fun a => accessFault s (getStream (getC s n) i).ctx x.srcLoc a false == some 0x05) = true :=
    List.any_eq_true.mpr ⟨a, ha, beq_iff_eq.mpr fault⟩
  unfold goAhead
  dsimp only
  rw [h.span]
  dsimp only
  rw [if_neg h.idle, if_neg h.waits, if_pos paged, if_pos any]

theorem goAhead_own (paged : isPaged x.srcLoc = true) (own : ∀ a ∈ blocksOf w.src w.len, aheadFault s n i x a ≠ some 0x05) {a : BitVec 48}
    (miss : (blocksOf w.src w.len).find? (fun a => !(getC s n).xlat.contains (pageOf a)) = some a) :
    goAhead s n i q x v = putAhead (countMiss s n (pageOf a)) n i q.no fun q => some { q with miss := some (pageOf a) } := by
  have any : ¬ ((blocksOf w.src w.len).any fun a => accessFault s (getStream (getC s n) i).ctx x.srcLoc a false == some 0x05) = true := fun hany => by
    obtain ⟨a, ha, fault⟩ := List.any_eq_true.mp hany
    exact own a ha (beq_iff_eq.mp fault)
  unfold goAhead
  dsimp only
  rw [h.span]
  dsimp only
  rw [if_neg h.idle, if_neg h.waits, if_pos paged, if_neg any, miss]

theorem goAhead_reads (paged : isPaged x.srcLoc = true)
    (ready : ∀ a ∈ blocksOf w.src w.len, aheadFault s n i x a = none ∧ (getC s n).xlat.contains (pageOf a) = true) :
    goAhead s n i q x v = readAhead s n i q x w v := by
  have foreign : ¬ ((blocksOf w.src w.len).any fun a => accessFault s (getStream (getC s n) i).ctx x.srcLoc a false == some 0x05) = true := fun hany => by
    obtain ⟨a, ha, fault⟩ := List.any_eq_true.mp hany
    exact absurd ((ready a ha).1.symm.trans (beq_iff_eq.mp fault)) (by decide)
  have pages : (blocksOf w.src w.len).find? (fun a => !(getC s n).xlat.contains (pageOf a)) = none :=
    List.find?_eq_none.mpr fun a ha => by rw [(ready a ha).2]; decide
  have fine : ¬ ((blocksOf w.src w.len).any fun a => (accessFault s (getStream (getC s n) i).ctx x.srcLoc a false).isSome) = true := fun hany => by
    obtain ⟨a, ha, fault⟩ := List.any_eq_true.mp hany
    rw [show accessFault s (getStream (getC s n) i).ctx x.srcLoc a false = none from (ready a ha).1] at fault
    cases fault
  unfold goAhead
  dsimp only
  rw [h.span]
  dsimp only
  rw [if_neg h.idle, if_neg h.waits, if_pos paged, if_neg foreign, pages]
  exact if_neg fine

omit h in
theorem readAhead_host (host : x.srcLoc = 4) : readAhead s n i q x w v =
    putAhead (readHost s (getStream (getC s n) i).ctx (blocksOf w.src w.len)) n i q.no fun q => some { q with sent := true } := by
  unfold readAhead
  dsimp only
  split
  · exact absurd (host.symm.trans ‹_›) (by decide)
  · rfl
  · contradiction

omit h in
theorem readAhead_local (here : x.srcLoc = 2) (plain : x.cmode = 0) {bad1 bad2 : List Nat} {s2 : State}
    (taken : takeTokens s (n / 32) x.cls (blocksOf w.src w.len).length = some s2) : readAhead s n i q x w (.local bad1 bad2) =
      holdAhead (sourceBlocks n (getStream (getC s n) i).ctx 2 s2 (blocksOf w.src w.len)).1 n i q.no
        (lose (sourceBlocks n (getStream (getC s n) i).ctx 2 s2 (blocksOf w.src w.len)).2 bad1) := by
  have blocks : readBlocks s (getStream (getC s n) i).ctx x w = blocksOf w.src w.len := if_neg (by rw [plain]; decide)
  unfold readAhead
  dsimp only
  split
  · exact absurd (here.symm.trans ‹_›) (by decide)
  · exact absurd (here.symm.trans ‹_›) (by decide)
  · rw [blocks, if_pos here, taken, here]

end

end Sys2Proof.Machine
end

section
-- One proof after the other: a text of this length has more proofs waiting at once than the check has threads for.
set_option Elab.async false
/-! PROOFS. RUN_AHEAD_READ (R189): what is read ahead is kept with its stream, or dropped. -/
namespace Sys2Proof.Machine

/-- R189: run-ahead looks at a COPY that its stream has fetched, and a request of it. -/
structure RunsAhead (c : Core) (i : SlotNo) (pc : BitVec 48) (num : BitVec 32) (s : State) (d : BitVec 256) (w : Span) : Prop where
  seq  : sequencing s c.val = true
  runs : (getStream (getC s c.val) i.val).st = .running
  copy : aheadCopy (getStream (getC s c.val) i.val) pc = some d
  ra   : (copyOf d).ra = true
  fits : copyMalformed (getStream (getC s c.val) i.val) d = none
  span : spanOf (copyOf d) (copyBases (getStream (getC s c.val) i.val) (copyOf d)).1 (copyBases (getStream (getC s c.val) i.val) (copyOf d)).2
    num.toNat = some w
  calm : NoLockout s

/-- R189: request `num` of the COPY at `pc`. -/
def newAhead (p : PCore) (pc : BitVec 48) (num : Nat) (b : BitVec 48 × BitVec 48) : AheadReq :=
  { no := p.nextId, pc := pc, req := num, src := b.1, dst := b.2, miss := none, sent := false, acks := 0, got := [], data := none }

/-- A stream asks for it. -/
def askedAhead (s : State) (n i : Nat) (q : AheadReq) : State :=
  modC s n fun c => modStream { c with nextId := c.nextId + 1 } i fun t => { t with ahead := t.ahead ++ [q] }

/-- A core whose stream `i` has asked for `q`. -/
structure HasAsked (p : PCore) (i : Nat) (q : AheadReq) (e : PCore) : Prop where
  stream : getStream e i = { getStream p i with ahead := (getStream p i).ahead ++ [q] }
  stage  : e.stage = p.stage
  copies : e.copies = p.copies
  xlat   : e.xlat = p.xlat
  raDrop : e.cnt.raDrop = p.cnt.raDrop

section
variable {s z : State} {n i : Nat} {p : PCore} {q q' : AheadReq} {f : AheadReq → Option AheadReq}

theorem askedAhead_core (s : State) (n : Nat) (hi : i < 16) (q : AheadReq) : HasAsked (getC s n) i q (getC (askedAhead s n i q) n) := by
  rw [askedAhead, getC_modC_same]
  exact ⟨getStream_modStream_same _ hi _, rfl, rfl, rfl, rfl⟩

variable (hi : i < 16) (asked : HasAsked p i q (getC z n)) (new : ∀ r ∈ (getStream p i).ahead, r.no ≠ q.no)
include hi asked new

/-- A request that changes is the last of its stream. -/
theorem HasAsked.put (hf : f q = some q') : getStream (getC (putAhead z n i q.no f) n) i =
    { getStream p i with ahead := (getStream p i).ahead ++ [q'] } := by
  rw [getC_putAhead, aheadPut_stream hi, asked.stream]
  dsimp only
  rw [filterMap_last new, hf]
  rfl

/-- A request that is dropped leaves the stream as it was, and is counted. -/
theorem HasAsked.drop : getStream (getC (dropRequest z n i q.no) n) i = getStream p i ∧
    (getC (dropRequest z n i q.no) n).cnt.raDrop = p.cnt.raDrop + 1 := by
  constructor
  · rw [getC_dropRequest]
    show getStream (aheadPut (getC z n) i q.no fun _ => none) i = _
    rw [aheadPut_stream hi, asked.stream]
    dsimp only
    rw [filterMap_last new]
    exact congrArg (fun l => { getStream p i with ahead := l }) (List.append_nil _)
  · rw [getC_dropRequest]
    exact congrArg (· + 1) asked.raDrop

end

section
variable {c : Core} {i : SlotNo} {pc : BitVec 48} {num : BitVec 32} {s : State} {d : BitVec 256} {w : Span} {v : CopyData}
variable (h : RunsAhead c i pc num s d w)
include h

theorem RunsAhead.exec_eq (formed : wellFormed (.runAheadRead c ⟨i, pc⟩ num v) = true) :
    exec (.runAheadRead c ⟨i, pc⟩ num v) s = doneMem (runAhead s c.val i.val pc num.toNat v) := if_pos formed

theorem RunsAhead.scrutinee : (if sequencing s c.val && (getStream (getC s c.val) i.val).st == .running
    then aheadCopy (getStream (getC s c.val) i.val) pc else none) = some d := by
  rw [h.seq, h.runs, h.copy]
  rfl

theorem RunsAhead.due : ¬ (!(copyOf d).ra || (copyMalformed (getStream (getC s c.val) i.val) d).isSome) = true := by
  rw [h.ra, h.fits]
  decide

/-- The bases of the COPY. -/
abbrev aheadBases (s : State) (n i : Nat) (d : BitVec 256) : BitVec 48 × BitVec 48 := copyBases (getStream (getC s n) i) (copyOf d)

/-- The request of the stream for this part of the COPY, if it has one. -/
abbrev aheadOf (s : State) (n i : Nat) (pc : BitVec 48) (req : Nat) (d : BitVec 256) : Option AheadReq :=
  (getStream (getC s n) i).ahead.find? fun q => q.pc == pc && q.req == req && q.src == (aheadBases s n i d).1 && q.dst == (aheadBases s n i d).2

theorem RunsAhead.goes_on {q : AheadReq} (found : aheadOf s c.val i.val pc num.toNat d = some q) :
    runAhead s c.val i.val pc num.toNat v = goAhead s c.val i.val q (copyOf d) v := by
  unfold aheadOf aheadBases at found
  unfold runAhead
  dsimp only
  rw [h.scrutinee]
  dsimp only
  rw [if_neg h.due, found]

theorem RunsAhead.begins (none_ : aheadOf s c.val i.val pc num.toNat d = none) (held : aheadHeld (getC s c.val) < 16)
    (few : requestsOut (getC s c.val) < 48) : runAhead s c.val i.val pc num.toNat v =
      goAhead (askedAhead s c.val i.val (newAhead (getC s c.val) pc num.toNat (aheadBases s c.val i.val d))) c.val i.val
        (newAhead (getC s c.val) pc num.toNat (aheadBases s c.val i.val d)) (copyOf d) v := by
  have room : (decide (aheadHeld (getC s c.val) < 16) && decide (requestsOut (getC s c.val) < 48) &&
      (spanOf (copyOf d) (aheadBases s c.val i.val d).1 (aheadBases s c.val i.val d).2 num.toNat).isSome) = true := by
    rw [decide_eq_true held, decide_eq_true few, h.span]
    rfl
  unfold aheadOf aheadBases at none_
  unfold runAhead
  dsimp only
  rw [h.scrutinee]
  dsimp only
  rw [if_neg h.due, none_]
  exact if_pos room

/-- The row ends in the state that run-ahead makes. -/
theorem RunsAhead.ends {y : State} (formed : wellFormed (.runAheadRead c ⟨i, pc⟩ num v) = true)
    (eq : runAhead s c.val i.val pc num.toNat v = y) (ctxs : NoLockout y) : ∃ t, exec (.runAheadRead c ⟨i, pc⟩ num v) s = .next t ∧
      t.mem = y.mem ∧ t.ctxs = y.ctxs ∧ getC t c.val = getC y c.val ∧ y.outbox <:+ t.outbox := by
  have run := h.exec_eq formed
  rw [eq] at run
  exact ⟨settle y, run.trans (doneMem_eq ctxs), settle_mem y, settle_ctxs y, getC_settled (settle_settled y) c.val, (settle_settled y).out.outbox⟩

end

/-! ### A request that is new -/

/-- A read of the host window leaves beside another content of the cores. -/
theorem readHost_withSlots (g : AMap PCore) (s : State) (c : Nat) (l : List (BitVec 48)) :
    readHost (withSlots g s) c l = withSlots g (readHost s c l) := by
  unfold readHost
  refine Aside.foldl (F := withSlots g) s (fun s r => ?_) _
  rw [(aside_withSlots g).translate]
  cases translate s c (r.2.headD 0) <;> rfl

theorem frame_readHost (s : State) (c : Nat) (l : List (BitVec 48)) : AllBut [.outbox] s (readHost s c l) := by
  obtain ⟨o, ho⟩ := readHost_eq s c l
  rw [ho]
  intro p hp
  cases p <;> first | exact absurd (by decide) hp | exact rfl | exact List.suffix_rfl | exact MailKept.refl _ | exact ⟨o, rfl⟩

section
variable {c : Core} {i : SlotNo} {pc : BitVec 48} {num : BitVec 32} {s : State} {d : BitVec 256} {w : Span} {v : CopyData} {q : AheadReq}

/-- R189: run-ahead takes up a request of the COPY. -/
structure NewAhead (c : Core) (i : SlotNo) (pc : BitVec 48) (num : BitVec 32) (s : State) (d : BitVec 256) (w : Span) (v : CopyData) (q : AheadReq)
    : Prop extends RunsAhead c i pc num s d w where
  formed : wellFormed (.runAheadRead c ⟨i, pc⟩ num v) = true
  none_  : aheadOf s c.val i.val pc num.toNat d = none
  held   : aheadHeld (getC s c.val) < 16
  few    : requestsOut (getC s c.val) < 48
  new    : ∀ r ∈ (getStream (getC s c.val) i.val).ahead, r.no ≠ (getC s c.val).nextId
  is     : q = newAhead (getC s c.val) pc num.toNat (aheadBases s c.val i.val d)

variable (h : NewAhead c i pc num s d w v q)
include h

theorem NewAhead.no : ∀ r ∈ (getStream (getC s c.val) i.val).ahead, r.no ≠ q.no := by
  rw [h.is]
  exact h.new

theorem NewAhead.unsent : Unsent (copyOf d) q w := by
  rw [h.is]
  exact ⟨h.span, rfl, rfl, rfl⟩

theorem NewAhead.eq : runAhead s c.val i.val pc num.toNat v = goAhead (askedAhead s c.val i.val q) c.val i.val q (copyOf d) v := by
  rw [h.is]
  exact h.begins h.none_ h.held h.few

theorem NewAhead.asked : HasAsked (getC s c.val) i.val q (getC (askedAhead s c.val i.val q) c.val) := askedAhead_core s c.val i.isLt q

omit h in
theorem frame_askedAhead (s : State) (n i : Nat) (q : AheadReq) : AllBut [.slots] s (askedAhead s n i q) := frame_modC s n _

theorem NewAhead.fault (a : BitVec 48) : aheadFault (askedAhead s c.val i.val q) c.val i.val (copyOf d) a =
    accessFault s (getStream (getC s c.val) i.val).ctx (copyOf d).srcLoc a false := by
  unfold aheadFault
  rw [h.asked.stream, accessFault_framed (frame_askedAhead s c.val i.val q)]

/-- An address of another context drops the request. -/
theorem NewAhead.foreign (paged : isPaged (copyOf d).srcLoc = true)
    (foreign : ∃ a ∈ blocksOf w.src w.len, accessFault s (getStream (getC s c.val) i.val).ctx (copyOf d).srcLoc a false = some 0x05) :
    ∃ t, exec (.runAheadRead c ⟨i, pc⟩ num v) s = .next t ∧ t.mem = s.mem ∧ getStream (getC t c.val) i.val = getStream (getC s c.val) i.val ∧
      (getC t c.val).cnt.raDrop = (getC s c.val).cnt.raDrop + 1 := by
  obtain ⟨a, ha, fault⟩ := foreign
  have eq := h.eq.trans (goAhead_foreign h.unsent paged ⟨a, ha, (h.fault a).trans fault⟩)
  have frame := (frame_askedAhead s c.val i.val q).trans (frame_dropRequest _ c.val i.val q.no)
  obtain ⟨t, run, mem, -, core, -⟩ := h.ends h.formed eq (noLockout_congr h.calm (frame .ctxs (by decide)))
  obtain ⟨stream, count⟩ := h.asked.drop i.isLt h.no
  exact ⟨t, run, mem.trans (frame .mem (by decide)), by rw [core, stream], by rw [core, count]⟩

/-- A page that is not translated is asked for. -/
theorem NewAhead.misses (paged : isPaged (copyOf d).srcLoc = true)
    (own : ∀ a ∈ blocksOf w.src w.len, accessFault s (getStream (getC s c.val) i.val).ctx (copyOf d).srcLoc a false ≠ some 0x05) {a : BitVec 48}
    (miss : (blocksOf w.src w.len).find? (fun a => !(getC s c.val).xlat.contains (pageOf a)) = some a) :
    ∃ t, exec (.runAheadRead c ⟨i, pc⟩ num v) s = .next t ∧ t.mem = s.mem ∧ getStream (getC t c.val) i.val =
      { getStream (getC s c.val) i.val with ahead := (getStream (getC s c.val) i.val).ahead ++ [{ q with miss := some (pageOf a) }] } := by
  have eq := h.eq.trans (goAhead_own h.unsent paged (fun a ha => by rw [h.fault]; exact own a ha) (by rw [h.asked.xlat]; exact miss))
  have asked : HasAsked (getC s c.val) i.val q (getC (countMiss (askedAhead s c.val i.val q) c.val (pageOf a)) c.val) := by
    unfold countMiss
    dsimp only
    split
    · exact h.asked
    · rw [modCnt, getC_modC_same]
      exact ⟨h.asked.stream, h.asked.stage, h.asked.copies, h.asked.xlat, h.asked.raDrop⟩
  have frame := ((frame_askedAhead s c.val i.val q).trans (frame_countMiss _ c.val (pageOf a))).trans
    (frame_putAhead _ c.val i.val q.no fun q => some { q with miss := some (pageOf a) })
  obtain ⟨t, run, mem, -, core, -⟩ := h.ends h.formed eq (noLockout_congr h.calm (frame .ctxs (by decide)))
  exact ⟨t, run, mem.trans (frame .mem (by decide)), by rw [core]; exact asked.put i.isLt h.no rfl⟩

variable (ready : ∀ a ∈ blocksOf w.src w.len, accessFault s (getStream (getC s c.val) i.val).ctx (copyOf d).srcLoc a false = none ∧
  (getC s c.val).xlat.contains (pageOf a) = true)
include ready

theorem NewAhead.pages : ∀ a ∈ blocksOf w.src w.len, aheadFault (askedAhead s c.val i.val q) c.val i.val (copyOf d) a = none ∧
    (getC (askedAhead s c.val i.val q) c.val).xlat.contains (pageOf a) = true := fun a ha => by
  rw [h.fault, h.asked.xlat]
  exact ready a ha

/-- Of a host window the host is asked. -/
theorem NewAhead.asksHost (host : (copyOf d).srcLoc = 4) : ∃ t, exec (.runAheadRead c ⟨i, pc⟩ num v) s = .next t ∧ t.mem = s.mem ∧ t.ctxs = s.ctxs ∧
    getStream (getC t c.val) i.val =
      { getStream (getC s c.val) i.val with ahead := (getStream (getC s c.val) i.val).ahead ++ [{ q with sent := true }] } ∧
    (readHost s (getStream (getC s c.val) i.val).ctx (blocksOf w.src w.len)).outbox <:+ t.outbox := by
  have paged : isPaged (copyOf d).srcLoc = true := by rw [host]; rfl
  have eq := (h.eq.trans (goAhead_reads h.unsent paged (h.pages ready))).trans (readAhead_host host)
  have ctx : (getStream (getC (askedAhead s c.val i.val q) c.val) i.val).ctx = (getStream (getC s c.val) i.val).ctx := by rw [h.asked.stream]
  rw [ctx] at eq
  have out := readHost_withSlots (askedAhead s c.val i.val q).slots s (getStream (getC s c.val) i.val).ctx (blocksOf w.src w.len)
  rw [show withSlots (askedAhead s c.val i.val q).slots s = askedAhead s c.val i.val q from rfl] at out
  obtain ⟨o, ho⟩ := readHost_eq (askedAhead s c.val i.val q) (getStream (getC s c.val) i.val).ctx (blocksOf w.src w.len)
  have asked : HasAsked (getC s c.val) i.val q
      (getC (readHost (askedAhead s c.val i.val q) (getStream (getC s c.val) i.val).ctx (blocksOf w.src w.len)) c.val) := by
    rw [ho]
    exact h.asked
  have frame : AllBut [.slots, .outbox] s (readHost (askedAhead s c.val i.val q) (getStream (getC s c.val) i.val).ctx (blocksOf w.src w.len)) :=
    AllBut.trans (t := askedAhead s c.val i.val q) (frame_askedAhead s c.val i.val q).mono (frame_readHost _ _ _).mono
  have sent : (readHost s (getStream (getC s c.val) i.val).ctx (blocksOf w.src w.len)).outbox =
      (readHost (askedAhead s c.val i.val q) (getStream (getC s c.val) i.val).ctx (blocksOf w.src w.len)).outbox := by rw [out]; rfl
  rw [sent]
  generalize readHost (askedAhead s c.val i.val q) (getStream (getC s c.val) i.val).ctx (blocksOf w.src w.len) = z at eq asked frame
  have put := frame_putAhead z c.val i.val q.no fun q => some { q with sent := true }
  obtain ⟨t, run, mem, ctxs, core, suffix⟩ := h.ends h.formed eq
    (noLockout_congr h.calm (Eq.trans (put .ctxs (by decide)) (frame .ctxs (by decide))))
  exact ⟨t, run, mem.trans (Eq.trans (put .mem (by decide)) (frame .mem (by decide))), ctxs.trans (Eq.trans (put .ctxs (by decide)) (frame .ctxs (by decide))),
    by rw [core]; exact asked.put i.isLt h.no rfl, (put .outbox (by decide)) ▸ suffix⟩

/-- Of a local page the blocks are read; kept when all of them are good. -/
theorem NewAhead.reads {bad1 bad2 : List Nat} {s2 s3 : State} {l bs : List Block} (hv : v = .local bad1 bad2) (here : (copyOf d).srcLoc = 2)
    (plain : (copyOf d).cmode = 0) (taken : takeTokens s (c.val / 32) (copyOf d).cls (blocksOf w.src w.len).length = some s2)
    (source : sourceBlocks c.val (getStream (getC s c.val) i.val).ctx 2 s2 (blocksOf w.src w.len) = (s3, l)) (calm : NoLockout s3) (hbs : bs = lose l bad1) :
    ∃ t, exec (.runAheadRead c ⟨i, pc⟩ num v) s = .next t ∧ t.mem = s3.mem ∧ (getC t c.val).stage = (getC s c.val).stage ∧
      (getC t c.val).copies = (getC s c.val).copies ∧
      (bs.all blockOk = true → getStream (getC t c.val) i.val =
        { getStream (getC s c.val) i.val with ahead := (getStream (getC s c.val) i.val).ahead ++ [{ q with data := some bs }] }) ∧
      (bs.all blockOk = false → getStream (getC t c.val) i.val = getStream (getC s c.val) i.val ∧
        (getC t c.val).cnt.raDrop = (getC s c.val).cnt.raDrop + 1) := by
  subst hv
  have paged : isPaged (copyOf d).srcLoc = true := by rw [here]; rfl
  have ctx : (getStream (getC (askedAhead s c.val i.val q) c.val) i.val).ctx = (getStream (getC s c.val) i.val).ctx := by rw [h.asked.stream]
  obtain ⟨g, hg⟩ : ∃ g, g = (askedAhead s c.val i.val q).slots := ⟨_, rfl⟩
  have beside : askedAhead s c.val i.val q = withSlots g s := by rw [hg]; rfl
  have asked := h.asked
  have eq := h.eq.trans (goAhead_reads h.unsent paged (h.pages ready))
  rw [beside] at eq asked ctx
  have taken' : takeTokens (withSlots g s) (c.val / 32) (copyOf d).cls (blocksOf w.src w.len).length = some (withSlots g s2) := by
    rw [takeTokens_withSlots, taken]
    rfl
  rw [readAhead_local here plain taken', ctx, sourceBlocks_withSlots, source] at eq
  dsimp only at eq
  rw [← hbs] at eq
  have frame : AllBut memoryParts s s3 := by
    have first := frame_takeTokens taken
    have rest := frame_sourceBlocks c.val (getStream (getC s c.val) i.val).ctx 2 (blocksOf w.src w.len) s2
    rw [source] at rest
    exact first.mono.trans rest
  have asked' : HasAsked (getC s c.val) i.val q (getC (withSlots g s3) c.val) := by
    have same : getC (withSlots g s3) c.val = getC (withSlots g s) c.val :=
      getC_congr (s := withSlots g s) (t := withSlots g s3) (show s3.hub = s.hub from frame .hub (by decide)) rfl c.val
    rw [same]
    exact asked
  have calm' : NoLockout (withSlots g s3) := calm
  have mem : (withSlots g s3).mem = s3.mem := rfl
  generalize withSlots g s3 = z at eq asked' calm' mem
  unfold holdAhead at eq
  cases good : bs.all blockOk with
  | true =>
    rw [if_pos good] at eq
    have put := frame_putAhead z c.val i.val q.no fun q => some { q with data := some bs }
    obtain ⟨t, run, kept, -, core, -⟩ := h.ends h.formed eq (noLockout_congr calm' (put .ctxs (by decide)))
    refine ⟨t, run, kept.trans (Eq.trans (put .mem (by decide)) mem), ?_, ?_, fun _ => ?_, fun bad => absurd bad (by decide)⟩
    · rw [core, getC_putAhead]
      exact asked'.stage
    · rw [core, getC_putAhead]
      exact asked'.copies
    · rw [core]
      exact asked'.put i.isLt h.no rfl
  | false =>
    rw [if_neg (by rw [good]; decide)] at eq
    have put := frame_dropRequest z c.val i.val q.no
    obtain ⟨t, run, kept, -, core, -⟩ := h.ends h.formed eq (noLockout_congr calm' (put .ctxs (by decide)))
    refine ⟨t, run, kept.trans (Eq.trans (put .mem (by decide)) mem), ?_, ?_, fun bad => absurd bad (by decide), fun _ => ?_⟩
    · rw [core, getC_dropRequest]
      exact asked'.stage
    · rw [core, getC_dropRequest]
      exact asked'.copies
    · rw [core]
      exact asked'.drop i.isLt h.no

end

/-! ### A request that has gone out (R189) -/

section
variable {c : Core} {i : SlotNo} {pc : BitVec 48} {num : BitVec 32} {s : State} {d : BitVec 256} {w : Span} {q : AheadReq}

/-- Of requests that are told apart by their number one is changed. -/
theorem filterMap_one {l : List AheadReq} {q q' : AheadReq} (alone : ∀ r ∈ l, r.no = q.no → r = q) {f : AheadReq → Option AheadReq} (hf : f q = some q') :
    l.filterMap (fun r => if r.no = q.no then f r else some r) = l.map fun r => if r.no = q.no then q' else r := by
  rw [← List.filterMap_eq_map]
  refine List.filterMap_congr fun r hr => ?_
  by_cases same : r.no = q.no
  · rw [if_pos same, alone r hr same, hf]
    exact congrArg some (if_pos rfl).symm
  · rw [if_neg same]
    exact congrArg some (if_neg same).symm

theorem filterMap_without {l : List AheadReq} {k : Nat} :
    l.filterMap (fun r => if r.no = k then none else some r) = l.filter fun r => r.no != k := by
  induction l with
  | nil => rfl
  | cons r l ih =>
    rw [List.filterMap_cons, List.filter_cons, ih]
    by_cases same : r.no = k
    · rw [if_pos same, if_neg (by rw [same]; simp)]
    · rw [if_neg same, if_pos (by simpa using same)]

/-- R189: a request of the COPY waits for the host. -/
structure SentAhead (c : Core) (i : SlotNo) (pc : BitVec 48) (num : BitVec 32) (s : State) (d : BitVec 256) (w : Span) (q : AheadReq) : Prop
    extends RunsAhead c i pc num s d w where
  found : aheadOf s c.val i.val pc num.toNat d = some q
  miss  : q.miss = none
  sent  : q.sent = true
  data  : q.data = none
  alone : ∀ r ∈ (getStream (getC s c.val) i.val).ahead, r.no = q.no → r = q
  host  : (copyOf d).srcLoc = 4

variable (h : SentAhead c i pc num s d w q)
include h

theorem SentAhead.wants : spanOf (copyOf d) q.src q.dst q.req = some w := by
  have named := List.find?_some h.found
  simp only [Bool.and_eq_true, beq_iff_eq] at named
  obtain ⟨⟨⟨-, req⟩, src⟩, dst⟩ := named
  rw [req, src, dst]
  exact h.span

theorem SentAhead.idle : ¬ (q.miss.isSome || q.data.isSome) = true := by
  rw [h.miss, h.data]
  decide

theorem SentAhead.comes {bs : List Block} (len : bs.length = (blocksOf w.src w.len).length) :
    runAhead s c.val i.val pc num.toNat (.host bs) = holdAhead s c.val i.val q.no bs := by
  have host := h.host
  rw [h.goes_on h.found]
  unfold goAhead
  dsimp only
  rw [h.wants]
  dsimp only
  rw [if_neg h.idle, if_pos h.sent]
  split
  · rename_i e
    cases e
    exact if_pos len
  · rename_i e
    cases e
  · rename_i other _
    exact absurd rfl (other bs host)

theorem SentAhead.errs : runAhead s c.val i.val pc num.toNat .hostError = dropRequest s c.val i.val q.no := by
  have host := h.host
  rw [h.goes_on h.found]
  unfold goAhead
  dsimp only
  rw [h.wants]
  dsimp only
  rw [if_neg h.idle, if_pos h.sent]
  split
  · rename_i e
    cases e
  · rfl
  · rename_i other
    exact absurd rfl (other host)

/-- A request that is dropped, and counted. -/
theorem SentAhead.drops : getStream (getC (dropRequest s c.val i.val q.no) c.val) i.val =
      { getStream (getC s c.val) i.val with ahead := (getStream (getC s c.val) i.val).ahead.filter fun r => r.no != q.no } ∧
    (getC (dropRequest s c.val i.val q.no) c.val).cnt.raDrop = (getC s c.val).cnt.raDrop + 1 := by
  rw [getC_dropRequest]
  refine ⟨?_, rfl⟩
  show getStream (aheadPut (getC s c.val) i.val q.no fun _ => none) i.val = _
  rw [aheadPut_stream i.isLt, filterMap_without]

/-- R189: an error of the host drops the request. -/
theorem SentAhead.hostError (formed : wellFormed (.runAheadRead c ⟨i, pc⟩ num .hostError) = true) :
    ∃ t, exec (.runAheadRead c ⟨i, pc⟩ num .hostError) s = .next t ∧ t.mem = s.mem ∧ getStream (getC t c.val) i.val =
      { getStream (getC s c.val) i.val with ahead := (getStream (getC s c.val) i.val).ahead.filter fun r => r.no != q.no } ∧
      (getC t c.val).cnt.raDrop = (getC s c.val).cnt.raDrop + 1 := by
  have frame := frame_dropRequest s c.val i.val q.no
  obtain ⟨t, run, mem, -, core, -⟩ := h.ends formed h.errs (noLockout_congr h.calm (frame .ctxs (by decide)))
  refine ⟨t, run, mem.trans (frame .mem (by decide)), ?_⟩
  rw [core]
  exact h.drops

/-- R189: what the host returns is kept when every block is good, and dropped otherwise. -/
theorem SentAhead.returned {bs : List Block} (formed : wellFormed (.runAheadRead c ⟨i, pc⟩ num (.host bs)) = true)
    (len : bs.length = (blocksOf w.src w.len).length) : ∃ t, exec (.runAheadRead c ⟨i, pc⟩ num (.host bs)) s = .next t ∧ t.mem = s.mem ∧
      t.ctxs = s.ctxs ∧ (getC t c.val).stage = (getC s c.val).stage ∧ (getC t c.val).copies = (getC s c.val).copies ∧
      (∀ k, k ≠ i.val → getStream (getC t c.val) k = getStream (getC s c.val) k) ∧
      (bs.all blockOk = true → getStream (getC t c.val) i.val = { getStream (getC s c.val) i.val with
        ahead := (getStream (getC s c.val) i.val).ahead.map fun r => if r.no = q.no then { q with data := some bs } else r }) ∧
      (bs.all blockOk = false → getStream (getC t c.val) i.val =
        { getStream (getC s c.val) i.val with ahead := (getStream (getC s c.val) i.val).ahead.filter fun r => r.no != q.no } ∧
        (getC t c.val).cnt.raDrop = (getC s c.val).cnt.raDrop + 1) := by
  have eq := h.comes len
  unfold holdAhead at eq
  cases good : bs.all blockOk with
  | true =>
    rw [if_pos good] at eq
    have put := frame_putAhead s c.val i.val q.no fun q => some { q with data := some bs }
    obtain ⟨t, run, mem, ctxs, core, -⟩ := h.ends formed eq (noLockout_congr h.calm (put .ctxs (by decide)))
    rw [getC_putAhead] at core
    refine ⟨t, run, mem.trans (put .mem (by decide)), ctxs.trans (put .ctxs (by decide)), by rw [core]; rfl, by rw [core]; rfl, fun k hk => ?_,
      fun _ => ?_, fun bad => absurd bad (by decide)⟩
    · rw [core, aheadPut_other hk]
    · rw [core, aheadPut_stream i.isLt, filterMap_one h.alone (f := fun q => some { q with data := some bs }) rfl]
  | false =>
    rw [if_neg (by rw [good]; decide)] at eq
    have put := frame_dropRequest s c.val i.val q.no
    obtain ⟨t, run, mem, ctxs, core, -⟩ := h.ends formed eq (noLockout_congr h.calm (put .ctxs (by decide)))
    refine ⟨t, run, mem.trans (put .mem (by decide)), ctxs.trans (put .ctxs (by decide)), ?_, ?_, fun k hk => ?_, fun bad => absurd bad (by decide), fun _ => ?_⟩
    · rw [core, getC_dropRequest]
      rfl
    · rw [core, getC_dropRequest]
      rfl
    · rw [core, getC_dropRequest]
      exact aheadPut_other hk
    · rw [core]
      exact h.drops

end

end Sys2Proof.Machine
end

section
-- One proof after the other: a text of this length has more proofs waiting at once than the check has threads for.
set_option Elab.async false
/-! PROOFS. COPYs move data (R187 to R190, R207, R219, R224 to R228): the requests of a COPY, and what run-ahead reads for it. -/
namespace Sys2Proof.Machine

section
variable {c : Core} {id : BitVec 16} {s s1 : State} {j : CopyJob} {w : Span}

/-- R188: with its tokens a request issues: data of it that are held, or that are on the module, need no read that leaves. -/
theorem requestIssue_acts (serves : inService s c.val = true) (found : findCopy s c.val id = some j) (calm : NoLockout s) (sound : j.failed = none)
    (turn : HasTurn s c.val j (copyOf j.iss.desc) w)
    (pages : (spanPages (copyOf j.iss.desc) w).find? (fun q => !(getC s c.val).xlat.contains (pageOf q.1)) = none)
    (fine : requestFault s (jobStream s c.val j.iss).ctx (copyOf j.iss.desc) w = none)
    (paid : takeAll (c.val / 32) (copyOf j.iss.desc).cls (requestSizes (chargedBlocks s c.val (jobStream s c.val j.iss).ctx (copyOf j.iss.desc) w))
      (ceTurn s c.val j) = some s1) :
    ((mapGet? j.held j.next).isSome = true ∨ (copyOf j.iss.desc).srcLoc ≠ 3 ∧ (copyOf j.iss.desc).srcLoc ≠ 4 →
      Leads (.copyRequestIssue c id) s (setCopy s1 c.val (asking j))) ∧
    (mapGet? j.held j.next = none → (copyOf j.iss.desc).srcLoc = 4 →
      Leads (.copyRequestIssue c id) s (readHost (setCopy s1 c.val (asking j)) (jobStream s c.val j.iss).ctx (blocksOf w.src w.len))) ∧
    (∀ r, mapGet? j.held j.next = none → r = startReads (setCopy s1 c.val (asking j)) c.val (asking j) j.next w → r.2.failed = none → NoLockout r.1 →
      Leads (.copyRequestIssue c id) s (setCopy r.1 c.val r.2)) := by
  have tokens := frame_takeAll paid
  have frame : AllBut [.slots, .mem] s (setCopy s1 c.val (asking j)) :=
    ((frame_ceTurn s c.val j).mono.trans tokens.mono).trans (frame_setCopy s1 c.val (asking j)).mono
  have calm' : NoLockout (setCopy s1 c.val (asking j)) := noLockout_congr calm (frame .ctxs (by decide))
  refine ⟨fun stays => ?_, fun held host => ?_, fun r held hr good kept => ?_⟩
  · cases held : mapGet? j.held j.next with
    | some l => exact requestIssue_leads serves found (issueRequest_held turn pages fine paid (by rw [held]; rfl)) calm'
    | none =>
      obtain got | ⟨not3, not4⟩ := stays
      · rw [held] at got
        cases got
      · have reads : startReads (setCopy s1 c.val (asking j)) c.val (asking j) j.next w = (setCopy s1 c.val (asking j), asking j) := startReads_none not3 not4
        have eq := issueRequest_sends turn pages fine paid held (by rw [reads]; exact sound)
        rw [reads] at eq
        dsimp only at eq
        rw [setCopy_setCopy _ _ rfl] at eq
        exact requestIssue_leads serves found eq calm'
  · have ctx : (jobStream (setCopy s1 c.val (asking j)) c.val (asking j).iss).ctx = (jobStream s c.val j.iss).ctx := by
      unfold jobStream
      rw [getStream_setCopy, getC_congr (tokens .hub (by decide)) (tokens .slots (by decide)) c.val, (ceTurn_core [] s c.val j).own]
      rfl
    have reads : startReads (setCopy s1 c.val (asking j)) c.val (asking j) j.next w =
        (readHost (setCopy s1 c.val (asking j)) (jobStream s c.val j.iss).ctx (blocksOf w.src w.len), asking j) := by
      rw [← ctx]
      exact startReads_host host
    have eq := issueRequest_sends turn pages fine paid held (by rw [reads]; exact sound)
    rw [reads] at eq
    dsimp only at eq
    rw [setCopy_readHost] at eq
    exact requestIssue_leads serves found eq (noLockout_congr calm' (frame_readHost _ _ _ .ctxs (by decide)))
  · subst hr
    have eq := issueRequest_sends turn pages fine paid held good
    exact requestIssue_leads serves found eq (noLockout_congr kept (frame_setCopy _ _ _ .ctxs (by decide)))

/-- A page that is neither unmapped nor another's is mapped. -/
theorem keeps_of {x : Xlat} (mapped : x ≠ .unmapped) (own : x ≠ .foreign) : x.keeps = true := by
  cases x with
  | unmapped => exact absurd rfl mapped
  | foreign => exact absurd rfl own
  | localPage => rfl
  | peer => rfl
  | host => rfl

/-- Run-ahead looks at no COPY, and nothing changes. -/
theorem runAhead_rests {i : SlotNo} {pc : BitVec 48} {num : BitVec 32} {v : CopyData} (rest : AtRest s) (calm : NoLockout s)
    (formed : wellFormed (.runAheadRead c ⟨i, pc⟩ num v) = true) (off : sequencing s c.val = false ∨
      (getStream (getC s c.val) i.val).st ≠ .running ∨ aheadCopy (getStream (getC s c.val) i.val) pc = none) :
    exec (.runAheadRead c ⟨i, pc⟩ num v) s = .next s := by
  have none_ : (if sequencing s c.val && (getStream (getC s c.val) i.val).st == .running
      then aheadCopy (getStream (getC s c.val) i.val) pc else none) = none := by
    obtain seq | runs | copy := off
    · rw [seq]
      exact if_neg Bool.false_ne_true
    · refine if_neg fun h => runs ?_
      rw [Bool.and_eq_true, beq_iff_eq] at h
      exact h.2
    · rw [copy]
      split <;> rfl
  have still : runAhead s c.val i.val pc num.toNat v = s := by
    unfold runAhead
    dsimp only
    rw [none_]
  refine next_of_atRest rest (Eq.trans (if_pos formed) ?_)
  show doneMem (runAhead s c.val i.val pc num.toNat v) = _
  rw [still]
  exact doneMem_eq calm

end

/-- Settles O56: a request issues in its COPY's turn, and ends with the data that have come; a lost block or an error fails the COPY by the
halt of its stream; run-ahead keeps good data with the stream. -/
theorem copiesMoveData : Obligations.CopiesMoveData := by
  unfold Obligations.CopiesMoveData
  refine ⟨?_, ?_⟩
  · intro c id s p j x w u hp serves found hx sound hu _ runs free calm
    subst hp hx hu
    refine ⟨fun next few span => ?_, fun num v formed out idle span => ?_, fun v only waits span none_ fault hfault => ?_, fun rest busy => ?_⟩
    · have turn : HasTurn s c.val j (copyOf j.iss.desc) w := ⟨next, few, rfl, span⟩
      refine ⟨fun a miss => ?_, fun fault pages hfault => ⟨fun e he => ?_, fun none_ dry => ?_, fun s1 k none_ paid hk => ?_⟩⟩
      · refine requestIssue_leads serves found (issueRequest_misses turn miss) (noLockout_congr calm ?_)
        exact ((frame_countMiss s c.val _).trans (frame_setCopy _ c.val _)) .ctxs (by decide)
      · exact requestIssue_faults serves found calm runs free sound turn pages (hfault.symm.trans he)
      · refine requestIssue_leads serves found (issueRequest_waits turn pages (hfault.symm.trans none_) dry) (noLockout_congr calm ?_)
        exact Eq.trans (frame_holdTokens (ceTurn s c.val j) _ _ .ctxs (by decide)) (frame_ceTurn s c.val j .ctxs (by decide))
      · subst hk
        obtain ⟨stays, host, peer⟩ := requestIssue_acts serves found calm sound turn pages (hfault.symm.trans none_) paid
        exact ⟨stays, host, fun r held _ => peer r held⟩
    · have h : ∀ {v}, wellFormed (.copyRequestDone c id num v) = true → AwaitsData c id num v s j w := fun formed =>
        ⟨serves, found, sound, runs, free, formed, out, idle, span⟩
      refine ⟨fun s1 bs cache calm1 sent data size _ fits some_ => ⟨fun loc wf good => ⟨fun o blocks brings => ?_, fun lost => ?_⟩, ?_, ?_, ?_, ?_⟩, ?_⟩
      · obtain ⟨t, run, bytes, outside, other, banks, mem, ended⟩ := (h formed).pours calm1 sent data loc fits some_ wf good blocks
          (brings.imp (fun ⟨plain, _, ho⟩ => ⟨plain, ho⟩) fun packed => packed)
        refine ⟨t, run, bytes, outside, other, banks, by rw [mem], fun last only acks quiet => ?_⟩
        obtain ⟨inflight, prog, sems, gone⟩ := ended last only acks quiet
        exact ⟨inflight, prog, sems, gone⟩
      · obtain ⟨b, hb, bad⟩ := lost
        obtain ⟨t, run, halt, outside⟩ := (h formed).lost_fails calm1 sent data loc fits some_ fun all => by
          rw [all b hb] at bad
          cases bad
        exact ⟨t, run, halt.st, halt.sems, halt.err, outside⟩
      · intro b q pg off e wr ch byte pos plain hbs ok src whole dst loc page place still hpos wf
        subst hbs hpos
        exact (h formed).memory calm1 sent ok (size b List.mem_cons_self) src whole dst fits plain data loc page place still wf
      · intro b a wr plain hbs ok src whole dst loc page
        subst hbs
        obtain ⟨t, run, stage, mem, sent'⟩ := (h formed).host calm1 sent ok (size b List.mem_cons_self) src whole dst fits plain data loc page
        exact ⟨t, run, stage, by rw [mem], sent'⟩
      · intro o r k plain _ good loc ho hr taken calm' hk
        subst ho hk
        exact (h formed).peer sent data plain loc good hr taken calm'
      · intro q pg off e wr ch byte pos y mode all good _ hy _ page slot place still hpos wf
        subst hpos
        exact (h formed).compresses calm1 sent data mode good size all page slot place still wf hy
      · intro hv host held
        subst hv
        obtain ⟨t, run, halt, stage, mem⟩ := (h formed).hostError_fails calm host held
        exact ⟨t, run, halt.st, halt.sems, stage, by rw [mem], halt.err⟩
    · refine ⟨fun fine mapped own => ?_, fun e he => ?_⟩
      · refine missResolved_goes serves calm only waits span none_ (hfault.symm.trans fine) (keeps_of mapped own)
      · obtain ⟨t, run, mem, halt⟩ := missResolved_faults serves calm only waits span sound runs free (hfault.symm.trans he)
        exact ⟨t, run, mem, halt.st, halt.sems, halt.err⟩
    · exact requestIssue_rests serves found calm rest busy
  · intro c i pc num s p u d x b w hp hu calm
    subst hp hu
    refine ⟨fun seq runs copy hx ra hb fits span => ?_, fun rest off v formed => ?_⟩
    · subst hx hb
      have h : RunsAhead c i pc num s d w := ⟨seq, runs, copy, ra, fits, span, calm⟩
      refine ⟨fun q none_ held few new hq => ?_, fun q found miss sent data alone host => ?_⟩
      · have a : ∀ {v}, wellFormed (.runAheadRead c ⟨i, pc⟩ num v) = true → NewAhead c i pc num s d w v q := fun formed =>
          { h with formed := formed, none_ := none_, held := held, few := few, new := new, is := hq }
        refine ⟨fun v formed paged foreign => (a formed).foreign paged foreign, fun own paged v m formed miss => (a formed).misses paged own miss,
          fun ready => ⟨fun v host formed => (a formed).asksHost ready host, ?_⟩⟩
        intro bad1 bad2 s2 s3 l bs here plain formed taken source calm3 hbs
        obtain ⟨t, run, mem, rest⟩ := (a formed).reads ready rfl here plain taken source calm3 hbs
        exact ⟨t, run, by rw [mem], rest⟩
      · have a : SentAhead c i pc num s d w q := { h with found := found, miss := miss, sent := sent, data := data, alone := alone, host := host }
        exact ⟨fun bs formed len => a.returned formed len, a.hostError rfl⟩
    · exact runAhead_rests rest calm formed off

end Sys2Proof.Machine
end
